-- ==== Sys2Proof/Word.lean ====
section
/-! DEFINITION. The word types of the manual (spec/00: bits, words and byte order) and the sparse table type that
holds every numbered collection of the machine. -/

namespace Sys2Proof

/-- A 32-bit register word (R52). -/
abbrev Word := BitVec 32

/-- A byte (R12). -/
abbrev Byte := BitVec 8

/-- A 64-bit payload. -/
abbrev DWord := BitVec 64

/-- A native word of 72 bits (spec/00, numbers and units). -/
abbrev Native := BitVec 72

/-- A requester ID that the device issues: 0–240 (R44; 241–255 are never issued). -/
abbrev Req := Fin 241

/-- A sparse table: keys strictly rising, no entry at its default. An unlisted key holds the default. -/
abbrev Tab (α : Type) := List (Nat × α)

/-- The window an access to a register goes through: the normal window or one of the aliases (R49). -/
inductive Alias where
  | normal | set | clear | toggle
  deriving DecidableEq, Repr

/-- The write of one 32-bit word that a requester presents to a register. -/
structure Acc where
  req : Req
  win : Alias
  data : Word
  deriving DecidableEq, Repr

end Sys2Proof
end

