-- ==== Sys2Proof/Syntax.lean ====
section
/-! DEFINITION. The commands of the block: one constructor per row of spec/opcode_table.json, with the operands that a
command brings from outside (an instance, a requester's word, a packet, a measured value). -/

namespace Sys2Proof

/-- An upset of stored register bits since the parity checker's last visit: the register's frame offset, the requester
whose copy it strikes (for registers held separately), and the bits flipped. -/
structure Upset where
  offset : Nat
  copy : Option Req
  mask : Word
  deriving DecidableEq, Repr

/-- What a received PTP message brings (spec/03 R89): its port, domain number, transport, log interval, and its time in
ns since the PTP epoch with corrections applied. -/
structure PtpMsg where
  port : Fin 24
  number : Nat
  ipv6 : Bool
  logInterval : Int
  time : Int
  deriving DecidableEq, Repr


/-- What an SPS states of its stream (spec/10 R448, R449): whether profile, tier and level are supported (R290, R291),
size, chroma format, depth, sps_max_dec_pic_buffering_minus1 and sps_max_num_reorder_pics of the highest temporal layer,
and the number of views. -/
structure SpsInfo where
  supported : Bool
  width : Nat
  height : Nat
  chroma : Nat
  depth : Nat
  maxDec : Nat
  reorder : Nat
  views : Nat
  deriving DecidableEq, Repr

/-- What a coded unit is in its standard (ITU-T H.265, ISO/IEC 21122): a parameter set that activates, or part of a
picture with the facts that decoding it yields (spec/10 R445-R461). `refs` is the RPS: POC and long-term flag. -/
structure UnitInfo where
  sps : Option SpsInfo
  first : Bool
  view : Nat
  poc : Int
  irap : Bool
  noRasl : Bool
  noPrior : Bool
  rasl : Bool
  output : Bool
  refs : List (Int × Bool)
  ctbs : Nat
  ctbsDone : Nat
  damaged : Bool
  hash : Option Bool
  recovery : Option Int
  note : Option Bool
  deriving DecidableEq, Repr

/-- A bay-loss notice (spec/18 R741). -/
structure LossNotice where
  dev : Nat
  bay : Nat
  slot : Nat
  stagepat : Nat
  part : Nat
  outs : Nat
  deriving DecidableEq, Repr

/-- What a Stitch flit carries (spec/18 R705-R708), by class. -/
inductive StMsg where
  | join (uid clevel : Nat) (librevs : List Nat) (parent plink olink : Nat)
  | joinAnswer (uid number depth parent : Nat) (ok : Bool)
  | subscribe (stream : Nat) (on : Bool)
  | placeQuery (slot stagepat part nparts librev : Nat)
  | placeAnswer (slot : Nat) (ok : Bool)
  | shareSums (group frame wk rmin rmax rate : Nat)
  | share (group frame kbps : Nat)
  | keyAsk (stagepat out : Nat)
  | keySend (stagepat out frame : Nat)
  | loss (n : LossNotice)
  | reset
  | rraAsk (req : Nat) (wr w64 : Bool) (offset data : Nat)
  | rraAnswer (req result cause data : Nat)
  | mbx (box rmbx data tag : Nat)
  | mbxAck (box : Nat)
  | tile (chan skein ring addr : Nat) (block : List Native)
  | tilePidx (chan skein ring pidx : Nat)
  | tileCidx (chan cidx : Nat)
  | unit (stream no ts : Nat) (marker : Bool) (note : Option (Nat × Nat)) (data : List Nat)
  deriving DecidableEq, Repr

/-- A flit (spec/18 R705): class, number, acknowledgement, origin, destination and contents. -/
structure Flit where
  cls : Nat
  seq : Nat
  src : Nat
  dst : Nat
  msg : StMsg
  deriving DecidableEq, Repr

/-- The header of a received flit (spec/18 R705), with the FEC codewords corrected and uncorrectable since the last. -/
structure FlitHdr where
  seq : BitVec 12
  ack : BitVec 12
  src : Fin 64
  dst : Fin 64
  bcast : Bool
  corr : Byte
  uncorr : Byte
  deriving DecidableEq, Repr

/-- What a HELLO carries (spec/18 R710): SYS_UID, role straps, CLEVEL, DEPTH, the manager reached, and whether the sender
has chosen this link as its uplink (R711). -/
structure HelloInfo where
  uid : DWord
  role : Fin 4
  clevel : Byte
  depth : Fin 4
  mgr : Option DWord
  chose : Bool
  deriving DecidableEq, Repr

/-- What a PHASE flit carries (spec/18 R719): the realised time in ps at which its first bit left, the sender's servo state
and its RCK_FMT words, and the arrival stamp of the other end's PHASE in ps. -/
structure PhaseInfo where
  time : Int
  servo : Fin 5
  fmt : Word × Word × Word
  stamp : Option Int
  deriving DecidableEq, Repr

/-- What the memory does to one RLD access (spec/11 R479-R483, R862): stored bits upset since the last command (by bay
word, as raw masks), bits flipped on the interface at the first read and at the reread, command parity errors, and the
channel word address whose word came back when it was not the one addressed. -/
structure RldErr where
  upsets : List (Nat × BitVec 80)
  first : BitVec 80
  second : BitVec 80
  capErrs : Fin 3
  wrong : Option (BitVec 28)
  deriving DecidableEq, Repr

/-- No error. -/
def RldErr.none : RldErr := ⟨[], 0, 0, 0, Option.none⟩

/-- What a magazine identifies at attach (spec/16 R637): class code, whether namespace 1 has 4,096-byte LBAs without
metadata, whether no write cache stays on, MDTS in KiB, I/O queue pairs, blocks of the namespace, and whether a command
timed out. -/
structure MagIdent where
  cls : Nat
  lbaOk : Bool
  cacheOk : Bool
  mdts : Nat
  queues : Nat
  nblk : Nat
  timeout : Bool
  deriving DecidableEq, Repr

/-- What an NVMe read brings (spec/16 R663, R664): a block of a read stream, or a recorded picture for a coded input with
its frame number, cause, note and units. -/
inductive MagRead where
  | block (stream : Fin 16) (data : List Byte)
  | picture (slot : Fin 256) (input : Fin 16) (frame : BitVec 40) (cause : Fin 5) (note : BitVec 128)
      (units : List (List Byte))
  deriving DecidableEq, Repr

/-- What a request of a magazine addresses (spec/16 R634). -/
inductive MagTarget where
  | queue
  | landing
  | address (a : BitVec 48)
  deriving DecidableEq, Repr

/-- What a stage-share flit carries (spec/09 R435): a device's share in kb/s, or a worker's sums of W K, RATE / 4, RMAX and
RATE. -/
inductive ShareBody where
  | share (kbps : Word)
  | sums (wk rmin rmax rate : Nat)
  deriving DecidableEq, Repr

/-- The commands. -/
inductive Instr where
  /-- REGISTER_WRITE (R49). A write to a control-space register that has no row of its own, through the normal window or a set, clear or toggle alias, checked under the refusal order and applied. -/
  | registerWrite (req : Req) (off : BitVec 24) (bytes : Nat) (data : DWord)
  /-- KEYLOCK_WRITE (R65). A write to KEYLOCK grants or renews the frame's unlock, or is refused with BADKEY. -/
  | keylockWrite (req : Req) (frame : Fin 1024) (data : Word)
  /-- UNLOCK_EXPIRE (R70). LEFT counts down each fabric cycle and the unlock closes when it reaches 0. -/
  | unlockExpire (frame : Fin 1024)
  /-- CFGPAR (R74). Every 16 fabric cycles the frame's parity checker visits the next parity-carrying register and reports a mismatch. -/
  | cfgpar (frame : Fin 1024) (upsets : List Upset)
  /-- PATTERN_LOAD (R317). SYS_PLCMD OP load reads the descriptor and applies the load checks in order, placing the pattern on success. -/
  | patternLoad (req : Req) (slot : Fin 256) (addr : BitVec 48) (avail : BitVec 16)
  /-- PLACEMENT_CHECK_ANSWER (R318). The manager's answer to a worker's check-14 placement query arrives and the waiting load continues. -/
  | placementCheckAnswer (link : Fin 8) (h : FlitHdr) (slot : Fin 256) (ok : Bool)
  /-- PLACEMENT_CHECK_TIMEOUT (R318). No placement answer arrives within RRATMO µs and the waiting load fails check 14. -/
  | placementCheckTimeout
  /-- PATTERN_UNLOAD (R332). SYS_PLCMD OP unload moves the slot to UNLOADING and aborts and halts every needle of the pattern. -/
  | patternUnload (req : Req) (slot : Fin 256)
  /-- UNLOAD_COMPLETE (R333). When every needle has halted, outputs close, distributors and port are released, needles unbind and the slot becomes EMPTY. -/
  | unloadComplete (slot : Fin 256)
  /-- PTP_SYNC_RECEIVE (R98). A valid Sync of a PTP domain is taken and the servo measures offset, steps once in ACQUIRE or corrects by rate. -/
  | ptpSyncReceive (dom : Fin 2) (m : PtpMsg)
  /-- PTP_ANNOUNCE_RECEIVE (R89). A valid Announce is taken, updating grandmaster identity, stepsRemoved and synchronization metadata. -/
  | ptpAnnounceReceive (dom : Fin 2) (m : PtpMsg) (gm : DWord) (steps : BitVec 8) (tlv : Option (Int × Nat))
  /-- PTP_DELAY_RESP_RECEIVE (R89). A Delay_Resp completes an end-to-end delay measurement and updates the mean path delay. -/
  | ptpDelayRespReceive (dom : Fin 2) (m : PtpMsg)
  /-- PTP_DELAY_REQ_SEND (R561). A domain sends a Delay_Req on queue 63 of its port and stamps it. -/
  | ptpDelayReqSend (dom : Fin 2)
  /-- DOMAIN_UNAVAILABLE (R91). Three Announce or eight Sync intervals pass without a valid message and the domain becomes unavailable. -/
  | domainUnavailable (dom : Fin 2)
  /-- PTP_CFG_COMMIT (R91). A committed change of EN, PORT, DOMAIN or TRANSPORT restarts or stops the domain's reception. -/
  | ptpCfgCommit (dom : Fin 2) (a : Acc)
  /-- RCK_CTRL_COMMIT (R93). A write of RCK_CTRL selects the source, preferred domain and REF10_IN use. -/
  | rckCtrlCommit (a : Acc)
  /-- REF10_VALID (R96). REF10_IN becomes valid and, with REFSEL = 1, replaces the local oscillator as frequency base. -/
  | ref10Valid
  /-- REF10_LOSS (R96). REF10_IN leaves its frequency window or misses a cycle for 1 µs and both servos return to the local oscillator. -/
  | ref10Loss
  /-- PPS_EDGE (R97). A rising edge of PPS_IN is timestamped and its offset from the nearest second written to RCK_PPSOFS. -/
  | ppsEdge
  /-- STEP (R101). RCK_CMD OP STEP in STANDBY returns the servo to ACQUIRE; in other modes it is refused. -/
  | rckStep (req : Req)
  /-- DISARM (R115). RCK_CMD OP DISARM acts as a disarming commit to every slot. -/
  | rckDisarm (req : Req)
  /-- RCK_FMT_COMMIT (R109). A commit of RCK_FMT sets the format, rederives the position and disarms every slot, or is refused in running modes. -/
  | rckFmtCommit (a : Acc)
  /-- SLOT_ARM (R118). A commit of RCK_SLOT with ARM = 1 judges and arms the named slot and clears FIRED and MISSED. -/
  | slotArm (a : Acc)
  /-- SLOT_DISARM (R115). A commit of RCK_SLOT with ARM = 0 disarms the named slot, sparing a firing less than 2 µs away. -/
  | slotDisarm (a : Acc)
  /-- SLOT_FIRE (R112). Raster time reaches an armed slot's position and the slot fires its action, or is handled as missed. -/
  | slotFire (slot : Fin 512)
  /-- PHASE_PULSE_END (R122). The width of a PHASE pulse expires and the pin returns to its previous level. -/
  | phasePulseEnd (pin : Fin 16)
  /-- TIN_EDGE (R125). A chosen edge on TIN0–TIN3 is timestamped and queued, or dropped on a full queue. -/
  | tinEdge (pin : Fin 4) (fall : Bool)
  /-- TIN_QUEUE_READ (R125). A read of word 0 of RCK_TINn takes the oldest entry from the queue and latches the rest. -/
  | tinQueueRead (req : Req) (pin : Fin 4)
  /-- OSC_RECORD (R106). Every hour in LOCKED the raster clock writes an oscillator record to the Ledger. -/
  | oscRecord
  /-- SIGNAL_DETECT (R133). An enabled lane in WAIT detects a signal and enters LOCK. -/
  | signalDetect (lane : Fin 64)
  /-- BLOCK_LOCK_GAIN (R132). 64 consecutive valid sync headers give block lock and the lane enters IDENT. -/
  | blockLockGain (lane : Fin 64)
  /-- BLOCK_LOCK_LOSS (R132). 32 invalid sync headers in one 1,024-block window lose block lock. -/
  | blockLockLoss (lane : Fin 64) (signal : Bool) (bad : BitVec 16)
  /-- ALIGN_RECEIVE (R131). An ALIGN block is received and a gap in SEQ counts as a block error. -/
  | alignReceive (lane : Fin 64) (seq : BitVec 16) (bad : BitVec 16)
  /-- TRAIN_RECEIVE (R135). A received TRAIN block is judged, counting toward READY and UP or toward BONDERR. -/
  | trainReceive (lane : Fin 64) (body : BitVec 56)
  /-- TRAINING_TIMEOUT (R136). A lane not UP within TMO ms enters FAIL and increments RETRAIN. -/
  | trainingTimeout (lane : Fin 64)
  /-- FAIL_RETRY (R136). 1 ms after a training timeout the lane returns to WAIT. -/
  | failRetry (lane : Fin 64)
  /-- LANE_CTRL_COMMIT (R157). A commit of LANE_CTRL enables or reconfigures a lane and rechecks every enabled lane against its base lane. -/
  | laneCtrlCommit (lane : Fin 64) (a : Acc)
  /-- LINE_PACKET_RECEIVE (R159). A line packet closed by EOP is checked and stored, filed as missing lines, or discarded as late. -/
  | linePacketReceive (lane : Fin 64) (sop : BitVec 56) (payload : List Byte) (eop : BitVec 56)
  /-- PACKET_ABORT_CLOSE (R145). An SOP or IDLE inside an open packet closes it with LENERR. -/
  | packetAbortClose (lane : Fin 64) (sop : BitVec 56) (payload : List Byte)
  /-- TELEMETRY_RECEIVE (R148). A telemetry packet that passes its checks is passed to the Swatch of the bond. -/
  | telemetryReceive (lane : Fin 64) (sop : BitVec 56) (payload : List Byte) (eop : BitVec 56)
  /-- LINE_DEADLINE (R160). A line still missing at its deadline gets a MISSING record and E advances past it. -/
  | lineDeadline (lane : Fin 64)
  /-- LANEWORD_LAUNCH (R150). A scheduled control word is launched on its lane, with FRAME or time address filled, late if serialised. -/
  | lanewordLaunch (lane : Fin 64)
  /-- LANE_TXW_QUEUE (R152). A commit of LANE_TXW queues an unscheduled control word, or is refused when full. -/
  | laneTxwQueue (lane : Fin 64) (a : Acc)
  /-- TXW_SEND (R152). A queued word is sent once no scheduled word is due within 16 block periods. -/
  | txwSend (lane : Fin 64)
  /-- LFI_READ (R166). A READ on an LFI port returns the next words, stalling until a record is readable. -/
  | lfiRead (base : Fin 64) (port : Fin 2) (words : BitVec 14)
  /-- LFI_MARK (R166). MARK sets the port's mark at the start of the current line. -/
  | lfiMark (base : Fin 64) (port : Fin 2)
  /-- LFI_REWIND (R166). REWIND returns the port's read position to the mark. -/
  | lfiRewind (base : Fin 64) (port : Fin 2)
  /-- LFI_RELEASE (R166). RELEASE frees every line before the current one and may return a bank. -/
  | lfiRelease (base : Fin 64) (port : Fin 2)
  /-- LFI_DROP (R166). DROP moves the port to the next record, freeing the rest of the line in MODE 1. -/
  | lfiDrop (base : Fin 64) (port : Fin 2)
  /-- FLUSH (R168). LFI_CMD FLUSH discards all records and returns both banks. -/
  | lfiFlush (req : Req) (lfi : Fin 64)
  /-- LFI_IDLE_NOTICE (R171). An enabled port that has not read an unfinished readable record for IDLE µs raises LFIIDLE. -/
  | lfiIdleNotice (lfi : Fin 64)
  /-- SWT_BUF_QUEUE (R178). A write of SWT_BUFn queues a Stall handle for Swatch records. -/
  | swtBufQueue (swt : Fin 64) (a : Acc)
  /-- DISTRIBUTOR_LINE_DELIVER (R193). A distributor reads the next line once every target needle has a free slot and writes it into their rings. -/
  | distributorLineDeliver (skein : Fin 16) (dist : Fin 2)
  /-- MICRO_WORD_EXECUTE (R244). An N micro-word starts the nano routine at NIDX with VW, AW and MK latched. -/
  | microWordExecute (needle : Fin 128)
  /-- NOP (R245). A NOP micro-word does nothing. -/
  | microNop (needle : Fin 128)
  /-- JUMP (R245). JUMP continues at the target micro PC. -/
  | microJump (needle : Fin 128)
  /-- CALL (R251). CALL pushes the next micro PC and continues at the target, or faults USTACK when full. -/
  | microCall (needle : Fin 128)
  /-- RET (R251). RET pops a micro PC and continues there, or faults USTACK when empty. -/
  | microRet (needle : Fin 128)
  /-- DISPATCH (R248). DISPATCH branches to a fetch word chosen by condition group bits. -/
  | microDispatch (needle : Fin 128)
  /-- LOOP (R252). LOOP decrements LCk and branches while it is not zero. -/
  | microLoop (needle : Fin 128)
  /-- SETLC (R245). SETLC loads a loop counter. -/
  | microSetlc (needle : Fin 128)
  /-- SETA (R245). SETA loads an address register with a word address. -/
  | microSeta (needle : Fin 128)
  /-- MOVA (R245). MOVA copies one address register to another. -/
  | microMova (needle : Fin 128)
  /-- WAIT (R253). WAIT stalls until an interrupt input of its mask is pending, clearing masked pending bits if ACK. -/
  | microWait (needle : Fin 128)
  /-- RETE (R255). RETE returns from an event to the event PC and clears EXC. -/
  | microRete (needle : Fin 128)
  /-- HORIZ (R276). HORIZ saves HRET and begins horizontal execution at its address. -/
  | microHoriz (needle : Fin 128)
  /-- TRAP (R257). TRAP raises the fault TRAP with its code. -/
  | microTrap (needle : Fin 128)
  /-- STOP (R257). STOP enters HALT at its own boundary. -/
  | microStop (needle : Fin 128)
  /-- GNOTE (R257). GNOTE sends Vv to the Gauge as a report, stalling while the report queue is full. -/
  | microGnote (needle : Fin 128)
  /-- NANO_WORD_EXECUTE (R258). One nano-word drives the vector slots, memory operation, unit command, DSET and sequencing in one NCLK. -/
  | nanoWordExecute (needle : Fin 128)
  /-- XFER_COMPLETE (R190). A transfer completes in issue order, raising XDONE if marked, or stops with XERR on a bus error. -/
  | xferComplete (needle : Fin 128)
  /-- HORIZ_WORD_EXECUTE (R273). One 144-bit horizontal word executes over 2 NCLK with its sequencing and datapath fields. -/
  | horizWordExecute (needle : Fin 128)
  /-- SAFEGAP (R226). 48 nano-cycles without a sampling point force one and raise SAFEGAP. -/
  | safegap (needle : Fin 128)
  /-- NANORUN (R227). A nano routine still running after 4,096 nano-cycles raises NANORUN. -/
  | nanorun (needle : Fin 128)
  /-- NEEDLE_TIMER_EXPIRE (R214). The needle's cycle timer expires and raises interrupt input TIMER. -/
  | needleTimerExpire (needle : Fin 128)
  /-- HALT (R228). NDL_CMD HALT stops the needle at its next sampling point. -/
  | ndlHalt (req : Req) (needle : Fin 128)
  /-- RESUME (R256). NDL_CMD RESUME enters the fault or abort vector from FAULT or HALT. -/
  | ndlResume (req : Req) (needle : Fin 128)
  /-- ABORT (R220). NDL_CMD ABORT makes an abort with cause command pending. -/
  | ndlAbort (req : Req) (needle : Fin 128)
  /-- HSTART (R276). NDL_CMD HSTART starts horizontal execution at NDL_HENTRY. -/
  | ndlHstart (req : Req) (needle : Fin 128)
  /-- NDL_BELL_WRITE (R218). A write of NDL_BELL raises interrupt inputs BELL0 or BELL1. -/
  | ndlBellWrite (needle : Fin 128) (a : Acc)
  /-- LOCAL_STORE_ZERO_DONE (R234). 8,192 NCLK after a needle domain comes up its local store is zeroed and it enters IDLE. -/
  | localStoreZeroDone (needle : Fin 128)
  /-- SKEIN_ZERO_DONE (R235). 32,768 NCLK after a skein memory domain comes up its memory is zeroed and both banks are EMPTY. -/
  | skeinZeroDone (skein : Fin 16)
  /-- SKEIN_SCRUB_STEP (R204). Every 64 NCLK the skein scrubber reads and corrects the next word. -/
  | skeinScrubStep (skein : Fin 16) (upset : Option (Nat × Native))
  /-- ROW_START (R339). A stripe of a row starts coding once its lines, windows, cross-view condition and row reserve are ready. -/
  | rowStart (slot : Fin 256) (out : Fin 4) (view : Fin 16) (stripe : Fin 8) (needle : Fin 128) (window xview prep : Bool) (coded : List (List Byte))
  /-- XVLATE (R357). Two row periods after the other conditions hold, a row still lacking cross-view data is coded without inter-layer prediction. -/
  | xvlate (slot : Fin 256) (out : Fin 4) (view : Fin 16) (stripe : Fin 8)
  /-- KEY_REQUEST (R372). A write of SYS_KEYREQ requests a key picture for an output, or forwards it to the manager for a stage pattern. -/
  | keyRequest (req : Req) (slot : Fin 256) (out : Fin 4)
  /-- GAUGE_REPORT (R408). The Gauge takes an ANALYSIS or ROWEND report from its queue, charges it and may grant, rewind or finalise the row. -/
  | gaugeReport (slot : Fin 256) (coded : List (List Byte)) (intra : BitVec 16) (whole : Bool)
  /-- JOINT_ALLOCATION (R433). At line 0 of each frame the Gauge divides each local joint group's total among its members. -/
  | jointAllocation
  /-- STAGE_SHARE_SEND (R435). At frames with F mod 8 = 0 each worker sends its joint-group sums to the manager. -/
  | stageShareSend
  /-- STAGE_SHARE_RECEIVE (R435). A stage share or worker sums arrive in a CTRL flit and are applied or divided. -/
  | stageShareReceive (link : Fin 8) (h : FlitHdr) (group : BitVec 6) (frame : BitVec 40) (body : ShareBody)
  /-- STAGE_SHARE_MISSED (R436). A device without its share at line 0 keeps the last and after STMO frames falls back to local rate. -/
  | stageShareMissed (group : BitVec 6)
  /-- SEED_RECORD (R428). Every hour of RUNNING the Gauge writes an output's seed record to the Ledger. -/
  | seedRecord (slot : Fin 256) (out : Fin 4)
  /-- CODED_UNIT_RECEIVE (R441). A coded unit arrives at a coded input and is placed in its ring or discarded as overflow, duplicate or late. -/
  | codedUnitReceive (info : UnitInfo)
  /-- UNIT_LOSS_DECLARE (R443). GAPWAIT lines after a higher number arrived a missing number is declared lost. -/
  | unitLossDeclare (slot : Fin 256) (input : Fin 16)
  /-- PICTURE_CLOSE_TIMEOUT (R445). GAPWAIT after the marker or 4 × GAPWAIT after the last unit a decode picture closes. -/
  | pictureCloseTimeout (slot : Fin 256) (input : Fin 16)
  /-- DECODE_OUTPUT (R462). At line 0 of each frame a LATENCY 0 decode output passes the due picture or a repeat. -/
  | decodeOutput (slot : Fin 256) (input : Fin 16)
  /-- RLD_READ (R480). A read of an RLD word is served with correction, reread or a freeze of the bay. -/
  | rldRead (req : Req) (addr : BitVec 48) (bits : Nat) (e : RldErr)
  /-- RLD_WRITE (R471). A write to RLD is queued and completes, as a read-modify-write when narrower than a word. -/
  | rldWrite (req : Req) (addr : BitVec 48) (bits : Nat) (data : Native) (e : RldErr)
  /-- RD_WINDOW_END (R496). At the end of each RDWIN window every tracker and throttle entry is cleared. -/
  | rdWindowEnd (ch : Fin 16)
  /-- BAY_READY (R476). When all four channels finish training and zero fill the bay enters READY. -/
  | bayReady (bay : Fin 4)
  /-- REFRESH (R484). A channel refreshes the next bank so that every row is refreshed within 32 ms. -/
  | rldRefresh (ch : Fin 16)
  /-- SCRUB (R485). Every 16 µs a READY channel reads and corrects the next burst. -/
  | rldScrub (ch : Fin 16) (e : RldErr)
  /-- RETRAIN_PAUSE_END (R487). A retraining procedure ends, ending the pause or failing with RLDTRN. -/
  | retrainPauseEnd (ch : Fin 16) (ok : Bool)
  /-- FORCED_RETRAIN (R490). DRIFT reaching DHARD or DUE held FORCE ms forces a quick procedure. -/
  | forcedRetrain (ch : Fin 16) (drift : BitVec 8)
  /-- RESTORE (R503). MCH_BAYCMD RESTORE moves a frozen bay to RESTORE, retrains and zeroes it and returns its buffers. -/
  | rldRestore (req : Req) (bay : Fin 4)
  /-- FREEZE (R497). MCH_BAYCMD FREEZE in SERVICE freezes a READY bay. -/
  | rldFreeze (req : Req) (bay : Fin 4)
  /-- MCH_DIAGA_WRITE (R502). A write of MCH_DIAGA issues a raw read of a frozen bay's word. -/
  | mchDiagaWrite (bay : Fin 4) (a : Acc)
  /-- DIAG_READ_COMPLETE (R502). The raw diagnostic read returns data and syndrome into MCH_DIAGR or times out. -/
  | diagReadComplete (bay : Fin 4) (upsets : List (Nat × BitVec 80)) (flip : BitVec 80) (tmo : Bool)
  /-- ALLOC (R514). ALLOC gives the lowest FREE buffer of a pool to the requester as owner. -/
  | stlAlloc (req : Req) (pool : Fin 64)
  /-- FREE (R514). FREE clears an owner hold or uses a share ticket, returning the buffer at count 0. -/
  | stlFree (req : Req) (handle : Word)
  /-- SHARE (R514). SHARE issues the next share ticket of a buffer to a recipient. -/
  | stlShare (req : Req) (handle : Word) (recipient : BitVec 8)
  /-- CHECK (R514). CHECK validates a handle, offset and length and returns the physical address. -/
  | stlCheck (req : Req) (handle : Word) (offset : BitVec 26) (lenm1 : BitVec 23)
  /-- STL_REVOKE (R526). A commit of STL_REVOKE clears every hold and ticket of a requester. -/
  | stlRevoke (a : Acc)
  /-- STL_POOL_COMMIT (R507). A commit of STL_POOLp enables or disables a pool, or is refused. -/
  | stlPoolCommit (pool : Fin 64) (a : Acc)
  /-- START (R544). A commit of PRT_DESCc with START = 1 starts a porter chain. -/
  | prtStart (req : Req) (channel : Fin 64) (addr : BitVec 48)
  /-- PRT_ABORT (R545). PRT_CMD ABORT ends the chain at the end of the current burst. -/
  | prtAbort (req : Req) (channel : Fin 64)
  /-- DESCRIPTOR_FETCH (R532). The channel reads a whole descriptor, validates it, claims an LFI port and presents CHECKs. -/
  | descriptorFetch (channel : Fin 64)
  /-- PORTER_BURST (R537). A burst reads source elements and writes completed destination elements, after the previous burst's reads returned. -/
  | porterBurst (channel : Fin 64)
  /-- FRAME_RECEIVE (R554). An Ethernet frame is received whole, checked, buffered and parsed, or discarded. -/
  | frameReceive (port : Fin 24) (data : List Byte) (fcsOk : Bool) (corr : Byte) (uncorr : Byte)
  /-- CLASSIFIER_PASS (R566). A frame passes through CT0–CT5, applying matching actions, and is delivered or recirculated. -/
  | classifierPass (bad : List (BitVec 21))
  /-- LEARN_REQUEST (R589). The flow-table engine performs a queued learning request or refresh. -/
  | learnRequest
  /-- LOOKUP (R588). FT_CMD LOOKUP finds a key and returns its entry. -/
  | ftLookup (req : Req) (key : DWord) (ktag : Byte)
  /-- INSERT (R590). FT_CMD INSERT places an entry with relocation or eviction. -/
  | ftInsert (req : Req) (key : DWord) (ktag : Byte) (result : DWord) (rtag : Byte)
  /-- DELETE (R600). FT_CMD DELETE invalidates a key's entry, both copies if moving. -/
  | ftDelete (req : Req) (key : DWord) (ktag : Byte)
  /-- READ_INDEX (R598). FT_CMD READ_INDEX returns the entry at an index. -/
  | ftReadIndex (req : Req) (index : BitVec 17)
  /-- WRITE_INDEX (R600). FT_CMD WRITE_INDEX writes an entry at an index. -/
  | ftWriteIndex (req : Req) (index : BitVec 17) (key : DWord) (ktag : Byte) (result : DWord) (rtag : Byte)
  /-- FT_FLUSH (R586). FT_CMD FLUSH invalidates every non-static entry. -/
  | ftFlush (req : Req)
  /-- EPOCH_ADVANCE (R592). Every APER × 100 ms EPOCH advances and an ageing sweep starts. -/
  | epochAdvance
  /-- AGEING_SWEEP_STEP (R592). In a spare engine step the sweep visits the next slot and ages out old entries. -/
  | ageingSweepStep
  /-- CT_ENTRY_COMMIT (R575). A commit of CT_ENTRY replaces a classifier entry whole. -/
  | ctEntryCommit (a : Acc)
  /-- SSW_TX (R585). A commit of SSW_TX queues a core's frame from a Stall buffer for a port. -/
  | sswTx (a : Acc)
  /-- ETH_LINK_UP (R551). A port's link comes up. -/
  | ethLinkUp (port : Fin 24)
  /-- ETH_LINK_DOWN (R608). A port's link goes down and its queued frames are discarded. -/
  | ethLinkDown (port : Fin 24) (block : Bool) (fec : Bool) (align : Bool)
  /-- EGRESS_SELECT (R607). When a port finishes a frame or a queue becomes eligible the port selects and starts the next frame. -/
  | egressSelect (port : Fin 24)
  /-- GATEDROP (R613). At a window close a head frame that did not fit since the opening is discarded. -/
  | gateDrop (port : Fin 24) (queue : Fin 64)
  /-- QUEUE_MONITOR_SAMPLE (R629). Every 1 µs the depth and head delay of every queue are observed. -/
  | queueMonitorSample
  /-- EG_BKT_COMMIT (R617). A commit of EG_BKT configures a bucket and fills it to BURST. -/
  | egBktCommit (a : Acc)
  /-- EG_POL_COMMIT (R626). A commit of EG_POL configures a policer with full buckets. -/
  | egPolCommit (a : Acc)
  /-- PCIE_LINK_UP (R632). A magazine link trains and the port enumerates and sets up NVMe. -/
  | pcieLinkUp (mag : Fin 16) (speed : Fin 5) (width : Fin 5) (ident : MagIdent)
  /-- MAGAZINE_SCAN (R660). The engine reads superblocks and walks the journal, recovering an open take. -/
  | magazineScan (mag : Fin 16) (sbA : List Byte) (sbB : List Byte) (journal : List (List Byte))
  /-- MAGLOST (R657). A link loss with a take open ends recording and reports MAGLOST. -/
  | magLost (mag : Fin 16)
  /-- FORMAT (R662). MAG_CMD FORMAT writes a new superblock and journal extent. -/
  | magFormat (req : Req) (mag : Fin 16) (extsh : BitVec 4)
  /-- OPEN (R646). MAG_CMD OPEN starts a take with TAKE and STREAM records. -/
  | magOpen (req : Req) (mag : Fin 16) (take : BitVec 48)
  /-- CLOSE (R646). MAG_CMD CLOSE writes CLOSE after open frames close. -/
  | magClose (req : Req) (mag : Fin 16)
  /-- DETACH (R646). MAG_CMD DETACH closes any take, deletes queues and sets ATT NONE. -/
  | magDetach (req : Req) (mag : Fin 16)
  /-- APERTURE_WRITE (R647). A 64-bit write to a raw stream aperture is parsed into lines and frames, or waits or is discarded. -/
  | apertureWrite (req : Req) (mag : Fin 16) (stream : Fin 16) (data : DWord)
  /-- LANDING_SUBMIT (R648). The engine submits landing data in writes of up to 256 KiB cut at frame ends. -/
  | landingSubmit (mag : Fin 16) (stream : Fin 16)
  /-- CODED_PICTURE_RECORD (R649). A passed-on coded picture is written to the magazine from its Stall buffer by share ticket. -/
  | codedPictureRecord (mag : Fin 16)
  /-- NVME_WRITE_COMPLETE (R650). A data write completes, allowing FRAME records, or fails with WERR. -/
  | nvmeWriteComplete (mag : Fin 16) (index : Nat) (ok : Bool)
  /-- JOURNAL_SUBMIT (R651). The next journal block is submitted when full or holding a 2 ms old record. -/
  | journalSubmit (mag : Fin 16)
  /-- JOURNAL_WRITE_COMPLETE (R655). A journal or superblock write completes, or failure ends recording on the port. -/
  | journalWriteComplete (mag : Fin 16) (ok : Bool)
  /-- MAGSLOW (R652). A raw frame not acknowledged by (F + 2, 0, 0) closes with CAUSE MAGSLOW. -/
  | magSlow (mag : Fin 16) (stream : Fin 16)
  /-- READ_APERTURE_READ (R663). A read of a read-stream aperture returns magazine blocks, waiting for them. -/
  | readApertureRead (req : Req) (mag : Fin 16) (stream : Fin 16) (bits : Nat)
  /-- MAGAZINE_INPUT_DELIVER (R665). At line 0 of frame f + D the engine delivers a recorded picture's units to a coded input. -/
  | magazineInputDeliver (slot : Fin 256) (input : Fin 16)
  /-- INBOUND_REQUEST (R634). A request from the magazine is served if addressed to allowed memory, else answered with Unsupported Request. -/
  | inboundRequest (mag : Fin 16) (target : MagTarget)
  /-- MGPERST_RELEASE (R847). 100 ms after EN becomes 1 or after a link loss MGPERST_N rises. -/
  | mgperstRelease (mag : Fin 16)
  /-- INTERRUPT_ARRIVAL (R674). An ICT source event sets its pending bit and drives its group. -/
  | interruptArrival (src : Fin 1024)
  /-- GROUP_HOLD_EXPIRE (R677). A HELD group's timer expires and it moves to OPEN. -/
  | groupHoldExpire (group : Fin 64)
  /-- CLAIM (R680). A read of ICT_CTXn_CLAIM returns and clears the best deliverable source and raises the threshold. -/
  | ictClaim (req : Req) (ctx : Fin 8)
  /-- COMPLETE (R682). A write of ICT_CTXn_COMPLETE pops the threshold stack. -/
  | ictComplete (req : Req) (ctx : Fin 8) (src : BitVec 10)
  /-- THRESHOLD_RESTORE (R682). Four fabric cycles after COMPLETE the popped threshold takes effect. -/
  | thresholdRestore (ctx : Fin 8)
  /-- ICT_SWI_WRITE (R676). A write of ICT_SWI raises SWIn sources. -/
  | ictSwiWrite (a : Acc)
  /-- MAILBOX_WRITE (R690). A commit of MBX_MSGm stores the message, sets FULL and signals the receiver. -/
  | mailboxWrite (req : Req) (box : Fin 256) (payload : DWord) (tag : Byte)
  /-- MAILBOX_READ (R694). The receiver's read of word 0 takes the message and clears FULL. -/
  | mailboxRead (req : Req) (box : Fin 256)
  /-- MAILBOX_TIMEOUT (R696). FULL held MBX_TMO µs raises TMO and MBXERR, and may report MBXCROSS. -/
  | mailboxTimeout (box : Fin 256)
  /-- SEM_LOCK_READ (R699). A read of SEM_LOCKs acquires a free semaphore or reports it held. -/
  | semLockRead (req : Req) (sem : Fin 256)
  /-- SEM_RELEASE (R701). A write of 0 by the owner releases the semaphore and raises SEMREL if wanted. -/
  | semRelease (req : Req) (sem : Fin 256)
  /-- SEM_REVOKE (R702). A commit of SEM_REVOKE releases every semaphore of a requester. -/
  | semRevoke (a : Acc)
  /-- FLIT_REPLAY (R707). A NAK makes the transmitter resend numbered flits from ACK + 1. -/
  | flitReplay (link : Fin 8) (ack : BitVec 12)
  /-- HELLO_SEND (R710). Every 10 µs an enabled link not yet settled sends HELLO. -/
  | helloSend (link : Fin 8)
  /-- HELLO (R711). A received HELLO lets a worker choose its uplink and classifies the link. -/
  | sthHello (link : Fin 8) (x : HelloInfo)
  /-- JOIN (R712). A JOIN reaching the manager is attested and given a roster number or refused. -/
  | sthJoin (link : Fin 8) (h : FlitHdr) (uid : DWord) (clevel : Byte) (via : Option (Fin 64 × Fin 8)) (olink : Fin 8) (attested : Bool)
  /-- STITCH_LINK_LOST (R713). A link out of UP for 10 ms is lost and workers below rejoin. -/
  | stitchLinkLost (link : Fin 8)
  /-- PHASE_SEND (R719). Every 64 µs a device sends PHASE on each UP down-link. -/
  | phaseSend (link : Fin 8)
  /-- PHASE_FLIT (R720). A received PHASE flit updates delay and steers a worker's raster time. -/
  | phaseFlit (link : Fin 8) (x : PhaseInfo)
  /-- PHASELOST (R721). No valid PHASE for 256 µs makes the Stitch source unavailable. -/
  | phaseLost
  /-- REMOTE_ACCESS (R723). A commit of STH_RRA sends a remote register access. -/
  | remoteAccess (req : Req) (data : DWord) (wr : Bool) (w64 : Bool) (dev : Fin 64) (offset : BitVec 24)
  /-- REMOTE_ACCESS_SERVE (R724). A target performs a remote access under its link's ID and records its origin. -/
  | remoteAccessServe (link : Fin 8) (h : FlitHdr) (origin : Byte) (wr : Bool) (w64 : Bool) (offset : BitVec 24) (data : DWord)
  /-- REMOTE_ACCESS_ANSWER (R723). The answer to a remote access arrives and updates STH_RRAR. -/
  | remoteAccessAnswer (link : Fin 8) (h : FlitHdr) (req : Req) (result : BitVec 4) (cause : BitVec 4) (data : DWord)
  /-- REMOTE_ACCESS_TIMEOUT (R726). An unanswered access ends with RESULT timeout after RRATMO µs. -/
  | remoteAccessTimeout (req : Req)
  /-- REMOTE_RESET (R727). A CTRL RESET resets the target when RRST = 1. -/
  | remoteReset (link : Fin 8) (h : FlitHdr) (straps : Word)
  /-- REMOTE_MAILBOX_DELIVER (R728). A mailbox flit arrives and writes the remote mailbox. -/
  | remoteMailboxDeliver (link : Fin 8) (h : FlitHdr) (origin : Fin 256) (box : Fin 256) (payload : DWord) (tag : Byte)
  /-- REMOTE_MAILBOX_ACK (R729). The acknowledgement returns and clears the local mailbox's FULL. -/
  | remoteMailboxAck (link : Fin 8) (h : FlitHdr) (box : Fin 256)
  /-- STITCH_UNIT_RECEIVE (R732). A STREAM flit delivers a coded unit to a subscribing input. -/
  | stitchUnitReceive (link : Fin 8) (h : FlitHdr) (stream : BitVec 16) (no : BitVec 16) (ts : Word) (marker : Bool) (note : Option (BitVec 128)) (data : List Byte)
  /-- TILE_SEND_POLL (R733). Every 256 NCLK the sender reads PIDX and sends blocks within the ring window. -/
  | tileSendPoll (chan : Fin 32)
  /-- TILE_BLOCK_RECEIVE (R734). A tile block is written into the remote ring before the new PIDX. -/
  | tileBlockReceive (link : Fin 8) (h : FlitHdr) (chan : Fin 32) (skein : Fin 16) (ring : BitVec 19) (addr : BitVec 19) (block : List Native) (pidx : Word)
  /-- TILE_CIDX_POLL (R734). Every 256 NCLK the receiver reads CIDX and reports changes. -/
  | tileCidxPoll (src : Fin 64) (chan : Fin 32)
  /-- STAGE_KEY_REQUEST (R740). A key request for a stage pattern reaches the manager and is sent to every part tagged frame + 2. -/
  | stageKeyRequest (link : Fin 8) (h : FlitHdr) (stagepat : BitVec 16) (out : Fin 4)
  /-- SYS_LOSS_READ (R741). A read of SYS_LOSS word 0 takes the oldest notice. -/
  | sysLossRead (req : Req)
  /-- PLACE (R738). STHM_PLACE PLACE checks and records a stage pattern placement. -/
  | sthPlace (req : Req) (addr : BitVec 48)
  /-- UNPLACE (R739). STHM_PLACE UNPLACE withdraws a placement. -/
  | sthUnplace (req : Req) (stagepat : BitVec 16)
  /-- FORGET (R717). STHM_PLACE FORGET returns an ABSENT roster entry to FREE. -/
  | sthForget (req : Req) (dev : Fin 64)
  /-- STHM_ADMIT (R716). A write of STHM_ADMIT admits or refuses a PENDING device. -/
  | sthmAdmit (a : Acc)
  /-- VERIFY (R758). SEC_CMD VERIFY checks a STAGE or APP image in memory and sets MSTAGE or MAPP. -/
  | secVerify (req : Req) (addr : BitVec 48)
  /-- INSTALL (R761). SEC_CMD INSTALL checks an image while writing it to the inactive flash slot and sets PENDING. -/
  | secInstall (req : Req) (addr : BitVec 48)
  /-- CONFIRM (R760). SEC_CMD CONFIRM makes pending slots active. -/
  | secConfirm (req : Req)
  /-- ADVANCE (R762). SEC_CMD ADVANCE blows rollback fuses up to its target. -/
  | secAdvance (req : Req) (target : BitVec 7)
  /-- CLAIM_OWNER (R746). SEC_CMD CLAIM writes the owner key into the owner slot. -/
  | secClaim (req : Req) (addr : BitVec 48)
  /-- EQUIV (R759). SEC_CMD EQUIV checks and accepts an equivalence table. -/
  | secEquiv (req : Req) (addr : BitVec 48)
  /-- ATTEST (R765). SEC_CMD ATTEST writes a signed attestation report. -/
  | secAttest (req : Req) (addr : BitVec 48)
  /-- KEYREV (R748). SEC_CMD KEYREV blows the KREV fuse. -/
  | secKeyrev (req : Req)
  /-- LIB (R767). SEC_NLOAD OP LIB checks a library image and starts loading one bank of the named skeins. -/
  | nloadLib (req : Req) (addr : BitVec 48) (bank : Bool) (skmask : BitVec 16)
  /-- CUST (R767). SEC_NLOAD OP CUST checks a customer image and starts loading the customer half. -/
  | nloadCust (req : Req) (addr : BitVec 48) (bank : Bool) (skmask : BitVec 16)
  /-- CLEAR (R767). SEC_NLOAD OP CLEAR empties a bank of the named skeins. -/
  | nloadClear (req : Req) (bank : Bool) (skmask : BitVec 16)
  /-- NANO_BANK_LOAD_DONE (R769). A loading bank is written and read back and becomes VALID or EMPTY, raising NLDONE. -/
  | nanoBankLoadDone (bad : BitVec 16)
  /-- SEC_BOOTGO (R756). A write of SEC_BOOTGO during a Stitch cast-on signals the BOOT image is in place. -/
  | secBootgo (a : Acc)
  /-- SECCHAL (R763). The JTAG SECCHAL instruction returns a fresh challenge. -/
  | jtagSecchal
  /-- SECUNLK (R763). The JTAG SECUNLK instruction checks an UNLOCK image and grants scopes. -/
  | jtagSecunlk (image : List Byte)
  /-- SEC_RAND_READ (R745). A read of SEC_RAND word 0 returns 64 new random bits, refused while RNGOK = 0. -/
  | secRandRead (req : Req)
  /-- RNGFAIL (R795). The random source failing its health tests reports RNGFAIL. -/
  | rngfail
  /-- CAST_ON (R757). Cast-on runs self-test, Ledger hand-off, BOOT and STAGE checks and leaves for STANDBY, UPDATE, SERVICE or FROZEN. -/
  | castOn (ok : Bool) (file : Option (List Byte)) (giveUp : Bool)
  /-- STANDBY (R782). PWR_MODECMD OP STANDBY moves the device to STANDBY where permitted. -/
  | modeStandby (req : Req)
  /-- ARM (R782). PWR_MODECMD OP ARM moves the device to ARMED where permitted. -/
  | modeArm (req : Req)
  /-- RUN (R782). PWR_MODECMD OP RUN moves ARMED to RUN. -/
  | modeRun (req : Req)
  /-- RESUME_MODE (R784). PWR_MODECMD OP RESUME leaves DEGRADED for the mode chosen by its tests. -/
  | modeResume (req : Req)
  /-- SERVICE (R782). PWR_MODECMD OP SERVICE enters SERVICE with a debug scope granted. -/
  | modeService (req : Req)
  /-- UPDATE (R782). PWR_MODECMD OP UPDATE enters UPDATE from STANDBY. -/
  | modeUpdate (req : Req)
  /-- BINDOFF (R790). PWR_MODECMD OP BINDOFF unloads, closes takes, commits the Ledger and goes to AWNING. -/
  | modeBindoff (req : Req) (stay : Bool)
  /-- BINDOFF_TIMEOUT (R790). Steps 1–3 of bind-off exceeding TMO ms leave takes open and move to the Ledger commit. -/
  | bindoffTimeout
  /-- PWR_DOMREQ_COMMIT (R775). A commit of PWR_DOMREQ requests domains up or down, checked against dependencies. -/
  | pwrDomreqCommit (w : Fin 7) (a : Acc)
  /-- DOMAIN_SWITCH_DONE (R776). A domain switch ends after 1 µs, updating DOMSTAT and raising DOMDONE at the last. -/
  | domainSwitchDone
  /-- DOMFAIL (R777). A domain not reaching power-good in 10 µs is switched off and DOMFAIL reported. -/
  | domfail
  /-- CORE_WFI_SLEEP (R778). A core with a down request executes WFI with nothing deliverable and its domain goes down. -/
  | coreWfiSleep (core : Fin 8)
  /-- WAKE_EVENT (R780). A wake request sets a core or Stitch domain request or is dropped. -/
  | wakeEvent (stitch : Bool) (idx : Fin 8)
  /-- PWR_ISOCLR (R797). A write of PWR_ISOCLR clears one isolation bit. -/
  | pwrIsoclr (a : Acc)
  /-- PWR_RESET (R782). A write of PWR_RESET with the key resets the device. -/
  | pwrReset (a : Acc) (straps : Word)
  /-- RESET_N (R835). RESET_N held low for 10 µs resets the device and its release starts CAST-ON. -/
  | resetN (low : Bool) (straps : Word)
  /-- PWRGD_FALL (R791). PWRGD falling removes power from every domain but the awning and enters AWNING. -/
  | pwrgdFall
  /-- PFW_N (R792). PFW_N asserted starts the power-fail schedule of bind-off, magazine flush and Ledger commit. -/
  | pfwN
  /-- PFW_COMMIT (R792). At 2.0 ms after PFW_N the Ledger commit begins and at 2.4 ms the device enters AWNING. -/
  | pfwCommit
  /-- PFW_MAGAZINE_CLOSE (R658). At 1.5 ms after PFW_N open frames close with CAUSE PFW and final journal blocks are submitted. -/
  | pfwMagazineClose
  /-- VAWN_UP (R782). VAWN entering specification moves OFF to AWNING. -/
  | vawnUp
  /-- VAWN_DOWN (R782). VAWN leaving specification moves the device to OFF. -/
  | vawnDown
  /-- AWNING_START (R789). 10 ms after the start conditions hold in AWNING the device enters CAST-ON. -/
  | awningStart (straps : Word)
  /-- FCL_REPORT (R796). A fault report latches its source, writes a history entry and acts by severity. -/
  | fclReport (src : Fin 31) (rise : Bool) (sub : Byte) (detail : Word) (req : Req)
  /-- FCL_CLR (R800). A commit of FCL_CLR clears latched fault bits. -/
  | fclClr (req : Req) (mask : Word) (word : BitVec 3)
  /-- FCL_SEV_WRITE (R803). A write raising a latched source's severity acts as a report of that severity. -/
  | fclSevWrite (w : Fin 16) (a : Acc)
  /-- THERMAL_REFRESH (R804). Every 1 ms TJ refreshes and THERMWARN or THERMTRIP may report. -/
  | thermalRefresh (tj : Int) (awn : Int)
  /-- LEDGER_RECORD_WRITE (R812). The Ledger writes the next queued record into the next slot, carrying live records forward. -/
  | ledgerRecordWrite (readback : Bool)
  /-- LEDGER_SCAN (R815). When the base domain comes up the Ledger reads every slot and finds its head. -/
  | ledgerScan (identity : Bool) (corrected : BitVec 16) (bad : List (Fin 57280))
  /-- LDG_UREC (R811). A commit of LDG_UREC queues a USER record. -/
  | ldgUrec (req : Req) (payload : BitVec 352)
  /-- SNAP (R820). TLY_CMD SNAP takes a Tally snapshot. -/
  | tlySnap (req : Req)
  /-- TALLY_SNAPSHOT_HOURLY (R820). Every 3,600 s of base-domain time the Tally takes a snapshot. -/
  | tallySnapshotHourly
  /-- TALLY_HISTOGRAM_SAMPLE (R818). Every second each histogram takes one sample. -/
  | tallyHistogramSample (supplies : List Int) (use : List Nat)
  /-- TALLY_LOAD (R822). At base-domain power-up the Tally loads its newest complete snapshot. -/
  | tallyLoad
  /-- TLY_INC (R818). A write of TLY_INC adds to a software counter. -/
  | tlyInc (a : Acc)
  /-- TLY_HINC (R818). A write of TLY_HINC increments a software histogram bin. -/
  | tlyHinc (a : Acc)
  /-- IDENT (R824). An awning-responder IDENT request returns the identity block and head. -/
  | rspIdent (dst : BitVec 48) (tag : Byte) (uid : DWord)
  /-- READ (R824). An awning-responder READ request returns Ledger units. -/
  | rspRead (dst : BitVec 48) (tag : Byte) (unit : BitVec 16) (count : Byte) (uid : DWord)
  /-- WAKE_REQUEST (R824). An awning-responder WAKE request makes a wake under R789. -/
  | rspWake (dst : BitVec 48) (tag : Byte) (uid : DWord)
  /-- TRAINING_FAILURE (R478). A channel whose interface training at bring-up or RESTORE fails puts its bay in FROZEN with KIND 0x4 and reports RLDTRN. -/
  | trainingFailure (ch : Fin 16)
  /-- STITCH_LINK_UP (R704). An enabled Stitch link completes physical-layer training and begins sending HELLO. -/
  | stitchLinkUp (link : Fin 8)
  /-- STITCH_LINK_DOWN (R721). A Stitch link leaves UP, counting DOWN, making the Stitch source unavailable if it is the uplink, and starting the 10 ms loss count. -/
  | stitchLinkDown (link : Fin 8)
  /-- FLIT_CRC_ERROR (R707). A received flit that fails its CRC or carries a reserved class is discarded and counted, and for numbered flits a NAK is sent. -/
  | flitCrcError (link : Fin 8) (reserved : Bool) (numbered : Bool) (corr : Byte) (uncorr : Byte)
  /-- FLIT_FORWARD (R709). A depth-1 worker forwards a flit between its uplink and its down-links in arrival order within its class. -/
  | flitForward (link : Fin 8) (h : FlitHdr) (msg : StMsg)
  /-- JOIN_ANSWER (R712). A worker receives the manager's answer to its JOIN, taking its device number and depth or setting its uplink to REFUSED, and sends any kept bay-loss notices. -/
  | joinAnswer (link : Fin 8) (h : FlitHdr) (uid : DWord) (number : Fin 64) (parent : Fin 64) (depth : Fin 4) (ok : Bool)
  /-- PLACEMENT_QUERY_RECEIVE (R318). The manager receives a worker's check-14 placement query and answers from its placements. -/
  | placementQueryReceive (link : Fin 8) (h : FlitHdr) (slot : Fin 256) (stagepat : BitVec 16) (part : Byte) (nparts : Byte) (librev : BitVec 16)
  /-- STAGE_KEY_REQUEST_RECEIVE (R740). A device holding a part of a placed stage pattern receives the manager's key request tagged frame + 2 and serves it for that frame. -/
  | stageKeyRequestReceive (link : Fin 8) (h : FlitHdr) (stagepat : BitVec 16) (out : Fin 4) (frame : BitVec 40)
  /-- BAY_LOSS_NOTICE_RECEIVE (R741). The manager receives a worker's bay-loss notice and queues it in SYS_LOSS, raising BAYLOSS or counting DROP. -/
  | bayLossNoticeReceive (link : Fin 8) (h : FlitHdr) (bay : Fin 4) (slot : Fin 256) (stagepat : BitVec 16) (part : Byte) (outs : BitVec 4)
  /-- TILE_CIDX_REPORT (R733). The sending link of a tile channel receives the receiver's CIDX report and updates CIDXr and the confirmed SENT. -/
  | tileCidxReport (link : Fin 8) (h : FlitHdr) (chan : Fin 32) (cidx : Word) (pidx : Word)
  /-- IMAGE_CHECK_COMPLETE (R751). SEC finishes hashing and the signature check of an image held by SEC_CMD or SEC_NLOAD, completing the command, entering LOADING or refusing with SECREF. -/
  | imageCheckComplete (flashOk : Bool)
  /-- NVME_READ_COMPLETE (R663). An NVMe read of magazine blocks completes, releasing waiting aperture reads or feeding a magazine input. -/
  | nvmeReadComplete (mag : Fin 16) (brings : MagRead)
  deriving DecidableEq, Repr

end Sys2Proof
end

