-- ==== Sys2Proof/Config.lean ====
section
/-! DEFINITION. What an implementation fixes and what the manual leaves open: constants without a body, so that no
proof can see a value (notes/assumptions/2.md), and the constants of the published device that are fused. -/

namespace Sys2Proof.Config

/-- The die serial number (SYS_UID, fused). -/
opaque uid : BitVec 64

/-- The compatibility level (CLEVEL, fused per stepping; R736). -/
opaque clevel : BitVec 8

/-- A value the manual leaves open, by place of use and by the running count of State. -/
opaque freeWord : Nat → Nat → BitVec 64

/-- A number the manual leaves open, from the place of use, the running count and what it may depend on. -/
opaque freeNat : Nat → Nat → List Nat → Nat

/-- A signed number the manual leaves open, from the place of use, the running count and what it may depend on. -/
opaque freeInt : Nat → Nat → List Int → Int

/-- The Boot ROM's contents (R41; the manual gives none). -/
opaque bootRom : Nat → BitVec 8

/-- The time address HH, MM, SS, FF, DF that ST 2059-1 derives (R111; the standard itself is not in the manual), from
the frame number, the frame rate, the format's offset, the domain's offset and the TLV's local offset and jam. -/
opaque timeAddress : List Int → BitVec 25

/-! The manual leaves these to the implementation or to documents it does not contain: the shape of a needle's ring of
line slots (R193), the transforms of the coded standards (R197), SATD and the order of a block's samples in memory
(R198, R269), and the entropy interface (R199, R269). -/

/-- Line slots of a ring, less one (R193). -/
opaque ringSlotsM1 : Nat

/-- The local-store word at which line slot i of a ring begins (R193). -/
opaque slotWord : Nat → BitVec 15

/-- The output words of one TXU block, from the configuration and its input words (R197). -/
opaque txuOut : Nat → List Native → List Native

/-- The SATD cost of 64 differences (R196). -/
opaque satd : List Int → Nat

/-- The place of sample k of an 8 × 8 block among the samples from its address, 6 per word (R269). -/
opaque curSample : Nat → BitVec 8

/-- Local-store words of the ENU's context store (R199). -/
opaque ctxWordsM1 : BitVec 10

/-- Output bytes of a push into the ENU: mode, context words, everything pushed since the last flush (R269). -/
opaque enuBytes : Nat → List Native → List Native → List Byte

/-- Output bytes of a flush. -/
opaque enuFlush : Nat → List Native → List Native → List Byte

/-- Decoded symbols of a push. -/
opaque enuSymbols : Nat → List Native → List Native → List Native

/-- The context store after a push. -/
opaque enuCtx : Nat → List Native → List Native → List Native

/-! Cryptography and keys (spec/19 R744; the standards themselves are not in the manual), and what the tables of a library
image say (R392, R324, R427; the manual gives no layout of them). -/

/-- SHA-384 of a byte string. -/
opaque sha384 : List Nat → BitVec 384

/-- Whether r and s sign a digest under a public point. -/
opaque ecdsaOk : List Nat → BitVec 384 → List Nat → Bool

/-- The identity key's signature of a byte string: r and s; it varies with the running count. -/
opaque identitySign : Nat → List Nat → List Nat

/-- The identity key's public point. -/
opaque identityPub : List Nat

/-- The primary Lerore image key's public point. -/
opaque primaryPub : List Nat

/-- The reserve Lerore image key's public point. -/
opaque reservePub : List Nat

/-- A figure of an export table: which one, the table, and the parameters it depends on. -/
opaque exportFigure : Nat → List Nat → List Nat → Nat

/-- The cycles per second, in M, of a PREP routine that an export table lists, by its index and an output's parameters. -/
opaque exportPrep : List Nat → Nat → List Nat → Option Nat

/-- A value of a factory seed table: which one, the table, and CHROMA, DEPTH, CTB and GOPMODE. -/
opaque factorySeed : Nat → List Nat → List Nat → Int

/-- The lines of a decoded picture, or of one JPEG XS slice, in an output's format, as packed bytes (R465; the coding
standards are not in the manual): from slot, input, output, timestamp, decoding order and slice. -/
opaque decodedLines : List Nat → List (List Nat)

/-! Limits of the coding standards (spec/07 R291, R292, R301, R302, R393; the standards are not in the manual). -/

/-- A level limit of ITU-T H.265: which one (0 MaxLumaPs, 1 MaxLumaSr, 2 MaxSliceSegmentsPerPicture, 3 MaxBR in kb/s, 4 MaxCPB
in kbit), from general_level_idc, profile, tier, chroma format, depth and whether the stream is intra only. -/
opaque levelLimit : Nat → List Nat → Nat

/-- A Capability code, level and sublevel code, size, chroma format and depth that R301 and R302 allow for JPEG XS. -/
opaque xsSupported : List Nat → Bool

end Sys2Proof.Config
end

