-- ==== Sys2Proof/Machine/Assoc.lean ====
section
/-! DEFINITION. Operations of the sparse tables that hold every numbered collection: look up, write in canonical
form, and bit fields of natural numbers. -/

namespace Sys2Proof.Machine

/-- The entry of a key, if listed. -/
def tabFind {α : Type} : Tab α → Nat → Option α
  | [], _ => none
  | (k', v) :: t, k => if k' = k then some v else tabFind t k

/-- The value of a key: its entry, or the default. -/
def tabGet {α : Type} (d : α) (m : Tab α) (k : Nat) : α := (tabFind m k).getD d

/-- Remove a key. -/
def tabErase {α : Type} : Tab α → Nat → Tab α
  | [], _ => []
  | (k', v) :: t, k => if k' = k then tabErase t k else (k', v) :: tabErase t k

/-- Put an entry in its place among rising keys. -/
def tabInsert {α : Type} : Tab α → Nat → α → Tab α
  | [], k, v => [(k, v)]
  | (k', v') :: t, k, v => if k < k' then (k, v) :: (k', v') :: t else (k', v') :: tabInsert t k v

/-- Write a key: an entry equal to the default is not listed. -/
def tabSet {α : Type} [DecidableEq α] (d : α) (m : Tab α) (k : Nat) (v : α) : Tab α :=
  if v = d then tabErase m k else tabInsert (tabErase m k) k v

/-- Change the value of a key. -/
def tabMod {α : Type} [DecidableEq α] (d : α) (m : Tab α) (k : Nat) (f : α → α) : Tab α :=
  tabSet d m k (f (tabGet d m k))

/-- Keys strictly rising from a bound. -/
def tabRising {α : Type} : Option Nat → Tab α → Bool
  | _, [] => true
  | b, (k, _) :: t => (match b with | none => true | some x => decide (x < k)) && tabRising (some k) t

/-- The canonical form: keys strictly rising and no entry at the default. -/
def tabWf {α : Type} [DecidableEq α] (d : α) (m : Tab α) : Bool :=
  tabRising none m && m.all (fun e => decide (e.2 ≠ d))

/-- Bits [lo + w - 1 : lo] of a natural number. -/
def bitsOf (x lo w : Nat) : Nat := (x >>> lo) % 2 ^ w

/-- A number with bits [lo + w - 1 : lo] replaced. -/
def setBits (x lo w v : Nat) : Nat := x - (bitsOf x lo w) * 2 ^ lo + (v % 2 ^ w) * 2 ^ lo

/-- One bit. -/
def bitAt (x i : Nat) : Bool := (x >>> i) % 2 == 1

/-- A Boolean as a number. -/
def b2n (b : Bool) : Nat := if b then 1 else 0

/-- A count that stops at its maximum (R62). -/
def satAdd (x n max : Nat) : Nat := if x + n ≥ max then max else x + n

/-- Apply a change when a condition holds. -/
def when {σ : Type} (c : Bool) (f : σ → σ) (s : σ) : σ := if c then f s else s

/-- Apply a change for each element in turn. -/
def forEach {α σ : Type} (l : List α) (f : α → σ → σ) (s : σ) : σ := l.foldl (fun t a => f a t) s

/-- Even parity of the low bits of a number. -/
def parityOf : Nat → Nat → Bool
  | 0, _ => false
  | n + 1, x => (bitAt x n) != parityOf n x

end Sys2Proof.Machine
end

