-- ==== Sys2Proof/Machine/RegMap.lean ====
section
/-! DEFINITION. The register maps of the manual as data: every block of R43, every register with its offset, words,
reset value and key guard, every field with its bits, type and legal values (R18, R853). Table rows follow the
register maps of spec/02 to spec/21 in the order of the files. -/

namespace Sys2Proof.Machine

/-- The blocks that own frames of the control space (R43). -/
inductive Blk where
  | sys | rck | ptp | lane | lfi | swt | ndl | skn | gau | mch | stl | prt | eth | ssw | ct | ft | mag | ict | mbx | sem | sth | sec | pwr | fcl | ldg | tly
  deriving DecidableEq, Repr

/-- Every register of the register maps. -/
inductive Reg where
  | SYS_ID | SYS_STEP | SYS_UID_LO | SYS_UID_HI | SYS_STRAP | SYS_RSTCAUSE
  | SYS_BERR_ALO | SYS_BERR_AHI | SYS_BERR_INFO | SYS_CFGPAR_ADDR | SYS_CFGPAR | SYS_PLCMD
  | SYS_PLSTAT | RCK_CTRL | RCK_STAT | RCK_STATE | RCK_CMD | RCK_CMDSTAT
  | RCK_FMT | RCK_NOW | RCK_OFS_A | RCK_OFS_B | RCK_RATE | RCK_PPSOFS
  | RCK_EVCNT | RCK_SLOT | RCK_SLOTQ | RCK_SLOTR | RCK_TINCFG | RCK_TIN
  | RCK_PHCFG | PTP_CFG | PTP_STAT | PTP_GM | PTP_MPD | PTP_CNT
  | LANE_CTRL | LANE_STAT | LANE_LCFG | LANE_TXW | LANE_TXS | LANE_CAM
  | LANE_CNT0 | LANE_CNT1 | LANE_CNT2 | LANE_CNT3 | LANE_LINES | LFI_CFG
  | LFI_STAT | LFI_CNT | LFI_CMD | LFI_IDLEST_LO | LFI_IDLEST_HI | SWT_CFG
  | SWT_CLIP | SWT_BUF | SWT_STAT | SWT_CNT | NDL_CTL | NDL_STAT
  | NDL_PC | NDL_CMD | NDL_HENTRY | NDL_HRANGE | NDL_BELL | NDL_XSTAT
  | NDL_FSTAT | NDL_FADDR_LO | NDL_FADDR_HI | NDL_CNT0 | NDL_CNT1 | NDL_ECC
  | SKN_NANOA | SKN_NANOB | SKN_CREVA | SKN_CREVB | SKN_MEMECC | SKN_UEADDR
  | SKN_SCRUB | SKN_NPAR | SKN_DIST0 | SKN_DIST1 | SYS_PSLOTQ | SYS_PSLOTR
  | SYS_PCOUNT | SYS_ENCQ | SYS_ENCR | SYS_KEYREQ | GAU_CTRL | GAU_OUTQ
  | GAU_OUTR | GAU_GRPQ | GAU_GRPR | GAU_CNT | SYS_DECCFG | SYS_DECQ
  | SYS_DECR | MCH_CTRL | MCH_RDCFG | MCH_STAT | MCH_ECC | MCH_CEADDR
  | MCH_TRNCNT0 | MCH_TRNCNT1 | MCH_RDCNT | MCH_RDLAST | MCH_PAR | MCH_UE
  | MCH_BAYSTAT | MCH_BAYCMD | MCH_DIAGA | MCH_DIAGR | STL_POOL | STL_PSTAT
  | STL_PCNT | STL_QUOTA | STL_USE | STL_OP | STL_RES | STL_FCAP
  | STL_CNT | STL_STAT | STL_REVOKE | PRT_CTL | PRT_DESC | PRT_CMD
  | PRT_STAT | PRT_CUR | PRT_RESID | PRT_DDONE | PRT_EADDR | PRT_GSTAT
  | PRT_GCNT | ETH_CFG | ETH_STAT | ETH_RXCNT | ETH_TXCNT | ETH_RXERR
  | ETH_FEC | ETH_MISC | SSW_CFG | SSW_RTP | SSW_GRP | SSW_CQ
  | SSW_CQI | SSW_IDT | SSW_TX | SSW_CNT0 | SSW_CNT1 | SSW_CNT2
  | SSW_CNT3 | CT_CFG | CT_ENTRY | CT_EQ | CT_ER | FT_CFG
  | FT_CMD | FT_RES | FT_STAT | FT_CNT0 | FT_CNT1 | FT_CNT2
  | FT_CNT3 | EG_GATEEN | EG_GATE | EG_PCNT0 | EG_PCNT1 | EG_QMQ
  | EG_QMR | EG_QCFG | EG_SMPL | EG_TBASE | EG_BKT | EG_BKTQ
  | EG_BKTR | EG_POL | EG_POLQ | EG_POLR | MAG_CFG | MAG_STAT
  | MAG_CMD | MAG_CMDSTAT | MAG_INFO | MAG_CNT0 | MAG_CNT1 | MAG_SCFG
  | MAG_SSTAT | ICT_CTRL | ICT_SCFG | ICT_SQ | ICT_SR | ICT_PEND
  | ICT_GRP | ICT_GSTAT | ICT_CTX_CFG | ICT_CTX_STAT | ICT_CTX_CLAIM | ICT_CTX_COMPLETE
  | ICT_CTX_STRAND | ICT_SWI | ICT_WAKE | ICT_CNT | MBX_MSG | MBX_CFG
  | MBX_Q | MBX_R | MBX_TMO | MBX_NEXT | MBX_FULL | MBX_COLL
  | MBX_TMOF | MBX_CROSS | MBX_CNT | SEM_LOCK | SEM_OWN | SEM_REVOKE
  | SEM_CNT | STH_CTRL | STH_STAT | STH_DELAY | STH_CNT0 | STH_CNT1
  | STH_CNT2 | STH_ID | STH_SCTRL | STH_RRA | STH_RRAR | STH_RAREC
  | STH_MBXR | STH_TCH | STH_TSENT | STHM_CTRL | STHM_ADMIT | STHM_ROSTQ
  | STHM_ROSTR | STHM_PLACE | STHM_PLRES | SYS_LOSS | SEC_STAT | SEC_BOOT
  | SEC_BOOTGO | SEC_CMD | SEC_CMDSTAT | SEC_NLOAD | SEC_NRES | SEC_RAND
  | SEC_CNT | PWR_MODE | PWR_MODECMD | PWR_CMDRES | PWR_DOMREQ | PWR_DOMSTAT
  | PWR_ISO | PWR_ISOCLR | PWR_WAKEEN | PWR_RVEC | PWR_AWCFG | PWR_THERM
  | PWR_BIND | PWR_RESET | PWR_CNT | FCL_CTRL | FCL_FLT | FCL_SEV
  | FCL_CLR | FCL_HISTQ | FCL_HISTR | FCL_CNT | LDG_STAT | LDG_HEAD
  | LDG_RQ | LDG_RD | LDG_UREC | LDG_CNT0 | LDG_CNT1 | LDG_RSPCFG
  | LDG_RSPCNT | TLY_Q | TLY_R | TLY_INC | TLY_HINC | TLY_CMD
  | TLY_STAT
  deriving DecidableEq, Repr

/-- Field types of spec/00 (R/W, read-only, level, write-only, key-guarded). -/
inductive FKind where
  | rw | ro | rl | wo | kg
  deriving DecidableEq, Repr

/-- The values a field may be left at (R18). -/
inductive Legal where
  | any
  | range (a b : Nat)
  | oneOf (l : List Nat)
  | even
  deriving DecidableEq, Repr

/-- One field: its word, lowest bit, width, type, legal values, and whether R853 always judges it. -/
structure FieldInfo where
  word : Nat
  lo : Nat
  width : Nat
  kind : FKind
  legal : Legal
  always : Bool
  deriving DecidableEq, Repr

/-- One map line: frame offset, instance stride and count, words, guard, per-requester copies, whether the register
exists only in the first frame of its group (MCH4b, STH0), off state of R853 and the fields. -/
structure RegInfo where
  blk : Blk
  off : Nat
  stride : Nat
  count : Nat
  words : Nat
  guarded : Bool
  perReq : Bool
  firstOnly : Bool
  resets : List Nat
  offState : List (Nat × Nat × Nat)
  fields : List FieldInfo
  deriving DecidableEq, Repr

/-- A field named by the register maps. -/
structure FieldRef where
  reg : Reg
  word : Nat
  lo : Nat
  width : Nat
  deriving DecidableEq, Repr

/-- The map line and field table of each register. -/
def regInfo : Reg → RegInfo
  | .SYS_ID => ⟨.sys, 0x0, 0, 1, 1, false, false, false, [0x98727ab0], [],
      [⟨0, 16, 16, .ro, .any, false⟩, ⟨0, 4, 12, .ro, .any, false⟩]⟩
  | .SYS_STEP => ⟨.sys, 0x4, 0, 1, 1, false, false, false, [0x4101], [],
      [⟨0, 8, 8, .ro, .any, false⟩, ⟨0, 0, 8, .ro, .any, false⟩]⟩
  | .SYS_UID_LO => ⟨.sys, 0x8, 0, 1, 1, false, false, false, [], [],
      [⟨0, 0, 32, .ro, .any, false⟩]⟩
  | .SYS_UID_HI => ⟨.sys, 0xc, 0, 1, 1, false, false, false, [], [],
      [⟨0, 0, 32, .ro, .any, false⟩]⟩
  | .SYS_STRAP => ⟨.sys, 0x10, 0, 1, 1, false, false, false, [], [],
      [⟨0, 4, 2, .ro, .any, false⟩, ⟨0, 0, 3, .ro, .any, false⟩]⟩
  | .SYS_RSTCAUSE => ⟨.sys, 0x14, 0, 1, 1, false, false, false, [], [],
      [⟨0, 3, 1, .ro, .any, false⟩, ⟨0, 2, 1, .ro, .any, false⟩, ⟨0, 1, 1, .ro, .any, false⟩, ⟨0, 0, 1, .ro, .any, false⟩]⟩
  | .SYS_BERR_ALO => ⟨.sys, 0x20, 0, 1, 1, false, false, false, [], [],
      [⟨0, 0, 32, .ro, .any, false⟩]⟩
  | .SYS_BERR_AHI => ⟨.sys, 0x24, 0, 1, 1, false, false, false, [], [],
      [⟨0, 0, 32, .ro, .any, false⟩]⟩
  | .SYS_BERR_INFO => ⟨.sys, 0x28, 0, 1, 1, false, false, false, [0x80000000], [],
      [⟨0, 31, 1, .rw, .any, false⟩, ⟨0, 16, 15, .ro, .any, false⟩, ⟨0, 12, 1, .ro, .any, false⟩, ⟨0, 8, 4, .ro, .any, false⟩, ⟨0, 0, 8, .ro, .any, false⟩]⟩
  | .SYS_CFGPAR_ADDR => ⟨.sys, 0x30, 0, 1, 1, false, false, false, [], [],
      [⟨0, 0, 24, .ro, .any, false⟩]⟩
  | .SYS_CFGPAR => ⟨.sys, 0x34, 0, 1, 1, false, false, false, [0x80000000], [],
      [⟨0, 31, 1, .rw, .any, false⟩, ⟨0, 16, 1, .rl, .any, false⟩, ⟨0, 0, 16, .ro, .any, false⟩]⟩
  | .SYS_PLCMD => ⟨.sys, 0x100, 0, 1, 3, true, false, false, [], [],
      [⟨0, 0, 32, .kg, .any, false⟩, ⟨1, 0, 16, .kg, .any, false⟩, ⟨2, 8, 4, .kg, .oneOf [1, 2], false⟩, ⟨2, 0, 8, .kg, .any, false⟩]⟩
  | .SYS_PLSTAT => ⟨.sys, 0x110, 0, 1, 1, false, false, false, [], [],
      [⟨0, 31, 1, .rl, .any, false⟩, ⟨0, 16, 8, .ro, .any, false⟩, ⟨0, 8, 8, .ro, .any, false⟩, ⟨0, 4, 4, .ro, .any, false⟩, ⟨0, 0, 4, .ro, .any, false⟩]⟩
  | .RCK_CTRL => ⟨.rck, 0x0, 0, 1, 1, true, false, false, [], [],
      [⟨0, 3, 1, .kg, .any, false⟩, ⟨0, 2, 1, .kg, .any, false⟩, ⟨0, 0, 2, .kg, .range 0 2, false⟩]⟩
  | .RCK_STAT => ⟨.rck, 0x4, 0, 1, 1, false, false, false, [], [],
      [⟨0, 8, 1, .rl, .any, false⟩, ⟨0, 7, 1, .rl, .any, false⟩, ⟨0, 6, 1, .rl, .any, false⟩, ⟨0, 5, 1, .rl, .any, false⟩, ⟨0, 4, 1, .rl, .any, false⟩, ⟨0, 2, 2, .rl, .any, false⟩]⟩
  | .RCK_STATE => ⟨.rck, 0x8, 0, 1, 1, false, false, false, [], [],
      [⟨0, 0, 4, .rl, .any, false⟩]⟩
  | .RCK_CMD => ⟨.rck, 0x10, 0, 1, 1, true, false, false, [], [],
      [⟨0, 0, 4, .kg, .oneOf [1, 2], false⟩]⟩
  | .RCK_CMDSTAT => ⟨.rck, 0x14, 0, 1, 1, false, false, false, [], [],
      [⟨0, 0, 4, .ro, .any, false⟩]⟩
  | .RCK_FMT => ⟨.rck, 0x20, 0, 1, 3, true, false, false, [], [],
      [⟨0, 0, 18, .kg, .range 1000 240000, false⟩, ⟨1, 31, 1, .kg, .any, false⟩, ⟨1, 0, 15, .kg, .range 16 16384, false⟩, ⟨2, 0, 32, .kg, .any, false⟩]⟩
  | .RCK_NOW => ⟨.rck, 0x30, 0, 1, 6, false, false, false, [], [],
      [⟨0, 12, 14, .ro, .any, false⟩, ⟨0, 0, 12, .ro, .any, false⟩, ⟨1, 0, 32, .ro, .any, false⟩, ⟨2, 0, 8, .ro, .any, false⟩, ⟨3, 0, 30, .ro, .any, false⟩, ⟨4, 0, 32, .ro, .any, false⟩, ⟨5, 0, 16, .ro, .any, false⟩]⟩
  | .RCK_OFS_A => ⟨.rck, 0x50, 0, 1, 1, false, false, false, [], [],
      [⟨0, 0, 32, .rl, .any, false⟩]⟩
  | .RCK_OFS_B => ⟨.rck, 0x54, 0, 1, 1, false, false, false, [], [],
      [⟨0, 0, 32, .rl, .any, false⟩]⟩
  | .RCK_RATE => ⟨.rck, 0x58, 0, 1, 1, false, false, false, [], [],
      [⟨0, 0, 32, .rl, .any, false⟩]⟩
  | .RCK_PPSOFS => ⟨.rck, 0x5c, 0, 1, 1, false, false, false, [], [],
      [⟨0, 0, 32, .ro, .any, false⟩]⟩
  | .RCK_EVCNT => ⟨.rck, 0x60, 0, 1, 1, false, false, false, [], [],
      [⟨0, 24, 8, .ro, .any, false⟩, ⟨0, 12, 12, .ro, .any, false⟩, ⟨0, 0, 12, .ro, .any, false⟩]⟩
  | .RCK_SLOT => ⟨.rck, 0x100, 0, 1, 5, true, false, false, [], [(4, 31, 1)],
      [⟨0, 0, 32, .kg, .any, false⟩, ⟨1, 0, 32, .kg, .any, false⟩, ⟨2, 12, 14, .kg, .any, false⟩, ⟨2, 0, 12, .kg, .any, false⟩, ⟨3, 8, 24, .kg, .any, false⟩, ⟨3, 0, 8, .kg, .any, false⟩, ⟨4, 31, 1, .kg, .any, true⟩, ⟨4, 29, 2, .kg, .range 0 1, false⟩, ⟨4, 20, 4, .kg, .any, false⟩, ⟨4, 12, 8, .kg, .any, false⟩, ⟨4, 0, 9, .kg, .any, true⟩]⟩
  | .RCK_SLOTQ => ⟨.rck, 0x120, 0, 1, 1, false, true, false, [], [],
      [⟨0, 0, 9, .rw, .any, true⟩]⟩
  | .RCK_SLOTR => ⟨.rck, 0x130, 0, 1, 5, false, false, false, [], [],
      [⟨0, 0, 32, .ro, .any, false⟩, ⟨1, 0, 32, .ro, .any, false⟩, ⟨2, 12, 14, .ro, .any, false⟩, ⟨2, 0, 12, .ro, .any, false⟩, ⟨3, 8, 24, .ro, .any, false⟩, ⟨3, 0, 8, .ro, .any, false⟩, ⟨4, 31, 1, .ro, .any, false⟩, ⟨4, 29, 2, .ro, .any, false⟩, ⟨4, 20, 4, .ro, .any, false⟩, ⟨4, 12, 8, .ro, .any, false⟩, ⟨4, 0, 9, .ro, .any, true⟩, ⟨4, 28, 1, .ro, .any, false⟩, ⟨4, 27, 1, .ro, .any, false⟩]⟩
  | .RCK_TINCFG => ⟨.rck, 0x180, 0, 1, 1, false, false, false, [], [],
      [⟨0, 16, 16, .ro, .any, false⟩, ⟨0, 0, 8, .rw, .any, false⟩]⟩
  | .RCK_TIN => ⟨.rck, 0x300, 32, 4, 6, false, false, false, [], [],
      [⟨0, 31, 1, .ro, .any, false⟩, ⟨0, 12, 14, .ro, .any, false⟩, ⟨0, 0, 12, .ro, .any, false⟩, ⟨1, 0, 32, .ro, .any, false⟩, ⟨2, 31, 1, .ro, .any, false⟩, ⟨2, 0, 30, .ro, .any, false⟩, ⟨3, 0, 32, .ro, .any, false⟩, ⟨4, 0, 8, .ro, .any, false⟩, ⟨5, 0, 16, .ro, .any, false⟩]⟩
  | .RCK_PHCFG => ⟨.rck, 0x200, 4, 16, 1, true, false, false, [], [(0, 31, 1)],
      [⟨0, 31, 1, .kg, .any, true⟩, ⟨0, 30, 1, .kg, .any, false⟩, ⟨0, 0, 12, .kg, .any, false⟩]⟩
  | .PTP_CFG => ⟨.ptp, 0x0, 0, 1, 1, true, false, false, [0x7f], [(0, 31, 1)],
      [⟨0, 31, 1, .kg, .any, true⟩, ⟨0, 28, 2, .kg, .range 0 1, false⟩, ⟨0, 16, 5, .kg, .range 0 23, false⟩, ⟨0, 0, 8, .kg, .range 0 127, false⟩]⟩
  | .PTP_STAT => ⟨.ptp, 0x4, 0, 1, 1, false, false, false, [], [],
      [⟨0, 31, 1, .rl, .any, false⟩, ⟨0, 30, 1, .rl, .any, false⟩, ⟨0, 29, 1, .rl, .any, false⟩, ⟨0, 16, 8, .rl, .any, false⟩]⟩
  | .PTP_GM => ⟨.ptp, 0x8, 0, 1, 2, false, false, false, [], [],
      [⟨0, 0, 32, .ro, .any, false⟩, ⟨1, 0, 32, .ro, .any, false⟩]⟩
  | .PTP_MPD => ⟨.ptp, 0x10, 0, 1, 1, false, false, false, [], [],
      [⟨0, 0, 32, .rl, .any, false⟩]⟩
  | .PTP_CNT => ⟨.ptp, 0x14, 0, 1, 1, false, false, false, [], [],
      [⟨0, 16, 16, .ro, .any, false⟩, ⟨0, 0, 16, .ro, .any, false⟩]⟩
  | .LANE_CTRL => ⟨.lane, 0x0, 0, 1, 1, true, false, false, [], [(0, 31, 1)],
      [⟨0, 31, 1, .kg, .any, true⟩, ⟨0, 30, 1, .kg, .any, false⟩, ⟨0, 28, 2, .kg, .any, false⟩, ⟨0, 26, 2, .kg, .range 0 2, false⟩, ⟨0, 16, 8, .kg, .range 1 255, false⟩]⟩
  | .LANE_STAT => ⟨.lane, 0x4, 0, 1, 1, false, false, false, [], [],
      [⟨0, 16, 16, .rl, .any, false⟩, ⟨0, 7, 1, .rl, .any, false⟩, ⟨0, 6, 1, .rl, .any, false⟩, ⟨0, 5, 1, .rl, .any, false⟩, ⟨0, 4, 1, .rl, .any, false⟩, ⟨0, 0, 4, .rl, .any, false⟩]⟩
  | .LANE_LCFG => ⟨.lane, 0x8, 0, 1, 2, true, false, false, [], [],
      [⟨0, 0, 16, .kg, .range 16 64512, false⟩, ⟨1, 16, 14, .kg, .range 1 16383, false⟩, ⟨1, 0, 14, .kg, .any, false⟩]⟩
  | .LANE_TXW => ⟨.lane, 0x10, 0, 1, 2, false, false, false, [], [],
      [⟨0, 0, 32, .wo, .any, false⟩, ⟨1, 0, 32, .wo, .any, false⟩]⟩
  | .LANE_TXS => ⟨.lane, 0x18, 0, 1, 1, false, false, false, [], [],
      [⟨0, 0, 3, .rl, .any, false⟩]⟩
  | .LANE_CAM => ⟨.lane, 0x1c, 0, 1, 1, false, false, false, [], [],
      [⟨0, 16, 16, .ro, .any, false⟩, ⟨0, 8, 8, .ro, .any, false⟩]⟩
  | .LANE_CNT0 => ⟨.lane, 0x20, 0, 1, 1, false, false, false, [], [],
      [⟨0, 16, 16, .ro, .any, false⟩, ⟨0, 0, 16, .ro, .any, false⟩]⟩
  | .LANE_CNT1 => ⟨.lane, 0x24, 0, 1, 1, false, false, false, [], [],
      [⟨0, 16, 16, .ro, .any, false⟩, ⟨0, 0, 16, .ro, .any, false⟩]⟩
  | .LANE_CNT2 => ⟨.lane, 0x28, 0, 1, 1, false, false, false, [], [],
      [⟨0, 24, 8, .ro, .any, false⟩, ⟨0, 16, 8, .ro, .any, false⟩, ⟨0, 0, 16, .ro, .any, false⟩]⟩
  | .LANE_CNT3 => ⟨.lane, 0x2c, 0, 1, 1, false, false, false, [], [],
      [⟨0, 16, 16, .ro, .any, false⟩, ⟨0, 0, 16, .ro, .any, false⟩]⟩
  | .LANE_LINES => ⟨.lane, 0x30, 0, 1, 1, false, false, false, [], [],
      [⟨0, 0, 32, .ro, .any, false⟩]⟩
  | .LFI_CFG => ⟨.lfi, 0x0, 16, 64, 1, true, false, false, [], [(0, 31, 1), (0, 30, 1)],
      [⟨0, 31, 1, .kg, .any, true⟩, ⟨0, 30, 1, .kg, .any, true⟩, ⟨0, 29, 1, .kg, .any, false⟩, ⟨0, 20, 9, .kg, .range 1 256, false⟩, ⟨0, 0, 12, .kg, .any, false⟩]⟩
  | .LFI_STAT => ⟨.lfi, 0x4, 16, 64, 1, false, false, false, [0xc0000000], [],
      [⟨0, 31, 1, .rl, .any, false⟩, ⟨0, 30, 1, .rl, .any, false⟩, ⟨0, 29, 1, .rl, .any, false⟩, ⟨0, 20, 9, .rl, .any, false⟩, ⟨0, 11, 9, .rl, .any, false⟩, ⟨0, 10, 1, .rl, .any, false⟩, ⟨0, 9, 1, .rl, .any, false⟩]⟩
  | .LFI_CNT => ⟨.lfi, 0x8, 16, 64, 1, false, false, false, [], [],
      [⟨0, 16, 16, .ro, .any, false⟩, ⟨0, 0, 16, .ro, .any, false⟩]⟩
  | .LFI_CMD => ⟨.lfi, 0xc, 16, 64, 1, true, false, false, [], [],
      [⟨0, 0, 4, .wo, .oneOf [1], false⟩]⟩
  | .LFI_IDLEST_LO => ⟨.lfi, 0x800, 0, 1, 1, false, false, false, [], [],
      [⟨0, 0, 32, .rl, .any, false⟩]⟩
  | .LFI_IDLEST_HI => ⟨.lfi, 0x804, 0, 1, 1, false, false, false, [], [],
      [⟨0, 0, 32, .rl, .any, false⟩]⟩
  | .SWT_CFG => ⟨.swt, 0x0, 32, 64, 1, true, false, false, [], [(0, 31, 1)],
      [⟨0, 31, 1, .kg, .any, true⟩, ⟨0, 30, 1, .kg, .any, false⟩, ⟨0, 29, 1, .kg, .any, false⟩, ⟨0, 27, 2, .kg, .any, false⟩]⟩
  | .SWT_CLIP => ⟨.swt, 0x4, 32, 64, 1, true, false, false, [0xfff], [],
      [⟨0, 16, 12, .kg, .any, false⟩, ⟨0, 0, 12, .kg, .any, false⟩]⟩
  | .SWT_BUF => ⟨.swt, 0x8, 32, 64, 1, false, false, false, [], [],
      [⟨0, 0, 32, .wo, .any, false⟩]⟩
  | .SWT_STAT => ⟨.swt, 0xc, 32, 64, 1, false, false, false, [], [],
      [⟨0, 16, 16, .ro, .any, false⟩, ⟨0, 0, 2, .rl, .any, false⟩]⟩
  | .SWT_CNT => ⟨.swt, 0x10, 32, 64, 1, false, false, false, [], [],
      [⟨0, 16, 16, .ro, .any, false⟩, ⟨0, 0, 16, .ro, .any, false⟩]⟩
  | .NDL_CTL => ⟨.ndl, 0x0, 0, 1, 1, true, false, false, [], [],
      [⟨0, 31, 1, .kg, .any, false⟩, ⟨0, 0, 8, .kg, .any, false⟩]⟩
  | .NDL_STAT => ⟨.ndl, 0x4, 0, 1, 1, false, false, false, [0x20000000], [],
      [⟨0, 28, 4, .rl, .any, false⟩, ⟨0, 27, 1, .rl, .any, false⟩, ⟨0, 26, 1, .rl, .any, false⟩, ⟨0, 25, 1, .rl, .any, false⟩, ⟨0, 16, 8, .rl, .any, false⟩, ⟨0, 0, 8, .rl, .any, false⟩]⟩
  | .NDL_PC => ⟨.ndl, 0x8, 0, 1, 1, false, false, false, [], [],
      [⟨0, 2, 15, .rl, .any, false⟩, ⟨0, 0, 2, .rl, .any, false⟩]⟩
  | .NDL_CMD => ⟨.ndl, 0xc, 0, 1, 1, true, false, false, [], [],
      [⟨0, 0, 4, .wo, .range 1 4, false⟩]⟩
  | .NDL_HENTRY => ⟨.ndl, 0x10, 0, 1, 1, true, false, false, [], [],
      [⟨0, 0, 15, .kg, .even, false⟩]⟩
  | .NDL_HRANGE => ⟨.ndl, 0x14, 0, 1, 1, false, false, false, [], [],
      [⟨0, 16, 15, .ro, .any, false⟩, ⟨0, 0, 15, .ro, .any, false⟩]⟩
  | .NDL_BELL => ⟨.ndl, 0x18, 0, 1, 1, false, false, false, [], [],
      [⟨0, 0, 2, .wo, .any, false⟩]⟩
  | .NDL_XSTAT => ⟨.ndl, 0x1c, 0, 1, 1, false, false, false, [], [],
      [⟨0, 28, 4, .ro, .any, false⟩, ⟨0, 24, 4, .ro, .any, false⟩, ⟨0, 0, 17, .ro, .any, false⟩]⟩
  | .NDL_FSTAT => ⟨.ndl, 0x20, 0, 1, 1, false, false, false, [], [],
      [⟨0, 24, 8, .ro, .any, false⟩, ⟨0, 14, 10, .ro, .any, false⟩, ⟨0, 13, 1, .ro, .any, false⟩, ⟨0, 12, 1, .ro, .any, false⟩, ⟨0, 0, 4, .ro, .any, false⟩]⟩
  | .NDL_FADDR_LO => ⟨.ndl, 0x24, 0, 1, 1, false, false, false, [], [],
      [⟨0, 0, 32, .ro, .any, false⟩]⟩
  | .NDL_FADDR_HI => ⟨.ndl, 0x28, 0, 1, 1, false, false, false, [], [],
      [⟨0, 0, 32, .ro, .any, false⟩]⟩
  | .NDL_CNT0 => ⟨.ndl, 0x30, 0, 1, 1, false, false, false, [], [],
      [⟨0, 0, 32, .ro, .any, false⟩]⟩
  | .NDL_CNT1 => ⟨.ndl, 0x34, 0, 1, 1, false, false, false, [], [],
      [⟨0, 0, 32, .ro, .any, false⟩]⟩
  | .NDL_ECC => ⟨.ndl, 0x38, 0, 1, 1, false, false, false, [], [],
      [⟨0, 16, 16, .ro, .any, false⟩, ⟨0, 0, 16, .ro, .any, false⟩]⟩
  | .SKN_NANOA => ⟨.skn, 0x0, 0, 1, 1, false, false, false, [], [],
      [⟨0, 28, 4, .rl, .any, false⟩, ⟨0, 24, 4, .rl, .any, false⟩, ⟨0, 23, 1, .rl, .any, false⟩, ⟨0, 0, 16, .rl, .any, false⟩]⟩
  | .SKN_NANOB => ⟨.skn, 0x4, 0, 1, 1, false, false, false, [], [],
      [⟨0, 28, 4, .rl, .any, false⟩, ⟨0, 24, 4, .rl, .any, false⟩, ⟨0, 23, 1, .rl, .any, false⟩, ⟨0, 0, 16, .rl, .any, false⟩]⟩
  | .SKN_CREVA => ⟨.skn, 0x8, 0, 1, 1, false, false, false, [], [],
      [⟨0, 0, 16, .rl, .any, false⟩]⟩
  | .SKN_CREVB => ⟨.skn, 0xc, 0, 1, 1, false, false, false, [], [],
      [⟨0, 0, 16, .rl, .any, false⟩]⟩
  | .SKN_MEMECC => ⟨.skn, 0x10, 0, 1, 1, false, false, false, [], [],
      [⟨0, 16, 16, .ro, .any, false⟩, ⟨0, 0, 16, .ro, .any, false⟩]⟩
  | .SKN_UEADDR => ⟨.skn, 0x14, 0, 1, 1, false, false, false, [], [],
      [⟨0, 0, 19, .ro, .any, false⟩]⟩
  | .SKN_SCRUB => ⟨.skn, 0x18, 0, 1, 1, true, false, false, [0x80000000], [(0, 31, 1)],
      [⟨0, 31, 1, .kg, .any, true⟩]⟩
  | .SKN_NPAR => ⟨.skn, 0x1c, 0, 1, 1, false, false, false, [], [],
      [⟨0, 16, 16, .ro, .any, false⟩, ⟨0, 10, 1, .ro, .any, false⟩, ⟨0, 0, 10, .ro, .any, false⟩]⟩
  | .SKN_DIST0 => ⟨.skn, 0x20, 0, 1, 1, false, false, false, [], [],
      [⟨0, 31, 1, .ro, .any, false⟩, ⟨0, 30, 1, .ro, .any, false⟩, ⟨0, 24, 6, .ro, .any, false⟩, ⟨0, 16, 8, .ro, .any, false⟩, ⟨0, 0, 8, .ro, .any, false⟩]⟩
  | .SKN_DIST1 => ⟨.skn, 0x24, 0, 1, 1, false, false, false, [], [],
      [⟨0, 31, 1, .ro, .any, false⟩, ⟨0, 30, 1, .ro, .any, false⟩, ⟨0, 24, 6, .ro, .any, false⟩, ⟨0, 16, 8, .ro, .any, false⟩, ⟨0, 0, 8, .ro, .any, false⟩]⟩
  | .SYS_PSLOTQ => ⟨.sys, 0x120, 0, 1, 1, false, true, false, [], [],
      [⟨0, 0, 8, .rw, .any, false⟩]⟩
  | .SYS_PSLOTR => ⟨.sys, 0x124, 0, 1, 1, false, false, false, [], [],
      [⟨0, 28, 4, .rl, .any, false⟩, ⟨0, 24, 2, .rl, .any, false⟩, ⟨0, 16, 8, .rl, .any, false⟩, ⟨0, 0, 16, .rl, .any, false⟩]⟩
  | .SYS_PCOUNT => ⟨.sys, 0x128, 0, 1, 1, false, false, false, [], [],
      [⟨0, 16, 9, .rl, .any, false⟩, ⟨0, 0, 8, .rl, .any, false⟩]⟩
  | .SYS_ENCQ => ⟨.sys, 0x140, 0, 1, 1, false, true, false, [], [],
      [⟨0, 8, 2, .rw, .any, false⟩, ⟨0, 0, 8, .rw, .any, false⟩]⟩
  | .SYS_ENCR => ⟨.sys, 0x150, 0, 1, 5, false, false, false, [], [],
      [⟨0, 0, 32, .ro, .any, false⟩, ⟨1, 16, 16, .ro, .any, false⟩, ⟨1, 0, 16, .ro, .any, false⟩, ⟨2, 16, 16, .ro, .any, false⟩, ⟨2, 0, 16, .ro, .any, false⟩, ⟨3, 16, 16, .ro, .any, false⟩, ⟨3, 0, 16, .ro, .any, false⟩, ⟨4, 24, 8, .ro, .any, false⟩, ⟨4, 16, 8, .ro, .any, false⟩, ⟨4, 4, 12, .ro, .any, false⟩, ⟨4, 3, 1, .rl, .any, false⟩]⟩
  | .SYS_KEYREQ => ⟨.sys, 0x170, 0, 1, 1, true, false, false, [], [],
      [⟨0, 8, 2, .wo, .any, false⟩, ⟨0, 0, 8, .wo, .any, false⟩]⟩
  | .GAU_CTRL => ⟨.gau, 0x0, 0, 1, 1, true, false, false, [0xc0000040], [],
      [⟨0, 31, 1, .kg, .any, false⟩, ⟨0, 30, 1, .kg, .any, false⟩, ⟨0, 0, 8, .kg, .range 8 255, false⟩]⟩
  | .GAU_OUTQ => ⟨.gau, 0x10, 0, 1, 1, false, true, false, [], [],
      [⟨0, 8, 2, .rw, .any, false⟩, ⟨0, 0, 8, .rw, .any, false⟩]⟩
  | .GAU_OUTR => ⟨.gau, 0x20, 0, 1, 8, false, false, false, [], [],
      [⟨0, 0, 32, .ro, .any, false⟩, ⟨1, 0, 32, .ro, .any, false⟩, ⟨2, 0, 32, .ro, .any, false⟩, ⟨3, 0, 32, .ro, .any, false⟩, ⟨4, 24, 8, .ro, .any, false⟩, ⟨4, 16, 8, .rl, .any, false⟩, ⟨4, 14, 2, .ro, .any, false⟩, ⟨4, 13, 1, .rl, .any, false⟩, ⟨4, 12, 1, .rl, .any, false⟩, ⟨5, 16, 16, .ro, .any, false⟩, ⟨5, 0, 16, .ro, .any, false⟩, ⟨6, 16, 16, .ro, .any, false⟩, ⟨6, 0, 16, .ro, .any, false⟩, ⟨7, 0, 32, .ro, .any, false⟩]⟩
  | .GAU_GRPQ => ⟨.gau, 0x40, 0, 1, 1, false, true, false, [], [],
      [⟨0, 0, 8, .rw, .any, false⟩]⟩
  | .GAU_GRPR => ⟨.gau, 0x44, 0, 1, 4, false, false, false, [], [],
      [⟨0, 0, 32, .ro, .any, false⟩, ⟨1, 0, 32, .ro, .any, false⟩, ⟨2, 16, 16, .ro, .any, false⟩, ⟨2, 8, 1, .rl, .any, false⟩, ⟨2, 0, 8, .rl, .any, false⟩, ⟨3, 0, 32, .ro, .any, false⟩]⟩
  | .GAU_CNT => ⟨.gau, 0x60, 0, 1, 1, false, false, false, [], [],
      [⟨0, 16, 16, .ro, .any, false⟩, ⟨0, 8, 8, .ro, .any, false⟩, ⟨0, 0, 8, .ro, .any, false⟩]⟩
  | .SYS_DECCFG => ⟨.sys, 0x180, 0, 1, 1, true, false, false, [], [],
      [⟨0, 24, 8, .wo, .range 1 255, false⟩, ⟨0, 20, 4, .wo, .range 1 15, false⟩, ⟨0, 19, 1, .wo, .any, false⟩, ⟨0, 17, 2, .wo, .range 0 2, false⟩, ⟨0, 8, 4, .wo, .any, false⟩, ⟨0, 0, 8, .wo, .any, false⟩]⟩
  | .SYS_DECQ => ⟨.sys, 0x184, 0, 1, 1, false, true, false, [], [],
      [⟨0, 8, 4, .rw, .any, false⟩, ⟨0, 0, 8, .rw, .any, false⟩]⟩
  | .SYS_DECR => ⟨.sys, 0x190, 0, 1, 7, false, false, false, [], [],
      [⟨0, 0, 32, .ro, .any, false⟩, ⟨1, 16, 16, .ro, .any, false⟩, ⟨1, 0, 16, .ro, .any, false⟩, ⟨2, 16, 16, .ro, .any, false⟩, ⟨2, 0, 16, .ro, .any, false⟩, ⟨3, 16, 16, .ro, .any, false⟩, ⟨3, 8, 8, .ro, .any, false⟩, ⟨3, 0, 8, .ro, .any, false⟩, ⟨4, 16, 16, .ro, .any, false⟩, ⟨4, 8, 8, .ro, .any, false⟩, ⟨4, 0, 8, .ro, .any, false⟩, ⟨5, 16, 16, .ro, .any, false⟩, ⟨5, 0, 16, .ro, .any, false⟩, ⟨6, 24, 8, .ro, .any, false⟩, ⟨6, 20, 4, .ro, .any, false⟩, ⟨6, 18, 2, .ro, .any, false⟩, ⟨6, 17, 1, .rl, .any, false⟩, ⟨6, 16, 1, .rl, .any, false⟩, ⟨6, 8, 8, .ro, .any, false⟩, ⟨6, 0, 8, .ro, .any, false⟩]⟩
  | .MCH_CTRL => ⟨.mch, 0x0, 0, 1, 1, true, false, false, [0x80641428], [],
      [⟨0, 31, 1, .kg, .any, false⟩, ⟨0, 16, 8, .kg, .range 10 255, false⟩, ⟨0, 8, 8, .kg, .range 1 255, false⟩, ⟨0, 0, 8, .kg, .any, false⟩]⟩
  | .MCH_RDCFG => ⟨.mch, 0x4, 0, 1, 1, true, false, false, [0x20001040], [],
      [⟨0, 16, 16, .kg, .range 1024 65535, false⟩, ⟨0, 8, 8, .kg, .range 1 64, false⟩, ⟨0, 0, 8, .kg, .range 1 255, false⟩]⟩
  | .MCH_STAT => ⟨.mch, 0x8, 0, 1, 1, false, false, false, [], [],
      [⟨0, 28, 4, .rl, .any, false⟩, ⟨0, 27, 1, .rl, .any, false⟩, ⟨0, 26, 1, .rl, .any, false⟩, ⟨0, 8, 8, .rl, .any, false⟩]⟩
  | .MCH_ECC => ⟨.mch, 0xc, 0, 1, 1, false, false, false, [], [],
      [⟨0, 16, 16, .ro, .any, false⟩, ⟨0, 8, 8, .ro, .any, false⟩]⟩
  | .MCH_CEADDR => ⟨.mch, 0x10, 0, 1, 1, false, false, false, [], [],
      [⟨0, 0, 28, .ro, .any, false⟩]⟩
  | .MCH_TRNCNT0 => ⟨.mch, 0x14, 0, 1, 1, false, false, false, [], [],
      [⟨0, 16, 16, .ro, .any, false⟩, ⟨0, 0, 16, .ro, .any, false⟩]⟩
  | .MCH_TRNCNT1 => ⟨.mch, 0x18, 0, 1, 1, false, false, false, [], [],
      [⟨0, 16, 16, .ro, .any, false⟩, ⟨0, 8, 8, .ro, .any, false⟩, ⟨0, 0, 8, .ro, .any, false⟩]⟩
  | .MCH_RDCNT => ⟨.mch, 0x1c, 0, 1, 1, false, false, false, [], [],
      [⟨0, 16, 16, .ro, .any, false⟩, ⟨0, 8, 8, .ro, .any, false⟩, ⟨0, 0, 6, .rl, .any, false⟩]⟩
  | .MCH_RDLAST => ⟨.mch, 0x20, 0, 1, 1, false, false, false, [], [],
      [⟨0, 24, 8, .ro, .any, false⟩, ⟨0, 20, 4, .ro, .any, false⟩, ⟨0, 4, 16, .ro, .any, false⟩]⟩
  | .MCH_PAR => ⟨.mch, 0x24, 0, 1, 1, false, false, false, [], [],
      [⟨0, 16, 16, .ro, .any, false⟩]⟩
  | .MCH_UE => ⟨.mch, 0x30, 0, 1, 6, false, false, false, [], [],
      [⟨0, 31, 1, .ro, .any, false⟩, ⟨0, 28, 3, .ro, .any, false⟩, ⟨0, 0, 28, .ro, .any, false⟩, ⟨1, 24, 8, .ro, .any, false⟩, ⟨1, 16, 8, .ro, .any, false⟩, ⟨1, 8, 8, .ro, .any, false⟩, ⟨2, 0, 32, .ro, .any, false⟩, ⟨3, 0, 32, .ro, .any, false⟩, ⟨4, 0, 16, .ro, .any, false⟩, ⟨5, 16, 16, .ro, .any, false⟩, ⟨5, 0, 16, .ro, .any, false⟩]⟩
  | .MCH_BAYSTAT => ⟨.mch, 0x100, 0, 1, 1, false, false, true, [], [],
      [⟨0, 28, 4, .rl, .any, false⟩, ⟨0, 24, 2, .rl, .any, false⟩]⟩
  | .MCH_BAYCMD => ⟨.mch, 0x104, 0, 1, 1, true, false, true, [], [],
      [⟨0, 0, 4, .wo, .range 1 2, false⟩]⟩
  | .MCH_DIAGA => ⟨.mch, 0x110, 0, 1, 1, false, false, true, [], [],
      [⟨0, 0, 30, .rw, .any, false⟩]⟩
  | .MCH_DIAGR => ⟨.mch, 0x120, 0, 1, 3, false, false, true, [], [],
      [⟨0, 31, 1, .ro, .any, false⟩, ⟨0, 30, 1, .ro, .any, false⟩, ⟨0, 16, 8, .ro, .any, false⟩, ⟨0, 0, 16, .ro, .any, false⟩, ⟨1, 0, 32, .ro, .any, false⟩, ⟨2, 0, 32, .ro, .any, false⟩]⟩
  | .STL_POOL => ⟨.stl, 0x0, 16, 64, 2, true, false, false, [], [(0, 31, 1)],
      [⟨0, 31, 1, .kg, .any, true⟩, ⟨0, 26, 2, .kg, .any, false⟩, ⟨0, 21, 5, .kg, .range 12 26, false⟩, ⟨0, 0, 21, .kg, .any, false⟩, ⟨1, 0, 18, .kg, .range 0 131071, false⟩]⟩
  | .STL_PSTAT => ⟨.stl, 0x8, 16, 64, 1, false, false, false, [], [],
      [⟨0, 13, 19, .rl, .any, false⟩, ⟨0, 12, 1, .rl, .any, false⟩]⟩
  | .STL_PCNT => ⟨.stl, 0xc, 16, 64, 1, false, false, false, [], [],
      [⟨0, 16, 16, .ro, .any, false⟩, ⟨0, 0, 16, .ro, .any, false⟩]⟩
  | .STL_QUOTA => ⟨.stl, 0x400, 4, 256, 1, true, false, false, [0xffffff], [],
      [⟨0, 0, 24, .kg, .any, false⟩]⟩
  | .STL_USE => ⟨.stl, 0x800, 4, 256, 1, false, false, false, [], [],
      [⟨0, 0, 24, .rl, .any, false⟩]⟩
  | .STL_OP => ⟨.stl, 0xc00, 0, 1, 3, false, false, false, [], [],
      [⟨0, 0, 32, .wo, .any, false⟩, ⟨1, 0, 26, .wo, .any, false⟩, ⟨2, 28, 4, .wo, .range 1 4, false⟩, ⟨2, 0, 23, .wo, .any, false⟩]⟩
  | .STL_RES => ⟨.stl, 0xc10, 0, 1, 2, false, true, false, [], [],
      [⟨0, 0, 32, .ro, .any, false⟩, ⟨1, 28, 4, .ro, .any, false⟩, ⟨1, 0, 16, .ro, .any, false⟩]⟩
  | .STL_FCAP => ⟨.stl, 0xc20, 0, 1, 2, false, false, false, [0x0, 0x80000000], [],
      [⟨0, 0, 32, .ro, .any, false⟩, ⟨1, 31, 1, .rw, .any, false⟩, ⟨1, 12, 4, .ro, .any, false⟩, ⟨1, 8, 4, .ro, .any, false⟩, ⟨1, 0, 8, .ro, .any, false⟩]⟩
  | .STL_CNT => ⟨.stl, 0xc30, 0, 1, 1, false, false, false, [], [],
      [⟨0, 16, 16, .ro, .any, false⟩, ⟨0, 0, 16, .ro, .any, false⟩]⟩
  | .STL_STAT => ⟨.stl, 0xc34, 0, 1, 1, false, false, false, [], [],
      [⟨0, 14, 18, .rl, .any, false⟩, ⟨0, 0, 14, .rl, .any, false⟩]⟩
  | .STL_REVOKE => ⟨.stl, 0xc40, 0, 1, 1, true, false, false, [], [],
      [⟨0, 8, 24, .ro, .any, false⟩, ⟨0, 0, 8, .kg, .any, false⟩]⟩
  | .PRT_CTL => ⟨.prt, 0x0, 64, 16, 1, true, false, false, [], [(0, 31, 1)],
      [⟨0, 31, 1, .kg, .any, true⟩, ⟨0, 30, 1, .kg, .any, false⟩]⟩
  | .PRT_DESC => ⟨.prt, 0x4, 64, 16, 2, false, false, false, [], [],
      [⟨0, 6, 26, .rw, .any, false⟩, ⟨1, 31, 1, .wo, .any, false⟩, ⟨1, 0, 16, .rw, .any, false⟩]⟩
  | .PRT_CMD => ⟨.prt, 0xc, 64, 16, 1, false, false, false, [], [],
      [⟨0, 0, 4, .wo, .oneOf [1], false⟩]⟩
  | .PRT_STAT => ⟨.prt, 0x10, 64, 16, 1, false, false, false, [], [],
      [⟨0, 28, 4, .rl, .any, false⟩, ⟨0, 24, 4, .ro, .any, false⟩, ⟨0, 16, 8, .ro, .any, false⟩, ⟨0, 0, 16, .ro, .any, false⟩]⟩
  | .PRT_CUR => ⟨.prt, 0x14, 64, 16, 2, false, false, false, [], [],
      [⟨0, 0, 32, .rl, .any, false⟩, ⟨1, 0, 16, .rl, .any, false⟩]⟩
  | .PRT_RESID => ⟨.prt, 0x1c, 64, 16, 1, false, false, false, [], [],
      [⟨0, 0, 32, .ro, .any, false⟩]⟩
  | .PRT_DDONE => ⟨.prt, 0x20, 64, 16, 1, false, false, false, [], [],
      [⟨0, 0, 32, .ro, .any, false⟩]⟩
  | .PRT_EADDR => ⟨.prt, 0x24, 64, 16, 2, false, false, false, [], [],
      [⟨0, 0, 32, .ro, .any, false⟩, ⟨1, 0, 16, .ro, .any, false⟩]⟩
  | .PRT_GSTAT => ⟨.prt, 0x800, 0, 1, 1, false, false, false, [], [],
      [⟨0, 16, 16, .rl, .any, false⟩, ⟨0, 0, 16, .rl, .any, false⟩]⟩
  | .PRT_GCNT => ⟨.prt, 0x804, 0, 1, 1, false, false, false, [], [],
      [⟨0, 16, 16, .ro, .any, false⟩, ⟨0, 0, 16, .ro, .any, false⟩]⟩
  | .ETH_CFG => ⟨.eth, 0x0, 0, 1, 1, true, false, false, [0x5f20000], [(0, 31, 1)],
      [⟨0, 31, 1, .kg, .any, true⟩, ⟨0, 30, 1, .kg, .any, false⟩, ⟨0, 16, 14, .kg, .range 64 9216, false⟩, ⟨0, 0, 16, .kg, .any, false⟩]⟩
  | .ETH_STAT => ⟨.eth, 0x4, 0, 1, 1, false, false, false, [], [],
      [⟨0, 31, 1, .rl, .any, false⟩, ⟨0, 30, 1, .rl, .any, false⟩, ⟨0, 29, 1, .rl, .any, false⟩, ⟨0, 28, 1, .rl, .any, false⟩, ⟨0, 27, 1, .rl, .any, false⟩]⟩
  | .ETH_RXCNT => ⟨.eth, 0x8, 0, 1, 1, false, false, false, [], [],
      [⟨0, 0, 32, .ro, .any, false⟩]⟩
  | .ETH_TXCNT => ⟨.eth, 0xc, 0, 1, 1, false, false, false, [], [],
      [⟨0, 0, 32, .ro, .any, false⟩]⟩
  | .ETH_RXERR => ⟨.eth, 0x10, 0, 1, 1, false, false, false, [], [],
      [⟨0, 16, 16, .ro, .any, false⟩, ⟨0, 0, 16, .ro, .any, false⟩]⟩
  | .ETH_FEC => ⟨.eth, 0x14, 0, 1, 1, false, false, false, [], [],
      [⟨0, 16, 16, .ro, .any, false⟩, ⟨0, 0, 16, .ro, .any, false⟩]⟩
  | .ETH_MISC => ⟨.eth, 0x18, 0, 1, 1, false, false, false, [], [],
      [⟨0, 16, 16, .ro, .any, false⟩]⟩
  | .SSW_CFG => ⟨.ssw, 0x0, 0, 1, 1, true, false, false, [], [],
      [⟨0, 31, 1, .kg, .any, false⟩, ⟨0, 24, 6, .kg, .any, false⟩, ⟨0, 16, 6, .kg, .any, false⟩, ⟨0, 8, 6, .kg, .any, false⟩]⟩
  | .SSW_RTP => ⟨.ssw, 0x10, 4, 4, 1, true, false, false, [], [(0, 31, 1)],
      [⟨0, 31, 1, .kg, .any, true⟩, ⟨0, 28, 2, .kg, .any, false⟩, ⟨0, 16, 4, .kg, .any, false⟩, ⟨0, 0, 16, .kg, .any, false⟩]⟩
  | .SSW_GRP => ⟨.ssw, 0x40, 4, 32, 1, true, false, false, [], [],
      [⟨0, 31, 1, .kg, .any, false⟩, ⟨0, 24, 6, .kg, .any, false⟩, ⟨0, 0, 24, .kg, .any, false⟩]⟩
  | .SSW_CQ => ⟨.ssw, 0x100, 8, 64, 2, true, false, false, [], [(0, 31, 1)],
      [⟨0, 31, 1, .kg, .any, true⟩, ⟨0, 24, 6, .kg, .any, false⟩, ⟨0, 20, 4, .kg, .range 4 11, false⟩, ⟨0, 0, 20, .kg, .any, false⟩, ⟨1, 0, 8, .kg, .any, false⟩]⟩
  | .SSW_CQI => ⟨.ssw, 0x300, 4, 64, 1, false, false, false, [], [],
      [⟨0, 16, 12, .rl, .any, false⟩, ⟨0, 0, 12, .rw, .any, false⟩]⟩
  | .SSW_IDT => ⟨.ssw, 0x400, 4, 256, 1, false, false, false, [], [],
      [⟨0, 0, 32, .rw, .any, false⟩]⟩
  | .SSW_TX => ⟨.ssw, 0x800, 0, 1, 3, false, false, false, [], [],
      [⟨0, 0, 32, .wo, .any, false⟩, ⟨1, 0, 16, .wo, .any, false⟩, ⟨2, 27, 5, .wo, .range 0 23, false⟩, ⟨2, 21, 6, .wo, .any, false⟩]⟩
  | .SSW_CNT0 => ⟨.ssw, 0x900, 0, 1, 1, false, false, false, [], [],
      [⟨0, 16, 16, .ro, .any, false⟩, ⟨0, 0, 16, .ro, .any, false⟩]⟩
  | .SSW_CNT1 => ⟨.ssw, 0x904, 0, 1, 1, false, false, false, [], [],
      [⟨0, 16, 16, .ro, .any, false⟩, ⟨0, 0, 16, .ro, .any, false⟩]⟩
  | .SSW_CNT2 => ⟨.ssw, 0x908, 0, 1, 1, false, false, false, [], [],
      [⟨0, 16, 16, .ro, .any, false⟩, ⟨0, 8, 8, .ro, .any, false⟩, ⟨0, 0, 8, .ro, .any, false⟩]⟩
  | .SSW_CNT3 => ⟨.ssw, 0x90c, 0, 1, 1, false, false, false, [], [],
      [⟨0, 16, 16, .ro, .any, false⟩, ⟨0, 0, 16, .ro, .any, false⟩]⟩
  | .CT_CFG => ⟨.ct, 0x0, 4, 6, 1, true, false, false, [], [(0, 31, 1)],
      [⟨0, 31, 1, .kg, .any, true⟩, ⟨0, 18, 6, .kg, .any, false⟩, ⟨0, 12, 6, .kg, .any, false⟩, ⟨0, 6, 6, .kg, .any, false⟩, ⟨0, 0, 6, .kg, .any, false⟩]⟩
  | .CT_ENTRY => ⟨.ct, 0x100, 0, 1, 13, true, false, false, [], [],
      [⟨0, 0, 32, .kg, .any, false⟩, ⟨1, 0, 32, .kg, .any, false⟩, ⟨2, 0, 32, .kg, .any, false⟩, ⟨3, 0, 32, .kg, .any, false⟩, ⟨4, 0, 32, .kg, .any, false⟩, ⟨5, 0, 32, .kg, .any, false⟩, ⟨6, 0, 32, .kg, .any, false⟩, ⟨7, 0, 32, .kg, .any, false⟩, ⟨8, 0, 32, .kg, .any, false⟩, ⟨9, 0, 32, .kg, .any, false⟩, ⟨10, 0, 32, .kg, .any, false⟩, ⟨11, 0, 32, .kg, .any, false⟩, ⟨12, 31, 1, .kg, .any, false⟩, ⟨12, 8, 3, .kg, .range 0 5, true⟩, ⟨12, 0, 8, .kg, .any, true⟩]⟩
  | .CT_EQ => ⟨.ct, 0x140, 0, 1, 1, false, true, false, [], [],
      [⟨0, 8, 3, .rw, .range 0 5, true⟩, ⟨0, 0, 8, .rw, .any, true⟩]⟩
  | .CT_ER => ⟨.ct, 0x150, 0, 1, 14, false, false, false, [], [],
      [⟨0, 0, 32, .ro, .any, false⟩, ⟨1, 0, 32, .ro, .any, false⟩, ⟨2, 0, 32, .ro, .any, false⟩, ⟨3, 0, 32, .ro, .any, false⟩, ⟨4, 0, 32, .ro, .any, false⟩, ⟨5, 0, 32, .ro, .any, false⟩, ⟨6, 0, 32, .ro, .any, false⟩, ⟨7, 0, 32, .ro, .any, false⟩, ⟨8, 0, 32, .ro, .any, false⟩, ⟨9, 0, 32, .ro, .any, false⟩, ⟨10, 0, 32, .ro, .any, false⟩, ⟨11, 0, 32, .ro, .any, false⟩, ⟨12, 31, 1, .ro, .any, false⟩, ⟨13, 0, 32, .ro, .any, false⟩]⟩
  | .FT_CFG => ⟨.ft, 0x0, 0, 1, 1, true, false, false, [0x3149601], [],
      [⟨0, 24, 2, .kg, .any, false⟩, ⟨0, 16, 8, .kg, .range 1 255, false⟩, ⟨0, 8, 8, .kg, .range 1 254, false⟩, ⟨0, 0, 1, .kg, .any, false⟩]⟩
  | .FT_CMD => ⟨.ft, 0x10, 0, 1, 7, false, false, false, [], [],
      [⟨0, 0, 32, .wo, .any, false⟩, ⟨1, 0, 32, .wo, .any, false⟩, ⟨2, 0, 8, .wo, .any, false⟩, ⟨3, 0, 32, .wo, .any, false⟩, ⟨4, 0, 32, .wo, .any, false⟩, ⟨5, 0, 8, .wo, .any, false⟩, ⟨6, 28, 4, .wo, .range 1 6, false⟩, ⟨6, 0, 17, .wo, .any, true⟩]⟩
  | .FT_RES => ⟨.ft, 0x30, 0, 1, 8, false, true, false, [], [],
      [⟨0, 28, 4, .ro, .any, false⟩, ⟨0, 27, 1, .ro, .any, false⟩, ⟨0, 26, 1, .ro, .any, false⟩, ⟨0, 0, 17, .ro, .any, true⟩, ⟨1, 0, 17, .ro, .any, false⟩, ⟨2, 0, 32, .ro, .any, false⟩, ⟨3, 0, 32, .ro, .any, false⟩, ⟨4, 0, 32, .ro, .any, false⟩, ⟨5, 0, 32, .ro, .any, false⟩, ⟨6, 0, 32, .ro, .any, false⟩, ⟨7, 0, 32, .ro, .any, false⟩]⟩
  | .FT_STAT => ⟨.ft, 0x50, 0, 1, 1, false, false, false, [], [],
      [⟨0, 31, 1, .rl, .any, false⟩, ⟨0, 18, 8, .rl, .any, false⟩, ⟨0, 0, 18, .rl, .any, false⟩]⟩
  | .FT_CNT0 => ⟨.ft, 0x54, 0, 1, 1, false, false, false, [], [],
      [⟨0, 16, 16, .ro, .any, false⟩, ⟨0, 0, 16, .ro, .any, false⟩]⟩
  | .FT_CNT1 => ⟨.ft, 0x58, 0, 1, 1, false, false, false, [], [],
      [⟨0, 16, 16, .ro, .any, false⟩, ⟨0, 0, 16, .ro, .any, false⟩]⟩
  | .FT_CNT2 => ⟨.ft, 0x5c, 0, 1, 1, false, false, false, [], [],
      [⟨0, 16, 16, .ro, .any, false⟩, ⟨0, 8, 8, .ro, .any, false⟩, ⟨0, 0, 8, .ro, .any, false⟩]⟩
  | .FT_CNT3 => ⟨.ft, 0x60, 0, 1, 1, false, false, false, [], [],
      [⟨0, 16, 16, .ro, .any, false⟩, ⟨0, 8, 8, .ro, .any, false⟩, ⟨0, 0, 8, .ro, .any, false⟩]⟩
  | .EG_GATEEN => ⟨.eth, 0x20, 0, 1, 2, true, false, false, [], [],
      [⟨0, 0, 32, .kg, .any, false⟩, ⟨1, 0, 32, .kg, .any, false⟩]⟩
  | .EG_GATE => ⟨.eth, 0x28, 0, 1, 2, false, false, false, [], [],
      [⟨0, 0, 32, .rl, .any, false⟩, ⟨1, 0, 32, .rl, .any, false⟩]⟩
  | .EG_PCNT0 => ⟨.eth, 0x30, 0, 1, 1, false, false, false, [], [],
      [⟨0, 16, 16, .ro, .any, false⟩, ⟨0, 8, 8, .ro, .any, false⟩, ⟨0, 0, 8, .ro, .any, false⟩]⟩
  | .EG_PCNT1 => ⟨.eth, 0x34, 0, 1, 1, false, false, false, [], [],
      [⟨0, 16, 16, .ro, .any, false⟩, ⟨0, 0, 16, .ro, .any, false⟩]⟩
  | .EG_QMQ => ⟨.eth, 0x40, 0, 1, 1, false, true, false, [], [],
      [⟨0, 0, 6, .rw, .any, false⟩]⟩
  | .EG_QMR => ⟨.eth, 0x50, 0, 1, 5, false, false, false, [], [],
      [⟨0, 0, 32, .ro, .any, false⟩, ⟨1, 0, 32, .ro, .any, false⟩, ⟨2, 0, 32, .ro, .any, false⟩, ⟨3, 0, 32, .ro, .any, false⟩, ⟨4, 16, 16, .ro, .any, false⟩]⟩
  | .EG_QCFG => ⟨.eth, 0x100, 4, 64, 1, true, false, false, [0x1000020], [],
      [⟨0, 24, 8, .kg, .range 1 255, false⟩, ⟨0, 0, 10, .kg, .range 1 512, false⟩]⟩
  | .EG_SMPL => ⟨.ssw, 0xa00, 0, 1, 1, true, false, false, [0x3e8], [],
      [⟨0, 0, 16, .kg, .range 1 65535, false⟩]⟩
  | .EG_TBASE => ⟨.ssw, 0xa04, 0, 1, 1, true, false, false, [], [],
      [⟨0, 0, 16, .kg, .any, false⟩]⟩
  | .EG_BKT => ⟨.ssw, 0xa10, 0, 1, 5, true, false, false, [], [(1, 30, 2)],
      [⟨0, 0, 32, .kg, .any, false⟩, ⟨1, 30, 2, .kg, .range 0 2, true⟩, ⟨1, 0, 24, .kg, .any, false⟩, ⟨2, 16, 16, .kg, .any, false⟩, ⟨3, 12, 14, .kg, .any, false⟩, ⟨3, 0, 12, .kg, .any, false⟩, ⟨4, 0, 14, .kg, .any, true⟩]⟩
  | .EG_BKTQ => ⟨.ssw, 0xa30, 0, 1, 1, false, true, false, [], [],
      [⟨0, 0, 14, .rw, .any, true⟩]⟩
  | .EG_BKTR => ⟨.ssw, 0xa34, 0, 1, 2, false, false, false, [], [],
      [⟨0, 0, 32, .rl, .any, false⟩, ⟨1, 0, 32, .ro, .any, false⟩]⟩
  | .EG_POL => ⟨.ssw, 0xa40, 0, 1, 5, true, false, false, [], [(4, 30, 2)],
      [⟨0, 0, 32, .kg, .any, false⟩, ⟨1, 0, 32, .kg, .any, false⟩, ⟨2, 0, 24, .kg, .any, false⟩, ⟨3, 0, 24, .kg, .any, false⟩, ⟨4, 30, 2, .kg, .range 0 2, true⟩, ⟨4, 29, 1, .kg, .any, false⟩, ⟨4, 28, 1, .kg, .any, false⟩, ⟨4, 0, 10, .kg, .any, true⟩]⟩
  | .EG_POLQ => ⟨.ssw, 0xa60, 0, 1, 1, false, true, false, [], [],
      [⟨0, 0, 10, .rw, .any, true⟩]⟩
  | .EG_POLR => ⟨.ssw, 0xa64, 0, 1, 3, false, false, false, [], [],
      [⟨0, 0, 32, .ro, .any, false⟩, ⟨1, 0, 32, .ro, .any, false⟩, ⟨2, 0, 32, .ro, .any, false⟩]⟩
  | .MAG_CFG => ⟨.mag, 0x0, 0, 1, 1, true, false, false, [0x3000000], [(0, 31, 1)],
      [⟨0, 31, 1, .kg, .any, true⟩, ⟨0, 30, 1, .kg, .any, false⟩, ⟨0, 29, 1, .kg, .any, false⟩, ⟨0, 24, 4, .kg, .range 1 15, false⟩]⟩
  | .MAG_STAT => ⟨.mag, 0x4, 0, 1, 1, false, false, false, [], [],
      [⟨0, 28, 4, .rl, .any, false⟩, ⟨0, 24, 4, .rl, .any, false⟩, ⟨0, 20, 4, .rl, .any, false⟩, ⟨0, 16, 4, .rl, .any, false⟩, ⟨0, 15, 1, .rl, .any, false⟩, ⟨0, 14, 1, .rl, .any, false⟩, ⟨0, 13, 1, .rl, .any, false⟩]⟩
  | .MAG_CMD => ⟨.mag, 0x10, 0, 1, 3, true, false, false, [], [],
      [⟨0, 0, 32, .kg, .any, false⟩, ⟨1, 0, 16, .kg, .any, false⟩, ⟨2, 28, 4, .kg, .range 1 4, false⟩, ⟨2, 8, 4, .kg, .any, false⟩]⟩
  | .MAG_CMDSTAT => ⟨.mag, 0x1c, 0, 1, 1, false, false, false, [], [],
      [⟨0, 31, 1, .rl, .any, false⟩, ⟨0, 0, 4, .ro, .any, false⟩]⟩
  | .MAG_INFO => ⟨.mag, 0x20, 0, 1, 6, false, false, false, [], [],
      [⟨0, 0, 32, .ro, .any, false⟩, ⟨1, 0, 16, .ro, .any, false⟩, ⟨2, 0, 32, .ro, .any, false⟩, ⟨3, 28, 4, .ro, .any, false⟩, ⟨3, 0, 16, .ro, .any, false⟩, ⟨4, 0, 32, .ro, .any, false⟩, ⟨5, 0, 32, .ro, .any, false⟩]⟩
  | .MAG_CNT0 => ⟨.mag, 0x40, 0, 1, 1, false, false, false, [], [],
      [⟨0, 16, 16, .ro, .any, false⟩, ⟨0, 8, 8, .ro, .any, false⟩, ⟨0, 0, 8, .ro, .any, false⟩]⟩
  | .MAG_CNT1 => ⟨.mag, 0x44, 0, 1, 1, false, false, false, [], [],
      [⟨0, 16, 16, .ro, .any, false⟩, ⟨0, 0, 16, .ro, .any, false⟩]⟩
  | .MAG_SCFG => ⟨.mag, 0x100, 16, 16, 3, true, false, false, [], [(0, 31, 1)],
      [⟨0, 31, 1, .kg, .any, true⟩, ⟨0, 29, 2, .kg, .range 1 3, false⟩, ⟨0, 16, 8, .kg, .any, false⟩, ⟨0, 14, 2, .kg, .any, false⟩, ⟨0, 0, 14, .kg, .any, false⟩, ⟨1, 0, 32, .kg, .any, false⟩, ⟨2, 0, 16, .kg, .any, false⟩]⟩
  | .MAG_SSTAT => ⟨.mag, 0x200, 8, 16, 2, false, false, false, [], [],
      [⟨0, 0, 32, .ro, .any, false⟩, ⟨1, 16, 16, .ro, .any, false⟩, ⟨1, 8, 8, .ro, .any, false⟩, ⟨1, 0, 8, .ro, .any, false⟩]⟩
  | .ICT_CTRL => ⟨.ict, 0x0, 0, 1, 1, true, false, false, [], [],
      [⟨0, 31, 1, .kg, .any, false⟩]⟩
  | .ICT_SCFG => ⟨.ict, 0x10, 0, 1, 2, true, false, false, [], [],
      [⟨0, 16, 6, .kg, .any, false⟩, ⟨0, 8, 3, .kg, .any, false⟩, ⟨0, 0, 8, .kg, .any, false⟩, ⟨1, 0, 10, .kg, .range 1 802, true⟩]⟩
  | .ICT_SQ => ⟨.ict, 0x20, 0, 1, 1, false, true, false, [], [],
      [⟨0, 0, 10, .rw, .any, true⟩]⟩
  | .ICT_SR => ⟨.ict, 0x24, 0, 1, 1, false, false, false, [], [],
      [⟨0, 31, 1, .rl, .any, false⟩, ⟨0, 30, 1, .rl, .any, false⟩, ⟨0, 16, 6, .ro, .any, false⟩, ⟨0, 8, 3, .ro, .any, false⟩, ⟨0, 0, 8, .ro, .any, false⟩]⟩
  | .ICT_PEND => ⟨.ict, 0x100, 4, 32, 1, false, false, false, [], [],
      [⟨0, 0, 32, .rl, .any, false⟩]⟩
  | .ICT_GRP => ⟨.ict, 0x200, 4, 64, 1, true, false, false, [], [],
      [⟨0, 16, 16, .kg, .any, false⟩, ⟨0, 8, 8, .kg, .any, false⟩]⟩
  | .ICT_GSTAT => ⟨.ict, 0x300, 0, 1, 2, false, false, false, [], [],
      [⟨0, 0, 32, .rl, .any, false⟩, ⟨1, 0, 32, .rl, .any, false⟩]⟩
  | .ICT_CTX_CFG => ⟨.ict, 0x400, 32, 8, 1, true, false, false, [], [(0, 31, 1)],
      [⟨0, 31, 1, .kg, .any, true⟩, ⟨0, 30, 1, .kg, .any, false⟩, ⟨0, 0, 8, .kg, .any, false⟩]⟩
  | .ICT_CTX_STAT => ⟨.ict, 0x404, 32, 8, 1, false, false, false, [], [],
      [⟨0, 24, 8, .rl, .any, false⟩, ⟨0, 16, 4, .rl, .any, false⟩, ⟨0, 0, 1, .rl, .any, false⟩]⟩
  | .ICT_CTX_CLAIM => ⟨.ict, 0x408, 32, 8, 1, false, false, false, [], [],
      [⟨0, 0, 10, .ro, .any, false⟩]⟩
  | .ICT_CTX_COMPLETE => ⟨.ict, 0x40c, 32, 8, 1, false, false, false, [], [],
      [⟨0, 0, 10, .wo, .any, false⟩]⟩
  | .ICT_CTX_STRAND => ⟨.ict, 0x410, 32, 8, 1, false, false, false, [], [],
      [⟨0, 16, 16, .ro, .any, false⟩, ⟨0, 0, 16, .ro, .any, false⟩]⟩
  | .ICT_SWI => ⟨.ict, 0x600, 0, 1, 1, false, false, false, [], [],
      [⟨0, 0, 8, .wo, .any, false⟩]⟩
  | .ICT_WAKE => ⟨.ict, 0x800, 4, 64, 1, true, false, false, [], [(0, 31, 1)],
      [⟨0, 31, 1, .kg, .any, true⟩, ⟨0, 0, 10, .kg, .range 1 802, false⟩]⟩
  | .ICT_CNT => ⟨.ict, 0x900, 0, 1, 1, false, false, false, [], [],
      [⟨0, 16, 16, .ro, .any, false⟩, ⟨0, 0, 16, .ro, .any, false⟩]⟩
  | .MBX_MSG => ⟨.mbx, 0x0, 12, 256, 3, false, false, false, [], [],
      [⟨0, 0, 32, .rw, .any, false⟩, ⟨1, 0, 32, .rw, .any, false⟩, ⟨2, 0, 8, .rw, .any, false⟩]⟩
  | .MBX_CFG => ⟨.mbx, 0xc00, 0, 1, 2, true, false, false, [], [(0, 31, 1)],
      [⟨0, 31, 1, .kg, .any, true⟩, ⟨0, 8, 19, .kg, .any, false⟩, ⟨0, 0, 8, .kg, .any, false⟩, ⟨1, 0, 8, .kg, .any, true⟩]⟩
  | .MBX_Q => ⟨.mbx, 0xc10, 0, 1, 1, false, true, false, [], [],
      [⟨0, 0, 8, .rw, .any, true⟩]⟩
  | .MBX_R => ⟨.mbx, 0xc14, 0, 1, 1, false, false, false, [], [],
      [⟨0, 31, 1, .ro, .any, false⟩, ⟨0, 30, 1, .rl, .any, false⟩, ⟨0, 29, 1, .rl, .any, false⟩, ⟨0, 28, 1, .rl, .any, false⟩, ⟨0, 27, 1, .rl, .any, false⟩, ⟨0, 16, 8, .ro, .any, false⟩, ⟨0, 0, 8, .ro, .any, false⟩]⟩
  | .MBX_TMO => ⟨.mbx, 0xc20, 0, 1, 1, true, false, false, [0x3e8], [],
      [⟨0, 0, 16, .kg, .range 1 65535, false⟩]⟩
  | .MBX_NEXT => ⟨.mbx, 0xc40, 4, 8, 1, false, false, false, [], [],
      [⟨0, 31, 1, .rl, .any, false⟩, ⟨0, 0, 8, .rl, .any, true⟩]⟩
  | .MBX_FULL => ⟨.mbx, 0xd00, 4, 8, 1, false, false, false, [], [],
      [⟨0, 0, 32, .rl, .any, false⟩]⟩
  | .MBX_COLL => ⟨.mbx, 0xd20, 4, 8, 1, false, false, false, [], [],
      [⟨0, 0, 32, .rl, .any, false⟩]⟩
  | .MBX_TMOF => ⟨.mbx, 0xd40, 4, 8, 1, false, false, false, [], [],
      [⟨0, 0, 32, .rl, .any, false⟩]⟩
  | .MBX_CROSS => ⟨.mbx, 0xd60, 4, 8, 1, false, false, false, [], [],
      [⟨0, 0, 32, .rl, .any, false⟩]⟩
  | .MBX_CNT => ⟨.mbx, 0xd80, 0, 1, 1, false, false, false, [], [],
      [⟨0, 16, 16, .ro, .any, false⟩, ⟨0, 8, 8, .ro, .any, false⟩, ⟨0, 0, 8, .ro, .any, false⟩]⟩
  | .SEM_LOCK => ⟨.sem, 0x0, 4, 256, 1, false, false, false, [], [],
      [⟨0, 0, 1, .rw, .oneOf [0], false⟩]⟩
  | .SEM_OWN => ⟨.sem, 0x400, 4, 256, 1, false, false, false, [], [],
      [⟨0, 31, 1, .rl, .any, false⟩, ⟨0, 30, 1, .rl, .any, false⟩, ⟨0, 0, 8, .rl, .any, false⟩]⟩
  | .SEM_REVOKE => ⟨.sem, 0x800, 0, 1, 1, true, false, false, [], [],
      [⟨0, 16, 16, .ro, .any, false⟩, ⟨0, 0, 8, .kg, .any, false⟩]⟩
  | .SEM_CNT => ⟨.sem, 0x804, 0, 1, 1, false, false, false, [], [],
      [⟨0, 16, 16, .ro, .any, false⟩, ⟨0, 0, 16, .ro, .any, false⟩]⟩
  | .STH_CTRL => ⟨.sth, 0x0, 0, 1, 1, true, false, false, [], [(0, 31, 1)],
      [⟨0, 31, 1, .kg, .any, true⟩]⟩
  | .STH_STAT => ⟨.sth, 0x4, 0, 1, 1, false, false, false, [], [],
      [⟨0, 28, 4, .rl, .any, false⟩, ⟨0, 27, 1, .rl, .any, false⟩, ⟨0, 26, 1, .rl, .any, false⟩, ⟨0, 16, 6, .rl, .any, false⟩, ⟨0, 14, 2, .rl, .any, false⟩]⟩
  | .STH_DELAY => ⟨.sth, 0x8, 0, 1, 1, false, false, false, [], [],
      [⟨0, 0, 32, .rl, .any, false⟩]⟩
  | .STH_CNT0 => ⟨.sth, 0xc, 0, 1, 1, false, false, false, [], [],
      [⟨0, 16, 16, .ro, .any, false⟩, ⟨0, 0, 16, .ro, .any, false⟩]⟩
  | .STH_CNT1 => ⟨.sth, 0x10, 0, 1, 1, false, false, false, [], [],
      [⟨0, 16, 16, .ro, .any, false⟩, ⟨0, 0, 16, .ro, .any, false⟩]⟩
  | .STH_CNT2 => ⟨.sth, 0x14, 0, 1, 1, false, false, false, [], [],
      [⟨0, 24, 8, .ro, .any, false⟩, ⟨0, 16, 8, .ro, .any, false⟩]⟩
  | .STH_ID => ⟨.sth, 0x100, 0, 1, 1, false, false, true, [], [],
      [⟨0, 31, 1, .ro, .any, false⟩, ⟨0, 29, 2, .ro, .any, false⟩, ⟨0, 27, 2, .rl, .any, false⟩, ⟨0, 21, 6, .rl, .any, false⟩, ⟨0, 8, 8, .ro, .any, false⟩, ⟨0, 0, 8, .rl, .any, false⟩]⟩
  | .STH_SCTRL => ⟨.sth, 0x104, 0, 1, 1, true, false, true, [0x64], [],
      [⟨0, 31, 1, .kg, .any, false⟩, ⟨0, 0, 16, .kg, .range 1 65535, false⟩]⟩
  | .STH_RRA => ⟨.sth, 0x110, 0, 1, 3, false, false, true, [], [],
      [⟨0, 0, 32, .wo, .any, false⟩, ⟨1, 0, 32, .wo, .any, false⟩, ⟨2, 31, 1, .wo, .any, false⟩, ⟨2, 30, 1, .wo, .any, false⟩, ⟨2, 24, 6, .wo, .any, false⟩, ⟨2, 0, 24, .wo, .any, false⟩]⟩
  | .STH_RRAR => ⟨.sth, 0x120, 0, 1, 3, false, true, true, [], [],
      [⟨0, 31, 1, .rl, .any, false⟩, ⟨0, 4, 4, .ro, .any, false⟩, ⟨0, 0, 4, .ro, .any, false⟩, ⟨1, 0, 32, .ro, .any, false⟩, ⟨2, 0, 32, .ro, .any, false⟩]⟩
  | .STH_RAREC => ⟨.sth, 0x130, 0, 1, 2, false, false, true, [], [],
      [⟨0, 31, 1, .ro, .any, false⟩, ⟨0, 24, 6, .ro, .any, false⟩, ⟨0, 0, 24, .ro, .any, false⟩, ⟨1, 8, 24, .ro, .any, false⟩, ⟨1, 0, 8, .ro, .any, false⟩]⟩
  | .STH_MBXR => ⟨.sth, 0x400, 4, 256, 1, true, false, true, [], [],
      [⟨0, 8, 6, .kg, .any, false⟩, ⟨0, 0, 8, .kg, .any, false⟩]⟩
  | .STH_TCH => ⟨.sth, 0x800, 16, 32, 4, true, false, true, [], [(3, 31, 1)],
      [⟨0, 0, 19, .kg, .any, false⟩, ⟨1, 0, 19, .kg, .any, false⟩, ⟨2, 16, 16, .kg, .range 1 65535, false⟩, ⟨2, 0, 16, .kg, .range 1 65535, false⟩, ⟨3, 31, 1, .kg, .any, true⟩, ⟨3, 24, 6, .kg, .any, false⟩, ⟨3, 20, 4, .kg, .any, false⟩, ⟨3, 16, 4, .kg, .any, false⟩]⟩
  | .STH_TSENT => ⟨.sth, 0xc00, 4, 32, 1, false, false, true, [], [],
      [⟨0, 0, 32, .rl, .any, false⟩]⟩
  | .STHM_CTRL => ⟨.sth, 0x200, 0, 1, 1, true, false, true, [], [],
      [⟨0, 31, 1, .kg, .any, false⟩, ⟨0, 30, 1, .kg, .any, false⟩]⟩
  | .STHM_ADMIT => ⟨.sth, 0x204, 0, 1, 1, true, false, true, [], [],
      [⟨0, 31, 1, .wo, .any, false⟩, ⟨0, 0, 6, .wo, .any, false⟩]⟩
  | .STHM_ROSTQ => ⟨.sth, 0x210, 0, 1, 1, false, true, true, [], [],
      [⟨0, 0, 6, .rw, .any, false⟩]⟩
  | .STHM_ROSTR => ⟨.sth, 0x214, 0, 1, 3, false, false, true, [], [],
      [⟨0, 30, 2, .rl, .any, false⟩, ⟨0, 24, 6, .ro, .any, false⟩, ⟨0, 21, 3, .ro, .any, false⟩, ⟨0, 18, 3, .ro, .any, false⟩, ⟨0, 0, 8, .ro, .any, false⟩, ⟨1, 0, 32, .ro, .any, false⟩, ⟨2, 0, 32, .ro, .any, false⟩]⟩
  | .STHM_PLACE => ⟨.sth, 0x240, 0, 1, 3, true, false, true, [], [],
      [⟨0, 0, 32, .kg, .any, false⟩, ⟨1, 0, 16, .kg, .any, false⟩, ⟨2, 28, 4, .kg, .range 1 3, false⟩, ⟨2, 16, 6, .kg, .any, false⟩, ⟨2, 0, 16, .kg, .any, false⟩]⟩
  | .STHM_PLRES => ⟨.sth, 0x250, 0, 1, 1, false, false, true, [], [],
      [⟨0, 31, 1, .rl, .any, false⟩, ⟨0, 16, 8, .ro, .any, false⟩, ⟨0, 8, 8, .rl, .any, false⟩, ⟨0, 0, 4, .ro, .any, false⟩]⟩
  | .SYS_LOSS => ⟨.sys, 0x1c0, 0, 1, 3, false, false, false, [], [],
      [⟨0, 31, 1, .ro, .any, false⟩, ⟨0, 25, 6, .ro, .any, false⟩, ⟨0, 23, 2, .ro, .any, false⟩, ⟨0, 16, 4, .ro, .any, false⟩, ⟨0, 0, 8, .ro, .any, false⟩, ⟨1, 16, 16, .ro, .any, false⟩, ⟨1, 0, 6, .ro, .any, false⟩, ⟨2, 16, 16, .ro, .any, false⟩, ⟨2, 0, 5, .rl, .any, false⟩]⟩
  | .SEC_STAT => ⟨.sec, 0x0, 0, 1, 1, false, false, false, [], [],
      [⟨0, 31, 1, .rl, .any, false⟩, ⟨0, 30, 1, .rl, .any, false⟩, ⟨0, 16, 7, .rl, .any, false⟩, ⟨0, 8, 8, .rl, .any, false⟩, ⟨0, 3, 1, .rl, .any, false⟩]⟩
  | .SEC_BOOT => ⟨.sec, 0x4, 0, 1, 1, false, false, false, [], [],
      [⟨0, 28, 4, .ro, .any, false⟩, ⟨0, 24, 4, .ro, .any, false⟩, ⟨0, 21, 3, .ro, .any, false⟩, ⟨0, 20, 1, .ro, .any, false⟩, ⟨0, 19, 1, .ro, .any, false⟩, ⟨0, 18, 1, .ro, .any, false⟩]⟩
  | .SEC_BOOTGO => ⟨.sec, 0x8, 0, 1, 1, false, false, false, [], [],
      [⟨0, 0, 1, .wo, .any, false⟩]⟩
  | .SEC_CMD => ⟨.sec, 0x10, 0, 1, 3, true, false, false, [], [],
      [⟨0, 0, 32, .kg, .any, false⟩, ⟨1, 0, 16, .kg, .any, false⟩, ⟨2, 28, 4, .kg, .range 1 8, false⟩, ⟨2, 0, 7, .kg, .any, false⟩]⟩
  | .SEC_CMDSTAT => ⟨.sec, 0x1c, 0, 1, 1, false, false, false, [], [],
      [⟨0, 31, 1, .rl, .any, false⟩, ⟨0, 16, 8, .ro, .any, false⟩, ⟨0, 0, 4, .ro, .any, false⟩]⟩
  | .SEC_NLOAD => ⟨.sec, 0x20, 0, 1, 3, true, false, false, [], [],
      [⟨0, 0, 32, .kg, .any, false⟩, ⟨1, 0, 16, .kg, .any, false⟩, ⟨2, 28, 4, .kg, .range 1 3, false⟩, ⟨2, 27, 1, .kg, .any, false⟩, ⟨2, 0, 16, .kg, .range 1 65535, false⟩]⟩
  | .SEC_NRES => ⟨.sec, 0x2c, 0, 1, 1, false, false, false, [], [],
      [⟨0, 31, 1, .rl, .any, false⟩, ⟨0, 16, 4, .ro, .any, false⟩, ⟨0, 0, 16, .ro, .any, false⟩]⟩
  | .SEC_RAND => ⟨.sec, 0x30, 0, 1, 2, false, false, false, [], [],
      [⟨0, 0, 32, .ro, .any, false⟩, ⟨1, 0, 32, .ro, .any, false⟩]⟩
  | .SEC_CNT => ⟨.sec, 0x40, 0, 1, 1, false, false, false, [], [],
      [⟨0, 16, 16, .ro, .any, false⟩, ⟨0, 0, 16, .ro, .any, false⟩]⟩
  | .PWR_MODE => ⟨.pwr, 0x0, 0, 1, 1, false, false, false, [0x21100000], [],
      [⟨0, 28, 4, .rl, .any, false⟩, ⟨0, 24, 4, .rl, .any, false⟩, ⟨0, 20, 4, .rl, .any, false⟩, ⟨0, 19, 1, .rl, .any, false⟩, ⟨0, 18, 1, .rl, .any, false⟩]⟩
  | .PWR_MODECMD => ⟨.pwr, 0x4, 0, 1, 1, true, false, false, [], [],
      [⟨0, 28, 4, .wo, .range 1 7, false⟩, ⟨0, 27, 1, .wo, .any, false⟩]⟩
  | .PWR_CMDRES => ⟨.pwr, 0x8, 0, 1, 1, false, false, false, [], [],
      [⟨0, 31, 1, .rl, .any, false⟩, ⟨0, 0, 4, .ro, .any, false⟩]⟩
  | .PWR_DOMREQ => ⟨.pwr, 0x10, 4, 7, 1, true, false, false, [], [],
      [⟨0, 0, 32, .kg, .any, false⟩]⟩
  | .PWR_DOMSTAT => ⟨.pwr, 0x30, 4, 7, 1, false, false, false, [], [],
      [⟨0, 0, 32, .rl, .any, false⟩]⟩
  | .PWR_ISO => ⟨.pwr, 0x50, 4, 7, 1, false, false, false, [], [],
      [⟨0, 0, 32, .rl, .any, false⟩]⟩
  | .PWR_ISOCLR => ⟨.pwr, 0x70, 0, 1, 1, true, false, false, [], [],
      [⟨0, 0, 8, .wo, .range 0 213, false⟩]⟩
  | .PWR_WAKEEN => ⟨.pwr, 0x74, 0, 1, 1, true, false, false, [], [],
      [⟨0, 0, 8, .kg, .any, false⟩]⟩
  | .PWR_RVEC => ⟨.pwr, 0x78, 0, 1, 2, true, false, false, [], [],
      [⟨0, 2, 30, .kg, .any, false⟩, ⟨1, 0, 16, .kg, .any, false⟩]⟩
  | .PWR_AWCFG => ⟨.pwr, 0x80, 0, 1, 1, true, false, false, [0x80000000], [],
      [⟨0, 31, 1, .kg, .any, false⟩, ⟨0, 30, 1, .rl, .any, false⟩]⟩
  | .PWR_THERM => ⟨.pwr, 0x90, 0, 1, 1, true, false, false, [0x6e640000], [],
      [⟨0, 24, 8, .kg, .range 95 120, false⟩, ⟨0, 16, 8, .kg, .any, false⟩, ⟨0, 8, 8, .rl, .any, false⟩, ⟨0, 0, 8, .ro, .any, false⟩]⟩
  | .PWR_BIND => ⟨.pwr, 0x94, 0, 1, 1, true, false, false, [0x3e8], [],
      [⟨0, 0, 16, .kg, .range 1 65535, false⟩]⟩
  | .PWR_RESET => ⟨.pwr, 0x98, 0, 1, 1, true, false, false, [], [],
      [⟨0, 16, 16, .wo, .oneOf [16979], false⟩]⟩
  | .PWR_CNT => ⟨.pwr, 0x9c, 0, 1, 1, false, false, false, [], [],
      [⟨0, 8, 8, .ro, .any, false⟩, ⟨0, 0, 8, .ro, .any, false⟩]⟩
  | .FCL_CTRL => ⟨.fcl, 0x0, 0, 1, 1, true, false, false, [0x90000000], [],
      [⟨0, 30, 2, .kg, .any, false⟩, ⟨0, 28, 2, .kg, .any, false⟩]⟩
  | .FCL_FLT => ⟨.fcl, 0x10, 4, 8, 1, false, false, false, [], [],
      [⟨0, 0, 32, .ro, .any, false⟩]⟩
  | .FCL_SEV => ⟨.fcl, 0x40, 4, 16, 1, true, false, false, [0x54a95651], [],
      [⟨0, 0, 2, .kg, .any, false⟩, ⟨0, 2, 2, .kg, .any, false⟩, ⟨0, 4, 2, .kg, .any, false⟩, ⟨0, 6, 2, .kg, .any, false⟩, ⟨0, 8, 2, .kg, .any, false⟩, ⟨0, 10, 2, .kg, .any, false⟩, ⟨0, 12, 2, .kg, .any, false⟩, ⟨0, 14, 2, .kg, .any, false⟩, ⟨0, 16, 2, .kg, .any, false⟩, ⟨0, 18, 2, .kg, .any, false⟩, ⟨0, 20, 2, .kg, .any, false⟩, ⟨0, 22, 2, .kg, .any, false⟩, ⟨0, 24, 2, .kg, .any, false⟩, ⟨0, 26, 2, .kg, .any, false⟩, ⟨0, 28, 2, .kg, .any, false⟩, ⟨0, 30, 2, .kg, .any, false⟩]⟩
  | .FCL_CLR => ⟨.fcl, 0x100, 0, 1, 2, true, false, false, [], [],
      [⟨0, 0, 32, .wo, .any, false⟩, ⟨1, 0, 3, .wo, .any, false⟩]⟩
  | .FCL_HISTQ => ⟨.fcl, 0x110, 0, 1, 1, false, true, false, [], [],
      [⟨0, 0, 5, .rw, .any, false⟩]⟩
  | .FCL_HISTR => ⟨.fcl, 0x120, 0, 1, 8, false, false, false, [], [],
      [⟨0, 31, 1, .ro, .any, false⟩, ⟨0, 30, 1, .ro, .any, false⟩, ⟨0, 28, 2, .ro, .any, false⟩, ⟨0, 24, 4, .ro, .any, false⟩, ⟨0, 16, 8, .ro, .any, false⟩, ⟨0, 8, 8, .ro, .any, false⟩, ⟨0, 0, 8, .ro, .any, false⟩, ⟨1, 0, 32, .ro, .any, false⟩, ⟨2, 0, 32, .ro, .any, false⟩, ⟨3, 16, 16, .ro, .any, false⟩, ⟨4, 0, 30, .ro, .any, false⟩, ⟨5, 0, 32, .ro, .any, false⟩, ⟨6, 0, 8, .ro, .any, false⟩, ⟨7, 12, 14, .ro, .any, false⟩, ⟨7, 0, 12, .ro, .any, false⟩]⟩
  | .FCL_CNT => ⟨.fcl, 0x140, 0, 1, 1, false, false, false, [], [],
      [⟨0, 16, 16, .ro, .any, false⟩, ⟨0, 0, 16, .ro, .any, false⟩]⟩
  | .LDG_STAT => ⟨.ldg, 0x0, 0, 1, 1, false, false, false, [], [],
      [⟨0, 31, 1, .rl, .any, false⟩, ⟨0, 0, 6, .rl, .any, false⟩]⟩
  | .LDG_HEAD => ⟨.ldg, 0x4, 0, 1, 1, false, false, false, [], [],
      [⟨0, 0, 32, .rl, .any, false⟩]⟩
  | .LDG_RQ => ⟨.ldg, 0x10, 0, 1, 1, false, true, false, [], [],
      [⟨0, 0, 16, .rw, .any, false⟩]⟩
  | .LDG_RD => ⟨.ldg, 0x20, 0, 1, 16, false, false, false, [], [],
      [⟨0, 0, 32, .ro, .any, false⟩, ⟨1, 0, 32, .ro, .any, false⟩, ⟨2, 0, 32, .ro, .any, false⟩, ⟨3, 0, 32, .ro, .any, false⟩, ⟨4, 0, 32, .ro, .any, false⟩, ⟨5, 0, 32, .ro, .any, false⟩, ⟨6, 0, 32, .ro, .any, false⟩, ⟨7, 0, 32, .ro, .any, false⟩, ⟨8, 0, 32, .ro, .any, false⟩, ⟨9, 0, 32, .ro, .any, false⟩, ⟨10, 0, 32, .ro, .any, false⟩, ⟨11, 0, 32, .ro, .any, false⟩, ⟨12, 0, 32, .ro, .any, false⟩, ⟨13, 0, 32, .ro, .any, false⟩, ⟨14, 0, 32, .ro, .any, false⟩, ⟨15, 0, 32, .ro, .any, false⟩]⟩
  | .LDG_UREC => ⟨.ldg, 0x80, 0, 1, 12, true, false, false, [], [],
      [⟨0, 0, 32, .wo, .any, false⟩, ⟨1, 0, 32, .wo, .any, false⟩, ⟨2, 0, 32, .wo, .any, false⟩, ⟨3, 0, 32, .wo, .any, false⟩, ⟨4, 0, 32, .wo, .any, false⟩, ⟨5, 0, 32, .wo, .any, false⟩, ⟨6, 0, 32, .wo, .any, false⟩, ⟨7, 0, 32, .wo, .any, false⟩, ⟨8, 0, 32, .wo, .any, false⟩, ⟨9, 0, 32, .wo, .any, false⟩, ⟨10, 0, 32, .wo, .any, false⟩]⟩
  | .LDG_CNT0 => ⟨.ldg, 0xc0, 0, 1, 1, false, false, false, [], [],
      [⟨0, 16, 16, .ro, .any, false⟩, ⟨0, 0, 16, .ro, .any, false⟩]⟩
  | .LDG_CNT1 => ⟨.ldg, 0xc4, 0, 1, 1, false, false, false, [], [],
      [⟨0, 16, 16, .ro, .any, false⟩, ⟨0, 0, 16, .ro, .any, false⟩]⟩
  | .LDG_RSPCFG => ⟨.ldg, 0x100, 0, 1, 1, true, false, false, [], [],
      [⟨0, 31, 1, .kg, .any, false⟩, ⟨0, 30, 1, .kg, .any, false⟩]⟩
  | .LDG_RSPCNT => ⟨.ldg, 0x104, 0, 1, 1, false, false, false, [], [],
      [⟨0, 16, 16, .ro, .any, false⟩, ⟨0, 0, 16, .ro, .any, false⟩]⟩
  | .TLY_Q => ⟨.tly, 0x0, 0, 1, 1, false, true, false, [], [],
      [⟨0, 31, 1, .rw, .any, false⟩, ⟨0, 0, 11, .rw, .any, true⟩]⟩
  | .TLY_R => ⟨.tly, 0x10, 0, 1, 2, false, false, false, [], [],
      [⟨0, 0, 32, .ro, .any, false⟩, ⟨1, 0, 16, .ro, .any, false⟩]⟩
  | .TLY_INC => ⟨.tly, 0x20, 0, 1, 1, false, false, false, [], [],
      [⟨0, 16, 16, .wo, .any, false⟩, ⟨0, 0, 6, .wo, .any, true⟩]⟩
  | .TLY_HINC => ⟨.tly, 0x24, 0, 1, 1, false, false, false, [], [],
      [⟨0, 8, 3, .wo, .any, false⟩, ⟨0, 0, 6, .wo, .any, false⟩]⟩
  | .TLY_CMD => ⟨.tly, 0x30, 0, 1, 1, true, false, false, [], [],
      [⟨0, 0, 4, .wo, .oneOf [1], false⟩]⟩
  | .TLY_STAT => ⟨.tly, 0x34, 0, 1, 1, false, false, false, [], [],
      [⟨0, 31, 1, .rl, .any, false⟩, ⟨0, 0, 31, .ro, .any, false⟩]⟩

/-- The registers of a block, in the order of its maps. -/
def blkRegs : Blk → List Reg
  | .sys => [.SYS_ID, .SYS_STEP, .SYS_UID_LO, .SYS_UID_HI, .SYS_STRAP, .SYS_RSTCAUSE, .SYS_BERR_ALO, .SYS_BERR_AHI, .SYS_BERR_INFO, .SYS_CFGPAR_ADDR, .SYS_CFGPAR, .SYS_PLCMD, .SYS_PLSTAT, .SYS_PSLOTQ, .SYS_PSLOTR, .SYS_PCOUNT, .SYS_ENCQ, .SYS_ENCR, .SYS_KEYREQ, .SYS_DECCFG, .SYS_DECQ, .SYS_DECR, .SYS_LOSS]
  | .rck => [.RCK_CTRL, .RCK_STAT, .RCK_STATE, .RCK_CMD, .RCK_CMDSTAT, .RCK_FMT, .RCK_NOW, .RCK_OFS_A, .RCK_OFS_B, .RCK_RATE, .RCK_PPSOFS, .RCK_EVCNT, .RCK_SLOT, .RCK_SLOTQ, .RCK_SLOTR, .RCK_TINCFG, .RCK_TIN, .RCK_PHCFG]
  | .ptp => [.PTP_CFG, .PTP_STAT, .PTP_GM, .PTP_MPD, .PTP_CNT]
  | .lane => [.LANE_CTRL, .LANE_STAT, .LANE_LCFG, .LANE_TXW, .LANE_TXS, .LANE_CAM, .LANE_CNT0, .LANE_CNT1, .LANE_CNT2, .LANE_CNT3, .LANE_LINES]
  | .lfi => [.LFI_CFG, .LFI_STAT, .LFI_CNT, .LFI_CMD, .LFI_IDLEST_LO, .LFI_IDLEST_HI]
  | .swt => [.SWT_CFG, .SWT_CLIP, .SWT_BUF, .SWT_STAT, .SWT_CNT]
  | .ndl => [.NDL_CTL, .NDL_STAT, .NDL_PC, .NDL_CMD, .NDL_HENTRY, .NDL_HRANGE, .NDL_BELL, .NDL_XSTAT, .NDL_FSTAT, .NDL_FADDR_LO, .NDL_FADDR_HI, .NDL_CNT0, .NDL_CNT1, .NDL_ECC]
  | .skn => [.SKN_NANOA, .SKN_NANOB, .SKN_CREVA, .SKN_CREVB, .SKN_MEMECC, .SKN_UEADDR, .SKN_SCRUB, .SKN_NPAR, .SKN_DIST0, .SKN_DIST1]
  | .gau => [.GAU_CTRL, .GAU_OUTQ, .GAU_OUTR, .GAU_GRPQ, .GAU_GRPR, .GAU_CNT]
  | .mch => [.MCH_CTRL, .MCH_RDCFG, .MCH_STAT, .MCH_ECC, .MCH_CEADDR, .MCH_TRNCNT0, .MCH_TRNCNT1, .MCH_RDCNT, .MCH_RDLAST, .MCH_PAR, .MCH_UE, .MCH_BAYSTAT, .MCH_BAYCMD, .MCH_DIAGA, .MCH_DIAGR]
  | .stl => [.STL_POOL, .STL_PSTAT, .STL_PCNT, .STL_QUOTA, .STL_USE, .STL_OP, .STL_RES, .STL_FCAP, .STL_CNT, .STL_STAT, .STL_REVOKE]
  | .prt => [.PRT_CTL, .PRT_DESC, .PRT_CMD, .PRT_STAT, .PRT_CUR, .PRT_RESID, .PRT_DDONE, .PRT_EADDR, .PRT_GSTAT, .PRT_GCNT]
  | .eth => [.ETH_CFG, .ETH_STAT, .ETH_RXCNT, .ETH_TXCNT, .ETH_RXERR, .ETH_FEC, .ETH_MISC, .EG_GATEEN, .EG_GATE, .EG_PCNT0, .EG_PCNT1, .EG_QMQ, .EG_QMR, .EG_QCFG]
  | .ssw => [.SSW_CFG, .SSW_RTP, .SSW_GRP, .SSW_CQ, .SSW_CQI, .SSW_IDT, .SSW_TX, .SSW_CNT0, .SSW_CNT1, .SSW_CNT2, .SSW_CNT3, .EG_SMPL, .EG_TBASE, .EG_BKT, .EG_BKTQ, .EG_BKTR, .EG_POL, .EG_POLQ, .EG_POLR]
  | .ct => [.CT_CFG, .CT_ENTRY, .CT_EQ, .CT_ER]
  | .ft => [.FT_CFG, .FT_CMD, .FT_RES, .FT_STAT, .FT_CNT0, .FT_CNT1, .FT_CNT2, .FT_CNT3]
  | .mag => [.MAG_CFG, .MAG_STAT, .MAG_CMD, .MAG_CMDSTAT, .MAG_INFO, .MAG_CNT0, .MAG_CNT1, .MAG_SCFG, .MAG_SSTAT]
  | .ict => [.ICT_CTRL, .ICT_SCFG, .ICT_SQ, .ICT_SR, .ICT_PEND, .ICT_GRP, .ICT_GSTAT, .ICT_CTX_CFG, .ICT_CTX_STAT, .ICT_CTX_CLAIM, .ICT_CTX_COMPLETE, .ICT_CTX_STRAND, .ICT_SWI, .ICT_WAKE, .ICT_CNT]
  | .mbx => [.MBX_MSG, .MBX_CFG, .MBX_Q, .MBX_R, .MBX_TMO, .MBX_NEXT, .MBX_FULL, .MBX_COLL, .MBX_TMOF, .MBX_CROSS, .MBX_CNT]
  | .sem => [.SEM_LOCK, .SEM_OWN, .SEM_REVOKE, .SEM_CNT]
  | .sth => [.STH_CTRL, .STH_STAT, .STH_DELAY, .STH_CNT0, .STH_CNT1, .STH_CNT2, .STH_ID, .STH_SCTRL, .STH_RRA, .STH_RRAR, .STH_RAREC, .STH_MBXR, .STH_TCH, .STH_TSENT, .STHM_CTRL, .STHM_ADMIT, .STHM_ROSTQ, .STHM_ROSTR, .STHM_PLACE, .STHM_PLRES]
  | .sec => [.SEC_STAT, .SEC_BOOT, .SEC_BOOTGO, .SEC_CMD, .SEC_CMDSTAT, .SEC_NLOAD, .SEC_NRES, .SEC_RAND, .SEC_CNT]
  | .pwr => [.PWR_MODE, .PWR_MODECMD, .PWR_CMDRES, .PWR_DOMREQ, .PWR_DOMSTAT, .PWR_ISO, .PWR_ISOCLR, .PWR_WAKEEN, .PWR_RVEC, .PWR_AWCFG, .PWR_THERM, .PWR_BIND, .PWR_RESET, .PWR_CNT]
  | .fcl => [.FCL_CTRL, .FCL_FLT, .FCL_SEV, .FCL_CLR, .FCL_HISTQ, .FCL_HISTR, .FCL_CNT]
  | .ldg => [.LDG_STAT, .LDG_HEAD, .LDG_RQ, .LDG_RD, .LDG_UREC, .LDG_CNT0, .LDG_CNT1, .LDG_RSPCFG, .LDG_RSPCNT]
  | .tly => [.TLY_Q, .TLY_R, .TLY_INC, .TLY_HINC, .TLY_CMD, .TLY_STAT]

namespace F

def SYS_ID_PART : FieldRef := ⟨.SYS_ID, 0, 16, 16⟩
def SYS_ID_FAMILY : FieldRef := ⟨.SYS_ID, 0, 4, 12⟩
def SYS_STEP_MAJOR : FieldRef := ⟨.SYS_STEP, 0, 8, 8⟩
def SYS_STEP_MINOR : FieldRef := ⟨.SYS_STEP, 0, 0, 8⟩
def SYS_UID_LO_UID : FieldRef := ⟨.SYS_UID_LO, 0, 0, 32⟩
def SYS_UID_HI_UID : FieldRef := ⟨.SYS_UID_HI, 0, 0, 32⟩
def SYS_STRAP_ROLE : FieldRef := ⟨.SYS_STRAP, 0, 4, 2⟩
def SYS_STRAP_BOOTSEL : FieldRef := ⟨.SYS_STRAP, 0, 0, 3⟩
def SYS_RSTCAUSE_REMOTE : FieldRef := ⟨.SYS_RSTCAUSE, 0, 3, 1⟩
def SYS_RSTCAUSE_SOFT : FieldRef := ⟨.SYS_RSTCAUSE, 0, 2, 1⟩
def SYS_RSTCAUSE_PIN : FieldRef := ⟨.SYS_RSTCAUSE, 0, 1, 1⟩
def SYS_RSTCAUSE_POR : FieldRef := ⟨.SYS_RSTCAUSE, 0, 0, 1⟩
def SYS_BERR_ALO_ADDR : FieldRef := ⟨.SYS_BERR_ALO, 0, 0, 32⟩
def SYS_BERR_AHI_ADDR : FieldRef := ⟨.SYS_BERR_AHI, 0, 0, 32⟩
def SYS_BERR_INFO_ARM : FieldRef := ⟨.SYS_BERR_INFO, 0, 31, 1⟩
def SYS_BERR_INFO_COUNT : FieldRef := ⟨.SYS_BERR_INFO, 0, 16, 15⟩
def SYS_BERR_INFO_WRITE : FieldRef := ⟨.SYS_BERR_INFO, 0, 12, 1⟩
def SYS_BERR_INFO_CAUSE : FieldRef := ⟨.SYS_BERR_INFO, 0, 8, 4⟩
def SYS_BERR_INFO_REQ : FieldRef := ⟨.SYS_BERR_INFO, 0, 0, 8⟩
def SYS_CFGPAR_ADDR_OFFSET : FieldRef := ⟨.SYS_CFGPAR_ADDR, 0, 0, 24⟩
def SYS_CFGPAR_ARM : FieldRef := ⟨.SYS_CFGPAR, 0, 31, 1⟩
def SYS_CFGPAR_PEND : FieldRef := ⟨.SYS_CFGPAR, 0, 16, 1⟩
def SYS_CFGPAR_COUNT : FieldRef := ⟨.SYS_CFGPAR, 0, 0, 16⟩
def SYS_PLCMD_DADDR_LO : FieldRef := ⟨.SYS_PLCMD, 0, 0, 32⟩
def SYS_PLCMD_DADDR_HI : FieldRef := ⟨.SYS_PLCMD, 1, 0, 16⟩
def SYS_PLCMD_OP : FieldRef := ⟨.SYS_PLCMD, 2, 8, 4⟩
def SYS_PLCMD_SLOT : FieldRef := ⟨.SYS_PLCMD, 2, 0, 8⟩
def SYS_PLSTAT_BUSY : FieldRef := ⟨.SYS_PLSTAT, 0, 31, 1⟩
def SYS_PLSTAT_SLOT : FieldRef := ⟨.SYS_PLSTAT, 0, 16, 8⟩
def SYS_PLSTAT_REQ : FieldRef := ⟨.SYS_PLSTAT, 0, 8, 8⟩
def SYS_PLSTAT_RESOURCE : FieldRef := ⟨.SYS_PLSTAT, 0, 4, 4⟩
def SYS_PLSTAT_RESULT : FieldRef := ⟨.SYS_PLSTAT, 0, 0, 4⟩
def RCK_CTRL_REFSEL : FieldRef := ⟨.RCK_CTRL, 0, 3, 1⟩
def RCK_CTRL_PREF : FieldRef := ⟨.RCK_CTRL, 0, 2, 1⟩
def RCK_CTRL_SRC : FieldRef := ⟨.RCK_CTRL, 0, 0, 2⟩
def RCK_STAT_FMTCHG : FieldRef := ⟨.RCK_STAT, 0, 8, 1⟩
def RCK_STAT_FMTOK : FieldRef := ⟨.RCK_STAT, 0, 7, 1⟩
def RCK_STAT_REF10OK : FieldRef := ⟨.RCK_STAT, 0, 6, 1⟩
def RCK_STAT_AVB : FieldRef := ⟨.RCK_STAT, 0, 5, 1⟩
def RCK_STAT_AVA : FieldRef := ⟨.RCK_STAT, 0, 4, 1⟩
def RCK_STAT_SEL : FieldRef := ⟨.RCK_STAT, 0, 2, 2⟩
def RCK_STATE_STATE : FieldRef := ⟨.RCK_STATE, 0, 0, 4⟩
def RCK_CMD_OP : FieldRef := ⟨.RCK_CMD, 0, 0, 4⟩
def RCK_CMDSTAT_RESULT : FieldRef := ⟨.RCK_CMDSTAT, 0, 0, 4⟩
def RCK_FMT_NUM : FieldRef := ⟨.RCK_FMT, 0, 0, 18⟩
def RCK_FMT_DEN1001 : FieldRef := ⟨.RCK_FMT, 1, 31, 1⟩
def RCK_FMT_LINES : FieldRef := ⟨.RCK_FMT, 1, 0, 15⟩
def RCK_FMT_OFS : FieldRef := ⟨.RCK_FMT, 2, 0, 32⟩
def RCK_NOW_LINE : FieldRef := ⟨.RCK_NOW, 0, 12, 14⟩
def RCK_NOW_TICK : FieldRef := ⟨.RCK_NOW, 0, 0, 12⟩
def RCK_NOW_FRAME_LO : FieldRef := ⟨.RCK_NOW, 1, 0, 32⟩
def RCK_NOW_FRAME_HI : FieldRef := ⟨.RCK_NOW, 2, 0, 8⟩
def RCK_NOW_NS : FieldRef := ⟨.RCK_NOW, 3, 0, 30⟩
def RCK_NOW_SEC_LO : FieldRef := ⟨.RCK_NOW, 4, 0, 32⟩
def RCK_NOW_SEC_HI : FieldRef := ⟨.RCK_NOW, 5, 0, 16⟩
def RCK_OFS_A_OFS : FieldRef := ⟨.RCK_OFS_A, 0, 0, 32⟩
def RCK_OFS_B_OFS : FieldRef := ⟨.RCK_OFS_B, 0, 0, 32⟩
def RCK_RATE_RATE : FieldRef := ⟨.RCK_RATE, 0, 0, 32⟩
def RCK_PPSOFS_OFS : FieldRef := ⟨.RCK_PPSOFS, 0, 0, 32⟩
def RCK_EVCNT_LARGE : FieldRef := ⟨.RCK_EVCNT, 0, 24, 8⟩
def RCK_EVCNT_SLIP : FieldRef := ⟨.RCK_EVCNT, 0, 12, 12⟩
def RCK_EVCNT_MISSED : FieldRef := ⟨.RCK_EVCNT, 0, 0, 12⟩
def RCK_SLOT_PAY_LO : FieldRef := ⟨.RCK_SLOT, 0, 0, 32⟩
def RCK_SLOT_PAY_HI : FieldRef := ⟨.RCK_SLOT, 1, 0, 32⟩
def RCK_SLOT_LINE : FieldRef := ⟨.RCK_SLOT, 2, 12, 14⟩
def RCK_SLOT_TICK : FieldRef := ⟨.RCK_SLOT, 2, 0, 12⟩
def RCK_SLOT_FRAME : FieldRef := ⟨.RCK_SLOT, 3, 8, 24⟩
def RCK_SLOT_N : FieldRef := ⟨.RCK_SLOT, 3, 0, 8⟩
def RCK_SLOT_ARM : FieldRef := ⟨.RCK_SLOT, 4, 31, 1⟩
def RCK_SLOT_MODE : FieldRef := ⟨.RCK_SLOT, 4, 29, 2⟩
def RCK_SLOT_ACTION : FieldRef := ⟨.RCK_SLOT, 4, 20, 4⟩
def RCK_SLOT_TARGET : FieldRef := ⟨.RCK_SLOT, 4, 12, 8⟩
def RCK_SLOT_INDEX : FieldRef := ⟨.RCK_SLOT, 4, 0, 9⟩
def RCK_SLOTQ_INDEX : FieldRef := ⟨.RCK_SLOTQ, 0, 0, 9⟩
def RCK_SLOTR_PAY_LO : FieldRef := ⟨.RCK_SLOTR, 0, 0, 32⟩
def RCK_SLOTR_PAY_HI : FieldRef := ⟨.RCK_SLOTR, 1, 0, 32⟩
def RCK_SLOTR_LINE : FieldRef := ⟨.RCK_SLOTR, 2, 12, 14⟩
def RCK_SLOTR_TICK : FieldRef := ⟨.RCK_SLOTR, 2, 0, 12⟩
def RCK_SLOTR_FRAME : FieldRef := ⟨.RCK_SLOTR, 3, 8, 24⟩
def RCK_SLOTR_N : FieldRef := ⟨.RCK_SLOTR, 3, 0, 8⟩
def RCK_SLOTR_ARM : FieldRef := ⟨.RCK_SLOTR, 4, 31, 1⟩
def RCK_SLOTR_MODE : FieldRef := ⟨.RCK_SLOTR, 4, 29, 2⟩
def RCK_SLOTR_ACTION : FieldRef := ⟨.RCK_SLOTR, 4, 20, 4⟩
def RCK_SLOTR_TARGET : FieldRef := ⟨.RCK_SLOTR, 4, 12, 8⟩
def RCK_SLOTR_INDEX : FieldRef := ⟨.RCK_SLOTR, 4, 0, 9⟩
def RCK_SLOTR_MISSED : FieldRef := ⟨.RCK_SLOTR, 4, 28, 1⟩
def RCK_SLOTR_FIRED : FieldRef := ⟨.RCK_SLOTR, 4, 27, 1⟩
def RCK_TINCFG_OVF : FieldRef := ⟨.RCK_TINCFG, 0, 16, 16⟩
def RCK_TINCFG_EDGE : FieldRef := ⟨.RCK_TINCFG, 0, 0, 8⟩
def RCK_TIN_VALID : FieldRef := ⟨.RCK_TIN, 0, 31, 1⟩
def RCK_TIN_LINE : FieldRef := ⟨.RCK_TIN, 0, 12, 14⟩
def RCK_TIN_TICK : FieldRef := ⟨.RCK_TIN, 0, 0, 12⟩
def RCK_TIN_FRAME_LO : FieldRef := ⟨.RCK_TIN, 1, 0, 32⟩
def RCK_TIN_FALL : FieldRef := ⟨.RCK_TIN, 2, 31, 1⟩
def RCK_TIN_NS : FieldRef := ⟨.RCK_TIN, 2, 0, 30⟩
def RCK_TIN_SEC_LO : FieldRef := ⟨.RCK_TIN, 3, 0, 32⟩
def RCK_TIN_FRAME_HI : FieldRef := ⟨.RCK_TIN, 4, 0, 8⟩
def RCK_TIN_SEC_HI : FieldRef := ⟨.RCK_TIN, 5, 0, 16⟩
def RCK_PHCFG_OE : FieldRef := ⟨.RCK_PHCFG, 0, 31, 1⟩
def RCK_PHCFG_INIT : FieldRef := ⟨.RCK_PHCFG, 0, 30, 1⟩
def RCK_PHCFG_ADV : FieldRef := ⟨.RCK_PHCFG, 0, 0, 12⟩
def PTP_CFG_EN : FieldRef := ⟨.PTP_CFG, 0, 31, 1⟩
def PTP_CFG_TRANSPORT : FieldRef := ⟨.PTP_CFG, 0, 28, 2⟩
def PTP_CFG_PORT : FieldRef := ⟨.PTP_CFG, 0, 16, 5⟩
def PTP_CFG_DOMAIN : FieldRef := ⟨.PTP_CFG, 0, 0, 8⟩
def PTP_STAT_AV : FieldRef := ⟨.PTP_STAT, 0, 31, 1⟩
def PTP_STAT_QUAL : FieldRef := ⟨.PTP_STAT, 0, 30, 1⟩
def PTP_STAT_SMTLV : FieldRef := ⟨.PTP_STAT, 0, 29, 1⟩
def PTP_STAT_STEPS : FieldRef := ⟨.PTP_STAT, 0, 16, 8⟩
def PTP_GM_ID_LO : FieldRef := ⟨.PTP_GM, 0, 0, 32⟩
def PTP_GM_ID_HI : FieldRef := ⟨.PTP_GM, 1, 0, 32⟩
def PTP_MPD_MPD : FieldRef := ⟨.PTP_MPD, 0, 0, 32⟩
def PTP_CNT_LOSS : FieldRef := ⟨.PTP_CNT, 0, 16, 16⟩
def PTP_CNT_SYNC : FieldRef := ⟨.PTP_CNT, 0, 0, 16⟩
def LANE_CTRL_EN : FieldRef := ⟨.LANE_CTRL, 0, 31, 1⟩
def LANE_CTRL_AUTO : FieldRef := ⟨.LANE_CTRL, 0, 30, 1⟩
def LANE_CTRL_BWC : FieldRef := ⟨.LANE_CTRL, 0, 28, 2⟩
def LANE_CTRL_FMT : FieldRef := ⟨.LANE_CTRL, 0, 26, 2⟩
def LANE_CTRL_TMO : FieldRef := ⟨.LANE_CTRL, 0, 16, 8⟩
def LANE_STAT_FRAME : FieldRef := ⟨.LANE_STAT, 0, 16, 16⟩
def LANE_STAT_OPEN : FieldRef := ⟨.LANE_STAT, 0, 7, 1⟩
def LANE_STAT_FMTERR : FieldRef := ⟨.LANE_STAT, 0, 6, 1⟩
def LANE_STAT_BONDERR : FieldRef := ⟨.LANE_STAT, 0, 5, 1⟩
def LANE_STAT_BLOCK : FieldRef := ⟨.LANE_STAT, 0, 4, 1⟩
def LANE_STAT_STATE : FieldRef := ⟨.LANE_STAT, 0, 0, 4⟩
def LANE_LCFG_SAMPLES : FieldRef := ⟨.LANE_LCFG, 0, 0, 16⟩
def LANE_LCFG_ALINES : FieldRef := ⟨.LANE_LCFG, 1, 16, 14⟩
def LANE_LCFG_DLY : FieldRef := ⟨.LANE_LCFG, 1, 0, 14⟩
def LANE_TXW_WLO : FieldRef := ⟨.LANE_TXW, 0, 0, 32⟩
def LANE_TXW_WHI : FieldRef := ⟨.LANE_TXW, 1, 0, 32⟩
def LANE_TXS_DEPTH : FieldRef := ⟨.LANE_TXS, 0, 0, 3⟩
def LANE_CAM_CAMID : FieldRef := ⟨.LANE_CAM, 0, 16, 16⟩
def LANE_CAM_FMTS : FieldRef := ⟨.LANE_CAM, 0, 8, 8⟩
def LANE_CNT0_CRCERR : FieldRef := ⟨.LANE_CNT0, 0, 16, 16⟩
def LANE_CNT0_HDRERR : FieldRef := ⟨.LANE_CNT0, 0, 0, 16⟩
def LANE_CNT1_MISSING : FieldRef := ⟨.LANE_CNT1, 0, 16, 16⟩
def LANE_CNT1_LATE : FieldRef := ⟨.LANE_CNT1, 0, 0, 16⟩
def LANE_CNT2_LENERR : FieldRef := ⟨.LANE_CNT2, 0, 24, 8⟩
def LANE_CNT2_RETRAIN : FieldRef := ⟨.LANE_CNT2, 0, 16, 8⟩
def LANE_CNT2_BLKERR : FieldRef := ⟨.LANE_CNT2, 0, 0, 16⟩
def LANE_CNT3_FSKIP : FieldRef := ⟨.LANE_CNT3, 0, 16, 16⟩
def LANE_CNT3_TXDROP : FieldRef := ⟨.LANE_CNT3, 0, 0, 16⟩
def LANE_LINES_LINES : FieldRef := ⟨.LANE_LINES, 0, 0, 32⟩
def LFI_CFG_P0EN : FieldRef := ⟨.LFI_CFG, 0, 31, 1⟩
def LFI_CFG_P1EN : FieldRef := ⟨.LFI_CFG, 0, 30, 1⟩
def LFI_CFG_MODE : FieldRef := ⟨.LFI_CFG, 0, 29, 1⟩
def LFI_CFG_LPB : FieldRef := ⟨.LFI_CFG, 0, 20, 9⟩
def LFI_CFG_IDLE : FieldRef := ⟨.LFI_CFG, 0, 0, 12⟩
def LFI_STAT_AFREE : FieldRef := ⟨.LFI_STAT, 0, 31, 1⟩
def LFI_STAT_BFREE : FieldRef := ⟨.LFI_STAT, 0, 30, 1⟩
def LFI_STAT_WBANK : FieldRef := ⟨.LFI_STAT, 0, 29, 1⟩
def LFI_STAT_ARECS : FieldRef := ⟨.LFI_STAT, 0, 20, 9⟩
def LFI_STAT_BRECS : FieldRef := ⟨.LFI_STAT, 0, 11, 9⟩
def LFI_STAT_P0MARK : FieldRef := ⟨.LFI_STAT, 0, 10, 1⟩
def LFI_STAT_P1MARK : FieldRef := ⟨.LFI_STAT, 0, 9, 1⟩
def LFI_CNT_OVF : FieldRef := ⟨.LFI_CNT, 0, 16, 16⟩
def LFI_CNT_NOTICE : FieldRef := ⟨.LFI_CNT, 0, 0, 16⟩
def LFI_CMD_OP : FieldRef := ⟨.LFI_CMD, 0, 0, 4⟩
def LFI_IDLEST_LO_IDLE : FieldRef := ⟨.LFI_IDLEST_LO, 0, 0, 32⟩
def LFI_IDLEST_HI_IDLE : FieldRef := ⟨.LFI_IDLEST_HI, 0, 0, 32⟩
def SWT_CFG_EN : FieldRef := ⟨.SWT_CFG, 0, 31, 1⟩
def SWT_CFG_AUTO : FieldRef := ⟨.SWT_CFG, 0, 30, 1⟩
def SWT_CFG_TILES : FieldRef := ⟨.SWT_CFG, 0, 29, 1⟩
def SWT_CFG_CFA : FieldRef := ⟨.SWT_CFG, 0, 27, 2⟩
def SWT_CLIP_CLIPLO : FieldRef := ⟨.SWT_CLIP, 0, 16, 12⟩
def SWT_CLIP_CLIPHI : FieldRef := ⟨.SWT_CLIP, 0, 0, 12⟩
def SWT_BUF_HANDLE : FieldRef := ⟨.SWT_BUF, 0, 0, 32⟩
def SWT_STAT_FRAME : FieldRef := ⟨.SWT_STAT, 0, 16, 16⟩
def SWT_STAT_QUEUED : FieldRef := ⟨.SWT_STAT, 0, 0, 2⟩
def SWT_CNT_RECORDS : FieldRef := ⟨.SWT_CNT, 0, 16, 16⟩
def SWT_CNT_DROP : FieldRef := ⟨.SWT_CNT, 0, 0, 16⟩
def NDL_CTL_FVEC : FieldRef := ⟨.NDL_CTL, 0, 31, 1⟩
def NDL_CTL_IMASK : FieldRef := ⟨.NDL_CTL, 0, 0, 8⟩
def NDL_STAT_STATE : FieldRef := ⟨.NDL_STAT, 0, 28, 4⟩
def NDL_STAT_EXC : FieldRef := ⟨.NDL_STAT, 0, 27, 1⟩
def NDL_STAT_BOUND : FieldRef := ⟨.NDL_STAT, 0, 26, 1⟩
def NDL_STAT_NBANK : FieldRef := ⟨.NDL_STAT, 0, 25, 1⟩
def NDL_STAT_SLOT : FieldRef := ⟨.NDL_STAT, 0, 16, 8⟩
def NDL_STAT_IPEND : FieldRef := ⟨.NDL_STAT, 0, 0, 8⟩
def NDL_PC_WORD : FieldRef := ⟨.NDL_PC, 0, 2, 15⟩
def NDL_PC_USLOT : FieldRef := ⟨.NDL_PC, 0, 0, 2⟩
def NDL_CMD_OP : FieldRef := ⟨.NDL_CMD, 0, 0, 4⟩
def NDL_HENTRY_ADDR : FieldRef := ⟨.NDL_HENTRY, 0, 0, 15⟩
def NDL_HRANGE_HLIM : FieldRef := ⟨.NDL_HRANGE, 0, 16, 15⟩
def NDL_HRANGE_HBASE : FieldRef := ⟨.NDL_HRANGE, 0, 0, 15⟩
def NDL_BELL_RING : FieldRef := ⟨.NDL_BELL, 0, 0, 2⟩
def NDL_XSTAT_KIND : FieldRef := ⟨.NDL_XSTAT, 0, 28, 4⟩
def NDL_XSTAT_CAUSE : FieldRef := ⟨.NDL_XSTAT, 0, 24, 4⟩
def NDL_XSTAT_PC : FieldRef := ⟨.NDL_XSTAT, 0, 0, 17⟩
def NDL_FSTAT_CODE : FieldRef := ⟨.NDL_FSTAT, 0, 24, 8⟩
def NDL_FSTAT_NIDX : FieldRef := ⟨.NDL_FSTAT, 0, 14, 10⟩
def NDL_FSTAT_NBANK : FieldRef := ⟨.NDL_FSTAT, 0, 13, 1⟩
def NDL_FSTAT_ATSAFE : FieldRef := ⟨.NDL_FSTAT, 0, 12, 1⟩
def NDL_FSTAT_BERR : FieldRef := ⟨.NDL_FSTAT, 0, 0, 4⟩
def NDL_FADDR_LO_ADDR : FieldRef := ⟨.NDL_FADDR_LO, 0, 0, 32⟩
def NDL_FADDR_HI_ADDR : FieldRef := ⟨.NDL_FADDR_HI, 0, 0, 32⟩
def NDL_CNT0_BUSY : FieldRef := ⟨.NDL_CNT0, 0, 0, 32⟩
def NDL_CNT1_STALL : FieldRef := ⟨.NDL_CNT1, 0, 0, 32⟩
def NDL_ECC_LSCE : FieldRef := ⟨.NDL_ECC, 0, 16, 16⟩
def NDL_ECC_LSUE : FieldRef := ⟨.NDL_ECC, 0, 0, 16⟩
def SKN_NANOA_STATE : FieldRef := ⟨.SKN_NANOA, 0, 28, 4⟩
def SKN_NANOA_USERS : FieldRef := ⟨.SKN_NANOA, 0, 24, 4⟩
def SKN_NANOA_CVALID : FieldRef := ⟨.SKN_NANOA, 0, 23, 1⟩
def SKN_NANOA_LIBREV : FieldRef := ⟨.SKN_NANOA, 0, 0, 16⟩
def SKN_NANOB_STATE : FieldRef := ⟨.SKN_NANOB, 0, 28, 4⟩
def SKN_NANOB_USERS : FieldRef := ⟨.SKN_NANOB, 0, 24, 4⟩
def SKN_NANOB_CVALID : FieldRef := ⟨.SKN_NANOB, 0, 23, 1⟩
def SKN_NANOB_LIBREV : FieldRef := ⟨.SKN_NANOB, 0, 0, 16⟩
def SKN_CREVA_CUSTREV : FieldRef := ⟨.SKN_CREVA, 0, 0, 16⟩
def SKN_CREVB_CUSTREV : FieldRef := ⟨.SKN_CREVB, 0, 0, 16⟩
def SKN_MEMECC_CE : FieldRef := ⟨.SKN_MEMECC, 0, 16, 16⟩
def SKN_MEMECC_UE : FieldRef := ⟨.SKN_MEMECC, 0, 0, 16⟩
def SKN_UEADDR_WORD : FieldRef := ⟨.SKN_UEADDR, 0, 0, 19⟩
def SKN_SCRUB_EN : FieldRef := ⟨.SKN_SCRUB, 0, 31, 1⟩
def SKN_NPAR_COUNT : FieldRef := ⟨.SKN_NPAR, 0, 16, 16⟩
def SKN_NPAR_BANK : FieldRef := ⟨.SKN_NPAR, 0, 10, 1⟩
def SKN_NPAR_ENTRY : FieldRef := ⟨.SKN_NPAR, 0, 0, 10⟩
def SKN_DIST0_EN : FieldRef := ⟨.SKN_DIST0, 0, 31, 1⟩
def SKN_DIST0_PORT : FieldRef := ⟨.SKN_DIST0, 0, 30, 1⟩
def SKN_DIST0_LFI : FieldRef := ⟨.SKN_DIST0, 0, 24, 6⟩
def SKN_DIST0_IGN : FieldRef := ⟨.SKN_DIST0, 0, 16, 8⟩
def SKN_DIST0_MASK : FieldRef := ⟨.SKN_DIST0, 0, 0, 8⟩
def SKN_DIST1_EN : FieldRef := ⟨.SKN_DIST1, 0, 31, 1⟩
def SKN_DIST1_PORT : FieldRef := ⟨.SKN_DIST1, 0, 30, 1⟩
def SKN_DIST1_LFI : FieldRef := ⟨.SKN_DIST1, 0, 24, 6⟩
def SKN_DIST1_IGN : FieldRef := ⟨.SKN_DIST1, 0, 16, 8⟩
def SKN_DIST1_MASK : FieldRef := ⟨.SKN_DIST1, 0, 0, 8⟩
def SYS_PSLOTQ_SLOT : FieldRef := ⟨.SYS_PSLOTQ, 0, 0, 8⟩
def SYS_PSLOTR_STATE : FieldRef := ⟨.SYS_PSLOTR, 0, 28, 4⟩
def SYS_PSLOTR_NOUT : FieldRef := ⟨.SYS_PSLOTR, 0, 24, 2⟩
def SYS_PSLOTR_NEEDLES : FieldRef := ⟨.SYS_PSLOTR, 0, 16, 8⟩
def SYS_PSLOTR_LIBREV : FieldRef := ⟨.SYS_PSLOTR, 0, 0, 16⟩
def SYS_PCOUNT_SLOTS : FieldRef := ⟨.SYS_PCOUNT, 0, 16, 9⟩
def SYS_PCOUNT_STREAMS : FieldRef := ⟨.SYS_PCOUNT, 0, 0, 8⟩
def SYS_ENCQ_OUT : FieldRef := ⟨.SYS_ENCQ, 0, 8, 2⟩
def SYS_ENCQ_SLOT : FieldRef := ⟨.SYS_ENCQ, 0, 0, 8⟩
def SYS_ENCR_PICS : FieldRef := ⟨.SYS_ENCR, 0, 0, 32⟩
def SYS_ENCR_KEYS : FieldRef := ⟨.SYS_ENCR, 1, 16, 16⟩
def SYS_ENCR_KEYREQ : FieldRef := ⟨.SYS_ENCR, 1, 0, 16⟩
def SYS_ENCR_KEYMERGE : FieldRef := ⟨.SYS_ENCR, 2, 16, 16⟩
def SYS_ENCR_SCENE : FieldRef := ⟨.SYS_ENCR, 2, 0, 16⟩
def SYS_ENCR_INFILL : FieldRef := ⟨.SYS_ENCR, 3, 16, 16⟩
def SYS_ENCR_XVLATE : FieldRef := ⟨.SYS_ENCR, 3, 0, 16⟩
def SYS_ENCR_ODROP : FieldRef := ⟨.SYS_ENCR, 4, 24, 8⟩
def SYS_ENCR_FREEZE : FieldRef := ⟨.SYS_ENCR, 4, 16, 8⟩
def SYS_ENCR_WINLATE : FieldRef := ⟨.SYS_ENCR, 4, 4, 12⟩
def SYS_ENCR_ACCEL : FieldRef := ⟨.SYS_ENCR, 4, 3, 1⟩
def SYS_KEYREQ_OUT : FieldRef := ⟨.SYS_KEYREQ, 0, 8, 2⟩
def SYS_KEYREQ_SLOT : FieldRef := ⟨.SYS_KEYREQ, 0, 0, 8⟩
def GAU_CTRL_SEEDRD : FieldRef := ⟨.GAU_CTRL, 0, 31, 1⟩
def GAU_CTRL_SEEDWR : FieldRef := ⟨.GAU_CTRL, 0, 30, 1⟩
def GAU_CTRL_STMO : FieldRef := ⟨.GAU_CTRL, 0, 0, 8⟩
def GAU_OUTQ_OUT : FieldRef := ⟨.GAU_OUTQ, 0, 8, 2⟩
def GAU_OUTQ_SLOT : FieldRef := ⟨.GAU_OUTQ, 0, 0, 8⟩
def GAU_OUTR_F : FieldRef := ⟨.GAU_OUTR, 0, 0, 32⟩
def GAU_OUTR_MINF : FieldRef := ⟨.GAU_OUTR, 1, 0, 32⟩
def GAU_OUTR_TPIC : FieldRef := ⟨.GAU_OUTR, 2, 0, 32⟩
def GAU_OUTR_SHARE : FieldRef := ⟨.GAU_OUTR, 3, 0, 32⟩
def GAU_OUTR_QP1 : FieldRef := ⟨.GAU_OUTR, 4, 24, 8⟩
def GAU_OUTR_ROW : FieldRef := ⟨.GAU_OUTR, 4, 16, 8⟩
def GAU_OUTR_SEEDSRC : FieldRef := ⟨.GAU_OUTR, 4, 14, 2⟩
def GAU_OUTR_SETTLE : FieldRef := ⟨.GAU_OUTR, 4, 13, 1⟩
def GAU_OUTR_INREW : FieldRef := ⟨.GAU_OUTR, 4, 12, 1⟩
def GAU_OUTR_ROWFLOOR : FieldRef := ⟨.GAU_OUTR, 5, 16, 16⟩
def GAU_OUTR_REWOUND : FieldRef := ⟨.GAU_OUTR, 5, 0, 16⟩
def GAU_OUTR_REWDENY : FieldRef := ⟨.GAU_OUTR, 6, 16, 16⟩
def GAU_OUTR_OVR : FieldRef := ⟨.GAU_OUTR, 6, 0, 16⟩
def GAU_OUTR_FILLER : FieldRef := ⟨.GAU_OUTR, 7, 0, 32⟩
def GAU_GRPQ_GROUP : FieldRef := ⟨.GAU_GRPQ, 0, 0, 8⟩
def GAU_GRPR_TOTAL : FieldRef := ⟨.GAU_GRPR, 0, 0, 32⟩
def GAU_GRPR_ALLOC : FieldRef := ⟨.GAU_GRPR, 1, 0, 32⟩
def GAU_GRPR_MISSED : FieldRef := ⟨.GAU_GRPR, 2, 16, 16⟩
def GAU_GRPR_LOCAL : FieldRef := ⟨.GAU_GRPR, 2, 8, 1⟩
def GAU_GRPR_MEMBERS : FieldRef := ⟨.GAU_GRPR, 2, 0, 8⟩
def GAU_GRPR_APPLIED : FieldRef := ⟨.GAU_GRPR, 3, 0, 32⟩
def GAU_CNT_BADREP : FieldRef := ⟨.GAU_CNT, 0, 16, 16⟩
def GAU_CNT_OVR : FieldRef := ⟨.GAU_CNT, 0, 8, 8⟩
def GAU_CNT_HRDERR : FieldRef := ⟨.GAU_CNT, 0, 0, 8⟩
def SYS_DECCFG_GAPWAIT : FieldRef := ⟨.SYS_DECCFG, 0, 24, 8⟩
def SYS_DECCFG_DELAY : FieldRef := ⟨.SYS_DECCFG, 0, 20, 4⟩
def SYS_DECCFG_HASH : FieldRef := ⟨.SYS_DECCFG, 0, 19, 1⟩
def SYS_DECCFG_SUBST : FieldRef := ⟨.SYS_DECCFG, 0, 17, 2⟩
def SYS_DECCFG_IN : FieldRef := ⟨.SYS_DECCFG, 0, 8, 4⟩
def SYS_DECCFG_SLOT : FieldRef := ⟨.SYS_DECCFG, 0, 0, 8⟩
def SYS_DECQ_IN : FieldRef := ⟨.SYS_DECQ, 0, 8, 4⟩
def SYS_DECQ_SLOT : FieldRef := ⟨.SYS_DECQ, 0, 0, 8⟩
def SYS_DECR_PICS : FieldRef := ⟨.SYS_DECR, 0, 0, 32⟩
def SYS_DECR_CONC : FieldRef := ⟨.SYS_DECR, 1, 16, 16⟩
def SYS_DECR_NONEX : FieldRef := ⟨.SYS_DECR, 1, 0, 16⟩
def SYS_DECR_LOSTU : FieldRef := ⟨.SYS_DECR, 2, 16, 16⟩
def SYS_DECR_LATE : FieldRef := ⟨.SYS_DECR, 2, 0, 16⟩
def SYS_DECR_LOSTPIC : FieldRef := ⟨.SYS_DECR, 3, 16, 16⟩
def SYS_DECR_HASHERR : FieldRef := ⟨.SYS_DECR, 3, 8, 8⟩
def SYS_DECR_SLICEERR : FieldRef := ⟨.SYS_DECR, 3, 0, 8⟩
def SYS_DECR_UNDERRUN : FieldRef := ⟨.SYS_DECR, 4, 16, 16⟩
def SYS_DECR_LATEPIC : FieldRef := ⟨.SYS_DECR, 4, 8, 8⟩
def SYS_DECR_POOLFAIL : FieldRef := ⟨.SYS_DECR, 4, 0, 8⟩
def SYS_DECR_DUP : FieldRef := ⟨.SYS_DECR, 5, 16, 16⟩
def SYS_DECR_RASLSKIP : FieldRef := ⟨.SYS_DECR, 5, 0, 16⟩
def SYS_DECR_GAPWAIT : FieldRef := ⟨.SYS_DECR, 6, 24, 8⟩
def SYS_DECR_DELAY : FieldRef := ⟨.SYS_DECR, 6, 20, 4⟩
def SYS_DECR_SUBST : FieldRef := ⟨.SYS_DECR, 6, 18, 2⟩
def SYS_DECR_EPISODE : FieldRef := ⟨.SYS_DECR, 6, 17, 1⟩
def SYS_DECR_UNSUPP : FieldRef := ⟨.SYS_DECR, 6, 16, 1⟩
def SYS_DECR_RESYNC : FieldRef := ⟨.SYS_DECR, 6, 8, 8⟩
def SYS_DECR_RINGOVF : FieldRef := ⟨.SYS_DECR, 6, 0, 8⟩
def MCH_CTRL_SCRUB : FieldRef := ⟨.MCH_CTRL, 0, 31, 1⟩
def MCH_CTRL_FORCE : FieldRef := ⟨.MCH_CTRL, 0, 16, 8⟩
def MCH_CTRL_DTH : FieldRef := ⟨.MCH_CTRL, 0, 8, 8⟩
def MCH_CTRL_DHARD : FieldRef := ⟨.MCH_CTRL, 0, 0, 8⟩
def MCH_RDCFG_RDTH : FieldRef := ⟨.MCH_RDCFG, 0, 16, 16⟩
def MCH_RDCFG_RDWIN : FieldRef := ⟨.MCH_RDCFG, 0, 8, 8⟩
def MCH_RDCFG_RDGAP : FieldRef := ⟨.MCH_RDCFG, 0, 0, 8⟩
def MCH_STAT_CST : FieldRef := ⟨.MCH_STAT, 0, 28, 4⟩
def MCH_STAT_DUE : FieldRef := ⟨.MCH_STAT, 0, 27, 1⟩
def MCH_STAT_THR : FieldRef := ⟨.MCH_STAT, 0, 26, 1⟩
def MCH_STAT_DRIFT : FieldRef := ⟨.MCH_STAT, 0, 8, 8⟩
def MCH_ECC_CE : FieldRef := ⟨.MCH_ECC, 0, 16, 16⟩
def MCH_ECC_RETRYOK : FieldRef := ⟨.MCH_ECC, 0, 8, 8⟩
def MCH_CEADDR_U : FieldRef := ⟨.MCH_CEADDR, 0, 0, 28⟩
def MCH_TRNCNT0_FULL : FieldRef := ⟨.MCH_TRNCNT0, 0, 16, 16⟩
def MCH_TRNCNT0_QUICK : FieldRef := ⟨.MCH_TRNCNT0, 0, 0, 16⟩
def MCH_TRNCNT1_SHORT : FieldRef := ⟨.MCH_TRNCNT1, 0, 16, 16⟩
def MCH_TRNCNT1_FORCED : FieldRef := ⟨.MCH_TRNCNT1, 0, 8, 8⟩
def MCH_TRNCNT1_IGN : FieldRef := ⟨.MCH_TRNCNT1, 0, 0, 8⟩
def MCH_RDCNT_HITS : FieldRef := ⟨.MCH_RDCNT, 0, 16, 16⟩
def MCH_RDCNT_THRFULL : FieldRef := ⟨.MCH_RDCNT, 0, 8, 8⟩
def MCH_RDCNT_ACTIVE : FieldRef := ⟨.MCH_RDCNT, 0, 0, 6⟩
def MCH_RDLAST_REQ : FieldRef := ⟨.MCH_RDLAST, 0, 24, 8⟩
def MCH_RDLAST_BANK : FieldRef := ⟨.MCH_RDLAST, 0, 20, 4⟩
def MCH_RDLAST_ROW : FieldRef := ⟨.MCH_RDLAST, 0, 4, 16⟩
def MCH_PAR_CAPRETRY : FieldRef := ⟨.MCH_PAR, 0, 16, 16⟩
def MCH_UE_VALID : FieldRef := ⟨.MCH_UE, 0, 31, 1⟩
def MCH_UE_KIND : FieldRef := ⟨.MCH_UE, 0, 28, 3⟩
def MCH_UE_U : FieldRef := ⟨.MCH_UE, 0, 0, 28⟩
def MCH_UE_REQ : FieldRef := ⟨.MCH_UE, 1, 24, 8⟩
def MCH_UE_SYND1 : FieldRef := ⟨.MCH_UE, 1, 16, 8⟩
def MCH_UE_SYND2 : FieldRef := ⟨.MCH_UE, 1, 8, 8⟩
def MCH_UE_RAWLO : FieldRef := ⟨.MCH_UE, 2, 0, 32⟩
def MCH_UE_RAWMID : FieldRef := ⟨.MCH_UE, 3, 0, 32⟩
def MCH_UE_RAWHI : FieldRef := ⟨.MCH_UE, 4, 0, 16⟩
def MCH_UE_WHELD : FieldRef := ⟨.MCH_UE, 5, 16, 16⟩
def MCH_UE_RREF : FieldRef := ⟨.MCH_UE, 5, 0, 16⟩
def MCH_BAYSTAT_BST : FieldRef := ⟨.MCH_BAYSTAT, 0, 28, 4⟩
def MCH_BAYSTAT_FCH : FieldRef := ⟨.MCH_BAYSTAT, 0, 24, 2⟩
def MCH_BAYCMD_OP : FieldRef := ⟨.MCH_BAYCMD, 0, 0, 4⟩
def MCH_DIAGA_X : FieldRef := ⟨.MCH_DIAGA, 0, 0, 30⟩
def MCH_DIAGR_VALID : FieldRef := ⟨.MCH_DIAGR, 0, 31, 1⟩
def MCH_DIAGR_TMO : FieldRef := ⟨.MCH_DIAGR, 0, 30, 1⟩
def MCH_DIAGR_SYND : FieldRef := ⟨.MCH_DIAGR, 0, 16, 8⟩
def MCH_DIAGR_RAWHI : FieldRef := ⟨.MCH_DIAGR, 0, 0, 16⟩
def MCH_DIAGR_RAWMID : FieldRef := ⟨.MCH_DIAGR, 1, 0, 32⟩
def MCH_DIAGR_RAWLO : FieldRef := ⟨.MCH_DIAGR, 2, 0, 32⟩
def STL_POOL_EN : FieldRef := ⟨.STL_POOL, 0, 31, 1⟩
def STL_POOL_BAY : FieldRef := ⟨.STL_POOL, 0, 26, 2⟩
def STL_POOL_LOG2SZ : FieldRef := ⟨.STL_POOL, 0, 21, 5⟩
def STL_POOL_BASE : FieldRef := ⟨.STL_POOL, 0, 0, 21⟩
def STL_POOL_COUNTM1 : FieldRef := ⟨.STL_POOL, 1, 0, 18⟩
def STL_PSTAT_FREEBUF : FieldRef := ⟨.STL_PSTAT, 0, 13, 19⟩
def STL_PSTAT_FROZEN : FieldRef := ⟨.STL_PSTAT, 0, 12, 1⟩
def STL_PCNT_EMPTY : FieldRef := ⟨.STL_PCNT, 0, 16, 16⟩
def STL_PCNT_QUOTA : FieldRef := ⟨.STL_PCNT, 0, 0, 16⟩
def STL_QUOTA_LIMIT : FieldRef := ⟨.STL_QUOTA, 0, 0, 24⟩
def STL_USE_USE : FieldRef := ⟨.STL_USE, 0, 0, 24⟩
def STL_OP_HANDLE : FieldRef := ⟨.STL_OP, 0, 0, 32⟩
def STL_OP_OFFSET : FieldRef := ⟨.STL_OP, 1, 0, 26⟩
def STL_OP_OP : FieldRef := ⟨.STL_OP, 2, 28, 4⟩
def STL_OP_LENM1 : FieldRef := ⟨.STL_OP, 2, 0, 23⟩
def STL_RES_VALUE : FieldRef := ⟨.STL_RES, 0, 0, 32⟩
def STL_RES_RESULT : FieldRef := ⟨.STL_RES, 1, 28, 4⟩
def STL_RES_ADDRHI : FieldRef := ⟨.STL_RES, 1, 0, 16⟩
def STL_FCAP_HANDLE : FieldRef := ⟨.STL_FCAP, 0, 0, 32⟩
def STL_FCAP_ARM : FieldRef := ⟨.STL_FCAP, 1, 31, 1⟩
def STL_FCAP_OP : FieldRef := ⟨.STL_FCAP, 1, 12, 4⟩
def STL_FCAP_CAUSE : FieldRef := ⟨.STL_FCAP, 1, 8, 4⟩
def STL_FCAP_REQ : FieldRef := ⟨.STL_FCAP, 1, 0, 8⟩
def STL_CNT_HNDREF : FieldRef := ⟨.STL_CNT, 0, 16, 16⟩
def STL_CNT_FORCED : FieldRef := ⟨.STL_CNT, 0, 0, 16⟩
def STL_STAT_RECS : FieldRef := ⟨.STL_STAT, 0, 14, 18⟩
def STL_STAT_TICKETS : FieldRef := ⟨.STL_STAT, 0, 0, 14⟩
def STL_REVOKE_DONE : FieldRef := ⟨.STL_REVOKE, 0, 8, 24⟩
def STL_REVOKE_RID : FieldRef := ⟨.STL_REVOKE, 0, 0, 8⟩
def PRT_CTL_EN : FieldRef := ⟨.PRT_CTL, 0, 31, 1⟩
def PRT_CTL_PRI : FieldRef := ⟨.PRT_CTL, 0, 30, 1⟩
def PRT_DESC_ADDR_LO : FieldRef := ⟨.PRT_DESC, 0, 6, 26⟩
def PRT_DESC_START : FieldRef := ⟨.PRT_DESC, 1, 31, 1⟩
def PRT_DESC_ADDR_HI : FieldRef := ⟨.PRT_DESC, 1, 0, 16⟩
def PRT_CMD_OP : FieldRef := ⟨.PRT_CMD, 0, 0, 4⟩
def PRT_STAT_STATE : FieldRef := ⟨.PRT_STAT, 0, 28, 4⟩
def PRT_STAT_RESULT : FieldRef := ⟨.PRT_STAT, 0, 24, 4⟩
def PRT_STAT_DETAIL : FieldRef := ⟨.PRT_STAT, 0, 16, 8⟩
def PRT_STAT_DESCS : FieldRef := ⟨.PRT_STAT, 0, 0, 16⟩
def PRT_CUR_ADDR_LO : FieldRef := ⟨.PRT_CUR, 0, 0, 32⟩
def PRT_CUR_ADDR_HI : FieldRef := ⟨.PRT_CUR, 1, 0, 16⟩
def PRT_RESID_RESID : FieldRef := ⟨.PRT_RESID, 0, 0, 32⟩
def PRT_DDONE_DDONE : FieldRef := ⟨.PRT_DDONE, 0, 0, 32⟩
def PRT_EADDR_ADDR_LO : FieldRef := ⟨.PRT_EADDR, 0, 0, 32⟩
def PRT_EADDR_ADDR_HI : FieldRef := ⟨.PRT_EADDR, 1, 0, 16⟩
def PRT_GSTAT_CLAIM : FieldRef := ⟨.PRT_GSTAT, 0, 16, 16⟩
def PRT_GSTAT_ACTIVE : FieldRef := ⟨.PRT_GSTAT, 0, 0, 16⟩
def PRT_GCNT_ERRORS : FieldRef := ⟨.PRT_GCNT, 0, 16, 16⟩
def PRT_GCNT_ABORTS : FieldRef := ⟨.PRT_GCNT, 0, 0, 16⟩
def ETH_CFG_EN : FieldRef := ⟨.ETH_CFG, 0, 31, 1⟩
def ETH_CFG_GANG : FieldRef := ⟨.ETH_CFG, 0, 30, 1⟩
def ETH_CFG_MAXLEN : FieldRef := ⟨.ETH_CFG, 0, 16, 14⟩
def ETH_CFG_PMETA : FieldRef := ⟨.ETH_CFG, 0, 0, 16⟩
def ETH_STAT_LINK : FieldRef := ⟨.ETH_STAT, 0, 31, 1⟩
def ETH_STAT_BLOCK : FieldRef := ⟨.ETH_STAT, 0, 30, 1⟩
def ETH_STAT_FECLOCK : FieldRef := ⟨.ETH_STAT, 0, 29, 1⟩
def ETH_STAT_ALIGN : FieldRef := ⟨.ETH_STAT, 0, 28, 1⟩
def ETH_STAT_MEMBER : FieldRef := ⟨.ETH_STAT, 0, 27, 1⟩
def ETH_RXCNT_RX : FieldRef := ⟨.ETH_RXCNT, 0, 0, 32⟩
def ETH_TXCNT_TX : FieldRef := ⟨.ETH_TXCNT, 0, 0, 32⟩
def ETH_RXERR_BAD : FieldRef := ⟨.ETH_RXERR, 0, 16, 16⟩
def ETH_RXERR_RXDROP : FieldRef := ⟨.ETH_RXERR, 0, 0, 16⟩
def ETH_FEC_CORR : FieldRef := ⟨.ETH_FEC, 0, 16, 16⟩
def ETH_FEC_UNCORR : FieldRef := ⟨.ETH_FEC, 0, 0, 16⟩
def ETH_MISC_MACCTL : FieldRef := ⟨.ETH_MISC, 0, 16, 16⟩
def SSW_CFG_LEARN : FieldRef := ⟨.SSW_CFG, 0, 31, 1⟩
def SSW_CFG_MISSQ : FieldRef := ⟨.SSW_CFG, 0, 24, 6⟩
def SSW_CFG_MIRQ : FieldRef := ⟨.SSW_CFG, 0, 16, 6⟩
def SSW_CFG_LQUEUE : FieldRef := ⟨.SSW_CFG, 0, 8, 6⟩
def SSW_RTP_EN : FieldRef := ⟨.SSW_RTP, 0, 31, 1⟩
def SSW_RTP_PFMT : FieldRef := ⟨.SSW_RTP, 0, 28, 2⟩
def SSW_RTP_LOG2N : FieldRef := ⟨.SSW_RTP, 0, 16, 4⟩
def SSW_RTP_BASE : FieldRef := ⟨.SSW_RTP, 0, 0, 16⟩
def SSW_GRP_CORE : FieldRef := ⟨.SSW_GRP, 0, 31, 1⟩
def SSW_GRP_CQ : FieldRef := ⟨.SSW_GRP, 0, 24, 6⟩
def SSW_GRP_PORTS : FieldRef := ⟨.SSW_GRP, 0, 0, 24⟩
def SSW_CQ_EN : FieldRef := ⟨.SSW_CQ, 0, 31, 1⟩
def SSW_CQ_POOL : FieldRef := ⟨.SSW_CQ, 0, 24, 6⟩
def SSW_CQ_LOG2N : FieldRef := ⟨.SSW_CQ, 0, 20, 4⟩
def SSW_CQ_BASE : FieldRef := ⟨.SSW_CQ, 0, 0, 20⟩
def SSW_CQ_RID : FieldRef := ⟨.SSW_CQ, 1, 0, 8⟩
def SSW_CQI_PI : FieldRef := ⟨.SSW_CQI, 0, 16, 12⟩
def SSW_CQI_CI : FieldRef := ⟨.SSW_CQI, 0, 0, 12⟩
def SSW_IDT_CLASS : FieldRef := ⟨.SSW_IDT, 0, 0, 32⟩
def SSW_TX_HANDLE : FieldRef := ⟨.SSW_TX, 0, 0, 32⟩
def SSW_TX_LEN : FieldRef := ⟨.SSW_TX, 1, 0, 16⟩
def SSW_TX_PORT : FieldRef := ⟨.SSW_TX, 2, 27, 5⟩
def SSW_TX_QUEUE : FieldRef := ⟨.SSW_TX, 2, 21, 6⟩
def SSW_CNT0_NODEST : FieldRef := ⟨.SSW_CNT0, 0, 16, 16⟩
def SSW_CNT0_NOINPUT : FieldRef := ⟨.SSW_CNT0, 0, 0, 16⟩
def SSW_CNT1_PORTOFF : FieldRef := ⟨.SSW_CNT1, 0, 16, 16⟩
def SSW_CNT1_CQDROP : FieldRef := ⟨.SSW_CNT1, 0, 0, 16⟩
def SSW_CNT2_FRAGERR : FieldRef := ⟨.SSW_CNT2, 0, 16, 16⟩
def SSW_CNT2_RCLIM : FieldRef := ⟨.SSW_CNT2, 0, 8, 8⟩
def SSW_CNT2_TXREF : FieldRef := ⟨.SSW_CNT2, 0, 0, 8⟩
def SSW_CNT3_PERR : FieldRef := ⟨.SSW_CNT3, 0, 16, 16⟩
def SSW_CNT3_CTUE : FieldRef := ⟨.SSW_CNT3, 0, 0, 16⟩
def CT_CFG_EN : FieldRef := ⟨.CT_CFG, 0, 31, 1⟩
def CT_CFG_SEL0 : FieldRef := ⟨.CT_CFG, 0, 18, 6⟩
def CT_CFG_SEL1 : FieldRef := ⟨.CT_CFG, 0, 12, 6⟩
def CT_CFG_SEL2 : FieldRef := ⟨.CT_CFG, 0, 6, 6⟩
def CT_CFG_SEL3 : FieldRef := ⟨.CT_CFG, 0, 0, 6⟩
def CT_ENTRY_VALUE0 : FieldRef := ⟨.CT_ENTRY, 0, 0, 32⟩
def CT_ENTRY_VALUE1 : FieldRef := ⟨.CT_ENTRY, 1, 0, 32⟩
def CT_ENTRY_VALUE2 : FieldRef := ⟨.CT_ENTRY, 2, 0, 32⟩
def CT_ENTRY_VALUE3 : FieldRef := ⟨.CT_ENTRY, 3, 0, 32⟩
def CT_ENTRY_MASK0 : FieldRef := ⟨.CT_ENTRY, 4, 0, 32⟩
def CT_ENTRY_MASK1 : FieldRef := ⟨.CT_ENTRY, 5, 0, 32⟩
def CT_ENTRY_MASK2 : FieldRef := ⟨.CT_ENTRY, 6, 0, 32⟩
def CT_ENTRY_MASK3 : FieldRef := ⟨.CT_ENTRY, 7, 0, 32⟩
def CT_ENTRY_ACTION0 : FieldRef := ⟨.CT_ENTRY, 8, 0, 32⟩
def CT_ENTRY_ACTION1 : FieldRef := ⟨.CT_ENTRY, 9, 0, 32⟩
def CT_ENTRY_ACTION2 : FieldRef := ⟨.CT_ENTRY, 10, 0, 32⟩
def CT_ENTRY_ACTION3 : FieldRef := ⟨.CT_ENTRY, 11, 0, 32⟩
def CT_ENTRY_VALID : FieldRef := ⟨.CT_ENTRY, 12, 31, 1⟩
def CT_ENTRY_TABLE : FieldRef := ⟨.CT_ENTRY, 12, 8, 3⟩
def CT_ENTRY_INDEX : FieldRef := ⟨.CT_ENTRY, 12, 0, 8⟩
def CT_EQ_TABLE : FieldRef := ⟨.CT_EQ, 0, 8, 3⟩
def CT_EQ_INDEX : FieldRef := ⟨.CT_EQ, 0, 0, 8⟩
def CT_ER_ENTRY0 : FieldRef := ⟨.CT_ER, 0, 0, 32⟩
def CT_ER_ENTRY1 : FieldRef := ⟨.CT_ER, 1, 0, 32⟩
def CT_ER_ENTRY2 : FieldRef := ⟨.CT_ER, 2, 0, 32⟩
def CT_ER_ENTRY3 : FieldRef := ⟨.CT_ER, 3, 0, 32⟩
def CT_ER_ENTRY4 : FieldRef := ⟨.CT_ER, 4, 0, 32⟩
def CT_ER_ENTRY5 : FieldRef := ⟨.CT_ER, 5, 0, 32⟩
def CT_ER_ENTRY6 : FieldRef := ⟨.CT_ER, 6, 0, 32⟩
def CT_ER_ENTRY7 : FieldRef := ⟨.CT_ER, 7, 0, 32⟩
def CT_ER_ENTRY8 : FieldRef := ⟨.CT_ER, 8, 0, 32⟩
def CT_ER_ENTRY9 : FieldRef := ⟨.CT_ER, 9, 0, 32⟩
def CT_ER_ENTRY10 : FieldRef := ⟨.CT_ER, 10, 0, 32⟩
def CT_ER_ENTRY11 : FieldRef := ⟨.CT_ER, 11, 0, 32⟩
def CT_ER_VALID : FieldRef := ⟨.CT_ER, 12, 31, 1⟩
def CT_ER_HITS : FieldRef := ⟨.CT_ER, 13, 0, 32⟩
def FT_CFG_RDEPTH : FieldRef := ⟨.FT_CFG, 0, 24, 2⟩
def FT_CFG_APER : FieldRef := ⟨.FT_CFG, 0, 16, 8⟩
def FT_CFG_ALIM : FieldRef := ⟨.FT_CFG, 0, 8, 8⟩
def FT_CFG_AGEEN : FieldRef := ⟨.FT_CFG, 0, 0, 1⟩
def FT_CMD_KEY0 : FieldRef := ⟨.FT_CMD, 0, 0, 32⟩
def FT_CMD_KEY1 : FieldRef := ⟨.FT_CMD, 1, 0, 32⟩
def FT_CMD_KTAG : FieldRef := ⟨.FT_CMD, 2, 0, 8⟩
def FT_CMD_RESULT0 : FieldRef := ⟨.FT_CMD, 3, 0, 32⟩
def FT_CMD_RESULT1 : FieldRef := ⟨.FT_CMD, 4, 0, 32⟩
def FT_CMD_RTAG : FieldRef := ⟨.FT_CMD, 5, 0, 8⟩
def FT_CMD_OP : FieldRef := ⟨.FT_CMD, 6, 28, 4⟩
def FT_CMD_INDEX : FieldRef := ⟨.FT_CMD, 6, 0, 17⟩
def FT_RES_RESULT : FieldRef := ⟨.FT_RES, 0, 28, 4⟩
def FT_RES_EVICT : FieldRef := ⟨.FT_RES, 0, 27, 1⟩
def FT_RES_MOVING : FieldRef := ⟨.FT_RES, 0, 26, 1⟩
def FT_RES_INDEX : FieldRef := ⟨.FT_RES, 0, 0, 17⟩
def FT_RES_NEWIDX : FieldRef := ⟨.FT_RES, 1, 0, 17⟩
def FT_RES_ENTRY0 : FieldRef := ⟨.FT_RES, 2, 0, 32⟩
def FT_RES_ENTRY1 : FieldRef := ⟨.FT_RES, 3, 0, 32⟩
def FT_RES_ENTRY2 : FieldRef := ⟨.FT_RES, 4, 0, 32⟩
def FT_RES_ENTRY3 : FieldRef := ⟨.FT_RES, 5, 0, 32⟩
def FT_RES_ENTRY4 : FieldRef := ⟨.FT_RES, 6, 0, 32⟩
def FT_RES_ENTRY5 : FieldRef := ⟨.FT_RES, 7, 0, 32⟩
def FT_STAT_BUSY : FieldRef := ⟨.FT_STAT, 0, 31, 1⟩
def FT_STAT_EPOCH : FieldRef := ⟨.FT_STAT, 0, 18, 8⟩
def FT_STAT_COUNT : FieldRef := ⟨.FT_STAT, 0, 0, 18⟩
def FT_CNT0_LEARNED : FieldRef := ⟨.FT_CNT0, 0, 16, 16⟩
def FT_CNT0_MOVED : FieldRef := ⟨.FT_CNT0, 0, 0, 16⟩
def FT_CNT1_RELOC : FieldRef := ⟨.FT_CNT1, 0, 16, 16⟩
def FT_CNT1_EVICT : FieldRef := ⟨.FT_CNT1, 0, 0, 16⟩
def FT_CNT2_AGED : FieldRef := ⟨.FT_CNT2, 0, 16, 16⟩
def FT_CNT2_LRNDROP : FieldRef := ⟨.FT_CNT2, 0, 8, 8⟩
def FT_CNT2_FULL : FieldRef := ⟨.FT_CNT2, 0, 0, 8⟩
def FT_CNT3_SMOVE : FieldRef := ⟨.FT_CNT3, 0, 16, 16⟩
def FT_CNT3_SWLATE : FieldRef := ⟨.FT_CNT3, 0, 8, 8⟩
def FT_CNT3_UE : FieldRef := ⟨.FT_CNT3, 0, 0, 8⟩
def EG_GATEEN_GATED_LO : FieldRef := ⟨.EG_GATEEN, 0, 0, 32⟩
def EG_GATEEN_GATED_HI : FieldRef := ⟨.EG_GATEEN, 1, 0, 32⟩
def EG_GATE_OPEN_LO : FieldRef := ⟨.EG_GATE, 0, 0, 32⟩
def EG_GATE_OPEN_HI : FieldRef := ⟨.EG_GATE, 1, 0, 32⟩
def EG_PCNT0_LINKDROP : FieldRef := ⟨.EG_PCNT0, 0, 16, 16⟩
def EG_PCNT0_GATEOVR : FieldRef := ⟨.EG_PCNT0, 0, 8, 8⟩
def EG_PCNT0_GATEDROP : FieldRef := ⟨.EG_PCNT0, 0, 0, 8⟩
def EG_PCNT1_PACELATE : FieldRef := ⟨.EG_PCNT1, 0, 16, 16⟩
def EG_PCNT1_PACEOVR : FieldRef := ⟨.EG_PCNT1, 0, 0, 16⟩
def EG_QMQ_QUEUE : FieldRef := ⟨.EG_QMQ, 0, 0, 6⟩
def EG_QMR_DEPTH : FieldRef := ⟨.EG_QMR, 0, 0, 32⟩
def EG_QMR_MAXDEPTH : FieldRef := ⟨.EG_QMR, 1, 0, 32⟩
def EG_QMR_DELAY : FieldRef := ⟨.EG_QMR, 2, 0, 32⟩
def EG_QMR_MAXDELAY : FieldRef := ⟨.EG_QMR, 3, 0, 32⟩
def EG_QMR_DROP : FieldRef := ⟨.EG_QMR, 4, 16, 16⟩
def EG_QCFG_QNT : FieldRef := ⟨.EG_QCFG, 0, 24, 8⟩
def EG_QCFG_QLIM : FieldRef := ⟨.EG_QCFG, 0, 0, 10⟩
def EG_SMPL_PER : FieldRef := ⟨.EG_SMPL, 0, 0, 16⟩
def EG_TBASE_BASE : FieldRef := ⟨.EG_TBASE, 0, 0, 16⟩
def EG_BKT_RATE_TRS : FieldRef := ⟨.EG_BKT, 0, 0, 32⟩
def EG_BKT_MODE : FieldRef := ⟨.EG_BKT, 1, 30, 2⟩
def EG_BKT_BURST : FieldRef := ⟨.EG_BKT, 1, 0, 24⟩
def EG_BKT_NPKT : FieldRef := ⟨.EG_BKT, 2, 16, 16⟩
def EG_BKT_TROLINE : FieldRef := ⟨.EG_BKT, 3, 12, 14⟩
def EG_BKT_TROTICK : FieldRef := ⟨.EG_BKT, 3, 0, 12⟩
def EG_BKT_INDEX : FieldRef := ⟨.EG_BKT, 4, 0, 14⟩
def EG_BKTQ_INDEX : FieldRef := ⟨.EG_BKTQ, 0, 0, 14⟩
def EG_BKTR_TOKENS : FieldRef := ⟨.EG_BKTR, 0, 0, 32⟩
def EG_BKTR_FRAMES : FieldRef := ⟨.EG_BKTR, 1, 0, 32⟩
def EG_POL_CIR : FieldRef := ⟨.EG_POL, 0, 0, 32⟩
def EG_POL_PIR : FieldRef := ⟨.EG_POL, 1, 0, 32⟩
def EG_POL_CBS : FieldRef := ⟨.EG_POL, 2, 0, 24⟩
def EG_POL_EBS : FieldRef := ⟨.EG_POL, 3, 0, 24⟩
def EG_POL_TYPE : FieldRef := ⟨.EG_POL, 4, 30, 2⟩
def EG_POL_AWARE : FieldRef := ⟨.EG_POL, 4, 29, 1⟩
def EG_POL_PCSRC : FieldRef := ⟨.EG_POL, 4, 28, 1⟩
def EG_POL_INDEX : FieldRef := ⟨.EG_POL, 4, 0, 10⟩
def EG_POLQ_INDEX : FieldRef := ⟨.EG_POLQ, 0, 0, 10⟩
def EG_POLR_GREEN : FieldRef := ⟨.EG_POLR, 0, 0, 32⟩
def EG_POLR_YELLOW : FieldRef := ⟨.EG_POLR, 1, 0, 32⟩
def EG_POLR_RED : FieldRef := ⟨.EG_POLR, 2, 0, 32⟩
def MAG_CFG_EN : FieldRef := ⟨.MAG_CFG, 0, 31, 1⟩
def MAG_CFG_X4 : FieldRef := ⟨.MAG_CFG, 0, 30, 1⟩
def MAG_CFG_RDONLY : FieldRef := ⟨.MAG_CFG, 0, 29, 1⟩
def MAG_CFG_MAXLAT : FieldRef := ⟨.MAG_CFG, 0, 24, 4⟩
def MAG_STAT_ATT : FieldRef := ⟨.MAG_STAT, 0, 28, 4⟩
def MAG_STAT_FAILC : FieldRef := ⟨.MAG_STAT, 0, 24, 4⟩
def MAG_STAT_SPEED : FieldRef := ⟨.MAG_STAT, 0, 20, 4⟩
def MAG_STAT_WIDTH : FieldRef := ⟨.MAG_STAT, 0, 16, 4⟩
def MAG_STAT_MEMBER : FieldRef := ⟨.MAG_STAT, 0, 15, 1⟩
def MAG_STAT_TAKE : FieldRef := ⟨.MAG_STAT, 0, 14, 1⟩
def MAG_STAT_PFW : FieldRef := ⟨.MAG_STAT, 0, 13, 1⟩
def MAG_CMD_TAKE_LO : FieldRef := ⟨.MAG_CMD, 0, 0, 32⟩
def MAG_CMD_TAKE_HI : FieldRef := ⟨.MAG_CMD, 1, 0, 16⟩
def MAG_CMD_OP : FieldRef := ⟨.MAG_CMD, 2, 28, 4⟩
def MAG_CMD_EXTSH : FieldRef := ⟨.MAG_CMD, 2, 8, 4⟩
def MAG_CMDSTAT_BUSY : FieldRef := ⟨.MAG_CMDSTAT, 0, 31, 1⟩
def MAG_CMDSTAT_RESULT : FieldRef := ⟨.MAG_CMDSTAT, 0, 0, 4⟩
def MAG_INFO_NBLK_LO : FieldRef := ⟨.MAG_INFO, 0, 0, 32⟩
def MAG_INFO_NBLK_HI : FieldRef := ⟨.MAG_INFO, 1, 0, 16⟩
def MAG_INFO_JFIRST_LO : FieldRef := ⟨.MAG_INFO, 2, 0, 32⟩
def MAG_INFO_EXTSH : FieldRef := ⟨.MAG_INFO, 3, 28, 4⟩
def MAG_INFO_JFIRST_HI : FieldRef := ⟨.MAG_INFO, 3, 0, 16⟩
def MAG_INFO_HEAD : FieldRef := ⟨.MAG_INFO, 4, 0, 32⟩
def MAG_INFO_FREE : FieldRef := ⟨.MAG_INFO, 5, 0, 32⟩
def MAG_CNT0_LATEW : FieldRef := ⟨.MAG_CNT0, 0, 16, 16⟩
def MAG_CNT0_JLATE : FieldRef := ⟨.MAG_CNT0, 0, 8, 8⟩
def MAG_CNT0_WERR : FieldRef := ⟨.MAG_CNT0, 0, 0, 8⟩
def MAG_CNT1_INBAD : FieldRef := ⟨.MAG_CNT1, 0, 16, 16⟩
def MAG_CNT1_LDROP : FieldRef := ⟨.MAG_CNT1, 0, 0, 16⟩
def MAG_SCFG_EN : FieldRef := ⟨.MAG_SCFG, 0, 31, 1⟩
def MAG_SCFG_KIND : FieldRef := ⟨.MAG_SCFG, 0, 29, 2⟩
def MAG_SCFG_SRC : FieldRef := ⟨.MAG_SCFG, 0, 16, 8⟩
def MAG_SCFG_OUT : FieldRef := ⟨.MAG_SCFG, 0, 14, 2⟩
def MAG_SCFG_ALINES : FieldRef := ⟨.MAG_SCFG, 0, 0, 14⟩
def MAG_SCFG_LBA_LO : FieldRef := ⟨.MAG_SCFG, 1, 0, 32⟩
def MAG_SCFG_LBA_HI : FieldRef := ⟨.MAG_SCFG, 2, 0, 16⟩
def MAG_SSTAT_FRAMES : FieldRef := ⟨.MAG_SSTAT, 0, 0, 32⟩
def MAG_SSTAT_SLOW : FieldRef := ⟨.MAG_SSTAT, 1, 16, 16⟩
def MAG_SSTAT_WERR : FieldRef := ⟨.MAG_SSTAT, 1, 8, 8⟩
def MAG_SSTAT_SHORT : FieldRef := ⟨.MAG_SSTAT, 1, 0, 8⟩
def ICT_CTRL_GDIS : FieldRef := ⟨.ICT_CTRL, 0, 31, 1⟩
def ICT_SCFG_GROUP : FieldRef := ⟨.ICT_SCFG, 0, 16, 6⟩
def ICT_SCFG_CORE : FieldRef := ⟨.ICT_SCFG, 0, 8, 3⟩
def ICT_SCFG_PRI : FieldRef := ⟨.ICT_SCFG, 0, 0, 8⟩
def ICT_SCFG_INDEX : FieldRef := ⟨.ICT_SCFG, 1, 0, 10⟩
def ICT_SQ_INDEX : FieldRef := ⟨.ICT_SQ, 0, 0, 10⟩
def ICT_SR_PEND : FieldRef := ⟨.ICT_SR, 0, 31, 1⟩
def ICT_SR_WATCH : FieldRef := ⟨.ICT_SR, 0, 30, 1⟩
def ICT_SR_GROUP : FieldRef := ⟨.ICT_SR, 0, 16, 6⟩
def ICT_SR_CORE : FieldRef := ⟨.ICT_SR, 0, 8, 3⟩
def ICT_SR_PRI : FieldRef := ⟨.ICT_SR, 0, 0, 8⟩
def ICT_PEND_PEND : FieldRef := ⟨.ICT_PEND, 0, 0, 32⟩
def ICT_GRP_HOLD : FieldRef := ⟨.ICT_GRP, 0, 16, 16⟩
def ICT_GRP_COUNT : FieldRef := ⟨.ICT_GRP, 0, 8, 8⟩
def ICT_GSTAT_HELD_LO : FieldRef := ⟨.ICT_GSTAT, 0, 0, 32⟩
def ICT_GSTAT_HELD_HI : FieldRef := ⟨.ICT_GSTAT, 1, 0, 32⟩
def ICT_CTX_CFG_EN : FieldRef := ⟨.ICT_CTX_CFG, 0, 31, 1⟩
def ICT_CTX_CFG_MODE : FieldRef := ⟨.ICT_CTX_CFG, 0, 30, 1⟩
def ICT_CTX_CFG_BASE : FieldRef := ⟨.ICT_CTX_CFG, 0, 0, 8⟩
def ICT_CTX_STAT_THRESH : FieldRef := ⟨.ICT_CTX_STAT, 0, 24, 8⟩
def ICT_CTX_STAT_DEPTH : FieldRef := ⟨.ICT_CTX_STAT, 0, 16, 4⟩
def ICT_CTX_STAT_LINE : FieldRef := ⟨.ICT_CTX_STAT, 0, 0, 1⟩
def ICT_CTX_CLAIM_SRC : FieldRef := ⟨.ICT_CTX_CLAIM, 0, 0, 10⟩
def ICT_CTX_COMPLETE_SRC : FieldRef := ⟨.ICT_CTX_COMPLETE, 0, 0, 10⟩
def ICT_CTX_STRAND_COUNT : FieldRef := ⟨.ICT_CTX_STRAND, 0, 16, 16⟩
def ICT_CTX_STRAND_MAXDLY : FieldRef := ⟨.ICT_CTX_STRAND, 0, 0, 16⟩
def ICT_SWI_RAISE : FieldRef := ⟨.ICT_SWI, 0, 0, 8⟩
def ICT_WAKE_EN : FieldRef := ⟨.ICT_WAKE, 0, 31, 1⟩
def ICT_WAKE_SRC : FieldRef := ⟨.ICT_WAKE, 0, 0, 10⟩
def ICT_CNT_BADCOMP : FieldRef := ⟨.ICT_CNT, 0, 16, 16⟩
def ICT_CNT_WAKES : FieldRef := ⟨.ICT_CNT, 0, 0, 16⟩
def MBX_MSG_PAY_LO : FieldRef := ⟨.MBX_MSG, 0, 0, 32⟩
def MBX_MSG_PAY_HI : FieldRef := ⟨.MBX_MSG, 1, 0, 32⟩
def MBX_MSG_TAG : FieldRef := ⟨.MBX_MSG, 2, 0, 8⟩
def MBX_CFG_EN : FieldRef := ⟨.MBX_CFG, 0, 31, 1⟩
def MBX_CFG_SKWORD : FieldRef := ⟨.MBX_CFG, 0, 8, 19⟩
def MBX_CFG_RCV : FieldRef := ⟨.MBX_CFG, 0, 0, 8⟩
def MBX_CFG_INDEX : FieldRef := ⟨.MBX_CFG, 1, 0, 8⟩
def MBX_Q_INDEX : FieldRef := ⟨.MBX_Q, 0, 0, 8⟩
def MBX_R_EN : FieldRef := ⟨.MBX_R, 0, 31, 1⟩
def MBX_R_FULL : FieldRef := ⟨.MBX_R, 0, 30, 1⟩
def MBX_R_COLL : FieldRef := ⟨.MBX_R, 0, 29, 1⟩
def MBX_R_TMO : FieldRef := ⟨.MBX_R, 0, 28, 1⟩
def MBX_R_CROSS : FieldRef := ⟨.MBX_R, 0, 27, 1⟩
def MBX_R_SND : FieldRef := ⟨.MBX_R, 0, 16, 8⟩
def MBX_R_RCV : FieldRef := ⟨.MBX_R, 0, 0, 8⟩
def MBX_TMO_TMO : FieldRef := ⟨.MBX_TMO, 0, 0, 16⟩
def MBX_NEXT_VALID : FieldRef := ⟨.MBX_NEXT, 0, 31, 1⟩
def MBX_NEXT_INDEX : FieldRef := ⟨.MBX_NEXT, 0, 0, 8⟩
def MBX_FULL_BITS : FieldRef := ⟨.MBX_FULL, 0, 0, 32⟩
def MBX_COLL_BITS : FieldRef := ⟨.MBX_COLL, 0, 0, 32⟩
def MBX_TMOF_BITS : FieldRef := ⟨.MBX_TMOF, 0, 0, 32⟩
def MBX_CROSS_BITS : FieldRef := ⟨.MBX_CROSS, 0, 0, 32⟩
def MBX_CNT_COLL : FieldRef := ⟨.MBX_CNT, 0, 16, 16⟩
def MBX_CNT_TMO : FieldRef := ⟨.MBX_CNT, 0, 8, 8⟩
def MBX_CNT_CROSS : FieldRef := ⟨.MBX_CNT, 0, 0, 8⟩
def SEM_LOCK_LOCK : FieldRef := ⟨.SEM_LOCK, 0, 0, 1⟩
def SEM_OWN_HELD : FieldRef := ⟨.SEM_OWN, 0, 31, 1⟩
def SEM_OWN_WANT : FieldRef := ⟨.SEM_OWN, 0, 30, 1⟩
def SEM_OWN_OWNER : FieldRef := ⟨.SEM_OWN, 0, 0, 8⟩
def SEM_REVOKE_DONE : FieldRef := ⟨.SEM_REVOKE, 0, 16, 16⟩
def SEM_REVOKE_RID : FieldRef := ⟨.SEM_REVOKE, 0, 0, 8⟩
def SEM_CNT_BUSYRD : FieldRef := ⟨.SEM_CNT, 0, 16, 16⟩
def SEM_CNT_BADREL : FieldRef := ⟨.SEM_CNT, 0, 0, 16⟩
def STH_CTRL_EN : FieldRef := ⟨.STH_CTRL, 0, 31, 1⟩
def STH_STAT_LST : FieldRef := ⟨.STH_STAT, 0, 28, 4⟩
def STH_STAT_UPLINK : FieldRef := ⟨.STH_STAT, 0, 27, 1⟩
def STH_STAT_FMTDIFF : FieldRef := ⟨.STH_STAT, 0, 26, 1⟩
def STH_STAT_PEER : FieldRef := ⟨.STH_STAT, 0, 16, 6⟩
def STH_STAT_PDEPTH : FieldRef := ⟨.STH_STAT, 0, 14, 2⟩
def STH_DELAY_PS : FieldRef := ⟨.STH_DELAY, 0, 0, 32⟩
def STH_CNT0_CRCERR : FieldRef := ⟨.STH_CNT0, 0, 16, 16⟩
def STH_CNT0_REPLAY : FieldRef := ⟨.STH_CNT0, 0, 0, 16⟩
def STH_CNT1_FECCORR : FieldRef := ⟨.STH_CNT1, 0, 16, 16⟩
def STH_CNT1_FECUNC : FieldRef := ⟨.STH_CNT1, 0, 0, 16⟩
def STH_CNT2_BADCLASS : FieldRef := ⟨.STH_CNT2, 0, 24, 8⟩
def STH_CNT2_DOWN : FieldRef := ⟨.STH_CNT2, 0, 16, 8⟩
def STH_ID_ROLEERR : FieldRef := ⟨.STH_ID, 0, 31, 1⟩
def STH_ID_ROLE : FieldRef := ⟨.STH_ID, 0, 29, 2⟩
def STH_ID_DEPTH : FieldRef := ⟨.STH_ID, 0, 27, 2⟩
def STH_ID_DEVNO : FieldRef := ⟨.STH_ID, 0, 21, 6⟩
def STH_ID_CLEVEL : FieldRef := ⟨.STH_ID, 0, 8, 8⟩
def STH_ID_FLOOR : FieldRef := ⟨.STH_ID, 0, 0, 8⟩
def STH_SCTRL_RRST : FieldRef := ⟨.STH_SCTRL, 0, 31, 1⟩
def STH_SCTRL_RRATMO : FieldRef := ⟨.STH_SCTRL, 0, 0, 16⟩
def STH_RRA_DLO : FieldRef := ⟨.STH_RRA, 0, 0, 32⟩
def STH_RRA_DHI : FieldRef := ⟨.STH_RRA, 1, 0, 32⟩
def STH_RRA_WR : FieldRef := ⟨.STH_RRA, 2, 31, 1⟩
def STH_RRA_W64 : FieldRef := ⟨.STH_RRA, 2, 30, 1⟩
def STH_RRA_DEV : FieldRef := ⟨.STH_RRA, 2, 24, 6⟩
def STH_RRA_OFFSET : FieldRef := ⟨.STH_RRA, 2, 0, 24⟩
def STH_RRAR_BUSY : FieldRef := ⟨.STH_RRAR, 0, 31, 1⟩
def STH_RRAR_RESULT : FieldRef := ⟨.STH_RRAR, 0, 4, 4⟩
def STH_RRAR_CAUSE : FieldRef := ⟨.STH_RRAR, 0, 0, 4⟩
def STH_RRAR_DLO : FieldRef := ⟨.STH_RRAR, 1, 0, 32⟩
def STH_RRAR_DHI : FieldRef := ⟨.STH_RRAR, 2, 0, 32⟩
def STH_RAREC_WR : FieldRef := ⟨.STH_RAREC, 0, 31, 1⟩
def STH_RAREC_DEV : FieldRef := ⟨.STH_RAREC, 0, 24, 6⟩
def STH_RAREC_OFFSET : FieldRef := ⟨.STH_RAREC, 0, 0, 24⟩
def STH_RAREC_COUNT : FieldRef := ⟨.STH_RAREC, 1, 8, 24⟩
def STH_RAREC_REQ : FieldRef := ⟨.STH_RAREC, 1, 0, 8⟩
def STH_MBXR_DEV : FieldRef := ⟨.STH_MBXR, 0, 8, 6⟩
def STH_MBXR_RMBX : FieldRef := ⟨.STH_MBXR, 0, 0, 8⟩
def STH_TCH_LRING : FieldRef := ⟨.STH_TCH, 0, 0, 19⟩
def STH_TCH_RRING : FieldRef := ⟨.STH_TCH, 1, 0, 19⟩
def STH_TCH_BLK : FieldRef := ⟨.STH_TCH, 2, 16, 16⟩
def STH_TCH_NSLOT : FieldRef := ⟨.STH_TCH, 2, 0, 16⟩
def STH_TCH_EN : FieldRef := ⟨.STH_TCH, 3, 31, 1⟩
def STH_TCH_RDEV : FieldRef := ⟨.STH_TCH, 3, 24, 6⟩
def STH_TCH_RSKN : FieldRef := ⟨.STH_TCH, 3, 20, 4⟩
def STH_TCH_LSKN : FieldRef := ⟨.STH_TCH, 3, 16, 4⟩
def STH_TSENT_SENT : FieldRef := ⟨.STH_TSENT, 0, 0, 32⟩
def STHM_CTRL_ADMIT : FieldRef := ⟨.STHM_CTRL, 0, 31, 1⟩
def STHM_CTRL_INHERIT : FieldRef := ⟨.STHM_CTRL, 0, 30, 1⟩
def STHM_ADMIT_ACCEPT : FieldRef := ⟨.STHM_ADMIT, 0, 31, 1⟩
def STHM_ADMIT_DEVNO : FieldRef := ⟨.STHM_ADMIT, 0, 0, 6⟩
def STHM_ROSTQ_DEVNO : FieldRef := ⟨.STHM_ROSTQ, 0, 0, 6⟩
def STHM_ROSTR_STATE : FieldRef := ⟨.STHM_ROSTR, 0, 30, 2⟩
def STHM_ROSTR_PARENT : FieldRef := ⟨.STHM_ROSTR, 0, 24, 6⟩
def STHM_ROSTR_PLINK : FieldRef := ⟨.STHM_ROSTR, 0, 21, 3⟩
def STHM_ROSTR_OLINK : FieldRef := ⟨.STHM_ROSTR, 0, 18, 3⟩
def STHM_ROSTR_CLEVEL : FieldRef := ⟨.STHM_ROSTR, 0, 0, 8⟩
def STHM_ROSTR_UID_LO : FieldRef := ⟨.STHM_ROSTR, 1, 0, 32⟩
def STHM_ROSTR_UID_HI : FieldRef := ⟨.STHM_ROSTR, 2, 0, 32⟩
def STHM_PLACE_ALO : FieldRef := ⟨.STHM_PLACE, 0, 0, 32⟩
def STHM_PLACE_AHI : FieldRef := ⟨.STHM_PLACE, 1, 0, 16⟩
def STHM_PLACE_OP : FieldRef := ⟨.STHM_PLACE, 2, 28, 4⟩
def STHM_PLACE_DEVNO : FieldRef := ⟨.STHM_PLACE, 2, 16, 6⟩
def STHM_PLACE_STAGEPAT : FieldRef := ⟨.STHM_PLACE, 2, 0, 16⟩
def STHM_PLRES_BUSY : FieldRef := ⟨.STHM_PLRES, 0, 31, 1⟩
def STHM_PLRES_EXTRA : FieldRef := ⟨.STHM_PLRES, 0, 16, 8⟩
def STHM_PLRES_PLACED : FieldRef := ⟨.STHM_PLRES, 0, 8, 8⟩
def STHM_PLRES_RESULT : FieldRef := ⟨.STHM_PLRES, 0, 0, 4⟩
def SYS_LOSS_VALID : FieldRef := ⟨.SYS_LOSS, 0, 31, 1⟩
def SYS_LOSS_DEV : FieldRef := ⟨.SYS_LOSS, 0, 25, 6⟩
def SYS_LOSS_BAY : FieldRef := ⟨.SYS_LOSS, 0, 23, 2⟩
def SYS_LOSS_OUTS : FieldRef := ⟨.SYS_LOSS, 0, 16, 4⟩
def SYS_LOSS_SLOT : FieldRef := ⟨.SYS_LOSS, 0, 0, 8⟩
def SYS_LOSS_STAGEPAT : FieldRef := ⟨.SYS_LOSS, 1, 16, 16⟩
def SYS_LOSS_PART : FieldRef := ⟨.SYS_LOSS, 1, 0, 6⟩
def SYS_LOSS_DROP : FieldRef := ⟨.SYS_LOSS, 2, 16, 16⟩
def SYS_LOSS_DEPTH : FieldRef := ⟨.SYS_LOSS, 2, 0, 5⟩
def SEC_STAT_CLAIMED : FieldRef := ⟨.SEC_STAT, 0, 31, 1⟩
def SEC_STAT_KREV : FieldRef := ⟨.SEC_STAT, 0, 30, 1⟩
def SEC_STAT_RBCNT : FieldRef := ⟨.SEC_STAT, 0, 16, 7⟩
def SEC_STAT_DBG : FieldRef := ⟨.SEC_STAT, 0, 8, 8⟩
def SEC_STAT_RNGOK : FieldRef := ⟨.SEC_STAT, 0, 3, 1⟩
def SEC_BOOT_STEP : FieldRef := ⟨.SEC_BOOT, 0, 28, 4⟩
def SEC_BOOT_CAUSE : FieldRef := ⟨.SEC_BOOT, 0, 24, 4⟩
def SEC_BOOT_SRC : FieldRef := ⟨.SEC_BOOT, 0, 21, 3⟩
def SEC_BOOT_FALLBACK : FieldRef := ⟨.SEC_BOOT, 0, 20, 1⟩
def SEC_BOOT_TRIAL : FieldRef := ⟨.SEC_BOOT, 0, 19, 1⟩
def SEC_BOOT_TRIALFAIL : FieldRef := ⟨.SEC_BOOT, 0, 18, 1⟩
def SEC_BOOTGO_GO : FieldRef := ⟨.SEC_BOOTGO, 0, 0, 1⟩
def SEC_CMD_ADDR_LO : FieldRef := ⟨.SEC_CMD, 0, 0, 32⟩
def SEC_CMD_ADDR_HI : FieldRef := ⟨.SEC_CMD, 1, 0, 16⟩
def SEC_CMD_OP : FieldRef := ⟨.SEC_CMD, 2, 28, 4⟩
def SEC_CMD_TARGET : FieldRef := ⟨.SEC_CMD, 2, 0, 7⟩
def SEC_CMDSTAT_BUSY : FieldRef := ⟨.SEC_CMDSTAT, 0, 31, 1⟩
def SEC_CMDSTAT_DETAIL : FieldRef := ⟨.SEC_CMDSTAT, 0, 16, 8⟩
def SEC_CMDSTAT_RESULT : FieldRef := ⟨.SEC_CMDSTAT, 0, 0, 4⟩
def SEC_NLOAD_ADDR_LO : FieldRef := ⟨.SEC_NLOAD, 0, 0, 32⟩
def SEC_NLOAD_ADDR_HI : FieldRef := ⟨.SEC_NLOAD, 1, 0, 16⟩
def SEC_NLOAD_OP : FieldRef := ⟨.SEC_NLOAD, 2, 28, 4⟩
def SEC_NLOAD_BANK : FieldRef := ⟨.SEC_NLOAD, 2, 27, 1⟩
def SEC_NLOAD_SKMASK : FieldRef := ⟨.SEC_NLOAD, 2, 0, 16⟩
def SEC_NRES_BUSY : FieldRef := ⟨.SEC_NRES, 0, 31, 1⟩
def SEC_NRES_RESULT : FieldRef := ⟨.SEC_NRES, 0, 16, 4⟩
def SEC_NRES_FAILMASK : FieldRef := ⟨.SEC_NRES, 0, 0, 16⟩
def SEC_RAND_RLO : FieldRef := ⟨.SEC_RAND, 0, 0, 32⟩
def SEC_RAND_RHI : FieldRef := ⟨.SEC_RAND, 1, 0, 32⟩
def SEC_CNT_REFUSED : FieldRef := ⟨.SEC_CNT, 0, 16, 16⟩
def SEC_CNT_UNLOCKS : FieldRef := ⟨.SEC_CNT, 0, 0, 16⟩
def PWR_MODE_MODE : FieldRef := ⟨.PWR_MODE, 0, 28, 4⟩
def PWR_MODE_PREV : FieldRef := ⟨.PWR_MODE, 0, 24, 4⟩
def PWR_MODE_CAUSE : FieldRef := ⟨.PWR_MODE, 0, 20, 4⟩
def PWR_MODE_HELD : FieldRef := ⟨.PWR_MODE, 0, 19, 1⟩
def PWR_MODE_ISO : FieldRef := ⟨.PWR_MODE, 0, 18, 1⟩
def PWR_MODECMD_OP : FieldRef := ⟨.PWR_MODECMD, 0, 28, 4⟩
def PWR_MODECMD_STAY : FieldRef := ⟨.PWR_MODECMD, 0, 27, 1⟩
def PWR_CMDRES_BUSY : FieldRef := ⟨.PWR_CMDRES, 0, 31, 1⟩
def PWR_CMDRES_RESULT : FieldRef := ⟨.PWR_CMDRES, 0, 0, 4⟩
def PWR_DOMREQ_REQ : FieldRef := ⟨.PWR_DOMREQ, 0, 0, 32⟩
def PWR_DOMSTAT_UP : FieldRef := ⟨.PWR_DOMSTAT, 0, 0, 32⟩
def PWR_ISO_ISO : FieldRef := ⟨.PWR_ISO, 0, 0, 32⟩
def PWR_ISOCLR_DOMAIN : FieldRef := ⟨.PWR_ISOCLR, 0, 0, 8⟩
def PWR_WAKEEN_CORE : FieldRef := ⟨.PWR_WAKEEN, 0, 0, 8⟩
def PWR_RVEC_ADDR_LO : FieldRef := ⟨.PWR_RVEC, 0, 2, 30⟩
def PWR_RVEC_ADDR_HI : FieldRef := ⟨.PWR_RVEC, 1, 0, 16⟩
def PWR_AWCFG_BOOTON : FieldRef := ⟨.PWR_AWCFG, 0, 31, 1⟩
def PWR_AWCFG_HOLDAW : FieldRef := ⟨.PWR_AWCFG, 0, 30, 1⟩
def PWR_THERM_TRIP : FieldRef := ⟨.PWR_THERM, 0, 24, 8⟩
def PWR_THERM_WARN : FieldRef := ⟨.PWR_THERM, 0, 16, 8⟩
def PWR_THERM_TJ : FieldRef := ⟨.PWR_THERM, 0, 8, 8⟩
def PWR_THERM_TJMAX : FieldRef := ⟨.PWR_THERM, 0, 0, 8⟩
def PWR_BIND_TMO : FieldRef := ⟨.PWR_BIND, 0, 0, 16⟩
def PWR_RESET_KEY : FieldRef := ⟨.PWR_RESET, 0, 16, 16⟩
def PWR_CNT_DOMFAIL : FieldRef := ⟨.PWR_CNT, 0, 8, 8⟩
def PWR_CNT_WAKEDROP : FieldRef := ⟨.PWR_CNT, 0, 0, 8⟩
def FCL_CTRL_PINSEV : FieldRef := ⟨.FCL_CTRL, 0, 30, 2⟩
def FCL_CTRL_LDGSEV : FieldRef := ⟨.FCL_CTRL, 0, 28, 2⟩
def FCL_FLT_FLT : FieldRef := ⟨.FCL_FLT, 0, 0, 32⟩
def FCL_SEV_SEV0 : FieldRef := ⟨.FCL_SEV, 0, 0, 2⟩
def FCL_SEV_SEV1 : FieldRef := ⟨.FCL_SEV, 0, 2, 2⟩
def FCL_SEV_SEV2 : FieldRef := ⟨.FCL_SEV, 0, 4, 2⟩
def FCL_SEV_SEV3 : FieldRef := ⟨.FCL_SEV, 0, 6, 2⟩
def FCL_SEV_SEV4 : FieldRef := ⟨.FCL_SEV, 0, 8, 2⟩
def FCL_SEV_SEV5 : FieldRef := ⟨.FCL_SEV, 0, 10, 2⟩
def FCL_SEV_SEV6 : FieldRef := ⟨.FCL_SEV, 0, 12, 2⟩
def FCL_SEV_SEV7 : FieldRef := ⟨.FCL_SEV, 0, 14, 2⟩
def FCL_SEV_SEV8 : FieldRef := ⟨.FCL_SEV, 0, 16, 2⟩
def FCL_SEV_SEV9 : FieldRef := ⟨.FCL_SEV, 0, 18, 2⟩
def FCL_SEV_SEV10 : FieldRef := ⟨.FCL_SEV, 0, 20, 2⟩
def FCL_SEV_SEV11 : FieldRef := ⟨.FCL_SEV, 0, 22, 2⟩
def FCL_SEV_SEV12 : FieldRef := ⟨.FCL_SEV, 0, 24, 2⟩
def FCL_SEV_SEV13 : FieldRef := ⟨.FCL_SEV, 0, 26, 2⟩
def FCL_SEV_SEV14 : FieldRef := ⟨.FCL_SEV, 0, 28, 2⟩
def FCL_SEV_SEV15 : FieldRef := ⟨.FCL_SEV, 0, 30, 2⟩
def FCL_CLR_MASK : FieldRef := ⟨.FCL_CLR, 0, 0, 32⟩
def FCL_CLR_WORD : FieldRef := ⟨.FCL_CLR, 1, 0, 3⟩
def FCL_HISTQ_AGE : FieldRef := ⟨.FCL_HISTQ, 0, 0, 5⟩
def FCL_HISTR_VALID : FieldRef := ⟨.FCL_HISTR, 0, 31, 1⟩
def FCL_HISTR_TIMEOK : FieldRef := ⟨.FCL_HISTR, 0, 30, 1⟩
def FCL_HISTR_SEV : FieldRef := ⟨.FCL_HISTR, 0, 28, 2⟩
def FCL_HISTR_MODE : FieldRef := ⟨.FCL_HISTR, 0, 24, 4⟩
def FCL_HISTR_SOURCE : FieldRef := ⟨.FCL_HISTR, 0, 16, 8⟩
def FCL_HISTR_SUB : FieldRef := ⟨.FCL_HISTR, 0, 8, 8⟩
def FCL_HISTR_REQ : FieldRef := ⟨.FCL_HISTR, 0, 0, 8⟩
def FCL_HISTR_DETAIL : FieldRef := ⟨.FCL_HISTR, 1, 0, 32⟩
def FCL_HISTR_SEC_LO : FieldRef := ⟨.FCL_HISTR, 2, 0, 32⟩
def FCL_HISTR_SEC_HI : FieldRef := ⟨.FCL_HISTR, 3, 16, 16⟩
def FCL_HISTR_NS : FieldRef := ⟨.FCL_HISTR, 4, 0, 30⟩
def FCL_HISTR_FRAME_LO : FieldRef := ⟨.FCL_HISTR, 5, 0, 32⟩
def FCL_HISTR_FRAME_HI : FieldRef := ⟨.FCL_HISTR, 6, 0, 8⟩
def FCL_HISTR_LINE : FieldRef := ⟨.FCL_HISTR, 7, 12, 14⟩
def FCL_HISTR_TICK : FieldRef := ⟨.FCL_HISTR, 7, 0, 12⟩
def FCL_CNT_REPORTS : FieldRef := ⟨.FCL_CNT, 0, 16, 16⟩
def FCL_CNT_REPEAT : FieldRef := ⟨.FCL_CNT, 0, 0, 16⟩
def LDG_STAT_READY : FieldRef := ⟨.LDG_STAT, 0, 31, 1⟩
def LDG_STAT_QDEPTH : FieldRef := ⟨.LDG_STAT, 0, 0, 6⟩
def LDG_HEAD_SEQ : FieldRef := ⟨.LDG_HEAD, 0, 0, 32⟩
def LDG_RQ_UNIT : FieldRef := ⟨.LDG_RQ, 0, 0, 16⟩
def LDG_RD_DATA0 : FieldRef := ⟨.LDG_RD, 0, 0, 32⟩
def LDG_RD_DATA1 : FieldRef := ⟨.LDG_RD, 1, 0, 32⟩
def LDG_RD_DATA2 : FieldRef := ⟨.LDG_RD, 2, 0, 32⟩
def LDG_RD_DATA3 : FieldRef := ⟨.LDG_RD, 3, 0, 32⟩
def LDG_RD_DATA4 : FieldRef := ⟨.LDG_RD, 4, 0, 32⟩
def LDG_RD_DATA5 : FieldRef := ⟨.LDG_RD, 5, 0, 32⟩
def LDG_RD_DATA6 : FieldRef := ⟨.LDG_RD, 6, 0, 32⟩
def LDG_RD_DATA7 : FieldRef := ⟨.LDG_RD, 7, 0, 32⟩
def LDG_RD_DATA8 : FieldRef := ⟨.LDG_RD, 8, 0, 32⟩
def LDG_RD_DATA9 : FieldRef := ⟨.LDG_RD, 9, 0, 32⟩
def LDG_RD_DATA10 : FieldRef := ⟨.LDG_RD, 10, 0, 32⟩
def LDG_RD_DATA11 : FieldRef := ⟨.LDG_RD, 11, 0, 32⟩
def LDG_RD_DATA12 : FieldRef := ⟨.LDG_RD, 12, 0, 32⟩
def LDG_RD_DATA13 : FieldRef := ⟨.LDG_RD, 13, 0, 32⟩
def LDG_RD_DATA14 : FieldRef := ⟨.LDG_RD, 14, 0, 32⟩
def LDG_RD_DATA15 : FieldRef := ⟨.LDG_RD, 15, 0, 32⟩
def LDG_UREC_PAYLOAD0 : FieldRef := ⟨.LDG_UREC, 0, 0, 32⟩
def LDG_UREC_PAYLOAD1 : FieldRef := ⟨.LDG_UREC, 1, 0, 32⟩
def LDG_UREC_PAYLOAD2 : FieldRef := ⟨.LDG_UREC, 2, 0, 32⟩
def LDG_UREC_PAYLOAD3 : FieldRef := ⟨.LDG_UREC, 3, 0, 32⟩
def LDG_UREC_PAYLOAD4 : FieldRef := ⟨.LDG_UREC, 4, 0, 32⟩
def LDG_UREC_PAYLOAD5 : FieldRef := ⟨.LDG_UREC, 5, 0, 32⟩
def LDG_UREC_PAYLOAD6 : FieldRef := ⟨.LDG_UREC, 6, 0, 32⟩
def LDG_UREC_PAYLOAD7 : FieldRef := ⟨.LDG_UREC, 7, 0, 32⟩
def LDG_UREC_PAYLOAD8 : FieldRef := ⟨.LDG_UREC, 8, 0, 32⟩
def LDG_UREC_PAYLOAD9 : FieldRef := ⟨.LDG_UREC, 9, 0, 32⟩
def LDG_UREC_PAYLOAD10 : FieldRef := ⟨.LDG_UREC, 10, 0, 32⟩
def LDG_CNT0_DISCARD : FieldRef := ⟨.LDG_CNT0, 0, 16, 16⟩
def LDG_CNT0_CORR : FieldRef := ⟨.LDG_CNT0, 0, 0, 16⟩
def LDG_CNT1_CARRIED : FieldRef := ⟨.LDG_CNT1, 0, 16, 16⟩
def LDG_CNT1_QDROP : FieldRef := ⟨.LDG_CNT1, 0, 0, 16⟩
def LDG_RSPCFG_WAKEEN : FieldRef := ⟨.LDG_RSPCFG, 0, 31, 1⟩
def LDG_RSPCFG_LIVE : FieldRef := ⟨.LDG_RSPCFG, 0, 30, 1⟩
def LDG_RSPCNT_ANSWERED : FieldRef := ⟨.LDG_RSPCNT, 0, 16, 16⟩
def LDG_RSPCNT_DROP : FieldRef := ⟨.LDG_RSPCNT, 0, 0, 16⟩
def TLY_Q_HIST : FieldRef := ⟨.TLY_Q, 0, 31, 1⟩
def TLY_Q_INDEX : FieldRef := ⟨.TLY_Q, 0, 0, 11⟩
def TLY_R_VLO : FieldRef := ⟨.TLY_R, 0, 0, 32⟩
def TLY_R_VHI : FieldRef := ⟨.TLY_R, 1, 0, 16⟩
def TLY_INC_AMOUNT : FieldRef := ⟨.TLY_INC, 0, 16, 16⟩
def TLY_INC_INDEX : FieldRef := ⟨.TLY_INC, 0, 0, 6⟩
def TLY_HINC_HIST : FieldRef := ⟨.TLY_HINC, 0, 8, 3⟩
def TLY_HINC_BIN : FieldRef := ⟨.TLY_HINC, 0, 0, 6⟩
def TLY_CMD_OP : FieldRef := ⟨.TLY_CMD, 0, 0, 4⟩
def TLY_STAT_BUSY : FieldRef := ⟨.TLY_STAT, 0, 31, 1⟩
def TLY_STAT_SNAPNO : FieldRef := ⟨.TLY_STAT, 0, 0, 31⟩

end F

end Sys2Proof.Machine
end

