-- ==== Sys2Proof/Machine/State.lean ====
section
/-! DEFINITION. The state of the block as plain data, chapter by chapter, and the state right after reset. Numbered
collections are sparse tables whose unlisted entries hold the collection's reset value. -/

namespace Sys2Proof.Machine

/-- Why the machine stops. -/
inductive Fault where
  /-- Raised by a meaning that is handed an operand outside the range the manual gives it (`WellFormed` refuses such
  a command). Safe: the device never meets such a command. -/
  | badOperand
  deriving DecidableEq, Repr

/-- Why a command has no meaning here. -/
inductive Refusal where
  /-- Raised by `exec` for a command that the model does not reach yet. Safe: nothing is claimed of it. -/
  | notModelled (mnemonic : String)
  deriving DecidableEq, Repr

/-! ### The register interface (spec/01, spec/02) -/

/-- Bus error causes (R82). -/
inductive Berr where
  | unmapped | noframe | size | resval | guard | badkey | domoff | winOp | busy
  deriving DecidableEq, Repr

/-- The unlock of one frame and its refusal record (R64-R72): the owner, and the cycle in which LEFT reaches 0. -/
structure KeyGuard where
  owner : Nat
  ends : Nat
  rejCount : Nat
  rejCause : Nat
  rejReq : Nat
  deriving DecidableEq, Repr

/-- A closed key guard, as after reset. -/
def KeyGuard.reset : KeyGuard := ⟨0, 0, 0, 0, 0⟩

/-- Registers, staging, key guards, parity and arbitration. Register words stand under their control-space word
number; a requester's own copy of a register stands 2^22 × (requester + 1) higher.
`answers` (the model's own) keeps the word last returned to each requester by a reading command. `parPos` and `parAt`
hold, by frame, the register that its parity checker visits next and the cycle from which it does (R74). -/
structure Bus where
  regs : Tab Word
  staged : Tab (Option Word)
  latched : Tab (Option Word)
  keys : Tab KeyGuard
  rrPtr : Tab Nat
  parBad : Tab Bool
  parReported : Tab Bool
  answers : Tab Nat
  parPos : Tab Nat
  parAt : Tab Nat
  wroteNow : List Nat
  deriving DecidableEq, Repr

/-- The register interface after reset. -/
def Bus.reset : Bus := ⟨[], [], [], [], [], [], [], [], [], [], []⟩

/-! ### Raster clock and PTP domains (spec/03) -/

/-- Servo states (R98-R101). -/
inductive Servo where
  | free | acquire | locked | slew | hold
  deriving DecidableEq, Repr

/-- One scheduler slot (R112-R118). `commitRt` is the realised time of the commit, `seen` the position total up to
which occurrences are handled. -/
structure Slot where
  pay : Nat
  line : Nat
  tick : Nat
  frame : Nat
  n : Nat
  arm : Bool
  mode : Nat
  action : Nat
  target : Nat
  fired : Bool
  missed : Bool
  commitRt : Nat
  seen : Nat
  deriving DecidableEq, Repr

/-- A disarmed slot. -/
def Slot.reset : Slot := ⟨0, 0, 0, 0, 0, false, 0, 0, 0, false, false, 0, 0⟩

/-- The previous contents of a slot that a late commit spares for one firing (R115), with that position. -/
structure Spared where
  slot : Slot
  total : Nat
  deriving DecidableEq, Repr

/-- One PHASE pin (R122, R123): its level, whether an action has set it, and a pulse's end and return level. -/
structure PhasePin where
  level : Bool
  acted : Bool
  pulse : Option (Nat × Bool)
  deriving DecidableEq, Repr

/-- A PHASE pin before any action. -/
def PhasePin.reset : PhasePin := ⟨false, false, none⟩

/-- One timestamped edge of a TIN input (R125). -/
structure TinEntry where
  frame : Nat
  line : Nat
  tick : Nat
  sec : Nat
  ns : Nat
  fall : Bool
  deriving DecidableEq, Repr

/-- The raster clock. Realised time `rt` counts 2⁻⁴⁰ ns since the PTP epoch; `acted` holds the position total, action and
target of the firings at the last position that fired (R120). -/
structure Rck where
  servo : Servo
  sel : Nat
  stepped : Bool
  rt : Nat
  oscRate : Int
  corr : Int
  corrAt : Nat
  holdAt : Nat
  within10 : Nat
  beyond40 : Nat
  agree : List Int
  filtered : Int
  large : Bool
  sthAvail : Bool
  sthUpSince : Option Nat
  ref10 : Bool
  fmtOk : Bool
  fmtChg : Bool
  slots : Tab Slot
  spared : Tab Spared
  phase : Tab PhasePin
  tin : Tab (List TinEntry)
  oscRec : Option (Int × Int × Nat)
  acted : List (Nat × Nat × Nat)
  deriving DecidableEq, Repr

/-- The raster clock after reset (R127). -/
def Rck.reset : Rck :=
  ⟨.free, 0, false, 0, 0, 0, 0, 0, 0, 0, [], 0, false, false, none, false, false, false, [], [], [], [], none, []⟩

/-- One PTP domain (R88-R92, R100): availability, qualification, grandmaster data and the open delay exchange. -/
structure Ptp where
  avail : Bool
  qualCount : Nat
  lost : Bool
  announced : Bool
  smtlv : Bool
  steps : Nat
  gm : Nat
  tlvOffset : Int
  tlvJam : Nat
  ofs : Int
  mpd : Int
  lastSync : Option (Int × Int)
  reqSent : Option Int
  seq : Nat
  deriving DecidableEq, Repr

/-- A PTP domain after reset. -/
def Ptp.reset : Ptp := ⟨false, 0, false, false, false, 0, 0, 0, 0, 0, 0, none, none, 0⟩

/-! ### Camera lanes, line FIFOs and the Swatch (spec/04) -/

/-- Training states (LANE_STAT.STATE). -/
inductive LaneSt where
  | off | wait | lock | ident | up | fail
  deriving DecidableEq, Repr

/-- Why a lane stands in FAIL: a training timeout (R136), a mismatch with its base lane (R157), or AUTO = 0 (R137). -/
inductive FailWhy where
  | timeout | mismatch | left
  deriving DecidableEq, Repr

/-- One lane: training (R133-R137), its open frame and next expected line (R158-R160), and the software words queued
(R152). `due` is the position total of the TRIGGER whose deadlines apply; `sched` holds scheduled words handed over and not
yet launched, each with whether it is late; `sent` is the word last sent, and `busyUntil` the time in 10 ps until which
its block takes the lane. -/
structure Lane where
  st : LaneSt
  why : FailWhy
  signal : Bool
  block : Bool
  trainAt : Nat
  failAt : Nat
  valid : Nat
  invalid : Nat
  readyCount : Nat
  bondErr : Bool
  fmtErr : Bool
  seq : Option Nat
  isOpen : Bool
  fr : Nat
  exp : Nat
  due : Option Nat
  txq : List Nat
  sched : List (Nat × Bool)
  sent : Option Nat
  busyUntil : Nat
  deriving DecidableEq, Repr

/-- A lane after reset (R180). -/
def Lane.reset : Lane :=
  ⟨.off, .timeout, false, false, 0, 0, 0, 0, 0, false, false, none, false, 0, 0, none, [], [], none, 0⟩

/-- One line record (R163) with its native words, the ports that have freed it, and when it became readable. -/
structure LfiRec where
  no : Nat
  line : Nat
  frame : Nat
  missing : Bool
  crcerr : Bool
  lenerr : Bool
  ovf : Bool
  data : List Native
  freed0 : Bool
  freed1 : Bool
  ready : Nat
  deriving DecidableEq, Repr

/-- One line FIFO: its two banks, the bank being written, the number of the next record, a loss to be marked, and the
frame of the last record (R162-R169); ports in an idle episode (R171). -/
structure Lfi where
  bankA : List LfiRec
  bankB : List LfiRec
  wbank : Bool
  nextNo : Nat
  ovf : Bool
  lastFrame : Option Nat
  idle0 : Bool
  idle1 : Bool
  read0 : Nat
  read1 : Nat
  deriving DecidableEq, Repr

/-- A line FIFO after reset (R180). -/
def Lfi.reset : Lfi := ⟨[], [], false, 0, false, none, false, false, 0, 0⟩

/-- One read port of a bond, keyed by base lane and port (R166, R167): the next record number of each LFI, the LFI the
next line comes from, words already read of the current line, the lines read, the mark, its user, the words last read with their line's record (R163), and whether the last operation
was refused with OPERR. -/
structure LfiPort where
  pos : Tab Nat
  turn : Nat
  word : Nat
  seq : Nat
  mark : Option (Tab Nat × Nat × Nat)
  user : Option Nat
  out : List Native
  head : Nat
  operr : Bool
  deriving DecidableEq, Repr

/-- A port that nobody uses. -/
def LfiPort.reset : LfiPort := ⟨[], 0, 0, 0, none, none, [], 0, false⟩

/-- One tile of the Swatch (R175): sum, sample count, sharpness and clipped samples. -/
structure Tile where
  sum : Nat
  count : Nat
  sharp : Nat
  clip : Nat
  deriving DecidableEq, Repr

/-- An empty tile. -/
def Tile.reset : Tile := ⟨0, 0, 0, 0⟩

/-- One Swatch: the frame being measured, its counts, tables, telemetry, the lanes whose last line is in, and the
queued handles (R172-R178). -/
structure Swt where
  isOpen : Bool
  frame : Nat
  lines : Nat
  bad : Nat
  missing : Nat
  hist : Tab Nat
  clipHi : Tab Nat
  clipLo : Tab Nat
  tiles : Tab Tile
  telem : List (List Nat)
  tdrop : Nat
  lanesDone : List Nat
  queue : List Nat
  deriving DecidableEq, Repr

/-- A Swatch after reset (R180). -/
def Swt.reset : Swt := ⟨false, 0, 0, 0, 0, [], [], [], [], [], 0, [], []⟩

/-! ### Needles and skeins (spec/05, spec/06) -/

/-- Needle states of NDL_STAT. -/
inductive NdlSt where
  | gated | idle | run | stall | halt | fault | horiz
  deriving DecidableEq, Repr

/-- Where a write of a needle's result goes (R239). -/
inductive NdlDst where
  | v (r : Nat)
  | vPart (r : Nat) (mask : Native)
  | a (r : Nat)
  | p (r : Nat) (mask : Nat)
  | lc (r : Nat)
  | d (mask : Nat)
  deriving DecidableEq, Repr

/-- A result not yet visible and the needle cycle from which it is. -/
structure NdlWrite where
  at_ : Nat
  dst : NdlDst
  val : Nat
  deriving DecidableEq, Repr

/-- A running nano routine (R243, R244, R259): first entry, the entry to run next, the windows, the cycles run and the
cycles since the last sampling point. -/
structure NanoRun where
  first : Nat
  idx : Nat
  vw : Nat
  aw : Nat
  cycles : Nat
  gap : Nat
  deriving DecidableEq, Repr

/-- A fault that waits for a sampling point (R219, R288). -/
structure NdlFault where
  code : Nat
  nidx : Nat
  bank : Nat
  berr : Nat
  addr : Nat
  deriving DecidableEq, Repr

/-- One outstanding transfer (R190, R267). -/
structure Xfer where
  remote : Nat
  count : Nat
  loc : Nat
  out : Bool
  notice : Bool
  deriving DecidableEq, Repr

/-- One full line slot of a needle's ring (R193, R268), oldest first: its place in the ring, whether it is held, the
place of its line among those its port has read, the line and its flags (2 MISSING, 1 bad). -/
structure LineSlot where
  idx : Nat
  held : Bool
  seq : Nat
  line : Nat
  flags : Nat
  deriving DecidableEq, Repr

/-- The transform unit (R197, R269, R270): configuration, words pushed, outputs not popped, the cycle from which they
are available, the cycle of the block's first input, and the last block. -/
structure Txu where
  cfg : Option Nat
  input : List Native
  output : List Native
  at_ : Nat
  first : Nat
  complete : Bool
  nonzero : Nat
  deriving DecidableEq, Repr

/-- A transform unit at reset. -/
def Txu.reset : Txu := ⟨none, [], [], 0, 0, false, 0⟩

/-- The motion-estimation unit (R198, R269): configuration, current block, window, the best candidate's cost, x and y,
and the cycle from which it is available. -/
structure Meu where
  satd : Bool
  step : Nat
  cur : List Nat
  win : List Nat
  best : Option (Nat × Nat × Nat)
  at_ : Nat
  deriving DecidableEq, Repr

/-- A motion-estimation unit at reset. -/
def Meu.reset : Meu := ⟨false, 0, [], [], none, 0⟩

/-- The entropy unit (R199, R269): mode, the context store with the count from which its unlisted entries are free
values after an abort, what was pushed since the last flush, and output bytes and symbols not popped. -/
structure Enu where
  mode : Option Nat
  ctx : Tab Native
  lost : Option Nat
  pushed : List Native
  bytes : List Nat
  symbols : List Native
  at_ : Nat
  deriving DecidableEq, Repr

/-- An entropy unit at reset. -/
def Enu.reset : Enu := ⟨none, [], none, [], [], [], 0⟩

/-- One needle (`seen` lists the frame, line and flags of the lines last delivered to it, newest first): the state of R184 and R238, results in flight, the nano routine, pending events, transfers, line slots,
units and the placement it serves. `cyc` counts its NCLK cycles; `bound` is its bank. -/
structure Ndl where
  st : NdlSt
  v : Tab Native
  a : Tab Nat
  p : Tab Nat
  lc : Tab Nat
  pc : Nat
  exc : Bool
  epc : Nat
  d : Nat
  stack : List Nat
  hret : Nat
  hstart : Bool
  writes : List NdlWrite
  nano : Option NanoRun
  cyc : Nat
  busyCyc : Nat
  stallCyc : Nat
  fbuf : List Nat
  bound : Option Bool
  slot : Option Nat
  started : Bool
  ipend : Nat
  abort : Option Nat
  fault : Option NdlFault
  haltAsked : Bool
  xfers : List Xfer
  ring : List LineSlot
  ringHead : Nat
  seen : List (Nat × Nat × Nat)
  txu : Txu
  meu : Meu
  enu : Enu
  zeroing : Bool
  deriving DecidableEq, Repr

/-- A needle when its domain comes up (R184, R237, R238); `P` registers not listed read all ones. -/
def Ndl.reset : Ndl :=
  { st := .idle, v := [], a := [], p := [], lc := [], pc := 0, exc := false, epc := 0, d := 0, stack := [], hret := 0
    hstart := false, writes := [], nano := none, cyc := 0, busyCyc := 0, stallCyc := 0, fbuf := [], bound := none
    slot := none, started := false, ipend := 0, abort := none, fault := none, haltAsked := false, xfers := []
    ring := [], ringHead := 0, seen := [], txu := .reset, meu := .reset, enu := .reset, zeroing := false }

/-- Nano-store bank states (R205). -/
inductive BankSt where
  | empty | loading | valid | damaged
  deriving DecidableEq, Repr

/-- One nano-store bank, keyed 2 × skein + bank: entries with their two parity bits in bits [97:96] (R205-R211). -/
structure NanoBank where
  st : BankSt
  librev : Nat
  cvalid : Bool
  custrev : Nat
  entries : Tab (BitVec 98)
  deriving DecidableEq, Repr

/-- An empty bank. -/
def NanoBank.reset : NanoBank := ⟨.empty, 0, false, 0, []⟩

/-- One line distributor, keyed 2 × skein + distributor: the pattern slot it serves (R193-R195, R323). -/
structure Dist where
  slot : Option Nat
  deriving DecidableEq, Repr

/-- A disabled distributor. -/
def Dist.reset : Dist := ⟨none⟩

/-- One skein: its memory zeroing and its scrub position (R204, R235). -/
structure Skn where
  zeroing : Bool
  scrubAt : Nat
  deriving DecidableEq, Repr

/-- A skein at reset. -/
def Skn.reset : Skn := ⟨false, 0⟩

/-! ### Patterns, encoding, Gauge and decoding (spec/07 to spec/10) -/

/-- Pattern slot states (R307). -/
inductive PatSt where
  | empty | loaded | running | unloading
  deriving DecidableEq, Repr

/-- Reference states of a pool entry (R379). -/
inductive RefSt where
  | unused | short | long
  deriving DecidableEq, Repr

/-- One entry of a reference or decode pool (R378-R380, R449, R452): its Stall handle, state and marks, the picture's
POC, its place in coding order, whether it holds the GOP's IDR picture, and its view. -/
structure PoolEntry where
  handle : Nat
  ref : RefSt
  outPend : Bool
  nonex : Bool
  conc : Bool
  poc : Int
  order : Nat
  idr : Bool
  view : Nat
  deriving DecidableEq, Repr

/-- What the type of a picture is fixed to at its row-0 reserve (R370, R399): PTYPE (R387), whether it is a key picture, its
note flags, and picture k of a sweep of p (R375). -/
structure PicPlan where
  ptype : Nat
  key : Bool
  flags : Nat
  k : Nat
  p : Nat
  deriving DecidableEq, Repr

/-- One view picture being coded: coded units held until they are passed on (R364), bytes so far, rows in floor mode and
rewound, note flags, and CTBs coded intra. -/
structure ViewPic where
  units : List (List Nat)
  bytes : Nat
  floorRows : Nat
  rewRows : Nat
  flags : Nat
  intra : Nat
  noted : Bool
  deriving DecidableEq, Repr

/-- A view picture with nothing coded. -/
def ViewPic.reset : ViewPic := ⟨[], 0, 0, 0, 0, 0, false⟩

/-- The picture an encoder output is coding: its plan, POC, the FRAME of its lines once a row has started, its view
pictures, the buffer of its coded bytes, and whether they are discarded for want of one (R385). -/
structure EncPic where
  plan : PicPlan
  poc : Nat
  frame : Option Nat
  views : Tab ViewPic
  buf : Option Nat
  dropped : Bool
  deriving DecidableEq, Repr

/-- One stripe of a row being coded, keyed 8 × view + stripe (R339, R354, R357): its row, the needle that codes it and
whether it has started; whether it waited for its window; the line total at which all but the cross-view condition held;
whether the wait is over (R357); the coded units of its last pass and its
CTBs coded intra. -/
structure RowSt where
  row : Nat
  needle : Nat
  started : Bool
  late : Bool
  ready : Option Nat
  alone : Bool
  units : List (List Nat)
  intra : Nat
  deriving DecidableEq, Repr

/-- No row. -/
def RowSt.reset : RowSt := ⟨0, 0, false, false, none, false, [], 0⟩

/-- One output of a pattern in encoding (R368-R389): counters of SYS_ENCR, pool in use (0 POOL, 1 ALTPOOL, 2 none), key
and sweep state, plans of output 0 a derived output has still to follow (R327), whether a stage part passes nothing
(R374), its reference entries by view, rows in progress, and its packets: the sequence counter, those of this picture,
its frame and its template (R618-R623). -/
structure Enc where
  pics : Nat
  keys : Nat
  keyreq : Nat
  keymerge : Nat
  scene : Nat
  infill : Nat
  xvlate : Nat
  odrop : Nat
  freeze : Nat
  winlate : Nat
  poolSel : Nat
  altGot : Bool
  keyPending : Bool
  keyFrame : Option Nat
  restart : Bool
  redo : Bool
  sceneNext : Bool
  mute : Bool
  accel : Bool
  sweepK : Nat
  sweepP : Nat
  gopPos : Nat
  poc : Nat
  order : Nat
  started : Bool
  follow : List PicPlan
  lastFrame : Option Nat
  pic : Option EncPic
  rows : Tab RowSt
  refs : Tab (List PoolEntry)
  seq : Nat
  pkts : Nat
  pktF : Nat
  tmpl : List Nat
  deriving DecidableEq, Repr

/-- An output just loaded (R390). -/
def Enc.reset : Enc :=
  { pics := 0, keys := 0, keyreq := 0, keymerge := 0, scene := 0, infill := 0, xvlate := 0, odrop := 0, freeze := 0
    winlate := 0, poolSel := 0, altGot := false, keyPending := false, keyFrame := none, restart := false, redo := false
    sceneNext := false, mute := false, accel := false, sweepK := 0, sweepP := 0, gopPos := 0, poc := 0, order := 0
    started := false, follow := [], lastFrame := none, pic := none, rows := [], refs := [], seq := 0, pkts := 0
    pktF := 0, tmpl := [] }

/-- What the Gauge holds of one stripe of the row in progress, keyed 8 × view + stripe (R401, R402, R408, R417): target,
cap, whether it was analysed, its analysis, and of each pass its bits, floor CTBs and quantiser. -/
structure GauStripe where
  target : Nat
  cap : Nat
  ana : Bool
  xb : Nat
  xi : Nat
  bits1 : Option Nat
  floor1 : Nat
  q1 : Int
  bits2 : Option Nat
  floor2 : Nat
  q2 : Int
  qp2 : Int
  deriving DecidableEq, Repr

/-- A stripe with nothing yet. -/
def GauStripe.reset : GauStripe := ⟨0, 0, false, 0, 0, none, 0, 0, none, 0, 0, 0⟩

/-- The row in progress of a view (R400, R401, R403): its number, its target, cap and quantiser; none after the last. -/
structure GauRow where
  row : Option Nat
  target : Nat
  cap : Nat
  qp : Int
  deriving DecidableEq, Repr

/-- No row. -/
def GauRow.reset : GauRow := ⟨none, 0, 0, 0⟩

/-- The Gauge's model of one output (R394-R431). `f` and `minf` count bits times the frame-rate numerator, so that
Ra × T keeps its exact fraction. Rows, notices and the complexities of the last and the current picture are held by view:
the latter under 2048 × view + 8 × row + stripe. A row number equal to the picture's rows says that the view has ended. -/
structure Gau where
  f : Nat
  minf : Nat
  tpic : Nat
  spent : Nat
  share : Nat
  nextShare : Option Nat
  qp1 : Int
  qpI : Int
  qpP : Int
  intra : Bool
  rows : Tab GauRow
  stripes : Tab GauStripe
  notices : Tab Nat
  lastI : Option (Tab Nat)
  lastP : Option (Tab Nat)
  curB : Tab Nat
  curI : Tab Nat
  seedX : Nat
  thI : Nat
  thP : Nat
  seedsrc : Nat
  settle : Nat
  inRew : Bool
  rewWait : Bool
  rewPic : Nat
  prevRew : Bool
  rowfloor : Nat
  rewound : Nat
  rewdeny : Nat
  ovr : Nat
  filler : Nat
  sumBQ : Nat
  sumXI : Nat
  ksum : Option Nat
  seedAt : Nat
  deriving DecidableEq, Repr

/-- The Gauge of an output just loaded (R438). -/
def Gau.reset : Gau :=
  { f := 0, minf := 0, tpic := 0, spent := 0, share := 0, nextShare := none, qp1 := 0, qpI := 0, qpP := 0, intra := false
    rows := [], stripes := [], notices := [], lastI := none, lastP := none, curB := [], curI := [], seedX := 0, thI := 0
    thP := 0, seedsrc := 0, settle := 0, inRew := false, rewWait := false, rewPic := 0, prevRew := false, rowfloor := 0
    rewound := 0, rewdeny := 0, ovr := 0, filler := 0, sumBQ := 0, sumXI := 0, ksum := none, seedAt := 0 }

/-- One coded unit in a ring (R439-R444): the first and the last extended number of its packets, timestamp, marker, its
bytes and what the unit is in its standard. -/
structure CUnit where
  lo : Nat
  no : Nat
  ts : Nat
  marker : Bool
  frame : Nat
  data : List Nat
  info : UnitInfo
  deriving DecidableEq, Repr

/-- The picture a coded input is decoding (R445, R457): its place in decoding order, timestamp, first arrival frame, the line
totals at which its marker and its last unit were passed, POC, CTBs or slices and those decoded, NONEXISTENT references,
whether a reference was generated, hash result, what it is, its recovery point, and the pool entries it fills, by view. -/
structure DecPic where
  order : Nat
  ts : Nat
  frame : Nat
  markerAt : Option Nat
  lastAt : Nat
  poc : Int
  ctbs : Nat
  got : Nat
  nonex : Nat
  made : Bool
  hash : Option Bool
  irap : Bool
  rasl : Bool
  output : Bool
  sweepEnd : Bool
  recovery : Option Int
  entries : Tab Nat
  sent : Nat
  deriving DecidableEq, Repr

/-- A decoded picture waiting for its output (R462, R464, R465): its place in decoding order, timestamp, due frame, POC, note
flags, lost CTBs, NONEXISTENT references and its entries. -/
structure OutPic where
  order : Nat
  ts : Nat
  due : Nat
  poc : Int
  flags : Nat
  lost : Nat
  nonex : Nat
  entries : List Nat
  deriving DecidableEq, Repr

/-- A concealment episode (R461): the POC from which a recovery point ends it, clean pictures carrying SWEEPEND since
it began. -/
structure Episode where
  recovery : Option Int
  sweeps : Nat
  deriving DecidableEq, Repr

/-- One coded input (R439-R467): configuration (SUBST, HASH, DELAY, GAPWAIT), highest and next number, ring, missing numbers
with the line total from which they are missing, numbers declared lost, the picture being decoded and the timestamp of
the last closed, whether units are being skipped, the SPS in force, the pool and entries of an earlier SPS, the order of
the next picture, UNSUPP and a pool not supplied, the episode, the schedule (R462, R463), pictures waiting, the last
picture passed, the counters of SYS_DECR, and the buffers reserved at load. -/
structure Dec where
  cfg : Option (Nat × Nat × Nat × Nat)
  high : Option Nat
  nextNo : Nat
  ring : List CUnit
  gaps : Tab Nat
  lostNos : List Nat
  pic : Option DecPic
  closedTs : Option Nat
  skip : Bool
  sps : Option SpsInfo
  pool : List PoolEntry
  old : List PoolEntry
  order : Nat
  unsupp : Bool
  poolBad : Bool
  episode : Option Episode
  raslConc : Bool
  resynced : Bool
  sched : Option (Nat × Nat)
  waiting : List OutPic
  last : Option OutPic
  pics : Nat
  conc : Nat
  nonex : Nat
  lostu : Nat
  late : Nat
  lostpic : Nat
  hasherr : Nat
  sliceerr : Nat
  underrun : Nat
  latepic : Nat
  poolfail : Nat
  dup : Nat
  raslskip : Nat
  resyncs : Nat
  ringovf : Nat
  bufs : List Nat
  deriving DecidableEq, Repr

/-- A coded input just loaded (R467). -/
def Dec.reset : Dec :=
  { cfg := none, high := none, nextNo := 0, ring := [], gaps := [], lostNos := [], pic := none, closedTs := none
    skip := false, sps := none, pool := [], old := [], order := 0, unsupp := false, poolBad := false, episode := none
    raslConc := false, resynced := false, sched := none, waiting := [], last := none, pics := 0, conc := 0, nonex := 0
    lostu := 0, late := 0, lostpic := 0, hasherr := 0, sliceerr := 0, underrun := 0, latepic := 0, poolfail := 0, dup := 0
    raslskip := 0, resyncs := 0, ringovf := 0, bufs := [] }

/-- One pattern slot: its state, the descriptor's bytes (R310-R313), its outputs, Gauge models and coded inputs, the
Gauge's report queue (R409), and whether a needle fault or a lost pool ended its outputs (R27, R386). -/
structure Pat where
  st : PatSt
  desc : List Nat
  outs : Tab Enc
  gaus : Tab Gau
  ins : Tab Dec
  reports : List Native
  dead : Bool
  lostOuts : List Nat
  runAt : Nat
  deriving DecidableEq, Repr

/-- An EMPTY slot (R335). -/
def Pat.reset : Pat := ⟨.empty, [], [], [], [], [], false, [], 0⟩

/-- The pattern command being processed (R85, R318): the slot, its requester, the descriptor read and its address,
which Stitch streams its inputs can have, and the cycle at which a placement answer was asked for. -/
structure PlCmd where
  slot : Nat
  req : Nat
  load : Bool
  desc : List Nat
  addr : Nat
  avail : Nat
  askedAt : Option Nat
  deriving DecidableEq, Repr

/-- The sums of one device for a stage group (R435): frame, Σ W K, Σ RATE / 4, Σ RMAX and Σ RATE. -/
structure ShareSums where
  frame : Nat
  wk : Nat
  rmin : Nat
  rmax : Nat
  rate : Nat
  deriving DecidableEq, Repr

/-- A joint group on this device (R432-R436): the share in force, the share of a frame to come, the frames since the last
share, whether a stage group is on its local fallback, what GAU_GRPR shows, and, on the manager, the sums that devices
sent. -/
structure JointSt where
  share : Option Nat
  next : Option (Nat × Nat)
  silent : Nat
  localOn : Bool
  total : Nat
  alloc : Nat
  missed : Nat
  applied : Nat
  sums : Tab (Option ShareSums)
  deriving DecidableEq, Repr

/-- A group with no share yet. -/
def JointSt.reset : JointSt := ⟨none, none, 0, false, 0, 0, 0, 0, []⟩

/-! ### Memories (spec/05, spec/11, spec/17) -/

/-- Bay states (MCH_BAYSTAT.BST). -/
inductive BaySt where
  | off | init | ready | frozen | restore
  deriving DecidableEq, Repr

/-- One bay: state, when it started training, and the channel that captured the freeze. -/
structure Bay where
  st : BaySt
  since : Nat
  fch : Nat
  deriving DecidableEq, Repr

/-- A bay at reset (R504). -/
def Bay.reset : Bay := ⟨.off, 0, 0⟩

/-- A throttle entry (R495): requester, bank, and the cycle before which the bank serves it no further access. -/
structure Throttle where
  req : Nat
  bank : Nat
  next : Nat
  deriving DecidableEq, Repr

/-- One RLD channel: a pause and its procedure, drift in ps, when DUE began, row trackers (64 × bank: row and
estimate), throttles, the RDCFG in force, the burst the scrubber reads next, the bank refreshed next. -/
structure Mch where
  pause : Option (Nat × Bool)
  drift : Nat
  dueAt : Option Nat
  forcedWait : Bool
  track : Tab (List (Nat × Nat))
  throttles : List Throttle
  rdcfg : Option Nat
  scrubAt : Nat
  refreshAt : Nat
  deriving DecidableEq, Repr

/-- A channel at reset (R504). -/
def Mch.reset : Mch := ⟨none, 0, none, false, [], [], none, 0, 0⟩

/-- The memories: core SRAM bytes, skein memory words (2^19 × skein + word), local-store words (2^15 × needle + word)
and RLD words (2^30 × bay + x), and the stored bits that differ from the word's code: 80-bit raw masks in RLD, and
masks of the 72 payload bits in skein memory and local store. -/
structure Mem where
  sram : List Host.Cell
  skm : Tab Native
  ls : Tab Native
  rld : Tab Native
  rldFlip : Tab (BitVec 80)
  skmFlip : Tab Native
  lsFlip : Tab Native
  bays : Tab Bay
  mchs : Tab Mch
  diag : Tab (Option Nat)
  deriving DecidableEq, Repr

/-- The memories at reset: nothing listed. -/
def Mem.reset : Mem := ⟨[], [], [], [], [], [], [], [], [], []⟩

/-! ### Stalls (spec/12) -/

/-- One buffer record, keyed 2^18 × pool + index (R510). -/
structure Buf where
  held : Bool
  gen : Nat
  owner : Nat
  hold : Bool
  issued : List (Nat × Nat)
  used : List Nat
  deriving DecidableEq, Repr

/-- A buffer of a pool just enabled (R509). -/
def Buf.reset : Buf := ⟨false, 1, 0, false, [], []⟩

/-- The buffer records that differ from a fresh record, and each requester's use (R510, R523). -/
structure Stl where
  bufs : Tab Buf
  use : Tab Nat
  deriving DecidableEq, Repr

/-- The Stalls at reset (R530). -/
def Stl.reset : Stl := ⟨[], []⟩

/-! ### Porters (spec/13) -/

/-- Channel states (PRT_STAT.STATE). -/
inductive PrtSt where
  | off | idle | fetch | move | aborting
  deriving DecidableEq, Repr

/-- One porter channel (R531-R550): the descriptor in progress and its bytes once fetched, resolved source and
destination addresses, source elements taken, destination elements written, the holding register as a bit queue, the LFI
port claimed (2 × base + port), lines delivered, words of the current line still to read and whether its header is
written, the descriptors ended, and an abort that fell in its fetch. -/
structure Prt where
  st : PrtSt
  cur : Nat
  desc : List Nat
  src : Nat
  dst : Nat
  taken : Nat
  written : Nat
  hold : Nat
  bits : Nat
  claim : Option Nat
  lines : Nat
  words : Nat
  inLine : Bool
  deriving DecidableEq, Repr

/-- A channel that is OFF (R550). -/
def Prt.reset : Prt := ⟨.off, 0, [], 0, 0, 0, 0, 0, 0, none, 0, 0, false⟩

/-! ### Ethernet ports, stream switch and egress (spec/14, spec/15) -/

/-- A frame in an egress queue: its bytes without FCS, when it entered the queue (ns), its bucket, its place in the
pacing of a picture (frame and packet number), the Stall ticket a core lent for it, whether it uses the egress buffer,
and whether it has not fitted since it was at the head when its window opened (R605, R613, R618). -/
structure EgFrame where
  data : List Nat
  at_ : Nat
  bkt : Option Nat
  pace : Option (Nat × Nat)
  ticket : Option Nat
  buffered : Bool
  nofit : Bool
  deriving DecidableEq, Repr

/-- One egress queue: frames, its deficit (R606), the frames it discarded, and the observations of R629: the running
maxima of this period, and the values and maxima of the last one. -/
structure EgQ where
  frames : List EgFrame
  deficit : Nat
  drop : Nat
  runDepth : Nat
  runDelay : Nat
  depth : Nat
  maxDepth : Nat
  delay : Nat
  maxDelay : Nat
  deriving DecidableEq, Repr

/-- An empty queue. -/
def EgQ.reset : EgQ := ⟨[], 0, 0, 0, 0, 0, 0, 0, 0⟩

/-- One Ethernet port: link status, ingress frames held in bytes, gates last set, queues, the queue at which the round
robin stands and whether it has had its quantum, and the frame in transmission with its queue and end in 10 ps. -/
structure EthPort where
  link : Bool
  block : Bool
  fecLock : Bool
  align : Bool
  gates : BitVec 64
  queues : Tab EgQ
  turn : Nat
  granted : Bool
  cur : Option (Nat × Nat × EgFrame)
  deriving DecidableEq, Repr

/-- A port with no link. -/
def EthPort.reset : EthPort := ⟨false, false, false, false, 0, [], 0, false, none⟩

/-- Where a frame goes (R570). -/
inductive FrmDst where
  | none
  | port (p q : Nat)
  | core (q : Nat)
  | decode
  | group (n q : Nat)
  | drop
  deriving DecidableEq, Repr

/-- A received frame in the ingress buffer: port, bytes without FCS, timestamp, arrival frame and line total, and what
earlier passes left: metadata, class, destination, bucket and pass. -/
structure InFrame where
  port : Nat
  data : List Nat
  sec : Nat
  ns : Nat
  frame : Nat
  line : Nat
  md : BitVec 64
  cls : Nat
  dst : FrmDst
  bkt : Option Nat
  pass : Nat
  deriving DecidableEq, Repr

/-- A classifier entry, keyed 256 × table + index: key value, mask, action (A0 in the low word), validity and hits. -/
structure CtEnt where
  value : Nat
  mask : Nat
  action : Nat
  valid : Bool
  hits : Nat
  deriving DecidableEq, Repr

/-- An entry at reset. -/
def CtEnt.reset : CtEnt := ⟨0, 0, 0, false, 0⟩

/-- A request in the learning queue (R589, R593): a source key seen on a port, or the refresh of a key. -/
inductive Learn where
  | source (key port : Nat)
  | refresh (ktype key : Nat)
  deriving DecidableEq, Repr

/-- What the update engine is performing. -/
inductive FtKind where
  | lookup | insert | delete | readIdx | writeIdx | flush
  | learn (l : Learn)
  deriving DecidableEq, Repr

/-- An operation of the update engine (R595-R599): its requester, entry and index, bucket reads still to make, the moves
of its chain still to make, the move whose copy is written, whether its plan is made and evicts, and whether it reached
the engine after the other operation. -/
structure FtOp where
  kind : FtKind
  req : Nat
  w0 : Native
  w1 : Native
  idx : Nat
  reads : Nat
  moves : List (Nat × Nat)
  half : Option (Nat × Nat)
  planned : Bool
  evict : Bool
  waits : Bool
  deriving DecidableEq, Repr

/-- The flow table: valid slots and their words, unreadable slots, the epoch and when it began, the sweep's next slot,
the learning queue and the operations in progress (R586-R602). -/
structure Ft where
  slots : Tab (Native × Native)
  broken : List Nat
  epoch : Nat
  epochAt : Nat
  sweep : Option Nat
  lrn : List Learn
  sw : Option FtOp
  op : Option FtOp
  swNext : Bool
  deriving DecidableEq, Repr

/-- The flow table at reset (R603). -/
def Ft.reset : Ft := ⟨[], [], 0, 0, none, [], none, none, false⟩

/-- A token bucket (R615-R618): the configuration committed, tokens in bytes with the part of a byte that has
accumulated, when they were last filled, and frames admitted. -/
structure Bkt where
  rate : Nat
  mode : Nat
  burst : Nat
  npkt : Nat
  troLine : Nat
  troTick : Nat
  tokens : Nat
  part : Nat
  at_ : Nat
  frames : Nat
  deriving DecidableEq, Repr

/-- A bucket that is OFF. -/
def Bkt.reset : Bkt := ⟨0, 0, 0, 0, 0, 0, 0, 0, 0, 0⟩

/-- A policer (R626-R628): configuration, the two buckets with their parts, when they were last filled, and the frames
of each colour. -/
structure Pol where
  type : Nat
  aware : Bool
  pcsrc : Bool
  cir : Nat
  pir : Nat
  cbs : Nat
  ebs : Nat
  c : Nat
  e : Nat
  partC : Nat
  partE : Nat
  at_ : Nat
  green : Nat
  yellow : Nat
  red : Nat
  deriving DecidableEq, Repr

/-- A policer that is off. -/
def Pol.reset : Pol := ⟨0, false, false, 0, 0, 0, 0, 0, 0, 0, 0, 0, 0, 0, 0⟩

/-- A unit in reassembly at a coded input (R582): first and last sequence number so far, timestamp, a JPEG XS slice's
counters, the bytes, and the picture note of its first packet. -/
structure Frag where
  lo : Nat
  hi : Nat
  ts : Nat
  slice : Nat
  data : List Nat
  note : Option (List Nat)
  deriving DecidableEq, Repr

/-- A coded unit on its way to a coded input (R439, R580): slot and input, the 16-bit numbers of its packets, timestamp,
marker, arrival frame and line total, note and bytes. -/
structure Arrival where
  slot : Nat
  input : Nat
  lo : Nat
  hi : Nat
  ts : Nat
  marker : Bool
  frame : Nat
  line : Nat
  note : Option (List Nat)
  data : List Nat
  deriving DecidableEq, Repr

/-- The stream switch: frames awaiting a pass and a further pass (oldest first), classifier entries and unreadable
ones, core queue positions, buckets, policers, units in reassembly (16 × slot + input), the microseconds of the current
monitoring period. -/
structure Ssw where
  inq : List InFrame
  recirc : List InFrame
  ct : Tab CtEnt
  ctBroken : List Nat
  pi : Tab Nat
  bkt : Tab Bkt
  pol : Tab Pol
  frag : Tab Frag
  smpl : Nat
  deriving DecidableEq, Repr

/-- The switch at reset (R603, R630). -/
def Ssw.reset : Ssw := ⟨[], [], [], [], [], [], [], [], 0⟩

/-! ### Magazine ports (spec/16) -/

/-- Attach states (MAG_STAT.ATT). -/
inductive Att where
  | none | enum | scan | ready | blank | fail | full
  deriving DecidableEq, Repr

/-- A frame or picture on its way to the magazine (R645-R654): its identity on the port, stream, frame number, stream
offset, bytes and lines taken so far with the byte offset at which each line ends, lines with errors and missing, the
cause it closes with, whether it has closed; bytes not submitted, bytes submitted, writes outstanding, ranges
acknowledged; for a coded picture its note and ticket; when it was passed on; whether its record is in the journal. -/
structure MagFrame where
  id : Nat
  stream : Nat
  coded : Bool
  frame : Nat
  soff : Nat
  len : Nat
  ends : List Nat
  bad : Nat
  miss : Nat
  cause : Nat
  closed : Bool
  buf : List Nat
  sent : Nat
  outst : Nat
  acks : List (Nat × Nat)
  note : List Nat
  ticket : Option Nat
  at_ : Nat
  recorded : Bool
  deriving DecidableEq, Repr

/-- What an outstanding NVMe write holds (R636-R655): bytes of a frame from an offset, a journal block with its sequence
number, or a superblock. -/
inductive MagWhat where
  | data (id off : Nat) (raw : Bool)
  | journal (seq : Nat)
  | super
  deriving DecidableEq, Repr

/-- An outstanding NVMe write: its first block, its bytes and when it was submitted. -/
structure MagWrite where
  what : MagWhat
  lba : Nat
  data : List Nat
  at_ : Nat
  deriving DecidableEq, Repr

/-- One stream (R645-R648, R663): next stream offset, next block and blocks left in its extent, the open frame, elements
left of the current line and whether the line is being discarded, the last frame closed, the counts of MAG_SSTAT, and a
read stream's bytes and next block. -/
structure MagStream where
  soff : Nat
  blk : Nat
  left : Nat
  cur : Option Nat
  elems : Nat
  skip : Bool
  last : Option Nat
  frames : Nat
  slow : Nat
  werr : Nat
  short : Nat
  rbuf : List Nat
  rnext : Nat
  deriving DecidableEq, Repr

/-- A stream at OPEN. -/
def MagStream.reset : MagStream := ⟨0, 0, 0, none, 0, false, none, 0, 0, 0, 0, [], 0⟩

/-- A take of the directory (R660, R664): its number, the block of its TAKE record, the record, its STREAM records, and
whether it is closed. -/
structure MagTake where
  take : Nat
  blk : Nat
  head : List Nat
  streams : List (List Nat)
  closed : Bool
  deriving DecidableEq, Repr

/-- A coded picture passed on and not yet submitted (R649): stream, note, bytes, ticket and when. -/
structure MagPic where
  stream : Nat
  note : List Nat
  data : List Nat
  ticket : Option Nat
  at_ : Nat
  deriving DecidableEq, Repr

/-- A command of MAG_CMD in progress: FORMAT, OPEN, CLOSE, DETACH, and the recovery of R661 (5). -/
structure MagCmd where
  op : Nat
  take : Nat
  deriving DecidableEq, Repr

/-- One magazine port: link, attach state, namespace and superblock, journal position and pending records with their
times, outstanding writes, the open take and its end asked for, directory, streams, frames and pictures, the command, a
superblock rewrite due, power-fail state (R658) and the reset ball of R847. -/
structure Mag where
  speed : Nat
  width : Nat
  att : Att
  failc : Nat
  nblk : Nat
  sbGen : Nat
  sbB : Bool
  uid : Nat
  extsh : Nat
  jfirst : Nat
  jblk : Nat
  jseq : Nat
  jckpt : Nat
  jseqc : Nat
  head : Nat
  recs : List (Nat × List Nat)
  wr : List MagWrite
  take : Option Nat
  ending : Option Nat
  ended : Bool
  dir : List MagTake
  streams : Tab MagStream
  frames : List MagFrame
  pics : List MagPic
  nextId : Nat
  cmd : Option MagCmd
  sbDue : Bool
  force : Bool
  stop : Bool
  pfw : Bool
  lost : Nat
  written : Nat
  perst : Bool
  perstAt : Option Nat
  deriving DecidableEq, Repr

/-- A port at reset (R666). -/
def Mag.reset : Mag :=
  { speed := 0, width := 0, att := .none, failc := 0, nblk := 0, sbGen := 0, sbB := true, uid := 0, extsh := 0
    jfirst := 0, jblk := 0, jseq := 0, jckpt := 0, jseqc := 0, head := 0, recs := [], wr := [], take := none
    ending := none, ended := false, dir := [], streams := [], frames := [], pics := [], nextId := 0, cmd := none
    sbDue := false, force := false, stop := false, pfw := false, lost := 0, written := 0, perst := false
    perstAt := none }

/-- A coded input fed from a magazine, keyed 16 × slot + input (R664, R665): the stream it reads, D once fixed, the
number of its next unit, and pictures read and not delivered: frame, cause, note and units. -/
structure MagIn where
  mag : Nat
  stream : Nat
  d : Option Int
  no : Nat
  pics : List (Nat × Nat × List Nat × List (List Nat))
  deriving DecidableEq, Repr

/-! ### Interrupts, mailboxes and semaphores (spec/17) -/

/-- One interrupt source (R674, R675, R688): pending, its arrival time, whether it waits for a sleeping core, and
its routing. -/
structure IctSrc where
  pend : Bool
  arrived : Nat
  stranded : Bool
  pri : Nat
  core : Nat
  group : Nat
  deriving DecidableEq, Repr

/-- A source after reset (R703). -/
def IctSrc.reset : IctSrc := ⟨false, 0, false, 0, 0, 0⟩

/-- Group states (R677). -/
inductive GroupSt where
  | idle | held | open
  deriving DecidableEq, Repr

/-- One group: its state, arrivals and the hold-off taken at its move to HELD. -/
structure IctGroup where
  st : GroupSt
  count : Nat
  hold : Nat
  limit : Nat
  heldAt : Nat
  deriving DecidableEq, Repr

/-- A group after reset. -/
def IctGroup.reset : IctGroup := ⟨.idle, 0, 0, 0, 0⟩

/-- One context (R680-R682): claims not yet completed with the threshold each pushed (none for BASE), newest first; the
threshold in force above BASE; popped thresholds with the cycle from which each is in effect; and the cycle from which
the line is asserted. -/
structure IctCtx where
  claims : List (Nat × Option Nat)
  thr : Option Nat
  restores : List (Nat × Option Nat)
  lineFrom : Option Nat
  deriving DecidableEq, Repr

/-- A context after reset. -/
def IctCtx.reset : IctCtx := ⟨[], none, [], none⟩

/-- The interrupt controller. -/
structure Ict where
  srcs : Tab IctSrc
  groups : Tab IctGroup
  ctxs : Tab IctCtx
  heldWakes : List Nat
  deriving DecidableEq, Repr

/-- The interrupt controller after reset. -/
def Ict.reset : Ict := ⟨[], [], [], []⟩

/-- One mailbox (R690-R697, R728, R729): configuration, full flag, whether it overwrote an unread message, timeout, last
writer, when FULL was set, and the device and mailbox that a remote message came from. Its message stands in MBX_MSG. -/
structure Mbx where
  en : Bool
  rcv : Nat
  skword : Nat
  full : Bool
  coll : Bool
  tmo : Bool
  snd : Nat
  fullAt : Nat
  origin : Option (Nat × Nat)
  deriving DecidableEq, Repr

/-- A mailbox after reset. -/
def Mbx.reset : Mbx := ⟨false, 0, 0, false, false, false, 0, 0, none⟩

/-- One semaphore (R699-R702). -/
structure Sem where
  owner : Option Nat
  want : Bool
  deriving DecidableEq, Repr

/-- A free semaphore. -/
def Sem.reset : Sem := ⟨none, false⟩

/-! ### Stitch (spec/18) -/

/-- Link states (STH_STAT.LST). -/
inductive LinkSt where
  | off | train | hello | up | spare | refused
  deriving DecidableEq, Repr

/-- One Stitch link: state, place in the tree, what its peer's HELLO said, the replay buffer and numbering (R707), a NAK
owed, the HELLO last sent and when the next is due, PHASE due, sent, received and stamped (R719, times in ps), the delay,
and when the link left UP. -/
structure SthLink where
  st : LinkSt
  uplink : Bool
  down : Bool
  peer : Nat
  peerUid : Nat
  peerDepth : Nat
  peerMgr : Option Nat
  heard : Bool
  fmtDiff : Bool
  delay : Int
  txSeq : Nat
  rxSeq : Nat
  nak : Bool
  replay : List Flit
  hello : Option HelloInfo
  helloAt : Nat
  phase : Option PhaseInfo
  phaseAt : Nat
  lastPhase : Option Nat
  stamp : Option Int
  stampAt : Nat
  downAt : Option Nat
  deriving DecidableEq, Repr

/-- A link at reset (R743). -/
def SthLink.reset : SthLink :=
  { st := .off, uplink := false, down := false, peer := 0, peerUid := 0, peerDepth := 3, peerMgr := none, heard := false
    fmtDiff := false, delay := 0, txSeq := 0, rxSeq := 4095, nak := false, replay := [], hello := none, helloAt := 0
    phase := none, phaseAt := 0, lastPhase := none, stamp := none, stampAt := 0, downAt := none }

/-- Roster entry states (R715). -/
inductive RosterSt where
  | free | pending | joined | absent
  deriving DecidableEq, Repr

/-- One roster entry: SYS_UID, CLEVEL and position; `claim` is the SYS_UID and CLEVEL of a
replacement that waits PENDING (R716). -/
structure Roster where
  st : RosterSt
  uid : Nat
  clevel : Nat
  parent : Nat
  plink : Nat
  olink : Nat
  claim : Option (Nat × Nat)
  deriving DecidableEq, Repr

/-- A FREE entry. -/
def Roster.reset : Roster := ⟨.free, 0, 0, 0, 0, 0, none⟩

/-- A placement held by the manager (R738): stage pattern and, by part, device and library revision. -/
structure Placement where
  stagepat : Nat
  parts : List (Nat × Nat)
  deriving DecidableEq, Repr

/-- A requester's remote access (R723): device, cycle of its commit; result and data when it is done. -/
structure Rra where
  busy : Bool
  dev : Nat
  at_ : Nat
  result : Nat
  cause : Nat
  data : Nat
  deriving DecidableEq, Repr

/-- No access made. -/
def Rra.reset : Rra := ⟨false, 0, 0, 0, 0, 0⟩

/-- A tile channel's sender side (R733, R735): blocks sent, blocks confirmed by the receiver, the receiver's last CIDX,
and whether the channel has paused for want of a route. -/
structure TileCh where
  sent : Nat
  conf : Nat
  cidxR : Nat
  paused : Bool
  deriving DecidableEq, Repr

/-- A channel just enabled. -/
def TileCh.reset : TileCh := ⟨0, 0, 0, false⟩

/-- A tile channel's receiving side (R734): the local ring, the PIDX written and the CIDX last reported. -/
structure TileRx where
  skein : Nat
  ring : Nat
  pidx : Nat
  cidx : Nat
  deriving DecidableEq, Repr

/-- No ring yet. -/
def TileRx.reset : TileRx := ⟨0, 0, 0, 0⟩

/-- A remote access that waits for another origin's unlock to close (R725): its link, origin and contents. -/
structure RraWait where
  link : Nat
  dev : Nat
  req : Nat
  wr : Bool
  w64 : Bool
  offset : Nat
  data : Nat
  deriving DecidableEq, Repr

/-- A subscription to a local Stitch stream (R731): stream, subscriber, units sent to it. -/
structure Subscr where
  stream : Nat
  dev : Nat
  sent : Nat
  deriving DecidableEq, Repr

/-- Stitch as a whole: links, this device's number, depth and manager, the fleet floor, roster and placements, remote
accesses made and waiting, and the origin of each frame's remote unlock, tile channels, the link held by each stream and
channel (R714), subscriptions, and loss notices queued and kept. -/
structure Sth where
  links : Tab SthLink
  depth : Nat
  devNo : Nat
  mgrUid : Nat
  floor : Nat
  roster : Tab Roster
  places : List Placement
  rra : Tab Rra
  unlocks : Tab (Option (Nat × Nat))
  waiting : List RraWait
  tch : Tab TileCh
  trx : Tab TileRx
  assign : Tab (Option Nat)
  subs : List Subscr
  loss : List LossNotice
  lossDrop : Nat
  kept : List LossNotice
  deriving DecidableEq, Repr

/-- Stitch at reset (R743). -/
def Sth.reset : Sth :=
  { links := [], depth := 3, devNo := 0, mgrUid := 0, floor := 0, roster := [], places := [], rra := [], unlocks := []
    waiting := [], tch := [], trx := [], assign := [], subs := [], loss := [], lossDrop := 0, kept := [] }

/-! ### The security block (spec/19) -/

/-- One entry of the library store (R754): a revision's micro section, export table and factory seed table. -/
structure LibEntry where
  rev : Nat
  micro : List Native
  exports : List Nat
  seeds : List Nat
  deriving DecidableEq, Repr

/-- A command that SEC holds (R751): whether it is SEC_NLOAD's, its OP, requester, address and argument, and the copy of
a small image that SEC took when it reached the command (R750). -/
structure SecCmd where
  nload : Bool
  op : Nat
  req : Nat
  addr : Nat
  arg : Nat
  started : Bool
  copy : Option (List Nat)
  deriving DecidableEq, Repr

/-- A nano bank load in its LOADING stage (R769): the bank, its skeins, whether it is a customer image, the image's revision
and its entries of 12 bytes. -/
structure NanoLoad where
  bank : Bool
  skeins : List Nat
  cust : Bool
  rev : Nat
  entries : List Nat
  deriving DecidableEq, Repr

/-- SEC: scopes and challenge, the measurements, the library store and the accepted equivalence table, the fuses (owner
key, KREV, rollback count), the random source, held commands, the bank load in progress, cast-on's progress, the boot
flash (bytes that differ from erased), and the attestation reports made (R744-R771). -/
structure Sec where
  scopes : Nat
  challenge : Option (List Nat)
  mboot : Option (BitVec 384)
  mstage : Option (BitVec 384)
  mapp : Option (BitVec 384)
  store : List LibEntry
  equiv : Option (List Nat)
  equivRev : Nat
  owner : Option (List Nat)
  krev : Bool
  rbcnt : Nat
  rngok : Bool
  held : List SecCmd
  load : Option NanoLoad
  step : Nat
  cause : Nat
  src : Nat
  fallback : Bool
  trial : Bool
  trialfail : Bool
  bootGo : Bool
  flash : Tab Byte
  reports : Nat
  deriving DecidableEq, Repr

/-- SEC at reset of a device as made: fuses unblown, flash erased (R771). -/
def Sec.reset : Sec :=
  { scopes := 0, challenge := none, mboot := none, mstage := none, mapp := none, store := [], equiv := none
    equivRev := 0, owner := none, krev := false, rbcnt := 0, rngok := false, held := [], load := none, step := 1
    cause := 0, src := 0, fallback := false, trial := false, trialfail := false, bootGo := false, flash := []
    reports := 0 }

/-! ### Modes, power domains and faults (spec/20), pins (spec/22) -/

/-- The operating modes (R31, R781). -/
inductive Mode where
  | off | awning | castOn | standby | armed | run | holdover | degraded | bindOff | frozen | service | update
  deriving DecidableEq, Repr

/-- Mode codes (R781). -/
def Mode.code : Mode → Nat
  | .off => 0 | .awning => 1 | .castOn => 2 | .standby => 3 | .armed => 4 | .run => 5 | .holdover => 6
  | .degraded => 7 | .bindOff => 8 | .frozen => 9 | .service => 10 | .update => 11

/-- PWR and the awning domain (R772-R794, R833-R835): the mode with PREV and CAUSE, HELD, the domains up, isolated and
isolated once their slot is EMPTY, the switching steps that wait (255 and 254 mark the end of a write's steps and of a
mode command's), the mode command in progress, bind-off and the power-fail schedule, the wake and start conditions, the
RESET_N pin, PWRGD falls not yet counted, temperatures, and the cores. -/
structure Pwr where
  mode : Mode
  prev : Mode
  cause : Nat
  held : Bool
  up : BitVec 214
  iso : BitVec 214
  isoWait : BitVec 214
  switching : List (Nat × Bool)
  cmdBusy : Bool
  stay : Bool
  holdaw : Bool
  armedOnce : Bool
  degradedFrom : Mode
  haltPending : Bool
  bindStep : Nat
  bindAt : Nat
  byCommand : Bool
  pfwAt : Option Nat
  pfwStep : Nat
  pfwTakes : Nat
  pfwPos : Nat × Nat × Nat
  wake : Bool
  startAt : Option Nat
  resetHigh : Bool
  fallDue : Nat
  tj : Int
  awningTj : Int
  coresReleased : Bool
  coreEntry : Tab Nat
  rstCause : Nat
  mtimeBase : Nat
  deriving DecidableEq, Repr

/-- PWR right after a device reset released with PWRGD high: CAST-ON entered from AWNING by cast-on, the cores, RCK
and ICT up (reset values of PWR_MODE, PWR_DOMREQ6, PWR_DOMSTAT6). -/
def Pwr.reset : Pwr :=
  { mode := .castOn, prev := .awning, cause := 1, held := false
    up := BitVec.ofNat 214 (0x003000FF * 2 ^ 192), iso := 0, isoWait := 0, switching := []
    cmdBusy := false, stay := false, holdaw := false, armedOnce := false, degradedFrom := .standby, haltPending := false
    bindStep := 0, bindAt := 0, byCommand := false, pfwAt := none, pfwStep := 0, pfwTakes := 0, pfwPos := (0, 0, 0)
    wake := false, startAt := none, resetHigh := true, fallDue := 0, tj := 0
    awningTj := 0, coresReleased := false, coreEntry := [], rstCause := 1, mtimeBase := 0 }

/-- One entry of the fault history (R802). -/
structure HistEntry where
  src : Nat
  sev : Nat
  sub : Nat
  detail : Nat
  req : Nat
  mode : Nat
  timeOk : Bool
  sec : Nat
  ns : Nat
  frame : Nat
  line : Nat
  tick : Nat
  journalled : Bool
  deriving DecidableEq, Repr

/-- The fault collector: the history, newest first, the causes of level sources that are present (8 × source + cause), and
the DETAIL latched with each source (R795-R803). -/
structure Fcl where
  hist : List HistEntry
  level : Tab Bool
  detail : Tab Nat
  deriving DecidableEq, Repr

/-- FCL when the base domain comes up (R806). -/
def Fcl.reset : Fcl := ⟨[], [], []⟩

/-! ### Ledger and Tally (spec/21) -/

/-- A journal record before it is written: type, mode code, part, time field and 44 payload bytes (R810). -/
structure LdgRec where
  type : Nat
  carry : Bool
  mode : Nat
  part : Nat
  seq : Nat
  time : Nat
  payload : List Nat
  deriving DecidableEq, Repr

/-- A Tally snapshot being written (R819): its number, what it captured and the next part. -/
structure Snap where
  no : Nat
  cnt : Tab Nat
  hist : Tab Nat
  next : Nat
  deriving DecidableEq, Repr

/-- The Ledger: the array (64-byte units as numbers, least significant byte first, keyed by unit; an unlisted unit is
blank), its queue, head and scan, the power-fail records, and the responder's last response and when its sending ends (R807-R825). -/
structure Ldg where
  units : Tab Nat
  idOk : Bool
  ready : Bool
  headSeq : Nat
  headSlot : Nat
  anyRecord : Bool
  queue : List LdgRec
  pfail : List LdgRec
  rsp : List Nat
  rspUntil : Nat
  deriving DecidableEq, Repr

/-- The Ledger of a device after its first scan found no record. -/
def Ldg.reset : Ldg := ⟨[], true, false, 0, 57279, false, [], [], [], 0⟩

/-- The Tally: counters, histogram bins (64 × histogram + bin), the snapshot in progress and one waiting, the
last number used, and when the next hourly snapshot and the next second are due (R818-R822). -/
structure Tly where
  cnt : Tab Nat
  hist : Tab Nat
  snap : Option Snap
  waiting : Bool
  loaded : Bool
  no : Nat
  hourAt : Nat
  secAt : Nat
  deriving DecidableEq, Repr

/-- The Tally when the base domain comes up. -/
def Tly.reset : Tly := ⟨[], [], none, false, false, 0, 3600000000000, 1000000000⟩

/-! ### The whole block -/

/-- Everything the manual gives the device, the queue of waiting commands, the fabric-cycle count and the counter of
free values (the model's own). -/
structure State where
  pending : List Instr
  now : Nat
  free : Nat
  bus : Bus
  rck : Rck
  ptp : Tab Ptp
  lane : Tab Lane
  lfi : Tab Lfi
  port : Tab LfiPort
  swt : Tab Swt
  ndl : Tab Ndl
  bank : Tab NanoBank
  dist : Tab Dist
  skn : Tab Skn
  pat : Tab Pat
  pl : Option PlCmd
  joint : Tab JointSt
  mem : Mem
  stl : Stl
  eth : Tab EthPort
  ssw : Ssw
  ft : Ft
  arrivals : List Arrival
  ict : Ict
  mbx : Tab Mbx
  sem : Tab Sem
  pwr : Pwr
  fcl : Fcl
  ldg : Ldg
  tly : Tly
  sth : Sth
  sec : Sec
  mag : Tab Mag
  magIn : Tab MagIn
  prt : Tab Prt
  deriving DecidableEq, Repr

/-- The machine right after reset. -/
def State.reset : State :=
  { pending := [], now := 0, free := 0, bus := .reset, rck := .reset, ptp := [], lane := [], lfi := []
    port := [], swt := [], ndl := [], bank := [], dist := [], skn := [], pat := [], pl := none
    joint := [], mem := .reset, stl := .reset, eth := [], ssw := .reset, ft := .reset, arrivals := []
    ict := .reset, mbx := [], sem := [], pwr := .reset, fcl := .reset, ldg := .reset, tly := .reset
    sth := .reset, sec := .reset, mag := [], magIn := [], prt := [] }

end Sys2Proof.Machine
end

