-- ==== Sys2Proof/Machine/Ops.lean ====
section
/-! DEFINITION. Named operations over registers, time, interrupts, the Tally, the Ledger queue and modes that the
meanings of all blocks share. -/

namespace Sys2Proof.Machine

/-- The outcome type of a meaning. -/
abbrev Out := Host.Outcome State Fault Refusal

/-! ### Frames and registers -/

/-- The frame index of instance `n` of a block (R43). -/
def blkFrame : Blk → Nat → Nat
  | .sys, _ => 0
  | .rck, _ => 4
  | .ptp, d => 5 + d
  | .lane, n => 64 + n
  | .ndl, n => 128 + n
  | .skn, n => 256 + n
  | .gau, _ => 272
  | .mch, n => 288 + n
  | .stl, _ => 304
  | .prt, g => 308 + g
  | .ssw, _ => 320
  | .ft, _ => 324
  | .ct, _ => 328
  | .eth, p => if p < 16 then 336 + p else 360 + p
  | .mag, m => 352 + m
  | .sth, k => 368 + k
  | .ict, _ => 384
  | .mbx, _ => 388
  | .sem, _ => 392
  | .fcl, _ => 396
  | .pwr, _ => 400
  | .ldg, _ => 404
  | .tly, _ => 408
  | .sec, _ => 412
  | .lfi, _ => 416
  | .swt, _ => 420

/-- The block and instance of a frame index; none for a frame that R43 does not allocate. -/
def frameBlk (f : Nat) : Option (Blk × Nat) :=
  if f = 0 then some (.sys, 0) else if f = 4 then some (.rck, 0)
  else if f = 5 then some (.ptp, 0) else if f = 6 then some (.ptp, 1)
  else if 64 ≤ f && f < 128 then some (.lane, f - 64)
  else if 128 ≤ f && f < 256 then some (.ndl, f - 128)
  else if 256 ≤ f && f < 272 then some (.skn, f - 256)
  else if f = 272 then some (.gau, 0)
  else if 288 ≤ f && f < 304 then some (.mch, f - 288)
  else if f = 304 then some (.stl, 0)
  else if 308 ≤ f && f < 312 then some (.prt, f - 308)
  else if f = 320 then some (.ssw, 0) else if f = 324 then some (.ft, 0) else if f = 328 then some (.ct, 0)
  else if 336 ≤ f && f < 352 then some (.eth, f - 336)
  else if 352 ≤ f && f < 368 then some (.mag, f - 352)
  else if 368 ≤ f && f < 376 then some (.sth, f - 368)
  else if 376 ≤ f && f < 384 then some (.eth, f - 360)
  else if f = 384 then some (.ict, 0) else if f = 388 then some (.mbx, 0) else if f = 392 then some (.sem, 0)
  else if f = 396 then some (.fcl, 0) else if f = 400 then some (.pwr, 0) else if f = 404 then some (.ldg, 0)
  else if f = 408 then some (.tly, 0) else if f = 412 then some (.sec, 0) else if f = 416 then some (.lfi, 0)
  else if f = 420 then some (.swt, 0) else none

/-- The reset value of one register word (the map lines; PWR_DOMREQw, PWR_DOMSTATw and FCL_SEVw by instance; the
fused SYS_UID). -/
def regReset (r : Reg) (i w : Nat) : Nat :=
  match r with
  | .PWR_DOMREQ => if i = 6 then 0x003000FF else 0
  | .PWR_DOMSTAT => if i = 6 then 0x003000FF else 0
  | .FCL_SEV => if i = 0 then 0x54A95651 else if i = 1 then 0x16DD5C15 else 0
  | .SYS_UID_LO => bitsOf Config.uid.toNat 0 32
  | .SYS_UID_HI => bitsOf Config.uid.toNat 32 32
  | r => (regInfo r).resets.getD w 0

/-- The control-space word number of word `w` of instance `i` of a register in frame instance `fr`. -/
def regKey (r : Reg) (fr i w : Nat) : Nat :=
  blkFrame (regInfo r).blk fr * 0x1000 + ((regInfo r).off + i * (regInfo r).stride) / 4 + w

/-- The control-space byte offset of a register word. -/
def regOffset (r : Reg) (fr i w : Nat) : Nat := regKey r fr i w * 4

/-- The key of a requester's own copy of a register word. -/
def copyKey (req k : Nat) : Nat := (req + 1) * 2 ^ 22 + k

/-- A stored register word. -/
def rword (s : State) (r : Reg) (fr i w : Nat) : Nat :=
  ((tabFind s.bus.regs (regKey r fr i w)).map BitVec.toNat).getD (regReset r i w)

/-- Store a register word. -/
def setRword (r : Reg) (fr i w v : Nat) (s : State) : State :=
  let regs := tabSet (BitVec.ofNat 32 (regReset r i w)) s.bus.regs (regKey r fr i w) (BitVec.ofNat 32 v)
  { s with bus := { s.bus with regs := regs } }

/-- A requester's copy of a register word. -/
def rwordQ (s : State) (r : Reg) (req fr i w : Nat) : Nat :=
  ((tabFind s.bus.regs (copyKey req (regKey r fr i w))).map BitVec.toNat).getD (regReset r i w)

/-- Store a requester's copy of a register word. -/
def setRwordQ (r : Reg) (req fr i w v : Nat) (s : State) : State :=
  let regs := tabSet (BitVec.ofNat 32 (regReset r i w)) s.bus.regs (copyKey req (regKey r fr i w)) (BitVec.ofNat 32 v)
  { s with bus := { s.bus with regs := regs } }

/-- A field's value. -/
def fld (s : State) (f : FieldRef) (fr : Nat := 0) (i : Nat := 0) : Nat :=
  bitsOf (rword s f.reg fr i f.word) f.lo f.width

/-- A one-bit field as a Boolean. -/
def flag (s : State) (f : FieldRef) (fr : Nat := 0) (i : Nat := 0) : Bool := fld s f fr i == 1

/-- A requester's copy of a field. -/
def fldQ (s : State) (f : FieldRef) (req : Nat) (fr : Nat := 0) (i : Nat := 0) : Nat :=
  bitsOf (rwordQ s f.reg req fr i f.word) f.lo f.width

/-- The device sets a field. -/
def setFld (f : FieldRef) (v : Nat) (s : State) (fr : Nat := 0) (i : Nat := 0) : State :=
  setRword f.reg fr i f.word (setBits (rword s f.reg fr i f.word) f.lo f.width v) s

/-- The device sets a requester's copy of a field. -/
def setFldQ (f : FieldRef) (req v : Nat) (s : State) (fr : Nat := 0) (i : Nat := 0) : State :=
  setRwordQ f.reg req fr i f.word (setBits (rwordQ s f.reg req fr i f.word) f.lo f.width v) s

/-- Count in a saturating counter field (R62). -/
def bump (f : FieldRef) (s : State) (fr : Nat := 0) (i : Nat := 0) (n : Nat := 1) : State :=
  setFld f (satAdd (fld s f fr i) n (2 ^ f.width - 1)) s fr i

/-- Count in a counter field that wraps. -/
def bumpWrap (f : FieldRef) (s : State) (fr : Nat := 0) (i : Nat := 0) (n : Nat := 1) : State :=
  setFld f (fld s f fr i + n) s fr i

/-- Take the next free value number. -/
def takeFree (s : State) : State := { s with free := s.free + 1 }

/-! ### Modes and domains -/

/-- The base domain is up and operates in every mode except OFF and AWNING, and not while RESET_N holds the device in
reset (R772, R835). -/
def baseUp (s : State) : Bool := decide (s.pwr.mode ≠ .off) && decide (s.pwr.mode ≠ .awning) && s.pwr.resetHigh

/-- A switched domain is up. -/
def domUp (s : State) (d : Nat) : Bool := bitAt s.pwr.up.toNat d

/-- Mark a domain up or down. -/
def setUp (d : Nat) (b : Bool) (s : State) : State :=
  { s with pwr := { s.pwr with up := BitVec.ofNat 214 (setBits s.pwr.up.toNat d 1 (b2n b)) } }

/-- A domain's request bit in PWR_DOMREQ. -/
def domReq (s : State) (d : Nat) : Bool := bitAt (rword s .PWR_DOMREQ 0 (d / 32) 0) (d % 32)

/-- Set a domain's request bit. -/
def setDomReq (d : Nat) (b : Bool) (s : State) : State :=
  setRword .PWR_DOMREQ 0 (d / 32) 0 (setBits (rword s .PWR_DOMREQ 0 (d / 32) 0) (d % 32) 1 (b2n b)) s

/-- The domains a domain requires (R774). -/
def domRequires (d : Nat) : List Nat :=
  if d < 128 then [128 + d / 8]
  else if d < 144 then []
  else if d < 160 then []
  else if d < 176 then [208 + (d - 160) / 4, 212]
  else if d < 182 then [200, 202]
  else if d < 190 then [203]
  else if d < 192 then [212]
  else if d < 200 then [213]
  else if d = 201 then [200]
  else if 204 ≤ d && d < 208 then [203]
  else []

/-- The switched domain of a block's frame; none for blocks of the base domain (R772, R774). The LFI frame holds the
registers of all four LFI groups and the Swatch frame has no switched domain, so both count as base (DEDUCED,
notes/assumptions/10.md). -/
def blkDomain : Blk → Nat → Option Nat
  | .rck, _ => some 212
  | .ptp, _ => some 212
  | .lane, n => some (160 + n / 4)
  | .ndl, n => some n
  | .skn, n => some (128 + n)
  | .mch, n => some (144 + n)
  | .stl, _ => some 203
  | .prt, g => some (204 + g)
  | .ssw, _ => some 200
  | .ct, _ => some 200
  | .ft, _ => some 201
  | .eth, p => some (176 + p / 4)
  | .mag, m => some (182 + m / 2)
  | .sth, k => some (190 + k / 4)
  | .ict, _ => some 213
  | _, _ => none

/-! ### Time (R107, R858) -/

/-- Units of realised time in one nanosecond. -/
def nsUnit : Nat := 2 ^ 40

/-- The frame-rate denominator. -/
def fmtDen (s : State) : Nat := if flag s F.RCK_FMT_DEN1001 then 1001 else 1000

/-- Ticks per second times the denominator. -/
def fmtTicks (s : State) : Nat := fld s F.RCK_FMT_NUM * fld s F.RCK_FMT_LINES * 4096

/-- The servo has made the step of R98 and realises time. -/
def timeRealised (s : State) : Bool :=
  match s.rck.servo with
  | .locked | .slew | .hold => true
  | _ => false

/-- Raster time is valid (R858). -/
def rasterValid (s : State) : Bool := timeRealised s && s.rck.fmtOk

/-- The position total of a realised time in units of 2⁻⁴⁰ ns (R107). -/
def totalAt (s : State) (rt : Nat) : Nat :=
  (rt - fld s F.RCK_FMT_OFS * nsUnit) * fmtTicks s / (fmtDen s * 1000000000 * nsUnit)

/-- The current position total. -/
def totalNow (s : State) : Nat := totalAt s s.rck.rt

/-- Ticks in a frame. -/
def frameTicks (s : State) : Nat := 4096 * fld s F.RCK_FMT_LINES

/-- Frame, line and tick of a position total; the frame number has 40 bits (R110). -/
def posOf (s : State) (total : Nat) : Nat × Nat × Nat :=
  (total / frameTicks s % 2 ^ 40, total / 4096 % fld s F.RCK_FMT_LINES, total % 4096)

/-- The current position; zero while raster time is not valid (R858). -/
def posNow (s : State) : Nat × Nat × Nat := if rasterValid s then posOf s (totalNow s) else (0, 0, 0)

/-- The current frame number. -/
def frameNow (s : State) : Nat := (posNow s).1

/-- The current line. -/
def lineNow (s : State) : Nat := (posNow s).2.1

/-- Lines since the epoch of raster time; zero while it is not valid. -/
def lineTotal (s : State) : Nat := if rasterValid s then totalNow s / 4096 else 0

/-- Seconds of realised time. -/
def secNow (s : State) : Nat := if timeRealised s then s.rck.rt / nsUnit / 1000000000 else 0

/-- Nanoseconds of realised time within the second. -/
def nsNow (s : State) : Nat := if timeRealised s then s.rck.rt / nsUnit % 1000000000 else 0

/-- Whether position total `t` lies at least `ns` nanoseconds after realised time `rt`. -/
def totalAfter (s : State) (t : Nat) (rt : Nat) (ns : Int) : Bool :=
  decide (((t * fmtDen s * 1000000000 * nsUnit : Nat) : Int) ≥
    ((rt : Int) + (ns - fld s F.RCK_FMT_OFS) * nsUnit) * fmtTicks s)

/-! ### Tally (R818) -/

/-- Add to a lifetime counter of 48 bits. -/
def tallyAdd (c n : Nat) (s : State) : State :=
  if baseUp s then
    { s with tly := { s.tly with cnt := tabMod 0 s.tly.cnt c (fun v => satAdd v n (2 ^ 48 - 1)) } }
  else s

/-- Count one event. -/
def tally (c : Nat) (s : State) : State := tallyAdd c 1 s

/-! ### Interrupt sources (R673-R689) -/

/-- Change a source. -/
def modSrc (n : Nat) (f : IctSrc → IctSrc) (s : State) : State :=
  { s with ict := { s.ict with srcs := tabMod .reset s.ict.srcs n f } }

/-- A source. -/
def srcOf (s : State) (n : Nat) : IctSrc := tabGet .reset s.ict.srcs n

/-- A group. -/
def groupOf (s : State) (g : Nat) : IctGroup := tabGet .reset s.ict.groups g

/-- Change a group. -/
def modGroup (g : Nat) (f : IctGroup → IctGroup) (s : State) : State :=
  { s with ict := { s.ict with groups := tabMod .reset s.ict.groups g f } }

/-- A context. -/
def ctxOf (s : State) (n : Nat) : IctCtx := tabGet .reset s.ict.ctxs n

/-- Change a context. -/
def modCtx (n : Nat) (f : IctCtx → IctCtx) (s : State) : State :=
  { s with ict := { s.ict with ctxs := tabMod .reset s.ict.ctxs n f } }

/-- A source is wake-enabled when an enabled watch entry names it (R686). -/
def wakeEnabled (s : State) (src : Nat) : Bool :=
  (List.range 64).any fun w => flag s F.ICT_WAKE_EN 0 w && fld s F.ICT_WAKE_SRC 0 w == src

/-- The current threshold of a context (R680, R682): BASE while its stack is empty. -/
def ctxThreshold (s : State) (n : Nat) : Nat := (ctxOf s n).thr.getD (fld s F.ICT_CTX_CFG_BASE 0 n)

/-- A source is deliverable to its core (R678, R681). -/
def deliverable (s : State) (n : Nat) : Bool :=
  let x := srcOf s n
  x.pend && decide ((groupOf s x.group).st = .open) && decide (x.pri > ctxThreshold s x.core) &&
    flag s F.ICT_CTX_CFG_EN 0 x.core && !flag s F.ICT_CTRL_GDIS && decide ((ctxOf s x.core).claims.length < 8)

/-- The listed sources deliverable to a core. -/
def deliverables (s : State) (c : Nat) : List Nat :=
  (s.ict.srcs.map Prod.fst).filter fun n => decide ((srcOf s n).core = c) && deliverable s n

/-- After any change, the lines of the contexts: asserted from 2 fabric cycles after a source becomes deliverable
(R679), and the stranded sources whose line first rises now (R688). -/
def settleCtx (delay : Nat) (c : Nat) (s : State) : State :=
  let d := deliverables s c
  let line (x : IctCtx) : Option Nat := if d.isEmpty then none else some (x.lineFrom.getD (s.now + delay))
  let s := modCtx c (fun x => { x with lineFrom := line x }) s
  if domUp s (192 + c) then
    forEach d (fun n s =>
      if (srcOf s n).stranded then
        let ms := (s.now - (srcOf s n).arrived) / 1000000
        let s := bump F.ICT_CTX_STRAND_COUNT s 0 c
        let s := setFld F.ICT_CTX_STRAND_MAXDLY (max (fld s F.ICT_CTX_STRAND_MAXDLY 0 c) (min ms 65535)) s 0 c
        modSrc n (fun x => { x with stranded := false }) s
      else s) s
  else s

/-- Settle every context. -/
def ictSettle (s : State) : State := forEach (List.range 8) (settleCtx 2) s

/-- Whether a request that would raise a domain is dropped because a required domain is down (R780). -/
def requiresUp (s : State) (d : Nat) : Bool := (domRequires d).all (domUp s)

/-- Ask PWR for one domain's rise. -/
def askUp (d : Nat) (s : State) : State :=
  if domUp s d || s.pwr.switching.contains (d, true) then setDomReq d true s
  else
    let s := setDomReq d true s
    { s with pwr := { s.pwr with switching := s.pwr.switching ++ [(d, true)] } }

/-- A wake event for a core (R687, R780): in AWNING it wakes the device, with GDIS set it is held (R684), otherwise it
asks for the core's domain or is dropped. Answers whether it was dropped. -/
def wakeCore (core : Nat) (s : State) : State × Bool :=
  if s.pwr.mode = .awning then
    (bump F.ICT_CNT_WAKES { s with pwr := { s.pwr with wake := true, holdaw := false } }, false)
  else if flag s F.ICT_CTRL_GDIS then ({ s with ict := { s.ict with heldWakes := s.ict.heldWakes ++ [core] } }, false)
  else
    let s := bump F.ICT_CNT_WAKES s
    if bitAt (fld s F.PWR_WAKEEN_CORE) core && requiresUp s (192 + core) then (askUp (192 + core) s, false)
    else (bump F.PWR_CNT_WAKEDROP s, true)

/-- The sleeping cores that an OPEN group's pending wake-enabled sources target (R687). -/
def groupWakes (s : State) (g : Nat) : List Nat :=
  ((s.ict.srcs.map Prod.fst).filter fun m =>
    decide ((srcOf s m).group = g) && (srcOf s m).pend && wakeEnabled s m && !domUp s (192 + (srcOf s m).core)).map
    fun m => (srcOf s m).core

/-- The next state of a group at an arrival (R677). -/
def groupArrive (x : IctGroup) (hold limit now : Nat) : IctGroup :=
  match x.st with
  | .idle =>
    if hold = 0 || (limit ≠ 0 && decide (1 ≥ limit)) then ⟨.open, 1, hold, limit, now⟩ else ⟨.held, 1, hold, limit, now⟩
  | .held =>
    if x.limit ≠ 0 && decide (x.count + 1 ≥ x.limit) then { x with st := .open, count := x.count + 1 }
    else { x with count := x.count + 1 }
  | .open => x

/-- The arrival of an event at a source: its pending bit and its group (R674, R677, R688, R689). Answers the cores to
wake. -/
def srcArrive (src : Nat) (s : State) : State × List Nat :=
  if !domUp s 213 && !wakeEnabled s src then (s, [])
  else if (srcOf s src).pend then (s, [])
  else
    let asleep := !domUp s (192 + (srcOf s src).core)
    let strand := asleep && !wakeEnabled s src
    let s := modSrc src (fun x => { x with pend := true, arrived := s.now, stranded := strand }) s
    let g := (srcOf s src).group
    let x := groupOf s g
    let y := groupArrive x (fld s F.ICT_GRP_HOLD 0 g) (fld s F.ICT_GRP_COUNT 0 g) s.now
    let s := modGroup g (fun _ => y) s
    (s, if decide (x.st ≠ .open) && decide (y.st = .open) then groupWakes s g else [])

/-- Perform the wakes of a group; a dropped one raises WAKEDROP (R780). -/
def doWakes (cores : List Nat) (s : State) : State :=
  forEach cores (fun c s =>
    match wakeCore c s with
    | (s, false) => s
    | (s, true) =>
      match srcArrive 775 s with
      | (s, cs) => forEach cs (fun c s => (wakeCore c s).1) s) s

/-- An event of source `src` arrives. -/
def raise (src : Nat) (s : State) : State :=
  match srcArrive src s with
  | (s, cs) => ictSettle (doWakes cs s)

end Sys2Proof.Machine
end

