-- ==== Sys2Proof/Machine/Access.lean ====
section
/-! DEFINITION. Numbered collections of State: one reader and one writer each, and the fields of a pattern descriptor
(spec/07 R310-R313). -/

namespace Sys2Proof.Machine

/-! ### Tables of State -/

/-- A lane. -/
def laneOf (s : State) (n : Nat) : Lane := tabGet .reset s.lane n

/-- Change a lane. -/
def modLane (n : Nat) (f : Lane → Lane) (s : State) : State := { s with lane := tabMod .reset s.lane n f }

/-- A line FIFO. -/
def lfiOf (s : State) (n : Nat) : Lfi := tabGet .reset s.lfi n

/-- Change a line FIFO. -/
def modLfi (n : Nat) (f : Lfi → Lfi) (s : State) : State := { s with lfi := tabMod .reset s.lfi n f }

/-- Read port `p` of the bond of base lane `b`. -/
def portOf (s : State) (b p : Nat) : LfiPort := tabGet .reset s.port (2 * b + p)

/-- Change a read port. -/
def modPort (b p : Nat) (f : LfiPort → LfiPort) (s : State) : State :=
  { s with port := tabMod .reset s.port (2 * b + p) f }

/-- A Swatch. -/
def swtOf (s : State) (n : Nat) : Swt := tabGet .reset s.swt n

/-- Change a Swatch. -/
def modSwt (n : Nat) (f : Swt → Swt) (s : State) : State := { s with swt := tabMod .reset s.swt n f }

/-- A needle. -/
def ndlOf (s : State) (n : Nat) : Ndl := tabGet .reset s.ndl n

/-- Change a needle. -/
def modNdl (n : Nat) (f : Ndl → Ndl) (s : State) : State := { s with ndl := tabMod .reset s.ndl n f }

/-- A nano-store bank of a skein: A is false, B is true. -/
def bankOf (s : State) (k : Nat) (b : Bool) : NanoBank := tabGet .reset s.bank (2 * k + b2n b)

/-- Change a nano-store bank. -/
def modBank (k : Nat) (b : Bool) (f : NanoBank → NanoBank) (s : State) : State :=
  { s with bank := tabMod .reset s.bank (2 * k + b2n b) f }

/-- A distributor of a skein. -/
def distOf (s : State) (k d : Nat) : Dist := tabGet .reset s.dist (2 * k + d)

/-- Change a distributor. -/
def modDist (k d : Nat) (f : Dist → Dist) (s : State) : State :=
  { s with dist := tabMod .reset s.dist (2 * k + d) f }

/-- A skein. -/
def sknOf (s : State) (k : Nat) : Skn := tabGet .reset s.skn k

/-- Change a skein. -/
def modSkn (k : Nat) (f : Skn → Skn) (s : State) : State := { s with skn := tabMod .reset s.skn k f }

/-- A pattern slot. -/
def patOf (s : State) (n : Nat) : Pat := tabGet .reset s.pat n

/-- Change a pattern slot. -/
def modPat (n : Nat) (f : Pat → Pat) (s : State) : State := { s with pat := tabMod .reset s.pat n f }

/-- An output of a pattern slot. -/
def encOf (s : State) (n k : Nat) : Enc := tabGet .reset (patOf s n).outs k

/-- Change an output. -/
def modEnc (n k : Nat) (f : Enc → Enc) (s : State) : State :=
  modPat n (fun p => { p with outs := tabMod .reset p.outs k f }) s

/-- The Gauge's model of an output. -/
def gauOf (s : State) (n k : Nat) : Gau := tabGet .reset (patOf s n).gaus k

/-- Change a Gauge model. -/
def modGau (n k : Nat) (f : Gau → Gau) (s : State) : State :=
  modPat n (fun p => { p with gaus := tabMod .reset p.gaus k f }) s

/-- A coded input of a pattern slot. -/
def decOf (s : State) (n i : Nat) : Dec := tabGet .reset (patOf s n).ins i

/-- Change a coded input. -/
def modDec (n i : Nat) (f : Dec → Dec) (s : State) : State :=
  modPat n (fun p => { p with ins := tabMod .reset p.ins i f }) s

/-- Change the memories. -/
def modMem (f : Mem → Mem) (s : State) : State := { s with mem := f s.mem }

/-- A bay. -/
def bayOf (s : State) (b : Nat) : Bay := tabGet .reset s.mem.bays b

/-- Change a bay. -/
def modBay (b : Nat) (f : Bay → Bay) (s : State) : State :=
  modMem (fun m => { m with bays := tabMod .reset m.bays b f }) s

/-- An RLD channel. -/
def mchOf (s : State) (c : Nat) : Mch := tabGet .reset s.mem.mchs c

/-- Change an RLD channel. -/
def modMch (c : Nat) (f : Mch → Mch) (s : State) : State :=
  modMem (fun m => { m with mchs := tabMod .reset m.mchs c f }) s

/-- A bay is READY. -/
def bayReady (s : State) (b : Nat) : Bool := decide ((bayOf s b).st = .ready)

/-- A Stitch link. -/
def linkOf (s : State) (k : Nat) : SthLink := tabGet .reset s.sth.links k

/-- Change Stitch. -/
def modSth (f : Sth → Sth) (s : State) : State := { s with sth := f s.sth }

/-- Change a Stitch link. -/
def modLink (k : Nat) (f : SthLink → SthLink) (s : State) : State :=
  modSth (fun t => { t with links := tabMod .reset t.links k f }) s

/-! ### Roles -/

/-- The role straps name a worker (R90, R710). -/
def isWorker (s : State) : Bool := fld s F.SYS_STRAP_ROLE == 1

/-- The role straps name the manager (R710). -/
def isManager (s : State) : Bool := fld s F.SYS_STRAP_ROLE == 2

/-! ### Descriptors (R310-R313) -/

/-- `n` descriptor bytes at an offset, as a little-endian number (R12). -/
def dLe (d : List Nat) (off n : Nat) : Nat := ((d.drop off).take n).foldr (fun b v => b % 256 + 256 * v) 0

/-- The field of `n` bytes at an offset of a slot's descriptor. -/
def pf (s : State) (slot off n : Nat) : Nat := dLe (patOf s slot).desc off n

/-- Outputs of a descriptor. -/
def dNout (d : List Nat) : Nat := dLe d 0x007 1

/-- Inputs of a descriptor. -/
def dNin (d : List Nat) : Nat := dLe d 0x006 1

/-- The needles of NMASK, ascending. -/
def dNeedles (d : List Nat) : List Nat := (List.range 128).filter fun n => bitAt (dLe d 0x180 16) n

/-- The skeins of NMASK, ascending. -/
def dSkeins (d : List Nat) : List Nat := (List.range 16).filter fun k => bitsOf (dLe d 0x180 16) (8 * k) 8 != 0

/-- A byte field of output section `k`. -/
def dOut (d : List Nat) (k off n : Nat) : Nat := dLe d (0x200 + 0x80 * k + off) n

/-- A field of input entry `i`. -/
def dIn (d : List Nat) (i off n : Nat) : Nat := dLe d (0x080 + 0x10 * i + off) n

/-- A slot that is not EMPTY. -/
def slotUsed (s : State) (n : Nat) : Bool := decide ((patOf s n).st ≠ .empty)

/-- The slots that are not EMPTY. -/
def slotsUsed (s : State) : List Nat := (List.range 256).filter (slotUsed s)

/-- Needles of a slot. -/
def slotNeedles (s : State) (n : Nat) : List Nat := dNeedles (patOf s n).desc

/-- The outputs of a slot, as numbers. -/
def slotOuts (s : State) (n : Nat) : List Nat := List.range (dNout (patOf s n).desc)

/-- The slot that a needle serves: NDL_STAT.SLOT of a placed needle. -/
def ndlSlot (s : State) (n : Nat) : Option Nat := (ndlOf s n).slot

/-- The lanes of a bond: base lane and width (R154). -/
def bondOf (s : State) (n : Nat) : Nat × Nat :=
  let w := 2 ^ fld s F.LANE_CTRL_BWC n
  (n - n % w, w)

end Sys2Proof.Machine
end

