-- ==== Sys2Proof/Machine/Halt.lean ====
section
/-! DEFINITION. What a mode change asks of the other blocks: the questions PWR and FCL put to them (R784, R797) and
the stops of FROZEN (R787). -/

namespace Sys2Proof.Machine

/-- A slot's descriptor names a switched domain: its needles and their skeins, its bays' channels, its cameras' LFI
groups, and the Ethernet and magazine domains of its outputs. -/
def slotNeeds (s : State) (n d : Nat) : Bool :=
  let x := (patOf s n).desc
  if d < 128 then bitAt (dLe x 0x180 16) d
  else if d < 144 then bitsOf (dLe x 0x180 16) (8 * (d - 128)) 8 != 0
  else if d < 160 then bitAt (dLe x 0x192 1) ((d - 144) / 4)
  else if d < 176 then
    (List.range (dNin x)).any fun i =>
      let b := dIn x i 1 1
      dIn x i 0 1 == 1 && decide (b / 4 ≤ d - 160) && decide (d - 160 ≤ (b + (bondOf s b).2 - 1) / 4)
  else if d < 182 then
    (List.range (dNout x)).any fun k => bitAt (dOut x k 0x40 1) 1 && dOut x k 0x42 1 / 4 == d - 176
  else if d < 190 then
    (List.range (dNout x)).any fun k => bitAt (dOut x k 0x40 1) 0 && dOut x k 0x41 1 / 2 == d - 182
  else false

/-- A switched domain serves a slot that is not EMPTY (R797). -/
def domainServes (s : State) (d : Nat) : Bool := (slotsUsed s).any fun n => slotNeeds s n d

/-- Some slot is RUNNING. -/
def anyRunning (s : State) : Bool := s.pat.any fun e => decide (e.2.st = .running)

/-- Every slot is EMPTY. -/
def allEmpty (s : State) : Bool := s.pat.all fun e => decide (e.2.st = .empty)

/-- Some bay is FROZEN or in RESTORE. -/
def anyBayHeld (s : State) : Bool :=
  (List.range 4).any fun b => decide ((bayOf s b).st = .frozen) || decide ((bayOf s b).st = .restore)

/-! ### Needle requests -/

/-- A needle that executes. -/
def ndlRuns (x : Ndl) : Bool := decide (x.st = .run) || decide (x.st = .stall) || decide (x.st = .horiz)

/-- Change a needle's STATE, raising NDLSTATEn on a change. -/
def setNdlSt (n : Nat) (st : NdlSt) (s : State) : State :=
  if (ndlOf s n).st = st then s else raise (193 + n) (modNdl n (fun x => { x with st := st }) s)

/-- A needle raises an interrupt input (spec/05, events). -/
def ndlIrq (n i : Nat) (s : State) : State :=
  modNdl n (fun x => { x with ipend := x.ipend ||| 2 ^ i }) s

/-- An abort becomes pending at a needle that executes; an unload or a bay freeze supersedes another (R215, R420). -/
def askAbort (n cause : Nat) (s : State) : State :=
  let put (x : Ndl) : Ndl :=
    if !ndlRuns x then x
    else match x.abort with
      | none => { x with abort := some cause }
      | some c => { x with abort := some (if cause = 1 || (cause = 3 && c ≠ 1) then cause else c) }
  modNdl n put s

/-- A HALT is asked of a needle (R228): one that executes stops at its next sampling point, another at once; a needle
in FAULT keeps its state unless the pattern is unloaded (R332). -/
def askHalt (n : Nat) (fromFault : Bool) (s : State) : State :=
  let x := ndlOf s n
  if ndlRuns x then modNdl n (fun x => { x with haltAsked := true }) s
  else if x.st = .fault && !fromFault then s
  else setNdlSt n .halt s

/-- The needle stops of FROZEN (R787): every needle whose domain is up takes HALT. -/
def frozenNeedles (s : State) : State :=
  forEach ((List.range 128).filter (domUp s)) (fun n s => askHalt n false s) s

/-- A channel that runs is asked to abort (R545). -/
def prtAsk (x : Prt) : Prt :=
  match x.st with
  | .fetch => { x with st := .aborting }
  | .move => { x with st := .aborting }
  | _ => x

/-- Every porter chain is aborted (R787, R545). -/
def frozenPorters (s : State) : State := { s with prt := s.prt.map fun e => (e.1, prtAsk e.2) }

/-- Each magazine port with a take open stops intake (R787). -/
def frozenMags (s : State) : State :=
  { s with mag := s.mag.map fun e => (e.1, if e.2.take.isSome then { e.2 with stop := true } else e.2) }

/-- The stops of FROZEN (R787). -/
def frozenStops (s : State) : State := frozenMags (frozenPorters (frozenNeedles s))

end Sys2Proof.Machine
end

