-- ==== Sys2Proof/Machine/Report.lean ====
section
/-! DEFINITION. Journalling, changes of mode, domain switching requests and fault reports (spec/20, spec/21). -/

namespace Sys2Proof.Machine

/-! ### The Ledger's write queue (R810-R813) -/

/-- The TIME field of a record (R810): zero while raster time is not valid. -/
def ldgTime (s : State) : Nat := if rasterValid s then secNow s % 2 ^ 34 * 2 ^ 30 + nsNow s else 0

/-- A number as little-endian bytes (R12). -/
def leBytes : Nat → Nat → List Nat
  | 0, _ => []
  | n + 1, v => v % 256 :: leBytes n (v / 256)

/-- The number that little-endian bytes spell. -/
def leNat : List Nat → Nat
  | [] => 0
  | b :: t => b % 256 + 256 * leNat t

/-- A record of the present moment. -/
def mkRec (s : State) (type part : Nat) (payload : List Nat) : LdgRec :=
  ⟨type, false, s.pwr.mode.code, part, 0, ldgTime s, payload⟩

/-- Queue a record; `full` says what happens when the queue holds 32 (R813). At 24 records LDGQ is raised (R826). -/
def ldgPushOr (full : State → State) (r : LdgRec) (s : State) : State :=
  if !baseUp s then s
  else if s.ldg.queue.length ≥ 32 then full (bump F.LDG_CNT1_QDROP s)
  else
    let s := { s with ldg := { s.ldg with queue := s.ldg.queue ++ [r] } }
    if s.ldg.queue.length = 24 then raise 788 s else s

/-! ### Domain switching (R775, R776) -/

/-- A bay's four channel domains switch as one, under the first of them (R475). -/
def bayLead (d : Nat) : Nat := if 144 ≤ d && d < 160 then 144 + (d - 144) / 4 * 4 else d

/-- Order the domains of one write that go down: each before any it requires, else ascending (R776). -/
def orderDowns : Nat → List Nat → List Nat
  | 0, _ => []
  | n + 1, l =>
    match l.find? (fun d => !l.any (fun e => (domRequires e).contains d)) with
    | none => []
    | some d => d :: orderDowns n (l.erase d)

/-- Order the domains of one write that come up: each after every domain it requires, else ascending (R776). -/
def orderUps : Nat → List Nat → List Nat
  | 0, _ => []
  | n + 1, l =>
    match l.find? (fun d => !(domRequires d).any (fun e => l.contains e)) with
    | none => []
    | some d => d :: orderUps n (l.erase d)

/-- The switching steps of one write: downs, then ups (R776). -/
def switchSteps (downs ups : List Nat) : List (Nat × Bool) :=
  let lead (l : List Nat) : List Nat := l.filter (fun d => bayLead d = d)
  (orderDowns 214 (lead downs)).map (fun d => (d, false)) ++ (orderUps 214 (lead ups)).map (fun d => (d, true))

/-- Append switching steps. -/
def addSwitching (l : List (Nat × Bool)) (s : State) : State :=
  { s with pwr := { s.pwr with switching := s.pwr.switching ++ l } }

/-- The needle domains that are up. -/
def needlesUp (s : State) : List Nat := (List.range 128).filter (domUp s)

/-- The needle domains requested and down. -/
def needlesAsked (s : State) : List Nat := (List.range 128).filter fun d => domReq s d && !domUp s d

/-! ### Changes of mode (R782-R787) -/

/-- What the entry of a mode does to the domains and to FROZEN's stops (R779, R787). -/
def modeEntry (m : Mode) (s : State) : State :=
  match m with
  | .standby => addSwitching (switchSteps (needlesUp s) []) s
  | .armed | .service => addSwitching (switchSteps [] (needlesAsked s)) s
  | .frozen => frozenStops s
  | _ => s

/-- Change the mode (R786): MODE, PREV and CAUSE, MODECHG, the journal, and the entry's own actions. -/
def setModeOr (full : State → State) (m : Mode) (cause : Nat) (s : State) : State :=
  let old := s.pwr.mode
  let held := decide (m = .degraded) && decide (s.rck.servo = .hold)
  let s := { s with pwr := { s.pwr with
    mode := m, prev := old, cause := cause, held := held, armedOnce := s.pwr.armedOnce || decide (m = .armed),
    degradedFrom := if m = .degraded then old else s.pwr.degradedFrom } }
  let s := raise 772 s
  let s := ldgPushOr full (mkRec s 2 0 [m.code, old.code, cause]) s
  modeEntry m s

/-- Isolate a domain (R797): its ISO bit, its request bit, and its switching down, at once or once its slot is EMPTY. -/
def isolate (d : Nat) (s : State) : State :=
  let iso := BitVec.ofNat 214 (setBits s.pwr.iso.toNat d 1 1)
  let s := setDomReq d false { s with pwr := { s.pwr with iso := iso } }
  if domainServes s d then
    { s with pwr := { s.pwr with isoWait := BitVec.ofNat 214 (setBits s.pwr.isoWait.toNat d 1 1) } }
  else if domUp s d then addSwitching [(d, false)] s else s

/-! ### Fault reports (R795-R803) -/

/-- The severity of a source in FCL_SEV. -/
def fclSev (s : State) (src : Nat) : Nat := bitsOf (rword s .FCL_SEV 0 (src / 16) 0) (2 * (src % 16)) 2

/-- A source's latched bit. -/
def fclLatched (s : State) (src : Nat) : Bool := bitAt (rword s .FCL_FLT 0 (src / 32) 0) (src % 32)

/-- Set or clear a latched bit. -/
def setLatched (src : Nat) (b : Bool) (s : State) : State :=
  setRword .FCL_FLT 0 (src / 32) 0 (setBits (rword s .FCL_FLT 0 (src / 32) 0) (src % 32) 1 (b2n b)) s

/-- The domain that a source isolates (R795, last column). -/
def fclIsolates (src detail : Nat) : Option Nat :=
  if src = 0x04 then some (detail % 128) else if src = 0x1C then some (detail % 256) else none

/-- FAULT_N is low (R801). -/
def faultNLow (s : State) : Bool :=
  baseUp s && (List.range 31).any fun i => fclLatched s i && decide (fclSev s i ≥ fld s F.FCL_CTRL_PINSEV)

/-- The eight words of a history entry (FCL_HISTR). -/
def histWords (e : HistEntry) : List Nat :=
  [2 ^ 31 + b2n e.timeOk * 2 ^ 30 + e.sev * 2 ^ 28 + e.mode * 2 ^ 24 + e.src * 2 ^ 16 + e.sub * 2 ^ 8 + e.req,
   e.detail, e.sec % 2 ^ 32, e.sec / 2 ^ 32 % 2 ^ 16 * 2 ^ 16, e.ns, e.frame % 2 ^ 32, e.frame / 2 ^ 32 % 2 ^ 8,
   e.line * 2 ^ 12 + e.tick]

/-- The payload of a FAULT record: the history words less the time (R811). -/
def faultPayload (e : HistEntry) : List Nat :=
  let w := histWords e
  leBytes 4 (w.getD 0 0) ++ leBytes 4 (w.getD 1 0) ++ leBytes 4 (w.getD 5 0) ++ leBytes 4 (w.getD 6 0) ++
    leBytes 4 (w.getD 7 0)

/-- The history entry of a report now (R802). -/
def mkHist (s : State) (src sub detail req sev : Nat) : HistEntry :=
  let v := rasterValid s
  let p := posNow s
  ⟨src, sev, sub % 256, detail % 2 ^ 32, req % 256, s.pwr.mode.code, v, if v then secNow s else 0,
    if v then nsNow s else 0, p.1, p.2.1, p.2.2, false⟩

/-- Modes from which a DEGRADE report enters DEGRADED (R782). -/
def canDegrade (m : Mode) : Bool :=
  match m with
  | .standby | .armed | .run | .holdover => true
  | _ => false

/-- Modes from which a HALT report enters FROZEN at once (R782). -/
def canFreeze (m : Mode) : Bool :=
  match m with
  | .off | .awning | .bindOff | .frozen => false
  | _ => true

/-- Act according to a severity (R796). -/
def severityAct (full : State → State) (sev src detail : Nat) (s : State) : State :=
  let s := if sev ≥ 1 then raise 771 s else s
  let s := if sev ≥ 2 then (match fclIsolates src detail with | some d => isolate d s | none => s) else s
  if sev = 2 then (if canDegrade s.pwr.mode then setModeOr full .degraded 6 s else s)
  else if sev = 3 then
    let s := tally 437 s
    if s.pwr.mode = .bindOff then { s with pwr := { s.pwr with haltPending := true } }
    else if canFreeze s.pwr.mode then setModeOr full .frozen 7 s else s
  else s

/-- A report to FCL (R796, R799, R802). `n` bounds the chain of a full Ledger queue reporting LDGERR (R813). -/
def reportN : Nat → Nat → Nat → Nat → Nat → State → State
  | 0, _, _, _, _, s => s
  | n + 1, src, sub, detail, req, s =>
    if !baseUp s then s
    else
      let full := reportN n 0x1D 0 3 255
      let s := tally 436 s
      if fclLatched s src then bump F.FCL_CNT_REPEAT s
      else
        let sev := fclSev s src
        let s := setLatched src true s
        let j := decide (sev ≥ fld s F.FCL_CTRL_LDGSEV)
        let e := mkHist s src sub detail req sev
        let e := { e with journalled := j && decide (s.ldg.queue.length < 32) }
        let s := { s with fcl := { s.fcl with hist := (e :: s.fcl.hist).take 32, detail := tabSet 0 s.fcl.detail src detail } }
        let s := bump F.FCL_CNT_REPORTS s
        let s := if j then ldgPushOr full (mkRec s 1 0 (faultPayload e)) s else s
        severityAct full sev src detail s

/-- Report a fault: source, SUB, DETAIL and requester (0xFF for none). -/
def report (src sub detail req : Nat) (s : State) : State := reportN 4 src sub detail req s

/-- What a full Ledger queue does (R813). -/
def ldgFull (s : State) : State := report 0x1D 0 3 255 s

/-- Queue a Ledger record (R813). -/
def ldgPush (r : LdgRec) (s : State) : State := ldgPushOr ldgFull r s

/-- Change the mode (R786). -/
def setMode (m : Mode) (cause : Nat) (s : State) : State := setModeOr ldgFull m cause s

/-! ### Bus errors (R79-R82) -/

/-- Bus error cause codes (R82). -/
def Berr.code : Berr → Nat
  | .unmapped => 1 | .noframe => 2 | .size => 3 | .resval => 4 | .guard => 5 | .badkey => 6 | .domoff => 7
  | .winOp => 8 | .busy => 9

/-- A refused access: the count, and the capture while armed (R81). -/
def busError (req addr : Nat) (write : Bool) (c : Berr) (s : State) : State :=
  let s := bump F.SYS_BERR_INFO_COUNT s
  if flag s F.SYS_BERR_INFO_ARM then
    let s := setRword .SYS_BERR_ALO 0 0 0 (addr % 2 ^ 32) s
    let s := setRword .SYS_BERR_AHI 0 0 0 (addr / 2 ^ 32 % 2 ^ 16) s
    let s := setFld F.SYS_BERR_INFO_ARM 0 s
    let s := setFld F.SYS_BERR_INFO_WRITE (b2n write) s
    let s := setFld F.SYS_BERR_INFO_CAUSE c.code s
    setFld F.SYS_BERR_INFO_REQ req s
  else s

/-- The base of the control space (R41). -/
def controlBase : Nat := 0x0E0000000000

end Sys2Proof.Machine
end

