-- ==== Sys2Proof/Machine/RegWrite.lean ====
section
/-! DEFINITION. The write path of the register interface: locating a register, aliases, staging, the key guard, the
refusal order, reserved values, parity (spec/00 R15-R18, R853; spec/02). -/

namespace Sys2Proof.Machine

/-! ### Locating a register -/

/-- The register, instance and word at a normal-window offset of a block; none at a reserved offset (R17). -/
def locate (b : Blk) (fr o : Nat) : Option (Reg × Nat × Nat) :=
  (blkRegs b).findSome? fun r =>
    let x := regInfo r
    if o < x.off then none
    else if x.firstOnly && decide (fr % 4 ≠ 0 ∨ (b = .sth ∧ fr ≠ 0)) then none
    else
      let d := o - x.off
      let i := if x.stride = 0 then 0 else d / x.stride
      let w := (d - i * x.stride) / 4
      if i < x.count && w < x.words then some (r, i, w) else none

/-- Mask of a register word's fields of some kinds. -/
def kindMask (r : Reg) (w : Nat) (ks : List FKind) : Nat :=
  (regInfo r).fields.foldl (fun m f => if f.word = w && ks.contains f.kind then m ||| ((2 ^ f.width - 1) <<< f.lo) else m) 0

/-- The bits a write can change: RW and KG fields. FCL_SEVw holds fields only for real sources, with BOOTFAIL and
THERMTRIP fixed (R795); PWR_DOMREQ6 holds 22 domains. -/
def rwMask (r : Reg) (i w : Nat) : Nat :=
  match r with
  | .FCL_SEV => if i = 0 then 0xFFFFFFFF else if i = 1 then 0x3FF3F3FF else 0
  | .PWR_DOMREQ => if i = 6 then 0x003FFFFF else 0xFFFFFFFF
  | r => kindMask r w [.rw, .kg]

/-- The bits that carry WO fields. -/
def woMask (r : Reg) (w : Nat) : Nat := kindMask r w [.wo]

/-- A register carries parity when it holds RW or KG fields (R73). -/
def carriesParity (r : Reg) : Bool := (regInfo r).fields.any fun f => decide (f.kind = .rw) || decide (f.kind = .kg)

/-- The value a write leaves in one word before storing: through the normal window the data's RW, KG and WO bits; an
alias changes RW and KG bits of the current value only (R49, R50). -/
def applyWin (win : Alias) (data old rw wo : Nat) : Nat :=
  match win with
  | .normal => data &&& (rw ||| wo)
  | .set => (old ||| data) &&& rw
  | .clear => old &&& (rw - (data &&& rw))
  | .toggle => (old ^^^ data) &&& rw

/-! ### Reserved values (R18, R853) -/

/-- A field value is legal. -/
def legalVal (l : Legal) (v : Nat) : Bool :=
  match l with
  | .any => true
  | .range a b => decide (a ≤ v) && decide (v ≤ b)
  | .oneOf vs => vs.contains v
  | .even => v % 2 == 0

/-- The value judged leaves the register's function off (R853). -/
def isOff (r : Reg) (vals : List Nat) : Bool :=
  !(regInfo r).offState.isEmpty && (regInfo r).offState.all fun (w, lo, wd) => bitsOf (vals.getD w 0) lo wd == 0

/-- Every field judged under R18 holds a legal value. -/
def judge (r : Reg) (vals : List Nat) : Bool :=
  (regInfo r).fields.all fun f =>
    decide (f.kind = .ro) || decide (f.kind = .rl) || (isOff r vals && !f.always) ||
      legalVal f.legal (bitsOf (vals.getD f.word 0) f.lo f.width)

/-! ### Staging (R56, R57) -/

/-- The key of a requester's staged or latched word. -/
def stageKey (req k : Nat) : Nat := copyKey req k

/-- The current stored word as this requester sees it. -/
def curWord (s : State) (r : Reg) (req fr i w : Nat) : Nat :=
  if (regInfo r).perReq then rwordQ s r req fr i w else rword s r fr i w

/-- Store a word as this requester's write does. -/
def putWord (r : Reg) (req fr i w v : Nat) (s : State) : State :=
  if (regInfo r).perReq then setRwordQ r req fr i w v s else setRword r fr i w v s

/-- The words a commit leaves: staged or current lower words, and the top word as written (R56). -/
def commitVals (s : State) (r : Reg) (fr i : Nat) (a : Acc) : List Nat :=
  let top := (regInfo r).words - 1
  (List.range (regInfo r).words).map fun w =>
    let old := curWord s r a.req.val fr i w &&& rwMask r i w
    if w = top then applyWin a.win a.data.toNat old (rwMask r i w) (woMask r w)
    else
      match tabGet none s.bus.staged (stageKey a.req.val (regKey r fr i w)) with
      | some v => v.toNat
      | none => old

/-- Stage a lower word. -/
def stageWord (r : Reg) (fr i w : Nat) (a : Acc) (s : State) : State :=
  let old := curWord s r a.req.val fr i w &&& rwMask r i w
  let v := applyWin a.win a.data.toNat old (rwMask r i w) (woMask r w)
  { s with bus := { s.bus with
      staged := tabSet none s.bus.staged (stageKey a.req.val (regKey r fr i w)) (some (BitVec.ofNat 32 v)) } }

/-- A requester's staging for a register ends (R57). -/
def dropStage (r : Reg) (req fr i : Nat) (s : State) : State :=
  let drop (t : Tab (Option Word)) (w : Nat) : Tab (Option Word) := tabErase t (stageKey req (regKey r fr i w))
  { s with bus := { s.bus with staged := (List.range (regInfo r).words).foldl drop s.bus.staged } }

/-! ### Key guard (R64-R72) -/

/-- The key guard of a frame. -/
def keyOf (s : State) (f : Nat) : KeyGuard := tabGet .reset s.bus.keys f

/-- Change the key guard of a frame. -/
def modKey (f : Nat) (g : KeyGuard → KeyGuard) (s : State) : State :=
  { s with bus := { s.bus with keys := tabMod .reset s.bus.keys f g } }

/-- Count a refused key or guarded write (R72). -/
def keyReject (f req : Nat) (c : Berr) (s : State) : State :=
  modKey f (fun g => { g with rejCount := satAdd g.rejCount 1 65535, rejCause := c.code, rejReq := req }) s

/-- KEYSTAT.LEFT: the fabric cycles left in the unlock of a frame (R65, R70). -/
def keyLeft (s : State) (f : Nat) : Nat := (keyOf s f).ends - s.now

/-- The writer owns an unlock of the frame (R68). -/
def keyOpen (s : State) (f req : Nat) : Bool := decide (keyLeft s f ≥ 1) && decide ((keyOf s f).owner = req)

/-- Grant or renew the unlock: LEFT is 256 (R65, R66). -/
def keyGrant (f req : Nat) (s : State) : State := modKey f (fun g => { g with ends := s.now + 256, owner := req }) s

/-- Close the unlock (R68, R70). -/
def keyClose (f : Nat) (s : State) : State := modKey f (fun g => { g with ends := 0, owner := 0 }) s

/-! ### Storing, parity and arbitration -/

/-- The parity key of a register, or of a requester's copy (R73, R854). -/
def parKey (r : Reg) (req fr i : Nat) : Nat :=
  if (regInfo r).perReq then copyKey req (regKey r fr i 0) else regKey r fr i 0

/-- A write recomputes the parity bit, so the register agrees with it again (R73, R76), and takes precedence over the
checker in this cycle (R77). -/
def parityWritten (r : Reg) (req fr i : Nat) (s : State) : State :=
  if carriesParity r then
    let k := parKey r req fr i
    { s with bus := { s.bus with
        parBad := tabSet false s.bus.parBad k false, parReported := tabSet false s.bus.parReported k false
        wroteNow := k :: s.bus.wroteNow } }
  else s

/-- Store the RW and KG fields of a commit. -/
def storeVals (r : Reg) (req fr i : Nat) (vals : List Nat) (s : State) : State :=
  forEach (List.range (regInfo r).words) (fun w s =>
    let m := rwMask r i w
    if m = 0 then s
    else
      let old := curWord s r req fr i w
      putWord r req fr i w ((old - (old &&& m)) ||| (vals.getD w 0 &&& m)) s) s

/-- The fabric class of a requester: needles and Gauge second, all other register traffic third (R47). -/
def busClass (req : Nat) : Nat := if req < 128 || req = 233 then 1 else 2

/-- A served access moves its target's round-robin pointer of the class (R47). -/
def served (f req : Nat) (s : State) : State :=
  { s with bus := { s.bus with rrPtr := tabSet 0 s.bus.rrPtr (f * 3 + busClass req) ((req + 1) % 256) } }

/-- The order in which one cycle's contenders of a class are served (R47). -/
def serveOrder (ptr : Nat) (ids : List Nat) : List Nat :=
  ids.filter (fun i => decide (ptr ≤ i)) ++ ids.filter (fun i => decide (i < ptr))

/-! ### One word written -/

/-- The offset of a window within a frame (R49). -/
def winOffset : Alias → Nat
  | .normal => 0 | .set => 0x1000 | .clear => 0x2000 | .toggle => 0x3000

/-- The write of one word of a register, under the refusal order of R857, and the cause if it is refused. `busy` and `ok`
are the register's own refusals for its block's state and its own reserved values; `eff` is what a commit does beside
storing. -/
def writeReg (r : Reg) (fr i w : Nat) (a : Acc) (busy : List Nat → Option Berr) (ok : List Nat → Bool) (keep : Bool)
    (eff : List Nat → State → State) (s : State) : State × Option Berr :=
  if !baseUp s then (s, none)
  else
    let b := (regInfo r).blk
    let f := blkFrame b fr
    let req := a.req.val
    let s := served f req s
    let down := match blkDomain b fr with | some d => !domUp s d | none => false
    if down then (s, some .domoff)
    else if w + 1 < (regInfo r).words then (stageWord r fr i w a s, none)
    else
      let vals := commitVals s r fr i a
      let s := dropStage r req fr i s
      let guarded := (regInfo r).guarded
      if guarded && !keyOpen s f req then (keyReject f req .guard s, some .guard)
      else
        let s := if guarded then keyClose f s else s
        match busy vals with
        | some c => (s, some c)
        | none =>
          if !(judge r vals && ok vals) then (s, some .resval)
          else
            let s := if keep then parityWritten r req fr i (storeVals r req fr i vals s) else s
            (eff vals s, none)

/-- The end of an access: a refused one is a bus error of its requester (R79, R81). -/
def accessEnd (req addr : Nat) (write : Bool) (x : State × Option Berr) : State :=
  match x with
  | (s, some c) => busError req addr write c s
  | (s, none) => s

/-- One word written as an access of its own. -/
def writeOne (r : Reg) (fr i w : Nat) (a : Acc) (busy : List Nat → Option Berr) (ok : List Nat → Bool) (keep : Bool)
    (eff : List Nat → State → State) (s : State) : State :=
  accessEnd a.req.val (controlBase + regOffset r fr i w + winOffset a.win) true (writeReg r fr i w a busy ok keep eff s)

/-- The committing write of a register. -/
def regCommit (r : Reg) (fr i : Nat) (a : Acc) (busy : List Nat → Option Berr) (ok : List Nat → Bool)
    (eff : List Nat → State → State) (s : State) : State :=
  writeOne r fr i ((regInfo r).words - 1) a busy ok true eff s

/-- The writes of all words of a register in order, each a whole word through the normal window; the last commits. -/
def commitWords (r : Reg) (fr i : Nat) (req : Req) (ws : List Nat) (busy : List Nat → Option Berr) (ok : List Nat → Bool)
    (eff : List Nat → State → State) (s : State) : State :=
  forEach (List.range ws.length) (fun w s =>
    writeOne r fr i w ⟨req, .normal, BitVec.ofNat 32 (ws.getD w 0)⟩ busy ok true eff s) s

/-- No refusal of the register's own. -/
def neverBusy : List Nat → Option Berr := fun _ => none

/-- No reserved value beyond the field tables. -/
def anyOk : List Nat → Bool := fun _ => true

/-- A field's value among the words of a commit. -/
def valOf (vals : List Nat) (f : FieldRef) : Nat := bitsOf (vals.getD f.word 0) f.lo f.width

/-- Refuse with BUSY when a condition holds. -/
def busyIf (c : Bool) : Option Berr := if c then some .busy else none

/-- The word a reading command returns to its requester. -/
def answer (req v : Nat) (s : State) : State :=
  { s with bus := { s.bus with answers := tabSet 0 s.bus.answers req v } }

/-- A read of word 0 latches the upper words for the requester (R58). -/
def latchWords (r : Reg) (req fr i : Nat) (ws : List Nat) (s : State) : State :=
  forEach (List.range ws.length) (fun w s =>
    { s with bus := { s.bus with
        latched := tabSet none s.bus.latched (stageKey req (regKey r fr i w)) (some (BitVec.ofNat 32 (ws.getD w 0))) } }) s

/-- A read of a frame whose domain is up is served; otherwise it is refused with DOMOFF and answers 0 (R79, R83). -/
def readServed (r : Reg) (fr i : Nat) (req : Req) (serve : State → State) (s : State) : State :=
  if !baseUp s then s
  else
    let b := (regInfo r).blk
    let s := served (blkFrame b fr) req.val s
    let down := match blkDomain b fr with | some d => !domUp s d | none => false
    if down then answer req.val 0 (busError req.val (controlBase + regOffset r fr i 0) false .domoff s) else serve s

end Sys2Proof.Machine
end

