-- ==== Sys2Proof/Machine/Freeze.lean ====
section
/-! DEFINITION. Flits sent over Stitch, bay-loss notices and the freeze of a bay (R27, R497-R501, R705-R709, R741). -/

namespace Sys2Proof.Machine

/-! ### Sending over Stitch -/

/-- A worker has joined (R712). -/
def joined (s : State) : Bool := decide (s.sth.depth < 3)

/-- The message class of a flit's contents (R708). -/
def msgClass : StMsg → Nat
  | .rraAsk .. => 4 | .rraAnswer .. => 4 | .mbx .. => 5 | .mbxAck .. => 5
  | .tile .. => 6 | .tilePidx .. => 6 | .tileCidx .. => 6 | .unit .. => 7
  | _ => 3

/-- The UP links of the bundle that leads toward a device: a down-link's peer, a peer that is its parent on the roster,
or the uplink bundle. -/
def routeLinks (s : State) (dst : Nat) : List Nat :=
  let up := (List.range 8).filter fun k => decide ((linkOf s k).st = .up)
  let direct := up.filter fun k => !(linkOf s k).uplink && (linkOf s k).peer == dst
  let parent := (tabGet .reset s.sth.roster dst).parent
  let below := up.filter fun k => !(linkOf s k).uplink && isManager s && (linkOf s k).peer == parent && parent != 0
  if !direct.isEmpty then direct else if !below.isEmpty then below else up.filter fun k => (linkOf s k).uplink

/-- What a Stitch stream or a tile channel is held under (R714): its number and its destination; none for other traffic. -/
def spreadKey (dst : Nat) : StMsg → Option (Nat × Nat)
  | .tile c .. => some (c, (2048 + c) * 64 + dst)
  | .tilePidx c .. => some (c, (2048 + c) * 64 + dst)
  | .tileCidx c .. => some (c, (2080 + c) * 64 + dst)
  | .unit n .. => some (n, n * 64 + dst)
  | _ => none

/-- The link of a bundle that carries a message: a stream or channel keeps the link it was given, or is given link (number
mod links UP); everything else uses the lowest (R714). -/
def pickLink (links : List Nat) (dst : Nat) (msg : StMsg) (s : State) : Option Nat × State :=
  match spreadKey dst msg with
  | none => (links.head?, s)
  | some (n, key) =>
    match tabGet none s.sth.assign key with
    | some k => if links.contains k then (some k, s) else
      let r := links[n % links.length]?
      (r, modSth (fun t => { t with assign := tabSet none t.assign key r }) s)
    | none =>
      let r := links[n % links.length]?
      (r, modSth (fun t => { t with assign := tabSet none t.assign key r }) s)

/-- Put a numbered flit into a link's replay buffer (R707); flits beyond its first 512 have not been sent yet. -/
def linkSend (k src dst : Nat) (msg : StMsg) (s : State) : State :=
  modLink k (fun l =>
    { l with replay := l.replay ++ [⟨msgClass msg, l.txSeq, src, dst, msg⟩], txSeq := (l.txSeq + 1) % 4096 }) s

/-- Send a message of some device on to a device; without a route it is lost (R709, R729, R732). -/
def routeMsg (src dst : Nat) (msg : StMsg) (s : State) : State :=
  match pickLink (routeLinks s dst) dst msg s with
  | (some k, s) => linkSend k src dst msg s
  | (none, s) => s

/-- Send a message to a device. -/
def sendMsg (dst : Nat) (msg : StMsg) (s : State) : State := routeMsg s.sth.devNo dst msg s

/-! ### Bay-loss notices (R741) -/

/-- The queue of SYS_LOSS takes a notice. -/
def lossQueue (n : LossNotice) (s : State) : State :=
  if s.sth.loss.length ≥ 16 then modSth (fun t => { t with lossDrop := satAdd t.lossDrop 1 65535 }) s
  else raise 761 (modSth (fun t => { t with loss := t.loss ++ [n] }) s)

/-- A notice is sent by a worker or queued by a manager or a standalone device; a worker without its uplink keeps up
to 16. -/
def lossNotice (n : LossNotice) (s : State) : State :=
  if isWorker s then
    if joined s then sendMsg 0 (.loss n) s
    else modSth (fun t => { t with kept := if t.kept.length ≥ 16 then t.kept else t.kept ++ [n] }) s
  else lossQueue n s

/-! ### Freeze of a bay -/

/-- The bay of a Stall pool, when it is enabled. -/
def poolBay (s : State) (p : Nat) : Option Nat :=
  if flag s F.STL_POOL_EN 0 p then some (fld s F.STL_POOL_BAY 0 p) else none

/-- The Stall pool that an output takes from: POOL, ALTPOOL, or none (R27, R314). -/
def outPool (s : State) (n k : Nat) : Option Nat :=
  let d := (patOf s n).desc
  match (encOf s n k).poolSel with
  | 0 => some (dOut d k 0x48 1)
  | 1 => some (dOut d k 0x49 1)
  | _ => none

/-- What the freeze of its bay does to one output (R314, R384): its picture in progress is discarded and counted, its
entries are UNUSED, its pool moves to ALTPOOL when that lies in a READY bay, and its next picture restarts. Answers
whether the output is left without a pool. -/
def freezeOut (n k b : Nat) (s : State) : State × Bool :=
  let d := (patOf s n).desc
  let hit := (outPool s n k).bind (poolBay s) = some b
  let e := encOf s n k
  let alt := dOut d k 0x49 1
  let altOk := alt != 0xFF && (match poolBay s alt with | some c => bayReady s c | none => false)
  let sel := if !hit then e.poolSel else if e.poolSel = 0 && altOk then 1 else 2
  let unused (l : List PoolEntry) : List PoolEntry :=
    l.map fun x => { x with ref := .unused, outPend := false, nonex := false, conc := false }
  let s := modEnc n k (fun e => { e with
    pic := none, restart := true, poolSel := sel, freeze := if e.pic.isSome then satAdd e.freeze 1 255 else e.freeze
    refs := e.refs.map fun (v, l) => (v, unused l), accel := false, sweepK := 0 }) s
  let s := if e.pic.isSome then raise 713 s else s
  (s, hit && sel = 2)

/-- What the freeze does to a slot whose BAYS names the bay (R27, R500): aborts, its outputs, and the notice. -/
def freezeSlot (b n : Nat) (s : State) : State :=
  let d := (patOf s n).desc
  if !slotUsed s n || !bitAt (dLe d 0x192 1) b then s
  else
    let s := forEach (dNeedles d) (fun m s => askAbort m 3 s) s
    let (s, lost) := (List.range (dNout d)).foldl (fun (acc : State × List Nat) k =>
      let (s, gone) := freezeOut n k b acc.1
      (s, if gone then acc.2 ++ [k] else acc.2)) (s, [])
    let s := modPat n (fun p => { p with lostOuts := p.lostOuts ++ lost }) s
    let s := modPat n (fun p => { p with ins := p.ins.map fun (i, x) => (i, { x with
      pool := x.pool.map fun e => { e with ref := .unused, outPend := false, nonex := false, conc := false }
      pic := none, sched := none
      episode := if x.high.isSome then some ⟨none, 0⟩ else x.episode }) }) s
    if lost.isEmpty then s
    else lossNotice ⟨s.sth.devNo, b, n, dLe d 0x068 2, dLe d 0x06A 1, lost.foldl (fun m k => m + 2 ^ k) 0⟩ s

/-- Change a bay's state, raising RLDBAYb on a change. -/
def setBay (b : Nat) (st : BaySt) (s : State) : State :=
  if (bayOf s b).st = st then s else raise (689 + b) (modBay b (fun x => { x with st := st, since := s.now }) s)

/-- The capture of a freeze in MCH_UE of a channel (R501). -/
def captureUe (c kind u req synd1 synd2 raw wheld rref : Nat) (s : State) : State :=
  let put (w v : Nat) (s : State) : State := setRword .MCH_UE c 0 w v s
  put 0 (2 ^ 31 + kind * 2 ^ 28 + u % 2 ^ 28) (put 1 (req % 256 * 2 ^ 24 + synd1 * 2 ^ 16 + synd2 * 2 ^ 8)
    (put 2 (raw % 2 ^ 32) (put 3 (raw / 2 ^ 32 % 2 ^ 32) (put 4 (raw / 2 ^ 64 % 2 ^ 16)
      (put 5 (wheld * 2 ^ 16 + rref) s)))))

/-- Modes from which a bay freeze enters DEGRADED (R27). -/
def freezeDegrades (m : Mode) : Bool := canDegrade m

/-- A channel freezes its bay (R497-R501): the state, the capture, the abort of its patterns and DEGRADED under R27,
with CAUSE 0x5; the report to FCL follows. -/
def bayFreeze (c kind u req synd1 synd2 raw wheld rref : Nat) (s : State) : State :=
  let b := c / 4
  let s := modBay b (fun x => { x with fch := c % 4 }) (setBay b .frozen s)
  let s := modMch c (fun x => { x with pause := none }) s
  let s := tally (32 + c) (captureUe c kind u req synd1 synd2 raw wheld rref s)
  let s := forEach (List.range 256) (freezeSlot b) s
  let s := if freezeDegrades s.pwr.mode then setMode .degraded 5 s else s
  match kind with
  | 1 => report 0x09 1 (c * 2 ^ 28 + u % 2 ^ 28) req s
  | 3 => report 0x09 3 (c * 2 ^ 28 + u % 2 ^ 28) req s
  | 2 => report 0x0A 0 c 255 s
  | 4 => report 0x0B 0 c 255 s
  | _ => s

end Sys2Proof.Machine
end

