-- ==== Sys2Proof/Machine/Memory.lean ====
section
/-! DEFINITION. The memories: the address map, the RLD code and its reads, row tracking, skein memory, core SRAM, local
store, and single accesses of every size (R41, R42, R186-R204, R468-R496, R855, R860, R862). -/

namespace Sys2Proof.Machine

/-! ### Address map (R41) -/

/-- The regions of R41, each with its instance and byte offset. -/
inductive Region where
  | rom (o : Nat)
  | sram (o : Nat)
  | skm (k o : Nat)
  | ctl (o : Nat)
  | rld (b o : Nat)
  | pcie (m o : Nat)
  deriving DecidableEq, Repr

/-- The region of an address; none outside the map, and for a bay that is not READY (R42, R477). -/
def regionOf (s : State) (a : Nat) : Option Region :=
  if a < 0x40000 then some (.rom a)
  else if 0x10000000 ≤ a && a < 0x10800000 then some (.sram (a - 0x10000000))
  else if 0x080000000000 ≤ a && a < 0x080000000000 + 16 * 0x400000 then
    some (.skm ((a - 0x080000000000) / 0x400000) (a % 0x400000))
  else if 0x0E0000000000 ≤ a && a < 0x0E0001000000 then some (.ctl (a - 0x0E0000000000))
  else if 0x100000000000 ≤ a && a < 0x100000000000 + 4 * 0x200000000 then
    let b := (a - 0x100000000000) / 0x200000000
    if bayReady s b then some (.rld b (a % 0x200000000)) else none
  else if 0x200000000000 ≤ a && a < 0x200000000000 + 16 * 0x100000000 then
    some (.pcie ((a - 0x200000000000) / 0x100000000) (a % 0x100000000))
  else none

/-- Requesters whose 72-bit accesses carry the tag: needles, porters and Stitch links (R202, R855). -/
def carriesTag (req : Nat) : Bool := req < 128 || (136 ≤ req && req < 200) || (224 ≤ req && req < 232)

/-- What an access gives: data, a bus error (R82), or an uncorrectable error of the memory. -/
inductive MemRes where
  | ok (v : Native)
  | err (c : Berr)
  | ue
  deriving DecidableEq, Repr

/-- A size and alignment that the memory regions accept (R855); `n` in bits. -/
def sizeOk (n a : Nat) : Bool :=
  match n with
  | 8 => true
  | 16 => a % 2 == 0
  | 32 => a % 4 == 0
  | 64 => a % 8 == 0
  | 72 => a % 8 == 0
  | _ => false

/-! ### The RLD code (R473, R479, R862) -/

/-- The channel of word x of a bay. -/
def rldCh (b x : Nat) : Nat := 4 * b + (bitsOf x 5 2 ^^^ bitsOf x 13 2 ^^^ bitsOf x 21 2)

/-- The channel word address u of word x. -/
def rldU (x : Nat) : Nat := x / 128 * 32 + x % 32

/-- The word x of a bay that a channel holds at u. -/
def rldX (c u : Nat) : Nat :=
  let hi := u / 32
  let k := c % 4 ^^^ bitsOf hi 6 2 ^^^ bitsOf hi 14 2
  hi * 128 + k * 32 + u % 32

/-- The column values h(i): the integers from 3 that are not powers of two. -/
def hcols : List Nat :=
  (List.range 128).filter fun n => decide (3 ≤ n) && !([4, 8, 16, 32, 64].contains n)

/-- The XOR of the column values of the set bits among the first `n`. -/
def colXor : List Nat → Nat → Nat
  | [], _ => 0
  | h :: t, v => (if v % 2 = 1 then h else 0) ^^^ colXor t (v / 2)

/-- The 100 covered bits: the word and its channel word address. -/
def covered (word u : Nat) : Nat := word % 2 ^ 72 + u % 2 ^ 28 * 2 ^ 72

/-- Check bits 0-6 of a word at u. -/
def checkLow (word u : Nat) : Nat := colXor (hcols.take 100) (covered word u)

/-- All eight check bits of a word at u. -/
def checkBits (word u : Nat) : Nat :=
  let l := checkLow word u
  l + b2n (parityOf 100 (covered word u) != parityOf 7 l) * 128

/-- The raw 80-bit word stored for a word at u. -/
def rawOf (word u : Nat) : Nat := word % 2 ^ 72 + checkBits word u * 2 ^ 72

/-- The syndrome of a raw word read at u (R862). -/
def syndrome (raw u : Nat) : Nat :=
  let word := raw % 2 ^ 72
  let chk := raw / 2 ^ 72 % 256
  (checkLow word u ^^^ chk % 128) + b2n (parityOf 100 (covered word u) != parityOf 8 chk) * 128

/-- What a syndrome means. -/
inductive SynKind where
  | clean
  | check
  | bit (i : Nat)
  | address
  | bad
  deriving DecidableEq, Repr

/-- The table of R862. -/
def synKind (s : Nat) : SynKind :=
  let l := s % 128
  if s / 128 % 2 = 0 then (if l = 0 then .clean else .bad)
  else if [0, 1, 2, 4, 8, 16, 32, 64].contains l then .check
  else
    let i := hcols.findIdx (fun h => h == l)
    if i < 72 then .bit i else if i < 100 then .address else .bad

/-- The word that a raw word corrects to under what its syndrome means. -/
def fixWord (k : SynKind) (raw : Nat) : Option Nat :=
  match k with
  | .clean => some (raw % 2 ^ 72)
  | .check => some (raw % 2 ^ 72)
  | .bit i => some ((raw ^^^ 2 ^ i) % 2 ^ 72)
  | _ => none

/-- The word a raw word corrects to, when it does. -/
def corrected (raw u : Nat) : Option Nat := fixWord (synKind (syndrome raw u)) raw

/-! ### RLD words -/

/-- The key of word x of a bay. -/
def rldKey (b x : Nat) : Nat := b * 2 ^ 30 + x

/-- The word written at x, without upsets. -/
def rldWord (s : State) (b x : Nat) : Native := tabGet 0 s.mem.rld (rldKey b x)

/-- The raw word that stands in the memory at x. -/
def rldRaw (s : State) (b x : Nat) : Nat :=
  rawOf (rldWord s b x).toNat (rldU x) ^^^ (tabGet 0 s.mem.rldFlip (rldKey b x)).toNat

/-- Write a whole word with valid check bits; an error it held is cleared (R860). -/
def rldPut (b x : Nat) (v : Native) (s : State) : State :=
  modMem (fun m => { m with
    rld := tabSet 0 m.rld (rldKey b x) v, rldFlip := tabSet 0 m.rldFlip (rldKey b x) 0 }) s

/-- Stored bits of a bay are upset. -/
def rldUpset (l : List (Nat × BitVec 80)) (s : State) : State :=
  forEach l (fun e s => modMem (fun m => { m with
    rldFlip := tabMod 0 m.rldFlip (e.1 % 2 ^ 32) (fun f => f ^^^ e.2) }) s) s

/-! ### Row disturbance (R492-R495) -/

/-- The RDCFG word in force on a channel (R496). -/
def rdcfgNow (s : State) (c : Nat) : Nat := (mchOf s c).rdcfg.getD 0x20001040

/-- The bank's tracker after an activation, and the row's estimate (R492). -/
def trackRow (l : List (Nat × Nat)) (row : Nat) : List (Nat × Nat) × Nat :=
  match l.find? (fun e => e.1 == row) with
  | some (_, n) => (l.map (fun e => if e.1 == row then (row, n + 1) else e), n + 1)
  | none =>
    if l.length < 64 then (l ++ [(row, 1)], 1)
    else
      let low := l.foldl (fun m e => min m e.2) ((l.head?.map Prod.snd).getD 0)
      let i := l.findIdx (fun e => e.2 == low)
      (l.set i (row, low + 1), low + 1)

/-- A throttle for a requester on a bank; a full table counts THRFULL (R495). -/
def throttle (c req bank : Nat) (s : State) : State :=
  let m := mchOf s c
  if m.throttles.any (fun t => t.req == req && t.bank == bank) then s
  else if m.throttles.length ≥ 32 then bump F.MCH_RDCNT_THRFULL s c
  else modMch c (fun m => { m with throttles := m.throttles ++ [⟨req, bank, s.now⟩] }) s

/-- A requester throttled on a bank waits until its gap has passed (R495). -/
def throttled (s : State) (c req bank : Nat) : Bool :=
  (mchOf s c).throttles.any fun t => t.req == req && t.bank == bank && decide (s.now < t.next)

/-- One activation by a requester (R492, R494, R495). -/
def activate (c u req : Nat) (s : State) : State :=
  let bank := bitsOf u 2 4
  let row := bitsOf u 12 16
  let (l, est) := trackRow (tabGet [] (mchOf s c).track bank) row
  let gap := bitsOf (rdcfgNow s c) 0 8 * 16
  let th := bitsOf (rdcfgNow s c) 16 16
  let s := modMch c (fun m => { m with
    track := tabSet [] m.track bank l
    throttles := m.throttles.map fun t => if t.req == req && t.bank == bank then { t with next := s.now + gap } else t }) s
  if est % th = 0 then
    let s := bump F.MCH_RDCNT_HITS s c
    let s := setRword .MCH_RDLAST c 0 0 (req * 2 ^ 24 + bank * 2 ^ 20 + row * 16) s
    report 0x0C 0 c req (throttle c req bank s)
  else s

/-! ### One RLD read (R480-R483) -/

/-- A corrected error is counted, captured and written back (R480). -/
def rldFix (c u b x : Nat) (v : Nat) (s : State) : State :=
  let s := setRword .MCH_CEADDR c 0 0 (u % 2 ^ 28) (bump F.MCH_ECC_CE (tally (16 + c) s) c)
  rldPut b x (BitVec.ofNat 72 v) s

/-- A raw read of the word at x with the interface's flips; `wrong` names the word that came back instead. -/
def rawRead (s : State) (c b x : Nat) (wrong : Option (BitVec 28)) (flip : BitVec 80) : Nat :=
  (match wrong with
   | some u => rldRaw s b (rldX c u.toNat)
   | none => rldRaw s b x) ^^^ flip.toNat

/-- Whether a syndrome is a corrected one. -/
def synFixed (k : SynKind) : Bool :=
  match k with
  | .check => true
  | .bit _ => true
  | _ => false

/-- A read that ends in a corrected or clean word: a corrected one is counted and written back (R480). -/
def rldGot (c u b x raw : Nat) (s : State) : State :=
  if synFixed (synKind (syndrome raw u)) then rldFix c u b x ((corrected raw u).getD 0) s else s

/-- Command parity: one error is retried, a second is uncorrectable (R483). Answers whether the command is lost. -/
def capRetry (c : Nat) (e : RldErr) (s : State) : State × Bool :=
  if e.capErrs = 0 then (s, false) else (bump F.MCH_PAR_CAPRETRY s c, decide (e.capErrs.val ≥ 2))

/-- What the correction table makes of a word as first read and as reread (R480): the word, or the loss of the bay. `o1` and
`o2` are what the two raw words correct to. -/
def rldJudge (c u b x req raw raw2 wheld rref : Nat) (o1 o2 : Option Nat) (s : State) : MemRes × State :=
  let syn := syndrome raw u
  match o1 with
  | some v => (.ok (BitVec.ofNat 72 v), rldGot c u b x raw s)
  | none =>
    if synKind syn = .address then (.err .unmapped, bayFreeze c 3 u req syn 0 raw wheld rref s)
    else
      match o2 with
      | some v => (.ok (BitVec.ofNat 72 v), rldGot c u b x raw2 (bump F.MCH_ECC_RETRYOK s c))
      | none => (.err .unmapped, bayFreeze c 1 u req syn (syndrome raw2 u) raw wheld rref s)

/-- A read of word x of a READY bay once its row is open. `wheld` and `rref` are what a freeze by it captures. -/
def rldReadAt (b x req wheld rref : Nat) (e : RldErr) (s : State) : MemRes × State :=
  let c := rldCh b x
  let u := rldU x
  let (s, lost) := capRetry c e s
  if lost then (.err .unmapped, bayFreeze c 2 u req 0 0 0 wheld rref s)
  else
    let raw := rawRead s c b x e.wrong e.first
    let raw2 := rawRead s c b x e.wrong e.second
    rldJudge c u b x req raw raw2 wheld rref (corrected raw u) (corrected raw2 u) s

/-- A read of word x of a READY bay for a requester, one activation of its row. -/
def rldRead (b x req wheld rref : Nat) (e : RldErr) (s : State) : MemRes × State :=
  rldReadAt b x req wheld rref e (activate (rldCh b x) (rldU x) req s)

/-- The part of a word that an access of `n` bits at byte offset `o` covers, as a mask. -/
def partMask (n o : Nat) : Nat := if n ≥ 72 then 2 ^ 72 - 1 else (2 ^ n - 1) * 2 ^ (8 * (o % 8))

/-- A word with a part replaced (R202, R470): 64 bits also write tag 0, 72 bits the whole word. -/
def mergePart (old : Native) (n o : Nat) (data : Native) : Native :=
  if n ≥ 72 then data
  else if n = 64 then BitVec.ofNat 72 (data.toNat % 2 ^ 64)
  else
    let m := partMask n o
    BitVec.ofNat 72 (old.toNat - (old.toNat &&& m) + (data.toNat % 2 ^ n) * 2 ^ (8 * (o % 8)))

/-- The part of a word that a read of `n` bits returns. -/
def readPart (w : Native) (n o : Nat) : Native :=
  if n ≥ 72 then w else BitVec.ofNat 72 (w.toNat / 2 ^ (8 * (o % 8)) % 2 ^ n)

/-- A write to a READY bay: a whole word needs no read (R860), a part is a read-modify-write (R470, R472). -/
def rldWrite (b o n req : Nat) (data : Native) (e : RldErr) (s : State) : MemRes × State :=
  let x := o / 8
  if n ≥ 64 then
    let (s, lost) := capRetry (rldCh b x) e (activate (rldCh b x) (rldU x) req s)
    if lost then (.err .unmapped, bayFreeze (rldCh b x) 2 (rldU x) req 0 0 0 1 0 s)
    else (.ok 0, rldPut b x (mergePart 0 n o data) s)
  else
    match rldRead b x req 1 0 e s with
    | (.ok w, s) => (.ok 0, rldPut b x (mergePart w n o data) s)
    | (r, s) => (r, s)

/-! ### Skein memory (R200-R204) -/

/-- The number of set bits. -/
def popcount : Nat → Nat → Nat
  | 0, _ => 0
  | n + 1, v => v % 2 + popcount n (v / 2)

/-- The key of a skein-memory word. -/
def skmKey (k w : Nat) : Nat := k * 2 ^ 19 + w % 2 ^ 19

/-- Write a whole word with valid check bits (R860). -/
def skmPut (k w : Nat) (v : Native) (s : State) : State :=
  modMem (fun m => { m with
    skm := tabSet 0 m.skm (skmKey k w) v, skmFlip := tabSet 0 m.skmFlip (skmKey k w) 0 }) s

/-- Read a word: one upset bit is corrected and counted, more are uncorrectable, counted, captured and reported
(R203). -/
def skmRead (k w : Nat) (s : State) : MemRes × State :=
  let v := tabGet 0 s.mem.skm (skmKey k w)
  match popcount 72 (tabGet 0 s.mem.skmFlip (skmKey k w)).toNat with
  | 0 => (.ok v, s)
  | 1 => (.ok v, skmPut k w v (tally (416 + k) (bump F.SKN_MEMECC_CE s k)))
  | _ =>
    let s := setFld F.SKN_UEADDR_WORD (w % 2 ^ 19) (bump F.SKN_MEMECC_UE s k) k
    (.ue, report 0x06 0 (k * 2 ^ 19 + w % 2 ^ 19) 255 s)

/-- A write of `n` bits at a byte offset (R202, R203, R860). -/
def skmWrite (k o n : Nat) (data : Native) (s : State) : MemRes × State :=
  if n ≥ 64 then (.ok 0, skmPut k (o / 8) (mergePart 0 n o data) s)
  else
    match skmRead k (o / 8) s with
    | (.ok w, s) => (.ok 0, skmPut k (o / 8) (mergePart w n o data) s)
    | (r, s) => (r, s)

/-! ### Core SRAM and Boot ROM -/

/-- A byte of core SRAM; one that nothing has written reads 0 (DESIGN CHOICE, notes/assumptions/4.md). -/
def sramByte (s : State) (o : Nat) : Byte := tabGet 0 s.mem.sram o

/-- Read `n` bytes, least significant first (R12). -/
def sramRead (s : State) : Nat → Nat → Nat
  | 0, _ => 0
  | n + 1, o => (sramByte s o).toNat + 256 * sramRead s n (o + 1)

/-- Write `n` bytes, least significant first. -/
def sramWrite : Nat → Nat → Nat → State → State
  | 0, _, _, s => s
  | n + 1, o, v, s =>
    sramWrite n (o + 1) (v / 256) (modMem (fun m => { m with sram := tabSet 0 m.sram o (BitVec.ofNat 8 v) }) s)

/-- Read `n` bytes of the Boot ROM, whose contents the manual does not give. -/
def romRead : Nat → Nat → Nat
  | 0, _ => 0
  | n + 1, o => (Config.bootRom o).toNat + 256 * romRead n (o + 1)

/-! ### Local store (R186-R192) -/

/-- The key of a local-store word. -/
def lsKey (n w : Nat) : Nat := n * 2 ^ 15 + w % 2 ^ 15

/-- Write a local-store word with valid check bits (R860). -/
def lsPut (n w : Nat) (v : Native) (s : State) : State :=
  modMem (fun m => { m with ls := tabSet 0 m.ls (lsKey n w) v, lsFlip := tabSet 0 m.lsFlip (lsKey n w) 0 }) s

/-- Read a local-store word (R192): a corrected error is counted, an uncorrectable one is counted and answered. -/
def lsRead (n w : Nat) (s : State) : Option Native × State :=
  let v := tabGet 0 s.mem.ls (lsKey n w)
  match popcount 72 (tabGet 0 s.mem.lsFlip (lsKey n w)).toNat with
  | 0 => (some v, s)
  | 1 => (some v, lsPut n w v (bump F.NDL_ECC_LSCE s n))
  | _ => (none, bump F.NDL_ECC_LSUE s n)

/-! ### Single accesses (R855) -/

/-- Refusals of a size by region and requester, for a read or a write (R855). -/
def sizeRefused (r : Region) (n a req : Nat) : Bool :=
  !sizeOk n a || (n ≥ 72 && !(carriesTag req)) || (match r with | .rom _ => n ≥ 72 | _ => false)

/-- The part of the word that a memory returns which a read of `n` bits at byte offset `o` asks for. -/
def partOf (n o : Nat) (x : MemRes × State) : MemRes × State :=
  match x with
  | (.ok w, s) => (.ok (readPart w n o), s)
  | x => x

/-- A read of `n` bits in a memory region other than control space and the PCIe windows. -/
def memRead (req a n : Nat) (e : RldErr) (s : State) : MemRes × State :=
  match regionOf s a with
  | none => (.err .unmapped, s)
  | some r =>
    if sizeRefused r n a req then (.err .size, s)
    else
      match r with
      | .rom o => (.ok (BitVec.ofNat 72 (romRead (n / 8) o)), s)
      | .sram o => (.ok (BitVec.ofNat 72 (sramRead s (min n 64 / 8) o)), s)
      | .skm k o => partOf n o (skmRead k (o / 8) s)
      | .rld b o => partOf n o (rldRead b (o / 8) req 0 1 e s)
      | _ => (.err .unmapped, s)

/-- A write of `n` bits in a memory region other than control space and the PCIe windows. -/
def memWrite (req a n : Nat) (data : Native) (e : RldErr) (s : State) : MemRes × State :=
  match regionOf s a with
  | none => (.err .unmapped, s)
  | some (.rom _) => (.err .unmapped, s)
  | some r =>
    if sizeRefused r n a req then (.err .size, s)
    else
      match r with
      | .sram o => (.ok 0, sramWrite (min n 64 / 8) o data.toNat s)
      | .skm k o => skmWrite k o n data s
      | .rld b o => rldWrite b o n req data e s
      | _ => (.err .unmapped, s)

/-- A refused access is a bus error of its requester (R81); a memory error is not. -/
def accErr (req a : Nat) (write : Bool) (x : MemRes × State) : MemRes × State :=
  match x with
  | (.err c, s) => (.err c, busError req a write c s)
  | x => x

/-- Read native words from rising addresses, stopping at the first that fails. -/
def readWords (req n : Nat) : Nat → Nat → State → (List Native × Option MemRes) × State
  | 0, _, s => (([], none), s)
  | k + 1, a, s =>
    match accErr req a false (memRead req a n .none s) with
    | (.ok v, s) =>
      (match readWords req n k (a + 8) s with
       | ((l, r), s) => ((v :: l, r), s))
    | (r, s) => (([], some r), s)

/-- Write native words to rising addresses, stopping at the first that fails. -/
def writeWords (req n : Nat) : List Native → Nat → State → Option MemRes × State
  | [], _, s => (none, s)
  | v :: l, a, s =>
    match accErr req a true (memWrite req a n v .none s) with
    | (.ok _, s) => writeWords req n l (a + 8) s
    | (r, s) => (some r, s)

/-- Bytes of native payload words, 8 each. -/
def wordBytes (l : List Native) : List Nat := l.flatMap fun v => leBytes 8 v.toNat

/-- Payload words of bytes, padded with zeros; the tag is 0. -/
def bytesWords : Nat → List Nat → List Native
  | 0, _ => []
  | n + 1, l => BitVec.ofNat 72 (leNat (l.take 8)) :: bytesWords n (l.drop 8)

/-- Read bytes at an 8-aligned address. -/
def readBytes (req n a : Nat) (s : State) : Option (List Nat) × State :=
  match readWords req 64 ((n + 7) / 8) a s with
  | ((l, none), s) => (some ((wordBytes l).take n), s)
  | ((_, some _), s) => (none, s)

/-- Write bytes at an 8-aligned address, the last word padded with zeros; answers whether all words were taken. -/
def writeBytes (req : Nat) (l : List Nat) (a : Nat) (s : State) : Bool × State :=
  match writeWords req 64 (bytesWords ((l.length + 7) / 8) l) a s with
  | (r, s) => (r.isNone, s)

end Sys2Proof.Machine
end

