-- ==== Sys2Proof/Machine/Images.lean ====
section
/-! DEFINITION. Keys, image headers and the checks of an image (spec/19 R744-R750, R753-R756). -/

namespace Sys2Proof.Machine

/-- A digest as bytes, first byte first. -/
def digestBytes (d : BitVec 384) : List Nat := (leBytes 48 d.toNat).reverse

/-- SHA-384 as bytes. -/
def shaBytes (b : List Nat) : List Nat := digestBytes (Config.sha384 b)

/-- KEYID: the first 8 bytes of the SHA-384 of a public point (R744). -/
def keyIdOf (pub : List Nat) : List Nat := (shaBytes pub).take 8

/-- The Lerore image key in force (R748). -/
def leroreKey (s : State) : List Nat := if s.sec.krev then Config.reservePub else Config.primaryPub

/-- The key that checks pattern descriptors: the owner's, or the primary Lerore key before a claim (R747). -/
def patternKey (s : State) : List Nat := s.sec.owner.getD Config.primaryPub

/-- The signature block of a signed object and what it covers. -/
def sigBlock (b : List Nat) : List Nat × List Nat := (b.take (b.length - 128), b.drop (b.length - 128))

/-- r and s of a signature block verify over a byte string. -/
def sigVerifies (pub msg block : List Nat) : Bool := Config.ecdsaOk pub (Config.sha384 msg) (block.drop 32)

/-- A signature block names a key. -/
def sigNames (pub block : List Nat) : Bool := block.take 8 == keyIdOf pub

/-- The largest LENGTH of an image type; none for an unknown type. The 256 B of CLAIM and UNLOCK bound the payload, beside
the header and the signature block of 128 bytes each (DEDUCED, notes/assumptions/22.md). -/
def imageMax (t : Nat) : Option Nat :=
  if t = 1 then some 0x400000 else if t = 2 || t = 3 then some 0x40000000
  else if 4 ≤ t && t ≤ 6 then some 0x40000 else if t = 7 || t = 8 then some 512 else none

/-- The SIGNER that a type requires; UNLOCK allows both. -/
def signerOk (t sg : Nat) : Bool :=
  if t = 3 || t = 5 || t = 7 then sg == 1 else if t = 8 then sg ≤ 1 else sg == 0

/-- Fields that hold 0 for a type: RBK, BASEREV, LOADADDR and ENTRY of the types without them, and the reserved bytes. -/
def imageZeros (t : Nat) (h : List Nat) : Bool :=
  (t = 1 || t = 2 || dLe h 0x0C 1 == 0) && dLe h 0x0C 1 ≤ 64 && (t = 5 || dLe h 0x14 2 == 0) && dLe h 0x16 2 == 0 &&
    ((1 ≤ t && t ≤ 3) || (dLe h 0x18 8 == 0 && dLe h 0x20 8 == 0)) && dLe h 0x58 40 == 0

/-- Check 2: the structure of an image header (R749). -/
def imageStruct (h : List Nat) : Bool :=
  let t := dLe h 4 1
  let len := dLe h 8 4
  dLe h 0 4 == 0x474D5154 && dLe h 6 2 == 1 && signerOk t (dLe h 5 1) && imageZeros t h && len % 64 == 0 && 256 ≤ len &&
    (match imageMax t with | some m => decide (len ≤ m) | none => false)

/-- Check 3: FAMILY, PART and CLMIN (R749). -/
def imageTarget (h : List Nat) : Bool :=
  dLe h 0x0E 2 == 0x07AB && (dLe h 0x10 2 == 0x9872 || dLe h 0x10 2 == 0xFFFF) &&
    decide (dLe h 0x0D 1 ≤ Config.clevel.toNat)

/-- The key that an image's type and the fuses require (R746-R748, R763); none before the owner slot is claimed. A CLAIM
image is signed by the key it carries. -/
def imageKey (s : State) (b : List Nat) : Option (List Nat) :=
  if dLe b 4 1 = 7 then some ((b.drop 128).take 97)
  else if dLe b 5 1 = 0 then some (leroreKey s)
  else s.sec.owner

/-- The payload of an image. -/
def imagePayload (b : List Nat) : List Nat := (b.take (b.length - 128)).drop 128

/-- The sections of a LIB payload: nano entries, micro section, export table, factory seeds (R753). -/
def libSection (p : List Nat) (i : Nat) : List Nat := (p.drop (dLe p (8 * i) 4)).take (dLe p (8 * i + 4) 4)

/-- Two spans that do not overlap. -/
def apart (a la b lb : Nat) : Bool := decide (a + la ≤ b) || decide (b + lb ≤ a) || la == 0 || lb == 0

/-- A LIB payload has its four sections, apart and of legal size (R753). -/
def libOk (p : List Nat) : Bool :=
  let o (i : Nat) : Nat := dLe p (8 * i) 4
  let l (i : Nat) : Nat := dLe p (8 * i + 4) 4
  let all := [0, 1, 2, 3]
  l 0 == 768 * 12 && decide (l 1 ≤ 2048 * 9) && l 1 % 9 == 0 &&
    all.all (fun i => decide (32 ≤ o i) && decide (o i + l i ≤ p.length)) &&
    all.all (fun i => all.all fun j => i == j || apart (o i) (l i) (o j) (l j))

/-- The SCOPE byte of an UNLOCK payload. -/
def unlockScope (p : List Nat) : Nat := dLe p 64 1

/-- An UNLOCK payload is the challenge held, a SCOPE byte that its signer may grant, and zeros (R763, R764). -/
def unlockOk (s : State) (signer : Nat) (p : List Nat) : Bool :=
  let c := unlockScope p
  (match s.sec.challenge with | some x => p.take 64 == x | none => false) && decide (65 ≤ p.length) &&
    (p.drop 65).all (· == 0) && decide (c < 16) &&
    (if signer = 1 then decide (c < 8) else s.sec.owner.isNone || c % 8 == 0)

/-- Check 8: the conditions of a type (R746, R753, R756, R759). -/
def imageType (s : State) (b : List Nat) : Bool :=
  let p := imagePayload b
  let sram (a : Nat) : Bool := decide (0x10000000 ≤ a) && decide (a < 0x10800000)
  let rld (a : Nat) : Bool := decide (0x100000000000 ≤ a) && decide (a < 0x100800000000)
  match dLe b 4 1 with
  | 1 => sram (dLe b 0x18 8) && sram (dLe b 0x20 8) && decide (dLe b 0x18 8 + p.length ≤ 0x10800000)
  | 2 => rld (dLe b 0x18 8) && rld (dLe b 0x20 8)
  | 4 => libOk p
  | 5 => p.length ≥ 256 * 12
  | 6 => dLe p 0 4 == 0x51455154 && decide (dLe p 4 2 ≥ s.sec.equivRev) && decide (64 + 32 * dLe p 6 2 ≤ p.length)
  | 7 => s.sec.owner.isNone
  | 8 => unlockOk s (dLe b 5 1) p
  | _ => true

/-- The checks of R749 from STRUCT on, over an image that has been read: RESULT, 0 when all pass. -/
def imageChecks (s : State) (b : List Nat) : Nat :=
  let x := sigBlock b
  let t := dLe b 4 1
  if !imageStruct (b.take 128) then 1
  else if !imageTarget b then 2
  else
    match imageKey s b with
    | none => 3
    | some pub =>
      if !sigNames pub x.2 then 3
      else if shaBytes (imagePayload b) != (b.drop 0x28).take 48 then 4
      else if !sigVerifies pub x.1 x.2 then 5
      else if (t = 1 || t = 2) && dLe b 0x0C 1 < s.sec.rbcnt then 6
      else if imageType s b then 0 else 7

/-- Read an image from memory as requester 235: its bytes, or none when they cannot be read (R749, check 1). The header is
read first; the rest only when the header is sound. -/
def readImage (addr : Nat) (s : State) : Option (List Nat) × State :=
  match readBytes 235 128 addr s with
  | (none, s) => (none, s)
  | (some h, s) => if imageStruct h then readBytes 235 (dLe h 8 4) addr s else (some h, s)

/-- The entry of the library store for a revision (R754). -/
def libOf (s : State) (rev : Nat) : Option LibEntry := s.sec.store.find? fun e => e.rev == rev

/-- Entries of the library store whose revision no bank holds are freed (R754). -/
def storeSettle (s : State) : State :=
  let heldBy (rev : Nat) : Bool := s.bank.any fun e => decide (e.2.st ≠ .empty) && e.2.librev == rev
  { s with sec := { s.sec with store := s.sec.store.filter fun e => heldBy e.rev } }

end Sys2Proof.Machine
end

