-- ==== Sys2Proof/Machine/Interrupts.lean ====
section
/-! DEFINITION. The interrupt controller's commands: arrivals, hold-off, claim and complete, software interrupts, and
the loss of a core's context (spec/17 R673-R689). -/

namespace Sys2Proof.Machine

/-- A source that some event raises (R673; the reserved sources of R742, R805 and spec/21 are never raised). -/
def srcExists (n : Nat) : Bool :=
  decide (1 ≤ n) && decide (n ≤ 802) && !(decide (762 ≤ n) && decide (n ≤ 770)) &&
    !(decide (776 ≤ n) && decide (n ≤ 786)) && !(decide (789 ≤ n) && decide (n ≤ 794)) && !decide (n ≥ 800)

/-- INTERRUPT_ARRIVAL (R674, R677). -/
def execInterruptArrival (src : Fin 1024) (s : State) : Out :=
  .next (if srcExists src.val then raise src.val s else s)

/-- A group opens: its wakes and the lines that follow (R677, R687). -/
def openGroup (g : Nat) (s : State) : State :=
  let s := modGroup g (fun x => { x with st := .open }) s
  ictSettle (doWakes (groupWakes s g) s)

/-- GROUP_HOLD_EXPIRE (R677). -/
def execGroupHoldExpire (group : Fin 64) (s : State) : Out :=
  let x := groupOf s group.val
  if decide (x.st = .held) && decide (s.now ≥ x.heldAt + x.hold * 1000) then .next (openGroup group.val s) else .next s

/-- The deliverable source of a core with the highest PRI, the lowest number on a tie (R680). -/
def claimable (s : State) (c : Nat) : Option Nat :=
  let l := (List.range 1024).filter fun n => decide ((srcOf s n).core = c) && deliverable s n
  let top := l.foldl (fun m n => max m (srcOf s n).pri) 0
  l.find? fun n => (srcOf s n).pri == top

/-- A group none of whose sources is pending returns to IDLE (R677). -/
def groupSettle (g : Nat) (s : State) : State :=
  if s.ict.srcs.any fun e => e.2.pend && e.2.group == g then s else modGroup g (fun _ => .reset) s

/-- Popped thresholds due at a cycle, or all of them, come into effect (R682). -/
def restoreDue (c now : Nat) (all : Bool) (s : State) : State :=
  modCtx c (fun x =>
    let due := x.restores.filter fun r => all || decide (r.1 ≤ now)
    let thr := match due.getLast? with | some r => r.2 | none => x.thr
    { x with thr := thr, restores := x.restores.filter fun r => !(all || decide (r.1 ≤ now)) }) s

/-- The claim of a source (R680): pending bit cleared, threshold pushed and raised. A popped threshold not yet in effect
is what the claim pushes (notes/assumptions/17.md). -/
def claimSrc (c n : Nat) (s : State) : State :=
  let pri := (srcOf s n).pri
  let g := (srcOf s n).group
  let s := groupSettle g (modSrc n (fun x => { x with pend := false, stranded := false }) s)
  let s := restoreDue c s.now true s
  ictSettle (modCtx c (fun x => { x with claims := (n, x.thr) :: x.claims, thr := some pri }) s)

/-- A read of ICT_CTXn_CLAIM: only the context's own core claims (R680, R683, R684). -/
def claimServe (req c : Nat) (s : State) : State :=
  if req ≠ 128 + c then answer req 0 s
  else
    match claimable s c with
    | some n => answer req n (claimSrc c n s)
    | none => answer req 0 s

/-- CLAIM (R680). -/
def execIctClaim (req : Req) (ctx : Fin 8) (s : State) : Out :=
  .next (readServed .ICT_CTX_CLAIM 0 ctx.val req (claimServe req.val ctx.val) s)

/-- COMPLETE of a source (R682). -/
def completeSrc (c n : Nat) (s : State) : State :=
  match (ctxOf s c).claims with
  | (m, t) :: rest =>
    if m = n then modCtx c (fun x => { x with claims := rest, restores := x.restores ++ [(s.now + 4, t)] }) s
    else bump F.ICT_CNT_BADCOMP s
  | [] => bump F.ICT_CNT_BADCOMP s

/-- What a commit of ICT_CTXn_COMPLETE performs (R682, R683). -/
def completeEffect (req c : Nat) (v : List Nat) (s : State) : State :=
  if req = 128 + c then completeSrc c (valOf v F.ICT_CTX_COMPLETE_SRC) s else s

/-- COMPLETE (R682). -/
def execIctComplete (req : Req) (ctx : Fin 8) (src : BitVec 10) (s : State) : Out :=
  .next (regCommit .ICT_CTX_COMPLETE 0 ctx.val ⟨req, .normal, BitVec.ofNat 32 src.toNat⟩ neverBusy anyOk
    (completeEffect req.val ctx.val) s)

/-- THRESHOLD_RESTORE: four cycles after a COMPLETE; the line follows at once (R682). -/
def execThresholdRestore (ctx : Fin 8) (s : State) : Out :=
  let c := ctx.val
  .next (settleCtx 0 c (restoreDue c s.now false s))

/-- ICT_SWI raises SWIn for each bit (R676). -/
def swiEffect (v : List Nat) (s : State) : State :=
  forEach ((List.range 8).filter fun n => bitAt (valOf v F.ICT_SWI_RAISE) n) (fun n s => raise (731 + n) s) s

/-- ICT_SWI_WRITE (R676). -/
def execIctSwiWrite (a : Acc) (s : State) : Out :=
  .next (regCommit .ICT_SWI 0 0 a neverBusy anyOk swiEffect s)

/-- A commit of ICT_SCFG: the source's routing; lines follow (R675). -/
def ictScfgEffect (v : List Nat) (s : State) : State :=
  let n := valOf v F.ICT_SCFG_INDEX
  let old := (srcOf s n).group
  let s := modSrc n (fun x => { x with
    pri := valOf v F.ICT_SCFG_PRI, core := valOf v F.ICT_SCFG_CORE, group := valOf v F.ICT_SCFG_GROUP }) s
  ictSettle (groupSettle old s)

/-- Sources that a commit of ICT_SCFG may name. -/
def ictScfgOk (v : List Nat) : Bool :=
  let n := valOf v F.ICT_SCFG_INDEX
  decide (1 ≤ n) && decide (n ≤ 802)

/-- The wake requests held while GDIS was set (R684). -/
def ictCtrlEffect (v : List Nat) (s : State) : State :=
  let s :=
    if valOf v F.ICT_CTRL_GDIS = 0 then
      let l := s.ict.heldWakes
      doWakes l { s with ict := { s.ict with heldWakes := [] } }
    else s
  ictSettle s

/-- Two enabled entries that name one source are a reserved value (ICT_WAKE). -/
def ictWakeOk (s : State) (w : Nat) (v : List Nat) : Bool :=
  valOf v F.ICT_WAKE_EN == 0 ||
    !((List.range 64).any fun u =>
      decide (u ≠ w) && flag s F.ICT_WAKE_EN 0 u && fld s F.ICT_WAKE_SRC 0 u == valOf v F.ICT_WAKE_SRC)

/-- A core's domain goes down: its stack empties (R685). -/
def ctxLost (c : Nat) (s : State) : State := modCtx c (fun _ => .reset) s

end Sys2Proof.Machine
end

