-- ==== Sys2Proof/Machine/Rck.lean ====
section
/-! DEFINITION. The raster clock: PTP domains, the servo between its bounds, the format, scheduler slots, PHASE pins and
timing inputs (spec/03). -/

namespace Sys2Proof.Machine

/-! ### Sources -/

/-- A PTP domain's state. -/
def ptpOf (s : State) (d : Nat) : Ptp := tabGet .reset s.ptp d

/-- Change a PTP domain. -/
def modPtp (d : Nat) (f : Ptp → Ptp) (s : State) : State := { s with ptp := tabMod .reset s.ptp d f }

/-- Change the raster clock. -/
def modRck (f : Rck → Rck) (s : State) : State := { s with rck := f s.rck }

/-- An Ethernet port's link state. -/
def ethOf (s : State) (p : Nat) : EthPort := tabGet .reset s.eth p

/-- A port is a non-lead member of an enabled gang (R552). -/
def gangMember (s : State) (p : Nat) : Bool :=
  p % 4 != 0 && flag s F.ETH_CFG_GANG (p / 4 * 4) && flag s F.ETH_CFG_EN (p / 4 * 4)

/-- A port is enabled, its link is up and it is not a gang's member (R91, R556). -/
def portUsable (s : State) (p : Nat) : Bool := flag s F.ETH_CFG_EN p && (ethOf s p).link && !gangMember s p

/-- The availability of a source coded as RCK_CTRL.SRC; the Stitch source serves a worker only (R90). -/
def srcAvail (s : State) (n : Nat) : Bool :=
  if n = 2 then isWorker s && s.rck.sthAvail else (ptpOf s n).avail

/-- Change STATE and SEL of the servo, raising RCKSTATE on a change. -/
def setServo (st : Servo) (sel : Nat) (s : State) : State :=
  let changed := decide (s.rck.servo ≠ st) || decide (s.rck.sel ≠ sel)
  let s := modRck (fun r => { r with servo := st, sel := sel, within10 := 0, beyond40 := 0 }) s
  if changed then raise 705 s else s

/-- The source the clock prefers among those available: `first` when given, then PREF, the other domain, Stitch. -/
def pickSource (s : State) (first : Nat) : Option Nat :=
  let pref := fld s F.RCK_CTRL_PREF
  [first, pref, 1 - pref, 2].find? (srcAvail s)

/-- No usable source (R94): hold after the step, else FREE; HOLDOVER from ARMED or RUN, HELD in DEGRADED. -/
def enterHold (s : State) : State :=
  if s.rck.stepped then
    let s := modRck (fun r => { r with holdAt := s.now }) (setServo .hold s.rck.sel s)
    match s.pwr.mode with
    | .armed | .run => setMode .holdover 3 s
    | .degraded => { s with pwr := { s.pwr with held := true } }
    | _ => s
  else setServo .free s.rck.sel s

/-- The source in use has become unavailable (R93, R94). -/
def sourceLost (n : Nat) (s : State) : State :=
  if s.rck.sel = n || s.rck.servo = .free || s.rck.servo = .hold then
    match pickSource s (if n = 2 then fld s F.RCK_CTRL_PREF else 1 - n) with
    | some m => if s.rck.sel = n then setServo s.rck.servo m s else s
    | none => if s.rck.servo = .free || s.rck.servo = .hold then s else enterHold s
  else s

/-- The return of time in HOLD (R95): the source is selected, PREF first, and PWR leaves HOLDOVER or clears HELD. -/
def timeReturn (n : Nat) (s : State) : State :=
  let s := setServo .slew ((pickSource s (fld s F.RCK_CTRL_PREF)).getD n) s
  match s.pwr.mode with
  | .holdover => if anyRunning s then setMode .run 4 s else setMode .armed 4 s
  | .degraded => { s with pwr := { s.pwr with held := false } }
  | _ => s

/-- A source has become available: ACQUIRE from FREE (R94, servo table), or the return of time from HOLD (R95). -/
def sourceGained (n : Nat) (s : State) : State :=
  match s.rck.servo with
  | .free => setServo .acquire ((pickSource s (fld s F.RCK_CTRL_SRC)).getD n) s
  | .hold => timeReturn n s
  | _ => s

/-! ### The servo between its bounds (R98-R105) -/

/-- 1 ppm in units of 2⁻⁴⁰. -/
def ppm : Int := 1099511

/-- Confine a number to ±b. -/
def clampInt (b x : Int) : Int := if x > b then b else if x < -b then -b else x

/-- The next correction: a free value confined to ±1 ppm and to a change of 1 ppm per second since the last (R99). -/
def nextCorr (s : State) (filtered : Int) : Int :=
  let want := Config.freeInt 1 s.free [filtered, s.rck.corr]
  let room := ppm * ((s.now - s.rck.corrAt : Nat) : Int) / 1000000000
  clampInt ppm (s.rck.corr + clampInt room (want - s.rck.corr))

/-- The rate the clock applies (RCK_RATE). -/
def appliedRate (r : Rck) : Int := r.oscRate + r.corr

/-- The starting oscillator rate from the Ledger's record at the first known time (R105). -/
def startRate (s : State) (sec : Nat) : Int :=
  match s.rck.oscRec with
  | none => 0
  | some (rate, slope, at_) => clampInt (10 * ppm) (rate + slope * (((sec - at_) / 86400 : Nat) : Int))

/-- Realised time in whole ns. -/
def rtNs (s : State) : Int := ((s.rck.rt / nsUnit : Nat) : Int)

/-- Eight offsets agree within 1 µs (R98). -/
def agree8 (l : List Int) : Bool :=
  decide (l.length = 8) && l.all fun x => l.all fun y => decide (x - y ≤ 1000) && decide (y - x ≤ 1000)

/-! ### Scheduler positions (R112-R117) -/

/-- A slot. -/
def slotOf (s : State) (i : Nat) : Slot := tabGet .reset s.rck.slots i

/-- Change a slot. -/
def modSlot (i : Nat) (f : Slot → Slot) (s : State) : State :=
  modRck (fun r => { r with slots := tabMod .reset r.slots i f }) s

/-- Modes in which slots fire (R117). -/
def canFire (m : Mode) : Bool :=
  match m with
  | .armed | .run | .holdover | .degraded => true
  | _ => false

/-- The position total of a ONCE slot seen from the current frame: ahead for a distance below 2²³ frames, else behind
(R112). -/
def onceTotal (s : State) (x : Slot) : Int :=
  let c := totalNow s / frameTicks s
  let d : Nat := (x.frame + 2 ^ 24 - c % 2 ^ 24) % 2 ^ 24
  let f : Int := if d < 2 ^ 23 then (c : Int) + d else (c : Int) + d - 2 ^ 24
  f * frameTicks s + x.line * 4096 + x.tick

/-- The first position total of a REPEAT slot after a total (R113). -/
def repeatTotal (s : State) (x : Slot) (after : Nat) : Nat :=
  let ft := frameTicks s
  let off := x.line * 4096 + x.tick
  let f0 := if after / ft * ft + off > after then after / ft else after / ft + 1
  let p := x.n + 1
  let f := f0 + (x.frame % p + p - f0 % p) % p
  f * ft + off

/-- The next position total of an armed slot. -/
def slotTotal (s : State) (x : Slot) : Int := if x.mode = 0 then onceTotal s x else repeatTotal s x x.seen

/-- The launch advance of a slot in ns: PHASE pins launch ADV early (R124). -/
def slotAdv (s : State) (x : Slot) : Nat := if x.action = 2 then fld s F.RCK_PHCFG_ADV 0 x.target else 0

/-- The launch of a position total is reached. -/
def reached (s : State) (t : Int) (adv : Nat) : Bool := decide (t ≤ totalAt s (s.rck.rt + adv * nsUnit))

/-- The 2 µs lead of a position over a moment (R114, R124). -/
def leadOk (s : State) (t : Int) (rt adv : Nat) : Bool :=
  decide (t ≥ 0) && totalAfter s t.toNat rt (2000 + adv)

/-- An occurrence that does not fire (R114): counted, RCKMISS, and a ONCE slot disarmed. -/
def missSlot (i : Nat) (t : Int) (s : State) : State :=
  let s := modSlot i (fun x => { x with missed := true, arm := x.arm && x.mode ≠ 0, seen := t.toNat }) s
  raise 707 (bump F.RCK_EVCNT_MISSED s)

/-- A ONCE slot that has already passed is handled at once (R112, R117). -/
def missIfPassed (i : Nat) (s : State) : State :=
  let x := slotOf s i
  if rasterValid s && x.arm && decide (x.mode = 0) && decide (onceTotal s x ≤ totalNow s) then
    missSlot i (onceTotal s x) s
  else s

/-- When raster time becomes valid: slots restart from the present position, passed ONCE slots are missed (R117). -/
def slotsRestart (s : State) : State :=
  if rasterValid s then
    let t := totalNow s
    let s := modRck (fun r => { r with slots := r.slots.map fun (i, x) => (i, { x with seen := t, commitRt := 0 }) }) s
    forEach (s.rck.slots.map Prod.fst) missIfPassed s
  else s

/-- Previous contents less than 2 µs before a position are spared for that firing (R115). -/
def spareOld (i : Nat) (s : State) : State :=
  let x := slotOf s i
  let t := slotTotal s x
  let adv := slotAdv s x
  if rasterValid s && x.arm && decide (t > (x.seen : Int)) && !reached s t adv && !leadOk s t s.rck.rt adv &&
      (tabFind s.rck.spared i).isNone then
    modRck (fun r => { r with spared := tabInsert (tabErase r.spared i) i ⟨x, t.toNat⟩ }) s
  else s

/-- A disarming commit of a slot (R115). -/
def disarmSlot (i : Nat) (s : State) : State := modSlot i (fun x => { x with arm := false }) (spareOld i s)

/-! ### Slot commits (R118, R120, R149, R151) -/

/-- A control word of a LANEWORD slot or LANE_TXW is of a defined type and holds no reserved value (R149, R151). -/
def laneWordOk (p : Nat) : Bool :=
  match bitsOf p 56 8 with
  | 0xC1 => (bitsOf p 36 4 == 1 || bitsOf p 36 4 == 2) && bitsOf p 0 36 == 0
  | 0xC2 => bitsOf p 16 4 < 2 && bitsOf p 0 16 == 0
  | 0xC3 => bitsOf p 0 31 == 0
  | 0xC4 => ((1 ≤ bitsOf p 48 8 && bitsOf p 48 8 ≤ 3) || 0x80 ≤ bitsOf p 48 8) && bitsOf p 0 8 == 0
  | _ => false

/-- A slot's payload is defined for its action (R118, R120). -/
def payloadOk (action p : Nat) : Bool :=
  match action with
  | 1 => laneWordOk p
  | 2 => bitsOf p 2 14 == 0 && bitsOf p 32 32 == 0 && (bitsOf p 0 2 != 3 || bitsOf p 16 16 != 0)
  | 3 => true
  | 4 => bitsOf p 16 48 == 0
  | 5 | 6 | 7 => p == 0
  | _ => false

/-- A slot's target exists for its action (R120). -/
def targetOk (action t : Nat) : Bool :=
  match action with
  | 1 => t < 64
  | 2 => t < 16
  | 3 => t < 24
  | 4 => t < 16
  | 5 => true
  | 6 => t ≤ 64 || t == 255
  | 7 => t < 8
  | _ => false

/-- The reserved values of RCK_SLOT beyond its field table (R118). -/
def slotOk (s : State) (v : List Nat) : Bool :=
  if valOf v F.RCK_SLOT_ARM = 1 then
    let a := valOf v F.RCK_SLOT_ACTION
    decide (valOf v F.RCK_SLOT_LINE < fld s F.RCK_FMT_LINES) && targetOk a (valOf v F.RCK_SLOT_TARGET) &&
      payloadOk a (valOf v F.RCK_SLOT_PAY_LO + valOf v F.RCK_SLOT_PAY_HI * 2 ^ 32)
  else true

/-- An arming commit while FMTOK = 0 is refused with BUSY (R118). -/
def slotBusy (s : State) (v : List Nat) : Option Berr := busyIf (valOf v F.RCK_SLOT_ARM = 1 && !s.rck.fmtOk)

/-- The effect of a commit of RCK_SLOT (R109, R112, R115, R116, R118). -/
def slotCommit (v : List Nat) (s : State) : State :=
  let i := valOf v F.RCK_SLOT_INDEX
  let arm := valOf v F.RCK_SLOT_ARM = 1
  let s := spareOld i s
  let seen := if rasterValid s then totalNow s else 0
  let rt := if rasterValid s then s.rck.rt else 0
  let put (x : Slot) : Slot :=
    { pay := valOf v F.RCK_SLOT_PAY_LO + valOf v F.RCK_SLOT_PAY_HI * 2 ^ 32, line := valOf v F.RCK_SLOT_LINE
      tick := valOf v F.RCK_SLOT_TICK, frame := valOf v F.RCK_SLOT_FRAME, n := valOf v F.RCK_SLOT_N, arm := arm
      mode := valOf v F.RCK_SLOT_MODE, action := valOf v F.RCK_SLOT_ACTION, target := valOf v F.RCK_SLOT_TARGET
      fired := x.fired && !arm, missed := x.missed && !arm, commitRt := rt, seen := seen }
  let s := modSlot i put s
  if arm then missIfPassed i (modRck (fun r => { r with fmtChg := false }) s) else s

/-! ### Format (R108, R109) -/

/-- The limits of RCK_FMT (R108). -/
def fmtOkVals (v : List Nat) : Bool :=
  let num := valOf v F.RCK_FMT_NUM
  let den := if valOf v F.RCK_FMT_DEN1001 = 1 then 1001 else 1000
  let lines := valOf v F.RCK_FMT_LINES
  decide (num * lines ≤ 1200000 * den) && decide (valOf v F.RCK_FMT_OFS * num < den * 1000000000)

/-- RCK_FMT is refused with BUSY outside the modes of R109. -/
def fmtBusy (s : State) : Option Berr :=
  match s.pwr.mode with
  | .castOn | .standby | .armed | .service | .update => none
  | _ => some .busy

/-- The effect of a commit of RCK_FMT: every slot disarmed, none spared (R109). -/
def fmtCommit (s : State) : State :=
  modRck (fun r => { r with
    fmtOk := true, fmtChg := true, spared := []
    slots := r.slots.map fun (i, x) => (i, { x with arm := false, seen := 0 }) }) s

/-- An entry equal to the default leaves the table. -/
def tabNorm {α : Type} [DecidableEq α] (d : α) (m : Tab α) : Tab α := m.filter fun e => decide (e.2 ≠ d)

/-- RCK_FMT's whole commit effect, the slot table in canonical form. -/
def fmtEffect (s : State) : State :=
  modRck (fun r => { r with slots := tabNorm Slot.reset r.slots }) (fmtCommit s)

/-! ### PHASE pins (R122, R123) -/

/-- A PHASE pin's state. -/
def phaseOf (s : State) (n : Nat) : PhasePin := tabGet .reset s.rck.phase n

/-- Change a PHASE pin. -/
def modPhase (n : Nat) (f : PhasePin → PhasePin) (s : State) : State :=
  modRck (fun r => { r with phase := tabMod .reset r.phase n f }) s

/-- The level a pin stands at before high impedance is counted (R123). -/
def phaseLevel (s : State) (n : Nat) : Bool :=
  if (phaseOf s n).acted then (phaseOf s n).level else flag s F.RCK_PHCFG_INIT 0 n

/-- What the pin drives: none while high-impedance (R123). -/
def phaseDrive (s : State) (n : Nat) : Option Bool :=
  if domUp s 212 && flag s F.RCK_PHCFG_OE 0 n then some (phaseLevel s n) else none

/-- A PHASE action at a position total (R122). -/
def phaseAct (n pay t : Nat) (s : State) : State :=
  let cur := phaseLevel s n
  let back := match (phaseOf s n).pulse with | some (_, b) => b | none => cur
  match bitsOf pay 0 2 with
  | 0 => modPhase n (fun _ => ⟨false, true, none⟩) s
  | 1 => modPhase n (fun _ => ⟨true, true, none⟩) s
  | 2 => modPhase n (fun _ => ⟨!back, true, none⟩) s
  | _ => modPhase n (fun _ => ⟨!back, true, some (t + bitsOf pay 16 16, back)⟩) s

/-! ### Meanings: PTP domains -/

/-- A PTP message is valid for a domain: EN, number, transport, port and interval (R88, R89, R91). -/
def ptpValid (s : State) (d : Nat) (m : PtpMsg) : Bool :=
  baseUp s && domUp s 212 && flag s F.PTP_CFG_EN d && decide (m.number = fld s F.PTP_CFG_DOMAIN d) &&
    decide (m.port.val = fld s F.PTP_CFG_PORT d) && decide (fld s F.PTP_CFG_TRANSPORT d = b2n m.ipv6) &&
    portUsable s m.port.val && decide (-7 ≤ m.logInterval) && decide (m.logInterval ≤ 1)

/-- A domain counts a valid Sync interval toward availability (R92); a domain never lost is available once an Announce
and a Sync have been taken (DEDUCED, notes/assumptions/13.md). -/
def qualify (d : Nat) (s : State) : State :=
  let p := ptpOf s d
  if p.avail then s
  else if p.lost then
    if p.qualCount + 1 ≥ 16 then
      sourceGained d (modPtp d (fun p => { p with avail := true, lost := false, qualCount := 0 }) s)
    else modPtp d (fun p => { p with qualCount := p.qualCount + 1 }) s
  else if p.announced then sourceGained d (modPtp d (fun p => { p with avail := true }) s)
  else s

/-- The step of R98 on eight agreeing offsets. -/
def servoStep (ofs : Int) (s : State) : State :=
  let rt := ((s.rck.rt : Int) + ofs * nsUnit).toNat
  let start := startRate s (rt / nsUnit / 1000000000)
  let s := modRck (fun r => { r with
    rt := rt, stepped := true, agree := [], oscRate := start, corr := 0, corrAt := s.now, large := false }) s
  slotsRestart (setServo .slew s.rck.sel s)

/-- The offset measured at a Sync crosses beyond ±1 µs (R100). -/
def countLarge (ofs : Int) (s : State) : State :=
  let big := decide (ofs > 1000) || decide (ofs < -1000)
  let up := big && !s.rck.large
  let s := modRck (fun r => { r with large := big }) s
  if up then raise 706 (bump F.RCK_EVCNT_LARGE s) else s

/-- One Sync at the selected servo after the step: the filtered offset is a free value, the states follow it
(R99, R104, servo table). -/
def servoTrack (ofs : Int) (s : State) : State :=
  let s := countLarge ofs s
  let f := Config.freeInt 2 s.free [ofs, s.rck.filtered]
  let corr := nextCorr s f
  let in10 := decide (f ≤ 10) && decide (-10 ≤ f)
  let out40 := decide (f > 40) || decide (f < -40)
  let s := takeFree (modRck (fun r => { r with
    filtered := f, corr := corr, corrAt := s.now
    within10 := if in10 then r.within10 + 1 else 0, beyond40 := if out40 then r.beyond40 + 1 else 0 }) s)
  match s.rck.servo with
  | .slew => if s.rck.within10 ≥ 16 then setServo .locked s.rck.sel s else s
  | .locked => if s.rck.beyond40 ≥ 4 then setServo .slew s.rck.sel s else s
  | _ => s

/-- One Sync at the selected servo. -/
def servoSync (ofs : Int) (s : State) : State :=
  match s.rck.servo with
  | .acquire =>
    let s := modRck (fun r => { r with agree := (r.agree ++ [ofs]).drop (r.agree.length + 1 - 8) }) s
    if agree8 s.rck.agree then servoStep ofs s else s
  | .locked | .slew => servoTrack ofs s
  | _ => s

/-- PTP_SYNC_RECEIVE (R89, R92, R95, R98-R100). -/
def execPtpSyncReceive (dom : Fin 2) (m : PtpMsg) (s : State) : Out :=
  let d := dom.val
  if ptpValid s d m then
    let s := bumpWrap F.PTP_CNT_SYNC s d
    let ofs := m.time + (ptpOf s d).mpd - rtNs s
    let s := modPtp d (fun p => { p with ofs := ofs, lastSync := some (m.time, rtNs s) }) s
    let s := qualify d s
    .next (if s.rck.sel = d && (ptpOf s d).avail then servoSync ofs s else s)
  else .next s

/-- PTP_ANNOUNCE_RECEIVE (R89). -/
def execPtpAnnounceReceive (dom : Fin 2) (m : PtpMsg) (gm : DWord) (steps : BitVec 8) (tlv : Option (Int × Nat))
    (s : State) : Out :=
  let d := dom.val
  if ptpValid s d m then
    let s := setRword .PTP_GM d 0 0 (bitsOf gm.toNat 0 32) s
    let s := setRword .PTP_GM d 0 1 (bitsOf gm.toNat 32 32) s
    .next (modPtp d (fun p => { p with
      announced := true, gm := gm.toNat, steps := steps.toNat, smtlv := tlv.isSome
      tlvOffset := (tlv.map Prod.fst).getD p.tlvOffset, tlvJam := (tlv.map Prod.snd).getD p.tlvJam }) s)
  else .next s

/-- PTP_DELAY_RESP_RECEIVE (R89): the end-to-end mean path delay of IEEE 1588. -/
def execPtpDelayRespReceive (dom : Fin 2) (m : PtpMsg) (s : State) : Out :=
  let d := dom.val
  match (ptpOf s d).lastSync, (ptpOf s d).reqSent with
  | some (t1, t2), some t3 =>
    if ptpValid s d m then
      .next (modPtp d (fun p => { p with mpd := ((t2 - t1) + (m.time - t3)) / 2, reqSent := none }) s)
    else .next s
  | _, _ => .next s

/-- A domain becomes unavailable (R91): counted, and the clock's source switched or held (R93, R94). -/
def domainLost (d : Nat) (s : State) : State :=
  if (ptpOf s d).avail then
    let s := modPtp d (fun p => { p with avail := false, lost := true, qualCount := 0, lastSync := none, reqSent := none }) s
    sourceLost d (bump F.PTP_CNT_LOSS s d)
  else modPtp d (fun p => { p with qualCount := 0 }) s

/-- DOMAIN_UNAVAILABLE (R91, R93, R94). -/
def execDomainUnavailable (dom : Fin 2) (s : State) : Out := .next (domainLost dom.val s)

/-- What a commit of PTP_CFG does beside storing (R91); `old` is the state before it. -/
def ptpCfgEffect (d : Nat) (old : State) (s : State) : State :=
  let changed := decide (fld old F.PTP_CFG_PORT d ≠ fld s F.PTP_CFG_PORT d) ||
    decide (fld old F.PTP_CFG_DOMAIN d ≠ fld s F.PTP_CFG_DOMAIN d) ||
    decide (fld old F.PTP_CFG_TRANSPORT d ≠ fld s F.PTP_CFG_TRANSPORT d)
  if !flag s F.PTP_CFG_EN d then
    if flag old F.PTP_CFG_EN d then modPtp d (fun p => { p with announced := false }) (domainLost d s) else s
  else if changed then modPtp d (fun p => { p with qualCount := 0, lastSync := none, reqSent := none }) s
  else s

/-- PTP_CFG_COMMIT (R91). -/
def execPtpCfgCommit (dom : Fin 2) (a : Acc) (s : State) : Out :=
  .next (regCommit .PTP_CFG dom.val 0 a neverBusy anyOk (fun _ => ptpCfgEffect dom.val s) s)

/-! ### Meanings: clock control -/

/-- SRC = 0b10 is for a worker only (R90, RCK_CTRL). -/
def rckCtrlOk (s : State) (v : List Nat) : Bool := decide (valOf v F.RCK_CTRL_SRC ≠ 2) || isWorker s

/-- A write of SRC selects that source by rate alone when it is available (R93). -/
def rckCtrlEffect (v : List Nat) (s : State) : State :=
  let n := valOf v F.RCK_CTRL_SRC
  if srcAvail s n && decide (s.rck.servo ≠ .free) then setServo s.rck.servo n s else s

/-- RCK_CTRL_COMMIT (R93). -/
def execRckCtrlCommit (a : Acc) (s : State) : Out :=
  .next (regCommit .RCK_CTRL 0 0 a neverBusy (rckCtrlOk s) rckCtrlEffect s)

/-- REF10_VALID (R96). -/
def execRef10Valid (s : State) : Out := .next (if domUp s 212 then modRck (fun r => { r with ref10 := true }) s else s)

/-- REF10_LOSS (R96): the rate applied is carried over. -/
def execRef10Loss (s : State) : Out := .next (modRck (fun r => { r with ref10 := false }) s)

/-- The signed offset of a time from its nearest second, ns. -/
def nearestSecond (ns : Nat) : Int := if ns < 500000000 then (ns : Int) else (ns : Int) - 1000000000

/-- A signed number as a 32-bit field, saturating. -/
def signed32 (x : Int) : Nat := (clampInt (2 ^ 31 - 1) x % 2 ^ 32).toNat

/-- PPS_EDGE (R97): its offset from the nearest second of the selected domain; PPS_IN never steers. -/
def execPpsEdge (s : State) : Out :=
  .next (if domUp s 212 && timeRealised s then
    setRword .RCK_PPSOFS 0 0 0 (signed32 (nearestSecond (((rtNs s + (ptpOf s s.rck.sel).ofs) % 1000000000).toNat))) s
  else s)

/-- RCK_CMD OP STEP (R101): to ACQUIRE in STANDBY, refused in any other mode. -/
def rckStepOp (s : State) : State :=
  if s.pwr.mode = .standby then
    let s := modRck (fun r => { r with stepped := false, agree := [] }) (setFld F.RCK_CMDSTAT_RESULT 0 s)
    setServo (if (pickSource s s.rck.sel).isSome then .acquire else .free) s.rck.sel s
  else setFld F.RCK_CMDSTAT_RESULT 1 s

/-- RCK_CMD OP DISARM: a disarming commit to every slot (R115). -/
def rckDisarmOp (s : State) : State :=
  setFld F.RCK_CMDSTAT_RESULT 0 (forEach (s.rck.slots.map Prod.fst) disarmSlot s)

/-- What a commit of RCK_CMD performs. -/
def rckCmdEffect (v : List Nat) (s : State) : State :=
  if valOf v F.RCK_CMD_OP = 1 then rckStepOp s else rckDisarmOp s

/-- STEP (R101). -/
def execRckStep (req : Req) (s : State) : Out :=
  .next (regCommit .RCK_CMD 0 0 ⟨req, .normal, 1⟩ neverBusy anyOk rckCmdEffect s)

/-- DISARM (R115). -/
def execRckDisarm (req : Req) (s : State) : Out :=
  .next (regCommit .RCK_CMD 0 0 ⟨req, .normal, 2⟩ neverBusy anyOk rckCmdEffect s)

/-- RCK_FMT_COMMIT (R107-R109). -/
def execRckFmtCommit (a : Acc) (s : State) : Out :=
  .next (regCommit .RCK_FMT 0 0 a (fun _ => fmtBusy s) fmtOkVals (fun _ => fmtEffect) s)

/-- SLOT_ARM (R112, R114, R115, R118): word 4 written with ARM = 1. -/
def execSlotArm (a : Acc) (s : State) : Out :=
  .next (regCommit .RCK_SLOT 0 0 { a with win := .normal, data := a.data ||| 0x80000000 } (slotBusy s) (slotOk s)
    slotCommit s)

/-- SLOT_DISARM (R115): word 4 written with ARM = 0. -/
def execSlotDisarm (a : Acc) (s : State) : Out :=
  .next (regCommit .RCK_SLOT 0 0 { a with win := .normal, data := a.data &&& 0x7FFFFFFF } (slotBusy s) (slotOk s)
    slotCommit s)

/-- PHASE_PULSE_END (R122): once the width has passed, the pin returns to its level before. -/
def execPhasePulseEnd (pin : Fin 16) (s : State) : Out :=
  match (phaseOf s pin.val).pulse with
  | some (t, back) =>
    if reached s t (fld s F.RCK_PHCFG_ADV 0 pin.val) then .next (modPhase pin.val (fun _ => ⟨back, true, none⟩) s)
    else .next s
  | none => .next s

/-! ### Meanings: timing inputs -/

/-- The queue of a TIN input. -/
def tinOf (s : State) (n : Nat) : List TinEntry := tabGet [] s.rck.tin n

/-- Set the queue of a TIN input. -/
def setTin (n : Nat) (l : List TinEntry) (s : State) : State :=
  modRck (fun r => { r with tin := tabSet [] r.tin n l }) s

/-- TIN_EDGE (R125). -/
def execTinEdge (pin : Fin 4) (fall : Bool) (s : State) : Out :=
  let n := pin.val
  let sel := bitsOf (fld s F.RCK_TINCFG_EDGE) (2 * n) 2
  if !(domUp s 212) || !bitAt sel (if fall then 1 else 0) then .next s
  else
    let q := tinOf s n
    if q.length ≥ 8 then
      let ovf := fld s F.RCK_TINCFG_OVF
      .next (setFld F.RCK_TINCFG_OVF (setBits ovf (4 * n) 4 (satAdd (bitsOf ovf (4 * n) 4) 1 15)) s)
    else
      let p := posNow s
      let s' := setTin n (q ++ [⟨p.1, p.2.1, p.2.2, secNow s, nsNow s, fall⟩]) s
      .next (if q.isEmpty then raise (701 + n) s' else s')

/-- The six words of a TIN entry (RCK_TINn). -/
def tinWords (e : TinEntry) : List Nat :=
  [2 ^ 31 + e.line * 2 ^ 12 + e.tick, e.frame % 2 ^ 32, b2n e.fall * 2 ^ 31 + e.ns, e.sec % 2 ^ 32,
   e.frame / 2 ^ 32 % 2 ^ 8, e.sec / 2 ^ 32 % 2 ^ 16]

/-- A read of word 0 of RCK_TINn takes the oldest entry (R125). -/
def tinServe (req n : Nat) (s : State) : State :=
  match tinOf s n with
  | [] => answer req 0 (latchWords .RCK_TIN req 0 n [0, 0, 0, 0, 0, 0] s)
  | e :: t => answer req ((tinWords e).getD 0 0) (latchWords .RCK_TIN req 0 n (tinWords e) (setTin n t s))

/-- TIN_QUEUE_READ (R125): the oldest entry, or a word with VALID = 0. -/
def execTinQueueRead (req : Req) (pin : Fin 4) (s : State) : Out :=
  .next (readServed .RCK_TIN 0 pin.val req (tinServe req.val pin.val) s)

/-- The oscillator record of the present rate (R106, R811): its ageing slope is the clock's own estimate, a free
value. -/
def oscRecord (s : State) : LdgRec :=
  let slope := Config.freeInt 3 s.free [appliedRate s.rck]
  mkRec s 6 0 (leBytes 4 (signed32 (appliedRate s.rck)) ++ leBytes 4 (signed32 slope) ++ [(s.pwr.tj % 256).toNat])

/-- OSC_RECORD (R106): written every hour in LOCKED. -/
def execOscRecord (s : State) : Out :=
  .next (if s.rck.servo = .locked then takeFree (ldgPush (oscRecord s) s) else s)

end Sys2Proof.Machine
end

