-- ==== Sys2Proof/Machine/Stalls.lean ====
section
/-! DEFINITION. The Stalls: pools, handles, the four operations, quotas, revocation (spec/12). -/

namespace Sys2Proof.Machine

/-! ### Records -/

/-- STL_RES.RESULT codes. -/
inductive StlErr where
  | range | align | stale | owner | dfree | empty | quota | tickets | bayoff
  deriving DecidableEq, Repr

/-- The code of a result. -/
def StlErr.code : StlErr → Nat
  | .range => 1 | .align => 2 | .stale => 3 | .owner => 4 | .dfree => 5 | .empty => 6 | .quota => 7 | .tickets => 8
  | .bayoff => 9

/-- The key of a buffer record. -/
def bufKey (p i : Nat) : Nat := p * 2 ^ 18 + i

/-- A buffer record. -/
def bufOf (s : State) (p i : Nat) : Buf := tabGet .reset s.stl.bufs (bufKey p i)

/-- Change a buffer record. -/
def modBuf (p i : Nat) (f : Buf → Buf) (s : State) : State :=
  { s with stl := { s.stl with bufs := tabMod .reset s.stl.bufs (bufKey p i) f } }

/-- Buffers of a pool. -/
def poolCount (s : State) (p : Nat) : Nat := fld s F.STL_POOL_COUNTM1 0 p + 1

/-- log2 of a pool's buffer size. -/
def poolLog (s : State) (p : Nat) : Nat := fld s F.STL_POOL_LOG2SZ 0 p

/-- A pool is enabled. -/
def poolOn (s : State) (p : Nat) : Bool := flag s F.STL_POOL_EN 0 p

/-- A pool's bay is READY. -/
def poolReady (s : State) (p : Nat) : Bool := bayReady s (fld s F.STL_POOL_BAY 0 p)

/-- Units of 4 KiB that one buffer of a pool takes. -/
def poolUnits (s : State) (p : Nat) : Nat := 2 ^ (poolLog s p - 12)

/-- The records of a pool that differ from a fresh one. -/
def poolBufs (s : State) (p : Nat) : List (Nat × Buf) :=
  s.stl.bufs.filter fun e => decide (e.1 / 2 ^ 18 = p)

/-- Buffers of a pool that are held. -/
def poolHeld (s : State) (p : Nat) : Nat := ((poolBufs s p).filter fun e => e.2.held).length

/-- Buffers FREE (STL_PSTAT.FREEBUF). -/
def poolFree (s : State) (p : Nat) : Nat := if poolOn s p then poolCount s p - poolHeld s p else 0

/-- The physical address of a buffer (R506). -/
def bufAddr (s : State) (p i : Nat) : Nat :=
  0x100000000000 + fld s F.STL_POOL_BAY 0 p * 0x200000000 + fld s F.STL_POOL_BASE 0 p * 4096 + i * 2 ^ poolLog s p

/-- A handle (spec/12, handles and records). -/
def handleOf (p i g t : Nat) : Nat := p * 2 ^ 26 + i * 2 ^ 8 + g * 2 ^ 4 + t

/-- A requester's use in units of 4 KiB. -/
def useOf (s : State) (r : Nat) : Nat := tabGet 0 s.stl.use r

/-- Change a requester's use. -/
def modUse (r : Nat) (f : Nat → Nat) (s : State) : State :=
  { s with stl := { s.stl with use := tabMod 0 s.stl.use r f } }

/-- A buffer's reference count (R510). -/
def refCount (b : Buf) : Nat := b2n b.hold + (b.issued.filter fun e => !b.used.contains e.1).length

/-- Ticket table entries in use (R513). -/
def ticketsUsed (s : State) : Nat :=
  s.stl.bufs.foldl (fun n e => n + (e.2.issued.filter fun t => !e.2.used.contains t.1).length) 0

/-- A record after its buffer returns (R512). -/
def bufReturned (b : Buf) : Buf := { Buf.reset with gen := if b.gen = 15 then 1 else b.gen + 1 }

/-- A buffer returns to FREE and leaves its owner's use (R512, R523). -/
def bufReturn (p i : Nat) (s : State) : State :=
  let b := bufOf s p i
  modUse b.owner (fun u => u - poolUnits s p) (modBuf p i bufReturned s)

/-- A buffer returns when its count has reached 0 (R512). -/
def bufSettle (p i : Nat) (s : State) : State :=
  if (bufOf s p i).held && refCount (bufOf s p i) = 0 then bufReturn p i s else s

/-! ### The checks of R516 -/

/-- Checks 1 to 5 of R516; FREE skips check 2 (R517). -/
def handleCheck (s : State) (h req : Nat) (skipBay : Bool) : Option StlErr :=
  let p := bitsOf h 26 6
  let i := bitsOf h 8 18
  let g := bitsOf h 4 4
  let t := bitsOf h 0 4
  let b := bufOf s p i
  if !poolOn s p || decide (i ≥ poolCount s p) then some .range
  else if !skipBay && !poolReady s p then some .bayoff
  else if !b.held || b.gen != g then some .stale
  else if t = 0 && b.owner != req then some .owner
  else if t ≠ 0 && tabFind b.issued t != some req then some .owner
  else if t = 0 && !b.hold then some .dfree
  else if t ≠ 0 && b.used.contains t then some .dfree
  else none

/-- Checks 6 and 7, for CHECK. -/
def spanCheck (s : State) (h off len : Nat) : Option StlErr :=
  if off % 8 ≠ 0 then some .align
  else if off + 8 * len > 2 ^ poolLog s (bitsOf h 26 6) then some .range
  else none

/-- A handle refusal is reported, counted and captured (R521); TICKETS and BAYOFF are only returned (R522). -/
def handleRefused (op h req : Nat) (e : StlErr) (s : State) : State :=
  match e with
  | .tickets => s
  | .bayoff => s
  | e =>
    let s := bump F.STL_CNT_HNDREF s
    let s :=
      if flag s F.STL_FCAP_ARM then
        setRword .STL_FCAP 0 0 0 h (setRword .STL_FCAP 0 0 1 (op * 2 ^ 12 + e.code * 2 ^ 8 + req) s)
      else s
    report 0x0D e.code h req s

/-! ### The operations (R514) -/

/-- The lowest-indexed FREE buffer among the first `n`. -/
def lowestFree (s : State) (p : Nat) : Nat → Nat → Option Nat
  | 0, _ => none
  | n + 1, i => if (bufOf s p i).held then lowestFree s p n (i + 1) else some i

/-- The lowest FREE buffer of a pool: it lies among the held ones' count plus one. -/
def firstFree (s : State) (p : Nat) : Option Nat := lowestFree s p (min (poolHeld s p + 1) (poolCount s p)) 0

/-- The refusals of ALLOC with their counters (R518, R522). -/
def allocLow (f : FieldRef) (p : Nat) (s : State) : State := raise 718 (bump f s 0 p)

/-- ALLOC (R514, R518). -/
def stlAllocOp (req p : Nat) (s : State) : Except StlErr Nat × State :=
  if !poolOn s p then (.error .range, s)
  else if !poolReady s p then (.error .bayoff, s)
  else
    match firstFree s p with
    | none => (.error .empty, allocLow F.STL_PCNT_EMPTY p s)
    | some i =>
      let lim := fld s F.STL_QUOTA_LIMIT 0 req
      if lim ≠ 0xFFFFFF && decide (useOf s req + poolUnits s p > lim) then
        (.error .quota, allocLow F.STL_PCNT_QUOTA p s)
      else
        let g := (bufOf s p i).gen
        let s := modBuf p i (fun b => { b with held := true, owner := req, hold := true }) s
        (.ok (handleOf p i g 0), modUse req (· + poolUnits s p) s)

/-- FREE (R512, R514, R517). -/
def stlFreeOp (req h : Nat) (s : State) : Option StlErr × State :=
  match handleCheck s h req true with
  | some e => (some e, handleRefused 2 h req e s)
  | none =>
    let p := bitsOf h 26 6
    let i := bitsOf h 8 18
    let t := bitsOf h 0 4
    let drop (b : Buf) : Buf := if t = 0 then { b with hold := false } else { b with used := t :: b.used }
    (none, bufSettle p i (modBuf p i drop s))

/-- The lowest ticket not issued in this generation. -/
def nextTicket (b : Buf) : Option Nat :=
  ((List.range 16).filter fun t => decide (t ≠ 0) && (tabFind b.issued t).isNone).head?

/-- SHARE (R513, R514, R519). -/
def stlShareOp (req h rcp : Nat) (s : State) : Except StlErr Nat × State :=
  match handleCheck s h req false with
  | some e => (.error e, handleRefused 3 h req e s)
  | none =>
    let p := bitsOf h 26 6
    let i := bitsOf h 8 18
    match nextTicket (bufOf s p i) with
    | none => (.error .tickets, s)
    | some t =>
      if ticketsUsed s ≥ 8192 then (.error .tickets, s)
      else (.ok (handleOf p i (bitsOf h 4 4) t), modBuf p i (fun b => { b with issued := tabInsert b.issued t rcp }) s)

/-- CHECK (R514, R516): the physical address of an offset. -/
def stlCheckOp (req h off len : Nat) (s : State) : Except StlErr Nat × State :=
  match handleCheck s h req false with
  | some e => (.error e, handleRefused 4 h req e s)
  | none =>
    match spanCheck s h off len with
    | some e => (.error e, handleRefused 4 h req e s)
    | none => (.ok (bufAddr s (bitsOf h 26 6) (bitsOf h 8 18) + off), s)

/-- STL_RES of a requester after its operation. -/
def stlResult (req v : Nat) (e : Option StlErr) (s : State) : State :=
  let code := match e with | some e => e.code | none => 0
  setRwordQ .STL_RES req 0 0 0 (v % 2 ^ 32)
    (setRwordQ .STL_RES req 0 0 1 (code * 2 ^ 28 + v / 2 ^ 32 % 2 ^ 16) s)

/-- An operation with a value shows in STL_RES. -/
def showVal (req : Nat) (x : Except StlErr Nat × State) : State :=
  match x with
  | (.ok v, s) => stlResult req v none s
  | (.error e, s) => stlResult req 0 (some e) s

/-- FREE shows in STL_RES. -/
def showFree (req : Nat) (x : Option StlErr × State) : State := stlResult req 0 x.1 x.2

/-- The words of STL_OP for an operation: HANDLE, OFFSET, and OP with LENM1. -/
def stlPerform (req : Nat) (v : List Nat) (s : State) : State :=
  let h := valOf v F.STL_OP_HANDLE
  match valOf v F.STL_OP_OP with
  | 1 => showVal req (stlAllocOp req (h % 64) s)
  | 2 => showFree req (stlFreeOp req h s)
  | 3 => showVal req (stlShareOp req h (valOf v F.STL_OP_OFFSET % 256) s)
  | _ => showVal req (stlCheckOp req h (valOf v F.STL_OP_OFFSET) (valOf v F.STL_OP_LENM1 + 1) s)

/-- Operands an operation does not use are 0 (R514). -/
def stlOpOk (v : List Nat) : Bool :=
  let h := valOf v F.STL_OP_HANDLE
  let o := valOf v F.STL_OP_OFFSET
  let l := valOf v F.STL_OP_LENM1
  match valOf v F.STL_OP_OP with
  | 1 => decide (h < 64) && o == 0 && l == 0
  | 2 => o == 0 && l == 0
  | 3 => decide (o < 256) && l == 0
  | 4 => true
  | _ => false

/-- The Stalls serve an operation while their domain is up. -/
def stlServes (s : State) : Bool := baseUp s && domUp s 203

/-- The operation reaches the Stalls, or is refused with DOMOFF while their domain is off (R83). -/
def stlReach (req : Nat) (f : State → State) (s : State) : State :=
  if !baseUp s then s
  else if stlServes s then f s
  else busError req (controlBase + regOffset .STL_OP 0 0 2) true .domoff s

/-- ALLOC (R514, R518). -/
def execStlAlloc (req : Req) (pool : Fin 64) (s : State) : Out :=
  .next (stlReach req.val (fun s => showVal req.val (stlAllocOp req.val pool.val s)) s)

/-- FREE (R514, R512, R517). -/
def execStlFree (req : Req) (handle : Word) (s : State) : Out :=
  .next (stlReach req.val (fun s => showFree req.val (stlFreeOp req.val handle.toNat s)) s)

/-- SHARE (R514, R519). -/
def execStlShare (req : Req) (handle : Word) (recipient : BitVec 8) (s : State) : Out :=
  .next (stlReach req.val (fun s => showVal req.val (stlShareOp req.val handle.toNat recipient.toNat s)) s)

/-- CHECK (R514, R516). -/
def execStlCheck (req : Req) (handle : Word) (offset : BitVec 26) (lenm1 : BitVec 23) (s : State) : Out :=
  .next (stlReach req.val
    (fun s => showVal req.val (stlCheckOp req.val handle.toNat offset.toNat (lenm1.toNat + 1) s)) s)

/-! ### Revocation and RESTORE (R526, R529) -/

/-- What revocation of a requester does to one record, and the holds it releases. -/
def revokeBuf (r : Nat) (b : Buf) : Buf × Nat :=
  if !b.held then (b, 0)
  else
    let h := b.hold && b.owner == r
    let ts := (b.issued.filter fun e => e.2 == r && !b.used.contains e.1).map Prod.fst
    ({ b with hold := b.hold && !h, used := ts ++ b.used }, b2n h + ts.length)

/-- Revoke every hold and ticket of a requester (R526); answers how many were released. -/
def stlRevokeAll (r : Nat) (s : State) : Nat × State :=
  (s.stl.bufs.map Prod.fst).foldl (fun acc k =>
    let (b, n) := revokeBuf r (tabGet .reset acc.2.stl.bufs k)
    let p := k / 2 ^ 18
    let i := k % 2 ^ 18
    (acc.1 + n, if n = 0 then acc.2 else bufSettle p i (modBuf p i (fun _ => b) acc.2))) (0, s)

/-- What a commit of STL_REVOKE performs. -/
def revokeEffect (v : List Nat) (s : State) : State :=
  let (n, s) := stlRevokeAll (valOf v F.STL_REVOKE_RID) s
  setFld F.STL_REVOKE_DONE (min n (2 ^ 24 - 1)) s

/-- STL_REVOKE (R526). -/
def execStlRevoke (a : Acc) (s : State) : Out :=
  .next (regCommit .STL_REVOKE 0 0 a neverBusy anyOk revokeEffect s)

/-- The forced return of the buffers of a bay's pools (R529). -/
def bayReturn (b : Nat) (s : State) : State :=
  forEach (s.stl.bufs.map Prod.fst) (fun k s =>
    let p := k / 2 ^ 18
    let i := k % 2 ^ 18
    if decide (fld s F.STL_POOL_BAY 0 p = b) && (bufOf s p i).held then bump F.STL_CNT_FORCED (bufReturn p i s)
    else s) s

/-! ### Pools (R505-R509) -/

/-- A pool's region within its bay: first and past-the-end byte. -/
def poolSpan (v : List Nat) : Nat × Nat :=
  let b := valOf v F.STL_POOL_BASE * 4096
  (b, b + (valOf v F.STL_POOL_COUNTM1 + 1) * 2 ^ valOf v F.STL_POOL_LOG2SZ)

/-- The words of a pool register as stored. -/
def poolVals (s : State) (p : Nat) : List Nat := [rword s .STL_POOL 0 p 0, rword s .STL_POOL 0 p 1]

/-- The reserved values of R507. -/
def poolOk (p : Nat) (s : State) (v : List Nat) : Bool :=
  if valOf v F.STL_POOL_EN = 0 then true
  else
    let others := (List.range 64).filter fun q => decide (q ≠ p) && poolOn s q
    let (a, z) := poolSpan v
    decide (z ≤ 2 ^ 33) &&
      others.all (fun q =>
        let (c, y) := poolSpan (poolVals s q)
        fld s F.STL_POOL_BAY 0 q != valOf v F.STL_POOL_BAY || decide (z ≤ c) || decide (y ≤ a)) &&
      decide (others.foldl (fun n q => n + poolCount s q) (valOf v F.STL_POOL_COUNTM1 + 1) ≤ 131072)

/-- The commit leaves an enabled pool with exactly its present values. -/
def poolSame (p : Nat) (s : State) (v : List Nat) : Bool := poolOn s p && v == poolVals s p

/-- The refusals of R508. -/
def poolBusy (p : Nat) (s : State) (v : List Nat) : Option Berr :=
  if poolSame p s v then none
  else if valOf v F.STL_POOL_EN = 1 then busyIf (poolOn s p || !bayReady s (valOf v F.STL_POOL_BAY))
  else busyIf (poolOn s p && decide (poolHeld s p ≠ 0))

/-- A pool enabled has every buffer free with generation 1 (R509). -/
def poolFresh (p : Nat) (s : State) : State :=
  { s with stl := { s.stl with bufs := s.stl.bufs.filter fun e => decide (e.1 / 2 ^ 18 ≠ p) } }

/-- STL_POOL_COMMIT (R507-R509). -/
def execStlPoolCommit (pool : Fin 64) (a : Acc) (s : State) : Out :=
  .next (regCommit .STL_POOL 0 pool.val a (poolBusy pool.val s) (fun v => poolSame pool.val s v || poolOk pool.val s v)
    (fun v t => if poolSame pool.val s v then t else poolFresh pool.val t) s)

end Sys2Proof.Machine
end

