-- ==== Sys2Proof/Machine/Lanes.lean ====
section
/-! DEFINITION. Camera lanes: training, line packets, deadlines, control words; line FIFOs and their read ports; the
Swatch (spec/04). Packets are handled whole at their close (notes/assumptions/11.md). -/

namespace Sys2Proof.Machine

/-! ### Checks (R140, R142) -/

/-- One step of the CRC-16 of R140. -/
def crc16Step (crc : Nat) (bit : Bool) : Nat :=
  let top := bitAt crc 15 != bit
  (crc * 2 % 2 ^ 16) ^^^ (if top then 0x1021 else 0)

/-- CRC-16 of the low `n` bits of a number, most significant first. -/
def crc16 : Nat → Nat → Nat → Nat
  | 0, _, crc => crc
  | n + 1, v, crc => crc16 n v (crc16Step crc (bitAt v n))

/-- `n` reflected steps of the CRC-32 of IEEE 802.3. -/
def crc32Bits : Nat → Nat → Nat
  | 0, c => c
  | n + 1, c => crc32Bits n (if c % 2 = 1 then c / 2 ^^^ 0xEDB88320 else c / 2)

/-- CRC-32 of bytes (R142). -/
def crc32 (l : List Nat) : Nat := l.foldl (fun c b => crc32Bits 8 (c ^^^ (b % 256))) 0xFFFFFFFF ^^^ 0xFFFFFFFF

/-- The five header bytes of an SOP body, most significant first. -/
def headerBytes (sop : Nat) : List Nat := [6, 5, 4, 3, 2].map fun i => bitsOf sop (8 * i) 8

/-- HCRC holds (R140). -/
def hcrcOk (sop : Nat) : Bool := crc16 40 (bitsOf sop 16 40) 0xFFFF == bitsOf sop 0 16

/-! ### Training (R133-R137) -/

/-- A lane's index within its bond. -/
def laneIdx (s : State) (n : Nat) : Nat := n - (bondOf s n).1

/-- Change a lane's training state, raising LANESTATEn on a change. -/
def setLaneSt (n : Nat) (st : LaneSt) (s : State) : State :=
  if (laneOf s n).st = st then s else raise (1 + n) (modLane n (fun x => { x with st := st }) s)

/-- Restart the counts of TRAIN blocks. -/
def clearTrain (n : Nat) (s : State) : State :=
  modLane n (fun x => { x with valid := 0, invalid := 0, readyCount := 0, seq := none }) s

/-- A lane enters LOCK with its training time restarted (R136). -/
def enterLock (n : Nat) (s : State) : State :=
  setLaneSt n .lock (modLane n (fun x => { x with trainAt := s.now }) (clearTrain n s))

/-- A lane leaves UP (R137): LANEDOWN, and LOCK, WAIT or FAIL. -/
def leaveUp (n : Nat) (s : State) : State :=
  let s := report 0x02 0 n 255 (tally (64 + n) s)
  if flag s F.LANE_CTRL_AUTO n then
    (if (laneOf s n).signal then enterLock n s else setLaneSt n .wait s)
  else setLaneSt n .fail (modLane n (fun x => { x with why := .left }) s)

/-- SIGNAL_DETECT (R133). -/
def execSignalDetect (lane : Fin 64) (s : State) : Out :=
  let n := lane.val
  .next (if (laneOf s n).st = .wait then enterLock n (modLane n (fun x => { x with signal := true }) s) else s)

/-- BLOCK_LOCK_GAIN (R132, R133). -/
def execBlockLockGain (lane : Fin 64) (s : State) : Out :=
  let n := lane.val
  .next (if (laneOf s n).st = .lock then
    setLaneSt n .ident (modLane n (fun x => { x with block := true }) (clearTrain n s)) else s)

/-- Count block errors (R129, R131). -/
def blockErrs (n k : Nat) (s : State) : State := bump F.LANE_CNT2_BLKERR s n 0 k

/-- BLOCK_LOCK_LOSS (R132, R136, R137). -/
def execBlockLockLoss (lane : Fin 64) (signal : Bool) (bad : BitVec 16) (s : State) : Out :=
  let n := lane.val
  if !(laneOf s n).block then .next s
  else
    let s := blockErrs n bad.toNat s
    let s := modLane n (fun x => { x with block := false, signal := signal, seq := none }) s
    if (laneOf s n).st = .up then .next (leaveUp n s)
    else if (laneOf s n).st = .ident then .next (setLaneSt n (if signal then .lock else .wait) (clearTrain n s))
    else .next s

/-- ALIGN_RECEIVE (R129, R131): block errors since the last ALIGN block, and a gap in SEQ. -/
def execAlignReceive (lane : Fin 64) (seq bad : BitVec 16) (s : State) : Out :=
  let n := lane.val
  if !(laneOf s n).block then .next s
  else
    let gap := match (laneOf s n).seq with
      | some q => (q + 1) % 2 ^ 16 != seq.toNat
      | none => false
    .next (modLane n (fun x => { x with seq := some seq.toNat }) (blockErrs n (bad.toNat + b2n gap) s))

/-- A lane enters UP (R135): CAMID and FMTS are latched, and no frame is open (R158). -/
def enterUp (n body : Nat) (s : State) : State :=
  let s := setFld F.LANE_CAM_CAMID (bitsOf body 16 16) (setFld F.LANE_CAM_FMTS (bitsOf body 32 8) s n) n
  setLaneSt n .up (modLane n (fun x => { x with isOpen := false, due := none }) s)

/-- A TRAIN body names this lane, its bond width and a common format (R134). -/
def trainValid (s : State) (n body : Nat) : Bool :=
  bitsOf body 48 8 == laneIdx s n && bitsOf body 46 2 == fld s F.LANE_CTRL_BWC n &&
    bitAt (bitsOf body 32 8) (fld s F.LANE_CTRL_FMT n)

/-- A TRAIN block in IDENT (R134, R135). -/
def trainBlock (n body : Nat) (s : State) : State :=
  let x := laneOf s n
  let fmtErr := !bitAt (bitsOf body 32 8) (fld s F.LANE_CTRL_FMT n)
  let s := modLane n (fun x => { x with fmtErr := fmtErr }) s
  if trainValid s n body then
    let ready := decide (x.valid ≥ 16) && bitAt body 45
    let k := if ready then x.readyCount + 1 else 0
    let s := modLane n (fun x => { x with
      valid := min (x.valid + 1) 16, invalid := 0, readyCount := k, bondErr := false }) s
    if k ≥ 16 then enterUp n body s else s
  else
    let bad := x.invalid + 1
    let s := modLane n (fun x => { x with
      valid := 0, readyCount := 0, invalid := min bad 17, bondErr := x.bondErr || decide (bad ≥ 16) }) s
    if bad = 16 then report 0x01 0 n 255 s else s

/-- TRAIN_RECEIVE (R134, R135, R137). -/
def execTrainReceive (lane : Fin 64) (body : BitVec 56) (s : State) : Out :=
  let n := lane.val
  if (laneOf s n).st = .up then .next (leaveUp n s)
  else if (laneOf s n).st = .ident then .next (trainBlock n body.toNat s)
  else .next s

/-- TRAINING_TIMEOUT (R136). -/
def execTrainingTimeout (lane : Fin 64) (s : State) : Out :=
  let n := lane.val
  let x := laneOf s n
  if (decide (x.st = .lock) || decide (x.st = .ident)) &&
      decide (s.now - x.trainAt ≥ fld s F.LANE_CTRL_TMO n * 1000000) then
    let s := tally (64 + n) (bump F.LANE_CNT2_RETRAIN s n)
    .next (setLaneSt n .fail (modLane n (fun x => { x with why := .timeout, failAt := s.now, block := false }) s))
  else .next s

/-- FAIL_RETRY (R136). -/
def execFailRetry (lane : Fin 64) (s : State) : Out :=
  let n := lane.val
  let x := laneOf s n
  if decide (x.st = .fail) && decide (x.why = .timeout) && decide (s.now - x.failAt ≥ 1000000) then
    .next (setLaneSt n .wait (modLane n (fun x => { x with signal := false }) s))
  else .next s

/-! ### Lane control (R157) -/

/-- An enabled lane's BWC and FMT equal those of its base lane. -/
def laneMatches (s : State) (n : Nat) : Bool :=
  let b := (bondOf s n).1
  fld s F.LANE_CTRL_BWC n == fld s F.LANE_CTRL_BWC b && fld s F.LANE_CTRL_FMT n == fld s F.LANE_CTRL_FMT b

/-- Check one enabled lane against its base lane (R157). -/
def laneCheck (n : Nat) (s : State) : State :=
  if !flag s F.LANE_CTRL_EN n then s
  else
    let x := laneOf s n
    if laneMatches s n then
      (if x.st = .fail && x.why = .mismatch then
        setLaneSt n .wait (modLane n (fun x => { x with signal := false, block := false }) s) else s)
    else
      let s := if x.st = .up then report 0x02 0 n 255 (tally (64 + n) s) else s
      setLaneSt n .fail (modLane n (fun x => { x with why := .mismatch, block := false }) s)

/-- A lane turned off keeps its software words, sends and stores nothing (R180). -/
def laneOff (n : Nat) (s : State) : State :=
  setLaneSt n .off (modLane n (fun x => { Lane.reset with st := x.st, txq := x.txq }) s)

/-- The effect of a commit of LANE_CTRL (R133, R157). -/
def laneCtrlEffect (n : Nat) (s : State) : State :=
  let on := flag s F.LANE_CTRL_EN n
  let s := if !on then laneOff n s else if (laneOf s n).st = .off then setLaneSt n .wait s else s
  forEach (List.range 64) laneCheck s

/-- EN = 1 while the lane's LFI group is off (LANE_CTRL). -/
def laneCtrlBusy (n : Nat) (s : State) (v : List Nat) : Option Berr :=
  if valOf v F.LANE_CTRL_EN = 1 && !domUp s (208 + n / 16) then some .domoff else none

/-- LANE_CTRL_COMMIT (R157). -/
def execLaneCtrlCommit (lane : Fin 64) (a : Acc) (s : State) : Out :=
  .next (regCommit .LANE_CTRL lane.val 0 a (laneCtrlBusy lane.val s) anyOk (fun _ => laneCtrlEffect lane.val) s)

/-! ### Line FIFOs: records and banks (R162-R169) -/

/-- The LFI of lane `n`, and its bond's base. -/
def lfiBase (s : State) (n : Nat) : Nat := (bondOf s n).1

/-- A port of an LFI's bond is enabled. -/
def portOn (s : State) (n p : Nat) : Bool :=
  flag s (if p = 0 then F.LFI_CFG_P0EN else F.LFI_CFG_P1EN) 0 (lfiBase s n)

/-- Drop-rest-of-packet mode (R166, R167). -/
def lfiDropMode (s : State) (n : Nat) : Bool := flag s F.LFI_CFG_MODE 0 (lfiBase s n)

/-- Lines per bank; 0 counts as the directory's 256 (notes/assumptions/12.md). -/
def lfiLpb (s : State) (n : Nat) : Nat :=
  let l := fld s F.LFI_CFG_LPB 0 (lfiBase s n)
  if l = 0 then 256 else min l 256

/-- A bank's records. -/
def bankRecs (x : Lfi) (b : Bool) : List LfiRec := if b then x.bankB else x.bankA

/-- Set a bank's records. -/
def setBankRecs (b : Bool) (l : List LfiRec) (x : Lfi) : Lfi := if b then { x with bankB := l } else { x with bankA := l }

/-- A record freed by every enabled port (R168). -/
def recFreed (s : State) (n : Nat) (r : LfiRec) : Bool :=
  (!portOn s n 0 || r.freed0) && (!portOn s n 1 || r.freed1)

/-- A bank is returned to the writer (R168). -/
def bankReturned (s : State) (n : Nat) (b : Bool) : Bool := (bankRecs (lfiOf s n) b).all (recFreed s n)

/-- Words of a line (R162). -/
def lineWords (s : State) (n : Nat) : Nat := (fld s F.LANE_LCFG_SAMPLES n + 5) / 6

/-- Words that a bank's records take. -/
def bankUsed (l : List LfiRec) : Nat := l.foldl (fun k r => k + r.data.length) 0

/-- The write bank takes another record of `words` (R164). -/
def bankTakes (s : State) (n : Nat) (fresh : Bool) (words : Nat) (l : List LfiRec) : Bool :=
  l.isEmpty || (!fresh && decide (l.length < lfiLpb s n) && decide (bankUsed l + words ≤ 10752))

/-- The bank a record goes to: the write bank, the other one once it is returned, or none (R164, R169). -/
def lfiRoom (s : State) (n : Nat) (frame words : Nat) : Option Bool :=
  let x := lfiOf s n
  if bankTakes s n (x.lastFrame != some frame) words (bankRecs x x.wbank) then some x.wbank
  else if bankReturned s n (!x.wbank) then some (!x.wbank) else none

/-- The 48-bit line record (R163). -/
def recWord (r : LfiRec) : Nat :=
  r.line * 2 ^ 34 + r.frame * 2 ^ 18 + r.data.length * 16 + b2n r.missing * 8 + b2n r.crcerr * 4 + b2n r.lenerr * 2 +
    b2n r.ovf

/-- Store a record in a bank; a move to the other bank finds it empty. -/
def lfiStore (n : Nat) (b : Bool) (r : LfiRec) (s : State) : State :=
  let no := (lfiOf s n).nextNo
  let ovf := (lfiOf s n).ovf
  let r := { r with no := no, ovf := ovf, ready := s.now }
  modLfi n (fun x =>
    let l := if b = x.wbank then bankRecs x b else []
    setBankRecs b (l ++ [r]) { x with wbank := b, nextNo := x.nextNo + 1, ovf := false, lastFrame := some r.frame }) s

/-- A record lost for want of room (R169). -/
def lfiLost (n : Nat) (s : State) : State :=
  let s := modLfi n (fun x => { x with ovf := true }) (bump F.LFI_CNT_OVF s 0 n)
  raise 711 (report 0x03 0 n 255 s)

/-! ### Swatch: measuring (R172-R176) -/

/-- The first `n` samples of 12 bits from native words, 6 each (R162). -/
def samplesOf (n : Nat) (l : List Native) : List Nat :=
  (l.flatMap fun w => (List.range 6).map fun i => bitsOf w.toNat (12 * i) 12).take n

/-- The Bayer or component channel of sample x of line L (R173). -/
def swtChan (s : State) (b line x : Nat) : Nat :=
  if fld s F.LANE_CTRL_FMT b = 1 then (if x % 2 = 1 then 0 else if x % 4 = 0 then 1 else 2)
  else ((line % 2) * 2 + x % 2) ^^^ fld s F.SWT_CFG_CFA 0 b

/-- A saturating 32-bit count in a table. -/
def tabInc (m : Tab Nat) (k : Nat) : Tab Nat := tabMod 0 m k (fun v => satAdd v 1 (2 ^ 32 - 1))

/-- One sample enters the histogram and the clip counts (R174). -/
def swtSample (s : State) (b line : Nat) (x v : Nat) (w : Swt) : Swt :=
  let c := swtChan s b line x
  let hi := decide (v ≥ fld s F.SWT_CLIP_CLIPHI 0 b)
  let lo := decide (v ≤ fld s F.SWT_CLIP_CLIPLO 0 b)
  { w with
    hist := tabInc w.hist (1024 * c + v / 4)
    clipHi := if hi then tabInc w.clipHi c else w.clipHi
    clipLo := if lo then tabInc w.clipLo c else w.clipLo }

/-- Every sample of a line. -/
def swtSamples (s : State) (b line : Nat) : Nat → List Nat → Swt → Swt
  | _, [], w => w
  | x, v :: l, w => swtSamples s b line (x + 1) l (swtSample s b line x v w)

/-- The luma or photosite samples of a line, on which tiles stand (R175). -/
def tileRow (s : State) (b : Nat) (l : List Nat) : List Nat :=
  if fld s F.LANE_CTRL_FMT b = 1 then
    (List.range (l.length / 2)).map fun i => l.getD (2 * i + 1) 0
  else l

/-- The distance of SHARP's difference. -/
def sharpStep (s : State) (b : Nat) : Nat := if fld s F.LANE_CTRL_FMT b = 1 then 1 else 2

/-- Tiles across a bond's picture. -/
def tilesAcross (s : State) (b : Nat) : Nat :=
  let n := fld s F.LANE_LCFG_SAMPLES b
  ((if fld s F.LANE_CTRL_FMT b = 1 then n / 2 else n) + 63) / 64

/-- Tiles down. -/
def tilesDown (s : State) (b : Nat) : Nat := (fld s F.LANE_LCFG_ALINES b + 63) / 64

/-- A sample enters its tile (R175). -/
def tileSample (s : State) (b line : Nat) (row : List Nat) (x v : Nat) (w : Swt) : Swt :=
  let k := line / 64 * tilesAcross s b + x / 64
  if k ≥ 16384 then w
  else
    let y := row.getD (x + sharpStep s b) v
    let d := if v ≥ y then v - y else y - v
    let hi := decide (v ≥ fld s F.SWT_CLIP_CLIPHI 0 b)
    { w with tiles := tabMod .reset w.tiles k (fun t =>
        ⟨t.sum + v, t.count + 1, satAdd t.sharp d (2 ^ 32 - 1), if hi then satAdd t.clip 1 65535 else t.clip⟩) }

/-- Every sample of a line enters its tile. -/
def tileSamples (s : State) (b line : Nat) (row : List Nat) : Nat → List Nat → Swt → Swt
  | _, [], w => w
  | x, v :: l, w => tileSamples s b line row (x + 1) l (tileSample s b line row x v w)

/-! ### Swatch: records (R176-R179) -/

/-- One tile record (R175). -/
def tileWord (t : Tile) : Nat :=
  (if t.count = 0 then 0 else t.sum * 16 / t.count) % 2 ^ 16 * 2 ^ 48 + t.sharp * 2 ^ 16 + t.clip

/-- The bytes of a Swatch record closing now (R179). -/
def swtBytes (s : State) (b : Nat) (trunc : Bool) : List Nat :=
  let w := swtOf s b
  let keep := flag s F.SWT_CFG_TILES 0 b
  let across := if keep then tilesAcross s b else 0
  let down := if keep then tilesDown s b else 0
  let p := posNow s
  let four (m : Tab Nat) : List Nat := (List.range 4).flatMap fun c => leBytes 4 (tabGet 0 m c)
  leBytes 8 (w.frame * 2 ^ 48 + w.lines * 2 ^ 32 + w.bad * 2 ^ 16 + w.missing) ++
    leBytes 8 (b2n trunc * 2 ^ 63 + w.tdrop * 2 ^ 48 + w.telem.length * 2 ^ 40 + across % 1024 * 2 ^ 30 +
      down % 16384 * 2 ^ 16) ++
    four w.clipHi ++ four w.clipLo ++ leBytes 8 p.1 ++ leBytes 4 p.2.1 ++ leBytes 4 p.2.2 ++
    ((List.range 4096).flatMap fun i => leBytes 4 (tabGet 0 w.hist i)) ++
    ((List.range 4).flatMap fun i => ((w.telem.getD i []) ++ List.replicate 256 0).take 256) ++
    ((List.range (min (across * down) 16384)).flatMap fun k => leBytes 8 (tileWord (tabGet .reset w.tiles k)))

/-- A record without a buffer is discarded (R178). -/
def swtDropped (b : Nat) (s : State) : State := raise 712 (bump F.SWT_CNT_DROP s 0 b)

/-- Write the record at closure (R178). -/
def swtWrite (b : Nat) (s : State) : State :=
  match (swtOf s b).queue with
  | [] => swtDropped b s
  | h :: q =>
    let s := modSwt b (fun w => { w with queue := q }) s
    match stlCheckOp 232 h 0 1 s with
    | (.error _, s) => swtDropped b s
    | (.ok a, s) =>
      let size := 2 ^ poolLog s (bitsOf h 26 6)
      let isOver := decide (tilesAcross s b * tilesDown s b > 16384) && flag s F.SWT_CFG_TILES 0 b
      let bytes := swtBytes s b isOver
      let bytes := if bytes.length ≤ size then bytes else (swtBytes s b true).take size
      match writeBytes 232 bytes a s with
      | (false, s) => swtDropped b s
      | (true, s) =>
        let s := bumpWrap F.SWT_CNT_RECORDS (setFld F.SWT_STAT_FRAME (swtOf s b).frame s 0 b) 0 b
        raise (529 + b) s

/-- Close a Swatch's record, if one is open (R177, R178). -/
def swtClose (b : Nat) (s : State) : State :=
  if (swtOf s b).isOpen then modSwt b (fun w => { Swt.reset with queue := w.queue }) (swtWrite b s) else s

/-- Frame `f` is newer than frame `g`, mod 2^16. -/
def newerFrame (f g : Nat) : Bool :=
  let d := (f + 2 ^ 16 - g) % 2 ^ 16
  decide (1 ≤ d) && decide (d < 2 ^ 15)

/-- Open a Swatch's record for a frame, closing one of an older frame (R177). -/
def swtOpen (b frame : Nat) (s : State) : State :=
  let s := if (swtOf s b).isOpen && newerFrame frame (swtOf s b).frame then swtClose b s else s
  if (swtOf s b).isOpen then s else modSwt b (fun w => { w with isOpen := true, frame := frame }) s

/-- One record of the bond is counted and accumulated (R172). -/
def swtTake (n b : Nat) (r : LfiRec) (s : State) : State :=
  let row := samplesOf (fld s F.LANE_LCFG_SAMPLES n) r.data
  let tiles (w : Swt) : Swt :=
    if flag s F.SWT_CFG_TILES 0 b then tileSamples s b r.line (tileRow s b row) 0 (tileRow s b row) w else w
  let put (w : Swt) : Swt :=
    if r.missing then { w with missing := satAdd w.missing 1 65535 }
    else if r.crcerr || r.lenerr then { w with bad := satAdd w.bad 1 65535, lines := w.lines }
    else tiles (swtSamples s b r.line 0 row { w with lines := satAdd w.lines 1 65535 })
  modSwt b put s

/-- A lane has its last expected line of the frame (R177). -/
def lastLine (s : State) (n line : Nat) : Bool := decide (line + (bondOf s n).2 ≥ fld s F.LANE_LCFG_ALINES n)

/-- Lanes of a bond that expect lines. -/
def bondLanes (s : State) (n : Nat) : List Nat :=
  let (b, w) := bondOf s n
  ((List.range w).filter fun j => decide (j < fld s F.LANE_LCFG_ALINES n)).map fun j => b + j

/-- The Swatch watches a record as it is written (R172, R177). -/
def swtWatch (n : Nat) (r : LfiRec) (s : State) : State :=
  let b := lfiBase s n
  if !flag s F.SWT_CFG_EN 0 b then s
  else
    let s := swtOpen b r.frame s
    if (swtOf s b).frame ≠ r.frame then s
    else
      let s := swtTake n b r s
      let done := if lastLine s n r.line then n :: (swtOf s b).lanesDone else (swtOf s b).lanesDone
      let s := modSwt b (fun w => { w with lanesDone := done }) s
      if flag s F.SWT_CFG_AUTO 0 b && (bondLanes s n).all done.contains then swtClose b s else s

/-- A LATCH action on a Swatch (R177). -/
def swtLatch (b : Nat) (s : State) : State := swtClose b s

/-- A telemetry packet of the bond (R148, R176). -/
def swtTelem (n frame : Nat) (bytes : List Nat) (s : State) : State :=
  let b := lfiBase s n
  if !flag s F.SWT_CFG_EN 0 b then s
  else
    let s := swtOpen b frame s
    modSwt b (fun w =>
      if w.telem.length < 4 then { w with telem := w.telem ++ [bytes] } else { w with tdrop := satAdd w.tdrop 1 255 }) s

/-! ### Arrival (R158-R161) -/

/-- Lanes store lines: not in FROZEN and not from the start of the power-fail schedule (R861). -/
def lanesStore (s : State) : Bool :=
  decide (s.pwr.mode ≠ .frozen) && !(s.pwr.pfwAt.isSome && decide (s.pwr.mode = .bindOff))

/-- Write a record, or lose it for want of room; only a written one reaches the Swatch (R169, R172). -/
def putRecord (n : Nat) (r : LfiRec) (s : State) : State :=
  match lfiRoom s n r.frame r.data.length with
  | some b => swtWatch n r (lfiStore n b r s)
  | none => lfiLost n s

/-- An empty record of a line. -/
def blankRec (line frame : Nat) : LfiRec := ⟨0, line, frame, false, false, false, false, [], false, false, 0⟩

/-- One MISSING record for the expected line, and E advances (R160, R161). -/
def missLine (n : Nat) (s : State) : State :=
  let x := laneOf s n
  let w := (bondOf s n).2
  let s := putRecord n { blankRec x.exp x.fr with missing := true } (bump F.LANE_CNT1_MISSING s n)
  modLane n (fun x => { x with exp := x.exp + w }) s

/-- MISSING records for the expected lines before a line; at most `k`. -/
def missUntil (n line : Nat) : Nat → State → State
  | 0, s => s
  | k + 1, s => if (laneOf s n).exp < line then missUntil n line k (missLine n s) else s

/-- Close the open frame with MISSING records for its remaining lines (R159). -/
def closeFrame (n : Nat) (s : State) : State :=
  missUntil n (fld s F.LANE_LCFG_ALINES n) (fld s F.LANE_LCFG_ALINES n) s

/-- Open a frame on a lane; its first record starts a fresh bank (R164). -/
def openFrame (n frame : Nat) (s : State) : State :=
  let j := laneIdx s n
  modLfi n (fun x => { x with lastFrame := none })
    (modLane n (fun x => { x with isOpen := true, fr := frame, exp := j, due := none }) s)

/-- Move to a newer frame, closing the present one (R159). -/
def advanceFrame (n frame : Nat) (s : State) : State :=
  let d := (frame + 2 ^ 16 - (laneOf s n).fr) % 2 ^ 16
  let s := closeFrame n s
  openFrame n frame (if d > 1 then bump F.LANE_CNT3_FSKIP s n 0 (d - 1) else s)

/-- Bits of a sample by format (R139). -/
def fmtBits (f : Nat) : Nat := if f = 2 then 10 else 12

/-- Payload bytes of a line (R143). -/
def lineBytes (s : State) (n : Nat) : Nat :=
  (fld s F.LANE_LCFG_SAMPLES n * fmtBits (fld s F.LANE_CTRL_FMT n) + 7) / 8

/-- Native words of a line's payload: 6 samples each, 10-bit samples with two zero bits below (R141, R162). -/
def lineData (s : State) (n : Nat) (bytes : List Nat) : List Native :=
  let p := leNat bytes
  let w := fmtBits (fld s F.LANE_CTRL_FMT n)
  let one (k : Nat) : Nat :=
    if k < fld s F.LANE_LCFG_SAMPLES n then bitsOf p (w * k) w * 2 ^ (12 - w) else 0
  (List.range (lineWords s n)).map fun i =>
    BitVec.ofNat 72 ((List.range 6).foldr (fun j v => one (6 * i + j) + 2 ^ 12 * v) 0)

/-- Store a line that is in order (R143, R145, R146, R159). -/
def storeLine (n line frame : Nat) (bytes : List Nat) (crcerr lenerr : Bool) (s : State) : State :=
  let need := lineBytes s n
  let r := { blankRec line frame with
    crcerr := crcerr, lenerr := lenerr, data := lineData s n ((bytes ++ List.replicate need 0).take need) }
  let s := modLane n (fun x => { x with exp := line + (bondOf s n).2 }) s
  match lfiRoom s n frame r.data.length with
  | none => lfiLost n s
  | some b =>
    let s := if crcerr then tally (128 + n) (bump F.LANE_CNT0_CRCERR s n) else s
    let s := if lenerr then bump F.LANE_CNT2_LENERR s n else s
    swtWatch n r (lfiStore n b r (bumpWrap F.LANE_LINES_LINES s n))

/-- A line packet that passes its checks (R158, R159). -/
def lineArrives (n line frame : Nat) (bytes : List Nat) (crcerr lenerr : Bool) (s : State) : State :=
  let (b, w) := bondOf s n
  let x := laneOf s n
  let okLine := line % w == n - b && decide (line < fld s F.LANE_LCFG_ALINES n)
  if !x.isOpen && !(line == n - b && okLine) then s
  else if !okLine then bump F.LANE_CNT0_HDRERR s n
  else
    let s := if x.isOpen then s else openFrame n frame s
    let d := (frame + 2 ^ 16 - (laneOf s n).fr) % 2 ^ 16
    if d ≥ 2 ^ 15 then bump F.LANE_CNT1_LATE s n
    else
      let s := if d = 0 then s else advanceFrame n frame s
      if line < (laneOf s n).exp then bump F.LANE_CNT1_LATE s n
      else storeLine n line frame bytes crcerr lenerr (missUntil n line line s)

/-- A packet closes: by EOP, or by an SOP or IDLE inside it (R144-R146, R148, R861). -/
def packetIn (n sop : Nat) (payload : List Nat) (eop : Option Nat) (s : State) : State :=
  if !(laneOf s n).st = .up || !lanesStore s then s
  else if !hcrcOk sop || !(bitsOf sop 52 4 == 1 || bitsOf sop 52 4 == 2) ||
      bitsOf sop 20 2 != fld s F.LANE_CTRL_FMT n then bump F.LANE_CNT0_HDRERR s n
  else
    let pad := match eop with | some e => bitsOf e 32 3 | none => 0
    let bytes := payload.take (payload.length - pad)
    let crcOk := match eop with
      | some e => crc32 (headerBytes sop ++ bytes) == bitsOf e 0 32
      | none => true
    if bitsOf sop 52 4 = 1 then
      lineArrives n (bitsOf sop 22 14) (bitsOf sop 36 16) bytes (!crcOk)
        (eop.isNone || decide (bytes.length ≠ lineBytes s n)) s
    else if eop.isSome && crcOk && decide (bytes.length ≤ 256) then swtTelem n (bitsOf sop 36 16) bytes s
    else s

/-- The bytes of data blocks, 8 each; a last block cut short is no block. -/
def blockBytes (l : List Byte) : List Nat := (l.map BitVec.toNat).take (l.length / 8 * 8)

/-- LINE_PACKET_RECEIVE (R138-R146, R158, R159). -/
def execLinePacketReceive (lane : Fin 64) (sop : BitVec 56) (payload : List Byte) (eop : BitVec 56) (s : State) : Out :=
  .next (packetIn lane.val sop.toNat (blockBytes payload) (some eop.toNat) s)

/-- PACKET_ABORT_CLOSE (R145). -/
def execPacketAbortClose (lane : Fin 64) (sop : BitVec 56) (payload : List Byte) (s : State) : Out :=
  .next (packetIn lane.val sop.toNat (blockBytes payload) none s)

/-- TELEMETRY_RECEIVE (R148, R176). -/
def execTelemetryReceive (lane : Fin 64) (sop : BitVec 56) (payload : List Byte) (eop : BitVec 56) (s : State) : Out :=
  .next (packetIn lane.val sop.toNat (blockBytes payload) (some eop.toNat) s)

/-- LINE_DEADLINE (R160, R861): the expected line of the open frame has passed its deadline. -/
def execLineDeadline (lane : Fin 64) (s : State) : Out :=
  let n := lane.val
  let x := laneOf s n
  match x.due with
  | some p =>
    if lanesStore s && rasterValid s && x.isOpen && decide (x.exp < fld s F.LANE_LCFG_ALINES n) &&
        decide (totalNow s ≥ p + (fld s F.LANE_LCFG_DLY n + x.exp) * 4096) then .next (missLine n s)
    else .next s
  | none => .next s

/-! ### Control words (R149-R156) -/

/-- The lane that a control word for lane `n` uses: the base lane of an enabled bond that holds it (R156). -/
def txLane (s : State) (n : Nat) : Nat :=
  let holds (w : Nat) : Bool :=
    let b := n - n % w
    flag s F.LANE_CTRL_EN b && 2 ^ fld s F.LANE_CTRL_BWC b == w
  match [8, 4, 2].find? holds with
  | some w => n - n % w
  | none => n

/-- A TRIGGER opens its frame on a lane (R158, R160). -/
def triggerLane (frame pos n : Nat) (s : State) : State :=
  let x := laneOf s n
  if !flag s F.LANE_CTRL_EN n then s
  else
    let dly := fld s F.LANE_LCFG_DLY n
    let s :=
      if !x.isOpen then openFrame n frame s
      else if dly = 0 || x.fr = frame then s
      else advanceFrame n frame s
    if dly = 0 then s else modLane n (fun x => { x with due := some pos }) s

/-- The word as launched: FRAME or the time address filled (R150, R111); no fill while raster time is not valid. -/
def filledWord (s : State) (w : Nat) : Nat :=
  if !rasterValid s then w
  else if bitsOf w 56 8 = 0xC1 then setBits w 40 16 (frameNow s)
  else if bitsOf w 56 8 = 0xC3 then
    let p := ptpOf s s.rck.sel
    let ta := Config.timeAddress [(frameNow s : Int), fld s F.RCK_FMT_NUM, fmtDen s, fld s F.RCK_FMT_OFS, p.ofs,
      p.tlvOffset, p.tlvJam]
    setBits w 31 25 ta.toNat
  else w

/-- Send a word on a lane, or discard it on a lane that is not UP (R150, R153). -/
def launchWord (n w : Nat) (s : State) : State :=
  if (laneOf s n).st ≠ .up then bump F.LANE_CNT3_TXDROP s n
  else
    let v := filledWord s w
    let s := modLane n (fun x => { x with sent := some v, busyUntil := 100 * s.now + 528 }) s
    if bitsOf w 56 8 = 0xC1 && bitsOf w 36 4 = 1 && rasterValid s && lanesStore s then
      let (b, k) := bondOf s n
      forEach ((List.range k).map (b + ·)) (triggerLane (frameNow s % 2 ^ 16) (totalNow s)) s
    else s

/-- A block is being sent on the lane. -/
def laneBusy (s : State) (n : Nat) : Bool := decide (100 * s.now < (laneOf s n).busyUntil)

/-- A LANEWORD action hands its word over; it is late when another takes the lane (R120, R121, R156). -/
def handWord (target w : Nat) (s : State) : State :=
  let n := txLane s target
  let late := laneBusy s n || !(laneOf s n).sched.isEmpty
  modLane n (fun x => { x with sched := x.sched ++ [(w, late)] }) s

/-- LANEWORD_LAUNCH (R121, R150, R153). -/
def execLanewordLaunch (lane : Fin 64) (s : State) : Out :=
  let n := lane.val
  match (laneOf s n).sched with
  | [] => .next s
  | (w, late) :: l =>
    if laneBusy s n then .next s
    else
      let s := modLane n (fun x => { x with sched := l }) s
      let s := if late then raise 708 (bump F.RCK_EVCNT_SLIP s) else s
      .next (launchWord n w s)

/-- The effect of a commit of LANE_TXW. -/
def txwEffect (n : Nat) (v : List Nat) (s : State) : State :=
  modLane n (fun x => { x with
    txq := x.txq ++ [valOf v F.LANE_TXW_WLO + valOf v F.LANE_TXW_WHI * 2 ^ 32] }) s

/-- LANE_TXW_QUEUE (R152): BUSY with four words queued, RESVAL for a reserved word. -/
def execLaneTxwQueue (lane : Fin 64) (a : Acc) (s : State) : Out :=
  let n := lane.val
  .next (regCommit .LANE_TXW n 0 a (fun _ => busyIf (decide ((laneOf s n).txq.length ≥ 4)))
    (fun v => laneWordOk (valOf v F.LANE_TXW_WLO + valOf v F.LANE_TXW_WHI * 2 ^ 32)) (txwEffect n) s)

/-- A scheduled word is due on a lane within the next 16 block periods, 84.48 ns (R152). -/
def wordDueSoon (s : State) (n : Nat) : Bool :=
  let soon (x : Slot) (t : Int) : Bool :=
    x.arm && decide (x.action = 1) && txLane s x.target == n &&
      decide (t ≤ totalAt s (s.rck.rt + 8448 * nsUnit / 100)) && decide (t > x.seen)
  rasterValid s && canFire s.pwr.mode &&
    (s.rck.slots.any (fun e => soon e.2 (slotTotal s e.2)) || s.rck.spared.any (fun e => soon e.2.slot e.2.total))

/-- TXW_SEND (R152, R153, R787). -/
def execTxwSend (lane : Fin 64) (s : State) : Out :=
  let n := txLane s lane.val
  match (laneOf s lane.val).txq with
  | [] => .next s
  | w :: l =>
    if wordDueSoon s n || !(laneOf s n).sched.isEmpty || laneBusy s n || s.pwr.mode = .frozen then .next s
    else .next (launchWord n w (modLane lane.val (fun x => { x with txq := l }) s))

/-! ### Read ports (R166-R171) -/

/-- All records of an LFI in order: the bank not being written holds the older ones. -/
def lfiRecs (x : Lfi) : List LfiRec := bankRecs x (!x.wbank) ++ bankRecs x x.wbank

/-- The record a port reads next from one LFI: the first at or after its position. -/
def portRecAt (s : State) (b p m : Nat) : Option LfiRec :=
  (lfiRecs (lfiOf s m)).find? fun r => decide (r.no ≥ tabGet 0 (portOf s b p).pos m)

/-- The current record of a port (R167). -/
def portRec (s : State) (b p : Nat) : Option LfiRec := portRecAt s b p (b + (portOf s b p).turn)

/-- LFIs of the bond of a base. -/
def bondLfis (s : State) (b : Nat) : List Nat := (List.range (bondOf s b).2).map (b + ·)

/-- Mark records of an LFI as freed by a port when a condition holds. -/
def freeRecs (p m : Nat) (c : LfiRec → Bool) (s : State) : State :=
  let one (r : LfiRec) : LfiRec :=
    if c r then (if p = 0 then { r with freed0 := true } else { r with freed1 := true }) else r
  modLfi m (fun x => { x with bankA := x.bankA.map one, bankB := x.bankB.map one }) s

/-- A port moves past its current record; the next line is L + 1, or line 0 after the last (R167). -/
def portNext (b p : Nat) (r : LfiRec) (s : State) : State :=
  let w := (bondOf s b).2
  let m := b + (portOf s b p).turn
  let turn := if r.line + 1 < fld s F.LANE_LCFG_ALINES b then (r.line + 1) % w else 0
  let s := modPort b p (fun x => { x with pos := tabSet 0 x.pos m (r.no + 1), turn := turn, word := 0, seq := x.seq + 1 }) s
  if lfiDropMode s b then freeRecs p m (fun q => decide (q.no ≤ r.no)) s else s

/-- A port has read at every LFI of its bond: the idle notice ends (R171). -/
def portRead (b p : Nat) (s : State) : State :=
  forEach (bondLfis s b) (modLfi · (fun x =>
    if p = 0 then { x with idle0 := false, read0 := s.now } else { x with idle1 := false, read1 := s.now })) s

/-- A record that a port has not finished stands in an LFI. -/
def portUnread (s : State) (p m : Nat) : Option LfiRec := portRecAt s (lfiBase s m) p m

/-- The idle notices of a bond end where nothing unread remains (R171). -/
def idleSettle (b : Nat) (s : State) : State :=
  forEach (bondLfis s b) (fun m s =>
    let e0 := (portUnread s 0 m).isNone
    let e1 := (portUnread s 1 m).isNone
    modLfi m (fun x => { x with idle0 := x.idle0 && !e0, idle1 := x.idle1 && !e1 }) s) s

/-- A port operation: OPERR on a port that is not enabled (notes/assumptions/12.md), else the operation. -/
def portOp (b p : Nat) (f : State → Option State) (s : State) : State :=
  let bad (s : State) : State := modPort b p (fun x => { x with operr := true, out := [] }) s
  if !portOn s b p then bad s
  else
    match f s with
    | some t => modPort b p (fun x => { x with operr := false }) t
    | none => bad s

/-- READ of up to `k` words (R166): stalls until a record is readable. -/
def portReadOp (b p k : Nat) (s : State) : State :=
  match portRec s b p with
  | none => modPort b p (fun x => { x with out := [] }) s
  | some r =>
    let w := (portOf s b p).word
    let out := (r.data.drop w).take k
    let s := modPort b p (fun x => { x with out := out, head := recWord r, word := w + out.length }) (portRead b p s)
    idleSettle b (if w + out.length ≥ r.data.length then portNext b p r s else s)

/-- MARK, REWIND and RELEASE exist in mark-and-rewind mode only (R166). -/
def markMode (s : State) (b : Nat) (t : State) : Option State := if lfiDropMode s b then none else some t

/-- MARK (R166). -/
def portMark (b p : Nat) (s : State) : Option State :=
  markMode s b (modPort b p (fun x => { x with mark := some (x.pos, x.turn, x.seq) }) s)

/-- REWIND (R166): OPERR without a mark. -/
def portRewind (b p : Nat) (s : State) : Option State :=
  match (portOf s b p).mark with
  | none => none
  | some (pos, turn, q) => markMode s b (modPort b p (fun x => { x with pos := pos, turn := turn, seq := q, word := 0 }) s)

/-- RELEASE (R166, R167): every line before the current line, and a mark among them. -/
def portRelease (b p : Nat) (s : State) : Option State :=
  let x := portOf s b p
  let past := match x.mark with
    | some (pos, _) => (bondLfis s b).any fun m => decide (tabGet 0 pos m < tabGet 0 x.pos m)
    | none => false
  let s' := forEach (bondLfis s b) (fun m s => freeRecs p m (fun r => decide (r.no < tabGet 0 x.pos m)) s) s
  markMode s b (modPort b p (fun x => { x with mark := if past then none else x.mark }) s')

/-- DROP (R166); with no readable record it moves nothing. -/
def portDrop (b p : Nat) (s : State) : Option State :=
  match portRec s b p with
  | none => some s
  | some r => some (idleSettle b (portNext b p r s))

/-- LFI_READ (R166-R168). -/
def execLfiRead (base : Fin 64) (port : Fin 2) (words : BitVec 14) (s : State) : Out :=
  let b := lfiBase s base.val
  .next (portOp b port.val (fun s => some (portReadOp b port.val words.toNat s)) s)

/-- LFI_MARK (R166). -/
def execLfiMark (base : Fin 64) (port : Fin 2) (s : State) : Out :=
  let b := lfiBase s base.val
  .next (portOp b port.val (portMark b port.val) s)

/-- LFI_REWIND (R166). -/
def execLfiRewind (base : Fin 64) (port : Fin 2) (s : State) : Out :=
  let b := lfiBase s base.val
  .next (portOp b port.val (portRewind b port.val) s)

/-- LFI_RELEASE (R166, R168). -/
def execLfiRelease (base : Fin 64) (port : Fin 2) (s : State) : Out :=
  let b := lfiBase s base.val
  .next (portOp b port.val (portRelease b port.val) s)

/-- LFI_DROP (R166, R168). -/
def execLfiDrop (base : Fin 64) (port : Fin 2) (s : State) : Out :=
  let b := lfiBase s base.val
  .next (portOp b port.val (portDrop b port.val) s)

/-- A flushed LFI: both banks returned, no episode, record numbers going on. -/
def lfiFlushed (n : Nat) (s : State) : State :=
  modLfi n (fun x => { x with bankA := [], bankB := [], lastFrame := none, idle0 := false, idle1 := false }) s

/-- FLUSH (LFI_CMD): BUSY while either port is enabled. -/
def execLfiFlush (req : Req) (lfi : Fin 64) (s : State) : Out :=
  let n := lfi.val
  .next (regCommit .LFI_CMD 0 n ⟨req, .normal, 1⟩ (fun _ => busyIf (portOn s n 0 || portOn s n 1)) anyOk
    (fun _ => lfiFlushed n) s)

/-- A port's idle condition at an LFI (R171): it runs from the port's last READ, or from when its oldest unread record
became readable (notes/assumptions/12.md). -/
def idleDue (s : State) (n p : Nat) : Bool :=
  let t := fld s F.LFI_CFG_IDLE 0 n
  let x := lfiOf s n
  match portUnread s p n with
  | none => false
  | some r =>
    portOn s n p && decide (t ≠ 0) && !(if p = 0 then x.idle0 else x.idle1) &&
      decide (s.now ≥ max (if p = 0 then x.read0 else x.read1) r.ready + t * 1000)

/-- LFI_IDLE_NOTICE (R171). -/
def execLfiIdleNotice (lfi : Fin 64) (s : State) : Out :=
  let n := lfi.val
  let d0 := idleDue s n 0
  let d1 := idleDue s n 1
  if d0 || d1 then
    let was := (lfiOf s n).idle0 || (lfiOf s n).idle1
    let s := modLfi n (fun x => { x with idle0 := x.idle0 || d0, idle1 := x.idle1 || d1 }) s
    .next (if was then s else raise 710 (bump F.LFI_CNT_NOTICE s 0 n))
  else .next s

/-! ### LFI configuration (R167, R170) -/

/-- A port newly enabled starts at the next record written (notes/assumptions/12.md). -/
def portStart (b p : Nat) (s : State) : State :=
  let pos := (bondLfis s b).foldl (fun m n => tabSet 0 m n (lfiOf s n).nextNo) []
  let next (j : Nat) : Nat := if (laneOf s (b + j)).isOpen then (laneOf s (b + j)).exp else j
  let turn := (List.range (bondOf s b).2).foldl (fun t j => if next j < next t then j else t) 0
  let s := modPort b p (fun x => { LfiPort.reset with user := x.user, pos := pos, turn := turn }) s
  forEach (bondLfis s b) (modLfi · (fun x =>
    if p = 0 then { x with read0 := s.now, idle0 := false } else { x with read1 := s.now, idle1 := false })) s

/-- The effect of a commit of LFI_CFG on the ports it switches. -/
def lfiCfgEffect (n : Nat) (old s : State) : State :=
  let was (p : Nat) : Bool := flag old (if p = 0 then F.LFI_CFG_P0EN else F.LFI_CFG_P1EN) 0 n
  let is_ (p : Nat) : Bool := flag s (if p = 0 then F.LFI_CFG_P0EN else F.LFI_CFG_P1EN) 0 n
  forEach [0, 1] (fun p s =>
    if is_ p && !was p then portStart n p s
    else if was p && !is_ p then modPort n p (fun x => { LfiPort.reset with user := x.user }) s else s) s

/-- The reserved values of R170. -/
def lfiCfgOk (n : Nat) (s : State) (v : List Nat) : Bool :=
  let l := valOf v F.LFI_CFG_LPB
  if valOf v F.LFI_CFG_P0EN = 0 && valOf v F.LFI_CFG_P1EN = 0 then true
  else decide (1 ≤ l) && decide (l ≤ 256) &&
    (valOf v F.LFI_CFG_MODE = 1 || decide (l * lineWords s n ≤ 10752))

/-- A change of MODE or LPB while a port is enabled (R170). -/
def lfiCfgBusy (n : Nat) (s : State) (v : List Nat) : Option Berr :=
  busyIf ((flag s F.LFI_CFG_P0EN 0 n || flag s F.LFI_CFG_P1EN 0 n) &&
    (valOf v F.LFI_CFG_MODE != fld s F.LFI_CFG_MODE 0 n || valOf v F.LFI_CFG_LPB != fld s F.LFI_CFG_LPB 0 n))

/-! ### Swatch handles -/

/-- SWT_BUF_QUEUE (R178): BUSY with two handles queued. -/
def execSwtBufQueue (swt : Fin 64) (a : Acc) (s : State) : Out :=
  let n := swt.val
  .next (regCommit .SWT_BUF 0 n a (fun _ => busyIf (decide ((swtOf s n).queue.length ≥ 2))) anyOk
    (fun v => modSwt n (fun w => { w with queue := w.queue ++ [valOf v F.SWT_BUF_HANDLE] })) s)

end Sys2Proof.Machine
end

