-- ==== Sys2Proof/Machine/Crc.lean ====
section
/-! DEFINITION. CRC-32C over bytes, least significant bit first (spec/14 R587). -/

namespace Sys2Proof.Machine

/-- One reflected step of CRC-32C. -/
def crc32cBits : Nat → Nat → Nat
  | 0, c => c
  | n + 1, c => crc32cBits n (if c % 2 = 1 then c / 2 ^^^ 0x82F63B78 else c / 2)

/-- CRC-32C of bytes (R587). -/
def crc32c (l : List Nat) : Nat := l.foldl (fun c b => crc32cBits 8 (c ^^^ (b % 256))) 0xFFFFFFFF ^^^ 0xFFFFFFFF

end Sys2Proof.Machine
end

