-- ==== Sys2Proof/Machine/Ledger.lean ====
section
/-! DEFINITION. The Ledger, the Tally and the awning responder (spec/21). -/

namespace Sys2Proof.Machine

/-! ### The array (R807, R810) -/

/-- Change the Ledger. -/
def modLdg (f : Ldg → Ldg) (s : State) : State := { s with ldg := f s.ldg }

/-- The first 64 bytes of the identity block: MAGIC, format, SYS_UID, CRC (R807). -/
def identUnit : List Nat :=
  let b := leBytes 4 0x47444C54 ++ leBytes 2 1 ++ leBytes 8 Config.uid.toNat ++ List.replicate 46 0
  b ++ leBytes 4 (crc32c b)

/-- The bytes of a 64-byte unit; the identity block is fixed at test. -/
def ldgUnit (s : State) (u : Nat) : List Nat := if u = 0 then identUnit else leBytes 64 (tabGet 0 s.ldg.units u)

/-- Store a unit. -/
def putUnit (u : Nat) (b : List Nat) (s : State) : State :=
  modLdg (fun l => { l with units := tabSet 0 l.units u (leNat (b.take 64)) }) s

/-- The unit of a journal slot. -/
def slotUnit (i : Nat) : Nat := 8256 + i % 57280

/-- Slots of the journal ring. -/
def ldgRingSlots : Nat := 57280

/-- The slot after a slot. -/
def nextSlot (i : Nat) : Nat := if i ≥ 57279 then 0 else i + 1

/-- The 64 bytes of a record with its SEQ (R810). -/
def recBytes (r : LdgRec) (seq : Nat) : List Nat :=
  let b := [r.type % 128 + b2n r.carry * 128, r.mode] ++ leBytes 2 r.part ++ leBytes 4 seq ++ leBytes 8 r.time ++
    (r.payload ++ List.replicate 44 0).take 44
  b ++ leBytes 4 (crc32c b)

/-- The record that 64 bytes hold; none when the CRC fails. -/
def recOf (b : List Nat) : Option LdgRec :=
  if dLe b 0x3C 4 = crc32c (b.take 60) then
    some ⟨dLe b 0 1 % 128, decide (dLe b 0 1 ≥ 128), dLe b 1 1, dLe b 2 2, dLe b 4 4, dLe b 8 8, (b.drop 16).take 44⟩
  else none

/-- The valid records of the journal with their slots. -/
def journal (s : State) : List (Nat × LdgRec) :=
  (s.ldg.units.filter fun e => decide (8256 ≤ e.1)).filterMap fun e =>
    (recOf (leBytes 64 e.2)).map fun r => (e.1 - 8256, r)

/-- How far a SEQ lies behind the head's (R815). -/
def recAge (s : State) (r : LdgRec) : Nat := (s.ldg.headSeq + 2 ^ 32 - r.seq) % 2 ^ 32

/-- The newer of two records. -/
def newerRec (s : State) (a b : Nat × LdgRec) : Nat × LdgRec := if recAge s a.2 ≤ recAge s b.2 then a else b

/-- The newest record that satisfies a test. -/
def newestRec (s : State) (p : LdgRec → Bool) : Option (Nat × LdgRec) :=
  match (journal s).filter fun e => p e.2 with
  | [] => none
  | e :: t => some (t.foldl (newerRec s) e)

/-! ### Live records (R816) -/

/-- The match of a SEED record: SEEDKEY to GOPMODE (R427, R811). -/
def seedMatch (r : LdgRec) : List Nat := r.payload.take 13

/-- SNAPNO of a TALLY record. -/
def snapNo (r : LdgRec) : Nat := dLe r.payload 0 4

/-- The parts of a snapshot held. -/
def snapParts (s : State) (no : Nat) : List (Nat × LdgRec) :=
  (journal s).filter fun e => e.2.type == 7 && snapNo e.2 == no

/-- Every part of a snapshot is present (R819). -/
def snapWhole (s : State) (no : Nat) : Bool := (List.range 310).all fun p => (snapParts s no).any fun e => e.2.part == p

/-- The newest complete snapshot. -/
def newestSnap (s : State) : Option Nat :=
  (newestRec s fun r => r.type == 7 && snapWhole s (snapNo r)).map fun e => snapNo e.2

/-- No other record of the same kind is newer. -/
def isNewest (s : State) (r : LdgRec) (same : LdgRec → Bool) : Bool :=
  (journal s).all fun e => !same e.2 || decide (recAge s r ≤ recAge s e.2)

/-- A record is live (R816). -/
def isLive (s : State) (r : LdgRec) : Bool :=
  match r.type with
  | 4 => isNewest s r fun q => q.type == 4 && q.payload.getD 1 0 == r.payload.getD 1 0
  | 5 =>
    isNewest s r (fun q => q.type == 5 && seedMatch q == seedMatch r) &&
      decide ((((journal s).filter fun e => e.2.type == 5 && decide (recAge s e.2 < recAge s r)).map
        fun e => seedMatch e.2).eraseDups.length < 1024)
  | 6 => isNewest s r fun q => q.type == 6
  | 7 => newestSnap s == some (snapNo r)
  | 8 =>
    let ev := r.payload.getD 0 0
    3 ≤ ev && ev ≤ 6 && isNewest s r fun q => q.type == 8 && q.payload.getD 0 0 == ev
  | _ => false

/-! ### Snapshots (R819-R822) -/

/-- Change the Tally. -/
def modTly (f : Tly → Tly) (s : State) : State := { s with tly := f s.tly }

/-- The 40 data bytes of a part of a snapshot (R819). -/
def snapData (x : Snap) (p : Nat) : List Nat :=
  if p < 86 then (List.range 6).flatMap fun i => if 6 * p + i < 512 then leBytes 6 (tabGet 0 x.cnt (6 * p + i)) else leBytes 6 0
  else
    let h := (p - 86) / 7
    let k := (p - 86) % 7
    (List.range 10).flatMap fun i => if 10 * k + i < 64 then leBytes 4 (tabGet 0 x.hist (64 * h + 10 * k + i)) else leBytes 4 0

/-- A snapshot captures every counter and bin in one cycle (R819). -/
def snapStart (s : State) : State :=
  modTly (fun t => { t with snap := some ⟨t.no + 1, t.cnt, t.hist, 0⟩, no := t.no + 1, waiting := false }) s

/-- A snapshot becomes due: it waits while another is being written (R821). -/
def snapDue (s : State) : State :=
  if s.tly.snap.isSome then modTly (fun t => { t with waiting := true }) s else snapStart s

/-- The last part of a snapshot is written (R820). -/
def snapDone (x : Snap) (s : State) : State :=
  let s := raise 787 (setFld F.TLY_STAT_SNAPNO x.no (modTly (fun t => { t with snap := none }) s))
  if s.tly.waiting then snapStart s else s

/-! ### Writing (R812, R813, R816) -/

/-- The record next to be written and where it comes from: power-fail records, the queue, a snapshot's next part. -/
def nextRecord (s : State) : Option (LdgRec × Nat) :=
  match s.ldg.pfail, s.ldg.queue, s.tly.snap with
  | r :: _, _, _ => some (r, 0)
  | [], r :: _, _ => some (r, 1)
  | [], [], some x => some (mkRec s 7 x.next (leBytes 4 x.no ++ snapData x x.next), 2)
  | [], [], none => none

/-- A record written leaves the place it waited in. -/
def recordTaken (src : Nat) (s : State) : State :=
  match src with
  | 0 => modLdg (fun l => { l with pfail := l.pfail.drop 1 }) s
  | 1 => modLdg (fun l => { l with queue := l.queue.drop 1 }) s
  | _ =>
    match s.tly.snap with
    | some x =>
      if x.next ≥ 309 then snapDone x s else modTly (fun t => { t with snap := some { x with next := x.next + 1 } }) s
    | none => s

/-- Write 64 bytes into the slot after the head's, which becomes the head. -/
def writeSlot (b : List Nat) (seq : Nat) (s : State) : State :=
  let i := nextSlot s.ldg.headSlot
  modLdg (fun l => { l with headSlot := i, headSeq := seq, anyRecord := true }) (putUnit (slotUnit i) b s)

/-- A write that does not read back equal: the slot holds what it holds, the record is written again into the next
(R812). -/
def writeFailed (s : State) : State :=
  let i := nextSlot s.ldg.headSlot
  let junk := leBytes 64 (Config.freeNat 40 s.free [i])
  let s := modLdg (fun l => { l with headSlot := i }) (putUnit (slotUnit i) junk (takeFree s))
  report 0x1D 0 (i * 65536 + 2) 255 s

/-- LEDGER_RECORD_WRITE: the next record, or the carried copy of the live record in its way (R812, R813, R816). -/
def execLedgerRecordWrite (readback : Bool) (s : State) : Out :=
  if !s.ldg.ready || !baseUp s then .next s
  else
    match nextRecord s with
    | none => .next s
    | some (r, src) =>
      if !readback then .next (writeFailed s)
      else
        let seq := (s.ldg.headSeq + 1) % 2 ^ 32
        let i := nextSlot s.ldg.headSlot
        match (recOf (ldgUnit s (slotUnit i))).filter (isLive s) with
        | some q =>
          .next (tally 438 (bump F.LDG_CNT1_CARRIED (writeSlot (recBytes { q with carry := true } seq) seq s)))
        | none => .next (tally 438 (recordTaken src (writeSlot (recBytes r seq) seq s)))

/-- The head found by a scan (R815). -/
def scanHead (l : List (Nat × LdgRec)) : Option (Nat × LdgRec) :=
  match l with
  | [] => none
  | e :: t => some (t.foldl (fun a b => if (b.2.seq + 2 ^ 32 - a.2.seq) % 2 ^ 32 < 2 ^ 31 then b else a) e)

/-- LEDGER_SCAN (R808, R809, R815): slots with an uncorrectable word count as failing their CRC. -/
def execLedgerScan (identity : Bool) (corrected : BitVec 16) (bad : List (Fin 57280)) (s : State) : Out :=
  if !baseUp s || s.ldg.ready || !s.ldg.idOk then .next s
  else
    let s := bump F.LDG_CNT0_CORR s 0 0 corrected.toNat
    let s := forEach bad (fun i s =>
      if tabGet 0 s.ldg.units (slotUnit i.val) = 0 then s
      else
        let s := bump F.LDG_CNT0_DISCARD (modLdg (fun l => { l with units := tabErase l.units (slotUnit i.val) }) s)
        report 0x1D 0 (i.val * 65536 + 1) 255 s) s
    let failed := (s.ldg.units.filter fun e => decide (8256 ≤ e.1) && (recOf (leBytes 64 e.2)).isNone).length
    let s := bump F.LDG_CNT0_DISCARD s 0 0 failed
    let s := match scanHead (journal s) with
      | some (i, r) => modLdg (fun l => { l with headSlot := i, headSeq := r.seq, anyRecord := true }) s
      | none => s
    if identity then .next (modLdg (fun l => { l with ready := true }) s)
    else .next (report 0x1D 0 4 255 (modLdg (fun l => { l with idOk := false }) s))

/-- LDG_UREC (R811): a USER record; refused while the queue is full. -/
def execLdgUrec (req : Req) (payload : BitVec 352) (s : State) : Out :=
  let p := payload.toNat
  let ws := (List.range 11).map (fun w => bitsOf p (32 * w) 32) ++ [0]
  .next (commitWords .LDG_UREC 0 0 req ws (fun _ => busyIf (decide (s.ldg.queue.length ≥ 32))) anyOk
    (fun v s => ldgPush (mkRec s 9 0 ((v.take 11).flatMap (leBytes 4))) s) s)

/-! ### The Tally's commands -/

/-- SNAP (R820). -/
def execTlySnap (req : Req) (s : State) : Out :=
  .next (regCommit .TLY_CMD 0 0 ⟨req, .normal, 1⟩ (fun _ => busyIf s.tly.snap.isSome) anyOk (fun _ => snapDue) s)

/-- TALLY_SNAPSHOT_HOURLY (R820). -/
def execTallySnapshotHourly (s : State) : Out :=
  .next (if baseUp s && decide (s.now ≥ s.tly.hourAt) then
    snapDue (modTly (fun t => { t with hourAt := s.now + 3600000000000 }) s)
  else s)

/-- Add one to a bin of a histogram (R818). -/
def histBump (h b : Nat) (s : State) : State :=
  modTly (fun t => { t with hist := tabMod 0 t.hist (64 * h + b) (fun v => satAdd v 1 (2 ^ 32 - 1)) }) s

/-- Confine a number to the bins 0 to 63. -/
def binOf (x : Int) : Nat := (max 0 (min 63 x)).toNat

/-- The least k with 2^k ≥ n; `m` bounds it. -/
def log2Ceil : Nat → Nat → Nat
  | 0, _ => 0
  | m + 1, n => if n ≤ 1 then 0 else 1 + log2Ceil m ((n + 1) / 2)

/-- TALLY_HISTOGRAM_SAMPLE: one second passes (R818). `supplies` are deviations in units of 0.01 %, `use` the shares in
units of 2⁻¹⁶. -/
def execTallyHistogramSample (supplies : List Int) (use : List Nat) (s : State) : Out :=
  if !baseUp s || decide (s.now < s.tly.secAt) then .next s
  else
    let s := modTly (fun t => { t with secAt := s.now + 1000000000 }) s
    let s := if s.pwr.mode.code ≥ 2 then tally (s.pwr.mode.code - 2) s else s
    let s := histBump 0 (binOf ((s.pwr.tj + 20) / 2)) s
    let s := forEach (List.range 6) (fun i s => histBump (1 + i) (binOf (32 + supplies.getD i 0 / 25)) s) s
    let s := forEach (List.range 4) (fun i s => histBump (7 + i) (min 63 (use.getD i 0 * 64 / 65536)) s) s
    let o := (tabGet Ptp.reset s.ptp s.rck.sel).ofs
    let s := histBump 11 (min 63 (log2Ceil 64 (o.natAbs + 1))) s
    .next (histBump 12 (binOf (32 + s.rck.corr * 2000000 / 2 ^ 40)) s)

/-- Counters and bins of a snapshot held in the journal (R819). -/
def snapValues (s : State) (no : Nat) : Tab Nat × Tab Nat :=
  let part (p : Nat) : List Nat := match (snapParts s no).find? fun e => e.2.part == p with | some e => e.2.payload.drop 4 | none => []
  let cnt := (List.range 512).foldl (fun m c => tabSet 0 m c (dLe (part (c / 6)) (6 * (c % 6)) 6)) []
  let hist := (List.range 2048).foldl (fun m b =>
    tabSet 0 m b (dLe (part (86 + 7 * (b / 64) + b % 64 / 10)) (4 * (b % 64 % 10)) 4)) []
  (cnt, hist)

/-- Add the counts of one table to another, saturating. -/
def addCounts (m : Nat) (a b : Tab Nat) : Tab Nat := b.foldl (fun t e => tabMod 0 t e.1 (fun v => satAdd v e.2 m)) a

/-- TALLY_LOAD: the newest complete snapshot, with the increments made before it (R822). -/
def execTallyLoad (s : State) : Out :=
  if !baseUp s || !s.ldg.ready || s.tly.loaded then .next s
  else
    let s := modTly (fun t => { t with loaded := true }) s
    match newestRec s (fun r => r.type == 7), newestSnap s with
    | none, _ => .next s
    | some (_, r), none => .next (report 0x1E 0 2 255 (modTly (fun t => { t with no := snapNo r }) s))
    | some (_, r), some no =>
      let v := snapValues s no
      let s := modTly (fun t => { t with
        cnt := addCounts (2 ^ 48 - 1) v.1 t.cnt, hist := addCounts (2 ^ 32 - 1) v.2 t.hist, no := snapNo r }) s
      let s := setFld F.TLY_STAT_SNAPNO no s
      .next (if snapNo r ≠ no then report 0x1E 0 (no % 65536 * 65536 + 1) 255 s else s)

/-- TLY_INC (R818). -/
def execTlyInc (a : Acc) (s : State) : Out :=
  .next (regCommit .TLY_INC 0 0 a neverBusy anyOk
    (fun v => tallyAdd (448 + valOf v F.TLY_INC_INDEX) (valOf v F.TLY_INC_AMOUNT)) s)

/-- TLY_HINC (R818). -/
def execTlyHinc (a : Acc) (s : State) : Out :=
  .next (regCommit .TLY_HINC 0 0 a neverBusy anyOk
    (fun v => histBump (24 + valOf v F.TLY_HINC_HIST) (valOf v F.TLY_HINC_BIN)) s)

/-! ### The awning responder (R823-R825) -/

/-- The responder takes a frame: its address, and LIVE outside AWNING (R823); the UID names any device or this one. -/
def rspTakes (s : State) (dst : BitVec 48) (uid : DWord) : Bool :=
  let own := 0x020000000000 + Config.uid.toNat % 2 ^ 40
  (dst.toNat == 2 ^ 48 - 1 || dst.toNat == own) && (uid == 0 || uid == Config.uid) &&
    (match s.pwr.mode with | .off => false | .awning => true | _ => flag s F.LDG_RSPCFG_LIVE)

/-- Answer a request: one at a time, for as long as its frame takes at 1 Gb/s (R824, R825). -/
def rspAnswer (op status : Nat) (tag : Byte) (data : List Nat) (s : State) : State :=
  if s.now < s.ldg.rspUntil then bump F.LDG_RSPCNT_DROP s
  else
    let b := [op + 0x80, status, tag.toNat, s.pwr.mode.code] ++ leBytes 8 Config.uid.toNat ++ data
    let until_ := s.now + 8 * (38 + max 46 b.length)
    bump F.LDG_RSPCNT_ANSWERED (modLdg (fun l => { l with rsp := b, rspUntil := until_ }) s)

/-- IDENT (R824). -/
def execRspIdent (dst : BitVec 48) (tag : Byte) (uid : DWord) (s : State) : Out :=
  .next (if rspTakes s dst uid then
    rspAnswer 1 0 tag (identUnit ++ leBytes 4 s.ldg.headSeq ++ leBytes 4 s.ldg.headSlot) s
  else s)

/-- READ: COUNT 1 to 16 units; STATUS 1 when the range passes unit 65,535 (R824). -/
def execRspRead (dst : BitVec 48) (tag : Byte) (unit : BitVec 16) (count : Byte) (uid : DWord) (s : State) : Out :=
  let n := count.toNat
  if !rspTakes s dst uid || n = 0 || n > 16 then .next s
  else if unit.toNat + n > 65536 then .next (rspAnswer 2 1 tag [] s)
  else .next (rspAnswer 2 0 tag ((List.range n).flatMap fun i => ldgUnit s (unit.toNat + i)) s)

/-- WAKE_REQUEST: a wake under R789; STATUS 2 with WAKEEN = 0 (R824). -/
def execRspWake (dst : BitVec 48) (tag : Byte) (uid : DWord) (s : State) : Out :=
  if !rspTakes s dst uid then .next s
  else if !flag s F.LDG_RSPCFG_WAKEEN then .next (rspAnswer 3 2 tag [] s)
  else
    let s := if s.pwr.mode = .awning then { s with pwr := { s.pwr with wake := true, holdaw := false } } else s
    .next (rspAnswer 3 0 tag [] s)

/-! ### Equivalence slots (R807, R817) and power -/

/-- The equivalence slot, 0 or 1, that the newest SEC event 6 record does not name (R817). -/
def freeEquivSlot (s : State) : Nat :=
  match newestRec s fun r => r.type == 8 && r.payload.getD 0 0 == 6 with
  | some (_, r) => 1 - r.payload.getD 3 0 % 2
  | none => 0

/-- Write an image into an equivalence slot. -/
def writeEquiv (slot : Nat) (b : List Nat) (s : State) : State :=
  forEach (List.range ((b.length + 63) / 64)) (fun i s =>
    putUnit (64 + 4096 * slot + i) (((b.drop (64 * i)).take 64) ++ List.replicate 64 0) s) s

/-- The base domain goes down: the queue, a snapshot being written and the live counts are lost (R827). -/
def ldgDown (s : State) : State :=
  let s := modLdg (fun l => { l with ready := false, idOk := true, queue := [], pfail := [] }) s
  modTly (fun _ => { Tly.reset with hourAt := s.now + 3600000000000, secAt := s.now + 1000000000 }) s

end Sys2Proof.Machine
end

