-- ==== Sys2Proof/Machine/Mailbox.lean ====
section
/-! DEFINITION. Mailboxes and semaphores (spec/17 R690-R702; spec/18 R728, R729). -/

namespace Sys2Proof.Machine

/-! ### Mailboxes -/

/-- A mailbox. -/
def mbxOf (s : State) (m : Nat) : Mbx := tabGet .reset s.mbx m

/-- Change a mailbox. -/
def modMbx (m : Nat) (f : Mbx → Mbx) (s : State) : State := { s with mbx := tabMod .reset s.mbx m f }

/-- The mailboxes that form a crossed pair with one (R697). -/
def crossWith (s : State) (a : Nat) : List Nat :=
  let x := mbxOf s a
  (List.range 256).filter fun b =>
    decide (b ≠ a) && x.tmo && (mbxOf s b).tmo && decide ((mbxOf s b).rcv = x.snd) && decide ((mbxOf s b).snd = x.rcv)

/-- Pairs that rise with mailbox `a`, given those that stood before: each is reported once (R697). -/
def crossRise (a : Nat) (before : List Nat) (s : State) : State :=
  forEach ((crossWith s a).filter fun b => !before.contains b) (fun b s =>
    let lo := min a b
    let hi := max a b
    report 0x13 0 (hi * 256 + lo) (mbxOf s lo).snd (bump F.MBX_CNT_CROSS s)) s

/-- The message of a mailbox is read: FULL clears, and a remote sender is told (R694, R695, R729). -/
def mbxClear (m : Nat) (s : State) : State :=
  let x := mbxOf s m
  if !x.full then s
  else
    let s := modMbx m (fun x => { x with full := false, coll := false, tmo := false, origin := none }) s
    match x.origin with
    | some (dev, box) => sendMsg dev (.mbxAck box) s
    | none => s

/-- A needle clears its MBX input: every mailbox of it that is full is read (R692). -/
def mbxTaken (n : Nat) (s : State) : State :=
  forEach ((List.range 256).filter fun m => (mbxOf s m).full && decide ((mbxOf s m).rcv = n)) mbxClear s

/-- A message's three words (MBX_MSG). -/
def msgWords (s : State) (m : Nat) : List Nat := (List.range 3).map fun w => rword s .MBX_MSG 0 m w

/-- The wake event of a mailbox write for a receiver whose domain is down (R690, R780). -/
def mbxWake (rcv : Nat) (s : State) : State :=
  let dropped (s : State) : State := raise 775 (bump F.PWR_CNT_WAKEDROP s)
  if 128 ≤ rcv && rcv < 136 then
    let d := 192 + (rcv - 128)
    if domUp s d then s
    else if bitAt (fld s F.PWR_WAKEEN_CORE) (rcv - 128) && requiresUp s d then askUp d s
    else dropped s
  else if 224 ≤ rcv && rcv < 232 then
    let d := 190 + (rcv - 224) / 4
    if domUp s d then s else if requiresUp s d then askUp d s else dropped s
  else s

/-- A message goes over Stitch to the mailbox of STH_MBXR (R728): over the link named, or by the route to its device. -/
def mbxRemote (m k payload tag : Nat) (s : State) : State :=
  let dev := fld s F.STH_MBXR_DEV 0 m
  let msg := StMsg.mbx m (fld s F.STH_MBXR_RMBX 0 m) payload tag
  if (linkOf s k).st = .up && (linkOf s k).peer = dev then linkSend k s.sth.devNo dev msg s else sendMsg dev msg s

/-- What the receiver of a write gets (R692, R693, R728). -/
def mbxNotify (m payload tag : Nat) (s : State) : State :=
  let x := mbxOf s m
  if x.rcv < 128 then
    if domUp s (128 + x.rcv / 8) then
      ndlIrq x.rcv 1 (skmPut (x.rcv / 8) x.skword (BitVec.ofNat 72 (payload + tag * 2 ^ 64)) s)
    else s
  else if x.rcv < 136 then raise (721 + (x.rcv - 128)) s
  else if 224 ≤ x.rcv && x.rcv < 232 then mbxRemote m (x.rcv - 224) payload tag s
  else s

/-- A write of a mailbox (R690, R692-R695, R697). -/
def mbxWrite (m req payload tag : Nat) (origin : Option (Nat × Nat)) (s : State) : State :=
  let x := mbxOf s m
  if !x.en then s
  else
    let before := crossWith s m
    let s := setRword .MBX_MSG 0 m 0 (payload % 2 ^ 32) (setRword .MBX_MSG 0 m 1 (payload / 2 ^ 32 % 2 ^ 32)
      (setRword .MBX_MSG 0 m 2 (tag % 256) s))
    let s := if x.full then bump F.MBX_CNT_COLL s else s
    let s := modMbx m (fun x => { x with
      full := true, coll := x.full, snd := req, fullAt := if x.full then x.fullAt else s.now, origin := origin }) s
    mbxNotify m payload tag (mbxWake x.rcv (crossRise m before s))

/-- A commit of MBX_MSG writes its mailbox. -/
def mbxMsgEffect (m req : Nat) (v : List Nat) (s : State) : State :=
  mbxWrite m req (v.getD 0 0 + v.getD 1 0 * 2 ^ 32) (v.getD 2 0 % 256) none s

/-- MAILBOX_WRITE (R690). -/
def execMailboxWrite (req : Req) (box : Fin 256) (payload : DWord) (tag : Byte) (s : State) : Out :=
  let m := box.val
  let p := payload.toNat
  let put (w v : Nat) (s : State) : State :=
    writeOne .MBX_MSG 0 m w ⟨req, .normal, BitVec.ofNat 32 v⟩ neverBusy anyOk false (mbxMsgEffect m req.val) s
  .next (put 2 tag.toNat (put 1 (p / 2 ^ 32) (put 0 (p % 2 ^ 32) s)))

/-- A read of word 0 of MBX_MSGm: the receiver's read takes the message (R694). -/
def mbxServe (req m : Nat) (s : State) : State :=
  let ws := msgWords s m
  let s := answer req (ws.getD 0 0) (latchWords .MBX_MSG req 0 m ws s)
  if (mbxOf s m).rcv = req && req < 136 then mbxClear m s else s

/-- MAILBOX_READ (R694). -/
def execMailboxRead (req : Req) (box : Fin 256) (s : State) : Out :=
  .next (readServed .MBX_MSG 0 box.val req (mbxServe req.val box.val) s)

/-- MAILBOX_TIMEOUT: FULL has been 1 for MBX_TMO µs (R696). -/
def execMailboxTimeout (box : Fin 256) (s : State) : Out :=
  let m := box.val
  let x := mbxOf s m
  if x.full && !x.tmo && decide (s.now ≥ x.fullAt + fld s F.MBX_TMO_TMO * 1000) then
    let s := modMbx m (fun x => { x with tmo := true }) s
    .next (crossRise m [] (raise 729 (bump F.MBX_CNT_TMO s)))
  else .next s

/-- Receiver IDs that exist, and SKWORD for needles only (MBX_CFG). -/
def mbxCfgOk (v : List Nat) : Bool :=
  let r := valOf v F.MBX_CFG_RCV
  valOf v F.MBX_CFG_EN == 0 ||
    (decide (r < 128) || ((decide (r < 136) || (decide (224 ≤ r) && decide (r < 232))) && valOf v F.MBX_CFG_SKWORD == 0))

/-- A commit to a full mailbox is refused (MBX_CFG). -/
def mbxCfgBusy (s : State) (v : List Nat) : Option Berr := busyIf (mbxOf s (valOf v F.MBX_CFG_INDEX)).full

/-- The configuration of the mailbox named. -/
def mbxCfgEffect (v : List Nat) (s : State) : State :=
  modMbx (valOf v F.MBX_CFG_INDEX) (fun x => { x with
    en := valOf v F.MBX_CFG_EN == 1, rcv := valOf v F.MBX_CFG_RCV, skword := valOf v F.MBX_CFG_SKWORD }) s

/-! ### Semaphores -/

/-- A semaphore. -/
def semOf (s : State) (n : Nat) : Sem := tabGet .reset s.sem n

/-- Change a semaphore. -/
def modSem (n : Nat) (f : Sem → Sem) (s : State) : State := { s with sem := tabMod .reset s.sem n f }

/-- A held semaphore becomes free; a wanting reader is told (R701). -/
def semFree (n : Nat) (s : State) : State :=
  let w := (semOf s n).want
  let s := modSem n (fun _ => .reset) s
  if w then raise 730 s else s

/-- Read to acquire: the value read and the state it leaves (R699). -/
def semAcquire (req n : Nat) (s : State) : Nat × State :=
  match (semOf s n).owner with
  | none => (0, modSem n (fun x => { x with owner := some req }) s)
  | some _ => (1, bump F.SEM_CNT_BUSYRD (modSem n (fun x => { x with want := true }) s))

/-- A write of 0 (R701). -/
def semWriteZero (req n : Nat) (s : State) : State :=
  if (semOf s n).owner = some req then semFree n s else bump F.SEM_CNT_BADREL s

/-- Every semaphore of a requester is released (R702); answers how many. -/
def semRevoke (req : Nat) (s : State) : Nat × State :=
  let l := (List.range 256).filter fun n => (semOf s n).owner == some req
  (l.length, forEach l semFree s)

/-- A read of SEM_LOCKs (R699). -/
def semServe (req n : Nat) (s : State) : State := match semAcquire req n s with | (v, s) => answer req v s

/-- SEM_LOCK_READ (R699). -/
def execSemLockRead (req : Req) (sem : Fin 256) (s : State) : Out :=
  .next (readServed .SEM_LOCK 0 sem.val req (semServe req.val sem.val) s)

/-- SEM_RELEASE: a write of 0 (R701). -/
def execSemRelease (req : Req) (sem : Fin 256) (s : State) : Out :=
  .next (writeOne .SEM_LOCK 0 sem.val 0 ⟨req, .normal, 0⟩ neverBusy anyOk false (fun _ => semWriteZero req.val sem.val) s)

/-- SEM_REVOKE (R702). -/
def semRevokeEffect (v : List Nat) (s : State) : State :=
  match semRevoke (valOf v F.SEM_REVOKE_RID) s with
  | (n, s) => setFld F.SEM_REVOKE_DONE n s

/-- A commit of SEM_REVOKE. -/
def execSemRevoke (a : Acc) (s : State) : Out :=
  .next (regCommit .SEM_REVOKE 0 0 a neverBusy anyOk semRevokeEffect s)

end Sys2Proof.Machine
end

