-- ==== Sys2Proof/Machine/Vector.lean ====
section
/-! DEFINITION. Needle registers, results in flight, and the vector operations (R181, R182, R184, R238-R242, R263-R265). -/

namespace Sys2Proof.Machine

/-! ### Registers -/

/-- A vector register as a number. -/
def rdV (x : Ndl) (r : Nat) : Nat := (tabGet 0 x.v (r % 32)).toNat

/-- An address register. -/
def rdA (x : Ndl) (r : Nat) : Nat := tabGet 0 x.a (r % 16)

/-- A predicate; P0 reads all ones (R184). -/
def rdP (x : Ndl) (r : Nat) : Nat := if r % 8 = 0 then 63 else tabGet 63 x.p (r % 8)

/-- A loop counter. -/
def rdLc (x : Ndl) (k : Nat) : Nat := tabGet 0 x.lc (k % 4)

/-- Replace the masked bits of a number. -/
def mergeMask (old new mask : Nat) : Nat := old - (old &&& mask) + (new &&& mask)

/-- Make one result visible. A write of P0 is ignored (R184). -/
def applyWrite (x : Ndl) (w : NdlWrite) : Ndl :=
  match w.dst with
  | .v r => { x with v := tabSet 0 x.v r (BitVec.ofNat 72 w.val) }
  | .vPart r m => { x with v := tabSet 0 x.v r (BitVec.ofNat 72 (mergeMask (rdV x r) w.val m.toNat)) }
  | .a r => { x with a := tabSet 0 x.a r (w.val % 2 ^ 48) }
  | .p r m => if r = 0 then x else { x with p := tabSet 63 x.p r (mergeMask (rdP x r) w.val m) }
  | .lc r => { x with lc := tabSet 0 x.lc r (w.val % 2 ^ 16) }
  | .d m => { x with d := mergeMask x.d w.val m % 16 }

/-- Put a result among those in flight, after every earlier one visible no later (R241). -/
def addWrite : List NdlWrite → NdlWrite → List NdlWrite
  | [], w => [w]
  | u :: l, w => if w.at_ < u.at_ then w :: u :: l else u :: addWrite l w

/-- Make visible the results due by a cycle, in order. -/
def retire (c : Nat) : List NdlWrite → Ndl → Ndl
  | [], x => { x with writes := [] }
  | w :: l, x => if w.at_ ≤ c then retire c l (applyWrite x w) else { x with writes := w :: l }

/-- The needle as words executing in its present cycle see it (R239, R240). -/
def settleNdl (x : Ndl) : Ndl := retire x.cyc x.writes x

/-- Issue results in the present cycle, each with its latency; later entries take precedence (R241). -/
def issue (l : List (Nat × NdlDst × Nat)) (x : Ndl) : Ndl :=
  { x with writes := l.foldl (fun ws e => addWrite ws ⟨x.cyc + e.1, e.2.1, e.2.2⟩) x.writes }

/-! ### Elements (R181) -/

/-- Element k of a packing of `w`-bit elements. -/
def elU (w x k : Nat) : Nat := bitsOf x (w * k) w

/-- A signed value of `w` bits. -/
def toS (w v : Nat) : Int := if v % 2 ^ w ≥ 2 ^ (w - 1) then ((v % 2 ^ w : Nat) : Int) - 2 ^ w else ((v % 2 ^ w : Nat) : Int)

/-- Element k, signed. -/
def elS (w x k : Nat) : Int := toS w (elU w x k)

/-- A number's low bits in two's complement. -/
def toU (w : Nat) (v : Int) : Nat := (v % 2 ^ w).toNat

/-- Elements as a word, element 0 lowest. -/
def packEls (w : Nat) (l : List Nat) : Nat := l.foldr (fun e v => e % 2 ^ w + 2 ^ w * v) 0

/-- Saturate to `w` signed bits. -/
def satS (w : Nat) (v : Int) : Int := if v ≥ 2 ^ (w - 1) then 2 ^ (w - 1) - 1 else if v < -(2 ^ (w - 1)) then -(2 ^ (w - 1)) else v

/-- Clip to 0-4,095. -/
def clip12 (v : Int) : Nat := if v < 0 then 0 else if v > 4095 then 4095 else v.toNat

/-- `n` elements by index. -/
def mkEls (w n : Nat) (f : Nat → Nat) : Nat := packEls w ((List.range n).map f)

/-- The bits of the elements that a predicate selects. -/
def elMask (w n p : Nat) : Nat := mkEls w n fun k => if bitAt p k then 2 ^ w - 1 else 0

/-- Six samples. -/
def s12 (f : Nat → Nat) : Nat := mkEls 12 6 f

/-- Four saturated coefficients. -/
def c18 (f : Nat → Int) : Nat := mkEls 18 4 fun k => toU 18 (satS 18 (f k))

/-- Three saturated accumulators. -/
def a24 (f : Nat → Int) : Nat := mkEls 24 3 fun k => toU 24 (satS 24 (f k))

/-! ### Vector operations (R264, R265) -/

/-- The fields of a vector slot, with the micro-word windows already applied to register forms. -/
structure VSlot where
  vop : Nat
  vd : Nat
  va : Nat
  vb : Nat
  vp : Nat

/-- An element-wise result under its predicate. -/
def maskedV (x : Ndl) (f : VSlot) (vw w n val : Nat) : Option (Nat × NdlDst × Nat) :=
  some (2, .vPart ((f.vd + vw) % 32) (BitVec.ofNat 72 (elMask w n (rdP x f.vp))), val)

/-- An unmasked 72-bit result. -/
def wholeV (f : VSlot) (vw val : Nat) : Option (Nat × NdlDst × Nat) := some (2, .v ((f.vd + vw) % 32), val)

/-- A compare's result bits under the predicate. -/
def cmpP (x : Ndl) (f : VSlot) (n : Nat) (c : Nat → Bool) : Nat × Nat :=
  ((List.range n).foldl (fun m k => if c k then m + 2 ^ k else m) 0, rdP x f.vp % 2 ^ n)

/-- Bit count of SRAI's shift with rounding. -/
def srai (v : Int) (sh : Nat) : Int := if sh = 0 then v else (v + 2 ^ (sh - 1)) / 2 ^ sh

/-- A W64T8 word from a value and a tag. -/
def w64 (v tag : Nat) : Nat := v % 2 ^ 64 + tag % 256 * 2 ^ 64

/-- Reserved VOP and operand values (R264, R272). -/
def vopOk (f : VSlot) : Bool :=
  match f.vop with
  | 0x11 => decide (f.vb ≤ 23)
  | 0x18 => decide (f.vp ≤ 5)
  | 0x27 => decide (f.vd < 16)
  | 0x29 => decide (f.vd < 4)
  | 0x2A => decide (f.vb ≤ 5)
  | v => decide (v ≤ 0x1C) || (decide (0x20 ≤ v) && decide (v ≤ 0x2B))

/-- The result of a vector slot: latency, destination and value; none for VNOP. -/
def vecOp (x : Ndl) (f : VSlot) (vw aw : Nat) : Option (Nat × NdlDst × Nat) :=
  let a := rdV x (f.va + vw)
  let b := rdV x (f.vb + vw)
  let d := rdV x (f.vd + vw)
  let m := maskedV x f vw
  let sat (v : Int) : Nat := clip12 v
  let u (y k : Nat) : Int := elU 12 y k
  match f.vop with
  | 0x01 => wholeV f vw a
  | 0x02 => m 12 6 (s12 fun k => sat (u a k + u b k))
  | 0x03 => m 12 6 (s12 fun k => sat (u a k - u b k))
  | 0x04 => m 18 4 (c18 fun k => elS 18 a k + elS 18 b k)
  | 0x05 => m 18 4 (c18 fun k => elS 18 a k - elS 18 b k)
  | 0x06 => m 24 3 (a24 fun k => elS 24 a k + elS 24 b k)
  | 0x07 => m 24 3 (a24 fun k => elS 24 a k - elS 24 b k)
  | 0x08 => m 12 6 (s12 fun k => (elU 12 a k + elU 12 b k + 1) / 2)
  | 0x09 => m 12 6 (s12 fun k => (u a k - u b k).natAbs)
  | 0x0A => m 12 6 (s12 fun k => min (elU 12 a k) (elU 12 b k))
  | 0x0B => m 12 6 (s12 fun k => max (elU 12 a k) (elU 12 b k))
  | 0x0C => m 18 4 (c18 fun k => min (elS 18 a k) (elS 18 b k))
  | 0x0D => m 18 4 (c18 fun k => max (elS 18 a k) (elS 18 b k))
  | 0x0E => m 24 3 (a24 fun k => elS 24 d k + u a k * elS 12 b k)
  | 0x0F => m 24 3 (a24 fun k => elS 24 d k + u a (k + 3) * elS 12 b (k + 3))
  | 0x10 => m 18 4 (c18 fun k => (elS 18 a k * elS 18 b k + 2048) / 4096)
  | 0x11 => m 24 3 (a24 fun k => srai (elS 24 a k) f.vb)
  | 0x12 => m 12 6 (s12 fun k => clip12 (if k < 3 then elS 24 a k else elS 24 b (k - 3)))
  | 0x13 => m 18 4 (c18 fun k => u a k)
  | 0x14 => m 18 4 (c18 fun k => if k < 2 then u a (k + 4) else 0)
  | 0x15 => m 12 6 (s12 fun k => clip12 (if k < 4 then elS 18 a k else elS 18 b (k - 4)))
  | 0x16 => wholeV f vw (s12 fun k => if k < 3 then elU 12 a (2 * k) else elU 12 b (2 * (k - 3)))
  | 0x17 => wholeV f vw (s12 fun k => if k < 3 then elU 12 a (2 * k + 1) else elU 12 b (2 * (k - 3) + 1))
  | 0x18 => wholeV f vw (s12 fun k => if k + f.vp < 6 then elU 12 a (k + f.vp) else elU 12 b (k + f.vp - 6))
  | 0x19 => wholeV f vw (s12 fun k => if bitAt (rdP x f.vp) k then elU 12 a k else elU 12 b k)
  | 0x1A =>
    let (v, p) := cmpP x f 6 fun k => elU 12 a k == elU 12 b k
    some (2, .p (f.vd % 8) p, v)
  | 0x1B =>
    let (v, p) := cmpP x f 6 fun k => decide (elU 12 a k < elU 12 b k)
    some (2, .p (f.vd % 8) p, v)
  | 0x1C =>
    let (v, p) := cmpP x f 4 fun k => decide (elS 18 a k < elS 18 b k)
    some (2, .p (f.vd % 8) (p ||| 48), v)
  | 0x20 => wholeV f vw (a &&& b)
  | 0x21 => wholeV f vw (a ||| b)
  | 0x22 => wholeV f vw (a ^^^ b)
  | 0x23 => wholeV f vw (w64 (a % 2 ^ 64 + b % 2 ^ 64) (a / 2 ^ 64))
  | 0x24 => wholeV f vw (w64 (a % 2 ^ 64 + 2 ^ 64 - b % 2 ^ 64) (a / 2 ^ 64))
  | 0x25 => wholeV f vw (w64 (toU 64 ((a % 2 ^ 64 : Nat) + toS 5 f.vb)) (a / 2 ^ 64))
  | 0x26 => wholeV f vw (w64 a (f.vp * 32 + f.vb))
  | 0x27 => some (1, .a ((f.vd + aw) % 16), a % 2 ^ 48)
  | 0x28 => wholeV f vw (rdA x (f.va + aw))
  | 0x29 => some (1, .lc (f.vd % 4), a % 2 ^ 16)
  | 0x2A => wholeV f vw (s12 fun _ => elU 12 a f.vb)
  | 0x2B => wholeV f vw 0
  | _ => none

end Sys2Proof.Machine
end

