-- ==== Sys2Proof/Machine/Needles.lean ====
section
/-! DEFINITION. Needles: events, the micro level, line delivery and the commands of the needle frames (spec/05, spec/06). A
needle's clock is its own cycle count `cyc`. -/

namespace Sys2Proof.Machine

/-! ### Time and state -/

/-- One or more NCLK pass in execution: cycle and BUSY counts, and the Tally's busy unit of 2^20 NCLK (R818). -/
def ndlTick (n k : Nat) (s : State) : State :=
  let b := (ndlOf s n).busyCyc
  let s := modNdl n (fun x => { x with cyc := x.cyc + k, busyCyc := x.busyCyc + k }) s
  tallyAdd (256 + n) ((b + k) / 2 ^ 20 - b / 2 ^ 20) s

/-- One NCLK passes in a stall (R212). -/
def stallTick (n : Nat) (s : State) : State :=
  setNdlSt n .stall (modNdl n (fun x => { x with cyc := x.cyc + 1, stallCyc := x.stallCyc + 1 }) s)

/-- The needle is in horizontal mode: its PC holds USLOT 0b11. -/
def horizPc (x : Ndl) : Bool := x.pc % 4 == 3

/-- The state of an executing needle. -/
def runState (x : Ndl) : NdlSt := if horizPc x then .horiz else .run

/-- Results due by the present cycle become visible. -/
def ndlSettle (n : Nat) (s : State) : State := modNdl n settleNdl s

/-- A needle executes: its domain is up and it is in RUN, STALL or HORIZ. -/
def ndlExec (s : State) (n : Nat) : Bool := domUp s n && ndlRuns (ndlOf s n)

/-! ### Micro PC and fetch (R214, R247) -/

/-- The fetch buffer after a fetch word and its prefetched successor. -/
def fetchBuf (l : List Nat) (w : Nat) : List Nat :=
  let add (l : List Nat) (w : Nat) : List Nat := if l.contains w then l else (w :: l).take 4
  add (add l w) ((w + 1) % 2 ^ 15)

/-- Continue at a micro PC; a transfer outside the buffer costs 3 NCLK (R214, R247). -/
def goPc (n pc : Nat) (s : State) : State :=
  let x := ndlOf s n
  let seq := pc / 4 = x.pc / 4 || pc / 4 = x.pc / 4 + 1
  let s := if seq || x.fbuf.contains (pc / 4) || pc % 4 = 3 then s else ndlTick n 3 s
  let s := modNdl n (fun x => { x with pc := pc % 2 ^ 17, fbuf := fetchBuf x.fbuf (pc / 4) }) s
  setNdlSt n (runState (ndlOf s n)) s

/-- The micro PC after the present one. -/
def nextPc (pc : Nat) : Nat := if pc % 4 ≥ 2 then (pc / 4 + 1) * 4 % 2 ^ 17 else pc + 1

/-! ### Events (R215-R228, R254, R255) -/

/-- Set NDL_XSTAT for an event taken at a micro PC. -/
def setXstat (n kind cause pc : Nat) (s : State) : State :=
  setFld F.NDL_XSTAT_KIND kind (setFld F.NDL_XSTAT_CAUSE cause (setFld F.NDL_XSTAT_PC pc s n) n) n

/-- Record a fault's details (R288). -/
def setFstat (n : Nat) (f : NdlFault) (atSafe : Bool) (s : State) : State :=
  setRword .NDL_FSTAT n 0 0 (f.code * 2 ^ 24 + f.nidx % 1024 * 2 ^ 14 + f.bank % 2 * 2 ^ 13 + b2n atSafe * 2 ^ 12 +
    f.berr % 16) (setRword .NDL_FADDR_LO n 0 0 (f.addr % 2 ^ 32)
      (setRword .NDL_FADDR_HI n 0 0 (f.addr / 2 ^ 32 % 2 ^ 16) s))

/-- A fault of a needle of a RUNNING pattern ends the pattern's outputs (R386, R466). -/
def slotFault (n : Nat) (s : State) : State :=
  match ndlSlot s n with
  | some p => if (patOf s p).st = .running then modPat p (fun x => { x with dead := true }) s else s
  | none => s

/-- The needle enters FAULT (R223, R224, R225). -/
def enterFault (n : Nat) (f : NdlFault) (atSafe : Bool) (pc : Nat) (s : State) : State :=
  let s := slotFault n s
  let s := setFstat n f atSafe (setXstat n 3 0 pc s)
  let s := modNdl n (fun x => { x with fault := none, nano := none, pc := pc % 2 ^ 17 }) s
  raise (65 + n) (report 0x04 f.code n 255 (setNdlSt n .fault s))

/-- Enter a vector: EXC, the event PC and the 4 NCLK of R221. -/
def enterVector (n vec kind cause pc : Nat) (s : State) : State :=
  let s := setXstat n kind cause pc s
  let s := modNdl n (fun x => { x with
    exc := true, epc := pc % 2 ^ 17, nano := none, pc := vec * 4, cyc := x.cyc + 3, fbuf := fetchBuf x.fbuf vec }) s
  setNdlSt n .run s

/-- Take a fault at a sampling point (R221, R224). -/
def takeFault (n : Nat) (f : NdlFault) (atSafe : Bool) (pc : Nat) (s : State) : State :=
  if flag s F.NDL_CTL_FVEC n then
    enterVector n 0 3 0 pc (setFstat n f atSafe (modNdl n (fun x => { x with fault := none }) s))
  else enterFault n f atSafe pc s

/-- What an abort discards in the units: the TXU's block (spec/06, run B), and the ENU's context store (R199). -/
def abortUnits (n : Nat) (s : State) : State :=
  let k := s.free
  takeFree (modNdl n (fun x => { x with
    txu := { x.txu with input := [], output := [] }
    enu := { x.enu with ctx := [], lost := some k } }) s)

/-- Take an abort (R220, R221). -/
def takeAbort (n cause pc : Nat) (s : State) : State :=
  enterVector n 1 2 cause pc (abortUnits n (modNdl n (fun x => { x with abort := none }) s))

/-- The needle stops in HALT without a vector (R228). -/
def enterHalt (n pc : Nat) (s : State) : State :=
  setNdlSt n .halt (modNdl n (fun x => { x with haltAsked := false, nano := none, pc := pc % 2 ^ 17 }) s)

/-- Sample at a SAFE point or a stall (R216, R217, R228): faults, aborts and HALT, as they stand now. -/
def sampleSafe (n : Nat) (s : State) : State :=
  let x := ndlOf s n
  let s := modNdl n (fun x => { x with nano := x.nano.map fun r => { r with gap := 0 } }) s
  match x.fault with
  | some f => takeFault n f true x.pc s
  | none =>
    match x.abort with
    | some c => if x.exc then (if x.haltAsked then enterHalt n x.pc s else s) else takeAbort n c x.pc s
    | none => if x.haltAsked then enterHalt n x.pc s else s

/-- The lowest-numbered enabled interrupt input among pending ones (R218). -/
def firstIrq (s : State) (n pend : Nat) : Option Nat :=
  ((List.range 8).filter fun i => bitAt pend i && bitAt (fld s F.NDL_CTL_IMASK n) i).head?

/-- Pending interrupt inputs that a needle takes or clears; clearing MBX is the read of its mailboxes (R692). -/
def clearInputs (n mask : Nat) (s : State) : State :=
  let s := modNdl n (fun x => { x with ipend := x.ipend - (x.ipend &&& mask) }) s
  if bitAt mask 1 then mbxTaken n s else s

/-- A micro-word boundary (R215, R218, R222, R228): events pending at the start of the cycle (`x0`), then HALT, else on
to the next micro-word. -/
def boundary (n : Nat) (x0 : Ndl) (next : Nat) (s : State) : State :=
  let x := ndlOf s n
  let irq := if x.exc then none else firstIrq s n (x0.ipend &&& x.ipend)
  match x0.fault, (if x.exc then none else x0.abort), irq with
  | some f, _, _ => takeFault n f false next s
  | none, some c, _ => takeAbort n c next s
  | none, none, some i =>
    enterVector n (8 + i) 1 i next (clearInputs n (2 ^ i) s)
  | none, none, none => if x.haltAsked then enterHalt n next s else goPc n next s

/-- A fault arises (R219, R223, R225, R289): a double fault stops the needle at once. -/
def raiseFault (n : Nat) (f : NdlFault) (s : State) : State :=
  let x := ndlOf s n
  if x.st = .fault || x.fault.isSome then s
  else if x.exc then enterFault n { f with code := 0x3F } true x.pc s
  else modNdl n (fun x => { x with fault := some f }) s

/-- A fault with nothing left to run is taken at once (notes/assumptions/14.md). -/
def faultNow (n : Nat) (f : NdlFault) (s : State) : State :=
  let s := raiseFault n f s
  if (ndlOf s n).st = .fault then s else sampleSafe n s

/-- A fault that no nano-word raised. -/
def plainFault (code addr : Nat) : NdlFault := ⟨code, 0, 0, 0, addr⟩

/-! ### Fetching micro-words (R192, R243, R245, R246) -/

/-- A needle can execute a micro-word. -/
def microReady (s : State) (n : Nat) : Bool :=
  let x := ndlOf s n
  ndlExec s n && x.nano.isNone && !horizPc x && !x.zeroing

/-- The library revision of the pattern that a needle serves. -/
def ndlLibrev (s : State) (n : Nat) : Option Nat := (ndlSlot s n).map fun p => pf s p 0x00C 2

/-- The bank a needle may bind to: VALID with the pattern's library revision (R206). -/
def bankFor (s : State) (n : Nat) : Option Bool :=
  let ok (b : Bool) : Bool :=
    decide ((bankOf s (n / 8) b).st = .valid) && ndlLibrev s n == some (bankOf s (n / 8) b).librev
  if ok false then some false else if ok true then some true else none

/-- A needle binds at its first micro-word (R206). -/
def bindBank (n : Nat) (s : State) : State :=
  if (ndlOf s n).bound.isNone then modNdl n (fun x => { x with bound := bankFor s n }) s else s

/-- A control micro-word without reserved bits or values (R245, R246, R250, R255). -/
def controlOk (x : Ndl) (w : Nat) : Bool :=
  let z (lo k : Nat) : Bool := bitsOf w lo k == 0
  let target : Bool := bitsOf w 0 2 != 3
  match bitsOf w 19 4 with
  | 0x0 => z 0 19
  | 0x1 => z 17 2 && target
  | 0x2 => z 17 2 && target
  | 0x3 => z 0 19
  | 0x4 => decide (bitsOf w 17 2 + 1 + bitsOf w 15 2 ≤ 4) && decide (bitsOf w 11 4 ≤ 6)
  | 0x5 => target
  | 0x6 => z 16 1
  | 0x7 => true
  | 0x8 => z 0 11
  | 0x9 => z 9 10
  | 0xA => z 0 19 && x.exc
  | 0xB => z 15 4 && z 0 1
  | 0xC => z 8 11
  | 0xD => z 0 19
  | 0xE => z 5 14
  | _ => false

/-- Execute the micro-word at the PC when `want` accepts it; an uncorrectable fetch error faults at once (R192). -/
def microFetch (n : Nat) (want : Ndl → Nat → Bool) (act : Nat → State → State) (s : State) : State :=
  if !microReady s n then s
  else
    let s := ndlSettle n s
    let x := ndlOf s n
    match lsRead n (x.pc / 4) s with
    | (none, t) => faultNow n (plainFault 0x13 (x.pc / 4)) t
    | (some v, t) =>
      let w := bitsOf v.toNat (24 * (x.pc % 4)) 24
      if want x w then act w (bindBank n (setNdlSt n .run t)) else s

/-- A control micro-word of opcode `op`, in its 1 NCLK (R247): its effect, then the boundary at `next`. -/
def microControl (n op : Nat) (act : Nat → Ndl → State → State × Nat) (s : State) : State :=
  microFetch n (fun x w => bitAt w 23 && bitsOf w 19 4 == op && controlOk x w) (fun w s =>
    let x := ndlOf s n
    let (s, next) := act w x s
    if (ndlOf s n).st = .fault then s else boundary n x next (ndlTick n 1 s)) s

/-- Writes of a micro-word, unless a fault is pending (R219). -/
def microIssue (n : Nat) (l : List (Nat × NdlDst × Nat)) (s : State) : State :=
  if (ndlOf s n).fault.isSome then s else modNdl n (issue l) s

/-! ### Control micro-words (R245-R257) -/

/-- NOP (R245). -/
def execMicroNop (needle : Fin 128) (s : State) : Out :=
  .next (microControl needle.val 0x0 (fun _ x s => (s, nextPc x.pc)) s)

/-- JUMP (R245). -/
def execMicroJump (needle : Fin 128) (s : State) : Out :=
  .next (microControl needle.val 0x1 (fun w _ s => (s, bitsOf w 0 17)) s)

/-- CALL (R245, R251). -/
def execMicroCall (needle : Fin 128) (s : State) : Out :=
  let n := needle.val
  .next (microControl n 0x2 (fun w x s =>
    if x.stack.length ≥ 8 then (raiseFault n (plainFault 0x05 x.pc) s, nextPc x.pc)
    else (modNdl n (fun x => { x with stack := nextPc x.pc :: x.stack }) s, bitsOf w 0 17)) s)

/-- RET (R245, R251). -/
def execMicroRet (needle : Fin 128) (s : State) : Out :=
  let n := needle.val
  .next (microControl n 0x3 (fun _ x s =>
    match x.stack with
    | [] => (raiseFault n (plainFault 0x05 x.pc) s, nextPc x.pc)
    | p :: l => (modNdl n (fun x => { x with stack := l }) s, p)) s)

/-- The next line slot is full: an unheld one stands in the ring. -/
def slotReady (x : Ndl) : Bool := x.ring.any fun l => !l.held

/-- A unit's output is available from its cycle on. -/
def txuReady (x : Ndl) : Bool := !x.txu.output.isEmpty && decide (x.txu.at_ ≤ x.cyc)

/-- The MEU's result is available. -/
def meuReady (x : Ndl) : Bool := x.meu.best.isSome && decide (x.meu.at_ ≤ x.cyc)

/-- The condition groups of DISPATCH (R249). -/
def condGroup (x : Ndl) (g : Nat) : Nat :=
  match g with
  | 0x0 => x.d
  | 0x1 => (List.range 4).foldl (fun m k => if rdLc x k = 0 then m + 2 ^ k else m) 0
  | 0x2 => x.ipend % 16
  | 0x3 => x.ipend / 16 % 16
  | 0x4 => b2n (slotReady x) * 8 + b2n x.xfers.isEmpty * 4 + b2n (meuReady x) * 2 + b2n (txuReady x)
  | 0x5 => rdP x 1 % 16
  | _ => rdP x 2 % 16

/-- DISPATCH (R248, R249). -/
def execMicroDispatch (needle : Fin 128) (s : State) : Out :=
  .next (microControl needle.val 0x4 (fun w x s =>
    let c := condGroup x (bitsOf w 11 4) / 2 ^ bitsOf w 15 2 % 2 ^ (bitsOf w 17 2 + 1)
    (s, (bitsOf w 0 11 * 16 + c) * 4)) s)

/-- Whether LOOP on a counter's value branches (R252). -/
def loopTakes (v : Nat) : Bool := decide (v > 1)

/-- LOOP (R252). -/
def execMicroLoop (needle : Fin 128) (s : State) : Out :=
  let n := needle.val
  .next (microControl n 0x5 (fun w x s =>
    let k := bitsOf w 17 2
    let v := rdLc x k
    (microIssue n (if v = 0 then [] else [(1, .lc k, v - 1)]) s,
      if loopTakes v then bitsOf w 0 17 else nextPc x.pc)) s)

/-- SETLC (R245). -/
def execMicroSetlc (needle : Fin 128) (s : State) : Out :=
  let n := needle.val
  .next (microControl n 0x6 (fun w x s => (microIssue n [(1, .lc (bitsOf w 17 2), bitsOf w 0 16)] s, nextPc x.pc)) s)

/-- SETA (R245). -/
def execMicroSeta (needle : Fin 128) (s : State) : Out :=
  let n := needle.val
  .next (microControl n 0x7 (fun w x s => (microIssue n [(1, .a (bitsOf w 15 4), bitsOf w 0 15)] s, nextPc x.pc)) s)

/-- MOVA (R245). -/
def execMicroMova (needle : Fin 128) (s : State) : Out :=
  let n := needle.val
  .next (microControl n 0x8 (fun w x s =>
    (microIssue n [(1, .a (bitsOf w 15 4), rdA x (bitsOf w 11 4))] s, nextPc x.pc)) s)

/-- A stalled cycle: a sampling point for faults and aborts (R217). -/
def stallCycle (n : Nat) (s : State) : State := sampleSafe n (stallTick n s)

/-- WAIT (R253). -/
def execMicroWait (needle : Fin 128) (s : State) : Out :=
  let n := needle.val
  .next (microFetch n (fun x w => bitAt w 23 && bitsOf w 19 4 == 0x9 && controlOk x w) (fun w s =>
    let x := ndlOf s n
    let hit := x.ipend &&& bitsOf w 0 8
    if hit = 0 then stallCycle n s
    else
      let clr := if bitAt w 8 then hit - (hit &&& fld s F.NDL_CTL_IMASK n) else 0
      let s := clearInputs n clr s
      boundary n x (nextPc x.pc) (ndlTick n 1 s)) s)

/-- RETE (R222, R255). -/
def execMicroRete (needle : Fin 128) (s : State) : Out :=
  let n := needle.val
  .next (microControl n 0xA (fun _ x s => (modNdl n (fun x => { x with exc := false }) s, x.epc)) s)

/-- HORIZ (R276). -/
def execMicroHoriz (needle : Fin 128) (s : State) : Out :=
  let n := needle.val
  .next (microControl n 0xB (fun w _ s =>
    (modNdl n (fun x => { x with hret := nextPc x.pc, hstart := false }) s, bitsOf w 0 15 * 4 + 3)) s)

/-- TRAP (R257). -/
def execMicroTrap (needle : Fin 128) (s : State) : Out :=
  let n := needle.val
  .next (microControl n 0xC (fun w x s => (raiseFault n (plainFault 0x20 (bitsOf w 0 8)) s, nextPc x.pc)) s)

/-- STOP (R257). -/
def execMicroStop (needle : Fin 128) (s : State) : Out :=
  let n := needle.val
  .next (microControl n 0xD (fun _ x s => (modNdl n (fun x => { x with haltAsked := true }) s, nextPc x.pc)) s)

/-- The Gauge's report queue of a pattern is full (R409). -/
def reportsFull (s : State) (p : Nat) : Bool := decide ((patOf s p).reports.length ≥ 32)

/-- GNOTE (R257). -/
def execMicroGnote (needle : Fin 128) (s : State) : Out :=
  let n := needle.val
  .next (microFetch n (fun x w => bitAt w 23 && bitsOf w 19 4 == 0xE && controlOk x w) (fun w s =>
    let x := ndlOf s n
    match x.slot with
    | none => boundary n x (nextPc x.pc) (ndlTick n 1 s)
    | some p =>
      if reportsFull s p && x.fault.isNone then stallCycle n s
      else
        let v : Native := BitVec.ofNat 72 (rdV x (bitsOf w 0 5))
        let s := if x.fault.isSome then s else modPat p (fun q => { q with reports := q.reports ++ [v] }) s
        boundary n x (nextPc x.pc) (ndlTick n 1 s)) s)

/-! ### N micro-words (R206, R211, R232, R244) -/

/-- Start a nano routine: its first word reads MK in D (R244). -/
def startNano (n w : Nat) (s : State) : State :=
  let mk := bitsOf w 0 4
  let run : NanoRun := ⟨bitsOf w 13 10, bitsOf w 13 10, bitsOf w 8 5, bitsOf w 4 4, 0, 0⟩
  modNdl n (fun x => { x with
    nano := some run, d := mk
    writes := x.writes.filter fun u => (match u.dst with | .d _ => false | _ => true) }) s

/-- A micro-word that names an entry of no bank, or of an empty customer half (R211, R232). -/
def nanoEmpty (s : State) (n idx : Nat) : Bool :=
  match (ndlOf s n).bound with
  | none => true
  | some b => decide (idx ≥ 768) && !(bankOf s (n / 8) b).cvalid

/-- MICRO_WORD_EXECUTE (R206, R244, R246): an N micro-word, or a reserved micro-word. -/
def execMicroWordExecute (needle : Fin 128) (s : State) : Out :=
  let n := needle.val
  .next (microFetch n (fun x w => !bitAt w 23 || !controlOk x w) (fun w s =>
    let x := ndlOf s n
    if bitAt w 23 then
      let s := raiseFault n (plainFault 0x01 x.pc) s
      if (ndlOf s n).st = .fault then s else boundary n x (nextPc x.pc) (ndlTick n 1 s)
    else if nanoEmpty s n (bitsOf w 13 10) then faultNow n (plainFault 0x06 (bitsOf w 13 10)) s
    else startNano n w s) s)

/-! ### Line delivery (R193-R195, R323) -/

/-- The register of distributor `d`. -/
def distReg (d : Nat) : Reg := if d = 0 then .SKN_DIST0 else .SKN_DIST1

/-- A distributor's register word. -/
def distWord (s : State) (k d : Nat) : Nat := rword s (distReg d) k 0 0

/-- A distributor is enabled. -/
def distOn (s : State) (k d : Nat) : Bool := bitAt (distWord s k d) 31

/-- Base LFI and port of a distributor. -/
def distPort (s : State) (k d : Nat) : Nat × Nat := (bitsOf (distWord s k d) 24 6, bitsOf (distWord s k d) 30 1)

/-- The target needles of a distributor. -/
def distNeedles (s : State) (k d : Nat) : List Nat :=
  ((List.range 8).filter (bitAt (distWord s k d))).map (8 * k + ·)

/-- The distributors of a gang: those that name the same LFI and port (R323). -/
def distGang (s : State) (k d : Nat) : List (Nat × Nat) :=
  ((List.range 16).flatMap fun j => [(j, 0), (j, 1)]).filter fun e =>
    distOn s e.1 e.2 && distPort s e.1 e.2 == distPort s k d

/-- The target needles of a gang, ascending. -/
def gangNeedles (s : State) (k d : Nat) : List Nat := (distGang s k d).flatMap fun e => distNeedles s e.1 e.2

/-- Line slots in a ring. -/
def ringSlots : Nat := Config.ringSlotsM1 + 1

/-- A needle's column stripe of a pattern: first word and length (R312, R321; notes/assumptions/15.md). -/
def stripeOf (d : List Nat) (rank count words : Nat) : Nat × Nat :=
  let ns := max 1 (dLe d 0x195 1)
  let per := (words + ns - 1) / ns
  let st := rank * ns / max 1 count
  let first := st * per
  (first, min (per + (if st + 1 < ns then dLe d 0x196 2 else 0)) (words - first))

/-- The stripe of a needle in the slot that it serves. -/
def needleStripe (s : State) (n : Nat) : Nat × Nat :=
  match ndlSlot s n with
  | none => (0, 0)
  | some p =>
    let d := (patOf s p).desc
    let ns := dNeedles d
    let i := (List.range (dNin d)).findIdx fun i => dIn d i 0 1 == 1
    stripeOf d (ns.findIdx (· == n)) ns.length ((dIn d i 4 2 + 5) / 6)

/-- Flags of a slot header: 2 for MISSING, 1 for CRCERR or LENERR (R194, R268). -/
def lineFlags (r : LfiRec) : Nat := b2n r.missing * 2 + b2n (r.crcerr || r.lenerr)

/-- Write one line into a needle's ring; LINE is raised when no full slot stood unheld. -/
def deliverTo (seq : Nat) (r : LfiRec) (n : Nat) (s : State) : State :=
  let x := ndlOf s n
  let (first, len) := needleStripe s n
  let base := (Config.slotWord x.ringHead).toNat
  let words := (r.data.drop first).take len
  let s := (List.range words.length).foldl (fun s i => lsPut n (base + i) (words.getD i 0) s) s
  let s := if slotReady x then s else ndlIrq n 3 s
  modNdl n (fun x => { x with
    ring := x.ring ++ [⟨x.ringHead, false, seq, r.line, lineFlags r⟩], ringHead := (x.ringHead + 1) % ringSlots
    seen := ((r.frame, r.line, lineFlags r) :: x.seen).take 512 }) s

/-- DISTRIBUTOR_LINE_DELIVER (R193, R194, R323). -/
def execDistributorLineDeliver (skein : Fin 16) (dist : Fin 2) (s : State) : Out :=
  let k := skein.val
  let d := dist.val
  let (b, p) := distPort s k d
  let targets := gangNeedles s k d
  if !distOn s k d || !portOn s b p || targets.any (fun n => decide ((ndlOf s n).ring.length ≥ ringSlots)) then .next s
  else
    match portRec s b p with
    | none => .next s
    | some r =>
      let q := (portOf s b p).seq
      let s := forEach targets (deliverTo q r) s
      .next (idleSettle b (portNext b p r (portRead b p s)))

/-- The distributor that serves a needle. -/
def needleDist (s : State) (n : Nat) : Option Nat :=
  [0, 1].find? fun d => distOn s (n / 8) d && (distNeedles s (n / 8) d).contains n

/-- A needle leads its gang: the lowest-numbered target (R195, R323). -/
def leads (s : State) (n d : Nat) : Bool := (gangNeedles s (n / 8) d).head? == some n

/-- A REWIND returns a ring to the slot of the marked line; later slots are dropped. -/
def ringBack (seq : Nat) (x : Ndl) : Ndl :=
  match x.ring.find? fun l => decide (l.seq ≥ seq) with
  | some l => { x with ring := x.ring.filter fun l => decide (l.seq < seq), ringHead := l.idx, seen := [] }
  | none => { x with seen := [] }

/-- A line-port operation by a needle (R195, R268, R323). None: refused with OPERR, or no distributor. -/
def needlePortOp (n op : Nat) (s : State) : Option State :=
  match needleDist s n with
  | none => none
  | some d =>
    let k := n / 8
    let (b, p) := distPort s k d
    if !leads s n d then
      some (setRword (distReg d) k 0 0 (setBits (distWord s k d) 16 8 (satAdd (bitsOf (distWord s k d) 16 8) 1 255)) s)
    else if !portOn s b p then none
    else
      match op with
      | 2 => portMark b p s
      | 3 =>
        (match portRewind b p s with
         | none => none
         | some t => some (forEach (gangNeedles s k d) (modNdl · (ringBack (portOf t b p).seq)) t))
      | 4 => portRelease b p s
      | _ => portDrop b p s

/-! ### Needle commands (R218, R220, R228, R256, R276) -/

/-- A committing write of NDL_CMD by a requester. -/
def ndlCommand (req : Req) (n op : Nat) (busy : State → Bool) (eff : State → State) (s : State) : Out :=
  .next (regCommit .NDL_CMD n 0 ⟨req, .normal, BitVec.ofNat 32 op⟩ (fun _ => busyIf (busy s)) anyOk (fun _ => eff) s)

/-- HALT applies unless the needle is in HALT. -/
def haltBusy (n : Nat) (s : State) : Bool := decide ((ndlOf s n).st = .halt)

/-- HALT from NDL_CMD also leaves FAULT (R225, R228). -/
def haltEffect (n : Nat) (s : State) : State := askHalt n true s

/-- HALT (R228). -/
def execNdlHalt (req : Req) (needle : Fin 128) (s : State) : Out :=
  ndlCommand req needle.val 1 (haltBusy needle.val) (haltEffect needle.val) s

/-- RESUME applies from FAULT, and from HALT with EXC clear (R256). -/
def resumeBusy (n : Nat) (s : State) : Bool :=
  let x := ndlOf s n
  !(decide (x.st = .fault) || (decide (x.st = .halt) && !x.exc))

/-- RESUME at the fault vector from FAULT, at the abort vector from HALT (R256). -/
def resumeEffect (n : Nat) (s : State) : State :=
  let x := ndlOf s n
  let s := modNdl n (fun x => { x with fault := none, haltAsked := false }) s
  if x.st = .fault then enterVector n 0 3 0 x.pc s else enterVector n 1 2 0 x.pc s

/-- RESUME (R256). -/
def execNdlResume (req : Req) (needle : Fin 128) (s : State) : Out :=
  ndlCommand req needle.val 2 (resumeBusy needle.val) (resumeEffect needle.val) s

/-- ABORT applies to a needle that executes. -/
def abortBusy (n : Nat) (s : State) : Bool := !ndlRuns (ndlOf s n)

/-- ABORT (R220). -/
def execNdlAbort (req : Req) (needle : Fin 128) (s : State) : Out :=
  ndlCommand req needle.val 3 (abortBusy needle.val) (askAbort needle.val 0) s

/-- HSTART applies from HALT or IDLE. -/
def hstartBusy (n : Nat) (s : State) : Bool :=
  !(decide ((ndlOf s n).st = .halt) || decide ((ndlOf s n).st = .idle))

/-- Horizontal execution starts at NDL_HENTRY (R276). -/
def hstartEffect (n : Nat) (s : State) : State :=
  let a := fld s F.NDL_HENTRY_ADDR n
  setNdlSt n .horiz (modNdl n (fun x => { x with pc := a * 4 + 3, hstart := true, nano := none }) s)

/-- HSTART (R276). -/
def execNdlHstart (req : Req) (needle : Fin 128) (s : State) : Out :=
  ndlCommand req needle.val 4 (hstartBusy needle.val) (hstartEffect needle.val) s

/-- A ring of NDL_BELL raises BELL0 and BELL1 (inputs 6 and 7). -/
def bellEffect (n : Nat) (v : List Nat) (s : State) : State :=
  let r := valOf v F.NDL_BELL_RING
  let s := if bitAt r 0 then ndlIrq n 6 s else s
  if bitAt r 1 then ndlIrq n 7 s else s

/-- NDL_BELL_WRITE (R218). -/
def execNdlBellWrite (needle : Fin 128) (a : Acc) (s : State) : Out :=
  .next (regCommit .NDL_BELL needle.val 0 a neverBusy anyOk (bellEffect needle.val) s)

/-- NEEDLE_TIMER_EXPIRE (spec/05, events): input TIMER. -/
def execNeedleTimerExpire (needle : Fin 128) (s : State) : Out :=
  .next (if domUp s needle.val then ndlIrq needle.val 5 s else s)

/-! ### Initialisation and scrubbing (R204, R234, R235) -/

/-- Every local-store word of a needle is zero with valid check bits. -/
def lsZero (n : Nat) (s : State) : State :=
  modMem (fun m => { m with
    ls := m.ls.filter fun e => decide (e.1 / 2 ^ 15 ≠ n), lsFlip := m.lsFlip.filter fun e => decide (e.1 / 2 ^ 15 ≠ n) }) s

/-- LOCAL_STORE_ZERO_DONE (R234): a placement made meanwhile keeps its words (notes/assumptions/14.md). -/
def execLocalStoreZeroDone (needle : Fin 128) (s : State) : Out :=
  let n := needle.val
  let x := ndlOf s n
  if x.zeroing then
    let s := if x.slot.isSome then s else lsZero n s
    .next (modNdl n (fun x => { x with zeroing := false }) s)
  else .next s

/-- Every skein-memory word of a skein is zero with valid check bits. -/
def skmZero (k : Nat) (s : State) : State :=
  modMem (fun m => { m with
    skm := m.skm.filter fun e => decide (e.1 / 2 ^ 19 ≠ k)
    skmFlip := m.skmFlip.filter fun e => decide (e.1 / 2 ^ 19 ≠ k) }) s

/-- Set a bank's state, raising SKNBANKs on a change. -/
def setBankSt (k : Nat) (b : Bool) (st : BankSt) (s : State) : State :=
  if (bankOf s k b).st = st then s else raise (321 + k) (modBank k b (fun x => { x with st := st }) s)

/-- SKEIN_ZERO_DONE (R235). -/
def execSkeinZeroDone (skein : Fin 16) (s : State) : Out :=
  let k := skein.val
  if (sknOf s k).zeroing then
    let s := skmZero k s
    let s := forEach [false, true] (fun b s => modBank k b (fun x => { NanoBank.reset with st := x.st })
      (setBankSt k b .empty s)) s
    .next (modSkn k (fun x => { x with zeroing := false, scrubAt := 0 }) s)
  else .next s

/-- SKEIN_SCRUB_STEP (R204): the next word is read and corrected. `upset` strikes a stored word since the last step. -/
def execSkeinScrubStep (skein : Fin 16) (upset : Option (Nat × Native)) (s : State) : Out :=
  let k := skein.val
  let s := match upset with
    | some (w, m) => modMem (fun x => { x with skmFlip := tabMod 0 x.skmFlip (skmKey k w) (fun f => f ^^^ m) }) s
    | none => s
  if flag s F.SKN_SCRUB_EN k && domUp s (128 + k) && !(sknOf s k).zeroing then
    let w := (sknOf s k).scrubAt
    .next (modSkn k (fun x => { x with scrubAt := (w + 1) % 2 ^ 19 }) (skmRead k w s).2)
  else .next s

end Sys2Proof.Machine
end

