-- ==== Sys2Proof/Machine/Keys.lean ====
section
/-! DEFINITION. Key requests: of one output and of a stage pattern (spec/08 R370-R374, spec/18 R740). -/

namespace Sys2Proof.Machine

/-- The output that a request for output `k` acts on: output 0 for a derived one; none for JPEG XS and raw (R327, R372). -/
def keyTarget (s : State) (n k : Nat) : Option Nat :=
  let d := (patOf s n).desc
  let t := if dOut d k 0x05 1 = 1 then 0 else k
  if dOut d t 0x00 1 = 1 || dOut d t 0x00 1 = 2 then some t else none

/-- A request waits at an output for its key picture, or for the picture of a frame; one that finds another waiting, or an
accelerated sweep, is merged (R370, R371). -/
def keyArrive (n t : Nat) (frame : Option Nat) (s : State) : State :=
  modEnc n t (fun e =>
    if e.keyPending || e.keyFrame.isSome || e.accel then { e with keymerge := satAdd e.keymerge 1 65535 }
    else match frame with
      | some f => { e with keyFrame := some f }
      | none => { e with keyPending := true }) s

/-- A key request for an output of a RUNNING slot counts and acts (R372). -/
def keyCounted (n k : Nat) (frame : Option Nat) (s : State) : State :=
  match keyTarget s n k with
  | none => s
  | some t => keyArrive n t frame (modEnc n t (fun e => { e with keyreq := satAdd e.keyreq 1 65535 }) s)

/-- A tagged request of the manager at every RUNNING slot of the stage pattern (R740). -/
def keyTagged (stagepat out frame : Nat) (s : State) : State :=
  let own := (List.range 256).filter fun n =>
    decide ((patOf s n).st = .running) && pf s n 0x068 2 == stagepat && decide (out < dNout (patOf s n).desc)
  forEach own (fun n s => keyCounted n out (some frame) s) s

/-- The placement of a stage pattern. -/
def placementOf (s : State) (stagepat : Nat) : Option Placement := s.sth.places.find? fun p => p.stagepat == stagepat

/-- A key request for a placed stage pattern reaches the manager: it goes to every device that holds a part, tagged with
the current frame + 2 (R740). -/
def stageKeySend (stagepat out : Nat) (s : State) : State :=
  match placementOf s stagepat with
  | none => s
  | some p =>
    let f := (frameNow s + 2) % 2 ^ 40
    forEach (p.parts.map Prod.fst).eraseDups (fun dev s =>
      if dev = 0 then keyTagged stagepat out f s else sendMsg dev (.keySend stagepat out f) s) s

/-- A request for a part of a stage pattern goes to the manager (R374, R740). -/
def stageKeyAsk (stagepat out : Nat) (s : State) : State :=
  if isManager s then stageKeySend stagepat out s
  else if joined s then sendMsg 0 (.keyAsk stagepat out) s
  else s

end Sys2Proof.Machine
end

