-- ==== Sys2Proof/Machine/Stitch.lean ====
section
/-! DEFINITION. Stitch: the link layer, the tree, roster and placements, raster phase, mailboxes, streams and tile channels
across devices (spec/18). A message is one flit of the link layer (notes/assumptions/19.md). -/

namespace Sys2Proof.Machine

/-! ### Links -/

/-- The registers of a link's frame are powered and the link is enabled. -/
def linkOn (s : State) (k : Nat) : Bool := baseUp s && domUp s (190 + k / 4) && flag s F.STH_CTRL_EN k

/-- Change a link's LST, raising STHLINKk on a change. -/
def setLink (k : Nat) (st : LinkSt) (s : State) : State :=
  if (linkOf s k).st = st then s else raise (739 + k) (modLink k (fun l => { l with st := st }) s)

/-- The links of a state. -/
def linksIn (s : State) (p : SthLink → Bool) : List Nat := (List.range 8).filter fun k => p (linkOf s k)

/-- The uplink bundle. -/
def uplinks (s : State) : List Nat := linksIn s (·.uplink)

/-- Realised time in ps. -/
def rtPs (s : State) : Int := ((s.rck.rt * 1000 / nsUnit : Nat) : Int)

/-- The SYS_UID as a number. -/
def ownUid : Nat := Config.uid.toNat

/-- The manager that this device reaches (R710). -/
def ownMgr (s : State) : Option Nat :=
  if isManager s then some ownUid else if joined s then some s.sth.mgrUid else none

/-- DEPTH as HELLO carries it and STH_ID shows it: 0 for a manager (R710). -/
def ownDepth (s : State) : Nat := if isManager s then 0 else s.sth.depth

/-- FEC codewords that the link reports with a flit (STH_CNT1, R818). -/
def sthFecCount (k : Nat) (corr uncorr : Byte) (s : State) : State :=
  let s := bump F.STH_CNT1_FECCORR s k 0 corr.toNat
  tallyAdd (240 + k) uncorr.toNat (bump F.STH_CNT1_FECUNC s k 0 uncorr.toNat)

/-- An ACK covers numbered flits up to its own (R707). -/
def ackFlits (ack : Nat) (l : SthLink) : SthLink :=
  { l with replay := l.replay.filter fun f => !decide ((ack + 4096 - f.seq) % 4096 < 2048) }

/-- The Stitch source becomes unavailable (R721): PHASELOST, and the clock's source switched or held. -/
def phaseGone (s : State) : State :=
  let s := modRck (fun r => { r with sthUpSince := none }) s
  if s.rck.sthAvail then sourceLost 2 (raise 760 (modRck (fun r => { r with sthAvail := false }) s)) else s

/-- A link that was UP has left it (R713, R714, R721): counted, the loss count starts, and what its bundle held is assigned
anew. -/
def leftUp (k : Nat) (s : State) : State :=
  let l := linkOf s k
  let s := tally (248 + k) (raise (747 + k) (bump F.STH_CNT2_DOWN s k))
  let s := modLink k (fun l => { l with downAt := some s.now }) s
  let mates := linksIn s fun m => m.uplink == l.uplink && m.peer == l.peer
  let keep (e : Nat × Option Nat) : Bool := match e.2 with | some m => !mates.contains m | none => false
  let s := modSth (fun t => { t with assign := t.assign.filter keep }) s
  let others := (uplinks s).filter fun m => decide (m ≠ k) && decide ((linkOf s m).st = .up)
  if l.uplink && others.isEmpty then phaseGone s else s

/-- A link goes to TRAIN or OFF. -/
def linkDrop (k : Nat) (st : LinkSt) (s : State) : State :=
  let up := decide ((linkOf s k).st = .up)
  let s := setLink k st (modLink k (fun l => { l with heard := false }) s)
  if up then leftUp k s else s

/-- STITCH_LINK_UP: training is complete and the link begins sending HELLO (R704, R710). -/
def execStitchLinkUp (link : Fin 8) (s : State) : Out :=
  let k := link.val
  .next (if linkOn s k && decide ((linkOf s k).st = .train) then
    setLink k .hello (modLink k (fun l => { l with helloAt := s.now, heard := false }) s)
  else s)

/-- STITCH_LINK_DOWN (R713, R721). -/
def execStitchLinkDown (link : Fin 8) (s : State) : Out :=
  let k := link.val
  .next (if (linkOf s k).st = .off || (linkOf s k).st = .train then s else linkDrop k .train s)

/-- What a commit of STH_CTRL does: an enabled link trains, a disabled one is OFF (R710). -/
def sthCtrlEffect (k : Nat) (v : List Nat) (s : State) : State :=
  if valOf v F.STH_CTRL_EN = 1 then (if (linkOf s k).st = .off then setLink k .train s else s)
  else if (linkOf s k).st = .off then s
  else linkDrop k .off s

/-- EN = 1 on a standalone device is refused (R710). -/
def sthCtrlBusy (s : State) (v : List Nat) : Option Berr :=
  busyIf (valOf v F.STH_CTRL_EN == 1 && !isWorker s && !isManager s)

/-- FLIT_REPLAY: a NAK; flits after ACK are sent again (R707). -/
def execFlitReplay (link : Fin 8) (ack : BitVec 12) (s : State) : Out :=
  let k := link.val
  if linkOn s k && decide ((linkOf s k).st = .up) then
    .next (bump F.STH_CNT0_REPLAY (modLink k (ackFlits ack.toNat) s) k)
  else .next s

/-- FLIT_CRC_ERROR: discarded and counted; a numbered flit makes a NAK (R707, R708). -/
def execFlitCrcError (link : Fin 8) (reserved numbered : Bool) (corr uncorr : Byte) (s : State) : Out :=
  let k := link.val
  if !linkOn s k || (linkOf s k).st = .off || (linkOf s k).st = .train then .next s
  else
    let s := sthFecCount k corr uncorr s
    if reserved then .next (raise (747 + k) (bump F.STH_CNT2_BADCLASS s k))
    else
      let s := raise (747 + k) (bump F.STH_CNT0_CRCERR s k)
      .next (if numbered then modLink k (fun l => { l with nak := true }) s else s)

/-- A numbered flit arrives on an UP link: its ACK counts, and it is accepted in order or discarded with a NAK (R707). -/
def rxFlit (k : Nat) (h : FlitHdr) (body : State → State) (s : State) : State :=
  if !linkOn s k || (linkOf s k).st ≠ .up then s
  else
    let s := modLink k (ackFlits h.ack.toNat) (sthFecCount k h.corr h.uncorr s)
    if h.seq.toNat = ((linkOf s k).rxSeq + 1) % 4096 then
      body (modLink k (fun l => { l with rxSeq := h.seq.toNat, nak := false }) s)
    else modLink k (fun l => { l with nak := true }) s

/-- A flit for this device; others are a matter of FLIT_FORWARD (R709). -/
def rxOwn (k : Nat) (h : FlitHdr) (body : State → State) (s : State) : State :=
  if h.bcast || h.dst.val = s.sth.devNo then rxFlit k h body s else s

/-- The link whose peer has a SYS_UID. -/
def linkOfUid (s : State) (uid : Nat) : Option Nat :=
  (linksIn s fun l => decide (l.st = .up) && !l.uplink && l.peerUid == uid).head?

/-- Send a flit on (R709): a JOIN takes the position at which it arrived, the answer to one goes back to its link, a
broadcast goes to every down-link, the rest by the route. -/
def forwardMsg (k : Nat) (h : FlitHdr) (msg : StMsg) (s : State) : State :=
  match msg with
  | .join uid c libs p pl ol =>
    let here := p = 0 && !isManager s
    sendMsg 0 (.join uid c libs (if here then s.sth.devNo else p) (if here then k else pl) ol) s
  | .joinAnswer uid n d p ok =>
    (match linkOfUid s uid with
    | some m => linkSend m h.src.val n (.joinAnswer uid n d p ok) (modLink m (fun l => { l with peer := n }) s)
    | none => s)
  | _ =>
    if h.bcast then
      forEach (linksIn s fun l => decide (l.st = .up) && l.down) (fun m s => linkSend m h.src.val h.dst.val msg s) s
    else routeMsg h.src.val h.dst.val msg s

/-- FLIT_FORWARD: by a joined worker or by the manager between its branches (R709). -/
def execFlitForward (link : Fin 8) (h : FlitHdr) (msg : StMsg) (s : State) : Out :=
  let answer := match msg with | .joinAnswer .. => true | .join .. => true | _ => false
  if (isManager s || joined s) && (answer || h.bcast || decide (h.dst.val ≠ s.sth.devNo)) then
    .next (rxFlit link.val h (forwardMsg link.val h msg) s)
  else .next s

/-! ### The tree (R710-R713) -/

/-- The HELLO that this device sends on a link. -/
def ownHello (s : State) (k : Nat) : HelloInfo :=
  ⟨Config.uid, Fin.ofNat 4 (fld s F.SYS_STRAP_ROLE), Config.clevel, Fin.ofNat 4 (ownDepth s),
    (ownMgr s).map (BitVec.ofNat 64), (linkOf s k).uplink⟩

/-- HELLO_SEND: every 10 µs until the link is UP, SPARE or REFUSED (R710). -/
def execHelloSend (link : Fin 8) (s : State) : Out :=
  let k := link.val
  if linkOn s k && decide ((linkOf s k).st = .hello) && decide (s.now ≥ (linkOf s k).helloAt) then
    .next (modLink k (fun l => { l with hello := some (ownHello s k), helloAt := s.now + 10000 }) s)
  else .next s

/-- The library revisions of the VALID nano banks, as JOIN carries them (R712). -/
def validRevs (s : State) : List Nat :=
  (List.range 16).flatMap fun k => [false, true].filterMap fun b =>
    if (bankOf s k b).st = .valid then some (bankOf s k b).librev else none

/-- The link that a worker without an uplink chooses: the lowest whose peer has DEPTH 0, failing that DEPTH 1 (R711). -/
def uplinkChoice (s : State) : Option Nat :=
  let at_ (d : Nat) : List Nat :=
    linksIn s fun l => (decide (l.st = .hello) || decide (l.st = .spare)) && l.heard && !l.down && l.peerDepth == d
  (at_ 0 ++ at_ 1).head?

/-- A worker takes its uplink, further links to the same peer join the bundle, and JOIN is sent (R711, R712). -/
def takeUplink (k : Nat) (s : State) : State :=
  let uid := (linkOf s k).peerUid
  let mates := linksIn s fun l => (decide (l.st = .hello) || decide (l.st = .spare)) && l.heard && l.peerUid == uid
  let s := forEach mates (fun m s => setLink m .up (modLink m (fun l => { l with
    uplink := true, downAt := none, hello := some (ownHello s m) }) s)) s
  linkSend k 0 0 (.join ownUid Config.clevel.toNat (validRevs s) 0 0 k) s

/-- A worker without an uplink looks for one (R711, R713). -/
def seekUplink (s : State) : State :=
  if isWorker s && (uplinks s).isEmpty then
    match uplinkChoice s with
    | some k => takeUplink k s
    | none => s
  else s

/-- A link is REFUSED: its peer reaches a different manager, or both ends are managers (R711). -/
def refusedBy (s : State) (x : HelloInfo) : Bool :=
  (isManager s && x.role == 2) ||
    (match ownMgr s, x.mgr with | some a, some b => decide (a ≠ b.toNat) | _, _ => false)

/-- Place a link by the HELLO received (R711): REFUSED, part of the uplink's bundle, a down-link when the peer has chosen
it, the uplink when none is held, and SPARE once both ends reach the manager (notes/assumptions/19.md). -/
def placeLink (k : Nat) (x : HelloInfo) (s : State) : State :=
  let inBundle := (uplinks s).any fun m => decide (m ≠ k) && (linkOf s m).peerUid == x.uid.toNat
  if refusedBy s x then report 0x14 0 k 255 (setLink k .refused s)
  else if inBundle then setLink k .up (modLink k (fun l => { l with uplink := true, downAt := none }) s)
  else if x.chose then
    let peer := match s.sth.roster.find? (fun e => e.2.uid == x.uid.toNat) with | some e => e.1 | none => 0
    setLink k .up (modLink k (fun l => { l with down := true, downAt := none, peer := peer, phaseAt := s.now }) s)
  else
    let s := seekUplink s
    if (linkOf s k).st = .hello && (ownMgr s).isSome && x.mgr.isSome then setLink k .spare s else s

/-- HELLO (R711). -/
def execSthHello (link : Fin 8) (x : HelloInfo) (s : State) : Out :=
  let k := link.val
  let l := linkOf s k
  if linkOn s k && (decide (l.st = .hello) || decide (l.st = .spare)) then
    .next (placeLink k x (modLink k (fun l => { l with
      heard := true, peerUid := x.uid.toNat, peerDepth := x.depth.val, peerMgr := x.mgr.map BitVec.toNat }) s))
  else .next s

/-! ### Roster (R712-R718, R736) -/

/-- A roster entry; the manager's own is entry 0 (R715, R743). -/
def rosterOf (s : State) (n : Nat) : Roster :=
  if n = 0 then (if isManager s then ⟨.joined, ownUid, Config.clevel.toNat, 0, 0, 0, none⟩ else .reset)
  else tabGet .reset s.sth.roster n

/-- Put a roster entry, raising ROSTER when its state changes. -/
def setRoster (n : Nat) (r : Roster) (s : State) : State :=
  let old := rosterOf s n
  let s := modSth (fun t => { t with roster := tabSet .reset t.roster n r }) s
  if old.st = r.st then s else raise 755 s

/-- A roster record (R718, R811). -/
def rosterRec (event n old new : Nat) (s : State) : State :=
  ldgPush (mkRec s 4 0 ([event, n] ++ leBytes 8 old ++ leBytes 8 new ++ [(rosterOf s n).clevel, s.sth.floor])) s

/-- The lowest CLEVEL among the manager and the JOINED entries (R736). -/
def fleetFloor (s : State) : Nat :=
  (s.sth.roster.filter fun e => decide (e.2.st = .joined)).foldl (fun m e => min m e.2.clevel) Config.clevel.toNat

/-- The fleet floor is computed anew; a change raises FLOOR and is recorded (R718, R736). -/
def floorSettle (s : State) : State :=
  let f := fleetFloor s
  if f = s.sth.floor then s
  else rosterRec 4 0 ownUid ownUid (raise 758 (modSth (fun t => { t with floor := f }) s))

/-- The depth of a device below a parent. -/
def depthBelow (parent : Nat) : Nat := if parent = 0 then 1 else 2

/-- The manager's answer to a join, sent toward the joiner's position. -/
def joinReply (uid n parent plink : Nat) (ok : Bool) (s : State) : State :=
  let msg := StMsg.joinAnswer uid n (depthBelow parent) parent ok
  if parent = 0 then linkSend plink 0 n msg (modLink plink (fun l => { l with peer := n }) s) else sendMsg parent msg s

/-- A device is JOINED under a number, as a join (event 1) or a replacement (event 3). -/
def admitDev (n uid clevel parent plink olink event old : Nat) (s : State) : State :=
  let s := setRoster n ⟨.joined, uid, clevel, parent, plink, olink, none⟩ s
  let s := if event = 3 then raise 756 s else s
  joinReply uid n parent plink true (floorSettle (rosterRec event n old uid s))

/-- The first number of the roster that satisfies a test. -/
def rosterFind (s : State) (p : Roster → Bool) : Option Nat := ((List.range 64).drop 1).find? fun n => p (rosterOf s n)

/-- A join that the manager has attested takes its place (R715, R716): the entry of its SYS_UID, else the number of the
ABSENT entry at its position, else the lowest FREE number; new numbers and replacements wait PENDING with ADMIT. -/
def placeDev (uid clevel parent plink olink : Nat) (s : State) : State :=
  let hold := flag s F.STHM_CTRL_ADMIT
  let here (r : Roster) : Bool :=
    decide (r.st = .absent) && r.parent == parent && r.plink == plink && r.olink == olink
  match rosterFind s (fun r => decide (r.st ≠ .free) && r.uid == uid && r.claim.isNone) with
  | some n =>
    if (rosterOf s n).st = .pending then s else admitDev n uid clevel parent plink olink 1 uid s
  | none =>
    if s.sth.roster.any (fun e => (e.2.claim.map Prod.fst) == some uid) then s
    else
      match if flag s F.STHM_CTRL_INHERIT then rosterFind s here else none with
      | some n =>
        let r := rosterOf s n
        if hold then raise 757 (setRoster n { r with st := .pending, claim := some (uid, clevel) } s)
        else admitDev n uid clevel parent plink olink 3 r.uid s
      | none =>
        match rosterFind s (fun r => decide (r.st = .free)) with
        | some n =>
          if hold then raise 757 (setRoster n ⟨.pending, uid, clevel, parent, plink, olink, none⟩ s)
          else admitDev n uid clevel parent plink olink 1 0 s
        | none => joinReply uid 0 parent plink false s

/-- JOIN reaches the manager (R712, R715, R716, R766). -/
def execSthJoin (link : Fin 8) (h : FlitHdr) (uid : DWord) (clevel : Byte) (via : Option (Fin 64 × Fin 8)) (olink : Fin 8)
    (attested : Bool) (s : State) : Out :=
  let k := link.val
  let parent := match via with | some (p, _) => p.val | none => 0
  let plink := match via with | some (_, l) => l.val | none => k
  if isManager s then
    .next (rxFlit k h (fun s =>
      if attested then placeDev uid.toNat clevel.toNat parent plink olink.val s
      else joinReply uid.toNat 0 parent plink false s) s)
  else .next s

/-- A worker takes its number and depth and sends the notices it kept (R712, R741). -/
def joinedAs (n parent depth : Nat) (s : State) : State :=
  let mgr := match uplinks s with | k :: _ => (linkOf s k).peerMgr.getD 0 | [] => 0
  let s := forEach (uplinks s) (fun k s => modLink k (fun l => { l with peer := parent }) s) s
  let kept := s.sth.kept
  let s := modSth (fun t => { t with depth := depth, devNo := n, mgrUid := mgr, kept := [] }) s
  forEach kept (fun x s => sendMsg 0 (.loss { x with dev := n }) s) s

/-- The uplink is REFUSED (R712). -/
def joinRefused (s : State) : State :=
  forEach (uplinks s) (fun k s => linkDrop k .refused (modLink k (fun l => { l with uplink := false }) s)) s

/-- JOIN_ANSWER (R712). -/
def execJoinAnswer (link : Fin 8) (h : FlitHdr) (uid : DWord) (number parent : Fin 64) (depth : Fin 4) (ok : Bool)
    (s : State) : Out :=
  let k := link.val
  if isWorker s && (linkOf s k).uplink && uid == Config.uid then
    .next (rxFlit k h (if ok then joinedAs number.val parent.val depth.val else joinRefused) s)
  else .next s

/-- The devices that a lost link of the manager cuts off are ABSENT (R717). -/
def rosterLost (dev : Nat) (s : State) : State :=
  let gone := ((List.range 64).drop 1).filter fun n =>
    decide ((rosterOf s n).st = .joined) && (n == dev || (rosterOf s n).parent == dev)
  let s := forEach gone (fun n s =>
    let r := rosterOf s n
    rosterRec 2 n r.uid r.uid (setRoster n { r with st := .absent } s)) s
  if gone.isEmpty then s else floorSettle s

/-- A worker has lost its uplink: it is not joined, its down-links leave UP, and it looks for another (R713). -/
def uplinkLost (s : State) : State :=
  let s := forEach (uplinks s) (fun k s => modLink k (fun l => { l with uplink := false, downAt := none }) s) s
  let s := modSth (fun t => { t with depth := 3 }) s
  let s := forEach (linksIn s (·.down)) (fun k s =>
    linkDrop k .hello (modLink k (fun l => { l with down := false, helloAt := s.now }) s)) s
  seekUplink s

/-- STITCH_LINK_LOST: out of UP for 10 ms (R713, R717). A bundle is lost with its last link. -/
def execStitchLinkLost (link : Fin 8) (s : State) : Out :=
  let k := link.val
  let l := linkOf s k
  match l.downAt with
  | none => .next s
  | some t =>
    if l.st = .up || decide (s.now < t + 10000000) then .next s
    else
      let rest := linksIn s fun m => decide (m.st = .up) && m.uplink == l.uplink && m.down == l.down && m.peerUid == l.peerUid
      let s := modLink k (fun l => { l with downAt := none, uplink := false, down := false, replay := [] }) s
      let s := modLink k (fun l => { l with txSeq := 0, rxSeq := 4095, nak := false }) s
      if !rest.isEmpty then .next s
      else if l.uplink then .next (uplinkLost s)
      else if l.down && isManager s then .next (rosterLost l.peer s)
      else .next s

/-- A PENDING device is admitted (R716). -/
def admitPending (n : Nat) (r : Roster) (s : State) : State :=
  match r.claim with
  | some (u, c) => admitDev n u c r.parent r.plink r.olink 3 r.uid s
  | none => admitDev n r.uid r.clevel r.parent r.plink r.olink 1 0 s

/-- A PENDING device is refused: a replacement's entry is ABSENT again, a new one FREE (R712, R716). -/
def refusePending (n : Nat) (r : Roster) (s : State) : State :=
  match r.claim with
  | some (u, _) => joinReply u 0 r.parent r.plink false (setRoster n { r with st := .absent, claim := none } s)
  | none => joinReply r.uid 0 r.parent r.plink false (setRoster n .reset s)

/-- STHM_ADMIT; for an entry that is not PENDING it has no effect (R716). -/
def admitEffect (v : List Nat) (s : State) : State :=
  let n := valOf v F.STHM_ADMIT_DEVNO
  let r := rosterOf s n
  if r.st ≠ .pending then s
  else if valOf v F.STHM_ADMIT_ACCEPT = 1 then admitPending n r s
  else refusePending n r s

/-- STHM_ADMIT. -/
def execSthmAdmit (a : Acc) (s : State) : Out := .next (regCommit .STHM_ADMIT 0 0 a neverBusy anyOk admitEffect s)

/-! ### Placements (R717, R737-R739) -/

/-- A placement list as read (R738): STAGEPAT, NPARTS, the class, and device and LIBREV of each part. -/
structure PlaceList where
  stagepat : Nat
  nparts : Nat
  cls : List Nat
  parts : List (Nat × Nat)
  deriving DecidableEq, Repr

/-- The fields of a placement list, each in its descriptor width; a device number has one byte (notes/assumptions/19.md). -/
def placeListOf (b : List Nat) : PlaceList :=
  let n := dLe b 2 1
  ⟨dLe b 0 2, n, [dLe b 3 1, dLe b 4 1, dLe b 5 1, dLe b 6 1],
    (List.range n).map fun i => (dLe b (7 + 3 * i) 1, dLe b (8 + 3 * i) 2)⟩

/-- The entry of the equivalence table for a class at a level: its revisions (R737). -/
def equivRevs (s : State) (cls : List Nat) (level : Nat) : Option (List Nat) :=
  s.sec.equiv.bind fun b =>
    ((List.range (dLe b 6 2)).map fun i => b.drop (64 + 32 * i)).findSome? fun e =>
      if [dLe e 0 1, dLe e 1 1, dLe e 2 1, dLe e 3 1] == cls && dLe e 4 2 == level then
        some ((List.range (min (dLe e 6 1) 8)).map fun i => dLe e (8 + 2 * i) 2)
      else none

/-- The checks of R738 in their order: RESULT and EXTRA; RESULT 0 when all pass. -/
def placeCheck (s : State) (p : PlaceList) : Nat × Nat :=
  let bad (ok : Nat × Nat → Bool) : Option Nat :=
    (List.range p.parts.length).find? fun i => !ok (p.parts.getD i (0, 0))
  if s.sec.equiv.isNone then (1, 0)
  else if p.nparts < 2 || p.nparts > 64 then (2, 0)
  else if p.stagepat = 0 || (placementOf s p.stagepat).isSome then (3, 0)
  else
    match bad fun x => decide ((rosterOf s x.1).st = .joined) with
    | some i => (4, i)
    | none =>
      match equivRevs s p.cls s.sth.floor with
      | none => (5, 0)
      | some revs =>
        match bad fun x => revs.contains x.2 with
        | some i => (6, i)
        | none => if s.sth.places.length ≥ 64 then (7, 0) else (0, 0)

/-- A command of STHM_PLACE completes (STHM_PLRES, R742). -/
def placeDone (result extra : Nat) (s : State) : State :=
  raise 759 (setFld F.STHM_PLRES_RESULT result (setFld F.STHM_PLRES_EXTRA extra s))

/-- OP PLACE of a list in core SRAM (R738). -/
def placeOp (addr : Nat) (s : State) : State :=
  let p := placeListOf ((List.range 199).map fun i => (sramByte s (addr - 0x10000000 + i)).toNat)
  match placeCheck s p with
  | (0, _) => placeDone 0 0 (modSth (fun t => { t with places := t.places ++ [⟨p.stagepat, p.parts⟩] }) s)
  | (r, x) => placeDone r x s

/-- OP UNPLACE (R739). -/
def unplaceOp (stagepat : Nat) (s : State) : State :=
  match placementOf s stagepat with
  | none => placeDone 8 0 s
  | some _ => placeDone 0 0 (modSth (fun t => { t with places := t.places.filter fun p => p.stagepat != stagepat }) s)

/-- OP FORGET: an ABSENT entry returns to FREE (R717). -/
def forgetOp (n : Nat) (s : State) : State :=
  if (rosterOf s n).st = .absent then placeDone 0 0 (setRoster n .reset s) else placeDone 8 0 s

/-- What a commit of STHM_PLACE performs. -/
def sthmPlaceEffect (v : List Nat) (s : State) : State :=
  match valOf v F.STHM_PLACE_OP with
  | 1 => placeOp (valOf v F.STHM_PLACE_ALO + valOf v F.STHM_PLACE_AHI * 2 ^ 32) s
  | 2 => unplaceOp (valOf v F.STHM_PLACE_STAGEPAT) s
  | _ => forgetOp (valOf v F.STHM_PLACE_DEVNO) s

/-- A placement list lies in core SRAM (R738); the address is 0 for other OPs. -/
def sthmPlaceOk (v : List Nat) : Bool :=
  let a := valOf v F.STHM_PLACE_ALO + valOf v F.STHM_PLACE_AHI * 2 ^ 32
  if valOf v F.STHM_PLACE_OP = 1 then decide (0x10000000 ≤ a) && decide (a < 0x10800000) else a == 0

/-- The words of a command of STHM_PLACE. -/
def sthmPlace (req : Req) (addr top : Nat) (s : State) : Out :=
  .next (commitWords .STHM_PLACE 0 0 req [addr % 2 ^ 32, addr / 2 ^ 32, top] neverBusy sthmPlaceOk sthmPlaceEffect s)

/-- PLACE (R738). -/
def execSthPlace (req : Req) (addr : BitVec 48) (s : State) : Out := sthmPlace req addr.toNat (2 ^ 28) s

/-- UNPLACE (R739). -/
def execSthUnplace (req : Req) (stagepat : BitVec 16) (s : State) : Out :=
  sthmPlace req 0 (2 * 2 ^ 28 + stagepat.toNat) s

/-- FORGET (R717). -/
def execSthForget (req : Req) (dev : Fin 64) (s : State) : Out := sthmPlace req 0 (3 * 2 ^ 28 + dev.val * 2 ^ 16) s

/-- PLACEMENT_QUERY_RECEIVE: the manager answers from its placements (R318). -/
def execPlacementQueryReceive (link : Fin 8) (h : FlitHdr) (slot : Fin 256) (stagepat : BitVec 16) (part nparts : Byte)
    (librev : BitVec 16) (s : State) : Out :=
  if !isManager s then .next s
  else
    .next (rxOwn link.val h (fun s =>
      let ok := match placementOf s stagepat.toNat with
        | some p => p.parts.length == nparts.toNat && p.parts[part.toNat]? == some (h.src.val, librev.toNat)
        | none => false
      sendMsg h.src.val (.placeAnswer slot.val ok) s) s)

/-! ### Key requests and bay-loss notices (R740, R741) -/

/-- STAGE_KEY_REQUEST at the manager (R740). -/
def execStageKeyRequest (link : Fin 8) (h : FlitHdr) (stagepat : BitVec 16) (out : Fin 4) (s : State) : Out :=
  .next (if isManager s then rxOwn link.val h (stageKeySend stagepat.toNat out.val) s else s)

/-- STAGE_KEY_REQUEST_RECEIVE (R740). -/
def execStageKeyRequestReceive (link : Fin 8) (h : FlitHdr) (stagepat : BitVec 16) (out : Fin 4) (frame : BitVec 40)
    (s : State) : Out :=
  .next (rxOwn link.val h (keyTagged stagepat.toNat out.val frame.toNat) s)

/-- BAY_LOSS_NOTICE_RECEIVE at the manager (R741). -/
def execBayLossNoticeReceive (link : Fin 8) (h : FlitHdr) (bay : Fin 4) (slot : Fin 256) (stagepat : BitVec 16)
    (part : Byte) (outs : BitVec 4) (s : State) : Out :=
  .next (if isManager s then
    rxOwn link.val h (lossQueue ⟨h.src.val, bay.val, slot.val, stagepat.toNat, part.toNat % 64, outs.toNat⟩) s
  else s)

/-- The three words of SYS_LOSS when a notice, or none, is taken. -/
def lossWords (s : State) : List Nat :=
  let depth := s.sth.loss.length
  match s.sth.loss with
  | n :: _ =>
    [2 ^ 31 + n.dev * 2 ^ 25 + n.bay * 2 ^ 23 + n.outs * 2 ^ 16 + n.slot, n.stagepat * 2 ^ 16 + n.part,
      s.sth.lossDrop * 2 ^ 16 + (depth - 1)]
  | [] => [0, 0, s.sth.lossDrop * 2 ^ 16]

/-- A read of SYS_LOSS word 0 (R741); on a worker every field reads 0. -/
def sysLossRead (req : Nat) (s : State) : Nat × State :=
  if isWorker s then (0, latchWords .SYS_LOSS req 0 0 [0, 0, 0] s)
  else
    let w := lossWords s
    (w.getD 0 0, modSth (fun t => { t with loss := t.loss.drop 1 }) (latchWords .SYS_LOSS req 0 0 w s))

/-- A read of word 0 of SYS_LOSS (R741). -/
def lossServe (req : Nat) (s : State) : State := match sysLossRead req s with | (v, s) => answer req v s

/-- SYS_LOSS_READ (R741). -/
def execSysLossRead (req : Req) (s : State) : Out :=
  .next (readServed .SYS_LOSS 0 0 req (lossServe req.val) s)

/-! ### Raster phase (R719-R722) -/

/-- The three words of RCK_FMT. -/
def fmtWords (s : State) : Word × Word × Word :=
  let w (i : Nat) : Word := BitVec.ofNat 32 (rword s .RCK_FMT 0 0 i)
  (w 0, w 1, w 2)

/-- The servo state code of RCK_STATE. -/
def servoCode : Servo → Fin 5
  | .free => 0 | .acquire => 1 | .locked => 2 | .slew => 3 | .hold => 4

/-- PHASE_SEND: every 64 µs on an UP down-link; an end that owes a stamp returns it in its next PHASE (R719). -/
def execPhaseSend (link : Fin 8) (s : State) : Out :=
  let k := link.val
  let l := linkOf s k
  if linkOn s k && decide (l.st = .up) && (l.down || l.stamp.isSome) && decide (s.now ≥ l.phaseAt) then
    .next (modLink k (fun l => { l with
      phase := some ⟨rtPs s, servoCode s.rck.servo, fmtWords s, l.stamp⟩, phaseAt := s.now + 64000, stamp := none }) s)
  else .next s

/-- The Stitch source becomes available after its link has been forwarding phase for 1 ms (R92). -/
def phaseGained (s : State) : State :=
  if s.rck.sthAvail then s
  else
    match s.rck.sthUpSince with
    | none => modRck (fun r => { r with sthUpSince := some s.now }) s
    | some t =>
      if s.now ≥ t + 1000000 then sourceGained 2 (modRck (fun r => { r with sthAvail := true }) s) else s

/-- A PHASE flit of the uplink (R720, R722): availability, FMTDIFF, and one measurement for the servo. -/
def phaseSteer (k : Nat) (x : PhaseInfo) (s : State) : State :=
  let quiet := match (linkOf s k).lastPhase with | some t => decide (s.now ≥ t + 256000) | none => true
  let s := if quiet then modRck (fun r => { r with sthUpSince := none }) s else s
  let s := modLink k (fun l => { l with lastPhase := some s.now, fmtDiff := decide (x.fmt ≠ fmtWords s) }) s
  let s := phaseGained s
  if s.rck.sel = 2 && srcAvail s 2 then servoSync ((x.time + (linkOf s k).delay - rtPs s) / 1000) s else s

/-- PHASE_FLIT (R719-R722): the delay of the exchange that its stamp ends, the arrival stamp to return, and the phase. -/
def execPhaseFlit (link : Fin 8) (x : PhaseInfo) (s : State) : Out :=
  let k := link.val
  let l := linkOf s k
  if !linkOn s k || (l.st ≠ .up && l.st ≠ .spare) then .next s
  else
    let t4 := rtPs s
    let d := match x.stamp, l.phase with
      | some t2, some p => ((t2 - p.time) + (t4 - x.time)) / 2
      | _, _ => l.delay
    let s := modLink k (fun l => { l with delay := d }) s
    let s := if s.now ≥ l.stampAt then modLink k (fun l => { l with stamp := some t4, stampAt := s.now + 1000000 }) s else s
    .next (if l.uplink && l.st = .up && isWorker s then phaseSteer k x s else s)

/-- PHASELOST: no PHASE flit on the uplink for 256 µs (R721). -/
def execPhaseLost (s : State) : Out :=
  let fresh := (uplinks s).any fun k =>
    match (linkOf s k).lastPhase with | some t => decide (s.now < t + 256000) | none => false
  .next (if fresh then s else phaseGone s)

/-! ### Mailboxes (R728, R729) and streams (R731, R732) -/

/-- REMOTE_MAILBOX_DELIVER: the mailbox is written with SND the delivering link (R728). -/
def execRemoteMailboxDeliver (link : Fin 8) (h : FlitHdr) (origin box : Fin 256) (payload : DWord) (tag : Byte)
    (s : State) : Out :=
  .next (rxOwn link.val h
    (mbxWrite box.val (224 + link.val) payload.toNat tag.toNat (some (h.src.val, origin.val))) s)

/-- REMOTE_MAILBOX_ACK: FULL of the local mailbox clears (R729). -/
def execRemoteMailboxAck (link : Fin 8) (h : FlitHdr) (box : Fin 256) (s : State) : Out :=
  let r := (mbxOf s box.val).rcv
  .next (rxOwn link.val h (fun s => if 224 ≤ r && r < 232 then mbxClear box.val s else s) s)

/-- The RUNNING slots and inputs whose Stitch source is a stream of a device (R311). -/
def streamInputs (s : State) (dev stream : Nat) : List (Nat × Nat) :=
  (List.range 256).flatMap fun n =>
    let x := (patOf s n).desc
    if (patOf s n).st ≠ .running then []
    else
      ((List.range (dNin x)).filter fun i =>
        dIn x i 0 1 == 4 && bitsOf (dIn x i 0xA 6) 0 6 == dev && bitsOf (dIn x i 0xA 6) 8 16 == stream).map fun i => (n, i)

/-- A coded unit for every input of a stream (R732, R439). -/
def streamArrive (dev stream no ts : Nat) (marker : Bool) (note : Option (List Nat)) (data : List Nat) (s : State) :
    State :=
  let mk (e : Nat × Nat) : Arrival := ⟨e.1, e.2, no, no, ts, marker, frameNow s, lineTotal s, note, data⟩
  { s with arrivals := s.arrivals ++ (streamInputs s dev stream).map mk }

/-- STITCH_UNIT_RECEIVE (R732). -/
def execStitchUnitReceive (link : Fin 8) (h : FlitHdr) (stream no : BitVec 16) (ts : Word) (marker : Bool)
    (note : Option (BitVec 128)) (data : List Byte) (s : State) : Out :=
  .next (rxOwn link.val h (streamArrive h.src.val stream.toNat no.toNat ts.toNat marker
    (note.map fun x => leBytes 16 x.toNat) (data.map BitVec.toNat)) s)

/-- A unit of a local stream goes to every subscriber with its own count (R732). -/
def streamSend (stream ts : Nat) (marker : Bool) (note : Option (List Nat)) (data : List Nat) (s : State) : State :=
  let ws := note.map fun b => (leNat (b.take 8), leNat (b.drop 8))
  forEach (s.sth.subs.filter fun u => u.stream == stream) (fun u s =>
    let s := modSth (fun t => { t with
      subs := t.subs.map fun v => if v = u then { v with sent := (v.sent + 1) % 2 ^ 16 } else v }) s
    if u.dev = s.sth.devNo then streamArrive u.dev stream u.sent ts marker note data s
    else sendMsg u.dev (.unit stream u.sent ts marker ws data) s) s

/-! ### Tile channels (R733-R735) -/

/-- A tile channel's sender side. -/
def tchOf (s : State) (c : Nat) : TileCh := tabGet .reset s.sth.tch c

/-- Change a tile channel. -/
def modTch (c : Nat) (f : TileCh → TileCh) (s : State) : State := modSth (fun t => { t with tch := tabMod .reset t.tch c f }) s

/-- The value bits of a skein word; none when it cannot be read. -/
def skeinVal (k w : Nat) (s : State) : Option Nat × State :=
  match skmRead k w s with
  | (.ok v, s) => (some (v.toNat % 2 ^ 32), s)
  | (_, s) => (none, s)

/-- What a read word and the reads after it give: all words, or none from an uncorrectable one. -/
def skeinThen (x : MemRes × State) (go : State → Option (List Native) × State) : Option (List Native) × State :=
  match x with
  | (.ok v, s) =>
    (match go s with
     | (some l, s) => (some (v :: l), s)
     | (none, s) => (none, s))
  | (_, s) => (none, s)

/-- Words of a skein from an address; none when one cannot be read. -/
def skeinWords (k : Nat) : Nat → Nat → State → Option (List Native) × State
  | 0, _, s => (some [], s)
  | n + 1, w, s => skeinThen (skmRead k w s) (skeinWords k n (w + 1))

/-- Send blocks while SENT < PIDX and SENT − CIDXr < NSLOT (R733); at most NSLOT fit between two reports. -/
def tileSend (c k ring rk rring dev blk nslot pidx : Nat) : Nat → State → State
  | 0, s => s
  | n + 1, s =>
    let x := tchOf s c
    if !(decide (x.sent < pidx) && decide (x.sent < x.cidxR + nslot)) then s
    else
      let o := 2 + x.sent % nslot * blk
      match skeinWords k blk (ring + o) s with
      | (none, s) => s
      | (some ws, s) =>
        let s := sendMsg dev (.tile c rk rring ((rring + o) % 2 ^ 19) ws) s
        let s := sendMsg dev (.tilePidx c rk rring (x.sent + 1)) s
        tileSend c k ring rk rring dev blk nslot pidx n (modTch c (fun x => { x with sent := x.sent + 1 }) s)

/-- TILE_SEND_POLL (R733, R735). -/
def execTileSendPoll (chan : Fin 32) (s : State) : Out :=
  let c := chan.val
  let f (r : FieldRef) : Nat := fld s r 0 c
  let dev := f F.STH_TCH_RDEV
  let k := f F.STH_TCH_LSKN
  if !(flag s F.STH_TCH_EN 0 c) || !domUp s 190 || !domUp s (128 + k) then .next s
  else if (routeLinks s dev).isEmpty then .next (modTch c (fun x => { x with paused := true }) s)
  else
    let s' := modTch c (fun x => if x.paused then { x with paused := false, sent := x.conf } else x) s
    match skeinVal k (f F.STH_TCH_LRING) s' with
    | (none, s) => .next s
    | (some pidx, s) =>
      .next (tileSend c k (f F.STH_TCH_LRING) (f F.STH_TCH_RSKN) (f F.STH_TCH_RRING) dev (f F.STH_TCH_BLK)
        (f F.STH_TCH_NSLOT) pidx (f F.STH_TCH_NSLOT) s)

/-- A receiving side, by source device and channel. -/
def trxOf (s : State) (dev c : Nat) : TileRx := tabGet .reset s.sth.trx (dev * 32 + c)

/-- TILE_BLOCK_RECEIVE: every word of the block, then the new PIDX (R734). -/
def execTileBlockReceive (link : Fin 8) (h : FlitHdr) (chan : Fin 32) (skein : Fin 16) (ring addr : BitVec 19)
    (block : List Native) (pidx : Word) (s : State) : Out :=
  let k := skein.val
  if !domUp s (128 + k) then .next s
  else
    .next (rxOwn link.val h (fun s =>
      let s := forEach (List.range block.length) (fun i => skmPut k (addr.toNat + i) (block.getD i 0)) s
      let s := skmPut k ring.toNat (BitVec.ofNat 72 pidx.toNat) s
      modSth (fun t => { t with
        trx := tabMod .reset t.trx (h.src.val * 32 + chan.val)
          (fun x => { x with skein := k, ring := ring.toNat, pidx := pidx.toNat }) }) s) s)

/-- TILE_CIDX_POLL: a changed CIDX is reported (R734). -/
def execTileCidxPoll (src : Fin 64) (chan : Fin 32) (s : State) : Out :=
  let x := trxOf s src.val chan.val
  if x = TileRx.reset || !domUp s (128 + x.skein) then .next s
  else
    match skeinVal x.skein (x.ring + 1) s with
    | (none, s) => .next s
    | (some v, s) =>
      if v = x.cidx then .next s
      else
        let put (y : TileRx) : TileRx := { y with cidx := v }
        let s := modSth (fun t => { t with trx := tabMod .reset t.trx (src.val * 32 + chan.val) put }) s
        .next (sendMsg src.val (.tileCidx chan.val v) s)

/-- TILE_CIDX_REPORT: CIDXr and the blocks confirmed (R733, R735). -/
def execTileCidxReport (link : Fin 8) (h : FlitHdr) (chan : Fin 32) (cidx pidx : Word) (s : State) : Out :=
  .next (rxOwn link.val h (fun s =>
    if fld s F.STH_TCH_RDEV 0 chan.val = h.src.val then
      modTch chan.val (fun x => { x with cidxR := cidx.toNat, conf := pidx.toNat }) s
    else s) s)

/-- A commit that changes an enabled channel without clearing EN is refused (STH_TCH). -/
def sthTchBusy (s : State) (c : Nat) (v : List Nat) : Option Berr :=
  busyIf (flag s F.STH_TCH_EN 0 c && valOf v F.STH_TCH_EN == 1 && v != (List.range 4).map fun w => rword s .STH_TCH 0 c w)

/-- A channel enabled starts with SENT 0. -/
def sthTchEffect (c : Nat) (old s : State) : State :=
  if flag s F.STH_TCH_EN 0 c && !flag old F.STH_TCH_EN 0 c then modTch c (fun _ => .reset) s else s

/-- The switched domain of the first four links carries the stage registers; a link domain that goes down leaves its links
OFF (R743). -/
def sthDomainLost (first : Nat) (s : State) : State :=
  forEach ((List.range 4).map (first + ·)) (fun k s =>
    modLink k (fun _ => .reset) (if (linkOf s k).st = .off then s else linkDrop k .off s)) s

end Sys2Proof.Machine
end

