-- ==== Sys2Proof/Machine/Domains.lean ====
section
/-! DEFINITION. What a switched domain loses when it goes down and begins when it comes up, and what a device reset and a
loss of supply leave (spec/02 R63; spec/20 R772-R780, R791; spec/22 R835). -/

namespace Sys2Proof.Machine

/-! ### Registers of a domain (R63) -/

/-- The frames whose registers a switched domain powers. -/
def domFrames (d : Nat) : List Nat :=
  (List.range 424).filter fun f => match frameBlk f with
    | some (b, n) => blkDomain b n == some d
    | none => false

/-- The word number of a key, without the requester of a copy. -/
def bareKey (k : Nat) : Nat := k % 2 ^ 22

/-- Registers held in the awning domain: PWR_AWCFG, ICT_WAKEw, LDG_RSPCFG and LDG_RSPCNT (R63). -/
def awningKey (k : Nat) : Bool :=
  let w := bareKey k
  w == regKey .PWR_AWCFG 0 0 0 || w == regKey .LDG_RSPCFG 0 0 0 || w == regKey .LDG_RSPCNT 0 0 0 ||
    (decide (regKey .ICT_WAKE 0 0 0 ≤ w) && decide (w < regKey .ICT_WAKE 0 0 0 + 64))

/-- Drop the stored words, staged and latched words and parity of some register words, and the unlocks of frames. -/
def dropRegs (p : Nat → Bool) (frames : List Nat) (s : State) : State :=
  let keep (k : Nat) : Bool := awningKey k || !p (bareKey k)
  let b := s.bus
  { s with bus := { b with
      regs := b.regs.filter fun e => keep e.1
      staged := b.staged.filter fun e => keep e.1
      latched := b.latched.filter fun e => keep e.1
      parBad := b.parBad.filter fun e => keep e.1
      parReported := b.parReported.filter fun e => keep e.1
      keys := b.keys.filter fun e => !frames.contains e.1
      parPos := b.parPos.filter fun e => !frames.contains e.1
      parAt := b.parAt.filter fun e => !frames.contains e.1 } }

/-- The parity checkers of some frames start in the next cycle, at the lowest register (R74). -/
def parBegin (frames : List Nat) (s : State) : State :=
  let t := frames.foldl (fun t f => tabSet 0 t f (s.now + 1)) s.bus.parAt
  { s with bus := { s.bus with parAt := t } }

/-- The registers of a domain take their reset values (R63). -/
def domRegs (d : Nat) (s : State) : State :=
  let fs := domFrames d
  dropRegs (fun w => fs.contains (w / 0x1000)) fs s

/-- The LFI_CFG to LFI_CMD words of the FIFOs of a group. -/
def lfiRegs (g : Nat) (s : State) : State :=
  let base := regKey .LFI_CFG 0 0 0
  dropRegs (fun w => decide (base + 64 * g ≤ w) && decide (w < base + 64 * (g + 1))) [] s

/-! ### One domain (R774) -/

/-- Erase the entries of a table whose numbers a block's domain holds. -/
def dropTab {α : Type} (t : Tab α) (p : Nat → Bool) : Tab α := t.filter fun e => !p e.1

/-- A number lies among `n` from `a`. -/
def among (a n k : Nat) : Bool := decide (a ≤ k) && decide (k < a + n)

/-- A needle's domain: its state, its local store and its semaphores; SYS still knows the slot it is placed in. -/
def needleLost (n : Nat) (s : State) : State :=
  let s := modNdl n (fun x => { Ndl.reset with slot := x.slot }) s
  let s := modMem (fun m => { m with
    ls := dropTab m.ls (fun k => k / 2 ^ 15 == n), lsFlip := dropTab m.lsFlip (fun k => k / 2 ^ 15 == n) }) s
  (semRevoke n s).2

/-- A skein's domain: banks, distributors and skein memory. -/
def skeinLost (k : Nat) (s : State) : State :=
  let s := skmZero k { s with
    skn := tabErase s.skn k, bank := dropTab s.bank (among (2 * k) 2), dist := dropTab s.dist (among (2 * k) 2) }
  storeSettle s

/-- A bay's domains: the bay is OFF and its memory lost (R475). -/
def bayLost (b : Nat) (s : State) : State :=
  let s := setBay b .off s
  modMem (fun m => { m with
    mchs := dropTab m.mchs (among (4 * b) 4), rld := dropTab m.rld (fun k => k / 2 ^ 30 == b)
    rldFlip := dropTab m.rldFlip (fun k => k / 2 ^ 30 == b), diag := dropTab m.diag (among (4 * b) 4) }) s

/-- The interrupt controller's domain: pending bits of wake-enabled sources and their groups stay in the awning
domain (R686); everything else is lost. -/
def ictLost (s : State) : State :=
  let src := s.ict.srcs.filter fun e => wakeEnabled s e.1
  let gs := src.map fun e => e.2.group
  { s with ict := { Ict.reset with srcs := src, groups := s.ict.groups.filter fun e => gs.contains e.1 } }

/-- What a domain holds beside its registers is lost. -/
def domState (d : Nat) (s : State) : State :=
  if d < 128 then needleLost d s
  else if d < 144 then skeinLost (d - 128) s
  else if d < 160 then bayLost ((d - 144) / 4) s
  else if d < 176 then { s with lane := dropTab s.lane (among (4 * (d - 160)) 4) }
  else if d < 182 then { s with eth := dropTab s.eth (among (4 * (d - 176)) 4) }
  else if d < 190 then { s with mag := dropTab s.mag (among (2 * (d - 182)) 2) }
  else if d < 192 then sthDomainLost (4 * (d - 190)) s
  else if d < 200 then (semRevoke (128 + (d - 192)) (ctxLost (d - 192) s)).2
  else if d = 200 then { s with ssw := .reset }
  else if d = 201 then { s with ft := .reset }
  else if d = 203 then { s with stl := .reset }
  else if 204 ≤ d && d < 208 then
    let s := { s with prt := dropTab s.prt (among (16 * (d - 204)) 16) }
    forEach (List.range 16) (fun i s => (semRevoke (136 + 16 * (d - 204) + i) s).2) s
  else if 208 ≤ d && d < 212 then
    lfiRegs (d - 208) { s with
      lfi := dropTab s.lfi (among (16 * (d - 208)) 16), port := dropTab s.port (among (32 * (d - 208)) 32) }
  else if d = 212 then { s with rck := { Rck.reset with oscRec := s.rck.oscRec }, ptp := [] }
  else if d = 213 then ictLost s
  else s

/-- The domains that switch with a domain: a bay's four channels together (R475). -/
def withBay (d : Nat) : List Nat := if 144 ≤ d && d < 160 then (List.range 4).map (bayLead d + ·) else [d]

/-- A domain goes down. -/
def domDown (d : Nat) (s : State) : State :=
  let s := domState d s
  forEach (withBay d) (fun d s => setUp d false (domRegs d s)) s

/-- The address at which a core whose domain comes up starts (R778). -/
def resumeAddr (s : State) : Nat :=
  fld s F.PWR_RVEC_ADDR_LO * 4 + fld s F.PWR_RVEC_ADDR_HI * 2 ^ 32

/-- A domain comes up, and its block begins its initialisation (R234, R235, R476, R778). -/
def domStart (d : Nat) (s : State) : State :=
  let s := forEach (withBay d) (fun d s => parBegin (domFrames d) (setUp d true s)) s
  if d < 128 then modNdl d (fun x => { x with zeroing := true }) s
  else if d < 144 then modSkn (d - 128) (fun x => { x with zeroing := true }) s
  else if d < 160 then setBay ((d - 144) / 4) .init s
  else if 192 ≤ d && d < 200 then
    let a := resumeAddr s
    { s with pwr := { s.pwr with coreEntry := tabSet 0 s.pwr.coreEntry (d - 192) a } }
  else s

/-! ### Reset and loss of supply (R63, R782, R791, R835) -/

/-- Every block at its reset values; what the awning domain, the Ledger array, the fuses and the boot flash hold stays. -/
def baseReset (s : State) : State :=
  let l := ldgDown s
  { State.reset with
    pending := s.pending, now := s.now, free := s.free
    bus := { Bus.reset with regs := s.bus.regs.filter fun e => awningKey e.1 }
    ict := (ictLost s).ict
    ldg := l.ldg, tly := l.tly
    sec := { Sec.reset with owner := s.sec.owner, krev := s.sec.krev, rbcnt := s.sec.rbcnt, flash := s.sec.flash }
    pwr := { Pwr.reset with
      mode := s.pwr.mode, prev := s.pwr.prev, cause := s.pwr.cause, up := 0, holdaw := s.pwr.holdaw, wake := s.pwr.wake
      startAt := s.pwr.startAt, resetHigh := s.pwr.resetHigh, fallDue := s.pwr.fallDue, tj := s.pwr.tj
      awningTj := s.pwr.awningTj, mtimeBase := s.now } }

/-- The main supplies go: every domain but the awning is down, and the device enters AWNING (R790-R792). -/
def powerOff (s : State) : State :=
  let s := raise 772 s
  let old := s.pwr.mode
  let s := baseReset s
  { s with pwr := { s.pwr with mode := .awning, prev := old, startAt := none, resetHigh := s.pwr.resetHigh } }

/-- CAST-ON begins: straps sampled, the domains of the reset values up (R782, R843); cast-ons and earlier falls of PWRGD
are counted (R818). -/
def enterCastOn (rstCause straps : Nat) (s : State) : State :=
  let s := baseReset s
  let s := { s with pwr := { s.pwr with
    up := Pwr.reset.up, rstCause := rstCause, resetHigh := true, wake := false, startAt := none, mtimeBase := s.now } }
  let s := setFld F.SYS_STRAP_ROLE (bitsOf straps 4 2) (setFld F.SYS_STRAP_BOOTSEL (bitsOf straps 0 3) s)
  let s := tallyAdd 435 s.pwr.fallDue (tally 433 (setMode .castOn 1 s))
  { s with pwr := { s.pwr with fallDue := 0 } }

end Sys2Proof.Machine
end

