-- ==== Sys2Proof/Machine/FlowTable.lean ====
section
/-! DEFINITION. The flow table: entries, keys, the update engine with its steps and relocation, learning, ageing and the
commands of FT_CMD (spec/14 R586-R602). -/

namespace Sys2Proof.Machine

/-! ### Entries and keys (R586, R587) -/

/-- Change the flow table. -/
def modFt (f : Ft → Ft) (s : State) : State := { s with ft := f s.ft }

/-- KTYPE of an entry. -/
def ftKtype (w0 : Native) : Nat := bitsOf w0.toNat 68 4

/-- KEY of an entry. -/
def ftKey (w0 : Native) : Nat := w0.toNat % 2 ^ 64

/-- STATIC. -/
def ftStatic (w0 : Native) : Bool := bitAt w0.toNat 66

/-- MOVING. -/
def ftMoving (w0 : Native) : Bool := bitAt w0.toNat 65

/-- Word 0 with MOVING set or cleared. -/
def setMoving (w0 : Native) (b : Bool) : Native := BitVec.ofNat 72 (setBits w0.toNat 65 1 (b2n b))

/-- STAMP of an entry. -/
def ftStamp (w1 : Native) : Nat := bitsOf w1.toNat 56 8

/-- Word 1 with a new STAMP. -/
def setStamp (w1 : Native) (v : Nat) : Native := BitVec.ofNat 72 (setBits w1.toNat 56 8 v)

/-- The nine bytes that a key hashes (R587). -/
def keyBytes (kt key : Nat) : List Nat := (kt * 16) :: (leBytes 8 key).reverse

/-- The first slot of a key's bucket in half 0 or 1. -/
def ftBucket (kt key half : Nat) : Nat :=
  if half = 0 then crc32 (keyBytes kt key) % 2 ^ 14 * 4 else 65536 + crc32c (keyBytes kt key) % 2 ^ 14 * 4

/-- The eight slots of a key: H0 ways 0–3, then H1 ways 0–3. -/
def ftSlots (kt key : Nat) : List Nat :=
  let a := ftBucket kt key 0
  let b := ftBucket kt key 1
  [a, a + 1, a + 2, a + 3, b, b + 1, b + 2, b + 3]

/-- A slot's entry; an unreadable slot matches nothing (R601). -/
def ftAt (s : State) (i : Nat) : Option (Native × Native) :=
  if s.ft.broken.contains i then none else tabFind s.ft.slots i

/-- A slot holds the key. -/
def ftIs (s : State) (kt key i : Nat) : Bool :=
  match ftAt s i with
  | some (w0, _) => ftKtype w0 == kt && ftKey w0 == key
  | none => false

/-- The slots that hold a key. -/
def ftHolding (s : State) (kt key : Nat) : List Nat := (ftSlots kt key).filter (ftIs s kt key)

/-- The slot at which a key is found: the new copy while it moves. EGRESS entries never match (R588, R597). -/
def ftFind (s : State) (kt key : Nat) : Option Nat :=
  if kt = 3 then none
  else
    match ftHolding s kt key with
    | [] => none
    | [i] => some i
    | i :: j :: _ =>
      match s.ft.sw.bind (·.half), s.ft.op.bind (·.half) with
      | some (_, t), _ => if t = i || t = j then some t else some i
      | none, some (_, t) => if t = i || t = j then some t else some i
      | none, none => some i

/-- Write a slot whole; a slot so rewritten is readable again (R601). -/
def ftPut (i : Nat) (e : Native × Native) (s : State) : State :=
  modFt (fun t => { t with slots := tabInsert (tabErase t.slots i) i e, broken := t.broken.filter (fun j => j != i) }) s

/-- Invalidate a slot. -/
def ftClear (i : Nat) (s : State) : State :=
  modFt (fun t => { t with slots := tabErase t.slots i, broken := t.broken.filter (fun j => j != i) }) s

/-- Valid entries, moving copies counted once (FT_STAT.COUNT). -/
def ftCount (s : State) : Nat :=
  let copies := (match s.ft.sw.bind (·.half) with | some _ => 1 | none => 0) +
    (match s.ft.op.bind (·.half) with | some _ => 1 | none => 0)
  s.ft.slots.length - copies

/-! ### Relocation (R590, R591, R599) -/

/-- Slots of the other operation's chain (R599). -/
def ftReserved (x : Option FtOp) : List Nat :=
  match x with
  | none => []
  | some o => o.moves.flatMap (fun m => [m.1, m.2]) ++ (match o.half with | some m => [m.1, m.2] | none => [])

/-- A slot is free for an insert. -/
def ftFree (s : State) (res : List Nat) (i : Nat) : Bool := (tabFind s.ft.slots i).isNone && !res.contains i

/-- The lowest free way of a bucket. -/
def freeWay (s : State) (res : List Nat) (b : Nat) : Option Nat :=
  [b, b + 1, b + 2, b + 3].find? (ftFree s res)

/-- The other bucket of the entry in a slot, when it may move: not static and not of the other operation's chain. -/
def otherBucket (s : State) (res : List Nat) (i : Nat) : Option Nat :=
  match tabFind s.ft.slots i with
  | some (w0, _) =>
    if ftStatic w0 || ftMoving w0 || res.contains i then none
    else some (ftBucket (ftKtype w0) (ftKey w0) (if i < 65536 then 1 else 0))
  | none => none

/-- One depth of the search: each chain, newest slot first, is tried in order. Answers a chain with its free way, or the
chains of the next depth, and the buckets read (R590). -/
def searchLevel (s : State) (res : List Nat) : List (List Nat) → Nat → List (List Nat) →
    (Option (List Nat × Nat) × List (List Nat)) × Nat
  | [], n, acc => ((none, acc), n)
  | c :: t, n, acc =>
    match c with
    | [] => searchLevel s res t n acc
    | i :: _ =>
      match otherBucket s res i with
      | none => searchLevel s res t n acc
      | some b =>
        match freeWay s res b with
        | some f => ((some (c, f), acc), n + 1)
        | none =>
          let next := ([b, b + 1, b + 2, b + 3].filter (fun j => !c.contains j)).map (fun j => j :: c)
          searchLevel s res t (n + 1) (acc ++ next)

/-- Breadth-first search to a depth; answers the chain with its free way and the buckets read. -/
def searchChain (s : State) (res : List Nat) : Nat → List (List Nat) → Nat → Option (List Nat × Nat) × Nat
  | 0, _, n => (none, n)
  | d + 1, cs, n =>
    match searchLevel s res cs n [] with
    | ((some r, _), m) => (some r, m)
    | ((none, next), m) => searchChain s res d next m

/-- The moves of a chain, from its end: each into a free slot (R590). -/
def chainMoves : List Nat → Nat → List (Nat × Nat)
  | [], _ => []
  | i :: t, f => (i, f) :: chainMoves t i

/-- Where a new entry goes. -/
inductive FtPlan where
  | at_ (i : Nat) (moves : List (Nat × Nat)) (evict : Bool)
  | full
  deriving DecidableEq, Repr

/-- The oldest non-static entry of a key's slots, the lowest index winning a tie (R591). -/
def oldest (s : State) (res : List Nat) (l : List Nat) : Option Nat :=
  let age (i : Nat) : Nat := match tabFind s.ft.slots i with | some (_, w1) => (s.ft.epoch + 256 - ftStamp w1) % 256 | none => 0
  let ok := l.filter fun i =>
    !res.contains i && (match tabFind s.ft.slots i with | some (w0, _) => !ftStatic w0 | none => false)
  let top := ok.foldl (fun m i => max m (age i)) 0
  (ok.filter (fun i => age i == top)).foldl (fun m i => match m with | none => some i | some j => some (min i j)) none

/-- The plan of an insert, and the bucket reads it takes (R590, R591). -/
def ftPlan (s : State) (res : List Nat) (kt key : Nat) : FtPlan × Nat :=
  match ftFind s kt key with
  | some i => (.at_ i [] false, 2)
  | none =>
    let a := ftBucket kt key 0
    let b := ftBucket kt key 1
    match freeWay s res a, freeWay s res b with
    | some i, _ => (.at_ i [] false, 2)
    | none, some i => (.at_ i [] false, 2)
    | none, none =>
      match searchChain s res (fld s F.FT_CFG_RDEPTH) ((ftSlots kt key).map (fun i => [i])) 0 with
      | (some (c, f), n) => (.at_ (c.getLast?.getD f) (chainMoves c f) false, 2 + n)
      | (none, n) =>
        match oldest s res (ftSlots kt key) with
        | some i => (.at_ i [] true, 2 + n)
        | none => (.full, 2 + n)

/-! ### Results (FT_RES) -/

/-- FT_RES of a requester: result code, flags, index, new index and entry. -/
def ftResult (req code : Nat) (evict moving : Bool) (idx newidx : Nat) (e : Native × Native) (s : State) : State :=
  let put (w v : Nat) (s : State) : State := setRwordQ .FT_RES req 0 0 w v s
  let w0 := e.1.toNat
  let w1 := e.2.toNat
  put 0 (code * 2 ^ 28 + b2n evict * 2 ^ 27 + b2n moving * 2 ^ 26 + idx % 2 ^ 17)
    (put 1 (newidx % 2 ^ 17) (put 2 (w0 % 2 ^ 32) (put 3 (w0 / 2 ^ 32 % 2 ^ 32) (put 4 (w0 / 2 ^ 64 % 256)
      (put 5 (w1 % 2 ^ 32) (put 6 (w1 / 2 ^ 32 % 2 ^ 32) (put 7 (w1 / 2 ^ 64 % 256) s)))))))

/-- A result without an entry. -/
def ftCode (req code idx : Nat) (s : State) : State := ftResult req code false false idx 0 (0, 0) s

/-- Destination codes an entry may hold (R586). -/
def ftDestOk (w1 : Native) : Bool := decide (bitsOf w1.toNat 69 3 ≤ 5)

/-- KTYPE and key bits are defined (FT_CMD). -/
def ftKeyOk (w0 : Native) : Bool :=
  let k := ftKey w0
  match ftKtype w0 with
  | 1 => bitsOf k 60 4 == 0 && bitsOf k 48 12 < 4096
  | 2 => bitsOf k 56 8 == 0
  | 3 => true
  | _ => false

/-- The other new copy of a moving entry, at its index. -/
def movedTo (s : State) (i : Nat) : Nat :=
  let hit (o : Option FtOp) : Option Nat :=
    match o.bind (·.half) with
    | some (f, t) => if f = i || t = i then some t else none
    | none => none
  ((hit s.ft.sw).orElse (fun _ => hit s.ft.op)).getD i

/-- The lowest-numbered slot with a non-static entry. -/
def firstDynamic (s : State) : Option Nat := (s.ft.slots.find? (fun e => !ftStatic e.2.1)).map Prod.fst

/-! ### The update engine (R595-R599) -/

/-- The entry of an insert: valid, stamped with the epoch, not moving; `learned` marks it LEARNED. -/
def ftEntry (s : State) (w0 w1 : Native) (learned : Bool) : Native × Native :=
  (BitVec.ofNat 72 (setBits (setBits (setBits w0.toNat 67 1 1) 65 1 0) 64 1 (b2n learned)), setStamp w1 s.ft.epoch)

/-- What one step of an operation leaves: the operation continued, or its end. -/
abbrev FtStep := Option FtOp × State

/-- The next step of a chain: a copy into the new slot, then the old one invalidated (R597). -/
def moveStep (o : FtOp) (m : Nat × Nat) (s : State) : FtStep :=
  match o.half with
  | none =>
    match tabFind s.ft.slots m.1 with
    | some (w0, w1) =>
      let e := (setMoving w0 true, w1)
      (some { o with half := some m }, bump F.FT_CNT1_RELOC (ftPut m.2 e (ftPut m.1 e s)))
    | none => (some { o with moves := o.moves.drop 1 }, s)
  | some m =>
    let s :=
      match tabFind s.ft.slots m.2 with
      | some (w0, w1) => ftPut m.2 (setMoving w0 false, w1) (ftClear m.1 s)
      | none => ftClear m.1 s
    (some { o with half := none, moves := o.moves.drop 1 }, s)

/-- An insert is refused: FULL (R591). -/
def ftFullEnd (o : FtOp) (s : State) : State :=
  let s := raise 720 (bump F.FT_CNT2_FULL s)
  match o.kind with
  | .insert => ftCode o.req 2 0 s
  | _ => s

/-- Both copies of a moving entry take a change made to one: the other is rewritten from it. -/
def syncCopies (i : Nat) (s : State) : State :=
  match tabFind s.ft.slots i with
  | some (w0, w1) =>
    if ftMoving w0 then
      forEach (ftHolding s (ftKtype w0) (ftKey w0)) (fun j s => ftPut j (w0, w1) s) s
    else s
  | none => s

/-- The last step of an insert: the slot written whole (R590, R591). -/
def placeStep (o : FtOp) (s : State) : State :=
  let learned := match o.kind with | .learn _ => true | _ => false
  let e := ftEntry s o.w0 o.w1 learned
  let moving := match tabFind s.ft.slots o.idx with
    | some (w0, _) => ftMoving w0 && ftIs s (ftKtype o.w0) (ftKey o.w0) o.idx
    | none => false
  let s := if moving then syncCopies o.idx (ftPut o.idx (setMoving e.1 true, e.2) s) else ftPut o.idx e s
  let s := if o.evict then raise 720 (bump F.FT_CNT1_EVICT s) else s
  match o.kind with
  | .insert => ftResult o.req 0 o.evict false o.idx 0 e s
  | _ => bump F.FT_CNT0_LEARNED s

/-- One step of an insert after its reads. -/
def insertStep (other : Option FtOp) (o : FtOp) (s : State) : FtStep :=
  if !o.planned then
    match ftPlan s (ftReserved other) (ftKtype o.w0) (ftKey o.w0) with
    | (.full, _) => (none, ftFullEnd o s)
    | (.at_ i moves ev, _) =>
      let o := { o with planned := true, idx := i, moves := moves, evict := ev }
      match moves with
      | m :: _ => moveStep o m s
      | [] => (none, placeStep o s)
  else
    match o.half, o.moves with
    | some m, _ => moveStep o m s
    | none, m :: _ => moveStep o m s
    | none, [] => (none, placeStep o s)

/-- A known source is seen (R589). -/
def learnKnown (i port : Nat) (s : State) : State :=
  match tabFind s.ft.slots i with
  | none => s
  | some (w0, w1) =>
    let same := bitsOf w1.toNat 64 5 == port
    if ftStatic w0 then (if same then s else bump F.FT_CNT3_SMOVE s)
    else if same then ftPut i (w0, setStamp w1 s.ft.epoch) s
    else
      let r := setBits (setBits w1.toNat 69 3 1) 64 5 port
      bump F.FT_CNT0_MOVED (ftPut i (w0, setStamp (BitVec.ofNat 72 r) s.ft.epoch) s)

/-- One step of an operation whose reads are done. -/
def finalStep (other : Option FtOp) (o : FtOp) (s : State) : FtStep :=
  let kt := ftKtype o.w0
  let key := ftKey o.w0
  match o.kind with
  | .lookup =>
    (none,
      match ftFind s kt key with
      | some i =>
        (match tabFind s.ft.slots i with
         | some e => ftResult o.req 0 false (ftMoving e.1) i (if ftMoving e.1 then movedTo s i else 0) e s
         | none => ftCode o.req 1 0 s)
      | none => ftCode o.req 1 0 s)
  | .insert => insertStep other o s
  | .delete =>
    (none,
      match ftHolding s kt key with
      | [] => ftCode o.req 1 0 s
      | i :: l => ftCode o.req 0 i (forEach (i :: l) ftClear s))
  | .readIdx =>
    (none,
      match ftAt s o.idx with
      | some e => ftResult o.req 0 false (ftMoving e.1) o.idx (if ftMoving e.1 then movedTo s o.idx else 0) e s
      | none => ftCode o.req 0 o.idx s)
  | .writeIdx =>
    (none,
      if (match tabFind s.ft.slots o.idx with | some e => ftMoving e.1 | none => false) then ftCode o.req 4 o.idx s
      else
        let free := kt == 3 && ftStatic o.w0
        let home := (ftSlots kt key).contains o.idx && (ftHolding s kt key).all (fun i => i == o.idx)
        if free || home then
          let e : Native × Native := (setMoving o.w0 false, o.w1)
          let s := if bitAt o.w0.toNat 67 then ftPut o.idx e s else ftClear o.idx s
          ftResult o.req 0 false false o.idx 0 e s
        else ftCode o.req 3 o.idx s)
  | .flush =>
    match firstDynamic s with
    | some i =>
      let s := ftClear i s
      if (firstDynamic s).isSome then (some o, s) else (none, ftCode o.req 0 0 s)
    | none => (none, ftCode o.req 0 0 s)
  | .learn (.source k port) =>
    match ftFind s 1 k with
    | some i => if o.planned then insertStep other o s else (none, syncCopies i (learnKnown i port s))
    | none => insertStep other o s
  | .learn (.refresh kt key) =>
    (none,
      match ftFind s kt key with
      | some i =>
        (match tabFind s.ft.slots i with
         | some (w0, w1) => if ftStatic w0 then s else syncCopies i (ftPut i (w0, setStamp w1 s.ft.epoch) s)
         | none => s)
      | none => s)

/-- Two operations are for the same key (R599). -/
def sameKey (a b : FtOp) : Bool := a.w0.toNat % 2 ^ 64 == b.w0.toNat % 2 ^ 64 && ftKtype a.w0 == ftKtype b.w0

/-- One step of an operation: a bucket read while reads remain, else its next write or its end (R595). -/
def opStep (other : Option FtOp) (o : FtOp) (s : State) : FtStep :=
  if o.reads > 1 then (some { o with reads := o.reads - 1 }, s)
  else if o.reads = 1 && (match o.kind with | .lookup => false | .readIdx => false | .flush => false | _ => true) then
    (some { o with reads := 0 }, s)
  else finalStep other o s

/-- One step of the update engine: the software command and the learning request alternate (R595), unless they are for
one key, when the earlier is performed first (R599). -/
def ftEngine (s : State) : State :=
  match s.ft.sw, s.ft.op with
  | none, none => s
  | some o, none => let r := opStep none o s; modFt (fun t => { t with sw := r.1, swNext := false }) r.2
  | none, some o => let r := opStep none o s; modFt (fun t => { t with op := r.1, swNext := true }) r.2
  | some a, some b =>
    if (if sameKey a b then b.waits else s.ft.swNext) then
      let r := opStep (some b) a s
      modFt (fun t => { t with sw := r.1, swNext := false }) r.2
    else
      let r := opStep (some a) b s
      modFt (fun t => { t with op := r.1, swNext := true }) r.2

/-! ### Requests (R589, R593) -/

/-- A learning request enters the queue, or is dropped (R589, R602). -/
def learnPush (l : Learn) (s : State) : State :=
  if !domUp s 201 then s
  else if s.ft.lrn.length ≥ 256 then bump F.FT_CNT2_LRNDROP s
  else modFt (fun t => { t with lrn := t.lrn ++ [l] }) s

/-- Word 0 of an entry of a key. -/
def keyWord (kt key : Nat) : Native := BitVec.ofNat 72 (kt * 2 ^ 68 + key % 2 ^ 64)

/-- The operation of a learning request. -/
def learnOp (s : State) (l : Learn) : FtOp :=
  match l with
  | .source key port =>
    let w1 := BitVec.ofNat 72 (2 ^ 69 + port % 32 * 2 ^ 64 + fld s F.SSW_CFG_LQUEUE * 2 ^ 50)
    let n := (ftPlan s (ftReserved s.ft.sw) 1 key).2
    ⟨.learn l, 207, keyWord 1 key, w1, 0, n, [], none, false, false, s.ft.sw.isSome⟩
  | .refresh kt key => ⟨.learn l, 207, keyWord kt key, 0, 0, 2, [], none, false, false, s.ft.sw.isSome⟩

/-- The engine takes the oldest learning request when it performs none (R589). -/
def execLearnRequest (s : State) : Out :=
  if !domUp s 201 then .next s
  else
    match s.ft.op, s.ft.lrn with
    | none, l :: t => .next (ftEngine (modFt (fun x => { x with lrn := t, op := some (learnOp s l) }) s))
    | _, _ => .next s

/-! ### Commands of FT_CMD -/

/-- FT_CMD is refused while a software command is in progress (FT_CMD). -/
def ftBusy (s : State) (_ : List Nat) : Option Berr := busyIf s.ft.sw.isSome

/-- A software command that needs no engine step is answered at once; another waits for the engine (R589, FT_CMD). -/
def ftStart (req : Nat) (early : Option Nat) (o : FtOp) (s : State) : State :=
  match early with
  | some c => ftCode req c 0 s
  | none => modFt (fun t => { t with sw := some o }) s

/-- BADKEY, result 5, unless a condition holds. -/
def ftBad (ok : Bool) : Option Nat := if ok then none else some 5

/-- The operation that a commit of FT_CMD asks for (R590, R598, R600, FT_CMD): EGRESS and undefined keys are refused with
BADKEY. -/
def ftCmdEffect (req : Nat) (v : List Nat) (s : State) : State :=
  let entry (i : Nat) : Native := BitVec.ofNat 72 (v.getD (i + 2) 0 % 256 * 2 ^ 64 + v.getD (i + 1) 0 * 2 ^ 32 + v.getD i 0)
  let w0 := entry 0
  let w1 := entry 3
  let idx := valOf v F.FT_CMD_INDEX
  let waits := s.ft.op.isSome
  match valOf v F.FT_CMD_OP with
  | 1 => ftStart req (ftBad (ftKeyOk w0 && ftKtype w0 != 3)) ⟨.lookup, req, w0, 0, 0, 2, [], none, false, false, waits⟩ s
  | 2 =>
    let n := (ftPlan s (ftReserved s.ft.op) (ftKtype w0) (ftKey w0)).2
    ftStart req (ftBad (ftKeyOk w0 && ftKtype w0 != 3 && ftDestOk w1))
      ⟨.insert, req, w0, w1, 0, n, [], none, false, false, waits⟩ s
  | 3 => ftStart req (ftBad (ftKeyOk w0)) ⟨.delete, req, w0, 0, 0, 2, [], none, false, false, waits⟩ s
  | 4 => ftStart req none ⟨.readIdx, req, 0, 0, idx, 1, [], none, false, false, waits⟩ s
  | 5 => ftStart req (ftBad (ftKeyOk w0 && ftDestOk w1)) ⟨.writeIdx, req, w0, w1, idx, 2, [], none, false, false, waits⟩ s
  | _ => ftStart req none ⟨.flush, req, 0, 0, 0, 0, [], none, false, false, waits⟩ s

/-- The seven words of a write of FT_CMD, in order; the last commits. -/
def ftCommand (req : Req) (key ktag result rtag top : Nat) (s : State) : State :=
  commitWords .FT_CMD 0 0 req [key % 2 ^ 32, key / 2 ^ 32, ktag, result % 2 ^ 32, result / 2 ^ 32, rtag, top] (ftBusy s)
    anyOk (ftCmdEffect req.val) s

/-- LOOKUP of a key. -/
def execFtLookup (req : Req) (key : DWord) (ktag : Byte) (s : State) : Out :=
  .next (ftCommand req key.toNat ktag.toNat 0 0 (1 * 2 ^ 28) s)

/-- INSERT of an entry (R590). -/
def execFtInsert (req : Req) (key : DWord) (ktag : Byte) (result : DWord) (rtag : Byte) (s : State) : Out :=
  .next (ftCommand req key.toNat ktag.toNat result.toNat rtag.toNat (2 * 2 ^ 28) s)

/-- DELETE of a key (R600). -/
def execFtDelete (req : Req) (key : DWord) (ktag : Byte) (s : State) : Out :=
  .next (ftCommand req key.toNat ktag.toNat 0 0 (3 * 2 ^ 28) s)

/-- READ_INDEX (R598). -/
def execFtReadIndex (req : Req) (index : BitVec 17) (s : State) : Out :=
  .next (ftCommand req 0 0 0 0 (4 * 2 ^ 28 + index.toNat) s)

/-- WRITE_INDEX (R600, FT_CMD). -/
def execFtWriteIndex (req : Req) (index : BitVec 17) (key : DWord) (ktag : Byte) (result : DWord) (rtag : Byte)
    (s : State) : Out :=
  .next (ftCommand req key.toNat ktag.toNat result.toNat rtag.toNat (5 * 2 ^ 28 + index.toNat) s)

/-- FLUSH of every non-static entry (R586, FT_CMD). -/
def execFtFlush (req : Req) (s : State) : Out := .next (ftCommand req 0 0 0 0 (6 * 2 ^ 28) s)

/-! ### Ageing (R592) -/

/-- EPOCH advances every APER × 100 ms, and with AGEEN a sweep starts at index 0 (R592). -/
def execEpochAdvance (s : State) : Out :=
  if !domUp s 201 || decide (s.now < s.ft.epochAt + fld s F.FT_CFG_APER * 100000000) then .next s
  else
    let late := s.ft.sweep.isSome
    let on := flag s F.FT_CFG_AGEEN
    let next := if on then some 0 else s.ft.sweep
    let s := modFt (fun t => { t with epoch := (t.epoch + 1) % 256, epochAt := s.now, sweep := next }) s
    .next (if on && late then bump F.FT_CNT3_SWLATE s else s)

/-- A step that neither operation needs visits the next slot of the sweep (R592, R595). -/
def execAgeingSweepStep (s : State) : Out :=
  match s.ft.sweep with
  | some i =>
    if !domUp s 201 || s.ft.sw.isSome || s.ft.op.isSome then .next s
    else
      let old :=
        match tabFind s.ft.slots i with
        | some (w0, w1) =>
          !ftStatic w0 && !ftMoving w0 && decide ((s.ft.epoch + 256 - ftStamp w1) % 256 > fld s F.FT_CFG_ALIM)
        | none => false
      let s := if old then bump F.FT_CNT2_AGED (ftClear i s) else s
      .next (modFt (fun t => { t with sweep := if i + 1 ≥ 131072 then none else some (i + 1) }) s)
  | none => .next s

end Sys2Proof.Machine
end

