-- ==== Sys2Proof/Machine/Egress.lean ====
section
/-! DEFINITION. Egress queues: entry, time gates, shaping, pacing, selection, monitoring, and the packets of a
pattern's coded outputs (spec/15). -/

namespace Sys2Proof.Machine

/-! ### Ports and queues -/

/-- Change a port. -/
def modEth (p : Nat) (f : EthPort → EthPort) (s : State) : State := { s with eth := tabMod .reset s.eth p f }

/-- Change the switch. -/
def modSsw (f : Ssw → Ssw) (s : State) : State := { s with ssw := f s.ssw }

/-- An egress queue. -/
def egQ (s : State) (p q : Nat) : EgQ := tabGet .reset (ethOf s p).queues q

/-- Change an egress queue. -/
def modEgQ (p q : Nat) (f : EgQ → EgQ) (s : State) : State :=
  modEth p (fun e => { e with queues := tabMod .reset e.queues q f }) s

/-- The lead of an enabled gang (R552). -/
def gangLead (s : State) (p : Nat) : Bool := p % 4 == 0 && flag s F.ETH_CFG_GANG p && flag s F.ETH_CFG_EN p

/-- Frame length from destination address to FCS; a short frame is padded to 64 bytes. -/
def egLen (f : EgFrame) : Nat := max 64 (f.data.length + 4)

/-- Wire time of a frame of length L in 10 ps: (L + 20) × 8 bits at 25 Gb/s, or at 100 Gb/s in a gang (R611). -/
def wireTime (s : State) (p l : Nat) : Nat := (l + 20) * (if gangLead s p then 8 else 32)

/-- Queue `q` of port `p` is gated (R610). -/
def gated (s : State) (p q : Nat) : Bool := bitAt (rword s .EG_GATEEN p 0 (q / 32)) (q % 32)

/-- The last GATE action leaves the queue open (R610). -/
def gateBit (s : State) (p q : Nat) : Bool := bitAt (ethOf s p).gates.toNat q

/-- EGEVTp is raised for an egress event of a port. -/
def egEvent (f : FieldRef) (p : Nat) (s : State) : State := raise (617 + p) (bump f s p)

/-- The Stall ticket of a frame returns when the frame leaves the port, sent or discarded (R585; DEDUCED,
notes/assumptions/16.md). -/
def egRelease (p : Nat) (f : EgFrame) (s : State) : State :=
  match f.ticket with
  | some h => (stlFreeOp (200 + p / 4) h s).2
  | none => s

/-! ### Time gates (R610-R614) -/

/-- The next position total at which a slot's contents fire after the present position. -/
def gateNext (s : State) (x : Slot) : List Int :=
  let t := slotTotal s x
  if x.arm && decide (t > (totalNow s : Int)) then [t] else []

/-- The close of an open gated queue: the earliest armed GATE slot for its port that closes it, with the contents it
will fire with (R611, R115). -/
def gateClose (s : State) (p q : Nat) : Option Int :=
  let hits (x : Slot) : Bool := x.action == 3 && x.target == p && !bitAt x.pay q
  let own := s.rck.slots.flatMap fun e => if hits e.2 then gateNext s e.2 else []
  let kept := s.rck.spared.flatMap fun e =>
    if hits e.2.slot && decide (e.2.total > totalNow s) then [(e.2.total : Int)] else []
  match own ++ kept with
  | [] => none
  | t :: l => some (l.foldl min t)

/-- A frame of length L started now ends at or before the close (R611). -/
def fits (s : State) (p q l : Nat) : Bool :=
  match gateClose s p q with
  | none => true
  | some t =>
    rasterValid s && decide (t ≥ 0) &&
      totalAfter s t.toNat (s.rck.rt + (wireTime s p l * nsUnit + 99) / 100) 0

/-- The gate admits a head frame. -/
def gateAdmits (s : State) (p q l : Nat) : Bool := !gated s p q || (gateBit s p q && fits s p q l)

/-! ### Buckets (R615-R619) -/

/-- A bucket. -/
def bktOf (s : State) (b : Nat) : Bkt := tabGet .reset s.ssw.bkt b

/-- Change a bucket. -/
def modBkt (b : Nat) (f : Bkt → Bkt) (s : State) : State :=
  modSsw (fun x => { x with bkt := tabMod .reset x.bkt b f }) s

/-- Whole bytes and the remaining part that a rate in kb/s gives over a time in ns; a byte is 8,000,000 parts. -/
def rateGain (rate dt part : Nat) : Nat × Nat := ((part + rate * dt) / 8000000, (part + rate * dt) % 8000000)

/-- A SHAPE bucket filled up to now, capped at BURST (R616). -/
def bktFill (now : Nat) (b : Bkt) : Bkt :=
  if b.mode ≠ 1 then b
  else
    let g := rateGain b.rate (now - b.at_) b.part
    if b.tokens + g.1 ≥ b.burst then { b with tokens := b.burst, part := 0, at_ := now }
    else { b with tokens := b.tokens + g.1, part := g.2, at_ := now }

/-- The eligible position of packet k of frame F, in ticks × 2¹⁶ (R618). -/
def paceAt (s : State) (b : Bkt) (f k : Nat) : Nat :=
  (f * frameTicks s + b.troLine * 4096 + b.troTick) * 65536 + k * b.rate

/-- A paced packet's eligible position has been reached. -/
def paceReached (s : State) (b : Bkt) (f k : Nat) : Bool :=
  rasterValid s && decide (totalNow s * 65536 ≥ paceAt s b f k)

/-- The bucket that counts for a frame: a switched frame at a pacer has none (R615, R618). -/
def bktUsed (s : State) (f : EgFrame) : Option Nat :=
  match f.bkt with
  | none => none
  | some b => if (bktOf s b).mode = 2 && f.pace.isNone then none else some b

/-- The bucket admits a head frame (R615, R616, R618). -/
def bktAdmits (s : State) (f : EgFrame) : Bool :=
  match bktUsed s f with
  | none => true
  | some n =>
    let b := bktFill s.now (bktOf s n)
    match b.mode, f.pace with
    | 1, _ => decide (b.tokens ≥ egLen f + 20)
    | 2, some (fr, k) => decide (k ≥ b.npkt) || paceReached s b fr k
    | _, _ => true

/-- A queue is eligible (R606). -/
def egEligible (s : State) (p q : Nat) : Bool :=
  match (egQ s p q).frames with
  | [] => false
  | f :: _ => gateAdmits s p q (egLen f) && bktAdmits s f

/-- A frame becomes the head of its queue: a paced packet past its eligible time is late (R619). -/
def newHead (p q : Nat) (s : State) : State :=
  match (egQ s p q).frames with
  | [] => s
  | f :: _ =>
    match bktUsed s f, f.pace with
    | some n, some (fr, k) =>
      let b := bktOf s n
      if b.mode = 2 && decide (k < b.npkt) && rasterValid s && decide (totalNow s * 65536 > paceAt s b fr k) then
        egEvent F.EG_PCNT1_PACELATE p s
      else s
    | _, _ => s

/-! ### Entering and leaving a queue -/

/-- Bytes of buffered frames in a list. -/
def bufBytes (l : List EgFrame) : Nat := l.foldl (fun n f => if f.buffered then n + egLen f else n) 0

/-- Bytes that a port's egress buffer holds. -/
def portBytes (s : State) (p : Nat) : Nat := (ethOf s p).queues.foldl (fun n e => n + bufBytes e.2.frames) 0

/-- Bytes of a port's egress buffer (R605). -/
def egBuffer (s : State) (p : Nat) : Nat := if gangLead s p then 2097152 else 524288

/-- A frame enters a queue of a usable port, unless it takes the queue past QLIM or the port past its buffer (R604,
R605). -/
def egEnqueue (p q : Nat) (f : EgFrame) (s : State) : State :=
  let x := egQ s p q
  let isOver := f.buffered && (decide (bufBytes x.frames + egLen f > fld s F.EG_QCFG_QLIM p q * 4096) ||
    decide (portBytes s p + egLen f > egBuffer s p))
  if isOver then egRelease p f (modEgQ p q (fun x => { x with drop := satAdd x.drop 1 65535 }) s)
  else
    let s := modEgQ p q (fun x => { x with frames := x.frames ++ [f] }) s
    if x.frames.isEmpty then newHead p q s else s

/-- The head frame of a queue leaves it. -/
def egPop (p q : Nat) (s : State) : State :=
  newHead p q (modEgQ p q (fun x => { x with frames := x.frames.drop 1 }) s)

/-- The head frame starts: its bucket is charged and it takes the port (R607, R616, R618). -/
def egStart (p q : Nat) (s : State) : State :=
  match (egQ s p q).frames with
  | [] => s
  | f :: _ =>
    let isOver (b : Bkt) : Bool := match f.pace with | some (_, k) => b.mode == 2 && decide (k ≥ b.npkt) | none => false
    let s :=
      match bktUsed s f with
      | none => s
      | some n =>
        let late := isOver (bktOf s n)
        let charge (b : Bkt) : Bkt :=
          let b := bktFill s.now b
          let t := if b.mode = 1 then b.tokens - (egLen f + 20) else b.tokens
          { b with tokens := t, frames := (b.frames + 1) % 2 ^ 32 }
        when late (fun s => bump F.EG_PCNT1_PACEOVR s p) (modBkt n charge s)
    let fin := s.now * 100 + wireTime s p (egLen f)
    egPop p q (bumpWrap F.ETH_TXCNT_TX (modEth p (fun e => { e with cur := some (q, fin, f) }) s) p)

/-- A frame whose wire time has passed leaves the port. -/
def egFinish (p : Nat) (s : State) : State :=
  match (ethOf s p).cur with
  | some (_, fin, f) =>
    if fin ≤ s.now * 100 then egRelease p f (modEth p (fun e => { e with cur := none }) s) else s
  | none => s

/-- The highest eligible strict queue (R606). -/
def strictPick (s : State) (p : Nat) : Option Nat :=
  ((List.range 16).map (fun i => 63 - i)).find? fun q => egEligible s p q

/-- Deficit round robin over queues 0–47 (R606): a queue gets its quantum once in each visit and is served while its
deficit covers its head. -/
def drrPick : Nat → Nat → State → Option Nat × State
  | 0, _, s => (none, s)
  | n + 1, p, s =>
    let q := (ethOf s p).turn
    let move (s : State) : State := modEth p (fun e => { e with turn := (e.turn + 1) % 48, granted := false }) s
    if !egEligible s p q then
      drrPick n p (move (when (egQ s p q).frames.isEmpty (modEgQ p q (fun x => { x with deficit := 0 })) s))
    else
      let s :=
        if (ethOf s p).granted then s
        else
          modEth p (fun e => { e with granted := true })
            (modEgQ p q (fun x => { x with deficit := x.deficit + fld s F.EG_QCFG_QNT p q * 64 }) s)
      let l := match (egQ s p q).frames with | f :: _ => egLen f | [] => 0
      if l ≤ (egQ s p q).deficit then (some q, modEgQ p q (fun x => { x with deficit := x.deficit - l }) s)
      else drrPick n p (move s)

/-- The head frames of open gates that fit now are not among those that never fitted (R613). -/
def clearNofit (p : Nat) (s : State) : State :=
  forEach (List.range 64) (fun q s =>
    match (egQ s p q).frames with
    | f :: _ =>
      if f.nofit && gateAdmits s p q (egLen f) then
        modEgQ p q (fun x => { x with frames := { f with nofit := false } :: x.frames.drop 1 }) s
      else s
    | [] => s) s

/-- Selection at an idle port (R606, R607). -/
def egSelect (p : Nat) (s : State) : State :=
  match strictPick s p with
  | some q => egStart p q s
  | none =>
    if (List.range 48).any (egEligible s p) then
      match drrPick 7200 p s with
      | (some q, s) => egStart p q s
      | (none, s) => s
    else s

/-- Every frame queued on a port is discarded (R608). -/
def egFlush (p : Nat) (s : State) : State :=
  forEach ((ethOf s p).queues.map Prod.fst) (fun q s =>
    forEach (egQ s p q).frames (fun f s => egRelease p f (bump F.EG_PCNT0_LINKDROP s p))
      (modEgQ p q (fun x => { x with frames := [], deficit := 0 }) s)) s

/-- A GATE action reaches a port (R610, R612, R613). -/
def gateAct (p mask : Nat) (s : State) : State :=
  if !flag s F.ETH_CFG_EN p || gangMember s p then s
  else
    let old := (ethOf s p).gates.toNat
    let s := modEth p (fun e => { e with gates := BitVec.ofNat 64 mask }) s
    let s :=
      match (ethOf s p).cur with
      | some (q, fin, _) =>
        if gated s p q && bitAt old q && !bitAt mask q && decide (fin > s.now * 100) then
          egEvent F.EG_PCNT0_GATEOVR p s
        else s
      | none => s
    forEach (List.range 64) (fun q s =>
      match (egQ s p q).frames with
      | f :: _ =>
        if gated s p q && !bitAt old q && bitAt mask q then
          let g := { f with nofit := !fits s p q (egLen f) }
          modEgQ p q (fun x => { x with frames := g :: x.frames.drop 1 }) s
        else s
      | [] => s) s

/-! ### Meanings of the port rows -/

/-- A port finishes or its queues change: selection (R606, R607). -/
def execEgressSelect (port : Fin 24) (s : State) : Out :=
  let p := port.val
  if !portUsable s p then .next s
  else
    let s := egFinish p s
    if (ethOf s p).cur.isSome then .next s else .next (egSelect p (clearNofit p s))

/-- The discard of a head frame that has not fitted since its window opened (R613). -/
def execGateDrop (port : Fin 24) (queue : Fin 64) (s : State) : Out :=
  let p := port.val
  let q := queue.val
  match (egQ s p q).frames with
  | f :: _ =>
    if f.nofit && gated s p q && !gateBit s p q then
      .next (egEvent F.EG_PCNT0_GATEDROP p (egRelease p f (egPop p q s)))
    else .next s
  | [] => .next s

/-- Depth of a queue in bytes. -/
def egDepth (x : EgQ) : Nat := x.frames.foldl (fun n f => n + egLen f) 0

/-- Time in ns since the head frame entered its queue. -/
def headDelay (now : Nat) (x : EgQ) : Nat := match x.frames with | f :: _ => now - f.at_ | [] => 0

/-- One observation of a queue; at the end of a period its results show (R629). -/
def observe (now : Nat) (last : Bool) (x : EgQ) : EgQ :=
  let d := egDepth x
  let t := headDelay now x
  if last then
    { x with depth := d, delay := t, maxDepth := max x.runDepth d, maxDelay := max x.runDelay t, runDepth := 0,
             runDelay := 0 }
  else { x with runDepth := max x.runDepth d, runDelay := max x.runDelay t }

/-- The observation of every queue of the enabled ports (R629). -/
def execQueueMonitorSample (s : State) : Out :=
  if !domUp s 200 then .next s
  else
    let last := decide (s.ssw.smpl + 1 ≥ fld s F.EG_SMPL_PER)
    let s := modSsw (fun x => { x with smpl := if last then 0 else x.smpl + 1 }) s
    let ports := (List.range 24).filter (fun p => flag s F.ETH_CFG_EN p)
    .next (forEach ports (fun p s => forEach (List.range 64) (fun q s => modEgQ p q (observe s.now last) s) s) s)

/-- Values of EG_BKT beyond its field table (EG_BKT map). -/
def egBktOk (v : List Nat) : Bool :=
  let rate := valOf v F.EG_BKT_RATE_TRS
  match valOf v F.EG_BKT_MODE with
  | 0 => true
  | 1 => decide (1 ≤ rate) && decide (rate ≤ 100000000) && decide (valOf v F.EG_BKT_BURST ≥ 9236)
  | _ => valOf v F.EG_BKT_BURST == 0 && decide (valOf v F.EG_BKT_NPKT ≥ 1)

/-- The bucket a commit leaves: full at BURST (R617). -/
def egBktEffect (v : List Nat) (s : State) : State :=
  let burst := valOf v F.EG_BKT_BURST
  let mode := valOf v F.EG_BKT_MODE
  modBkt (valOf v F.EG_BKT_INDEX) (fun b =>
    { rate := valOf v F.EG_BKT_RATE_TRS, mode := mode, burst := burst, npkt := valOf v F.EG_BKT_NPKT
      troLine := valOf v F.EG_BKT_TROLINE, troTick := valOf v F.EG_BKT_TROTICK
      tokens := burst, part := 0, at_ := s.now, frames := b.frames }) s

/-- A commit of EG_BKT (R617). -/
def execEgBktCommit (a : Acc) (s : State) : Out :=
  .next (regCommit .EG_BKT 0 0 a neverBusy egBktOk egBktEffect s)

/-- Values of EG_POL beyond its field table (EG_POL map). -/
def egPolOk (v : List Nat) : Bool :=
  match valOf v F.EG_POL_TYPE with
  | 0 => true
  | 1 => valOf v F.EG_POL_PIR == 0
  | _ => decide (valOf v F.EG_POL_PIR ≥ valOf v F.EG_POL_CIR) && valOf v F.EG_POL_CBS != 0

/-- A policer. -/
def polOf (s : State) (n : Nat) : Pol := tabGet .reset s.ssw.pol n

/-- Change a policer. -/
def modPol (n : Nat) (f : Pol → Pol) (s : State) : State :=
  modSsw (fun x => { x with pol := tabMod .reset x.pol n f }) s

/-- The policer a commit leaves: its buckets full (R626). -/
def egPolEffect (v : List Nat) (s : State) : State :=
  modPol (valOf v F.EG_POL_INDEX) (fun p =>
    { type := valOf v F.EG_POL_TYPE, aware := valOf v F.EG_POL_AWARE == 1, pcsrc := valOf v F.EG_POL_PCSRC == 1
      cir := valOf v F.EG_POL_CIR, pir := valOf v F.EG_POL_PIR, cbs := valOf v F.EG_POL_CBS
      ebs := valOf v F.EG_POL_EBS, c := valOf v F.EG_POL_CBS, e := valOf v F.EG_POL_EBS, partC := 0, partE := 0
      at_ := s.now, green := p.green, yellow := p.yellow, red := p.red }) s

/-- A commit of EG_POL (R626). -/
def execEgPolCommit (a : Acc) (s : State) : Out :=
  .next (regCommit .EG_POL 0 0 a neverBusy egPolOk egPolEffect s)

/-! ### Packets of a pattern's outputs (R620-R625) -/

/-- A big-endian number at an offset of bytes. -/
def beNat (b : List Nat) (o n : Nat) : Nat := ((b.drop o).take n).foldl (fun v x => v * 256 + x % 256) 0

/-- `n` big-endian bytes. -/
def beBytes (n v : Nat) : List Nat := (leBytes n v).reverse

/-- Bytes with those from an offset replaced. -/
def patch (l : List Nat) (o : Nat) (v : List Nat) : List Nat := l.take o ++ v ++ l.drop (o + v.length)

/-- The 16-bit words of bytes added up, the last padded with zero. -/
def sum16 : List Nat → Nat
  | [] => 0
  | [a] => a * 256
  | a :: b :: t => a * 256 + b + sum16 t

/-- The ones-complement checksum of a sum. -/
def onesSum (n : Nat) : Nat := 0xFFFF - (n % 65535 + (if n % 65535 = 0 && n ≠ 0 then 65535 else 0))

/-- The headers of a packet around its RTP part (R622). -/
def wrapPacket (tmpl rtp : List Nat) : List Nat :=
  let l3 := if beNat tmpl 12 2 = 0x8100 then 18 else 14
  let v4 := beNat tmpl (l3 - 2) 2 == 0x0800
  let l4 := l3 + (if v4 then 20 else 40)
  let ulen := 8 + rtp.length
  let h := patch (tmpl.take (l4 + 4)) (l4 + 4) (beBytes 2 ulen ++ [0, 0])
  if v4 then
    let h := patch (patch (patch h (l3 + 2) (beBytes 2 (20 + ulen))) (l3 + 4) [0, 0]) (l3 + 10) [0, 0]
    patch h (l3 + 10) (beBytes 2 (onesSum (sum16 ((h.drop l3).take 20)))) ++ rtp
  else
    let h := patch h (l3 + 4) (beBytes 2 ulen)
    let pseudo := sum16 ((h.drop (l3 + 8)).take 32) + ulen + 17
    let c := onesSum (pseudo + sum16 (h.drop l4 ++ rtp))
    patch h (l4 + 6) (beBytes 2 (if c = 0 then 0xFFFF else c)) ++ rtp

/-- The RTP part of a packet: header, the note as an extension on a picture's first packet, and payload (R583, R622). -/
def rtpPart (pt ssrc seq ts : Nat) (marker : Bool) (note : Option (List Nat)) (payload : List Nat) : List Nat :=
  let ext := match note with | some n => beBytes 2 0x7AB0 ++ beBytes 2 4 ++ n | none => []
  [if note.isSome then 0x90 else 0x80, b2n marker * 128 + pt % 128] ++ beBytes 2 seq ++ beBytes 4 ts ++
    beBytes 4 ssrc ++ ext ++ payload

/-- The RTP timestamp of a picture of frame F (R623). -/
def rtpTs (s : State) (f : Nat) : Nat :=
  if fmtTicks s = 0 then 0
  else
    (f * frameTicks s * fmtDen s * 1000000000 + fld s F.RCK_FMT_OFS * fmtTicks s) * 90000 / (fmtTicks s * 1000000000) %
      2 ^ 32

/-- The latest frame, not after the current one, with a note's 16-bit frame number (R623). -/
def noteFrame (s : State) (f16 : Nat) : Nat :=
  let c := frameNow s
  let d := (c + 65536 - f16 % 65536) % 65536
  if d ≤ c then c - d else c + 2 ^ 40 - d

/-- Bytes in pieces of at most `m`; `n` bounds the pieces. -/
def pieces : Nat → Nat → List Nat → List (List Nat)
  | 0, _, _ => []
  | n + 1, m, l => if l.length ≤ m then [l] else l.take m :: pieces n m (l.drop m)

/-- The fragmentation units of a NAL unit after its two-byte header (RFC 7798). -/
def hevcFus (b0 b1 : Nat) : Bool → List (List Nat) → List (List Nat)
  | _, [] => []
  | start, x :: t =>
    let fu := b2n start * 128 + b2n t.isEmpty * 64 + b0 / 2 % 64
    ([b0 / 128 * 128 + 98 + b0 % 2, b1, fu] ++ x) :: hevcFus b0 b1 false t

/-- The payloads of one HEVC NAL unit (R624). -/
def hevcPayloads (first : Bool) (u : List Nat) : List (List Nat) :=
  let lim := if first then 1436 else 1456
  if u.length ≤ lim then [u]
  else
    let body := u.drop 2
    let head := body.take (lim - 3)
    hevcFus (u.getD 0 0) (u.getD 1 0) true (head :: pieces u.length 1453 (body.drop (lim - 3)))

/-- The packets of one JPEG XS header segment or slice in slice packetization mode (RFC 9134): sequential transmission,
frame counter, slice counter and packet counter (R624; PRESUMED layout of the payload header, notes/assumptions/16.md). -/
def xsHeader (last : Bool) (f sep p : Nat) : List Nat :=
  beBytes 4 (2 ^ 31 + 2 ^ 30 + b2n last * 2 ^ 29 + f % 32 * 2 ^ 22 + sep % 2048 * 2 ^ 11 + p % 2048)

/-- Number the packets of one slice. -/
def xsPackets (f sep : Nat) : Nat → List (List Nat) → List (List Nat)
  | _, [] => []
  | p, x :: t => (xsHeader t.isEmpty f sep p ++ x) :: xsPackets f sep (p + 1) t

/-- The payloads of one JPEG XS unit (R624). -/
def xsPayloads (first : Bool) (f sep : Nat) (u : List Nat) : List (List Nat) :=
  let lim := if first then 1432 else 1452
  xsPackets f sep 0 (if u.length ≤ lim then [u] else u.take lim :: pieces u.length 1452 (u.drop lim))

/-- The EGRESS entry of an output (R620). -/
def egressEntry (s : State) (n k : Nat) : Option (Native × Native) :=
  if domUp s 201 then tabFind s.ft.slots (dOut (patOf s n).desc k 0x44 4 % 2 ^ 17) else none

/-- A packet of an output is formed and enters its queue; without a usable port it is discarded (R608, R622, R625). -/
def sendPacket (n k : Nat) (last : Bool) (note : Option (List Nat)) (payload : List Nat) (s : State) : State :=
  let e := encOf s n k
  let s := modEnc n k (fun e => { e with seq := (e.seq + 1) % 2 ^ 32, pkts := e.pkts + 1 }) s
  match egressEntry s n k with
  | none => s
  | some (w0, w1) =>
    let key := w0.toNat % 2 ^ 64
    let r := w1.toNat
    let p := bitsOf r 64 5
    if !portUsable s p then s
    else
      let rtp := rtpPart (bitsOf key 8 7) (bitsOf key 32 32) e.seq (rtpTs s e.pktF) last note payload
      let bkt := if bitAt r 49 then some (bitsOf r 35 14) else none
      egEnqueue p (bitsOf r 50 6) ⟨wrapPacket e.tmpl rtp, s.now, bkt, some (e.pktF, e.pkts), none, false, false⟩ s

/-- A picture's first packet: its template, frame and packet count (R618, R621, R623). -/
def startPackets (n k f16 : Nat) (s : State) : State :=
  let key := match egressEntry s n k with | some (w0, _) => w0.toNat % 2 ^ 64 | none => 0
  let at_ := fld s F.EG_TBASE_BASE * 128 + bitsOf key 16 10 * 128
  let len := sramRead s 1 at_
  modEnc n k (fun e => { e with
    pkts := 0, pktF := noteFrame s f16, tmpl := leBytes len (sramRead s len (at_ + 8)) }) s

/-- Payloads enter the queue in order; the note goes with a picture's first packet, the marker with its last. -/
def sendPayloads (n k : Nat) (last : Bool) (note : Option (List Nat)) : List (List Nat) → State → State
  | [], s => s
  | x :: t, s => sendPayloads n k last none t (sendPacket n k (last && t.isEmpty) note x s)

/-- Pass coded units of a picture to the egress: `note` is given with the picture's first unit, `last` says that its
last unit is among them. `xs` holds, for JPEG XS, the slice number of the first unit. -/
def egressUnits (n k : Nat) (note : Option (List Nat)) (last : Bool) (xs : Option Nat) : List (List Nat) → State → State
  | [], s => s
  | u :: t, s =>
    let s := match note with | some b => startPackets n k (leNat ((b.drop 6).take 2)) s | none => s
    let pl :=
      match xs with
      | none => hevcPayloads note.isSome u
      | some i => xsPayloads note.isSome (encOf s n k).pktF i u
    let next := xs.map (fun i => if i = 2047 then 0 else i + 1)
    egressUnits n k none last next t (sendPayloads n k (last && t.isEmpty) note pl s)

/-- Bytes of a pgroup of two 4:2:2 pixels (R624; SMPTE ST 2110-20, PRESUMED, notes/assumptions/16.md). -/
def pgroupBytes (depth : Nat) : Nat := if depth = 10 then 5 else 6

/-- The packets of one line of a raw output in general packing: extended sequence number, one sample row data header,
pgroups (R624). `fuel` bounds the packets, `off` counts pixels. -/
def rawPackets (n k line : Nat) (last : Bool) : Nat → Nat → Option (List Nat) → List Nat → State → State
  | 0, _, _, _, s => s
  | fuel + 1, off, note, data, s =>
    let g := pgroupBytes (dOut (patOf s n).desc k 7 1)
    let lim := ((if note.isSome then 1428 else 1448) / g) * g
    let x := data.take lim
    let rest := data.drop lim
    let h := beBytes 2 ((encOf s n k).seq / 65536) ++ beBytes 2 x.length ++ beBytes 2 line ++ beBytes 2 off
    let s := sendPacket n k (last && rest.isEmpty) note (h ++ x) s
    if rest.isEmpty then s else rawPackets n k line last fuel (off + lim / g * 2) none rest s

/-- Pass lines of a raw picture to the egress (R624, R625). -/
def egressLines (n k : Nat) (note : Option (List Nat)) (last : Bool) : Nat → List (List Nat) → State → State
  | _, [], s => s
  | line, u :: t, s =>
    let s := match note with | some b => startPackets n k (leNat ((b.drop 6).take 2)) s | none => s
    egressLines n k none last (line + 1) t (rawPackets n k line (last && t.isEmpty) (u.length + 1) 0 note u s)

end Sys2Proof.Machine
end

