-- ==== Sys2Proof/Machine/Parser.lean ====
section
/-! DEFINITION. The frame parser: headers present in the first 256 bytes, their fields as the classifier sees them
(spec/14 R561-R564), and picture notes (R583). -/

namespace Sys2Proof.Machine

/-- What the parser found: header presence bits in table order, a header cut off or with a bad checksum, the tags' TCI,
the innermost EtherType, and the offsets of the headers that are present; the RTP range's PFMT, the RTP payload's
offset and the picture note. -/
structure Hdrs where
  present : Nat
  perr : Bool
  outer : Nat
  inner : Nat
  tags : Nat
  ety : Nat
  ip4 : Option Nat
  ip6 : Option Nat
  proto : Nat
  udp : Option Nat
  ptp : Option Nat
  rtp : Option Nat
  pfmt : Nat
  pay : Nat
  payHdr : Bool
  note : Option (List Nat)
  deriving DecidableEq, Repr

/-- Nothing found. -/
def Hdrs.none : Hdrs :=
  ⟨0, false, 0, 0, 0, 0, Option.none, Option.none, 0, Option.none, Option.none, Option.none, 0, 0, false, Option.none⟩

/-- A header of `n` bytes at `o` lies wholly within the first 256 bytes of a frame. -/
def inParse (b : List Nat) (o n : Nat) : Bool := decide (o + n ≤ 256) && decide (o + n ≤ b.length)

/-- A header present: its bit. -/
def mark (h : Hdrs) (i : Nat) : Hdrs := { h with present := h.present ||| 2 ^ i }

/-- A header that does not lie in the parsed bytes: PERR when the frame's end cuts it off (R563). -/
def absent (b : List Nat) (o n : Nat) (h : Hdrs) : Hdrs := { h with perr := h.perr || decide (o + n > b.length) }

/-- The lowest enabled RTP range that holds a UDP port (SSW_RTPn). -/
def rtpRange (s : State) (port : Nat) : Option Nat :=
  (List.range 4).find? fun n =>
    flag s F.SSW_RTP_EN 0 n && decide (fld s F.SSW_RTP_BASE 0 n ≤ port) &&
      decide (port < fld s F.SSW_RTP_BASE 0 n + 2 ^ fld s F.SSW_RTP_LOG2N 0 n)

/-- The payload header of the range's format (R562). -/
def parsePay (b : List Nat) (o : Nat) (h : Hdrs) : Hdrs :=
  let size := match h.pfmt with | 1 => 8 | 2 => 2 | 3 => 4 | _ => 0
  if size = 0 then h
  else if inParse b o size then { mark h (6 + h.pfmt) with payHdr := true }
  else absent b o size h

/-- RTP at an offset: header, CSRC list, and an extension that is read as a note when it is one (R562, R583). -/
def parseRtp (b : List Nat) (o : Nat) (h : Hdrs) : Hdrs :=
  if !inParse b o 12 then absent b o 12 h
  else if beNat b o 1 / 64 ≠ 2 then h
  else
    let base := 12 + beNat b o 1 % 16 * 4
    let x := bitAt (beNat b o 1) 4
    let whole := if x then base + 4 + beNat b (o + base + 2) 2 * 4 else base
    if (x && !inParse b o (base + 4)) then absent b o (base + 4) h
    else if !inParse b o whole then absent b o whole h
    else
      let isNote := x && beNat b (o + base) 2 == 0x7AB0 && beNat b (o + base + 2) 2 == 4
      let note := if isNote then some ((b.drop (o + base + 4)).take 16) else none
      parsePay b (o + whole) { mark h 6 with rtp := some o, pay := o + whole, note := note }

/-- PTP at an offset. -/
def parsePtp (b : List Nat) (o : Nat) (h : Hdrs) : Hdrs :=
  if inParse b o 34 then { mark h 5 with ptp := some o } else absent b o 34 h

/-- UDP at an offset. -/
def parseUdp (s : State) (b : List Nat) (o : Nat) (h : Hdrs) : Hdrs :=
  if !inParse b o 8 then absent b o 8 h
  else
    let h := { mark h 4 with udp := some o }
    let dp := beNat b (o + 2) 2
    if dp = 319 || dp = 320 then parsePtp b (o + 8) h
    else
      match rtpRange s dp with
      | some n => parseRtp b (o + 8) { h with pfmt := fld s F.SSW_RTP_PFMT 0 n }
      | none => h

/-- IPv4 at an offset (R562, R563). -/
def parseIp4 (s : State) (b : List Nat) (o : Nat) (h : Hdrs) : Hdrs :=
  let len := beNat b o 1 % 16 * 4
  if !inParse b o 20 then absent b o 20 h
  else if beNat b o 1 / 16 ≠ 4 || len < 20 then h
  else if !inParse b o len then absent b o len h
  else if onesSum (sum16 ((b.drop o).take len)) ≠ 0 then { h with perr := true }
  else
    let h := { mark h 2 with ip4 := some o, proto := beNat b (o + 9) 1 }
    if beNat b (o + 6) 2 % 2 ^ 13 ≠ 0 then h
    else if h.proto = 17 then parseUdp s b (o + len) h
    else h

/-- The IPv6 extension headers that the parser skips (R562). -/
def isExt (n : Nat) : Bool := n == 0 || n == 43 || n == 60 || n == 44

/-- Skip up to `n` extension headers, then UDP. -/
def skipExt (s : State) (b : List Nat) : Nat → Nat → Hdrs → Hdrs
  | 0, o, h => if h.proto = 17 then parseUdp s b o h else h
  | n + 1, o, h =>
    if !isExt h.proto then (if h.proto = 17 then parseUdp s b o h else h)
    else if !inParse b o 8 then absent b o 8 h
    else
      let frag := h.proto == 44
      let len := if frag then 8 else (beNat b (o + 1) 1 + 1) * 8
      let later := frag && decide (beNat b (o + 2) 2 / 8 ≠ 0)
      let h' := { h with proto := beNat b o 1 }
      if !inParse b o len then absent b o len h
      else if later then h'
      else skipExt s b n (o + len) h'

/-- IPv6 at an offset. -/
def parseIp6 (s : State) (b : List Nat) (o : Nat) (h : Hdrs) : Hdrs :=
  if !inParse b o 40 then absent b o 40 h
  else if beNat b o 1 / 16 ≠ 6 then h
  else skipExt s b 4 (o + 40) { mark h 3 with ip6 := some o, proto := beNat b (o + 6) 1 }

/-- What follows the EtherType. -/
def parseL3 (s : State) (b : List Nat) (o : Nat) (h : Hdrs) : Hdrs :=
  if h.ety = 0x0800 then parseIp4 s b o h
  else if h.ety = 0x86DD then parseIp6 s b o h
  else if h.ety = 0x88F7 then parsePtp b o h
  else h

/-- Parse a frame without its FCS: Ethernet II, at most two tags, then the rest (R562). -/
def parse (s : State) (b : List Nat) : Hdrs :=
  if !inParse b 0 14 then absent b 0 14 .none
  else
    let h := mark { Hdrs.none with ety := beNat b 12 2 } 0
    if h.ety ≠ 0x8100 && h.ety ≠ 0x88A8 then parseL3 s b 14 h
    else if !inParse b 14 4 then absent b 14 4 h
    else
      let h := mark { h with tags := 1, outer := beNat b 14 2, ety := beNat b 16 2 } 1
      if h.ety ≠ 0x8100 then parseL3 s b 18 h
      else if !inParse b 18 4 then absent b 18 4 h
      else
        let h := { h with tags := 2, inner := beNat b 18 2, ety := beNat b 20 2 }
        parseL3 s b 22 h

/-- An IPv6 address word. -/
def ip6Word (b : List Nat) (h : Hdrs) (at_ i : Nat) : Nat :=
  match h.ip6 with | some o => beNat b (o + at_ + 4 * i) 4 | none => 0

/-- A 32-bit field of the frame (R564); `port` is the ingress port, `md` the metadata. -/
def pfield (b : List Nat) (h : Hdrs) (port : Nat) (md : Nat) (code : Nat) : Nat :=
  let eth (o n : Nat) : Nat := if bitAt h.present 0 then beNat b o n else 0
  let udp (o n : Nat) : Nat := match h.udp with | some u => beNat b (u + o) n | none => 0
  let rtp (o n : Nat) : Nat := match h.rtp with | some u => beNat b (u + o) n | none => 0
  match code with
  | 0x01 => port * 2 ^ 27 + h.present % 1024 * 2 ^ 17 + (b.length + 4) % 65536
  | 0x02 => h.outer * 65536 + h.inner
  | 0x03 => h.ety
  | 0x04 => eth 0 4
  | 0x05 => eth 4 4
  | 0x06 => eth 8 4
  | 0x08 => match h.ip4 with | some o => beNat b (o + 12) 4 | none => 0
  | 0x09 => match h.ip4 with | some o => beNat b (o + 16) 4 | none => 0
  | 0x0A =>
    match h.ip4, h.ip6 with
    | some o, _ =>
      let tos := beNat b (o + 1) 1
      beNat b (o + 8) 1 * 65536 + tos % 4 * 2 ^ 14 + tos / 4 * 2 ^ 8 + h.proto
    | none, some o =>
      let tc := beNat b o 2 / 16 % 256
      beNat b (o + 7) 1 * 65536 + tc % 4 * 2 ^ 14 + tc / 4 * 2 ^ 8 + h.proto
    | none, none => 0
  | 0x0C => ip6Word b h 8 0
  | 0x0D => ip6Word b h 8 1
  | 0x0E => ip6Word b h 8 2
  | 0x0F => ip6Word b h 8 3
  | 0x10 => ip6Word b h 24 0
  | 0x11 => ip6Word b h 24 1
  | 0x12 => ip6Word b h 24 2
  | 0x13 => ip6Word b h 24 3
  | 0x14 => udp 0 4
  | 0x15 => rtp 1 1 * 65536 + rtp 2 2
  | 0x16 => rtp 4 4
  | 0x17 => rtp 8 4
  | 0x18 => if h.payHdr && h.pfmt == 1 then beNat b h.pay 2 * 65536 + beNat b (h.pay + 4) 2 % 2 ^ 15 else 0
  | 0x19 => if h.payHdr && h.pfmt == 1 then beNat b (h.pay + 2) 2 * 65536 + beNat b (h.pay + 6) 2 % 2 ^ 15 else 0
  | 0x1A =>
    if h.payHdr && h.pfmt == 2 then beNat b h.pay 2 * 65536
    else if h.payHdr && h.pfmt == 3 then beNat b h.pay 4 else 0
  | 0x1B => match h.ptp with | some o => beNat b (o + 4) 1 * 65536 + beNat b o 1 % 16 | none => 0
  | 0x1C => md % 2 ^ 32
  | 0x1D => md / 2 ^ 32 % 2 ^ 32
  | _ => 0

end Sys2Proof.Machine
end

