-- ==== Sys2Proof/Machine/Switch.lean ====
section
/-! DEFINITION. The stream switch: reception, the classifier, policing, delivery to queues, cores and coded inputs, and
frames that cores send (spec/14 R551-R585, R601; spec/15 R626-R628). -/

namespace Sys2Proof.Machine

/-! ### Counters of lost frames -/

/-- A counter that raises SSWDROP (SSW_CNT). -/
def sswDrop (f : FieldRef) (s : State) : State := raise 719 (bump f s)

/-! ### Policers (R626-R628) -/

/-- A policer's buckets filled up to now: srTCM fills C, then E; trTCM fills C at CIR and P at PIR. -/
def polFill (now : Nat) (p : Pol) : Pol :=
  let dt := now - p.at_
  let g := rateGain p.cir dt p.partC
  if p.type = 1 then
    let room := p.cbs - p.c
    if g.1 ≤ room then { p with c := p.c + g.1, partC := g.2, at_ := now }
    else { p with c := p.cbs, e := min p.ebs (p.e + (g.1 - room)), partC := g.2, at_ := now }
  else
    let h := rateGain p.pir dt p.partE
    { p with c := min p.cbs (p.c + g.1), e := min p.ebs (p.e + h.1), partC := g.2, partE := h.2, at_ := now }

/-- The mark of a frame of `b` bytes with pre-colour 1 green, 2 yellow, 3 red, and the buckets it leaves. -/
def polMark (p : Pol) (pre b : Nat) : Nat × Pol :=
  let pre := if p.aware then pre else 1
  if p.type = 1 then
    if pre = 1 && decide (p.c ≥ b) then (1, { p with c := p.c - b })
    else if pre ≤ 2 && decide (p.e ≥ b) then (2, { p with e := p.e - b })
    else (3, p)
  else if pre = 3 || decide (p.e < b) then (3, p)
  else if pre = 2 || decide (p.c < b) then (2, { p with e := p.e - b })
  else (1, { p with c := p.c - b, e := p.e - b })

/-- A frame passes a policer: its colour, or none when the policer is off. -/
def police (n pre b : Nat) (s : State) : Option Nat × State :=
  let p := polOf s n
  if p.type = 0 then (none, s)
  else
    let (c, p) := polMark (polFill s.now p) pre b
    let p :=
      match c with
      | 1 => { p with green := (p.green + 1) % 2 ^ 32 }
      | 2 => { p with yellow := (p.yellow + 1) % 2 ^ 32 }
      | _ => { p with red := (p.red + 1) % 2 ^ 32 }
    (some c, modPol n (fun _ => p) s)

/-! ### Metadata (R569) -/

/-- A metadata write to a lane; bits [63:56] belong to the device. -/
def mdWrite (md : BitVec 64) (lane mval mmask : Nat) : BitVec 64 :=
  let x := md.toNat
  let old := bitsOf x (16 * lane) 16
  let new := (old &&& (0xFFFF - mmask)) ||| (mval &&& mmask)
  BitVec.ofNat 64 (setBits (setBits x (16 * lane) 16 new) 56 8 (bitsOf x 56 8))

/-- A field of the device's metadata. -/
def mdPut (md : BitVec 64) (lo w v : Nat) : BitVec 64 := BitVec.ofNat 64 (setBits md.toNat lo w v)

/-! ### Classifier entries (R565, R567, R575) -/

/-- A classifier entry. -/
def ctOf (s : State) (t i : Nat) : CtEnt := tabGet .reset s.ssw.ct (256 * t + i)

/-- The key of a table: the fields of SEL0–SEL3, SEL0 highest (R565). -/
def ctKey (s : State) (t : Nat) (field : Nat → Nat) : Nat :=
  field (fld s F.CT_CFG_SEL0 0 t) * 2 ^ 96 + field (fld s F.CT_CFG_SEL1 0 t) * 2 ^ 64 +
    field (fld s F.CT_CFG_SEL2 0 t) * 2 ^ 32 + field (fld s F.CT_CFG_SEL3 0 t)

/-- An entry matches (R565); an unreadable one matches nothing (R601). -/
def ctMatch (s : State) (t i key : Nat) : Bool :=
  let e := ctOf s t i
  e.valid && !s.ssw.ctBroken.contains (256 * t + i) && ((key ^^^ e.value) &&& e.mask) == 0

/-- The entry that acts: the lowest that matches, else entry 255 (R565). -/
def ctActing (s : State) (t key : Nat) : Nat := ((List.range 256).find? fun i => ctMatch s t i key).getD 255

/-- An action word. -/
def actWord (a w : Nat) : Nat := bitsOf a (32 * w) 32

/-- A NEXT code for the tables above a table, the next table, or END (R567). -/
def nextOk (t next : Nat) : Bool := next == 0 || next == 6 || (decide (t < next) && decide (next ≤ 5))

/-- Values of CT_ENTRY beyond its field table: the action's reserved values (R567). -/
def ctEntryOk (v : List Nat) : Bool :=
  let a0 := v.getD 8 0
  let a3 := v.getD 11 0
  let dest := bitsOf a0 29 3
  nextOk (valOf v F.CT_ENTRY_TABLE) (bitsOf a0 13 3) && decide (bitsOf a3 13 4 ≤ 8) && bitsOf a3 0 13 == 0 &&
    !(dest == 1 && decide (bitsOf a0 24 5 > 23))

/-- The words of a number from word `w`, least significant first. -/
def wordsNat (v : List Nat) (w n : Nat) : Nat := (List.range n).foldr (fun i x => v.getD (w + i) 0 % 2 ^ 32 + 2 ^ 32 * x) 0

/-- The entry a commit leaves, readable again (R575, R601). -/
def ctEntryEffect (v : List Nat) (s : State) : State :=
  let k := 256 * valOf v F.CT_ENTRY_TABLE + valOf v F.CT_ENTRY_INDEX
  let e : CtEnt := ⟨wordsNat v 0 4, wordsNat v 4 4, wordsNat v 8 4, valOf v F.CT_ENTRY_VALID == 1, 0⟩
  modSsw (fun x => { x with ct := tabSet .reset x.ct k e, ctBroken := x.ctBroken.filter (fun j => j != k) }) s

/-- A commit of CT_ENTRY (R575). -/
def execCtEntryCommit (a : Acc) (s : State) : Out :=
  .next (regCommit .CT_ENTRY 0 0 a neverBusy ctEntryOk ctEntryEffect s)

/-! ### Core queues (R584) -/

/-- The ring of a core queue is full. -/
def cqFull (s : State) (q : Nat) : Bool :=
  (tabGet 0 s.ssw.pi q + 4096 - fld s F.SSW_CQI_CI 0 q) % 4096 == 2 ^ fld s F.SSW_CQ_LOG2N 0 q

/-- The receive record before a frame (R584). -/
def rxRecord (f : InFrame) (mirror : Bool) : List Nat :=
  leBytes 4 f.ns ++ leBytes 4 f.sec ++ leBytes 8 f.md.toNat ++ leBytes 4 f.cls ++ leBytes 2 f.data.length ++
    [f.port, b2n mirror] ++ leBytes 8 0

/-- The requester of a frame's fabric transactions: its quad, or 206 in a recirculated pass (R571, R584). -/
def frameReq (f : InFrame) : Nat := if f.pass = 0 then 200 + f.port / 4 else 206

/-- A frame of a core queue stands in a buffer shared with the core: its ring entry, and the interrupt of a ring that was
empty (R584). -/
def coreEntry (q len t : Nat) (s : State) : State :=
  let pi := tabGet 0 s.ssw.pi q
  let at_ := fld s F.SSW_CQ_BASE 0 q * 8 + pi % 2 ^ fld s F.SSW_CQ_LOG2N 0 q * 8
  let s := sramWrite 8 at_ (t % 2 ^ 32 + len % 65536 * 2 ^ 32) s
  let was := decide (pi = fld s F.SSW_CQI_CI 0 q)
  let s := modSsw (fun x => { x with pi := tabSet 0 x.pi q ((pi + 1) % 4096) }) s
  if was then raise (465 + q) s else s

/-- A frame of a core queue is written into its buffer, which is then shared with the core; false when it is lost. -/
def corePlace (q req pool h : Nat) (bytes : List Nat) (len : Nat) (s : State) : Bool × State :=
  if decide (bytes.length > 2 ^ poolLog s pool) then (false, (stlFreeOp req h s).2)
  else
    let s := (writeBytes req bytes (bufAddr s pool (bitsOf h 8 18)) s).2
    match stlShareOp req h (fld s F.SSW_CQ_RID 0 q) s with
    | (.error _, s) => (false, (stlFreeOp req h s).2)
    | (.ok t, s) => (true, coreEntry q len t (stlFreeOp req h s).2)

/-- A frame goes to a core queue (R584). -/
def coreDeliver (q : Nat) (mirror : Bool) (f : InFrame) (s : State) : State :=
  if !flag s F.SSW_CQ_EN 0 q || cqFull s q then sswDrop F.SSW_CNT1_CQDROP s
  else
    let req := frameReq f
    let pool := fld s F.SSW_CQ_POOL 0 q
    match stlAllocOp req pool s with
    | (.error _, s) => sswDrop F.SSW_CNT1_CQDROP s
    | (.ok h, s) =>
      match corePlace q req pool h (rxRecord f mirror ++ f.data) f.data.length s with
      | (false, s) => sswDrop F.SSW_CNT1_CQDROP s
      | (true, s) => s

/-! ### Coded units (R577-R583) -/

/-- The key of an input's reassembly. -/
def fragKey (n i : Nat) : Nat := 16 * n + i

/-- Fragments held at an input are discarded (R582). -/
def fragLost (n i : Nat) (s : State) : State :=
  if (tabFind s.ssw.frag (fragKey n i)).isNone then s
  else bump F.SSW_CNT2_FRAGERR (modSsw (fun x => { x with frag := tabErase x.frag (fragKey n i) }) s)

/-- A packet or fragment that is discarded (R579, R582). -/
def fragErr (n i : Nat) (s : State) : State :=
  bump F.SSW_CNT2_FRAGERR (modSsw (fun x => { x with frag := tabErase x.frag (fragKey n i) }) s)

/-- The unit held in reassembly. -/
def fragOf (s : State) (n i : Nat) : Option Frag := tabFind s.ssw.frag (fragKey n i)

/-- Hold a unit in reassembly. -/
def fragPut (n i : Nat) (f : Frag) (s : State) : State :=
  modSsw (fun x => { x with frag := tabInsert (tabErase x.frag (fragKey n i)) (fragKey n i) f }) s

/-- A coded unit goes on to its input. -/
def arrive (a : Arrival) (s : State) : State :=
  let s := modSsw (fun x => { x with frag := tabErase x.frag (fragKey a.slot a.input) }) s
  { s with arrivals := s.arrivals ++ [a] }

/-- What a packet brings to an input: sequence number, timestamp, marker, arrival position, note and payload. -/
structure RtpPkt where
  no : Nat
  ts : Nat
  marker : Bool
  frame : Nat
  line : Nat
  note : Option (List Nat)
  data : List Nat
  deriving DecidableEq, Repr

/-- A unit that ends in a packet. -/
def unitOf (n i lo : Nat) (p : RtpPkt) (note : Option (List Nat)) (data : List Nat) : Arrival :=
  ⟨n, i, lo, p.no, p.ts, p.marker, p.frame, p.line, note, data⟩

/-- Sequence number that follows (R582). -/
def nextNo (n : Nat) : Nat := (n + 1) % 65536

/-- The NAL units of an aggregation packet (RFC 7798); none when a size does not fit. -/
def apUnits : Nat → List Nat → Option (List (List Nat))
  | 0, _ => none
  | n + 1, l =>
    match l with
    | [] => some []
    | _ =>
      let k := beNat l 0 2
      if l.length < 2 || k = 0 || decide (k + 2 > l.length) then none
      else (apUnits n (l.drop (2 + k))).map fun t => (l.drop 2).take k :: t

/-- A fragmentation unit (RFC 7798). -/
def hevcFu (n i : Nat) (p : RtpPkt) (s : State) : State :=
  let fu := p.data.getD 2 0
  let start := bitAt fu 7
  let fin := bitAt fu 6
  let body := p.data.drop 3
  if start then
    let s := fragLost n i s
    let h0 := p.data.getD 0 0 / 128 * 128 + fu % 64 * 2 + p.data.getD 0 0 % 2
    fragPut n i ⟨p.no, p.no, p.ts, 0, h0 :: p.data.getD 1 0 :: body, p.note⟩ s
  else
    match fragOf s n i with
    | none => fragErr n i s
    | some f =>
      let data := f.data ++ body
      if p.no ≠ nextNo f.hi || decide (data.length > 4194304) then fragErr n i s
      else if fin then arrive (unitOf n i f.lo p f.note data) s
      else fragPut n i { f with hi := p.no, data := data } s

/-- An HEVC packet (R579, R581): the units of an aggregation packet go on in order, as one group under its number: the
later ones carry 65,536 more as their first number. -/
def hevcPkt (n i : Nat) (p : RtpPkt) (s : State) : State :=
  let t := p.data.getD 0 0 / 2 % 64
  if t = 49 then hevcFu n i p s
  else
    let s := fragLost n i s
    if t = 48 then
      match apUnits (p.data.length + 1) (p.data.drop 2) with
      | none => fragErr n i s
      | some us =>
        (us.foldl (fun (acc : State × Nat × Option (List Nat)) u =>
          (arrive (unitOf n i acc.2.1 p acc.2.2 u) acc.1, p.no + 65536, none)) (s, p.no, p.note)).1
    else arrive (unitOf n i p.no p p.note p.data) s

/-- A JPEG XS packet (R579, R582): slice mode only; `slice` joins the frame and slice counters. -/
def xsPkt (n i : Nat) (p : RtpPkt) (s : State) : State :=
  let h := beNat p.data 0 4
  let slice := bitsOf h 22 5 * 2048 + bitsOf h 11 11
  let body := p.data.drop 4
  if !bitAt h 30 then fragErr n i s
  else
    let fin := bitAt h 29
    let begun := bitsOf h 0 11 == 0
    if begun then
      let s := fragLost n i s
      if fin then arrive (unitOf n i p.no p p.note body) s
      else fragPut n i ⟨p.no, p.no, p.ts, slice, body, p.note⟩ s
    else
      match fragOf s n i with
      | none => fragErr n i s
      | some f =>
        let data := f.data ++ body
        if p.no ≠ nextNo f.hi || f.slice ≠ slice || decide (data.length > 4194304) then fragErr n i s
        else if fin then arrive (unitOf n i f.lo p f.note data) s
        else fragPut n i { f with hi := p.no, data := data } s

/-- The RUNNING slot and input of a class (R577). -/
def decodeInput (s : State) (cls : Nat) : Option (Nat × Nat) :=
  (List.range 256).findSome? fun n =>
    let x := (patOf s n).desc
    if (patOf s n).st ≠ .running then none
    else
      ((List.range (dNin x)).find? fun i =>
        dIn x i 0 1 == 2 && dIn x i 3 1 / 16 == 1 && dIn x i 0xA 4 == cls && cls != 0).map fun i => (n, i)

/-- Delivery to the coded input of a class (R577, R580). -/
def decodeDeliver (f : InFrame) (s : State) : State :=
  let h := parse s f.data
  match decodeInput s f.cls, h.rtp with
  | some (n, i), some o =>
    let ifmt := dIn (patOf s n).desc i 3 1
    let pad := if bitAt (beNat f.data o 1) 5 then f.data.getLast?.getD 0 else 0
    let udpEnd := match h.udp with | some u => u + beNat f.data (u + 4) 2 | none => f.data.length
    let fin := min udpEnd f.data.length - pad
    let p : RtpPkt := ⟨beNat f.data (o + 2) 2, beNat f.data (o + 4) 4, bitAt (beNat f.data (o + 1) 1) 7, f.frame, f.line,
      h.note, (f.data.take fin).drop h.pay⟩
    if ifmt = 0x10 && h.pfmt = 2 then hevcPkt n i p s
    else if ifmt = 0x11 && h.pfmt = 3 then xsPkt n i p s
    else sswDrop F.SSW_CNT0_NOINPUT s
  | _, _ => sswDrop F.SSW_CNT0_NOINPUT s

/-! ### Delivery (R556, R570, R572) -/

/-- A switched frame enters an egress queue, or is lost at an unusable port (R556). -/
def portDeliver (p q : Nat) (f : InFrame) (s : State) : State :=
  if portUsable s p then egEnqueue p q ⟨f.data, s.now, f.bkt, none, none, true, false⟩ s
  else sswDrop F.SSW_CNT1_PORTOFF s

/-- Delivery of a frame at the end of its last pass. -/
def deliver (f : InFrame) (s : State) : State :=
  match f.dst with
  | .none => sswDrop F.SSW_CNT0_NODEST s
  | .port p q => portDeliver p q f s
  | .core q => coreDeliver q false f s
  | .decode => decodeDeliver f s
  | .group n q =>
    let ports := (List.range 24).filter fun p =>
      bitAt (fld s F.SSW_GRP_PORTS 0 n) p && decide (p ≠ f.port) && flag s F.ETH_CFG_EN p
    let s := forEach ports (fun p s => portDeliver p q f s) s
    if flag s F.SSW_GRP_CORE 0 n then coreDeliver (fld s F.SSW_GRP_CQ 0 n) false f s else s
  | .drop => s

/-! ### Actions (R567-R570, R576, R588, R589) -/

/-- The destination that a DEST code names with PORT and QUEUE; none leaves it unchanged. -/
def destOf (code port queue : Nat) : Option FrmDst :=
  match code with
  | 1 => some (.port port queue)
  | 2 => some (.core queue)
  | 3 => some .decode
  | 4 => some (.group port queue)
  | 5 => some .drop
  | _ => none

/-- Apply a DEST code. -/
def setDest (code port queue : Nat) (f : InFrame) : InFrame :=
  match destOf code port queue with
  | some d => { f with dst := d }
  | none => f

/-- The L2 key of a frame's outer VID and an address (R588, R589). -/
def l2Key (h : Hdrs) (mac : Nat) : Nat := (if h.tags = 0 then 0 else h.outer % 4096) * 2 ^ 48 + mac

/-- A FLOW lookup (R588, R593, R602). -/
def flowLookup (h : Hdrs) (fkt : Bool) (f : InFrame) (s : State) : InFrame × State :=
  let kt := if fkt then 2 else 1
  let key := if fkt then f.md.toNat % 2 ^ 56 else l2Key h (beNat f.data 0 6)
  let found := if domUp s 201 then (ftFind s kt key).bind (tabFind s.ft.slots) else none
  match found with
  | none => ({ f with md := mdPut (mdPut f.md 63 1 0) 62 1 1, dst := .core (fld s F.SSW_CFG_MISSQ) }, s)
  | some (w0, w1) =>
    let r := w1.toNat
    let f := setDest (bitsOf r 69 3) (bitsOf r 64 5) (bitsOf r 50 6) { f with md := mdPut (mdPut f.md 63 1 1) 62 1 0 }
    let f := { f with cls := if bitsOf r 0 32 = 0 then f.cls else bitsOf r 0 32 }
    let f := { f with bkt := if bitAt r 49 then some (bitsOf r 35 14) else f.bkt }
    (f, if !ftStatic w0 && decide (ftStamp w1 ≠ s.ft.epoch) then learnPush (.refresh kt key) s else s)

/-- SPREAD: the class from the IDT, then DECODE (R576). -/
def spread (s : State) (t a3 : Nat) (field : Nat → Nat) (f : InFrame) : InFrame :=
  let part (on : Bool) (sel : Nat) : List Nat := if on then beBytes 4 (field sel) else []
  let bytes := part (bitAt a3 25) (fld s F.CT_CFG_SEL0 0 t) ++ part (bitAt a3 26) (fld s F.CT_CFG_SEL1 0 t) ++
    part (bitAt a3 27) (fld s F.CT_CFG_SEL2 0 t) ++ part (bitAt a3 28) (fld s F.CT_CFG_SEL3 0 t)
  let i := (bitsOf a3 17 8 + crc32 bytes % 2 ^ bitsOf a3 13 4) % 256
  { f with cls := fld s F.SSW_IDT_CLASS 0 i, dst := .decode }

/-- The frame, whether a further pass is asked for, and the state, between actions. -/
abbrev Passing := InFrame × Bool × State

/-- The policer of an action (R626-R628). -/
def actPolice (h : Hdrs) (n : Nat) (f : InFrame) (s : State) : InFrame × State :=
  let p := polOf s n
  let md := bitsOf f.md.toNat 57 2
  let pre := if p.pcsrc then (if h.tags ≠ 0 && bitAt h.outer 12 then 2 else 1) else if md = 0 then 1 else md
  match police n pre (f.data.length + 4) s with
  | (some c, s) => ({ f with md := mdPut f.md 57 2 c }, s)
  | (none, s) => (f, s)

/-- The learning of a frame's source (R589). -/
def actLearn (h : Hdrs) (f : InFrame) (s : State) : State :=
  if bitAt (beNat f.data 6 1) 0 || !flag s F.SSW_CFG_LEARN then s
  else learnPush (.source (l2Key h (beNat f.data 6 6)) f.port) s

/-- The DEST code of an action: a FLOW lookup, a SPREAD or a destination (R567, R576, R588). -/
def actDest (h : Hdrs) (t a d : Nat) (f : InFrame) (s : State) : InFrame × State :=
  match d with
  | 6 => flowLookup h (bitAt (actWord a 0) 12) f s
  | 7 => (spread s t (actWord a 3) (pfield f.data h f.port f.md.toNat) f, s)
  | d => (setDest d (bitsOf (actWord a 0) 24 5) (bitsOf (actWord a 0) 18 6) f, s)

/-- One action of table `t`, its fields in the order of R568. -/
def act (h : Hdrs) (t a : Nat) (x : Passing) : Passing :=
  let (f, rec0, s) := x
  let a0 := actWord a 0
  let a1 := actWord a 1
  let a3 := actWord a 3
  let f := { f with md := mdWrite f.md (bitsOf a3 30 2) (bitsOf a1 16 16) (bitsOf a1 0 16) }
  let f := if bitAt a3 29 then { f with cls := actWord a 2 } else f
  let (f, s) := if bitAt a0 10 then actPolice h (bitsOf a0 0 10) f s else (f, s)
  let s := if bitAt a0 17 then actLearn h f s else s
  let s := if bitAt a0 11 then coreDeliver (fld s F.SSW_CFG_MIRQ) true f s else s
  let (f, s) := actDest h t a (bitsOf a0 29 3) f s
  (f, rec0 || bitAt a0 16, s)

/-- One pass from table `t`; `n` bounds the tables (R566). -/
def passFrom (h : Hdrs) : Nat → Nat → Passing → Passing
  | 0, _, x => x
  | n + 1, t, x =>
    if t ≥ 6 then x
    else
      let (f, _, s) := x
      if !flag s F.CT_CFG_EN 0 t then passFrom h n (t + 1) x
      else
        let i := ctActing s t (ctKey s t (pfield f.data h f.port f.md.toNat))
        let e := ctOf s t i
        let hit (c : CtEnt) : CtEnt := { c with hits := (c.hits + 1) % 2 ^ 32 }
        let s := modSsw (fun y => { y with ct := tabMod .reset y.ct (256 * t + i) hit }) s
        let y := act h t e.action (f, x.2.1, s)
        let next := bitsOf (actWord e.action 0) 13 3
        passFrom h n (if next = 0 then t + 1 else next) y

/-- Entries found uncorrectable since the last pass, as SSWUE's DETAIL spells them: [20] flow table, [19:17] classifier
table, [16:0] index (R601). -/
def sswUe (d : Nat) (s : State) : State :=
  let i := d % 2 ^ 17
  let s :=
    if bitAt d 20 then
      bump F.FT_CNT3_UE (modFt (fun t => { t with broken := if t.broken.contains i then t.broken else i :: t.broken }) s)
    else
      let k := 256 * bitsOf d 17 3 + i % 256
      bump F.SSW_CNT3_CTUE (modSsw (fun x => { x with
        ctBroken := if x.ctBroken.contains k then x.ctBroken else k :: x.ctBroken }) s)
  report 0x0F 0 d 255 s

/-- A frame's pass and what follows it: a further pass, or its delivery (R566, R571). -/
def passFrame (f : InFrame) (s : State) : State :=
  let h := parse s f.data
  let f := { f with md := mdPut (mdPut f.md 61 1 (b2n h.perr)) 59 2 f.pass }
  let s := if h.perr && f.pass = 0 then bump F.SSW_CNT3_PERR s else s
  let (f, again, s) := passFrom h 6 0 (f, false, s)
  if again && decide (f.pass < 2) then modSsw (fun x => { x with recirc := x.recirc ++ [{ f with pass := f.pass + 1 }] }) s
  else deliver f (if again then bump F.SSW_CNT2_RCLIM s else s)

/-- The next frame passes through the classifier, recirculated frames first (R573). -/
def execClassifierPass (bad : List (BitVec 21)) (s : State) : Out :=
  if !domUp s 200 then .next s
  else
    let s := forEach (bad.map BitVec.toNat) sswUe s
    match s.ssw.recirc, s.ssw.inq with
    | f :: t, _ => .next (passFrame f (modSsw (fun x => { x with recirc := t }) s))
    | [], f :: t => .next (passFrame f (modSsw (fun x => { x with inq := t }) s))
    | [], [] => .next s

/-! ### Reception (R554, R555, R558-R561) -/

/-- Bytes that a port's ingress buffer holds. -/
def inBytes (s : State) (p : Nat) : Nat :=
  (s.ssw.inq ++ s.ssw.recirc).foldl (fun n f => if f.port = p then n + f.data.length + 4 else n) 0

/-- A PTP domain takes a frame, which is then not classified (R561). -/
def ptpTakes (s : State) (p : Nat) (b : List Nat) : Bool :=
  let h := parse s b
  match h.udp, h.ptp with
  | some _, some o =>
    [0, 1].any fun d =>
      flag s F.PTP_CFG_EN d && decide (fld s F.PTP_CFG_PORT d = p) && decide (fld s F.PTP_CFG_DOMAIN d = beNat b (o + 4) 1)
  | _, _ => false

/-- Codewords that the RS-FEC corrected, and those it could not (ETH_FEC; R818). -/
def fecCount (p corr uncorr : Nat) (s : State) : State :=
  bump F.ETH_FEC_CORR (bump F.ETH_FEC_UNCORR (tallyAdd (192 + p) corr (tallyAdd (216 + p) uncorr s)) p 0 uncorr) p 0 corr

/-- A frame received whole: `data` without its FCS, which held or not (R554, R555). -/
def execFrameReceive (port : Fin 24) (data : List Byte) (fcsOk : Bool) (corr : Byte) (uncorr : Byte) (s : State) : Out :=
  let p := port.val
  let b := data.map BitVec.toNat
  if !portUsable s p || !domUp s (176 + p / 4) then .next s
  else
    let s := fecCount p corr.toNat uncorr.toNat s
    let l := b.length + 4
    if !fcsOk || decide (l < 64) || decide (l > fld s F.ETH_CFG_MAXLEN p) then .next (bump F.ETH_RXERR_BAD s p)
    else if beNat b 12 2 = 0x8808 then .next (bump F.ETH_MISC_MACCTL s p)
    else if inBytes s p + l > (if gangLead s p then 1048576 else 262144) then .next (bump F.ETH_RXERR_RXDROP s p)
    else
      let s := bumpWrap F.ETH_RXCNT_RX s p
      if ptpTakes s p b || !domUp s 200 then .next s
      else
        let pos := posNow s
        let md := BitVec.ofNat 64 (fld s F.ETH_CFG_PMETA p)
        let f : InFrame := ⟨p, b, secNow s, nsNow s, pos.1, pos.1 * fld s F.RCK_FMT_LINES + pos.2.1, md, 0, .none, none, 0⟩
        .next (modSsw (fun x => { x with inq := x.inq ++ [f] }) s)

/-! ### Frames of cores (R585) -/

/-- Frames from cores that wait for a port. -/
def coreFrames (s : State) (p : Nat) : Nat :=
  (ethOf s p).queues.foldl (fun n e => n + (e.2.frames.filter (fun f => f.ticket.isSome)).length) 0

/-- 256 frames of cores wait for the port named. -/
def sswTxBusy (s : State) (v : List Nat) : Option Berr := busyIf (decide (coreFrames s (valOf v F.SSW_TX_PORT) ≥ 256))

/-- Values of SSW_TX beyond its field table: the length against the port's MAXLEN. -/
def sswTxOk (s : State) (v : List Nat) : Bool :=
  let l := valOf v F.SSW_TX_LEN
  decide (60 ≤ l) && decide (l + 4 ≤ fld s F.ETH_CFG_MAXLEN (valOf v F.SSW_TX_PORT)) && decide (valOf v F.SSW_TX_PORT < 24)

/-- A core's frame is read under its ticket and queued (R556, R585). -/
def sswTxEffect (v : List Nat) (s : State) : State :=
  let p := valOf v F.SSW_TX_PORT
  let req := 200 + p / 4
  let l := valOf v F.SSW_TX_LEN
  let h := valOf v F.SSW_TX_HANDLE
  match stlCheckOp req h 0 ((l + 7) / 8) s with
  | (.error _, s) => bump F.SSW_CNT2_TXREF s
  | (.ok a, s) =>
    match readBytes req l a s with
    | (none, s) => bump F.SSW_CNT2_TXREF s
    | (some b, s) =>
      let f : EgFrame := ⟨b, s.now, none, none, some h, true, false⟩
      if portUsable s p then egEnqueue p (valOf v F.SSW_TX_QUEUE) f s
      else egRelease p f (sswDrop F.SSW_CNT1_PORTOFF s)

/-- A commit of SSW_TX (R585). -/
def execSswTx (a : Acc) (s : State) : Out :=
  .next (regCommit .SSW_TX 0 0 a (sswTxBusy s) (sswTxOk s) sswTxEffect s)

/-! ### Links (R551, R608) -/

/-- Change the link status of a port, raising ETHLINKp when LINK changes. -/
def setEthLink (p : Nat) (link block fec align : Bool) (s : State) : State :=
  let was := (ethOf s p).link
  let s := modEth p (fun e => { e with link := link, block := block, fecLock := fec, align := align }) s
  if was = link then s else raise (593 + p) s

/-- An enabled port's link comes up (R551, R552). -/
def execEthLinkUp (port : Fin 24) (s : State) : Out :=
  let p := port.val
  if !flag s F.ETH_CFG_EN p || gangMember s p || !domUp s (176 + p / 4) then .next s
  else .next (setEthLink p true true true (gangLead s p) s)

/-- A port's link goes down: its queued frames are discarded (R608). -/
def ethDrop (p : Nat) (block fec align : Bool) (s : State) : State :=
  if !(ethOf s p).link then s
  else
    let s := egFlush p (setEthLink p false block fec align s)
    match (ethOf s p).cur with
    | some (_, _, f) => egRelease p f (modEth p (fun e => { e with cur := none }) s)
    | none => s

/-- A port's link goes down (R608). -/
def execEthLinkDown (port : Fin 24) (block : Bool) (fec : Bool) (align : Bool) (s : State) : Out :=
  .next (ethDrop port.val block fec align s)

/-! ### Registers (R552, R553, R560, R577, R584) -/

/-- A member of an enabled gang, and a change of GANG or MAXLEN with a port of the group enabled (R552, R553). -/
def ethCfgBusy (p : Nat) (s : State) (v : List Nat) : Option Berr :=
  let q := p / 4 * 4
  let changed := valOf v F.ETH_CFG_GANG != fld s F.ETH_CFG_GANG p || valOf v F.ETH_CFG_MAXLEN != fld s F.ETH_CFG_MAXLEN p
  busyIf (gangMember s p || (changed && [q, q + 1, q + 2, q + 3].any fun k => flag s F.ETH_CFG_EN k))

/-- GANG is reserved outside the lead's frame. -/
def ethCfgOk (p : Nat) (v : List Nat) : Bool := valOf v F.ETH_CFG_EN == 0 || p % 4 == 0 || valOf v F.ETH_CFG_GANG == 0

/-- A port that is disabled, or that becomes a member of a gang, has no link. -/
def ethCfgEffect (p : Nat) (s : State) : State :=
  if !flag s F.ETH_CFG_EN p then ethDrop p false false false s
  else if gangLead s p then forEach [p + 1, p + 2, p + 3] (fun k s => ethDrop k false false false s) s
  else s

/-- BASE of a port range is a multiple of its size. -/
def sswRtpOk (v : List Nat) : Bool :=
  valOf v F.SSW_RTP_EN == 0 || valOf v F.SSW_RTP_BASE % 2 ^ valOf v F.SSW_RTP_LOG2N == 0

/-- The ring of a core queue lies in core SRAM. -/
def sswCqOk (v : List Nat) : Bool :=
  valOf v F.SSW_CQ_EN == 0 || decide (valOf v F.SSW_CQ_BASE * 8 + 2 ^ valOf v F.SSW_CQ_LOG2N * 8 ≤ 0x800000)

/-- An enabled queue is only cleared. -/
def sswCqBusy (q : Nat) (s : State) (v : List Nat) : Option Berr :=
  busyIf (flag s F.SSW_CQ_EN 0 q && valOf v F.SSW_CQ_EN == 1)

/-- Enabling a queue sets PI and CI to 0. -/
def sswCqEffect (q : Nat) (v : List Nat) (s : State) : State :=
  if valOf v F.SSW_CQ_EN = 1 then
    setFld F.SSW_CQI_CI 0 (modSsw (fun x => { x with pi := tabSet 0 x.pi q 0 }) s) 0 q
  else s

/-- The limit of an egress queue: 128 units of a port, 512 of a gang. -/
def egQcfgOk (p : Nat) (s : State) (v : List Nat) : Bool :=
  decide (valOf v F.EG_QCFG_QLIM ≤ if p % 4 = 0 && flag s F.ETH_CFG_GANG p then 512 else 128)

/-- The template area ends within core SRAM. -/
def egTbaseOk (v : List Nat) : Bool := decide (valOf v F.EG_TBASE_BASE * 128 + 1024 * 128 ≤ 0x800000)

end Sys2Proof.Machine
end

