-- ==== Sys2Proof/Machine/Magazine.lean ====
section
/-! DEFINITION. Magazine ports: attach and recovery, takes, streams and the landing buffer, the journal, coded pictures,
power failure, and reading back (spec/16; spec/22 R847). -/

namespace Sys2Proof.Machine

/-! ### Ports -/

/-- A magazine port. -/
def magOf (s : State) (m : Nat) : Mag := tabGet .reset s.mag m

/-- Change a magazine port. -/
def modMag (m : Nat) (f : Mag → Mag) (s : State) : State := { s with mag := tabMod .reset s.mag m f }

/-- A stream of a port. -/
def mStream (s : State) (m k : Nat) : MagStream := tabGet .reset (magOf s m).streams k

/-- Change a stream. -/
def modMStream (m k : Nat) (f : MagStream → MagStream) (s : State) : State :=
  modMag m (fun x => { x with streams := tabMod .reset x.streams k f }) s

/-- A port is the odd member of a quad run at x4 (R631). -/
def magMember (s : State) (m : Nat) : Bool := m % 2 == 1 && flag s F.MAG_CFG_X4 (m - 1)

/-- Codes of MAG_STAT.ATT. -/
def Att.code : Att → Nat
  | .none => 0 | .enum => 1 | .scan => 2 | .ready => 3 | .blank => 4 | .fail => 5 | .full => 6

/-- Change ATT, raising MAGSTATEm on a change. -/
def setAtt (m : Nat) (a : Att) (s : State) : State :=
  if (magOf s m).att = a then s else raise (641 + m) (modMag m (fun x => { x with att := a }) s)

/-- A refused magazine: FAIL with its cause (R637). -/
def magFail (m c : Nat) (s : State) : State := setAtt m .fail (modMag m (fun x => { x with failc := c }) s)

/-- A counter of MAG_CNT0 or MAG_CNT1 that raises MAGEVTm. -/
def magEvent (f : FieldRef) (m : Nat) (s : State) : State := raise (673 + m) (bump f s m)

/-- Bytes of the landing buffer (R635). -/
def landingSize (s : State) (m : Nat) : Nat := if flag s F.MAG_CFG_X4 m && m % 2 == 0 then 4194304 else 2097152

/-- Bytes of raw data that the landing buffer holds: not submitted, or submitted and not complete. -/
def landingUsed (x : Mag) : Nat :=
  x.frames.foldl (fun n f => if f.coded then n else n + f.buf.length) 0 +
    x.wr.foldl (fun n w => match w.what with | .data _ _ true => n + w.data.length | _ => n) 0

/-- Blocks of an extent. -/
def extBlocks (x : Mag) : Nat := 2 ^ x.extsh

/-- Extents of the namespace (R639). -/
def extCount (x : Mag) : Nat := (x.nblk - 256) / extBlocks x

/-- First block of an extent. -/
def extBlock (x : Mag) (e : Nat) : Nat := 256 + e * extBlocks x

/-- Extents free for data: two beyond the head are the journal's (R656). -/
def extFree (x : Mag) : Nat := extCount x - x.head - 2

/-! ### Records (R643) -/

/-- A record of 64 bytes: type, stream, take and the rest from byte 8. -/
def tmlRec (type stream take : Nat) (rest : List Nat) : List Nat :=
  ([type, stream] ++ leBytes 6 take ++ rest ++ List.replicate 56 0).take 64

/-- A record enters the journal's queue. -/
def pushRec (m : Nat) (r : List Nat) (s : State) : State :=
  modMag m (fun x => { x with recs := x.recs ++ [(s.now, r)] }) s

/-- Nanoseconds of realised time of a total, floor (R107). -/
def nsOfTotal (s : State) (t : Nat) : Nat :=
  if fmtTicks s = 0 then 0 else t * fmtDen s * 1000000000 / fmtTicks s + fld s F.RCK_FMT_OFS

/-- The TAKE record of a take that starts now. -/
def takeRec (s : State) (take : Nat) : List Nat :=
  let f := frameNow s
  let ns := nsOfTotal s (f * frameTicks s)
  tmlRec 1 0xFF take (leBytes 5 f ++ leBytes 3 0 ++ leBytes 4 (fld s F.RCK_FMT_NUM) ++ leBytes 2 (fmtDen s) ++
    leBytes 2 (fld s F.RCK_FMT_LINES) ++ leBytes 8 (ns / 1000000000) ++ leBytes 4 (ns % 1000000000) ++ leBytes 4 0 ++
    leBytes 8 Config.uid.toNat)

/-- The STREAM record of a stream. -/
def streamRec (s : State) (m k take : Nat) : List Nat :=
  let src := fld s F.MAG_SCFG_SRC m k
  if fld s F.MAG_SCFG_KIND m k = 1 then
    tmlRec 2 k take ([1, src, (bondOf s src).2, fld s F.LANE_CTRL_FMT src] ++
      leBytes 2 (fld s F.MAG_SCFG_ALINES m k) ++ leBytes 2 (fld s F.LANE_LCFG_SAMPLES src))
  else
    let o := fld s F.MAG_SCFG_OUT m k
    tmlRec 2 k take ([2, src, o] ++ List.replicate 21 0 ++ leBytes 32 (dOut (patOf s src).desc o 0 32))

/-- The FRAME record of a frame: one with CAUSE 1 or 2 holds no bytes (R644, R645). -/
def frameRec (take : Nat) (f : MagFrame) : List Nat :=
  let none_ := f.cause == 1 || f.cause == 2
  let lines := if none_ then 0 else f.ends.length
  tmlRec 4 f.stream take (leBytes 5 f.frame ++ [f.cause] ++ leBytes 2 lines ++ leBytes 8 f.soff ++
    leBytes 4 (if none_ then 0 else f.len) ++ leBytes 2 f.bad ++ leBytes 2 f.miss ++ f.note)

/-! ### Ending takes (R646, R655, R656) -/

/-- A stream stands in use: raw or coded, enabled. -/
def recording (s : State) (m k kind : Nat) : Bool := flag s F.MAG_SCFG_EN m k && fld s F.MAG_SCFG_KIND m k == kind

/-- The CLOSE record of a take. -/
def closeRec (x : Mag) (reason : Nat) : List Nat :=
  let last := x.streams.foldl (fun n e => match e.2.last with | some f => max n f | none => n) 0
  tmlRec 6 0xFF (x.take.getD 0) (leBytes 5 last ++ [reason])

/-- When the frames of a take that is to end have closed and are recorded, its CLOSE record follows, and then the
superblock (R646, R656). -/
def magEnd (m : Nat) (s : State) : State :=
  let x := magOf s m
  match x.ending with
  | some r =>
    if x.ended || !x.frames.isEmpty || !x.pics.isEmpty then s
    else modMag m (fun x => { x with ended := true, sbDue := true }) (pushRec m (closeRec x r) s)
  | none => s

/-- Change a frame. -/
def modFrame (m id : Nat) (g : MagFrame → MagFrame) (s : State) : State :=
  modMag m (fun x => { x with frames := x.frames.map fun f => if f.id = id then g f else f }) s

/-- A frame's FRAME record, once its bytes are acknowledged or belong to no frame (R650); the frame leaves the port, and
its ticket returns, when its writes have completed (R649). -/
def recordFrame (m : Nat) (f : MagFrame) (s : State) : State :=
  let x := magOf s m
  let count (t : MagStream) : MagStream :=
    { t with frames := if f.cause = 0 then (t.frames + 1) % 2 ^ 32 else t.frames
             slow := if f.cause = 1 then satAdd t.slow 1 65535 else t.slow
             werr := if f.cause = 2 then satAdd t.werr 1 255 else t.werr
             short := if f.cause = 3 then satAdd t.short 1 255 else t.short }
  let s := if f.recorded then s else modMStream m f.stream count (pushRec m (frameRec (x.take.getD 0) f) s)
  if f.outst ≠ 0 then modFrame m f.id (fun _ => { f with recorded := true, closed := true, buf := [] }) s
  else
    let s := modMag m (fun x => { x with frames := x.frames.filter (fun g => g.id != f.id) }) s
    match f.ticket with
    | some h => (stlFreeOp (208 + m) h s).2
    | none => s

/-- Record every frame that is closed and wholly acknowledged, in order, then end the take when it is to end. -/
def magSettle (m : Nat) (s : State) : State :=
  let ready := (magOf s m).frames.filter fun f => f.closed && f.buf.isEmpty && f.outst == 0
  magEnd m (forEach ready (recordFrame m) s)

/-- A frame of a port. -/
def mFrame (s : State) (m id : Nat) : Option MagFrame := (magOf s m).frames.find? fun f => f.id == id

/-- Close a stream's open frame with a cause. -/
def magCloseFrame (m k cause : Nat) (s : State) : State :=
  match (mStream s m k).cur with
  | none => s
  | some id =>
    match mFrame s m id with
    | none => modMStream m k (fun t => { t with cur := none }) s
    | some f =>
      let next := (f.soff + f.len + 4095) / 4096 * 4096
      let s := modMStream m k (fun t => { t with cur := none, last := some f.frame, soff := next }) s
      modFrame m id (fun f => { f with closed := true, cause := if f.cause = 0 then cause else f.cause }) s

/-- Close a frame at once with a cause that leaves it no bytes, and record it (R652, R654). -/
def dropFrame (m id cause : Nat) (s : State) : State :=
  match mFrame s m id with
  | none => s
  | some f =>
    let s := if (mStream s m f.stream).cur = some id then magCloseFrame m f.stream cause s else s
    magEnd m (recordFrame m { f with cause := cause } s)

/-- Recording ends on a port without the take being closed: streams discard further data (R655, R657). -/
def abandon (m : Nat) (s : State) : State :=
  let x := magOf s m
  let tickets := x.frames.filterMap (fun f => f.ticket) ++ x.pics.filterMap (fun p => p.ticket)
  let s := forEach tickets (fun h s => (stlFreeOp (208 + m) h s).2) s
  modMag m (fun x => { x with
    take := none, ending := none, ended := false, frames := [], pics := [], recs := [], wr := [], sbDue := false
    cmd := none, force := false
    streams := x.streams.map fun e => (e.1, { e.2 with cur := none, elems := 0, skip := false }) }) s

/-! ### Intake of raw streams (R647, R648) -/

/-- Start discarding a line: its elements to come, counted in LDROP. -/
def dropLine (m k n : Nat) (s : State) : State :=
  bump F.MAG_CNT1_LDROP (modMStream m k (fun t => { t with elems := n, skip := true }) s) m

/-- A frame of a raw stream opens. -/
def magOpenFrame (m k f : Nat) (s : State) : State :=
  let x := magOf s m
  let t := mStream s m k
  let fr : MagFrame := ⟨x.nextId, k, false, f, t.soff, 0, [], 0, 0, 0, false, [], 0, 0, [], [], none, s.now, false⟩
  modMStream m k (fun t => { t with cur := some x.nextId })
    (modMag m (fun x => { x with frames := x.frames ++ [fr], nextId := x.nextId + 1 }) s)

/-- Append an element to a stream's open frame; `fin` ends its line. -/
def putElem (m k v : Nat) (fin : Bool) (s : State) : State :=
  match (mStream s m k).cur with
  | none => s
  | some id =>
    let s := modFrame m id (fun f => { f with
      buf := f.buf ++ leBytes 8 v, len := f.len + 8, ends := if fin then f.ends ++ [f.len + 8] else f.ends }) s
    let full := match mFrame s m id with | some f => decide (f.ends.length ≥ fld s F.MAG_SCFG_ALINES m k) | none => false
    if fin && full then magCloseFrame m k 0 s else s

/-- A line's header element (R541, R647). -/
def lineHeader (m k v : Nat) (s : State) : State :=
  let words := bitsOf v 4 14
  let n := (words * 72 + 63) / 64
  let f := noteFrame s (bitsOf v 18 16)
  let x := magOf s m
  let t := mStream s m k
  let curF := (t.cur.bind (mFrame s m)).map MagFrame.frame
  if curF ≠ some f && t.last = some f then dropLine m k n s
  else
    let s := if curF.isSome && curF ≠ some f then magCloseFrame m k 3 s else s
    let new := decide (curF ≠ some f)
    if new && x.ending.isSome then dropLine m k n s
    else
      let s := if new then magOpenFrame m k f s else s
      let s :=
        match (mStream s m k).cur with
        | some id =>
          modFrame m id (fun g => { g with
            bad := g.bad + b2n (bitAt v 2 || bitAt v 1), miss := g.miss + b2n (bitAt v 3) }) s
        | none => s
      magSettle m (putElem m k v (n == 0) (modMStream m k (fun t => { t with elems := n, skip := false }) s))

/-- The aperture of a raw stream takes an element, or answers that it must wait (R647, R648). -/
def apertureTake (m k v : Nat) (s : State) : State × Bool :=
  let x := magOf s m
  let t := mStream s m k
  if t.elems > 0 && (t.skip || t.cur.isNone || x.stop) then
    (modMStream m k (fun t => { t with elems := t.elems - 1 }) s, true)
  else if t.elems = 0 && (x.take.isNone || x.stop || !recording s m k 1) then
    (dropLine m k ((bitsOf v 4 14 * 72 + 63) / 64) s, true)
  else if landingUsed x + 8 > landingSize s m then (s, false)
  else if t.elems > 0 then
    let fin := t.elems == 1
    (magSettle m (putElem m k v fin (modMStream m k (fun t => { t with elems := t.elems - 1 }) s)), true)
  else (lineHeader m k v s, true)

/-- The address of a stream's aperture (R633). -/
def apertureAddr (m k : Nat) : Nat := 0x200000000000 + m * 0x100000000 + 0xF0000000 + k * 0x1000000

/-- A window answers while its quad's domain is up. -/
def magUp (s : State) (m : Nat) : Bool := domUp s (182 + m / 2)

/-- A write to an aperture (R647). -/
def execApertureWrite (req : Req) (mag : Fin 16) (stream : Fin 16) (data : DWord) (s : State) : Out :=
  if !baseUp s then .next s
  else if !magUp s mag.val then .next (busError req.val (apertureAddr mag.val stream.val) true .domoff s)
  else .next (apertureTake mag.val stream.val data.toNat s).1

/-! ### Submitting (R638, R648-R651) -/

/-- Outstanding data writes of one queue pair. -/
def pairBusy (x : Mag) (raw : Bool) : Bool :=
  decide ((x.wr.filter fun w => match w.what with | .data _ _ r => r == raw | _ => false).length ≥ 64)

/-- A take whose data extents have run out: open frames close with CAUSE 3, CLOSE with REASON 4 follows, ATT FULL
(R656). -/
def magFull (m : Nat) (s : State) : State :=
  let s := forEach (List.range 16) (fun k s => magCloseFrame m k 3 s) s
  let empty (f : MagFrame) : MagFrame := { f with buf := [], closed := true, cause := if f.cause = 0 then 3 else f.cause }
  let s := modMag m (fun x => { x with ending := some 4, frames := x.frames.map empty }) s
  magSettle m (setAtt m .full s)

/-- A data extent for a stream, with its EXTENT record (R639, R650). -/
def newExtent (m k soff : Nat) (s : State) : State :=
  let x := magOf s m
  let b := extBlock x x.head
  let s := pushRec m (tmlRec 3 k (x.take.getD 0) (leBytes 8 b ++ leBytes 8 soff)) s
  modMStream m k (fun t => { t with blk := b, left := extBlocks x }) (modMag m (fun x => { x with head := x.head + 1 }) s)

/-- Submit one write of a frame: up to 256 KiB, whole blocks unless the frame has closed, within its extent (R648). -/
def submitFrame (m : Nat) (f : MagFrame) (s : State) : State :=
  let x := magOf s m
  if (mStream s m f.stream).left = 0 && extFree x = 0 then magFull m s
  else
    let s := if (mStream s m f.stream).left = 0 then newExtent m f.stream (f.soff + f.sent) s else s
    let t := mStream s m f.stream
    let avail := if f.closed then f.buf.length else f.buf.length / 4096 * 4096
    let n := min (min avail 262144) (t.left * 4096)
    let blocks := (n + 4095) / 4096
    let data := f.buf.take n ++ List.replicate (blocks * 4096 - n) 0
    let w : MagWrite := ⟨.data f.id f.sent (!f.coded), t.blk, data, s.now⟩
    let s := modMStream m f.stream (fun t => { t with blk := t.blk + blocks, left := t.left - blocks }) s
    let s := modFrame m f.id (fun g => { g with buf := g.buf.drop n, sent := g.sent + n, outst := g.outst + 1 }) s
    modMag m (fun x => { x with wr := x.wr ++ [w] }) s

/-- A frame with data to submit. -/
def submittable (f : MagFrame) : Bool := if f.closed then !f.buf.isEmpty else decide (f.buf.length ≥ 4096)

/-- Recording goes on: the magazine is in service and a take is open. -/
def magLive (x : Mag) : Bool := (decide (x.att = .ready) || decide (x.att = .full)) && x.take.isSome

/-- The engine submits the oldest landing data of a stream, after the pictures that wait for pair 1 (R638, R648). -/
def execLandingSubmit (mag : Fin 16) (stream : Fin 16) (s : State) : Out :=
  let m := mag.val
  let x := magOf s m
  if !magLive x || pairBusy x true || !x.pics.isEmpty || x.pfw || decide (s.pwr.mode = .frozen) then .next s
  else
    match x.frames.find? fun f => f.stream == stream.val && !f.coded && submittable f with
    | some f => .next (magSettle m (submitFrame m f s))
    | none => .next s

/-- Submit all writes of a picture; `n` bounds them. -/
def submitAll (m id : Nat) : Nat → State → State
  | 0, s => s
  | n + 1, s =>
    match mFrame s m id with
    | some f => if f.buf.isEmpty || !magLive (magOf s m) then s else submitAll m id n (submitFrame m f s)
    | none => s

/-- A coded picture is written from its Stall buffer (R649): note, then each unit with its length. -/
def execCodedPictureRecord (mag : Fin 16) (s : State) : Out :=
  let m := mag.val
  let x := magOf s m
  match x.pics with
  | p :: rest =>
    if !magLive x || pairBusy x false || decide (s.pwr.mode = .frozen) then .next s
    else
      let t := mStream s m p.stream
      let f16 := leNat ((p.note.drop 6).take 2)
      let n := p.data.length
      let fr : MagFrame := ⟨x.nextId, p.stream, true, noteFrame s f16, t.soff, n, [], 0, 0, 0, true, p.data, 0, 0, [],
        p.note, p.ticket, p.at_, false⟩
      let s := modMStream m p.stream (fun t =>
        { t with soff := (t.soff + n + 4095) / 4096 * 4096, last := some fr.frame }) s
      let s := modMag m (fun x => { x with pics := rest, frames := x.frames ++ [fr], nextId := x.nextId + 1 }) s
      .next (magSettle m (submitAll m fr.id (n / 4096 + 1) s))
  | [] => .next s

/-- A picture of an output is passed on to its magazine (R649): the stream that names it, a ticket on its buffer. -/
def passToMagazine (n k : Nat) (note : List Nat) (units : List (List Nat)) (buf : Option Nat) (owner : Nat) (s : State) :
    State :=
  let d := (patOf s n).desc
  let m := dOut d k 0x41 1 % 16
  let x := magOf s m
  let names (j : Nat) : Bool :=
    recording s m j 2 && fld s F.MAG_SCFG_SRC m j == n && fld s F.MAG_SCFG_OUT m j == k
  match (List.range 16).find? names with
  | none => s
  | some j =>
    if !magLive x || x.stop || x.ending.isSome then s
    else
      let (t, s) :=
        match buf with
        | some h => (match stlShareOp owner h (208 + m) s with | (.ok t, s) => (some t, s) | (.error _, s) => (none, s))
        | none => (none, s)
      let data := note ++ units.flatMap fun u => leBytes 4 u.length ++ u
      modMag m (fun x => { x with pics := x.pics ++ [⟨j, note, data, t, s.now⟩] }) s

/-! ### Journal and superblocks (R640-R642, R650, R651) -/

/-- A superblock's bytes (R640). -/
def superBytes (x : Mag) (gen : Nat) : List Nat :=
  let h := leBytes 4 0x544D4C53 ++ leBytes 2 1 ++ [x.extsh, 0] ++ leBytes 8 gen ++ leBytes 8 x.uid ++ leBytes 8 x.nblk ++
    leBytes 8 x.jfirst ++ leBytes 8 x.jckpt ++ leBytes 8 x.jseqc ++ leBytes 8 x.head ++ leBytes 8 Config.uid.toNat ++
    List.replicate 180 0
  h ++ leBytes 4 (crc32c h) ++ List.replicate 3840 0

/-- A journal block's bytes (R641). -/
def journalBytes (x : Mag) (recs : List (List Nat)) : List Nat :=
  let body := (recs.flatMap id ++ List.replicate 4032 0).take 4032
  let h := leBytes 4 0x544D4A42 ++ [recs.length, 0, 0, 0] ++ leBytes 8 x.jseq ++ leBytes 8 x.uid ++ List.replicate 36 0
  h ++ leBytes 4 (crc32c (h ++ [0, 0, 0, 0] ++ body)) ++ body

/-- A journal or superblock write is outstanding (R651). -/
def journalBusy (x : Mag) : Bool :=
  x.wr.any fun w => match w.what with | .journal _ => true | .super => true | _ => false

/-- Submit a journal block of records at the journal's position; the position moves to `next`. -/
def submitJournal (m : Nat) (recs : List (List Nat)) (next : Nat) (s : State) : State :=
  let x := magOf s m
  let w : MagWrite := ⟨.journal x.jseq, x.jblk, journalBytes x recs, s.now⟩
  modMag m (fun x => { x with wr := x.wr ++ [w], jseq := x.jseq + 1, jblk := next }) s

/-- Submit a superblock to the block that is not current (R640). -/
def submitSuper (m : Nat) (s : State) : State :=
  let x := magOf s m
  let w : MagWrite := ⟨.super, if x.sbB then 0 else 1, superBytes x (x.sbGen + 1), s.now⟩
  modMag m (fun x => { x with wr := x.wr ++ [w], sbGen := x.sbGen + 1, sbB := !x.sbB, sbDue := false }) s

/-- The next journal block, when none is outstanding: full, with a record 2 ms old, or forced by a power failure; a JEXT
record alone in the last block of an extent; then a superblock that is due (R642, R651, R658). -/
def execJournalSubmit (mag : Fin 16) (s : State) : Out :=
  let m := mag.val
  let x := magOf s m
  let live := decide (x.att = .ready) || decide (x.att = .full) || decide (x.att = .scan) || decide (x.att = .blank)
  if !live || journalBusy x then .next s
  else
    match x.recs with
    | (t, _) :: _ =>
      if decide (x.recs.length ≥ 63) || decide (s.now ≥ t + 2000000) || x.force then
        if (x.jblk - 256) % extBlocks x + 1 = extBlocks x then
          let b := extBlock x x.head
          let s := submitJournal m [tmlRec 5 0xFF (x.take.getD 0) (leBytes 8 b)] b s
          .next (modMag m (fun x => { x with head := x.head + 1 }) s)
        else
          let s := submitJournal m ((x.recs.take 63).map Prod.snd) (x.jblk + 1) s
          .next (modMag m (fun x => { x with recs := x.recs.drop 63 }) s)
      else .next s
    | [] => if x.sbDue then .next (submitSuper m s) else .next s

/-- A command of MAG_CMD completes: RESULT, MAGCMDm. -/
def magDone (m res : Nat) (s : State) : State :=
  raise (657 + m) (setFld F.MAG_CMDSTAT_RESULT res (modMag m (fun x => { x with cmd := none }) s) m)

/-- What a finished superblock write ends (R646, R661, R662). -/
def superDone (m : Nat) (s : State) : State :=
  let x := magOf s m
  let closed (d : List MagTake) : List MagTake := d.map fun t => if some t.take = x.take then { t with closed := true } else t
  let s := if x.ended then modMag m (fun x => { x with
    take := none, ending := none, ended := false, dir := closed x.dir }) s else s
  match x.cmd with
  | some c =>
    match c.op with
    | 1 => magDone m 0 (setAtt m .ready s)
    | 2 => magDone m 0 s
    | 3 => if x.ended then magDone m 0 s else s
    | 4 => if x.ended then magDone m 0 (setAtt m .none s) else s
    | _ => modMag m (fun x => { x with cmd := none }) (setAtt m (if extFree x = 0 then .full else .ready) s)
  | none => s

/-- A journal or superblock write completes, late or not, or ends recording on the port (R653, R655, R658). -/
def execJournalWriteComplete (mag : Fin 16) (ok : Bool) (s : State) : Out :=
  let m := mag.val
  let x := magOf s m
  match x.wr.find? fun w => match w.what with | .journal _ => true | .super => true | _ => false with
  | none => .next s
  | some w =>
    let s := modMag m (fun x => { x with wr := x.wr.erase w }) s
    let s := if s.now > w.at_ + fld s F.MAG_CFG_MAXLAT m * 1000000 then magEvent F.MAG_CNT0_JLATE m s else s
    if !ok then
      let cmd := x.cmd.isSome
      let s := magFail m 8 (abandon m s)
      let s := report 0x10 0 m (208 + m) (tally (400 + m) s)
      .next (if cmd then magDone m 1 s else s)
    else
      match w.what with
      | .journal q =>
        let s := modMag m (fun x => { x with jckpt := w.lba, jseqc := q }) s
        let x := magOf s m
        .next (if x.force && x.recs.isEmpty && !journalBusy x then modMag m (fun x => { x with pfw := true }) s else s)
      | _ => .next (superDone m s)

/-! ### Data writes (R650, R653, R654) -/

/-- MiB written go to the Tally (R818). -/
def countWritten (m n : Nat) (s : State) : State :=
  let t := (magOf s m).written + n
  tallyAdd (384 + m) (t / 1048576) (modMag m (fun x => { x with written := t % 1048576 }) s)

/-- The data write at an index among those outstanding completes. -/
def execNvmeWriteComplete (mag : Fin 16) (index : Nat) (ok : Bool) (s : State) : Out :=
  let m := mag.val
  let isData (w : MagWrite) : Bool := match w.what with | .data .. => true | _ => false
  match ((magOf s m).wr.filter isData)[index]? with
  | none => .next s
  | some w =>
    match w.what with
    | .data id off _ =>
      let s := modMag m (fun x => { x with wr := x.wr.erase w }) s
      let s := if s.now > w.at_ + fld s F.MAG_CFG_MAXLAT m * 1000000 then magEvent F.MAG_CNT0_LATEW m s else s
      let s := modFrame m id (fun f => { f with outst := f.outst - 1 }) s
      if ok then
        let s := modFrame m id (fun f => { f with acks := f.acks ++ [(off, w.data.length)] }) s
        .next (magSettle m (countWritten m w.data.length s))
      else
        let s := report 0x10 0 m (208 + m) (magEvent F.MAG_CNT0_WERR m (tally (400 + m) s))
        match mFrame s m id with
        | some f => .next (dropFrame m id 2 (modMStream m f.stream (fun t => { t with left := 0 }) s))
        | none => .next s
    | _ => .next s

/-- The oldest frame of a stream whose bytes are not all acknowledged in time closes with CAUSE 1 (R652). -/
def execMagSlow (mag : Fin 16) (stream : Fin 16) (s : State) : Out :=
  let m := mag.val
  let late (f : MagFrame) : Bool :=
    f.stream == stream.val && !f.recorded &&
      (if f.coded then decide ((s.now - f.at_) * fld s F.RCK_FMT_NUM > fmtDen s * 1000000000)
       else rasterValid s && decide (totalNow s ≥ (f.frame + 2) * frameTicks s))
  match (magOf s m).frames.find? late with
  | some f => .next (raise (673 + m) (dropFrame m f.id 1 s))
  | none => .next s

/-! ### Commands (R646, R662) -/

/-- The directory or the open take holds a take. -/
def hasTake (x : Mag) (t : Nat) : Bool := x.take == some t || x.dir.any fun e => e.take == t

/-- Checks of OPEN in the order of R646; 0 when it is accepted. -/
def openCheck (s : State) (m take : Nat) : Nat :=
  let x := magOf s m
  let lat := 2000000 + 2 * fld s F.MAG_CFG_MAXLAT m * 1000000
  if x.att ≠ .ready || x.take.isSome then 1
  else if hasTake x take then 2
  else if lat * fld s F.RCK_FMT_NUM > fmtDen s * 1000000000 then 3
  else if flag s F.MAG_CFG_RDONLY m then 4
  else if !((List.range 16).any fun k => recording s m k 1 || recording s m k 2) then 5
  else 0

/-- OPEN accepted: TAKE and STREAM records, the superblock due, the streams' counts restart (R646). -/
def openTake (m take : Nat) (s : State) : State :=
  let ks := (List.range 16).filter fun k => recording s m k 1 || recording s m k 2
  let head := takeRec s take
  let strs := ks.map fun k => streamRec s m k take
  let x := magOf s m
  let s := forEach (head :: strs) (pushRec m) s
  let fresh (t : Tab MagStream) (k : Nat) : Tab MagStream := tabErase t k
  modMag m (fun y => { y with
    take := some take, ending := none, ended := false, sbDue := true, cmd := some ⟨2, take⟩
    streams := ks.foldl fresh y.streams, dir := y.dir ++ [⟨take, x.jblk, head, strs, false⟩] }) s

/-- CLOSE of the open take, for CLOSE and DETACH. -/
def closeTake (m op : Nat) (s : State) : State :=
  magSettle m (modMag m (fun x => { x with ending := some 0, cmd := some ⟨op, 0⟩ }) s)

/-- FORMAT accepted: a new identity from the SEC random source, a free value (R662; notes/assumptions/2.md). -/
def formatTake (m extsh : Nat) (s : State) : State :=
  let uid := (Config.freeWord 16 s.free).toNat
  takeFree (modMag m (fun x => { x with
    uid := uid, extsh := extsh, jfirst := 256, jblk := 256, jseq := 1, jckpt := 256, jseqc := 1, head := 1, dir := []
    sbDue := true, cmd := some ⟨1, 0⟩ }) s)

/-- What a commit of MAG_CMD performs. -/
def magCmdEffect (m : Nat) (v : List Nat) (s : State) : State :=
  let x := magOf s m
  let ro := flag s F.MAG_CFG_RDONLY m
  let take := valOf v F.MAG_CMD_TAKE_LO + valOf v F.MAG_CMD_TAKE_HI * 2 ^ 32
  match valOf v F.MAG_CMD_OP with
  | 1 =>
    if (x.att ≠ .blank && x.att ≠ .ready) || x.take.isSome then magDone m 1 s
    else if ro then magDone m 4 s
    else formatTake m (valOf v F.MAG_CMD_EXTSH) s
  | 2 => match openCheck s m take with | 0 => openTake m take s | c => magDone m c s
  | 3 => if x.take.isSome then closeTake m 3 s else magDone m 1 s
  | _ =>
    if x.take.isSome then closeTake m 4 s
    else if x.att = .none then magDone m 1 s
    else magDone m 0 (setAtt m .none (abandon m s))

/-- EXTSH is 9–14 for FORMAT and otherwise 0. -/
def magCmdOk (v : List Nat) : Bool :=
  let e := valOf v F.MAG_CMD_EXTSH
  if valOf v F.MAG_CMD_OP = 1 then decide (9 ≤ e) && decide (e ≤ 14) else e == 0

/-- A command is in progress. -/
def magCmdBusy (s : State) (m : Nat) (_ : List Nat) : Option Berr := busyIf (magOf s m).cmd.isSome

/-- FORMAT (R662). -/
def execMagFormat (req : Req) (mag : Fin 16) (extsh : BitVec 4) (s : State) : Out :=
  let m := mag.val
  .next (commitWords .MAG_CMD m 0 req [0, 0, 2 ^ 28 + extsh.toNat * 256] (magCmdBusy s m) magCmdOk (magCmdEffect m) s)

/-- OPEN (R646). -/
def execMagOpen (req : Req) (mag : Fin 16) (take : BitVec 48) (s : State) : Out :=
  let m := mag.val
  let t := take.toNat
  .next (commitWords .MAG_CMD m 0 req [t % 2 ^ 32, t / 2 ^ 32, 2 * 2 ^ 28] (magCmdBusy s m) magCmdOk (magCmdEffect m) s)

/-- CLOSE (R646). -/
def execMagClose (req : Req) (mag : Fin 16) (s : State) : Out :=
  let m := mag.val
  .next (regCommit .MAG_CMD m 0 ⟨req, .normal, BitVec.ofNat 32 (3 * 2 ^ 28)⟩ (magCmdBusy s m) magCmdOk (magCmdEffect m) s)

/-- DETACH (R646). -/
def execMagDetach (req : Req) (mag : Fin 16) (s : State) : Out :=
  let m := mag.val
  .next (regCommit .MAG_CMD m 0 ⟨req, .normal, BitVec.ofNat 32 (4 * 2 ^ 28)⟩ (magCmdBusy s m) magCmdOk (magCmdEffect m) s)

/-! ### Attach (R632, R637, R660, R661) -/

/-- The requirement a magazine fails, as FAILC (R637). -/
def identFail (i : MagIdent) : Option Nat :=
  if i.timeout then some 7
  else if i.cls ≠ 0x010802 then some 2
  else if !i.lbaOk then some 3
  else if !i.cacheOk then some 4
  else if i.mdts < 256 || i.queues < 2 then some 5
  else none

/-- A link trains; the port enumerates and sets up NVMe, then scans (R632, R637, R660). -/
def execPcieLinkUp (mag : Fin 16) (speed : Fin 5) (width : Fin 5) (ident : MagIdent) (s : State) : Out :=
  let m := mag.val
  let x := magOf s m
  if !flag s F.MAG_CFG_EN m || magMember s m || !magUp s m || !x.perst || x.att ≠ .none then .next s
  else
    let s := modMag m (fun x => { x with speed := speed.val, width := width.val, failc := 0, nblk := ident.nblk }) s
    let s := setAtt m .enum s
    match identFail ident with
    | some c => .next (magFail m c s)
    | none => .next (setAtt m .scan s)

/-- A little-endian field of bytes. -/
def leAt (b : List Nat) (o n : Nat) : Nat := leNat ((b.drop o).take n)

/-- A superblock's MAGIC and CRC hold (R640). -/
def superSound (b : List Nat) : Bool := leAt b 0 4 == 0x544D4C53 && leAt b 0xFC 4 == crc32c (b.take 0xFC)

/-- A superblock is valid (R640). -/
def superValid (b : List Nat) : Bool := superSound b && leAt b 4 2 == 1

/-- A journal block continues the journal (R642). -/
def journalValid (uid seq : Nat) (b : List Nat) : Bool :=
  leAt b 0 4 == 0x544D4A42 && leAt b 8 8 == seq && leAt b 0x10 8 == uid &&
    leAt b 0x3C 4 == crc32c (b.take 0x3C ++ [0, 0, 0, 0] ++ (b.drop 0x40).take 4032)

/-- The records of a journal block. -/
def blockRecs (b : List Nat) : List (List Nat) :=
  (List.range (min (b.getD 4 0) 63)).map fun i => (b.drop (0x40 + 64 * i)).take 64

/-- What a walk gathers: directory, whether the 4,096th take was passed, the open take, the head. -/
structure Walk where
  dir : List MagTake
  isOver : Bool
  isOpen : Option Nat
  head : Nat
  jext : Option Nat
  deriving DecidableEq, Repr

/-- One record of the walk (R660). -/
def walkRec (x : Mag) (blk : Nat) (w : Walk) (r : List Nat) : Walk :=
  let take := leAt r 2 6
  let ext := (leAt r 8 8 - 256) / extBlocks x + 1
  match r.getD 0 0 with
  | 1 =>
    if w.dir.length ≥ 4096 then { w with isOver := true, isOpen := some take }
    else { w with dir := w.dir ++ [⟨take, blk, r, [], false⟩], isOpen := some take }
  | 2 => { w with dir := w.dir.map fun t => if t.take = take then { t with streams := t.streams ++ [r] } else t }
  | 3 => { w with head := max w.head ext }
  | 5 => { w with head := max w.head ext, jext := some (leAt r 8 8) }
  | 6 =>
    let done (t : MagTake) : MagTake := if some t.take = w.isOpen then { t with closed := true } else t
    { w with dir := w.dir.map done, isOpen := none }
  | _ => w

/-- The walk of the journal (R642, R660): answers what it gathers and where it ends, with the next JSEQ. -/
def walkJournal (x : Mag) : List (List Nat) → Nat → Nat → Walk → Walk × Nat × Nat
  | [], blk, seq, w => (w, blk, seq)
  | b :: t, blk, seq, w =>
    if !journalValid x.uid seq b then (w, blk, seq)
    else
      let w := (blockRecs b).foldl (walkRec x blk) { w with jext := none }
      walkJournal x t (w.jext.getD (blk + 1)) (seq + 1) w

/-- Recovery of an open take (R661): one block at the walk's end with RECOVER, CLOSE and JEXT, then the superblock. -/
def recover (m take seq : Nat) (s : State) : State :=
  let x := magOf s m
  let b := extBlock x x.head
  let close := tmlRec 6 0xFF take (leBytes 5 0 ++ [3])
  let s := submitJournal m [tmlRec 8 0xFF take (leBytes 8 Config.uid.toNat ++ leBytes 8 (seq - 1)), close,
    tmlRec 5 0xFF take (leBytes 8 b)] b s
  modMag m (fun x => { x with
    head := x.head + 1, sbDue := true, cmd := some ⟨5, 0⟩
    dir := x.dir.map fun t => if t.take = take then { t with closed := true } else t }) s

/-- SCAN: superblocks, then the journal from JCKPT (R640, R642, R660, R661). -/
def execMagazineScan (mag : Fin 16) (sbA : List Byte) (sbB : List Byte) (journal : List (List Byte)) (s : State) : Out :=
  let m := mag.val
  let a := sbA.map BitVec.toNat
  let b := sbB.map BitVec.toNat
  let x := magOf s m
  if x.att ≠ .scan || x.cmd.isSome then .next s
  else if !superValid a && !superValid b then
    if superSound a || superSound b then .next (magFail m 6 s) else .next (setAtt m .blank s)
  else
    let useB := superValid b && (!superValid a || decide (leAt b 8 8 > leAt a 8 8))
    let c := if useB then b else a
    let x := { x with
      sbGen := leAt c 8 8, sbB := useB, uid := leAt c 0x10 8, extsh := c.getD 6 0, jfirst := leAt c 0x20 8
      jckpt := leAt c 0x28 8, jseqc := leAt c 0x30 8 }
    let (w, blk, seq) := walkJournal x (journal.map (·.map BitVec.toNat)) x.jckpt x.jseqc ⟨[], false, none, 0, none⟩
    let s := modMag m (fun _ => { x with
      dir := w.dir, head := max w.head (leAt c 0x38 8), jblk := blk, jseq := seq, jckpt := blk - 1, jseqc := seq - 1 }) s
    if w.isOver then .next (magFail m 9 s)
    else
      match w.isOpen with
      | some t => if flag s F.MAG_CFG_RDONLY m then .next (setAtt m .ready s) else .next (recover m t seq s)
      | none => .next (setAtt m (if extFree (magOf s m) = 0 then .full else .ready) s)

/-- A port's link is lost (R657): with a take open recording ends and MAGLOST is reported; MGPERST_N falls, to rise later
when `again` (R847). -/
def magDrop (m : Nat) (again : Bool) (s : State) : State :=
  let x := magOf s m
  let at_ := if again then some s.now else none
  if x.att = .none then modMag m (fun x => { x with perst := false, perstAt := at_ }) s
  else
    let s := modMag m (fun x => { x with speed := 0, width := 0, perst := false, perstAt := at_ }) (abandon m s)
    let s := setAtt m .none s
    let s := if x.take.isSome then report 0x11 0 m (208 + m) s else s
    if x.cmd.isSome then magDone m 1 s else s

/-- A link loss (R657, R847). -/
def execMagLost (mag : Fin 16) (s : State) : Out :=
  if (magOf s mag.val).att = .none then .next s else .next (magDrop mag.val true s)

/-- A commit of MAG_CFG: a port that is enabled waits 100 ms for MGPERST_N, a port that is disabled loses its link (R847). -/
def magCfgEffect (m : Nat) (old s : State) : State :=
  if flag s F.MAG_CFG_EN m && !flag old F.MAG_CFG_EN m then modMag m (fun x => { x with perstAt := some s.now }) s
  else if !flag s F.MAG_CFG_EN m && flag old F.MAG_CFG_EN m then magDrop m false s
  else s

/-- A member's MAG_CFG, and a change of X4 while a port of the quad is enabled, are refused (R631). -/
def magCfgBusy (m : Nat) (s : State) (v : List Nat) : Option Berr :=
  let j := m / 2
  busyIf (magMember s m ||
    (valOf v F.MAG_CFG_X4 != fld s F.MAG_CFG_X4 m && (flag s F.MAG_CFG_EN (2 * j) || flag s F.MAG_CFG_EN (2 * j + 1))))

/-- X4 is reserved in odd frames (MAG_CFG); a disabled port's fields are not judged (R853). -/
def magCfgOk (m : Nat) (v : List Nat) : Bool := valOf v F.MAG_CFG_EN == 0 || m % 2 == 0 || valOf v F.MAG_CFG_X4 == 0

/-- A raw or coded stream with a take open, and a read stream that stays enabled, are not changed (MAG_SCFG). -/
def magScfgBusy (m i : Nat) (s : State) (v : List Nat) : Option Berr :=
  let old := (List.range 3).map fun w => rword s .MAG_SCFG m i w
  let kind := fld s F.MAG_SCFG_KIND m i
  let rec_ (k : Nat) : Bool := k == 1 || k == 2
  busyIf (v != old &&
    (((rec_ kind || rec_ (valOf v F.MAG_SCFG_KIND)) && (magOf s m).take.isSome) ||
      (kind == 3 && flag s F.MAG_SCFG_EN m i && valOf v F.MAG_SCFG_EN == 1)))

/-- MGPERST_N rises 100 ms after EN became 1 or after a link loss (R847). -/
def execMgperstRelease (mag : Fin 16) (s : State) : Out :=
  let m := mag.val
  match (magOf s m).perstAt with
  | some t =>
    if flag s F.MAG_CFG_EN m && decide (s.now ≥ t + 100000000) then
      .next (modMag m (fun x => { x with perst := true, perstAt := none }) s)
    else .next s
  | none => .next s

/-! ### Power failure (R658) -/

/-- Intake stops on every port with a take open (R658, t = 0). -/
def magPowerFail (s : State) : State :=
  forEach ((List.range 16).filter fun m => (magOf s m).take.isSome) (fun m s =>
    modMag m (fun x => { x with stop := true }) s) s

/-- The bytes of a frame acknowledged without a gap from its start; `n` bounds the ranges joined. -/
def ackPrefix (l : List (Nat × Nat)) : Nat → Nat → Nat
  | 0, p => p
  | n + 1, p =>
    match l.find? fun r => decide (r.1 ≤ p) && decide (p < r.1 + r.2) with
    | some r => ackPrefix l n (r.1 + r.2)
    | none => p

/-- A frame that remains open at 1.5 ms: CAUSE 4 and its longest wholly acknowledged prefix (R658). -/
def pfwFrame (f : MagFrame) : MagFrame :=
  let p := min (ackPrefix f.acks (f.acks.length + 1) 0) f.len
  let ends := f.ends.filter fun e => decide (e ≤ p)
  let len := if f.coded then p else ends.getLast?.getD 0
  { f with cause := 4, closed := true, ends := ends, len := len, buf := [], outst := 0 }

/-- The step at 1.5 ms on a port (R658). -/
def magPfwClose (m : Nat) (s : State) : State :=
  let x := magOf s m
  if !x.stop || x.take.isNone || x.force then s
  else
    let frames := (x.frames.filter fun f => !f.recorded).map pfwFrame
    let open_ := (x.wr.filter fun w => match w.what with | .data .. => true | _ => false).length
    let s := modMag m (fun x => { x with frames := [], pics := [], lost := open_ }) s
    let s := forEach frames (fun f s => pushRec m (frameRec (x.take.getD 0) f) s) s
    let s := pushRec m (closeRec x 1) s
    let s := pushRec m (tmlRec 7 0xFF (x.take.getD 0) (leBytes 4 open_ ++ leBytes 2 frames.length)) s
    modMag m (fun x => { x with force := true, ended := true }) s

/-! ### Reading back (R663-R665) -/

/-- A read stream of a port in service. -/
def readable (s : State) (m k : Nat) : Bool :=
  recording s m k 3 && (decide ((magOf s m).att = .ready) || decide ((magOf s m).att = .full))

/-- A read of `n` bytes of a read aperture: the bytes, a wait, or a refusal beyond NBLK (R663). -/
def apertureRead (m k n : Nat) (s : State) : Except (Option Berr) Nat × State :=
  let t := mStream s m k
  if !readable s m k then (.error (some .unmapped), s)
  else if t.rbuf.length ≥ n then
    (.ok (leNat (t.rbuf.take n)), modMStream m k (fun t => { t with rbuf := t.rbuf.drop n }) s)
  else if t.rnext ≥ (magOf s m).nblk then (.error (some .unmapped), s)
  else (.error none, s)

/-- A read of a read stream's aperture; one that waits changes nothing yet (R663). -/
def execReadApertureRead (req : Req) (mag : Fin 16) (stream : Fin 16) (bits : Nat) (s : State) : Out :=
  let addr := apertureAddr mag.val stream.val
  if !baseUp s then .next s
  else if !magUp s mag.val then .next (busError req.val addr false .domoff s)
  else if bits ≠ 8 && bits ≠ 16 && bits ≠ 32 && bits ≠ 64 then .next (busError req.val addr false .size s)
  else
    match apertureRead mag.val stream.val (bits / 8) s with
    | (.ok v, s) => .next (answer req.val v s)
    | (.error (some c), s) => .next (busError req.val addr false c s)
    | (.error none, s) => .next s

/-- The input of a slot that reads a magazine. -/
def magInOf (s : State) (n i : Nat) : Option MagIn := tabFind s.magIn (16 * n + i)

/-- An NVMe read completes (R663, R664): a block of a read stream in order, or a picture for a coded input, whose CAUSE 1
and 2 are skipped. -/
def execNvmeReadComplete (mag : Fin 16) (brings : MagRead) (s : State) : Out :=
  let m := mag.val
  match brings with
  | .block k data =>
    let t := mStream s m k.val
    if !readable s m k.val || decide (t.rnext ≥ (magOf s m).nblk) then .next s
    else
      .next (modMStream m k.val (fun t => { t with
        rbuf := t.rbuf ++ data.map BitVec.toNat, rnext := t.rnext + 1, frames := (t.frames + 1) % 2 ^ 32 }) s)
  | .picture n i f cause note units =>
    match magInOf s n.val i.val with
    | some x =>
      if x.mag ≠ m || cause.val = 1 || cause.val = 2 then .next s
      else
        let p := (f.toNat, cause.val, leBytes 16 note.toNat, units.map (·.map BitVec.toNat))
        .next { s with magIn := tabInsert (tabErase s.magIn (16 * n.val + i.val)) (16 * n.val + i.val)
                        { x with pics := x.pics ++ [p] } }
    | none => .next s

/-- The timestamp of a recorded frame from its TAKE record (R665, R107). -/
def takeTs (h : List Nat) (f : Nat) : Nat :=
  let num := leAt h 0x10 4
  let den := leAt h 0x14 2
  let sec := leAt h 0x18 8
  let ns := leAt h 0x20 4
  if num = 0 then 0
  else ((sec * 1000000000 + ns) * num + (f - leAt h 8 5) * den * 1000000000) * 90000 / (num * 1000000000) % 2 ^ 32

/-- The arrivals of a picture's units: numbers counted from the stream's first unit, the marker on the last (R665). -/
def magUnits (n i no ts fr line : Nat) (note : Option (List Nat)) : List (List Nat) → List Arrival
  | [] => []
  | u :: t =>
    ⟨n, i, no % 65536, no % 65536, ts, t.isEmpty, fr, line, note, u⟩ :: magUnits n i (no + 1) ts fr line none t

/-- At line 0 of raster frame f + D the picture of frame f goes to its input (R664, R665). -/
def execMagazineInputDeliver (slot : Fin 256) (input : Fin 16) (s : State) : Out :=
  let n := slot.val
  let i := input.val
  match magInOf s n i with
  | some x =>
    match x.pics with
    | (f, _, note, units) :: rest =>
      let c := frameNow s
      let d := x.d.getD ((c : Int) - f)
      if !rasterValid s || decide (lineNow s ≠ 0) || decide ((f : Int) + d ≠ c) || (patOf s n).st ≠ .running then .next s
      else
        let take := dIn (patOf s n).desc i 0xA 6
        let h := (((magOf s x.mag).dir.find? fun t => t.take == take).map MagTake.head).getD []
        let line := c * fld s F.RCK_FMT_LINES + lineNow s
        let us := magUnits n i x.no (takeTs h f) c line (some note) units
        let y := { x with d := some d, no := x.no + units.length, pics := rest }
        .next { s with magIn := tabInsert (tabErase s.magIn (16 * n + i)) (16 * n + i) y, arrivals := s.arrivals ++ us }
    | [] => .next s
  | none => .next s

/-! ### Requests of the magazine (R634) -/

/-- An address lies in a Stall buffer that holds a coded picture now being written. -/
def inPicture (s : State) (m a : Nat) : Bool :=
  let tickets := (magOf s m).frames.filterMap (fun f => f.ticket)
  tickets.any fun h =>
    let p := bitsOf h 26 6
    let b := bufAddr s p (bitsOf h 8 18)
    decide (b ≤ a) && decide (a < b + 2 ^ poolLog s p)

/-- A request of the magazine is served, or answered with Unsupported Request and counted (R634). -/
def execInboundRequest (mag : Fin 16) (target : MagTarget) (s : State) : Out :=
  let m := mag.val
  let ok := match target with | .queue => true | .landing => true | .address a => inPicture s m a.toNat
  if (magOf s m).att = .none || ok then .next s else .next (magEvent F.MAG_CNT1_INBAD m s)

end Sys2Proof.Machine
end

