-- ==== Sys2Proof/Machine/Modes.lean ====
section
/-! DEFINITION. Conditions of the operating modes that several blocks test (spec/20 R784, R785). -/

namespace Sys2Proof.Machine

/-- An FCL source of severity DEGRADE or HALT is latched. -/
def severeLatched (s : State) : Bool := (List.range 31).any fun i => fclLatched s i && decide (2 ≤ fclSev s i)

/-- The first three conditions of the RESUME test: the CAUSE of the first that is unmet (R785). -/
def unmet (s : State) : Option Nat :=
  if anyBayHeld s then some 5 else if s.pwr.iso ≠ 0 then some 9 else if severeLatched s then some 6 else none

/-- Entry to STANDBY from CAST-ON, SERVICE or UPDATE, or to DEGRADED while something is unmet (R785). -/
def toStandby (cause : Nat) (s : State) : State :=
  match unmet s with
  | some c => setMode .degraded c s
  | none => setMode .standby cause s

end Sys2Proof.Machine
end

