-- ==== Sys2Proof/Machine/Figures.lean ====
section
/-! DEFINITION. What follows from a descriptor: rows and stripes, cycles, floors, the quantiser table and the seeds
(spec/07 to spec/09: R33, R324, R336, R337, R353, R392, R403, R427). -/

namespace Sys2Proof.Machine

/-! ### Fields -/

/-- A field of the Gauge block of output k. -/
def dGau (d : List Nat) (k off n : Nat) : Nat := dOut d k (0x20 + off) n

/-- FRATE.NUM. -/
def dNum (d : List Nat) : Nat := dLe d 0x064 4 / 2 ^ 14

/-- The denominator of FRATE. -/
def dDen (d : List Nat) : Nat := if bitAt (dLe d 0x064 4) 13 then 1001 else 1000

/-- A signed byte. -/
def sByte (v : Nat) : Int := if v % 256 ≥ 128 then (v % 256 : Nat) - 256 else (v % 256 : Nat)

/-- A signed number as a byte. -/
def byteOf (q : Int) : Nat := (q % 256).toNat

/-- An HEVC or MV-HEVC output: one that the Gauge budgets. -/
def isHevc (d : List Nat) (k : Nat) : Bool := dOut d k 0 1 == 1 || dOut d k 0 1 == 2

/-- A derived output. -/
def isDerived (d : List Nat) (k : Nat) : Bool := dOut d k 0x05 1 == 1

/-- Views of an output. -/
def dViews (d : List Nat) (k : Nat) : Nat := max 1 (dOut d k 0x12 1)

/-- Coded size. -/
def dWidth (d : List Nat) (k : Nat) : Nat := dOut d k 0x08 2

/-- Coded height. -/
def dHeight (d : List Nat) (k : Nat) : Nat := dOut d k 0x0A 2

/-- The scale divisor. -/
def dScale (d : List Nat) (k : Nat) : Nat := 2 ^ min 2 (dOut d k 0x06 1)

/-- GOPMODE. -/
def dGop (d : List Nat) (k : Nat) : Nat := dOut d k 0x0D 1

/-- PERIOD. -/
def dPeriod (d : List Nat) (k : Nat) : Nat := dOut d k 0x0E 2

/-- LATENCY = 1. -/
def lowLatency (d : List Nat) (k : Nat) : Bool := dOut d k 0x11 1 == 1

/-- A coded input (R439). -/
def codedIn (d : List Nat) (i : Nat) : Bool := dIn d i 3 1 == 0x10 || dIn d i 3 1 == 0x11

/-- The pattern is a part of a placed stage pattern. -/
def dStage (d : List Nat) : Nat := dLe d 0x068 2

/-- Ceiling division. -/
def ceilDiv (a b : Nat) : Nat := (a + b - 1) / b

/-! ### Rows and stripes (R336, R337, R388) -/

/-- Picture lines of a row: the CTB size, or 16 for a JPEG XS slice; the model takes 16 for raw too (notes/assumptions/20.md). -/
def dRowH (d : List Nat) (k : Nat) : Nat := if isHevc d k then 2 ^ min 6 (dOut d k 0x10 1) else 16

/-- Rows of a picture. -/
def dRows (d : List Nat) (k : Nat) : Nat := ceilDiv (dHeight d k) (dRowH d k)

/-- CTB columns. -/
def dCols (d : List Nat) (k : Nat) : Nat := ceilDiv (dWidth d k) (dRowH d k)

/-- Stripes of an output's rows: NSTRIPE for HEVC; a JPEG XS slice or raw row is one. -/
def dStripes (d : List Nat) (k : Nat) : Nat := if isHevc d k then max 1 (dLe d 0x195 1) else 1

/-- CTB columns of stripe i: first and past the last (R337). -/
def stripeCols (d : List Nat) (k i : Nat) : Nat × Nat :=
  (i * dCols d k / dStripes d k, (i + 1) * dCols d k / dStripes d k)

/-- Luma samples across stripe i. -/
def stripeWidth (d : List Nat) (k i : Nat) : Nat :=
  min (dWidth d k) ((stripeCols d k i).2 * dRowH d k) - (stripeCols d k i).1 * dRowH d k

/-- The widest stripe. -/
def widestStripe (d : List Nat) (k : Nat) : Nat :=
  (List.range (dStripes d k)).foldl (fun m i => max m (stripeWidth d k i)) 0

/-- Luma samples of stripe i of row r. -/
def stripePixels (d : List Nat) (k r i : Nat) : Nat :=
  stripeWidth d k i * (min ((r + 1) * dRowH d k) (dHeight d k) - r * dRowH d k)

/-- Input lines that a row spans (R415). -/
def rowLines (d : List Nat) (k : Nat) : Nat := dRowH d k * dScale d k

/-- The input that view v of an output codes: the one that names the view, else the first. -/
def viewInput (d : List Nat) (k v : Nat) : Nat :=
  if dOut d k 0 1 = 2 then ((List.range (dNin d)).find? fun i => dIn d i 9 1 == v).getD 0 else 0

/-- The stripe of a needle: floor(rank × NSTRIPE / needles) (R321; notes/assumptions/15.md). -/
def rankStripe (d : List Nat) (rank count : Nat) : Nat := rank * max 1 (dLe d 0x195 1) / max 1 count

/-! ### Cycles (R33, R324) -/

/-- Cycles per pixel × 10 of an output's work by R33. -/
def workRate (d : List Nat) (k : Nat) : Nat :=
  if isHevc d k then (if dGop d k = 0 then 32 else 128) else if dOut d k 0 1 = 3 then 24 else 0

/-- Cycles per pixel × 10 by R324. -/
def admitRate (d : List Nat) (k : Nat) : Nat :=
  if isHevc d k && isDerived d k && dGop d k ≠ 0 then 48 else workRate d k

/-- The PREP export of an output; none when the export table does not list it. -/
def prepOf (s : State) (d : List Nat) (k : Nat) : Option Nat :=
  if dOut d k 0x14 2 = 0xFFFF then some 0
  else (libOf s (dLe d 0x00C 2)).bind fun e =>
    Config.exportPrep e.exports (dOut d k 0x14 2) [dWidth d k, dHeight d k, dNum d, dDen d]

/-- The device's own needle figure in M cycles per second, rounded up (R324). -/
def needleFigure (s : State) (d : List Nat) : Nat :=
  let outs := (List.range (dNout d)).foldl (fun n k => n + dWidth d k * dHeight d k * dViews d k * admitRate d k) 0
  let ins := (List.range (dNin d)).foldl (fun n i =>
    n + (if codedIn d i then dIn d i 4 2 * dIn d i 6 2 * (if dIn d i 3 1 = 0x11 then 24 else 96) else 0)) 0
  let prep := (List.range (dNout d)).foldl (fun n k => n + (prepOf s d k).getD 0) 0
  ceilDiv ((outs + ins) * dNum d + prep * 10000000 * dDen d) (10000000 * dDen d)

/-- Coded streams of a pattern (R309). -/
def streamsOf (d : List Nat) : Nat :=
  ((List.range (dNout d)).filter fun k => dOut d k 0 1 != 4).length + ((List.range (dNin d)).filter (codedIn d)).length

/-! ### Floors (R392) -/

/-- The floor costs of an output. -/
structure Floors where
  fI : Nat
  fP : Nat
  h : Nat
  piI : Nat
  piP : Nat

/-- The floor costs that the export table of the library revision gives. -/
def floorsOf (s : State) (d : List Nat) (k : Nat) : Floors :=
  let x := ((libOf s (dLe d 0x00C 2)).map LibEntry.exports).getD []
  let p := [2 ^ dOut d k 0x10 1, dOut d k 0x0C 1, dOut d k 0x07 1]
  ⟨Config.exportFigure 0 x p, Config.exportFigure 1 x p, Config.exportFigure 2 x p, Config.exportFigure 3 x p,
    Config.exportFigure 4 x p⟩

/-- Columns of picture k of a sweep of p: the refresh band (R375). -/
def bandCols (d : List Nat) (k j p : Nat) : Nat × Nat := (j * dCols d k / max 1 p, (j + 1) * dCols d k / max 1 p)

/-- Columns common to two ranges. -/
def commonCols (a b : Nat × Nat) : Nat := min a.2 b.2 - max a.1 b.1

/-- The floor of stripe i of a row in a picture of a plan: intra CTBs in intra pictures and in the band (R392, R406). -/
def stripeFloor (x : Floors) (d : List Nat) (k i : Nat) (pl : PicPlan) : Nat :=
  let c := stripeCols d k i
  let n := c.2 - c.1
  let m := if pl.ptype = 0 then n else if pl.ptype = 2 then commonCols c (bandCols d k pl.k pl.p) else 0
  x.h + m * x.fI + (n - m) * x.fP

/-- The floor of a row. -/
def rowFloorBits (x : Floors) (d : List Nat) (k : Nat) (pl : PicPlan) : Nat :=
  (List.range (dStripes d k)).foldl (fun n i => n + stripeFloor x d k i pl) 0

/-- π of a picture. -/
def floorPi (x : Floors) (pl : PicPlan) : Nat := if pl.ptype = 0 then x.piI else x.piP

/-- The floor of a picture of all its views. -/
def picFloor (x : Floors) (d : List Nat) (k : Nat) (pl : PicPlan) : Nat :=
  floorPi x pl + dViews d k * dRows d k * rowFloorBits x d k pl

/-- The plan of an IDR picture. -/
def idrPlan : PicPlan := ⟨0, true, 0, 0, 1⟩

/-! ### Quantisers (R403) -/

/-- Q(q) = 2^((q − 4) / 6) with 16 fraction bits, rounded to nearest, for q from −48 to 51. -/
def qTable : List Nat :=
  [161, 181, 203, 228, 256, 287, 323, 362, 406, 456, 512, 575, 645, 724, 813, 912, 1024, 1149, 1290, 1448, 1625, 1825,
    2048, 2299, 2580, 2896, 3251, 3649, 4096, 4598, 5161, 5793, 6502, 7298, 8192, 9195, 10321, 11585, 13004, 14596] ++
  [16384, 18390, 20643, 23170, 26008, 29193, 32768, 36781, 41285, 46341, 52016, 58386, 65536, 73562, 82570, 92682,
    104032, 116772, 131072, 147123, 165140, 185364, 208064, 233544, 262144, 294247, 330281, 370728, 416128, 467088] ++
  [524288, 588493, 660561, 741455, 832255, 934175, 1048576, 1176987, 1321123, 1482910, 1664511, 1868350, 2097152,
    2353974, 2642246, 2965821, 3329021, 3736700, 4194304, 4707947, 5284492, 5931642, 6658043, 7473400, 8388608,
    9415894, 10568984, 11863283, 13316085, 14946800]

/-- Q of a quantiser. -/
def qOf (q : Int) : Nat := qTable.getD ((q + 48).toNat) 1

/-! ### Seeds (R427, R811) -/

/-- What a seed is matched by: SEEDKEY, PROFILE, CHROMA, DEPTH, CTB, WIDTH, HEIGHT and GOPMODE as a SEED record holds
them. -/
def seedKeyOf (d : List Nat) (k : Nat) : List Nat :=
  leBytes 4 (dGau d k 0x1C 4) ++ [dOut d k 1 1, dOut d k 0x0C 1, dOut d k 0x07 1, dOut d k 0x10 1] ++
    leBytes 2 (dWidth d k) ++ leBytes 2 (dHeight d k) ++ [dGop d k]

/-- The seeds of an output: row-0 quantisers, θI, θP, complexity per pixel, and their source (R427). -/
def seedOf (s : State) (d : List Nat) (k : Nat) : Int × Int × Nat × Nat × Nat × Nat :=
  let r :=
    if dGau d k 0x1C 4 ≠ 0 && flag s F.GAU_CTRL_SEEDRD then
      newestRec s fun r => r.type == 5 && seedMatch r == seedKeyOf d k
    else none
  match r with
  | some (_, r) =>
    (sByte (dLe r.payload 13 1), sByte (dLe r.payload 14 1), dLe r.payload 15 4, dLe r.payload 19 4, dLe r.payload 23 4, 1)
  | none =>
    let x := ((libOf s (dLe d 0x00C 2)).map LibEntry.seeds).getD []
    let f (i : Nat) : Int := Config.factorySeed i x [dOut d k 0x0C 1, dOut d k 0x07 1, dOut d k 0x10 1, dGop d k]
    (f 0, f 1, (f 2).toNat % 2 ^ 32, (f 3).toNat % 2 ^ 32, (f 4).toNat % 2 ^ 32, 2)

/-! ### Reference windows and row times (R353, R366, R415) -/

/-- Samples per luma sample × 2 of a chroma format. -/
def chroma2 (c : Nat) : Nat := match c with | 0 => 2 | 1 => 3 | 2 => 4 | 3 => 6 | _ => 2

/-- The luma columns that the stripes of a skein's needles span (R353). -/
def skeinSpan (d : List Nat) (k sk : Nat) : Nat × Nat :=
  let ns := dNeedles d
  let mine := (List.range ns.length).filter fun r => ns.getD r 0 / 8 == sk
  let st := mine.map fun r => stripeCols d k (rankStripe d r ns.length)
  let lo := st.foldl (fun m c => min m c.1) (dCols d k)
  let hi := st.foldl (fun m c => max m c.2) 0
  (lo * dRowH d k, min (dWidth d k) (hi * dRowH d k))

/-- Words of a skein's search windows at 72-bit packing, six samples a word: the full-scale samples and the luma copies
(R352, R353). -/
def windowWords (d : List Nat) (k sk : Nat) : Nat :=
  let (lo, hi) := skeinSpan d k sk
  let w := min (dWidth d k) (hi + 264) - (lo - 264)
  let l := min (dHeight d k) (2 * dRowH d k + 272)
  ceilDiv (w * l * chroma2 (dOut d k 0x0C 1)) 12 + ceilDiv (w / 2 * (l / 2)) 6 + ceilDiv (w / 4 * (l / 4)) 6

/-- The row time of R366 exceeds a number of line periods of the selected format: C × Wmax × c / 1.2 GHz. -/
def rowTimeOver (s : State) (d : List Nat) (k factor lines : Nat) : Bool :=
  decide (factor * (dRowH d k * widestStripe d k * workRate d k) * (fld s F.RCK_FMT_NUM * fld s F.RCK_FMT_LINES) >
    lines * fmtDen s * 12000000000)

/-- Pool entries of each view of an output (R378). -/
def dEntries (d : List Nat) (k : Nat) : Nat :=
  if !isHevc d k then 0 else match dGop d k with | 1 => 6 | 2 => 5 | _ => 0

/-- Bytes of a picture in 72-bit packing. -/
def picBytes (w h chroma depth : Nat) : Nat := ceilDiv (w * h * chroma2 chroma) (if depth ≤ 12 then 12 else 8) * 9

end Sys2Proof.Machine
end

