-- ==== Sys2Proof/Machine/Nano.lean ====
section
/-! DEFINITION. Nano-words and horizontal words: the datapath fields, memory and line-slot operations, the units, and
sequencing (R258-R276). -/

namespace Sys2Proof.Machine

/-! ### Fields of a word (R258) -/

/-- The datapath of one word: its value, the micro-word windows in force, and what a fault of it names. -/
structure NWord where
  w : Nat
  vw : Nat
  aw : Nat
  idx : Nat
  bank : Nat

/-- Vector slot `i`. -/
def NWord.vslot (q : NWord) (i : Nat) : VSlot :=
  let b := bitsOf q.w (if i = 0 then 54 else 30) 24
  ⟨bitsOf b 18 6, bitsOf b 13 5, bitsOf b 8 5, bitsOf b 3 5, bitsOf b 0 3⟩

/-- The memory operation, its sub-operation, and its registers with the windows applied (R262). -/
def NWord.mop (q : NWord) : Nat := bitsOf q.w 26 3

/-- MINC. -/
def NWord.minc (q : NWord) : Nat := bitsOf q.w 14 3

/-- The V register of the memory operation. -/
def NWord.mreg (q : NWord) : Nat := (bitsOf q.w 21 5 + q.vw) % 32

/-- The A register of the memory operation. -/
def NWord.areg (q : NWord) : Nat := (bitsOf q.w 17 4 + q.aw) % 16

/-- The unit and its command. -/
def NWord.unit (q : NWord) : Nat := bitsOf q.w 12 2

/-- The unit command's code. -/
def NWord.uop (q : NWord) : Nat := bitsOf q.w 6 6

/-- The V register of the unit command. -/
def NWord.ureg (q : NWord) : Nat := (bitsOf q.w 1 5 + q.vw) % 32

/-- A word's fault. -/
def NWord.fault (q : NWord) (code addr : Nat) : NdlFault := ⟨code, q.idx, q.bank, 0, addr⟩

/-- Reserved memory and unit fields (R266-R269, R272). -/
def NWord.opsOk (q : NWord) : Bool :=
  let m := match q.mop with
    | 0 => true
    | 6 => decide (q.minc ≤ 5)
    | 7 => decide (q.minc < 4)
    | _ => decide (q.minc ≠ 7)
  let u := match q.unit with
    | 0 => q.uop == 0
    | 1 => decide (q.uop ≤ 4)
    | 2 => decide (q.uop ≤ 5)
    | _ => decide (q.uop ≤ 8)
  m && u

/-- The datapath fields hold no reserved value (R272). -/
def NWord.ok (q : NWord) : Bool := vopOk (q.vslot 0) && vopOk (q.vslot 1) && q.opsOk

/-! ### Results -/

/-- A part of a word: the results it issues or the fault it raises, and the state it leaves. -/
abbrev NdlRes := Except NdlFault (List (Nat × NdlDst × Nat)) × State

/-- Both parts of a word: the lower fault code stands (R289). -/
def NdlRes.both (x : NdlRes) (f : State → NdlRes) : NdlRes :=
  match x with
  | (.ok l, s) =>
    (match f s with
     | (.ok m, t) => (.ok (l ++ m), t)
     | r => r)
  | (.error e, s) =>
    (match f s with
     | (.error g, _) => (.error (if g.code < e.code then g else e), s)
     | _ => (.error e, s))

/-! ### Stalls (R212, R217) -/

/-- The condition codes of NCOND (R260). -/
def ncond (x : Ndl) (c : Nat) : Bool :=
  let v := match c % 8 with
    | 4 => txuReady x
    | 5 => meuReady x
    | 6 => x.xfers.isEmpty
    | 7 => slotReady x
    | k => bitAt x.d k
  v != bitAt c 3

/-- The word waits: no full slot, a ninth transfer, or an empty output queue (R267-R269). -/
def NWord.stalls (q : NWord) (x : Ndl) : Bool :=
  let mem := match q.mop with
    | 6 => q.minc == 0 && !slotReady x
    | 7 => decide (x.xfers.length ≥ 8) && rdV x q.mreg / 2 ^ 48 % 2 ^ 16 != 0
    | _ => false
  let unit := match q.unit, q.uop with
    | 1, 3 => !txuReady x
    | 2, 5 => !meuReady x
    | 3, 6 => x.enu.bytes.isEmpty || decide (x.enu.at_ > x.cyc)
    | 3, 7 => x.enu.symbols.isEmpty || decide (x.enu.at_ > x.cyc)
    | _, _ => false
  mem || unit

/-! ### Memory operations (R266-R268) -/

/-- The post-increment of a memory operation (R266). -/
def NWord.postInc (q : NWord) (x : Ndl) : List (Nat × NdlDst × Nat) :=
  let a := rdA x q.areg
  let d := match q.minc with
    | 1 => 1 | 2 => 2 | 3 => 4 | 4 => 2 ^ 48 - 1 | 5 => 2 ^ 48 - 2 | 6 => rdA x 14 | _ => 0
  if q.minc = 0 then [] else [(1, .a q.areg, (a + d) % 2 ^ 48)]

/-- Read a local-store word for the datapath (R186, R192). -/
def NWord.lsGet (q : NWord) (n a : Nat) (s : State) : Except NdlFault Nat × State :=
  if a ≥ 2 ^ 15 then (.error (q.fault 0x10 a), s)
  else
    match lsRead n a s with
    | (some v, s) => (.ok v.toNat, s)
    | (none, s) => (.error (q.fault 0x12 a), s)

/-- Skein memory accesses of a needle (R203, R266). -/
def NWord.skGet (q : NWord) (n a : Nat) (s : State) : Except NdlFault Nat × State :=
  if a ≥ 2 ^ 19 then (.error (q.fault 0x11 a), s)
  else
    match skmRead (n / 8) a s with
    | (.ok v, s) => (.ok v.toNat, s)
    | (_, s) => (.error (q.fault 0x14 a), s)

/-- A SLOT operation (R268). -/
def NWord.slotOp (q : NWord) (n : Nat) (x : Ndl) (s : State) : NdlRes :=
  match q.minc with
  | 0 =>
    (match x.ring.find? fun l => !l.held with
     | none => (.ok [], s)
     | some l =>
       let hold (u : LineSlot) : LineSlot := if u.seq = l.seq then { u with held := true } else u
       (.ok [(1, .a q.areg, (Config.slotWord l.idx).toNat), (1, .d 15, (x.d * 4 + l.flags) % 16)],
         modNdl n (fun x => { x with ring := x.ring.map hold }) s))
  | 1 =>
    (match x.ring.find? fun l => l.held with
     | none => (.error (q.fault 0x16 0), s)
     | some l => (.ok [], modNdl n (fun x => { x with ring := x.ring.filter fun u => decide (u.seq ≠ l.seq) }) s))
  | op =>
    (match needlePortOp n op s with
     | some t => (.ok [], t)
     | none => (.error (q.fault 0x16 0), s))

/-- Issue a transfer (R267). -/
def NWord.xferOp (q : NWord) (n : Nat) (x : Ndl) (s : State) : NdlRes :=
  let v := rdV x q.mreg
  let a := rdA x q.areg
  let k := v / 2 ^ 48 % 2 ^ 16
  if a ≥ 2 ^ 15 then (.error (q.fault 0x10 a), s)
  else if k = 0 then (.ok [], s)
  else
    let t : Xfer := ⟨v % 2 ^ 48, k, a, bitAt q.minc 0, bitAt q.minc 1⟩
    (.ok [], modNdl n (fun x => { x with xfers := x.xfers ++ [t] }) s)

/-- The memory operation of a word. -/
def NWord.memStep (q : NWord) (n : Nat) (x : Ndl) (s : State) : NdlRes :=
  let a := rdA x q.areg
  let inc := q.postInc x
  let put (r l : Nat) (y : Except NdlFault Nat × State) : NdlRes :=
    match y with
    | (.ok v, s) => (.ok ([(l, .v (r % 32), v)] ++ inc), s)
    | (.error e, s) => (.error e, s)
  match q.mop with
  | 1 => put q.mreg 3 (q.lsGet n a s)
  | 2 =>
    (match q.lsGet n a s with
     | (.error e, s) => (.error e, s)
     | (.ok v, s) =>
       (match q.lsGet n (a + 1) s with
        | (.error e, s) => (.error e, s)
        | (.ok w, s) => (.ok ([(3, .v q.mreg, v), (3, .v ((q.mreg + 1) % 32), w)] ++ inc), s)))
  | 3 =>
    if a ≥ 2 ^ 15 then (.error (q.fault 0x10 a), s)
    else (.ok inc, lsPut n a (BitVec.ofNat 72 (rdV x q.mreg)) s)
  | 4 => put q.mreg 4 (q.skGet n a s)
  | 5 =>
    if a ≥ 2 ^ 19 then (.error (q.fault 0x11 a), s)
    else (.ok inc, skmPut (n / 8) a (BitVec.ofNat 72 (rdV x q.mreg)) s)
  | 6 => q.slotOp n x s
  | 7 => q.xferOp n x s
  | _ => (.ok [], s)

/-! ### The transform unit (R269-R271) -/

/-- A TCFG value without reserved values (R270). -/
def tcfgOk (v : Nat) : Bool :=
  let op := bitsOf v 0 3
  let len := bitsOf v 17 15
  decide (op ≤ 5) && decide (bitsOf v 5 4 ≤ 8) && bitsOf v 40 24 == 0 &&
    (if op ≥ 4 then decide (2 ≤ len) && decide (len ≤ 16384) else len == 0)

/-- Native words of one block: N² / 4 coefficients words, 4 × 4 for DST-VII, or a line of lifting samples. -/
def txuWords (c : Nat) : Nat :=
  let op := bitsOf c 0 3
  if op ≥ 4 then (bitsOf c 17 15 + 5) / 6 else if op ≥ 2 then 4 else 4 * 4 ^ bitsOf c 3 2

/-- The latency of a block from its first input (R196). -/
def txuLatency (c : Nat) : Nat := if bitsOf c 0 3 ≥ 4 then 8 else 16 + txuWords c / 2

/-- Nonzero outputs of a block: its C18 elements, or S12 samples of lifting. -/
def txuNonzero (c : Nat) (l : List Native) : Nat :=
  let (w, k) := if bitsOf c 0 3 ≥ 4 then (12, 6) else (18, 4)
  l.foldl (fun m v => m + ((List.range k).filter fun i => elU w v.toNat i != 0).length) 0

/-- Push two words; a block completes with its last input. -/
def txuPush (cyc : Nat) (a b : Native) (t : Txu) : Txu :=
  match t.cfg with
  | none => t
  | some c =>
    let first := if t.input.isEmpty then cyc else t.first
    let input := t.input ++ [a, b]
    let k := txuWords c
    if input.length ≥ k then
      let out := Config.txuOut c (input.take k)
      { t with input := [], output := t.output ++ out, at_ := if t.output.isEmpty then first + txuLatency c else t.at_
               first := first, complete := true, nonzero := txuNonzero c out }
    else { t with input := input, first := first, complete := false }

/-- The TXU commands. -/
def NWord.txuStep (q : NWord) (n : Nat) (x : Ndl) (s : State) : NdlRes :=
  let v := rdV x q.ureg % 2 ^ 64
  match q.uop with
  | 1 =>
    if !tcfgOk v || !x.txu.input.isEmpty || !x.txu.output.isEmpty then (.error (q.fault 0x0B 0), s)
    else (.ok [], modNdl n (fun x => { x with txu := { x.txu with cfg := some v, complete := false, nonzero := 0 } }) s)
  | 2 =>
    let a : Native := BitVec.ofNat 72 (rdV x q.ureg)
    let b : Native := BitVec.ofNat 72 (rdV x (q.ureg + 1))
    (.ok [], modNdl n (fun y => { y with txu := txuPush x.cyc a b y.txu }) s)
  | 3 =>
    let w : Native := x.txu.output.headD 0
    (.ok [(2, .v q.ureg, w.toNat)], modNdl n (fun x => { x with txu := { x.txu with output := x.txu.output.drop 1 } }) s)
  | 4 =>
    let st := w64 (b2n x.txu.complete * 2 ^ 16 + x.txu.nonzero % 2 ^ 16) 0
    (.ok ([(2, .v q.ureg, st)] ++ (if x.txu.nonzero = 0 then [(1, .d 1, 1)] else [])), s)
  | _ => (.ok [], s)

/-! ### The motion-estimation unit (R198, R269) -/

/-- Sample k of words of S12 samples. -/
def s12At (l : List Native) (k : Nat) : Nat := elU 12 (l.getD (k / 6) 0).toNat (k % 6)

/-- Read consecutive words, stopping at the first that fails. -/
def getWords (get : Nat → State → Except NdlFault Nat × State) : List Nat → State → Except NdlFault (List Native) × State
  | [], s => (.ok [], s)
  | a :: l, s =>
    match get a s with
    | (.error e, s) => (.error e, s)
    | (.ok v, s) =>
      (match getWords get l s with
       | (.ok m, s) => (.ok (BitVec.ofNat 72 v :: m), s)
       | r => r)

/-- The window's samples, 96 rows of 96. -/
def winSamples (l : List Native) : List Nat := (List.range 9216).map (s12At l)

/-- The cost of a candidate (R196); an offset outside the window has no stated cost. -/
def meuCost (s : State) (m : Meu) (cx cy : Nat) : Nat :=
  if cx > 88 || cy > 88 then Config.freeNat 5 s.free [cx, cy]
  else
    let d (k : Nat) : Int := ((m.cur.getD k 0 : Nat) : Int) - ((m.win.getD ((cy + k / 8) * 96 + cx + k % 8) 0 : Nat) : Int)
    let l := (List.range 64).map d
    if m.satd then Config.satd l else l.foldl (fun v e => v + e.natAbs) 0

/-- A candidate replaces the best one when it costs less. -/
def meuCand (cost cx cy cyc : Nat) (m : Meu) : Meu :=
  let c := cost % 2 ^ 32
  match m.best with
  | some (b, _, _) => if c < b then { m with best := some (c, cx, cy), at_ := cyc + 6 } else { m with at_ := cyc + 6 }
  | none => { m with best := some (c, cx, cy), at_ := cyc + 6 }

/-- The MEU commands. -/
def NWord.meuStep (q : NWord) (n : Nat) (x : Ndl) (s : State) : NdlRes :=
  let v := rdV x q.ureg % 2 ^ 64
  match q.uop with
  | 1 =>
    if bitsOf v 1 2 = 3 || bitsOf v 3 61 ≠ 0 || x.meu.best.isSome then (.error (q.fault 0x0B 0), s)
    else
      let m : Meu := { x.meu with satd := bitAt v 0, step := bitsOf v 1 2 }
      (.ok [], modNdl n (fun x => { x with meu := m }) s)
  | 2 =>
    let a := v % 2 ^ 15
    (match getWords (fun w => q.lsGet n (w % 2 ^ 15)) ((List.range 43).map (a + ·)) s with
     | (.error e, s) => (.error e, s)
     | (.ok l, s) =>
       let cur := (List.range 64).map fun k => s12At l (Config.curSample k).toNat
       (.ok [], modNdl n (fun x => { x with meu := { x.meu with cur := cur } }) s))
  | 3 =>
    let a := v % 2 ^ 19
    (match getWords (fun w => q.skGet n (w % 2 ^ 19)) ((List.range 1536).map (a + ·)) s with
     | (.error e, s) => (.error e, s)
     | (.ok l, s) => (.ok [], modNdl n (fun x => { x with meu := { x.meu with win := winSamples l } }) s))
  | 4 =>
    let cx := bitsOf v 0 7
    let cy := bitsOf v 8 7
    let cost := meuCost s x.meu cx cy
    (.ok [], takeFree (modNdl n (fun y => { y with meu := meuCand cost cx cy x.cyc y.meu }) s))
  | 5 =>
    let (c, cx, cy) := x.meu.best.getD (0, 0, 0)
    (.ok [(2, .v q.ureg, w64 (c + cx * 2 ^ 32 + cy * 2 ^ 40) 0)],
      modNdl n (fun x => { x with meu := { x.meu with best := none } }) s)
  | _ => (.ok [], s)

/-! ### The entropy unit (R199, R269) -/

/-- Words of the context store. -/
def ctxWords : Nat := Config.ctxWordsM1.toNat + 1

/-- A word of the context store; after an abort its contents are free values (R199). -/
def ctxWord (e : Enu) (i : Nat) : Native :=
  match tabFind e.ctx i with
  | some v => v
  | none => match e.lost with
    | some k => (Config.freeWord (1000 + i) k).setWidth 72
    | none => 0

/-- The context store's words. -/
def ctxAll (e : Enu) : List Native := (List.range ctxWords).map (ctxWord e)

/-- A context store with given words. -/
def ctxOfWords (l : List Native) : Tab Native := (List.range l.length).map fun i => (i, l.getD i 0)

/-- Something is pushed into the ENU: its outputs follow, and its contexts adapt. -/
def enuPush (cyc : Nat) (v : Native) (e : Enu) : Enu :=
  match e.mode with
  | none => e
  | some m =>
    let p := e.pushed ++ [v]
    let c := ctxAll e
    let more := (Config.enuBytes m c p).map BitVec.toNat
    let syms := Config.enuSymbols m c p
    let at_ := if e.bytes.isEmpty && e.symbols.isEmpty then cyc + (if m = 1 then 3 else 4) else e.at_
    { e with pushed := p, ctx := ctxOfWords (Config.enuCtx m c p), lost := none, at_ := at_
             bytes := if m % 2 = 0 then e.bytes ++ more else e.bytes
             symbols := if m % 2 = 1 then e.symbols ++ syms else e.symbols }

/-- Flush the arithmetic coder. -/
def enuFlushed (cyc : Nat) (e : Enu) : Enu :=
  match e.mode with
  | none => e
  | some m =>
    let more := (Config.enuFlush m (ctxAll e) e.pushed).map BitVec.toNat
    { e with pushed := [], bytes := e.bytes ++ more, at_ := if e.bytes.isEmpty then cyc + 4 else e.at_ }

/-- Change the ENU. -/
def modEnu (n : Nat) (f : Enu → Enu) (s : State) : State := modNdl n (fun x => { x with enu := f x.enu }) s

/-- The ENU commands. -/
def NWord.enuStep (q : NWord) (n : Nat) (x : Ndl) (s : State) : NdlRes :=
  let w : Native := BitVec.ofNat 72 (rdV x q.ureg)
  let v := rdV x q.ureg % 2 ^ 64
  let base := v % 2 ^ 15
  match q.uop with
  | 1 =>
    if bitsOf v 2 62 ≠ 0 then (.error (q.fault 0x0B 0), s)
    else (.ok [], modEnu n (fun e => { e with mode := some (v % 4), pushed := [] }) s)
  | 2 => (.ok [], modEnu n (enuPush x.cyc w) s)
  | 3 =>
    (match getWords (fun a => q.lsGet n (a % 2 ^ 15)) ((List.range ctxWords).map (base + ·)) s with
     | (.error e, s) => (.error e, s)
     | (.ok l, s) => (.ok [], modEnu n (fun e => { e with ctx := ctxOfWords l, lost := none }) s))
  | 4 =>
    (.ok [], (List.range ctxWords).foldl (fun s i => lsPut n (base + i) (ctxWord x.enu i) s) s)
  | 5 => (.ok [], modEnu n (enuFlushed x.cyc) s)
  | 6 =>
    let l := x.enu.bytes.take 8
    (.ok [(2, .v q.ureg, w64 (leNat l) l.length)], modEnu n (fun e => { e with bytes := e.bytes.drop 8 }) s)
  | 7 =>
    (.ok [(2, .v q.ureg, (x.enu.symbols.headD 0).toNat)], modEnu n (fun e => { e with symbols := e.symbols.drop 1 }) s)
  | 8 => (.ok [], modEnu n (enuPush x.cyc w) s)
  | _ => (.ok [], s)

/-- The unit command of a word. -/
def NWord.unitStep (q : NWord) (n : Nat) (x : Ndl) (s : State) : NdlRes :=
  match q.unit with
  | 1 => q.txuStep n x s
  | 2 => q.meuStep n x s
  | 3 => q.enuStep n x s
  | _ => (.ok [], s)

/-! ### One word's datapath -/

/-- The results of the vector slots and of DSET (R263, R264). -/
def NWord.vecStep (q : NWord) (x : Ndl) : List (Nat × NdlDst × Nat) :=
  let v0 := (vecOp x (q.vslot 0) q.vw q.aw).toList
  let v1 := (vecOp x (q.vslot 1) q.vw q.aw).toList
  let ds := if bitAt q.w 0 then [(1, NdlDst.d 15, rdP x (q.vslot 0).vp % 16)] else []
  v0 ++ ds ++ v1

/-- Execute the datapath of a word (R219, R241, R272, R289): nothing while a fault is pending; a fault of the word
leaves it without effect. `bad` is the code for a reserved value. -/
def NWord.run (q : NWord) (n bad badAddr : Nat) (s : State) : State :=
  let x := ndlOf s n
  if x.fault.isSome then s
  else if !q.ok then raiseFault n (q.fault bad badAddr) s
  else
    match NdlRes.both (q.memStep n x s) (q.unitStep n x) with
    | (.error f, s) => raiseFault n f s
    | (.ok l, s) => modNdl n (issue (q.vecStep x ++ l)) s

/-- A loop counter's decrement by a word (R252), unless suppressed. -/
def wordLoop (n k : Nat) (s : State) : State :=
  let v := rdLc (ndlOf s n) k
  if v = 0 || (ndlOf s n).fault.isSome then s else modNdl n (issue [(1, .lc (k % 4), v - 1)]) s

/-! ### Nano-words (R210, R216, R226, R227, R259-R261) -/

/-- A nano-word with its parity as stored. -/
def nanoEntry (s : State) (n : Nat) (idx : Nat) : BitVec 98 :=
  match (ndlOf s n).bound with
  | some b => tabGet 0 (bankOf s (n / 8) b).entries idx
  | none => 0

/-- The parity bits agree: one over each 48-bit half (R210). -/
def nanoParityOk (e : Nat) : Bool :=
  bitAt e 96 == parityOf 48 (bitsOf e 0 48) && bitAt e 97 == parityOf 48 (bitsOf e 48 48)

/-- A parity mismatch (R210): the bank is DAMAGED, NANOPAR is reported, and the needle faults. -/
def nanoParityBad (n idx : Nat) (s : State) : State :=
  let k := n / 8
  let b := (ndlOf s n).bound.getD false
  let s := bump F.SKN_NPAR_COUNT s k
  let s := setFld F.SKN_NPAR_BANK (b2n b) (setFld F.SKN_NPAR_ENTRY idx s k) k
  let s := report 0x05 0 (b2n b * 2 ^ 14 + k * 2 ^ 10 + idx) 255 (setBankSt k b .damaged s)
  faultNow n ⟨0x07, idx, b2n b, 0, idx⟩ s

/-- Where a nano-word goes: another index, or the end of the routine. -/
inductive NanoNext where
  | at_ (i : Nat)
  | done

/-- The next index (R259); a reserved SEQ goes on as NEXT. -/
def nanoNext (x : Ndl) (w idx : Nat) : NanoNext :=
  let tgt := bitsOf w 82 10
  let c := bitsOf w 78 4
  match bitsOf w 93 3 with
  | 1 => .done
  | 2 => .at_ tgt
  | 3 => .at_ (if ncond x c then tgt else idx + 1)
  | 4 => .at_ (if loopTakes (rdLc x c) then tgt else idx + 1)
  | 5 => if ncond x c then .done else .at_ (idx + 1)
  | _ => .at_ (idx + 1)

/-- The half of the bank that an index lies in (R261). -/
def nanoHalf (i : Nat) : Nat := if i < 768 then 0 else if i < 1024 then 1 else 2

/-- SAFEGAP is due: 48 nano-cycles without a sampling point (R226). -/
def safegapDue (x : Ndl) : Bool := match x.nano with | some r => decide (r.gap ≥ 48) | none => false

/-- NANORUN is due: the routine still runs after 4,096 nano-cycles (R227). -/
def nanorunDue (x : Ndl) : Bool := match x.nano with | some r => decide (r.cycles ≥ 4096) | none => false

/-- The forced sampling point of R226. -/
def safegapNow (n : Nat) (s : State) : State :=
  let b := b2n ((ndlOf s n).bound.getD false)
  let i := match (ndlOf s n).nano with | some r => r.idx | none => 0
  faultNow n ⟨0x08, i, b, 0, 0⟩ (ndlTick n 1 s)

/-- NANORUN is raised (R227). -/
def nanorunRaise (n : Nat) (s : State) : State :=
  match (ndlOf s n).nano with
  | some r => raiseFault n ⟨0x09, r.idx, b2n ((ndlOf s n).bound.getD false), 0, r.first⟩ s
  | none => s

/-- The routine goes on at index `i`, or leaves its half (R261). -/
def nanoGo (n : Nat) (r : NanoRun) (i : Nat) (s : State) : State :=
  if nanoHalf i ≠ nanoHalf r.first then
    faultNow n ⟨0x04, r.idx, b2n ((ndlOf s n).bound.getD false), 0, i⟩ s
  else modNdl n (fun x => { x with nano := x.nano.map fun q => { q with idx := i } }) s

/-- One nano-cycle passes in the routine. -/
def nanoCycle (n : Nat) (s : State) : State :=
  ndlTick n 1 (modNdl n (fun x => { x with nano := x.nano.map fun q => { q with cycles := q.cycles + 1, gap := q.gap + 1 } }) s)

/-- Execute nano-word `w` of the routine `r`. -/
def nanoExec (n : Nat) (r : NanoRun) (w : Nat) (x0 : Ndl) (s : State) : State :=
  let ind := bitAt w 29
  let q : NWord := ⟨w, if ind then r.vw else 0, if ind then r.aw else 0, r.idx, b2n (x0.bound.getD false)⟩
  let seq := bitsOf w 93 3
  let waits := (seq = 6 && !ncond x0 (bitsOf w 78 4)) || (q.ok && x0.fault.isNone && q.stalls x0)
  if waits then stallCycle n s
  else
    let s := setNdlSt n .run s
    let s := if seq = 7 && x0.fault.isNone then raiseFault n (q.fault 0x02 0) s else q.run n 0x02 0 s
    let s := if seq = 4 then wordLoop n (bitsOf w 78 2) s else s
    if (ndlOf s n).st = .fault then s
    else
      let s := nanoCycle n s
      match nanoNext x0 w r.idx with
      | .done => boundary n x0 (nextPc x0.pc) (modNdl n (fun x => { x with nano := none }) s)
      | .at_ i =>
        if bitAt w 92 then
          let s := sampleSafe n s
          if (ndlOf s n).nano.isSome then nanoGo n r i s else s
        else nanoGo n r i s

/-- A needle can execute a nano-word. -/
def nanoReady (s : State) (n : Nat) : Bool := ndlExec s n && (ndlOf s n).nano.isSome

/-- NANO_WORD_EXECUTE (R210, R212, R216, R226, R227, R258-R262). -/
def execNanoWordExecute (needle : Fin 128) (s : State) : Out :=
  let n := needle.val
  let s0 := s
  if !nanoReady s0 n then .next s0
  else
    let s := ndlSettle n s0
    let x := ndlOf s n
    match x.nano with
    | none => .next s0
    | some r =>
      if safegapDue x then .next (safegapNow n s)
      else
        let s := if nanorunDue x && decide (r.cycles = 4096) then nanorunRaise n s else s
        let e := (nanoEntry s n r.idx).toNat
        if (ndlOf s n).st = .fault then .next s
        else if !nanoParityOk e then .next (nanoParityBad n r.idx s)
        else .next (nanoExec n r (bitsOf e 0 96) (ndlOf s n) s)

/-- SAFEGAP (R226). -/
def execSafegap (needle : Fin 128) (s : State) : Out :=
  let n := needle.val
  .next (if nanoReady s n && safegapDue (ndlOf s n) then safegapNow n (ndlSettle n s) else s)

/-- NANORUN (R227). -/
def execNanorun (needle : Fin 128) (s : State) : Out :=
  let n := needle.val
  .next (if nanoReady s n && nanorunDue (ndlOf s n) then nanorunRaise n s else s)

/-! ### Horizontal words (R229-R231, R273-R276) -/

/-- The range check is off: in SERVICE after an unlock of scope 2 or 3 (R231, R763). -/
def horizFree (s : State) : Bool :=
  decide (s.pwr.mode = .service) && (bitAt s.sec.scopes 2 || bitAt s.sec.scopes 3)

/-- A horizontal word address within the range (R231). -/
def horizInRange (s : State) (n a : Nat) : Bool :=
  horizFree s || (decide (fld s F.NDL_HRANGE_HBASE n ≤ a) && decide (a < fld s F.NDL_HRANGE_HLIM n))

/-- A horizontal word's own fields are legal (R273-R275). -/
def horizOk (hi lo : Nat) : Bool :=
  let w := hi * 2 ^ 72 + lo
  decide (bitsOf w 140 4 ≤ 6) && bitsOf w 125 1 == 0 && bitsOf w 78 43 == 0 && bitsOf w 29 1 == 0 &&
    NWord.ok ⟨bitsOf w 0 78, 0, 0, 0, 0⟩

/-- Where a horizontal word goes: the PC that follows, or HALT there. -/
def horizNext (x : Ndl) (w a : Nat) : Nat × Bool :=
  let at_ (b : Nat) : Nat := b % 2 ^ 15 * 4 + 3
  let tgt := at_ (bitsOf w 125 15)
  let seq := at_ (a + 2)
  match bitsOf w 140 4 with
  | 1 => (tgt, false)
  | 2 => (if ncond x (bitsOf w 121 4) then tgt else seq, false)
  | 3 => (if loopTakes (rdLc x (bitsOf w 121 2)) then tgt else seq, false)
  | 5 => if x.hstart then (seq, true) else (x.hret, false)
  | 6 => (seq, true)
  | _ => (seq, false)

/-- Sample at a horizontal word (R230): a fault that stands, then as at a boundary. -/
def horizSample (n : Nat) (x0 : Ndl) (next : Nat) (s : State) : State :=
  match (ndlOf s n).fault with
  | some f => takeFault n f false next s
  | none => boundary n x0 next s

/-- Execute horizontal word `w` at address `a`, in 2 NCLK. -/
def horizExec (n a w : Nat) (x0 : Ndl) (s : State) : State :=
  let q : NWord := ⟨bitsOf w 0 78, 0, 0, 0, 0⟩
  let waits := (bitsOf w 140 4 = 4 && !ncond x0 (bitsOf w 121 4)) || (x0.fault.isNone && q.stalls x0)
  if waits then stallCycle n s
  else
    let s := q.run n 0x03 a (setNdlSt n .horiz s)
    let s := if bitsOf w 140 4 = 3 then wordLoop n (bitsOf w 121 2) s else s
    if (ndlOf s n).st = .fault then s
    else
      let (next, halts) := horizNext x0 w a
      let s := if halts then modNdl n (fun x => { x with haltAsked := true }) s else s
      horizSample n x0 next (ndlTick n 2 s)

/-- HORIZ_WORD_EXECUTE (R229-R231, R273-R276). -/
def execHorizWordExecute (needle : Fin 128) (s : State) : Out :=
  let n := needle.val
  let x := ndlOf s n
  if !ndlExec s n || !horizPc x || x.zeroing then .next s
  else
    let s := ndlSettle n s
    let x := ndlOf s n
    let a := x.pc / 4
    if !horizInRange s n a then .next (faultNow n (plainFault 0x0A a) s)
    else
      match lsRead n a s with
      | (none, s) => .next (faultNow n (plainFault 0x13 a) s)
      | (some lo, s) =>
        match lsRead n (a + 1) s with
        | (none, s) => .next (faultNow n (plainFault 0x13 (a + 1)) s)
        | (some hi, s) =>
          if horizOk hi.toNat lo.toNat then .next (horizExec n a (hi.toNat * 2 ^ 72 + lo.toNat) x s)
          else .next (horizSample n x (horizNext x (hi.toNat * 2 ^ 72 + lo.toNat) a).1
            (raiseFault n (plainFault 0x03 a) (ndlTick n 2 s)))

end Sys2Proof.Machine
end

