-- ==== Sys2Proof/Machine/Porter.lean ====
section
/-! DEFINITION. Porter channels: start and abort, descriptors and their checks, claims of LFI ports, and the end of
descriptors and chains (spec/13 R531-R533, R540-R549). -/

namespace Sys2Proof.Machine

/-- A channel. -/
def prtOf (s : State) (n : Nat) : Prt := tabGet .reset s.prt n

/-- Change a channel. -/
def modPrt (n : Nat) (f : Prt → Prt) (s : State) : State := { s with prt := tabMod .reset s.prt n f }

/-- A channel that is neither OFF nor IDLE. -/
def prtActive (x : Prt) : Bool := decide (x.st ≠ .off) && decide (x.st ≠ .idle)

/-- Codes of PRT_STAT.STATE. -/
def PrtSt.code : PrtSt → Nat
  | .off => 0 | .idle => 1 | .fetch => 2 | .move => 3 | .aborting => 4

/-! ### Descriptor fields (R531) -/

/-- A little-endian field of a channel's descriptor. -/
def pd (x : Prt) (o n : Nat) : Nat := dLe x.desc o n

/-- Width in bits of a width code. -/
def widthBits (c : Nat) : Nat :=
  match c with
  | 0 => 8 | 1 => 16 | 2 => 32 | 3 => 64 | _ => 72

/-- Element size in bytes of a width code. -/
def elemSize (c : Nat) : Nat :=
  match c with
  | 0 => 1 | 1 => 2 | 2 => 4 | _ => 8

/-- A FLAGS bit. -/
def pdFlag (x : Prt) (i : Nat) : Bool := bitAt (pd x 0x22 1) i

/-- The base lane that an LFI-mode descriptor names. -/
def pdBase (s : State) (x : Prt) : Nat := lfiBase s (pd x 0 1 % 64)

/-- Its port. -/
def pdPort (x : Prt) : Nat := pd x 0 1 / 64 % 2

/-- LFI mode. -/
def pdLfi (x : Prt) : Bool := pd x 0x20 1 == 3

/-- Destination elements of a line in LFI mode (R541). -/
def lineElems (words dw : Nat) : Nat := 1 + (words * 72 + dw - 1) / dw

/-- Destination elements of a descriptor (R535, R542). -/
def dstElems (s : State) (x : Prt) : Nat :=
  let dw := widthBits (pd x 0x1F 1)
  if pdLfi x then pd x 0x18 4 * lineElems ((fld s F.LANE_LCFG_SAMPLES (pdBase s x) + 5) / 6) dw
  else pd x 0x18 4 * widthBits (pd x 0x1E 1) / dw

/-- The residue of a descriptor (R548). -/
def prtResid (x : Prt) : Nat :=
  if pdLfi x then pd x 0x18 4 - x.lines
  else pd x 0x18 4 - x.written * widthBits (pd x 0x1F 1) / widthBits (pd x 0x1E 1)

/-- An address lies in skein memory or an RLD bay. -/
def tagged (a : Nat) : Bool :=
  (decide (0x080000000000 ≤ a) && decide (a < 0x080000000000 + 16 * 0x400000)) ||
    (decide (0x100000000000 ≤ a) && decide (a < 0x100000000000 + 4 * 0x200000000))

/-- The offset that an invalid descriptor reports, in the order of R533; none when it is valid. -/
def descFault (s : State) (x : Prt) : Option Nat :=
  let sw := pd x 0x1E 1
  let dw := pd x 0x1F 1
  let sm := pd x 0x20 1
  let dm := pd x 0x21 1
  let len := pd x 0x18 4
  let gl := pd x 0x1C 2
  let idx := sm == 2 || dm == 2
  let lfi := sm == 3
  let chks := pdFlag x 1
  let chkd := pdFlag x 2
  let checks : List (Bool × Nat) :=
    [(pd x 0x06 2 != 0, 0x00), (pd x 0x0E 2 != 0, 0x08), (pd x 0x16 2 != 0 || (!idx && pd x 0x10 8 != 0), 0x10),
     (pd x 0x22 1 / 32 != 0, 0x22), (pd x 0x23 5 != 0, 0x23), (pd x 0x36 2 != 0 || pd x 0x30 1 % 64 != 0, 0x30),
     (decide (sw > 4), 0x1E), (decide (dw > 4), 0x1F), (decide (sm > 3), 0x20), (decide (dm > 2), 0x21),
     (len == 0, 0x18),
     (sm == 2 && dm == 2, 0x1C), (idx && gl == 0, 0x1C), (!idx && gl != 0, 0x1C), (idx && decide (len % gl ≠ 0), 0x1C),
     (!lfi && len * widthBits sw % widthBits dw != 0, 0x18),
     (!lfi && pd x 0 8 % elemSize sw != 0, 0x00), (pd x 8 8 % elemSize dw != 0, 0x08), (pd x 0x10 8 % 4 != 0, 0x10),
     (!lfi && sw == 4 && !chks && !tagged (pd x 0 8), 0x1E), (dw == 4 && !chkd && !tagged (pd x 8 8), 0x1F),
     (lfi && (sw != 4 || (dw != 3 && dw != 4) || dm != 0 || !lfiDropMode s (pdBase s x)), 0x20),
     ((chks || pdFlag x 3) && sm != 0, 0x22), (chkd && dm != 0, 0x22)]
  (checks.find? Prod.fst).map Prod.snd

/-! ### Ends (R543-R549) -/

/-- A chain ends: its result, residue and counts; the claim returns and the channel is IDLE (R540, R545, R547-R549). -/
def chainEnd (n res detail resid ddone : Nat) (s : State) : State :=
  let g := n / 16
  let c := n % 16
  let s := setFld F.PRT_STAT_RESULT res (setFld F.PRT_STAT_DETAIL detail s g c) g c
  let s := setFld F.PRT_RESID_RESID resid (setFld F.PRT_DDONE_DDONE ddone s g c) g c
  let s := modPrt n (fun x => { Prt.reset with st := .idle, cur := x.cur }) s
  match res with
  | 0 => s
  | 1 => raise (337 + n) (bump F.PRT_GCNT_ABORTS s g)
  | _ => raise (401 + n) (bump F.PRT_GCNT_ERRORS s g)

/-- A bus error stops the channel (R547). -/
def prtBusError (n a : Nat) (c : Berr) (s : State) : State :=
  let x := prtOf s n
  let g := n / 16
  let s := setFld F.PRT_EADDR_ADDR_LO (a % 2 ^ 32) (setFld F.PRT_EADDR_ADDR_HI (a / 2 ^ 32 % 2 ^ 16) s g (n % 16)) g (n % 16)
  let s := chainEnd n 2 c.code (if x.desc.isEmpty then 0 else prtResid x) x.written s
  report 0x0E c.code n (136 + n) s

/-- The steps that end a descriptor (R543, R546): FREES, WB, IRQ and NEXT, which an abort does not fetch. -/
def descEnd (n : Nat) (s : State) : State :=
  let x := prtOf s n
  let req := 136 + n
  let g := n / 16
  let c := n % 16
  let aborting := decide (x.st = .aborting)
  let (refused, s) := if pdFlag x 3 then stlFreeOp req (pd x 0x2C 4) s else (none, s)
  match refused with
  | some e => chainEnd n 4 e.code 0 x.written s
  | none =>
    let a := x.cur + 0x38
    let (bad, s) : Option MemRes × State :=
      if pdFlag x 4 then
        (match accErr req a true (memWrite req a 64 0 .none s) with | (.ok _, s) => (none, s) | (r, s) => (some r, s))
      else (none, s)
    match bad with
    | some (.err e) => prtBusError n a e s
    | some _ => prtBusError n a .unmapped s
    | none =>
      let s := bump F.PRT_STAT_DESCS s g c
      let s := if pdFlag x 0 then raise (337 + n) s else s
      let next := pd x 0x30 6
      let last := if aborting then 0 else x.cur
      if next = 0 then chainEnd n (b2n aborting) 0 0 x.written (modPrt n (fun y => { y with cur := last }) s)
      else if aborting then chainEnd n 1 0 0 x.written (modPrt n (fun y => { y with cur := next }) s)
      else modPrt n (fun y => { Prt.reset with st := .fetch, cur := next, claim := y.claim }) s

/-! ### Start, abort and fetch -/

/-- START is refused while the channel is not IDLE or not enabled (R544). -/
def prtDescBusy (s : State) (n : Nat) (v : List Nat) : Option Berr :=
  busyIf (valOf v F.PRT_DESC_START == 1 && ((prtOf s n).st ≠ .idle || !flag s F.PRT_CTL_EN (n / 16) (n % 16)))

/-- A commit of PRT_DESC: with START a chain begins (R544). -/
def prtDescEffect (n : Nat) (v : List Nat) (s : State) : State :=
  if valOf v F.PRT_DESC_START = 1 then
    let a := valOf v F.PRT_DESC_ADDR_LO * 64 + valOf v F.PRT_DESC_ADDR_HI * 2 ^ 32
    let s := setFld F.PRT_STAT_RESULT 0 (setFld F.PRT_STAT_DETAIL 0 (setFld F.PRT_STAT_DESCS 0 s (n / 16) (n % 16))
      (n / 16) (n % 16)) (n / 16) (n % 16)
    modPrt n (fun _ => { Prt.reset with st := .fetch, cur := a }) s
  else s

/-- START of a chain at a descriptor address. -/
def execPrtStart (req : Req) (channel : Fin 64) (addr : BitVec 48) (s : State) : Out :=
  let n := channel.val
  let a := addr.toNat
  .next (commitWords .PRT_DESC (n / 16) (n % 16) req [a % 2 ^ 32 / 64 * 64, 2 ^ 31 + a / 2 ^ 32]
    (prtDescBusy s n) anyOk (prtDescEffect n) s)

/-- ABORT is refused while the channel is IDLE (R544) or OFF. -/
def prtCmdBusy (s : State) (n : Nat) (_ : List Nat) : Option Berr := busyIf (!prtActive (prtOf s n))

/-- ABORT takes effect at the end of the current burst or fetch (R545). -/
def prtCmdEffect (n : Nat) (_ : List Nat) (s : State) : State := modPrt n prtAsk s

/-- ABORT. -/
def execPrtAbort (req : Req) (channel : Fin 64) (s : State) : Out :=
  let n := channel.val
  .next (regCommit .PRT_CMD (n / 16) (n % 16) ⟨req, .normal, 1⟩ (prtCmdBusy s n) anyOk (prtCmdEffect n) s)

/-- EN = 0 is refused while the channel is not IDLE (PRT_CTL). -/
def prtCtlBusy (s : State) (n : Nat) (v : List Nat) : Option Berr :=
  busyIf (valOf v F.PRT_CTL_EN == 0 && prtActive (prtOf s n))

/-- An enabled channel is IDLE, a disabled one OFF. -/
def prtCtlEffect (n : Nat) (v : List Nat) (s : State) : State :=
  if prtActive (prtOf s n) then s
  else if valOf v F.PRT_CTL_EN = 1 then modPrt n (fun x => { x with st := .idle }) s
  else modPrt n (fun x => { x with st := .off }) s

/-- A loaded pattern reads an LFI port (R319, R540). -/
def patternReads (s : State) (base port : Nat) : Bool :=
  (slotsUsed s).any fun k =>
    let d := (patOf s k).desc
    (List.range (dNin d)).any fun i => dIn d i 0 1 == 1 && lfiBase s (dIn d i 1 1) == base && dIn d i 2 1 == port

/-- A porter claims an LFI port. -/
def porterClaims (s : State) (base port : Nat) : Option Nat :=
  (s.prt.find? fun e => e.2.claim == some (2 * base + port)).map Prod.fst

/-- A claim of an LFI port (R540); false when it is refused. -/
def claimPort (n : Nat) (s : State) : Bool × State :=
  let x := prtOf s n
  let b := pdBase s x
  let p := pdPort x
  if !portOn s b p || patternReads s b p || (match porterClaims s b p with | some m => decide (m ≠ n) | none => false) then
    (false, s)
  else (true, modPrt n (fun x => { x with claim := some (2 * b + p) }) s)

/-- CHECK of one side's handle (R542): the address it answers. -/
def sideCheck (n h off bytes : Nat) (on : Bool) (s : State) : Except StlErr Nat × State :=
  if on then stlCheckOp (136 + n) h off ((bytes + 7) / 8) s else (.ok off, s)

/-- The checks of a descriptor just read, before it moves anything (R533, R540, R542). -/
def descStart (n : Nat) (s : State) : State :=
  let x := prtOf s n
  let stop (res d : Nat) (s : State) : State := chainEnd n res d (pd x 0x18 4) 0 s
  match descFault s x with
  | some o => stop 3 o s
  | none =>
    let (ok, s) := if pdLfi x then claimPort n s else (true, s)
    if !ok then stop 5 0 s
    else
      match sideCheck n (pd x 0x2C 4) (pd x 0 6) (pd x 0x18 4 * elemSize (pd x 0x1E 1)) (pdFlag x 1) s with
      | (.error e, s) => stop 4 e.code s
      | (.ok a, s) =>
        match sideCheck n (pd x 0x28 4) (pd x 8 6) (dstElems s x * elemSize (pd x 0x1F 1)) (pdFlag x 2) s with
        | (.error e, s) => stop 4 e.code s
        | (.ok b, s) => modPrt n (fun x => { x with st := .move, src := a, dst := b }) s

/-- A descriptor lies in core SRAM, skein memory or RLD (R531). -/
def descRegion (a : Nat) : Bool := tagged a || (decide (0x10000000 ≤ a) && decide (a < 0x10800000))

/-- The channel reads its descriptor whole (R532); an abort that fell in the fetch takes effect after it (R545). -/
def execDescriptorFetch (channel : Fin 64) (s : State) : Out :=
  let n := channel.val
  let x := prtOf s n
  let up := domUp s (204 + n / 16)
  if !up || !(x.st = .fetch || (x.st = .aborting && x.desc.isEmpty)) then .next s
  else if !descRegion x.cur then .next (prtBusError n x.cur .unmapped (busError (136 + n) x.cur false .unmapped s))
  else
    match readWords (136 + n) 64 8 x.cur s with
    | ((_, some (.err c)), s) => .next (prtBusError n x.cur c s)
    | ((_, some _), s) => .next (prtBusError n x.cur .unmapped s)
    | ((l, none), s) =>
      let s := modPrt n (fun x => { x with desc := wordBytes l }) s
      if x.st = .aborting then .next (chainEnd n 1 0 (prtResid (prtOf s n)) 0 s) else .next (descStart n s)

end Sys2Proof.Machine
end

