-- ==== Sys2Proof/Machine/Patterns.lean ====
section
/-! DEFINITION. Loading and unloading patterns: the checks of R317, placement and what a load and an unload do
(spec/07 R305-R335). -/

namespace Sys2Proof.Machine

/-- Why a load fails: RESULT, DETAIL, the offset of a field, EXTRA and RESOURCE (R316, R317). -/
structure LoadFail where
  result : Nat
  detail : Nat
  offset : Nat
  extra : Nat
  resource : Nat
  deriving DecidableEq, Repr

/-- A failure of a check of RESULT 2. -/
def failAs (detail offset extra : Nat) : Option LoadFail := some ⟨2, detail, offset, extra, 0⟩

/-- The offset of the first condition that does not hold. -/
def firstBad (l : List (Nat × Bool)) : Option Nat := (l.find? fun e => !e.2).map Prod.fst

/-- A value lies in a range. -/
def within (a v b : Nat) : Bool := decide (a ≤ v) && decide (v ≤ b)

/-! ### Check 6: fields (R310-R314, R326, R369, R375, R378, R391, R393, R415, R609, R620, R755) -/

/-- The header's fields. -/
def headChecks (s : State) (d : List Nat) : List (Nat × Bool) :=
  let micro := ((libOf s (dLe d 0x00C 2)).map fun e => e.micro.length).getD 0
  let f (o n : Nat) : Nat := dLe d o n
  let outs := List.range (dNout d)
  let bays := List.range 4
  [(0x006, within 1 (f 0x006 1) 16), (0x007, within 1 (f 0x007 1) 4), (0x010, f 0x016 2 == 0),
    (0x018, within 16 (f 0x018 4) (if micro = 0 then 32768 else 30720)), (0x01E, decide (f 0x01E 2 ≥ f 0x01C 2)),
    (0x05C, outs.foldl (fun n k => n + dOut d k 0x1C 4) 0 == f 0x05C 4),
    (0x064, f 0x064 4 % 2 ^ 13 == 0 && decide (dNum d ≥ 1)), (0x06A, decide (f 0x06A 1 ≤ 63)),
    (0x06B, within 1 (f 0x06B 1) 64),
    (0x06C, bays.foldl (fun n b => n + f (0x06C + b) 1) 0 == 255 &&
      bays.all fun b => bitAt (f 0x192 1) b || f 0x054 4 * f (0x06C + b) 1 == 0), (0x070, f 0x070 8 == 0)]

/-- SRCREF holds what its source gives it (R311). -/
def srcRefOk (src ref : Nat) : Bool :=
  match src with
  | 2 => decide (ref < 2 ^ 32)
  | 3 => true
  | 4 => bitsOf ref 6 2 == 0 && decide (ref < 2 ^ 24)
  | _ => ref == 0

/-- The fields of input entry i, or the zeros of an entry beyond NIN (R311). -/
def inputChecks (d : List Nat) (i : Nat) : List (Nat × Bool) :=
  let o := 0x080 + 0x10 * i
  let f (x n : Nat) : Nat := dIn d i x n
  let src := f 0 1
  if i ≥ dNin d then [(o, f 0 16 == 0)]
  else
    [(o, within 1 src 4),
      (o + 1, match src with | 1 => f 1 1 < 64 | 3 => f 1 1 < 16 | 4 => f 1 1 < 8 | _ => f 1 1 == 0),
      (o + 2, if src = 1 then decide (f 2 1 ≤ 1) else f 2 1 == 0),
      (o + 3, f 3 1 ≤ 2 || (src != 1 && codedIn d i)), (o + 4, f 4 2 ≠ 0), (o + 6, f 6 2 ≠ 0), (o + 8, f 8 1 ≤ 3),
      (o + 9, f 9 1 ≤ 15), (o + 0xA, srcRefOk src (f 0xA 6))]

/-- The placement section (R312). -/
def placeChecks (d : List Nat) : List (Nat × Bool) :=
  [(0x180, dLe d 0x180 16 ≠ 0), (0x192, within 1 (dLe d 0x192 1) 15), (0x194, dLe d 0x194 1 ≤ 1),
    (0x195, within 1 (dLe d 0x195 1) 8), (0x196, dLe d 0x196 2 ≤ 32), (0x19A, dLe d 0x19A 102 == 0)]

/-- The conditions of R415 on an output with REWIND = 1. -/
def rewindOk (s : State) (d : List Nat) (k : Nat) : Bool :=
  let i := viewInput d k 0
  let b := dIn d i 1 1
  let h := rowLines d k
  let ns := dNeedles d
  let words := (List.range ns.length).foldl (fun n r => n + (stripeOf d r ns.length ((dIn d i 4 2 + 5) / 6)).2) 0
  let tp := 2 * dRowH d k * widestStripe d k * workRate d k
  let td := 10 * h * words
  let lines := fld s F.RCK_FMT_NUM * fld s F.RCK_FMT_LINES
  let le (t n : Nat) : Bool := decide (t * lines ≤ n * 24000000000 * fmtDen s)
  dOut d k 0 1 == 1 && !lowLatency d k && dViews d k == 1 && dIn d i 0 1 == 1 && !lfiDropMode s b &&
    lfiLpb s (lfiBase s b) * (bondOf s b).2 == h &&
    (List.range (dNout d)).all (fun j => !(isHevc d j && bitAt (dGau d j 0x0E 1) 2) || rowLines d j == h) &&
    le tp h && le (td + 2 * tp) (dGau d k 0x15 1) && le (td + 3 * tp) (2 * h)

/-- The Gauge block of an HEVC output (R391, R393), at offsets within the output section. -/
def gaugeChecks (s : State) (d : List Nat) (k : Nat) : List (Nat × Bool) :=
  let g (o n : Nat) : Nat := dGau d k o n
  let pf := picFloor (floorsOf s d k) d k idrPlan
  let num := dNum d
  let den := dDen d
  let mode := g 0x0E 1
  let jg := g 0x0F 1
  let gop := dGop d k
  let kw := g 0x12 1
  let qmin := sByte (g 0x10 1)
  let qmax := sByte (g 0x11 1)
  let depth : Int := ((dOut d k 0x07 1 : Nat) : Int)
  let f0 := 1000 * g 0x04 4 * g 0x0C 2 / 90000
  let rmaxOk := decide (g 0 4 ≥ 1) && decide (g 4 4 ≥ g 0 4) && (!bitAt mode 0 || g 4 4 == g 0 4)
  [(0x20, decide (1000 * g 0 4 * den ≥ pf * num)), (0x24, rmaxOk),
    (0x28, decide (1000 * g 8 4 * num ≥ 1000 * g 4 4 * den) && decide (1000 * g 8 4 ≥ 2 * pf)),
    (0x2C, decide (pf ≤ f0) && decide (f0 ≤ 1000 * g 8 4)),
    (0x2E, decide (mode < 8) && (!bitAt mode 2 || rewindOk s d k)),
    (0x2F, (decide (jg ≤ 15) || within 0x40 jg 0x7F) && (!bitAt mode 0 || jg == 0)),
    (0x30, decide (-6 * (depth - 8) ≤ qmin) && decide (qmin ≤ qmax) && decide (qmax ≤ 51)),
    (0x32, match gop with
      | 0 => kw == 0
      | 1 => decide (4 ≤ kw) && decide (kw < 4 * dPeriod d k)
      | _ => decide (4 ≤ kw)),
    (0x33, g 0x13 1 ≤ 100), (0x34, g 0x14 1 ≤ 15), (0x36, if jg = 0 then g 0x16 1 == 0 else g 0x16 1 ≠ 0),
    (0x37, within 1 (g 0x17 1) 12), (0x38, decide (g 0x18 4 + 32 * dViews d k ≤ 524288))]

/-- The egress entry that FLOW names fits the output (R620). -/
def flowOk (s : State) (d : List Nat) (k : Nat) : Bool :=
  match (if domUp s 201 then tabFind s.ft.slots (dOut d k 0x44 4) else none) with
  | none => false
  | some (w0, w1) =>
    let a := w0.toNat
    let b := w1.toNat
    bitsOf a 68 4 == 3 && ftStatic w0 && bitsOf a 26 6 == 0 && bitsOf a 15 1 == 0 && bitsOf a 0 8 == 0 &&
      bitsOf b 69 3 == 1 && bitsOf b 64 5 == dOut d k 0x42 1 && bitsOf b 50 6 == dOut d k 0x43 1

/-- The largest frame that an output sends fits the port's MAXLEN: headers, RTP and 1,456 bytes, FCS (R620, R624). -/
def frameFits (s : State) (d : List Nat) (k : Nat) : Bool :=
  match (if domUp s 201 then tabFind s.ft.slots (dOut d k 0x44 4) else none) with
  | none => true
  | some (w0, _) =>
    let tlen := sramRead s 1 (fld s F.EG_TBASE_BASE * 128 + bitsOf w0.toNat 16 10 * 128)
    decide (tlen + 12 + 1456 + 4 ≤ fld s F.ETH_CFG_MAXLEN (dOut d k 0x42 1 % 24))

/-- A pool lies in a bay that BAYS names (R314). -/
def poolInBays (s : State) (d : List Nat) (p : Nat) : Bool :=
  decide (p < 64) && (match poolBay s p with | some b => bitAt (dLe d 0x192 1) b | none => false)

/-- Pool entries of outputs 0 to k that come from pool p (R378). -/
def entriesFrom (d : List Nat) (k p : Nat) : Nat :=
  (List.range (k + 1)).foldl (fun n j => n + (if dOut d j 0x48 1 = p then dEntries d j * dViews d j else 0)) 0

/-- A requester's quota admits n more buffers of a pool (R523). -/
def quotaFits (s : State) (req p n : Nat) : Bool :=
  fld s F.STL_QUOTA_LIMIT 0 req == 0xFFFFFF || decide (useOf s req + n * poolUnits s p ≤ fld s F.STL_QUOTA_LIMIT 0 req)

/-- The owner of a pattern's buffers: the lowest needle of NMASK (R525). -/
def patOwner (d : List Nat) : Nat := (dNeedles d).head?.getD 0

/-- A pool supplies the entries of output k (R378). -/
def poolSupplies (s : State) (d : List Nat) (k : Nat) : Bool :=
  let p := dOut d k 0x48 1
  let n := entriesFrom d k p
  dEntries d k == 0 ||
    (poolReady s p && decide (n ≤ poolFree s p) && quotaFits s (patOwner d) p n &&
      decide (picBytes (dWidth d k) (dHeight d k) (dOut d k 0x0C 1) (dOut d k 0x07 1) +
        picBytes (dWidth d k / 2) (dHeight d k / 2) 0 8 + picBytes (dWidth d k / 4) (dHeight d k / 4) 0 8 ≤ 2 ^ poolLog s p))

/-- The fields of output section k in ascending offset (R313). -/
def outputChecks (s : State) (d : List Nat) (k : Nat) : List (Nat × Bool) :=
  let f (x n : Nat) : Nat := dOut d k x n
  let fmt := f 0 1
  let hevc := isHevc d k
  let raw := fmt == 4
  let gop := f 0x0D 1
  let per := f 0x0E 2
  let alt := f 0x49 1
  let l :=
    [(0, within 1 fmt 4), (1, !raw || f 1 1 == 0), (2, !raw || f 2 1 == 0), (3, if hevc then f 3 1 ≤ 1 else f 3 1 == 0),
      (4, f 4 1 ≤ 3), (5, f 5 1 ≤ 1), (6, f 6 1 ≤ 2), (7, within 8 (f 7 1) 16), (8, f 8 2 ≠ 0), (0xA, f 0xA 2 ≠ 0),
      (0xC, f 0xC 1 ≤ 4), (0xD, gop ≤ 2),
      (0xE, match gop with | 0 => per == 0 | 1 => within 2 per 1024 | _ => within 2 per (dCols d k)),
      (0x10, if hevc then within 5 (f 0x10 1) 6 else f 0x10 1 == 0), (0x11, f 0x11 1 ≤ 1),
      (0x12, if fmt = 2 then within 2 (f 0x12 1) 16 else f 0x12 1 == 1), (0x13, f 0x13 1 ≤ 1),
      (0x16, if fmt = 3 then f 0x16 2 ≠ 0 else f 0x16 2 == 0), (0x18, f 0x18 1 ≤ 3), (0x19, f 0x19 3 == 0),
      (0x1C, bitAt (f 0x40 1) 1 || f 0x1C 4 == 0)] ++
    (if hevc then gaugeChecks s d k else [(0x20, f 0x20 32 == 0)]) ++
    [(0x40, within 1 (f 0x40 1) 7), (0x41, f 0x41 1 ≤ 15), (0x42, f 0x42 1 ≤ 23 && (!bitAt (f 0x40 1) 1 || frameFits s d k)),
      (0x43, if lowLatency d k then within 48 (f 0x43 1) 62 else f 0x43 1 ≤ 62),
      (0x44, !bitAt (f 0x40 1) 1 || flowOk s d k), (0x48, poolInBays s d (f 0x48 1) && poolSupplies s d k),
      (0x49, alt == 0xFF || (poolInBays s d alt && poolBay s alt != poolBay s (f 0x48 1))), (0x4A, f 0x4A 54 == 0)]
  l.map fun e => (0x200 + 0x80 * k + e.1, e.2)

/-- Check 6: the offset of the first field that is wrong. -/
def fieldCheck (s : State) (d : List Nat) : Option Nat :=
  let outs := List.range (min 4 (dNout d))
  firstBad (headChecks s d ++ (List.range 16).flatMap (inputChecks d) ++ placeChecks d ++
    outs.flatMap (outputChecks s d) ++ [(0x200 + 0x80 * dNout d, dLe d (0x200 + 0x80 * dNout d) 0x180 == 0)])

/-! ### Check 7: formats (R290-R306, R327-R331, R337, R353, R358, R366, R393, R624) -/

/-- What a level limit depends on. -/
def levelKey (d : List Nat) (k : Nat) : List Nat :=
  [dOut d k 2 1, dOut d k 1 1, dOut d k 3 1, dOut d k 0xC 1, dOut d k 7 1, b2n (dGop d k == 0)]

/-- A level limit; those of level 6.2 and the slice limits of levels 6 and 5.1 are in the manual (spec/07, HEVC). -/
def levelLim (d : List Nat) (k which : Nat) : Nat :=
  match which, dOut d k 2 1 with
  | 0, 186 => 35651584
  | 1, 186 => 4278190080
  | 2, 180 => 600
  | 2, 183 => 600
  | 2, 186 => 600
  | 2, 153 => 200
  | w, _ => Config.levelLimit w (levelKey d k)

/-- Profile, chroma format and depth (R290, R297). -/
def profileOk (d : List Nat) (k : Nat) : Bool :=
  let c := dOut d k 0xC 1
  let b := dOut d k 7 1
  match dOut d k 1 1 with
  | 1 => dOut d k 0 1 == 1 && c == 1 && b == 8
  | 2 => dOut d k 0 1 == 1 && c == 1 && b ≤ 10
  | 4 => dOut d k 0 1 == 1 && c ≤ 3 && (b ≤ 12 || dGop d k == 0)
  | 6 => dOut d k 0 1 == 2 && c == 1 && b == 8
  | _ => false

/-- Format, level and size of an HEVC output (R291-R294, R337, R353, R358, R366). -/
def hevcOk (s : State) (d : List Nat) (k : Nat) : Bool :=
  let w := dWidth d k
  let h := dHeight d k
  profileOk d k && dOut d k 2 1 ≤ 186 && within 64 w 8192 && within 64 h 4320 && w % 8 == 0 && h % 8 == 0 &&
    decide (w * h ≤ levelLim d k 0) && decide (w * h * dNum d ≤ levelLim d k 1 * dDen d) &&
    decide (dRows d k * dStripes d k ≤ levelLim d k 2) && decide (dStripes d k ≤ dCols d k) &&
    !(dOut d k 0 1 == 2 && lowLatency d k) &&
    (dGop d k == 0 || (dSkeins d).all fun sk => decide (windowWords d k sk ≤ 393216)) &&
    !(lowLatency d k && rowTimeOver s d k 1 52) && decide (dGau d k 4 4 ≤ levelLim d k 3) &&
    decide (dGau d k 8 4 ≤ levelLim d k 4)

/-- Format and size of a JPEG XS output (R301, R302). -/
def xsOk (d : List Nat) (k : Nat) : Bool :=
  let w := dWidth d k
  let h := dHeight d k
  Config.xsSupported [dOut d k 1 1, dOut d k 2 1, w, h, dOut d k 0xC 1, dOut d k 7 1] && within 64 w 16384 &&
    within 16 h 8640 && w % 2 == 0 && h % 2 == 0 && (dOut d k 0xC 1 != 4 || dOut d k 7 1 ≤ 12)

/-- A lane input converts to an output's format (R305, R306). -/
def converts (s : State) (d : List Nat) (k i : Nat) : Bool :=
  let c := dOut d k 0xC 1
  let fmt := dOut d k 0 1
  if dIn d i 0 1 ≠ 1 then true
  else if dIn d i 3 1 = 1 then c == 1 || c == 2
  else (fmt ≥ 3 && c == 4) || (fmt ≠ 4 && dOut d k 0x14 2 ≠ 0xFFFF && (prepOf s d k).isSome)

/-- A derived output keeps to output 0 (R327, R329). -/
def derivedOk (d : List Nat) (k : Nat) : Bool :=
  !isDerived d k ||
    (k ≠ 0 && isHevc d 0 && isHevc d k && dGop d 0 ≠ 0 && dGop d k == dGop d 0 && dPeriod d k == dPeriod d 0 &&
      dRowH d k * dScale d k % dRowH d 0 == 0)

/-- Raw to the stream switch in a format it sends (R624). -/
def rawOk (d : List Nat) (k : Nat) : Bool :=
  !(bitAt (dOut d k 0x40 1) 1) || (dOut d k 0xC 1 == 2 && (dOut d k 7 1 == 10 || dOut d k 7 1 == 12))

/-- Check 7 of one output. -/
def formatOk (s : State) (d : List Nat) (k : Nat) : Bool :=
  derivedOk d k && (prepOf s d k).isSome && (List.range (dNin d)).all (converts s d k) &&
    (if isHevc d k then hevcOk s d k else if dOut d k 0 1 = 3 then xsOk d k else rawOk d k)

/-! ### Checks 8 to 16 -/

/-- Coded streams of the loaded patterns (R309). -/
def streamsNow (s : State) : Nat := (slotsUsed s).foldl (fun n k => n + streamsOf (patOf s k).desc) 0

/-- A bank of a skein that is VALID with a library revision, and with a customer image when one is named. -/
def bankHolds (s : State) (k rev cust : Nat) : Bool :=
  [false, true].any fun b =>
    let x := bankOf s k b
    decide (x.st = .valid) && x.librev == rev && (cust == 0 || (x.cvalid && x.custrev == cust))

/-- Checks 8 to 13 (R317). -/
def stateChecks (s : State) (d : List Nat) : Option LoadFail :=
  let streams := streamsNow s + streamsOf d
  let fig := needleFigure s d
  let ld := dLe d 0x050 4
  let rev := dLe d 0x00C 2
  let cust := dLe d 0x00E 2
  if streams > 128 then failAs 0x07 0 streams
  else if ld < fig then failAs 0x08 0x050 (ceilDiv fig 1000)
  else
    match (dNeedles d).find? fun n => !domUp s n || (ndlOf s n).bound.isSome || (ndlOf s n).slot.isSome with
    | some n => failAs 0x09 0x180 n
    | none =>
      if (dNeedles d).length * 1200 < ld then failAs 0x0A 0x180 (ceilDiv ld 1200)
      else
        match (dSkeins d).find? fun k => !bankHolds s k rev 0 with
        | some k => failAs 0x0B 0x00C k
        | none =>
          match (dSkeins d).find? fun k => !bankHolds s k rev cust with
          | some k => failAs 0x0C 0x00E k
          | none => none

/-- The rate of a descriptor is that of RCK_FMT or a half, third or quarter of it (R319). -/
def rateFits (s : State) (d : List Nat) : Bool :=
  [1, 2, 3, 4].any fun m => dNum d * fmtDen s * m == fld s F.RCK_FMT_NUM * dDen d

/-- The distributor that DSEL names in a skein. -/
def dselOf (d : List Nat) (k : Nat) : Nat := b2n (bitAt (dLe d 0x190 2) k)

/-- A camera-bond input is available (R319). -/
def cameraAvail (s : State) (d : List Nat) (i : Nat) : Bool :=
  let b := dIn d i 1 1
  let p := dIn d i 2 1
  b == lfiBase s b && (List.range (bondOf s b).2).all (fun j => flag s F.LANE_CTRL_EN (b + j)) && portOn s b p &&
    !patternReads s b p && (porterClaims s b p).isNone &&
    (dSkeins d).all (fun k => (distOf s k (dselOf d k)).slot.isNone && !distOn s k (dselOf d k)) && rateFits s d

/-- Coded streams of a take: the STREAM records of KIND 2 with the format of an IFMT, as stream numbers (R664). -/
def takeStreams (s : State) (m take ifmt : Nat) : List Nat :=
  match (magOf s m).dir.find? fun t => t.take == take with
  | none => []
  | some t =>
    if !t.closed then []
    else
      (t.streams.filter fun r => r.getD 8 0 == 2 &&
        (if ifmt = 0x11 then r.getD 0x20 0 == 3 else r.getD 0x20 0 == 1 || r.getD 0x20 0 == 2)).map fun r => r.getD 1 0

/-- The stream that a magazine input reads: the lowest that no other input reads (R664). -/
def takeStream (s : State) (d : List Nat) (i : Nat) : Option Nat :=
  let m := dIn d i 1 1
  let busy (k : Nat) : Bool := s.magIn.any fun e => e.2.mag == m && e.2.stream == k &&
    dIn (patOf s (e.1 / 16)).desc (e.1 % 16) 0xA 6 == dIn d i 0xA 6
  let l := (takeStreams s m (dIn d i 0xA 6) (dIn d i 3 1)).filter fun k => !busy k
  l.foldl (fun b k => match b with | none => some k | some j => some (min j k)) none

/-- A local Stitch stream that an input can take (R731). -/
def ownStreamOk (s : State) (stream ifmt : Nat) : Bool :=
  let n := stream / 4
  let k := stream % 4
  let d := (patOf s n).desc
  decide (n < 256) && slotUsed s n && decide (k < dNout d) && bitAt (dOut d k 0x40 1) 2 &&
    (if ifmt = 0x11 then dOut d k 0 1 == 3 else isHevc d k) &&
    decide ((s.sth.subs.filter fun u => u.stream == stream).length < 8)

/-- The source of a coded input is configured (R578, R664, R731). `avail` says which Stitch inputs another device can
serve: the device sees that only by asking (notes/assumptions/20.md). -/
def sourceOk (s : State) (d : List Nat) (avail i : Nat) : Bool :=
  let ref := dIn d i 0xA 6
  match dIn d i 0 1 with
  | 2 => ref ≠ 0 && (slotsUsed s).all (fun n =>
      let x := (patOf s n).desc
      (List.range (dNin x)).all fun j => !(dIn x j 0 1 == 2 && dIn x j 0xA 6 == ref)) &&
      (List.range i).all (fun j => !(dIn d j 0 1 == 2 && dIn d j 0xA 6 == ref))
  | 3 =>
    let x := magOf s (dIn d i 1 1)
    (decide (x.att = .ready) || decide (x.att = .full)) && (takeStream s d i).isSome
  | 4 =>
    let dev := bitsOf ref 0 6
    let stream := bitsOf ref 8 16
    if dev = s.sth.devNo && (isManager s || joined s) then ownStreamOk s stream (dIn d i 3 1)
    else if isManager s then decide ((tabGet .reset s.sth.roster dev).st = .joined) && bitAt avail i
    else joined s && bitAt avail i
  | _ => false

/-- Input i is available (R319, R320, R525). -/
def inputAvail (s : State) (d : List Nat) (avail i : Nat) : Bool :=
  if dIn d i 0 1 = 1 then cameraAvail s d i
  else
    let p := dOut d 0 0x48 1
    let before := ((List.range (i + 1)).filter fun j => dIn d j 0 1 != 1).length * 2 + entriesFrom d (dNout d) p
    poolOn s p && poolReady s p && decide (before ≤ poolFree s p) && quotaFits s (patOwner d) p before &&
      sourceOk s d avail i

/-- A sum over the loaded patterns and the one being loaded (R325). -/
def admitSum (s : State) (d : List Nat) (f : List Nat → Nat) : Nat :=
  (slotsUsed s).foldl (fun n k => n + f (patOf s k).desc) (f d)

/-- What a pattern charges a bay (R326). -/
def bayCharge (b : Nat) (d : List Nat) : Nat := ceilDiv (dLe d 0x054 4 * dLe d (0x06C + b) 1) 255

/-- What a pattern charges a port (R326). -/
def portCharge (p : Nat) (d : List Nat) : Nat :=
  (List.range (dNout d)).foldl (fun n k =>
    n + (if bitAt (dOut d k 0x40 1) 1 && dOut d k 0x42 1 == p then dOut d k 0x1C 4 else 0)) 0

/-- Check 16: the first resource that would be exceeded, with its bay or port (R35, R36, R86, R326). -/
def capacity (s : State) (d : List Nat) : Option (Nat × Nat) :=
  if admitSum s d (needleFigure s) > 153600 then some (1, 0)
  else if admitSum s d (fun x => dLe x 0x054 4) > 460800 then some (2, 0)
  else if admitSum s d (fun x => dLe x 0x058 4) > 48000 then some (3, 0)
  else if admitSum s d (fun x => dLe x 0x05C 4) > 600000 then some (4, 0)
  else if admitSum s d (fun x => dLe x 0x060 4) > 736000 then some (5, 0)
  else
    match (List.range 4).find? fun b => decide (admitSum s d (bayCharge b) > 115200) with
    | some b => some (6, b)
    | none =>
      ((List.range 24).find? fun p =>
        decide (admitSum s d (portCharge p) > (if gangLead s p then 100000 else 25000))).map fun p => (7, p)

/-! ### Completion (R316) -/

/-- A command of SYS_PLCMD completes: SYS_PLSTAT, PLDONE. -/
def plShow (slot req result resource : Nat) (s : State) : State :=
  let s := setFld F.SYS_PLSTAT_RESULT result (setFld F.SYS_PLSTAT_RESOURCE resource s)
  raise 709 { setFld F.SYS_PLSTAT_SLOT slot (setFld F.SYS_PLSTAT_REQ req s) with pl := none }

/-- A load completes with its STATUS (R316). -/
def loadDone (slot req addr : Nat) (r : Option LoadFail) (s : State) : State :=
  let f := r.getD ⟨0, 0, 0, 0, 0⟩
  let b := [f.result, f.detail] ++ leBytes 2 f.offset ++ leBytes 2 f.extra ++ [0, 0]
  plShow slot req f.result f.resource (writeBytes 235 b (addr + 0x78) s).2

/-! ### What a successful load does (R308, R321, R378, R390, R427, R438, R467) -/

/-- Write words into a local store from a word address. -/
def lsWrite (n : Nat) : Nat → List Native → State → State
  | _, [], s => s
  | w, v :: t, s => lsWrite n (w + 1) t (lsPut n w v s)

/-- A needle takes its place in a slot (R321, R755). -/
def placeNeedle (slot : Nat) (d : List Nat) (code micro : List Native) (rank n : Nat) (s : State) : State :=
  let count := (dNeedles d).length
  let i := (List.range (dNin d)).findIdx fun i => dIn d i 0 1 == 1
  let first := (stripeOf d rank count ((dIn d i 4 2 + 5) / 6)).1
  let s := lsWrite n 0x7800 micro (lsWrite n 0 code s)
  let s := setFld F.NDL_CTL_IMASK (dLe d 0x193 1) (setFld F.NDL_CTL_FVEC (dLe d 0x194 1) s n) n
  let s := setFld F.NDL_HRANGE_HBASE (dLe d 0x01C 2) (setFld F.NDL_HRANGE_HLIM (dLe d 0x01E 2) s n) n
  let v31 := BitVec.ofNat 72 (rank % 256 + count % 256 * 256 + first % 65536 * 65536)
  setNdlSt n .idle (modNdl n (fun x => { Ndl.reset with
    st := x.st, cyc := x.cyc, busyCyc := x.busyCyc, stallCyc := x.stallCyc, slot := some slot
    a := tabSet 0 [] 15 (dLe d 0x198 2), v := tabSet 0 [] 31 v31 }) s)

/-- The camera inputs of a descriptor. -/
def cameraInputs (d : List Nat) : List Nat := (List.range (dNin d)).filter fun i => dIn d i 0 1 == 1

/-- The load sets the chosen distributor of each skein (R321): with several camera inputs, the skeins take them in turn
(notes/assumptions/20.md). -/
def placeDists (slot : Nat) (d : List Nat) (s : State) : State :=
  let cams := cameraInputs d
  if cams.isEmpty then s
  else
    let ks := dSkeins d
    forEach (List.range ks.length) (fun r s =>
      let k := ks.getD r 0
      let i := cams.getD (r % cams.length) 0
      let w := 2 ^ 31 + dIn d i 2 1 * 2 ^ 30 + dIn d i 1 1 % 64 * 2 ^ 24 + bitsOf (dLe d 0x180 16) (8 * k) 8
      let ign := bitsOf (distWord s k (dselOf d k)) 16 8 * 2 ^ 16
      let s := setRword (distReg (dselOf d k)) k 0 0 (w + ign) s
      modDist k (dselOf d k) (fun _ => ⟨some slot⟩) s) s

/-- Allocate n buffers for a pattern: their handles, or none when the pool does not supply them all. -/
def takeBuffers (owner p : Nat) : Nat → State → Option (List Nat) × State
  | 0, s => (some [], s)
  | n + 1, s =>
    match stlAllocOp owner p s with
    | (.error _, s) => (none, s)
    | (.ok h, s) =>
      match takeBuffers owner p n s with
      | (some l, s) => (some (h :: l), s)
      | (none, s) => (none, (stlFreeOp owner h s).2)

/-- A pool entry that holds nothing. -/
def freshEntry (h : Nat) : PoolEntry := ⟨h, .unused, false, false, false, 0, 0, false, 0⟩

/-- The reference pool of one view of an output, from a pool (R378); false when it cannot supply it. -/
def takeRefs (owner p slot k v n : Nat) (s : State) : Bool × State :=
  match takeBuffers owner p n s with
  | (some l, s) => (true, modEnc slot k (fun e => { e with refs := tabSet [] e.refs v (l.map freshEntry) }) s)
  | (none, s) => (false, s)

/-- Output k of a pattern just loaded (R378, R390, R427, R438). -/
def placeOutput (slot : Nat) (d : List Nat) (k : Nat) (s : State) : State :=
  let s := forEach (List.range (dViews d k)) (fun v s =>
    if dEntries d k = 0 then s else (takeRefs (patOwner d) (dOut d k 0x48 1) slot k v (dEntries d k) s).2) s
  if !isHevc d k then s
  else
    let (qi, qp, ti, tp, x, src) := seedOf s d k
    modGau slot k (fun g => { g with qpI := qi, qpP := qp, thI := ti, thP := tp, seedX := x, seedsrc := src }) s

/-- An input that is no camera bond: its two buffers, its stream of a take or its subscription (R320, R664, R731). -/
def placeInput (slot : Nat) (d : List Nat) (i : Nat) (s : State) : State :=
  let src := dIn d i 0 1
  if src = 1 then s
  else
    let (l, s) := takeBuffers (patOwner d) (dOut d 0 0x48 1) 2 s
    let s := modDec slot i (fun x => { x with bufs := l.getD [] }) s
    match src with
    | 3 =>
      let m := dIn d i 1 1
      match takeStream s d i with
      | some k => { s with magIn := tabInsert (tabErase s.magIn (16 * slot + i)) (16 * slot + i) ⟨m, k, none, 0, []⟩ }
      | none => s
    | 4 =>
      let dev := bitsOf (dIn d i 0xA 6) 0 6
      let stream := bitsOf (dIn d i 0xA 6) 8 16
      if dev = s.sth.devNo then modSth (fun t => { t with subs := t.subs ++ [⟨stream, dev, 0⟩] }) s
      else sendMsg dev (.subscribe stream true) s
    | _ => s

/-- All that a successful load does. -/
def placePattern (slot : Nat) (d : List Nat) (code : List Native) (s : State) : State :=
  let micro := ((libOf s (dLe d 0x00C 2)).map LibEntry.micro).getD []
  let ns := dNeedles d
  let s := modPat slot (fun _ => { Pat.reset with st := .loaded, desc := d }) s
  let s := forEach (List.range ns.length) (fun r s => placeNeedle slot d code micro r (ns.getD r 0) s) s
  let s := forEach (List.range (dNout d)) (placeOutput slot d) (placeDists slot d s)
  forEach (List.range (dNin d)) (placeInput slot d) s

/-! ### The load (R317) -/

/-- Read the code image with its tags as the pattern's lowest needle, as 72-bit words. -/
def readCode (d : List Nat) (s : State) : Option (List Native) × State :=
  match readWords (patOwner d) 72 (dLe d 0x018 4) (dLe d 0x010 6) s with
  | ((l, none), s) => (some l, s)
  | ((_, some _), s) => (none, s)

/-- The bytes over which CODE_HASH is taken: nine a word, tag first. -/
def codeBytes (l : List Native) : List Nat := l.flatMap fun v => bitsOf v.toNat 64 8 :: leBytes 8 v.toNat

/-- Checks 15 and 16, and the load itself. -/
def loadRest (c : PlCmd) (s : State) : State :=
  let d := c.desc
  match (List.range (dNin d)).find? fun i => !inputAvail s d c.avail i with
  | some i => loadDone c.slot c.req c.addr (failAs 0x0D 0 i) s
  | none =>
    match capacity s d with
    | some (r, x) => loadDone c.slot c.req c.addr (some ⟨1, 0x0F, 0, r + 256 * x, r⟩) s
    | none =>
      match readCode d s with
      | (some code, s) => loadDone c.slot c.req c.addr none (placePattern c.slot d code s)
      | (none, s) => loadDone c.slot c.req c.addr (some ⟨3, 0x04, 0, 0, 0⟩) s

/-- The manager's own placements name a device for this part (R318). -/
def placedHere (s : State) (d : List Nat) (dev : Nat) : Bool :=
  match placementOf s (dStage d) with
  | none => false
  | some p =>
    p.parts.length == dLe d 0x06B 1 &&
      (match p.parts[dLe d 0x06A 1]? with | some (n, rev) => n == dev && rev == dLe d 0x00C 2 | none => false)

/-- Check 14 fails. -/
def placementFail (c : PlCmd) (s : State) : State :=
  loadDone c.slot c.req c.addr (failAs 0x10 0x06A (dLe c.desc 0x06A 1)) s

/-- Check 14 (R318): a manager consults its placements, a joined worker asks, any other device fails. -/
def loadPlaced (c : PlCmd) (s : State) : State :=
  let d := c.desc
  if dStage d = 0 then loadRest c s
  else if isManager s then (if placedHere s d 0 then loadRest c s else placementFail c s)
  else if isWorker s && joined s then
    let q : StMsg := .placeQuery c.slot (dStage d) (dLe d 0x06A 1) (dLe d 0x06B 1) (dLe d 0x00C 2)
    { sendMsg 0 q s with pl := some { c with askedAt := some s.now } }
  else placementFail c s

/-- Checks 4 to 13, from the descriptor's bytes on. -/
def loadChecks (c : PlCmd) (s : State) : State :=
  let d := c.desc
  let fail (r : Option LoadFail) (s : State) : State := loadDone c.slot c.req c.addr r s
  let blk := d.drop (d.length - 128)
  let msg := (d.take 0x78 ++ List.replicate 8 0 ++ d.drop 0x80).take (d.length - 128)
  if dLe d 0 4 ≠ 0x44505154 then fail (failAs 0x02 0 0) s
  else if dLe d 4 2 ≠ 1 then fail (failAs 0x02 4 0) s
  else if dLe d 8 4 ≠ 0x400 + 0x80 * dNout d then fail (failAs 0x02 8 0) s
  else if !(sigNames (patternKey s) blk && (blk.drop 8).take 24 == List.replicate 24 0 && sigVerifies (patternKey s) msg blk) then
    fail (some ⟨3, 0x03, 0, 0, 0⟩) s
  else
    match readCode d s with
    | (none, s) => fail (some ⟨3, 0x04, 0, 0, 0⟩) s
    | (some code, s) =>
      if shaBytes (codeBytes code) != (d.drop 0x020).take 48 then fail (some ⟨3, 0x04, 0, 0, 0⟩) s
      else
        match fieldCheck s d with
        | some o => fail (failAs 0x05 o 0) s
        | none =>
          match (List.range (dNout d)).find? fun k => !formatOk s d k with
          | some k => fail (failAs 0x06 (0x200 + 0x80 * k) k) s
          | none =>
            match stateChecks s d with
            | some r => fail (some r) s
            | none => loadPlaced c s

/-- Modes in which a pattern may be loaded. -/
def loadMode (s : State) : Bool := canFire s.pwr.mode

/-- A descriptor lies on a 64-byte boundary in core SRAM or RLD. -/
def descAddrOk (a : Nat) : Bool :=
  a % 64 == 0 && ((decide (0x10000000 ≤ a) && decide (a < 0x10800000)) ||
    (decide (0x100000000000 ≤ a) && decide (a < 0x100800000000)))

/-- The load command (R317, checks 1 to 3 first). -/
def plLoad (slot req addr avail : Nat) (s : State) : State :=
  let c : PlCmd := ⟨slot, req, true, [], addr, avail, none⟩
  let s := { s with pl := some c }
  if !loadMode s then loadDone slot req addr (failAs 0x01 0 s.pwr.mode.code) s
  else if (patOf s slot).st ≠ .empty then loadDone slot req addr (some ⟨4, 0x0E, 0, 0, 0⟩) s
  else if !descAddrOk addr then plShow slot req 2 0 s
  else
    match readBytes 235 16 addr s with
    | (none, s) => plShow slot req 2 0 s
    | (some h, s) =>
      match readBytes 235 (max 0x400 (min (dLe h 8 4) 0x8400)) addr s with
      | (none, s) => plShow slot req 2 0 s
      | (some d, s) => loadChecks { c with desc := d } s

/-- The words of SYS_PLCMD. -/
def plWords (op slot addr : Nat) : List Nat := [addr % 2 ^ 32, addr / 2 ^ 32 % 2 ^ 16, op * 256 + slot]

/-- A command is being processed (R85). -/
def plBusy (s : State) (_ : List Nat) : Option Berr := busyIf s.pl.isSome

/-- PATTERN_LOAD (R317). `avail` bit i: the Stitch stream of input i exists with its IFMT and has room (R731). -/
def execPatternLoad (req : Req) (slot : Fin 256) (addr : BitVec 48) (avail : BitVec 16) (s : State) : Out :=
  .next (commitWords .SYS_PLCMD 0 0 req (plWords 1 slot.val addr.toNat) (plBusy s) anyOk
    (fun _ => plLoad slot.val req.val addr.toNat avail.toNat) s)

/-- The manager's answer arrives (R318). -/
def execPlacementCheckAnswer (link : Fin 8) (h : FlitHdr) (slot : Fin 256) (ok : Bool) (s : State) : Out :=
  .next (rxOwn link.val h (fun s =>
    match s.pl with
    | some c =>
      if c.askedAt.isSome && c.slot == slot.val then (if ok then loadRest c s else placementFail c s) else s
    | none => s) s)

/-- No answer within RRATMO µs (R318). -/
def execPlacementCheckTimeout (s : State) : Out :=
  match s.pl with
  | some c =>
    match c.askedAt with
    | some t =>
      if s.now ≥ t + fld s F.STH_SCTRL_RRATMO * 1000 then .next (placementFail c s) else .next s
    | none => .next s
  | none => .next s

/-! ### Unload (R332-R334) -/

/-- The unload command: every needle takes the abort and HALT; a needle in FAULT halts at once. -/
def plUnload (slot req : Nat) (s : State) : State :=
  let st := (patOf s slot).st
  if st = .empty || st = .unloading then plShow slot req 4 0 s
  else
    let s := { s with pl := some ⟨slot, req, false, [], 0, 0, none⟩ }
    let s := modPat slot (fun p => { p with st := .unloading }) s
    forEach (slotNeedles s slot) (fun n s => askHalt n true (askAbort n 1 s)) s

/-- PATTERN_UNLOAD (R332, R334). -/
def execPatternUnload (req : Req) (slot : Fin 256) (s : State) : Out :=
  .next (commitWords .SYS_PLCMD 0 0 req (plWords 2 slot.val 0) (plBusy s) anyOk (fun _ => plUnload slot.val req.val) s)

/-- Every needle of a slot has halted. -/
def slotHalted (s : State) (slot : Nat) : Bool :=
  (slotNeedles s slot).all fun n => decide ((ndlOf s n).st = .halt) || !domUp s n

/-- Every buffer of an output or input returns: entries UNUSED and freed, the buffer of a picture in progress freed. -/
def freeHandles (owner : Nat) (l : List Nat) (s : State) : State := forEach l (fun h s => (stlFreeOp owner h s).2) s

/-- The SEED record of an output (R428, R811). -/
def seedRecord (s : State) (d : List Nat) (k : Nat) (g : Gau) : LdgRec :=
  mkRec s 5 0 (seedKeyOf d k ++ [byteOf g.qpI, byteOf g.qpP] ++ leBytes 4 g.thI ++ leBytes 4 g.thP ++ leBytes 4 g.seedX)

/-- Seed records of a slot's outputs, when SEEDWR allows them (R428). -/
def writeSeeds (slot : Nat) (s : State) : State :=
  let d := (patOf s slot).desc
  if !flag s F.GAU_CTRL_SEEDWR then s
  else forEach ((List.range (dNout d)).filter (isHevc d)) (fun k s => ldgPush (seedRecord s d k (gauOf s slot k)) s) s

/-- The handles that a slot's outputs and inputs hold. -/
def slotHandles (s : State) (slot : Nat) : List Nat :=
  let p := patOf s slot
  let outs := p.outs.flatMap fun e =>
    (e.2.refs.flatMap fun r => r.2.map PoolEntry.handle) ++ (match e.2.pic with | some c => c.buf.toList | none => [])
  let ins := p.ins.flatMap fun e => e.2.bufs ++ (e.2.pool ++ e.2.old).map PoolEntry.handle
  outs ++ ins

/-- The subscriptions and magazine reads of a slot end (R664, R731). -/
def releaseInputs (slot : Nat) (d : List Nat) (s : State) : State :=
  forEach (List.range (dNin d)) (fun i s =>
    match dIn d i 0 1 with
    | 3 => { s with magIn := tabErase s.magIn (16 * slot + i) }
    | 4 =>
      let dev := bitsOf (dIn d i 0xA 6) 0 6
      let stream := bitsOf (dIn d i 0xA 6) 8 16
      if dev = s.sth.devNo then
        modSth (fun t => { t with subs := t.subs.eraseP fun u => u.stream == stream && u.dev == dev }) s
      else sendMsg dev (.subscribe stream false) s
    | _ => s) s

/-- The slot's needles and distributors are released (R333). -/
def releasePlace (slot : Nat) (d : List Nat) (s : State) : State :=
  let s := forEach (dNeedles d) (fun n s =>
    modNdl n (fun x => { x with slot := none, bound := none, started := false, ring := [], seen := [] }) s) s
  forEach (dSkeins d) (fun k s =>
    let e := dselOf d k
    if (distOf s k e).slot = some slot then modDist k e (fun _ => .reset) (setRword (distReg e) k 0 0 (bitsOf (distWord s k e) 16 8 * 2 ^ 16) s)
    else s) s

/-- Domains whose isolation waited for the slot that served them switch down (R797). -/
def isoRelease (s : State) : State :=
  let ds := (List.range 214).filter fun d => bitAt s.pwr.isoWait.toNat d && !domainServes s d
  let left := ds.foldl (fun m d => setBits m d 1 0) s.pwr.isoWait.toNat
  let s := { s with pwr := { s.pwr with isoWait := BitVec.ofNat 214 left } }
  addSwitching ((ds.filter (domUp s)).map fun d => (d, false)) s

/-- All that the end of an unload does (R333). -/
def unloadEnd (slot : Nat) (s : State) : State :=
  let d := (patOf s slot).desc
  let s := freeHandles (patOwner d) (slotHandles s slot) (writeSeeds slot s)
  let s := releasePlace slot d (releaseInputs slot d s)
  isoRelease (modPat slot (fun _ => .reset) s)

/-- UNLOAD_COMPLETE (R333): SYS_PLSTAT reports a commanded unload. -/
def execUnloadComplete (slot : Fin 256) (s : State) : Out :=
  let n := slot.val
  if (patOf s n).st ≠ .unloading || !slotHalted s n then .next s
  else
    let s' := unloadEnd n s
    match s.pl with
    | some c => if c.slot = n && !c.load then .next (plShow n c.req 0 0 s') else .next s'
    | none => .next s'

end Sys2Proof.Machine
end

