-- ==== Sys2Proof/Machine/Power.lean ====
section
/-! DEFINITION. Power domains, mode commands, wakes, bind-off, the power-fail schedule, resets and the supplies (spec/20
R772-R794; spec/22 R833-R835, R843). -/

namespace Sys2Proof.Machine

/-- Change PWR. -/
def modPwr (f : Pwr → Pwr) (s : State) : State := { s with pwr := f s.pwr }

/-! ### Domain requests (R775, R776, R778, R797) -/

/-- Modes in which every needle domain is held down (R779). -/
def needlesHeld (m : Mode) : Bool :=
  match m with
  | .castOn | .standby | .update => true
  | _ => false

/-- The request of a domain after a write of word w. -/
def reqAfter (s : State) (w v d : Nat) : Bool := if d / 32 = w then bitAt v (d % 32) else domReq s d

/-- A core executes: AC0 always, the others once the stage image has released them (R757). -/
def coreRuns (s : State) (n : Nat) : Bool := n == 0 || s.pwr.coresReleased

/-- A porter group has a channel that is neither IDLE nor OFF (R550). -/
def groupBusy (s : State) (g : Nat) : Bool :=
  (List.range 16).any fun i =>
    let x := tabGet .reset s.prt (16 * g + i)
    decide (x.st ≠ .idle) && decide (x.st ≠ .off)

/-- A write that R775 or R797 refuses. -/
def reqRefused (s : State) (w v : Nat) : Bool :=
  let new := reqAfter s w v
  (List.range 214).any fun d =>
    (new d && (domRequires d).any fun r => !new r) ||
      (new d && bitAt s.pwr.iso.toNat d) || (decide (144 ≤ d) && decide (d < 160) && (new d != new (bayLead d)))

/-- A down request that R778 refuses. -/
def reqBusy (s : State) (w v : Nat) : Bool :=
  (List.range 214).any fun d =>
    domReq s d && !reqAfter s w v d &&
      ((decide (d < 128) && (ndlOf s d).bound.isSome) || (decide (204 ≤ d) && decide (d < 208) && groupBusy s (d - 204)))

/-- Refusals of a write of PWR_DOMREQw. -/
def domReqRefusal (s : State) (w : Nat) (v : List Nat) : Option Berr :=
  if reqRefused s w (v.getD 0 0) then some .domoff else busyIf (reqBusy s w (v.getD 0 0))

/-- Whether a domain will be up once the steps that wait have ended. -/
def upAfter (s : State) (d : Nat) : Bool :=
  match s.pwr.switching.reverse.find? fun e => e.1 == bayLead d with
  | some e => e.2
  | none => domUp s d

/-- The steps of a write: `old` is the state before it. Needles held down and cores that execute wait. -/
def domReqEffect (old : State) (w : Nat) (v : List Nat) (s : State) : State :=
  let x := v.getD 0 0
  let ds := (List.range 214).filter fun d => decide (d / 32 = w) && (domReq old d != reqAfter old w x d)
  let ups := ds.filter fun d =>
    reqAfter old w x d && !upAfter old d && !(decide (d < 128) && needlesHeld old.pwr.mode)
  let downs := ds.filter fun d =>
    !reqAfter old w x d && upAfter old d && !(decide (192 ≤ d) && decide (d < 200) && coreRuns old (d - 192))
  let l := switchSteps downs ups
  if l.isEmpty then s else addSwitching (l ++ [(255, true)]) s

/-- PWR_DOMREQ_COMMIT (R775). -/
def execPwrDomreqCommit (w : Fin 7) (a : Acc) (s : State) : Out :=
  .next (regCommit .PWR_DOMREQ 0 w.val a (domReqRefusal s w.val) anyOk (domReqEffect s w.val) s)

/-- The marks at the head of the steps that wait: the end of a write's steps raises DOMDONE (R776), the end of an
entry's steps completes its command (R782). -/
def passMarks : List (Nat × Bool) → State → State
  | (255, _) :: l, s => passMarks l (raise 773 (modPwr (fun p => { p with switching := l }) s))
  | (254, _) :: l, s =>
    passMarks l (setFld F.PWR_CMDRES_RESULT 0 (modPwr (fun p => { p with switching := l, cmdBusy := false }) s))
  | _, s => s

/-- A step has ended. -/
def stepsGo (s : State) : State := passMarks s.pwr.switching s

/-- DOMAIN_SWITCH_DONE (R776): a domain comes up only while those it requires are up (R774) and the mode lets it
(R779). -/
def execDomainSwitchDone (s : State) : Out :=
  match s.pwr.switching with
  | [] => .next s
  | (d, up) :: l =>
    let s := modPwr (fun p => { p with switching := l }) s
    let s :=
      if !up then domDown d s
      else if requiresUp s d && !(decide (d < 128) && needlesHeld s.pwr.mode) then domStart d s
      else s
    .next (stepsGo s)

/-- The domains among the ups of one write that fall with a failed domain (R777). -/
def failedWith (d : Nat) (l : List (Nat × Bool)) : List Nat :=
  l.foldl (fun fs e => if e.2 && (domRequires e.1).any (fun r => fs.contains (bayLead r)) then fs ++ [e.1] else fs) [d]

/-- DOMFAIL (R777): the domain that switches up does not reach power-good. -/
def execDomfail (s : State) : Out :=
  match s.pwr.switching with
  | (d, true) :: l =>
    if d ≥ 214 then .next s
    else
      let seg := l.takeWhile fun e => decide (e.1 < 214)
      let fs := failedWith d seg
      let rest := (seg.filter fun e => !(e.2 && fs.contains e.1)) ++ l.drop seg.length
      let s := modPwr (fun p => { p with switching := rest }) s
      let s := forEach (fs.flatMap withBay) (setDomReq · false) s
      .next (stepsGo (report 0x1C 0 d 255 (bump F.PWR_CNT_DOMFAIL s)))
  | _ => .next s

/-- CORE_WFI_SLEEP (R778): a WFI that finds no deliverable source lets a pending down request take effect. -/
def execCoreWfiSleep (core : Fin 8) (s : State) : Out :=
  let n := core.val
  let d := 192 + n
  .next (if baseUp s && domUp s d && !domReq s d && upAfter s d && (deliverables s n).isEmpty then
    addSwitching [(d, false), (255, true)] s
  else s)

/-- WAKE_EVENT (R780): for a core, or for the receiver of a Stitch link; in AWNING a core's request wakes the device. -/
def execWakeEvent (stitch : Bool) (idx : Fin 8) (s : State) : Out :=
  if s.pwr.mode = .awning then .next (if stitch then s else (wakeCore idx.val s).1)
  else if !baseUp s then .next s
  else .next (mbxWake ((if stitch then 224 else 128) + idx.val) s)

/-- A domain's isolation is cleared (R797). -/
def isoClear (v : List Nat) (s : State) : State :=
  let d := valOf v F.PWR_ISOCLR_DOMAIN
  modPwr (fun p => { p with iso := BitVec.ofNat 214 (setBits p.iso.toNat d 1 0) }) s

/-- PWR_ISOCLR (R797). -/
def execPwrIsoclr (a : Acc) (s : State) : Out := .next (regCommit .PWR_ISOCLR 0 0 a neverBusy anyOk isoClear s)

/-! ### Mode commands (R782-R785, R790) -/

/-- A command that is refused: it changes nothing but RESULT. -/
def cmdRefused (r : Nat) (s : State) : State := setFld F.PWR_CMDRES_RESULT r s

/-- A permitted command: BUSY until the switching of its entry has ended (R782). -/
def cmdEnter (go : State → State) (s : State) : State :=
  let n := s.pwr.switching.length
  let s := go s
  if s.pwr.switching.length = n then setFld F.PWR_CMDRES_RESULT 0 s
  else addSwitching [(254, true)] (modPwr (fun p => { p with cmdBusy := true }) s)

/-- The mode that RESUME leads to (R784). -/
def resumeMode (s : State) : Mode :=
  if s.pwr.held then .holdover
  else if anyRunning s then .run
  else match s.pwr.degradedFrom with
    | .armed | .run | .holdover => .armed
    | _ => .standby

/-- STANDBY. -/
def cmdStandby (s : State) : State :=
  match s.pwr.mode with
  | .service | .update => cmdEnter (toStandby 0) s
  | .armed => if allEmpty s then cmdEnter (setMode .standby 0) s else cmdRefused 2 s
  | _ => cmdRefused 1 s

/-- ARM (R103). -/
def cmdArm (s : State) : State :=
  match s.pwr.mode with
  | .standby =>
    if s.rck.servo = .locked || (s.rck.servo = .slew && s.pwr.armedOnce) then cmdEnter (setMode .armed 0) s
    else cmdRefused 2 s
  | .run => if anyRunning s then cmdRefused 2 s else cmdEnter (setMode .armed 0) s
  | _ => cmdRefused 1 s

/-- RUN. -/
def cmdRun (s : State) : State :=
  match s.pwr.mode with
  | .armed => cmdEnter (setMode .run 0) s
  | _ => cmdRefused 1 s

/-- RESUME (R784). -/
def cmdResume (s : State) : State :=
  match s.pwr.mode with
  | .degraded => if (unmet s).isSome then cmdRefused 2 s else cmdEnter (setMode (resumeMode s) 0) s
  | _ => cmdRefused 1 s

/-- SERVICE. -/
def cmdService (s : State) : State :=
  match s.pwr.mode with
  | .standby =>
    if bitAt s.sec.scopes 2 || bitAt s.sec.scopes 3 then cmdEnter (setMode .service 0) s else cmdRefused 2 s
  | _ => cmdRefused 1 s

/-- UPDATE. -/
def cmdUpdate (s : State) : State :=
  match s.pwr.mode with
  | .standby => cmdEnter (setMode .update 0) s
  | _ => cmdRefused 1 s

/-- Modes from which bind-off begins (R782). -/
def canBindOff (m : Mode) : Bool :=
  match m with
  | .standby | .armed | .run | .holdover | .degraded | .service | .update => true
  | _ => false

/-- Every slot that is not EMPTY is unloaded (R790, step 2). -/
def unloadAll (s : State) : State :=
  forEach ((slotsUsed s).filter fun n => decide ((patOf s n).st ≠ .unloading)) (fun n s =>
    let s := modPat n (fun p => { p with st := .unloading }) s
    forEach (slotNeedles s n) (fun k s => askHalt k true (askAbort k 1 s)) s) s

/-- BINDOFF (R790): steps 1 and 2. -/
def cmdBindoff (stay : Bool) (s : State) : State :=
  if canBindOff s.pwr.mode then
    let s := setMode .bindOff 0 s
    unloadAll (modPwr (fun p => { p with
      cmdBusy := true, stay := stay, byCommand := true, bindStep := 2, bindAt := s.now }) s)
  else cmdRefused 1 s

/-- A mode command by its OP. -/
def modeCommand (v : List Nat) (s : State) : State :=
  match valOf v F.PWR_MODECMD_OP with
  | 1 => cmdStandby s
  | 2 => cmdArm s
  | 3 => cmdRun s
  | 4 => cmdResume s
  | 5 => cmdService s
  | 6 => cmdUpdate s
  | _ => cmdBindoff (valOf v F.PWR_MODECMD_STAY == 1) s

/-- A command is in progress. -/
def modeCmdBusy (s : State) (_ : List Nat) : Option Berr := busyIf s.pwr.cmdBusy

/-- A write of PWR_MODECMD. -/
def modeWrite (req : Req) (word : Nat) (s : State) : State :=
  commitWords .PWR_MODECMD 0 0 req [word] (modeCmdBusy s) anyOk modeCommand s

/-- STANDBY (R782, R785). -/
def execModeStandby (req : Req) (s : State) : Out := .next (modeWrite req (1 * 2 ^ 28) s)

/-- ARM (R782). -/
def execModeArm (req : Req) (s : State) : Out := .next (modeWrite req (2 * 2 ^ 28) s)

/-- RUN (R782). -/
def execModeRun (req : Req) (s : State) : Out := .next (modeWrite req (3 * 2 ^ 28) s)

/-- RESUME (R784). -/
def execModeResume (req : Req) (s : State) : Out := .next (modeWrite req (4 * 2 ^ 28) s)

/-- SERVICE (R782). -/
def execModeService (req : Req) (s : State) : Out := .next (modeWrite req (5 * 2 ^ 28) s)

/-- UPDATE (R782). -/
def execModeUpdate (req : Req) (s : State) : Out := .next (modeWrite req (6 * 2 ^ 28) s)

/-- BINDOFF (R790). -/
def execModeBindoff (req : Req) (stay : Bool) (s : State) : Out :=
  .next (modeWrite req (7 * 2 ^ 28 + b2n stay * 2 ^ 27) s)

/-! ### The end of bind-off (R790, R792) -/

/-- Ports with a take open. -/
def openTakes (s : State) : List Nat := (List.range 16).filter fun m => (magOf s m).take.isSome

/-- Step 4: seed records, oscillator record, Tally snapshot (R428, R106, R820). -/
def bindStep4 (s : State) : State :=
  let s := forEach (slotsUsed s) writeSeeds s
  let s := snapDue (takeFree (ldgPush (oscRecord s) s))
  modPwr (fun p => { p with bindStep := 4 }) s

/-- The Ledger has nothing left to commit. -/
def ldgIdle (s : State) : Bool := !s.ldg.ready || (s.ldg.queue.isEmpty && s.ldg.pfail.isEmpty && s.tly.snap.isNone)

/-- Step 5: FROZEN after a HALT report, else AWNING (R782, R790, R792). -/
def bindEnd (s : State) : State :=
  if s.pwr.haltPending then
    setMode .frozen 7 (modPwr (fun p => { p with haltPending := false, pfwAt := none, pfwStep := 0 }) s)
  else
    let hold := if s.pwr.byCommand then s.pwr.stay else s.pwr.holdaw
    modPwr (fun p => { p with holdaw := hold }) (powerOff s)

/-- The steps of a commanded bind-off, as far as they can go now (R790). -/
def bindEngine (s : State) : State :=
  if s.pwr.mode ≠ .bindOff || !s.pwr.byCommand || s.pwr.pfwAt.isSome then s
  else
    match s.pwr.bindStep with
    | 2 =>
      if allEmpty s then
        let s := forEach ((openTakes s).filter fun m => (magOf s m).ending.isNone) (fun m s => closeTake m 3 s) s
        modPwr (fun p => { p with bindStep := 3 }) s
      else s
    | 3 => if (openTakes s).isEmpty then bindStep4 s else s
    | 4 => if ldgIdle s then bindEnd s else s
    | _ => s

/-- BINDOFF_TIMEOUT (R790). -/
def execBindoffTimeout (s : State) : Out :=
  .next (if s.pwr.mode = .bindOff && s.pwr.byCommand && s.pwr.pfwAt.isNone &&
      (s.pwr.bindStep = 2 || s.pwr.bindStep = 3) && s.now > s.pwr.bindAt + fld s F.PWR_BIND_TMO * 1000000 then
    bindStep4 s
  else s)

/-! ### Power failure (R658, R792, R793) -/

/-- The ports of a list as a mask. -/
def portMask (l : List Nat) : Nat := l.foldl (fun m p => m ||| 2 ^ p) 0

/-- What stops at t = 0 (R792). -/
def pfwStops (s : State) : State := magPowerFail (frozenNeedles (raise 774 s))

/-- PFW_N (R782, R792, R793). -/
def execPfwN (s : State) : Out :=
  if !baseUp s || s.pwr.pfwAt.isSome then .next s
  else
    let s := tally 434 s
    let m := s.pwr.mode
    let pos := posNow s
    let takes := portMask (openTakes s)
    let s := modPwr (fun p => { p with pfwAt := some s.now, pfwStep := 0, pfwPos := pos, pfwTakes := takes }) s
    match m with
    | .castOn => .next (setMode .bindOff 8 (modPwr (fun p => { p with pfwStep := 1, byCommand := false }) s))
    | .bindOff => .next (pfwStops s)
    | .frozen => .next (pfwStops s)
    | _ => .next (pfwStops (setMode .bindOff 8 (modPwr (fun p => { p with byCommand := false }) s)))

/-- The time since PFW_N was asserted has reached a number of ns. -/
def pfwReached (s : State) (ns : Nat) : Bool := match s.pwr.pfwAt with | some t => decide (s.now ≥ t + ns) | none => false

/-- PFW_MAGAZINE_CLOSE (R658, R792, R821): the magazines' step at 1.5 ms; the Tally's values are captured. -/
def execPfwMagazineClose (s : State) : Out :=
  .next (if pfwReached s 1500000 && s.pwr.pfwStep = 0 then
    let s := forEach (List.range 16) magPfwClose s
    snapStart (modPwr (fun p => { p with pfwStep := 1 }) s)
  else s)

/-- The power-fail record (R811): the raster position of PFW_N and the ports that had a take open. -/
def pfailRecord (s : State) : LdgRec :=
  let p := s.pwr.pfwPos
  mkRec s 3 0 (leBytes 5 p.1 ++ leBytes 2 p.2.1 ++ leBytes 2 p.2.2 ++ leBytes 2 s.pwr.pfwTakes)

/-- The commit begins (R792): power-fail record, history entries not yet journalled, Tally snapshot; in CAST-ON the
Tally is captured only now (R793). -/
def pfwBegin (s : State) : State :=
  let old := (s.fcl.hist.filter fun e => !e.journalled).reverse
  let recs := pfailRecord s :: old.map fun e => mkRec s 1 0 (faultPayload e)
  let s := { s with
    ldg := { s.ldg with pfail := s.ldg.pfail ++ recs }
    fcl := { s.fcl with hist := s.fcl.hist.map fun e => { e with journalled := true } } }
  let s := if s.tly.snap.isNone then snapStart s else s
  modPwr (fun p => { p with pfwStep := 2 }) s

/-- PFW_COMMIT (R792, R793): the Ledger commit at 2.0 ms, and the end of the schedule at 2.4 ms; FROZEN stays. -/
def execPfwCommit (s : State) : Out :=
  if s.pwr.pfwStep = 1 && pfwReached s 2000000 then .next (pfwBegin s)
  else if s.pwr.pfwStep = 2 && pfwReached s 2400000 then
    .next (if s.pwr.mode = .frozen then modPwr (fun p => { p with pfwAt := none, pfwStep := 0 }) s else bindEnd s)
  else .next s

/-! ### Supplies, start and resets (R782, R789, R791, R835, R843) -/

/-- PWRGD_FALL (R791): falls outside BIND-OFF are counted at the next cast-on. -/
def execPwrgdFall (s : State) : Out :=
  match s.pwr.mode with
  | .off => .next s
  | .awning => .next (modPwr (fun p => { p with startAt := none }) s)
  | .bindOff => .next (powerOff s)
  | _ => .next (modPwr (fun p => { p with fallDue := p.fallDue + 1 }) (powerOff s))

/-- VAWN_UP (R782): the awning domain's registers take their reset values (R63). -/
def execVawnUp (s : State) : Out :=
  if s.pwr.mode ≠ .off then .next s
  else
    .next { s with
      bus := .reset, ict := .reset, ldg := { s.ldg with rsp := [], rspUntil := 0 }
      pwr := { s.pwr with mode := .awning, prev := .off, holdaw := false, wake := false, startAt := none, fallDue := 0 } }

/-- VAWN_DOWN (R782). -/
def execVawnDown (s : State) : Out :=
  if s.pwr.mode = .off then .next s
  else
    let old := s.pwr.mode
    .next (modPwr (fun p => { p with mode := .off, prev := old }) (baseReset s))

/-- The conditions of a start that the device sees beside PWRGD and PFW_N (R789, R804). -/
def startWanted (s : State) : Bool :=
  decide (s.pwr.mode = .awning) && s.pwr.resetHigh && decide (s.pwr.awningTj < 110) &&
    (s.pwr.wake || (flag s F.PWR_AWCFG_BOOTON && !s.pwr.holdaw))

/-- PWREN (R789, R833, R804). -/
def pwren (s : State) : Bool :=
  match s.pwr.mode with
  | .off => false
  | .awning => decide (s.pwr.awningTj < 110) && (s.pwr.wake || (flag s F.PWR_AWCFG_BOOTON && !s.pwr.holdaw))
  | _ => true

/-- One fabric cycle of PWR: since when the start conditions hold, and bind-off's steps. -/
def pwrTick (s : State) : State :=
  if s.pwr.mode = .awning then
    let t := if startWanted s then some (s.pwr.startAt.getD s.now) else none
    modPwr (fun p => { p with startAt := t }) s
  else bindEngine s

/-- AWNING_START (R789): PWRGD, PFW_N and RESET_N have been high, and the start conditions have held, for 10 ms. -/
def execAwningStart (straps : Word) (s : State) : Out :=
  match s.pwr.startAt with
  | some t => .next (if startWanted s && s.now ≥ t + 10000000 then enterCastOn 1 straps.toNat s else s)
  | none => .next s

/-- RESET_N (R835): held low for 10 µs, or released. -/
def execResetN (low : Bool) (straps : Word) (s : State) : Out :=
  let away := decide (s.pwr.mode = .off) || decide (s.pwr.mode = .awning)
  if low then
    let s := modPwr (fun p => { p with resetHigh := false, startAt := none }) s
    .next (if away then s else baseReset s)
  else if s.pwr.resetHigh then .next s
  else
    let s := modPwr (fun p => { p with resetHigh := true }) s
    .next (if away then s else enterCastOn 2 straps.toNat s)

/-- PWR_RESET is written with its key. -/
def resetKeyOk (v : List Nat) : Bool := valOf v F.PWR_RESET_KEY == 0x4253

/-- PWR_RESET (R782). -/
def execPwrReset (a : Acc) (straps : Word) (s : State) : Out :=
  .next (regCommit .PWR_RESET 0 0 a neverBusy resetKeyOk (fun _ s => enterCastOn 4 straps.toNat s) s)

/-- REMOTE_RESET (R727): from the manager, when RRST allows it. -/
def execRemoteReset (link : Fin 8) (h : FlitHdr) (straps : Word) (s : State) : Out :=
  .next (rxOwn link.val h (fun s =>
    if h.src.val = 0 && flag s F.STH_SCTRL_RRST then enterCastOn 8 straps.toNat s else s) s)

end Sys2Proof.Machine
end

