-- ==== Sys2Proof/Machine/Faults.lean ====
section
/-! DEFINITION. The fault collector's commands: reports, clearing, severities, temperature (spec/20 R795-R804). -/

namespace Sys2Proof.Machine

/-- A level source: it reports at each rise of a cause (R795). -/
def fclLevel (src : Nat) : Bool := decide (0x18 ≤ src) && decide (src ≤ 0x1B)

/-- Some cause of a level source is present (R800). -/
def levelPresent (s : State) (src : Nat) : Bool := s.fcl.level.any fun e => decide (e.1 / 8 = src) && e.2

/-- A cause of a level source is present or has gone. -/
def setLevel (src cause : Nat) (b : Bool) (s : State) : State :=
  { s with fcl := { s.fcl with level := tabSet false s.fcl.level (8 * src + cause % 8) b } }

/-- A cause of a level source as it now stands; its rise reports (R795). -/
def levelNow (src cause : Nat) (b : Bool) (detail : Nat) (s : State) : State :=
  if !baseUp s then s
  else
    let was := tabGet false s.fcl.level (8 * src + cause % 8)
    let s := setLevel src cause b s
    if b && !was then report src 0 detail 255 s else s

/-- FCL_REPORT (R795, R796): a report of a source; of a level source, the rise or the end of the cause that DETAIL names. -/
def execFclReport (src : Fin 31) (rise : Bool) (sub : Byte) (detail : Word) (req : Req) (s : State) : Out :=
  if fclLevel src.val then .next (levelNow src.val detail.toNat rise detail.toNat s)
  else .next (if rise then report src.val sub.toNat detail.toNat req.val s else s)

/-- FCL_CLR (R800): the bits named, but those of level sources whose cause is present. -/
def fclClear (v : List Nat) (s : State) : State :=
  let w := valOf v F.FCL_CLR_WORD
  let m := valOf v F.FCL_CLR_MASK
  let bits := (List.range 32).filter fun b => bitAt m b && decide (32 * w + b < 31) && !levelPresent s (32 * w + b)
  forEach bits (fun b s => setLatched (32 * w + b) false s) s

/-- FCL_CLR (R800). -/
def execFclClr (req : Req) (mask : Word) (word : BitVec 3) (s : State) : Out :=
  .next (commitWords .FCL_CLR 0 0 req [mask.toNat, word.toNat] neverBusy anyOk fclClear s)

/-- Raising a latched source to DEGRADE or HALT acts as a report of that severity, without an entry (R803). -/
def fclSevEffect (old : State) (w : Nat) (s : State) : State :=
  forEach ((List.range 16).map (16 * w + ·)) (fun i s =>
    if i < 31 && fclLatched s i && decide (fclSev s i > fclSev old i) && decide (2 ≤ fclSev s i) then
      severityAct ldgFull (fclSev s i) i (tabGet 0 s.fcl.detail i) s
    else s) s

/-- FCL_SEV_WRITE (R803). -/
def execFclSevWrite (w : Fin 16) (a : Acc) (s : State) : Out :=
  .next (regCommit .FCL_SEV 0 w.val a neverBusy anyOk (fun _ s' => fclSevEffect s w.val s') s)

/-- A reading of 8 bits, signed. -/
def clamp8 (t : Int) : Int := max (-128) (min 127 t)

/-- THERMAL_REFRESH (R804): the hottest sensor and the awning monitor's own reading, each 1 ms. -/
def execThermalRefresh (tj : Int) (awn : Int) (s : State) : Out :=
  if s.pwr.mode = .off then .next s
  else
    let t := clamp8 tj
    let s := modPwr (fun p => { p with awningTj := clamp8 awn }) s
    if !baseUp s then .next s
    else
      let s := modPwr (fun p => { p with tj := t }) s
      let top := max t (toS 8 (fld s F.PWR_THERM_TJMAX))
      let s := setFld F.PWR_THERM_TJMAX (toU 8 top) s
      let s := levelNow 0x18 0 (decide (t ≥ (fld s F.PWR_THERM_WARN : Int))) (toU 8 t) s
      .next (levelNow 0x19 0 (decide (t ≥ (fld s F.PWR_THERM_TRIP : Int))) (toU 8 t) s)

end Sys2Proof.Machine
end

