-- ==== Sys2Proof/Machine/Gauge.lean ====
section
/-! DEFINITION. The Gauge: plans of pictures, the buffer model, row reserves and grants, reports, second passes and joint
allocation (spec/08 R368-R380, R384-R387, spec/09). -/

namespace Sys2Proof.Machine

/-! ### Plans of pictures (R368-R377) -/

/-- FLAGS of the picture note (R387). -/
def flagKey : Nat := 1
/-- SCENE. -/
def flagScene : Nat := 2
/-- INFILL. -/
def flagInfill : Nat := 4
/-- BADLINE. -/
def flagBad : Nat := 8
/-- XVLATE. -/
def flagXv : Nat := 16
/-- SWEEPEND. -/
def flagSweep : Nat := 32
/-- RESTART. -/
def flagRestart : Nat := 64
/-- WINLATE. -/
def flagWin : Nat := 128

/-- Raster frames between two pictures of a pattern (R319), at least 1. -/
def frameStep (s : State) (d : List Nat) : Nat :=
  max 1 ((fld s F.RCK_FMT_NUM * dDen d + dNum d * fmtDen s / 2) / max 1 (dNum d * fmtDen s))

/-- The FRAME of the next picture has reached the frame of a tagged request (R740). -/
def keyDue (s : State) (d : List Nat) (e : Enc) : Bool :=
  match e.keyFrame, e.lastFrame with
  | none, _ => false
  | some _, none => true
  | some f, some l => decide ((l + frameStep s d + 65536 - f % 65536) % 65536 < 32768)

/-- The picture of a refresh sweep at k of p, and the sweep after it. -/
def sweepStep (period k p flags : Nat) (key : Bool) (e : Enc) : PicPlan × Enc :=
  let last := k + 1 ≥ p
  let pl : PicPlan := ⟨2, key, flags + (if last then flagSweep else 0), k, p⟩
  (pl, if last then { e with sweepK := 0, sweepP := period, accel := false } else { e with sweepK := k + 1, sweepP := p })

/-- The next picture of an output that is not derived, and the output once its type is fixed (R368-R377, R384, R385). `due`
says that a tagged request has reached its picture; `stage` that the output is a part of a stage pattern (R374). -/
def planNext (d : List Nat) (k : Nat) (due stage : Bool) (e : Enc) : PicPlan × Enc :=
  let gop := dGop d k
  let per := dPeriod d k
  let lost := e.restart || e.redo
  let asked := e.keyPending || due
  let scene := e.sceneNext && !(e.accel && gop == 2)
  let merged := if e.sceneNext && !scene then satAdd e.keymerge 1 65535 else e.keymerge
  let want := asked || scene || (lost && !stage)
  let idr := !e.started || (e.restart && !stage) || gop = 0 || (gop = 1 && (want || decide (e.gopPos + 1 ≥ per))) ||
    (gop = 2 && want && (dOut d k 0x13 1 == 1 || e.restart))
  let flags := (if asked then flagKey else 0) + (if scene then flagScene else 0) +
    (if lost && (!stage || due) then flagRestart else 0)
  let gone := if stage then due || !e.started else idr || want
  let e := { e with
    keyPending := false, keyFrame := if due then none else e.keyFrame, sceneNext := false, keymerge := merged
    restart := e.restart && !gone, redo := e.redo && !gone, mute := e.mute && !due, started := true }
  if idr then (⟨0, true, flags, 0, 1⟩, { e with gopPos := 0, sweepK := 0, sweepP := per, accel := false })
  else if gop = 1 then (⟨1, false, flags, 0, 1⟩, { e with gopPos := e.gopPos + 1 })
  else if want then
    let p := max 2 (ceilDiv per 4)
    sweepStep per 0 p flags true { e with accel := true }
  else sweepStep per e.sweepK (if e.sweepP = 0 then per else e.sweepP) flags false e

/-- The next picture of a derived output: the plan of output 0, or an IDR picture after a freeze of its own pool (R327,
R384). -/
def planFollow (p : PicPlan) (e : Enc) : PicPlan × Enc :=
  let p := if (e.restart || !e.started) && p.ptype ≠ 0 then { idrPlan with flags := p.flags ||| flagRestart } else p
  (if e.redo then { p with flags := p.flags ||| flagRestart } else p,
    { e with restart := false, redo := e.redo && !p.key, started := true, follow := e.follow.drop 1 })

/-! ### Reference entries (R380) -/

/-- The oldest SHORT entry. -/
def oldestShort (l : List PoolEntry) : Option PoolEntry :=
  (l.filter fun x => decide (x.ref = .short)).foldl (fun b x =>
    match b with | none => some x | some y => some (if x.order < y.order then x else y)) none

/-- The start of an inter-coded picture: with four SHORT entries the oldest leaves. -/
def refSlide (gop : Nat) (l : List PoolEntry) : List PoolEntry :=
  if (l.filter fun x => decide (x.ref = .short)).length < 4 then l
  else
    match oldestShort l with
    | none => l
    | some o => l.map fun x => if x.order = o.order && decide (x.ref = .short) then
        { x with ref := if o.idr && gop == 1 then .long else .unused } else x

/-- The lowest UNUSED entry takes the picture. -/
def refTake (e : PoolEntry) : List PoolEntry → List PoolEntry
  | [] => []
  | x :: t => if x.ref = .unused then { e with handle := x.handle } :: t else x :: refTake e t

/-- Entries at the start of a picture, in the order of R380. -/
def refStart (gop ptype poc order : Nat) (l : List PoolEntry) : List PoolEntry :=
  let l := if ptype = 0 then l.map fun x => { x with ref := .unused, outPend := false } else refSlide gop l
  refTake ⟨0, .short, true, false, false, (poc : Int), order, ptype == 0, 0⟩ l

/-- A complete picture's entry (R342, R380). -/
def refDone (l : List PoolEntry) : List PoolEntry := l.map fun x => { x with outPend := false }

/-! ### Complexity (R424) -/

/-- The key of a stripe-row. -/
def cxKey (v r i : Nat) : Nat := 2048 * v + 8 * r + i

/-- X̂ of a stripe-row. -/
def xHat (d : List Nat) (k : Nat) (g : Gau) (v r i : Nat) : Nat :=
  match (if g.intra then g.lastI else g.lastP) with
  | some t => tabGet 0 t (cxKey v r i)
  | none => g.seedX * stripePixels d k r i / 65536

/-- X̂ of a row. -/
def xRow (d : List Nat) (k : Nat) (g : Gau) (v r : Nat) : Nat :=
  (List.range (dStripes d k)).foldl (fun n i => n + xHat d k g v r i) 0

/-- X̂ of the rows of a view from r on. -/
def xFrom (d : List Nat) (k : Nat) (g : Gau) (v r : Nat) : Nat :=
  ((List.range (dRows d k)).drop r).foldl (fun n j => n + xRow d k g v j) 0

/-- a × b / c; a proportion of nothing is not stated and stays free (notes/assumptions/21.md). -/
def shareOf (a b c : Nat) : Nat := if c = 0 then Config.freeNat 41 0 [a, b] else a * b / c

/-! ### Budgets (R399-R403) -/

/-- A value held within bounds. -/
def clampNat (lo hi v : Nat) : Nat := min hi (max lo v)

/-- The weight of a picture as a fraction (R399). -/
def picWeight (d : List Nat) (k : Nat) (ptype : Nat) : Nat × Nat :=
  let kw := dGau d k 0x12 1
  let per := dPeriod d k
  match dGop d k with
  | 0 => (1, 1)
  | 1 => if ptype = 0 then (kw, 4) else (4 * per - kw, 4 * (per - 1))
  | _ => if ptype = 0 then (kw, 4) else (1, 1)

/-- Tpic, rounded down and held between the picture's floor and its fullness (R399). -/
def picTarget (d : List Nat) (k : Nat) (g : Gau) (pl : PicPlan) (floor : Nat) : Nat :=
  let (wn, wd) := picWeight d k pl.ptype
  let num : Int := ((dNum d : Nat) : Int)
  let b : Int := ((1000 * dGau d k 8 4 : Nat) : Int)
  let b20 : Int := if g.settle > 0 then 17 * b else 20 * b
  let rate : Int := ((wn * g.share * 1000 * dDen d : Nat) : Int)
  let d40 : Int := ((g.f : Nat) : Int) * 40 - (40 * b - 2 * b20) * num - b20 * num
  let t := (rate * 320 + (wd : Int) * d40) / ((wd : Int) * num * 320)
  clampNat floor (g.f / max 1 (dNum d)) t.toNat

/-- Rows of view u that neither have ended nor are in progress. -/
def rowsLeft (d : List Nat) (k : Nat) (g : Gau) (u : Nat) : Nat :=
  match (tabGet .reset g.rows u).row with
  | none => dRows d k
  | some r => dRows d k - (r + 1)

/-- Whether view u has a row in progress. -/
def rowOpen (d : List Nat) (k : Nat) (g : Gau) (u : Nat) : Bool :=
  match (tabGet .reset g.rows u).row with
  | none => false
  | some r => decide (r < dRows d k)

/-- A sum over the views but one. -/
def otherViews (d : List Nat) (k v : Nat) (f : Nat → Nat) : Nat :=
  ((List.range (dViews d k)).filter (· != v)).foldl (fun n u => n + f u) 0

/-- The row cap Ar (R400); rows in progress in other views keep their caps (notes/assumptions/21.md). -/
def rowCap (x : Floors) (d : List Nat) (k : Nat) (pl : PicPlan) (g : Gau) (v r : Nat) : Nat :=
  let left := dRows d k - (r + 1) + otherViews d k v (rowsLeft d k g)
  let held := otherViews d k v fun u => if rowOpen d k g u then (tabGet .reset g.rows u).cap else 0
  g.f / max 1 (dNum d) - g.spent - left * rowFloorBits x d k pl - held

/-- The row target Tr (R401). -/
def rowTarget (x : Floors) (d : List Nat) (k : Nat) (pl : PicPlan) (g : Gau) (v r cap : Nat) : Nat :=
  let held := otherViews d k v fun u => if rowOpen d k g u then (tabGet .reset g.rows u).target else 0
  let rest := xFrom d k g v r + otherViews d k v fun u => xFrom d k g u (dRows d k - rowsLeft d k g u)
  clampNat (rowFloorBits x d k pl) cap (shareOf (g.tpic - g.spent - held) (xRow d k g v r) rest)

/-- The cap of stripe i (R402). -/
def stripeCap (x : Floors) (d : List Nat) (k : Nat) (pl : PicPlan) (g : Gau) (v r i cap : Nat) : Nat :=
  let fl := stripeFloor x d k i pl
  min (fl + shareOf (cap - rowFloorBits x d k pl) (xHat d k g v r i) (xRow d k g v r))
    (16 * workRate d k * stripePixels d k r i / 100)

/-- Model bits of a row at q (R403). -/
def modelBits (theta x : Nat) (q : Int) : Nat := theta * x / qOf q

/-- Distance of two numbers. -/
def distNat (a b : Nat) : Nat := (a - b) + (b - a)

/-- The quantisers from lo on, n of them. -/
def qRange (lo : Int) (n : Nat) : List Int := (List.range n).map fun (i : Nat) => lo + Int.ofNat i

/-- The first-pass quantiser (R403): nearest model bits, the larger on a tie, within QPMIN, QPMAX and DQMAX of the one
before. -/
def firstQp (d : List Nat) (k : Nat) (theta x target : Nat) (before : Int) : Int :=
  let dq : Int := ((dGau d k 0x17 1 : Nat) : Int)
  let lo := max (sByte (dGau d k 0x10 1)) (before - dq)
  let hi := min (sByte (dGau d k 0x11 1)) (before + dq)
  let lo := min lo (sByte (dGau d k 0x11 1))
  (qRange lo (hi - lo + 1).toNat).foldl (fun b q =>
    if distNat (modelBits theta x q) target ≤ distNat (modelBits theta x b) target then q else b) lo

/-! ### Grants (R411-R413) -/

/-- Write a word of the grant area into every skein of NMASK (R411). -/
def grantWord (d : List Nat) (w v tag : Nat) (s : State) : State :=
  forEach (dSkeins d) (fun sk s => skmPut sk w (BitVec.ofNat 72 (tag % 256 * 2 ^ 64 + v % 2 ^ 64)) s) s

/-- The grant words of a view's row: first or second pass (R411). -/
def grantStripes (d : List Nat) (k : Nat) (x : Floors) (g : Gau) (v r : Nat) (second : Bool) (s : State) : State :=
  let base := dGau d k 0x18 4 + 32 * v
  forEach (List.range (dStripes d k)) (fun i s =>
    let t := tabGet .reset g.stripes (8 * v + i)
    let q := if second then t.qp2 else (tabGet .reset g.rows v).qp
    let w1 := r % 256 * 2 ^ 56 + byteOf q * 2 ^ 48 + b2n second * 2 ^ 47 + x.fI % 1024 * 2 ^ 22 + x.fP % 1024 * 2 ^ 12 +
      x.h / 8 % 4096
    grantWord d (base + 2 * i + 1) w1 r (grantWord d (base + 2 * i) (t.cap % 2 ^ 32 * 2 ^ 32 + t.target % 2 ^ 32) r s)) s

/-- A notice of a view, then interrupt input GAUGE on the pattern's needles (R411, R412). -/
def notice (n k v kind r : Nat) (s : State) : State :=
  let d := (patOf s n).desc
  let c := (tabGet 0 (gauOf s n k).notices v + 1) % 256
  let s := modGau n k (fun g => { g with notices := tabSet 0 g.notices v c }) s
  let s := grantWord d (dGau d k 0x18 4 + 32 * v + 16) (kind * 2 ^ 56 + r % 256 * 2 ^ 48) c s
  forEach (dNeedles d) (ndlIrq · 4) s

/-- A row-start reserve: target, cap, quantiser, stripes and GRANT (R400-R403, R413). -/
def reserveRow (n k v r : Nat) (pl : PicPlan) (s : State) : State :=
  let d := (patOf s n).desc
  let x := floorsOf s d k
  let g := gauOf s n k
  let cap := rowCap x d k pl g v r
  let target := rowTarget x d k pl g v r cap
  let xr := xRow d k g v r
  let before := if r = 0 then (if g.intra then g.qpI else g.qpP) else (tabGet .reset g.rows v).qp
  let q := firstQp d k (if g.intra then g.thI else g.thP) xr target before
  let ns := List.range (dStripes d k)
  let ts := ns.map fun i => shareOf target (xHat d k g v r i) xr
  let isOver := target - ts.foldl (· + ·) 0
  let stripe (i : Nat) : GauStripe :=
    let t : Nat := ts.getD i 0 + (if i = 0 then isOver else 0)
    { GauStripe.reset with target := t, cap := stripeCap x d k pl g v r i cap }
  let s := modGau n k (fun g => { g with
    rows := tabSet .reset g.rows v ⟨some r, target, cap, q⟩, qp1 := q,
    qpI := if r = 0 && g.intra then q else g.qpI, qpP := if r = 0 && !g.intra then q else g.qpP,
    stripes := ns.foldl (fun t i => tabSet .reset t (8 * v + i) (stripe i)) g.stripes }) s
  let fresh : RowSt := { RowSt.reset with row := r }
  let rows (t : Tab RowSt) : Tab RowSt := ns.foldl (fun t i => tabSet .reset t (8 * v + i) fresh) t
  let s := modEnc n k (fun e => { e with rows := rows e.rows }) s
  notice n k v 1 r (grantStripes d k x (gauOf s n k) v r false s)

/-! ### The start of a picture (R314, R370, R380, R385, R397-R399, R429-R431) -/

/-- F0 of R394, times the frame-rate numerator. -/
def f0Of (d : List Nat) (k : Nat) : Nat := 1000 * dGau d k 4 4 * dGau d k 0x0C 2 / 90000 * dNum d

/-- The Gauge at the start of a picture: the model restarts, settling, the scene-change model (R397, R429, R431). -/
def gauBegin (d : List Nat) (k : Nat) (first : Bool) (pl : PicPlan) (x : Floors) (g : Gau) : Gau :=
  let rest := first || (pl.flags &&& flagRestart) ≠ 0
  let scene := (pl.flags &&& flagScene) ≠ 0
  let f := if rest then f0Of d k else g.f
  let settle := if rest then (if dGop d k = 0 then 8 else dPeriod d k) else if scene then max g.settle 4 else g.settle
  let th := if g.sumXI = 0 then g.thI else g.sumBQ / g.sumXI
  let th := clampNat (g.thI / 2) (2 * g.thI) th
  let g := { g with
    f := f, minf := if first then f else min g.minf f, settle := settle, share := g.nextShare.getD g.share, nextShare := none
    lastI := if scene then some g.curI else g.lastI, thI := if scene then (g.thI + th) / 2 else g.thI
    intra := pl.ptype == 0, spent := floorPi x pl, rows := [], stripes := [], curB := [], curI := [], sumBQ := 0, sumXI := 0
    inRew := false, rewWait := false, rewPic := 0 }
  { g with tpic := picTarget d k g pl (picFloor x d k pl) }

/-- The pool that an output takes from after a freeze of POOL's bay supplies its entries, or the output has none (R314). -/
def altEntries (n k : Nat) (s : State) : State :=
  let d := (patOf s n).desc
  let e := encOf s n k
  if e.poolSel ≠ 1 || e.altGot then s
  else
    let own := patOwner d
    let s := freeHandles own (e.refs.flatMap fun r => r.2.map PoolEntry.handle) s
    let s := modEnc n k (fun e => { e with refs := [], altGot := true }) s
    let (ok, s) := (List.range (dViews d k)).foldl (fun (acc : Bool × State) v =>
      if acc.1 && dEntries d k ≠ 0 then takeRefs own (dOut d k 0x49 1) n k v (dEntries d k) acc.2 else acc) (true, s)
    if ok then s
    else
      let s := modPat n (fun p => { p with lostOuts := p.lostOuts ++ [k] }) (modEnc n k (fun e => { e with poolSel := 2 }) s)
      lossNotice ⟨s.sth.devNo, (poolBay s (dOut d k 0x48 1)).getD 0, n, dLe d 0x068 2, dLe d 0x06A 1, 2 ^ k⟩ s

/-- An output can code a further picture (R27, R386). -/
def outLive (s : State) (n k : Nat) : Bool :=
  decide ((patOf s n).st = .running) && !(patOf s n).dead && (encOf s n k).poolSel != 2

/-- A picture of a plan starts: its buffer, its entries, its model and the reserves of row 0. -/
def startPicture (n k : Nat) (first : Bool) (pl : PicPlan) (s : State) : State :=
  let d := (patOf s n).desc
  let own := patOwner d
  let (b, s) := match outPool s n k with
    | some p => (match stlAllocOp own p s with | (.ok h, s) => (some h, s) | (.error _, s) => (none, s))
    | none => (none, s)
  let e := encOf s n k
  let poc := if pl.ptype = 0 then 0 else (e.poc + 1) % 2 ^ 31
  let pic : EncPic := ⟨pl, poc, none, [], b, b.isNone⟩
  let s := modEnc n k (fun e => { e with
    pic := some pic, poc := poc, order := e.order + 1, rows := []
    refs := e.refs.map fun (v, l) => (v, refStart (dGop d k) pl.ptype poc e.order l) }) s
  let x := floorsOf s d k
  let s := modGau n k (gauBegin d k first pl x) s
  forEach (List.range (dViews d k)) (fun v s => reserveRow n k v 0 pl s) s

/-- A stage part that has lost a picture asks the manager for its key picture and passes nothing meanwhile (R374). -/
def stageAsk (n k : Nat) (s : State) : State :=
  let d := (patOf s n).desc
  let e := encOf s n k
  if dStage d ≠ 0 && (e.restart || e.redo) && !e.mute && e.started then
    stageKeyAsk (dStage d) k (modEnc n k (fun e => { e with mute := true }) s)
  else s

/-- The next picture of a derived output starts once output 0's plan for it is known (R327). -/
def followNext (n k : Nat) (s : State) : State :=
  let s := if outLive s n k then altEntries n k s else s
  let e := encOf s n k
  match e.follow with
  | p :: _ =>
    if !outLive s n k || e.pic.isSome then s
    else
      let first := !e.started
      let (pl, e) := planFollow p e
      startPicture n k first pl (modEnc n k (fun _ => e) s)
  | [] => s

/-- The next picture of an output that is not derived starts; derived outputs learn its plan. -/
def leadNext (n k : Nat) (s : State) : State :=
  let s := if outLive s n k then stageAsk n k (altEntries n k s) else s
  let d := (patOf s n).desc
  let e := encOf s n k
  if !outLive s n k || e.pic.isSome then s
  else
    let first := !e.started
    let (pl, e) := planNext d k (keyDue s d e) (dStage d ≠ 0) e
    let s := startPicture n k first pl (modEnc n k (fun _ => e) s)
    if k ≠ 0 then s
    else
      forEach ((List.range (dNout d)).filter (isDerived d)) (fun j s =>
        followNext n j (modEnc n j (fun e => { e with follow := e.follow ++ [pl] }) s)) s

/-- The next picture of an output that the Gauge budgets. -/
def nextPicture (n k : Nat) (s : State) : State :=
  if isDerived (patOf s n).desc k then followNext n k s else leadNext n k s

/-- At PSTART every budgeted output starts (R368, R397, R413). -/
def gaugeStart (n : Nat) (s : State) : State :=
  let d := (patOf s n).desc
  let s := forEach ((List.range (dNout d)).filter (isHevc d)) (fun k s =>
    modGau n k (fun g => { g with share := dGau d k 0 4, seedAt := s.now + 3600000000000 }) s) s
  forEach ((List.range (dNout d)).filter fun k => isHevc d k && !isDerived d k) (nextPicture n) s

/-! ### The picture note and passing on (R364, R365, R387, R625, R732) -/

/-- The 16 bytes of a picture note (R387). -/
def noteBytes (frame slot out view ptype poc bytes floor rew flags : Nat) : List Nat :=
  leBytes 8 (frame % 2 ^ 16 * 2 ^ 48 + slot * 2 ^ 40 + out * 2 ^ 38 + view * 2 ^ 34 + ptype * 2 ^ 31 + poc % 2 ^ 31) ++
    leBytes 8 (bytes % 2 ^ 32 * 2 ^ 32 + min floor 255 * 2 ^ 24 + min rew 255 * 2 ^ 16 + flags % 256)

/-- The note of a view picture as it stands. -/
def picNote (s : State) (n k v : Nat) (p : EncPic) : List Nat :=
  let w := tabGet .reset p.views v
  noteBytes (p.frame.getD (frameNow s)) n k v p.plan.ptype p.poc w.bytes w.floorRows w.rewRows (p.plan.flags ||| w.flags)

/-- The timestamp of a picture (R623). -/
def noteTs (s : State) (frame : Nat) : Nat := rtpTs s (noteFrame s (frame % 65536))

/-- Send units to Stitch: the note with the first, the marker on the last of the picture. -/
def stitchUnits (stream ts : Nat) (note : Option (List Nat)) (last : Bool) : List (List Nat) → State → State
  | [], s => s
  | u :: t, s => stitchUnits stream ts none last t (streamSend stream ts (last && t.isEmpty) note u s)

/-- Pass units on to the stream switch and Stitch as DEST says; `slice` is the slice number of the first of them, 2047 for
the header of a JPEG XS picture; the units of a raw picture are its lines. -/
def passUnits (n k : Nat) (note : Option (List Nat)) (frame slice : Nat) (last : Bool) (units : List (List Nat)) (s : State) :
    State :=
  let d := (patOf s n).desc
  let dest := dOut d k 0x40 1
  let xs := if dOut d k 0 1 = 3 then some slice else none
  let s :=
    if !bitAt dest 1 then s
    else if dOut d k 0 1 = 4 then egressLines n k note last (if slice = 2047 then 0 else slice * 16) units s
    else egressUnits n k note last xs units s
  if bitAt dest 2 then stitchUnits (4 * n + k) (noteTs s frame) note last units s else s

/-- Pass a whole view picture on (R364): egress and Stitch unless its units have gone, the magazine always. -/
def passView (n k v : Nat) (p : EncPic) (last : Bool) (s : State) : State :=
  let d := (patOf s n).desc
  let w := tabGet .reset p.views v
  let note := picNote s n k v p
  let frame := p.frame.getD (frameNow s)
  let s := if lowLatency d k then s else passUnits n k (some note) frame 2047 last w.units s
  if bitAt (dOut d k 0x40 1) 0 then passToMagazine n k note w.units p.buf (patOwner d) s else s

/-! ### The end of a picture (R373, R374, R385, R394, R407, R410) -/

/-- Filler of a number of bits as a NAL unit of type 38 (R394; ITU-T H.265). -/
def fillerUnit (bits : Nat) : List (List Nat) :=
  if bits < 24 then [] else [[0x4C, 0x01] ++ List.replicate (bits / 8 - 3) 0xFF ++ [0x80]]

/-- The model after a picture (R394): filler bits and the Gauge. -/
def gauEnd (d : List Nat) (k : Nat) (g : Gau) : Nat × Gau :=
  let num := dNum d
  let v := (g.f - g.spent * num) + 1000 * dGau d k 4 4 * dDen d
  let b := 1000 * dGau d k 8 4 * num
  let cbr := bitAt (dGau d k 0x0E 1) 0
  let fill := if cbr then (v - b) / max 1 num else 0
  let f := min v b
  let x := fun (t : Tab Nat) => t.foldl (fun n e => n + e.2) 0
  (fill, { g with
    f := f, minf := min g.minf f, filler := g.filler + fill, settle := g.settle - 1
    lastI := if g.intra then some g.curI else g.lastI, lastP := if g.intra then g.lastP else some g.curB
    ksum := some (if g.intra then x g.curI else x g.curB) })

/-- A picture with bn > Fn (R410). -/
def hrdCheck (n k : Nat) (s : State) : State :=
  let g := gauOf s n k
  if g.spent * dNum (patOf s n).desc > g.f then bump F.GAU_CNT_HRDERR (report 0x08 0 (k * 256 + n) 255 s) else s

/-- A scene change after a picture (R373, R374): 60 % of the CTBs intra in a picture that was no key picture. -/
def sceneCheck (n k : Nat) (p : EncPic) (s : State) : State :=
  let d := (patOf s n).desc
  let intra := p.views.foldl (fun m e => m + e.2.intra) 0
  let all := dCols d k * dRows d k * dViews d k
  if p.plan.key || isDerived d k || decide (intra * 100 < all * 60) then s
  else
    let s := modEnc n k (fun e => { e with scene := satAdd e.scene 1 65535, sceneNext := dStage d == 0 }) s
    if dStage d ≠ 0 then stageKeyAsk (dStage d) k s else s

/-- A picture whose bytes go nowhere: counted in ODROP, the next is a key picture (R374, R385). -/
def dropPicture (n k : Nat) (redo : Bool) (s : State) : State :=
  raise 713 (modEnc n k (fun e => { e with odrop := satAdd e.odrop 1 255, redo := e.redo || redo }) s)

/-- The last row of the last view of a picture is final (R342, R364, R394). `whole`: part 0 of a multiview stage pattern
holds every view picture of the access unit (R374). -/
def endPicture (n k : Nat) (whole : Bool) (s : State) : State :=
  let d := (patOf s n).desc
  match (encOf s n k).pic with
  | none => s
  | some p =>
    let s := hrdCheck n k s
    let (fill, g) := gauEnd d k (gauOf s n k)
    let s := modGau n k (fun _ => g) s
    let last := dViews d k - 1
    let p := { p with views := tabMod .reset p.views last (fun w =>
      let u := fillerUnit fill
      { w with units := w.units ++ u, bytes := w.bytes + (u.map List.length).foldl (· + ·) 0 }) }
    let e := encOf s n k
    let lacks := !whole && dOut d k 0 1 == 2 && dStage d ≠ 0 && dLe d 0x06A 1 == 0
    let s :=
      if p.dropped then dropPicture n k true s
      else if e.mute then s
      else if lacks then dropPicture n k false s
      else
        let s := if lowLatency d k then passUnits n k none (p.frame.getD (frameNow s)) 0 true (fillerUnit fill) s else s
        forEach (List.range (dViews d k)) (fun v s => passView n k v p (v == last) s) s
    let s := match p.buf with | some h => (stlFreeOp (patOwner d) h s).2 | none => s
    let frame := p.frame.getD (frameNow s % 65536)
    let s := modEnc n k (fun e => { e with
      pics := (e.pics + 1) % 2 ^ 32, keys := if p.plan.key then satAdd e.keys 1 65535 else e.keys
      lastFrame := some frame, pic := none, rows := [], refs := e.refs.map fun (v, l) => (v, refDone l) }) s
    nextPicture n k (sceneCheck n k p s)

/-! ### The end of a row (R407, R414, R418, R425) -/

/-- Bits, floor CTBs and quantiser of a stripe's final pass. -/
def finalPass (t : GauStripe) : Nat × Nat × Int :=
  match t.bits2 with
  | some b => (b, t.floor2, t.q2)
  | none => (t.bits1.getD 0, t.floor1, t.q1)

/-- θ after a row's measurement (R425). -/
def thetaStep (theta bq x : Nat) : Nat :=
  let m := clampNat (theta / 2) (2 * theta) (if x = 0 then Config.freeNat 43 0 [bq] else bq / x)
  let step : Int := ((m : Int) - (theta : Int)) / 4
  ((theta : Int) + step).toNat

/-- A view's pictures after a change of one. -/
def modView (v : Nat) (f : ViewPic → ViewPic) (e : Enc) : Enc :=
  match e.pic with
  | some p => { e with pic := some { p with views := tabMod .reset p.views v f } }
  | none => e

/-- A row's coded units join its view picture; with LATENCY = 1 they are passed on in units of at most 1,456 bytes (R338,
R364, R365). -/
def rowUnits (n k v : Nat) (lastRow : Bool) (s : State) : State :=
  let d := (patOf s n).desc
  let e := encOf s n k
  let rs := (List.range (dStripes d k)).map fun i => tabGet .reset e.rows (8 * v + i)
  let us := rs.flatMap fun r => r.units
  let bytes := (us.map List.length).foldl (· + ·) 0
  let intra := rs.foldl (fun m r => m + r.intra) 0
  let s := modEnc n k (modView v fun w => { w with
    units := w.units ++ us, bytes := w.bytes + bytes, intra := w.intra + intra }) s
  match (encOf s n k).pic with
  | some p =>
    if !lowLatency d k || p.dropped || e.mute || us.isEmpty then s
    else
      let first := !(tabGet .reset p.views v).noted
      let cut := us.flatMap fun u => pieces (u.length + 1) 1456 u
      let s := modEnc n k (modView v fun w => { w with noted := true }) s
      passUnits n k (if first then some (picNote s n k v p) else none) (p.frame.getD (frameNow s)) 0
        (lastRow && !bitAt (dGau d k 0x0E 1) 0) cut s
  | none => s

/-- A row is final: charged, measured, passed on, FINAL, and the next reserve or the end of the picture. -/
def finalRow (n k v : Nat) (whole : Bool) (s : State) : State :=
  let d := (patOf s n).desc
  let g := gauOf s n k
  let r := (tabGet .reset g.rows v).row.getD 0
  let ns := List.range (dStripes d k)
  let st (i : Nat) : GauStripe := tabGet .reset g.stripes (8 * v + i)
  let bits := ns.foldl (fun m i => m + (finalPass (st i)).1) 0
  let floored := ns.any fun i => decide ((finalPass (st i)).2.1 > 0)
  let bq := ns.foldl (fun m i => m + (finalPass (st i)).1 * qOf (finalPass (st i)).2.2) 0
  let xi := ns.foldl (fun m i => m + (st i).xi) 0
  let xb := ns.foldl (fun m i => m + (st i).xb) 0
  let upd (g : Gau) : Gau :=
    if floored then { g with rowfloor := satAdd g.rowfloor 1 65535 }
    else if g.intra then { g with thI := thetaStep g.thI bq xi, sumBQ := g.sumBQ + bq, sumXI := g.sumXI + xi }
    else { g with thP := thetaStep g.thP bq xb, sumBQ := g.sumBQ + bq, sumXI := g.sumXI + xi }
  let s := modGau n k (fun g => upd { g with
    spent := g.spent + bits, prevRew := g.inRew, inRew := false, rewWait := false
    curB := ns.foldl (fun t i => tabSet 0 t (cxKey v r i) (st i).xb) g.curB
    curI := ns.foldl (fun t i => tabSet 0 t (cxKey v r i) (st i).xi) g.curI }) s
  let s := if floored then
      raise 714 (modEnc n k (modView v fun w => { w with floorRows := w.floorRows + 1 }) s)
    else s
  let lastRow := r + 1 ≥ dRows d k
  let s := notice n k v 3 r (rowUnits n k v lastRow s)
  match (encOf s n k).pic with
  | none => s
  | some p =>
    if !outLive s n k then s
    else if !lastRow then reserveRow n k v (r + 1) p.plan s
    else
      let s := modGau n k (fun g => { g with rows := tabMod .reset g.rows v fun w => { w with row := some (dRows d k) } }) s
      let g := gauOf s n k
      if (List.range (dViews d k)).all fun u => decide ((tabGet .reset g.rows u).row = some (dRows d k)) then
        endPicture n k whole s
      else s

/-! ### Second passes (R415-R420) -/

/-- An output may be rewound. -/
def rewinds (d : List Nat) (k : Nat) : Bool := isHevc d k && bitAt (dGau d k 0x0E 1) 2

/-- The step of a stripe (R417). -/
def deltaQ (d : List Nat) (k : Nat) (q : Int) (t : GauStripe) : Nat :=
  let m := dGau d k 0x17 1
  if t.floor1 > 0 then m
  else ((List.range (m + 1)).find? fun (x : Nat) => decide (t.bits1.getD 0 * qOf q ≤ t.target * qOf (q + Int.ofNat x))).getD m

/-- An output needs a second pass (R416). -/
def needsSecond (d : List Nat) (k : Nat) (g : Gau) : Bool :=
  let ts := (List.range (dStripes d k)).map fun i => tabGet .reset g.stripes i
  let bits := ts.foldl (fun m t => m + t.bits1.getD 0) 0
  let tol := dGau d k 0x13 1
  (tol ≠ 0 && decide (bits * 100 > (tabGet .reset g.rows 0).target * (100 + tol))) || ts.any fun t => decide (t.floor1 > 0)

/-- A second pass is granted (R416). -/
def grantsSecond (d : List Nat) (k : Nat) (g : Gau) : Bool :=
  let q := (tabGet .reset g.rows 0).qp
  needsSecond d k g && decide (g.rewPic < dGau d k 0x14 1) && !g.prevRew &&
    (List.range (dStripes d k)).any fun i => decide (deltaQ d k q (tabGet .reset g.stripes i) ≥ 1)

/-- A rewind of one output: its second-pass quantisers, grants and REWIND notice (R417-R419). -/
def orderSecond (n k : Nat) (s : State) : State :=
  let d := (patOf s n).desc
  let g := gauOf s n k
  let w := tabGet .reset g.rows 0
  let r := w.row.getD 0
  let hi := sByte (dGau d k 0x11 1)
  let st (t : GauStripe) : GauStripe := { t with qp2 := min (w.qp + (deltaQ d k w.qp t : Nat)) hi }
  let s := modGau n k (fun g => { g with
    stripes := g.stripes.map fun e => (e.1, st e.2), inRew := true, rewWait := false, rewPic := g.rewPic + 1
    rewound := satAdd g.rewound 1 65535 }) s
  let s := modEnc n k (fun e => modView 0 (fun v => { v with rewRows := v.rewRows + 1 })
    { e with rows := e.rows.map fun x => (x.1, { RowSt.reset with row := x.2.row }) }) s
  notice n k 0 2 r (grantStripes d k (floorsOf s d k) (gauOf s n k) 0 r true s)

/-- The decision of R416 once every output with REWIND = 1 has ended its first pass of the row. -/
def rewindDecide (n : Nat) (whole : Bool) (s : State) : State :=
  let d := (patOf s n).desc
  let ks := (List.range (dNout d)).filter fun k => rewinds d k && (encOf s n k).pic.isSome
  if !ks.all fun k => (gauOf s n k).rewWait then s
  else
    let go := ks.filter fun k => grantsSecond d k (gauOf s n k)
    let no := ks.filter fun k => !grantsSecond d k (gauOf s n k)
    let s := forEach (no.filter fun k => needsSecond d k (gauOf s n k)) (fun k s =>
      modGau n k (fun g => { g with rewdeny := satAdd g.rewdeny 1 65535 }) s) s
    let s := forEach go (orderSecond n) s
    let s := if go.isEmpty then s else forEach (dNeedles d) (fun m s => askAbort m 2 s) s
    forEach no (fun k s => finalRow n k 0 whole s) s

/-! ### Reports (R408-R410) -/

/-- A report that is discarded (R409). -/
def badReport (s : State) : State := bump F.GAU_CNT_BADREP s

/-- A report names a stripe-row in progress. -/
def inProgress (s : State) (n k v r i : Nat) : Bool :=
  let d := (patOf s n).desc
  decide (k < dNout d) && isHevc d k && decide ((patOf s n).st = .running) && (encOf s n k).pic.isSome &&
    decide (v < dViews d k) && decide (i < dStripes d k) && decide (r < dRows d k) &&
    decide ((tabGet .reset (gauOf s n k).rows v).row = some r)

/-- A stripe of the Gauge changes. -/
def modStripe (n k v i : Nat) (f : GauStripe → GauStripe) (s : State) : State :=
  modGau n k (fun g => { g with stripes := tabMod .reset g.stripes (8 * v + i) f }) s

/-- ANALYSIS (R408). -/
def reportAnalysis (n k val : Nat) (s : State) : State :=
  let v := bitsOf val 1 4
  let i := bitsOf val 5 3
  let t := tabGet .reset (gauOf s n k).stripes (8 * v + i)
  if !inProgress s n k v (bitsOf val 8 8) i || t.ana || t.bits1.isSome || (gauOf s n k).inRew then badReport s
  else modStripe n k v i (fun t => { t with ana := true, xb := bitsOf val 40 24, xi := bitsOf val 16 24 }) s

/-- Every stripe of a view's row has ended a pass. -/
def passEnded (s : State) (n k v : Nat) (second : Bool) : Bool :=
  (List.range (dStripes (patOf s n).desc k)).all fun i =>
    let t := tabGet .reset (gauOf s n k).stripes (8 * v + i)
    if second then t.bits2.isSome else t.bits1.isSome

/-- ROWEND (R408, R410, R414, R416): `units` and `intra` are what the stripe coded. -/
def reportRowend (n k val : Nat) (units : List (List Nat)) (intra : Nat) (whole : Bool) (s : State) : State :=
  let v := bitsOf val 0 4
  let i := bitsOf val 21 3
  let second := bitAt val 20
  let g := gauOf s n k
  let t := tabGet .reset g.stripes (8 * v + i)
  let seen := if second then t.bits2.isSome else t.bits1.isSome
  if !inProgress s n k v (bitsOf val 24 8) i || seen || g.inRew != second then badReport s
  else
    let bits := bitsOf val 32 32
    let q := sByte (bitsOf val 4 8)
    let fl := bitsOf val 12 8
    let s := modStripe n k v i (fun t =>
      if second then { t with bits2 := some bits, floor2 := fl, q2 := q }
      else { t with bits1 := some bits, floor1 := fl, q1 := q }) s
    let s := modEnc n k (fun e => { e with rows := tabMod .reset e.rows (8 * v + i) (fun r =>
      { r with units := units, intra := intra }) }) s
    let s := if bits > t.cap then
        report 0x07 0 (k * 256 + n) 255 (bump F.GAU_CNT_OVR (modGau n k (fun g => { g with ovr := satAdd g.ovr 1 65535 }) s))
      else s
    if !passEnded s n k v second then s
    else if second || !rewinds (patOf s n).desc k then finalRow n k v whole s
    else rewindDecide n whole (modGau n k (fun g => { g with rewWait := true }) s)

/-- GAUGE_REPORT: the Gauge takes the oldest report of a pattern. -/
def execGaugeReport (slot : Fin 256) (coded : List (List Byte)) (intra : BitVec 16) (whole : Bool) (s : State) : Out :=
  let n := slot.val
  match (patOf s n).reports with
  | [] => .next s
  | w :: rest =>
    let s := modPat n (fun p => { p with reports := rest }) s
    let tag := bitsOf w.toNat 64 8
    let val := w.toNat % 2 ^ 64
    match tag % 64 with
    | 1 => .next (reportAnalysis n (tag / 64) val s)
    | 2 => .next (reportRowend n (tag / 64) val (coded.map (·.map BitVec.toNat)) intra.toNat whole s)
    | _ => .next (badReport s)

/-! ### Joint allocation (R432-R437) -/

/-- A member of a joint group: slot and output. -/
def jointMembers (s : State) (grp : Nat) : List (Nat × Nat) :=
  if grp = 0 then []
  else (slotsUsed s).flatMap fun n =>
    let d := (patOf s n).desc
    ((List.range (dNout d)).filter fun k =>
      isHevc d k && !bitAt (dGau d k 0x0E 1) 0 && dGau d k 0x0F 1 == grp).map fun k => (n, k)

/-- W × K of a member, with the frame rate as a fraction of 1,001,000. -/
def jointWK (s : State) (e : Nat × Nat) : Nat :=
  let d := (patOf s e.1).desc
  dGau d e.2 0x16 1 * (gauOf s e.1 e.2).ksum.getD 0 * dNum d * (1001000 / dDen d)

/-- RATE of a member. -/
def jointRate (s : State) (e : Nat × Nat) : Nat := dGau (patOf s e.1).desc e.2 0 4

/-- RMAX of a member. -/
def jointMax (s : State) (e : Nat × Nat) : Nat := dGau (patOf s e.1).desc e.2 4 4

/-- Divide a total by weights within bounds: what clamping frees or takes is spread once over the members not clamped
(R433). Each entry holds weight, lower and upper bound. -/
def divideShares (total : Nat) (l : List (Nat × Nat × Nat)) : List Nat :=
  let sum := l.foldl (fun n e => n + e.1) 0
  let raw := l.map fun e => shareOf total e.1 sum
  let held := (List.range l.length).map fun i => clampNat (l.getD i (0, 0, 0)).2.1 (l.getD i (0, 0, 0)).2.2 (raw.getD i 0)
  let free := (List.range l.length).filter fun i => raw.getD i 0 == held.getD i 0
  let diff : Int := ((total : Nat) : Int) - held.foldl (fun n v => n + ((v : Nat) : Int)) 0
  let w := free.foldl (fun n i => n + (l.getD i (0, 0, 0)).1) 0
  (List.range l.length).map fun i =>
    let v := held.getD i 0
    if !free.contains i || w = 0 then v
    else
      let x := ((v : Int) + diff * ((l.getD i (0, 0, 0)).1 : Nat) / (w : Nat)).toNat
      clampNat (l.getD i (0, 0, 0)).2.1 (l.getD i (0, 0, 0)).2.2 x

/-- A group. -/
def jointOf (s : State) (grp : Nat) : JointSt := tabGet .reset s.joint grp

/-- Change a group. -/
def modJoint (grp : Nat) (f : JointSt → JointSt) (s : State) : State := { s with joint := tabMod .reset s.joint grp f }

/-- Divide a total among a group's members: members without a complete picture take RATE first (R434). -/
def jointDivide (grp total : Nat) (s : State) : State :=
  let ms := jointMembers s grp
  let fresh := ms.filter fun e => (gauOf s e.1 e.2).ksum.isNone
  let ready := ms.filter fun e => (gauOf s e.1 e.2).ksum.isSome
  let left := total - fresh.foldl (fun n e => n + jointRate s e) 0
  let sh := divideShares left (ready.map fun e => (jointWK s e, jointRate s e / 4, jointMax s e))
  let give (e : Nat × Nat) (v : Nat) (s : State) : State := modGau e.1 e.2 (fun g => { g with nextShare := some v }) s
  let s' := forEach fresh (fun e t => give e (jointRate s e) t) s
  let s' := forEach (List.range ready.length) (fun i t => give (ready.getD i (0, 0)) (sh.getD i 0) t) s'
  let alloc := fresh.foldl (fun n e => n + jointRate s e) 0 + sh.foldl (· + ·) 0
  modJoint grp (fun j => { j with total := total, alloc := alloc }) s'

/-- The total of a group now: a local group's RATEs; a stage group's share, or its own RATEs on the fallback. -/
def jointTotal (s : State) (grp : Nat) : Nat :=
  let own := (jointMembers s grp).foldl (fun n e => n + jointRate s e) 0
  if grp < 0x40 then own
  else
    let j := jointOf s grp
    if j.localOn then own else j.share.getD own

/-- A stage share of this frame comes into force (R435). -/
def jointApply (grp : Nat) (s : State) : State :=
  let j := jointOf s grp
  match j.next with
  | some (f, v) =>
    if f = frameNow s then
      modJoint grp (fun j => { j with share := some v, next := none, silent := 0, localOn := false, applied := f }) s
    else s
  | none => s

/-- JOINT_ALLOCATION: at line 0 of a raster frame (R433-R435). -/
def execJointAllocation (s : State) : Out :=
  if !rasterValid s || lineNow s ≠ 0 then .next s
  else
    let grps := ((List.range 128).filter fun g => within 1 g 15 || within 0x40 g 0x7F).filter fun g =>
      !(jointMembers s g).isEmpty
    .next (forEach grps (fun g s => let s := jointApply g s; jointDivide g (jointTotal s g) s) s)

/-- The sums of this device for a stage group (R435). -/
def ownSums (s : State) (grp : Nat) : ShareSums :=
  let ms := jointMembers s grp
  let add (f : Nat × Nat → Nat) : Nat := ms.foldl (fun n e => n + f e) 0
  ⟨frameNow s, add (jointWK s), add (fun e => jointRate s e / 4), add (jointMax s), add (jointRate s)⟩

/-- The manager divides a stage group among the devices whose sums of a frame it holds (R435). -/
def stageDivide (grp frame : Nat) (s : State) : State :=
  let l := (jointOf s grp).sums.filterMap fun e =>
    match e.2 with | some x => if x.frame = frame then some (e.1, x) else none | none => none
  let total := l.foldl (fun n e => n + e.2.rate) 0
  let sh := divideShares total (l.map fun e => (e.2.wk, e.2.rmin, e.2.rmax))
  let f := (frame + 8) % 2 ^ 40
  forEach (List.range l.length) (fun i s =>
    let dev := (l.map Prod.fst).getD i 0
    let v := sh.getD i 0
    if dev = 0 then modJoint grp (fun j => { j with next := some (f, v) }) s else sendMsg dev (.share grp f v) s) s

/-- Sums of a device reach the manager. -/
def takeSums (grp dev : Nat) (x : ShareSums) (s : State) : State :=
  stageDivide grp x.frame (modJoint grp (fun j => { j with sums := tabSet none j.sums dev (some x) }) s)

/-- STAGE_SHARE_SEND: at frames with F mod 8 = 0 (R435). -/
def execStageShareSend (s : State) : Out :=
  if !rasterValid s || frameNow s % 8 ≠ 0 then .next s
  else
    let grps := ((List.range 128).drop 64).filter fun g => !(jointMembers s g).isEmpty
    .next (forEach grps (fun g s =>
      let x := ownSums s g
      if isManager s then takeSums g 0 x s
      else if joined s then sendMsg 0 (.shareSums g x.frame x.wk x.rmin x.rmax x.rate) s
      else s) s)

/-- STAGE_SHARE_RECEIVE: a share for this device, or a worker's sums for the manager (R435, R436). -/
def execStageShareReceive (link : Fin 8) (h : FlitHdr) (group : BitVec 6) (frame : BitVec 40) (body : ShareBody) (s : State) :
    Out :=
  let g := 64 + group.toNat
  .next (rxOwn link.val h (fun s =>
    match body with
    | .share kbps =>
      modJoint g (fun j => { j with next := some (frame.toNat, kbps.toNat), silent := 0, localOn := false }) s
    | .sums wk rmin rmax rate => if isManager s then takeSums g h.src.val ⟨frame.toNat, wk, rmin, rmax, rate⟩ s else s) s)

/-- STAGE_SHARE_MISSED: line 0 of a frame that should have brought a share (R436). -/
def execStageShareMissed (group : BitVec 6) (s : State) : Out :=
  let g := 64 + group.toNat
  let j := jointOf s g
  let f := frameNow s
  if !rasterValid s || lineNow s ≠ 0 || f % 8 ≠ 0 || (jointMembers s g).isEmpty || j.applied = f ||
      (match j.next with | some (x, _) => decide (x = f) | none => false) then .next s
  else
    let out := decide (j.silent + 8 ≥ fld s F.GAU_CTRL_STMO)
    let s := modJoint g (fun j => { j with
      missed := satAdd j.missed 1 65535, silent := j.silent + 8, localOn := j.localOn || out }) s
    .next (if out && !j.localOn then raise 715 s else s)

/-! ### Key requests and seeds (R372, R428) -/

/-- What a write of SYS_KEYREQ does (R372, R740). -/
def keyReqEffect (v : List Nat) (s : State) : State :=
  let n := valOf v F.SYS_KEYREQ_SLOT
  let k := valOf v F.SYS_KEYREQ_OUT
  let d := (patOf s n).desc
  if (patOf s n).st ≠ .running || k ≥ dNout d then s
  else if dStage d ≠ 0 then stageKeyAsk (dStage d) k s
  else keyCounted n k none s

/-- KEY_REQUEST (R372). -/
def execKeyRequest (req : Req) (slot : Fin 256) (out : Fin 4) (s : State) : Out :=
  .next (commitWords .SYS_KEYREQ 0 0 req [out.val * 256 + slot.val] neverBusy anyOk keyReqEffect s)

/-- SEED_RECORD: every hour of RUNNING (R428). -/
def execSeedRecord (slot : Fin 256) (out : Fin 4) (s : State) : Out :=
  let n := slot.val
  let k := out.val
  let d := (patOf s n).desc
  let g := gauOf s n k
  if (patOf s n).st ≠ .running || k ≥ dNout d || !isHevc d k || g.seedAt = 0 || s.now < g.seedAt then .next s
  else
    let s := modGau n k (fun g => { g with seedAt := g.seedAt + 3600000000000 }) s
    .next (if flag s F.GAU_CTRL_SEEDWR then ldgPush (seedRecord s d k g) s else s)

end Sys2Proof.Machine
end

