-- ==== Sys2Proof/Machine/Encode.lean ====
section
/-! DEFINITION. Rows of encoding: their starts, the lines they code, JPEG XS slices and rows without cross-view data
(spec/08 R339, R354, R357, R381, R382, R388, R389). -/

namespace Sys2Proof.Machine

/-! ### The lines of a row (R339, R381, R382) -/

/-- A row's input lines: first and past the last. -/
def rowSpan (d : List Nat) (k v r : Nat) : Nat × Nat :=
  let h := rowLines d k
  (r * h, min ((r + 1) * h) (dIn d (viewInput d k v) 6 2))

/-- The delivered lines of a frame in a span. -/
def seenLines (l : List (Nat × Nat × Nat)) (frame a b : Nat) : List (Nat × Nat) :=
  (l.filter fun e => e.1 == frame && decide (a ≤ e.2.1) && decide (e.2.1 < b)).map Prod.snd

/-- The frame of the row's lines: the picture's, or that of the line last delivered in the span. -/
def rowFrame (l : List (Nat × Nat × Nat)) (frame : Option Nat) (a b : Nat) : Option Nat :=
  match frame with
  | some f => some f
  | none => (l.find? fun e => decide (a ≤ e.2.1) && decide (e.2.1 < b)).map Prod.fst

/-- Every line of a span has been delivered. -/
def allSeen (l : List (Nat × Nat)) (a b : Nat) : Bool :=
  ((List.range b).drop a).all fun n => l.any fun e => e.1 == n

/-- What the row's lines are: whether all have been delivered, their frame, how many are MISSING, whether one is bad. A row
of a decoded picture has its lines when it is coded (notes/assumptions/20.md). -/
def rowInput (s : State) (n k v r needle : Nat) (frame : Option Nat) : Bool × Nat × Nat × Bool :=
  let d := (patOf s n).desc
  if dIn d (viewInput d k v) 0 1 ≠ 1 then (true, frame.getD (frameNow s % 65536), 0, false)
  else
    let (a, b) := rowSpan d k v r
    let l := (ndlOf s needle).seen
    match rowFrame l frame a b with
    | none => (false, 0, 0, false)
    | some f =>
      let x := seenLines l f a b
      (allSeen x a b, f, (x.filter fun e => decide (e.2 ≥ 2)).length, x.any fun e => e.2 % 2 == 1)

/-- Lines that are replaced and lines coded as delivered leave their marks (R381, R382). -/
def markLines (n k v missing : Nat) (bad : Bool) (s : State) : State :=
  let fl := (if missing > 0 then flagInfill else 0) ||| (if bad then flagBad else 0)
  let s := modEnc n k (fun e => modView v (fun w => { w with flags := w.flags ||| fl })
    { e with infill := satAdd e.infill missing 65535 }) s
  if missing > 0 then raise 713 s else s

/-- The picture's frame is that of its first row. -/
def setFrame (n k f : Nat) (s : State) : State :=
  modEnc n k (fun e => { e with pic := e.pic.map fun p => { p with frame := some (p.frame.getD f) } }) s

/-! ### Rows of HEVC outputs (R339, R354, R356, R357) -/

/-- A stripe's row state. -/
def rowSt (s : State) (n k v i : Nat) : RowSt := tabGet .reset (encOf s n k).rows (8 * v + i)

/-- Change a stripe's row state. -/
def modRow (n k v i : Nat) (f : RowSt → RowSt) (s : State) : State :=
  modEnc n k (fun e => { e with rows := tabMod .reset e.rows (8 * v + i) f }) s

/-- A stripe of the row in progress has ended its pass. -/
def stripeEnded (g : Gau) (key : Nat) : Bool :=
  let t := tabGet .reset g.stripes key
  if g.inRew then t.bits2.isSome else t.bits1.isSome

/-- The needle is coding a stripe of the output. -/
def codesRow (s : State) (n k needle : Nat) : Bool :=
  (encOf s n k).rows.any fun e => e.2.started && e.2.needle == needle && !stripeEnded (gauOf s n k) e.1

/-- The needle codes a stripe: its rank names it (R321). -/
def needleCodes (d : List Nat) (needle i : Nat) : Bool :=
  let ns := dNeedles d
  ns.contains needle && rankStripe d (ns.findIdx (· == needle)) ns.length == i

/-- A view's row is counted as late for its window once (R354). -/
def windowWaits (n k v i : Nat) (s : State) : State :=
  if ((List.range 8).any fun j => (rowSt s n k v j).late) then modRow n k v i (fun r => { r with late := true }) s
  else
    let s := modRow n k v i (fun r => { r with late := true }) s
    modEnc n k (fun e => modView v (fun w => { w with flags := w.flags ||| flagWin })
      { e with winlate := satAdd e.winlate 1 4095 }) s

/-- The stripe starts coding. -/
def stripeStart (n k v i needle frame missing : Nat) (bad : Bool) (s : State) : State :=
  let first := !((List.range 8).any fun j => (rowSt s n k v j).started) && !(gauOf s n k).inRew
  let s := modRow n k v i (fun r => { r with started := true, needle := needle }) (setFrame n k frame s)
  if first then markLines n k v missing bad s else s

/-- The conditions of R339 of a stripe other than window and cross-view data: its lines' frame, MISSING lines and a bad
one. -/
def stripeReady (s : State) (n k v i needle : Nat) : Option (Nat × Nat × Bool) :=
  let d := (patOf s n).desc
  let w := tabGet .reset (gauOf s n k).rows v
  match (encOf s n k).pic, w.row with
  | some p, some r =>
    let t := rowSt s n k v i
    if !outLive s n k || decide (v ≥ dViews d k) || decide (i ≥ dStripes d k) || decide (r ≥ dRows d k) || t.started ||
        stripeEnded (gauOf s n k) (8 * v + i) || !needleCodes d needle i || !ndlExec s needle || codesRow s n k needle then
      none
    else
      let (ok, f, missing, bad) := rowInput s n k v r needle p.frame
      if ok then some (f, missing, bad) else none
  | _, _ => none

/-- The start of a stripe of a budgeted output. `window`: the search windows are resident; `xview`: the cross-view condition
of R356 holds; `prep`: a PREP routine has replaced missing lines itself (R381). -/
def hevcRow (n k v i needle : Nat) (window xview prep : Bool) (s : State) : State :=
  let s := if (encOf s n k).pic.isNone then nextPicture n k s else s
  let d := (patOf s n).desc
  match stripeReady s n k v i needle with
  | none => s
  | some (f, missing, bad) =>
    let t := rowSt s n k v i
    let inter := match (encOf s n k).pic with | some p => decide (p.plan.ptype ≠ 0) | none => false
    let cross := v = 0 || xview || t.alone
    if inter && !window then (if cross then windowWaits n k v i s else s)
    else if !cross then
      (if t.ready.isNone then modRow n k v i (fun r => { r with ready := some (totalNow s), needle := needle }) s else s)
    else stripeStart n k v i needle f (if prep && dOut d k 0x14 2 ≠ 0xFFFF then 0 else missing) bad s

/-- XVLATE: two row periods after its other conditions held, a row is coded without inter-layer prediction (R357). -/
def execXvlate (slot : Fin 256) (out : Fin 4) (view : Fin 16) (stripe : Fin 8) (s : State) : Out :=
  let n := slot.val
  let k := out.val
  let v := view.val
  let i := stripe.val
  let d := (patOf s n).desc
  let t := rowSt s n k v i
  match t.ready with
  | none => .next s
  | some a =>
    if v = 0 || t.started || t.alone || totalNow s < a + 2 * rowLines d k * 4096 then .next s
    else
      let counted := (List.range 8).any fun j => (rowSt s n k v j).alone
      let s := modRow n k v i (fun r => { r with alone := true }) s
      if counted then .next s
      else
        .next (raise 713 (modEnc n k (fun e => modView v (fun w => { w with flags := w.flags ||| flagXv })
          { e with xvlate := satAdd e.xvlate 1 65535 }) s))

/-! ### JPEG XS and raw outputs (R388, R389) -/

/-- A picture of an output without a budget starts with its first slice. -/
def plainStart (n k : Nat) (s : State) : State :=
  let s := altEntries n k s
  if !outLive s n k then s
  else
    let d := (patOf s n).desc
    let (b, s) := match outPool s n k with
      | some p => (match stlAllocOp (patOwner d) p s with | (.ok h, s) => (some h, s) | (.error _, s) => (none, s))
      | none => (none, s)
    modEnc n k (fun e =>
      let fl := if e.restart || e.redo then flagRestart else 0
      let pic : EncPic := ⟨⟨3, false, fl, 0, 1⟩, 0, none, [], b, b.isNone⟩
      { e with pic := some pic, restart := false, redo := false, started := true, order := e.order + 1, rows := [] }) s

/-- A picture of an output without a budget ends with its last slice. -/
def plainEnd (n k : Nat) (s : State) : State :=
  let d := (patOf s n).desc
  match (encOf s n k).pic with
  | none => s
  | some p =>
    let s := if p.dropped then dropPicture n k true s else passView n k 0 p true s
    let s := match p.buf with | some h => (stlFreeOp (patOwner d) h s).2 | none => s
    modEnc n k (fun e => { e with
      pics := (e.pics + 1) % 2 ^ 32, lastFrame := some (p.frame.getD (frameNow s)), pic := none, rows := [] }) s

/-- One slice is coded: its units join the picture, and go at once with LATENCY = 1. -/
def plainRow (n k needle : Nat) (prep : Bool) (coded : List (List Nat)) (s : State) : State :=
  let d := (patOf s n).desc
  let s := if (encOf s n k).pic.isNone then plainStart n k s else s
  let r := (rowSt s n k 0 0).row
  match (encOf s n k).pic with
  | none => s
  | some p =>
    let (ok, f, missing, bad) := rowInput s n k 0 r needle p.frame
    if !ok || !outLive s n k || !(dNeedles d).contains needle || !ndlExec s needle then s
    else
      let s := setFrame n k f (markLines n k 0 (if prep && dOut d k 0x14 2 ≠ 0xFFFF then 0 else missing) bad s)
      let bytes := (coded.map List.length).foldl (· + ·) 0
      let s := modEnc n k (modView 0 fun w => { w with units := w.units ++ coded, bytes := w.bytes + bytes }) s
      let last := r + 1 ≥ dRows d k
      let s := match (encOf s n k).pic with
        | some p =>
          if lowLatency d k && !p.dropped then
            passUnits n k (if r = 0 then some (picNote s n k 0 p) else none) f (if r = 0 then 2047 else r) last coded s
          else s
        | none => s
      let s := modRow n k 0 0 (fun t => { t with row := r + 1 }) s
      if last then plainEnd n k s else s

/-- ROW_START: a stripe of a row, or a JPEG XS slice with its coded units (R339, R388). -/
def execRowStart (slot : Fin 256) (out : Fin 4) (view : Fin 16) (stripe : Fin 8) (needle : Fin 128) (window xview prep : Bool)
    (coded : List (List Byte)) (s : State) : Out :=
  let n := slot.val
  let k := out.val
  let d := (patOf s n).desc
  if (patOf s n).st ≠ .running || k ≥ dNout d then .next s
  else if isHevc d k then .next (hevcRow n k view.val stripe.val needle.val window xview prep s)
  else .next (plainRow n k needle.val prep (coded.map (·.map BitVec.toNat)) s)

end Sys2Proof.Machine
end

