-- ==== Sys2Proof/Machine/Decoding.lean ====
section
/-! DEFINITION. Decoding: coded units, activation, pools and marks, loss and concealment, and output (spec/10). -/

namespace Sys2Proof.Machine

/-! ### Configuration and units (R439-R444) -/

/-- SUBST, HASH, DELAY and GAPWAIT in effect; the values of an input never written (SYS_DECCFG). -/
def decCfg (x : Dec) : Nat × Nat × Nat × Nat := x.cfg.getD (0, 0, 2, 32)

/-- SUBST. -/
def decSubst (x : Dec) : Nat := (decCfg x).1
/-- HASH. -/
def decHash (x : Dec) : Bool := (decCfg x).2.1 == 1
/-- DELAY. -/
def decDelay (x : Dec) : Nat := (decCfg x).2.2.1
/-- GAPWAIT. -/
def decGap (x : Dec) : Nat := (decCfg x).2.2.2

/-- The extended number of a 16-bit number: nearest to the highest, the lower at 2¹⁵ (R440). -/
def extendNo (high v : Nat) : Nat :=
  let d := (v + 65536 - high % 65536) % 65536
  if d < 32768 then high + d else if high + d ≥ 65536 then high + d - 65536 else high + d

/-- A coded input of a RUNNING slot. -/
def decLive (s : State) (n i : Nat) : Bool :=
  decide ((patOf s n).st = .running) && !(patOf s n).dead && decide (i < dNin (patOf s n).desc) &&
    codedIn (patOf s n).desc i

/-- The input is JPEG XS. -/
def xsIn (s : State) (n i : Nat) : Bool := dIn (patOf s n).desc i 3 1 == 0x11

/-- Put a unit in its place in the ring. -/
def ringPut (u : CUnit) : List CUnit → List CUnit
  | [] => [u]
  | x :: t => if u.no < x.no then u :: x :: t else x :: ringPut u t

/-- The number has been received. -/
def numReceived (x : Dec) (e : Nat) : Bool :=
  (decide (e < x.nextNo) && !x.lostNos.contains e) || x.ring.any fun u => decide (u.lo ≤ e) && decide (e ≤ u.no)

/-! ### Episodes (R455, R461) -/

/-- An event that starts an episode, or restarts its conditions. -/
def episodeStart (n i : Nat) (s : State) : State :=
  let was := (decOf s n i).episode.isSome
  let s := modDec n i (fun x => { x with episode := some ⟨none, 0⟩ }) s
  if was then s else raise 716 s

/-! ### Output (R462-R465) -/

/-- The raw outputs of a pattern: those to which a decode passes pictures. -/
def rawOuts (d : List Nat) : List Nat := (List.range (dNout d)).filter fun k => dOut d k 0 1 == 4

/-- The 16 bytes of a decode note (R465). -/
def decNote (frame slot out ptype : Nat) (p : OutPic) : List Nat :=
  leBytes 8 (frame % 2 ^ 16 * 2 ^ 48 + slot * 2 ^ 40 + out * 2 ^ 38 + ptype * 2 ^ 31 + (p.poc % 2 ^ 31).toNat) ++
    leBytes 8 (p.ts % 2 ^ 32 * 2 ^ 32 + min p.lost 65535 * 2 ^ 16 + min p.nonex 255 * 2 ^ 8 + p.flags % 32)

/-- Pass the lines of a picture to one output. -/
def outLines (n k frame : Nat) (note : List Nat) (lines : List (List Nat)) (s : State) : State :=
  let d := (patOf s n).desc
  let s := passUnits n k (some note) frame 2047 true lines s
  if bitAt (dOut d k 0x40 1) 0 then passToMagazine n k note lines none (patOwner d) s else s

/-- Pass a picture to the outputs of a latency: the frame of its note, its PTYPE. -/
def outPass (n i : Nat) (low : Bool) (frame ptype : Nat) (p : OutPic) (s : State) : State :=
  let d := (patOf s n).desc
  forEach ((rawOuts d).filter fun k => lowLatency d k == low) (fun k s =>
    outLines n k frame (decNote frame n k ptype p) (Config.decodedLines [n, i, k, p.ts, p.order]) s) s

/-- An entry that has become free loses its marks (R452). -/
def entrySettle (e : PoolEntry) : PoolEntry :=
  if decide (e.ref = .unused) && !e.outPend then { e with nonex := false, conc := false } else e

/-- The entries of a picture are no longer pending output. -/
def clearPend (hs : List Nat) (l : List PoolEntry) : List PoolEntry :=
  l.map fun e => if hs.contains e.handle then entrySettle { e with outPend := false } else e

/-- Free entries of an earlier SPS return to the pool (R450). -/
def oldReturn (n i : Nat) (s : State) : State :=
  let own := patOwner (patOf s n).desc
  let x := decOf s n i
  let free := x.old.filter fun e => decide (e.ref = .unused) && !e.outPend
  freeHandles own (free.map PoolEntry.handle) (modDec n i (fun x => { x with
    old := x.old.filter fun e => !(decide (e.ref = .unused) && !e.outPend) }) s)

/-- A picture leaves the output. -/
def outGone (n i : Nat) (p : OutPic) (s : State) : State :=
  oldReturn n i (modDec n i (fun x => { x with
    pool := clearPend p.entries x.pool, old := clearPend p.entries x.old }) s)

/-- A picture is passed at once to the outputs with LATENCY = 1, in the order of clause C.5.2: the lowest POC while more wait
than the stream reorders (R464). `fuel` bounds the pictures. -/
def bumpOut (n i : Nat) (keep : Nat) : Nat → List OutPic → State → List OutPic × State
  | 0, l, s => (l, s)
  | fuel + 1, l, s =>
    if l.length ≤ keep then (l, s)
    else
      match l with
      | [] => ([], s)
      | x :: t =>
        let p := t.foldl (fun a b => if b.poc < a.poc then b else a) x
        let s := modDec n i (fun x => { x with conc := if p.flags % 2 = 1 then satAdd x.conc 1 65535 else x.conc }) s
        let s := outGone n i p (outPass n i true p.due 4 p s)
        bumpOut n i keep fuel (l.erase p) s

/-- A pattern all of whose raw outputs have LATENCY = 1 has no schedule. -/
def decLow (d : List Nat) : Bool := !(rawOuts d).isEmpty && (rawOuts d).all (lowLatency d)

/-- Pass what waits on the outputs with LATENCY = 1. -/
def lowFlush (n i keep : Nat) (s : State) : State :=
  let l := (decOf s n i).waiting
  let (l, s) := bumpOut n i keep (l.length + 1) l s
  modDec n i (fun x => { x with waiting := l }) s

/-- The due frame of a timestamp (R462). -/
def dueFrame (d : List Nat) (delay ts0 f0 ts : Nat) : Nat :=
  let dt := (ts + 2 ^ 32 - ts0 % 2 ^ 32) % 2 ^ 32
  f0 + delay + (2 * dt * dNum d + dDen d * 90000) / (2 * dDen d * 90000)

/-- A decoded picture is discarded at the output (R462). -/
def outLate (n i : Nat) (p : OutPic) (s : State) : State :=
  outGone n i p (modDec n i (fun x => { x with latepic := satAdd x.latepic 1 255 }) s)

/-- A complete picture enters the schedule (R462, R463). -/
def schedule (n i frame : Nat) (p : OutPic) (s : State) : State :=
  let d := (patOf s n).desc
  let x := decOf s n i
  let (ts0, f0) := x.sched.getD (p.ts, frame)
  let due := dueFrame d (decDelay x) ts0 f0 p.ts
  let aim := frameNow s + decDelay x
  let far := distNat due aim > 16
  let sched := if far then (p.ts, frame) else (ts0, f0)
  let due := if far then frame + decDelay x else due
  let flags := p.flags + (if far then 16 else 0)
  let p := { p with due := due, flags := flags }
  let s := modDec n i (fun x => { x with
    sched := some sched, resyncs := if far then satAdd x.resyncs 1 255 else x.resyncs }) s
  let late := decide (frameNow s > due) || (decide (frameNow s = due) && decide (lineNow s > 0))
  let same := x.waiting.find? fun q => q.due == due
  if late then outLate n i p s
  else
    match same with
    | none => modDec n i (fun x => { x with waiting := x.waiting ++ [p] }) s
    | some q =>
      if p.poc < q.poc then outLate n i q (modDec n i (fun x => { x with waiting := x.waiting.erase q ++ [p] }) s)
      else outLate n i p s

/-! ### The end of a picture (R445, R452, R457-R461) -/

/-- What a picture's end does to an episode: whether it stays concealed, whether it ends the episode, and what is left. -/
def episodeEnd (p : DecPic) (clean : Bool) (e : Option Episode) : Bool × Bool × Option Episode :=
  match e with
  | none => (!clean, false, none)
  | some x =>
    if !clean then (true, false, some ⟨none, 0⟩)
    else
      let rec_ := match x.recovery with | some r => some r | none => p.recovery.map fun c => p.poc + c
      let sweeps := x.sweeps + b2n p.sweepEnd
      let isOver := p.irap || (match rec_ with | some r => decide (p.poc ≥ r) | none => false) || decide (sweeps ≥ 2)
      if isOver then (false, true, none) else (true, false, some ⟨rec_, sweeps⟩)

/-- The picture being decoded closes. -/
def closePic (n i : Nat) (s : State) : State :=
  let x := decOf s n i
  match x.pic with
  | none => s
  | some p =>
    let xs := xsIn s n i
    let lost := p.ctbs - p.got
    let hashBad := !xs && decHash x && lost = 0 && p.hash == some false
    let s := if lost > 0 then modDec n i (fun x => { x with lostpic := satAdd x.lostpic 1 65535 }) s else s
    let s := if hashBad then modDec n i (fun x => { x with hasherr := satAdd x.hasherr 1 255 }) s else s
    let clean := lost = 0 && !hashBad && !p.made
    let s := if !clean && !xs then episodeStart n i s else s
    let e := if xs then none else (decOf s n i).episode
    let (conc, isOver, left) := episodeEnd p clean e
    let conc := conc || (p.rasl && x.raslConc)
    let hs := p.entries.map Prod.snd
    let put (e : PoolEntry) : PoolEntry :=
      if hs.contains e.handle then { e with ref := .short, outPend := p.output, conc := conc } else e
    let s := modDec n i (fun x => { x with
      pic := none, closedTs := some p.ts, pool := x.pool.map put, episode := if xs then x.episode else left,
      pics := (x.pics + 1) % 2 ^ 32, raslConc := if p.irap then isOver else x.raslConc }) s
    let out : OutPic :=
      ⟨p.order, p.ts, p.frame, p.poc, b2n conc + b2n isOver * 2 + b2n hashBad * 4, lost, p.nonex, hs⟩
    if !p.output then s
    else if decLow (patOf s n).desc then
      if xs then s
      else
        let s := modDec n i (fun x => { x with waiting := x.waiting ++ [out] }) s
        lowFlush n i ((decOf s n i).sps.map SpsInfo.reorder |>.getD 0) s
    else schedule n i p.frame out s

/-! ### Activation (R448-R450) -/

/-- An output can be reached from a format (R305, R448). -/
def reachable (d : List Nat) (chroma k : Nat) : Bool :=
  dOut d k 0xC 1 == chroma || (chroma == 2 && dOut d k 0xC 1 == 1)

/-- The checks of R448. -/
def spsOk (d : List Nat) (i : Nat) (x : SpsInfo) : Bool :=
  x.supported && decide (x.width ≤ dIn d i 4 2) && decide (x.height ≤ dIn d i 6 2) &&
    (List.range (dNout d)).all (reachable d x.chroma)

/-- The pool that a pattern's decode entries come from: that of output 0 (R449, R314). -/
def decPool (s : State) (n : Nat) : Option Nat := outPool s n 0

/-- Entries of the pool of one view (R449). -/
def poolSize (x : Dec) (p : SpsInfo) : Nat := p.maxDec + 2 + decDelay x + (if decSubst x = 2 then 1 else 0)

/-- Take the pool of a new SPS (R449, R450): one set of entries per view; all or none. -/
def takePool (n i : Nat) (p : SpsInfo) (s : State) : State :=
  let d := (patOf s n).desc
  let x := decOf s n i
  let num := poolSize x p * max 1 p.views
  let s := oldReturn n i (modDec n i (fun x => { x with old := x.old ++ x.pool, pool := [] }) s)
  let fits (q : Nat) : Bool := decide (picBytes p.width p.height p.chroma p.depth ≤ 2 ^ poolLog s q)
  let got := match decPool s n with
    | some q => if fits q then takeBuffers (patOwner d) q num s else (none, s)
    | none => (none, s)
  match got with
  | (some l, s) =>
    let mk (j : Nat) : PoolEntry := { freshEntry (l.getD j 0) with view := j / max 1 (poolSize x p) }
    modDec n i (fun x => { x with pool := (List.range l.length).map mk, sps := some p, poolBad := false }) s
  | (none, s) =>
    let s := modDec n i (fun x => { x with poolBad := true, sps := none, poolfail := satAdd x.poolfail 1 255 }) s
    raise 716 (episodeStart n i s)

/-- An SPS is activated (R448): unchanged, refused, or in force. -/
def activateSps (n i : Nat) (p : SpsInfo) (s : State) : State :=
  let x := decOf s n i
  if !spsOk (patOf s n).desc i p then
    let s := modDec n i (fun x => { x with unsupp := true, sps := none }) (episodeStart n i s)
    if x.unsupp then s else raise 716 s
  else
    let cleared := x.unsupp || x.poolBad
    let s := modDec n i (fun x => { x with unsupp := false, sched := if cleared then none else x.sched }) s
    if x.sps == some p && !cleared then s else takePool n i p s

/-! ### The start of a picture (R452-R456) -/

/-- The RPS over the entries of a view. -/
def rpsMark (view : Nat) (refs : List (Int × Bool)) (l : List PoolEntry) : List PoolEntry :=
  l.map fun e =>
    if e.view ≠ view || e.ref = .unused then e
    else
      match refs.find? fun r => r.1 == e.poc with
      | some r => { e with ref := if r.2 then .long else .short }
      | none => entrySettle { e with ref := .unused }

/-- The lowest free entry of a view takes a picture: the changed pool and its handle. -/
def takeFreeEntry (view : Nat) (f : PoolEntry → PoolEntry) : List PoolEntry → Option (List PoolEntry × Nat)
  | [] => none
  | e :: t =>
    if e.view = view && decide (e.ref = .unused) && !e.outPend then some (f e :: t, e.handle)
    else (takeFreeEntry view f t).map fun r => (e :: r.1, r.2)

/-- Generate the references that no entry holds (R454); answers the pool and how many were generated. -/
def makeRefs (view : Nat) : List (Int × Bool) → List PoolEntry → List PoolEntry × Nat
  | [], l => (l, 0)
  | r :: t, l =>
    if l.any fun e => e.view == view && decide (e.ref ≠ .unused) && e.poc == r.1 then makeRefs view t l
    else
      let put (e : PoolEntry) : PoolEntry :=
        { e with ref := if r.2 then .long else .short, nonex := true, conc := true, poc := r.1 }
      match takeFreeEntry view put l with
      | some (l, _) => (match makeRefs view t l with | (l, c) => (l, c + 1))
      | none => makeRefs view t l

/-- The part of a picture start that changes marks: IRAP, RPS, generated references (R452, R454, R455). -/
def startMarks (n i : Nat) (u : UnitInfo) (s : State) : State × Nat :=
  let x := decOf s n i
  let l := if u.irap && u.noRasl then
      x.pool.map fun e => if e.view = u.view then
        entrySettle { e with ref := .unused, outPend := e.outPend && !u.noPrior } else e
    else x.pool
  let (l, made) := makeRefs u.view u.refs (rpsMark u.view u.refs l)
  let s := modDec n i (fun x => { x with pool := l, nonex := satAdd x.nonex made 65535 }) s
  (if made > 0 then episodeStart n i s else s, made)

/-- NONEXISTENT entries among a picture's references. -/
def nonexRefs (u : UnitInfo) (l : List PoolEntry) : Nat :=
  (l.filter fun e => e.view == u.view && e.nonex && u.refs.any fun r => r.1 == e.poc).length

/-- A view picture of an access unit starts: its entry, lowest free; none while no entry is free (R452, R453). -/
def startView (n i : Nat) (u : UnitInfo) (p : DecPic) (s : State) : Option State :=
  let (s, made) := startMarks n i u s
  let x := decOf s n i
  let put (e : PoolEntry) : PoolEntry :=
    { e with ref := .short, outPend := false, nonex := false, conc := false, poc := u.poc, order := p.order }
  match takeFreeEntry u.view put x.pool with
  | none => none
  | some (l, h) =>
    let p := { p with
      ctbs := p.ctbs + u.ctbs, nonex := p.nonex + nonexRefs u x.pool, made := p.made || decide (made > 0)
      entries := tabSet 0 (tabErase p.entries u.view) u.view h }
    some (modDec n i (fun x => { x with pool := l, pic := some p, order := p.order + 1, skip := false }) s)

/-- A picture with nothing decoded. -/
def newPic (x : Dec) (u : CUnit) : DecPic :=
  ⟨x.order, u.ts, u.frame, none, 0, u.info.poc, 0, 0, 0, false, none, u.info.irap, u.info.rasl, u.info.output, false, none,
    [], 0⟩

/-! ### A unit is passed to decoding (R444-R446, R457-R460) -/

/-- What a unit adds to its picture. -/
def unitAdds (line : Nat) (u : CUnit) (p : DecPic) : DecPic :=
  { p with
    markerAt := if u.marker then some line else p.markerAt, lastAt := line,
    got := p.got + (if u.info.damaged then 0 else u.info.ctbsDone),
    hash := if u.info.hash.isSome then u.info.hash else p.hash,
    recovery := if u.info.recovery.isSome then u.info.recovery else p.recovery,
    sweepEnd := p.sweepEnd || u.info.note == some true }

/-- A JPEG XS slice goes at once to the outputs with LATENCY = 1 (R464). -/
def slicePass (n i : Nat) (u : CUnit) (p : DecPic) (s : State) : State :=
  let d := (patOf s n).desc
  if u.info.ctbsDone = 0 then s
  else
    let out : OutPic := ⟨p.order, p.ts, p.frame, 0, 0, 0, 0, []⟩
    let s := forEach ((rawOuts d).filter (lowLatency d)) (fun k s =>
      passUnits n k (if p.sent = 0 then some (decNote p.frame n k 4 out) else none) p.frame (if p.sent = 0 then 2047 else p.sent)
        (decide (p.sent + 1 ≥ p.ctbs)) (Config.decodedLines [n, i, k, p.ts, p.order, p.sent]) s) s
    modDec n i (fun x => { x with pic := x.pic.map fun q => { q with sent := q.sent + 1 } }) s

/-- The unit joins the picture in progress. -/
def unitJoin (n i : Nat) (u : CUnit) (s : State) : State :=
  let s := modDec n i (fun x => { x with
    pic := x.pic.map (unitAdds (lineTotal s) u)
    sliceerr := if u.info.damaged then satAdd x.sliceerr 1 255 else x.sliceerr }) s
  match (decOf s n i).pic with
  | some p => if xsIn s n i then slicePass n i u p s else s
  | none => s

/-- Units are discarded: the stream is not decodable (R448, R450). -/
def decBlocked (x : Dec) : Bool := x.unsupp || x.poolBad || x.sps.isNone

/-- Pass one HEVC unit; none while its picture finds no free entry (R453). -/
def passHevc (n i : Nat) (u : CUnit) (s : State) : Option State :=
  let s := if u.info.first then closePic n i s else s
  let s := match u.info.sps with | some p => activateSps n i p s | none => s
  let x := decOf s n i
  if decBlocked x then some (modDec n i (fun x => { x with skip := true }) s)
  else if u.info.first then
    if u.info.rasl && u.info.noRasl then
      some (modDec n i (fun x => { x with skip := true, raslskip := satAdd x.raslskip 1 65535 }) s)
    else if u.info.ctbs = 0 then some (modDec n i (fun x => { x with skip := false }) s)
    else
      let s := if u.info.irap && u.info.noRasl && decLow (patOf s n).desc && !u.info.noPrior then lowFlush n i 0 s else s
      (startView n i u.info (newPic x u) s).map (unitJoin n i u)
  else if x.skip then some s
  else
    match x.pic with
    | none => if u.info.ctbs = 0 then some s else (startView n i u.info (newPic x u) s).map (unitJoin n i u)
    | some p =>
      if u.info.ctbs > 0 && tabGet 0 p.entries u.info.view = 0 then (startView n i u.info p s).map (unitJoin n i u)
      else some (unitJoin n i u s)

/-- Pass one JPEG XS unit: a picture begins at its start-of-codestream marker (R445, R451). -/
def passXs (n i : Nat) (u : CUnit) (s : State) : State :=
  if u.info.first then
    let s := closePic n i s
    let p := { newPic (decOf s n i) u with ctbs := u.info.ctbs, output := true, poc := ((decOf s n i).order : Int) }
    unitJoin n i u (modDec n i (fun x => { x with pic := some p, order := x.order + 1 }) s)
  else unitJoin n i u s

/-- Pass one unit. -/
def passUnit (n i : Nat) (u : CUnit) (s : State) : Option State :=
  if xsIn s n i then some (passXs n i u s) else passHevc n i u s

/-- Pass units in ascending number while every lower number has arrived or been declared lost (R444). `fuel` bounds the
steps: units and numbers. -/
def ringDrain (n i : Nat) : Nat → State → State
  | 0, s => s
  | fuel + 1, s =>
    let x := decOf s n i
    match x.ring with
    | [] => s
    | u :: t =>
      if u.lo ≤ x.nextNo then
        match passUnit n i u s with
        | none => s
        | some s' => ringDrain n i fuel (modDec n i (fun x => { x with ring := t, nextNo := max x.nextNo (u.no + 1) }) s')
      else if x.lostNos.contains x.nextNo then
        ringDrain n i fuel (modDec n i (fun x => { x with nextNo := x.nextNo + 1 }) s)
      else s

/-- Drain a ring as far as it goes. -/
def drain (n i : Nat) (s : State) : State :=
  let x := decOf s n i
  ringDrain n i (x.ring.length + x.lostNos.length + 1) s

/-! ### Arrival (R439-R443) -/

/-- A unit that is counted late. -/
def unitLate (n i : Nat) (s : State) : State := modDec n i (fun x => { x with late := satAdd x.late 1 65535 }) s

/-- A later unit of an aggregation packet follows the first under its number (R581). -/
def groupUnit (n i e : Nat) (u : CUnit) (s : State) : State :=
  let x := decOf s n i
  if x.ring.any fun v => v.no == e then modDec n i (fun x => { x with ring := ringPut u x.ring }) s
  else if x.nextNo = e + 1 then (passUnit n i u s).getD s
  else s

/-- A unit enters its ring: the numbers between are missing from now. -/
def unitEnter (n i lo e : Nat) (u : CUnit) (line : Nat) (s : State) : State :=
  let x := decOf s n i
  let high := x.high.getD e
  let gap (m : Tab Nat) : Tab Nat :=
    ((List.range lo).drop (high + 1)).foldl (fun m k => tabInsert (tabErase m k) k line) m
  let clear (m : Tab Nat) : Tab Nat := m.filter fun g => !(decide (lo ≤ g.1) && decide (g.1 ≤ e))
  let s := modDec n i (fun x => { x with
    high := some (max high e), nextNo := if x.high.isNone then lo else x.nextNo, gaps := gap (clear x.gaps)
    ring := ringPut u x.ring }) s
  drain n i s

/-- CODED_UNIT_RECEIVE: the next arrival at a coded input (R441-R443, R467). -/
def execCodedUnitReceive (info : UnitInfo) (s : State) : Out :=
  match s.arrivals with
  | [] => .next s
  | a :: rest =>
    let s := { s with arrivals := rest }
    let n := a.slot
    let i := a.input
    if !decLive s n i then .next s
    else
      let x := decOf s n i
      let e := match x.high with | some h => extendNo h a.hi | none => a.hi
      let lo := e - (a.hi + 65536 - a.lo % 65536) % 65536
      let u : CUnit := ⟨lo, e, a.ts, a.marker, a.frame, a.data, info⟩
      if a.lo ≥ 65536 then .next (groupUnit n i e { u with lo := e } s)
      else if e + 4095 < x.high.getD 0 || x.lostNos.contains e then .next (unitLate n i s)
      else if x.high.isSome && numReceived x e then .next (modDec n i (fun x => { x with dup := satAdd x.dup 1 65535 }) s)
      else if x.pic.isNone && !info.first && x.closedTs == some a.ts && x.high.isSome then
        .next (drain n i (unitLate n i (modDec n i (fun x => { x with
          high := some (max (x.high.getD e) e), gaps := tabErase x.gaps e, lostNos := e :: x.lostNos }) s)))
      else if x.ring.length ≥ 4096 then .next (modDec n i (fun x => { x with ringovf := satAdd x.ringovf 1 255 }) s)
      else .next (unitEnter n i lo e u a.line s)

/-- UNIT_LOSS_DECLARE: numbers missing for GAPWAIT lines are lost (R443). -/
def execUnitLossDeclare (slot : Fin 256) (input : Fin 16) (s : State) : Out :=
  let n := slot.val
  let i := input.val
  if !decLive s n i then .next s
  else
    let x := decOf s n i
    let gone := x.gaps.filter fun g => decide (lineTotal s ≥ g.2 + decGap x)
    let s := modDec n i (fun x => { x with
      gaps := x.gaps.filter fun g => !decide (lineTotal s ≥ g.2 + decGap x), lostu := satAdd x.lostu gone.length 65535
      lostNos := (gone.map Prod.fst ++ x.lostNos).filter fun k => decide (k + 4095 ≥ x.high.getD 0) }) s
    .next (drain n i s)

/-- PICTURE_CLOSE_TIMEOUT (R445). -/
def execPictureCloseTimeout (slot : Fin 256) (input : Fin 16) (s : State) : Out :=
  let n := slot.val
  let i := input.val
  let x := decOf s n i
  match x.pic with
  | none => .next s
  | some p =>
    let t := lineTotal s
    let due := (match p.markerAt with | some m => decide (t ≥ m + decGap x) | none => false) ||
      decide (t ≥ p.lastAt + 4 * decGap x)
    if !decLive s n i || !due then .next s else .next (drain n i (closePic n i s))

/-! ### Scheduled output (R462, R466) -/

/-- A repeat of the last picture, or mid-grey (R462, R465). -/
def outRepeat (n i : Nat) (s : State) : State :=
  let x := decOf s n i
  let p : OutPic := match x.last with
    | some p => { p with flags := p.flags % 2 + b2n x.unsupp * 8 }
    | none => ⟨0, 0, 0, 0, b2n x.unsupp * 8, 0, 0, []⟩
  let s := modDec n i (fun x => { x with underrun := satAdd x.underrun 1 65535 }) s
  outPass n i false (frameNow s) 5 p s

/-- DECODE_OUTPUT: at line 0 of a frame (R462). -/
def execDecodeOutput (slot : Fin 256) (input : Fin 16) (s : State) : Out :=
  let n := slot.val
  let i := input.val
  let d := (patOf s n).desc
  let x := decOf s n i
  let f := frameNow s
  if !decLive s n i || !rasterValid s || lineNow s ≠ 0 || decLow d then .next s
  else
    match x.sched, x.waiting.find? fun p => p.due == f with
    | none, _ => .next s
    | some _, some p =>
      let s := modDec n i (fun x => { x with
        waiting := x.waiting.erase p, last := some p, conc := if p.flags % 2 = 1 then satAdd x.conc 1 65535 else x.conc }) s
      .next (drain n i (outGone n i p (outPass n i false f 4 p s)))
    | some (_, f0), none =>
      if x.last.isSome || f ≥ f0 + decDelay x then .next (drain n i (outRepeat n i s)) else .next s

/-! ### SYS_DECCFG -/

/-- A write for a slot that is not LOADED. -/
def decCfgBusy (s : State) (v : List Nat) : Option Berr :=
  busyIf (decide ((patOf s (valOf v F.SYS_DECCFG_SLOT)).st ≠ .loaded))

/-- A write that names no coded input. -/
def decCfgOk (s : State) (v : List Nat) : Bool :=
  let d := (patOf s (valOf v F.SYS_DECCFG_SLOT)).desc
  decide (valOf v F.SYS_DECCFG_IN < dNin d) && codedIn d (valOf v F.SYS_DECCFG_IN)

/-- The configuration of an input. -/
def decCfgEffect (v : List Nat) (s : State) : State :=
  modDec (valOf v F.SYS_DECCFG_SLOT) (valOf v F.SYS_DECCFG_IN) (fun x => { x with
    cfg := some (valOf v F.SYS_DECCFG_SUBST, valOf v F.SYS_DECCFG_HASH, valOf v F.SYS_DECCFG_DELAY,
      valOf v F.SYS_DECCFG_GAPWAIT) }) s

/-- At the first PSTART an input never configured takes its defaults. -/
def decStart (n : Nat) (s : State) : State :=
  let d := (patOf s n).desc
  forEach ((List.range (dNin d)).filter (codedIn d)) (fun i s =>
    modDec n i (fun x => { x with cfg := some (decCfg x) }) s) s

end Sys2Proof.Machine
end

