-- ==== Sys2Proof/Machine/Secure.lean ====
section
/-! DEFINITION. SEC: held commands, image checks, nano bank loads, the boot flash and cast-on, the debug unlock and
attestation (spec/19). -/

namespace Sys2Proof.Machine

/-- Change SEC. -/
def modSec (f : Sec → Sec) (s : State) : State := { s with sec := f s.sec }

/-- A SEC record of the Ledger: the event byte first (R811). -/
def secRecord (l : List Nat) (s : State) : State := ldgPush (mkRec s 8 0 l) s

/-- A refused image is counted and raises SECREF (R752). -/
def imageRefused (s : State) : State := raise 797 (bump F.SEC_CNT_REFUSED s)

/-- The bytes that an image's signature covers. -/
def signedBytes (b : List Nat) : List Nat := (sigBlock b).1

/-! ### Completion of a command (R751) -/

/-- The command at the head completes: RESULT, and DETAIL or FAILMASK. -/
def secDone (nload : Bool) (result extra : Nat) (s : State) : State :=
  let s := modSec (fun x => { x with held := x.held.drop 1 }) s
  if nload then raise 796 (setFld F.SEC_NRES_RESULT result (setFld F.SEC_NRES_FAILMASK extra s))
  else raise 795 (setFld F.SEC_CMDSTAT_RESULT result (setFld F.SEC_CMDSTAT_DETAIL extra s))

/-! ### Boot flash (R759, R760) -/

/-- A byte of the boot flash; one never written is erased. -/
def flashByte (s : State) (a : Nat) : Nat := (tabGet 255 s.sec.flash a).toNat

/-- Bytes of the boot flash. -/
def flashRead (s : State) (a n : Nat) : List Nat := (List.range n).map fun i => flashByte s (a + i)

/-- Write bytes of the boot flash. -/
def flashWrite : List Nat → Nat → State → State
  | [], _, s => s
  | b :: t, a, s => flashWrite t (a + 1) (modSec (fun x => { x with flash := tabSet 255 x.flash a (BitVec.ofNat 8 b) }) s)

/-- A directory copy is valid (R759). -/
def dirOk (d : List Nat) : Bool := dLe d 0 4 == 0x44465154 && dLe d 0xFFC 4 == crc32c (d.take 0xFFC)

/-- A directory copy. -/
def dirCopy (s : State) (i : Nat) : List Nat := flashRead s (0x1000 * i) 0x1000

/-- The current directory: its copy number and contents (R759). -/
def dirNow (s : State) : Option (Nat × List Nat) :=
  let a := dirCopy s 0
  let b := dirCopy s 1
  if dirOk a && (!dirOk b || decide (dLe b 4 4 ≤ dLe a 4 4)) then some (0, a)
  else if dirOk b then some (1, b) else none

/-- Replace bytes of a block at an offset. -/
def dirPatch (d : List Nat) (off : Nat) (l : List Nat) : List Nat := d.take off ++ l ++ d.drop (off + l.length)

/-- Rewrite the directory into the other copy with GEN + 1 (R759). -/
def dirWrite (i : Nat) (d : List Nat) (s : State) : State :=
  let body := dirPatch (d.take 0xFFC) 4 (leBytes 4 (dLe d 4 4 + 1))
  flashWrite (body ++ leBytes 4 (crc32c body)) (0x1000 * (1 - i)) s

/-- ACTIVE of image type t: 0 BOOT, 1 STAGE, 2 APP. -/
def dirActive (d : List Nat) (t : Nat) : Nat := dLe d (0x024 + 0x20 * t) 1 % 2

/-- PENDING of a type. -/
def dirPending (d : List Nat) (t : Nat) : Bool := dLe d (0x025 + 0x20 * t) 1 == 1

/-- The flash offset of slot i of a type. -/
def dirSlot (d : List Nat) (t i : Nat) : Nat := dLe d (0x010 + 0x20 * t + 8 * i) 8

/-- CAP of a type. -/
def dirCap (d : List Nat) (t : Nat) : Nat := dLe d (0x020 + 0x20 * t) 4

/-- TRIED. -/
def dirTried (d : List Nat) : Bool := dLe d 8 1 == 1

/-- Set ACTIVE and PENDING of a type. -/
def dirSet (t active pending : Nat) (d : List Nat) : List Nat := dirPatch d (0x024 + 0x20 * t) [active, pending]

/-- Set TRIED. -/
def dirSetTried (v : Nat) (d : List Nat) : List Nat := dirPatch d 8 [v]

/-- Every PENDING bit and TRIED cleared (R760). -/
def dirClear (d : List Nat) : List Nat :=
  dirSetTried 0 ([0, 1, 2].foldl (fun d t => dirSet t (dirActive d t) 0 d) d)

/-- Every pending slot active, PENDING and TRIED cleared (R760). -/
def dirConfirm (d : List Nat) : List Nat :=
  dirSetTried 0 ([0, 1, 2].foldl (fun d t =>
    dirSet t (if dirPending d t then 1 - dirActive d t else dirActive d t) 0 d) d)

/-- The image at a flash offset: its whole LENGTH when the header is sound. -/
def flashImage (s : State) (a : Nat) : List Nat :=
  let h := flashRead s a 128
  if imageStruct h then flashRead s a (dLe h 8 4) else h

/-- The active image of a type. -/
def activeImage (s : State) (t : Nat) : Option (List Nat) :=
  (dirNow s).map fun d => flashImage s (dirSlot d.2 t (dirActive d.2 t))

/-! ### Commands without an image -/

/-- CONFIRM (R760). -/
def confirmNow (s : State) : State :=
  match dirNow s with
  | some (i, d) => secDone false 0 0 (dirWrite i (dirConfirm d) s)
  | none => secDone false 9 0 s

/-- ADVANCE (R762): the count rises to the smallest of the target and the RBK of the active BOOT and STAGE images. -/
def advanceNow (target : Nat) (s : State) : State :=
  let rbk (t : Nat) : Nat := match activeImage s t with
    | some b => if imageStruct (b.take 128) then dLe b 0x0C 1 else 0
    | none => 0
  let goal := min target (min (rbk 0) (rbk 1))
  let s := modSec (fun x => { x with rbcnt := max x.rbcnt goal }) s
  secDone false 0 0 (secRecord [4, s.sec.rbcnt] s)

/-- KEYREV (R748): only when the active BOOT image was signed by the reserve key. -/
def keyrevNow (s : State) : State :=
  let own := match activeImage s 0 with
    | some b => imageStruct (b.take 128) && sigNames Config.reservePub (sigBlock b).2
    | none => false
  if own then secDone false 0 0 (secRecord [5] (modSec (fun x => { x with krev := true }) s))
  else secDone false 3 0 s

/-- A measurement as bytes; zeros when not set. -/
def measured (m : Option (BitVec 384)) : List Nat :=
  match m with | some d => digestBytes d | none => List.replicate 48 0

/-- LIBREV or CUSTREV of both banks of every skein, in the attestation report. -/
def bankRevs (s : State) (f : NanoBank → Nat) : List Nat :=
  (List.range 16).flatMap fun k => [false, true].flatMap fun b =>
    leBytes 2 (if (bankOf s k b).st = .valid then f (bankOf s k b) else 0)

/-- The signed part of the attestation report (R765). -/
def attestBody (s : State) (nonce : List Nat) (no : Nat) : List Nat :=
  leBytes 4 0x54525451 ++ leBytes 2 1 ++ [Config.clevel.toNat, s.sec.rbcnt] ++ leBytes 8 Config.uid.toNat ++ nonce ++
    (match s.sec.owner with | some k => shaBytes k | none => List.replicate 48 0) ++
    measured s.sec.mboot ++ measured s.sec.mstage ++ measured s.sec.mapp ++
    bankRevs s (·.librev) ++ bankRevs s (fun x => if x.cvalid then x.custrev else 0) ++
    [s.pwr.mode.code, s.sec.scopes] ++ leBytes 2 (b2n s.sec.krev + 2 * b2n s.sec.trialfail) ++ leBytes 4 no ++
    leBytes 8 (if s.rck.servo = .locked then secNow s else 0) ++ List.replicate 112 0

/-- The identity key's signature block (R315, R744). -/
def identityBlock (s : State) (msg : List Nat) : List Nat :=
  let sig := Config.identitySign s.free msg
  keyIdOf Config.identityPub ++ List.replicate 24 0 ++ (List.range 96).map fun i => sig.getD i 0 % 256

/-- ATTEST (R765). -/
def attestNow (addr : Nat) (s : State) : State :=
  match readBytes 235 48 addr s with
  | (none, s) => secDone false 10 0 s
  | (some nonce, s) =>
    let no := s.sec.reports + 1
    let body := attestBody s nonce no
    let report := body ++ identityBlock s body
    match writeBytes 235 report (addr + 0x40) (takeFree (modSec (fun x => { x with reports := no }) s)) with
    | (true, s) => secDone false 0 0 s
    | (false, s) => secDone false 10 0 s

/-! ### Nano banks (R208, R209, R767) -/

/-- Needles bound to a bank (R206). -/
def bankUsers (s : State) (k : Nat) (b : Bool) : Nat :=
  ((List.range 8).filter fun i => (ndlOf s (8 * k + i)).bound == some b).length

/-- A LOADED, RUNNING or UNLOADING slot with a needle in a skein names a library revision. -/
def revNamed (s : State) (k rev : Nat) : Bool :=
  (slotsUsed s).any fun n => dLe (patOf s n).desc 0x00C 2 == rev && (dSkeins (patOf s n).desc).contains k

/-- A bank may be loaded or cleared (R208), and no slot needs the revision that it alone holds (R767). -/
def bankFree (s : State) (k : Nat) (b : Bool) : Bool :=
  let x := bankOf s k b
  let y := bankOf s k !b
  domUp s (128 + k) && !(sknOf s k).zeroing && bankUsers s k b == 0 && decide (x.st ≠ .loading) &&
    (decide (x.st = .empty) || !revNamed s k x.librev || (decide (y.st = .valid) && y.librev == x.librev))

/-- The skeins of a mask. -/
def maskSkeins (m : Nat) : List Nat := (List.range 16).filter (bitAt m)

/-- The mask of some skeins. -/
def skeinMask (l : List Nat) : Nat := l.foldl (fun m k => m ||| 2 ^ k) 0

/-- CLEAR (R767): the named banks become EMPTY. -/
def clearNow (bank : Bool) (mask : Nat) (s : State) : State :=
  let bad := (maskSkeins mask).filter fun k => !bankFree s k bank
  if !bad.isEmpty then secDone true 11 (skeinMask bad) s
  else
    let empty (k : Nat) (s : State) : State := modBank k bank (fun _ => .reset) (setBankSt k bank .empty s)
    secDone true 0 0 (storeSettle (forEach (maskSkeins mask) empty s))

/-- The bytes of nano entries, 12 each, as numbers. -/
def entryList (b : List Nat) (n : Nat) : List Nat := (List.range n).map fun i => leNat ((b.drop (12 * i)).take 12)

/-- A nano-word with its two parity bits (R210). -/
def withParity (e : Nat) : BitVec 98 :=
  BitVec.ofNat 98 (e % 2 ^ 96 + b2n (parityOf 48 (bitsOf e 0 48)) * 2 ^ 96 + b2n (parityOf 48 (bitsOf e 48 48)) * 2 ^ 97)

/-- The named banks enter LOADING (R767): a library load takes its revision and empties the customer half (R209). -/
def bankLoading (l : NanoLoad) (s : State) : State :=
  let enter (k : Nat) (s : State) : State :=
    let s := setBankSt k l.bank .loading s
    if l.cust then modBank k l.bank (fun x => { x with cvalid := false }) s
    else modBank k l.bank (fun x => { x with librev := l.rev, cvalid := false, custrev := 0 }) s
  modSec (fun x => { x with load := some l }) (forEach l.skeins enter s)

/-- Words of 9 bytes, tag first (R753). -/
def microWords (b : List Nat) : List Native :=
  (List.range (b.length / 9)).map fun i =>
    let w := (b.drop (9 * i)).take 9
    BitVec.ofNat 72 (leNat (w.drop 1) + w.getD 0 0 * 2 ^ 64)

/-- A library image that passed its checks (R767). -/
def libGo (bank : Bool) (mask : Nat) (b : List Nat) (s : State) : State :=
  let rev := dLe b 0x12 2
  let p := imagePayload b
  let s := storeSettle s
  let bad := (maskSkeins mask).filter fun k =>
    let y := bankOf s k !bank
    !bankFree s k bank || (decide (y.st = .valid) && y.librev == rev)
  if (libOf s rev).isNone && 4 ≤ s.sec.store.length then secDone true 12 0 s
  else if !bad.isEmpty then secDone true 11 (skeinMask bad) s
  else
    let e : LibEntry := ⟨rev, microWords (libSection p 1), libSection p 2, libSection p 3⟩
    let s := if (libOf s rev).isSome then s else modSec (fun x => { x with store := x.store ++ [e] }) s
    storeSettle (bankLoading ⟨bank, maskSkeins mask, false, rev, entryList (libSection p 0) 768⟩ s)

/-- A customer image that passed its checks (R209, R767). -/
def custGo (bank : Bool) (mask : Nat) (b : List Nat) (s : State) : State :=
  let base := dLe b 0x14 2
  let wrong := (maskSkeins mask).filter fun k =>
    let x := bankOf s k bank
    !((decide (x.st = .valid) || decide (x.st = .damaged)) && x.librev == base)
  let bad := (maskSkeins mask).filter fun k => !bankFree s k bank
  if !wrong.isEmpty then secDone true 7 (skeinMask wrong) s
  else if !bad.isEmpty then secDone true 11 (skeinMask bad) s
  else bankLoading ⟨bank, maskSkeins mask, true, dLe b 0x12 2, entryList (imagePayload b) 256⟩ s

/-! ### Held commands (R750, R751, R761) -/

/-- A command that needs no image, or that the mode refuses, is performed at once; none for an image command. -/
def secAtOnce (c : SecCmd) (s : State) : Option State :=
  if c.nload then (if c.op = 3 then some (clearNow (bitAt c.arg 27) (bitsOf c.arg 0 16) s) else none)
  else
    let away := decide (s.pwr.mode ≠ .update)
    match c.op with
    | 2 => if away then some (secDone false 8 0 s) else none
    | 3 => some (confirmNow s)
    | 4 => some (if away then secDone false 8 0 s else advanceNow (bitsOf c.arg 0 7) s)
    | 5 => if away then some (secDone false 8 0 s) else none
    | 7 => some (attestNow c.addr s)
    | 8 => some (if away then secDone false 8 0 s else keyrevNow s)
    | _ => none

/-- SEC takes up an image command: it copies an image of 256 KiB or less (R750). An empty copy stands for an image that
could not be read. -/
def secTake (c : SecCmd) (s : State) : State :=
  let (copy, s) : Option (List Nat) × State :=
    match readBytes 235 128 c.addr s with
    | (none, s) => (some [], s)
    | (some h, s) =>
      if !imageStruct h then (some h, s)
      else if dLe h 8 4 ≤ 0x40000 then
        match readBytes 235 (dLe h 8 4) c.addr s with
        | (b, s) => (some (b.getD []), s)
      else (none, s)
  modSec (fun x => { x with held := { c with started := true, copy := copy } :: x.held.drop 1 }) s

/-- SEC goes on with its held commands, oldest first, until one waits for its image check. -/
def secGo : Nat → State → State
  | 0, s => s
  | n + 1, s =>
    match s.sec.held with
    | [] => s
    | c :: _ =>
      if c.started then s
      else
        match secAtOnce c s with
        | some s => secGo n s
        | none => secTake c s

/-- Go on; SEC holds at most two commands. -/
def secPump (s : State) : State := secGo 3 s

/-- NANO_BANK_LOAD_DONE (R769): each loading bank is written and read back; `bad` names the skeins that do not match. -/
def execNanoBankLoadDone (bad : BitVec 16) (s : State) : Out :=
  match s.sec.load with
  | none => .next s
  | some l =>
    let live := l.skeins.filter fun k => decide ((bankOf s k l.bank).st = .loading)
    let (no, ok) := live.partition fun k => bitAt bad.toNat k
    let base := if l.cust then 768 else 0
    let fill (t : Tab (BitVec 98)) : Tab (BitVec 98) :=
      (List.range l.entries.length).foldl (fun t i => tabSet 0 t (base + i) (withParity (l.entries.getD i 0))) t
    let good (k : Nat) (s : State) : State :=
      let put (x : NanoBank) : NanoBank :=
        if l.cust then { x with cvalid := true, custrev := l.rev, entries := fill x.entries }
        else { x with entries := fill [] }
      setBankSt k l.bank .valid (modBank k l.bank put s)
    let lost (k : Nat) (s : State) : State := modBank k l.bank (fun _ => .reset) (setBankSt k l.bank .empty s)
    let s := forEach no lost (forEach ok good s)
    let s := if no.isEmpty then s else report 0x16 0 (skeinMask no) 255 s
    .next (secPump (storeSettle (secDone true 0 (skeinMask no) (modSec (fun x => { x with load := none }) s))))

/-- SEC_CMD holds a command. -/
def secCmdBusy (s : State) (_ : List Nat) : Option Berr := busyIf (s.sec.held.any fun c => !c.nload)

/-- SEC_NLOAD holds a command. -/
def secNloadBusy (s : State) (_ : List Nat) : Option Berr := busyIf (s.sec.held.any (·.nload))

/-- TARGET is 1 to 64 for ADVANCE and 0 otherwise. -/
def secCmdOk (vals : List Nat) : Bool :=
  let t := valOf vals F.SEC_CMD_TARGET
  if valOf vals F.SEC_CMD_OP = 4 then decide (1 ≤ t) && decide (t ≤ 64) else t == 0

/-- A commit of SEC_CMD or SEC_NLOAD holds a command. -/
def secHold (nload : Bool) (req : Nat) (vals : List Nat) (s : State) : State :=
  let w (i : Nat) : Nat := vals.getD i 0
  let c : SecCmd := ⟨nload, bitsOf (w 2) 28 4, req, w 0 + w 1 % 65536 * 2 ^ 32, bitsOf (w 2) 0 28, false, none⟩
  secPump (modSec (fun x => { x with held := x.held ++ [c] }) s)

/-- The words of a command. -/
def secWords (op addr arg : Nat) : List Nat := [addr % 2 ^ 32, addr / 2 ^ 32 % 2 ^ 16, op * 2 ^ 28 + arg]

/-- A write of SEC_CMD. -/
def secCommand (op : Nat) (req : Req) (addr arg : Nat) (s : State) : State :=
  commitWords .SEC_CMD 0 0 req (secWords op addr arg) (secCmdBusy s) secCmdOk (secHold false req.val) s

/-- A write of SEC_NLOAD. -/
def secNload (op : Nat) (req : Req) (addr : Nat) (bank : Bool) (mask : Nat) (s : State) : State :=
  commitWords .SEC_NLOAD 0 0 req (secWords op addr (b2n bank * 2 ^ 27 + mask)) (secNloadBusy s) anyOk
    (secHold true req.val) s

/-- VERIFY (R758). -/
def execSecVerify (req : Req) (addr : BitVec 48) (s : State) : Out := .next (secCommand 1 req addr.toNat 0 s)

/-- INSTALL (R761). -/
def execSecInstall (req : Req) (addr : BitVec 48) (s : State) : Out := .next (secCommand 2 req addr.toNat 0 s)

/-- CONFIRM (R760). -/
def execSecConfirm (req : Req) (s : State) : Out := .next (secCommand 3 req 0 0 s)

/-- ADVANCE (R762). -/
def execSecAdvance (req : Req) (target : BitVec 7) (s : State) : Out := .next (secCommand 4 req 0 target.toNat s)

/-- CLAIM (R746). -/
def execSecClaim (req : Req) (addr : BitVec 48) (s : State) : Out := .next (secCommand 5 req addr.toNat 0 s)

/-- EQUIV (R759). -/
def execSecEquiv (req : Req) (addr : BitVec 48) (s : State) : Out := .next (secCommand 6 req addr.toNat 0 s)

/-- ATTEST (R765). -/
def execSecAttest (req : Req) (addr : BitVec 48) (s : State) : Out := .next (secCommand 7 req addr.toNat 0 s)

/-- KEYREV (R748). -/
def execSecKeyrev (req : Req) (s : State) : Out := .next (secCommand 8 req 0 0 s)

/-- LIB (R767). -/
def execNloadLib (req : Req) (addr : BitVec 48) (bank : Bool) (skmask : BitVec 16) (s : State) : Out :=
  .next (secNload 1 req addr.toNat bank skmask.toNat s)

/-- CUST (R767). -/
def execNloadCust (req : Req) (addr : BitVec 48) (bank : Bool) (skmask : BitVec 16) (s : State) : Out :=
  .next (secNload 2 req addr.toNat bank skmask.toNat s)

/-- CLEAR (R767). -/
def execNloadClear (req : Req) (bank : Bool) (skmask : BitVec 16) (s : State) : Out :=
  .next (secNload 3 req 0 bank skmask.toNat s)

/-! ### The end of an image check (R749-R752, R758, R761, R767) -/

/-- An image of another type than the command takes fails as TYPE. -/
def typeRefused (nload : Bool) (t : Nat) (s : State) : State := secDone nload 7 (if nload then 0 else t) (imageRefused s)

/-- VERIFY of an image that passed: MSTAGE or MAPP, set once between resets (R758). -/
def verified (t : Nat) (b : List Nat) (s : State) : State :=
  let m := Config.sha384 (signedBytes b)
  if t = 2 then secDone false 0 t (modSec (fun x => { x with mstage := some (x.mstage.getD m) }) s)
  else if t = 3 then secDone false 0 t (modSec (fun x => { x with mapp := some (x.mapp.getD m) }) s)
  else typeRefused false t s

/-- INSTALL of an image that passed (R761): into the inactive slot, then PENDING. A failed flash write leaves open
contents in the slot. -/
def installed (t : Nat) (b : List Nat) (flashOk : Bool) (s : State) : State :=
  if t = 0 || 4 ≤ t then typeRefused false t s
  else
    match dirNow s with
    | none => secDone false 9 t s
    | some (i, d) =>
      let k := t - 1
      let act := dirActive d k
      if b.length > dirCap d k then secDone false 9 t s
      else if !flashOk then
        let junk := (List.range b.length).map fun j => Config.freeNat 44 s.free [j] % 256
        secDone false 9 t (takeFree (flashWrite junk (dirSlot d k (1 - act)) s))
      else secDone false 0 t (dirWrite i (dirSet k act 1 d) (flashWrite b (dirSlot d k (1 - act)) s))

/-- CLAIM of an image that passed (R746). -/
def claimed (t : Nat) (b : List Nat) (s : State) : State :=
  if t ≠ 7 then typeRefused false t s
  else
    let key := (imagePayload b).take 97
    secDone false 0 t (secRecord [3] (modSec (fun x => { x with owner := some key }) s))

/-- EQUIV of a table that passed (R759, R817). -/
def equivTaken (t : Nat) (b : List Nat) (s : State) : State :=
  if t ≠ 6 then typeRefused false t s
  else
    let p := imagePayload b
    let rev := dLe p 4 2
    let slot := freeEquivSlot s
    let s := writeEquiv slot b s
    let s := modSec (fun x => { x with equiv := some p, equivRev := rev }) s
    secDone false 0 t (secRecord ([6] ++ leBytes 2 rev ++ [slot]) s)

/-- The image of the command at the head has been hashed and its signature checked. -/
def secChecked (c : SecCmd) (flashOk : Bool) (b : List Nat) (s : State) : State :=
  let t := dLe b 4 1
  let r := imageChecks s b
  if r ≠ 0 then secDone c.nload r (if c.nload then 0 else t) (imageRefused s)
  else if c.nload then
    let bank := bitAt c.arg 27
    let mask := bitsOf c.arg 0 16
    if c.op = 1 then (if t = 4 then libGo bank mask b s else typeRefused true t s)
    else (if t = 5 then custGo bank mask b s else typeRefused true t s)
  else
    match c.op with
    | 1 => verified t b s
    | 2 => installed t b flashOk s
    | 5 => claimed t b s
    | _ => equivTaken t b s

/-- IMAGE_CHECK_COMPLETE (R749-R752): the check of the image command at the head ends; `flashOk` says whether INSTALL's
flash write and read-back succeed. -/
def execImageCheckComplete (flashOk : Bool) (s : State) : Out :=
  match s.sec.held with
  | [] => .next s
  | c :: _ =>
    if !c.started || s.sec.load.isSome then .next s
    else
      let (b, s) : Option (List Nat) × State := match c.copy with
        | some b => (if b.isEmpty then none else some b, s)
        | none => readImage c.addr s
      match b with
      | none => .next (secPump (secDone c.nload 10 0 (imageRefused s)))
      | some b => .next (secPump (secChecked c flashOk b s))

/-! ### Debug unlock and random source (R745, R763, R764) -/

/-- Bytes of the random source: free values. -/
def randBytes (s : State) (n : Nat) : List Nat :=
  (List.range n).flatMap fun i => leBytes 8 (Config.freeWord 17 (s.free + i)).toNat

/-- The challenge: a nonce, SYS_UID and the identity KEYID (R763). -/
def newChallenge (s : State) : List Nat := randBytes s 6 ++ leBytes 8 Config.uid.toNat ++ keyIdOf Config.identityPub

/-- SECCHAL (R763, R764). -/
def execJtagSecchal (s : State) : Out :=
  .next (if baseUp s then
    let c := newChallenge s
    { modSec (fun x => { x with challenge := some c }) s with free := s.free + 6 }
  else s)

/-- SECUNLK (R763, R764): the challenge serves once, whatever the outcome. -/
def execJtagSecunlk (image : List Byte) (s : State) : Out :=
  if !baseUp s then .next s
  else
    let b := image.map BitVec.toNat
    let r := imageChecks s b
    let void (s : State) : State := modSec (fun x => { x with challenge := none }) s
    if r ≠ 0 || dLe b 4 1 ≠ 8 then .next (void (imageRefused s))
    else
      let c := unlockScope (imagePayload b)
      let s := modSec (fun x => { x with scopes := x.scopes ||| c }) (void s)
      .next (raise 798 (secRecord [1, c] (bump F.SEC_CNT_UNLOCKS s)))

/-- A read of word 0 of SEC_RAND: 64 new bits, word 1 latched; BUSY while the random source fails its tests. -/
def randServe (req : Nat) (s : State) : State × Option Berr :=
  if !s.sec.rngok then (answer req 0 s, some .busy)
  else
    let v := (Config.freeWord 17 s.free).toNat
    let ws := [v % 2 ^ 32, v / 2 ^ 32]
    (takeFree (answer req (ws.getD 0 0) (latchWords .SEC_RAND req 0 0 ws s)), none)

/-- SEC_RAND_READ (R745). -/
def execSecRandRead (req : Req) (s : State) : Out :=
  .next (readServed .SEC_RAND 0 0 req
    (fun s => accessEnd req.val (controlBase + regOffset .SEC_RAND 0 0 0) false (randServe req.val s)) s)

/-- RNGFAIL (R795): the random source fails its health tests. -/
def execRngfail (s : State) : Out :=
  .next (if baseUp s && s.sec.rngok then
    raise 799 (report 0x17 0 0 255 (modSec (fun x => { x with rngok := false }) s))
  else s)

/-! ### Cast-on (R756-R760) -/

/-- BOOTSEL as latched. -/
def bootsel (s : State) : Nat := fld s F.SYS_STRAP_BOOTSEL

/-- GO was written: it counts in step 4 of a Stitch cast-on only. -/
def bootGoEffect (vals : List Nat) (s : State) : State :=
  if s.pwr.mode = .castOn && s.sec.step = 4 && bootsel s = 2 && valOf vals F.SEC_BOOTGO_GO = 1 then
    modSec (fun x => { x with bootGo := true }) s
  else s

/-- SEC_BOOTGO (R756). -/
def execSecBootgo (a : Acc) (s : State) : Out := .next (regCommit .SEC_BOOTGO 0 0 a neverBusy anyOk bootGoEffect s)

/-- Cast-on ends in FROZEN (R757). -/
def castFail (cause : Nat) (s : State) : State := report 0x15 cause 0 255 (modSec (fun x => { x with cause := cause }) s)

/-- Step 3: what the Ledger hands on, the oscillator record to RCK (R105) and the accepted equivalence table to a manager
(R759). -/
def castLedger (s : State) : State :=
  if !s.ldg.ready then s
  else
    let s := match newestRec s (fun r => r.type == 6) with
      | some (_, r) =>
        let p := r.payload
        let o := (toS 32 (dLe p 0 4), toS 32 (dLe p 4 4), r.time / 2 ^ 30)
        { s with rck := { s.rck with oscRec := some o } }
      | none => s
    match newestRec s (fun r => r.type == 8 && r.payload.getD 0 0 == 6) with
    | none => s
    | some (_, r) =>
      let s := modSec (fun x => { x with equivRev := dLe r.payload 1 2 }) s
      let unit (i : Nat) : List Nat := ldgUnit s (64 + 4096 * (r.payload.getD 3 0 % 2) + i)
      let h := unit 0 ++ unit 1
      let b := if imageStruct h then ((List.range (dLe h 8 4 / 64)).flatMap unit) else h
      if isManager s && imageChecks s b = 0 && dLe b 4 1 = 6 then
        modSec (fun x => { x with equiv := some (imagePayload b) }) s
      else s

/-- A BOOT image passes its checks. -/
def bootCheck (s : State) (b : List Nat) : Bool := imageChecks s b == 0 && dLe b 4 1 == 1

/-- Bytes placed in core SRAM. -/
def sramPut : List Nat → Nat → State → State
  | [], _, s => s
  | b :: t, o, s => sramPut t (o + 1) (sramWrite 1 o b s)

/-- A BOOT image is placed in core SRAM and measured (R757, step 4). -/
def bootPlace (b : List Nat) (src : Nat) (fallback : Bool) (s : State) : State :=
  let s := sramPut (imagePayload b) (dLe b 0x18 8 - 0x10000000) s
  modSec (fun x => { x with step := 5, mboot := some (Config.sha384 (signedBytes b)), src := src, fallback := fallback }) s

/-- Try the sources in order: each its BOOTSEL code and image; every refused image is counted (R752, R756). -/
def bootFrom : Bool → List (Nat × List Nat) → State → State
  | _, [], s => castFail 2 s
  | fb, (src, b) :: t, s => if bootCheck s b then bootPlace b src fb s else bootFrom true t (imageRefused s)

/-- The trial of pending slots (R760), with the directory as it then stands. -/
def trialBegin (s : State) : State × Option (List Nat) :=
  match dirNow s with
  | none => (s, none)
  | some (i, d) =>
    let pend := [0, 1, 2].any (dirPending d)
    if dirTried d then
      let d' := dirClear d
      (secRecord [2] (modSec (fun x => { x with trialfail := true }) (dirWrite i d' s)), some d')
    else if pend then
      let d' := dirSetTried 1 d
      (modSec (fun x => { x with trial := true }) (dirWrite i d' s), some d')
    else (s, some d)

/-- The image that the management port brought, cut to its LENGTH. -/
def fileImage (f : List Byte) : List Nat :=
  let b := f.map BitVec.toNat
  if imageStruct (b.take 128) then b.take (dLe b 8 4) else b.take 128

/-- Step 4 from the boot flash, with its fallbacks (R756). -/
def castFlash (file : Option (List Byte)) (s : State) : State :=
  match trialBegin s with
  | (s, d) =>
    let slots := match d with
      | some d =>
        let a := dirActive d 0
        let first := if s.sec.trial && dirPending d 0 then 1 - a else a
        [(bootsel s, flashImage s (dirSlot d 0 first)), (bootsel s, flashImage s (dirSlot d 0 (1 - first)))]
      | none => []
    let net := match file with | some f => [(1, fileImage f)] | none => []
    if slots.isEmpty then
      if net.isEmpty then castFail 5 s else bootFrom true net s
    else bootFrom false (slots ++ net) s

/-- The BOOT image that the manager wrote to core SRAM. -/
def sramImage (s : State) : List Nat :=
  let get (n : Nat) : List Nat := (List.range n).map fun o => (sramByte s o).toNat
  let h := get 128
  if imageStruct h then get (dLe h 8 4) else h

/-- Step 4 by source. -/
def castSource (file : Option (List Byte)) (giveUp : Bool) (s : State) : State :=
  match bootsel s with
  | 0 => castFlash file s
  | 3 => castFlash file s
  | 1 => match file with
    | some f => bootFrom false [(1, fileImage f)] s
    | none => if giveUp then castFail 5 s else s
  | 2 =>
    if s.sec.bootGo then bootFrom false [(2, sramImage s)] s
    else if giveUp then castFail 5 s else s
  | _ =>
    if bitAt s.sec.scopes 3 then
      let s := modSec (fun x => { x with step := 6, src := 4 }) { s with pwr := { s.pwr with coresReleased := true } }
      setMode .service 1 s
    else s

/-- BOOTSEL is reserved, or names Stitch on a device that is not a worker (R756). -/
def strapBad (s : State) : Bool := decide (5 ≤ bootsel s) || (bootsel s == 2 && !isWorker s)

/-- Step 6: SEC permits the way out of CAST-ON (R756, R758). -/
def castLeave (s : State) : State :=
  let s := modSec (fun x => { x with step := 6 }) { s with pwr := { s.pwr with coresReleased := true } }
  if bootsel s = 3 then setMode .update 1 s else toStandby 1 s

/-- CAST_ON (R757): the next step of cast-on. `ok` is the outcome of the self-test, `file` what the management port
brings, `giveUp` that the step's wait has ended without result. -/
def execCastOn (ok : Bool) (file : Option (List Byte)) (giveUp : Bool) (s : State) : Out :=
  if s.pwr.mode ≠ .castOn then .next s
  else
    match s.sec.step with
    | 1 =>
      let s := modSec (fun x => { x with step := 2, rngok := ok }) s
      .next (if ok then s else castFail 1 s)
    | 2 => .next (castLedger (modSec (fun x => { x with step := 3 }) s))
    | 3 =>
      let s := modSec (fun x => { x with step := 4 }) s
      .next (if strapBad s then castFail 4 s else s)
    | 4 => .next (castSource file giveUp s)
    | 5 => .next (if s.sec.mstage.isSome then castLeave s else if giveUp then castFail 3 s else s)
    | _ => .next s

end Sys2Proof.Machine
end

