-- ==== Sys2Proof/Machine/Tick.lean ====
section
/-! DEFINITION. One fabric cycle without a command (spec/02, the fabric clock; spec/03 R98-R101, R107): what the step
does when no command waits (notes/assumptions/1.md). -/

namespace Sys2Proof.Machine

/-- The rate in 2⁻⁴⁰ ns per ns at which realised time runs beside the fabric clock: the rate applied, and in HOLD the
Ledger's ageing slope for the days since HOLD began (R99, R106). -/
def rateNow (s : State) : Int :=
  let drift : Int :=
    match s.rck.servo, s.rck.oscRec with
    | .hold, some (_, slope, _) => slope * ((s.now - s.rck.holdAt : Nat) : Int) / 86400000000000
    | _, _ => 0
  appliedRate s.rck + drift

/-- Realised time one fabric cycle later; it stands still until the step of R98. -/
def rtNext (s : State) : Nat :=
  if timeRealised s then ((s.rck.rt : Int) + nsUnit + rateNow s).toNat else s.rck.rt

/-- One fabric cycle of 1 ns passes: realised time goes on, the flow table's engine makes one step (R595), and PWR's
own waits go on (R789, R790). -/
def tick (s : State) : State :=
  let rt := rtNext s
  let s := if domUp s 201 then ftEngine s else s
  let s := { s with now := s.now + 1, rck := { s.rck with rt := rt }, bus := { s.bus with wroteNow := [] } }
  pwrTick s

end Sys2Proof.Machine
end

