-- ==== Sys2Proof/Machine/ReadReg.lean ====
section
/-! DEFINITION. What a register reads as: the fields a block shows live, the windows that a requester's own index selects,
and the reads that take something (spec/02 R52, R58, R60; the register maps of spec/02 to spec/21). -/

namespace Sys2Proof.Machine

/-! ### Building a register's words -/

/-- Fields laid over words. -/
def overlay (ws : List Nat) (l : List (FieldRef × Nat)) : List Nat :=
  l.foldl (fun ws e => ws.set e.1.word (setBits (ws.getD e.1.word 0) e.1.lo e.1.width e.2)) ws

/-- The stored words of a register, as a requester sees them. -/
def storedWords (s : State) (r : Reg) (fr i req : Nat) : List Nat :=
  (List.range (regInfo r).words).map fun w => curWord s r req fr i w

/-- The words whose bits are the numbers among the first `32 × n` that meet a condition. -/
def bitWords (n : Nat) (p : Nat → Bool) : List Nat :=
  (List.range n).map fun w => (List.range 32).foldl (fun v i => v + b2n (p (32 * w + i)) * 2 ^ i) 0

/-- Word `w` of such bits. -/
def bitWord (w : Nat) (p : Nat → Bool) : Nat := (bitWords 1 (fun i => p (32 * w + i))).getD 0 0

/-! ### State codes of the register maps -/

/-- LANE_STAT.STATE. -/
def LaneSt.code : LaneSt → Nat
  | .off => 0 | .wait => 1 | .lock => 2 | .ident => 3 | .up => 4 | .fail => 5

/-- NDL_STAT.STATE. -/
def NdlSt.code : NdlSt → Nat
  | .gated => 1 | .idle => 2 | .run => 3 | .stall => 4 | .halt => 5 | .fault => 6 | .horiz => 7

/-- SKN_NANOx.STATE. -/
def BankSt.code : BankSt → Nat
  | .empty => 0 | .loading => 1 | .valid => 2 | .damaged => 3

/-- SYS_PSLOTR.STATE. -/
def PatSt.code : PatSt → Nat
  | .empty => 0 | .loaded => 1 | .running => 2 | .unloading => 3

/-- MCH_BAYSTAT.BST. -/
def BaySt.code : BaySt → Nat
  | .off => 0 | .init => 1 | .ready => 2 | .frozen => 3 | .restore => 4

/-- STH_STAT.LST. -/
def LinkSt.code : LinkSt → Nat
  | .off => 0 | .train => 1 | .hello => 2 | .up => 3 | .spare => 4 | .refused => 5

/-- STHM_ROSTR.STATE. -/
def RosterSt.code : RosterSt → Nat
  | .free => 0 | .pending => 1 | .joined => 2 | .absent => 3

/-- NDL_STAT.STATE as shown: a placed needle that waits for its pattern's start is GATED in ARMED (spec/05). -/
def shownNdlSt (s : State) (n : Nat) : NdlSt :=
  if s.pwr.mode = .armed && decide ((ndlOf s n).st = .idle) then .gated else (ndlOf s n).st

/-- MCH_STAT.CST: a channel that trains is in TRAIN for the 2 ms that training may take, then in FILL (R476;
notes/assumptions/25.md). -/
def channelCode (s : State) (c : Nat) : Nat :=
  let b := bayOf s (c / 4)
  match b.st with
  | .off => 0
  | .init => if s.now < b.since + 2000000 then 1 else 2
  | .restore => if s.now < b.since + 2000000 then 1 else 2
  | .ready => if (mchOf s c).pause.isSome then 4 else 3
  | .frozen => 5

/-! ### Live fields, chapter by chapter -/

/-- A parity mismatch in a powered frame has been reported and not rewritten (R78). -/
def parityPending (s : State) : Bool :=
  s.bus.parReported.any fun e =>
    tabGet false s.bus.parBad e.1 &&
      (match frameBlk (e.1 % 2 ^ 22 / 0x1000) with
       | some (b, n) => (match blkDomain b n with | some d => domUp s d | none => true)
       | none => false)

/-- Fields of the SYS block. -/
def sysFields (s : State) (r : Reg) (req : Nat) : List (FieldRef × Nat) :=
  match r with
  | .SYS_RSTCAUSE =>
    [(F.SYS_RSTCAUSE_REMOTE, s.pwr.rstCause / 8), (F.SYS_RSTCAUSE_SOFT, s.pwr.rstCause / 4),
     (F.SYS_RSTCAUSE_PIN, s.pwr.rstCause / 2), (F.SYS_RSTCAUSE_POR, s.pwr.rstCause)]
  | .SYS_CFGPAR => [(F.SYS_CFGPAR_PEND, b2n (parityPending s))]
  | .SYS_PLSTAT => [(F.SYS_PLSTAT_BUSY, b2n s.pl.isSome)]
  | .SYS_PSLOTR =>
    let n := fldQ s F.SYS_PSLOTQ_SLOT req
    let p := patOf s n
    if p.st = .empty then []
    else
      [(F.SYS_PSLOTR_STATE, p.st.code), (F.SYS_PSLOTR_NOUT, dNout p.desc - 1), (F.SYS_PSLOTR_NEEDLES, (dNeedles p.desc).length),
       (F.SYS_PSLOTR_LIBREV, dLe p.desc 0x00C 2)]
  | .SYS_PCOUNT => [(F.SYS_PCOUNT_SLOTS, (slotsUsed s).length), (F.SYS_PCOUNT_STREAMS, streamsNow s)]
  | .SYS_ENCR =>
    let n := fldQ s F.SYS_ENCQ_SLOT req
    if !slotUsed s n then []
    else
      let e := encOf s n (fldQ s F.SYS_ENCQ_OUT req)
      [(F.SYS_ENCR_PICS, e.pics), (F.SYS_ENCR_KEYS, e.keys), (F.SYS_ENCR_KEYREQ, e.keyreq), (F.SYS_ENCR_KEYMERGE, e.keymerge),
       (F.SYS_ENCR_SCENE, e.scene), (F.SYS_ENCR_INFILL, e.infill), (F.SYS_ENCR_XVLATE, e.xvlate), (F.SYS_ENCR_ODROP, e.odrop),
       (F.SYS_ENCR_FREEZE, e.freeze), (F.SYS_ENCR_WINLATE, e.winlate), (F.SYS_ENCR_ACCEL, b2n e.accel)]
  | .SYS_DECR =>
    let n := fldQ s F.SYS_DECQ_SLOT req
    let i := fldQ s F.SYS_DECQ_IN req
    if !slotUsed s n || !codedIn (patOf s n).desc i || decide (i ≥ dNin (patOf s n).desc) then []
    else
      let x := decOf s n i
      [(F.SYS_DECR_PICS, x.pics), (F.SYS_DECR_CONC, x.conc), (F.SYS_DECR_NONEX, x.nonex), (F.SYS_DECR_LOSTU, x.lostu),
       (F.SYS_DECR_LATE, x.late), (F.SYS_DECR_LOSTPIC, x.lostpic), (F.SYS_DECR_HASHERR, x.hasherr),
       (F.SYS_DECR_SLICEERR, x.sliceerr), (F.SYS_DECR_UNDERRUN, x.underrun), (F.SYS_DECR_LATEPIC, x.latepic),
       (F.SYS_DECR_POOLFAIL, x.poolfail), (F.SYS_DECR_DUP, x.dup), (F.SYS_DECR_RASLSKIP, x.raslskip),
       (F.SYS_DECR_GAPWAIT, decGap x), (F.SYS_DECR_DELAY, decDelay x), (F.SYS_DECR_SUBST, decSubst x),
       (F.SYS_DECR_EPISODE, b2n x.episode.isSome), (F.SYS_DECR_UNSUPP, b2n x.unsupp), (F.SYS_DECR_RESYNC, x.resyncs),
       (F.SYS_DECR_RINGOVF, x.ringovf)]
  | _ => []

/-- Fields of the raster clock and the PTP domains. -/
def rckFields (s : State) (r : Reg) (fr i req : Nat) : List (FieldRef × Nat) :=
  match r with
  | .RCK_STAT =>
    [(F.RCK_STAT_FMTCHG, b2n s.rck.fmtChg), (F.RCK_STAT_FMTOK, b2n s.rck.fmtOk), (F.RCK_STAT_REF10OK, b2n s.rck.ref10),
     (F.RCK_STAT_AVB, b2n (ptpOf s 1).avail), (F.RCK_STAT_AVA, b2n (ptpOf s 0).avail), (F.RCK_STAT_SEL, s.rck.sel)]
  | .RCK_STATE => [(F.RCK_STATE_STATE, (servoCode s.rck.servo).val)]
  | .RCK_NOW =>
    let p := posNow s
    [(F.RCK_NOW_LINE, p.2.1), (F.RCK_NOW_TICK, p.2.2), (F.RCK_NOW_FRAME_LO, p.1), (F.RCK_NOW_FRAME_HI, p.1 / 2 ^ 32),
     (F.RCK_NOW_NS, nsNow s), (F.RCK_NOW_SEC_LO, secNow s), (F.RCK_NOW_SEC_HI, secNow s / 2 ^ 32)]
  | .RCK_OFS_A => [(F.RCK_OFS_A_OFS, signed32 (ptpOf s 0).ofs)]
  | .RCK_OFS_B => [(F.RCK_OFS_B_OFS, signed32 (ptpOf s 1).ofs)]
  | .RCK_RATE => [(F.RCK_RATE_RATE, signed32 (rateNow s))]
  | .RCK_SLOTR =>
    let n := fldQ s F.RCK_SLOTQ_INDEX req
    let x := slotOf s n
    [(F.RCK_SLOTR_PAY_LO, x.pay), (F.RCK_SLOTR_PAY_HI, x.pay / 2 ^ 32), (F.RCK_SLOTR_LINE, x.line), (F.RCK_SLOTR_TICK, x.tick),
     (F.RCK_SLOTR_FRAME, x.frame), (F.RCK_SLOTR_N, x.n), (F.RCK_SLOTR_ARM, b2n x.arm), (F.RCK_SLOTR_MODE, x.mode),
     (F.RCK_SLOTR_ACTION, x.action), (F.RCK_SLOTR_TARGET, x.target), (F.RCK_SLOTR_INDEX, n),
     (F.RCK_SLOTR_MISSED, b2n x.missed), (F.RCK_SLOTR_FIRED, b2n x.fired)]
  | .PTP_STAT =>
    let p := ptpOf s fr
    [(F.PTP_STAT_AV, b2n p.avail), (F.PTP_STAT_QUAL, b2n (p.lost && !p.avail && decide (p.qualCount > 0))),
     (F.PTP_STAT_SMTLV, b2n p.smtlv), (F.PTP_STAT_STEPS, p.steps)]
  | .PTP_MPD => [(F.PTP_MPD_MPD, signed32 (ptpOf s fr).mpd)]
  | .RCK_TIN =>
    match tinOf s i with
    | e :: _ => (tinWords e).zipIdx.map fun x => (⟨.RCK_TIN, x.2, 0, 32⟩, x.1)
    | [] => []
  | _ => []

/-- Fields of lanes, line FIFOs and Swatches. -/
def laneFields (s : State) (r : Reg) (fr i : Nat) : List (FieldRef × Nat) :=
  match r with
  | .LANE_STAT =>
    let x := laneOf s fr
    [(F.LANE_STAT_FRAME, x.fr), (F.LANE_STAT_OPEN, b2n x.isOpen), (F.LANE_STAT_FMTERR, b2n x.fmtErr),
     (F.LANE_STAT_BONDERR, b2n x.bondErr), (F.LANE_STAT_BLOCK, b2n x.block), (F.LANE_STAT_STATE, x.st.code)]
  | .LANE_TXS => [(F.LANE_TXS_DEPTH, (laneOf s fr).txq.length)]
  | .LFI_STAT =>
    let x := lfiOf s i
    let b := lfiBase s i
    [(F.LFI_STAT_AFREE, b2n (bankReturned s i false)), (F.LFI_STAT_BFREE, b2n (bankReturned s i true)),
     (F.LFI_STAT_WBANK, b2n x.wbank), (F.LFI_STAT_ARECS, x.bankA.length), (F.LFI_STAT_BRECS, x.bankB.length),
     (F.LFI_STAT_P0MARK, b2n (portOf s b 0).mark.isSome), (F.LFI_STAT_P1MARK, b2n (portOf s b 1).mark.isSome)]
  | .LFI_IDLEST_LO => [(F.LFI_IDLEST_LO_IDLE, bitWord 0 fun n => (lfiOf s n).idle0 || (lfiOf s n).idle1)]
  | .LFI_IDLEST_HI => [(F.LFI_IDLEST_HI_IDLE, bitWord 1 fun n => (lfiOf s n).idle0 || (lfiOf s n).idle1)]
  | .SWT_STAT => [(F.SWT_STAT_QUEUED, (swtOf s i).queue.length)]
  | _ => []

/-- Fields of needles and skeins. -/
def ndlFields (s : State) (r : Reg) (fr : Nat) : List (FieldRef × Nat) :=
  let bank (b : Bool) : NanoBank := bankOf s fr b
  match r with
  | .NDL_STAT =>
    let x := ndlOf s fr
    [(F.NDL_STAT_STATE, (shownNdlSt s fr).code), (F.NDL_STAT_EXC, b2n x.exc), (F.NDL_STAT_BOUND, b2n x.bound.isSome),
     (F.NDL_STAT_NBANK, b2n (x.bound == some true)), (F.NDL_STAT_SLOT, x.slot.getD 0), (F.NDL_STAT_IPEND, x.ipend)]
  | .NDL_PC => [(F.NDL_PC_WORD, (ndlOf s fr).pc / 4), (F.NDL_PC_USLOT, (ndlOf s fr).pc)]
  | .NDL_CNT0 => [(F.NDL_CNT0_BUSY, (ndlOf s fr).busyCyc / 1024)]
  | .NDL_CNT1 => [(F.NDL_CNT1_STALL, (ndlOf s fr).stallCyc / 1024)]
  | .SKN_NANOA =>
    [(F.SKN_NANOA_STATE, (bank false).st.code), (F.SKN_NANOA_USERS, bankUsers s fr false), (F.SKN_NANOA_CVALID, b2n (bank false).cvalid),
     (F.SKN_NANOA_LIBREV, (bank false).librev)]
  | .SKN_NANOB =>
    [(F.SKN_NANOB_STATE, (bank true).st.code), (F.SKN_NANOB_USERS, bankUsers s fr true), (F.SKN_NANOB_CVALID, b2n (bank true).cvalid),
     (F.SKN_NANOB_LIBREV, (bank true).librev)]
  | .SKN_CREVA => [(F.SKN_CREVA_CUSTREV, (bank false).custrev)]
  | .SKN_CREVB => [(F.SKN_CREVB_CUSTREV, (bank true).custrev)]
  | _ => []

/-- Fields of the Gauge. -/
def gauFields (s : State) (r : Reg) (req : Nat) : List (FieldRef × Nat) :=
  match r with
  | .GAU_OUTR =>
    let n := fldQ s F.GAU_OUTQ_SLOT req
    let k := fldQ s F.GAU_OUTQ_OUT req
    let d := (patOf s n).desc
    if !slotUsed s n || !isHevc d k || decide (k ≥ dNout d) then []
    else
      let g := gauOf s n k
      let num := max 1 (dNum d)
      [(F.GAU_OUTR_F, min (g.f / num) 0xFFFFFFFF), (F.GAU_OUTR_MINF, min (g.minf / num) 0xFFFFFFFF), (F.GAU_OUTR_TPIC, g.tpic),
       (F.GAU_OUTR_SHARE, g.share), (F.GAU_OUTR_QP1, byteOf g.qp1), (F.GAU_OUTR_ROW, ((tabGet .reset g.rows 0).row).getD 0),
       (F.GAU_OUTR_SEEDSRC, g.seedsrc), (F.GAU_OUTR_SETTLE, b2n (decide (g.settle > 0))), (F.GAU_OUTR_INREW, b2n g.inRew),
       (F.GAU_OUTR_ROWFLOOR, g.rowfloor), (F.GAU_OUTR_REWOUND, g.rewound), (F.GAU_OUTR_REWDENY, g.rewdeny), (F.GAU_OUTR_OVR, g.ovr),
       (F.GAU_OUTR_FILLER, g.filler / 1000)]
  | .GAU_GRPR =>
    let n := fldQ s F.GAU_GRPQ_GROUP req
    if (decide (1 ≤ n) && decide (n ≤ 15)) || (decide (0x40 ≤ n) && decide (n ≤ 0x7F)) then
      let g := jointOf s n
      [(F.GAU_GRPR_TOTAL, g.total), (F.GAU_GRPR_ALLOC, g.alloc), (F.GAU_GRPR_MISSED, g.missed), (F.GAU_GRPR_LOCAL, b2n g.localOn),
       (F.GAU_GRPR_MEMBERS, (jointMembers s n).length), (F.GAU_GRPR_APPLIED, g.applied)]
    else []
  | _ => []

/-- Fields of main memory, Stalls and porters. -/
def memFields (s : State) (r : Reg) (fr i : Nat) : List (FieldRef × Nat) :=
  match r with
  | .MCH_STAT =>
    let m := mchOf s fr
    [(F.MCH_STAT_CST, channelCode s fr), (F.MCH_STAT_DUE, b2n (decide (m.drift ≥ fld s F.MCH_CTRL_DTH fr))),
     (F.MCH_STAT_THR, b2n (!m.throttles.isEmpty)), (F.MCH_STAT_DRIFT, min m.drift 255)]
  | .MCH_RDCNT => [(F.MCH_RDCNT_ACTIVE, (mchOf s fr).throttles.length)]
  | .MCH_BAYSTAT => [(F.MCH_BAYSTAT_BST, (bayOf s (fr / 4)).st.code), (F.MCH_BAYSTAT_FCH, (bayOf s (fr / 4)).fch)]
  | .STL_PSTAT => [(F.STL_PSTAT_FREEBUF, poolFree s i), (F.STL_PSTAT_FROZEN, b2n (poolOn s i && !poolReady s i))]
  | .STL_USE => [(F.STL_USE_USE, useOf s i)]
  | .STL_STAT =>
    [(F.STL_STAT_RECS, (List.range 64).foldl (fun n p => if poolOn s p then n + poolCount s p else n) 0),
     (F.STL_STAT_TICKETS, ticketsUsed s)]
  | .PRT_STAT => [(F.PRT_STAT_STATE, (prtOf s (16 * fr + i)).st.code)]
  | .PRT_CUR =>
    let x := prtOf s (16 * fr + i)
    [(F.PRT_CUR_ADDR_LO, x.cur), (F.PRT_CUR_ADDR_HI, x.cur / 2 ^ 32)]
  | .PRT_GSTAT =>
    [(F.PRT_GSTAT_CLAIM, bitWord 0 fun c => decide (c < 16) && (prtOf s (16 * fr + c)).claim.isSome),
     (F.PRT_GSTAT_ACTIVE, bitWord 0 fun c => decide (c < 16) && prtActive (prtOf s (16 * fr + c)))]
  | _ => []

/-- Fields of ports, switch, flow table and egress. -/
def netFields (s : State) (r : Reg) (fr i req : Nat) : List (FieldRef × Nat) :=
  match r with
  | .ETH_STAT =>
    let e := ethOf s fr
    [(F.ETH_STAT_LINK, b2n e.link), (F.ETH_STAT_BLOCK, b2n e.block), (F.ETH_STAT_FECLOCK, b2n e.fecLock),
     (F.ETH_STAT_ALIGN, b2n (e.align && gangLead s fr)), (F.ETH_STAT_MEMBER, b2n (gangMember s fr))]
  | .EG_GATE =>
    let on (q : Nat) : Bool := gated s fr q && gateBit s fr q
    [(F.EG_GATE_OPEN_LO, bitWord 0 on), (F.EG_GATE_OPEN_HI, bitWord 1 on)]
  | .EG_QMR =>
    let x := egQ s fr (fldQ s F.EG_QMQ_QUEUE req fr)
    [(F.EG_QMR_DEPTH, x.depth), (F.EG_QMR_MAXDEPTH, x.maxDepth), (F.EG_QMR_DELAY, x.delay), (F.EG_QMR_MAXDELAY, x.maxDelay),
     (F.EG_QMR_DROP, min x.drop 65535)]
  | .EG_BKTR =>
    let b := bktFill s.now (bktOf s (fldQ s F.EG_BKTQ_INDEX req))
    [(F.EG_BKTR_TOKENS, if b.mode = 1 then b.tokens else 0), (F.EG_BKTR_FRAMES, b.frames)]
  | .EG_POLR =>
    let p := polOf s (fldQ s F.EG_POLQ_INDEX req)
    [(F.EG_POLR_GREEN, p.green), (F.EG_POLR_YELLOW, p.yellow), (F.EG_POLR_RED, p.red)]
  | .SSW_CQI => [(F.SSW_CQI_PI, tabGet 0 s.ssw.pi i)]
  | .CT_ER =>
    let e := ctOf s (fldQ s F.CT_EQ_TABLE req) (fldQ s F.CT_EQ_INDEX req)
    let word (v w : Nat) : FieldRef × Nat := (⟨.CT_ER, w, 0, 32⟩, v / 2 ^ (32 * (w % 4)))
    (List.range 4).map (word e.value) ++ [4, 5, 6, 7].map (word e.mask) ++ [8, 9, 10, 11].map (word e.action) ++
      [(F.CT_ER_VALID, b2n e.valid), (F.CT_ER_HITS, e.hits)]
  | .FT_STAT =>
    [(F.FT_STAT_BUSY, b2n s.ft.sw.isSome), (F.FT_STAT_EPOCH, s.ft.epoch), (F.FT_STAT_COUNT, ftCount s)]
  | _ => []

/-- Fields of magazine ports. -/
def magFields (s : State) (r : Reg) (fr i : Nat) : List (FieldRef × Nat) :=
  let x := magOf s fr
  match r with
  | .MAG_STAT =>
    [(F.MAG_STAT_ATT, x.att.code), (F.MAG_STAT_FAILC, x.failc), (F.MAG_STAT_SPEED, x.speed), (F.MAG_STAT_WIDTH, x.width),
     (F.MAG_STAT_MEMBER, b2n (magMember s fr)), (F.MAG_STAT_TAKE, b2n x.take.isSome), (F.MAG_STAT_PFW, b2n x.pfw)]
  | .MAG_CMDSTAT => [(F.MAG_CMDSTAT_BUSY, b2n x.cmd.isSome)]
  | .MAG_INFO =>
    [(F.MAG_INFO_NBLK_LO, x.nblk), (F.MAG_INFO_NBLK_HI, x.nblk / 2 ^ 32), (F.MAG_INFO_JFIRST_LO, x.jfirst),
     (F.MAG_INFO_JFIRST_HI, x.jfirst / 2 ^ 32), (F.MAG_INFO_EXTSH, x.extsh), (F.MAG_INFO_HEAD, x.head), (F.MAG_INFO_FREE, extFree x)]
  | .MAG_SSTAT =>
    let t := mStream s fr i
    [(F.MAG_SSTAT_FRAMES, t.frames), (F.MAG_SSTAT_SLOW, min t.slow 65535), (F.MAG_SSTAT_WERR, min t.werr 255),
     (F.MAG_SSTAT_SHORT, min t.short 255)]
  | _ => []

/-- Fields of the interrupt controller, mailboxes and semaphores. -/
def ctlFields (s : State) (r : Reg) (i req : Nat) : List (FieldRef × Nat) :=
  match r with
  | .ICT_SR =>
    let n := fldQ s F.ICT_SQ_INDEX req
    let x := srcOf s n
    [(F.ICT_SR_PEND, b2n x.pend), (F.ICT_SR_WATCH, b2n (wakeEnabled s n)), (F.ICT_SR_GROUP, x.group), (F.ICT_SR_CORE, x.core),
     (F.ICT_SR_PRI, x.pri)]
  | .ICT_PEND => [(F.ICT_PEND_PEND, bitWord i fun n => (srcOf s n).pend)]
  | .ICT_GSTAT =>
    let held (g : Nat) : Bool := decide ((groupOf s g).st = .held)
    [(F.ICT_GSTAT_HELD_LO, bitWord 0 held), (F.ICT_GSTAT_HELD_HI, bitWord 1 held)]
  | .ICT_CTX_STAT =>
    let x := ctxOf s i
    let line := match x.lineFrom with | some t => decide (t ≤ s.now) | none => false
    [(F.ICT_CTX_STAT_THRESH, ctxThreshold s i), (F.ICT_CTX_STAT_DEPTH, x.claims.length), (F.ICT_CTX_STAT_LINE, b2n line)]
  | .MBX_R =>
    let m := fldQ s F.MBX_Q_INDEX req
    let x := mbxOf s m
    [(F.MBX_R_EN, b2n x.en), (F.MBX_R_FULL, b2n x.full), (F.MBX_R_COLL, b2n x.coll), (F.MBX_R_TMO, b2n x.tmo),
     (F.MBX_R_CROSS, b2n (!(crossWith s m).isEmpty)), (F.MBX_R_SND, x.snd), (F.MBX_R_RCV, x.rcv)]
  | .MBX_NEXT =>
    match (List.range 256).find? fun m => (mbxOf s m).full && decide ((mbxOf s m).rcv = 128 + i) with
    | some m => [(F.MBX_NEXT_VALID, 1), (F.MBX_NEXT_INDEX, m)]
    | none => []
  | .MBX_FULL => [(F.MBX_FULL_BITS, bitWord i fun m => (mbxOf s m).full)]
  | .MBX_COLL => [(F.MBX_COLL_BITS, bitWord i fun m => (mbxOf s m).coll)]
  | .MBX_TMOF => [(F.MBX_TMOF_BITS, bitWord i fun m => (mbxOf s m).tmo)]
  | .MBX_CROSS => [(F.MBX_CROSS_BITS, bitWord i fun m => !(crossWith s m).isEmpty)]
  | .SEM_OWN =>
    let x := semOf s i
    [(F.SEM_OWN_HELD, b2n x.owner.isSome), (F.SEM_OWN_WANT, b2n x.want), (F.SEM_OWN_OWNER, x.owner.getD 0)]
  | _ => []

/-- A requester's remote access. -/
def rraOf (s : State) (req : Nat) : Rra := tabGet .reset s.sth.rra req

/-- Fields of Stitch. -/
def sthFields (s : State) (r : Reg) (fr i req : Nat) : List (FieldRef × Nat) :=
  match r with
  | .STH_STAT =>
    let l := linkOf s fr
    [(F.STH_STAT_LST, l.st.code), (F.STH_STAT_UPLINK, b2n l.uplink), (F.STH_STAT_FMTDIFF, b2n l.fmtDiff), (F.STH_STAT_PEER, l.peer),
     (F.STH_STAT_PDEPTH, l.peerDepth)]
  | .STH_DELAY => [(F.STH_DELAY_PS, signed32 (linkOf s fr).delay)]
  | .STH_ID =>
    [(F.STH_ID_ROLEERR, b2n (fld s F.SYS_STRAP_ROLE == 3)), (F.STH_ID_ROLE, fld s F.SYS_STRAP_ROLE), (F.STH_ID_DEPTH, ownDepth s),
     (F.STH_ID_DEVNO, s.sth.devNo), (F.STH_ID_CLEVEL, Config.clevel.toNat), (F.STH_ID_FLOOR, s.sth.floor)]
  | .STH_RRAR =>
    let x := rraOf s req
    [(F.STH_RRAR_BUSY, b2n x.busy), (F.STH_RRAR_RESULT, x.result), (F.STH_RRAR_CAUSE, x.cause), (F.STH_RRAR_DLO, x.data),
     (F.STH_RRAR_DHI, x.data / 2 ^ 32)]
  | .STH_TSENT => [(F.STH_TSENT_SENT, (tabGet .reset s.sth.tch i).conf)]
  | .STHM_ROSTR =>
    let x := rosterOf s (fldQ s F.STHM_ROSTQ_DEVNO req)
    [(F.STHM_ROSTR_STATE, x.st.code), (F.STHM_ROSTR_PARENT, x.parent), (F.STHM_ROSTR_PLINK, x.plink), (F.STHM_ROSTR_OLINK, x.olink),
     (F.STHM_ROSTR_CLEVEL, x.clevel), (F.STHM_ROSTR_UID_LO, x.uid), (F.STHM_ROSTR_UID_HI, x.uid / 2 ^ 32)]
  | .STHM_PLRES => [(F.STHM_PLRES_PLACED, s.sth.places.length)]
  | _ => []

/-- Fields of SEC. -/
def secFields (s : State) (r : Reg) : List (FieldRef × Nat) :=
  match r with
  | .SEC_STAT =>
    [(F.SEC_STAT_CLAIMED, b2n s.sec.owner.isSome), (F.SEC_STAT_KREV, b2n s.sec.krev), (F.SEC_STAT_RBCNT, s.sec.rbcnt),
     (F.SEC_STAT_DBG, s.sec.scopes), (F.SEC_STAT_RNGOK, b2n s.sec.rngok)]
  | .SEC_BOOT =>
    [(F.SEC_BOOT_STEP, s.sec.step), (F.SEC_BOOT_CAUSE, s.sec.cause), (F.SEC_BOOT_SRC, s.sec.src),
     (F.SEC_BOOT_FALLBACK, b2n s.sec.fallback), (F.SEC_BOOT_TRIAL, b2n s.sec.trial), (F.SEC_BOOT_TRIALFAIL, b2n s.sec.trialfail)]
  | .SEC_CMDSTAT => [(F.SEC_CMDSTAT_BUSY, b2n (s.sec.held.any fun c => !c.nload))]
  | .SEC_NRES => [(F.SEC_NRES_BUSY, b2n ((s.sec.held.any (·.nload)) || s.sec.load.isSome))]
  | _ => []

/-- Fields of PWR, FCL, Ledger and Tally. -/
def pwrFields (s : State) (r : Reg) (i req : Nat) : List (FieldRef × Nat) :=
  match r with
  | .PWR_MODE =>
    [(F.PWR_MODE_MODE, s.pwr.mode.code), (F.PWR_MODE_PREV, s.pwr.prev.code), (F.PWR_MODE_CAUSE, s.pwr.cause),
     (F.PWR_MODE_HELD, b2n s.pwr.held), (F.PWR_MODE_ISO, b2n (decide (s.pwr.iso ≠ 0)))]
  | .PWR_CMDRES => [(F.PWR_CMDRES_BUSY, b2n s.pwr.cmdBusy)]
  | .PWR_DOMSTAT => [(F.PWR_DOMSTAT_UP, bitsOf s.pwr.up.toNat (32 * i) 32)]
  | .PWR_ISO => [(F.PWR_ISO_ISO, bitsOf s.pwr.iso.toNat (32 * i) 32)]
  | .PWR_AWCFG => [(F.PWR_AWCFG_HOLDAW, b2n s.pwr.holdaw)]
  | .PWR_THERM => [(F.PWR_THERM_TJ, byteOf s.pwr.tj)]
  | .FCL_HISTR =>
    match s.fcl.hist[fldQ s F.FCL_HISTQ_AGE req]? with
    | some e => (histWords e).zipIdx.map fun x => (⟨.FCL_HISTR, x.2, 0, 32⟩, x.1)
    | none => []
  | .LDG_STAT => [(F.LDG_STAT_READY, b2n s.ldg.ready), (F.LDG_STAT_QDEPTH, s.ldg.queue.length)]
  | .LDG_HEAD => [(F.LDG_HEAD_SEQ, s.ldg.headSeq)]
  | .LDG_RD =>
    let u := ldgUnit s (fldQ s F.LDG_RQ_UNIT req)
    (List.range 16).map fun w => (⟨.LDG_RD, w, 0, 32⟩, leNat ((u.drop (4 * w)).take 4))
  | .TLY_R =>
    let n := fldQ s F.TLY_Q_INDEX req
    let v := if fldQ s F.TLY_Q_HIST req = 1 then tabGet 0 s.tly.hist n else tabGet 0 s.tly.cnt n
    [(F.TLY_R_VLO, v), (F.TLY_R_VHI, v / 2 ^ 32)]
  | .TLY_STAT => [(F.TLY_STAT_BUSY, b2n s.tly.snap.isSome)]
  | _ => []

/-- The live fields of a register. -/
def liveFields (s : State) (r : Reg) (fr i req : Nat) : List (FieldRef × Nat) :=
  match (regInfo r).blk with
  | .sys => sysFields s r req
  | .rck => rckFields s r fr i req
  | .ptp => rckFields s r fr i req
  | .lane => laneFields s r fr i
  | .lfi => laneFields s r fr i
  | .swt => laneFields s r fr i
  | .ndl => ndlFields s r fr
  | .skn => ndlFields s r fr
  | .gau => gauFields s r req
  | .mch => memFields s r fr i
  | .stl => memFields s r fr i
  | .prt => memFields s r fr i
  | .eth => netFields s r fr i req
  | .ssw => netFields s r fr i req
  | .ct => netFields s r fr i req
  | .ft => netFields s r fr i req
  | .mag => magFields s r fr i
  | .ict => ctlFields s r i req
  | .mbx => ctlFields s r i req
  | .sem => ctlFields s r i req
  | .sth => sthFields s r fr i req
  | .sec => secFields s r
  | .pwr => pwrFields s r i req
  | .fcl => pwrFields s r i req
  | .ldg => pwrFields s r i req
  | .tly => pwrFields s r i req

/-- The words of a register as a requester reads them now (R59, R60). -/
def regValue (s : State) (r : Reg) (fr i req : Nat) : List Nat :=
  overlay (storedWords s r fr i req) (liveFields s r fr i req)

/-! ### One word read (R58, R79, R83) -/

/-- The reads that take something from their block; none where a read leaves its register as it is. -/
def takingRead (r : Reg) (i w req : Nat) : Option (State → State × Option Berr) :=
  if w ≠ 0 then none
  else match r with
  | .RCK_TIN => some fun s => (tinServe req i s, none)
  | .MBX_MSG => some fun s => (mbxServe req i s, none)
  | .SEM_LOCK => some fun s => (semServe req i s, none)
  | .SEC_RAND => some (randServe req)
  | .SYS_LOSS => some fun s => (lossServe req s, none)
  | .ICT_CTX_CLAIM => some fun s => (claimServe req i s, none)
  | _ => none

/-- A word read by a requester, the state it leaves and the cause if it is refused: the lowest word latches the upper
ones, which are then read as latched (R58). -/
def readReg (r : Reg) (fr i w req : Nat) (s : State) : Nat × State × Option Berr :=
  let b := (regInfo r).blk
  let s := served (blkFrame b fr) req s
  let down := match blkDomain b fr with | some d => !domUp s d | none => false
  if down then (0, s, some .domoff)
  else
    match takingRead r i w req with
    | some take =>
      match take s with
      | (s, c) => (tabGet 0 s.bus.answers req, s, c)
    | none =>
      let ws := regValue s r fr i req
      if w = 0 then (ws.getD 0 0, if (regInfo r).words > 1 then latchWords r req fr i ws s else s, none)
      else
        let v := match tabGet none s.bus.latched (stageKey req (regKey r fr i w)) with
          | some v => v.toNat
          | none => ws.getD w 0
        (v, s, none)

end Sys2Proof.Machine
end

