-- ==== Sys2Proof/Machine/Rld.lean ====
section
/-! DEFINITION. Main memory's own commands: accesses, windows, bring-up, refresh, scrub, retraining, freeze, diagnosis and
restore (spec/11). -/

namespace Sys2Proof.Machine

/-- The result of an access to its requester: the data, or 0 (R79), and the bus error. -/
def accAnswer (req a : Nat) (write : Bool) (x : MemRes × State) : State :=
  match accErr req a write x with
  | (.ok v, s) => if write then s else answer req v.toNat s
  | (_, s) => if write then s else answer req 0 s

/-- The channel and bank of an RLD address wait: a pause (R488), or a throttle on the requester (R495). -/
def rldWaits (s : State) (a req : Nat) : Bool :=
  match regionOf s a with
  | some (.rld b o) =>
    let c := rldCh b (o / 8)
    (mchOf s c).pause.isSome || throttled s c req (bitsOf (rldU (o / 8)) 2 4)
  | _ => false

/-- RLD_READ (R477, R480-R483, R488, R494, R498). -/
def execRldRead (req : Req) (addr : BitVec 48) (bits : Nat) (e : RldErr) (s : State) : Out :=
  let s := rldUpset e.upsets s
  if !baseUp s || rldWaits s addr.toNat req.val then .next s
  else .next (accAnswer req.val addr.toNat false (memRead req.val addr.toNat bits e s))

/-- RLD_WRITE (R470-R472, R860). -/
def execRldWrite (req : Req) (addr : BitVec 48) (bits : Nat) (data : Native) (e : RldErr) (s : State) : Out :=
  let s := rldUpset e.upsets s
  if !baseUp s || rldWaits s addr.toNat req.val then .next s
  else .next (accAnswer req.val addr.toNat true (memWrite req.val addr.toNat bits data e s))

/-- RD_WINDOW_END (R496). -/
def execRdWindowEnd (ch : Fin 16) (s : State) : Out :=
  .next (modMch ch.val (fun m => { m with
    track := [], throttles := [], rdcfg := some (rword s .MCH_RDCFG ch.val 0 0) }) s)

/-- A channel with its training done: no drift since (R486). -/
def mchTrained (m : Mch) : Mch := { m with drift := 0, dueAt := none, pause := none, forcedWait := false }

/-- BAY_READY (R476, R485). -/
def execBayReady (bay : Fin 4) (s : State) : Out :=
  let b := bay.val
  if decide ((bayOf s b).st = .init) || decide ((bayOf s b).st = .restore) then
    let s := forEach [0, 1, 2, 3] (fun k => modMch (4 * b + k) (fun m => { mchTrained m with scrubAt := 0 })) s
    .next (setBay b .ready s)
  else .next s

/-- REFRESH (R484, R488): the next bank, in every bay state except OFF, and not during a pause. -/
def execRldRefresh (ch : Fin 16) (s : State) : Out :=
  if decide ((bayOf s (ch.val / 4)).st = .off) || (mchOf s ch.val).pause.isSome then .next s
  else .next (modMch ch.val (fun m => { m with refreshAt := (m.refreshAt + 1) % 16 }) s)

/-- The words x of the burst a channel's scrubber reads. -/
def scrubWords (c burst : Nat) : List Nat := (List.range 4).map fun i => rldX c (4 * burst + i)

/-- Read and correct one word for the scrubber; an uncorrectable error freezes the bay and ends the burst. -/
def scrubWord (c : Nat) (e : RldErr) (x : Nat) (s : State) : State :=
  if bayReady s (c / 4) then (rldReadAt (c / 4) x 255 0 0 e s).2 else s

/-- SCRUB (R485, R480, R481). -/
def execRldScrub (ch : Fin 16) (e : RldErr) (s : State) : Out :=
  let c := ch.val
  let s := rldUpset e.upsets s
  if flag s F.MCH_CTRL_SCRUB c && bayReady s (c / 4) && (mchOf s c).pause.isNone then
    let n := (mchOf s c).scrubAt
    let s := activate c (4 * n) 255 s
    let s := modMch c (fun m => { m with scrubAt := (n + 1) % 2 ^ 26 }) s
    match scrubWords c n with
    | x :: l => .next (forEach l (scrubWord c .none) (scrubWord c e x s))
    | [] => .next s
  else .next s

/-! ### Retraining (R486-R491) -/

/-- A forced quick procedure begins (R490). -/
def forcedStart (c : Nat) (s : State) : State :=
  let s := modMch c (fun m => { m with pause := some (s.now, false), forcedWait := false }) s
  raise 717 (bump F.MCH_TRNCNT1_FORCED s c)

/-- A RETRAIN action with its budget (R487, R489). -/
def retrainAct (c n : Nat) (s : State) : State :=
  if !bayReady s (c / 4) || (mchOf s c).pause.isSome then bump F.MCH_TRNCNT1_IGN s c
  else if n < 800 then bump F.MCH_TRNCNT1_SHORT s c
  else modMch c (fun m => { m with pause := some (s.now, decide (n ≥ 6000)) }) s

/-- RETRAIN_PAUSE_END (R487, R490, R491). -/
def execRetrainPauseEnd (ch : Fin 16) (ok : Bool) (s : State) : Out :=
  let c := ch.val
  match (mchOf s c).pause with
  | none => .next s
  | some (_, full) =>
    let s := tally (48 + c) (bump (if full then F.MCH_TRNCNT0_FULL else F.MCH_TRNCNT0_QUICK) s c)
    let wait := (mchOf s c).forcedWait && !ok
    let s := if ok then modMch c mchTrained s else modMch c (fun m => { m with pause := none }) s
    let s := if ok then s else report 0x0B 0 c 255 s
    .next (if wait && bayReady s (c / 4) then forcedStart c s else s)

/-- DRIFT is at or above a threshold that forces a procedure, or DUE has held FORCE ms (R490). -/
def forcedDue (s : State) (c : Nat) : Bool :=
  let m := mchOf s c
  decide (m.drift ≥ fld s F.MCH_CTRL_DHARD c) ||
    (match m.dueAt with
     | some t => decide (s.now - t ≥ fld s F.MCH_CTRL_FORCE c * 1000000)
     | none => false)

/-- The drift monitor's reading: the largest since the last completed procedure stands, and DUE with it (R486). -/
def setDrift (c reading : Nat) (s : State) : State :=
  let drift := max (mchOf s c).drift reading
  let due := decide (drift ≥ fld s F.MCH_CTRL_DTH c)
  modMch c (fun m => { m with
    drift := drift, dueAt := if due then some (m.dueAt.getD s.now) else none }) s

/-- FORCED_RETRAIN (R490): the monitor reads a drift, and a forced procedure is taken at once or after the pause. -/
def execForcedRetrain (ch : Fin 16) (drift : BitVec 8) (s : State) : Out :=
  let c := ch.val
  if bayReady s (c / 4) then
    let s := setDrift c drift.toNat s
    if !forcedDue s c then .next s
    else if (mchOf s c).pause.isSome then .next (modMch c (fun m => { m with forcedWait := true }) s)
    else .next (forcedStart c s)
  else .next s

/-! ### Bay commands (R497, R501, R503) -/

/-- A bay begins INIT or RESTORE: its words will be zero, its captures are gone (R476, R503). -/
def bayWipe (b : Nat) (s : State) : State :=
  let s := modMem (fun m => { m with
    rld := m.rld.filter fun e => decide (e.1 / 2 ^ 30 ≠ b)
    rldFlip := m.rldFlip.filter fun e => decide (e.1 / 2 ^ 30 ≠ b), diag := tabErase m.diag b }) s
  forEach [0, 1, 2, 3] (fun k s =>
    forEach (List.range 6) (fun w => setRword .MCH_UE (4 * b + k) 0 w 0) s) s

/-- RESTORE's effect (R503, R529). -/
def restoreEffect (b : Nat) (s : State) : State := bayReturn b (bayWipe b (setBay b .restore s))

/-- The refusals of MCH_BAYCMD. -/
def bayCmdBusy (b : Nat) (s : State) (v : List Nat) : Option Berr :=
  if valOf v F.MCH_BAYCMD_OP = 1 then busyIf (decide ((bayOf s b).st ≠ .frozen))
  else if valOf v F.MCH_BAYCMD_OP = 2 then busyIf (decide (s.pwr.mode ≠ .service) || !bayReady s b)
  else none

/-- What a commit of MCH_BAYCMD performs. -/
def bayCmdEffect (b req : Nat) (v : List Nat) (s : State) : State :=
  if valOf v F.MCH_BAYCMD_OP = 1 then restoreEffect b s else bayFreeze (4 * b) 5 0 req 0 0 0 0 0 s

/-- RESTORE (R503, R529). -/
def execRldRestore (req : Req) (bay : Fin 4) (s : State) : Out :=
  .next (regCommit .MCH_BAYCMD (4 * bay.val) 0 ⟨req, .normal, 1⟩ (bayCmdBusy bay.val s) anyOk
    (bayCmdEffect bay.val req.val) s)

/-- FREEZE (R497, R501). -/
def execRldFreeze (req : Req) (bay : Fin 4) (s : State) : Out :=
  .next (regCommit .MCH_BAYCMD (4 * bay.val) 0 ⟨req, .normal, 2⟩ (bayCmdBusy bay.val s) anyOk
    (bayCmdEffect bay.val req.val) s)

/-- MCH_DIAGR is cleared and the raw read issued (R502). -/
def diagStart (b : Nat) (v : List Nat) (s : State) : State :=
  let s := forEach [0, 1, 2] (fun w => setRword .MCH_DIAGR (4 * b) 0 w 0) s
  modMem (fun m => { m with diag := tabSet none m.diag b (some (valOf v F.MCH_DIAGA_X)) }) s

/-- MCH_DIAGA_WRITE (R502). -/
def execMchDiagaWrite (bay : Fin 4) (a : Acc) (s : State) : Out :=
  .next (regCommit .MCH_DIAGA (4 * bay.val) 0 a (fun _ => busyIf (decide ((bayOf s bay.val).st ≠ .frozen))) anyOk
    (diagStart bay.val) s)

/-- The end of a raw read of word x, with the raw word read: it and its syndrome, or TMO (R502). -/
def diagDone (b x raw : Nat) (tmo : Bool) (s : State) : State :=
  let s := modMem (fun m => { m with diag := tabErase m.diag b }) s
  if tmo then setFld F.MCH_DIAGR_TMO 1 s (4 * b)
  else
    setRword .MCH_DIAGR (4 * b) 0 0 (2 ^ 31 + syndrome raw (rldU x) * 2 ^ 16 + raw / 2 ^ 64 % 2 ^ 16)
      (setRword .MCH_DIAGR (4 * b) 0 1 (raw / 2 ^ 32 % 2 ^ 32) (setRword .MCH_DIAGR (4 * b) 0 2 (raw % 2 ^ 32) s))

/-- DIAG_READ_COMPLETE (R502): raw word and syndrome, without correction or reread. -/
def execDiagReadComplete (bay : Fin 4) (upsets : List (Nat × BitVec 80)) (flip : BitVec 80) (tmo : Bool)
    (s : State) : Out :=
  let b := bay.val
  let s := rldUpset upsets s
  match tabGet none s.mem.diag b with
  | none => .next s
  | some x => .next (diagDone b x (rldRaw s b x ^^^ flip.toNat) tmo s)

/-- TRAINING_FAILURE (R478, R501). -/
def execTrainingFailure (ch : Fin 16) (s : State) : Out :=
  if decide ((bayOf s (ch.val / 4)).st = .init) || decide ((bayOf s (ch.val / 4)).st = .restore) then
    .next (bayFreeze ch.val 4 0 255 0 0 0 0 0 s)
  else .next s

end Sys2Proof.Machine
end

