-- ==== Sys2Proof/Machine/Control.lean ====
section
/-! DEFINITION. The control space as a whole: the rules of every register beyond its field table, accesses of one and two
words, the key guard, the parity checkers, and remote register access (spec/02; spec/18 R723-R726). -/

namespace Sys2Proof.Machine

/-! ### Rules of the registers -/

/-- What a register's map and rules add to its field table: refusals for its block's state, reserved values, whether a
commit stores its fields, and its effect. -/
structure RegRules where
  busy : List Nat → Option Berr := neverBusy
  ok : List Nat → Bool := anyOk
  keep : Bool := true
  eff : List Nat → State → State := fun _ s => s

/-- Rules of the SYS, raster clock and PTP blocks (spec/03, spec/07, spec/08, spec/10). -/
def sysRules (r : Reg) (req fr : Nat) (s : State) : RegRules :=
  match r with
  | .SYS_PLCMD =>
    { busy := plBusy s
      eff := fun v s =>
        let slot := valOf v F.SYS_PLCMD_SLOT
        let addr := valOf v F.SYS_PLCMD_DADDR_LO + valOf v F.SYS_PLCMD_DADDR_HI * 2 ^ 32
        let avail := (Config.freeWord 18 s.free).toNat % 65536
        if valOf v F.SYS_PLCMD_OP = 1 then plLoad slot req addr avail (takeFree s) else plUnload slot req s }
  | .SYS_KEYREQ => { eff := keyReqEffect }
  | .SYS_DECCFG => { busy := decCfgBusy s, ok := decCfgOk s, eff := decCfgEffect }
  | .RCK_CTRL => { ok := rckCtrlOk s, eff := rckCtrlEffect }
  | .RCK_CMD => { eff := rckCmdEffect }
  | .RCK_FMT => { busy := fun _ => fmtBusy s, ok := fmtOkVals, eff := fun _ => fmtEffect }
  | .RCK_SLOT => { busy := slotBusy s, ok := slotOk s, eff := slotCommit }
  | .PTP_CFG => { eff := fun _ => ptpCfgEffect fr s }
  | _ => {}

/-- What a commit of NDL_CMD performs. -/
def ndlCmdEffect (n : Nat) (v : List Nat) (s : State) : State :=
  match valOf v F.NDL_CMD_OP with
  | 1 => haltEffect n s
  | 2 => resumeEffect n s
  | 3 => askAbort n 0 s
  | _ => hstartEffect n s

/-- Rules of lanes, line FIFOs, Swatches and needles (spec/04, spec/05). -/
def laneRules (r : Reg) (fr i : Nat) (s : State) : RegRules :=
  match r with
  | .LANE_CTRL => { busy := laneCtrlBusy fr s, eff := fun _ => laneCtrlEffect fr }
  | .LANE_LCFG => { busy := fun _ => busyIf (flag s F.LANE_CTRL_EN fr) }
  | .LANE_TXW =>
    { busy := fun _ => busyIf (decide ((laneOf s fr).txq.length ≥ 4))
      ok := fun v => laneWordOk (valOf v F.LANE_TXW_WLO + valOf v F.LANE_TXW_WHI * 2 ^ 32)
      eff := txwEffect fr }
  | .LFI_CFG => { busy := lfiCfgBusy i s, ok := lfiCfgOk i s, eff := fun _ => lfiCfgEffect i s }
  | .LFI_CMD => { busy := fun _ => busyIf (portOn s i 0 || portOn s i 1), eff := fun _ => lfiFlushed i }
  | .SWT_BUF =>
    { busy := fun _ => busyIf (decide ((swtOf s i).queue.length ≥ 2))
      eff := fun v => modSwt i (fun w => { w with queue := w.queue ++ [valOf v F.SWT_BUF_HANDLE] }) }
  | .NDL_CMD =>
    { busy := fun v => busyIf (match valOf v F.NDL_CMD_OP with
        | 1 => haltBusy fr s | 2 => resumeBusy fr s | 3 => abortBusy fr s | _ => hstartBusy fr s)
      eff := ndlCmdEffect fr }
  | .NDL_BELL => { eff := bellEffect fr }
  | _ => {}

/-- Rules of memory, Stalls and porters (spec/11, spec/12, spec/13). -/
def memRules (r : Reg) (req fr i : Nat) (s : State) : RegRules :=
  match r with
  | .MCH_CTRL => { ok := fun v => decide (valOf v F.MCH_CTRL_DHARD > valOf v F.MCH_CTRL_DTH), eff := fun _ => setDrift fr 0 }
  | .MCH_BAYCMD => { busy := bayCmdBusy (fr / 4) s, eff := bayCmdEffect (fr / 4) req }
  | .MCH_DIAGA =>
    { busy := fun _ => busyIf (decide ((bayOf s (fr / 4)).st ≠ .frozen)), eff := diagStart (fr / 4) }
  | .STL_POOL =>
    { busy := poolBusy i s, ok := fun v => poolSame i s v || poolOk i s v
      eff := fun v t => if poolSame i s v then t else poolFresh i t }
  | .STL_OP => { ok := stlOpOk, eff := stlPerform req }
  | .STL_REVOKE => { eff := revokeEffect }
  | .PRT_CTL => { busy := prtCtlBusy s (16 * fr + i), eff := prtCtlEffect (16 * fr + i) }
  | .PRT_DESC => { busy := prtDescBusy s (16 * fr + i), eff := prtDescEffect (16 * fr + i) }
  | .PRT_CMD => { busy := prtCmdBusy s (16 * fr + i), eff := prtCmdEffect (16 * fr + i) }
  | _ => {}

/-- Rules of the ports, the switch, egress and magazines (spec/14, spec/15, spec/16). -/
def netRules (r : Reg) (req fr i : Nat) (s : State) : RegRules :=
  match r with
  | .ETH_CFG => { busy := ethCfgBusy fr s, ok := ethCfgOk fr, eff := fun _ => ethCfgEffect fr }
  | .SSW_RTP => { ok := sswRtpOk }
  | .SSW_CQ => { busy := sswCqBusy i s, ok := sswCqOk, eff := sswCqEffect i }
  | .SSW_TX => { busy := sswTxBusy s, ok := sswTxOk s, eff := sswTxEffect }
  | .CT_ENTRY => { ok := ctEntryOk, eff := ctEntryEffect }
  | .FT_CMD => { busy := ftBusy s, eff := ftCmdEffect req }
  | .EG_QCFG => { ok := egQcfgOk fr s }
  | .EG_TBASE => { ok := egTbaseOk }
  | .EG_BKT => { ok := egBktOk, eff := egBktEffect }
  | .EG_POL => { ok := egPolOk, eff := egPolEffect }
  | .MAG_CFG => { busy := magCfgBusy fr s, ok := magCfgOk fr, eff := fun _ => magCfgEffect fr s }
  | .MAG_CMD => { busy := magCmdBusy s fr, ok := magCmdOk, eff := magCmdEffect fr }
  | .MAG_SCFG => { busy := magScfgBusy fr i s }
  | _ => {}

/-- Rules of the interrupt controller, mailboxes and semaphores (spec/17). -/
def ictRules (r : Reg) (req i : Nat) (s : State) : RegRules :=
  match r with
  | .ICT_CTRL => { eff := ictCtrlEffect }
  | .ICT_SCFG => { ok := ictScfgOk, eff := ictScfgEffect }
  | .ICT_CTX_CFG => { eff := fun _ => ictSettle }
  | .ICT_CTX_COMPLETE => { eff := completeEffect req i }
  | .ICT_SWI => { eff := swiEffect }
  | .ICT_WAKE => { ok := ictWakeOk s i }
  | .MBX_MSG => { keep := false, eff := mbxMsgEffect i req }
  | .MBX_CFG => { busy := mbxCfgBusy s, ok := mbxCfgOk, eff := mbxCfgEffect }
  | .SEM_LOCK => { keep := false, eff := fun _ => semWriteZero req i }
  | .SEM_REVOKE => { eff := semRevokeEffect }
  | _ => {}

/-- Rules of security, power, faults, Ledger and Tally (spec/19, spec/20, spec/21). -/
def pwrRules (r : Reg) (req i : Nat) (s : State) : RegRules :=
  match r with
  | .SEC_BOOTGO => { eff := bootGoEffect }
  | .SEC_CMD => { busy := secCmdBusy s, ok := secCmdOk, eff := secHold false req }
  | .SEC_NLOAD => { busy := secNloadBusy s, eff := secHold true req }
  | .PWR_MODECMD => { busy := modeCmdBusy s, eff := modeCommand }
  | .PWR_DOMREQ => { busy := domReqRefusal s i, eff := domReqEffect s i }
  | .PWR_ISOCLR => { eff := isoClear }
  | .PWR_THERM => { ok := fun v => decide (valOf v F.PWR_THERM_WARN < valOf v F.PWR_THERM_TRIP) }
  | .PWR_RESET => { ok := resetKeyOk, eff := fun _ s => enterCastOn 4 (rword s .SYS_STRAP 0 0 0) s }
  | .FCL_SEV => { eff := fun _ => fclSevEffect s i }
  | .FCL_CLR => { eff := fclClear }
  | .LDG_UREC =>
    { busy := fun _ => busyIf (decide (s.ldg.queue.length ≥ 32))
      eff := fun v s => ldgPush (mkRec s 9 0 ((v.take 11).flatMap (leBytes 4))) s }
  | .TLY_INC => { eff := fun v => tallyAdd (448 + valOf v F.TLY_INC_INDEX) (valOf v F.TLY_INC_AMOUNT) }
  | .TLY_HINC => { eff := fun v => histBump (24 + valOf v F.TLY_HINC_HIST) (valOf v F.TLY_HINC_BIN) }
  | .TLY_CMD => { busy := fun _ => busyIf s.tly.snap.isSome, eff := fun _ => snapDue }
  | _ => {}

/-! ### Remote access: the asking side (R723, R726) -/

/-- A requester's remote access record changes. -/
def setRra (req : Nat) (x : Rra) (s : State) : State :=
  modSth (fun t => { t with rra := tabSet .reset t.rra req x }) s

/-- A remote access ends: RESULT, CAUSE and, when it is done, its data (STH_RRAR). -/
def rraEnd (req result cause data : Nat) (s : State) : State :=
  let x := rraOf s req
  setRra req { x with busy := false, result := result, cause := cause, data := if result = 0 then data else x.data } s

/-- Only one access of a requester is outstanding (R723). -/
def rraBusy (req : Nat) (s : State) (_ : List Nat) : Option Berr := busyIf (rraOf s req).busy

/-- The device takes part in the fleet under this number (R715, R726). -/
def deviceJoined (s : State) (dev : Nat) : Bool :=
  if isManager s then dev == 0 || decide ((rosterOf s dev).st = .joined) else isWorker s && joined s

/-- A commit of STH_RRA (R723, R726). `self` performs an access to the device's own number, which no link delivers
(DESIGN CHOICE, notes/assumptions/19.md). -/
def rraBegin (self : Nat → Bool → Nat → Nat → Nat → State → Nat × State × Option Berr) (req : Nat) (v : List Nat)
    (s : State) : State :=
  let dev := valOf v F.STH_RRA_DEV
  let wr := valOf v F.STH_RRA_WR == 1
  let w64 := valOf v F.STH_RRA_W64 == 1
  let off := valOf v F.STH_RRA_OFFSET
  let data := valOf v F.STH_RRA_DLO + valOf v F.STH_RRA_DHI * 2 ^ 32
  let x := rraOf s req
  let own := s.sth.devNo
  if wr && !isManager s && dev ≠ own then rraEnd req 3 0 0 s
  else if !deviceJoined s dev then rraEnd req 5 0 0 s
  else
    let s := setRra req { x with busy := true, dev := dev, at_ := s.now } s
    if dev = own then
      match self req wr (if w64 then 8 else 4) off data s with
      | (d, s, some c) => rraEnd req 2 c.code d s
      | (d, s, none) => rraEnd req 0 0 d s
    else sendMsg dev (.rraAsk req wr w64 off data) s

/-- Rules of Stitch (spec/18). -/
def sthRules (self : Nat → Bool → Nat → Nat → Nat → State → Nat × State × Option Berr) (r : Reg) (req fr i : Nat)
    (s : State) : RegRules :=
  match r with
  | .STH_CTRL => { busy := sthCtrlBusy s, eff := sthCtrlEffect fr }
  | .STH_RRA => { busy := rraBusy req s, eff := rraBegin self req }
  | .STH_TCH => { busy := sthTchBusy s i, eff := fun _ => sthTchEffect i s }
  | .STHM_ADMIT => { eff := admitEffect }
  | .STHM_PLACE => { ok := sthmPlaceOk, eff := sthmPlaceEffect }
  | _ => {}

/-- The rules of a register. -/
def regRules (self : Nat → Bool → Nat → Nat → Nat → State → Nat × State × Option Berr) (r : Reg) (req fr i : Nat)
    (s : State) : RegRules :=
  match (regInfo r).blk with
  | .sys => sysRules r req fr s
  | .rck => sysRules r req fr s
  | .ptp => sysRules r req fr s
  | .lane => laneRules r fr i s
  | .lfi => laneRules r fr i s
  | .swt => laneRules r fr i s
  | .ndl => laneRules r fr i s
  | .skn => {}
  | .gau => {}
  | .mch => memRules r req fr i s
  | .stl => memRules r req fr i s
  | .prt => memRules r req fr i s
  | .eth => netRules r req fr i s
  | .ssw => netRules r req fr i s
  | .ct => netRules r req fr i s
  | .ft => netRules r req fr i s
  | .mag => netRules r req fr i s
  | .ict => ictRules r req i s
  | .mbx => ictRules r req i s
  | .sem => ictRules r req i s
  | .sth => sthRules self r req fr i s
  | .sec => pwrRules r req i s
  | .pwr => pwrRules r req i s
  | .fcl => pwrRules r req i s
  | .ldg => pwrRules r req i s
  | .tly => pwrRules r req i s

/-! ### What an offset names (R17, R43, R49) -/

/-- The window of a frame offset. -/
def winOf (o : Nat) : Alias :=
  match o / 0x1000 % 4 with
  | 0 => .normal | 1 => .set | 2 => .clear | _ => .toggle

/-- What a word offset of the normal window names. -/
inductive CtlWord where
  | lock
  | stat
  | rej
  | reg (r : Reg) (i w : Nat)
  | reserved
  deriving DecidableEq, Repr

/-- The word at a normal-window offset of a block's frame; STHM_CTRL is reserved on a worker. -/
def ctlWord (s : State) (b : Blk) (fr o : Nat) : CtlWord :=
  if o = 0xFF0 then .lock
  else if o = 0xFF4 then .stat
  else if o = 0xFF8 then .rej
  else match locate b fr o with
    | some (r, i, w) => if r = .STHM_CTRL && isWorker s then .reserved else .reg r i w
    | none => .reserved

/-- A block's frame is without power. -/
def frameDown (s : State) (b : Blk) (fr : Nat) : Bool := match blkDomain b fr with | some d => !domUp s d | none => false

/-- The first cause of refusal of a whole access, in the order of R857 up to SIZE. -/
def ctlRefusal (s : State) (off bytes : Nat) : Option Berr :=
  match frameBlk (off / 0x4000) with
  | none => some .noframe
  | some (b, fr) =>
    let o := off % 0x4000
    if frameDown s b fr then some .domoff
    else if 0x1000 ≤ o && o % 0x1000 ≥ 0xFF0 then some .winOp
    else if (bytes = 4 && off % 4 = 0) || (bytes = 8 && off % 8 = 0) then none
    else some .size

/-! ### KEYLOCK (R65-R72) -/

/-- A write to a frame's KEYLOCK: the grant, the renewal, or BADKEY (R65-R67). -/
def keyWrite (f req data : Nat) (s : State) : State × Option Berr :=
  let s := served f req s
  let right := bitsOf data 16 16 == 0x4C52 && bitsOf data 0 10 == f
  if right && (keyLeft s f = 0 || (keyOf s f).owner = req) then (keyGrant f req s, none)
  else (keyReject f req .badkey s, some .badkey)

/-! ### Accesses (R49-R59, R79) -/

/-- One word of a write to an allocated frame that is powered. -/
def ctlWriteWord (self : Nat → Bool → Nat → Nat → Nat → State → Nat × State × Option Berr) (req : Req) (off data : Nat)
    (s : State) : State × Option Berr :=
  let f := off / 0x4000
  match frameBlk f with
  | none => (s, some .noframe)
  | some (b, fr) =>
    match ctlWord s b fr (off % 0x1000) with
    | .lock => keyWrite f req.val data s
    | .reg r i w =>
      let x := regRules self r req.val fr i s
      writeReg r fr i w ⟨req, winOf off, BitVec.ofNat 32 data⟩ x.busy x.ok x.keep x.eff s
    | _ => (served f req.val s, none)

/-- One word of a read. -/
def ctlReadWord (req off : Nat) (s : State) : Nat × State × Option Berr :=
  let f := off / 0x4000
  match frameBlk f with
  | none => (0, s, some .noframe)
  | some (b, fr) =>
    match ctlWord s b fr (off % 0x1000) with
    | .lock => (0, served f req s, none)
    | .stat =>
      let left := keyLeft s f
      (b2n (decide (left ≥ 1)) * 2 ^ 31 + left * 2 ^ 8 + (if left ≥ 1 then (keyOf s f).owner else 0), served f req s, none)
    | .rej => ((keyOf s f).rejCount * 2 ^ 16 + (keyOf s f).rejCause * 2 ^ 12 + (keyOf s f).rejReq, served f req s, none)
    | .reg r i w => readReg r fr i w req s
    | .reserved => (0, served f req s, none)

/-- The first of two causes. -/
def firstCause (a b : Option Berr) : Option Berr := match a with | some c => some c | none => b

/-- A write of 4 or 8 bytes to control space: two words in ascending order, each served or refused on its own (R52, R79).
No bus error is raised here. -/
def ctlWriteWith (self : Nat → Bool → Nat → Nat → Nat → State → Nat × State × Option Berr) (req : Req)
    (off bytes data : Nat) (s : State) : State × Option Berr :=
  if !baseUp s then (s, none)
  else
    match ctlRefusal s off bytes with
    | some c => (s, some c)
    | none =>
      let x := ctlWriteWord self req off (data % 2 ^ 32) s
      if bytes = 8 then
        let y := ctlWriteWord self req (off + 4) (data / 2 ^ 32 % 2 ^ 32) x.1
        (y.1, firstCause x.2 y.2)
      else x

/-- A read of 4 or 8 bytes of control space. -/
def ctlRead (req off bytes : Nat) (s : State) : Nat × State × Option Berr :=
  if !baseUp s then (0, s, none)
  else
    match ctlRefusal s off bytes with
    | some c => (0, s, some c)
    | none =>
      let x := ctlReadWord req off s
      if bytes = 8 then
        let y := ctlReadWord req (off + 4) x.2.1
        (x.1 + y.1 * 2 ^ 32, y.2.1, firstCause x.2.2 y.2.2)
      else x

/-- The origin of the last remote access performed, and their count (STH_RAREC, R724). -/
def raRecord (dev req : Nat) (wr : Bool) (off : Nat) (s : State) : State :=
  let n := (fld s F.STH_RAREC_COUNT + 1) % 2 ^ 24
  let s := setRword .STH_RAREC 0 0 0 (b2n wr * 2 ^ 31 + dev % 64 * 2 ^ 24 + off % 2 ^ 24) s
  setRword .STH_RAREC 0 0 1 (n * 2 ^ 8 + req % 256) s

/-- A requester number as a requester. -/
def asReq (n : Nat) : Req := Fin.ofNat 241 n

/-- An access performed with its bus error (R79, R81): data, state and cause. -/
def ctlPerform (self : Nat → Bool → Nat → Nat → Nat → State → Nat × State × Option Berr) (req : Nat) (wr : Bool)
    (bytes off data : Nat) (s : State) : Nat × State × Option Berr :=
  if wr then
    let x := ctlWriteWith self (asReq req) off bytes data s
    (0, accessEnd req (controlBase + off) true x, x.2)
  else
    let x := ctlRead req off bytes s
    (x.1, accessEnd req (controlBase + off) false x.2, x.2.2)

/-- An access that meets itself: its requester's access is outstanding, so it is never asked for (R723). -/
def selfNever (_ : Nat) (_ : Bool) (_ _ _ : Nat) (s : State) : Nat × State × Option Berr := (0, s, some .busy)

/-- An access to the device's own number: recorded, and performed under the requester's own ID. -/
def selfAccess (req : Nat) (wr : Bool) (bytes off data : Nat) (s : State) : Nat × State × Option Berr :=
  ctlPerform selfNever req wr bytes off data (raRecord s.sth.devNo req wr off s)

/-- A write to control space. -/
def ctlWrite (req : Req) (off bytes data : Nat) (s : State) : State × Option Berr :=
  ctlWriteWith selfAccess req off bytes data s

/-- REGISTER_WRITE (R49-R57, R64-R73, R79-R83, R857). -/
def execRegisterWrite (req : Req) (off : BitVec 24) (bytes : Nat) (data : DWord) (s : State) : Out :=
  .next (accessEnd req.val (controlBase + off.toNat) true (ctlWrite req off.toNat bytes data.toNat s))

/-- KEYLOCK_WRITE (R65-R67). -/
def execKeylockWrite (req : Req) (frame : Fin 1024) (data : Word) (s : State) : Out :=
  let off := frame.val * 0x4000 + 0xFF0
  .next (accessEnd req.val (controlBase + off) true (ctlWrite req off 4 data.toNat s))

/-! ### Remote access: the target's side (R724, R725) -/

/-- An unlock made over a link is held by an origin (R725): the origins of unlocks that the link still holds. -/
def linkOrigins (s : State) (k : Nat) : List (Nat × Nat) :=
  s.sth.unlocks.filterMap fun e => if keyOpen s e.1 (224 + k) then e.2 else none

/-- Another origin holds an unlock over this link. -/
def rraWaits (s : State) (x : RraWait) : Bool := (linkOrigins s x.link).any fun o => o != (x.dev, x.req)

/-- After a remote write to KEYLOCK the frame's unlock is known by its origin. -/
def noteUnlock (x : RraWait) (s : State) : State :=
  let note (w : Nat) (s : State) : State :=
    let f := w / 0x4000
    if x.wr && w % 0x4000 == 0xFF0 && keyOpen s f (224 + x.link) then
      modSth (fun t => { t with unlocks := tabSet none t.unlocks f (some (x.dev, x.req)) }) s
    else s
  note x.offset s

/-- A target performs a remote access under its link's ID and answers (R724). -/
def rraPerform (x : RraWait) (s : State) : State :=
  let s := raRecord x.dev x.req x.wr x.offset s
  match ctlPerform selfAccess (224 + x.link) x.wr (if x.w64 then 8 else 4) x.offset x.data s with
  | (d, s, c) =>
    let s := noteUnlock x s
    match c with
    | some c => sendMsg x.dev (.rraAnswer x.req 2 c.code 0) s
    | none => sendMsg x.dev (.rraAnswer x.req 0 0 d) s

/-- The accesses that waited and need wait no longer are performed in their order (R725). -/
def rraDrain (s : State) : State :=
  let l := s.sth.waiting
  forEach l (fun x s =>
    if rraWaits s x then modSth (fun t => { t with waiting := t.waiting ++ [x] }) s else rraPerform x s)
    (modSth (fun t => { t with waiting := [] }) s)

/-- REMOTE_ACCESS_SERVE (R724, R725). -/
def execRemoteAccessServe (link : Fin 8) (h : FlitHdr) (origin : Byte) (wr : Bool) (w64 : Bool) (offset : BitVec 24)
    (data : DWord) (s : State) : Out :=
  let x : RraWait := ⟨link.val, h.src.val, origin.toNat, wr, w64, offset.toNat, data.toNat⟩
  .next (rxOwn link.val h (fun s =>
    let s := rraDrain s
    if rraWaits s x then modSth (fun t => { t with waiting := t.waiting ++ [x] }) s
    else rraDrain (rraPerform x s)) s)

/-- UNLOCK_EXPIRE (R70): LEFT has reached 0; accesses that waited for the unlock go on (R725). -/
def execUnlockExpire (frame : Fin 1024) (s : State) : Out :=
  let f := frame.val
  if (keyOf s f).ends ≠ 0 && keyLeft s f = 0 then .next (rraDrain (keyClose f s)) else .next s

/-- REMOTE_ACCESS (R723): the words of a commit of STH_RRA. -/
def execRemoteAccess (req : Req) (data : DWord) (wr : Bool) (w64 : Bool) (dev : Fin 64) (offset : BitVec 24) (s : State) :
    Out :=
  let top := b2n wr * 2 ^ 31 + b2n w64 * 2 ^ 30 + dev.val * 2 ^ 24 + offset.toNat
  .next (commitWords .STH_RRA 0 0 req [data.toNat % 2 ^ 32, data.toNat / 2 ^ 32, top] (rraBusy req.val s) anyOk
    (rraBegin selfAccess req.val) s)

/-- REMOTE_ACCESS_ANSWER (R723, R724): a late answer is discarded (R726). -/
def execRemoteAccessAnswer (link : Fin 8) (h : FlitHdr) (req : Req) (result : BitVec 4) (cause : BitVec 4) (data : DWord)
    (s : State) : Out :=
  .next (rxOwn link.val h (fun s =>
    let x := rraOf s req.val
    if x.busy && x.dev == h.src.val then rraEnd req.val result.toNat cause.toNat data.toNat s else s) s)

/-- REMOTE_ACCESS_TIMEOUT (R726). -/
def execRemoteAccessTimeout (req : Req) (s : State) : Out :=
  let x := rraOf s req.val
  if x.busy && decide (s.now ≥ x.at_ + fld s F.STH_SCTRL_RRATMO * 1000) then .next (rraEnd req.val 4 0 0 s) else .next s

/-! ### Configuration parity (R73-R78, R854) -/

/-- Instances of a register that hold RW or KG fields: of FCL_SEVw those of real sources (R795). -/
def parCount (r : Reg) : Nat := match r with | .FCL_SEV => 2 | r => (regInfo r).count

/-- The first instance of a register at or above a frame offset. -/
def instFrom (r : Reg) (pos : Nat) : Option (Nat × Nat) :=
  let x := regInfo r
  let i := if pos ≤ x.off then 0 else if x.stride = 0 then x.count else (pos - x.off + x.stride - 1) / x.stride
  if i < parCount r then some (x.off + i * x.stride, i) else none

/-- The next parity-carrying register at or above a frame offset: its offset, register and instance. -/
def parNext (b : Blk) (fr pos : Nat) : Option (Nat × Reg × Nat) :=
  let ok (r : Reg) : Bool := carriesParity r && (locate b fr (regInfo r).off).any fun x => x.1 == r
  ((blkRegs b).filter ok).foldl (fun best r =>
    match instFrom r pos, best with
    | some (o, i), some (p, q) => if o < p then some (o, r, i) else some (p, q)
    | some (o, i), none => some (o, r, i)
    | none, b => b) none

/-- The copies that a register's visit checks, in ascending requester ID (R854): 255 for a register held once. -/
def parCopies (s : State) (r : Reg) (fr i : Nat) : List (Nat × Nat) :=
  let k := regKey r fr i 0
  if (regInfo r).perReq then (List.range 256).filterMap fun q =>
    if tabGet false s.bus.parBad (copyKey q k) then some (copyKey q k, q) else none
  else if tabGet false s.bus.parBad k then [(k, 255)] else []

/-- A mismatch is reported once (R75, R76). -/
def parReport (off : Nat) (e : Nat × Nat) (s : State) : State :=
  if tabGet false s.bus.parReported e.1 || s.bus.wroteNow.contains e.1 then s
  else
    let s := { s with bus := { s.bus with parReported := tabSet false s.bus.parReported e.1 true } }
    let s := report 0x00 0 off e.2 (bump F.SYS_CFGPAR_COUNT s)
    if flag s F.SYS_CFGPAR_ARM then setFld F.SYS_CFGPAR_ARM 0 (setFld F.SYS_CFGPAR_ADDR_OFFSET off s) else s

/-- Bits of a stored register flip; an odd number of them breaks its parity (R73). -/
def parUpset (b : Blk) (fr : Nat) (u : Upset) (s : State) : State :=
  match locate b fr u.offset with
  | none => s
  | some (r, i, w) =>
    let q := match u.copy with | some q => q.val | none => 0
    if (regInfo r).perReq && u.copy.isNone then s
    else
      let m := u.mask.toNat &&& rwMask r i w
      let s := putWord r q fr i w (curWord s r q fr i w ^^^ m) s
      let odd := popcount 32 m % 2 == 1
      let flip (t : Tab Bool) : Tab Bool := if odd then tabMod false t (parKey r q fr i) (! ·) else t
      { s with bus := { s.bus with parBad := flip s.bus.parBad } }

/-- The cycle from which a frame's checker makes its next visit (R74). -/
def parDue (s : State) (f : Nat) : Nat := max (tabGet 0 s.bus.parAt f) (s.pwr.mtimeBase + 1)

/-- One visit of a frame's checker (R74, R75, R77, R854). -/
def parVisit (b : Blk) (fr f : Nat) (s : State) : State :=
  let pos := tabGet 0 s.bus.parPos f
  let next := match parNext b fr pos with | some x => some x | none => parNext b fr 0
  match next with
  | none => s
  | some (o, r, i) =>
    let at_ := parDue s f + 16
    let s := forEach (parCopies s r fr i) (parReport (f * 0x4000 + o)) s
    { s with bus := { s.bus with parPos := tabSet 0 s.bus.parPos f (o + 4), parAt := tabSet 0 s.bus.parAt f at_ } }

/-- CFGPAR (R74): the upsets since the last visit, then a visit that is due in a powered frame. -/
def execCfgpar (frame : Fin 1024) (upsets : List Upset) (s : State) : Out :=
  let f := frame.val
  match frameBlk f with
  | none => .next s
  | some (b, fr) =>
    if !baseUp s || frameDown s b fr then .next s
    else
      let s := forEach upsets (parUpset b fr) s
      if s.now < parDue s f then .next s else .next (parVisit b fr f s)

end Sys2Proof.Machine
end

