-- ==== Sys2Proof/Machine/Burst.lean ====
section
/-! DEFINITION. Accesses of any region by a porter or a transfer engine, the bursts of a porter, and the transfers of a
needle (spec/01 R41, R42, R855; spec/05 R190-R192; spec/13 R534-R548; spec/16 R633, R647, R663). -/

namespace Sys2Proof.Machine

/-! ### Accesses of any region -/

/-- What an access of any region gives: data, a refusal, an uncorrectable error, or a wait for an aperture. -/
inductive FabRes where
  | ok (v : Nat)
  | err (c : Berr)
  | ue
  | wait
  deriving DecidableEq, Repr

/-- A memory result as a result of any region. -/
def MemRes.fab : MemRes → FabRes
  | .ok v => .ok v.toNat
  | .err c => .err c
  | .ue => .ue

/-- Bytes of a control-space access of `n` bits: 72 bits are 64 of payload (R54). -/
def ctlBytes (n : Nat) : Nat := if n = 72 then 8 else n / 8

/-- The refusals of a PCIe window for an access (R633, R855): UNMAPPED outside SERVICE for the magazine's memory space,
DOMOFF without power, then SIZE. -/
def pcieRefusal (s : State) (req m o n : Nat) (write : Bool) : Option Berr :=
  let space := decide (o < 0xF0000000)
  if space && s.pwr.mode ≠ .service then some .unmapped
  else if !magUp s m then some .domoff
  else if !sizeOk n o || (n = 72 && !carriesTag req) then some .size
  else if space && decide (n < 32) then some .size
  else if !space && write && decide (n < 64) then some .size
  else none

/-- The stream of an aperture offset. -/
def apertureOf (o : Nat) : Nat := (o - 0xF0000000) / 0x1000000

/-- A read in a PCIe window; what a magazine's own memory answers is a free value. -/
def pcieRead (req m o n : Nat) (s : State) : FabRes × State :=
  match pcieRefusal s req m o n false with
  | some c => (.err c, s)
  | none =>
    if o < 0xF0000000 then (.ok ((Config.freeWord 19 s.free).toNat % 2 ^ min n 64), takeFree s)
    else
      match apertureRead m (apertureOf o) (ctlBytes n) s with
      | (.ok v, s) => (.ok v, s)
      | (.error (some c), s) => (.err c, s)
      | (.error none, s) => (.wait, s)

/-- A write in a PCIe window; a write to a magazine's own memory changes nothing of the device. -/
def pcieWrite (req m o n v : Nat) (s : State) : FabRes × State :=
  match pcieRefusal s req m o n true with
  | some c => (.err c, s)
  | none =>
    if o < 0xF0000000 then (.ok 0, s)
    else
      match apertureTake m (apertureOf o) (v % 2 ^ 64) s with
      | (s, true) => (.ok 0, s)
      | (s, false) => (.wait, s)

/-- A read of `n` bits of any region; a refusal is a bus error (R42, R81). -/
def fabRead (req a n : Nat) (s : State) : FabRes × State :=
  let x : FabRes × State :=
    match regionOf s a with
    | some (.ctl o) =>
      (match ctlRead req o (ctlBytes n) s with
       | (v, s, none) => (.ok v, s)
       | (_, s, some c) => (.err c, s))
    | some (.pcie m o) => pcieRead req m o n s
    | _ => match memRead req a n .none s with | (r, s) => (r.fab, s)
  match x with
  | (.err c, s) => (.err c, busError req a false c s)
  | x => x

/-- A write of `n` bits to any region. -/
def fabWrite (req a n v : Nat) (s : State) : FabRes × State :=
  let x : FabRes × State :=
    match regionOf s a with
    | some (.ctl o) =>
      (match ctlWrite (asReq req) o (ctlBytes n) v s with
       | (s, none) => (.ok 0, s)
       | (s, some c) => (.err c, s))
    | some (.pcie m o) => pcieWrite req m o n v s
    | _ => match memWrite req a n (BitVec.ofNat 72 v) .none s with | (r, s) => (r.fab, s)
  match x with
  | (.err c, s) => (.err c, busError req a true c s)
  | x => x

/-! ### Elements of a burst (R534-R537) -/

/-- The address of element `k` of a side (R534); in index mode the channel reads the entry. -/
def elemAddr (n mode base k size : Nat) (s : State) : FabRes × State × Nat :=
  let x := prtOf s n
  match mode with
  | 0 => (.ok (base + k * size), s, 0)
  | 1 => (.ok base, s, 0)
  | _ =>
    let gl := pd x 0x1C 2
    let e := pd x 0x10 6 + 4 * (k / gl)
    match fabRead (136 + n) e 32 s with
    | (.ok v, s) => (.ok (base + v + k % gl * size), s, e)
    | (r, s) => (r, s, e)

/-- Read source elements into the holding register (R535); an element that fails stops with its address. -/
def readElems (n : Nat) : Nat → State → Option (Nat × FabRes) × State
  | 0, s => (none, s)
  | k + 1, s =>
    let x := prtOf s n
    let w := widthBits (pd x 0x1E 1)
    match elemAddr n (pd x 0x20 1) x.src x.taken (elemSize (pd x 0x1E 1)) s with
    | (.ok a, s, _) =>
      (match fabRead (136 + n) a w s with
       | (.ok v, s) =>
         readElems n k (modPrt n (fun x => { x with
           hold := x.hold + v % 2 ^ w * 2 ^ x.bits, bits := x.bits + w, taken := x.taken + 1 }) s)
       | (r, s) => (some (a, r), s))
    | (r, s, e) => (some (e, r), s)

/-- Write destination elements from the low end of the holding register. -/
def writeElems (n : Nat) : Nat → State → Option (Nat × FabRes) × State
  | 0, s => (none, s)
  | k + 1, s =>
    let x := prtOf s n
    let w := widthBits (pd x 0x1F 1)
    match elemAddr n (pd x 0x21 1) x.dst x.written (elemSize (pd x 0x1F 1)) s with
    | (.ok a, s, _) =>
      (match fabWrite (136 + n) a w (x.hold % 2 ^ w) s with
       | (.ok _, s) =>
         writeElems n k (modPrt n (fun x => { x with
           hold := x.hold / 2 ^ w, bits := x.bits - w, written := x.written + 1 }) s)
       | (r, s) => (some (a, r), s))
    | (r, s, e) => (some (e, r), s)

/-- Whole destination elements that the holding register holds. -/
def heldElems (x : Prt) : Nat := x.bits / widthBits (pd x 0x1F 1)

/-- A failed element: a wait leaves the burst as if it had not begun, an error stops the channel (R547). -/
def burstFail (n : Nat) (old : State) (e : Nat × FabRes) (s : State) : State :=
  match e.2 with
  | .wait => old
  | .err c => prtBusError n e.1 c s
  | _ => prtBusError n e.1 .unmapped s

/-- What follows a burst: the descriptor's end, an abort, or the next burst (R543, R545, R546). -/
def burstDone (n : Nat) (last : Bool) (s : State) : State :=
  let x := prtOf s n
  if last then descEnd n s
  else if x.st = .aborting then
    let s := if pdLfi x && x.inLine then (portDrop (pdBase s x) (pdPort x) s).getD s else s
    chainEnd n 1 0 (prtResid x) x.written s
  else s

/-- A burst between memories (R537). -/
def plainBurst (n : Nat) (s : State) : State :=
  let x := prtOf s n
  let c := pd x 0x1E 1
  let most := if c ≥ 3 then 32 else 256 / elemSize c
  let len := pd x 0x18 4
  match readElems n (min most (len - x.taken)) s with
  | (some e, t) => burstFail n s e t
  | (none, t) =>
    match writeElems n (heldElems (prtOf t n)) t with
    | (some e, u) => burstFail n s e u
    | (none, u) => burstDone n (decide ((prtOf u n).taken ≥ len)) u

/-- The header element of a line (R541). -/
def lfiHeader (r : LfiRec) (dw : Nat) : Nat := if dw = 72 then recWord r + 0x4C * 2 ^ 64 else recWord r

/-- A queue of bits with words added at its upper end. -/
def queueBits (l : List Native) (hold bits : Nat) : Nat × Nat :=
  l.foldl (fun q v => (q.1 + v.toNat * 2 ^ q.2, q.2 + 72)) (hold, bits)

/-- A burst in LFI mode (R541): the header with the first words of a line, up to 32 words, and the padding at its end. It
waits while no record is readable; an abort ends the chain there. -/
def lfiBurst (n : Nat) (s : State) : State :=
  let x := prtOf s n
  let b := pdBase s x
  let p := pdPort x
  let dw := widthBits (pd x 0x1F 1)
  match portRec s b p with
  | none => if x.st = .aborting then burstDone n false s else s
  | some r =>
    let w := (portOf s b p).word
    let words := (r.data.drop w).take 32
    let fin := decide (w + words.length ≥ r.data.length)
    let t := portReadOp b p 32 s
    let (h0, b0) := if x.inLine then (x.hold, x.bits) else (lfiHeader r dw, dw)
    let (h, bits) := queueBits words h0 b0
    let bits := if fin then (bits + dw - 1) / dw * dw else bits
    let t := modPrt n (fun x => { x with hold := h, bits := bits, inLine := true }) t
    match writeElems n (bits / dw) t with
    | (some e, u) => burstFail n s e u
    | (none, u) =>
      let u := if fin then modPrt n (fun x => { x with lines := x.lines + 1, inLine := false }) u else u
      burstDone n (decide ((prtOf u n).lines ≥ pd x 0x18 4)) u

/-- PORTER_BURST (R534-R548). -/
def execPorterBurst (channel : Fin 64) (s : State) : Out :=
  let n := channel.val
  let x := prtOf s n
  if !domUp s (204 + n / 16) || !(x.st = .move || (x.st = .aborting && !x.desc.isEmpty)) then .next s
  else if pdLfi x then .next (lfiBurst n s)
  else .next (plainBurst n s)

/-! ### Transfers of a needle (R190-R192) -/

/-- A transfer goes to any region but the Boot ROM and control space (R190). -/
def xferRegion (s : State) (a : Nat) : Bool :=
  match regionOf s a with
  | some (.rom _) => false
  | some (.ctl _) => false
  | _ => true

/-- What a transfer's word comes to. -/
inductive XferEnd where
  | moved
  | stop (f : NdlFault)
  | wait
  deriving DecidableEq, Repr

/-- What an access of a transfer comes to: XERR with its cause, or SKUE. -/
def xferEnd (a : Nat) : FabRes → XferEnd
  | .ok _ => .moved
  | .err c => .stop { plainFault 0x15 a with berr := c.code }
  | .ue => .stop (plainFault 0x14 (a % 0x400000 / 8))
  | .wait => .wait

/-- A word of a transfer, from or to a remote address. -/
def xferWord (n : Nat) (out : Bool) (a loc : Nat) (s : State) : XferEnd × State :=
  if loc ≥ 2 ^ 15 then (.stop (plainFault 0x10 loc), s)
  else if !xferRegion s a then (xferEnd a (.err .unmapped), busError n a out .unmapped s)
  else if out then
    match lsRead n loc s with
    | (none, s) => (.stop (plainFault 0x12 loc), s)
    | (some v, s) => match fabWrite n a 72 v.toNat s with | (r, s) => (xferEnd a r, s)
  else
    match fabRead n a 72 s with
    | (.ok v, s) => (.moved, lsPut n loc (BitVec.ofNat 72 v) s)
    | (r, s) => (xferEnd a r, s)

/-- The words of a transfer in order; a failing word stops it, and words moved before stay moved (R191). -/
def xferWords (n : Nat) (out : Bool) : Nat → Nat → Nat → State → XferEnd × State
  | 0, _, _, s => (.moved, s)
  | k + 1, a, loc, s =>
    match xferWord n out a loc s with
    | (.moved, s) => xferWords n out k (a + 8) (loc + 1) s
    | (r, s) => (r, s)

/-- XFER_COMPLETE (R190-R192): the oldest transfer completes, with XDONE where it is marked, or stops with a fault. -/
def execXferComplete (needle : Fin 128) (s : State) : Out :=
  let n := needle.val
  match (ndlOf s n).xfers with
  | [] => .next s
  | t :: rest =>
    if !domUp s n then .next s
    else
      match xferWords n t.out t.count t.remote t.loc (modNdl n (fun x => { x with xfers := rest }) s) with
      | (.moved, s) => .next (if t.notice then ndlIrq n 2 s else s)
      | (.stop f, s) => .next (raiseFault n f s)
      | (.wait, _) => .next s

end Sys2Proof.Machine
end

