-- ==== Sys2Proof/Machine/Sched.lean ====
section
/-! DEFINITION. The firing of scheduler slots and the Delay_Req of a PTP domain (spec/03 R112-R124; spec/07 R308, R322;
spec/14 R561). -/

namespace Sys2Proof.Machine

/-! ### PSTART (R236, R308, R322) -/

/-- A needle at PSTART: its first PSTART starts it at fetch word 0x0010 slot 0 with EXC clear, a later one is interrupt
input 0 (R322). -/
def needleStart (n : Nat) (s : State) : State :=
  if !domUp s n then s
  else if !(ndlOf s n).started && decide ((ndlOf s n).st = .idle) then
    setNdlSt n .run (modNdl n (fun x => { x with pc := 0x0010 * 4, exc := false, started := true, nano := none }) s)
  else ndlIrq n 0 s

/-- PSTART of a slot: the first moves it from LOADED to RUNNING; an EMPTY or UNLOADING slot is left alone (R308). -/
def slotStart (n : Nat) (s : State) : State :=
  match (patOf s n).st with
  | .loaded =>
    let s := modPat n (fun p => { p with st := .running, runAt := s.now }) s
    decStart n (gaugeStart n (forEach (slotNeedles s n) needleStart s))
  | .running => forEach (slotNeedles s n) needleStart s
  | _ => s

/-- The PSTART action; it takes ARMED to RUN (R782). -/
def pstartAct (n : Nat) (s : State) : State :=
  let s := slotStart n s
  if s.pwr.mode = .armed then setMode .run 2 s else s

/-! ### Actions (R120) -/

/-- One action at a position total; an action on a block without power has no effect. -/
def slotAct (x : Slot) (t : Nat) (s : State) : State :=
  let n := x.target
  match x.action with
  | 1 => if domUp s (160 + n / 4) then handWord n x.pay s else s
  | 2 => phaseAct n x.pay t s
  | 3 => if domUp s (176 + n / 4) then gateAct n x.pay s else s
  | 4 => if domUp s (144 + n) then retrainAct n (bitsOf x.pay 0 16) s else s
  | 5 => pstartAct n s
  | 6 => if n = 64 then snapDue s else if n = 255 then forEach (List.range 64) swtLatch s else swtLatch n s
  | _ => raise (693 + n) s

/-- Actions that a position performs once for a target: a later RETRAIN or PSTART also counts in SLIP (R120). -/
def actOnce (a : Nat) : Bool := decide (4 ≤ a)

/-- A slot's contents fire at a position total (R116, R120). -/
def fireAct (x : Slot) (t : Nat) (s : State) : State :=
  let e := (t, x.action, x.target)
  if actOnce x.action && s.rck.acted.contains e then
    if x.action ≤ 5 then bump F.RCK_EVCNT_SLIP s else s
  else
    slotAct x t (modRck (fun r => { r with acted := r.acted.filter (fun y => y.1 == t) ++ [e] }) s)

/-- The firing of the contents that a late commit spared (R115). -/
def fireSpared (i : Nat) (s : State) : State :=
  match tabFind s.rck.spared i with
  | none => s
  | some y =>
    if reached s y.total (slotAdv s y.slot) then
      let s := modRck (fun r => { r with spared := tabErase r.spared i }) s
      if canFire s.pwr.mode then fireAct y.slot y.total (modSlot i (fun x => { x with fired := true }) s)
      else raise 707 (bump F.RCK_EVCNT_MISSED (modSlot i (fun x => { x with missed := true }) s))
    else s

/-- An occurrence of an armed slot whose position is reached: it fires, or is handled as missed (R114, R116, R117). -/
def fireSlot (i : Nat) (s : State) : State :=
  let x := slotOf s i
  let t := slotTotal s x
  let adv := slotAdv s x
  if !x.arm || decide (t ≤ (x.seen : Int)) || !reached s t adv then s
  else if !leadOk s t x.commitRt adv || !canFire s.pwr.mode then missSlot i t s
  else fireAct x t.toNat (modSlot i (fun x => { x with fired := true, arm := x.mode ≠ 0, seen := t.toNat }) s)

/-- SLOT_FIRE (R112-R117, R119, R120). -/
def execSlotFire (slot : Fin 512) (s : State) : Out :=
  if !domUp s 212 || !rasterValid s then .next s
  else .next (fireSlot slot.val (fireSpared slot.val s))

/-! ### Delay_Req (R88, R89, R561) -/

/-- Bytes of a Delay_Req without FCS: Ethernet, IPv4 or IPv6, UDP and 44 bytes of PTP. The manual gives no addresses, so
every byte is a free value (notes/assumptions/2.md). -/
def delayReqBytes (v6 : Bool) (s : State) : List Nat :=
  (List.range (if v6 then 106 else 86)).map fun i => Config.freeNat 45 s.free [i] % 256

/-- PTP_DELAY_REQ_SEND (R561): on queue 63 of the domain's port, stamped as it leaves. -/
def execPtpDelayReqSend (dom : Fin 2) (s : State) : Out :=
  let d := dom.val
  let p := fld s F.PTP_CFG_PORT d
  if !domUp s 212 || !flag s F.PTP_CFG_EN d || !portUsable s p then .next s
  else
    let f : EgFrame := ⟨delayReqBytes (flag s F.PTP_CFG_TRANSPORT d) s, s.now, none, none, none, true, false⟩
    .next (egEnqueue p 63 f (takeFree (modPtp d (fun x => { x with reqSent := some (rtNs s) }) s)))

end Sys2Proof.Machine
end

