-- ==== Sys2Proof/Machine/Dispatch.lean ====
section
/-! DEFINITION. One arm per command: a direct call of its meaning, or a rejection by name. -/

namespace Sys2Proof.Machine

/-- The effect of a command on everything but the queue. -/
def exec (i : Instr) (s : State) : Host.Outcome State Fault Refusal :=
  match i with
  | .registerWrite req off bytes data => Sys2Proof.Machine.execRegisterWrite req off bytes data s
  | .keylockWrite req frame data => Sys2Proof.Machine.execKeylockWrite req frame data s
  | .unlockExpire frame => Sys2Proof.Machine.execUnlockExpire frame s
  | .cfgpar frame upsets => Sys2Proof.Machine.execCfgpar frame upsets s
  | .patternLoad req slot addr avail => Sys2Proof.Machine.execPatternLoad req slot addr avail s
  | .placementCheckAnswer link h slot ok => Sys2Proof.Machine.execPlacementCheckAnswer link h slot ok s
  | .placementCheckTimeout => Sys2Proof.Machine.execPlacementCheckTimeout s
  | .patternUnload req slot => Sys2Proof.Machine.execPatternUnload req slot s
  | .unloadComplete slot => Sys2Proof.Machine.execUnloadComplete slot s
  | .ptpSyncReceive dom m => Sys2Proof.Machine.execPtpSyncReceive dom m s
  | .ptpAnnounceReceive dom m gm steps tlv => Sys2Proof.Machine.execPtpAnnounceReceive dom m gm steps tlv s
  | .ptpDelayRespReceive dom m => Sys2Proof.Machine.execPtpDelayRespReceive dom m s
  | .ptpDelayReqSend dom => Sys2Proof.Machine.execPtpDelayReqSend dom s
  | .domainUnavailable dom => Sys2Proof.Machine.execDomainUnavailable dom s
  | .ptpCfgCommit dom a => Sys2Proof.Machine.execPtpCfgCommit dom a s
  | .rckCtrlCommit a => Sys2Proof.Machine.execRckCtrlCommit a s
  | .ref10Valid => Sys2Proof.Machine.execRef10Valid s
  | .ref10Loss => Sys2Proof.Machine.execRef10Loss s
  | .ppsEdge => Sys2Proof.Machine.execPpsEdge s
  | .rckStep req => Sys2Proof.Machine.execRckStep req s
  | .rckDisarm req => Sys2Proof.Machine.execRckDisarm req s
  | .rckFmtCommit a => Sys2Proof.Machine.execRckFmtCommit a s
  | .slotArm a => Sys2Proof.Machine.execSlotArm a s
  | .slotDisarm a => Sys2Proof.Machine.execSlotDisarm a s
  | .slotFire slot => Sys2Proof.Machine.execSlotFire slot s
  | .phasePulseEnd pin => Sys2Proof.Machine.execPhasePulseEnd pin s
  | .tinEdge pin fall => Sys2Proof.Machine.execTinEdge pin fall s
  | .tinQueueRead req pin => Sys2Proof.Machine.execTinQueueRead req pin s
  | .oscRecord => Sys2Proof.Machine.execOscRecord s
  | .signalDetect lane => Sys2Proof.Machine.execSignalDetect lane s
  | .blockLockGain lane => Sys2Proof.Machine.execBlockLockGain lane s
  | .blockLockLoss lane signal bad => Sys2Proof.Machine.execBlockLockLoss lane signal bad s
  | .alignReceive lane seq bad => Sys2Proof.Machine.execAlignReceive lane seq bad s
  | .trainReceive lane body => Sys2Proof.Machine.execTrainReceive lane body s
  | .trainingTimeout lane => Sys2Proof.Machine.execTrainingTimeout lane s
  | .failRetry lane => Sys2Proof.Machine.execFailRetry lane s
  | .laneCtrlCommit lane a => Sys2Proof.Machine.execLaneCtrlCommit lane a s
  | .linePacketReceive lane sop payload eop => Sys2Proof.Machine.execLinePacketReceive lane sop payload eop s
  | .packetAbortClose lane sop payload => Sys2Proof.Machine.execPacketAbortClose lane sop payload s
  | .telemetryReceive lane sop payload eop => Sys2Proof.Machine.execTelemetryReceive lane sop payload eop s
  | .lineDeadline lane => Sys2Proof.Machine.execLineDeadline lane s
  | .lanewordLaunch lane => Sys2Proof.Machine.execLanewordLaunch lane s
  | .laneTxwQueue lane a => Sys2Proof.Machine.execLaneTxwQueue lane a s
  | .txwSend lane => Sys2Proof.Machine.execTxwSend lane s
  | .lfiRead base port words => Sys2Proof.Machine.execLfiRead base port words s
  | .lfiMark base port => Sys2Proof.Machine.execLfiMark base port s
  | .lfiRewind base port => Sys2Proof.Machine.execLfiRewind base port s
  | .lfiRelease base port => Sys2Proof.Machine.execLfiRelease base port s
  | .lfiDrop base port => Sys2Proof.Machine.execLfiDrop base port s
  | .lfiFlush req lfi => Sys2Proof.Machine.execLfiFlush req lfi s
  | .lfiIdleNotice lfi => Sys2Proof.Machine.execLfiIdleNotice lfi s
  | .swtBufQueue swt a => Sys2Proof.Machine.execSwtBufQueue swt a s
  | .distributorLineDeliver skein dist => Sys2Proof.Machine.execDistributorLineDeliver skein dist s
  | .microWordExecute needle => Sys2Proof.Machine.execMicroWordExecute needle s
  | .microNop needle => Sys2Proof.Machine.execMicroNop needle s
  | .microJump needle => Sys2Proof.Machine.execMicroJump needle s
  | .microCall needle => Sys2Proof.Machine.execMicroCall needle s
  | .microRet needle => Sys2Proof.Machine.execMicroRet needle s
  | .microDispatch needle => Sys2Proof.Machine.execMicroDispatch needle s
  | .microLoop needle => Sys2Proof.Machine.execMicroLoop needle s
  | .microSetlc needle => Sys2Proof.Machine.execMicroSetlc needle s
  | .microSeta needle => Sys2Proof.Machine.execMicroSeta needle s
  | .microMova needle => Sys2Proof.Machine.execMicroMova needle s
  | .microWait needle => Sys2Proof.Machine.execMicroWait needle s
  | .microRete needle => Sys2Proof.Machine.execMicroRete needle s
  | .microHoriz needle => Sys2Proof.Machine.execMicroHoriz needle s
  | .microTrap needle => Sys2Proof.Machine.execMicroTrap needle s
  | .microStop needle => Sys2Proof.Machine.execMicroStop needle s
  | .microGnote needle => Sys2Proof.Machine.execMicroGnote needle s
  | .nanoWordExecute needle => Sys2Proof.Machine.execNanoWordExecute needle s
  | .xferComplete needle => Sys2Proof.Machine.execXferComplete needle s
  | .horizWordExecute needle => Sys2Proof.Machine.execHorizWordExecute needle s
  | .safegap needle => Sys2Proof.Machine.execSafegap needle s
  | .nanorun needle => Sys2Proof.Machine.execNanorun needle s
  | .needleTimerExpire needle => Sys2Proof.Machine.execNeedleTimerExpire needle s
  | .ndlHalt req needle => Sys2Proof.Machine.execNdlHalt req needle s
  | .ndlResume req needle => Sys2Proof.Machine.execNdlResume req needle s
  | .ndlAbort req needle => Sys2Proof.Machine.execNdlAbort req needle s
  | .ndlHstart req needle => Sys2Proof.Machine.execNdlHstart req needle s
  | .ndlBellWrite needle a => Sys2Proof.Machine.execNdlBellWrite needle a s
  | .localStoreZeroDone needle => Sys2Proof.Machine.execLocalStoreZeroDone needle s
  | .skeinZeroDone skein => Sys2Proof.Machine.execSkeinZeroDone skein s
  | .skeinScrubStep skein upset => Sys2Proof.Machine.execSkeinScrubStep skein upset s
  | .rowStart slot out view stripe needle window xview prep coded => Sys2Proof.Machine.execRowStart slot out view stripe needle window xview prep coded s
  | .xvlate slot out view stripe => Sys2Proof.Machine.execXvlate slot out view stripe s
  | .keyRequest req slot out => Sys2Proof.Machine.execKeyRequest req slot out s
  | .gaugeReport slot coded intra whole => Sys2Proof.Machine.execGaugeReport slot coded intra whole s
  | .jointAllocation => Sys2Proof.Machine.execJointAllocation s
  | .stageShareSend => Sys2Proof.Machine.execStageShareSend s
  | .stageShareReceive link h group frame body => Sys2Proof.Machine.execStageShareReceive link h group frame body s
  | .stageShareMissed group => Sys2Proof.Machine.execStageShareMissed group s
  | .seedRecord slot out => Sys2Proof.Machine.execSeedRecord slot out s
  | .codedUnitReceive info => Sys2Proof.Machine.execCodedUnitReceive info s
  | .unitLossDeclare slot input => Sys2Proof.Machine.execUnitLossDeclare slot input s
  | .pictureCloseTimeout slot input => Sys2Proof.Machine.execPictureCloseTimeout slot input s
  | .decodeOutput slot input => Sys2Proof.Machine.execDecodeOutput slot input s
  | .rldRead req addr bits e => Sys2Proof.Machine.execRldRead req addr bits e s
  | .rldWrite req addr bits data e => Sys2Proof.Machine.execRldWrite req addr bits data e s
  | .rdWindowEnd ch => Sys2Proof.Machine.execRdWindowEnd ch s
  | .bayReady bay => Sys2Proof.Machine.execBayReady bay s
  | .rldRefresh ch => Sys2Proof.Machine.execRldRefresh ch s
  | .rldScrub ch e => Sys2Proof.Machine.execRldScrub ch e s
  | .retrainPauseEnd ch ok => Sys2Proof.Machine.execRetrainPauseEnd ch ok s
  | .forcedRetrain ch drift => Sys2Proof.Machine.execForcedRetrain ch drift s
  | .rldRestore req bay => Sys2Proof.Machine.execRldRestore req bay s
  | .rldFreeze req bay => Sys2Proof.Machine.execRldFreeze req bay s
  | .mchDiagaWrite bay a => Sys2Proof.Machine.execMchDiagaWrite bay a s
  | .diagReadComplete bay upsets flip tmo => Sys2Proof.Machine.execDiagReadComplete bay upsets flip tmo s
  | .stlAlloc req pool => Sys2Proof.Machine.execStlAlloc req pool s
  | .stlFree req handle => Sys2Proof.Machine.execStlFree req handle s
  | .stlShare req handle recipient => Sys2Proof.Machine.execStlShare req handle recipient s
  | .stlCheck req handle offset lenm1 => Sys2Proof.Machine.execStlCheck req handle offset lenm1 s
  | .stlRevoke a => Sys2Proof.Machine.execStlRevoke a s
  | .stlPoolCommit pool a => Sys2Proof.Machine.execStlPoolCommit pool a s
  | .prtStart req channel addr => Sys2Proof.Machine.execPrtStart req channel addr s
  | .prtAbort req channel => Sys2Proof.Machine.execPrtAbort req channel s
  | .descriptorFetch channel => Sys2Proof.Machine.execDescriptorFetch channel s
  | .porterBurst channel => Sys2Proof.Machine.execPorterBurst channel s
  | .frameReceive port data fcsOk corr uncorr => Sys2Proof.Machine.execFrameReceive port data fcsOk corr uncorr s
  | .classifierPass bad => Sys2Proof.Machine.execClassifierPass bad s
  | .learnRequest => Sys2Proof.Machine.execLearnRequest s
  | .ftLookup req key ktag => Sys2Proof.Machine.execFtLookup req key ktag s
  | .ftInsert req key ktag result rtag => Sys2Proof.Machine.execFtInsert req key ktag result rtag s
  | .ftDelete req key ktag => Sys2Proof.Machine.execFtDelete req key ktag s
  | .ftReadIndex req index => Sys2Proof.Machine.execFtReadIndex req index s
  | .ftWriteIndex req index key ktag result rtag => Sys2Proof.Machine.execFtWriteIndex req index key ktag result rtag s
  | .ftFlush req => Sys2Proof.Machine.execFtFlush req s
  | .epochAdvance => Sys2Proof.Machine.execEpochAdvance s
  | .ageingSweepStep => Sys2Proof.Machine.execAgeingSweepStep s
  | .ctEntryCommit a => Sys2Proof.Machine.execCtEntryCommit a s
  | .sswTx a => Sys2Proof.Machine.execSswTx a s
  | .ethLinkUp port => Sys2Proof.Machine.execEthLinkUp port s
  | .ethLinkDown port block fec align => Sys2Proof.Machine.execEthLinkDown port block fec align s
  | .egressSelect port => Sys2Proof.Machine.execEgressSelect port s
  | .gateDrop port queue => Sys2Proof.Machine.execGateDrop port queue s
  | .queueMonitorSample => Sys2Proof.Machine.execQueueMonitorSample s
  | .egBktCommit a => Sys2Proof.Machine.execEgBktCommit a s
  | .egPolCommit a => Sys2Proof.Machine.execEgPolCommit a s
  | .pcieLinkUp mag speed width ident => Sys2Proof.Machine.execPcieLinkUp mag speed width ident s
  | .magazineScan mag sbA sbB journal => Sys2Proof.Machine.execMagazineScan mag sbA sbB journal s
  | .magLost mag => Sys2Proof.Machine.execMagLost mag s
  | .magFormat req mag extsh => Sys2Proof.Machine.execMagFormat req mag extsh s
  | .magOpen req mag take => Sys2Proof.Machine.execMagOpen req mag take s
  | .magClose req mag => Sys2Proof.Machine.execMagClose req mag s
  | .magDetach req mag => Sys2Proof.Machine.execMagDetach req mag s
  | .apertureWrite req mag stream data => Sys2Proof.Machine.execApertureWrite req mag stream data s
  | .landingSubmit mag stream => Sys2Proof.Machine.execLandingSubmit mag stream s
  | .codedPictureRecord mag => Sys2Proof.Machine.execCodedPictureRecord mag s
  | .nvmeWriteComplete mag index ok => Sys2Proof.Machine.execNvmeWriteComplete mag index ok s
  | .journalSubmit mag => Sys2Proof.Machine.execJournalSubmit mag s
  | .journalWriteComplete mag ok => Sys2Proof.Machine.execJournalWriteComplete mag ok s
  | .magSlow mag stream => Sys2Proof.Machine.execMagSlow mag stream s
  | .readApertureRead req mag stream bits => Sys2Proof.Machine.execReadApertureRead req mag stream bits s
  | .magazineInputDeliver slot input => Sys2Proof.Machine.execMagazineInputDeliver slot input s
  | .inboundRequest mag target => Sys2Proof.Machine.execInboundRequest mag target s
  | .mgperstRelease mag => Sys2Proof.Machine.execMgperstRelease mag s
  | .interruptArrival src => Sys2Proof.Machine.execInterruptArrival src s
  | .groupHoldExpire group => Sys2Proof.Machine.execGroupHoldExpire group s
  | .ictClaim req ctx => Sys2Proof.Machine.execIctClaim req ctx s
  | .ictComplete req ctx src => Sys2Proof.Machine.execIctComplete req ctx src s
  | .thresholdRestore ctx => Sys2Proof.Machine.execThresholdRestore ctx s
  | .ictSwiWrite a => Sys2Proof.Machine.execIctSwiWrite a s
  | .mailboxWrite req box payload tag => Sys2Proof.Machine.execMailboxWrite req box payload tag s
  | .mailboxRead req box => Sys2Proof.Machine.execMailboxRead req box s
  | .mailboxTimeout box => Sys2Proof.Machine.execMailboxTimeout box s
  | .semLockRead req sem => Sys2Proof.Machine.execSemLockRead req sem s
  | .semRelease req sem => Sys2Proof.Machine.execSemRelease req sem s
  | .semRevoke a => Sys2Proof.Machine.execSemRevoke a s
  | .flitReplay link ack => Sys2Proof.Machine.execFlitReplay link ack s
  | .helloSend link => Sys2Proof.Machine.execHelloSend link s
  | .sthHello link x => Sys2Proof.Machine.execSthHello link x s
  | .sthJoin link h uid clevel via olink attested => Sys2Proof.Machine.execSthJoin link h uid clevel via olink attested s
  | .stitchLinkLost link => Sys2Proof.Machine.execStitchLinkLost link s
  | .phaseSend link => Sys2Proof.Machine.execPhaseSend link s
  | .phaseFlit link x => Sys2Proof.Machine.execPhaseFlit link x s
  | .phaseLost => Sys2Proof.Machine.execPhaseLost s
  | .remoteAccess req data wr w64 dev offset => Sys2Proof.Machine.execRemoteAccess req data wr w64 dev offset s
  | .remoteAccessServe link h origin wr w64 offset data => Sys2Proof.Machine.execRemoteAccessServe link h origin wr w64 offset data s
  | .remoteAccessAnswer link h req result cause data => Sys2Proof.Machine.execRemoteAccessAnswer link h req result cause data s
  | .remoteAccessTimeout req => Sys2Proof.Machine.execRemoteAccessTimeout req s
  | .remoteReset link h straps => Sys2Proof.Machine.execRemoteReset link h straps s
  | .remoteMailboxDeliver link h origin box payload tag => Sys2Proof.Machine.execRemoteMailboxDeliver link h origin box payload tag s
  | .remoteMailboxAck link h box => Sys2Proof.Machine.execRemoteMailboxAck link h box s
  | .stitchUnitReceive link h stream no ts marker note data => Sys2Proof.Machine.execStitchUnitReceive link h stream no ts marker note data s
  | .tileSendPoll chan => Sys2Proof.Machine.execTileSendPoll chan s
  | .tileBlockReceive link h chan skein ring addr block pidx => Sys2Proof.Machine.execTileBlockReceive link h chan skein ring addr block pidx s
  | .tileCidxPoll src chan => Sys2Proof.Machine.execTileCidxPoll src chan s
  | .stageKeyRequest link h stagepat out => Sys2Proof.Machine.execStageKeyRequest link h stagepat out s
  | .sysLossRead req => Sys2Proof.Machine.execSysLossRead req s
  | .sthPlace req addr => Sys2Proof.Machine.execSthPlace req addr s
  | .sthUnplace req stagepat => Sys2Proof.Machine.execSthUnplace req stagepat s
  | .sthForget req dev => Sys2Proof.Machine.execSthForget req dev s
  | .sthmAdmit a => Sys2Proof.Machine.execSthmAdmit a s
  | .secVerify req addr => Sys2Proof.Machine.execSecVerify req addr s
  | .secInstall req addr => Sys2Proof.Machine.execSecInstall req addr s
  | .secConfirm req => Sys2Proof.Machine.execSecConfirm req s
  | .secAdvance req target => Sys2Proof.Machine.execSecAdvance req target s
  | .secClaim req addr => Sys2Proof.Machine.execSecClaim req addr s
  | .secEquiv req addr => Sys2Proof.Machine.execSecEquiv req addr s
  | .secAttest req addr => Sys2Proof.Machine.execSecAttest req addr s
  | .secKeyrev req => Sys2Proof.Machine.execSecKeyrev req s
  | .nloadLib req addr bank skmask => Sys2Proof.Machine.execNloadLib req addr bank skmask s
  | .nloadCust req addr bank skmask => Sys2Proof.Machine.execNloadCust req addr bank skmask s
  | .nloadClear req bank skmask => Sys2Proof.Machine.execNloadClear req bank skmask s
  | .nanoBankLoadDone bad => Sys2Proof.Machine.execNanoBankLoadDone bad s
  | .secBootgo a => Sys2Proof.Machine.execSecBootgo a s
  | .jtagSecchal => Sys2Proof.Machine.execJtagSecchal s
  | .jtagSecunlk image => Sys2Proof.Machine.execJtagSecunlk image s
  | .secRandRead req => Sys2Proof.Machine.execSecRandRead req s
  | .rngfail => Sys2Proof.Machine.execRngfail s
  | .castOn ok file giveUp => Sys2Proof.Machine.execCastOn ok file giveUp s
  | .modeStandby req => Sys2Proof.Machine.execModeStandby req s
  | .modeArm req => Sys2Proof.Machine.execModeArm req s
  | .modeRun req => Sys2Proof.Machine.execModeRun req s
  | .modeResume req => Sys2Proof.Machine.execModeResume req s
  | .modeService req => Sys2Proof.Machine.execModeService req s
  | .modeUpdate req => Sys2Proof.Machine.execModeUpdate req s
  | .modeBindoff req stay => Sys2Proof.Machine.execModeBindoff req stay s
  | .bindoffTimeout => Sys2Proof.Machine.execBindoffTimeout s
  | .pwrDomreqCommit w a => Sys2Proof.Machine.execPwrDomreqCommit w a s
  | .domainSwitchDone => Sys2Proof.Machine.execDomainSwitchDone s
  | .domfail => Sys2Proof.Machine.execDomfail s
  | .coreWfiSleep core => Sys2Proof.Machine.execCoreWfiSleep core s
  | .wakeEvent stitch idx => Sys2Proof.Machine.execWakeEvent stitch idx s
  | .pwrIsoclr a => Sys2Proof.Machine.execPwrIsoclr a s
  | .pwrReset a straps => Sys2Proof.Machine.execPwrReset a straps s
  | .resetN low straps => Sys2Proof.Machine.execResetN low straps s
  | .pwrgdFall => Sys2Proof.Machine.execPwrgdFall s
  | .pfwN => Sys2Proof.Machine.execPfwN s
  | .pfwCommit => Sys2Proof.Machine.execPfwCommit s
  | .pfwMagazineClose => Sys2Proof.Machine.execPfwMagazineClose s
  | .vawnUp => Sys2Proof.Machine.execVawnUp s
  | .vawnDown => Sys2Proof.Machine.execVawnDown s
  | .awningStart straps => Sys2Proof.Machine.execAwningStart straps s
  | .fclReport src rise sub detail req => Sys2Proof.Machine.execFclReport src rise sub detail req s
  | .fclClr req mask word => Sys2Proof.Machine.execFclClr req mask word s
  | .fclSevWrite w a => Sys2Proof.Machine.execFclSevWrite w a s
  | .thermalRefresh tj awn => Sys2Proof.Machine.execThermalRefresh tj awn s
  | .ledgerRecordWrite readback => Sys2Proof.Machine.execLedgerRecordWrite readback s
  | .ledgerScan identity corrected bad => Sys2Proof.Machine.execLedgerScan identity corrected bad s
  | .ldgUrec req payload => Sys2Proof.Machine.execLdgUrec req payload s
  | .tlySnap req => Sys2Proof.Machine.execTlySnap req s
  | .tallySnapshotHourly => Sys2Proof.Machine.execTallySnapshotHourly s
  | .tallyHistogramSample supplies use => Sys2Proof.Machine.execTallyHistogramSample supplies use s
  | .tallyLoad => Sys2Proof.Machine.execTallyLoad s
  | .tlyInc a => Sys2Proof.Machine.execTlyInc a s
  | .tlyHinc a => Sys2Proof.Machine.execTlyHinc a s
  | .rspIdent dst tag uid => Sys2Proof.Machine.execRspIdent dst tag uid s
  | .rspRead dst tag unit count uid => Sys2Proof.Machine.execRspRead dst tag unit count uid s
  | .rspWake dst tag uid => Sys2Proof.Machine.execRspWake dst tag uid s
  | .trainingFailure ch => Sys2Proof.Machine.execTrainingFailure ch s
  | .stitchLinkUp link => Sys2Proof.Machine.execStitchLinkUp link s
  | .stitchLinkDown link => Sys2Proof.Machine.execStitchLinkDown link s
  | .flitCrcError link reserved numbered corr uncorr => Sys2Proof.Machine.execFlitCrcError link reserved numbered corr uncorr s
  | .flitForward link h msg => Sys2Proof.Machine.execFlitForward link h msg s
  | .joinAnswer link h uid number parent depth ok => Sys2Proof.Machine.execJoinAnswer link h uid number parent depth ok s
  | .placementQueryReceive link h slot stagepat part nparts librev => Sys2Proof.Machine.execPlacementQueryReceive link h slot stagepat part nparts librev s
  | .stageKeyRequestReceive link h stagepat out frame => Sys2Proof.Machine.execStageKeyRequestReceive link h stagepat out frame s
  | .bayLossNoticeReceive link h bay slot stagepat part outs => Sys2Proof.Machine.execBayLossNoticeReceive link h bay slot stagepat part outs s
  | .tileCidxReport link h chan cidx pidx => Sys2Proof.Machine.execTileCidxReport link h chan cidx pidx s
  | .imageCheckComplete flashOk => Sys2Proof.Machine.execImageCheckComplete flashOk s
  | .nvmeReadComplete mag brings => Sys2Proof.Machine.execNvmeReadComplete mag brings s

end Sys2Proof.Machine
end

