-- ==== Sys2Proof/Safety.lean ====
section
/-! DEFINITION. What counts as a safe run: no step stops, the memories stay in their canonical form, and no unlock lasts
longer than R65 grants. -/

namespace Sys2Proof.Machine

/-- The memories in their canonical form: no table lists a key twice, out of order, or at the value that an unlisted key
reads as. -/
def Memory.wf (m : Mem) : Bool :=
  tabWf 0 m.sram && tabWf 0 m.skm && tabWf 0 m.ls && tabWf 0 m.rld && tabWf 0 m.rldFlip && tabWf 0 m.skmFlip &&
    tabWf 0 m.lsFlip && tabWf .reset m.bays && tabWf .reset m.mchs && tabWf none m.diag

/-- No unlock ends later than 256 cycles from now (R65, R66, R70). -/
def keysOk (s : State) : Bool := s.bus.keys.all fun e => decide (e.2.ends ≤ s.now + 256)

/-- The invariant of every step. -/
def Inv (s : State) : Prop := Memory.wf s.mem = true ∧ keysOk s = true

/-- A frame of a block has power: the base domain operates, and the block's own domain is up (R83). -/
def frameUp (r : Reg) (fr : Nat) (s : State) : Bool :=
  baseUp s && match blkDomain (regInfo r).blk fr with | some d => domUp s d | none => true

/-- A committing write meets no cause of refusal (R857): its frame has power, its writer holds the unlock of a guarded
register, and neither the register's own rules nor a reserved value refuse it. -/
def accepts (r : Reg) (fr i : Nat) (a : Acc) (busy : List Nat → Option Berr) (ok : List Nat → Bool) (s : State) : Bool :=
  frameUp r fr s && (!(regInfo r).guarded || keyOpen s (blkFrame (regInfo r).blk fr) a.req.val) &&
    (busy (commitVals s r fr i a)).isNone && judge r (commitVals s r fr i a) && ok (commitVals s r fr i a)

/-- What the writes of all words of a register present to its commit, each whole and through the normal window: the bits
that a write can change (R50, R56). -/
def wordVals (r : Reg) (i : Nat) (ws : List Nat) : List Nat :=
  (List.range (regInfo r).words).map fun w => ws.getD w 0 % 2 ^ 32 &&& (rwMask r i w ||| woMask r w)

/-- The writes of all words of a register, the last of which commits, meet no cause of refusal (R857). -/
def acceptsWords (r : Reg) (fr i : Nat) (req : Req) (ws : List Nat) (busy : List Nat → Option Berr)
    (ok : List Nat → Bool) (s : State) : Bool :=
  frameUp r fr s && (!(regInfo r).guarded || keyOpen s (blkFrame (regInfo r).blk fr) req.val) &&
    (busy (wordVals r i ws)).isNone && judge r (wordVals r i ws) && ok (wordVals r i ws)

/-- What the register interface does for a commit that is taken, before the register's own effect: arbitration, the end of
staging (R57) and of the unlock (R68), and the stored fields with their parity (R73). -/
def taken (r : Reg) (fr i : Nat) (a : Acc) (s : State) : State :=
  let vals := commitVals s r fr i a
  let s := dropStage r a.req.val fr i (served (blkFrame (regInfo r).blk fr) a.req.val s)
  let s := if (regInfo r).guarded then keyClose (blkFrame (regInfo r).blk fr) s else s
  parityWritten r a.req.val fr i (storeVals r a.req.val fr i vals s)

/-- A step that answers a next state. -/
def Goes (s : State) : Prop := ∃ t, step s = .next t

end Sys2Proof.Machine
end

