-- ==== Sys2Proof/Footprint.lean ====
section
/-! DEFINITION. What a command may change: the parts of State, and for every command the parts outside which it changes
nothing. -/

namespace Sys2Proof.Machine

/-- The parts of State. Registers, key guards and the fabric's own records (staging, latches, arbitration, parity) are
parts of the register interface; the four kinds of memory are parts of the memory. -/
inductive Part where
  | free | rck | ptp | lane | lfi | port | swt | ndl | bank | dist | skn | pat | pl | joint | stl | eth | ssw | ft | arrivals | ict
  | mbx | sem | pwr | fcl | ldg | tly | sth | sec | mag | magIn | prt | regs | keys | fabric | sram | skm | ls | rld
  deriving DecidableEq, Repr

/-- Two states agree in a part. -/
def Part.same : Part → State → State → Prop
  | .free, s, t => t.free = s.free
  | .rck, s, t => t.rck = s.rck
  | .ptp, s, t => t.ptp = s.ptp
  | .lane, s, t => t.lane = s.lane
  | .lfi, s, t => t.lfi = s.lfi
  | .port, s, t => t.port = s.port
  | .swt, s, t => t.swt = s.swt
  | .ndl, s, t => t.ndl = s.ndl
  | .bank, s, t => t.bank = s.bank
  | .dist, s, t => t.dist = s.dist
  | .skn, s, t => t.skn = s.skn
  | .pat, s, t => t.pat = s.pat
  | .pl, s, t => t.pl = s.pl
  | .joint, s, t => t.joint = s.joint
  | .stl, s, t => t.stl = s.stl
  | .eth, s, t => t.eth = s.eth
  | .ssw, s, t => t.ssw = s.ssw
  | .ft, s, t => t.ft = s.ft
  | .arrivals, s, t => t.arrivals = s.arrivals
  | .ict, s, t => t.ict = s.ict
  | .mbx, s, t => t.mbx = s.mbx
  | .sem, s, t => t.sem = s.sem
  | .pwr, s, t => t.pwr = s.pwr
  | .fcl, s, t => t.fcl = s.fcl
  | .ldg, s, t => t.ldg = s.ldg
  | .tly, s, t => t.tly = s.tly
  | .sth, s, t => t.sth = s.sth
  | .sec, s, t => t.sec = s.sec
  | .mag, s, t => t.mag = s.mag
  | .magIn, s, t => t.magIn = s.magIn
  | .prt, s, t => t.prt = s.prt
  | .regs, s, t => t.bus.regs = s.bus.regs
  | .keys, s, t => t.bus.keys = s.bus.keys
  | .fabric, s, t => t.bus.staged = s.bus.staged ∧ t.bus.latched = s.bus.latched ∧ t.bus.rrPtr = s.bus.rrPtr ∧ t.bus.parBad = s.bus.parBad ∧ t.bus.parReported = s.bus.parReported ∧ t.bus.answers = s.bus.answers ∧ t.bus.parPos = s.bus.parPos ∧ t.bus.parAt = s.bus.parAt ∧ t.bus.wroteNow = s.bus.wroteNow
  | .sram, s, t => t.mem.sram = s.mem.sram
  | .skm, s, t => t.mem.skm = s.mem.skm ∧ t.mem.skmFlip = s.mem.skmFlip
  | .ls, s, t => t.mem.ls = s.mem.ls ∧ t.mem.lsFlip = s.mem.lsFlip
  | .rld, s, t => t.mem.rld = s.mem.rld ∧ t.mem.rldFlip = s.mem.rldFlip ∧ t.mem.bays = s.mem.bays ∧ t.mem.mchs = s.mem.mchs ∧ t.mem.diag = s.mem.diag

/-- A fault report may count, latch, journal, raise interrupts, change the mode and stop blocks (R796, R787). -/
def reports : List Part := [.ndl, .ict, .pwr, .fcl, .ldg, .tly, .mag, .prt, .regs]

/-- An interrupt event may wake a core (R674, R687). -/
def raises : List Part := [.ict, .pwr, .regs]

/-- A register access: its words, the key guard of its frame, staging and arbitration (R47, R56, R68). -/
def commits : List Part := [.regs, .keys, .fabric]

/-- Every part. -/
def allParts : List Part :=
  [.free, .rck, .ptp, .lane, .lfi, .port, .swt, .ndl, .bank, .dist, .skn, .pat, .pl, .joint, .stl, .eth, .ssw, .ft, .arrivals, .ict, .mbx, .sem,
   .pwr, .fcl, .ldg, .tly, .sth, .sec, .mag, .magIn, .prt, .regs, .keys, .fabric, .sram, .skm, .ls, .rld]

/-- Every part but some. -/
def allBut (l : List Part) : List Part := allParts.filter fun p => !l.contains p

/-- The parts of State that a command may change. -/
def footprint (c : Instr) : List Part :=
  match c with
  | .registerWrite _ _ _ _ => allParts
  | .keylockWrite _ _ _ => allParts
  | .unlockExpire _ => allParts
  | .cfgpar _ _ => reports ++ [.fabric]
  | .patternLoad _ _ _ _ => reports ++ commits ++ [.dist, .pat, .pl, .stl, .sth, .magIn, .sram, .skm, .ls, .rld]
  | .placementCheckAnswer _ _ _ _ => reports ++ [.dist, .pat, .pl, .stl, .sth, .magIn, .sram, .skm, .ls, .rld]
  | .placementCheckTimeout => reports ++ [.pat, .pl, .sth, .sram, .skm, .rld]
  | .patternUnload _ _ => raises ++ commits ++ [.ndl, .pat, .pl]
  | .unloadComplete _ => reports ++ [.dist, .pat, .pl, .stl, .sth, .magIn]
  | .ptpSyncReceive _ _ => reports ++ [.free, .rck, .ptp]
  | .ptpAnnounceReceive _ _ _ _ _ => [.ptp, .regs]
  | .ptpDelayRespReceive _ _ => [.ptp]
  | .ptpDelayReqSend _ => reports ++ [.free, .ptp, .stl, .eth]
  | .domainUnavailable _ => reports ++ [.rck, .ptp]
  | .ptpCfgCommit _ _ => reports ++ commits ++ [.rck, .ptp]
  | .rckCtrlCommit _ => raises ++ commits ++ [.rck]
  | .ref10Valid => [.rck]
  | .ref10Loss => [.rck]
  | .ppsEdge => [.regs]
  | .rckStep _ => raises ++ commits ++ [.rck]
  | .rckDisarm _ => raises ++ commits ++ [.rck]
  | .rckFmtCommit _ => commits ++ [.rck]
  | .slotArm _ => raises ++ commits ++ [.rck]
  | .slotDisarm _ => raises ++ commits ++ [.rck]
  | .slotFire _ => reports ++ [.rck, .lane, .swt, .pat, .stl, .eth, .sth, .sram, .skm, .rld]
  | .phasePulseEnd _ => [.rck]
  | .tinEdge _ _ => raises ++ [.rck]
  | .tinQueueRead _ _ => [.rck, .regs, .fabric]
  | .oscRecord => reports ++ [.free]
  | .signalDetect _ => raises ++ [.lane]
  | .blockLockGain _ => raises ++ [.lane]
  | .blockLockLoss _ _ _ => reports ++ [.lane]
  | .alignReceive _ _ _ => [.lane, .regs]
  | .trainReceive _ _ => reports ++ [.lane]
  | .trainingTimeout _ => raises ++ [.lane, .tly]
  | .failRetry _ => raises ++ [.lane]
  | .laneCtrlCommit _ _ => reports ++ commits ++ [.lane]
  | .linePacketReceive _ _ _ _ => reports ++ [.lane, .lfi, .swt, .pat, .sth, .sram, .skm, .rld]
  | .packetAbortClose _ _ _ => reports ++ [.lane, .lfi, .swt, .pat, .sth, .sram, .skm, .rld]
  | .telemetryReceive _ _ _ _ => reports ++ [.lane, .lfi, .swt, .pat, .sth, .sram, .skm, .rld]
  | .lineDeadline _ => reports ++ [.lane, .lfi, .swt, .pat, .sth, .sram, .skm, .rld]
  | .lanewordLaunch _ => reports ++ [.lane, .lfi, .swt, .pat, .sth, .sram, .skm, .rld]
  | .laneTxwQueue _ _ => commits ++ [.lane]
  | .txwSend _ => reports ++ [.lane, .lfi, .swt, .pat, .sth, .sram, .skm, .rld]
  | .lfiRead _ _ _ => [.lfi, .port]
  | .lfiMark _ _ => [.port]
  | .lfiRewind _ _ => [.port]
  | .lfiRelease _ _ => [.lfi, .port]
  | .lfiDrop _ _ => [.lfi, .port]
  | .lfiFlush _ _ => commits ++ [.lfi]
  | .lfiIdleNotice _ => raises ++ [.lfi]
  | .swtBufQueue _ _ => commits ++ [.swt]
  | .distributorLineDeliver _ _ => [.lfi, .port, .ndl, .ls]
  | .microWordExecute _ => reports ++ [.free, .pat, .mbx, .sth, .ls]
  | .microNop _ => reports ++ [.free, .pat, .mbx, .sth, .ls]
  | .microJump _ => reports ++ [.free, .pat, .mbx, .sth, .ls]
  | .microCall _ => reports ++ [.free, .pat, .mbx, .sth, .ls]
  | .microRet _ => reports ++ [.free, .pat, .mbx, .sth, .ls]
  | .microDispatch _ => reports ++ [.free, .pat, .mbx, .sth, .ls]
  | .microLoop _ => reports ++ [.free, .pat, .mbx, .sth, .ls]
  | .microSetlc _ => reports ++ [.free, .pat, .mbx, .sth, .ls]
  | .microSeta _ => reports ++ [.free, .pat, .mbx, .sth, .ls]
  | .microMova _ => reports ++ [.free, .pat, .mbx, .sth, .ls]
  | .microWait _ => reports ++ [.free, .pat, .mbx, .sth, .ls]
  | .microRete _ => reports ++ [.free, .pat, .mbx, .sth, .ls]
  | .microHoriz _ => reports ++ [.free, .pat, .mbx, .sth, .ls]
  | .microTrap _ => reports ++ [.free, .pat, .mbx, .sth, .ls]
  | .microStop _ => reports ++ [.free, .pat, .mbx, .sth, .ls]
  | .microGnote _ => reports ++ [.free, .pat, .mbx, .sth, .ls]
  | .nanoWordExecute _ => reports ++ [.free, .lfi, .port, .bank, .pat, .mbx, .sth, .skm, .ls]
  | .xferComplete _ => allParts
  | .horizWordExecute _ => reports ++ [.free, .lfi, .port, .pat, .mbx, .sth, .skm, .ls]
  | .safegap _ => reports ++ [.free, .pat]
  | .nanorun _ => reports ++ [.pat]
  | .needleTimerExpire _ => [.ndl]
  | .ndlHalt _ _ => raises ++ commits ++ [.ndl]
  | .ndlResume _ _ => raises ++ commits ++ [.ndl]
  | .ndlAbort _ _ => commits ++ [.ndl]
  | .ndlHstart _ _ => raises ++ commits ++ [.ndl]
  | .ndlBellWrite _ _ => commits ++ [.ndl]
  | .localStoreZeroDone _ => [.ndl, .ls]
  | .skeinZeroDone _ => raises ++ [.bank, .skn, .skm]
  | .skeinScrubStep _ _ => reports ++ [.skn, .skm]
  | .rowStart _ _ _ _ _ _ _ _ _ => reports ++ [.pat, .stl, .eth, .arrivals, .sth, .skm]
  | .xvlate _ _ _ _ => raises ++ [.pat]
  | .keyRequest _ _ _ => commits ++ [.pat, .sth]
  | .gaugeReport _ _ _ _ => reports ++ [.pat, .stl, .eth, .arrivals, .sth, .skm]
  | .jointAllocation => [.pat, .joint]
  | .stageShareSend => [.joint, .sth]
  | .stageShareReceive _ _ _ _ _ => [.joint, .tly, .sth, .regs]
  | .stageShareMissed _ => raises ++ [.joint]
  | .seedRecord _ _ => reports ++ [.pat]
  | .codedUnitReceive _ => reports ++ [.pat, .stl, .eth, .arrivals, .sth]
  | .unitLossDeclare _ _ => reports ++ [.pat, .stl, .eth, .arrivals, .sth]
  | .pictureCloseTimeout _ _ => reports ++ [.pat, .stl, .eth, .arrivals, .sth]
  | .decodeOutput _ _ => reports ++ [.pat, .stl, .eth, .arrivals, .sth]
  | .rldRead _ _ _ _ => reports ++ [.pat, .sth, .fabric, .skm, .rld]
  | .rldWrite _ _ _ _ _ => reports ++ [.pat, .sth, .fabric, .sram, .skm, .rld]
  | .rdWindowEnd _ => [.rld]
  | .bayReady _ => raises ++ [.rld]
  | .rldRefresh _ => [.rld]
  | .rldScrub _ _ => reports ++ [.pat, .sth, .rld]
  | .retrainPauseEnd _ _ => reports ++ [.rld]
  | .forcedRetrain _ _ => raises ++ [.rld]
  | .rldRestore _ _ => reports ++ commits ++ [.pat, .stl, .sth, .rld]
  | .rldFreeze _ _ => reports ++ commits ++ [.pat, .stl, .sth, .rld]
  | .mchDiagaWrite _ _ => commits ++ [.rld]
  | .diagReadComplete _ _ _ _ => [.regs, .rld]
  | .stlAlloc _ _ => raises ++ [.stl]
  | .stlFree _ _ => reports ++ [.stl]
  | .stlShare _ _ _ => reports ++ [.stl]
  | .stlCheck _ _ _ _ => reports
  | .stlRevoke _ => commits ++ [.stl]
  | .stlPoolCommit _ _ => commits ++ [.stl]
  | .prtStart _ _ _ => commits ++ [.prt]
  | .prtAbort _ _ => commits ++ [.prt]
  | .descriptorFetch _ => reports ++ [.pat, .sth, .skm, .rld]
  | .porterBurst _ => allParts
  | .frameReceive _ _ _ _ _ => [.ssw, .tly, .regs]
  | .classifierPass _ => reports ++ [.pat, .stl, .eth, .ssw, .ft, .arrivals, .sth, .sram, .skm, .rld]
  | .learnRequest => raises ++ [.ft]
  | .ftLookup _ _ _ => commits ++ [.ft]
  | .ftInsert _ _ _ _ _ => commits ++ [.ft]
  | .ftDelete _ _ _ => commits ++ [.ft]
  | .ftReadIndex _ _ => commits ++ [.ft]
  | .ftWriteIndex _ _ _ _ _ _ => commits ++ [.ft]
  | .ftFlush _ => commits ++ [.ft]
  | .epochAdvance => [.ft, .regs]
  | .ageingSweepStep => [.ft, .regs]
  | .ctEntryCommit _ => commits ++ [.ssw]
  | .sswTx _ => reports ++ commits ++ [.pat, .stl, .eth, .sth, .skm, .rld]
  | .ethLinkUp _ => raises ++ [.eth]
  | .ethLinkDown _ _ _ _ => reports ++ [.stl, .eth]
  | .egressSelect _ => reports ++ [.stl, .eth, .ssw]
  | .gateDrop _ _ => reports ++ [.stl, .eth]
  | .queueMonitorSample => [.eth, .ssw]
  | .egBktCommit _ => commits ++ [.ssw]
  | .egPolCommit _ => commits ++ [.ssw]
  | .pcieLinkUp _ _ _ _ => raises ++ [.mag]
  | .magazineScan _ _ _ _ => raises ++ [.mag]
  | .magLost _ => reports ++ [.stl]
  | .magFormat _ _ _ => reports ++ commits ++ [.free, .stl]
  | .magOpen _ _ _ => reports ++ commits ++ [.free, .stl]
  | .magClose _ _ => reports ++ commits ++ [.free, .stl]
  | .magDetach _ _ => reports ++ commits ++ [.free, .stl]
  | .apertureWrite _ _ _ _ => reports ++ [.stl]
  | .landingSubmit _ _ => reports ++ [.stl]
  | .codedPictureRecord _ => reports ++ [.stl]
  | .nvmeWriteComplete _ _ _ => reports ++ [.stl]
  | .journalSubmit _ => [.mag]
  | .journalWriteComplete _ _ => reports ++ [.stl]
  | .magSlow _ _ => reports ++ [.stl]
  | .readApertureRead _ _ _ _ => [.mag, .regs, .fabric]
  | .magazineInputDeliver _ _ => [.arrivals, .magIn]
  | .inboundRequest _ _ => raises
  | .mgperstRelease _ => [.mag]
  | .interruptArrival _ => raises
  | .groupHoldExpire _ => raises
  | .ictClaim _ _ => [.ict, .regs, .fabric]
  | .ictComplete _ _ _ => commits ++ [.ict]
  | .thresholdRestore _ => [.ict, .regs]
  | .ictSwiWrite _ => raises ++ commits
  | .mailboxWrite _ _ _ _ => reports ++ commits ++ [.mbx, .sth, .skm]
  | .mailboxRead _ _ => [.mbx, .sth, .regs, .fabric]
  | .mailboxTimeout _ => reports ++ [.mbx]
  | .semLockRead _ _ => [.sem, .regs, .fabric]
  | .semRelease _ _ => raises ++ commits ++ [.sem]
  | .semRevoke _ => raises ++ commits ++ [.sem]
  | .flitReplay _ _ => [.sth, .regs]
  | .helloSend _ => [.sth]
  | .sthHello _ _ => reports ++ [.sth]
  | .sthJoin _ _ _ _ _ _ _ => reports ++ [.sth]
  | .stitchLinkLost _ => reports ++ [.rck, .sth]
  | .phaseSend _ => [.sth]
  | .phaseFlit _ _ => reports ++ [.free, .rck, .sth]
  | .phaseLost => reports ++ [.rck]
  | .remoteAccess _ _ _ _ _ _ => allParts
  | .remoteAccessServe _ _ _ _ _ _ _ => allParts
  | .remoteAccessAnswer _ _ _ _ _ _ => [.tly, .sth, .regs]
  | .remoteAccessTimeout _ => [.sth]
  | .remoteReset _ _ _ => allBut [.free]
  | .remoteMailboxDeliver _ _ _ _ _ _ => reports ++ [.mbx, .sth, .skm]
  | .remoteMailboxAck _ _ _ => [.mbx, .tly, .sth, .regs]
  | .stitchUnitReceive _ _ _ _ _ _ _ _ => [.arrivals, .tly, .sth, .regs]
  | .tileSendPoll _ => reports ++ [.sth, .skm]
  | .tileBlockReceive _ _ _ _ _ _ _ _ => [.tly, .sth, .regs, .skm]
  | .tileCidxPoll _ _ => reports ++ [.sth, .skm]
  | .stageKeyRequest _ _ _ _ => [.pat, .tly, .sth, .regs]
  | .sysLossRead _ => [.sth, .regs, .fabric]
  | .sthPlace _ _ => raises ++ commits ++ [.sth]
  | .sthUnplace _ _ => raises ++ commits ++ [.sth]
  | .sthForget _ _ => raises ++ commits ++ [.sth]
  | .sthmAdmit _ => reports ++ commits ++ [.sth]
  | .secVerify _ _ => reports ++ commits ++ [.free, .bank, .pat, .sth, .sec, .sram, .skm, .rld]
  | .secInstall _ _ => reports ++ commits ++ [.free, .bank, .pat, .sth, .sec, .sram, .skm, .rld]
  | .secConfirm _ => reports ++ commits ++ [.free, .bank, .pat, .sth, .sec, .sram, .skm, .rld]
  | .secAdvance _ _ => reports ++ commits ++ [.free, .bank, .pat, .sth, .sec, .sram, .skm, .rld]
  | .secClaim _ _ => reports ++ commits ++ [.free, .bank, .pat, .sth, .sec, .sram, .skm, .rld]
  | .secEquiv _ _ => reports ++ commits ++ [.free, .bank, .pat, .sth, .sec, .sram, .skm, .rld]
  | .secAttest _ _ => reports ++ commits ++ [.free, .bank, .pat, .sth, .sec, .sram, .skm, .rld]
  | .secKeyrev _ => reports ++ commits ++ [.free, .bank, .pat, .sth, .sec, .sram, .skm, .rld]
  | .nloadLib _ _ _ _ => reports ++ commits ++ [.free, .bank, .pat, .sth, .sec, .sram, .skm, .rld]
  | .nloadCust _ _ _ _ => reports ++ commits ++ [.free, .bank, .pat, .sth, .sec, .sram, .skm, .rld]
  | .nloadClear _ _ _ => reports ++ commits ++ [.free, .bank, .pat, .sth, .sec, .sram, .skm, .rld]
  | .nanoBankLoadDone _ => reports ++ [.free, .bank, .pat, .sth, .sec, .sram, .skm, .rld]
  | .secBootgo _ => commits ++ [.sec]
  | .jtagSecchal => [.free, .sec]
  | .jtagSecunlk _ => reports ++ [.sec]
  | .secRandRead _ => [.free, .regs, .fabric]
  | .rngfail => reports ++ [.sec]
  | .castOn _ _ _ => reports ++ [.rck, .sec, .sram]
  | .modeStandby _ => reports ++ commits ++ [.pat]
  | .modeArm _ => reports ++ commits ++ [.pat]
  | .modeRun _ => reports ++ commits ++ [.pat]
  | .modeResume _ => reports ++ commits ++ [.pat]
  | .modeService _ => reports ++ commits ++ [.pat]
  | .modeUpdate _ => reports ++ commits ++ [.pat]
  | .modeBindoff _ _ => reports ++ commits ++ [.pat]
  | .bindoffTimeout => reports ++ [.free]
  | .pwrDomreqCommit _ _ => commits ++ [.pwr]
    | .domainSwitchDone => reports ++ commits ++ [.rck, .ptp, .lane, .lfi, .port, .bank, .dist, .skn, .stl, .eth,
      .ssw, .ft, .sem, .sth, .sec, .skm, .ls, .rld]
  | .domfail => reports
  | .coreWfiSleep _ => [.pwr]
  | .wakeEvent _ _ => raises
  | .pwrIsoclr _ => commits ++ [.pwr]
  | .pwrReset _ _ => allBut [.free]
  | .resetN _ _ => allBut [.free]
  | .pwrgdFall => allBut [.free]
  | .pfwN => reports
  | .pfwCommit => allBut [.free]
  | .pfwMagazineClose => [.pwr, .tly, .mag]
  | .vawnUp => raises ++ commits ++ [.ldg]
  | .vawnDown => allBut [.free]
  | .awningStart _ => allBut [.free]
  | .fclReport _ _ _ _ _ => reports
  | .fclClr _ _ _ => commits
  | .fclSevWrite _ _ => reports ++ commits
  | .thermalRefresh _ _ => reports
  | .ledgerRecordWrite _ => reports ++ [.free]
  | .ledgerScan _ _ _ => reports
  | .ldgUrec _ _ => reports ++ commits
  | .tlySnap _ => commits ++ [.tly]
  | .tallySnapshotHourly => [.tly]
  | .tallyHistogramSample _ _ => [.tly]
  | .tallyLoad => reports
  | .tlyInc _ => commits ++ [.tly]
  | .tlyHinc _ => commits ++ [.tly]
  | .rspIdent _ _ _ => [.ldg, .regs]
  | .rspRead _ _ _ _ _ => [.ldg, .regs]
  | .rspWake _ _ _ => [.pwr, .ldg, .regs]
  | .trainingFailure _ => reports ++ [.pat, .sth, .rld]
  | .stitchLinkUp _ => raises ++ [.sth]
  | .stitchLinkDown _ => reports ++ [.rck, .sth]
  | .flitCrcError _ _ _ _ _ => raises ++ [.tly, .sth]
  | .flitForward _ _ _ => [.tly, .sth, .regs]
  | .joinAnswer _ _ _ _ _ _ _ => reports ++ [.rck, .sth]
  | .placementQueryReceive _ _ _ _ _ _ _ => [.tly, .sth, .regs]
  | .stageKeyRequestReceive _ _ _ _ _ => [.pat, .tly, .sth, .regs]
  | .bayLossNoticeReceive _ _ _ _ _ _ _ => raises ++ [.tly, .sth]
  | .tileCidxReport _ _ _ _ _ => [.tly, .sth, .regs]
  | .imageCheckComplete _ => reports ++ [.free, .bank, .pat, .sth, .sec, .sram, .skm, .rld]
  | .nvmeReadComplete _ _ => [.mag, .magIn]

end Sys2Proof.Machine
end

