-- ==== Sys2Proof/Statements.lean ====
section
/-! DEFINITION. The words in which the statements of Certificates/ are written: a command's completion, the frame of the
registers, and what a write of a requester meets. -/

namespace Sys2Proof.Machine

/-- The command completes, and the state it leaves has the property. -/
def Answers (c : Instr) (s : State) (P : State → Prop) : Prop := ∃ t, exec c s = .next t ∧ P t

/-- The register words that may differ are among those of `ks`, as control-space word numbers. -/
def RegsBut (ks : List Nat) (s t : State) : Prop := ∀ k, k ∉ ks → tabFind t.bus.regs k = tabFind s.bus.regs k

/-- The register words that an interrupt event may change: the strand counts of the eight contexts, the wake counts, and
the request bits of the core domains (R674, R687, R688, R780). -/
def wakeWords : List Nat :=
  regKey .ICT_CNT 0 0 0 :: regKey .PWR_CNT 0 0 0 :: regKey .PWR_DOMREQ 0 6 0 ::
    (List.range 8).map fun c => regKey .ICT_CTX_STRAND 0 c 0

/-- The register words that a report to FCL may change beside those: the latched source, the counts, the count of Ledger
records dropped, and the request bits of an isolated domain (R796, R797, R802, R813). -/
def reportWords : List Nat :=
  regKey .FCL_CNT 0 0 0 :: regKey .LDG_CNT1 0 0 0 :: wakeWords ++
    (List.range 8).map (fun i => regKey .FCL_FLT 0 i 0) ++ (List.range 8).map (fun i => regKey .PWR_DOMREQ 0 i 0)

/-- A write of this requester is not refused on the frame's side: the frame has power, and a guarded register's unlock is
the requester's (R83, R64). -/
def mayWrite (r : Reg) (fr : Nat) (req : Req) (s : State) : Bool :=
  frameUp r fr s && (!(regInfo r).guarded || keyOpen s (blkFrame (regInfo r).blk fr) req.val)

/-- A control-space offset lies in the frame of a block's instance, which operates and has power (R43, R83). -/
def OpenFrame (s : State) (off : Nat) (b : Blk) (fr : Nat) : Prop :=
  baseUp s = true ∧ frameBlk (off / 0x4000) = some (b, fr) ∧ frameDown s b fr = false

/-- The register words that a bus error may change (R81). -/
def berrWords : List Nat := [regKey .SYS_BERR_ALO 0 0 0, regKey .SYS_BERR_AHI 0 0 0, regKey .SYS_BERR_INFO 0 0 0]

/-- A refused access has no effect but its bus error: it is counted, and captured when capture is armed (R79, R81). -/
def RefusedWith (req : Req) (addr : Nat) (write : Bool) (c : Berr) (s t : State) : Prop :=
  fld t F.SYS_BERR_INFO_COUNT = min (fld s F.SYS_BERR_INFO_COUNT + 1) 32767 ∧ RegsBut berrWords s t ∧
  (flag s F.SYS_BERR_INFO_ARM = true → flag t F.SYS_BERR_INFO_ARM = false ∧ fld t F.SYS_BERR_INFO_CAUSE = c.code ∧
    flag t F.SYS_BERR_INFO_WRITE = write ∧ fld t F.SYS_BERR_INFO_REQ = req.val ∧
    rword t .SYS_BERR_ALO 0 0 0 = addr % 2 ^ 32 ∧ rword t .SYS_BERR_AHI 0 0 0 = addr / 2 ^ 32 % 2 ^ 16) ∧
  (flag s F.SYS_BERR_INFO_ARM = false → RegsBut [regKey .SYS_BERR_INFO 0 0 0] s t ∧ flag t F.SYS_BERR_INFO_ARM = false ∧
    fld t F.SYS_BERR_INFO_CAUSE = fld s F.SYS_BERR_INFO_CAUSE ∧ fld t F.SYS_BERR_INFO_REQ = fld s F.SYS_BERR_INFO_REQ)

/-- The state differs in nothing beside the register interface. -/
def OnlyBus (s t : State) : Prop := t = { s with bus := t.bus }

/-- The state differs in nothing beside the register words. -/
def OnlyRegs (s t : State) : Prop := t = { s with bus := { s.bus with regs := t.bus.regs } }

/-! ### Needles -/

/-- A local-store word reads without an error. -/
def LsIs (s : State) (n a : Nat) (v : Native) : Prop :=
  tabGet 0 s.mem.lsFlip (lsKey n a) = 0 ∧ tabGet 0 s.mem.ls (lsKey n a) = v

/-- A skein-memory word reads without an error. -/
def SkIs (s : State) (k w : Nat) (v : Native) : Prop :=
  tabGet 0 s.mem.skmFlip (skmKey k w) = 0 ∧ tabGet 0 s.mem.skm (skmKey k w) = v

/-- The needle executes micro-words, and `w` stands at its micro PC (R213, R243). -/
def MicroAt (s : State) (n w : Nat) : Prop :=
  microReady s n = true ∧ ∃ v, LsIs s n ((ndlOf s n).pc / 4) v ∧ w = bitsOf v.toNat (24 * ((ndlOf s n).pc % 4)) 24

/-- The needle has nothing to take at a sampling point (R215, R218, R228). -/
def Quiet (s : State) (n : Nat) : Prop :=
  (ndlOf s n).fault = none ∧ (ndlOf s n).abort = none ∧ (ndlOf s n).haltAsked = false ∧ firstIrq s n (ndlOf s n).ipend = none

/-- The needle goes on at a micro PC with the state `y`, and no other needle changes: what may differ from `y` beside the
PC is time, the fetch buffer and the bank bound. -/
def Went (s t : State) (n : Nat) (y : Ndl) (pc : Nat) : Prop :=
  let z := ndlOf t n
  z = { y with
    pc := pc % 2 ^ 17, st := if pc % 4 = 3 then .horiz else .run
    cyc := z.cyc, busyCyc := z.busyCyc, fbuf := z.fbuf, bound := z.bound } ∧
  y.cyc < z.cyc ∧ (y.bound.isSome = true → z.bound = y.bound) ∧ ∀ m, m ≠ n → ndlOf t m = ndlOf s m

end Sys2Proof.Machine
end

