-- ==== Sys2Proof/Certificates/Slice0/Obligations.lean ====
section
/-! DEFINITION. The statements for the provers. -/

open Sys2Proof Sys2Proof.Machine

/-- Whatever the state and whatever command c stands at the front of the queue of waiting commands, step is exec of c on that state with the queue's rest. The queue is the model's form of the commands' arrival (log entry 1). -/
def Obligations.StepRunsFrontCommand : Prop :=
  ∀ (c : Instr) (rest : List Instr) (s : State), s.pending = c :: rest →
    step s = exec c { s with pending := rest }

/-- With an empty queue the step answers a next state in which one more fabric cycle has passed and the queue is still empty. That time advances on an empty queue is the model's choice (log entry 1). -/
def Obligations.EmptyQueuePassesOneCycle : Prop :=
  ∀ s : State, s.pending = [] → ∃ t, step s = .next t ∧ t.now = s.now + 1 ∧ t.pending = []

/-- For every command with every value of its operands and every state, exec answers a next state: the block takes no fault and refuses no command by name. A command that the spec refuses (a bus error, a RESULT code) completes with the effect that the spec gives the refusal. -/
def Obligations.EveryCommandCompletes : Prop := ∀ (c : Instr) (s : State), ∃ t, exec c s = .next t

/-- For every command and state: when exec answers a next state, the queue of waiting commands and the count of fabric cycles are those before it. -/
def Obligations.CommandsKeepQueueAndClock : Prop :=
  ∀ (c : Instr) (s t : State), exec c s = .next t → t.pending = s.pending ∧ t.now = s.now

/-- The frame of every command. State has 38 parts (one per kind of block, the register words, the key guards, the fabric's own records, and the four kinds of memory), and footprint lists for each command the parts its effect and its reports, interrupt events and register access may change. For every command, state and next state: every part that footprint does not name is unchanged. -/
def Obligations.CommandsStayInTheirFootprint : Prop :=
  ∀ (c : Instr) (s t : State) (p : Part), exec c s = .next t → p ∉ footprint c → p.same s t

/-- For every state s with Inv s: if a step answers next t, then Inv t. Inv says that every memory table (core SRAM, skein memories, local stores, RLD, their flipped bits, bays, channels, diagnostic words) lists its keys strictly rising and no entry at the value an unlisted key reads as, and that no frame's unlock ends later than 256 cycles from now. The step is any command of the table, or a fabric cycle. -/
def Obligations.StepKeepsInvariant : Prop := ∀ s t : State, Inv s → step s = .next t → Inv t

/-- State.reset meets Inv: every memory table is in its canonical form and no unlock is held. -/
def Obligations.ResetMeetsInvariant : Prop := Inv State.reset

/-- REGISTER_WRITE, 4 bytes at an aligned offset of an operating frame, whose offset names the highest word of a register that is held once and has no rules of its own; a key-guarded register's unlock is the writer's, and the values committed are not reserved. It completes. In the highest word each bit of an RW or KG field takes the data's bit (normal window), or is set, cleared or inverted where the data has 1 and kept where it has 0 (set, clear and toggle alias); in a lower word such a bit takes the requester's staged word, or keeps its value where nothing is staged. Every other bit, every other register word and all of State beside the register interface are unchanged; the requester's staging for the register has ended, and a guarded register's unlock is closed. -/
def Obligations.RegisterWriteStoresThroughItsWindow : Prop :=
  ∀ (req : Req) (off : BitVec 24) (data : DWord) (b : Blk) (fr : Nat) (r : Reg) (i : Nat) (s : State),
    OpenFrame s off.toNat b fr → off.toNat % 4 = 0 → off.toNat % 0x1000 < 0xFF0 →
    ctlWord s b fr (off.toNat % 0x1000) = .reg r i ((regInfo r).words - 1) →
    (regInfo r).perReq = false → regRules selfAccess r req.val fr i s = {} →
    ((regInfo r).guarded = true → keyOpen s (blkFrame b fr) req.val = true) →
    judge r (commitVals s r fr i ⟨req, winOf off.toNat, BitVec.ofNat 32 (data.toNat % 2 ^ 32)⟩) = true →
    Answers (.registerWrite req off 4 data) s fun t =>
      (∀ n, n < 32 → (rword t r fr i ((regInfo r).words - 1)).testBit n =
        let old := (rword s r fr i ((regInfo r).words - 1)).testBit n
        if (rwMask r i ((regInfo r).words - 1)).testBit n then
          match winOf off.toNat with
          | .normal => data.toNat.testBit n
          | .set => old || data.toNat.testBit n
          | .clear => old && !data.toNat.testBit n
          | .toggle => old != data.toNat.testBit n
        else old) ∧
      (∀ w n, w + 1 < (regInfo r).words → n < 32 → (rword t r fr i w).testBit n =
        if (rwMask r i w).testBit n then
          match tabGet none s.bus.staged (stageKey req.val (regKey r fr i w)) with
          | some v => v.toNat.testBit n
          | none => (rword s r fr i w).testBit n
        else (rword s r fr i w).testBit n) ∧
      RegsBut ((List.range (regInfo r).words).map (regKey r fr i)) s t ∧
      (∀ w, w < (regInfo r).words → tabGet none t.bus.staged (stageKey req.val (regKey r fr i w)) = none) ∧
      ((regInfo r).guarded = true → keyLeft t (blkFrame b fr) = 0) ∧ OnlyBus s t

/-- REGISTER_WRITE, 4 bytes at an aligned offset of an operating frame that names a word below the highest of a register that is held once. It completes: the word is staged for its requester only, with each writable bit taken from the data (normal window) or from the set, cleared or toggled current value; no register word changes, no key guard changes, every other staged word stands, and nothing beside the register interface changes. -/
def Obligations.RegisterWriteStagesLowerWords : Prop :=
  ∀ (req : Req) (off : BitVec 24) (data : DWord) (b : Blk) (fr : Nat) (r : Reg) (i w : Nat) (s : State),
    OpenFrame s off.toNat b fr → off.toNat % 4 = 0 → off.toNat % 0x1000 < 0xFF0 →
    ctlWord s b fr (off.toNat % 0x1000) = .reg r i w → w + 1 < (regInfo r).words → (regInfo r).perReq = false →
    Answers (.registerWrite req off 4 data) s fun t =>
      (∃ v, tabGet none t.bus.staged (stageKey req.val (regKey r fr i w)) = some v ∧
        ∀ n, n < 32 → (rwMask r i w).testBit n = true → v.toNat.testBit n =
          let old := (rword s r fr i w).testBit n
          match winOf off.toNat with
          | .normal => data.toNat.testBit n
          | .set => old || data.toNat.testBit n
          | .clear => old && !data.toNat.testBit n
          | .toggle => old != data.toNat.testBit n) ∧
      (∀ k, k ≠ stageKey req.val (regKey r fr i w) → tabGet none t.bus.staged k = tabGet none s.bus.staged k) ∧
      RegsBut [] s t ∧ t.bus.keys = s.bus.keys ∧ OnlyBus s t

/-- REGISTER_WRITE while the base domain operates. The cause is NOFRAME when R43 allocates no frame at the offset; DOMOFF when the frame's domain is off; ALIAS when the frame operates and the offset is an alias of the key guard; SIZE when neither holds and the access is not 4 bytes at a 4-byte or 8 bytes at an 8-byte boundary. In each case the write completes as a bus error and has no other effect: SYS_BERR_INFO.COUNT rises by one and saturates; with ARM set the address, the cause, the write and the requester are captured and ARM is cleared; with ARM clear the captured fields stand. -/
def Obligations.RefusedWriteIsABusErrorOnly : Prop :=
  ∀ (req : Req) (off : BitVec 24) (bytes : Nat) (data : DWord) (s : State) (c : Berr), baseUp s = true →
    (frameBlk (off.toNat / 0x4000) = none ∧ c = .noframe ∨
      (∃ b fr, frameBlk (off.toNat / 0x4000) = some (b, fr) ∧ frameDown s b fr = true ∧ c = .domoff) ∨
      (∃ b fr, OpenFrame s off.toNat b fr ∧ 0x1000 ≤ off.toNat % 0x4000 ∧ 0xFF0 ≤ off.toNat % 0x1000 ∧ c = .winOp) ∨
      (∃ b fr, OpenFrame s off.toNat b fr ∧ (off.toNat % 0x4000 < 0x1000 ∨ off.toNat % 0x1000 < 0xFF0) ∧
        ¬(bytes = 4 ∧ off.toNat % 4 = 0) ∧ ¬(bytes = 8 ∧ off.toNat % 8 = 0) ∧ c = .size)) →
    Answers (.registerWrite req off bytes data) s fun t =>
      RefusedWith req (0x0E0000000000 + off.toNat) true c s t ∧ OnlyRegs s t

/-- KEYLOCK_WRITE to an allocated frame that operates and has power. With MAGIC 0x4C52 and FRAME the frame's index, while no unlock is held or by its owner: the writer owns the unlock and LEFT is 256; KEYREJ, every register word and every other frame's guard are unchanged. Any other KEYLOCK write, a correct key while another requester holds the unlock among them, is refused with bus error BADKEY: the unlock's owner and LEFT are unchanged, KEYREJ counts it with its cause and requester, and nothing beside the register interface changes. -/
def Obligations.KeylockGrantsRenewsOrRefuses : Prop :=
  ∀ (req : Req) (frame : Fin 1024) (data : Word) (b : Blk) (fr : Nat) (s : State),
    OpenFrame s (frame.val * 0x4000) b fr →
    let right := bitsOf data.toNat 16 16 = 0x4C52 ∧ bitsOf data.toNat 0 10 = frame.val ∧
      (keyLeft s frame.val = 0 ∨ (keyOf s frame.val).owner = req.val)
    (right → Answers (.keylockWrite req frame data) s fun t =>
      keyLeft t frame.val = 256 ∧ (keyOf t frame.val).owner = req.val ∧
      (keyOf t frame.val).rejCount = (keyOf s frame.val).rejCount ∧
      (∀ g, g ≠ frame.val → keyOf t g = keyOf s g) ∧ t.bus.regs = s.bus.regs ∧ OnlyBus s t) ∧
    (¬right → Answers (.keylockWrite req frame data) s fun t =>
      RefusedWith req (0x0E0000000000 + (frame.val * 0x4000 + 0xFF0)) true .badkey s t ∧
      keyLeft t frame.val = keyLeft s frame.val ∧ (keyOf t frame.val).owner = (keyOf s frame.val).owner ∧
      (keyOf t frame.val).rejCount = min ((keyOf s frame.val).rejCount + 1) 65535 ∧
      (keyOf t frame.val).rejCause = 6 ∧ (keyOf t frame.val).rejReq = req.val ∧
      (∀ g, g ≠ frame.val → keyOf t g = keyOf s g) ∧ OnlyBus s t)

/-- REGISTER_WRITE, 4 bytes at an aligned offset of an operating frame, naming the highest word of a key-guarded register held once, by a requester that does not own an unlock of the frame. It is refused with bus error GUARD: no register word but those of the bus error changes, the frame's unlock keeps its owner and LEFT, KEYREJ counts the refusal with its cause and requester, and the requester's staging for the register is discarded. -/
def Obligations.GuardedWriteNeedsTheWritersUnlock : Prop :=
  ∀ (req : Req) (off : BitVec 24) (data : DWord) (b : Blk) (fr : Nat) (r : Reg) (i : Nat) (s : State),
    OpenFrame s off.toNat b fr → off.toNat % 4 = 0 → off.toNat % 0x1000 < 0xFF0 →
    ctlWord s b fr (off.toNat % 0x1000) = .reg r i ((regInfo r).words - 1) → (regInfo r).guarded = true →
    keyOpen s (blkFrame b fr) req.val = false →
    Answers (.registerWrite req off 4 data) s fun t =>
      RefusedWith req (0x0E0000000000 + off.toNat) true .guard s t ∧
      keyLeft t (blkFrame b fr) = keyLeft s (blkFrame b fr) ∧
      (keyOf t (blkFrame b fr)).owner = (keyOf s (blkFrame b fr)).owner ∧
      (keyOf t (blkFrame b fr)).rejCount = min ((keyOf s (blkFrame b fr)).rejCount + 1) 65535 ∧
      (keyOf t (blkFrame b fr)).rejCause = 5 ∧ (keyOf t (blkFrame b fr)).rejReq = req.val ∧
      (∀ g, g ≠ blkFrame b fr → keyOf t g = keyOf s g) ∧
      (∀ w, w < (regInfo r).words → tabGet none t.bus.staged (stageKey req.val (regKey r fr i w)) = none) ∧ OnlyBus s t

/-- UNLOCK_EXPIRE of a frame. When an unlock was granted and its 256 cycles have passed, and no remote access waits for it, the frame's guard is closed (no owner, LEFT 0, KEYREJ kept) and nothing else in State changes. While LEFT is at least 1, nothing changes. -/
def Obligations.UnlockClosesWhenLeftReachesZero : Prop :=
  ∀ (frame : Fin 1024) (s : State),
    ((keyOf s frame.val).ends ≠ 0 → keyLeft s frame.val = 0 → s.sth.waiting = [] →
      Answers (.unlockExpire frame) s fun t =>
        keyOf t frame.val = { keyOf s frame.val with ends := 0, owner := 0 } ∧
        (∀ g, g ≠ frame.val → keyOf t g = keyOf s g) ∧ t = { s with bus := { s.bus with keys := t.bus.keys } }) ∧
    (1 ≤ keyLeft s frame.val → Answers (.unlockExpire frame) s fun t => t = s)

/-- CFGPAR of an operating frame that has power. (1) Bits of a register held once flip and no visit is due: the register keeps the flipped value in its RW and KG bits, its parity is broken or mended exactly when an odd number of them flip, and no other register word changes. (2) A visit is due (16 cycles after the last) and the register it reaches agrees with its parity: only the checker's position and time move. (3) The register it reaches is held once, mismatches, has not been reported and was not written in this cycle: SYS_CFGPAR.COUNT rises, the register's offset is captured and ARM cleared if ARM was set, source CFGPAR is latched at FCL, and the mismatch is marked as reported; the register is not corrected. (4) One already reported, or written in this cycle, is not reported. -/
def Obligations.ParityCheckerVisitsAndReports : Prop :=
  ∀ (frame : Fin 1024) (b : Blk) (fr : Nat) (s : State), OpenFrame s (frame.val * 0x4000) b fr →
    (∀ (u : Upset) (r : Reg) (i w : Nat), s.now < parDue s frame.val → locate b fr u.offset = some (r, i, w) →
      (regInfo r).perReq = false → Answers (.cfgpar frame [u]) s fun t =>
        rword t r fr i w = rword s r fr i w ^^^ (u.mask.toNat &&& rwMask r i w) ∧
        tabGet false t.bus.parBad (regKey r fr i 0) =
          (tabGet false s.bus.parBad (regKey r fr i 0) != (popcount 32 (u.mask.toNat &&& rwMask r i w) % 2 == 1)) ∧
        RegsBut [regKey r fr i w] s t ∧ OnlyBus s t) ∧
    (∀ (o : Nat) (r : Reg) (i : Nat), parDue s frame.val ≤ s.now →
      parNext b fr (tabGet 0 s.bus.parPos frame.val) = some (o, r, i) → (regInfo r).perReq = false →
      let k := regKey r fr i 0
      let quiet := tabGet false s.bus.parBad k = false ∨ tabGet false s.bus.parReported k = true ∨ k ∈ s.bus.wroteNow
      (quiet → Answers (.cfgpar frame []) s fun t =>
        tabGet 0 t.bus.parPos frame.val = o + 4 ∧ tabGet 0 t.bus.parAt frame.val = parDue s frame.val + 16 ∧
        t = { s with bus := { s.bus with parPos := t.bus.parPos, parAt := t.bus.parAt } }) ∧
      (¬quiet → Answers (.cfgpar frame []) s fun t =>
        fld t F.SYS_CFGPAR_COUNT = min (fld s F.SYS_CFGPAR_COUNT + 1) 65535 ∧ fclLatched t 0 = true ∧
        (flag s F.SYS_CFGPAR_ARM = true → flag t F.SYS_CFGPAR_ARM = false ∧
          fld t F.SYS_CFGPAR_ADDR_OFFSET = (frame.val * 0x4000 + o) % 2 ^ 24) ∧
        (flag s F.SYS_CFGPAR_ARM = false → fld t F.SYS_CFGPAR_ADDR_OFFSET = fld s F.SYS_CFGPAR_ADDR_OFFSET) ∧
        tabGet false t.bus.parReported k = true ∧ tabGet false t.bus.parBad k = true ∧
        tabGet 0 t.bus.parPos frame.val = o + 4 ∧ tabGet 0 t.bus.parAt frame.val = parDue s frame.val + 16 ∧
        RegsBut (regKey .SYS_CFGPAR 0 0 0 :: regKey .SYS_CFGPAR_ADDR 0 0 0 :: reportWords) s t))

/-- PTP_SYNC_RECEIVE, PTP_ANNOUNCE_RECEIVE and PTP_DELAY_RESP_RECEIVE of a domain. A message is valid when the domain is enabled and its number, port and transport are the domain's, the port is usable and the interval lies in the range the domain takes. A valid Sync counts, its offset is the master's time plus the mean path delay less the device's time, and the two times are kept. A valid Announce stores the grandmaster and its stepsRemoved. A valid Delay_Resp, after a Sync and a sent Delay_Req, gives the end-to-end mean path delay of IEEE 1588. The other domain keeps its measurements. A message that is not valid changes nothing. -/
def Obligations.PtpMessagesUpdateTheirDomain : Prop :=
  ∀ (dom : Fin 2) (m : PtpMsg) (gm : DWord) (steps : BitVec 8) (tlv : Option (Int × Nat)) (s : State),
    (ptpValid s dom.val m = true →
      (Answers (.ptpSyncReceive dom m) s fun t =>
        (ptpOf t dom.val).ofs = m.time + (ptpOf s dom.val).mpd - rtNs s ∧
        (ptpOf t dom.val).lastSync = some (m.time, rtNs s) ∧ (ptpOf t dom.val).mpd = (ptpOf s dom.val).mpd ∧
        ∀ e, e ≠ dom.val → ptpOf t e = ptpOf s e) ∧
      (Answers (.ptpAnnounceReceive dom m gm steps tlv) s fun t =>
        (ptpOf t dom.val).gm = gm.toNat ∧ (ptpOf t dom.val).steps = steps.toNat ∧ (ptpOf t dom.val).announced = true ∧
        rword t .PTP_GM dom.val 0 0 = gm.toNat % 2 ^ 32 ∧ rword t .PTP_GM dom.val 0 1 = gm.toNat / 2 ^ 32 ∧
        (∀ e, e ≠ dom.val → ptpOf t e = ptpOf s e) ∧ t.rck = s.rck ∧
        RegsBut [regKey .PTP_GM dom.val 0 0, regKey .PTP_GM dom.val 0 1] s t) ∧
      (∀ t1 t2 t3, (ptpOf s dom.val).lastSync = some (t1, t2) → (ptpOf s dom.val).reqSent = some t3 →
        Answers (.ptpDelayRespReceive dom m) s fun t =>
          (ptpOf t dom.val).mpd = ((t2 - t1) + (m.time - t3)) / 2 ∧ (ptpOf t dom.val).reqSent = none ∧
          (∀ e, e ≠ dom.val → ptpOf t e = ptpOf s e) ∧ t = { s with ptp := t.ptp })) ∧
    (ptpValid s dom.val m = false →
      (Answers (.ptpSyncReceive dom m) s fun t => t = s) ∧
      (Answers (.ptpAnnounceReceive dom m gm steps tlv) s fun t => t = s) ∧
      (Answers (.ptpDelayRespReceive dom m) s fun t => t = s))

/-- DOMAIN_UNAVAILABLE of an available domain. It completes: the domain is unavailable and lost, its loss is counted, and the other domain keeps its state. When the clock uses the domain and another source is available (the other domain or PREF first, then Stitch), the servo keeps its state and selects that source, without a step of realised time. When none is and the clock has been stepped, the servo enters HOLD from now on, and PWR goes from ARMED or RUN to HOLDOVER with CAUSE 3, or marks DEGRADED as held (stated while the Ledger's queue has room for the change's record). A domain that was not available only loses its qualification count. -/
def Obligations.DomainLossSwitchesOrHoldsTheClock : Prop :=
  ∀ (dom : Fin 2) (s : State),
    ((ptpOf s dom.val).avail = true → Answers (.domainUnavailable dom) s fun t =>
      (ptpOf t dom.val).avail = false ∧ (ptpOf t dom.val).lost = true ∧ (∀ e, e ≠ dom.val → ptpOf t e = ptpOf s e) ∧
      t.rck.rt = s.rck.rt ∧
      (s.rck.sel = dom.val → s.rck.servo ≠ .free → s.rck.servo ≠ .hold →
        (∀ n, (srcAvail s (1 - dom.val) = true ∧ n = 1 - dom.val ∨
            srcAvail s (1 - dom.val) = false ∧ srcAvail s 2 = true ∧ n = 2) →
          t.rck.sel = n ∧ t.rck.servo = s.rck.servo) ∧
        (srcAvail s (1 - dom.val) = false → srcAvail s 2 = false → s.rck.stepped = true →
          t.rck.servo = .hold ∧ t.rck.holdAt = s.now ∧
          (s.ldg.queue.length < 32 → s.pwr.mode = .armed ∨ s.pwr.mode = .run → t.pwr.mode = .holdover ∧ t.pwr.prev = s.pwr.mode ∧ t.pwr.cause = 3) ∧
          (s.pwr.mode = .degraded → t.pwr.mode = .degraded ∧ t.pwr.held = true)))) ∧
    ((ptpOf s dom.val).avail = false → Answers (.domainUnavailable dom) s fun t =>
      (ptpOf t dom.val).qualCount = 0 ∧ (ptpOf t dom.val).avail = false ∧ (∀ e, e ≠ dom.val → ptpOf t e = ptpOf s e) ∧
      t = { s with ptp := t.ptp })

/-- PTP_SYNC_RECEIVE of the selected, available domain. In ACQUIRE, when the offset measured and the seven before it agree within 1 us, realised time steps by that offset, the servo enters SLEW and the kept offsets are cleared; when they do not, realised time and the servo's state stay and the offset is kept. In LOCKED or SLEW realised time does not step, whatever the offset; an offset beyond 1 us that follows one within it counts in RCK_EVCNT.LARGE once, and one that follows another beyond it does not. The filtered offset and the correction within its bounds are free values of the manual (log entry 2). -/
def Obligations.ServoStepsOnceAndThenSteersByRate : Prop :=
  ∀ (dom : Fin 2) (m : PtpMsg) (s : State), ptpValid s dom.val m = true → s.rck.sel = dom.val →
    (ptpOf s dom.val).avail = true →
    let ofs := m.time + (ptpOf s dom.val).mpd - rtNs s
    (s.rck.servo = .acquire → s.rck.agree.length = 7 →
      (agree8 (s.rck.agree ++ [ofs]) = true → Answers (.ptpSyncReceive dom m) s fun t =>
        t.rck.rt = ((s.rck.rt : Int) + ofs * 2 ^ 40).toNat ∧ t.rck.servo = .slew ∧ t.rck.stepped = true ∧ t.rck.agree = []) ∧
      (agree8 (s.rck.agree ++ [ofs]) = false → Answers (.ptpSyncReceive dom m) s fun t =>
        t.rck.rt = s.rck.rt ∧ t.rck.servo = .acquire ∧ t.rck.agree = s.rck.agree ++ [ofs])) ∧
    (s.rck.servo = .locked ∨ s.rck.servo = .slew → Answers (.ptpSyncReceive dom m) s fun t =>
      t.rck.rt = s.rck.rt ∧ (t.rck.servo = .locked ∨ t.rck.servo = .slew) ∧
      t.rck.large = (decide (ofs > 1000) || decide (ofs < -1000)) ∧
      fld t F.RCK_EVCNT_LARGE =
        if (ofs > 1000 ∨ ofs < -1000) ∧ s.rck.large = false then min (fld s F.RCK_EVCNT_LARGE + 1) 255
        else fld s F.RCK_EVCNT_LARGE)

/-- Commands of the raster clock, each when its write is not refused. RCK_CTRL_COMMIT stores SRC and PREF; once the clock has left FREE and the source named is available the servo selects it by rate, keeping realised time. REF10_VALID (while the clock has power) and REF10_LOSS set and clear the frequency base and change nothing else. PPS_EDGE, once time is realised, stores the edge's offset from the nearest second and changes no other register, nor realised time. STEP in STANDBY gives RESULT 0 and returns the servo to ACQUIRE when a source is available (else FREE); in any other mode it gives RESULT 1 and the clock is unchanged. DISARM gives RESULT 0. RCK_FMT_COMMIT stores the format, derives the position anew, disarms every slot and spares none. PTP_CFG_COMMIT that disables an available domain makes it unavailable. -/
def Obligations.ClockCommandsSelectStepAndFormat : Prop :=
  ∀ (req : Req) (a : Acc) (dom : Fin 2) (s : State),
    (accepts .RCK_CTRL 0 0 a neverBusy (rckCtrlOk s) s = true →
      let v := commitVals s .RCK_CTRL 0 0 a
      Answers (.rckCtrlCommit a) s fun t =>
        fld t F.RCK_CTRL_SRC = valOf v F.RCK_CTRL_SRC ∧ fld t F.RCK_CTRL_PREF = valOf v F.RCK_CTRL_PREF ∧
        t.rck.rt = s.rck.rt ∧ t.rck.servo = s.rck.servo ∧
        (s.rck.servo ≠ .free → valOf v F.RCK_CTRL_SRC < 2 → (ptpOf s (valOf v F.RCK_CTRL_SRC)).avail = true →
          t.rck.sel = valOf v F.RCK_CTRL_SRC)) ∧
    (domUp s 212 = true → Answers .ref10Valid s fun t => t = { s with rck := { s.rck with ref10 := true } }) ∧
    (Answers .ref10Loss s fun t => t = { s with rck := { s.rck with ref10 := false } }) ∧
    (domUp s 212 = true → timeRealised s = true → Answers .ppsEdge s fun t =>
      fld t F.RCK_PPSOFS_OFS = signed32 (nearestSecond ((rtNs s + (ptpOf s s.rck.sel).ofs) % 1000000000).toNat) ∧
      OnlyRegs s t ∧ RegsBut [regKey .RCK_PPSOFS 0 0 0] s t) ∧
    (mayWrite .RCK_CMD 0 req s = true → s.pwr.mode = .standby → Answers (.rckStep req) s fun t =>
      fld t F.RCK_CMDSTAT_RESULT = 0 ∧ t.rck.stepped = false ∧ t.rck.rt = s.rck.rt ∧
      ((∃ n, n < 2 ∧ (ptpOf s n).avail = true) → t.rck.servo = .acquire)) ∧
    (mayWrite .RCK_CMD 0 req s = true → s.pwr.mode ≠ .standby → Answers (.rckStep req) s fun t =>
      fld t F.RCK_CMDSTAT_RESULT = 1 ∧ t.rck = s.rck) ∧
    (mayWrite .RCK_CMD 0 req s = true → Answers (.rckDisarm req) s fun t =>
      fld t F.RCK_CMDSTAT_RESULT = 0 ∧ ∀ i, i ∈ s.rck.slots.map Prod.fst → (slotOf t i).arm = false) ∧
    (accepts .RCK_FMT 0 0 a (fun _ => fmtBusy s) fmtOkVals s = true → Answers (.rckFmtCommit a) s fun t =>
      fld t F.RCK_FMT_NUM = valOf (commitVals s .RCK_FMT 0 0 a) F.RCK_FMT_NUM ∧
      fld t F.RCK_FMT_DEN1001 = valOf (commitVals s .RCK_FMT 0 0 a) F.RCK_FMT_DEN1001 ∧
      fld t F.RCK_FMT_LINES = valOf (commitVals s .RCK_FMT 0 0 a) F.RCK_FMT_LINES ∧
      fld t F.RCK_FMT_OFS = valOf (commitVals s .RCK_FMT 0 0 a) F.RCK_FMT_OFS ∧
      t.rck.fmtOk = true ∧ t.rck.fmtChg = true ∧ t.rck.spared = [] ∧ t.rck.rt = s.rck.rt ∧
      (∀ e, e ∈ t.rck.slots → e.2.arm = false) ∧ RegsBut ((List.range 3).map (regKey .RCK_FMT 0 0)) s t) ∧
    (accepts .PTP_CFG dom.val 0 a neverBusy anyOk s = true →
      (valOf (commitVals s .PTP_CFG dom.val 0 a) F.PTP_CFG_EN = 0 → flag s F.PTP_CFG_EN dom.val = true →
        (ptpOf s dom.val).avail = true → Answers (.ptpCfgCommit dom a) s fun t =>
          (ptpOf t dom.val).avail = false ∧ (ptpOf t dom.val).announced = false ∧ ∀ e, e ≠ dom.val → ptpOf t e = ptpOf s e) ∧
      (valOf (commitVals s .PTP_CFG dom.val 0 a) F.PTP_CFG_EN = 1 → Answers (.ptpCfgCommit dom a) s fun t =>
        flag t F.PTP_CFG_EN dom.val = true ∧
        fld t F.PTP_CFG_PORT dom.val = valOf (commitVals s .PTP_CFG dom.val 0 a) F.PTP_CFG_PORT ∧
        fld t F.PTP_CFG_DOMAIN dom.val = valOf (commitVals s .PTP_CFG dom.val 0 a) F.PTP_CFG_DOMAIN ∧
        fld t F.PTP_CFG_TRANSPORT dom.val = valOf (commitVals s .PTP_CFG dom.val 0 a) F.PTP_CFG_TRANSPORT ∧
        t.rck = s.rck))

/-- RCK_SLOT committed with ARM = 1 (when not refused): the slot named has the contents written and is armed with FIRED and MISSED clear, unless it is a ONCE slot that has already passed while raster time is valid, which is disarmed, marked MISSED and counted; every other slot stays. With ARM = 0 the slot is disarmed and keeps FIRED and MISSED; a firing due within 2 us is spared with its old contents. A due slot that may fire, with no spared firing, is marked FIRED, disarmed when ONCE, and performs its action: a PHASE level is set; a LANEWORD reaches its powered lane's hand; PSTART takes ARMED to RUN. Outside the modes that fire, or committed too late, it is marked MISSED and counted instead. -/
def Obligations.SlotsArmDisarmAndFire : Prop :=
  ∀ (a : Acc) (slot : Fin 512) (s : State),
    (let b : Acc := { a with win := .normal, data := a.data ||| 0x80000000 }
     accepts .RCK_SLOT 0 0 b (slotBusy s) (slotOk s) s = true → valOf (commitVals s .RCK_SLOT 0 0 b) F.RCK_SLOT_ARM = 1 →
      let v := commitVals s .RCK_SLOT 0 0 b
      Answers (.slotArm a) s fun t =>
        let x := slotOf t (valOf v F.RCK_SLOT_INDEX)
        x.line = valOf v F.RCK_SLOT_LINE ∧ x.tick = valOf v F.RCK_SLOT_TICK ∧ x.frame = valOf v F.RCK_SLOT_FRAME ∧
        x.n = valOf v F.RCK_SLOT_N ∧ x.mode = valOf v F.RCK_SLOT_MODE ∧ x.action = valOf v F.RCK_SLOT_ACTION ∧
        x.target = valOf v F.RCK_SLOT_TARGET ∧ x.fired = false ∧ t.rck.fmtChg = false ∧
        (if rasterValid s = true ∧ x.mode = 0 ∧ onceTotal s x ≤ totalNow s then
          x.arm = false ∧ x.missed = true ∧ fld t F.RCK_EVCNT_MISSED = min (fld s F.RCK_EVCNT_MISSED + 1) 4095
         else x.arm = true ∧ x.missed = false) ∧
        ∀ j, j ≠ valOf v F.RCK_SLOT_INDEX → slotOf t j = slotOf s j) ∧
    (let b : Acc := { a with win := .normal, data := a.data &&& 0x7FFFFFFF }
     accepts .RCK_SLOT 0 0 b (slotBusy s) (slotOk s) s = true → valOf (commitVals s .RCK_SLOT 0 0 b) F.RCK_SLOT_ARM = 0 →
      let n := valOf (commitVals s .RCK_SLOT 0 0 b) F.RCK_SLOT_INDEX
      Answers (.slotDisarm a) s fun t =>
        (slotOf t n).arm = false ∧ (slotOf t n).fired = (slotOf s n).fired ∧ (slotOf t n).missed = (slotOf s n).missed ∧
        (∀ j, j ≠ n → slotOf t j = slotOf s j) ∧ t.rck.fmtChg = s.rck.fmtChg) ∧
    (let x := slotOf s slot.val
     let p := slotTotal s x
     domUp s 212 = true → rasterValid s = true → tabFind s.rck.spared slot.val = none → x.arm = true →
      (x.seen : Int) < p → 0 ≤ p → reached s p (slotAdv s x) = true →
      (leadOk s p x.commitRt (slotAdv s x) = true → canFire s.pwr.mode = true →
        (x.action = 2 → bitsOf x.pay 0 2 = 1 → Answers (.slotFire slot) s fun t =>
          (slotOf t slot.val).fired = true ∧ (slotOf t slot.val).arm = decide (x.mode ≠ 0) ∧ phaseLevel t x.target = true ∧
          ∀ n, n ≠ x.target → phaseOf t n = phaseOf s n) ∧
        (x.action = 1 → domUp s (160 + x.target / 4) = true → Answers (.slotFire slot) s fun t =>
          (slotOf t slot.val).fired = true ∧
          (∃ late, (laneOf t (txLane s x.target)).sched = (laneOf s (txLane s x.target)).sched ++ [(x.pay, late)]) ∧
          t.bus = s.bus) ∧
        (x.action = 5 → s.rck.acted.contains (p.toNat, 5, x.target) = false → s.pwr.mode = .armed →
          (patOf s x.target).st = .empty → s.ldg.queue.length < 32 →
          Answers (.slotFire slot) s fun t => t.pwr.mode = .run ∧ t.pwr.prev = .armed)) ∧
      (leadOk s p x.commitRt (slotAdv s x) = false ∨ canFire s.pwr.mode = false → Answers (.slotFire slot) s fun t =>
        (slotOf t slot.val).missed = true ∧ (slotOf t slot.val).fired = x.fired ∧
        ((slotOf t slot.val).arm = decide (x.mode ≠ 0)) ∧
        fld t F.RCK_EVCNT_MISSED = min (fld s F.RCK_EVCNT_MISSED + 1) 4095 ∧
        ∀ j, j ≠ slot.val → slotOf t j = slotOf s j))

/-- PHASE_PULSE_END returns the pin to the level it had once the width has passed, and no pulse remains. An edge that RCK_TINCFG selects joins a queue of fewer than eight with the raster position, realised time and its sense (raising TIN when it is the first); on a full queue it is dropped and counted in its OVF, other OVF counts staying; an edge not selected changes nothing. A read of RCK_TIN answers the oldest entry's first word and takes it out, or answers 0. OSC_RECORD in LOCKED queues a type-6 record of 9 bytes that begins with the applied rate (its slope is a free value, log entry 2), while the queue has room and the base operates. PTP_DELAY_REQ_SEND of an enabled domain over a usable port with room in queue 63 puts one frame there and marks its time as sent. -/
def Obligations.TimingInputsPulsesAndRecordsComplete : Prop :=
  ∀ (pin : Fin 16) (tin : Fin 4) (fall : Bool) (req : Req) (dom : Fin 2) (s : State),
    (∀ t back, (phaseOf s pin.val).pulse = some (t, back) → reached s t (fld s F.RCK_PHCFG_ADV 0 pin.val) = true →
      Answers (.phasePulseEnd pin) s fun u => phaseLevel u pin.val = back ∧ (phaseOf u pin.val).pulse = none ∧
        ∀ n, n ≠ pin.val → phaseOf u n = phaseOf s n) ∧
    (domUp s 212 = true → bitAt (bitsOf (fld s F.RCK_TINCFG_EDGE) (2 * tin.val) 2) (if fall then 1 else 0) = true →
      ((tinOf s tin.val).length < 8 → Answers (.tinEdge tin fall) s fun u =>
        tinOf u tin.val = tinOf s tin.val ++
          [⟨(posNow s).1, (posNow s).2.1, (posNow s).2.2, secNow s, nsNow s, fall⟩] ∧
        (∀ n, n ≠ tin.val → tinOf u n = tinOf s n) ∧ (tinOf s tin.val ≠ [] → u.ict = s.ict)) ∧
      (8 ≤ (tinOf s tin.val).length → Answers (.tinEdge tin fall) s fun u =>
        bitsOf (fld u F.RCK_TINCFG_OVF) (4 * tin.val) 4 = min (bitsOf (fld s F.RCK_TINCFG_OVF) (4 * tin.val) 4 + 1) 15 ∧
        (∀ n : Fin 4, n ≠ tin → bitsOf (fld u F.RCK_TINCFG_OVF) (4 * n.val) 4 = bitsOf (fld s F.RCK_TINCFG_OVF) (4 * n.val) 4) ∧
        OnlyRegs s u ∧ RegsBut [regKey .RCK_TINCFG 0 0 0] s u)) ∧
    (bitAt (bitsOf (fld s F.RCK_TINCFG_EDGE) (2 * tin.val) 2) (if fall then 1 else 0) = false →
      Answers (.tinEdge tin fall) s fun u => u = s) ∧
    (baseUp s = true → domUp s 212 = true → Answers (.tinQueueRead req tin) s fun u =>
      tinOf u tin.val = (tinOf s tin.val).drop 1 ∧ (∀ n, n ≠ tin.val → tinOf u n = tinOf s n) ∧
      tabGet 0 u.bus.answers req.val = (match tinOf s tin.val with | [] => 0 | e :: _ => 2 ^ 31 + e.line * 2 ^ 12 + e.tick)) ∧
    (s.rck.servo = .locked → baseUp s = true → s.ldg.queue.length < 32 → Answers .oscRecord s fun u =>
      ∃ r, u.ldg.queue = s.ldg.queue ++ [r] ∧ r.type = 6 ∧ r.payload.length = 9 ∧
        r.payload.take 4 = leBytes 4 (signed32 (appliedRate s.rck))) ∧
    (let p := fld s F.PTP_CFG_PORT dom.val
     domUp s 212 = true → flag s F.PTP_CFG_EN dom.val = true → portUsable s p = true →
      bufBytes (egQ s p 63).frames + 110 ≤ fld s F.EG_QCFG_QLIM p 63 * 4096 → portBytes s p + 110 ≤ egBuffer s p →
      Answers (.ptpDelayReqSend dom) s fun u => (ptpOf u dom.val).reqSent = some (rtNs s) ∧
        ∃ f, (egQ u p 63).frames = (egQ s p 63).frames ++ [f])

/-- SIGNAL_DETECT takes a lane from WAIT to LOCK and restarts its training time; BLOCK_LOCK_GAIN takes it to IDENT with its TRAIN counts cleared. A valid TRAIN block in IDENT raises the count of valid blocks up to 16; with READY set after 16 it raises the second count, whose 16th block takes the lane to UP and latches CAMID and FMTS; an invalid block clears both counts and the 16th in a row sets BONDERR and latches BONDERR in FCL. A loss of block lock counts its block errors and in IDENT returns to LOCK or WAIT without restarting the time; in UP it, like a TRAIN block, latches LANEDOWN and returns to LOCK with AUTO and signal, to WAIT with AUTO alone, else to FAIL. An ALIGN block counts the block errors and a gap of SEQ. TRAINING_TIMEOUT after TMO ms gives FAIL and counts RETRAIN; FAIL_RETRY 1 ms later gives WAIT. A commit of LANE_CTRL on a base lane turns an OFF lane to WAIT (EN = 1) or any lane to OFF (EN = 0). -/
def Obligations.LanesTrainStepByStep : Prop :=
  ∀ (lane : Fin 64) (signal : Bool) (seq bad : BitVec 16) (body : BitVec 56) (a : Acc) (s : State),
    let n := lane.val
    let x := laneOf s n
    let left (t : State) : Prop := fclLatched t 2 = true ∧ (laneOf t n).st =
      (if flag s F.LANE_CTRL_AUTO n = false then .fail else if signal then .lock else .wait)
    (x.st = .wait → Answers (.signalDetect lane) s fun t =>
      laneOf t n = { x with st := .lock, signal := true, trainAt := s.now, valid := 0, invalid := 0, readyCount := 0, seq := none } ∧
      ∀ m, m ≠ n → laneOf t m = laneOf s m) ∧
    (x.st = .lock → Answers (.blockLockGain lane) s fun t =>
      laneOf t n = { x with st := .ident, block := true, valid := 0, invalid := 0, readyCount := 0, seq := none } ∧
      ∀ m, m ≠ n → laneOf t m = laneOf s m) ∧
    (x.block = true → x.st = .ident → Answers (.blockLockLoss lane signal bad) s fun t =>
      (laneOf t n).st = (if signal then .lock else .wait) ∧ (laneOf t n).trainAt = x.trainAt ∧ (laneOf t n).block = false ∧
      fld t F.LANE_CNT2_BLKERR n = min (fld s F.LANE_CNT2_BLKERR n + bad.toNat) 65535) ∧
    (x.block = true → x.st = .up → baseUp s = true → Answers (.blockLockLoss lane signal bad) s left) ∧
    (x.st = .up → baseUp s = true → x.signal = signal → Answers (.trainReceive lane body) s left) ∧
    (x.block = true → Answers (.alignReceive lane seq bad) s fun t =>
      laneOf t n = { x with seq := some seq.toNat } ∧ fld t F.LANE_CNT2_BLKERR n = min (fld s F.LANE_CNT2_BLKERR n +
        (bad.toNat + b2n (match x.seq with | some q => (q + 1) % 65536 != seq.toNat | none => false))) 65535) ∧
    (x.st = .ident → trainValid s n body.toNat = true →
      (¬(16 ≤ x.valid ∧ bitAt body.toNat 45 = true) → Answers (.trainReceive lane body) s fun t =>
        (laneOf t n).st = .ident ∧ (laneOf t n).valid = min (x.valid + 1) 16 ∧ (laneOf t n).readyCount = 0) ∧
      (16 ≤ x.valid → bitAt body.toNat 45 = true → x.readyCount = 15 → Answers (.trainReceive lane body) s fun t =>
        (laneOf t n).st = .up ∧ (laneOf t n).isOpen = false ∧ fld t F.LANE_CAM_CAMID n = bitsOf body.toNat 16 16 ∧
        fld t F.LANE_CAM_FMTS n = bitsOf body.toNat 32 8)) ∧
    (x.st = .ident → trainValid s n body.toNat = false → x.invalid = 15 → baseUp s = true →
      Answers (.trainReceive lane body) s fun t => (laneOf t n).st = .ident ∧ (laneOf t n).valid = 0 ∧
        (laneOf t n).readyCount = 0 ∧ (laneOf t n).bondErr = true ∧ fclLatched t 1 = true) ∧
    (x.st = .lock ∨ x.st = .ident → fld s F.LANE_CTRL_TMO n * 1000000 ≤ s.now - x.trainAt →
      Answers (.trainingTimeout lane) s fun t => (laneOf t n).st = .fail ∧ (laneOf t n).failAt = s.now ∧
        fld t F.LANE_CNT2_RETRAIN n = min (fld s F.LANE_CNT2_RETRAIN n + 1) 255) ∧
    (x.st = .fail → x.why = .timeout → 1000000 ≤ s.now - x.failAt → Answers (.failRetry lane) s fun t =>
      (laneOf t n).st = .wait ∧ (laneOf t n).signal = false) ∧
    (accepts .LANE_CTRL n 0 a (laneCtrlBusy n s) anyOk s = true →
      n % 2 ^ valOf (commitVals s .LANE_CTRL n 0 a) F.LANE_CTRL_BWC = 0 →
      (valOf (commitVals s .LANE_CTRL n 0 a) F.LANE_CTRL_EN = 0 → Answers (.laneCtrlCommit lane a) s fun t =>
        (laneOf t n).st = .off ∧ (laneOf t n).txq = x.txq) ∧
      (valOf (commitVals s .LANE_CTRL n 0 a) F.LANE_CTRL_EN = 1 → x.st = .off → Answers (.laneCtrlCommit lane a) s fun t =>
        (laneOf t n).st = .wait ∧ fld t F.LANE_CTRL_BWC n = valOf (commitVals s .LANE_CTRL n 0 a) F.LANE_CTRL_BWC))

/-- A line packet of the open frame whose checks pass, on a lane in UP while lanes store (R861), with its LINE the expected one and room in the FIFO: the record joins the bank with LINE, FRAME, CRCERR (the EOP's CRC fails), LENERR (the payload length is wrong) and its words, the next expected line advances by the bond width, and other lanes' FIFOs and frames stay. A packet closed without EOP is stored with LENERR and never CRCERR. A failing header check counts HDRERR and changes nothing else; a line before the expected one counts LATE and changes nothing else; in FROZEN a packet changes nothing. Telemetry that passes joins the open record of the bond's Swatch (while it holds fewer than four) and enters no FIFO. LINE_DEADLINE at the due position advances the expected line by the bond width. -/
def Obligations.LinePacketsAreStoredCheckedOrDiscarded : Prop :=
  ∀ (lane : Fin 64) (sop eop : BitVec 56) (payload : List Byte) (s : State),
    let n := lane.val
    let x := laneOf s n
    let h := sop.toNat
    let line := bitsOf h 22 14
    let bytes (pad : Nat) : List Nat := (blockBytes payload).take ((blockBytes payload).length - pad)
    let passes : Prop := x.st = .up ∧ lanesStore s = true ∧ hcrcOk h = true ∧ bitsOf h 20 2 = fld s F.LANE_CTRL_FMT n
    let stored (b crcerr lenerr : Bool) (t : State) : Prop :=
      (laneOf t n).exp = line + (bondOf s n).2 ∧ (∀ m, m ≠ n → laneOf t m = laneOf s m ∧ lfiOf t m = lfiOf s m) ∧
      ∃ r, bankRecs (lfiOf t n) b = (if b = (lfiOf s n).wbank then bankRecs (lfiOf s n) b else []) ++ [r] ∧
        r.line = line ∧ r.frame = x.fr ∧ r.crcerr = crcerr ∧ r.lenerr = lenerr ∧ r.missing = false ∧
        r.ovf = (lfiOf s n).ovf ∧ r.data.length = lineWords s n
    let inOrder : Prop := bitsOf h 52 4 = 1 ∧ x.isOpen = true ∧ bitsOf h 36 16 = x.fr ∧ x.exp = line ∧
      line % (bondOf s n).2 = n - (bondOf s n).1 ∧ line < fld s F.LANE_LCFG_ALINES n
    (∀ b, passes → inOrder → lfiRoom s n x.fr (lineWords s n) = some b →
      (Answers (.linePacketReceive lane sop payload eop) s
        (stored b (crc32 (headerBytes h ++ bytes (bitsOf eop.toNat 32 3)) != bitsOf eop.toNat 0 32)
          (decide ((bytes (bitsOf eop.toNat 32 3)).length ≠ lineBytes s n)))) ∧
      Answers (.packetAbortClose lane sop payload) s (stored b false true)) ∧
    (x.st = .up → lanesStore s = true → hcrcOk h = false → Answers (.linePacketReceive lane sop payload eop) s fun t =>
      fld t F.LANE_CNT0_HDRERR n = min (fld s F.LANE_CNT0_HDRERR n + 1) 65535 ∧ OnlyRegs s t ∧
      RegsBut [regKey .LANE_CNT0 n 0 0] s t) ∧
    (passes → bitsOf h 52 4 = 1 → x.isOpen = true → bitsOf h 36 16 = x.fr → line < x.exp →
      line % (bondOf s n).2 = n - (bondOf s n).1 → line < fld s F.LANE_LCFG_ALINES n →
      Answers (.linePacketReceive lane sop payload eop) s fun t =>
        fld t F.LANE_CNT1_LATE n = min (fld s F.LANE_CNT1_LATE n + 1) 65535 ∧ OnlyRegs s t ∧
        RegsBut [regKey .LANE_CNT1 n 0 0] s t) ∧
    (s.pwr.mode = .frozen → Answers (.linePacketReceive lane sop payload eop) s fun t => t = s) ∧
    (let b := lfiBase s n
     let data := bytes (bitsOf eop.toNat 32 3)
     passes → bitsOf h 52 4 = 2 → crc32 (headerBytes h ++ data) = bitsOf eop.toNat 0 32 → data.length ≤ 256 →
      flag s F.SWT_CFG_EN 0 b = true → (swtOf s b).isOpen = true → (swtOf s b).frame = bitsOf h 36 16 →
      (swtOf s b).telem.length < 4 → Answers (.telemetryReceive lane sop payload eop) s fun t =>
        (swtOf t b).telem = (swtOf s b).telem ++ [data] ∧ t = { s with swt := t.swt }) ∧
    (∀ p, x.due = some p → lanesStore s = true → rasterValid s = true → x.isOpen = true →
      x.exp < fld s F.LANE_LCFG_ALINES n → p + (fld s F.LANE_LCFG_DLY n + x.exp) * 4096 ≤ totalNow s →
      Answers (.lineDeadline lane) s fun t => laneOf t n = { x with exp := x.exp + (bondOf s n).2 } ∧
        ∀ m, m ≠ n → laneOf t m = laneOf s m)

/-- LANEWORD_LAUNCH takes the oldest word handed over when no block is being sent: on an UP lane a word that is no TRIGGER is sent, its time address filled for TIMECODE while raster time is valid, and it holds the lane for one block (5.28 ns); a TRIGGER is sent with the present frame number while raster time is valid; on a lane that is not UP it is discarded and TXDROP counts; a word that met another counts in SLIP. LANE_TXW, not refused, queues its 64 bits; TXW_SEND sends the oldest on the bond's base lane only when no scheduled word is due or waiting, no block is being sent and the mode is not FROZEN, and discards it with TXDROP when that lane is not UP; in FROZEN it changes nothing. SWT_BUF, not refused, queues the handle and keeps the record. -/
def Obligations.ControlWordsQueueAndLaunch : Prop :=
  ∀ (lane swt : Fin 64) (w : Nat) (late : Bool) (l : List Nat) (q : List (Nat × Bool)) (a : Acc) (s : State),
    let n := lane.val
    let x := laneOf s n
    let b := txLane s n
    (x.sched = (w, late) :: q → laneBusy s n = false →
      (x.st = .up → bitsOf w 56 8 ≠ 0xC1 → Answers (.lanewordLaunch lane) s fun t =>
        (laneOf t n).sched = q ∧ (laneOf t n).busyUntil = 100 * s.now + 528 ∧
        (bitsOf w 56 8 ≠ 0xC3 → (laneOf t n).sent = some w) ∧
        (∃ v, (laneOf t n).sent = some v ∧ bitsOf v 56 8 = bitsOf w 56 8) ∧ (∀ m, m ≠ n → laneOf t m = laneOf s m) ∧
        fld t F.RCK_EVCNT_SLIP = (if late then min (fld s F.RCK_EVCNT_SLIP + 1) 4095 else fld s F.RCK_EVCNT_SLIP)) ∧
      (x.st = .up → bitsOf w 56 8 = 0xC1 → rasterValid s = true → Answers (.lanewordLaunch lane) s fun t =>
        ∃ v, (laneOf t n).sent = some v ∧ bitsOf v 40 16 = frameNow s % 65536 ∧ bitsOf v 0 40 = bitsOf w 0 40 ∧
          bitsOf v 56 8 = 0xC1) ∧
      (x.st ≠ .up → Answers (.lanewordLaunch lane) s fun t => laneOf t n = { x with sched := q } ∧
        fld t F.LANE_CNT3_TXDROP n = min (fld s F.LANE_CNT3_TXDROP n + 1) 65535)) ∧
    (accepts .LANE_TXW n 0 a (fun _ => busyIf (decide (x.txq.length ≥ 4)))
        (fun v => laneWordOk (valOf v F.LANE_TXW_WLO + valOf v F.LANE_TXW_WHI * 2 ^ 32)) s = true →
      let v := commitVals s .LANE_TXW n 0 a
      Answers (.laneTxwQueue lane a) s fun t => x.txq.length < 4 ∧
        laneOf t n = { x with txq := x.txq ++ [valOf v F.LANE_TXW_WLO + valOf v F.LANE_TXW_WHI * 2 ^ 32] }) ∧
    (x.txq = w :: l → wordDueSoon s b = false → (laneOf s b).sched = [] → laneBusy s b = false → s.pwr.mode ≠ .frozen →
      ((laneOf s b).st = .up → bitsOf w 56 8 ≠ 0xC1 → Answers (.txwSend lane) s fun t => (laneOf t n).txq = l ∧
        (laneOf t b).busyUntil = 100 * s.now + 528 ∧ (bitsOf w 56 8 ≠ 0xC3 → (laneOf t b).sent = some w)) ∧
      ((laneOf s b).st ≠ .up → Answers (.txwSend lane) s fun t => laneOf t n = { x with txq := l } ∧
        fld t F.LANE_CNT3_TXDROP b = min (fld s F.LANE_CNT3_TXDROP b + 1) 65535)) ∧
    (s.pwr.mode = .frozen → Answers (.txwSend lane) s fun t => t = s) ∧
    (accepts .SWT_BUF 0 swt.val a (fun _ => busyIf (decide ((swtOf s swt.val).queue.length ≥ 2))) anyOk s = true →
      Answers (.swtBufQueue swt a) s fun t => swtOf t swt.val =
        { swtOf s swt.val with queue := (swtOf s swt.val).queue ++ [valOf (commitVals s .SWT_BUF 0 swt.val a) F.SWT_BUF_HANDLE] } ∧
        ∀ m, m ≠ swt.val → swtOf t m = swtOf s m)

/-- Port operations on the bond of a base lane. A port that is not enabled sets OPERR and returns nothing. READ of an enabled port returns the next words of its current record and stays inside it while words remain; with no readable record it returns nothing and moves nothing. In mark-and-rewind mode MARK holds the current position, REWIND returns to the mark held (OPERR with none) and RELEASE marks every earlier record freed by this port and no later one; in drop-rest-of-packet mode all three set OPERR and move nothing. DROP ends the current record: the port's next record of that FIFO comes after it. FLUSH, not refused, empties both banks of its FIFO alone. LFI_IDLE_NOTICE sets the notice of a port whose idle condition holds, counts it once per episode, and changes nothing when neither port's condition holds. OPERR of a disabled port is this model's choice (log entry 12). -/
def Obligations.LineFifoPortsReadMarkAndRelease : Prop :=
  ∀ (base lfi : Fin 64) (port : Fin 2) (words : BitVec 14) (req : Req) (s : State),
    let b := lfiBase s base.val
    let p := port.val
    let x := portOf s b p
    let refused (t : State) : Prop := portOf t b p = { x with operr := true, out := [] } ∧ t = { s with port := t.port }
    (portOn s b p = false → Answers (.lfiRead base port words) s refused ∧ Answers (.lfiMark base port) s refused ∧
      Answers (.lfiRewind base port) s refused ∧ Answers (.lfiRelease base port) s refused ∧
      Answers (.lfiDrop base port) s refused) ∧
    (portOn s b p = true →
      (portRec s b p = none → Answers (.lfiRead base port words) s fun t => portOf t b p = { x with operr := false, out := [] } ∧
        t = { s with port := t.port }) ∧
      (∀ r, portRec s b p = some r → x.word + words.toNat < r.data.length → Answers (.lfiRead base port words) s fun t =>
        portOf t b p = { x with operr := false, out := (r.data.drop x.word).take words.toNat, head := recWord r, word := x.word + words.toNat }) ∧
      (lfiDropMode s b = false →
        (Answers (.lfiMark base port) s fun t =>
          portOf t b p = { x with operr := false, mark := some (x.pos, x.turn, x.seq) } ∧ t = { s with port := t.port }) ∧
        (∀ m, x.mark = some m → Answers (.lfiRewind base port) s fun t =>
          portOf t b p = { x with operr := false, pos := m.1, turn := m.2.1, seq := m.2.2, word := 0 } ∧
          t = { s with port := t.port }) ∧
        (x.mark = none → Answers (.lfiRewind base port) s refused) ∧
        (Answers (.lfiRelease base port) s fun t => (portOf t b p).pos = x.pos ∧ (portOf t b p).operr = false ∧
          ∀ n, n ∈ bondLfis s b → bankRecs (lfiOf t n) true = (bankRecs (lfiOf s n) true).map (fun r =>
            if r.no < tabGet 0 x.pos n then (if p = 0 then { r with freed0 := true } else { r with freed1 := true }) else r))) ∧
      (lfiDropMode s b = true → Answers (.lfiMark base port) s refused ∧ Answers (.lfiRewind base port) s refused ∧
        Answers (.lfiRelease base port) s refused) ∧
      (∀ r, portRec s b p = some r → Answers (.lfiDrop base port) s fun t =>
        tabGet 0 (portOf t b p).pos (b + x.turn) = r.no + 1 ∧ (portOf t b p).word = 0 ∧ (portOf t b p).seq = x.seq + 1)) ∧
    (accepts .LFI_CMD 0 lfi.val ⟨req, .normal, 1⟩ (fun _ => busyIf (portOn s lfi.val 0 || portOn s lfi.val 1)) anyOk s = true →
      Answers (.lfiFlush req lfi) s fun t => (lfiOf t lfi.val).bankA = [] ∧ (lfiOf t lfi.val).bankB = [] ∧
        (lfiOf t lfi.val).nextNo = (lfiOf s lfi.val).nextNo ∧ ∀ m, m ≠ lfi.val → lfiOf t m = lfiOf s m) ∧
    (idleDue s lfi.val 0 = true ∨ idleDue s lfi.val 1 = true → Answers (.lfiIdleNotice lfi) s fun t =>
      (lfiOf t lfi.val).idle0 = ((lfiOf s lfi.val).idle0 || idleDue s lfi.val 0) ∧
      (lfiOf t lfi.val).idle1 = ((lfiOf s lfi.val).idle1 || idleDue s lfi.val 1) ∧
      fld t F.LFI_CNT_NOTICE 0 lfi.val = (if (lfiOf s lfi.val).idle0 = true ∨ (lfiOf s lfi.val).idle1 = true then
        fld s F.LFI_CNT_NOTICE 0 lfi.val else min (fld s F.LFI_CNT_NOTICE 0 lfi.val + 1) 65535)) ∧
    (idleDue s lfi.val 0 = false → idleDue s lfi.val 1 = false → Answers (.lfiIdleNotice lfi) s fun t => t = s)

/-- In every state in which a needle is ready for the control micro-word at its micro PC, its word reads without an error, its operands hold no reserved value, and no fault, abort, enabled interrupt input or HALT is pending (those are taken at its boundary: another statement), the word does what its opcode says and nothing else of the needle or of another changes, beside time, the fetch buffer and the bank that the needle binds to: NOP goes on; JUMP goes to its target; CALL pushes the next micro PC below eight entries, else the fault USTACK is pending and the stack as before; RET pops, or is USTACK on the empty stack; DISPATCH goes to slot 0 of TBASE x 16 + (G >> LSB) mod 2^W; LOOP decrements a nonzero counter and branches when the new value is not 0; SETLC, SETA and MOVA issue their result with 1 NCLK of latency; WAIT stays, one stalled cycle more, while no input of its mask is pending, else goes on, clearing with ACK the pending ones it observed that are not enabled; RETE clears EXC and goes to the event PC; HORIZ saves the next micro PC in HRET and goes to its word; TRAP leaves the fault TRAP pending with its code; STOP stops in HALT; GNOTE appends Vv to the reports of the slot, stalls while they are 32, and only goes on without a slot. -/
def Obligations.MicroWordsDo : Prop :=
  ∀ (needle : Fin 128) (w : Nat) (s : State),
    let n := needle.val
    let y := settleNdl (ndlOf s n)
    let next := nextPc y.pc
    let op (k : Nat) : Prop := bitsOf w 19 4 = k
    let go (z : Ndl) (pc : Nat) (t : State) : Prop := Went s t n z pc
    let stalled (t : State) : Prop := (ndlOf t n).st = .stall ∧ (ndlOf t n).pc = y.pc ∧ (ndlOf t n).stallCyc = y.stallCyc + 1 ∧ (ndlOf t n).cyc = y.cyc + 1
    let clr (hit : Nat) : Nat := if bitAt w 8 then hit - (hit &&& fld s F.NDL_CTL_IMASK n) else 0
    MicroAt s n w → Quiet s n → bitAt w 23 = true → controlOk y w = true →
    (op 0 → Answers (.microNop needle) s (go y next)) ∧
    (op 1 → Answers (.microJump needle) s (go y (bitsOf w 0 17))) ∧
    (op 2 → y.stack.length < 8 → Answers (.microCall needle) s (go { y with stack := next :: y.stack } (bitsOf w 0 17))) ∧
    (op 2 → ¬ y.stack.length < 8 → y.exc = false → Answers (.microCall needle) s
      (go { y with fault := some (plainFault 5 y.pc) } next)) ∧
    (op 3 → ∀ p l, y.stack = p :: l → Answers (.microRet needle) s (go { y with stack := l } p)) ∧
    (op 3 → y.stack = [] → y.exc = false → Answers (.microRet needle) s
      (go { y with fault := some (plainFault 5 y.pc) } next)) ∧
    (op 4 → Answers (.microDispatch needle) s (go y ((bitsOf w 0 11 * 16 +
      condGroup y (bitsOf w 11 4) / 2 ^ bitsOf w 15 2 % 2 ^ (bitsOf w 17 2 + 1)) * 4))) ∧
    (op 5 → rdLc y (bitsOf w 17 2) = 0 → Answers (.microLoop needle) s (go y next)) ∧
    (op 5 → ∀ c, rdLc y (bitsOf w 17 2) = c + 1 → Answers (.microLoop needle) s
      (go (issue [(1, .lc (bitsOf w 17 2), c)] y) (if c = 0 then next else bitsOf w 0 17))) ∧
    (op 6 → Answers (.microSetlc needle) s (go (issue [(1, .lc (bitsOf w 17 2), bitsOf w 0 16)] y) next)) ∧
    (op 7 → Answers (.microSeta needle) s (go (issue [(1, .a (bitsOf w 15 4), bitsOf w 0 15)] y) next)) ∧
    (op 8 → Answers (.microMova needle) s (go (issue [(1, .a (bitsOf w 15 4), rdA y (bitsOf w 11 4))] y) next)) ∧
    (op 9 → y.ipend &&& bitsOf w 0 8 = 0 → Answers (.microWait needle) s stalled) ∧
    (op 9 → y.ipend &&& bitsOf w 0 8 ≠ 0 → Answers (.microWait needle) s
      (go { y with ipend := y.ipend - (y.ipend &&& clr (y.ipend &&& bitsOf w 0 8)) } next)) ∧
    (op 10 → Answers (.microRete needle) s (go { y with exc := false } y.epc)) ∧
    (op 11 → Answers (.microHoriz needle) s (go { y with hret := next, hstart := false } (bitsOf w 0 15 * 4 + 3))) ∧
    (op 12 → y.exc = false → Answers (.microTrap needle) s
      (go { y with fault := some (plainFault 0x20 (bitsOf w 0 8)) } next)) ∧
    (op 13 → Answers (.microStop needle) s fun t => (ndlOf t n).st = .halt ∧ (ndlOf t n).pc = next % 2 ^ 17 ∧ (ndlOf t n).exc = y.exc) ∧
    (op 14 → y.slot = none → Answers (.microGnote needle) s (go y next)) ∧
    (op 14 → ∀ p, y.slot = some p → (patOf s p).reports.length < 32 → Answers (.microGnote needle) s fun t => go y next t ∧
      (patOf t p).reports = (patOf s p).reports ++ [BitVec.ofNat 72 (rdV y (bitsOf w 0 5))]) ∧
    (op 14 → ∀ p, y.slot = some p → ¬ (patOf s p).reports.length < 32 → Answers (.microGnote needle) s stalled)

/-- In every state in which a needle is ready for a NOP whose word reads without an error, its boundary takes what is pending. A fault, with FVEC = 1, enters vector 0 with KIND 3, CAUSE 0, ATSAFE 0 and the fault's code, nano index, bus error cause and address recorded, the abort and the interrupt inputs staying pending; with FVEC = 0 the needle is in FAULT at the next micro PC with the same record, and NDLFLT is latched in FCL. Without a fault and with EXC = 0 a pending abort enters vector 1 with KIND 2 and its cause, the inputs staying pending; without an abort the lowest pending input enabled in IMASK enters vector 8 + i with KIND 1 and CAUSE i, and only it is no longer pending. With EXC = 1 interrupts and aborts stay pending and the needle goes on. With nothing to take, a HALT that was asked stops the needle in HALT at the next micro PC without changing EXC. Each vector sets EXC, keeps the next micro-word's PC as the event PC and in NDL_XSTAT, leaves the micro stack as it was, and its first micro-word starts 4 NCLK after the boundary's cycle. -/
def Obligations.NeedlesTakeEventsInOrder : Prop :=
  ∀ (needle : Fin 128) (w : Nat) (s : State),
    let n := needle.val
    let x := ndlOf s n
    let y := settleNdl x
    let next := nextPc y.pc % 2 ^ 17
    let entered (vec kind cause : Nat) (t : State) : Prop := (ndlOf t n).pc = vec * 4 ∧ (ndlOf t n).exc = true ∧
      (ndlOf t n).epc = next ∧ (ndlOf t n).st = .run ∧ (ndlOf t n).cyc = y.cyc + 4 ∧ (ndlOf t n).stack = y.stack ∧
      fld t F.NDL_XSTAT_KIND n = kind ∧ fld t F.NDL_XSTAT_CAUSE n = cause % 16 ∧ fld t F.NDL_XSTAT_PC n = next
    let told (f : NdlFault) (t : State) : Prop := fld t F.NDL_FSTAT_CODE n = f.code % 256 ∧ fld t F.NDL_FSTAT_NIDX n = f.nidx % 1024 ∧
      flag t F.NDL_FSTAT_ATSAFE n = false ∧ fld t F.NDL_FSTAT_BERR n = f.berr % 16 ∧
      rword t .NDL_FADDR_LO n 0 0 = f.addr % 2 ^ 32 ∧ rword t .NDL_FADDR_HI n 0 0 = f.addr / 2 ^ 32 % 2 ^ 16
    MicroAt s n w → bitAt w 23 = true → controlOk y w = true → bitsOf w 19 4 = 0 →
    (∀ f, x.fault = some f → flag s F.NDL_CTL_FVEC n = true → Answers (.microNop needle) s fun t => entered 0 3 0 t ∧ told f t ∧
      (ndlOf t n).fault = none ∧ (ndlOf t n).abort = x.abort ∧ (ndlOf t n).ipend = x.ipend) ∧
    (∀ f, x.fault = some f → flag s F.NDL_CTL_FVEC n = false → baseUp s = true → Answers (.microNop needle) s fun t => told f t ∧
      (ndlOf t n).st = .fault ∧ (ndlOf t n).pc = next ∧ fclLatched t 4 = true ∧ fld t F.NDL_XSTAT_KIND n = 3 ∧ fld t F.NDL_XSTAT_PC n = next) ∧
    (x.fault = none → x.exc = false → ∀ c, x.abort = some c → Answers (.microNop needle) s fun t => entered 1 2 c t ∧
      (ndlOf t n).abort = none ∧ (ndlOf t n).ipend = x.ipend) ∧
    (x.fault = none → x.exc = false → x.abort = none → ∀ i, firstIrq s n x.ipend = some i → Answers (.microNop needle) s fun t =>
      entered (8 + i) 1 i t ∧ (ndlOf t n).ipend = x.ipend - (x.ipend &&& 2 ^ i)) ∧
    (x.fault = none → x.exc = true → x.haltAsked = false → Answers (.microNop needle) s fun t => Went s t n y (nextPc y.pc)) ∧
    (x.fault = none → (x.exc = true ∨ x.abort = none ∧ firstIrq s n x.ipend = none) → x.haltAsked = true →
      Answers (.microNop needle) s fun t => (ndlOf t n).st = .halt ∧ (ndlOf t n).pc = next ∧ (ndlOf t n).exc = x.exc)

/-- An accepted NDL_CMD HALT asks a needle that executes to stop at its next sampling point and stops any other in HALT at once. An accepted RESUME from FAULT enters the fault vector with KIND 3, from HALT the abort vector with KIND 2; both record CAUSE 0, set EXC and leave neither fault nor HALT pending. An accepted ABORT leaves an abort of cause 0 pending where none was. An accepted HSTART begins horizontal execution at NDL_HENTRY, from where EXIT will enter HALT. An accepted write of NDL_BELL makes exactly the inputs BELL0 and BELL1 pending that its bits name, and the timer of a powered needle makes TIMER pending. The end of a local store's zeroing leaves every word of a needle that serves no slot zero with good check bits, and no other needle's word changed. The end of a skein's zeroing leaves every skein-memory word zero, both banks EMPTY and the scrubber at word 0. A scrub step of an enabled, powered skein goes on to the next word, wrapping at the end, and otherwise holds its position. -/
def Obligations.NeedleCommandsActOnTheirState : Prop :=
  ∀ (needle : Fin 128) (skein : Fin 16) (req : Req) (a : Acc) (up : Option (Nat × Native)) (s : State),
    let n := needle.val
    let k := skein.val
    let x := ndlOf s n
    let ok (op : Nat) (busy : State → Bool) : Prop :=
      accepts .NDL_CMD n 0 ⟨req, .normal, BitVec.ofNat 32 op⟩ (fun _ => busyIf (busy s)) anyOk s = true
    let others (t : State) : Prop := ∀ m, m ≠ n → ndlOf t m = ndlOf s m
    let vec (v kind : Nat) (t : State) : Prop := (ndlOf t n).pc = v * 4 ∧ (ndlOf t n).exc = true ∧ (ndlOf t n).st = .run ∧
      (ndlOf t n).fault = none ∧ (ndlOf t n).haltAsked = false ∧ fld t F.NDL_XSTAT_KIND n = kind ∧ fld t F.NDL_XSTAT_CAUSE n = 0 ∧
      fld t F.NDL_XSTAT_PC n = x.pc % 2 ^ 17
    (ok 1 (haltBusy n) → ndlRuns x = true → Answers (.ndlHalt req needle) s fun t => ndlOf t n = { x with haltAsked := true } ∧ others t) ∧
    (ok 1 (haltBusy n) → ndlRuns x = false → Answers (.ndlHalt req needle) s fun t => ndlOf t n = { x with st := .halt } ∧ others t) ∧
    (ok 2 (resumeBusy n) → x.st = .fault → Answers (.ndlResume req needle) s fun t => vec 0 3 t ∧ others t) ∧
    (ok 2 (resumeBusy n) → x.st ≠ .fault → Answers (.ndlResume req needle) s fun t => vec 1 2 t ∧ others t) ∧
    (ok 3 (abortBusy n) → ndlRuns x = true → x.abort = none → Answers (.ndlAbort req needle) s fun t => ndlOf t n = { x with abort := some 0 } ∧ others t) ∧
    (ok 4 (hstartBusy n) → Answers (.ndlHstart req needle) s fun t => others t ∧
      ndlOf t n = { x with pc := fld s F.NDL_HENTRY_ADDR n * 4 + 3, hstart := true, nano := none, st := .horiz }) ∧
    (accepts .NDL_BELL n 0 a neverBusy anyOk s = true → Answers (.ndlBellWrite needle a) s fun t => others t ∧
      ndlOf t n = { x with ipend := x.ipend ||| valOf (commitVals s .NDL_BELL n 0 a) F.NDL_BELL_RING * 64 }) ∧
    (domUp s n = true → Answers (.needleTimerExpire needle) s fun t => ndlOf t n = { x with ipend := x.ipend ||| 32 } ∧ others t) ∧
    (x.zeroing = true → x.slot = none → Answers (.localStoreZeroDone needle) s fun t => (ndlOf t n).zeroing = false ∧ others t ∧
      (∀ i, i < 2 ^ 15 → LsIs t n i 0) ∧ ∀ m i, m ≠ n → i < 2 ^ 15 → tabGet 0 t.mem.ls (lsKey m i) = tabGet 0 s.mem.ls (lsKey m i)) ∧
    ((sknOf s k).zeroing = true → Answers (.skeinZeroDone skein) s fun t => (sknOf t k).zeroing = false ∧ (sknOf t k).scrubAt = 0 ∧
      (bankOf t k false).st = .empty ∧ (bankOf t k true).st = .empty ∧
      ∀ i, i < 2 ^ 19 → tabGet 0 t.mem.skm (skmKey k i) = 0 ∧ tabGet 0 t.mem.skmFlip (skmKey k i) = 0) ∧
    (flag s F.SKN_SCRUB_EN k = true → domUp s (128 + k) = true → (sknOf s k).zeroing = false →
      Answers (.skeinScrubStep skein up) s fun t => (sknOf t k).scrubAt = ((sknOf s k).scrubAt + 1) % 2 ^ 19) ∧
    (flag s F.SKN_SCRUB_EN k = false → Answers (.skeinScrubStep skein none) s fun t => t = s)

/-- An N micro-word of a needle with a bank starts the routine at NIDX with its windows and puts MK into D; one that names an entry of no bank, or of an empty customer half, is the fault NEMPTY with that index; a reserved micro-word leaves ILLOP pending. A nano-word without a memory or unit command, its parity, fields and time good and nothing pending, issues its vector and DSET results (and a LOOP's decrement), takes one nano-cycle, and either goes on at the index of its SEQ in the same half, counting the cycle since the last sampling point, or ends its routine at the micro-word boundary. A WAITU whose condition fails is a stalled cycle that leaves the word to run again. After 48 nano-cycles without a sampling point the needle takes SAFEGAP at once; after 4,096 a needle that still runs the routine has NANORUN pending with its first index. A word whose parity fails sets its bank to DAMAGED, latches NANOPAR, and is the fault NPAR. A horizontal word likewise issues its results in 2 NCLK and goes on where HSEQ says, in HALT after EXIT from HSTART and after STOP; a word outside the range, where the check is on, is HRANGE. (Faults here: EXC = 0, FVEC = 1, so that the fault vector is entered.) -/
def Obligations.NanoAndHorizontalWordsDo : Prop :=
  ∀ (needle : Fin 128) (w : Nat) (s : State),
    let n := needle.val
    let x := ndlOf s n
    let y := settleNdl x
    let bank := b2n (x.bound.getD false)
    let vectored : Prop := x.fault = none ∧ x.exc = false ∧ flag s F.NDL_CTL_FVEC n = true
    let at0 (code addr : Nat) (t : State) : Prop := (ndlOf t n).pc = 0 ∧ (ndlOf t n).exc = true ∧ (ndlOf t n).nano = none ∧
      (ndlOf t n).fault = none ∧ fld t F.NDL_FSTAT_CODE n = code ∧ rword t .NDL_FADDR_LO n 0 0 = addr
    let looped (is : Bool) (k : Nat) (z : Ndl) : Ndl :=
      if is = true ∧ rdLc y k ≠ 0 then issue [(1, .lc (k % 4), rdLc y k - 1)] z else z
    (MicroAt s n w → bitAt w 23 = false → ∀ b, y.bound = some b → (bitsOf w 13 10 < 768 ∨ (bankOf s (n / 8) b).cvalid = true) →
      Answers (.microWordExecute needle) s fun t => (ndlOf t n).nano = some ⟨bitsOf w 13 10, bitsOf w 13 10, bitsOf w 8 5, bitsOf w 4 4, 0, 0⟩ ∧
        (ndlOf t n).d = bitsOf w 0 4 ∧ (ndlOf t n).pc = y.pc ∧ (ndlOf t n).cyc = y.cyc ∧ ∀ m, m ≠ n → ndlOf t m = ndlOf s m) ∧
    (MicroAt s n w → bitAt w 23 = false → vectored → ∀ b, y.bound = some b → 768 ≤ bitsOf w 13 10 → (bankOf s (n / 8) b).cvalid = false →
      Answers (.microWordExecute needle) s (at0 6 (bitsOf w 13 10))) ∧
    (MicroAt s n w → bitAt w 23 = false → vectored → y.bound = none → bankFor s n = none →
      Answers (.microWordExecute needle) s (at0 6 (bitsOf w 13 10))) ∧
    (MicroAt s n w → Quiet s n → bitAt w 23 = true → controlOk y w = false → x.exc = false →
      Answers (.microWordExecute needle) s fun t => Went s t n { y with fault := some (plainFault 1 y.pc) } (nextPc y.pc)) ∧
    (nanoReady s n = true → ∀ r, x.nano = some r →
      (48 ≤ r.gap → vectored → Answers (.safegap needle) s (at0 8 0)) ∧
      (4096 ≤ r.cycles → x.fault = none → x.exc = false → Answers (.nanorun needle) s fun t =>
        (ndlOf t n).fault = some ⟨9, r.idx, bank, 0, r.first⟩ ∧ (ndlOf t n).nano = some r) ∧
      (r.gap < 48 → r.cycles < 4096 → nanoParityOk (nanoEntry s n r.idx).toNat = false → vectored → baseUp s = true →
        Answers (.nanoWordExecute needle) s fun t => (ndlOf t n).exc = true ∧ (ndlOf t n).pc = 0 ∧ (bankOf t (n / 8) (x.bound.getD false)).st = .damaged ∧
          fclLatched t 5 = true ∧ fld t F.NDL_FSTAT_CODE n = 7) ∧
      (r.gap < 48 → r.cycles < 4096 → nanoParityOk (nanoEntry s n r.idx).toNat = true → w = bitsOf (nanoEntry s n r.idx).toNat 0 96 → Quiet s n →
        let q : NWord := ⟨w, if bitAt w 29 then r.vw else 0, if bitAt w 29 then r.aw else 0, r.idx, bank⟩
        let seq := bitsOf w 93 3
        let z := looped (seq == 4) (bitsOf w 78 2) (issue (q.vecStep y) y)
        (seq = 6 → ncond y (bitsOf w 78 4) = false → Answers (.nanoWordExecute needle) s fun t => (ndlOf t n).st = .stall ∧
          (ndlOf t n).cyc = y.cyc + 1 ∧ (ndlOf t n).stallCyc = y.stallCyc + 1 ∧ (ndlOf t n).nano = some { r with gap := 0 }) ∧
        (q.ok = true → q.mop = 0 → q.unit = 0 → seq ≠ 7 → (seq = 6 → ncond y (bitsOf w 78 4) = true) →
          (∀ i, nanoNext y w r.idx = .at_ i → nanoHalf i = nanoHalf r.first → bitAt w 92 = false → Answers (.nanoWordExecute needle) s fun t =>
            ndlOf t n = { z with st := .run, cyc := y.cyc + 1, busyCyc := y.busyCyc + 1,
                                 nano := some { r with idx := i, cycles := r.cycles + 1, gap := r.gap + 1 } } ∧
            ∀ m, m ≠ n → ndlOf t m = ndlOf s m) ∧
          (nanoNext y w r.idx = .done → Answers (.nanoWordExecute needle) s fun t => Went s t n { z with nano := none } (nextPc y.pc))))) ∧
    (ndlExec s n = true → horizPc x = true → x.zeroing = false →
      (horizInRange s n (x.pc / 4) = false → vectored → Answers (.horizWordExecute needle) s (at0 0xA (x.pc / 4 % 2 ^ 32))) ∧
      (∀ lo hi, LsIs s n (x.pc / 4) lo → LsIs s n (x.pc / 4 + 1) hi → w = hi.toNat * 2 ^ 72 + lo.toNat → horizInRange s n (x.pc / 4) = true →
        horizOk hi.toNat lo.toNat = true → Quiet s n →
        let q : NWord := ⟨bitsOf w 0 78, 0, 0, 0, 0⟩
        let hseq := bitsOf w 140 4
        let z := looped (hseq == 3) (bitsOf w 121 2) (issue (q.vecStep y) y)
        q.mop = 0 → q.unit = 0 → (hseq = 4 → ncond y (bitsOf w 121 4) = true) →
          ((horizNext y w (x.pc / 4)).2 = false → Answers (.horizWordExecute needle) s fun t => Went s t n z (horizNext y w (x.pc / 4)).1) ∧
          ((horizNext y w (x.pc / 4)).2 = true → Answers (.horizWordExecute needle) s fun t => (ndlOf t n).st = .halt ∧
            (ndlOf t n).pc = (horizNext y w (x.pc / 4)).1 % 2 ^ 17 ∧ (ndlOf t n).exc = x.exc)))

/-- A distributor in use reads the next line of its port when every target needle of its gang has a free slot: each target (named once) has the slot of its ring head filled with the line's sequence number, number and flags, unheld, its stripe of the line's words standing at the slot's address with good check bits, and LINE pending when no full slot stood unheld; no other needle changes, and the port stands after the line. With a full ring, or without a line, nothing changes. The oldest transfer of a powered needle completes and leaves the others: words of local store that read without an error stand, tag and all, in the skein memory at the remote address, or words of skein memory in local store, and XDONE is pending where notice was asked; a transfer to a remote address of the Boot ROM, of the control space or of no region moves nothing and leaves the fault XERR with cause UNMAPPED and that address pending. -/
def Obligations.LinesAndTransfersFillLocalStore : Prop :=
  ∀ (skein : Fin 16) (dist : Fin 2) (needle : Fin 128) (s : State),
    let k := skein.val
    let d := dist.val
    let b := (distPort s k d).1
    let p := (distPort s k d).2
    let targets := gangNeedles s k d
    let n := needle.val
    let x := ndlOf s n
    (distOn s k d = true → portOn s b p = true → (∀ m ∈ targets, (ndlOf s m).ring.length < ringSlots) → targets.Nodup →
      ∀ r, portRec s b p = some r → r.data.length ≤ 2 ^ 15 → Answers (.distributorLineDeliver skein dist) s fun t =>
        (∀ m ∈ targets, (ndlOf t m).ring = (ndlOf s m).ring ++ [⟨(ndlOf s m).ringHead, false, (portOf s b p).seq, r.line, lineFlags r⟩] ∧
          (ndlOf t m).ringHead = ((ndlOf s m).ringHead + 1) % ringSlots ∧
          (ndlOf t m).ipend = (if slotReady (ndlOf s m) then (ndlOf s m).ipend else (ndlOf s m).ipend ||| 8) ∧
          ∀ i, i < ((r.data.drop (needleStripe s m).1).take (needleStripe s m).2).length →
            LsIs t m ((Config.slotWord (ndlOf s m).ringHead).toNat + i) (((r.data.drop (needleStripe s m).1).take (needleStripe s m).2).getD i 0)) ∧
        (∀ m, m ∉ targets → ndlOf t m = ndlOf s m) ∧
        (portOf t b p).seq = (portOf s b p).seq + 1 ∧ (portOf t b p).word = 0 ∧
        tabGet 0 (portOf t b p).pos (b + (portOf s b p).turn) = r.no + 1) ∧
    ((∃ m ∈ targets, ringSlots ≤ (ndlOf s m).ring.length) → Answers (.distributorLineDeliver skein dist) s fun t => t = s) ∧
    (portRec s b p = none → Answers (.distributorLineDeliver skein dist) s fun t => t = s) ∧
    (domUp s n = true → ∀ q rest, x.xfers = q :: rest →
      let done (t : State) : Prop := ndlOf t n = { x with xfers := rest, ipend := if q.notice then x.ipend ||| 4 else x.ipend }
      (∀ (w : Nat) (f : Nat → Native), q.remote = 0x080000000000 + k * 0x400000 + 8 * w → w + q.count ≤ 2 ^ 19 → q.loc + q.count ≤ 2 ^ 15 →
        (q.out = true → (∀ i, i < q.count → LsIs s n (q.loc + i) (f i)) → Answers (.xferComplete needle) s fun t => done t ∧
          ∀ i, i < q.count → SkIs t k (w + i) (f i)) ∧
        (q.out = false → (∀ i, i < q.count → SkIs s k (w + i) (f i)) → Answers (.xferComplete needle) s fun t => done t ∧
          ∀ i, i < q.count → LsIs t n (q.loc + i) (f i))) ∧
      (0 < q.count → q.loc < 2 ^ 15 → xferRegion s q.remote = false ∨ regionOf s q.remote = none ∧ LsIs s n q.loc 0 → x.fault = none → x.exc = false → x.st ≠ .fault →
        Answers (.xferComplete needle) s fun t => ndlOf t n = { x with xfers := rest, fault := some ⟨0x15, 0, 0, 1, q.remote⟩ }))

/-- While the Stalls have power: ALLOC of an enabled, ready pool with a free buffer within quota holds the lowest free one for the requester, charges its use, and shows the owner handle (pool, index, generation, ticket 0). FREE of a handle that passes the checks clears the owner hold or uses the ticket; when no hold is left the record returns to FREE with the next generation (15 to 1) and leaves its owner's use, else it stays held. SHARE issues the lowest ticket not yet issued to the recipient and shows its handle; CHECK shows the offset's physical address, with no effect. A handle that fails the checks changes no record and no use, shows its result, counts HNDREF and latches STLHND. A revocation releases every hold and ticket of its requester, each record by itself, and DONE counts them. A commit that enables a disabled pool leaves every buffer of it free with generation 1, and no other pool's record changed. -/
def Obligations.StallsLendAndReturnBuffers : Prop :=
  ∀ (req : Req) (pool : Fin 64) (h : Word) (rcp : BitVec 8) (off : BitVec 26) (lenm1 : BitVec 23) (a : Acc) (s : State),
    let r := req.val
    let p := pool.val
    let hn := h.toNat
    let hp := bitsOf hn 26 6
    let hi := bitsOf hn 8 18
    let tk := bitsOf hn 0 4
    let shows (t : State) (v code : Nat) : Prop := rwordQ t .STL_RES r 0 0 0 = v % 2 ^ 32 ∧
      rwordQ t .STL_RES r 0 0 1 = code * 2 ^ 28 + v / 2 ^ 32 % 2 ^ 16
    (baseUp s = true → domUp s 203 = true →
      (poolOn s p = true → poolReady s p = true → ∀ i, firstFree s p = some i →
        (bufOf s p i).held = false ∧ (∀ j, j < i → (bufOf s p j).held = true) ∧
        (fld s F.STL_QUOTA_LIMIT 0 r = 0xFFFFFF ∨ useOf s r + poolUnits s p ≤ fld s F.STL_QUOTA_LIMIT 0 r →
          Answers (.stlAlloc req pool) s fun t => shows t (handleOf p i (bufOf s p i).gen 0) 0 ∧ useOf t r = useOf s r + poolUnits s p ∧
            bufOf t p i = { bufOf s p i with held := true, owner := r, hold := true } ∧ ∀ q j, bufKey q j ≠ bufKey p i → bufOf t q j = bufOf s q j)) ∧
      (handleCheck s hn r true = none → let b := bufOf s hp hi
        let b' := if tk = 0 then { b with hold := false } else { b with used := tk :: b.used }
        (refCount b' ≠ 0 → Answers (.stlFree req h) s fun t => shows t 0 0 ∧ bufOf t hp hi = b' ∧ t.stl.use = s.stl.use) ∧
        (refCount b' = 0 → Answers (.stlFree req h) s fun t => shows t 0 0 ∧ useOf t b.owner = useOf s b.owner - poolUnits s hp ∧
          bufOf t hp hi = { Buf.reset with gen := if b.gen = 15 then 1 else b.gen + 1 })) ∧
      (handleCheck s hn r false = none →
        (∀ k, nextTicket (bufOf s hp hi) = some k → ticketsUsed s < 8192 → Answers (.stlShare req h rcp) s fun t =>
          shows t (handleOf hp hi (bitsOf hn 4 4) k) 0 ∧ tabFind (bufOf t hp hi).issued k = some rcp.toNat ∧ t.stl.use = s.stl.use) ∧
        (spanCheck s hn off.toNat (lenm1.toNat + 1) = none → Answers (.stlCheck req h off lenm1) s fun t =>
          shows t (bufAddr s hp hi + off.toNat) 0 ∧ t.stl = s.stl)) ∧
      (∀ e, handleCheck s hn r true = some e → e ≠ .bayoff → e ≠ .tickets → Answers (.stlFree req h) s fun t => t.stl = s.stl ∧
        shows t 0 e.code ∧ fclLatched t 13 = true ∧ fld t F.STL_CNT_HNDREF 0 = min (fld s F.STL_CNT_HNDREF 0 + 1) (2 ^ F.STL_CNT_HNDREF.width - 1))) ∧
    (accepts .STL_REVOKE 0 0 a neverBusy anyOk s = true →
      let w := valOf (commitVals s .STL_REVOKE 0 0 a) F.STL_REVOKE_RID
      Answers (.stlRevoke a) s fun t =>
        fld t F.STL_REVOKE_DONE 0 = min ((s.stl.bufs.map Prod.fst).dedup.map fun e => (revokeBuf w (tabGet .reset s.stl.bufs e)).2).sum (2 ^ 24 - 1) ∧
        ∀ q j, let b := bufOf s q j
          bufOf t q j = if (revokeBuf w b).2 = 0 then b else if refCount (revokeBuf w b).1 = 0 then bufReturned (revokeBuf w b).1 else (revokeBuf w b).1) ∧
    (accepts .STL_POOL 0 p a (poolBusy p s) (fun v => poolSame p s v || poolOk p s v) s = true → poolOn s p = false →
      Answers (.stlPoolCommit pool a) s fun t => fld t F.STL_POOL_EN 0 p = valOf (commitVals s .STL_POOL 0 p a) F.STL_POOL_EN ∧
        (∀ j, j < 2 ^ 18 → bufOf t p j = Buf.reset) ∧ ∀ q j, q ≠ p → j < 2 ^ 18 → bufOf t q j = bufOf s q j)

/-- While the interrupt controller has power: an event of a source that is not pending, while no core that a source targets sleeps, makes exactly that source pending; its group goes from IDLE to OPEN without a hold-off or when one arrival suffices, else to HELD with arrival count 1; in HELD it counts the arrival and opens at the count taken at its move to HELD; an OPEN one stays. An event of a pending source changes no pending bit and no group. A HELD group whose time has passed opens. A claim by the context's own core, with no popped threshold waiting to take effect, answers the deliverable source of the highest priority (the lowest number among equals), clears its pending bit alone, pushes the threshold in force and sets it to the source's priority; where nothing is deliverable, and for any other requester, it answers 0 and changes nothing of the controller. A completion by the core that names its last claim pops it, the pushed threshold to return four cycles later; one that names another source is counted in BADCOMP and ignored; one by another requester is ignored. A popped threshold that is due takes effect. A write of ICT_SWI makes every SWI source pending whose bit is 1, and of the others none but WAKEDROP may change. -/
def Obligations.InterruptsArriveAndAreClaimed : Prop :=
  ∀ (src : Fin 1024) (group : Fin 64) (ctx : Fin 8) (req : Req) (done : BitVec 10) (a : Acc) (s : State),
    let n := src.val
    let c := ctx.val
    let x := groupOf s (srcOf s n).group
    let hold := fld s F.ICT_GRP_HOLD 0 (srcOf s n).group
    let count := fld s F.ICT_GRP_COUNT 0 (srcOf s n).group
    let k := ctxOf s c
    let pends (t : State) (p : Nat → Bool) : Prop := ∀ m, (srcOf t m).pend = p m
    let arrives (y : IctGroup) : Prop := Answers (.interruptArrival src) s fun t =>
      pends t (fun m => m == n || (srcOf s m).pend) ∧ (srcOf t n).arrived = s.now ∧
      groupOf t (srcOf s n).group = y ∧ ∀ g, g ≠ (srcOf s n).group → groupOf t g = groupOf s g
    baseUp s = true → domUp s 213 = true →
    (srcExists n = true → (srcOf s n).pend = true → Answers (.interruptArrival src) s fun t =>
      pends t (fun m => (srcOf s m).pend) ∧ t.ict.groups = s.ict.groups) ∧
    ((∀ m, domUp s (192 + (srcOf s m).core) = true) → srcExists n = true → (srcOf s n).pend = false →
      (x.st = .idle → hold = 0 ∨ count = 1 → arrives ⟨.open, 1, hold, count, s.now⟩) ∧
      (x.st = .idle → hold ≠ 0 → count ≠ 1 → arrives ⟨.held, 1, hold, count, s.now⟩) ∧
      (x.st = .held → x.limit = 0 ∨ x.count + 1 < x.limit → arrives { x with count := x.count + 1 }) ∧
      (x.st = .held → x.limit ≠ 0 → x.limit ≤ x.count + 1 → arrives { x with st := .open, count := x.count + 1 }) ∧
      (x.st = .open → arrives x)) ∧
    ((∀ m, domUp s (192 + (srcOf s m).core) = true) → (groupOf s group).st = .held →
      (groupOf s group).heldAt + (groupOf s group).hold * 1000 ≤ s.now → Answers (.groupHoldExpire group) s fun t =>
        groupOf t group = { groupOf s group with st := .open } ∧ pends t (fun m => (srcOf s m).pend)) ∧
    (req.val = 128 + c → k.restores = [] →
      (∀ w, w < 1024 → deliverable s w = true → (srcOf s w).core = c →
        (∀ v, deliverable s v = true → (srcOf s v).core = c → (srcOf s v).pri ≤ (srcOf s w).pri ∧ ((srcOf s v).pri = (srcOf s w).pri → w ≤ v)) →
        Answers (.ictClaim req ctx) s fun t =>
          tabGet 0 t.bus.answers req = w ∧ pends t (fun m => m != w && (srcOf s m).pend) ∧
          (ctxOf t c).claims = (w, k.thr) :: k.claims ∧ (ctxOf t c).thr = some (srcOf s w).pri)) ∧
    ((∀ v, deliverable s v = true → (srcOf s v).core ≠ c) ∨ req.val ≠ 128 + c → Answers (.ictClaim req ctx) s fun t =>
      tabGet 0 t.bus.answers req = 0 ∧ t.ict = s.ict) ∧
    (accepts .ICT_CTX_COMPLETE 0 c ⟨req, .normal, BitVec.ofNat 32 done.toNat⟩ neverBusy anyOk s = true →
      (req.val ≠ 128 + c → Answers (.ictComplete req ctx done) s fun t => t.ict = s.ict) ∧
      (req.val = 128 + c → (∀ rest th, k.claims = (done.toNat, th) :: rest → Answers (.ictComplete req ctx done) s fun t =>
        ctxOf t c = { k with claims := rest, restores := k.restores ++ [(s.now + 4, th)] } ∧ t.ict.srcs = s.ict.srcs) ∧
        ((∀ th, k.claims.head? ≠ some (done.toNat, th)) → Answers (.ictComplete req ctx done) s fun t => t.ict = s.ict ∧
          fld t F.ICT_CNT_BADCOMP = min (fld s F.ICT_CNT_BADCOMP + 1) (2 ^ F.ICT_CNT_BADCOMP.width - 1)))) ∧
    (∀ at' th, k.restores = [(at', th)] → at' ≤ s.now → Answers (.thresholdRestore ctx) s fun t =>
      (ctxOf t c).thr = th ∧ (ctxOf t c).restores = [] ∧ pends t (fun m => (srcOf s m).pend)) ∧
    (accepts .ICT_SWI 0 0 a neverBusy anyOk s = true → Answers (.ictSwiWrite a) s fun t =>
      (∀ i, i < 8 → bitAt (valOf (commitVals s .ICT_SWI 0 0 a) F.ICT_SWI_RAISE) i = true → (srcOf t (731 + i)).pend = true) ∧
      ∀ m, m ≠ 775 → (∀ i, i < 8 → m = 731 + i → bitAt (valOf (commitVals s .ICT_SWI 0 0 a) F.ICT_SWI_RAISE) i = false) →
        (srcOf t m).pend = (srcOf s m).pend)

/-- While the base domain operates: a write of a disabled mailbox changes no mailbox and no message. A write of an enabled one stores payload and tag, sets FULL, records the writer, sets COLL and counts it exactly when an unread message is replaced, and keeps the time of the first of these writes; no other mailbox changes. Where its message was not late, it raises the MBXRX source of a core, and for a needle it copies the message with its tag into SKWORD and makes the needle's MBX input pending. A read of word 0 answers PAY_LO and latches the other two words for the reader; the receiver's read of a message that came from this device clears FULL, COLL and TMO, any other requester's changes no mailbox. When the time of an unread message has passed, TMO rises and is counted; with no crossed mailbox MBXERR is raised, and with exactly one it is counted and MBXCROSS latched; before that time nothing happens. A read of a free semaphore answers 0 and takes it; of a held one it answers 1, sets WANT and is counted. The owner's write of 0 frees it and raises SEMREL where WANT was 1; any other requester's is counted and ignored. A revocation frees exactly the semaphores of its requester, and DONE counts them. -/
def Obligations.MailboxesAndSemaphoresSignal : Prop :=
  ∀ (req : Req) (box sem : Fin 256) (payload : DWord) (tag : Byte) (a : Acc) (s : State),
    let m := box.val
    let i := sem.val
    let x := mbxOf s m
    let y := semOf s i
    let cross (b : Nat) : Bool := decide (b ≠ m) && (mbxOf s b).tmo && decide ((mbxOf s b).rcv = x.snd) && decide ((mbxOf s b).snd = x.rcv)
    let late := decide (s.now ≥ x.fullAt + fld s F.MBX_TMO_TMO * 1000)
    let others (t : State) : Prop := ∀ j, j ≠ m → mbxOf t j = mbxOf s j
    let alone (t : State) : Prop := ∀ j, j ≠ i → semOf t j = semOf s j
    let answered (t : State) (v : Nat) : Prop := tabGet 0 t.bus.answers req = v
    let one (n w : Nat) : Nat := min (n + 1) (2 ^ w - 1)
    baseUp s = true →
    (x.en = false → Answers (.mailboxWrite req box payload tag) s fun t => t.mbx = s.mbx ∧ ∀ w, rword t .MBX_MSG 0 m w = rword s .MBX_MSG 0 m w) ∧
    (x.en = true → Answers (.mailboxWrite req box payload tag) s fun t => others t ∧
      mbxOf t m = { x with full := true, coll := x.full, snd := req, fullAt := if x.full then x.fullAt else s.now, origin := none } ∧
      rword t .MBX_MSG 0 m 0 = payload.toNat % 2 ^ 32 ∧ rword t .MBX_MSG 0 m 1 = payload.toNat / 2 ^ 32 ∧ rword t .MBX_MSG 0 m 2 = tag.toNat ∧
      fld t F.MBX_CNT_COLL = (if x.full then one (fld s F.MBX_CNT_COLL) F.MBX_CNT_COLL.width else fld s F.MBX_CNT_COLL) ∧
      (x.tmo = false → ∀ c, c < 8 → x.rcv = 128 + c → domUp s 213 = true → (srcOf t (721 + c)).pend = true) ∧
      (x.tmo = false → x.rcv < 128 → domUp s (128 + x.rcv / 8) = true → bitAt (ndlOf t x.rcv).ipend 1 = true ∧
        tabGet 0 t.mem.skm (skmKey (x.rcv / 8) x.skword) = payload.zeroExtend 72 + (tag.zeroExtend 72 <<< 64))) ∧
    (Answers (.mailboxRead req box) s fun t => answered t (rword s .MBX_MSG 0 m 0) ∧
      (∀ w, w < 3 → tabGet none t.bus.latched (stageKey req (regKey .MBX_MSG 0 m w)) = some (BitVec.ofNat 32 (rword s .MBX_MSG 0 m w))) ∧
      others t ∧ (x.rcv = req → x.rcv < 128 + 8 → x.full = true → mbxOf t m = { x with full := false, coll := false, tmo := false, origin := none }) ∧
      (x.rcv ≠ req → mbxOf t m = x)) ∧
    (x.full = true → x.tmo = false → late = true → Answers (.mailboxTimeout box) s fun t => others t ∧ mbxOf t m = { x with tmo := true } ∧
      fld t F.MBX_CNT_TMO = one (fld s F.MBX_CNT_TMO) F.MBX_CNT_TMO.width ∧
      ((∀ b, b < 256 → cross b = false) → fld t F.MBX_CNT_CROSS = fld s F.MBX_CNT_CROSS ∧ (domUp s 213 = true → (srcOf t 729).pend = true)) ∧
      ∀ b, b < 256 → (∀ j, j < 256 → (cross j = true ↔ j = b)) →
        fld t F.MBX_CNT_CROSS = one (fld s F.MBX_CNT_CROSS) F.MBX_CNT_CROSS.width ∧ fclLatched t 19 = true) ∧
    (x.full = false ∨ x.tmo = true ∨ late = false → Answers (.mailboxTimeout box) s fun t => t = s) ∧
    (y.owner = none → Answers (.semLockRead req sem) s fun t => answered t 0 ∧ semOf t i = { y with owner := some req.val } ∧ alone t) ∧
    (∀ o, y.owner = some o → Answers (.semLockRead req sem) s fun t => answered t 1 ∧ semOf t i = { y with want := true } ∧ alone t ∧
      fld t F.SEM_CNT_BUSYRD = one (fld s F.SEM_CNT_BUSYRD) F.SEM_CNT_BUSYRD.width) ∧
    (y.owner = some req.val → Answers (.semRelease req sem) s fun t => semOf t i = .reset ∧ alone t ∧
      (y.want = true → domUp s 213 = true → (srcOf t 730).pend = true)) ∧
    (y.owner ≠ some req.val → Answers (.semRelease req sem) s fun t => t.sem = s.sem ∧
      fld t F.SEM_CNT_BADREL = one (fld s F.SEM_CNT_BADREL) F.SEM_CNT_BADREL.width) ∧
    (accepts .SEM_REVOKE 0 0 a neverBusy anyOk s = true →
      let own (j : Nat) : Bool := (semOf s j).owner == some (valOf (commitVals s .SEM_REVOKE 0 0 a) F.SEM_REVOKE_RID)
      Answers (.semRevoke a) s fun t => fld t F.SEM_REVOKE_DONE = ((List.range 256).filter own).length ∧
        ∀ j, j < 256 → semOf t j = if own j then .reset else semOf s j)

/-- While the base domain operates, a read of SEM_LOCKs is read-to-acquire. If the semaphore is free, the read returns 0 to the reader and the semaphore becomes held with the reader as OWNER; no register word changes. If the semaphore is held, by whomever, the reader itself included, the read returns 1, sets WANT, keeps the owner and increments SEM_CNT.BUSYRD, which stops at its maximum; no other register word changes. In both cases no other semaphore, no mailbox, no interrupt source and no memory changes. -/
def Obligations.SemaphoreReadAcquires : Prop :=
  ∀ (req : Req) (sem : Fin 256) (s : State), baseUp s = true →
    let y := semOf s sem.val
    let rest (t : State) : Prop := (∀ j : Nat, j ≠ sem.val → semOf t j = semOf s j) ∧ t.mbx = s.mbx ∧ t.ict = s.ict ∧ t.mem = s.mem
    (y.owner = none → Answers (.semLockRead req sem) s fun t => tabGet 0 t.bus.answers req.val = 0 ∧
      semOf t sem.val = { y with owner := some req.val } ∧ t.bus.regs = s.bus.regs ∧ rest t) ∧
    (∀ o, y.owner = some o → Answers (.semLockRead req sem) s fun t => tabGet 0 t.bus.answers req.val = 1 ∧
      semOf t sem.val = { y with want := true } ∧ (semOf t sem.val).owner = some o ∧
      fld t F.SEM_CNT_BUSYRD = min (fld s F.SEM_CNT_BUSYRD + 1) (2 ^ F.SEM_CNT_BUSYRD.width - 1) ∧ RegsBut [regKey .SEM_CNT 0 0 0] s t ∧ rest t)

/-- For a requester's access to a word of a READY bay that its size and alignment allow and that no pause or throttle delays, without faults on the interface: a read of a word that has at most one upset bit among its 80 stored bits answers the part read of the word that was written there; the word's errors are gone, no word of memory is changed, and the corrected error is counted and its address captured. A write of 64 or 72 bits stores its word without looking at the old one; a narrower write of a word with at most one upset bit replaces the bytes it covers and keeps the rest and the tag; either leaves the word without error and every other word as it was. An access outside every region, which includes a bay that is not READY, is refused with bus error UNMAPPED and changes no memory. The end of a disturbance window clears the channel's trackers and throttles and takes MCH_RDCFG into force. A refresh, in every bay state but OFF and outside a pause, goes to the next of the 16 banks. A scrub step of an enabled channel of a READY bay, outside a pause, corrects its burst of four words where each has at most one upset bit, changes no word of memory and goes on to the next burst; a disabled one does nothing. -/
def Obligations.MemoryCorrectsReadsAndStoresWrites : Prop :=
  ∀ (req : Req) (addr : BitVec 48) (bits : Nat) (data : Native) (ch : Fin 16) (b o : Nat) (s : State),
    let a := addr.toNat
    let x := o / 8
    let c := rldCh b x
    let w := rldWord s b x
    let m := mchOf s ch
    let flips (t : State) (j : Nat) : BitVec 80 := tabGet 0 t.mem.rldFlip j
    let words (t : State) : Prop := ∀ j, tabGet 0 t.mem.rld j = tabGet 0 s.mem.rld j
    let sound (f : BitVec 80) : Prop := f = 0 ∨ ∃ i, i < 80 ∧ f.toNat = 2 ^ i
    (baseUp s = true → regionOf s a = some (.rld b o) → sizeRefused (.rld b o) bits a req = false → rldWaits s a req = false →
      (sound (flips s (rldKey b x)) → Answers (.rldRead req addr bits .none) s fun t =>
        tabGet 0 t.bus.answers req = (readPart w bits o).toNat ∧ words t ∧ flips t (rldKey b x) = 0 ∧
        (∀ j, j ≠ rldKey b x → flips t j = flips s j) ∧
        (flips s (rldKey b x) = 0 → fld t F.MCH_ECC_CE c = fld s F.MCH_ECC_CE c) ∧
        (flips s (rldKey b x) ≠ 0 → fld t F.MCH_ECC_CE c = min (fld s F.MCH_ECC_CE c + 1) (2 ^ F.MCH_ECC_CE.width - 1) ∧
          fld t F.MCH_CEADDR_U c = rldU x % 2 ^ 28)) ∧
      (64 ≤ bits ∨ sound (flips s (rldKey b x)) → Answers (.rldWrite req addr bits data .none) s fun t =>
        rldWord t b x = mergePart w bits o data ∧ flips t (rldKey b x) = 0 ∧
        ∀ j, j ≠ rldKey b x → tabGet 0 t.mem.rld j = tabGet 0 s.mem.rld j ∧ flips t j = flips s j)) ∧
    (baseUp s = true → regionOf s a = none →
      Answers (.rldRead req addr bits .none) s (fun t => t.mem = s.mem ∧ tabGet 0 t.bus.answers req = 0 ∧ RefusedWith req a false .unmapped s t) ∧
      Answers (.rldWrite req addr bits data .none) s fun t => t.mem = s.mem ∧ RefusedWith req a true .unmapped s t) ∧
    (Answers (.rdWindowEnd ch) s fun t => mchOf t ch = { m with track := [], throttles := [], rdcfg := some (rword s .MCH_RDCFG ch 0 0) }) ∧
    ((bayOf s (ch.val / 4)).st ≠ .off → m.pause = none → Answers (.rldRefresh ch) s fun t =>
      mchOf t ch = { m with refreshAt := (m.refreshAt + 1) % 16 }) ∧
    (flag s F.MCH_CTRL_SCRUB ch = true → bayReady s (ch.val / 4) = true → m.pause = none →
      (∀ i, i < 4 → sound (flips s (rldKey (ch.val / 4) (rldX ch (4 * m.scrubAt + i))))) → Answers (.rldScrub ch .none) s fun t =>
        (mchOf t ch).scrubAt = (m.scrubAt + 1) % 2 ^ 26 ∧ words t ∧
        ∀ i, i < 4 → flips t (rldKey (ch.val / 4) (rldX ch (4 * m.scrubAt + i))) = 0) ∧
    (flag s F.MCH_CTRL_SCRUB ch = false → Answers (.rldScrub ch .none) s fun t => t = s)

/-- The end of a bay's bring-up or restore makes it READY, with drift, pause and scrub position of its four channels at their starts. An accepted RESTORE leaves every word of the bay zero without error and no word of another bay changed, and its captures gone, in RESTORE. An accepted FREEZE leaves the bay FROZEN with its first channel's capture of kind 5, the committing requester and address 0, and no word changed. A failed training at bring-up or restore freezes the bay with the channel's capture of kind 4, requester 0xFF, and latches RLDTRN. An accepted write of MCH_DIAGA clears MCH_DIAGR and issues one raw read; its data come as the raw word that stands there with the interface's flips, and its syndrome; without data TMO is set. The end of a retraining procedure ends the pause and counts the procedure as the one it was; one that succeeded clears drift; one that failed keeps it and latches RLDTRN. A drift reading of a READY bay's channel keeps the largest; where that calls for a forced procedure it starts at once, counted and raised as RLDFORCE, or waits for the pause in progress to end. -/
def Obligations.BaysTrainFreezeAndReturn : Prop :=
  ∀ (req : Req) (bay : Fin 4) (ch : Fin 16) (a : Acc) (flip : BitVec 80) (drift : BitVec 8) (t0 : Nat) (full : Bool) (s : State),
    let b := bay.val
    let c := ch.val
    let m := mchOf s c
    let st := (bayOf s (c / 4)).st
    let raw (x : Nat) : Nat := rldRaw s b x ^^^ flip.toNat
    let d := { m with drift := max m.drift drift.toNat }
    let cmd (op : Nat) : Prop := accepts .MCH_BAYCMD (4 * b) 0 ⟨req, .normal, BitVec.ofNat 32 op⟩ (bayCmdBusy b s) anyOk s = true
    let captured (t : State) (fr kind r : Nat) : Prop := flag t F.MCH_UE_VALID fr = true ∧ fld t F.MCH_UE_KIND fr = kind ∧
      fld t F.MCH_UE_U fr = 0 ∧ fld t F.MCH_UE_REQ fr = r
    (((bayOf s b).st = .init ∨ (bayOf s b).st = .restore) → Answers (.bayReady bay) s fun t => bayReady t b = true ∧
      (domUp s 213 = true → (srcOf t (689 + b)).pend = true) ∧
      ∀ k, k < 4 → (mchOf t (4 * b + k)).drift = 0 ∧ (mchOf t (4 * b + k)).pause = none ∧ (mchOf t (4 * b + k)).scrubAt = 0) ∧
    (cmd 1 → Answers (.rldRestore req bay) s fun t => (bayOf t b).st = .restore ∧
      (∀ x, x < 2 ^ 30 → rldWord t b x = 0 ∧ tabGet 0 t.mem.rldFlip (rldKey b x) = 0) ∧
      (∀ j : Nat, j / 2 ^ 30 ≠ b → tabGet 0 t.mem.rld j = tabGet 0 s.mem.rld j) ∧ ∀ k, k < 4 → flag t F.MCH_UE_VALID (4 * b + k) = false) ∧
    (cmd 2 → Answers (.rldFreeze req bay) s fun t => (bayOf t b).st = .frozen ∧ (bayOf t b).fch = 0 ∧ captured t (4 * b) 5 req ∧
      t.mem.rld = s.mem.rld) ∧
    (baseUp s = true → st = .init ∨ st = .restore → Answers (.trainingFailure ch) s fun t => (bayOf t (c / 4)).st = .frozen ∧
      (bayOf t (c / 4)).fch = c % 4 ∧ captured t c 4 255 ∧ fclLatched t 0x0B = true) ∧
    (accepts .MCH_DIAGA (4 * b) 0 a (fun _ => busyIf (decide ((bayOf s b).st ≠ .frozen))) anyOk s = true → Answers (.mchDiagaWrite bay a) s fun t =>
      tabGet none t.mem.diag b = some (valOf (commitVals s .MCH_DIAGA (4 * b) 0 a) F.MCH_DIAGA_X) ∧ flag t F.MCH_DIAGR_VALID (4 * b) = false) ∧
    (∀ x, tabGet none s.mem.diag b = some x →
      (Answers (.diagReadComplete bay [] flip false) s fun t => tabGet none t.mem.diag b = none ∧ flag t F.MCH_DIAGR_VALID (4 * b) = true ∧
        fld t F.MCH_DIAGR_SYND (4 * b) = syndrome (raw x) (rldU x) ∧
        fld t F.MCH_DIAGR_RAWHI (4 * b) * 2 ^ 64 + fld t F.MCH_DIAGR_RAWMID (4 * b) * 2 ^ 32 + fld t F.MCH_DIAGR_RAWLO (4 * b) = raw x % 2 ^ 80) ∧
      Answers (.diagReadComplete bay [] flip true) s fun t => tabGet none t.mem.diag b = none ∧ flag t F.MCH_DIAGR_TMO (4 * b) = true) ∧
    (m.pause = some (t0, full) → let n := if full then F.MCH_TRNCNT0_FULL else F.MCH_TRNCNT0_QUICK
      (Answers (.retrainPauseEnd ch true) s fun t => mchOf t c = { m with drift := 0, dueAt := none, pause := none, forcedWait := false } ∧
        fld t n c = min (fld s n c + 1) (2 ^ n.width - 1)) ∧
      (m.forcedWait = false → baseUp s = true → Answers (.retrainPauseEnd ch false) s fun t => mchOf t c = { m with pause := none } ∧
        fld t n c = min (fld s n c + 1) (2 ^ n.width - 1) ∧ fclLatched t 0x0B = true)) ∧
    (bayReady s (c / 4) = true → let forced (t : State) : Bool := decide ((mchOf t c).drift ≥ fld s F.MCH_CTRL_DHARD c) ||
        (match (mchOf t c).dueAt with | some q => decide (s.now - q ≥ fld s F.MCH_CTRL_FORCE c * 1000000) | none => false)
      Answers (.forcedRetrain ch drift) s fun t => (mchOf t c).drift = d.drift ∧ ((mchOf t c).dueAt.isSome = decide (fld s F.MCH_CTRL_DTH c ≤ d.drift)) ∧
        (forced t = false → (mchOf t c).pause = m.pause) ∧
        (forced t = true → m.pause.isSome = true → (mchOf t c).pause = m.pause ∧ (mchOf t c).forcedWait = true) ∧
        (forced t = true → m.pause = none → (mchOf t c).pause = some (s.now, false) ∧
          fld t F.MCH_TRNCNT1_FORCED c = min (fld s F.MCH_TRNCNT1_FORCED c + 1) (2 ^ F.MCH_TRNCNT1_FORCED.width - 1) ∧
          (domUp s 213 = true → (srcOf t 717).pend = true)))

/-- An accepted START (R544) puts the channel in FETCH at the 64-byte descriptor address written, with the last chain's RESULT, DETAIL and DESCS cleared and no other channel changed. An accepted ABORT makes a fetching or moving channel ABORTING. A fetch of a descriptor in core SRAM reads its 64 bytes whole: where a condition of R533 holds, the chain ends at once with RESULT 3, the condition's offset in DETAIL, all LEN elements in RESID, none in DDONE, the claim gone, one more in ERRORS and PRTERR raised; where none holds, and no handle is to be checked and the mode is not LFI, the channel goes to MOVE at SADDR and DADDR. An abort that fell in the fetch ends the chain after it, with RESULT 1, one more in ABORTS and PRTDONE raised. A burst of 64-bit elements between INC sides in core SRAM (no flags, NEXT 0) reads the next up to 32 elements and then writes them: every destination byte is the source byte from before the burst, every other byte of core SRAM is unchanged, and the channel goes on behind them, or, behind the last, ends the chain with RESULT 0, RESID 0 and DDONE = LEN, IDLE. -/
def Obligations.PortersRunTheirChains : Prop :=
  ∀ (req : Req) (ch : Fin 64) (addr : BitVec 48) (o a b : Nat) (s : State),
    let n := ch.val
    let g := n / 16
    let c := n % 16
    let x := prtOf s n
    let ws := [addr.toNat % 2 ^ 32 / 64 * 64, 2 ^ 31 + addr.toNat / 2 ^ 32]
    let others (t : State) : Prop := ∀ j, j ≠ n → prtOf t j = prtOf s j
    let y := { x with desc := (List.range 64).map fun i => (sramByte s (o + i)).toNat }
    let fetched : Prop := domUp s (204 + g) = true ∧ x.cur = 0x10000000 + o ∧ o % 8 = 0 ∧ o + 64 ≤ 0x800000
    let ended (t : State) (res detail resid ddone : Nat) : Prop := prtOf t n = { Prt.reset with st := .idle, cur := x.cur } ∧ fld t F.PRT_STAT_RESULT g c = res ∧
      fld t F.PRT_STAT_DETAIL g c = detail ∧ fld t F.PRT_RESID_RESID g c = resid ∧ fld t F.PRT_DDONE_DDONE g c = ddone
    let m := min 32 (pd x 0x18 4 - x.taken)
    (acceptsWords .PRT_DESC g c req ws (prtDescBusy s n) anyOk s = true → Answers (.prtStart req ch addr) s fun t => others t ∧
      prtOf t n = { Prt.reset with st := .fetch, cur := addr.toNat / 64 * 64 } ∧ fld t F.PRT_STAT_RESULT g c = 0 ∧ fld t F.PRT_STAT_DETAIL g c = 0 ∧
      fld t F.PRT_STAT_DESCS g c = 0) ∧
    (accepts .PRT_CMD g c ⟨req, .normal, 1⟩ (prtCmdBusy s n) anyOk s = true → Answers (.prtAbort req ch) s fun t => others t ∧ t.mem = s.mem ∧
      (x.st = .fetch ∨ x.st = .move → prtOf t n = { x with st := .aborting }) ∧ (x.st = .aborting → prtOf t n = x)) ∧
    (fetched → x.st = .fetch → ∀ d, d < 64 → descFault s y = some d → Answers (.descriptorFetch ch) s fun t => others t ∧ t.mem = s.mem ∧
      ended t 3 d (pd y 0x18 4) 0 ∧ fld t F.PRT_GCNT_ERRORS g = min (fld s F.PRT_GCNT_ERRORS g + 1) 65535 ∧ (domUp s 213 = true → (srcOf t (401 + n)).pend = true)) ∧
    (fetched → x.st = .fetch → descFault s y = none → pd y 0x20 1 ≠ 3 → pdFlag y 1 = false → pdFlag y 2 = false → Answers (.descriptorFetch ch) s fun t =>
      others t ∧ t.mem = s.mem ∧ prtOf t n = { y with st := .move, src := pd y 0 6, dst := pd y 8 6 }) ∧
    (fetched → x.st = .aborting → x.desc = [] → pd y 0x20 1 ≠ 3 → x.written = 0 → Answers (.descriptorFetch ch) s fun t => others t ∧ t.mem = s.mem ∧
      ended t 1 0 (pd y 0x18 4) 0 ∧ fld t F.PRT_GCNT_ABORTS g = min (fld s F.PRT_GCNT_ABORTS g + 1) 65535 ∧ (domUp s 213 = true → (srcOf t (337 + n)).pend = true)) ∧
    (domUp s (204 + g) = true → x.st = .move → pd x 0x1E 1 = 3 → pd x 0x1F 1 = 3 → pd x 0x20 1 = 0 → pd x 0x21 1 = 0 → pd x 0x22 1 = 0 → pd x 0x30 6 = 0 →
      x.hold = 0 → x.bits = 0 → x.written = x.taken → x.taken < pd x 0x18 4 → x.src + 8 * x.taken = 0x10000000 + a → x.dst + 8 * x.taken = 0x10000000 + b → a % 8 = 0 → b % 8 = 0 →
      a + 8 * m ≤ 0x800000 → b + 8 * m ≤ 0x800000 → Answers (.porterBurst ch) s fun t => others t ∧
        (∀ j, b ≤ j → j < b + 8 * m → sramByte t j = sramByte s (a + (j - b))) ∧ (∀ j, j < b ∨ b + 8 * m ≤ j → sramByte t j = sramByte s j) ∧
        (x.taken + m < pd x 0x18 4 → prtOf t n = { x with taken := x.taken + m, written := x.taken + m }) ∧
        (x.taken + m = pd x 0x18 4 → ended t 0 0 0 (pd x 0x18 4) ∧ fld t F.PRT_STAT_DESCS g c = min (fld s F.PRT_STAT_DESCS g c + 1) 65535))

/-- The link of an enabled port that is no gang's member comes up with block lock, FEC lock and, for a gang's lead, alignment, and ETHLINK rises where it was down; no queue, no frame in progress and no other port changes. The link of a port going down leaves every queue of the port empty and no frame in progress, and no other port changed. A usable port counts a frame as BAD when its FCS failed or its length is below 64 or above MAXLEN, and keeps nothing of it; a good frame that is no MAC control frame, fits the ingress buffer and is taken by no PTP domain is counted and joins the classifier's queue with its time and position. A pass takes a recirculated frame before an arrived one. With every table disabled a frame without destination is lost and counted as NODEST. With table 0 alone enabled the lowest matching entry acts, its HITS go up by one and no other entry changes: with DEST 5 the frame is gone; with RECIRC before its third pass the frame waits for another pass with what the action wrote into it. A taken commit of CT_ENTRY leaves the entry with its key, mask, action and no hits, readable, and no other entry changed. -/
def Obligations.SwitchTakesAndClassifiesFrames : Prop :=
  ∀ (port : Fin 24) (data : List Byte) (fcs block fec align : Bool) (corr uncorr : Byte) (a : Acc) (f : InFrame) (r : List InFrame) (y : Ssw) (s : State),
    let p := port.val
    let e := ethOf s p
    let alone (t : State) : Prop := ∀ j : Nat, j ≠ p → ethOf t j = ethOf s j
    let b := data.map BitVec.toNat
    let l := b.length + 4
    let bad : Prop := fcs = false ∨ l < 64 ∨ l > fld s F.ETH_CFG_MAXLEN p
    let heard : Prop := portUsable s p = true ∧ domUp s (176 + p / 4) = true
    let one (n w : Nat) : Nat := min (n + 1) (2 ^ w - 1)
    let took : Prop := domUp s 200 = true ∧ ((s.ssw.recirc = f :: r ∧ y = { s.ssw with recirc := r }) ∨ (s.ssw.recirc = [] ∧ s.ssw.inq = f :: r ∧ y = { s.ssw with inq := r }))
    let h := parse s f.data
    let g := { f with md := mdPut (mdPut f.md 61 1 (b2n h.perr)) 59 2 f.pass }
    let i := ctActing s 0 (ctKey s 0 (pfield f.data h f.port g.md.toNat))
    let c := ctOf s 0 i
    let a0 := actWord c.action 0
    let a3 := actWord c.action 3
    let first : Prop := flag s F.CT_CFG_EN 0 0 = true ∧ (∀ n : Nat, 1 ≤ n → n < 6 → flag s F.CT_CFG_EN 0 n = false) ∧ bitAt a0 10 = false ∧ bitAt a0 17 = false ∧ bitAt a0 11 = false
    let hit (t : State) : Prop := ctOf t 0 i = { c with hits := (c.hits + 1) % 2 ^ 32 } ∧ ∀ n, n ≠ i → tabGet .reset t.ssw.ct n = tabGet .reset s.ssw.ct n
    let m := { g with md := mdWrite g.md (bitsOf a3 30 2) (bitsOf (actWord c.action 1) 16 16) (bitsOf (actWord c.action 1) 0 16), cls := if bitAt a3 29 then actWord c.action 2 else f.cls }
    let v := commitVals s .CT_ENTRY 0 0 a
    let n := 256 * valOf v F.CT_ENTRY_TABLE + valOf v F.CT_ENTRY_INDEX
    (flag s F.ETH_CFG_EN p = true → gangMember s p = false → domUp s (176 + p / 4) = true → Answers (.ethLinkUp port) s fun t => alone t ∧
      ethOf t p = { e with link := true, block := true, fecLock := true, align := gangLead s p } ∧
      (e.link = false → domUp s 213 = true → (srcOf t (593 + p)).pend = true)) ∧
    (e.link = true → Answers (.ethLinkDown port block fec align) s fun t => alone t ∧ (ethOf t p).link = false ∧ (ethOf t p).block = block ∧
      (ethOf t p).fecLock = fec ∧ (ethOf t p).align = align ∧ (ethOf t p).cur = none ∧ ∀ q, (egQ t p q).frames = []) ∧
    (heard → bad → Answers (.frameReceive port data fcs corr uncorr) s fun t => t.ssw = s.ssw ∧ t.eth = s.eth ∧
      fld t F.ETH_RXERR_BAD p = one (fld s F.ETH_RXERR_BAD p) F.ETH_RXERR_BAD.width) ∧
    (heard → ¬bad → beNat b 12 2 ≠ 0x8808 → inBytes s p + l ≤ (if gangLead s p then 1048576 else 262144) → ptpTakes s p b = false → domUp s 200 = true →
      Answers (.frameReceive port data fcs corr uncorr) s fun t => t.eth = s.eth ∧ fld t F.ETH_RXCNT_RX p = (fld s F.ETH_RXCNT_RX p + 1) % 2 ^ 32 ∧
        t.ssw = { s.ssw with inq := s.ssw.inq ++ [⟨p, b, secNow s, nsNow s, (posNow s).1, (posNow s).1 * fld s F.RCK_FMT_LINES + (posNow s).2.1,
          BitVec.ofNat 64 (fld s F.ETH_CFG_PMETA p), 0, .none, none, 0⟩] }) ∧
    (took → (∀ n : Nat, n < 6 → flag s F.CT_CFG_EN 0 n = false) → f.dst = .none → Answers (.classifierPass []) s fun t => t.ssw = y ∧
      fld t F.SSW_CNT0_NODEST = one (fld s F.SSW_CNT0_NODEST) F.SSW_CNT0_NODEST.width) ∧
    (took → first → bitsOf a0 29 3 = 5 → bitAt a0 16 = false → Answers (.classifierPass []) s fun t => hit t ∧ t.ssw.inq = y.inq ∧ t.ssw.recirc = y.recirc) ∧
    (took → first → bitsOf a0 29 3 < 6 → bitAt a0 16 = true → f.pass < 2 → Answers (.classifierPass []) s fun t => hit t ∧ t.ssw.inq = y.inq ∧
      t.ssw.recirc = y.recirc ++ [{ setDest (bitsOf a0 29 3) (bitsOf a0 24 5) (bitsOf a0 18 6) m with pass := f.pass + 1 }]) ∧
    (accepts .CT_ENTRY 0 0 a neverBusy ctEntryOk s = true → Answers (.ctEntryCommit a) s fun t =>
      tabGet .reset t.ssw.ct n = ⟨wordsNat v 0 4, wordsNat v 4 4, wordsNat v 8 4, valOf v F.CT_ENTRY_VALID == 1, 0⟩ ∧ n ∉ t.ssw.ctBroken ∧
      ∀ j, j ≠ n → tabGet .reset t.ssw.ct j = tabGet .reset s.ssw.ct j)

/-- At a usable port a frame in progress whose wire time has not passed stays, and nothing else happens. An idle port whose head frames all fitted when their windows opened starts the head of its highest eligible queue among 48 to 63: the frame leaves the queue, occupies the port until now plus its wire time, is counted in TX, and its bucket, if it has one, is charged its length plus 20 bytes in SHAPE and counts the frame; no other queue of the port and no other port changes. A head frame that did not fit its window is discarded once the gate has closed, and counted in GATEDROP. An observation looks at every queue of every enabled port, and at no other queue, and starts a new period behind the last of one. A taken commit of EG_POL leaves the policer configured with both buckets full, its frame counts kept and no other policer changed. A taken SSW_TX with a handle that the Stalls refuse counts TXREF and changes no port; with a good handle of a buffer in a READY bay whose words hold no error, the frame's bytes join the queue named, where it has room. -/
def Obligations.EgressStartsDropsAndObserves : Prop :=
  ∀ (port : Fin 24) (queue : Fin 64) (a : Acc) (s : State),
    let p := port.val
    let q := queue.val
    let e := ethOf s p
    let alone (t : State) : Prop := ∀ j : Nat, j ≠ p → ethOf t j = ethOf s j
    let tail (t : State) (f : EgFrame) (r : List EgFrame) : Prop := (egQ s p q).frames = f :: r ∧ egQ t p q = { egQ s p q with frames := r } ∧ ∀ j, j ≠ q → egQ t p j = egQ s p j
    let last := decide (s.ssw.smpl + 1 ≥ fld s F.EG_SMPL_PER)
    let v := commitVals s .EG_POL 0 0 a
    let n := valOf v F.EG_POL_INDEX
    let x := commitVals s .SSW_TX 0 0 a
    let h := valOf x F.SSW_TX_HANDLE
    let l := valOf x F.SSW_TX_LEN
    let tp := valOf x F.SSW_TX_PORT
    let tq := valOf x F.SSW_TX_QUEUE
    let tx : Prop := accepts .SSW_TX 0 0 a (sswTxBusy s) (sswTxOk s) s = true
    (∀ k fin f, portUsable s p = true → e.cur = some (k, fin, f) → s.now * 100 < fin → Answers (.egressSelect port) s fun t => t = s) ∧
    (∀ f r, portUsable s p = true → e.cur = none → 48 ≤ q → egEligible s p q = true → (∀ j, q < j → j < 64 → egEligible s p j = false) →
      (∀ j g k, j < 64 → (egQ s p j).frames = g :: k → g.nofit = false) → (egQ s p q).frames = f :: r → Answers (.egressSelect port) s fun t => alone t ∧ tail t f r ∧
        (ethOf t p).cur = some (q, s.now * 100 + wireTime s p (egLen f), f) ∧ fld t F.ETH_TXCNT_TX p = (fld s F.ETH_TXCNT_TX p + 1) % 2 ^ 32 ∧
        ∀ b, bktUsed s f = some b → let y := bktFill s.now (bktOf s b)
          bktOf t b = { y with tokens := if y.mode = 1 then y.tokens - (egLen f + 20) else y.tokens, frames := (y.frames + 1) % 2 ^ 32 }) ∧
    (∀ f r, (egQ s p q).frames = f :: r → f.nofit = true → gated s p q = true → gateBit s p q = false → Answers (.gateDrop port queue) s fun t => alone t ∧ tail t f r ∧
      fld t F.EG_PCNT0_GATEDROP p = min (fld s F.EG_PCNT0_GATEDROP p + 1) 255 ∧ (domUp s 213 = true → (srcOf t (617 + p)).pend = true)) ∧
    (domUp s 200 = true → Answers .queueMonitorSample s fun t => t.ssw.smpl = (if last then 0 else s.ssw.smpl + 1) ∧
      ∀ i j : Nat, egQ t i j = if i < 24 ∧ j < 64 ∧ flag s F.ETH_CFG_EN i = true then observe s.now last (egQ s i j) else egQ s i j) ∧
    (accepts .EG_POL 0 0 a neverBusy egPolOk s = true → Answers (.egPolCommit a) s fun t => (∀ j, j ≠ n → polOf t j = polOf s j) ∧ polOf t n =
      { type := valOf v F.EG_POL_TYPE, aware := valOf v F.EG_POL_AWARE == 1, pcsrc := valOf v F.EG_POL_PCSRC == 1, cir := valOf v F.EG_POL_CIR, pir := valOf v F.EG_POL_PIR,
        cbs := valOf v F.EG_POL_CBS, ebs := valOf v F.EG_POL_EBS, c := valOf v F.EG_POL_CBS, e := valOf v F.EG_POL_EBS, partC := 0, partE := 0, at_ := s.now,
        green := (polOf s n).green, yellow := (polOf s n).yellow, red := (polOf s n).red }) ∧
    (∀ c, tx → handleCheck s h (200 + tp / 4) false = some c → Answers (.sswTx a) s fun t => t.eth = s.eth ∧
      fld t F.SSW_CNT2_TXREF = min (fld s F.SSW_CNT2_TXREF + 1) (2 ^ F.SSW_CNT2_TXREF.width - 1)) ∧
    (∀ b o, tx → handleCheck s h (200 + tp / 4) false = none → spanCheck s h 0 ((l + 7) / 8) = none → b < 4 → bayReady s b = true →
      bufAddr s (bitsOf h 26 6) (bitsOf h 8 18) = 0x100000000000 + b * 0x200000000 + 8 * o → o + (l + 7) / 8 ≤ 0x40000000 →
      (∀ i, i < (l + 7) / 8 → tabGet 0 s.mem.rldFlip (rldKey b (o + i)) = 0) → portUsable s tp = true →
      let f : EgFrame := ⟨(List.range l).map fun i => (rldWord s b (o + i / 8)).toNat / 256 ^ (i % 8) % 256, s.now, none, none, some h, true, false⟩
      bufBytes (egQ s tp tq).frames + egLen f ≤ fld s F.EG_QCFG_QLIM tp tq * 4096 → portBytes s tp + egLen f ≤ egBuffer s tp → Answers (.sswTx a) s fun t =>
        egQ t tp tq = { egQ s tp tq with frames := (egQ s tp tq).frames ++ [f] } ∧ (∀ j, j ≠ tq → egQ t tp j = egQ s tp j) ∧ ∀ j, j ≠ tp → ethOf t j = ethOf s j)

/-- A taken committing write of EG_BKT sets the count of the bucket that INDEX names to BURST, whatever its mode, with no part of a byte, its fields are the values written, its frame count is kept, and no other bucket, no policer, no classifier entry and no port changes. -/
def Obligations.BucketCommitFillsTheBucket : Prop :=
  ∀ (a : Acc) (s : State), accepts .EG_BKT 0 0 a neverBusy egBktOk s = true →
    let v := commitVals s .EG_BKT 0 0 a
    let n := valOf v F.EG_BKT_INDEX
    Answers (.egBktCommit a) s fun t => (bktOf t n).tokens = valOf v F.EG_BKT_BURST ∧ (bktOf t n).part = 0 ∧ (bktOf t n).at_ = s.now ∧
      (bktOf t n).burst = valOf v F.EG_BKT_BURST ∧ (bktOf t n).mode = valOf v F.EG_BKT_MODE ∧ (bktOf t n).rate = valOf v F.EG_BKT_RATE_TRS ∧
      (bktOf t n).npkt = valOf v F.EG_BKT_NPKT ∧ (bktOf t n).troLine = valOf v F.EG_BKT_TROLINE ∧ (bktOf t n).troTick = valOf v F.EG_BKT_TROTICK ∧
      (bktOf t n).frames = (bktOf s n).frames ∧ (∀ j, j ≠ n → bktOf t j = bktOf s j) ∧ t.ssw.pol = s.ssw.pol ∧ t.ssw.ct = s.ssw.ct ∧ t.eth = s.eth

/-- A taken FT_CMD with an operand that its operation allows becomes the engine's software command: LOOKUP, INSERT and DELETE with the key written, WRITE_INDEX with entry and index, READ_INDEX with the index, FLUSH; no slot changes before the engine's steps, and the other parts of the table are unchanged. LOOKUP and INSERT of an EGRESS or undefined key are answered at once with result BADKEY (5) for the requester, and nothing starts. The engine takes the oldest learning request when it performs none and has no command: the request leaves the queue, one bucket read is done, and no slot has changed. EPOCH advances by one when its period has passed, with AGEEN a sweep starts at index 0, and a sweep still unfinished is counted in SWLATE; before that time nothing happens. A step of the sweep that neither operation needs visits one slot: it invalidates exactly a valid, non-static, non-moving entry older than ALIM and counts it in AGED, and goes on to the next slot or, behind the last, ends. -/
def Obligations.FlowTableTakesCommandsLearnsAndAges : Prop :=
  ∀ (req : Req) (key result : DWord) (ktag rtag : Byte) (index : BitVec 17) (s : State),
    let w0 : Native := BitVec.ofNat 72 (ktag.toNat * 2 ^ 64 + key.toNat)
    let w1 : Native := BitVec.ofNat 72 (rtag.toNat * 2 ^ 64 + result.toNat)
    let ok (r ty tg op : Nat) (k : DWord) : Prop := acceptsWords .FT_CMD 0 0 req [k.toNat % 2 ^ 32, k.toNat / 2 ^ 32, ty, r % 2 ^ 32, r / 2 ^ 32, tg, op] (ftBusy s) anyOk s = true
    let k := ktag.toNat
    let waits := s.ft.op.isSome
    let runs (t : State) (kind : FtKind) (a b : Native) (i reads : Nat) : Prop := t.ft = { s.ft with sw := some ⟨kind, req.val, a, b, i, reads, [], none, false, false, waits⟩ }
    let refused (t : State) : Prop := t.ft = s.ft ∧ rwordQ t .FT_RES req.val 0 0 0 = 5 * 2 ^ 28
    let reads := (ftPlan s (ftReserved s.ft.op) (ftKtype w0) (ftKey w0)).2
    let keyed := ftKeyOk w0 = true
    let match_ := ftKeyOk w0 = true ∧ ftKtype w0 ≠ 3
    let one (n w : Nat) : Nat := min (n + 1) (2 ^ w - 1)
    (ok 0 k 0 (1 * 2 ^ 28) key → (match_ → Answers (.ftLookup req key ktag) s fun t => runs t .lookup w0 0 0 2) ∧ (¬match_ → Answers (.ftLookup req key ktag) s refused)) ∧
    (ok result.toNat k rtag.toNat (2 * 2 ^ 28) key →
      (match_ ∧ ftDestOk w1 = true → Answers (.ftInsert req key ktag result rtag) s fun t => runs t .insert w0 w1 0 reads) ∧
      (¬(match_ ∧ ftDestOk w1 = true) → Answers (.ftInsert req key ktag result rtag) s refused)) ∧
    (ok 0 k 0 (3 * 2 ^ 28) key → keyed → Answers (.ftDelete req key ktag) s fun t => runs t .delete w0 0 0 2) ∧
    (ok 0 0 0 (4 * 2 ^ 28 + index.toNat) 0 → Answers (.ftReadIndex req index) s fun t => runs t .readIdx 0 0 index.toNat 1) ∧
    (ok result.toNat k rtag.toNat (5 * 2 ^ 28 + index.toNat) key → keyed → ftDestOk w1 = true →
      Answers (.ftWriteIndex req index key ktag result rtag) s fun t => runs t .writeIdx w0 w1 index.toNat 2) ∧
    (ok 0 0 0 (6 * 2 ^ 28) 0 → Answers (.ftFlush req) s fun t => runs t .flush 0 0 0 0) ∧
    (∀ l q, domUp s 201 = true → s.ft.op = none → s.ft.sw = none → s.ft.lrn = l :: q → Answers .learnRequest s fun t => let o := learnOp s l
      1 < o.reads ∧ t.ft = { s.ft with lrn := q, op := some { o with reads := o.reads - 1 }, swNext := true }) ∧
    (domUp s 201 = true → let due := s.ft.epochAt + fld s F.FT_CFG_APER * 100000000
      (s.now < due → Answers .epochAdvance s fun t => t = s) ∧
      (due ≤ s.now → Answers .epochAdvance s fun t => t.ft = { s.ft with epoch := (s.ft.epoch + 1) % 256, epochAt := s.now, sweep := if flag s F.FT_CFG_AGEEN then some 0 else s.ft.sweep } ∧
        fld t F.FT_CNT3_SWLATE = if flag s F.FT_CFG_AGEEN && s.ft.sweep.isSome then one (fld s F.FT_CNT3_SWLATE) F.FT_CNT3_SWLATE.width else fld s F.FT_CNT3_SWLATE)) ∧
    (∀ i, domUp s 201 = true → s.ft.sw = none → s.ft.op = none → s.ft.sweep = some i →
      let old := match tabFind s.ft.slots i with
        | some (a, b) => !ftStatic a && !ftMoving a && decide ((s.ft.epoch + 256 - ftStamp b) % 256 > fld s F.FT_CFG_ALIM)
        | none => false
      Answers .ageingSweepStep s fun t => t.ft.sweep = (if i + 1 ≥ 131072 then none else some (i + 1)) ∧
        tabFind t.ft.slots i = (if old then none else tabFind s.ft.slots i) ∧ (∀ j, j ≠ i → tabFind t.ft.slots j = tabFind s.ft.slots j) ∧
        fld t F.FT_CNT2_AGED = if old then one (fld s F.FT_CNT2_AGED) F.FT_CNT2_AGED.width else fld s F.FT_CNT2_AGED)
end

