-- ==== Sys2Proof/Laws/Tables.lean ====
section
/-! SUPPORT. Laws of the sparse tables: a read after a write, other keys unchanged, and the canonical form kept by every
operation. -/

namespace Sys2Proof.Machine

variable {α : Type}

@[simp] theorem tabFind_tabErase_same (m : Tab α) (k : Nat) : tabFind (tabErase m k) k = none := by
  induction m with
  | nil => rfl
  | cons e t ih =>
    obtain ⟨a, v⟩ := e
    by_cases h : a = k
    · simp [tabErase, h, ih]
    · simp [tabErase, tabFind, h, ih]

theorem tabFind_tabErase_ne {m : Tab α} {k j : Nat} (h : j ≠ k) : tabFind (tabErase m k) j = tabFind m j := by
  induction m with
  | nil => rfl
  | cons e t ih =>
    obtain ⟨a, v⟩ := e
    by_cases hk : a = k
    · subst hk
      simp [tabErase, tabFind, ih, Ne.symm h]
    · simp [tabErase, hk, tabFind, ih]

theorem tabFind_tabInsert_same {m : Tab α} {k : Nat} (v : α) (h : tabFind m k = none) :
    tabFind (tabInsert m k v) k = some v := by
  induction m with
  | nil => simp [tabInsert, tabFind]
  | cons e t ih =>
    obtain ⟨a, w⟩ := e
    have ha : a ≠ k := by
      intro hh
      simp [tabFind, hh] at h
    have ht : tabFind t k = none := by simpa [tabFind, ha] using h
    by_cases hk : k < a
    · simp [tabInsert, tabFind, hk]
    · simp [tabInsert, tabFind, hk, ha, ih ht]

theorem tabFind_tabInsert_ne {m : Tab α} {k j : Nat} (v : α) (h : j ≠ k) :
    tabFind (tabInsert m k v) j = tabFind m j := by
  induction m with
  | nil => simp [tabInsert, tabFind, Ne.symm h]
  | cons e t ih =>
    obtain ⟨a, w⟩ := e
    by_cases hk : k < a
    · simp [tabInsert, tabFind, hk, Ne.symm h]
    · simp [tabInsert, hk, tabFind, ih]

variable [DecidableEq α]

/-- Looking up any key after a write. -/
theorem tabFind_tabSet (d : α) (m : Tab α) (k j : Nat) (v : α) :
    tabFind (tabSet d m k v) j = if j = k then (if v = d then none else some v) else tabFind m j := by
  by_cases hj : j = k
  · subst hj
    by_cases hv : v = d
    · simp [tabSet, hv, tabFind_tabErase_same]
    · simp [tabSet, hv, tabFind_tabInsert_same v (tabFind_tabErase_same m j)]
  · by_cases hv : v = d
    · simp [tabSet, hv, hj, tabFind_tabErase_ne hj]
    · simp [tabSet, hv, hj, tabFind_tabInsert_ne v hj, tabFind_tabErase_ne hj]

/-- A read after a write gives the value written. -/
@[simp] theorem tabGet_tabSet_same (d : α) (m : Tab α) (k : Nat) (v : α) : tabGet d (tabSet d m k v) k = v := by
  by_cases h : v = d
  · simp [tabSet, tabGet, h]
  · simp [tabSet, tabGet, h, tabFind_tabInsert_same v (tabFind_tabErase_same m k)]

/-- A write leaves every other key alone. -/
theorem tabGet_tabSet_ne (d : α) {m : Tab α} {k j : Nat} (v : α) (h : j ≠ k) :
    tabGet d (tabSet d m k v) j = tabGet d m j := by
  by_cases hv : v = d
  · simp [tabSet, tabGet, hv, tabFind_tabErase_ne h]
  · simp [tabSet, tabGet, hv, tabFind_tabInsert_ne v h, tabFind_tabErase_ne h]

theorem tabGet_tabSet (d : α) (m : Tab α) (k j : Nat) (v : α) :
    tabGet d (tabSet d m k v) j = if j = k then v else tabGet d m j := by
  by_cases h : j = k
  · subst h
    simp
  · simp [tabGet_tabSet_ne d v h, h]

@[simp] theorem tabGet_tabMod_same (d : α) (m : Tab α) (k : Nat) (f : α → α) :
    tabGet d (tabMod d m k f) k = f (tabGet d m k) := by simp [tabMod]

theorem tabGet_tabMod_ne (d : α) {m : Tab α} {k j : Nat} (f : α → α) (h : j ≠ k) :
    tabGet d (tabMod d m k f) j = tabGet d m j := by simp [tabMod, tabGet_tabSet_ne d _ h]

theorem tabGet_tabMod (d : α) (m : Tab α) (k j : Nat) (f : α → α) :
    tabGet d (tabMod d m k f) j = if j = k then f (tabGet d m k) else tabGet d m j := by
  by_cases h : j = k
  · subst h
    simp
  · simp [tabGet_tabMod_ne d f h, h]

/-! ### The canonical form -/

omit [DecidableEq α] in
theorem tabRising_weaken {b : Option Nat} {m : Tab α} (h : tabRising b m = true) : tabRising none m = true := by
  cases m with
  | nil => rfl
  | cons e t =>
    obtain ⟨k, v⟩ := e
    simp only [tabRising, Bool.and_eq_true] at h ⊢
    exact ⟨trivial, h.2⟩

omit [DecidableEq α] in
theorem tabRising_lower {x y : Nat} {m : Tab α} (hxy : x ≤ y) (h : tabRising (some y) m = true) :
    tabRising (some x) m = true := by
  cases m with
  | nil => rfl
  | cons e t =>
    obtain ⟨k, v⟩ := e
    simp only [tabRising, Bool.and_eq_true, decide_eq_true_eq] at h ⊢
    exact ⟨by omega, h.2⟩

omit [DecidableEq α] in
/-- A sublist chosen by a condition keeps the order. -/
theorem tabRising_filter (p : Nat × α → Bool) {b : Option Nat} {m : Tab α} (h : tabRising b m = true) :
    tabRising b (m.filter p) = true := by
  induction m generalizing b with
  | nil => rfl
  | cons e t ih =>
    obtain ⟨k, v⟩ := e
    simp only [tabRising, Bool.and_eq_true] at h
    by_cases hp : p (k, v) = true
    · simp only [List.filter_cons, hp, if_true, tabRising, Bool.and_eq_true]
      exact ⟨h.1, ih h.2⟩
    · simp only [List.filter_cons, hp, Bool.false_eq_true, if_false]
      have h2 := ih h.2
      cases b with
      | none => exact tabRising_weaken h2
      | some x =>
        simp only [decide_eq_true_eq] at h
        exact tabRising_lower (Nat.le_of_lt h.1) h2

omit [DecidableEq α] in
theorem tabErase_eq_filter (m : Tab α) (k : Nat) : tabErase m k = m.filter fun e => decide (e.1 ≠ k) := by
  induction m with
  | nil => rfl
  | cons e t ih =>
    obtain ⟨a, v⟩ := e
    by_cases h : a = k <;> simp [tabErase, h, ih]

omit [DecidableEq α] in
/-- An entry put among rising keys that do not hold its key leaves them rising. -/
theorem tabRising_tabInsert {b : Option Nat} {m : Tab α} {k : Nat} (v : α) (hb : ∀ x, b = some x → x < k)
    (hk : tabFind m k = none) (h : tabRising b m = true) : tabRising b (tabInsert m k v) = true := by
  induction m generalizing b with
  | nil =>
    cases b with
    | none => simp [tabInsert, tabRising]
    | some x => simp [tabInsert, tabRising, hb x rfl]
  | cons e t ih =>
    obtain ⟨a, w⟩ := e
    have ha : a ≠ k := by
      intro hh
      simp [tabFind, hh] at hk
    have ht : tabFind t k = none := by simpa [tabFind, ha] using hk
    simp only [tabRising, Bool.and_eq_true] at h
    by_cases hlt : k < a
    · simp only [tabInsert, hlt, if_true, tabRising, Bool.and_eq_true, decide_eq_true_eq]
      refine ⟨?_, trivial, h.2⟩
      cases b with
      | none => trivial
      | some x => simpa using hb x rfl
    · simp only [tabInsert, hlt, if_false, tabRising, Bool.and_eq_true]
      exact ⟨h.1, ih (fun x hx => by cases hx; omega) ht h.2⟩

omit [DecidableEq α] in
theorem tabInsert_all (p : Nat × α → Bool) {m : Tab α} {k : Nat} {v : α} (hv : p (k, v) = true) (h : m.all p = true) :
    (tabInsert m k v).all p = true := by
  induction m with
  | nil => simp [tabInsert, hv]
  | cons e t ih =>
    obtain ⟨a, w⟩ := e
    simp only [List.all_cons, Bool.and_eq_true] at h
    by_cases hlt : k < a
    · simp [tabInsert, hlt, hv, h.1, h.2]
    · simp [tabInsert, hlt, h.1, ih h.2]

/-- Filtering keeps the canonical form. -/
theorem tabWf_filter {d : α} {m : Tab α} (p : Nat × α → Bool) (h : tabWf d m = true) : tabWf d (m.filter p) = true := by
  simp only [tabWf, Bool.and_eq_true] at h ⊢
  refine ⟨tabRising_filter p h.1, ?_⟩
  simp only [List.all_eq_true, List.mem_filter] at h ⊢
  exact fun x hx => h.2 x hx.1

theorem tabWf_tabErase {d : α} {m : Tab α} (k : Nat) (h : tabWf d m = true) : tabWf d (tabErase m k) = true := by
  rw [tabErase_eq_filter]
  exact tabWf_filter _ h

/-- A write keeps the canonical form. -/
theorem tabWf_tabSet {d : α} {m : Tab α} (k : Nat) (v : α) (h : tabWf d m = true) : tabWf d (tabSet d m k v) = true := by
  by_cases hv : v = d
  · simpa [tabSet, hv] using tabWf_tabErase k h
  · have he := tabWf_tabErase k h
    simp only [tabSet, hv, if_false]
    simp only [tabWf, Bool.and_eq_true] at he ⊢
    exact ⟨tabRising_tabInsert v (fun x hx => by cases hx) (tabFind_tabErase_same m k) he.1,
      tabInsert_all _ (by simpa using hv) he.2⟩

theorem tabWf_tabMod {d : α} {m : Tab α} (k : Nat) (f : α → α) (h : tabWf d m = true) :
    tabWf d (tabMod d m k f) = true := tabWf_tabSet k _ h

@[simp] theorem tabWf_nil (d : α) : tabWf d ([] : Tab α) = true := rfl

end Sys2Proof.Machine
end

