-- ==== Sys2Proof/Laws/Upto.lean ====
section
/-! SUPPORT. What an operation leaves unchanged: the relation `Upto m`, which says that only the parts of State in the
set `m` differ, that the queue and the cycle count stay, and that the invariant is kept. -/

namespace Sys2Proof.Machine

/-- The set `a` of parts lies in the set `m`. -/
def Sub (a m : Nat) : Prop := a &&& m = a

theorem Sub.refl (m : Nat) : Sub m m := Nat.and_self m

theorem Sub.of {a c m : Nat} (hm : Sub c m) (h : a &&& c = a) : Sub a m := by
  unfold Sub at *
  calc a &&& m = (a &&& c) &&& m := by rw [h]
    _ = a &&& (c &&& m) := Nat.and_assoc a c m
    _ = a := by rw [hm, h]

theorem Sub.bit {c m k : Nat} (hm : Sub c m) (h : c.testBit k = true) : m.testBit k = true := by
  unfold Sub at hm
  rw [← hm, Nat.testBit_and, Bool.and_eq_true] at h
  exact h.2

/-- Between two states only the parts in the set `m` differ; the queue and the cycle count do not, and the invariant
of Safety.lean is kept. The parts, by their place in `m`: 0 free, 1 rck, 2 ptp, 3 lane, 4 lfi, 5 port, 6 swt, 7 ndl, 8
bank, 9 dist, 10 skn, 11 pat, 12 pl, 13 joint, 14 stl, 15 eth, 16 ssw, 17 ft, 18 arrivals, 19 ict, 20 mbx, 21 sem, 22
pwr, 23 fcl, 24 ldg, 25 tly, 26 sth, 27 sec, 28 mag, 29 magIn, 30 prt, 31 regs, 32 keys, 33 fabric, 34 sram, 35 skm,
36 ls, 37 rld. -/
structure Upto (m : Nat) (s t : State) : Prop where
  pending : t.pending = s.pending
  now : t.now = s.now
  free : m.testBit 0 = false → t.free = s.free
  rck : m.testBit 1 = false → t.rck = s.rck
  ptp : m.testBit 2 = false → t.ptp = s.ptp
  lane : m.testBit 3 = false → t.lane = s.lane
  lfi : m.testBit 4 = false → t.lfi = s.lfi
  port : m.testBit 5 = false → t.port = s.port
  swt : m.testBit 6 = false → t.swt = s.swt
  ndl : m.testBit 7 = false → t.ndl = s.ndl
  bank : m.testBit 8 = false → t.bank = s.bank
  dist : m.testBit 9 = false → t.dist = s.dist
  skn : m.testBit 10 = false → t.skn = s.skn
  pat : m.testBit 11 = false → t.pat = s.pat
  pl : m.testBit 12 = false → t.pl = s.pl
  joint : m.testBit 13 = false → t.joint = s.joint
  stl : m.testBit 14 = false → t.stl = s.stl
  eth : m.testBit 15 = false → t.eth = s.eth
  ssw : m.testBit 16 = false → t.ssw = s.ssw
  ft : m.testBit 17 = false → t.ft = s.ft
  arrivals : m.testBit 18 = false → t.arrivals = s.arrivals
  ict : m.testBit 19 = false → t.ict = s.ict
  mbx : m.testBit 20 = false → t.mbx = s.mbx
  sem : m.testBit 21 = false → t.sem = s.sem
  pwr : m.testBit 22 = false → t.pwr = s.pwr
  fcl : m.testBit 23 = false → t.fcl = s.fcl
  ldg : m.testBit 24 = false → t.ldg = s.ldg
  tly : m.testBit 25 = false → t.tly = s.tly
  sth : m.testBit 26 = false → t.sth = s.sth
  sec : m.testBit 27 = false → t.sec = s.sec
  mag : m.testBit 28 = false → t.mag = s.mag
  magIn : m.testBit 29 = false → t.magIn = s.magIn
  prt : m.testBit 30 = false → t.prt = s.prt
  regs : m.testBit 31 = false → t.bus.regs = s.bus.regs
  keys : m.testBit 32 = false → t.bus.keys = s.bus.keys
  fabric : m.testBit 33 = false → t.bus.staged = s.bus.staged ∧ t.bus.latched = s.bus.latched ∧ t.bus.rrPtr = s.bus.rrPtr ∧ t.bus.parBad = s.bus.parBad ∧ t.bus.parReported = s.bus.parReported ∧ t.bus.answers = s.bus.answers ∧ t.bus.parPos = s.bus.parPos ∧ t.bus.parAt = s.bus.parAt ∧ t.bus.wroteNow = s.bus.wroteNow
  sram : m.testBit 34 = false → t.mem.sram = s.mem.sram
  skm : m.testBit 35 = false → t.mem.skm = s.mem.skm ∧ t.mem.skmFlip = s.mem.skmFlip
  ls : m.testBit 36 = false → t.mem.ls = s.mem.ls ∧ t.mem.lsFlip = s.mem.lsFlip
  rld : m.testBit 37 = false → t.mem.rld = s.mem.rld ∧ t.mem.rldFlip = s.mem.rldFlip ∧ t.mem.bays = s.mem.bays ∧ t.mem.mchs = s.mem.mchs ∧ t.mem.diag = s.mem.diag
  wf : Memory.wf s.mem = true → Memory.wf t.mem = true
  keysOk : keysOk s = true → keysOk t = true

theorem Upto.refl (m : Nat) (s : State) : Upto m s s := by
  constructor <;> simp

theorem Upto.trans {m : Nat} {s t u : State} (h1 : Upto m s t) (h2 : Upto m t u) : Upto m s u :=
  ⟨h2.pending.trans h1.pending, h2.now.trans h1.now,
   (fun k => (h2.free k).trans (h1.free k)),
   (fun k => (h2.rck k).trans (h1.rck k)),
   (fun k => (h2.ptp k).trans (h1.ptp k)),
   (fun k => (h2.lane k).trans (h1.lane k)),
   (fun k => (h2.lfi k).trans (h1.lfi k)),
   (fun k => (h2.port k).trans (h1.port k)),
   (fun k => (h2.swt k).trans (h1.swt k)),
   (fun k => (h2.ndl k).trans (h1.ndl k)),
   (fun k => (h2.bank k).trans (h1.bank k)),
   (fun k => (h2.dist k).trans (h1.dist k)),
   (fun k => (h2.skn k).trans (h1.skn k)),
   (fun k => (h2.pat k).trans (h1.pat k)),
   (fun k => (h2.pl k).trans (h1.pl k)),
   (fun k => (h2.joint k).trans (h1.joint k)),
   (fun k => (h2.stl k).trans (h1.stl k)),
   (fun k => (h2.eth k).trans (h1.eth k)),
   (fun k => (h2.ssw k).trans (h1.ssw k)),
   (fun k => (h2.ft k).trans (h1.ft k)),
   (fun k => (h2.arrivals k).trans (h1.arrivals k)),
   (fun k => (h2.ict k).trans (h1.ict k)),
   (fun k => (h2.mbx k).trans (h1.mbx k)),
   (fun k => (h2.sem k).trans (h1.sem k)),
   (fun k => (h2.pwr k).trans (h1.pwr k)),
   (fun k => (h2.fcl k).trans (h1.fcl k)),
   (fun k => (h2.ldg k).trans (h1.ldg k)),
   (fun k => (h2.tly k).trans (h1.tly k)),
   (fun k => (h2.sth k).trans (h1.sth k)),
   (fun k => (h2.sec k).trans (h1.sec k)),
   (fun k => (h2.mag k).trans (h1.mag k)),
   (fun k => (h2.magIn k).trans (h1.magIn k)),
   (fun k => (h2.prt k).trans (h1.prt k)),
   (fun k => (h2.regs k).trans (h1.regs k)),
   (fun k => (h2.keys k).trans (h1.keys k)),
   (fun k => ⟨(h2.fabric k).1.trans (h1.fabric k).1, (h2.fabric k).2.1.trans (h1.fabric k).2.1, (h2.fabric k).2.2.1.trans (h1.fabric k).2.2.1, (h2.fabric k).2.2.2.1.trans (h1.fabric k).2.2.2.1, (h2.fabric k).2.2.2.2.1.trans (h1.fabric k).2.2.2.2.1, (h2.fabric k).2.2.2.2.2.1.trans (h1.fabric k).2.2.2.2.2.1, (h2.fabric k).2.2.2.2.2.2.1.trans (h1.fabric k).2.2.2.2.2.2.1, (h2.fabric k).2.2.2.2.2.2.2.1.trans (h1.fabric k).2.2.2.2.2.2.2.1, (h2.fabric k).2.2.2.2.2.2.2.2.trans (h1.fabric k).2.2.2.2.2.2.2.2⟩),
   (fun k => (h2.sram k).trans (h1.sram k)),
   (fun k => ⟨(h2.skm k).1.trans (h1.skm k).1, (h2.skm k).2.trans (h1.skm k).2⟩),
   (fun k => ⟨(h2.ls k).1.trans (h1.ls k).1, (h2.ls k).2.trans (h1.ls k).2⟩),
   (fun k => ⟨(h2.rld k).1.trans (h1.rld k).1, (h2.rld k).2.1.trans (h1.rld k).2.1, (h2.rld k).2.2.1.trans (h1.rld k).2.2.1, (h2.rld k).2.2.2.1.trans (h1.rld k).2.2.2.1, (h2.rld k).2.2.2.2.trans (h1.rld k).2.2.2.2⟩),
   fun k => h2.wf (h1.wf k), fun k => h2.keysOk (h1.keysOk k)⟩

/-- A state that agrees with `s` outside `m`, and in its memories and key guards. -/
theorem Upto.lit {m : Nat} {s0 s t : State} (h : Upto m s0 s) (pending : t.pending = s.pending) (now : t.now = s.now)
    (free : m.testBit 0 = true ∨ t.free = s.free)
    (rck : m.testBit 1 = true ∨ t.rck = s.rck)
    (ptp : m.testBit 2 = true ∨ t.ptp = s.ptp)
    (lane : m.testBit 3 = true ∨ t.lane = s.lane)
    (lfi : m.testBit 4 = true ∨ t.lfi = s.lfi)
    (port : m.testBit 5 = true ∨ t.port = s.port)
    (swt : m.testBit 6 = true ∨ t.swt = s.swt)
    (ndl : m.testBit 7 = true ∨ t.ndl = s.ndl)
    (bank : m.testBit 8 = true ∨ t.bank = s.bank)
    (dist : m.testBit 9 = true ∨ t.dist = s.dist)
    (skn : m.testBit 10 = true ∨ t.skn = s.skn)
    (pat : m.testBit 11 = true ∨ t.pat = s.pat)
    (pl : m.testBit 12 = true ∨ t.pl = s.pl)
    (joint : m.testBit 13 = true ∨ t.joint = s.joint)
    (stl : m.testBit 14 = true ∨ t.stl = s.stl)
    (eth : m.testBit 15 = true ∨ t.eth = s.eth)
    (ssw : m.testBit 16 = true ∨ t.ssw = s.ssw)
    (ft : m.testBit 17 = true ∨ t.ft = s.ft)
    (arrivals : m.testBit 18 = true ∨ t.arrivals = s.arrivals)
    (ict : m.testBit 19 = true ∨ t.ict = s.ict)
    (mbx : m.testBit 20 = true ∨ t.mbx = s.mbx)
    (sem : m.testBit 21 = true ∨ t.sem = s.sem)
    (pwr : m.testBit 22 = true ∨ t.pwr = s.pwr)
    (fcl : m.testBit 23 = true ∨ t.fcl = s.fcl)
    (ldg : m.testBit 24 = true ∨ t.ldg = s.ldg)
    (tly : m.testBit 25 = true ∨ t.tly = s.tly)
    (sth : m.testBit 26 = true ∨ t.sth = s.sth)
    (sec : m.testBit 27 = true ∨ t.sec = s.sec)
    (mag : m.testBit 28 = true ∨ t.mag = s.mag)
    (magIn : m.testBit 29 = true ∨ t.magIn = s.magIn)
    (prt : m.testBit 30 = true ∨ t.prt = s.prt)
    (regs : m.testBit 31 = true ∨ t.bus.regs = s.bus.regs)
    (keys : t.bus.keys = s.bus.keys)
    (fabric : m.testBit 33 = true ∨ (t.bus.staged = s.bus.staged ∧ t.bus.latched = s.bus.latched ∧ t.bus.rrPtr = s.bus.rrPtr ∧ t.bus.parBad = s.bus.parBad ∧ t.bus.parReported = s.bus.parReported ∧ t.bus.answers = s.bus.answers ∧ t.bus.parPos = s.bus.parPos ∧ t.bus.parAt = s.bus.parAt ∧ t.bus.wroteNow = s.bus.wroteNow))
    (mem : t.mem = s.mem) : Upto m s0 t := by
  refine h.trans ?_
  constructor
  · exact pending
  · exact now
  · intro k; rcases free with j | j
    · rw [j] at k; cases k
    · exact j
  · intro k; rcases rck with j | j
    · rw [j] at k; cases k
    · exact j
  · intro k; rcases ptp with j | j
    · rw [j] at k; cases k
    · exact j
  · intro k; rcases lane with j | j
    · rw [j] at k; cases k
    · exact j
  · intro k; rcases lfi with j | j
    · rw [j] at k; cases k
    · exact j
  · intro k; rcases port with j | j
    · rw [j] at k; cases k
    · exact j
  · intro k; rcases swt with j | j
    · rw [j] at k; cases k
    · exact j
  · intro k; rcases ndl with j | j
    · rw [j] at k; cases k
    · exact j
  · intro k; rcases bank with j | j
    · rw [j] at k; cases k
    · exact j
  · intro k; rcases dist with j | j
    · rw [j] at k; cases k
    · exact j
  · intro k; rcases skn with j | j
    · rw [j] at k; cases k
    · exact j
  · intro k; rcases pat with j | j
    · rw [j] at k; cases k
    · exact j
  · intro k; rcases pl with j | j
    · rw [j] at k; cases k
    · exact j
  · intro k; rcases joint with j | j
    · rw [j] at k; cases k
    · exact j
  · intro k; rcases stl with j | j
    · rw [j] at k; cases k
    · exact j
  · intro k; rcases eth with j | j
    · rw [j] at k; cases k
    · exact j
  · intro k; rcases ssw with j | j
    · rw [j] at k; cases k
    · exact j
  · intro k; rcases ft with j | j
    · rw [j] at k; cases k
    · exact j
  · intro k; rcases arrivals with j | j
    · rw [j] at k; cases k
    · exact j
  · intro k; rcases ict with j | j
    · rw [j] at k; cases k
    · exact j
  · intro k; rcases mbx with j | j
    · rw [j] at k; cases k
    · exact j
  · intro k; rcases sem with j | j
    · rw [j] at k; cases k
    · exact j
  · intro k; rcases pwr with j | j
    · rw [j] at k; cases k
    · exact j
  · intro k; rcases fcl with j | j
    · rw [j] at k; cases k
    · exact j
  · intro k; rcases ldg with j | j
    · rw [j] at k; cases k
    · exact j
  · intro k; rcases tly with j | j
    · rw [j] at k; cases k
    · exact j
  · intro k; rcases sth with j | j
    · rw [j] at k; cases k
    · exact j
  · intro k; rcases sec with j | j
    · rw [j] at k; cases k
    · exact j
  · intro k; rcases mag with j | j
    · rw [j] at k; cases k
    · exact j
  · intro k; rcases magIn with j | j
    · rw [j] at k; cases k
    · exact j
  · intro k; rcases prt with j | j
    · rw [j] at k; cases k
    · exact j
  · intro k; rcases regs with j | j
    · rw [j] at k; cases k
    · exact j
  · exact fun _ => keys
  · intro k; rcases fabric with j | j
    · rw [j] at k; cases k
    · exact j
  · simp [mem]
  · simp [mem]
  · simp [mem]
  · simp [mem]
  · rw [mem]; exact id
  · unfold Machine.keysOk; rw [keys, now]; exact id

/-- Every next state of an outcome. -/
structure OutUpto (m : Nat) (s : State) (o : Out) : Prop where
  upto : ∀ t, o = .next t → Upto m s t

theorem OutUpto.next {m : Nat} {s t : State} (h : Upto m s t) : OutUpto m s (.next t) := by
  constructor
  intro u e
  cases e
  exact h

/-- Every state of an option. -/
structure OptUpto (m : Nat) (s : State) (o : Option State) : Prop where
  upto : ∀ t, o = some t → Upto m s t

theorem OptUpto.some {m : Nat} {s t : State} (h : Upto m s t) : OptUpto m s (some t) := by
  constructor
  intro u e
  cases e
  exact h

theorem OptUpto.none {m : Nat} {s : State} : OptUpto m s none := by
  constructor
  intro u e
  cases e

theorem Upto.ite {m : Nat} {s0 a b : State} {c : Prop} [Decidable c] (ha : Upto m s0 a) (hb : Upto m s0 b) :
    Upto m s0 (if c then a else b) := by
  split
  · exact ha
  · exact hb

theorem OutUpto.ite {m : Nat} {s0 : State} {a b : Out} {c : Prop} [Decidable c] (ha : OutUpto m s0 a)
    (hb : OutUpto m s0 b) : OutUpto m s0 (if c then a else b) := by
  split
  · exact ha
  · exact hb

theorem OptUpto.ite {m : Nat} {s0 : State} {a b : Option State} {c : Prop} [Decidable c] (ha : OptUpto m s0 a)
    (hb : OptUpto m s0 b) : OptUpto m s0 (if c then a else b) := by
  split
  · exact ha
  · exact hb

theorem OptUpto.map {m : Nat} {s0 : State} {o : Option State} {f : State → State} (h : OptUpto m s0 o)
    (hf : ∀ s, Upto m s0 s → Upto m s0 (f s)) : OptUpto m s0 (o.map f) := by
  cases o with
  | none => exact OptUpto.none
  | some s => exact OptUpto.some (hf s (h.upto s rfl))

theorem Upto.getD {m : Nat} {s0 d : State} {o : Option State} (h : OptUpto m s0 o) (hd : Upto m s0 d) :
    Upto m s0 (o.getD d) := by
  cases o with
  | none => exact hd
  | some s => exact h.upto s rfl

theorem Upto.of_some {m : Nat} {s0 t : State} {o : Option State} (e : o = some t) (h : OptUpto m s0 o) : Upto m s0 t :=
  h.upto t e

theorem Upto.fst {m : Nat} {s0 t : State} {β : Type} {b : β} {p : State × β} (e : p = (t, b)) (h : Upto m s0 p.1) :
    Upto m s0 t := by
  subst e
  exact h

theorem Upto.snd {m : Nat} {s0 t : State} {α : Type} {a : α} {p : α × State} (e : p = (a, t)) (h : Upto m s0 p.2) :
    Upto m s0 t := by
  subst e
  exact h

theorem Upto.mid {m : Nat} {s0 t : State} {α β : Type} {a : α} {b : β} {p : α × State × β} (e : p = (a, t, b))
    (h : Upto m s0 p.2.1) : Upto m s0 t := by
  subst e
  exact h

theorem Upto.last {m : Nat} {s0 t : State} {α β : Type} {a : α} {b : β} {p : α × β × State} (e : p = (a, b, t))
    (h : Upto m s0 p.2.2) : Upto m s0 t := by
  subst e
  exact h

theorem Upto.fold {m : Nat} {s0 : State} {α : Type} (f : State → α → State)
    (hf : ∀ a s, Upto m s0 s → Upto m s0 (f s a)) : ∀ (l : List α) {s : State}, Upto m s0 s → Upto m s0 (l.foldl f s)
  | [], _, h => h
  | a :: l, _, h => Upto.fold f hf l (hf a _ h)

theorem Upto.foldl {m : Nat} {s0 s : State} {α : Type} {l : List α} {f : State → α → State} (h : Upto m s0 s)
    (hf : ∀ a s, Upto m s0 s → Upto m s0 (f s a)) : Upto m s0 (l.foldl f s) := Upto.fold f hf l h

theorem Upto.foldl_fst {m : Nat} {s0 : State} {α β : Type} {f : State × β → α → State × β} {l : List α} {x : State × β}
    (h : Upto m s0 x.1) (hf : ∀ a x, Upto m s0 x.1 → Upto m s0 (f x a).1) : Upto m s0 (l.foldl f x).1 := by
  induction l generalizing x with
  | nil => exact h
  | cons a l ih => exact ih (hf a x h)

theorem Upto.foldl_snd {m : Nat} {s0 : State} {α β : Type} {f : β × State → α → β × State} {l : List α} {x : β × State}
    (h : Upto m s0 x.2) (hf : ∀ a x, Upto m s0 x.2 → Upto m s0 (f x a).2) : Upto m s0 (l.foldl f x).2 := by
  induction l generalizing x with
  | nil => exact h
  | cons a l ih => exact ih (hf a x h)

theorem Upto.forEach {m : Nat} {s0 s : State} {α : Type} {l : List α} {f : α → State → State} (h : Upto m s0 s)
    (hf : ∀ a s, Upto m s0 s → Upto m s0 (f a s)) : Upto m s0 (Machine.forEach l f s) :=
  Upto.fold (fun t a => f a t) hf l h

theorem Upto.when {m : Nat} {s0 s : State} {c : Bool} {f : State → State} (h : Upto m s0 s)
    (hf : ∀ s, Upto m s0 s → Upto m s0 (f s)) : Upto m s0 (Machine.when c f s) := by
  unfold Machine.when
  split
  · exact hf s h
  · exact h

theorem Upto.free_set {m : Nat} {s0 s : State} {v} (h : Upto m s0 s) (k : m.testBit 0 = true) :
    Upto m s0 { s with free := v } := by
  apply h.lit <;> first | rfl | exact .inl k | exact .inr rfl | exact .inr ⟨rfl, rfl, rfl, rfl, rfl, rfl, rfl, rfl, rfl⟩

theorem Upto.rck_set {m : Nat} {s0 s : State} {v} (h : Upto m s0 s) (k : m.testBit 1 = true) :
    Upto m s0 { s with rck := v } := by
  apply h.lit <;> first | rfl | exact .inl k | exact .inr rfl | exact .inr ⟨rfl, rfl, rfl, rfl, rfl, rfl, rfl, rfl, rfl⟩

theorem Upto.ptp_set {m : Nat} {s0 s : State} {v} (h : Upto m s0 s) (k : m.testBit 2 = true) :
    Upto m s0 { s with ptp := v } := by
  apply h.lit <;> first | rfl | exact .inl k | exact .inr rfl | exact .inr ⟨rfl, rfl, rfl, rfl, rfl, rfl, rfl, rfl, rfl⟩

theorem Upto.lane_set {m : Nat} {s0 s : State} {v} (h : Upto m s0 s) (k : m.testBit 3 = true) :
    Upto m s0 { s with lane := v } := by
  apply h.lit <;> first | rfl | exact .inl k | exact .inr rfl | exact .inr ⟨rfl, rfl, rfl, rfl, rfl, rfl, rfl, rfl, rfl⟩

theorem Upto.lfi_set {m : Nat} {s0 s : State} {v} (h : Upto m s0 s) (k : m.testBit 4 = true) :
    Upto m s0 { s with lfi := v } := by
  apply h.lit <;> first | rfl | exact .inl k | exact .inr rfl | exact .inr ⟨rfl, rfl, rfl, rfl, rfl, rfl, rfl, rfl, rfl⟩

theorem Upto.port_set {m : Nat} {s0 s : State} {v} (h : Upto m s0 s) (k : m.testBit 5 = true) :
    Upto m s0 { s with port := v } := by
  apply h.lit <;> first | rfl | exact .inl k | exact .inr rfl | exact .inr ⟨rfl, rfl, rfl, rfl, rfl, rfl, rfl, rfl, rfl⟩

theorem Upto.swt_set {m : Nat} {s0 s : State} {v} (h : Upto m s0 s) (k : m.testBit 6 = true) :
    Upto m s0 { s with swt := v } := by
  apply h.lit <;> first | rfl | exact .inl k | exact .inr rfl | exact .inr ⟨rfl, rfl, rfl, rfl, rfl, rfl, rfl, rfl, rfl⟩

theorem Upto.ndl_set {m : Nat} {s0 s : State} {v} (h : Upto m s0 s) (k : m.testBit 7 = true) :
    Upto m s0 { s with ndl := v } := by
  apply h.lit <;> first | rfl | exact .inl k | exact .inr rfl | exact .inr ⟨rfl, rfl, rfl, rfl, rfl, rfl, rfl, rfl, rfl⟩

theorem Upto.bank_set {m : Nat} {s0 s : State} {v} (h : Upto m s0 s) (k : m.testBit 8 = true) :
    Upto m s0 { s with bank := v } := by
  apply h.lit <;> first | rfl | exact .inl k | exact .inr rfl | exact .inr ⟨rfl, rfl, rfl, rfl, rfl, rfl, rfl, rfl, rfl⟩

theorem Upto.dist_set {m : Nat} {s0 s : State} {v} (h : Upto m s0 s) (k : m.testBit 9 = true) :
    Upto m s0 { s with dist := v } := by
  apply h.lit <;> first | rfl | exact .inl k | exact .inr rfl | exact .inr ⟨rfl, rfl, rfl, rfl, rfl, rfl, rfl, rfl, rfl⟩

theorem Upto.skn_set {m : Nat} {s0 s : State} {v} (h : Upto m s0 s) (k : m.testBit 10 = true) :
    Upto m s0 { s with skn := v } := by
  apply h.lit <;> first | rfl | exact .inl k | exact .inr rfl | exact .inr ⟨rfl, rfl, rfl, rfl, rfl, rfl, rfl, rfl, rfl⟩

theorem Upto.pat_set {m : Nat} {s0 s : State} {v} (h : Upto m s0 s) (k : m.testBit 11 = true) :
    Upto m s0 { s with pat := v } := by
  apply h.lit <;> first | rfl | exact .inl k | exact .inr rfl | exact .inr ⟨rfl, rfl, rfl, rfl, rfl, rfl, rfl, rfl, rfl⟩

theorem Upto.pl_set {m : Nat} {s0 s : State} {v} (h : Upto m s0 s) (k : m.testBit 12 = true) :
    Upto m s0 { s with pl := v } := by
  apply h.lit <;> first | rfl | exact .inl k | exact .inr rfl | exact .inr ⟨rfl, rfl, rfl, rfl, rfl, rfl, rfl, rfl, rfl⟩

theorem Upto.joint_set {m : Nat} {s0 s : State} {v} (h : Upto m s0 s) (k : m.testBit 13 = true) :
    Upto m s0 { s with joint := v } := by
  apply h.lit <;> first | rfl | exact .inl k | exact .inr rfl | exact .inr ⟨rfl, rfl, rfl, rfl, rfl, rfl, rfl, rfl, rfl⟩

theorem Upto.stl_set {m : Nat} {s0 s : State} {v} (h : Upto m s0 s) (k : m.testBit 14 = true) :
    Upto m s0 { s with stl := v } := by
  apply h.lit <;> first | rfl | exact .inl k | exact .inr rfl | exact .inr ⟨rfl, rfl, rfl, rfl, rfl, rfl, rfl, rfl, rfl⟩

theorem Upto.eth_set {m : Nat} {s0 s : State} {v} (h : Upto m s0 s) (k : m.testBit 15 = true) :
    Upto m s0 { s with eth := v } := by
  apply h.lit <;> first | rfl | exact .inl k | exact .inr rfl | exact .inr ⟨rfl, rfl, rfl, rfl, rfl, rfl, rfl, rfl, rfl⟩

theorem Upto.ssw_set {m : Nat} {s0 s : State} {v} (h : Upto m s0 s) (k : m.testBit 16 = true) :
    Upto m s0 { s with ssw := v } := by
  apply h.lit <;> first | rfl | exact .inl k | exact .inr rfl | exact .inr ⟨rfl, rfl, rfl, rfl, rfl, rfl, rfl, rfl, rfl⟩

theorem Upto.ft_set {m : Nat} {s0 s : State} {v} (h : Upto m s0 s) (k : m.testBit 17 = true) :
    Upto m s0 { s with ft := v } := by
  apply h.lit <;> first | rfl | exact .inl k | exact .inr rfl | exact .inr ⟨rfl, rfl, rfl, rfl, rfl, rfl, rfl, rfl, rfl⟩

theorem Upto.arrivals_set {m : Nat} {s0 s : State} {v} (h : Upto m s0 s) (k : m.testBit 18 = true) :
    Upto m s0 { s with arrivals := v } := by
  apply h.lit <;> first | rfl | exact .inl k | exact .inr rfl | exact .inr ⟨rfl, rfl, rfl, rfl, rfl, rfl, rfl, rfl, rfl⟩

theorem Upto.ict_set {m : Nat} {s0 s : State} {v} (h : Upto m s0 s) (k : m.testBit 19 = true) :
    Upto m s0 { s with ict := v } := by
  apply h.lit <;> first | rfl | exact .inl k | exact .inr rfl | exact .inr ⟨rfl, rfl, rfl, rfl, rfl, rfl, rfl, rfl, rfl⟩

theorem Upto.mbx_set {m : Nat} {s0 s : State} {v} (h : Upto m s0 s) (k : m.testBit 20 = true) :
    Upto m s0 { s with mbx := v } := by
  apply h.lit <;> first | rfl | exact .inl k | exact .inr rfl | exact .inr ⟨rfl, rfl, rfl, rfl, rfl, rfl, rfl, rfl, rfl⟩

theorem Upto.sem_set {m : Nat} {s0 s : State} {v} (h : Upto m s0 s) (k : m.testBit 21 = true) :
    Upto m s0 { s with sem := v } := by
  apply h.lit <;> first | rfl | exact .inl k | exact .inr rfl | exact .inr ⟨rfl, rfl, rfl, rfl, rfl, rfl, rfl, rfl, rfl⟩

theorem Upto.pwr_set {m : Nat} {s0 s : State} {v} (h : Upto m s0 s) (k : m.testBit 22 = true) :
    Upto m s0 { s with pwr := v } := by
  apply h.lit <;> first | rfl | exact .inl k | exact .inr rfl | exact .inr ⟨rfl, rfl, rfl, rfl, rfl, rfl, rfl, rfl, rfl⟩

theorem Upto.fcl_set {m : Nat} {s0 s : State} {v} (h : Upto m s0 s) (k : m.testBit 23 = true) :
    Upto m s0 { s with fcl := v } := by
  apply h.lit <;> first | rfl | exact .inl k | exact .inr rfl | exact .inr ⟨rfl, rfl, rfl, rfl, rfl, rfl, rfl, rfl, rfl⟩

theorem Upto.ldg_set {m : Nat} {s0 s : State} {v} (h : Upto m s0 s) (k : m.testBit 24 = true) :
    Upto m s0 { s with ldg := v } := by
  apply h.lit <;> first | rfl | exact .inl k | exact .inr rfl | exact .inr ⟨rfl, rfl, rfl, rfl, rfl, rfl, rfl, rfl, rfl⟩

theorem Upto.tly_set {m : Nat} {s0 s : State} {v} (h : Upto m s0 s) (k : m.testBit 25 = true) :
    Upto m s0 { s with tly := v } := by
  apply h.lit <;> first | rfl | exact .inl k | exact .inr rfl | exact .inr ⟨rfl, rfl, rfl, rfl, rfl, rfl, rfl, rfl, rfl⟩

theorem Upto.sth_set {m : Nat} {s0 s : State} {v} (h : Upto m s0 s) (k : m.testBit 26 = true) :
    Upto m s0 { s with sth := v } := by
  apply h.lit <;> first | rfl | exact .inl k | exact .inr rfl | exact .inr ⟨rfl, rfl, rfl, rfl, rfl, rfl, rfl, rfl, rfl⟩

theorem Upto.sec_set {m : Nat} {s0 s : State} {v} (h : Upto m s0 s) (k : m.testBit 27 = true) :
    Upto m s0 { s with sec := v } := by
  apply h.lit <;> first | rfl | exact .inl k | exact .inr rfl | exact .inr ⟨rfl, rfl, rfl, rfl, rfl, rfl, rfl, rfl, rfl⟩

theorem Upto.mag_set {m : Nat} {s0 s : State} {v} (h : Upto m s0 s) (k : m.testBit 28 = true) :
    Upto m s0 { s with mag := v } := by
  apply h.lit <;> first | rfl | exact .inl k | exact .inr rfl | exact .inr ⟨rfl, rfl, rfl, rfl, rfl, rfl, rfl, rfl, rfl⟩

theorem Upto.magIn_set {m : Nat} {s0 s : State} {v} (h : Upto m s0 s) (k : m.testBit 29 = true) :
    Upto m s0 { s with magIn := v } := by
  apply h.lit <;> first | rfl | exact .inl k | exact .inr rfl | exact .inr ⟨rfl, rfl, rfl, rfl, rfl, rfl, rfl, rfl, rfl⟩

theorem Upto.prt_set {m : Nat} {s0 s : State} {v} (h : Upto m s0 s) (k : m.testBit 30 = true) :
    Upto m s0 { s with prt := v } := by
  apply h.lit <;> first | rfl | exact .inl k | exact .inr rfl | exact .inr ⟨rfl, rfl, rfl, rfl, rfl, rfl, rfl, rfl, rfl⟩

theorem Upto.regs_set {m : Nat} {s0 s : State} {v} (h : Upto m s0 s) (k : m.testBit 31 = true) :
    Upto m s0 { s with bus := { s.bus with regs := v } } := by
  apply h.lit <;> first | rfl | exact .inl k | exact .inr rfl | exact .inr ⟨rfl, rfl, rfl, rfl, rfl, rfl, rfl, rfl, rfl⟩

/-- The fabric's own records change. -/
theorem Upto.fabric_set {m : Nat} {s0 s : State} {a b c d e f g i j} (h : Upto m s0 s) (k : m.testBit 33 = true) :
    Upto m s0 { s with bus := ⟨s.bus.regs, a, b, s.bus.keys, c, d, e, f, g, i, j⟩ } := by
  apply h.lit <;> first | rfl | exact .inl k | exact .inr rfl

/-- Between two memories only the parts in the set `m` differ, and the canonical form is kept. -/
structure MemUpto (m : Nat) (a b : Mem) : Prop where
  sram : m.testBit 34 = false → b.sram = a.sram
  skm : m.testBit 35 = false → b.skm = a.skm ∧ b.skmFlip = a.skmFlip
  ls : m.testBit 36 = false → b.ls = a.ls ∧ b.lsFlip = a.lsFlip
  rld : m.testBit 37 = false → b.rld = a.rld ∧ b.rldFlip = a.rldFlip ∧ b.bays = a.bays ∧ b.mchs = a.mchs ∧ b.diag = a.diag
  wf : Memory.wf a = true → Memory.wf b = true

theorem MemUpto.refl (m : Nat) (a : Mem) : MemUpto m a a := by
  constructor <;> simp

theorem Upto.mem_set {m : Nat} {s0 s : State} {v : Mem} (h : Upto m s0 s) (k : MemUpto m s.mem v) :
    Upto m s0 { s with mem := v } := by
  refine h.trans ?_
  constructor
  case sram => exact k.sram
  case skm => exact k.skm
  case ls => exact k.ls
  case rld => exact k.rld
  case wf => exact k.wf
  case keysOk => exact id
  case fabric => exact fun _ => ⟨rfl, rfl, rfl, rfl, rfl, rfl, rfl, rfl, rfl⟩
  all_goals first | rfl | exact fun _ => rfl

/-- The four kinds of change of a memory table. -/
theorem Memory.wf_iff (a : Mem) : Memory.wf a = true ↔ tabWf 0 a.sram = true ∧ tabWf 0 a.skm = true ∧ tabWf 0 a.ls = true ∧
    tabWf 0 a.rld = true ∧ tabWf 0 a.rldFlip = true ∧ tabWf 0 a.skmFlip = true ∧ tabWf 0 a.lsFlip = true ∧
    tabWf .reset a.bays = true ∧ tabWf .reset a.mchs = true ∧ tabWf none a.diag = true := by
  simp only [Memory.wf, Bool.and_eq_true]
  tauto

end Sys2Proof.Machine
end

