-- ==== Sys2Proof/Laws/UptoOps.lean ====
section
/-! SUPPORT. What each operation of Machine/Ops.lean leaves unchanged (Laws/Upto.lean). -/

set_option linter.unusedTactic false
set_option linter.unreachableTactic false

namespace Sys2Proof.Machine

theorem setRword_upto {m : Nat} {s0 : State} {r : Reg} {fr : Nat} {i : Nat} {w : Nat} {v : Nat} {s : State} (h :
    Upto m s0 s) (hm : Sub 0x80000000 m) :
    Upto m s0 (setRword r fr i w v s) := by
  unfold setRword
  try dsimp only
  repeat' first
    | with_reducible assumption
    | fail_if_no_progress with_reducible refine Upto.regs_set ?_ (hm.bit rfl)

theorem setRwordQ_upto {m : Nat} {s0 : State} {r : Reg} {req : Nat} {fr : Nat} {i : Nat} {w : Nat} {v : Nat} {s
    : State} (h : Upto m s0 s) (hm : Sub 0x80000000 m) :
    Upto m s0 (setRwordQ r req fr i w v s) := by
  unfold setRwordQ
  try dsimp only
  repeat' first
    | with_reducible assumption
    | fail_if_no_progress with_reducible refine Upto.regs_set ?_ (hm.bit rfl)

theorem setFld_upto {m : Nat} {s0 : State} {f : FieldRef} {v : Nat} {s : State} {fr : optParam Nat 0} {i :
    optParam Nat 0} (h : Upto m s0 s) (hm : Sub 0x80000000 m) :
    Upto m s0 (setFld f v s fr i) := by
  unfold setFld
  try dsimp only
  repeat' first
    | with_reducible assumption
    | with_reducible apply setRword_upto

theorem setFldQ_upto {m : Nat} {s0 : State} {f : FieldRef} {req : Nat} {v : Nat} {s : State} {fr : optParam Nat
    0} {i : optParam Nat 0} (h : Upto m s0 s) (hm : Sub 0x80000000 m) :
    Upto m s0 (setFldQ f req v s fr i) := by
  unfold setFldQ
  try dsimp only
  repeat' first
    | with_reducible assumption
    | with_reducible apply setRwordQ_upto

theorem bump_upto {m : Nat} {s0 : State} {f : FieldRef} {s : State} {fr : optParam Nat 0} {i : optParam Nat 0}
    {n : optParam Nat 1} (h : Upto m s0 s) (hm : Sub 0x80000000 m) :
    Upto m s0 (bump f s fr i n) := by
  unfold bump
  try dsimp only
  repeat' first
    | with_reducible assumption
    | with_reducible apply setFld_upto

theorem bumpWrap_upto {m : Nat} {s0 : State} {f : FieldRef} {s : State} {fr : optParam Nat 0} {i : optParam Nat
    0} {n : optParam Nat 1} (h : Upto m s0 s) (hm : Sub 0x80000000 m) :
    Upto m s0 (bumpWrap f s fr i n) := by
  unfold bumpWrap
  try dsimp only
  repeat' first
    | with_reducible assumption
    | with_reducible apply setFld_upto

theorem takeFree_upto {m : Nat} {s0 : State} {s : State} (h : Upto m s0 s) (hm : Sub 0x1 m) :
    Upto m s0 (takeFree s) := by
  unfold takeFree
  try dsimp only
  repeat' first
    | with_reducible assumption
    | fail_if_no_progress with_reducible refine Upto.free_set ?_ (hm.bit rfl)

theorem setUp_upto {m : Nat} {s0 : State} {d : Nat} {b : Bool} {s : State} (h : Upto m s0 s) (hm : Sub 0x400000
    m) :
    Upto m s0 (setUp d b s) := by
  unfold setUp
  try dsimp only
  repeat' first
    | with_reducible assumption
    | fail_if_no_progress with_reducible refine Upto.pwr_set ?_ (hm.bit rfl)

theorem setDomReq_upto {m : Nat} {s0 : State} {d : Nat} {b : Bool} {s : State} (h : Upto m s0 s) (hm : Sub
    0x80000000 m) :
    Upto m s0 (setDomReq d b s) := by
  unfold setDomReq
  try dsimp only
  repeat' first
    | with_reducible assumption
    | with_reducible apply setRword_upto

theorem tallyAdd_upto {m : Nat} {s0 : State} {c : Nat} {n : Nat} {s : State} (h : Upto m s0 s) (hm : Sub
    0x2000000 m) :
    Upto m s0 (tallyAdd c n s) := by
  unfold tallyAdd
  try dsimp only
  repeat' first
    | with_reducible assumption
    | with_reducible apply Upto.ite
    | fail_if_no_progress with_reducible refine Upto.tly_set ?_ (hm.bit rfl)

theorem tally_upto {m : Nat} {s0 : State} {c : Nat} {s : State} (h : Upto m s0 s) (hm : Sub 0x2000000 m) :
    Upto m s0 (tally c s) := by
  unfold tally
  try dsimp only
  repeat' first
    | with_reducible assumption
    | with_reducible apply tallyAdd_upto

theorem modSrc_upto {m : Nat} {s0 : State} {n : Nat} {f : IctSrc → IctSrc} {s : State} (h : Upto m s0 s) (hm :
    Sub 0x80000 m) :
    Upto m s0 (modSrc n f s) := by
  unfold modSrc
  try dsimp only
  repeat' first
    | with_reducible assumption
    | fail_if_no_progress with_reducible refine Upto.ict_set ?_ (hm.bit rfl)

theorem modGroup_upto {m : Nat} {s0 : State} {g : Nat} {f : IctGroup → IctGroup} {s : State} (h : Upto m s0 s)
    (hm : Sub 0x80000 m) :
    Upto m s0 (modGroup g f s) := by
  unfold modGroup
  try dsimp only
  repeat' first
    | with_reducible assumption
    | fail_if_no_progress with_reducible refine Upto.ict_set ?_ (hm.bit rfl)

theorem modCtx_upto {m : Nat} {s0 : State} {n : Nat} {f : IctCtx → IctCtx} {s : State} (h : Upto m s0 s) (hm :
    Sub 0x80000 m) :
    Upto m s0 (modCtx n f s) := by
  unfold modCtx
  try dsimp only
  repeat' first
    | with_reducible assumption
    | fail_if_no_progress with_reducible refine Upto.ict_set ?_ (hm.bit rfl)

theorem settleCtx_upto {m : Nat} {s0 : State} {delay : Nat} {c : Nat} {s : State} (h : Upto m s0 s) (hm : Sub
    0x80080000 m) :
    Upto m s0 (settleCtx delay c s) := by
  unfold settleCtx
  try dsimp only
  repeat' first
    | with_reducible assumption
    | intro _
    | ((with_reducible refine Sub.of hm ?_); rfl)
    | with_reducible apply modCtx_upto
    | with_reducible apply bump_upto
    | with_reducible apply setFld_upto
    | with_reducible apply modSrc_upto
    | with_reducible apply Upto.forEach
    | with_reducible apply Upto.ite

theorem ictSettle_upto {m : Nat} {s0 : State} {s : State} (h : Upto m s0 s) (hm : Sub 0x80080000 m) :
    Upto m s0 (ictSettle s) := by
  unfold ictSettle
  try dsimp only
  repeat' first
    | with_reducible assumption
    | intro _
    | with_reducible apply settleCtx_upto
    | with_reducible apply Upto.forEach

theorem askUp_upto {m : Nat} {s0 : State} {d : Nat} {s : State} (h : Upto m s0 s) (hm : Sub 0x80400000 m) :
    Upto m s0 (askUp d s) := by
  unfold askUp
  try dsimp only
  repeat' first
    | with_reducible assumption
    | ((with_reducible refine Sub.of hm ?_); rfl)
    | with_reducible apply setDomReq_upto
    | with_reducible apply Upto.ite
    | fail_if_no_progress with_reducible refine Upto.pwr_set ?_ (hm.bit rfl)

theorem wakeCore_upto {m : Nat} {s0 : State} {core : Nat} {s : State} (h : Upto m s0 s) (hm : Sub 0x80480000 m)
    :
    Upto m s0 (wakeCore core s).1 := by
  unfold wakeCore
  try dsimp only
  repeat' first
    | with_reducible assumption
    | ((with_reducible refine Sub.of hm ?_); rfl)
    | with_reducible apply bump_upto
    | with_reducible apply askUp_upto
    | fail_if_no_progress with_reducible refine Upto.ict_set ?_ (hm.bit rfl)
    | fail_if_no_progress with_reducible refine Upto.pwr_set ?_ (hm.bit rfl)
    | split

theorem srcArrive_upto {m : Nat} {s0 : State} {src : Nat} {s : State} (h : Upto m s0 s) (hm : Sub 0x80000 m) :
    Upto m s0 (srcArrive src s).1 := by
  unfold srcArrive
  try dsimp only
  repeat' first
    | with_reducible assumption
    | with_reducible apply modSrc_upto
    | with_reducible apply modGroup_upto
    | split

theorem doWakes_upto {m : Nat} {s0 : State} {cores : List Nat} {s : State} (h : Upto m s0 s) (hm : Sub
    0x80480000 m) :
    Upto m s0 (doWakes cores s) := by
  unfold doWakes
  try dsimp only
  repeat' first
    | with_reducible assumption
    | intro _
    | ((with_reducible refine Sub.of hm ?_); rfl)
    | with_reducible apply wakeCore_upto
    | with_reducible apply srcArrive_upto
    | with_reducible apply Upto.forEach
    | with_reducible refine Upto.fst (by assumption) ?_
    | split

theorem raise_upto {m : Nat} {s0 : State} {src : Nat} {s : State} (h : Upto m s0 s) (hm : Sub 0x80480000 m) :
    Upto m s0 (raise src s) := by
  unfold raise
  try dsimp only
  repeat' first
    | with_reducible assumption
    | ((with_reducible refine Sub.of hm ?_); rfl)
    | with_reducible apply srcArrive_upto
    | with_reducible apply ictSettle_upto
    | with_reducible apply doWakes_upto

end Sys2Proof.Machine
end

