-- ==== Sys2Proof/Laws/UptoAccess.lean ====
section
/-! SUPPORT. What each operation of Machine/Access.lean leaves unchanged (Laws/Upto.lean). -/

set_option linter.unusedTactic false
set_option linter.unreachableTactic false

namespace Sys2Proof.Machine

theorem modLane_upto {m : Nat} {s0 : State} {n : Nat} {f : Lane → Lane} {s : State} (h : Upto m s0 s) (hm : Sub
    0x8 m) :
    Upto m s0 (modLane n f s) := by
  unfold modLane
  try dsimp only
  repeat' first
    | with_reducible assumption
    | fail_if_no_progress with_reducible refine Upto.lane_set ?_ (hm.bit rfl)

theorem modLfi_upto {m : Nat} {s0 : State} {n : Nat} {f : Lfi → Lfi} {s : State} (h : Upto m s0 s) (hm : Sub
    0x10 m) :
    Upto m s0 (modLfi n f s) := by
  unfold modLfi
  try dsimp only
  repeat' first
    | with_reducible assumption
    | fail_if_no_progress with_reducible refine Upto.lfi_set ?_ (hm.bit rfl)

theorem modPort_upto {m : Nat} {s0 : State} {b : Nat} {p : Nat} {f : LfiPort → LfiPort} {s : State} (h : Upto m
    s0 s) (hm : Sub 0x20 m) :
    Upto m s0 (modPort b p f s) := by
  unfold modPort
  try dsimp only
  repeat' first
    | with_reducible assumption
    | fail_if_no_progress with_reducible refine Upto.port_set ?_ (hm.bit rfl)

theorem modSwt_upto {m : Nat} {s0 : State} {n : Nat} {f : Swt → Swt} {s : State} (h : Upto m s0 s) (hm : Sub
    0x40 m) :
    Upto m s0 (modSwt n f s) := by
  unfold modSwt
  try dsimp only
  repeat' first
    | with_reducible assumption
    | fail_if_no_progress with_reducible refine Upto.swt_set ?_ (hm.bit rfl)

theorem modNdl_upto {m : Nat} {s0 : State} {n : Nat} {f : Ndl → Ndl} {s : State} (h : Upto m s0 s) (hm : Sub
    0x80 m) :
    Upto m s0 (modNdl n f s) := by
  unfold modNdl
  try dsimp only
  repeat' first
    | with_reducible assumption
    | fail_if_no_progress with_reducible refine Upto.ndl_set ?_ (hm.bit rfl)

theorem modBank_upto {m : Nat} {s0 : State} {k : Nat} {b : Bool} {f : NanoBank → NanoBank} {s : State} (h : Upto
    m s0 s) (hm : Sub 0x100 m) :
    Upto m s0 (modBank k b f s) := by
  unfold modBank
  try dsimp only
  repeat' first
    | with_reducible assumption
    | fail_if_no_progress with_reducible refine Upto.bank_set ?_ (hm.bit rfl)

theorem modDist_upto {m : Nat} {s0 : State} {k : Nat} {d : Nat} {f : Dist → Dist} {s : State} (h : Upto m s0 s)
    (hm : Sub 0x200 m) :
    Upto m s0 (modDist k d f s) := by
  unfold modDist
  try dsimp only
  repeat' first
    | with_reducible assumption
    | fail_if_no_progress with_reducible refine Upto.dist_set ?_ (hm.bit rfl)

theorem modSkn_upto {m : Nat} {s0 : State} {k : Nat} {f : Skn → Skn} {s : State} (h : Upto m s0 s) (hm : Sub
    0x400 m) :
    Upto m s0 (modSkn k f s) := by
  unfold modSkn
  try dsimp only
  repeat' first
    | with_reducible assumption
    | fail_if_no_progress with_reducible refine Upto.skn_set ?_ (hm.bit rfl)

theorem modPat_upto {m : Nat} {s0 : State} {n : Nat} {f : Pat → Pat} {s : State} (h : Upto m s0 s) (hm : Sub
    0x800 m) :
    Upto m s0 (modPat n f s) := by
  unfold modPat
  try dsimp only
  repeat' first
    | with_reducible assumption
    | fail_if_no_progress with_reducible refine Upto.pat_set ?_ (hm.bit rfl)

theorem modEnc_upto {m : Nat} {s0 : State} {n : Nat} {k : Nat} {f : Enc → Enc} {s : State} (h : Upto m s0 s) (hm
    : Sub 0x800 m) :
    Upto m s0 (modEnc n k f s) := by
  unfold modEnc
  try dsimp only
  repeat' first
    | with_reducible assumption
    | with_reducible apply modPat_upto

theorem modGau_upto {m : Nat} {s0 : State} {n : Nat} {k : Nat} {f : Gau → Gau} {s : State} (h : Upto m s0 s) (hm
    : Sub 0x800 m) :
    Upto m s0 (modGau n k f s) := by
  unfold modGau
  try dsimp only
  repeat' first
    | with_reducible assumption
    | with_reducible apply modPat_upto

theorem modDec_upto {m : Nat} {s0 : State} {n : Nat} {i : Nat} {f : Dec → Dec} {s : State} (h : Upto m s0 s) (hm
    : Sub 0x800 m) :
    Upto m s0 (modDec n i f s) := by
  unfold modDec
  try dsimp only
  repeat' first
    | with_reducible assumption
    | with_reducible apply modPat_upto

theorem modMem_upto {m : Nat} {s0 s : State} {f : Mem → Mem} (h : Upto m s0 s) (hf : MemUpto m s.mem (f s.mem)) :
    Upto m s0 (modMem f s) := h.mem_set hf

theorem modBay_upto {m : Nat} {s0 : State} {b : Nat} {f : Bay → Bay} {s : State} (h : Upto m s0 s) (hm : Sub
    0x2000000000 m) :
    Upto m s0 (modBay b f s) := by
  unfold modBay
  try dsimp only
  repeat' first
    | with_reducible assumption
    | with_reducible apply modMem_upto
    | (constructor
       all_goals first
         | exact fun _ => rfl
         | exact fun _ => ⟨rfl, rfl⟩
         | exact fun _ => ⟨rfl, rfl, rfl, rfl, rfl⟩
         | (intro k; exact absurd ((hm.bit rfl).symm.trans k) (by decide))
         | (intro w; rw [Memory.wf_iff] at *; obtain ⟨w1, w2, w3, w4, w5, w6, w7, w8, w9, w10⟩ := w
            refine ⟨?_, ?_, ?_, ?_, ?_, ?_, ?_, ?_, ?_, ?_⟩
            all_goals try dsimp only
            all_goals first
              | assumption
              | (apply tabWf_tabSet; assumption)
              | (apply tabWf_tabErase; assumption)
              | (apply tabWf_tabMod; assumption)
              | (apply tabWf_filter; assumption)))

theorem modMch_upto {m : Nat} {s0 : State} {c : Nat} {f : Mch → Mch} {s : State} (h : Upto m s0 s) (hm : Sub
    0x2000000000 m) :
    Upto m s0 (modMch c f s) := by
  unfold modMch
  try dsimp only
  repeat' first
    | with_reducible assumption
    | with_reducible apply modMem_upto
    | (constructor
       all_goals first
         | exact fun _ => rfl
         | exact fun _ => ⟨rfl, rfl⟩
         | exact fun _ => ⟨rfl, rfl, rfl, rfl, rfl⟩
         | (intro k; exact absurd ((hm.bit rfl).symm.trans k) (by decide))
         | (intro w; rw [Memory.wf_iff] at *; obtain ⟨w1, w2, w3, w4, w5, w6, w7, w8, w9, w10⟩ := w
            refine ⟨?_, ?_, ?_, ?_, ?_, ?_, ?_, ?_, ?_, ?_⟩
            all_goals try dsimp only
            all_goals first
              | assumption
              | (apply tabWf_tabSet; assumption)
              | (apply tabWf_tabErase; assumption)
              | (apply tabWf_tabMod; assumption)
              | (apply tabWf_filter; assumption)))

theorem modSth_upto {m : Nat} {s0 : State} {f : Sth → Sth} {s : State} (h : Upto m s0 s) (hm : Sub 0x4000000 m)
    :
    Upto m s0 (modSth f s) := by
  unfold modSth
  try dsimp only
  repeat' first
    | with_reducible assumption
    | fail_if_no_progress with_reducible refine Upto.sth_set ?_ (hm.bit rfl)

theorem modLink_upto {m : Nat} {s0 : State} {k : Nat} {f : SthLink → SthLink} {s : State} (h : Upto m s0 s) (hm
    : Sub 0x4000000 m) :
    Upto m s0 (modLink k f s) := by
  unfold modLink
  try dsimp only
  repeat' first
    | with_reducible assumption
    | with_reducible apply modSth_upto

end Sys2Proof.Machine
end

