-- ==== Sys2Proof/Laws/UptoHalt.lean ====
section
/-! SUPPORT. What each operation of Machine/Halt.lean leaves unchanged (Laws/Upto.lean). -/

set_option linter.unusedTactic false
set_option linter.unreachableTactic false

namespace Sys2Proof.Machine

theorem setNdlSt_upto {m : Nat} {s0 : State} {n : Nat} {st : NdlSt} {s : State} (h : Upto m s0 s) (hm : Sub
    0x80480080 m) :
    Upto m s0 (setNdlSt n st s) := by
  unfold setNdlSt
  try dsimp only
  repeat' first
    | with_reducible assumption
    | ((with_reducible refine Sub.of hm ?_); rfl)
    | with_reducible apply raise_upto
    | with_reducible apply modNdl_upto
    | with_reducible apply Upto.ite

theorem ndlIrq_upto {m : Nat} {s0 : State} {n : Nat} {i : Nat} {s : State} (h : Upto m s0 s) (hm : Sub 0x80 m) :
    Upto m s0 (ndlIrq n i s) := by
  unfold ndlIrq
  try dsimp only
  repeat' first
    | with_reducible assumption
    | with_reducible apply modNdl_upto

theorem askAbort_upto {m : Nat} {s0 : State} {n : Nat} {cause : Nat} {s : State} (h : Upto m s0 s) (hm : Sub
    0x80 m) :
    Upto m s0 (askAbort n cause s) := by
  unfold askAbort
  try dsimp only
  repeat' first
    | with_reducible assumption
    | with_reducible apply modNdl_upto

theorem askHalt_upto {m : Nat} {s0 : State} {n : Nat} {fromFault : Bool} {s : State} (h : Upto m s0 s) (hm : Sub
    0x80480080 m) :
    Upto m s0 (askHalt n fromFault s) := by
  unfold askHalt
  try dsimp only
  repeat' first
    | with_reducible assumption
    | ((with_reducible refine Sub.of hm ?_); rfl)
    | with_reducible apply modNdl_upto
    | with_reducible apply setNdlSt_upto
    | with_reducible apply Upto.ite

theorem frozenNeedles_upto {m : Nat} {s0 : State} {s : State} (h : Upto m s0 s) (hm : Sub 0x80480080 m) :
    Upto m s0 (frozenNeedles s) := by
  unfold frozenNeedles
  try dsimp only
  repeat' first
    | with_reducible assumption
    | intro _
    | with_reducible apply askHalt_upto
    | with_reducible apply Upto.forEach

theorem frozenPorters_upto {m : Nat} {s0 : State} {s : State} (h : Upto m s0 s) (hm : Sub 0x40000000 m) :
    Upto m s0 (frozenPorters s) := by
  unfold frozenPorters
  try dsimp only
  repeat' first
    | with_reducible assumption
    | fail_if_no_progress with_reducible refine Upto.prt_set ?_ (hm.bit rfl)

theorem frozenMags_upto {m : Nat} {s0 : State} {s : State} (h : Upto m s0 s) (hm : Sub 0x10000000 m) :
    Upto m s0 (frozenMags s) := by
  unfold frozenMags
  try dsimp only
  repeat' first
    | with_reducible assumption
    | fail_if_no_progress with_reducible refine Upto.mag_set ?_ (hm.bit rfl)

theorem frozenStops_upto {m : Nat} {s0 : State} {s : State} (h : Upto m s0 s) (hm : Sub 0xd0480080 m) :
    Upto m s0 (frozenStops s) := by
  unfold frozenStops
  try dsimp only
  repeat' first
    | with_reducible assumption
    | ((with_reducible refine Sub.of hm ?_); rfl)
    | with_reducible apply frozenMags_upto
    | with_reducible apply frozenPorters_upto
    | with_reducible apply frozenNeedles_upto

end Sys2Proof.Machine
end

