-- ==== Sys2Proof/Laws/UptoReport.lean ====
section
/-! SUPPORT. What each operation of Machine/Report.lean leaves unchanged (Laws/Upto.lean). -/

set_option linter.unusedTactic false
set_option linter.unreachableTactic false

namespace Sys2Proof.Machine

theorem ldgPushOr_upto {m : Nat} {s0 : State} {full : State → State} {r : LdgRec} {s : State} (h : Upto m s0 s)
    (hfull : ∀ x0, Upto m s0 x0 → Upto m s0 (full x0)) (hm : Sub 0x81480000 m) :
    Upto m s0 (ldgPushOr full r s) := by
  unfold ldgPushOr
  try dsimp only
  repeat' first
    | with_reducible assumption
    | ((with_reducible refine Sub.of hm ?_); rfl)
    | with_reducible apply bump_upto
    | with_reducible apply raise_upto
    | with_reducible apply hfull
    | with_reducible apply Upto.ite
    | fail_if_no_progress with_reducible refine Upto.ldg_set ?_ (hm.bit rfl)

theorem addSwitching_upto {m : Nat} {s0 : State} {l : List (Nat × Bool)} {s : State} (h : Upto m s0 s) (hm : Sub
    0x400000 m) :
    Upto m s0 (addSwitching l s) := by
  unfold addSwitching
  try dsimp only
  repeat' first
    | with_reducible assumption
    | fail_if_no_progress with_reducible refine Upto.pwr_set ?_ (hm.bit rfl)

theorem modeEntry_upto {m : Nat} {s0 : State} {a0 : Mode} {s : State} (h : Upto m s0 s) (hm : Sub 0xd0480080 m)
    :
    Upto m s0 (modeEntry a0 s) := by
  unfold modeEntry
  try dsimp only
  repeat' first
    | with_reducible assumption
    | ((with_reducible refine Sub.of hm ?_); rfl)
    | with_reducible apply addSwitching_upto
    | with_reducible apply frozenStops_upto
    | split

theorem setModeOr_upto {m : Nat} {s0 : State} {full : State → State} {a1 : Mode} {cause : Nat} {s : State} (h :
    Upto m s0 s) (hfull : ∀ x0, Upto m s0 x0 → Upto m s0 (full x0)) (hm : Sub 0xd1480080 m) :
    Upto m s0 (setModeOr full a1 cause s) := by
  unfold setModeOr
  try dsimp only
  repeat' first
    | with_reducible assumption
    | ((with_reducible refine Sub.of hm ?_); rfl)
    | with_reducible apply raise_upto
    | with_reducible apply ldgPushOr_upto
    | with_reducible apply modeEntry_upto
    | fail_if_no_progress with_reducible refine Upto.pwr_set ?_ (hm.bit rfl)

theorem isolate_upto {m : Nat} {s0 : State} {d : Nat} {s : State} (h : Upto m s0 s) (hm : Sub 0x80400000 m) :
    Upto m s0 (isolate d s) := by
  unfold isolate
  try dsimp only
  repeat' first
    | with_reducible assumption
    | ((with_reducible refine Sub.of hm ?_); rfl)
    | with_reducible apply setDomReq_upto
    | with_reducible apply addSwitching_upto
    | with_reducible apply Upto.ite
    | fail_if_no_progress with_reducible refine Upto.pwr_set ?_ (hm.bit rfl)

theorem setLatched_upto {m : Nat} {s0 : State} {src : Nat} {b : Bool} {s : State} (h : Upto m s0 s) (hm : Sub
    0x80000000 m) :
    Upto m s0 (setLatched src b s) := by
  unfold setLatched
  try dsimp only
  repeat' first
    | with_reducible assumption
    | with_reducible apply setRword_upto

theorem severityAct_upto {m : Nat} {s0 : State} {full : State → State} {sev : Nat} {src : Nat} {detail : Nat} {s
    : State} (h : Upto m s0 s) (hfull : ∀ x0, Upto m s0 x0 → Upto m s0 (full x0)) (hm : Sub 0xd3480080 m) :
    Upto m s0 (severityAct full sev src detail s) := by
  unfold severityAct
  try dsimp only
  repeat' first
    | with_reducible assumption
    | ((with_reducible refine Sub.of hm ?_); rfl)
    | with_reducible apply raise_upto
    | with_reducible apply isolate_upto
    | with_reducible apply setModeOr_upto
    | with_reducible apply tally_upto
    | with_reducible apply Upto.ite
    | fail_if_no_progress with_reducible refine Upto.pwr_set ?_ (hm.bit rfl)
    | split

theorem reportN_upto {m : Nat} {s0 : State} {a0 : Nat} {a1 : Nat} {a2 : Nat} {a3 : Nat} {a4 : Nat} {a5 : State}
    (h : Upto m s0 a5) (hm : Sub 0xd3c80080 m) :
    Upto m s0 (reportN a0 a1 a2 a3 a4 a5) := by
  induction a0 generalizing a1 a2 a3 a4 a5 with
  | zero =>
    unfold reportN
    try dsimp only
    repeat' first
      | with_reducible assumption
      | intro _
      | ((with_reducible refine Sub.of hm ?_); rfl)
      | with_reducible apply tally_upto
      | with_reducible apply bump_upto
      | with_reducible apply setLatched_upto
      | with_reducible apply ldgPushOr_upto
      | with_reducible apply severityAct_upto
      | with_reducible apply Upto.ite
      | fail_if_no_progress with_reducible refine Upto.fcl_set ?_ (hm.bit rfl)
  | succ n1 ih =>
    unfold reportN
    try dsimp only
    repeat' first
      | with_reducible assumption
      | intro _
      | ((with_reducible refine Sub.of hm ?_); rfl)
      | with_reducible apply ih
      | with_reducible apply tally_upto
      | with_reducible apply bump_upto
      | with_reducible apply setLatched_upto
      | with_reducible apply ldgPushOr_upto
      | with_reducible apply severityAct_upto
      | with_reducible apply Upto.ite
      | fail_if_no_progress with_reducible refine Upto.fcl_set ?_ (hm.bit rfl)

theorem report_upto {m : Nat} {s0 : State} {src : Nat} {sub : Nat} {detail : Nat} {req : Nat} {s : State} (h :
    Upto m s0 s) (hm : Sub 0xd3c80080 m) :
    Upto m s0 (report src sub detail req s) := by
  unfold report
  try dsimp only
  repeat' first
    | with_reducible assumption
    | with_reducible apply reportN_upto

theorem ldgFull_upto {m : Nat} {s0 : State} {s : State} (h : Upto m s0 s) (hm : Sub 0xd3c80080 m) :
    Upto m s0 (ldgFull s) := by
  unfold ldgFull
  try dsimp only
  repeat' first
    | with_reducible assumption
    | with_reducible apply report_upto

theorem ldgPush_upto {m : Nat} {s0 : State} {r : LdgRec} {s : State} (h : Upto m s0 s) (hm : Sub 0xd3c80080 m) :
    Upto m s0 (ldgPush r s) := by
  unfold ldgPush
  try dsimp only
  repeat' first
    | with_reducible assumption
    | intro _
    | ((with_reducible refine Sub.of hm ?_); rfl)
    | with_reducible apply ldgPushOr_upto
    | with_reducible apply ldgFull_upto

theorem setMode_upto {m : Nat} {s0 : State} {a0 : Mode} {cause : Nat} {s : State} (h : Upto m s0 s) (hm : Sub
    0xd3c80080 m) :
    Upto m s0 (setMode a0 cause s) := by
  unfold setMode
  try dsimp only
  repeat' first
    | with_reducible assumption
    | intro _
    | ((with_reducible refine Sub.of hm ?_); rfl)
    | with_reducible apply setModeOr_upto
    | with_reducible apply ldgFull_upto

theorem busError_upto {m : Nat} {s0 : State} {req : Nat} {addr : Nat} {write : Bool} {c : Berr} {s : State} (h :
    Upto m s0 s) (hm : Sub 0x80000000 m) :
    Upto m s0 (busError req addr write c s) := by
  unfold busError
  try dsimp only
  repeat' first
    | with_reducible assumption
    | with_reducible apply bump_upto
    | with_reducible apply setRword_upto
    | with_reducible apply setFld_upto
    | with_reducible apply Upto.ite

end Sys2Proof.Machine
end

