-- ==== Sys2Proof/Laws/UptoRegWrite.lean ====
section
/-! SUPPORT. What each operation of Machine/RegWrite.lean leaves unchanged (Laws/Upto.lean). -/

set_option linter.unusedTactic false
set_option linter.unreachableTactic false

namespace Sys2Proof.Machine

theorem putWord_upto {m : Nat} {s0 : State} {r : Reg} {req : Nat} {fr : Nat} {i : Nat} {w : Nat} {v : Nat} {s :
    State} (h : Upto m s0 s) (hm : Sub 0x80000000 m) :
    Upto m s0 (putWord r req fr i w v s) := by
  unfold putWord
  try dsimp only
  repeat' first
    | with_reducible assumption
    | with_reducible apply setRwordQ_upto
    | with_reducible apply setRword_upto
    | with_reducible apply Upto.ite

theorem stageWord_upto {m : Nat} {s0 : State} {r : Reg} {fr : Nat} {i : Nat} {w : Nat} {a : Acc} {s : State} (h
    : Upto m s0 s) (hm : Sub 0x200000000 m) :
    Upto m s0 (stageWord r fr i w a s) := by
  unfold stageWord
  try dsimp only
  repeat' first
    | with_reducible assumption
    | fail_if_no_progress with_reducible refine Upto.fabric_set ?_ (hm.bit rfl)

theorem dropStage_upto {m : Nat} {s0 : State} {r : Reg} {req : Nat} {fr : Nat} {i : Nat} {s : State} (h : Upto m
    s0 s) (hm : Sub 0x200000000 m) :
    Upto m s0 (dropStage r req fr i s) := by
  unfold dropStage
  try dsimp only
  repeat' first
    | with_reducible assumption
    | fail_if_no_progress with_reducible refine Upto.fabric_set ?_ (hm.bit rfl)

/-- Every entry of a table that one write changes. -/
theorem tabSet_all {α : Type} [DecidableEq α] {d : α} {t : Tab α} {k : Nat} {v : α} (p : Nat × α → Bool)
    (ht : t.all p = true) (hv : p (k, v) = true) : (tabSet d t k v).all p = true := by
  have he : (tabErase t k).all p = true := by
    rw [tabErase_eq_filter, List.all_eq_true]
    intro x hx
    exact List.all_eq_true.mp ht x (List.mem_filter.mp hx).1
  unfold tabSet
  split
  · exact he
  · exact tabInsert_all p hv he

/-- The value that a table of such entries gives for a key. -/
theorem tabGet_all {α : Type} {d : α} {t : Tab α} (q : α → Bool) (ht : (t.all fun e => q e.2) = true) (hd : q d = true)
    (k : Nat) : q (tabGet d t k) = true := by
  induction t with
  | nil => exact hd
  | cons e t ih =>
    rw [List.all_cons, Bool.and_eq_true] at ht
    obtain ⟨j, v⟩ := e
    by_cases hj : j = k
    · simpa [tabGet, tabFind, hj] using ht.1
    · have := ih ht.2
      simpa [tabGet, tabFind, hj] using this

theorem modKey_upto {m : Nat} {s0 s : State} {f : Nat} {g : KeyGuard → KeyGuard} (h : Upto m s0 s)
    (hg : ∀ x : KeyGuard, x.ends ≤ s.now + 256 → (g x).ends ≤ s.now + 256) (hm : Sub 0x100000000 m) :
    Upto m s0 (modKey f g s) := by
  refine h.trans ?_
  constructor
  case keys => intro k; exact absurd ((hm.bit rfl).symm.trans k) (by decide)
  case keysOk =>
    intro w
    unfold Machine.keysOk at *
    refine tabSet_all (fun e : Nat × KeyGuard => decide (e.2.ends ≤ s.now + 256)) w ?_
    have h1 := tabGet_all (d := KeyGuard.reset) (fun x : KeyGuard => decide (x.ends ≤ s.now + 256)) w (by simp [KeyGuard.reset]) f
    exact decide_eq_true (hg _ (of_decide_eq_true h1))
  case fabric => exact fun _ => ⟨rfl, rfl, rfl, rfl, rfl, rfl, rfl, rfl, rfl⟩
  case wf => exact id
  case skm => exact fun _ => ⟨rfl, rfl⟩
  case ls => exact fun _ => ⟨rfl, rfl⟩
  case rld => exact fun _ => ⟨rfl, rfl, rfl, rfl, rfl⟩
  all_goals first | rfl | exact fun _ => rfl

theorem keyReject_upto {m : Nat} {s0 : State} {f : Nat} {req : Nat} {c : Berr} {s : State} (h : Upto m s0 s) (hm
    : Sub 0x100000000 m) :
    Upto m s0 (keyReject f req c s) := by
  exact modKey_upto h (fun _ k => k) hm

theorem keyGrant_upto {m : Nat} {s0 : State} {f : Nat} {req : Nat} {s : State} (h : Upto m s0 s) (hm : Sub
    0x100000000 m) :
    Upto m s0 (keyGrant f req s) := by
  exact modKey_upto h (fun _ _ => Nat.le_refl _) hm

theorem keyClose_upto {m : Nat} {s0 : State} {f : Nat} {s : State} (h : Upto m s0 s) (hm : Sub 0x100000000 m) :
    Upto m s0 (keyClose f s) := by
  exact modKey_upto h (fun _ _ => Nat.zero_le _) hm

theorem parityWritten_upto {m : Nat} {s0 : State} {r : Reg} {req : Nat} {fr : Nat} {i : Nat} {s : State} (h :
    Upto m s0 s) (hm : Sub 0x200000000 m) :
    Upto m s0 (parityWritten r req fr i s) := by
  unfold parityWritten
  try dsimp only
  repeat' first
    | with_reducible assumption
    | with_reducible apply Upto.ite
    | fail_if_no_progress with_reducible refine Upto.fabric_set ?_ (hm.bit rfl)

theorem storeVals_upto {m : Nat} {s0 : State} {r : Reg} {req : Nat} {fr : Nat} {i : Nat} {vals : List Nat} {s :
    State} (h : Upto m s0 s) (hm : Sub 0x80000000 m) :
    Upto m s0 (storeVals r req fr i vals s) := by
  unfold storeVals
  try dsimp only
  repeat' first
    | with_reducible assumption
    | intro _
    | with_reducible apply putWord_upto
    | with_reducible apply Upto.forEach
    | with_reducible apply Upto.ite

theorem served_upto {m : Nat} {s0 : State} {f : Nat} {req : Nat} {s : State} (h : Upto m s0 s) (hm : Sub
    0x200000000 m) :
    Upto m s0 (served f req s) := by
  unfold served
  try dsimp only
  repeat' first
    | with_reducible assumption
    | fail_if_no_progress with_reducible refine Upto.fabric_set ?_ (hm.bit rfl)

theorem writeReg_upto {m : Nat} {s0 : State} {r : Reg} {fr : Nat} {i : Nat} {w : Nat} {a : Acc} {busy : List Nat
    → Option Berr} {ok : List Nat → Bool} {keep : Bool} {eff : List Nat → State → State} {s : State} (h : Upto m s0
    s) (heff : ∀ x0 x1, Upto m s0 x1 → Upto m s0 (eff x0 x1)) (hm : Sub 0x380000000 m) :
    Upto m s0 (writeReg r fr i w a busy ok keep eff s).1 := by
  unfold writeReg
  try dsimp only
  repeat' first
    | with_reducible assumption
    | ((with_reducible refine Sub.of hm ?_); rfl)
    | with_reducible apply served_upto
    | with_reducible apply stageWord_upto
    | with_reducible apply dropStage_upto
    | with_reducible apply keyReject_upto
    | with_reducible apply keyClose_upto
    | with_reducible apply parityWritten_upto
    | with_reducible apply storeVals_upto
    | with_reducible apply heff
    | with_reducible apply Upto.ite
    | split

theorem accessEnd_upto {m : Nat} {s0 : State} {req : Nat} {addr : Nat} {write : Bool} {x : State × Option Berr}
    (h : Upto m s0 (x).1) (hm : Sub 0x80000000 m) :
    Upto m s0 (accessEnd req addr write x) := by
  unfold accessEnd
  try dsimp only
  repeat' first
    | with_reducible assumption
    | with_reducible apply busError_upto
    | split

theorem writeOne_upto {m : Nat} {s0 : State} {r : Reg} {fr : Nat} {i : Nat} {w : Nat} {a : Acc} {busy : List Nat
    → Option Berr} {ok : List Nat → Bool} {keep : Bool} {eff : List Nat → State → State} {s : State} (h : Upto m s0
    s) (heff : ∀ x0 x1, Upto m s0 x1 → Upto m s0 (eff x0 x1)) (hm : Sub 0x380000000 m) :
    Upto m s0 (writeOne r fr i w a busy ok keep eff s) := by
  unfold writeOne
  try dsimp only
  repeat' first
    | with_reducible assumption
    | ((with_reducible refine Sub.of hm ?_); rfl)
    | with_reducible apply accessEnd_upto
    | with_reducible apply writeReg_upto

theorem regCommit_upto {m : Nat} {s0 : State} {r : Reg} {fr : Nat} {i : Nat} {a : Acc} {busy : List Nat → Option
    Berr} {ok : List Nat → Bool} {eff : List Nat → State → State} {s : State} (h : Upto m s0 s) (heff : ∀ x0 x1,
    Upto m s0 x1 → Upto m s0 (eff x0 x1)) (hm : Sub 0x380000000 m) :
    Upto m s0 (regCommit r fr i a busy ok eff s) := by
  unfold regCommit
  try dsimp only
  repeat' first
    | with_reducible assumption
    | with_reducible apply writeOne_upto

theorem commitWords_upto {m : Nat} {s0 : State} {r : Reg} {fr : Nat} {i : Nat} {req : Req} {ws : List Nat} {busy
    : List Nat → Option Berr} {ok : List Nat → Bool} {eff : List Nat → State → State} {s : State} (h : Upto m s0 s)
    (heff : ∀ x0 x1, Upto m s0 x1 → Upto m s0 (eff x0 x1)) (hm : Sub 0x380000000 m) :
    Upto m s0 (commitWords r fr i req ws busy ok eff s) := by
  unfold commitWords
  try dsimp only
  repeat' first
    | with_reducible assumption
    | intro _
    | with_reducible apply writeOne_upto
    | with_reducible apply Upto.forEach

theorem answer_upto {m : Nat} {s0 : State} {req : Nat} {v : Nat} {s : State} (h : Upto m s0 s) (hm : Sub
    0x200000000 m) :
    Upto m s0 (answer req v s) := by
  unfold answer
  try dsimp only
  repeat' first
    | with_reducible assumption
    | fail_if_no_progress with_reducible refine Upto.fabric_set ?_ (hm.bit rfl)

theorem latchWords_upto {m : Nat} {s0 : State} {r : Reg} {req : Nat} {fr : Nat} {i : Nat} {ws : List Nat} {s :
    State} (h : Upto m s0 s) (hm : Sub 0x200000000 m) :
    Upto m s0 (latchWords r req fr i ws s) := by
  unfold latchWords
  try dsimp only
  repeat' first
    | with_reducible assumption
    | intro _
    | with_reducible apply Upto.forEach
    | fail_if_no_progress with_reducible refine Upto.fabric_set ?_ (hm.bit rfl)

theorem readServed_upto {m : Nat} {s0 : State} {r : Reg} {fr : Nat} {i : Nat} {req : Req} {serve : State →
    State} {s : State} (h : Upto m s0 s) (hserve : ∀ x0, Upto m s0 x0 → Upto m s0 (serve x0)) (hm : Sub 0x280000000
    m) :
    Upto m s0 (readServed r fr i req serve s) := by
  unfold readServed
  try dsimp only
  repeat' first
    | with_reducible assumption
    | ((with_reducible refine Sub.of hm ?_); rfl)
    | with_reducible apply served_upto
    | with_reducible apply answer_upto
    | with_reducible apply busError_upto
    | with_reducible apply hserve
    | with_reducible apply Upto.ite

end Sys2Proof.Machine
end

