-- ==== Sys2Proof/Laws/Frames.lean ====
section
/-! SUPPORT. What the operations shared by all blocks leave as it was, by field of State. -/

namespace Sys2Proof.Machine

/-- A set that names no memory leaves the memories as they were. -/
theorem Upto.memory {m : Nat} {s t : State} (h : Upto m s t) (a : m.testBit 34 = false) (b : m.testBit 35 = false)
    (c : m.testBit 36 = false) (d : m.testBit 37 = false) : t.mem = s.mem := by
  obtain ⟨h1, h2⟩ := h.skm b
  obtain ⟨h3, h4⟩ := h.ls c
  obtain ⟨h5, h6, h7, h8, h9⟩ := h.rld d
  have h0 := h.sram a
  cases hs : s.mem
  cases ht : t.mem
  simp_all

@[simp] theorem tallyAdd_pending (c : Nat) (n : Nat) (s : State) :
    (tallyAdd c n s).pending = s.pending := (tallyAdd_upto (Upto.refl 0x2000000 s) (Sub.refl _)).pending
@[simp] theorem tallyAdd_now (c : Nat) (n : Nat) (s : State) :
    (tallyAdd c n s).now = s.now := (tallyAdd_upto (Upto.refl 0x2000000 s) (Sub.refl _)).now
@[simp] theorem tallyAdd_free (c : Nat) (n : Nat) (s : State) :
    (tallyAdd c n s).free = s.free := (tallyAdd_upto (Upto.refl 0x2000000 s) (Sub.refl _)).free rfl
@[simp] theorem tallyAdd_keys (c : Nat) (n : Nat) (s : State) :
    (tallyAdd c n s).bus.keys = s.bus.keys := (tallyAdd_upto (Upto.refl 0x2000000 s) (Sub.refl _)).keys rfl
@[simp] theorem tallyAdd_staged (c : Nat) (n : Nat) (s : State) :
    (tallyAdd c n s).bus.staged = s.bus.staged :=
  ((tallyAdd_upto (Upto.refl 0x2000000 s) (Sub.refl _)).fabric rfl).1
@[simp] theorem tallyAdd_latched (c : Nat) (n : Nat) (s : State) :
    (tallyAdd c n s).bus.latched = s.bus.latched :=
  ((tallyAdd_upto (Upto.refl 0x2000000 s) (Sub.refl _)).fabric rfl).2.1
@[simp] theorem tallyAdd_rrPtr (c : Nat) (n : Nat) (s : State) :
    (tallyAdd c n s).bus.rrPtr = s.bus.rrPtr :=
  ((tallyAdd_upto (Upto.refl 0x2000000 s) (Sub.refl _)).fabric rfl).2.2.1
@[simp] theorem tallyAdd_parBad (c : Nat) (n : Nat) (s : State) :
    (tallyAdd c n s).bus.parBad = s.bus.parBad :=
  ((tallyAdd_upto (Upto.refl 0x2000000 s) (Sub.refl _)).fabric rfl).2.2.2.1
@[simp] theorem tallyAdd_parReported (c : Nat) (n : Nat) (s : State) :
    (tallyAdd c n s).bus.parReported = s.bus.parReported :=
  ((tallyAdd_upto (Upto.refl 0x2000000 s) (Sub.refl _)).fabric rfl).2.2.2.2.1
@[simp] theorem tallyAdd_answers (c : Nat) (n : Nat) (s : State) :
    (tallyAdd c n s).bus.answers = s.bus.answers :=
  ((tallyAdd_upto (Upto.refl 0x2000000 s) (Sub.refl _)).fabric rfl).2.2.2.2.2.1
@[simp] theorem tallyAdd_parPos (c : Nat) (n : Nat) (s : State) :
    (tallyAdd c n s).bus.parPos = s.bus.parPos :=
  ((tallyAdd_upto (Upto.refl 0x2000000 s) (Sub.refl _)).fabric rfl).2.2.2.2.2.2.1
@[simp] theorem tallyAdd_parAt (c : Nat) (n : Nat) (s : State) :
    (tallyAdd c n s).bus.parAt = s.bus.parAt :=
  ((tallyAdd_upto (Upto.refl 0x2000000 s) (Sub.refl _)).fabric rfl).2.2.2.2.2.2.2.1
@[simp] theorem tallyAdd_wroteNow (c : Nat) (n : Nat) (s : State) :
    (tallyAdd c n s).bus.wroteNow = s.bus.wroteNow :=
  ((tallyAdd_upto (Upto.refl 0x2000000 s) (Sub.refl _)).fabric rfl).2.2.2.2.2.2.2.2
@[simp] theorem tallyAdd_rck (c : Nat) (n : Nat) (s : State) :
    (tallyAdd c n s).rck = s.rck := (tallyAdd_upto (Upto.refl 0x2000000 s) (Sub.refl _)).rck rfl
@[simp] theorem tallyAdd_ptp (c : Nat) (n : Nat) (s : State) :
    (tallyAdd c n s).ptp = s.ptp := (tallyAdd_upto (Upto.refl 0x2000000 s) (Sub.refl _)).ptp rfl
@[simp] theorem tallyAdd_lane (c : Nat) (n : Nat) (s : State) :
    (tallyAdd c n s).lane = s.lane := (tallyAdd_upto (Upto.refl 0x2000000 s) (Sub.refl _)).lane rfl
@[simp] theorem tallyAdd_lfi (c : Nat) (n : Nat) (s : State) :
    (tallyAdd c n s).lfi = s.lfi := (tallyAdd_upto (Upto.refl 0x2000000 s) (Sub.refl _)).lfi rfl
@[simp] theorem tallyAdd_port (c : Nat) (n : Nat) (s : State) :
    (tallyAdd c n s).port = s.port := (tallyAdd_upto (Upto.refl 0x2000000 s) (Sub.refl _)).port rfl
@[simp] theorem tallyAdd_swt (c : Nat) (n : Nat) (s : State) :
    (tallyAdd c n s).swt = s.swt := (tallyAdd_upto (Upto.refl 0x2000000 s) (Sub.refl _)).swt rfl
@[simp] theorem tallyAdd_ndl (c : Nat) (n : Nat) (s : State) :
    (tallyAdd c n s).ndl = s.ndl := (tallyAdd_upto (Upto.refl 0x2000000 s) (Sub.refl _)).ndl rfl
@[simp] theorem tallyAdd_bank (c : Nat) (n : Nat) (s : State) :
    (tallyAdd c n s).bank = s.bank := (tallyAdd_upto (Upto.refl 0x2000000 s) (Sub.refl _)).bank rfl
@[simp] theorem tallyAdd_dist (c : Nat) (n : Nat) (s : State) :
    (tallyAdd c n s).dist = s.dist := (tallyAdd_upto (Upto.refl 0x2000000 s) (Sub.refl _)).dist rfl
@[simp] theorem tallyAdd_skn (c : Nat) (n : Nat) (s : State) :
    (tallyAdd c n s).skn = s.skn := (tallyAdd_upto (Upto.refl 0x2000000 s) (Sub.refl _)).skn rfl
@[simp] theorem tallyAdd_pat (c : Nat) (n : Nat) (s : State) :
    (tallyAdd c n s).pat = s.pat := (tallyAdd_upto (Upto.refl 0x2000000 s) (Sub.refl _)).pat rfl
@[simp] theorem tallyAdd_pl (c : Nat) (n : Nat) (s : State) :
    (tallyAdd c n s).pl = s.pl := (tallyAdd_upto (Upto.refl 0x2000000 s) (Sub.refl _)).pl rfl
@[simp] theorem tallyAdd_joint (c : Nat) (n : Nat) (s : State) :
    (tallyAdd c n s).joint = s.joint := (tallyAdd_upto (Upto.refl 0x2000000 s) (Sub.refl _)).joint rfl
@[simp] theorem tallyAdd_mem (c : Nat) (n : Nat) (s : State) :
    (tallyAdd c n s).mem = s.mem := (tallyAdd_upto (Upto.refl 0x2000000 s) (Sub.refl _)).memory rfl rfl rfl rfl
@[simp] theorem tallyAdd_stl (c : Nat) (n : Nat) (s : State) :
    (tallyAdd c n s).stl = s.stl := (tallyAdd_upto (Upto.refl 0x2000000 s) (Sub.refl _)).stl rfl
@[simp] theorem tallyAdd_eth (c : Nat) (n : Nat) (s : State) :
    (tallyAdd c n s).eth = s.eth := (tallyAdd_upto (Upto.refl 0x2000000 s) (Sub.refl _)).eth rfl
@[simp] theorem tallyAdd_ssw (c : Nat) (n : Nat) (s : State) :
    (tallyAdd c n s).ssw = s.ssw := (tallyAdd_upto (Upto.refl 0x2000000 s) (Sub.refl _)).ssw rfl
@[simp] theorem tallyAdd_ft (c : Nat) (n : Nat) (s : State) :
    (tallyAdd c n s).ft = s.ft := (tallyAdd_upto (Upto.refl 0x2000000 s) (Sub.refl _)).ft rfl
@[simp] theorem tallyAdd_arrivals (c : Nat) (n : Nat) (s : State) :
    (tallyAdd c n s).arrivals = s.arrivals := (tallyAdd_upto (Upto.refl 0x2000000 s) (Sub.refl _)).arrivals rfl
@[simp] theorem tallyAdd_ict (c : Nat) (n : Nat) (s : State) :
    (tallyAdd c n s).ict = s.ict := (tallyAdd_upto (Upto.refl 0x2000000 s) (Sub.refl _)).ict rfl
@[simp] theorem tallyAdd_mbx (c : Nat) (n : Nat) (s : State) :
    (tallyAdd c n s).mbx = s.mbx := (tallyAdd_upto (Upto.refl 0x2000000 s) (Sub.refl _)).mbx rfl
@[simp] theorem tallyAdd_sem (c : Nat) (n : Nat) (s : State) :
    (tallyAdd c n s).sem = s.sem := (tallyAdd_upto (Upto.refl 0x2000000 s) (Sub.refl _)).sem rfl
@[simp] theorem tallyAdd_pwr (c : Nat) (n : Nat) (s : State) :
    (tallyAdd c n s).pwr = s.pwr := (tallyAdd_upto (Upto.refl 0x2000000 s) (Sub.refl _)).pwr rfl
@[simp] theorem tallyAdd_fcl (c : Nat) (n : Nat) (s : State) :
    (tallyAdd c n s).fcl = s.fcl := (tallyAdd_upto (Upto.refl 0x2000000 s) (Sub.refl _)).fcl rfl
@[simp] theorem tallyAdd_ldg (c : Nat) (n : Nat) (s : State) :
    (tallyAdd c n s).ldg = s.ldg := (tallyAdd_upto (Upto.refl 0x2000000 s) (Sub.refl _)).ldg rfl
@[simp] theorem tallyAdd_sth (c : Nat) (n : Nat) (s : State) :
    (tallyAdd c n s).sth = s.sth := (tallyAdd_upto (Upto.refl 0x2000000 s) (Sub.refl _)).sth rfl
@[simp] theorem tallyAdd_sec (c : Nat) (n : Nat) (s : State) :
    (tallyAdd c n s).sec = s.sec := (tallyAdd_upto (Upto.refl 0x2000000 s) (Sub.refl _)).sec rfl
@[simp] theorem tallyAdd_mag (c : Nat) (n : Nat) (s : State) :
    (tallyAdd c n s).mag = s.mag := (tallyAdd_upto (Upto.refl 0x2000000 s) (Sub.refl _)).mag rfl
@[simp] theorem tallyAdd_magIn (c : Nat) (n : Nat) (s : State) :
    (tallyAdd c n s).magIn = s.magIn := (tallyAdd_upto (Upto.refl 0x2000000 s) (Sub.refl _)).magIn rfl
@[simp] theorem tallyAdd_prt (c : Nat) (n : Nat) (s : State) :
    (tallyAdd c n s).prt = s.prt := (tallyAdd_upto (Upto.refl 0x2000000 s) (Sub.refl _)).prt rfl

@[simp] theorem tally_pending (c : Nat) (s : State) :
    (tally c s).pending = s.pending := (tally_upto (Upto.refl 0x2000000 s) (Sub.refl _)).pending
@[simp] theorem tally_now (c : Nat) (s : State) :
    (tally c s).now = s.now := (tally_upto (Upto.refl 0x2000000 s) (Sub.refl _)).now
@[simp] theorem tally_free (c : Nat) (s : State) :
    (tally c s).free = s.free := (tally_upto (Upto.refl 0x2000000 s) (Sub.refl _)).free rfl
@[simp] theorem tally_keys (c : Nat) (s : State) :
    (tally c s).bus.keys = s.bus.keys := (tally_upto (Upto.refl 0x2000000 s) (Sub.refl _)).keys rfl
@[simp] theorem tally_staged (c : Nat) (s : State) :
    (tally c s).bus.staged = s.bus.staged :=
  ((tally_upto (Upto.refl 0x2000000 s) (Sub.refl _)).fabric rfl).1
@[simp] theorem tally_latched (c : Nat) (s : State) :
    (tally c s).bus.latched = s.bus.latched :=
  ((tally_upto (Upto.refl 0x2000000 s) (Sub.refl _)).fabric rfl).2.1
@[simp] theorem tally_rrPtr (c : Nat) (s : State) :
    (tally c s).bus.rrPtr = s.bus.rrPtr :=
  ((tally_upto (Upto.refl 0x2000000 s) (Sub.refl _)).fabric rfl).2.2.1
@[simp] theorem tally_parBad (c : Nat) (s : State) :
    (tally c s).bus.parBad = s.bus.parBad :=
  ((tally_upto (Upto.refl 0x2000000 s) (Sub.refl _)).fabric rfl).2.2.2.1
@[simp] theorem tally_parReported (c : Nat) (s : State) :
    (tally c s).bus.parReported = s.bus.parReported :=
  ((tally_upto (Upto.refl 0x2000000 s) (Sub.refl _)).fabric rfl).2.2.2.2.1
@[simp] theorem tally_answers (c : Nat) (s : State) :
    (tally c s).bus.answers = s.bus.answers :=
  ((tally_upto (Upto.refl 0x2000000 s) (Sub.refl _)).fabric rfl).2.2.2.2.2.1
@[simp] theorem tally_parPos (c : Nat) (s : State) :
    (tally c s).bus.parPos = s.bus.parPos :=
  ((tally_upto (Upto.refl 0x2000000 s) (Sub.refl _)).fabric rfl).2.2.2.2.2.2.1
@[simp] theorem tally_parAt (c : Nat) (s : State) :
    (tally c s).bus.parAt = s.bus.parAt :=
  ((tally_upto (Upto.refl 0x2000000 s) (Sub.refl _)).fabric rfl).2.2.2.2.2.2.2.1
@[simp] theorem tally_wroteNow (c : Nat) (s : State) :
    (tally c s).bus.wroteNow = s.bus.wroteNow :=
  ((tally_upto (Upto.refl 0x2000000 s) (Sub.refl _)).fabric rfl).2.2.2.2.2.2.2.2
@[simp] theorem tally_rck (c : Nat) (s : State) :
    (tally c s).rck = s.rck := (tally_upto (Upto.refl 0x2000000 s) (Sub.refl _)).rck rfl
@[simp] theorem tally_ptp (c : Nat) (s : State) :
    (tally c s).ptp = s.ptp := (tally_upto (Upto.refl 0x2000000 s) (Sub.refl _)).ptp rfl
@[simp] theorem tally_lane (c : Nat) (s : State) :
    (tally c s).lane = s.lane := (tally_upto (Upto.refl 0x2000000 s) (Sub.refl _)).lane rfl
@[simp] theorem tally_lfi (c : Nat) (s : State) :
    (tally c s).lfi = s.lfi := (tally_upto (Upto.refl 0x2000000 s) (Sub.refl _)).lfi rfl
@[simp] theorem tally_port (c : Nat) (s : State) :
    (tally c s).port = s.port := (tally_upto (Upto.refl 0x2000000 s) (Sub.refl _)).port rfl
@[simp] theorem tally_swt (c : Nat) (s : State) :
    (tally c s).swt = s.swt := (tally_upto (Upto.refl 0x2000000 s) (Sub.refl _)).swt rfl
@[simp] theorem tally_ndl (c : Nat) (s : State) :
    (tally c s).ndl = s.ndl := (tally_upto (Upto.refl 0x2000000 s) (Sub.refl _)).ndl rfl
@[simp] theorem tally_bank (c : Nat) (s : State) :
    (tally c s).bank = s.bank := (tally_upto (Upto.refl 0x2000000 s) (Sub.refl _)).bank rfl
@[simp] theorem tally_dist (c : Nat) (s : State) :
    (tally c s).dist = s.dist := (tally_upto (Upto.refl 0x2000000 s) (Sub.refl _)).dist rfl
@[simp] theorem tally_skn (c : Nat) (s : State) :
    (tally c s).skn = s.skn := (tally_upto (Upto.refl 0x2000000 s) (Sub.refl _)).skn rfl
@[simp] theorem tally_pat (c : Nat) (s : State) :
    (tally c s).pat = s.pat := (tally_upto (Upto.refl 0x2000000 s) (Sub.refl _)).pat rfl
@[simp] theorem tally_pl (c : Nat) (s : State) :
    (tally c s).pl = s.pl := (tally_upto (Upto.refl 0x2000000 s) (Sub.refl _)).pl rfl
@[simp] theorem tally_joint (c : Nat) (s : State) :
    (tally c s).joint = s.joint := (tally_upto (Upto.refl 0x2000000 s) (Sub.refl _)).joint rfl
@[simp] theorem tally_mem (c : Nat) (s : State) :
    (tally c s).mem = s.mem := (tally_upto (Upto.refl 0x2000000 s) (Sub.refl _)).memory rfl rfl rfl rfl
@[simp] theorem tally_stl (c : Nat) (s : State) :
    (tally c s).stl = s.stl := (tally_upto (Upto.refl 0x2000000 s) (Sub.refl _)).stl rfl
@[simp] theorem tally_eth (c : Nat) (s : State) :
    (tally c s).eth = s.eth := (tally_upto (Upto.refl 0x2000000 s) (Sub.refl _)).eth rfl
@[simp] theorem tally_ssw (c : Nat) (s : State) :
    (tally c s).ssw = s.ssw := (tally_upto (Upto.refl 0x2000000 s) (Sub.refl _)).ssw rfl
@[simp] theorem tally_ft (c : Nat) (s : State) :
    (tally c s).ft = s.ft := (tally_upto (Upto.refl 0x2000000 s) (Sub.refl _)).ft rfl
@[simp] theorem tally_arrivals (c : Nat) (s : State) :
    (tally c s).arrivals = s.arrivals := (tally_upto (Upto.refl 0x2000000 s) (Sub.refl _)).arrivals rfl
@[simp] theorem tally_ict (c : Nat) (s : State) :
    (tally c s).ict = s.ict := (tally_upto (Upto.refl 0x2000000 s) (Sub.refl _)).ict rfl
@[simp] theorem tally_mbx (c : Nat) (s : State) :
    (tally c s).mbx = s.mbx := (tally_upto (Upto.refl 0x2000000 s) (Sub.refl _)).mbx rfl
@[simp] theorem tally_sem (c : Nat) (s : State) :
    (tally c s).sem = s.sem := (tally_upto (Upto.refl 0x2000000 s) (Sub.refl _)).sem rfl
@[simp] theorem tally_pwr (c : Nat) (s : State) :
    (tally c s).pwr = s.pwr := (tally_upto (Upto.refl 0x2000000 s) (Sub.refl _)).pwr rfl
@[simp] theorem tally_fcl (c : Nat) (s : State) :
    (tally c s).fcl = s.fcl := (tally_upto (Upto.refl 0x2000000 s) (Sub.refl _)).fcl rfl
@[simp] theorem tally_ldg (c : Nat) (s : State) :
    (tally c s).ldg = s.ldg := (tally_upto (Upto.refl 0x2000000 s) (Sub.refl _)).ldg rfl
@[simp] theorem tally_sth (c : Nat) (s : State) :
    (tally c s).sth = s.sth := (tally_upto (Upto.refl 0x2000000 s) (Sub.refl _)).sth rfl
@[simp] theorem tally_sec (c : Nat) (s : State) :
    (tally c s).sec = s.sec := (tally_upto (Upto.refl 0x2000000 s) (Sub.refl _)).sec rfl
@[simp] theorem tally_mag (c : Nat) (s : State) :
    (tally c s).mag = s.mag := (tally_upto (Upto.refl 0x2000000 s) (Sub.refl _)).mag rfl
@[simp] theorem tally_magIn (c : Nat) (s : State) :
    (tally c s).magIn = s.magIn := (tally_upto (Upto.refl 0x2000000 s) (Sub.refl _)).magIn rfl
@[simp] theorem tally_prt (c : Nat) (s : State) :
    (tally c s).prt = s.prt := (tally_upto (Upto.refl 0x2000000 s) (Sub.refl _)).prt rfl

@[simp] theorem ictSettle_pending (s : State) :
    (ictSettle s).pending = s.pending := (ictSettle_upto (Upto.refl 0x80080000 s) (Sub.refl _)).pending
@[simp] theorem ictSettle_now (s : State) :
    (ictSettle s).now = s.now := (ictSettle_upto (Upto.refl 0x80080000 s) (Sub.refl _)).now
@[simp] theorem ictSettle_free (s : State) :
    (ictSettle s).free = s.free := (ictSettle_upto (Upto.refl 0x80080000 s) (Sub.refl _)).free rfl
@[simp] theorem ictSettle_keys (s : State) :
    (ictSettle s).bus.keys = s.bus.keys := (ictSettle_upto (Upto.refl 0x80080000 s) (Sub.refl _)).keys rfl
@[simp] theorem ictSettle_staged (s : State) :
    (ictSettle s).bus.staged = s.bus.staged :=
  ((ictSettle_upto (Upto.refl 0x80080000 s) (Sub.refl _)).fabric rfl).1
@[simp] theorem ictSettle_latched (s : State) :
    (ictSettle s).bus.latched = s.bus.latched :=
  ((ictSettle_upto (Upto.refl 0x80080000 s) (Sub.refl _)).fabric rfl).2.1
@[simp] theorem ictSettle_rrPtr (s : State) :
    (ictSettle s).bus.rrPtr = s.bus.rrPtr :=
  ((ictSettle_upto (Upto.refl 0x80080000 s) (Sub.refl _)).fabric rfl).2.2.1
@[simp] theorem ictSettle_parBad (s : State) :
    (ictSettle s).bus.parBad = s.bus.parBad :=
  ((ictSettle_upto (Upto.refl 0x80080000 s) (Sub.refl _)).fabric rfl).2.2.2.1
@[simp] theorem ictSettle_parReported (s : State) :
    (ictSettle s).bus.parReported = s.bus.parReported :=
  ((ictSettle_upto (Upto.refl 0x80080000 s) (Sub.refl _)).fabric rfl).2.2.2.2.1
@[simp] theorem ictSettle_answers (s : State) :
    (ictSettle s).bus.answers = s.bus.answers :=
  ((ictSettle_upto (Upto.refl 0x80080000 s) (Sub.refl _)).fabric rfl).2.2.2.2.2.1
@[simp] theorem ictSettle_parPos (s : State) :
    (ictSettle s).bus.parPos = s.bus.parPos :=
  ((ictSettle_upto (Upto.refl 0x80080000 s) (Sub.refl _)).fabric rfl).2.2.2.2.2.2.1
@[simp] theorem ictSettle_parAt (s : State) :
    (ictSettle s).bus.parAt = s.bus.parAt :=
  ((ictSettle_upto (Upto.refl 0x80080000 s) (Sub.refl _)).fabric rfl).2.2.2.2.2.2.2.1
@[simp] theorem ictSettle_wroteNow (s : State) :
    (ictSettle s).bus.wroteNow = s.bus.wroteNow :=
  ((ictSettle_upto (Upto.refl 0x80080000 s) (Sub.refl _)).fabric rfl).2.2.2.2.2.2.2.2
@[simp] theorem ictSettle_rck (s : State) :
    (ictSettle s).rck = s.rck := (ictSettle_upto (Upto.refl 0x80080000 s) (Sub.refl _)).rck rfl
@[simp] theorem ictSettle_ptp (s : State) :
    (ictSettle s).ptp = s.ptp := (ictSettle_upto (Upto.refl 0x80080000 s) (Sub.refl _)).ptp rfl
@[simp] theorem ictSettle_lane (s : State) :
    (ictSettle s).lane = s.lane := (ictSettle_upto (Upto.refl 0x80080000 s) (Sub.refl _)).lane rfl
@[simp] theorem ictSettle_lfi (s : State) :
    (ictSettle s).lfi = s.lfi := (ictSettle_upto (Upto.refl 0x80080000 s) (Sub.refl _)).lfi rfl
@[simp] theorem ictSettle_port (s : State) :
    (ictSettle s).port = s.port := (ictSettle_upto (Upto.refl 0x80080000 s) (Sub.refl _)).port rfl
@[simp] theorem ictSettle_swt (s : State) :
    (ictSettle s).swt = s.swt := (ictSettle_upto (Upto.refl 0x80080000 s) (Sub.refl _)).swt rfl
@[simp] theorem ictSettle_ndl (s : State) :
    (ictSettle s).ndl = s.ndl := (ictSettle_upto (Upto.refl 0x80080000 s) (Sub.refl _)).ndl rfl
@[simp] theorem ictSettle_bank (s : State) :
    (ictSettle s).bank = s.bank := (ictSettle_upto (Upto.refl 0x80080000 s) (Sub.refl _)).bank rfl
@[simp] theorem ictSettle_dist (s : State) :
    (ictSettle s).dist = s.dist := (ictSettle_upto (Upto.refl 0x80080000 s) (Sub.refl _)).dist rfl
@[simp] theorem ictSettle_skn (s : State) :
    (ictSettle s).skn = s.skn := (ictSettle_upto (Upto.refl 0x80080000 s) (Sub.refl _)).skn rfl
@[simp] theorem ictSettle_pat (s : State) :
    (ictSettle s).pat = s.pat := (ictSettle_upto (Upto.refl 0x80080000 s) (Sub.refl _)).pat rfl
@[simp] theorem ictSettle_pl (s : State) :
    (ictSettle s).pl = s.pl := (ictSettle_upto (Upto.refl 0x80080000 s) (Sub.refl _)).pl rfl
@[simp] theorem ictSettle_joint (s : State) :
    (ictSettle s).joint = s.joint := (ictSettle_upto (Upto.refl 0x80080000 s) (Sub.refl _)).joint rfl
@[simp] theorem ictSettle_mem (s : State) :
    (ictSettle s).mem = s.mem := (ictSettle_upto (Upto.refl 0x80080000 s) (Sub.refl _)).memory rfl rfl rfl rfl
@[simp] theorem ictSettle_stl (s : State) :
    (ictSettle s).stl = s.stl := (ictSettle_upto (Upto.refl 0x80080000 s) (Sub.refl _)).stl rfl
@[simp] theorem ictSettle_eth (s : State) :
    (ictSettle s).eth = s.eth := (ictSettle_upto (Upto.refl 0x80080000 s) (Sub.refl _)).eth rfl
@[simp] theorem ictSettle_ssw (s : State) :
    (ictSettle s).ssw = s.ssw := (ictSettle_upto (Upto.refl 0x80080000 s) (Sub.refl _)).ssw rfl
@[simp] theorem ictSettle_ft (s : State) :
    (ictSettle s).ft = s.ft := (ictSettle_upto (Upto.refl 0x80080000 s) (Sub.refl _)).ft rfl
@[simp] theorem ictSettle_arrivals (s : State) :
    (ictSettle s).arrivals = s.arrivals := (ictSettle_upto (Upto.refl 0x80080000 s) (Sub.refl _)).arrivals rfl
@[simp] theorem ictSettle_mbx (s : State) :
    (ictSettle s).mbx = s.mbx := (ictSettle_upto (Upto.refl 0x80080000 s) (Sub.refl _)).mbx rfl
@[simp] theorem ictSettle_sem (s : State) :
    (ictSettle s).sem = s.sem := (ictSettle_upto (Upto.refl 0x80080000 s) (Sub.refl _)).sem rfl
@[simp] theorem ictSettle_pwr (s : State) :
    (ictSettle s).pwr = s.pwr := (ictSettle_upto (Upto.refl 0x80080000 s) (Sub.refl _)).pwr rfl
@[simp] theorem ictSettle_fcl (s : State) :
    (ictSettle s).fcl = s.fcl := (ictSettle_upto (Upto.refl 0x80080000 s) (Sub.refl _)).fcl rfl
@[simp] theorem ictSettle_ldg (s : State) :
    (ictSettle s).ldg = s.ldg := (ictSettle_upto (Upto.refl 0x80080000 s) (Sub.refl _)).ldg rfl
@[simp] theorem ictSettle_tly (s : State) :
    (ictSettle s).tly = s.tly := (ictSettle_upto (Upto.refl 0x80080000 s) (Sub.refl _)).tly rfl
@[simp] theorem ictSettle_sth (s : State) :
    (ictSettle s).sth = s.sth := (ictSettle_upto (Upto.refl 0x80080000 s) (Sub.refl _)).sth rfl
@[simp] theorem ictSettle_sec (s : State) :
    (ictSettle s).sec = s.sec := (ictSettle_upto (Upto.refl 0x80080000 s) (Sub.refl _)).sec rfl
@[simp] theorem ictSettle_mag (s : State) :
    (ictSettle s).mag = s.mag := (ictSettle_upto (Upto.refl 0x80080000 s) (Sub.refl _)).mag rfl
@[simp] theorem ictSettle_magIn (s : State) :
    (ictSettle s).magIn = s.magIn := (ictSettle_upto (Upto.refl 0x80080000 s) (Sub.refl _)).magIn rfl
@[simp] theorem ictSettle_prt (s : State) :
    (ictSettle s).prt = s.prt := (ictSettle_upto (Upto.refl 0x80080000 s) (Sub.refl _)).prt rfl

@[simp] theorem raise_pending (src : Nat) (s : State) :
    (raise src s).pending = s.pending := (raise_upto (Upto.refl 0x80480000 s) (Sub.refl _)).pending
@[simp] theorem raise_now (src : Nat) (s : State) :
    (raise src s).now = s.now := (raise_upto (Upto.refl 0x80480000 s) (Sub.refl _)).now
@[simp] theorem raise_free (src : Nat) (s : State) :
    (raise src s).free = s.free := (raise_upto (Upto.refl 0x80480000 s) (Sub.refl _)).free rfl
@[simp] theorem raise_keys (src : Nat) (s : State) :
    (raise src s).bus.keys = s.bus.keys := (raise_upto (Upto.refl 0x80480000 s) (Sub.refl _)).keys rfl
@[simp] theorem raise_staged (src : Nat) (s : State) :
    (raise src s).bus.staged = s.bus.staged :=
  ((raise_upto (Upto.refl 0x80480000 s) (Sub.refl _)).fabric rfl).1
@[simp] theorem raise_latched (src : Nat) (s : State) :
    (raise src s).bus.latched = s.bus.latched :=
  ((raise_upto (Upto.refl 0x80480000 s) (Sub.refl _)).fabric rfl).2.1
@[simp] theorem raise_rrPtr (src : Nat) (s : State) :
    (raise src s).bus.rrPtr = s.bus.rrPtr :=
  ((raise_upto (Upto.refl 0x80480000 s) (Sub.refl _)).fabric rfl).2.2.1
@[simp] theorem raise_parBad (src : Nat) (s : State) :
    (raise src s).bus.parBad = s.bus.parBad :=
  ((raise_upto (Upto.refl 0x80480000 s) (Sub.refl _)).fabric rfl).2.2.2.1
@[simp] theorem raise_parReported (src : Nat) (s : State) :
    (raise src s).bus.parReported = s.bus.parReported :=
  ((raise_upto (Upto.refl 0x80480000 s) (Sub.refl _)).fabric rfl).2.2.2.2.1
@[simp] theorem raise_answers (src : Nat) (s : State) :
    (raise src s).bus.answers = s.bus.answers :=
  ((raise_upto (Upto.refl 0x80480000 s) (Sub.refl _)).fabric rfl).2.2.2.2.2.1
@[simp] theorem raise_parPos (src : Nat) (s : State) :
    (raise src s).bus.parPos = s.bus.parPos :=
  ((raise_upto (Upto.refl 0x80480000 s) (Sub.refl _)).fabric rfl).2.2.2.2.2.2.1
@[simp] theorem raise_parAt (src : Nat) (s : State) :
    (raise src s).bus.parAt = s.bus.parAt :=
  ((raise_upto (Upto.refl 0x80480000 s) (Sub.refl _)).fabric rfl).2.2.2.2.2.2.2.1
@[simp] theorem raise_wroteNow (src : Nat) (s : State) :
    (raise src s).bus.wroteNow = s.bus.wroteNow :=
  ((raise_upto (Upto.refl 0x80480000 s) (Sub.refl _)).fabric rfl).2.2.2.2.2.2.2.2
@[simp] theorem raise_rck (src : Nat) (s : State) :
    (raise src s).rck = s.rck := (raise_upto (Upto.refl 0x80480000 s) (Sub.refl _)).rck rfl
@[simp] theorem raise_ptp (src : Nat) (s : State) :
    (raise src s).ptp = s.ptp := (raise_upto (Upto.refl 0x80480000 s) (Sub.refl _)).ptp rfl
@[simp] theorem raise_lane (src : Nat) (s : State) :
    (raise src s).lane = s.lane := (raise_upto (Upto.refl 0x80480000 s) (Sub.refl _)).lane rfl
@[simp] theorem raise_lfi (src : Nat) (s : State) :
    (raise src s).lfi = s.lfi := (raise_upto (Upto.refl 0x80480000 s) (Sub.refl _)).lfi rfl
@[simp] theorem raise_port (src : Nat) (s : State) :
    (raise src s).port = s.port := (raise_upto (Upto.refl 0x80480000 s) (Sub.refl _)).port rfl
@[simp] theorem raise_swt (src : Nat) (s : State) :
    (raise src s).swt = s.swt := (raise_upto (Upto.refl 0x80480000 s) (Sub.refl _)).swt rfl
@[simp] theorem raise_ndl (src : Nat) (s : State) :
    (raise src s).ndl = s.ndl := (raise_upto (Upto.refl 0x80480000 s) (Sub.refl _)).ndl rfl
@[simp] theorem raise_bank (src : Nat) (s : State) :
    (raise src s).bank = s.bank := (raise_upto (Upto.refl 0x80480000 s) (Sub.refl _)).bank rfl
@[simp] theorem raise_dist (src : Nat) (s : State) :
    (raise src s).dist = s.dist := (raise_upto (Upto.refl 0x80480000 s) (Sub.refl _)).dist rfl
@[simp] theorem raise_skn (src : Nat) (s : State) :
    (raise src s).skn = s.skn := (raise_upto (Upto.refl 0x80480000 s) (Sub.refl _)).skn rfl
@[simp] theorem raise_pat (src : Nat) (s : State) :
    (raise src s).pat = s.pat := (raise_upto (Upto.refl 0x80480000 s) (Sub.refl _)).pat rfl
@[simp] theorem raise_pl (src : Nat) (s : State) :
    (raise src s).pl = s.pl := (raise_upto (Upto.refl 0x80480000 s) (Sub.refl _)).pl rfl
@[simp] theorem raise_joint (src : Nat) (s : State) :
    (raise src s).joint = s.joint := (raise_upto (Upto.refl 0x80480000 s) (Sub.refl _)).joint rfl
@[simp] theorem raise_mem (src : Nat) (s : State) :
    (raise src s).mem = s.mem := (raise_upto (Upto.refl 0x80480000 s) (Sub.refl _)).memory rfl rfl rfl rfl
@[simp] theorem raise_stl (src : Nat) (s : State) :
    (raise src s).stl = s.stl := (raise_upto (Upto.refl 0x80480000 s) (Sub.refl _)).stl rfl
@[simp] theorem raise_eth (src : Nat) (s : State) :
    (raise src s).eth = s.eth := (raise_upto (Upto.refl 0x80480000 s) (Sub.refl _)).eth rfl
@[simp] theorem raise_ssw (src : Nat) (s : State) :
    (raise src s).ssw = s.ssw := (raise_upto (Upto.refl 0x80480000 s) (Sub.refl _)).ssw rfl
@[simp] theorem raise_ft (src : Nat) (s : State) :
    (raise src s).ft = s.ft := (raise_upto (Upto.refl 0x80480000 s) (Sub.refl _)).ft rfl
@[simp] theorem raise_arrivals (src : Nat) (s : State) :
    (raise src s).arrivals = s.arrivals := (raise_upto (Upto.refl 0x80480000 s) (Sub.refl _)).arrivals rfl
@[simp] theorem raise_mbx (src : Nat) (s : State) :
    (raise src s).mbx = s.mbx := (raise_upto (Upto.refl 0x80480000 s) (Sub.refl _)).mbx rfl
@[simp] theorem raise_sem (src : Nat) (s : State) :
    (raise src s).sem = s.sem := (raise_upto (Upto.refl 0x80480000 s) (Sub.refl _)).sem rfl
@[simp] theorem raise_fcl (src : Nat) (s : State) :
    (raise src s).fcl = s.fcl := (raise_upto (Upto.refl 0x80480000 s) (Sub.refl _)).fcl rfl
@[simp] theorem raise_ldg (src : Nat) (s : State) :
    (raise src s).ldg = s.ldg := (raise_upto (Upto.refl 0x80480000 s) (Sub.refl _)).ldg rfl
@[simp] theorem raise_tly (src : Nat) (s : State) :
    (raise src s).tly = s.tly := (raise_upto (Upto.refl 0x80480000 s) (Sub.refl _)).tly rfl
@[simp] theorem raise_sth (src : Nat) (s : State) :
    (raise src s).sth = s.sth := (raise_upto (Upto.refl 0x80480000 s) (Sub.refl _)).sth rfl
@[simp] theorem raise_sec (src : Nat) (s : State) :
    (raise src s).sec = s.sec := (raise_upto (Upto.refl 0x80480000 s) (Sub.refl _)).sec rfl
@[simp] theorem raise_mag (src : Nat) (s : State) :
    (raise src s).mag = s.mag := (raise_upto (Upto.refl 0x80480000 s) (Sub.refl _)).mag rfl
@[simp] theorem raise_magIn (src : Nat) (s : State) :
    (raise src s).magIn = s.magIn := (raise_upto (Upto.refl 0x80480000 s) (Sub.refl _)).magIn rfl
@[simp] theorem raise_prt (src : Nat) (s : State) :
    (raise src s).prt = s.prt := (raise_upto (Upto.refl 0x80480000 s) (Sub.refl _)).prt rfl

@[simp] theorem ldgPush_pending (r : LdgRec) (s : State) :
    (ldgPush r s).pending = s.pending := (ldgPush_upto (Upto.refl 0xd3c80080 s) (Sub.refl _)).pending
@[simp] theorem ldgPush_now (r : LdgRec) (s : State) :
    (ldgPush r s).now = s.now := (ldgPush_upto (Upto.refl 0xd3c80080 s) (Sub.refl _)).now
@[simp] theorem ldgPush_free (r : LdgRec) (s : State) :
    (ldgPush r s).free = s.free := (ldgPush_upto (Upto.refl 0xd3c80080 s) (Sub.refl _)).free rfl
@[simp] theorem ldgPush_keys (r : LdgRec) (s : State) :
    (ldgPush r s).bus.keys = s.bus.keys := (ldgPush_upto (Upto.refl 0xd3c80080 s) (Sub.refl _)).keys rfl
@[simp] theorem ldgPush_staged (r : LdgRec) (s : State) :
    (ldgPush r s).bus.staged = s.bus.staged :=
  ((ldgPush_upto (Upto.refl 0xd3c80080 s) (Sub.refl _)).fabric rfl).1
@[simp] theorem ldgPush_latched (r : LdgRec) (s : State) :
    (ldgPush r s).bus.latched = s.bus.latched :=
  ((ldgPush_upto (Upto.refl 0xd3c80080 s) (Sub.refl _)).fabric rfl).2.1
@[simp] theorem ldgPush_rrPtr (r : LdgRec) (s : State) :
    (ldgPush r s).bus.rrPtr = s.bus.rrPtr :=
  ((ldgPush_upto (Upto.refl 0xd3c80080 s) (Sub.refl _)).fabric rfl).2.2.1
@[simp] theorem ldgPush_parBad (r : LdgRec) (s : State) :
    (ldgPush r s).bus.parBad = s.bus.parBad :=
  ((ldgPush_upto (Upto.refl 0xd3c80080 s) (Sub.refl _)).fabric rfl).2.2.2.1
@[simp] theorem ldgPush_parReported (r : LdgRec) (s : State) :
    (ldgPush r s).bus.parReported = s.bus.parReported :=
  ((ldgPush_upto (Upto.refl 0xd3c80080 s) (Sub.refl _)).fabric rfl).2.2.2.2.1
@[simp] theorem ldgPush_answers (r : LdgRec) (s : State) :
    (ldgPush r s).bus.answers = s.bus.answers :=
  ((ldgPush_upto (Upto.refl 0xd3c80080 s) (Sub.refl _)).fabric rfl).2.2.2.2.2.1
@[simp] theorem ldgPush_parPos (r : LdgRec) (s : State) :
    (ldgPush r s).bus.parPos = s.bus.parPos :=
  ((ldgPush_upto (Upto.refl 0xd3c80080 s) (Sub.refl _)).fabric rfl).2.2.2.2.2.2.1
@[simp] theorem ldgPush_parAt (r : LdgRec) (s : State) :
    (ldgPush r s).bus.parAt = s.bus.parAt :=
  ((ldgPush_upto (Upto.refl 0xd3c80080 s) (Sub.refl _)).fabric rfl).2.2.2.2.2.2.2.1
@[simp] theorem ldgPush_wroteNow (r : LdgRec) (s : State) :
    (ldgPush r s).bus.wroteNow = s.bus.wroteNow :=
  ((ldgPush_upto (Upto.refl 0xd3c80080 s) (Sub.refl _)).fabric rfl).2.2.2.2.2.2.2.2
@[simp] theorem ldgPush_rck (r : LdgRec) (s : State) :
    (ldgPush r s).rck = s.rck := (ldgPush_upto (Upto.refl 0xd3c80080 s) (Sub.refl _)).rck rfl
@[simp] theorem ldgPush_ptp (r : LdgRec) (s : State) :
    (ldgPush r s).ptp = s.ptp := (ldgPush_upto (Upto.refl 0xd3c80080 s) (Sub.refl _)).ptp rfl
@[simp] theorem ldgPush_lane (r : LdgRec) (s : State) :
    (ldgPush r s).lane = s.lane := (ldgPush_upto (Upto.refl 0xd3c80080 s) (Sub.refl _)).lane rfl
@[simp] theorem ldgPush_lfi (r : LdgRec) (s : State) :
    (ldgPush r s).lfi = s.lfi := (ldgPush_upto (Upto.refl 0xd3c80080 s) (Sub.refl _)).lfi rfl
@[simp] theorem ldgPush_port (r : LdgRec) (s : State) :
    (ldgPush r s).port = s.port := (ldgPush_upto (Upto.refl 0xd3c80080 s) (Sub.refl _)).port rfl
@[simp] theorem ldgPush_swt (r : LdgRec) (s : State) :
    (ldgPush r s).swt = s.swt := (ldgPush_upto (Upto.refl 0xd3c80080 s) (Sub.refl _)).swt rfl
@[simp] theorem ldgPush_bank (r : LdgRec) (s : State) :
    (ldgPush r s).bank = s.bank := (ldgPush_upto (Upto.refl 0xd3c80080 s) (Sub.refl _)).bank rfl
@[simp] theorem ldgPush_dist (r : LdgRec) (s : State) :
    (ldgPush r s).dist = s.dist := (ldgPush_upto (Upto.refl 0xd3c80080 s) (Sub.refl _)).dist rfl
@[simp] theorem ldgPush_skn (r : LdgRec) (s : State) :
    (ldgPush r s).skn = s.skn := (ldgPush_upto (Upto.refl 0xd3c80080 s) (Sub.refl _)).skn rfl
@[simp] theorem ldgPush_pat (r : LdgRec) (s : State) :
    (ldgPush r s).pat = s.pat := (ldgPush_upto (Upto.refl 0xd3c80080 s) (Sub.refl _)).pat rfl
@[simp] theorem ldgPush_pl (r : LdgRec) (s : State) :
    (ldgPush r s).pl = s.pl := (ldgPush_upto (Upto.refl 0xd3c80080 s) (Sub.refl _)).pl rfl
@[simp] theorem ldgPush_joint (r : LdgRec) (s : State) :
    (ldgPush r s).joint = s.joint := (ldgPush_upto (Upto.refl 0xd3c80080 s) (Sub.refl _)).joint rfl
@[simp] theorem ldgPush_mem (r : LdgRec) (s : State) :
    (ldgPush r s).mem = s.mem := (ldgPush_upto (Upto.refl 0xd3c80080 s) (Sub.refl _)).memory rfl rfl rfl rfl
@[simp] theorem ldgPush_stl (r : LdgRec) (s : State) :
    (ldgPush r s).stl = s.stl := (ldgPush_upto (Upto.refl 0xd3c80080 s) (Sub.refl _)).stl rfl
@[simp] theorem ldgPush_eth (r : LdgRec) (s : State) :
    (ldgPush r s).eth = s.eth := (ldgPush_upto (Upto.refl 0xd3c80080 s) (Sub.refl _)).eth rfl
@[simp] theorem ldgPush_ssw (r : LdgRec) (s : State) :
    (ldgPush r s).ssw = s.ssw := (ldgPush_upto (Upto.refl 0xd3c80080 s) (Sub.refl _)).ssw rfl
@[simp] theorem ldgPush_ft (r : LdgRec) (s : State) :
    (ldgPush r s).ft = s.ft := (ldgPush_upto (Upto.refl 0xd3c80080 s) (Sub.refl _)).ft rfl
@[simp] theorem ldgPush_arrivals (r : LdgRec) (s : State) :
    (ldgPush r s).arrivals = s.arrivals := (ldgPush_upto (Upto.refl 0xd3c80080 s) (Sub.refl _)).arrivals rfl
@[simp] theorem ldgPush_mbx (r : LdgRec) (s : State) :
    (ldgPush r s).mbx = s.mbx := (ldgPush_upto (Upto.refl 0xd3c80080 s) (Sub.refl _)).mbx rfl
@[simp] theorem ldgPush_sem (r : LdgRec) (s : State) :
    (ldgPush r s).sem = s.sem := (ldgPush_upto (Upto.refl 0xd3c80080 s) (Sub.refl _)).sem rfl
@[simp] theorem ldgPush_sth (r : LdgRec) (s : State) :
    (ldgPush r s).sth = s.sth := (ldgPush_upto (Upto.refl 0xd3c80080 s) (Sub.refl _)).sth rfl
@[simp] theorem ldgPush_sec (r : LdgRec) (s : State) :
    (ldgPush r s).sec = s.sec := (ldgPush_upto (Upto.refl 0xd3c80080 s) (Sub.refl _)).sec rfl
@[simp] theorem ldgPush_magIn (r : LdgRec) (s : State) :
    (ldgPush r s).magIn = s.magIn := (ldgPush_upto (Upto.refl 0xd3c80080 s) (Sub.refl _)).magIn rfl

@[simp] theorem setMode_pending (m : Mode) (cause : Nat) (s : State) :
    (setMode m cause s).pending = s.pending := (setMode_upto (Upto.refl 0xd3c80080 s) (Sub.refl _)).pending
@[simp] theorem setMode_now (m : Mode) (cause : Nat) (s : State) :
    (setMode m cause s).now = s.now := (setMode_upto (Upto.refl 0xd3c80080 s) (Sub.refl _)).now
@[simp] theorem setMode_free (m : Mode) (cause : Nat) (s : State) :
    (setMode m cause s).free = s.free := (setMode_upto (Upto.refl 0xd3c80080 s) (Sub.refl _)).free rfl
@[simp] theorem setMode_keys (m : Mode) (cause : Nat) (s : State) :
    (setMode m cause s).bus.keys = s.bus.keys := (setMode_upto (Upto.refl 0xd3c80080 s) (Sub.refl _)).keys rfl
@[simp] theorem setMode_staged (m : Mode) (cause : Nat) (s : State) :
    (setMode m cause s).bus.staged = s.bus.staged :=
  ((setMode_upto (Upto.refl 0xd3c80080 s) (Sub.refl _)).fabric rfl).1
@[simp] theorem setMode_latched (m : Mode) (cause : Nat) (s : State) :
    (setMode m cause s).bus.latched = s.bus.latched :=
  ((setMode_upto (Upto.refl 0xd3c80080 s) (Sub.refl _)).fabric rfl).2.1
@[simp] theorem setMode_rrPtr (m : Mode) (cause : Nat) (s : State) :
    (setMode m cause s).bus.rrPtr = s.bus.rrPtr :=
  ((setMode_upto (Upto.refl 0xd3c80080 s) (Sub.refl _)).fabric rfl).2.2.1
@[simp] theorem setMode_parBad (m : Mode) (cause : Nat) (s : State) :
    (setMode m cause s).bus.parBad = s.bus.parBad :=
  ((setMode_upto (Upto.refl 0xd3c80080 s) (Sub.refl _)).fabric rfl).2.2.2.1
@[simp] theorem setMode_parReported (m : Mode) (cause : Nat) (s : State) :
    (setMode m cause s).bus.parReported = s.bus.parReported :=
  ((setMode_upto (Upto.refl 0xd3c80080 s) (Sub.refl _)).fabric rfl).2.2.2.2.1
@[simp] theorem setMode_answers (m : Mode) (cause : Nat) (s : State) :
    (setMode m cause s).bus.answers = s.bus.answers :=
  ((setMode_upto (Upto.refl 0xd3c80080 s) (Sub.refl _)).fabric rfl).2.2.2.2.2.1
@[simp] theorem setMode_parPos (m : Mode) (cause : Nat) (s : State) :
    (setMode m cause s).bus.parPos = s.bus.parPos :=
  ((setMode_upto (Upto.refl 0xd3c80080 s) (Sub.refl _)).fabric rfl).2.2.2.2.2.2.1
@[simp] theorem setMode_parAt (m : Mode) (cause : Nat) (s : State) :
    (setMode m cause s).bus.parAt = s.bus.parAt :=
  ((setMode_upto (Upto.refl 0xd3c80080 s) (Sub.refl _)).fabric rfl).2.2.2.2.2.2.2.1
@[simp] theorem setMode_wroteNow (m : Mode) (cause : Nat) (s : State) :
    (setMode m cause s).bus.wroteNow = s.bus.wroteNow :=
  ((setMode_upto (Upto.refl 0xd3c80080 s) (Sub.refl _)).fabric rfl).2.2.2.2.2.2.2.2
@[simp] theorem setMode_rck (m : Mode) (cause : Nat) (s : State) :
    (setMode m cause s).rck = s.rck := (setMode_upto (Upto.refl 0xd3c80080 s) (Sub.refl _)).rck rfl
@[simp] theorem setMode_ptp (m : Mode) (cause : Nat) (s : State) :
    (setMode m cause s).ptp = s.ptp := (setMode_upto (Upto.refl 0xd3c80080 s) (Sub.refl _)).ptp rfl
@[simp] theorem setMode_lane (m : Mode) (cause : Nat) (s : State) :
    (setMode m cause s).lane = s.lane := (setMode_upto (Upto.refl 0xd3c80080 s) (Sub.refl _)).lane rfl
@[simp] theorem setMode_lfi (m : Mode) (cause : Nat) (s : State) :
    (setMode m cause s).lfi = s.lfi := (setMode_upto (Upto.refl 0xd3c80080 s) (Sub.refl _)).lfi rfl
@[simp] theorem setMode_port (m : Mode) (cause : Nat) (s : State) :
    (setMode m cause s).port = s.port := (setMode_upto (Upto.refl 0xd3c80080 s) (Sub.refl _)).port rfl
@[simp] theorem setMode_swt (m : Mode) (cause : Nat) (s : State) :
    (setMode m cause s).swt = s.swt := (setMode_upto (Upto.refl 0xd3c80080 s) (Sub.refl _)).swt rfl
@[simp] theorem setMode_bank (m : Mode) (cause : Nat) (s : State) :
    (setMode m cause s).bank = s.bank := (setMode_upto (Upto.refl 0xd3c80080 s) (Sub.refl _)).bank rfl
@[simp] theorem setMode_dist (m : Mode) (cause : Nat) (s : State) :
    (setMode m cause s).dist = s.dist := (setMode_upto (Upto.refl 0xd3c80080 s) (Sub.refl _)).dist rfl
@[simp] theorem setMode_skn (m : Mode) (cause : Nat) (s : State) :
    (setMode m cause s).skn = s.skn := (setMode_upto (Upto.refl 0xd3c80080 s) (Sub.refl _)).skn rfl
@[simp] theorem setMode_pat (m : Mode) (cause : Nat) (s : State) :
    (setMode m cause s).pat = s.pat := (setMode_upto (Upto.refl 0xd3c80080 s) (Sub.refl _)).pat rfl
@[simp] theorem setMode_pl (m : Mode) (cause : Nat) (s : State) :
    (setMode m cause s).pl = s.pl := (setMode_upto (Upto.refl 0xd3c80080 s) (Sub.refl _)).pl rfl
@[simp] theorem setMode_joint (m : Mode) (cause : Nat) (s : State) :
    (setMode m cause s).joint = s.joint := (setMode_upto (Upto.refl 0xd3c80080 s) (Sub.refl _)).joint rfl
@[simp] theorem setMode_mem (m : Mode) (cause : Nat) (s : State) :
    (setMode m cause s).mem = s.mem := (setMode_upto (Upto.refl 0xd3c80080 s) (Sub.refl _)).memory rfl rfl rfl rfl
@[simp] theorem setMode_stl (m : Mode) (cause : Nat) (s : State) :
    (setMode m cause s).stl = s.stl := (setMode_upto (Upto.refl 0xd3c80080 s) (Sub.refl _)).stl rfl
@[simp] theorem setMode_eth (m : Mode) (cause : Nat) (s : State) :
    (setMode m cause s).eth = s.eth := (setMode_upto (Upto.refl 0xd3c80080 s) (Sub.refl _)).eth rfl
@[simp] theorem setMode_ssw (m : Mode) (cause : Nat) (s : State) :
    (setMode m cause s).ssw = s.ssw := (setMode_upto (Upto.refl 0xd3c80080 s) (Sub.refl _)).ssw rfl
@[simp] theorem setMode_ft (m : Mode) (cause : Nat) (s : State) :
    (setMode m cause s).ft = s.ft := (setMode_upto (Upto.refl 0xd3c80080 s) (Sub.refl _)).ft rfl
@[simp] theorem setMode_arrivals (m : Mode) (cause : Nat) (s : State) :
    (setMode m cause s).arrivals = s.arrivals := (setMode_upto (Upto.refl 0xd3c80080 s) (Sub.refl _)).arrivals rfl
@[simp] theorem setMode_mbx (m : Mode) (cause : Nat) (s : State) :
    (setMode m cause s).mbx = s.mbx := (setMode_upto (Upto.refl 0xd3c80080 s) (Sub.refl _)).mbx rfl
@[simp] theorem setMode_sem (m : Mode) (cause : Nat) (s : State) :
    (setMode m cause s).sem = s.sem := (setMode_upto (Upto.refl 0xd3c80080 s) (Sub.refl _)).sem rfl
@[simp] theorem setMode_sth (m : Mode) (cause : Nat) (s : State) :
    (setMode m cause s).sth = s.sth := (setMode_upto (Upto.refl 0xd3c80080 s) (Sub.refl _)).sth rfl
@[simp] theorem setMode_sec (m : Mode) (cause : Nat) (s : State) :
    (setMode m cause s).sec = s.sec := (setMode_upto (Upto.refl 0xd3c80080 s) (Sub.refl _)).sec rfl
@[simp] theorem setMode_magIn (m : Mode) (cause : Nat) (s : State) :
    (setMode m cause s).magIn = s.magIn := (setMode_upto (Upto.refl 0xd3c80080 s) (Sub.refl _)).magIn rfl

@[simp] theorem report_pending (src : Nat) (sub : Nat) (detail : Nat) (req : Nat) (s : State) :
    (report src sub detail req s).pending = s.pending := (report_upto (Upto.refl 0xd3c80080 s) (Sub.refl _)).pending
@[simp] theorem report_now (src : Nat) (sub : Nat) (detail : Nat) (req : Nat) (s : State) :
    (report src sub detail req s).now = s.now := (report_upto (Upto.refl 0xd3c80080 s) (Sub.refl _)).now
@[simp] theorem report_free (src : Nat) (sub : Nat) (detail : Nat) (req : Nat) (s : State) :
    (report src sub detail req s).free = s.free := (report_upto (Upto.refl 0xd3c80080 s) (Sub.refl _)).free rfl
@[simp] theorem report_keys (src : Nat) (sub : Nat) (detail : Nat) (req : Nat) (s : State) :
    (report src sub detail req s).bus.keys = s.bus.keys := (report_upto (Upto.refl 0xd3c80080 s) (Sub.refl _)).keys rfl
@[simp] theorem report_staged (src : Nat) (sub : Nat) (detail : Nat) (req : Nat) (s : State) :
    (report src sub detail req s).bus.staged = s.bus.staged :=
  ((report_upto (Upto.refl 0xd3c80080 s) (Sub.refl _)).fabric rfl).1
@[simp] theorem report_latched (src : Nat) (sub : Nat) (detail : Nat) (req : Nat) (s : State) :
    (report src sub detail req s).bus.latched = s.bus.latched :=
  ((report_upto (Upto.refl 0xd3c80080 s) (Sub.refl _)).fabric rfl).2.1
@[simp] theorem report_rrPtr (src : Nat) (sub : Nat) (detail : Nat) (req : Nat) (s : State) :
    (report src sub detail req s).bus.rrPtr = s.bus.rrPtr :=
  ((report_upto (Upto.refl 0xd3c80080 s) (Sub.refl _)).fabric rfl).2.2.1
@[simp] theorem report_parBad (src : Nat) (sub : Nat) (detail : Nat) (req : Nat) (s : State) :
    (report src sub detail req s).bus.parBad = s.bus.parBad :=
  ((report_upto (Upto.refl 0xd3c80080 s) (Sub.refl _)).fabric rfl).2.2.2.1
@[simp] theorem report_parReported (src : Nat) (sub : Nat) (detail : Nat) (req : Nat) (s : State) :
    (report src sub detail req s).bus.parReported = s.bus.parReported :=
  ((report_upto (Upto.refl 0xd3c80080 s) (Sub.refl _)).fabric rfl).2.2.2.2.1
@[simp] theorem report_answers (src : Nat) (sub : Nat) (detail : Nat) (req : Nat) (s : State) :
    (report src sub detail req s).bus.answers = s.bus.answers :=
  ((report_upto (Upto.refl 0xd3c80080 s) (Sub.refl _)).fabric rfl).2.2.2.2.2.1
@[simp] theorem report_parPos (src : Nat) (sub : Nat) (detail : Nat) (req : Nat) (s : State) :
    (report src sub detail req s).bus.parPos = s.bus.parPos :=
  ((report_upto (Upto.refl 0xd3c80080 s) (Sub.refl _)).fabric rfl).2.2.2.2.2.2.1
@[simp] theorem report_parAt (src : Nat) (sub : Nat) (detail : Nat) (req : Nat) (s : State) :
    (report src sub detail req s).bus.parAt = s.bus.parAt :=
  ((report_upto (Upto.refl 0xd3c80080 s) (Sub.refl _)).fabric rfl).2.2.2.2.2.2.2.1
@[simp] theorem report_wroteNow (src : Nat) (sub : Nat) (detail : Nat) (req : Nat) (s : State) :
    (report src sub detail req s).bus.wroteNow = s.bus.wroteNow :=
  ((report_upto (Upto.refl 0xd3c80080 s) (Sub.refl _)).fabric rfl).2.2.2.2.2.2.2.2
@[simp] theorem report_rck (src : Nat) (sub : Nat) (detail : Nat) (req : Nat) (s : State) :
    (report src sub detail req s).rck = s.rck := (report_upto (Upto.refl 0xd3c80080 s) (Sub.refl _)).rck rfl
@[simp] theorem report_ptp (src : Nat) (sub : Nat) (detail : Nat) (req : Nat) (s : State) :
    (report src sub detail req s).ptp = s.ptp := (report_upto (Upto.refl 0xd3c80080 s) (Sub.refl _)).ptp rfl
@[simp] theorem report_lane (src : Nat) (sub : Nat) (detail : Nat) (req : Nat) (s : State) :
    (report src sub detail req s).lane = s.lane := (report_upto (Upto.refl 0xd3c80080 s) (Sub.refl _)).lane rfl
@[simp] theorem report_lfi (src : Nat) (sub : Nat) (detail : Nat) (req : Nat) (s : State) :
    (report src sub detail req s).lfi = s.lfi := (report_upto (Upto.refl 0xd3c80080 s) (Sub.refl _)).lfi rfl
@[simp] theorem report_port (src : Nat) (sub : Nat) (detail : Nat) (req : Nat) (s : State) :
    (report src sub detail req s).port = s.port := (report_upto (Upto.refl 0xd3c80080 s) (Sub.refl _)).port rfl
@[simp] theorem report_swt (src : Nat) (sub : Nat) (detail : Nat) (req : Nat) (s : State) :
    (report src sub detail req s).swt = s.swt := (report_upto (Upto.refl 0xd3c80080 s) (Sub.refl _)).swt rfl
@[simp] theorem report_bank (src : Nat) (sub : Nat) (detail : Nat) (req : Nat) (s : State) :
    (report src sub detail req s).bank = s.bank := (report_upto (Upto.refl 0xd3c80080 s) (Sub.refl _)).bank rfl
@[simp] theorem report_dist (src : Nat) (sub : Nat) (detail : Nat) (req : Nat) (s : State) :
    (report src sub detail req s).dist = s.dist := (report_upto (Upto.refl 0xd3c80080 s) (Sub.refl _)).dist rfl
@[simp] theorem report_skn (src : Nat) (sub : Nat) (detail : Nat) (req : Nat) (s : State) :
    (report src sub detail req s).skn = s.skn := (report_upto (Upto.refl 0xd3c80080 s) (Sub.refl _)).skn rfl
@[simp] theorem report_pat (src : Nat) (sub : Nat) (detail : Nat) (req : Nat) (s : State) :
    (report src sub detail req s).pat = s.pat := (report_upto (Upto.refl 0xd3c80080 s) (Sub.refl _)).pat rfl
@[simp] theorem report_pl (src : Nat) (sub : Nat) (detail : Nat) (req : Nat) (s : State) :
    (report src sub detail req s).pl = s.pl := (report_upto (Upto.refl 0xd3c80080 s) (Sub.refl _)).pl rfl
@[simp] theorem report_joint (src : Nat) (sub : Nat) (detail : Nat) (req : Nat) (s : State) :
    (report src sub detail req s).joint = s.joint := (report_upto (Upto.refl 0xd3c80080 s) (Sub.refl _)).joint rfl
@[simp] theorem report_mem (src : Nat) (sub : Nat) (detail : Nat) (req : Nat) (s : State) :
    (report src sub detail req s).mem = s.mem := (report_upto (Upto.refl 0xd3c80080 s) (Sub.refl _)).memory rfl rfl rfl rfl
@[simp] theorem report_stl (src : Nat) (sub : Nat) (detail : Nat) (req : Nat) (s : State) :
    (report src sub detail req s).stl = s.stl := (report_upto (Upto.refl 0xd3c80080 s) (Sub.refl _)).stl rfl
@[simp] theorem report_eth (src : Nat) (sub : Nat) (detail : Nat) (req : Nat) (s : State) :
    (report src sub detail req s).eth = s.eth := (report_upto (Upto.refl 0xd3c80080 s) (Sub.refl _)).eth rfl
@[simp] theorem report_ssw (src : Nat) (sub : Nat) (detail : Nat) (req : Nat) (s : State) :
    (report src sub detail req s).ssw = s.ssw := (report_upto (Upto.refl 0xd3c80080 s) (Sub.refl _)).ssw rfl
@[simp] theorem report_ft (src : Nat) (sub : Nat) (detail : Nat) (req : Nat) (s : State) :
    (report src sub detail req s).ft = s.ft := (report_upto (Upto.refl 0xd3c80080 s) (Sub.refl _)).ft rfl
@[simp] theorem report_arrivals (src : Nat) (sub : Nat) (detail : Nat) (req : Nat) (s : State) :
    (report src sub detail req s).arrivals = s.arrivals := (report_upto (Upto.refl 0xd3c80080 s) (Sub.refl _)).arrivals rfl
@[simp] theorem report_mbx (src : Nat) (sub : Nat) (detail : Nat) (req : Nat) (s : State) :
    (report src sub detail req s).mbx = s.mbx := (report_upto (Upto.refl 0xd3c80080 s) (Sub.refl _)).mbx rfl
@[simp] theorem report_sem (src : Nat) (sub : Nat) (detail : Nat) (req : Nat) (s : State) :
    (report src sub detail req s).sem = s.sem := (report_upto (Upto.refl 0xd3c80080 s) (Sub.refl _)).sem rfl
@[simp] theorem report_sth (src : Nat) (sub : Nat) (detail : Nat) (req : Nat) (s : State) :
    (report src sub detail req s).sth = s.sth := (report_upto (Upto.refl 0xd3c80080 s) (Sub.refl _)).sth rfl
@[simp] theorem report_sec (src : Nat) (sub : Nat) (detail : Nat) (req : Nat) (s : State) :
    (report src sub detail req s).sec = s.sec := (report_upto (Upto.refl 0xd3c80080 s) (Sub.refl _)).sec rfl
@[simp] theorem report_magIn (src : Nat) (sub : Nat) (detail : Nat) (req : Nat) (s : State) :
    (report src sub detail req s).magIn = s.magIn := (report_upto (Upto.refl 0xd3c80080 s) (Sub.refl _)).magIn rfl

@[simp] theorem busError_pending (req : Nat) (addr : Nat) (write : Bool) (c : Berr) (s : State) :
    (busError req addr write c s).pending = s.pending := (busError_upto (Upto.refl 0x80000000 s) (Sub.refl _)).pending
@[simp] theorem busError_now (req : Nat) (addr : Nat) (write : Bool) (c : Berr) (s : State) :
    (busError req addr write c s).now = s.now := (busError_upto (Upto.refl 0x80000000 s) (Sub.refl _)).now
@[simp] theorem busError_free (req : Nat) (addr : Nat) (write : Bool) (c : Berr) (s : State) :
    (busError req addr write c s).free = s.free := (busError_upto (Upto.refl 0x80000000 s) (Sub.refl _)).free rfl
@[simp] theorem busError_keys (req : Nat) (addr : Nat) (write : Bool) (c : Berr) (s : State) :
    (busError req addr write c s).bus.keys = s.bus.keys := (busError_upto (Upto.refl 0x80000000 s) (Sub.refl _)).keys rfl
@[simp] theorem busError_staged (req : Nat) (addr : Nat) (write : Bool) (c : Berr) (s : State) :
    (busError req addr write c s).bus.staged = s.bus.staged :=
  ((busError_upto (Upto.refl 0x80000000 s) (Sub.refl _)).fabric rfl).1
@[simp] theorem busError_latched (req : Nat) (addr : Nat) (write : Bool) (c : Berr) (s : State) :
    (busError req addr write c s).bus.latched = s.bus.latched :=
  ((busError_upto (Upto.refl 0x80000000 s) (Sub.refl _)).fabric rfl).2.1
@[simp] theorem busError_rrPtr (req : Nat) (addr : Nat) (write : Bool) (c : Berr) (s : State) :
    (busError req addr write c s).bus.rrPtr = s.bus.rrPtr :=
  ((busError_upto (Upto.refl 0x80000000 s) (Sub.refl _)).fabric rfl).2.2.1
@[simp] theorem busError_parBad (req : Nat) (addr : Nat) (write : Bool) (c : Berr) (s : State) :
    (busError req addr write c s).bus.parBad = s.bus.parBad :=
  ((busError_upto (Upto.refl 0x80000000 s) (Sub.refl _)).fabric rfl).2.2.2.1
@[simp] theorem busError_parReported (req : Nat) (addr : Nat) (write : Bool) (c : Berr) (s : State) :
    (busError req addr write c s).bus.parReported = s.bus.parReported :=
  ((busError_upto (Upto.refl 0x80000000 s) (Sub.refl _)).fabric rfl).2.2.2.2.1
@[simp] theorem busError_answers (req : Nat) (addr : Nat) (write : Bool) (c : Berr) (s : State) :
    (busError req addr write c s).bus.answers = s.bus.answers :=
  ((busError_upto (Upto.refl 0x80000000 s) (Sub.refl _)).fabric rfl).2.2.2.2.2.1
@[simp] theorem busError_parPos (req : Nat) (addr : Nat) (write : Bool) (c : Berr) (s : State) :
    (busError req addr write c s).bus.parPos = s.bus.parPos :=
  ((busError_upto (Upto.refl 0x80000000 s) (Sub.refl _)).fabric rfl).2.2.2.2.2.2.1
@[simp] theorem busError_parAt (req : Nat) (addr : Nat) (write : Bool) (c : Berr) (s : State) :
    (busError req addr write c s).bus.parAt = s.bus.parAt :=
  ((busError_upto (Upto.refl 0x80000000 s) (Sub.refl _)).fabric rfl).2.2.2.2.2.2.2.1
@[simp] theorem busError_wroteNow (req : Nat) (addr : Nat) (write : Bool) (c : Berr) (s : State) :
    (busError req addr write c s).bus.wroteNow = s.bus.wroteNow :=
  ((busError_upto (Upto.refl 0x80000000 s) (Sub.refl _)).fabric rfl).2.2.2.2.2.2.2.2
@[simp] theorem busError_rck (req : Nat) (addr : Nat) (write : Bool) (c : Berr) (s : State) :
    (busError req addr write c s).rck = s.rck := (busError_upto (Upto.refl 0x80000000 s) (Sub.refl _)).rck rfl
@[simp] theorem busError_ptp (req : Nat) (addr : Nat) (write : Bool) (c : Berr) (s : State) :
    (busError req addr write c s).ptp = s.ptp := (busError_upto (Upto.refl 0x80000000 s) (Sub.refl _)).ptp rfl
@[simp] theorem busError_lane (req : Nat) (addr : Nat) (write : Bool) (c : Berr) (s : State) :
    (busError req addr write c s).lane = s.lane := (busError_upto (Upto.refl 0x80000000 s) (Sub.refl _)).lane rfl
@[simp] theorem busError_lfi (req : Nat) (addr : Nat) (write : Bool) (c : Berr) (s : State) :
    (busError req addr write c s).lfi = s.lfi := (busError_upto (Upto.refl 0x80000000 s) (Sub.refl _)).lfi rfl
@[simp] theorem busError_port (req : Nat) (addr : Nat) (write : Bool) (c : Berr) (s : State) :
    (busError req addr write c s).port = s.port := (busError_upto (Upto.refl 0x80000000 s) (Sub.refl _)).port rfl
@[simp] theorem busError_swt (req : Nat) (addr : Nat) (write : Bool) (c : Berr) (s : State) :
    (busError req addr write c s).swt = s.swt := (busError_upto (Upto.refl 0x80000000 s) (Sub.refl _)).swt rfl
@[simp] theorem busError_ndl (req : Nat) (addr : Nat) (write : Bool) (c : Berr) (s : State) :
    (busError req addr write c s).ndl = s.ndl := (busError_upto (Upto.refl 0x80000000 s) (Sub.refl _)).ndl rfl
@[simp] theorem busError_bank (req : Nat) (addr : Nat) (write : Bool) (c : Berr) (s : State) :
    (busError req addr write c s).bank = s.bank := (busError_upto (Upto.refl 0x80000000 s) (Sub.refl _)).bank rfl
@[simp] theorem busError_dist (req : Nat) (addr : Nat) (write : Bool) (c : Berr) (s : State) :
    (busError req addr write c s).dist = s.dist := (busError_upto (Upto.refl 0x80000000 s) (Sub.refl _)).dist rfl
@[simp] theorem busError_skn (req : Nat) (addr : Nat) (write : Bool) (c : Berr) (s : State) :
    (busError req addr write c s).skn = s.skn := (busError_upto (Upto.refl 0x80000000 s) (Sub.refl _)).skn rfl
@[simp] theorem busError_pat (req : Nat) (addr : Nat) (write : Bool) (c : Berr) (s : State) :
    (busError req addr write c s).pat = s.pat := (busError_upto (Upto.refl 0x80000000 s) (Sub.refl _)).pat rfl
@[simp] theorem busError_pl (req : Nat) (addr : Nat) (write : Bool) (c : Berr) (s : State) :
    (busError req addr write c s).pl = s.pl := (busError_upto (Upto.refl 0x80000000 s) (Sub.refl _)).pl rfl
@[simp] theorem busError_joint (req : Nat) (addr : Nat) (write : Bool) (c : Berr) (s : State) :
    (busError req addr write c s).joint = s.joint := (busError_upto (Upto.refl 0x80000000 s) (Sub.refl _)).joint rfl
@[simp] theorem busError_mem (req : Nat) (addr : Nat) (write : Bool) (c : Berr) (s : State) :
    (busError req addr write c s).mem = s.mem := (busError_upto (Upto.refl 0x80000000 s) (Sub.refl _)).memory rfl rfl rfl rfl
@[simp] theorem busError_stl (req : Nat) (addr : Nat) (write : Bool) (c : Berr) (s : State) :
    (busError req addr write c s).stl = s.stl := (busError_upto (Upto.refl 0x80000000 s) (Sub.refl _)).stl rfl
@[simp] theorem busError_eth (req : Nat) (addr : Nat) (write : Bool) (c : Berr) (s : State) :
    (busError req addr write c s).eth = s.eth := (busError_upto (Upto.refl 0x80000000 s) (Sub.refl _)).eth rfl
@[simp] theorem busError_ssw (req : Nat) (addr : Nat) (write : Bool) (c : Berr) (s : State) :
    (busError req addr write c s).ssw = s.ssw := (busError_upto (Upto.refl 0x80000000 s) (Sub.refl _)).ssw rfl
@[simp] theorem busError_ft (req : Nat) (addr : Nat) (write : Bool) (c : Berr) (s : State) :
    (busError req addr write c s).ft = s.ft := (busError_upto (Upto.refl 0x80000000 s) (Sub.refl _)).ft rfl
@[simp] theorem busError_arrivals (req : Nat) (addr : Nat) (write : Bool) (c : Berr) (s : State) :
    (busError req addr write c s).arrivals = s.arrivals := (busError_upto (Upto.refl 0x80000000 s) (Sub.refl _)).arrivals rfl
@[simp] theorem busError_ict (req : Nat) (addr : Nat) (write : Bool) (c : Berr) (s : State) :
    (busError req addr write c s).ict = s.ict := (busError_upto (Upto.refl 0x80000000 s) (Sub.refl _)).ict rfl
@[simp] theorem busError_mbx (req : Nat) (addr : Nat) (write : Bool) (c : Berr) (s : State) :
    (busError req addr write c s).mbx = s.mbx := (busError_upto (Upto.refl 0x80000000 s) (Sub.refl _)).mbx rfl
@[simp] theorem busError_sem (req : Nat) (addr : Nat) (write : Bool) (c : Berr) (s : State) :
    (busError req addr write c s).sem = s.sem := (busError_upto (Upto.refl 0x80000000 s) (Sub.refl _)).sem rfl
@[simp] theorem busError_pwr (req : Nat) (addr : Nat) (write : Bool) (c : Berr) (s : State) :
    (busError req addr write c s).pwr = s.pwr := (busError_upto (Upto.refl 0x80000000 s) (Sub.refl _)).pwr rfl
@[simp] theorem busError_fcl (req : Nat) (addr : Nat) (write : Bool) (c : Berr) (s : State) :
    (busError req addr write c s).fcl = s.fcl := (busError_upto (Upto.refl 0x80000000 s) (Sub.refl _)).fcl rfl
@[simp] theorem busError_ldg (req : Nat) (addr : Nat) (write : Bool) (c : Berr) (s : State) :
    (busError req addr write c s).ldg = s.ldg := (busError_upto (Upto.refl 0x80000000 s) (Sub.refl _)).ldg rfl
@[simp] theorem busError_tly (req : Nat) (addr : Nat) (write : Bool) (c : Berr) (s : State) :
    (busError req addr write c s).tly = s.tly := (busError_upto (Upto.refl 0x80000000 s) (Sub.refl _)).tly rfl
@[simp] theorem busError_sth (req : Nat) (addr : Nat) (write : Bool) (c : Berr) (s : State) :
    (busError req addr write c s).sth = s.sth := (busError_upto (Upto.refl 0x80000000 s) (Sub.refl _)).sth rfl
@[simp] theorem busError_sec (req : Nat) (addr : Nat) (write : Bool) (c : Berr) (s : State) :
    (busError req addr write c s).sec = s.sec := (busError_upto (Upto.refl 0x80000000 s) (Sub.refl _)).sec rfl
@[simp] theorem busError_mag (req : Nat) (addr : Nat) (write : Bool) (c : Berr) (s : State) :
    (busError req addr write c s).mag = s.mag := (busError_upto (Upto.refl 0x80000000 s) (Sub.refl _)).mag rfl
@[simp] theorem busError_magIn (req : Nat) (addr : Nat) (write : Bool) (c : Berr) (s : State) :
    (busError req addr write c s).magIn = s.magIn := (busError_upto (Upto.refl 0x80000000 s) (Sub.refl _)).magIn rfl
@[simp] theorem busError_prt (req : Nat) (addr : Nat) (write : Bool) (c : Berr) (s : State) :
    (busError req addr write c s).prt = s.prt := (busError_upto (Upto.refl 0x80000000 s) (Sub.refl _)).prt rfl

@[simp] theorem keyReject_pending (f : Nat) (req : Nat) (c : Berr) (s : State) :
    (keyReject f req c s).pending = s.pending := (keyReject_upto (Upto.refl 0x100000000 s) (Sub.refl _)).pending
@[simp] theorem keyReject_now (f : Nat) (req : Nat) (c : Berr) (s : State) :
    (keyReject f req c s).now = s.now := (keyReject_upto (Upto.refl 0x100000000 s) (Sub.refl _)).now
@[simp] theorem keyReject_free (f : Nat) (req : Nat) (c : Berr) (s : State) :
    (keyReject f req c s).free = s.free := (keyReject_upto (Upto.refl 0x100000000 s) (Sub.refl _)).free rfl
@[simp] theorem keyReject_staged (f : Nat) (req : Nat) (c : Berr) (s : State) :
    (keyReject f req c s).bus.staged = s.bus.staged :=
  ((keyReject_upto (Upto.refl 0x100000000 s) (Sub.refl _)).fabric rfl).1
@[simp] theorem keyReject_latched (f : Nat) (req : Nat) (c : Berr) (s : State) :
    (keyReject f req c s).bus.latched = s.bus.latched :=
  ((keyReject_upto (Upto.refl 0x100000000 s) (Sub.refl _)).fabric rfl).2.1
@[simp] theorem keyReject_rrPtr (f : Nat) (req : Nat) (c : Berr) (s : State) :
    (keyReject f req c s).bus.rrPtr = s.bus.rrPtr :=
  ((keyReject_upto (Upto.refl 0x100000000 s) (Sub.refl _)).fabric rfl).2.2.1
@[simp] theorem keyReject_parBad (f : Nat) (req : Nat) (c : Berr) (s : State) :
    (keyReject f req c s).bus.parBad = s.bus.parBad :=
  ((keyReject_upto (Upto.refl 0x100000000 s) (Sub.refl _)).fabric rfl).2.2.2.1
@[simp] theorem keyReject_parReported (f : Nat) (req : Nat) (c : Berr) (s : State) :
    (keyReject f req c s).bus.parReported = s.bus.parReported :=
  ((keyReject_upto (Upto.refl 0x100000000 s) (Sub.refl _)).fabric rfl).2.2.2.2.1
@[simp] theorem keyReject_answers (f : Nat) (req : Nat) (c : Berr) (s : State) :
    (keyReject f req c s).bus.answers = s.bus.answers :=
  ((keyReject_upto (Upto.refl 0x100000000 s) (Sub.refl _)).fabric rfl).2.2.2.2.2.1
@[simp] theorem keyReject_parPos (f : Nat) (req : Nat) (c : Berr) (s : State) :
    (keyReject f req c s).bus.parPos = s.bus.parPos :=
  ((keyReject_upto (Upto.refl 0x100000000 s) (Sub.refl _)).fabric rfl).2.2.2.2.2.2.1
@[simp] theorem keyReject_parAt (f : Nat) (req : Nat) (c : Berr) (s : State) :
    (keyReject f req c s).bus.parAt = s.bus.parAt :=
  ((keyReject_upto (Upto.refl 0x100000000 s) (Sub.refl _)).fabric rfl).2.2.2.2.2.2.2.1
@[simp] theorem keyReject_wroteNow (f : Nat) (req : Nat) (c : Berr) (s : State) :
    (keyReject f req c s).bus.wroteNow = s.bus.wroteNow :=
  ((keyReject_upto (Upto.refl 0x100000000 s) (Sub.refl _)).fabric rfl).2.2.2.2.2.2.2.2
@[simp] theorem keyReject_rck (f : Nat) (req : Nat) (c : Berr) (s : State) :
    (keyReject f req c s).rck = s.rck := (keyReject_upto (Upto.refl 0x100000000 s) (Sub.refl _)).rck rfl
@[simp] theorem keyReject_ptp (f : Nat) (req : Nat) (c : Berr) (s : State) :
    (keyReject f req c s).ptp = s.ptp := (keyReject_upto (Upto.refl 0x100000000 s) (Sub.refl _)).ptp rfl
@[simp] theorem keyReject_lane (f : Nat) (req : Nat) (c : Berr) (s : State) :
    (keyReject f req c s).lane = s.lane := (keyReject_upto (Upto.refl 0x100000000 s) (Sub.refl _)).lane rfl
@[simp] theorem keyReject_lfi (f : Nat) (req : Nat) (c : Berr) (s : State) :
    (keyReject f req c s).lfi = s.lfi := (keyReject_upto (Upto.refl 0x100000000 s) (Sub.refl _)).lfi rfl
@[simp] theorem keyReject_port (f : Nat) (req : Nat) (c : Berr) (s : State) :
    (keyReject f req c s).port = s.port := (keyReject_upto (Upto.refl 0x100000000 s) (Sub.refl _)).port rfl
@[simp] theorem keyReject_swt (f : Nat) (req : Nat) (c : Berr) (s : State) :
    (keyReject f req c s).swt = s.swt := (keyReject_upto (Upto.refl 0x100000000 s) (Sub.refl _)).swt rfl
@[simp] theorem keyReject_ndl (f : Nat) (req : Nat) (c : Berr) (s : State) :
    (keyReject f req c s).ndl = s.ndl := (keyReject_upto (Upto.refl 0x100000000 s) (Sub.refl _)).ndl rfl
@[simp] theorem keyReject_bank (f : Nat) (req : Nat) (c : Berr) (s : State) :
    (keyReject f req c s).bank = s.bank := (keyReject_upto (Upto.refl 0x100000000 s) (Sub.refl _)).bank rfl
@[simp] theorem keyReject_dist (f : Nat) (req : Nat) (c : Berr) (s : State) :
    (keyReject f req c s).dist = s.dist := (keyReject_upto (Upto.refl 0x100000000 s) (Sub.refl _)).dist rfl
@[simp] theorem keyReject_skn (f : Nat) (req : Nat) (c : Berr) (s : State) :
    (keyReject f req c s).skn = s.skn := (keyReject_upto (Upto.refl 0x100000000 s) (Sub.refl _)).skn rfl
@[simp] theorem keyReject_pat (f : Nat) (req : Nat) (c : Berr) (s : State) :
    (keyReject f req c s).pat = s.pat := (keyReject_upto (Upto.refl 0x100000000 s) (Sub.refl _)).pat rfl
@[simp] theorem keyReject_pl (f : Nat) (req : Nat) (c : Berr) (s : State) :
    (keyReject f req c s).pl = s.pl := (keyReject_upto (Upto.refl 0x100000000 s) (Sub.refl _)).pl rfl
@[simp] theorem keyReject_joint (f : Nat) (req : Nat) (c : Berr) (s : State) :
    (keyReject f req c s).joint = s.joint := (keyReject_upto (Upto.refl 0x100000000 s) (Sub.refl _)).joint rfl
@[simp] theorem keyReject_mem (f : Nat) (req : Nat) (c : Berr) (s : State) :
    (keyReject f req c s).mem = s.mem := (keyReject_upto (Upto.refl 0x100000000 s) (Sub.refl _)).memory rfl rfl rfl rfl
@[simp] theorem keyReject_stl (f : Nat) (req : Nat) (c : Berr) (s : State) :
    (keyReject f req c s).stl = s.stl := (keyReject_upto (Upto.refl 0x100000000 s) (Sub.refl _)).stl rfl
@[simp] theorem keyReject_eth (f : Nat) (req : Nat) (c : Berr) (s : State) :
    (keyReject f req c s).eth = s.eth := (keyReject_upto (Upto.refl 0x100000000 s) (Sub.refl _)).eth rfl
@[simp] theorem keyReject_ssw (f : Nat) (req : Nat) (c : Berr) (s : State) :
    (keyReject f req c s).ssw = s.ssw := (keyReject_upto (Upto.refl 0x100000000 s) (Sub.refl _)).ssw rfl
@[simp] theorem keyReject_ft (f : Nat) (req : Nat) (c : Berr) (s : State) :
    (keyReject f req c s).ft = s.ft := (keyReject_upto (Upto.refl 0x100000000 s) (Sub.refl _)).ft rfl
@[simp] theorem keyReject_arrivals (f : Nat) (req : Nat) (c : Berr) (s : State) :
    (keyReject f req c s).arrivals = s.arrivals := (keyReject_upto (Upto.refl 0x100000000 s) (Sub.refl _)).arrivals rfl
@[simp] theorem keyReject_ict (f : Nat) (req : Nat) (c : Berr) (s : State) :
    (keyReject f req c s).ict = s.ict := (keyReject_upto (Upto.refl 0x100000000 s) (Sub.refl _)).ict rfl
@[simp] theorem keyReject_mbx (f : Nat) (req : Nat) (c : Berr) (s : State) :
    (keyReject f req c s).mbx = s.mbx := (keyReject_upto (Upto.refl 0x100000000 s) (Sub.refl _)).mbx rfl
@[simp] theorem keyReject_sem (f : Nat) (req : Nat) (c : Berr) (s : State) :
    (keyReject f req c s).sem = s.sem := (keyReject_upto (Upto.refl 0x100000000 s) (Sub.refl _)).sem rfl
@[simp] theorem keyReject_pwr (f : Nat) (req : Nat) (c : Berr) (s : State) :
    (keyReject f req c s).pwr = s.pwr := (keyReject_upto (Upto.refl 0x100000000 s) (Sub.refl _)).pwr rfl
@[simp] theorem keyReject_fcl (f : Nat) (req : Nat) (c : Berr) (s : State) :
    (keyReject f req c s).fcl = s.fcl := (keyReject_upto (Upto.refl 0x100000000 s) (Sub.refl _)).fcl rfl
@[simp] theorem keyReject_ldg (f : Nat) (req : Nat) (c : Berr) (s : State) :
    (keyReject f req c s).ldg = s.ldg := (keyReject_upto (Upto.refl 0x100000000 s) (Sub.refl _)).ldg rfl
@[simp] theorem keyReject_tly (f : Nat) (req : Nat) (c : Berr) (s : State) :
    (keyReject f req c s).tly = s.tly := (keyReject_upto (Upto.refl 0x100000000 s) (Sub.refl _)).tly rfl
@[simp] theorem keyReject_sth (f : Nat) (req : Nat) (c : Berr) (s : State) :
    (keyReject f req c s).sth = s.sth := (keyReject_upto (Upto.refl 0x100000000 s) (Sub.refl _)).sth rfl
@[simp] theorem keyReject_sec (f : Nat) (req : Nat) (c : Berr) (s : State) :
    (keyReject f req c s).sec = s.sec := (keyReject_upto (Upto.refl 0x100000000 s) (Sub.refl _)).sec rfl
@[simp] theorem keyReject_mag (f : Nat) (req : Nat) (c : Berr) (s : State) :
    (keyReject f req c s).mag = s.mag := (keyReject_upto (Upto.refl 0x100000000 s) (Sub.refl _)).mag rfl
@[simp] theorem keyReject_magIn (f : Nat) (req : Nat) (c : Berr) (s : State) :
    (keyReject f req c s).magIn = s.magIn := (keyReject_upto (Upto.refl 0x100000000 s) (Sub.refl _)).magIn rfl
@[simp] theorem keyReject_prt (f : Nat) (req : Nat) (c : Berr) (s : State) :
    (keyReject f req c s).prt = s.prt := (keyReject_upto (Upto.refl 0x100000000 s) (Sub.refl _)).prt rfl

@[simp] theorem keyGrant_pending (f : Nat) (req : Nat) (s : State) :
    (keyGrant f req s).pending = s.pending := (keyGrant_upto (Upto.refl 0x100000000 s) (Sub.refl _)).pending
@[simp] theorem keyGrant_now (f : Nat) (req : Nat) (s : State) :
    (keyGrant f req s).now = s.now := (keyGrant_upto (Upto.refl 0x100000000 s) (Sub.refl _)).now
@[simp] theorem keyGrant_free (f : Nat) (req : Nat) (s : State) :
    (keyGrant f req s).free = s.free := (keyGrant_upto (Upto.refl 0x100000000 s) (Sub.refl _)).free rfl
@[simp] theorem keyGrant_staged (f : Nat) (req : Nat) (s : State) :
    (keyGrant f req s).bus.staged = s.bus.staged :=
  ((keyGrant_upto (Upto.refl 0x100000000 s) (Sub.refl _)).fabric rfl).1
@[simp] theorem keyGrant_latched (f : Nat) (req : Nat) (s : State) :
    (keyGrant f req s).bus.latched = s.bus.latched :=
  ((keyGrant_upto (Upto.refl 0x100000000 s) (Sub.refl _)).fabric rfl).2.1
@[simp] theorem keyGrant_rrPtr (f : Nat) (req : Nat) (s : State) :
    (keyGrant f req s).bus.rrPtr = s.bus.rrPtr :=
  ((keyGrant_upto (Upto.refl 0x100000000 s) (Sub.refl _)).fabric rfl).2.2.1
@[simp] theorem keyGrant_parBad (f : Nat) (req : Nat) (s : State) :
    (keyGrant f req s).bus.parBad = s.bus.parBad :=
  ((keyGrant_upto (Upto.refl 0x100000000 s) (Sub.refl _)).fabric rfl).2.2.2.1
@[simp] theorem keyGrant_parReported (f : Nat) (req : Nat) (s : State) :
    (keyGrant f req s).bus.parReported = s.bus.parReported :=
  ((keyGrant_upto (Upto.refl 0x100000000 s) (Sub.refl _)).fabric rfl).2.2.2.2.1
@[simp] theorem keyGrant_answers (f : Nat) (req : Nat) (s : State) :
    (keyGrant f req s).bus.answers = s.bus.answers :=
  ((keyGrant_upto (Upto.refl 0x100000000 s) (Sub.refl _)).fabric rfl).2.2.2.2.2.1
@[simp] theorem keyGrant_parPos (f : Nat) (req : Nat) (s : State) :
    (keyGrant f req s).bus.parPos = s.bus.parPos :=
  ((keyGrant_upto (Upto.refl 0x100000000 s) (Sub.refl _)).fabric rfl).2.2.2.2.2.2.1
@[simp] theorem keyGrant_parAt (f : Nat) (req : Nat) (s : State) :
    (keyGrant f req s).bus.parAt = s.bus.parAt :=
  ((keyGrant_upto (Upto.refl 0x100000000 s) (Sub.refl _)).fabric rfl).2.2.2.2.2.2.2.1
@[simp] theorem keyGrant_wroteNow (f : Nat) (req : Nat) (s : State) :
    (keyGrant f req s).bus.wroteNow = s.bus.wroteNow :=
  ((keyGrant_upto (Upto.refl 0x100000000 s) (Sub.refl _)).fabric rfl).2.2.2.2.2.2.2.2
@[simp] theorem keyGrant_rck (f : Nat) (req : Nat) (s : State) :
    (keyGrant f req s).rck = s.rck := (keyGrant_upto (Upto.refl 0x100000000 s) (Sub.refl _)).rck rfl
@[simp] theorem keyGrant_ptp (f : Nat) (req : Nat) (s : State) :
    (keyGrant f req s).ptp = s.ptp := (keyGrant_upto (Upto.refl 0x100000000 s) (Sub.refl _)).ptp rfl
@[simp] theorem keyGrant_lane (f : Nat) (req : Nat) (s : State) :
    (keyGrant f req s).lane = s.lane := (keyGrant_upto (Upto.refl 0x100000000 s) (Sub.refl _)).lane rfl
@[simp] theorem keyGrant_lfi (f : Nat) (req : Nat) (s : State) :
    (keyGrant f req s).lfi = s.lfi := (keyGrant_upto (Upto.refl 0x100000000 s) (Sub.refl _)).lfi rfl
@[simp] theorem keyGrant_port (f : Nat) (req : Nat) (s : State) :
    (keyGrant f req s).port = s.port := (keyGrant_upto (Upto.refl 0x100000000 s) (Sub.refl _)).port rfl
@[simp] theorem keyGrant_swt (f : Nat) (req : Nat) (s : State) :
    (keyGrant f req s).swt = s.swt := (keyGrant_upto (Upto.refl 0x100000000 s) (Sub.refl _)).swt rfl
@[simp] theorem keyGrant_ndl (f : Nat) (req : Nat) (s : State) :
    (keyGrant f req s).ndl = s.ndl := (keyGrant_upto (Upto.refl 0x100000000 s) (Sub.refl _)).ndl rfl
@[simp] theorem keyGrant_bank (f : Nat) (req : Nat) (s : State) :
    (keyGrant f req s).bank = s.bank := (keyGrant_upto (Upto.refl 0x100000000 s) (Sub.refl _)).bank rfl
@[simp] theorem keyGrant_dist (f : Nat) (req : Nat) (s : State) :
    (keyGrant f req s).dist = s.dist := (keyGrant_upto (Upto.refl 0x100000000 s) (Sub.refl _)).dist rfl
@[simp] theorem keyGrant_skn (f : Nat) (req : Nat) (s : State) :
    (keyGrant f req s).skn = s.skn := (keyGrant_upto (Upto.refl 0x100000000 s) (Sub.refl _)).skn rfl
@[simp] theorem keyGrant_pat (f : Nat) (req : Nat) (s : State) :
    (keyGrant f req s).pat = s.pat := (keyGrant_upto (Upto.refl 0x100000000 s) (Sub.refl _)).pat rfl
@[simp] theorem keyGrant_pl (f : Nat) (req : Nat) (s : State) :
    (keyGrant f req s).pl = s.pl := (keyGrant_upto (Upto.refl 0x100000000 s) (Sub.refl _)).pl rfl
@[simp] theorem keyGrant_joint (f : Nat) (req : Nat) (s : State) :
    (keyGrant f req s).joint = s.joint := (keyGrant_upto (Upto.refl 0x100000000 s) (Sub.refl _)).joint rfl
@[simp] theorem keyGrant_mem (f : Nat) (req : Nat) (s : State) :
    (keyGrant f req s).mem = s.mem := (keyGrant_upto (Upto.refl 0x100000000 s) (Sub.refl _)).memory rfl rfl rfl rfl
@[simp] theorem keyGrant_stl (f : Nat) (req : Nat) (s : State) :
    (keyGrant f req s).stl = s.stl := (keyGrant_upto (Upto.refl 0x100000000 s) (Sub.refl _)).stl rfl
@[simp] theorem keyGrant_eth (f : Nat) (req : Nat) (s : State) :
    (keyGrant f req s).eth = s.eth := (keyGrant_upto (Upto.refl 0x100000000 s) (Sub.refl _)).eth rfl
@[simp] theorem keyGrant_ssw (f : Nat) (req : Nat) (s : State) :
    (keyGrant f req s).ssw = s.ssw := (keyGrant_upto (Upto.refl 0x100000000 s) (Sub.refl _)).ssw rfl
@[simp] theorem keyGrant_ft (f : Nat) (req : Nat) (s : State) :
    (keyGrant f req s).ft = s.ft := (keyGrant_upto (Upto.refl 0x100000000 s) (Sub.refl _)).ft rfl
@[simp] theorem keyGrant_arrivals (f : Nat) (req : Nat) (s : State) :
    (keyGrant f req s).arrivals = s.arrivals := (keyGrant_upto (Upto.refl 0x100000000 s) (Sub.refl _)).arrivals rfl
@[simp] theorem keyGrant_ict (f : Nat) (req : Nat) (s : State) :
    (keyGrant f req s).ict = s.ict := (keyGrant_upto (Upto.refl 0x100000000 s) (Sub.refl _)).ict rfl
@[simp] theorem keyGrant_mbx (f : Nat) (req : Nat) (s : State) :
    (keyGrant f req s).mbx = s.mbx := (keyGrant_upto (Upto.refl 0x100000000 s) (Sub.refl _)).mbx rfl
@[simp] theorem keyGrant_sem (f : Nat) (req : Nat) (s : State) :
    (keyGrant f req s).sem = s.sem := (keyGrant_upto (Upto.refl 0x100000000 s) (Sub.refl _)).sem rfl
@[simp] theorem keyGrant_pwr (f : Nat) (req : Nat) (s : State) :
    (keyGrant f req s).pwr = s.pwr := (keyGrant_upto (Upto.refl 0x100000000 s) (Sub.refl _)).pwr rfl
@[simp] theorem keyGrant_fcl (f : Nat) (req : Nat) (s : State) :
    (keyGrant f req s).fcl = s.fcl := (keyGrant_upto (Upto.refl 0x100000000 s) (Sub.refl _)).fcl rfl
@[simp] theorem keyGrant_ldg (f : Nat) (req : Nat) (s : State) :
    (keyGrant f req s).ldg = s.ldg := (keyGrant_upto (Upto.refl 0x100000000 s) (Sub.refl _)).ldg rfl
@[simp] theorem keyGrant_tly (f : Nat) (req : Nat) (s : State) :
    (keyGrant f req s).tly = s.tly := (keyGrant_upto (Upto.refl 0x100000000 s) (Sub.refl _)).tly rfl
@[simp] theorem keyGrant_sth (f : Nat) (req : Nat) (s : State) :
    (keyGrant f req s).sth = s.sth := (keyGrant_upto (Upto.refl 0x100000000 s) (Sub.refl _)).sth rfl
@[simp] theorem keyGrant_sec (f : Nat) (req : Nat) (s : State) :
    (keyGrant f req s).sec = s.sec := (keyGrant_upto (Upto.refl 0x100000000 s) (Sub.refl _)).sec rfl
@[simp] theorem keyGrant_mag (f : Nat) (req : Nat) (s : State) :
    (keyGrant f req s).mag = s.mag := (keyGrant_upto (Upto.refl 0x100000000 s) (Sub.refl _)).mag rfl
@[simp] theorem keyGrant_magIn (f : Nat) (req : Nat) (s : State) :
    (keyGrant f req s).magIn = s.magIn := (keyGrant_upto (Upto.refl 0x100000000 s) (Sub.refl _)).magIn rfl
@[simp] theorem keyGrant_prt (f : Nat) (req : Nat) (s : State) :
    (keyGrant f req s).prt = s.prt := (keyGrant_upto (Upto.refl 0x100000000 s) (Sub.refl _)).prt rfl

@[simp] theorem keyClose_pending (f : Nat) (s : State) :
    (keyClose f s).pending = s.pending := (keyClose_upto (Upto.refl 0x100000000 s) (Sub.refl _)).pending
@[simp] theorem keyClose_now (f : Nat) (s : State) :
    (keyClose f s).now = s.now := (keyClose_upto (Upto.refl 0x100000000 s) (Sub.refl _)).now
@[simp] theorem keyClose_free (f : Nat) (s : State) :
    (keyClose f s).free = s.free := (keyClose_upto (Upto.refl 0x100000000 s) (Sub.refl _)).free rfl
@[simp] theorem keyClose_staged (f : Nat) (s : State) :
    (keyClose f s).bus.staged = s.bus.staged :=
  ((keyClose_upto (Upto.refl 0x100000000 s) (Sub.refl _)).fabric rfl).1
@[simp] theorem keyClose_latched (f : Nat) (s : State) :
    (keyClose f s).bus.latched = s.bus.latched :=
  ((keyClose_upto (Upto.refl 0x100000000 s) (Sub.refl _)).fabric rfl).2.1
@[simp] theorem keyClose_rrPtr (f : Nat) (s : State) :
    (keyClose f s).bus.rrPtr = s.bus.rrPtr :=
  ((keyClose_upto (Upto.refl 0x100000000 s) (Sub.refl _)).fabric rfl).2.2.1
@[simp] theorem keyClose_parBad (f : Nat) (s : State) :
    (keyClose f s).bus.parBad = s.bus.parBad :=
  ((keyClose_upto (Upto.refl 0x100000000 s) (Sub.refl _)).fabric rfl).2.2.2.1
@[simp] theorem keyClose_parReported (f : Nat) (s : State) :
    (keyClose f s).bus.parReported = s.bus.parReported :=
  ((keyClose_upto (Upto.refl 0x100000000 s) (Sub.refl _)).fabric rfl).2.2.2.2.1
@[simp] theorem keyClose_answers (f : Nat) (s : State) :
    (keyClose f s).bus.answers = s.bus.answers :=
  ((keyClose_upto (Upto.refl 0x100000000 s) (Sub.refl _)).fabric rfl).2.2.2.2.2.1
@[simp] theorem keyClose_parPos (f : Nat) (s : State) :
    (keyClose f s).bus.parPos = s.bus.parPos :=
  ((keyClose_upto (Upto.refl 0x100000000 s) (Sub.refl _)).fabric rfl).2.2.2.2.2.2.1
@[simp] theorem keyClose_parAt (f : Nat) (s : State) :
    (keyClose f s).bus.parAt = s.bus.parAt :=
  ((keyClose_upto (Upto.refl 0x100000000 s) (Sub.refl _)).fabric rfl).2.2.2.2.2.2.2.1
@[simp] theorem keyClose_wroteNow (f : Nat) (s : State) :
    (keyClose f s).bus.wroteNow = s.bus.wroteNow :=
  ((keyClose_upto (Upto.refl 0x100000000 s) (Sub.refl _)).fabric rfl).2.2.2.2.2.2.2.2
@[simp] theorem keyClose_rck (f : Nat) (s : State) :
    (keyClose f s).rck = s.rck := (keyClose_upto (Upto.refl 0x100000000 s) (Sub.refl _)).rck rfl
@[simp] theorem keyClose_ptp (f : Nat) (s : State) :
    (keyClose f s).ptp = s.ptp := (keyClose_upto (Upto.refl 0x100000000 s) (Sub.refl _)).ptp rfl
@[simp] theorem keyClose_lane (f : Nat) (s : State) :
    (keyClose f s).lane = s.lane := (keyClose_upto (Upto.refl 0x100000000 s) (Sub.refl _)).lane rfl
@[simp] theorem keyClose_lfi (f : Nat) (s : State) :
    (keyClose f s).lfi = s.lfi := (keyClose_upto (Upto.refl 0x100000000 s) (Sub.refl _)).lfi rfl
@[simp] theorem keyClose_port (f : Nat) (s : State) :
    (keyClose f s).port = s.port := (keyClose_upto (Upto.refl 0x100000000 s) (Sub.refl _)).port rfl
@[simp] theorem keyClose_swt (f : Nat) (s : State) :
    (keyClose f s).swt = s.swt := (keyClose_upto (Upto.refl 0x100000000 s) (Sub.refl _)).swt rfl
@[simp] theorem keyClose_ndl (f : Nat) (s : State) :
    (keyClose f s).ndl = s.ndl := (keyClose_upto (Upto.refl 0x100000000 s) (Sub.refl _)).ndl rfl
@[simp] theorem keyClose_bank (f : Nat) (s : State) :
    (keyClose f s).bank = s.bank := (keyClose_upto (Upto.refl 0x100000000 s) (Sub.refl _)).bank rfl
@[simp] theorem keyClose_dist (f : Nat) (s : State) :
    (keyClose f s).dist = s.dist := (keyClose_upto (Upto.refl 0x100000000 s) (Sub.refl _)).dist rfl
@[simp] theorem keyClose_skn (f : Nat) (s : State) :
    (keyClose f s).skn = s.skn := (keyClose_upto (Upto.refl 0x100000000 s) (Sub.refl _)).skn rfl
@[simp] theorem keyClose_pat (f : Nat) (s : State) :
    (keyClose f s).pat = s.pat := (keyClose_upto (Upto.refl 0x100000000 s) (Sub.refl _)).pat rfl
@[simp] theorem keyClose_pl (f : Nat) (s : State) :
    (keyClose f s).pl = s.pl := (keyClose_upto (Upto.refl 0x100000000 s) (Sub.refl _)).pl rfl
@[simp] theorem keyClose_joint (f : Nat) (s : State) :
    (keyClose f s).joint = s.joint := (keyClose_upto (Upto.refl 0x100000000 s) (Sub.refl _)).joint rfl
@[simp] theorem keyClose_mem (f : Nat) (s : State) :
    (keyClose f s).mem = s.mem := (keyClose_upto (Upto.refl 0x100000000 s) (Sub.refl _)).memory rfl rfl rfl rfl
@[simp] theorem keyClose_stl (f : Nat) (s : State) :
    (keyClose f s).stl = s.stl := (keyClose_upto (Upto.refl 0x100000000 s) (Sub.refl _)).stl rfl
@[simp] theorem keyClose_eth (f : Nat) (s : State) :
    (keyClose f s).eth = s.eth := (keyClose_upto (Upto.refl 0x100000000 s) (Sub.refl _)).eth rfl
@[simp] theorem keyClose_ssw (f : Nat) (s : State) :
    (keyClose f s).ssw = s.ssw := (keyClose_upto (Upto.refl 0x100000000 s) (Sub.refl _)).ssw rfl
@[simp] theorem keyClose_ft (f : Nat) (s : State) :
    (keyClose f s).ft = s.ft := (keyClose_upto (Upto.refl 0x100000000 s) (Sub.refl _)).ft rfl
@[simp] theorem keyClose_arrivals (f : Nat) (s : State) :
    (keyClose f s).arrivals = s.arrivals := (keyClose_upto (Upto.refl 0x100000000 s) (Sub.refl _)).arrivals rfl
@[simp] theorem keyClose_ict (f : Nat) (s : State) :
    (keyClose f s).ict = s.ict := (keyClose_upto (Upto.refl 0x100000000 s) (Sub.refl _)).ict rfl
@[simp] theorem keyClose_mbx (f : Nat) (s : State) :
    (keyClose f s).mbx = s.mbx := (keyClose_upto (Upto.refl 0x100000000 s) (Sub.refl _)).mbx rfl
@[simp] theorem keyClose_sem (f : Nat) (s : State) :
    (keyClose f s).sem = s.sem := (keyClose_upto (Upto.refl 0x100000000 s) (Sub.refl _)).sem rfl
@[simp] theorem keyClose_pwr (f : Nat) (s : State) :
    (keyClose f s).pwr = s.pwr := (keyClose_upto (Upto.refl 0x100000000 s) (Sub.refl _)).pwr rfl
@[simp] theorem keyClose_fcl (f : Nat) (s : State) :
    (keyClose f s).fcl = s.fcl := (keyClose_upto (Upto.refl 0x100000000 s) (Sub.refl _)).fcl rfl
@[simp] theorem keyClose_ldg (f : Nat) (s : State) :
    (keyClose f s).ldg = s.ldg := (keyClose_upto (Upto.refl 0x100000000 s) (Sub.refl _)).ldg rfl
@[simp] theorem keyClose_tly (f : Nat) (s : State) :
    (keyClose f s).tly = s.tly := (keyClose_upto (Upto.refl 0x100000000 s) (Sub.refl _)).tly rfl
@[simp] theorem keyClose_sth (f : Nat) (s : State) :
    (keyClose f s).sth = s.sth := (keyClose_upto (Upto.refl 0x100000000 s) (Sub.refl _)).sth rfl
@[simp] theorem keyClose_sec (f : Nat) (s : State) :
    (keyClose f s).sec = s.sec := (keyClose_upto (Upto.refl 0x100000000 s) (Sub.refl _)).sec rfl
@[simp] theorem keyClose_mag (f : Nat) (s : State) :
    (keyClose f s).mag = s.mag := (keyClose_upto (Upto.refl 0x100000000 s) (Sub.refl _)).mag rfl
@[simp] theorem keyClose_magIn (f : Nat) (s : State) :
    (keyClose f s).magIn = s.magIn := (keyClose_upto (Upto.refl 0x100000000 s) (Sub.refl _)).magIn rfl
@[simp] theorem keyClose_prt (f : Nat) (s : State) :
    (keyClose f s).prt = s.prt := (keyClose_upto (Upto.refl 0x100000000 s) (Sub.refl _)).prt rfl

@[simp] theorem dropStage_pending (r : Reg) (req : Nat) (fr : Nat) (i : Nat) (s : State) :
    (dropStage r req fr i s).pending = s.pending := (dropStage_upto (Upto.refl 0x200000000 s) (Sub.refl _)).pending
@[simp] theorem dropStage_now (r : Reg) (req : Nat) (fr : Nat) (i : Nat) (s : State) :
    (dropStage r req fr i s).now = s.now := (dropStage_upto (Upto.refl 0x200000000 s) (Sub.refl _)).now
@[simp] theorem dropStage_free (r : Reg) (req : Nat) (fr : Nat) (i : Nat) (s : State) :
    (dropStage r req fr i s).free = s.free := (dropStage_upto (Upto.refl 0x200000000 s) (Sub.refl _)).free rfl
@[simp] theorem dropStage_keys (r : Reg) (req : Nat) (fr : Nat) (i : Nat) (s : State) :
    (dropStage r req fr i s).bus.keys = s.bus.keys := (dropStage_upto (Upto.refl 0x200000000 s) (Sub.refl _)).keys rfl
@[simp] theorem dropStage_rck (r : Reg) (req : Nat) (fr : Nat) (i : Nat) (s : State) :
    (dropStage r req fr i s).rck = s.rck := (dropStage_upto (Upto.refl 0x200000000 s) (Sub.refl _)).rck rfl
@[simp] theorem dropStage_ptp (r : Reg) (req : Nat) (fr : Nat) (i : Nat) (s : State) :
    (dropStage r req fr i s).ptp = s.ptp := (dropStage_upto (Upto.refl 0x200000000 s) (Sub.refl _)).ptp rfl
@[simp] theorem dropStage_lane (r : Reg) (req : Nat) (fr : Nat) (i : Nat) (s : State) :
    (dropStage r req fr i s).lane = s.lane := (dropStage_upto (Upto.refl 0x200000000 s) (Sub.refl _)).lane rfl
@[simp] theorem dropStage_lfi (r : Reg) (req : Nat) (fr : Nat) (i : Nat) (s : State) :
    (dropStage r req fr i s).lfi = s.lfi := (dropStage_upto (Upto.refl 0x200000000 s) (Sub.refl _)).lfi rfl
@[simp] theorem dropStage_port (r : Reg) (req : Nat) (fr : Nat) (i : Nat) (s : State) :
    (dropStage r req fr i s).port = s.port := (dropStage_upto (Upto.refl 0x200000000 s) (Sub.refl _)).port rfl
@[simp] theorem dropStage_swt (r : Reg) (req : Nat) (fr : Nat) (i : Nat) (s : State) :
    (dropStage r req fr i s).swt = s.swt := (dropStage_upto (Upto.refl 0x200000000 s) (Sub.refl _)).swt rfl
@[simp] theorem dropStage_ndl (r : Reg) (req : Nat) (fr : Nat) (i : Nat) (s : State) :
    (dropStage r req fr i s).ndl = s.ndl := (dropStage_upto (Upto.refl 0x200000000 s) (Sub.refl _)).ndl rfl
@[simp] theorem dropStage_bank (r : Reg) (req : Nat) (fr : Nat) (i : Nat) (s : State) :
    (dropStage r req fr i s).bank = s.bank := (dropStage_upto (Upto.refl 0x200000000 s) (Sub.refl _)).bank rfl
@[simp] theorem dropStage_dist (r : Reg) (req : Nat) (fr : Nat) (i : Nat) (s : State) :
    (dropStage r req fr i s).dist = s.dist := (dropStage_upto (Upto.refl 0x200000000 s) (Sub.refl _)).dist rfl
@[simp] theorem dropStage_skn (r : Reg) (req : Nat) (fr : Nat) (i : Nat) (s : State) :
    (dropStage r req fr i s).skn = s.skn := (dropStage_upto (Upto.refl 0x200000000 s) (Sub.refl _)).skn rfl
@[simp] theorem dropStage_pat (r : Reg) (req : Nat) (fr : Nat) (i : Nat) (s : State) :
    (dropStage r req fr i s).pat = s.pat := (dropStage_upto (Upto.refl 0x200000000 s) (Sub.refl _)).pat rfl
@[simp] theorem dropStage_pl (r : Reg) (req : Nat) (fr : Nat) (i : Nat) (s : State) :
    (dropStage r req fr i s).pl = s.pl := (dropStage_upto (Upto.refl 0x200000000 s) (Sub.refl _)).pl rfl
@[simp] theorem dropStage_joint (r : Reg) (req : Nat) (fr : Nat) (i : Nat) (s : State) :
    (dropStage r req fr i s).joint = s.joint := (dropStage_upto (Upto.refl 0x200000000 s) (Sub.refl _)).joint rfl
@[simp] theorem dropStage_mem (r : Reg) (req : Nat) (fr : Nat) (i : Nat) (s : State) :
    (dropStage r req fr i s).mem = s.mem := (dropStage_upto (Upto.refl 0x200000000 s) (Sub.refl _)).memory rfl rfl rfl rfl
@[simp] theorem dropStage_stl (r : Reg) (req : Nat) (fr : Nat) (i : Nat) (s : State) :
    (dropStage r req fr i s).stl = s.stl := (dropStage_upto (Upto.refl 0x200000000 s) (Sub.refl _)).stl rfl
@[simp] theorem dropStage_eth (r : Reg) (req : Nat) (fr : Nat) (i : Nat) (s : State) :
    (dropStage r req fr i s).eth = s.eth := (dropStage_upto (Upto.refl 0x200000000 s) (Sub.refl _)).eth rfl
@[simp] theorem dropStage_ssw (r : Reg) (req : Nat) (fr : Nat) (i : Nat) (s : State) :
    (dropStage r req fr i s).ssw = s.ssw := (dropStage_upto (Upto.refl 0x200000000 s) (Sub.refl _)).ssw rfl
@[simp] theorem dropStage_ft (r : Reg) (req : Nat) (fr : Nat) (i : Nat) (s : State) :
    (dropStage r req fr i s).ft = s.ft := (dropStage_upto (Upto.refl 0x200000000 s) (Sub.refl _)).ft rfl
@[simp] theorem dropStage_arrivals (r : Reg) (req : Nat) (fr : Nat) (i : Nat) (s : State) :
    (dropStage r req fr i s).arrivals = s.arrivals := (dropStage_upto (Upto.refl 0x200000000 s) (Sub.refl _)).arrivals rfl
@[simp] theorem dropStage_ict (r : Reg) (req : Nat) (fr : Nat) (i : Nat) (s : State) :
    (dropStage r req fr i s).ict = s.ict := (dropStage_upto (Upto.refl 0x200000000 s) (Sub.refl _)).ict rfl
@[simp] theorem dropStage_mbx (r : Reg) (req : Nat) (fr : Nat) (i : Nat) (s : State) :
    (dropStage r req fr i s).mbx = s.mbx := (dropStage_upto (Upto.refl 0x200000000 s) (Sub.refl _)).mbx rfl
@[simp] theorem dropStage_sem (r : Reg) (req : Nat) (fr : Nat) (i : Nat) (s : State) :
    (dropStage r req fr i s).sem = s.sem := (dropStage_upto (Upto.refl 0x200000000 s) (Sub.refl _)).sem rfl
@[simp] theorem dropStage_pwr (r : Reg) (req : Nat) (fr : Nat) (i : Nat) (s : State) :
    (dropStage r req fr i s).pwr = s.pwr := (dropStage_upto (Upto.refl 0x200000000 s) (Sub.refl _)).pwr rfl
@[simp] theorem dropStage_fcl (r : Reg) (req : Nat) (fr : Nat) (i : Nat) (s : State) :
    (dropStage r req fr i s).fcl = s.fcl := (dropStage_upto (Upto.refl 0x200000000 s) (Sub.refl _)).fcl rfl
@[simp] theorem dropStage_ldg (r : Reg) (req : Nat) (fr : Nat) (i : Nat) (s : State) :
    (dropStage r req fr i s).ldg = s.ldg := (dropStage_upto (Upto.refl 0x200000000 s) (Sub.refl _)).ldg rfl
@[simp] theorem dropStage_tly (r : Reg) (req : Nat) (fr : Nat) (i : Nat) (s : State) :
    (dropStage r req fr i s).tly = s.tly := (dropStage_upto (Upto.refl 0x200000000 s) (Sub.refl _)).tly rfl
@[simp] theorem dropStage_sth (r : Reg) (req : Nat) (fr : Nat) (i : Nat) (s : State) :
    (dropStage r req fr i s).sth = s.sth := (dropStage_upto (Upto.refl 0x200000000 s) (Sub.refl _)).sth rfl
@[simp] theorem dropStage_sec (r : Reg) (req : Nat) (fr : Nat) (i : Nat) (s : State) :
    (dropStage r req fr i s).sec = s.sec := (dropStage_upto (Upto.refl 0x200000000 s) (Sub.refl _)).sec rfl
@[simp] theorem dropStage_mag (r : Reg) (req : Nat) (fr : Nat) (i : Nat) (s : State) :
    (dropStage r req fr i s).mag = s.mag := (dropStage_upto (Upto.refl 0x200000000 s) (Sub.refl _)).mag rfl
@[simp] theorem dropStage_magIn (r : Reg) (req : Nat) (fr : Nat) (i : Nat) (s : State) :
    (dropStage r req fr i s).magIn = s.magIn := (dropStage_upto (Upto.refl 0x200000000 s) (Sub.refl _)).magIn rfl
@[simp] theorem dropStage_prt (r : Reg) (req : Nat) (fr : Nat) (i : Nat) (s : State) :
    (dropStage r req fr i s).prt = s.prt := (dropStage_upto (Upto.refl 0x200000000 s) (Sub.refl _)).prt rfl

@[simp] theorem stageWord_pending (r : Reg) (fr : Nat) (i : Nat) (w : Nat) (a : Acc) (s : State) :
    (stageWord r fr i w a s).pending = s.pending := (stageWord_upto (Upto.refl 0x200000000 s) (Sub.refl _)).pending
@[simp] theorem stageWord_now (r : Reg) (fr : Nat) (i : Nat) (w : Nat) (a : Acc) (s : State) :
    (stageWord r fr i w a s).now = s.now := (stageWord_upto (Upto.refl 0x200000000 s) (Sub.refl _)).now
@[simp] theorem stageWord_free (r : Reg) (fr : Nat) (i : Nat) (w : Nat) (a : Acc) (s : State) :
    (stageWord r fr i w a s).free = s.free := (stageWord_upto (Upto.refl 0x200000000 s) (Sub.refl _)).free rfl
@[simp] theorem stageWord_keys (r : Reg) (fr : Nat) (i : Nat) (w : Nat) (a : Acc) (s : State) :
    (stageWord r fr i w a s).bus.keys = s.bus.keys := (stageWord_upto (Upto.refl 0x200000000 s) (Sub.refl _)).keys rfl
@[simp] theorem stageWord_rck (r : Reg) (fr : Nat) (i : Nat) (w : Nat) (a : Acc) (s : State) :
    (stageWord r fr i w a s).rck = s.rck := (stageWord_upto (Upto.refl 0x200000000 s) (Sub.refl _)).rck rfl
@[simp] theorem stageWord_ptp (r : Reg) (fr : Nat) (i : Nat) (w : Nat) (a : Acc) (s : State) :
    (stageWord r fr i w a s).ptp = s.ptp := (stageWord_upto (Upto.refl 0x200000000 s) (Sub.refl _)).ptp rfl
@[simp] theorem stageWord_lane (r : Reg) (fr : Nat) (i : Nat) (w : Nat) (a : Acc) (s : State) :
    (stageWord r fr i w a s).lane = s.lane := (stageWord_upto (Upto.refl 0x200000000 s) (Sub.refl _)).lane rfl
@[simp] theorem stageWord_lfi (r : Reg) (fr : Nat) (i : Nat) (w : Nat) (a : Acc) (s : State) :
    (stageWord r fr i w a s).lfi = s.lfi := (stageWord_upto (Upto.refl 0x200000000 s) (Sub.refl _)).lfi rfl
@[simp] theorem stageWord_port (r : Reg) (fr : Nat) (i : Nat) (w : Nat) (a : Acc) (s : State) :
    (stageWord r fr i w a s).port = s.port := (stageWord_upto (Upto.refl 0x200000000 s) (Sub.refl _)).port rfl
@[simp] theorem stageWord_swt (r : Reg) (fr : Nat) (i : Nat) (w : Nat) (a : Acc) (s : State) :
    (stageWord r fr i w a s).swt = s.swt := (stageWord_upto (Upto.refl 0x200000000 s) (Sub.refl _)).swt rfl
@[simp] theorem stageWord_ndl (r : Reg) (fr : Nat) (i : Nat) (w : Nat) (a : Acc) (s : State) :
    (stageWord r fr i w a s).ndl = s.ndl := (stageWord_upto (Upto.refl 0x200000000 s) (Sub.refl _)).ndl rfl
@[simp] theorem stageWord_bank (r : Reg) (fr : Nat) (i : Nat) (w : Nat) (a : Acc) (s : State) :
    (stageWord r fr i w a s).bank = s.bank := (stageWord_upto (Upto.refl 0x200000000 s) (Sub.refl _)).bank rfl
@[simp] theorem stageWord_dist (r : Reg) (fr : Nat) (i : Nat) (w : Nat) (a : Acc) (s : State) :
    (stageWord r fr i w a s).dist = s.dist := (stageWord_upto (Upto.refl 0x200000000 s) (Sub.refl _)).dist rfl
@[simp] theorem stageWord_skn (r : Reg) (fr : Nat) (i : Nat) (w : Nat) (a : Acc) (s : State) :
    (stageWord r fr i w a s).skn = s.skn := (stageWord_upto (Upto.refl 0x200000000 s) (Sub.refl _)).skn rfl
@[simp] theorem stageWord_pat (r : Reg) (fr : Nat) (i : Nat) (w : Nat) (a : Acc) (s : State) :
    (stageWord r fr i w a s).pat = s.pat := (stageWord_upto (Upto.refl 0x200000000 s) (Sub.refl _)).pat rfl
@[simp] theorem stageWord_pl (r : Reg) (fr : Nat) (i : Nat) (w : Nat) (a : Acc) (s : State) :
    (stageWord r fr i w a s).pl = s.pl := (stageWord_upto (Upto.refl 0x200000000 s) (Sub.refl _)).pl rfl
@[simp] theorem stageWord_joint (r : Reg) (fr : Nat) (i : Nat) (w : Nat) (a : Acc) (s : State) :
    (stageWord r fr i w a s).joint = s.joint := (stageWord_upto (Upto.refl 0x200000000 s) (Sub.refl _)).joint rfl
@[simp] theorem stageWord_mem (r : Reg) (fr : Nat) (i : Nat) (w : Nat) (a : Acc) (s : State) :
    (stageWord r fr i w a s).mem = s.mem := (stageWord_upto (Upto.refl 0x200000000 s) (Sub.refl _)).memory rfl rfl rfl rfl
@[simp] theorem stageWord_stl (r : Reg) (fr : Nat) (i : Nat) (w : Nat) (a : Acc) (s : State) :
    (stageWord r fr i w a s).stl = s.stl := (stageWord_upto (Upto.refl 0x200000000 s) (Sub.refl _)).stl rfl
@[simp] theorem stageWord_eth (r : Reg) (fr : Nat) (i : Nat) (w : Nat) (a : Acc) (s : State) :
    (stageWord r fr i w a s).eth = s.eth := (stageWord_upto (Upto.refl 0x200000000 s) (Sub.refl _)).eth rfl
@[simp] theorem stageWord_ssw (r : Reg) (fr : Nat) (i : Nat) (w : Nat) (a : Acc) (s : State) :
    (stageWord r fr i w a s).ssw = s.ssw := (stageWord_upto (Upto.refl 0x200000000 s) (Sub.refl _)).ssw rfl
@[simp] theorem stageWord_ft (r : Reg) (fr : Nat) (i : Nat) (w : Nat) (a : Acc) (s : State) :
    (stageWord r fr i w a s).ft = s.ft := (stageWord_upto (Upto.refl 0x200000000 s) (Sub.refl _)).ft rfl
@[simp] theorem stageWord_arrivals (r : Reg) (fr : Nat) (i : Nat) (w : Nat) (a : Acc) (s : State) :
    (stageWord r fr i w a s).arrivals = s.arrivals := (stageWord_upto (Upto.refl 0x200000000 s) (Sub.refl _)).arrivals rfl
@[simp] theorem stageWord_ict (r : Reg) (fr : Nat) (i : Nat) (w : Nat) (a : Acc) (s : State) :
    (stageWord r fr i w a s).ict = s.ict := (stageWord_upto (Upto.refl 0x200000000 s) (Sub.refl _)).ict rfl
@[simp] theorem stageWord_mbx (r : Reg) (fr : Nat) (i : Nat) (w : Nat) (a : Acc) (s : State) :
    (stageWord r fr i w a s).mbx = s.mbx := (stageWord_upto (Upto.refl 0x200000000 s) (Sub.refl _)).mbx rfl
@[simp] theorem stageWord_sem (r : Reg) (fr : Nat) (i : Nat) (w : Nat) (a : Acc) (s : State) :
    (stageWord r fr i w a s).sem = s.sem := (stageWord_upto (Upto.refl 0x200000000 s) (Sub.refl _)).sem rfl
@[simp] theorem stageWord_pwr (r : Reg) (fr : Nat) (i : Nat) (w : Nat) (a : Acc) (s : State) :
    (stageWord r fr i w a s).pwr = s.pwr := (stageWord_upto (Upto.refl 0x200000000 s) (Sub.refl _)).pwr rfl
@[simp] theorem stageWord_fcl (r : Reg) (fr : Nat) (i : Nat) (w : Nat) (a : Acc) (s : State) :
    (stageWord r fr i w a s).fcl = s.fcl := (stageWord_upto (Upto.refl 0x200000000 s) (Sub.refl _)).fcl rfl
@[simp] theorem stageWord_ldg (r : Reg) (fr : Nat) (i : Nat) (w : Nat) (a : Acc) (s : State) :
    (stageWord r fr i w a s).ldg = s.ldg := (stageWord_upto (Upto.refl 0x200000000 s) (Sub.refl _)).ldg rfl
@[simp] theorem stageWord_tly (r : Reg) (fr : Nat) (i : Nat) (w : Nat) (a : Acc) (s : State) :
    (stageWord r fr i w a s).tly = s.tly := (stageWord_upto (Upto.refl 0x200000000 s) (Sub.refl _)).tly rfl
@[simp] theorem stageWord_sth (r : Reg) (fr : Nat) (i : Nat) (w : Nat) (a : Acc) (s : State) :
    (stageWord r fr i w a s).sth = s.sth := (stageWord_upto (Upto.refl 0x200000000 s) (Sub.refl _)).sth rfl
@[simp] theorem stageWord_sec (r : Reg) (fr : Nat) (i : Nat) (w : Nat) (a : Acc) (s : State) :
    (stageWord r fr i w a s).sec = s.sec := (stageWord_upto (Upto.refl 0x200000000 s) (Sub.refl _)).sec rfl
@[simp] theorem stageWord_mag (r : Reg) (fr : Nat) (i : Nat) (w : Nat) (a : Acc) (s : State) :
    (stageWord r fr i w a s).mag = s.mag := (stageWord_upto (Upto.refl 0x200000000 s) (Sub.refl _)).mag rfl
@[simp] theorem stageWord_magIn (r : Reg) (fr : Nat) (i : Nat) (w : Nat) (a : Acc) (s : State) :
    (stageWord r fr i w a s).magIn = s.magIn := (stageWord_upto (Upto.refl 0x200000000 s) (Sub.refl _)).magIn rfl
@[simp] theorem stageWord_prt (r : Reg) (fr : Nat) (i : Nat) (w : Nat) (a : Acc) (s : State) :
    (stageWord r fr i w a s).prt = s.prt := (stageWord_upto (Upto.refl 0x200000000 s) (Sub.refl _)).prt rfl

@[simp] theorem parityWritten_pending (r : Reg) (req : Nat) (fr : Nat) (i : Nat) (s : State) :
    (parityWritten r req fr i s).pending = s.pending := (parityWritten_upto (Upto.refl 0x200000000 s) (Sub.refl _)).pending
@[simp] theorem parityWritten_now (r : Reg) (req : Nat) (fr : Nat) (i : Nat) (s : State) :
    (parityWritten r req fr i s).now = s.now := (parityWritten_upto (Upto.refl 0x200000000 s) (Sub.refl _)).now
@[simp] theorem parityWritten_free (r : Reg) (req : Nat) (fr : Nat) (i : Nat) (s : State) :
    (parityWritten r req fr i s).free = s.free := (parityWritten_upto (Upto.refl 0x200000000 s) (Sub.refl _)).free rfl
@[simp] theorem parityWritten_keys (r : Reg) (req : Nat) (fr : Nat) (i : Nat) (s : State) :
    (parityWritten r req fr i s).bus.keys = s.bus.keys := (parityWritten_upto (Upto.refl 0x200000000 s) (Sub.refl _)).keys rfl
@[simp] theorem parityWritten_rck (r : Reg) (req : Nat) (fr : Nat) (i : Nat) (s : State) :
    (parityWritten r req fr i s).rck = s.rck := (parityWritten_upto (Upto.refl 0x200000000 s) (Sub.refl _)).rck rfl
@[simp] theorem parityWritten_ptp (r : Reg) (req : Nat) (fr : Nat) (i : Nat) (s : State) :
    (parityWritten r req fr i s).ptp = s.ptp := (parityWritten_upto (Upto.refl 0x200000000 s) (Sub.refl _)).ptp rfl
@[simp] theorem parityWritten_lane (r : Reg) (req : Nat) (fr : Nat) (i : Nat) (s : State) :
    (parityWritten r req fr i s).lane = s.lane := (parityWritten_upto (Upto.refl 0x200000000 s) (Sub.refl _)).lane rfl
@[simp] theorem parityWritten_lfi (r : Reg) (req : Nat) (fr : Nat) (i : Nat) (s : State) :
    (parityWritten r req fr i s).lfi = s.lfi := (parityWritten_upto (Upto.refl 0x200000000 s) (Sub.refl _)).lfi rfl
@[simp] theorem parityWritten_port (r : Reg) (req : Nat) (fr : Nat) (i : Nat) (s : State) :
    (parityWritten r req fr i s).port = s.port := (parityWritten_upto (Upto.refl 0x200000000 s) (Sub.refl _)).port rfl
@[simp] theorem parityWritten_swt (r : Reg) (req : Nat) (fr : Nat) (i : Nat) (s : State) :
    (parityWritten r req fr i s).swt = s.swt := (parityWritten_upto (Upto.refl 0x200000000 s) (Sub.refl _)).swt rfl
@[simp] theorem parityWritten_ndl (r : Reg) (req : Nat) (fr : Nat) (i : Nat) (s : State) :
    (parityWritten r req fr i s).ndl = s.ndl := (parityWritten_upto (Upto.refl 0x200000000 s) (Sub.refl _)).ndl rfl
@[simp] theorem parityWritten_bank (r : Reg) (req : Nat) (fr : Nat) (i : Nat) (s : State) :
    (parityWritten r req fr i s).bank = s.bank := (parityWritten_upto (Upto.refl 0x200000000 s) (Sub.refl _)).bank rfl
@[simp] theorem parityWritten_dist (r : Reg) (req : Nat) (fr : Nat) (i : Nat) (s : State) :
    (parityWritten r req fr i s).dist = s.dist := (parityWritten_upto (Upto.refl 0x200000000 s) (Sub.refl _)).dist rfl
@[simp] theorem parityWritten_skn (r : Reg) (req : Nat) (fr : Nat) (i : Nat) (s : State) :
    (parityWritten r req fr i s).skn = s.skn := (parityWritten_upto (Upto.refl 0x200000000 s) (Sub.refl _)).skn rfl
@[simp] theorem parityWritten_pat (r : Reg) (req : Nat) (fr : Nat) (i : Nat) (s : State) :
    (parityWritten r req fr i s).pat = s.pat := (parityWritten_upto (Upto.refl 0x200000000 s) (Sub.refl _)).pat rfl
@[simp] theorem parityWritten_pl (r : Reg) (req : Nat) (fr : Nat) (i : Nat) (s : State) :
    (parityWritten r req fr i s).pl = s.pl := (parityWritten_upto (Upto.refl 0x200000000 s) (Sub.refl _)).pl rfl
@[simp] theorem parityWritten_joint (r : Reg) (req : Nat) (fr : Nat) (i : Nat) (s : State) :
    (parityWritten r req fr i s).joint = s.joint := (parityWritten_upto (Upto.refl 0x200000000 s) (Sub.refl _)).joint rfl
@[simp] theorem parityWritten_mem (r : Reg) (req : Nat) (fr : Nat) (i : Nat) (s : State) :
    (parityWritten r req fr i s).mem = s.mem := (parityWritten_upto (Upto.refl 0x200000000 s) (Sub.refl _)).memory rfl rfl rfl rfl
@[simp] theorem parityWritten_stl (r : Reg) (req : Nat) (fr : Nat) (i : Nat) (s : State) :
    (parityWritten r req fr i s).stl = s.stl := (parityWritten_upto (Upto.refl 0x200000000 s) (Sub.refl _)).stl rfl
@[simp] theorem parityWritten_eth (r : Reg) (req : Nat) (fr : Nat) (i : Nat) (s : State) :
    (parityWritten r req fr i s).eth = s.eth := (parityWritten_upto (Upto.refl 0x200000000 s) (Sub.refl _)).eth rfl
@[simp] theorem parityWritten_ssw (r : Reg) (req : Nat) (fr : Nat) (i : Nat) (s : State) :
    (parityWritten r req fr i s).ssw = s.ssw := (parityWritten_upto (Upto.refl 0x200000000 s) (Sub.refl _)).ssw rfl
@[simp] theorem parityWritten_ft (r : Reg) (req : Nat) (fr : Nat) (i : Nat) (s : State) :
    (parityWritten r req fr i s).ft = s.ft := (parityWritten_upto (Upto.refl 0x200000000 s) (Sub.refl _)).ft rfl
@[simp] theorem parityWritten_arrivals (r : Reg) (req : Nat) (fr : Nat) (i : Nat) (s : State) :
    (parityWritten r req fr i s).arrivals = s.arrivals := (parityWritten_upto (Upto.refl 0x200000000 s) (Sub.refl _)).arrivals rfl
@[simp] theorem parityWritten_ict (r : Reg) (req : Nat) (fr : Nat) (i : Nat) (s : State) :
    (parityWritten r req fr i s).ict = s.ict := (parityWritten_upto (Upto.refl 0x200000000 s) (Sub.refl _)).ict rfl
@[simp] theorem parityWritten_mbx (r : Reg) (req : Nat) (fr : Nat) (i : Nat) (s : State) :
    (parityWritten r req fr i s).mbx = s.mbx := (parityWritten_upto (Upto.refl 0x200000000 s) (Sub.refl _)).mbx rfl
@[simp] theorem parityWritten_sem (r : Reg) (req : Nat) (fr : Nat) (i : Nat) (s : State) :
    (parityWritten r req fr i s).sem = s.sem := (parityWritten_upto (Upto.refl 0x200000000 s) (Sub.refl _)).sem rfl
@[simp] theorem parityWritten_pwr (r : Reg) (req : Nat) (fr : Nat) (i : Nat) (s : State) :
    (parityWritten r req fr i s).pwr = s.pwr := (parityWritten_upto (Upto.refl 0x200000000 s) (Sub.refl _)).pwr rfl
@[simp] theorem parityWritten_fcl (r : Reg) (req : Nat) (fr : Nat) (i : Nat) (s : State) :
    (parityWritten r req fr i s).fcl = s.fcl := (parityWritten_upto (Upto.refl 0x200000000 s) (Sub.refl _)).fcl rfl
@[simp] theorem parityWritten_ldg (r : Reg) (req : Nat) (fr : Nat) (i : Nat) (s : State) :
    (parityWritten r req fr i s).ldg = s.ldg := (parityWritten_upto (Upto.refl 0x200000000 s) (Sub.refl _)).ldg rfl
@[simp] theorem parityWritten_tly (r : Reg) (req : Nat) (fr : Nat) (i : Nat) (s : State) :
    (parityWritten r req fr i s).tly = s.tly := (parityWritten_upto (Upto.refl 0x200000000 s) (Sub.refl _)).tly rfl
@[simp] theorem parityWritten_sth (r : Reg) (req : Nat) (fr : Nat) (i : Nat) (s : State) :
    (parityWritten r req fr i s).sth = s.sth := (parityWritten_upto (Upto.refl 0x200000000 s) (Sub.refl _)).sth rfl
@[simp] theorem parityWritten_sec (r : Reg) (req : Nat) (fr : Nat) (i : Nat) (s : State) :
    (parityWritten r req fr i s).sec = s.sec := (parityWritten_upto (Upto.refl 0x200000000 s) (Sub.refl _)).sec rfl
@[simp] theorem parityWritten_mag (r : Reg) (req : Nat) (fr : Nat) (i : Nat) (s : State) :
    (parityWritten r req fr i s).mag = s.mag := (parityWritten_upto (Upto.refl 0x200000000 s) (Sub.refl _)).mag rfl
@[simp] theorem parityWritten_magIn (r : Reg) (req : Nat) (fr : Nat) (i : Nat) (s : State) :
    (parityWritten r req fr i s).magIn = s.magIn := (parityWritten_upto (Upto.refl 0x200000000 s) (Sub.refl _)).magIn rfl
@[simp] theorem parityWritten_prt (r : Reg) (req : Nat) (fr : Nat) (i : Nat) (s : State) :
    (parityWritten r req fr i s).prt = s.prt := (parityWritten_upto (Upto.refl 0x200000000 s) (Sub.refl _)).prt rfl

@[simp] theorem latchWords_pending (r : Reg) (req : Nat) (fr : Nat) (i : Nat) (ws : List Nat) (s : State) :
    (latchWords r req fr i ws s).pending = s.pending := (latchWords_upto (Upto.refl 0x200000000 s) (Sub.refl _)).pending
@[simp] theorem latchWords_now (r : Reg) (req : Nat) (fr : Nat) (i : Nat) (ws : List Nat) (s : State) :
    (latchWords r req fr i ws s).now = s.now := (latchWords_upto (Upto.refl 0x200000000 s) (Sub.refl _)).now
@[simp] theorem latchWords_free (r : Reg) (req : Nat) (fr : Nat) (i : Nat) (ws : List Nat) (s : State) :
    (latchWords r req fr i ws s).free = s.free := (latchWords_upto (Upto.refl 0x200000000 s) (Sub.refl _)).free rfl
@[simp] theorem latchWords_keys (r : Reg) (req : Nat) (fr : Nat) (i : Nat) (ws : List Nat) (s : State) :
    (latchWords r req fr i ws s).bus.keys = s.bus.keys := (latchWords_upto (Upto.refl 0x200000000 s) (Sub.refl _)).keys rfl
@[simp] theorem latchWords_rck (r : Reg) (req : Nat) (fr : Nat) (i : Nat) (ws : List Nat) (s : State) :
    (latchWords r req fr i ws s).rck = s.rck := (latchWords_upto (Upto.refl 0x200000000 s) (Sub.refl _)).rck rfl
@[simp] theorem latchWords_ptp (r : Reg) (req : Nat) (fr : Nat) (i : Nat) (ws : List Nat) (s : State) :
    (latchWords r req fr i ws s).ptp = s.ptp := (latchWords_upto (Upto.refl 0x200000000 s) (Sub.refl _)).ptp rfl
@[simp] theorem latchWords_lane (r : Reg) (req : Nat) (fr : Nat) (i : Nat) (ws : List Nat) (s : State) :
    (latchWords r req fr i ws s).lane = s.lane := (latchWords_upto (Upto.refl 0x200000000 s) (Sub.refl _)).lane rfl
@[simp] theorem latchWords_lfi (r : Reg) (req : Nat) (fr : Nat) (i : Nat) (ws : List Nat) (s : State) :
    (latchWords r req fr i ws s).lfi = s.lfi := (latchWords_upto (Upto.refl 0x200000000 s) (Sub.refl _)).lfi rfl
@[simp] theorem latchWords_port (r : Reg) (req : Nat) (fr : Nat) (i : Nat) (ws : List Nat) (s : State) :
    (latchWords r req fr i ws s).port = s.port := (latchWords_upto (Upto.refl 0x200000000 s) (Sub.refl _)).port rfl
@[simp] theorem latchWords_swt (r : Reg) (req : Nat) (fr : Nat) (i : Nat) (ws : List Nat) (s : State) :
    (latchWords r req fr i ws s).swt = s.swt := (latchWords_upto (Upto.refl 0x200000000 s) (Sub.refl _)).swt rfl
@[simp] theorem latchWords_ndl (r : Reg) (req : Nat) (fr : Nat) (i : Nat) (ws : List Nat) (s : State) :
    (latchWords r req fr i ws s).ndl = s.ndl := (latchWords_upto (Upto.refl 0x200000000 s) (Sub.refl _)).ndl rfl
@[simp] theorem latchWords_bank (r : Reg) (req : Nat) (fr : Nat) (i : Nat) (ws : List Nat) (s : State) :
    (latchWords r req fr i ws s).bank = s.bank := (latchWords_upto (Upto.refl 0x200000000 s) (Sub.refl _)).bank rfl
@[simp] theorem latchWords_dist (r : Reg) (req : Nat) (fr : Nat) (i : Nat) (ws : List Nat) (s : State) :
    (latchWords r req fr i ws s).dist = s.dist := (latchWords_upto (Upto.refl 0x200000000 s) (Sub.refl _)).dist rfl
@[simp] theorem latchWords_skn (r : Reg) (req : Nat) (fr : Nat) (i : Nat) (ws : List Nat) (s : State) :
    (latchWords r req fr i ws s).skn = s.skn := (latchWords_upto (Upto.refl 0x200000000 s) (Sub.refl _)).skn rfl
@[simp] theorem latchWords_pat (r : Reg) (req : Nat) (fr : Nat) (i : Nat) (ws : List Nat) (s : State) :
    (latchWords r req fr i ws s).pat = s.pat := (latchWords_upto (Upto.refl 0x200000000 s) (Sub.refl _)).pat rfl
@[simp] theorem latchWords_pl (r : Reg) (req : Nat) (fr : Nat) (i : Nat) (ws : List Nat) (s : State) :
    (latchWords r req fr i ws s).pl = s.pl := (latchWords_upto (Upto.refl 0x200000000 s) (Sub.refl _)).pl rfl
@[simp] theorem latchWords_joint (r : Reg) (req : Nat) (fr : Nat) (i : Nat) (ws : List Nat) (s : State) :
    (latchWords r req fr i ws s).joint = s.joint := (latchWords_upto (Upto.refl 0x200000000 s) (Sub.refl _)).joint rfl
@[simp] theorem latchWords_mem (r : Reg) (req : Nat) (fr : Nat) (i : Nat) (ws : List Nat) (s : State) :
    (latchWords r req fr i ws s).mem = s.mem := (latchWords_upto (Upto.refl 0x200000000 s) (Sub.refl _)).memory rfl rfl rfl rfl
@[simp] theorem latchWords_stl (r : Reg) (req : Nat) (fr : Nat) (i : Nat) (ws : List Nat) (s : State) :
    (latchWords r req fr i ws s).stl = s.stl := (latchWords_upto (Upto.refl 0x200000000 s) (Sub.refl _)).stl rfl
@[simp] theorem latchWords_eth (r : Reg) (req : Nat) (fr : Nat) (i : Nat) (ws : List Nat) (s : State) :
    (latchWords r req fr i ws s).eth = s.eth := (latchWords_upto (Upto.refl 0x200000000 s) (Sub.refl _)).eth rfl
@[simp] theorem latchWords_ssw (r : Reg) (req : Nat) (fr : Nat) (i : Nat) (ws : List Nat) (s : State) :
    (latchWords r req fr i ws s).ssw = s.ssw := (latchWords_upto (Upto.refl 0x200000000 s) (Sub.refl _)).ssw rfl
@[simp] theorem latchWords_ft (r : Reg) (req : Nat) (fr : Nat) (i : Nat) (ws : List Nat) (s : State) :
    (latchWords r req fr i ws s).ft = s.ft := (latchWords_upto (Upto.refl 0x200000000 s) (Sub.refl _)).ft rfl
@[simp] theorem latchWords_arrivals (r : Reg) (req : Nat) (fr : Nat) (i : Nat) (ws : List Nat) (s : State) :
    (latchWords r req fr i ws s).arrivals = s.arrivals := (latchWords_upto (Upto.refl 0x200000000 s) (Sub.refl _)).arrivals rfl
@[simp] theorem latchWords_ict (r : Reg) (req : Nat) (fr : Nat) (i : Nat) (ws : List Nat) (s : State) :
    (latchWords r req fr i ws s).ict = s.ict := (latchWords_upto (Upto.refl 0x200000000 s) (Sub.refl _)).ict rfl
@[simp] theorem latchWords_mbx (r : Reg) (req : Nat) (fr : Nat) (i : Nat) (ws : List Nat) (s : State) :
    (latchWords r req fr i ws s).mbx = s.mbx := (latchWords_upto (Upto.refl 0x200000000 s) (Sub.refl _)).mbx rfl
@[simp] theorem latchWords_sem (r : Reg) (req : Nat) (fr : Nat) (i : Nat) (ws : List Nat) (s : State) :
    (latchWords r req fr i ws s).sem = s.sem := (latchWords_upto (Upto.refl 0x200000000 s) (Sub.refl _)).sem rfl
@[simp] theorem latchWords_pwr (r : Reg) (req : Nat) (fr : Nat) (i : Nat) (ws : List Nat) (s : State) :
    (latchWords r req fr i ws s).pwr = s.pwr := (latchWords_upto (Upto.refl 0x200000000 s) (Sub.refl _)).pwr rfl
@[simp] theorem latchWords_fcl (r : Reg) (req : Nat) (fr : Nat) (i : Nat) (ws : List Nat) (s : State) :
    (latchWords r req fr i ws s).fcl = s.fcl := (latchWords_upto (Upto.refl 0x200000000 s) (Sub.refl _)).fcl rfl
@[simp] theorem latchWords_ldg (r : Reg) (req : Nat) (fr : Nat) (i : Nat) (ws : List Nat) (s : State) :
    (latchWords r req fr i ws s).ldg = s.ldg := (latchWords_upto (Upto.refl 0x200000000 s) (Sub.refl _)).ldg rfl
@[simp] theorem latchWords_tly (r : Reg) (req : Nat) (fr : Nat) (i : Nat) (ws : List Nat) (s : State) :
    (latchWords r req fr i ws s).tly = s.tly := (latchWords_upto (Upto.refl 0x200000000 s) (Sub.refl _)).tly rfl
@[simp] theorem latchWords_sth (r : Reg) (req : Nat) (fr : Nat) (i : Nat) (ws : List Nat) (s : State) :
    (latchWords r req fr i ws s).sth = s.sth := (latchWords_upto (Upto.refl 0x200000000 s) (Sub.refl _)).sth rfl
@[simp] theorem latchWords_sec (r : Reg) (req : Nat) (fr : Nat) (i : Nat) (ws : List Nat) (s : State) :
    (latchWords r req fr i ws s).sec = s.sec := (latchWords_upto (Upto.refl 0x200000000 s) (Sub.refl _)).sec rfl
@[simp] theorem latchWords_mag (r : Reg) (req : Nat) (fr : Nat) (i : Nat) (ws : List Nat) (s : State) :
    (latchWords r req fr i ws s).mag = s.mag := (latchWords_upto (Upto.refl 0x200000000 s) (Sub.refl _)).mag rfl
@[simp] theorem latchWords_magIn (r : Reg) (req : Nat) (fr : Nat) (i : Nat) (ws : List Nat) (s : State) :
    (latchWords r req fr i ws s).magIn = s.magIn := (latchWords_upto (Upto.refl 0x200000000 s) (Sub.refl _)).magIn rfl
@[simp] theorem latchWords_prt (r : Reg) (req : Nat) (fr : Nat) (i : Nat) (ws : List Nat) (s : State) :
    (latchWords r req fr i ws s).prt = s.prt := (latchWords_upto (Upto.refl 0x200000000 s) (Sub.refl _)).prt rfl

@[simp] theorem isolate_pending (d : Nat) (s : State) :
    (isolate d s).pending = s.pending := (isolate_upto (Upto.refl 0x80400000 s) (Sub.refl _)).pending
@[simp] theorem isolate_now (d : Nat) (s : State) :
    (isolate d s).now = s.now := (isolate_upto (Upto.refl 0x80400000 s) (Sub.refl _)).now
@[simp] theorem isolate_free (d : Nat) (s : State) :
    (isolate d s).free = s.free := (isolate_upto (Upto.refl 0x80400000 s) (Sub.refl _)).free rfl
@[simp] theorem isolate_keys (d : Nat) (s : State) :
    (isolate d s).bus.keys = s.bus.keys := (isolate_upto (Upto.refl 0x80400000 s) (Sub.refl _)).keys rfl
@[simp] theorem isolate_staged (d : Nat) (s : State) :
    (isolate d s).bus.staged = s.bus.staged :=
  ((isolate_upto (Upto.refl 0x80400000 s) (Sub.refl _)).fabric rfl).1
@[simp] theorem isolate_latched (d : Nat) (s : State) :
    (isolate d s).bus.latched = s.bus.latched :=
  ((isolate_upto (Upto.refl 0x80400000 s) (Sub.refl _)).fabric rfl).2.1
@[simp] theorem isolate_rrPtr (d : Nat) (s : State) :
    (isolate d s).bus.rrPtr = s.bus.rrPtr :=
  ((isolate_upto (Upto.refl 0x80400000 s) (Sub.refl _)).fabric rfl).2.2.1
@[simp] theorem isolate_parBad (d : Nat) (s : State) :
    (isolate d s).bus.parBad = s.bus.parBad :=
  ((isolate_upto (Upto.refl 0x80400000 s) (Sub.refl _)).fabric rfl).2.2.2.1
@[simp] theorem isolate_parReported (d : Nat) (s : State) :
    (isolate d s).bus.parReported = s.bus.parReported :=
  ((isolate_upto (Upto.refl 0x80400000 s) (Sub.refl _)).fabric rfl).2.2.2.2.1
@[simp] theorem isolate_answers (d : Nat) (s : State) :
    (isolate d s).bus.answers = s.bus.answers :=
  ((isolate_upto (Upto.refl 0x80400000 s) (Sub.refl _)).fabric rfl).2.2.2.2.2.1
@[simp] theorem isolate_parPos (d : Nat) (s : State) :
    (isolate d s).bus.parPos = s.bus.parPos :=
  ((isolate_upto (Upto.refl 0x80400000 s) (Sub.refl _)).fabric rfl).2.2.2.2.2.2.1
@[simp] theorem isolate_parAt (d : Nat) (s : State) :
    (isolate d s).bus.parAt = s.bus.parAt :=
  ((isolate_upto (Upto.refl 0x80400000 s) (Sub.refl _)).fabric rfl).2.2.2.2.2.2.2.1
@[simp] theorem isolate_wroteNow (d : Nat) (s : State) :
    (isolate d s).bus.wroteNow = s.bus.wroteNow :=
  ((isolate_upto (Upto.refl 0x80400000 s) (Sub.refl _)).fabric rfl).2.2.2.2.2.2.2.2
@[simp] theorem isolate_rck (d : Nat) (s : State) :
    (isolate d s).rck = s.rck := (isolate_upto (Upto.refl 0x80400000 s) (Sub.refl _)).rck rfl
@[simp] theorem isolate_ptp (d : Nat) (s : State) :
    (isolate d s).ptp = s.ptp := (isolate_upto (Upto.refl 0x80400000 s) (Sub.refl _)).ptp rfl
@[simp] theorem isolate_lane (d : Nat) (s : State) :
    (isolate d s).lane = s.lane := (isolate_upto (Upto.refl 0x80400000 s) (Sub.refl _)).lane rfl
@[simp] theorem isolate_lfi (d : Nat) (s : State) :
    (isolate d s).lfi = s.lfi := (isolate_upto (Upto.refl 0x80400000 s) (Sub.refl _)).lfi rfl
@[simp] theorem isolate_port (d : Nat) (s : State) :
    (isolate d s).port = s.port := (isolate_upto (Upto.refl 0x80400000 s) (Sub.refl _)).port rfl
@[simp] theorem isolate_swt (d : Nat) (s : State) :
    (isolate d s).swt = s.swt := (isolate_upto (Upto.refl 0x80400000 s) (Sub.refl _)).swt rfl
@[simp] theorem isolate_ndl (d : Nat) (s : State) :
    (isolate d s).ndl = s.ndl := (isolate_upto (Upto.refl 0x80400000 s) (Sub.refl _)).ndl rfl
@[simp] theorem isolate_bank (d : Nat) (s : State) :
    (isolate d s).bank = s.bank := (isolate_upto (Upto.refl 0x80400000 s) (Sub.refl _)).bank rfl
@[simp] theorem isolate_dist (d : Nat) (s : State) :
    (isolate d s).dist = s.dist := (isolate_upto (Upto.refl 0x80400000 s) (Sub.refl _)).dist rfl
@[simp] theorem isolate_skn (d : Nat) (s : State) :
    (isolate d s).skn = s.skn := (isolate_upto (Upto.refl 0x80400000 s) (Sub.refl _)).skn rfl
@[simp] theorem isolate_pat (d : Nat) (s : State) :
    (isolate d s).pat = s.pat := (isolate_upto (Upto.refl 0x80400000 s) (Sub.refl _)).pat rfl
@[simp] theorem isolate_pl (d : Nat) (s : State) :
    (isolate d s).pl = s.pl := (isolate_upto (Upto.refl 0x80400000 s) (Sub.refl _)).pl rfl
@[simp] theorem isolate_joint (d : Nat) (s : State) :
    (isolate d s).joint = s.joint := (isolate_upto (Upto.refl 0x80400000 s) (Sub.refl _)).joint rfl
@[simp] theorem isolate_mem (d : Nat) (s : State) :
    (isolate d s).mem = s.mem := (isolate_upto (Upto.refl 0x80400000 s) (Sub.refl _)).memory rfl rfl rfl rfl
@[simp] theorem isolate_stl (d : Nat) (s : State) :
    (isolate d s).stl = s.stl := (isolate_upto (Upto.refl 0x80400000 s) (Sub.refl _)).stl rfl
@[simp] theorem isolate_eth (d : Nat) (s : State) :
    (isolate d s).eth = s.eth := (isolate_upto (Upto.refl 0x80400000 s) (Sub.refl _)).eth rfl
@[simp] theorem isolate_ssw (d : Nat) (s : State) :
    (isolate d s).ssw = s.ssw := (isolate_upto (Upto.refl 0x80400000 s) (Sub.refl _)).ssw rfl
@[simp] theorem isolate_ft (d : Nat) (s : State) :
    (isolate d s).ft = s.ft := (isolate_upto (Upto.refl 0x80400000 s) (Sub.refl _)).ft rfl
@[simp] theorem isolate_arrivals (d : Nat) (s : State) :
    (isolate d s).arrivals = s.arrivals := (isolate_upto (Upto.refl 0x80400000 s) (Sub.refl _)).arrivals rfl
@[simp] theorem isolate_ict (d : Nat) (s : State) :
    (isolate d s).ict = s.ict := (isolate_upto (Upto.refl 0x80400000 s) (Sub.refl _)).ict rfl
@[simp] theorem isolate_mbx (d : Nat) (s : State) :
    (isolate d s).mbx = s.mbx := (isolate_upto (Upto.refl 0x80400000 s) (Sub.refl _)).mbx rfl
@[simp] theorem isolate_sem (d : Nat) (s : State) :
    (isolate d s).sem = s.sem := (isolate_upto (Upto.refl 0x80400000 s) (Sub.refl _)).sem rfl
@[simp] theorem isolate_fcl (d : Nat) (s : State) :
    (isolate d s).fcl = s.fcl := (isolate_upto (Upto.refl 0x80400000 s) (Sub.refl _)).fcl rfl
@[simp] theorem isolate_ldg (d : Nat) (s : State) :
    (isolate d s).ldg = s.ldg := (isolate_upto (Upto.refl 0x80400000 s) (Sub.refl _)).ldg rfl
@[simp] theorem isolate_tly (d : Nat) (s : State) :
    (isolate d s).tly = s.tly := (isolate_upto (Upto.refl 0x80400000 s) (Sub.refl _)).tly rfl
@[simp] theorem isolate_sth (d : Nat) (s : State) :
    (isolate d s).sth = s.sth := (isolate_upto (Upto.refl 0x80400000 s) (Sub.refl _)).sth rfl
@[simp] theorem isolate_sec (d : Nat) (s : State) :
    (isolate d s).sec = s.sec := (isolate_upto (Upto.refl 0x80400000 s) (Sub.refl _)).sec rfl
@[simp] theorem isolate_mag (d : Nat) (s : State) :
    (isolate d s).mag = s.mag := (isolate_upto (Upto.refl 0x80400000 s) (Sub.refl _)).mag rfl
@[simp] theorem isolate_magIn (d : Nat) (s : State) :
    (isolate d s).magIn = s.magIn := (isolate_upto (Upto.refl 0x80400000 s) (Sub.refl _)).magIn rfl
@[simp] theorem isolate_prt (d : Nat) (s : State) :
    (isolate d s).prt = s.prt := (isolate_upto (Upto.refl 0x80400000 s) (Sub.refl _)).prt rfl

@[simp] theorem askUp_pending (d : Nat) (s : State) :
    (askUp d s).pending = s.pending := (askUp_upto (Upto.refl 0x80400000 s) (Sub.refl _)).pending
@[simp] theorem askUp_now (d : Nat) (s : State) :
    (askUp d s).now = s.now := (askUp_upto (Upto.refl 0x80400000 s) (Sub.refl _)).now
@[simp] theorem askUp_free (d : Nat) (s : State) :
    (askUp d s).free = s.free := (askUp_upto (Upto.refl 0x80400000 s) (Sub.refl _)).free rfl
@[simp] theorem askUp_keys (d : Nat) (s : State) :
    (askUp d s).bus.keys = s.bus.keys := (askUp_upto (Upto.refl 0x80400000 s) (Sub.refl _)).keys rfl
@[simp] theorem askUp_staged (d : Nat) (s : State) :
    (askUp d s).bus.staged = s.bus.staged :=
  ((askUp_upto (Upto.refl 0x80400000 s) (Sub.refl _)).fabric rfl).1
@[simp] theorem askUp_latched (d : Nat) (s : State) :
    (askUp d s).bus.latched = s.bus.latched :=
  ((askUp_upto (Upto.refl 0x80400000 s) (Sub.refl _)).fabric rfl).2.1
@[simp] theorem askUp_rrPtr (d : Nat) (s : State) :
    (askUp d s).bus.rrPtr = s.bus.rrPtr :=
  ((askUp_upto (Upto.refl 0x80400000 s) (Sub.refl _)).fabric rfl).2.2.1
@[simp] theorem askUp_parBad (d : Nat) (s : State) :
    (askUp d s).bus.parBad = s.bus.parBad :=
  ((askUp_upto (Upto.refl 0x80400000 s) (Sub.refl _)).fabric rfl).2.2.2.1
@[simp] theorem askUp_parReported (d : Nat) (s : State) :
    (askUp d s).bus.parReported = s.bus.parReported :=
  ((askUp_upto (Upto.refl 0x80400000 s) (Sub.refl _)).fabric rfl).2.2.2.2.1
@[simp] theorem askUp_answers (d : Nat) (s : State) :
    (askUp d s).bus.answers = s.bus.answers :=
  ((askUp_upto (Upto.refl 0x80400000 s) (Sub.refl _)).fabric rfl).2.2.2.2.2.1
@[simp] theorem askUp_parPos (d : Nat) (s : State) :
    (askUp d s).bus.parPos = s.bus.parPos :=
  ((askUp_upto (Upto.refl 0x80400000 s) (Sub.refl _)).fabric rfl).2.2.2.2.2.2.1
@[simp] theorem askUp_parAt (d : Nat) (s : State) :
    (askUp d s).bus.parAt = s.bus.parAt :=
  ((askUp_upto (Upto.refl 0x80400000 s) (Sub.refl _)).fabric rfl).2.2.2.2.2.2.2.1
@[simp] theorem askUp_wroteNow (d : Nat) (s : State) :
    (askUp d s).bus.wroteNow = s.bus.wroteNow :=
  ((askUp_upto (Upto.refl 0x80400000 s) (Sub.refl _)).fabric rfl).2.2.2.2.2.2.2.2
@[simp] theorem askUp_rck (d : Nat) (s : State) :
    (askUp d s).rck = s.rck := (askUp_upto (Upto.refl 0x80400000 s) (Sub.refl _)).rck rfl
@[simp] theorem askUp_ptp (d : Nat) (s : State) :
    (askUp d s).ptp = s.ptp := (askUp_upto (Upto.refl 0x80400000 s) (Sub.refl _)).ptp rfl
@[simp] theorem askUp_lane (d : Nat) (s : State) :
    (askUp d s).lane = s.lane := (askUp_upto (Upto.refl 0x80400000 s) (Sub.refl _)).lane rfl
@[simp] theorem askUp_lfi (d : Nat) (s : State) :
    (askUp d s).lfi = s.lfi := (askUp_upto (Upto.refl 0x80400000 s) (Sub.refl _)).lfi rfl
@[simp] theorem askUp_port (d : Nat) (s : State) :
    (askUp d s).port = s.port := (askUp_upto (Upto.refl 0x80400000 s) (Sub.refl _)).port rfl
@[simp] theorem askUp_swt (d : Nat) (s : State) :
    (askUp d s).swt = s.swt := (askUp_upto (Upto.refl 0x80400000 s) (Sub.refl _)).swt rfl
@[simp] theorem askUp_ndl (d : Nat) (s : State) :
    (askUp d s).ndl = s.ndl := (askUp_upto (Upto.refl 0x80400000 s) (Sub.refl _)).ndl rfl
@[simp] theorem askUp_bank (d : Nat) (s : State) :
    (askUp d s).bank = s.bank := (askUp_upto (Upto.refl 0x80400000 s) (Sub.refl _)).bank rfl
@[simp] theorem askUp_dist (d : Nat) (s : State) :
    (askUp d s).dist = s.dist := (askUp_upto (Upto.refl 0x80400000 s) (Sub.refl _)).dist rfl
@[simp] theorem askUp_skn (d : Nat) (s : State) :
    (askUp d s).skn = s.skn := (askUp_upto (Upto.refl 0x80400000 s) (Sub.refl _)).skn rfl
@[simp] theorem askUp_pat (d : Nat) (s : State) :
    (askUp d s).pat = s.pat := (askUp_upto (Upto.refl 0x80400000 s) (Sub.refl _)).pat rfl
@[simp] theorem askUp_pl (d : Nat) (s : State) :
    (askUp d s).pl = s.pl := (askUp_upto (Upto.refl 0x80400000 s) (Sub.refl _)).pl rfl
@[simp] theorem askUp_joint (d : Nat) (s : State) :
    (askUp d s).joint = s.joint := (askUp_upto (Upto.refl 0x80400000 s) (Sub.refl _)).joint rfl
@[simp] theorem askUp_mem (d : Nat) (s : State) :
    (askUp d s).mem = s.mem := (askUp_upto (Upto.refl 0x80400000 s) (Sub.refl _)).memory rfl rfl rfl rfl
@[simp] theorem askUp_stl (d : Nat) (s : State) :
    (askUp d s).stl = s.stl := (askUp_upto (Upto.refl 0x80400000 s) (Sub.refl _)).stl rfl
@[simp] theorem askUp_eth (d : Nat) (s : State) :
    (askUp d s).eth = s.eth := (askUp_upto (Upto.refl 0x80400000 s) (Sub.refl _)).eth rfl
@[simp] theorem askUp_ssw (d : Nat) (s : State) :
    (askUp d s).ssw = s.ssw := (askUp_upto (Upto.refl 0x80400000 s) (Sub.refl _)).ssw rfl
@[simp] theorem askUp_ft (d : Nat) (s : State) :
    (askUp d s).ft = s.ft := (askUp_upto (Upto.refl 0x80400000 s) (Sub.refl _)).ft rfl
@[simp] theorem askUp_arrivals (d : Nat) (s : State) :
    (askUp d s).arrivals = s.arrivals := (askUp_upto (Upto.refl 0x80400000 s) (Sub.refl _)).arrivals rfl
@[simp] theorem askUp_ict (d : Nat) (s : State) :
    (askUp d s).ict = s.ict := (askUp_upto (Upto.refl 0x80400000 s) (Sub.refl _)).ict rfl
@[simp] theorem askUp_mbx (d : Nat) (s : State) :
    (askUp d s).mbx = s.mbx := (askUp_upto (Upto.refl 0x80400000 s) (Sub.refl _)).mbx rfl
@[simp] theorem askUp_sem (d : Nat) (s : State) :
    (askUp d s).sem = s.sem := (askUp_upto (Upto.refl 0x80400000 s) (Sub.refl _)).sem rfl
@[simp] theorem askUp_fcl (d : Nat) (s : State) :
    (askUp d s).fcl = s.fcl := (askUp_upto (Upto.refl 0x80400000 s) (Sub.refl _)).fcl rfl
@[simp] theorem askUp_ldg (d : Nat) (s : State) :
    (askUp d s).ldg = s.ldg := (askUp_upto (Upto.refl 0x80400000 s) (Sub.refl _)).ldg rfl
@[simp] theorem askUp_tly (d : Nat) (s : State) :
    (askUp d s).tly = s.tly := (askUp_upto (Upto.refl 0x80400000 s) (Sub.refl _)).tly rfl
@[simp] theorem askUp_sth (d : Nat) (s : State) :
    (askUp d s).sth = s.sth := (askUp_upto (Upto.refl 0x80400000 s) (Sub.refl _)).sth rfl
@[simp] theorem askUp_sec (d : Nat) (s : State) :
    (askUp d s).sec = s.sec := (askUp_upto (Upto.refl 0x80400000 s) (Sub.refl _)).sec rfl
@[simp] theorem askUp_mag (d : Nat) (s : State) :
    (askUp d s).mag = s.mag := (askUp_upto (Upto.refl 0x80400000 s) (Sub.refl _)).mag rfl
@[simp] theorem askUp_magIn (d : Nat) (s : State) :
    (askUp d s).magIn = s.magIn := (askUp_upto (Upto.refl 0x80400000 s) (Sub.refl _)).magIn rfl
@[simp] theorem askUp_prt (d : Nat) (s : State) :
    (askUp d s).prt = s.prt := (askUp_upto (Upto.refl 0x80400000 s) (Sub.refl _)).prt rfl

@[simp] theorem doWakes_pending (cores : List Nat) (s : State) :
    (doWakes cores s).pending = s.pending := (doWakes_upto (Upto.refl 0x80480000 s) (Sub.refl _)).pending
@[simp] theorem doWakes_now (cores : List Nat) (s : State) :
    (doWakes cores s).now = s.now := (doWakes_upto (Upto.refl 0x80480000 s) (Sub.refl _)).now
@[simp] theorem doWakes_free (cores : List Nat) (s : State) :
    (doWakes cores s).free = s.free := (doWakes_upto (Upto.refl 0x80480000 s) (Sub.refl _)).free rfl
@[simp] theorem doWakes_keys (cores : List Nat) (s : State) :
    (doWakes cores s).bus.keys = s.bus.keys := (doWakes_upto (Upto.refl 0x80480000 s) (Sub.refl _)).keys rfl
@[simp] theorem doWakes_staged (cores : List Nat) (s : State) :
    (doWakes cores s).bus.staged = s.bus.staged :=
  ((doWakes_upto (Upto.refl 0x80480000 s) (Sub.refl _)).fabric rfl).1
@[simp] theorem doWakes_latched (cores : List Nat) (s : State) :
    (doWakes cores s).bus.latched = s.bus.latched :=
  ((doWakes_upto (Upto.refl 0x80480000 s) (Sub.refl _)).fabric rfl).2.1
@[simp] theorem doWakes_rrPtr (cores : List Nat) (s : State) :
    (doWakes cores s).bus.rrPtr = s.bus.rrPtr :=
  ((doWakes_upto (Upto.refl 0x80480000 s) (Sub.refl _)).fabric rfl).2.2.1
@[simp] theorem doWakes_parBad (cores : List Nat) (s : State) :
    (doWakes cores s).bus.parBad = s.bus.parBad :=
  ((doWakes_upto (Upto.refl 0x80480000 s) (Sub.refl _)).fabric rfl).2.2.2.1
@[simp] theorem doWakes_parReported (cores : List Nat) (s : State) :
    (doWakes cores s).bus.parReported = s.bus.parReported :=
  ((doWakes_upto (Upto.refl 0x80480000 s) (Sub.refl _)).fabric rfl).2.2.2.2.1
@[simp] theorem doWakes_answers (cores : List Nat) (s : State) :
    (doWakes cores s).bus.answers = s.bus.answers :=
  ((doWakes_upto (Upto.refl 0x80480000 s) (Sub.refl _)).fabric rfl).2.2.2.2.2.1
@[simp] theorem doWakes_parPos (cores : List Nat) (s : State) :
    (doWakes cores s).bus.parPos = s.bus.parPos :=
  ((doWakes_upto (Upto.refl 0x80480000 s) (Sub.refl _)).fabric rfl).2.2.2.2.2.2.1
@[simp] theorem doWakes_parAt (cores : List Nat) (s : State) :
    (doWakes cores s).bus.parAt = s.bus.parAt :=
  ((doWakes_upto (Upto.refl 0x80480000 s) (Sub.refl _)).fabric rfl).2.2.2.2.2.2.2.1
@[simp] theorem doWakes_wroteNow (cores : List Nat) (s : State) :
    (doWakes cores s).bus.wroteNow = s.bus.wroteNow :=
  ((doWakes_upto (Upto.refl 0x80480000 s) (Sub.refl _)).fabric rfl).2.2.2.2.2.2.2.2
@[simp] theorem doWakes_rck (cores : List Nat) (s : State) :
    (doWakes cores s).rck = s.rck := (doWakes_upto (Upto.refl 0x80480000 s) (Sub.refl _)).rck rfl
@[simp] theorem doWakes_ptp (cores : List Nat) (s : State) :
    (doWakes cores s).ptp = s.ptp := (doWakes_upto (Upto.refl 0x80480000 s) (Sub.refl _)).ptp rfl
@[simp] theorem doWakes_lane (cores : List Nat) (s : State) :
    (doWakes cores s).lane = s.lane := (doWakes_upto (Upto.refl 0x80480000 s) (Sub.refl _)).lane rfl
@[simp] theorem doWakes_lfi (cores : List Nat) (s : State) :
    (doWakes cores s).lfi = s.lfi := (doWakes_upto (Upto.refl 0x80480000 s) (Sub.refl _)).lfi rfl
@[simp] theorem doWakes_port (cores : List Nat) (s : State) :
    (doWakes cores s).port = s.port := (doWakes_upto (Upto.refl 0x80480000 s) (Sub.refl _)).port rfl
@[simp] theorem doWakes_swt (cores : List Nat) (s : State) :
    (doWakes cores s).swt = s.swt := (doWakes_upto (Upto.refl 0x80480000 s) (Sub.refl _)).swt rfl
@[simp] theorem doWakes_ndl (cores : List Nat) (s : State) :
    (doWakes cores s).ndl = s.ndl := (doWakes_upto (Upto.refl 0x80480000 s) (Sub.refl _)).ndl rfl
@[simp] theorem doWakes_bank (cores : List Nat) (s : State) :
    (doWakes cores s).bank = s.bank := (doWakes_upto (Upto.refl 0x80480000 s) (Sub.refl _)).bank rfl
@[simp] theorem doWakes_dist (cores : List Nat) (s : State) :
    (doWakes cores s).dist = s.dist := (doWakes_upto (Upto.refl 0x80480000 s) (Sub.refl _)).dist rfl
@[simp] theorem doWakes_skn (cores : List Nat) (s : State) :
    (doWakes cores s).skn = s.skn := (doWakes_upto (Upto.refl 0x80480000 s) (Sub.refl _)).skn rfl
@[simp] theorem doWakes_pat (cores : List Nat) (s : State) :
    (doWakes cores s).pat = s.pat := (doWakes_upto (Upto.refl 0x80480000 s) (Sub.refl _)).pat rfl
@[simp] theorem doWakes_pl (cores : List Nat) (s : State) :
    (doWakes cores s).pl = s.pl := (doWakes_upto (Upto.refl 0x80480000 s) (Sub.refl _)).pl rfl
@[simp] theorem doWakes_joint (cores : List Nat) (s : State) :
    (doWakes cores s).joint = s.joint := (doWakes_upto (Upto.refl 0x80480000 s) (Sub.refl _)).joint rfl
@[simp] theorem doWakes_mem (cores : List Nat) (s : State) :
    (doWakes cores s).mem = s.mem := (doWakes_upto (Upto.refl 0x80480000 s) (Sub.refl _)).memory rfl rfl rfl rfl
@[simp] theorem doWakes_stl (cores : List Nat) (s : State) :
    (doWakes cores s).stl = s.stl := (doWakes_upto (Upto.refl 0x80480000 s) (Sub.refl _)).stl rfl
@[simp] theorem doWakes_eth (cores : List Nat) (s : State) :
    (doWakes cores s).eth = s.eth := (doWakes_upto (Upto.refl 0x80480000 s) (Sub.refl _)).eth rfl
@[simp] theorem doWakes_ssw (cores : List Nat) (s : State) :
    (doWakes cores s).ssw = s.ssw := (doWakes_upto (Upto.refl 0x80480000 s) (Sub.refl _)).ssw rfl
@[simp] theorem doWakes_ft (cores : List Nat) (s : State) :
    (doWakes cores s).ft = s.ft := (doWakes_upto (Upto.refl 0x80480000 s) (Sub.refl _)).ft rfl
@[simp] theorem doWakes_arrivals (cores : List Nat) (s : State) :
    (doWakes cores s).arrivals = s.arrivals := (doWakes_upto (Upto.refl 0x80480000 s) (Sub.refl _)).arrivals rfl
@[simp] theorem doWakes_mbx (cores : List Nat) (s : State) :
    (doWakes cores s).mbx = s.mbx := (doWakes_upto (Upto.refl 0x80480000 s) (Sub.refl _)).mbx rfl
@[simp] theorem doWakes_sem (cores : List Nat) (s : State) :
    (doWakes cores s).sem = s.sem := (doWakes_upto (Upto.refl 0x80480000 s) (Sub.refl _)).sem rfl
@[simp] theorem doWakes_fcl (cores : List Nat) (s : State) :
    (doWakes cores s).fcl = s.fcl := (doWakes_upto (Upto.refl 0x80480000 s) (Sub.refl _)).fcl rfl
@[simp] theorem doWakes_ldg (cores : List Nat) (s : State) :
    (doWakes cores s).ldg = s.ldg := (doWakes_upto (Upto.refl 0x80480000 s) (Sub.refl _)).ldg rfl
@[simp] theorem doWakes_tly (cores : List Nat) (s : State) :
    (doWakes cores s).tly = s.tly := (doWakes_upto (Upto.refl 0x80480000 s) (Sub.refl _)).tly rfl
@[simp] theorem doWakes_sth (cores : List Nat) (s : State) :
    (doWakes cores s).sth = s.sth := (doWakes_upto (Upto.refl 0x80480000 s) (Sub.refl _)).sth rfl
@[simp] theorem doWakes_sec (cores : List Nat) (s : State) :
    (doWakes cores s).sec = s.sec := (doWakes_upto (Upto.refl 0x80480000 s) (Sub.refl _)).sec rfl
@[simp] theorem doWakes_mag (cores : List Nat) (s : State) :
    (doWakes cores s).mag = s.mag := (doWakes_upto (Upto.refl 0x80480000 s) (Sub.refl _)).mag rfl
@[simp] theorem doWakes_magIn (cores : List Nat) (s : State) :
    (doWakes cores s).magIn = s.magIn := (doWakes_upto (Upto.refl 0x80480000 s) (Sub.refl _)).magIn rfl
@[simp] theorem doWakes_prt (cores : List Nat) (s : State) :
    (doWakes cores s).prt = s.prt := (doWakes_upto (Upto.refl 0x80480000 s) (Sub.refl _)).prt rfl

end Sys2Proof.Machine
end

