-- ==== Sys2Proof/Laws/State.lean ====
section
/-! SUPPORT. One lemma per field of State per update: what each named update leaves as it was. -/

set_option linter.unusedVariables false

namespace Sys2Proof.Machine

@[simp] theorem setRword_pending (r : Reg) (fr : Nat) (i : Nat) (w : Nat) (v : Nat) (s : State) :
    (setRword r fr i w v s).pending = s.pending := rfl
@[simp] theorem setRword_now (r : Reg) (fr : Nat) (i : Nat) (w : Nat) (v : Nat) (s : State) :
    (setRword r fr i w v s).now = s.now := rfl
@[simp] theorem setRword_free (r : Reg) (fr : Nat) (i : Nat) (w : Nat) (v : Nat) (s : State) :
    (setRword r fr i w v s).free = s.free := rfl
@[simp] theorem setRword_rck (r : Reg) (fr : Nat) (i : Nat) (w : Nat) (v : Nat) (s : State) :
    (setRword r fr i w v s).rck = s.rck := rfl
@[simp] theorem setRword_ptp (r : Reg) (fr : Nat) (i : Nat) (w : Nat) (v : Nat) (s : State) :
    (setRword r fr i w v s).ptp = s.ptp := rfl
@[simp] theorem setRword_lane (r : Reg) (fr : Nat) (i : Nat) (w : Nat) (v : Nat) (s : State) :
    (setRword r fr i w v s).lane = s.lane := rfl
@[simp] theorem setRword_lfi (r : Reg) (fr : Nat) (i : Nat) (w : Nat) (v : Nat) (s : State) :
    (setRword r fr i w v s).lfi = s.lfi := rfl
@[simp] theorem setRword_port (r : Reg) (fr : Nat) (i : Nat) (w : Nat) (v : Nat) (s : State) :
    (setRword r fr i w v s).port = s.port := rfl
@[simp] theorem setRword_swt (r : Reg) (fr : Nat) (i : Nat) (w : Nat) (v : Nat) (s : State) :
    (setRword r fr i w v s).swt = s.swt := rfl
@[simp] theorem setRword_ndl (r : Reg) (fr : Nat) (i : Nat) (w : Nat) (v : Nat) (s : State) :
    (setRword r fr i w v s).ndl = s.ndl := rfl
@[simp] theorem setRword_bank (r : Reg) (fr : Nat) (i : Nat) (w : Nat) (v : Nat) (s : State) :
    (setRword r fr i w v s).bank = s.bank := rfl
@[simp] theorem setRword_dist (r : Reg) (fr : Nat) (i : Nat) (w : Nat) (v : Nat) (s : State) :
    (setRword r fr i w v s).dist = s.dist := rfl
@[simp] theorem setRword_skn (r : Reg) (fr : Nat) (i : Nat) (w : Nat) (v : Nat) (s : State) :
    (setRword r fr i w v s).skn = s.skn := rfl
@[simp] theorem setRword_pat (r : Reg) (fr : Nat) (i : Nat) (w : Nat) (v : Nat) (s : State) :
    (setRword r fr i w v s).pat = s.pat := rfl
@[simp] theorem setRword_pl (r : Reg) (fr : Nat) (i : Nat) (w : Nat) (v : Nat) (s : State) :
    (setRword r fr i w v s).pl = s.pl := rfl
@[simp] theorem setRword_joint (r : Reg) (fr : Nat) (i : Nat) (w : Nat) (v : Nat) (s : State) :
    (setRword r fr i w v s).joint = s.joint := rfl
@[simp] theorem setRword_mem (r : Reg) (fr : Nat) (i : Nat) (w : Nat) (v : Nat) (s : State) :
    (setRword r fr i w v s).mem = s.mem := rfl
@[simp] theorem setRword_stl (r : Reg) (fr : Nat) (i : Nat) (w : Nat) (v : Nat) (s : State) :
    (setRword r fr i w v s).stl = s.stl := rfl
@[simp] theorem setRword_eth (r : Reg) (fr : Nat) (i : Nat) (w : Nat) (v : Nat) (s : State) :
    (setRword r fr i w v s).eth = s.eth := rfl
@[simp] theorem setRword_ssw (r : Reg) (fr : Nat) (i : Nat) (w : Nat) (v : Nat) (s : State) :
    (setRword r fr i w v s).ssw = s.ssw := rfl
@[simp] theorem setRword_ft (r : Reg) (fr : Nat) (i : Nat) (w : Nat) (v : Nat) (s : State) :
    (setRword r fr i w v s).ft = s.ft := rfl
@[simp] theorem setRword_arrivals (r : Reg) (fr : Nat) (i : Nat) (w : Nat) (v : Nat) (s : State) :
    (setRword r fr i w v s).arrivals = s.arrivals := rfl
@[simp] theorem setRword_ict (r : Reg) (fr : Nat) (i : Nat) (w : Nat) (v : Nat) (s : State) :
    (setRword r fr i w v s).ict = s.ict := rfl
@[simp] theorem setRword_mbx (r : Reg) (fr : Nat) (i : Nat) (w : Nat) (v : Nat) (s : State) :
    (setRword r fr i w v s).mbx = s.mbx := rfl
@[simp] theorem setRword_sem (r : Reg) (fr : Nat) (i : Nat) (w : Nat) (v : Nat) (s : State) :
    (setRword r fr i w v s).sem = s.sem := rfl
@[simp] theorem setRword_pwr (r : Reg) (fr : Nat) (i : Nat) (w : Nat) (v : Nat) (s : State) :
    (setRword r fr i w v s).pwr = s.pwr := rfl
@[simp] theorem setRword_fcl (r : Reg) (fr : Nat) (i : Nat) (w : Nat) (v : Nat) (s : State) :
    (setRword r fr i w v s).fcl = s.fcl := rfl
@[simp] theorem setRword_ldg (r : Reg) (fr : Nat) (i : Nat) (w : Nat) (v : Nat) (s : State) :
    (setRword r fr i w v s).ldg = s.ldg := rfl
@[simp] theorem setRword_tly (r : Reg) (fr : Nat) (i : Nat) (w : Nat) (v : Nat) (s : State) :
    (setRword r fr i w v s).tly = s.tly := rfl
@[simp] theorem setRword_sth (r : Reg) (fr : Nat) (i : Nat) (w : Nat) (v : Nat) (s : State) :
    (setRword r fr i w v s).sth = s.sth := rfl
@[simp] theorem setRword_sec (r : Reg) (fr : Nat) (i : Nat) (w : Nat) (v : Nat) (s : State) :
    (setRword r fr i w v s).sec = s.sec := rfl
@[simp] theorem setRword_mag (r : Reg) (fr : Nat) (i : Nat) (w : Nat) (v : Nat) (s : State) :
    (setRword r fr i w v s).mag = s.mag := rfl
@[simp] theorem setRword_magIn (r : Reg) (fr : Nat) (i : Nat) (w : Nat) (v : Nat) (s : State) :
    (setRword r fr i w v s).magIn = s.magIn := rfl
@[simp] theorem setRword_prt (r : Reg) (fr : Nat) (i : Nat) (w : Nat) (v : Nat) (s : State) :
    (setRword r fr i w v s).prt = s.prt := rfl
@[simp] theorem setRword_staged (r : Reg) (fr : Nat) (i : Nat) (w : Nat) (v : Nat) (s : State) :
    (setRword r fr i w v s).bus.staged = s.bus.staged := rfl
@[simp] theorem setRword_latched (r : Reg) (fr : Nat) (i : Nat) (w : Nat) (v : Nat) (s : State) :
    (setRword r fr i w v s).bus.latched = s.bus.latched := rfl
@[simp] theorem setRword_keys (r : Reg) (fr : Nat) (i : Nat) (w : Nat) (v : Nat) (s : State) :
    (setRword r fr i w v s).bus.keys = s.bus.keys := rfl
@[simp] theorem setRword_rrPtr (r : Reg) (fr : Nat) (i : Nat) (w : Nat) (v : Nat) (s : State) :
    (setRword r fr i w v s).bus.rrPtr = s.bus.rrPtr := rfl
@[simp] theorem setRword_parBad (r : Reg) (fr : Nat) (i : Nat) (w : Nat) (v : Nat) (s : State) :
    (setRword r fr i w v s).bus.parBad = s.bus.parBad := rfl
@[simp] theorem setRword_parReported (r : Reg) (fr : Nat) (i : Nat) (w : Nat) (v : Nat) (s : State) :
    (setRword r fr i w v s).bus.parReported = s.bus.parReported := rfl
@[simp] theorem setRword_answers (r : Reg) (fr : Nat) (i : Nat) (w : Nat) (v : Nat) (s : State) :
    (setRword r fr i w v s).bus.answers = s.bus.answers := rfl
@[simp] theorem setRword_parPos (r : Reg) (fr : Nat) (i : Nat) (w : Nat) (v : Nat) (s : State) :
    (setRword r fr i w v s).bus.parPos = s.bus.parPos := rfl
@[simp] theorem setRword_parAt (r : Reg) (fr : Nat) (i : Nat) (w : Nat) (v : Nat) (s : State) :
    (setRword r fr i w v s).bus.parAt = s.bus.parAt := rfl
@[simp] theorem setRword_wroteNow (r : Reg) (fr : Nat) (i : Nat) (w : Nat) (v : Nat) (s : State) :
    (setRword r fr i w v s).bus.wroteNow = s.bus.wroteNow := rfl

@[simp] theorem setRwordQ_pending (r : Reg) (req : Nat) (fr : Nat) (i : Nat) (w : Nat) (v : Nat) (s : State) :
    (setRwordQ r req fr i w v s).pending = s.pending := rfl
@[simp] theorem setRwordQ_now (r : Reg) (req : Nat) (fr : Nat) (i : Nat) (w : Nat) (v : Nat) (s : State) :
    (setRwordQ r req fr i w v s).now = s.now := rfl
@[simp] theorem setRwordQ_free (r : Reg) (req : Nat) (fr : Nat) (i : Nat) (w : Nat) (v : Nat) (s : State) :
    (setRwordQ r req fr i w v s).free = s.free := rfl
@[simp] theorem setRwordQ_rck (r : Reg) (req : Nat) (fr : Nat) (i : Nat) (w : Nat) (v : Nat) (s : State) :
    (setRwordQ r req fr i w v s).rck = s.rck := rfl
@[simp] theorem setRwordQ_ptp (r : Reg) (req : Nat) (fr : Nat) (i : Nat) (w : Nat) (v : Nat) (s : State) :
    (setRwordQ r req fr i w v s).ptp = s.ptp := rfl
@[simp] theorem setRwordQ_lane (r : Reg) (req : Nat) (fr : Nat) (i : Nat) (w : Nat) (v : Nat) (s : State) :
    (setRwordQ r req fr i w v s).lane = s.lane := rfl
@[simp] theorem setRwordQ_lfi (r : Reg) (req : Nat) (fr : Nat) (i : Nat) (w : Nat) (v : Nat) (s : State) :
    (setRwordQ r req fr i w v s).lfi = s.lfi := rfl
@[simp] theorem setRwordQ_port (r : Reg) (req : Nat) (fr : Nat) (i : Nat) (w : Nat) (v : Nat) (s : State) :
    (setRwordQ r req fr i w v s).port = s.port := rfl
@[simp] theorem setRwordQ_swt (r : Reg) (req : Nat) (fr : Nat) (i : Nat) (w : Nat) (v : Nat) (s : State) :
    (setRwordQ r req fr i w v s).swt = s.swt := rfl
@[simp] theorem setRwordQ_ndl (r : Reg) (req : Nat) (fr : Nat) (i : Nat) (w : Nat) (v : Nat) (s : State) :
    (setRwordQ r req fr i w v s).ndl = s.ndl := rfl
@[simp] theorem setRwordQ_bank (r : Reg) (req : Nat) (fr : Nat) (i : Nat) (w : Nat) (v : Nat) (s : State) :
    (setRwordQ r req fr i w v s).bank = s.bank := rfl
@[simp] theorem setRwordQ_dist (r : Reg) (req : Nat) (fr : Nat) (i : Nat) (w : Nat) (v : Nat) (s : State) :
    (setRwordQ r req fr i w v s).dist = s.dist := rfl
@[simp] theorem setRwordQ_skn (r : Reg) (req : Nat) (fr : Nat) (i : Nat) (w : Nat) (v : Nat) (s : State) :
    (setRwordQ r req fr i w v s).skn = s.skn := rfl
@[simp] theorem setRwordQ_pat (r : Reg) (req : Nat) (fr : Nat) (i : Nat) (w : Nat) (v : Nat) (s : State) :
    (setRwordQ r req fr i w v s).pat = s.pat := rfl
@[simp] theorem setRwordQ_pl (r : Reg) (req : Nat) (fr : Nat) (i : Nat) (w : Nat) (v : Nat) (s : State) :
    (setRwordQ r req fr i w v s).pl = s.pl := rfl
@[simp] theorem setRwordQ_joint (r : Reg) (req : Nat) (fr : Nat) (i : Nat) (w : Nat) (v : Nat) (s : State) :
    (setRwordQ r req fr i w v s).joint = s.joint := rfl
@[simp] theorem setRwordQ_mem (r : Reg) (req : Nat) (fr : Nat) (i : Nat) (w : Nat) (v : Nat) (s : State) :
    (setRwordQ r req fr i w v s).mem = s.mem := rfl
@[simp] theorem setRwordQ_stl (r : Reg) (req : Nat) (fr : Nat) (i : Nat) (w : Nat) (v : Nat) (s : State) :
    (setRwordQ r req fr i w v s).stl = s.stl := rfl
@[simp] theorem setRwordQ_eth (r : Reg) (req : Nat) (fr : Nat) (i : Nat) (w : Nat) (v : Nat) (s : State) :
    (setRwordQ r req fr i w v s).eth = s.eth := rfl
@[simp] theorem setRwordQ_ssw (r : Reg) (req : Nat) (fr : Nat) (i : Nat) (w : Nat) (v : Nat) (s : State) :
    (setRwordQ r req fr i w v s).ssw = s.ssw := rfl
@[simp] theorem setRwordQ_ft (r : Reg) (req : Nat) (fr : Nat) (i : Nat) (w : Nat) (v : Nat) (s : State) :
    (setRwordQ r req fr i w v s).ft = s.ft := rfl
@[simp] theorem setRwordQ_arrivals (r : Reg) (req : Nat) (fr : Nat) (i : Nat) (w : Nat) (v : Nat) (s : State) :
    (setRwordQ r req fr i w v s).arrivals = s.arrivals := rfl
@[simp] theorem setRwordQ_ict (r : Reg) (req : Nat) (fr : Nat) (i : Nat) (w : Nat) (v : Nat) (s : State) :
    (setRwordQ r req fr i w v s).ict = s.ict := rfl
@[simp] theorem setRwordQ_mbx (r : Reg) (req : Nat) (fr : Nat) (i : Nat) (w : Nat) (v : Nat) (s : State) :
    (setRwordQ r req fr i w v s).mbx = s.mbx := rfl
@[simp] theorem setRwordQ_sem (r : Reg) (req : Nat) (fr : Nat) (i : Nat) (w : Nat) (v : Nat) (s : State) :
    (setRwordQ r req fr i w v s).sem = s.sem := rfl
@[simp] theorem setRwordQ_pwr (r : Reg) (req : Nat) (fr : Nat) (i : Nat) (w : Nat) (v : Nat) (s : State) :
    (setRwordQ r req fr i w v s).pwr = s.pwr := rfl
@[simp] theorem setRwordQ_fcl (r : Reg) (req : Nat) (fr : Nat) (i : Nat) (w : Nat) (v : Nat) (s : State) :
    (setRwordQ r req fr i w v s).fcl = s.fcl := rfl
@[simp] theorem setRwordQ_ldg (r : Reg) (req : Nat) (fr : Nat) (i : Nat) (w : Nat) (v : Nat) (s : State) :
    (setRwordQ r req fr i w v s).ldg = s.ldg := rfl
@[simp] theorem setRwordQ_tly (r : Reg) (req : Nat) (fr : Nat) (i : Nat) (w : Nat) (v : Nat) (s : State) :
    (setRwordQ r req fr i w v s).tly = s.tly := rfl
@[simp] theorem setRwordQ_sth (r : Reg) (req : Nat) (fr : Nat) (i : Nat) (w : Nat) (v : Nat) (s : State) :
    (setRwordQ r req fr i w v s).sth = s.sth := rfl
@[simp] theorem setRwordQ_sec (r : Reg) (req : Nat) (fr : Nat) (i : Nat) (w : Nat) (v : Nat) (s : State) :
    (setRwordQ r req fr i w v s).sec = s.sec := rfl
@[simp] theorem setRwordQ_mag (r : Reg) (req : Nat) (fr : Nat) (i : Nat) (w : Nat) (v : Nat) (s : State) :
    (setRwordQ r req fr i w v s).mag = s.mag := rfl
@[simp] theorem setRwordQ_magIn (r : Reg) (req : Nat) (fr : Nat) (i : Nat) (w : Nat) (v : Nat) (s : State) :
    (setRwordQ r req fr i w v s).magIn = s.magIn := rfl
@[simp] theorem setRwordQ_prt (r : Reg) (req : Nat) (fr : Nat) (i : Nat) (w : Nat) (v : Nat) (s : State) :
    (setRwordQ r req fr i w v s).prt = s.prt := rfl
@[simp] theorem setRwordQ_staged (r : Reg) (req : Nat) (fr : Nat) (i : Nat) (w : Nat) (v : Nat) (s : State) :
    (setRwordQ r req fr i w v s).bus.staged = s.bus.staged := rfl
@[simp] theorem setRwordQ_latched (r : Reg) (req : Nat) (fr : Nat) (i : Nat) (w : Nat) (v : Nat) (s : State) :
    (setRwordQ r req fr i w v s).bus.latched = s.bus.latched := rfl
@[simp] theorem setRwordQ_keys (r : Reg) (req : Nat) (fr : Nat) (i : Nat) (w : Nat) (v : Nat) (s : State) :
    (setRwordQ r req fr i w v s).bus.keys = s.bus.keys := rfl
@[simp] theorem setRwordQ_rrPtr (r : Reg) (req : Nat) (fr : Nat) (i : Nat) (w : Nat) (v : Nat) (s : State) :
    (setRwordQ r req fr i w v s).bus.rrPtr = s.bus.rrPtr := rfl
@[simp] theorem setRwordQ_parBad (r : Reg) (req : Nat) (fr : Nat) (i : Nat) (w : Nat) (v : Nat) (s : State) :
    (setRwordQ r req fr i w v s).bus.parBad = s.bus.parBad := rfl
@[simp] theorem setRwordQ_parReported (r : Reg) (req : Nat) (fr : Nat) (i : Nat) (w : Nat) (v : Nat) (s : State) :
    (setRwordQ r req fr i w v s).bus.parReported = s.bus.parReported := rfl
@[simp] theorem setRwordQ_answers (r : Reg) (req : Nat) (fr : Nat) (i : Nat) (w : Nat) (v : Nat) (s : State) :
    (setRwordQ r req fr i w v s).bus.answers = s.bus.answers := rfl
@[simp] theorem setRwordQ_parPos (r : Reg) (req : Nat) (fr : Nat) (i : Nat) (w : Nat) (v : Nat) (s : State) :
    (setRwordQ r req fr i w v s).bus.parPos = s.bus.parPos := rfl
@[simp] theorem setRwordQ_parAt (r : Reg) (req : Nat) (fr : Nat) (i : Nat) (w : Nat) (v : Nat) (s : State) :
    (setRwordQ r req fr i w v s).bus.parAt = s.bus.parAt := rfl
@[simp] theorem setRwordQ_wroteNow (r : Reg) (req : Nat) (fr : Nat) (i : Nat) (w : Nat) (v : Nat) (s : State) :
    (setRwordQ r req fr i w v s).bus.wroteNow = s.bus.wroteNow := rfl

@[simp] theorem setFld_pending (f : FieldRef) (v : Nat) (s : State) (fr : optParam Nat 0) (i : optParam Nat 0) :
    (setFld f v s fr i).pending = s.pending := rfl
@[simp] theorem setFld_now (f : FieldRef) (v : Nat) (s : State) (fr : optParam Nat 0) (i : optParam Nat 0) :
    (setFld f v s fr i).now = s.now := rfl
@[simp] theorem setFld_free (f : FieldRef) (v : Nat) (s : State) (fr : optParam Nat 0) (i : optParam Nat 0) :
    (setFld f v s fr i).free = s.free := rfl
@[simp] theorem setFld_rck (f : FieldRef) (v : Nat) (s : State) (fr : optParam Nat 0) (i : optParam Nat 0) :
    (setFld f v s fr i).rck = s.rck := rfl
@[simp] theorem setFld_ptp (f : FieldRef) (v : Nat) (s : State) (fr : optParam Nat 0) (i : optParam Nat 0) :
    (setFld f v s fr i).ptp = s.ptp := rfl
@[simp] theorem setFld_lane (f : FieldRef) (v : Nat) (s : State) (fr : optParam Nat 0) (i : optParam Nat 0) :
    (setFld f v s fr i).lane = s.lane := rfl
@[simp] theorem setFld_lfi (f : FieldRef) (v : Nat) (s : State) (fr : optParam Nat 0) (i : optParam Nat 0) :
    (setFld f v s fr i).lfi = s.lfi := rfl
@[simp] theorem setFld_port (f : FieldRef) (v : Nat) (s : State) (fr : optParam Nat 0) (i : optParam Nat 0) :
    (setFld f v s fr i).port = s.port := rfl
@[simp] theorem setFld_swt (f : FieldRef) (v : Nat) (s : State) (fr : optParam Nat 0) (i : optParam Nat 0) :
    (setFld f v s fr i).swt = s.swt := rfl
@[simp] theorem setFld_ndl (f : FieldRef) (v : Nat) (s : State) (fr : optParam Nat 0) (i : optParam Nat 0) :
    (setFld f v s fr i).ndl = s.ndl := rfl
@[simp] theorem setFld_bank (f : FieldRef) (v : Nat) (s : State) (fr : optParam Nat 0) (i : optParam Nat 0) :
    (setFld f v s fr i).bank = s.bank := rfl
@[simp] theorem setFld_dist (f : FieldRef) (v : Nat) (s : State) (fr : optParam Nat 0) (i : optParam Nat 0) :
    (setFld f v s fr i).dist = s.dist := rfl
@[simp] theorem setFld_skn (f : FieldRef) (v : Nat) (s : State) (fr : optParam Nat 0) (i : optParam Nat 0) :
    (setFld f v s fr i).skn = s.skn := rfl
@[simp] theorem setFld_pat (f : FieldRef) (v : Nat) (s : State) (fr : optParam Nat 0) (i : optParam Nat 0) :
    (setFld f v s fr i).pat = s.pat := rfl
@[simp] theorem setFld_pl (f : FieldRef) (v : Nat) (s : State) (fr : optParam Nat 0) (i : optParam Nat 0) :
    (setFld f v s fr i).pl = s.pl := rfl
@[simp] theorem setFld_joint (f : FieldRef) (v : Nat) (s : State) (fr : optParam Nat 0) (i : optParam Nat 0) :
    (setFld f v s fr i).joint = s.joint := rfl
@[simp] theorem setFld_mem (f : FieldRef) (v : Nat) (s : State) (fr : optParam Nat 0) (i : optParam Nat 0) :
    (setFld f v s fr i).mem = s.mem := rfl
@[simp] theorem setFld_stl (f : FieldRef) (v : Nat) (s : State) (fr : optParam Nat 0) (i : optParam Nat 0) :
    (setFld f v s fr i).stl = s.stl := rfl
@[simp] theorem setFld_eth (f : FieldRef) (v : Nat) (s : State) (fr : optParam Nat 0) (i : optParam Nat 0) :
    (setFld f v s fr i).eth = s.eth := rfl
@[simp] theorem setFld_ssw (f : FieldRef) (v : Nat) (s : State) (fr : optParam Nat 0) (i : optParam Nat 0) :
    (setFld f v s fr i).ssw = s.ssw := rfl
@[simp] theorem setFld_ft (f : FieldRef) (v : Nat) (s : State) (fr : optParam Nat 0) (i : optParam Nat 0) :
    (setFld f v s fr i).ft = s.ft := rfl
@[simp] theorem setFld_arrivals (f : FieldRef) (v : Nat) (s : State) (fr : optParam Nat 0) (i : optParam Nat 0) :
    (setFld f v s fr i).arrivals = s.arrivals := rfl
@[simp] theorem setFld_ict (f : FieldRef) (v : Nat) (s : State) (fr : optParam Nat 0) (i : optParam Nat 0) :
    (setFld f v s fr i).ict = s.ict := rfl
@[simp] theorem setFld_mbx (f : FieldRef) (v : Nat) (s : State) (fr : optParam Nat 0) (i : optParam Nat 0) :
    (setFld f v s fr i).mbx = s.mbx := rfl
@[simp] theorem setFld_sem (f : FieldRef) (v : Nat) (s : State) (fr : optParam Nat 0) (i : optParam Nat 0) :
    (setFld f v s fr i).sem = s.sem := rfl
@[simp] theorem setFld_pwr (f : FieldRef) (v : Nat) (s : State) (fr : optParam Nat 0) (i : optParam Nat 0) :
    (setFld f v s fr i).pwr = s.pwr := rfl
@[simp] theorem setFld_fcl (f : FieldRef) (v : Nat) (s : State) (fr : optParam Nat 0) (i : optParam Nat 0) :
    (setFld f v s fr i).fcl = s.fcl := rfl
@[simp] theorem setFld_ldg (f : FieldRef) (v : Nat) (s : State) (fr : optParam Nat 0) (i : optParam Nat 0) :
    (setFld f v s fr i).ldg = s.ldg := rfl
@[simp] theorem setFld_tly (f : FieldRef) (v : Nat) (s : State) (fr : optParam Nat 0) (i : optParam Nat 0) :
    (setFld f v s fr i).tly = s.tly := rfl
@[simp] theorem setFld_sth (f : FieldRef) (v : Nat) (s : State) (fr : optParam Nat 0) (i : optParam Nat 0) :
    (setFld f v s fr i).sth = s.sth := rfl
@[simp] theorem setFld_sec (f : FieldRef) (v : Nat) (s : State) (fr : optParam Nat 0) (i : optParam Nat 0) :
    (setFld f v s fr i).sec = s.sec := rfl
@[simp] theorem setFld_mag (f : FieldRef) (v : Nat) (s : State) (fr : optParam Nat 0) (i : optParam Nat 0) :
    (setFld f v s fr i).mag = s.mag := rfl
@[simp] theorem setFld_magIn (f : FieldRef) (v : Nat) (s : State) (fr : optParam Nat 0) (i : optParam Nat 0) :
    (setFld f v s fr i).magIn = s.magIn := rfl
@[simp] theorem setFld_prt (f : FieldRef) (v : Nat) (s : State) (fr : optParam Nat 0) (i : optParam Nat 0) :
    (setFld f v s fr i).prt = s.prt := rfl
@[simp] theorem setFld_staged (f : FieldRef) (v : Nat) (s : State) (fr : optParam Nat 0) (i : optParam Nat 0) :
    (setFld f v s fr i).bus.staged = s.bus.staged := setRword_staged _ _ _ _ _ _
@[simp] theorem setFld_latched (f : FieldRef) (v : Nat) (s : State) (fr : optParam Nat 0) (i : optParam Nat 0) :
    (setFld f v s fr i).bus.latched = s.bus.latched := setRword_latched _ _ _ _ _ _
@[simp] theorem setFld_keys (f : FieldRef) (v : Nat) (s : State) (fr : optParam Nat 0) (i : optParam Nat 0) :
    (setFld f v s fr i).bus.keys = s.bus.keys := setRword_keys _ _ _ _ _ _
@[simp] theorem setFld_rrPtr (f : FieldRef) (v : Nat) (s : State) (fr : optParam Nat 0) (i : optParam Nat 0) :
    (setFld f v s fr i).bus.rrPtr = s.bus.rrPtr := setRword_rrPtr _ _ _ _ _ _
@[simp] theorem setFld_parBad (f : FieldRef) (v : Nat) (s : State) (fr : optParam Nat 0) (i : optParam Nat 0) :
    (setFld f v s fr i).bus.parBad = s.bus.parBad := setRword_parBad _ _ _ _ _ _
@[simp] theorem setFld_parReported (f : FieldRef) (v : Nat) (s : State) (fr : optParam Nat 0) (i : optParam Nat 0) :
    (setFld f v s fr i).bus.parReported = s.bus.parReported := setRword_parReported _ _ _ _ _ _
@[simp] theorem setFld_answers (f : FieldRef) (v : Nat) (s : State) (fr : optParam Nat 0) (i : optParam Nat 0) :
    (setFld f v s fr i).bus.answers = s.bus.answers := setRword_answers _ _ _ _ _ _
@[simp] theorem setFld_parPos (f : FieldRef) (v : Nat) (s : State) (fr : optParam Nat 0) (i : optParam Nat 0) :
    (setFld f v s fr i).bus.parPos = s.bus.parPos := setRword_parPos _ _ _ _ _ _
@[simp] theorem setFld_parAt (f : FieldRef) (v : Nat) (s : State) (fr : optParam Nat 0) (i : optParam Nat 0) :
    (setFld f v s fr i).bus.parAt = s.bus.parAt := setRword_parAt _ _ _ _ _ _
@[simp] theorem setFld_wroteNow (f : FieldRef) (v : Nat) (s : State) (fr : optParam Nat 0) (i : optParam Nat 0) :
    (setFld f v s fr i).bus.wroteNow = s.bus.wroteNow := setRword_wroteNow _ _ _ _ _ _

@[simp] theorem setFldQ_pending (f : FieldRef) (req : Nat) (v : Nat) (s : State) (fr : optParam Nat 0) (i : optParam Nat 0) :
    (setFldQ f req v s fr i).pending = s.pending := rfl
@[simp] theorem setFldQ_now (f : FieldRef) (req : Nat) (v : Nat) (s : State) (fr : optParam Nat 0) (i : optParam Nat 0) :
    (setFldQ f req v s fr i).now = s.now := rfl
@[simp] theorem setFldQ_free (f : FieldRef) (req : Nat) (v : Nat) (s : State) (fr : optParam Nat 0) (i : optParam Nat 0) :
    (setFldQ f req v s fr i).free = s.free := rfl
@[simp] theorem setFldQ_rck (f : FieldRef) (req : Nat) (v : Nat) (s : State) (fr : optParam Nat 0) (i : optParam Nat 0) :
    (setFldQ f req v s fr i).rck = s.rck := rfl
@[simp] theorem setFldQ_ptp (f : FieldRef) (req : Nat) (v : Nat) (s : State) (fr : optParam Nat 0) (i : optParam Nat 0) :
    (setFldQ f req v s fr i).ptp = s.ptp := rfl
@[simp] theorem setFldQ_lane (f : FieldRef) (req : Nat) (v : Nat) (s : State) (fr : optParam Nat 0) (i : optParam Nat 0) :
    (setFldQ f req v s fr i).lane = s.lane := rfl
@[simp] theorem setFldQ_lfi (f : FieldRef) (req : Nat) (v : Nat) (s : State) (fr : optParam Nat 0) (i : optParam Nat 0) :
    (setFldQ f req v s fr i).lfi = s.lfi := rfl
@[simp] theorem setFldQ_port (f : FieldRef) (req : Nat) (v : Nat) (s : State) (fr : optParam Nat 0) (i : optParam Nat 0) :
    (setFldQ f req v s fr i).port = s.port := rfl
@[simp] theorem setFldQ_swt (f : FieldRef) (req : Nat) (v : Nat) (s : State) (fr : optParam Nat 0) (i : optParam Nat 0) :
    (setFldQ f req v s fr i).swt = s.swt := rfl
@[simp] theorem setFldQ_ndl (f : FieldRef) (req : Nat) (v : Nat) (s : State) (fr : optParam Nat 0) (i : optParam Nat 0) :
    (setFldQ f req v s fr i).ndl = s.ndl := rfl
@[simp] theorem setFldQ_bank (f : FieldRef) (req : Nat) (v : Nat) (s : State) (fr : optParam Nat 0) (i : optParam Nat 0) :
    (setFldQ f req v s fr i).bank = s.bank := rfl
@[simp] theorem setFldQ_dist (f : FieldRef) (req : Nat) (v : Nat) (s : State) (fr : optParam Nat 0) (i : optParam Nat 0) :
    (setFldQ f req v s fr i).dist = s.dist := rfl
@[simp] theorem setFldQ_skn (f : FieldRef) (req : Nat) (v : Nat) (s : State) (fr : optParam Nat 0) (i : optParam Nat 0) :
    (setFldQ f req v s fr i).skn = s.skn := rfl
@[simp] theorem setFldQ_pat (f : FieldRef) (req : Nat) (v : Nat) (s : State) (fr : optParam Nat 0) (i : optParam Nat 0) :
    (setFldQ f req v s fr i).pat = s.pat := rfl
@[simp] theorem setFldQ_pl (f : FieldRef) (req : Nat) (v : Nat) (s : State) (fr : optParam Nat 0) (i : optParam Nat 0) :
    (setFldQ f req v s fr i).pl = s.pl := rfl
@[simp] theorem setFldQ_joint (f : FieldRef) (req : Nat) (v : Nat) (s : State) (fr : optParam Nat 0) (i : optParam Nat 0) :
    (setFldQ f req v s fr i).joint = s.joint := rfl
@[simp] theorem setFldQ_mem (f : FieldRef) (req : Nat) (v : Nat) (s : State) (fr : optParam Nat 0) (i : optParam Nat 0) :
    (setFldQ f req v s fr i).mem = s.mem := rfl
@[simp] theorem setFldQ_stl (f : FieldRef) (req : Nat) (v : Nat) (s : State) (fr : optParam Nat 0) (i : optParam Nat 0) :
    (setFldQ f req v s fr i).stl = s.stl := rfl
@[simp] theorem setFldQ_eth (f : FieldRef) (req : Nat) (v : Nat) (s : State) (fr : optParam Nat 0) (i : optParam Nat 0) :
    (setFldQ f req v s fr i).eth = s.eth := rfl
@[simp] theorem setFldQ_ssw (f : FieldRef) (req : Nat) (v : Nat) (s : State) (fr : optParam Nat 0) (i : optParam Nat 0) :
    (setFldQ f req v s fr i).ssw = s.ssw := rfl
@[simp] theorem setFldQ_ft (f : FieldRef) (req : Nat) (v : Nat) (s : State) (fr : optParam Nat 0) (i : optParam Nat 0) :
    (setFldQ f req v s fr i).ft = s.ft := rfl
@[simp] theorem setFldQ_arrivals (f : FieldRef) (req : Nat) (v : Nat) (s : State) (fr : optParam Nat 0) (i : optParam Nat 0) :
    (setFldQ f req v s fr i).arrivals = s.arrivals := rfl
@[simp] theorem setFldQ_ict (f : FieldRef) (req : Nat) (v : Nat) (s : State) (fr : optParam Nat 0) (i : optParam Nat 0) :
    (setFldQ f req v s fr i).ict = s.ict := rfl
@[simp] theorem setFldQ_mbx (f : FieldRef) (req : Nat) (v : Nat) (s : State) (fr : optParam Nat 0) (i : optParam Nat 0) :
    (setFldQ f req v s fr i).mbx = s.mbx := rfl
@[simp] theorem setFldQ_sem (f : FieldRef) (req : Nat) (v : Nat) (s : State) (fr : optParam Nat 0) (i : optParam Nat 0) :
    (setFldQ f req v s fr i).sem = s.sem := rfl
@[simp] theorem setFldQ_pwr (f : FieldRef) (req : Nat) (v : Nat) (s : State) (fr : optParam Nat 0) (i : optParam Nat 0) :
    (setFldQ f req v s fr i).pwr = s.pwr := rfl
@[simp] theorem setFldQ_fcl (f : FieldRef) (req : Nat) (v : Nat) (s : State) (fr : optParam Nat 0) (i : optParam Nat 0) :
    (setFldQ f req v s fr i).fcl = s.fcl := rfl
@[simp] theorem setFldQ_ldg (f : FieldRef) (req : Nat) (v : Nat) (s : State) (fr : optParam Nat 0) (i : optParam Nat 0) :
    (setFldQ f req v s fr i).ldg = s.ldg := rfl
@[simp] theorem setFldQ_tly (f : FieldRef) (req : Nat) (v : Nat) (s : State) (fr : optParam Nat 0) (i : optParam Nat 0) :
    (setFldQ f req v s fr i).tly = s.tly := rfl
@[simp] theorem setFldQ_sth (f : FieldRef) (req : Nat) (v : Nat) (s : State) (fr : optParam Nat 0) (i : optParam Nat 0) :
    (setFldQ f req v s fr i).sth = s.sth := rfl
@[simp] theorem setFldQ_sec (f : FieldRef) (req : Nat) (v : Nat) (s : State) (fr : optParam Nat 0) (i : optParam Nat 0) :
    (setFldQ f req v s fr i).sec = s.sec := rfl
@[simp] theorem setFldQ_mag (f : FieldRef) (req : Nat) (v : Nat) (s : State) (fr : optParam Nat 0) (i : optParam Nat 0) :
    (setFldQ f req v s fr i).mag = s.mag := rfl
@[simp] theorem setFldQ_magIn (f : FieldRef) (req : Nat) (v : Nat) (s : State) (fr : optParam Nat 0) (i : optParam Nat 0) :
    (setFldQ f req v s fr i).magIn = s.magIn := rfl
@[simp] theorem setFldQ_prt (f : FieldRef) (req : Nat) (v : Nat) (s : State) (fr : optParam Nat 0) (i : optParam Nat 0) :
    (setFldQ f req v s fr i).prt = s.prt := rfl
@[simp] theorem setFldQ_staged (f : FieldRef) (req : Nat) (v : Nat) (s : State) (fr : optParam Nat 0) (i : optParam Nat 0) :
    (setFldQ f req v s fr i).bus.staged = s.bus.staged := rfl
@[simp] theorem setFldQ_latched (f : FieldRef) (req : Nat) (v : Nat) (s : State) (fr : optParam Nat 0) (i : optParam Nat 0) :
    (setFldQ f req v s fr i).bus.latched = s.bus.latched := rfl
@[simp] theorem setFldQ_keys (f : FieldRef) (req : Nat) (v : Nat) (s : State) (fr : optParam Nat 0) (i : optParam Nat 0) :
    (setFldQ f req v s fr i).bus.keys = s.bus.keys := rfl
@[simp] theorem setFldQ_rrPtr (f : FieldRef) (req : Nat) (v : Nat) (s : State) (fr : optParam Nat 0) (i : optParam Nat 0) :
    (setFldQ f req v s fr i).bus.rrPtr = s.bus.rrPtr := rfl
@[simp] theorem setFldQ_parBad (f : FieldRef) (req : Nat) (v : Nat) (s : State) (fr : optParam Nat 0) (i : optParam Nat 0) :
    (setFldQ f req v s fr i).bus.parBad = s.bus.parBad := rfl
@[simp] theorem setFldQ_parReported (f : FieldRef) (req : Nat) (v : Nat) (s : State) (fr : optParam Nat 0) (i : optParam Nat 0) :
    (setFldQ f req v s fr i).bus.parReported = s.bus.parReported := rfl
@[simp] theorem setFldQ_answers (f : FieldRef) (req : Nat) (v : Nat) (s : State) (fr : optParam Nat 0) (i : optParam Nat 0) :
    (setFldQ f req v s fr i).bus.answers = s.bus.answers := rfl
@[simp] theorem setFldQ_parPos (f : FieldRef) (req : Nat) (v : Nat) (s : State) (fr : optParam Nat 0) (i : optParam Nat 0) :
    (setFldQ f req v s fr i).bus.parPos = s.bus.parPos := rfl
@[simp] theorem setFldQ_parAt (f : FieldRef) (req : Nat) (v : Nat) (s : State) (fr : optParam Nat 0) (i : optParam Nat 0) :
    (setFldQ f req v s fr i).bus.parAt = s.bus.parAt := rfl
@[simp] theorem setFldQ_wroteNow (f : FieldRef) (req : Nat) (v : Nat) (s : State) (fr : optParam Nat 0) (i : optParam Nat 0) :
    (setFldQ f req v s fr i).bus.wroteNow = s.bus.wroteNow := rfl

@[simp] theorem bump_pending (f : FieldRef) (s : State) (fr : optParam Nat 0) (i : optParam Nat 0) (n : optParam Nat 1) :
    (bump f s fr i n).pending = s.pending := rfl
@[simp] theorem bump_now (f : FieldRef) (s : State) (fr : optParam Nat 0) (i : optParam Nat 0) (n : optParam Nat 1) :
    (bump f s fr i n).now = s.now := rfl
@[simp] theorem bump_free (f : FieldRef) (s : State) (fr : optParam Nat 0) (i : optParam Nat 0) (n : optParam Nat 1) :
    (bump f s fr i n).free = s.free := rfl
@[simp] theorem bump_rck (f : FieldRef) (s : State) (fr : optParam Nat 0) (i : optParam Nat 0) (n : optParam Nat 1) :
    (bump f s fr i n).rck = s.rck := rfl
@[simp] theorem bump_ptp (f : FieldRef) (s : State) (fr : optParam Nat 0) (i : optParam Nat 0) (n : optParam Nat 1) :
    (bump f s fr i n).ptp = s.ptp := rfl
@[simp] theorem bump_lane (f : FieldRef) (s : State) (fr : optParam Nat 0) (i : optParam Nat 0) (n : optParam Nat 1) :
    (bump f s fr i n).lane = s.lane := rfl
@[simp] theorem bump_lfi (f : FieldRef) (s : State) (fr : optParam Nat 0) (i : optParam Nat 0) (n : optParam Nat 1) :
    (bump f s fr i n).lfi = s.lfi := rfl
@[simp] theorem bump_port (f : FieldRef) (s : State) (fr : optParam Nat 0) (i : optParam Nat 0) (n : optParam Nat 1) :
    (bump f s fr i n).port = s.port := rfl
@[simp] theorem bump_swt (f : FieldRef) (s : State) (fr : optParam Nat 0) (i : optParam Nat 0) (n : optParam Nat 1) :
    (bump f s fr i n).swt = s.swt := rfl
@[simp] theorem bump_ndl (f : FieldRef) (s : State) (fr : optParam Nat 0) (i : optParam Nat 0) (n : optParam Nat 1) :
    (bump f s fr i n).ndl = s.ndl := rfl
@[simp] theorem bump_bank (f : FieldRef) (s : State) (fr : optParam Nat 0) (i : optParam Nat 0) (n : optParam Nat 1) :
    (bump f s fr i n).bank = s.bank := rfl
@[simp] theorem bump_dist (f : FieldRef) (s : State) (fr : optParam Nat 0) (i : optParam Nat 0) (n : optParam Nat 1) :
    (bump f s fr i n).dist = s.dist := rfl
@[simp] theorem bump_skn (f : FieldRef) (s : State) (fr : optParam Nat 0) (i : optParam Nat 0) (n : optParam Nat 1) :
    (bump f s fr i n).skn = s.skn := rfl
@[simp] theorem bump_pat (f : FieldRef) (s : State) (fr : optParam Nat 0) (i : optParam Nat 0) (n : optParam Nat 1) :
    (bump f s fr i n).pat = s.pat := rfl
@[simp] theorem bump_pl (f : FieldRef) (s : State) (fr : optParam Nat 0) (i : optParam Nat 0) (n : optParam Nat 1) :
    (bump f s fr i n).pl = s.pl := rfl
@[simp] theorem bump_joint (f : FieldRef) (s : State) (fr : optParam Nat 0) (i : optParam Nat 0) (n : optParam Nat 1) :
    (bump f s fr i n).joint = s.joint := rfl
@[simp] theorem bump_mem (f : FieldRef) (s : State) (fr : optParam Nat 0) (i : optParam Nat 0) (n : optParam Nat 1) :
    (bump f s fr i n).mem = s.mem := rfl
@[simp] theorem bump_stl (f : FieldRef) (s : State) (fr : optParam Nat 0) (i : optParam Nat 0) (n : optParam Nat 1) :
    (bump f s fr i n).stl = s.stl := rfl
@[simp] theorem bump_eth (f : FieldRef) (s : State) (fr : optParam Nat 0) (i : optParam Nat 0) (n : optParam Nat 1) :
    (bump f s fr i n).eth = s.eth := rfl
@[simp] theorem bump_ssw (f : FieldRef) (s : State) (fr : optParam Nat 0) (i : optParam Nat 0) (n : optParam Nat 1) :
    (bump f s fr i n).ssw = s.ssw := rfl
@[simp] theorem bump_ft (f : FieldRef) (s : State) (fr : optParam Nat 0) (i : optParam Nat 0) (n : optParam Nat 1) :
    (bump f s fr i n).ft = s.ft := rfl
@[simp] theorem bump_arrivals (f : FieldRef) (s : State) (fr : optParam Nat 0) (i : optParam Nat 0) (n : optParam Nat 1) :
    (bump f s fr i n).arrivals = s.arrivals := rfl
@[simp] theorem bump_ict (f : FieldRef) (s : State) (fr : optParam Nat 0) (i : optParam Nat 0) (n : optParam Nat 1) :
    (bump f s fr i n).ict = s.ict := rfl
@[simp] theorem bump_mbx (f : FieldRef) (s : State) (fr : optParam Nat 0) (i : optParam Nat 0) (n : optParam Nat 1) :
    (bump f s fr i n).mbx = s.mbx := rfl
@[simp] theorem bump_sem (f : FieldRef) (s : State) (fr : optParam Nat 0) (i : optParam Nat 0) (n : optParam Nat 1) :
    (bump f s fr i n).sem = s.sem := rfl
@[simp] theorem bump_pwr (f : FieldRef) (s : State) (fr : optParam Nat 0) (i : optParam Nat 0) (n : optParam Nat 1) :
    (bump f s fr i n).pwr = s.pwr := rfl
@[simp] theorem bump_fcl (f : FieldRef) (s : State) (fr : optParam Nat 0) (i : optParam Nat 0) (n : optParam Nat 1) :
    (bump f s fr i n).fcl = s.fcl := rfl
@[simp] theorem bump_ldg (f : FieldRef) (s : State) (fr : optParam Nat 0) (i : optParam Nat 0) (n : optParam Nat 1) :
    (bump f s fr i n).ldg = s.ldg := rfl
@[simp] theorem bump_tly (f : FieldRef) (s : State) (fr : optParam Nat 0) (i : optParam Nat 0) (n : optParam Nat 1) :
    (bump f s fr i n).tly = s.tly := rfl
@[simp] theorem bump_sth (f : FieldRef) (s : State) (fr : optParam Nat 0) (i : optParam Nat 0) (n : optParam Nat 1) :
    (bump f s fr i n).sth = s.sth := rfl
@[simp] theorem bump_sec (f : FieldRef) (s : State) (fr : optParam Nat 0) (i : optParam Nat 0) (n : optParam Nat 1) :
    (bump f s fr i n).sec = s.sec := rfl
@[simp] theorem bump_mag (f : FieldRef) (s : State) (fr : optParam Nat 0) (i : optParam Nat 0) (n : optParam Nat 1) :
    (bump f s fr i n).mag = s.mag := rfl
@[simp] theorem bump_magIn (f : FieldRef) (s : State) (fr : optParam Nat 0) (i : optParam Nat 0) (n : optParam Nat 1) :
    (bump f s fr i n).magIn = s.magIn := rfl
@[simp] theorem bump_prt (f : FieldRef) (s : State) (fr : optParam Nat 0) (i : optParam Nat 0) (n : optParam Nat 1) :
    (bump f s fr i n).prt = s.prt := rfl
@[simp] theorem bump_staged (f : FieldRef) (s : State) (fr : optParam Nat 0) (i : optParam Nat 0) (n : optParam Nat 1) :
    (bump f s fr i n).bus.staged = s.bus.staged := setFld_staged _ _ _ _ _
@[simp] theorem bump_latched (f : FieldRef) (s : State) (fr : optParam Nat 0) (i : optParam Nat 0) (n : optParam Nat 1) :
    (bump f s fr i n).bus.latched = s.bus.latched := setFld_latched _ _ _ _ _
@[simp] theorem bump_keys (f : FieldRef) (s : State) (fr : optParam Nat 0) (i : optParam Nat 0) (n : optParam Nat 1) :
    (bump f s fr i n).bus.keys = s.bus.keys := setFld_keys _ _ _ _ _
@[simp] theorem bump_rrPtr (f : FieldRef) (s : State) (fr : optParam Nat 0) (i : optParam Nat 0) (n : optParam Nat 1) :
    (bump f s fr i n).bus.rrPtr = s.bus.rrPtr := setFld_rrPtr _ _ _ _ _
@[simp] theorem bump_parBad (f : FieldRef) (s : State) (fr : optParam Nat 0) (i : optParam Nat 0) (n : optParam Nat 1) :
    (bump f s fr i n).bus.parBad = s.bus.parBad := setFld_parBad _ _ _ _ _
@[simp] theorem bump_parReported (f : FieldRef) (s : State) (fr : optParam Nat 0) (i : optParam Nat 0) (n : optParam Nat 1) :
    (bump f s fr i n).bus.parReported = s.bus.parReported := setFld_parReported _ _ _ _ _
@[simp] theorem bump_answers (f : FieldRef) (s : State) (fr : optParam Nat 0) (i : optParam Nat 0) (n : optParam Nat 1) :
    (bump f s fr i n).bus.answers = s.bus.answers := setFld_answers _ _ _ _ _
@[simp] theorem bump_parPos (f : FieldRef) (s : State) (fr : optParam Nat 0) (i : optParam Nat 0) (n : optParam Nat 1) :
    (bump f s fr i n).bus.parPos = s.bus.parPos := setFld_parPos _ _ _ _ _
@[simp] theorem bump_parAt (f : FieldRef) (s : State) (fr : optParam Nat 0) (i : optParam Nat 0) (n : optParam Nat 1) :
    (bump f s fr i n).bus.parAt = s.bus.parAt := setFld_parAt _ _ _ _ _
@[simp] theorem bump_wroteNow (f : FieldRef) (s : State) (fr : optParam Nat 0) (i : optParam Nat 0) (n : optParam Nat 1) :
    (bump f s fr i n).bus.wroteNow = s.bus.wroteNow := setFld_wroteNow _ _ _ _ _

@[simp] theorem bumpWrap_pending (f : FieldRef) (s : State) (fr : optParam Nat 0) (i : optParam Nat 0) (n : optParam Nat 1) :
    (bumpWrap f s fr i n).pending = s.pending := rfl
@[simp] theorem bumpWrap_now (f : FieldRef) (s : State) (fr : optParam Nat 0) (i : optParam Nat 0) (n : optParam Nat 1) :
    (bumpWrap f s fr i n).now = s.now := rfl
@[simp] theorem bumpWrap_free (f : FieldRef) (s : State) (fr : optParam Nat 0) (i : optParam Nat 0) (n : optParam Nat 1) :
    (bumpWrap f s fr i n).free = s.free := rfl
@[simp] theorem bumpWrap_rck (f : FieldRef) (s : State) (fr : optParam Nat 0) (i : optParam Nat 0) (n : optParam Nat 1) :
    (bumpWrap f s fr i n).rck = s.rck := rfl
@[simp] theorem bumpWrap_ptp (f : FieldRef) (s : State) (fr : optParam Nat 0) (i : optParam Nat 0) (n : optParam Nat 1) :
    (bumpWrap f s fr i n).ptp = s.ptp := rfl
@[simp] theorem bumpWrap_lane (f : FieldRef) (s : State) (fr : optParam Nat 0) (i : optParam Nat 0) (n : optParam Nat 1) :
    (bumpWrap f s fr i n).lane = s.lane := rfl
@[simp] theorem bumpWrap_lfi (f : FieldRef) (s : State) (fr : optParam Nat 0) (i : optParam Nat 0) (n : optParam Nat 1) :
    (bumpWrap f s fr i n).lfi = s.lfi := rfl
@[simp] theorem bumpWrap_port (f : FieldRef) (s : State) (fr : optParam Nat 0) (i : optParam Nat 0) (n : optParam Nat 1) :
    (bumpWrap f s fr i n).port = s.port := rfl
@[simp] theorem bumpWrap_swt (f : FieldRef) (s : State) (fr : optParam Nat 0) (i : optParam Nat 0) (n : optParam Nat 1) :
    (bumpWrap f s fr i n).swt = s.swt := rfl
@[simp] theorem bumpWrap_ndl (f : FieldRef) (s : State) (fr : optParam Nat 0) (i : optParam Nat 0) (n : optParam Nat 1) :
    (bumpWrap f s fr i n).ndl = s.ndl := rfl
@[simp] theorem bumpWrap_bank (f : FieldRef) (s : State) (fr : optParam Nat 0) (i : optParam Nat 0) (n : optParam Nat 1) :
    (bumpWrap f s fr i n).bank = s.bank := rfl
@[simp] theorem bumpWrap_dist (f : FieldRef) (s : State) (fr : optParam Nat 0) (i : optParam Nat 0) (n : optParam Nat 1) :
    (bumpWrap f s fr i n).dist = s.dist := rfl
@[simp] theorem bumpWrap_skn (f : FieldRef) (s : State) (fr : optParam Nat 0) (i : optParam Nat 0) (n : optParam Nat 1) :
    (bumpWrap f s fr i n).skn = s.skn := rfl
@[simp] theorem bumpWrap_pat (f : FieldRef) (s : State) (fr : optParam Nat 0) (i : optParam Nat 0) (n : optParam Nat 1) :
    (bumpWrap f s fr i n).pat = s.pat := rfl
@[simp] theorem bumpWrap_pl (f : FieldRef) (s : State) (fr : optParam Nat 0) (i : optParam Nat 0) (n : optParam Nat 1) :
    (bumpWrap f s fr i n).pl = s.pl := rfl
@[simp] theorem bumpWrap_joint (f : FieldRef) (s : State) (fr : optParam Nat 0) (i : optParam Nat 0) (n : optParam Nat 1) :
    (bumpWrap f s fr i n).joint = s.joint := rfl
@[simp] theorem bumpWrap_mem (f : FieldRef) (s : State) (fr : optParam Nat 0) (i : optParam Nat 0) (n : optParam Nat 1) :
    (bumpWrap f s fr i n).mem = s.mem := rfl
@[simp] theorem bumpWrap_stl (f : FieldRef) (s : State) (fr : optParam Nat 0) (i : optParam Nat 0) (n : optParam Nat 1) :
    (bumpWrap f s fr i n).stl = s.stl := rfl
@[simp] theorem bumpWrap_eth (f : FieldRef) (s : State) (fr : optParam Nat 0) (i : optParam Nat 0) (n : optParam Nat 1) :
    (bumpWrap f s fr i n).eth = s.eth := rfl
@[simp] theorem bumpWrap_ssw (f : FieldRef) (s : State) (fr : optParam Nat 0) (i : optParam Nat 0) (n : optParam Nat 1) :
    (bumpWrap f s fr i n).ssw = s.ssw := rfl
@[simp] theorem bumpWrap_ft (f : FieldRef) (s : State) (fr : optParam Nat 0) (i : optParam Nat 0) (n : optParam Nat 1) :
    (bumpWrap f s fr i n).ft = s.ft := rfl
@[simp] theorem bumpWrap_arrivals (f : FieldRef) (s : State) (fr : optParam Nat 0) (i : optParam Nat 0) (n : optParam Nat 1) :
    (bumpWrap f s fr i n).arrivals = s.arrivals := rfl
@[simp] theorem bumpWrap_ict (f : FieldRef) (s : State) (fr : optParam Nat 0) (i : optParam Nat 0) (n : optParam Nat 1) :
    (bumpWrap f s fr i n).ict = s.ict := rfl
@[simp] theorem bumpWrap_mbx (f : FieldRef) (s : State) (fr : optParam Nat 0) (i : optParam Nat 0) (n : optParam Nat 1) :
    (bumpWrap f s fr i n).mbx = s.mbx := rfl
@[simp] theorem bumpWrap_sem (f : FieldRef) (s : State) (fr : optParam Nat 0) (i : optParam Nat 0) (n : optParam Nat 1) :
    (bumpWrap f s fr i n).sem = s.sem := rfl
@[simp] theorem bumpWrap_pwr (f : FieldRef) (s : State) (fr : optParam Nat 0) (i : optParam Nat 0) (n : optParam Nat 1) :
    (bumpWrap f s fr i n).pwr = s.pwr := rfl
@[simp] theorem bumpWrap_fcl (f : FieldRef) (s : State) (fr : optParam Nat 0) (i : optParam Nat 0) (n : optParam Nat 1) :
    (bumpWrap f s fr i n).fcl = s.fcl := rfl
@[simp] theorem bumpWrap_ldg (f : FieldRef) (s : State) (fr : optParam Nat 0) (i : optParam Nat 0) (n : optParam Nat 1) :
    (bumpWrap f s fr i n).ldg = s.ldg := rfl
@[simp] theorem bumpWrap_tly (f : FieldRef) (s : State) (fr : optParam Nat 0) (i : optParam Nat 0) (n : optParam Nat 1) :
    (bumpWrap f s fr i n).tly = s.tly := rfl
@[simp] theorem bumpWrap_sth (f : FieldRef) (s : State) (fr : optParam Nat 0) (i : optParam Nat 0) (n : optParam Nat 1) :
    (bumpWrap f s fr i n).sth = s.sth := rfl
@[simp] theorem bumpWrap_sec (f : FieldRef) (s : State) (fr : optParam Nat 0) (i : optParam Nat 0) (n : optParam Nat 1) :
    (bumpWrap f s fr i n).sec = s.sec := rfl
@[simp] theorem bumpWrap_mag (f : FieldRef) (s : State) (fr : optParam Nat 0) (i : optParam Nat 0) (n : optParam Nat 1) :
    (bumpWrap f s fr i n).mag = s.mag := rfl
@[simp] theorem bumpWrap_magIn (f : FieldRef) (s : State) (fr : optParam Nat 0) (i : optParam Nat 0) (n : optParam Nat 1) :
    (bumpWrap f s fr i n).magIn = s.magIn := rfl
@[simp] theorem bumpWrap_prt (f : FieldRef) (s : State) (fr : optParam Nat 0) (i : optParam Nat 0) (n : optParam Nat 1) :
    (bumpWrap f s fr i n).prt = s.prt := rfl
@[simp] theorem bumpWrap_staged (f : FieldRef) (s : State) (fr : optParam Nat 0) (i : optParam Nat 0) (n : optParam Nat 1) :
    (bumpWrap f s fr i n).bus.staged = s.bus.staged := setFld_staged _ _ _ _ _
@[simp] theorem bumpWrap_latched (f : FieldRef) (s : State) (fr : optParam Nat 0) (i : optParam Nat 0) (n : optParam Nat 1) :
    (bumpWrap f s fr i n).bus.latched = s.bus.latched := setFld_latched _ _ _ _ _
@[simp] theorem bumpWrap_keys (f : FieldRef) (s : State) (fr : optParam Nat 0) (i : optParam Nat 0) (n : optParam Nat 1) :
    (bumpWrap f s fr i n).bus.keys = s.bus.keys := setFld_keys _ _ _ _ _
@[simp] theorem bumpWrap_rrPtr (f : FieldRef) (s : State) (fr : optParam Nat 0) (i : optParam Nat 0) (n : optParam Nat 1) :
    (bumpWrap f s fr i n).bus.rrPtr = s.bus.rrPtr := setFld_rrPtr _ _ _ _ _
@[simp] theorem bumpWrap_parBad (f : FieldRef) (s : State) (fr : optParam Nat 0) (i : optParam Nat 0) (n : optParam Nat 1) :
    (bumpWrap f s fr i n).bus.parBad = s.bus.parBad := setFld_parBad _ _ _ _ _
@[simp] theorem bumpWrap_parReported (f : FieldRef) (s : State) (fr : optParam Nat 0) (i : optParam Nat 0) (n : optParam Nat 1) :
    (bumpWrap f s fr i n).bus.parReported = s.bus.parReported := setFld_parReported _ _ _ _ _
@[simp] theorem bumpWrap_answers (f : FieldRef) (s : State) (fr : optParam Nat 0) (i : optParam Nat 0) (n : optParam Nat 1) :
    (bumpWrap f s fr i n).bus.answers = s.bus.answers := setFld_answers _ _ _ _ _
@[simp] theorem bumpWrap_parPos (f : FieldRef) (s : State) (fr : optParam Nat 0) (i : optParam Nat 0) (n : optParam Nat 1) :
    (bumpWrap f s fr i n).bus.parPos = s.bus.parPos := setFld_parPos _ _ _ _ _
@[simp] theorem bumpWrap_parAt (f : FieldRef) (s : State) (fr : optParam Nat 0) (i : optParam Nat 0) (n : optParam Nat 1) :
    (bumpWrap f s fr i n).bus.parAt = s.bus.parAt := setFld_parAt _ _ _ _ _
@[simp] theorem bumpWrap_wroteNow (f : FieldRef) (s : State) (fr : optParam Nat 0) (i : optParam Nat 0) (n : optParam Nat 1) :
    (bumpWrap f s fr i n).bus.wroteNow = s.bus.wroteNow := setFld_wroteNow _ _ _ _ _

@[simp] theorem takeFree_pending (s : State) :
    (takeFree s).pending = s.pending := rfl
@[simp] theorem takeFree_now (s : State) :
    (takeFree s).now = s.now := rfl
@[simp] theorem takeFree_bus (s : State) :
    (takeFree s).bus = s.bus := rfl
@[simp] theorem takeFree_rck (s : State) :
    (takeFree s).rck = s.rck := rfl
@[simp] theorem takeFree_ptp (s : State) :
    (takeFree s).ptp = s.ptp := rfl
@[simp] theorem takeFree_lane (s : State) :
    (takeFree s).lane = s.lane := rfl
@[simp] theorem takeFree_lfi (s : State) :
    (takeFree s).lfi = s.lfi := rfl
@[simp] theorem takeFree_port (s : State) :
    (takeFree s).port = s.port := rfl
@[simp] theorem takeFree_swt (s : State) :
    (takeFree s).swt = s.swt := rfl
@[simp] theorem takeFree_ndl (s : State) :
    (takeFree s).ndl = s.ndl := rfl
@[simp] theorem takeFree_bank (s : State) :
    (takeFree s).bank = s.bank := rfl
@[simp] theorem takeFree_dist (s : State) :
    (takeFree s).dist = s.dist := rfl
@[simp] theorem takeFree_skn (s : State) :
    (takeFree s).skn = s.skn := rfl
@[simp] theorem takeFree_pat (s : State) :
    (takeFree s).pat = s.pat := rfl
@[simp] theorem takeFree_pl (s : State) :
    (takeFree s).pl = s.pl := rfl
@[simp] theorem takeFree_joint (s : State) :
    (takeFree s).joint = s.joint := rfl
@[simp] theorem takeFree_mem (s : State) :
    (takeFree s).mem = s.mem := rfl
@[simp] theorem takeFree_stl (s : State) :
    (takeFree s).stl = s.stl := rfl
@[simp] theorem takeFree_eth (s : State) :
    (takeFree s).eth = s.eth := rfl
@[simp] theorem takeFree_ssw (s : State) :
    (takeFree s).ssw = s.ssw := rfl
@[simp] theorem takeFree_ft (s : State) :
    (takeFree s).ft = s.ft := rfl
@[simp] theorem takeFree_arrivals (s : State) :
    (takeFree s).arrivals = s.arrivals := rfl
@[simp] theorem takeFree_ict (s : State) :
    (takeFree s).ict = s.ict := rfl
@[simp] theorem takeFree_mbx (s : State) :
    (takeFree s).mbx = s.mbx := rfl
@[simp] theorem takeFree_sem (s : State) :
    (takeFree s).sem = s.sem := rfl
@[simp] theorem takeFree_pwr (s : State) :
    (takeFree s).pwr = s.pwr := rfl
@[simp] theorem takeFree_fcl (s : State) :
    (takeFree s).fcl = s.fcl := rfl
@[simp] theorem takeFree_ldg (s : State) :
    (takeFree s).ldg = s.ldg := rfl
@[simp] theorem takeFree_tly (s : State) :
    (takeFree s).tly = s.tly := rfl
@[simp] theorem takeFree_sth (s : State) :
    (takeFree s).sth = s.sth := rfl
@[simp] theorem takeFree_sec (s : State) :
    (takeFree s).sec = s.sec := rfl
@[simp] theorem takeFree_mag (s : State) :
    (takeFree s).mag = s.mag := rfl
@[simp] theorem takeFree_magIn (s : State) :
    (takeFree s).magIn = s.magIn := rfl
@[simp] theorem takeFree_prt (s : State) :
    (takeFree s).prt = s.prt := rfl

@[simp] theorem setUp_pending (d : Nat) (b : Bool) (s : State) :
    (setUp d b s).pending = s.pending := rfl
@[simp] theorem setUp_now (d : Nat) (b : Bool) (s : State) :
    (setUp d b s).now = s.now := rfl
@[simp] theorem setUp_free (d : Nat) (b : Bool) (s : State) :
    (setUp d b s).free = s.free := rfl
@[simp] theorem setUp_bus (d : Nat) (b : Bool) (s : State) :
    (setUp d b s).bus = s.bus := rfl
@[simp] theorem setUp_rck (d : Nat) (b : Bool) (s : State) :
    (setUp d b s).rck = s.rck := rfl
@[simp] theorem setUp_ptp (d : Nat) (b : Bool) (s : State) :
    (setUp d b s).ptp = s.ptp := rfl
@[simp] theorem setUp_lane (d : Nat) (b : Bool) (s : State) :
    (setUp d b s).lane = s.lane := rfl
@[simp] theorem setUp_lfi (d : Nat) (b : Bool) (s : State) :
    (setUp d b s).lfi = s.lfi := rfl
@[simp] theorem setUp_port (d : Nat) (b : Bool) (s : State) :
    (setUp d b s).port = s.port := rfl
@[simp] theorem setUp_swt (d : Nat) (b : Bool) (s : State) :
    (setUp d b s).swt = s.swt := rfl
@[simp] theorem setUp_ndl (d : Nat) (b : Bool) (s : State) :
    (setUp d b s).ndl = s.ndl := rfl
@[simp] theorem setUp_bank (d : Nat) (b : Bool) (s : State) :
    (setUp d b s).bank = s.bank := rfl
@[simp] theorem setUp_dist (d : Nat) (b : Bool) (s : State) :
    (setUp d b s).dist = s.dist := rfl
@[simp] theorem setUp_skn (d : Nat) (b : Bool) (s : State) :
    (setUp d b s).skn = s.skn := rfl
@[simp] theorem setUp_pat (d : Nat) (b : Bool) (s : State) :
    (setUp d b s).pat = s.pat := rfl
@[simp] theorem setUp_pl (d : Nat) (b : Bool) (s : State) :
    (setUp d b s).pl = s.pl := rfl
@[simp] theorem setUp_joint (d : Nat) (b : Bool) (s : State) :
    (setUp d b s).joint = s.joint := rfl
@[simp] theorem setUp_mem (d : Nat) (b : Bool) (s : State) :
    (setUp d b s).mem = s.mem := rfl
@[simp] theorem setUp_stl (d : Nat) (b : Bool) (s : State) :
    (setUp d b s).stl = s.stl := rfl
@[simp] theorem setUp_eth (d : Nat) (b : Bool) (s : State) :
    (setUp d b s).eth = s.eth := rfl
@[simp] theorem setUp_ssw (d : Nat) (b : Bool) (s : State) :
    (setUp d b s).ssw = s.ssw := rfl
@[simp] theorem setUp_ft (d : Nat) (b : Bool) (s : State) :
    (setUp d b s).ft = s.ft := rfl
@[simp] theorem setUp_arrivals (d : Nat) (b : Bool) (s : State) :
    (setUp d b s).arrivals = s.arrivals := rfl
@[simp] theorem setUp_ict (d : Nat) (b : Bool) (s : State) :
    (setUp d b s).ict = s.ict := rfl
@[simp] theorem setUp_mbx (d : Nat) (b : Bool) (s : State) :
    (setUp d b s).mbx = s.mbx := rfl
@[simp] theorem setUp_sem (d : Nat) (b : Bool) (s : State) :
    (setUp d b s).sem = s.sem := rfl
@[simp] theorem setUp_fcl (d : Nat) (b : Bool) (s : State) :
    (setUp d b s).fcl = s.fcl := rfl
@[simp] theorem setUp_ldg (d : Nat) (b : Bool) (s : State) :
    (setUp d b s).ldg = s.ldg := rfl
@[simp] theorem setUp_tly (d : Nat) (b : Bool) (s : State) :
    (setUp d b s).tly = s.tly := rfl
@[simp] theorem setUp_sth (d : Nat) (b : Bool) (s : State) :
    (setUp d b s).sth = s.sth := rfl
@[simp] theorem setUp_sec (d : Nat) (b : Bool) (s : State) :
    (setUp d b s).sec = s.sec := rfl
@[simp] theorem setUp_mag (d : Nat) (b : Bool) (s : State) :
    (setUp d b s).mag = s.mag := rfl
@[simp] theorem setUp_magIn (d : Nat) (b : Bool) (s : State) :
    (setUp d b s).magIn = s.magIn := rfl
@[simp] theorem setUp_prt (d : Nat) (b : Bool) (s : State) :
    (setUp d b s).prt = s.prt := rfl

@[simp] theorem setDomReq_pending (d : Nat) (b : Bool) (s : State) :
    (setDomReq d b s).pending = s.pending := rfl
@[simp] theorem setDomReq_now (d : Nat) (b : Bool) (s : State) :
    (setDomReq d b s).now = s.now := rfl
@[simp] theorem setDomReq_free (d : Nat) (b : Bool) (s : State) :
    (setDomReq d b s).free = s.free := rfl
@[simp] theorem setDomReq_rck (d : Nat) (b : Bool) (s : State) :
    (setDomReq d b s).rck = s.rck := rfl
@[simp] theorem setDomReq_ptp (d : Nat) (b : Bool) (s : State) :
    (setDomReq d b s).ptp = s.ptp := rfl
@[simp] theorem setDomReq_lane (d : Nat) (b : Bool) (s : State) :
    (setDomReq d b s).lane = s.lane := rfl
@[simp] theorem setDomReq_lfi (d : Nat) (b : Bool) (s : State) :
    (setDomReq d b s).lfi = s.lfi := rfl
@[simp] theorem setDomReq_port (d : Nat) (b : Bool) (s : State) :
    (setDomReq d b s).port = s.port := rfl
@[simp] theorem setDomReq_swt (d : Nat) (b : Bool) (s : State) :
    (setDomReq d b s).swt = s.swt := rfl
@[simp] theorem setDomReq_ndl (d : Nat) (b : Bool) (s : State) :
    (setDomReq d b s).ndl = s.ndl := rfl
@[simp] theorem setDomReq_bank (d : Nat) (b : Bool) (s : State) :
    (setDomReq d b s).bank = s.bank := rfl
@[simp] theorem setDomReq_dist (d : Nat) (b : Bool) (s : State) :
    (setDomReq d b s).dist = s.dist := rfl
@[simp] theorem setDomReq_skn (d : Nat) (b : Bool) (s : State) :
    (setDomReq d b s).skn = s.skn := rfl
@[simp] theorem setDomReq_pat (d : Nat) (b : Bool) (s : State) :
    (setDomReq d b s).pat = s.pat := rfl
@[simp] theorem setDomReq_pl (d : Nat) (b : Bool) (s : State) :
    (setDomReq d b s).pl = s.pl := rfl
@[simp] theorem setDomReq_joint (d : Nat) (b : Bool) (s : State) :
    (setDomReq d b s).joint = s.joint := rfl
@[simp] theorem setDomReq_mem (d : Nat) (b : Bool) (s : State) :
    (setDomReq d b s).mem = s.mem := rfl
@[simp] theorem setDomReq_stl (d : Nat) (b : Bool) (s : State) :
    (setDomReq d b s).stl = s.stl := rfl
@[simp] theorem setDomReq_eth (d : Nat) (b : Bool) (s : State) :
    (setDomReq d b s).eth = s.eth := rfl
@[simp] theorem setDomReq_ssw (d : Nat) (b : Bool) (s : State) :
    (setDomReq d b s).ssw = s.ssw := rfl
@[simp] theorem setDomReq_ft (d : Nat) (b : Bool) (s : State) :
    (setDomReq d b s).ft = s.ft := rfl
@[simp] theorem setDomReq_arrivals (d : Nat) (b : Bool) (s : State) :
    (setDomReq d b s).arrivals = s.arrivals := rfl
@[simp] theorem setDomReq_ict (d : Nat) (b : Bool) (s : State) :
    (setDomReq d b s).ict = s.ict := rfl
@[simp] theorem setDomReq_mbx (d : Nat) (b : Bool) (s : State) :
    (setDomReq d b s).mbx = s.mbx := rfl
@[simp] theorem setDomReq_sem (d : Nat) (b : Bool) (s : State) :
    (setDomReq d b s).sem = s.sem := rfl
@[simp] theorem setDomReq_pwr (d : Nat) (b : Bool) (s : State) :
    (setDomReq d b s).pwr = s.pwr := rfl
@[simp] theorem setDomReq_fcl (d : Nat) (b : Bool) (s : State) :
    (setDomReq d b s).fcl = s.fcl := rfl
@[simp] theorem setDomReq_ldg (d : Nat) (b : Bool) (s : State) :
    (setDomReq d b s).ldg = s.ldg := rfl
@[simp] theorem setDomReq_tly (d : Nat) (b : Bool) (s : State) :
    (setDomReq d b s).tly = s.tly := rfl
@[simp] theorem setDomReq_sth (d : Nat) (b : Bool) (s : State) :
    (setDomReq d b s).sth = s.sth := rfl
@[simp] theorem setDomReq_sec (d : Nat) (b : Bool) (s : State) :
    (setDomReq d b s).sec = s.sec := rfl
@[simp] theorem setDomReq_mag (d : Nat) (b : Bool) (s : State) :
    (setDomReq d b s).mag = s.mag := rfl
@[simp] theorem setDomReq_magIn (d : Nat) (b : Bool) (s : State) :
    (setDomReq d b s).magIn = s.magIn := rfl
@[simp] theorem setDomReq_prt (d : Nat) (b : Bool) (s : State) :
    (setDomReq d b s).prt = s.prt := rfl
@[simp] theorem setDomReq_staged (d : Nat) (b : Bool) (s : State) :
    (setDomReq d b s).bus.staged = s.bus.staged := setRword_staged _ _ _ _ _ _
@[simp] theorem setDomReq_latched (d : Nat) (b : Bool) (s : State) :
    (setDomReq d b s).bus.latched = s.bus.latched := setRword_latched _ _ _ _ _ _
@[simp] theorem setDomReq_keys (d : Nat) (b : Bool) (s : State) :
    (setDomReq d b s).bus.keys = s.bus.keys := setRword_keys _ _ _ _ _ _
@[simp] theorem setDomReq_rrPtr (d : Nat) (b : Bool) (s : State) :
    (setDomReq d b s).bus.rrPtr = s.bus.rrPtr := setRword_rrPtr _ _ _ _ _ _
@[simp] theorem setDomReq_parBad (d : Nat) (b : Bool) (s : State) :
    (setDomReq d b s).bus.parBad = s.bus.parBad := setRword_parBad _ _ _ _ _ _
@[simp] theorem setDomReq_parReported (d : Nat) (b : Bool) (s : State) :
    (setDomReq d b s).bus.parReported = s.bus.parReported := setRword_parReported _ _ _ _ _ _
@[simp] theorem setDomReq_answers (d : Nat) (b : Bool) (s : State) :
    (setDomReq d b s).bus.answers = s.bus.answers := setRword_answers _ _ _ _ _ _
@[simp] theorem setDomReq_parPos (d : Nat) (b : Bool) (s : State) :
    (setDomReq d b s).bus.parPos = s.bus.parPos := setRword_parPos _ _ _ _ _ _
@[simp] theorem setDomReq_parAt (d : Nat) (b : Bool) (s : State) :
    (setDomReq d b s).bus.parAt = s.bus.parAt := setRword_parAt _ _ _ _ _ _
@[simp] theorem setDomReq_wroteNow (d : Nat) (b : Bool) (s : State) :
    (setDomReq d b s).bus.wroteNow = s.bus.wroteNow := setRword_wroteNow _ _ _ _ _ _

@[simp] theorem modSrc_pending (n : Nat) (f : IctSrc → IctSrc) (s : State) :
    (modSrc n f s).pending = s.pending := rfl
@[simp] theorem modSrc_now (n : Nat) (f : IctSrc → IctSrc) (s : State) :
    (modSrc n f s).now = s.now := rfl
@[simp] theorem modSrc_free (n : Nat) (f : IctSrc → IctSrc) (s : State) :
    (modSrc n f s).free = s.free := rfl
@[simp] theorem modSrc_bus (n : Nat) (f : IctSrc → IctSrc) (s : State) :
    (modSrc n f s).bus = s.bus := rfl
@[simp] theorem modSrc_rck (n : Nat) (f : IctSrc → IctSrc) (s : State) :
    (modSrc n f s).rck = s.rck := rfl
@[simp] theorem modSrc_ptp (n : Nat) (f : IctSrc → IctSrc) (s : State) :
    (modSrc n f s).ptp = s.ptp := rfl
@[simp] theorem modSrc_lane (n : Nat) (f : IctSrc → IctSrc) (s : State) :
    (modSrc n f s).lane = s.lane := rfl
@[simp] theorem modSrc_lfi (n : Nat) (f : IctSrc → IctSrc) (s : State) :
    (modSrc n f s).lfi = s.lfi := rfl
@[simp] theorem modSrc_port (n : Nat) (f : IctSrc → IctSrc) (s : State) :
    (modSrc n f s).port = s.port := rfl
@[simp] theorem modSrc_swt (n : Nat) (f : IctSrc → IctSrc) (s : State) :
    (modSrc n f s).swt = s.swt := rfl
@[simp] theorem modSrc_ndl (n : Nat) (f : IctSrc → IctSrc) (s : State) :
    (modSrc n f s).ndl = s.ndl := rfl
@[simp] theorem modSrc_bank (n : Nat) (f : IctSrc → IctSrc) (s : State) :
    (modSrc n f s).bank = s.bank := rfl
@[simp] theorem modSrc_dist (n : Nat) (f : IctSrc → IctSrc) (s : State) :
    (modSrc n f s).dist = s.dist := rfl
@[simp] theorem modSrc_skn (n : Nat) (f : IctSrc → IctSrc) (s : State) :
    (modSrc n f s).skn = s.skn := rfl
@[simp] theorem modSrc_pat (n : Nat) (f : IctSrc → IctSrc) (s : State) :
    (modSrc n f s).pat = s.pat := rfl
@[simp] theorem modSrc_pl (n : Nat) (f : IctSrc → IctSrc) (s : State) :
    (modSrc n f s).pl = s.pl := rfl
@[simp] theorem modSrc_joint (n : Nat) (f : IctSrc → IctSrc) (s : State) :
    (modSrc n f s).joint = s.joint := rfl
@[simp] theorem modSrc_mem (n : Nat) (f : IctSrc → IctSrc) (s : State) :
    (modSrc n f s).mem = s.mem := rfl
@[simp] theorem modSrc_stl (n : Nat) (f : IctSrc → IctSrc) (s : State) :
    (modSrc n f s).stl = s.stl := rfl
@[simp] theorem modSrc_eth (n : Nat) (f : IctSrc → IctSrc) (s : State) :
    (modSrc n f s).eth = s.eth := rfl
@[simp] theorem modSrc_ssw (n : Nat) (f : IctSrc → IctSrc) (s : State) :
    (modSrc n f s).ssw = s.ssw := rfl
@[simp] theorem modSrc_ft (n : Nat) (f : IctSrc → IctSrc) (s : State) :
    (modSrc n f s).ft = s.ft := rfl
@[simp] theorem modSrc_arrivals (n : Nat) (f : IctSrc → IctSrc) (s : State) :
    (modSrc n f s).arrivals = s.arrivals := rfl
@[simp] theorem modSrc_mbx (n : Nat) (f : IctSrc → IctSrc) (s : State) :
    (modSrc n f s).mbx = s.mbx := rfl
@[simp] theorem modSrc_sem (n : Nat) (f : IctSrc → IctSrc) (s : State) :
    (modSrc n f s).sem = s.sem := rfl
@[simp] theorem modSrc_pwr (n : Nat) (f : IctSrc → IctSrc) (s : State) :
    (modSrc n f s).pwr = s.pwr := rfl
@[simp] theorem modSrc_fcl (n : Nat) (f : IctSrc → IctSrc) (s : State) :
    (modSrc n f s).fcl = s.fcl := rfl
@[simp] theorem modSrc_ldg (n : Nat) (f : IctSrc → IctSrc) (s : State) :
    (modSrc n f s).ldg = s.ldg := rfl
@[simp] theorem modSrc_tly (n : Nat) (f : IctSrc → IctSrc) (s : State) :
    (modSrc n f s).tly = s.tly := rfl
@[simp] theorem modSrc_sth (n : Nat) (f : IctSrc → IctSrc) (s : State) :
    (modSrc n f s).sth = s.sth := rfl
@[simp] theorem modSrc_sec (n : Nat) (f : IctSrc → IctSrc) (s : State) :
    (modSrc n f s).sec = s.sec := rfl
@[simp] theorem modSrc_mag (n : Nat) (f : IctSrc → IctSrc) (s : State) :
    (modSrc n f s).mag = s.mag := rfl
@[simp] theorem modSrc_magIn (n : Nat) (f : IctSrc → IctSrc) (s : State) :
    (modSrc n f s).magIn = s.magIn := rfl
@[simp] theorem modSrc_prt (n : Nat) (f : IctSrc → IctSrc) (s : State) :
    (modSrc n f s).prt = s.prt := rfl

@[simp] theorem modGroup_pending (g : Nat) (f : IctGroup → IctGroup) (s : State) :
    (modGroup g f s).pending = s.pending := rfl
@[simp] theorem modGroup_now (g : Nat) (f : IctGroup → IctGroup) (s : State) :
    (modGroup g f s).now = s.now := rfl
@[simp] theorem modGroup_free (g : Nat) (f : IctGroup → IctGroup) (s : State) :
    (modGroup g f s).free = s.free := rfl
@[simp] theorem modGroup_bus (g : Nat) (f : IctGroup → IctGroup) (s : State) :
    (modGroup g f s).bus = s.bus := rfl
@[simp] theorem modGroup_rck (g : Nat) (f : IctGroup → IctGroup) (s : State) :
    (modGroup g f s).rck = s.rck := rfl
@[simp] theorem modGroup_ptp (g : Nat) (f : IctGroup → IctGroup) (s : State) :
    (modGroup g f s).ptp = s.ptp := rfl
@[simp] theorem modGroup_lane (g : Nat) (f : IctGroup → IctGroup) (s : State) :
    (modGroup g f s).lane = s.lane := rfl
@[simp] theorem modGroup_lfi (g : Nat) (f : IctGroup → IctGroup) (s : State) :
    (modGroup g f s).lfi = s.lfi := rfl
@[simp] theorem modGroup_port (g : Nat) (f : IctGroup → IctGroup) (s : State) :
    (modGroup g f s).port = s.port := rfl
@[simp] theorem modGroup_swt (g : Nat) (f : IctGroup → IctGroup) (s : State) :
    (modGroup g f s).swt = s.swt := rfl
@[simp] theorem modGroup_ndl (g : Nat) (f : IctGroup → IctGroup) (s : State) :
    (modGroup g f s).ndl = s.ndl := rfl
@[simp] theorem modGroup_bank (g : Nat) (f : IctGroup → IctGroup) (s : State) :
    (modGroup g f s).bank = s.bank := rfl
@[simp] theorem modGroup_dist (g : Nat) (f : IctGroup → IctGroup) (s : State) :
    (modGroup g f s).dist = s.dist := rfl
@[simp] theorem modGroup_skn (g : Nat) (f : IctGroup → IctGroup) (s : State) :
    (modGroup g f s).skn = s.skn := rfl
@[simp] theorem modGroup_pat (g : Nat) (f : IctGroup → IctGroup) (s : State) :
    (modGroup g f s).pat = s.pat := rfl
@[simp] theorem modGroup_pl (g : Nat) (f : IctGroup → IctGroup) (s : State) :
    (modGroup g f s).pl = s.pl := rfl
@[simp] theorem modGroup_joint (g : Nat) (f : IctGroup → IctGroup) (s : State) :
    (modGroup g f s).joint = s.joint := rfl
@[simp] theorem modGroup_mem (g : Nat) (f : IctGroup → IctGroup) (s : State) :
    (modGroup g f s).mem = s.mem := rfl
@[simp] theorem modGroup_stl (g : Nat) (f : IctGroup → IctGroup) (s : State) :
    (modGroup g f s).stl = s.stl := rfl
@[simp] theorem modGroup_eth (g : Nat) (f : IctGroup → IctGroup) (s : State) :
    (modGroup g f s).eth = s.eth := rfl
@[simp] theorem modGroup_ssw (g : Nat) (f : IctGroup → IctGroup) (s : State) :
    (modGroup g f s).ssw = s.ssw := rfl
@[simp] theorem modGroup_ft (g : Nat) (f : IctGroup → IctGroup) (s : State) :
    (modGroup g f s).ft = s.ft := rfl
@[simp] theorem modGroup_arrivals (g : Nat) (f : IctGroup → IctGroup) (s : State) :
    (modGroup g f s).arrivals = s.arrivals := rfl
@[simp] theorem modGroup_mbx (g : Nat) (f : IctGroup → IctGroup) (s : State) :
    (modGroup g f s).mbx = s.mbx := rfl
@[simp] theorem modGroup_sem (g : Nat) (f : IctGroup → IctGroup) (s : State) :
    (modGroup g f s).sem = s.sem := rfl
@[simp] theorem modGroup_pwr (g : Nat) (f : IctGroup → IctGroup) (s : State) :
    (modGroup g f s).pwr = s.pwr := rfl
@[simp] theorem modGroup_fcl (g : Nat) (f : IctGroup → IctGroup) (s : State) :
    (modGroup g f s).fcl = s.fcl := rfl
@[simp] theorem modGroup_ldg (g : Nat) (f : IctGroup → IctGroup) (s : State) :
    (modGroup g f s).ldg = s.ldg := rfl
@[simp] theorem modGroup_tly (g : Nat) (f : IctGroup → IctGroup) (s : State) :
    (modGroup g f s).tly = s.tly := rfl
@[simp] theorem modGroup_sth (g : Nat) (f : IctGroup → IctGroup) (s : State) :
    (modGroup g f s).sth = s.sth := rfl
@[simp] theorem modGroup_sec (g : Nat) (f : IctGroup → IctGroup) (s : State) :
    (modGroup g f s).sec = s.sec := rfl
@[simp] theorem modGroup_mag (g : Nat) (f : IctGroup → IctGroup) (s : State) :
    (modGroup g f s).mag = s.mag := rfl
@[simp] theorem modGroup_magIn (g : Nat) (f : IctGroup → IctGroup) (s : State) :
    (modGroup g f s).magIn = s.magIn := rfl
@[simp] theorem modGroup_prt (g : Nat) (f : IctGroup → IctGroup) (s : State) :
    (modGroup g f s).prt = s.prt := rfl

@[simp] theorem modCtx_pending (n : Nat) (f : IctCtx → IctCtx) (s : State) :
    (modCtx n f s).pending = s.pending := rfl
@[simp] theorem modCtx_now (n : Nat) (f : IctCtx → IctCtx) (s : State) :
    (modCtx n f s).now = s.now := rfl
@[simp] theorem modCtx_free (n : Nat) (f : IctCtx → IctCtx) (s : State) :
    (modCtx n f s).free = s.free := rfl
@[simp] theorem modCtx_bus (n : Nat) (f : IctCtx → IctCtx) (s : State) :
    (modCtx n f s).bus = s.bus := rfl
@[simp] theorem modCtx_rck (n : Nat) (f : IctCtx → IctCtx) (s : State) :
    (modCtx n f s).rck = s.rck := rfl
@[simp] theorem modCtx_ptp (n : Nat) (f : IctCtx → IctCtx) (s : State) :
    (modCtx n f s).ptp = s.ptp := rfl
@[simp] theorem modCtx_lane (n : Nat) (f : IctCtx → IctCtx) (s : State) :
    (modCtx n f s).lane = s.lane := rfl
@[simp] theorem modCtx_lfi (n : Nat) (f : IctCtx → IctCtx) (s : State) :
    (modCtx n f s).lfi = s.lfi := rfl
@[simp] theorem modCtx_port (n : Nat) (f : IctCtx → IctCtx) (s : State) :
    (modCtx n f s).port = s.port := rfl
@[simp] theorem modCtx_swt (n : Nat) (f : IctCtx → IctCtx) (s : State) :
    (modCtx n f s).swt = s.swt := rfl
@[simp] theorem modCtx_ndl (n : Nat) (f : IctCtx → IctCtx) (s : State) :
    (modCtx n f s).ndl = s.ndl := rfl
@[simp] theorem modCtx_bank (n : Nat) (f : IctCtx → IctCtx) (s : State) :
    (modCtx n f s).bank = s.bank := rfl
@[simp] theorem modCtx_dist (n : Nat) (f : IctCtx → IctCtx) (s : State) :
    (modCtx n f s).dist = s.dist := rfl
@[simp] theorem modCtx_skn (n : Nat) (f : IctCtx → IctCtx) (s : State) :
    (modCtx n f s).skn = s.skn := rfl
@[simp] theorem modCtx_pat (n : Nat) (f : IctCtx → IctCtx) (s : State) :
    (modCtx n f s).pat = s.pat := rfl
@[simp] theorem modCtx_pl (n : Nat) (f : IctCtx → IctCtx) (s : State) :
    (modCtx n f s).pl = s.pl := rfl
@[simp] theorem modCtx_joint (n : Nat) (f : IctCtx → IctCtx) (s : State) :
    (modCtx n f s).joint = s.joint := rfl
@[simp] theorem modCtx_mem (n : Nat) (f : IctCtx → IctCtx) (s : State) :
    (modCtx n f s).mem = s.mem := rfl
@[simp] theorem modCtx_stl (n : Nat) (f : IctCtx → IctCtx) (s : State) :
    (modCtx n f s).stl = s.stl := rfl
@[simp] theorem modCtx_eth (n : Nat) (f : IctCtx → IctCtx) (s : State) :
    (modCtx n f s).eth = s.eth := rfl
@[simp] theorem modCtx_ssw (n : Nat) (f : IctCtx → IctCtx) (s : State) :
    (modCtx n f s).ssw = s.ssw := rfl
@[simp] theorem modCtx_ft (n : Nat) (f : IctCtx → IctCtx) (s : State) :
    (modCtx n f s).ft = s.ft := rfl
@[simp] theorem modCtx_arrivals (n : Nat) (f : IctCtx → IctCtx) (s : State) :
    (modCtx n f s).arrivals = s.arrivals := rfl
@[simp] theorem modCtx_mbx (n : Nat) (f : IctCtx → IctCtx) (s : State) :
    (modCtx n f s).mbx = s.mbx := rfl
@[simp] theorem modCtx_sem (n : Nat) (f : IctCtx → IctCtx) (s : State) :
    (modCtx n f s).sem = s.sem := rfl
@[simp] theorem modCtx_pwr (n : Nat) (f : IctCtx → IctCtx) (s : State) :
    (modCtx n f s).pwr = s.pwr := rfl
@[simp] theorem modCtx_fcl (n : Nat) (f : IctCtx → IctCtx) (s : State) :
    (modCtx n f s).fcl = s.fcl := rfl
@[simp] theorem modCtx_ldg (n : Nat) (f : IctCtx → IctCtx) (s : State) :
    (modCtx n f s).ldg = s.ldg := rfl
@[simp] theorem modCtx_tly (n : Nat) (f : IctCtx → IctCtx) (s : State) :
    (modCtx n f s).tly = s.tly := rfl
@[simp] theorem modCtx_sth (n : Nat) (f : IctCtx → IctCtx) (s : State) :
    (modCtx n f s).sth = s.sth := rfl
@[simp] theorem modCtx_sec (n : Nat) (f : IctCtx → IctCtx) (s : State) :
    (modCtx n f s).sec = s.sec := rfl
@[simp] theorem modCtx_mag (n : Nat) (f : IctCtx → IctCtx) (s : State) :
    (modCtx n f s).mag = s.mag := rfl
@[simp] theorem modCtx_magIn (n : Nat) (f : IctCtx → IctCtx) (s : State) :
    (modCtx n f s).magIn = s.magIn := rfl
@[simp] theorem modCtx_prt (n : Nat) (f : IctCtx → IctCtx) (s : State) :
    (modCtx n f s).prt = s.prt := rfl

@[simp] theorem modLane_pending (n : Nat) (f : Lane → Lane) (s : State) :
    (modLane n f s).pending = s.pending := rfl
@[simp] theorem modLane_now (n : Nat) (f : Lane → Lane) (s : State) :
    (modLane n f s).now = s.now := rfl
@[simp] theorem modLane_free (n : Nat) (f : Lane → Lane) (s : State) :
    (modLane n f s).free = s.free := rfl
@[simp] theorem modLane_bus (n : Nat) (f : Lane → Lane) (s : State) :
    (modLane n f s).bus = s.bus := rfl
@[simp] theorem modLane_rck (n : Nat) (f : Lane → Lane) (s : State) :
    (modLane n f s).rck = s.rck := rfl
@[simp] theorem modLane_ptp (n : Nat) (f : Lane → Lane) (s : State) :
    (modLane n f s).ptp = s.ptp := rfl
@[simp] theorem modLane_lfi (n : Nat) (f : Lane → Lane) (s : State) :
    (modLane n f s).lfi = s.lfi := rfl
@[simp] theorem modLane_port (n : Nat) (f : Lane → Lane) (s : State) :
    (modLane n f s).port = s.port := rfl
@[simp] theorem modLane_swt (n : Nat) (f : Lane → Lane) (s : State) :
    (modLane n f s).swt = s.swt := rfl
@[simp] theorem modLane_ndl (n : Nat) (f : Lane → Lane) (s : State) :
    (modLane n f s).ndl = s.ndl := rfl
@[simp] theorem modLane_bank (n : Nat) (f : Lane → Lane) (s : State) :
    (modLane n f s).bank = s.bank := rfl
@[simp] theorem modLane_dist (n : Nat) (f : Lane → Lane) (s : State) :
    (modLane n f s).dist = s.dist := rfl
@[simp] theorem modLane_skn (n : Nat) (f : Lane → Lane) (s : State) :
    (modLane n f s).skn = s.skn := rfl
@[simp] theorem modLane_pat (n : Nat) (f : Lane → Lane) (s : State) :
    (modLane n f s).pat = s.pat := rfl
@[simp] theorem modLane_pl (n : Nat) (f : Lane → Lane) (s : State) :
    (modLane n f s).pl = s.pl := rfl
@[simp] theorem modLane_joint (n : Nat) (f : Lane → Lane) (s : State) :
    (modLane n f s).joint = s.joint := rfl
@[simp] theorem modLane_mem (n : Nat) (f : Lane → Lane) (s : State) :
    (modLane n f s).mem = s.mem := rfl
@[simp] theorem modLane_stl (n : Nat) (f : Lane → Lane) (s : State) :
    (modLane n f s).stl = s.stl := rfl
@[simp] theorem modLane_eth (n : Nat) (f : Lane → Lane) (s : State) :
    (modLane n f s).eth = s.eth := rfl
@[simp] theorem modLane_ssw (n : Nat) (f : Lane → Lane) (s : State) :
    (modLane n f s).ssw = s.ssw := rfl
@[simp] theorem modLane_ft (n : Nat) (f : Lane → Lane) (s : State) :
    (modLane n f s).ft = s.ft := rfl
@[simp] theorem modLane_arrivals (n : Nat) (f : Lane → Lane) (s : State) :
    (modLane n f s).arrivals = s.arrivals := rfl
@[simp] theorem modLane_ict (n : Nat) (f : Lane → Lane) (s : State) :
    (modLane n f s).ict = s.ict := rfl
@[simp] theorem modLane_mbx (n : Nat) (f : Lane → Lane) (s : State) :
    (modLane n f s).mbx = s.mbx := rfl
@[simp] theorem modLane_sem (n : Nat) (f : Lane → Lane) (s : State) :
    (modLane n f s).sem = s.sem := rfl
@[simp] theorem modLane_pwr (n : Nat) (f : Lane → Lane) (s : State) :
    (modLane n f s).pwr = s.pwr := rfl
@[simp] theorem modLane_fcl (n : Nat) (f : Lane → Lane) (s : State) :
    (modLane n f s).fcl = s.fcl := rfl
@[simp] theorem modLane_ldg (n : Nat) (f : Lane → Lane) (s : State) :
    (modLane n f s).ldg = s.ldg := rfl
@[simp] theorem modLane_tly (n : Nat) (f : Lane → Lane) (s : State) :
    (modLane n f s).tly = s.tly := rfl
@[simp] theorem modLane_sth (n : Nat) (f : Lane → Lane) (s : State) :
    (modLane n f s).sth = s.sth := rfl
@[simp] theorem modLane_sec (n : Nat) (f : Lane → Lane) (s : State) :
    (modLane n f s).sec = s.sec := rfl
@[simp] theorem modLane_mag (n : Nat) (f : Lane → Lane) (s : State) :
    (modLane n f s).mag = s.mag := rfl
@[simp] theorem modLane_magIn (n : Nat) (f : Lane → Lane) (s : State) :
    (modLane n f s).magIn = s.magIn := rfl
@[simp] theorem modLane_prt (n : Nat) (f : Lane → Lane) (s : State) :
    (modLane n f s).prt = s.prt := rfl

@[simp] theorem modLfi_pending (n : Nat) (f : Lfi → Lfi) (s : State) :
    (modLfi n f s).pending = s.pending := rfl
@[simp] theorem modLfi_now (n : Nat) (f : Lfi → Lfi) (s : State) :
    (modLfi n f s).now = s.now := rfl
@[simp] theorem modLfi_free (n : Nat) (f : Lfi → Lfi) (s : State) :
    (modLfi n f s).free = s.free := rfl
@[simp] theorem modLfi_bus (n : Nat) (f : Lfi → Lfi) (s : State) :
    (modLfi n f s).bus = s.bus := rfl
@[simp] theorem modLfi_rck (n : Nat) (f : Lfi → Lfi) (s : State) :
    (modLfi n f s).rck = s.rck := rfl
@[simp] theorem modLfi_ptp (n : Nat) (f : Lfi → Lfi) (s : State) :
    (modLfi n f s).ptp = s.ptp := rfl
@[simp] theorem modLfi_lane (n : Nat) (f : Lfi → Lfi) (s : State) :
    (modLfi n f s).lane = s.lane := rfl
@[simp] theorem modLfi_port (n : Nat) (f : Lfi → Lfi) (s : State) :
    (modLfi n f s).port = s.port := rfl
@[simp] theorem modLfi_swt (n : Nat) (f : Lfi → Lfi) (s : State) :
    (modLfi n f s).swt = s.swt := rfl
@[simp] theorem modLfi_ndl (n : Nat) (f : Lfi → Lfi) (s : State) :
    (modLfi n f s).ndl = s.ndl := rfl
@[simp] theorem modLfi_bank (n : Nat) (f : Lfi → Lfi) (s : State) :
    (modLfi n f s).bank = s.bank := rfl
@[simp] theorem modLfi_dist (n : Nat) (f : Lfi → Lfi) (s : State) :
    (modLfi n f s).dist = s.dist := rfl
@[simp] theorem modLfi_skn (n : Nat) (f : Lfi → Lfi) (s : State) :
    (modLfi n f s).skn = s.skn := rfl
@[simp] theorem modLfi_pat (n : Nat) (f : Lfi → Lfi) (s : State) :
    (modLfi n f s).pat = s.pat := rfl
@[simp] theorem modLfi_pl (n : Nat) (f : Lfi → Lfi) (s : State) :
    (modLfi n f s).pl = s.pl := rfl
@[simp] theorem modLfi_joint (n : Nat) (f : Lfi → Lfi) (s : State) :
    (modLfi n f s).joint = s.joint := rfl
@[simp] theorem modLfi_mem (n : Nat) (f : Lfi → Lfi) (s : State) :
    (modLfi n f s).mem = s.mem := rfl
@[simp] theorem modLfi_stl (n : Nat) (f : Lfi → Lfi) (s : State) :
    (modLfi n f s).stl = s.stl := rfl
@[simp] theorem modLfi_eth (n : Nat) (f : Lfi → Lfi) (s : State) :
    (modLfi n f s).eth = s.eth := rfl
@[simp] theorem modLfi_ssw (n : Nat) (f : Lfi → Lfi) (s : State) :
    (modLfi n f s).ssw = s.ssw := rfl
@[simp] theorem modLfi_ft (n : Nat) (f : Lfi → Lfi) (s : State) :
    (modLfi n f s).ft = s.ft := rfl
@[simp] theorem modLfi_arrivals (n : Nat) (f : Lfi → Lfi) (s : State) :
    (modLfi n f s).arrivals = s.arrivals := rfl
@[simp] theorem modLfi_ict (n : Nat) (f : Lfi → Lfi) (s : State) :
    (modLfi n f s).ict = s.ict := rfl
@[simp] theorem modLfi_mbx (n : Nat) (f : Lfi → Lfi) (s : State) :
    (modLfi n f s).mbx = s.mbx := rfl
@[simp] theorem modLfi_sem (n : Nat) (f : Lfi → Lfi) (s : State) :
    (modLfi n f s).sem = s.sem := rfl
@[simp] theorem modLfi_pwr (n : Nat) (f : Lfi → Lfi) (s : State) :
    (modLfi n f s).pwr = s.pwr := rfl
@[simp] theorem modLfi_fcl (n : Nat) (f : Lfi → Lfi) (s : State) :
    (modLfi n f s).fcl = s.fcl := rfl
@[simp] theorem modLfi_ldg (n : Nat) (f : Lfi → Lfi) (s : State) :
    (modLfi n f s).ldg = s.ldg := rfl
@[simp] theorem modLfi_tly (n : Nat) (f : Lfi → Lfi) (s : State) :
    (modLfi n f s).tly = s.tly := rfl
@[simp] theorem modLfi_sth (n : Nat) (f : Lfi → Lfi) (s : State) :
    (modLfi n f s).sth = s.sth := rfl
@[simp] theorem modLfi_sec (n : Nat) (f : Lfi → Lfi) (s : State) :
    (modLfi n f s).sec = s.sec := rfl
@[simp] theorem modLfi_mag (n : Nat) (f : Lfi → Lfi) (s : State) :
    (modLfi n f s).mag = s.mag := rfl
@[simp] theorem modLfi_magIn (n : Nat) (f : Lfi → Lfi) (s : State) :
    (modLfi n f s).magIn = s.magIn := rfl
@[simp] theorem modLfi_prt (n : Nat) (f : Lfi → Lfi) (s : State) :
    (modLfi n f s).prt = s.prt := rfl

@[simp] theorem modPort_pending (b : Nat) (p : Nat) (f : LfiPort → LfiPort) (s : State) :
    (modPort b p f s).pending = s.pending := rfl
@[simp] theorem modPort_now (b : Nat) (p : Nat) (f : LfiPort → LfiPort) (s : State) :
    (modPort b p f s).now = s.now := rfl
@[simp] theorem modPort_free (b : Nat) (p : Nat) (f : LfiPort → LfiPort) (s : State) :
    (modPort b p f s).free = s.free := rfl
@[simp] theorem modPort_bus (b : Nat) (p : Nat) (f : LfiPort → LfiPort) (s : State) :
    (modPort b p f s).bus = s.bus := rfl
@[simp] theorem modPort_rck (b : Nat) (p : Nat) (f : LfiPort → LfiPort) (s : State) :
    (modPort b p f s).rck = s.rck := rfl
@[simp] theorem modPort_ptp (b : Nat) (p : Nat) (f : LfiPort → LfiPort) (s : State) :
    (modPort b p f s).ptp = s.ptp := rfl
@[simp] theorem modPort_lane (b : Nat) (p : Nat) (f : LfiPort → LfiPort) (s : State) :
    (modPort b p f s).lane = s.lane := rfl
@[simp] theorem modPort_lfi (b : Nat) (p : Nat) (f : LfiPort → LfiPort) (s : State) :
    (modPort b p f s).lfi = s.lfi := rfl
@[simp] theorem modPort_swt (b : Nat) (p : Nat) (f : LfiPort → LfiPort) (s : State) :
    (modPort b p f s).swt = s.swt := rfl
@[simp] theorem modPort_ndl (b : Nat) (p : Nat) (f : LfiPort → LfiPort) (s : State) :
    (modPort b p f s).ndl = s.ndl := rfl
@[simp] theorem modPort_bank (b : Nat) (p : Nat) (f : LfiPort → LfiPort) (s : State) :
    (modPort b p f s).bank = s.bank := rfl
@[simp] theorem modPort_dist (b : Nat) (p : Nat) (f : LfiPort → LfiPort) (s : State) :
    (modPort b p f s).dist = s.dist := rfl
@[simp] theorem modPort_skn (b : Nat) (p : Nat) (f : LfiPort → LfiPort) (s : State) :
    (modPort b p f s).skn = s.skn := rfl
@[simp] theorem modPort_pat (b : Nat) (p : Nat) (f : LfiPort → LfiPort) (s : State) :
    (modPort b p f s).pat = s.pat := rfl
@[simp] theorem modPort_pl (b : Nat) (p : Nat) (f : LfiPort → LfiPort) (s : State) :
    (modPort b p f s).pl = s.pl := rfl
@[simp] theorem modPort_joint (b : Nat) (p : Nat) (f : LfiPort → LfiPort) (s : State) :
    (modPort b p f s).joint = s.joint := rfl
@[simp] theorem modPort_mem (b : Nat) (p : Nat) (f : LfiPort → LfiPort) (s : State) :
    (modPort b p f s).mem = s.mem := rfl
@[simp] theorem modPort_stl (b : Nat) (p : Nat) (f : LfiPort → LfiPort) (s : State) :
    (modPort b p f s).stl = s.stl := rfl
@[simp] theorem modPort_eth (b : Nat) (p : Nat) (f : LfiPort → LfiPort) (s : State) :
    (modPort b p f s).eth = s.eth := rfl
@[simp] theorem modPort_ssw (b : Nat) (p : Nat) (f : LfiPort → LfiPort) (s : State) :
    (modPort b p f s).ssw = s.ssw := rfl
@[simp] theorem modPort_ft (b : Nat) (p : Nat) (f : LfiPort → LfiPort) (s : State) :
    (modPort b p f s).ft = s.ft := rfl
@[simp] theorem modPort_arrivals (b : Nat) (p : Nat) (f : LfiPort → LfiPort) (s : State) :
    (modPort b p f s).arrivals = s.arrivals := rfl
@[simp] theorem modPort_ict (b : Nat) (p : Nat) (f : LfiPort → LfiPort) (s : State) :
    (modPort b p f s).ict = s.ict := rfl
@[simp] theorem modPort_mbx (b : Nat) (p : Nat) (f : LfiPort → LfiPort) (s : State) :
    (modPort b p f s).mbx = s.mbx := rfl
@[simp] theorem modPort_sem (b : Nat) (p : Nat) (f : LfiPort → LfiPort) (s : State) :
    (modPort b p f s).sem = s.sem := rfl
@[simp] theorem modPort_pwr (b : Nat) (p : Nat) (f : LfiPort → LfiPort) (s : State) :
    (modPort b p f s).pwr = s.pwr := rfl
@[simp] theorem modPort_fcl (b : Nat) (p : Nat) (f : LfiPort → LfiPort) (s : State) :
    (modPort b p f s).fcl = s.fcl := rfl
@[simp] theorem modPort_ldg (b : Nat) (p : Nat) (f : LfiPort → LfiPort) (s : State) :
    (modPort b p f s).ldg = s.ldg := rfl
@[simp] theorem modPort_tly (b : Nat) (p : Nat) (f : LfiPort → LfiPort) (s : State) :
    (modPort b p f s).tly = s.tly := rfl
@[simp] theorem modPort_sth (b : Nat) (p : Nat) (f : LfiPort → LfiPort) (s : State) :
    (modPort b p f s).sth = s.sth := rfl
@[simp] theorem modPort_sec (b : Nat) (p : Nat) (f : LfiPort → LfiPort) (s : State) :
    (modPort b p f s).sec = s.sec := rfl
@[simp] theorem modPort_mag (b : Nat) (p : Nat) (f : LfiPort → LfiPort) (s : State) :
    (modPort b p f s).mag = s.mag := rfl
@[simp] theorem modPort_magIn (b : Nat) (p : Nat) (f : LfiPort → LfiPort) (s : State) :
    (modPort b p f s).magIn = s.magIn := rfl
@[simp] theorem modPort_prt (b : Nat) (p : Nat) (f : LfiPort → LfiPort) (s : State) :
    (modPort b p f s).prt = s.prt := rfl

@[simp] theorem modSwt_pending (n : Nat) (f : Swt → Swt) (s : State) :
    (modSwt n f s).pending = s.pending := rfl
@[simp] theorem modSwt_now (n : Nat) (f : Swt → Swt) (s : State) :
    (modSwt n f s).now = s.now := rfl
@[simp] theorem modSwt_free (n : Nat) (f : Swt → Swt) (s : State) :
    (modSwt n f s).free = s.free := rfl
@[simp] theorem modSwt_bus (n : Nat) (f : Swt → Swt) (s : State) :
    (modSwt n f s).bus = s.bus := rfl
@[simp] theorem modSwt_rck (n : Nat) (f : Swt → Swt) (s : State) :
    (modSwt n f s).rck = s.rck := rfl
@[simp] theorem modSwt_ptp (n : Nat) (f : Swt → Swt) (s : State) :
    (modSwt n f s).ptp = s.ptp := rfl
@[simp] theorem modSwt_lane (n : Nat) (f : Swt → Swt) (s : State) :
    (modSwt n f s).lane = s.lane := rfl
@[simp] theorem modSwt_lfi (n : Nat) (f : Swt → Swt) (s : State) :
    (modSwt n f s).lfi = s.lfi := rfl
@[simp] theorem modSwt_port (n : Nat) (f : Swt → Swt) (s : State) :
    (modSwt n f s).port = s.port := rfl
@[simp] theorem modSwt_ndl (n : Nat) (f : Swt → Swt) (s : State) :
    (modSwt n f s).ndl = s.ndl := rfl
@[simp] theorem modSwt_bank (n : Nat) (f : Swt → Swt) (s : State) :
    (modSwt n f s).bank = s.bank := rfl
@[simp] theorem modSwt_dist (n : Nat) (f : Swt → Swt) (s : State) :
    (modSwt n f s).dist = s.dist := rfl
@[simp] theorem modSwt_skn (n : Nat) (f : Swt → Swt) (s : State) :
    (modSwt n f s).skn = s.skn := rfl
@[simp] theorem modSwt_pat (n : Nat) (f : Swt → Swt) (s : State) :
    (modSwt n f s).pat = s.pat := rfl
@[simp] theorem modSwt_pl (n : Nat) (f : Swt → Swt) (s : State) :
    (modSwt n f s).pl = s.pl := rfl
@[simp] theorem modSwt_joint (n : Nat) (f : Swt → Swt) (s : State) :
    (modSwt n f s).joint = s.joint := rfl
@[simp] theorem modSwt_mem (n : Nat) (f : Swt → Swt) (s : State) :
    (modSwt n f s).mem = s.mem := rfl
@[simp] theorem modSwt_stl (n : Nat) (f : Swt → Swt) (s : State) :
    (modSwt n f s).stl = s.stl := rfl
@[simp] theorem modSwt_eth (n : Nat) (f : Swt → Swt) (s : State) :
    (modSwt n f s).eth = s.eth := rfl
@[simp] theorem modSwt_ssw (n : Nat) (f : Swt → Swt) (s : State) :
    (modSwt n f s).ssw = s.ssw := rfl
@[simp] theorem modSwt_ft (n : Nat) (f : Swt → Swt) (s : State) :
    (modSwt n f s).ft = s.ft := rfl
@[simp] theorem modSwt_arrivals (n : Nat) (f : Swt → Swt) (s : State) :
    (modSwt n f s).arrivals = s.arrivals := rfl
@[simp] theorem modSwt_ict (n : Nat) (f : Swt → Swt) (s : State) :
    (modSwt n f s).ict = s.ict := rfl
@[simp] theorem modSwt_mbx (n : Nat) (f : Swt → Swt) (s : State) :
    (modSwt n f s).mbx = s.mbx := rfl
@[simp] theorem modSwt_sem (n : Nat) (f : Swt → Swt) (s : State) :
    (modSwt n f s).sem = s.sem := rfl
@[simp] theorem modSwt_pwr (n : Nat) (f : Swt → Swt) (s : State) :
    (modSwt n f s).pwr = s.pwr := rfl
@[simp] theorem modSwt_fcl (n : Nat) (f : Swt → Swt) (s : State) :
    (modSwt n f s).fcl = s.fcl := rfl
@[simp] theorem modSwt_ldg (n : Nat) (f : Swt → Swt) (s : State) :
    (modSwt n f s).ldg = s.ldg := rfl
@[simp] theorem modSwt_tly (n : Nat) (f : Swt → Swt) (s : State) :
    (modSwt n f s).tly = s.tly := rfl
@[simp] theorem modSwt_sth (n : Nat) (f : Swt → Swt) (s : State) :
    (modSwt n f s).sth = s.sth := rfl
@[simp] theorem modSwt_sec (n : Nat) (f : Swt → Swt) (s : State) :
    (modSwt n f s).sec = s.sec := rfl
@[simp] theorem modSwt_mag (n : Nat) (f : Swt → Swt) (s : State) :
    (modSwt n f s).mag = s.mag := rfl
@[simp] theorem modSwt_magIn (n : Nat) (f : Swt → Swt) (s : State) :
    (modSwt n f s).magIn = s.magIn := rfl
@[simp] theorem modSwt_prt (n : Nat) (f : Swt → Swt) (s : State) :
    (modSwt n f s).prt = s.prt := rfl

@[simp] theorem modNdl_pending (n : Nat) (f : Ndl → Ndl) (s : State) :
    (modNdl n f s).pending = s.pending := rfl
@[simp] theorem modNdl_now (n : Nat) (f : Ndl → Ndl) (s : State) :
    (modNdl n f s).now = s.now := rfl
@[simp] theorem modNdl_free (n : Nat) (f : Ndl → Ndl) (s : State) :
    (modNdl n f s).free = s.free := rfl
@[simp] theorem modNdl_bus (n : Nat) (f : Ndl → Ndl) (s : State) :
    (modNdl n f s).bus = s.bus := rfl
@[simp] theorem modNdl_rck (n : Nat) (f : Ndl → Ndl) (s : State) :
    (modNdl n f s).rck = s.rck := rfl
@[simp] theorem modNdl_ptp (n : Nat) (f : Ndl → Ndl) (s : State) :
    (modNdl n f s).ptp = s.ptp := rfl
@[simp] theorem modNdl_lane (n : Nat) (f : Ndl → Ndl) (s : State) :
    (modNdl n f s).lane = s.lane := rfl
@[simp] theorem modNdl_lfi (n : Nat) (f : Ndl → Ndl) (s : State) :
    (modNdl n f s).lfi = s.lfi := rfl
@[simp] theorem modNdl_port (n : Nat) (f : Ndl → Ndl) (s : State) :
    (modNdl n f s).port = s.port := rfl
@[simp] theorem modNdl_swt (n : Nat) (f : Ndl → Ndl) (s : State) :
    (modNdl n f s).swt = s.swt := rfl
@[simp] theorem modNdl_bank (n : Nat) (f : Ndl → Ndl) (s : State) :
    (modNdl n f s).bank = s.bank := rfl
@[simp] theorem modNdl_dist (n : Nat) (f : Ndl → Ndl) (s : State) :
    (modNdl n f s).dist = s.dist := rfl
@[simp] theorem modNdl_skn (n : Nat) (f : Ndl → Ndl) (s : State) :
    (modNdl n f s).skn = s.skn := rfl
@[simp] theorem modNdl_pat (n : Nat) (f : Ndl → Ndl) (s : State) :
    (modNdl n f s).pat = s.pat := rfl
@[simp] theorem modNdl_pl (n : Nat) (f : Ndl → Ndl) (s : State) :
    (modNdl n f s).pl = s.pl := rfl
@[simp] theorem modNdl_joint (n : Nat) (f : Ndl → Ndl) (s : State) :
    (modNdl n f s).joint = s.joint := rfl
@[simp] theorem modNdl_mem (n : Nat) (f : Ndl → Ndl) (s : State) :
    (modNdl n f s).mem = s.mem := rfl
@[simp] theorem modNdl_stl (n : Nat) (f : Ndl → Ndl) (s : State) :
    (modNdl n f s).stl = s.stl := rfl
@[simp] theorem modNdl_eth (n : Nat) (f : Ndl → Ndl) (s : State) :
    (modNdl n f s).eth = s.eth := rfl
@[simp] theorem modNdl_ssw (n : Nat) (f : Ndl → Ndl) (s : State) :
    (modNdl n f s).ssw = s.ssw := rfl
@[simp] theorem modNdl_ft (n : Nat) (f : Ndl → Ndl) (s : State) :
    (modNdl n f s).ft = s.ft := rfl
@[simp] theorem modNdl_arrivals (n : Nat) (f : Ndl → Ndl) (s : State) :
    (modNdl n f s).arrivals = s.arrivals := rfl
@[simp] theorem modNdl_ict (n : Nat) (f : Ndl → Ndl) (s : State) :
    (modNdl n f s).ict = s.ict := rfl
@[simp] theorem modNdl_mbx (n : Nat) (f : Ndl → Ndl) (s : State) :
    (modNdl n f s).mbx = s.mbx := rfl
@[simp] theorem modNdl_sem (n : Nat) (f : Ndl → Ndl) (s : State) :
    (modNdl n f s).sem = s.sem := rfl
@[simp] theorem modNdl_pwr (n : Nat) (f : Ndl → Ndl) (s : State) :
    (modNdl n f s).pwr = s.pwr := rfl
@[simp] theorem modNdl_fcl (n : Nat) (f : Ndl → Ndl) (s : State) :
    (modNdl n f s).fcl = s.fcl := rfl
@[simp] theorem modNdl_ldg (n : Nat) (f : Ndl → Ndl) (s : State) :
    (modNdl n f s).ldg = s.ldg := rfl
@[simp] theorem modNdl_tly (n : Nat) (f : Ndl → Ndl) (s : State) :
    (modNdl n f s).tly = s.tly := rfl
@[simp] theorem modNdl_sth (n : Nat) (f : Ndl → Ndl) (s : State) :
    (modNdl n f s).sth = s.sth := rfl
@[simp] theorem modNdl_sec (n : Nat) (f : Ndl → Ndl) (s : State) :
    (modNdl n f s).sec = s.sec := rfl
@[simp] theorem modNdl_mag (n : Nat) (f : Ndl → Ndl) (s : State) :
    (modNdl n f s).mag = s.mag := rfl
@[simp] theorem modNdl_magIn (n : Nat) (f : Ndl → Ndl) (s : State) :
    (modNdl n f s).magIn = s.magIn := rfl
@[simp] theorem modNdl_prt (n : Nat) (f : Ndl → Ndl) (s : State) :
    (modNdl n f s).prt = s.prt := rfl

@[simp] theorem modBank_pending (k : Nat) (b : Bool) (f : NanoBank → NanoBank) (s : State) :
    (modBank k b f s).pending = s.pending := rfl
@[simp] theorem modBank_now (k : Nat) (b : Bool) (f : NanoBank → NanoBank) (s : State) :
    (modBank k b f s).now = s.now := rfl
@[simp] theorem modBank_free (k : Nat) (b : Bool) (f : NanoBank → NanoBank) (s : State) :
    (modBank k b f s).free = s.free := rfl
@[simp] theorem modBank_bus (k : Nat) (b : Bool) (f : NanoBank → NanoBank) (s : State) :
    (modBank k b f s).bus = s.bus := rfl
@[simp] theorem modBank_rck (k : Nat) (b : Bool) (f : NanoBank → NanoBank) (s : State) :
    (modBank k b f s).rck = s.rck := rfl
@[simp] theorem modBank_ptp (k : Nat) (b : Bool) (f : NanoBank → NanoBank) (s : State) :
    (modBank k b f s).ptp = s.ptp := rfl
@[simp] theorem modBank_lane (k : Nat) (b : Bool) (f : NanoBank → NanoBank) (s : State) :
    (modBank k b f s).lane = s.lane := rfl
@[simp] theorem modBank_lfi (k : Nat) (b : Bool) (f : NanoBank → NanoBank) (s : State) :
    (modBank k b f s).lfi = s.lfi := rfl
@[simp] theorem modBank_port (k : Nat) (b : Bool) (f : NanoBank → NanoBank) (s : State) :
    (modBank k b f s).port = s.port := rfl
@[simp] theorem modBank_swt (k : Nat) (b : Bool) (f : NanoBank → NanoBank) (s : State) :
    (modBank k b f s).swt = s.swt := rfl
@[simp] theorem modBank_ndl (k : Nat) (b : Bool) (f : NanoBank → NanoBank) (s : State) :
    (modBank k b f s).ndl = s.ndl := rfl
@[simp] theorem modBank_dist (k : Nat) (b : Bool) (f : NanoBank → NanoBank) (s : State) :
    (modBank k b f s).dist = s.dist := rfl
@[simp] theorem modBank_skn (k : Nat) (b : Bool) (f : NanoBank → NanoBank) (s : State) :
    (modBank k b f s).skn = s.skn := rfl
@[simp] theorem modBank_pat (k : Nat) (b : Bool) (f : NanoBank → NanoBank) (s : State) :
    (modBank k b f s).pat = s.pat := rfl
@[simp] theorem modBank_pl (k : Nat) (b : Bool) (f : NanoBank → NanoBank) (s : State) :
    (modBank k b f s).pl = s.pl := rfl
@[simp] theorem modBank_joint (k : Nat) (b : Bool) (f : NanoBank → NanoBank) (s : State) :
    (modBank k b f s).joint = s.joint := rfl
@[simp] theorem modBank_mem (k : Nat) (b : Bool) (f : NanoBank → NanoBank) (s : State) :
    (modBank k b f s).mem = s.mem := rfl
@[simp] theorem modBank_stl (k : Nat) (b : Bool) (f : NanoBank → NanoBank) (s : State) :
    (modBank k b f s).stl = s.stl := rfl
@[simp] theorem modBank_eth (k : Nat) (b : Bool) (f : NanoBank → NanoBank) (s : State) :
    (modBank k b f s).eth = s.eth := rfl
@[simp] theorem modBank_ssw (k : Nat) (b : Bool) (f : NanoBank → NanoBank) (s : State) :
    (modBank k b f s).ssw = s.ssw := rfl
@[simp] theorem modBank_ft (k : Nat) (b : Bool) (f : NanoBank → NanoBank) (s : State) :
    (modBank k b f s).ft = s.ft := rfl
@[simp] theorem modBank_arrivals (k : Nat) (b : Bool) (f : NanoBank → NanoBank) (s : State) :
    (modBank k b f s).arrivals = s.arrivals := rfl
@[simp] theorem modBank_ict (k : Nat) (b : Bool) (f : NanoBank → NanoBank) (s : State) :
    (modBank k b f s).ict = s.ict := rfl
@[simp] theorem modBank_mbx (k : Nat) (b : Bool) (f : NanoBank → NanoBank) (s : State) :
    (modBank k b f s).mbx = s.mbx := rfl
@[simp] theorem modBank_sem (k : Nat) (b : Bool) (f : NanoBank → NanoBank) (s : State) :
    (modBank k b f s).sem = s.sem := rfl
@[simp] theorem modBank_pwr (k : Nat) (b : Bool) (f : NanoBank → NanoBank) (s : State) :
    (modBank k b f s).pwr = s.pwr := rfl
@[simp] theorem modBank_fcl (k : Nat) (b : Bool) (f : NanoBank → NanoBank) (s : State) :
    (modBank k b f s).fcl = s.fcl := rfl
@[simp] theorem modBank_ldg (k : Nat) (b : Bool) (f : NanoBank → NanoBank) (s : State) :
    (modBank k b f s).ldg = s.ldg := rfl
@[simp] theorem modBank_tly (k : Nat) (b : Bool) (f : NanoBank → NanoBank) (s : State) :
    (modBank k b f s).tly = s.tly := rfl
@[simp] theorem modBank_sth (k : Nat) (b : Bool) (f : NanoBank → NanoBank) (s : State) :
    (modBank k b f s).sth = s.sth := rfl
@[simp] theorem modBank_sec (k : Nat) (b : Bool) (f : NanoBank → NanoBank) (s : State) :
    (modBank k b f s).sec = s.sec := rfl
@[simp] theorem modBank_mag (k : Nat) (b : Bool) (f : NanoBank → NanoBank) (s : State) :
    (modBank k b f s).mag = s.mag := rfl
@[simp] theorem modBank_magIn (k : Nat) (b : Bool) (f : NanoBank → NanoBank) (s : State) :
    (modBank k b f s).magIn = s.magIn := rfl
@[simp] theorem modBank_prt (k : Nat) (b : Bool) (f : NanoBank → NanoBank) (s : State) :
    (modBank k b f s).prt = s.prt := rfl

@[simp] theorem modDist_pending (k : Nat) (d : Nat) (f : Dist → Dist) (s : State) :
    (modDist k d f s).pending = s.pending := rfl
@[simp] theorem modDist_now (k : Nat) (d : Nat) (f : Dist → Dist) (s : State) :
    (modDist k d f s).now = s.now := rfl
@[simp] theorem modDist_free (k : Nat) (d : Nat) (f : Dist → Dist) (s : State) :
    (modDist k d f s).free = s.free := rfl
@[simp] theorem modDist_bus (k : Nat) (d : Nat) (f : Dist → Dist) (s : State) :
    (modDist k d f s).bus = s.bus := rfl
@[simp] theorem modDist_rck (k : Nat) (d : Nat) (f : Dist → Dist) (s : State) :
    (modDist k d f s).rck = s.rck := rfl
@[simp] theorem modDist_ptp (k : Nat) (d : Nat) (f : Dist → Dist) (s : State) :
    (modDist k d f s).ptp = s.ptp := rfl
@[simp] theorem modDist_lane (k : Nat) (d : Nat) (f : Dist → Dist) (s : State) :
    (modDist k d f s).lane = s.lane := rfl
@[simp] theorem modDist_lfi (k : Nat) (d : Nat) (f : Dist → Dist) (s : State) :
    (modDist k d f s).lfi = s.lfi := rfl
@[simp] theorem modDist_port (k : Nat) (d : Nat) (f : Dist → Dist) (s : State) :
    (modDist k d f s).port = s.port := rfl
@[simp] theorem modDist_swt (k : Nat) (d : Nat) (f : Dist → Dist) (s : State) :
    (modDist k d f s).swt = s.swt := rfl
@[simp] theorem modDist_ndl (k : Nat) (d : Nat) (f : Dist → Dist) (s : State) :
    (modDist k d f s).ndl = s.ndl := rfl
@[simp] theorem modDist_bank (k : Nat) (d : Nat) (f : Dist → Dist) (s : State) :
    (modDist k d f s).bank = s.bank := rfl
@[simp] theorem modDist_skn (k : Nat) (d : Nat) (f : Dist → Dist) (s : State) :
    (modDist k d f s).skn = s.skn := rfl
@[simp] theorem modDist_pat (k : Nat) (d : Nat) (f : Dist → Dist) (s : State) :
    (modDist k d f s).pat = s.pat := rfl
@[simp] theorem modDist_pl (k : Nat) (d : Nat) (f : Dist → Dist) (s : State) :
    (modDist k d f s).pl = s.pl := rfl
@[simp] theorem modDist_joint (k : Nat) (d : Nat) (f : Dist → Dist) (s : State) :
    (modDist k d f s).joint = s.joint := rfl
@[simp] theorem modDist_mem (k : Nat) (d : Nat) (f : Dist → Dist) (s : State) :
    (modDist k d f s).mem = s.mem := rfl
@[simp] theorem modDist_stl (k : Nat) (d : Nat) (f : Dist → Dist) (s : State) :
    (modDist k d f s).stl = s.stl := rfl
@[simp] theorem modDist_eth (k : Nat) (d : Nat) (f : Dist → Dist) (s : State) :
    (modDist k d f s).eth = s.eth := rfl
@[simp] theorem modDist_ssw (k : Nat) (d : Nat) (f : Dist → Dist) (s : State) :
    (modDist k d f s).ssw = s.ssw := rfl
@[simp] theorem modDist_ft (k : Nat) (d : Nat) (f : Dist → Dist) (s : State) :
    (modDist k d f s).ft = s.ft := rfl
@[simp] theorem modDist_arrivals (k : Nat) (d : Nat) (f : Dist → Dist) (s : State) :
    (modDist k d f s).arrivals = s.arrivals := rfl
@[simp] theorem modDist_ict (k : Nat) (d : Nat) (f : Dist → Dist) (s : State) :
    (modDist k d f s).ict = s.ict := rfl
@[simp] theorem modDist_mbx (k : Nat) (d : Nat) (f : Dist → Dist) (s : State) :
    (modDist k d f s).mbx = s.mbx := rfl
@[simp] theorem modDist_sem (k : Nat) (d : Nat) (f : Dist → Dist) (s : State) :
    (modDist k d f s).sem = s.sem := rfl
@[simp] theorem modDist_pwr (k : Nat) (d : Nat) (f : Dist → Dist) (s : State) :
    (modDist k d f s).pwr = s.pwr := rfl
@[simp] theorem modDist_fcl (k : Nat) (d : Nat) (f : Dist → Dist) (s : State) :
    (modDist k d f s).fcl = s.fcl := rfl
@[simp] theorem modDist_ldg (k : Nat) (d : Nat) (f : Dist → Dist) (s : State) :
    (modDist k d f s).ldg = s.ldg := rfl
@[simp] theorem modDist_tly (k : Nat) (d : Nat) (f : Dist → Dist) (s : State) :
    (modDist k d f s).tly = s.tly := rfl
@[simp] theorem modDist_sth (k : Nat) (d : Nat) (f : Dist → Dist) (s : State) :
    (modDist k d f s).sth = s.sth := rfl
@[simp] theorem modDist_sec (k : Nat) (d : Nat) (f : Dist → Dist) (s : State) :
    (modDist k d f s).sec = s.sec := rfl
@[simp] theorem modDist_mag (k : Nat) (d : Nat) (f : Dist → Dist) (s : State) :
    (modDist k d f s).mag = s.mag := rfl
@[simp] theorem modDist_magIn (k : Nat) (d : Nat) (f : Dist → Dist) (s : State) :
    (modDist k d f s).magIn = s.magIn := rfl
@[simp] theorem modDist_prt (k : Nat) (d : Nat) (f : Dist → Dist) (s : State) :
    (modDist k d f s).prt = s.prt := rfl

@[simp] theorem modSkn_pending (k : Nat) (f : Skn → Skn) (s : State) :
    (modSkn k f s).pending = s.pending := rfl
@[simp] theorem modSkn_now (k : Nat) (f : Skn → Skn) (s : State) :
    (modSkn k f s).now = s.now := rfl
@[simp] theorem modSkn_free (k : Nat) (f : Skn → Skn) (s : State) :
    (modSkn k f s).free = s.free := rfl
@[simp] theorem modSkn_bus (k : Nat) (f : Skn → Skn) (s : State) :
    (modSkn k f s).bus = s.bus := rfl
@[simp] theorem modSkn_rck (k : Nat) (f : Skn → Skn) (s : State) :
    (modSkn k f s).rck = s.rck := rfl
@[simp] theorem modSkn_ptp (k : Nat) (f : Skn → Skn) (s : State) :
    (modSkn k f s).ptp = s.ptp := rfl
@[simp] theorem modSkn_lane (k : Nat) (f : Skn → Skn) (s : State) :
    (modSkn k f s).lane = s.lane := rfl
@[simp] theorem modSkn_lfi (k : Nat) (f : Skn → Skn) (s : State) :
    (modSkn k f s).lfi = s.lfi := rfl
@[simp] theorem modSkn_port (k : Nat) (f : Skn → Skn) (s : State) :
    (modSkn k f s).port = s.port := rfl
@[simp] theorem modSkn_swt (k : Nat) (f : Skn → Skn) (s : State) :
    (modSkn k f s).swt = s.swt := rfl
@[simp] theorem modSkn_ndl (k : Nat) (f : Skn → Skn) (s : State) :
    (modSkn k f s).ndl = s.ndl := rfl
@[simp] theorem modSkn_bank (k : Nat) (f : Skn → Skn) (s : State) :
    (modSkn k f s).bank = s.bank := rfl
@[simp] theorem modSkn_dist (k : Nat) (f : Skn → Skn) (s : State) :
    (modSkn k f s).dist = s.dist := rfl
@[simp] theorem modSkn_pat (k : Nat) (f : Skn → Skn) (s : State) :
    (modSkn k f s).pat = s.pat := rfl
@[simp] theorem modSkn_pl (k : Nat) (f : Skn → Skn) (s : State) :
    (modSkn k f s).pl = s.pl := rfl
@[simp] theorem modSkn_joint (k : Nat) (f : Skn → Skn) (s : State) :
    (modSkn k f s).joint = s.joint := rfl
@[simp] theorem modSkn_mem (k : Nat) (f : Skn → Skn) (s : State) :
    (modSkn k f s).mem = s.mem := rfl
@[simp] theorem modSkn_stl (k : Nat) (f : Skn → Skn) (s : State) :
    (modSkn k f s).stl = s.stl := rfl
@[simp] theorem modSkn_eth (k : Nat) (f : Skn → Skn) (s : State) :
    (modSkn k f s).eth = s.eth := rfl
@[simp] theorem modSkn_ssw (k : Nat) (f : Skn → Skn) (s : State) :
    (modSkn k f s).ssw = s.ssw := rfl
@[simp] theorem modSkn_ft (k : Nat) (f : Skn → Skn) (s : State) :
    (modSkn k f s).ft = s.ft := rfl
@[simp] theorem modSkn_arrivals (k : Nat) (f : Skn → Skn) (s : State) :
    (modSkn k f s).arrivals = s.arrivals := rfl
@[simp] theorem modSkn_ict (k : Nat) (f : Skn → Skn) (s : State) :
    (modSkn k f s).ict = s.ict := rfl
@[simp] theorem modSkn_mbx (k : Nat) (f : Skn → Skn) (s : State) :
    (modSkn k f s).mbx = s.mbx := rfl
@[simp] theorem modSkn_sem (k : Nat) (f : Skn → Skn) (s : State) :
    (modSkn k f s).sem = s.sem := rfl
@[simp] theorem modSkn_pwr (k : Nat) (f : Skn → Skn) (s : State) :
    (modSkn k f s).pwr = s.pwr := rfl
@[simp] theorem modSkn_fcl (k : Nat) (f : Skn → Skn) (s : State) :
    (modSkn k f s).fcl = s.fcl := rfl
@[simp] theorem modSkn_ldg (k : Nat) (f : Skn → Skn) (s : State) :
    (modSkn k f s).ldg = s.ldg := rfl
@[simp] theorem modSkn_tly (k : Nat) (f : Skn → Skn) (s : State) :
    (modSkn k f s).tly = s.tly := rfl
@[simp] theorem modSkn_sth (k : Nat) (f : Skn → Skn) (s : State) :
    (modSkn k f s).sth = s.sth := rfl
@[simp] theorem modSkn_sec (k : Nat) (f : Skn → Skn) (s : State) :
    (modSkn k f s).sec = s.sec := rfl
@[simp] theorem modSkn_mag (k : Nat) (f : Skn → Skn) (s : State) :
    (modSkn k f s).mag = s.mag := rfl
@[simp] theorem modSkn_magIn (k : Nat) (f : Skn → Skn) (s : State) :
    (modSkn k f s).magIn = s.magIn := rfl
@[simp] theorem modSkn_prt (k : Nat) (f : Skn → Skn) (s : State) :
    (modSkn k f s).prt = s.prt := rfl

@[simp] theorem modPat_pending (n : Nat) (f : Pat → Pat) (s : State) :
    (modPat n f s).pending = s.pending := rfl
@[simp] theorem modPat_now (n : Nat) (f : Pat → Pat) (s : State) :
    (modPat n f s).now = s.now := rfl
@[simp] theorem modPat_free (n : Nat) (f : Pat → Pat) (s : State) :
    (modPat n f s).free = s.free := rfl
@[simp] theorem modPat_bus (n : Nat) (f : Pat → Pat) (s : State) :
    (modPat n f s).bus = s.bus := rfl
@[simp] theorem modPat_rck (n : Nat) (f : Pat → Pat) (s : State) :
    (modPat n f s).rck = s.rck := rfl
@[simp] theorem modPat_ptp (n : Nat) (f : Pat → Pat) (s : State) :
    (modPat n f s).ptp = s.ptp := rfl
@[simp] theorem modPat_lane (n : Nat) (f : Pat → Pat) (s : State) :
    (modPat n f s).lane = s.lane := rfl
@[simp] theorem modPat_lfi (n : Nat) (f : Pat → Pat) (s : State) :
    (modPat n f s).lfi = s.lfi := rfl
@[simp] theorem modPat_port (n : Nat) (f : Pat → Pat) (s : State) :
    (modPat n f s).port = s.port := rfl
@[simp] theorem modPat_swt (n : Nat) (f : Pat → Pat) (s : State) :
    (modPat n f s).swt = s.swt := rfl
@[simp] theorem modPat_ndl (n : Nat) (f : Pat → Pat) (s : State) :
    (modPat n f s).ndl = s.ndl := rfl
@[simp] theorem modPat_bank (n : Nat) (f : Pat → Pat) (s : State) :
    (modPat n f s).bank = s.bank := rfl
@[simp] theorem modPat_dist (n : Nat) (f : Pat → Pat) (s : State) :
    (modPat n f s).dist = s.dist := rfl
@[simp] theorem modPat_skn (n : Nat) (f : Pat → Pat) (s : State) :
    (modPat n f s).skn = s.skn := rfl
@[simp] theorem modPat_pl (n : Nat) (f : Pat → Pat) (s : State) :
    (modPat n f s).pl = s.pl := rfl
@[simp] theorem modPat_joint (n : Nat) (f : Pat → Pat) (s : State) :
    (modPat n f s).joint = s.joint := rfl
@[simp] theorem modPat_mem (n : Nat) (f : Pat → Pat) (s : State) :
    (modPat n f s).mem = s.mem := rfl
@[simp] theorem modPat_stl (n : Nat) (f : Pat → Pat) (s : State) :
    (modPat n f s).stl = s.stl := rfl
@[simp] theorem modPat_eth (n : Nat) (f : Pat → Pat) (s : State) :
    (modPat n f s).eth = s.eth := rfl
@[simp] theorem modPat_ssw (n : Nat) (f : Pat → Pat) (s : State) :
    (modPat n f s).ssw = s.ssw := rfl
@[simp] theorem modPat_ft (n : Nat) (f : Pat → Pat) (s : State) :
    (modPat n f s).ft = s.ft := rfl
@[simp] theorem modPat_arrivals (n : Nat) (f : Pat → Pat) (s : State) :
    (modPat n f s).arrivals = s.arrivals := rfl
@[simp] theorem modPat_ict (n : Nat) (f : Pat → Pat) (s : State) :
    (modPat n f s).ict = s.ict := rfl
@[simp] theorem modPat_mbx (n : Nat) (f : Pat → Pat) (s : State) :
    (modPat n f s).mbx = s.mbx := rfl
@[simp] theorem modPat_sem (n : Nat) (f : Pat → Pat) (s : State) :
    (modPat n f s).sem = s.sem := rfl
@[simp] theorem modPat_pwr (n : Nat) (f : Pat → Pat) (s : State) :
    (modPat n f s).pwr = s.pwr := rfl
@[simp] theorem modPat_fcl (n : Nat) (f : Pat → Pat) (s : State) :
    (modPat n f s).fcl = s.fcl := rfl
@[simp] theorem modPat_ldg (n : Nat) (f : Pat → Pat) (s : State) :
    (modPat n f s).ldg = s.ldg := rfl
@[simp] theorem modPat_tly (n : Nat) (f : Pat → Pat) (s : State) :
    (modPat n f s).tly = s.tly := rfl
@[simp] theorem modPat_sth (n : Nat) (f : Pat → Pat) (s : State) :
    (modPat n f s).sth = s.sth := rfl
@[simp] theorem modPat_sec (n : Nat) (f : Pat → Pat) (s : State) :
    (modPat n f s).sec = s.sec := rfl
@[simp] theorem modPat_mag (n : Nat) (f : Pat → Pat) (s : State) :
    (modPat n f s).mag = s.mag := rfl
@[simp] theorem modPat_magIn (n : Nat) (f : Pat → Pat) (s : State) :
    (modPat n f s).magIn = s.magIn := rfl
@[simp] theorem modPat_prt (n : Nat) (f : Pat → Pat) (s : State) :
    (modPat n f s).prt = s.prt := rfl

@[simp] theorem modEnc_pending (n : Nat) (k : Nat) (f : Enc → Enc) (s : State) :
    (modEnc n k f s).pending = s.pending := rfl
@[simp] theorem modEnc_now (n : Nat) (k : Nat) (f : Enc → Enc) (s : State) :
    (modEnc n k f s).now = s.now := rfl
@[simp] theorem modEnc_free (n : Nat) (k : Nat) (f : Enc → Enc) (s : State) :
    (modEnc n k f s).free = s.free := rfl
@[simp] theorem modEnc_bus (n : Nat) (k : Nat) (f : Enc → Enc) (s : State) :
    (modEnc n k f s).bus = s.bus := rfl
@[simp] theorem modEnc_rck (n : Nat) (k : Nat) (f : Enc → Enc) (s : State) :
    (modEnc n k f s).rck = s.rck := rfl
@[simp] theorem modEnc_ptp (n : Nat) (k : Nat) (f : Enc → Enc) (s : State) :
    (modEnc n k f s).ptp = s.ptp := rfl
@[simp] theorem modEnc_lane (n : Nat) (k : Nat) (f : Enc → Enc) (s : State) :
    (modEnc n k f s).lane = s.lane := rfl
@[simp] theorem modEnc_lfi (n : Nat) (k : Nat) (f : Enc → Enc) (s : State) :
    (modEnc n k f s).lfi = s.lfi := rfl
@[simp] theorem modEnc_port (n : Nat) (k : Nat) (f : Enc → Enc) (s : State) :
    (modEnc n k f s).port = s.port := rfl
@[simp] theorem modEnc_swt (n : Nat) (k : Nat) (f : Enc → Enc) (s : State) :
    (modEnc n k f s).swt = s.swt := rfl
@[simp] theorem modEnc_ndl (n : Nat) (k : Nat) (f : Enc → Enc) (s : State) :
    (modEnc n k f s).ndl = s.ndl := rfl
@[simp] theorem modEnc_bank (n : Nat) (k : Nat) (f : Enc → Enc) (s : State) :
    (modEnc n k f s).bank = s.bank := rfl
@[simp] theorem modEnc_dist (n : Nat) (k : Nat) (f : Enc → Enc) (s : State) :
    (modEnc n k f s).dist = s.dist := rfl
@[simp] theorem modEnc_skn (n : Nat) (k : Nat) (f : Enc → Enc) (s : State) :
    (modEnc n k f s).skn = s.skn := rfl
@[simp] theorem modEnc_pl (n : Nat) (k : Nat) (f : Enc → Enc) (s : State) :
    (modEnc n k f s).pl = s.pl := rfl
@[simp] theorem modEnc_joint (n : Nat) (k : Nat) (f : Enc → Enc) (s : State) :
    (modEnc n k f s).joint = s.joint := rfl
@[simp] theorem modEnc_mem (n : Nat) (k : Nat) (f : Enc → Enc) (s : State) :
    (modEnc n k f s).mem = s.mem := rfl
@[simp] theorem modEnc_stl (n : Nat) (k : Nat) (f : Enc → Enc) (s : State) :
    (modEnc n k f s).stl = s.stl := rfl
@[simp] theorem modEnc_eth (n : Nat) (k : Nat) (f : Enc → Enc) (s : State) :
    (modEnc n k f s).eth = s.eth := rfl
@[simp] theorem modEnc_ssw (n : Nat) (k : Nat) (f : Enc → Enc) (s : State) :
    (modEnc n k f s).ssw = s.ssw := rfl
@[simp] theorem modEnc_ft (n : Nat) (k : Nat) (f : Enc → Enc) (s : State) :
    (modEnc n k f s).ft = s.ft := rfl
@[simp] theorem modEnc_arrivals (n : Nat) (k : Nat) (f : Enc → Enc) (s : State) :
    (modEnc n k f s).arrivals = s.arrivals := rfl
@[simp] theorem modEnc_ict (n : Nat) (k : Nat) (f : Enc → Enc) (s : State) :
    (modEnc n k f s).ict = s.ict := rfl
@[simp] theorem modEnc_mbx (n : Nat) (k : Nat) (f : Enc → Enc) (s : State) :
    (modEnc n k f s).mbx = s.mbx := rfl
@[simp] theorem modEnc_sem (n : Nat) (k : Nat) (f : Enc → Enc) (s : State) :
    (modEnc n k f s).sem = s.sem := rfl
@[simp] theorem modEnc_pwr (n : Nat) (k : Nat) (f : Enc → Enc) (s : State) :
    (modEnc n k f s).pwr = s.pwr := rfl
@[simp] theorem modEnc_fcl (n : Nat) (k : Nat) (f : Enc → Enc) (s : State) :
    (modEnc n k f s).fcl = s.fcl := rfl
@[simp] theorem modEnc_ldg (n : Nat) (k : Nat) (f : Enc → Enc) (s : State) :
    (modEnc n k f s).ldg = s.ldg := rfl
@[simp] theorem modEnc_tly (n : Nat) (k : Nat) (f : Enc → Enc) (s : State) :
    (modEnc n k f s).tly = s.tly := rfl
@[simp] theorem modEnc_sth (n : Nat) (k : Nat) (f : Enc → Enc) (s : State) :
    (modEnc n k f s).sth = s.sth := rfl
@[simp] theorem modEnc_sec (n : Nat) (k : Nat) (f : Enc → Enc) (s : State) :
    (modEnc n k f s).sec = s.sec := rfl
@[simp] theorem modEnc_mag (n : Nat) (k : Nat) (f : Enc → Enc) (s : State) :
    (modEnc n k f s).mag = s.mag := rfl
@[simp] theorem modEnc_magIn (n : Nat) (k : Nat) (f : Enc → Enc) (s : State) :
    (modEnc n k f s).magIn = s.magIn := rfl
@[simp] theorem modEnc_prt (n : Nat) (k : Nat) (f : Enc → Enc) (s : State) :
    (modEnc n k f s).prt = s.prt := rfl

@[simp] theorem modGau_pending (n : Nat) (k : Nat) (f : Gau → Gau) (s : State) :
    (modGau n k f s).pending = s.pending := rfl
@[simp] theorem modGau_now (n : Nat) (k : Nat) (f : Gau → Gau) (s : State) :
    (modGau n k f s).now = s.now := rfl
@[simp] theorem modGau_free (n : Nat) (k : Nat) (f : Gau → Gau) (s : State) :
    (modGau n k f s).free = s.free := rfl
@[simp] theorem modGau_bus (n : Nat) (k : Nat) (f : Gau → Gau) (s : State) :
    (modGau n k f s).bus = s.bus := rfl
@[simp] theorem modGau_rck (n : Nat) (k : Nat) (f : Gau → Gau) (s : State) :
    (modGau n k f s).rck = s.rck := rfl
@[simp] theorem modGau_ptp (n : Nat) (k : Nat) (f : Gau → Gau) (s : State) :
    (modGau n k f s).ptp = s.ptp := rfl
@[simp] theorem modGau_lane (n : Nat) (k : Nat) (f : Gau → Gau) (s : State) :
    (modGau n k f s).lane = s.lane := rfl
@[simp] theorem modGau_lfi (n : Nat) (k : Nat) (f : Gau → Gau) (s : State) :
    (modGau n k f s).lfi = s.lfi := rfl
@[simp] theorem modGau_port (n : Nat) (k : Nat) (f : Gau → Gau) (s : State) :
    (modGau n k f s).port = s.port := rfl
@[simp] theorem modGau_swt (n : Nat) (k : Nat) (f : Gau → Gau) (s : State) :
    (modGau n k f s).swt = s.swt := rfl
@[simp] theorem modGau_ndl (n : Nat) (k : Nat) (f : Gau → Gau) (s : State) :
    (modGau n k f s).ndl = s.ndl := rfl
@[simp] theorem modGau_bank (n : Nat) (k : Nat) (f : Gau → Gau) (s : State) :
    (modGau n k f s).bank = s.bank := rfl
@[simp] theorem modGau_dist (n : Nat) (k : Nat) (f : Gau → Gau) (s : State) :
    (modGau n k f s).dist = s.dist := rfl
@[simp] theorem modGau_skn (n : Nat) (k : Nat) (f : Gau → Gau) (s : State) :
    (modGau n k f s).skn = s.skn := rfl
@[simp] theorem modGau_pl (n : Nat) (k : Nat) (f : Gau → Gau) (s : State) :
    (modGau n k f s).pl = s.pl := rfl
@[simp] theorem modGau_joint (n : Nat) (k : Nat) (f : Gau → Gau) (s : State) :
    (modGau n k f s).joint = s.joint := rfl
@[simp] theorem modGau_mem (n : Nat) (k : Nat) (f : Gau → Gau) (s : State) :
    (modGau n k f s).mem = s.mem := rfl
@[simp] theorem modGau_stl (n : Nat) (k : Nat) (f : Gau → Gau) (s : State) :
    (modGau n k f s).stl = s.stl := rfl
@[simp] theorem modGau_eth (n : Nat) (k : Nat) (f : Gau → Gau) (s : State) :
    (modGau n k f s).eth = s.eth := rfl
@[simp] theorem modGau_ssw (n : Nat) (k : Nat) (f : Gau → Gau) (s : State) :
    (modGau n k f s).ssw = s.ssw := rfl
@[simp] theorem modGau_ft (n : Nat) (k : Nat) (f : Gau → Gau) (s : State) :
    (modGau n k f s).ft = s.ft := rfl
@[simp] theorem modGau_arrivals (n : Nat) (k : Nat) (f : Gau → Gau) (s : State) :
    (modGau n k f s).arrivals = s.arrivals := rfl
@[simp] theorem modGau_ict (n : Nat) (k : Nat) (f : Gau → Gau) (s : State) :
    (modGau n k f s).ict = s.ict := rfl
@[simp] theorem modGau_mbx (n : Nat) (k : Nat) (f : Gau → Gau) (s : State) :
    (modGau n k f s).mbx = s.mbx := rfl
@[simp] theorem modGau_sem (n : Nat) (k : Nat) (f : Gau → Gau) (s : State) :
    (modGau n k f s).sem = s.sem := rfl
@[simp] theorem modGau_pwr (n : Nat) (k : Nat) (f : Gau → Gau) (s : State) :
    (modGau n k f s).pwr = s.pwr := rfl
@[simp] theorem modGau_fcl (n : Nat) (k : Nat) (f : Gau → Gau) (s : State) :
    (modGau n k f s).fcl = s.fcl := rfl
@[simp] theorem modGau_ldg (n : Nat) (k : Nat) (f : Gau → Gau) (s : State) :
    (modGau n k f s).ldg = s.ldg := rfl
@[simp] theorem modGau_tly (n : Nat) (k : Nat) (f : Gau → Gau) (s : State) :
    (modGau n k f s).tly = s.tly := rfl
@[simp] theorem modGau_sth (n : Nat) (k : Nat) (f : Gau → Gau) (s : State) :
    (modGau n k f s).sth = s.sth := rfl
@[simp] theorem modGau_sec (n : Nat) (k : Nat) (f : Gau → Gau) (s : State) :
    (modGau n k f s).sec = s.sec := rfl
@[simp] theorem modGau_mag (n : Nat) (k : Nat) (f : Gau → Gau) (s : State) :
    (modGau n k f s).mag = s.mag := rfl
@[simp] theorem modGau_magIn (n : Nat) (k : Nat) (f : Gau → Gau) (s : State) :
    (modGau n k f s).magIn = s.magIn := rfl
@[simp] theorem modGau_prt (n : Nat) (k : Nat) (f : Gau → Gau) (s : State) :
    (modGau n k f s).prt = s.prt := rfl

@[simp] theorem modDec_pending (n : Nat) (i : Nat) (f : Dec → Dec) (s : State) :
    (modDec n i f s).pending = s.pending := rfl
@[simp] theorem modDec_now (n : Nat) (i : Nat) (f : Dec → Dec) (s : State) :
    (modDec n i f s).now = s.now := rfl
@[simp] theorem modDec_free (n : Nat) (i : Nat) (f : Dec → Dec) (s : State) :
    (modDec n i f s).free = s.free := rfl
@[simp] theorem modDec_bus (n : Nat) (i : Nat) (f : Dec → Dec) (s : State) :
    (modDec n i f s).bus = s.bus := rfl
@[simp] theorem modDec_rck (n : Nat) (i : Nat) (f : Dec → Dec) (s : State) :
    (modDec n i f s).rck = s.rck := rfl
@[simp] theorem modDec_ptp (n : Nat) (i : Nat) (f : Dec → Dec) (s : State) :
    (modDec n i f s).ptp = s.ptp := rfl
@[simp] theorem modDec_lane (n : Nat) (i : Nat) (f : Dec → Dec) (s : State) :
    (modDec n i f s).lane = s.lane := rfl
@[simp] theorem modDec_lfi (n : Nat) (i : Nat) (f : Dec → Dec) (s : State) :
    (modDec n i f s).lfi = s.lfi := rfl
@[simp] theorem modDec_port (n : Nat) (i : Nat) (f : Dec → Dec) (s : State) :
    (modDec n i f s).port = s.port := rfl
@[simp] theorem modDec_swt (n : Nat) (i : Nat) (f : Dec → Dec) (s : State) :
    (modDec n i f s).swt = s.swt := rfl
@[simp] theorem modDec_ndl (n : Nat) (i : Nat) (f : Dec → Dec) (s : State) :
    (modDec n i f s).ndl = s.ndl := rfl
@[simp] theorem modDec_bank (n : Nat) (i : Nat) (f : Dec → Dec) (s : State) :
    (modDec n i f s).bank = s.bank := rfl
@[simp] theorem modDec_dist (n : Nat) (i : Nat) (f : Dec → Dec) (s : State) :
    (modDec n i f s).dist = s.dist := rfl
@[simp] theorem modDec_skn (n : Nat) (i : Nat) (f : Dec → Dec) (s : State) :
    (modDec n i f s).skn = s.skn := rfl
@[simp] theorem modDec_pl (n : Nat) (i : Nat) (f : Dec → Dec) (s : State) :
    (modDec n i f s).pl = s.pl := rfl
@[simp] theorem modDec_joint (n : Nat) (i : Nat) (f : Dec → Dec) (s : State) :
    (modDec n i f s).joint = s.joint := rfl
@[simp] theorem modDec_mem (n : Nat) (i : Nat) (f : Dec → Dec) (s : State) :
    (modDec n i f s).mem = s.mem := rfl
@[simp] theorem modDec_stl (n : Nat) (i : Nat) (f : Dec → Dec) (s : State) :
    (modDec n i f s).stl = s.stl := rfl
@[simp] theorem modDec_eth (n : Nat) (i : Nat) (f : Dec → Dec) (s : State) :
    (modDec n i f s).eth = s.eth := rfl
@[simp] theorem modDec_ssw (n : Nat) (i : Nat) (f : Dec → Dec) (s : State) :
    (modDec n i f s).ssw = s.ssw := rfl
@[simp] theorem modDec_ft (n : Nat) (i : Nat) (f : Dec → Dec) (s : State) :
    (modDec n i f s).ft = s.ft := rfl
@[simp] theorem modDec_arrivals (n : Nat) (i : Nat) (f : Dec → Dec) (s : State) :
    (modDec n i f s).arrivals = s.arrivals := rfl
@[simp] theorem modDec_ict (n : Nat) (i : Nat) (f : Dec → Dec) (s : State) :
    (modDec n i f s).ict = s.ict := rfl
@[simp] theorem modDec_mbx (n : Nat) (i : Nat) (f : Dec → Dec) (s : State) :
    (modDec n i f s).mbx = s.mbx := rfl
@[simp] theorem modDec_sem (n : Nat) (i : Nat) (f : Dec → Dec) (s : State) :
    (modDec n i f s).sem = s.sem := rfl
@[simp] theorem modDec_pwr (n : Nat) (i : Nat) (f : Dec → Dec) (s : State) :
    (modDec n i f s).pwr = s.pwr := rfl
@[simp] theorem modDec_fcl (n : Nat) (i : Nat) (f : Dec → Dec) (s : State) :
    (modDec n i f s).fcl = s.fcl := rfl
@[simp] theorem modDec_ldg (n : Nat) (i : Nat) (f : Dec → Dec) (s : State) :
    (modDec n i f s).ldg = s.ldg := rfl
@[simp] theorem modDec_tly (n : Nat) (i : Nat) (f : Dec → Dec) (s : State) :
    (modDec n i f s).tly = s.tly := rfl
@[simp] theorem modDec_sth (n : Nat) (i : Nat) (f : Dec → Dec) (s : State) :
    (modDec n i f s).sth = s.sth := rfl
@[simp] theorem modDec_sec (n : Nat) (i : Nat) (f : Dec → Dec) (s : State) :
    (modDec n i f s).sec = s.sec := rfl
@[simp] theorem modDec_mag (n : Nat) (i : Nat) (f : Dec → Dec) (s : State) :
    (modDec n i f s).mag = s.mag := rfl
@[simp] theorem modDec_magIn (n : Nat) (i : Nat) (f : Dec → Dec) (s : State) :
    (modDec n i f s).magIn = s.magIn := rfl
@[simp] theorem modDec_prt (n : Nat) (i : Nat) (f : Dec → Dec) (s : State) :
    (modDec n i f s).prt = s.prt := rfl

@[simp] theorem modMem_pending (f : Mem → Mem) (s : State) :
    (modMem f s).pending = s.pending := rfl
@[simp] theorem modMem_now (f : Mem → Mem) (s : State) :
    (modMem f s).now = s.now := rfl
@[simp] theorem modMem_free (f : Mem → Mem) (s : State) :
    (modMem f s).free = s.free := rfl
@[simp] theorem modMem_bus (f : Mem → Mem) (s : State) :
    (modMem f s).bus = s.bus := rfl
@[simp] theorem modMem_rck (f : Mem → Mem) (s : State) :
    (modMem f s).rck = s.rck := rfl
@[simp] theorem modMem_ptp (f : Mem → Mem) (s : State) :
    (modMem f s).ptp = s.ptp := rfl
@[simp] theorem modMem_lane (f : Mem → Mem) (s : State) :
    (modMem f s).lane = s.lane := rfl
@[simp] theorem modMem_lfi (f : Mem → Mem) (s : State) :
    (modMem f s).lfi = s.lfi := rfl
@[simp] theorem modMem_port (f : Mem → Mem) (s : State) :
    (modMem f s).port = s.port := rfl
@[simp] theorem modMem_swt (f : Mem → Mem) (s : State) :
    (modMem f s).swt = s.swt := rfl
@[simp] theorem modMem_ndl (f : Mem → Mem) (s : State) :
    (modMem f s).ndl = s.ndl := rfl
@[simp] theorem modMem_bank (f : Mem → Mem) (s : State) :
    (modMem f s).bank = s.bank := rfl
@[simp] theorem modMem_dist (f : Mem → Mem) (s : State) :
    (modMem f s).dist = s.dist := rfl
@[simp] theorem modMem_skn (f : Mem → Mem) (s : State) :
    (modMem f s).skn = s.skn := rfl
@[simp] theorem modMem_pat (f : Mem → Mem) (s : State) :
    (modMem f s).pat = s.pat := rfl
@[simp] theorem modMem_pl (f : Mem → Mem) (s : State) :
    (modMem f s).pl = s.pl := rfl
@[simp] theorem modMem_joint (f : Mem → Mem) (s : State) :
    (modMem f s).joint = s.joint := rfl
@[simp] theorem modMem_stl (f : Mem → Mem) (s : State) :
    (modMem f s).stl = s.stl := rfl
@[simp] theorem modMem_eth (f : Mem → Mem) (s : State) :
    (modMem f s).eth = s.eth := rfl
@[simp] theorem modMem_ssw (f : Mem → Mem) (s : State) :
    (modMem f s).ssw = s.ssw := rfl
@[simp] theorem modMem_ft (f : Mem → Mem) (s : State) :
    (modMem f s).ft = s.ft := rfl
@[simp] theorem modMem_arrivals (f : Mem → Mem) (s : State) :
    (modMem f s).arrivals = s.arrivals := rfl
@[simp] theorem modMem_ict (f : Mem → Mem) (s : State) :
    (modMem f s).ict = s.ict := rfl
@[simp] theorem modMem_mbx (f : Mem → Mem) (s : State) :
    (modMem f s).mbx = s.mbx := rfl
@[simp] theorem modMem_sem (f : Mem → Mem) (s : State) :
    (modMem f s).sem = s.sem := rfl
@[simp] theorem modMem_pwr (f : Mem → Mem) (s : State) :
    (modMem f s).pwr = s.pwr := rfl
@[simp] theorem modMem_fcl (f : Mem → Mem) (s : State) :
    (modMem f s).fcl = s.fcl := rfl
@[simp] theorem modMem_ldg (f : Mem → Mem) (s : State) :
    (modMem f s).ldg = s.ldg := rfl
@[simp] theorem modMem_tly (f : Mem → Mem) (s : State) :
    (modMem f s).tly = s.tly := rfl
@[simp] theorem modMem_sth (f : Mem → Mem) (s : State) :
    (modMem f s).sth = s.sth := rfl
@[simp] theorem modMem_sec (f : Mem → Mem) (s : State) :
    (modMem f s).sec = s.sec := rfl
@[simp] theorem modMem_mag (f : Mem → Mem) (s : State) :
    (modMem f s).mag = s.mag := rfl
@[simp] theorem modMem_magIn (f : Mem → Mem) (s : State) :
    (modMem f s).magIn = s.magIn := rfl
@[simp] theorem modMem_prt (f : Mem → Mem) (s : State) :
    (modMem f s).prt = s.prt := rfl

@[simp] theorem modBay_pending (b : Nat) (f : Bay → Bay) (s : State) :
    (modBay b f s).pending = s.pending := rfl
@[simp] theorem modBay_now (b : Nat) (f : Bay → Bay) (s : State) :
    (modBay b f s).now = s.now := rfl
@[simp] theorem modBay_free (b : Nat) (f : Bay → Bay) (s : State) :
    (modBay b f s).free = s.free := rfl
@[simp] theorem modBay_bus (b : Nat) (f : Bay → Bay) (s : State) :
    (modBay b f s).bus = s.bus := rfl
@[simp] theorem modBay_rck (b : Nat) (f : Bay → Bay) (s : State) :
    (modBay b f s).rck = s.rck := rfl
@[simp] theorem modBay_ptp (b : Nat) (f : Bay → Bay) (s : State) :
    (modBay b f s).ptp = s.ptp := rfl
@[simp] theorem modBay_lane (b : Nat) (f : Bay → Bay) (s : State) :
    (modBay b f s).lane = s.lane := rfl
@[simp] theorem modBay_lfi (b : Nat) (f : Bay → Bay) (s : State) :
    (modBay b f s).lfi = s.lfi := rfl
@[simp] theorem modBay_port (b : Nat) (f : Bay → Bay) (s : State) :
    (modBay b f s).port = s.port := rfl
@[simp] theorem modBay_swt (b : Nat) (f : Bay → Bay) (s : State) :
    (modBay b f s).swt = s.swt := rfl
@[simp] theorem modBay_ndl (b : Nat) (f : Bay → Bay) (s : State) :
    (modBay b f s).ndl = s.ndl := rfl
@[simp] theorem modBay_bank (b : Nat) (f : Bay → Bay) (s : State) :
    (modBay b f s).bank = s.bank := rfl
@[simp] theorem modBay_dist (b : Nat) (f : Bay → Bay) (s : State) :
    (modBay b f s).dist = s.dist := rfl
@[simp] theorem modBay_skn (b : Nat) (f : Bay → Bay) (s : State) :
    (modBay b f s).skn = s.skn := rfl
@[simp] theorem modBay_pat (b : Nat) (f : Bay → Bay) (s : State) :
    (modBay b f s).pat = s.pat := rfl
@[simp] theorem modBay_pl (b : Nat) (f : Bay → Bay) (s : State) :
    (modBay b f s).pl = s.pl := rfl
@[simp] theorem modBay_joint (b : Nat) (f : Bay → Bay) (s : State) :
    (modBay b f s).joint = s.joint := rfl
@[simp] theorem modBay_stl (b : Nat) (f : Bay → Bay) (s : State) :
    (modBay b f s).stl = s.stl := rfl
@[simp] theorem modBay_eth (b : Nat) (f : Bay → Bay) (s : State) :
    (modBay b f s).eth = s.eth := rfl
@[simp] theorem modBay_ssw (b : Nat) (f : Bay → Bay) (s : State) :
    (modBay b f s).ssw = s.ssw := rfl
@[simp] theorem modBay_ft (b : Nat) (f : Bay → Bay) (s : State) :
    (modBay b f s).ft = s.ft := rfl
@[simp] theorem modBay_arrivals (b : Nat) (f : Bay → Bay) (s : State) :
    (modBay b f s).arrivals = s.arrivals := rfl
@[simp] theorem modBay_ict (b : Nat) (f : Bay → Bay) (s : State) :
    (modBay b f s).ict = s.ict := rfl
@[simp] theorem modBay_mbx (b : Nat) (f : Bay → Bay) (s : State) :
    (modBay b f s).mbx = s.mbx := rfl
@[simp] theorem modBay_sem (b : Nat) (f : Bay → Bay) (s : State) :
    (modBay b f s).sem = s.sem := rfl
@[simp] theorem modBay_pwr (b : Nat) (f : Bay → Bay) (s : State) :
    (modBay b f s).pwr = s.pwr := rfl
@[simp] theorem modBay_fcl (b : Nat) (f : Bay → Bay) (s : State) :
    (modBay b f s).fcl = s.fcl := rfl
@[simp] theorem modBay_ldg (b : Nat) (f : Bay → Bay) (s : State) :
    (modBay b f s).ldg = s.ldg := rfl
@[simp] theorem modBay_tly (b : Nat) (f : Bay → Bay) (s : State) :
    (modBay b f s).tly = s.tly := rfl
@[simp] theorem modBay_sth (b : Nat) (f : Bay → Bay) (s : State) :
    (modBay b f s).sth = s.sth := rfl
@[simp] theorem modBay_sec (b : Nat) (f : Bay → Bay) (s : State) :
    (modBay b f s).sec = s.sec := rfl
@[simp] theorem modBay_mag (b : Nat) (f : Bay → Bay) (s : State) :
    (modBay b f s).mag = s.mag := rfl
@[simp] theorem modBay_magIn (b : Nat) (f : Bay → Bay) (s : State) :
    (modBay b f s).magIn = s.magIn := rfl
@[simp] theorem modBay_prt (b : Nat) (f : Bay → Bay) (s : State) :
    (modBay b f s).prt = s.prt := rfl

@[simp] theorem modMch_pending (c : Nat) (f : Mch → Mch) (s : State) :
    (modMch c f s).pending = s.pending := rfl
@[simp] theorem modMch_now (c : Nat) (f : Mch → Mch) (s : State) :
    (modMch c f s).now = s.now := rfl
@[simp] theorem modMch_free (c : Nat) (f : Mch → Mch) (s : State) :
    (modMch c f s).free = s.free := rfl
@[simp] theorem modMch_bus (c : Nat) (f : Mch → Mch) (s : State) :
    (modMch c f s).bus = s.bus := rfl
@[simp] theorem modMch_rck (c : Nat) (f : Mch → Mch) (s : State) :
    (modMch c f s).rck = s.rck := rfl
@[simp] theorem modMch_ptp (c : Nat) (f : Mch → Mch) (s : State) :
    (modMch c f s).ptp = s.ptp := rfl
@[simp] theorem modMch_lane (c : Nat) (f : Mch → Mch) (s : State) :
    (modMch c f s).lane = s.lane := rfl
@[simp] theorem modMch_lfi (c : Nat) (f : Mch → Mch) (s : State) :
    (modMch c f s).lfi = s.lfi := rfl
@[simp] theorem modMch_port (c : Nat) (f : Mch → Mch) (s : State) :
    (modMch c f s).port = s.port := rfl
@[simp] theorem modMch_swt (c : Nat) (f : Mch → Mch) (s : State) :
    (modMch c f s).swt = s.swt := rfl
@[simp] theorem modMch_ndl (c : Nat) (f : Mch → Mch) (s : State) :
    (modMch c f s).ndl = s.ndl := rfl
@[simp] theorem modMch_bank (c : Nat) (f : Mch → Mch) (s : State) :
    (modMch c f s).bank = s.bank := rfl
@[simp] theorem modMch_dist (c : Nat) (f : Mch → Mch) (s : State) :
    (modMch c f s).dist = s.dist := rfl
@[simp] theorem modMch_skn (c : Nat) (f : Mch → Mch) (s : State) :
    (modMch c f s).skn = s.skn := rfl
@[simp] theorem modMch_pat (c : Nat) (f : Mch → Mch) (s : State) :
    (modMch c f s).pat = s.pat := rfl
@[simp] theorem modMch_pl (c : Nat) (f : Mch → Mch) (s : State) :
    (modMch c f s).pl = s.pl := rfl
@[simp] theorem modMch_joint (c : Nat) (f : Mch → Mch) (s : State) :
    (modMch c f s).joint = s.joint := rfl
@[simp] theorem modMch_stl (c : Nat) (f : Mch → Mch) (s : State) :
    (modMch c f s).stl = s.stl := rfl
@[simp] theorem modMch_eth (c : Nat) (f : Mch → Mch) (s : State) :
    (modMch c f s).eth = s.eth := rfl
@[simp] theorem modMch_ssw (c : Nat) (f : Mch → Mch) (s : State) :
    (modMch c f s).ssw = s.ssw := rfl
@[simp] theorem modMch_ft (c : Nat) (f : Mch → Mch) (s : State) :
    (modMch c f s).ft = s.ft := rfl
@[simp] theorem modMch_arrivals (c : Nat) (f : Mch → Mch) (s : State) :
    (modMch c f s).arrivals = s.arrivals := rfl
@[simp] theorem modMch_ict (c : Nat) (f : Mch → Mch) (s : State) :
    (modMch c f s).ict = s.ict := rfl
@[simp] theorem modMch_mbx (c : Nat) (f : Mch → Mch) (s : State) :
    (modMch c f s).mbx = s.mbx := rfl
@[simp] theorem modMch_sem (c : Nat) (f : Mch → Mch) (s : State) :
    (modMch c f s).sem = s.sem := rfl
@[simp] theorem modMch_pwr (c : Nat) (f : Mch → Mch) (s : State) :
    (modMch c f s).pwr = s.pwr := rfl
@[simp] theorem modMch_fcl (c : Nat) (f : Mch → Mch) (s : State) :
    (modMch c f s).fcl = s.fcl := rfl
@[simp] theorem modMch_ldg (c : Nat) (f : Mch → Mch) (s : State) :
    (modMch c f s).ldg = s.ldg := rfl
@[simp] theorem modMch_tly (c : Nat) (f : Mch → Mch) (s : State) :
    (modMch c f s).tly = s.tly := rfl
@[simp] theorem modMch_sth (c : Nat) (f : Mch → Mch) (s : State) :
    (modMch c f s).sth = s.sth := rfl
@[simp] theorem modMch_sec (c : Nat) (f : Mch → Mch) (s : State) :
    (modMch c f s).sec = s.sec := rfl
@[simp] theorem modMch_mag (c : Nat) (f : Mch → Mch) (s : State) :
    (modMch c f s).mag = s.mag := rfl
@[simp] theorem modMch_magIn (c : Nat) (f : Mch → Mch) (s : State) :
    (modMch c f s).magIn = s.magIn := rfl
@[simp] theorem modMch_prt (c : Nat) (f : Mch → Mch) (s : State) :
    (modMch c f s).prt = s.prt := rfl

@[simp] theorem modSth_pending (f : Sth → Sth) (s : State) :
    (modSth f s).pending = s.pending := rfl
@[simp] theorem modSth_now (f : Sth → Sth) (s : State) :
    (modSth f s).now = s.now := rfl
@[simp] theorem modSth_free (f : Sth → Sth) (s : State) :
    (modSth f s).free = s.free := rfl
@[simp] theorem modSth_bus (f : Sth → Sth) (s : State) :
    (modSth f s).bus = s.bus := rfl
@[simp] theorem modSth_rck (f : Sth → Sth) (s : State) :
    (modSth f s).rck = s.rck := rfl
@[simp] theorem modSth_ptp (f : Sth → Sth) (s : State) :
    (modSth f s).ptp = s.ptp := rfl
@[simp] theorem modSth_lane (f : Sth → Sth) (s : State) :
    (modSth f s).lane = s.lane := rfl
@[simp] theorem modSth_lfi (f : Sth → Sth) (s : State) :
    (modSth f s).lfi = s.lfi := rfl
@[simp] theorem modSth_port (f : Sth → Sth) (s : State) :
    (modSth f s).port = s.port := rfl
@[simp] theorem modSth_swt (f : Sth → Sth) (s : State) :
    (modSth f s).swt = s.swt := rfl
@[simp] theorem modSth_ndl (f : Sth → Sth) (s : State) :
    (modSth f s).ndl = s.ndl := rfl
@[simp] theorem modSth_bank (f : Sth → Sth) (s : State) :
    (modSth f s).bank = s.bank := rfl
@[simp] theorem modSth_dist (f : Sth → Sth) (s : State) :
    (modSth f s).dist = s.dist := rfl
@[simp] theorem modSth_skn (f : Sth → Sth) (s : State) :
    (modSth f s).skn = s.skn := rfl
@[simp] theorem modSth_pat (f : Sth → Sth) (s : State) :
    (modSth f s).pat = s.pat := rfl
@[simp] theorem modSth_pl (f : Sth → Sth) (s : State) :
    (modSth f s).pl = s.pl := rfl
@[simp] theorem modSth_joint (f : Sth → Sth) (s : State) :
    (modSth f s).joint = s.joint := rfl
@[simp] theorem modSth_mem (f : Sth → Sth) (s : State) :
    (modSth f s).mem = s.mem := rfl
@[simp] theorem modSth_stl (f : Sth → Sth) (s : State) :
    (modSth f s).stl = s.stl := rfl
@[simp] theorem modSth_eth (f : Sth → Sth) (s : State) :
    (modSth f s).eth = s.eth := rfl
@[simp] theorem modSth_ssw (f : Sth → Sth) (s : State) :
    (modSth f s).ssw = s.ssw := rfl
@[simp] theorem modSth_ft (f : Sth → Sth) (s : State) :
    (modSth f s).ft = s.ft := rfl
@[simp] theorem modSth_arrivals (f : Sth → Sth) (s : State) :
    (modSth f s).arrivals = s.arrivals := rfl
@[simp] theorem modSth_ict (f : Sth → Sth) (s : State) :
    (modSth f s).ict = s.ict := rfl
@[simp] theorem modSth_mbx (f : Sth → Sth) (s : State) :
    (modSth f s).mbx = s.mbx := rfl
@[simp] theorem modSth_sem (f : Sth → Sth) (s : State) :
    (modSth f s).sem = s.sem := rfl
@[simp] theorem modSth_pwr (f : Sth → Sth) (s : State) :
    (modSth f s).pwr = s.pwr := rfl
@[simp] theorem modSth_fcl (f : Sth → Sth) (s : State) :
    (modSth f s).fcl = s.fcl := rfl
@[simp] theorem modSth_ldg (f : Sth → Sth) (s : State) :
    (modSth f s).ldg = s.ldg := rfl
@[simp] theorem modSth_tly (f : Sth → Sth) (s : State) :
    (modSth f s).tly = s.tly := rfl
@[simp] theorem modSth_sec (f : Sth → Sth) (s : State) :
    (modSth f s).sec = s.sec := rfl
@[simp] theorem modSth_mag (f : Sth → Sth) (s : State) :
    (modSth f s).mag = s.mag := rfl
@[simp] theorem modSth_magIn (f : Sth → Sth) (s : State) :
    (modSth f s).magIn = s.magIn := rfl
@[simp] theorem modSth_prt (f : Sth → Sth) (s : State) :
    (modSth f s).prt = s.prt := rfl

@[simp] theorem modLink_pending (k : Nat) (f : SthLink → SthLink) (s : State) :
    (modLink k f s).pending = s.pending := rfl
@[simp] theorem modLink_now (k : Nat) (f : SthLink → SthLink) (s : State) :
    (modLink k f s).now = s.now := rfl
@[simp] theorem modLink_free (k : Nat) (f : SthLink → SthLink) (s : State) :
    (modLink k f s).free = s.free := rfl
@[simp] theorem modLink_bus (k : Nat) (f : SthLink → SthLink) (s : State) :
    (modLink k f s).bus = s.bus := rfl
@[simp] theorem modLink_rck (k : Nat) (f : SthLink → SthLink) (s : State) :
    (modLink k f s).rck = s.rck := rfl
@[simp] theorem modLink_ptp (k : Nat) (f : SthLink → SthLink) (s : State) :
    (modLink k f s).ptp = s.ptp := rfl
@[simp] theorem modLink_lane (k : Nat) (f : SthLink → SthLink) (s : State) :
    (modLink k f s).lane = s.lane := rfl
@[simp] theorem modLink_lfi (k : Nat) (f : SthLink → SthLink) (s : State) :
    (modLink k f s).lfi = s.lfi := rfl
@[simp] theorem modLink_port (k : Nat) (f : SthLink → SthLink) (s : State) :
    (modLink k f s).port = s.port := rfl
@[simp] theorem modLink_swt (k : Nat) (f : SthLink → SthLink) (s : State) :
    (modLink k f s).swt = s.swt := rfl
@[simp] theorem modLink_ndl (k : Nat) (f : SthLink → SthLink) (s : State) :
    (modLink k f s).ndl = s.ndl := rfl
@[simp] theorem modLink_bank (k : Nat) (f : SthLink → SthLink) (s : State) :
    (modLink k f s).bank = s.bank := rfl
@[simp] theorem modLink_dist (k : Nat) (f : SthLink → SthLink) (s : State) :
    (modLink k f s).dist = s.dist := rfl
@[simp] theorem modLink_skn (k : Nat) (f : SthLink → SthLink) (s : State) :
    (modLink k f s).skn = s.skn := rfl
@[simp] theorem modLink_pat (k : Nat) (f : SthLink → SthLink) (s : State) :
    (modLink k f s).pat = s.pat := rfl
@[simp] theorem modLink_pl (k : Nat) (f : SthLink → SthLink) (s : State) :
    (modLink k f s).pl = s.pl := rfl
@[simp] theorem modLink_joint (k : Nat) (f : SthLink → SthLink) (s : State) :
    (modLink k f s).joint = s.joint := rfl
@[simp] theorem modLink_mem (k : Nat) (f : SthLink → SthLink) (s : State) :
    (modLink k f s).mem = s.mem := rfl
@[simp] theorem modLink_stl (k : Nat) (f : SthLink → SthLink) (s : State) :
    (modLink k f s).stl = s.stl := rfl
@[simp] theorem modLink_eth (k : Nat) (f : SthLink → SthLink) (s : State) :
    (modLink k f s).eth = s.eth := rfl
@[simp] theorem modLink_ssw (k : Nat) (f : SthLink → SthLink) (s : State) :
    (modLink k f s).ssw = s.ssw := rfl
@[simp] theorem modLink_ft (k : Nat) (f : SthLink → SthLink) (s : State) :
    (modLink k f s).ft = s.ft := rfl
@[simp] theorem modLink_arrivals (k : Nat) (f : SthLink → SthLink) (s : State) :
    (modLink k f s).arrivals = s.arrivals := rfl
@[simp] theorem modLink_ict (k : Nat) (f : SthLink → SthLink) (s : State) :
    (modLink k f s).ict = s.ict := rfl
@[simp] theorem modLink_mbx (k : Nat) (f : SthLink → SthLink) (s : State) :
    (modLink k f s).mbx = s.mbx := rfl
@[simp] theorem modLink_sem (k : Nat) (f : SthLink → SthLink) (s : State) :
    (modLink k f s).sem = s.sem := rfl
@[simp] theorem modLink_pwr (k : Nat) (f : SthLink → SthLink) (s : State) :
    (modLink k f s).pwr = s.pwr := rfl
@[simp] theorem modLink_fcl (k : Nat) (f : SthLink → SthLink) (s : State) :
    (modLink k f s).fcl = s.fcl := rfl
@[simp] theorem modLink_ldg (k : Nat) (f : SthLink → SthLink) (s : State) :
    (modLink k f s).ldg = s.ldg := rfl
@[simp] theorem modLink_tly (k : Nat) (f : SthLink → SthLink) (s : State) :
    (modLink k f s).tly = s.tly := rfl
@[simp] theorem modLink_sec (k : Nat) (f : SthLink → SthLink) (s : State) :
    (modLink k f s).sec = s.sec := rfl
@[simp] theorem modLink_mag (k : Nat) (f : SthLink → SthLink) (s : State) :
    (modLink k f s).mag = s.mag := rfl
@[simp] theorem modLink_magIn (k : Nat) (f : SthLink → SthLink) (s : State) :
    (modLink k f s).magIn = s.magIn := rfl
@[simp] theorem modLink_prt (k : Nat) (f : SthLink → SthLink) (s : State) :
    (modLink k f s).prt = s.prt := rfl

@[simp] theorem modKey_pending (f : Nat) (g : KeyGuard → KeyGuard) (s : State) :
    (modKey f g s).pending = s.pending := rfl
@[simp] theorem modKey_now (f : Nat) (g : KeyGuard → KeyGuard) (s : State) :
    (modKey f g s).now = s.now := rfl
@[simp] theorem modKey_free (f : Nat) (g : KeyGuard → KeyGuard) (s : State) :
    (modKey f g s).free = s.free := rfl
@[simp] theorem modKey_rck (f : Nat) (g : KeyGuard → KeyGuard) (s : State) :
    (modKey f g s).rck = s.rck := rfl
@[simp] theorem modKey_ptp (f : Nat) (g : KeyGuard → KeyGuard) (s : State) :
    (modKey f g s).ptp = s.ptp := rfl
@[simp] theorem modKey_lane (f : Nat) (g : KeyGuard → KeyGuard) (s : State) :
    (modKey f g s).lane = s.lane := rfl
@[simp] theorem modKey_lfi (f : Nat) (g : KeyGuard → KeyGuard) (s : State) :
    (modKey f g s).lfi = s.lfi := rfl
@[simp] theorem modKey_port (f : Nat) (g : KeyGuard → KeyGuard) (s : State) :
    (modKey f g s).port = s.port := rfl
@[simp] theorem modKey_swt (f : Nat) (g : KeyGuard → KeyGuard) (s : State) :
    (modKey f g s).swt = s.swt := rfl
@[simp] theorem modKey_ndl (f : Nat) (g : KeyGuard → KeyGuard) (s : State) :
    (modKey f g s).ndl = s.ndl := rfl
@[simp] theorem modKey_bank (f : Nat) (g : KeyGuard → KeyGuard) (s : State) :
    (modKey f g s).bank = s.bank := rfl
@[simp] theorem modKey_dist (f : Nat) (g : KeyGuard → KeyGuard) (s : State) :
    (modKey f g s).dist = s.dist := rfl
@[simp] theorem modKey_skn (f : Nat) (g : KeyGuard → KeyGuard) (s : State) :
    (modKey f g s).skn = s.skn := rfl
@[simp] theorem modKey_pat (f : Nat) (g : KeyGuard → KeyGuard) (s : State) :
    (modKey f g s).pat = s.pat := rfl
@[simp] theorem modKey_pl (f : Nat) (g : KeyGuard → KeyGuard) (s : State) :
    (modKey f g s).pl = s.pl := rfl
@[simp] theorem modKey_joint (f : Nat) (g : KeyGuard → KeyGuard) (s : State) :
    (modKey f g s).joint = s.joint := rfl
@[simp] theorem modKey_mem (f : Nat) (g : KeyGuard → KeyGuard) (s : State) :
    (modKey f g s).mem = s.mem := rfl
@[simp] theorem modKey_stl (f : Nat) (g : KeyGuard → KeyGuard) (s : State) :
    (modKey f g s).stl = s.stl := rfl
@[simp] theorem modKey_eth (f : Nat) (g : KeyGuard → KeyGuard) (s : State) :
    (modKey f g s).eth = s.eth := rfl
@[simp] theorem modKey_ssw (f : Nat) (g : KeyGuard → KeyGuard) (s : State) :
    (modKey f g s).ssw = s.ssw := rfl
@[simp] theorem modKey_ft (f : Nat) (g : KeyGuard → KeyGuard) (s : State) :
    (modKey f g s).ft = s.ft := rfl
@[simp] theorem modKey_arrivals (f : Nat) (g : KeyGuard → KeyGuard) (s : State) :
    (modKey f g s).arrivals = s.arrivals := rfl
@[simp] theorem modKey_ict (f : Nat) (g : KeyGuard → KeyGuard) (s : State) :
    (modKey f g s).ict = s.ict := rfl
@[simp] theorem modKey_mbx (f : Nat) (g : KeyGuard → KeyGuard) (s : State) :
    (modKey f g s).mbx = s.mbx := rfl
@[simp] theorem modKey_sem (f : Nat) (g : KeyGuard → KeyGuard) (s : State) :
    (modKey f g s).sem = s.sem := rfl
@[simp] theorem modKey_pwr (f : Nat) (g : KeyGuard → KeyGuard) (s : State) :
    (modKey f g s).pwr = s.pwr := rfl
@[simp] theorem modKey_fcl (f : Nat) (g : KeyGuard → KeyGuard) (s : State) :
    (modKey f g s).fcl = s.fcl := rfl
@[simp] theorem modKey_ldg (f : Nat) (g : KeyGuard → KeyGuard) (s : State) :
    (modKey f g s).ldg = s.ldg := rfl
@[simp] theorem modKey_tly (f : Nat) (g : KeyGuard → KeyGuard) (s : State) :
    (modKey f g s).tly = s.tly := rfl
@[simp] theorem modKey_sth (f : Nat) (g : KeyGuard → KeyGuard) (s : State) :
    (modKey f g s).sth = s.sth := rfl
@[simp] theorem modKey_sec (f : Nat) (g : KeyGuard → KeyGuard) (s : State) :
    (modKey f g s).sec = s.sec := rfl
@[simp] theorem modKey_mag (f : Nat) (g : KeyGuard → KeyGuard) (s : State) :
    (modKey f g s).mag = s.mag := rfl
@[simp] theorem modKey_magIn (f : Nat) (g : KeyGuard → KeyGuard) (s : State) :
    (modKey f g s).magIn = s.magIn := rfl
@[simp] theorem modKey_prt (f : Nat) (g : KeyGuard → KeyGuard) (s : State) :
    (modKey f g s).prt = s.prt := rfl

@[simp] theorem served_pending (f : Nat) (req : Nat) (s : State) :
    (served f req s).pending = s.pending := rfl
@[simp] theorem served_now (f : Nat) (req : Nat) (s : State) :
    (served f req s).now = s.now := rfl
@[simp] theorem served_free (f : Nat) (req : Nat) (s : State) :
    (served f req s).free = s.free := rfl
@[simp] theorem served_rck (f : Nat) (req : Nat) (s : State) :
    (served f req s).rck = s.rck := rfl
@[simp] theorem served_ptp (f : Nat) (req : Nat) (s : State) :
    (served f req s).ptp = s.ptp := rfl
@[simp] theorem served_lane (f : Nat) (req : Nat) (s : State) :
    (served f req s).lane = s.lane := rfl
@[simp] theorem served_lfi (f : Nat) (req : Nat) (s : State) :
    (served f req s).lfi = s.lfi := rfl
@[simp] theorem served_port (f : Nat) (req : Nat) (s : State) :
    (served f req s).port = s.port := rfl
@[simp] theorem served_swt (f : Nat) (req : Nat) (s : State) :
    (served f req s).swt = s.swt := rfl
@[simp] theorem served_ndl (f : Nat) (req : Nat) (s : State) :
    (served f req s).ndl = s.ndl := rfl
@[simp] theorem served_bank (f : Nat) (req : Nat) (s : State) :
    (served f req s).bank = s.bank := rfl
@[simp] theorem served_dist (f : Nat) (req : Nat) (s : State) :
    (served f req s).dist = s.dist := rfl
@[simp] theorem served_skn (f : Nat) (req : Nat) (s : State) :
    (served f req s).skn = s.skn := rfl
@[simp] theorem served_pat (f : Nat) (req : Nat) (s : State) :
    (served f req s).pat = s.pat := rfl
@[simp] theorem served_pl (f : Nat) (req : Nat) (s : State) :
    (served f req s).pl = s.pl := rfl
@[simp] theorem served_joint (f : Nat) (req : Nat) (s : State) :
    (served f req s).joint = s.joint := rfl
@[simp] theorem served_mem (f : Nat) (req : Nat) (s : State) :
    (served f req s).mem = s.mem := rfl
@[simp] theorem served_stl (f : Nat) (req : Nat) (s : State) :
    (served f req s).stl = s.stl := rfl
@[simp] theorem served_eth (f : Nat) (req : Nat) (s : State) :
    (served f req s).eth = s.eth := rfl
@[simp] theorem served_ssw (f : Nat) (req : Nat) (s : State) :
    (served f req s).ssw = s.ssw := rfl
@[simp] theorem served_ft (f : Nat) (req : Nat) (s : State) :
    (served f req s).ft = s.ft := rfl
@[simp] theorem served_arrivals (f : Nat) (req : Nat) (s : State) :
    (served f req s).arrivals = s.arrivals := rfl
@[simp] theorem served_ict (f : Nat) (req : Nat) (s : State) :
    (served f req s).ict = s.ict := rfl
@[simp] theorem served_mbx (f : Nat) (req : Nat) (s : State) :
    (served f req s).mbx = s.mbx := rfl
@[simp] theorem served_sem (f : Nat) (req : Nat) (s : State) :
    (served f req s).sem = s.sem := rfl
@[simp] theorem served_pwr (f : Nat) (req : Nat) (s : State) :
    (served f req s).pwr = s.pwr := rfl
@[simp] theorem served_fcl (f : Nat) (req : Nat) (s : State) :
    (served f req s).fcl = s.fcl := rfl
@[simp] theorem served_ldg (f : Nat) (req : Nat) (s : State) :
    (served f req s).ldg = s.ldg := rfl
@[simp] theorem served_tly (f : Nat) (req : Nat) (s : State) :
    (served f req s).tly = s.tly := rfl
@[simp] theorem served_sth (f : Nat) (req : Nat) (s : State) :
    (served f req s).sth = s.sth := rfl
@[simp] theorem served_sec (f : Nat) (req : Nat) (s : State) :
    (served f req s).sec = s.sec := rfl
@[simp] theorem served_mag (f : Nat) (req : Nat) (s : State) :
    (served f req s).mag = s.mag := rfl
@[simp] theorem served_magIn (f : Nat) (req : Nat) (s : State) :
    (served f req s).magIn = s.magIn := rfl
@[simp] theorem served_prt (f : Nat) (req : Nat) (s : State) :
    (served f req s).prt = s.prt := rfl

@[simp] theorem answer_pending (req : Nat) (v : Nat) (s : State) :
    (answer req v s).pending = s.pending := rfl
@[simp] theorem answer_now (req : Nat) (v : Nat) (s : State) :
    (answer req v s).now = s.now := rfl
@[simp] theorem answer_free (req : Nat) (v : Nat) (s : State) :
    (answer req v s).free = s.free := rfl
@[simp] theorem answer_rck (req : Nat) (v : Nat) (s : State) :
    (answer req v s).rck = s.rck := rfl
@[simp] theorem answer_ptp (req : Nat) (v : Nat) (s : State) :
    (answer req v s).ptp = s.ptp := rfl
@[simp] theorem answer_lane (req : Nat) (v : Nat) (s : State) :
    (answer req v s).lane = s.lane := rfl
@[simp] theorem answer_lfi (req : Nat) (v : Nat) (s : State) :
    (answer req v s).lfi = s.lfi := rfl
@[simp] theorem answer_port (req : Nat) (v : Nat) (s : State) :
    (answer req v s).port = s.port := rfl
@[simp] theorem answer_swt (req : Nat) (v : Nat) (s : State) :
    (answer req v s).swt = s.swt := rfl
@[simp] theorem answer_ndl (req : Nat) (v : Nat) (s : State) :
    (answer req v s).ndl = s.ndl := rfl
@[simp] theorem answer_bank (req : Nat) (v : Nat) (s : State) :
    (answer req v s).bank = s.bank := rfl
@[simp] theorem answer_dist (req : Nat) (v : Nat) (s : State) :
    (answer req v s).dist = s.dist := rfl
@[simp] theorem answer_skn (req : Nat) (v : Nat) (s : State) :
    (answer req v s).skn = s.skn := rfl
@[simp] theorem answer_pat (req : Nat) (v : Nat) (s : State) :
    (answer req v s).pat = s.pat := rfl
@[simp] theorem answer_pl (req : Nat) (v : Nat) (s : State) :
    (answer req v s).pl = s.pl := rfl
@[simp] theorem answer_joint (req : Nat) (v : Nat) (s : State) :
    (answer req v s).joint = s.joint := rfl
@[simp] theorem answer_mem (req : Nat) (v : Nat) (s : State) :
    (answer req v s).mem = s.mem := rfl
@[simp] theorem answer_stl (req : Nat) (v : Nat) (s : State) :
    (answer req v s).stl = s.stl := rfl
@[simp] theorem answer_eth (req : Nat) (v : Nat) (s : State) :
    (answer req v s).eth = s.eth := rfl
@[simp] theorem answer_ssw (req : Nat) (v : Nat) (s : State) :
    (answer req v s).ssw = s.ssw := rfl
@[simp] theorem answer_ft (req : Nat) (v : Nat) (s : State) :
    (answer req v s).ft = s.ft := rfl
@[simp] theorem answer_arrivals (req : Nat) (v : Nat) (s : State) :
    (answer req v s).arrivals = s.arrivals := rfl
@[simp] theorem answer_ict (req : Nat) (v : Nat) (s : State) :
    (answer req v s).ict = s.ict := rfl
@[simp] theorem answer_mbx (req : Nat) (v : Nat) (s : State) :
    (answer req v s).mbx = s.mbx := rfl
@[simp] theorem answer_sem (req : Nat) (v : Nat) (s : State) :
    (answer req v s).sem = s.sem := rfl
@[simp] theorem answer_pwr (req : Nat) (v : Nat) (s : State) :
    (answer req v s).pwr = s.pwr := rfl
@[simp] theorem answer_fcl (req : Nat) (v : Nat) (s : State) :
    (answer req v s).fcl = s.fcl := rfl
@[simp] theorem answer_ldg (req : Nat) (v : Nat) (s : State) :
    (answer req v s).ldg = s.ldg := rfl
@[simp] theorem answer_tly (req : Nat) (v : Nat) (s : State) :
    (answer req v s).tly = s.tly := rfl
@[simp] theorem answer_sth (req : Nat) (v : Nat) (s : State) :
    (answer req v s).sth = s.sth := rfl
@[simp] theorem answer_sec (req : Nat) (v : Nat) (s : State) :
    (answer req v s).sec = s.sec := rfl
@[simp] theorem answer_mag (req : Nat) (v : Nat) (s : State) :
    (answer req v s).mag = s.mag := rfl
@[simp] theorem answer_magIn (req : Nat) (v : Nat) (s : State) :
    (answer req v s).magIn = s.magIn := rfl
@[simp] theorem answer_prt (req : Nat) (v : Nat) (s : State) :
    (answer req v s).prt = s.prt := rfl

@[simp] theorem modPtp_pending (d : Nat) (f : Ptp → Ptp) (s : State) :
    (modPtp d f s).pending = s.pending := rfl
@[simp] theorem modPtp_now (d : Nat) (f : Ptp → Ptp) (s : State) :
    (modPtp d f s).now = s.now := rfl
@[simp] theorem modPtp_free (d : Nat) (f : Ptp → Ptp) (s : State) :
    (modPtp d f s).free = s.free := rfl
@[simp] theorem modPtp_bus (d : Nat) (f : Ptp → Ptp) (s : State) :
    (modPtp d f s).bus = s.bus := rfl
@[simp] theorem modPtp_rck (d : Nat) (f : Ptp → Ptp) (s : State) :
    (modPtp d f s).rck = s.rck := rfl
@[simp] theorem modPtp_lane (d : Nat) (f : Ptp → Ptp) (s : State) :
    (modPtp d f s).lane = s.lane := rfl
@[simp] theorem modPtp_lfi (d : Nat) (f : Ptp → Ptp) (s : State) :
    (modPtp d f s).lfi = s.lfi := rfl
@[simp] theorem modPtp_port (d : Nat) (f : Ptp → Ptp) (s : State) :
    (modPtp d f s).port = s.port := rfl
@[simp] theorem modPtp_swt (d : Nat) (f : Ptp → Ptp) (s : State) :
    (modPtp d f s).swt = s.swt := rfl
@[simp] theorem modPtp_ndl (d : Nat) (f : Ptp → Ptp) (s : State) :
    (modPtp d f s).ndl = s.ndl := rfl
@[simp] theorem modPtp_bank (d : Nat) (f : Ptp → Ptp) (s : State) :
    (modPtp d f s).bank = s.bank := rfl
@[simp] theorem modPtp_dist (d : Nat) (f : Ptp → Ptp) (s : State) :
    (modPtp d f s).dist = s.dist := rfl
@[simp] theorem modPtp_skn (d : Nat) (f : Ptp → Ptp) (s : State) :
    (modPtp d f s).skn = s.skn := rfl
@[simp] theorem modPtp_pat (d : Nat) (f : Ptp → Ptp) (s : State) :
    (modPtp d f s).pat = s.pat := rfl
@[simp] theorem modPtp_pl (d : Nat) (f : Ptp → Ptp) (s : State) :
    (modPtp d f s).pl = s.pl := rfl
@[simp] theorem modPtp_joint (d : Nat) (f : Ptp → Ptp) (s : State) :
    (modPtp d f s).joint = s.joint := rfl
@[simp] theorem modPtp_mem (d : Nat) (f : Ptp → Ptp) (s : State) :
    (modPtp d f s).mem = s.mem := rfl
@[simp] theorem modPtp_stl (d : Nat) (f : Ptp → Ptp) (s : State) :
    (modPtp d f s).stl = s.stl := rfl
@[simp] theorem modPtp_eth (d : Nat) (f : Ptp → Ptp) (s : State) :
    (modPtp d f s).eth = s.eth := rfl
@[simp] theorem modPtp_ssw (d : Nat) (f : Ptp → Ptp) (s : State) :
    (modPtp d f s).ssw = s.ssw := rfl
@[simp] theorem modPtp_ft (d : Nat) (f : Ptp → Ptp) (s : State) :
    (modPtp d f s).ft = s.ft := rfl
@[simp] theorem modPtp_arrivals (d : Nat) (f : Ptp → Ptp) (s : State) :
    (modPtp d f s).arrivals = s.arrivals := rfl
@[simp] theorem modPtp_ict (d : Nat) (f : Ptp → Ptp) (s : State) :
    (modPtp d f s).ict = s.ict := rfl
@[simp] theorem modPtp_mbx (d : Nat) (f : Ptp → Ptp) (s : State) :
    (modPtp d f s).mbx = s.mbx := rfl
@[simp] theorem modPtp_sem (d : Nat) (f : Ptp → Ptp) (s : State) :
    (modPtp d f s).sem = s.sem := rfl
@[simp] theorem modPtp_pwr (d : Nat) (f : Ptp → Ptp) (s : State) :
    (modPtp d f s).pwr = s.pwr := rfl
@[simp] theorem modPtp_fcl (d : Nat) (f : Ptp → Ptp) (s : State) :
    (modPtp d f s).fcl = s.fcl := rfl
@[simp] theorem modPtp_ldg (d : Nat) (f : Ptp → Ptp) (s : State) :
    (modPtp d f s).ldg = s.ldg := rfl
@[simp] theorem modPtp_tly (d : Nat) (f : Ptp → Ptp) (s : State) :
    (modPtp d f s).tly = s.tly := rfl
@[simp] theorem modPtp_sth (d : Nat) (f : Ptp → Ptp) (s : State) :
    (modPtp d f s).sth = s.sth := rfl
@[simp] theorem modPtp_sec (d : Nat) (f : Ptp → Ptp) (s : State) :
    (modPtp d f s).sec = s.sec := rfl
@[simp] theorem modPtp_mag (d : Nat) (f : Ptp → Ptp) (s : State) :
    (modPtp d f s).mag = s.mag := rfl
@[simp] theorem modPtp_magIn (d : Nat) (f : Ptp → Ptp) (s : State) :
    (modPtp d f s).magIn = s.magIn := rfl
@[simp] theorem modPtp_prt (d : Nat) (f : Ptp → Ptp) (s : State) :
    (modPtp d f s).prt = s.prt := rfl

@[simp] theorem modRck_pending (f : Rck → Rck) (s : State) :
    (modRck f s).pending = s.pending := rfl
@[simp] theorem modRck_now (f : Rck → Rck) (s : State) :
    (modRck f s).now = s.now := rfl
@[simp] theorem modRck_free (f : Rck → Rck) (s : State) :
    (modRck f s).free = s.free := rfl
@[simp] theorem modRck_bus (f : Rck → Rck) (s : State) :
    (modRck f s).bus = s.bus := rfl
@[simp] theorem modRck_ptp (f : Rck → Rck) (s : State) :
    (modRck f s).ptp = s.ptp := rfl
@[simp] theorem modRck_lane (f : Rck → Rck) (s : State) :
    (modRck f s).lane = s.lane := rfl
@[simp] theorem modRck_lfi (f : Rck → Rck) (s : State) :
    (modRck f s).lfi = s.lfi := rfl
@[simp] theorem modRck_port (f : Rck → Rck) (s : State) :
    (modRck f s).port = s.port := rfl
@[simp] theorem modRck_swt (f : Rck → Rck) (s : State) :
    (modRck f s).swt = s.swt := rfl
@[simp] theorem modRck_ndl (f : Rck → Rck) (s : State) :
    (modRck f s).ndl = s.ndl := rfl
@[simp] theorem modRck_bank (f : Rck → Rck) (s : State) :
    (modRck f s).bank = s.bank := rfl
@[simp] theorem modRck_dist (f : Rck → Rck) (s : State) :
    (modRck f s).dist = s.dist := rfl
@[simp] theorem modRck_skn (f : Rck → Rck) (s : State) :
    (modRck f s).skn = s.skn := rfl
@[simp] theorem modRck_pat (f : Rck → Rck) (s : State) :
    (modRck f s).pat = s.pat := rfl
@[simp] theorem modRck_pl (f : Rck → Rck) (s : State) :
    (modRck f s).pl = s.pl := rfl
@[simp] theorem modRck_joint (f : Rck → Rck) (s : State) :
    (modRck f s).joint = s.joint := rfl
@[simp] theorem modRck_mem (f : Rck → Rck) (s : State) :
    (modRck f s).mem = s.mem := rfl
@[simp] theorem modRck_stl (f : Rck → Rck) (s : State) :
    (modRck f s).stl = s.stl := rfl
@[simp] theorem modRck_eth (f : Rck → Rck) (s : State) :
    (modRck f s).eth = s.eth := rfl
@[simp] theorem modRck_ssw (f : Rck → Rck) (s : State) :
    (modRck f s).ssw = s.ssw := rfl
@[simp] theorem modRck_ft (f : Rck → Rck) (s : State) :
    (modRck f s).ft = s.ft := rfl
@[simp] theorem modRck_arrivals (f : Rck → Rck) (s : State) :
    (modRck f s).arrivals = s.arrivals := rfl
@[simp] theorem modRck_ict (f : Rck → Rck) (s : State) :
    (modRck f s).ict = s.ict := rfl
@[simp] theorem modRck_mbx (f : Rck → Rck) (s : State) :
    (modRck f s).mbx = s.mbx := rfl
@[simp] theorem modRck_sem (f : Rck → Rck) (s : State) :
    (modRck f s).sem = s.sem := rfl
@[simp] theorem modRck_pwr (f : Rck → Rck) (s : State) :
    (modRck f s).pwr = s.pwr := rfl
@[simp] theorem modRck_fcl (f : Rck → Rck) (s : State) :
    (modRck f s).fcl = s.fcl := rfl
@[simp] theorem modRck_ldg (f : Rck → Rck) (s : State) :
    (modRck f s).ldg = s.ldg := rfl
@[simp] theorem modRck_tly (f : Rck → Rck) (s : State) :
    (modRck f s).tly = s.tly := rfl
@[simp] theorem modRck_sth (f : Rck → Rck) (s : State) :
    (modRck f s).sth = s.sth := rfl
@[simp] theorem modRck_sec (f : Rck → Rck) (s : State) :
    (modRck f s).sec = s.sec := rfl
@[simp] theorem modRck_mag (f : Rck → Rck) (s : State) :
    (modRck f s).mag = s.mag := rfl
@[simp] theorem modRck_magIn (f : Rck → Rck) (s : State) :
    (modRck f s).magIn = s.magIn := rfl
@[simp] theorem modRck_prt (f : Rck → Rck) (s : State) :
    (modRck f s).prt = s.prt := rfl

@[simp] theorem modSlot_pending (i : Nat) (f : Slot → Slot) (s : State) :
    (modSlot i f s).pending = s.pending := rfl
@[simp] theorem modSlot_now (i : Nat) (f : Slot → Slot) (s : State) :
    (modSlot i f s).now = s.now := rfl
@[simp] theorem modSlot_free (i : Nat) (f : Slot → Slot) (s : State) :
    (modSlot i f s).free = s.free := rfl
@[simp] theorem modSlot_bus (i : Nat) (f : Slot → Slot) (s : State) :
    (modSlot i f s).bus = s.bus := rfl
@[simp] theorem modSlot_ptp (i : Nat) (f : Slot → Slot) (s : State) :
    (modSlot i f s).ptp = s.ptp := rfl
@[simp] theorem modSlot_lane (i : Nat) (f : Slot → Slot) (s : State) :
    (modSlot i f s).lane = s.lane := rfl
@[simp] theorem modSlot_lfi (i : Nat) (f : Slot → Slot) (s : State) :
    (modSlot i f s).lfi = s.lfi := rfl
@[simp] theorem modSlot_port (i : Nat) (f : Slot → Slot) (s : State) :
    (modSlot i f s).port = s.port := rfl
@[simp] theorem modSlot_swt (i : Nat) (f : Slot → Slot) (s : State) :
    (modSlot i f s).swt = s.swt := rfl
@[simp] theorem modSlot_ndl (i : Nat) (f : Slot → Slot) (s : State) :
    (modSlot i f s).ndl = s.ndl := rfl
@[simp] theorem modSlot_bank (i : Nat) (f : Slot → Slot) (s : State) :
    (modSlot i f s).bank = s.bank := rfl
@[simp] theorem modSlot_dist (i : Nat) (f : Slot → Slot) (s : State) :
    (modSlot i f s).dist = s.dist := rfl
@[simp] theorem modSlot_skn (i : Nat) (f : Slot → Slot) (s : State) :
    (modSlot i f s).skn = s.skn := rfl
@[simp] theorem modSlot_pat (i : Nat) (f : Slot → Slot) (s : State) :
    (modSlot i f s).pat = s.pat := rfl
@[simp] theorem modSlot_pl (i : Nat) (f : Slot → Slot) (s : State) :
    (modSlot i f s).pl = s.pl := rfl
@[simp] theorem modSlot_joint (i : Nat) (f : Slot → Slot) (s : State) :
    (modSlot i f s).joint = s.joint := rfl
@[simp] theorem modSlot_mem (i : Nat) (f : Slot → Slot) (s : State) :
    (modSlot i f s).mem = s.mem := rfl
@[simp] theorem modSlot_stl (i : Nat) (f : Slot → Slot) (s : State) :
    (modSlot i f s).stl = s.stl := rfl
@[simp] theorem modSlot_eth (i : Nat) (f : Slot → Slot) (s : State) :
    (modSlot i f s).eth = s.eth := rfl
@[simp] theorem modSlot_ssw (i : Nat) (f : Slot → Slot) (s : State) :
    (modSlot i f s).ssw = s.ssw := rfl
@[simp] theorem modSlot_ft (i : Nat) (f : Slot → Slot) (s : State) :
    (modSlot i f s).ft = s.ft := rfl
@[simp] theorem modSlot_arrivals (i : Nat) (f : Slot → Slot) (s : State) :
    (modSlot i f s).arrivals = s.arrivals := rfl
@[simp] theorem modSlot_ict (i : Nat) (f : Slot → Slot) (s : State) :
    (modSlot i f s).ict = s.ict := rfl
@[simp] theorem modSlot_mbx (i : Nat) (f : Slot → Slot) (s : State) :
    (modSlot i f s).mbx = s.mbx := rfl
@[simp] theorem modSlot_sem (i : Nat) (f : Slot → Slot) (s : State) :
    (modSlot i f s).sem = s.sem := rfl
@[simp] theorem modSlot_pwr (i : Nat) (f : Slot → Slot) (s : State) :
    (modSlot i f s).pwr = s.pwr := rfl
@[simp] theorem modSlot_fcl (i : Nat) (f : Slot → Slot) (s : State) :
    (modSlot i f s).fcl = s.fcl := rfl
@[simp] theorem modSlot_ldg (i : Nat) (f : Slot → Slot) (s : State) :
    (modSlot i f s).ldg = s.ldg := rfl
@[simp] theorem modSlot_tly (i : Nat) (f : Slot → Slot) (s : State) :
    (modSlot i f s).tly = s.tly := rfl
@[simp] theorem modSlot_sth (i : Nat) (f : Slot → Slot) (s : State) :
    (modSlot i f s).sth = s.sth := rfl
@[simp] theorem modSlot_sec (i : Nat) (f : Slot → Slot) (s : State) :
    (modSlot i f s).sec = s.sec := rfl
@[simp] theorem modSlot_mag (i : Nat) (f : Slot → Slot) (s : State) :
    (modSlot i f s).mag = s.mag := rfl
@[simp] theorem modSlot_magIn (i : Nat) (f : Slot → Slot) (s : State) :
    (modSlot i f s).magIn = s.magIn := rfl
@[simp] theorem modSlot_prt (i : Nat) (f : Slot → Slot) (s : State) :
    (modSlot i f s).prt = s.prt := rfl

@[simp] theorem modPhase_pending (n : Nat) (f : PhasePin → PhasePin) (s : State) :
    (modPhase n f s).pending = s.pending := rfl
@[simp] theorem modPhase_now (n : Nat) (f : PhasePin → PhasePin) (s : State) :
    (modPhase n f s).now = s.now := rfl
@[simp] theorem modPhase_free (n : Nat) (f : PhasePin → PhasePin) (s : State) :
    (modPhase n f s).free = s.free := rfl
@[simp] theorem modPhase_bus (n : Nat) (f : PhasePin → PhasePin) (s : State) :
    (modPhase n f s).bus = s.bus := rfl
@[simp] theorem modPhase_ptp (n : Nat) (f : PhasePin → PhasePin) (s : State) :
    (modPhase n f s).ptp = s.ptp := rfl
@[simp] theorem modPhase_lane (n : Nat) (f : PhasePin → PhasePin) (s : State) :
    (modPhase n f s).lane = s.lane := rfl
@[simp] theorem modPhase_lfi (n : Nat) (f : PhasePin → PhasePin) (s : State) :
    (modPhase n f s).lfi = s.lfi := rfl
@[simp] theorem modPhase_port (n : Nat) (f : PhasePin → PhasePin) (s : State) :
    (modPhase n f s).port = s.port := rfl
@[simp] theorem modPhase_swt (n : Nat) (f : PhasePin → PhasePin) (s : State) :
    (modPhase n f s).swt = s.swt := rfl
@[simp] theorem modPhase_ndl (n : Nat) (f : PhasePin → PhasePin) (s : State) :
    (modPhase n f s).ndl = s.ndl := rfl
@[simp] theorem modPhase_bank (n : Nat) (f : PhasePin → PhasePin) (s : State) :
    (modPhase n f s).bank = s.bank := rfl
@[simp] theorem modPhase_dist (n : Nat) (f : PhasePin → PhasePin) (s : State) :
    (modPhase n f s).dist = s.dist := rfl
@[simp] theorem modPhase_skn (n : Nat) (f : PhasePin → PhasePin) (s : State) :
    (modPhase n f s).skn = s.skn := rfl
@[simp] theorem modPhase_pat (n : Nat) (f : PhasePin → PhasePin) (s : State) :
    (modPhase n f s).pat = s.pat := rfl
@[simp] theorem modPhase_pl (n : Nat) (f : PhasePin → PhasePin) (s : State) :
    (modPhase n f s).pl = s.pl := rfl
@[simp] theorem modPhase_joint (n : Nat) (f : PhasePin → PhasePin) (s : State) :
    (modPhase n f s).joint = s.joint := rfl
@[simp] theorem modPhase_mem (n : Nat) (f : PhasePin → PhasePin) (s : State) :
    (modPhase n f s).mem = s.mem := rfl
@[simp] theorem modPhase_stl (n : Nat) (f : PhasePin → PhasePin) (s : State) :
    (modPhase n f s).stl = s.stl := rfl
@[simp] theorem modPhase_eth (n : Nat) (f : PhasePin → PhasePin) (s : State) :
    (modPhase n f s).eth = s.eth := rfl
@[simp] theorem modPhase_ssw (n : Nat) (f : PhasePin → PhasePin) (s : State) :
    (modPhase n f s).ssw = s.ssw := rfl
@[simp] theorem modPhase_ft (n : Nat) (f : PhasePin → PhasePin) (s : State) :
    (modPhase n f s).ft = s.ft := rfl
@[simp] theorem modPhase_arrivals (n : Nat) (f : PhasePin → PhasePin) (s : State) :
    (modPhase n f s).arrivals = s.arrivals := rfl
@[simp] theorem modPhase_ict (n : Nat) (f : PhasePin → PhasePin) (s : State) :
    (modPhase n f s).ict = s.ict := rfl
@[simp] theorem modPhase_mbx (n : Nat) (f : PhasePin → PhasePin) (s : State) :
    (modPhase n f s).mbx = s.mbx := rfl
@[simp] theorem modPhase_sem (n : Nat) (f : PhasePin → PhasePin) (s : State) :
    (modPhase n f s).sem = s.sem := rfl
@[simp] theorem modPhase_pwr (n : Nat) (f : PhasePin → PhasePin) (s : State) :
    (modPhase n f s).pwr = s.pwr := rfl
@[simp] theorem modPhase_fcl (n : Nat) (f : PhasePin → PhasePin) (s : State) :
    (modPhase n f s).fcl = s.fcl := rfl
@[simp] theorem modPhase_ldg (n : Nat) (f : PhasePin → PhasePin) (s : State) :
    (modPhase n f s).ldg = s.ldg := rfl
@[simp] theorem modPhase_tly (n : Nat) (f : PhasePin → PhasePin) (s : State) :
    (modPhase n f s).tly = s.tly := rfl
@[simp] theorem modPhase_sth (n : Nat) (f : PhasePin → PhasePin) (s : State) :
    (modPhase n f s).sth = s.sth := rfl
@[simp] theorem modPhase_sec (n : Nat) (f : PhasePin → PhasePin) (s : State) :
    (modPhase n f s).sec = s.sec := rfl
@[simp] theorem modPhase_mag (n : Nat) (f : PhasePin → PhasePin) (s : State) :
    (modPhase n f s).mag = s.mag := rfl
@[simp] theorem modPhase_magIn (n : Nat) (f : PhasePin → PhasePin) (s : State) :
    (modPhase n f s).magIn = s.magIn := rfl
@[simp] theorem modPhase_prt (n : Nat) (f : PhasePin → PhasePin) (s : State) :
    (modPhase n f s).prt = s.prt := rfl

@[simp] theorem modBuf_pending (p : Nat) (i : Nat) (f : Buf → Buf) (s : State) :
    (modBuf p i f s).pending = s.pending := rfl
@[simp] theorem modBuf_now (p : Nat) (i : Nat) (f : Buf → Buf) (s : State) :
    (modBuf p i f s).now = s.now := rfl
@[simp] theorem modBuf_free (p : Nat) (i : Nat) (f : Buf → Buf) (s : State) :
    (modBuf p i f s).free = s.free := rfl
@[simp] theorem modBuf_bus (p : Nat) (i : Nat) (f : Buf → Buf) (s : State) :
    (modBuf p i f s).bus = s.bus := rfl
@[simp] theorem modBuf_rck (p : Nat) (i : Nat) (f : Buf → Buf) (s : State) :
    (modBuf p i f s).rck = s.rck := rfl
@[simp] theorem modBuf_ptp (p : Nat) (i : Nat) (f : Buf → Buf) (s : State) :
    (modBuf p i f s).ptp = s.ptp := rfl
@[simp] theorem modBuf_lane (p : Nat) (i : Nat) (f : Buf → Buf) (s : State) :
    (modBuf p i f s).lane = s.lane := rfl
@[simp] theorem modBuf_lfi (p : Nat) (i : Nat) (f : Buf → Buf) (s : State) :
    (modBuf p i f s).lfi = s.lfi := rfl
@[simp] theorem modBuf_port (p : Nat) (i : Nat) (f : Buf → Buf) (s : State) :
    (modBuf p i f s).port = s.port := rfl
@[simp] theorem modBuf_swt (p : Nat) (i : Nat) (f : Buf → Buf) (s : State) :
    (modBuf p i f s).swt = s.swt := rfl
@[simp] theorem modBuf_ndl (p : Nat) (i : Nat) (f : Buf → Buf) (s : State) :
    (modBuf p i f s).ndl = s.ndl := rfl
@[simp] theorem modBuf_bank (p : Nat) (i : Nat) (f : Buf → Buf) (s : State) :
    (modBuf p i f s).bank = s.bank := rfl
@[simp] theorem modBuf_dist (p : Nat) (i : Nat) (f : Buf → Buf) (s : State) :
    (modBuf p i f s).dist = s.dist := rfl
@[simp] theorem modBuf_skn (p : Nat) (i : Nat) (f : Buf → Buf) (s : State) :
    (modBuf p i f s).skn = s.skn := rfl
@[simp] theorem modBuf_pat (p : Nat) (i : Nat) (f : Buf → Buf) (s : State) :
    (modBuf p i f s).pat = s.pat := rfl
@[simp] theorem modBuf_pl (p : Nat) (i : Nat) (f : Buf → Buf) (s : State) :
    (modBuf p i f s).pl = s.pl := rfl
@[simp] theorem modBuf_joint (p : Nat) (i : Nat) (f : Buf → Buf) (s : State) :
    (modBuf p i f s).joint = s.joint := rfl
@[simp] theorem modBuf_mem (p : Nat) (i : Nat) (f : Buf → Buf) (s : State) :
    (modBuf p i f s).mem = s.mem := rfl
@[simp] theorem modBuf_eth (p : Nat) (i : Nat) (f : Buf → Buf) (s : State) :
    (modBuf p i f s).eth = s.eth := rfl
@[simp] theorem modBuf_ssw (p : Nat) (i : Nat) (f : Buf → Buf) (s : State) :
    (modBuf p i f s).ssw = s.ssw := rfl
@[simp] theorem modBuf_ft (p : Nat) (i : Nat) (f : Buf → Buf) (s : State) :
    (modBuf p i f s).ft = s.ft := rfl
@[simp] theorem modBuf_arrivals (p : Nat) (i : Nat) (f : Buf → Buf) (s : State) :
    (modBuf p i f s).arrivals = s.arrivals := rfl
@[simp] theorem modBuf_ict (p : Nat) (i : Nat) (f : Buf → Buf) (s : State) :
    (modBuf p i f s).ict = s.ict := rfl
@[simp] theorem modBuf_mbx (p : Nat) (i : Nat) (f : Buf → Buf) (s : State) :
    (modBuf p i f s).mbx = s.mbx := rfl
@[simp] theorem modBuf_sem (p : Nat) (i : Nat) (f : Buf → Buf) (s : State) :
    (modBuf p i f s).sem = s.sem := rfl
@[simp] theorem modBuf_pwr (p : Nat) (i : Nat) (f : Buf → Buf) (s : State) :
    (modBuf p i f s).pwr = s.pwr := rfl
@[simp] theorem modBuf_fcl (p : Nat) (i : Nat) (f : Buf → Buf) (s : State) :
    (modBuf p i f s).fcl = s.fcl := rfl
@[simp] theorem modBuf_ldg (p : Nat) (i : Nat) (f : Buf → Buf) (s : State) :
    (modBuf p i f s).ldg = s.ldg := rfl
@[simp] theorem modBuf_tly (p : Nat) (i : Nat) (f : Buf → Buf) (s : State) :
    (modBuf p i f s).tly = s.tly := rfl
@[simp] theorem modBuf_sth (p : Nat) (i : Nat) (f : Buf → Buf) (s : State) :
    (modBuf p i f s).sth = s.sth := rfl
@[simp] theorem modBuf_sec (p : Nat) (i : Nat) (f : Buf → Buf) (s : State) :
    (modBuf p i f s).sec = s.sec := rfl
@[simp] theorem modBuf_mag (p : Nat) (i : Nat) (f : Buf → Buf) (s : State) :
    (modBuf p i f s).mag = s.mag := rfl
@[simp] theorem modBuf_magIn (p : Nat) (i : Nat) (f : Buf → Buf) (s : State) :
    (modBuf p i f s).magIn = s.magIn := rfl
@[simp] theorem modBuf_prt (p : Nat) (i : Nat) (f : Buf → Buf) (s : State) :
    (modBuf p i f s).prt = s.prt := rfl

@[simp] theorem modUse_pending (r : Nat) (f : Nat → Nat) (s : State) :
    (modUse r f s).pending = s.pending := rfl
@[simp] theorem modUse_now (r : Nat) (f : Nat → Nat) (s : State) :
    (modUse r f s).now = s.now := rfl
@[simp] theorem modUse_free (r : Nat) (f : Nat → Nat) (s : State) :
    (modUse r f s).free = s.free := rfl
@[simp] theorem modUse_bus (r : Nat) (f : Nat → Nat) (s : State) :
    (modUse r f s).bus = s.bus := rfl
@[simp] theorem modUse_rck (r : Nat) (f : Nat → Nat) (s : State) :
    (modUse r f s).rck = s.rck := rfl
@[simp] theorem modUse_ptp (r : Nat) (f : Nat → Nat) (s : State) :
    (modUse r f s).ptp = s.ptp := rfl
@[simp] theorem modUse_lane (r : Nat) (f : Nat → Nat) (s : State) :
    (modUse r f s).lane = s.lane := rfl
@[simp] theorem modUse_lfi (r : Nat) (f : Nat → Nat) (s : State) :
    (modUse r f s).lfi = s.lfi := rfl
@[simp] theorem modUse_port (r : Nat) (f : Nat → Nat) (s : State) :
    (modUse r f s).port = s.port := rfl
@[simp] theorem modUse_swt (r : Nat) (f : Nat → Nat) (s : State) :
    (modUse r f s).swt = s.swt := rfl
@[simp] theorem modUse_ndl (r : Nat) (f : Nat → Nat) (s : State) :
    (modUse r f s).ndl = s.ndl := rfl
@[simp] theorem modUse_bank (r : Nat) (f : Nat → Nat) (s : State) :
    (modUse r f s).bank = s.bank := rfl
@[simp] theorem modUse_dist (r : Nat) (f : Nat → Nat) (s : State) :
    (modUse r f s).dist = s.dist := rfl
@[simp] theorem modUse_skn (r : Nat) (f : Nat → Nat) (s : State) :
    (modUse r f s).skn = s.skn := rfl
@[simp] theorem modUse_pat (r : Nat) (f : Nat → Nat) (s : State) :
    (modUse r f s).pat = s.pat := rfl
@[simp] theorem modUse_pl (r : Nat) (f : Nat → Nat) (s : State) :
    (modUse r f s).pl = s.pl := rfl
@[simp] theorem modUse_joint (r : Nat) (f : Nat → Nat) (s : State) :
    (modUse r f s).joint = s.joint := rfl
@[simp] theorem modUse_mem (r : Nat) (f : Nat → Nat) (s : State) :
    (modUse r f s).mem = s.mem := rfl
@[simp] theorem modUse_eth (r : Nat) (f : Nat → Nat) (s : State) :
    (modUse r f s).eth = s.eth := rfl
@[simp] theorem modUse_ssw (r : Nat) (f : Nat → Nat) (s : State) :
    (modUse r f s).ssw = s.ssw := rfl
@[simp] theorem modUse_ft (r : Nat) (f : Nat → Nat) (s : State) :
    (modUse r f s).ft = s.ft := rfl
@[simp] theorem modUse_arrivals (r : Nat) (f : Nat → Nat) (s : State) :
    (modUse r f s).arrivals = s.arrivals := rfl
@[simp] theorem modUse_ict (r : Nat) (f : Nat → Nat) (s : State) :
    (modUse r f s).ict = s.ict := rfl
@[simp] theorem modUse_mbx (r : Nat) (f : Nat → Nat) (s : State) :
    (modUse r f s).mbx = s.mbx := rfl
@[simp] theorem modUse_sem (r : Nat) (f : Nat → Nat) (s : State) :
    (modUse r f s).sem = s.sem := rfl
@[simp] theorem modUse_pwr (r : Nat) (f : Nat → Nat) (s : State) :
    (modUse r f s).pwr = s.pwr := rfl
@[simp] theorem modUse_fcl (r : Nat) (f : Nat → Nat) (s : State) :
    (modUse r f s).fcl = s.fcl := rfl
@[simp] theorem modUse_ldg (r : Nat) (f : Nat → Nat) (s : State) :
    (modUse r f s).ldg = s.ldg := rfl
@[simp] theorem modUse_tly (r : Nat) (f : Nat → Nat) (s : State) :
    (modUse r f s).tly = s.tly := rfl
@[simp] theorem modUse_sth (r : Nat) (f : Nat → Nat) (s : State) :
    (modUse r f s).sth = s.sth := rfl
@[simp] theorem modUse_sec (r : Nat) (f : Nat → Nat) (s : State) :
    (modUse r f s).sec = s.sec := rfl
@[simp] theorem modUse_mag (r : Nat) (f : Nat → Nat) (s : State) :
    (modUse r f s).mag = s.mag := rfl
@[simp] theorem modUse_magIn (r : Nat) (f : Nat → Nat) (s : State) :
    (modUse r f s).magIn = s.magIn := rfl
@[simp] theorem modUse_prt (r : Nat) (f : Nat → Nat) (s : State) :
    (modUse r f s).prt = s.prt := rfl

@[simp] theorem modFt_pending (f : Ft → Ft) (s : State) :
    (modFt f s).pending = s.pending := rfl
@[simp] theorem modFt_now (f : Ft → Ft) (s : State) :
    (modFt f s).now = s.now := rfl
@[simp] theorem modFt_free (f : Ft → Ft) (s : State) :
    (modFt f s).free = s.free := rfl
@[simp] theorem modFt_bus (f : Ft → Ft) (s : State) :
    (modFt f s).bus = s.bus := rfl
@[simp] theorem modFt_rck (f : Ft → Ft) (s : State) :
    (modFt f s).rck = s.rck := rfl
@[simp] theorem modFt_ptp (f : Ft → Ft) (s : State) :
    (modFt f s).ptp = s.ptp := rfl
@[simp] theorem modFt_lane (f : Ft → Ft) (s : State) :
    (modFt f s).lane = s.lane := rfl
@[simp] theorem modFt_lfi (f : Ft → Ft) (s : State) :
    (modFt f s).lfi = s.lfi := rfl
@[simp] theorem modFt_port (f : Ft → Ft) (s : State) :
    (modFt f s).port = s.port := rfl
@[simp] theorem modFt_swt (f : Ft → Ft) (s : State) :
    (modFt f s).swt = s.swt := rfl
@[simp] theorem modFt_ndl (f : Ft → Ft) (s : State) :
    (modFt f s).ndl = s.ndl := rfl
@[simp] theorem modFt_bank (f : Ft → Ft) (s : State) :
    (modFt f s).bank = s.bank := rfl
@[simp] theorem modFt_dist (f : Ft → Ft) (s : State) :
    (modFt f s).dist = s.dist := rfl
@[simp] theorem modFt_skn (f : Ft → Ft) (s : State) :
    (modFt f s).skn = s.skn := rfl
@[simp] theorem modFt_pat (f : Ft → Ft) (s : State) :
    (modFt f s).pat = s.pat := rfl
@[simp] theorem modFt_pl (f : Ft → Ft) (s : State) :
    (modFt f s).pl = s.pl := rfl
@[simp] theorem modFt_joint (f : Ft → Ft) (s : State) :
    (modFt f s).joint = s.joint := rfl
@[simp] theorem modFt_mem (f : Ft → Ft) (s : State) :
    (modFt f s).mem = s.mem := rfl
@[simp] theorem modFt_stl (f : Ft → Ft) (s : State) :
    (modFt f s).stl = s.stl := rfl
@[simp] theorem modFt_eth (f : Ft → Ft) (s : State) :
    (modFt f s).eth = s.eth := rfl
@[simp] theorem modFt_ssw (f : Ft → Ft) (s : State) :
    (modFt f s).ssw = s.ssw := rfl
@[simp] theorem modFt_arrivals (f : Ft → Ft) (s : State) :
    (modFt f s).arrivals = s.arrivals := rfl
@[simp] theorem modFt_ict (f : Ft → Ft) (s : State) :
    (modFt f s).ict = s.ict := rfl
@[simp] theorem modFt_mbx (f : Ft → Ft) (s : State) :
    (modFt f s).mbx = s.mbx := rfl
@[simp] theorem modFt_sem (f : Ft → Ft) (s : State) :
    (modFt f s).sem = s.sem := rfl
@[simp] theorem modFt_pwr (f : Ft → Ft) (s : State) :
    (modFt f s).pwr = s.pwr := rfl
@[simp] theorem modFt_fcl (f : Ft → Ft) (s : State) :
    (modFt f s).fcl = s.fcl := rfl
@[simp] theorem modFt_ldg (f : Ft → Ft) (s : State) :
    (modFt f s).ldg = s.ldg := rfl
@[simp] theorem modFt_tly (f : Ft → Ft) (s : State) :
    (modFt f s).tly = s.tly := rfl
@[simp] theorem modFt_sth (f : Ft → Ft) (s : State) :
    (modFt f s).sth = s.sth := rfl
@[simp] theorem modFt_sec (f : Ft → Ft) (s : State) :
    (modFt f s).sec = s.sec := rfl
@[simp] theorem modFt_mag (f : Ft → Ft) (s : State) :
    (modFt f s).mag = s.mag := rfl
@[simp] theorem modFt_magIn (f : Ft → Ft) (s : State) :
    (modFt f s).magIn = s.magIn := rfl
@[simp] theorem modFt_prt (f : Ft → Ft) (s : State) :
    (modFt f s).prt = s.prt := rfl

@[simp] theorem modLdg_pending (f : Ldg → Ldg) (s : State) :
    (modLdg f s).pending = s.pending := rfl
@[simp] theorem modLdg_now (f : Ldg → Ldg) (s : State) :
    (modLdg f s).now = s.now := rfl
@[simp] theorem modLdg_free (f : Ldg → Ldg) (s : State) :
    (modLdg f s).free = s.free := rfl
@[simp] theorem modLdg_bus (f : Ldg → Ldg) (s : State) :
    (modLdg f s).bus = s.bus := rfl
@[simp] theorem modLdg_rck (f : Ldg → Ldg) (s : State) :
    (modLdg f s).rck = s.rck := rfl
@[simp] theorem modLdg_ptp (f : Ldg → Ldg) (s : State) :
    (modLdg f s).ptp = s.ptp := rfl
@[simp] theorem modLdg_lane (f : Ldg → Ldg) (s : State) :
    (modLdg f s).lane = s.lane := rfl
@[simp] theorem modLdg_lfi (f : Ldg → Ldg) (s : State) :
    (modLdg f s).lfi = s.lfi := rfl
@[simp] theorem modLdg_port (f : Ldg → Ldg) (s : State) :
    (modLdg f s).port = s.port := rfl
@[simp] theorem modLdg_swt (f : Ldg → Ldg) (s : State) :
    (modLdg f s).swt = s.swt := rfl
@[simp] theorem modLdg_ndl (f : Ldg → Ldg) (s : State) :
    (modLdg f s).ndl = s.ndl := rfl
@[simp] theorem modLdg_bank (f : Ldg → Ldg) (s : State) :
    (modLdg f s).bank = s.bank := rfl
@[simp] theorem modLdg_dist (f : Ldg → Ldg) (s : State) :
    (modLdg f s).dist = s.dist := rfl
@[simp] theorem modLdg_skn (f : Ldg → Ldg) (s : State) :
    (modLdg f s).skn = s.skn := rfl
@[simp] theorem modLdg_pat (f : Ldg → Ldg) (s : State) :
    (modLdg f s).pat = s.pat := rfl
@[simp] theorem modLdg_pl (f : Ldg → Ldg) (s : State) :
    (modLdg f s).pl = s.pl := rfl
@[simp] theorem modLdg_joint (f : Ldg → Ldg) (s : State) :
    (modLdg f s).joint = s.joint := rfl
@[simp] theorem modLdg_mem (f : Ldg → Ldg) (s : State) :
    (modLdg f s).mem = s.mem := rfl
@[simp] theorem modLdg_stl (f : Ldg → Ldg) (s : State) :
    (modLdg f s).stl = s.stl := rfl
@[simp] theorem modLdg_eth (f : Ldg → Ldg) (s : State) :
    (modLdg f s).eth = s.eth := rfl
@[simp] theorem modLdg_ssw (f : Ldg → Ldg) (s : State) :
    (modLdg f s).ssw = s.ssw := rfl
@[simp] theorem modLdg_ft (f : Ldg → Ldg) (s : State) :
    (modLdg f s).ft = s.ft := rfl
@[simp] theorem modLdg_arrivals (f : Ldg → Ldg) (s : State) :
    (modLdg f s).arrivals = s.arrivals := rfl
@[simp] theorem modLdg_ict (f : Ldg → Ldg) (s : State) :
    (modLdg f s).ict = s.ict := rfl
@[simp] theorem modLdg_mbx (f : Ldg → Ldg) (s : State) :
    (modLdg f s).mbx = s.mbx := rfl
@[simp] theorem modLdg_sem (f : Ldg → Ldg) (s : State) :
    (modLdg f s).sem = s.sem := rfl
@[simp] theorem modLdg_pwr (f : Ldg → Ldg) (s : State) :
    (modLdg f s).pwr = s.pwr := rfl
@[simp] theorem modLdg_fcl (f : Ldg → Ldg) (s : State) :
    (modLdg f s).fcl = s.fcl := rfl
@[simp] theorem modLdg_tly (f : Ldg → Ldg) (s : State) :
    (modLdg f s).tly = s.tly := rfl
@[simp] theorem modLdg_sth (f : Ldg → Ldg) (s : State) :
    (modLdg f s).sth = s.sth := rfl
@[simp] theorem modLdg_sec (f : Ldg → Ldg) (s : State) :
    (modLdg f s).sec = s.sec := rfl
@[simp] theorem modLdg_mag (f : Ldg → Ldg) (s : State) :
    (modLdg f s).mag = s.mag := rfl
@[simp] theorem modLdg_magIn (f : Ldg → Ldg) (s : State) :
    (modLdg f s).magIn = s.magIn := rfl
@[simp] theorem modLdg_prt (f : Ldg → Ldg) (s : State) :
    (modLdg f s).prt = s.prt := rfl

@[simp] theorem modTly_pending (f : Tly → Tly) (s : State) :
    (modTly f s).pending = s.pending := rfl
@[simp] theorem modTly_now (f : Tly → Tly) (s : State) :
    (modTly f s).now = s.now := rfl
@[simp] theorem modTly_free (f : Tly → Tly) (s : State) :
    (modTly f s).free = s.free := rfl
@[simp] theorem modTly_bus (f : Tly → Tly) (s : State) :
    (modTly f s).bus = s.bus := rfl
@[simp] theorem modTly_rck (f : Tly → Tly) (s : State) :
    (modTly f s).rck = s.rck := rfl
@[simp] theorem modTly_ptp (f : Tly → Tly) (s : State) :
    (modTly f s).ptp = s.ptp := rfl
@[simp] theorem modTly_lane (f : Tly → Tly) (s : State) :
    (modTly f s).lane = s.lane := rfl
@[simp] theorem modTly_lfi (f : Tly → Tly) (s : State) :
    (modTly f s).lfi = s.lfi := rfl
@[simp] theorem modTly_port (f : Tly → Tly) (s : State) :
    (modTly f s).port = s.port := rfl
@[simp] theorem modTly_swt (f : Tly → Tly) (s : State) :
    (modTly f s).swt = s.swt := rfl
@[simp] theorem modTly_ndl (f : Tly → Tly) (s : State) :
    (modTly f s).ndl = s.ndl := rfl
@[simp] theorem modTly_bank (f : Tly → Tly) (s : State) :
    (modTly f s).bank = s.bank := rfl
@[simp] theorem modTly_dist (f : Tly → Tly) (s : State) :
    (modTly f s).dist = s.dist := rfl
@[simp] theorem modTly_skn (f : Tly → Tly) (s : State) :
    (modTly f s).skn = s.skn := rfl
@[simp] theorem modTly_pat (f : Tly → Tly) (s : State) :
    (modTly f s).pat = s.pat := rfl
@[simp] theorem modTly_pl (f : Tly → Tly) (s : State) :
    (modTly f s).pl = s.pl := rfl
@[simp] theorem modTly_joint (f : Tly → Tly) (s : State) :
    (modTly f s).joint = s.joint := rfl
@[simp] theorem modTly_mem (f : Tly → Tly) (s : State) :
    (modTly f s).mem = s.mem := rfl
@[simp] theorem modTly_stl (f : Tly → Tly) (s : State) :
    (modTly f s).stl = s.stl := rfl
@[simp] theorem modTly_eth (f : Tly → Tly) (s : State) :
    (modTly f s).eth = s.eth := rfl
@[simp] theorem modTly_ssw (f : Tly → Tly) (s : State) :
    (modTly f s).ssw = s.ssw := rfl
@[simp] theorem modTly_ft (f : Tly → Tly) (s : State) :
    (modTly f s).ft = s.ft := rfl
@[simp] theorem modTly_arrivals (f : Tly → Tly) (s : State) :
    (modTly f s).arrivals = s.arrivals := rfl
@[simp] theorem modTly_ict (f : Tly → Tly) (s : State) :
    (modTly f s).ict = s.ict := rfl
@[simp] theorem modTly_mbx (f : Tly → Tly) (s : State) :
    (modTly f s).mbx = s.mbx := rfl
@[simp] theorem modTly_sem (f : Tly → Tly) (s : State) :
    (modTly f s).sem = s.sem := rfl
@[simp] theorem modTly_pwr (f : Tly → Tly) (s : State) :
    (modTly f s).pwr = s.pwr := rfl
@[simp] theorem modTly_fcl (f : Tly → Tly) (s : State) :
    (modTly f s).fcl = s.fcl := rfl
@[simp] theorem modTly_ldg (f : Tly → Tly) (s : State) :
    (modTly f s).ldg = s.ldg := rfl
@[simp] theorem modTly_sth (f : Tly → Tly) (s : State) :
    (modTly f s).sth = s.sth := rfl
@[simp] theorem modTly_sec (f : Tly → Tly) (s : State) :
    (modTly f s).sec = s.sec := rfl
@[simp] theorem modTly_mag (f : Tly → Tly) (s : State) :
    (modTly f s).mag = s.mag := rfl
@[simp] theorem modTly_magIn (f : Tly → Tly) (s : State) :
    (modTly f s).magIn = s.magIn := rfl
@[simp] theorem modTly_prt (f : Tly → Tly) (s : State) :
    (modTly f s).prt = s.prt := rfl

@[simp] theorem modMbx_pending (m : Nat) (f : Mbx → Mbx) (s : State) :
    (modMbx m f s).pending = s.pending := rfl
@[simp] theorem modMbx_now (m : Nat) (f : Mbx → Mbx) (s : State) :
    (modMbx m f s).now = s.now := rfl
@[simp] theorem modMbx_free (m : Nat) (f : Mbx → Mbx) (s : State) :
    (modMbx m f s).free = s.free := rfl
@[simp] theorem modMbx_bus (m : Nat) (f : Mbx → Mbx) (s : State) :
    (modMbx m f s).bus = s.bus := rfl
@[simp] theorem modMbx_rck (m : Nat) (f : Mbx → Mbx) (s : State) :
    (modMbx m f s).rck = s.rck := rfl
@[simp] theorem modMbx_ptp (m : Nat) (f : Mbx → Mbx) (s : State) :
    (modMbx m f s).ptp = s.ptp := rfl
@[simp] theorem modMbx_lane (m : Nat) (f : Mbx → Mbx) (s : State) :
    (modMbx m f s).lane = s.lane := rfl
@[simp] theorem modMbx_lfi (m : Nat) (f : Mbx → Mbx) (s : State) :
    (modMbx m f s).lfi = s.lfi := rfl
@[simp] theorem modMbx_port (m : Nat) (f : Mbx → Mbx) (s : State) :
    (modMbx m f s).port = s.port := rfl
@[simp] theorem modMbx_swt (m : Nat) (f : Mbx → Mbx) (s : State) :
    (modMbx m f s).swt = s.swt := rfl
@[simp] theorem modMbx_ndl (m : Nat) (f : Mbx → Mbx) (s : State) :
    (modMbx m f s).ndl = s.ndl := rfl
@[simp] theorem modMbx_bank (m : Nat) (f : Mbx → Mbx) (s : State) :
    (modMbx m f s).bank = s.bank := rfl
@[simp] theorem modMbx_dist (m : Nat) (f : Mbx → Mbx) (s : State) :
    (modMbx m f s).dist = s.dist := rfl
@[simp] theorem modMbx_skn (m : Nat) (f : Mbx → Mbx) (s : State) :
    (modMbx m f s).skn = s.skn := rfl
@[simp] theorem modMbx_pat (m : Nat) (f : Mbx → Mbx) (s : State) :
    (modMbx m f s).pat = s.pat := rfl
@[simp] theorem modMbx_pl (m : Nat) (f : Mbx → Mbx) (s : State) :
    (modMbx m f s).pl = s.pl := rfl
@[simp] theorem modMbx_joint (m : Nat) (f : Mbx → Mbx) (s : State) :
    (modMbx m f s).joint = s.joint := rfl
@[simp] theorem modMbx_mem (m : Nat) (f : Mbx → Mbx) (s : State) :
    (modMbx m f s).mem = s.mem := rfl
@[simp] theorem modMbx_stl (m : Nat) (f : Mbx → Mbx) (s : State) :
    (modMbx m f s).stl = s.stl := rfl
@[simp] theorem modMbx_eth (m : Nat) (f : Mbx → Mbx) (s : State) :
    (modMbx m f s).eth = s.eth := rfl
@[simp] theorem modMbx_ssw (m : Nat) (f : Mbx → Mbx) (s : State) :
    (modMbx m f s).ssw = s.ssw := rfl
@[simp] theorem modMbx_ft (m : Nat) (f : Mbx → Mbx) (s : State) :
    (modMbx m f s).ft = s.ft := rfl
@[simp] theorem modMbx_arrivals (m : Nat) (f : Mbx → Mbx) (s : State) :
    (modMbx m f s).arrivals = s.arrivals := rfl
@[simp] theorem modMbx_ict (m : Nat) (f : Mbx → Mbx) (s : State) :
    (modMbx m f s).ict = s.ict := rfl
@[simp] theorem modMbx_sem (m : Nat) (f : Mbx → Mbx) (s : State) :
    (modMbx m f s).sem = s.sem := rfl
@[simp] theorem modMbx_pwr (m : Nat) (f : Mbx → Mbx) (s : State) :
    (modMbx m f s).pwr = s.pwr := rfl
@[simp] theorem modMbx_fcl (m : Nat) (f : Mbx → Mbx) (s : State) :
    (modMbx m f s).fcl = s.fcl := rfl
@[simp] theorem modMbx_ldg (m : Nat) (f : Mbx → Mbx) (s : State) :
    (modMbx m f s).ldg = s.ldg := rfl
@[simp] theorem modMbx_tly (m : Nat) (f : Mbx → Mbx) (s : State) :
    (modMbx m f s).tly = s.tly := rfl
@[simp] theorem modMbx_sth (m : Nat) (f : Mbx → Mbx) (s : State) :
    (modMbx m f s).sth = s.sth := rfl
@[simp] theorem modMbx_sec (m : Nat) (f : Mbx → Mbx) (s : State) :
    (modMbx m f s).sec = s.sec := rfl
@[simp] theorem modMbx_mag (m : Nat) (f : Mbx → Mbx) (s : State) :
    (modMbx m f s).mag = s.mag := rfl
@[simp] theorem modMbx_magIn (m : Nat) (f : Mbx → Mbx) (s : State) :
    (modMbx m f s).magIn = s.magIn := rfl
@[simp] theorem modMbx_prt (m : Nat) (f : Mbx → Mbx) (s : State) :
    (modMbx m f s).prt = s.prt := rfl

@[simp] theorem modSem_pending (n : Nat) (f : Sem → Sem) (s : State) :
    (modSem n f s).pending = s.pending := rfl
@[simp] theorem modSem_now (n : Nat) (f : Sem → Sem) (s : State) :
    (modSem n f s).now = s.now := rfl
@[simp] theorem modSem_free (n : Nat) (f : Sem → Sem) (s : State) :
    (modSem n f s).free = s.free := rfl
@[simp] theorem modSem_bus (n : Nat) (f : Sem → Sem) (s : State) :
    (modSem n f s).bus = s.bus := rfl
@[simp] theorem modSem_rck (n : Nat) (f : Sem → Sem) (s : State) :
    (modSem n f s).rck = s.rck := rfl
@[simp] theorem modSem_ptp (n : Nat) (f : Sem → Sem) (s : State) :
    (modSem n f s).ptp = s.ptp := rfl
@[simp] theorem modSem_lane (n : Nat) (f : Sem → Sem) (s : State) :
    (modSem n f s).lane = s.lane := rfl
@[simp] theorem modSem_lfi (n : Nat) (f : Sem → Sem) (s : State) :
    (modSem n f s).lfi = s.lfi := rfl
@[simp] theorem modSem_port (n : Nat) (f : Sem → Sem) (s : State) :
    (modSem n f s).port = s.port := rfl
@[simp] theorem modSem_swt (n : Nat) (f : Sem → Sem) (s : State) :
    (modSem n f s).swt = s.swt := rfl
@[simp] theorem modSem_ndl (n : Nat) (f : Sem → Sem) (s : State) :
    (modSem n f s).ndl = s.ndl := rfl
@[simp] theorem modSem_bank (n : Nat) (f : Sem → Sem) (s : State) :
    (modSem n f s).bank = s.bank := rfl
@[simp] theorem modSem_dist (n : Nat) (f : Sem → Sem) (s : State) :
    (modSem n f s).dist = s.dist := rfl
@[simp] theorem modSem_skn (n : Nat) (f : Sem → Sem) (s : State) :
    (modSem n f s).skn = s.skn := rfl
@[simp] theorem modSem_pat (n : Nat) (f : Sem → Sem) (s : State) :
    (modSem n f s).pat = s.pat := rfl
@[simp] theorem modSem_pl (n : Nat) (f : Sem → Sem) (s : State) :
    (modSem n f s).pl = s.pl := rfl
@[simp] theorem modSem_joint (n : Nat) (f : Sem → Sem) (s : State) :
    (modSem n f s).joint = s.joint := rfl
@[simp] theorem modSem_mem (n : Nat) (f : Sem → Sem) (s : State) :
    (modSem n f s).mem = s.mem := rfl
@[simp] theorem modSem_stl (n : Nat) (f : Sem → Sem) (s : State) :
    (modSem n f s).stl = s.stl := rfl
@[simp] theorem modSem_eth (n : Nat) (f : Sem → Sem) (s : State) :
    (modSem n f s).eth = s.eth := rfl
@[simp] theorem modSem_ssw (n : Nat) (f : Sem → Sem) (s : State) :
    (modSem n f s).ssw = s.ssw := rfl
@[simp] theorem modSem_ft (n : Nat) (f : Sem → Sem) (s : State) :
    (modSem n f s).ft = s.ft := rfl
@[simp] theorem modSem_arrivals (n : Nat) (f : Sem → Sem) (s : State) :
    (modSem n f s).arrivals = s.arrivals := rfl
@[simp] theorem modSem_ict (n : Nat) (f : Sem → Sem) (s : State) :
    (modSem n f s).ict = s.ict := rfl
@[simp] theorem modSem_mbx (n : Nat) (f : Sem → Sem) (s : State) :
    (modSem n f s).mbx = s.mbx := rfl
@[simp] theorem modSem_pwr (n : Nat) (f : Sem → Sem) (s : State) :
    (modSem n f s).pwr = s.pwr := rfl
@[simp] theorem modSem_fcl (n : Nat) (f : Sem → Sem) (s : State) :
    (modSem n f s).fcl = s.fcl := rfl
@[simp] theorem modSem_ldg (n : Nat) (f : Sem → Sem) (s : State) :
    (modSem n f s).ldg = s.ldg := rfl
@[simp] theorem modSem_tly (n : Nat) (f : Sem → Sem) (s : State) :
    (modSem n f s).tly = s.tly := rfl
@[simp] theorem modSem_sth (n : Nat) (f : Sem → Sem) (s : State) :
    (modSem n f s).sth = s.sth := rfl
@[simp] theorem modSem_sec (n : Nat) (f : Sem → Sem) (s : State) :
    (modSem n f s).sec = s.sec := rfl
@[simp] theorem modSem_mag (n : Nat) (f : Sem → Sem) (s : State) :
    (modSem n f s).mag = s.mag := rfl
@[simp] theorem modSem_magIn (n : Nat) (f : Sem → Sem) (s : State) :
    (modSem n f s).magIn = s.magIn := rfl
@[simp] theorem modSem_prt (n : Nat) (f : Sem → Sem) (s : State) :
    (modSem n f s).prt = s.prt := rfl

@[simp] theorem modTch_pending (c : Nat) (f : TileCh → TileCh) (s : State) :
    (modTch c f s).pending = s.pending := rfl
@[simp] theorem modTch_now (c : Nat) (f : TileCh → TileCh) (s : State) :
    (modTch c f s).now = s.now := rfl
@[simp] theorem modTch_free (c : Nat) (f : TileCh → TileCh) (s : State) :
    (modTch c f s).free = s.free := rfl
@[simp] theorem modTch_bus (c : Nat) (f : TileCh → TileCh) (s : State) :
    (modTch c f s).bus = s.bus := rfl
@[simp] theorem modTch_rck (c : Nat) (f : TileCh → TileCh) (s : State) :
    (modTch c f s).rck = s.rck := rfl
@[simp] theorem modTch_ptp (c : Nat) (f : TileCh → TileCh) (s : State) :
    (modTch c f s).ptp = s.ptp := rfl
@[simp] theorem modTch_lane (c : Nat) (f : TileCh → TileCh) (s : State) :
    (modTch c f s).lane = s.lane := rfl
@[simp] theorem modTch_lfi (c : Nat) (f : TileCh → TileCh) (s : State) :
    (modTch c f s).lfi = s.lfi := rfl
@[simp] theorem modTch_port (c : Nat) (f : TileCh → TileCh) (s : State) :
    (modTch c f s).port = s.port := rfl
@[simp] theorem modTch_swt (c : Nat) (f : TileCh → TileCh) (s : State) :
    (modTch c f s).swt = s.swt := rfl
@[simp] theorem modTch_ndl (c : Nat) (f : TileCh → TileCh) (s : State) :
    (modTch c f s).ndl = s.ndl := rfl
@[simp] theorem modTch_bank (c : Nat) (f : TileCh → TileCh) (s : State) :
    (modTch c f s).bank = s.bank := rfl
@[simp] theorem modTch_dist (c : Nat) (f : TileCh → TileCh) (s : State) :
    (modTch c f s).dist = s.dist := rfl
@[simp] theorem modTch_skn (c : Nat) (f : TileCh → TileCh) (s : State) :
    (modTch c f s).skn = s.skn := rfl
@[simp] theorem modTch_pat (c : Nat) (f : TileCh → TileCh) (s : State) :
    (modTch c f s).pat = s.pat := rfl
@[simp] theorem modTch_pl (c : Nat) (f : TileCh → TileCh) (s : State) :
    (modTch c f s).pl = s.pl := rfl
@[simp] theorem modTch_joint (c : Nat) (f : TileCh → TileCh) (s : State) :
    (modTch c f s).joint = s.joint := rfl
@[simp] theorem modTch_mem (c : Nat) (f : TileCh → TileCh) (s : State) :
    (modTch c f s).mem = s.mem := rfl
@[simp] theorem modTch_stl (c : Nat) (f : TileCh → TileCh) (s : State) :
    (modTch c f s).stl = s.stl := rfl
@[simp] theorem modTch_eth (c : Nat) (f : TileCh → TileCh) (s : State) :
    (modTch c f s).eth = s.eth := rfl
@[simp] theorem modTch_ssw (c : Nat) (f : TileCh → TileCh) (s : State) :
    (modTch c f s).ssw = s.ssw := rfl
@[simp] theorem modTch_ft (c : Nat) (f : TileCh → TileCh) (s : State) :
    (modTch c f s).ft = s.ft := rfl
@[simp] theorem modTch_arrivals (c : Nat) (f : TileCh → TileCh) (s : State) :
    (modTch c f s).arrivals = s.arrivals := rfl
@[simp] theorem modTch_ict (c : Nat) (f : TileCh → TileCh) (s : State) :
    (modTch c f s).ict = s.ict := rfl
@[simp] theorem modTch_mbx (c : Nat) (f : TileCh → TileCh) (s : State) :
    (modTch c f s).mbx = s.mbx := rfl
@[simp] theorem modTch_sem (c : Nat) (f : TileCh → TileCh) (s : State) :
    (modTch c f s).sem = s.sem := rfl
@[simp] theorem modTch_pwr (c : Nat) (f : TileCh → TileCh) (s : State) :
    (modTch c f s).pwr = s.pwr := rfl
@[simp] theorem modTch_fcl (c : Nat) (f : TileCh → TileCh) (s : State) :
    (modTch c f s).fcl = s.fcl := rfl
@[simp] theorem modTch_ldg (c : Nat) (f : TileCh → TileCh) (s : State) :
    (modTch c f s).ldg = s.ldg := rfl
@[simp] theorem modTch_tly (c : Nat) (f : TileCh → TileCh) (s : State) :
    (modTch c f s).tly = s.tly := rfl
@[simp] theorem modTch_sec (c : Nat) (f : TileCh → TileCh) (s : State) :
    (modTch c f s).sec = s.sec := rfl
@[simp] theorem modTch_mag (c : Nat) (f : TileCh → TileCh) (s : State) :
    (modTch c f s).mag = s.mag := rfl
@[simp] theorem modTch_magIn (c : Nat) (f : TileCh → TileCh) (s : State) :
    (modTch c f s).magIn = s.magIn := rfl
@[simp] theorem modTch_prt (c : Nat) (f : TileCh → TileCh) (s : State) :
    (modTch c f s).prt = s.prt := rfl

@[simp] theorem modEth_pending (p : Nat) (f : EthPort → EthPort) (s : State) :
    (modEth p f s).pending = s.pending := rfl
@[simp] theorem modEth_now (p : Nat) (f : EthPort → EthPort) (s : State) :
    (modEth p f s).now = s.now := rfl
@[simp] theorem modEth_free (p : Nat) (f : EthPort → EthPort) (s : State) :
    (modEth p f s).free = s.free := rfl
@[simp] theorem modEth_bus (p : Nat) (f : EthPort → EthPort) (s : State) :
    (modEth p f s).bus = s.bus := rfl
@[simp] theorem modEth_rck (p : Nat) (f : EthPort → EthPort) (s : State) :
    (modEth p f s).rck = s.rck := rfl
@[simp] theorem modEth_ptp (p : Nat) (f : EthPort → EthPort) (s : State) :
    (modEth p f s).ptp = s.ptp := rfl
@[simp] theorem modEth_lane (p : Nat) (f : EthPort → EthPort) (s : State) :
    (modEth p f s).lane = s.lane := rfl
@[simp] theorem modEth_lfi (p : Nat) (f : EthPort → EthPort) (s : State) :
    (modEth p f s).lfi = s.lfi := rfl
@[simp] theorem modEth_port (p : Nat) (f : EthPort → EthPort) (s : State) :
    (modEth p f s).port = s.port := rfl
@[simp] theorem modEth_swt (p : Nat) (f : EthPort → EthPort) (s : State) :
    (modEth p f s).swt = s.swt := rfl
@[simp] theorem modEth_ndl (p : Nat) (f : EthPort → EthPort) (s : State) :
    (modEth p f s).ndl = s.ndl := rfl
@[simp] theorem modEth_bank (p : Nat) (f : EthPort → EthPort) (s : State) :
    (modEth p f s).bank = s.bank := rfl
@[simp] theorem modEth_dist (p : Nat) (f : EthPort → EthPort) (s : State) :
    (modEth p f s).dist = s.dist := rfl
@[simp] theorem modEth_skn (p : Nat) (f : EthPort → EthPort) (s : State) :
    (modEth p f s).skn = s.skn := rfl
@[simp] theorem modEth_pat (p : Nat) (f : EthPort → EthPort) (s : State) :
    (modEth p f s).pat = s.pat := rfl
@[simp] theorem modEth_pl (p : Nat) (f : EthPort → EthPort) (s : State) :
    (modEth p f s).pl = s.pl := rfl
@[simp] theorem modEth_joint (p : Nat) (f : EthPort → EthPort) (s : State) :
    (modEth p f s).joint = s.joint := rfl
@[simp] theorem modEth_mem (p : Nat) (f : EthPort → EthPort) (s : State) :
    (modEth p f s).mem = s.mem := rfl
@[simp] theorem modEth_stl (p : Nat) (f : EthPort → EthPort) (s : State) :
    (modEth p f s).stl = s.stl := rfl
@[simp] theorem modEth_ssw (p : Nat) (f : EthPort → EthPort) (s : State) :
    (modEth p f s).ssw = s.ssw := rfl
@[simp] theorem modEth_ft (p : Nat) (f : EthPort → EthPort) (s : State) :
    (modEth p f s).ft = s.ft := rfl
@[simp] theorem modEth_arrivals (p : Nat) (f : EthPort → EthPort) (s : State) :
    (modEth p f s).arrivals = s.arrivals := rfl
@[simp] theorem modEth_ict (p : Nat) (f : EthPort → EthPort) (s : State) :
    (modEth p f s).ict = s.ict := rfl
@[simp] theorem modEth_mbx (p : Nat) (f : EthPort → EthPort) (s : State) :
    (modEth p f s).mbx = s.mbx := rfl
@[simp] theorem modEth_sem (p : Nat) (f : EthPort → EthPort) (s : State) :
    (modEth p f s).sem = s.sem := rfl
@[simp] theorem modEth_pwr (p : Nat) (f : EthPort → EthPort) (s : State) :
    (modEth p f s).pwr = s.pwr := rfl
@[simp] theorem modEth_fcl (p : Nat) (f : EthPort → EthPort) (s : State) :
    (modEth p f s).fcl = s.fcl := rfl
@[simp] theorem modEth_ldg (p : Nat) (f : EthPort → EthPort) (s : State) :
    (modEth p f s).ldg = s.ldg := rfl
@[simp] theorem modEth_tly (p : Nat) (f : EthPort → EthPort) (s : State) :
    (modEth p f s).tly = s.tly := rfl
@[simp] theorem modEth_sth (p : Nat) (f : EthPort → EthPort) (s : State) :
    (modEth p f s).sth = s.sth := rfl
@[simp] theorem modEth_sec (p : Nat) (f : EthPort → EthPort) (s : State) :
    (modEth p f s).sec = s.sec := rfl
@[simp] theorem modEth_mag (p : Nat) (f : EthPort → EthPort) (s : State) :
    (modEth p f s).mag = s.mag := rfl
@[simp] theorem modEth_magIn (p : Nat) (f : EthPort → EthPort) (s : State) :
    (modEth p f s).magIn = s.magIn := rfl
@[simp] theorem modEth_prt (p : Nat) (f : EthPort → EthPort) (s : State) :
    (modEth p f s).prt = s.prt := rfl

@[simp] theorem modSsw_pending (f : Ssw → Ssw) (s : State) :
    (modSsw f s).pending = s.pending := rfl
@[simp] theorem modSsw_now (f : Ssw → Ssw) (s : State) :
    (modSsw f s).now = s.now := rfl
@[simp] theorem modSsw_free (f : Ssw → Ssw) (s : State) :
    (modSsw f s).free = s.free := rfl
@[simp] theorem modSsw_bus (f : Ssw → Ssw) (s : State) :
    (modSsw f s).bus = s.bus := rfl
@[simp] theorem modSsw_rck (f : Ssw → Ssw) (s : State) :
    (modSsw f s).rck = s.rck := rfl
@[simp] theorem modSsw_ptp (f : Ssw → Ssw) (s : State) :
    (modSsw f s).ptp = s.ptp := rfl
@[simp] theorem modSsw_lane (f : Ssw → Ssw) (s : State) :
    (modSsw f s).lane = s.lane := rfl
@[simp] theorem modSsw_lfi (f : Ssw → Ssw) (s : State) :
    (modSsw f s).lfi = s.lfi := rfl
@[simp] theorem modSsw_port (f : Ssw → Ssw) (s : State) :
    (modSsw f s).port = s.port := rfl
@[simp] theorem modSsw_swt (f : Ssw → Ssw) (s : State) :
    (modSsw f s).swt = s.swt := rfl
@[simp] theorem modSsw_ndl (f : Ssw → Ssw) (s : State) :
    (modSsw f s).ndl = s.ndl := rfl
@[simp] theorem modSsw_bank (f : Ssw → Ssw) (s : State) :
    (modSsw f s).bank = s.bank := rfl
@[simp] theorem modSsw_dist (f : Ssw → Ssw) (s : State) :
    (modSsw f s).dist = s.dist := rfl
@[simp] theorem modSsw_skn (f : Ssw → Ssw) (s : State) :
    (modSsw f s).skn = s.skn := rfl
@[simp] theorem modSsw_pat (f : Ssw → Ssw) (s : State) :
    (modSsw f s).pat = s.pat := rfl
@[simp] theorem modSsw_pl (f : Ssw → Ssw) (s : State) :
    (modSsw f s).pl = s.pl := rfl
@[simp] theorem modSsw_joint (f : Ssw → Ssw) (s : State) :
    (modSsw f s).joint = s.joint := rfl
@[simp] theorem modSsw_mem (f : Ssw → Ssw) (s : State) :
    (modSsw f s).mem = s.mem := rfl
@[simp] theorem modSsw_stl (f : Ssw → Ssw) (s : State) :
    (modSsw f s).stl = s.stl := rfl
@[simp] theorem modSsw_eth (f : Ssw → Ssw) (s : State) :
    (modSsw f s).eth = s.eth := rfl
@[simp] theorem modSsw_ft (f : Ssw → Ssw) (s : State) :
    (modSsw f s).ft = s.ft := rfl
@[simp] theorem modSsw_arrivals (f : Ssw → Ssw) (s : State) :
    (modSsw f s).arrivals = s.arrivals := rfl
@[simp] theorem modSsw_ict (f : Ssw → Ssw) (s : State) :
    (modSsw f s).ict = s.ict := rfl
@[simp] theorem modSsw_mbx (f : Ssw → Ssw) (s : State) :
    (modSsw f s).mbx = s.mbx := rfl
@[simp] theorem modSsw_sem (f : Ssw → Ssw) (s : State) :
    (modSsw f s).sem = s.sem := rfl
@[simp] theorem modSsw_pwr (f : Ssw → Ssw) (s : State) :
    (modSsw f s).pwr = s.pwr := rfl
@[simp] theorem modSsw_fcl (f : Ssw → Ssw) (s : State) :
    (modSsw f s).fcl = s.fcl := rfl
@[simp] theorem modSsw_ldg (f : Ssw → Ssw) (s : State) :
    (modSsw f s).ldg = s.ldg := rfl
@[simp] theorem modSsw_tly (f : Ssw → Ssw) (s : State) :
    (modSsw f s).tly = s.tly := rfl
@[simp] theorem modSsw_sth (f : Ssw → Ssw) (s : State) :
    (modSsw f s).sth = s.sth := rfl
@[simp] theorem modSsw_sec (f : Ssw → Ssw) (s : State) :
    (modSsw f s).sec = s.sec := rfl
@[simp] theorem modSsw_mag (f : Ssw → Ssw) (s : State) :
    (modSsw f s).mag = s.mag := rfl
@[simp] theorem modSsw_magIn (f : Ssw → Ssw) (s : State) :
    (modSsw f s).magIn = s.magIn := rfl
@[simp] theorem modSsw_prt (f : Ssw → Ssw) (s : State) :
    (modSsw f s).prt = s.prt := rfl

@[simp] theorem modEgQ_pending (p : Nat) (q : Nat) (f : EgQ → EgQ) (s : State) :
    (modEgQ p q f s).pending = s.pending := rfl
@[simp] theorem modEgQ_now (p : Nat) (q : Nat) (f : EgQ → EgQ) (s : State) :
    (modEgQ p q f s).now = s.now := rfl
@[simp] theorem modEgQ_free (p : Nat) (q : Nat) (f : EgQ → EgQ) (s : State) :
    (modEgQ p q f s).free = s.free := rfl
@[simp] theorem modEgQ_bus (p : Nat) (q : Nat) (f : EgQ → EgQ) (s : State) :
    (modEgQ p q f s).bus = s.bus := rfl
@[simp] theorem modEgQ_rck (p : Nat) (q : Nat) (f : EgQ → EgQ) (s : State) :
    (modEgQ p q f s).rck = s.rck := rfl
@[simp] theorem modEgQ_ptp (p : Nat) (q : Nat) (f : EgQ → EgQ) (s : State) :
    (modEgQ p q f s).ptp = s.ptp := rfl
@[simp] theorem modEgQ_lane (p : Nat) (q : Nat) (f : EgQ → EgQ) (s : State) :
    (modEgQ p q f s).lane = s.lane := rfl
@[simp] theorem modEgQ_lfi (p : Nat) (q : Nat) (f : EgQ → EgQ) (s : State) :
    (modEgQ p q f s).lfi = s.lfi := rfl
@[simp] theorem modEgQ_port (p : Nat) (q : Nat) (f : EgQ → EgQ) (s : State) :
    (modEgQ p q f s).port = s.port := rfl
@[simp] theorem modEgQ_swt (p : Nat) (q : Nat) (f : EgQ → EgQ) (s : State) :
    (modEgQ p q f s).swt = s.swt := rfl
@[simp] theorem modEgQ_ndl (p : Nat) (q : Nat) (f : EgQ → EgQ) (s : State) :
    (modEgQ p q f s).ndl = s.ndl := rfl
@[simp] theorem modEgQ_bank (p : Nat) (q : Nat) (f : EgQ → EgQ) (s : State) :
    (modEgQ p q f s).bank = s.bank := rfl
@[simp] theorem modEgQ_dist (p : Nat) (q : Nat) (f : EgQ → EgQ) (s : State) :
    (modEgQ p q f s).dist = s.dist := rfl
@[simp] theorem modEgQ_skn (p : Nat) (q : Nat) (f : EgQ → EgQ) (s : State) :
    (modEgQ p q f s).skn = s.skn := rfl
@[simp] theorem modEgQ_pat (p : Nat) (q : Nat) (f : EgQ → EgQ) (s : State) :
    (modEgQ p q f s).pat = s.pat := rfl
@[simp] theorem modEgQ_pl (p : Nat) (q : Nat) (f : EgQ → EgQ) (s : State) :
    (modEgQ p q f s).pl = s.pl := rfl
@[simp] theorem modEgQ_joint (p : Nat) (q : Nat) (f : EgQ → EgQ) (s : State) :
    (modEgQ p q f s).joint = s.joint := rfl
@[simp] theorem modEgQ_mem (p : Nat) (q : Nat) (f : EgQ → EgQ) (s : State) :
    (modEgQ p q f s).mem = s.mem := rfl
@[simp] theorem modEgQ_stl (p : Nat) (q : Nat) (f : EgQ → EgQ) (s : State) :
    (modEgQ p q f s).stl = s.stl := rfl
@[simp] theorem modEgQ_ssw (p : Nat) (q : Nat) (f : EgQ → EgQ) (s : State) :
    (modEgQ p q f s).ssw = s.ssw := rfl
@[simp] theorem modEgQ_ft (p : Nat) (q : Nat) (f : EgQ → EgQ) (s : State) :
    (modEgQ p q f s).ft = s.ft := rfl
@[simp] theorem modEgQ_arrivals (p : Nat) (q : Nat) (f : EgQ → EgQ) (s : State) :
    (modEgQ p q f s).arrivals = s.arrivals := rfl
@[simp] theorem modEgQ_ict (p : Nat) (q : Nat) (f : EgQ → EgQ) (s : State) :
    (modEgQ p q f s).ict = s.ict := rfl
@[simp] theorem modEgQ_mbx (p : Nat) (q : Nat) (f : EgQ → EgQ) (s : State) :
    (modEgQ p q f s).mbx = s.mbx := rfl
@[simp] theorem modEgQ_sem (p : Nat) (q : Nat) (f : EgQ → EgQ) (s : State) :
    (modEgQ p q f s).sem = s.sem := rfl
@[simp] theorem modEgQ_pwr (p : Nat) (q : Nat) (f : EgQ → EgQ) (s : State) :
    (modEgQ p q f s).pwr = s.pwr := rfl
@[simp] theorem modEgQ_fcl (p : Nat) (q : Nat) (f : EgQ → EgQ) (s : State) :
    (modEgQ p q f s).fcl = s.fcl := rfl
@[simp] theorem modEgQ_ldg (p : Nat) (q : Nat) (f : EgQ → EgQ) (s : State) :
    (modEgQ p q f s).ldg = s.ldg := rfl
@[simp] theorem modEgQ_tly (p : Nat) (q : Nat) (f : EgQ → EgQ) (s : State) :
    (modEgQ p q f s).tly = s.tly := rfl
@[simp] theorem modEgQ_sth (p : Nat) (q : Nat) (f : EgQ → EgQ) (s : State) :
    (modEgQ p q f s).sth = s.sth := rfl
@[simp] theorem modEgQ_sec (p : Nat) (q : Nat) (f : EgQ → EgQ) (s : State) :
    (modEgQ p q f s).sec = s.sec := rfl
@[simp] theorem modEgQ_mag (p : Nat) (q : Nat) (f : EgQ → EgQ) (s : State) :
    (modEgQ p q f s).mag = s.mag := rfl
@[simp] theorem modEgQ_magIn (p : Nat) (q : Nat) (f : EgQ → EgQ) (s : State) :
    (modEgQ p q f s).magIn = s.magIn := rfl
@[simp] theorem modEgQ_prt (p : Nat) (q : Nat) (f : EgQ → EgQ) (s : State) :
    (modEgQ p q f s).prt = s.prt := rfl

@[simp] theorem modBkt_pending (b : Nat) (f : Bkt → Bkt) (s : State) :
    (modBkt b f s).pending = s.pending := rfl
@[simp] theorem modBkt_now (b : Nat) (f : Bkt → Bkt) (s : State) :
    (modBkt b f s).now = s.now := rfl
@[simp] theorem modBkt_free (b : Nat) (f : Bkt → Bkt) (s : State) :
    (modBkt b f s).free = s.free := rfl
@[simp] theorem modBkt_bus (b : Nat) (f : Bkt → Bkt) (s : State) :
    (modBkt b f s).bus = s.bus := rfl
@[simp] theorem modBkt_rck (b : Nat) (f : Bkt → Bkt) (s : State) :
    (modBkt b f s).rck = s.rck := rfl
@[simp] theorem modBkt_ptp (b : Nat) (f : Bkt → Bkt) (s : State) :
    (modBkt b f s).ptp = s.ptp := rfl
@[simp] theorem modBkt_lane (b : Nat) (f : Bkt → Bkt) (s : State) :
    (modBkt b f s).lane = s.lane := rfl
@[simp] theorem modBkt_lfi (b : Nat) (f : Bkt → Bkt) (s : State) :
    (modBkt b f s).lfi = s.lfi := rfl
@[simp] theorem modBkt_port (b : Nat) (f : Bkt → Bkt) (s : State) :
    (modBkt b f s).port = s.port := rfl
@[simp] theorem modBkt_swt (b : Nat) (f : Bkt → Bkt) (s : State) :
    (modBkt b f s).swt = s.swt := rfl
@[simp] theorem modBkt_ndl (b : Nat) (f : Bkt → Bkt) (s : State) :
    (modBkt b f s).ndl = s.ndl := rfl
@[simp] theorem modBkt_bank (b : Nat) (f : Bkt → Bkt) (s : State) :
    (modBkt b f s).bank = s.bank := rfl
@[simp] theorem modBkt_dist (b : Nat) (f : Bkt → Bkt) (s : State) :
    (modBkt b f s).dist = s.dist := rfl
@[simp] theorem modBkt_skn (b : Nat) (f : Bkt → Bkt) (s : State) :
    (modBkt b f s).skn = s.skn := rfl
@[simp] theorem modBkt_pat (b : Nat) (f : Bkt → Bkt) (s : State) :
    (modBkt b f s).pat = s.pat := rfl
@[simp] theorem modBkt_pl (b : Nat) (f : Bkt → Bkt) (s : State) :
    (modBkt b f s).pl = s.pl := rfl
@[simp] theorem modBkt_joint (b : Nat) (f : Bkt → Bkt) (s : State) :
    (modBkt b f s).joint = s.joint := rfl
@[simp] theorem modBkt_mem (b : Nat) (f : Bkt → Bkt) (s : State) :
    (modBkt b f s).mem = s.mem := rfl
@[simp] theorem modBkt_stl (b : Nat) (f : Bkt → Bkt) (s : State) :
    (modBkt b f s).stl = s.stl := rfl
@[simp] theorem modBkt_eth (b : Nat) (f : Bkt → Bkt) (s : State) :
    (modBkt b f s).eth = s.eth := rfl
@[simp] theorem modBkt_ft (b : Nat) (f : Bkt → Bkt) (s : State) :
    (modBkt b f s).ft = s.ft := rfl
@[simp] theorem modBkt_arrivals (b : Nat) (f : Bkt → Bkt) (s : State) :
    (modBkt b f s).arrivals = s.arrivals := rfl
@[simp] theorem modBkt_ict (b : Nat) (f : Bkt → Bkt) (s : State) :
    (modBkt b f s).ict = s.ict := rfl
@[simp] theorem modBkt_mbx (b : Nat) (f : Bkt → Bkt) (s : State) :
    (modBkt b f s).mbx = s.mbx := rfl
@[simp] theorem modBkt_sem (b : Nat) (f : Bkt → Bkt) (s : State) :
    (modBkt b f s).sem = s.sem := rfl
@[simp] theorem modBkt_pwr (b : Nat) (f : Bkt → Bkt) (s : State) :
    (modBkt b f s).pwr = s.pwr := rfl
@[simp] theorem modBkt_fcl (b : Nat) (f : Bkt → Bkt) (s : State) :
    (modBkt b f s).fcl = s.fcl := rfl
@[simp] theorem modBkt_ldg (b : Nat) (f : Bkt → Bkt) (s : State) :
    (modBkt b f s).ldg = s.ldg := rfl
@[simp] theorem modBkt_tly (b : Nat) (f : Bkt → Bkt) (s : State) :
    (modBkt b f s).tly = s.tly := rfl
@[simp] theorem modBkt_sth (b : Nat) (f : Bkt → Bkt) (s : State) :
    (modBkt b f s).sth = s.sth := rfl
@[simp] theorem modBkt_sec (b : Nat) (f : Bkt → Bkt) (s : State) :
    (modBkt b f s).sec = s.sec := rfl
@[simp] theorem modBkt_mag (b : Nat) (f : Bkt → Bkt) (s : State) :
    (modBkt b f s).mag = s.mag := rfl
@[simp] theorem modBkt_magIn (b : Nat) (f : Bkt → Bkt) (s : State) :
    (modBkt b f s).magIn = s.magIn := rfl
@[simp] theorem modBkt_prt (b : Nat) (f : Bkt → Bkt) (s : State) :
    (modBkt b f s).prt = s.prt := rfl

@[simp] theorem modPol_pending (n : Nat) (f : Pol → Pol) (s : State) :
    (modPol n f s).pending = s.pending := rfl
@[simp] theorem modPol_now (n : Nat) (f : Pol → Pol) (s : State) :
    (modPol n f s).now = s.now := rfl
@[simp] theorem modPol_free (n : Nat) (f : Pol → Pol) (s : State) :
    (modPol n f s).free = s.free := rfl
@[simp] theorem modPol_bus (n : Nat) (f : Pol → Pol) (s : State) :
    (modPol n f s).bus = s.bus := rfl
@[simp] theorem modPol_rck (n : Nat) (f : Pol → Pol) (s : State) :
    (modPol n f s).rck = s.rck := rfl
@[simp] theorem modPol_ptp (n : Nat) (f : Pol → Pol) (s : State) :
    (modPol n f s).ptp = s.ptp := rfl
@[simp] theorem modPol_lane (n : Nat) (f : Pol → Pol) (s : State) :
    (modPol n f s).lane = s.lane := rfl
@[simp] theorem modPol_lfi (n : Nat) (f : Pol → Pol) (s : State) :
    (modPol n f s).lfi = s.lfi := rfl
@[simp] theorem modPol_port (n : Nat) (f : Pol → Pol) (s : State) :
    (modPol n f s).port = s.port := rfl
@[simp] theorem modPol_swt (n : Nat) (f : Pol → Pol) (s : State) :
    (modPol n f s).swt = s.swt := rfl
@[simp] theorem modPol_ndl (n : Nat) (f : Pol → Pol) (s : State) :
    (modPol n f s).ndl = s.ndl := rfl
@[simp] theorem modPol_bank (n : Nat) (f : Pol → Pol) (s : State) :
    (modPol n f s).bank = s.bank := rfl
@[simp] theorem modPol_dist (n : Nat) (f : Pol → Pol) (s : State) :
    (modPol n f s).dist = s.dist := rfl
@[simp] theorem modPol_skn (n : Nat) (f : Pol → Pol) (s : State) :
    (modPol n f s).skn = s.skn := rfl
@[simp] theorem modPol_pat (n : Nat) (f : Pol → Pol) (s : State) :
    (modPol n f s).pat = s.pat := rfl
@[simp] theorem modPol_pl (n : Nat) (f : Pol → Pol) (s : State) :
    (modPol n f s).pl = s.pl := rfl
@[simp] theorem modPol_joint (n : Nat) (f : Pol → Pol) (s : State) :
    (modPol n f s).joint = s.joint := rfl
@[simp] theorem modPol_mem (n : Nat) (f : Pol → Pol) (s : State) :
    (modPol n f s).mem = s.mem := rfl
@[simp] theorem modPol_stl (n : Nat) (f : Pol → Pol) (s : State) :
    (modPol n f s).stl = s.stl := rfl
@[simp] theorem modPol_eth (n : Nat) (f : Pol → Pol) (s : State) :
    (modPol n f s).eth = s.eth := rfl
@[simp] theorem modPol_ft (n : Nat) (f : Pol → Pol) (s : State) :
    (modPol n f s).ft = s.ft := rfl
@[simp] theorem modPol_arrivals (n : Nat) (f : Pol → Pol) (s : State) :
    (modPol n f s).arrivals = s.arrivals := rfl
@[simp] theorem modPol_ict (n : Nat) (f : Pol → Pol) (s : State) :
    (modPol n f s).ict = s.ict := rfl
@[simp] theorem modPol_mbx (n : Nat) (f : Pol → Pol) (s : State) :
    (modPol n f s).mbx = s.mbx := rfl
@[simp] theorem modPol_sem (n : Nat) (f : Pol → Pol) (s : State) :
    (modPol n f s).sem = s.sem := rfl
@[simp] theorem modPol_pwr (n : Nat) (f : Pol → Pol) (s : State) :
    (modPol n f s).pwr = s.pwr := rfl
@[simp] theorem modPol_fcl (n : Nat) (f : Pol → Pol) (s : State) :
    (modPol n f s).fcl = s.fcl := rfl
@[simp] theorem modPol_ldg (n : Nat) (f : Pol → Pol) (s : State) :
    (modPol n f s).ldg = s.ldg := rfl
@[simp] theorem modPol_tly (n : Nat) (f : Pol → Pol) (s : State) :
    (modPol n f s).tly = s.tly := rfl
@[simp] theorem modPol_sth (n : Nat) (f : Pol → Pol) (s : State) :
    (modPol n f s).sth = s.sth := rfl
@[simp] theorem modPol_sec (n : Nat) (f : Pol → Pol) (s : State) :
    (modPol n f s).sec = s.sec := rfl
@[simp] theorem modPol_mag (n : Nat) (f : Pol → Pol) (s : State) :
    (modPol n f s).mag = s.mag := rfl
@[simp] theorem modPol_magIn (n : Nat) (f : Pol → Pol) (s : State) :
    (modPol n f s).magIn = s.magIn := rfl
@[simp] theorem modPol_prt (n : Nat) (f : Pol → Pol) (s : State) :
    (modPol n f s).prt = s.prt := rfl

@[simp] theorem modMag_pending (m : Nat) (f : Mag → Mag) (s : State) :
    (modMag m f s).pending = s.pending := rfl
@[simp] theorem modMag_now (m : Nat) (f : Mag → Mag) (s : State) :
    (modMag m f s).now = s.now := rfl
@[simp] theorem modMag_free (m : Nat) (f : Mag → Mag) (s : State) :
    (modMag m f s).free = s.free := rfl
@[simp] theorem modMag_bus (m : Nat) (f : Mag → Mag) (s : State) :
    (modMag m f s).bus = s.bus := rfl
@[simp] theorem modMag_rck (m : Nat) (f : Mag → Mag) (s : State) :
    (modMag m f s).rck = s.rck := rfl
@[simp] theorem modMag_ptp (m : Nat) (f : Mag → Mag) (s : State) :
    (modMag m f s).ptp = s.ptp := rfl
@[simp] theorem modMag_lane (m : Nat) (f : Mag → Mag) (s : State) :
    (modMag m f s).lane = s.lane := rfl
@[simp] theorem modMag_lfi (m : Nat) (f : Mag → Mag) (s : State) :
    (modMag m f s).lfi = s.lfi := rfl
@[simp] theorem modMag_port (m : Nat) (f : Mag → Mag) (s : State) :
    (modMag m f s).port = s.port := rfl
@[simp] theorem modMag_swt (m : Nat) (f : Mag → Mag) (s : State) :
    (modMag m f s).swt = s.swt := rfl
@[simp] theorem modMag_ndl (m : Nat) (f : Mag → Mag) (s : State) :
    (modMag m f s).ndl = s.ndl := rfl
@[simp] theorem modMag_bank (m : Nat) (f : Mag → Mag) (s : State) :
    (modMag m f s).bank = s.bank := rfl
@[simp] theorem modMag_dist (m : Nat) (f : Mag → Mag) (s : State) :
    (modMag m f s).dist = s.dist := rfl
@[simp] theorem modMag_skn (m : Nat) (f : Mag → Mag) (s : State) :
    (modMag m f s).skn = s.skn := rfl
@[simp] theorem modMag_pat (m : Nat) (f : Mag → Mag) (s : State) :
    (modMag m f s).pat = s.pat := rfl
@[simp] theorem modMag_pl (m : Nat) (f : Mag → Mag) (s : State) :
    (modMag m f s).pl = s.pl := rfl
@[simp] theorem modMag_joint (m : Nat) (f : Mag → Mag) (s : State) :
    (modMag m f s).joint = s.joint := rfl
@[simp] theorem modMag_mem (m : Nat) (f : Mag → Mag) (s : State) :
    (modMag m f s).mem = s.mem := rfl
@[simp] theorem modMag_stl (m : Nat) (f : Mag → Mag) (s : State) :
    (modMag m f s).stl = s.stl := rfl
@[simp] theorem modMag_eth (m : Nat) (f : Mag → Mag) (s : State) :
    (modMag m f s).eth = s.eth := rfl
@[simp] theorem modMag_ssw (m : Nat) (f : Mag → Mag) (s : State) :
    (modMag m f s).ssw = s.ssw := rfl
@[simp] theorem modMag_ft (m : Nat) (f : Mag → Mag) (s : State) :
    (modMag m f s).ft = s.ft := rfl
@[simp] theorem modMag_arrivals (m : Nat) (f : Mag → Mag) (s : State) :
    (modMag m f s).arrivals = s.arrivals := rfl
@[simp] theorem modMag_ict (m : Nat) (f : Mag → Mag) (s : State) :
    (modMag m f s).ict = s.ict := rfl
@[simp] theorem modMag_mbx (m : Nat) (f : Mag → Mag) (s : State) :
    (modMag m f s).mbx = s.mbx := rfl
@[simp] theorem modMag_sem (m : Nat) (f : Mag → Mag) (s : State) :
    (modMag m f s).sem = s.sem := rfl
@[simp] theorem modMag_pwr (m : Nat) (f : Mag → Mag) (s : State) :
    (modMag m f s).pwr = s.pwr := rfl
@[simp] theorem modMag_fcl (m : Nat) (f : Mag → Mag) (s : State) :
    (modMag m f s).fcl = s.fcl := rfl
@[simp] theorem modMag_ldg (m : Nat) (f : Mag → Mag) (s : State) :
    (modMag m f s).ldg = s.ldg := rfl
@[simp] theorem modMag_tly (m : Nat) (f : Mag → Mag) (s : State) :
    (modMag m f s).tly = s.tly := rfl
@[simp] theorem modMag_sth (m : Nat) (f : Mag → Mag) (s : State) :
    (modMag m f s).sth = s.sth := rfl
@[simp] theorem modMag_sec (m : Nat) (f : Mag → Mag) (s : State) :
    (modMag m f s).sec = s.sec := rfl
@[simp] theorem modMag_magIn (m : Nat) (f : Mag → Mag) (s : State) :
    (modMag m f s).magIn = s.magIn := rfl
@[simp] theorem modMag_prt (m : Nat) (f : Mag → Mag) (s : State) :
    (modMag m f s).prt = s.prt := rfl

@[simp] theorem modMStream_pending (m : Nat) (k : Nat) (f : MagStream → MagStream) (s : State) :
    (modMStream m k f s).pending = s.pending := rfl
@[simp] theorem modMStream_now (m : Nat) (k : Nat) (f : MagStream → MagStream) (s : State) :
    (modMStream m k f s).now = s.now := rfl
@[simp] theorem modMStream_free (m : Nat) (k : Nat) (f : MagStream → MagStream) (s : State) :
    (modMStream m k f s).free = s.free := rfl
@[simp] theorem modMStream_bus (m : Nat) (k : Nat) (f : MagStream → MagStream) (s : State) :
    (modMStream m k f s).bus = s.bus := rfl
@[simp] theorem modMStream_rck (m : Nat) (k : Nat) (f : MagStream → MagStream) (s : State) :
    (modMStream m k f s).rck = s.rck := rfl
@[simp] theorem modMStream_ptp (m : Nat) (k : Nat) (f : MagStream → MagStream) (s : State) :
    (modMStream m k f s).ptp = s.ptp := rfl
@[simp] theorem modMStream_lane (m : Nat) (k : Nat) (f : MagStream → MagStream) (s : State) :
    (modMStream m k f s).lane = s.lane := rfl
@[simp] theorem modMStream_lfi (m : Nat) (k : Nat) (f : MagStream → MagStream) (s : State) :
    (modMStream m k f s).lfi = s.lfi := rfl
@[simp] theorem modMStream_port (m : Nat) (k : Nat) (f : MagStream → MagStream) (s : State) :
    (modMStream m k f s).port = s.port := rfl
@[simp] theorem modMStream_swt (m : Nat) (k : Nat) (f : MagStream → MagStream) (s : State) :
    (modMStream m k f s).swt = s.swt := rfl
@[simp] theorem modMStream_ndl (m : Nat) (k : Nat) (f : MagStream → MagStream) (s : State) :
    (modMStream m k f s).ndl = s.ndl := rfl
@[simp] theorem modMStream_bank (m : Nat) (k : Nat) (f : MagStream → MagStream) (s : State) :
    (modMStream m k f s).bank = s.bank := rfl
@[simp] theorem modMStream_dist (m : Nat) (k : Nat) (f : MagStream → MagStream) (s : State) :
    (modMStream m k f s).dist = s.dist := rfl
@[simp] theorem modMStream_skn (m : Nat) (k : Nat) (f : MagStream → MagStream) (s : State) :
    (modMStream m k f s).skn = s.skn := rfl
@[simp] theorem modMStream_pat (m : Nat) (k : Nat) (f : MagStream → MagStream) (s : State) :
    (modMStream m k f s).pat = s.pat := rfl
@[simp] theorem modMStream_pl (m : Nat) (k : Nat) (f : MagStream → MagStream) (s : State) :
    (modMStream m k f s).pl = s.pl := rfl
@[simp] theorem modMStream_joint (m : Nat) (k : Nat) (f : MagStream → MagStream) (s : State) :
    (modMStream m k f s).joint = s.joint := rfl
@[simp] theorem modMStream_mem (m : Nat) (k : Nat) (f : MagStream → MagStream) (s : State) :
    (modMStream m k f s).mem = s.mem := rfl
@[simp] theorem modMStream_stl (m : Nat) (k : Nat) (f : MagStream → MagStream) (s : State) :
    (modMStream m k f s).stl = s.stl := rfl
@[simp] theorem modMStream_eth (m : Nat) (k : Nat) (f : MagStream → MagStream) (s : State) :
    (modMStream m k f s).eth = s.eth := rfl
@[simp] theorem modMStream_ssw (m : Nat) (k : Nat) (f : MagStream → MagStream) (s : State) :
    (modMStream m k f s).ssw = s.ssw := rfl
@[simp] theorem modMStream_ft (m : Nat) (k : Nat) (f : MagStream → MagStream) (s : State) :
    (modMStream m k f s).ft = s.ft := rfl
@[simp] theorem modMStream_arrivals (m : Nat) (k : Nat) (f : MagStream → MagStream) (s : State) :
    (modMStream m k f s).arrivals = s.arrivals := rfl
@[simp] theorem modMStream_ict (m : Nat) (k : Nat) (f : MagStream → MagStream) (s : State) :
    (modMStream m k f s).ict = s.ict := rfl
@[simp] theorem modMStream_mbx (m : Nat) (k : Nat) (f : MagStream → MagStream) (s : State) :
    (modMStream m k f s).mbx = s.mbx := rfl
@[simp] theorem modMStream_sem (m : Nat) (k : Nat) (f : MagStream → MagStream) (s : State) :
    (modMStream m k f s).sem = s.sem := rfl
@[simp] theorem modMStream_pwr (m : Nat) (k : Nat) (f : MagStream → MagStream) (s : State) :
    (modMStream m k f s).pwr = s.pwr := rfl
@[simp] theorem modMStream_fcl (m : Nat) (k : Nat) (f : MagStream → MagStream) (s : State) :
    (modMStream m k f s).fcl = s.fcl := rfl
@[simp] theorem modMStream_ldg (m : Nat) (k : Nat) (f : MagStream → MagStream) (s : State) :
    (modMStream m k f s).ldg = s.ldg := rfl
@[simp] theorem modMStream_tly (m : Nat) (k : Nat) (f : MagStream → MagStream) (s : State) :
    (modMStream m k f s).tly = s.tly := rfl
@[simp] theorem modMStream_sth (m : Nat) (k : Nat) (f : MagStream → MagStream) (s : State) :
    (modMStream m k f s).sth = s.sth := rfl
@[simp] theorem modMStream_sec (m : Nat) (k : Nat) (f : MagStream → MagStream) (s : State) :
    (modMStream m k f s).sec = s.sec := rfl
@[simp] theorem modMStream_magIn (m : Nat) (k : Nat) (f : MagStream → MagStream) (s : State) :
    (modMStream m k f s).magIn = s.magIn := rfl
@[simp] theorem modMStream_prt (m : Nat) (k : Nat) (f : MagStream → MagStream) (s : State) :
    (modMStream m k f s).prt = s.prt := rfl

@[simp] theorem modFrame_pending (m : Nat) (id : Nat) (g : MagFrame → MagFrame) (s : State) :
    (modFrame m id g s).pending = s.pending := rfl
@[simp] theorem modFrame_now (m : Nat) (id : Nat) (g : MagFrame → MagFrame) (s : State) :
    (modFrame m id g s).now = s.now := rfl
@[simp] theorem modFrame_free (m : Nat) (id : Nat) (g : MagFrame → MagFrame) (s : State) :
    (modFrame m id g s).free = s.free := rfl
@[simp] theorem modFrame_bus (m : Nat) (id : Nat) (g : MagFrame → MagFrame) (s : State) :
    (modFrame m id g s).bus = s.bus := rfl
@[simp] theorem modFrame_rck (m : Nat) (id : Nat) (g : MagFrame → MagFrame) (s : State) :
    (modFrame m id g s).rck = s.rck := rfl
@[simp] theorem modFrame_ptp (m : Nat) (id : Nat) (g : MagFrame → MagFrame) (s : State) :
    (modFrame m id g s).ptp = s.ptp := rfl
@[simp] theorem modFrame_lane (m : Nat) (id : Nat) (g : MagFrame → MagFrame) (s : State) :
    (modFrame m id g s).lane = s.lane := rfl
@[simp] theorem modFrame_lfi (m : Nat) (id : Nat) (g : MagFrame → MagFrame) (s : State) :
    (modFrame m id g s).lfi = s.lfi := rfl
@[simp] theorem modFrame_port (m : Nat) (id : Nat) (g : MagFrame → MagFrame) (s : State) :
    (modFrame m id g s).port = s.port := rfl
@[simp] theorem modFrame_swt (m : Nat) (id : Nat) (g : MagFrame → MagFrame) (s : State) :
    (modFrame m id g s).swt = s.swt := rfl
@[simp] theorem modFrame_ndl (m : Nat) (id : Nat) (g : MagFrame → MagFrame) (s : State) :
    (modFrame m id g s).ndl = s.ndl := rfl
@[simp] theorem modFrame_bank (m : Nat) (id : Nat) (g : MagFrame → MagFrame) (s : State) :
    (modFrame m id g s).bank = s.bank := rfl
@[simp] theorem modFrame_dist (m : Nat) (id : Nat) (g : MagFrame → MagFrame) (s : State) :
    (modFrame m id g s).dist = s.dist := rfl
@[simp] theorem modFrame_skn (m : Nat) (id : Nat) (g : MagFrame → MagFrame) (s : State) :
    (modFrame m id g s).skn = s.skn := rfl
@[simp] theorem modFrame_pat (m : Nat) (id : Nat) (g : MagFrame → MagFrame) (s : State) :
    (modFrame m id g s).pat = s.pat := rfl
@[simp] theorem modFrame_pl (m : Nat) (id : Nat) (g : MagFrame → MagFrame) (s : State) :
    (modFrame m id g s).pl = s.pl := rfl
@[simp] theorem modFrame_joint (m : Nat) (id : Nat) (g : MagFrame → MagFrame) (s : State) :
    (modFrame m id g s).joint = s.joint := rfl
@[simp] theorem modFrame_mem (m : Nat) (id : Nat) (g : MagFrame → MagFrame) (s : State) :
    (modFrame m id g s).mem = s.mem := rfl
@[simp] theorem modFrame_stl (m : Nat) (id : Nat) (g : MagFrame → MagFrame) (s : State) :
    (modFrame m id g s).stl = s.stl := rfl
@[simp] theorem modFrame_eth (m : Nat) (id : Nat) (g : MagFrame → MagFrame) (s : State) :
    (modFrame m id g s).eth = s.eth := rfl
@[simp] theorem modFrame_ssw (m : Nat) (id : Nat) (g : MagFrame → MagFrame) (s : State) :
    (modFrame m id g s).ssw = s.ssw := rfl
@[simp] theorem modFrame_ft (m : Nat) (id : Nat) (g : MagFrame → MagFrame) (s : State) :
    (modFrame m id g s).ft = s.ft := rfl
@[simp] theorem modFrame_arrivals (m : Nat) (id : Nat) (g : MagFrame → MagFrame) (s : State) :
    (modFrame m id g s).arrivals = s.arrivals := rfl
@[simp] theorem modFrame_ict (m : Nat) (id : Nat) (g : MagFrame → MagFrame) (s : State) :
    (modFrame m id g s).ict = s.ict := rfl
@[simp] theorem modFrame_mbx (m : Nat) (id : Nat) (g : MagFrame → MagFrame) (s : State) :
    (modFrame m id g s).mbx = s.mbx := rfl
@[simp] theorem modFrame_sem (m : Nat) (id : Nat) (g : MagFrame → MagFrame) (s : State) :
    (modFrame m id g s).sem = s.sem := rfl
@[simp] theorem modFrame_pwr (m : Nat) (id : Nat) (g : MagFrame → MagFrame) (s : State) :
    (modFrame m id g s).pwr = s.pwr := rfl
@[simp] theorem modFrame_fcl (m : Nat) (id : Nat) (g : MagFrame → MagFrame) (s : State) :
    (modFrame m id g s).fcl = s.fcl := rfl
@[simp] theorem modFrame_ldg (m : Nat) (id : Nat) (g : MagFrame → MagFrame) (s : State) :
    (modFrame m id g s).ldg = s.ldg := rfl
@[simp] theorem modFrame_tly (m : Nat) (id : Nat) (g : MagFrame → MagFrame) (s : State) :
    (modFrame m id g s).tly = s.tly := rfl
@[simp] theorem modFrame_sth (m : Nat) (id : Nat) (g : MagFrame → MagFrame) (s : State) :
    (modFrame m id g s).sth = s.sth := rfl
@[simp] theorem modFrame_sec (m : Nat) (id : Nat) (g : MagFrame → MagFrame) (s : State) :
    (modFrame m id g s).sec = s.sec := rfl
@[simp] theorem modFrame_magIn (m : Nat) (id : Nat) (g : MagFrame → MagFrame) (s : State) :
    (modFrame m id g s).magIn = s.magIn := rfl
@[simp] theorem modFrame_prt (m : Nat) (id : Nat) (g : MagFrame → MagFrame) (s : State) :
    (modFrame m id g s).prt = s.prt := rfl

@[simp] theorem modEnu_pending (n : Nat) (f : Enu → Enu) (s : State) :
    (modEnu n f s).pending = s.pending := rfl
@[simp] theorem modEnu_now (n : Nat) (f : Enu → Enu) (s : State) :
    (modEnu n f s).now = s.now := rfl
@[simp] theorem modEnu_free (n : Nat) (f : Enu → Enu) (s : State) :
    (modEnu n f s).free = s.free := rfl
@[simp] theorem modEnu_bus (n : Nat) (f : Enu → Enu) (s : State) :
    (modEnu n f s).bus = s.bus := rfl
@[simp] theorem modEnu_rck (n : Nat) (f : Enu → Enu) (s : State) :
    (modEnu n f s).rck = s.rck := rfl
@[simp] theorem modEnu_ptp (n : Nat) (f : Enu → Enu) (s : State) :
    (modEnu n f s).ptp = s.ptp := rfl
@[simp] theorem modEnu_lane (n : Nat) (f : Enu → Enu) (s : State) :
    (modEnu n f s).lane = s.lane := rfl
@[simp] theorem modEnu_lfi (n : Nat) (f : Enu → Enu) (s : State) :
    (modEnu n f s).lfi = s.lfi := rfl
@[simp] theorem modEnu_port (n : Nat) (f : Enu → Enu) (s : State) :
    (modEnu n f s).port = s.port := rfl
@[simp] theorem modEnu_swt (n : Nat) (f : Enu → Enu) (s : State) :
    (modEnu n f s).swt = s.swt := rfl
@[simp] theorem modEnu_bank (n : Nat) (f : Enu → Enu) (s : State) :
    (modEnu n f s).bank = s.bank := rfl
@[simp] theorem modEnu_dist (n : Nat) (f : Enu → Enu) (s : State) :
    (modEnu n f s).dist = s.dist := rfl
@[simp] theorem modEnu_skn (n : Nat) (f : Enu → Enu) (s : State) :
    (modEnu n f s).skn = s.skn := rfl
@[simp] theorem modEnu_pat (n : Nat) (f : Enu → Enu) (s : State) :
    (modEnu n f s).pat = s.pat := rfl
@[simp] theorem modEnu_pl (n : Nat) (f : Enu → Enu) (s : State) :
    (modEnu n f s).pl = s.pl := rfl
@[simp] theorem modEnu_joint (n : Nat) (f : Enu → Enu) (s : State) :
    (modEnu n f s).joint = s.joint := rfl
@[simp] theorem modEnu_mem (n : Nat) (f : Enu → Enu) (s : State) :
    (modEnu n f s).mem = s.mem := rfl
@[simp] theorem modEnu_stl (n : Nat) (f : Enu → Enu) (s : State) :
    (modEnu n f s).stl = s.stl := rfl
@[simp] theorem modEnu_eth (n : Nat) (f : Enu → Enu) (s : State) :
    (modEnu n f s).eth = s.eth := rfl
@[simp] theorem modEnu_ssw (n : Nat) (f : Enu → Enu) (s : State) :
    (modEnu n f s).ssw = s.ssw := rfl
@[simp] theorem modEnu_ft (n : Nat) (f : Enu → Enu) (s : State) :
    (modEnu n f s).ft = s.ft := rfl
@[simp] theorem modEnu_arrivals (n : Nat) (f : Enu → Enu) (s : State) :
    (modEnu n f s).arrivals = s.arrivals := rfl
@[simp] theorem modEnu_ict (n : Nat) (f : Enu → Enu) (s : State) :
    (modEnu n f s).ict = s.ict := rfl
@[simp] theorem modEnu_mbx (n : Nat) (f : Enu → Enu) (s : State) :
    (modEnu n f s).mbx = s.mbx := rfl
@[simp] theorem modEnu_sem (n : Nat) (f : Enu → Enu) (s : State) :
    (modEnu n f s).sem = s.sem := rfl
@[simp] theorem modEnu_pwr (n : Nat) (f : Enu → Enu) (s : State) :
    (modEnu n f s).pwr = s.pwr := rfl
@[simp] theorem modEnu_fcl (n : Nat) (f : Enu → Enu) (s : State) :
    (modEnu n f s).fcl = s.fcl := rfl
@[simp] theorem modEnu_ldg (n : Nat) (f : Enu → Enu) (s : State) :
    (modEnu n f s).ldg = s.ldg := rfl
@[simp] theorem modEnu_tly (n : Nat) (f : Enu → Enu) (s : State) :
    (modEnu n f s).tly = s.tly := rfl
@[simp] theorem modEnu_sth (n : Nat) (f : Enu → Enu) (s : State) :
    (modEnu n f s).sth = s.sth := rfl
@[simp] theorem modEnu_sec (n : Nat) (f : Enu → Enu) (s : State) :
    (modEnu n f s).sec = s.sec := rfl
@[simp] theorem modEnu_mag (n : Nat) (f : Enu → Enu) (s : State) :
    (modEnu n f s).mag = s.mag := rfl
@[simp] theorem modEnu_magIn (n : Nat) (f : Enu → Enu) (s : State) :
    (modEnu n f s).magIn = s.magIn := rfl
@[simp] theorem modEnu_prt (n : Nat) (f : Enu → Enu) (s : State) :
    (modEnu n f s).prt = s.prt := rfl

@[simp] theorem modPrt_pending (n : Nat) (f : Prt → Prt) (s : State) :
    (modPrt n f s).pending = s.pending := rfl
@[simp] theorem modPrt_now (n : Nat) (f : Prt → Prt) (s : State) :
    (modPrt n f s).now = s.now := rfl
@[simp] theorem modPrt_free (n : Nat) (f : Prt → Prt) (s : State) :
    (modPrt n f s).free = s.free := rfl
@[simp] theorem modPrt_bus (n : Nat) (f : Prt → Prt) (s : State) :
    (modPrt n f s).bus = s.bus := rfl
@[simp] theorem modPrt_rck (n : Nat) (f : Prt → Prt) (s : State) :
    (modPrt n f s).rck = s.rck := rfl
@[simp] theorem modPrt_ptp (n : Nat) (f : Prt → Prt) (s : State) :
    (modPrt n f s).ptp = s.ptp := rfl
@[simp] theorem modPrt_lane (n : Nat) (f : Prt → Prt) (s : State) :
    (modPrt n f s).lane = s.lane := rfl
@[simp] theorem modPrt_lfi (n : Nat) (f : Prt → Prt) (s : State) :
    (modPrt n f s).lfi = s.lfi := rfl
@[simp] theorem modPrt_port (n : Nat) (f : Prt → Prt) (s : State) :
    (modPrt n f s).port = s.port := rfl
@[simp] theorem modPrt_swt (n : Nat) (f : Prt → Prt) (s : State) :
    (modPrt n f s).swt = s.swt := rfl
@[simp] theorem modPrt_ndl (n : Nat) (f : Prt → Prt) (s : State) :
    (modPrt n f s).ndl = s.ndl := rfl
@[simp] theorem modPrt_bank (n : Nat) (f : Prt → Prt) (s : State) :
    (modPrt n f s).bank = s.bank := rfl
@[simp] theorem modPrt_dist (n : Nat) (f : Prt → Prt) (s : State) :
    (modPrt n f s).dist = s.dist := rfl
@[simp] theorem modPrt_skn (n : Nat) (f : Prt → Prt) (s : State) :
    (modPrt n f s).skn = s.skn := rfl
@[simp] theorem modPrt_pat (n : Nat) (f : Prt → Prt) (s : State) :
    (modPrt n f s).pat = s.pat := rfl
@[simp] theorem modPrt_pl (n : Nat) (f : Prt → Prt) (s : State) :
    (modPrt n f s).pl = s.pl := rfl
@[simp] theorem modPrt_joint (n : Nat) (f : Prt → Prt) (s : State) :
    (modPrt n f s).joint = s.joint := rfl
@[simp] theorem modPrt_mem (n : Nat) (f : Prt → Prt) (s : State) :
    (modPrt n f s).mem = s.mem := rfl
@[simp] theorem modPrt_stl (n : Nat) (f : Prt → Prt) (s : State) :
    (modPrt n f s).stl = s.stl := rfl
@[simp] theorem modPrt_eth (n : Nat) (f : Prt → Prt) (s : State) :
    (modPrt n f s).eth = s.eth := rfl
@[simp] theorem modPrt_ssw (n : Nat) (f : Prt → Prt) (s : State) :
    (modPrt n f s).ssw = s.ssw := rfl
@[simp] theorem modPrt_ft (n : Nat) (f : Prt → Prt) (s : State) :
    (modPrt n f s).ft = s.ft := rfl
@[simp] theorem modPrt_arrivals (n : Nat) (f : Prt → Prt) (s : State) :
    (modPrt n f s).arrivals = s.arrivals := rfl
@[simp] theorem modPrt_ict (n : Nat) (f : Prt → Prt) (s : State) :
    (modPrt n f s).ict = s.ict := rfl
@[simp] theorem modPrt_mbx (n : Nat) (f : Prt → Prt) (s : State) :
    (modPrt n f s).mbx = s.mbx := rfl
@[simp] theorem modPrt_sem (n : Nat) (f : Prt → Prt) (s : State) :
    (modPrt n f s).sem = s.sem := rfl
@[simp] theorem modPrt_pwr (n : Nat) (f : Prt → Prt) (s : State) :
    (modPrt n f s).pwr = s.pwr := rfl
@[simp] theorem modPrt_fcl (n : Nat) (f : Prt → Prt) (s : State) :
    (modPrt n f s).fcl = s.fcl := rfl
@[simp] theorem modPrt_ldg (n : Nat) (f : Prt → Prt) (s : State) :
    (modPrt n f s).ldg = s.ldg := rfl
@[simp] theorem modPrt_tly (n : Nat) (f : Prt → Prt) (s : State) :
    (modPrt n f s).tly = s.tly := rfl
@[simp] theorem modPrt_sth (n : Nat) (f : Prt → Prt) (s : State) :
    (modPrt n f s).sth = s.sth := rfl
@[simp] theorem modPrt_sec (n : Nat) (f : Prt → Prt) (s : State) :
    (modPrt n f s).sec = s.sec := rfl
@[simp] theorem modPrt_mag (n : Nat) (f : Prt → Prt) (s : State) :
    (modPrt n f s).mag = s.mag := rfl
@[simp] theorem modPrt_magIn (n : Nat) (f : Prt → Prt) (s : State) :
    (modPrt n f s).magIn = s.magIn := rfl

@[simp] theorem modPwr_pending (f : Pwr → Pwr) (s : State) :
    (modPwr f s).pending = s.pending := rfl
@[simp] theorem modPwr_now (f : Pwr → Pwr) (s : State) :
    (modPwr f s).now = s.now := rfl
@[simp] theorem modPwr_free (f : Pwr → Pwr) (s : State) :
    (modPwr f s).free = s.free := rfl
@[simp] theorem modPwr_bus (f : Pwr → Pwr) (s : State) :
    (modPwr f s).bus = s.bus := rfl
@[simp] theorem modPwr_rck (f : Pwr → Pwr) (s : State) :
    (modPwr f s).rck = s.rck := rfl
@[simp] theorem modPwr_ptp (f : Pwr → Pwr) (s : State) :
    (modPwr f s).ptp = s.ptp := rfl
@[simp] theorem modPwr_lane (f : Pwr → Pwr) (s : State) :
    (modPwr f s).lane = s.lane := rfl
@[simp] theorem modPwr_lfi (f : Pwr → Pwr) (s : State) :
    (modPwr f s).lfi = s.lfi := rfl
@[simp] theorem modPwr_port (f : Pwr → Pwr) (s : State) :
    (modPwr f s).port = s.port := rfl
@[simp] theorem modPwr_swt (f : Pwr → Pwr) (s : State) :
    (modPwr f s).swt = s.swt := rfl
@[simp] theorem modPwr_ndl (f : Pwr → Pwr) (s : State) :
    (modPwr f s).ndl = s.ndl := rfl
@[simp] theorem modPwr_bank (f : Pwr → Pwr) (s : State) :
    (modPwr f s).bank = s.bank := rfl
@[simp] theorem modPwr_dist (f : Pwr → Pwr) (s : State) :
    (modPwr f s).dist = s.dist := rfl
@[simp] theorem modPwr_skn (f : Pwr → Pwr) (s : State) :
    (modPwr f s).skn = s.skn := rfl
@[simp] theorem modPwr_pat (f : Pwr → Pwr) (s : State) :
    (modPwr f s).pat = s.pat := rfl
@[simp] theorem modPwr_pl (f : Pwr → Pwr) (s : State) :
    (modPwr f s).pl = s.pl := rfl
@[simp] theorem modPwr_joint (f : Pwr → Pwr) (s : State) :
    (modPwr f s).joint = s.joint := rfl
@[simp] theorem modPwr_mem (f : Pwr → Pwr) (s : State) :
    (modPwr f s).mem = s.mem := rfl
@[simp] theorem modPwr_stl (f : Pwr → Pwr) (s : State) :
    (modPwr f s).stl = s.stl := rfl
@[simp] theorem modPwr_eth (f : Pwr → Pwr) (s : State) :
    (modPwr f s).eth = s.eth := rfl
@[simp] theorem modPwr_ssw (f : Pwr → Pwr) (s : State) :
    (modPwr f s).ssw = s.ssw := rfl
@[simp] theorem modPwr_ft (f : Pwr → Pwr) (s : State) :
    (modPwr f s).ft = s.ft := rfl
@[simp] theorem modPwr_arrivals (f : Pwr → Pwr) (s : State) :
    (modPwr f s).arrivals = s.arrivals := rfl
@[simp] theorem modPwr_ict (f : Pwr → Pwr) (s : State) :
    (modPwr f s).ict = s.ict := rfl
@[simp] theorem modPwr_mbx (f : Pwr → Pwr) (s : State) :
    (modPwr f s).mbx = s.mbx := rfl
@[simp] theorem modPwr_sem (f : Pwr → Pwr) (s : State) :
    (modPwr f s).sem = s.sem := rfl
@[simp] theorem modPwr_fcl (f : Pwr → Pwr) (s : State) :
    (modPwr f s).fcl = s.fcl := rfl
@[simp] theorem modPwr_ldg (f : Pwr → Pwr) (s : State) :
    (modPwr f s).ldg = s.ldg := rfl
@[simp] theorem modPwr_tly (f : Pwr → Pwr) (s : State) :
    (modPwr f s).tly = s.tly := rfl
@[simp] theorem modPwr_sth (f : Pwr → Pwr) (s : State) :
    (modPwr f s).sth = s.sth := rfl
@[simp] theorem modPwr_sec (f : Pwr → Pwr) (s : State) :
    (modPwr f s).sec = s.sec := rfl
@[simp] theorem modPwr_mag (f : Pwr → Pwr) (s : State) :
    (modPwr f s).mag = s.mag := rfl
@[simp] theorem modPwr_magIn (f : Pwr → Pwr) (s : State) :
    (modPwr f s).magIn = s.magIn := rfl
@[simp] theorem modPwr_prt (f : Pwr → Pwr) (s : State) :
    (modPwr f s).prt = s.prt := rfl

@[simp] theorem modStripe_pending (n : Nat) (k : Nat) (v : Nat) (i : Nat) (f : GauStripe → GauStripe) (s : State) :
    (modStripe n k v i f s).pending = s.pending := rfl
@[simp] theorem modStripe_now (n : Nat) (k : Nat) (v : Nat) (i : Nat) (f : GauStripe → GauStripe) (s : State) :
    (modStripe n k v i f s).now = s.now := rfl
@[simp] theorem modStripe_free (n : Nat) (k : Nat) (v : Nat) (i : Nat) (f : GauStripe → GauStripe) (s : State) :
    (modStripe n k v i f s).free = s.free := rfl
@[simp] theorem modStripe_bus (n : Nat) (k : Nat) (v : Nat) (i : Nat) (f : GauStripe → GauStripe) (s : State) :
    (modStripe n k v i f s).bus = s.bus := rfl
@[simp] theorem modStripe_rck (n : Nat) (k : Nat) (v : Nat) (i : Nat) (f : GauStripe → GauStripe) (s : State) :
    (modStripe n k v i f s).rck = s.rck := rfl
@[simp] theorem modStripe_ptp (n : Nat) (k : Nat) (v : Nat) (i : Nat) (f : GauStripe → GauStripe) (s : State) :
    (modStripe n k v i f s).ptp = s.ptp := rfl
@[simp] theorem modStripe_lane (n : Nat) (k : Nat) (v : Nat) (i : Nat) (f : GauStripe → GauStripe) (s : State) :
    (modStripe n k v i f s).lane = s.lane := rfl
@[simp] theorem modStripe_lfi (n : Nat) (k : Nat) (v : Nat) (i : Nat) (f : GauStripe → GauStripe) (s : State) :
    (modStripe n k v i f s).lfi = s.lfi := rfl
@[simp] theorem modStripe_port (n : Nat) (k : Nat) (v : Nat) (i : Nat) (f : GauStripe → GauStripe) (s : State) :
    (modStripe n k v i f s).port = s.port := rfl
@[simp] theorem modStripe_swt (n : Nat) (k : Nat) (v : Nat) (i : Nat) (f : GauStripe → GauStripe) (s : State) :
    (modStripe n k v i f s).swt = s.swt := rfl
@[simp] theorem modStripe_ndl (n : Nat) (k : Nat) (v : Nat) (i : Nat) (f : GauStripe → GauStripe) (s : State) :
    (modStripe n k v i f s).ndl = s.ndl := rfl
@[simp] theorem modStripe_bank (n : Nat) (k : Nat) (v : Nat) (i : Nat) (f : GauStripe → GauStripe) (s : State) :
    (modStripe n k v i f s).bank = s.bank := rfl
@[simp] theorem modStripe_dist (n : Nat) (k : Nat) (v : Nat) (i : Nat) (f : GauStripe → GauStripe) (s : State) :
    (modStripe n k v i f s).dist = s.dist := rfl
@[simp] theorem modStripe_skn (n : Nat) (k : Nat) (v : Nat) (i : Nat) (f : GauStripe → GauStripe) (s : State) :
    (modStripe n k v i f s).skn = s.skn := rfl
@[simp] theorem modStripe_pl (n : Nat) (k : Nat) (v : Nat) (i : Nat) (f : GauStripe → GauStripe) (s : State) :
    (modStripe n k v i f s).pl = s.pl := rfl
@[simp] theorem modStripe_joint (n : Nat) (k : Nat) (v : Nat) (i : Nat) (f : GauStripe → GauStripe) (s : State) :
    (modStripe n k v i f s).joint = s.joint := rfl
@[simp] theorem modStripe_mem (n : Nat) (k : Nat) (v : Nat) (i : Nat) (f : GauStripe → GauStripe) (s : State) :
    (modStripe n k v i f s).mem = s.mem := rfl
@[simp] theorem modStripe_stl (n : Nat) (k : Nat) (v : Nat) (i : Nat) (f : GauStripe → GauStripe) (s : State) :
    (modStripe n k v i f s).stl = s.stl := rfl
@[simp] theorem modStripe_eth (n : Nat) (k : Nat) (v : Nat) (i : Nat) (f : GauStripe → GauStripe) (s : State) :
    (modStripe n k v i f s).eth = s.eth := rfl
@[simp] theorem modStripe_ssw (n : Nat) (k : Nat) (v : Nat) (i : Nat) (f : GauStripe → GauStripe) (s : State) :
    (modStripe n k v i f s).ssw = s.ssw := rfl
@[simp] theorem modStripe_ft (n : Nat) (k : Nat) (v : Nat) (i : Nat) (f : GauStripe → GauStripe) (s : State) :
    (modStripe n k v i f s).ft = s.ft := rfl
@[simp] theorem modStripe_arrivals (n : Nat) (k : Nat) (v : Nat) (i : Nat) (f : GauStripe → GauStripe) (s : State) :
    (modStripe n k v i f s).arrivals = s.arrivals := rfl
@[simp] theorem modStripe_ict (n : Nat) (k : Nat) (v : Nat) (i : Nat) (f : GauStripe → GauStripe) (s : State) :
    (modStripe n k v i f s).ict = s.ict := rfl
@[simp] theorem modStripe_mbx (n : Nat) (k : Nat) (v : Nat) (i : Nat) (f : GauStripe → GauStripe) (s : State) :
    (modStripe n k v i f s).mbx = s.mbx := rfl
@[simp] theorem modStripe_sem (n : Nat) (k : Nat) (v : Nat) (i : Nat) (f : GauStripe → GauStripe) (s : State) :
    (modStripe n k v i f s).sem = s.sem := rfl
@[simp] theorem modStripe_pwr (n : Nat) (k : Nat) (v : Nat) (i : Nat) (f : GauStripe → GauStripe) (s : State) :
    (modStripe n k v i f s).pwr = s.pwr := rfl
@[simp] theorem modStripe_fcl (n : Nat) (k : Nat) (v : Nat) (i : Nat) (f : GauStripe → GauStripe) (s : State) :
    (modStripe n k v i f s).fcl = s.fcl := rfl
@[simp] theorem modStripe_ldg (n : Nat) (k : Nat) (v : Nat) (i : Nat) (f : GauStripe → GauStripe) (s : State) :
    (modStripe n k v i f s).ldg = s.ldg := rfl
@[simp] theorem modStripe_tly (n : Nat) (k : Nat) (v : Nat) (i : Nat) (f : GauStripe → GauStripe) (s : State) :
    (modStripe n k v i f s).tly = s.tly := rfl
@[simp] theorem modStripe_sth (n : Nat) (k : Nat) (v : Nat) (i : Nat) (f : GauStripe → GauStripe) (s : State) :
    (modStripe n k v i f s).sth = s.sth := rfl
@[simp] theorem modStripe_sec (n : Nat) (k : Nat) (v : Nat) (i : Nat) (f : GauStripe → GauStripe) (s : State) :
    (modStripe n k v i f s).sec = s.sec := rfl
@[simp] theorem modStripe_mag (n : Nat) (k : Nat) (v : Nat) (i : Nat) (f : GauStripe → GauStripe) (s : State) :
    (modStripe n k v i f s).mag = s.mag := rfl
@[simp] theorem modStripe_magIn (n : Nat) (k : Nat) (v : Nat) (i : Nat) (f : GauStripe → GauStripe) (s : State) :
    (modStripe n k v i f s).magIn = s.magIn := rfl
@[simp] theorem modStripe_prt (n : Nat) (k : Nat) (v : Nat) (i : Nat) (f : GauStripe → GauStripe) (s : State) :
    (modStripe n k v i f s).prt = s.prt := rfl

@[simp] theorem modJoint_pending (grp : Nat) (f : JointSt → JointSt) (s : State) :
    (modJoint grp f s).pending = s.pending := rfl
@[simp] theorem modJoint_now (grp : Nat) (f : JointSt → JointSt) (s : State) :
    (modJoint grp f s).now = s.now := rfl
@[simp] theorem modJoint_free (grp : Nat) (f : JointSt → JointSt) (s : State) :
    (modJoint grp f s).free = s.free := rfl
@[simp] theorem modJoint_bus (grp : Nat) (f : JointSt → JointSt) (s : State) :
    (modJoint grp f s).bus = s.bus := rfl
@[simp] theorem modJoint_rck (grp : Nat) (f : JointSt → JointSt) (s : State) :
    (modJoint grp f s).rck = s.rck := rfl
@[simp] theorem modJoint_ptp (grp : Nat) (f : JointSt → JointSt) (s : State) :
    (modJoint grp f s).ptp = s.ptp := rfl
@[simp] theorem modJoint_lane (grp : Nat) (f : JointSt → JointSt) (s : State) :
    (modJoint grp f s).lane = s.lane := rfl
@[simp] theorem modJoint_lfi (grp : Nat) (f : JointSt → JointSt) (s : State) :
    (modJoint grp f s).lfi = s.lfi := rfl
@[simp] theorem modJoint_port (grp : Nat) (f : JointSt → JointSt) (s : State) :
    (modJoint grp f s).port = s.port := rfl
@[simp] theorem modJoint_swt (grp : Nat) (f : JointSt → JointSt) (s : State) :
    (modJoint grp f s).swt = s.swt := rfl
@[simp] theorem modJoint_ndl (grp : Nat) (f : JointSt → JointSt) (s : State) :
    (modJoint grp f s).ndl = s.ndl := rfl
@[simp] theorem modJoint_bank (grp : Nat) (f : JointSt → JointSt) (s : State) :
    (modJoint grp f s).bank = s.bank := rfl
@[simp] theorem modJoint_dist (grp : Nat) (f : JointSt → JointSt) (s : State) :
    (modJoint grp f s).dist = s.dist := rfl
@[simp] theorem modJoint_skn (grp : Nat) (f : JointSt → JointSt) (s : State) :
    (modJoint grp f s).skn = s.skn := rfl
@[simp] theorem modJoint_pat (grp : Nat) (f : JointSt → JointSt) (s : State) :
    (modJoint grp f s).pat = s.pat := rfl
@[simp] theorem modJoint_pl (grp : Nat) (f : JointSt → JointSt) (s : State) :
    (modJoint grp f s).pl = s.pl := rfl
@[simp] theorem modJoint_mem (grp : Nat) (f : JointSt → JointSt) (s : State) :
    (modJoint grp f s).mem = s.mem := rfl
@[simp] theorem modJoint_stl (grp : Nat) (f : JointSt → JointSt) (s : State) :
    (modJoint grp f s).stl = s.stl := rfl
@[simp] theorem modJoint_eth (grp : Nat) (f : JointSt → JointSt) (s : State) :
    (modJoint grp f s).eth = s.eth := rfl
@[simp] theorem modJoint_ssw (grp : Nat) (f : JointSt → JointSt) (s : State) :
    (modJoint grp f s).ssw = s.ssw := rfl
@[simp] theorem modJoint_ft (grp : Nat) (f : JointSt → JointSt) (s : State) :
    (modJoint grp f s).ft = s.ft := rfl
@[simp] theorem modJoint_arrivals (grp : Nat) (f : JointSt → JointSt) (s : State) :
    (modJoint grp f s).arrivals = s.arrivals := rfl
@[simp] theorem modJoint_ict (grp : Nat) (f : JointSt → JointSt) (s : State) :
    (modJoint grp f s).ict = s.ict := rfl
@[simp] theorem modJoint_mbx (grp : Nat) (f : JointSt → JointSt) (s : State) :
    (modJoint grp f s).mbx = s.mbx := rfl
@[simp] theorem modJoint_sem (grp : Nat) (f : JointSt → JointSt) (s : State) :
    (modJoint grp f s).sem = s.sem := rfl
@[simp] theorem modJoint_pwr (grp : Nat) (f : JointSt → JointSt) (s : State) :
    (modJoint grp f s).pwr = s.pwr := rfl
@[simp] theorem modJoint_fcl (grp : Nat) (f : JointSt → JointSt) (s : State) :
    (modJoint grp f s).fcl = s.fcl := rfl
@[simp] theorem modJoint_ldg (grp : Nat) (f : JointSt → JointSt) (s : State) :
    (modJoint grp f s).ldg = s.ldg := rfl
@[simp] theorem modJoint_tly (grp : Nat) (f : JointSt → JointSt) (s : State) :
    (modJoint grp f s).tly = s.tly := rfl
@[simp] theorem modJoint_sth (grp : Nat) (f : JointSt → JointSt) (s : State) :
    (modJoint grp f s).sth = s.sth := rfl
@[simp] theorem modJoint_sec (grp : Nat) (f : JointSt → JointSt) (s : State) :
    (modJoint grp f s).sec = s.sec := rfl
@[simp] theorem modJoint_mag (grp : Nat) (f : JointSt → JointSt) (s : State) :
    (modJoint grp f s).mag = s.mag := rfl
@[simp] theorem modJoint_magIn (grp : Nat) (f : JointSt → JointSt) (s : State) :
    (modJoint grp f s).magIn = s.magIn := rfl
@[simp] theorem modJoint_prt (grp : Nat) (f : JointSt → JointSt) (s : State) :
    (modJoint grp f s).prt = s.prt := rfl

@[simp] theorem modRow_pending (n : Nat) (k : Nat) (v : Nat) (i : Nat) (f : RowSt → RowSt) (s : State) :
    (modRow n k v i f s).pending = s.pending := rfl
@[simp] theorem modRow_now (n : Nat) (k : Nat) (v : Nat) (i : Nat) (f : RowSt → RowSt) (s : State) :
    (modRow n k v i f s).now = s.now := rfl
@[simp] theorem modRow_free (n : Nat) (k : Nat) (v : Nat) (i : Nat) (f : RowSt → RowSt) (s : State) :
    (modRow n k v i f s).free = s.free := rfl
@[simp] theorem modRow_bus (n : Nat) (k : Nat) (v : Nat) (i : Nat) (f : RowSt → RowSt) (s : State) :
    (modRow n k v i f s).bus = s.bus := rfl
@[simp] theorem modRow_rck (n : Nat) (k : Nat) (v : Nat) (i : Nat) (f : RowSt → RowSt) (s : State) :
    (modRow n k v i f s).rck = s.rck := rfl
@[simp] theorem modRow_ptp (n : Nat) (k : Nat) (v : Nat) (i : Nat) (f : RowSt → RowSt) (s : State) :
    (modRow n k v i f s).ptp = s.ptp := rfl
@[simp] theorem modRow_lane (n : Nat) (k : Nat) (v : Nat) (i : Nat) (f : RowSt → RowSt) (s : State) :
    (modRow n k v i f s).lane = s.lane := rfl
@[simp] theorem modRow_lfi (n : Nat) (k : Nat) (v : Nat) (i : Nat) (f : RowSt → RowSt) (s : State) :
    (modRow n k v i f s).lfi = s.lfi := rfl
@[simp] theorem modRow_port (n : Nat) (k : Nat) (v : Nat) (i : Nat) (f : RowSt → RowSt) (s : State) :
    (modRow n k v i f s).port = s.port := rfl
@[simp] theorem modRow_swt (n : Nat) (k : Nat) (v : Nat) (i : Nat) (f : RowSt → RowSt) (s : State) :
    (modRow n k v i f s).swt = s.swt := rfl
@[simp] theorem modRow_ndl (n : Nat) (k : Nat) (v : Nat) (i : Nat) (f : RowSt → RowSt) (s : State) :
    (modRow n k v i f s).ndl = s.ndl := rfl
@[simp] theorem modRow_bank (n : Nat) (k : Nat) (v : Nat) (i : Nat) (f : RowSt → RowSt) (s : State) :
    (modRow n k v i f s).bank = s.bank := rfl
@[simp] theorem modRow_dist (n : Nat) (k : Nat) (v : Nat) (i : Nat) (f : RowSt → RowSt) (s : State) :
    (modRow n k v i f s).dist = s.dist := rfl
@[simp] theorem modRow_skn (n : Nat) (k : Nat) (v : Nat) (i : Nat) (f : RowSt → RowSt) (s : State) :
    (modRow n k v i f s).skn = s.skn := rfl
@[simp] theorem modRow_pl (n : Nat) (k : Nat) (v : Nat) (i : Nat) (f : RowSt → RowSt) (s : State) :
    (modRow n k v i f s).pl = s.pl := rfl
@[simp] theorem modRow_joint (n : Nat) (k : Nat) (v : Nat) (i : Nat) (f : RowSt → RowSt) (s : State) :
    (modRow n k v i f s).joint = s.joint := rfl
@[simp] theorem modRow_mem (n : Nat) (k : Nat) (v : Nat) (i : Nat) (f : RowSt → RowSt) (s : State) :
    (modRow n k v i f s).mem = s.mem := rfl
@[simp] theorem modRow_stl (n : Nat) (k : Nat) (v : Nat) (i : Nat) (f : RowSt → RowSt) (s : State) :
    (modRow n k v i f s).stl = s.stl := rfl
@[simp] theorem modRow_eth (n : Nat) (k : Nat) (v : Nat) (i : Nat) (f : RowSt → RowSt) (s : State) :
    (modRow n k v i f s).eth = s.eth := rfl
@[simp] theorem modRow_ssw (n : Nat) (k : Nat) (v : Nat) (i : Nat) (f : RowSt → RowSt) (s : State) :
    (modRow n k v i f s).ssw = s.ssw := rfl
@[simp] theorem modRow_ft (n : Nat) (k : Nat) (v : Nat) (i : Nat) (f : RowSt → RowSt) (s : State) :
    (modRow n k v i f s).ft = s.ft := rfl
@[simp] theorem modRow_arrivals (n : Nat) (k : Nat) (v : Nat) (i : Nat) (f : RowSt → RowSt) (s : State) :
    (modRow n k v i f s).arrivals = s.arrivals := rfl
@[simp] theorem modRow_ict (n : Nat) (k : Nat) (v : Nat) (i : Nat) (f : RowSt → RowSt) (s : State) :
    (modRow n k v i f s).ict = s.ict := rfl
@[simp] theorem modRow_mbx (n : Nat) (k : Nat) (v : Nat) (i : Nat) (f : RowSt → RowSt) (s : State) :
    (modRow n k v i f s).mbx = s.mbx := rfl
@[simp] theorem modRow_sem (n : Nat) (k : Nat) (v : Nat) (i : Nat) (f : RowSt → RowSt) (s : State) :
    (modRow n k v i f s).sem = s.sem := rfl
@[simp] theorem modRow_pwr (n : Nat) (k : Nat) (v : Nat) (i : Nat) (f : RowSt → RowSt) (s : State) :
    (modRow n k v i f s).pwr = s.pwr := rfl
@[simp] theorem modRow_fcl (n : Nat) (k : Nat) (v : Nat) (i : Nat) (f : RowSt → RowSt) (s : State) :
    (modRow n k v i f s).fcl = s.fcl := rfl
@[simp] theorem modRow_ldg (n : Nat) (k : Nat) (v : Nat) (i : Nat) (f : RowSt → RowSt) (s : State) :
    (modRow n k v i f s).ldg = s.ldg := rfl
@[simp] theorem modRow_tly (n : Nat) (k : Nat) (v : Nat) (i : Nat) (f : RowSt → RowSt) (s : State) :
    (modRow n k v i f s).tly = s.tly := rfl
@[simp] theorem modRow_sth (n : Nat) (k : Nat) (v : Nat) (i : Nat) (f : RowSt → RowSt) (s : State) :
    (modRow n k v i f s).sth = s.sth := rfl
@[simp] theorem modRow_sec (n : Nat) (k : Nat) (v : Nat) (i : Nat) (f : RowSt → RowSt) (s : State) :
    (modRow n k v i f s).sec = s.sec := rfl
@[simp] theorem modRow_mag (n : Nat) (k : Nat) (v : Nat) (i : Nat) (f : RowSt → RowSt) (s : State) :
    (modRow n k v i f s).mag = s.mag := rfl
@[simp] theorem modRow_magIn (n : Nat) (k : Nat) (v : Nat) (i : Nat) (f : RowSt → RowSt) (s : State) :
    (modRow n k v i f s).magIn = s.magIn := rfl
@[simp] theorem modRow_prt (n : Nat) (k : Nat) (v : Nat) (i : Nat) (f : RowSt → RowSt) (s : State) :
    (modRow n k v i f s).prt = s.prt := rfl

@[simp] theorem modSec_pending (f : Sec → Sec) (s : State) :
    (modSec f s).pending = s.pending := rfl
@[simp] theorem modSec_now (f : Sec → Sec) (s : State) :
    (modSec f s).now = s.now := rfl
@[simp] theorem modSec_free (f : Sec → Sec) (s : State) :
    (modSec f s).free = s.free := rfl
@[simp] theorem modSec_bus (f : Sec → Sec) (s : State) :
    (modSec f s).bus = s.bus := rfl
@[simp] theorem modSec_rck (f : Sec → Sec) (s : State) :
    (modSec f s).rck = s.rck := rfl
@[simp] theorem modSec_ptp (f : Sec → Sec) (s : State) :
    (modSec f s).ptp = s.ptp := rfl
@[simp] theorem modSec_lane (f : Sec → Sec) (s : State) :
    (modSec f s).lane = s.lane := rfl
@[simp] theorem modSec_lfi (f : Sec → Sec) (s : State) :
    (modSec f s).lfi = s.lfi := rfl
@[simp] theorem modSec_port (f : Sec → Sec) (s : State) :
    (modSec f s).port = s.port := rfl
@[simp] theorem modSec_swt (f : Sec → Sec) (s : State) :
    (modSec f s).swt = s.swt := rfl
@[simp] theorem modSec_ndl (f : Sec → Sec) (s : State) :
    (modSec f s).ndl = s.ndl := rfl
@[simp] theorem modSec_bank (f : Sec → Sec) (s : State) :
    (modSec f s).bank = s.bank := rfl
@[simp] theorem modSec_dist (f : Sec → Sec) (s : State) :
    (modSec f s).dist = s.dist := rfl
@[simp] theorem modSec_skn (f : Sec → Sec) (s : State) :
    (modSec f s).skn = s.skn := rfl
@[simp] theorem modSec_pat (f : Sec → Sec) (s : State) :
    (modSec f s).pat = s.pat := rfl
@[simp] theorem modSec_pl (f : Sec → Sec) (s : State) :
    (modSec f s).pl = s.pl := rfl
@[simp] theorem modSec_joint (f : Sec → Sec) (s : State) :
    (modSec f s).joint = s.joint := rfl
@[simp] theorem modSec_mem (f : Sec → Sec) (s : State) :
    (modSec f s).mem = s.mem := rfl
@[simp] theorem modSec_stl (f : Sec → Sec) (s : State) :
    (modSec f s).stl = s.stl := rfl
@[simp] theorem modSec_eth (f : Sec → Sec) (s : State) :
    (modSec f s).eth = s.eth := rfl
@[simp] theorem modSec_ssw (f : Sec → Sec) (s : State) :
    (modSec f s).ssw = s.ssw := rfl
@[simp] theorem modSec_ft (f : Sec → Sec) (s : State) :
    (modSec f s).ft = s.ft := rfl
@[simp] theorem modSec_arrivals (f : Sec → Sec) (s : State) :
    (modSec f s).arrivals = s.arrivals := rfl
@[simp] theorem modSec_ict (f : Sec → Sec) (s : State) :
    (modSec f s).ict = s.ict := rfl
@[simp] theorem modSec_mbx (f : Sec → Sec) (s : State) :
    (modSec f s).mbx = s.mbx := rfl
@[simp] theorem modSec_sem (f : Sec → Sec) (s : State) :
    (modSec f s).sem = s.sem := rfl
@[simp] theorem modSec_pwr (f : Sec → Sec) (s : State) :
    (modSec f s).pwr = s.pwr := rfl
@[simp] theorem modSec_fcl (f : Sec → Sec) (s : State) :
    (modSec f s).fcl = s.fcl := rfl
@[simp] theorem modSec_ldg (f : Sec → Sec) (s : State) :
    (modSec f s).ldg = s.ldg := rfl
@[simp] theorem modSec_tly (f : Sec → Sec) (s : State) :
    (modSec f s).tly = s.tly := rfl
@[simp] theorem modSec_sth (f : Sec → Sec) (s : State) :
    (modSec f s).sth = s.sth := rfl
@[simp] theorem modSec_mag (f : Sec → Sec) (s : State) :
    (modSec f s).mag = s.mag := rfl
@[simp] theorem modSec_magIn (f : Sec → Sec) (s : State) :
    (modSec f s).magIn = s.magIn := rfl
@[simp] theorem modSec_prt (f : Sec → Sec) (s : State) :
    (modSec f s).prt = s.prt := rfl

end Sys2Proof.Machine
end

