-- ==== Sys2Proof/Laws/Regs.lean ====
section
/-! SUPPORT. Stored register words and fields, and what a committing write does: taken, it performs the register's effect on
`taken`; otherwise it is a bus error (spec/02). -/

namespace Sys2Proof.Machine

/-! ### Bit fields of numbers -/

theorem bitsOf_lt (x lo w : Nat) : bitsOf x lo w < 2 ^ w := Nat.mod_lt _ (Nat.two_pow_pos w)

/-- A number in three parts: above, inside and below a field. -/
theorem split_field (x lo w : Nat) : x = 2 ^ lo * (2 ^ w * (x / 2 ^ lo / 2 ^ w) + bitsOf x lo w) + x % 2 ^ lo := by
  unfold bitsOf
  rw [Nat.shiftRight_eq_div_pow, Nat.div_add_mod, Nat.div_add_mod]

theorem setBits_parts (x lo w v : Nat) :
    setBits x lo w v = 2 ^ lo * (2 ^ w * (x / 2 ^ lo / 2 ^ w) + v % 2 ^ w) + x % 2 ^ lo := by
  have h := split_field x lo w
  unfold setBits
  generalize bitsOf x lo w = m at *
  generalize x / 2 ^ lo / 2 ^ w = a at *
  generalize x % 2 ^ lo = l at *
  subst h
  rw [Nat.mul_add, Nat.mul_add, Nat.mul_comm m, Nat.mul_comm (v % 2 ^ w)]
  omega

/-- A field just set reads as its value. -/
theorem bitsOf_setBits (x lo w v : Nat) : bitsOf (setBits x lo w v) lo w = v % 2 ^ w := by
  rw [setBits_parts]
  unfold bitsOf
  rw [Nat.shiftRight_eq_div_pow, Nat.mul_add_div (Nat.two_pow_pos lo),
    Nat.div_eq_of_lt (Nat.mod_lt _ (Nat.two_pow_pos lo)), Nat.add_zero, Nat.mul_add_mod, Nat.mod_mod]

/-- A lower field is unchanged. -/
theorem bitsOf_setBits_lower {x lo w v lo' w' : Nat} (h : lo' + w' ≤ lo) :
    bitsOf (setBits x lo w v) lo' w' = bitsOf x lo' w' := by
  have key : ∀ y, bitsOf (2 ^ lo * y + x % 2 ^ lo) lo' w' = bitsOf x lo' w' := by
    intro y
    obtain ⟨d, rfl⟩ := Nat.exists_eq_add_of_le h
    unfold bitsOf
    rw [Nat.shiftRight_eq_div_pow, Nat.shiftRight_eq_div_pow]
    have e1 : 2 ^ (lo' + w' + d) = 2 ^ lo' * (2 ^ w' * 2 ^ d) := by rw [Nat.pow_add, Nat.pow_add, Nat.mul_assoc]
    rw [e1, Nat.mul_assoc, Nat.mul_add_div (Nat.two_pow_pos lo'), Nat.mod_mul_right_div_self, Nat.mul_assoc,
      Nat.mul_add_mod, Nat.mod_mul_right_mod]
  rw [setBits_parts]
  exact key _

/-- A higher field is unchanged. -/
theorem bitsOf_setBits_higher {x lo w v lo' w' : Nat} (h : lo + w ≤ lo') :
    bitsOf (setBits x lo w v) lo' w' = bitsOf x lo' w' := by
  obtain ⟨d, rfl⟩ := Nat.exists_eq_add_of_le h
  have key : setBits x lo w v / 2 ^ (lo + w) = x / 2 ^ (lo + w) := by
    rw [setBits_parts, Nat.pow_add, ← Nat.div_div_eq_div_mul, ← Nat.div_div_eq_div_mul,
      Nat.mul_add_div (Nat.two_pow_pos lo), Nat.div_eq_of_lt (Nat.mod_lt _ (Nat.two_pow_pos lo)), Nat.add_zero,
      Nat.mul_add_div (Nat.two_pow_pos w), Nat.div_eq_of_lt (Nat.mod_lt _ (Nat.two_pow_pos w)), Nat.add_zero]
  unfold bitsOf
  rw [Nat.shiftRight_eq_div_pow, Nat.shiftRight_eq_div_pow, Nat.pow_add _ (lo + w) d, ← Nat.div_div_eq_div_mul,
    ← Nat.div_div_eq_div_mul, key]

/-- Fields lie in a word: a field set in a word of 32 bits leaves 32 bits. -/
theorem setBits_lt {x lo w v : Nat} (hx : x < 2 ^ 32) (h : lo + w ≤ 32) : setBits x lo w v < 2 ^ 32 := by
  rw [setBits_parts]
  obtain ⟨d, hd⟩ := Nat.exists_eq_add_of_le h
  have e32 : (2 : Nat) ^ 32 = 2 ^ lo * (2 ^ w * 2 ^ d) := by rw [hd, Nat.pow_add, Nat.pow_add, Nat.mul_assoc]
  rw [e32] at hx ⊢
  have h1 : x / 2 ^ lo < 2 ^ w * 2 ^ d := by rwa [Nat.div_lt_iff_lt_mul (Nat.two_pow_pos lo), Nat.mul_comm]
  have h2 : x / 2 ^ lo / 2 ^ w < 2 ^ d := by rwa [Nat.div_lt_iff_lt_mul (Nat.two_pow_pos w), Nat.mul_comm]
  have h3 : 2 ^ w * (x / 2 ^ lo / 2 ^ w) + v % 2 ^ w + 1 ≤ 2 ^ w * 2 ^ d := by
    have := Nat.mul_le_mul_left (2 ^ w) (Nat.succ_le_of_lt h2)
    have := Nat.mod_lt v (Nat.two_pow_pos w)
    rw [Nat.mul_succ] at *
    omega
  have h4 := Nat.mul_le_mul_left (2 ^ lo) h3
  have h5 := Nat.mod_lt x (Nat.two_pow_pos lo)
  rw [Nat.mul_add, Nat.mul_one] at h4
  omega

/-! ### Words and fields of registers -/

/-- Every reset value has 32 bits. -/
theorem regInfo_resets_lt (r : Reg) : ((regInfo r).resets.all fun x => decide (x < 2 ^ 32)) = true := by
  cases r <;> rfl

theorem regReset_lt (r : Reg) (i w : Nat) : regReset r i w < 2 ^ 32 := by
  have key : (regInfo r).resets.getD w 0 < 2 ^ 32 := by
    rw [List.getD_eq_getElem?_getD]
    cases h : (regInfo r).resets[w]? with
    | none => decide
    | some x =>
      exact of_decide_eq_true (List.all_eq_true.mp (regInfo_resets_lt r) x (List.mem_of_getElem? h))
  unfold regReset
  split
  · split <;> decide
  · split <;> decide
  · repeat' split
    all_goals decide
  · exact bitsOf_lt _ _ _
  · exact bitsOf_lt _ _ _
  · exact key

theorem rword_lt (s : State) (r : Reg) (fr i w : Nat) : rword s r fr i w < 2 ^ 32 := by
  unfold rword
  cases tabFind s.bus.regs (regKey r fr i w) with
  | none => exact regReset_lt r i w
  | some v => exact v.isLt

/-- A word under another key is unchanged. -/
theorem rword_setRword_ne {r q : Reg} {fr i w fr' i' w' v : Nat} {s : State}
    (h : regKey q fr' i' w' ≠ regKey r fr i w) :
    rword (setRword r fr i w v s) q fr' i' w' = rword s q fr' i' w' := by
  show ((tabFind (tabSet _ s.bus.regs _ _) _).map BitVec.toNat).getD _ = _
  rw [tabFind_tabSet, if_neg h]
  rfl

/-- A word just stored reads as its low 32 bits. -/
theorem rword_setRword (r : Reg) (fr i w v : Nat) (s : State) :
    rword (setRword r fr i w v s) r fr i w = v % 2 ^ 32 := by
  have h := regReset_lt r i w
  show ((tabFind (tabSet _ s.bus.regs _ _) _).map BitVec.toNat).getD _ = _
  rw [tabFind_tabSet, if_pos rfl]
  by_cases e : BitVec.ofNat 32 v = BitVec.ofNat 32 (regReset r i w)
  · have e2 := congrArg BitVec.toNat e
    simp only [BitVec.toNat_ofNat, Nat.mod_eq_of_lt h] at e2
    rw [if_pos e, e2]
    rfl
  · rw [if_neg e]
    simp

/-- A field just set reads as its value. -/
theorem fld_setFld (f : FieldRef) (v : Nat) (s : State) (fr i : Nat) (h : f.lo + f.width ≤ 32) :
    fld (setFld f v s fr i) f fr i = v % 2 ^ f.width := by
  unfold fld setFld
  rw [rword_setRword, Nat.mod_eq_of_lt (setBits_lt (rword_lt _ _ _ _ _) h), bitsOf_setBits]

/-- A field of the same word beside the one set is unchanged. -/
theorem fld_setFld_beside {f g : FieldRef} {v : Nat} {s : State} {fr i : Nat} (hr : g.reg = f.reg) (hw : g.word = f.word)
    (h : f.lo + f.width ≤ 32) (hd : g.lo + g.width ≤ f.lo ∨ f.lo + f.width ≤ g.lo) :
    fld (setFld f v s fr i) g fr i = fld s g fr i := by
  unfold fld setFld
  rw [hr, hw, rword_setRword, Nat.mod_eq_of_lt (setBits_lt (rword_lt _ _ _ _ _) h)]
  rcases hd with hd | hd
  · exact bitsOf_setBits_lower hd
  · exact bitsOf_setBits_higher hd

/-- A field of another word is unchanged. -/
theorem fld_setFld_ne {f g : FieldRef} {v : Nat} {s : State} {fr i fr' i' : Nat}
    (h : regKey g.reg fr' i' g.word ≠ regKey f.reg fr i f.word) :
    fld (setFld f v s fr i) g fr' i' = fld s g fr' i' := by
  unfold fld setFld
  rw [rword_setRword_ne h]

/-- A counter stops at its maximum (R62). -/
theorem fld_bump (f : FieldRef) (s : State) (fr i n : Nat) (h : f.lo + f.width ≤ 32) :
    fld (bump f s fr i n) f fr i = min (fld s f fr i + n) (2 ^ f.width - 1) := by
  unfold bump
  rw [fld_setFld _ _ _ _ _ h]
  have hp := Nat.two_pow_pos f.width
  unfold satAdd
  split
  · rw [Nat.mod_eq_of_lt (by omega)]
    omega
  · rw [Nat.mod_eq_of_lt (by omega)]
    omega

/-! ### Committing writes -/

/-- A write of the top word that meets no cause of refusal. -/
theorem writeReg_taken {r : Reg} {fr i : Nat} {a : Acc} {busy : List Nat → Option Berr} {ok : List Nat → Bool}
    {eff : List Nat → State → State} {s : State} (h : accepts r fr i a busy ok s = true) :
    writeReg r fr i ((regInfo r).words - 1) a busy ok true eff s =
      (eff (commitVals s r fr i a) (taken r fr i a s), none) := by
  unfold accepts frameUp at h
  simp only [Bool.and_eq_true, Bool.or_eq_true, Bool.not_eq_true'] at h
  obtain ⟨⟨⟨⟨⟨hb, hd⟩, hk⟩, hy⟩, hj⟩, ho⟩ := h
  have hw : ¬((regInfo r).words - 1 + 1 < (regInfo r).words) := by omega
  have hg : ((regInfo r).guarded && !keyOpen s (blkFrame (regInfo r).blk fr) a.req.val) = false := by
    rcases hk with hk | hk
    · rw [hk]; rfl
    · rw [hk]; simp
  have hbusy : busy (commitVals s r fr i a) = none := Option.isNone_iff_eq_none.mp hy
  unfold writeReg
  rw [if_neg (by simp [hb])]
  dsimp only
  refine (if_neg ?_).trans ?_
  · cases hx : blkDomain (regInfo r).blk fr with
    | none => simp
    | some d =>
      rw [hx] at hd
      have hd' : domUp (served (blkFrame (regInfo r).blk fr) a.req.val s) d = true := hd
      simp [hd']
  rw [if_neg hw]
  have hv : commitVals (served (blkFrame (regInfo r).blk fr) a.req.val s) r fr i a = commitVals s r fr i a := rfl
  have hko : keyOpen (dropStage r a.req.val fr i (served (blkFrame (regInfo r).blk fr) a.req.val s))
      (blkFrame (regInfo r).blk fr) a.req.val = keyOpen s (blkFrame (regInfo r).blk fr) a.req.val := rfl
  rw [hv, hko, hg, if_neg (by simp), hbusy]
  dsimp only
  rw [hj, ho, if_neg (by simp)]
  rfl

/-- A commit that meets no cause of refusal. -/
theorem regCommit_taken {r : Reg} {fr i : Nat} {a : Acc} {busy : List Nat → Option Berr} {ok : List Nat → Bool}
    {eff : List Nat → State → State} {s : State} (h : accepts r fr i a busy ok s = true) :
    regCommit r fr i a busy ok eff s = eff (commitVals s r fr i a) (taken r fr i a s) := by
  unfold regCommit writeOne
  rw [writeReg_taken h]
  rfl

end Sys2Proof.Machine
end

