-- ==== Sys2Proof/Laws/RegFrame.lean ====
section
/-! SUPPORT. Which register words the shared operations leave as they were. -/

namespace Sys2Proof.Machine

theorem RegsBut.refl (ks : List Nat) (s : State) : RegsBut ks s s := fun _ _ => rfl

theorem RegsBut.trans {ks : List Nat} {s t u : State} (h : RegsBut ks s t) (g : RegsBut ks t u) : RegsBut ks s u :=
  fun k hk => (g k hk).trans (h k hk)

theorem RegsBut.weaken {ks js : List Nat} {s t : State} (h : RegsBut ks s t) (hs : ks ⊆ js) : RegsBut js s t :=
  fun k hk => h k fun hm => hk (hs hm)

/-- Registers that are the same table. -/
theorem RegsBut.of_eq {ks : List Nat} {s t : State} (h : t.bus.regs = s.bus.regs) : RegsBut ks s t :=
  fun k _ => by rw [h]

theorem RegsBut.ite {ks : List Nat} {s a b : State} {c : Prop} [Decidable c] (ha : RegsBut ks s a)
    (hb : RegsBut ks s b) : RegsBut ks s (if c then a else b) := by
  split
  · exact ha
  · exact hb

theorem RegsBut.forEach {ks : List Nat} {α : Type} {l : List α} {f : α → State → State} (s : State)
    (hf : ∀ a u, RegsBut ks u (f a u)) : RegsBut ks s (forEach l f s) := by
  unfold Machine.forEach
  induction l generalizing s with
  | nil => exact .refl _ _
  | cons a l ih => exact (hf a s).trans (ih (f a s))

/-- A change beside the registers. -/
theorem RegsBut.same {ks : List Nat} {s u t : State} (h : RegsBut ks s u) (e : t.bus.regs = u.bus.regs) :
    RegsBut ks s t := h.trans (.of_eq e)

/-- A word outside the changed ones reads as before. -/
theorem RegsBut.rword {ks : List Nat} {s t : State} (h : RegsBut ks s t) {r : Reg} {fr i w : Nat}
    (hk : regKey r fr i w ∉ ks) : rword t r fr i w = rword s r fr i w := by
  unfold Machine.rword
  rw [h _ hk]

theorem RegsBut.fld {ks : List Nat} {s t : State} (h : RegsBut ks s t) {f : FieldRef} {fr i : Nat}
    (hk : regKey f.reg fr i f.word ∉ ks) : fld t f fr i = fld s f fr i := by
  unfold Machine.fld
  rw [h.rword hk]

theorem RegsBut.flag {ks : List Nat} {s t : State} (h : RegsBut ks s t) {f : FieldRef} {fr i : Nat}
    (hk : regKey f.reg fr i f.word ∉ ks) : flag t f fr i = flag s f fr i := by
  unfold Machine.flag
  rw [h.fld hk]

theorem RegsBut.setRword {ks : List Nat} {r : Reg} {fr i w v : Nat} {s u : State} (h : RegsBut ks s u)
    (hk : regKey r fr i w ∈ ks) : RegsBut ks s (setRword r fr i w v u) := by
  refine h.trans fun k hn => ?_
  show tabFind (tabSet _ u.bus.regs _ _) k = _
  rw [tabFind_tabSet, if_neg fun e : k = _ => hn (by rw [e]; exact hk)]

theorem RegsBut.setFld {ks : List Nat} {f : FieldRef} {v fr i : Nat} {s u : State} (h : RegsBut ks s u)
    (hk : regKey f.reg fr i f.word ∈ ks) : RegsBut ks s (setFld f v u fr i) := h.setRword hk

theorem RegsBut.bump {ks : List Nat} {f : FieldRef} {n fr i : Nat} {s u : State} (h : RegsBut ks s u)
    (hk : regKey f.reg fr i f.word ∈ ks) : RegsBut ks s (bump f u fr i n) := h.setRword hk

theorem bitAt_bitsOf {x lo w i : Nat} (h : bitAt (bitsOf x lo w) i = true) : i < w := by
  by_contra hc
  have hlt := bitsOf_lt x lo w
  have : bitsOf x lo w >>> i = 0 := by
    rw [Nat.shiftRight_eq_div_pow]
    exact Nat.div_eq_of_lt (lt_of_lt_of_le hlt (Nat.pow_le_pow_right (by omega) (by omega)))
  unfold bitAt at h
  rw [this] at h
  exact absurd h (by decide)

/-- A relation of register words that the changes of some words, and of nothing, keep. -/
structure Closed (ks : List Nat) (R : State → State → Prop) : Prop where
  refl : ∀ s, R s s
  trans : ∀ {s t u}, R s t → R t u → R s u
  of_eq : ∀ {s t : State}, t.bus.regs = s.bus.regs → R s t
  word : ∀ {r : Reg} {fr i w v : Nat} {s : State}, regKey r fr i w ∈ ks → R s (setRword r fr i w v s)

theorem Closed.ite {ks : List Nat} {R : State → State → Prop} (_ : Closed ks R) {s a b : State} {c : Prop} [Decidable c]
    (ha : R s a) (hb : R s b) : R s (if c then a else b) := by
  split
  · exact ha
  · exact hb

theorem Closed.forEach {ks : List Nat} {R : State → State → Prop} (h : Closed ks R) {α : Type} {l : List α}
    {f : α → State → State} (s : State) (hf : ∀ a u, R u (f a u)) : R s (forEach l f s) := by
  unfold Machine.forEach
  induction l generalizing s with
  | nil => exact h.refl _
  | cons a l ih => exact h.trans (hf a s) (ih (f a s))

theorem Closed.same {ks : List Nat} {R : State → State → Prop} (h : Closed ks R) {s u t : State} (a : R s u)
    (e : t.bus.regs = u.bus.regs) : R s t := h.trans a (h.of_eq e)

theorem Closed.setRword {ks : List Nat} {R : State → State → Prop} (h : Closed ks R) {r : Reg} {fr i w v : Nat}
    {s u : State} (a : R s u) (hk : regKey r fr i w ∈ ks) : R s (setRword r fr i w v u) := h.trans a (h.word hk)

theorem Closed.setFld {ks : List Nat} {R : State → State → Prop} (h : Closed ks R) {f : FieldRef} {v fr i : Nat}
    {s u : State} (a : R s u) (hk : regKey f.reg fr i f.word ∈ ks) : R s (setFld f v u fr i) := h.setRword a hk

theorem Closed.bump {ks : List Nat} {R : State → State → Prop} (h : Closed ks R) {f : FieldRef} {n fr i : Nat}
    {s u : State} (a : R s u) (hk : regKey f.reg fr i f.word ∈ ks) : R s (bump f u fr i n) := h.setRword a hk

/-- The words outside a set. -/
theorem closed_regsBut (ks : List Nat) : Closed ks (RegsBut ks) :=
  ⟨.refl ks, fun a b => a.trans b, fun e => .of_eq e, fun hk => (RegsBut.refl _ _).setRword hk⟩

variable {ks : List Nat} {R : State → State → Prop}

/-! ### Interrupt events -/

theorem settleCtx_rel (hR : Closed ks R) (hs : wakeWords ⊆ ks) (delay c : Nat) (hc : c < 8) (s : State) :
    R s (settleCtx delay c s) := by
  have hk : regKey .ICT_CTX_STRAND 0 c 0 ∈ ks := hs
    (List.mem_cons_of_mem _ (List.mem_cons_of_mem _ (List.mem_cons_of_mem _ (List.mem_map.mpr ⟨c, List.mem_range.mpr hc, rfl⟩))))
  unfold settleCtx
  dsimp only
  refine hR.trans (hR.of_eq (t := modCtx c _ s) rfl) (hR.ite (hR.forEach _ fun n u => ?_) (hR.refl _))
  split
  · have h1 : R u (bump F.ICT_CTX_STRAND_COUNT u 0 c) := hR.bump (hR.refl u) hk
    generalize bump F.ICT_CTX_STRAND_COUNT u 0 c = v at h1 ⊢
    exact hR.same (hR.setFld (f := F.ICT_CTX_STRAND_MAXDLY) h1 hk) (by rw [modSrc_bus])
  · exact hR.refl _

theorem ictSettle_rel (hR : Closed ks R) (hs : wakeWords ⊆ ks) (s : State) : R s (ictSettle s) := by
  have key : ∀ l : List Nat, (∀ c ∈ l, c < 8) → ∀ s, R s (forEach l (settleCtx 2) s) := by
    intro l
    induction l with
    | nil => exact fun _ s => hR.refl _
    | cons a l ih =>
      exact fun h s => hR.trans (settleCtx_rel hR hs 2 a (h a List.mem_cons_self) s)
        (ih (fun c hc => h c (List.mem_cons_of_mem _ hc)) _)
  exact key _ (fun c hc => List.mem_range.mp hc) s

theorem askUp_rel (hR : Closed ks R) {d : Nat} {s : State} (hk : regKey .PWR_DOMREQ 0 (d / 32) 0 ∈ ks) : R s (askUp d s) := by
  unfold askUp setDomReq
  exact hR.ite (hR.setRword (hR.refl s) hk) (hR.same (hR.setRword (hR.refl s) hk) rfl)

theorem wakeCore_rel (hR : Closed ks R) (hs : wakeWords ⊆ ks) (c : Nat) (s : State) : R s (wakeCore c s).1 := by
  have h1 : regKey .ICT_CNT 0 0 0 ∈ ks := hs (by decide)
  have h2 : regKey .PWR_CNT 0 0 0 ∈ ks := hs (by decide)
  have h3 : regKey .PWR_DOMREQ 0 6 0 ∈ ks := hs (by decide)
  unfold wakeCore
  split
  · exact hR.bump (f := F.ICT_CNT_WAKES) (hR.of_eq rfl) h1
  · split
    · exact hR.of_eq rfl
    · dsimp only
      split
      · rename_i _ _ h
        rw [Bool.and_eq_true] at h
        have hc : c < 8 := bitAt_bitsOf h.1
        have : (192 + c) / 32 = 6 := by omega
        exact hR.trans (hR.bump (f := F.ICT_CNT_WAKES) (hR.refl s) h1) (askUp_rel hR (by rw [this]; exact h3))
      · exact hR.bump (f := F.PWR_CNT_WAKEDROP) (hR.bump (f := F.ICT_CNT_WAKES) (hR.refl s) h1) h2

theorem srcArrive_rel (hR : Closed ks R) (src : Nat) (s : State) : R s (srcArrive src s).1 := by
  unfold srcArrive
  split
  · exact hR.refl _
  · split
    · exact hR.refl _
    · exact hR.of_eq rfl

theorem doWakes_rel (hR : Closed ks R) (hs : wakeWords ⊆ ks) (l : List Nat) (s : State) : R s (doWakes l s) := by
  unfold doWakes
  refine hR.forEach _ fun c u => ?_
  have h := wakeCore_rel hR hs c u
  split
  · rename_i e; rw [e] at h; exact h
  · rename_i v e
    rw [e] at h
    have g := srcArrive_rel hR 775 v
    split
    rename_i w cs e2
    rw [e2] at g
    exact hR.trans (hR.trans h g) (hR.forEach _ fun c u => wakeCore_rel hR hs c u)

theorem raise_rel (hR : Closed ks R) (hs : wakeWords ⊆ ks) (src : Nat) (s : State) : R s (raise src s) := by
  have h := srcArrive_rel hR src s
  unfold raise
  split
  rename_i u cs e
  rw [e] at h
  exact hR.trans (hR.trans h (doWakes_rel hR hs _ _)) (ictSettle_rel hR hs _)

theorem raise_regs (src : Nat) (s : State) : RegsBut wakeWords s (raise src s) :=
  raise_rel (closed_regsBut _) (List.Subset.refl _) src s

theorem ictSettle_regs (s : State) : RegsBut wakeWords s (ictSettle s) :=
  ictSettle_rel (closed_regsBut _) (List.Subset.refl _) s

theorem doWakes_regs (l : List Nat) (s : State) : RegsBut wakeWords s (doWakes l s) :=
  doWakes_rel (closed_regsBut _) (List.Subset.refl _) l s

theorem tallyAdd_rel (hR : Closed ks R) (c n : Nat) (s : State) : R s (tallyAdd c n s) := by
  unfold tallyAdd
  exact hR.ite (hR.of_eq rfl) (hR.refl _)

theorem tally_rel (hR : Closed ks R) (c : Nat) (s : State) : R s (tally c s) := tallyAdd_rel hR _ _ _

theorem tally_regs (ks : List Nat) (c : Nat) (s : State) : RegsBut ks s (tally c s) := tally_rel (closed_regsBut _) _ _

theorem tallyAdd_regs (ks : List Nat) (c n : Nat) (s : State) : RegsBut ks s (tallyAdd c n s) :=
  tallyAdd_rel (closed_regsBut _) _ _ _

theorem setNdlSt_rel (hR : Closed ks R) (hs : wakeWords ⊆ ks) (n : Nat) (st : NdlSt) (s : State) : R s (setNdlSt n st s) := by
  unfold setNdlSt
  split
  · exact hR.refl _
  · refine hR.trans ?_ (raise_rel hR hs _ _)
    exact hR.of_eq rfl

theorem askHalt_rel (hR : Closed ks R) (hs : wakeWords ⊆ ks) (n : Nat) (b : Bool) (s : State) : R s (askHalt n b s) := by
  unfold askHalt
  dsimp only
  split
  · exact hR.of_eq rfl
  · split
    · exact hR.refl _
    · exact setNdlSt_rel hR hs _ _ _

theorem frozenStops_rel (hR : Closed ks R) (hs : wakeWords ⊆ ks) (s : State) : R s (frozenStops s) := by
  have h : R s (frozenNeedles s) := hR.forEach _ fun n u => askHalt_rel hR hs n false u
  exact hR.same h rfl

theorem modeEntry_rel (hR : Closed ks R) (hs : wakeWords ⊆ ks) (m : Mode) (s : State) : R s (modeEntry m s) := by
  unfold modeEntry
  split
  · exact hR.of_eq rfl
  · exact hR.of_eq rfl
  · exact hR.of_eq rfl
  · exact frozenStops_rel hR hs s
  · exact hR.refl _

/-! ### Reports -/

/-- The words of a report beside the latched sources. -/
def quietWords : List Nat :=
  regKey .FCL_CNT 0 0 0 :: regKey .LDG_CNT1 0 0 0 :: wakeWords ++ (List.range 8).map (fun i => regKey .PWR_DOMREQ 0 i 0)

theorem wake_quiet : wakeWords ⊆ quietWords := by decide

/-- Besides the words, the latching of a source is kept. -/
def Latches (R : State → State → Prop) : Prop := ∀ (src : Nat) (s : State), src < 256 → R s (setLatched src true s)

theorem ldgPushOr_rel (hR : Closed ks R) (hs : quietWords ⊆ ks) {full : State → State} (hf : ∀ u, R u (full u)) (r : LdgRec)
    (s : State) : R s (ldgPushOr full r s) := by
  have hw : wakeWords ⊆ ks := fun _ h => hs (wake_quiet h)
  have hb : R s (bump F.LDG_CNT1_QDROP s) := hR.bump (f := F.LDG_CNT1_QDROP) (hR.refl s) (hs (by decide))
  have hq : ∀ u : State, R u (if u.ldg.queue.length = 24 then raise 788 u else u) := fun u =>
    hR.ite (raise_rel hR hw _ _) (hR.refl _)
  unfold ldgPushOr
  split
  · exact hR.refl _
  · split
    · exact hR.trans hb (hf _)
    · refine hR.trans ?_ (hq { s with ldg := { s.ldg with queue := s.ldg.queue ++ [r] } })
      exact hR.of_eq rfl

theorem setModeOr_rel (hR : Closed ks R) (hs : quietWords ⊆ ks) {full : State → State} (hf : ∀ u, R u (full u)) (m : Mode)
    (cause : Nat) (s : State) : R s (setModeOr full m cause s) := by
  have hw : wakeWords ⊆ ks := fun _ h => hs (wake_quiet h)
  unfold setModeOr
  dsimp only
  refine hR.trans ?_ (modeEntry_rel hR hw _ _)
  refine hR.trans ?_ (ldgPushOr_rel hR hs hf _ _)
  refine hR.trans ?_ (raise_rel hR hw _ _)
  exact hR.of_eq rfl

theorem setDomReq_rel (hR : Closed ks R) (hs : quietWords ⊆ ks) {d : Nat} (hd : d < 256) (b : Bool) (s : State) :
    R s (setDomReq d b s) := by
  have hk : regKey .PWR_DOMREQ 0 (d / 32) 0 ∈ quietWords :=
    List.mem_append_right _ (List.mem_map.mpr ⟨d / 32, List.mem_range.mpr (by omega), rfl⟩)
  exact hR.word (hs hk)

theorem isolate_rel (hR : Closed ks R) (hs : quietWords ⊆ ks) {d : Nat} (hd : d < 256) (s : State) : R s (isolate d s) := by
  unfold isolate
  dsimp only
  have h1 : R s { s with pwr := { s.pwr with iso := BitVec.ofNat 214 (setBits s.pwr.iso.toNat d 1 1) } } := hR.of_eq rfl
  refine hR.trans (hR.trans h1 (setDomReq_rel hR hs hd false _)) ?_
  split
  · exact hR.of_eq rfl
  · split
    · exact hR.of_eq rfl
    · exact hR.refl _

theorem isolates_rel (hR : Closed ks R) (hs : quietWords ⊆ ks) (src detail : Nat) (s : State) :
    R s (match fclIsolates src detail with | some d => isolate d s | none => s) := by
  split
  · rename_i d e
    refine isolate_rel hR hs ?_ s
    unfold fclIsolates at e
    split at e
    · injection e with e; omega
    · split at e
      · injection e with e; omega
      · cases e
  · exact hR.refl _

theorem severityAct_rel (hR : Closed ks R) (hs : quietWords ⊆ ks) {full : State → State} (hf : ∀ u, R u (full u))
    (sev src detail : Nat) (s : State) : R s (severityAct full sev src detail s) := by
  have hw : wakeWords ⊆ ks := fun _ h => hs (wake_quiet h)
  unfold severityAct
  dsimp only
  generalize ha : (if sev ≥ 1 then raise 771 s else s) = a
  have h1 : R s a := ha ▸ hR.ite (raise_rel hR hw _ _) (hR.refl _)
  generalize hb : (if sev ≥ 2 then (match fclIsolates src detail with | some d => isolate d a | none => a) else a) = b
  have h2 : R a b := hb ▸ hR.ite (isolates_rel hR hs _ _ _) (hR.refl _)
  refine hR.trans (hR.trans h1 h2) ?_
  split
  · split
    · exact setModeOr_rel hR hs hf _ _ _
    · exact hR.refl _
  · split
    · refine hR.trans (tally_rel hR 437 b) ?_
      split
      · exact hR.of_eq rfl
      · split
        · exact setModeOr_rel hR hs hf _ _ _
        · exact hR.refl _
    · exact hR.refl _

/-- A report beside its latched source: nothing, or a repeat of a latched source, or what follows the latching. -/
theorem reportN_parts (hR : Closed ks R) (hs : quietWords ⊆ ks) {n : Nat} (hf : ∀ u, R u (reportN n 0x1D 0 3 255 u))
    (src sub detail req : Nat) {s : State} (hb : baseUp s = true) : ∃ a, R s a ∧
      (fclLatched a src = true ∧ R a (reportN (n + 1) src sub detail req s) ∨
        R (setLatched src true a) (reportN (n + 1) src sub detail req s)) := by
  refine ⟨tally 436 s, tally_rel hR 436 s, ?_⟩
  unfold reportN
  rw [if_neg (by simp [hb])]
  dsimp only
  generalize tally 436 s = a
  split
  · rename_i h
    exact .inl ⟨h, hR.bump (f := F.FCL_CNT_REPEAT) (hR.refl a) (hs (by decide))⟩
  · refine .inr (hR.trans ?_ (severityAct_rel hR hs hf _ _ _ _))
    generalize setLatched src true a = b
    have hc : ∀ c : State, c.bus.regs = b.bus.regs → R b (bump F.FCL_CNT_REPORTS c) := fun c e =>
      hR.bump (f := F.FCL_CNT_REPORTS) (hR.of_eq e) (hs (by decide))
    split
    · refine hR.trans ?_ (ldgPushOr_rel hR hs hf _ _)
      exact hc _ (by rfl)
    · exact hc _ (by rfl)

theorem reportN_down (n src sub detail req : Nat) {s : State} (hb : baseUp s = false) : reportN n src sub detail req s = s := by
  cases n with
  | zero => rfl
  | succ n => unfold reportN; rw [if_pos (by simp [hb])]

theorem reportN_rel (hR : Closed ks R) (hs : quietWords ⊆ ks) (hL : Latches R) (n src sub detail req : Nat)
    (hsrc : src < 256) (s : State) : R s (reportN n src sub detail req s) := by
  induction n generalizing src sub detail req s with
  | zero => exact hR.refl _
  | succ n ih =>
    cases hb : baseUp s with
    | false => rw [reportN_down _ _ _ _ _ hb]; exact hR.refl _
    | true =>
      obtain ⟨a, h1, h2 | h2⟩ := reportN_parts hR hs (fun u => ih 0x1D 0 3 255 (by decide) u) src sub detail req hb
      · exact hR.trans h1 h2.2
      · exact hR.trans (hR.trans h1 (hL src a hsrc)) h2

theorem latches_regsBut : Latches (RegsBut reportWords) := by
  intro src s h
  have hk : regKey .FCL_FLT 0 (src / 32) 0 ∈ reportWords :=
    List.mem_append_left _ (List.mem_append_right _ (List.mem_map.mpr ⟨src / 32, List.mem_range.mpr (by omega), rfl⟩))
  exact (RegsBut.refl _ s).setRword hk

theorem quiet_report : quietWords ⊆ reportWords := by decide

theorem report_regs {src : Nat} (sub detail req : Nat) (h : src < 256) (s : State) :
    RegsBut reportWords s (report src sub detail req s) :=
  reportN_rel (closed_regsBut _) quiet_report latches_regsBut 4 src sub detail req h s

theorem ldgPush_regs (r : LdgRec) (s : State) : RegsBut reportWords s (ldgPush r s) :=
  ldgPushOr_rel (closed_regsBut _) quiet_report (fun u => report_regs 0 3 255 (by decide) u) r s

theorem setMode_regs (m : Mode) (cause : Nat) (s : State) : RegsBut reportWords s (setMode m cause s) :=
  setModeOr_rel (closed_regsBut _) quiet_report (fun u => report_regs 0 3 255 (by decide) u) m cause s

theorem wakeWords_sub : wakeWords ⊆ reportWords := by decide

theorem raise_regs' (src : Nat) (s : State) : RegsBut reportWords s (raise src s) := (raise_regs src s).weaken wakeWords_sub

/-! ### Latched sources -/

/-- Every latched source stays latched. -/
def LatchedStay (s t : State) : Prop := ∀ x, x < 256 → fclLatched s x = true → fclLatched t x = true

theorem bitAt_setBits_same {x i : Nat} : bitAt (setBits x i 1 1) i = true := by
  have h := bitsOf_setBits x i 1 1
  unfold bitsOf at h
  unfold bitAt
  rw [Nat.pow_one] at h
  rw [h]
  rfl

theorem bitAt_setBits_ne {x i j v : Nat} (h : j ≠ i) : bitAt (setBits x i 1 v) j = bitAt x j := by
  have e : bitsOf (setBits x i 1 v) j 1 = bitsOf x j 1 := by
    rcases Nat.lt_or_gt_of_ne h with h | h
    · exact bitsOf_setBits_lower (by omega)
    · exact bitsOf_setBits_higher (by omega)
  unfold bitsOf at e
  rw [Nat.pow_one] at e
  unfold bitAt
  rw [e]

theorem fclLatched_setLatched (src x : Nat) (s : State) (h : fclLatched s x = true ∨ x = src) :
    fclLatched (setLatched src true s) x = true := by
  unfold fclLatched setLatched
  by_cases hw : x / 32 = src / 32
  · rw [hw, rword_setRword, Nat.mod_eq_of_lt (setBits_lt (rword_lt _ _ _ _ _) (by omega))]
    by_cases hx : x = src
    · rw [hx]; exact bitAt_setBits_same
    · rw [bitAt_setBits_ne (by omega)]
      rcases h with h | h
      · unfold fclLatched at h; rw [hw] at h; exact h
      · exact absurd h hx
  · have hk : regKey .FCL_FLT 0 (x / 32) 0 ≠ regKey .FCL_FLT 0 (src / 32) 0 := by
      unfold regKey regInfo; dsimp only; omega
    rw [rword_setRword_ne hk]
    rcases h with h | h
    · exact h
    · exact absurd (congrArg (· / 32) h) hw

theorem closed_latchedStay : Closed quietWords LatchedStay where
  refl _ _ _ h := h
  trans a b x hx h := b x hx (a x hx h)
  of_eq {s t} e x _ h := by
    have : ∀ r fr i w, rword t r fr i w = rword s r fr i w := fun r fr i w => by unfold rword; rw [e]
    unfold fclLatched at *
    rw [this]
    exact h
  word hk x hx h := by
    unfold fclLatched at *
    rw [rword_setRword_ne]
    · exact h
    · intro e
      have hall : ((List.range 8).all fun y => !quietWords.contains (regKey .FCL_FLT 0 y 0)) = true := by decide
      have := List.all_eq_true.mp hall (x / 32) (List.mem_range.mpr (by omega))
      rw [e] at this
      simp at this
      exact this hk

theorem latches_latchedStay : Latches LatchedStay := fun src s _ x _ h => fclLatched_setLatched src x s (.inl h)

theorem latchedStay_reportN (n src sub detail req : Nat) (hsrc : src < 256) (s : State) :
    LatchedStay s (reportN n src sub detail req s) :=
  reportN_rel closed_latchedStay (List.Subset.refl _) latches_latchedStay n src sub detail req hsrc s

/-- A report while the base domain operates leaves its source latched (R796). -/
theorem report_latches {src : Nat} (sub detail req : Nat) (hsrc : src < 256) (s : State) (hb : baseUp s = true) :
    fclLatched (report src sub detail req s) src = true := by
  obtain ⟨a, -, h | h⟩ := reportN_parts closed_latchedStay (List.Subset.refl _)
    (fun u => latchedStay_reportN 3 0x1D 0 3 255 (by decide) u) src sub detail req hb
  · exact h.2 src hsrc h.1
  · exact h src hsrc (fclLatched_setLatched src src a (.inr rfl))

end Sys2Proof.Machine
end

