-- ==== Sys2Proof/Laws/Commit.lean ====
section
/-! SUPPORT. What a committing write that is taken leaves in the register words, and what it leaves alone. -/

namespace Sys2Proof.Machine

/-! ### Bits -/

theorem and_low (x m : Nat) : (x &&& m) % 2 = if x % 2 = 1 ∧ m % 2 = 1 then 1 else 0 := by
  have h := Nat.and_mod_two_pow (a := x) (b := m) (n := 1)
  rw [Nat.pow_one] at h
  rw [h]
  rcases Nat.mod_two_eq_zero_or_one x with hx | hx <;> rcases Nat.mod_two_eq_zero_or_one m with hm | hm <;> rw [hx, hm] <;> decide

/-- Taking the masked bits away clears them and leaves the others. -/
theorem testBit_sub_and (x m n : Nat) : (x - (x &&& m)).testBit n = (x.testBit n && !m.testBit n) := by
  induction n generalizing x m with
  | zero =>
    have h1 := and_low x m
    have h2 : x &&& m ≤ x := Nat.and_le_left
    simp only [Nat.testBit_zero]
    rcases Nat.mod_two_eq_zero_or_one x with hx | hx <;> rcases Nat.mod_two_eq_zero_or_one m with hm | hm <;>
      rw [hx, hm] at h1 <;> rw [hx, hm] <;> simp only [Nat.zero_ne_one, false_and, and_false, and_self, if_false,
        if_true] at h1
    · have : (x - (x &&& m)) % 2 = 0 := by omega
      rw [this]; rfl
    · have : (x - (x &&& m)) % 2 = 0 := by omega
      rw [this]; rfl
    · have : (x - (x &&& m)) % 2 = 1 := by omega
      rw [this]; rfl
    · have : (x - (x &&& m)) % 2 = 0 := by omega
      rw [this]; rfl
  | succ n ih =>
    have h1 := and_low x m
    have h2 : x &&& m ≤ x := Nat.and_le_left
    have h3 : (x &&& m) / 2 = x / 2 &&& m / 2 := by
      have := Nat.and_div_two_pow (a := x) (b := m) (n := 1)
      rwa [Nat.pow_one] at this
    have h4 : (x - (x &&& m)) / 2 = x / 2 - (x / 2 &&& m / 2) := by
      rw [← h3]
      split at h1 <;> omega
    rw [Nat.testBit_succ, h4, ih, ← Nat.testBit_succ, ← Nat.testBit_succ]

/-- The masked bits of one number with the rest of another. -/
theorem testBit_merge (x v m n : Nat) :
    ((x - (x &&& m)) ||| (v &&& m)).testBit n = if m.testBit n then v.testBit n else x.testBit n := by
  rw [Nat.testBit_or, testBit_sub_and, Nat.testBit_and]
  cases m.testBit n <;> simp

theorem bitsOf_ext {x y lo w : Nat} (h : ∀ n, n < w → x.testBit (lo + n) = y.testBit (lo + n)) :
    bitsOf x lo w = bitsOf y lo w := by
  apply Nat.eq_of_testBit_eq
  intro n
  unfold bitsOf
  rw [Nat.testBit_mod_two_pow, Nat.testBit_mod_two_pow, Nat.testBit_shiftRight, Nat.testBit_shiftRight]
  by_cases hn : n < w
  · rw [h n hn]
  · simp [hn]

theorem testBit_of_bitsOf {m lo w n : Nat} (h : bitsOf m lo w = 2 ^ w - 1) (hn : n < w) : m.testBit (lo + n) = true := by
  have := congrArg (Nat.testBit · n) h
  unfold bitsOf at this
  simp only [Nat.testBit_mod_two_pow, Nat.testBit_shiftRight, Nat.testBit_two_pow_sub_one, hn, decide_true,
    Bool.true_and] at this
  exact this

/-- Bits of a merge inside the mask. -/
theorem bitsOf_merge {x v m lo w : Nat} (h : bitsOf m lo w = 2 ^ w - 1) :
    bitsOf ((x - (x &&& m)) ||| (v &&& m)) lo w = bitsOf v lo w :=
  bitsOf_ext fun n hn => by rw [testBit_merge, testBit_of_bitsOf h hn, if_pos rfl]

/-! ### The mask of a word has 32 bits -/

theorem regInfo_fields_fit (r : Reg) : ((regInfo r).fields.all fun f => decide (f.lo + f.width ≤ 32)) = true := by
  cases r <;> rfl

theorem kindMask_fold_lt (w : Nat) (ks : List FKind) (l : List FieldInfo) (hl : (l.all fun f => decide (f.lo + f.width ≤ 32)) = true)
    (m : Nat) (hm : m < 2 ^ 32) :
    l.foldl (fun m f => if f.word = w && ks.contains f.kind then m ||| ((2 ^ f.width - 1) <<< f.lo) else m) m < 2 ^ 32 := by
  induction l generalizing m with
  | nil => exact hm
  | cons f l ih =>
    rw [List.all_cons, Bool.and_eq_true] at hl
    refine ih hl.2 _ ?_
    dsimp only
    split
    · refine Nat.or_lt_two_pow hm ?_
      have hf := of_decide_eq_true hl.1
      rw [Nat.shiftLeft_eq]
      have h1 : (2 ^ f.width - 1) * 2 ^ f.lo < 2 ^ f.width * 2 ^ f.lo :=
        Nat.mul_lt_mul_of_pos_right (by have := Nat.two_pow_pos f.width; omega) (Nat.two_pow_pos _)
      rw [← Nat.pow_add] at h1
      exact lt_of_lt_of_le h1 (Nat.pow_le_pow_right (by omega) (by omega))
    · exact hm

theorem rwMask_lt (r : Reg) (i w : Nat) : rwMask r i w < 2 ^ 32 := by
  unfold rwMask
  split
  · repeat' split
    all_goals decide
  · split <;> decide
  · exact kindMask_fold_lt _ _ _ (regInfo_fields_fit _) 0 (by decide)

/-! ### Stored fields -/

/-- The words of one instance of a register stand under different keys. -/
theorem regKey_word {r : Reg} {fr i w w' : Nat} (h : w ≠ w') : regKey r fr i w ≠ regKey r fr i w' := by
  unfold regKey; omega

/-- One word of a register held once is stored. -/
theorem storeVals_fold {r : Reg} (hp : (regInfo r).perReq = false) (req fr i : Nat) (vals : List Nat) (w : Nat)
    (l : List Nat) (hn : l.Nodup) (s : State) :
    rword (l.foldl (fun s w =>
      let m := rwMask r i w
      if m = 0 then s
      else
        let old := curWord s r req fr i w
        putWord r req fr i w ((old - (old &&& m)) ||| (vals.getD w 0 &&& m)) s) s) r fr i w =
      if w ∈ l then (rword s r fr i w - (rword s r fr i w &&& rwMask r i w)) ||| (vals.getD w 0 &&& rwMask r i w)
      else rword s r fr i w := by
  induction l generalizing s with
  | nil => rfl
  | cons a l ih =>
    rw [List.nodup_cons] at hn
    rw [List.foldl_cons, ih hn.2]
    have hb : ∀ x, (x - (x &&& rwMask r i a) ||| vals.getD a 0 &&& rwMask r i a) % 2 ^ 32 =
        if x < 2 ^ 32 then (x - (x &&& rwMask r i a) ||| vals.getD a 0 &&& rwMask r i a) else
          (x - (x &&& rwMask r i a) ||| vals.getD a 0 &&& rwMask r i a) % 2 ^ 32 := by
      intro x
      split
      · rename_i hx
        refine Nat.mod_eq_of_lt (Nat.or_lt_two_pow (by omega) ?_)
        exact lt_of_le_of_lt Nat.and_le_right (rwMask_lt r i a)
      · rfl
    dsimp only [curWord, putWord]
    rw [hp]
    simp only [Bool.false_eq_true, if_false]
    by_cases hw : w = a
    · subst hw
      rw [if_neg hn.1, if_pos List.mem_cons_self]
      split
      · rename_i h0
        rw [h0]; simp
      · rw [rword_setRword, hb, if_pos (rword_lt s r fr i w)]
    · have hne : ∀ v, rword (setRword r fr i a v s) r fr i w = rword s r fr i w := fun v =>
        rword_setRword_ne (regKey_word hw)
      have hm : (w ∈ a :: l) = (w ∈ l) := by simp [hw]
      simp only [hm]
      split
      · rw [apply_ite (fun s => rword s r fr i w), hne, ite_self]
      · rw [apply_ite (fun s => rword s r fr i w), hne, ite_self]

theorem rword_storeVals {r : Reg} (hp : (regInfo r).perReq = false) {req fr i : Nat} {vals : List Nat} {w : Nat}
    (hw : w < (regInfo r).words) (s : State) :
    rword (storeVals r req fr i vals s) r fr i w =
      (rword s r fr i w - (rword s r fr i w &&& rwMask r i w)) ||| (vals.getD w 0 &&& rwMask r i w) := by
  have := storeVals_fold hp req fr i vals w (List.range (regInfo r).words) List.nodup_range s
  rw [if_pos (List.mem_range.mpr hw)] at this
  exact this

/-! ### A commit that is taken -/

/-- Only the register interface changes. -/
theorem storeVals_bus (r : Reg) (req fr i : Nat) (vals : List Nat) (s : State) :
    storeVals r req fr i vals s = { s with bus := (storeVals r req fr i vals s).bus } := by
  have key : ∀ (l : List Nat) (f : Nat → State → State), (∀ a u, f a u = { u with bus := (f a u).bus }) →
      forEach l f s = { s with bus := (forEach l f s).bus } := by
    intro l f hf
    unfold forEach
    induction l generalizing s with
    | nil => rfl
    | cons a l ih =>
      rw [List.foldl_cons]
      rw [ih]
      rw [hf a s]
  refine key _ _ fun a u => ?_
  dsimp only
  split
  · rfl
  · unfold putWord
    split <;> rfl

theorem taken_bus (r : Reg) (fr i : Nat) (a : Acc) (s : State) : taken r fr i a s = { s with bus := (taken r fr i a s).bus } := by
  have h : ∀ u : State, ∃ b, parityWritten r a.req.val fr i u = { u with bus := b } := by
    intro u
    unfold parityWritten
    split
    · exact ⟨_, rfl⟩
    · exact ⟨_, rfl⟩
  have g : ∀ u : State, ∃ b, (if (regInfo r).guarded then keyClose (blkFrame (regInfo r).blk fr) u else u) = { u with bus := b } := by
    intro u
    split
    · exact ⟨_, rfl⟩
    · exact ⟨_, rfl⟩
  unfold taken
  dsimp only
  obtain ⟨b1, e1⟩ := g (dropStage r a.req.val fr i (served (blkFrame (regInfo r).blk fr) a.req.val s))
  rw [e1]
  obtain ⟨b2, e2⟩ := h (storeVals r a.req.val fr i (commitVals s r fr i a) { dropStage r a.req.val fr i (served (blkFrame (regInfo r).blk fr) a.req.val s) with bus := b1 })
  rw [e2, storeVals_bus]
  rfl

@[simp] theorem taken_pending (r : Reg) (fr i : Nat) (a : Acc) (s : State) : (taken r fr i a s).pending = s.pending := by
  rw [taken_bus]
@[simp] theorem taken_now (r : Reg) (fr i : Nat) (a : Acc) (s : State) : (taken r fr i a s).now = s.now := by
  rw [taken_bus]
@[simp] theorem taken_free (r : Reg) (fr i : Nat) (a : Acc) (s : State) : (taken r fr i a s).free = s.free := by
  rw [taken_bus]
@[simp] theorem taken_rck (r : Reg) (fr i : Nat) (a : Acc) (s : State) : (taken r fr i a s).rck = s.rck := by
  rw [taken_bus]
@[simp] theorem taken_ptp (r : Reg) (fr i : Nat) (a : Acc) (s : State) : (taken r fr i a s).ptp = s.ptp := by
  rw [taken_bus]
@[simp] theorem taken_lane (r : Reg) (fr i : Nat) (a : Acc) (s : State) : (taken r fr i a s).lane = s.lane := by
  rw [taken_bus]
@[simp] theorem taken_lfi (r : Reg) (fr i : Nat) (a : Acc) (s : State) : (taken r fr i a s).lfi = s.lfi := by
  rw [taken_bus]
@[simp] theorem taken_port (r : Reg) (fr i : Nat) (a : Acc) (s : State) : (taken r fr i a s).port = s.port := by
  rw [taken_bus]
@[simp] theorem taken_swt (r : Reg) (fr i : Nat) (a : Acc) (s : State) : (taken r fr i a s).swt = s.swt := by
  rw [taken_bus]
@[simp] theorem taken_ndl (r : Reg) (fr i : Nat) (a : Acc) (s : State) : (taken r fr i a s).ndl = s.ndl := by
  rw [taken_bus]
@[simp] theorem taken_bank (r : Reg) (fr i : Nat) (a : Acc) (s : State) : (taken r fr i a s).bank = s.bank := by
  rw [taken_bus]
@[simp] theorem taken_dist (r : Reg) (fr i : Nat) (a : Acc) (s : State) : (taken r fr i a s).dist = s.dist := by
  rw [taken_bus]
@[simp] theorem taken_skn (r : Reg) (fr i : Nat) (a : Acc) (s : State) : (taken r fr i a s).skn = s.skn := by
  rw [taken_bus]
@[simp] theorem taken_pat (r : Reg) (fr i : Nat) (a : Acc) (s : State) : (taken r fr i a s).pat = s.pat := by
  rw [taken_bus]
@[simp] theorem taken_pl (r : Reg) (fr i : Nat) (a : Acc) (s : State) : (taken r fr i a s).pl = s.pl := by
  rw [taken_bus]
@[simp] theorem taken_joint (r : Reg) (fr i : Nat) (a : Acc) (s : State) : (taken r fr i a s).joint = s.joint := by
  rw [taken_bus]
@[simp] theorem taken_mem (r : Reg) (fr i : Nat) (a : Acc) (s : State) : (taken r fr i a s).mem = s.mem := by
  rw [taken_bus]
@[simp] theorem taken_stl (r : Reg) (fr i : Nat) (a : Acc) (s : State) : (taken r fr i a s).stl = s.stl := by
  rw [taken_bus]
@[simp] theorem taken_eth (r : Reg) (fr i : Nat) (a : Acc) (s : State) : (taken r fr i a s).eth = s.eth := by
  rw [taken_bus]
@[simp] theorem taken_ssw (r : Reg) (fr i : Nat) (a : Acc) (s : State) : (taken r fr i a s).ssw = s.ssw := by
  rw [taken_bus]
@[simp] theorem taken_ft (r : Reg) (fr i : Nat) (a : Acc) (s : State) : (taken r fr i a s).ft = s.ft := by
  rw [taken_bus]
@[simp] theorem taken_arrivals (r : Reg) (fr i : Nat) (a : Acc) (s : State) : (taken r fr i a s).arrivals = s.arrivals := by
  rw [taken_bus]
@[simp] theorem taken_ict (r : Reg) (fr i : Nat) (a : Acc) (s : State) : (taken r fr i a s).ict = s.ict := by
  rw [taken_bus]
@[simp] theorem taken_mbx (r : Reg) (fr i : Nat) (a : Acc) (s : State) : (taken r fr i a s).mbx = s.mbx := by
  rw [taken_bus]
@[simp] theorem taken_sem (r : Reg) (fr i : Nat) (a : Acc) (s : State) : (taken r fr i a s).sem = s.sem := by
  rw [taken_bus]
@[simp] theorem taken_pwr (r : Reg) (fr i : Nat) (a : Acc) (s : State) : (taken r fr i a s).pwr = s.pwr := by
  rw [taken_bus]
@[simp] theorem taken_fcl (r : Reg) (fr i : Nat) (a : Acc) (s : State) : (taken r fr i a s).fcl = s.fcl := by
  rw [taken_bus]
@[simp] theorem taken_ldg (r : Reg) (fr i : Nat) (a : Acc) (s : State) : (taken r fr i a s).ldg = s.ldg := by
  rw [taken_bus]
@[simp] theorem taken_tly (r : Reg) (fr i : Nat) (a : Acc) (s : State) : (taken r fr i a s).tly = s.tly := by
  rw [taken_bus]
@[simp] theorem taken_sth (r : Reg) (fr i : Nat) (a : Acc) (s : State) : (taken r fr i a s).sth = s.sth := by
  rw [taken_bus]
@[simp] theorem taken_sec (r : Reg) (fr i : Nat) (a : Acc) (s : State) : (taken r fr i a s).sec = s.sec := by
  rw [taken_bus]
@[simp] theorem taken_mag (r : Reg) (fr i : Nat) (a : Acc) (s : State) : (taken r fr i a s).mag = s.mag := by
  rw [taken_bus]
@[simp] theorem taken_magIn (r : Reg) (fr i : Nat) (a : Acc) (s : State) : (taken r fr i a s).magIn = s.magIn := by
  rw [taken_bus]
@[simp] theorem taken_prt (r : Reg) (fr i : Nat) (a : Acc) (s : State) : (taken r fr i a s).prt = s.prt := by
  rw [taken_bus]

/-- The words of a register that is held once, after a commit. -/
theorem rword_taken {r : Reg} (hp : (regInfo r).perReq = false) {fr i : Nat} {a : Acc} {w : Nat}
    (hw : w < (regInfo r).words) (s : State) :
    rword (taken r fr i a s) r fr i w =
      (rword s r fr i w - (rword s r fr i w &&& rwMask r i w)) ||| ((commitVals s r fr i a).getD w 0 &&& rwMask r i w) := by
  have hpar : ∀ u : State, rword (parityWritten r a.req.val fr i u) r fr i w = rword u r fr i w := by
    intro u; unfold parityWritten; split <;> rfl
  have hkey : ∀ u : State, rword (if (regInfo r).guarded then keyClose (blkFrame (regInfo r).blk fr) u else u) r fr i w =
      rword u r fr i w := by
    intro u; split <;> rfl
  unfold taken
  dsimp only
  rw [hpar, rword_storeVals hp hw, hkey]
  rfl

/-- A field of a register that is held once, after a commit. -/
theorem fld_taken {f : FieldRef} (hp : (regInfo f.reg).perReq = false) {fr i : Nat} {a : Acc}
    (hw : f.word < (regInfo f.reg).words) (hm : bitsOf (rwMask f.reg i f.word) f.lo f.width = 2 ^ f.width - 1) (s : State) :
    fld (taken f.reg fr i a s) f fr i = valOf (commitVals s f.reg fr i a) f := by
  unfold fld valOf
  rw [rword_taken hp hw, bitsOf_merge hm]

/-- The words of other registers and instances are as they were. -/
theorem taken_regs {r : Reg} (hp : (regInfo r).perReq = false) (fr i : Nat) (a : Acc) (s : State) :
    RegsBut ((List.range (regInfo r).words).map (regKey r fr i)) s (taken r fr i a s) := by
  have hpar : ∀ u : State, (parityWritten r a.req.val fr i u).bus.regs = u.bus.regs := by
    intro u; unfold parityWritten; split <;> rfl
  have hkey : ∀ u : State, (if (regInfo r).guarded then keyClose (blkFrame (regInfo r).blk fr) u else u).bus.regs = u.bus.regs := by
    intro u; split <;> rfl
  have key : ∀ (l : List Nat) (vals : List Nat) (u : State), (∀ w ∈ l, w < (regInfo r).words) →
      RegsBut ((List.range (regInfo r).words).map (regKey r fr i)) u (forEach l (fun w s =>
        let m := rwMask r i w
        if m = 0 then s
        else
          let old := curWord s r a.req.val fr i w
          putWord r a.req.val fr i w ((old - (old &&& m)) ||| (vals.getD w 0 &&& m)) s) u) := by
    intro l vals
    unfold forEach
    induction l with
    | nil => exact fun u _ => .refl _ _
    | cons b l ih =>
      intro u h
      rw [List.foldl_cons]
      refine RegsBut.trans ?_ (ih _ fun w hw => h w (List.mem_cons_of_mem _ hw))
      dsimp only [curWord, putWord]
      rw [hp]
      simp only [Bool.false_eq_true, if_false]
      split
      · exact .refl _ _
      · exact (RegsBut.refl _ u).setRword (List.mem_map.mpr ⟨b, List.mem_range.mpr (h b List.mem_cons_self), rfl⟩)
  unfold taken
  dsimp only
  refine RegsBut.same ?_ (hpar _)
  refine RegsBut.trans ?_ (key _ _ _ fun w hw => List.mem_range.mp hw)
  exact .of_eq (hkey _)

/-- What no element's change alters. -/
theorem forEach_same {α β : Type} {l : List α} {f : α → State → State} (g : State → β) (hf : ∀ a u, g (f a u) = g u)
    (s : State) : g (forEach l f s) = g s := by
  unfold forEach
  induction l generalizing s with
  | nil => rfl
  | cons a l ih => rw [List.foldl_cons, ih, hf]

theorem storeVals_same {β : Type} (g : State → β) (h : ∀ (b : Tab Word) (u : State),
    g { u with bus := { u.bus with regs := b } } = g u) (r : Reg) (req fr i : Nat) (vals : List Nat) (s : State) :
    g (storeVals r req fr i vals s) = g s := by
  refine forEach_same g (fun a u => ?_) s
  dsimp only
  split
  · rfl
  · unfold putWord
    split
    · exact h _ _
    · exact h _ _

theorem parityWritten_same {β : Type} (g : State → β) (h : ∀ (a b : Tab Bool) (c : List Nat) (u : State),
    g { u with bus := { u.bus with parBad := a, parReported := b, wroteNow := c } } = g u) (r : Reg) (req fr i : Nat)
    (s : State) : g (parityWritten r req fr i s) = g s := by
  unfold parityWritten
  split
  · exact h _ _ _ _
  · rfl

theorem tabGet_tabErase {α : Type} (d : α) (m : Tab α) (k j : Nat) :
    tabGet d (tabErase m k) j = if j = k then d else tabGet d m j := by
  unfold tabGet
  split
  · rename_i h; rw [h, tabFind_tabErase_same]; rfl
  · rename_i h; rw [tabFind_tabErase_ne h]

theorem tabGet_foldl_tabErase {α : Type} (d : α) (key : Nat → Nat) (l : List Nat) (m : Tab α) (j : Nat) :
    tabGet d (l.foldl (fun t w => tabErase t (key w)) m) j = if j ∈ l.map key then d else tabGet d m j := by
  induction l generalizing m with
  | nil => rfl
  | cons a l ih =>
    rw [List.foldl_cons, ih, tabGet_tabErase, List.map_cons]
    by_cases h : j = key a
    · simp [h]
    · simp [h]

/-- A commit ends the requester's staging for the register (R57). -/
theorem taken_staged (r : Reg) (fr i : Nat) (a : Acc) {w : Nat} (hw : w < (regInfo r).words) (s : State) :
    tabGet none (taken r fr i a s).bus.staged (stageKey a.req.val (regKey r fr i w)) = none := by
  unfold taken
  dsimp only
  rw [parityWritten_same (fun u => u.bus.staged) (fun _ _ _ _ => rfl),
    storeVals_same (fun u => u.bus.staged) (fun _ _ => rfl)]
  have hk : ∀ u : State, (if (regInfo r).guarded then keyClose (blkFrame (regInfo r).blk fr) u else u).bus.staged =
      u.bus.staged := by intro u; split <;> rfl
  rw [hk]
  refine (tabGet_foldl_tabErase none (fun w => stageKey a.req.val (regKey r fr i w)) _ _ _).trans ?_
  rw [if_pos (List.mem_map.mpr ⟨w, List.mem_range.mpr hw, rfl⟩)]

theorem taken_keys (r : Reg) (fr i : Nat) (a : Acc) (s : State) :
    (taken r fr i a s).bus.keys = if (regInfo r).guarded then
      (keyClose (blkFrame (regInfo r).blk fr) s).bus.keys else s.bus.keys := by
  unfold taken
  dsimp only
  rw [parityWritten_same (fun u => u.bus.keys) (fun _ _ _ _ => rfl),
    storeVals_same (fun u => u.bus.keys) (fun _ _ => rfl)]
  split <;> rfl

/-- A commit of a guarded register closes the unlock of its frame (R68). -/
theorem taken_closes {r : Reg} (hg : (regInfo r).guarded = true) (fr i : Nat) (a : Acc) (s : State) :
    keyLeft (taken r fr i a s) (blkFrame (regInfo r).blk fr) = 0 := by
  unfold keyLeft keyOf
  rw [taken_keys, hg, if_pos rfl]
  unfold keyClose modKey
  rw [tabGet_tabMod_same]
  exact Nat.zero_sub _

/-! ### Changes of register words alone -/

theorem OnlyRegs.refl (s : State) : OnlyRegs s s := rfl

theorem OnlyRegs.setRword {s u : State} (h : OnlyRegs s u) (r : Reg) (fr i w v : Nat) :
    OnlyRegs s (setRword r fr i w v u) := by
  unfold OnlyRegs at *
  rw [h]
  rfl

theorem OnlyRegs.setFld {s u : State} (h : OnlyRegs s u) (f : FieldRef) (v fr i : Nat) :
    OnlyRegs s (setFld f v u fr i) := h.setRword _ _ _ _ _

theorem OnlyRegs.bump {s u : State} (h : OnlyRegs s u) (f : FieldRef) (n fr i : Nat) :
    OnlyRegs s (bump f u fr i n) := h.setRword _ _ _ _ _

theorem OnlyRegs.trans {s t u : State} (h : OnlyRegs s t) (g : OnlyRegs t u) : OnlyRegs s u := by
  unfold OnlyRegs at *
  rw [g, h]

/-- A bus error changes register words alone. -/
theorem busError_only (req addr : Nat) (wr : Bool) (c : Berr) (s : State) : OnlyRegs s (busError req addr wr c s) := by
  unfold busError
  dsimp only
  split
  · exact (((((((OnlyRegs.refl s).bump _ _ _ _).setRword _ _ _ _ _).setRword _ _ _ _ _).setFld _ _ _ _).setFld _ _ _ _).setFld
      _ _ _ _).setFld _ _ _ _
  · exact (OnlyRegs.refl s).bump _ _ _ _

end Sys2Proof.Machine
end

