-- ==== Sys2Proof/Laws/Modes.lean ====
section
/-! SUPPORT. What interrupt events and changes of mode do to PWR. -/

namespace Sys2Proof.Machine

/-- PWR is as it was, but for the wake event, HOLDAW and the domain switchings that interrupt events bring (R684, R687,
R780). -/
def PwrKept (s t : State) : Prop :=
  t.pwr = { s.pwr with wake := t.pwr.wake, holdaw := t.pwr.holdaw, switching := t.pwr.switching }

theorem PwrKept.of_eq {s t : State} (h : t.pwr = s.pwr) : PwrKept s t := by
  unfold PwrKept; rw [h]

theorem PwrKept.refl (s : State) : PwrKept s s := .of_eq rfl

theorem PwrKept.trans {s t u : State} (h : PwrKept s t) (g : PwrKept t u) : PwrKept s u := by
  unfold PwrKept at *
  rw [g, h]

theorem PwrKept.forEach {α : Type} {l : List α} {f : α → State → State} (s : State) (hf : ∀ a u, PwrKept u (f a u)) :
    PwrKept s (forEach l f s) := by
  unfold Machine.forEach
  induction l generalizing s with
  | nil => exact .refl _
  | cons a l ih => exact (hf a s).trans (ih (f a s))

theorem PwrKept.mode {s t : State} (h : PwrKept s t) : t.pwr.mode = s.pwr.mode := by
  unfold PwrKept at h; rw [h]
theorem PwrKept.prev {s t : State} (h : PwrKept s t) : t.pwr.prev = s.pwr.prev := by
  unfold PwrKept at h; rw [h]
theorem PwrKept.cause {s t : State} (h : PwrKept s t) : t.pwr.cause = s.pwr.cause := by
  unfold PwrKept at h; rw [h]
theorem PwrKept.held {s t : State} (h : PwrKept s t) : t.pwr.held = s.pwr.held := by
  unfold PwrKept at h; rw [h]
theorem PwrKept.up {s t : State} (h : PwrKept s t) : t.pwr.up = s.pwr.up := by
  unfold PwrKept at h; rw [h]
theorem PwrKept.iso {s t : State} (h : PwrKept s t) : t.pwr.iso = s.pwr.iso := by
  unfold PwrKept at h; rw [h]
theorem PwrKept.resetHigh {s t : State} (h : PwrKept s t) : t.pwr.resetHigh = s.pwr.resetHigh := by
  unfold PwrKept at h; rw [h]
theorem PwrKept.baseUp {s t : State} (h : PwrKept s t) : baseUp t = baseUp s := by
  unfold Machine.baseUp; rw [h.mode, h.resetHigh]
theorem PwrKept.domUp {s t : State} (h : PwrKept s t) (d : Nat) : domUp t d = domUp s d := by
  unfold Machine.domUp; rw [h.up]

theorem ictSettle_pwr' (s : State) : PwrKept s (ictSettle s) := .of_eq (by simp)

theorem wakeCore_pwr (c : Nat) (s : State) : PwrKept s (wakeCore c s).1 := by
  unfold wakeCore
  split
  · show PwrKept s (bump F.ICT_CNT_WAKES _)
    rfl
  · split
    · exact .of_eq rfl
    · dsimp only
      split
      · show PwrKept s (askUp _ _)
        unfold askUp
        split
        · exact .of_eq rfl
        · rfl
      · exact .of_eq rfl

theorem srcArrive_pwr (src : Nat) (s : State) : PwrKept s (srcArrive src s).1 := by
  unfold srcArrive
  split
  · exact .refl _
  · split
    · exact .refl _
    · exact .of_eq rfl

theorem doWakes_pwr' (l : List Nat) (s : State) : PwrKept s (doWakes l s) := by
  unfold doWakes
  refine .forEach _ fun c u => ?_
  have h := wakeCore_pwr c u
  split
  · rename_i e; rw [e] at h; exact h
  · rename_i v e
    rw [e] at h
    have g := srcArrive_pwr 775 v
    split
    rename_i w cs e2
    rw [e2] at g
    exact (h.trans g).trans (.forEach _ fun c u => wakeCore_pwr c u)

/-- An interrupt event changes no mode and no domain. -/
theorem raise_pwr' (src : Nat) (s : State) : PwrKept s (raise src s) := by
  have h := srcArrive_pwr src s
  unfold raise
  split
  rename_i u cs e
  rw [e] at h
  exact (h.trans (doWakes_pwr' _ _)).trans (ictSettle_pwr' _)

@[simp] theorem raise_mode (src : Nat) (s : State) : (raise src s).pwr.mode = s.pwr.mode := (raise_pwr' src s).mode
@[simp] theorem raise_baseUp (src : Nat) (s : State) : baseUp (raise src s) = baseUp s := (raise_pwr' src s).baseUp
@[simp] theorem raise_domUp (src : Nat) (s : State) (d : Nat) : domUp (raise src s) d = domUp s d :=
  (raise_pwr' src s).domUp d

theorem setNdlSt_pwr' (n : Nat) (st : NdlSt) (s : State) : PwrKept s (setNdlSt n st s) := by
  unfold setNdlSt
  split
  · exact .refl _
  · refine PwrKept.trans ?_ (raise_pwr' _ _)
    exact .of_eq rfl

theorem frozenStops_pwr' (s : State) : PwrKept s (frozenStops s) := by
  have h : PwrKept s (frozenNeedles s) := .forEach _ fun n u => by
    unfold askHalt
    dsimp only
    split
    · exact .of_eq rfl
    · split
      · exact .refl _
      · exact setNdlSt_pwr' _ _ _
  exact h.trans (.of_eq rfl)

theorem modeEntry_pwr' (m : Mode) (s : State) : PwrKept s (modeEntry m s) := by
  unfold modeEntry
  split
  · rfl
  · rfl
  · rfl
  · exact frozenStops_pwr' s
  · exact .refl _

/-- A record queued while the queue has room leaves PWR alone but for LDGQ's wakes. -/
theorem ldgPush_pwr' (r : LdgRec) (s : State) (h : s.ldg.queue.length < 32) : PwrKept s (ldgPush r s) := by
  have hq : ∀ u : State, PwrKept u (if u.ldg.queue.length = 24 then raise 788 u else u) := by
    intro u; split
    · exact raise_pwr' _ _
    · exact .refl _
  unfold ldgPush ldgPushOr
  split
  · exact .refl _
  · rw [if_neg (by omega)]
    refine PwrKept.trans ?_ (hq { s with ldg := { s.ldg with queue := s.ldg.queue ++ [r] } })
    exact .of_eq rfl

/-- A change of mode while the Ledger's queue has room (R786). -/
theorem setMode_pwr' (m : Mode) (cause : Nat) (s : State) (h : s.ldg.queue.length < 32) :
    (setMode m cause s).pwr.mode = m ∧ (setMode m cause s).pwr.prev = s.pwr.mode ∧ (setMode m cause s).pwr.cause = cause ∧
      (setMode m cause s).pwr.held = (decide (m = .degraded) && decide (s.rck.servo = .hold)) ∧
      (setMode m cause s).pwr.up = s.pwr.up ∧ (setMode m cause s).pwr.iso = s.pwr.iso ∧
      (setMode m cause s).pwr.resetHigh = s.pwr.resetHigh := by
  unfold setMode setModeOr
  dsimp only
  generalize hu : ({ s with pwr := { s.pwr with
    mode := m, prev := s.pwr.mode, cause := cause, held := decide (m = .degraded) && decide (s.rck.servo = .hold)
    armedOnce := s.pwr.armedOnce || decide (m = .armed)
    degradedFrom := if m = .degraded then s.pwr.mode else s.pwr.degradedFrom } } : State) = u
  have hl : (raise 772 u).ldg.queue.length < 32 := by
    rw [raise_ldg, ← hu]; exact h
  have k := ((raise_pwr' 772 u).trans (ldgPush_pwr' (mkRec (raise 772 u) 2 0 [m.code, s.pwr.mode.code, cause]) _ hl)).trans
    (modeEntry_pwr' m _)
  refine ⟨k.mode.trans ?_, k.prev.trans ?_, k.cause.trans ?_, k.held.trans ?_, k.up.trans ?_, k.iso.trans ?_, k.resetHigh.trans ?_⟩ <;> rw [← hu]

end Sys2Proof.Machine
end

