-- ==== Sys2Proof/Laws/UptoFreeze.lean ====
section
/-! SUPPORT. What each operation of Machine/Freeze.lean leaves unchanged (Laws/Upto.lean). -/

set_option linter.unusedTactic false
set_option linter.unreachableTactic false

namespace Sys2Proof.Machine

theorem pickLink_upto {m : Nat} {s0 : State} {links : List Nat} {dst : Nat} {msg : StMsg} {s : State} (h : Upto
    m s0 s) (hm : Sub 0x4000000 m) :
    Upto m s0 (pickLink links dst msg s).2 := by
  unfold pickLink
  try dsimp only
  repeat' first
    | with_reducible assumption
    | with_reducible apply modSth_upto
    | split

theorem linkSend_upto {m : Nat} {s0 : State} {k : Nat} {src : Nat} {dst : Nat} {msg : StMsg} {s : State} (h :
    Upto m s0 s) (hm : Sub 0x4000000 m) :
    Upto m s0 (linkSend k src dst msg s) := by
  unfold linkSend
  try dsimp only
  repeat' first
    | with_reducible assumption
    | with_reducible apply modLink_upto

theorem routeMsg_upto {m : Nat} {s0 : State} {src : Nat} {dst : Nat} {msg : StMsg} {s : State} (h : Upto m s0 s)
    (hm : Sub 0x4000000 m) :
    Upto m s0 (routeMsg src dst msg s) := by
  unfold routeMsg
  try dsimp only
  repeat' first
    | with_reducible assumption
    | with_reducible apply pickLink_upto
    | with_reducible apply linkSend_upto
    | with_reducible refine Upto.snd (by assumption) ?_
    | split

theorem sendMsg_upto {m : Nat} {s0 : State} {dst : Nat} {msg : StMsg} {s : State} (h : Upto m s0 s) (hm : Sub
    0x4000000 m) :
    Upto m s0 (sendMsg dst msg s) := by
  unfold sendMsg
  try dsimp only
  repeat' first
    | with_reducible assumption
    | with_reducible apply routeMsg_upto

theorem lossQueue_upto {m : Nat} {s0 : State} {n : LossNotice} {s : State} (h : Upto m s0 s) (hm : Sub
    0x84480000 m) :
    Upto m s0 (lossQueue n s) := by
  unfold lossQueue
  try dsimp only
  repeat' first
    | with_reducible assumption
    | ((with_reducible refine Sub.of hm ?_); rfl)
    | with_reducible apply modSth_upto
    | with_reducible apply raise_upto
    | with_reducible apply Upto.ite

theorem lossNotice_upto {m : Nat} {s0 : State} {n : LossNotice} {s : State} (h : Upto m s0 s) (hm : Sub
    0x84480000 m) :
    Upto m s0 (lossNotice n s) := by
  unfold lossNotice
  try dsimp only
  repeat' first
    | with_reducible assumption
    | ((with_reducible refine Sub.of hm ?_); rfl)
    | with_reducible apply sendMsg_upto
    | with_reducible apply modSth_upto
    | with_reducible apply lossQueue_upto
    | with_reducible apply Upto.ite

theorem freezeOut_upto {m : Nat} {s0 : State} {n : Nat} {k : Nat} {b : Nat} {s : State} (h : Upto m s0 s) (hm :
    Sub 0x80480800 m) :
    Upto m s0 (freezeOut n k b s).1 := by
  unfold freezeOut
  try dsimp only
  repeat' first
    | with_reducible assumption
    | ((with_reducible refine Sub.of hm ?_); rfl)
    | with_reducible apply modEnc_upto
    | with_reducible apply raise_upto
    | with_reducible apply Upto.ite

theorem freezeSlot_upto {m : Nat} {s0 : State} {b : Nat} {n : Nat} {s : State} (h : Upto m s0 s) (hm : Sub
    0x84480880 m) :
    Upto m s0 (freezeSlot b n s) := by
  unfold freezeSlot
  try dsimp only
  repeat' first
    | with_reducible assumption
    | intro _
    | ((with_reducible refine Sub.of hm ?_); rfl)
    | with_reducible apply askAbort_upto
    | with_reducible apply freezeOut_upto
    | with_reducible apply modPat_upto
    | with_reducible apply lossNotice_upto
    | with_reducible apply Upto.forEach
    | with_reducible apply Upto.foldl_fst
    | with_reducible apply Upto.ite

theorem setBay_upto {m : Nat} {s0 : State} {b : Nat} {st : BaySt} {s : State} (h : Upto m s0 s) (hm : Sub
    0x2080480000 m) :
    Upto m s0 (setBay b st s) := by
  unfold setBay
  try dsimp only
  repeat' first
    | with_reducible assumption
    | ((with_reducible refine Sub.of hm ?_); rfl)
    | with_reducible apply raise_upto
    | with_reducible apply modBay_upto
    | with_reducible apply Upto.ite

theorem captureUe_upto {m : Nat} {s0 : State} {c : Nat} {kind : Nat} {u : Nat} {req : Nat} {synd1 : Nat} {synd2
    : Nat} {raw : Nat} {wheld : Nat} {rref : Nat} {s : State} (h : Upto m s0 s) (hm : Sub 0x80000000 m) :
    Upto m s0 (captureUe c kind u req synd1 synd2 raw wheld rref s) := by
  unfold captureUe
  try dsimp only
  repeat' first
    | with_reducible assumption
    | with_reducible apply setRword_upto

theorem bayFreeze_upto {m : Nat} {s0 : State} {c : Nat} {kind : Nat} {u : Nat} {req : Nat} {synd1 : Nat} {synd2
    : Nat} {raw : Nat} {wheld : Nat} {rref : Nat} {s : State} (h : Upto m s0 s) (hm : Sub 0x20d7c80880 m) :
    Upto m s0 (bayFreeze c kind u req synd1 synd2 raw wheld rref s) := by
  unfold bayFreeze
  try dsimp only
  repeat' first
    | with_reducible assumption
    | intro _
    | ((with_reducible refine Sub.of hm ?_); rfl)
    | with_reducible apply modBay_upto
    | with_reducible apply setBay_upto
    | with_reducible apply modMch_upto
    | with_reducible apply tally_upto
    | with_reducible apply captureUe_upto
    | with_reducible apply freezeSlot_upto
    | with_reducible apply setMode_upto
    | with_reducible apply report_upto
    | with_reducible apply Upto.forEach
    | with_reducible apply Upto.ite
    | split

end Sys2Proof.Machine
end

