-- ==== Sys2Proof/Laws/UptoMemory.lean ====
section
/-! SUPPORT. What each operation of Machine/Memory.lean leaves unchanged (Laws/Upto.lean). -/

set_option linter.unusedTactic false
set_option linter.unreachableTactic false

namespace Sys2Proof.Machine

theorem rldPut_upto {m : Nat} {s0 : State} {b : Nat} {x : Nat} {v : Native} {s : State} (h : Upto m s0 s) (hm :
    Sub 0x2000000000 m) :
    Upto m s0 (rldPut b x v s) := by
  unfold rldPut
  try dsimp only
  repeat' first
    | with_reducible assumption
    | with_reducible apply modMem_upto
    | (constructor
       all_goals first
         | exact fun _ => rfl
         | exact fun _ => ⟨rfl, rfl⟩
         | exact fun _ => ⟨rfl, rfl, rfl, rfl, rfl⟩
         | (intro k; exact absurd ((hm.bit rfl).symm.trans k) (by decide))
         | (intro w; rw [Memory.wf_iff] at *; obtain ⟨w1, w2, w3, w4, w5, w6, w7, w8, w9, w10⟩ := w
            refine ⟨?_, ?_, ?_, ?_, ?_, ?_, ?_, ?_, ?_, ?_⟩
            all_goals try dsimp only
            all_goals first
              | assumption
              | (apply tabWf_tabSet; assumption)
              | (apply tabWf_tabErase; assumption)
              | (apply tabWf_tabMod; assumption)
              | (apply tabWf_filter; assumption)))

theorem rldUpset_upto {m : Nat} {s0 : State} {l : List (Nat × BitVec 80)} {s : State} (h : Upto m s0 s) (hm :
    Sub 0x2000000000 m) :
    Upto m s0 (rldUpset l s) := by
  unfold rldUpset
  try dsimp only
  repeat' first
    | with_reducible assumption
    | intro _
    | with_reducible apply modMem_upto
    | with_reducible apply Upto.forEach
    | (constructor
       all_goals first
         | exact fun _ => rfl
         | exact fun _ => ⟨rfl, rfl⟩
         | exact fun _ => ⟨rfl, rfl, rfl, rfl, rfl⟩
         | (intro k; exact absurd ((hm.bit rfl).symm.trans k) (by decide))
         | (intro w; rw [Memory.wf_iff] at *; obtain ⟨w1, w2, w3, w4, w5, w6, w7, w8, w9, w10⟩ := w
            refine ⟨?_, ?_, ?_, ?_, ?_, ?_, ?_, ?_, ?_, ?_⟩
            all_goals try dsimp only
            all_goals first
              | assumption
              | (apply tabWf_tabSet; assumption)
              | (apply tabWf_tabErase; assumption)
              | (apply tabWf_tabMod; assumption)
              | (apply tabWf_filter; assumption)))

theorem throttle_upto {m : Nat} {s0 : State} {c : Nat} {req : Nat} {bank : Nat} {s : State} (h : Upto m s0 s)
    (hm : Sub 0x2080000000 m) :
    Upto m s0 (throttle c req bank s) := by
  unfold throttle
  try dsimp only
  repeat' first
    | with_reducible assumption
    | ((with_reducible refine Sub.of hm ?_); rfl)
    | with_reducible apply bump_upto
    | with_reducible apply modMch_upto
    | with_reducible apply Upto.ite

theorem activate_upto {m : Nat} {s0 : State} {c : Nat} {u : Nat} {req : Nat} {s : State} (h : Upto m s0 s) (hm :
    Sub 0x20d3c80080 m) :
    Upto m s0 (activate c u req s) := by
  unfold activate
  try dsimp only
  repeat' first
    | with_reducible assumption
    | ((with_reducible refine Sub.of hm ?_); rfl)
    | with_reducible apply modMch_upto
    | with_reducible apply bump_upto
    | with_reducible apply setRword_upto
    | with_reducible apply report_upto
    | with_reducible apply throttle_upto
    | with_reducible apply Upto.ite

theorem rldFix_upto {m : Nat} {s0 : State} {c : Nat} {u : Nat} {b : Nat} {x : Nat} {v : Nat} {s : State} (h :
    Upto m s0 s) (hm : Sub 0x2082000000 m) :
    Upto m s0 (rldFix c u b x v s) := by
  unfold rldFix
  try dsimp only
  repeat' first
    | with_reducible assumption
    | ((with_reducible refine Sub.of hm ?_); rfl)
    | with_reducible apply setRword_upto
    | with_reducible apply bump_upto
    | with_reducible apply tally_upto
    | with_reducible apply rldPut_upto

theorem rldGot_upto {m : Nat} {s0 : State} {c : Nat} {u : Nat} {b : Nat} {x : Nat} {raw : Nat} {s : State} (h :
    Upto m s0 s) (hm : Sub 0x2082000000 m) :
    Upto m s0 (rldGot c u b x raw s) := by
  unfold rldGot
  try dsimp only
  repeat' first
    | with_reducible assumption
    | with_reducible apply rldFix_upto
    | with_reducible apply Upto.ite

theorem capRetry_upto {m : Nat} {s0 : State} {c : Nat} {e : RldErr} {s : State} (h : Upto m s0 s) (hm : Sub
    0x80000000 m) :
    Upto m s0 (capRetry c e s).1 := by
  unfold capRetry
  try dsimp only
  repeat' first
    | with_reducible assumption
    | with_reducible apply bump_upto
    | split

theorem rldJudge_upto {m : Nat} {s0 : State} {c : Nat} {u : Nat} {b : Nat} {x : Nat} {req : Nat} {raw : Nat}
    {raw2 : Nat} {wheld : Nat} {rref : Nat} {o1 : Option Nat} {o2 : Option Nat} {s : State} (h : Upto m s0 s) (hm :
    Sub 0x20d7c80880 m) :
    Upto m s0 (rldJudge c u b x req raw raw2 wheld rref o1 o2 s).2 := by
  unfold rldJudge
  try dsimp only
  repeat' first
    | with_reducible assumption
    | ((with_reducible refine Sub.of hm ?_); rfl)
    | with_reducible apply rldGot_upto
    | with_reducible apply bayFreeze_upto
    | with_reducible apply bump_upto
    | split

theorem rldReadAt_upto {m : Nat} {s0 : State} {b : Nat} {x : Nat} {req : Nat} {wheld : Nat} {rref : Nat} {e :
    RldErr} {s : State} (h : Upto m s0 s) (hm : Sub 0x20d7c80880 m) :
    Upto m s0 (rldReadAt b x req wheld rref e s).2 := by
  unfold rldReadAt
  try dsimp only
  repeat' first
    | with_reducible assumption
    | ((with_reducible refine Sub.of hm ?_); rfl)
    | with_reducible apply capRetry_upto
    | with_reducible apply bayFreeze_upto
    | with_reducible apply rldJudge_upto
    | split

theorem rldRead_upto {m : Nat} {s0 : State} {b : Nat} {x : Nat} {req : Nat} {wheld : Nat} {rref : Nat} {e :
    RldErr} {s : State} (h : Upto m s0 s) (hm : Sub 0x20d7c80880 m) :
    Upto m s0 (rldRead b x req wheld rref e s).2 := by
  unfold rldRead
  try dsimp only
  repeat' first
    | with_reducible assumption
    | ((with_reducible refine Sub.of hm ?_); rfl)
    | with_reducible apply rldReadAt_upto
    | with_reducible apply activate_upto

theorem rldWrite_upto {m : Nat} {s0 : State} {b : Nat} {o : Nat} {n : Nat} {req : Nat} {data : Native} {e :
    RldErr} {s : State} (h : Upto m s0 s) (hm : Sub 0x20d7c80880 m) :
    Upto m s0 (rldWrite b o n req data e s).2 := by
  unfold rldWrite
  try dsimp only
  repeat' first
    | with_reducible assumption
    | ((with_reducible refine Sub.of hm ?_); rfl)
    | with_reducible apply capRetry_upto
    | with_reducible apply activate_upto
    | with_reducible apply bayFreeze_upto
    | with_reducible apply rldPut_upto
    | with_reducible apply rldRead_upto
    | with_reducible refine Upto.snd (by assumption) ?_
    | split

theorem skmPut_upto {m : Nat} {s0 : State} {k : Nat} {w : Nat} {v : Native} {s : State} (h : Upto m s0 s) (hm :
    Sub 0x800000000 m) :
    Upto m s0 (skmPut k w v s) := by
  unfold skmPut
  try dsimp only
  repeat' first
    | with_reducible assumption
    | with_reducible apply modMem_upto
    | (constructor
       all_goals first
         | exact fun _ => rfl
         | exact fun _ => ⟨rfl, rfl⟩
         | exact fun _ => ⟨rfl, rfl, rfl, rfl, rfl⟩
         | (intro k; exact absurd ((hm.bit rfl).symm.trans k) (by decide))
         | (intro w; rw [Memory.wf_iff] at *; obtain ⟨w1, w2, w3, w4, w5, w6, w7, w8, w9, w10⟩ := w
            refine ⟨?_, ?_, ?_, ?_, ?_, ?_, ?_, ?_, ?_, ?_⟩
            all_goals try dsimp only
            all_goals first
              | assumption
              | (apply tabWf_tabSet; assumption)
              | (apply tabWf_tabErase; assumption)
              | (apply tabWf_tabMod; assumption)
              | (apply tabWf_filter; assumption)))

theorem skmRead_upto {m : Nat} {s0 : State} {k : Nat} {w : Nat} {s : State} (h : Upto m s0 s) (hm : Sub
    0x8d3c80080 m) :
    Upto m s0 (skmRead k w s).2 := by
  unfold skmRead
  try dsimp only
  repeat' first
    | with_reducible assumption
    | ((with_reducible refine Sub.of hm ?_); rfl)
    | with_reducible apply skmPut_upto
    | with_reducible apply tally_upto
    | with_reducible apply bump_upto
    | with_reducible apply setFld_upto
    | with_reducible apply report_upto
    | split

theorem skmWrite_upto {m : Nat} {s0 : State} {k : Nat} {o : Nat} {n : Nat} {data : Native} {s : State} (h : Upto
    m s0 s) (hm : Sub 0x8d3c80080 m) :
    Upto m s0 (skmWrite k o n data s).2 := by
  unfold skmWrite
  try dsimp only
  repeat' first
    | with_reducible assumption
    | ((with_reducible refine Sub.of hm ?_); rfl)
    | with_reducible apply skmPut_upto
    | with_reducible apply skmRead_upto
    | with_reducible refine Upto.snd (by assumption) ?_
    | split

theorem sramWrite_upto {m : Nat} {s0 : State} {a0 : Nat} {a1 : Nat} {a2 : Nat} {a3 : State} (h : Upto m s0 a3)
    (hm : Sub 0x400000000 m) :
    Upto m s0 (sramWrite a0 a1 a2 a3) := by
  induction a0 generalizing a1 a2 a3 with
  | zero =>
    unfold sramWrite
    try dsimp only
    repeat' first
      | with_reducible assumption
      | with_reducible apply modMem_upto
      | (constructor
         all_goals first
           | exact fun _ => rfl
           | exact fun _ => ⟨rfl, rfl⟩
           | exact fun _ => ⟨rfl, rfl, rfl, rfl, rfl⟩
           | (intro k; exact absurd ((hm.bit rfl).symm.trans k) (by decide))
           | (intro w; rw [Memory.wf_iff] at *; obtain ⟨w1, w2, w3, w4, w5, w6, w7, w8, w9, w10⟩ := w
              refine ⟨?_, ?_, ?_, ?_, ?_, ?_, ?_, ?_, ?_, ?_⟩
              all_goals try dsimp only
              all_goals first
                | assumption
                | (apply tabWf_tabSet; assumption)
                | (apply tabWf_tabErase; assumption)
                | (apply tabWf_tabMod; assumption)
                | (apply tabWf_filter; assumption)))
  | succ n1 ih =>
    unfold sramWrite
    try dsimp only
    repeat' first
      | with_reducible assumption
      | with_reducible apply ih
      | with_reducible apply modMem_upto
      | (constructor
         all_goals first
           | exact fun _ => rfl
           | exact fun _ => ⟨rfl, rfl⟩
           | exact fun _ => ⟨rfl, rfl, rfl, rfl, rfl⟩
           | (intro k; exact absurd ((hm.bit rfl).symm.trans k) (by decide))
           | (intro w; rw [Memory.wf_iff] at *; obtain ⟨w1, w2, w3, w4, w5, w6, w7, w8, w9, w10⟩ := w
              refine ⟨?_, ?_, ?_, ?_, ?_, ?_, ?_, ?_, ?_, ?_⟩
              all_goals try dsimp only
              all_goals first
                | assumption
                | (apply tabWf_tabSet; assumption)
                | (apply tabWf_tabErase; assumption)
                | (apply tabWf_tabMod; assumption)
                | (apply tabWf_filter; assumption)))

theorem lsPut_upto {m : Nat} {s0 : State} {n : Nat} {w : Nat} {v : Native} {s : State} (h : Upto m s0 s) (hm :
    Sub 0x1000000000 m) :
    Upto m s0 (lsPut n w v s) := by
  unfold lsPut
  try dsimp only
  repeat' first
    | with_reducible assumption
    | with_reducible apply modMem_upto
    | (constructor
       all_goals first
         | exact fun _ => rfl
         | exact fun _ => ⟨rfl, rfl⟩
         | exact fun _ => ⟨rfl, rfl, rfl, rfl, rfl⟩
         | (intro k; exact absurd ((hm.bit rfl).symm.trans k) (by decide))
         | (intro w; rw [Memory.wf_iff] at *; obtain ⟨w1, w2, w3, w4, w5, w6, w7, w8, w9, w10⟩ := w
            refine ⟨?_, ?_, ?_, ?_, ?_, ?_, ?_, ?_, ?_, ?_⟩
            all_goals try dsimp only
            all_goals first
              | assumption
              | (apply tabWf_tabSet; assumption)
              | (apply tabWf_tabErase; assumption)
              | (apply tabWf_tabMod; assumption)
              | (apply tabWf_filter; assumption)))

theorem lsRead_upto {m : Nat} {s0 : State} {n : Nat} {w : Nat} {s : State} (h : Upto m s0 s) (hm : Sub
    0x1080000000 m) :
    Upto m s0 (lsRead n w s).2 := by
  unfold lsRead
  try dsimp only
  repeat' first
    | with_reducible assumption
    | ((with_reducible refine Sub.of hm ?_); rfl)
    | with_reducible apply lsPut_upto
    | with_reducible apply bump_upto
    | split

theorem partOf_snd (n o : Nat) (x : MemRes × State) : (partOf n o x).2 = x.2 := by
  unfold partOf
  split <;> rfl

theorem partOf_upto {m : Nat} {s0 : State} {n o : Nat} {x : MemRes × State} (h : Upto m s0 x.2) :
    Upto m s0 (partOf n o x).2 := by
  rw [partOf_snd]; exact h

theorem memRead_upto {m : Nat} {s0 : State} {req : Nat} {a : Nat} {n : Nat} {e : RldErr} {s : State} (h : Upto m
    s0 s) (hm : Sub 0x28d7c80880 m) :
    Upto m s0 (memRead req a n e s).2 := by
  unfold memRead
  try dsimp only
  repeat' first
    | with_reducible assumption
    | ((with_reducible refine Sub.of hm ?_); rfl)
    | with_reducible apply partOf_upto
    | with_reducible apply skmRead_upto
    | with_reducible apply rldRead_upto
    | split

theorem memWrite_upto {m : Nat} {s0 : State} {req : Nat} {a : Nat} {n : Nat} {data : Native} {e : RldErr} {s :
    State} (h : Upto m s0 s) (hm : Sub 0x2cd7c80880 m) :
    Upto m s0 (memWrite req a n data e s).2 := by
  unfold memWrite
  try dsimp only
  repeat' first
    | with_reducible assumption
    | ((with_reducible refine Sub.of hm ?_); rfl)
    | with_reducible apply sramWrite_upto
    | with_reducible apply skmWrite_upto
    | with_reducible apply rldWrite_upto
    | split

theorem accErr_upto {m : Nat} {s0 : State} {req : Nat} {a : Nat} {write : Bool} {x : MemRes × State} (h : Upto m
    s0 (x).2) (hm : Sub 0x80000000 m) :
    Upto m s0 (accErr req a write x).2 := by
  unfold accErr
  try dsimp only
  repeat' first
    | with_reducible assumption
    | with_reducible apply busError_upto
    | split

theorem readWords_upto {m : Nat} {s0 : State} {req : Nat} {n : Nat} {a2 : Nat} {a3 : Nat} {a4 : State} (h : Upto
    m s0 a4) (hm : Sub 0x28d7c80880 m) :
    Upto m s0 (readWords req n a2 a3 a4).2 := by
  induction a2 generalizing req n a3 a4 with
  | zero =>
    unfold readWords
    try dsimp only
    repeat' first
      | with_reducible assumption
      | ((with_reducible refine Sub.of hm ?_); rfl)
      | with_reducible apply accErr_upto
      | with_reducible apply memRead_upto
      | with_reducible refine Upto.snd (by assumption) ?_
      | split
  | succ n1 ih =>
    unfold readWords
    try dsimp only
    repeat' first
      | with_reducible assumption
      | ((with_reducible refine Sub.of hm ?_); rfl)
      | with_reducible apply ih
      | with_reducible apply accErr_upto
      | with_reducible apply memRead_upto
      | with_reducible refine Upto.snd (by assumption) ?_
      | split

theorem writeWords_upto {m : Nat} {s0 : State} {req : Nat} {n : Nat} {a2 : List Native} {a3 : Nat} {a4 : State}
    (h : Upto m s0 a4) (hm : Sub 0x2cd7c80880 m) :
    Upto m s0 (writeWords req n a2 a3 a4).2 := by
  induction a2 generalizing req n a3 a4 with
  | nil =>
    unfold writeWords
    try dsimp only
    repeat' first
      | with_reducible assumption
      | ((with_reducible refine Sub.of hm ?_); rfl)
      | with_reducible apply accErr_upto
      | with_reducible apply memWrite_upto
      | with_reducible refine Upto.snd (by assumption) ?_
      | split
  | cons e l ih =>
    unfold writeWords
    try dsimp only
    repeat' first
      | with_reducible assumption
      | ((with_reducible refine Sub.of hm ?_); rfl)
      | with_reducible apply ih
      | with_reducible apply accErr_upto
      | with_reducible apply memWrite_upto
      | with_reducible refine Upto.snd (by assumption) ?_
      | split

theorem readBytes_upto {m : Nat} {s0 : State} {req : Nat} {n : Nat} {a : Nat} {s : State} (h : Upto m s0 s) (hm
    : Sub 0x28d7c80880 m) :
    Upto m s0 (readBytes req n a s).2 := by
  unfold readBytes
  try dsimp only
  repeat' first
    | with_reducible assumption
    | with_reducible apply readWords_upto
    | with_reducible refine Upto.snd (by assumption) ?_
    | split

theorem writeBytes_upto {m : Nat} {s0 : State} {req : Nat} {l : List Nat} {a : Nat} {s : State} (h : Upto m s0
    s) (hm : Sub 0x2cd7c80880 m) :
    Upto m s0 (writeBytes req l a s).2 := by
  unfold writeBytes
  try dsimp only
  repeat' first
    | with_reducible assumption
    | with_reducible apply writeWords_upto

end Sys2Proof.Machine
end

