-- ==== Sys2Proof/Laws/UptoImages.lean ====
section
/-! SUPPORT. What each operation of Machine/Images.lean leaves unchanged (Laws/Upto.lean). -/

set_option linter.unusedTactic false
set_option linter.unreachableTactic false

namespace Sys2Proof.Machine

theorem readImage_upto {m : Nat} {s0 : State} {addr : Nat} {s : State} (h : Upto m s0 s) (hm : Sub 0x28d7c80880
    m) :
    Upto m s0 (readImage addr s).2 := by
  unfold readImage
  try dsimp only
  repeat' first
    | with_reducible assumption
    | with_reducible apply readBytes_upto
    | with_reducible refine Upto.snd (by assumption) ?_
    | split

theorem storeSettle_upto {m : Nat} {s0 : State} {s : State} (h : Upto m s0 s) (hm : Sub 0x8000000 m) :
    Upto m s0 (storeSettle s) := by
  unfold storeSettle
  try dsimp only
  repeat' first
    | with_reducible assumption
    | fail_if_no_progress with_reducible refine Upto.sec_set ?_ (hm.bit rfl)

end Sys2Proof.Machine
end

