-- ==== Sys2Proof/Laws/UptoInterrupts.lean ====
section
/-! SUPPORT. What each operation of Machine/Interrupts.lean leaves unchanged (Laws/Upto.lean). -/

set_option linter.unusedTactic false
set_option linter.unreachableTactic false

namespace Sys2Proof.Machine

theorem execInterruptArrival_upto {m : Nat} {s0 : State} {src : Fin 1024} {s : State} (h : Upto m s0 s) (hm :
    Sub 0x80480000 m) :
    OutUpto m s0 (execInterruptArrival src s) := by
  unfold execInterruptArrival
  try dsimp only
  repeat' first
    | with_reducible assumption
    | with_reducible apply raise_upto
    | with_reducible apply Upto.ite
    | with_reducible apply OutUpto.next

theorem openGroup_upto {m : Nat} {s0 : State} {g : Nat} {s : State} (h : Upto m s0 s) (hm : Sub 0x80480000 m) :
    Upto m s0 (openGroup g s) := by
  unfold openGroup
  try dsimp only
  repeat' first
    | with_reducible assumption
    | ((with_reducible refine Sub.of hm ?_); rfl)
    | with_reducible apply modGroup_upto
    | with_reducible apply ictSettle_upto
    | with_reducible apply doWakes_upto

theorem execGroupHoldExpire_upto {m : Nat} {s0 : State} {group : Fin 64} {s : State} (h : Upto m s0 s) (hm : Sub
    0x80480000 m) :
    OutUpto m s0 (execGroupHoldExpire group s) := by
  unfold execGroupHoldExpire
  try dsimp only
  repeat' first
    | with_reducible assumption
    | with_reducible apply openGroup_upto
    | with_reducible apply OutUpto.next
    | with_reducible apply OutUpto.ite

theorem groupSettle_upto {m : Nat} {s0 : State} {g : Nat} {s : State} (h : Upto m s0 s) (hm : Sub 0x80000 m) :
    Upto m s0 (groupSettle g s) := by
  unfold groupSettle
  try dsimp only
  repeat' first
    | with_reducible assumption
    | with_reducible apply modGroup_upto
    | with_reducible apply Upto.ite

theorem restoreDue_upto {m : Nat} {s0 : State} {c : Nat} {now : Nat} {all : Bool} {s : State} (h : Upto m s0 s)
    (hm : Sub 0x80000 m) :
    Upto m s0 (restoreDue c now all s) := by
  unfold restoreDue
  try dsimp only
  repeat' first
    | with_reducible assumption
    | with_reducible apply modCtx_upto

theorem claimSrc_upto {m : Nat} {s0 : State} {c : Nat} {n : Nat} {s : State} (h : Upto m s0 s) (hm : Sub
    0x80080000 m) :
    Upto m s0 (claimSrc c n s) := by
  unfold claimSrc
  try dsimp only
  repeat' first
    | with_reducible assumption
    | ((with_reducible refine Sub.of hm ?_); rfl)
    | with_reducible apply groupSettle_upto
    | with_reducible apply modSrc_upto
    | with_reducible apply restoreDue_upto
    | with_reducible apply ictSettle_upto
    | with_reducible apply modCtx_upto

theorem claimServe_upto {m : Nat} {s0 : State} {req : Nat} {c : Nat} {s : State} (h : Upto m s0 s) (hm : Sub
    0x280080000 m) :
    Upto m s0 (claimServe req c s) := by
  unfold claimServe
  try dsimp only
  repeat' first
    | with_reducible assumption
    | ((with_reducible refine Sub.of hm ?_); rfl)
    | with_reducible apply answer_upto
    | with_reducible apply claimSrc_upto
    | with_reducible apply Upto.ite
    | split

theorem execIctClaim_upto {m : Nat} {s0 : State} {req : Req} {ctx : Fin 8} {s : State} (h : Upto m s0 s) (hm :
    Sub 0x280080000 m) :
    OutUpto m s0 (execIctClaim req ctx s) := by
  unfold execIctClaim
  try dsimp only
  repeat' first
    | with_reducible assumption
    | intro _
    | ((with_reducible refine Sub.of hm ?_); rfl)
    | with_reducible apply readServed_upto
    | with_reducible apply claimServe_upto
    | with_reducible apply OutUpto.next

theorem completeSrc_upto {m : Nat} {s0 : State} {c : Nat} {n : Nat} {s : State} (h : Upto m s0 s) (hm : Sub
    0x80080000 m) :
    Upto m s0 (completeSrc c n s) := by
  unfold completeSrc
  try dsimp only
  repeat' first
    | with_reducible assumption
    | ((with_reducible refine Sub.of hm ?_); rfl)
    | with_reducible apply modCtx_upto
    | with_reducible apply bump_upto
    | with_reducible apply Upto.ite
    | split

theorem completeEffect_upto {m : Nat} {s0 : State} {req : Nat} {c : Nat} {v : List Nat} {s : State} (h : Upto m
    s0 s) (hm : Sub 0x80080000 m) :
    Upto m s0 (completeEffect req c v s) := by
  unfold completeEffect
  try dsimp only
  repeat' first
    | with_reducible assumption
    | with_reducible apply completeSrc_upto
    | with_reducible apply Upto.ite

theorem execIctComplete_upto {m : Nat} {s0 : State} {req : Req} {ctx : Fin 8} {src : BitVec 10} {s : State} (h :
    Upto m s0 s) (hm : Sub 0x380080000 m) :
    OutUpto m s0 (execIctComplete req ctx src s) := by
  unfold execIctComplete
  try dsimp only
  repeat' first
    | with_reducible assumption
    | intro _
    | ((with_reducible refine Sub.of hm ?_); rfl)
    | with_reducible apply regCommit_upto
    | with_reducible apply completeEffect_upto
    | with_reducible apply OutUpto.next

theorem execThresholdRestore_upto {m : Nat} {s0 : State} {ctx : Fin 8} {s : State} (h : Upto m s0 s) (hm : Sub
    0x80080000 m) :
    OutUpto m s0 (execThresholdRestore ctx s) := by
  unfold execThresholdRestore
  try dsimp only
  repeat' first
    | with_reducible assumption
    | ((with_reducible refine Sub.of hm ?_); rfl)
    | with_reducible apply settleCtx_upto
    | with_reducible apply restoreDue_upto
    | with_reducible apply OutUpto.next

theorem swiEffect_upto {m : Nat} {s0 : State} {v : List Nat} {s : State} (h : Upto m s0 s) (hm : Sub 0x80480000
    m) :
    Upto m s0 (swiEffect v s) := by
  unfold swiEffect
  try dsimp only
  repeat' first
    | with_reducible assumption
    | intro _
    | with_reducible apply raise_upto
    | with_reducible apply Upto.forEach

theorem execIctSwiWrite_upto {m : Nat} {s0 : State} {a : Acc} {s : State} (h : Upto m s0 s) (hm : Sub
    0x380480000 m) :
    OutUpto m s0 (execIctSwiWrite a s) := by
  unfold execIctSwiWrite
  try dsimp only
  repeat' first
    | with_reducible assumption
    | intro _
    | ((with_reducible refine Sub.of hm ?_); rfl)
    | with_reducible apply regCommit_upto
    | with_reducible apply swiEffect_upto
    | with_reducible apply OutUpto.next

theorem ictScfgEffect_upto {m : Nat} {s0 : State} {v : List Nat} {s : State} (h : Upto m s0 s) (hm : Sub
    0x80080000 m) :
    Upto m s0 (ictScfgEffect v s) := by
  unfold ictScfgEffect
  try dsimp only
  repeat' first
    | with_reducible assumption
    | ((with_reducible refine Sub.of hm ?_); rfl)
    | with_reducible apply modSrc_upto
    | with_reducible apply ictSettle_upto
    | with_reducible apply groupSettle_upto

theorem ictCtrlEffect_upto {m : Nat} {s0 : State} {v : List Nat} {s : State} (h : Upto m s0 s) (hm : Sub
    0x80480000 m) :
    Upto m s0 (ictCtrlEffect v s) := by
  unfold ictCtrlEffect
  try dsimp only
  repeat' first
    | with_reducible assumption
    | ((with_reducible refine Sub.of hm ?_); rfl)
    | with_reducible apply doWakes_upto
    | with_reducible apply ictSettle_upto
    | with_reducible apply Upto.ite
    | fail_if_no_progress with_reducible refine Upto.ict_set ?_ (hm.bit rfl)

theorem ctxLost_upto {m : Nat} {s0 : State} {c : Nat} {s : State} (h : Upto m s0 s) (hm : Sub 0x80000 m) :
    Upto m s0 (ctxLost c s) := by
  unfold ctxLost
  try dsimp only
  repeat' first
    | with_reducible assumption
    | with_reducible apply modCtx_upto

end Sys2Proof.Machine
end

