-- ==== Sys2Proof/Laws/UptoRck.lean ====
section
/-! SUPPORT. What each operation of Machine/Rck.lean leaves unchanged (Laws/Upto.lean). -/

set_option linter.unusedTactic false
set_option linter.unreachableTactic false

namespace Sys2Proof.Machine

theorem modPtp_upto {m : Nat} {s0 : State} {d : Nat} {f : Ptp → Ptp} {s : State} (h : Upto m s0 s) (hm : Sub 0x4
    m) :
    Upto m s0 (modPtp d f s) := by
  unfold modPtp
  try dsimp only
  repeat' first
    | with_reducible assumption
    | fail_if_no_progress with_reducible refine Upto.ptp_set ?_ (hm.bit rfl)

theorem modRck_upto {m : Nat} {s0 : State} {f : Rck → Rck} {s : State} (h : Upto m s0 s) (hm : Sub 0x2 m) :
    Upto m s0 (modRck f s) := by
  unfold modRck
  try dsimp only
  repeat' first
    | with_reducible assumption
    | fail_if_no_progress with_reducible refine Upto.rck_set ?_ (hm.bit rfl)

theorem setServo_upto {m : Nat} {s0 : State} {st : Servo} {sel : Nat} {s : State} (h : Upto m s0 s) (hm : Sub
    0x80480002 m) :
    Upto m s0 (setServo st sel s) := by
  unfold setServo
  try dsimp only
  repeat' first
    | with_reducible assumption
    | ((with_reducible refine Sub.of hm ?_); rfl)
    | with_reducible apply modRck_upto
    | with_reducible apply raise_upto
    | with_reducible apply Upto.ite

theorem enterHold_upto {m : Nat} {s0 : State} {s : State} (h : Upto m s0 s) (hm : Sub 0xd3c80082 m) :
    Upto m s0 (enterHold s) := by
  unfold enterHold
  try dsimp only
  repeat' first
    | with_reducible assumption
    | ((with_reducible refine Sub.of hm ?_); rfl)
    | with_reducible apply modRck_upto
    | with_reducible apply setServo_upto
    | with_reducible apply setMode_upto
    | with_reducible apply Upto.ite
    | fail_if_no_progress with_reducible refine Upto.pwr_set ?_ (hm.bit rfl)
    | split

theorem sourceLost_upto {m : Nat} {s0 : State} {n : Nat} {s : State} (h : Upto m s0 s) (hm : Sub 0xd3c80082 m) :
    Upto m s0 (sourceLost n s) := by
  unfold sourceLost
  try dsimp only
  repeat' first
    | with_reducible assumption
    | ((with_reducible refine Sub.of hm ?_); rfl)
    | with_reducible apply setServo_upto
    | with_reducible apply enterHold_upto
    | with_reducible apply Upto.ite
    | split

theorem timeReturn_upto {m : Nat} {s0 : State} {n : Nat} {s : State} (h : Upto m s0 s) (hm : Sub 0xd3c80082 m) :
    Upto m s0 (timeReturn n s) := by
  unfold timeReturn
  try dsimp only
  repeat' first
    | with_reducible assumption
    | ((with_reducible refine Sub.of hm ?_); rfl)
    | with_reducible apply setServo_upto
    | with_reducible apply setMode_upto
    | with_reducible apply Upto.ite
    | fail_if_no_progress with_reducible refine Upto.pwr_set ?_ (hm.bit rfl)
    | split

theorem sourceGained_upto {m : Nat} {s0 : State} {n : Nat} {s : State} (h : Upto m s0 s) (hm : Sub 0xd3c80082 m)
    :
    Upto m s0 (sourceGained n s) := by
  unfold sourceGained
  try dsimp only
  repeat' first
    | with_reducible assumption
    | ((with_reducible refine Sub.of hm ?_); rfl)
    | with_reducible apply setServo_upto
    | with_reducible apply timeReturn_upto
    | split

theorem modSlot_upto {m : Nat} {s0 : State} {i : Nat} {f : Slot → Slot} {s : State} (h : Upto m s0 s) (hm : Sub
    0x2 m) :
    Upto m s0 (modSlot i f s) := by
  unfold modSlot
  try dsimp only
  repeat' first
    | with_reducible assumption
    | with_reducible apply modRck_upto

theorem missSlot_upto {m : Nat} {s0 : State} {i : Nat} {t : Int} {s : State} (h : Upto m s0 s) (hm : Sub
    0x80480002 m) :
    Upto m s0 (missSlot i t s) := by
  unfold missSlot
  try dsimp only
  repeat' first
    | with_reducible assumption
    | ((with_reducible refine Sub.of hm ?_); rfl)
    | with_reducible apply modSlot_upto
    | with_reducible apply raise_upto
    | with_reducible apply bump_upto

theorem missIfPassed_upto {m : Nat} {s0 : State} {i : Nat} {s : State} (h : Upto m s0 s) (hm : Sub 0x80480002 m)
    :
    Upto m s0 (missIfPassed i s) := by
  unfold missIfPassed
  try dsimp only
  repeat' first
    | with_reducible assumption
    | with_reducible apply missSlot_upto
    | with_reducible apply Upto.ite

theorem slotsRestart_upto {m : Nat} {s0 : State} {s : State} (h : Upto m s0 s) (hm : Sub 0x80480002 m) :
    Upto m s0 (slotsRestart s) := by
  unfold slotsRestart
  try dsimp only
  repeat' first
    | with_reducible assumption
    | intro _
    | ((with_reducible refine Sub.of hm ?_); rfl)
    | with_reducible apply modRck_upto
    | with_reducible apply missIfPassed_upto
    | with_reducible apply Upto.forEach
    | with_reducible apply Upto.ite

theorem spareOld_upto {m : Nat} {s0 : State} {i : Nat} {s : State} (h : Upto m s0 s) (hm : Sub 0x2 m) :
    Upto m s0 (spareOld i s) := by
  unfold spareOld
  try dsimp only
  repeat' first
    | with_reducible assumption
    | with_reducible apply modRck_upto
    | with_reducible apply Upto.ite

theorem disarmSlot_upto {m : Nat} {s0 : State} {i : Nat} {s : State} (h : Upto m s0 s) (hm : Sub 0x2 m) :
    Upto m s0 (disarmSlot i s) := by
  unfold disarmSlot
  try dsimp only
  repeat' first
    | with_reducible assumption
    | with_reducible apply modSlot_upto
    | with_reducible apply spareOld_upto

theorem slotCommit_upto {m : Nat} {s0 : State} {v : List Nat} {s : State} (h : Upto m s0 s) (hm : Sub 0x80480002
    m) :
    Upto m s0 (slotCommit v s) := by
  unfold slotCommit
  try dsimp only
  repeat' first
    | with_reducible assumption
    | ((with_reducible refine Sub.of hm ?_); rfl)
    | with_reducible apply spareOld_upto
    | with_reducible apply modSlot_upto
    | with_reducible apply missIfPassed_upto
    | with_reducible apply modRck_upto
    | with_reducible apply Upto.ite

theorem fmtCommit_upto {m : Nat} {s0 : State} {s : State} (h : Upto m s0 s) (hm : Sub 0x2 m) :
    Upto m s0 (fmtCommit s) := by
  unfold fmtCommit
  try dsimp only
  repeat' first
    | with_reducible assumption
    | with_reducible apply modRck_upto

theorem fmtEffect_upto {m : Nat} {s0 : State} {s : State} (h : Upto m s0 s) (hm : Sub 0x2 m) :
    Upto m s0 (fmtEffect s) := by
  unfold fmtEffect
  try dsimp only
  repeat' first
    | with_reducible assumption
    | with_reducible apply modRck_upto
    | with_reducible apply fmtCommit_upto

theorem modPhase_upto {m : Nat} {s0 : State} {n : Nat} {f : PhasePin → PhasePin} {s : State} (h : Upto m s0 s)
    (hm : Sub 0x2 m) :
    Upto m s0 (modPhase n f s) := by
  unfold modPhase
  try dsimp only
  repeat' first
    | with_reducible assumption
    | with_reducible apply modRck_upto

theorem phaseAct_upto {m : Nat} {s0 : State} {n : Nat} {pay : Nat} {t : Nat} {s : State} (h : Upto m s0 s) (hm :
    Sub 0x2 m) :
    Upto m s0 (phaseAct n pay t s) := by
  unfold phaseAct
  try dsimp only
  repeat' first
    | with_reducible assumption
    | with_reducible apply modPhase_upto
    | split

theorem qualify_upto {m : Nat} {s0 : State} {d : Nat} {s : State} (h : Upto m s0 s) (hm : Sub 0xd3c80086 m) :
    Upto m s0 (qualify d s) := by
  unfold qualify
  try dsimp only
  repeat' first
    | with_reducible assumption
    | ((with_reducible refine Sub.of hm ?_); rfl)
    | with_reducible apply sourceGained_upto
    | with_reducible apply modPtp_upto
    | with_reducible apply Upto.ite

theorem servoStep_upto {m : Nat} {s0 : State} {ofs : Int} {s : State} (h : Upto m s0 s) (hm : Sub 0x80480002 m)
    :
    Upto m s0 (servoStep ofs s) := by
  unfold servoStep
  try dsimp only
  repeat' first
    | with_reducible assumption
    | ((with_reducible refine Sub.of hm ?_); rfl)
    | with_reducible apply modRck_upto
    | with_reducible apply slotsRestart_upto
    | with_reducible apply setServo_upto

theorem countLarge_upto {m : Nat} {s0 : State} {ofs : Int} {s : State} (h : Upto m s0 s) (hm : Sub 0x80480002 m)
    :
    Upto m s0 (countLarge ofs s) := by
  unfold countLarge
  try dsimp only
  repeat' first
    | with_reducible assumption
    | ((with_reducible refine Sub.of hm ?_); rfl)
    | with_reducible apply modRck_upto
    | with_reducible apply raise_upto
    | with_reducible apply bump_upto
    | with_reducible apply Upto.ite

theorem servoTrack_upto {m : Nat} {s0 : State} {ofs : Int} {s : State} (h : Upto m s0 s) (hm : Sub 0x80480003 m)
    :
    Upto m s0 (servoTrack ofs s) := by
  unfold servoTrack
  try dsimp only
  repeat' first
    | with_reducible assumption
    | ((with_reducible refine Sub.of hm ?_); rfl)
    | with_reducible apply countLarge_upto
    | with_reducible apply takeFree_upto
    | with_reducible apply modRck_upto
    | with_reducible apply setServo_upto
    | with_reducible apply Upto.ite
    | split

theorem servoSync_upto {m : Nat} {s0 : State} {ofs : Int} {s : State} (h : Upto m s0 s) (hm : Sub 0x80480003 m)
    :
    Upto m s0 (servoSync ofs s) := by
  unfold servoSync
  try dsimp only
  repeat' first
    | with_reducible assumption
    | ((with_reducible refine Sub.of hm ?_); rfl)
    | with_reducible apply modRck_upto
    | with_reducible apply servoStep_upto
    | with_reducible apply servoTrack_upto
    | with_reducible apply Upto.ite
    | split

theorem execPtpSyncReceive_upto {m : Nat} {s0 : State} {dom : Fin 2} {a1 : PtpMsg} {s : State} (h : Upto m s0 s)
    (hm : Sub 0xd3c80087 m) :
    OutUpto m s0 (execPtpSyncReceive dom a1 s) := by
  unfold execPtpSyncReceive
  try dsimp only
  repeat' first
    | with_reducible assumption
    | ((with_reducible refine Sub.of hm ?_); rfl)
    | with_reducible apply bumpWrap_upto
    | with_reducible apply modPtp_upto
    | with_reducible apply qualify_upto
    | with_reducible apply servoSync_upto
    | with_reducible apply Upto.ite
    | with_reducible apply OutUpto.next
    | with_reducible apply OutUpto.ite

theorem execPtpAnnounceReceive_upto {m : Nat} {s0 : State} {dom : Fin 2} {a1 : PtpMsg} {gm : DWord} {steps :
    BitVec 8} {tlv : Option (Int × Nat)} {s : State} (h : Upto m s0 s) (hm : Sub 0x80000004 m) :
    OutUpto m s0 (execPtpAnnounceReceive dom a1 gm steps tlv s) := by
  unfold execPtpAnnounceReceive
  try dsimp only
  repeat' first
    | with_reducible assumption
    | ((with_reducible refine Sub.of hm ?_); rfl)
    | with_reducible apply setRword_upto
    | with_reducible apply modPtp_upto
    | with_reducible apply OutUpto.next
    | with_reducible apply OutUpto.ite

theorem execPtpDelayRespReceive_upto {m : Nat} {s0 : State} {dom : Fin 2} {a1 : PtpMsg} {s : State} (h : Upto m
    s0 s) (hm : Sub 0x4 m) :
    OutUpto m s0 (execPtpDelayRespReceive dom a1 s) := by
  unfold execPtpDelayRespReceive
  try dsimp only
  repeat' first
    | with_reducible assumption
    | with_reducible apply modPtp_upto
    | with_reducible apply OutUpto.next
    | with_reducible apply OutUpto.ite
    | split

theorem domainLost_upto {m : Nat} {s0 : State} {d : Nat} {s : State} (h : Upto m s0 s) (hm : Sub 0xd3c80086 m) :
    Upto m s0 (domainLost d s) := by
  unfold domainLost
  try dsimp only
  repeat' first
    | with_reducible assumption
    | ((with_reducible refine Sub.of hm ?_); rfl)
    | with_reducible apply modPtp_upto
    | with_reducible apply sourceLost_upto
    | with_reducible apply bump_upto
    | with_reducible apply Upto.ite

theorem execDomainUnavailable_upto {m : Nat} {s0 : State} {dom : Fin 2} {s : State} (h : Upto m s0 s) (hm : Sub
    0xd3c80086 m) :
    OutUpto m s0 (execDomainUnavailable dom s) := by
  unfold execDomainUnavailable
  try dsimp only
  repeat' first
    | with_reducible assumption
    | with_reducible apply domainLost_upto
    | with_reducible apply OutUpto.next

theorem ptpCfgEffect_upto {m : Nat} {s0 : State} {d : Nat} {old : State} {s : State} (h : Upto m s0 s) (hm : Sub
    0xd3c80086 m) :
    Upto m s0 (ptpCfgEffect d old s) := by
  unfold ptpCfgEffect
  try dsimp only
  repeat' first
    | with_reducible assumption
    | ((with_reducible refine Sub.of hm ?_); rfl)
    | with_reducible apply modPtp_upto
    | with_reducible apply domainLost_upto
    | with_reducible apply Upto.ite

theorem execPtpCfgCommit_upto {m : Nat} {s0 : State} {dom : Fin 2} {a : Acc} {s : State} (h : Upto m s0 s) (hm :
    Sub 0x3d3c80086 m) :
    OutUpto m s0 (execPtpCfgCommit dom a s) := by
  unfold execPtpCfgCommit
  try dsimp only
  repeat' first
    | with_reducible assumption
    | intro _
    | ((with_reducible refine Sub.of hm ?_); rfl)
    | with_reducible apply regCommit_upto
    | with_reducible apply ptpCfgEffect_upto
    | with_reducible apply OutUpto.next

theorem rckCtrlEffect_upto {m : Nat} {s0 : State} {v : List Nat} {s : State} (h : Upto m s0 s) (hm : Sub
    0x80480002 m) :
    Upto m s0 (rckCtrlEffect v s) := by
  unfold rckCtrlEffect
  try dsimp only
  repeat' first
    | with_reducible assumption
    | with_reducible apply setServo_upto
    | with_reducible apply Upto.ite

theorem execRckCtrlCommit_upto {m : Nat} {s0 : State} {a : Acc} {s : State} (h : Upto m s0 s) (hm : Sub
    0x380480002 m) :
    OutUpto m s0 (execRckCtrlCommit a s) := by
  unfold execRckCtrlCommit
  try dsimp only
  repeat' first
    | with_reducible assumption
    | intro _
    | ((with_reducible refine Sub.of hm ?_); rfl)
    | with_reducible apply regCommit_upto
    | with_reducible apply rckCtrlEffect_upto
    | with_reducible apply OutUpto.next

theorem execRef10Valid_upto {m : Nat} {s0 : State} {s : State} (h : Upto m s0 s) (hm : Sub 0x2 m) :
    OutUpto m s0 (execRef10Valid s) := by
  unfold execRef10Valid
  try dsimp only
  repeat' first
    | with_reducible assumption
    | with_reducible apply modRck_upto
    | with_reducible apply Upto.ite
    | with_reducible apply OutUpto.next

theorem execRef10Loss_upto {m : Nat} {s0 : State} {s : State} (h : Upto m s0 s) (hm : Sub 0x2 m) :
    OutUpto m s0 (execRef10Loss s) := by
  unfold execRef10Loss
  try dsimp only
  repeat' first
    | with_reducible assumption
    | with_reducible apply modRck_upto
    | with_reducible apply OutUpto.next

theorem execPpsEdge_upto {m : Nat} {s0 : State} {s : State} (h : Upto m s0 s) (hm : Sub 0x80000000 m) :
    OutUpto m s0 (execPpsEdge s) := by
  unfold execPpsEdge
  try dsimp only
  repeat' first
    | with_reducible assumption
    | with_reducible apply setRword_upto
    | with_reducible apply Upto.ite
    | with_reducible apply OutUpto.next

theorem rckStepOp_upto {m : Nat} {s0 : State} {s : State} (h : Upto m s0 s) (hm : Sub 0x80480002 m) :
    Upto m s0 (rckStepOp s) := by
  unfold rckStepOp
  try dsimp only
  repeat' first
    | with_reducible assumption
    | ((with_reducible refine Sub.of hm ?_); rfl)
    | with_reducible apply modRck_upto
    | with_reducible apply setFld_upto
    | with_reducible apply setServo_upto
    | with_reducible apply Upto.ite

theorem rckDisarmOp_upto {m : Nat} {s0 : State} {s : State} (h : Upto m s0 s) (hm : Sub 0x80000002 m) :
    Upto m s0 (rckDisarmOp s) := by
  unfold rckDisarmOp
  try dsimp only
  repeat' first
    | with_reducible assumption
    | intro _
    | ((with_reducible refine Sub.of hm ?_); rfl)
    | with_reducible apply setFld_upto
    | with_reducible apply disarmSlot_upto
    | with_reducible apply Upto.forEach

theorem rckCmdEffect_upto {m : Nat} {s0 : State} {v : List Nat} {s : State} (h : Upto m s0 s) (hm : Sub
    0x80480002 m) :
    Upto m s0 (rckCmdEffect v s) := by
  unfold rckCmdEffect
  try dsimp only
  repeat' first
    | with_reducible assumption
    | ((with_reducible refine Sub.of hm ?_); rfl)
    | with_reducible apply rckStepOp_upto
    | with_reducible apply rckDisarmOp_upto
    | with_reducible apply Upto.ite

theorem execRckStep_upto {m : Nat} {s0 : State} {req : Req} {s : State} (h : Upto m s0 s) (hm : Sub 0x380480002
    m) :
    OutUpto m s0 (execRckStep req s) := by
  unfold execRckStep
  try dsimp only
  repeat' first
    | with_reducible assumption
    | intro _
    | ((with_reducible refine Sub.of hm ?_); rfl)
    | with_reducible apply regCommit_upto
    | with_reducible apply rckCmdEffect_upto
    | with_reducible apply OutUpto.next

theorem execRckDisarm_upto {m : Nat} {s0 : State} {req : Req} {s : State} (h : Upto m s0 s) (hm : Sub
    0x380480002 m) :
    OutUpto m s0 (execRckDisarm req s) := by
  unfold execRckDisarm
  try dsimp only
  repeat' first
    | with_reducible assumption
    | intro _
    | ((with_reducible refine Sub.of hm ?_); rfl)
    | with_reducible apply regCommit_upto
    | with_reducible apply rckCmdEffect_upto
    | with_reducible apply OutUpto.next

theorem execRckFmtCommit_upto {m : Nat} {s0 : State} {a : Acc} {s : State} (h : Upto m s0 s) (hm : Sub
    0x380000002 m) :
    OutUpto m s0 (execRckFmtCommit a s) := by
  unfold execRckFmtCommit
  try dsimp only
  repeat' first
    | with_reducible assumption
    | intro _
    | ((with_reducible refine Sub.of hm ?_); rfl)
    | with_reducible apply regCommit_upto
    | with_reducible apply fmtEffect_upto
    | with_reducible apply OutUpto.next

theorem execSlotArm_upto {m : Nat} {s0 : State} {a : Acc} {s : State} (h : Upto m s0 s) (hm : Sub 0x380480002 m)
    :
    OutUpto m s0 (execSlotArm a s) := by
  unfold execSlotArm
  try dsimp only
  repeat' first
    | with_reducible assumption
    | intro _
    | ((with_reducible refine Sub.of hm ?_); rfl)
    | with_reducible apply regCommit_upto
    | with_reducible apply slotCommit_upto
    | with_reducible apply OutUpto.next

theorem execSlotDisarm_upto {m : Nat} {s0 : State} {a : Acc} {s : State} (h : Upto m s0 s) (hm : Sub 0x380480002
    m) :
    OutUpto m s0 (execSlotDisarm a s) := by
  unfold execSlotDisarm
  try dsimp only
  repeat' first
    | with_reducible assumption
    | intro _
    | ((with_reducible refine Sub.of hm ?_); rfl)
    | with_reducible apply regCommit_upto
    | with_reducible apply slotCommit_upto
    | with_reducible apply OutUpto.next

theorem execPhasePulseEnd_upto {m : Nat} {s0 : State} {pin : Fin 16} {s : State} (h : Upto m s0 s) (hm : Sub 0x2
    m) :
    OutUpto m s0 (execPhasePulseEnd pin s) := by
  unfold execPhasePulseEnd
  try dsimp only
  repeat' first
    | with_reducible assumption
    | with_reducible apply modPhase_upto
    | with_reducible apply OutUpto.next
    | with_reducible apply OutUpto.ite
    | split

theorem setTin_upto {m : Nat} {s0 : State} {n : Nat} {l : List TinEntry} {s : State} (h : Upto m s0 s) (hm : Sub
    0x2 m) :
    Upto m s0 (setTin n l s) := by
  unfold setTin
  try dsimp only
  repeat' first
    | with_reducible assumption
    | with_reducible apply modRck_upto

theorem execTinEdge_upto {m : Nat} {s0 : State} {pin : Fin 4} {fall : Bool} {s : State} (h : Upto m s0 s) (hm :
    Sub 0x80480002 m) :
    OutUpto m s0 (execTinEdge pin fall s) := by
  unfold execTinEdge
  try dsimp only
  repeat' first
    | with_reducible assumption
    | ((with_reducible refine Sub.of hm ?_); rfl)
    | with_reducible apply setFld_upto
    | with_reducible apply setTin_upto
    | with_reducible apply raise_upto
    | with_reducible apply Upto.ite
    | with_reducible apply OutUpto.next
    | with_reducible apply OutUpto.ite

theorem tinServe_upto {m : Nat} {s0 : State} {req : Nat} {n : Nat} {s : State} (h : Upto m s0 s) (hm : Sub
    0x200000002 m) :
    Upto m s0 (tinServe req n s) := by
  unfold tinServe
  try dsimp only
  repeat' first
    | with_reducible assumption
    | ((with_reducible refine Sub.of hm ?_); rfl)
    | with_reducible apply answer_upto
    | with_reducible apply latchWords_upto
    | with_reducible apply setTin_upto
    | split

theorem execTinQueueRead_upto {m : Nat} {s0 : State} {req : Req} {pin : Fin 4} {s : State} (h : Upto m s0 s) (hm
    : Sub 0x280000002 m) :
    OutUpto m s0 (execTinQueueRead req pin s) := by
  unfold execTinQueueRead
  try dsimp only
  repeat' first
    | with_reducible assumption
    | intro _
    | ((with_reducible refine Sub.of hm ?_); rfl)
    | with_reducible apply readServed_upto
    | with_reducible apply tinServe_upto
    | with_reducible apply OutUpto.next

theorem execOscRecord_upto {m : Nat} {s0 : State} {s : State} (h : Upto m s0 s) (hm : Sub 0xd3c80081 m) :
    OutUpto m s0 (execOscRecord s) := by
  unfold execOscRecord
  try dsimp only
  repeat' first
    | with_reducible assumption
    | ((with_reducible refine Sub.of hm ?_); rfl)
    | with_reducible apply takeFree_upto
    | with_reducible apply ldgPush_upto
    | with_reducible apply Upto.ite
    | with_reducible apply OutUpto.next

end Sys2Proof.Machine
end

