-- ==== Sys2Proof/Laws/UptoStalls.lean ====
section
/-! SUPPORT. What each operation of Machine/Stalls.lean leaves unchanged (Laws/Upto.lean). -/

set_option linter.unusedTactic false
set_option linter.unreachableTactic false

namespace Sys2Proof.Machine

theorem modBuf_upto {m : Nat} {s0 : State} {p : Nat} {i : Nat} {f : Buf → Buf} {s : State} (h : Upto m s0 s) (hm
    : Sub 0x4000 m) :
    Upto m s0 (modBuf p i f s) := by
  unfold modBuf
  try dsimp only
  repeat' first
    | with_reducible assumption
    | fail_if_no_progress with_reducible refine Upto.stl_set ?_ (hm.bit rfl)

theorem modUse_upto {m : Nat} {s0 : State} {r : Nat} {f : Nat → Nat} {s : State} (h : Upto m s0 s) (hm : Sub
    0x4000 m) :
    Upto m s0 (modUse r f s) := by
  unfold modUse
  try dsimp only
  repeat' first
    | with_reducible assumption
    | fail_if_no_progress with_reducible refine Upto.stl_set ?_ (hm.bit rfl)

theorem bufReturn_upto {m : Nat} {s0 : State} {p : Nat} {i : Nat} {s : State} (h : Upto m s0 s) (hm : Sub 0x4000
    m) :
    Upto m s0 (bufReturn p i s) := by
  unfold bufReturn
  try dsimp only
  repeat' first
    | with_reducible assumption
    | with_reducible apply modUse_upto
    | with_reducible apply modBuf_upto

theorem bufSettle_upto {m : Nat} {s0 : State} {p : Nat} {i : Nat} {s : State} (h : Upto m s0 s) (hm : Sub 0x4000
    m) :
    Upto m s0 (bufSettle p i s) := by
  unfold bufSettle
  try dsimp only
  repeat' first
    | with_reducible assumption
    | with_reducible apply bufReturn_upto
    | with_reducible apply Upto.ite

theorem handleRefused_upto {m : Nat} {s0 : State} {op : Nat} {a1 : Nat} {req : Nat} {e : StlErr} {s : State} (h
    : Upto m s0 s) (hm : Sub 0xd3c80080 m) :
    Upto m s0 (handleRefused op a1 req e s) := by
  unfold handleRefused
  try dsimp only
  repeat' first
    | with_reducible assumption
    | ((with_reducible refine Sub.of hm ?_); rfl)
    | with_reducible apply bump_upto
    | with_reducible apply setRword_upto
    | with_reducible apply report_upto
    | with_reducible apply Upto.ite
    | split

theorem allocLow_upto {m : Nat} {s0 : State} {f : FieldRef} {p : Nat} {s : State} (h : Upto m s0 s) (hm : Sub
    0x80480000 m) :
    Upto m s0 (allocLow f p s) := by
  unfold allocLow
  try dsimp only
  repeat' first
    | with_reducible assumption
    | ((with_reducible refine Sub.of hm ?_); rfl)
    | with_reducible apply raise_upto
    | with_reducible apply bump_upto

theorem stlAllocOp_upto {m : Nat} {s0 : State} {req : Nat} {p : Nat} {s : State} (h : Upto m s0 s) (hm : Sub
    0x80484000 m) :
    Upto m s0 (stlAllocOp req p s).2 := by
  unfold stlAllocOp
  try dsimp only
  repeat' first
    | with_reducible assumption
    | ((with_reducible refine Sub.of hm ?_); rfl)
    | with_reducible apply allocLow_upto
    | with_reducible apply modBuf_upto
    | with_reducible apply modUse_upto
    | split

theorem stlFreeOp_upto {m : Nat} {s0 : State} {req : Nat} {a1 : Nat} {s : State} (h : Upto m s0 s) (hm : Sub
    0xd3c84080 m) :
    Upto m s0 (stlFreeOp req a1 s).2 := by
  unfold stlFreeOp
  try dsimp only
  repeat' first
    | with_reducible assumption
    | ((with_reducible refine Sub.of hm ?_); rfl)
    | with_reducible apply handleRefused_upto
    | with_reducible apply bufSettle_upto
    | with_reducible apply modBuf_upto
    | split

theorem stlShareOp_upto {m : Nat} {s0 : State} {req : Nat} {a1 : Nat} {rcp : Nat} {s : State} (h : Upto m s0 s)
    (hm : Sub 0xd3c84080 m) :
    Upto m s0 (stlShareOp req a1 rcp s).2 := by
  unfold stlShareOp
  try dsimp only
  repeat' first
    | with_reducible assumption
    | ((with_reducible refine Sub.of hm ?_); rfl)
    | with_reducible apply handleRefused_upto
    | with_reducible apply modBuf_upto
    | split

theorem stlCheckOp_upto {m : Nat} {s0 : State} {req : Nat} {a1 : Nat} {off : Nat} {len : Nat} {s : State} (h :
    Upto m s0 s) (hm : Sub 0xd3c80080 m) :
    Upto m s0 (stlCheckOp req a1 off len s).2 := by
  unfold stlCheckOp
  try dsimp only
  repeat' first
    | with_reducible assumption
    | with_reducible apply handleRefused_upto
    | split

theorem stlResult_upto {m : Nat} {s0 : State} {req : Nat} {v : Nat} {e : Option StlErr} {s : State} (h : Upto m
    s0 s) (hm : Sub 0x80000000 m) :
    Upto m s0 (stlResult req v e s) := by
  unfold stlResult
  try dsimp only
  repeat' first
    | with_reducible assumption
    | with_reducible apply setRwordQ_upto

theorem showVal_upto {m : Nat} {s0 : State} {req : Nat} {x : Except StlErr Nat × State} (h : Upto m s0 (x).2)
    (hm : Sub 0x80000000 m) :
    Upto m s0 (showVal req x) := by
  unfold showVal
  try dsimp only
  repeat' first
    | with_reducible assumption
    | with_reducible apply stlResult_upto
    | split

theorem showFree_upto {m : Nat} {s0 : State} {req : Nat} {x : Option StlErr × State} (h : Upto m s0 (x).2) (hm :
    Sub 0x80000000 m) :
    Upto m s0 (showFree req x) := by
  unfold showFree
  try dsimp only
  repeat' first
    | with_reducible assumption
    | with_reducible apply stlResult_upto

theorem stlPerform_upto {m : Nat} {s0 : State} {req : Nat} {v : List Nat} {s : State} (h : Upto m s0 s) (hm :
    Sub 0xd3c84080 m) :
    Upto m s0 (stlPerform req v s) := by
  unfold stlPerform
  try dsimp only
  repeat' first
    | with_reducible assumption
    | ((with_reducible refine Sub.of hm ?_); rfl)
    | with_reducible apply showVal_upto
    | with_reducible apply stlAllocOp_upto
    | with_reducible apply showFree_upto
    | with_reducible apply stlFreeOp_upto
    | with_reducible apply stlShareOp_upto
    | with_reducible apply stlCheckOp_upto
    | split

theorem stlReach_upto {m : Nat} {s0 : State} {req : Nat} {f : State → State} {s : State} (h : Upto m s0 s) (hf :
    ∀ x0, Upto m s0 x0 → Upto m s0 (f x0)) (hm : Sub 0x80000000 m) :
    Upto m s0 (stlReach req f s) := by
  unfold stlReach
  try dsimp only
  repeat' first
    | with_reducible assumption
    | with_reducible apply busError_upto
    | with_reducible apply hf
    | with_reducible apply Upto.ite

theorem execStlAlloc_upto {m : Nat} {s0 : State} {req : Req} {pool : Fin 64} {s : State} (h : Upto m s0 s) (hm :
    Sub 0x80484000 m) :
    OutUpto m s0 (execStlAlloc req pool s) := by
  unfold execStlAlloc
  try dsimp only
  repeat' first
    | with_reducible assumption
    | intro _
    | ((with_reducible refine Sub.of hm ?_); rfl)
    | with_reducible apply stlReach_upto
    | with_reducible apply showVal_upto
    | with_reducible apply stlAllocOp_upto
    | with_reducible apply OutUpto.next

theorem execStlFree_upto {m : Nat} {s0 : State} {req : Req} {handle : Word} {s : State} (h : Upto m s0 s) (hm :
    Sub 0xd3c84080 m) :
    OutUpto m s0 (execStlFree req handle s) := by
  unfold execStlFree
  try dsimp only
  repeat' first
    | with_reducible assumption
    | intro _
    | ((with_reducible refine Sub.of hm ?_); rfl)
    | with_reducible apply stlReach_upto
    | with_reducible apply showFree_upto
    | with_reducible apply stlFreeOp_upto
    | with_reducible apply OutUpto.next

theorem execStlShare_upto {m : Nat} {s0 : State} {req : Req} {handle : Word} {recipient : BitVec 8} {s : State}
    (h : Upto m s0 s) (hm : Sub 0xd3c84080 m) :
    OutUpto m s0 (execStlShare req handle recipient s) := by
  unfold execStlShare
  try dsimp only
  repeat' first
    | with_reducible assumption
    | intro _
    | ((with_reducible refine Sub.of hm ?_); rfl)
    | with_reducible apply stlReach_upto
    | with_reducible apply showVal_upto
    | with_reducible apply stlShareOp_upto
    | with_reducible apply OutUpto.next

theorem execStlCheck_upto {m : Nat} {s0 : State} {req : Req} {handle : Word} {offset : BitVec 26} {lenm1 :
    BitVec 23} {s : State} (h : Upto m s0 s) (hm : Sub 0xd3c80080 m) :
    OutUpto m s0 (execStlCheck req handle offset lenm1 s) := by
  unfold execStlCheck
  try dsimp only
  repeat' first
    | with_reducible assumption
    | intro _
    | ((with_reducible refine Sub.of hm ?_); rfl)
    | with_reducible apply stlReach_upto
    | with_reducible apply showVal_upto
    | with_reducible apply stlCheckOp_upto
    | with_reducible apply OutUpto.next

theorem stlRevokeAll_upto {m : Nat} {s0 : State} {r : Nat} {s : State} (h : Upto m s0 s) (hm : Sub 0x4000 m) :
    Upto m s0 (stlRevokeAll r s).2 := by
  unfold stlRevokeAll
  try dsimp only
  repeat' first
    | with_reducible assumption
    | intro _
    | with_reducible apply bufSettle_upto
    | with_reducible apply modBuf_upto
    | with_reducible apply Upto.foldl_snd
    | with_reducible apply Upto.ite

theorem revokeEffect_upto {m : Nat} {s0 : State} {v : List Nat} {s : State} (h : Upto m s0 s) (hm : Sub
    0x80004000 m) :
    Upto m s0 (revokeEffect v s) := by
  unfold revokeEffect
  try dsimp only
  repeat' first
    | with_reducible assumption
    | ((with_reducible refine Sub.of hm ?_); rfl)
    | with_reducible apply stlRevokeAll_upto
    | with_reducible apply setFld_upto

theorem execStlRevoke_upto {m : Nat} {s0 : State} {a : Acc} {s : State} (h : Upto m s0 s) (hm : Sub 0x380004000
    m) :
    OutUpto m s0 (execStlRevoke a s) := by
  unfold execStlRevoke
  try dsimp only
  repeat' first
    | with_reducible assumption
    | intro _
    | ((with_reducible refine Sub.of hm ?_); rfl)
    | with_reducible apply regCommit_upto
    | with_reducible apply revokeEffect_upto
    | with_reducible apply OutUpto.next

theorem bayReturn_upto {m : Nat} {s0 : State} {b : Nat} {s : State} (h : Upto m s0 s) (hm : Sub 0x80004000 m) :
    Upto m s0 (bayReturn b s) := by
  unfold bayReturn
  try dsimp only
  repeat' first
    | with_reducible assumption
    | intro _
    | ((with_reducible refine Sub.of hm ?_); rfl)
    | with_reducible apply bump_upto
    | with_reducible apply bufReturn_upto
    | with_reducible apply Upto.forEach
    | with_reducible apply Upto.ite

theorem poolFresh_upto {m : Nat} {s0 : State} {p : Nat} {s : State} (h : Upto m s0 s) (hm : Sub 0x4000 m) :
    Upto m s0 (poolFresh p s) := by
  unfold poolFresh
  try dsimp only
  repeat' first
    | with_reducible assumption
    | fail_if_no_progress with_reducible refine Upto.stl_set ?_ (hm.bit rfl)

theorem execStlPoolCommit_upto {m : Nat} {s0 : State} {pool : Fin 64} {a : Acc} {s : State} (h : Upto m s0 s)
    (hm : Sub 0x380004000 m) :
    OutUpto m s0 (execStlPoolCommit pool a s) := by
  unfold execStlPoolCommit
  try dsimp only
  repeat' first
    | with_reducible assumption
    | intro _
    | ((with_reducible refine Sub.of hm ?_); rfl)
    | with_reducible apply regCommit_upto
    | with_reducible apply poolFresh_upto
    | with_reducible apply Upto.ite
    | with_reducible apply OutUpto.next

end Sys2Proof.Machine
end

