-- ==== Sys2Proof/Laws/UptoLanes.lean ====
section
/-! SUPPORT. What each operation of Machine/Lanes.lean leaves unchanged (Laws/Upto.lean). -/

set_option linter.unusedTactic false
set_option linter.unreachableTactic false

namespace Sys2Proof.Machine

theorem setLaneSt_upto {m : Nat} {s0 : State} {n : Nat} {st : LaneSt} {s : State} (h : Upto m s0 s) (hm : Sub
    0x80480008 m) :
    Upto m s0 (setLaneSt n st s) := by
  unfold setLaneSt
  try dsimp only
  repeat' first
    | with_reducible assumption
    | ((with_reducible refine Sub.of hm ?_); rfl)
    | with_reducible apply raise_upto
    | with_reducible apply modLane_upto
    | with_reducible apply Upto.ite

theorem clearTrain_upto {m : Nat} {s0 : State} {n : Nat} {s : State} (h : Upto m s0 s) (hm : Sub 0x8 m) :
    Upto m s0 (clearTrain n s) := by
  unfold clearTrain
  try dsimp only
  repeat' first
    | with_reducible assumption
    | with_reducible apply modLane_upto

theorem enterLock_upto {m : Nat} {s0 : State} {n : Nat} {s : State} (h : Upto m s0 s) (hm : Sub 0x80480008 m) :
    Upto m s0 (enterLock n s) := by
  unfold enterLock
  try dsimp only
  repeat' first
    | with_reducible assumption
    | ((with_reducible refine Sub.of hm ?_); rfl)
    | with_reducible apply setLaneSt_upto
    | with_reducible apply modLane_upto
    | with_reducible apply clearTrain_upto

theorem leaveUp_upto {m : Nat} {s0 : State} {n : Nat} {s : State} (h : Upto m s0 s) (hm : Sub 0xd3c80088 m) :
    Upto m s0 (leaveUp n s) := by
  unfold leaveUp
  try dsimp only
  repeat' first
    | with_reducible assumption
    | ((with_reducible refine Sub.of hm ?_); rfl)
    | with_reducible apply report_upto
    | with_reducible apply tally_upto
    | with_reducible apply enterLock_upto
    | with_reducible apply setLaneSt_upto
    | with_reducible apply modLane_upto
    | with_reducible apply Upto.ite

theorem execSignalDetect_upto {m : Nat} {s0 : State} {lane : Fin 64} {s : State} (h : Upto m s0 s) (hm : Sub
    0x80480008 m) :
    OutUpto m s0 (execSignalDetect lane s) := by
  unfold execSignalDetect
  try dsimp only
  repeat' first
    | with_reducible assumption
    | ((with_reducible refine Sub.of hm ?_); rfl)
    | with_reducible apply enterLock_upto
    | with_reducible apply modLane_upto
    | with_reducible apply Upto.ite
    | with_reducible apply OutUpto.next

theorem execBlockLockGain_upto {m : Nat} {s0 : State} {lane : Fin 64} {s : State} (h : Upto m s0 s) (hm : Sub
    0x80480008 m) :
    OutUpto m s0 (execBlockLockGain lane s) := by
  unfold execBlockLockGain
  try dsimp only
  repeat' first
    | with_reducible assumption
    | ((with_reducible refine Sub.of hm ?_); rfl)
    | with_reducible apply setLaneSt_upto
    | with_reducible apply modLane_upto
    | with_reducible apply clearTrain_upto
    | with_reducible apply Upto.ite
    | with_reducible apply OutUpto.next

theorem blockErrs_upto {m : Nat} {s0 : State} {n : Nat} {k : Nat} {s : State} (h : Upto m s0 s) (hm : Sub
    0x80000000 m) :
    Upto m s0 (blockErrs n k s) := by
  unfold blockErrs
  try dsimp only
  repeat' first
    | with_reducible assumption
    | with_reducible apply bump_upto

theorem execBlockLockLoss_upto {m : Nat} {s0 : State} {lane : Fin 64} {signal : Bool} {bad : BitVec 16} {s :
    State} (h : Upto m s0 s) (hm : Sub 0xd3c80088 m) :
    OutUpto m s0 (execBlockLockLoss lane signal bad s) := by
  unfold execBlockLockLoss
  try dsimp only
  repeat' first
    | with_reducible assumption
    | ((with_reducible refine Sub.of hm ?_); rfl)
    | with_reducible apply blockErrs_upto
    | with_reducible apply modLane_upto
    | with_reducible apply leaveUp_upto
    | with_reducible apply setLaneSt_upto
    | with_reducible apply clearTrain_upto
    | with_reducible apply OutUpto.next
    | with_reducible apply OutUpto.ite

theorem execAlignReceive_upto {m : Nat} {s0 : State} {lane : Fin 64} {seq : BitVec 16} {bad : BitVec 16} {s :
    State} (h : Upto m s0 s) (hm : Sub 0x80000008 m) :
    OutUpto m s0 (execAlignReceive lane seq bad s) := by
  unfold execAlignReceive
  try dsimp only
  repeat' first
    | with_reducible assumption
    | ((with_reducible refine Sub.of hm ?_); rfl)
    | with_reducible apply modLane_upto
    | with_reducible apply blockErrs_upto
    | with_reducible apply OutUpto.next
    | with_reducible apply OutUpto.ite

theorem enterUp_upto {m : Nat} {s0 : State} {n : Nat} {body : Nat} {s : State} (h : Upto m s0 s) (hm : Sub
    0x80480008 m) :
    Upto m s0 (enterUp n body s) := by
  unfold enterUp
  try dsimp only
  repeat' first
    | with_reducible assumption
    | ((with_reducible refine Sub.of hm ?_); rfl)
    | with_reducible apply setFld_upto
    | with_reducible apply setLaneSt_upto
    | with_reducible apply modLane_upto

theorem trainBlock_upto {m : Nat} {s0 : State} {n : Nat} {body : Nat} {s : State} (h : Upto m s0 s) (hm : Sub
    0xd3c80088 m) :
    Upto m s0 (trainBlock n body s) := by
  unfold trainBlock
  try dsimp only
  repeat' first
    | with_reducible assumption
    | ((with_reducible refine Sub.of hm ?_); rfl)
    | with_reducible apply modLane_upto
    | with_reducible apply enterUp_upto
    | with_reducible apply report_upto
    | with_reducible apply Upto.ite

theorem execTrainReceive_upto {m : Nat} {s0 : State} {lane : Fin 64} {body : BitVec 56} {s : State} (h : Upto m
    s0 s) (hm : Sub 0xd3c80088 m) :
    OutUpto m s0 (execTrainReceive lane body s) := by
  unfold execTrainReceive
  try dsimp only
  repeat' first
    | with_reducible assumption
    | with_reducible apply leaveUp_upto
    | with_reducible apply trainBlock_upto
    | with_reducible apply OutUpto.next
    | with_reducible apply OutUpto.ite

theorem execTrainingTimeout_upto {m : Nat} {s0 : State} {lane : Fin 64} {s : State} (h : Upto m s0 s) (hm : Sub
    0x82480008 m) :
    OutUpto m s0 (execTrainingTimeout lane s) := by
  unfold execTrainingTimeout
  try dsimp only
  repeat' first
    | with_reducible assumption
    | ((with_reducible refine Sub.of hm ?_); rfl)
    | with_reducible apply tally_upto
    | with_reducible apply bump_upto
    | with_reducible apply setLaneSt_upto
    | with_reducible apply modLane_upto
    | with_reducible apply OutUpto.next
    | with_reducible apply OutUpto.ite

theorem execFailRetry_upto {m : Nat} {s0 : State} {lane : Fin 64} {s : State} (h : Upto m s0 s) (hm : Sub
    0x80480008 m) :
    OutUpto m s0 (execFailRetry lane s) := by
  unfold execFailRetry
  try dsimp only
  repeat' first
    | with_reducible assumption
    | ((with_reducible refine Sub.of hm ?_); rfl)
    | with_reducible apply setLaneSt_upto
    | with_reducible apply modLane_upto
    | with_reducible apply OutUpto.next
    | with_reducible apply OutUpto.ite

theorem laneCheck_upto {m : Nat} {s0 : State} {n : Nat} {s : State} (h : Upto m s0 s) (hm : Sub 0xd3c80088 m) :
    Upto m s0 (laneCheck n s) := by
  unfold laneCheck
  try dsimp only
  repeat' first
    | with_reducible assumption
    | ((with_reducible refine Sub.of hm ?_); rfl)
    | with_reducible apply setLaneSt_upto
    | with_reducible apply modLane_upto
    | with_reducible apply report_upto
    | with_reducible apply tally_upto
    | with_reducible apply Upto.ite

theorem laneOff_upto {m : Nat} {s0 : State} {n : Nat} {s : State} (h : Upto m s0 s) (hm : Sub 0x80480008 m) :
    Upto m s0 (laneOff n s) := by
  unfold laneOff
  try dsimp only
  repeat' first
    | with_reducible assumption
    | ((with_reducible refine Sub.of hm ?_); rfl)
    | with_reducible apply setLaneSt_upto
    | with_reducible apply modLane_upto

theorem laneCtrlEffect_upto {m : Nat} {s0 : State} {n : Nat} {s : State} (h : Upto m s0 s) (hm : Sub 0xd3c80088
    m) :
    Upto m s0 (laneCtrlEffect n s) := by
  unfold laneCtrlEffect
  try dsimp only
  repeat' first
    | with_reducible assumption
    | intro _
    | ((with_reducible refine Sub.of hm ?_); rfl)
    | with_reducible apply laneOff_upto
    | with_reducible apply setLaneSt_upto
    | with_reducible apply laneCheck_upto
    | with_reducible apply Upto.forEach
    | with_reducible apply Upto.ite

theorem execLaneCtrlCommit_upto {m : Nat} {s0 : State} {lane : Fin 64} {a : Acc} {s : State} (h : Upto m s0 s)
    (hm : Sub 0x3d3c80088 m) :
    OutUpto m s0 (execLaneCtrlCommit lane a s) := by
  unfold execLaneCtrlCommit
  try dsimp only
  repeat' first
    | with_reducible assumption
    | intro _
    | ((with_reducible refine Sub.of hm ?_); rfl)
    | with_reducible apply regCommit_upto
    | with_reducible apply laneCtrlEffect_upto
    | with_reducible apply OutUpto.next

theorem lfiStore_upto {m : Nat} {s0 : State} {n : Nat} {b : Bool} {r : LfiRec} {s : State} (h : Upto m s0 s) (hm
    : Sub 0x10 m) :
    Upto m s0 (lfiStore n b r s) := by
  unfold lfiStore
  try dsimp only
  repeat' first
    | with_reducible assumption
    | with_reducible apply modLfi_upto

theorem lfiLost_upto {m : Nat} {s0 : State} {n : Nat} {s : State} (h : Upto m s0 s) (hm : Sub 0xd3c80090 m) :
    Upto m s0 (lfiLost n s) := by
  unfold lfiLost
  try dsimp only
  repeat' first
    | with_reducible assumption
    | ((with_reducible refine Sub.of hm ?_); rfl)
    | with_reducible apply modLfi_upto
    | with_reducible apply bump_upto
    | with_reducible apply raise_upto
    | with_reducible apply report_upto

theorem swtDropped_upto {m : Nat} {s0 : State} {b : Nat} {s : State} (h : Upto m s0 s) (hm : Sub 0x80480000 m) :
    Upto m s0 (swtDropped b s) := by
  unfold swtDropped
  try dsimp only
  repeat' first
    | with_reducible assumption
    | ((with_reducible refine Sub.of hm ?_); rfl)
    | with_reducible apply raise_upto
    | with_reducible apply bump_upto

theorem swtWrite_upto {m : Nat} {s0 : State} {b : Nat} {s : State} (h : Upto m s0 s) (hm : Sub 0x2cd7c808c0 m) :
    Upto m s0 (swtWrite b s) := by
  unfold swtWrite
  try dsimp only
  repeat' first
    | with_reducible assumption
    | ((with_reducible refine Sub.of hm ?_); rfl)
    | with_reducible apply swtDropped_upto
    | with_reducible apply modSwt_upto
    | with_reducible apply stlCheckOp_upto
    | with_reducible apply writeBytes_upto
    | with_reducible apply bumpWrap_upto
    | with_reducible apply setFld_upto
    | with_reducible apply raise_upto
    | with_reducible refine Upto.snd (by assumption) ?_
    | split

theorem swtClose_upto {m : Nat} {s0 : State} {b : Nat} {s : State} (h : Upto m s0 s) (hm : Sub 0x2cd7c808c0 m) :
    Upto m s0 (swtClose b s) := by
  unfold swtClose
  try dsimp only
  repeat' first
    | with_reducible assumption
    | ((with_reducible refine Sub.of hm ?_); rfl)
    | with_reducible apply modSwt_upto
    | with_reducible apply swtWrite_upto
    | with_reducible apply Upto.ite

theorem swtOpen_upto {m : Nat} {s0 : State} {b : Nat} {frame : Nat} {s : State} (h : Upto m s0 s) (hm : Sub
    0x2cd7c808c0 m) :
    Upto m s0 (swtOpen b frame s) := by
  unfold swtOpen
  try dsimp only
  repeat' first
    | with_reducible assumption
    | ((with_reducible refine Sub.of hm ?_); rfl)
    | with_reducible apply swtClose_upto
    | with_reducible apply modSwt_upto
    | with_reducible apply Upto.ite

theorem swtTake_upto {m : Nat} {s0 : State} {n : Nat} {b : Nat} {r : LfiRec} {s : State} (h : Upto m s0 s) (hm :
    Sub 0x40 m) :
    Upto m s0 (swtTake n b r s) := by
  unfold swtTake
  try dsimp only
  repeat' first
    | with_reducible assumption
    | with_reducible apply modSwt_upto

theorem swtWatch_upto {m : Nat} {s0 : State} {n : Nat} {r : LfiRec} {s : State} (h : Upto m s0 s) (hm : Sub
    0x2cd7c808c0 m) :
    Upto m s0 (swtWatch n r s) := by
  unfold swtWatch
  try dsimp only
  repeat' first
    | with_reducible assumption
    | ((with_reducible refine Sub.of hm ?_); rfl)
    | with_reducible apply swtOpen_upto
    | with_reducible apply swtTake_upto
    | with_reducible apply modSwt_upto
    | with_reducible apply swtClose_upto
    | with_reducible apply Upto.ite

theorem swtLatch_upto {m : Nat} {s0 : State} {b : Nat} {s : State} (h : Upto m s0 s) (hm : Sub 0x2cd7c808c0 m) :
    Upto m s0 (swtLatch b s) := by
  unfold swtLatch
  try dsimp only
  repeat' first
    | with_reducible assumption
    | with_reducible apply swtClose_upto

theorem swtTelem_upto {m : Nat} {s0 : State} {n : Nat} {frame : Nat} {bytes : List Nat} {s : State} (h : Upto m
    s0 s) (hm : Sub 0x2cd7c808c0 m) :
    Upto m s0 (swtTelem n frame bytes s) := by
  unfold swtTelem
  try dsimp only
  repeat' first
    | with_reducible assumption
    | ((with_reducible refine Sub.of hm ?_); rfl)
    | with_reducible apply swtOpen_upto
    | with_reducible apply modSwt_upto
    | with_reducible apply Upto.ite

theorem putRecord_upto {m : Nat} {s0 : State} {n : Nat} {r : LfiRec} {s : State} (h : Upto m s0 s) (hm : Sub
    0x2cd7c808d0 m) :
    Upto m s0 (putRecord n r s) := by
  unfold putRecord
  try dsimp only
  repeat' first
    | with_reducible assumption
    | ((with_reducible refine Sub.of hm ?_); rfl)
    | with_reducible apply swtWatch_upto
    | with_reducible apply lfiStore_upto
    | with_reducible apply lfiLost_upto
    | split

theorem missLine_upto {m : Nat} {s0 : State} {n : Nat} {s : State} (h : Upto m s0 s) (hm : Sub 0x2cd7c808d8 m) :
    Upto m s0 (missLine n s) := by
  unfold missLine
  try dsimp only
  repeat' first
    | with_reducible assumption
    | ((with_reducible refine Sub.of hm ?_); rfl)
    | with_reducible apply putRecord_upto
    | with_reducible apply bump_upto
    | with_reducible apply modLane_upto

theorem missUntil_upto {m : Nat} {s0 : State} {n : Nat} {line : Nat} {a2 : Nat} {a3 : State} (h : Upto m s0 a3)
    (hm : Sub 0x2cd7c808d8 m) :
    Upto m s0 (missUntil n line a2 a3) := by
  induction a2 generalizing n line a3 with
  | zero =>
    unfold missUntil
    try dsimp only
    repeat' first
      | with_reducible assumption
      | with_reducible apply missLine_upto
      | with_reducible apply Upto.ite
  | succ n1 ih =>
    unfold missUntil
    try dsimp only
    repeat' first
      | with_reducible assumption
      | with_reducible apply ih
      | with_reducible apply missLine_upto
      | with_reducible apply Upto.ite

theorem closeFrame_upto {m : Nat} {s0 : State} {n : Nat} {s : State} (h : Upto m s0 s) (hm : Sub 0x2cd7c808d8 m)
    :
    Upto m s0 (closeFrame n s) := by
  unfold closeFrame
  try dsimp only
  repeat' first
    | with_reducible assumption
    | with_reducible apply missUntil_upto

theorem openFrame_upto {m : Nat} {s0 : State} {n : Nat} {frame : Nat} {s : State} (h : Upto m s0 s) (hm : Sub
    0x18 m) :
    Upto m s0 (openFrame n frame s) := by
  unfold openFrame
  try dsimp only
  repeat' first
    | with_reducible assumption
    | ((with_reducible refine Sub.of hm ?_); rfl)
    | with_reducible apply modLfi_upto
    | with_reducible apply modLane_upto

theorem advanceFrame_upto {m : Nat} {s0 : State} {n : Nat} {frame : Nat} {s : State} (h : Upto m s0 s) (hm : Sub
    0x2cd7c808d8 m) :
    Upto m s0 (advanceFrame n frame s) := by
  unfold advanceFrame
  try dsimp only
  repeat' first
    | with_reducible assumption
    | ((with_reducible refine Sub.of hm ?_); rfl)
    | with_reducible apply closeFrame_upto
    | with_reducible apply openFrame_upto
    | with_reducible apply bump_upto
    | with_reducible apply Upto.ite

theorem storeLine_upto {m : Nat} {s0 : State} {n : Nat} {line : Nat} {frame : Nat} {bytes : List Nat} {crcerr :
    Bool} {lenerr : Bool} {s : State} (h : Upto m s0 s) (hm : Sub 0x2cd7c808d8 m) :
    Upto m s0 (storeLine n line frame bytes crcerr lenerr s) := by
  unfold storeLine
  try dsimp only
  repeat' first
    | with_reducible assumption
    | ((with_reducible refine Sub.of hm ?_); rfl)
    | with_reducible apply modLane_upto
    | with_reducible apply lfiLost_upto
    | with_reducible apply tally_upto
    | with_reducible apply bump_upto
    | with_reducible apply swtWatch_upto
    | with_reducible apply lfiStore_upto
    | with_reducible apply bumpWrap_upto
    | with_reducible apply Upto.ite
    | split

theorem lineArrives_upto {m : Nat} {s0 : State} {n : Nat} {line : Nat} {frame : Nat} {bytes : List Nat} {crcerr
    : Bool} {lenerr : Bool} {s : State} (h : Upto m s0 s) (hm : Sub 0x2cd7c808d8 m) :
    Upto m s0 (lineArrives n line frame bytes crcerr lenerr s) := by
  unfold lineArrives
  try dsimp only
  repeat' first
    | with_reducible assumption
    | ((with_reducible refine Sub.of hm ?_); rfl)
    | with_reducible apply bump_upto
    | with_reducible apply openFrame_upto
    | with_reducible apply advanceFrame_upto
    | with_reducible apply storeLine_upto
    | with_reducible apply missUntil_upto
    | with_reducible apply Upto.ite

theorem packetIn_upto {m : Nat} {s0 : State} {n : Nat} {sop : Nat} {payload : List Nat} {eop : Option Nat} {s :
    State} (h : Upto m s0 s) (hm : Sub 0x2cd7c808d8 m) :
    Upto m s0 (packetIn n sop payload eop s) := by
  unfold packetIn
  try dsimp only
  repeat' first
    | with_reducible assumption
    | ((with_reducible refine Sub.of hm ?_); rfl)
    | with_reducible apply bump_upto
    | with_reducible apply lineArrives_upto
    | with_reducible apply swtTelem_upto
    | with_reducible apply Upto.ite

theorem execLinePacketReceive_upto {m : Nat} {s0 : State} {lane : Fin 64} {sop : BitVec 56} {payload : List
    Byte} {eop : BitVec 56} {s : State} (h : Upto m s0 s) (hm : Sub 0x2cd7c808d8 m) :
    OutUpto m s0 (execLinePacketReceive lane sop payload eop s) := by
  unfold execLinePacketReceive
  try dsimp only
  repeat' first
    | with_reducible assumption
    | with_reducible apply packetIn_upto
    | with_reducible apply OutUpto.next

theorem execPacketAbortClose_upto {m : Nat} {s0 : State} {lane : Fin 64} {sop : BitVec 56} {payload : List Byte}
    {s : State} (h : Upto m s0 s) (hm : Sub 0x2cd7c808d8 m) :
    OutUpto m s0 (execPacketAbortClose lane sop payload s) := by
  unfold execPacketAbortClose
  try dsimp only
  repeat' first
    | with_reducible assumption
    | with_reducible apply packetIn_upto
    | with_reducible apply OutUpto.next

theorem execTelemetryReceive_upto {m : Nat} {s0 : State} {lane : Fin 64} {sop : BitVec 56} {payload : List Byte}
    {eop : BitVec 56} {s : State} (h : Upto m s0 s) (hm : Sub 0x2cd7c808d8 m) :
    OutUpto m s0 (execTelemetryReceive lane sop payload eop s) := by
  unfold execTelemetryReceive
  try dsimp only
  repeat' first
    | with_reducible assumption
    | with_reducible apply packetIn_upto
    | with_reducible apply OutUpto.next

theorem execLineDeadline_upto {m : Nat} {s0 : State} {lane : Fin 64} {s : State} (h : Upto m s0 s) (hm : Sub
    0x2cd7c808d8 m) :
    OutUpto m s0 (execLineDeadline lane s) := by
  unfold execLineDeadline
  try dsimp only
  repeat' first
    | with_reducible assumption
    | with_reducible apply missLine_upto
    | with_reducible apply OutUpto.next
    | with_reducible apply OutUpto.ite
    | split

theorem triggerLane_upto {m : Nat} {s0 : State} {frame : Nat} {pos : Nat} {n : Nat} {s : State} (h : Upto m s0
    s) (hm : Sub 0x2cd7c808d8 m) :
    Upto m s0 (triggerLane frame pos n s) := by
  unfold triggerLane
  try dsimp only
  repeat' first
    | with_reducible assumption
    | ((with_reducible refine Sub.of hm ?_); rfl)
    | with_reducible apply openFrame_upto
    | with_reducible apply advanceFrame_upto
    | with_reducible apply modLane_upto
    | with_reducible apply Upto.ite

theorem launchWord_upto {m : Nat} {s0 : State} {n : Nat} {w : Nat} {s : State} (h : Upto m s0 s) (hm : Sub
    0x2cd7c808d8 m) :
    Upto m s0 (launchWord n w s) := by
  unfold launchWord
  try dsimp only
  repeat' first
    | with_reducible assumption
    | intro _
    | ((with_reducible refine Sub.of hm ?_); rfl)
    | with_reducible apply bump_upto
    | with_reducible apply modLane_upto
    | with_reducible apply triggerLane_upto
    | with_reducible apply Upto.forEach
    | with_reducible apply Upto.ite

theorem handWord_upto {m : Nat} {s0 : State} {target : Nat} {w : Nat} {s : State} (h : Upto m s0 s) (hm : Sub
    0x8 m) :
    Upto m s0 (handWord target w s) := by
  unfold handWord
  try dsimp only
  repeat' first
    | with_reducible assumption
    | with_reducible apply modLane_upto

theorem execLanewordLaunch_upto {m : Nat} {s0 : State} {lane : Fin 64} {s : State} (h : Upto m s0 s) (hm : Sub
    0x2cd7c808d8 m) :
    OutUpto m s0 (execLanewordLaunch lane s) := by
  unfold execLanewordLaunch
  try dsimp only
  repeat' first
    | with_reducible assumption
    | ((with_reducible refine Sub.of hm ?_); rfl)
    | with_reducible apply modLane_upto
    | with_reducible apply raise_upto
    | with_reducible apply bump_upto
    | with_reducible apply launchWord_upto
    | with_reducible apply Upto.ite
    | with_reducible apply OutUpto.next
    | with_reducible apply OutUpto.ite
    | split

theorem txwEffect_upto {m : Nat} {s0 : State} {n : Nat} {v : List Nat} {s : State} (h : Upto m s0 s) (hm : Sub
    0x8 m) :
    Upto m s0 (txwEffect n v s) := by
  unfold txwEffect
  try dsimp only
  repeat' first
    | with_reducible assumption
    | with_reducible apply modLane_upto

theorem execLaneTxwQueue_upto {m : Nat} {s0 : State} {lane : Fin 64} {a : Acc} {s : State} (h : Upto m s0 s) (hm
    : Sub 0x380000008 m) :
    OutUpto m s0 (execLaneTxwQueue lane a s) := by
  unfold execLaneTxwQueue
  try dsimp only
  repeat' first
    | with_reducible assumption
    | intro _
    | ((with_reducible refine Sub.of hm ?_); rfl)
    | with_reducible apply regCommit_upto
    | with_reducible apply txwEffect_upto
    | with_reducible apply OutUpto.next

theorem execTxwSend_upto {m : Nat} {s0 : State} {lane : Fin 64} {s : State} (h : Upto m s0 s) (hm : Sub
    0x2cd7c808d8 m) :
    OutUpto m s0 (execTxwSend lane s) := by
  unfold execTxwSend
  try dsimp only
  repeat' first
    | with_reducible assumption
    | ((with_reducible refine Sub.of hm ?_); rfl)
    | with_reducible apply launchWord_upto
    | with_reducible apply modLane_upto
    | with_reducible apply OutUpto.next
    | with_reducible apply OutUpto.ite
    | split

theorem freeRecs_upto {m : Nat} {s0 : State} {p : Nat} {a1 : Nat} {c : LfiRec → Bool} {s : State} (h : Upto m s0
    s) (hm : Sub 0x10 m) :
    Upto m s0 (freeRecs p a1 c s) := by
  unfold freeRecs
  try dsimp only
  repeat' first
    | with_reducible assumption
    | with_reducible apply modLfi_upto

theorem portNext_upto {m : Nat} {s0 : State} {b : Nat} {p : Nat} {r : LfiRec} {s : State} (h : Upto m s0 s) (hm
    : Sub 0x30 m) :
    Upto m s0 (portNext b p r s) := by
  unfold portNext
  try dsimp only
  repeat' first
    | with_reducible assumption
    | ((with_reducible refine Sub.of hm ?_); rfl)
    | with_reducible apply modPort_upto
    | with_reducible apply freeRecs_upto
    | with_reducible apply Upto.ite

theorem portRead_upto {m : Nat} {s0 : State} {b : Nat} {p : Nat} {s : State} (h : Upto m s0 s) (hm : Sub 0x10 m)
    :
    Upto m s0 (portRead b p s) := by
  unfold portRead
  try dsimp only
  repeat' first
    | with_reducible assumption
    | intro _
    | with_reducible apply modLfi_upto
    | with_reducible apply Upto.forEach

theorem idleSettle_upto {m : Nat} {s0 : State} {b : Nat} {s : State} (h : Upto m s0 s) (hm : Sub 0x10 m) :
    Upto m s0 (idleSettle b s) := by
  unfold idleSettle
  try dsimp only
  repeat' first
    | with_reducible assumption
    | intro _
    | with_reducible apply modLfi_upto
    | with_reducible apply Upto.forEach

theorem portOp_upto {m : Nat} {s0 : State} {b : Nat} {p : Nat} {f : State → Option State} {s : State} (h : Upto
    m s0 s) (hf : ∀ x0, Upto m s0 x0 → OptUpto m s0 (f x0)) (hm : Sub 0x20 m) :
    Upto m s0 (portOp b p f s) := by
  unfold portOp
  try dsimp only
  repeat' first
    | with_reducible assumption
    | with_reducible apply modPort_upto
    | with_reducible apply hf
    | with_reducible apply Upto.ite
    | with_reducible refine Upto.of_some (by assumption) ?_
    | split

theorem portReadOp_upto {m : Nat} {s0 : State} {b : Nat} {p : Nat} {k : Nat} {s : State} (h : Upto m s0 s) (hm :
    Sub 0x30 m) :
    Upto m s0 (portReadOp b p k s) := by
  unfold portReadOp
  try dsimp only
  repeat' first
    | with_reducible assumption
    | ((with_reducible refine Sub.of hm ?_); rfl)
    | with_reducible apply modPort_upto
    | with_reducible apply portRead_upto
    | with_reducible apply idleSettle_upto
    | with_reducible apply portNext_upto
    | with_reducible apply Upto.ite
    | split

theorem markMode_upto {m : Nat} {s0 : State} {s : State} {b : Nat} {t : State} (h : Upto m s0 t) :
    OptUpto m s0 (markMode s b t) := by
  unfold markMode
  try dsimp only
  repeat' first
    | with_reducible assumption
    | with_reducible apply OptUpto.some
    | with_reducible apply OptUpto.none
    | with_reducible apply OptUpto.ite

theorem portMark_upto {m : Nat} {s0 : State} {b : Nat} {p : Nat} {s : State} (h : Upto m s0 s) (hm : Sub 0x20 m)
    :
    OptUpto m s0 (portMark b p s) := by
  unfold portMark
  try dsimp only
  repeat' first
    | with_reducible assumption
    | with_reducible apply markMode_upto
    | with_reducible apply modPort_upto

theorem portRewind_upto {m : Nat} {s0 : State} {b : Nat} {p : Nat} {s : State} (h : Upto m s0 s) (hm : Sub 0x20
    m) :
    OptUpto m s0 (portRewind b p s) := by
  unfold portRewind
  try dsimp only
  repeat' first
    | with_reducible assumption
    | with_reducible apply markMode_upto
    | with_reducible apply modPort_upto
    | with_reducible apply OptUpto.none
    | split

theorem portRelease_upto {m : Nat} {s0 : State} {b : Nat} {p : Nat} {s : State} (h : Upto m s0 s) (hm : Sub 0x30
    m) :
    OptUpto m s0 (portRelease b p s) := by
  unfold portRelease
  try dsimp only
  repeat' first
    | with_reducible assumption
    | intro _
    | ((with_reducible refine Sub.of hm ?_); rfl)
    | with_reducible apply freeRecs_upto
    | with_reducible apply markMode_upto
    | with_reducible apply modPort_upto
    | with_reducible apply Upto.forEach

theorem portDrop_upto {m : Nat} {s0 : State} {b : Nat} {p : Nat} {s : State} (h : Upto m s0 s) (hm : Sub 0x30 m)
    :
    OptUpto m s0 (portDrop b p s) := by
  unfold portDrop
  try dsimp only
  repeat' first
    | with_reducible assumption
    | ((with_reducible refine Sub.of hm ?_); rfl)
    | with_reducible apply idleSettle_upto
    | with_reducible apply portNext_upto
    | with_reducible apply OptUpto.some
    | split

theorem execLfiRead_upto {m : Nat} {s0 : State} {base : Fin 64} {port : Fin 2} {words : BitVec 14} {s : State}
    (h : Upto m s0 s) (hm : Sub 0x30 m) :
    OutUpto m s0 (execLfiRead base port words s) := by
  unfold execLfiRead
  try dsimp only
  repeat' first
    | with_reducible assumption
    | intro _
    | ((with_reducible refine Sub.of hm ?_); rfl)
    | with_reducible apply portOp_upto
    | with_reducible apply portReadOp_upto
    | with_reducible apply OutUpto.next
    | with_reducible apply OptUpto.some

theorem execLfiMark_upto {m : Nat} {s0 : State} {base : Fin 64} {port : Fin 2} {s : State} (h : Upto m s0 s) (hm
    : Sub 0x20 m) :
    OutUpto m s0 (execLfiMark base port s) := by
  unfold execLfiMark
  try dsimp only
  repeat' first
    | with_reducible assumption
    | intro _
    | with_reducible apply portOp_upto
    | with_reducible apply portMark_upto
    | with_reducible apply OutUpto.next

theorem execLfiRewind_upto {m : Nat} {s0 : State} {base : Fin 64} {port : Fin 2} {s : State} (h : Upto m s0 s)
    (hm : Sub 0x20 m) :
    OutUpto m s0 (execLfiRewind base port s) := by
  unfold execLfiRewind
  try dsimp only
  repeat' first
    | with_reducible assumption
    | intro _
    | with_reducible apply portOp_upto
    | with_reducible apply portRewind_upto
    | with_reducible apply OutUpto.next

theorem execLfiRelease_upto {m : Nat} {s0 : State} {base : Fin 64} {port : Fin 2} {s : State} (h : Upto m s0 s)
    (hm : Sub 0x30 m) :
    OutUpto m s0 (execLfiRelease base port s) := by
  unfold execLfiRelease
  try dsimp only
  repeat' first
    | with_reducible assumption
    | intro _
    | ((with_reducible refine Sub.of hm ?_); rfl)
    | with_reducible apply portOp_upto
    | with_reducible apply portRelease_upto
    | with_reducible apply OutUpto.next

theorem execLfiDrop_upto {m : Nat} {s0 : State} {base : Fin 64} {port : Fin 2} {s : State} (h : Upto m s0 s) (hm
    : Sub 0x30 m) :
    OutUpto m s0 (execLfiDrop base port s) := by
  unfold execLfiDrop
  try dsimp only
  repeat' first
    | with_reducible assumption
    | intro _
    | ((with_reducible refine Sub.of hm ?_); rfl)
    | with_reducible apply portOp_upto
    | with_reducible apply portDrop_upto
    | with_reducible apply OutUpto.next

theorem lfiFlushed_upto {m : Nat} {s0 : State} {n : Nat} {s : State} (h : Upto m s0 s) (hm : Sub 0x10 m) :
    Upto m s0 (lfiFlushed n s) := by
  unfold lfiFlushed
  try dsimp only
  repeat' first
    | with_reducible assumption
    | with_reducible apply modLfi_upto

theorem execLfiFlush_upto {m : Nat} {s0 : State} {req : Req} {lfi : Fin 64} {s : State} (h : Upto m s0 s) (hm :
    Sub 0x380000010 m) :
    OutUpto m s0 (execLfiFlush req lfi s) := by
  unfold execLfiFlush
  try dsimp only
  repeat' first
    | with_reducible assumption
    | intro _
    | ((with_reducible refine Sub.of hm ?_); rfl)
    | with_reducible apply regCommit_upto
    | with_reducible apply lfiFlushed_upto
    | with_reducible apply OutUpto.next

theorem execLfiIdleNotice_upto {m : Nat} {s0 : State} {lfi : Fin 64} {s : State} (h : Upto m s0 s) (hm : Sub
    0x80480010 m) :
    OutUpto m s0 (execLfiIdleNotice lfi s) := by
  unfold execLfiIdleNotice
  try dsimp only
  repeat' first
    | with_reducible assumption
    | ((with_reducible refine Sub.of hm ?_); rfl)
    | with_reducible apply modLfi_upto
    | with_reducible apply raise_upto
    | with_reducible apply bump_upto
    | with_reducible apply Upto.ite
    | with_reducible apply OutUpto.next
    | with_reducible apply OutUpto.ite

theorem portStart_upto {m : Nat} {s0 : State} {b : Nat} {p : Nat} {s : State} (h : Upto m s0 s) (hm : Sub 0x30
    m) :
    Upto m s0 (portStart b p s) := by
  unfold portStart
  try dsimp only
  repeat' first
    | with_reducible assumption
    | intro _
    | ((with_reducible refine Sub.of hm ?_); rfl)
    | with_reducible apply modPort_upto
    | with_reducible apply modLfi_upto
    | with_reducible apply Upto.forEach

theorem lfiCfgEffect_upto {m : Nat} {s0 : State} {n : Nat} {old : State} {s : State} (h : Upto m s0 s) (hm : Sub
    0x30 m) :
    Upto m s0 (lfiCfgEffect n old s) := by
  unfold lfiCfgEffect
  try dsimp only
  repeat' first
    | with_reducible assumption
    | intro _
    | ((with_reducible refine Sub.of hm ?_); rfl)
    | with_reducible apply portStart_upto
    | with_reducible apply modPort_upto
    | with_reducible apply Upto.forEach
    | with_reducible apply Upto.ite

theorem execSwtBufQueue_upto {m : Nat} {s0 : State} {swt : Fin 64} {a : Acc} {s : State} (h : Upto m s0 s) (hm :
    Sub 0x380000040 m) :
    OutUpto m s0 (execSwtBufQueue swt a s) := by
  unfold execSwtBufQueue
  try dsimp only
  repeat' first
    | with_reducible assumption
    | intro _
    | ((with_reducible refine Sub.of hm ?_); rfl)
    | with_reducible apply regCommit_upto
    | with_reducible apply modSwt_upto
    | with_reducible apply OutUpto.next

end Sys2Proof.Machine
end

