-- ==== Sys2Proof/Laws/UptoLedger.lean ====
section
/-! SUPPORT. What each operation of Machine/Ledger.lean leaves unchanged (Laws/Upto.lean). -/

set_option linter.unusedTactic false
set_option linter.unreachableTactic false

namespace Sys2Proof.Machine

theorem modLdg_upto {m : Nat} {s0 : State} {f : Ldg → Ldg} {s : State} (h : Upto m s0 s) (hm : Sub 0x1000000 m)
    :
    Upto m s0 (modLdg f s) := by
  unfold modLdg
  try dsimp only
  repeat' first
    | with_reducible assumption
    | fail_if_no_progress with_reducible refine Upto.ldg_set ?_ (hm.bit rfl)

theorem putUnit_upto {m : Nat} {s0 : State} {u : Nat} {b : List Nat} {s : State} (h : Upto m s0 s) (hm : Sub
    0x1000000 m) :
    Upto m s0 (putUnit u b s) := by
  unfold putUnit
  try dsimp only
  repeat' first
    | with_reducible assumption
    | with_reducible apply modLdg_upto

theorem modTly_upto {m : Nat} {s0 : State} {f : Tly → Tly} {s : State} (h : Upto m s0 s) (hm : Sub 0x2000000 m)
    :
    Upto m s0 (modTly f s) := by
  unfold modTly
  try dsimp only
  repeat' first
    | with_reducible assumption
    | fail_if_no_progress with_reducible refine Upto.tly_set ?_ (hm.bit rfl)

theorem snapStart_upto {m : Nat} {s0 : State} {s : State} (h : Upto m s0 s) (hm : Sub 0x2000000 m) :
    Upto m s0 (snapStart s) := by
  unfold snapStart
  try dsimp only
  repeat' first
    | with_reducible assumption
    | with_reducible apply modTly_upto

theorem snapDue_upto {m : Nat} {s0 : State} {s : State} (h : Upto m s0 s) (hm : Sub 0x2000000 m) :
    Upto m s0 (snapDue s) := by
  unfold snapDue
  try dsimp only
  repeat' first
    | with_reducible assumption
    | with_reducible apply modTly_upto
    | with_reducible apply snapStart_upto
    | with_reducible apply Upto.ite

theorem snapDone_upto {m : Nat} {s0 : State} {x : Snap} {s : State} (h : Upto m s0 s) (hm : Sub 0x82480000 m) :
    Upto m s0 (snapDone x s) := by
  unfold snapDone
  try dsimp only
  repeat' first
    | with_reducible assumption
    | ((with_reducible refine Sub.of hm ?_); rfl)
    | with_reducible apply raise_upto
    | with_reducible apply setFld_upto
    | with_reducible apply modTly_upto
    | with_reducible apply snapStart_upto
    | with_reducible apply Upto.ite

theorem recordTaken_upto {m : Nat} {s0 : State} {src : Nat} {s : State} (h : Upto m s0 s) (hm : Sub 0x83480000
    m) :
    Upto m s0 (recordTaken src s) := by
  unfold recordTaken
  try dsimp only
  repeat' first
    | with_reducible assumption
    | ((with_reducible refine Sub.of hm ?_); rfl)
    | with_reducible apply modLdg_upto
    | with_reducible apply snapDone_upto
    | with_reducible apply modTly_upto
    | with_reducible apply Upto.ite
    | split

theorem writeSlot_upto {m : Nat} {s0 : State} {b : List Nat} {seq : Nat} {s : State} (h : Upto m s0 s) (hm : Sub
    0x1000000 m) :
    Upto m s0 (writeSlot b seq s) := by
  unfold writeSlot
  try dsimp only
  repeat' first
    | with_reducible assumption
    | with_reducible apply modLdg_upto
    | with_reducible apply putUnit_upto

theorem writeFailed_upto {m : Nat} {s0 : State} {s : State} (h : Upto m s0 s) (hm : Sub 0xd3c80081 m) :
    Upto m s0 (writeFailed s) := by
  unfold writeFailed
  try dsimp only
  repeat' first
    | with_reducible assumption
    | ((with_reducible refine Sub.of hm ?_); rfl)
    | with_reducible apply modLdg_upto
    | with_reducible apply putUnit_upto
    | with_reducible apply takeFree_upto
    | with_reducible apply report_upto

theorem execLedgerRecordWrite_upto {m : Nat} {s0 : State} {readback : Bool} {s : State} (h : Upto m s0 s) (hm :
    Sub 0xd3c80081 m) :
    OutUpto m s0 (execLedgerRecordWrite readback s) := by
  unfold execLedgerRecordWrite
  try dsimp only
  repeat' first
    | with_reducible assumption
    | ((with_reducible refine Sub.of hm ?_); rfl)
    | with_reducible apply writeFailed_upto
    | with_reducible apply tally_upto
    | with_reducible apply bump_upto
    | with_reducible apply writeSlot_upto
    | with_reducible apply recordTaken_upto
    | with_reducible apply OutUpto.next
    | with_reducible apply OutUpto.ite
    | split

theorem execLedgerScan_upto {m : Nat} {s0 : State} {identity : Bool} {corrected : BitVec 16} {bad : List (Fin
    57280)} {s : State} (h : Upto m s0 s) (hm : Sub 0xd3c80080 m) :
    OutUpto m s0 (execLedgerScan identity corrected bad s) := by
  unfold execLedgerScan
  try dsimp only
  repeat' first
    | with_reducible assumption
    | intro _
    | ((with_reducible refine Sub.of hm ?_); rfl)
    | with_reducible apply bump_upto
    | with_reducible apply modLdg_upto
    | with_reducible apply report_upto
    | with_reducible apply Upto.forEach
    | with_reducible apply Upto.ite
    | with_reducible apply OutUpto.next
    | with_reducible apply OutUpto.ite
    | split

theorem execLdgUrec_upto {m : Nat} {s0 : State} {req : Req} {payload : BitVec 352} {s : State} (h : Upto m s0 s)
    (hm : Sub 0x3d3c80080 m) :
    OutUpto m s0 (execLdgUrec req payload s) := by
  unfold execLdgUrec
  try dsimp only
  repeat' first
    | with_reducible assumption
    | intro _
    | ((with_reducible refine Sub.of hm ?_); rfl)
    | with_reducible apply commitWords_upto
    | with_reducible apply ldgPush_upto
    | with_reducible apply OutUpto.next

theorem execTlySnap_upto {m : Nat} {s0 : State} {req : Req} {s : State} (h : Upto m s0 s) (hm : Sub 0x382000000
    m) :
    OutUpto m s0 (execTlySnap req s) := by
  unfold execTlySnap
  try dsimp only
  repeat' first
    | with_reducible assumption
    | intro _
    | ((with_reducible refine Sub.of hm ?_); rfl)
    | with_reducible apply regCommit_upto
    | with_reducible apply snapDue_upto
    | with_reducible apply OutUpto.next

theorem execTallySnapshotHourly_upto {m : Nat} {s0 : State} {s : State} (h : Upto m s0 s) (hm : Sub 0x2000000 m)
    :
    OutUpto m s0 (execTallySnapshotHourly s) := by
  unfold execTallySnapshotHourly
  try dsimp only
  repeat' first
    | with_reducible assumption
    | with_reducible apply snapDue_upto
    | with_reducible apply modTly_upto
    | with_reducible apply Upto.ite
    | with_reducible apply OutUpto.next

theorem histBump_upto {m : Nat} {s0 : State} {a0 : Nat} {b : Nat} {s : State} (h : Upto m s0 s) (hm : Sub
    0x2000000 m) :
    Upto m s0 (histBump a0 b s) := by
  unfold histBump
  try dsimp only
  repeat' first
    | with_reducible assumption
    | with_reducible apply modTly_upto

theorem execTallyHistogramSample_upto {m : Nat} {s0 : State} {supplies : List Int} {use : List Nat} {s : State}
    (h : Upto m s0 s) (hm : Sub 0x2000000 m) :
    OutUpto m s0 (execTallyHistogramSample supplies use s) := by
  unfold execTallyHistogramSample
  try dsimp only
  repeat' first
    | with_reducible assumption
    | intro _
    | with_reducible apply modTly_upto
    | with_reducible apply tally_upto
    | with_reducible apply histBump_upto
    | with_reducible apply Upto.forEach
    | with_reducible apply Upto.ite
    | with_reducible apply OutUpto.next
    | with_reducible apply OutUpto.ite

theorem execTallyLoad_upto {m : Nat} {s0 : State} {s : State} (h : Upto m s0 s) (hm : Sub 0xd3c80080 m) :
    OutUpto m s0 (execTallyLoad s) := by
  unfold execTallyLoad
  try dsimp only
  repeat' first
    | with_reducible assumption
    | ((with_reducible refine Sub.of hm ?_); rfl)
    | with_reducible apply modTly_upto
    | with_reducible apply report_upto
    | with_reducible apply setFld_upto
    | with_reducible apply Upto.ite
    | with_reducible apply OutUpto.next
    | with_reducible apply OutUpto.ite
    | split

theorem execTlyInc_upto {m : Nat} {s0 : State} {a : Acc} {s : State} (h : Upto m s0 s) (hm : Sub 0x382000000 m)
    :
    OutUpto m s0 (execTlyInc a s) := by
  unfold execTlyInc
  try dsimp only
  repeat' first
    | with_reducible assumption
    | intro _
    | ((with_reducible refine Sub.of hm ?_); rfl)
    | with_reducible apply regCommit_upto
    | with_reducible apply tallyAdd_upto
    | with_reducible apply OutUpto.next

theorem execTlyHinc_upto {m : Nat} {s0 : State} {a : Acc} {s : State} (h : Upto m s0 s) (hm : Sub 0x382000000 m)
    :
    OutUpto m s0 (execTlyHinc a s) := by
  unfold execTlyHinc
  try dsimp only
  repeat' first
    | with_reducible assumption
    | intro _
    | ((with_reducible refine Sub.of hm ?_); rfl)
    | with_reducible apply regCommit_upto
    | with_reducible apply histBump_upto
    | with_reducible apply OutUpto.next

theorem rspAnswer_upto {m : Nat} {s0 : State} {op : Nat} {status : Nat} {tag : Byte} {data : List Nat} {s :
    State} (h : Upto m s0 s) (hm : Sub 0x81000000 m) :
    Upto m s0 (rspAnswer op status tag data s) := by
  unfold rspAnswer
  try dsimp only
  repeat' first
    | with_reducible assumption
    | ((with_reducible refine Sub.of hm ?_); rfl)
    | with_reducible apply bump_upto
    | with_reducible apply modLdg_upto
    | with_reducible apply Upto.ite

theorem execRspIdent_upto {m : Nat} {s0 : State} {dst : BitVec 48} {tag : Byte} {uid : DWord} {s : State} (h :
    Upto m s0 s) (hm : Sub 0x81000000 m) :
    OutUpto m s0 (execRspIdent dst tag uid s) := by
  unfold execRspIdent
  try dsimp only
  repeat' first
    | with_reducible assumption
    | with_reducible apply rspAnswer_upto
    | with_reducible apply Upto.ite
    | with_reducible apply OutUpto.next

theorem execRspRead_upto {m : Nat} {s0 : State} {dst : BitVec 48} {tag : Byte} {unit : BitVec 16} {count : Byte}
    {uid : DWord} {s : State} (h : Upto m s0 s) (hm : Sub 0x81000000 m) :
    OutUpto m s0 (execRspRead dst tag unit count uid s) := by
  unfold execRspRead
  try dsimp only
  repeat' first
    | with_reducible assumption
    | with_reducible apply rspAnswer_upto
    | with_reducible apply OutUpto.next
    | with_reducible apply OutUpto.ite

theorem execRspWake_upto {m : Nat} {s0 : State} {dst : BitVec 48} {tag : Byte} {uid : DWord} {s : State} (h :
    Upto m s0 s) (hm : Sub 0x81400000 m) :
    OutUpto m s0 (execRspWake dst tag uid s) := by
  unfold execRspWake
  try dsimp only
  repeat' first
    | with_reducible assumption
    | ((with_reducible refine Sub.of hm ?_); rfl)
    | with_reducible apply rspAnswer_upto
    | with_reducible apply Upto.ite
    | with_reducible apply OutUpto.next
    | with_reducible apply OutUpto.ite
    | fail_if_no_progress with_reducible refine Upto.pwr_set ?_ (hm.bit rfl)

theorem writeEquiv_upto {m : Nat} {s0 : State} {slot : Nat} {b : List Nat} {s : State} (h : Upto m s0 s) (hm :
    Sub 0x1000000 m) :
    Upto m s0 (writeEquiv slot b s) := by
  unfold writeEquiv
  try dsimp only
  repeat' first
    | with_reducible assumption
    | intro _
    | with_reducible apply putUnit_upto
    | with_reducible apply Upto.forEach

theorem ldgDown_upto {m : Nat} {s0 : State} {s : State} (h : Upto m s0 s) (hm : Sub 0x3000000 m) :
    Upto m s0 (ldgDown s) := by
  unfold ldgDown
  try dsimp only
  repeat' first
    | with_reducible assumption
    | ((with_reducible refine Sub.of hm ?_); rfl)
    | with_reducible apply modLdg_upto
    | with_reducible apply modTly_upto

end Sys2Proof.Machine
end

