-- ==== Sys2Proof/Laws/UptoMailbox.lean ====
section
/-! SUPPORT. What each operation of Machine/Mailbox.lean leaves unchanged (Laws/Upto.lean). -/

set_option linter.unusedTactic false
set_option linter.unreachableTactic false

namespace Sys2Proof.Machine

theorem modMbx_upto {m : Nat} {s0 : State} {a0 : Nat} {f : Mbx → Mbx} {s : State} (h : Upto m s0 s) (hm : Sub
    0x100000 m) :
    Upto m s0 (modMbx a0 f s) := by
  unfold modMbx
  try dsimp only
  repeat' first
    | with_reducible assumption
    | fail_if_no_progress with_reducible refine Upto.mbx_set ?_ (hm.bit rfl)

theorem crossRise_upto {m : Nat} {s0 : State} {a : Nat} {before : List Nat} {s : State} (h : Upto m s0 s) (hm :
    Sub 0xd3c80080 m) :
    Upto m s0 (crossRise a before s) := by
  unfold crossRise
  try dsimp only
  repeat' first
    | with_reducible assumption
    | intro _
    | ((with_reducible refine Sub.of hm ?_); rfl)
    | with_reducible apply report_upto
    | with_reducible apply bump_upto
    | with_reducible apply Upto.forEach

theorem mbxClear_upto {m : Nat} {s0 : State} {a0 : Nat} {s : State} (h : Upto m s0 s) (hm : Sub 0x4100000 m) :
    Upto m s0 (mbxClear a0 s) := by
  unfold mbxClear
  try dsimp only
  repeat' first
    | with_reducible assumption
    | ((with_reducible refine Sub.of hm ?_); rfl)
    | with_reducible apply modMbx_upto
    | with_reducible apply sendMsg_upto
    | with_reducible apply Upto.ite
    | split

theorem mbxTaken_upto {m : Nat} {s0 : State} {n : Nat} {s : State} (h : Upto m s0 s) (hm : Sub 0x4100000 m) :
    Upto m s0 (mbxTaken n s) := by
  unfold mbxTaken
  try dsimp only
  repeat' first
    | with_reducible assumption
    | intro _
    | with_reducible apply mbxClear_upto
    | with_reducible apply Upto.forEach

theorem mbxWake_upto {m : Nat} {s0 : State} {rcv : Nat} {s : State} (h : Upto m s0 s) (hm : Sub 0x80480000 m) :
    Upto m s0 (mbxWake rcv s) := by
  unfold mbxWake
  try dsimp only
  repeat' first
    | with_reducible assumption
    | ((with_reducible refine Sub.of hm ?_); rfl)
    | with_reducible apply raise_upto
    | with_reducible apply bump_upto
    | with_reducible apply askUp_upto
    | with_reducible apply Upto.ite

theorem mbxRemote_upto {m : Nat} {s0 : State} {a0 : Nat} {k : Nat} {payload : Nat} {tag : Nat} {s : State} (h :
    Upto m s0 s) (hm : Sub 0x4000000 m) :
    Upto m s0 (mbxRemote a0 k payload tag s) := by
  unfold mbxRemote
  try dsimp only
  repeat' first
    | with_reducible assumption
    | with_reducible apply linkSend_upto
    | with_reducible apply sendMsg_upto
    | with_reducible apply Upto.ite

theorem mbxNotify_upto {m : Nat} {s0 : State} {a0 : Nat} {payload : Nat} {tag : Nat} {s : State} (h : Upto m s0
    s) (hm : Sub 0x884480080 m) :
    Upto m s0 (mbxNotify a0 payload tag s) := by
  unfold mbxNotify
  try dsimp only
  repeat' first
    | with_reducible assumption
    | ((with_reducible refine Sub.of hm ?_); rfl)
    | with_reducible apply ndlIrq_upto
    | with_reducible apply skmPut_upto
    | with_reducible apply raise_upto
    | with_reducible apply mbxRemote_upto
    | with_reducible apply Upto.ite

theorem mbxWrite_upto {m : Nat} {s0 : State} {a0 : Nat} {req : Nat} {payload : Nat} {tag : Nat} {origin : Option
    (Nat × Nat)} {s : State} (h : Upto m s0 s) (hm : Sub 0x8d7d80080 m) :
    Upto m s0 (mbxWrite a0 req payload tag origin s) := by
  unfold mbxWrite
  try dsimp only
  repeat' first
    | with_reducible assumption
    | ((with_reducible refine Sub.of hm ?_); rfl)
    | with_reducible apply setRword_upto
    | with_reducible apply bump_upto
    | with_reducible apply modMbx_upto
    | with_reducible apply mbxNotify_upto
    | with_reducible apply mbxWake_upto
    | with_reducible apply crossRise_upto
    | with_reducible apply Upto.ite

theorem mbxMsgEffect_upto {m : Nat} {s0 : State} {a0 : Nat} {req : Nat} {v : List Nat} {s : State} (h : Upto m
    s0 s) (hm : Sub 0x8d7d80080 m) :
    Upto m s0 (mbxMsgEffect a0 req v s) := by
  unfold mbxMsgEffect
  try dsimp only
  repeat' first
    | with_reducible assumption
    | with_reducible apply mbxWrite_upto

theorem execMailboxWrite_upto {m : Nat} {s0 : State} {req : Req} {box : Fin 256} {payload : DWord} {tag : Byte}
    {s : State} (h : Upto m s0 s) (hm : Sub 0xbd7d80080 m) :
    OutUpto m s0 (execMailboxWrite req box payload tag s) := by
  unfold execMailboxWrite
  try dsimp only
  repeat' first
    | with_reducible assumption
    | intro _
    | ((with_reducible refine Sub.of hm ?_); rfl)
    | with_reducible apply writeOne_upto
    | with_reducible apply mbxMsgEffect_upto
    | with_reducible apply OutUpto.next

theorem mbxServe_upto {m : Nat} {s0 : State} {req : Nat} {a1 : Nat} {s : State} (h : Upto m s0 s) (hm : Sub
    0x204100000 m) :
    Upto m s0 (mbxServe req a1 s) := by
  unfold mbxServe
  try dsimp only
  repeat' first
    | with_reducible assumption
    | ((with_reducible refine Sub.of hm ?_); rfl)
    | with_reducible apply answer_upto
    | with_reducible apply latchWords_upto
    | with_reducible apply mbxClear_upto
    | with_reducible apply Upto.ite

theorem execMailboxRead_upto {m : Nat} {s0 : State} {req : Req} {box : Fin 256} {s : State} (h : Upto m s0 s)
    (hm : Sub 0x284100000 m) :
    OutUpto m s0 (execMailboxRead req box s) := by
  unfold execMailboxRead
  try dsimp only
  repeat' first
    | with_reducible assumption
    | intro _
    | ((with_reducible refine Sub.of hm ?_); rfl)
    | with_reducible apply readServed_upto
    | with_reducible apply mbxServe_upto
    | with_reducible apply OutUpto.next

theorem execMailboxTimeout_upto {m : Nat} {s0 : State} {box : Fin 256} {s : State} (h : Upto m s0 s) (hm : Sub
    0xd3d80080 m) :
    OutUpto m s0 (execMailboxTimeout box s) := by
  unfold execMailboxTimeout
  try dsimp only
  repeat' first
    | with_reducible assumption
    | ((with_reducible refine Sub.of hm ?_); rfl)
    | with_reducible apply modMbx_upto
    | with_reducible apply crossRise_upto
    | with_reducible apply raise_upto
    | with_reducible apply bump_upto
    | with_reducible apply OutUpto.next
    | with_reducible apply OutUpto.ite

theorem mbxCfgEffect_upto {m : Nat} {s0 : State} {v : List Nat} {s : State} (h : Upto m s0 s) (hm : Sub 0x100000
    m) :
    Upto m s0 (mbxCfgEffect v s) := by
  unfold mbxCfgEffect
  try dsimp only
  repeat' first
    | with_reducible assumption
    | with_reducible apply modMbx_upto

theorem modSem_upto {m : Nat} {s0 : State} {n : Nat} {f : Sem → Sem} {s : State} (h : Upto m s0 s) (hm : Sub
    0x200000 m) :
    Upto m s0 (modSem n f s) := by
  unfold modSem
  try dsimp only
  repeat' first
    | with_reducible assumption
    | fail_if_no_progress with_reducible refine Upto.sem_set ?_ (hm.bit rfl)

theorem semFree_upto {m : Nat} {s0 : State} {n : Nat} {s : State} (h : Upto m s0 s) (hm : Sub 0x80680000 m) :
    Upto m s0 (semFree n s) := by
  unfold semFree
  try dsimp only
  repeat' first
    | with_reducible assumption
    | ((with_reducible refine Sub.of hm ?_); rfl)
    | with_reducible apply modSem_upto
    | with_reducible apply raise_upto
    | with_reducible apply Upto.ite

theorem semAcquire_upto {m : Nat} {s0 : State} {req : Nat} {n : Nat} {s : State} (h : Upto m s0 s) (hm : Sub
    0x80200000 m) :
    Upto m s0 (semAcquire req n s).2 := by
  unfold semAcquire
  try dsimp only
  repeat' first
    | with_reducible assumption
    | ((with_reducible refine Sub.of hm ?_); rfl)
    | with_reducible apply modSem_upto
    | with_reducible apply bump_upto
    | split

theorem semWriteZero_upto {m : Nat} {s0 : State} {req : Nat} {n : Nat} {s : State} (h : Upto m s0 s) (hm : Sub
    0x80680000 m) :
    Upto m s0 (semWriteZero req n s) := by
  unfold semWriteZero
  try dsimp only
  repeat' first
    | with_reducible assumption
    | ((with_reducible refine Sub.of hm ?_); rfl)
    | with_reducible apply semFree_upto
    | with_reducible apply bump_upto
    | with_reducible apply Upto.ite

theorem semRevoke_upto {m : Nat} {s0 : State} {req : Nat} {s : State} (h : Upto m s0 s) (hm : Sub 0x80680000 m)
    :
    Upto m s0 (semRevoke req s).2 := by
  unfold semRevoke
  try dsimp only
  repeat' first
    | with_reducible assumption
    | intro _
    | with_reducible apply semFree_upto
    | with_reducible apply Upto.forEach

theorem semServe_upto {m : Nat} {s0 : State} {req : Nat} {n : Nat} {s : State} (h : Upto m s0 s) (hm : Sub
    0x280200000 m) :
    Upto m s0 (semServe req n s) := by
  unfold semServe
  try dsimp only
  repeat' first
    | with_reducible assumption
    | ((with_reducible refine Sub.of hm ?_); rfl)
    | with_reducible apply semAcquire_upto
    | with_reducible apply answer_upto

theorem execSemLockRead_upto {m : Nat} {s0 : State} {req : Req} {sem : Fin 256} {s : State} (h : Upto m s0 s)
    (hm : Sub 0x280200000 m) :
    OutUpto m s0 (execSemLockRead req sem s) := by
  unfold execSemLockRead
  try dsimp only
  repeat' first
    | with_reducible assumption
    | intro _
    | ((with_reducible refine Sub.of hm ?_); rfl)
    | with_reducible apply readServed_upto
    | with_reducible apply semServe_upto
    | with_reducible apply OutUpto.next

theorem execSemRelease_upto {m : Nat} {s0 : State} {req : Req} {sem : Fin 256} {s : State} (h : Upto m s0 s) (hm
    : Sub 0x380680000 m) :
    OutUpto m s0 (execSemRelease req sem s) := by
  unfold execSemRelease
  try dsimp only
  repeat' first
    | with_reducible assumption
    | intro _
    | ((with_reducible refine Sub.of hm ?_); rfl)
    | with_reducible apply writeOne_upto
    | with_reducible apply semWriteZero_upto
    | with_reducible apply OutUpto.next

theorem semRevokeEffect_upto {m : Nat} {s0 : State} {v : List Nat} {s : State} (h : Upto m s0 s) (hm : Sub
    0x80680000 m) :
    Upto m s0 (semRevokeEffect v s) := by
  unfold semRevokeEffect
  try dsimp only
  repeat' first
    | with_reducible assumption
    | ((with_reducible refine Sub.of hm ?_); rfl)
    | with_reducible apply semRevoke_upto
    | with_reducible apply setFld_upto

theorem execSemRevoke_upto {m : Nat} {s0 : State} {a : Acc} {s : State} (h : Upto m s0 s) (hm : Sub 0x380680000
    m) :
    OutUpto m s0 (execSemRevoke a s) := by
  unfold execSemRevoke
  try dsimp only
  repeat' first
    | with_reducible assumption
    | intro _
    | ((with_reducible refine Sub.of hm ?_); rfl)
    | with_reducible apply regCommit_upto
    | with_reducible apply semRevokeEffect_upto
    | with_reducible apply OutUpto.next

end Sys2Proof.Machine
end

