-- ==== Sys2Proof/Laws/UptoNeedles.lean ====
section
/-! SUPPORT. What each operation of Machine/Needles.lean leaves unchanged (Laws/Upto.lean). -/

set_option linter.unusedTactic false
set_option linter.unreachableTactic false

namespace Sys2Proof.Machine

theorem ndlTick_upto {m : Nat} {s0 : State} {n : Nat} {k : Nat} {s : State} (h : Upto m s0 s) (hm : Sub
    0x2000080 m) :
    Upto m s0 (ndlTick n k s) := by
  unfold ndlTick
  try dsimp only
  repeat' first
    | with_reducible assumption
    | ((with_reducible refine Sub.of hm ?_); rfl)
    | with_reducible apply modNdl_upto
    | with_reducible apply tallyAdd_upto

theorem stallTick_upto {m : Nat} {s0 : State} {n : Nat} {s : State} (h : Upto m s0 s) (hm : Sub 0x80480080 m) :
    Upto m s0 (stallTick n s) := by
  unfold stallTick
  try dsimp only
  repeat' first
    | with_reducible assumption
    | ((with_reducible refine Sub.of hm ?_); rfl)
    | with_reducible apply setNdlSt_upto
    | with_reducible apply modNdl_upto

theorem ndlSettle_upto {m : Nat} {s0 : State} {n : Nat} {s : State} (h : Upto m s0 s) (hm : Sub 0x80 m) :
    Upto m s0 (ndlSettle n s) := by
  unfold ndlSettle
  try dsimp only
  repeat' first
    | with_reducible assumption
    | with_reducible apply modNdl_upto

theorem goPc_upto {m : Nat} {s0 : State} {n : Nat} {pc : Nat} {s : State} (h : Upto m s0 s) (hm : Sub 0x82480080
    m) :
    Upto m s0 (goPc n pc s) := by
  unfold goPc
  try dsimp only
  repeat' first
    | with_reducible assumption
    | ((with_reducible refine Sub.of hm ?_); rfl)
    | with_reducible apply ndlTick_upto
    | with_reducible apply modNdl_upto
    | with_reducible apply setNdlSt_upto
    | with_reducible apply Upto.ite

theorem setXstat_upto {m : Nat} {s0 : State} {n : Nat} {kind : Nat} {cause : Nat} {pc : Nat} {s : State} (h :
    Upto m s0 s) (hm : Sub 0x80000000 m) :
    Upto m s0 (setXstat n kind cause pc s) := by
  unfold setXstat
  try dsimp only
  repeat' first
    | with_reducible assumption
    | with_reducible apply setFld_upto

theorem setFstat_upto {m : Nat} {s0 : State} {n : Nat} {f : NdlFault} {atSafe : Bool} {s : State} (h : Upto m s0
    s) (hm : Sub 0x80000000 m) :
    Upto m s0 (setFstat n f atSafe s) := by
  unfold setFstat
  try dsimp only
  repeat' first
    | with_reducible assumption
    | with_reducible apply setRword_upto

theorem slotFault_upto {m : Nat} {s0 : State} {n : Nat} {s : State} (h : Upto m s0 s) (hm : Sub 0x800 m) :
    Upto m s0 (slotFault n s) := by
  unfold slotFault
  try dsimp only
  repeat' first
    | with_reducible assumption
    | with_reducible apply modPat_upto
    | with_reducible apply Upto.ite
    | split

theorem enterFault_upto {m : Nat} {s0 : State} {n : Nat} {f : NdlFault} {atSafe : Bool} {pc : Nat} {s : State}
    (h : Upto m s0 s) (hm : Sub 0xd3c80880 m) :
    Upto m s0 (enterFault n f atSafe pc s) := by
  unfold enterFault
  try dsimp only
  repeat' first
    | with_reducible assumption
    | ((with_reducible refine Sub.of hm ?_); rfl)
    | with_reducible apply slotFault_upto
    | with_reducible apply setFstat_upto
    | with_reducible apply setXstat_upto
    | with_reducible apply modNdl_upto
    | with_reducible apply raise_upto
    | with_reducible apply report_upto
    | with_reducible apply setNdlSt_upto

theorem enterVector_upto {m : Nat} {s0 : State} {n : Nat} {vec : Nat} {kind : Nat} {cause : Nat} {pc : Nat} {s :
    State} (h : Upto m s0 s) (hm : Sub 0x80480080 m) :
    Upto m s0 (enterVector n vec kind cause pc s) := by
  unfold enterVector
  try dsimp only
  repeat' first
    | with_reducible assumption
    | ((with_reducible refine Sub.of hm ?_); rfl)
    | with_reducible apply setXstat_upto
    | with_reducible apply modNdl_upto
    | with_reducible apply setNdlSt_upto

theorem takeFault_upto {m : Nat} {s0 : State} {n : Nat} {f : NdlFault} {atSafe : Bool} {pc : Nat} {s : State} (h
    : Upto m s0 s) (hm : Sub 0xd3c80880 m) :
    Upto m s0 (takeFault n f atSafe pc s) := by
  unfold takeFault
  try dsimp only
  repeat' first
    | with_reducible assumption
    | ((with_reducible refine Sub.of hm ?_); rfl)
    | with_reducible apply enterVector_upto
    | with_reducible apply setFstat_upto
    | with_reducible apply modNdl_upto
    | with_reducible apply enterFault_upto
    | with_reducible apply Upto.ite

theorem abortUnits_upto {m : Nat} {s0 : State} {n : Nat} {s : State} (h : Upto m s0 s) (hm : Sub 0x81 m) :
    Upto m s0 (abortUnits n s) := by
  unfold abortUnits
  try dsimp only
  repeat' first
    | with_reducible assumption
    | ((with_reducible refine Sub.of hm ?_); rfl)
    | with_reducible apply takeFree_upto
    | with_reducible apply modNdl_upto

theorem takeAbort_upto {m : Nat} {s0 : State} {n : Nat} {cause : Nat} {pc : Nat} {s : State} (h : Upto m s0 s)
    (hm : Sub 0x80480081 m) :
    Upto m s0 (takeAbort n cause pc s) := by
  unfold takeAbort
  try dsimp only
  repeat' first
    | with_reducible assumption
    | ((with_reducible refine Sub.of hm ?_); rfl)
    | with_reducible apply enterVector_upto
    | with_reducible apply abortUnits_upto
    | with_reducible apply modNdl_upto

theorem enterHalt_upto {m : Nat} {s0 : State} {n : Nat} {pc : Nat} {s : State} (h : Upto m s0 s) (hm : Sub
    0x80480080 m) :
    Upto m s0 (enterHalt n pc s) := by
  unfold enterHalt
  try dsimp only
  repeat' first
    | with_reducible assumption
    | ((with_reducible refine Sub.of hm ?_); rfl)
    | with_reducible apply setNdlSt_upto
    | with_reducible apply modNdl_upto

theorem sampleSafe_upto {m : Nat} {s0 : State} {n : Nat} {s : State} (h : Upto m s0 s) (hm : Sub 0xd3c80881 m) :
    Upto m s0 (sampleSafe n s) := by
  unfold sampleSafe
  try dsimp only
  repeat' first
    | with_reducible assumption
    | ((with_reducible refine Sub.of hm ?_); rfl)
    | with_reducible apply modNdl_upto
    | with_reducible apply takeFault_upto
    | with_reducible apply enterHalt_upto
    | with_reducible apply takeAbort_upto
    | with_reducible apply Upto.ite
    | split

theorem clearInputs_upto {m : Nat} {s0 : State} {n : Nat} {mask : Nat} {s : State} (h : Upto m s0 s) (hm : Sub
    0x4100080 m) :
    Upto m s0 (clearInputs n mask s) := by
  unfold clearInputs
  try dsimp only
  repeat' first
    | with_reducible assumption
    | ((with_reducible refine Sub.of hm ?_); rfl)
    | with_reducible apply modNdl_upto
    | with_reducible apply mbxTaken_upto
    | with_reducible apply Upto.ite

theorem boundary_upto {m : Nat} {s0 : State} {n : Nat} {x0 : Ndl} {next : Nat} {s : State} (h : Upto m s0 s) (hm
    : Sub 0xd7d80881 m) :
    Upto m s0 (boundary n x0 next s) := by
  unfold boundary
  try dsimp only
  repeat' first
    | with_reducible assumption
    | ((with_reducible refine Sub.of hm ?_); rfl)
    | with_reducible apply takeFault_upto
    | with_reducible apply takeAbort_upto
    | with_reducible apply enterVector_upto
    | with_reducible apply clearInputs_upto
    | with_reducible apply enterHalt_upto
    | with_reducible apply goPc_upto
    | with_reducible apply Upto.ite
    | split

theorem raiseFault_upto {m : Nat} {s0 : State} {n : Nat} {f : NdlFault} {s : State} (h : Upto m s0 s) (hm : Sub
    0xd3c80880 m) :
    Upto m s0 (raiseFault n f s) := by
  unfold raiseFault
  try dsimp only
  repeat' first
    | with_reducible assumption
    | ((with_reducible refine Sub.of hm ?_); rfl)
    | with_reducible apply enterFault_upto
    | with_reducible apply modNdl_upto
    | with_reducible apply Upto.ite

theorem faultNow_upto {m : Nat} {s0 : State} {n : Nat} {f : NdlFault} {s : State} (h : Upto m s0 s) (hm : Sub
    0xd3c80881 m) :
    Upto m s0 (faultNow n f s) := by
  unfold faultNow
  try dsimp only
  repeat' first
    | with_reducible assumption
    | ((with_reducible refine Sub.of hm ?_); rfl)
    | with_reducible apply raiseFault_upto
    | with_reducible apply sampleSafe_upto
    | with_reducible apply Upto.ite

theorem bindBank_upto {m : Nat} {s0 : State} {n : Nat} {s : State} (h : Upto m s0 s) (hm : Sub 0x80 m) :
    Upto m s0 (bindBank n s) := by
  unfold bindBank
  try dsimp only
  repeat' first
    | with_reducible assumption
    | with_reducible apply modNdl_upto
    | with_reducible apply Upto.ite

theorem microFetch_upto {m : Nat} {s0 : State} {n : Nat} {want : Ndl → Nat → Bool} {act : Nat → State → State}
    {s : State} (h : Upto m s0 s) (hact : ∀ x0 x1, Upto m s0 x1 → Upto m s0 (act x0 x1)) (hm : Sub 0x10d3c80881 m) :
    Upto m s0 (microFetch n want act s) := by
  unfold microFetch
  try dsimp only
  repeat' first
    | with_reducible assumption
    | ((with_reducible refine Sub.of hm ?_); rfl)
    | with_reducible apply ndlSettle_upto
    | with_reducible apply lsRead_upto
    | with_reducible apply faultNow_upto
    | with_reducible apply bindBank_upto
    | with_reducible apply setNdlSt_upto
    | with_reducible apply hact
    | with_reducible apply Upto.ite
    | with_reducible refine Upto.snd (by assumption) ?_
    | split

theorem microControl_upto {m : Nat} {s0 : State} {n : Nat} {op : Nat} {act : Nat → Ndl → State → State × Nat} {s
    : State} (h : Upto m s0 s) (hact : ∀ x0 x1 x2, Upto m s0 x2 → Upto m s0 (act x0 x1 x2).1) (hm : Sub 0x10d7d80881
    m) :
    Upto m s0 (microControl n op act s) := by
  unfold microControl
  try dsimp only
  repeat' first
    | with_reducible assumption
    | intro _
    | ((with_reducible refine Sub.of hm ?_); rfl)
    | with_reducible apply microFetch_upto
    | with_reducible apply boundary_upto
    | with_reducible apply ndlTick_upto
    | with_reducible apply hact
    | with_reducible apply Upto.ite

theorem microIssue_upto {m : Nat} {s0 : State} {n : Nat} {l : List (Nat × NdlDst × Nat)} {s : State} (h : Upto m
    s0 s) (hm : Sub 0x80 m) :
    Upto m s0 (microIssue n l s) := by
  unfold microIssue
  try dsimp only
  repeat' first
    | with_reducible assumption
    | with_reducible apply modNdl_upto
    | with_reducible apply Upto.ite

theorem execMicroNop_upto {m : Nat} {s0 : State} {needle : Fin 128} {s : State} (h : Upto m s0 s) (hm : Sub
    0x10d7d80881 m) :
    OutUpto m s0 (execMicroNop needle s) := by
  unfold execMicroNop
  try dsimp only
  repeat' first
    | with_reducible assumption
    | intro _
    | with_reducible apply microControl_upto
    | with_reducible apply OutUpto.next

theorem execMicroJump_upto {m : Nat} {s0 : State} {needle : Fin 128} {s : State} (h : Upto m s0 s) (hm : Sub
    0x10d7d80881 m) :
    OutUpto m s0 (execMicroJump needle s) := by
  unfold execMicroJump
  try dsimp only
  repeat' first
    | with_reducible assumption
    | intro _
    | with_reducible apply microControl_upto
    | with_reducible apply OutUpto.next

theorem execMicroCall_upto {m : Nat} {s0 : State} {needle : Fin 128} {s : State} (h : Upto m s0 s) (hm : Sub
    0x10d7d80881 m) :
    OutUpto m s0 (execMicroCall needle s) := by
  unfold execMicroCall
  try dsimp only
  repeat' first
    | with_reducible assumption
    | intro _
    | ((with_reducible refine Sub.of hm ?_); rfl)
    | with_reducible apply microControl_upto
    | with_reducible apply raiseFault_upto
    | with_reducible apply modNdl_upto
    | with_reducible apply OutUpto.next
    | split

theorem execMicroRet_upto {m : Nat} {s0 : State} {needle : Fin 128} {s : State} (h : Upto m s0 s) (hm : Sub
    0x10d7d80881 m) :
    OutUpto m s0 (execMicroRet needle s) := by
  unfold execMicroRet
  try dsimp only
  repeat' first
    | with_reducible assumption
    | intro _
    | ((with_reducible refine Sub.of hm ?_); rfl)
    | with_reducible apply microControl_upto
    | with_reducible apply raiseFault_upto
    | with_reducible apply modNdl_upto
    | with_reducible apply OutUpto.next
    | split

theorem execMicroDispatch_upto {m : Nat} {s0 : State} {needle : Fin 128} {s : State} (h : Upto m s0 s) (hm : Sub
    0x10d7d80881 m) :
    OutUpto m s0 (execMicroDispatch needle s) := by
  unfold execMicroDispatch
  try dsimp only
  repeat' first
    | with_reducible assumption
    | intro _
    | with_reducible apply microControl_upto
    | with_reducible apply OutUpto.next

theorem execMicroLoop_upto {m : Nat} {s0 : State} {needle : Fin 128} {s : State} (h : Upto m s0 s) (hm : Sub
    0x10d7d80881 m) :
    OutUpto m s0 (execMicroLoop needle s) := by
  unfold execMicroLoop
  try dsimp only
  repeat' first
    | with_reducible assumption
    | intro _
    | ((with_reducible refine Sub.of hm ?_); rfl)
    | with_reducible apply microControl_upto
    | with_reducible apply microIssue_upto
    | with_reducible apply OutUpto.next

theorem execMicroSetlc_upto {m : Nat} {s0 : State} {needle : Fin 128} {s : State} (h : Upto m s0 s) (hm : Sub
    0x10d7d80881 m) :
    OutUpto m s0 (execMicroSetlc needle s) := by
  unfold execMicroSetlc
  try dsimp only
  repeat' first
    | with_reducible assumption
    | intro _
    | ((with_reducible refine Sub.of hm ?_); rfl)
    | with_reducible apply microControl_upto
    | with_reducible apply microIssue_upto
    | with_reducible apply OutUpto.next

theorem execMicroSeta_upto {m : Nat} {s0 : State} {needle : Fin 128} {s : State} (h : Upto m s0 s) (hm : Sub
    0x10d7d80881 m) :
    OutUpto m s0 (execMicroSeta needle s) := by
  unfold execMicroSeta
  try dsimp only
  repeat' first
    | with_reducible assumption
    | intro _
    | ((with_reducible refine Sub.of hm ?_); rfl)
    | with_reducible apply microControl_upto
    | with_reducible apply microIssue_upto
    | with_reducible apply OutUpto.next

theorem execMicroMova_upto {m : Nat} {s0 : State} {needle : Fin 128} {s : State} (h : Upto m s0 s) (hm : Sub
    0x10d7d80881 m) :
    OutUpto m s0 (execMicroMova needle s) := by
  unfold execMicroMova
  try dsimp only
  repeat' first
    | with_reducible assumption
    | intro _
    | ((with_reducible refine Sub.of hm ?_); rfl)
    | with_reducible apply microControl_upto
    | with_reducible apply microIssue_upto
    | with_reducible apply OutUpto.next

theorem stallCycle_upto {m : Nat} {s0 : State} {n : Nat} {s : State} (h : Upto m s0 s) (hm : Sub 0xd3c80881 m) :
    Upto m s0 (stallCycle n s) := by
  unfold stallCycle
  try dsimp only
  repeat' first
    | with_reducible assumption
    | ((with_reducible refine Sub.of hm ?_); rfl)
    | with_reducible apply sampleSafe_upto
    | with_reducible apply stallTick_upto

theorem execMicroWait_upto {m : Nat} {s0 : State} {needle : Fin 128} {s : State} (h : Upto m s0 s) (hm : Sub
    0x10d7d80881 m) :
    OutUpto m s0 (execMicroWait needle s) := by
  unfold execMicroWait
  try dsimp only
  repeat' first
    | with_reducible assumption
    | intro _
    | ((with_reducible refine Sub.of hm ?_); rfl)
    | with_reducible apply microFetch_upto
    | with_reducible apply stallCycle_upto
    | with_reducible apply clearInputs_upto
    | with_reducible apply boundary_upto
    | with_reducible apply ndlTick_upto
    | with_reducible apply Upto.ite
    | with_reducible apply OutUpto.next

theorem execMicroRete_upto {m : Nat} {s0 : State} {needle : Fin 128} {s : State} (h : Upto m s0 s) (hm : Sub
    0x10d7d80881 m) :
    OutUpto m s0 (execMicroRete needle s) := by
  unfold execMicroRete
  try dsimp only
  repeat' first
    | with_reducible assumption
    | intro _
    | ((with_reducible refine Sub.of hm ?_); rfl)
    | with_reducible apply microControl_upto
    | with_reducible apply modNdl_upto
    | with_reducible apply OutUpto.next

theorem execMicroHoriz_upto {m : Nat} {s0 : State} {needle : Fin 128} {s : State} (h : Upto m s0 s) (hm : Sub
    0x10d7d80881 m) :
    OutUpto m s0 (execMicroHoriz needle s) := by
  unfold execMicroHoriz
  try dsimp only
  repeat' first
    | with_reducible assumption
    | intro _
    | ((with_reducible refine Sub.of hm ?_); rfl)
    | with_reducible apply microControl_upto
    | with_reducible apply modNdl_upto
    | with_reducible apply OutUpto.next

theorem execMicroTrap_upto {m : Nat} {s0 : State} {needle : Fin 128} {s : State} (h : Upto m s0 s) (hm : Sub
    0x10d7d80881 m) :
    OutUpto m s0 (execMicroTrap needle s) := by
  unfold execMicroTrap
  try dsimp only
  repeat' first
    | with_reducible assumption
    | intro _
    | ((with_reducible refine Sub.of hm ?_); rfl)
    | with_reducible apply microControl_upto
    | with_reducible apply raiseFault_upto
    | with_reducible apply OutUpto.next

theorem execMicroStop_upto {m : Nat} {s0 : State} {needle : Fin 128} {s : State} (h : Upto m s0 s) (hm : Sub
    0x10d7d80881 m) :
    OutUpto m s0 (execMicroStop needle s) := by
  unfold execMicroStop
  try dsimp only
  repeat' first
    | with_reducible assumption
    | intro _
    | ((with_reducible refine Sub.of hm ?_); rfl)
    | with_reducible apply microControl_upto
    | with_reducible apply modNdl_upto
    | with_reducible apply OutUpto.next

theorem execMicroGnote_upto {m : Nat} {s0 : State} {needle : Fin 128} {s : State} (h : Upto m s0 s) (hm : Sub
    0x10d7d80881 m) :
    OutUpto m s0 (execMicroGnote needle s) := by
  unfold execMicroGnote
  try dsimp only
  repeat' first
    | with_reducible assumption
    | intro _
    | ((with_reducible refine Sub.of hm ?_); rfl)
    | with_reducible apply microFetch_upto
    | with_reducible apply boundary_upto
    | with_reducible apply ndlTick_upto
    | with_reducible apply stallCycle_upto
    | with_reducible apply modPat_upto
    | with_reducible apply Upto.ite
    | with_reducible apply OutUpto.next
    | split

theorem startNano_upto {m : Nat} {s0 : State} {n : Nat} {w : Nat} {s : State} (h : Upto m s0 s) (hm : Sub 0x80
    m) :
    Upto m s0 (startNano n w s) := by
  unfold startNano
  try dsimp only
  repeat' first
    | with_reducible assumption
    | with_reducible apply modNdl_upto

theorem execMicroWordExecute_upto {m : Nat} {s0 : State} {needle : Fin 128} {s : State} (h : Upto m s0 s) (hm :
    Sub 0x10d7d80881 m) :
    OutUpto m s0 (execMicroWordExecute needle s) := by
  unfold execMicroWordExecute
  try dsimp only
  repeat' first
    | with_reducible assumption
    | intro _
    | ((with_reducible refine Sub.of hm ?_); rfl)
    | with_reducible apply microFetch_upto
    | with_reducible apply raiseFault_upto
    | with_reducible apply boundary_upto
    | with_reducible apply ndlTick_upto
    | with_reducible apply faultNow_upto
    | with_reducible apply startNano_upto
    | with_reducible apply Upto.ite
    | with_reducible apply OutUpto.next

theorem deliverTo_upto {m : Nat} {s0 : State} {seq : Nat} {r : LfiRec} {n : Nat} {s : State} (h : Upto m s0 s)
    (hm : Sub 0x1000000080 m) :
    Upto m s0 (deliverTo seq r n s) := by
  unfold deliverTo
  try dsimp only
  repeat' first
    | with_reducible assumption
    | intro _
    | ((with_reducible refine Sub.of hm ?_); rfl)
    | with_reducible apply lsPut_upto
    | with_reducible apply ndlIrq_upto
    | with_reducible apply modNdl_upto
    | with_reducible apply Upto.foldl
    | with_reducible apply Upto.ite

theorem execDistributorLineDeliver_upto {m : Nat} {s0 : State} {skein : Fin 16} {dist : Fin 2} {s : State} (h :
    Upto m s0 s) (hm : Sub 0x10000000b0 m) :
    OutUpto m s0 (execDistributorLineDeliver skein dist s) := by
  unfold execDistributorLineDeliver
  try dsimp only
  repeat' first
    | with_reducible assumption
    | intro _
    | ((with_reducible refine Sub.of hm ?_); rfl)
    | with_reducible apply deliverTo_upto
    | with_reducible apply idleSettle_upto
    | with_reducible apply portNext_upto
    | with_reducible apply portRead_upto
    | with_reducible apply Upto.forEach
    | with_reducible apply OutUpto.next
    | with_reducible apply OutUpto.ite
    | split

theorem needlePortOp_upto {m : Nat} {s0 : State} {n : Nat} {op : Nat} {s : State} (h : Upto m s0 s) (hm : Sub
    0x800000b0 m) :
    OptUpto m s0 (needlePortOp n op s) := by
  unfold needlePortOp
  try dsimp only
  repeat' first
    | with_reducible assumption
    | intro _
    | ((with_reducible refine Sub.of hm ?_); rfl)
    | with_reducible apply setRword_upto
    | with_reducible apply portMark_upto
    | with_reducible apply portRewind_upto
    | with_reducible apply modNdl_upto
    | with_reducible apply portRelease_upto
    | with_reducible apply portDrop_upto
    | with_reducible apply Upto.forEach
    | with_reducible apply OptUpto.some
    | with_reducible apply OptUpto.none
    | with_reducible apply OptUpto.ite
    | with_reducible refine Upto.of_some (by assumption) ?_
    | split

theorem ndlCommand_upto {m : Nat} {s0 : State} {req : Req} {n : Nat} {op : Nat} {busy : State → Bool} {eff :
    State → State} {s : State} (h : Upto m s0 s) (heff : ∀ x0, Upto m s0 x0 → Upto m s0 (eff x0)) (hm : Sub
    0x380000000 m) :
    OutUpto m s0 (ndlCommand req n op busy eff s) := by
  unfold ndlCommand
  try dsimp only
  repeat' first
    | with_reducible assumption
    | intro _
    | with_reducible apply regCommit_upto
    | with_reducible apply OutUpto.next

theorem haltEffect_upto {m : Nat} {s0 : State} {n : Nat} {s : State} (h : Upto m s0 s) (hm : Sub 0x80480080 m) :
    Upto m s0 (haltEffect n s) := by
  unfold haltEffect
  try dsimp only
  repeat' first
    | with_reducible assumption
    | with_reducible apply askHalt_upto

theorem execNdlHalt_upto {m : Nat} {s0 : State} {req : Req} {needle : Fin 128} {s : State} (h : Upto m s0 s) (hm
    : Sub 0x380480080 m) :
    OutUpto m s0 (execNdlHalt req needle s) := by
  unfold execNdlHalt
  try dsimp only
  repeat' first
    | with_reducible assumption
    | intro _
    | ((with_reducible refine Sub.of hm ?_); rfl)
    | with_reducible apply ndlCommand_upto
    | with_reducible apply haltEffect_upto

theorem resumeEffect_upto {m : Nat} {s0 : State} {n : Nat} {s : State} (h : Upto m s0 s) (hm : Sub 0x80480080 m)
    :
    Upto m s0 (resumeEffect n s) := by
  unfold resumeEffect
  try dsimp only
  repeat' first
    | with_reducible assumption
    | ((with_reducible refine Sub.of hm ?_); rfl)
    | with_reducible apply modNdl_upto
    | with_reducible apply enterVector_upto
    | with_reducible apply Upto.ite

theorem execNdlResume_upto {m : Nat} {s0 : State} {req : Req} {needle : Fin 128} {s : State} (h : Upto m s0 s)
    (hm : Sub 0x380480080 m) :
    OutUpto m s0 (execNdlResume req needle s) := by
  unfold execNdlResume
  try dsimp only
  repeat' first
    | with_reducible assumption
    | intro _
    | ((with_reducible refine Sub.of hm ?_); rfl)
    | with_reducible apply ndlCommand_upto
    | with_reducible apply resumeEffect_upto

theorem execNdlAbort_upto {m : Nat} {s0 : State} {req : Req} {needle : Fin 128} {s : State} (h : Upto m s0 s)
    (hm : Sub 0x380000080 m) :
    OutUpto m s0 (execNdlAbort req needle s) := by
  unfold execNdlAbort
  try dsimp only
  repeat' first
    | with_reducible assumption
    | intro _
    | ((with_reducible refine Sub.of hm ?_); rfl)
    | with_reducible apply ndlCommand_upto
    | with_reducible apply askAbort_upto

theorem hstartEffect_upto {m : Nat} {s0 : State} {n : Nat} {s : State} (h : Upto m s0 s) (hm : Sub 0x80480080 m)
    :
    Upto m s0 (hstartEffect n s) := by
  unfold hstartEffect
  try dsimp only
  repeat' first
    | with_reducible assumption
    | ((with_reducible refine Sub.of hm ?_); rfl)
    | with_reducible apply setNdlSt_upto
    | with_reducible apply modNdl_upto

theorem execNdlHstart_upto {m : Nat} {s0 : State} {req : Req} {needle : Fin 128} {s : State} (h : Upto m s0 s)
    (hm : Sub 0x380480080 m) :
    OutUpto m s0 (execNdlHstart req needle s) := by
  unfold execNdlHstart
  try dsimp only
  repeat' first
    | with_reducible assumption
    | intro _
    | ((with_reducible refine Sub.of hm ?_); rfl)
    | with_reducible apply ndlCommand_upto
    | with_reducible apply hstartEffect_upto

theorem bellEffect_upto {m : Nat} {s0 : State} {n : Nat} {v : List Nat} {s : State} (h : Upto m s0 s) (hm : Sub
    0x80 m) :
    Upto m s0 (bellEffect n v s) := by
  unfold bellEffect
  try dsimp only
  repeat' first
    | with_reducible assumption
    | with_reducible apply ndlIrq_upto
    | with_reducible apply Upto.ite

theorem execNdlBellWrite_upto {m : Nat} {s0 : State} {needle : Fin 128} {a : Acc} {s : State} (h : Upto m s0 s)
    (hm : Sub 0x380000080 m) :
    OutUpto m s0 (execNdlBellWrite needle a s) := by
  unfold execNdlBellWrite
  try dsimp only
  repeat' first
    | with_reducible assumption
    | intro _
    | ((with_reducible refine Sub.of hm ?_); rfl)
    | with_reducible apply regCommit_upto
    | with_reducible apply bellEffect_upto
    | with_reducible apply OutUpto.next

theorem execNeedleTimerExpire_upto {m : Nat} {s0 : State} {needle : Fin 128} {s : State} (h : Upto m s0 s) (hm :
    Sub 0x80 m) :
    OutUpto m s0 (execNeedleTimerExpire needle s) := by
  unfold execNeedleTimerExpire
  try dsimp only
  repeat' first
    | with_reducible assumption
    | with_reducible apply ndlIrq_upto
    | with_reducible apply Upto.ite
    | with_reducible apply OutUpto.next

theorem lsZero_upto {m : Nat} {s0 : State} {n : Nat} {s : State} (h : Upto m s0 s) (hm : Sub 0x1000000000 m) :
    Upto m s0 (lsZero n s) := by
  unfold lsZero
  try dsimp only
  repeat' first
    | with_reducible assumption
    | with_reducible apply modMem_upto
    | (constructor
       all_goals first
         | exact fun _ => rfl
         | exact fun _ => ⟨rfl, rfl⟩
         | exact fun _ => ⟨rfl, rfl, rfl, rfl, rfl⟩
         | (intro k; exact absurd ((hm.bit rfl).symm.trans k) (by decide))
         | (intro w; rw [Memory.wf_iff] at *; obtain ⟨w1, w2, w3, w4, w5, w6, w7, w8, w9, w10⟩ := w
            refine ⟨?_, ?_, ?_, ?_, ?_, ?_, ?_, ?_, ?_, ?_⟩
            all_goals try dsimp only
            all_goals first
              | assumption
              | (apply tabWf_tabSet; assumption)
              | (apply tabWf_tabErase; assumption)
              | (apply tabWf_tabMod; assumption)
              | (apply tabWf_filter; assumption)))

theorem execLocalStoreZeroDone_upto {m : Nat} {s0 : State} {needle : Fin 128} {s : State} (h : Upto m s0 s) (hm
    : Sub 0x1000000080 m) :
    OutUpto m s0 (execLocalStoreZeroDone needle s) := by
  unfold execLocalStoreZeroDone
  try dsimp only
  repeat' first
    | with_reducible assumption
    | ((with_reducible refine Sub.of hm ?_); rfl)
    | with_reducible apply lsZero_upto
    | with_reducible apply modNdl_upto
    | with_reducible apply Upto.ite
    | with_reducible apply OutUpto.next
    | with_reducible apply OutUpto.ite

theorem skmZero_upto {m : Nat} {s0 : State} {k : Nat} {s : State} (h : Upto m s0 s) (hm : Sub 0x800000000 m) :
    Upto m s0 (skmZero k s) := by
  unfold skmZero
  try dsimp only
  repeat' first
    | with_reducible assumption
    | with_reducible apply modMem_upto
    | (constructor
       all_goals first
         | exact fun _ => rfl
         | exact fun _ => ⟨rfl, rfl⟩
         | exact fun _ => ⟨rfl, rfl, rfl, rfl, rfl⟩
         | (intro k; exact absurd ((hm.bit rfl).symm.trans k) (by decide))
         | (intro w; rw [Memory.wf_iff] at *; obtain ⟨w1, w2, w3, w4, w5, w6, w7, w8, w9, w10⟩ := w
            refine ⟨?_, ?_, ?_, ?_, ?_, ?_, ?_, ?_, ?_, ?_⟩
            all_goals try dsimp only
            all_goals first
              | assumption
              | (apply tabWf_tabSet; assumption)
              | (apply tabWf_tabErase; assumption)
              | (apply tabWf_tabMod; assumption)
              | (apply tabWf_filter; assumption)))

theorem setBankSt_upto {m : Nat} {s0 : State} {k : Nat} {b : Bool} {st : BankSt} {s : State} (h : Upto m s0 s)
    (hm : Sub 0x80480100 m) :
    Upto m s0 (setBankSt k b st s) := by
  unfold setBankSt
  try dsimp only
  repeat' first
    | with_reducible assumption
    | ((with_reducible refine Sub.of hm ?_); rfl)
    | with_reducible apply raise_upto
    | with_reducible apply modBank_upto
    | with_reducible apply Upto.ite

theorem execSkeinZeroDone_upto {m : Nat} {s0 : State} {skein : Fin 16} {s : State} (h : Upto m s0 s) (hm : Sub
    0x880480500 m) :
    OutUpto m s0 (execSkeinZeroDone skein s) := by
  unfold execSkeinZeroDone
  try dsimp only
  repeat' first
    | with_reducible assumption
    | intro _
    | ((with_reducible refine Sub.of hm ?_); rfl)
    | with_reducible apply skmZero_upto
    | with_reducible apply modBank_upto
    | with_reducible apply setBankSt_upto
    | with_reducible apply modSkn_upto
    | with_reducible apply Upto.forEach
    | with_reducible apply OutUpto.next
    | with_reducible apply OutUpto.ite

theorem execSkeinScrubStep_upto {m : Nat} {s0 : State} {skein : Fin 16} {upset : Option (Nat × Native)} {s :
    State} (h : Upto m s0 s) (hm : Sub 0x8d3c80480 m) :
    OutUpto m s0 (execSkeinScrubStep skein upset s) := by
  unfold execSkeinScrubStep
  try dsimp only
  repeat' first
    | with_reducible assumption
    | ((with_reducible refine Sub.of hm ?_); rfl)
    | with_reducible apply modMem_upto
    | with_reducible apply modSkn_upto
    | with_reducible apply skmRead_upto
    | with_reducible apply OutUpto.next
    | with_reducible apply OutUpto.ite
    | (constructor
       all_goals first
         | exact fun _ => rfl
         | exact fun _ => ⟨rfl, rfl⟩
         | exact fun _ => ⟨rfl, rfl, rfl, rfl, rfl⟩
         | (intro k; exact absurd ((hm.bit rfl).symm.trans k) (by decide))
         | (intro w; rw [Memory.wf_iff] at *; obtain ⟨w1, w2, w3, w4, w5, w6, w7, w8, w9, w10⟩ := w
            refine ⟨?_, ?_, ?_, ?_, ?_, ?_, ?_, ?_, ?_, ?_⟩
            all_goals try dsimp only
            all_goals first
              | assumption
              | (apply tabWf_tabSet; assumption)
              | (apply tabWf_tabErase; assumption)
              | (apply tabWf_tabMod; assumption)
              | (apply tabWf_filter; assumption)))
    | split

end Sys2Proof.Machine
end

