-- ==== Sys2Proof/Laws/UptoKeys.lean ====
section
/-! SUPPORT. What each operation of Machine/Keys.lean leaves unchanged (Laws/Upto.lean). -/

set_option linter.unusedTactic false
set_option linter.unreachableTactic false

namespace Sys2Proof.Machine

theorem keyArrive_upto {m : Nat} {s0 : State} {n : Nat} {t : Nat} {frame : Option Nat} {s : State} (h : Upto m
    s0 s) (hm : Sub 0x800 m) :
    Upto m s0 (keyArrive n t frame s) := by
  unfold keyArrive
  try dsimp only
  repeat' first
    | with_reducible assumption
    | with_reducible apply modEnc_upto

theorem keyCounted_upto {m : Nat} {s0 : State} {n : Nat} {k : Nat} {frame : Option Nat} {s : State} (h : Upto m
    s0 s) (hm : Sub 0x800 m) :
    Upto m s0 (keyCounted n k frame s) := by
  unfold keyCounted
  try dsimp only
  repeat' first
    | with_reducible assumption
    | with_reducible apply keyArrive_upto
    | with_reducible apply modEnc_upto
    | split

theorem keyTagged_upto {m : Nat} {s0 : State} {stagepat : Nat} {out : Nat} {frame : Nat} {s : State} (h : Upto m
    s0 s) (hm : Sub 0x800 m) :
    Upto m s0 (keyTagged stagepat out frame s) := by
  unfold keyTagged
  try dsimp only
  repeat' first
    | with_reducible assumption
    | intro _
    | with_reducible apply keyCounted_upto
    | with_reducible apply Upto.forEach

theorem stageKeySend_upto {m : Nat} {s0 : State} {stagepat : Nat} {out : Nat} {s : State} (h : Upto m s0 s) (hm
    : Sub 0x4000800 m) :
    Upto m s0 (stageKeySend stagepat out s) := by
  unfold stageKeySend
  try dsimp only
  repeat' first
    | with_reducible assumption
    | intro _
    | ((with_reducible refine Sub.of hm ?_); rfl)
    | with_reducible apply keyTagged_upto
    | with_reducible apply sendMsg_upto
    | with_reducible apply Upto.forEach
    | with_reducible apply Upto.ite
    | split

theorem stageKeyAsk_upto {m : Nat} {s0 : State} {stagepat : Nat} {out : Nat} {s : State} (h : Upto m s0 s) (hm :
    Sub 0x4000800 m) :
    Upto m s0 (stageKeyAsk stagepat out s) := by
  unfold stageKeyAsk
  try dsimp only
  repeat' first
    | with_reducible assumption
    | ((with_reducible refine Sub.of hm ?_); rfl)
    | with_reducible apply stageKeySend_upto
    | with_reducible apply sendMsg_upto
    | with_reducible apply Upto.ite

end Sys2Proof.Machine
end

