-- ==== Sys2Proof/Laws/UptoStitch.lean ====
section
/-! SUPPORT. What each operation of Machine/Stitch.lean leaves unchanged (Laws/Upto.lean). -/

set_option linter.unusedTactic false
set_option linter.unreachableTactic false

namespace Sys2Proof.Machine

theorem setLink_upto {m : Nat} {s0 : State} {k : Nat} {st : LinkSt} {s : State} (h : Upto m s0 s) (hm : Sub
    0x84480000 m) :
    Upto m s0 (setLink k st s) := by
  unfold setLink
  try dsimp only
  repeat' first
    | with_reducible assumption
    | ((with_reducible refine Sub.of hm ?_); rfl)
    | with_reducible apply raise_upto
    | with_reducible apply modLink_upto
    | with_reducible apply Upto.ite

theorem sthFecCount_upto {m : Nat} {s0 : State} {k : Nat} {corr : Byte} {uncorr : Byte} {s : State} (h : Upto m
    s0 s) (hm : Sub 0x82000000 m) :
    Upto m s0 (sthFecCount k corr uncorr s) := by
  unfold sthFecCount
  try dsimp only
  repeat' first
    | with_reducible assumption
    | ((with_reducible refine Sub.of hm ?_); rfl)
    | with_reducible apply bump_upto
    | with_reducible apply tallyAdd_upto

theorem phaseGone_upto {m : Nat} {s0 : State} {s : State} (h : Upto m s0 s) (hm : Sub 0xd3c80082 m) :
    Upto m s0 (phaseGone s) := by
  unfold phaseGone
  try dsimp only
  repeat' first
    | with_reducible assumption
    | ((with_reducible refine Sub.of hm ?_); rfl)
    | with_reducible apply modRck_upto
    | with_reducible apply sourceLost_upto
    | with_reducible apply raise_upto
    | with_reducible apply Upto.ite

theorem leftUp_upto {m : Nat} {s0 : State} {k : Nat} {s : State} (h : Upto m s0 s) (hm : Sub 0xd7c80082 m) :
    Upto m s0 (leftUp k s) := by
  unfold leftUp
  try dsimp only
  repeat' first
    | with_reducible assumption
    | ((with_reducible refine Sub.of hm ?_); rfl)
    | with_reducible apply tally_upto
    | with_reducible apply raise_upto
    | with_reducible apply bump_upto
    | with_reducible apply modLink_upto
    | with_reducible apply modSth_upto
    | with_reducible apply phaseGone_upto
    | with_reducible apply Upto.ite

theorem linkDrop_upto {m : Nat} {s0 : State} {k : Nat} {st : LinkSt} {s : State} (h : Upto m s0 s) (hm : Sub
    0xd7c80082 m) :
    Upto m s0 (linkDrop k st s) := by
  unfold linkDrop
  try dsimp only
  repeat' first
    | with_reducible assumption
    | ((with_reducible refine Sub.of hm ?_); rfl)
    | with_reducible apply setLink_upto
    | with_reducible apply modLink_upto
    | with_reducible apply leftUp_upto
    | with_reducible apply Upto.ite

theorem execStitchLinkUp_upto {m : Nat} {s0 : State} {link : Fin 8} {s : State} (h : Upto m s0 s) (hm : Sub
    0x84480000 m) :
    OutUpto m s0 (execStitchLinkUp link s) := by
  unfold execStitchLinkUp
  try dsimp only
  repeat' first
    | with_reducible assumption
    | ((with_reducible refine Sub.of hm ?_); rfl)
    | with_reducible apply setLink_upto
    | with_reducible apply modLink_upto
    | with_reducible apply Upto.ite
    | with_reducible apply OutUpto.next

theorem execStitchLinkDown_upto {m : Nat} {s0 : State} {link : Fin 8} {s : State} (h : Upto m s0 s) (hm : Sub
    0xd7c80082 m) :
    OutUpto m s0 (execStitchLinkDown link s) := by
  unfold execStitchLinkDown
  try dsimp only
  repeat' first
    | with_reducible assumption
    | with_reducible apply linkDrop_upto
    | with_reducible apply Upto.ite
    | with_reducible apply OutUpto.next

theorem sthCtrlEffect_upto {m : Nat} {s0 : State} {k : Nat} {v : List Nat} {s : State} (h : Upto m s0 s) (hm :
    Sub 0xd7c80082 m) :
    Upto m s0 (sthCtrlEffect k v s) := by
  unfold sthCtrlEffect
  try dsimp only
  repeat' first
    | with_reducible assumption
    | ((with_reducible refine Sub.of hm ?_); rfl)
    | with_reducible apply setLink_upto
    | with_reducible apply linkDrop_upto
    | with_reducible apply Upto.ite

theorem execFlitReplay_upto {m : Nat} {s0 : State} {link : Fin 8} {ack : BitVec 12} {s : State} (h : Upto m s0
    s) (hm : Sub 0x84000000 m) :
    OutUpto m s0 (execFlitReplay link ack s) := by
  unfold execFlitReplay
  try dsimp only
  repeat' first
    | with_reducible assumption
    | ((with_reducible refine Sub.of hm ?_); rfl)
    | with_reducible apply bump_upto
    | with_reducible apply modLink_upto
    | with_reducible apply OutUpto.next
    | with_reducible apply OutUpto.ite

theorem execFlitCrcError_upto {m : Nat} {s0 : State} {link : Fin 8} {reserved : Bool} {numbered : Bool} {corr :
    Byte} {uncorr : Byte} {s : State} (h : Upto m s0 s) (hm : Sub 0x86480000 m) :
    OutUpto m s0 (execFlitCrcError link reserved numbered corr uncorr s) := by
  unfold execFlitCrcError
  try dsimp only
  repeat' first
    | with_reducible assumption
    | ((with_reducible refine Sub.of hm ?_); rfl)
    | with_reducible apply sthFecCount_upto
    | with_reducible apply raise_upto
    | with_reducible apply bump_upto
    | with_reducible apply modLink_upto
    | with_reducible apply Upto.ite
    | with_reducible apply OutUpto.next
    | with_reducible apply OutUpto.ite

theorem rxFlit_upto {m : Nat} {s0 : State} {k : Nat} {a1 : FlitHdr} {body : State → State} {s : State} (h : Upto
    m s0 s) (hbody : ∀ x0, Upto m s0 x0 → Upto m s0 (body x0)) (hm : Sub 0x86000000 m) :
    Upto m s0 (rxFlit k a1 body s) := by
  unfold rxFlit
  try dsimp only
  repeat' first
    | with_reducible assumption
    | ((with_reducible refine Sub.of hm ?_); rfl)
    | with_reducible apply modLink_upto
    | with_reducible apply sthFecCount_upto
    | with_reducible apply hbody
    | with_reducible apply Upto.ite

theorem rxOwn_upto {m : Nat} {s0 : State} {k : Nat} {a1 : FlitHdr} {body : State → State} {s : State} (h : Upto
    m s0 s) (hbody : ∀ x0, Upto m s0 x0 → Upto m s0 (body x0)) (hm : Sub 0x86000000 m) :
    Upto m s0 (rxOwn k a1 body s) := by
  unfold rxOwn
  try dsimp only
  repeat' first
    | with_reducible assumption
    | with_reducible apply rxFlit_upto
    | with_reducible apply Upto.ite

theorem forwardMsg_upto {m : Nat} {s0 : State} {k : Nat} {a1 : FlitHdr} {msg : StMsg} {s : State} (h : Upto m s0
    s) (hm : Sub 0x4000000 m) :
    Upto m s0 (forwardMsg k a1 msg s) := by
  unfold forwardMsg
  try dsimp only
  repeat' first
    | with_reducible assumption
    | intro _
    | with_reducible apply sendMsg_upto
    | with_reducible apply linkSend_upto
    | with_reducible apply modLink_upto
    | with_reducible apply routeMsg_upto
    | with_reducible apply Upto.forEach
    | with_reducible apply Upto.ite
    | split

theorem execFlitForward_upto {m : Nat} {s0 : State} {link : Fin 8} {a1 : FlitHdr} {msg : StMsg} {s : State} (h :
    Upto m s0 s) (hm : Sub 0x86000000 m) :
    OutUpto m s0 (execFlitForward link a1 msg s) := by
  unfold execFlitForward
  try dsimp only
  repeat' first
    | with_reducible assumption
    | intro _
    | ((with_reducible refine Sub.of hm ?_); rfl)
    | with_reducible apply rxFlit_upto
    | with_reducible apply forwardMsg_upto
    | with_reducible apply OutUpto.next
    | with_reducible apply OutUpto.ite

theorem execHelloSend_upto {m : Nat} {s0 : State} {link : Fin 8} {s : State} (h : Upto m s0 s) (hm : Sub
    0x4000000 m) :
    OutUpto m s0 (execHelloSend link s) := by
  unfold execHelloSend
  try dsimp only
  repeat' first
    | with_reducible assumption
    | with_reducible apply modLink_upto
    | with_reducible apply OutUpto.next
    | with_reducible apply OutUpto.ite

theorem takeUplink_upto {m : Nat} {s0 : State} {k : Nat} {s : State} (h : Upto m s0 s) (hm : Sub 0x84480000 m) :
    Upto m s0 (takeUplink k s) := by
  unfold takeUplink
  try dsimp only
  repeat' first
    | with_reducible assumption
    | intro _
    | ((with_reducible refine Sub.of hm ?_); rfl)
    | with_reducible apply setLink_upto
    | with_reducible apply modLink_upto
    | with_reducible apply linkSend_upto
    | with_reducible apply Upto.forEach

theorem seekUplink_upto {m : Nat} {s0 : State} {s : State} (h : Upto m s0 s) (hm : Sub 0x84480000 m) :
    Upto m s0 (seekUplink s) := by
  unfold seekUplink
  try dsimp only
  repeat' first
    | with_reducible assumption
    | with_reducible apply takeUplink_upto
    | with_reducible apply Upto.ite
    | split

theorem placeLink_upto {m : Nat} {s0 : State} {k : Nat} {x : HelloInfo} {s : State} (h : Upto m s0 s) (hm : Sub
    0xd7c80080 m) :
    Upto m s0 (placeLink k x s) := by
  unfold placeLink
  try dsimp only
  repeat' first
    | with_reducible assumption
    | ((with_reducible refine Sub.of hm ?_); rfl)
    | with_reducible apply report_upto
    | with_reducible apply setLink_upto
    | with_reducible apply modLink_upto
    | with_reducible apply seekUplink_upto
    | with_reducible apply Upto.ite

theorem execSthHello_upto {m : Nat} {s0 : State} {link : Fin 8} {x : HelloInfo} {s : State} (h : Upto m s0 s)
    (hm : Sub 0xd7c80080 m) :
    OutUpto m s0 (execSthHello link x s) := by
  unfold execSthHello
  try dsimp only
  repeat' first
    | with_reducible assumption
    | ((with_reducible refine Sub.of hm ?_); rfl)
    | with_reducible apply placeLink_upto
    | with_reducible apply modLink_upto
    | with_reducible apply OutUpto.next
    | with_reducible apply OutUpto.ite

theorem setRoster_upto {m : Nat} {s0 : State} {n : Nat} {r : Roster} {s : State} (h : Upto m s0 s) (hm : Sub
    0x84480000 m) :
    Upto m s0 (setRoster n r s) := by
  unfold setRoster
  try dsimp only
  repeat' first
    | with_reducible assumption
    | ((with_reducible refine Sub.of hm ?_); rfl)
    | with_reducible apply modSth_upto
    | with_reducible apply raise_upto
    | with_reducible apply Upto.ite

theorem rosterRec_upto {m : Nat} {s0 : State} {event : Nat} {n : Nat} {old : Nat} {new : Nat} {s : State} (h :
    Upto m s0 s) (hm : Sub 0xd3c80080 m) :
    Upto m s0 (rosterRec event n old new s) := by
  unfold rosterRec
  try dsimp only
  repeat' first
    | with_reducible assumption
    | with_reducible apply ldgPush_upto

theorem floorSettle_upto {m : Nat} {s0 : State} {s : State} (h : Upto m s0 s) (hm : Sub 0xd7c80080 m) :
    Upto m s0 (floorSettle s) := by
  unfold floorSettle
  try dsimp only
  repeat' first
    | with_reducible assumption
    | ((with_reducible refine Sub.of hm ?_); rfl)
    | with_reducible apply rosterRec_upto
    | with_reducible apply raise_upto
    | with_reducible apply modSth_upto
    | with_reducible apply Upto.ite

theorem joinReply_upto {m : Nat} {s0 : State} {uid : Nat} {n : Nat} {parent : Nat} {plink : Nat} {ok : Bool} {s
    : State} (h : Upto m s0 s) (hm : Sub 0x4000000 m) :
    Upto m s0 (joinReply uid n parent plink ok s) := by
  unfold joinReply
  try dsimp only
  repeat' first
    | with_reducible assumption
    | with_reducible apply linkSend_upto
    | with_reducible apply modLink_upto
    | with_reducible apply sendMsg_upto
    | with_reducible apply Upto.ite

theorem admitDev_upto {m : Nat} {s0 : State} {n : Nat} {uid : Nat} {clevel : Nat} {parent : Nat} {plink : Nat}
    {olink : Nat} {event : Nat} {old : Nat} {s : State} (h : Upto m s0 s) (hm : Sub 0xd7c80080 m) :
    Upto m s0 (admitDev n uid clevel parent plink olink event old s) := by
  unfold admitDev
  try dsimp only
  repeat' first
    | with_reducible assumption
    | ((with_reducible refine Sub.of hm ?_); rfl)
    | with_reducible apply setRoster_upto
    | with_reducible apply raise_upto
    | with_reducible apply joinReply_upto
    | with_reducible apply floorSettle_upto
    | with_reducible apply rosterRec_upto
    | with_reducible apply Upto.ite

theorem placeDev_upto {m : Nat} {s0 : State} {uid : Nat} {clevel : Nat} {parent : Nat} {plink : Nat} {olink :
    Nat} {s : State} (h : Upto m s0 s) (hm : Sub 0xd7c80080 m) :
    Upto m s0 (placeDev uid clevel parent plink olink s) := by
  unfold placeDev
  try dsimp only
  repeat' first
    | with_reducible assumption
    | ((with_reducible refine Sub.of hm ?_); rfl)
    | with_reducible apply admitDev_upto
    | with_reducible apply raise_upto
    | with_reducible apply setRoster_upto
    | with_reducible apply joinReply_upto
    | with_reducible apply Upto.ite
    | split

theorem execSthJoin_upto {m : Nat} {s0 : State} {link : Fin 8} {a1 : FlitHdr} {uid : DWord} {clevel : Byte} {via
    : Option (Fin 64 × Fin 8)} {olink : Fin 8} {attested : Bool} {s : State} (h : Upto m s0 s) (hm : Sub 0xd7c80080
    m) :
    OutUpto m s0 (execSthJoin link a1 uid clevel via olink attested s) := by
  unfold execSthJoin
  try dsimp only
  repeat' first
    | with_reducible assumption
    | intro _
    | ((with_reducible refine Sub.of hm ?_); rfl)
    | with_reducible apply rxFlit_upto
    | with_reducible apply placeDev_upto
    | with_reducible apply joinReply_upto
    | with_reducible apply Upto.ite
    | with_reducible apply OutUpto.next
    | with_reducible apply OutUpto.ite

theorem joinedAs_upto {m : Nat} {s0 : State} {n : Nat} {parent : Nat} {depth : Nat} {s : State} (h : Upto m s0
    s) (hm : Sub 0x4000000 m) :
    Upto m s0 (joinedAs n parent depth s) := by
  unfold joinedAs
  try dsimp only
  repeat' first
    | with_reducible assumption
    | intro _
    | with_reducible apply modLink_upto
    | with_reducible apply modSth_upto
    | with_reducible apply sendMsg_upto
    | with_reducible apply Upto.forEach

theorem joinRefused_upto {m : Nat} {s0 : State} {s : State} (h : Upto m s0 s) (hm : Sub 0xd7c80082 m) :
    Upto m s0 (joinRefused s) := by
  unfold joinRefused
  try dsimp only
  repeat' first
    | with_reducible assumption
    | intro _
    | ((with_reducible refine Sub.of hm ?_); rfl)
    | with_reducible apply linkDrop_upto
    | with_reducible apply modLink_upto
    | with_reducible apply Upto.forEach

theorem execJoinAnswer_upto {m : Nat} {s0 : State} {link : Fin 8} {a1 : FlitHdr} {uid : DWord} {number : Fin 64}
    {parent : Fin 64} {depth : Fin 4} {ok : Bool} {s : State} (h : Upto m s0 s) (hm : Sub 0xd7c80082 m) :
    OutUpto m s0 (execJoinAnswer link a1 uid number parent depth ok s) := by
  unfold execJoinAnswer
  try dsimp only
  repeat' first
    | with_reducible assumption
    | intro _
    | ((with_reducible refine Sub.of hm ?_); rfl)
    | with_reducible apply rxFlit_upto
    | with_reducible apply joinedAs_upto
    | with_reducible apply joinRefused_upto
    | with_reducible apply OutUpto.next
    | with_reducible apply OutUpto.ite
    | split

theorem rosterLost_upto {m : Nat} {s0 : State} {dev : Nat} {s : State} (h : Upto m s0 s) (hm : Sub 0xd7c80080 m)
    :
    Upto m s0 (rosterLost dev s) := by
  unfold rosterLost
  try dsimp only
  repeat' first
    | with_reducible assumption
    | intro _
    | ((with_reducible refine Sub.of hm ?_); rfl)
    | with_reducible apply rosterRec_upto
    | with_reducible apply setRoster_upto
    | with_reducible apply floorSettle_upto
    | with_reducible apply Upto.forEach
    | with_reducible apply Upto.ite

theorem uplinkLost_upto {m : Nat} {s0 : State} {s : State} (h : Upto m s0 s) (hm : Sub 0xd7c80082 m) :
    Upto m s0 (uplinkLost s) := by
  unfold uplinkLost
  try dsimp only
  repeat' first
    | with_reducible assumption
    | intro _
    | ((with_reducible refine Sub.of hm ?_); rfl)
    | with_reducible apply modLink_upto
    | with_reducible apply modSth_upto
    | with_reducible apply linkDrop_upto
    | with_reducible apply seekUplink_upto
    | with_reducible apply Upto.forEach

theorem execStitchLinkLost_upto {m : Nat} {s0 : State} {link : Fin 8} {s : State} (h : Upto m s0 s) (hm : Sub
    0xd7c80082 m) :
    OutUpto m s0 (execStitchLinkLost link s) := by
  unfold execStitchLinkLost
  try dsimp only
  repeat' first
    | with_reducible assumption
    | ((with_reducible refine Sub.of hm ?_); rfl)
    | with_reducible apply modLink_upto
    | with_reducible apply uplinkLost_upto
    | with_reducible apply rosterLost_upto
    | with_reducible apply OutUpto.next
    | with_reducible apply OutUpto.ite
    | split

theorem admitPending_upto {m : Nat} {s0 : State} {n : Nat} {r : Roster} {s : State} (h : Upto m s0 s) (hm : Sub
    0xd7c80080 m) :
    Upto m s0 (admitPending n r s) := by
  unfold admitPending
  try dsimp only
  repeat' first
    | with_reducible assumption
    | with_reducible apply admitDev_upto
    | split

theorem refusePending_upto {m : Nat} {s0 : State} {n : Nat} {r : Roster} {s : State} (h : Upto m s0 s) (hm : Sub
    0x84480000 m) :
    Upto m s0 (refusePending n r s) := by
  unfold refusePending
  try dsimp only
  repeat' first
    | with_reducible assumption
    | ((with_reducible refine Sub.of hm ?_); rfl)
    | with_reducible apply joinReply_upto
    | with_reducible apply setRoster_upto
    | split

theorem admitEffect_upto {m : Nat} {s0 : State} {v : List Nat} {s : State} (h : Upto m s0 s) (hm : Sub
    0xd7c80080 m) :
    Upto m s0 (admitEffect v s) := by
  unfold admitEffect
  try dsimp only
  repeat' first
    | with_reducible assumption
    | ((with_reducible refine Sub.of hm ?_); rfl)
    | with_reducible apply admitPending_upto
    | with_reducible apply refusePending_upto
    | with_reducible apply Upto.ite

theorem execSthmAdmit_upto {m : Nat} {s0 : State} {a : Acc} {s : State} (h : Upto m s0 s) (hm : Sub 0x3d7c80080
    m) :
    OutUpto m s0 (execSthmAdmit a s) := by
  unfold execSthmAdmit
  try dsimp only
  repeat' first
    | with_reducible assumption
    | intro _
    | ((with_reducible refine Sub.of hm ?_); rfl)
    | with_reducible apply regCommit_upto
    | with_reducible apply admitEffect_upto
    | with_reducible apply OutUpto.next

theorem placeDone_upto {m : Nat} {s0 : State} {result : Nat} {extra : Nat} {s : State} (h : Upto m s0 s) (hm :
    Sub 0x80480000 m) :
    Upto m s0 (placeDone result extra s) := by
  unfold placeDone
  try dsimp only
  repeat' first
    | with_reducible assumption
    | ((with_reducible refine Sub.of hm ?_); rfl)
    | with_reducible apply raise_upto
    | with_reducible apply setFld_upto

theorem placeOp_upto {m : Nat} {s0 : State} {addr : Nat} {s : State} (h : Upto m s0 s) (hm : Sub 0x84480000 m) :
    Upto m s0 (placeOp addr s) := by
  unfold placeOp
  try dsimp only
  repeat' first
    | with_reducible assumption
    | ((with_reducible refine Sub.of hm ?_); rfl)
    | with_reducible apply placeDone_upto
    | with_reducible apply modSth_upto
    | split

theorem unplaceOp_upto {m : Nat} {s0 : State} {stagepat : Nat} {s : State} (h : Upto m s0 s) (hm : Sub
    0x84480000 m) :
    Upto m s0 (unplaceOp stagepat s) := by
  unfold unplaceOp
  try dsimp only
  repeat' first
    | with_reducible assumption
    | ((with_reducible refine Sub.of hm ?_); rfl)
    | with_reducible apply placeDone_upto
    | with_reducible apply modSth_upto
    | split

theorem forgetOp_upto {m : Nat} {s0 : State} {n : Nat} {s : State} (h : Upto m s0 s) (hm : Sub 0x84480000 m) :
    Upto m s0 (forgetOp n s) := by
  unfold forgetOp
  try dsimp only
  repeat' first
    | with_reducible assumption
    | ((with_reducible refine Sub.of hm ?_); rfl)
    | with_reducible apply placeDone_upto
    | with_reducible apply setRoster_upto
    | with_reducible apply Upto.ite

theorem sthmPlaceEffect_upto {m : Nat} {s0 : State} {v : List Nat} {s : State} (h : Upto m s0 s) (hm : Sub
    0x84480000 m) :
    Upto m s0 (sthmPlaceEffect v s) := by
  unfold sthmPlaceEffect
  try dsimp only
  repeat' first
    | with_reducible assumption
    | with_reducible apply placeOp_upto
    | with_reducible apply unplaceOp_upto
    | with_reducible apply forgetOp_upto
    | split

theorem sthmPlace_upto {m : Nat} {s0 : State} {req : Req} {addr : Nat} {top : Nat} {s : State} (h : Upto m s0 s)
    (hm : Sub 0x384480000 m) :
    OutUpto m s0 (sthmPlace req addr top s) := by
  unfold sthmPlace
  try dsimp only
  repeat' first
    | with_reducible assumption
    | intro _
    | ((with_reducible refine Sub.of hm ?_); rfl)
    | with_reducible apply commitWords_upto
    | with_reducible apply sthmPlaceEffect_upto
    | with_reducible apply OutUpto.next

theorem execSthPlace_upto {m : Nat} {s0 : State} {req : Req} {addr : BitVec 48} {s : State} (h : Upto m s0 s)
    (hm : Sub 0x384480000 m) :
    OutUpto m s0 (execSthPlace req addr s) := by
  unfold execSthPlace
  try dsimp only
  repeat' first
    | with_reducible assumption
    | with_reducible apply sthmPlace_upto

theorem execSthUnplace_upto {m : Nat} {s0 : State} {req : Req} {stagepat : BitVec 16} {s : State} (h : Upto m s0
    s) (hm : Sub 0x384480000 m) :
    OutUpto m s0 (execSthUnplace req stagepat s) := by
  unfold execSthUnplace
  try dsimp only
  repeat' first
    | with_reducible assumption
    | with_reducible apply sthmPlace_upto

theorem execSthForget_upto {m : Nat} {s0 : State} {req : Req} {dev : Fin 64} {s : State} (h : Upto m s0 s) (hm :
    Sub 0x384480000 m) :
    OutUpto m s0 (execSthForget req dev s) := by
  unfold execSthForget
  try dsimp only
  repeat' first
    | with_reducible assumption
    | with_reducible apply sthmPlace_upto

theorem execPlacementQueryReceive_upto {m : Nat} {s0 : State} {link : Fin 8} {a1 : FlitHdr} {slot : Fin 256}
    {stagepat : BitVec 16} {part : Byte} {nparts : Byte} {librev : BitVec 16} {s : State} (h : Upto m s0 s) (hm :
    Sub 0x86000000 m) :
    OutUpto m s0 (execPlacementQueryReceive link a1 slot stagepat part nparts librev s) := by
  unfold execPlacementQueryReceive
  try dsimp only
  repeat' first
    | with_reducible assumption
    | intro _
    | ((with_reducible refine Sub.of hm ?_); rfl)
    | with_reducible apply rxOwn_upto
    | with_reducible apply sendMsg_upto
    | with_reducible apply OutUpto.next
    | with_reducible apply OutUpto.ite

theorem execStageKeyRequest_upto {m : Nat} {s0 : State} {link : Fin 8} {a1 : FlitHdr} {stagepat : BitVec 16}
    {out : Fin 4} {s : State} (h : Upto m s0 s) (hm : Sub 0x86000800 m) :
    OutUpto m s0 (execStageKeyRequest link a1 stagepat out s) := by
  unfold execStageKeyRequest
  try dsimp only
  repeat' first
    | with_reducible assumption
    | intro _
    | ((with_reducible refine Sub.of hm ?_); rfl)
    | with_reducible apply rxOwn_upto
    | with_reducible apply stageKeySend_upto
    | with_reducible apply Upto.ite
    | with_reducible apply OutUpto.next

theorem execStageKeyRequestReceive_upto {m : Nat} {s0 : State} {link : Fin 8} {a1 : FlitHdr} {stagepat : BitVec
    16} {out : Fin 4} {frame : BitVec 40} {s : State} (h : Upto m s0 s) (hm : Sub 0x86000800 m) :
    OutUpto m s0 (execStageKeyRequestReceive link a1 stagepat out frame s) := by
  unfold execStageKeyRequestReceive
  try dsimp only
  repeat' first
    | with_reducible assumption
    | intro _
    | ((with_reducible refine Sub.of hm ?_); rfl)
    | with_reducible apply rxOwn_upto
    | with_reducible apply keyTagged_upto
    | with_reducible apply OutUpto.next

theorem execBayLossNoticeReceive_upto {m : Nat} {s0 : State} {link : Fin 8} {a1 : FlitHdr} {bay : Fin 4} {slot :
    Fin 256} {stagepat : BitVec 16} {part : Byte} {outs : BitVec 4} {s : State} (h : Upto m s0 s) (hm : Sub
    0x86480000 m) :
    OutUpto m s0 (execBayLossNoticeReceive link a1 bay slot stagepat part outs s) := by
  unfold execBayLossNoticeReceive
  try dsimp only
  repeat' first
    | with_reducible assumption
    | intro _
    | ((with_reducible refine Sub.of hm ?_); rfl)
    | with_reducible apply rxOwn_upto
    | with_reducible apply lossQueue_upto
    | with_reducible apply Upto.ite
    | with_reducible apply OutUpto.next

theorem sysLossRead_upto {m : Nat} {s0 : State} {req : Nat} {s : State} (h : Upto m s0 s) (hm : Sub 0x204000000
    m) :
    Upto m s0 (sysLossRead req s).2 := by
  unfold sysLossRead
  try dsimp only
  repeat' first
    | with_reducible assumption
    | ((with_reducible refine Sub.of hm ?_); rfl)
    | with_reducible apply latchWords_upto
    | with_reducible apply modSth_upto
    | split

theorem lossServe_upto {m : Nat} {s0 : State} {req : Nat} {s : State} (h : Upto m s0 s) (hm : Sub 0x204000000 m)
    :
    Upto m s0 (lossServe req s) := by
  unfold lossServe
  try dsimp only
  repeat' first
    | with_reducible assumption
    | ((with_reducible refine Sub.of hm ?_); rfl)
    | with_reducible apply sysLossRead_upto
    | with_reducible apply answer_upto

theorem execSysLossRead_upto {m : Nat} {s0 : State} {req : Req} {s : State} (h : Upto m s0 s) (hm : Sub
    0x284000000 m) :
    OutUpto m s0 (execSysLossRead req s) := by
  unfold execSysLossRead
  try dsimp only
  repeat' first
    | with_reducible assumption
    | intro _
    | ((with_reducible refine Sub.of hm ?_); rfl)
    | with_reducible apply readServed_upto
    | with_reducible apply lossServe_upto
    | with_reducible apply OutUpto.next

theorem execPhaseSend_upto {m : Nat} {s0 : State} {link : Fin 8} {s : State} (h : Upto m s0 s) (hm : Sub
    0x4000000 m) :
    OutUpto m s0 (execPhaseSend link s) := by
  unfold execPhaseSend
  try dsimp only
  repeat' first
    | with_reducible assumption
    | with_reducible apply modLink_upto
    | with_reducible apply OutUpto.next
    | with_reducible apply OutUpto.ite

theorem phaseGained_upto {m : Nat} {s0 : State} {s : State} (h : Upto m s0 s) (hm : Sub 0xd3c80082 m) :
    Upto m s0 (phaseGained s) := by
  unfold phaseGained
  try dsimp only
  repeat' first
    | with_reducible assumption
    | ((with_reducible refine Sub.of hm ?_); rfl)
    | with_reducible apply modRck_upto
    | with_reducible apply sourceGained_upto
    | with_reducible apply Upto.ite
    | split

theorem phaseSteer_upto {m : Nat} {s0 : State} {k : Nat} {x : PhaseInfo} {s : State} (h : Upto m s0 s) (hm : Sub
    0xd7c80083 m) :
    Upto m s0 (phaseSteer k x s) := by
  unfold phaseSteer
  try dsimp only
  repeat' first
    | with_reducible assumption
    | ((with_reducible refine Sub.of hm ?_); rfl)
    | with_reducible apply modRck_upto
    | with_reducible apply modLink_upto
    | with_reducible apply phaseGained_upto
    | with_reducible apply servoSync_upto
    | with_reducible apply Upto.ite

theorem execPhaseFlit_upto {m : Nat} {s0 : State} {link : Fin 8} {x : PhaseInfo} {s : State} (h : Upto m s0 s)
    (hm : Sub 0xd7c80083 m) :
    OutUpto m s0 (execPhaseFlit link x s) := by
  unfold execPhaseFlit
  try dsimp only
  repeat' first
    | with_reducible assumption
    | ((with_reducible refine Sub.of hm ?_); rfl)
    | with_reducible apply modLink_upto
    | with_reducible apply phaseSteer_upto
    | with_reducible apply Upto.ite
    | with_reducible apply OutUpto.next
    | with_reducible apply OutUpto.ite

theorem execPhaseLost_upto {m : Nat} {s0 : State} {s : State} (h : Upto m s0 s) (hm : Sub 0xd3c80082 m) :
    OutUpto m s0 (execPhaseLost s) := by
  unfold execPhaseLost
  try dsimp only
  repeat' first
    | with_reducible assumption
    | with_reducible apply phaseGone_upto
    | with_reducible apply Upto.ite
    | with_reducible apply OutUpto.next

theorem execRemoteMailboxDeliver_upto {m : Nat} {s0 : State} {link : Fin 8} {a1 : FlitHdr} {origin : Fin 256}
    {box : Fin 256} {payload : DWord} {tag : Byte} {s : State} (h : Upto m s0 s) (hm : Sub 0x8d7d80080 m) :
    OutUpto m s0 (execRemoteMailboxDeliver link a1 origin box payload tag s) := by
  unfold execRemoteMailboxDeliver
  try dsimp only
  repeat' first
    | with_reducible assumption
    | intro _
    | ((with_reducible refine Sub.of hm ?_); rfl)
    | with_reducible apply rxOwn_upto
    | with_reducible apply mbxWrite_upto
    | with_reducible apply OutUpto.next

theorem execRemoteMailboxAck_upto {m : Nat} {s0 : State} {link : Fin 8} {a1 : FlitHdr} {box : Fin 256} {s :
    State} (h : Upto m s0 s) (hm : Sub 0x86100000 m) :
    OutUpto m s0 (execRemoteMailboxAck link a1 box s) := by
  unfold execRemoteMailboxAck
  try dsimp only
  repeat' first
    | with_reducible assumption
    | intro _
    | ((with_reducible refine Sub.of hm ?_); rfl)
    | with_reducible apply rxOwn_upto
    | with_reducible apply mbxClear_upto
    | with_reducible apply Upto.ite
    | with_reducible apply OutUpto.next

theorem streamArrive_upto {m : Nat} {s0 : State} {dev : Nat} {stream : Nat} {no : Nat} {ts : Nat} {marker :
    Bool} {note : Option (List Nat)} {data : List Nat} {s : State} (h : Upto m s0 s) (hm : Sub 0x40000 m) :
    Upto m s0 (streamArrive dev stream no ts marker note data s) := by
  unfold streamArrive
  try dsimp only
  repeat' first
    | with_reducible assumption
    | fail_if_no_progress with_reducible refine Upto.arrivals_set ?_ (hm.bit rfl)

theorem execStitchUnitReceive_upto {m : Nat} {s0 : State} {link : Fin 8} {a1 : FlitHdr} {stream : BitVec 16} {no
    : BitVec 16} {ts : Word} {marker : Bool} {note : Option (BitVec 128)} {data : List Byte} {s : State} (h : Upto m
    s0 s) (hm : Sub 0x86040000 m) :
    OutUpto m s0 (execStitchUnitReceive link a1 stream no ts marker note data s) := by
  unfold execStitchUnitReceive
  try dsimp only
  repeat' first
    | with_reducible assumption
    | intro _
    | ((with_reducible refine Sub.of hm ?_); rfl)
    | with_reducible apply rxOwn_upto
    | with_reducible apply streamArrive_upto
    | with_reducible apply OutUpto.next

theorem streamSend_upto {m : Nat} {s0 : State} {stream : Nat} {ts : Nat} {marker : Bool} {note : Option (List
    Nat)} {data : List Nat} {s : State} (h : Upto m s0 s) (hm : Sub 0x4040000 m) :
    Upto m s0 (streamSend stream ts marker note data s) := by
  unfold streamSend
  try dsimp only
  repeat' first
    | with_reducible assumption
    | intro _
    | ((with_reducible refine Sub.of hm ?_); rfl)
    | with_reducible apply modSth_upto
    | with_reducible apply streamArrive_upto
    | with_reducible apply sendMsg_upto
    | with_reducible apply Upto.forEach
    | with_reducible apply Upto.ite

theorem modTch_upto {m : Nat} {s0 : State} {c : Nat} {f : TileCh → TileCh} {s : State} (h : Upto m s0 s) (hm :
    Sub 0x4000000 m) :
    Upto m s0 (modTch c f s) := by
  unfold modTch
  try dsimp only
  repeat' first
    | with_reducible assumption
    | with_reducible apply modSth_upto

theorem skeinVal_upto {m : Nat} {s0 : State} {k : Nat} {w : Nat} {s : State} (h : Upto m s0 s) (hm : Sub
    0x8d3c80080 m) :
    Upto m s0 (skeinVal k w s).2 := by
  unfold skeinVal
  try dsimp only
  repeat' first
    | with_reducible assumption
    | with_reducible apply skmRead_upto
    | with_reducible refine Upto.snd (by assumption) ?_
    | split

theorem skeinThen_upto {m : Nat} {s0 : State} {x : MemRes × State} {go : State → Option (List Native) × State}
    (h : Upto m s0 (x).2) (hgo : ∀ x0, Upto m s0 x0 → Upto m s0 (go x0).2) :
    Upto m s0 (skeinThen x go).2 := by
  unfold skeinThen
  try dsimp only
  repeat' first
    | with_reducible assumption
    | with_reducible apply hgo
    | with_reducible refine Upto.snd (by assumption) ?_
    | split

theorem skeinWords_upto {m : Nat} {s0 : State} {k : Nat} {a1 : Nat} {a2 : Nat} {a3 : State} (h : Upto m s0 a3)
    (hm : Sub 0x8d3c80080 m) :
    Upto m s0 (skeinWords k a1 a2 a3).2 := by
  induction a1 generalizing k a2 a3 with
  | zero =>
    unfold skeinWords
    try dsimp only
    repeat' first
      | with_reducible assumption
      | intro _
      | with_reducible apply skeinThen_upto
      | with_reducible apply skmRead_upto
  | succ n1 ih =>
    unfold skeinWords
    try dsimp only
    repeat' first
      | with_reducible assumption
      | intro _
      | with_reducible apply ih
      | with_reducible apply skeinThen_upto
      | with_reducible apply skmRead_upto

theorem tileSend_upto {m : Nat} {s0 : State} {c : Nat} {k : Nat} {ring : Nat} {rk : Nat} {rring : Nat} {dev :
    Nat} {blk : Nat} {nslot : Nat} {pidx : Nat} {a9 : Nat} {a10 : State} (h : Upto m s0 a10) (hm : Sub 0x8d7c80080
    m) :
    Upto m s0 (tileSend c k ring rk rring dev blk nslot pidx a9 a10) := by
  induction a9 generalizing c k ring rk rring dev blk nslot pidx a10 with
  | zero =>
    unfold tileSend
    try dsimp only
    repeat' first
      | with_reducible assumption
      | ((with_reducible refine Sub.of hm ?_); rfl)
      | with_reducible apply skeinWords_upto
      | with_reducible apply sendMsg_upto
      | with_reducible apply modTch_upto
      | with_reducible apply Upto.ite
      | with_reducible refine Upto.snd (by assumption) ?_
      | split
  | succ n1 ih =>
    unfold tileSend
    try dsimp only
    repeat' first
      | with_reducible assumption
      | ((with_reducible refine Sub.of hm ?_); rfl)
      | with_reducible apply ih
      | with_reducible apply skeinWords_upto
      | with_reducible apply sendMsg_upto
      | with_reducible apply modTch_upto
      | with_reducible apply Upto.ite
      | with_reducible refine Upto.snd (by assumption) ?_
      | split

theorem execTileSendPoll_upto {m : Nat} {s0 : State} {chan : Fin 32} {s : State} (h : Upto m s0 s) (hm : Sub
    0x8d7c80080 m) :
    OutUpto m s0 (execTileSendPoll chan s) := by
  unfold execTileSendPoll
  try dsimp only
  repeat' first
    | with_reducible assumption
    | ((with_reducible refine Sub.of hm ?_); rfl)
    | with_reducible apply modTch_upto
    | with_reducible apply skeinVal_upto
    | with_reducible apply tileSend_upto
    | with_reducible apply OutUpto.next
    | with_reducible apply OutUpto.ite
    | with_reducible refine Upto.snd (by assumption) ?_
    | split

theorem execTileBlockReceive_upto {m : Nat} {s0 : State} {link : Fin 8} {a1 : FlitHdr} {chan : Fin 32} {skein :
    Fin 16} {ring : BitVec 19} {addr : BitVec 19} {block : List Native} {pidx : Word} {s : State} (h : Upto m s0 s)
    (hm : Sub 0x886000000 m) :
    OutUpto m s0 (execTileBlockReceive link a1 chan skein ring addr block pidx s) := by
  unfold execTileBlockReceive
  try dsimp only
  repeat' first
    | with_reducible assumption
    | intro _
    | ((with_reducible refine Sub.of hm ?_); rfl)
    | with_reducible apply rxOwn_upto
    | with_reducible apply skmPut_upto
    | with_reducible apply modSth_upto
    | with_reducible apply Upto.forEach
    | with_reducible apply OutUpto.next
    | with_reducible apply OutUpto.ite

theorem execTileCidxPoll_upto {m : Nat} {s0 : State} {src : Fin 64} {chan : Fin 32} {s : State} (h : Upto m s0
    s) (hm : Sub 0x8d7c80080 m) :
    OutUpto m s0 (execTileCidxPoll src chan s) := by
  unfold execTileCidxPoll
  try dsimp only
  repeat' first
    | with_reducible assumption
    | ((with_reducible refine Sub.of hm ?_); rfl)
    | with_reducible apply skeinVal_upto
    | with_reducible apply modSth_upto
    | with_reducible apply sendMsg_upto
    | with_reducible apply OutUpto.next
    | with_reducible apply OutUpto.ite
    | with_reducible refine Upto.snd (by assumption) ?_
    | split

theorem execTileCidxReport_upto {m : Nat} {s0 : State} {link : Fin 8} {a1 : FlitHdr} {chan : Fin 32} {cidx :
    Word} {pidx : Word} {s : State} (h : Upto m s0 s) (hm : Sub 0x86000000 m) :
    OutUpto m s0 (execTileCidxReport link a1 chan cidx pidx s) := by
  unfold execTileCidxReport
  try dsimp only
  repeat' first
    | with_reducible assumption
    | intro _
    | ((with_reducible refine Sub.of hm ?_); rfl)
    | with_reducible apply rxOwn_upto
    | with_reducible apply modTch_upto
    | with_reducible apply Upto.ite
    | with_reducible apply OutUpto.next

theorem sthTchEffect_upto {m : Nat} {s0 : State} {c : Nat} {old : State} {s : State} (h : Upto m s0 s) (hm : Sub
    0x4000000 m) :
    Upto m s0 (sthTchEffect c old s) := by
  unfold sthTchEffect
  try dsimp only
  repeat' first
    | with_reducible assumption
    | with_reducible apply modTch_upto
    | with_reducible apply Upto.ite

theorem sthDomainLost_upto {m : Nat} {s0 : State} {first : Nat} {s : State} (h : Upto m s0 s) (hm : Sub
    0xd7c80082 m) :
    Upto m s0 (sthDomainLost first s) := by
  unfold sthDomainLost
  try dsimp only
  repeat' first
    | with_reducible assumption
    | intro _
    | ((with_reducible refine Sub.of hm ?_); rfl)
    | with_reducible apply modLink_upto
    | with_reducible apply linkDrop_upto
    | with_reducible apply Upto.forEach
    | with_reducible apply Upto.ite

end Sys2Proof.Machine
end

