-- ==== Sys2Proof/Laws/UptoDomains.lean ====
section
/-! SUPPORT. What each operation of Machine/Domains.lean leaves unchanged (Laws/Upto.lean). -/

set_option linter.unusedTactic false
set_option linter.unreachableTactic false

namespace Sys2Proof.Machine

theorem dropRegs_upto {m : Nat} {s0 s : State} {p : Nat → Bool} {frames : List Nat} (h : Upto m s0 s)
    (hm : Sub 0x380000000 m) : Upto m s0 (dropRegs p frames s) := by
  refine h.trans ?_
  constructor
  case regs => intro k; exact absurd ((hm.bit rfl).symm.trans k) (by decide)
  case keys => intro k; exact absurd ((hm.bit rfl).symm.trans k) (by decide)
  case fabric => intro k; exact absurd ((hm.bit rfl).symm.trans k) (by decide)
  case keysOk =>
    intro w
    unfold Machine.keysOk at *
    rw [List.all_eq_true] at *
    intro e he
    exact w e (List.mem_filter.mp he).1
  case wf => exact id
  case skm => exact fun _ => ⟨rfl, rfl⟩
  case ls => exact fun _ => ⟨rfl, rfl⟩
  case rld => exact fun _ => ⟨rfl, rfl, rfl, rfl, rfl⟩
  all_goals first | rfl | exact fun _ => rfl

theorem parBegin_upto {m : Nat} {s0 : State} {frames : List Nat} {s : State} (h : Upto m s0 s) (hm : Sub
    0x200000000 m) :
    Upto m s0 (parBegin frames s) := by
  unfold parBegin
  try dsimp only
  repeat' first
    | with_reducible assumption
    | fail_if_no_progress with_reducible refine Upto.fabric_set ?_ (hm.bit rfl)

theorem domRegs_upto {m : Nat} {s0 : State} {d : Nat} {s : State} (h : Upto m s0 s) (hm : Sub 0x380000000 m) :
    Upto m s0 (domRegs d s) := by
  unfold domRegs
  try dsimp only
  repeat' first
    | with_reducible assumption
    | with_reducible apply dropRegs_upto

theorem lfiRegs_upto {m : Nat} {s0 : State} {g : Nat} {s : State} (h : Upto m s0 s) (hm : Sub 0x380000000 m) :
    Upto m s0 (lfiRegs g s) := by
  unfold lfiRegs
  try dsimp only
  repeat' first
    | with_reducible assumption
    | with_reducible apply dropRegs_upto

theorem needleLost_upto {m : Nat} {s0 : State} {n : Nat} {s : State} (h : Upto m s0 s) (hm : Sub 0x1080680080 m)
    :
    Upto m s0 (needleLost n s) := by
  unfold needleLost
  try dsimp only
  repeat' first
    | with_reducible assumption
    | ((with_reducible refine Sub.of hm ?_); rfl)
    | with_reducible apply modNdl_upto
    | with_reducible apply modMem_upto
    | with_reducible apply semRevoke_upto
    | (constructor
       all_goals first
         | exact fun _ => rfl
         | exact fun _ => ⟨rfl, rfl⟩
         | exact fun _ => ⟨rfl, rfl, rfl, rfl, rfl⟩
         | (intro k; exact absurd ((hm.bit rfl).symm.trans k) (by decide))
         | (intro w; rw [Memory.wf_iff] at *; obtain ⟨w1, w2, w3, w4, w5, w6, w7, w8, w9, w10⟩ := w
            refine ⟨?_, ?_, ?_, ?_, ?_, ?_, ?_, ?_, ?_, ?_⟩
            all_goals try dsimp only
            all_goals first
              | assumption
              | (apply tabWf_tabSet; assumption)
              | (apply tabWf_tabErase; assumption)
              | (apply tabWf_tabMod; assumption)
              | (apply tabWf_filter; assumption)))

theorem skeinLost_upto {m : Nat} {s0 : State} {k : Nat} {s : State} (h : Upto m s0 s) (hm : Sub 0x808000700 m) :
    Upto m s0 (skeinLost k s) := by
  unfold skeinLost
  try dsimp only
  repeat' first
    | ((with_reducible refine Sub.of hm ?_); rfl)
    | with_reducible apply skmZero_upto
    | with_reducible apply storeSettle_upto
    | fail_if_no_progress (apply Upto.lit <;> first | with_reducible rfl | assumption | exact .inl (hm.bit rfl) | exact .inr rfl | exact .inr ⟨rfl, rfl, rfl, rfl, rfl, rfl, rfl, rfl, rfl⟩ | show Upto _ _ _)

theorem bayLost_upto {m : Nat} {s0 : State} {b : Nat} {s : State} (h : Upto m s0 s) (hm : Sub 0x2080480000 m) :
    Upto m s0 (bayLost b s) := by
  unfold bayLost
  try dsimp only
  repeat' first
    | with_reducible assumption
    | with_reducible apply setBay_upto
    | with_reducible apply modMem_upto
    | (constructor
       all_goals first
         | exact fun _ => rfl
         | exact fun _ => ⟨rfl, rfl⟩
         | exact fun _ => ⟨rfl, rfl, rfl, rfl, rfl⟩
         | (intro k; exact absurd ((hm.bit rfl).symm.trans k) (by decide))
         | (intro w; rw [Memory.wf_iff] at *; obtain ⟨w1, w2, w3, w4, w5, w6, w7, w8, w9, w10⟩ := w
            refine ⟨?_, ?_, ?_, ?_, ?_, ?_, ?_, ?_, ?_, ?_⟩
            all_goals try dsimp only
            all_goals first
              | assumption
              | (apply tabWf_tabSet; assumption)
              | (apply tabWf_tabErase; assumption)
              | (apply tabWf_tabMod; assumption)
              | (apply tabWf_filter; assumption)))

theorem ictLost_upto {m : Nat} {s0 : State} {s : State} (h : Upto m s0 s) (hm : Sub 0x80000 m) :
    Upto m s0 (ictLost s) := by
  unfold ictLost
  try dsimp only
  repeat' first
    | with_reducible assumption
    | fail_if_no_progress with_reducible refine Upto.ict_set ?_ (hm.bit rfl)

theorem domState_upto {m : Nat} {s0 : State} {d : Nat} {s : State} (h : Upto m s0 s) (hm : Sub 0x3bdfebc7be m) :
    Upto m s0 (domState d s) := by
  unfold domState
  try dsimp only
  repeat' first
    | with_reducible assumption
    | intro _
    | ((with_reducible refine Sub.of hm ?_); rfl)
    | with_reducible apply needleLost_upto
    | with_reducible apply skeinLost_upto
    | with_reducible apply bayLost_upto
    | with_reducible apply sthDomainLost_upto
    | with_reducible apply semRevoke_upto
    | with_reducible apply ctxLost_upto
    | with_reducible apply lfiRegs_upto
    | with_reducible apply ictLost_upto
    | with_reducible apply Upto.forEach
    | with_reducible apply Upto.ite
    | fail_if_no_progress with_reducible refine Upto.eth_set ?_ (hm.bit rfl)
    | fail_if_no_progress with_reducible refine Upto.ft_set ?_ (hm.bit rfl)
    | fail_if_no_progress with_reducible refine Upto.lane_set ?_ (hm.bit rfl)
    | fail_if_no_progress with_reducible refine Upto.mag_set ?_ (hm.bit rfl)
    | fail_if_no_progress with_reducible refine Upto.prt_set ?_ (hm.bit rfl)
    | fail_if_no_progress with_reducible refine Upto.ssw_set ?_ (hm.bit rfl)
    | fail_if_no_progress with_reducible refine Upto.stl_set ?_ (hm.bit rfl)
    | fail_if_no_progress (apply Upto.lit <;> first | with_reducible rfl | assumption | exact .inl (hm.bit rfl) | exact .inr rfl | exact .inr ⟨rfl, rfl, rfl, rfl, rfl, rfl, rfl, rfl, rfl⟩ | show Upto _ _ _)

theorem domDown_upto {m : Nat} {s0 : State} {d : Nat} {s : State} (h : Upto m s0 s) (hm : Sub 0x3bdfebc7be m) :
    Upto m s0 (domDown d s) := by
  unfold domDown
  try dsimp only
  repeat' first
    | with_reducible assumption
    | intro _
    | ((with_reducible refine Sub.of hm ?_); rfl)
    | with_reducible apply domState_upto
    | with_reducible apply setUp_upto
    | with_reducible apply domRegs_upto
    | with_reducible apply Upto.forEach

theorem domStart_upto {m : Nat} {s0 : State} {d : Nat} {s : State} (h : Upto m s0 s) (hm : Sub 0x2280480480 m) :
    Upto m s0 (domStart d s) := by
  unfold domStart
  try dsimp only
  repeat' first
    | with_reducible assumption
    | intro _
    | ((with_reducible refine Sub.of hm ?_); rfl)
    | with_reducible apply parBegin_upto
    | with_reducible apply setUp_upto
    | with_reducible apply modNdl_upto
    | with_reducible apply modSkn_upto
    | with_reducible apply setBay_upto
    | with_reducible apply Upto.forEach
    | with_reducible apply Upto.ite
    | fail_if_no_progress with_reducible refine Upto.pwr_set ?_ (hm.bit rfl)

theorem baseReset_upto {m : Nat} {s0 s : State} (h : Upto m s0 s) (hm : Sub 0x3ffffffffe m) :
    Upto m s0 (baseReset s) := by
  refine h.trans ?_
  constructor
  case pending => rfl
  case now => rfl
  case free => exact fun _ => rfl
  case wf => exact fun _ => rfl
  case keysOk => exact fun _ => rfl
  all_goals (intro k; exact absurd ((hm.bit rfl).symm.trans k) (by decide))

theorem powerOff_upto {m : Nat} {s0 : State} {s : State} (h : Upto m s0 s) (hm : Sub 0x3ffffffffe m) :
    Upto m s0 (powerOff s) := by
  unfold powerOff
  try dsimp only
  repeat' first
    | with_reducible assumption
    | ((with_reducible refine Sub.of hm ?_); rfl)
    | with_reducible apply raise_upto
    | with_reducible apply baseReset_upto
    | fail_if_no_progress with_reducible refine Upto.pwr_set ?_ (hm.bit rfl)

theorem enterCastOn_upto {m : Nat} {s0 : State} {rstCause : Nat} {straps : Nat} {s : State} (h : Upto m s0 s)
    (hm : Sub 0x3ffffffffe m) :
    Upto m s0 (enterCastOn rstCause straps s) := by
  unfold enterCastOn
  try dsimp only
  repeat' first
    | with_reducible assumption
    | ((with_reducible refine Sub.of hm ?_); rfl)
    | with_reducible apply baseReset_upto
    | with_reducible apply setFld_upto
    | with_reducible apply tallyAdd_upto
    | with_reducible apply tally_upto
    | with_reducible apply setMode_upto
    | fail_if_no_progress with_reducible refine Upto.pwr_set ?_ (hm.bit rfl)

end Sys2Proof.Machine
end

