-- ==== Sys2Proof/Laws/UptoEgress.lean ====
section
/-! SUPPORT. What each operation of Machine/Egress.lean leaves unchanged (Laws/Upto.lean). -/

set_option linter.unusedTactic false
set_option linter.unreachableTactic false

namespace Sys2Proof.Machine

theorem modEth_upto {m : Nat} {s0 : State} {p : Nat} {f : EthPort → EthPort} {s : State} (h : Upto m s0 s) (hm :
    Sub 0x8000 m) :
    Upto m s0 (modEth p f s) := by
  unfold modEth
  try dsimp only
  repeat' first
    | with_reducible assumption
    | fail_if_no_progress with_reducible refine Upto.eth_set ?_ (hm.bit rfl)

theorem modSsw_upto {m : Nat} {s0 : State} {f : Ssw → Ssw} {s : State} (h : Upto m s0 s) (hm : Sub 0x10000 m) :
    Upto m s0 (modSsw f s) := by
  unfold modSsw
  try dsimp only
  repeat' first
    | with_reducible assumption
    | fail_if_no_progress with_reducible refine Upto.ssw_set ?_ (hm.bit rfl)

theorem modEgQ_upto {m : Nat} {s0 : State} {p : Nat} {q : Nat} {f : EgQ → EgQ} {s : State} (h : Upto m s0 s) (hm
    : Sub 0x8000 m) :
    Upto m s0 (modEgQ p q f s) := by
  unfold modEgQ
  try dsimp only
  repeat' first
    | with_reducible assumption
    | with_reducible apply modEth_upto

theorem egEvent_upto {m : Nat} {s0 : State} {f : FieldRef} {p : Nat} {s : State} (h : Upto m s0 s) (hm : Sub
    0x80480000 m) :
    Upto m s0 (egEvent f p s) := by
  unfold egEvent
  try dsimp only
  repeat' first
    | with_reducible assumption
    | ((with_reducible refine Sub.of hm ?_); rfl)
    | with_reducible apply raise_upto
    | with_reducible apply bump_upto

theorem egRelease_upto {m : Nat} {s0 : State} {p : Nat} {f : EgFrame} {s : State} (h : Upto m s0 s) (hm : Sub
    0xd3c84080 m) :
    Upto m s0 (egRelease p f s) := by
  unfold egRelease
  try dsimp only
  repeat' first
    | with_reducible assumption
    | with_reducible apply stlFreeOp_upto
    | split

theorem modBkt_upto {m : Nat} {s0 : State} {b : Nat} {f : Bkt → Bkt} {s : State} (h : Upto m s0 s) (hm : Sub
    0x10000 m) :
    Upto m s0 (modBkt b f s) := by
  unfold modBkt
  try dsimp only
  repeat' first
    | with_reducible assumption
    | with_reducible apply modSsw_upto

theorem newHead_upto {m : Nat} {s0 : State} {p : Nat} {q : Nat} {s : State} (h : Upto m s0 s) (hm : Sub
    0x80480000 m) :
    Upto m s0 (newHead p q s) := by
  unfold newHead
  try dsimp only
  repeat' first
    | with_reducible assumption
    | with_reducible apply egEvent_upto
    | with_reducible apply Upto.ite
    | split

theorem egEnqueue_upto {m : Nat} {s0 : State} {p : Nat} {q : Nat} {f : EgFrame} {s : State} (h : Upto m s0 s)
    (hm : Sub 0xd3c8c080 m) :
    Upto m s0 (egEnqueue p q f s) := by
  unfold egEnqueue
  try dsimp only
  repeat' first
    | with_reducible assumption
    | ((with_reducible refine Sub.of hm ?_); rfl)
    | with_reducible apply egRelease_upto
    | with_reducible apply modEgQ_upto
    | with_reducible apply newHead_upto
    | with_reducible apply Upto.ite

theorem egPop_upto {m : Nat} {s0 : State} {p : Nat} {q : Nat} {s : State} (h : Upto m s0 s) (hm : Sub 0x80488000
    m) :
    Upto m s0 (egPop p q s) := by
  unfold egPop
  try dsimp only
  repeat' first
    | with_reducible assumption
    | ((with_reducible refine Sub.of hm ?_); rfl)
    | with_reducible apply newHead_upto
    | with_reducible apply modEgQ_upto

theorem egStart_upto {m : Nat} {s0 : State} {p : Nat} {q : Nat} {s : State} (h : Upto m s0 s) (hm : Sub
    0x80498000 m) :
    Upto m s0 (egStart p q s) := by
  unfold egStart
  try dsimp only
  repeat' first
    | with_reducible assumption
    | intro _
    | ((with_reducible refine Sub.of hm ?_); rfl)
    | with_reducible apply bump_upto
    | with_reducible apply modBkt_upto
    | with_reducible apply egPop_upto
    | with_reducible apply bumpWrap_upto
    | with_reducible apply modEth_upto
    | with_reducible apply Upto.when
    | split

theorem egFinish_upto {m : Nat} {s0 : State} {p : Nat} {s : State} (h : Upto m s0 s) (hm : Sub 0xd3c8c080 m) :
    Upto m s0 (egFinish p s) := by
  unfold egFinish
  try dsimp only
  repeat' first
    | with_reducible assumption
    | ((with_reducible refine Sub.of hm ?_); rfl)
    | with_reducible apply egRelease_upto
    | with_reducible apply modEth_upto
    | with_reducible apply Upto.ite
    | split

theorem drrPick_upto {m : Nat} {s0 : State} {a0 : Nat} {a1 : Nat} {a2 : State} (h : Upto m s0 a2) (hm : Sub
    0x8000 m) :
    Upto m s0 (drrPick a0 a1 a2).2 := by
  induction a0 generalizing a1 a2 with
  | zero =>
    unfold drrPick
    try dsimp only
    repeat' first
      | with_reducible assumption
      | intro _
      | with_reducible apply modEth_upto
      | with_reducible apply modEgQ_upto
      | with_reducible apply Upto.when
      | split
  | succ n1 ih =>
    unfold drrPick
    try dsimp only
    repeat' first
      | with_reducible assumption
      | intro _
      | with_reducible apply ih
      | with_reducible apply modEth_upto
      | with_reducible apply modEgQ_upto
      | with_reducible apply Upto.when
      | split

theorem clearNofit_upto {m : Nat} {s0 : State} {p : Nat} {s : State} (h : Upto m s0 s) (hm : Sub 0x8000 m) :
    Upto m s0 (clearNofit p s) := by
  unfold clearNofit
  try dsimp only
  repeat' first
    | with_reducible assumption
    | intro _
    | with_reducible apply modEgQ_upto
    | with_reducible apply Upto.forEach
    | with_reducible apply Upto.ite
    | split

theorem egSelect_upto {m : Nat} {s0 : State} {p : Nat} {s : State} (h : Upto m s0 s) (hm : Sub 0x80498000 m) :
    Upto m s0 (egSelect p s) := by
  unfold egSelect
  try dsimp only
  repeat' first
    | with_reducible assumption
    | ((with_reducible refine Sub.of hm ?_); rfl)
    | with_reducible apply egStart_upto
    | with_reducible apply drrPick_upto
    | with_reducible apply Upto.ite
    | with_reducible refine Upto.snd (by assumption) ?_
    | split

theorem egFlush_upto {m : Nat} {s0 : State} {p : Nat} {s : State} (h : Upto m s0 s) (hm : Sub 0xd3c8c080 m) :
    Upto m s0 (egFlush p s) := by
  unfold egFlush
  try dsimp only
  repeat' first
    | with_reducible assumption
    | intro _
    | ((with_reducible refine Sub.of hm ?_); rfl)
    | with_reducible apply egRelease_upto
    | with_reducible apply bump_upto
    | with_reducible apply modEgQ_upto
    | with_reducible apply Upto.forEach

theorem gateAct_upto {m : Nat} {s0 : State} {p : Nat} {mask : Nat} {s : State} (h : Upto m s0 s) (hm : Sub
    0x80488000 m) :
    Upto m s0 (gateAct p mask s) := by
  unfold gateAct
  try dsimp only
  repeat' first
    | with_reducible assumption
    | intro _
    | ((with_reducible refine Sub.of hm ?_); rfl)
    | with_reducible apply modEth_upto
    | with_reducible apply egEvent_upto
    | with_reducible apply modEgQ_upto
    | with_reducible apply Upto.forEach
    | with_reducible apply Upto.ite
    | split

theorem execEgressSelect_upto {m : Nat} {s0 : State} {port : Fin 24} {s : State} (h : Upto m s0 s) (hm : Sub
    0xd3c9c080 m) :
    OutUpto m s0 (execEgressSelect port s) := by
  unfold execEgressSelect
  try dsimp only
  repeat' first
    | with_reducible assumption
    | ((with_reducible refine Sub.of hm ?_); rfl)
    | with_reducible apply egFinish_upto
    | with_reducible apply egSelect_upto
    | with_reducible apply clearNofit_upto
    | with_reducible apply OutUpto.next
    | with_reducible apply OutUpto.ite

theorem execGateDrop_upto {m : Nat} {s0 : State} {port : Fin 24} {queue : Fin 64} {s : State} (h : Upto m s0 s)
    (hm : Sub 0xd3c8c080 m) :
    OutUpto m s0 (execGateDrop port queue s) := by
  unfold execGateDrop
  try dsimp only
  repeat' first
    | with_reducible assumption
    | ((with_reducible refine Sub.of hm ?_); rfl)
    | with_reducible apply egEvent_upto
    | with_reducible apply egRelease_upto
    | with_reducible apply egPop_upto
    | with_reducible apply OutUpto.next
    | with_reducible apply OutUpto.ite
    | split

theorem execQueueMonitorSample_upto {m : Nat} {s0 : State} {s : State} (h : Upto m s0 s) (hm : Sub 0x18000 m) :
    OutUpto m s0 (execQueueMonitorSample s) := by
  unfold execQueueMonitorSample
  try dsimp only
  repeat' first
    | with_reducible assumption
    | intro _
    | ((with_reducible refine Sub.of hm ?_); rfl)
    | with_reducible apply modSsw_upto
    | with_reducible apply modEgQ_upto
    | with_reducible apply Upto.forEach
    | with_reducible apply OutUpto.next
    | with_reducible apply OutUpto.ite

theorem egBktEffect_upto {m : Nat} {s0 : State} {v : List Nat} {s : State} (h : Upto m s0 s) (hm : Sub 0x10000
    m) :
    Upto m s0 (egBktEffect v s) := by
  unfold egBktEffect
  try dsimp only
  repeat' first
    | with_reducible assumption
    | with_reducible apply modBkt_upto

theorem execEgBktCommit_upto {m : Nat} {s0 : State} {a : Acc} {s : State} (h : Upto m s0 s) (hm : Sub
    0x380010000 m) :
    OutUpto m s0 (execEgBktCommit a s) := by
  unfold execEgBktCommit
  try dsimp only
  repeat' first
    | with_reducible assumption
    | intro _
    | ((with_reducible refine Sub.of hm ?_); rfl)
    | with_reducible apply regCommit_upto
    | with_reducible apply egBktEffect_upto
    | with_reducible apply OutUpto.next

theorem modPol_upto {m : Nat} {s0 : State} {n : Nat} {f : Pol → Pol} {s : State} (h : Upto m s0 s) (hm : Sub
    0x10000 m) :
    Upto m s0 (modPol n f s) := by
  unfold modPol
  try dsimp only
  repeat' first
    | with_reducible assumption
    | with_reducible apply modSsw_upto

theorem egPolEffect_upto {m : Nat} {s0 : State} {v : List Nat} {s : State} (h : Upto m s0 s) (hm : Sub 0x10000
    m) :
    Upto m s0 (egPolEffect v s) := by
  unfold egPolEffect
  try dsimp only
  repeat' first
    | with_reducible assumption
    | with_reducible apply modPol_upto

theorem execEgPolCommit_upto {m : Nat} {s0 : State} {a : Acc} {s : State} (h : Upto m s0 s) (hm : Sub
    0x380010000 m) :
    OutUpto m s0 (execEgPolCommit a s) := by
  unfold execEgPolCommit
  try dsimp only
  repeat' first
    | with_reducible assumption
    | intro _
    | ((with_reducible refine Sub.of hm ?_); rfl)
    | with_reducible apply regCommit_upto
    | with_reducible apply egPolEffect_upto
    | with_reducible apply OutUpto.next

theorem sendPacket_upto {m : Nat} {s0 : State} {n : Nat} {k : Nat} {last : Bool} {note : Option (List Nat)}
    {payload : List Nat} {s : State} (h : Upto m s0 s) (hm : Sub 0xd3c8c880 m) :
    Upto m s0 (sendPacket n k last note payload s) := by
  unfold sendPacket
  try dsimp only
  repeat' first
    | with_reducible assumption
    | ((with_reducible refine Sub.of hm ?_); rfl)
    | with_reducible apply modEnc_upto
    | with_reducible apply egEnqueue_upto
    | with_reducible apply Upto.ite
    | split

theorem startPackets_upto {m : Nat} {s0 : State} {n : Nat} {k : Nat} {f16 : Nat} {s : State} (h : Upto m s0 s)
    (hm : Sub 0x800 m) :
    Upto m s0 (startPackets n k f16 s) := by
  unfold startPackets
  try dsimp only
  repeat' first
    | with_reducible assumption
    | with_reducible apply modEnc_upto

theorem sendPayloads_upto {m : Nat} {s0 : State} {n : Nat} {k : Nat} {last : Bool} {note : Option (List Nat)}
    {a4 : List (List Nat)} {a5 : State} (h : Upto m s0 a5) (hm : Sub 0xd3c8c880 m) :
    Upto m s0 (sendPayloads n k last note a4 a5) := by
  induction a4 generalizing n k last note a5 with
  | nil =>
    unfold sendPayloads
    try dsimp only
    repeat' first
      | with_reducible assumption
      | with_reducible apply sendPacket_upto
  | cons e l ih =>
    unfold sendPayloads
    try dsimp only
    repeat' first
      | with_reducible assumption
      | with_reducible apply ih
      | with_reducible apply sendPacket_upto

theorem egressUnits_upto {m : Nat} {s0 : State} {n : Nat} {k : Nat} {note : Option (List Nat)} {last : Bool} {xs
    : Option Nat} {a5 : List (List Nat)} {a6 : State} (h : Upto m s0 a6) (hm : Sub 0xd3c8c880 m) :
    Upto m s0 (egressUnits n k note last xs a5 a6) := by
  induction a5 generalizing n k note last xs a6 with
  | nil =>
    unfold egressUnits
    try dsimp only
    repeat' first
      | with_reducible assumption
      | ((with_reducible refine Sub.of hm ?_); rfl)
      | with_reducible apply startPackets_upto
      | with_reducible apply sendPayloads_upto
      | split
  | cons e l ih =>
    unfold egressUnits
    try dsimp only
    repeat' first
      | with_reducible assumption
      | ((with_reducible refine Sub.of hm ?_); rfl)
      | with_reducible apply ih
      | with_reducible apply startPackets_upto
      | with_reducible apply sendPayloads_upto
      | split

theorem rawPackets_upto {m : Nat} {s0 : State} {n : Nat} {k : Nat} {line : Nat} {last : Bool} {a4 : Nat} {a5 :
    Nat} {a6 : Option (List Nat)} {a7 : List Nat} {a8 : State} (h : Upto m s0 a8) (hm : Sub 0xd3c8c880 m) :
    Upto m s0 (rawPackets n k line last a4 a5 a6 a7 a8) := by
  induction a4 generalizing n k line last a5 a6 a7 a8 with
  | zero =>
    unfold rawPackets
    try dsimp only
    repeat' first
      | with_reducible assumption
      | with_reducible apply sendPacket_upto
      | with_reducible apply Upto.ite
  | succ n1 ih =>
    unfold rawPackets
    try dsimp only
    repeat' first
      | with_reducible assumption
      | with_reducible apply ih
      | with_reducible apply sendPacket_upto
      | with_reducible apply Upto.ite

theorem egressLines_upto {m : Nat} {s0 : State} {n : Nat} {k : Nat} {note : Option (List Nat)} {last : Bool} {a4
    : Nat} {a5 : List (List Nat)} {a6 : State} (h : Upto m s0 a6) (hm : Sub 0xd3c8c880 m) :
    Upto m s0 (egressLines n k note last a4 a5 a6) := by
  induction a5 generalizing n k note last a4 a6 with
  | nil =>
    unfold egressLines
    try dsimp only
    repeat' first
      | with_reducible assumption
      | ((with_reducible refine Sub.of hm ?_); rfl)
      | with_reducible apply startPackets_upto
      | with_reducible apply rawPackets_upto
      | split
  | cons e l ih =>
    unfold egressLines
    try dsimp only
    repeat' first
      | with_reducible assumption
      | ((with_reducible refine Sub.of hm ?_); rfl)
      | with_reducible apply ih
      | with_reducible apply startPackets_upto
      | with_reducible apply rawPackets_upto
      | split

end Sys2Proof.Machine
end

