-- ==== Sys2Proof/Laws/UptoFlowTable.lean ====
section
/-! SUPPORT. What each operation of Machine/FlowTable.lean leaves unchanged (Laws/Upto.lean). -/

set_option linter.unusedTactic false
set_option linter.unreachableTactic false

namespace Sys2Proof.Machine

theorem modFt_upto {m : Nat} {s0 : State} {f : Ft → Ft} {s : State} (h : Upto m s0 s) (hm : Sub 0x20000 m) :
    Upto m s0 (modFt f s) := by
  unfold modFt
  try dsimp only
  repeat' first
    | with_reducible assumption
    | fail_if_no_progress with_reducible refine Upto.ft_set ?_ (hm.bit rfl)

theorem ftPut_upto {m : Nat} {s0 : State} {i : Nat} {e : Native × Native} {s : State} (h : Upto m s0 s) (hm :
    Sub 0x20000 m) :
    Upto m s0 (ftPut i e s) := by
  unfold ftPut
  try dsimp only
  repeat' first
    | with_reducible assumption
    | with_reducible apply modFt_upto

theorem ftClear_upto {m : Nat} {s0 : State} {i : Nat} {s : State} (h : Upto m s0 s) (hm : Sub 0x20000 m) :
    Upto m s0 (ftClear i s) := by
  unfold ftClear
  try dsimp only
  repeat' first
    | with_reducible assumption
    | with_reducible apply modFt_upto

theorem ftResult_upto {m : Nat} {s0 : State} {req : Nat} {code : Nat} {evict : Bool} {moving : Bool} {idx : Nat}
    {newidx : Nat} {e : Native × Native} {s : State} (h : Upto m s0 s) (hm : Sub 0x80000000 m) :
    Upto m s0 (ftResult req code evict moving idx newidx e s) := by
  unfold ftResult
  try dsimp only
  repeat' first
    | with_reducible assumption
    | with_reducible apply setRwordQ_upto

theorem ftCode_upto {m : Nat} {s0 : State} {req : Nat} {code : Nat} {idx : Nat} {s : State} (h : Upto m s0 s)
    (hm : Sub 0x80000000 m) :
    Upto m s0 (ftCode req code idx s) := by
  unfold ftCode
  try dsimp only
  repeat' first
    | with_reducible assumption
    | with_reducible apply ftResult_upto

theorem moveStep_upto {m : Nat} {s0 : State} {o : FtOp} {a1 : Nat × Nat} {s : State} (h : Upto m s0 s) (hm : Sub
    0x80020000 m) :
    Upto m s0 (moveStep o a1 s).2 := by
  unfold moveStep
  try dsimp only
  repeat' first
    | with_reducible assumption
    | ((with_reducible refine Sub.of hm ?_); rfl)
    | with_reducible apply bump_upto
    | with_reducible apply ftPut_upto
    | with_reducible apply ftClear_upto
    | dsimp only
    | split

theorem ftFullEnd_upto {m : Nat} {s0 : State} {o : FtOp} {s : State} (h : Upto m s0 s) (hm : Sub 0x80480000 m) :
    Upto m s0 (ftFullEnd o s) := by
  unfold ftFullEnd
  try dsimp only
  repeat' first
    | with_reducible assumption
    | ((with_reducible refine Sub.of hm ?_); rfl)
    | with_reducible apply raise_upto
    | with_reducible apply bump_upto
    | with_reducible apply ftCode_upto
    | split

theorem syncCopies_upto {m : Nat} {s0 : State} {i : Nat} {s : State} (h : Upto m s0 s) (hm : Sub 0x20000 m) :
    Upto m s0 (syncCopies i s) := by
  unfold syncCopies
  try dsimp only
  repeat' first
    | with_reducible assumption
    | intro _
    | with_reducible apply ftPut_upto
    | with_reducible apply Upto.forEach
    | with_reducible apply Upto.ite
    | split

theorem placeStep_upto {m : Nat} {s0 : State} {o : FtOp} {s : State} (h : Upto m s0 s) (hm : Sub 0x804a0000 m) :
    Upto m s0 (placeStep o s) := by
  unfold placeStep
  try dsimp only
  repeat' first
    | with_reducible assumption
    | ((with_reducible refine Sub.of hm ?_); rfl)
    | with_reducible apply syncCopies_upto
    | with_reducible apply ftPut_upto
    | with_reducible apply raise_upto
    | with_reducible apply bump_upto
    | with_reducible apply ftResult_upto
    | with_reducible apply Upto.ite
    | split

theorem insertStep_upto {m : Nat} {s0 : State} {other : Option FtOp} {o : FtOp} {s : State} (h : Upto m s0 s)
    (hm : Sub 0x804a0000 m) :
    Upto m s0 (insertStep other o s).2 := by
  unfold insertStep
  try dsimp only
  repeat' first
    | with_reducible assumption
    | ((with_reducible refine Sub.of hm ?_); rfl)
    | with_reducible apply ftFullEnd_upto
    | with_reducible apply moveStep_upto
    | with_reducible apply placeStep_upto
    | split

theorem learnKnown_upto {m : Nat} {s0 : State} {i : Nat} {port : Nat} {s : State} (h : Upto m s0 s) (hm : Sub
    0x80020000 m) :
    Upto m s0 (learnKnown i port s) := by
  unfold learnKnown
  try dsimp only
  repeat' first
    | with_reducible assumption
    | ((with_reducible refine Sub.of hm ?_); rfl)
    | with_reducible apply bump_upto
    | with_reducible apply ftPut_upto
    | with_reducible apply Upto.ite
    | split

theorem finalStep_upto {m : Nat} {s0 : State} {other : Option FtOp} {o : FtOp} {s : State} (h : Upto m s0 s) (hm
    : Sub 0x804a0000 m) :
    Upto m s0 (finalStep other o s).2 := by
  unfold finalStep
  try dsimp only
  repeat' first
    | with_reducible assumption
    | intro _
    | ((with_reducible refine Sub.of hm ?_); rfl)
    | with_reducible apply ftResult_upto
    | with_reducible apply ftCode_upto
    | with_reducible apply insertStep_upto
    | with_reducible apply ftClear_upto
    | with_reducible apply ftPut_upto
    | with_reducible apply syncCopies_upto
    | with_reducible apply learnKnown_upto
    | with_reducible apply Upto.forEach
    | with_reducible apply Upto.ite
    | dsimp only
    | split

theorem opStep_upto {m : Nat} {s0 : State} {other : Option FtOp} {o : FtOp} {s : State} (h : Upto m s0 s) (hm :
    Sub 0x804a0000 m) :
    Upto m s0 (opStep other o s).2 := by
  unfold opStep
  try dsimp only
  repeat' first
    | with_reducible assumption
    | with_reducible apply finalStep_upto
    | split

theorem ftEngine_upto {m : Nat} {s0 : State} {s : State} (h : Upto m s0 s) (hm : Sub 0x804a0000 m) :
    Upto m s0 (ftEngine s) := by
  unfold ftEngine
  try dsimp only
  repeat' first
    | with_reducible assumption
    | ((with_reducible refine Sub.of hm ?_); rfl)
    | with_reducible apply opStep_upto
    | with_reducible apply modFt_upto
    | with_reducible apply Upto.ite
    | split

theorem learnPush_upto {m : Nat} {s0 : State} {l : Learn} {s : State} (h : Upto m s0 s) (hm : Sub 0x80020000 m)
    :
    Upto m s0 (learnPush l s) := by
  unfold learnPush
  try dsimp only
  repeat' first
    | with_reducible assumption
    | ((with_reducible refine Sub.of hm ?_); rfl)
    | with_reducible apply bump_upto
    | with_reducible apply modFt_upto
    | with_reducible apply Upto.ite

theorem execLearnRequest_upto {m : Nat} {s0 : State} {s : State} (h : Upto m s0 s) (hm : Sub 0x804a0000 m) :
    OutUpto m s0 (execLearnRequest s) := by
  unfold execLearnRequest
  try dsimp only
  repeat' first
    | with_reducible assumption
    | ((with_reducible refine Sub.of hm ?_); rfl)
    | with_reducible apply ftEngine_upto
    | with_reducible apply modFt_upto
    | with_reducible apply OutUpto.next
    | with_reducible apply OutUpto.ite
    | split

theorem ftStart_upto {m : Nat} {s0 : State} {req : Nat} {early : Option Nat} {o : FtOp} {s : State} (h : Upto m
    s0 s) (hm : Sub 0x80020000 m) :
    Upto m s0 (ftStart req early o s) := by
  unfold ftStart
  try dsimp only
  repeat' first
    | with_reducible assumption
    | ((with_reducible refine Sub.of hm ?_); rfl)
    | with_reducible apply ftCode_upto
    | with_reducible apply modFt_upto
    | split

theorem ftCmdEffect_upto {m : Nat} {s0 : State} {req : Nat} {v : List Nat} {s : State} (h : Upto m s0 s) (hm :
    Sub 0x80020000 m) :
    Upto m s0 (ftCmdEffect req v s) := by
  unfold ftCmdEffect
  try dsimp only
  repeat' first
    | with_reducible assumption
    | with_reducible apply ftStart_upto
    | split

theorem ftCommand_upto {m : Nat} {s0 : State} {req : Req} {key : Nat} {ktag : Nat} {result : Nat} {rtag : Nat}
    {top : Nat} {s : State} (h : Upto m s0 s) (hm : Sub 0x380020000 m) :
    Upto m s0 (ftCommand req key ktag result rtag top s) := by
  unfold ftCommand
  try dsimp only
  repeat' first
    | with_reducible assumption
    | intro _
    | ((with_reducible refine Sub.of hm ?_); rfl)
    | with_reducible apply commitWords_upto
    | with_reducible apply ftCmdEffect_upto

theorem execFtLookup_upto {m : Nat} {s0 : State} {req : Req} {key : DWord} {ktag : Byte} {s : State} (h : Upto m
    s0 s) (hm : Sub 0x380020000 m) :
    OutUpto m s0 (execFtLookup req key ktag s) := by
  unfold execFtLookup
  try dsimp only
  repeat' first
    | with_reducible assumption
    | with_reducible apply ftCommand_upto
    | with_reducible apply OutUpto.next

theorem execFtInsert_upto {m : Nat} {s0 : State} {req : Req} {key : DWord} {ktag : Byte} {result : DWord} {rtag
    : Byte} {s : State} (h : Upto m s0 s) (hm : Sub 0x380020000 m) :
    OutUpto m s0 (execFtInsert req key ktag result rtag s) := by
  unfold execFtInsert
  try dsimp only
  repeat' first
    | with_reducible assumption
    | with_reducible apply ftCommand_upto
    | with_reducible apply OutUpto.next

theorem execFtDelete_upto {m : Nat} {s0 : State} {req : Req} {key : DWord} {ktag : Byte} {s : State} (h : Upto m
    s0 s) (hm : Sub 0x380020000 m) :
    OutUpto m s0 (execFtDelete req key ktag s) := by
  unfold execFtDelete
  try dsimp only
  repeat' first
    | with_reducible assumption
    | with_reducible apply ftCommand_upto
    | with_reducible apply OutUpto.next

theorem execFtReadIndex_upto {m : Nat} {s0 : State} {req : Req} {index : BitVec 17} {s : State} (h : Upto m s0
    s) (hm : Sub 0x380020000 m) :
    OutUpto m s0 (execFtReadIndex req index s) := by
  unfold execFtReadIndex
  try dsimp only
  repeat' first
    | with_reducible assumption
    | with_reducible apply ftCommand_upto
    | with_reducible apply OutUpto.next

theorem execFtWriteIndex_upto {m : Nat} {s0 : State} {req : Req} {index : BitVec 17} {key : DWord} {ktag : Byte}
    {result : DWord} {rtag : Byte} {s : State} (h : Upto m s0 s) (hm : Sub 0x380020000 m) :
    OutUpto m s0 (execFtWriteIndex req index key ktag result rtag s) := by
  unfold execFtWriteIndex
  try dsimp only
  repeat' first
    | with_reducible assumption
    | with_reducible apply ftCommand_upto
    | with_reducible apply OutUpto.next

theorem execFtFlush_upto {m : Nat} {s0 : State} {req : Req} {s : State} (h : Upto m s0 s) (hm : Sub 0x380020000
    m) :
    OutUpto m s0 (execFtFlush req s) := by
  unfold execFtFlush
  try dsimp only
  repeat' first
    | with_reducible assumption
    | with_reducible apply ftCommand_upto
    | with_reducible apply OutUpto.next

theorem execEpochAdvance_upto {m : Nat} {s0 : State} {s : State} (h : Upto m s0 s) (hm : Sub 0x80020000 m) :
    OutUpto m s0 (execEpochAdvance s) := by
  unfold execEpochAdvance
  try dsimp only
  repeat' first
    | with_reducible assumption
    | ((with_reducible refine Sub.of hm ?_); rfl)
    | with_reducible apply modFt_upto
    | with_reducible apply bump_upto
    | with_reducible apply Upto.ite
    | with_reducible apply OutUpto.next
    | with_reducible apply OutUpto.ite

theorem execAgeingSweepStep_upto {m : Nat} {s0 : State} {s : State} (h : Upto m s0 s) (hm : Sub 0x80020000 m) :
    OutUpto m s0 (execAgeingSweepStep s) := by
  unfold execAgeingSweepStep
  try dsimp only
  repeat' first
    | with_reducible assumption
    | ((with_reducible refine Sub.of hm ?_); rfl)
    | with_reducible apply bump_upto
    | with_reducible apply ftClear_upto
    | with_reducible apply modFt_upto
    | with_reducible apply Upto.ite
    | with_reducible apply OutUpto.next
    | with_reducible apply OutUpto.ite
    | split

end Sys2Proof.Machine
end

