-- ==== Sys2Proof/Laws/UptoSwitch.lean ====
section
/-! SUPPORT. What each operation of Machine/Switch.lean leaves unchanged (Laws/Upto.lean). -/

set_option linter.unusedTactic false
set_option linter.unreachableTactic false

namespace Sys2Proof.Machine

theorem sswDrop_upto {m : Nat} {s0 : State} {f : FieldRef} {s : State} (h : Upto m s0 s) (hm : Sub 0x80480000 m)
    :
    Upto m s0 (sswDrop f s) := by
  unfold sswDrop
  try dsimp only
  repeat' first
    | with_reducible assumption
    | ((with_reducible refine Sub.of hm ?_); rfl)
    | with_reducible apply raise_upto
    | with_reducible apply bump_upto

theorem police_upto {m : Nat} {s0 : State} {n : Nat} {pre : Nat} {b : Nat} {s : State} (h : Upto m s0 s) (hm :
    Sub 0x10000 m) :
    Upto m s0 (police n pre b s).2 := by
  unfold police
  try dsimp only
  repeat' first
    | with_reducible assumption
    | with_reducible apply modPol_upto
    | split

theorem ctEntryEffect_upto {m : Nat} {s0 : State} {v : List Nat} {s : State} (h : Upto m s0 s) (hm : Sub 0x10000
    m) :
    Upto m s0 (ctEntryEffect v s) := by
  unfold ctEntryEffect
  try dsimp only
  repeat' first
    | with_reducible assumption
    | with_reducible apply modSsw_upto

theorem execCtEntryCommit_upto {m : Nat} {s0 : State} {a : Acc} {s : State} (h : Upto m s0 s) (hm : Sub
    0x380010000 m) :
    OutUpto m s0 (execCtEntryCommit a s) := by
  unfold execCtEntryCommit
  try dsimp only
  repeat' first
    | with_reducible assumption
    | intro _
    | ((with_reducible refine Sub.of hm ?_); rfl)
    | with_reducible apply regCommit_upto
    | with_reducible apply ctEntryEffect_upto
    | with_reducible apply OutUpto.next

theorem coreEntry_upto {m : Nat} {s0 : State} {q : Nat} {len : Nat} {t : Nat} {s : State} (h : Upto m s0 s) (hm
    : Sub 0x480490000 m) :
    Upto m s0 (coreEntry q len t s) := by
  unfold coreEntry
  try dsimp only
  repeat' first
    | with_reducible assumption
    | ((with_reducible refine Sub.of hm ?_); rfl)
    | with_reducible apply sramWrite_upto
    | with_reducible apply modSsw_upto
    | with_reducible apply raise_upto
    | with_reducible apply Upto.ite

theorem corePlace_upto {m : Nat} {s0 : State} {q : Nat} {req : Nat} {pool : Nat} {a3 : Nat} {bytes : List Nat}
    {len : Nat} {s : State} (h : Upto m s0 s) (hm : Sub 0x2cd7c94880 m) :
    Upto m s0 (corePlace q req pool a3 bytes len s).2 := by
  unfold corePlace
  try dsimp only
  repeat' first
    | with_reducible assumption
    | ((with_reducible refine Sub.of hm ?_); rfl)
    | with_reducible apply stlFreeOp_upto
    | with_reducible apply writeBytes_upto
    | with_reducible apply stlShareOp_upto
    | with_reducible apply coreEntry_upto
    | with_reducible refine Upto.snd (by assumption) ?_
    | split

theorem coreDeliver_upto {m : Nat} {s0 : State} {q : Nat} {mirror : Bool} {f : InFrame} {s : State} (h : Upto m
    s0 s) (hm : Sub 0x2cd7c94880 m) :
    Upto m s0 (coreDeliver q mirror f s) := by
  unfold coreDeliver
  try dsimp only
  repeat' first
    | with_reducible assumption
    | ((with_reducible refine Sub.of hm ?_); rfl)
    | with_reducible apply sswDrop_upto
    | with_reducible apply stlAllocOp_upto
    | with_reducible apply corePlace_upto
    | with_reducible apply Upto.ite
    | with_reducible refine Upto.snd (by assumption) ?_
    | split

theorem fragLost_upto {m : Nat} {s0 : State} {n : Nat} {i : Nat} {s : State} (h : Upto m s0 s) (hm : Sub
    0x80010000 m) :
    Upto m s0 (fragLost n i s) := by
  unfold fragLost
  try dsimp only
  repeat' first
    | with_reducible assumption
    | ((with_reducible refine Sub.of hm ?_); rfl)
    | with_reducible apply bump_upto
    | with_reducible apply modSsw_upto
    | with_reducible apply Upto.ite

theorem fragErr_upto {m : Nat} {s0 : State} {n : Nat} {i : Nat} {s : State} (h : Upto m s0 s) (hm : Sub
    0x80010000 m) :
    Upto m s0 (fragErr n i s) := by
  unfold fragErr
  try dsimp only
  repeat' first
    | with_reducible assumption
    | ((with_reducible refine Sub.of hm ?_); rfl)
    | with_reducible apply bump_upto
    | with_reducible apply modSsw_upto

theorem fragPut_upto {m : Nat} {s0 : State} {n : Nat} {i : Nat} {f : Frag} {s : State} (h : Upto m s0 s) (hm :
    Sub 0x10000 m) :
    Upto m s0 (fragPut n i f s) := by
  unfold fragPut
  try dsimp only
  repeat' first
    | with_reducible assumption
    | with_reducible apply modSsw_upto

theorem arrive_upto {m : Nat} {s0 : State} {a : Arrival} {s : State} (h : Upto m s0 s) (hm : Sub 0x50000 m) :
    Upto m s0 (arrive a s) := by
  unfold arrive
  try dsimp only
  repeat' first
    | with_reducible assumption
    | ((with_reducible refine Sub.of hm ?_); rfl)
    | with_reducible apply modSsw_upto
    | fail_if_no_progress with_reducible refine Upto.arrivals_set ?_ (hm.bit rfl)

theorem hevcFu_upto {m : Nat} {s0 : State} {n : Nat} {i : Nat} {p : RtpPkt} {s : State} (h : Upto m s0 s) (hm :
    Sub 0x80050000 m) :
    Upto m s0 (hevcFu n i p s) := by
  unfold hevcFu
  try dsimp only
  repeat' first
    | with_reducible assumption
    | ((with_reducible refine Sub.of hm ?_); rfl)
    | with_reducible apply fragLost_upto
    | with_reducible apply fragPut_upto
    | with_reducible apply fragErr_upto
    | with_reducible apply arrive_upto
    | with_reducible apply Upto.ite
    | split

theorem hevcPkt_upto {m : Nat} {s0 : State} {n : Nat} {i : Nat} {p : RtpPkt} {s : State} (h : Upto m s0 s) (hm :
    Sub 0x80050000 m) :
    Upto m s0 (hevcPkt n i p s) := by
  unfold hevcPkt
  try dsimp only
  repeat' first
    | with_reducible assumption
    | intro _
    | ((with_reducible refine Sub.of hm ?_); rfl)
    | with_reducible apply hevcFu_upto
    | with_reducible apply fragLost_upto
    | with_reducible apply fragErr_upto
    | with_reducible apply arrive_upto
    | with_reducible apply Upto.foldl_fst
    | with_reducible apply Upto.ite
    | split

theorem xsPkt_upto {m : Nat} {s0 : State} {n : Nat} {i : Nat} {p : RtpPkt} {s : State} (h : Upto m s0 s) (hm :
    Sub 0x80050000 m) :
    Upto m s0 (xsPkt n i p s) := by
  unfold xsPkt
  try dsimp only
  repeat' first
    | with_reducible assumption
    | ((with_reducible refine Sub.of hm ?_); rfl)
    | with_reducible apply fragErr_upto
    | with_reducible apply fragLost_upto
    | with_reducible apply arrive_upto
    | with_reducible apply fragPut_upto
    | with_reducible apply Upto.ite
    | split

theorem decodeDeliver_upto {m : Nat} {s0 : State} {f : InFrame} {s : State} (h : Upto m s0 s) (hm : Sub
    0x804d0000 m) :
    Upto m s0 (decodeDeliver f s) := by
  unfold decodeDeliver
  try dsimp only
  repeat' first
    | with_reducible assumption
    | ((with_reducible refine Sub.of hm ?_); rfl)
    | with_reducible apply hevcPkt_upto
    | with_reducible apply xsPkt_upto
    | with_reducible apply sswDrop_upto
    | with_reducible apply Upto.ite
    | split

theorem portDeliver_upto {m : Nat} {s0 : State} {p : Nat} {q : Nat} {f : InFrame} {s : State} (h : Upto m s0 s)
    (hm : Sub 0xd3c8c080 m) :
    Upto m s0 (portDeliver p q f s) := by
  unfold portDeliver
  try dsimp only
  repeat' first
    | with_reducible assumption
    | ((with_reducible refine Sub.of hm ?_); rfl)
    | with_reducible apply egEnqueue_upto
    | with_reducible apply sswDrop_upto
    | with_reducible apply Upto.ite

theorem deliver_upto {m : Nat} {s0 : State} {f : InFrame} {s : State} (h : Upto m s0 s) (hm : Sub 0x2cd7cdc880
    m) :
    Upto m s0 (deliver f s) := by
  unfold deliver
  try dsimp only
  repeat' first
    | with_reducible assumption
    | intro _
    | ((with_reducible refine Sub.of hm ?_); rfl)
    | with_reducible apply sswDrop_upto
    | with_reducible apply portDeliver_upto
    | with_reducible apply coreDeliver_upto
    | with_reducible apply decodeDeliver_upto
    | with_reducible apply Upto.forEach
    | with_reducible apply Upto.ite
    | split

theorem flowLookup_upto {m : Nat} {s0 : State} {a0 : Hdrs} {fkt : Bool} {f : InFrame} {s : State} (h : Upto m s0
    s) (hm : Sub 0x80020000 m) :
    Upto m s0 (flowLookup a0 fkt f s).2 := by
  unfold flowLookup
  try dsimp only
  repeat' first
    | with_reducible assumption
    | with_reducible apply learnPush_upto
    | with_reducible apply Upto.ite
    | split

theorem actPolice_upto {m : Nat} {s0 : State} {a0 : Hdrs} {n : Nat} {f : InFrame} {s : State} (h : Upto m s0 s)
    (hm : Sub 0x10000 m) :
    Upto m s0 (actPolice a0 n f s).2 := by
  unfold actPolice
  try dsimp only
  repeat' first
    | with_reducible assumption
    | with_reducible apply police_upto
    | with_reducible refine Upto.snd (by assumption) ?_
    | split

theorem actLearn_upto {m : Nat} {s0 : State} {a0 : Hdrs} {f : InFrame} {s : State} (h : Upto m s0 s) (hm : Sub
    0x80020000 m) :
    Upto m s0 (actLearn a0 f s) := by
  unfold actLearn
  try dsimp only
  repeat' first
    | with_reducible assumption
    | with_reducible apply learnPush_upto
    | with_reducible apply Upto.ite

theorem actDest_upto {m : Nat} {s0 : State} {a0 : Hdrs} {t a d : Nat} {f : InFrame} {s : State} (h : Upto m s0 s)
    (hm : Sub 0x80020000 m) :
    Upto m s0 (actDest a0 t a d f s).2 := by
  unfold actDest
  split
  · exact flowLookup_upto h hm
  · exact h
  · exact h

theorem act_upto {m : Nat} {s0 : State} {a0 : Hdrs} {t : Nat} {a : Nat} {x : Passing} (h : Upto m s0 (x).2.2)
    (hm : Sub 0x2cd7cb4880 m) :
    Upto m s0 (act a0 t a x).2.2 := by
  unfold act
  try dsimp only
  repeat' first
    | with_reducible assumption
    | ((with_reducible refine Sub.of hm ?_); rfl)
    | with_reducible apply actPolice_upto
    | with_reducible apply actLearn_upto
    | with_reducible apply coreDeliver_upto
    | with_reducible apply actDest_upto
    | with_reducible apply Upto.ite
    | split

theorem passFrom_upto {m : Nat} {s0 : State} {a0 : Hdrs} {a1 : Nat} {a2 : Nat} {a3 : Passing} (h : Upto m s0
    (a3).2.2) (hm : Sub 0x2cd7cb4880 m) :
    Upto m s0 (passFrom a0 a1 a2 a3).2.2 := by
  induction a1 generalizing a0 a2 a3 with
  | zero =>
    unfold passFrom
    try dsimp only
    repeat' first
      | with_reducible assumption
      | ((with_reducible refine Sub.of hm ?_); rfl)
      | with_reducible apply modSsw_upto
      | with_reducible apply act_upto
      | split
  | succ n1 ih =>
    unfold passFrom
    try dsimp only
    repeat' first
      | with_reducible assumption
      | ((with_reducible refine Sub.of hm ?_); rfl)
      | with_reducible apply ih
      | with_reducible apply modSsw_upto
      | with_reducible apply act_upto
      | split

theorem sswUe_upto {m : Nat} {s0 : State} {d : Nat} {s : State} (h : Upto m s0 s) (hm : Sub 0xd3cb0080 m) :
    Upto m s0 (sswUe d s) := by
  unfold sswUe
  try dsimp only
  repeat' first
    | with_reducible assumption
    | ((with_reducible refine Sub.of hm ?_); rfl)
    | with_reducible apply bump_upto
    | with_reducible apply modFt_upto
    | with_reducible apply modSsw_upto
    | with_reducible apply report_upto
    | with_reducible apply Upto.ite

theorem passFrame_upto {m : Nat} {s0 : State} {f : InFrame} {s : State} (h : Upto m s0 s) (hm : Sub 0x2cd7cfc880
    m) :
    Upto m s0 (passFrame f s) := by
  unfold passFrame
  try dsimp only
  repeat' first
    | with_reducible assumption
    | ((with_reducible refine Sub.of hm ?_); rfl)
    | with_reducible apply bump_upto
    | with_reducible apply passFrom_upto
    | with_reducible apply modSsw_upto
    | with_reducible apply deliver_upto
    | with_reducible apply Upto.ite

theorem execClassifierPass_upto {m : Nat} {s0 : State} {bad : List (BitVec 21)} {s : State} (h : Upto m s0 s)
    (hm : Sub 0x2cd7cfc880 m) :
    OutUpto m s0 (execClassifierPass bad s) := by
  unfold execClassifierPass
  try dsimp only
  repeat' first
    | with_reducible assumption
    | intro _
    | ((with_reducible refine Sub.of hm ?_); rfl)
    | with_reducible apply sswUe_upto
    | with_reducible apply passFrame_upto
    | with_reducible apply modSsw_upto
    | with_reducible apply Upto.forEach
    | with_reducible apply OutUpto.next
    | with_reducible apply OutUpto.ite
    | split

theorem fecCount_upto {m : Nat} {s0 : State} {p : Nat} {corr : Nat} {uncorr : Nat} {s : State} (h : Upto m s0 s)
    (hm : Sub 0x82000000 m) :
    Upto m s0 (fecCount p corr uncorr s) := by
  unfold fecCount
  try dsimp only
  repeat' first
    | with_reducible assumption
    | ((with_reducible refine Sub.of hm ?_); rfl)
    | with_reducible apply bump_upto
    | with_reducible apply tallyAdd_upto

theorem execFrameReceive_upto {m : Nat} {s0 : State} {port : Fin 24} {data : List Byte} {fcsOk : Bool} {corr :
    Byte} {uncorr : Byte} {s : State} (h : Upto m s0 s) (hm : Sub 0x82010000 m) :
    OutUpto m s0 (execFrameReceive port data fcsOk corr uncorr s) := by
  unfold execFrameReceive
  try dsimp only
  repeat' first
    | with_reducible assumption
    | ((with_reducible refine Sub.of hm ?_); rfl)
    | with_reducible apply fecCount_upto
    | with_reducible apply bump_upto
    | with_reducible apply bumpWrap_upto
    | with_reducible apply modSsw_upto
    | with_reducible apply OutUpto.next
    | with_reducible apply OutUpto.ite

theorem sswTxEffect_upto {m : Nat} {s0 : State} {v : List Nat} {s : State} (h : Upto m s0 s) (hm : Sub
    0x28d7c8c880 m) :
    Upto m s0 (sswTxEffect v s) := by
  unfold sswTxEffect
  try dsimp only
  repeat' first
    | with_reducible assumption
    | ((with_reducible refine Sub.of hm ?_); rfl)
    | with_reducible apply stlCheckOp_upto
    | with_reducible apply bump_upto
    | with_reducible apply readBytes_upto
    | with_reducible apply egEnqueue_upto
    | with_reducible apply egRelease_upto
    | with_reducible apply sswDrop_upto
    | with_reducible apply Upto.ite
    | with_reducible refine Upto.snd (by assumption) ?_
    | split

theorem execSswTx_upto {m : Nat} {s0 : State} {a : Acc} {s : State} (h : Upto m s0 s) (hm : Sub 0x2bd7c8c880 m)
    :
    OutUpto m s0 (execSswTx a s) := by
  unfold execSswTx
  try dsimp only
  repeat' first
    | with_reducible assumption
    | intro _
    | ((with_reducible refine Sub.of hm ?_); rfl)
    | with_reducible apply regCommit_upto
    | with_reducible apply sswTxEffect_upto
    | with_reducible apply OutUpto.next

theorem setEthLink_upto {m : Nat} {s0 : State} {p : Nat} {link : Bool} {block : Bool} {fec : Bool} {align :
    Bool} {s : State} (h : Upto m s0 s) (hm : Sub 0x80488000 m) :
    Upto m s0 (setEthLink p link block fec align s) := by
  unfold setEthLink
  try dsimp only
  repeat' first
    | with_reducible assumption
    | ((with_reducible refine Sub.of hm ?_); rfl)
    | with_reducible apply modEth_upto
    | with_reducible apply raise_upto
    | with_reducible apply Upto.ite

theorem execEthLinkUp_upto {m : Nat} {s0 : State} {port : Fin 24} {s : State} (h : Upto m s0 s) (hm : Sub
    0x80488000 m) :
    OutUpto m s0 (execEthLinkUp port s) := by
  unfold execEthLinkUp
  try dsimp only
  repeat' first
    | with_reducible assumption
    | with_reducible apply setEthLink_upto
    | with_reducible apply OutUpto.next
    | with_reducible apply OutUpto.ite

theorem ethDrop_upto {m : Nat} {s0 : State} {p : Nat} {block : Bool} {fec : Bool} {align : Bool} {s : State} (h
    : Upto m s0 s) (hm : Sub 0xd3c8c080 m) :
    Upto m s0 (ethDrop p block fec align s) := by
  unfold ethDrop
  try dsimp only
  repeat' first
    | with_reducible assumption
    | ((with_reducible refine Sub.of hm ?_); rfl)
    | with_reducible apply egFlush_upto
    | with_reducible apply setEthLink_upto
    | with_reducible apply egRelease_upto
    | with_reducible apply modEth_upto
    | with_reducible apply Upto.ite
    | split

theorem execEthLinkDown_upto {m : Nat} {s0 : State} {port : Fin 24} {block : Bool} {fec : Bool} {align : Bool}
    {s : State} (h : Upto m s0 s) (hm : Sub 0xd3c8c080 m) :
    OutUpto m s0 (execEthLinkDown port block fec align s) := by
  unfold execEthLinkDown
  try dsimp only
  repeat' first
    | with_reducible assumption
    | with_reducible apply ethDrop_upto
    | with_reducible apply OutUpto.next

theorem ethCfgEffect_upto {m : Nat} {s0 : State} {p : Nat} {s : State} (h : Upto m s0 s) (hm : Sub 0xd3c8c080 m)
    :
    Upto m s0 (ethCfgEffect p s) := by
  unfold ethCfgEffect
  try dsimp only
  repeat' first
    | with_reducible assumption
    | intro _
    | with_reducible apply ethDrop_upto
    | with_reducible apply Upto.forEach
    | with_reducible apply Upto.ite

theorem sswCqEffect_upto {m : Nat} {s0 : State} {q : Nat} {v : List Nat} {s : State} (h : Upto m s0 s) (hm : Sub
    0x80010000 m) :
    Upto m s0 (sswCqEffect q v s) := by
  unfold sswCqEffect
  try dsimp only
  repeat' first
    | with_reducible assumption
    | ((with_reducible refine Sub.of hm ?_); rfl)
    | with_reducible apply setFld_upto
    | with_reducible apply modSsw_upto
    | with_reducible apply Upto.ite

end Sys2Proof.Machine
end

