-- ==== Sys2Proof/Laws/UptoMagazine.lean ====
section
/-! SUPPORT. What each operation of Machine/Magazine.lean leaves unchanged (Laws/Upto.lean). -/

set_option linter.unusedTactic false
set_option linter.unreachableTactic false

namespace Sys2Proof.Machine

theorem modMag_upto {m : Nat} {s0 : State} {a0 : Nat} {f : Mag → Mag} {s : State} (h : Upto m s0 s) (hm : Sub
    0x10000000 m) :
    Upto m s0 (modMag a0 f s) := by
  unfold modMag
  try dsimp only
  repeat' first
    | with_reducible assumption
    | fail_if_no_progress with_reducible refine Upto.mag_set ?_ (hm.bit rfl)

theorem modMStream_upto {m : Nat} {s0 : State} {a0 : Nat} {k : Nat} {f : MagStream → MagStream} {s : State} (h :
    Upto m s0 s) (hm : Sub 0x10000000 m) :
    Upto m s0 (modMStream a0 k f s) := by
  unfold modMStream
  try dsimp only
  repeat' first
    | with_reducible assumption
    | with_reducible apply modMag_upto

theorem setAtt_upto {m : Nat} {s0 : State} {a0 : Nat} {a : Att} {s : State} (h : Upto m s0 s) (hm : Sub
    0x90480000 m) :
    Upto m s0 (setAtt a0 a s) := by
  unfold setAtt
  try dsimp only
  repeat' first
    | with_reducible assumption
    | ((with_reducible refine Sub.of hm ?_); rfl)
    | with_reducible apply raise_upto
    | with_reducible apply modMag_upto
    | with_reducible apply Upto.ite

theorem magFail_upto {m : Nat} {s0 : State} {a0 : Nat} {c : Nat} {s : State} (h : Upto m s0 s) (hm : Sub
    0x90480000 m) :
    Upto m s0 (magFail a0 c s) := by
  unfold magFail
  try dsimp only
  repeat' first
    | with_reducible assumption
    | ((with_reducible refine Sub.of hm ?_); rfl)
    | with_reducible apply setAtt_upto
    | with_reducible apply modMag_upto

theorem magEvent_upto {m : Nat} {s0 : State} {f : FieldRef} {a1 : Nat} {s : State} (h : Upto m s0 s) (hm : Sub
    0x80480000 m) :
    Upto m s0 (magEvent f a1 s) := by
  unfold magEvent
  try dsimp only
  repeat' first
    | with_reducible assumption
    | ((with_reducible refine Sub.of hm ?_); rfl)
    | with_reducible apply raise_upto
    | with_reducible apply bump_upto

theorem pushRec_upto {m : Nat} {s0 : State} {a0 : Nat} {r : List Nat} {s : State} (h : Upto m s0 s) (hm : Sub
    0x10000000 m) :
    Upto m s0 (pushRec a0 r s) := by
  unfold pushRec
  try dsimp only
  repeat' first
    | with_reducible assumption
    | with_reducible apply modMag_upto

theorem magEnd_upto {m : Nat} {s0 : State} {a0 : Nat} {s : State} (h : Upto m s0 s) (hm : Sub 0x10000000 m) :
    Upto m s0 (magEnd a0 s) := by
  unfold magEnd
  try dsimp only
  repeat' first
    | with_reducible assumption
    | with_reducible apply modMag_upto
    | with_reducible apply pushRec_upto
    | with_reducible apply Upto.ite
    | split

theorem modFrame_upto {m : Nat} {s0 : State} {a0 : Nat} {id : Nat} {g : MagFrame → MagFrame} {s : State} (h :
    Upto m s0 s) (hm : Sub 0x10000000 m) :
    Upto m s0 (modFrame a0 id g s) := by
  unfold modFrame
  try dsimp only
  repeat' first
    | with_reducible assumption
    | with_reducible apply modMag_upto

theorem recordFrame_upto {m : Nat} {s0 : State} {a0 : Nat} {f : MagFrame} {s : State} (h : Upto m s0 s) (hm :
    Sub 0xd3c84080 m) :
    Upto m s0 (recordFrame a0 f s) := by
  unfold recordFrame
  try dsimp only
  repeat' first
    | with_reducible assumption
    | ((with_reducible refine Sub.of hm ?_); rfl)
    | with_reducible apply modMStream_upto
    | with_reducible apply pushRec_upto
    | with_reducible apply modFrame_upto
    | with_reducible apply modMag_upto
    | with_reducible apply stlFreeOp_upto
    | with_reducible apply Upto.ite
    | split

theorem magSettle_upto {m : Nat} {s0 : State} {a0 : Nat} {s : State} (h : Upto m s0 s) (hm : Sub 0xd3c84080 m) :
    Upto m s0 (magSettle a0 s) := by
  unfold magSettle
  try dsimp only
  repeat' first
    | with_reducible assumption
    | intro _
    | ((with_reducible refine Sub.of hm ?_); rfl)
    | with_reducible apply magEnd_upto
    | with_reducible apply recordFrame_upto
    | with_reducible apply Upto.forEach

theorem magCloseFrame_upto {m : Nat} {s0 : State} {a0 : Nat} {k : Nat} {cause : Nat} {s : State} (h : Upto m s0
    s) (hm : Sub 0x10000000 m) :
    Upto m s0 (magCloseFrame a0 k cause s) := by
  unfold magCloseFrame
  try dsimp only
  repeat' first
    | with_reducible assumption
    | with_reducible apply modMStream_upto
    | with_reducible apply modFrame_upto
    | split

theorem dropFrame_upto {m : Nat} {s0 : State} {a0 : Nat} {id : Nat} {cause : Nat} {s : State} (h : Upto m s0 s)
    (hm : Sub 0xd3c84080 m) :
    Upto m s0 (dropFrame a0 id cause s) := by
  unfold dropFrame
  try dsimp only
  repeat' first
    | with_reducible assumption
    | ((with_reducible refine Sub.of hm ?_); rfl)
    | with_reducible apply magCloseFrame_upto
    | with_reducible apply magEnd_upto
    | with_reducible apply recordFrame_upto
    | with_reducible apply Upto.ite
    | split

theorem abandon_upto {m : Nat} {s0 : State} {a0 : Nat} {s : State} (h : Upto m s0 s) (hm : Sub 0xd3c84080 m) :
    Upto m s0 (abandon a0 s) := by
  unfold abandon
  try dsimp only
  repeat' first
    | with_reducible assumption
    | intro _
    | ((with_reducible refine Sub.of hm ?_); rfl)
    | with_reducible apply stlFreeOp_upto
    | with_reducible apply modMag_upto
    | with_reducible apply Upto.forEach

theorem dropLine_upto {m : Nat} {s0 : State} {a0 : Nat} {k : Nat} {n : Nat} {s : State} (h : Upto m s0 s) (hm :
    Sub 0x90000000 m) :
    Upto m s0 (dropLine a0 k n s) := by
  unfold dropLine
  try dsimp only
  repeat' first
    | with_reducible assumption
    | ((with_reducible refine Sub.of hm ?_); rfl)
    | with_reducible apply bump_upto
    | with_reducible apply modMStream_upto

theorem magOpenFrame_upto {m : Nat} {s0 : State} {a0 : Nat} {k : Nat} {f : Nat} {s : State} (h : Upto m s0 s)
    (hm : Sub 0x10000000 m) :
    Upto m s0 (magOpenFrame a0 k f s) := by
  unfold magOpenFrame
  try dsimp only
  repeat' first
    | with_reducible assumption
    | with_reducible apply modMStream_upto
    | with_reducible apply modMag_upto

theorem putElem_upto {m : Nat} {s0 : State} {a0 : Nat} {k : Nat} {v : Nat} {fin : Bool} {s : State} (h : Upto m
    s0 s) (hm : Sub 0x10000000 m) :
    Upto m s0 (putElem a0 k v fin s) := by
  unfold putElem
  try dsimp only
  repeat' first
    | with_reducible assumption
    | with_reducible apply modFrame_upto
    | with_reducible apply magCloseFrame_upto
    | with_reducible apply Upto.ite
    | split

theorem lineHeader_upto {m : Nat} {s0 : State} {a0 : Nat} {k : Nat} {v : Nat} {s : State} (h : Upto m s0 s) (hm
    : Sub 0xd3c84080 m) :
    Upto m s0 (lineHeader a0 k v s) := by
  unfold lineHeader
  try dsimp only
  repeat' first
    | with_reducible assumption
    | ((with_reducible refine Sub.of hm ?_); rfl)
    | with_reducible apply dropLine_upto
    | with_reducible apply magCloseFrame_upto
    | with_reducible apply magOpenFrame_upto
    | with_reducible apply modFrame_upto
    | with_reducible apply magSettle_upto
    | with_reducible apply putElem_upto
    | with_reducible apply modMStream_upto
    | with_reducible apply Upto.ite
    | split

theorem apertureTake_upto {m : Nat} {s0 : State} {a0 : Nat} {k : Nat} {v : Nat} {s : State} (h : Upto m s0 s)
    (hm : Sub 0xd3c84080 m) :
    Upto m s0 (apertureTake a0 k v s).1 := by
  unfold apertureTake
  try dsimp only
  repeat' first
    | with_reducible assumption
    | ((with_reducible refine Sub.of hm ?_); rfl)
    | with_reducible apply modMStream_upto
    | with_reducible apply dropLine_upto
    | with_reducible apply magSettle_upto
    | with_reducible apply putElem_upto
    | with_reducible apply lineHeader_upto
    | split

theorem execApertureWrite_upto {m : Nat} {s0 : State} {req : Req} {mag : Fin 16} {stream : Fin 16} {data :
    DWord} {s : State} (h : Upto m s0 s) (hm : Sub 0xd3c84080 m) :
    OutUpto m s0 (execApertureWrite req mag stream data s) := by
  unfold execApertureWrite
  try dsimp only
  repeat' first
    | with_reducible assumption
    | ((with_reducible refine Sub.of hm ?_); rfl)
    | with_reducible apply busError_upto
    | with_reducible apply apertureTake_upto
    | with_reducible apply OutUpto.next
    | with_reducible apply OutUpto.ite

theorem magFull_upto {m : Nat} {s0 : State} {a0 : Nat} {s : State} (h : Upto m s0 s) (hm : Sub 0xd3c84080 m) :
    Upto m s0 (magFull a0 s) := by
  unfold magFull
  try dsimp only
  repeat' first
    | with_reducible assumption
    | intro _
    | ((with_reducible refine Sub.of hm ?_); rfl)
    | with_reducible apply magCloseFrame_upto
    | with_reducible apply modMag_upto
    | with_reducible apply magSettle_upto
    | with_reducible apply setAtt_upto
    | with_reducible apply Upto.forEach

theorem newExtent_upto {m : Nat} {s0 : State} {a0 : Nat} {k : Nat} {soff : Nat} {s : State} (h : Upto m s0 s)
    (hm : Sub 0x10000000 m) :
    Upto m s0 (newExtent a0 k soff s) := by
  unfold newExtent
  try dsimp only
  repeat' first
    | with_reducible assumption
    | with_reducible apply pushRec_upto
    | with_reducible apply modMStream_upto
    | with_reducible apply modMag_upto

theorem submitFrame_upto {m : Nat} {s0 : State} {a0 : Nat} {f : MagFrame} {s : State} (h : Upto m s0 s) (hm :
    Sub 0xd3c84080 m) :
    Upto m s0 (submitFrame a0 f s) := by
  unfold submitFrame
  try dsimp only
  repeat' first
    | with_reducible assumption
    | ((with_reducible refine Sub.of hm ?_); rfl)
    | with_reducible apply magFull_upto
    | with_reducible apply newExtent_upto
    | with_reducible apply modMStream_upto
    | with_reducible apply modFrame_upto
    | with_reducible apply modMag_upto
    | with_reducible apply Upto.ite

theorem execLandingSubmit_upto {m : Nat} {s0 : State} {mag : Fin 16} {stream : Fin 16} {s : State} (h : Upto m
    s0 s) (hm : Sub 0xd3c84080 m) :
    OutUpto m s0 (execLandingSubmit mag stream s) := by
  unfold execLandingSubmit
  try dsimp only
  repeat' first
    | with_reducible assumption
    | with_reducible apply magSettle_upto
    | with_reducible apply submitFrame_upto
    | with_reducible apply OutUpto.next
    | with_reducible apply OutUpto.ite
    | split

theorem submitAll_upto {m : Nat} {s0 : State} {a0 : Nat} {id : Nat} {a2 : Nat} {a3 : State} (h : Upto m s0 a3)
    (hm : Sub 0xd3c84080 m) :
    Upto m s0 (submitAll a0 id a2 a3) := by
  induction a2 generalizing a0 id a3 with
  | zero =>
    unfold submitAll
    try dsimp only
    repeat' first
      | with_reducible assumption
      | with_reducible apply submitFrame_upto
      | with_reducible apply Upto.ite
      | split
  | succ n1 ih =>
    unfold submitAll
    try dsimp only
    repeat' first
      | with_reducible assumption
      | with_reducible apply ih
      | with_reducible apply submitFrame_upto
      | with_reducible apply Upto.ite
      | split

theorem execCodedPictureRecord_upto {m : Nat} {s0 : State} {mag : Fin 16} {s : State} (h : Upto m s0 s) (hm :
    Sub 0xd3c84080 m) :
    OutUpto m s0 (execCodedPictureRecord mag s) := by
  unfold execCodedPictureRecord
  try dsimp only
  repeat' first
    | with_reducible assumption
    | ((with_reducible refine Sub.of hm ?_); rfl)
    | with_reducible apply modMStream_upto
    | with_reducible apply modMag_upto
    | with_reducible apply magSettle_upto
    | with_reducible apply submitAll_upto
    | with_reducible apply OutUpto.next
    | with_reducible apply OutUpto.ite
    | split

theorem passToMagazine_upto {m : Nat} {s0 : State} {n : Nat} {k : Nat} {note : List Nat} {units : List (List
    Nat)} {buf : Option Nat} {owner : Nat} {s : State} (h : Upto m s0 s) (hm : Sub 0xd3c84080 m) :
    Upto m s0 (passToMagazine n k note units buf owner s) := by
  unfold passToMagazine
  try dsimp only
  repeat' first
    | with_reducible assumption
    | ((with_reducible refine Sub.of hm ?_); rfl)
    | with_reducible apply stlShareOp_upto
    | with_reducible apply modMag_upto
    | with_reducible apply Upto.ite
    | with_reducible refine Upto.snd (by assumption) ?_
    | split

theorem submitJournal_upto {m : Nat} {s0 : State} {a0 : Nat} {recs : List (List Nat)} {next : Nat} {s : State}
    (h : Upto m s0 s) (hm : Sub 0x10000000 m) :
    Upto m s0 (submitJournal a0 recs next s) := by
  unfold submitJournal
  try dsimp only
  repeat' first
    | with_reducible assumption
    | with_reducible apply modMag_upto

theorem submitSuper_upto {m : Nat} {s0 : State} {a0 : Nat} {s : State} (h : Upto m s0 s) (hm : Sub 0x10000000 m)
    :
    Upto m s0 (submitSuper a0 s) := by
  unfold submitSuper
  try dsimp only
  repeat' first
    | with_reducible assumption
    | with_reducible apply modMag_upto

theorem execJournalSubmit_upto {m : Nat} {s0 : State} {mag : Fin 16} {s : State} (h : Upto m s0 s) (hm : Sub
    0x10000000 m) :
    OutUpto m s0 (execJournalSubmit mag s) := by
  unfold execJournalSubmit
  try dsimp only
  repeat' first
    | with_reducible assumption
    | with_reducible apply submitJournal_upto
    | with_reducible apply modMag_upto
    | with_reducible apply submitSuper_upto
    | with_reducible apply OutUpto.next
    | with_reducible apply OutUpto.ite
    | split

theorem magDone_upto {m : Nat} {s0 : State} {a0 : Nat} {res : Nat} {s : State} (h : Upto m s0 s) (hm : Sub
    0x90480000 m) :
    Upto m s0 (magDone a0 res s) := by
  unfold magDone
  try dsimp only
  repeat' first
    | with_reducible assumption
    | ((with_reducible refine Sub.of hm ?_); rfl)
    | with_reducible apply raise_upto
    | with_reducible apply setFld_upto
    | with_reducible apply modMag_upto

theorem superDone_upto {m : Nat} {s0 : State} {a0 : Nat} {s : State} (h : Upto m s0 s) (hm : Sub 0x90480000 m) :
    Upto m s0 (superDone a0 s) := by
  unfold superDone
  try dsimp only
  repeat' first
    | with_reducible assumption
    | ((with_reducible refine Sub.of hm ?_); rfl)
    | with_reducible apply modMag_upto
    | with_reducible apply magDone_upto
    | with_reducible apply setAtt_upto
    | with_reducible apply Upto.ite
    | split

theorem execJournalWriteComplete_upto {m : Nat} {s0 : State} {mag : Fin 16} {ok : Bool} {s : State} (h : Upto m
    s0 s) (hm : Sub 0xd3c84080 m) :
    OutUpto m s0 (execJournalWriteComplete mag ok s) := by
  unfold execJournalWriteComplete
  try dsimp only
  repeat' first
    | with_reducible assumption
    | ((with_reducible refine Sub.of hm ?_); rfl)
    | with_reducible apply modMag_upto
    | with_reducible apply magEvent_upto
    | with_reducible apply magFail_upto
    | with_reducible apply abandon_upto
    | with_reducible apply report_upto
    | with_reducible apply tally_upto
    | with_reducible apply magDone_upto
    | with_reducible apply superDone_upto
    | with_reducible apply Upto.ite
    | with_reducible apply OutUpto.next
    | with_reducible apply OutUpto.ite
    | split

theorem countWritten_upto {m : Nat} {s0 : State} {a0 : Nat} {n : Nat} {s : State} (h : Upto m s0 s) (hm : Sub
    0x12000000 m) :
    Upto m s0 (countWritten a0 n s) := by
  unfold countWritten
  try dsimp only
  repeat' first
    | with_reducible assumption
    | ((with_reducible refine Sub.of hm ?_); rfl)
    | with_reducible apply tallyAdd_upto
    | with_reducible apply modMag_upto

theorem execNvmeWriteComplete_upto {m : Nat} {s0 : State} {mag : Fin 16} {index : Nat} {ok : Bool} {s : State}
    (h : Upto m s0 s) (hm : Sub 0xd3c84080 m) :
    OutUpto m s0 (execNvmeWriteComplete mag index ok s) := by
  unfold execNvmeWriteComplete
  try dsimp only
  repeat' first
    | with_reducible assumption
    | ((with_reducible refine Sub.of hm ?_); rfl)
    | with_reducible apply modMag_upto
    | with_reducible apply magEvent_upto
    | with_reducible apply modFrame_upto
    | with_reducible apply magSettle_upto
    | with_reducible apply countWritten_upto
    | with_reducible apply report_upto
    | with_reducible apply tally_upto
    | with_reducible apply dropFrame_upto
    | with_reducible apply modMStream_upto
    | with_reducible apply Upto.ite
    | with_reducible apply OutUpto.next
    | with_reducible apply OutUpto.ite
    | split

theorem execMagSlow_upto {m : Nat} {s0 : State} {mag : Fin 16} {stream : Fin 16} {s : State} (h : Upto m s0 s)
    (hm : Sub 0xd3c84080 m) :
    OutUpto m s0 (execMagSlow mag stream s) := by
  unfold execMagSlow
  try dsimp only
  repeat' first
    | with_reducible assumption
    | ((with_reducible refine Sub.of hm ?_); rfl)
    | with_reducible apply raise_upto
    | with_reducible apply dropFrame_upto
    | with_reducible apply OutUpto.next
    | split

theorem openTake_upto {m : Nat} {s0 : State} {a0 : Nat} {take : Nat} {s : State} (h : Upto m s0 s) (hm : Sub
    0x10000000 m) :
    Upto m s0 (openTake a0 take s) := by
  unfold openTake
  try dsimp only
  repeat' first
    | with_reducible assumption
    | intro _
    | with_reducible apply pushRec_upto
    | with_reducible apply modMag_upto
    | with_reducible apply Upto.forEach

theorem closeTake_upto {m : Nat} {s0 : State} {a0 : Nat} {op : Nat} {s : State} (h : Upto m s0 s) (hm : Sub
    0xd3c84080 m) :
    Upto m s0 (closeTake a0 op s) := by
  unfold closeTake
  try dsimp only
  repeat' first
    | with_reducible assumption
    | ((with_reducible refine Sub.of hm ?_); rfl)
    | with_reducible apply magSettle_upto
    | with_reducible apply modMag_upto

theorem formatTake_upto {m : Nat} {s0 : State} {a0 : Nat} {extsh : Nat} {s : State} (h : Upto m s0 s) (hm : Sub
    0x10000001 m) :
    Upto m s0 (formatTake a0 extsh s) := by
  unfold formatTake
  try dsimp only
  repeat' first
    | with_reducible assumption
    | ((with_reducible refine Sub.of hm ?_); rfl)
    | with_reducible apply takeFree_upto
    | with_reducible apply modMag_upto

theorem magCmdEffect_upto {m : Nat} {s0 : State} {a0 : Nat} {v : List Nat} {s : State} (h : Upto m s0 s) (hm :
    Sub 0xd3c84081 m) :
    Upto m s0 (magCmdEffect a0 v s) := by
  unfold magCmdEffect
  try dsimp only
  repeat' first
    | with_reducible assumption
    | ((with_reducible refine Sub.of hm ?_); rfl)
    | with_reducible apply magDone_upto
    | with_reducible apply formatTake_upto
    | with_reducible apply openTake_upto
    | with_reducible apply closeTake_upto
    | with_reducible apply setAtt_upto
    | with_reducible apply abandon_upto
    | with_reducible apply Upto.ite
    | split

theorem execMagFormat_upto {m : Nat} {s0 : State} {req : Req} {mag : Fin 16} {extsh : BitVec 4} {s : State} (h :
    Upto m s0 s) (hm : Sub 0x3d3c84081 m) :
    OutUpto m s0 (execMagFormat req mag extsh s) := by
  unfold execMagFormat
  try dsimp only
  repeat' first
    | with_reducible assumption
    | intro _
    | ((with_reducible refine Sub.of hm ?_); rfl)
    | with_reducible apply commitWords_upto
    | with_reducible apply magCmdEffect_upto
    | with_reducible apply OutUpto.next

theorem execMagOpen_upto {m : Nat} {s0 : State} {req : Req} {mag : Fin 16} {take : BitVec 48} {s : State} (h :
    Upto m s0 s) (hm : Sub 0x3d3c84081 m) :
    OutUpto m s0 (execMagOpen req mag take s) := by
  unfold execMagOpen
  try dsimp only
  repeat' first
    | with_reducible assumption
    | intro _
    | ((with_reducible refine Sub.of hm ?_); rfl)
    | with_reducible apply commitWords_upto
    | with_reducible apply magCmdEffect_upto
    | with_reducible apply OutUpto.next

theorem execMagClose_upto {m : Nat} {s0 : State} {req : Req} {mag : Fin 16} {s : State} (h : Upto m s0 s) (hm :
    Sub 0x3d3c84081 m) :
    OutUpto m s0 (execMagClose req mag s) := by
  unfold execMagClose
  try dsimp only
  repeat' first
    | with_reducible assumption
    | intro _
    | ((with_reducible refine Sub.of hm ?_); rfl)
    | with_reducible apply regCommit_upto
    | with_reducible apply magCmdEffect_upto
    | with_reducible apply OutUpto.next

theorem execMagDetach_upto {m : Nat} {s0 : State} {req : Req} {mag : Fin 16} {s : State} (h : Upto m s0 s) (hm :
    Sub 0x3d3c84081 m) :
    OutUpto m s0 (execMagDetach req mag s) := by
  unfold execMagDetach
  try dsimp only
  repeat' first
    | with_reducible assumption
    | intro _
    | ((with_reducible refine Sub.of hm ?_); rfl)
    | with_reducible apply regCommit_upto
    | with_reducible apply magCmdEffect_upto
    | with_reducible apply OutUpto.next

theorem execPcieLinkUp_upto {m : Nat} {s0 : State} {mag : Fin 16} {speed : Fin 5} {width : Fin 5} {ident :
    MagIdent} {s : State} (h : Upto m s0 s) (hm : Sub 0x90480000 m) :
    OutUpto m s0 (execPcieLinkUp mag speed width ident s) := by
  unfold execPcieLinkUp
  try dsimp only
  repeat' first
    | with_reducible assumption
    | ((with_reducible refine Sub.of hm ?_); rfl)
    | with_reducible apply modMag_upto
    | with_reducible apply setAtt_upto
    | with_reducible apply magFail_upto
    | with_reducible apply OutUpto.next
    | with_reducible apply OutUpto.ite
    | split

theorem recover_upto {m : Nat} {s0 : State} {a0 : Nat} {take : Nat} {seq : Nat} {s : State} (h : Upto m s0 s)
    (hm : Sub 0x10000000 m) :
    Upto m s0 (recover a0 take seq s) := by
  unfold recover
  try dsimp only
  repeat' first
    | with_reducible assumption
    | with_reducible apply submitJournal_upto
    | with_reducible apply modMag_upto

theorem execMagazineScan_upto {m : Nat} {s0 : State} {mag : Fin 16} {sbA : List Byte} {sbB : List Byte} {journal
    : List (List Byte)} {s : State} (h : Upto m s0 s) (hm : Sub 0x90480000 m) :
    OutUpto m s0 (execMagazineScan mag sbA sbB journal s) := by
  unfold execMagazineScan
  try dsimp only
  repeat' first
    | with_reducible assumption
    | ((with_reducible refine Sub.of hm ?_); rfl)
    | with_reducible apply magFail_upto
    | with_reducible apply setAtt_upto
    | with_reducible apply modMag_upto
    | with_reducible apply recover_upto
    | with_reducible apply OutUpto.next
    | with_reducible apply OutUpto.ite
    | split

theorem magDrop_upto {m : Nat} {s0 : State} {a0 : Nat} {again : Bool} {s : State} (h : Upto m s0 s) (hm : Sub
    0xd3c84080 m) :
    Upto m s0 (magDrop a0 again s) := by
  unfold magDrop
  try dsimp only
  repeat' first
    | with_reducible assumption
    | ((with_reducible refine Sub.of hm ?_); rfl)
    | with_reducible apply modMag_upto
    | with_reducible apply abandon_upto
    | with_reducible apply setAtt_upto
    | with_reducible apply report_upto
    | with_reducible apply magDone_upto
    | with_reducible apply Upto.ite

theorem execMagLost_upto {m : Nat} {s0 : State} {mag : Fin 16} {s : State} (h : Upto m s0 s) (hm : Sub
    0xd3c84080 m) :
    OutUpto m s0 (execMagLost mag s) := by
  unfold execMagLost
  try dsimp only
  repeat' first
    | with_reducible assumption
    | with_reducible apply magDrop_upto
    | with_reducible apply OutUpto.next
    | with_reducible apply OutUpto.ite

theorem magCfgEffect_upto {m : Nat} {s0 : State} {a0 : Nat} {old : State} {s : State} (h : Upto m s0 s) (hm :
    Sub 0xd3c84080 m) :
    Upto m s0 (magCfgEffect a0 old s) := by
  unfold magCfgEffect
  try dsimp only
  repeat' first
    | with_reducible assumption
    | ((with_reducible refine Sub.of hm ?_); rfl)
    | with_reducible apply modMag_upto
    | with_reducible apply magDrop_upto
    | with_reducible apply Upto.ite

theorem execMgperstRelease_upto {m : Nat} {s0 : State} {mag : Fin 16} {s : State} (h : Upto m s0 s) (hm : Sub
    0x10000000 m) :
    OutUpto m s0 (execMgperstRelease mag s) := by
  unfold execMgperstRelease
  try dsimp only
  repeat' first
    | with_reducible assumption
    | with_reducible apply modMag_upto
    | with_reducible apply OutUpto.next
    | with_reducible apply OutUpto.ite
    | split

theorem magPowerFail_upto {m : Nat} {s0 : State} {s : State} (h : Upto m s0 s) (hm : Sub 0x10000000 m) :
    Upto m s0 (magPowerFail s) := by
  unfold magPowerFail
  try dsimp only
  repeat' first
    | with_reducible assumption
    | intro _
    | with_reducible apply modMag_upto
    | with_reducible apply Upto.forEach

theorem magPfwClose_upto {m : Nat} {s0 : State} {a0 : Nat} {s : State} (h : Upto m s0 s) (hm : Sub 0x10000000 m)
    :
    Upto m s0 (magPfwClose a0 s) := by
  unfold magPfwClose
  try dsimp only
  repeat' first
    | with_reducible assumption
    | intro _
    | with_reducible apply modMag_upto
    | with_reducible apply pushRec_upto
    | with_reducible apply Upto.forEach
    | with_reducible apply Upto.ite

theorem apertureRead_upto {m : Nat} {s0 : State} {a0 : Nat} {k : Nat} {n : Nat} {s : State} (h : Upto m s0 s)
    (hm : Sub 0x10000000 m) :
    Upto m s0 (apertureRead a0 k n s).2 := by
  unfold apertureRead
  try dsimp only
  repeat' first
    | with_reducible assumption
    | with_reducible apply modMStream_upto
    | split

theorem execReadApertureRead_upto {m : Nat} {s0 : State} {req : Req} {mag : Fin 16} {stream : Fin 16} {bits :
    Nat} {s : State} (h : Upto m s0 s) (hm : Sub 0x290000000 m) :
    OutUpto m s0 (execReadApertureRead req mag stream bits s) := by
  unfold execReadApertureRead
  try dsimp only
  repeat' first
    | with_reducible assumption
    | ((with_reducible refine Sub.of hm ?_); rfl)
    | with_reducible apply busError_upto
    | with_reducible apply apertureRead_upto
    | with_reducible apply answer_upto
    | with_reducible apply OutUpto.next
    | with_reducible apply OutUpto.ite
    | with_reducible refine Upto.snd (by assumption) ?_
    | split

theorem execNvmeReadComplete_upto {m : Nat} {s0 : State} {mag : Fin 16} {brings : MagRead} {s : State} (h : Upto
    m s0 s) (hm : Sub 0x30000000 m) :
    OutUpto m s0 (execNvmeReadComplete mag brings s) := by
  unfold execNvmeReadComplete
  try dsimp only
  repeat' first
    | with_reducible assumption
    | ((with_reducible refine Sub.of hm ?_); rfl)
    | with_reducible apply modMStream_upto
    | with_reducible apply OutUpto.next
    | with_reducible apply OutUpto.ite
    | fail_if_no_progress with_reducible refine Upto.magIn_set ?_ (hm.bit rfl)
    | split

theorem execMagazineInputDeliver_upto {m : Nat} {s0 : State} {slot : Fin 256} {input : Fin 16} {s : State} (h :
    Upto m s0 s) (hm : Sub 0x20040000 m) :
    OutUpto m s0 (execMagazineInputDeliver slot input s) := by
  unfold execMagazineInputDeliver
  try dsimp only
  repeat' first
    | with_reducible assumption
    | with_reducible apply OutUpto.next
    | with_reducible apply OutUpto.ite
    | split
    | fail_if_no_progress (apply Upto.lit <;> first | with_reducible rfl | assumption | exact .inl (hm.bit rfl) | exact .inr rfl | exact .inr ⟨rfl, rfl, rfl, rfl, rfl, rfl, rfl, rfl, rfl⟩ | show Upto _ _ _)

theorem execInboundRequest_upto {m : Nat} {s0 : State} {mag : Fin 16} {target : MagTarget} {s : State} (h : Upto
    m s0 s) (hm : Sub 0x80480000 m) :
    OutUpto m s0 (execInboundRequest mag target s) := by
  unfold execInboundRequest
  try dsimp only
  repeat' first
    | with_reducible assumption
    | with_reducible apply magEvent_upto
    | with_reducible apply OutUpto.next
    | with_reducible apply OutUpto.ite

end Sys2Proof.Machine
end

