-- ==== Sys2Proof/Laws/UptoModes.lean ====
section
/-! SUPPORT. What each operation of Machine/Modes.lean leaves unchanged (Laws/Upto.lean). -/

set_option linter.unusedTactic false
set_option linter.unreachableTactic false

namespace Sys2Proof.Machine

theorem toStandby_upto {m : Nat} {s0 : State} {cause : Nat} {s : State} (h : Upto m s0 s) (hm : Sub 0xd3c80080
    m) :
    Upto m s0 (toStandby cause s) := by
  unfold toStandby
  try dsimp only
  repeat' first
    | with_reducible assumption
    | with_reducible apply setMode_upto
    | split

end Sys2Proof.Machine
end

