-- ==== Sys2Proof/Laws/UptoNano.lean ====
section
/-! SUPPORT. What each operation of Machine/Nano.lean leaves unchanged (Laws/Upto.lean). -/

set_option linter.unusedTactic false
set_option linter.unreachableTactic false

namespace Sys2Proof.Machine

theorem NdlRes.both_upto {m : Nat} {s0 : State} {x : NdlRes} {f : State → NdlRes} (h : Upto m s0 (x).2) (hf : ∀
    x0, Upto m s0 x0 → Upto m s0 (f x0).2) :
    Upto m s0 (NdlRes.both x f).2 := by
  unfold NdlRes.both
  try dsimp only
  repeat' first
    | with_reducible assumption
    | with_reducible apply hf
    | with_reducible refine Upto.snd (by assumption) ?_
    | split

theorem NWord.lsGet_upto {m : Nat} {s0 : State} {q : NWord} {n : Nat} {a : Nat} {s : State} (h : Upto m s0 s)
    (hm : Sub 0x1080000000 m) :
    Upto m s0 (NWord.lsGet q n a s).2 := by
  unfold NWord.lsGet
  try dsimp only
  repeat' first
    | with_reducible assumption
    | with_reducible apply lsRead_upto
    | with_reducible refine Upto.snd (by assumption) ?_
    | split

theorem NWord.skGet_upto {m : Nat} {s0 : State} {q : NWord} {n : Nat} {a : Nat} {s : State} (h : Upto m s0 s)
    (hm : Sub 0x8d3c80080 m) :
    Upto m s0 (NWord.skGet q n a s).2 := by
  unfold NWord.skGet
  try dsimp only
  repeat' first
    | with_reducible assumption
    | with_reducible apply skmRead_upto
    | with_reducible refine Upto.snd (by assumption) ?_
    | split

theorem NWord.slotOp_upto {m : Nat} {s0 : State} {q : NWord} {n : Nat} {x : Ndl} {s : State} (h : Upto m s0 s)
    (hm : Sub 0x800000b0 m) :
    Upto m s0 (NWord.slotOp q n x s).2 := by
  unfold NWord.slotOp
  try dsimp only
  repeat' first
    | with_reducible assumption
    | ((with_reducible refine Sub.of hm ?_); rfl)
    | with_reducible apply modNdl_upto
    | with_reducible apply needlePortOp_upto
    | with_reducible refine Upto.of_some (by assumption) ?_
    | split

theorem NWord.xferOp_upto {m : Nat} {s0 : State} {q : NWord} {n : Nat} {x : Ndl} {s : State} (h : Upto m s0 s)
    (hm : Sub 0x80 m) :
    Upto m s0 (NWord.xferOp q n x s).2 := by
  unfold NWord.xferOp
  try dsimp only
  repeat' first
    | with_reducible assumption
    | with_reducible apply modNdl_upto
    | split

theorem NWord.memStep_upto {m : Nat} {s0 : State} {q : NWord} {n : Nat} {x : Ndl} {s : State} (h : Upto m s0 s)
    (hm : Sub 0x18d3c800b0 m) :
    Upto m s0 (NWord.memStep q n x s).2 := by
  unfold NWord.memStep
  try dsimp only
  repeat' first
    | with_reducible assumption
    | ((with_reducible refine Sub.of hm ?_); rfl)
    | with_reducible apply NWord.lsGet_upto
    | with_reducible apply lsPut_upto
    | with_reducible apply NWord.skGet_upto
    | with_reducible apply skmPut_upto
    | with_reducible apply NWord.slotOp_upto
    | with_reducible apply NWord.xferOp_upto
    | with_reducible refine Upto.snd (by assumption) ?_
    | split

theorem NWord.txuStep_upto {m : Nat} {s0 : State} {q : NWord} {n : Nat} {x : Ndl} {s : State} (h : Upto m s0 s)
    (hm : Sub 0x80 m) :
    Upto m s0 (NWord.txuStep q n x s).2 := by
  unfold NWord.txuStep
  try dsimp only
  repeat' first
    | with_reducible assumption
    | with_reducible apply modNdl_upto
    | split

theorem getWords_upto {m : Nat} {s0 : State} {get : Nat → State → Except NdlFault Nat × State} {a1 : List Nat}
    {a2 : State} (h : Upto m s0 a2) (hget : ∀ x0 x1, Upto m s0 x1 → Upto m s0 (get x0 x1).2) :
    Upto m s0 (getWords get a1 a2).2 := by
  induction a1 generalizing a2 with
  | nil =>
    unfold getWords
    try dsimp only
    repeat' first
      | with_reducible assumption
      | with_reducible apply hget
      | with_reducible refine Upto.snd (by assumption) ?_
      | split
  | cons e l ih =>
    unfold getWords
    try dsimp only
    repeat' first
      | with_reducible assumption
      | with_reducible apply ih
      | with_reducible apply hget
      | with_reducible refine Upto.snd (by assumption) ?_
      | split

theorem NWord.meuStep_upto {m : Nat} {s0 : State} {q : NWord} {n : Nat} {x : Ndl} {s : State} (h : Upto m s0 s)
    (hm : Sub 0x18d3c80081 m) :
    Upto m s0 (NWord.meuStep q n x s).2 := by
  unfold NWord.meuStep
  try dsimp only
  repeat' first
    | with_reducible assumption
    | intro _
    | ((with_reducible refine Sub.of hm ?_); rfl)
    | with_reducible apply modNdl_upto
    | with_reducible apply getWords_upto
    | with_reducible apply NWord.lsGet_upto
    | with_reducible apply NWord.skGet_upto
    | with_reducible apply takeFree_upto
    | with_reducible refine Upto.snd (by assumption) ?_
    | split

theorem modEnu_upto {m : Nat} {s0 : State} {n : Nat} {f : Enu → Enu} {s : State} (h : Upto m s0 s) (hm : Sub
    0x80 m) :
    Upto m s0 (modEnu n f s) := by
  unfold modEnu
  try dsimp only
  repeat' first
    | with_reducible assumption
    | with_reducible apply modNdl_upto

theorem NWord.enuStep_upto {m : Nat} {s0 : State} {q : NWord} {n : Nat} {x : Ndl} {s : State} (h : Upto m s0 s)
    (hm : Sub 0x1080000080 m) :
    Upto m s0 (NWord.enuStep q n x s).2 := by
  unfold NWord.enuStep
  try dsimp only
  repeat' first
    | with_reducible assumption
    | intro _
    | ((with_reducible refine Sub.of hm ?_); rfl)
    | with_reducible apply modEnu_upto
    | with_reducible apply getWords_upto
    | with_reducible apply NWord.lsGet_upto
    | with_reducible apply lsPut_upto
    | with_reducible apply Upto.foldl
    | with_reducible refine Upto.snd (by assumption) ?_
    | split

theorem NWord.unitStep_upto {m : Nat} {s0 : State} {q : NWord} {n : Nat} {x : Ndl} {s : State} (h : Upto m s0 s)
    (hm : Sub 0x18d3c80081 m) :
    Upto m s0 (NWord.unitStep q n x s).2 := by
  unfold NWord.unitStep
  try dsimp only
  repeat' first
    | with_reducible assumption
    | ((with_reducible refine Sub.of hm ?_); rfl)
    | with_reducible apply NWord.txuStep_upto
    | with_reducible apply NWord.meuStep_upto
    | with_reducible apply NWord.enuStep_upto
    | split

theorem NWord.run_upto {m : Nat} {s0 : State} {q : NWord} {n : Nat} {bad : Nat} {badAddr : Nat} {s : State} (h :
    Upto m s0 s) (hm : Sub 0x18d3c808b1 m) :
    Upto m s0 (NWord.run q n bad badAddr s) := by
  unfold NWord.run
  try dsimp only
  repeat' first
    | with_reducible assumption
    | intro _
    | ((with_reducible refine Sub.of hm ?_); rfl)
    | with_reducible apply raiseFault_upto
    | with_reducible apply NdlRes.both_upto
    | with_reducible apply NWord.memStep_upto
    | with_reducible apply NWord.unitStep_upto
    | with_reducible apply modNdl_upto
    | with_reducible apply Upto.ite
    | with_reducible refine Upto.snd (by assumption) ?_
    | split

theorem wordLoop_upto {m : Nat} {s0 : State} {n : Nat} {k : Nat} {s : State} (h : Upto m s0 s) (hm : Sub 0x80 m)
    :
    Upto m s0 (wordLoop n k s) := by
  unfold wordLoop
  try dsimp only
  repeat' first
    | with_reducible assumption
    | with_reducible apply modNdl_upto
    | with_reducible apply Upto.ite

theorem nanoParityBad_upto {m : Nat} {s0 : State} {n : Nat} {idx : Nat} {s : State} (h : Upto m s0 s) (hm : Sub
    0xd3c80981 m) :
    Upto m s0 (nanoParityBad n idx s) := by
  unfold nanoParityBad
  try dsimp only
  repeat' first
    | with_reducible assumption
    | ((with_reducible refine Sub.of hm ?_); rfl)
    | with_reducible apply bump_upto
    | with_reducible apply setFld_upto
    | with_reducible apply report_upto
    | with_reducible apply setBankSt_upto
    | with_reducible apply faultNow_upto

theorem safegapNow_upto {m : Nat} {s0 : State} {n : Nat} {s : State} (h : Upto m s0 s) (hm : Sub 0xd3c80881 m) :
    Upto m s0 (safegapNow n s) := by
  unfold safegapNow
  try dsimp only
  repeat' first
    | with_reducible assumption
    | ((with_reducible refine Sub.of hm ?_); rfl)
    | with_reducible apply faultNow_upto
    | with_reducible apply ndlTick_upto

theorem nanorunRaise_upto {m : Nat} {s0 : State} {n : Nat} {s : State} (h : Upto m s0 s) (hm : Sub 0xd3c80880 m)
    :
    Upto m s0 (nanorunRaise n s) := by
  unfold nanorunRaise
  try dsimp only
  repeat' first
    | with_reducible assumption
    | with_reducible apply raiseFault_upto
    | split

theorem nanoGo_upto {m : Nat} {s0 : State} {n : Nat} {r : NanoRun} {i : Nat} {s : State} (h : Upto m s0 s) (hm :
    Sub 0xd3c80881 m) :
    Upto m s0 (nanoGo n r i s) := by
  unfold nanoGo
  try dsimp only
  repeat' first
    | with_reducible assumption
    | ((with_reducible refine Sub.of hm ?_); rfl)
    | with_reducible apply faultNow_upto
    | with_reducible apply modNdl_upto
    | with_reducible apply Upto.ite

theorem nanoCycle_upto {m : Nat} {s0 : State} {n : Nat} {s : State} (h : Upto m s0 s) (hm : Sub 0x2000080 m) :
    Upto m s0 (nanoCycle n s) := by
  unfold nanoCycle
  try dsimp only
  repeat' first
    | with_reducible assumption
    | ((with_reducible refine Sub.of hm ?_); rfl)
    | with_reducible apply ndlTick_upto
    | with_reducible apply modNdl_upto

theorem nanoExec_upto {m : Nat} {s0 : State} {n : Nat} {r : NanoRun} {w : Nat} {x0 : Ndl} {s : State} (h : Upto
    m s0 s) (hm : Sub 0x18d7d808b1 m) :
    Upto m s0 (nanoExec n r w x0 s) := by
  unfold nanoExec
  try dsimp only
  repeat' first
    | with_reducible assumption
    | ((with_reducible refine Sub.of hm ?_); rfl)
    | with_reducible apply stallCycle_upto
    | with_reducible apply setNdlSt_upto
    | with_reducible apply raiseFault_upto
    | with_reducible apply NWord.run_upto
    | with_reducible apply wordLoop_upto
    | with_reducible apply nanoCycle_upto
    | with_reducible apply boundary_upto
    | with_reducible apply modNdl_upto
    | with_reducible apply sampleSafe_upto
    | with_reducible apply nanoGo_upto
    | with_reducible apply Upto.ite
    | split

theorem execNanoWordExecute_upto {m : Nat} {s0 : State} {needle : Fin 128} {s : State} (h : Upto m s0 s) (hm :
    Sub 0x18d7d809b1 m) :
    OutUpto m s0 (execNanoWordExecute needle s) := by
  unfold execNanoWordExecute
  try dsimp only
  repeat' first
    | with_reducible assumption
    | ((with_reducible refine Sub.of hm ?_); rfl)
    | with_reducible apply ndlSettle_upto
    | with_reducible apply safegapNow_upto
    | with_reducible apply nanorunRaise_upto
    | with_reducible apply nanoParityBad_upto
    | with_reducible apply nanoExec_upto
    | with_reducible apply Upto.ite
    | with_reducible apply OutUpto.next
    | with_reducible apply OutUpto.ite
    | split

theorem execSafegap_upto {m : Nat} {s0 : State} {needle : Fin 128} {s : State} (h : Upto m s0 s) (hm : Sub
    0xd3c80881 m) :
    OutUpto m s0 (execSafegap needle s) := by
  unfold execSafegap
  try dsimp only
  repeat' first
    | with_reducible assumption
    | ((with_reducible refine Sub.of hm ?_); rfl)
    | with_reducible apply safegapNow_upto
    | with_reducible apply ndlSettle_upto
    | with_reducible apply Upto.ite
    | with_reducible apply OutUpto.next

theorem execNanorun_upto {m : Nat} {s0 : State} {needle : Fin 128} {s : State} (h : Upto m s0 s) (hm : Sub
    0xd3c80880 m) :
    OutUpto m s0 (execNanorun needle s) := by
  unfold execNanorun
  try dsimp only
  repeat' first
    | with_reducible assumption
    | with_reducible apply nanorunRaise_upto
    | with_reducible apply Upto.ite
    | with_reducible apply OutUpto.next

theorem horizSample_upto {m : Nat} {s0 : State} {n : Nat} {x0 : Ndl} {next : Nat} {s : State} (h : Upto m s0 s)
    (hm : Sub 0xd7d80881 m) :
    Upto m s0 (horizSample n x0 next s) := by
  unfold horizSample
  try dsimp only
  repeat' first
    | with_reducible assumption
    | ((with_reducible refine Sub.of hm ?_); rfl)
    | with_reducible apply takeFault_upto
    | with_reducible apply boundary_upto
    | split

theorem horizExec_upto {m : Nat} {s0 : State} {n : Nat} {a : Nat} {w : Nat} {x0 : Ndl} {s : State} (h : Upto m
    s0 s) (hm : Sub 0x18d7d808b1 m) :
    Upto m s0 (horizExec n a w x0 s) := by
  unfold horizExec
  try dsimp only
  repeat' first
    | with_reducible assumption
    | ((with_reducible refine Sub.of hm ?_); rfl)
    | with_reducible apply stallCycle_upto
    | with_reducible apply NWord.run_upto
    | with_reducible apply setNdlSt_upto
    | with_reducible apply wordLoop_upto
    | with_reducible apply modNdl_upto
    | with_reducible apply horizSample_upto
    | with_reducible apply ndlTick_upto
    | with_reducible apply Upto.ite

theorem execHorizWordExecute_upto {m : Nat} {s0 : State} {needle : Fin 128} {s : State} (h : Upto m s0 s) (hm :
    Sub 0x18d7d808b1 m) :
    OutUpto m s0 (execHorizWordExecute needle s) := by
  unfold execHorizWordExecute
  try dsimp only
  repeat' first
    | with_reducible assumption
    | ((with_reducible refine Sub.of hm ?_); rfl)
    | with_reducible apply ndlSettle_upto
    | with_reducible apply faultNow_upto
    | with_reducible apply lsRead_upto
    | with_reducible apply horizExec_upto
    | with_reducible apply horizSample_upto
    | with_reducible apply raiseFault_upto
    | with_reducible apply ndlTick_upto
    | with_reducible apply OutUpto.next
    | with_reducible apply OutUpto.ite
    | with_reducible refine Upto.snd (by assumption) ?_
    | split

end Sys2Proof.Machine
end

