-- ==== Sys2Proof/Laws/UptoPorter.lean ====
section
/-! SUPPORT. What each operation of Machine/Porter.lean leaves unchanged (Laws/Upto.lean). -/

set_option linter.unusedTactic false
set_option linter.unreachableTactic false

namespace Sys2Proof.Machine

theorem modPrt_upto {m : Nat} {s0 : State} {n : Nat} {f : Prt → Prt} {s : State} (h : Upto m s0 s) (hm : Sub
    0x40000000 m) :
    Upto m s0 (modPrt n f s) := by
  unfold modPrt
  try dsimp only
  repeat' first
    | with_reducible assumption
    | fail_if_no_progress with_reducible refine Upto.prt_set ?_ (hm.bit rfl)

theorem chainEnd_upto {m : Nat} {s0 : State} {n : Nat} {res : Nat} {detail : Nat} {resid : Nat} {ddone : Nat} {s
    : State} (h : Upto m s0 s) (hm : Sub 0xc0480000 m) :
    Upto m s0 (chainEnd n res detail resid ddone s) := by
  unfold chainEnd
  try dsimp only
  repeat' first
    | with_reducible assumption
    | ((with_reducible refine Sub.of hm ?_); rfl)
    | with_reducible apply setFld_upto
    | with_reducible apply modPrt_upto
    | with_reducible apply raise_upto
    | with_reducible apply bump_upto
    | split

theorem prtBusError_upto {m : Nat} {s0 : State} {n : Nat} {a : Nat} {c : Berr} {s : State} (h : Upto m s0 s) (hm
    : Sub 0xd3c80080 m) :
    Upto m s0 (prtBusError n a c s) := by
  unfold prtBusError
  try dsimp only
  repeat' first
    | with_reducible assumption
    | ((with_reducible refine Sub.of hm ?_); rfl)
    | with_reducible apply setFld_upto
    | with_reducible apply chainEnd_upto
    | with_reducible apply report_upto

theorem descEnd_upto {m : Nat} {s0 : State} {n : Nat} {s : State} (h : Upto m s0 s) (hm : Sub 0x2cd7c84880 m) :
    Upto m s0 (descEnd n s) := by
  unfold descEnd
  try dsimp only
  repeat' first
    | with_reducible assumption
    | ((with_reducible refine Sub.of hm ?_); rfl)
    | with_reducible apply stlFreeOp_upto
    | with_reducible apply chainEnd_upto
    | with_reducible apply accErr_upto
    | with_reducible apply memWrite_upto
    | with_reducible apply prtBusError_upto
    | with_reducible apply bump_upto
    | with_reducible apply raise_upto
    | with_reducible apply modPrt_upto
    | with_reducible apply Upto.ite
    | with_reducible refine Upto.snd (by assumption) ?_
    | dsimp only
    | split

theorem prtDescEffect_upto {m : Nat} {s0 : State} {n : Nat} {v : List Nat} {s : State} (h : Upto m s0 s) (hm :
    Sub 0xc0000000 m) :
    Upto m s0 (prtDescEffect n v s) := by
  unfold prtDescEffect
  try dsimp only
  repeat' first
    | with_reducible assumption
    | ((with_reducible refine Sub.of hm ?_); rfl)
    | with_reducible apply setFld_upto
    | with_reducible apply modPrt_upto
    | with_reducible apply Upto.ite

theorem execPrtStart_upto {m : Nat} {s0 : State} {req : Req} {channel : Fin 64} {addr : BitVec 48} {s : State}
    (h : Upto m s0 s) (hm : Sub 0x3c0000000 m) :
    OutUpto m s0 (execPrtStart req channel addr s) := by
  unfold execPrtStart
  try dsimp only
  repeat' first
    | with_reducible assumption
    | intro _
    | ((with_reducible refine Sub.of hm ?_); rfl)
    | with_reducible apply commitWords_upto
    | with_reducible apply prtDescEffect_upto
    | with_reducible apply OutUpto.next

theorem prtCmdEffect_upto {m : Nat} {s0 : State} {n : Nat} {a1 : List Nat} {s : State} (h : Upto m s0 s) (hm :
    Sub 0x40000000 m) :
    Upto m s0 (prtCmdEffect n a1 s) := by
  unfold prtCmdEffect
  try dsimp only
  repeat' first
    | with_reducible assumption
    | with_reducible apply modPrt_upto

theorem execPrtAbort_upto {m : Nat} {s0 : State} {req : Req} {channel : Fin 64} {s : State} (h : Upto m s0 s)
    (hm : Sub 0x3c0000000 m) :
    OutUpto m s0 (execPrtAbort req channel s) := by
  unfold execPrtAbort
  try dsimp only
  repeat' first
    | with_reducible assumption
    | intro _
    | ((with_reducible refine Sub.of hm ?_); rfl)
    | with_reducible apply regCommit_upto
    | with_reducible apply prtCmdEffect_upto
    | with_reducible apply OutUpto.next

theorem prtCtlEffect_upto {m : Nat} {s0 : State} {n : Nat} {v : List Nat} {s : State} (h : Upto m s0 s) (hm :
    Sub 0x40000000 m) :
    Upto m s0 (prtCtlEffect n v s) := by
  unfold prtCtlEffect
  try dsimp only
  repeat' first
    | with_reducible assumption
    | with_reducible apply modPrt_upto
    | with_reducible apply Upto.ite

theorem claimPort_upto {m : Nat} {s0 : State} {n : Nat} {s : State} (h : Upto m s0 s) (hm : Sub 0x40000000 m) :
    Upto m s0 (claimPort n s).2 := by
  unfold claimPort
  try dsimp only
  repeat' first
    | with_reducible assumption
    | with_reducible apply modPrt_upto
    | split

theorem sideCheck_upto {m : Nat} {s0 : State} {n : Nat} {a1 : Nat} {off : Nat} {bytes : Nat} {on : Bool} {s :
    State} (h : Upto m s0 s) (hm : Sub 0xd3c80080 m) :
    Upto m s0 (sideCheck n a1 off bytes on s).2 := by
  unfold sideCheck
  try dsimp only
  repeat' first
    | with_reducible assumption
    | with_reducible apply stlCheckOp_upto
    | split

theorem descStart_upto {m : Nat} {s0 : State} {n : Nat} {s : State} (h : Upto m s0 s) (hm : Sub 0xd3c80080 m) :
    Upto m s0 (descStart n s) := by
  unfold descStart
  try dsimp only
  repeat' first
    | with_reducible assumption
    | ((with_reducible refine Sub.of hm ?_); rfl)
    | with_reducible apply chainEnd_upto
    | with_reducible apply claimPort_upto
    | with_reducible apply sideCheck_upto
    | with_reducible apply modPrt_upto
    | with_reducible apply Upto.ite
    | with_reducible refine Upto.snd (by assumption) ?_
    | split

theorem execDescriptorFetch_upto {m : Nat} {s0 : State} {channel : Fin 64} {s : State} (h : Upto m s0 s) (hm :
    Sub 0x28d7c80880 m) :
    OutUpto m s0 (execDescriptorFetch channel s) := by
  unfold execDescriptorFetch
  try dsimp only
  repeat' first
    | with_reducible assumption
    | ((with_reducible refine Sub.of hm ?_); rfl)
    | with_reducible apply prtBusError_upto
    | with_reducible apply busError_upto
    | with_reducible apply readWords_upto
    | with_reducible apply modPrt_upto
    | with_reducible apply chainEnd_upto
    | with_reducible apply descStart_upto
    | with_reducible apply OutUpto.next
    | with_reducible apply OutUpto.ite
    | with_reducible refine Upto.snd (by assumption) ?_
    | split

end Sys2Proof.Machine
end

