-- ==== Sys2Proof/Laws/UptoPatterns.lean ====
section
/-! SUPPORT. What each operation of Machine/Patterns.lean leaves unchanged (Laws/Upto.lean). -/

set_option linter.unusedTactic false
set_option linter.unreachableTactic false

namespace Sys2Proof.Machine

theorem plShow_upto {m : Nat} {s0 : State} {slot : Nat} {req : Nat} {result : Nat} {resource : Nat} {s : State}
    (h : Upto m s0 s) (hm : Sub 0x80481000 m) :
    Upto m s0 (plShow slot req result resource s) := by
  unfold plShow
  try dsimp only
  repeat' first
    | with_reducible assumption
    | ((with_reducible refine Sub.of hm ?_); rfl)
    | with_reducible apply setFld_upto
    | with_reducible apply raise_upto
    | fail_if_no_progress with_reducible refine Upto.pl_set ?_ (hm.bit rfl)

theorem loadDone_upto {m : Nat} {s0 : State} {slot : Nat} {req : Nat} {addr : Nat} {r : Option LoadFail} {s :
    State} (h : Upto m s0 s) (hm : Sub 0x2cd7c81880 m) :
    Upto m s0 (loadDone slot req addr r s) := by
  unfold loadDone
  try dsimp only
  repeat' first
    | with_reducible assumption
    | ((with_reducible refine Sub.of hm ?_); rfl)
    | with_reducible apply plShow_upto
    | with_reducible apply writeBytes_upto

theorem lsWrite_upto {m : Nat} {s0 : State} {n : Nat} {a1 : Nat} {a2 : List Native} {a3 : State} (h : Upto m s0
    a3) (hm : Sub 0x1000000000 m) :
    Upto m s0 (lsWrite n a1 a2 a3) := by
  induction a2 generalizing n a1 a3 with
  | nil =>
    unfold lsWrite
    try dsimp only
    repeat' first
      | with_reducible assumption
      | with_reducible apply lsPut_upto
  | cons e l ih =>
    unfold lsWrite
    try dsimp only
    repeat' first
      | with_reducible assumption
      | with_reducible apply ih
      | with_reducible apply lsPut_upto

theorem placeNeedle_upto {m : Nat} {s0 : State} {slot : Nat} {d : List Nat} {code : List Native} {micro : List
    Native} {rank : Nat} {n : Nat} {s : State} (h : Upto m s0 s) (hm : Sub 0x1080480080 m) :
    Upto m s0 (placeNeedle slot d code micro rank n s) := by
  unfold placeNeedle
  try dsimp only
  repeat' first
    | with_reducible assumption
    | ((with_reducible refine Sub.of hm ?_); rfl)
    | with_reducible apply lsWrite_upto
    | with_reducible apply setFld_upto
    | with_reducible apply setNdlSt_upto
    | with_reducible apply modNdl_upto

theorem placeDists_upto {m : Nat} {s0 : State} {slot : Nat} {d : List Nat} {s : State} (h : Upto m s0 s) (hm :
    Sub 0x80000200 m) :
    Upto m s0 (placeDists slot d s) := by
  unfold placeDists
  try dsimp only
  repeat' first
    | with_reducible assumption
    | intro _
    | ((with_reducible refine Sub.of hm ?_); rfl)
    | with_reducible apply setRword_upto
    | with_reducible apply modDist_upto
    | with_reducible apply Upto.forEach
    | with_reducible apply Upto.ite

theorem takeBuffers_upto {m : Nat} {s0 : State} {owner : Nat} {p : Nat} {a2 : Nat} {a3 : State} (h : Upto m s0
    a3) (hm : Sub 0xd3c84080 m) :
    Upto m s0 (takeBuffers owner p a2 a3).2 := by
  induction a2 generalizing owner p a3 with
  | zero =>
    unfold takeBuffers
    try dsimp only
    repeat' first
      | with_reducible assumption
      | ((with_reducible refine Sub.of hm ?_); rfl)
      | with_reducible apply stlAllocOp_upto
      | with_reducible apply stlFreeOp_upto
      | with_reducible refine Upto.snd (by assumption) ?_
      | split
  | succ n1 ih =>
    unfold takeBuffers
    try dsimp only
    repeat' first
      | with_reducible assumption
      | ((with_reducible refine Sub.of hm ?_); rfl)
      | with_reducible apply ih
      | with_reducible apply stlAllocOp_upto
      | with_reducible apply stlFreeOp_upto
      | with_reducible refine Upto.snd (by assumption) ?_
      | split

theorem takeRefs_upto {m : Nat} {s0 : State} {owner : Nat} {p : Nat} {slot : Nat} {k : Nat} {v : Nat} {n : Nat}
    {s : State} (h : Upto m s0 s) (hm : Sub 0xd3c84880 m) :
    Upto m s0 (takeRefs owner p slot k v n s).2 := by
  unfold takeRefs
  try dsimp only
  repeat' first
    | with_reducible assumption
    | ((with_reducible refine Sub.of hm ?_); rfl)
    | with_reducible apply takeBuffers_upto
    | with_reducible apply modEnc_upto
    | with_reducible refine Upto.snd (by assumption) ?_
    | split

theorem placeOutput_upto {m : Nat} {s0 : State} {slot : Nat} {d : List Nat} {k : Nat} {s : State} (h : Upto m s0
    s) (hm : Sub 0xd3c84880 m) :
    Upto m s0 (placeOutput slot d k s) := by
  unfold placeOutput
  try dsimp only
  repeat' first
    | with_reducible assumption
    | intro _
    | ((with_reducible refine Sub.of hm ?_); rfl)
    | with_reducible apply takeRefs_upto
    | with_reducible apply modGau_upto
    | with_reducible apply Upto.forEach
    | with_reducible apply Upto.ite

theorem placeInput_upto {m : Nat} {s0 : State} {slot : Nat} {d : List Nat} {i : Nat} {s : State} (h : Upto m s0
    s) (hm : Sub 0xf7c84880 m) :
    Upto m s0 (placeInput slot d i s) := by
  unfold placeInput
  try dsimp only
  repeat' first
    | with_reducible assumption
    | ((with_reducible refine Sub.of hm ?_); rfl)
    | with_reducible apply takeBuffers_upto
    | with_reducible apply modDec_upto
    | with_reducible apply modSth_upto
    | with_reducible apply sendMsg_upto
    | with_reducible apply Upto.ite
    | fail_if_no_progress with_reducible refine Upto.magIn_set ?_ (hm.bit rfl)
    | split

theorem placePattern_upto {m : Nat} {s0 : State} {slot : Nat} {d : List Nat} {code : List Native} {s : State} (h
    : Upto m s0 s) (hm : Sub 0x10f7c84a80 m) :
    Upto m s0 (placePattern slot d code s) := by
  unfold placePattern
  try dsimp only
  repeat' first
    | with_reducible assumption
    | intro _
    | ((with_reducible refine Sub.of hm ?_); rfl)
    | with_reducible apply modPat_upto
    | with_reducible apply placeNeedle_upto
    | with_reducible apply placeOutput_upto
    | with_reducible apply placeDists_upto
    | with_reducible apply placeInput_upto
    | with_reducible apply Upto.forEach

theorem readCode_upto {m : Nat} {s0 : State} {d : List Nat} {s : State} (h : Upto m s0 s) (hm : Sub 0x28d7c80880
    m) :
    Upto m s0 (readCode d s).2 := by
  unfold readCode
  try dsimp only
  repeat' first
    | with_reducible assumption
    | with_reducible apply readWords_upto
    | with_reducible refine Upto.snd (by assumption) ?_
    | split

theorem loadRest_upto {m : Nat} {s0 : State} {c : PlCmd} {s : State} (h : Upto m s0 s) (hm : Sub 0x3cf7c85a80 m)
    :
    Upto m s0 (loadRest c s) := by
  unfold loadRest
  try dsimp only
  repeat' first
    | with_reducible assumption
    | ((with_reducible refine Sub.of hm ?_); rfl)
    | with_reducible apply loadDone_upto
    | with_reducible apply readCode_upto
    | with_reducible apply placePattern_upto
    | with_reducible refine Upto.snd (by assumption) ?_
    | split

theorem placementFail_upto {m : Nat} {s0 : State} {c : PlCmd} {s : State} (h : Upto m s0 s) (hm : Sub
    0x2cd7c81880 m) :
    Upto m s0 (placementFail c s) := by
  unfold placementFail
  try dsimp only
  repeat' first
    | with_reducible assumption
    | with_reducible apply loadDone_upto

theorem loadPlaced_upto {m : Nat} {s0 : State} {c : PlCmd} {s : State} (h : Upto m s0 s) (hm : Sub 0x3cf7c85a80
    m) :
    Upto m s0 (loadPlaced c s) := by
  unfold loadPlaced
  try dsimp only
  repeat' first
    | with_reducible assumption
    | ((with_reducible refine Sub.of hm ?_); rfl)
    | with_reducible apply loadRest_upto
    | with_reducible apply placementFail_upto
    | with_reducible apply sendMsg_upto
    | with_reducible apply Upto.ite
    | fail_if_no_progress with_reducible refine Upto.pl_set ?_ (hm.bit rfl)

theorem loadChecks_upto {m : Nat} {s0 : State} {c : PlCmd} {s : State} (h : Upto m s0 s) (hm : Sub 0x3cf7c85a80
    m) :
    Upto m s0 (loadChecks c s) := by
  unfold loadChecks
  try dsimp only
  repeat' first
    | with_reducible assumption
    | ((with_reducible refine Sub.of hm ?_); rfl)
    | with_reducible apply loadDone_upto
    | with_reducible apply readCode_upto
    | with_reducible apply loadPlaced_upto
    | with_reducible apply Upto.ite
    | with_reducible refine Upto.snd (by assumption) ?_
    | split

theorem plLoad_upto {m : Nat} {s0 : State} {slot : Nat} {req : Nat} {addr : Nat} {avail : Nat} {s : State} (h :
    Upto m s0 s) (hm : Sub 0x3cf7c85a80 m) :
    Upto m s0 (plLoad slot req addr avail s) := by
  unfold plLoad
  try dsimp only
  repeat' first
    | with_reducible assumption
    | ((with_reducible refine Sub.of hm ?_); rfl)
    | with_reducible apply loadDone_upto
    | with_reducible apply plShow_upto
    | with_reducible apply readBytes_upto
    | with_reducible apply loadChecks_upto
    | with_reducible apply Upto.ite
    | fail_if_no_progress with_reducible refine Upto.pl_set ?_ (hm.bit rfl)
    | with_reducible refine Upto.snd (by assumption) ?_
    | split

theorem execPatternLoad_upto {m : Nat} {s0 : State} {req : Req} {slot : Fin 256} {addr : BitVec 48} {avail :
    BitVec 16} {s : State} (h : Upto m s0 s) (hm : Sub 0x3ff7c85a80 m) :
    OutUpto m s0 (execPatternLoad req slot addr avail s) := by
  unfold execPatternLoad
  try dsimp only
  repeat' first
    | with_reducible assumption
    | intro _
    | ((with_reducible refine Sub.of hm ?_); rfl)
    | with_reducible apply commitWords_upto
    | with_reducible apply plLoad_upto
    | with_reducible apply OutUpto.next

theorem execPlacementCheckAnswer_upto {m : Nat} {s0 : State} {link : Fin 8} {a1 : FlitHdr} {slot : Fin 256} {ok
    : Bool} {s : State} (h : Upto m s0 s) (hm : Sub 0x3cf7c85a80 m) :
    OutUpto m s0 (execPlacementCheckAnswer link a1 slot ok s) := by
  unfold execPlacementCheckAnswer
  try dsimp only
  repeat' first
    | with_reducible assumption
    | intro _
    | ((with_reducible refine Sub.of hm ?_); rfl)
    | with_reducible apply rxOwn_upto
    | with_reducible apply loadRest_upto
    | with_reducible apply placementFail_upto
    | with_reducible apply Upto.ite
    | with_reducible apply OutUpto.next
    | split

theorem execPlacementCheckTimeout_upto {m : Nat} {s0 : State} {s : State} (h : Upto m s0 s) (hm : Sub
    0x2cd7c81880 m) :
    OutUpto m s0 (execPlacementCheckTimeout s) := by
  unfold execPlacementCheckTimeout
  try dsimp only
  repeat' first
    | with_reducible assumption
    | with_reducible apply placementFail_upto
    | with_reducible apply OutUpto.next
    | with_reducible apply OutUpto.ite
    | split

theorem plUnload_upto {m : Nat} {s0 : State} {slot : Nat} {req : Nat} {s : State} (h : Upto m s0 s) (hm : Sub
    0x80481880 m) :
    Upto m s0 (plUnload slot req s) := by
  unfold plUnload
  try dsimp only
  repeat' first
    | with_reducible assumption
    | intro _
    | ((with_reducible refine Sub.of hm ?_); rfl)
    | with_reducible apply plShow_upto
    | with_reducible apply modPat_upto
    | with_reducible apply askHalt_upto
    | with_reducible apply askAbort_upto
    | with_reducible apply Upto.forEach
    | with_reducible apply Upto.ite
    | fail_if_no_progress with_reducible refine Upto.pl_set ?_ (hm.bit rfl)

theorem execPatternUnload_upto {m : Nat} {s0 : State} {req : Req} {slot : Fin 256} {s : State} (h : Upto m s0 s)
    (hm : Sub 0x380481880 m) :
    OutUpto m s0 (execPatternUnload req slot s) := by
  unfold execPatternUnload
  try dsimp only
  repeat' first
    | with_reducible assumption
    | intro _
    | ((with_reducible refine Sub.of hm ?_); rfl)
    | with_reducible apply commitWords_upto
    | with_reducible apply plUnload_upto
    | with_reducible apply OutUpto.next

theorem freeHandles_upto {m : Nat} {s0 : State} {owner : Nat} {l : List Nat} {s : State} (h : Upto m s0 s) (hm :
    Sub 0xd3c84080 m) :
    Upto m s0 (freeHandles owner l s) := by
  unfold freeHandles
  try dsimp only
  repeat' first
    | with_reducible assumption
    | intro _
    | with_reducible apply stlFreeOp_upto
    | with_reducible apply Upto.forEach

theorem writeSeeds_upto {m : Nat} {s0 : State} {slot : Nat} {s : State} (h : Upto m s0 s) (hm : Sub 0xd3c80080
    m) :
    Upto m s0 (writeSeeds slot s) := by
  unfold writeSeeds
  try dsimp only
  repeat' first
    | with_reducible assumption
    | intro _
    | with_reducible apply ldgPush_upto
    | with_reducible apply Upto.forEach
    | with_reducible apply Upto.ite

theorem releaseInputs_upto {m : Nat} {s0 : State} {slot : Nat} {d : List Nat} {s : State} (h : Upto m s0 s) (hm
    : Sub 0x24000000 m) :
    Upto m s0 (releaseInputs slot d s) := by
  unfold releaseInputs
  try dsimp only
  repeat' first
    | with_reducible assumption
    | intro _
    | ((with_reducible refine Sub.of hm ?_); rfl)
    | with_reducible apply modSth_upto
    | with_reducible apply sendMsg_upto
    | with_reducible apply Upto.forEach
    | with_reducible apply Upto.ite
    | fail_if_no_progress with_reducible refine Upto.magIn_set ?_ (hm.bit rfl)
    | split

theorem releasePlace_upto {m : Nat} {s0 : State} {slot : Nat} {d : List Nat} {s : State} (h : Upto m s0 s) (hm :
    Sub 0x80000280 m) :
    Upto m s0 (releasePlace slot d s) := by
  unfold releasePlace
  try dsimp only
  repeat' first
    | with_reducible assumption
    | intro _
    | ((with_reducible refine Sub.of hm ?_); rfl)
    | with_reducible apply modNdl_upto
    | with_reducible apply modDist_upto
    | with_reducible apply setRword_upto
    | with_reducible apply Upto.forEach
    | with_reducible apply Upto.ite

theorem isoRelease_upto {m : Nat} {s0 : State} {s : State} (h : Upto m s0 s) (hm : Sub 0x400000 m) :
    Upto m s0 (isoRelease s) := by
  unfold isoRelease
  try dsimp only
  repeat' first
    | with_reducible assumption
    | with_reducible apply addSwitching_upto
    | fail_if_no_progress with_reducible refine Upto.pwr_set ?_ (hm.bit rfl)

theorem unloadEnd_upto {m : Nat} {s0 : State} {slot : Nat} {s : State} (h : Upto m s0 s) (hm : Sub 0xf7c84a80 m)
    :
    Upto m s0 (unloadEnd slot s) := by
  unfold unloadEnd
  try dsimp only
  repeat' first
    | with_reducible assumption
    | ((with_reducible refine Sub.of hm ?_); rfl)
    | with_reducible apply freeHandles_upto
    | with_reducible apply writeSeeds_upto
    | with_reducible apply releasePlace_upto
    | with_reducible apply releaseInputs_upto
    | with_reducible apply isoRelease_upto
    | with_reducible apply modPat_upto

theorem execUnloadComplete_upto {m : Nat} {s0 : State} {slot : Fin 256} {s : State} (h : Upto m s0 s) (hm : Sub
    0xf7c85a80 m) :
    OutUpto m s0 (execUnloadComplete slot s) := by
  unfold execUnloadComplete
  try dsimp only
  repeat' first
    | with_reducible assumption
    | ((with_reducible refine Sub.of hm ?_); rfl)
    | with_reducible apply unloadEnd_upto
    | with_reducible apply plShow_upto
    | with_reducible apply OutUpto.next
    | with_reducible apply OutUpto.ite
    | split

end Sys2Proof.Machine
end

