-- ==== Sys2Proof/Laws/UptoPower.lean ====
section
/-! SUPPORT. What each operation of Machine/Power.lean leaves unchanged (Laws/Upto.lean). -/

set_option linter.unusedTactic false
set_option linter.unreachableTactic false

namespace Sys2Proof.Machine

theorem modPwr_upto {m : Nat} {s0 : State} {f : Pwr → Pwr} {s : State} (h : Upto m s0 s) (hm : Sub 0x400000 m) :
    Upto m s0 (modPwr f s) := by
  unfold modPwr
  try dsimp only
  repeat' first
    | with_reducible assumption
    | fail_if_no_progress with_reducible refine Upto.pwr_set ?_ (hm.bit rfl)

theorem domReqEffect_upto {m : Nat} {s0 : State} {old : State} {w : Nat} {v : List Nat} {s : State} (h : Upto m
    s0 s) (hm : Sub 0x400000 m) :
    Upto m s0 (domReqEffect old w v s) := by
  unfold domReqEffect
  try dsimp only
  repeat' first
    | with_reducible assumption
    | with_reducible apply addSwitching_upto
    | with_reducible apply Upto.ite

theorem execPwrDomreqCommit_upto {m : Nat} {s0 : State} {w : Fin 7} {a : Acc} {s : State} (h : Upto m s0 s) (hm
    : Sub 0x380400000 m) :
    OutUpto m s0 (execPwrDomreqCommit w a s) := by
  unfold execPwrDomreqCommit
  try dsimp only
  repeat' first
    | with_reducible assumption
    | intro _
    | ((with_reducible refine Sub.of hm ?_); rfl)
    | with_reducible apply regCommit_upto
    | with_reducible apply domReqEffect_upto
    | with_reducible apply OutUpto.next

theorem passMarks_upto {m : Nat} {s0 : State} {l : List (Nat × Bool)} {s : State} (h : Upto m s0 s) (hm : Sub 0x80480000 m) :
    Upto m s0 (passMarks l s) := by
  induction l generalizing s with
  | nil => exact h
  | cons e l ih =>
    unfold passMarks
    split
    · next e' => cases e'; exact ih (raise_upto (modPwr_upto h (hm.of rfl)) (hm.of rfl))
    · next e' => cases e'; exact ih (setFld_upto (modPwr_upto h (hm.of rfl)) (hm.of rfl))
    · exact h

theorem stepsGo_upto {m : Nat} {s0 : State} {s : State} (h : Upto m s0 s) (hm : Sub 0x80480000 m) :
    Upto m s0 (stepsGo s) := by
  unfold stepsGo
  try dsimp only
  repeat' first
    | with_reducible assumption
    | with_reducible apply passMarks_upto

theorem execDomainSwitchDone_upto {m : Nat} {s0 : State} {s : State} (h : Upto m s0 s) (hm : Sub 0x3bdfebc7be m)
    :
    OutUpto m s0 (execDomainSwitchDone s) := by
  unfold execDomainSwitchDone
  try dsimp only
  repeat' first
    | with_reducible assumption
    | ((with_reducible refine Sub.of hm ?_); rfl)
    | with_reducible apply modPwr_upto
    | with_reducible apply domDown_upto
    | with_reducible apply domStart_upto
    | with_reducible apply stepsGo_upto
    | with_reducible apply Upto.ite
    | with_reducible apply OutUpto.next
    | split

theorem execDomfail_upto {m : Nat} {s0 : State} {s : State} (h : Upto m s0 s) (hm : Sub 0xd3c80080 m) :
    OutUpto m s0 (execDomfail s) := by
  unfold execDomfail
  try dsimp only
  repeat' first
    | with_reducible assumption
    | intro _
    | ((with_reducible refine Sub.of hm ?_); rfl)
    | with_reducible apply modPwr_upto
    | with_reducible apply setDomReq_upto
    | with_reducible apply stepsGo_upto
    | with_reducible apply report_upto
    | with_reducible apply bump_upto
    | with_reducible apply Upto.forEach
    | with_reducible apply OutUpto.next
    | with_reducible apply OutUpto.ite
    | split

theorem execCoreWfiSleep_upto {m : Nat} {s0 : State} {core : Fin 8} {s : State} (h : Upto m s0 s) (hm : Sub
    0x400000 m) :
    OutUpto m s0 (execCoreWfiSleep core s) := by
  unfold execCoreWfiSleep
  try dsimp only
  repeat' first
    | with_reducible assumption
    | with_reducible apply addSwitching_upto
    | with_reducible apply Upto.ite
    | with_reducible apply OutUpto.next

theorem execWakeEvent_upto {m : Nat} {s0 : State} {stitch : Bool} {idx : Fin 8} {s : State} (h : Upto m s0 s)
    (hm : Sub 0x80480000 m) :
    OutUpto m s0 (execWakeEvent stitch idx s) := by
  unfold execWakeEvent
  try dsimp only
  repeat' first
    | with_reducible assumption
    | with_reducible apply wakeCore_upto
    | with_reducible apply mbxWake_upto
    | with_reducible apply Upto.ite
    | with_reducible apply OutUpto.next
    | with_reducible apply OutUpto.ite

theorem isoClear_upto {m : Nat} {s0 : State} {v : List Nat} {s : State} (h : Upto m s0 s) (hm : Sub 0x400000 m)
    :
    Upto m s0 (isoClear v s) := by
  unfold isoClear
  try dsimp only
  repeat' first
    | with_reducible assumption
    | with_reducible apply modPwr_upto

theorem execPwrIsoclr_upto {m : Nat} {s0 : State} {a : Acc} {s : State} (h : Upto m s0 s) (hm : Sub 0x380400000
    m) :
    OutUpto m s0 (execPwrIsoclr a s) := by
  unfold execPwrIsoclr
  try dsimp only
  repeat' first
    | with_reducible assumption
    | intro _
    | ((with_reducible refine Sub.of hm ?_); rfl)
    | with_reducible apply regCommit_upto
    | with_reducible apply isoClear_upto
    | with_reducible apply OutUpto.next

theorem cmdRefused_upto {m : Nat} {s0 : State} {r : Nat} {s : State} (h : Upto m s0 s) (hm : Sub 0x80000000 m) :
    Upto m s0 (cmdRefused r s) := by
  unfold cmdRefused
  try dsimp only
  repeat' first
    | with_reducible assumption
    | with_reducible apply setFld_upto

theorem cmdEnter_upto {m : Nat} {s0 : State} {go : State → State} {s : State} (h : Upto m s0 s) (hgo : ∀ x0,
    Upto m s0 x0 → Upto m s0 (go x0)) (hm : Sub 0x80400000 m) :
    Upto m s0 (cmdEnter go s) := by
  unfold cmdEnter
  try dsimp only
  repeat' first
    | with_reducible assumption
    | ((with_reducible refine Sub.of hm ?_); rfl)
    | with_reducible apply setFld_upto
    | with_reducible apply addSwitching_upto
    | with_reducible apply modPwr_upto
    | with_reducible apply hgo
    | with_reducible apply Upto.ite

theorem cmdStandby_upto {m : Nat} {s0 : State} {s : State} (h : Upto m s0 s) (hm : Sub 0xd3c80080 m) :
    Upto m s0 (cmdStandby s) := by
  unfold cmdStandby
  try dsimp only
  repeat' first
    | with_reducible assumption
    | intro _
    | ((with_reducible refine Sub.of hm ?_); rfl)
    | with_reducible apply cmdEnter_upto
    | with_reducible apply toStandby_upto
    | with_reducible apply setMode_upto
    | with_reducible apply cmdRefused_upto
    | with_reducible apply Upto.ite
    | split

theorem cmdArm_upto {m : Nat} {s0 : State} {s : State} (h : Upto m s0 s) (hm : Sub 0xd3c80080 m) :
    Upto m s0 (cmdArm s) := by
  unfold cmdArm
  try dsimp only
  repeat' first
    | with_reducible assumption
    | intro _
    | ((with_reducible refine Sub.of hm ?_); rfl)
    | with_reducible apply cmdEnter_upto
    | with_reducible apply setMode_upto
    | with_reducible apply cmdRefused_upto
    | with_reducible apply Upto.ite
    | split

theorem cmdRun_upto {m : Nat} {s0 : State} {s : State} (h : Upto m s0 s) (hm : Sub 0xd3c80080 m) :
    Upto m s0 (cmdRun s) := by
  unfold cmdRun
  try dsimp only
  repeat' first
    | with_reducible assumption
    | intro _
    | ((with_reducible refine Sub.of hm ?_); rfl)
    | with_reducible apply cmdEnter_upto
    | with_reducible apply setMode_upto
    | with_reducible apply cmdRefused_upto
    | split

theorem cmdResume_upto {m : Nat} {s0 : State} {s : State} (h : Upto m s0 s) (hm : Sub 0xd3c80080 m) :
    Upto m s0 (cmdResume s) := by
  unfold cmdResume
  try dsimp only
  repeat' first
    | with_reducible assumption
    | intro _
    | ((with_reducible refine Sub.of hm ?_); rfl)
    | with_reducible apply cmdRefused_upto
    | with_reducible apply cmdEnter_upto
    | with_reducible apply setMode_upto
    | with_reducible apply Upto.ite
    | split

theorem cmdService_upto {m : Nat} {s0 : State} {s : State} (h : Upto m s0 s) (hm : Sub 0xd3c80080 m) :
    Upto m s0 (cmdService s) := by
  unfold cmdService
  try dsimp only
  repeat' first
    | with_reducible assumption
    | intro _
    | ((with_reducible refine Sub.of hm ?_); rfl)
    | with_reducible apply cmdEnter_upto
    | with_reducible apply setMode_upto
    | with_reducible apply cmdRefused_upto
    | with_reducible apply Upto.ite
    | split

theorem cmdUpdate_upto {m : Nat} {s0 : State} {s : State} (h : Upto m s0 s) (hm : Sub 0xd3c80080 m) :
    Upto m s0 (cmdUpdate s) := by
  unfold cmdUpdate
  try dsimp only
  repeat' first
    | with_reducible assumption
    | intro _
    | ((with_reducible refine Sub.of hm ?_); rfl)
    | with_reducible apply cmdEnter_upto
    | with_reducible apply setMode_upto
    | with_reducible apply cmdRefused_upto
    | split

theorem unloadAll_upto {m : Nat} {s0 : State} {s : State} (h : Upto m s0 s) (hm : Sub 0x80480880 m) :
    Upto m s0 (unloadAll s) := by
  unfold unloadAll
  try dsimp only
  repeat' first
    | with_reducible assumption
    | intro _
    | ((with_reducible refine Sub.of hm ?_); rfl)
    | with_reducible apply modPat_upto
    | with_reducible apply askHalt_upto
    | with_reducible apply askAbort_upto
    | with_reducible apply Upto.forEach

theorem cmdBindoff_upto {m : Nat} {s0 : State} {stay : Bool} {s : State} (h : Upto m s0 s) (hm : Sub 0xd3c80880
    m) :
    Upto m s0 (cmdBindoff stay s) := by
  unfold cmdBindoff
  try dsimp only
  repeat' first
    | with_reducible assumption
    | ((with_reducible refine Sub.of hm ?_); rfl)
    | with_reducible apply setMode_upto
    | with_reducible apply unloadAll_upto
    | with_reducible apply modPwr_upto
    | with_reducible apply cmdRefused_upto
    | with_reducible apply Upto.ite

theorem modeCommand_upto {m : Nat} {s0 : State} {v : List Nat} {s : State} (h : Upto m s0 s) (hm : Sub
    0xd3c80880 m) :
    Upto m s0 (modeCommand v s) := by
  unfold modeCommand
  try dsimp only
  repeat' first
    | with_reducible assumption
    | ((with_reducible refine Sub.of hm ?_); rfl)
    | with_reducible apply cmdStandby_upto
    | with_reducible apply cmdArm_upto
    | with_reducible apply cmdRun_upto
    | with_reducible apply cmdResume_upto
    | with_reducible apply cmdService_upto
    | with_reducible apply cmdUpdate_upto
    | with_reducible apply cmdBindoff_upto
    | split

theorem modeWrite_upto {m : Nat} {s0 : State} {req : Req} {word : Nat} {s : State} (h : Upto m s0 s) (hm : Sub
    0x3d3c80880 m) :
    Upto m s0 (modeWrite req word s) := by
  unfold modeWrite
  try dsimp only
  repeat' first
    | with_reducible assumption
    | intro _
    | ((with_reducible refine Sub.of hm ?_); rfl)
    | with_reducible apply commitWords_upto
    | with_reducible apply modeCommand_upto

theorem execModeStandby_upto {m : Nat} {s0 : State} {req : Req} {s : State} (h : Upto m s0 s) (hm : Sub
    0x3d3c80880 m) :
    OutUpto m s0 (execModeStandby req s) := by
  unfold execModeStandby
  try dsimp only
  repeat' first
    | with_reducible assumption
    | with_reducible apply modeWrite_upto
    | with_reducible apply OutUpto.next

theorem execModeArm_upto {m : Nat} {s0 : State} {req : Req} {s : State} (h : Upto m s0 s) (hm : Sub 0x3d3c80880
    m) :
    OutUpto m s0 (execModeArm req s) := by
  unfold execModeArm
  try dsimp only
  repeat' first
    | with_reducible assumption
    | with_reducible apply modeWrite_upto
    | with_reducible apply OutUpto.next

theorem execModeRun_upto {m : Nat} {s0 : State} {req : Req} {s : State} (h : Upto m s0 s) (hm : Sub 0x3d3c80880
    m) :
    OutUpto m s0 (execModeRun req s) := by
  unfold execModeRun
  try dsimp only
  repeat' first
    | with_reducible assumption
    | with_reducible apply modeWrite_upto
    | with_reducible apply OutUpto.next

theorem execModeResume_upto {m : Nat} {s0 : State} {req : Req} {s : State} (h : Upto m s0 s) (hm : Sub
    0x3d3c80880 m) :
    OutUpto m s0 (execModeResume req s) := by
  unfold execModeResume
  try dsimp only
  repeat' first
    | with_reducible assumption
    | with_reducible apply modeWrite_upto
    | with_reducible apply OutUpto.next

theorem execModeService_upto {m : Nat} {s0 : State} {req : Req} {s : State} (h : Upto m s0 s) (hm : Sub
    0x3d3c80880 m) :
    OutUpto m s0 (execModeService req s) := by
  unfold execModeService
  try dsimp only
  repeat' first
    | with_reducible assumption
    | with_reducible apply modeWrite_upto
    | with_reducible apply OutUpto.next

theorem execModeUpdate_upto {m : Nat} {s0 : State} {req : Req} {s : State} (h : Upto m s0 s) (hm : Sub
    0x3d3c80880 m) :
    OutUpto m s0 (execModeUpdate req s) := by
  unfold execModeUpdate
  try dsimp only
  repeat' first
    | with_reducible assumption
    | with_reducible apply modeWrite_upto
    | with_reducible apply OutUpto.next

theorem execModeBindoff_upto {m : Nat} {s0 : State} {req : Req} {stay : Bool} {s : State} (h : Upto m s0 s) (hm
    : Sub 0x3d3c80880 m) :
    OutUpto m s0 (execModeBindoff req stay s) := by
  unfold execModeBindoff
  try dsimp only
  repeat' first
    | with_reducible assumption
    | with_reducible apply modeWrite_upto
    | with_reducible apply OutUpto.next

theorem bindStep4_upto {m : Nat} {s0 : State} {s : State} (h : Upto m s0 s) (hm : Sub 0xd3c80081 m) :
    Upto m s0 (bindStep4 s) := by
  unfold bindStep4
  try dsimp only
  repeat' first
    | with_reducible assumption
    | intro _
    | ((with_reducible refine Sub.of hm ?_); rfl)
    | with_reducible apply writeSeeds_upto
    | with_reducible apply snapDue_upto
    | with_reducible apply takeFree_upto
    | with_reducible apply ldgPush_upto
    | with_reducible apply modPwr_upto
    | with_reducible apply Upto.forEach

theorem bindEnd_upto {m : Nat} {s0 : State} {s : State} (h : Upto m s0 s) (hm : Sub 0x3ffffffffe m) :
    Upto m s0 (bindEnd s) := by
  unfold bindEnd
  try dsimp only
  repeat' first
    | with_reducible assumption
    | ((with_reducible refine Sub.of hm ?_); rfl)
    | with_reducible apply setMode_upto
    | with_reducible apply modPwr_upto
    | with_reducible apply powerOff_upto
    | with_reducible apply Upto.ite

theorem bindEngine_upto {m : Nat} {s0 : State} {s : State} (h : Upto m s0 s) (hm : Sub 0x3fffffffff m) :
    Upto m s0 (bindEngine s) := by
  unfold bindEngine
  try dsimp only
  repeat' first
    | with_reducible assumption
    | intro _
    | ((with_reducible refine Sub.of hm ?_); rfl)
    | with_reducible apply closeTake_upto
    | with_reducible apply modPwr_upto
    | with_reducible apply bindStep4_upto
    | with_reducible apply bindEnd_upto
    | with_reducible apply Upto.forEach
    | with_reducible apply Upto.ite
    | split

theorem execBindoffTimeout_upto {m : Nat} {s0 : State} {s : State} (h : Upto m s0 s) (hm : Sub 0xd3c80081 m) :
    OutUpto m s0 (execBindoffTimeout s) := by
  unfold execBindoffTimeout
  try dsimp only
  repeat' first
    | with_reducible assumption
    | with_reducible apply bindStep4_upto
    | with_reducible apply Upto.ite
    | with_reducible apply OutUpto.next

theorem pfwStops_upto {m : Nat} {s0 : State} {s : State} (h : Upto m s0 s) (hm : Sub 0x90480080 m) :
    Upto m s0 (pfwStops s) := by
  unfold pfwStops
  try dsimp only
  repeat' first
    | with_reducible assumption
    | ((with_reducible refine Sub.of hm ?_); rfl)
    | with_reducible apply magPowerFail_upto
    | with_reducible apply frozenNeedles_upto
    | with_reducible apply raise_upto

theorem execPfwN_upto {m : Nat} {s0 : State} {s : State} (h : Upto m s0 s) (hm : Sub 0xd3c80080 m) :
    OutUpto m s0 (execPfwN s) := by
  unfold execPfwN
  try dsimp only
  repeat' first
    | with_reducible assumption
    | ((with_reducible refine Sub.of hm ?_); rfl)
    | with_reducible apply tally_upto
    | with_reducible apply modPwr_upto
    | with_reducible apply setMode_upto
    | with_reducible apply pfwStops_upto
    | with_reducible apply OutUpto.next
    | with_reducible apply OutUpto.ite
    | split

theorem execPfwMagazineClose_upto {m : Nat} {s0 : State} {s : State} (h : Upto m s0 s) (hm : Sub 0x12400000 m) :
    OutUpto m s0 (execPfwMagazineClose s) := by
  unfold execPfwMagazineClose
  try dsimp only
  repeat' first
    | with_reducible assumption
    | intro _
    | ((with_reducible refine Sub.of hm ?_); rfl)
    | with_reducible apply magPfwClose_upto
    | with_reducible apply snapStart_upto
    | with_reducible apply modPwr_upto
    | with_reducible apply Upto.forEach
    | with_reducible apply Upto.ite
    | with_reducible apply OutUpto.next

theorem pfwBegin_upto {m : Nat} {s0 : State} {s : State} (h : Upto m s0 s) (hm : Sub 0x3c00000 m) :
    Upto m s0 (pfwBegin s) := by
  unfold pfwBegin
  try dsimp only
  repeat' first
    | ((with_reducible refine Sub.of hm ?_); rfl)
    | with_reducible apply snapStart_upto
    | with_reducible apply modPwr_upto
    | with_reducible apply Upto.ite
    | fail_if_no_progress (apply Upto.lit <;> first | with_reducible rfl | assumption | exact .inl (hm.bit rfl) | exact .inr rfl | exact .inr ⟨rfl, rfl, rfl, rfl, rfl, rfl, rfl, rfl, rfl⟩ | show Upto _ _ _)

theorem execPfwCommit_upto {m : Nat} {s0 : State} {s : State} (h : Upto m s0 s) (hm : Sub 0x3ffffffffe m) :
    OutUpto m s0 (execPfwCommit s) := by
  unfold execPfwCommit
  try dsimp only
  repeat' first
    | with_reducible assumption
    | ((with_reducible refine Sub.of hm ?_); rfl)
    | with_reducible apply pfwBegin_upto
    | with_reducible apply modPwr_upto
    | with_reducible apply bindEnd_upto
    | with_reducible apply Upto.ite
    | with_reducible apply OutUpto.next
    | with_reducible apply OutUpto.ite

theorem execPwrgdFall_upto {m : Nat} {s0 : State} {s : State} (h : Upto m s0 s) (hm : Sub 0x3ffffffffe m) :
    OutUpto m s0 (execPwrgdFall s) := by
  unfold execPwrgdFall
  try dsimp only
  repeat' first
    | with_reducible assumption
    | ((with_reducible refine Sub.of hm ?_); rfl)
    | with_reducible apply modPwr_upto
    | with_reducible apply powerOff_upto
    | with_reducible apply OutUpto.next
    | split

theorem execVawnUp_upto {m : Nat} {s0 : State} {s : State} (h : Upto m s0 s) (hm : Sub 0x381480000 m) :
    OutUpto m s0 (execVawnUp s) := by
  unfold execVawnUp
  with_reducible refine OutUpto.ite (OutUpto.next h) (OutUpto.next ?_)
  refine h.trans ?_
  constructor
  case regs => intro k; exact absurd ((hm.bit rfl).symm.trans k) (by decide)
  case keys => intro k; exact absurd ((hm.bit rfl).symm.trans k) (by decide)
  case fabric => intro k; exact absurd ((hm.bit rfl).symm.trans k) (by decide)
  case ict => intro k; exact absurd ((hm.bit rfl).symm.trans k) (by decide)
  case ldg => intro k; exact absurd ((hm.bit rfl).symm.trans k) (by decide)
  case pwr => intro k; exact absurd ((hm.bit rfl).symm.trans k) (by decide)
  case keysOk => exact fun _ => rfl
  case wf => exact id
  case skm => exact fun _ => ⟨rfl, rfl⟩
  case ls => exact fun _ => ⟨rfl, rfl⟩
  case rld => exact fun _ => ⟨rfl, rfl, rfl, rfl, rfl⟩
  all_goals first | rfl | exact fun _ => rfl

theorem execVawnDown_upto {m : Nat} {s0 : State} {s : State} (h : Upto m s0 s) (hm : Sub 0x3ffffffffe m) :
    OutUpto m s0 (execVawnDown s) := by
  unfold execVawnDown
  try dsimp only
  repeat' first
    | with_reducible assumption
    | ((with_reducible refine Sub.of hm ?_); rfl)
    | with_reducible apply modPwr_upto
    | with_reducible apply baseReset_upto
    | with_reducible apply OutUpto.next
    | with_reducible apply OutUpto.ite

theorem pwrTick_upto {m : Nat} {s0 : State} {s : State} (h : Upto m s0 s) (hm : Sub 0x3fffffffff m) :
    Upto m s0 (pwrTick s) := by
  unfold pwrTick
  try dsimp only
  repeat' first
    | with_reducible assumption
    | ((with_reducible refine Sub.of hm ?_); rfl)
    | with_reducible apply modPwr_upto
    | with_reducible apply bindEngine_upto
    | with_reducible apply Upto.ite

theorem execAwningStart_upto {m : Nat} {s0 : State} {straps : Word} {s : State} (h : Upto m s0 s) (hm : Sub
    0x3ffffffffe m) :
    OutUpto m s0 (execAwningStart straps s) := by
  unfold execAwningStart
  try dsimp only
  repeat' first
    | with_reducible assumption
    | with_reducible apply enterCastOn_upto
    | with_reducible apply Upto.ite
    | with_reducible apply OutUpto.next
    | split

theorem execResetN_upto {m : Nat} {s0 : State} {low : Bool} {straps : Word} {s : State} (h : Upto m s0 s) (hm :
    Sub 0x3ffffffffe m) :
    OutUpto m s0 (execResetN low straps s) := by
  unfold execResetN
  try dsimp only
  repeat' first
    | with_reducible assumption
    | ((with_reducible refine Sub.of hm ?_); rfl)
    | with_reducible apply modPwr_upto
    | with_reducible apply baseReset_upto
    | with_reducible apply enterCastOn_upto
    | with_reducible apply Upto.ite
    | with_reducible apply OutUpto.next
    | with_reducible apply OutUpto.ite

theorem execPwrReset_upto {m : Nat} {s0 : State} {a : Acc} {straps : Word} {s : State} (h : Upto m s0 s) (hm :
    Sub 0x3ffffffffe m) :
    OutUpto m s0 (execPwrReset a straps s) := by
  unfold execPwrReset
  try dsimp only
  repeat' first
    | with_reducible assumption
    | intro _
    | ((with_reducible refine Sub.of hm ?_); rfl)
    | with_reducible apply regCommit_upto
    | with_reducible apply enterCastOn_upto
    | with_reducible apply OutUpto.next

theorem execRemoteReset_upto {m : Nat} {s0 : State} {link : Fin 8} {a1 : FlitHdr} {straps : Word} {s : State} (h
    : Upto m s0 s) (hm : Sub 0x3ffffffffe m) :
    OutUpto m s0 (execRemoteReset link a1 straps s) := by
  unfold execRemoteReset
  try dsimp only
  repeat' first
    | with_reducible assumption
    | intro _
    | ((with_reducible refine Sub.of hm ?_); rfl)
    | with_reducible apply rxOwn_upto
    | with_reducible apply enterCastOn_upto
    | with_reducible apply Upto.ite
    | with_reducible apply OutUpto.next

end Sys2Proof.Machine
end

