-- ==== Sys2Proof/Laws/UptoFaults.lean ====
section
/-! SUPPORT. What each operation of Machine/Faults.lean leaves unchanged (Laws/Upto.lean). -/

set_option linter.unusedTactic false
set_option linter.unreachableTactic false

namespace Sys2Proof.Machine

theorem setLevel_upto {m : Nat} {s0 : State} {src : Nat} {cause : Nat} {b : Bool} {s : State} (h : Upto m s0 s)
    (hm : Sub 0x800000 m) :
    Upto m s0 (setLevel src cause b s) := by
  unfold setLevel
  try dsimp only
  repeat' first
    | with_reducible assumption
    | fail_if_no_progress with_reducible refine Upto.fcl_set ?_ (hm.bit rfl)

theorem levelNow_upto {m : Nat} {s0 : State} {src : Nat} {cause : Nat} {b : Bool} {detail : Nat} {s : State} (h
    : Upto m s0 s) (hm : Sub 0xd3c80080 m) :
    Upto m s0 (levelNow src cause b detail s) := by
  unfold levelNow
  try dsimp only
  repeat' first
    | with_reducible assumption
    | ((with_reducible refine Sub.of hm ?_); rfl)
    | with_reducible apply setLevel_upto
    | with_reducible apply report_upto
    | with_reducible apply Upto.ite

theorem execFclReport_upto {m : Nat} {s0 : State} {src : Fin 31} {rise : Bool} {sub : Byte} {detail : Word} {req
    : Req} {s : State} (h : Upto m s0 s) (hm : Sub 0xd3c80080 m) :
    OutUpto m s0 (execFclReport src rise sub detail req s) := by
  unfold execFclReport
  try dsimp only
  repeat' first
    | with_reducible assumption
    | with_reducible apply levelNow_upto
    | with_reducible apply report_upto
    | with_reducible apply Upto.ite
    | with_reducible apply OutUpto.next
    | with_reducible apply OutUpto.ite

theorem fclClear_upto {m : Nat} {s0 : State} {v : List Nat} {s : State} (h : Upto m s0 s) (hm : Sub 0x80000000
    m) :
    Upto m s0 (fclClear v s) := by
  unfold fclClear
  try dsimp only
  repeat' first
    | with_reducible assumption
    | intro _
    | with_reducible apply setLatched_upto
    | with_reducible apply Upto.forEach

theorem execFclClr_upto {m : Nat} {s0 : State} {req : Req} {mask : Word} {word : BitVec 3} {s : State} (h : Upto
    m s0 s) (hm : Sub 0x380000000 m) :
    OutUpto m s0 (execFclClr req mask word s) := by
  unfold execFclClr
  try dsimp only
  repeat' first
    | with_reducible assumption
    | intro _
    | ((with_reducible refine Sub.of hm ?_); rfl)
    | with_reducible apply commitWords_upto
    | with_reducible apply fclClear_upto
    | with_reducible apply OutUpto.next

theorem fclSevEffect_upto {m : Nat} {s0 : State} {old : State} {w : Nat} {s : State} (h : Upto m s0 s) (hm : Sub
    0xd3c80080 m) :
    Upto m s0 (fclSevEffect old w s) := by
  unfold fclSevEffect
  try dsimp only
  repeat' first
    | with_reducible assumption
    | intro _
    | ((with_reducible refine Sub.of hm ?_); rfl)
    | with_reducible apply severityAct_upto
    | with_reducible apply ldgFull_upto
    | with_reducible apply Upto.forEach
    | with_reducible apply Upto.ite

theorem execFclSevWrite_upto {m : Nat} {s0 : State} {w : Fin 16} {a : Acc} {s : State} (h : Upto m s0 s) (hm :
    Sub 0x3d3c80080 m) :
    OutUpto m s0 (execFclSevWrite w a s) := by
  unfold execFclSevWrite
  try dsimp only
  repeat' first
    | with_reducible assumption
    | intro _
    | ((with_reducible refine Sub.of hm ?_); rfl)
    | with_reducible apply regCommit_upto
    | with_reducible apply fclSevEffect_upto
    | with_reducible apply OutUpto.next

theorem execThermalRefresh_upto {m : Nat} {s0 : State} {tj : Int} {awn : Int} {s : State} (h : Upto m s0 s) (hm
    : Sub 0xd3c80080 m) :
    OutUpto m s0 (execThermalRefresh tj awn s) := by
  unfold execThermalRefresh
  try dsimp only
  repeat' first
    | with_reducible assumption
    | ((with_reducible refine Sub.of hm ?_); rfl)
    | with_reducible apply modPwr_upto
    | with_reducible apply setFld_upto
    | with_reducible apply levelNow_upto
    | with_reducible apply OutUpto.next
    | with_reducible apply OutUpto.ite

end Sys2Proof.Machine
end

