-- ==== Sys2Proof/Laws/UptoGauge.lean ====
section
/-! SUPPORT. What each operation of Machine/Gauge.lean leaves unchanged (Laws/Upto.lean). -/

set_option linter.unusedTactic false
set_option linter.unreachableTactic false

namespace Sys2Proof.Machine

theorem grantWord_upto {m : Nat} {s0 : State} {d : List Nat} {w : Nat} {v : Nat} {tag : Nat} {s : State} (h :
    Upto m s0 s) (hm : Sub 0x800000000 m) :
    Upto m s0 (grantWord d w v tag s) := by
  unfold grantWord
  try dsimp only
  repeat' first
    | with_reducible assumption
    | intro _
    | with_reducible apply skmPut_upto
    | with_reducible apply Upto.forEach

theorem grantStripes_upto {m : Nat} {s0 : State} {d : List Nat} {k : Nat} {x : Floors} {g : Gau} {v : Nat} {r :
    Nat} {second : Bool} {s : State} (h : Upto m s0 s) (hm : Sub 0x800000000 m) :
    Upto m s0 (grantStripes d k x g v r second s) := by
  unfold grantStripes
  try dsimp only
  repeat' first
    | with_reducible assumption
    | intro _
    | with_reducible apply grantWord_upto
    | with_reducible apply Upto.forEach

theorem notice_upto {m : Nat} {s0 : State} {n : Nat} {k : Nat} {v : Nat} {kind : Nat} {r : Nat} {s : State} (h :
    Upto m s0 s) (hm : Sub 0x800000880 m) :
    Upto m s0 (notice n k v kind r s) := by
  unfold notice
  try dsimp only
  repeat' first
    | with_reducible assumption
    | intro _
    | ((with_reducible refine Sub.of hm ?_); rfl)
    | with_reducible apply modGau_upto
    | with_reducible apply grantWord_upto
    | with_reducible apply ndlIrq_upto
    | with_reducible apply Upto.forEach

theorem reserveRow_upto {m : Nat} {s0 : State} {n : Nat} {k : Nat} {v : Nat} {r : Nat} {pl : PicPlan} {s :
    State} (h : Upto m s0 s) (hm : Sub 0x800000880 m) :
    Upto m s0 (reserveRow n k v r pl s) := by
  unfold reserveRow
  try dsimp only
  repeat' first
    | with_reducible assumption
    | ((with_reducible refine Sub.of hm ?_); rfl)
    | with_reducible apply modGau_upto
    | with_reducible apply modEnc_upto
    | with_reducible apply notice_upto
    | with_reducible apply grantStripes_upto

theorem altEntries_upto {m : Nat} {s0 : State} {n : Nat} {k : Nat} {s : State} (h : Upto m s0 s) (hm : Sub
    0xd7c84880 m) :
    Upto m s0 (altEntries n k s) := by
  unfold altEntries
  try dsimp only
  repeat' first
    | with_reducible assumption
    | intro _
    | ((with_reducible refine Sub.of hm ?_); rfl)
    | with_reducible apply freeHandles_upto
    | with_reducible apply modEnc_upto
    | with_reducible apply takeRefs_upto
    | with_reducible apply modPat_upto
    | with_reducible apply lossNotice_upto
    | with_reducible apply Upto.foldl_snd
    | with_reducible apply Upto.ite
    | split

theorem startPicture_upto {m : Nat} {s0 : State} {n : Nat} {k : Nat} {first : Bool} {pl : PicPlan} {s : State}
    (h : Upto m s0 s) (hm : Sub 0x880484880 m) :
    Upto m s0 (startPicture n k first pl s) := by
  unfold startPicture
  try dsimp only
  repeat' first
    | with_reducible assumption
    | intro _
    | ((with_reducible refine Sub.of hm ?_); rfl)
    | with_reducible apply stlAllocOp_upto
    | with_reducible apply modEnc_upto
    | with_reducible apply modGau_upto
    | with_reducible apply reserveRow_upto
    | with_reducible apply Upto.forEach
    | with_reducible refine Upto.snd (by assumption) ?_
    | split

theorem stageAsk_upto {m : Nat} {s0 : State} {n : Nat} {k : Nat} {s : State} (h : Upto m s0 s) (hm : Sub
    0x4000800 m) :
    Upto m s0 (stageAsk n k s) := by
  unfold stageAsk
  try dsimp only
  repeat' first
    | with_reducible assumption
    | ((with_reducible refine Sub.of hm ?_); rfl)
    | with_reducible apply stageKeyAsk_upto
    | with_reducible apply modEnc_upto
    | with_reducible apply Upto.ite

theorem followNext_upto {m : Nat} {s0 : State} {n : Nat} {k : Nat} {s : State} (h : Upto m s0 s) (hm : Sub
    0x8d7c84880 m) :
    Upto m s0 (followNext n k s) := by
  unfold followNext
  try dsimp only
  repeat' first
    | with_reducible assumption
    | ((with_reducible refine Sub.of hm ?_); rfl)
    | with_reducible apply altEntries_upto
    | with_reducible apply startPicture_upto
    | with_reducible apply modEnc_upto
    | with_reducible apply Upto.ite
    | split

theorem leadNext_upto {m : Nat} {s0 : State} {n : Nat} {k : Nat} {s : State} (h : Upto m s0 s) (hm : Sub
    0x8d7c84880 m) :
    Upto m s0 (leadNext n k s) := by
  unfold leadNext
  try dsimp only
  repeat' first
    | with_reducible assumption
    | intro _
    | ((with_reducible refine Sub.of hm ?_); rfl)
    | with_reducible apply stageAsk_upto
    | with_reducible apply altEntries_upto
    | with_reducible apply startPicture_upto
    | with_reducible apply modEnc_upto
    | with_reducible apply followNext_upto
    | with_reducible apply Upto.forEach
    | with_reducible apply Upto.ite

theorem nextPicture_upto {m : Nat} {s0 : State} {n : Nat} {k : Nat} {s : State} (h : Upto m s0 s) (hm : Sub
    0x8d7c84880 m) :
    Upto m s0 (nextPicture n k s) := by
  unfold nextPicture
  try dsimp only
  repeat' first
    | with_reducible assumption
    | with_reducible apply followNext_upto
    | with_reducible apply leadNext_upto
    | with_reducible apply Upto.ite

theorem gaugeStart_upto {m : Nat} {s0 : State} {n : Nat} {s : State} (h : Upto m s0 s) (hm : Sub 0x8d7c84880 m)
    :
    Upto m s0 (gaugeStart n s) := by
  unfold gaugeStart
  try dsimp only
  repeat' first
    | with_reducible assumption
    | intro _
    | ((with_reducible refine Sub.of hm ?_); rfl)
    | with_reducible apply modGau_upto
    | with_reducible apply nextPicture_upto
    | with_reducible apply Upto.forEach

theorem stitchUnits_upto {m : Nat} {s0 : State} {stream : Nat} {ts : Nat} {note : Option (List Nat)} {last :
    Bool} {a4 : List (List Nat)} {a5 : State} (h : Upto m s0 a5) (hm : Sub 0x4040000 m) :
    Upto m s0 (stitchUnits stream ts note last a4 a5) := by
  induction a4 generalizing stream ts note last a5 with
  | nil =>
    unfold stitchUnits
    try dsimp only
    repeat' first
      | with_reducible assumption
      | with_reducible apply streamSend_upto
  | cons e l ih =>
    unfold stitchUnits
    try dsimp only
    repeat' first
      | with_reducible assumption
      | with_reducible apply ih
      | with_reducible apply streamSend_upto

theorem passUnits_upto {m : Nat} {s0 : State} {n : Nat} {k : Nat} {note : Option (List Nat)} {frame : Nat}
    {slice : Nat} {last : Bool} {units : List (List Nat)} {s : State} (h : Upto m s0 s) (hm : Sub 0xd7ccc880 m) :
    Upto m s0 (passUnits n k note frame slice last units s) := by
  unfold passUnits
  try dsimp only
  repeat' first
    | with_reducible assumption
    | ((with_reducible refine Sub.of hm ?_); rfl)
    | with_reducible apply egressLines_upto
    | with_reducible apply egressUnits_upto
    | with_reducible apply stitchUnits_upto
    | with_reducible apply Upto.ite

theorem passView_upto {m : Nat} {s0 : State} {n : Nat} {k : Nat} {v : Nat} {p : EncPic} {last : Bool} {s :
    State} (h : Upto m s0 s) (hm : Sub 0xd7ccc880 m) :
    Upto m s0 (passView n k v p last s) := by
  unfold passView
  try dsimp only
  repeat' first
    | with_reducible assumption
    | ((with_reducible refine Sub.of hm ?_); rfl)
    | with_reducible apply passUnits_upto
    | with_reducible apply passToMagazine_upto
    | with_reducible apply Upto.ite

theorem hrdCheck_upto {m : Nat} {s0 : State} {n : Nat} {k : Nat} {s : State} (h : Upto m s0 s) (hm : Sub
    0xd3c80080 m) :
    Upto m s0 (hrdCheck n k s) := by
  unfold hrdCheck
  try dsimp only
  repeat' first
    | with_reducible assumption
    | ((with_reducible refine Sub.of hm ?_); rfl)
    | with_reducible apply bump_upto
    | with_reducible apply report_upto
    | with_reducible apply Upto.ite

theorem sceneCheck_upto {m : Nat} {s0 : State} {n : Nat} {k : Nat} {p : EncPic} {s : State} (h : Upto m s0 s)
    (hm : Sub 0x4000800 m) :
    Upto m s0 (sceneCheck n k p s) := by
  unfold sceneCheck
  try dsimp only
  repeat' first
    | with_reducible assumption
    | ((with_reducible refine Sub.of hm ?_); rfl)
    | with_reducible apply modEnc_upto
    | with_reducible apply stageKeyAsk_upto
    | with_reducible apply Upto.ite

theorem dropPicture_upto {m : Nat} {s0 : State} {n : Nat} {k : Nat} {redo : Bool} {s : State} (h : Upto m s0 s)
    (hm : Sub 0x80480800 m) :
    Upto m s0 (dropPicture n k redo s) := by
  unfold dropPicture
  try dsimp only
  repeat' first
    | with_reducible assumption
    | ((with_reducible refine Sub.of hm ?_); rfl)
    | with_reducible apply raise_upto
    | with_reducible apply modEnc_upto

theorem endPicture_upto {m : Nat} {s0 : State} {n : Nat} {k : Nat} {whole : Bool} {s : State} (h : Upto m s0 s)
    (hm : Sub 0x8d7ccc880 m) :
    Upto m s0 (endPicture n k whole s) := by
  unfold endPicture
  try dsimp only
  repeat' first
    | with_reducible assumption
    | intro _
    | ((with_reducible refine Sub.of hm ?_); rfl)
    | with_reducible apply hrdCheck_upto
    | with_reducible apply modGau_upto
    | with_reducible apply dropPicture_upto
    | with_reducible apply passUnits_upto
    | with_reducible apply passView_upto
    | with_reducible apply stlFreeOp_upto
    | with_reducible apply modEnc_upto
    | with_reducible apply nextPicture_upto
    | with_reducible apply sceneCheck_upto
    | with_reducible apply Upto.forEach
    | with_reducible apply Upto.ite
    | split

theorem rowUnits_upto {m : Nat} {s0 : State} {n : Nat} {k : Nat} {v : Nat} {lastRow : Bool} {s : State} (h :
    Upto m s0 s) (hm : Sub 0xd7ccc880 m) :
    Upto m s0 (rowUnits n k v lastRow s) := by
  unfold rowUnits
  try dsimp only
  repeat' first
    | with_reducible assumption
    | ((with_reducible refine Sub.of hm ?_); rfl)
    | with_reducible apply modEnc_upto
    | with_reducible apply passUnits_upto
    | with_reducible apply Upto.ite
    | split

theorem finalRow_upto {m : Nat} {s0 : State} {n : Nat} {k : Nat} {v : Nat} {whole : Bool} {s : State} (h : Upto
    m s0 s) (hm : Sub 0x8d7ccc880 m) :
    Upto m s0 (finalRow n k v whole s) := by
  unfold finalRow
  try dsimp only
  repeat' first
    | with_reducible assumption
    | ((with_reducible refine Sub.of hm ?_); rfl)
    | with_reducible apply modGau_upto
    | with_reducible apply raise_upto
    | with_reducible apply modEnc_upto
    | with_reducible apply notice_upto
    | with_reducible apply rowUnits_upto
    | with_reducible apply reserveRow_upto
    | with_reducible apply endPicture_upto
    | with_reducible apply Upto.ite
    | split

theorem orderSecond_upto {m : Nat} {s0 : State} {n : Nat} {k : Nat} {s : State} (h : Upto m s0 s) (hm : Sub
    0x800000880 m) :
    Upto m s0 (orderSecond n k s) := by
  unfold orderSecond
  try dsimp only
  repeat' first
    | with_reducible assumption
    | ((with_reducible refine Sub.of hm ?_); rfl)
    | with_reducible apply modGau_upto
    | with_reducible apply modEnc_upto
    | with_reducible apply notice_upto
    | with_reducible apply grantStripes_upto

theorem rewindDecide_upto {m : Nat} {s0 : State} {n : Nat} {whole : Bool} {s : State} (h : Upto m s0 s) (hm :
    Sub 0x8d7ccc880 m) :
    Upto m s0 (rewindDecide n whole s) := by
  unfold rewindDecide
  try dsimp only
  repeat' first
    | with_reducible assumption
    | intro _
    | ((with_reducible refine Sub.of hm ?_); rfl)
    | with_reducible apply modGau_upto
    | with_reducible apply orderSecond_upto
    | with_reducible apply askAbort_upto
    | with_reducible apply finalRow_upto
    | with_reducible apply Upto.forEach
    | with_reducible apply Upto.ite

theorem badReport_upto {m : Nat} {s0 : State} {s : State} (h : Upto m s0 s) (hm : Sub 0x80000000 m) :
    Upto m s0 (badReport s) := by
  unfold badReport
  try dsimp only
  repeat' first
    | with_reducible assumption
    | with_reducible apply bump_upto

theorem modStripe_upto {m : Nat} {s0 : State} {n : Nat} {k : Nat} {v : Nat} {i : Nat} {f : GauStripe →
    GauStripe} {s : State} (h : Upto m s0 s) (hm : Sub 0x800 m) :
    Upto m s0 (modStripe n k v i f s) := by
  unfold modStripe
  try dsimp only
  repeat' first
    | with_reducible assumption
    | with_reducible apply modGau_upto

theorem reportAnalysis_upto {m : Nat} {s0 : State} {n : Nat} {k : Nat} {val : Nat} {s : State} (h : Upto m s0 s)
    (hm : Sub 0x80000800 m) :
    Upto m s0 (reportAnalysis n k val s) := by
  unfold reportAnalysis
  try dsimp only
  repeat' first
    | with_reducible assumption
    | ((with_reducible refine Sub.of hm ?_); rfl)
    | with_reducible apply badReport_upto
    | with_reducible apply modStripe_upto
    | with_reducible apply Upto.ite

theorem reportRowend_upto {m : Nat} {s0 : State} {n : Nat} {k : Nat} {val : Nat} {units : List (List Nat)}
    {intra : Nat} {whole : Bool} {s : State} (h : Upto m s0 s) (hm : Sub 0x8d7ccc880 m) :
    Upto m s0 (reportRowend n k val units intra whole s) := by
  unfold reportRowend
  try dsimp only
  repeat' first
    | with_reducible assumption
    | ((with_reducible refine Sub.of hm ?_); rfl)
    | with_reducible apply badReport_upto
    | with_reducible apply modStripe_upto
    | with_reducible apply modEnc_upto
    | with_reducible apply report_upto
    | with_reducible apply bump_upto
    | with_reducible apply modGau_upto
    | with_reducible apply finalRow_upto
    | with_reducible apply rewindDecide_upto
    | with_reducible apply Upto.ite

theorem execGaugeReport_upto {m : Nat} {s0 : State} {slot : Fin 256} {coded : List (List Byte)} {intra : BitVec
    16} {whole : Bool} {s : State} (h : Upto m s0 s) (hm : Sub 0x8d7ccc880 m) :
    OutUpto m s0 (execGaugeReport slot coded intra whole s) := by
  unfold execGaugeReport
  try dsimp only
  repeat' first
    | with_reducible assumption
    | ((with_reducible refine Sub.of hm ?_); rfl)
    | with_reducible apply modPat_upto
    | with_reducible apply reportAnalysis_upto
    | with_reducible apply reportRowend_upto
    | with_reducible apply badReport_upto
    | with_reducible apply OutUpto.next
    | split

theorem modJoint_upto {m : Nat} {s0 : State} {grp : Nat} {f : JointSt → JointSt} {s : State} (h : Upto m s0 s)
    (hm : Sub 0x2000 m) :
    Upto m s0 (modJoint grp f s) := by
  unfold modJoint
  try dsimp only
  repeat' first
    | with_reducible assumption
    | fail_if_no_progress with_reducible refine Upto.joint_set ?_ (hm.bit rfl)

theorem jointDivide_upto {m : Nat} {s0 : State} {grp : Nat} {total : Nat} {s : State} (h : Upto m s0 s) (hm :
    Sub 0x2800 m) :
    Upto m s0 (jointDivide grp total s) := by
  unfold jointDivide
  try dsimp only
  repeat' first
    | with_reducible assumption
    | intro _
    | ((with_reducible refine Sub.of hm ?_); rfl)
    | with_reducible apply modGau_upto
    | with_reducible apply modJoint_upto
    | with_reducible apply Upto.forEach

theorem jointApply_upto {m : Nat} {s0 : State} {grp : Nat} {s : State} (h : Upto m s0 s) (hm : Sub 0x2000 m) :
    Upto m s0 (jointApply grp s) := by
  unfold jointApply
  try dsimp only
  repeat' first
    | with_reducible assumption
    | with_reducible apply modJoint_upto
    | with_reducible apply Upto.ite
    | split

theorem execJointAllocation_upto {m : Nat} {s0 : State} {s : State} (h : Upto m s0 s) (hm : Sub 0x2800 m) :
    OutUpto m s0 (execJointAllocation s) := by
  unfold execJointAllocation
  try dsimp only
  repeat' first
    | with_reducible assumption
    | intro _
    | ((with_reducible refine Sub.of hm ?_); rfl)
    | with_reducible apply jointApply_upto
    | with_reducible apply jointDivide_upto
    | with_reducible apply Upto.forEach
    | with_reducible apply OutUpto.next
    | with_reducible apply OutUpto.ite

theorem stageDivide_upto {m : Nat} {s0 : State} {grp : Nat} {frame : Nat} {s : State} (h : Upto m s0 s) (hm :
    Sub 0x4002000 m) :
    Upto m s0 (stageDivide grp frame s) := by
  unfold stageDivide
  try dsimp only
  repeat' first
    | with_reducible assumption
    | intro _
    | ((with_reducible refine Sub.of hm ?_); rfl)
    | with_reducible apply modJoint_upto
    | with_reducible apply sendMsg_upto
    | with_reducible apply Upto.forEach
    | with_reducible apply Upto.ite

theorem takeSums_upto {m : Nat} {s0 : State} {grp : Nat} {dev : Nat} {x : ShareSums} {s : State} (h : Upto m s0
    s) (hm : Sub 0x4002000 m) :
    Upto m s0 (takeSums grp dev x s) := by
  unfold takeSums
  try dsimp only
  repeat' first
    | with_reducible assumption
    | ((with_reducible refine Sub.of hm ?_); rfl)
    | with_reducible apply stageDivide_upto
    | with_reducible apply modJoint_upto

theorem execStageShareSend_upto {m : Nat} {s0 : State} {s : State} (h : Upto m s0 s) (hm : Sub 0x4002000 m) :
    OutUpto m s0 (execStageShareSend s) := by
  unfold execStageShareSend
  try dsimp only
  repeat' first
    | with_reducible assumption
    | intro _
    | ((with_reducible refine Sub.of hm ?_); rfl)
    | with_reducible apply takeSums_upto
    | with_reducible apply sendMsg_upto
    | with_reducible apply Upto.forEach
    | with_reducible apply Upto.ite
    | with_reducible apply OutUpto.next
    | with_reducible apply OutUpto.ite

theorem execStageShareReceive_upto {m : Nat} {s0 : State} {link : Fin 8} {a1 : FlitHdr} {group : BitVec 6}
    {frame : BitVec 40} {body : ShareBody} {s : State} (h : Upto m s0 s) (hm : Sub 0x86002000 m) :
    OutUpto m s0 (execStageShareReceive link a1 group frame body s) := by
  unfold execStageShareReceive
  try dsimp only
  repeat' first
    | with_reducible assumption
    | intro _
    | ((with_reducible refine Sub.of hm ?_); rfl)
    | with_reducible apply rxOwn_upto
    | with_reducible apply modJoint_upto
    | with_reducible apply takeSums_upto
    | with_reducible apply Upto.ite
    | with_reducible apply OutUpto.next
    | split

theorem execStageShareMissed_upto {m : Nat} {s0 : State} {group : BitVec 6} {s : State} (h : Upto m s0 s) (hm :
    Sub 0x80482000 m) :
    OutUpto m s0 (execStageShareMissed group s) := by
  unfold execStageShareMissed
  try dsimp only
  repeat' first
    | with_reducible assumption
    | ((with_reducible refine Sub.of hm ?_); rfl)
    | with_reducible apply modJoint_upto
    | with_reducible apply raise_upto
    | with_reducible apply Upto.ite
    | with_reducible apply OutUpto.next
    | with_reducible apply OutUpto.ite

theorem keyReqEffect_upto {m : Nat} {s0 : State} {v : List Nat} {s : State} (h : Upto m s0 s) (hm : Sub
    0x4000800 m) :
    Upto m s0 (keyReqEffect v s) := by
  unfold keyReqEffect
  try dsimp only
  repeat' first
    | with_reducible assumption
    | ((with_reducible refine Sub.of hm ?_); rfl)
    | with_reducible apply stageKeyAsk_upto
    | with_reducible apply keyCounted_upto
    | with_reducible apply Upto.ite

theorem execKeyRequest_upto {m : Nat} {s0 : State} {req : Req} {slot : Fin 256} {out : Fin 4} {s : State} (h :
    Upto m s0 s) (hm : Sub 0x384000800 m) :
    OutUpto m s0 (execKeyRequest req slot out s) := by
  unfold execKeyRequest
  try dsimp only
  repeat' first
    | with_reducible assumption
    | intro _
    | ((with_reducible refine Sub.of hm ?_); rfl)
    | with_reducible apply commitWords_upto
    | with_reducible apply keyReqEffect_upto
    | with_reducible apply OutUpto.next

theorem execSeedRecord_upto {m : Nat} {s0 : State} {slot : Fin 256} {out : Fin 4} {s : State} (h : Upto m s0 s)
    (hm : Sub 0xd3c80880 m) :
    OutUpto m s0 (execSeedRecord slot out s) := by
  unfold execSeedRecord
  try dsimp only
  repeat' first
    | with_reducible assumption
    | ((with_reducible refine Sub.of hm ?_); rfl)
    | with_reducible apply modGau_upto
    | with_reducible apply ldgPush_upto
    | with_reducible apply Upto.ite
    | with_reducible apply OutUpto.next
    | with_reducible apply OutUpto.ite

end Sys2Proof.Machine
end

