-- ==== Sys2Proof/Laws/UptoEncode.lean ====
section
/-! SUPPORT. What each operation of Machine/Encode.lean leaves unchanged (Laws/Upto.lean). -/

set_option linter.unusedTactic false
set_option linter.unreachableTactic false

namespace Sys2Proof.Machine

theorem markLines_upto {m : Nat} {s0 : State} {n : Nat} {k : Nat} {v : Nat} {missing : Nat} {bad : Bool} {s :
    State} (h : Upto m s0 s) (hm : Sub 0x80480800 m) :
    Upto m s0 (markLines n k v missing bad s) := by
  unfold markLines
  try dsimp only
  repeat' first
    | with_reducible assumption
    | ((with_reducible refine Sub.of hm ?_); rfl)
    | with_reducible apply modEnc_upto
    | with_reducible apply raise_upto
    | with_reducible apply Upto.ite

theorem setFrame_upto {m : Nat} {s0 : State} {n : Nat} {k : Nat} {f : Nat} {s : State} (h : Upto m s0 s) (hm :
    Sub 0x800 m) :
    Upto m s0 (setFrame n k f s) := by
  unfold setFrame
  try dsimp only
  repeat' first
    | with_reducible assumption
    | with_reducible apply modEnc_upto

theorem modRow_upto {m : Nat} {s0 : State} {n : Nat} {k : Nat} {v : Nat} {i : Nat} {f : RowSt → RowSt} {s :
    State} (h : Upto m s0 s) (hm : Sub 0x800 m) :
    Upto m s0 (modRow n k v i f s) := by
  unfold modRow
  try dsimp only
  repeat' first
    | with_reducible assumption
    | with_reducible apply modEnc_upto

theorem windowWaits_upto {m : Nat} {s0 : State} {n : Nat} {k : Nat} {v : Nat} {i : Nat} {s : State} (h : Upto m
    s0 s) (hm : Sub 0x800 m) :
    Upto m s0 (windowWaits n k v i s) := by
  unfold windowWaits
  try dsimp only
  repeat' first
    | with_reducible assumption
    | with_reducible apply modRow_upto
    | with_reducible apply modEnc_upto
    | with_reducible apply Upto.ite

theorem stripeStart_upto {m : Nat} {s0 : State} {n : Nat} {k : Nat} {v : Nat} {i : Nat} {needle : Nat} {frame :
    Nat} {missing : Nat} {bad : Bool} {s : State} (h : Upto m s0 s) (hm : Sub 0x80480800 m) :
    Upto m s0 (stripeStart n k v i needle frame missing bad s) := by
  unfold stripeStart
  try dsimp only
  repeat' first
    | with_reducible assumption
    | ((with_reducible refine Sub.of hm ?_); rfl)
    | with_reducible apply modRow_upto
    | with_reducible apply setFrame_upto
    | with_reducible apply markLines_upto
    | with_reducible apply Upto.ite

theorem hevcRow_upto {m : Nat} {s0 : State} {n : Nat} {k : Nat} {v : Nat} {i : Nat} {needle : Nat} {window :
    Bool} {xview : Bool} {prep : Bool} {s : State} (h : Upto m s0 s) (hm : Sub 0x8d7c84880 m) :
    Upto m s0 (hevcRow n k v i needle window xview prep s) := by
  unfold hevcRow
  try dsimp only
  repeat' first
    | with_reducible assumption
    | ((with_reducible refine Sub.of hm ?_); rfl)
    | with_reducible apply nextPicture_upto
    | with_reducible apply windowWaits_upto
    | with_reducible apply modRow_upto
    | with_reducible apply stripeStart_upto
    | with_reducible apply Upto.ite
    | split

theorem execXvlate_upto {m : Nat} {s0 : State} {slot : Fin 256} {out : Fin 4} {view : Fin 16} {stripe : Fin 8}
    {s : State} (h : Upto m s0 s) (hm : Sub 0x80480800 m) :
    OutUpto m s0 (execXvlate slot out view stripe s) := by
  unfold execXvlate
  try dsimp only
  repeat' first
    | with_reducible assumption
    | ((with_reducible refine Sub.of hm ?_); rfl)
    | with_reducible apply modRow_upto
    | with_reducible apply raise_upto
    | with_reducible apply modEnc_upto
    | with_reducible apply OutUpto.next
    | with_reducible apply OutUpto.ite
    | split

theorem plainStart_upto {m : Nat} {s0 : State} {n : Nat} {k : Nat} {s : State} (h : Upto m s0 s) (hm : Sub
    0xd7c84880 m) :
    Upto m s0 (plainStart n k s) := by
  unfold plainStart
  try dsimp only
  repeat' first
    | with_reducible assumption
    | ((with_reducible refine Sub.of hm ?_); rfl)
    | with_reducible apply altEntries_upto
    | with_reducible apply stlAllocOp_upto
    | with_reducible apply modEnc_upto
    | with_reducible apply Upto.ite
    | with_reducible refine Upto.snd (by assumption) ?_
    | split

theorem plainEnd_upto {m : Nat} {s0 : State} {n : Nat} {k : Nat} {s : State} (h : Upto m s0 s) (hm : Sub
    0xd7ccc880 m) :
    Upto m s0 (plainEnd n k s) := by
  unfold plainEnd
  try dsimp only
  repeat' first
    | with_reducible assumption
    | ((with_reducible refine Sub.of hm ?_); rfl)
    | with_reducible apply dropPicture_upto
    | with_reducible apply passView_upto
    | with_reducible apply stlFreeOp_upto
    | with_reducible apply modEnc_upto
    | with_reducible apply Upto.ite
    | split

theorem plainRow_upto {m : Nat} {s0 : State} {n : Nat} {k : Nat} {needle : Nat} {prep : Bool} {coded : List
    (List Nat)} {s : State} (h : Upto m s0 s) (hm : Sub 0xd7ccc880 m) :
    Upto m s0 (plainRow n k needle prep coded s) := by
  unfold plainRow
  try dsimp only
  repeat' first
    | with_reducible assumption
    | ((with_reducible refine Sub.of hm ?_); rfl)
    | with_reducible apply plainStart_upto
    | with_reducible apply setFrame_upto
    | with_reducible apply markLines_upto
    | with_reducible apply modEnc_upto
    | with_reducible apply passUnits_upto
    | with_reducible apply modRow_upto
    | with_reducible apply plainEnd_upto
    | with_reducible apply Upto.ite
    | split

theorem execRowStart_upto {m : Nat} {s0 : State} {slot : Fin 256} {out : Fin 4} {view : Fin 16} {stripe : Fin 8}
    {needle : Fin 128} {window : Bool} {xview : Bool} {prep : Bool} {coded : List (List Byte)} {s : State} (h : Upto
    m s0 s) (hm : Sub 0x8d7ccc880 m) :
    OutUpto m s0 (execRowStart slot out view stripe needle window xview prep coded s) := by
  unfold execRowStart
  try dsimp only
  repeat' first
    | with_reducible assumption
    | ((with_reducible refine Sub.of hm ?_); rfl)
    | with_reducible apply hevcRow_upto
    | with_reducible apply plainRow_upto
    | with_reducible apply OutUpto.next
    | with_reducible apply OutUpto.ite

end Sys2Proof.Machine
end

