-- ==== Sys2Proof/Laws/UptoDecoding.lean ====
section
/-! SUPPORT. What each operation of Machine/Decoding.lean leaves unchanged (Laws/Upto.lean). -/

set_option linter.unusedTactic false
set_option linter.unreachableTactic false

namespace Sys2Proof.Machine

theorem episodeStart_upto {m : Nat} {s0 : State} {n : Nat} {i : Nat} {s : State} (h : Upto m s0 s) (hm : Sub
    0x80480800 m) :
    Upto m s0 (episodeStart n i s) := by
  unfold episodeStart
  try dsimp only
  repeat' first
    | with_reducible assumption
    | ((with_reducible refine Sub.of hm ?_); rfl)
    | with_reducible apply modDec_upto
    | with_reducible apply raise_upto
    | with_reducible apply Upto.ite

theorem outLines_upto {m : Nat} {s0 : State} {n : Nat} {k : Nat} {frame : Nat} {note : List Nat} {lines : List
    (List Nat)} {s : State} (h : Upto m s0 s) (hm : Sub 0xd7ccc880 m) :
    Upto m s0 (outLines n k frame note lines s) := by
  unfold outLines
  try dsimp only
  repeat' first
    | with_reducible assumption
    | ((with_reducible refine Sub.of hm ?_); rfl)
    | with_reducible apply passUnits_upto
    | with_reducible apply passToMagazine_upto
    | with_reducible apply Upto.ite

theorem outPass_upto {m : Nat} {s0 : State} {n : Nat} {i : Nat} {low : Bool} {frame : Nat} {ptype : Nat} {p :
    OutPic} {s : State} (h : Upto m s0 s) (hm : Sub 0xd7ccc880 m) :
    Upto m s0 (outPass n i low frame ptype p s) := by
  unfold outPass
  try dsimp only
  repeat' first
    | with_reducible assumption
    | intro _
    | with_reducible apply outLines_upto
    | with_reducible apply Upto.forEach

theorem oldReturn_upto {m : Nat} {s0 : State} {n : Nat} {i : Nat} {s : State} (h : Upto m s0 s) (hm : Sub
    0xd3c84880 m) :
    Upto m s0 (oldReturn n i s) := by
  unfold oldReturn
  try dsimp only
  repeat' first
    | with_reducible assumption
    | ((with_reducible refine Sub.of hm ?_); rfl)
    | with_reducible apply freeHandles_upto
    | with_reducible apply modDec_upto

theorem outGone_upto {m : Nat} {s0 : State} {n : Nat} {i : Nat} {p : OutPic} {s : State} (h : Upto m s0 s) (hm :
    Sub 0xd3c84880 m) :
    Upto m s0 (outGone n i p s) := by
  unfold outGone
  try dsimp only
  repeat' first
    | with_reducible assumption
    | ((with_reducible refine Sub.of hm ?_); rfl)
    | with_reducible apply oldReturn_upto
    | with_reducible apply modDec_upto

theorem bumpOut_upto {m : Nat} {s0 : State} {n : Nat} {i : Nat} {keep : Nat} {a3 : Nat} {a4 : List OutPic} {a5 :
    State} (h : Upto m s0 a5) (hm : Sub 0xd7ccc880 m) :
    Upto m s0 (bumpOut n i keep a3 a4 a5).2 := by
  induction a3 generalizing n i keep a4 a5 with
  | zero =>
    unfold bumpOut
    try dsimp only
    repeat' first
      | with_reducible assumption
      | ((with_reducible refine Sub.of hm ?_); rfl)
      | with_reducible apply modDec_upto
      | with_reducible apply outGone_upto
      | with_reducible apply outPass_upto
      | split
  | succ n1 ih =>
    unfold bumpOut
    try dsimp only
    repeat' first
      | with_reducible assumption
      | ((with_reducible refine Sub.of hm ?_); rfl)
      | with_reducible apply ih
      | with_reducible apply modDec_upto
      | with_reducible apply outGone_upto
      | with_reducible apply outPass_upto
      | split

theorem lowFlush_upto {m : Nat} {s0 : State} {n : Nat} {i : Nat} {keep : Nat} {s : State} (h : Upto m s0 s) (hm
    : Sub 0xd7ccc880 m) :
    Upto m s0 (lowFlush n i keep s) := by
  unfold lowFlush
  try dsimp only
  repeat' first
    | with_reducible assumption
    | ((with_reducible refine Sub.of hm ?_); rfl)
    | with_reducible apply bumpOut_upto
    | with_reducible apply modDec_upto

theorem outLate_upto {m : Nat} {s0 : State} {n : Nat} {i : Nat} {p : OutPic} {s : State} (h : Upto m s0 s) (hm :
    Sub 0xd3c84880 m) :
    Upto m s0 (outLate n i p s) := by
  unfold outLate
  try dsimp only
  repeat' first
    | with_reducible assumption
    | ((with_reducible refine Sub.of hm ?_); rfl)
    | with_reducible apply outGone_upto
    | with_reducible apply modDec_upto

theorem schedule_upto {m : Nat} {s0 : State} {n : Nat} {i : Nat} {frame : Nat} {p : OutPic} {s : State} (h :
    Upto m s0 s) (hm : Sub 0xd3c84880 m) :
    Upto m s0 (schedule n i frame p s) := by
  unfold schedule
  try dsimp only
  repeat' first
    | with_reducible assumption
    | ((with_reducible refine Sub.of hm ?_); rfl)
    | with_reducible apply modDec_upto
    | with_reducible apply outLate_upto
    | with_reducible apply Upto.ite
    | split

theorem closePic_upto {m : Nat} {s0 : State} {n : Nat} {i : Nat} {s : State} (h : Upto m s0 s) (hm : Sub
    0xd7ccc880 m) :
    Upto m s0 (closePic n i s) := by
  unfold closePic
  try dsimp only
  repeat' first
    | with_reducible assumption
    | ((with_reducible refine Sub.of hm ?_); rfl)
    | with_reducible apply modDec_upto
    | with_reducible apply episodeStart_upto
    | with_reducible apply lowFlush_upto
    | with_reducible apply schedule_upto
    | with_reducible apply Upto.ite
    | split

theorem takePool_upto {m : Nat} {s0 : State} {n : Nat} {i : Nat} {p : SpsInfo} {s : State} (h : Upto m s0 s) (hm
    : Sub 0xd3c84880 m) :
    Upto m s0 (takePool n i p s) := by
  unfold takePool
  try dsimp only
  repeat' first
    | with_reducible assumption
    | ((with_reducible refine Sub.of hm ?_); rfl)
    | with_reducible apply oldReturn_upto
    | with_reducible apply modDec_upto
    | with_reducible apply takeBuffers_upto
    | with_reducible apply raise_upto
    | with_reducible apply episodeStart_upto
    | with_reducible refine Upto.snd (by assumption) ?_
    | split

theorem activateSps_upto {m : Nat} {s0 : State} {n : Nat} {i : Nat} {p : SpsInfo} {s : State} (h : Upto m s0 s)
    (hm : Sub 0xd3c84880 m) :
    Upto m s0 (activateSps n i p s) := by
  unfold activateSps
  try dsimp only
  repeat' first
    | with_reducible assumption
    | ((with_reducible refine Sub.of hm ?_); rfl)
    | with_reducible apply modDec_upto
    | with_reducible apply episodeStart_upto
    | with_reducible apply raise_upto
    | with_reducible apply takePool_upto
    | with_reducible apply Upto.ite

theorem startMarks_upto {m : Nat} {s0 : State} {n : Nat} {i : Nat} {u : UnitInfo} {s : State} (h : Upto m s0 s)
    (hm : Sub 0x80480800 m) :
    Upto m s0 (startMarks n i u s).1 := by
  unfold startMarks
  try dsimp only
  repeat' first
    | with_reducible assumption
    | ((with_reducible refine Sub.of hm ?_); rfl)
    | with_reducible apply modDec_upto
    | with_reducible apply episodeStart_upto
    | with_reducible apply Upto.ite

theorem startView_upto {m : Nat} {s0 : State} {n : Nat} {i : Nat} {u : UnitInfo} {p : DecPic} {s : State} (h :
    Upto m s0 s) (hm : Sub 0x80480800 m) :
    OptUpto m s0 (startView n i u p s) := by
  unfold startView
  try dsimp only
  repeat' first
    | with_reducible assumption
    | ((with_reducible refine Sub.of hm ?_); rfl)
    | with_reducible apply startMarks_upto
    | with_reducible apply modDec_upto
    | with_reducible apply OptUpto.some
    | with_reducible apply OptUpto.none
    | split

theorem slicePass_upto {m : Nat} {s0 : State} {n : Nat} {i : Nat} {u : CUnit} {p : DecPic} {s : State} (h : Upto
    m s0 s) (hm : Sub 0xd7ccc880 m) :
    Upto m s0 (slicePass n i u p s) := by
  unfold slicePass
  try dsimp only
  repeat' first
    | with_reducible assumption
    | intro _
    | ((with_reducible refine Sub.of hm ?_); rfl)
    | with_reducible apply passUnits_upto
    | with_reducible apply modDec_upto
    | with_reducible apply Upto.forEach
    | with_reducible apply Upto.ite

theorem unitJoin_upto {m : Nat} {s0 : State} {n : Nat} {i : Nat} {u : CUnit} {s : State} (h : Upto m s0 s) (hm :
    Sub 0xd7ccc880 m) :
    Upto m s0 (unitJoin n i u s) := by
  unfold unitJoin
  try dsimp only
  repeat' first
    | with_reducible assumption
    | ((with_reducible refine Sub.of hm ?_); rfl)
    | with_reducible apply modDec_upto
    | with_reducible apply slicePass_upto
    | with_reducible apply Upto.ite
    | split

theorem passHevc_upto {m : Nat} {s0 : State} {n : Nat} {i : Nat} {u : CUnit} {s : State} (h : Upto m s0 s) (hm :
    Sub 0xd7ccc880 m) :
    OptUpto m s0 (passHevc n i u s) := by
  unfold passHevc
  try dsimp only
  repeat' first
    | with_reducible assumption
    | intro _
    | ((with_reducible refine Sub.of hm ?_); rfl)
    | with_reducible apply closePic_upto
    | with_reducible apply activateSps_upto
    | with_reducible apply modDec_upto
    | with_reducible apply lowFlush_upto
    | with_reducible apply unitJoin_upto
    | with_reducible apply startView_upto
    | with_reducible apply Upto.ite
    | with_reducible apply OptUpto.some
    | with_reducible apply OptUpto.ite
    | with_reducible apply OptUpto.map
    | split

theorem passXs_upto {m : Nat} {s0 : State} {n : Nat} {i : Nat} {u : CUnit} {s : State} (h : Upto m s0 s) (hm :
    Sub 0xd7ccc880 m) :
    Upto m s0 (passXs n i u s) := by
  unfold passXs
  try dsimp only
  repeat' first
    | with_reducible assumption
    | ((with_reducible refine Sub.of hm ?_); rfl)
    | with_reducible apply closePic_upto
    | with_reducible apply unitJoin_upto
    | with_reducible apply modDec_upto
    | with_reducible apply Upto.ite

theorem passUnit_upto {m : Nat} {s0 : State} {n : Nat} {i : Nat} {u : CUnit} {s : State} (h : Upto m s0 s) (hm :
    Sub 0xd7ccc880 m) :
    OptUpto m s0 (passUnit n i u s) := by
  unfold passUnit
  try dsimp only
  repeat' first
    | with_reducible assumption
    | with_reducible apply passXs_upto
    | with_reducible apply passHevc_upto
    | with_reducible apply OptUpto.some
    | with_reducible apply OptUpto.ite

theorem ringDrain_upto {m : Nat} {s0 : State} {n : Nat} {i : Nat} {a2 : Nat} {a3 : State} (h : Upto m s0 a3) (hm
    : Sub 0xd7ccc880 m) :
    Upto m s0 (ringDrain n i a2 a3) := by
  induction a2 generalizing n i a3 with
  | zero =>
    unfold ringDrain
    try dsimp only
    repeat' first
      | with_reducible assumption
      | ((with_reducible refine Sub.of hm ?_); rfl)
      | with_reducible apply passUnit_upto
      | with_reducible apply modDec_upto
      | with_reducible apply Upto.ite
      | with_reducible refine Upto.of_some (by assumption) ?_
      | split
  | succ n1 ih =>
    unfold ringDrain
    try dsimp only
    repeat' first
      | with_reducible assumption
      | ((with_reducible refine Sub.of hm ?_); rfl)
      | with_reducible apply ih
      | with_reducible apply passUnit_upto
      | with_reducible apply modDec_upto
      | with_reducible apply Upto.ite
      | with_reducible refine Upto.of_some (by assumption) ?_
      | split

theorem drain_upto {m : Nat} {s0 : State} {n : Nat} {i : Nat} {s : State} (h : Upto m s0 s) (hm : Sub 0xd7ccc880
    m) :
    Upto m s0 (drain n i s) := by
  unfold drain
  try dsimp only
  repeat' first
    | with_reducible assumption
    | with_reducible apply ringDrain_upto

theorem unitLate_upto {m : Nat} {s0 : State} {n : Nat} {i : Nat} {s : State} (h : Upto m s0 s) (hm : Sub 0x800
    m) :
    Upto m s0 (unitLate n i s) := by
  unfold unitLate
  try dsimp only
  repeat' first
    | with_reducible assumption
    | with_reducible apply modDec_upto

theorem groupUnit_upto {m : Nat} {s0 : State} {n : Nat} {i : Nat} {e : Nat} {u : CUnit} {s : State} (h : Upto m
    s0 s) (hm : Sub 0xd7ccc880 m) :
    Upto m s0 (groupUnit n i e u s) := by
  unfold groupUnit
  try dsimp only
  repeat' first
    | with_reducible assumption
    | ((with_reducible refine Sub.of hm ?_); rfl)
    | with_reducible apply modDec_upto
    | with_reducible apply passUnit_upto
    | with_reducible apply Upto.ite
    | with_reducible apply Upto.getD

theorem unitEnter_upto {m : Nat} {s0 : State} {n : Nat} {i : Nat} {lo : Nat} {e : Nat} {u : CUnit} {line : Nat}
    {s : State} (h : Upto m s0 s) (hm : Sub 0xd7ccc880 m) :
    Upto m s0 (unitEnter n i lo e u line s) := by
  unfold unitEnter
  try dsimp only
  repeat' first
    | with_reducible assumption
    | ((with_reducible refine Sub.of hm ?_); rfl)
    | with_reducible apply modDec_upto
    | with_reducible apply drain_upto

theorem execCodedUnitReceive_upto {m : Nat} {s0 : State} {info : UnitInfo} {s : State} (h : Upto m s0 s) (hm :
    Sub 0xd7ccc880 m) :
    OutUpto m s0 (execCodedUnitReceive info s) := by
  unfold execCodedUnitReceive
  try dsimp only
  repeat' first
    | with_reducible assumption
    | ((with_reducible refine Sub.of hm ?_); rfl)
    | with_reducible apply groupUnit_upto
    | with_reducible apply unitLate_upto
    | with_reducible apply modDec_upto
    | with_reducible apply drain_upto
    | with_reducible apply unitEnter_upto
    | with_reducible apply OutUpto.next
    | with_reducible apply OutUpto.ite
    | fail_if_no_progress with_reducible refine Upto.arrivals_set ?_ (hm.bit rfl)
    | split

theorem execUnitLossDeclare_upto {m : Nat} {s0 : State} {slot : Fin 256} {input : Fin 16} {s : State} (h : Upto
    m s0 s) (hm : Sub 0xd7ccc880 m) :
    OutUpto m s0 (execUnitLossDeclare slot input s) := by
  unfold execUnitLossDeclare
  try dsimp only
  repeat' first
    | with_reducible assumption
    | ((with_reducible refine Sub.of hm ?_); rfl)
    | with_reducible apply modDec_upto
    | with_reducible apply drain_upto
    | with_reducible apply OutUpto.next
    | with_reducible apply OutUpto.ite

theorem execPictureCloseTimeout_upto {m : Nat} {s0 : State} {slot : Fin 256} {input : Fin 16} {s : State} (h :
    Upto m s0 s) (hm : Sub 0xd7ccc880 m) :
    OutUpto m s0 (execPictureCloseTimeout slot input s) := by
  unfold execPictureCloseTimeout
  try dsimp only
  repeat' first
    | with_reducible assumption
    | with_reducible apply drain_upto
    | with_reducible apply closePic_upto
    | with_reducible apply OutUpto.next
    | with_reducible apply OutUpto.ite
    | split

theorem outRepeat_upto {m : Nat} {s0 : State} {n : Nat} {i : Nat} {s : State} (h : Upto m s0 s) (hm : Sub
    0xd7ccc880 m) :
    Upto m s0 (outRepeat n i s) := by
  unfold outRepeat
  try dsimp only
  repeat' first
    | with_reducible assumption
    | ((with_reducible refine Sub.of hm ?_); rfl)
    | with_reducible apply modDec_upto
    | with_reducible apply outPass_upto

theorem execDecodeOutput_upto {m : Nat} {s0 : State} {slot : Fin 256} {input : Fin 16} {s : State} (h : Upto m
    s0 s) (hm : Sub 0xd7ccc880 m) :
    OutUpto m s0 (execDecodeOutput slot input s) := by
  unfold execDecodeOutput
  try dsimp only
  repeat' first
    | with_reducible assumption
    | ((with_reducible refine Sub.of hm ?_); rfl)
    | with_reducible apply modDec_upto
    | with_reducible apply drain_upto
    | with_reducible apply outGone_upto
    | with_reducible apply outPass_upto
    | with_reducible apply outRepeat_upto
    | with_reducible apply OutUpto.next
    | with_reducible apply OutUpto.ite
    | split

theorem decCfgEffect_upto {m : Nat} {s0 : State} {v : List Nat} {s : State} (h : Upto m s0 s) (hm : Sub 0x800 m)
    :
    Upto m s0 (decCfgEffect v s) := by
  unfold decCfgEffect
  try dsimp only
  repeat' first
    | with_reducible assumption
    | with_reducible apply modDec_upto

theorem decStart_upto {m : Nat} {s0 : State} {n : Nat} {s : State} (h : Upto m s0 s) (hm : Sub 0x800 m) :
    Upto m s0 (decStart n s) := by
  unfold decStart
  try dsimp only
  repeat' first
    | with_reducible assumption
    | intro _
    | with_reducible apply modDec_upto
    | with_reducible apply Upto.forEach

end Sys2Proof.Machine
end

