-- ==== Sys2Proof/Laws/UptoSecure.lean ====
section
/-! SUPPORT. What each operation of Machine/Secure.lean leaves unchanged (Laws/Upto.lean). -/

set_option linter.unusedTactic false
set_option linter.unreachableTactic false

namespace Sys2Proof.Machine

theorem modSec_upto {m : Nat} {s0 : State} {f : Sec → Sec} {s : State} (h : Upto m s0 s) (hm : Sub 0x8000000 m)
    :
    Upto m s0 (modSec f s) := by
  unfold modSec
  try dsimp only
  repeat' first
    | with_reducible assumption
    | fail_if_no_progress with_reducible refine Upto.sec_set ?_ (hm.bit rfl)

theorem secRecord_upto {m : Nat} {s0 : State} {l : List Nat} {s : State} (h : Upto m s0 s) (hm : Sub 0xd3c80080
    m) :
    Upto m s0 (secRecord l s) := by
  unfold secRecord
  try dsimp only
  repeat' first
    | with_reducible assumption
    | with_reducible apply ldgPush_upto

theorem imageRefused_upto {m : Nat} {s0 : State} {s : State} (h : Upto m s0 s) (hm : Sub 0x80480000 m) :
    Upto m s0 (imageRefused s) := by
  unfold imageRefused
  try dsimp only
  repeat' first
    | with_reducible assumption
    | ((with_reducible refine Sub.of hm ?_); rfl)
    | with_reducible apply raise_upto
    | with_reducible apply bump_upto

theorem secDone_upto {m : Nat} {s0 : State} {nload : Bool} {result : Nat} {extra : Nat} {s : State} (h : Upto m
    s0 s) (hm : Sub 0x88480000 m) :
    Upto m s0 (secDone nload result extra s) := by
  unfold secDone
  try dsimp only
  repeat' first
    | with_reducible assumption
    | ((with_reducible refine Sub.of hm ?_); rfl)
    | with_reducible apply modSec_upto
    | with_reducible apply raise_upto
    | with_reducible apply setFld_upto
    | with_reducible apply Upto.ite

theorem flashWrite_upto {m : Nat} {s0 : State} {a0 : List Nat} {a1 : Nat} {a2 : State} (h : Upto m s0 a2) (hm :
    Sub 0x8000000 m) :
    Upto m s0 (flashWrite a0 a1 a2) := by
  induction a0 generalizing a1 a2 with
  | nil =>
    unfold flashWrite
    try dsimp only
    repeat' first
      | with_reducible assumption
      | with_reducible apply modSec_upto
  | cons e l ih =>
    unfold flashWrite
    try dsimp only
    repeat' first
      | with_reducible assumption
      | with_reducible apply ih
      | with_reducible apply modSec_upto

theorem dirWrite_upto {m : Nat} {s0 : State} {i : Nat} {d : List Nat} {s : State} (h : Upto m s0 s) (hm : Sub
    0x8000000 m) :
    Upto m s0 (dirWrite i d s) := by
  unfold dirWrite
  try dsimp only
  repeat' first
    | with_reducible assumption
    | with_reducible apply flashWrite_upto

theorem confirmNow_upto {m : Nat} {s0 : State} {s : State} (h : Upto m s0 s) (hm : Sub 0x88480000 m) :
    Upto m s0 (confirmNow s) := by
  unfold confirmNow
  try dsimp only
  repeat' first
    | with_reducible assumption
    | ((with_reducible refine Sub.of hm ?_); rfl)
    | with_reducible apply secDone_upto
    | with_reducible apply dirWrite_upto
    | split

theorem advanceNow_upto {m : Nat} {s0 : State} {target : Nat} {s : State} (h : Upto m s0 s) (hm : Sub 0xdbc80080
    m) :
    Upto m s0 (advanceNow target s) := by
  unfold advanceNow
  try dsimp only
  repeat' first
    | with_reducible assumption
    | ((with_reducible refine Sub.of hm ?_); rfl)
    | with_reducible apply modSec_upto
    | with_reducible apply secDone_upto
    | with_reducible apply secRecord_upto

theorem keyrevNow_upto {m : Nat} {s0 : State} {s : State} (h : Upto m s0 s) (hm : Sub 0xdbc80080 m) :
    Upto m s0 (keyrevNow s) := by
  unfold keyrevNow
  try dsimp only
  repeat' first
    | with_reducible assumption
    | ((with_reducible refine Sub.of hm ?_); rfl)
    | with_reducible apply secDone_upto
    | with_reducible apply secRecord_upto
    | with_reducible apply modSec_upto
    | with_reducible apply Upto.ite

theorem attestNow_upto {m : Nat} {s0 : State} {addr : Nat} {s : State} (h : Upto m s0 s) (hm : Sub 0x2cdfc80881
    m) :
    Upto m s0 (attestNow addr s) := by
  unfold attestNow
  try dsimp only
  repeat' first
    | with_reducible assumption
    | ((with_reducible refine Sub.of hm ?_); rfl)
    | with_reducible apply readBytes_upto
    | with_reducible apply secDone_upto
    | with_reducible apply writeBytes_upto
    | with_reducible apply takeFree_upto
    | with_reducible apply modSec_upto
    | with_reducible refine Upto.snd (by assumption) ?_
    | split

theorem clearNow_upto {m : Nat} {s0 : State} {bank : Bool} {mask : Nat} {s : State} (h : Upto m s0 s) (hm : Sub
    0x88480100 m) :
    Upto m s0 (clearNow bank mask s) := by
  unfold clearNow
  try dsimp only
  repeat' first
    | with_reducible assumption
    | intro _
    | ((with_reducible refine Sub.of hm ?_); rfl)
    | with_reducible apply secDone_upto
    | with_reducible apply modBank_upto
    | with_reducible apply setBankSt_upto
    | with_reducible apply storeSettle_upto
    | with_reducible apply Upto.forEach
    | with_reducible apply Upto.ite

theorem bankLoading_upto {m : Nat} {s0 : State} {l : NanoLoad} {s : State} (h : Upto m s0 s) (hm : Sub
    0x88480100 m) :
    Upto m s0 (bankLoading l s) := by
  unfold bankLoading
  try dsimp only
  repeat' first
    | with_reducible assumption
    | intro _
    | ((with_reducible refine Sub.of hm ?_); rfl)
    | with_reducible apply setBankSt_upto
    | with_reducible apply modBank_upto
    | with_reducible apply modSec_upto
    | with_reducible apply Upto.forEach
    | with_reducible apply Upto.ite

theorem libGo_upto {m : Nat} {s0 : State} {bank : Bool} {mask : Nat} {b : List Nat} {s : State} (h : Upto m s0
    s) (hm : Sub 0x88480100 m) :
    Upto m s0 (libGo bank mask b s) := by
  unfold libGo
  try dsimp only
  repeat' first
    | with_reducible assumption
    | ((with_reducible refine Sub.of hm ?_); rfl)
    | with_reducible apply storeSettle_upto
    | with_reducible apply secDone_upto
    | with_reducible apply modSec_upto
    | with_reducible apply bankLoading_upto
    | with_reducible apply Upto.ite

theorem custGo_upto {m : Nat} {s0 : State} {bank : Bool} {mask : Nat} {b : List Nat} {s : State} (h : Upto m s0
    s) (hm : Sub 0x88480100 m) :
    Upto m s0 (custGo bank mask b s) := by
  unfold custGo
  try dsimp only
  repeat' first
    | with_reducible assumption
    | ((with_reducible refine Sub.of hm ?_); rfl)
    | with_reducible apply secDone_upto
    | with_reducible apply bankLoading_upto
    | with_reducible apply Upto.ite

theorem secAtOnce_upto {m : Nat} {s0 : State} {c : SecCmd} {s : State} (h : Upto m s0 s) (hm : Sub 0x2cdfc80981
    m) :
    OptUpto m s0 (secAtOnce c s) := by
  unfold secAtOnce
  try dsimp only
  repeat' first
    | with_reducible assumption
    | ((with_reducible refine Sub.of hm ?_); rfl)
    | with_reducible apply clearNow_upto
    | with_reducible apply secDone_upto
    | with_reducible apply confirmNow_upto
    | with_reducible apply advanceNow_upto
    | with_reducible apply attestNow_upto
    | with_reducible apply keyrevNow_upto
    | with_reducible apply Upto.ite
    | with_reducible apply OptUpto.some
    | with_reducible apply OptUpto.none
    | with_reducible apply OptUpto.ite
    | split

theorem secTake_upto {m : Nat} {s0 : State} {c : SecCmd} {s : State} (h : Upto m s0 s) (hm : Sub 0x28dfc80880 m)
    :
    Upto m s0 (secTake c s) := by
  unfold secTake
  try dsimp only
  repeat' first
    | with_reducible assumption
    | ((with_reducible refine Sub.of hm ?_); rfl)
    | with_reducible apply readBytes_upto
    | with_reducible apply modSec_upto
    | with_reducible refine Upto.snd (by assumption) ?_
    | split

theorem secGo_upto {m : Nat} {s0 : State} {a0 : Nat} {a1 : State} (h : Upto m s0 a1) (hm : Sub 0x2cdfc80981 m) :
    Upto m s0 (secGo a0 a1) := by
  induction a0 generalizing a1 with
  | zero =>
    unfold secGo
    try dsimp only
    repeat' first
      | with_reducible assumption
      | ((with_reducible refine Sub.of hm ?_); rfl)
      | with_reducible apply secAtOnce_upto
      | with_reducible apply secTake_upto
      | with_reducible apply Upto.ite
      | with_reducible refine Upto.of_some (by assumption) ?_
      | split
  | succ n1 ih =>
    unfold secGo
    try dsimp only
    repeat' first
      | with_reducible assumption
      | ((with_reducible refine Sub.of hm ?_); rfl)
      | with_reducible apply ih
      | with_reducible apply secAtOnce_upto
      | with_reducible apply secTake_upto
      | with_reducible apply Upto.ite
      | with_reducible refine Upto.of_some (by assumption) ?_
      | split

theorem secPump_upto {m : Nat} {s0 : State} {s : State} (h : Upto m s0 s) (hm : Sub 0x2cdfc80981 m) :
    Upto m s0 (secPump s) := by
  unfold secPump
  try dsimp only
  repeat' first
    | with_reducible assumption
    | with_reducible apply secGo_upto

theorem execNanoBankLoadDone_upto {m : Nat} {s0 : State} {bad : BitVec 16} {s : State} (h : Upto m s0 s) (hm :
    Sub 0x2cdfc80981 m) :
    OutUpto m s0 (execNanoBankLoadDone bad s) := by
  unfold execNanoBankLoadDone
  try dsimp only
  repeat' first
    | with_reducible assumption
    | intro _
    | ((with_reducible refine Sub.of hm ?_); rfl)
    | with_reducible apply setBankSt_upto
    | with_reducible apply modBank_upto
    | with_reducible apply report_upto
    | with_reducible apply secPump_upto
    | with_reducible apply storeSettle_upto
    | with_reducible apply secDone_upto
    | with_reducible apply modSec_upto
    | with_reducible apply Upto.forEach
    | with_reducible apply Upto.ite
    | with_reducible apply OutUpto.next
    | split

theorem secHold_upto {m : Nat} {s0 : State} {nload : Bool} {req : Nat} {vals : List Nat} {s : State} (h : Upto m
    s0 s) (hm : Sub 0x2cdfc80981 m) :
    Upto m s0 (secHold nload req vals s) := by
  unfold secHold
  try dsimp only
  repeat' first
    | with_reducible assumption
    | ((with_reducible refine Sub.of hm ?_); rfl)
    | with_reducible apply secPump_upto
    | with_reducible apply modSec_upto

theorem secCommand_upto {m : Nat} {s0 : State} {op : Nat} {req : Req} {addr : Nat} {arg : Nat} {s : State} (h :
    Upto m s0 s) (hm : Sub 0x2fdfc80981 m) :
    Upto m s0 (secCommand op req addr arg s) := by
  unfold secCommand
  try dsimp only
  repeat' first
    | with_reducible assumption
    | intro _
    | ((with_reducible refine Sub.of hm ?_); rfl)
    | with_reducible apply commitWords_upto
    | with_reducible apply secHold_upto

theorem secNload_upto {m : Nat} {s0 : State} {op : Nat} {req : Req} {addr : Nat} {bank : Bool} {mask : Nat} {s :
    State} (h : Upto m s0 s) (hm : Sub 0x2fdfc80981 m) :
    Upto m s0 (secNload op req addr bank mask s) := by
  unfold secNload
  try dsimp only
  repeat' first
    | with_reducible assumption
    | intro _
    | ((with_reducible refine Sub.of hm ?_); rfl)
    | with_reducible apply commitWords_upto
    | with_reducible apply secHold_upto

theorem execSecVerify_upto {m : Nat} {s0 : State} {req : Req} {addr : BitVec 48} {s : State} (h : Upto m s0 s)
    (hm : Sub 0x2fdfc80981 m) :
    OutUpto m s0 (execSecVerify req addr s) := by
  unfold execSecVerify
  try dsimp only
  repeat' first
    | with_reducible assumption
    | with_reducible apply secCommand_upto
    | with_reducible apply OutUpto.next

theorem execSecInstall_upto {m : Nat} {s0 : State} {req : Req} {addr : BitVec 48} {s : State} (h : Upto m s0 s)
    (hm : Sub 0x2fdfc80981 m) :
    OutUpto m s0 (execSecInstall req addr s) := by
  unfold execSecInstall
  try dsimp only
  repeat' first
    | with_reducible assumption
    | with_reducible apply secCommand_upto
    | with_reducible apply OutUpto.next

theorem execSecConfirm_upto {m : Nat} {s0 : State} {req : Req} {s : State} (h : Upto m s0 s) (hm : Sub
    0x2fdfc80981 m) :
    OutUpto m s0 (execSecConfirm req s) := by
  unfold execSecConfirm
  try dsimp only
  repeat' first
    | with_reducible assumption
    | with_reducible apply secCommand_upto
    | with_reducible apply OutUpto.next

theorem execSecAdvance_upto {m : Nat} {s0 : State} {req : Req} {target : BitVec 7} {s : State} (h : Upto m s0 s)
    (hm : Sub 0x2fdfc80981 m) :
    OutUpto m s0 (execSecAdvance req target s) := by
  unfold execSecAdvance
  try dsimp only
  repeat' first
    | with_reducible assumption
    | with_reducible apply secCommand_upto
    | with_reducible apply OutUpto.next

theorem execSecClaim_upto {m : Nat} {s0 : State} {req : Req} {addr : BitVec 48} {s : State} (h : Upto m s0 s)
    (hm : Sub 0x2fdfc80981 m) :
    OutUpto m s0 (execSecClaim req addr s) := by
  unfold execSecClaim
  try dsimp only
  repeat' first
    | with_reducible assumption
    | with_reducible apply secCommand_upto
    | with_reducible apply OutUpto.next

theorem execSecEquiv_upto {m : Nat} {s0 : State} {req : Req} {addr : BitVec 48} {s : State} (h : Upto m s0 s)
    (hm : Sub 0x2fdfc80981 m) :
    OutUpto m s0 (execSecEquiv req addr s) := by
  unfold execSecEquiv
  try dsimp only
  repeat' first
    | with_reducible assumption
    | with_reducible apply secCommand_upto
    | with_reducible apply OutUpto.next

theorem execSecAttest_upto {m : Nat} {s0 : State} {req : Req} {addr : BitVec 48} {s : State} (h : Upto m s0 s)
    (hm : Sub 0x2fdfc80981 m) :
    OutUpto m s0 (execSecAttest req addr s) := by
  unfold execSecAttest
  try dsimp only
  repeat' first
    | with_reducible assumption
    | with_reducible apply secCommand_upto
    | with_reducible apply OutUpto.next

theorem execSecKeyrev_upto {m : Nat} {s0 : State} {req : Req} {s : State} (h : Upto m s0 s) (hm : Sub
    0x2fdfc80981 m) :
    OutUpto m s0 (execSecKeyrev req s) := by
  unfold execSecKeyrev
  try dsimp only
  repeat' first
    | with_reducible assumption
    | with_reducible apply secCommand_upto
    | with_reducible apply OutUpto.next

theorem execNloadLib_upto {m : Nat} {s0 : State} {req : Req} {addr : BitVec 48} {bank : Bool} {skmask : BitVec
    16} {s : State} (h : Upto m s0 s) (hm : Sub 0x2fdfc80981 m) :
    OutUpto m s0 (execNloadLib req addr bank skmask s) := by
  unfold execNloadLib
  try dsimp only
  repeat' first
    | with_reducible assumption
    | with_reducible apply secNload_upto
    | with_reducible apply OutUpto.next

theorem execNloadCust_upto {m : Nat} {s0 : State} {req : Req} {addr : BitVec 48} {bank : Bool} {skmask : BitVec
    16} {s : State} (h : Upto m s0 s) (hm : Sub 0x2fdfc80981 m) :
    OutUpto m s0 (execNloadCust req addr bank skmask s) := by
  unfold execNloadCust
  try dsimp only
  repeat' first
    | with_reducible assumption
    | with_reducible apply secNload_upto
    | with_reducible apply OutUpto.next

theorem execNloadClear_upto {m : Nat} {s0 : State} {req : Req} {bank : Bool} {skmask : BitVec 16} {s : State} (h
    : Upto m s0 s) (hm : Sub 0x2fdfc80981 m) :
    OutUpto m s0 (execNloadClear req bank skmask s) := by
  unfold execNloadClear
  try dsimp only
  repeat' first
    | with_reducible assumption
    | with_reducible apply secNload_upto
    | with_reducible apply OutUpto.next

theorem typeRefused_upto {m : Nat} {s0 : State} {nload : Bool} {t : Nat} {s : State} (h : Upto m s0 s) (hm : Sub
    0x88480000 m) :
    Upto m s0 (typeRefused nload t s) := by
  unfold typeRefused
  try dsimp only
  repeat' first
    | with_reducible assumption
    | ((with_reducible refine Sub.of hm ?_); rfl)
    | with_reducible apply secDone_upto
    | with_reducible apply imageRefused_upto

theorem verified_upto {m : Nat} {s0 : State} {t : Nat} {b : List Nat} {s : State} (h : Upto m s0 s) (hm : Sub
    0x88480000 m) :
    Upto m s0 (verified t b s) := by
  unfold verified
  try dsimp only
  repeat' first
    | with_reducible assumption
    | ((with_reducible refine Sub.of hm ?_); rfl)
    | with_reducible apply secDone_upto
    | with_reducible apply modSec_upto
    | with_reducible apply typeRefused_upto
    | with_reducible apply Upto.ite

theorem installed_upto {m : Nat} {s0 : State} {t : Nat} {b : List Nat} {flashOk : Bool} {s : State} (h : Upto m
    s0 s) (hm : Sub 0x88480001 m) :
    Upto m s0 (installed t b flashOk s) := by
  unfold installed
  try dsimp only
  repeat' first
    | with_reducible assumption
    | ((with_reducible refine Sub.of hm ?_); rfl)
    | with_reducible apply typeRefused_upto
    | with_reducible apply secDone_upto
    | with_reducible apply takeFree_upto
    | with_reducible apply flashWrite_upto
    | with_reducible apply dirWrite_upto
    | with_reducible apply Upto.ite
    | split

theorem claimed_upto {m : Nat} {s0 : State} {t : Nat} {b : List Nat} {s : State} (h : Upto m s0 s) (hm : Sub
    0xdbc80080 m) :
    Upto m s0 (claimed t b s) := by
  unfold claimed
  try dsimp only
  repeat' first
    | with_reducible assumption
    | ((with_reducible refine Sub.of hm ?_); rfl)
    | with_reducible apply typeRefused_upto
    | with_reducible apply secDone_upto
    | with_reducible apply secRecord_upto
    | with_reducible apply modSec_upto
    | with_reducible apply Upto.ite

theorem equivTaken_upto {m : Nat} {s0 : State} {t : Nat} {b : List Nat} {s : State} (h : Upto m s0 s) (hm : Sub
    0xdbc80080 m) :
    Upto m s0 (equivTaken t b s) := by
  unfold equivTaken
  try dsimp only
  repeat' first
    | with_reducible assumption
    | ((with_reducible refine Sub.of hm ?_); rfl)
    | with_reducible apply typeRefused_upto
    | with_reducible apply writeEquiv_upto
    | with_reducible apply modSec_upto
    | with_reducible apply secDone_upto
    | with_reducible apply secRecord_upto
    | with_reducible apply Upto.ite

theorem secChecked_upto {m : Nat} {s0 : State} {c : SecCmd} {flashOk : Bool} {b : List Nat} {s : State} (h :
    Upto m s0 s) (hm : Sub 0xdbc80181 m) :
    Upto m s0 (secChecked c flashOk b s) := by
  unfold secChecked
  try dsimp only
  repeat' first
    | with_reducible assumption
    | ((with_reducible refine Sub.of hm ?_); rfl)
    | with_reducible apply secDone_upto
    | with_reducible apply imageRefused_upto
    | with_reducible apply libGo_upto
    | with_reducible apply typeRefused_upto
    | with_reducible apply custGo_upto
    | with_reducible apply verified_upto
    | with_reducible apply installed_upto
    | with_reducible apply claimed_upto
    | with_reducible apply equivTaken_upto
    | with_reducible apply Upto.ite
    | split

theorem execImageCheckComplete_upto {m : Nat} {s0 : State} {flashOk : Bool} {s : State} (h : Upto m s0 s) (hm :
    Sub 0x2cdfc80981 m) :
    OutUpto m s0 (execImageCheckComplete flashOk s) := by
  unfold execImageCheckComplete
  try dsimp only
  repeat' first
    | with_reducible assumption
    | ((with_reducible refine Sub.of hm ?_); rfl)
    | with_reducible apply readImage_upto
    | with_reducible apply secPump_upto
    | with_reducible apply secDone_upto
    | with_reducible apply imageRefused_upto
    | with_reducible apply secChecked_upto
    | with_reducible apply OutUpto.next
    | with_reducible apply OutUpto.ite
    | split

theorem execJtagSecchal_upto {m : Nat} {s0 : State} {s : State} (h : Upto m s0 s) (hm : Sub 0x8000001 m) :
    OutUpto m s0 (execJtagSecchal s) := by
  unfold execJtagSecchal
  try dsimp only
  repeat' first
    | with_reducible assumption
    | ((with_reducible refine Sub.of hm ?_); rfl)
    | with_reducible apply modSec_upto
    | with_reducible apply Upto.ite
    | with_reducible apply OutUpto.next
    | fail_if_no_progress with_reducible refine Upto.free_set ?_ (hm.bit rfl)

theorem execJtagSecunlk_upto {m : Nat} {s0 : State} {image : List Byte} {s : State} (h : Upto m s0 s) (hm : Sub
    0xdbc80080 m) :
    OutUpto m s0 (execJtagSecunlk image s) := by
  unfold execJtagSecunlk
  try dsimp only
  repeat' first
    | with_reducible assumption
    | ((with_reducible refine Sub.of hm ?_); rfl)
    | with_reducible apply modSec_upto
    | with_reducible apply imageRefused_upto
    | with_reducible apply raise_upto
    | with_reducible apply secRecord_upto
    | with_reducible apply bump_upto
    | with_reducible apply OutUpto.next
    | with_reducible apply OutUpto.ite

theorem randServe_upto {m : Nat} {s0 : State} {req : Nat} {s : State} (h : Upto m s0 s) (hm : Sub 0x200000001 m)
    :
    Upto m s0 (randServe req s).1 := by
  unfold randServe
  try dsimp only
  repeat' first
    | with_reducible assumption
    | ((with_reducible refine Sub.of hm ?_); rfl)
    | with_reducible apply answer_upto
    | with_reducible apply takeFree_upto
    | with_reducible apply latchWords_upto
    | split

theorem execSecRandRead_upto {m : Nat} {s0 : State} {req : Req} {s : State} (h : Upto m s0 s) (hm : Sub
    0x280000001 m) :
    OutUpto m s0 (execSecRandRead req s) := by
  unfold execSecRandRead
  try dsimp only
  repeat' first
    | with_reducible assumption
    | intro _
    | ((with_reducible refine Sub.of hm ?_); rfl)
    | with_reducible apply readServed_upto
    | with_reducible apply accessEnd_upto
    | with_reducible apply randServe_upto
    | with_reducible apply OutUpto.next

theorem execRngfail_upto {m : Nat} {s0 : State} {s : State} (h : Upto m s0 s) (hm : Sub 0xdbc80080 m) :
    OutUpto m s0 (execRngfail s) := by
  unfold execRngfail
  try dsimp only
  repeat' first
    | with_reducible assumption
    | ((with_reducible refine Sub.of hm ?_); rfl)
    | with_reducible apply raise_upto
    | with_reducible apply report_upto
    | with_reducible apply modSec_upto
    | with_reducible apply Upto.ite
    | with_reducible apply OutUpto.next

theorem bootGoEffect_upto {m : Nat} {s0 : State} {vals : List Nat} {s : State} (h : Upto m s0 s) (hm : Sub
    0x8000000 m) :
    Upto m s0 (bootGoEffect vals s) := by
  unfold bootGoEffect
  try dsimp only
  repeat' first
    | with_reducible assumption
    | with_reducible apply modSec_upto
    | with_reducible apply Upto.ite

theorem execSecBootgo_upto {m : Nat} {s0 : State} {a : Acc} {s : State} (h : Upto m s0 s) (hm : Sub 0x388000000
    m) :
    OutUpto m s0 (execSecBootgo a s) := by
  unfold execSecBootgo
  try dsimp only
  repeat' first
    | with_reducible assumption
    | intro _
    | ((with_reducible refine Sub.of hm ?_); rfl)
    | with_reducible apply regCommit_upto
    | with_reducible apply bootGoEffect_upto
    | with_reducible apply OutUpto.next

theorem castFail_upto {m : Nat} {s0 : State} {cause : Nat} {s : State} (h : Upto m s0 s) (hm : Sub 0xdbc80080 m)
    :
    Upto m s0 (castFail cause s) := by
  unfold castFail
  try dsimp only
  repeat' first
    | with_reducible assumption
    | ((with_reducible refine Sub.of hm ?_); rfl)
    | with_reducible apply report_upto
    | with_reducible apply modSec_upto

theorem castLedger_upto {m : Nat} {s0 : State} {s : State} (h : Upto m s0 s) (hm : Sub 0x8000002 m) :
    Upto m s0 (castLedger s) := by
  unfold castLedger
  try dsimp only
  repeat' first
    | with_reducible assumption
    | ((with_reducible refine Sub.of hm ?_); rfl)
    | with_reducible apply modSec_upto
    | with_reducible apply Upto.ite
    | fail_if_no_progress with_reducible refine Upto.rck_set ?_ (hm.bit rfl)
    | split

theorem sramPut_upto {m : Nat} {s0 : State} {a0 : List Nat} {a1 : Nat} {a2 : State} (h : Upto m s0 a2) (hm : Sub
    0x400000000 m) :
    Upto m s0 (sramPut a0 a1 a2) := by
  induction a0 generalizing a1 a2 with
  | nil =>
    unfold sramPut
    try dsimp only
    repeat' first
      | with_reducible assumption
      | with_reducible apply sramWrite_upto
  | cons e l ih =>
    unfold sramPut
    try dsimp only
    repeat' first
      | with_reducible assumption
      | with_reducible apply ih
      | with_reducible apply sramWrite_upto

theorem bootPlace_upto {m : Nat} {s0 : State} {b : List Nat} {src : Nat} {fallback : Bool} {s : State} (h : Upto
    m s0 s) (hm : Sub 0x408000000 m) :
    Upto m s0 (bootPlace b src fallback s) := by
  unfold bootPlace
  try dsimp only
  repeat' first
    | with_reducible assumption
    | ((with_reducible refine Sub.of hm ?_); rfl)
    | with_reducible apply sramPut_upto
    | with_reducible apply modSec_upto

theorem bootFrom_upto {m : Nat} {s0 : State} {a0 : Bool} {a1 : List (Nat × List Nat)} {a2 : State} (h : Upto m
    s0 a2) (hm : Sub 0x4dbc80080 m) :
    Upto m s0 (bootFrom a0 a1 a2) := by
  induction a1 generalizing a0 a2 with
  | nil =>
    unfold bootFrom
    try dsimp only
    repeat' first
      | with_reducible assumption
      | ((with_reducible refine Sub.of hm ?_); rfl)
      | with_reducible apply castFail_upto
      | with_reducible apply bootPlace_upto
      | with_reducible apply imageRefused_upto
      | with_reducible apply Upto.ite
  | cons e l ih =>
    unfold bootFrom
    try dsimp only
    repeat' first
      | with_reducible assumption
      | ((with_reducible refine Sub.of hm ?_); rfl)
      | with_reducible apply ih
      | with_reducible apply castFail_upto
      | with_reducible apply bootPlace_upto
      | with_reducible apply imageRefused_upto
      | with_reducible apply Upto.ite

theorem trialBegin_upto {m : Nat} {s0 : State} {s : State} (h : Upto m s0 s) (hm : Sub 0xdbc80080 m) :
    Upto m s0 (trialBegin s).1 := by
  unfold trialBegin
  try dsimp only
  repeat' first
    | with_reducible assumption
    | ((with_reducible refine Sub.of hm ?_); rfl)
    | with_reducible apply secRecord_upto
    | with_reducible apply modSec_upto
    | with_reducible apply dirWrite_upto
    | split

theorem castFlash_upto {m : Nat} {s0 : State} {file : Option (List Byte)} {s : State} (h : Upto m s0 s) (hm :
    Sub 0x4dbc80080 m) :
    Upto m s0 (castFlash file s) := by
  unfold castFlash
  try dsimp only
  repeat' first
    | with_reducible assumption
    | ((with_reducible refine Sub.of hm ?_); rfl)
    | with_reducible apply trialBegin_upto
    | with_reducible apply castFail_upto
    | with_reducible apply bootFrom_upto
    | with_reducible apply Upto.ite

theorem castSource_upto {m : Nat} {s0 : State} {file : Option (List Byte)} {giveUp : Bool} {s : State} (h : Upto
    m s0 s) (hm : Sub 0x4dbc80080 m) :
    Upto m s0 (castSource file giveUp s) := by
  unfold castSource
  try dsimp only
  repeat' first
    | with_reducible assumption
    | ((with_reducible refine Sub.of hm ?_); rfl)
    | with_reducible apply castFlash_upto
    | with_reducible apply bootFrom_upto
    | with_reducible apply castFail_upto
    | with_reducible apply modSec_upto
    | with_reducible apply setMode_upto
    | with_reducible apply Upto.ite
    | fail_if_no_progress with_reducible refine Upto.pwr_set ?_ (hm.bit rfl)
    | split

theorem castLeave_upto {m : Nat} {s0 : State} {s : State} (h : Upto m s0 s) (hm : Sub 0xdbc80080 m) :
    Upto m s0 (castLeave s) := by
  unfold castLeave
  try dsimp only
  repeat' first
    | with_reducible assumption
    | ((with_reducible refine Sub.of hm ?_); rfl)
    | with_reducible apply modSec_upto
    | with_reducible apply setMode_upto
    | with_reducible apply toStandby_upto
    | with_reducible apply Upto.ite
    | fail_if_no_progress with_reducible refine Upto.pwr_set ?_ (hm.bit rfl)

theorem execCastOn_upto {m : Nat} {s0 : State} {ok : Bool} {file : Option (List Byte)} {giveUp : Bool} {s :
    State} (h : Upto m s0 s) (hm : Sub 0x4dbc80082 m) :
    OutUpto m s0 (execCastOn ok file giveUp s) := by
  unfold execCastOn
  try dsimp only
  repeat' first
    | with_reducible assumption
    | ((with_reducible refine Sub.of hm ?_); rfl)
    | with_reducible apply modSec_upto
    | with_reducible apply castFail_upto
    | with_reducible apply castLedger_upto
    | with_reducible apply castSource_upto
    | with_reducible apply castLeave_upto
    | with_reducible apply Upto.ite
    | with_reducible apply OutUpto.next
    | with_reducible apply OutUpto.ite
    | split

end Sys2Proof.Machine
end

