-- ==== Sys2Proof/Laws/UptoReadReg.lean ====
section
/-! SUPPORT. What each operation of Machine/ReadReg.lean leaves unchanged (Laws/Upto.lean). -/

set_option linter.unusedTactic false
set_option linter.unreachableTactic false

namespace Sys2Proof.Machine

theorem takingRead_upto {m : Nat} {s0 s : State} {r : Reg} {i w req : Nat} {f : State → State × Option Berr}
    (e : takingRead r i w req = some f) (h : Upto m s0 s) (hm : Sub 0x284380003 m) : Upto m s0 (f s).1 := by
  unfold takingRead at e
  split at e
  · cases e
  · split at e <;> cases e
    · exact tinServe_upto h (hm.of rfl)
    · exact mbxServe_upto h (hm.of rfl)
    · exact semServe_upto h (hm.of rfl)
    · exact randServe_upto h (hm.of rfl)
    · exact lossServe_upto h (hm.of rfl)
    · show Upto m s0 (claimServe req i s)
      exact claimServe_upto h (hm.of rfl)

theorem readReg_upto {m : Nat} {s0 : State} {r : Reg} {fr : Nat} {i : Nat} {w : Nat} {req : Nat} {s : State} (h
    : Upto m s0 s) (hm : Sub 0x284380003 m) :
    Upto m s0 (readReg r fr i w req s).2.1 := by
  unfold readReg
  try dsimp only
  repeat' first
    | with_reducible assumption
    | ((with_reducible refine Sub.of hm ?_); rfl)
    | with_reducible apply served_upto
    | with_reducible apply latchWords_upto
    | with_reducible apply takingRead_upto
    | with_reducible apply Upto.ite
    | split

end Sys2Proof.Machine
end

