-- ==== Sys2Proof/Laws/UptoRld.lean ====
section
/-! SUPPORT. What each operation of Machine/Rld.lean leaves unchanged (Laws/Upto.lean). -/

set_option linter.unusedTactic false
set_option linter.unreachableTactic false

namespace Sys2Proof.Machine

theorem accAnswer_upto {m : Nat} {s0 : State} {req : Nat} {a : Nat} {write : Bool} {x : MemRes × State} (h :
    Upto m s0 (x).2) (hm : Sub 0x280000000 m) :
    Upto m s0 (accAnswer req a write x) := by
  unfold accAnswer
  try dsimp only
  repeat' first
    | with_reducible assumption
    | ((with_reducible refine Sub.of hm ?_); rfl)
    | with_reducible apply accErr_upto
    | with_reducible apply answer_upto
    | with_reducible apply Upto.ite
    | with_reducible refine Upto.snd (by assumption) ?_
    | split

theorem execRldRead_upto {m : Nat} {s0 : State} {req : Req} {addr : BitVec 48} {bits : Nat} {e : RldErr} {s :
    State} (h : Upto m s0 s) (hm : Sub 0x2ad7c80880 m) :
    OutUpto m s0 (execRldRead req addr bits e s) := by
  unfold execRldRead
  try dsimp only
  repeat' first
    | with_reducible assumption
    | ((with_reducible refine Sub.of hm ?_); rfl)
    | with_reducible apply rldUpset_upto
    | with_reducible apply accAnswer_upto
    | with_reducible apply memRead_upto
    | with_reducible apply OutUpto.next
    | with_reducible apply OutUpto.ite

theorem execRldWrite_upto {m : Nat} {s0 : State} {req : Req} {addr : BitVec 48} {bits : Nat} {data : Native} {e
    : RldErr} {s : State} (h : Upto m s0 s) (hm : Sub 0x2ed7c80880 m) :
    OutUpto m s0 (execRldWrite req addr bits data e s) := by
  unfold execRldWrite
  try dsimp only
  repeat' first
    | with_reducible assumption
    | ((with_reducible refine Sub.of hm ?_); rfl)
    | with_reducible apply rldUpset_upto
    | with_reducible apply accAnswer_upto
    | with_reducible apply memWrite_upto
    | with_reducible apply OutUpto.next
    | with_reducible apply OutUpto.ite

theorem execRdWindowEnd_upto {m : Nat} {s0 : State} {ch : Fin 16} {s : State} (h : Upto m s0 s) (hm : Sub
    0x2000000000 m) :
    OutUpto m s0 (execRdWindowEnd ch s) := by
  unfold execRdWindowEnd
  try dsimp only
  repeat' first
    | with_reducible assumption
    | with_reducible apply modMch_upto
    | with_reducible apply OutUpto.next

theorem execBayReady_upto {m : Nat} {s0 : State} {bay : Fin 4} {s : State} (h : Upto m s0 s) (hm : Sub
    0x2080480000 m) :
    OutUpto m s0 (execBayReady bay s) := by
  unfold execBayReady
  try dsimp only
  repeat' first
    | with_reducible assumption
    | intro _
    | ((with_reducible refine Sub.of hm ?_); rfl)
    | with_reducible apply modMch_upto
    | with_reducible apply setBay_upto
    | with_reducible apply Upto.forEach
    | with_reducible apply OutUpto.next
    | with_reducible apply OutUpto.ite

theorem execRldRefresh_upto {m : Nat} {s0 : State} {ch : Fin 16} {s : State} (h : Upto m s0 s) (hm : Sub
    0x2000000000 m) :
    OutUpto m s0 (execRldRefresh ch s) := by
  unfold execRldRefresh
  try dsimp only
  repeat' first
    | with_reducible assumption
    | with_reducible apply modMch_upto
    | with_reducible apply OutUpto.next
    | with_reducible apply OutUpto.ite

theorem scrubWord_upto {m : Nat} {s0 : State} {c : Nat} {e : RldErr} {x : Nat} {s : State} (h : Upto m s0 s) (hm
    : Sub 0x20d7c80880 m) :
    Upto m s0 (scrubWord c e x s) := by
  unfold scrubWord
  try dsimp only
  repeat' first
    | with_reducible assumption
    | with_reducible apply rldReadAt_upto
    | with_reducible apply Upto.ite

theorem execRldScrub_upto {m : Nat} {s0 : State} {ch : Fin 16} {e : RldErr} {s : State} (h : Upto m s0 s) (hm :
    Sub 0x20d7c80880 m) :
    OutUpto m s0 (execRldScrub ch e s) := by
  unfold execRldScrub
  try dsimp only
  repeat' first
    | with_reducible assumption
    | intro _
    | ((with_reducible refine Sub.of hm ?_); rfl)
    | with_reducible apply rldUpset_upto
    | with_reducible apply activate_upto
    | with_reducible apply modMch_upto
    | with_reducible apply scrubWord_upto
    | with_reducible apply Upto.forEach
    | with_reducible apply OutUpto.next
    | with_reducible apply OutUpto.ite
    | split

theorem forcedStart_upto {m : Nat} {s0 : State} {c : Nat} {s : State} (h : Upto m s0 s) (hm : Sub 0x2080480000
    m) :
    Upto m s0 (forcedStart c s) := by
  unfold forcedStart
  try dsimp only
  repeat' first
    | with_reducible assumption
    | ((with_reducible refine Sub.of hm ?_); rfl)
    | with_reducible apply modMch_upto
    | with_reducible apply raise_upto
    | with_reducible apply bump_upto

theorem retrainAct_upto {m : Nat} {s0 : State} {c : Nat} {n : Nat} {s : State} (h : Upto m s0 s) (hm : Sub
    0x2080000000 m) :
    Upto m s0 (retrainAct c n s) := by
  unfold retrainAct
  try dsimp only
  repeat' first
    | with_reducible assumption
    | ((with_reducible refine Sub.of hm ?_); rfl)
    | with_reducible apply bump_upto
    | with_reducible apply modMch_upto
    | with_reducible apply Upto.ite

theorem execRetrainPauseEnd_upto {m : Nat} {s0 : State} {ch : Fin 16} {ok : Bool} {s : State} (h : Upto m s0 s)
    (hm : Sub 0x20d3c80080 m) :
    OutUpto m s0 (execRetrainPauseEnd ch ok s) := by
  unfold execRetrainPauseEnd
  try dsimp only
  repeat' first
    | with_reducible assumption
    | ((with_reducible refine Sub.of hm ?_); rfl)
    | with_reducible apply tally_upto
    | with_reducible apply bump_upto
    | with_reducible apply modMch_upto
    | with_reducible apply report_upto
    | with_reducible apply forcedStart_upto
    | with_reducible apply Upto.ite
    | with_reducible apply OutUpto.next
    | split

theorem setDrift_upto {m : Nat} {s0 : State} {c : Nat} {drift : Nat} {s : State} (h : Upto m s0 s) (hm : Sub
    0x2000000000 m) :
    Upto m s0 (setDrift c drift s) := by
  unfold setDrift
  try dsimp only
  repeat' first
    | with_reducible assumption
    | with_reducible apply modMch_upto

theorem execForcedRetrain_upto {m : Nat} {s0 : State} {ch : Fin 16} {drift : BitVec 8} {s : State} (h : Upto m
    s0 s) (hm : Sub 0x2080480000 m) :
    OutUpto m s0 (execForcedRetrain ch drift s) := by
  unfold execForcedRetrain
  try dsimp only
  repeat' first
    | with_reducible assumption
    | ((with_reducible refine Sub.of hm ?_); rfl)
    | with_reducible apply setDrift_upto
    | with_reducible apply modMch_upto
    | with_reducible apply forcedStart_upto
    | with_reducible apply OutUpto.next
    | with_reducible apply OutUpto.ite

theorem bayWipe_upto {m : Nat} {s0 : State} {b : Nat} {s : State} (h : Upto m s0 s) (hm : Sub 0x2080000000 m) :
    Upto m s0 (bayWipe b s) := by
  unfold bayWipe
  try dsimp only
  repeat' first
    | with_reducible assumption
    | intro _
    | ((with_reducible refine Sub.of hm ?_); rfl)
    | with_reducible apply modMem_upto
    | with_reducible apply setRword_upto
    | with_reducible apply Upto.forEach
    | (constructor
       all_goals first
         | exact fun _ => rfl
         | exact fun _ => ⟨rfl, rfl⟩
         | exact fun _ => ⟨rfl, rfl, rfl, rfl, rfl⟩
         | (intro k; exact absurd ((hm.bit rfl).symm.trans k) (by decide))
         | (intro w; rw [Memory.wf_iff] at *; obtain ⟨w1, w2, w3, w4, w5, w6, w7, w8, w9, w10⟩ := w
            refine ⟨?_, ?_, ?_, ?_, ?_, ?_, ?_, ?_, ?_, ?_⟩
            all_goals try dsimp only
            all_goals first
              | assumption
              | (apply tabWf_tabSet; assumption)
              | (apply tabWf_tabErase; assumption)
              | (apply tabWf_tabMod; assumption)
              | (apply tabWf_filter; assumption)))

theorem restoreEffect_upto {m : Nat} {s0 : State} {b : Nat} {s : State} (h : Upto m s0 s) (hm : Sub 0x2080484000
    m) :
    Upto m s0 (restoreEffect b s) := by
  unfold restoreEffect
  try dsimp only
  repeat' first
    | with_reducible assumption
    | ((with_reducible refine Sub.of hm ?_); rfl)
    | with_reducible apply bayReturn_upto
    | with_reducible apply bayWipe_upto
    | with_reducible apply setBay_upto

theorem bayCmdEffect_upto {m : Nat} {s0 : State} {b : Nat} {req : Nat} {v : List Nat} {s : State} (h : Upto m s0
    s) (hm : Sub 0x20d7c84880 m) :
    Upto m s0 (bayCmdEffect b req v s) := by
  unfold bayCmdEffect
  try dsimp only
  repeat' first
    | with_reducible assumption
    | ((with_reducible refine Sub.of hm ?_); rfl)
    | with_reducible apply restoreEffect_upto
    | with_reducible apply bayFreeze_upto
    | with_reducible apply Upto.ite

theorem execRldRestore_upto {m : Nat} {s0 : State} {req : Req} {bay : Fin 4} {s : State} (h : Upto m s0 s) (hm :
    Sub 0x23d7c84880 m) :
    OutUpto m s0 (execRldRestore req bay s) := by
  unfold execRldRestore
  try dsimp only
  repeat' first
    | with_reducible assumption
    | intro _
    | ((with_reducible refine Sub.of hm ?_); rfl)
    | with_reducible apply regCommit_upto
    | with_reducible apply bayCmdEffect_upto
    | with_reducible apply OutUpto.next

theorem execRldFreeze_upto {m : Nat} {s0 : State} {req : Req} {bay : Fin 4} {s : State} (h : Upto m s0 s) (hm :
    Sub 0x23d7c84880 m) :
    OutUpto m s0 (execRldFreeze req bay s) := by
  unfold execRldFreeze
  try dsimp only
  repeat' first
    | with_reducible assumption
    | intro _
    | ((with_reducible refine Sub.of hm ?_); rfl)
    | with_reducible apply regCommit_upto
    | with_reducible apply bayCmdEffect_upto
    | with_reducible apply OutUpto.next

theorem diagStart_upto {m : Nat} {s0 : State} {b : Nat} {v : List Nat} {s : State} (h : Upto m s0 s) (hm : Sub
    0x2080000000 m) :
    Upto m s0 (diagStart b v s) := by
  unfold diagStart
  try dsimp only
  repeat' first
    | with_reducible assumption
    | intro _
    | ((with_reducible refine Sub.of hm ?_); rfl)
    | with_reducible apply setRword_upto
    | with_reducible apply modMem_upto
    | with_reducible apply Upto.forEach
    | (constructor
       all_goals first
         | exact fun _ => rfl
         | exact fun _ => ⟨rfl, rfl⟩
         | exact fun _ => ⟨rfl, rfl, rfl, rfl, rfl⟩
         | (intro k; exact absurd ((hm.bit rfl).symm.trans k) (by decide))
         | (intro w; rw [Memory.wf_iff] at *; obtain ⟨w1, w2, w3, w4, w5, w6, w7, w8, w9, w10⟩ := w
            refine ⟨?_, ?_, ?_, ?_, ?_, ?_, ?_, ?_, ?_, ?_⟩
            all_goals try dsimp only
            all_goals first
              | assumption
              | (apply tabWf_tabSet; assumption)
              | (apply tabWf_tabErase; assumption)
              | (apply tabWf_tabMod; assumption)
              | (apply tabWf_filter; assumption)))

theorem execMchDiagaWrite_upto {m : Nat} {s0 : State} {bay : Fin 4} {a : Acc} {s : State} (h : Upto m s0 s) (hm
    : Sub 0x2380000000 m) :
    OutUpto m s0 (execMchDiagaWrite bay a s) := by
  unfold execMchDiagaWrite
  try dsimp only
  repeat' first
    | with_reducible assumption
    | intro _
    | ((with_reducible refine Sub.of hm ?_); rfl)
    | with_reducible apply regCommit_upto
    | with_reducible apply diagStart_upto
    | with_reducible apply OutUpto.next

theorem diagDone_upto {m : Nat} {s0 : State} {b x raw : Nat} {tmo : Bool} {s : State} (h : Upto m s0 s)
    (hm : Sub 0x2080000000 m) : Upto m s0 (diagDone b x raw tmo s) := by
  unfold diagDone
  try dsimp only
  repeat' first
    | with_reducible assumption
    | ((with_reducible refine Sub.of hm ?_); rfl)
    | with_reducible apply setFld_upto
    | with_reducible apply setRword_upto
    | with_reducible apply modMem_upto
    | with_reducible apply Upto.ite
    | intro _
    | (constructor
       all_goals first
         | exact fun _ => rfl
         | exact fun _ => ⟨rfl, rfl⟩
         | exact fun _ => ⟨rfl, rfl, rfl, rfl, rfl⟩
         | (intro k; exact absurd ((hm.bit rfl).symm.trans k) (by decide))
         | (intro w; rw [Memory.wf_iff] at *; obtain ⟨w1, w2, w3, w4, w5, w6, w7, w8, w9, w10⟩ := w
            refine ⟨?_, ?_, ?_, ?_, ?_, ?_, ?_, ?_, ?_, ?_⟩
            all_goals try dsimp only
            all_goals first
              | assumption
              | (apply tabWf_tabSet; assumption)
              | (apply tabWf_tabErase; assumption)
              | (apply tabWf_tabMod; assumption)
              | (apply tabWf_filter; assumption)))
    | split

theorem execDiagReadComplete_upto {m : Nat} {s0 : State} {bay : Fin 4} {upsets : List (Nat × BitVec 80)} {flip :
    BitVec 80} {tmo : Bool} {s : State} (h : Upto m s0 s) (hm : Sub 0x2080000000 m) :
    OutUpto m s0 (execDiagReadComplete bay upsets flip tmo s) := by
  unfold execDiagReadComplete
  try dsimp only
  repeat' first
    | with_reducible assumption
    | ((with_reducible refine Sub.of hm ?_); rfl)
    | with_reducible apply rldUpset_upto
    | with_reducible apply diagDone_upto
    | with_reducible apply modMem_upto
    | with_reducible apply setFld_upto
    | with_reducible apply setRword_upto
    | with_reducible apply OutUpto.next
    | with_reducible apply OutUpto.ite
    | (constructor
       all_goals first
         | exact fun _ => rfl
         | exact fun _ => ⟨rfl, rfl⟩
         | exact fun _ => ⟨rfl, rfl, rfl, rfl, rfl⟩
         | (intro k; exact absurd ((hm.bit rfl).symm.trans k) (by decide))
         | (intro w; rw [Memory.wf_iff] at *; obtain ⟨w1, w2, w3, w4, w5, w6, w7, w8, w9, w10⟩ := w
            refine ⟨?_, ?_, ?_, ?_, ?_, ?_, ?_, ?_, ?_, ?_⟩
            all_goals try dsimp only
            all_goals first
              | assumption
              | (apply tabWf_tabSet; assumption)
              | (apply tabWf_tabErase; assumption)
              | (apply tabWf_tabMod; assumption)
              | (apply tabWf_filter; assumption)))
    | split

theorem execTrainingFailure_upto {m : Nat} {s0 : State} {ch : Fin 16} {s : State} (h : Upto m s0 s) (hm : Sub
    0x20d7c80880 m) :
    OutUpto m s0 (execTrainingFailure ch s) := by
  unfold execTrainingFailure
  try dsimp only
  repeat' first
    | with_reducible assumption
    | with_reducible apply bayFreeze_upto
    | with_reducible apply OutUpto.next
    | with_reducible apply OutUpto.ite

end Sys2Proof.Machine
end

