-- ==== Sys2Proof/Laws/UptoControl.lean ====
section
/-! SUPPORT. What each operation of Machine/Control.lean leaves unchanged (Laws/Upto.lean). -/

set_option linter.unusedTactic false
set_option linter.unreachableTactic false

namespace Sys2Proof.Machine

/-- The effect of a register's rules. -/
structure RulesUpto (m : Nat) (s0 : State) (x : RegRules) : Prop where
  eff : ∀ v s, Upto m s0 s → Upto m s0 (x.eff v s)

theorem sysRules_upto {m : Nat} {s0 : State} {r : Reg} {req : Nat} {fr : Nat} {s : State} (hm : Sub 0x3cf7c85a87
    m) :
    RulesUpto m s0 (sysRules r req fr s) := by
  unfold sysRules
  try dsimp only
  repeat' first
    | with_reducible assumption
    | intro _
    | ((with_reducible refine Sub.of hm ?_); rfl)
    | with_reducible apply plLoad_upto
    | with_reducible apply takeFree_upto
    | with_reducible apply plUnload_upto
    | with_reducible apply keyReqEffect_upto
    | with_reducible apply decCfgEffect_upto
    | with_reducible apply rckCtrlEffect_upto
    | with_reducible apply rckCmdEffect_upto
    | with_reducible apply fmtEffect_upto
    | with_reducible apply slotCommit_upto
    | with_reducible apply ptpCfgEffect_upto
    | with_reducible apply Upto.ite
    | with_reducible apply RulesUpto.mk
    | split

theorem ndlCmdEffect_upto {m : Nat} {s0 : State} {n : Nat} {v : List Nat} {s : State} (h : Upto m s0 s) (hm :
    Sub 0x80480080 m) :
    Upto m s0 (ndlCmdEffect n v s) := by
  unfold ndlCmdEffect
  try dsimp only
  repeat' first
    | with_reducible assumption
    | ((with_reducible refine Sub.of hm ?_); rfl)
    | with_reducible apply haltEffect_upto
    | with_reducible apply resumeEffect_upto
    | with_reducible apply askAbort_upto
    | with_reducible apply hstartEffect_upto
    | split

theorem laneRules_upto {m : Nat} {s0 : State} {r : Reg} {fr : Nat} {i : Nat} {s : State} (hm : Sub 0xd3c800f8 m)
    :
    RulesUpto m s0 (laneRules r fr i s) := by
  unfold laneRules
  try dsimp only
  repeat' first
    | with_reducible assumption
    | intro _
    | ((with_reducible refine Sub.of hm ?_); rfl)
    | with_reducible apply laneCtrlEffect_upto
    | with_reducible apply txwEffect_upto
    | with_reducible apply lfiCfgEffect_upto
    | with_reducible apply lfiFlushed_upto
    | with_reducible apply modSwt_upto
    | with_reducible apply ndlCmdEffect_upto
    | with_reducible apply bellEffect_upto
    | with_reducible apply RulesUpto.mk
    | split

theorem memRules_upto {m : Nat} {s0 : State} {r : Reg} {req : Nat} {fr : Nat} {i : Nat} {s : State} (hm : Sub
    0x20d7c84880 m) :
    RulesUpto m s0 (memRules r req fr i s) := by
  unfold memRules
  try dsimp only
  repeat' first
    | with_reducible assumption
    | intro _
    | ((with_reducible refine Sub.of hm ?_); rfl)
    | with_reducible apply bayCmdEffect_upto
    | with_reducible apply diagStart_upto
    | with_reducible apply setDrift_upto
    | with_reducible apply poolFresh_upto
    | with_reducible apply stlPerform_upto
    | with_reducible apply revokeEffect_upto
    | with_reducible apply prtCtlEffect_upto
    | with_reducible apply prtDescEffect_upto
    | with_reducible apply prtCmdEffect_upto
    | with_reducible apply Upto.ite
    | with_reducible apply RulesUpto.mk
    | split

theorem netRules_upto {m : Nat} {s0 : State} {r : Reg} {req : Nat} {fr : Nat} {i : Nat} {s : State} (hm : Sub
    0x28d7cbc881 m) :
    RulesUpto m s0 (netRules r req fr i s) := by
  unfold netRules
  try dsimp only
  repeat' first
    | with_reducible assumption
    | intro _
    | ((with_reducible refine Sub.of hm ?_); rfl)
    | with_reducible apply ethCfgEffect_upto
    | with_reducible apply sswCqEffect_upto
    | with_reducible apply sswTxEffect_upto
    | with_reducible apply ctEntryEffect_upto
    | with_reducible apply ftCmdEffect_upto
    | with_reducible apply egBktEffect_upto
    | with_reducible apply egPolEffect_upto
    | with_reducible apply magCfgEffect_upto
    | with_reducible apply magCmdEffect_upto
    | with_reducible apply RulesUpto.mk
    | split

theorem ictRules_upto {m : Nat} {s0 : State} {r : Reg} {req : Nat} {i : Nat} {s : State} (hm : Sub 0x8d7f80080
    m) :
    RulesUpto m s0 (ictRules r req i s) := by
  unfold ictRules
  try dsimp only
  repeat' first
    | with_reducible assumption
    | intro _
    | ((with_reducible refine Sub.of hm ?_); rfl)
    | with_reducible apply ictCtrlEffect_upto
    | with_reducible apply ictScfgEffect_upto
    | with_reducible apply ictSettle_upto
    | with_reducible apply completeEffect_upto
    | with_reducible apply swiEffect_upto
    | with_reducible apply mbxMsgEffect_upto
    | with_reducible apply mbxCfgEffect_upto
    | with_reducible apply semWriteZero_upto
    | with_reducible apply semRevokeEffect_upto
    | with_reducible apply RulesUpto.mk
    | split

theorem pwrRules_upto {m : Nat} {s0 : State} {r : Reg} {req : Nat} {i : Nat} {s : State} (hm : Sub 0x3fffffffff
    m) :
    RulesUpto m s0 (pwrRules r req i s) := by
  unfold pwrRules
  try dsimp only
  repeat' first
    | with_reducible assumption
    | intro _
    | ((with_reducible refine Sub.of hm ?_); rfl)
    | with_reducible apply bootGoEffect_upto
    | with_reducible apply secHold_upto
    | with_reducible apply modeCommand_upto
    | with_reducible apply domReqEffect_upto
    | with_reducible apply isoClear_upto
    | with_reducible apply enterCastOn_upto
    | with_reducible apply fclSevEffect_upto
    | with_reducible apply fclClear_upto
    | with_reducible apply ldgPush_upto
    | with_reducible apply tallyAdd_upto
    | with_reducible apply histBump_upto
    | with_reducible apply snapDue_upto
    | with_reducible apply RulesUpto.mk
    | split

theorem setRra_upto {m : Nat} {s0 : State} {req : Nat} {x : Rra} {s : State} (h : Upto m s0 s) (hm : Sub
    0x4000000 m) :
    Upto m s0 (setRra req x s) := by
  unfold setRra
  try dsimp only
  repeat' first
    | with_reducible assumption
    | with_reducible apply modSth_upto

theorem rraEnd_upto {m : Nat} {s0 : State} {req : Nat} {result : Nat} {cause : Nat} {data : Nat} {s : State} (h
    : Upto m s0 s) (hm : Sub 0x4000000 m) :
    Upto m s0 (rraEnd req result cause data s) := by
  unfold rraEnd
  try dsimp only
  repeat' first
    | with_reducible assumption
    | with_reducible apply setRra_upto

theorem rraBegin_upto {m : Nat} {s0 : State} {self : Nat → Bool → Nat → Nat → Nat → State → Nat × State × Option
    Berr} {req : Nat} {v : List Nat} {s : State} (h : Upto m s0 s) (hself : ∀ x0 x1 x2 x3 x4 x5, Upto m s0 x5 → Upto
    m s0 (self x0 x1 x2 x3 x4 x5).2.1) (hm : Sub 0x4000000 m) :
    Upto m s0 (rraBegin self req v s) := by
  unfold rraBegin
  try dsimp only
  repeat' first
    | with_reducible assumption
    | with_reducible apply rraEnd_upto
    | with_reducible apply setRra_upto
    | with_reducible apply sendMsg_upto
    | with_reducible apply hself
    | with_reducible apply Upto.ite
    | with_reducible refine Upto.mid (by assumption) ?_
    | split

theorem sthRules_upto {m : Nat} {s0 : State} {self : Nat → Bool → Nat → Nat → Nat → State → Nat × State × Option
    Berr} {r : Reg} {req : Nat} {fr : Nat} {i : Nat} {s : State} (hself : ∀ x0 x1 x2 x3 x4 x5, Upto m s0 x5 → Upto m
    s0 (self x0 x1 x2 x3 x4 x5).2.1) (hm : Sub 0xd7c80082 m) :
    RulesUpto m s0 (sthRules self r req fr i s) := by
  unfold sthRules
  try dsimp only
  repeat' first
    | with_reducible assumption
    | intro _
    | ((with_reducible refine Sub.of hm ?_); rfl)
    | with_reducible apply sthCtrlEffect_upto
    | with_reducible apply rraBegin_upto
    | with_reducible apply sthTchEffect_upto
    | with_reducible apply admitEffect_upto
    | with_reducible apply sthmPlaceEffect_upto
    | with_reducible apply RulesUpto.mk
    | split

theorem regRules_upto {m : Nat} {s0 : State} {self : Nat → Bool → Nat → Nat → Nat → State → Nat × State × Option
    Berr} {r : Reg} {req : Nat} {fr : Nat} {i : Nat} {s : State} (hself : ∀ x0 x1 x2 x3 x4 x5, Upto m s0 x5 → Upto m
    s0 (self x0 x1 x2 x3 x4 x5).2.1) (hm : Sub 0x3fffffffff m) :
    RulesUpto m s0 (regRules self r req fr i s) := by
  unfold regRules
  split
  all_goals first
    | exact sysRules_upto (hm.of rfl)
    | exact laneRules_upto (hm.of rfl)
    | exact memRules_upto (hm.of rfl)
    | exact netRules_upto (hm.of rfl)
    | exact ictRules_upto (hm.of rfl)
    | exact sthRules_upto hself (hm.of rfl)
    | exact pwrRules_upto (hm.of rfl)
    | exact ⟨fun _ _ h => h⟩

theorem keyWrite_upto {m : Nat} {s0 : State} {f : Nat} {req : Nat} {data : Nat} {s : State} (h : Upto m s0 s)
    (hm : Sub 0x300000000 m) :
    Upto m s0 (keyWrite f req data s).1 := by
  unfold keyWrite
  try dsimp only
  repeat' first
    | with_reducible assumption
    | ((with_reducible refine Sub.of hm ?_); rfl)
    | with_reducible apply served_upto
    | with_reducible apply keyGrant_upto
    | with_reducible apply keyReject_upto
    | split

theorem regRules_eff_upto {m : Nat} {s0 t s : State}
    {self : Nat → Bool → Nat → Nat → Nat → State → Nat × State × Option Berr} {r : Reg} {req fr i : Nat} {v : List Nat}
    (h : Upto m s0 s)
    (hself : ∀ x0 x1 x2 x3 x4 x5, Upto m s0 x5 → Upto m s0 (self x0 x1 x2 x3 x4 x5).2.1) (hm : Sub 0x3fffffffff m) :
    Upto m s0 ((regRules self r req fr i t).eff v s) := (regRules_upto hself (hm.of rfl)).eff v s h

theorem ctlWriteWord_upto {m : Nat} {s0 : State} {self : Nat → Bool → Nat → Nat → Nat → State → Nat × State ×
    Option Berr} {req : Req} {off : Nat} {data : Nat} {s : State} (h : Upto m s0 s) (hself : ∀ x0 x1 x2 x3 x4 x5,
    Upto m s0 x5 → Upto m s0 (self x0 x1 x2 x3 x4 x5).2.1) (hm : Sub 0x3fffffffff m) :
    Upto m s0 (ctlWriteWord self req off data s).1 := by
  unfold ctlWriteWord
  try dsimp only
  repeat' first
    | with_reducible assumption
    | intro _
    | ((with_reducible refine Sub.of hm ?_); rfl)
    | with_reducible apply keyWrite_upto
    | with_reducible apply writeReg_upto
    | with_reducible apply served_upto
    | with_reducible apply regRules_eff_upto
    | split

theorem ctlReadWord_upto {m : Nat} {s0 : State} {req : Nat} {off : Nat} {s : State} (h : Upto m s0 s) (hm : Sub
    0x284380003 m) :
    Upto m s0 (ctlReadWord req off s).2.1 := by
  unfold ctlReadWord
  try dsimp only
  repeat' first
    | with_reducible assumption
    | ((with_reducible refine Sub.of hm ?_); rfl)
    | with_reducible apply served_upto
    | with_reducible apply readReg_upto
    | split

theorem ctlWriteWith_upto {m : Nat} {s0 : State} {self : Nat → Bool → Nat → Nat → Nat → State → Nat × State ×
    Option Berr} {req : Req} {off : Nat} {bytes : Nat} {data : Nat} {s : State} (h : Upto m s0 s) (hself : ∀ x0 x1
    x2 x3 x4 x5, Upto m s0 x5 → Upto m s0 (self x0 x1 x2 x3 x4 x5).2.1) (hm : Sub 0x3fffffffff m) :
    Upto m s0 (ctlWriteWith self req off bytes data s).1 := by
  unfold ctlWriteWith
  try dsimp only
  repeat' first
    | with_reducible assumption
    | with_reducible apply ctlWriteWord_upto
    | split

theorem ctlRead_upto {m : Nat} {s0 : State} {req : Nat} {off : Nat} {bytes : Nat} {s : State} (h : Upto m s0 s)
    (hm : Sub 0x284380003 m) :
    Upto m s0 (ctlRead req off bytes s).2.1 := by
  unfold ctlRead
  try dsimp only
  repeat' first
    | with_reducible assumption
    | with_reducible apply ctlReadWord_upto
    | split

theorem raRecord_upto {m : Nat} {s0 : State} {dev : Nat} {req : Nat} {wr : Bool} {off : Nat} {s : State} (h :
    Upto m s0 s) (hm : Sub 0x80000000 m) :
    Upto m s0 (raRecord dev req wr off s) := by
  unfold raRecord
  try dsimp only
  repeat' first
    | with_reducible assumption
    | with_reducible apply setRword_upto

theorem ctlPerform_upto {m : Nat} {s0 : State} {self : Nat → Bool → Nat → Nat → Nat → State → Nat × State ×
    Option Berr} {req : Nat} {wr : Bool} {bytes : Nat} {off : Nat} {data : Nat} {s : State} (h : Upto m s0 s) (hself
    : ∀ x0 x1 x2 x3 x4 x5, Upto m s0 x5 → Upto m s0 (self x0 x1 x2 x3 x4 x5).2.1) (hm : Sub 0x3fffffffff m) :
    Upto m s0 (ctlPerform self req wr bytes off data s).2.1 := by
  unfold ctlPerform
  try dsimp only
  repeat' first
    | with_reducible assumption
    | ((with_reducible refine Sub.of hm ?_); rfl)
    | with_reducible apply ctlWriteWith_upto
    | with_reducible apply accessEnd_upto
    | with_reducible apply ctlRead_upto
    | split

theorem selfNever_upto {m : Nat} {s0 : State} {a0 : Nat} {a1 : Bool} {a2 : Nat} {a3 : Nat} {a4 : Nat} {s :
    State} (h : Upto m s0 s) :
    Upto m s0 (selfNever a0 a1 a2 a3 a4 s).2.1 := by
  unfold selfNever
  try dsimp only
  with_reducible assumption

theorem selfAccess_upto {m : Nat} {s0 : State} {req : Nat} {wr : Bool} {bytes : Nat} {off : Nat} {data : Nat} {s
    : State} (h : Upto m s0 s) (hm : Sub 0x3fffffffff m) :
    Upto m s0 (selfAccess req wr bytes off data s).2.1 := by
  unfold selfAccess
  try dsimp only
  repeat' first
    | with_reducible assumption
    | intro _
    | ((with_reducible refine Sub.of hm ?_); rfl)
    | with_reducible apply ctlPerform_upto
    | with_reducible apply selfNever_upto
    | with_reducible apply raRecord_upto

theorem ctlWrite_upto {m : Nat} {s0 : State} {req : Req} {off : Nat} {bytes : Nat} {data : Nat} {s : State} (h :
    Upto m s0 s) (hm : Sub 0x3fffffffff m) :
    Upto m s0 (ctlWrite req off bytes data s).1 := by
  unfold ctlWrite
  try dsimp only
  repeat' first
    | with_reducible assumption
    | intro _
    | with_reducible apply ctlWriteWith_upto
    | with_reducible apply selfAccess_upto

theorem execRegisterWrite_upto {m : Nat} {s0 : State} {req : Req} {off : BitVec 24} {bytes : Nat} {data : DWord}
    {s : State} (h : Upto m s0 s) (hm : Sub 0x3fffffffff m) :
    OutUpto m s0 (execRegisterWrite req off bytes data s) := by
  unfold execRegisterWrite
  try dsimp only
  repeat' first
    | with_reducible assumption
    | ((with_reducible refine Sub.of hm ?_); rfl)
    | with_reducible apply accessEnd_upto
    | with_reducible apply ctlWrite_upto
    | with_reducible apply OutUpto.next

theorem execKeylockWrite_upto {m : Nat} {s0 : State} {req : Req} {frame : Fin 1024} {data : Word} {s : State} (h
    : Upto m s0 s) (hm : Sub 0x3fffffffff m) :
    OutUpto m s0 (execKeylockWrite req frame data s) := by
  unfold execKeylockWrite
  try dsimp only
  repeat' first
    | with_reducible assumption
    | ((with_reducible refine Sub.of hm ?_); rfl)
    | with_reducible apply accessEnd_upto
    | with_reducible apply ctlWrite_upto
    | with_reducible apply OutUpto.next

theorem noteUnlock_upto {m : Nat} {s0 : State} {x : RraWait} {s : State} (h : Upto m s0 s) (hm : Sub 0x4000000
    m) :
    Upto m s0 (noteUnlock x s) := by
  unfold noteUnlock
  try dsimp only
  repeat' first
    | with_reducible assumption
    | with_reducible apply modSth_upto
    | with_reducible apply Upto.ite

theorem rraPerform_upto {m : Nat} {s0 : State} {x : RraWait} {s : State} (h : Upto m s0 s) (hm : Sub
    0x3fffffffff m) :
    Upto m s0 (rraPerform x s) := by
  unfold rraPerform
  try dsimp only
  repeat' first
    | with_reducible assumption
    | intro _
    | ((with_reducible refine Sub.of hm ?_); rfl)
    | with_reducible apply raRecord_upto
    | with_reducible apply ctlPerform_upto
    | with_reducible apply selfAccess_upto
    | with_reducible apply noteUnlock_upto
    | with_reducible apply sendMsg_upto
    | split

theorem rraDrain_upto {m : Nat} {s0 : State} {s : State} (h : Upto m s0 s) (hm : Sub 0x3fffffffff m) :
    Upto m s0 (rraDrain s) := by
  unfold rraDrain
  try dsimp only
  repeat' first
    | with_reducible assumption
    | intro _
    | ((with_reducible refine Sub.of hm ?_); rfl)
    | with_reducible apply modSth_upto
    | with_reducible apply rraPerform_upto
    | with_reducible apply Upto.forEach
    | with_reducible apply Upto.ite

theorem execRemoteAccessServe_upto {m : Nat} {s0 : State} {link : Fin 8} {a1 : FlitHdr} {origin : Byte} {wr :
    Bool} {w64 : Bool} {offset : BitVec 24} {data : DWord} {s : State} (h : Upto m s0 s) (hm : Sub 0x3fffffffff m) :
    OutUpto m s0 (execRemoteAccessServe link a1 origin wr w64 offset data s) := by
  unfold execRemoteAccessServe
  try dsimp only
  repeat' first
    | with_reducible assumption
    | intro _
    | ((with_reducible refine Sub.of hm ?_); rfl)
    | with_reducible apply rxOwn_upto
    | with_reducible apply rraDrain_upto
    | with_reducible apply modSth_upto
    | with_reducible apply rraPerform_upto
    | with_reducible apply Upto.ite
    | with_reducible apply OutUpto.next

theorem execUnlockExpire_upto {m : Nat} {s0 : State} {frame : Fin 1024} {s : State} (h : Upto m s0 s) (hm : Sub
    0x3fffffffff m) :
    OutUpto m s0 (execUnlockExpire frame s) := by
  unfold execUnlockExpire
  try dsimp only
  repeat' first
    | with_reducible assumption
    | ((with_reducible refine Sub.of hm ?_); rfl)
    | with_reducible apply rraDrain_upto
    | with_reducible apply keyClose_upto
    | with_reducible apply OutUpto.next
    | with_reducible apply OutUpto.ite

theorem execRemoteAccess_upto {m : Nat} {s0 : State} {req : Req} {data : DWord} {wr : Bool} {w64 : Bool} {dev :
    Fin 64} {offset : BitVec 24} {s : State} (h : Upto m s0 s) (hm : Sub 0x3fffffffff m) :
    OutUpto m s0 (execRemoteAccess req data wr w64 dev offset s) := by
  unfold execRemoteAccess
  try dsimp only
  repeat' first
    | with_reducible assumption
    | intro _
    | ((with_reducible refine Sub.of hm ?_); rfl)
    | with_reducible apply commitWords_upto
    | with_reducible apply rraBegin_upto
    | with_reducible apply selfAccess_upto
    | with_reducible apply OutUpto.next

theorem execRemoteAccessAnswer_upto {m : Nat} {s0 : State} {link : Fin 8} {a1 : FlitHdr} {req : Req} {result :
    BitVec 4} {cause : BitVec 4} {data : DWord} {s : State} (h : Upto m s0 s) (hm : Sub 0x86000000 m) :
    OutUpto m s0 (execRemoteAccessAnswer link a1 req result cause data s) := by
  unfold execRemoteAccessAnswer
  try dsimp only
  repeat' first
    | with_reducible assumption
    | intro _
    | ((with_reducible refine Sub.of hm ?_); rfl)
    | with_reducible apply rxOwn_upto
    | with_reducible apply rraEnd_upto
    | with_reducible apply Upto.ite
    | with_reducible apply OutUpto.next

theorem execRemoteAccessTimeout_upto {m : Nat} {s0 : State} {req : Req} {s : State} (h : Upto m s0 s) (hm : Sub
    0x4000000 m) :
    OutUpto m s0 (execRemoteAccessTimeout req s) := by
  unfold execRemoteAccessTimeout
  try dsimp only
  repeat' first
    | with_reducible assumption
    | with_reducible apply rraEnd_upto
    | with_reducible apply OutUpto.next
    | with_reducible apply OutUpto.ite

theorem parReport_upto {m : Nat} {s0 : State} {off : Nat} {e : Nat × Nat} {s : State} (h : Upto m s0 s) (hm :
    Sub 0x2d3c80080 m) :
    Upto m s0 (parReport off e s) := by
  unfold parReport
  try dsimp only
  repeat' first
    | with_reducible assumption
    | ((with_reducible refine Sub.of hm ?_); rfl)
    | with_reducible apply report_upto
    | with_reducible apply bump_upto
    | with_reducible apply setFld_upto
    | with_reducible apply Upto.ite
    | fail_if_no_progress with_reducible refine Upto.fabric_set ?_ (hm.bit rfl)

theorem parUpset_upto {m : Nat} {s0 : State} {b : Blk} {fr : Nat} {u : Upset} {s : State} (h : Upto m s0 s) (hm
    : Sub 0x280000000 m) :
    Upto m s0 (parUpset b fr u s) := by
  unfold parUpset
  try dsimp only
  repeat' first
    | with_reducible assumption
    | ((with_reducible refine Sub.of hm ?_); rfl)
    | with_reducible apply putWord_upto
    | with_reducible apply Upto.ite
    | fail_if_no_progress with_reducible refine Upto.fabric_set ?_ (hm.bit rfl)
    | split

theorem parVisit_upto {m : Nat} {s0 : State} {b : Blk} {fr : Nat} {f : Nat} {s : State} (h : Upto m s0 s) (hm :
    Sub 0x2d3c80080 m) :
    Upto m s0 (parVisit b fr f s) := by
  unfold parVisit
  try dsimp only
  repeat' first
    | with_reducible assumption
    | intro _
    | with_reducible apply parReport_upto
    | with_reducible apply Upto.forEach
    | fail_if_no_progress with_reducible refine Upto.fabric_set ?_ (hm.bit rfl)
    | split

theorem execCfgpar_upto {m : Nat} {s0 : State} {frame : Fin 1024} {upsets : List Upset} {s : State} (h : Upto m
    s0 s) (hm : Sub 0x2d3c80080 m) :
    OutUpto m s0 (execCfgpar frame upsets s) := by
  unfold execCfgpar
  try dsimp only
  repeat' first
    | with_reducible assumption
    | intro _
    | ((with_reducible refine Sub.of hm ?_); rfl)
    | with_reducible apply parUpset_upto
    | with_reducible apply parVisit_upto
    | with_reducible apply Upto.forEach
    | with_reducible apply OutUpto.next
    | with_reducible apply OutUpto.ite
    | split

end Sys2Proof.Machine
end

