-- ==== Sys2Proof/Laws/UptoBurst.lean ====
section
/-! SUPPORT. What each operation of Machine/Burst.lean leaves unchanged (Laws/Upto.lean). -/

set_option linter.unusedTactic false
set_option linter.unreachableTactic false

namespace Sys2Proof.Machine

theorem pcieRead_upto {m : Nat} {s0 : State} {req : Nat} {a1 : Nat} {o : Nat} {n : Nat} {s : State} (h : Upto m
    s0 s) (hm : Sub 0x10000001 m) :
    Upto m s0 (pcieRead req a1 o n s).2 := by
  unfold pcieRead
  try dsimp only
  repeat' first
    | with_reducible assumption
    | ((with_reducible refine Sub.of hm ?_); rfl)
    | with_reducible apply takeFree_upto
    | with_reducible apply apertureRead_upto
    | with_reducible refine Upto.snd (by assumption) ?_
    | split

theorem pcieWrite_upto {m : Nat} {s0 : State} {req : Nat} {a1 : Nat} {o : Nat} {n : Nat} {v : Nat} {s : State}
    (h : Upto m s0 s) (hm : Sub 0xd3c84080 m) :
    Upto m s0 (pcieWrite req a1 o n v s).2 := by
  unfold pcieWrite
  try dsimp only
  repeat' first
    | with_reducible assumption
    | with_reducible apply apertureTake_upto
    | with_reducible refine Upto.fst (by assumption) ?_
    | split

theorem fabRead_upto {m : Nat} {s0 : State} {req : Nat} {a : Nat} {n : Nat} {s : State} (h : Upto m s0 s) (hm :
    Sub 0x2ad7f80883 m) :
    Upto m s0 (fabRead req a n s).2 := by
  unfold fabRead
  try dsimp only
  repeat' first
    | with_reducible assumption
    | ((with_reducible refine Sub.of hm ?_); rfl)
    | with_reducible apply ctlRead_upto
    | with_reducible apply pcieRead_upto
    | with_reducible apply memRead_upto
    | with_reducible apply busError_upto
    | with_reducible refine Upto.snd (by assumption) ?_
    | with_reducible refine Upto.mid (by assumption) ?_
    | split

theorem fabWrite_upto {m : Nat} {s0 : State} {req : Nat} {a : Nat} {n : Nat} {v : Nat} {s : State} (h : Upto m
    s0 s) (hm : Sub 0x3fffffffff m) :
    Upto m s0 (fabWrite req a n v s).2 := by
  unfold fabWrite
  try dsimp only
  repeat' first
    | with_reducible assumption
    | ((with_reducible refine Sub.of hm ?_); rfl)
    | with_reducible apply ctlWrite_upto
    | with_reducible apply pcieWrite_upto
    | with_reducible apply memWrite_upto
    | with_reducible apply busError_upto
    | with_reducible refine Upto.fst (by assumption) ?_
    | with_reducible refine Upto.snd (by assumption) ?_
    | split

theorem elemAddr_upto {m : Nat} {s0 : State} {n : Nat} {mode : Nat} {base : Nat} {k : Nat} {size : Nat} {s :
    State} (h : Upto m s0 s) (hm : Sub 0x2ad7f80883 m) :
    Upto m s0 (elemAddr n mode base k size s).2.1 := by
  unfold elemAddr
  try dsimp only
  repeat' first
    | with_reducible assumption
    | with_reducible apply fabRead_upto
    | with_reducible refine Upto.snd (by assumption) ?_
    | split

theorem readElems_upto {m : Nat} {s0 : State} {n : Nat} {a1 : Nat} {a2 : State} (h : Upto m s0 a2) (hm : Sub
    0x2ad7f80883 m) :
    Upto m s0 (readElems n a1 a2).2 := by
  induction a1 generalizing n a2 with
  | zero =>
    unfold readElems
    try dsimp only
    repeat' first
      | with_reducible assumption
      | ((with_reducible refine Sub.of hm ?_); rfl)
      | with_reducible apply elemAddr_upto
      | with_reducible apply fabRead_upto
      | with_reducible apply modPrt_upto
      | with_reducible refine Upto.snd (by assumption) ?_
      | with_reducible refine Upto.mid (by assumption) ?_
      | split
  | succ n1 ih =>
    unfold readElems
    try dsimp only
    repeat' first
      | with_reducible assumption
      | ((with_reducible refine Sub.of hm ?_); rfl)
      | with_reducible apply ih
      | with_reducible apply elemAddr_upto
      | with_reducible apply fabRead_upto
      | with_reducible apply modPrt_upto
      | with_reducible refine Upto.snd (by assumption) ?_
      | with_reducible refine Upto.mid (by assumption) ?_
      | split

theorem writeElems_upto {m : Nat} {s0 : State} {n : Nat} {a1 : Nat} {a2 : State} (h : Upto m s0 a2) (hm : Sub
    0x3fffffffff m) :
    Upto m s0 (writeElems n a1 a2).2 := by
  induction a1 generalizing n a2 with
  | zero =>
    unfold writeElems
    try dsimp only
    repeat' first
      | with_reducible assumption
      | ((with_reducible refine Sub.of hm ?_); rfl)
      | with_reducible apply elemAddr_upto
      | with_reducible apply fabWrite_upto
      | with_reducible apply modPrt_upto
      | with_reducible refine Upto.snd (by assumption) ?_
      | with_reducible refine Upto.mid (by assumption) ?_
      | split
  | succ n1 ih =>
    unfold writeElems
    try dsimp only
    repeat' first
      | with_reducible assumption
      | ((with_reducible refine Sub.of hm ?_); rfl)
      | with_reducible apply ih
      | with_reducible apply elemAddr_upto
      | with_reducible apply fabWrite_upto
      | with_reducible apply modPrt_upto
      | with_reducible refine Upto.snd (by assumption) ?_
      | with_reducible refine Upto.mid (by assumption) ?_
      | split

theorem burstFail_upto {m : Nat} {s0 : State} {n : Nat} {old : State} {e : Nat × FabRes} {s : State} (h : Upto m
    s0 s) (hold : Upto m s0 old) (hm : Sub 0xd3c80080 m) :
    Upto m s0 (burstFail n old e s) := by
  unfold burstFail
  try dsimp only
  repeat' first
    | with_reducible assumption
    | with_reducible apply prtBusError_upto
    | split

theorem burstDone_upto {m : Nat} {s0 : State} {n : Nat} {last : Bool} {s : State} (h : Upto m s0 s) (hm : Sub
    0x2cd7c848b0 m) :
    Upto m s0 (burstDone n last s) := by
  unfold burstDone
  try dsimp only
  repeat' first
    | with_reducible assumption
    | ((with_reducible refine Sub.of hm ?_); rfl)
    | with_reducible apply descEnd_upto
    | with_reducible apply portDrop_upto
    | with_reducible apply chainEnd_upto
    | with_reducible apply Upto.ite
    | with_reducible apply Upto.getD

theorem plainBurst_upto {m : Nat} {s0 : State} {n : Nat} {s : State} (h : Upto m s0 s) (hm : Sub 0x3fffffffff m)
    :
    Upto m s0 (plainBurst n s) := by
  unfold plainBurst
  try dsimp only
  repeat' first
    | with_reducible assumption
    | ((with_reducible refine Sub.of hm ?_); rfl)
    | with_reducible apply readElems_upto
    | with_reducible apply burstFail_upto
    | with_reducible apply writeElems_upto
    | with_reducible apply burstDone_upto
    | with_reducible refine Upto.snd (by assumption) ?_
    | split

theorem lfiBurst_upto {m : Nat} {s0 : State} {n : Nat} {s : State} (h : Upto m s0 s) (hm : Sub 0x3fffffffff m) :
    Upto m s0 (lfiBurst n s) := by
  unfold lfiBurst
  try dsimp only
  repeat' first
    | with_reducible assumption
    | ((with_reducible refine Sub.of hm ?_); rfl)
    | with_reducible apply burstDone_upto
    | with_reducible apply portReadOp_upto
    | with_reducible apply modPrt_upto
    | with_reducible apply writeElems_upto
    | with_reducible apply burstFail_upto
    | with_reducible apply Upto.ite
    | with_reducible refine Upto.snd (by assumption) ?_
    | split

theorem execPorterBurst_upto {m : Nat} {s0 : State} {channel : Fin 64} {s : State} (h : Upto m s0 s) (hm : Sub
    0x3fffffffff m) :
    OutUpto m s0 (execPorterBurst channel s) := by
  unfold execPorterBurst
  try dsimp only
  repeat' first
    | with_reducible assumption
    | with_reducible apply lfiBurst_upto
    | with_reducible apply plainBurst_upto
    | with_reducible apply OutUpto.next
    | with_reducible apply OutUpto.ite

theorem xferWord_upto {m : Nat} {s0 : State} {n : Nat} {out : Bool} {a : Nat} {loc : Nat} {s : State} (h : Upto
    m s0 s) (hm : Sub 0x3fffffffff m) :
    Upto m s0 (xferWord n out a loc s).2 := by
  unfold xferWord
  try dsimp only
  repeat' first
    | with_reducible assumption
    | ((with_reducible refine Sub.of hm ?_); rfl)
    | with_reducible apply busError_upto
    | with_reducible apply lsRead_upto
    | with_reducible apply fabWrite_upto
    | with_reducible apply fabRead_upto
    | with_reducible apply lsPut_upto
    | with_reducible refine Upto.snd (by assumption) ?_
    | split

theorem xferWords_upto {m : Nat} {s0 : State} {n : Nat} {out : Bool} {a2 : Nat} {a3 : Nat} {a4 : Nat} {a5 :
    State} (h : Upto m s0 a5) (hm : Sub 0x3fffffffff m) :
    Upto m s0 (xferWords n out a2 a3 a4 a5).2 := by
  induction a2 generalizing n out a3 a4 a5 with
  | zero =>
    unfold xferWords
    try dsimp only
    repeat' first
      | with_reducible assumption
      | with_reducible apply xferWord_upto
      | with_reducible refine Upto.snd (by assumption) ?_
      | split
  | succ n1 ih =>
    unfold xferWords
    try dsimp only
    repeat' first
      | with_reducible assumption
      | with_reducible apply ih
      | with_reducible apply xferWord_upto
      | with_reducible refine Upto.snd (by assumption) ?_
      | split

theorem execXferComplete_upto {m : Nat} {s0 : State} {needle : Fin 128} {s : State} (h : Upto m s0 s) (hm : Sub
    0x3fffffffff m) :
    OutUpto m s0 (execXferComplete needle s) := by
  unfold execXferComplete
  try dsimp only
  repeat' first
    | with_reducible assumption
    | ((with_reducible refine Sub.of hm ?_); rfl)
    | with_reducible apply xferWords_upto
    | with_reducible apply modNdl_upto
    | with_reducible apply ndlIrq_upto
    | with_reducible apply raiseFault_upto
    | with_reducible apply Upto.ite
    | with_reducible apply OutUpto.next
    | with_reducible apply OutUpto.ite
    | with_reducible refine Upto.snd (by assumption) ?_
    | split

end Sys2Proof.Machine
end

