-- ==== Sys2Proof/Laws/UptoSched.lean ====
section
/-! SUPPORT. What each operation of Machine/Sched.lean leaves unchanged (Laws/Upto.lean). -/

set_option linter.unusedTactic false
set_option linter.unreachableTactic false

namespace Sys2Proof.Machine

theorem needleStart_upto {m : Nat} {s0 : State} {n : Nat} {s : State} (h : Upto m s0 s) (hm : Sub 0x80480080 m)
    :
    Upto m s0 (needleStart n s) := by
  unfold needleStart
  try dsimp only
  repeat' first
    | with_reducible assumption
    | ((with_reducible refine Sub.of hm ?_); rfl)
    | with_reducible apply setNdlSt_upto
    | with_reducible apply modNdl_upto
    | with_reducible apply ndlIrq_upto
    | with_reducible apply Upto.ite

theorem slotStart_upto {m : Nat} {s0 : State} {n : Nat} {s : State} (h : Upto m s0 s) (hm : Sub 0x8d7c84880 m) :
    Upto m s0 (slotStart n s) := by
  unfold slotStart
  try dsimp only
  repeat' first
    | with_reducible assumption
    | intro _
    | ((with_reducible refine Sub.of hm ?_); rfl)
    | with_reducible apply modPat_upto
    | with_reducible apply decStart_upto
    | with_reducible apply gaugeStart_upto
    | with_reducible apply needleStart_upto
    | with_reducible apply Upto.forEach
    | split

theorem pstartAct_upto {m : Nat} {s0 : State} {n : Nat} {s : State} (h : Upto m s0 s) (hm : Sub 0x8d7c84880 m) :
    Upto m s0 (pstartAct n s) := by
  unfold pstartAct
  try dsimp only
  repeat' first
    | with_reducible assumption
    | ((with_reducible refine Sub.of hm ?_); rfl)
    | with_reducible apply slotStart_upto
    | with_reducible apply setMode_upto
    | with_reducible apply Upto.ite

theorem slotAct_upto {m : Nat} {s0 : State} {x : Slot} {t : Nat} {s : State} (h : Upto m s0 s) (hm : Sub
    0x2cd7c8c8ca m) :
    Upto m s0 (slotAct x t s) := by
  unfold slotAct
  try dsimp only
  repeat' first
    | with_reducible assumption
    | intro _
    | ((with_reducible refine Sub.of hm ?_); rfl)
    | with_reducible apply handWord_upto
    | with_reducible apply phaseAct_upto
    | with_reducible apply gateAct_upto
    | with_reducible apply retrainAct_upto
    | with_reducible apply pstartAct_upto
    | with_reducible apply snapDue_upto
    | with_reducible apply swtLatch_upto
    | with_reducible apply raise_upto
    | with_reducible apply Upto.forEach
    | with_reducible apply Upto.ite
    | split

theorem fireAct_upto {m : Nat} {s0 : State} {x : Slot} {t : Nat} {s : State} (h : Upto m s0 s) (hm : Sub
    0x2cd7c8c8ca m) :
    Upto m s0 (fireAct x t s) := by
  unfold fireAct
  try dsimp only
  repeat' first
    | with_reducible assumption
    | ((with_reducible refine Sub.of hm ?_); rfl)
    | with_reducible apply bump_upto
    | with_reducible apply slotAct_upto
    | with_reducible apply modRck_upto
    | with_reducible apply Upto.ite

theorem fireSpared_upto {m : Nat} {s0 : State} {i : Nat} {s : State} (h : Upto m s0 s) (hm : Sub 0x2cd7c8c8ca m)
    :
    Upto m s0 (fireSpared i s) := by
  unfold fireSpared
  try dsimp only
  repeat' first
    | with_reducible assumption
    | ((with_reducible refine Sub.of hm ?_); rfl)
    | with_reducible apply modRck_upto
    | with_reducible apply fireAct_upto
    | with_reducible apply modSlot_upto
    | with_reducible apply raise_upto
    | with_reducible apply bump_upto
    | with_reducible apply Upto.ite
    | split

theorem fireSlot_upto {m : Nat} {s0 : State} {i : Nat} {s : State} (h : Upto m s0 s) (hm : Sub 0x2cd7c8c8ca m) :
    Upto m s0 (fireSlot i s) := by
  unfold fireSlot
  try dsimp only
  repeat' first
    | with_reducible assumption
    | ((with_reducible refine Sub.of hm ?_); rfl)
    | with_reducible apply missSlot_upto
    | with_reducible apply fireAct_upto
    | with_reducible apply modSlot_upto
    | with_reducible apply Upto.ite

theorem execSlotFire_upto {m : Nat} {s0 : State} {slot : Fin 512} {s : State} (h : Upto m s0 s) (hm : Sub
    0x2cd7c8c8ca m) :
    OutUpto m s0 (execSlotFire slot s) := by
  unfold execSlotFire
  try dsimp only
  repeat' first
    | with_reducible assumption
    | with_reducible apply fireSlot_upto
    | with_reducible apply fireSpared_upto
    | with_reducible apply OutUpto.next
    | with_reducible apply OutUpto.ite

theorem execPtpDelayReqSend_upto {m : Nat} {s0 : State} {dom : Fin 2} {s : State} (h : Upto m s0 s) (hm : Sub
    0xd3c8c085 m) :
    OutUpto m s0 (execPtpDelayReqSend dom s) := by
  unfold execPtpDelayReqSend
  try dsimp only
  repeat' first
    | with_reducible assumption
    | ((with_reducible refine Sub.of hm ?_); rfl)
    | with_reducible apply egEnqueue_upto
    | with_reducible apply takeFree_upto
    | with_reducible apply modPtp_upto
    | with_reducible apply OutUpto.next
    | with_reducible apply OutUpto.ite

end Sys2Proof.Machine
end

