-- ==== Sys2Proof/Laws/UptoExec.lean ====
section
/-! SUPPORT. What every command leaves unchanged: each meaning's lemma at its own set of parts, and the parts of State that a
set names. -/

namespace Sys2Proof.Machine

/-- A part's place in a set. -/
def Part.bit : Part → Nat
  | .free => 0
  | .rck => 1
  | .ptp => 2
  | .lane => 3
  | .lfi => 4
  | .port => 5
  | .swt => 6
  | .ndl => 7
  | .bank => 8
  | .dist => 9
  | .skn => 10
  | .pat => 11
  | .pl => 12
  | .joint => 13
  | .stl => 14
  | .eth => 15
  | .ssw => 16
  | .ft => 17
  | .arrivals => 18
  | .ict => 19
  | .mbx => 20
  | .sem => 21
  | .pwr => 22
  | .fcl => 23
  | .ldg => 24
  | .tly => 25
  | .sth => 26
  | .sec => 27
  | .mag => 28
  | .magIn => 29
  | .prt => 30
  | .regs => 31
  | .keys => 32
  | .fabric => 33
  | .sram => 34
  | .skm => 35
  | .ls => 36
  | .rld => 37

/-- A part outside the set is unchanged. -/
theorem Upto.same {m : Nat} {s t : State} (h : Upto m s t) (p : Part) (hp : m.testBit p.bit = false) : p.same s t := by
  cases p
  · exact h.free hp
  · exact h.rck hp
  · exact h.ptp hp
  · exact h.lane hp
  · exact h.lfi hp
  · exact h.port hp
  · exact h.swt hp
  · exact h.ndl hp
  · exact h.bank hp
  · exact h.dist hp
  · exact h.skn hp
  · exact h.pat hp
  · exact h.pl hp
  · exact h.joint hp
  · exact h.stl hp
  · exact h.eth hp
  · exact h.ssw hp
  · exact h.ft hp
  · exact h.arrivals hp
  · exact h.ict hp
  · exact h.mbx hp
  · exact h.sem hp
  · exact h.pwr hp
  · exact h.fcl hp
  · exact h.ldg hp
  · exact h.tly hp
  · exact h.sth hp
  · exact h.sec hp
  · exact h.mag hp
  · exact h.magIn hp
  · exact h.prt hp
  · exact h.regs hp
  · exact h.keys hp
  · exact h.fabric hp
  · exact h.sram hp
  · exact h.skm hp
  · exact h.ls hp
  · exact h.rld hp

/-- The set of parts that a list names. -/
def maskOf (l : List Part) : Nat := l.foldr (fun p m => 2 ^ p.bit ||| m) 0

theorem Part.bit_inj {p q : Part} (h : p.bit = q.bit) : p = q := by
  cases p <;> cases q <;> first | rfl | exact absurd h (by decide)

/-- A part that a list does not name is not in its set. -/
theorem testBit_maskOf {l : List Part} {p : Part} (h : p ∉ l) : (maskOf l).testBit p.bit = false := by
  induction l with
  | nil => exact Nat.zero_testBit _
  | cons q l ih =>
    rw [List.mem_cons, not_or] at h
    have hq : q.bit ≠ p.bit := fun e => h.1 (Part.bit_inj e).symm
    show (2 ^ q.bit ||| maskOf l).testBit p.bit = false
    rw [Nat.testBit_or, ih h.2, Bool.or_false, Nat.testBit_two_pow]
    exact decide_eq_false hq

/-- A part that a list does not name is unchanged. -/
theorem Upto.unnamed {l : List Part} {s t : State} (h : Upto (maskOf l) s t) {p : Part} (hp : p ∉ l) : p.same s t :=
  h.same p (testBit_maskOf hp)

theorem exec_registerWrite_upto (req : Req) (off : BitVec 24) (bytes : Nat) (data : DWord) (s : State) :
    OutUpto (maskOf (footprint (.registerWrite req off bytes data))) s (exec (.registerWrite req off bytes data) s) :=
  show OutUpto _ s (execRegisterWrite req off bytes data s) from execRegisterWrite_upto (Upto.refl _ s)
      (show 0x3fffffffff &&& maskOf (allParts) = 0x3fffffffff from by decide)

theorem exec_keylockWrite_upto (req : Req) (frame : Fin 1024) (data : Word) (s : State) :
    OutUpto (maskOf (footprint (.keylockWrite req frame data))) s (exec (.keylockWrite req frame data) s) :=
  show OutUpto _ s (execKeylockWrite req frame data s) from execKeylockWrite_upto (Upto.refl _ s)
      (show 0x3fffffffff &&& maskOf (allParts) = 0x3fffffffff from by decide)

theorem exec_unlockExpire_upto (frame : Fin 1024) (s : State) :
    OutUpto (maskOf (footprint (.unlockExpire frame))) s (exec (.unlockExpire frame) s) :=
  show OutUpto _ s (execUnlockExpire frame s) from execUnlockExpire_upto (Upto.refl _ s)
      (show 0x3fffffffff &&& maskOf (allParts) = 0x3fffffffff from by decide)

theorem exec_cfgpar_upto (frame : Fin 1024) (upsets : List Upset) (s : State) :
    OutUpto (maskOf (footprint (.cfgpar frame upsets))) s (exec (.cfgpar frame upsets) s) :=
  show OutUpto _ s (execCfgpar frame upsets s) from execCfgpar_upto (Upto.refl _ s)
      (show 0x2d3c80080 &&& maskOf (reports ++ [.fabric]) = 0x2d3c80080 from by decide)

theorem exec_patternLoad_upto (req : Req) (slot : Fin 256) (addr : BitVec 48) (avail : BitVec 16) (s : State) :
    OutUpto (maskOf (footprint (.patternLoad req slot addr avail))) s (exec (.patternLoad req slot addr avail) s) :=
  show OutUpto _ s (execPatternLoad req slot addr avail s) from execPatternLoad_upto (Upto.refl _ s)
      (show 0x3ff7c85a80 &&& maskOf (reports ++ commits ++ [.dist, .pat, .pl, .stl, .sth, .magIn, .sram, .skm, .ls, .rld]) = 0x3ff7c85a80 from by decide)

theorem exec_placementCheckAnswer_upto (link : Fin 8) (h : FlitHdr) (slot : Fin 256) (ok : Bool) (s : State) :
    OutUpto (maskOf (footprint (.placementCheckAnswer link h slot ok))) s (exec (.placementCheckAnswer link h slot ok) s) :=
  show OutUpto _ s (execPlacementCheckAnswer link h slot ok s) from execPlacementCheckAnswer_upto (Upto.refl _ s)
      (show 0x3cf7c85a80 &&& maskOf (reports ++ [.dist, .pat, .pl, .stl, .sth, .magIn, .sram, .skm, .ls, .rld]) = 0x3cf7c85a80 from by decide)

theorem exec_placementCheckTimeout_upto (s : State) :
    OutUpto (maskOf (footprint .placementCheckTimeout)) s (exec .placementCheckTimeout s) :=
  show OutUpto _ s (execPlacementCheckTimeout s) from execPlacementCheckTimeout_upto (Upto.refl _ s)
      (show 0x2cd7c81880 &&& maskOf (reports ++ [.pat, .pl, .sth, .sram, .skm, .rld]) = 0x2cd7c81880 from by decide)

theorem exec_patternUnload_upto (req : Req) (slot : Fin 256) (s : State) :
    OutUpto (maskOf (footprint (.patternUnload req slot))) s (exec (.patternUnload req slot) s) :=
  show OutUpto _ s (execPatternUnload req slot s) from execPatternUnload_upto (Upto.refl _ s)
      (show 0x380481880 &&& maskOf (raises ++ commits ++ [.ndl, .pat, .pl]) = 0x380481880 from by decide)

theorem exec_unloadComplete_upto (slot : Fin 256) (s : State) :
    OutUpto (maskOf (footprint (.unloadComplete slot))) s (exec (.unloadComplete slot) s) :=
  show OutUpto _ s (execUnloadComplete slot s) from execUnloadComplete_upto (Upto.refl _ s)
      (show 0xf7c85a80 &&& maskOf (reports ++ [.dist, .pat, .pl, .stl, .sth, .magIn]) = 0xf7c85a80 from by decide)

theorem exec_ptpSyncReceive_upto (dom : Fin 2) (m : PtpMsg) (s : State) :
    OutUpto (maskOf (footprint (.ptpSyncReceive dom m))) s (exec (.ptpSyncReceive dom m) s) :=
  show OutUpto _ s (execPtpSyncReceive dom m s) from execPtpSyncReceive_upto (Upto.refl _ s)
      (show 0xd3c80087 &&& maskOf (reports ++ [.free, .rck, .ptp]) = 0xd3c80087 from by decide)

theorem exec_ptpAnnounceReceive_upto (dom : Fin 2) (m : PtpMsg) (gm : DWord) (steps : BitVec 8) (tlv : Option
    (Int × Nat)) (s : State) :
    OutUpto (maskOf (footprint (.ptpAnnounceReceive dom m gm steps tlv))) s (exec (.ptpAnnounceReceive dom m gm steps tlv) s) :=
  show OutUpto _ s (execPtpAnnounceReceive dom m gm steps tlv s) from execPtpAnnounceReceive_upto (Upto.refl _ s)
      (show 0x80000004 &&& maskOf ([.ptp, .regs]) = 0x80000004 from by decide)

theorem exec_ptpDelayRespReceive_upto (dom : Fin 2) (m : PtpMsg) (s : State) :
    OutUpto (maskOf (footprint (.ptpDelayRespReceive dom m))) s (exec (.ptpDelayRespReceive dom m) s) :=
  show OutUpto _ s (execPtpDelayRespReceive dom m s) from execPtpDelayRespReceive_upto (Upto.refl _ s)
      (show 0x4 &&& maskOf ([.ptp]) = 0x4 from by decide)

theorem exec_ptpDelayReqSend_upto (dom : Fin 2) (s : State) :
    OutUpto (maskOf (footprint (.ptpDelayReqSend dom))) s (exec (.ptpDelayReqSend dom) s) :=
  show OutUpto _ s (execPtpDelayReqSend dom s) from execPtpDelayReqSend_upto (Upto.refl _ s)
      (show 0xd3c8c085 &&& maskOf (reports ++ [.free, .ptp, .stl, .eth]) = 0xd3c8c085 from by decide)

theorem exec_domainUnavailable_upto (dom : Fin 2) (s : State) :
    OutUpto (maskOf (footprint (.domainUnavailable dom))) s (exec (.domainUnavailable dom) s) :=
  show OutUpto _ s (execDomainUnavailable dom s) from execDomainUnavailable_upto (Upto.refl _ s)
      (show 0xd3c80086 &&& maskOf (reports ++ [.rck, .ptp]) = 0xd3c80086 from by decide)

theorem exec_ptpCfgCommit_upto (dom : Fin 2) (a : Acc) (s : State) :
    OutUpto (maskOf (footprint (.ptpCfgCommit dom a))) s (exec (.ptpCfgCommit dom a) s) :=
  show OutUpto _ s (execPtpCfgCommit dom a s) from execPtpCfgCommit_upto (Upto.refl _ s)
      (show 0x3d3c80086 &&& maskOf (reports ++ commits ++ [.rck, .ptp]) = 0x3d3c80086 from by decide)

theorem exec_rckCtrlCommit_upto (a : Acc) (s : State) :
    OutUpto (maskOf (footprint (.rckCtrlCommit a))) s (exec (.rckCtrlCommit a) s) :=
  show OutUpto _ s (execRckCtrlCommit a s) from execRckCtrlCommit_upto (Upto.refl _ s)
      (show 0x380480002 &&& maskOf (raises ++ commits ++ [.rck]) = 0x380480002 from by decide)

theorem exec_ref10Valid_upto (s : State) :
    OutUpto (maskOf (footprint .ref10Valid)) s (exec .ref10Valid s) :=
  show OutUpto _ s (execRef10Valid s) from execRef10Valid_upto (Upto.refl _ s)
      (show 0x2 &&& maskOf ([.rck]) = 0x2 from by decide)

theorem exec_ref10Loss_upto (s : State) :
    OutUpto (maskOf (footprint .ref10Loss)) s (exec .ref10Loss s) :=
  show OutUpto _ s (execRef10Loss s) from execRef10Loss_upto (Upto.refl _ s)
      (show 0x2 &&& maskOf ([.rck]) = 0x2 from by decide)

theorem exec_ppsEdge_upto (s : State) :
    OutUpto (maskOf (footprint .ppsEdge)) s (exec .ppsEdge s) :=
  show OutUpto _ s (execPpsEdge s) from execPpsEdge_upto (Upto.refl _ s)
      (show 0x80000000 &&& maskOf ([.regs]) = 0x80000000 from by decide)

theorem exec_rckStep_upto (req : Req) (s : State) :
    OutUpto (maskOf (footprint (.rckStep req))) s (exec (.rckStep req) s) :=
  show OutUpto _ s (execRckStep req s) from execRckStep_upto (Upto.refl _ s)
      (show 0x380480002 &&& maskOf (raises ++ commits ++ [.rck]) = 0x380480002 from by decide)

theorem exec_rckDisarm_upto (req : Req) (s : State) :
    OutUpto (maskOf (footprint (.rckDisarm req))) s (exec (.rckDisarm req) s) :=
  show OutUpto _ s (execRckDisarm req s) from execRckDisarm_upto (Upto.refl _ s)
      (show 0x380480002 &&& maskOf (raises ++ commits ++ [.rck]) = 0x380480002 from by decide)

theorem exec_rckFmtCommit_upto (a : Acc) (s : State) :
    OutUpto (maskOf (footprint (.rckFmtCommit a))) s (exec (.rckFmtCommit a) s) :=
  show OutUpto _ s (execRckFmtCommit a s) from execRckFmtCommit_upto (Upto.refl _ s)
      (show 0x380000002 &&& maskOf (commits ++ [.rck]) = 0x380000002 from by decide)

theorem exec_slotArm_upto (a : Acc) (s : State) :
    OutUpto (maskOf (footprint (.slotArm a))) s (exec (.slotArm a) s) :=
  show OutUpto _ s (execSlotArm a s) from execSlotArm_upto (Upto.refl _ s)
      (show 0x380480002 &&& maskOf (raises ++ commits ++ [.rck]) = 0x380480002 from by decide)

theorem exec_slotDisarm_upto (a : Acc) (s : State) :
    OutUpto (maskOf (footprint (.slotDisarm a))) s (exec (.slotDisarm a) s) :=
  show OutUpto _ s (execSlotDisarm a s) from execSlotDisarm_upto (Upto.refl _ s)
      (show 0x380480002 &&& maskOf (raises ++ commits ++ [.rck]) = 0x380480002 from by decide)

theorem exec_slotFire_upto (slot : Fin 512) (s : State) :
    OutUpto (maskOf (footprint (.slotFire slot))) s (exec (.slotFire slot) s) :=
  show OutUpto _ s (execSlotFire slot s) from execSlotFire_upto (Upto.refl _ s)
      (show 0x2cd7c8c8ca &&& maskOf (reports ++ [.rck, .lane, .swt, .pat, .stl, .eth, .sth, .sram, .skm, .rld]) = 0x2cd7c8c8ca from by decide)

theorem exec_phasePulseEnd_upto (pin : Fin 16) (s : State) :
    OutUpto (maskOf (footprint (.phasePulseEnd pin))) s (exec (.phasePulseEnd pin) s) :=
  show OutUpto _ s (execPhasePulseEnd pin s) from execPhasePulseEnd_upto (Upto.refl _ s)
      (show 0x2 &&& maskOf ([.rck]) = 0x2 from by decide)

theorem exec_tinEdge_upto (pin : Fin 4) (fall : Bool) (s : State) :
    OutUpto (maskOf (footprint (.tinEdge pin fall))) s (exec (.tinEdge pin fall) s) :=
  show OutUpto _ s (execTinEdge pin fall s) from execTinEdge_upto (Upto.refl _ s)
      (show 0x80480002 &&& maskOf (raises ++ [.rck]) = 0x80480002 from by decide)

theorem exec_tinQueueRead_upto (req : Req) (pin : Fin 4) (s : State) :
    OutUpto (maskOf (footprint (.tinQueueRead req pin))) s (exec (.tinQueueRead req pin) s) :=
  show OutUpto _ s (execTinQueueRead req pin s) from execTinQueueRead_upto (Upto.refl _ s)
      (show 0x280000002 &&& maskOf ([.rck, .regs, .fabric]) = 0x280000002 from by decide)

theorem exec_oscRecord_upto (s : State) :
    OutUpto (maskOf (footprint .oscRecord)) s (exec .oscRecord s) :=
  show OutUpto _ s (execOscRecord s) from execOscRecord_upto (Upto.refl _ s)
      (show 0xd3c80081 &&& maskOf (reports ++ [.free]) = 0xd3c80081 from by decide)

theorem exec_signalDetect_upto (lane : Fin 64) (s : State) :
    OutUpto (maskOf (footprint (.signalDetect lane))) s (exec (.signalDetect lane) s) :=
  show OutUpto _ s (execSignalDetect lane s) from execSignalDetect_upto (Upto.refl _ s)
      (show 0x80480008 &&& maskOf (raises ++ [.lane]) = 0x80480008 from by decide)

theorem exec_blockLockGain_upto (lane : Fin 64) (s : State) :
    OutUpto (maskOf (footprint (.blockLockGain lane))) s (exec (.blockLockGain lane) s) :=
  show OutUpto _ s (execBlockLockGain lane s) from execBlockLockGain_upto (Upto.refl _ s)
      (show 0x80480008 &&& maskOf (raises ++ [.lane]) = 0x80480008 from by decide)

theorem exec_blockLockLoss_upto (lane : Fin 64) (signal : Bool) (bad : BitVec 16) (s : State) :
    OutUpto (maskOf (footprint (.blockLockLoss lane signal bad))) s (exec (.blockLockLoss lane signal bad) s) :=
  show OutUpto _ s (execBlockLockLoss lane signal bad s) from execBlockLockLoss_upto (Upto.refl _ s)
      (show 0xd3c80088 &&& maskOf (reports ++ [.lane]) = 0xd3c80088 from by decide)

theorem exec_alignReceive_upto (lane : Fin 64) (seq : BitVec 16) (bad : BitVec 16) (s : State) :
    OutUpto (maskOf (footprint (.alignReceive lane seq bad))) s (exec (.alignReceive lane seq bad) s) :=
  show OutUpto _ s (execAlignReceive lane seq bad s) from execAlignReceive_upto (Upto.refl _ s)
      (show 0x80000008 &&& maskOf ([.lane, .regs]) = 0x80000008 from by decide)

theorem exec_trainReceive_upto (lane : Fin 64) (body : BitVec 56) (s : State) :
    OutUpto (maskOf (footprint (.trainReceive lane body))) s (exec (.trainReceive lane body) s) :=
  show OutUpto _ s (execTrainReceive lane body s) from execTrainReceive_upto (Upto.refl _ s)
      (show 0xd3c80088 &&& maskOf (reports ++ [.lane]) = 0xd3c80088 from by decide)

theorem exec_trainingTimeout_upto (lane : Fin 64) (s : State) :
    OutUpto (maskOf (footprint (.trainingTimeout lane))) s (exec (.trainingTimeout lane) s) :=
  show OutUpto _ s (execTrainingTimeout lane s) from execTrainingTimeout_upto (Upto.refl _ s)
      (show 0x82480008 &&& maskOf (raises ++ [.lane, .tly]) = 0x82480008 from by decide)

theorem exec_failRetry_upto (lane : Fin 64) (s : State) :
    OutUpto (maskOf (footprint (.failRetry lane))) s (exec (.failRetry lane) s) :=
  show OutUpto _ s (execFailRetry lane s) from execFailRetry_upto (Upto.refl _ s)
      (show 0x80480008 &&& maskOf (raises ++ [.lane]) = 0x80480008 from by decide)

theorem exec_laneCtrlCommit_upto (lane : Fin 64) (a : Acc) (s : State) :
    OutUpto (maskOf (footprint (.laneCtrlCommit lane a))) s (exec (.laneCtrlCommit lane a) s) :=
  show OutUpto _ s (execLaneCtrlCommit lane a s) from execLaneCtrlCommit_upto (Upto.refl _ s)
      (show 0x3d3c80088 &&& maskOf (reports ++ commits ++ [.lane]) = 0x3d3c80088 from by decide)

theorem exec_linePacketReceive_upto (lane : Fin 64) (sop : BitVec 56) (payload : List Byte) (eop : BitVec 56) (s
    : State) :
    OutUpto (maskOf (footprint (.linePacketReceive lane sop payload eop))) s (exec (.linePacketReceive lane sop payload eop) s) :=
  show OutUpto _ s (execLinePacketReceive lane sop payload eop s) from execLinePacketReceive_upto (Upto.refl _ s)
      (show 0x2cd7c808d8 &&& maskOf (reports ++ [.lane, .lfi, .swt, .pat, .sth, .sram, .skm, .rld]) = 0x2cd7c808d8 from by decide)

theorem exec_packetAbortClose_upto (lane : Fin 64) (sop : BitVec 56) (payload : List Byte) (s : State) :
    OutUpto (maskOf (footprint (.packetAbortClose lane sop payload))) s (exec (.packetAbortClose lane sop payload) s) :=
  show OutUpto _ s (execPacketAbortClose lane sop payload s) from execPacketAbortClose_upto (Upto.refl _ s)
      (show 0x2cd7c808d8 &&& maskOf (reports ++ [.lane, .lfi, .swt, .pat, .sth, .sram, .skm, .rld]) = 0x2cd7c808d8 from by decide)

theorem exec_telemetryReceive_upto (lane : Fin 64) (sop : BitVec 56) (payload : List Byte) (eop : BitVec 56) (s
    : State) :
    OutUpto (maskOf (footprint (.telemetryReceive lane sop payload eop))) s (exec (.telemetryReceive lane sop payload eop) s) :=
  show OutUpto _ s (execTelemetryReceive lane sop payload eop s) from execTelemetryReceive_upto (Upto.refl _ s)
      (show 0x2cd7c808d8 &&& maskOf (reports ++ [.lane, .lfi, .swt, .pat, .sth, .sram, .skm, .rld]) = 0x2cd7c808d8 from by decide)

theorem exec_lineDeadline_upto (lane : Fin 64) (s : State) :
    OutUpto (maskOf (footprint (.lineDeadline lane))) s (exec (.lineDeadline lane) s) :=
  show OutUpto _ s (execLineDeadline lane s) from execLineDeadline_upto (Upto.refl _ s)
      (show 0x2cd7c808d8 &&& maskOf (reports ++ [.lane, .lfi, .swt, .pat, .sth, .sram, .skm, .rld]) = 0x2cd7c808d8 from by decide)

theorem exec_lanewordLaunch_upto (lane : Fin 64) (s : State) :
    OutUpto (maskOf (footprint (.lanewordLaunch lane))) s (exec (.lanewordLaunch lane) s) :=
  show OutUpto _ s (execLanewordLaunch lane s) from execLanewordLaunch_upto (Upto.refl _ s)
      (show 0x2cd7c808d8 &&& maskOf (reports ++ [.lane, .lfi, .swt, .pat, .sth, .sram, .skm, .rld]) = 0x2cd7c808d8 from by decide)

theorem exec_laneTxwQueue_upto (lane : Fin 64) (a : Acc) (s : State) :
    OutUpto (maskOf (footprint (.laneTxwQueue lane a))) s (exec (.laneTxwQueue lane a) s) :=
  show OutUpto _ s (execLaneTxwQueue lane a s) from execLaneTxwQueue_upto (Upto.refl _ s)
      (show 0x380000008 &&& maskOf (commits ++ [.lane]) = 0x380000008 from by decide)

theorem exec_txwSend_upto (lane : Fin 64) (s : State) :
    OutUpto (maskOf (footprint (.txwSend lane))) s (exec (.txwSend lane) s) :=
  show OutUpto _ s (execTxwSend lane s) from execTxwSend_upto (Upto.refl _ s)
      (show 0x2cd7c808d8 &&& maskOf (reports ++ [.lane, .lfi, .swt, .pat, .sth, .sram, .skm, .rld]) = 0x2cd7c808d8 from by decide)

theorem exec_lfiRead_upto (base : Fin 64) (port : Fin 2) (words : BitVec 14) (s : State) :
    OutUpto (maskOf (footprint (.lfiRead base port words))) s (exec (.lfiRead base port words) s) :=
  show OutUpto _ s (execLfiRead base port words s) from execLfiRead_upto (Upto.refl _ s)
      (show 0x30 &&& maskOf ([.lfi, .port]) = 0x30 from by decide)

theorem exec_lfiMark_upto (base : Fin 64) (port : Fin 2) (s : State) :
    OutUpto (maskOf (footprint (.lfiMark base port))) s (exec (.lfiMark base port) s) :=
  show OutUpto _ s (execLfiMark base port s) from execLfiMark_upto (Upto.refl _ s)
      (show 0x20 &&& maskOf ([.port]) = 0x20 from by decide)

theorem exec_lfiRewind_upto (base : Fin 64) (port : Fin 2) (s : State) :
    OutUpto (maskOf (footprint (.lfiRewind base port))) s (exec (.lfiRewind base port) s) :=
  show OutUpto _ s (execLfiRewind base port s) from execLfiRewind_upto (Upto.refl _ s)
      (show 0x20 &&& maskOf ([.port]) = 0x20 from by decide)

theorem exec_lfiRelease_upto (base : Fin 64) (port : Fin 2) (s : State) :
    OutUpto (maskOf (footprint (.lfiRelease base port))) s (exec (.lfiRelease base port) s) :=
  show OutUpto _ s (execLfiRelease base port s) from execLfiRelease_upto (Upto.refl _ s)
      (show 0x30 &&& maskOf ([.lfi, .port]) = 0x30 from by decide)

theorem exec_lfiDrop_upto (base : Fin 64) (port : Fin 2) (s : State) :
    OutUpto (maskOf (footprint (.lfiDrop base port))) s (exec (.lfiDrop base port) s) :=
  show OutUpto _ s (execLfiDrop base port s) from execLfiDrop_upto (Upto.refl _ s)
      (show 0x30 &&& maskOf ([.lfi, .port]) = 0x30 from by decide)

theorem exec_lfiFlush_upto (req : Req) (lfi : Fin 64) (s : State) :
    OutUpto (maskOf (footprint (.lfiFlush req lfi))) s (exec (.lfiFlush req lfi) s) :=
  show OutUpto _ s (execLfiFlush req lfi s) from execLfiFlush_upto (Upto.refl _ s)
      (show 0x380000010 &&& maskOf (commits ++ [.lfi]) = 0x380000010 from by decide)

theorem exec_lfiIdleNotice_upto (lfi : Fin 64) (s : State) :
    OutUpto (maskOf (footprint (.lfiIdleNotice lfi))) s (exec (.lfiIdleNotice lfi) s) :=
  show OutUpto _ s (execLfiIdleNotice lfi s) from execLfiIdleNotice_upto (Upto.refl _ s)
      (show 0x80480010 &&& maskOf (raises ++ [.lfi]) = 0x80480010 from by decide)

theorem exec_swtBufQueue_upto (swt : Fin 64) (a : Acc) (s : State) :
    OutUpto (maskOf (footprint (.swtBufQueue swt a))) s (exec (.swtBufQueue swt a) s) :=
  show OutUpto _ s (execSwtBufQueue swt a s) from execSwtBufQueue_upto (Upto.refl _ s)
      (show 0x380000040 &&& maskOf (commits ++ [.swt]) = 0x380000040 from by decide)

theorem exec_distributorLineDeliver_upto (skein : Fin 16) (dist : Fin 2) (s : State) :
    OutUpto (maskOf (footprint (.distributorLineDeliver skein dist))) s (exec (.distributorLineDeliver skein dist) s) :=
  show OutUpto _ s (execDistributorLineDeliver skein dist s) from execDistributorLineDeliver_upto (Upto.refl _ s)
      (show 0x10000000b0 &&& maskOf ([.lfi, .port, .ndl, .ls]) = 0x10000000b0 from by decide)

theorem exec_microWordExecute_upto (needle : Fin 128) (s : State) :
    OutUpto (maskOf (footprint (.microWordExecute needle))) s (exec (.microWordExecute needle) s) :=
  show OutUpto _ s (execMicroWordExecute needle s) from execMicroWordExecute_upto (Upto.refl _ s)
      (show 0x10d7d80881 &&& maskOf (reports ++ [.free, .pat, .mbx, .sth, .ls]) = 0x10d7d80881 from by decide)

theorem exec_microNop_upto (needle : Fin 128) (s : State) :
    OutUpto (maskOf (footprint (.microNop needle))) s (exec (.microNop needle) s) :=
  show OutUpto _ s (execMicroNop needle s) from execMicroNop_upto (Upto.refl _ s)
      (show 0x10d7d80881 &&& maskOf (reports ++ [.free, .pat, .mbx, .sth, .ls]) = 0x10d7d80881 from by decide)

theorem exec_microJump_upto (needle : Fin 128) (s : State) :
    OutUpto (maskOf (footprint (.microJump needle))) s (exec (.microJump needle) s) :=
  show OutUpto _ s (execMicroJump needle s) from execMicroJump_upto (Upto.refl _ s)
      (show 0x10d7d80881 &&& maskOf (reports ++ [.free, .pat, .mbx, .sth, .ls]) = 0x10d7d80881 from by decide)

theorem exec_microCall_upto (needle : Fin 128) (s : State) :
    OutUpto (maskOf (footprint (.microCall needle))) s (exec (.microCall needle) s) :=
  show OutUpto _ s (execMicroCall needle s) from execMicroCall_upto (Upto.refl _ s)
      (show 0x10d7d80881 &&& maskOf (reports ++ [.free, .pat, .mbx, .sth, .ls]) = 0x10d7d80881 from by decide)

theorem exec_microRet_upto (needle : Fin 128) (s : State) :
    OutUpto (maskOf (footprint (.microRet needle))) s (exec (.microRet needle) s) :=
  show OutUpto _ s (execMicroRet needle s) from execMicroRet_upto (Upto.refl _ s)
      (show 0x10d7d80881 &&& maskOf (reports ++ [.free, .pat, .mbx, .sth, .ls]) = 0x10d7d80881 from by decide)

theorem exec_microDispatch_upto (needle : Fin 128) (s : State) :
    OutUpto (maskOf (footprint (.microDispatch needle))) s (exec (.microDispatch needle) s) :=
  show OutUpto _ s (execMicroDispatch needle s) from execMicroDispatch_upto (Upto.refl _ s)
      (show 0x10d7d80881 &&& maskOf (reports ++ [.free, .pat, .mbx, .sth, .ls]) = 0x10d7d80881 from by decide)

theorem exec_microLoop_upto (needle : Fin 128) (s : State) :
    OutUpto (maskOf (footprint (.microLoop needle))) s (exec (.microLoop needle) s) :=
  show OutUpto _ s (execMicroLoop needle s) from execMicroLoop_upto (Upto.refl _ s)
      (show 0x10d7d80881 &&& maskOf (reports ++ [.free, .pat, .mbx, .sth, .ls]) = 0x10d7d80881 from by decide)

theorem exec_microSetlc_upto (needle : Fin 128) (s : State) :
    OutUpto (maskOf (footprint (.microSetlc needle))) s (exec (.microSetlc needle) s) :=
  show OutUpto _ s (execMicroSetlc needle s) from execMicroSetlc_upto (Upto.refl _ s)
      (show 0x10d7d80881 &&& maskOf (reports ++ [.free, .pat, .mbx, .sth, .ls]) = 0x10d7d80881 from by decide)

theorem exec_microSeta_upto (needle : Fin 128) (s : State) :
    OutUpto (maskOf (footprint (.microSeta needle))) s (exec (.microSeta needle) s) :=
  show OutUpto _ s (execMicroSeta needle s) from execMicroSeta_upto (Upto.refl _ s)
      (show 0x10d7d80881 &&& maskOf (reports ++ [.free, .pat, .mbx, .sth, .ls]) = 0x10d7d80881 from by decide)

theorem exec_microMova_upto (needle : Fin 128) (s : State) :
    OutUpto (maskOf (footprint (.microMova needle))) s (exec (.microMova needle) s) :=
  show OutUpto _ s (execMicroMova needle s) from execMicroMova_upto (Upto.refl _ s)
      (show 0x10d7d80881 &&& maskOf (reports ++ [.free, .pat, .mbx, .sth, .ls]) = 0x10d7d80881 from by decide)

theorem exec_microWait_upto (needle : Fin 128) (s : State) :
    OutUpto (maskOf (footprint (.microWait needle))) s (exec (.microWait needle) s) :=
  show OutUpto _ s (execMicroWait needle s) from execMicroWait_upto (Upto.refl _ s)
      (show 0x10d7d80881 &&& maskOf (reports ++ [.free, .pat, .mbx, .sth, .ls]) = 0x10d7d80881 from by decide)

theorem exec_microRete_upto (needle : Fin 128) (s : State) :
    OutUpto (maskOf (footprint (.microRete needle))) s (exec (.microRete needle) s) :=
  show OutUpto _ s (execMicroRete needle s) from execMicroRete_upto (Upto.refl _ s)
      (show 0x10d7d80881 &&& maskOf (reports ++ [.free, .pat, .mbx, .sth, .ls]) = 0x10d7d80881 from by decide)

theorem exec_microHoriz_upto (needle : Fin 128) (s : State) :
    OutUpto (maskOf (footprint (.microHoriz needle))) s (exec (.microHoriz needle) s) :=
  show OutUpto _ s (execMicroHoriz needle s) from execMicroHoriz_upto (Upto.refl _ s)
      (show 0x10d7d80881 &&& maskOf (reports ++ [.free, .pat, .mbx, .sth, .ls]) = 0x10d7d80881 from by decide)

theorem exec_microTrap_upto (needle : Fin 128) (s : State) :
    OutUpto (maskOf (footprint (.microTrap needle))) s (exec (.microTrap needle) s) :=
  show OutUpto _ s (execMicroTrap needle s) from execMicroTrap_upto (Upto.refl _ s)
      (show 0x10d7d80881 &&& maskOf (reports ++ [.free, .pat, .mbx, .sth, .ls]) = 0x10d7d80881 from by decide)

theorem exec_microStop_upto (needle : Fin 128) (s : State) :
    OutUpto (maskOf (footprint (.microStop needle))) s (exec (.microStop needle) s) :=
  show OutUpto _ s (execMicroStop needle s) from execMicroStop_upto (Upto.refl _ s)
      (show 0x10d7d80881 &&& maskOf (reports ++ [.free, .pat, .mbx, .sth, .ls]) = 0x10d7d80881 from by decide)

theorem exec_microGnote_upto (needle : Fin 128) (s : State) :
    OutUpto (maskOf (footprint (.microGnote needle))) s (exec (.microGnote needle) s) :=
  show OutUpto _ s (execMicroGnote needle s) from execMicroGnote_upto (Upto.refl _ s)
      (show 0x10d7d80881 &&& maskOf (reports ++ [.free, .pat, .mbx, .sth, .ls]) = 0x10d7d80881 from by decide)

theorem exec_nanoWordExecute_upto (needle : Fin 128) (s : State) :
    OutUpto (maskOf (footprint (.nanoWordExecute needle))) s (exec (.nanoWordExecute needle) s) :=
  show OutUpto _ s (execNanoWordExecute needle s) from execNanoWordExecute_upto (Upto.refl _ s)
      (show 0x18d7d809b1 &&& maskOf (reports ++ [.free, .lfi, .port, .bank, .pat, .mbx, .sth, .skm, .ls]) = 0x18d7d809b1 from by decide)

theorem exec_xferComplete_upto (needle : Fin 128) (s : State) :
    OutUpto (maskOf (footprint (.xferComplete needle))) s (exec (.xferComplete needle) s) :=
  show OutUpto _ s (execXferComplete needle s) from execXferComplete_upto (Upto.refl _ s)
      (show 0x3fffffffff &&& maskOf (allParts) = 0x3fffffffff from by decide)

theorem exec_horizWordExecute_upto (needle : Fin 128) (s : State) :
    OutUpto (maskOf (footprint (.horizWordExecute needle))) s (exec (.horizWordExecute needle) s) :=
  show OutUpto _ s (execHorizWordExecute needle s) from execHorizWordExecute_upto (Upto.refl _ s)
      (show 0x18d7d808b1 &&& maskOf (reports ++ [.free, .lfi, .port, .pat, .mbx, .sth, .skm, .ls]) = 0x18d7d808b1 from by decide)

theorem exec_safegap_upto (needle : Fin 128) (s : State) :
    OutUpto (maskOf (footprint (.safegap needle))) s (exec (.safegap needle) s) :=
  show OutUpto _ s (execSafegap needle s) from execSafegap_upto (Upto.refl _ s)
      (show 0xd3c80881 &&& maskOf (reports ++ [.free, .pat]) = 0xd3c80881 from by decide)

theorem exec_nanorun_upto (needle : Fin 128) (s : State) :
    OutUpto (maskOf (footprint (.nanorun needle))) s (exec (.nanorun needle) s) :=
  show OutUpto _ s (execNanorun needle s) from execNanorun_upto (Upto.refl _ s)
      (show 0xd3c80880 &&& maskOf (reports ++ [.pat]) = 0xd3c80880 from by decide)

theorem exec_needleTimerExpire_upto (needle : Fin 128) (s : State) :
    OutUpto (maskOf (footprint (.needleTimerExpire needle))) s (exec (.needleTimerExpire needle) s) :=
  show OutUpto _ s (execNeedleTimerExpire needle s) from execNeedleTimerExpire_upto (Upto.refl _ s)
      (show 0x80 &&& maskOf ([.ndl]) = 0x80 from by decide)

theorem exec_ndlHalt_upto (req : Req) (needle : Fin 128) (s : State) :
    OutUpto (maskOf (footprint (.ndlHalt req needle))) s (exec (.ndlHalt req needle) s) :=
  show OutUpto _ s (execNdlHalt req needle s) from execNdlHalt_upto (Upto.refl _ s)
      (show 0x380480080 &&& maskOf (raises ++ commits ++ [.ndl]) = 0x380480080 from by decide)

theorem exec_ndlResume_upto (req : Req) (needle : Fin 128) (s : State) :
    OutUpto (maskOf (footprint (.ndlResume req needle))) s (exec (.ndlResume req needle) s) :=
  show OutUpto _ s (execNdlResume req needle s) from execNdlResume_upto (Upto.refl _ s)
      (show 0x380480080 &&& maskOf (raises ++ commits ++ [.ndl]) = 0x380480080 from by decide)

theorem exec_ndlAbort_upto (req : Req) (needle : Fin 128) (s : State) :
    OutUpto (maskOf (footprint (.ndlAbort req needle))) s (exec (.ndlAbort req needle) s) :=
  show OutUpto _ s (execNdlAbort req needle s) from execNdlAbort_upto (Upto.refl _ s)
      (show 0x380000080 &&& maskOf (commits ++ [.ndl]) = 0x380000080 from by decide)

theorem exec_ndlHstart_upto (req : Req) (needle : Fin 128) (s : State) :
    OutUpto (maskOf (footprint (.ndlHstart req needle))) s (exec (.ndlHstart req needle) s) :=
  show OutUpto _ s (execNdlHstart req needle s) from execNdlHstart_upto (Upto.refl _ s)
      (show 0x380480080 &&& maskOf (raises ++ commits ++ [.ndl]) = 0x380480080 from by decide)

theorem exec_ndlBellWrite_upto (needle : Fin 128) (a : Acc) (s : State) :
    OutUpto (maskOf (footprint (.ndlBellWrite needle a))) s (exec (.ndlBellWrite needle a) s) :=
  show OutUpto _ s (execNdlBellWrite needle a s) from execNdlBellWrite_upto (Upto.refl _ s)
      (show 0x380000080 &&& maskOf (commits ++ [.ndl]) = 0x380000080 from by decide)

theorem exec_localStoreZeroDone_upto (needle : Fin 128) (s : State) :
    OutUpto (maskOf (footprint (.localStoreZeroDone needle))) s (exec (.localStoreZeroDone needle) s) :=
  show OutUpto _ s (execLocalStoreZeroDone needle s) from execLocalStoreZeroDone_upto (Upto.refl _ s)
      (show 0x1000000080 &&& maskOf ([.ndl, .ls]) = 0x1000000080 from by decide)

theorem exec_skeinZeroDone_upto (skein : Fin 16) (s : State) :
    OutUpto (maskOf (footprint (.skeinZeroDone skein))) s (exec (.skeinZeroDone skein) s) :=
  show OutUpto _ s (execSkeinZeroDone skein s) from execSkeinZeroDone_upto (Upto.refl _ s)
      (show 0x880480500 &&& maskOf (raises ++ [.bank, .skn, .skm]) = 0x880480500 from by decide)

theorem exec_skeinScrubStep_upto (skein : Fin 16) (upset : Option (Nat × Native)) (s : State) :
    OutUpto (maskOf (footprint (.skeinScrubStep skein upset))) s (exec (.skeinScrubStep skein upset) s) :=
  show OutUpto _ s (execSkeinScrubStep skein upset s) from execSkeinScrubStep_upto (Upto.refl _ s)
      (show 0x8d3c80480 &&& maskOf (reports ++ [.skn, .skm]) = 0x8d3c80480 from by decide)

theorem exec_rowStart_upto (slot : Fin 256) (out : Fin 4) (view : Fin 16) (stripe : Fin 8) (needle : Fin 128)
    (window : Bool) (xview : Bool) (prep : Bool) (coded : List (List Byte)) (s : State) :
    OutUpto (maskOf (footprint (.rowStart slot out view stripe needle window xview prep coded))) s (exec (.rowStart slot out view stripe needle window xview prep coded) s) :=
  show OutUpto _ s (execRowStart slot out view stripe needle window xview prep coded s) from execRowStart_upto (Upto.refl _ s)
      (show 0x8d7ccc880 &&& maskOf (reports ++ [.pat, .stl, .eth, .arrivals, .sth, .skm]) = 0x8d7ccc880 from by decide)

theorem exec_xvlate_upto (slot : Fin 256) (out : Fin 4) (view : Fin 16) (stripe : Fin 8) (s : State) :
    OutUpto (maskOf (footprint (.xvlate slot out view stripe))) s (exec (.xvlate slot out view stripe) s) :=
  show OutUpto _ s (execXvlate slot out view stripe s) from execXvlate_upto (Upto.refl _ s)
      (show 0x80480800 &&& maskOf (raises ++ [.pat]) = 0x80480800 from by decide)

theorem exec_keyRequest_upto (req : Req) (slot : Fin 256) (out : Fin 4) (s : State) :
    OutUpto (maskOf (footprint (.keyRequest req slot out))) s (exec (.keyRequest req slot out) s) :=
  show OutUpto _ s (execKeyRequest req slot out s) from execKeyRequest_upto (Upto.refl _ s)
      (show 0x384000800 &&& maskOf (commits ++ [.pat, .sth]) = 0x384000800 from by decide)

theorem exec_gaugeReport_upto (slot : Fin 256) (coded : List (List Byte)) (intra : BitVec 16) (whole : Bool) (s
    : State) :
    OutUpto (maskOf (footprint (.gaugeReport slot coded intra whole))) s (exec (.gaugeReport slot coded intra whole) s) :=
  show OutUpto _ s (execGaugeReport slot coded intra whole s) from execGaugeReport_upto (Upto.refl _ s)
      (show 0x8d7ccc880 &&& maskOf (reports ++ [.pat, .stl, .eth, .arrivals, .sth, .skm]) = 0x8d7ccc880 from by decide)

theorem exec_jointAllocation_upto (s : State) :
    OutUpto (maskOf (footprint .jointAllocation)) s (exec .jointAllocation s) :=
  show OutUpto _ s (execJointAllocation s) from execJointAllocation_upto (Upto.refl _ s)
      (show 0x2800 &&& maskOf ([.pat, .joint]) = 0x2800 from by decide)

theorem exec_stageShareSend_upto (s : State) :
    OutUpto (maskOf (footprint .stageShareSend)) s (exec .stageShareSend s) :=
  show OutUpto _ s (execStageShareSend s) from execStageShareSend_upto (Upto.refl _ s)
      (show 0x4002000 &&& maskOf ([.joint, .sth]) = 0x4002000 from by decide)

theorem exec_stageShareReceive_upto (link : Fin 8) (h : FlitHdr) (group : BitVec 6) (frame : BitVec 40) (body :
    ShareBody) (s : State) :
    OutUpto (maskOf (footprint (.stageShareReceive link h group frame body))) s (exec (.stageShareReceive link h group frame body) s) :=
  show OutUpto _ s (execStageShareReceive link h group frame body s) from execStageShareReceive_upto (Upto.refl _ s)
      (show 0x86002000 &&& maskOf ([.joint, .tly, .sth, .regs]) = 0x86002000 from by decide)

theorem exec_stageShareMissed_upto (group : BitVec 6) (s : State) :
    OutUpto (maskOf (footprint (.stageShareMissed group))) s (exec (.stageShareMissed group) s) :=
  show OutUpto _ s (execStageShareMissed group s) from execStageShareMissed_upto (Upto.refl _ s)
      (show 0x80482000 &&& maskOf (raises ++ [.joint]) = 0x80482000 from by decide)

theorem exec_seedRecord_upto (slot : Fin 256) (out : Fin 4) (s : State) :
    OutUpto (maskOf (footprint (.seedRecord slot out))) s (exec (.seedRecord slot out) s) :=
  show OutUpto _ s (execSeedRecord slot out s) from execSeedRecord_upto (Upto.refl _ s)
      (show 0xd3c80880 &&& maskOf (reports ++ [.pat]) = 0xd3c80880 from by decide)

theorem exec_codedUnitReceive_upto (info : UnitInfo) (s : State) :
    OutUpto (maskOf (footprint (.codedUnitReceive info))) s (exec (.codedUnitReceive info) s) :=
  show OutUpto _ s (execCodedUnitReceive info s) from execCodedUnitReceive_upto (Upto.refl _ s)
      (show 0xd7ccc880 &&& maskOf (reports ++ [.pat, .stl, .eth, .arrivals, .sth]) = 0xd7ccc880 from by decide)

theorem exec_unitLossDeclare_upto (slot : Fin 256) (input : Fin 16) (s : State) :
    OutUpto (maskOf (footprint (.unitLossDeclare slot input))) s (exec (.unitLossDeclare slot input) s) :=
  show OutUpto _ s (execUnitLossDeclare slot input s) from execUnitLossDeclare_upto (Upto.refl _ s)
      (show 0xd7ccc880 &&& maskOf (reports ++ [.pat, .stl, .eth, .arrivals, .sth]) = 0xd7ccc880 from by decide)

theorem exec_pictureCloseTimeout_upto (slot : Fin 256) (input : Fin 16) (s : State) :
    OutUpto (maskOf (footprint (.pictureCloseTimeout slot input))) s (exec (.pictureCloseTimeout slot input) s) :=
  show OutUpto _ s (execPictureCloseTimeout slot input s) from execPictureCloseTimeout_upto (Upto.refl _ s)
      (show 0xd7ccc880 &&& maskOf (reports ++ [.pat, .stl, .eth, .arrivals, .sth]) = 0xd7ccc880 from by decide)

theorem exec_decodeOutput_upto (slot : Fin 256) (input : Fin 16) (s : State) :
    OutUpto (maskOf (footprint (.decodeOutput slot input))) s (exec (.decodeOutput slot input) s) :=
  show OutUpto _ s (execDecodeOutput slot input s) from execDecodeOutput_upto (Upto.refl _ s)
      (show 0xd7ccc880 &&& maskOf (reports ++ [.pat, .stl, .eth, .arrivals, .sth]) = 0xd7ccc880 from by decide)

theorem exec_rldRead_upto (req : Req) (addr : BitVec 48) (bits : Nat) (e : RldErr) (s : State) :
    OutUpto (maskOf (footprint (.rldRead req addr bits e))) s (exec (.rldRead req addr bits e) s) :=
  show OutUpto _ s (execRldRead req addr bits e s) from execRldRead_upto (Upto.refl _ s)
      (show 0x2ad7c80880 &&& maskOf (reports ++ [.pat, .sth, .fabric, .skm, .rld]) = 0x2ad7c80880 from by decide)

theorem exec_rldWrite_upto (req : Req) (addr : BitVec 48) (bits : Nat) (data : Native) (e : RldErr) (s : State)
    :
    OutUpto (maskOf (footprint (.rldWrite req addr bits data e))) s (exec (.rldWrite req addr bits data e) s) :=
  show OutUpto _ s (execRldWrite req addr bits data e s) from execRldWrite_upto (Upto.refl _ s)
      (show 0x2ed7c80880 &&& maskOf (reports ++ [.pat, .sth, .fabric, .sram, .skm, .rld]) = 0x2ed7c80880 from by decide)

theorem exec_rdWindowEnd_upto (ch : Fin 16) (s : State) :
    OutUpto (maskOf (footprint (.rdWindowEnd ch))) s (exec (.rdWindowEnd ch) s) :=
  show OutUpto _ s (execRdWindowEnd ch s) from execRdWindowEnd_upto (Upto.refl _ s)
      (show 0x2000000000 &&& maskOf ([.rld]) = 0x2000000000 from by decide)

theorem exec_bayReady_upto (bay : Fin 4) (s : State) :
    OutUpto (maskOf (footprint (.bayReady bay))) s (exec (.bayReady bay) s) :=
  show OutUpto _ s (execBayReady bay s) from execBayReady_upto (Upto.refl _ s)
      (show 0x2080480000 &&& maskOf (raises ++ [.rld]) = 0x2080480000 from by decide)

theorem exec_rldRefresh_upto (ch : Fin 16) (s : State) :
    OutUpto (maskOf (footprint (.rldRefresh ch))) s (exec (.rldRefresh ch) s) :=
  show OutUpto _ s (execRldRefresh ch s) from execRldRefresh_upto (Upto.refl _ s)
      (show 0x2000000000 &&& maskOf ([.rld]) = 0x2000000000 from by decide)

theorem exec_rldScrub_upto (ch : Fin 16) (e : RldErr) (s : State) :
    OutUpto (maskOf (footprint (.rldScrub ch e))) s (exec (.rldScrub ch e) s) :=
  show OutUpto _ s (execRldScrub ch e s) from execRldScrub_upto (Upto.refl _ s)
      (show 0x20d7c80880 &&& maskOf (reports ++ [.pat, .sth, .rld]) = 0x20d7c80880 from by decide)

theorem exec_retrainPauseEnd_upto (ch : Fin 16) (ok : Bool) (s : State) :
    OutUpto (maskOf (footprint (.retrainPauseEnd ch ok))) s (exec (.retrainPauseEnd ch ok) s) :=
  show OutUpto _ s (execRetrainPauseEnd ch ok s) from execRetrainPauseEnd_upto (Upto.refl _ s)
      (show 0x20d3c80080 &&& maskOf (reports ++ [.rld]) = 0x20d3c80080 from by decide)

theorem exec_forcedRetrain_upto (ch : Fin 16) (drift : BitVec 8) (s : State) :
    OutUpto (maskOf (footprint (.forcedRetrain ch drift))) s (exec (.forcedRetrain ch drift) s) :=
  show OutUpto _ s (execForcedRetrain ch drift s) from execForcedRetrain_upto (Upto.refl _ s)
      (show 0x2080480000 &&& maskOf (raises ++ [.rld]) = 0x2080480000 from by decide)

theorem exec_rldRestore_upto (req : Req) (bay : Fin 4) (s : State) :
    OutUpto (maskOf (footprint (.rldRestore req bay))) s (exec (.rldRestore req bay) s) :=
  show OutUpto _ s (execRldRestore req bay s) from execRldRestore_upto (Upto.refl _ s)
      (show 0x23d7c84880 &&& maskOf (reports ++ commits ++ [.pat, .stl, .sth, .rld]) = 0x23d7c84880 from by decide)

theorem exec_rldFreeze_upto (req : Req) (bay : Fin 4) (s : State) :
    OutUpto (maskOf (footprint (.rldFreeze req bay))) s (exec (.rldFreeze req bay) s) :=
  show OutUpto _ s (execRldFreeze req bay s) from execRldFreeze_upto (Upto.refl _ s)
      (show 0x23d7c84880 &&& maskOf (reports ++ commits ++ [.pat, .stl, .sth, .rld]) = 0x23d7c84880 from by decide)

theorem exec_mchDiagaWrite_upto (bay : Fin 4) (a : Acc) (s : State) :
    OutUpto (maskOf (footprint (.mchDiagaWrite bay a))) s (exec (.mchDiagaWrite bay a) s) :=
  show OutUpto _ s (execMchDiagaWrite bay a s) from execMchDiagaWrite_upto (Upto.refl _ s)
      (show 0x2380000000 &&& maskOf (commits ++ [.rld]) = 0x2380000000 from by decide)

theorem exec_diagReadComplete_upto (bay : Fin 4) (upsets : List (Nat × BitVec 80)) (flip : BitVec 80) (tmo :
    Bool) (s : State) :
    OutUpto (maskOf (footprint (.diagReadComplete bay upsets flip tmo))) s (exec (.diagReadComplete bay upsets flip tmo) s) :=
  show OutUpto _ s (execDiagReadComplete bay upsets flip tmo s) from execDiagReadComplete_upto (Upto.refl _ s)
      (show 0x2080000000 &&& maskOf ([.regs, .rld]) = 0x2080000000 from by decide)

theorem exec_stlAlloc_upto (req : Req) (pool : Fin 64) (s : State) :
    OutUpto (maskOf (footprint (.stlAlloc req pool))) s (exec (.stlAlloc req pool) s) :=
  show OutUpto _ s (execStlAlloc req pool s) from execStlAlloc_upto (Upto.refl _ s)
      (show 0x80484000 &&& maskOf (raises ++ [.stl]) = 0x80484000 from by decide)

theorem exec_stlFree_upto (req : Req) (handle : Word) (s : State) :
    OutUpto (maskOf (footprint (.stlFree req handle))) s (exec (.stlFree req handle) s) :=
  show OutUpto _ s (execStlFree req handle s) from execStlFree_upto (Upto.refl _ s)
      (show 0xd3c84080 &&& maskOf (reports ++ [.stl]) = 0xd3c84080 from by decide)

theorem exec_stlShare_upto (req : Req) (handle : Word) (recipient : BitVec 8) (s : State) :
    OutUpto (maskOf (footprint (.stlShare req handle recipient))) s (exec (.stlShare req handle recipient) s) :=
  show OutUpto _ s (execStlShare req handle recipient s) from execStlShare_upto (Upto.refl _ s)
      (show 0xd3c84080 &&& maskOf (reports ++ [.stl]) = 0xd3c84080 from by decide)

theorem exec_stlCheck_upto (req : Req) (handle : Word) (offset : BitVec 26) (lenm1 : BitVec 23) (s : State) :
    OutUpto (maskOf (footprint (.stlCheck req handle offset lenm1))) s (exec (.stlCheck req handle offset lenm1) s) :=
  show OutUpto _ s (execStlCheck req handle offset lenm1 s) from execStlCheck_upto (Upto.refl _ s)
      (show 0xd3c80080 &&& maskOf (reports) = 0xd3c80080 from by decide)

theorem exec_stlRevoke_upto (a : Acc) (s : State) :
    OutUpto (maskOf (footprint (.stlRevoke a))) s (exec (.stlRevoke a) s) :=
  show OutUpto _ s (execStlRevoke a s) from execStlRevoke_upto (Upto.refl _ s)
      (show 0x380004000 &&& maskOf (commits ++ [.stl]) = 0x380004000 from by decide)

theorem exec_stlPoolCommit_upto (pool : Fin 64) (a : Acc) (s : State) :
    OutUpto (maskOf (footprint (.stlPoolCommit pool a))) s (exec (.stlPoolCommit pool a) s) :=
  show OutUpto _ s (execStlPoolCommit pool a s) from execStlPoolCommit_upto (Upto.refl _ s)
      (show 0x380004000 &&& maskOf (commits ++ [.stl]) = 0x380004000 from by decide)

theorem exec_prtStart_upto (req : Req) (channel : Fin 64) (addr : BitVec 48) (s : State) :
    OutUpto (maskOf (footprint (.prtStart req channel addr))) s (exec (.prtStart req channel addr) s) :=
  show OutUpto _ s (execPrtStart req channel addr s) from execPrtStart_upto (Upto.refl _ s)
      (show 0x3c0000000 &&& maskOf (commits ++ [.prt]) = 0x3c0000000 from by decide)

theorem exec_prtAbort_upto (req : Req) (channel : Fin 64) (s : State) :
    OutUpto (maskOf (footprint (.prtAbort req channel))) s (exec (.prtAbort req channel) s) :=
  show OutUpto _ s (execPrtAbort req channel s) from execPrtAbort_upto (Upto.refl _ s)
      (show 0x3c0000000 &&& maskOf (commits ++ [.prt]) = 0x3c0000000 from by decide)

theorem exec_descriptorFetch_upto (channel : Fin 64) (s : State) :
    OutUpto (maskOf (footprint (.descriptorFetch channel))) s (exec (.descriptorFetch channel) s) :=
  show OutUpto _ s (execDescriptorFetch channel s) from execDescriptorFetch_upto (Upto.refl _ s)
      (show 0x28d7c80880 &&& maskOf (reports ++ [.pat, .sth, .skm, .rld]) = 0x28d7c80880 from by decide)

theorem exec_porterBurst_upto (channel : Fin 64) (s : State) :
    OutUpto (maskOf (footprint (.porterBurst channel))) s (exec (.porterBurst channel) s) :=
  show OutUpto _ s (execPorterBurst channel s) from execPorterBurst_upto (Upto.refl _ s)
      (show 0x3fffffffff &&& maskOf (allParts) = 0x3fffffffff from by decide)

theorem exec_frameReceive_upto (port : Fin 24) (data : List Byte) (fcsOk : Bool) (corr : Byte) (uncorr : Byte)
    (s : State) :
    OutUpto (maskOf (footprint (.frameReceive port data fcsOk corr uncorr))) s (exec (.frameReceive port data fcsOk corr uncorr) s) :=
  show OutUpto _ s (execFrameReceive port data fcsOk corr uncorr s) from execFrameReceive_upto (Upto.refl _ s)
      (show 0x82010000 &&& maskOf ([.ssw, .tly, .regs]) = 0x82010000 from by decide)

theorem exec_classifierPass_upto (bad : List (BitVec 21)) (s : State) :
    OutUpto (maskOf (footprint (.classifierPass bad))) s (exec (.classifierPass bad) s) :=
  show OutUpto _ s (execClassifierPass bad s) from execClassifierPass_upto (Upto.refl _ s)
      (show 0x2cd7cfc880 &&& maskOf (reports ++ [.pat, .stl, .eth, .ssw, .ft, .arrivals, .sth, .sram, .skm, .rld]) = 0x2cd7cfc880 from by decide)

theorem exec_learnRequest_upto (s : State) :
    OutUpto (maskOf (footprint .learnRequest)) s (exec .learnRequest s) :=
  show OutUpto _ s (execLearnRequest s) from execLearnRequest_upto (Upto.refl _ s)
      (show 0x804a0000 &&& maskOf (raises ++ [.ft]) = 0x804a0000 from by decide)

theorem exec_ftLookup_upto (req : Req) (key : DWord) (ktag : Byte) (s : State) :
    OutUpto (maskOf (footprint (.ftLookup req key ktag))) s (exec (.ftLookup req key ktag) s) :=
  show OutUpto _ s (execFtLookup req key ktag s) from execFtLookup_upto (Upto.refl _ s)
      (show 0x380020000 &&& maskOf (commits ++ [.ft]) = 0x380020000 from by decide)

theorem exec_ftInsert_upto (req : Req) (key : DWord) (ktag : Byte) (result : DWord) (rtag : Byte) (s : State) :
    OutUpto (maskOf (footprint (.ftInsert req key ktag result rtag))) s (exec (.ftInsert req key ktag result rtag) s) :=
  show OutUpto _ s (execFtInsert req key ktag result rtag s) from execFtInsert_upto (Upto.refl _ s)
      (show 0x380020000 &&& maskOf (commits ++ [.ft]) = 0x380020000 from by decide)

theorem exec_ftDelete_upto (req : Req) (key : DWord) (ktag : Byte) (s : State) :
    OutUpto (maskOf (footprint (.ftDelete req key ktag))) s (exec (.ftDelete req key ktag) s) :=
  show OutUpto _ s (execFtDelete req key ktag s) from execFtDelete_upto (Upto.refl _ s)
      (show 0x380020000 &&& maskOf (commits ++ [.ft]) = 0x380020000 from by decide)

theorem exec_ftReadIndex_upto (req : Req) (index : BitVec 17) (s : State) :
    OutUpto (maskOf (footprint (.ftReadIndex req index))) s (exec (.ftReadIndex req index) s) :=
  show OutUpto _ s (execFtReadIndex req index s) from execFtReadIndex_upto (Upto.refl _ s)
      (show 0x380020000 &&& maskOf (commits ++ [.ft]) = 0x380020000 from by decide)

theorem exec_ftWriteIndex_upto (req : Req) (index : BitVec 17) (key : DWord) (ktag : Byte) (result : DWord)
    (rtag : Byte) (s : State) :
    OutUpto (maskOf (footprint (.ftWriteIndex req index key ktag result rtag))) s (exec (.ftWriteIndex req index key ktag result rtag) s) :=
  show OutUpto _ s (execFtWriteIndex req index key ktag result rtag s) from execFtWriteIndex_upto (Upto.refl _ s)
      (show 0x380020000 &&& maskOf (commits ++ [.ft]) = 0x380020000 from by decide)

theorem exec_ftFlush_upto (req : Req) (s : State) :
    OutUpto (maskOf (footprint (.ftFlush req))) s (exec (.ftFlush req) s) :=
  show OutUpto _ s (execFtFlush req s) from execFtFlush_upto (Upto.refl _ s)
      (show 0x380020000 &&& maskOf (commits ++ [.ft]) = 0x380020000 from by decide)

theorem exec_epochAdvance_upto (s : State) :
    OutUpto (maskOf (footprint .epochAdvance)) s (exec .epochAdvance s) :=
  show OutUpto _ s (execEpochAdvance s) from execEpochAdvance_upto (Upto.refl _ s)
      (show 0x80020000 &&& maskOf ([.ft, .regs]) = 0x80020000 from by decide)

theorem exec_ageingSweepStep_upto (s : State) :
    OutUpto (maskOf (footprint .ageingSweepStep)) s (exec .ageingSweepStep s) :=
  show OutUpto _ s (execAgeingSweepStep s) from execAgeingSweepStep_upto (Upto.refl _ s)
      (show 0x80020000 &&& maskOf ([.ft, .regs]) = 0x80020000 from by decide)

theorem exec_ctEntryCommit_upto (a : Acc) (s : State) :
    OutUpto (maskOf (footprint (.ctEntryCommit a))) s (exec (.ctEntryCommit a) s) :=
  show OutUpto _ s (execCtEntryCommit a s) from execCtEntryCommit_upto (Upto.refl _ s)
      (show 0x380010000 &&& maskOf (commits ++ [.ssw]) = 0x380010000 from by decide)

theorem exec_sswTx_upto (a : Acc) (s : State) :
    OutUpto (maskOf (footprint (.sswTx a))) s (exec (.sswTx a) s) :=
  show OutUpto _ s (execSswTx a s) from execSswTx_upto (Upto.refl _ s)
      (show 0x2bd7c8c880 &&& maskOf (reports ++ commits ++ [.pat, .stl, .eth, .sth, .skm, .rld]) = 0x2bd7c8c880 from by decide)

theorem exec_ethLinkUp_upto (port : Fin 24) (s : State) :
    OutUpto (maskOf (footprint (.ethLinkUp port))) s (exec (.ethLinkUp port) s) :=
  show OutUpto _ s (execEthLinkUp port s) from execEthLinkUp_upto (Upto.refl _ s)
      (show 0x80488000 &&& maskOf (raises ++ [.eth]) = 0x80488000 from by decide)

theorem exec_ethLinkDown_upto (port : Fin 24) (block : Bool) (fec : Bool) (align : Bool) (s : State) :
    OutUpto (maskOf (footprint (.ethLinkDown port block fec align))) s (exec (.ethLinkDown port block fec align) s) :=
  show OutUpto _ s (execEthLinkDown port block fec align s) from execEthLinkDown_upto (Upto.refl _ s)
      (show 0xd3c8c080 &&& maskOf (reports ++ [.stl, .eth]) = 0xd3c8c080 from by decide)

theorem exec_egressSelect_upto (port : Fin 24) (s : State) :
    OutUpto (maskOf (footprint (.egressSelect port))) s (exec (.egressSelect port) s) :=
  show OutUpto _ s (execEgressSelect port s) from execEgressSelect_upto (Upto.refl _ s)
      (show 0xd3c9c080 &&& maskOf (reports ++ [.stl, .eth, .ssw]) = 0xd3c9c080 from by decide)

theorem exec_gateDrop_upto (port : Fin 24) (queue : Fin 64) (s : State) :
    OutUpto (maskOf (footprint (.gateDrop port queue))) s (exec (.gateDrop port queue) s) :=
  show OutUpto _ s (execGateDrop port queue s) from execGateDrop_upto (Upto.refl _ s)
      (show 0xd3c8c080 &&& maskOf (reports ++ [.stl, .eth]) = 0xd3c8c080 from by decide)

theorem exec_queueMonitorSample_upto (s : State) :
    OutUpto (maskOf (footprint .queueMonitorSample)) s (exec .queueMonitorSample s) :=
  show OutUpto _ s (execQueueMonitorSample s) from execQueueMonitorSample_upto (Upto.refl _ s)
      (show 0x18000 &&& maskOf ([.eth, .ssw]) = 0x18000 from by decide)

theorem exec_egBktCommit_upto (a : Acc) (s : State) :
    OutUpto (maskOf (footprint (.egBktCommit a))) s (exec (.egBktCommit a) s) :=
  show OutUpto _ s (execEgBktCommit a s) from execEgBktCommit_upto (Upto.refl _ s)
      (show 0x380010000 &&& maskOf (commits ++ [.ssw]) = 0x380010000 from by decide)

theorem exec_egPolCommit_upto (a : Acc) (s : State) :
    OutUpto (maskOf (footprint (.egPolCommit a))) s (exec (.egPolCommit a) s) :=
  show OutUpto _ s (execEgPolCommit a s) from execEgPolCommit_upto (Upto.refl _ s)
      (show 0x380010000 &&& maskOf (commits ++ [.ssw]) = 0x380010000 from by decide)

theorem exec_pcieLinkUp_upto (mag : Fin 16) (speed : Fin 5) (width : Fin 5) (ident : MagIdent) (s : State) :
    OutUpto (maskOf (footprint (.pcieLinkUp mag speed width ident))) s (exec (.pcieLinkUp mag speed width ident) s) :=
  show OutUpto _ s (execPcieLinkUp mag speed width ident s) from execPcieLinkUp_upto (Upto.refl _ s)
      (show 0x90480000 &&& maskOf (raises ++ [.mag]) = 0x90480000 from by decide)

theorem exec_magazineScan_upto (mag : Fin 16) (sbA : List Byte) (sbB : List Byte) (journal : List (List Byte))
    (s : State) :
    OutUpto (maskOf (footprint (.magazineScan mag sbA sbB journal))) s (exec (.magazineScan mag sbA sbB journal) s) :=
  show OutUpto _ s (execMagazineScan mag sbA sbB journal s) from execMagazineScan_upto (Upto.refl _ s)
      (show 0x90480000 &&& maskOf (raises ++ [.mag]) = 0x90480000 from by decide)

theorem exec_magLost_upto (mag : Fin 16) (s : State) :
    OutUpto (maskOf (footprint (.magLost mag))) s (exec (.magLost mag) s) :=
  show OutUpto _ s (execMagLost mag s) from execMagLost_upto (Upto.refl _ s)
      (show 0xd3c84080 &&& maskOf (reports ++ [.stl]) = 0xd3c84080 from by decide)

theorem exec_magFormat_upto (req : Req) (mag : Fin 16) (extsh : BitVec 4) (s : State) :
    OutUpto (maskOf (footprint (.magFormat req mag extsh))) s (exec (.magFormat req mag extsh) s) :=
  show OutUpto _ s (execMagFormat req mag extsh s) from execMagFormat_upto (Upto.refl _ s)
      (show 0x3d3c84081 &&& maskOf (reports ++ commits ++ [.free, .stl]) = 0x3d3c84081 from by decide)

theorem exec_magOpen_upto (req : Req) (mag : Fin 16) (take : BitVec 48) (s : State) :
    OutUpto (maskOf (footprint (.magOpen req mag take))) s (exec (.magOpen req mag take) s) :=
  show OutUpto _ s (execMagOpen req mag take s) from execMagOpen_upto (Upto.refl _ s)
      (show 0x3d3c84081 &&& maskOf (reports ++ commits ++ [.free, .stl]) = 0x3d3c84081 from by decide)

theorem exec_magClose_upto (req : Req) (mag : Fin 16) (s : State) :
    OutUpto (maskOf (footprint (.magClose req mag))) s (exec (.magClose req mag) s) :=
  show OutUpto _ s (execMagClose req mag s) from execMagClose_upto (Upto.refl _ s)
      (show 0x3d3c84081 &&& maskOf (reports ++ commits ++ [.free, .stl]) = 0x3d3c84081 from by decide)

theorem exec_magDetach_upto (req : Req) (mag : Fin 16) (s : State) :
    OutUpto (maskOf (footprint (.magDetach req mag))) s (exec (.magDetach req mag) s) :=
  show OutUpto _ s (execMagDetach req mag s) from execMagDetach_upto (Upto.refl _ s)
      (show 0x3d3c84081 &&& maskOf (reports ++ commits ++ [.free, .stl]) = 0x3d3c84081 from by decide)

theorem exec_apertureWrite_upto (req : Req) (mag : Fin 16) (stream : Fin 16) (data : DWord) (s : State) :
    OutUpto (maskOf (footprint (.apertureWrite req mag stream data))) s (exec (.apertureWrite req mag stream data) s) :=
  show OutUpto _ s (execApertureWrite req mag stream data s) from execApertureWrite_upto (Upto.refl _ s)
      (show 0xd3c84080 &&& maskOf (reports ++ [.stl]) = 0xd3c84080 from by decide)

theorem exec_landingSubmit_upto (mag : Fin 16) (stream : Fin 16) (s : State) :
    OutUpto (maskOf (footprint (.landingSubmit mag stream))) s (exec (.landingSubmit mag stream) s) :=
  show OutUpto _ s (execLandingSubmit mag stream s) from execLandingSubmit_upto (Upto.refl _ s)
      (show 0xd3c84080 &&& maskOf (reports ++ [.stl]) = 0xd3c84080 from by decide)

theorem exec_codedPictureRecord_upto (mag : Fin 16) (s : State) :
    OutUpto (maskOf (footprint (.codedPictureRecord mag))) s (exec (.codedPictureRecord mag) s) :=
  show OutUpto _ s (execCodedPictureRecord mag s) from execCodedPictureRecord_upto (Upto.refl _ s)
      (show 0xd3c84080 &&& maskOf (reports ++ [.stl]) = 0xd3c84080 from by decide)

theorem exec_nvmeWriteComplete_upto (mag : Fin 16) (index : Nat) (ok : Bool) (s : State) :
    OutUpto (maskOf (footprint (.nvmeWriteComplete mag index ok))) s (exec (.nvmeWriteComplete mag index ok) s) :=
  show OutUpto _ s (execNvmeWriteComplete mag index ok s) from execNvmeWriteComplete_upto (Upto.refl _ s)
      (show 0xd3c84080 &&& maskOf (reports ++ [.stl]) = 0xd3c84080 from by decide)

theorem exec_journalSubmit_upto (mag : Fin 16) (s : State) :
    OutUpto (maskOf (footprint (.journalSubmit mag))) s (exec (.journalSubmit mag) s) :=
  show OutUpto _ s (execJournalSubmit mag s) from execJournalSubmit_upto (Upto.refl _ s)
      (show 0x10000000 &&& maskOf ([.mag]) = 0x10000000 from by decide)

theorem exec_journalWriteComplete_upto (mag : Fin 16) (ok : Bool) (s : State) :
    OutUpto (maskOf (footprint (.journalWriteComplete mag ok))) s (exec (.journalWriteComplete mag ok) s) :=
  show OutUpto _ s (execJournalWriteComplete mag ok s) from execJournalWriteComplete_upto (Upto.refl _ s)
      (show 0xd3c84080 &&& maskOf (reports ++ [.stl]) = 0xd3c84080 from by decide)

theorem exec_magSlow_upto (mag : Fin 16) (stream : Fin 16) (s : State) :
    OutUpto (maskOf (footprint (.magSlow mag stream))) s (exec (.magSlow mag stream) s) :=
  show OutUpto _ s (execMagSlow mag stream s) from execMagSlow_upto (Upto.refl _ s)
      (show 0xd3c84080 &&& maskOf (reports ++ [.stl]) = 0xd3c84080 from by decide)

theorem exec_readApertureRead_upto (req : Req) (mag : Fin 16) (stream : Fin 16) (bits : Nat) (s : State) :
    OutUpto (maskOf (footprint (.readApertureRead req mag stream bits))) s (exec (.readApertureRead req mag stream bits) s) :=
  show OutUpto _ s (execReadApertureRead req mag stream bits s) from execReadApertureRead_upto (Upto.refl _ s)
      (show 0x290000000 &&& maskOf ([.mag, .regs, .fabric]) = 0x290000000 from by decide)

theorem exec_magazineInputDeliver_upto (slot : Fin 256) (input : Fin 16) (s : State) :
    OutUpto (maskOf (footprint (.magazineInputDeliver slot input))) s (exec (.magazineInputDeliver slot input) s) :=
  show OutUpto _ s (execMagazineInputDeliver slot input s) from execMagazineInputDeliver_upto (Upto.refl _ s)
      (show 0x20040000 &&& maskOf ([.arrivals, .magIn]) = 0x20040000 from by decide)

theorem exec_inboundRequest_upto (mag : Fin 16) (target : MagTarget) (s : State) :
    OutUpto (maskOf (footprint (.inboundRequest mag target))) s (exec (.inboundRequest mag target) s) :=
  show OutUpto _ s (execInboundRequest mag target s) from execInboundRequest_upto (Upto.refl _ s)
      (show 0x80480000 &&& maskOf (raises) = 0x80480000 from by decide)

theorem exec_mgperstRelease_upto (mag : Fin 16) (s : State) :
    OutUpto (maskOf (footprint (.mgperstRelease mag))) s (exec (.mgperstRelease mag) s) :=
  show OutUpto _ s (execMgperstRelease mag s) from execMgperstRelease_upto (Upto.refl _ s)
      (show 0x10000000 &&& maskOf ([.mag]) = 0x10000000 from by decide)

theorem exec_interruptArrival_upto (src : Fin 1024) (s : State) :
    OutUpto (maskOf (footprint (.interruptArrival src))) s (exec (.interruptArrival src) s) :=
  show OutUpto _ s (execInterruptArrival src s) from execInterruptArrival_upto (Upto.refl _ s)
      (show 0x80480000 &&& maskOf (raises) = 0x80480000 from by decide)

theorem exec_groupHoldExpire_upto (group : Fin 64) (s : State) :
    OutUpto (maskOf (footprint (.groupHoldExpire group))) s (exec (.groupHoldExpire group) s) :=
  show OutUpto _ s (execGroupHoldExpire group s) from execGroupHoldExpire_upto (Upto.refl _ s)
      (show 0x80480000 &&& maskOf (raises) = 0x80480000 from by decide)

theorem exec_ictClaim_upto (req : Req) (ctx : Fin 8) (s : State) :
    OutUpto (maskOf (footprint (.ictClaim req ctx))) s (exec (.ictClaim req ctx) s) :=
  show OutUpto _ s (execIctClaim req ctx s) from execIctClaim_upto (Upto.refl _ s)
      (show 0x280080000 &&& maskOf ([.ict, .regs, .fabric]) = 0x280080000 from by decide)

theorem exec_ictComplete_upto (req : Req) (ctx : Fin 8) (src : BitVec 10) (s : State) :
    OutUpto (maskOf (footprint (.ictComplete req ctx src))) s (exec (.ictComplete req ctx src) s) :=
  show OutUpto _ s (execIctComplete req ctx src s) from execIctComplete_upto (Upto.refl _ s)
      (show 0x380080000 &&& maskOf (commits ++ [.ict]) = 0x380080000 from by decide)

theorem exec_thresholdRestore_upto (ctx : Fin 8) (s : State) :
    OutUpto (maskOf (footprint (.thresholdRestore ctx))) s (exec (.thresholdRestore ctx) s) :=
  show OutUpto _ s (execThresholdRestore ctx s) from execThresholdRestore_upto (Upto.refl _ s)
      (show 0x80080000 &&& maskOf ([.ict, .regs]) = 0x80080000 from by decide)

theorem exec_ictSwiWrite_upto (a : Acc) (s : State) :
    OutUpto (maskOf (footprint (.ictSwiWrite a))) s (exec (.ictSwiWrite a) s) :=
  show OutUpto _ s (execIctSwiWrite a s) from execIctSwiWrite_upto (Upto.refl _ s)
      (show 0x380480000 &&& maskOf (raises ++ commits) = 0x380480000 from by decide)

theorem exec_mailboxWrite_upto (req : Req) (box : Fin 256) (payload : DWord) (tag : Byte) (s : State) :
    OutUpto (maskOf (footprint (.mailboxWrite req box payload tag))) s (exec (.mailboxWrite req box payload tag) s) :=
  show OutUpto _ s (execMailboxWrite req box payload tag s) from execMailboxWrite_upto (Upto.refl _ s)
      (show 0xbd7d80080 &&& maskOf (reports ++ commits ++ [.mbx, .sth, .skm]) = 0xbd7d80080 from by decide)

theorem exec_mailboxRead_upto (req : Req) (box : Fin 256) (s : State) :
    OutUpto (maskOf (footprint (.mailboxRead req box))) s (exec (.mailboxRead req box) s) :=
  show OutUpto _ s (execMailboxRead req box s) from execMailboxRead_upto (Upto.refl _ s)
      (show 0x284100000 &&& maskOf ([.mbx, .sth, .regs, .fabric]) = 0x284100000 from by decide)

theorem exec_mailboxTimeout_upto (box : Fin 256) (s : State) :
    OutUpto (maskOf (footprint (.mailboxTimeout box))) s (exec (.mailboxTimeout box) s) :=
  show OutUpto _ s (execMailboxTimeout box s) from execMailboxTimeout_upto (Upto.refl _ s)
      (show 0xd3d80080 &&& maskOf (reports ++ [.mbx]) = 0xd3d80080 from by decide)

theorem exec_semLockRead_upto (req : Req) (sem : Fin 256) (s : State) :
    OutUpto (maskOf (footprint (.semLockRead req sem))) s (exec (.semLockRead req sem) s) :=
  show OutUpto _ s (execSemLockRead req sem s) from execSemLockRead_upto (Upto.refl _ s)
      (show 0x280200000 &&& maskOf ([.sem, .regs, .fabric]) = 0x280200000 from by decide)

theorem exec_semRelease_upto (req : Req) (sem : Fin 256) (s : State) :
    OutUpto (maskOf (footprint (.semRelease req sem))) s (exec (.semRelease req sem) s) :=
  show OutUpto _ s (execSemRelease req sem s) from execSemRelease_upto (Upto.refl _ s)
      (show 0x380680000 &&& maskOf (raises ++ commits ++ [.sem]) = 0x380680000 from by decide)

theorem exec_semRevoke_upto (a : Acc) (s : State) :
    OutUpto (maskOf (footprint (.semRevoke a))) s (exec (.semRevoke a) s) :=
  show OutUpto _ s (execSemRevoke a s) from execSemRevoke_upto (Upto.refl _ s)
      (show 0x380680000 &&& maskOf (raises ++ commits ++ [.sem]) = 0x380680000 from by decide)

theorem exec_flitReplay_upto (link : Fin 8) (ack : BitVec 12) (s : State) :
    OutUpto (maskOf (footprint (.flitReplay link ack))) s (exec (.flitReplay link ack) s) :=
  show OutUpto _ s (execFlitReplay link ack s) from execFlitReplay_upto (Upto.refl _ s)
      (show 0x84000000 &&& maskOf ([.sth, .regs]) = 0x84000000 from by decide)

theorem exec_helloSend_upto (link : Fin 8) (s : State) :
    OutUpto (maskOf (footprint (.helloSend link))) s (exec (.helloSend link) s) :=
  show OutUpto _ s (execHelloSend link s) from execHelloSend_upto (Upto.refl _ s)
      (show 0x4000000 &&& maskOf ([.sth]) = 0x4000000 from by decide)

theorem exec_sthHello_upto (link : Fin 8) (x : HelloInfo) (s : State) :
    OutUpto (maskOf (footprint (.sthHello link x))) s (exec (.sthHello link x) s) :=
  show OutUpto _ s (execSthHello link x s) from execSthHello_upto (Upto.refl _ s)
      (show 0xd7c80080 &&& maskOf (reports ++ [.sth]) = 0xd7c80080 from by decide)

theorem exec_sthJoin_upto (link : Fin 8) (h : FlitHdr) (uid : DWord) (clevel : Byte) (via : Option (Fin 64 × Fin
    8)) (olink : Fin 8) (attested : Bool) (s : State) :
    OutUpto (maskOf (footprint (.sthJoin link h uid clevel via olink attested))) s (exec (.sthJoin link h uid clevel via olink attested) s) :=
  show OutUpto _ s (execSthJoin link h uid clevel via olink attested s) from execSthJoin_upto (Upto.refl _ s)
      (show 0xd7c80080 &&& maskOf (reports ++ [.sth]) = 0xd7c80080 from by decide)

theorem exec_stitchLinkLost_upto (link : Fin 8) (s : State) :
    OutUpto (maskOf (footprint (.stitchLinkLost link))) s (exec (.stitchLinkLost link) s) :=
  show OutUpto _ s (execStitchLinkLost link s) from execStitchLinkLost_upto (Upto.refl _ s)
      (show 0xd7c80082 &&& maskOf (reports ++ [.rck, .sth]) = 0xd7c80082 from by decide)

theorem exec_phaseSend_upto (link : Fin 8) (s : State) :
    OutUpto (maskOf (footprint (.phaseSend link))) s (exec (.phaseSend link) s) :=
  show OutUpto _ s (execPhaseSend link s) from execPhaseSend_upto (Upto.refl _ s)
      (show 0x4000000 &&& maskOf ([.sth]) = 0x4000000 from by decide)

theorem exec_phaseFlit_upto (link : Fin 8) (x : PhaseInfo) (s : State) :
    OutUpto (maskOf (footprint (.phaseFlit link x))) s (exec (.phaseFlit link x) s) :=
  show OutUpto _ s (execPhaseFlit link x s) from execPhaseFlit_upto (Upto.refl _ s)
      (show 0xd7c80083 &&& maskOf (reports ++ [.free, .rck, .sth]) = 0xd7c80083 from by decide)

theorem exec_phaseLost_upto (s : State) :
    OutUpto (maskOf (footprint .phaseLost)) s (exec .phaseLost s) :=
  show OutUpto _ s (execPhaseLost s) from execPhaseLost_upto (Upto.refl _ s)
      (show 0xd3c80082 &&& maskOf (reports ++ [.rck]) = 0xd3c80082 from by decide)

theorem exec_remoteAccess_upto (req : Req) (data : DWord) (wr : Bool) (w64 : Bool) (dev : Fin 64) (offset :
    BitVec 24) (s : State) :
    OutUpto (maskOf (footprint (.remoteAccess req data wr w64 dev offset))) s (exec (.remoteAccess req data wr w64 dev offset) s) :=
  show OutUpto _ s (execRemoteAccess req data wr w64 dev offset s) from execRemoteAccess_upto (Upto.refl _ s)
      (show 0x3fffffffff &&& maskOf (allParts) = 0x3fffffffff from by decide)

theorem exec_remoteAccessServe_upto (link : Fin 8) (h : FlitHdr) (origin : Byte) (wr : Bool) (w64 : Bool)
    (offset : BitVec 24) (data : DWord) (s : State) :
    OutUpto (maskOf (footprint (.remoteAccessServe link h origin wr w64 offset data))) s (exec (.remoteAccessServe link h origin wr w64 offset data) s) :=
  show OutUpto _ s (execRemoteAccessServe link h origin wr w64 offset data s) from execRemoteAccessServe_upto (Upto.refl _ s)
      (show 0x3fffffffff &&& maskOf (allParts) = 0x3fffffffff from by decide)

theorem exec_remoteAccessAnswer_upto (link : Fin 8) (h : FlitHdr) (req : Req) (result : BitVec 4) (cause :
    BitVec 4) (data : DWord) (s : State) :
    OutUpto (maskOf (footprint (.remoteAccessAnswer link h req result cause data))) s (exec (.remoteAccessAnswer link h req result cause data) s) :=
  show OutUpto _ s (execRemoteAccessAnswer link h req result cause data s) from execRemoteAccessAnswer_upto (Upto.refl _ s)
      (show 0x86000000 &&& maskOf ([.tly, .sth, .regs]) = 0x86000000 from by decide)

theorem exec_remoteAccessTimeout_upto (req : Req) (s : State) :
    OutUpto (maskOf (footprint (.remoteAccessTimeout req))) s (exec (.remoteAccessTimeout req) s) :=
  show OutUpto _ s (execRemoteAccessTimeout req s) from execRemoteAccessTimeout_upto (Upto.refl _ s)
      (show 0x4000000 &&& maskOf ([.sth]) = 0x4000000 from by decide)

theorem exec_remoteReset_upto (link : Fin 8) (h : FlitHdr) (straps : Word) (s : State) :
    OutUpto (maskOf (footprint (.remoteReset link h straps))) s (exec (.remoteReset link h straps) s) :=
  show OutUpto _ s (execRemoteReset link h straps s) from execRemoteReset_upto (Upto.refl _ s)
      (show 0x3ffffffffe &&& maskOf (allBut [.free]) = 0x3ffffffffe from by decide)

theorem exec_remoteMailboxDeliver_upto (link : Fin 8) (h : FlitHdr) (origin : Fin 256) (box : Fin 256) (payload
    : DWord) (tag : Byte) (s : State) :
    OutUpto (maskOf (footprint (.remoteMailboxDeliver link h origin box payload tag))) s (exec (.remoteMailboxDeliver link h origin box payload tag) s) :=
  show OutUpto _ s (execRemoteMailboxDeliver link h origin box payload tag s) from execRemoteMailboxDeliver_upto (Upto.refl _ s)
      (show 0x8d7d80080 &&& maskOf (reports ++ [.mbx, .sth, .skm]) = 0x8d7d80080 from by decide)

theorem exec_remoteMailboxAck_upto (link : Fin 8) (h : FlitHdr) (box : Fin 256) (s : State) :
    OutUpto (maskOf (footprint (.remoteMailboxAck link h box))) s (exec (.remoteMailboxAck link h box) s) :=
  show OutUpto _ s (execRemoteMailboxAck link h box s) from execRemoteMailboxAck_upto (Upto.refl _ s)
      (show 0x86100000 &&& maskOf ([.mbx, .tly, .sth, .regs]) = 0x86100000 from by decide)

theorem exec_stitchUnitReceive_upto (link : Fin 8) (h : FlitHdr) (stream : BitVec 16) (no : BitVec 16) (ts :
    Word) (marker : Bool) (note : Option (BitVec 128)) (data : List Byte) (s : State) :
    OutUpto (maskOf (footprint (.stitchUnitReceive link h stream no ts marker note data))) s (exec (.stitchUnitReceive link h stream no ts marker note data) s) :=
  show OutUpto _ s (execStitchUnitReceive link h stream no ts marker note data s) from execStitchUnitReceive_upto (Upto.refl _ s)
      (show 0x86040000 &&& maskOf ([.arrivals, .tly, .sth, .regs]) = 0x86040000 from by decide)

theorem exec_tileSendPoll_upto (chan : Fin 32) (s : State) :
    OutUpto (maskOf (footprint (.tileSendPoll chan))) s (exec (.tileSendPoll chan) s) :=
  show OutUpto _ s (execTileSendPoll chan s) from execTileSendPoll_upto (Upto.refl _ s)
      (show 0x8d7c80080 &&& maskOf (reports ++ [.sth, .skm]) = 0x8d7c80080 from by decide)

theorem exec_tileBlockReceive_upto (link : Fin 8) (h : FlitHdr) (chan : Fin 32) (skein : Fin 16) (ring : BitVec
    19) (addr : BitVec 19) (block : List Native) (pidx : Word) (s : State) :
    OutUpto (maskOf (footprint (.tileBlockReceive link h chan skein ring addr block pidx))) s (exec (.tileBlockReceive link h chan skein ring addr block pidx) s) :=
  show OutUpto _ s (execTileBlockReceive link h chan skein ring addr block pidx s) from execTileBlockReceive_upto (Upto.refl _ s)
      (show 0x886000000 &&& maskOf ([.tly, .sth, .regs, .skm]) = 0x886000000 from by decide)

theorem exec_tileCidxPoll_upto (src : Fin 64) (chan : Fin 32) (s : State) :
    OutUpto (maskOf (footprint (.tileCidxPoll src chan))) s (exec (.tileCidxPoll src chan) s) :=
  show OutUpto _ s (execTileCidxPoll src chan s) from execTileCidxPoll_upto (Upto.refl _ s)
      (show 0x8d7c80080 &&& maskOf (reports ++ [.sth, .skm]) = 0x8d7c80080 from by decide)

theorem exec_stageKeyRequest_upto (link : Fin 8) (h : FlitHdr) (stagepat : BitVec 16) (out : Fin 4) (s : State)
    :
    OutUpto (maskOf (footprint (.stageKeyRequest link h stagepat out))) s (exec (.stageKeyRequest link h stagepat out) s) :=
  show OutUpto _ s (execStageKeyRequest link h stagepat out s) from execStageKeyRequest_upto (Upto.refl _ s)
      (show 0x86000800 &&& maskOf ([.pat, .tly, .sth, .regs]) = 0x86000800 from by decide)

theorem exec_sysLossRead_upto (req : Req) (s : State) :
    OutUpto (maskOf (footprint (.sysLossRead req))) s (exec (.sysLossRead req) s) :=
  show OutUpto _ s (execSysLossRead req s) from execSysLossRead_upto (Upto.refl _ s)
      (show 0x284000000 &&& maskOf ([.sth, .regs, .fabric]) = 0x284000000 from by decide)

theorem exec_sthPlace_upto (req : Req) (addr : BitVec 48) (s : State) :
    OutUpto (maskOf (footprint (.sthPlace req addr))) s (exec (.sthPlace req addr) s) :=
  show OutUpto _ s (execSthPlace req addr s) from execSthPlace_upto (Upto.refl _ s)
      (show 0x384480000 &&& maskOf (raises ++ commits ++ [.sth]) = 0x384480000 from by decide)

theorem exec_sthUnplace_upto (req : Req) (stagepat : BitVec 16) (s : State) :
    OutUpto (maskOf (footprint (.sthUnplace req stagepat))) s (exec (.sthUnplace req stagepat) s) :=
  show OutUpto _ s (execSthUnplace req stagepat s) from execSthUnplace_upto (Upto.refl _ s)
      (show 0x384480000 &&& maskOf (raises ++ commits ++ [.sth]) = 0x384480000 from by decide)

theorem exec_sthForget_upto (req : Req) (dev : Fin 64) (s : State) :
    OutUpto (maskOf (footprint (.sthForget req dev))) s (exec (.sthForget req dev) s) :=
  show OutUpto _ s (execSthForget req dev s) from execSthForget_upto (Upto.refl _ s)
      (show 0x384480000 &&& maskOf (raises ++ commits ++ [.sth]) = 0x384480000 from by decide)

theorem exec_sthmAdmit_upto (a : Acc) (s : State) :
    OutUpto (maskOf (footprint (.sthmAdmit a))) s (exec (.sthmAdmit a) s) :=
  show OutUpto _ s (execSthmAdmit a s) from execSthmAdmit_upto (Upto.refl _ s)
      (show 0x3d7c80080 &&& maskOf (reports ++ commits ++ [.sth]) = 0x3d7c80080 from by decide)

theorem exec_secVerify_upto (req : Req) (addr : BitVec 48) (s : State) :
    OutUpto (maskOf (footprint (.secVerify req addr))) s (exec (.secVerify req addr) s) :=
  show OutUpto _ s (execSecVerify req addr s) from execSecVerify_upto (Upto.refl _ s)
      (show 0x2fdfc80981 &&& maskOf (reports ++ commits ++ [.free, .bank, .pat, .sth, .sec, .sram, .skm, .rld]) = 0x2fdfc80981 from by decide)

theorem exec_secInstall_upto (req : Req) (addr : BitVec 48) (s : State) :
    OutUpto (maskOf (footprint (.secInstall req addr))) s (exec (.secInstall req addr) s) :=
  show OutUpto _ s (execSecInstall req addr s) from execSecInstall_upto (Upto.refl _ s)
      (show 0x2fdfc80981 &&& maskOf (reports ++ commits ++ [.free, .bank, .pat, .sth, .sec, .sram, .skm, .rld]) = 0x2fdfc80981 from by decide)

theorem exec_secConfirm_upto (req : Req) (s : State) :
    OutUpto (maskOf (footprint (.secConfirm req))) s (exec (.secConfirm req) s) :=
  show OutUpto _ s (execSecConfirm req s) from execSecConfirm_upto (Upto.refl _ s)
      (show 0x2fdfc80981 &&& maskOf (reports ++ commits ++ [.free, .bank, .pat, .sth, .sec, .sram, .skm, .rld]) = 0x2fdfc80981 from by decide)

theorem exec_secAdvance_upto (req : Req) (target : BitVec 7) (s : State) :
    OutUpto (maskOf (footprint (.secAdvance req target))) s (exec (.secAdvance req target) s) :=
  show OutUpto _ s (execSecAdvance req target s) from execSecAdvance_upto (Upto.refl _ s)
      (show 0x2fdfc80981 &&& maskOf (reports ++ commits ++ [.free, .bank, .pat, .sth, .sec, .sram, .skm, .rld]) = 0x2fdfc80981 from by decide)

theorem exec_secClaim_upto (req : Req) (addr : BitVec 48) (s : State) :
    OutUpto (maskOf (footprint (.secClaim req addr))) s (exec (.secClaim req addr) s) :=
  show OutUpto _ s (execSecClaim req addr s) from execSecClaim_upto (Upto.refl _ s)
      (show 0x2fdfc80981 &&& maskOf (reports ++ commits ++ [.free, .bank, .pat, .sth, .sec, .sram, .skm, .rld]) = 0x2fdfc80981 from by decide)

theorem exec_secEquiv_upto (req : Req) (addr : BitVec 48) (s : State) :
    OutUpto (maskOf (footprint (.secEquiv req addr))) s (exec (.secEquiv req addr) s) :=
  show OutUpto _ s (execSecEquiv req addr s) from execSecEquiv_upto (Upto.refl _ s)
      (show 0x2fdfc80981 &&& maskOf (reports ++ commits ++ [.free, .bank, .pat, .sth, .sec, .sram, .skm, .rld]) = 0x2fdfc80981 from by decide)

theorem exec_secAttest_upto (req : Req) (addr : BitVec 48) (s : State) :
    OutUpto (maskOf (footprint (.secAttest req addr))) s (exec (.secAttest req addr) s) :=
  show OutUpto _ s (execSecAttest req addr s) from execSecAttest_upto (Upto.refl _ s)
      (show 0x2fdfc80981 &&& maskOf (reports ++ commits ++ [.free, .bank, .pat, .sth, .sec, .sram, .skm, .rld]) = 0x2fdfc80981 from by decide)

theorem exec_secKeyrev_upto (req : Req) (s : State) :
    OutUpto (maskOf (footprint (.secKeyrev req))) s (exec (.secKeyrev req) s) :=
  show OutUpto _ s (execSecKeyrev req s) from execSecKeyrev_upto (Upto.refl _ s)
      (show 0x2fdfc80981 &&& maskOf (reports ++ commits ++ [.free, .bank, .pat, .sth, .sec, .sram, .skm, .rld]) = 0x2fdfc80981 from by decide)

theorem exec_nloadLib_upto (req : Req) (addr : BitVec 48) (bank : Bool) (skmask : BitVec 16) (s : State) :
    OutUpto (maskOf (footprint (.nloadLib req addr bank skmask))) s (exec (.nloadLib req addr bank skmask) s) :=
  show OutUpto _ s (execNloadLib req addr bank skmask s) from execNloadLib_upto (Upto.refl _ s)
      (show 0x2fdfc80981 &&& maskOf (reports ++ commits ++ [.free, .bank, .pat, .sth, .sec, .sram, .skm, .rld]) = 0x2fdfc80981 from by decide)

theorem exec_nloadCust_upto (req : Req) (addr : BitVec 48) (bank : Bool) (skmask : BitVec 16) (s : State) :
    OutUpto (maskOf (footprint (.nloadCust req addr bank skmask))) s (exec (.nloadCust req addr bank skmask) s) :=
  show OutUpto _ s (execNloadCust req addr bank skmask s) from execNloadCust_upto (Upto.refl _ s)
      (show 0x2fdfc80981 &&& maskOf (reports ++ commits ++ [.free, .bank, .pat, .sth, .sec, .sram, .skm, .rld]) = 0x2fdfc80981 from by decide)

theorem exec_nloadClear_upto (req : Req) (bank : Bool) (skmask : BitVec 16) (s : State) :
    OutUpto (maskOf (footprint (.nloadClear req bank skmask))) s (exec (.nloadClear req bank skmask) s) :=
  show OutUpto _ s (execNloadClear req bank skmask s) from execNloadClear_upto (Upto.refl _ s)
      (show 0x2fdfc80981 &&& maskOf (reports ++ commits ++ [.free, .bank, .pat, .sth, .sec, .sram, .skm, .rld]) = 0x2fdfc80981 from by decide)

theorem exec_nanoBankLoadDone_upto (bad : BitVec 16) (s : State) :
    OutUpto (maskOf (footprint (.nanoBankLoadDone bad))) s (exec (.nanoBankLoadDone bad) s) :=
  show OutUpto _ s (execNanoBankLoadDone bad s) from execNanoBankLoadDone_upto (Upto.refl _ s)
      (show 0x2cdfc80981 &&& maskOf (reports ++ [.free, .bank, .pat, .sth, .sec, .sram, .skm, .rld]) = 0x2cdfc80981 from by decide)

theorem exec_secBootgo_upto (a : Acc) (s : State) :
    OutUpto (maskOf (footprint (.secBootgo a))) s (exec (.secBootgo a) s) :=
  show OutUpto _ s (execSecBootgo a s) from execSecBootgo_upto (Upto.refl _ s)
      (show 0x388000000 &&& maskOf (commits ++ [.sec]) = 0x388000000 from by decide)

theorem exec_jtagSecchal_upto (s : State) :
    OutUpto (maskOf (footprint .jtagSecchal)) s (exec .jtagSecchal s) :=
  show OutUpto _ s (execJtagSecchal s) from execJtagSecchal_upto (Upto.refl _ s)
      (show 0x8000001 &&& maskOf ([.free, .sec]) = 0x8000001 from by decide)

theorem exec_jtagSecunlk_upto (image : List Byte) (s : State) :
    OutUpto (maskOf (footprint (.jtagSecunlk image))) s (exec (.jtagSecunlk image) s) :=
  show OutUpto _ s (execJtagSecunlk image s) from execJtagSecunlk_upto (Upto.refl _ s)
      (show 0xdbc80080 &&& maskOf (reports ++ [.sec]) = 0xdbc80080 from by decide)

theorem exec_secRandRead_upto (req : Req) (s : State) :
    OutUpto (maskOf (footprint (.secRandRead req))) s (exec (.secRandRead req) s) :=
  show OutUpto _ s (execSecRandRead req s) from execSecRandRead_upto (Upto.refl _ s)
      (show 0x280000001 &&& maskOf ([.free, .regs, .fabric]) = 0x280000001 from by decide)

theorem exec_rngfail_upto (s : State) :
    OutUpto (maskOf (footprint .rngfail)) s (exec .rngfail s) :=
  show OutUpto _ s (execRngfail s) from execRngfail_upto (Upto.refl _ s)
      (show 0xdbc80080 &&& maskOf (reports ++ [.sec]) = 0xdbc80080 from by decide)

theorem exec_castOn_upto (ok : Bool) (file : Option (List Byte)) (giveUp : Bool) (s : State) :
    OutUpto (maskOf (footprint (.castOn ok file giveUp))) s (exec (.castOn ok file giveUp) s) :=
  show OutUpto _ s (execCastOn ok file giveUp s) from execCastOn_upto (Upto.refl _ s)
      (show 0x4dbc80082 &&& maskOf (reports ++ [.rck, .sec, .sram]) = 0x4dbc80082 from by decide)

theorem exec_modeStandby_upto (req : Req) (s : State) :
    OutUpto (maskOf (footprint (.modeStandby req))) s (exec (.modeStandby req) s) :=
  show OutUpto _ s (execModeStandby req s) from execModeStandby_upto (Upto.refl _ s)
      (show 0x3d3c80880 &&& maskOf (reports ++ commits ++ [.pat]) = 0x3d3c80880 from by decide)

theorem exec_modeArm_upto (req : Req) (s : State) :
    OutUpto (maskOf (footprint (.modeArm req))) s (exec (.modeArm req) s) :=
  show OutUpto _ s (execModeArm req s) from execModeArm_upto (Upto.refl _ s)
      (show 0x3d3c80880 &&& maskOf (reports ++ commits ++ [.pat]) = 0x3d3c80880 from by decide)

theorem exec_modeRun_upto (req : Req) (s : State) :
    OutUpto (maskOf (footprint (.modeRun req))) s (exec (.modeRun req) s) :=
  show OutUpto _ s (execModeRun req s) from execModeRun_upto (Upto.refl _ s)
      (show 0x3d3c80880 &&& maskOf (reports ++ commits ++ [.pat]) = 0x3d3c80880 from by decide)

theorem exec_modeResume_upto (req : Req) (s : State) :
    OutUpto (maskOf (footprint (.modeResume req))) s (exec (.modeResume req) s) :=
  show OutUpto _ s (execModeResume req s) from execModeResume_upto (Upto.refl _ s)
      (show 0x3d3c80880 &&& maskOf (reports ++ commits ++ [.pat]) = 0x3d3c80880 from by decide)

theorem exec_modeService_upto (req : Req) (s : State) :
    OutUpto (maskOf (footprint (.modeService req))) s (exec (.modeService req) s) :=
  show OutUpto _ s (execModeService req s) from execModeService_upto (Upto.refl _ s)
      (show 0x3d3c80880 &&& maskOf (reports ++ commits ++ [.pat]) = 0x3d3c80880 from by decide)

theorem exec_modeUpdate_upto (req : Req) (s : State) :
    OutUpto (maskOf (footprint (.modeUpdate req))) s (exec (.modeUpdate req) s) :=
  show OutUpto _ s (execModeUpdate req s) from execModeUpdate_upto (Upto.refl _ s)
      (show 0x3d3c80880 &&& maskOf (reports ++ commits ++ [.pat]) = 0x3d3c80880 from by decide)

theorem exec_modeBindoff_upto (req : Req) (stay : Bool) (s : State) :
    OutUpto (maskOf (footprint (.modeBindoff req stay))) s (exec (.modeBindoff req stay) s) :=
  show OutUpto _ s (execModeBindoff req stay s) from execModeBindoff_upto (Upto.refl _ s)
      (show 0x3d3c80880 &&& maskOf (reports ++ commits ++ [.pat]) = 0x3d3c80880 from by decide)

theorem exec_bindoffTimeout_upto (s : State) :
    OutUpto (maskOf (footprint .bindoffTimeout)) s (exec .bindoffTimeout s) :=
  show OutUpto _ s (execBindoffTimeout s) from execBindoffTimeout_upto (Upto.refl _ s)
      (show 0xd3c80081 &&& maskOf (reports ++ [.free]) = 0xd3c80081 from by decide)

theorem exec_pwrDomreqCommit_upto (w : Fin 7) (a : Acc) (s : State) :
    OutUpto (maskOf (footprint (.pwrDomreqCommit w a))) s (exec (.pwrDomreqCommit w a) s) :=
  show OutUpto _ s (execPwrDomreqCommit w a s) from execPwrDomreqCommit_upto (Upto.refl _ s)
      (show 0x380400000 &&& maskOf (commits ++ [.pwr]) = 0x380400000 from by decide)

theorem exec_domainSwitchDone_upto (s : State) :
    OutUpto (maskOf (footprint .domainSwitchDone)) s (exec .domainSwitchDone s) :=
  show OutUpto _ s (execDomainSwitchDone s) from execDomainSwitchDone_upto (Upto.refl _ s)
      (show 0x3bdfebc7be &&& maskOf (reports ++ commits ++ [.rck, .ptp, .lane, .lfi, .port, .bank, .dist, .skn, .stl, .eth, .ssw, .ft, .sem, .sth, .sec, .skm, .ls, .rld]) = 0x3bdfebc7be from by decide)

theorem exec_domfail_upto (s : State) :
    OutUpto (maskOf (footprint .domfail)) s (exec .domfail s) :=
  show OutUpto _ s (execDomfail s) from execDomfail_upto (Upto.refl _ s)
      (show 0xd3c80080 &&& maskOf (reports) = 0xd3c80080 from by decide)

theorem exec_coreWfiSleep_upto (core : Fin 8) (s : State) :
    OutUpto (maskOf (footprint (.coreWfiSleep core))) s (exec (.coreWfiSleep core) s) :=
  show OutUpto _ s (execCoreWfiSleep core s) from execCoreWfiSleep_upto (Upto.refl _ s)
      (show 0x400000 &&& maskOf ([.pwr]) = 0x400000 from by decide)

theorem exec_wakeEvent_upto (stitch : Bool) (idx : Fin 8) (s : State) :
    OutUpto (maskOf (footprint (.wakeEvent stitch idx))) s (exec (.wakeEvent stitch idx) s) :=
  show OutUpto _ s (execWakeEvent stitch idx s) from execWakeEvent_upto (Upto.refl _ s)
      (show 0x80480000 &&& maskOf (raises) = 0x80480000 from by decide)

theorem exec_pwrIsoclr_upto (a : Acc) (s : State) :
    OutUpto (maskOf (footprint (.pwrIsoclr a))) s (exec (.pwrIsoclr a) s) :=
  show OutUpto _ s (execPwrIsoclr a s) from execPwrIsoclr_upto (Upto.refl _ s)
      (show 0x380400000 &&& maskOf (commits ++ [.pwr]) = 0x380400000 from by decide)

theorem exec_pwrReset_upto (a : Acc) (straps : Word) (s : State) :
    OutUpto (maskOf (footprint (.pwrReset a straps))) s (exec (.pwrReset a straps) s) :=
  show OutUpto _ s (execPwrReset a straps s) from execPwrReset_upto (Upto.refl _ s)
      (show 0x3ffffffffe &&& maskOf (allBut [.free]) = 0x3ffffffffe from by decide)

theorem exec_resetN_upto (low : Bool) (straps : Word) (s : State) :
    OutUpto (maskOf (footprint (.resetN low straps))) s (exec (.resetN low straps) s) :=
  show OutUpto _ s (execResetN low straps s) from execResetN_upto (Upto.refl _ s)
      (show 0x3ffffffffe &&& maskOf (allBut [.free]) = 0x3ffffffffe from by decide)

theorem exec_pwrgdFall_upto (s : State) :
    OutUpto (maskOf (footprint .pwrgdFall)) s (exec .pwrgdFall s) :=
  show OutUpto _ s (execPwrgdFall s) from execPwrgdFall_upto (Upto.refl _ s)
      (show 0x3ffffffffe &&& maskOf (allBut [.free]) = 0x3ffffffffe from by decide)

theorem exec_pfwN_upto (s : State) :
    OutUpto (maskOf (footprint .pfwN)) s (exec .pfwN s) :=
  show OutUpto _ s (execPfwN s) from execPfwN_upto (Upto.refl _ s)
      (show 0xd3c80080 &&& maskOf (reports) = 0xd3c80080 from by decide)

theorem exec_pfwCommit_upto (s : State) :
    OutUpto (maskOf (footprint .pfwCommit)) s (exec .pfwCommit s) :=
  show OutUpto _ s (execPfwCommit s) from execPfwCommit_upto (Upto.refl _ s)
      (show 0x3ffffffffe &&& maskOf (allBut [.free]) = 0x3ffffffffe from by decide)

theorem exec_pfwMagazineClose_upto (s : State) :
    OutUpto (maskOf (footprint .pfwMagazineClose)) s (exec .pfwMagazineClose s) :=
  show OutUpto _ s (execPfwMagazineClose s) from execPfwMagazineClose_upto (Upto.refl _ s)
      (show 0x12400000 &&& maskOf ([.pwr, .tly, .mag]) = 0x12400000 from by decide)

theorem exec_vawnUp_upto (s : State) :
    OutUpto (maskOf (footprint .vawnUp)) s (exec .vawnUp s) :=
  show OutUpto _ s (execVawnUp s) from execVawnUp_upto (Upto.refl _ s)
      (show 0x381480000 &&& maskOf (raises ++ commits ++ [.ldg]) = 0x381480000 from by decide)

theorem exec_vawnDown_upto (s : State) :
    OutUpto (maskOf (footprint .vawnDown)) s (exec .vawnDown s) :=
  show OutUpto _ s (execVawnDown s) from execVawnDown_upto (Upto.refl _ s)
      (show 0x3ffffffffe &&& maskOf (allBut [.free]) = 0x3ffffffffe from by decide)

theorem exec_awningStart_upto (straps : Word) (s : State) :
    OutUpto (maskOf (footprint (.awningStart straps))) s (exec (.awningStart straps) s) :=
  show OutUpto _ s (execAwningStart straps s) from execAwningStart_upto (Upto.refl _ s)
      (show 0x3ffffffffe &&& maskOf (allBut [.free]) = 0x3ffffffffe from by decide)

theorem exec_fclReport_upto (src : Fin 31) (rise : Bool) (sub : Byte) (detail : Word) (req : Req) (s : State) :
    OutUpto (maskOf (footprint (.fclReport src rise sub detail req))) s (exec (.fclReport src rise sub detail req) s) :=
  show OutUpto _ s (execFclReport src rise sub detail req s) from execFclReport_upto (Upto.refl _ s)
      (show 0xd3c80080 &&& maskOf (reports) = 0xd3c80080 from by decide)

theorem exec_fclClr_upto (req : Req) (mask : Word) (word : BitVec 3) (s : State) :
    OutUpto (maskOf (footprint (.fclClr req mask word))) s (exec (.fclClr req mask word) s) :=
  show OutUpto _ s (execFclClr req mask word s) from execFclClr_upto (Upto.refl _ s)
      (show 0x380000000 &&& maskOf (commits) = 0x380000000 from by decide)

theorem exec_fclSevWrite_upto (w : Fin 16) (a : Acc) (s : State) :
    OutUpto (maskOf (footprint (.fclSevWrite w a))) s (exec (.fclSevWrite w a) s) :=
  show OutUpto _ s (execFclSevWrite w a s) from execFclSevWrite_upto (Upto.refl _ s)
      (show 0x3d3c80080 &&& maskOf (reports ++ commits) = 0x3d3c80080 from by decide)

theorem exec_thermalRefresh_upto (tj : Int) (awn : Int) (s : State) :
    OutUpto (maskOf (footprint (.thermalRefresh tj awn))) s (exec (.thermalRefresh tj awn) s) :=
  show OutUpto _ s (execThermalRefresh tj awn s) from execThermalRefresh_upto (Upto.refl _ s)
      (show 0xd3c80080 &&& maskOf (reports) = 0xd3c80080 from by decide)

theorem exec_ledgerRecordWrite_upto (readback : Bool) (s : State) :
    OutUpto (maskOf (footprint (.ledgerRecordWrite readback))) s (exec (.ledgerRecordWrite readback) s) :=
  show OutUpto _ s (execLedgerRecordWrite readback s) from execLedgerRecordWrite_upto (Upto.refl _ s)
      (show 0xd3c80081 &&& maskOf (reports ++ [.free]) = 0xd3c80081 from by decide)

theorem exec_ledgerScan_upto (identity : Bool) (corrected : BitVec 16) (bad : List (Fin 57280)) (s : State) :
    OutUpto (maskOf (footprint (.ledgerScan identity corrected bad))) s (exec (.ledgerScan identity corrected bad) s) :=
  show OutUpto _ s (execLedgerScan identity corrected bad s) from execLedgerScan_upto (Upto.refl _ s)
      (show 0xd3c80080 &&& maskOf (reports) = 0xd3c80080 from by decide)

theorem exec_ldgUrec_upto (req : Req) (payload : BitVec 352) (s : State) :
    OutUpto (maskOf (footprint (.ldgUrec req payload))) s (exec (.ldgUrec req payload) s) :=
  show OutUpto _ s (execLdgUrec req payload s) from execLdgUrec_upto (Upto.refl _ s)
      (show 0x3d3c80080 &&& maskOf (reports ++ commits) = 0x3d3c80080 from by decide)

theorem exec_tlySnap_upto (req : Req) (s : State) :
    OutUpto (maskOf (footprint (.tlySnap req))) s (exec (.tlySnap req) s) :=
  show OutUpto _ s (execTlySnap req s) from execTlySnap_upto (Upto.refl _ s)
      (show 0x382000000 &&& maskOf (commits ++ [.tly]) = 0x382000000 from by decide)

theorem exec_tallySnapshotHourly_upto (s : State) :
    OutUpto (maskOf (footprint .tallySnapshotHourly)) s (exec .tallySnapshotHourly s) :=
  show OutUpto _ s (execTallySnapshotHourly s) from execTallySnapshotHourly_upto (Upto.refl _ s)
      (show 0x2000000 &&& maskOf ([.tly]) = 0x2000000 from by decide)

theorem exec_tallyHistogramSample_upto (supplies : List Int) (use : List Nat) (s : State) :
    OutUpto (maskOf (footprint (.tallyHistogramSample supplies use))) s (exec (.tallyHistogramSample supplies use) s) :=
  show OutUpto _ s (execTallyHistogramSample supplies use s) from execTallyHistogramSample_upto (Upto.refl _ s)
      (show 0x2000000 &&& maskOf ([.tly]) = 0x2000000 from by decide)

theorem exec_tallyLoad_upto (s : State) :
    OutUpto (maskOf (footprint .tallyLoad)) s (exec .tallyLoad s) :=
  show OutUpto _ s (execTallyLoad s) from execTallyLoad_upto (Upto.refl _ s)
      (show 0xd3c80080 &&& maskOf (reports) = 0xd3c80080 from by decide)

theorem exec_tlyInc_upto (a : Acc) (s : State) :
    OutUpto (maskOf (footprint (.tlyInc a))) s (exec (.tlyInc a) s) :=
  show OutUpto _ s (execTlyInc a s) from execTlyInc_upto (Upto.refl _ s)
      (show 0x382000000 &&& maskOf (commits ++ [.tly]) = 0x382000000 from by decide)

theorem exec_tlyHinc_upto (a : Acc) (s : State) :
    OutUpto (maskOf (footprint (.tlyHinc a))) s (exec (.tlyHinc a) s) :=
  show OutUpto _ s (execTlyHinc a s) from execTlyHinc_upto (Upto.refl _ s)
      (show 0x382000000 &&& maskOf (commits ++ [.tly]) = 0x382000000 from by decide)

theorem exec_rspIdent_upto (dst : BitVec 48) (tag : Byte) (uid : DWord) (s : State) :
    OutUpto (maskOf (footprint (.rspIdent dst tag uid))) s (exec (.rspIdent dst tag uid) s) :=
  show OutUpto _ s (execRspIdent dst tag uid s) from execRspIdent_upto (Upto.refl _ s)
      (show 0x81000000 &&& maskOf ([.ldg, .regs]) = 0x81000000 from by decide)

theorem exec_rspRead_upto (dst : BitVec 48) (tag : Byte) (unit : BitVec 16) (count : Byte) (uid : DWord) (s :
    State) :
    OutUpto (maskOf (footprint (.rspRead dst tag unit count uid))) s (exec (.rspRead dst tag unit count uid) s) :=
  show OutUpto _ s (execRspRead dst tag unit count uid s) from execRspRead_upto (Upto.refl _ s)
      (show 0x81000000 &&& maskOf ([.ldg, .regs]) = 0x81000000 from by decide)

theorem exec_rspWake_upto (dst : BitVec 48) (tag : Byte) (uid : DWord) (s : State) :
    OutUpto (maskOf (footprint (.rspWake dst tag uid))) s (exec (.rspWake dst tag uid) s) :=
  show OutUpto _ s (execRspWake dst tag uid s) from execRspWake_upto (Upto.refl _ s)
      (show 0x81400000 &&& maskOf ([.pwr, .ldg, .regs]) = 0x81400000 from by decide)

theorem exec_trainingFailure_upto (ch : Fin 16) (s : State) :
    OutUpto (maskOf (footprint (.trainingFailure ch))) s (exec (.trainingFailure ch) s) :=
  show OutUpto _ s (execTrainingFailure ch s) from execTrainingFailure_upto (Upto.refl _ s)
      (show 0x20d7c80880 &&& maskOf (reports ++ [.pat, .sth, .rld]) = 0x20d7c80880 from by decide)

theorem exec_stitchLinkUp_upto (link : Fin 8) (s : State) :
    OutUpto (maskOf (footprint (.stitchLinkUp link))) s (exec (.stitchLinkUp link) s) :=
  show OutUpto _ s (execStitchLinkUp link s) from execStitchLinkUp_upto (Upto.refl _ s)
      (show 0x84480000 &&& maskOf (raises ++ [.sth]) = 0x84480000 from by decide)

theorem exec_stitchLinkDown_upto (link : Fin 8) (s : State) :
    OutUpto (maskOf (footprint (.stitchLinkDown link))) s (exec (.stitchLinkDown link) s) :=
  show OutUpto _ s (execStitchLinkDown link s) from execStitchLinkDown_upto (Upto.refl _ s)
      (show 0xd7c80082 &&& maskOf (reports ++ [.rck, .sth]) = 0xd7c80082 from by decide)

theorem exec_flitCrcError_upto (link : Fin 8) (reserved : Bool) (numbered : Bool) (corr : Byte) (uncorr : Byte)
    (s : State) :
    OutUpto (maskOf (footprint (.flitCrcError link reserved numbered corr uncorr))) s (exec (.flitCrcError link reserved numbered corr uncorr) s) :=
  show OutUpto _ s (execFlitCrcError link reserved numbered corr uncorr s) from execFlitCrcError_upto (Upto.refl _ s)
      (show 0x86480000 &&& maskOf (raises ++ [.tly, .sth]) = 0x86480000 from by decide)

theorem exec_flitForward_upto (link : Fin 8) (h : FlitHdr) (msg : StMsg) (s : State) :
    OutUpto (maskOf (footprint (.flitForward link h msg))) s (exec (.flitForward link h msg) s) :=
  show OutUpto _ s (execFlitForward link h msg s) from execFlitForward_upto (Upto.refl _ s)
      (show 0x86000000 &&& maskOf ([.tly, .sth, .regs]) = 0x86000000 from by decide)

theorem exec_joinAnswer_upto (link : Fin 8) (h : FlitHdr) (uid : DWord) (number : Fin 64) (parent : Fin 64)
    (depth : Fin 4) (ok : Bool) (s : State) :
    OutUpto (maskOf (footprint (.joinAnswer link h uid number parent depth ok))) s (exec (.joinAnswer link h uid number parent depth ok) s) :=
  show OutUpto _ s (execJoinAnswer link h uid number parent depth ok s) from execJoinAnswer_upto (Upto.refl _ s)
      (show 0xd7c80082 &&& maskOf (reports ++ [.rck, .sth]) = 0xd7c80082 from by decide)

theorem exec_placementQueryReceive_upto (link : Fin 8) (h : FlitHdr) (slot : Fin 256) (stagepat : BitVec 16)
    (part : Byte) (nparts : Byte) (librev : BitVec 16) (s : State) :
    OutUpto (maskOf (footprint (.placementQueryReceive link h slot stagepat part nparts librev))) s (exec (.placementQueryReceive link h slot stagepat part nparts librev) s) :=
  show OutUpto _ s (execPlacementQueryReceive link h slot stagepat part nparts librev s) from execPlacementQueryReceive_upto (Upto.refl _ s)
      (show 0x86000000 &&& maskOf ([.tly, .sth, .regs]) = 0x86000000 from by decide)

theorem exec_stageKeyRequestReceive_upto (link : Fin 8) (h : FlitHdr) (stagepat : BitVec 16) (out : Fin 4)
    (frame : BitVec 40) (s : State) :
    OutUpto (maskOf (footprint (.stageKeyRequestReceive link h stagepat out frame))) s (exec (.stageKeyRequestReceive link h stagepat out frame) s) :=
  show OutUpto _ s (execStageKeyRequestReceive link h stagepat out frame s) from execStageKeyRequestReceive_upto (Upto.refl _ s)
      (show 0x86000800 &&& maskOf ([.pat, .tly, .sth, .regs]) = 0x86000800 from by decide)

theorem exec_bayLossNoticeReceive_upto (link : Fin 8) (h : FlitHdr) (bay : Fin 4) (slot : Fin 256) (stagepat :
    BitVec 16) (part : Byte) (outs : BitVec 4) (s : State) :
    OutUpto (maskOf (footprint (.bayLossNoticeReceive link h bay slot stagepat part outs))) s (exec (.bayLossNoticeReceive link h bay slot stagepat part outs) s) :=
  show OutUpto _ s (execBayLossNoticeReceive link h bay slot stagepat part outs s) from execBayLossNoticeReceive_upto (Upto.refl _ s)
      (show 0x86480000 &&& maskOf (raises ++ [.tly, .sth]) = 0x86480000 from by decide)

theorem exec_tileCidxReport_upto (link : Fin 8) (h : FlitHdr) (chan : Fin 32) (cidx : Word) (pidx : Word) (s :
    State) :
    OutUpto (maskOf (footprint (.tileCidxReport link h chan cidx pidx))) s (exec (.tileCidxReport link h chan cidx pidx) s) :=
  show OutUpto _ s (execTileCidxReport link h chan cidx pidx s) from execTileCidxReport_upto (Upto.refl _ s)
      (show 0x86000000 &&& maskOf ([.tly, .sth, .regs]) = 0x86000000 from by decide)

theorem exec_imageCheckComplete_upto (flashOk : Bool) (s : State) :
    OutUpto (maskOf (footprint (.imageCheckComplete flashOk))) s (exec (.imageCheckComplete flashOk) s) :=
  show OutUpto _ s (execImageCheckComplete flashOk s) from execImageCheckComplete_upto (Upto.refl _ s)
      (show 0x2cdfc80981 &&& maskOf (reports ++ [.free, .bank, .pat, .sth, .sec, .sram, .skm, .rld]) = 0x2cdfc80981 from by decide)

theorem exec_nvmeReadComplete_upto (mag : Fin 16) (brings : MagRead) (s : State) :
    OutUpto (maskOf (footprint (.nvmeReadComplete mag brings))) s (exec (.nvmeReadComplete mag brings) s) :=
  show OutUpto _ s (execNvmeReadComplete mag brings s) from execNvmeReadComplete_upto (Upto.refl _ s)
      (show 0x30000000 &&& maskOf ([.mag, .magIn]) = 0x30000000 from by decide)

/-- Every next state of a command agrees with its state outside the footprint, and the invariant is kept. -/
theorem exec_upto (c : Instr) (s : State) : OutUpto (maskOf (footprint c)) s (exec c s) := by
  cases c
  · apply exec_registerWrite_upto
  · apply exec_keylockWrite_upto
  · apply exec_unlockExpire_upto
  · apply exec_cfgpar_upto
  · apply exec_patternLoad_upto
  · apply exec_placementCheckAnswer_upto
  · apply exec_placementCheckTimeout_upto
  · apply exec_patternUnload_upto
  · apply exec_unloadComplete_upto
  · apply exec_ptpSyncReceive_upto
  · apply exec_ptpAnnounceReceive_upto
  · apply exec_ptpDelayRespReceive_upto
  · apply exec_ptpDelayReqSend_upto
  · apply exec_domainUnavailable_upto
  · apply exec_ptpCfgCommit_upto
  · apply exec_rckCtrlCommit_upto
  · apply exec_ref10Valid_upto
  · apply exec_ref10Loss_upto
  · apply exec_ppsEdge_upto
  · apply exec_rckStep_upto
  · apply exec_rckDisarm_upto
  · apply exec_rckFmtCommit_upto
  · apply exec_slotArm_upto
  · apply exec_slotDisarm_upto
  · apply exec_slotFire_upto
  · apply exec_phasePulseEnd_upto
  · apply exec_tinEdge_upto
  · apply exec_tinQueueRead_upto
  · apply exec_oscRecord_upto
  · apply exec_signalDetect_upto
  · apply exec_blockLockGain_upto
  · apply exec_blockLockLoss_upto
  · apply exec_alignReceive_upto
  · apply exec_trainReceive_upto
  · apply exec_trainingTimeout_upto
  · apply exec_failRetry_upto
  · apply exec_laneCtrlCommit_upto
  · apply exec_linePacketReceive_upto
  · apply exec_packetAbortClose_upto
  · apply exec_telemetryReceive_upto
  · apply exec_lineDeadline_upto
  · apply exec_lanewordLaunch_upto
  · apply exec_laneTxwQueue_upto
  · apply exec_txwSend_upto
  · apply exec_lfiRead_upto
  · apply exec_lfiMark_upto
  · apply exec_lfiRewind_upto
  · apply exec_lfiRelease_upto
  · apply exec_lfiDrop_upto
  · apply exec_lfiFlush_upto
  · apply exec_lfiIdleNotice_upto
  · apply exec_swtBufQueue_upto
  · apply exec_distributorLineDeliver_upto
  · apply exec_microWordExecute_upto
  · apply exec_microNop_upto
  · apply exec_microJump_upto
  · apply exec_microCall_upto
  · apply exec_microRet_upto
  · apply exec_microDispatch_upto
  · apply exec_microLoop_upto
  · apply exec_microSetlc_upto
  · apply exec_microSeta_upto
  · apply exec_microMova_upto
  · apply exec_microWait_upto
  · apply exec_microRete_upto
  · apply exec_microHoriz_upto
  · apply exec_microTrap_upto
  · apply exec_microStop_upto
  · apply exec_microGnote_upto
  · apply exec_nanoWordExecute_upto
  · apply exec_xferComplete_upto
  · apply exec_horizWordExecute_upto
  · apply exec_safegap_upto
  · apply exec_nanorun_upto
  · apply exec_needleTimerExpire_upto
  · apply exec_ndlHalt_upto
  · apply exec_ndlResume_upto
  · apply exec_ndlAbort_upto
  · apply exec_ndlHstart_upto
  · apply exec_ndlBellWrite_upto
  · apply exec_localStoreZeroDone_upto
  · apply exec_skeinZeroDone_upto
  · apply exec_skeinScrubStep_upto
  · apply exec_rowStart_upto
  · apply exec_xvlate_upto
  · apply exec_keyRequest_upto
  · apply exec_gaugeReport_upto
  · apply exec_jointAllocation_upto
  · apply exec_stageShareSend_upto
  · apply exec_stageShareReceive_upto
  · apply exec_stageShareMissed_upto
  · apply exec_seedRecord_upto
  · apply exec_codedUnitReceive_upto
  · apply exec_unitLossDeclare_upto
  · apply exec_pictureCloseTimeout_upto
  · apply exec_decodeOutput_upto
  · apply exec_rldRead_upto
  · apply exec_rldWrite_upto
  · apply exec_rdWindowEnd_upto
  · apply exec_bayReady_upto
  · apply exec_rldRefresh_upto
  · apply exec_rldScrub_upto
  · apply exec_retrainPauseEnd_upto
  · apply exec_forcedRetrain_upto
  · apply exec_rldRestore_upto
  · apply exec_rldFreeze_upto
  · apply exec_mchDiagaWrite_upto
  · apply exec_diagReadComplete_upto
  · apply exec_stlAlloc_upto
  · apply exec_stlFree_upto
  · apply exec_stlShare_upto
  · apply exec_stlCheck_upto
  · apply exec_stlRevoke_upto
  · apply exec_stlPoolCommit_upto
  · apply exec_prtStart_upto
  · apply exec_prtAbort_upto
  · apply exec_descriptorFetch_upto
  · apply exec_porterBurst_upto
  · apply exec_frameReceive_upto
  · apply exec_classifierPass_upto
  · apply exec_learnRequest_upto
  · apply exec_ftLookup_upto
  · apply exec_ftInsert_upto
  · apply exec_ftDelete_upto
  · apply exec_ftReadIndex_upto
  · apply exec_ftWriteIndex_upto
  · apply exec_ftFlush_upto
  · apply exec_epochAdvance_upto
  · apply exec_ageingSweepStep_upto
  · apply exec_ctEntryCommit_upto
  · apply exec_sswTx_upto
  · apply exec_ethLinkUp_upto
  · apply exec_ethLinkDown_upto
  · apply exec_egressSelect_upto
  · apply exec_gateDrop_upto
  · apply exec_queueMonitorSample_upto
  · apply exec_egBktCommit_upto
  · apply exec_egPolCommit_upto
  · apply exec_pcieLinkUp_upto
  · apply exec_magazineScan_upto
  · apply exec_magLost_upto
  · apply exec_magFormat_upto
  · apply exec_magOpen_upto
  · apply exec_magClose_upto
  · apply exec_magDetach_upto
  · apply exec_apertureWrite_upto
  · apply exec_landingSubmit_upto
  · apply exec_codedPictureRecord_upto
  · apply exec_nvmeWriteComplete_upto
  · apply exec_journalSubmit_upto
  · apply exec_journalWriteComplete_upto
  · apply exec_magSlow_upto
  · apply exec_readApertureRead_upto
  · apply exec_magazineInputDeliver_upto
  · apply exec_inboundRequest_upto
  · apply exec_mgperstRelease_upto
  · apply exec_interruptArrival_upto
  · apply exec_groupHoldExpire_upto
  · apply exec_ictClaim_upto
  · apply exec_ictComplete_upto
  · apply exec_thresholdRestore_upto
  · apply exec_ictSwiWrite_upto
  · apply exec_mailboxWrite_upto
  · apply exec_mailboxRead_upto
  · apply exec_mailboxTimeout_upto
  · apply exec_semLockRead_upto
  · apply exec_semRelease_upto
  · apply exec_semRevoke_upto
  · apply exec_flitReplay_upto
  · apply exec_helloSend_upto
  · apply exec_sthHello_upto
  · apply exec_sthJoin_upto
  · apply exec_stitchLinkLost_upto
  · apply exec_phaseSend_upto
  · apply exec_phaseFlit_upto
  · apply exec_phaseLost_upto
  · apply exec_remoteAccess_upto
  · apply exec_remoteAccessServe_upto
  · apply exec_remoteAccessAnswer_upto
  · apply exec_remoteAccessTimeout_upto
  · apply exec_remoteReset_upto
  · apply exec_remoteMailboxDeliver_upto
  · apply exec_remoteMailboxAck_upto
  · apply exec_stitchUnitReceive_upto
  · apply exec_tileSendPoll_upto
  · apply exec_tileBlockReceive_upto
  · apply exec_tileCidxPoll_upto
  · apply exec_stageKeyRequest_upto
  · apply exec_sysLossRead_upto
  · apply exec_sthPlace_upto
  · apply exec_sthUnplace_upto
  · apply exec_sthForget_upto
  · apply exec_sthmAdmit_upto
  · apply exec_secVerify_upto
  · apply exec_secInstall_upto
  · apply exec_secConfirm_upto
  · apply exec_secAdvance_upto
  · apply exec_secClaim_upto
  · apply exec_secEquiv_upto
  · apply exec_secAttest_upto
  · apply exec_secKeyrev_upto
  · apply exec_nloadLib_upto
  · apply exec_nloadCust_upto
  · apply exec_nloadClear_upto
  · apply exec_nanoBankLoadDone_upto
  · apply exec_secBootgo_upto
  · apply exec_jtagSecchal_upto
  · apply exec_jtagSecunlk_upto
  · apply exec_secRandRead_upto
  · apply exec_rngfail_upto
  · apply exec_castOn_upto
  · apply exec_modeStandby_upto
  · apply exec_modeArm_upto
  · apply exec_modeRun_upto
  · apply exec_modeResume_upto
  · apply exec_modeService_upto
  · apply exec_modeUpdate_upto
  · apply exec_modeBindoff_upto
  · apply exec_bindoffTimeout_upto
  · apply exec_pwrDomreqCommit_upto
  · apply exec_domainSwitchDone_upto
  · apply exec_domfail_upto
  · apply exec_coreWfiSleep_upto
  · apply exec_wakeEvent_upto
  · apply exec_pwrIsoclr_upto
  · apply exec_pwrReset_upto
  · apply exec_resetN_upto
  · apply exec_pwrgdFall_upto
  · apply exec_pfwN_upto
  · apply exec_pfwCommit_upto
  · apply exec_pfwMagazineClose_upto
  · apply exec_vawnUp_upto
  · apply exec_vawnDown_upto
  · apply exec_awningStart_upto
  · apply exec_fclReport_upto
  · apply exec_fclClr_upto
  · apply exec_fclSevWrite_upto
  · apply exec_thermalRefresh_upto
  · apply exec_ledgerRecordWrite_upto
  · apply exec_ledgerScan_upto
  · apply exec_ldgUrec_upto
  · apply exec_tlySnap_upto
  · apply exec_tallySnapshotHourly_upto
  · apply exec_tallyHistogramSample_upto
  · apply exec_tallyLoad_upto
  · apply exec_tlyInc_upto
  · apply exec_tlyHinc_upto
  · apply exec_rspIdent_upto
  · apply exec_rspRead_upto
  · apply exec_rspWake_upto
  · apply exec_trainingFailure_upto
  · apply exec_stitchLinkUp_upto
  · apply exec_stitchLinkDown_upto
  · apply exec_flitCrcError_upto
  · apply exec_flitForward_upto
  · apply exec_joinAnswer_upto
  · apply exec_placementQueryReceive_upto
  · apply exec_stageKeyRequestReceive_upto
  · apply exec_bayLossNoticeReceive_upto
  · apply exec_tileCidxReport_upto
  · apply exec_imageCheckComplete_upto
  · apply exec_nvmeReadComplete_upto

end Sys2Proof.Machine
end

