-- ==== Sys2Proof/Laws/Step.lean ====
section
/-! SUPPORT. One fabric cycle and one step: what they keep. -/

namespace Sys2Proof.Machine

/-- A cycle on which only the count of cycles, realised time and the parity checkers' record of writes go on. -/
theorem cycle_wf (s : State) (rt : Nat) (h : Memory.wf s.mem = true) :
    Memory.wf { s with now := s.now + 1, rck := { s.rck with rt := rt }, bus := { s.bus with wroteNow := [] } }.mem = true :=
  h

theorem cycle_keysOk (s : State) (rt : Nat) (h : keysOk s = true) :
    keysOk { s with now := s.now + 1, rck := { s.rck with rt := rt }, bus := { s.bus with wroteNow := [] } } = true := by
  unfold keysOk at *
  rw [List.all_eq_true] at *
  intro e he
  have := of_decide_eq_true (h e he)
  refine decide_eq_true ?_
  show e.2.ends ≤ s.now + 1 + 256
  omega

/-- The flow table's engine step of a cycle. -/
theorem engine_upto (s : State) : Upto 0x804a0000 s (if domUp s 201 then ftEngine s else s) :=
  Upto.ite (ftEngine_upto (Upto.refl _ s) (Sub.refl _)) (Upto.refl _ s)

theorem tick_wf (s : State) (h : Memory.wf s.mem = true) : Memory.wf (tick s).mem = true := by
  unfold tick
  dsimp only
  exact (pwrTick_upto (Upto.refl 0x3fffffffff _) (Sub.refl _)).wf (cycle_wf _ _ ((engine_upto s).wf h))

theorem tick_keysOk (s : State) (h : keysOk s = true) : keysOk (tick s) = true := by
  unfold tick
  dsimp only
  exact (pwrTick_upto (Upto.refl 0x3fffffffff _) (Sub.refl _)).keysOk (cycle_keysOk _ _ ((engine_upto s).keysOk h))

end Sys2Proof.Machine
end

