-- ==== Sys2Proof/WellFormed.lean ====
section
/-! DEFINITION. Well-formed commands: the operands that the types of Syntax.lean leave wider than the hardware's own
fields. A command's other operands are bounded by their types. -/

namespace Sys2Proof

/-- Widths of a single access in bits (spec/01 R855). -/
def accessBits (n : Nat) : Bool := [8, 16, 32, 64, 72].contains n

/-- An upset strikes a word of the normal window below the key guard (spec/02 R49, R73). -/
def Upset.wf (u : Upset) : Bool := decide (u.offset < 0xFF0) && u.offset % 4 == 0

/-- Stored bits of RLD words: each word lies in one of the four bays (spec/11 R468). -/
def rldUpsetsWf (l : List (Nat × BitVec 80)) : Bool := l.all fun e => decide (e.1 < 4 * 2 ^ 30)

/-- What the memory does to one access. -/
def RldErr.wf (e : RldErr) : Bool := rldUpsetsWf e.upsets

/-- A PTP message carries an eight-bit domain number (IEEE 1588; spec/03 R89). -/
def PtpMsg.wf (m : PtpMsg) : Bool := decide (m.number < 256)

/-- A magazine's block has 4,096 bytes (spec/16 R639). -/
def isBlock (b : List Byte) : Bool := b.length == 4096

/-- What an NVMe read brings is whole blocks, or a picture of known shape. -/
def MagRead.wf : MagRead → Bool
  | .block _ data => isBlock data
  | .picture .. => true

/-- A signed byte (spec/20, PWR_THERM.TJ). -/
def isInt8 (t : Int) : Bool := decide (-128 ≤ t) && decide (t ≤ 127)

/-- A well-formed command. -/
def Instr.wf (c : Instr) : Bool :=
  match c with
  | .registerWrite _ _ bytes _ => [1, 2, 4, 8].contains bytes
  | .cfgpar _ upsets => upsets.all Upset.wf
  | .ptpSyncReceive _ m => m.wf
  | .ptpAnnounceReceive _ m _ _ _ => m.wf
  | .ptpDelayRespReceive _ m => m.wf
  | .skeinScrubStep _ upset => upset.all fun e => decide (e.1 < 2 ^ 19)
  | .rldRead _ _ bits e => accessBits bits && e.wf
  | .rldWrite _ _ bits _ e => accessBits bits && e.wf
  | .rldScrub _ e => e.wf
  | .diagReadComplete _ upsets _ _ => rldUpsetsWf upsets
  | .magazineScan _ a b journal => isBlock a && isBlock b && journal.all isBlock
  | .readApertureRead _ _ _ bits => accessBits bits
  | .nvmeReadComplete _ x => x.wf
  | .tileBlockReceive _ _ _ _ _ _ block _ => decide (1 ≤ block.length) && decide (block.length ≤ 65535)
  | .thermalRefresh tj awn => isInt8 tj && isInt8 awn
  | _ => true

end Sys2Proof
end

