-- ==== Sys2Proof/Tests/Slice0.lean ====
section
/-! SUPPORT. The model's own tests: ill-formed commands are refused, single steps of small states, and a state and operands
that meet the hypotheses of each statement. -/

namespace Sys2Proof.Tests

open Sys2Proof Sys2Proof.Machine

/-! ### Well-formed commands -/

theorem test_wf_register_write : (Instr.registerWrite 128 0 3 0).wf = false := by decide
theorem test_wf_register_write_ok : (Instr.registerWrite 128 0 4 0).wf = true := by decide
theorem test_wf_rld_read_bits : (Instr.rldRead 128 0 24 .none).wf = false := by decide
theorem test_wf_rld_write_bits : (Instr.rldWrite 128 0 7 0 .none).wf = false := by decide
theorem test_wf_aperture_bits : (Instr.readApertureRead 128 0 0 9).wf = false := by decide
theorem test_wf_diag_upset : (Instr.diagReadComplete 0 [(4 * 2 ^ 30, 1)] 0 false).wf = false := by decide
theorem test_wf_scrub_upset : (Instr.skeinScrubStep 0 (some (2 ^ 19, 1))).wf = false := by decide
theorem test_wf_thermal : (Instr.thermalRefresh 128 0).wf = false := by decide

end Sys2Proof.Tests
end

/-! The RLD code is linear: the syndrome of a stored word tells its upset bits alone, and one upset bit is corrected
(spec/11 R473, R479, R862). -/

namespace Sys2Proof.Machine

/-! ### Numbers as bit vectors -/

theorem bitAt_eq_testBit (x i : Nat) : bitAt x i = x.testBit i := by
  rw [Nat.testBit_eq_decide_div_mod_eq, bitAt, Nat.shiftRight_eq_div_pow]
  rfl

/-- Disjoint parts of a number add up as they combine bit by bit. -/
theorem add_mul_two_pow_eq_xor {a n : Nat} (b : Nat) (h : a < 2 ^ n) : a + b * 2 ^ n = a ^^^ b * 2 ^ n := by
  have low : (a ^^^ b * 2 ^ n) % 2 ^ n = a := by
    rw [Nat.xor_mod_two_pow, Nat.mul_mod_left, Nat.xor_zero, Nat.mod_eq_of_lt h]
  have high : (a ^^^ b * 2 ^ n) / 2 ^ n = b := by
    rw [Nat.xor_div_two_pow, Nat.div_eq_of_lt h, Nat.zero_xor, Nat.mul_div_cancel _ (Nat.two_pow_pos n)]
  have split := Nat.mod_add_div (a ^^^ b * 2 ^ n) (2 ^ n)
  rw [low, high, Nat.mul_comm] at split
  exact split

/-! ### The code is linear (R473, R862) -/

theorem colXor_xor (cols : List Nat) (v w : Nat) : colXor cols (v ^^^ w) = colXor cols v ^^^ colXor cols w := by
  induction cols generalizing v w with
  | nil => simp [colXor]
  | cons h cols ih =>
    have low : (v ^^^ w) % 2 = v % 2 ^^^ w % 2 := by simpa using Nat.xor_mod_two_pow (a := v) (b := w) (n := 1)
    have high : (v ^^^ w) / 2 = v / 2 ^^^ w / 2 := by simpa using Nat.xor_div_two_pow (a := v) (b := w) (n := 1)
    simp only [colXor, low, high, ih]
    rcases Nat.mod_two_eq_zero_or_one v with hv | hv <;> rcases Nat.mod_two_eq_zero_or_one w with hw | hw <;>
      simp [hv, hw, Nat.xor_assoc, Nat.xor_left_comm h, ← Nat.xor_assoc h h]

theorem parityOf_xor (n v w : Nat) : parityOf n (v ^^^ w) = (parityOf n v != parityOf n w) := by
  induction n with
  | zero => rfl
  | succ n ih =>
    simp only [parityOf, ih, bitAt_eq_testBit, Nat.testBit_xor]
    cases v.testBit n <;> cases w.testBit n <;> cases parityOf n v <;> cases parityOf n w <;> rfl

theorem colXor_lt {cols : List Nat} {n : Nat} (h : ∀ c ∈ cols, c < 2 ^ n) (v : Nat) : colXor cols v < 2 ^ n := by
  induction cols generalizing v with
  | nil => exact Nat.two_pow_pos n
  | cons c cols ih =>
    refine Nat.xor_lt_two_pow ?_ (ih (fun d hd => h d (List.mem_cons_of_mem _ hd)) _)
    split
    · exact h c List.mem_cons_self
    · exact Nat.two_pow_pos n

theorem checkLow_lt (word u : Nat) : checkLow word u < 2 ^ 7 := colXor_lt (by decide) _

/-- Flips of a word's bits flip the covered bits. -/
theorem covered_xor (word u : Nat) {f : Nat} (hf : f < 2 ^ 72) : covered (word % 2 ^ 72 ^^^ f) u = covered word u ^^^ f := by
  have hw : word % 2 ^ 72 < 2 ^ 72 := Nat.mod_lt _ (Nat.two_pow_pos 72)
  have hx : word % 2 ^ 72 ^^^ f < 2 ^ 72 := Nat.xor_lt_two_pow hw hf
  unfold covered
  rw [Nat.mod_eq_of_lt hx, add_mul_two_pow_eq_xor _ hx, add_mul_two_pow_eq_xor _ hw, Nat.xor_right_comm]

theorem covered_zero {f : Nat} (hf : f < 2 ^ 72) : covered f 0 = f := by
  unfold covered
  omega

theorem checkBits_eq_xor (word u : Nat) : checkBits word u =
    checkLow word u ^^^ b2n (parityOf 100 (covered word u) != parityOf 7 (checkLow word u)) * 2 ^ 7 := by
  rw [← add_mul_two_pow_eq_xor _ (checkLow_lt word u)]
  rfl

/-- The check bits of a word have its own parity. -/
theorem parityOf_checkBits (word u : Nat) : parityOf 8 (checkBits word u) = parityOf 100 (covered word u) := by
  have top : bitAt (checkLow word u) 7 = false := by rw [bitAt_eq_testBit, Nat.testBit_lt_two_pow (checkLow_lt word u)]
  have low : parityOf 8 (checkLow word u) = parityOf 7 (checkLow word u) := by
    rw [parityOf, top, Bool.false_bne]
  have bit : ∀ b : Bool, parityOf 8 (b2n b * 2 ^ 7) = b := by decide
  have cancels : ∀ p q : Bool, (p != (q != p)) = q := by decide
  rw [checkBits_eq_xor, parityOf_xor, low, bit, cancels]

theorem checkBits_mod (word u : Nat) : checkBits word u % 2 ^ 7 = checkLow word u := by
  rw [checkBits_eq_xor, Nat.xor_mod_two_pow, Nat.mul_mod_left, Nat.xor_zero, Nat.mod_eq_of_lt (checkLow_lt word u)]

theorem checkBits_lt (word u : Nat) : checkBits word u < 2 ^ 8 := by
  have bit : ∀ b : Bool, b2n b * 2 ^ 7 < 2 ^ 8 := by decide
  rw [checkBits_eq_xor]
  exact Nat.xor_lt_two_pow (Nat.lt_trans (checkLow_lt word u) (by decide)) (bit _)

theorem rawOf_mod (word u : Nat) : rawOf word u % 2 ^ 72 = word % 2 ^ 72 := by
  unfold rawOf
  omega

theorem rawOf_div (word u : Nat) : rawOf word u / 2 ^ 72 = checkBits word u := by
  unfold rawOf
  omega

/-- The syndrome of a stored word tells its upset bits alone: it is theirs as a raw word of their own. -/
theorem syndrome_rawOf_xor (word u : Nat) {f : Nat} (hf : f < 2 ^ 80) : syndrome (rawOf word u ^^^ f) u = syndrome f 0 := by
  have hw : f % 2 ^ 72 < 2 ^ 72 := Nat.mod_lt _ (Nat.two_pow_pos 72)
  have hc : f / 2 ^ 72 < 2 ^ 8 := by omega
  have data : covered (rawOf word u % 2 ^ 72 ^^^ f % 2 ^ 72) u = covered word u ^^^ f % 2 ^ 72 := by
    rw [rawOf_mod, covered_xor _ _ hw]
  have low : checkLow (rawOf word u % 2 ^ 72 ^^^ f % 2 ^ 72) u = checkLow word u ^^^ checkLow (f % 2 ^ 72) 0 := by
    rw [checkLow, data, colXor_xor, checkLow, checkLow, covered_zero hw]
  have chk : (rawOf word u ^^^ f) / 2 ^ 72 % 2 ^ 8 = checkBits word u ^^^ f / 2 ^ 72 := by
    rw [Nat.xor_div_two_pow, rawOf_div, Nat.mod_eq_of_lt (Nat.xor_lt_two_pow (checkBits_lt word u) hc)]
  have chkLow : (checkBits word u ^^^ f / 2 ^ 72) % 2 ^ 7 = checkLow word u ^^^ f / 2 ^ 72 % 2 ^ 7 := by
    rw [Nat.xor_mod_two_pow, checkBits_mod]
  have lowCancels : checkLow word u ^^^ checkLow (f % 2 ^ 72) 0 ^^^ (checkLow word u ^^^ f / 2 ^ 72 % 2 ^ 7) =
      checkLow (f % 2 ^ 72) 0 ^^^ f / 2 ^ 72 % 2 ^ 7 := by
    rw [Nat.xor_comm (checkLow word u), Nat.xor_assoc, ← Nat.xor_assoc (checkLow word u), Nat.xor_self, Nat.zero_xor]
  have parityCancels : ∀ p q r : Bool, ((p != q) != (p != r)) = (q != r) := by decide
  show (checkLow ((rawOf word u ^^^ f) % 2 ^ 72) u ^^^ (rawOf word u ^^^ f) / 2 ^ 72 % 2 ^ 8 % 2 ^ 7) +
      b2n (parityOf 100 (covered ((rawOf word u ^^^ f) % 2 ^ 72) u) !=
        parityOf 8 ((rawOf word u ^^^ f) / 2 ^ 72 % 2 ^ 8)) * 2 ^ 7 =
    (checkLow (f % 2 ^ 72) 0 ^^^ f / 2 ^ 72 % 2 ^ 8 % 2 ^ 7) +
      b2n (parityOf 100 (covered (f % 2 ^ 72) 0) != parityOf 8 (f / 2 ^ 72 % 2 ^ 8)) * 2 ^ 7
  rw [Nat.xor_mod_two_pow, low, data, chk, chkLow, lowCancels, parityOf_xor, parityOf_xor, parityOf_checkBits, parityCancels,
    Nat.mod_eq_of_lt hc, covered_zero hw]

/-- At most one of the 80 stored bits of a word is upset. -/
def OneUpset (f : BitVec 80) : Prop := f = 0 ∨ ∃ i, i < 80 ∧ f.toNat = 2 ^ i

theorem synKind_clean : synKind (syndrome 0 0) = .clean := by decide +kernel

/-- The syndrome of one upset bit names it, or a check bit. -/
theorem synKind_upset : ∀ i : Fin 80, synKind (syndrome (2 ^ i.val) 0) = if i.val < 72 then .bit i.val else .check := by
  decide +kernel

/-- A word with at most one upset bit corrects to the word written. -/
theorem corrected_upset (word u : Nat) {f : BitVec 80} (hf : OneUpset f) :
    corrected (rawOf word u ^^^ f.toNat) u = some (word % 2 ^ 72) := by
  unfold corrected
  rw [syndrome_rawOf_xor _ _ f.isLt]
  obtain rfl | ⟨i, hi, e⟩ := hf
  · rw [show BitVec.toNat (0 : BitVec 80) = 0 from rfl, synKind_clean, fixWord, Nat.xor_zero, rawOf_mod]
  · rw [e, synKind_upset ⟨i, hi⟩]
    dsimp only
    split
    · rw [fixWord, Nat.xor_assoc, Nat.xor_self, Nat.xor_zero, rawOf_mod]
    · rw [fixWord, Nat.xor_mod_two_pow, rawOf_mod, Nat.mod_eq_zero_of_dvd (Nat.pow_dvd_pow 2 (by omega)), Nat.xor_zero]

/-- An error is corrected exactly where a bit is upset. -/
theorem synFixed_upset (word u : Nat) {f : BitVec 80} (hf : OneUpset f) :
    synFixed (synKind (syndrome (rawOf word u ^^^ f.toNat) u)) = decide (f ≠ 0) := by
  rw [syndrome_rawOf_xor _ _ f.isLt]
  obtain rfl | ⟨i, hi, e⟩ := hf
  · rw [show BitVec.toNat (0 : BitVec 80) = 0 from rfl, synKind_clean]
    rfl
  · have upset : f ≠ 0 := by
      rintro rfl
      exact absurd e.symm (Nat.two_pow_pos i).ne'
    rw [e, synKind_upset ⟨i, hi⟩, decide_eq_true upset]
    split <;> rfl

end Sys2Proof.Machine

/-! What a bus error leaves in the registers (spec/02 R79, R81). -/

namespace Sys2Proof.Machine

/-! ### Registers of a bus error (R79, R81) -/

/-- A field of another word than the one stored is unchanged. -/
theorem fld_setRword_ne {r : Reg} {f : FieldRef} {fr i w v fr' i' : Nat} {s : State}
    (h : regKey f.reg fr' i' f.word ≠ regKey r fr i w) : fld (setRword r fr i w v s) f fr' i' = fld s f fr' i' := by
  unfold fld
  rw [rword_setRword_ne h]

/-- Changes beside the registers keep what a bus error says of them. -/
theorem RefusedWith.of_regs {req : Req} {a : Nat} {write : Bool} {c : Berr} {s t u : State}
    (h : RefusedWith req a write c s t) (e : u.bus.regs = t.bus.regs) : RefusedWith req a write c s u := by
  have word : ∀ r fr i w, rword u r fr i w = rword t r fr i w := fun r fr i w => by unfold rword; rw [e]
  unfold RefusedWith RegsBut flag fld at *
  simp only [word, e]
  exact h

/-- The capture of a bus error, while armed (R81). -/
def berrCapture (req addr : Nat) (write : Bool) (c : Berr) (s : State) : State :=
  setFld F.SYS_BERR_INFO_REQ req (setFld F.SYS_BERR_INFO_CAUSE c.code (setFld F.SYS_BERR_INFO_WRITE (b2n write)
    (setFld F.SYS_BERR_INFO_ARM 0 (setRword .SYS_BERR_AHI 0 0 0 (addr / 2 ^ 32 % 2 ^ 16)
      (setRword .SYS_BERR_ALO 0 0 0 (addr % 2 ^ 32) s)))))

theorem busError_eq (req addr : Nat) (write : Bool) (c : Berr) (s : State) : busError req addr write c s =
    if flag (bump F.SYS_BERR_INFO_COUNT s) F.SYS_BERR_INFO_ARM then
      berrCapture req addr write c (bump F.SYS_BERR_INFO_COUNT s)
    else bump F.SYS_BERR_INFO_COUNT s := rfl

theorem berrCapture_info (req addr : Nat) (write : Bool) (c : Berr) (s : State) :
    fld (berrCapture req addr write c s) F.SYS_BERR_INFO_COUNT = fld s F.SYS_BERR_INFO_COUNT ∧
    fld (berrCapture req addr write c s) F.SYS_BERR_INFO_ARM = 0 ∧
    fld (berrCapture req addr write c s) F.SYS_BERR_INFO_WRITE = b2n write % 2 ∧
    fld (berrCapture req addr write c s) F.SYS_BERR_INFO_CAUSE = c.code % 2 ^ 4 ∧
    fld (berrCapture req addr write c s) F.SYS_BERR_INFO_REQ = req % 2 ^ 8 := by
  unfold berrCapture
  refine ⟨?_, ?_, ?_, ?_, ?_⟩ <;>
    simp (disch := decide) only [fld_setFld_beside, fld_setFld, fld_setRword_ne] <;> rfl

theorem berrCapture_address (req addr : Nat) (write : Bool) (c : Berr) (s : State) :
    rword (berrCapture req addr write c s) .SYS_BERR_ALO 0 0 0 = addr % 2 ^ 32 ∧
    rword (berrCapture req addr write c s) .SYS_BERR_AHI 0 0 0 = addr / 2 ^ 32 % 2 ^ 16 := by
  unfold berrCapture setFld
  constructor <;>
    simp (disch := decide) only [rword_setRword_ne, rword_setRword] 
  · omega
  · omega

/-- Fields of the bus error's own word beside its count stand when an access is counted. -/
theorem fld_bump_count {f : FieldRef} (s : State) (hr : f.reg = .SYS_BERR_INFO) (hw : f.word = 0)
    (hd : f.lo + f.width ≤ 16 ∨ 31 ≤ f.lo) : fld (bump F.SYS_BERR_INFO_COUNT s) f = fld s f :=
  fld_setFld_beside hr hw (by decide) hd

/-- A bus error is counted, and captured exactly while capture is armed (R79, R81). -/
theorem busError_refusedWith (req : Req) (addr : Nat) (write : Bool) (c : Berr) (s : State) :
    RefusedWith req addr write c s (busError req.val addr write c s) := by
  have count : fld (bump F.SYS_BERR_INFO_COUNT s) F.SYS_BERR_INFO_COUNT = min (fld s F.SYS_BERR_INFO_COUNT + 1) 32767 :=
    fld_bump F.SYS_BERR_INFO_COUNT s 0 0 1 (by decide)
  have arm : flag (bump F.SYS_BERR_INFO_COUNT s) F.SYS_BERR_INFO_ARM = flag s F.SYS_BERR_INFO_ARM := by
    unfold flag
    rw [fld_bump_count s rfl rfl (by decide)]
  have counted : ∀ ks, regKey .SYS_BERR_INFO 0 0 0 ∈ ks → RegsBut ks s (bump F.SYS_BERR_INFO_COUNT s) := fun ks hk =>
    (RegsBut.refl ks s).bump hk
  rw [busError_eq, arm]
  unfold RefusedWith
  cases armed : flag s F.SYS_BERR_INFO_ARM with
  | false =>
    rw [if_neg (by simp)]
    refine ⟨count, counted _ (by decide), nofun, fun _ => ⟨counted _ (by decide), arm.trans armed, ?_, ?_⟩⟩
    · exact fld_bump_count s rfl rfl (by decide)
    · exact fld_bump_count s rfl rfl (by decide)
  | true =>
    rw [if_pos rfl]
    have code : c.code % 2 ^ 4 = c.code := by cases c <;> rfl
    have bit : b2n write % 2 = b2n write := by cases write <;> rfl
    have requester : req.val % 2 ^ 8 = req.val := Nat.mod_eq_of_lt (Nat.lt_trans req.isLt (by decide))
    obtain ⟨hcount, harm, hwrite, hcause, hreq⟩ := berrCapture_info req.val addr write c (bump F.SYS_BERR_INFO_COUNT s)
    refine ⟨hcount.trans count, ?_, fun _ => ⟨?_, hcause.trans code, ?_, hreq.trans requester,
      berrCapture_address req.val addr write c _⟩, nofun⟩
    · exact (counted berrWords (by decide)).setRword (by decide) |>.setRword (by decide) |>.setFld (by decide)
        |>.setFld (by decide) |>.setFld (by decide) |>.setFld (by decide)
    · unfold flag
      rw [harm]
      rfl
    · unfold flag
      rw [hwrite, bit]
      cases write <;> rfl

end Sys2Proof.Machine

/-! Reads of main memory: an activation, and the read of a word with at most one upset bit (spec/11 R480, R492, R862). -/

namespace Sys2Proof.Machine

/-! ### Words and flips of the memory -/

theorem rldPut_rld (b x : Nat) (v : Native) (s : State) (j : Nat) :
    tabGet 0 (rldPut b x v s).mem.rld j = if j = rldKey b x then v else tabGet 0 s.mem.rld j :=
  tabGet_tabSet 0 s.mem.rld (rldKey b x) j v

theorem rldPut_rldFlip (b x : Nat) (v : Native) (s : State) (j : Nat) :
    tabGet 0 (rldPut b x v s).mem.rldFlip j = if j = rldKey b x then 0 else tabGet 0 s.mem.rldFlip j :=
  tabGet_tabSet 0 s.mem.rldFlip (rldKey b x) j 0

theorem rldPut_bays (b x : Nat) (v : Native) (s : State) : (rldPut b x v s).mem.bays = s.mem.bays := rfl
theorem rldPut_mchs (b x : Nat) (v : Native) (s : State) : (rldPut b x v s).mem.mchs = s.mem.mchs := rfl

theorem rldPut_fld (b x : Nat) (v : Native) (s : State) (f : FieldRef) (fr i : Nat) :
    fld (rldPut b x v s) f fr i = fld s f fr i := rfl

theorem rldPut_mem {s t : State} (b x : Nat) (v : Native) (h : t.mem = s.mem) :
    (rldPut b x v t).mem = (rldPut b x v s).mem := by
  simp only [rldPut, modMem, h]

theorem rldUpset_none (s : State) : rldUpset RldErr.none.upsets s = s := rfl

/-! ### An activation (R492, R494) -/

/-- The register words that an activation on a channel may change. -/
def activateWords (c : Nat) : List Nat := regKey .MCH_RDCNT c 0 0 :: regKey .MCH_RDLAST c 0 0 :: reportWords

theorem throttle_regs (c req bank : Nat) (s : State) : RegsBut (activateWords c) s (throttle c req bank s) := by
  have hk : regKey .MCH_RDCNT c 0 0 ∈ activateWords c := List.mem_cons_self
  unfold throttle
  exact (RegsBut.refl _ s).ite (((RegsBut.refl _ s).bump (f := F.MCH_RDCNT_THRFULL) hk).ite (.of_eq rfl))

theorem activate_regs (c u req : Nat) (s : State) : RegsBut (activateWords c) s (activate c u req s) := by
  have counts : regKey .MCH_RDCNT c 0 0 ∈ activateWords c := List.mem_cons_self
  have last : regKey .MCH_RDLAST c 0 0 ∈ activateWords c := List.mem_cons_of_mem _ List.mem_cons_self
  have reports : reportWords ⊆ activateWords c := fun k hk => List.mem_cons_of_mem _ (List.mem_cons_of_mem _ hk)
  unfold activate
  dsimp only
  refine RegsBut.ite ?_ (.of_eq rfl)
  refine RegsBut.trans ?_ ((report_regs 0 c req (by decide) _).weaken reports)
  refine RegsBut.trans ?_ (throttle_regs c req _ _)
  exact ((RegsBut.of_eq (by rfl)).bump (f := F.MCH_RDCNT_HITS) counts).setRword last

theorem activate_eccWord (u req : Nat) (s : State) {c : Nat} (hc : c < 16) :
    fld (activate c u req s) F.MCH_ECC_CE c = fld s F.MCH_ECC_CE c := by
  have apart : ∀ k : Fin 16, regKey .MCH_ECC k.val 0 0 ∉ activateWords k.val := by decide
  exact (activate_regs c u req s).fld (apart ⟨c, hc⟩)

/-- Words, flips and bay states are those before: what an activation leaves of the memory. -/
structure SameRld (s t : State) : Prop where
  rld : t.mem.rld = s.mem.rld
  rldFlip : t.mem.rldFlip = s.mem.rldFlip
  bays : t.mem.bays = s.mem.bays

theorem SameRld.of_mem {s t : State} (h : t.mem = s.mem) : SameRld s t := ⟨by rw [h], by rw [h], by rw [h]⟩

theorem SameRld.trans {s t u : State} (h : SameRld s t) (g : SameRld t u) : SameRld s u :=
  ⟨g.rld.trans h.rld, g.rldFlip.trans h.rldFlip, g.bays.trans h.bays⟩

theorem modMch_sameRld (c : Nat) (f : Mch → Mch) (s : State) : SameRld s (modMch c f s) := ⟨rfl, rfl, rfl⟩

theorem throttle_sameRld (c req bank : Nat) (s : State) : SameRld s (throttle c req bank s) := by
  unfold throttle
  dsimp only
  split
  · exact .of_mem rfl
  · split
    · exact .of_mem (bump_mem _ _ _ _ _)
    · exact modMch_sameRld _ _ _

theorem activate_sameRld (c u req : Nat) (s : State) : SameRld s (activate c u req s) := by
  unfold activate
  dsimp only
  generalize hm : modMch c _ s = m
  have tracked : SameRld s m := hm ▸ modMch_sameRld _ _ _
  split
  · refine (tracked.trans ?_).trans (.of_mem (report_mem ..))
    refine .trans (.of_mem ?_) (throttle_sameRld _ _ _ _)
    rw [setRword_mem]
    exact bump_mem _ _ _ _ _
  · exact tracked

/-! ### A read of a word with at most one upset bit (R480, R862) -/

/-- What a read that ends well leaves: the state as it was for a clean word, else the error counted, captured and written
back. -/
def heal (b x : Nat) (s : State) : State :=
  if tabGet 0 s.mem.rldFlip (rldKey b x) = 0 then s else rldFix (rldCh b x) (rldU x) b x (rldWord s b x).toNat s

theorem rldJudge_some {c u b x req raw raw2 wheld rref v : Nat} {o2 : Option Nat} {s : State} :
    rldJudge c u b x req raw raw2 wheld rref (some v) o2 s = (.ok (BitVec.ofNat 72 v), rldGot c u b x raw s) := rfl

/-- Without faults on the interface the read and the reread bring the raw word that stands in the memory. -/
theorem rldReadAt_none (b x req wheld rref : Nat) (s : State) : rldReadAt b x req wheld rref .none s =
    rldJudge (rldCh b x) (rldU x) b x req (rldRaw s b x) (rldRaw s b x) wheld rref
      (corrected (rldRaw s b x) (rldU x)) (corrected (rldRaw s b x) (rldU x)) s := by
  simp [rldReadAt, capRetry, RldErr.none, rawRead]

/-- A read of a word with at most one upset bit answers the word written there. -/
theorem rldReadAt_upset {b x : Nat} (req wheld rref : Nat) {s : State} (h : OneUpset (tabGet 0 s.mem.rldFlip (rldKey b x))) :
    rldReadAt b x req wheld rref .none s = (.ok (rldWord s b x), heal b x s) := by
  have word : (rldWord s b x).toNat % 2 ^ 72 = (rldWord s b x).toNat := Nat.mod_eq_of_lt (rldWord s b x).isLt
  have corrects : corrected (rldRaw s b x) (rldU x) = some (rldWord s b x).toNat := by
    rw [rldRaw, corrected_upset _ _ h, word]
  have fixes : synFixed (synKind (syndrome (rldRaw s b x) (rldU x))) = decide (tabGet 0 s.mem.rldFlip (rldKey b x) ≠ 0) :=
    synFixed_upset _ _ h
  have got : rldGot (rldCh b x) (rldU x) b x (rldRaw s b x) s = heal b x s := by
    rw [rldGot, fixes, corrects, Option.getD_some, heal]
    simp only [decide_not, Bool.not_eq_true', decide_eq_false_iff_not, ite_not]
  rw [rldReadAt_none, corrects, rldJudge_some, BitVec.ofNat_toNat, BitVec.setWidth_eq, got]

theorem rldFix_mem (c u b x v : Nat) (s : State) :
    (rldFix c u b x v s).mem = (rldPut b x (BitVec.ofNat 72 v) s).mem :=
  rldPut_mem b x _ ((setRword_mem _ _ _ _ _ _).trans ((bump_mem _ _ _ _ _).trans (tally_mem _ s)))

theorem heal_rld (b x : Nat) (s : State) (j : Nat) : tabGet 0 (heal b x s).mem.rld j = tabGet 0 s.mem.rld j := by
  unfold heal
  split
  · rfl
  · rw [rldFix_mem, rldPut_rld, BitVec.ofNat_toNat, BitVec.setWidth_eq]
    split
    · next at_x => rw [at_x, rldWord]
    · rfl

theorem heal_rldFlip (b x : Nat) (s : State) (j : Nat) :
    tabGet 0 (heal b x s).mem.rldFlip j = if j = rldKey b x then 0 else tabGet 0 s.mem.rldFlip j := by
  unfold heal
  split
  · next clean =>
    split
    · next at_x => rw [at_x, clean]
    · rfl
  · rw [rldFix_mem, rldPut_rldFlip]

theorem heal_bays (b x : Nat) (s : State) : (heal b x s).mem.bays = s.mem.bays := by
  unfold heal
  split
  · rfl
  · rw [rldFix_mem, rldPut_bays]

theorem heal_mchs (b x : Nat) (s : State) : (heal b x s).mem.mchs = s.mem.mchs := by
  unfold heal
  split
  · rfl
  · rw [rldFix_mem, rldPut_mchs]

/-- A clean word's read counts nothing. -/
theorem heal_clean {b x : Nat} {s : State} (h : tabGet 0 s.mem.rldFlip (rldKey b x) = 0) : heal b x s = s := if_pos h

/-- A corrected error is counted and its address captured (R480). -/
theorem heal_counts {b x : Nat} {s : State} (h : tabGet 0 s.mem.rldFlip (rldKey b x) ≠ 0) :
    fld (heal b x s) F.MCH_ECC_CE (rldCh b x) = min (fld s F.MCH_ECC_CE (rldCh b x) + 1) (2 ^ F.MCH_ECC_CE.width - 1) ∧
    fld (heal b x s) F.MCH_CEADDR_U (rldCh b x) = rldU x % 2 ^ 28 := by
  have apart : regKey .MCH_ECC (rldCh b x) 0 0 ≠ regKey .MCH_CEADDR (rldCh b x) 0 0 := by
    unfold regKey regInfo
    dsimp only
    omega
  have tallied : fld (tally (16 + rldCh b x) s) F.MCH_ECC_CE (rldCh b x) = fld s F.MCH_ECC_CE (rldCh b x) :=
    (tally_regs [] _ s).fld (f := F.MCH_ECC_CE) List.not_mem_nil
  rw [heal, if_neg h, rldFix, rldPut_fld, rldPut_fld]
  constructor
  · rw [fld_setRword_ne (f := F.MCH_ECC_CE) apart, fld_bump _ _ _ _ _ (by decide), tallied]
  · show bitsOf (rword _ .MCH_CEADDR _ 0 0) 0 28 = _
    rw [rword_setRword, bitsOf, Nat.shiftRight_zero]
    omega

theorem rldRead_upset {b x : Nat} (req wheld rref : Nat) {s : State} (h : OneUpset (tabGet 0 s.mem.rldFlip (rldKey b x))) :
    rldRead b x req wheld rref .none s = (.ok (rldWord s b x), heal b x (activate (rldCh b x) (rldU x) req s)) := by
  have same := activate_sameRld (rldCh b x) (rldU x) req s
  have word : rldWord (activate (rldCh b x) (rldU x) req s) b x = rldWord s b x := by rw [rldWord, same.rld, rldWord]
  rw [rldRead, rldReadAt_upset _ _ _ (by rw [same.rldFlip]; exact h), word]

end Sys2Proof.Machine

/-! Accesses and scrubbing of main memory (spec/01 R42; spec/11 R470, R477, R485; R855, R860). -/

namespace Sys2Proof.Machine

/-! ### Accesses of a requester (R42, R470, R477, R855) -/

theorem rldCh_lt {b : Nat} (x : Nat) (h : b < 4) : rldCh b x < 16 := by
  have k : bitsOf x 5 2 ^^^ bitsOf x 13 2 ^^^ bitsOf x 21 2 < 2 ^ 2 :=
    Nat.xor_lt_two_pow (Nat.xor_lt_two_pow (bitsOf_lt _ _ _) (bitsOf_lt _ _ _)) (bitsOf_lt _ _ _)
  unfold rldCh
  omega

theorem regionOf_rld_lt {s : State} {a b o : Nat} (h : regionOf s a = some (.rld b o)) : b < 4 := by
  unfold regionOf at h
  dsimp only at h
  repeat' split at h
  all_goals simp only [Bool.and_eq_true, decide_eq_true_eq, Option.some.injEq, Region.rld.injEq, reduceCtorEq] at *
  omega

/-- The sizes that a memory region accepts. -/
theorem sizeRefused_sizes {r : Region} {n a req : Nat} (h : sizeRefused r n a req = false) :
    n = 8 ∨ n = 16 ∨ n = 32 ∨ n = 64 ∨ n = 72 := by
  have ok : sizeOk n a = true := by
    simp only [sizeRefused, Bool.or_eq_false_iff, Bool.not_eq_false'] at h
    exact h.1.1
  unfold sizeOk at ok
  split at ok <;> simp_all

/-- A write of 64 or 72 bits does not look at the old word. -/
theorem mergePart_whole {n : Nat} (h : n = 64 ∨ n = 72) (old : Native) (o : Nat) (data : Native) :
    mergePart 0 n o data = mergePart old n o data := by
  rcases h with rfl | rfl <;> rfl

theorem memRead_rld {req a n b o : Nat} {s : State} (e : RldErr) (hr : regionOf s a = some (.rld b o))
    (hs : sizeRefused (.rld b o) n a req = false) : memRead req a n e s = partOf n o (rldRead b (o / 8) req 0 1 e s) := by
  simp only [memRead, hr, hs, Bool.false_eq_true, if_false]

theorem memWrite_rld {req a n b o : Nat} {s : State} (data : Native) (e : RldErr) (hr : regionOf s a = some (.rld b o))
    (hs : sizeRefused (.rld b o) n a req = false) : memWrite req a n data e s = rldWrite b o n req data e s := by
  simp only [memWrite, hr, hs, Bool.false_eq_true, if_false]

theorem memRead_unmapped {req a n : Nat} {s : State} (e : RldErr) (hr : regionOf s a = none) :
    memRead req a n e s = (.err .unmapped, s) := by
  rw [memRead, hr]

theorem memWrite_unmapped {req a n : Nat} {s : State} (data : Native) (e : RldErr) (hr : regionOf s a = none) :
    memWrite req a n data e s = (.err .unmapped, s) := by
  rw [memWrite, hr]

theorem rldWaits_unmapped {s : State} {a : Nat} (req : Nat) (hr : regionOf s a = none) : rldWaits s a req = false := by
  rw [rldWaits, hr]

/-- A read without faults that neither the base domain nor the channel delays. -/
theorem exec_rldRead {req : Req} {addr : BitVec 48} {s : State} (bits : Nat) (hb : baseUp s = true)
    (hw : rldWaits s addr.toNat req.val = false) : exec (.rldRead req addr bits .none) s =
      .next (accAnswer req.val addr.toNat false (memRead req.val addr.toNat bits .none s)) := by
  show execRldRead req addr bits .none s = _
  rw [execRldRead, rldUpset_none, hb, hw]
  rfl

/-- A write without faults that neither the base domain nor the channel delays. -/
theorem exec_rldWrite {req : Req} {addr : BitVec 48} {s : State} (bits : Nat) (data : Native) (hb : baseUp s = true)
    (hw : rldWaits s addr.toNat req.val = false) : exec (.rldWrite req addr bits data .none) s =
      .next (accAnswer req.val addr.toNat true (memWrite req.val addr.toNat bits data .none s)) := by
  show execRldWrite req addr bits data .none s = _
  rw [execRldWrite, rldUpset_none, hb, hw]
  rfl

theorem tabGet_answer (req v : Nat) (s : State) : tabGet 0 (answer req v s).bus.answers req = v :=
  tabGet_tabSet_same 0 s.bus.answers req v

theorem answer_fld (req v : Nat) (s : State) (f : FieldRef) (fr i : Nat) : fld (answer req v s) f fr i = fld s f fr i := rfl

/-- What a write of a word's part or whole leaves (R470, R472, R860). -/
theorem rldWrite_whole {b o n : Nat} (req : Nat) (data : Native) (s : State) (h : n = 64 ∨ n = 72) :
    rldWrite b o n req data .none s = (.ok 0, rldPut b (o / 8) (mergePart (rldWord s b (o / 8)) n o data)
      (activate (rldCh b (o / 8)) (rldU (o / 8)) req s)) := by
  have wide : n ≥ 64 := by omega
  rw [rldWrite, if_pos wide, mergePart_whole h (rldWord s b (o / 8))]
  rfl

theorem rldWrite_part {b o n : Nat} (req : Nat) (data : Native) {s : State} (h : n < 64)
    (hf : OneUpset (tabGet 0 s.mem.rldFlip (rldKey b (o / 8)))) :
    rldWrite b o n req data .none s = (.ok 0, rldPut b (o / 8) (mergePart (rldWord s b (o / 8)) n o data)
      (heal b (o / 8) (activate (rldCh b (o / 8)) (rldU (o / 8)) req s))) := by
  rw [rldWrite, if_neg (by omega), rldRead_upset _ _ _ hf]

/-! ### Scrubbing (R485) -/

/-- No word changes, no bay and no channel, and no flip rises: what corrections leave. -/
structure Heals (s t : State) : Prop where
  rld : ∀ j, tabGet 0 t.mem.rld j = tabGet 0 s.mem.rld j
  rldFlip : ∀ j, tabGet 0 t.mem.rldFlip j = tabGet 0 s.mem.rldFlip j ∨ tabGet 0 t.mem.rldFlip j = 0
  bays : t.mem.bays = s.mem.bays
  mchs : t.mem.mchs = s.mem.mchs

theorem Heals.refl (s : State) : Heals s s := ⟨fun _ => rfl, fun _ => .inl rfl, rfl, rfl⟩

theorem Heals.stays_zero {s t : State} (h : Heals s t) {j : Nat} (hj : tabGet 0 s.mem.rldFlip j = 0) :
    tabGet 0 t.mem.rldFlip j = 0 := (h.rldFlip j).elim (fun e => e.trans hj) id

theorem Heals.stays_oneUpset {s t : State} (h : Heals s t) {j : Nat} (hj : OneUpset (tabGet 0 s.mem.rldFlip j)) :
    OneUpset (tabGet 0 t.mem.rldFlip j) := (h.rldFlip j).elim (fun e => e ▸ hj) .inl

theorem Heals.trans {s t u : State} (h : Heals s t) (g : Heals t u) : Heals s u where
  rld j := (g.rld j).trans (h.rld j)
  rldFlip j := (g.rldFlip j).elim (fun e => (h.rldFlip j).imp e.trans e.trans) .inr
  bays := g.bays.trans h.bays
  mchs := g.mchs.trans h.mchs

theorem heal_heals (b x : Nat) (s : State) : Heals s (heal b x s) where
  rld := heal_rld b x s
  rldFlip j := by
    rw [heal_rldFlip]
    split
    · exact .inr rfl
    · exact .inl rfl
  bays := heal_bays b x s
  mchs := heal_mchs b x s

theorem forEach_cons {α σ : Type} (a : α) (l : List α) (f : α → σ → σ) (s : σ) :
    forEach (a :: l) f s = forEach l f (f a s) := rfl

theorem scrubWord_upset {c x : Nat} {s : State} (hb : bayReady s (c / 4) = true)
    (hf : OneUpset (tabGet 0 s.mem.rldFlip (rldKey (c / 4) x))) : scrubWord c .none x s = heal (c / 4) x s := by
  rw [scrubWord, if_pos hb, rldReadAt_upset _ _ _ hf]

/-- A scrubbed run of words, each with at most one upset bit, is left without error. -/
theorem scrubWords_heal {c : Nat} (l : List Nat) {s : State} (hb : bayReady s (c / 4) = true)
    (hf : ∀ x ∈ l, OneUpset (tabGet 0 s.mem.rldFlip (rldKey (c / 4) x))) :
    Heals s (forEach l (scrubWord c .none) s) ∧
      ∀ x ∈ l, tabGet 0 (forEach l (scrubWord c .none) s).mem.rldFlip (rldKey (c / 4) x) = 0 := by
  induction l generalizing s with
  | nil => exact ⟨.refl s, nofun⟩
  | cons x l ih =>
    have first := heal_heals (c / 4) x s
    have ready : bayReady (heal (c / 4) x s) (c / 4) = true := by rw [bayReady, bayOf, first.bays]; exact hb
    obtain ⟨rest, zeros⟩ := ih ready fun y hy => first.stays_oneUpset (hf y (List.mem_cons_of_mem x hy))
    rw [forEach_cons, scrubWord_upset hb (hf x List.mem_cons_self)]
    refine ⟨first.trans rest, fun y hy => ?_⟩
    rcases List.mem_cons.mp hy with rfl | hy
    · exact rest.stays_zero (by rw [heal_rldFlip, if_pos rfl])
    · exact zeros y hy

/-- The state in which a channel's burst is read: its row open, the next burst noted. -/
def scrubOpen (c : Nat) (s : State) : State :=
  modMch c (fun m => { m with scrubAt := ((mchOf s c).scrubAt + 1) % 2 ^ 26 }) (activate c (4 * (mchOf s c).scrubAt) 255 s)

theorem exec_rldScrub {ch : Fin 16} {s : State} (hs : flag s F.MCH_CTRL_SCRUB ch = true)
    (hb : bayReady s (ch.val / 4) = true) (hp : (mchOf s ch).pause = none) : exec (.rldScrub ch .none) s =
      .next (forEach (scrubWords ch (mchOf s ch).scrubAt) (scrubWord ch .none) (scrubOpen ch s)) := by
  show execRldScrub ch .none s = _
  rw [execRldScrub, rldUpset_none]
  obtain ⟨x, l, words⟩ : ∃ x l, scrubWords ch.val (mchOf s ch.val).scrubAt = x :: l := ⟨_, _, rfl⟩
  dsimp only
  rw [hs, hb, hp, words, forEach_cons, Option.isNone_none, Bool.and_self, Bool.and_self, if_pos rfl, scrubOpen]

end Sys2Proof.Machine

/-! O34: main memory corrects reads, stores writes and refuses what lies outside every region. -/

namespace Sys2Proof.Machine

theorem answer_regs (req v : Nat) (s : State) : (answer req v s).bus.regs = s.bus.regs := rfl

theorem accAnswer_read (req a : Nat) (v : Native) (s : State) :
    accAnswer req a false (.ok v, s) = answer req v.toNat s := rfl

theorem accAnswer_write (req a : Nat) (v : Native) (s : State) : accAnswer req a true (.ok v, s) = s := rfl

theorem accAnswer_read_err (req a : Nat) (c : Berr) (s : State) :
    accAnswer req a false (.err c, s) = answer req 0 (busError req a false c s) := rfl

theorem accAnswer_write_err (req a : Nat) (c : Berr) (s : State) :
    accAnswer req a true (.err c, s) = busError req a true c s := by
  simp only [accAnswer, accErr, if_true]

/-- A read of a word with at most one upset bit, to its requester (R477, R480). -/
theorem exec_rldRead_upset {req : Req} {addr : BitVec 48} {bits b o : Nat} {s : State} (hb : baseUp s = true)
    (hr : regionOf s addr.toNat = some (.rld b o)) (hs : sizeRefused (.rld b o) bits addr.toNat req = false)
    (hw : rldWaits s addr.toNat req = false) (hf : OneUpset (tabGet 0 s.mem.rldFlip (rldKey b (o / 8)))) :
    exec (.rldRead req addr bits .none) s = .next (answer req (readPart (rldWord s b (o / 8)) bits o).toNat
      (heal b (o / 8) (activate (rldCh b (o / 8)) (rldU (o / 8)) req s))) := by
  rw [exec_rldRead bits hb hw, memRead_rld _ hr hs, rldRead_upset _ _ _ hf, partOf, accAnswer_read]

/-- A read answers the word written, clears its errors and counts a corrected one (R477, R480). -/
theorem rldRead_corrects {req : Req} {addr : BitVec 48} {bits b o : Nat} {s : State} (hb : baseUp s = true)
    (hr : regionOf s addr.toNat = some (.rld b o)) (hs : sizeRefused (.rld b o) bits addr.toNat req = false)
    (hw : rldWaits s addr.toNat req = false) (hf : OneUpset (tabGet 0 s.mem.rldFlip (rldKey b (o / 8)))) :
    Answers (.rldRead req addr bits .none) s fun t =>
      tabGet 0 t.bus.answers req = (readPart (rldWord s b (o / 8)) bits o).toNat ∧
      (∀ j, tabGet 0 t.mem.rld j = tabGet 0 s.mem.rld j) ∧ tabGet 0 t.mem.rldFlip (rldKey b (o / 8)) = 0 ∧
      (∀ j, j ≠ rldKey b (o / 8) → tabGet 0 t.mem.rldFlip j = tabGet 0 s.mem.rldFlip j) ∧
      (tabGet 0 s.mem.rldFlip (rldKey b (o / 8)) = 0 →
        fld t F.MCH_ECC_CE (rldCh b (o / 8)) = fld s F.MCH_ECC_CE (rldCh b (o / 8))) ∧
      (tabGet 0 s.mem.rldFlip (rldKey b (o / 8)) ≠ 0 →
        fld t F.MCH_ECC_CE (rldCh b (o / 8)) = min (fld s F.MCH_ECC_CE (rldCh b (o / 8)) + 1) (2 ^ F.MCH_ECC_CE.width - 1) ∧
        fld t F.MCH_CEADDR_U (rldCh b (o / 8)) = rldU (o / 8) % 2 ^ 28) := by
  have same := activate_sameRld (rldCh b (o / 8)) (rldU (o / 8)) req s
  have count := activate_eccWord (rldU (o / 8)) req s (rldCh_lt (o / 8) (regionOf_rld_lt hr))
  refine ⟨_, exec_rldRead_upset hb hr hs hw hf, tabGet_answer _ _ _,
    fun j => ?_, ?_, fun j hj => ?_, fun clean => ?_, fun upset => ?_⟩
  · rw [answer_mem, heal_rld, same.rld]
  · rw [answer_mem, heal_rldFlip, if_pos rfl]
  · rw [answer_mem, heal_rldFlip, if_neg hj, same.rldFlip]
  · rw [← same.rldFlip] at clean
    rw [answer_fld, heal_clean clean, count]
  · rw [← same.rldFlip] at upset
    obtain ⟨counted, captured⟩ := heal_counts upset
    rw [answer_fld, answer_fld, counted, count]
    exact ⟨rfl, captured⟩

/-- A write's own word as it is stored, over a memory that an activation, and perhaps a correction, has left. -/
theorem rldPut_stores {b x : Nat} {v : Native} {s u : State} (hw : ∀ j, tabGet 0 u.mem.rld j = tabGet 0 s.mem.rld j)
    (hf : ∀ j, j ≠ rldKey b x → tabGet 0 u.mem.rldFlip j = tabGet 0 s.mem.rldFlip j) :
    rldWord (rldPut b x v u) b x = v ∧ tabGet 0 (rldPut b x v u).mem.rldFlip (rldKey b x) = 0 ∧
      ∀ j, j ≠ rldKey b x → tabGet 0 (rldPut b x v u).mem.rld j = tabGet 0 s.mem.rld j ∧
        tabGet 0 (rldPut b x v u).mem.rldFlip j = tabGet 0 s.mem.rldFlip j := by
  refine ⟨?_, ?_, fun j hj => ⟨?_, ?_⟩⟩
  · rw [rldWord, rldPut_rld, if_pos rfl]
  · rw [rldPut_rldFlip, if_pos rfl]
  · rw [rldPut_rld, if_neg hj, hw]
  · rw [rldPut_rldFlip, if_neg hj, hf j hj]

/-- A write of 64 or 72 bits, or of a part of a word with at most one upset bit, stores what it covers (R470, R472, R860). -/
theorem rldWrite_stores {req : Req} {addr : BitVec 48} {bits b o : Nat} {s : State} (data : Native) (hb : baseUp s = true)
    (hr : regionOf s addr.toNat = some (.rld b o)) (hs : sizeRefused (.rld b o) bits addr.toNat req = false)
    (hw : rldWaits s addr.toNat req = false) (hf : 64 ≤ bits ∨ OneUpset (tabGet 0 s.mem.rldFlip (rldKey b (o / 8)))) :
    Answers (.rldWrite req addr bits data .none) s fun t =>
      rldWord t b (o / 8) = mergePart (rldWord s b (o / 8)) bits o data ∧ tabGet 0 t.mem.rldFlip (rldKey b (o / 8)) = 0 ∧
      ∀ j, j ≠ rldKey b (o / 8) → tabGet 0 t.mem.rld j = tabGet 0 s.mem.rld j ∧
        tabGet 0 t.mem.rldFlip j = tabGet 0 s.mem.rldFlip j := by
  have same := activate_sameRld (rldCh b (o / 8)) (rldU (o / 8)) req s
  have write := exec_rldWrite bits data hb hw
  rw [memWrite_rld data .none hr hs] at write
  by_cases whole : bits = 64 ∨ bits = 72
  · rw [rldWrite_whole _ _ _ whole, accAnswer_write] at write
    exact ⟨_, write, rldPut_stores (fun j => by rw [same.rld]) (fun j _ => by rw [same.rldFlip])⟩
  · have part : bits < 64 := by
      have := sizeRefused_sizes hs
      omega
    rw [rldWrite_part _ _ part (hf.resolve_left (by omega)), accAnswer_write] at write
    exact ⟨_, write, rldPut_stores (fun j => by rw [heal_rld, same.rld])
      (fun j hj => by rw [heal_rldFlip, if_neg hj, same.rldFlip])⟩

/-- An access outside every region is a bus error and changes no memory (R42, R79). -/
theorem rldRead_unmapped {req : Req} {addr : BitVec 48} (bits : Nat) {s : State} (hb : baseUp s = true)
    (hr : regionOf s addr.toNat = none) : Answers (.rldRead req addr bits .none) s fun t =>
      t.mem = s.mem ∧ tabGet 0 t.bus.answers req = 0 ∧ RefusedWith req addr.toNat false .unmapped s t := by
  have read := exec_rldRead bits hb (rldWaits_unmapped req.val hr)
  rw [memRead_unmapped _ hr, accAnswer_read_err] at read
  refine ⟨_, read, ?_, tabGet_answer _ _ _,
    (busError_refusedWith req addr.toNat false .unmapped s).of_regs (answer_regs _ _ _)⟩
  exact (answer_mem _ _ _).trans (busError_mem _ _ _ _ _)

theorem rldWrite_unmapped {req : Req} {addr : BitVec 48} (bits : Nat) (data : Native) {s : State} (hb : baseUp s = true)
    (hr : regionOf s addr.toNat = none) : Answers (.rldWrite req addr bits data .none) s fun t =>
      t.mem = s.mem ∧ RefusedWith req addr.toNat true .unmapped s t := by
  have write := exec_rldWrite bits data hb (rldWaits_unmapped req.val hr)
  rw [memWrite_unmapped _ _ hr, accAnswer_write_err] at write
  exact ⟨_, write, busError_mem _ _ _ _ _, busError_refusedWith req addr.toNat true .unmapped s⟩

theorem mchOf_modMch (c : Nat) (f : Mch → Mch) (s : State) : mchOf (modMch c f s) c = f (mchOf s c) :=
  tabGet_tabMod_same Mch.reset s.mem.mchs c f

theorem rdWindowEnd_clears (ch : Fin 16) (s : State) : Answers (.rdWindowEnd ch) s fun t =>
    mchOf t ch = { mchOf s ch with track := [], throttles := [], rdcfg := some (rword s .MCH_RDCFG ch 0 0) } :=
  ⟨_, rfl, mchOf_modMch _ _ _⟩

theorem rldRefresh_advances {ch : Fin 16} {s : State} (hb : (bayOf s (ch.val / 4)).st ≠ .off)
    (hp : (mchOf s ch).pause = none) : Answers (.rldRefresh ch) s fun t =>
      mchOf t ch = { mchOf s ch with refreshAt := ((mchOf s ch).refreshAt + 1) % 16 } := by
  have refresh : exec (.rldRefresh ch) s =
      .next (modMch ch.val (fun m => { m with refreshAt := (m.refreshAt + 1) % 16 }) s) := by
    show execRldRefresh ch s = _
    rw [execRldRefresh, decide_eq_false hb, hp]
    rfl
  exact ⟨_, refresh, mchOf_modMch _ _ _⟩

/-- A scrub step corrects its burst and goes on (R485). -/
theorem rldScrub_corrects {ch : Fin 16} {s : State} (hs : flag s F.MCH_CTRL_SCRUB ch = true)
    (hb : bayReady s (ch.val / 4) = true) (hp : (mchOf s ch).pause = none)
    (hf : ∀ i, i < 4 → OneUpset (tabGet 0 s.mem.rldFlip (rldKey (ch.val / 4) (rldX ch (4 * (mchOf s ch).scrubAt + i))))) :
    Answers (.rldScrub ch .none) s fun t => (mchOf t ch).scrubAt = ((mchOf s ch).scrubAt + 1) % 2 ^ 26 ∧
      (∀ j, tabGet 0 t.mem.rld j = tabGet 0 s.mem.rld j) ∧
      ∀ i, i < 4 → tabGet 0 t.mem.rldFlip (rldKey (ch.val / 4) (rldX ch (4 * (mchOf s ch).scrubAt + i))) = 0 := by
  have same : SameRld s (scrubOpen ch s) := (activate_sameRld _ _ _ s).trans (modMch_sameRld _ _ _)
  have burst : ∀ x, x ∈ scrubWords ch (mchOf s ch).scrubAt ↔ ∃ i, i < 4 ∧ rldX ch (4 * (mchOf s ch).scrubAt + i) = x := by
    simp [scrubWords]
  have ready : bayReady (scrubOpen ch s) (ch.val / 4) = true := by
    rw [bayReady, bayOf, same.bays]
    exact hb
  have upsets : ∀ x ∈ scrubWords ch (mchOf s ch).scrubAt,
      OneUpset (tabGet 0 (scrubOpen ch s).mem.rldFlip (rldKey (ch.val / 4) x)) := by
    intro x hx
    obtain ⟨i, hi, rfl⟩ := (burst x).mp hx
    rw [same.rldFlip]
    exact hf i hi
  obtain ⟨heals, zeros⟩ := scrubWords_heal _ ready upsets
  refine ⟨_, exec_rldScrub hs hb hp, ?_, fun j => ?_, fun i hi => zeros _ ((burst _).mpr ⟨i, hi, rfl⟩)⟩
  · rw [mchOf, heals.mchs, ← mchOf, scrubOpen, mchOf_modMch]
  · rw [heals.rld, same.rld]

theorem rldScrub_disabled {ch : Fin 16} {s : State} (hs : flag s F.MCH_CTRL_SCRUB ch = false) :
    Answers (.rldScrub ch .none) s fun t => t = s := by
  refine ⟨s, ?_, rfl⟩
  show execRldScrub ch .none s = _
  rw [execRldScrub, rldUpset_none]
  dsimp only
  rw [hs]
  rfl

/-- Settles O34: the code is linear, so that the syndrome of a stored word tells its upset bits alone; a read of a word with
at most one of them corrects it, and the activation before it leaves words, flips and the count of errors as they were. -/
theorem memoryCorrectsReadsAndStoresWrites : Obligations.MemoryCorrectsReadsAndStoresWrites := by
  unfold Obligations.MemoryCorrectsReadsAndStoresWrites
  intro req addr bits data ch b o s
  refine ⟨fun hb hr hs hw => ⟨fun hf => ?_, fun hf => ?_⟩, fun hb hr => ⟨?_, ?_⟩, ?_, fun hb hp => ?_,
    fun hs hb hp hf => ?_, fun hs => ?_⟩
  · exact rldRead_corrects hb hr hs hw hf
  · exact rldWrite_stores data hb hr hs hw hf
  · exact rldRead_unmapped bits hb hr
  · exact rldWrite_unmapped bits data hb hr
  · exact rdWindowEnd_clears ch s
  · exact rldRefresh_advances hb hp
  · exact rldScrub_corrects hs hb hp hf
  · exact rldScrub_disabled hs

/-! ### A state that meets the statement's hypotheses -/

/-- Bay 0 is READY, its word 0 holds 0x0123, and bit 5 of the word is upset. -/
def upsetState : State :=
  { State.reset with
    pwr := { State.reset.pwr with mode := .standby, resetHigh := true }
    mem := { Mem.reset with bays := [(0, ⟨.ready, 0, 0⟩)], rld := [(0, 0x0123)], rldFlip := [(0, 0x20)] } }

/-- There the statement's read is not vacuous: a core reads its 16 bits through the upset one. -/
theorem upsetState_reads : Answers (.rldRead 128 0x100000000000 16 .none) upsetState fun t =>
    tabGet 0 t.bus.answers 128 = 0x0123 ∧ tabGet 0 t.mem.rldFlip 0 = 0 := by
  obtain ⟨t, step, answered, -, clean, -⟩ := rldRead_corrects (req := 128) (addr := 0x100000000000)
    (bits := 16) (b := 0) (o := 0) (s := upsetState) (by decide) (by decide) (by decide) (by decide) (.inr ⟨5, by decide, by decide⟩)
  exact ⟨t, step, answered, clean⟩

end Sys2Proof.Machine

/-! O6 and O7: every step keeps the memories canonical and every unlock within 256 cycles (spec/02 R65, R66, R70). -/

namespace Sys2Proof.Machine

theorem tick_inv {s : State} (h : Inv s) : Inv (tick s) := ⟨tick_wf s h.1, tick_keysOk s h.2⟩

/-- What a command leaves unchanged includes the invariant. -/
theorem exec_inv {c : Instr} {s t : State} (h : Inv s) (e : exec c s = .next t) : Inv t := by
  have keeps := (exec_upto c s).upto t e
  exact ⟨keeps.wf h.1, keeps.keysOk h.2⟩

/-- Settles O6: a step is a fabric cycle or the front command on the queue's rest, and the queue is no part of the
invariant. -/
theorem stepKeepsInvariant : Obligations.StepKeepsInvariant := by
  unfold Obligations.StepKeepsInvariant
  intro s t inv e
  unfold step at e
  split at e
  · cases e
    exact tick_inv inv
  · next c rest _ =>
    have queued : Inv { s with pending := rest } := inv
    exact exec_inv queued e

/-- Settles O7: after reset no memory table lists an entry and no frame has an unlock. -/
theorem resetMeetsInvariant : Obligations.ResetMeetsInvariant := by
  unfold Obligations.ResetMeetsInvariant
  have memories : Memory.wf Mem.reset = true := by decide
  have unlocks : keysOk State.reset = true := List.all_nil
  exact ⟨memories, unlocks⟩

end Sys2Proof.Machine

/-! What an offset of the control space names, and the words of a write to an operating frame (spec/02 R43, R49, R52, R83,
R857). -/

namespace Sys2Proof.Machine

/-! ### Frames and registers -/

theorem blk_of_mem_blkRegs {b : Blk} {r : Reg} (h : r ∈ blkRegs b) : (regInfo r).blk = b := by
  have all : ((blkRegs b).all fun r => decide ((regInfo r).blk = b)) = true := by cases b <;> rfl
  exact of_decide_eq_true (List.all_eq_true.mp all r h)

/-- A located word belongs to a register of the block and lies among the register's words. -/
theorem locate_some {b : Blk} {fr o i w : Nat} {r : Reg} (h : locate b fr o = some (r, i, w)) :
    (regInfo r).blk = b ∧ i < (regInfo r).count ∧ w < (regInfo r).words := by
  obtain ⟨q, hq, e⟩ := List.exists_of_findSome?_eq_some h
  have blk := blk_of_mem_blkRegs hq
  dsimp only at e
  simp only [Option.ite_none_left_eq_some, Option.ite_none_right_eq_some, Bool.and_eq_true, decide_eq_true_eq] at e
  obtain ⟨-, -, inside, e⟩ := e
  cases e
  exact ⟨blk, inside⟩

theorem locate_of_ctlWord {s : State} {b : Blk} {fr o i w : Nat} {r : Reg} (h : ctlWord s b fr o = .reg r i w) :
    locate b fr o = some (r, i, w) := by
  unfold ctlWord at h
  repeat' split at h
  case h_1.isFalse found _ =>
    cases h
    exact found
  all_goals cases h

/-- One line of the frame table: an index that it takes is the frame it names. -/
theorem blkFrame_of_line {f fr n : Nat} {b q : Blk} {c : Prop} [Decidable c] {rest : Option (Blk × Nat)}
    (line : c → blkFrame q n = f) (others : rest = some (b, fr) → blkFrame b fr = f) :
    (if c then some (q, n) else rest) = some (b, fr) → blkFrame b fr = f := by
  intro h
  split at h
  · next taken =>
    cases h
    exact line taken
  · exact others h

/-- The frame of an allocated index is that index. -/
theorem blkFrame_of_frameBlk {f fr : Nat} {b : Blk} : frameBlk f = some (b, fr) → blkFrame b fr = f := by
  unfold frameBlk
  repeat' apply blkFrame_of_line
  case others => exact nofun
  all_goals
    intro h
    simp only [blkFrame, Bool.and_eq_true, decide_eq_true_eq] at h ⊢
    repeat' split
    all_goals omega

/-! ### Accesses -/

theorem ctlRefusal_open {s : State} {off fr : Nat} {b : Blk} (bytes : Nat) (h : OpenFrame s off b fr) :
    ctlRefusal s off bytes =
      if 0x1000 ≤ off % 0x4000 ∧ off % 0x1000 ≥ 0xFF0 then some .winOp
      else if (bytes = 4 ∧ off % 4 = 0) ∨ (bytes = 8 ∧ off % 8 = 0) then none else some .size := by
  obtain ⟨-, alloc, up⟩ := h
  have window : off % 0x4000 % 0x1000 = off % 0x1000 := Nat.mod_mod_of_dvd off (by decide)
  simp only [ctlRefusal, alloc, up, window, Bool.false_eq_true, if_false, Bool.and_eq_true, Bool.or_eq_true,
    decide_eq_true_eq]

/-- A write that is refused as a whole is its bus error (R79). -/
theorem exec_registerWrite_refused {req : Req} {off : BitVec 24} {bytes : Nat} {c : Berr} {s : State} (data : DWord)
    (hb : baseUp s = true) (h : ctlRefusal s off.toNat bytes = some c) : exec (.registerWrite req off bytes data) s =
      .next (busError req.val (0x0E0000000000 + off.toNat) true c s) := by
  show execRegisterWrite req off bytes data s = _
  simp only [execRegisterWrite, ctlWrite, ctlWriteWith, hb, h, accessEnd, controlBase, Bool.not_true, Bool.false_eq_true,
    if_false]

/-- What a write of 4 bytes presents to the register that it names (R49, R52). -/
def wordAcc (req : Req) (off : BitVec 24) (data : DWord) : Acc :=
  ⟨req, winOf off.toNat, BitVec.ofNat 32 (data.toNat % 2 ^ 32)⟩

/-- The bits of the word that a write of 4 bytes presents. -/
theorem testBit_wordAcc (req : Req) (off : BitVec 24) (data : DWord) {n : Nat} (hn : n < 32) :
    (wordAcc req off data).data.toNat.testBit n = data.toNat.testBit n := by
  rw [wordAcc, BitVec.toNat_ofNat, Nat.mod_mod, Nat.testBit_mod_two_pow, decide_eq_true hn, Bool.true_and]

/-- A write of one word to an operating frame is the write of the register it names. -/
theorem exec_registerWrite_word (req : Req) {off : BitVec 24} {b : Blk} {fr i w : Nat} {r : Reg} {s : State} (data : DWord)
    (h : OpenFrame s off.toNat b fr) (aligned : off.toNat % 4 = 0) (below : off.toNat % 0x1000 < 0xFF0)
    (names : ctlWord s b fr (off.toNat % 0x1000) = .reg r i w) : exec (.registerWrite req off 4 data) s =
      .next (accessEnd req.val (0x0E0000000000 + off.toNat) true
        (writeReg r fr i w (wordAcc req off data)
          (regRules selfAccess r req.val fr i s).busy (regRules selfAccess r req.val fr i s).ok
          (regRules selfAccess r req.val fr i s).keep (regRules selfAccess r req.val fr i s).eff s)) := by
  have served : ctlRefusal s off.toNat 4 = none := by
    rw [ctlRefusal_open 4 h, if_neg (by omega), if_pos (.inl ⟨rfl, aligned⟩)]
  obtain ⟨base, alloc, -⟩ := h
  show execRegisterWrite req off 4 data s = _
  simp only [execRegisterWrite, ctlWrite, ctlWriteWith, base, served, ctlWriteWord, alloc, names, controlBase,
    wordAcc, Bool.not_true, Bool.false_eq_true, if_false, Nat.reduceEqDiff]

/-- The offset of a frame's KEYLOCK lies in the frame, at the key guard's place (R65). -/
theorem keylock_offset (f : Nat) :
    (f * 0x4000 + 0xFF0) / 0x4000 = f ∧ (f * 0x4000 + 0xFF0) % 0x4000 = 0xFF0 ∧ (f * 0x4000 + 0xFF0) % 0x1000 = 0xFF0 := by
  omega

/-- A write to the key guard of an operating frame. -/
theorem exec_keylockWrite_open {frame : Fin 1024} {b : Blk} {fr : Nat} {s : State} (req : Req) (data : Word)
    (h : OpenFrame s (frame.val * 0x4000) b fr) : exec (.keylockWrite req frame data) s =
      .next (accessEnd req.val (0x0E0000000000 + (frame.val * 0x4000 + 0xFF0)) true
        (keyWrite frame.val req.val data.toNat s)) := by
  obtain ⟨base, alloc, up⟩ := h
  have index : frame.val * 0x4000 / 0x4000 = frame.val := Nat.mul_div_cancel _ (Nat.succ_pos _)
  obtain ⟨inFrame, within, lock⟩ := keylock_offset frame.val
  rw [index] at alloc
  have openLock : OpenFrame s (frame.val * 0x4000 + 0xFF0) b fr := ⟨base, by rw [inFrame]; exact alloc, up⟩
  have aligned : (frame.val * 0x4000 + 0xFF0) % 4 = 0 := by rw [← Nat.mod_mod_of_dvd _ (show 4 ∣ 0x1000 by decide), lock]
  have served : ctlRefusal s (frame.val * 0x4000 + 0xFF0) 4 = none := by
    rw [ctlRefusal_open 4 openLock, within, if_neg (fun h => absurd h.1 (by decide)), if_pos (.inl ⟨rfl, aligned⟩)]
  have word : data.toNat % 2 ^ 32 = data.toNat := Nat.mod_eq_of_lt data.isLt
  show execKeylockWrite req frame data s = _
  simp only [execKeylockWrite, ctlWrite, ctlWriteWith, base, served, ctlWriteWord, inFrame, alloc, lock, ctlWord, word,
    controlBase, Bool.not_true, Bool.false_eq_true, if_false, if_true, Nat.reduceEqDiff]

/-! ### The write of a register's word -/

theorem OpenFrame.frameUp {s : State} {off fr : Nat} {r : Reg} (h : OpenFrame s off (regInfo r).blk fr) :
    frameUp r fr s = true := by
  obtain ⟨base, -, up⟩ := h
  unfold frameDown at up
  unfold Machine.frameUp
  rw [base, Bool.true_and]
  cases dom : blkDomain (regInfo r).blk fr with
  | none => rfl
  | some d =>
    rw [dom] at up
    simpa using up

theorem frameDown_of_frameUp {s : State} {fr : Nat} {r : Reg} (h : frameUp r fr s = true) :
    frameDown s (regInfo r).blk fr = false := by
  unfold frameUp at h
  unfold frameDown
  rw [Bool.and_eq_true] at h
  cases dom : blkDomain (regInfo r).blk fr with
  | none => rfl
  | some d =>
    rw [dom] at h
    simpa using h.2

theorem baseUp_of_frameUp {s : State} {fr : Nat} {r : Reg} (h : frameUp r fr s = true) : baseUp s = true := by
  unfold frameUp at h
  rw [Bool.and_eq_true] at h
  exact h.1

/-- A word below the highest of a powered frame's register is staged (R56). -/
theorem writeReg_staged {r : Reg} {fr i w : Nat} {a : Acc} {busy : List Nat → Option Berr} {ok : List Nat → Bool}
    {keep : Bool} {eff : List Nat → State → State} {s : State} (up : frameUp r fr s = true)
    (lower : w + 1 < (regInfo r).words) : writeReg r fr i w a busy ok keep eff s =
      (stageWord r fr i w a (served (blkFrame (regInfo r).blk fr) a.req.val s), none) := by
  have powered := frameDown_of_frameUp up
  unfold writeReg
  rw [baseUp_of_frameUp up]
  dsimp only
  refine (if_neg (by decide)).trans ((if_neg (Bool.eq_false_iff.mp ?_)).trans (if_pos lower))
  exact powered

/-- A commit of a guarded register without the writer's unlock is refused (R64, R69). -/
theorem writeReg_guarded {r : Reg} {fr i w : Nat} {a : Acc} {busy : List Nat → Option Berr} {ok : List Nat → Bool}
    {keep : Bool} {eff : List Nat → State → State} {s : State} (up : frameUp r fr s = true)
    (top : ¬ w + 1 < (regInfo r).words) (guarded : (regInfo r).guarded = true)
    (closed : keyOpen s (blkFrame (regInfo r).blk fr) a.req.val = false) : writeReg r fr i w a busy ok keep eff s =
      (keyReject (blkFrame (regInfo r).blk fr) a.req.val .guard
        (dropStage r a.req.val fr i (served (blkFrame (regInfo r).blk fr) a.req.val s)), some .guard) := by
  have powered := frameDown_of_frameUp up
  have refused : ((regInfo r).guarded && !keyOpen (dropStage r a.req.val fr i
      (served (blkFrame (regInfo r).blk fr) a.req.val s)) (blkFrame (regInfo r).blk fr) a.req.val) = true := by
    rw [guarded, Bool.true_and, Bool.not_eq_true']
    exact closed
  unfold writeReg
  rw [baseUp_of_frameUp up]
  dsimp only
  refine (if_neg (by decide)).trans ((if_neg (Bool.eq_false_iff.mp ?_)).trans ((if_neg top).trans (if_pos refused)))
  exact powered

end Sys2Proof.Machine

/-! What changes beside the register words: refused accesses, key guards and staging (spec/02 R56, R57, R64-R72, R79). -/

namespace Sys2Proof.Machine

/-! ### Changes of the register interface alone -/

theorem OnlyBus.trans {s t u : State} (h : OnlyBus s t) (g : OnlyBus t u) : OnlyBus s u := by
  unfold OnlyBus at *
  rw [g, h]

theorem OnlyRegs.onlyBus {s t : State} (h : OnlyRegs s t) : OnlyBus s t := by
  unfold OnlyRegs at h
  unfold OnlyBus
  rw [h]

theorem OnlyBus.now {s t : State} (h : OnlyBus s t) : t.now = s.now := by rw [h]

/-- A bus error after changes beside the registers is that of the state before them. -/
theorem RefusedWith.after {req : Req} {a : Nat} {write : Bool} {c : Berr} {s t u : State}
    (e : t.bus.regs = s.bus.regs) (h : RefusedWith req a write c t u) : RefusedWith req a write c s u := by
  have word : ∀ r fr i w, rword t r fr i w = rword s r fr i w := fun r fr i w => by unfold rword; rw [e]
  unfold RefusedWith RegsBut flag fld at *
  simp only [word, e] at h
  exact h

/-! ### Key guards -/

theorem keyOf_congr {s t : State} (h : t.bus.keys = s.bus.keys) (f : Nat) : keyOf t f = keyOf s f := by rw [keyOf, h, keyOf]

theorem keyOf_modKey (f g : Nat) (x : KeyGuard → KeyGuard) (s : State) :
    keyOf (modKey f x s) g = if g = f then x (keyOf s f) else keyOf s g := tabGet_tabMod KeyGuard.reset s.bus.keys f g x

theorem keyOf_keyGrant (f req : Nat) (s : State) (g : Nat) : keyOf (keyGrant f req s) g =
    if g = f then { keyOf s f with ends := s.now + 256, owner := req } else keyOf s g := keyOf_modKey ..

theorem keyOf_keyClose (f : Nat) (s : State) (g : Nat) : keyOf (keyClose f s) g =
    if g = f then { keyOf s f with ends := 0, owner := 0 } else keyOf s g := keyOf_modKey ..

theorem satAdd_eq_min (x n max : Nat) : satAdd x n max = min (x + n) max := by
  unfold satAdd
  split <;> omega

/-- What a refused key or guarded write of a frame does: its bus error, and the record of KEYREJ (R69, R72). -/
structure KeyRefused (req : Req) (addr f : Nat) (c : Berr) (s t : State) : Prop where
  refused : RefusedWith req addr true c s t
  left : keyLeft t f = keyLeft s f
  owner : (keyOf t f).owner = (keyOf s f).owner
  rejCount : (keyOf t f).rejCount = min ((keyOf s f).rejCount + 1) 65535
  rejCause : (keyOf t f).rejCause = c.code
  rejReq : (keyOf t f).rejReq = req.val
  others : ∀ g, g ≠ f → keyOf t g = keyOf s g
  onlyBus : OnlyBus s t

theorem keyReject_refused {s u : State} (req : Req) (addr f : Nat) (c : Berr) (only : OnlyBus s u)
    (regs : u.bus.regs = s.bus.regs) (keys : u.bus.keys = s.bus.keys) :
    KeyRefused req addr f c s (busError req.val addr true c (keyReject f req.val c u)) := by
  have guards : ∀ g, keyOf (busError req.val addr true c (keyReject f req.val c u)) g =
      if g = f then { keyOf s f with
        rejCount := min ((keyOf s f).rejCount + 1) 65535, rejCause := c.code, rejReq := req.val } else keyOf s g := by
    intro g
    rw [keyOf_congr (busError_keys ..), keyReject, keyOf_modKey, keyOf_congr keys, keyOf_congr keys, satAdd_eq_min]
  have frame := guards f
  rw [if_pos rfl] at frame
  have bus : OnlyBus s (busError req.val addr true c (keyReject f req.val c u)) :=
    (only.trans (show OnlyBus u (keyReject f req.val c u) from rfl)).trans (busError_only ..).onlyBus
  refine ⟨(busError_refusedWith req addr true c _).after regs, ?_, ?_, ?_, ?_, ?_, fun g h => ?_, bus⟩
  · rw [keyLeft, frame, bus.now, keyLeft]
  · rw [frame]
  · rw [frame]
  · rw [frame]
  · rw [frame]
  · rw [guards g, if_neg h]

/-- The key, while no unlock is held or by its owner (R65, R66). -/
def rightKey (f req data : Nat) (s : State) : Prop :=
  bitsOf data 16 16 = 0x4C52 ∧ bitsOf data 0 10 = f ∧ (keyLeft s f = 0 ∨ (keyOf s f).owner = req)

theorem keyWrite_right {f req data : Nat} {s : State} (h : rightKey f req data s) :
    keyWrite f req data s = (keyGrant f req (served f req s), none) := by
  obtain ⟨magic, index, free⟩ := h
  refine if_pos ?_
  simp only [magic, index, BEq.rfl, Bool.true_and, Bool.or_eq_true, decide_eq_true_eq]
  exact free

theorem keyWrite_wrong {f req data : Nat} {s : State} (h : ¬rightKey f req data s) :
    keyWrite f req data s = (keyReject f req .badkey (served f req s), some .badkey) := by
  refine if_neg fun held => h ?_
  simp only [Bool.and_eq_true, Bool.or_eq_true, decide_eq_true_eq, beq_iff_eq] at held
  obtain ⟨⟨magic, index⟩, free⟩ := held
  exact ⟨magic, index, free⟩

/-! ### Bits through a window -/

/-- What a window makes of one writable bit (R49, R50). -/
def winBit (win : Alias) (old new : Bool) : Bool :=
  match win with
  | .normal => new
  | .set => old || new
  | .clear => old && !new
  | .toggle => old != new

theorem testBit_applyWin (win : Alias) (data old wo : Nat) {rw n : Nat} (h : rw.testBit n = true) :
    (applyWin win data (old &&& rw) rw wo).testBit n = winBit win (old.testBit n) (data.testBit n) := by
  cases win with
  | normal => simp [applyWin, winBit, h]
  | set => simp [applyWin, winBit, h]
  | clear => simp [applyWin, winBit, h, Nat.and_comm data rw, testBit_sub_and]
  | toggle => simp [applyWin, winBit, h]

/-! ### Staging and commits of a register held once -/

theorem curWord_once {r : Reg} (hp : (regInfo r).perReq = false) (s : State) (req fr i w : Nat) :
    curWord s r req fr i w = rword s r fr i w := by
  rw [curWord, hp]
  rfl

/-- The word that staging keeps. -/
def stagedWord (s : State) (r : Reg) (fr i w : Nat) (a : Acc) : Word :=
  BitVec.ofNat 32 (applyWin a.win a.data.toNat (curWord s r a.req.val fr i w &&& rwMask r i w) (rwMask r i w) (woMask r w))

theorem tabGet_stageWord (s : State) (r : Reg) (fr i w : Nat) (a : Acc) (k : Nat) :
    tabGet none (stageWord r fr i w a s).bus.staged k =
      if k = stageKey a.req.val (regKey r fr i w) then some (stagedWord s r fr i w a) else tabGet none s.bus.staged k := by
  simp only [stageWord, stagedWord, tabGet_tabSet]

theorem testBit_stagedWord {r : Reg} (hp : (regInfo r).perReq = false) (s : State) (fr i w : Nat) (a : Acc) {n : Nat}
    (hn : n < 32) (hm : (rwMask r i w).testBit n = true) : (stagedWord s r fr i w a).toNat.testBit n =
      winBit a.win ((rword s r fr i w).testBit n) (a.data.toNat.testBit n) := by
  rw [stagedWord, BitVec.toNat_ofNat, Nat.testBit_mod_two_pow, testBit_applyWin _ _ _ _ hm, curWord_once hp]
  simp [hn]

theorem commitVals_getD {r : Reg} (hp : (regInfo r).perReq = false) (s : State) (fr i : Nat) (a : Acc) {w : Nat}
    (hw : w < (regInfo r).words) : (commitVals s r fr i a).getD w 0 =
      if w = (regInfo r).words - 1 then
        applyWin a.win a.data.toNat (rword s r fr i w &&& rwMask r i w) (rwMask r i w) (woMask r w)
      else ((tabGet none s.bus.staged (stageKey a.req.val (regKey r fr i w))).map BitVec.toNat).getD
        (rword s r fr i w &&& rwMask r i w) := by
  rw [commitVals, List.getD_eq_getElem?_getD, List.getElem?_map, List.getElem?_range hw]
  simp only [Option.map_some, Option.getD_some, curWord_once hp]
  cases tabGet none s.bus.staged (stageKey a.req.val (regKey r fr i w)) <;> rfl

/-- The bits of the highest word after a commit (R50, R59). -/
theorem testBit_taken_top {r : Reg} (hp : (regInfo r).perReq = false) (hw : 0 < (regInfo r).words) (s : State)
    (fr i n : Nat) (a : Acc) : (rword (taken r fr i a s) r fr i ((regInfo r).words - 1)).testBit n =
      if (rwMask r i ((regInfo r).words - 1)).testBit n then
        winBit a.win ((rword s r fr i ((regInfo r).words - 1)).testBit n) (a.data.toNat.testBit n)
      else (rword s r fr i ((regInfo r).words - 1)).testBit n := by
  have top : (regInfo r).words - 1 < (regInfo r).words := by omega
  rw [rword_taken hp top, testBit_merge]
  split
  · next writable =>
    rw [commitVals_getD hp _ _ _ _ top, if_pos rfl]
    exact testBit_applyWin _ _ _ _ writable
  · rfl

/-- The bits of a lower word after a commit (R56). -/
theorem testBit_taken_lower {r : Reg} (hp : (regInfo r).perReq = false) {w : Nat} (hw : w + 1 < (regInfo r).words)
    (s : State) (fr i n : Nat) (a : Acc) : (rword (taken r fr i a s) r fr i w).testBit n =
      if (rwMask r i w).testBit n then
        match tabGet none s.bus.staged (stageKey a.req.val (regKey r fr i w)) with
        | some v => v.toNat.testBit n
        | none => (rword s r fr i w).testBit n
      else (rword s r fr i w).testBit n := by
  rw [rword_taken hp (by omega), testBit_merge]
  split
  · next writable =>
    rw [commitVals_getD hp _ _ _ _ (by omega), if_neg (by omega)]
    cases tabGet none s.bus.staged (stageKey a.req.val (regKey r fr i w)) with
    | some v => rfl
    | none =>
      show (rword s r fr i w &&& rwMask r i w).testBit n = (rword s r fr i w).testBit n
      rw [Nat.testBit_and, writable, Bool.and_true]
  · rfl

/-- A dropped staging holds no word of the register (R57). -/
theorem tabGet_dropStage (r : Reg) (req fr i : Nat) {w : Nat} (hw : w < (regInfo r).words) (s : State) :
    tabGet none (dropStage r req fr i s).bus.staged (stageKey req (regKey r fr i w)) = none := by
  refine (tabGet_foldl_tabErase none (fun w => stageKey req (regKey r fr i w)) _ _ _).trans (if_pos ?_)
  exact List.mem_map.mpr ⟨w, List.mem_range.mpr hw, rfl⟩

end Sys2Proof.Machine

/-! O8 to O13: what a write to the control space stores, stages or is refused for, and the key guard (spec/02 R49-R57,
R64-R72, R79-R83, R857). -/

namespace Sys2Proof.Machine

/-! ### Register writes -/

theorem registerWrite_refused {req : Req} {off : BitVec 24} {bytes : Nat} {c : Berr} {s : State} (data : DWord)
    (hb : baseUp s = true) (h : ctlRefusal s off.toNat bytes = some c) : Answers (.registerWrite req off bytes data) s
      fun t => RefusedWith req (0x0E0000000000 + off.toNat) true c s t ∧ OnlyRegs s t :=
  ⟨_, exec_registerWrite_refused data hb h, busError_refusedWith .., busError_only ..⟩

/-- Settles O10: each clause names the first cause that the refusal order of R857 meets, and a write refused as a whole is
its bus error. -/
theorem refusedWriteIsABusErrorOnly : Obligations.RefusedWriteIsABusErrorOnly := by
  unfold Obligations.RefusedWriteIsABusErrorOnly
  intro req off bytes data s c hb cause
  refine registerWrite_refused data hb ?_
  obtain ⟨noFrame, rfl⟩ | ⟨b, fr, alloc, down, rfl⟩ | ⟨b, fr, isOpen, aliased, guard, rfl⟩ |
    ⟨b, fr, isOpen, place, not4, not8, rfl⟩ := cause
  · simp only [ctlRefusal, noFrame]
  · simp only [ctlRefusal, alloc, down, if_true]
  · rw [ctlRefusal_open bytes isOpen, if_pos ⟨aliased, guard⟩]
  · rw [ctlRefusal_open bytes isOpen, if_neg (by omega), if_neg (not_or.mpr ⟨not4, not8⟩)]

/-- Settles O9: a lower word is staged through its window, and beside it a served access moves only its target's
round-robin pointer. -/
theorem registerWriteStagesLowerWords : Obligations.RegisterWriteStagesLowerWords := by
  unfold Obligations.RegisterWriteStagesLowerWords
  intro req off data b fr r i w s isOpen aligned below names lower once
  obtain ⟨rfl, -, -⟩ := locate_some (locate_of_ctlWord names)
  have write := exec_registerWrite_word req data isOpen aligned below names
  rw [writeReg_staged isOpen.frameUp lower] at write
  have staged := tabGet_stageWord (served (blkFrame (regInfo r).blk fr) req.val s) r fr i w
    (wordAcc req off data)
  refine ⟨_, write, ⟨_, (staged _).trans (if_pos rfl), fun n hn writable => ?_⟩,
    fun k hk => (staged k).trans (if_neg hk), .of_eq rfl, rfl, rfl⟩
  have bit := testBit_stagedWord once (served (blkFrame (regInfo r).blk fr) req.val s) fr i w
    (wordAcc req off data) hn writable
  rw [testBit_wordAcc req off data hn] at bit
  exact bit

/-- Settles O8: a commit that meets no cause of refusal is `taken`, and a register without rules does nothing beside. -/
theorem registerWriteStoresThroughItsWindow : Obligations.RegisterWriteStoresThroughItsWindow := by
  unfold Obligations.RegisterWriteStoresThroughItsWindow
  intro req off data b fr r i s isOpen aligned below names once plain held legal
  obtain ⟨rfl, -, word⟩ := locate_some (locate_of_ctlWord names)
  have accepted : accepts r fr i (wordAcc req off data) neverBusy anyOk s = true := by
    have unlocked : (!(regInfo r).guarded || keyOpen s (blkFrame (regInfo r).blk fr) req.val) = true := by
      rw [Bool.or_eq_true, Bool.not_eq_true', ← Bool.not_eq_true, ← imp_iff_not_or]
      exact held
    have judged : judge r (commitVals s r fr i (wordAcc req off data)) = true := legal
    unfold accepts
    rw [isOpen.frameUp, judged, Bool.true_and, Bool.and_true]
    simpa only [wordAcc, neverBusy, anyOk, Option.isNone_none, Bool.and_true] using unlocked
  have write := exec_registerWrite_word req data isOpen aligned below names
  rw [plain, writeReg_taken accepted] at write
  refine ⟨_, write, fun n hn => ?_, fun w n hw _ => testBit_taken_lower once hw s fr i n _, taken_regs once fr i _ s,
    fun w hw => taken_staged r fr i _ hw s, fun guarded => taken_closes guarded fr i _ s, taken_bus r fr i _ s⟩
  have bit := testBit_taken_top once (by omega) s fr i n (wordAcc req off data)
  rw [testBit_wordAcc req off data hn] at bit
  exact bit

/-- Settles O12: the guard is judged before anything of the register changes, once its staging has ended. -/
theorem guardedWriteNeedsTheWritersUnlock : Obligations.GuardedWriteNeedsTheWritersUnlock := by
  unfold Obligations.GuardedWriteNeedsTheWritersUnlock
  intro req off data b fr r i s isOpen aligned below names guarded closed
  obtain ⟨rfl, -, word⟩ := locate_some (locate_of_ctlWord names)
  have write := exec_registerWrite_word req data isOpen aligned below names
  rw [writeReg_guarded isOpen.frameUp (by omega) guarded closed] at write
  obtain ⟨refused, left, owner, count, cause, rejReq, others, only⟩ :=
    keyReject_refused (s := s) (u := dropStage r req.val fr i (served (blkFrame (regInfo r).blk fr) req.val s)) req
      (0x0E0000000000 + off.toNat) (blkFrame (regInfo r).blk fr) .guard rfl rfl rfl
  refine ⟨_, write, refused, left, owner, count, cause, rejReq, others, fun w hw => ?_, only⟩
  rw [accessEnd, busError_staged, keyReject_staged]
  exact tabGet_dropStage r req.val fr i hw _

/-! ### The key guard -/

theorem keylockWrite_right {frame : Fin 1024} {b : Blk} {fr : Nat} {s : State} {req : Req} {data : Word}
    (isOpen : OpenFrame s (frame.val * 0x4000) b fr) (right : rightKey frame.val req.val data.toNat s) :
    Answers (.keylockWrite req frame data) s fun t => keyLeft t frame.val = 256 ∧ (keyOf t frame.val).owner = req.val ∧
      (keyOf t frame.val).rejCount = (keyOf s frame.val).rejCount ∧ (∀ g, g ≠ frame.val → keyOf t g = keyOf s g) ∧
      t.bus.regs = s.bus.regs ∧ OnlyBus s t := by
  have write := exec_keylockWrite_open req data isOpen
  rw [keyWrite_right right] at write
  have guards := keyOf_keyGrant frame.val req.val (served frame.val req.val s)
  have own := (guards frame.val).trans (if_pos rfl)
  refine ⟨_, write, ?_, ?_, ?_, fun g hg => (guards g).trans (if_neg hg), rfl, rfl⟩
  · rw [accessEnd, keyLeft, own]
    exact Nat.add_sub_cancel_left _ _
  · rw [accessEnd, own]
  · rw [accessEnd, own]
    rfl

theorem keylockWrite_wrong {frame : Fin 1024} {b : Blk} {fr : Nat} {s : State} {req : Req} {data : Word}
    (isOpen : OpenFrame s (frame.val * 0x4000) b fr) (wrong : ¬rightKey frame.val req.val data.toNat s) :
    Answers (.keylockWrite req frame data) s
      (KeyRefused req (0x0E0000000000 + (frame.val * 0x4000 + 0xFF0)) frame.val .badkey s) := by
  have write := exec_keylockWrite_open req data isOpen
  rw [keyWrite_wrong wrong] at write
  exact ⟨_, write, keyReject_refused (u := served frame.val req.val s) _ _ _ _ rfl rfl rfl⟩

/-- Settles O11: KEYLOCK takes the right key and refuses every other. -/
theorem keylockGrantsRenewsOrRefuses : Obligations.KeylockGrantsRenewsOrRefuses := by
  unfold Obligations.KeylockGrantsRenewsOrRefuses
  intro req frame data b fr s isOpen
  refine ⟨keylockWrite_right isOpen, fun wrong => ?_⟩
  obtain ⟨t, write, refused, left, owner, count, cause, rejReq, others, only⟩ := keylockWrite_wrong isOpen wrong
  exact ⟨t, write, refused, left, owner, count, cause, rejReq, others, only⟩

/-- With no remote access waiting, an ended unlock's check has nothing to go on with (R725). -/
theorem rraDrain_idle {s : State} (h : s.sth.waiting = []) : rraDrain s = s := by
  have same : { s.sth with waiting := [] } = s.sth := by rw [← h]
  unfold rraDrain modSth
  rw [h]
  show { s with sth := { s.sth with waiting := [] } } = s
  rw [same]

theorem unlockExpire_closes {frame : Fin 1024} {s : State} (granted : (keyOf s frame.val).ends ≠ 0)
    (ended : keyLeft s frame.val = 0) (idle : s.sth.waiting = []) :
    exec (.unlockExpire frame) s = .next (keyClose frame.val s) := by
  show execUnlockExpire frame s = _
  have drained : rraDrain (keyClose frame.val s) = keyClose frame.val s := rraDrain_idle idle
  unfold execUnlockExpire
  dsimp only
  rw [drained]
  exact if_pos (by simp [granted, ended])

theorem unlockExpire_early {frame : Fin 1024} {s : State} (held : 1 ≤ keyLeft s frame.val) :
    exec (.unlockExpire frame) s = .next s := by
  have notEnded : keyLeft s frame.val ≠ 0 := Nat.ne_of_gt held
  refine if_neg fun ended => notEnded ?_
  rw [Bool.and_eq_true, decide_eq_true_eq, decide_eq_true_eq] at ended
  exact ended.2

/-- Settles O13: LEFT tells whether the unlock has ended, and only an ended one is closed. -/
theorem unlockClosesWhenLeftReachesZero : Obligations.UnlockClosesWhenLeftReachesZero := by
  unfold Obligations.UnlockClosesWhenLeftReachesZero
  intro frame s
  refine ⟨fun granted ended idle => ?_, fun held => ⟨s, unlockExpire_early held, rfl⟩⟩
  have guards := keyOf_keyClose frame.val s
  exact ⟨_, unlockExpire_closes granted ended idle, (guards frame.val).trans (if_pos rfl),
    fun g hg => (guards g).trans (if_neg hg), rfl⟩

end Sys2Proof.Machine

/-! O14: flipped bits of a register, and the visits of a frame's parity checker (spec/02 R73-R77). -/

namespace Sys2Proof.Machine

/-! ### Upsets (R73) -/

/-- An odd number of bits is set in a word. -/
def oddBits (m : Nat) : Bool := popcount 32 m % 2 == 1

/-- The bits of `m` flip in a register word held once; an odd number of them turns the register's parity. -/
def flipBits (r : Reg) (fr i w m : Nat) (odd : Bool) (s : State) : State :=
  let turned := if odd then tabMod false s.bus.parBad (regKey r fr i 0) (! ·) else s.bus.parBad
  let s := setRword r fr i w (rword s r fr i w ^^^ m) s
  { s with bus := { s.bus with parBad := turned } }

theorem parUpset_once {b : Blk} {fr i w : Nat} {u : Upset} {r : Reg} (located : locate b fr u.offset = some (r, i, w))
    (once : (regInfo r).perReq = false) (s : State) : parUpset b fr u s =
      flipBits r fr i w (u.mask.toNat &&& rwMask r i w) (oddBits (u.mask.toNat &&& rwMask r i w)) s := by
  simp only [parUpset, located, once, Bool.false_and, Bool.false_eq_true, if_false, putWord, curWord, parKey, flipBits,
    oddBits]
  congr 2

theorem rword_flipBits (r : Reg) (fr i w : Nat) {m : Nat} (hm : m < 2 ^ 32) (odd : Bool) (s : State) :
    rword (flipBits r fr i w m odd s) r fr i w = rword s r fr i w ^^^ m :=
  (rword_setRword ..).trans (Nat.mod_eq_of_lt (Nat.xor_lt_two_pow (rword_lt ..) hm))

theorem parBad_flipBits (r : Reg) (fr i w m : Nat) (odd : Bool) (s : State) :
    tabGet false (flipBits r fr i w m odd s).bus.parBad (regKey r fr i 0) =
      (tabGet false s.bus.parBad (regKey r fr i 0) != odd) := by
  unfold flipBits
  cases odd with
  | true => exact (tabGet_tabMod_same ..).trans (Bool.bne_true _).symm
  | false => exact (Bool.bne_false _).symm

theorem flipBits_regs (r : Reg) (fr i w m : Nat) (odd : Bool) (s : State) :
    RegsBut [regKey r fr i w] s (flipBits r fr i w m odd s) :=
  ((RegsBut.refl _ s).setRword List.mem_cons_self).same rfl

/-! ### Visits (R74) -/

/-- CFGPAR of an operating frame: the upsets, then a visit once it is due. -/
theorem exec_cfgpar_open {frame : Fin 1024} {b : Blk} {fr : Nat} {s : State} (upsets : List Upset)
    (h : OpenFrame s (frame.val * 0x4000) b fr) : exec (.cfgpar frame upsets) s =
      let u := forEach upsets (parUpset b fr) s
      if u.now < parDue u frame.val then .next u else .next (parVisit b fr frame.val u) := by
  obtain ⟨base, alloc, up⟩ := h
  rw [Nat.mul_div_cancel _ (Nat.succ_pos _)] at alloc
  show execCfgpar frame upsets s = _
  simp only [execCfgpar, alloc, base, up, Bool.not_true, Bool.or_self, Bool.false_eq_true, if_false]

/-- The checker goes on behind a register: the position and the time of its next visit. -/
def parMoved (f pos next : Nat) (s : State) : State :=
  { s with bus := { s.bus with parPos := tabSet 0 s.bus.parPos f pos, parAt := tabSet 0 s.bus.parAt f next } }

@[simp] theorem parMoved_parPos (f pos next : Nat) (s : State) : tabGet 0 (parMoved f pos next s).bus.parPos f = pos :=
  tabGet_tabSet_same 0 s.bus.parPos f pos

@[simp] theorem parMoved_parAt (f pos next : Nat) (s : State) : tabGet 0 (parMoved f pos next s).bus.parAt f = next :=
  tabGet_tabSet_same 0 s.bus.parAt f next

theorem parVisit_next {b : Blk} {fr f o i : Nat} {r : Reg} {s : State}
    (h : parNext b fr (tabGet 0 s.bus.parPos f) = some (o, r, i)) : parVisit b fr f s =
      parMoved f (o + 4) (parDue s f + 16) (forEach (parCopies s r fr i) (parReport (f * 0x4000 + o)) s) := by
  simp only [parVisit, h, parMoved]

theorem parCopies_once {r : Reg} (once : (regInfo r).perReq = false) (s : State) (fr i : Nat) : parCopies s r fr i =
    if tabGet false s.bus.parBad (regKey r fr i 0) then [(regKey r fr i 0, 255)] else [] := by
  simp only [parCopies, once, Bool.false_eq_true, if_false]

/-- Nothing to report of a register: it agrees with its parity, has been reported, or was written in this cycle. -/
def ParQuiet (s : State) (k : Nat) : Prop :=
  tabGet false s.bus.parBad k = false ∨ tabGet false s.bus.parReported k = true ∨ k ∈ s.bus.wroteNow

theorem parReport_known {off k q : Nat} {s : State} (h : tabGet false s.bus.parReported k = true ∨ k ∈ s.bus.wroteNow) :
    parReport off (k, q) s = s := by
  refine if_pos ?_
  rw [Bool.or_eq_true, List.contains_iff_mem]
  exact h

theorem parReports_quiet {r : Reg} (once : (regInfo r).perReq = false) {fr i : Nat} {s : State}
    (quiet : ParQuiet s (regKey r fr i 0)) (off : Nat) : forEach (parCopies s r fr i) (parReport off) s = s := by
  rw [parCopies_once once]
  split
  · next bad =>
    have known := quiet.resolve_left (by rw [bad]; decide)
    exact parReport_known known
  · rfl

/-! ### Reports (R75, R76) -/

/-- A mismatch is marked as reported, and counted. -/
def parCounted (k : Nat) (s : State) : State :=
  bump F.SYS_CFGPAR_COUNT { s with bus := { s.bus with parReported := tabSet false s.bus.parReported k true } }

/-- The capture of a mismatch's offset, while armed. -/
def parCapture (off : Nat) (s : State) : State :=
  if flag s F.SYS_CFGPAR_ARM then setFld F.SYS_CFGPAR_ARM 0 (setFld F.SYS_CFGPAR_ADDR_OFFSET off s) else s

theorem parReport_fresh {off k q : Nat} {s : State} (fresh : tabGet false s.bus.parReported k = false)
    (unwritten : k ∉ s.bus.wroteNow) : parReport off (k, q) s =
      parCapture off (report 0x00 0 off q (parCounted k s)) := by
  refine if_neg ?_
  rw [Bool.or_eq_true, List.contains_iff_mem, fresh]
  exact not_or.mpr ⟨Bool.false_ne_true, unwritten⟩

/-- The registers that the count and the capture of a mismatch change. -/
def parWords : List Nat := [regKey .SYS_CFGPAR 0 0 0, regKey .SYS_CFGPAR_ADDR 0 0 0]

theorem parCounted_regs (k : Nat) (s : State) : RegsBut parWords s (parCounted k s) :=
  (RegsBut.of_eq rfl).bump (by decide)

theorem parCounted_count (k : Nat) (s : State) :
    fld (parCounted k s) F.SYS_CFGPAR_COUNT = min (fld s F.SYS_CFGPAR_COUNT + 1) 65535 :=
  fld_bump F.SYS_CFGPAR_COUNT _ 0 0 1 (by decide)

theorem parCounted_arm (k : Nat) (s : State) : flag (parCounted k s) F.SYS_CFGPAR_ARM = flag s F.SYS_CFGPAR_ARM :=
  congrArg (· == 1) (fld_setFld_beside rfl rfl (by decide) (by decide))

theorem parCounted_address (k : Nat) (s : State) :
    fld (parCounted k s) F.SYS_CFGPAR_ADDR_OFFSET = fld s F.SYS_CFGPAR_ADDR_OFFSET := fld_setFld_ne (by decide)

theorem parCounted_reported (k : Nat) (s : State) : tabGet false (parCounted k s).bus.parReported k = true :=
  tabGet_tabSet_same false s.bus.parReported k true

theorem parCounted_parBad (k : Nat) (s : State) : (parCounted k s).bus.parBad = s.bus.parBad := rfl

theorem parCapture_regs (off : Nat) (s : State) : RegsBut parWords s (parCapture off s) :=
  (((RegsBut.refl parWords s).setFld (by decide)).setFld (by decide)).ite (.refl _ _)

theorem parCapture_count (off : Nat) (s : State) :
    fld (parCapture off s) F.SYS_CFGPAR_COUNT = fld s F.SYS_CFGPAR_COUNT := by
  unfold parCapture
  split
  · rw [fld_setFld_beside (f := F.SYS_CFGPAR_ARM) (g := F.SYS_CFGPAR_COUNT) rfl rfl (by decide) (by decide),
      fld_setFld_ne (by decide)]
  · rfl

theorem parCapture_armed {off : Nat} {s : State} (armed : flag s F.SYS_CFGPAR_ARM = true) :
    flag (parCapture off s) F.SYS_CFGPAR_ARM = false ∧ fld (parCapture off s) F.SYS_CFGPAR_ADDR_OFFSET = off % 2 ^ 24 := by
  rw [parCapture, if_pos armed]
  constructor
  · rw [flag, fld_setFld _ _ _ _ _ (by decide)]
    rfl
  · rw [fld_setFld_ne (by decide), fld_setFld _ _ _ _ _ (by decide)]
    rfl

theorem parCapture_disarmed {off : Nat} {s : State} (disarmed : flag s F.SYS_CFGPAR_ARM = false) :
    parCapture off s = s := if_neg (by rw [disarmed]; decide)

theorem parCapture_parReported (off : Nat) (s : State) : (parCapture off s).bus.parReported = s.bus.parReported := by
  unfold parCapture
  split
  · rw [setFld_parReported, setFld_parReported]
  · rfl

theorem parCapture_parBad (off : Nat) (s : State) : (parCapture off s).bus.parBad = s.bus.parBad := by
  unfold parCapture
  split
  · rw [setFld_parBad, setFld_parBad]
  · rfl

/-- What the report of a register's mismatch does (R75). -/
structure ParReported (off k : Nat) (s t : State) : Prop where
  count : fld t F.SYS_CFGPAR_COUNT = min (fld s F.SYS_CFGPAR_COUNT + 1) 65535
  latched : fclLatched t 0 = true
  armed : flag s F.SYS_CFGPAR_ARM = true → flag t F.SYS_CFGPAR_ARM = false ∧ fld t F.SYS_CFGPAR_ADDR_OFFSET = off % 2 ^ 24
  disarmed : flag s F.SYS_CFGPAR_ARM = false → fld t F.SYS_CFGPAR_ADDR_OFFSET = fld s F.SYS_CFGPAR_ADDR_OFFSET
  reported : tabGet false t.bus.parReported k = true
  parBad : t.bus.parBad = s.bus.parBad
  regs : RegsBut (regKey .SYS_CFGPAR 0 0 0 :: regKey .SYS_CFGPAR_ADDR 0 0 0 :: reportWords) s t

theorem parReport_reports {off k : Nat} {s : State} (base : baseUp s = true)
    (fresh : tabGet false s.bus.parReported k = false) (unwritten : k ∉ s.bus.wroteNow) :
    ParReported off k s (parReport off (k, 255) s) := by
  rw [parReport_fresh fresh unwritten]
  have latched := report_latches (src := 0x00) 0 off 255 (by decide) (parCounted k s) base
  have reports := report_regs (src := 0x00) 0 off 255 (by decide) (parCounted k s)
  have captures := parCapture_regs off (report 0x00 0 off 255 (parCounted k s))
  have arm : flag (report 0x00 0 off 255 (parCounted k s)) F.SYS_CFGPAR_ARM = flag s F.SYS_CFGPAR_ARM :=
    (reports.flag (by decide)).trans (parCounted_arm k s)
  have own : parWords ⊆ regKey .SYS_CFGPAR 0 0 0 :: regKey .SYS_CFGPAR_ADDR 0 0 0 :: reportWords :=
    List.cons_subset_cons _ (List.cons_subset_cons _ (List.nil_subset _))
  have below : reportWords ⊆ regKey .SYS_CFGPAR 0 0 0 :: regKey .SYS_CFGPAR_ADDR 0 0 0 :: reportWords :=
    List.subset_cons_of_subset _ (List.subset_cons_self _ _)
  refine ⟨?_, ?_, fun armed => parCapture_armed (arm.trans armed), fun disarmed => ?_, ?_, ?_,
    (((parCounted_regs k s).weaken own).trans (reports.weaken below)).trans (captures.weaken own)⟩
  · rw [parCapture_count, reports.fld (by decide), parCounted_count]
  · unfold fclLatched at latched ⊢
    rw [captures.rword (by decide)]
    exact latched
  · rw [parCapture_disarmed (arm.trans disarmed), reports.fld (by decide), parCounted_address]
  · rw [parCapture_parReported, report_parReported, parCounted_reported]
  · rw [parCapture_parBad, report_parBad, parCounted_parBad]

/-! ### The command -/

theorem cfgpar_flips {frame : Fin 1024} {b : Blk} {fr i w : Nat} {u : Upset} {r : Reg} {s : State}
    (isOpen : OpenFrame s (frame.val * 0x4000) b fr) (early : s.now < parDue s frame.val)
    (located : locate b fr u.offset = some (r, i, w)) (once : (regInfo r).perReq = false) :
    Answers (.cfgpar frame [u]) s fun t =>
      rword t r fr i w = rword s r fr i w ^^^ (u.mask.toNat &&& rwMask r i w) ∧
      tabGet false t.bus.parBad (regKey r fr i 0) =
        (tabGet false s.bus.parBad (regKey r fr i 0) != oddBits (u.mask.toNat &&& rwMask r i w)) ∧
      RegsBut [regKey r fr i w] s t ∧ OnlyBus s t := by
  have fits : u.mask.toNat &&& rwMask r i w < 2 ^ 32 := Nat.and_lt_two_pow _ (rwMask_lt r i w)
  have flips := parUpset_once located once s
  generalize oddBits (u.mask.toNat &&& rwMask r i w) = odd at *
  have run := exec_cfgpar_open [u] isOpen
  rw [show forEach [u] (parUpset b fr) s = _ from flips] at run
  exact ⟨_, run.trans (if_pos early), rword_flipBits r fr i w fits odd s, parBad_flipBits r fr i w _ odd s,
    flipBits_regs r fr i w _ odd s, rfl⟩

section
variable {frame : Fin 1024} {b : Blk} {fr o i : Nat} {r : Reg} {s : State}

/-- A visit that is due, of a register held once. -/
theorem exec_cfgpar_due (isOpen : OpenFrame s (frame.val * 0x4000) b fr) (due : parDue s frame.val ≤ s.now)
    (next : parNext b fr (tabGet 0 s.bus.parPos frame.val) = some (o, r, i)) : exec (.cfgpar frame []) s =
      .next (parMoved frame.val (o + 4) (parDue s frame.val + 16)
        (forEach (parCopies s r fr i) (parReport (frame.val * 0x4000 + o)) s)) := by
  refine (exec_cfgpar_open [] isOpen).trans ((if_neg (Nat.not_lt.mpr due)).trans ?_)
  exact congrArg Host.Outcome.next (parVisit_next next)

theorem cfgpar_quiet (isOpen : OpenFrame s (frame.val * 0x4000) b fr) (due : parDue s frame.val ≤ s.now)
    (next : parNext b fr (tabGet 0 s.bus.parPos frame.val) = some (o, r, i)) (once : (regInfo r).perReq = false)
    (quiet : ParQuiet s (regKey r fr i 0)) : Answers (.cfgpar frame []) s fun t =>
      tabGet 0 t.bus.parPos frame.val = o + 4 ∧ tabGet 0 t.bus.parAt frame.val = parDue s frame.val + 16 ∧
      t = { s with bus := { s.bus with parPos := t.bus.parPos, parAt := t.bus.parAt } } := by
  have run := exec_cfgpar_due isOpen due next
  rw [parReports_quiet once quiet] at run
  exact ⟨_, run, parMoved_parPos .., parMoved_parAt .., rfl⟩

theorem cfgpar_reports (isOpen : OpenFrame s (frame.val * 0x4000) b fr) (due : parDue s frame.val ≤ s.now)
    (next : parNext b fr (tabGet 0 s.bus.parPos frame.val) = some (o, r, i)) (once : (regInfo r).perReq = false)
    (loud : ¬ParQuiet s (regKey r fr i 0)) : Answers (.cfgpar frame []) s fun t =>
      fld t F.SYS_CFGPAR_COUNT = min (fld s F.SYS_CFGPAR_COUNT + 1) 65535 ∧ fclLatched t 0 = true ∧
      (flag s F.SYS_CFGPAR_ARM = true → flag t F.SYS_CFGPAR_ARM = false ∧
        fld t F.SYS_CFGPAR_ADDR_OFFSET = (frame.val * 0x4000 + o) % 2 ^ 24) ∧
      (flag s F.SYS_CFGPAR_ARM = false → fld t F.SYS_CFGPAR_ADDR_OFFSET = fld s F.SYS_CFGPAR_ADDR_OFFSET) ∧
      tabGet false t.bus.parReported (regKey r fr i 0) = true ∧ tabGet false t.bus.parBad (regKey r fr i 0) = true ∧
      tabGet 0 t.bus.parPos frame.val = o + 4 ∧ tabGet 0 t.bus.parAt frame.val = parDue s frame.val + 16 ∧
      RegsBut (regKey .SYS_CFGPAR 0 0 0 :: regKey .SYS_CFGPAR_ADDR 0 0 0 :: reportWords) s t := by
  obtain ⟨bad, fresh, unwritten⟩ := not_or.mp loud |>.imp_right not_or.mp
  rw [Bool.not_eq_false] at bad
  rw [Bool.not_eq_true] at fresh
  have run := exec_cfgpar_due isOpen due next
  rw [parCopies_once once, if_pos bad] at run
  obtain ⟨count, latched, armed, disarmed, reported, parBad, regs⟩ :=
    parReport_reports (off := frame.val * 0x4000 + o) isOpen.1 fresh unwritten
  exact ⟨_, run, count, latched, armed, disarmed, reported, (congrArg (tabGet false · _) parBad).trans bad,
    parMoved_parPos .., parMoved_parAt .., regs⟩

end

/-- Settles O14: flipped bits turn the parity by their number, a quiet visit only moves the checker on, and any other
reports the mismatch first. -/
theorem parityCheckerVisitsAndReports : Obligations.ParityCheckerVisitsAndReports := by
  unfold Obligations.ParityCheckerVisitsAndReports
  intro frame b fr s isOpen
  refine ⟨fun u r i w early located once => ?_, fun o r i due next once => ?_⟩
  · exact cfgpar_flips isOpen early located once
  · exact ⟨cfgpar_quiet isOpen due next once, cfgpar_reports isOpen due next once⟩

end Sys2Proof.Machine

/-! States and commands that meet the hypotheses of O6 and O8 to O14. -/

namespace Sys2Proof.Machine

theorem reset_cycle_inv : Inv (tick State.reset) :=
  stepKeepsInvariant State.reset (tick State.reset) resetMeetsInvariant rfl

/-- The base domain operates, and nothing has been written. -/
def standbyState : State :=
  { State.reset with pwr := { State.reset.pwr with mode := .standby, resetHigh := true } }

theorem standby_sysOpen (off : Nat) (h : off / 0x4000 = 0) : OpenFrame standbyState off .sys 0 :=
  ⟨rfl, by rw [h]; rfl, rfl⟩

/-- A write of 0 to SYS_BERR_INFO stops the capture. -/
theorem standby_write_clears_arm : Answers (.registerWrite 128 0x28 4 0) standbyState fun t =>
    (rword t .SYS_BERR_INFO 0 0 0).testBit 31 = false := by
  obtain ⟨t, write, bits, -⟩ := registerWriteStoresThroughItsWindow 128 0x28 0 .sys 0 .SYS_BERR_INFO 0 standbyState
    (standby_sysOpen _ (by decide)) (by decide) (by decide) (by decide) rfl rfl nofun (by decide)
  exact ⟨t, write, bits 31 (by decide)⟩

/-- The lowest word of SYS_PLCMD is staged. -/
theorem standby_write_stages_plcmd : Answers (.registerWrite 128 0x100 4 0x1000) standbyState fun t =>
    RegsBut [] standbyState t ∧ OnlyBus standbyState t := by
  obtain ⟨t, write, -, -, regs, -, only⟩ := registerWriteStagesLowerWords 128 0x100 0x1000 .sys 0 .SYS_PLCMD 0 0 standbyState
    (standby_sysOpen _ (by decide)) (by decide) (by decide) (by decide) (by decide) rfl
  exact ⟨t, write, regs, only⟩

/-- No frame is allocated at offset 0x4000. -/
theorem standby_write_noframe : Answers (.registerWrite 128 0x4000 4 0) standbyState fun t =>
    fld t F.SYS_BERR_INFO_COUNT = 1 := by
  obtain ⟨t, write, ⟨count, -⟩, -⟩ := refusedWriteIsABusErrorOnly 128 0x4000 4 0 standbyState .noframe rfl
    (.inl ⟨by decide, rfl⟩)
  exact ⟨t, write, count⟩

theorem standby_keylock_grants : Answers (.keylockWrite 128 0 0x4C520000) standbyState fun t => keyLeft t 0 = 256 := by
  obtain ⟨t, write, left, -⟩ := (keylockGrantsRenewsOrRefuses 128 0 0x4C520000 .sys 0 standbyState
    (standby_sysOpen _ rfl)).1 ⟨by decide, by decide, .inl (by decide)⟩
  exact ⟨t, write, left⟩

/-- The highest word of SYS_PLCMD is refused without an unlock, and KEYREJ counts it. -/
theorem standby_write_guarded : Answers (.registerWrite 128 0x108 4 0x100) standbyState fun t =>
    (keyOf t 0).rejCount = 1 := by
  obtain ⟨t, write, -, -, -, count, -⟩ := guardedWriteNeedsTheWritersUnlock 128 0x108 0x100 .sys 0 .SYS_PLCMD 0 standbyState
    (standby_sysOpen _ (by decide)) (by decide) (by decide) (by decide) rfl (by decide)
  exact ⟨t, write, count⟩

/-- Requester 128 was granted frame 0's unlock, and its 256 cycles have passed. -/
def endedUnlock : State :=
  { standbyState with now := 300, bus := { Bus.reset with keys := [(0, ⟨128, 256, 0, 0, 0⟩)] } }

theorem endedUnlock_closes : Answers (.unlockExpire 0) endedUnlock fun t => keyOf t 0 = ⟨0, 0, 0, 0, 0⟩ := by
  obtain ⟨t, expire, closed, -⟩ := (unlockClosesWhenLeftReachesZero 0 endedUnlock).1 (by decide) (by decide) rfl
  exact ⟨t, expire, closed⟩

/-- SYS_BERR_INFO, the first register of its frame with parity, disagrees with it, and a visit is due. -/
def brokenParity : State :=
  { standbyState with now := 300, bus := { Bus.reset with parBad := [(0x28 / 4, true)] } }

theorem brokenParity_reports : Answers (.cfgpar 0 []) brokenParity fun t =>
    fld t F.SYS_CFGPAR_COUNT = 1 ∧ fclLatched t 0 = true := by
  obtain ⟨t, visit, count, latched, -⟩ := ((parityCheckerVisitsAndReports 0 .sys 0 brokenParity ⟨rfl, by decide, rfl⟩).2
    0x28 .SYS_BERR_INFO 0 (by decide) (by decide) rfl).2 (by decide)
  exact ⟨t, visit, count, latched⟩

end Sys2Proof.Machine

/-! What a Sync does to the servo: the step in ACQUIRE, the rate afterwards, the count of large offsets (spec/03 R98-R100). -/

namespace Sys2Proof.Machine

/-! ### Operations of the raster clock -/

theorem setServo_rck (st : Servo) (sel : Nat) (s : State) :
    (setServo st sel s).rck = { s.rck with servo := st, sel := sel, within10 := 0, beyond40 := 0 } := by
  unfold setServo
  dsimp only
  split
  · rw [raise_rck]
    rfl
  · rfl

theorem setServo_regs (st : Servo) (sel : Nat) (s : State) : RegsBut wakeWords s (setServo st sel s) := by
  unfold setServo
  dsimp only
  split
  · refine .trans ?_ (raise_regs 705 _)
    exact .of_eq rfl
  · exact .of_eq rfl

/-- The raster clock without its scheduler slots. -/
def rckBesideSlots (s : State) : Rck := { s.rck with slots := [] }

theorem missIfPassed_rckBesideSlots (i : Nat) (s : State) : rckBesideSlots (missIfPassed i s) = rckBesideSlots s := by
  unfold missIfPassed
  dsimp only
  split
  · unfold missSlot rckBesideSlots
    dsimp only
    rw [raise_rck, bump_rck]
    rfl
  · rfl

/-- The restart of the slots touches no other part of the clock. -/
theorem slotsRestart_rckBesideSlots (s : State) : rckBesideSlots (slotsRestart s) = rckBesideSlots s := by
  unfold slotsRestart
  dsimp only
  split
  · rw [forEach_same rckBesideSlots missIfPassed_rckBesideSlots]
    rfl
  · rfl

/-! ### The step of R98 -/

theorem servoStep_rckBesideSlots (ofs : Int) (s : State) : rckBesideSlots (servoStep ofs s) =
    let rt := ((s.rck.rt : Int) + ofs * nsUnit).toNat
    { s.rck with
      rt := rt, stepped := true, agree := [], oscRate := startRate s (rt / nsUnit / 1000000000), corr := 0
      corrAt := s.now, large := false, servo := .slew, within10 := 0, beyond40 := 0, slots := [] } := by
  unfold servoStep
  dsimp only
  rw [slotsRestart_rckBesideSlots, rckBesideSlots, setServo_rck]
  rfl

/-- Realised time moves by the offset, SLEW begins and the kept offsets are gone. -/
theorem servoStep_steps (ofs : Int) (s : State) :
    (servoStep ofs s).rck.rt = ((s.rck.rt : Int) + ofs * nsUnit).toNat ∧ (servoStep ofs s).rck.servo = .slew ∧
    (servoStep ofs s).rck.stepped = true ∧ (servoStep ofs s).rck.agree = [] := by
  have key := servoStep_rckBesideSlots ofs s
  exact ⟨congrArg Rck.rt key, congrArg Rck.servo key, congrArg Rck.stepped key, congrArg Rck.agree key⟩

/-- An offset is kept in ACQUIRE; of eight, the oldest goes. -/
def keepOffset (ofs : Int) (s : State) : State :=
  modRck (fun r => { r with agree := (r.agree ++ [ofs]).drop (r.agree.length + 1 - 8) }) s

/-- With room among the eight, no kept offset goes. -/
theorem keepOffset_agree {ofs : Int} {s : State} (room : s.rck.agree.length < 8) :
    (keepOffset ofs s).rck.agree = s.rck.agree ++ [ofs] := by
  show (s.rck.agree ++ [ofs]).drop (s.rck.agree.length + 1 - 8) = _
  rw [Nat.sub_eq_zero_of_le room, List.drop_zero]

theorem servoSync_acquire {ofs : Int} {s : State} (acquire : s.rck.servo = .acquire) : servoSync ofs s =
    if agree8 (keepOffset ofs s).rck.agree then servoStep ofs (keepOffset ofs s) else keepOffset ofs s := by
  unfold servoSync
  rw [acquire]
  rfl

/-! ### Steering by rate (R99, R100) -/

/-- An offset beyond 1 us (R100). -/
def beyondMicro (ofs : Int) : Bool := decide (ofs > 1000) || decide (ofs < -1000)

theorem beyondMicro_iff (ofs : Int) : beyondMicro ofs = true ↔ ofs > 1000 ∨ ofs < -1000 := by
  rw [beyondMicro, Bool.or_eq_true, decide_eq_true_iff, decide_eq_true_iff]

theorem countLarge_rck (ofs : Int) (s : State) : (countLarge ofs s).rck = { s.rck with large := beyondMicro ofs } := by
  unfold countLarge
  dsimp only
  split
  · rw [raise_rck, bump_rck]
    rfl
  · rfl

/-- The first offset beyond 1 us after one within it is counted. -/
theorem countLarge_count (ofs : Int) (s : State) : fld (countLarge ofs s) F.RCK_EVCNT_LARGE =
    if (ofs > 1000 ∨ ofs < -1000) ∧ s.rck.large = false then min (fld s F.RCK_EVCNT_LARGE + 1) 255
    else fld s F.RCK_EVCNT_LARGE := by
  have crosses : (beyondMicro ofs && !s.rck.large) = true ↔ (ofs > 1000 ∨ ofs < -1000) ∧ s.rck.large = false := by
    rw [Bool.and_eq_true, beyondMicro_iff, Bool.not_eq_true']
  unfold countLarge
  refine (apply_ite (fld · F.RCK_EVCNT_LARGE) _ _ _).trans (if_congr crosses ?_ rfl)
  rw [(raise_regs 706 _).fld (by decide)]
  exact fld_bump F.RCK_EVCNT_LARGE _ 0 0 1 (by decide)

/-- What a Sync of the steered servo leaves: realised time, and a state that steers by rate. -/
structure Steered (ofs : Int) (s t : State) : Prop where
  rt : t.rck.rt = s.rck.rt
  servo : t.rck.servo = .locked ∨ t.rck.servo = .slew
  large : t.rck.large = beyondMicro ofs
  count : fld t F.RCK_EVCNT_LARGE = fld (countLarge ofs s) F.RCK_EVCNT_LARGE

/-- The state follows the filtered offset: LOCKED and SLEW change into each other only. -/
theorem Steered.setServo {ofs : Int} {s t : State} (h : Steered ofs s t) {st : Servo} (steers : st = .locked ∨ st = .slew)
    (sel : Nat) : Steered ofs s (setServo st sel t) := by
  have rck := setServo_rck st sel t
  refine ⟨?_, ?_, ?_, ?_⟩
  · rw [rck]
    exact h.rt
  · rw [rck]
    exact steers
  · rw [rck]
    exact h.large
  · rw [(setServo_regs st sel t).fld (by decide)]
    exact h.count

/-- A servo that steers by rate keeps realised time, whatever the free values of the filter and of the correction. -/
theorem servoTrack_steered {s : State} (ofs : Int) (steers : s.rck.servo = .locked ∨ s.rck.servo = .slew) :
    Steered ofs s (servoTrack ofs s) := by
  have counted := countLarge_rck ofs s
  unfold servoTrack
  extract_lets u f corr in10 out40 v
  have hv : Steered ofs s v := by
    refine ⟨?_, ?_, ?_, rfl⟩
    · show u.rck.rt = _
      rw [counted]
    · show u.rck.servo = _ ∨ u.rck.servo = _
      rw [counted]
      exact steers
    · show u.rck.large = _
      rw [counted]
  split
  · split
    · exact hv.setServo (.inl rfl) _
    · exact hv
  · split
    · exact hv.setServo (.inr rfl) _
    · exact hv
  · exact hv

theorem servoSync_steers {s : State} (ofs : Int) (steers : s.rck.servo = .locked ∨ s.rck.servo = .slew) :
    servoSync ofs s = servoTrack ofs s := by
  unfold servoSync
  rcases steers with e | e <;> rw [e]

/-! ### The command -/

/-- A domain keeps a Sync's offset, and its sender's and receiver's times (R89). -/
def syncKept (m : PtpMsg) (ofs : Int) (s : State) (p : Ptp) : Ptp :=
  { p with ofs := ofs, lastSync := some (m.time, rtNs s) }

/-- A Sync is taken by its domain: counted and kept (R89). -/
def syncTaken (dom : Fin 2) (m : PtpMsg) (s : State) : State :=
  modPtp dom.val (syncKept m (m.time + (ptpOf s dom.val).mpd - rtNs s) s) (bumpWrap F.PTP_CNT_SYNC s dom.val)

@[simp] theorem syncTaken_rck (dom : Fin 2) (m : PtpMsg) (s : State) : (syncTaken dom m s).rck = s.rck := rfl

theorem ptpOf_syncTaken (dom : Fin 2) (m : PtpMsg) (s : State) : ptpOf (syncTaken dom m s) dom.val =
    syncKept m (m.time + (ptpOf s dom.val).mpd - rtNs s) s (ptpOf s dom.val) :=
  tabGet_tabMod_same ..

theorem syncTaken_avail (dom : Fin 2) (m : PtpMsg) (s : State) :
    (ptpOf (syncTaken dom m s) dom.val).avail = (ptpOf s dom.val).avail := by
  rw [ptpOf_syncTaken]
  rfl

theorem syncTaken_large (dom : Fin 2) (m : PtpMsg) (s : State) :
    fld (syncTaken dom m s) F.RCK_EVCNT_LARGE = fld s F.RCK_EVCNT_LARGE := by
  have apart : ∀ d : Fin 2, regKey .RCK_EVCNT 0 0 0 ≠ regKey .PTP_CNT d.val 0 0 := by decide
  show fld (bumpWrap F.PTP_CNT_SYNC s dom.val) F.RCK_EVCNT_LARGE = _
  exact fld_setFld_ne (apart dom)

theorem qualify_available {d : Nat} {s : State} (avail : (ptpOf s d).avail = true) : qualify d s = s := if_pos avail

theorem exec_ptpSyncReceive_valid {dom : Fin 2} {m : PtpMsg} {s : State} (valid : ptpValid s dom.val m = true) :
    exec (.ptpSyncReceive dom m) s =
      let t := qualify dom.val (syncTaken dom m s)
      .next (if decide (t.rck.sel = dom.val) && (ptpOf t dom.val).avail then
        servoSync (m.time + (ptpOf s dom.val).mpd - rtNs s) t else t) :=
  if_pos valid

/-- A valid Sync of the domain that the servo uses reaches the servo. -/
theorem exec_ptpSyncReceive_selected {dom : Fin 2} {m : PtpMsg} {s : State} (valid : ptpValid s dom.val m = true)
    (sel : s.rck.sel = dom.val) (avail : (ptpOf s dom.val).avail = true) : exec (.ptpSyncReceive dom m) s =
      .next (servoSync (m.time + (ptpOf s dom.val).mpd - rtNs s) (syncTaken dom m s)) := by
  have stays := (syncTaken_avail dom m s).trans avail
  rw [exec_ptpSyncReceive_valid valid, qualify_available stays]
  dsimp only
  rw [stays, syncTaken_rck, if_pos (by rw [sel]; simp)]

/-- Settles O17: in ACQUIRE the servo steps exactly when the eighth offset agrees with the seven kept, and once it steers
by rate a Sync only counts and corrects. -/
theorem servoStepsOnceAndThenSteersByRate : Obligations.ServoStepsOnceAndThenSteersByRate := by
  unfold Obligations.ServoStepsOnceAndThenSteersByRate
  intro dom m s valid sel avail ofs
  have run : exec (.ptpSyncReceive dom m) s = .next (servoSync ofs (syncTaken dom m s)) :=
    exec_ptpSyncReceive_selected valid sel avail
  refine ⟨fun acquire seven => ?_, fun steers => ?_⟩
  · have kept : (keepOffset ofs (syncTaken dom m s)).rck.agree = s.rck.agree ++ [ofs] :=
      keepOffset_agree (s := syncTaken dom m s) (lt_of_eq_of_lt seven (by decide))
    rw [servoSync_acquire (s := syncTaken dom m s) acquire, kept] at run
    refine ⟨fun agree => ?_, fun disagree => ?_⟩
    · rw [if_pos agree] at run
      exact ⟨_, run, servoStep_steps ofs _⟩
    · rw [if_neg (by rw [disagree]; decide)] at run
      exact ⟨_, run, rfl, acquire, kept⟩
  · rw [servoSync_steers (s := syncTaken dom m s) ofs steers] at run
    have steered := servoTrack_steered (s := syncTaken dom m s) ofs steers
    refine ⟨_, run, steered.rt, steered.servo, steered.large, ?_⟩
    rw [steered.count, countLarge_count, syncTaken_large]
    rfl

end Sys2Proof.Machine

/-! States and Syncs that meet the hypotheses of O17. -/

namespace Sys2Proof.Machine

/-- Standby, the clock powered, domain 0 available and received on port 0. -/
def ptpBase : State :=
  { standbyState with
    pwr := { standbyState.pwr with up := BitVec.ofNat 214 (2 ^ 212) }
    ptp := [(0, { Ptp.reset with avail := true, announced := true })]
    eth := [(0, { EthPort.reset with link := true })]
    bus := { Bus.reset with regs := [(regKey .PTP_CFG 0 0 0, 0x80000000), (regKey .ETH_CFG 0 0 0, 0x85f20000)] } }

/-- The clock uses domain 0 and realises time 5 us. -/
def ptpState (servo : Servo) (agree : List Int) (large : Bool) : State :=
  { ptpBase with rck := { Rck.reset with servo := servo, rt := 5000 * nsUnit, agree := agree, large := large } }

/-- A Sync whose offset from 5 us is `ofs`. -/
def syncAt (ofs : Int) : PtpMsg := ⟨0, 0, false, 0, 5000 + ofs⟩

theorem ptpState_receives (servo : Servo) (agree : List Int) (large : Bool) (ofs : Int) :
    ptpValid (ptpState servo agree large) 0 (syncAt ofs) = true := by
  show ptpValid ptpBase 0 (syncAt 0) = true
  decide

/-- Offsets that agree by exactly 1 us step realised time. -/
theorem ptpState_steps : Answers (.ptpSyncReceive 0 (syncAt 1000)) (ptpState .acquire (List.replicate 7 0) false) fun t =>
    t.rck.rt = 6000 * nsUnit ∧ t.rck.servo = .slew := by
  obtain ⟨t, run, rt, slew, -⟩ := ((servoStepsOnceAndThenSteersByRate 0 (syncAt 1000)
    (ptpState .acquire (List.replicate 7 0) false) (ptpState_receives ..) rfl rfl).1 rfl rfl).1 (by decide)
  exact ⟨t, run, rt, slew⟩

/-- Offsets 1 ns further apart do not, and the servo stays in ACQUIRE. -/
theorem ptpState_waits : Answers (.ptpSyncReceive 0 (syncAt 1001)) (ptpState .acquire (List.replicate 7 0) false) fun t =>
    t.rck.rt = 5000 * nsUnit ∧ t.rck.servo = .acquire := by
  obtain ⟨t, run, rt, acquire, -⟩ := ((servoStepsOnceAndThenSteersByRate 0 (syncAt 1001)
    (ptpState .acquire (List.replicate 7 0) false) (ptpState_receives ..) rfl rfl).1 rfl rfl).2 (by decide)
  exact ⟨t, run, rt, acquire⟩

/-- A first offset beyond 1 us is counted in LOCKED, and realised time stays. -/
theorem ptpState_counts_large : Answers (.ptpSyncReceive 0 (syncAt 1001)) (ptpState .locked [] false) fun t =>
    t.rck.rt = 5000 * nsUnit ∧ fld t F.RCK_EVCNT_LARGE = 1 := by
  obtain ⟨t, run, rt, -, -, count⟩ := (servoStepsOnceAndThenSteersByRate 0 (syncAt 1001) _
    (ptpState_receives ..) rfl rfl).2 (.inl rfl)
  exact ⟨t, run, rt, count.trans (by decide)⟩

/-- An offset that follows another beyond 1 us is not counted. -/
theorem ptpState_counts_large_once : Answers (.ptpSyncReceive 0 (syncAt (-1001))) (ptpState .locked [] true) fun t =>
    fld t F.RCK_EVCNT_LARGE = 0 := by
  obtain ⟨t, run, -, -, -, count⟩ := (servoStepsOnceAndThenSteersByRate 0 (syncAt (-1001)) _
    (ptpState_receives ..) rfl rfl).2 (.inl rfl)
  exact ⟨t, run, count.trans (by decide)⟩

end Sys2Proof.Machine

/-! What one needle's work changes: its own state, and of the registers the words of an interrupt's wakes (spec/05). -/

namespace Sys2Proof.Machine

/-! ### A needle's own state -/

@[simp] theorem ndlOf_modNdl_same (n : Nat) (f : Ndl → Ndl) (s : State) : ndlOf (modNdl n f s) n = f (ndlOf s n) :=
  tabGet_tabMod_same ..

theorem ndlOf_modNdl_ne {n m : Nat} (f : Ndl → Ndl) (s : State) (h : m ≠ n) : ndlOf (modNdl n f s) m = ndlOf s m :=
  tabGet_tabMod_ne _ _ h

theorem ndlOf_congr {s t : State} (h : t.ndl = s.ndl) (m : Nat) : ndlOf t m = ndlOf s m := by rw [ndlOf, h, ndlOf]

theorem applyWrite_registers (x : Ndl) (w : NdlWrite) : applyWrite x w =
    { x with v := (applyWrite x w).v, a := (applyWrite x w).a, p := (applyWrite x w).p, lc := (applyWrite x w).lc,
             d := (applyWrite x w).d } := by
  obtain ⟨at_, dst, val⟩ := w
  cases dst with
  | p r m =>
    unfold applyWrite
    dsimp only
    split
    · rfl
    · rfl
  | _ => rfl

/-- Results that become visible change registers, and leave flight (R239, R240). -/
theorem retire_registers (c : Nat) (l : List NdlWrite) (x : Ndl) : retire c l x =
    { x with v := (retire c l x).v, a := (retire c l x).a, p := (retire c l x).p, lc := (retire c l x).lc
             d := (retire c l x).d, writes := (retire c l x).writes } := by
  induction l generalizing x with
  | nil => rfl
  | cons w l ih =>
    unfold retire
    split
    · exact (ih (applyWrite x w)).trans (by rw [applyWrite_registers x w])
    · rfl

theorem settleNdl_registers (x : Ndl) : settleNdl x =
    { x with v := (settleNdl x).v, a := (settleNdl x).a, p := (settleNdl x).p, lc := (settleNdl x).lc
             d := (settleNdl x).d, writes := (settleNdl x).writes } := retire_registers _ _ x

@[simp] theorem settleNdl_st (x : Ndl) : (settleNdl x).st = x.st := by rw [settleNdl_registers]
@[simp] theorem settleNdl_pc (x : Ndl) : (settleNdl x).pc = x.pc := by rw [settleNdl_registers]
@[simp] theorem settleNdl_exc (x : Ndl) : (settleNdl x).exc = x.exc := by rw [settleNdl_registers]
@[simp] theorem settleNdl_nano (x : Ndl) : (settleNdl x).nano = x.nano := by rw [settleNdl_registers]
@[simp] theorem settleNdl_cyc (x : Ndl) : (settleNdl x).cyc = x.cyc := by rw [settleNdl_registers]
@[simp] theorem settleNdl_bound (x : Ndl) : (settleNdl x).bound = x.bound := by rw [settleNdl_registers]
@[simp] theorem settleNdl_slot (x : Ndl) : (settleNdl x).slot = x.slot := by rw [settleNdl_registers]
@[simp] theorem settleNdl_ipend (x : Ndl) : (settleNdl x).ipend = x.ipend := by rw [settleNdl_registers]
@[simp] theorem settleNdl_abort (x : Ndl) : (settleNdl x).abort = x.abort := by rw [settleNdl_registers]
@[simp] theorem settleNdl_fault (x : Ndl) : (settleNdl x).fault = x.fault := by rw [settleNdl_registers]
@[simp] theorem settleNdl_haltAsked (x : Ndl) : (settleNdl x).haltAsked = x.haltAsked := by rw [settleNdl_registers]

/-! ### One needle's work -/

/-- From `s` to `t` needle `n` becomes `y`. No other needle, bank or pattern slot changes, of the register words only those
of an interrupt's wakes, and of PWR what these ask of it. -/
structure Becomes (n : Nat) (y : Ndl) (s t : State) : Prop where
  self : ndlOf t n = y
  others : ∀ m, m ≠ n → ndlOf t m = ndlOf s m
  regs : RegsBut wakeWords s t
  power : PwrKept s t
  bank : t.bank = s.bank
  pat : t.pat = s.pat

section
variable {n : Nat} {y : Ndl} {s t : State}

theorem Becomes.refl (n : Nat) (s : State) : Becomes n (ndlOf s n) s s :=
  ⟨rfl, fun _ _ => rfl, .refl _ _, .refl _, rfl, rfl⟩

/-- What happens beside the needles and what these read of State. -/
theorem Becomes.beside (h : Becomes n y s t) {u : State} (ndl : u.ndl = t.ndl) (regs : RegsBut wakeWords t u)
    (power : PwrKept t u) (bank : u.bank = t.bank) (pat : u.pat = t.pat) : Becomes n y s u where
  self := (ndlOf_congr ndl n).trans h.self
  others m hm := (ndlOf_congr ndl m).trans (h.others m hm)
  regs := h.regs.trans regs
  power := h.power.trans power
  bank := bank.trans h.bank
  pat := pat.trans h.pat

theorem Becomes.modNdl (h : Becomes n y s t) (f : Ndl → Ndl) : Becomes n (f y) s (modNdl n f t) where
  self := by rw [ndlOf_modNdl_same, h.self]
  others m hm := (ndlOf_modNdl_ne f t hm).trans (h.others m hm)
  regs := h.regs.same rfl
  power := h.power.trans (.of_eq rfl)
  bank := h.bank
  pat := h.pat

theorem Becomes.raise (h : Becomes n y s t) (src : Nat) : Becomes n y s (raise src t) :=
  h.beside (raise_ndl ..) (raise_regs _ _) (raise_pwr' _ _) (raise_bank ..) (raise_pat ..)

theorem Becomes.setSt (h : Becomes n y s t) (st : NdlSt) : Becomes n { y with st := st } s (setNdlSt n st t) := by
  unfold setNdlSt
  split
  · next same =>
    rw [h.self] at same
    rw [← same]
    exact h
  · exact (h.modNdl fun x => { x with st := st }).raise _

/-- `k` NCLK of execution. -/
theorem Becomes.tick (h : Becomes n y s t) (k : Nat) :
    Becomes n { y with cyc := y.cyc + k, busyCyc := y.busyCyc + k } s (ndlTick n k t) :=
  (h.modNdl fun x => { x with cyc := x.cyc + k, busyCyc := x.busyCyc + k }).beside
    (tallyAdd_ndl ..) (tallyAdd_regs _ _ _ _) (.of_eq (tallyAdd_pwr ..)) (tallyAdd_bank ..) (tallyAdd_pat ..)

theorem Becomes.setPc (h : Becomes n y s t) (pc : Nat) : Becomes n { y with
    pc := pc % 2 ^ 17, st := if pc % 4 = 3 then .horiz else .run, fbuf := fetchBuf y.fbuf (pc / 4) } s
    (let u := Machine.modNdl n (fun x => { x with pc := pc % 2 ^ 17, fbuf := fetchBuf x.fbuf (pc / 4) }) t
     setNdlSt n (runState (ndlOf u n)) u) := by
  have moved := h.modNdl fun x => { x with pc := pc % 2 ^ 17, fbuf := fetchBuf x.fbuf (pc / 4) }
  have state : runState { y with pc := pc % 2 ^ 17, fbuf := fetchBuf y.fbuf (pc / 4) } =
      if pc % 4 = 3 then .horiz else .run := by
    simp [runState, horizPc]
  rw [← state, ← moved.self]
  exact moved.setSt _

/-- The needle goes on at a micro PC, after the `k` NCLK that the transfer costs (R214, R247). -/
theorem Becomes.goPc (h : Becomes n y s t) (pc : Nat) : ∃ k, Becomes n { y with
    pc := pc % 2 ^ 17, st := if pc % 4 = 3 then .horiz else .run, cyc := y.cyc + k, busyCyc := y.busyCyc + k
    fbuf := fetchBuf y.fbuf (pc / 4) } s (goPc n pc t) := by
  unfold Machine.goPc
  dsimp only
  generalize (_ || _ || _ : Bool) = near
  cases near with
  | true => exact ⟨0, h.setPc pc⟩
  | false => exact ⟨3, (h.tick 3).setPc pc⟩

end

end Sys2Proof.Machine

/-! Fetching a micro-word, the sampling points, and the vectors that a needle enters there (spec/05 R206, R213-R228). -/

namespace Sys2Proof.Machine

/-! ### Registers of a needle's frame -/

theorem reportWords_high : ∀ k ∈ reportWords, 384 * 0x1000 ≤ k := by decide

/-- No report and no wake writes a register of a needle's frame. -/
theorem ndlWord_not_reported {r : Reg} {n : Nat} (hr : (regInfo r).blk = .ndl) (ho : (regInfo r).off < 0x4000) (hn : n < 128) :
    regKey r n 0 0 ∉ reportWords := by
  intro h
  have high := reportWords_high _ h
  simp only [regKey, hr, blkFrame] at high
  omega

theorem ndlWord_not_woken {r : Reg} {n : Nat} (hr : (regInfo r).blk = .ndl) (ho : (regInfo r).off < 0x4000) (hn : n < 128) :
    regKey r n 0 0 ∉ wakeWords := fun h => ndlWord_not_reported hr ho hn (wakeWords_sub h)

theorem firstIrq_kept {n : Nat} {s t : State} (h : RegsBut wakeWords s t) (hn : n < 128) (p : Nat) :
    firstIrq t n p = firstIrq s n p := by
  unfold firstIrq
  rw [h.fld (f := F.NDL_CTL_IMASK) (ndlWord_not_woken rfl (by decide) hn)]

/-! ### Fetching a micro-word -/

/-- A word without upset bits reads as it stands (R192). -/
theorem lsRead_clean {s : State} {n a : Nat} {v : Native} (h : LsIs s n a v) : lsRead n a s = (some v, s) := by
  obtain ⟨clean, rfl⟩ := h
  unfold lsRead
  rw [clean]
  rfl

/-- The needle as a micro-word that it executes finds it: in RUN, bound to a bank if there is one (R206, R240). -/
def fetched (s : State) (n : Nat) : Ndl :=
  let y := settleNdl (ndlOf s n)
  { y with st := .run, bound := y.bound.or (bankFor s n) }

theorem fetched_bound {s : State} {n : Nat} {b : Bool} (bound : (settleNdl (ndlOf s n)).bound = some b) :
    (fetched s n).bound = some b := by
  show (settleNdl (ndlOf s n)).bound.or _ = _
  rw [bound, Option.some_or]

/-- The state in which a micro-word acts. -/
def microStart (n : Nat) (s : State) : State := bindBank n (setNdlSt n .run (ndlSettle n s))

theorem bankFor_congr {n : Nat} {s t : State} (slot : (ndlOf t n).slot = (ndlOf s n).slot) (bank : t.bank = s.bank)
    (pat : t.pat = s.pat) : bankFor t n = bankFor s n := by
  have banks : bankOf t (n / 8) = bankOf s (n / 8) := funext fun b => by rw [bankOf, bank, bankOf]
  have librev : ndlLibrev t n = ndlLibrev s n := by simp only [ndlLibrev, ndlSlot, pf, patOf, slot, pat]
  unfold bankFor
  rw [banks, librev]

theorem microStart_becomes (n : Nat) (s : State) : Becomes n (fetched s n) s (microStart n s) := by
  have running : Becomes n _ s (setNdlSt n .run (ndlSettle n s)) := ((Becomes.refl n s).modNdl settleNdl).setSt .run
  unfold microStart bindBank fetched
  rw [running.self]
  dsimp only
  split
  · next unbound =>
    have bank : bankFor (setNdlSt n .run (ndlSettle n s)) n = bankFor s n :=
      bankFor_congr (by rw [running.self]; exact settleNdl_slot _) running.bank running.pat
    rw [Option.isNone_iff_eq_none.mp unbound, Option.none_or, ← bank]
    exact running.modNdl fun x => { x with bound := bankFor (setNdlSt n .run (ndlSettle n s)) n }
  · next bound =>
    obtain ⟨b, hb⟩ := Option.ne_none_iff_exists'.mp (mt Option.isNone_iff_eq_none.mpr bound)
    rw [hb, Option.some_or, ← hb]
    exact running

/-- A micro-word that reads without an error, and that the command is for, acts (R192, R246). -/
theorem microFetch_acts {s : State} {n w : Nat} (h : MicroAt s n w) {want : Ndl → Nat → Bool}
    (wanted : want (settleNdl (ndlOf s n)) w = true) (act : Nat → State → State) :
    microFetch n want act s = act w (microStart n s) := by
  obtain ⟨ready, v, word, rfl⟩ := h
  unfold microFetch
  dsimp only
  rw [if_neg (by simp [ready]), show ndlOf (ndlSettle n s) n = settleNdl (ndlOf s n) from ndlOf_modNdl_same ..,
    settleNdl_pc, lsRead_clean (show LsIs (ndlSettle n s) n _ v from word)]
  dsimp only
  rw [if_pos wanted]
  rfl

/-! ### What a micro-word boundary takes (R215, R218, R228) -/

section
variable {n next : Nat} {x0 : Ndl} {s : State}

theorem boundary_fault {f : NdlFault} (fault : x0.fault = some f) : boundary n x0 next s = takeFault n f false next s := by
  simp only [boundary, fault]

theorem boundary_abort {c : Nat} (fault : x0.fault = none) (exc : (ndlOf s n).exc = false) (abort : x0.abort = some c) :
    boundary n x0 next s = takeAbort n c next s := by
  simp [boundary, fault, exc, abort]

theorem boundary_interrupt {i : Nat} (fault : x0.fault = none) (exc : (ndlOf s n).exc = false) (abort : x0.abort = none)
    (irq : firstIrq s n (x0.ipend &&& (ndlOf s n).ipend) = some i) :
    boundary n x0 next s = enterVector n (8 + i) 1 i next (clearInputs n (2 ^ i) s) := by
  simp [boundary, fault, exc, abort, irq]

/-- With nothing to take, a HALT that was asked, else the next micro-word. -/
theorem boundary_rest (fault : x0.fault = none)
    (rest : (ndlOf s n).exc = true ∨ x0.abort = none ∧ firstIrq s n (x0.ipend &&& (ndlOf s n).ipend) = none) :
    boundary n x0 next s = if (ndlOf s n).haltAsked then enterHalt n next s else goPc n next s := by
  unfold boundary
  dsimp only
  rcases rest with exc | ⟨abort, irq⟩
  · rw [fault, exc]
    rfl
  · rw [fault, abort, irq, ite_self]

end

section
variable {n : Nat} {x0 y z : Ndl} {s t : State}

/-- With no event pending in the cycle, and none at its start. -/
theorem Becomes.boundary_quiet (h : Becomes n z s t) (hn : n < 128) (quiet : Quiet s n) (fault : x0.fault = (ndlOf s n).fault)
    (abort : x0.abort = (ndlOf s n).abort) (pending : x0.ipend = (ndlOf s n).ipend) (kept : z.ipend = (ndlOf s n).ipend)
    (next : Nat) : boundary n x0 next t = if z.haltAsked then enterHalt n next t else Machine.goPc n next t := by
  obtain ⟨noFault, noAbort, -, noIrq⟩ := quiet
  rw [boundary_rest (fault.trans noFault), h.self]
  refine .inr ⟨abort.trans noAbort, ?_⟩
  rw [h.self, pending, kept, Nat.and_self, firstIrq_kept h.regs hn, noIrq]

/-- The needle stands as `y` beside what a transfer to the next micro-word changes, and goes there. -/
theorem Becomes.went (h : Becomes n z s t)
    (same : z = { y with st := z.st, cyc := z.cyc, busyCyc := z.busyCyc, fbuf := z.fbuf, bound := z.bound })
    (later : y.cyc < z.cyc) (bound : y.bound.isSome = true → z.bound = y.bound) (pc : Nat) :
    Went s (Machine.goPc n pc t) n y pc := by
  obtain ⟨k, gone⟩ := h.goPc pc
  unfold Went
  rw [gone.self]
  refine ⟨?_, Nat.lt_add_right k later, bound, gone.others⟩
  dsimp only
  rw [same]

/-- With nothing pending the needle goes on from a boundary. -/
theorem Becomes.boundary_went (h : Becomes n z s t) (hn : n < 128) (quiet : Quiet s n) (fault : x0.fault = (ndlOf s n).fault)
    (abort : x0.abort = (ndlOf s n).abort) (pending : x0.ipend = (ndlOf s n).ipend) (kept : z.ipend = (ndlOf s n).ipend)
    (halt : z.haltAsked = false)
    (same : z = { y with st := z.st, cyc := z.cyc, busyCyc := z.busyCyc, fbuf := z.fbuf, bound := z.bound })
    (later : y.cyc < z.cyc) (bound : y.bound.isSome = true → z.bound = y.bound) (next : Nat) :
    Went s (boundary n x0 next t) n y next := by
  rw [h.boundary_quiet hn quiet fault abort pending kept, if_neg (by rw [halt]; exact nofun)]
  exact h.went same later bound next

theorem Becomes.halts (h : Becomes n z s t) (pc : Nat) : Becomes n { z with
    haltAsked := false, nano := none, pc := pc % 2 ^ 17, st := .halt } s (enterHalt n pc t) :=
  (h.modNdl fun x => { x with haltAsked := false, nano := none, pc := pc % 2 ^ 17 }).setSt .halt

/-- What an abort discards in the units (R199). -/
theorem Becomes.abortUnits (h : Becomes n z s t) : Becomes n { z with
    txu := { z.txu with input := [], output := [] }, enu := { z.enu with ctx := [], lost := some t.free } } s (abortUnits n t) :=
  (h.modNdl fun x => { x with
    txu := { x.txu with input := [], output := [] }, enu := { x.enu with ctx := [], lost := some t.free } }).beside
    rfl (.of_eq rfl) (.of_eq rfl) rfl rfl

/-- Pending inputs that the needle takes; the read of its mailboxes is beside the needle (R692). -/
theorem Becomes.clearInputs (h : Becomes n z s t) (mask : Nat) :
    Becomes n { z with ipend := z.ipend - (z.ipend &&& mask) } s (clearInputs n mask t) := by
  have cleared := h.modNdl fun x => { x with ipend := x.ipend - (x.ipend &&& mask) }
  unfold Machine.clearInputs
  dsimp only
  split
  · have read := mbxTaken_upto (n := n) (Upto.refl 0x4100000
      (Machine.modNdl n (fun x => { x with ipend := x.ipend - (x.ipend &&& mask) }) t))
      (Sub.refl _)
    exact cleared.beside (read.ndl rfl) (.of_eq (read.regs rfl)) (.of_eq (read.pwr rfl)) (read.bank rfl) (read.pat rfl)
  · exact cleared

end

/-! ### Entering a vector (R221, R254, R255) -/

theorem setXstat_regs (n kind cause pc : Nat) (s : State) :
    RegsBut [regKey .NDL_XSTAT n 0 0] s (setXstat n kind cause pc s) :=
  have named {f : FieldRef} (hr : f.reg = .NDL_XSTAT) (hw : f.word = 0) :
      regKey f.reg n 0 f.word ∈ [regKey .NDL_XSTAT n 0 0] := by rw [hr, hw]; exact List.mem_cons_self
  (((RegsBut.refl _ s).setFld (named rfl rfl)).setFld (named rfl rfl)).setFld (named rfl rfl)

/-- NDL_XSTAT tells an event. -/
def XstatIs (n kind cause pc : Nat) (t : State) : Prop :=
  fld t F.NDL_XSTAT_KIND n = kind ∧ fld t F.NDL_XSTAT_CAUSE n = cause ∧ fld t F.NDL_XSTAT_PC n = pc

theorem setXstat_tells (n kind cause pc : Nat) (s : State) :
    XstatIs n (kind % 16) (cause % 16) (pc % 2 ^ 17) (setXstat n kind cause pc s) := by
  refine ⟨fld_setFld _ _ _ _ _ (by decide), ?_, ?_⟩
  · unfold setXstat
    rw [fld_setFld_beside (f := F.NDL_XSTAT_KIND) (g := F.NDL_XSTAT_CAUSE) rfl rfl (by decide) (by decide),
      fld_setFld F.NDL_XSTAT_CAUSE _ _ _ _ (by decide)]
    rfl
  · unfold setXstat
    rw [fld_setFld_beside (f := F.NDL_XSTAT_KIND) (g := F.NDL_XSTAT_PC) rfl rfl (by decide) (by decide),
      fld_setFld_beside (f := F.NDL_XSTAT_CAUSE) (g := F.NDL_XSTAT_PC) rfl rfl (by decide) (by decide),
      fld_setFld F.NDL_XSTAT_PC _ _ _ _ (by decide)]
    rfl

theorem XstatIs.kept {n kind cause pc : Nat} {s t : State} {ks : List Nat} (h : XstatIs n kind cause pc s) (regs : RegsBut ks s t)
    (beside : regKey .NDL_XSTAT n 0 0 ∉ ks) : XstatIs n kind cause pc t := by
  unfold XstatIs
  rw [regs.fld (f := F.NDL_XSTAT_KIND) beside, regs.fld (f := F.NDL_XSTAT_CAUSE) beside, regs.fld (f := F.NDL_XSTAT_PC) beside]
  exact h

@[simp] theorem setXstat_ndl (n kind cause pc : Nat) (s : State) : (setXstat n kind cause pc s).ndl = s.ndl := by
  unfold setXstat
  rw [setFld_ndl _ _ _ n, setFld_ndl _ _ _ n, setFld_ndl _ _ _ n]

/-- The needle at the first micro-word of a vector, entered at the boundary before `pc`. -/
def atVector (vec pc : Nat) (x : Ndl) : Ndl := { x with
  exc := true, epc := pc % 2 ^ 17, nano := none, pc := vec * 4, cyc := x.cyc + 3, fbuf := fetchBuf x.fbuf vec, st := .run }

theorem enterVector_becomes (n vec kind cause pc : Nat) (s : State) :
    Becomes n (atVector vec pc (ndlOf s n)) (setXstat n kind cause pc s) (enterVector n vec kind cause pc s) := by
  have h := Becomes.refl n (setXstat n kind cause pc s)
  rw [ndlOf_congr (setXstat_ndl ..)] at h
  exact (h.modNdl fun x => { x with
    exc := true, epc := pc % 2 ^ 17, nano := none, pc := vec * 4, cyc := x.cyc + 3, fbuf := fetchBuf x.fbuf vec }).setSt .run

@[simp] theorem enterVector_self (n vec kind cause pc : Nat) (s : State) :
    ndlOf (enterVector n vec kind cause pc s) n = atVector vec pc (ndlOf s n) := (enterVector_becomes ..).self

theorem enterVector_regs (n vec kind cause pc : Nat) (s : State) :
    RegsBut (regKey .NDL_XSTAT n 0 0 :: wakeWords) s (enterVector n vec kind cause pc s) :=
  ((setXstat_regs _ _ _ _ _).weaken (by simp)).trans ((enterVector_becomes ..).regs.weaken (List.subset_cons_self _ _))

theorem enterVector_xstat {n : Nat} (hn : n < 128) (vec kind cause pc : Nat) (s : State) :
    XstatIs n (kind % 16) (cause % 16) (pc % 2 ^ 17) (enterVector n vec kind cause pc s) :=
  (setXstat_tells ..).kept (enterVector_becomes ..).regs (ndlWord_not_woken rfl (by decide) hn)

/-! ### Recording a fault (R224, R288) -/

/-- The words in which a needle's fault is recorded. -/
def faultWords (n : Nat) : List Nat := [regKey .NDL_FSTAT n 0 0, regKey .NDL_FADDR_LO n 0 0, regKey .NDL_FADDR_HI n 0 0]

theorem faultWords_not_reported {n k : Nat} (hn : n < 128) (hk : k ∈ faultWords n) : k ∉ reportWords := by
  simp only [faultWords, List.mem_cons, List.not_mem_nil, or_false] at hk
  rcases hk with rfl | rfl | rfl <;> exact ndlWord_not_reported rfl (by decide) hn

theorem xstat_notMem_faultWords (n : Nat) : regKey .NDL_XSTAT n 0 0 ∉ faultWords n := by
  simp [faultWords, regKey, regInfo]

theorem setFstat_regs (n : Nat) (f : NdlFault) (atSafe : Bool) (s : State) :
    RegsBut (faultWords n) s (setFstat n f atSafe s) :=
  (((RegsBut.refl _ s).setRword (by simp [faultWords])).setRword (by simp [faultWords])).setRword (by simp [faultWords])

@[simp] theorem setFstat_ndl (n : Nat) (f : NdlFault) (atSafe : Bool) (s : State) : (setFstat n f atSafe s).ndl = s.ndl := by
  unfold setFstat
  rw [setRword_ndl, setRword_ndl, setRword_ndl]

/-- NDL_FSTAT and NDL_FADDR tell a fault. -/
def FaultTold (n : Nat) (f : NdlFault) (atSafe : Bool) (t : State) : Prop :=
  fld t F.NDL_FSTAT_CODE n = f.code % 256 ∧ fld t F.NDL_FSTAT_NIDX n = f.nidx % 1024 ∧
  flag t F.NDL_FSTAT_ATSAFE n = atSafe ∧ fld t F.NDL_FSTAT_BERR n = f.berr % 16 ∧
  rword t .NDL_FADDR_LO n 0 0 = f.addr % 2 ^ 32 ∧ rword t .NDL_FADDR_HI n 0 0 = f.addr / 2 ^ 32 % 2 ^ 16

theorem setFstat_tells (n : Nat) (f : NdlFault) (atSafe : Bool) (s : State) : FaultTold n f atSafe (setFstat n f atSafe s) := by
  have lo_fstat : regKey .NDL_FADDR_LO n 0 0 ≠ regKey .NDL_FSTAT n 0 0 := by simp [regKey, regInfo]
  have hi_fstat : regKey .NDL_FADDR_HI n 0 0 ≠ regKey .NDL_FSTAT n 0 0 := by simp [regKey, regInfo]
  have hi_lo : regKey .NDL_FADDR_HI n 0 0 ≠ regKey .NDL_FADDR_LO n 0 0 := by simp [regKey, regInfo]
  have low : b2n atSafe < 2 := by cases atSafe <;> decide
  have safe : (b2n atSafe == 1) = atSafe := by cases atSafe <;> rfl
  unfold FaultTold setFstat fld flag fld
  rw [rword_setRword_ne lo_fstat, rword_setRword_ne hi_fstat, rword_setRword_ne hi_lo]
  dsimp only [F.NDL_FSTAT_CODE, F.NDL_FSTAT_NIDX, F.NDL_FSTAT_ATSAFE, F.NDL_FSTAT_BERR]
  rw [rword_setRword, rword_setRword, rword_setRword]
  simp only [bitsOf, Nat.shiftRight_eq_div_pow]
  refine ⟨by omega, by omega, ?_, by omega, by omega, by omega⟩
  refine Eq.trans (congrArg (· == 1) ?_) safe
  omega

theorem FaultTold.kept {n : Nat} {f : NdlFault} {atSafe : Bool} {s t : State} {ks : List Nat} (h : FaultTold n f atSafe s)
    (regs : RegsBut ks s t) (beside : ∀ k ∈ faultWords n, k ∉ ks) : FaultTold n f atSafe t := by
  simp only [faultWords, List.forall_mem_cons] at beside
  obtain ⟨fstat, lo, hi, -⟩ := beside
  unfold FaultTold
  rw [regs.fld (f := F.NDL_FSTAT_CODE) fstat, regs.fld (f := F.NDL_FSTAT_NIDX) fstat, regs.flag (f := F.NDL_FSTAT_ATSAFE) fstat,
    regs.fld (f := F.NDL_FSTAT_BERR) fstat, regs.rword lo, regs.rword hi]
  exact h

end Sys2Proof.Machine

/-! What a report asks of a needle: it may be halted as FROZEN is entered, and is otherwise left alone (spec/20 R787, R796). -/

namespace Sys2Proof.Machine

/-- A needle that executes or stands in FAULT stays as it was, but for a HALT asked of it. -/
structure OnlyAsksHalt (s t : State) : Prop where
  stays : ∀ n, ndlRuns (ndlOf s n) = true ∨ (ndlOf s n).st = .fault →
    ndlOf t n = { ndlOf s n with haltAsked := (ndlOf t n).haltAsked }

theorem OnlyAsksHalt.of_ndl {s t : State} (h : t.ndl = s.ndl) : OnlyAsksHalt s t :=
  ⟨fun n _ => by rw [ndlOf_congr h]⟩

theorem OnlyAsksHalt.refl (s : State) : OnlyAsksHalt s s := .of_ndl rfl

theorem OnlyAsksHalt.trans {s t u : State} (h : OnlyAsksHalt s t) (g : OnlyAsksHalt t u) : OnlyAsksHalt s u := by
  refine ⟨fun n stands => ?_⟩
  have ht := h.stays n stands
  have hu := g.stays n (by rw [ht]; exact stands)
  rw [ht] at hu
  exact hu

theorem OnlyAsksHalt.forEach {α : Type} {l : List α} {f : α → State → State} (s : State)
    (hf : ∀ a u, OnlyAsksHalt u (f a u)) : OnlyAsksHalt s (forEach l f s) := by
  induction l generalizing s with
  | nil => exact .refl s
  | cons a l ih => exact (hf a s).trans (ih (f a s))

theorem askHalt_onlyAsks (m : Nat) (s : State) : OnlyAsksHalt s (askHalt m false s) := by
  refine ⟨fun n stands => ?_⟩
  unfold askHalt
  dsimp only
  split
  · by_cases same : n = m
    · subst same
      rw [ndlOf_modNdl_same]
    · rw [ndlOf_modNdl_ne _ _ same]
  · next stopped =>
    split
    · rfl
    · next gone =>
      have other : n ≠ m := by
        rintro rfl
        rcases stands with runs | fault
        · exact stopped runs
        · exact gone (by simp [fault])
      rw [((Becomes.refl m s).setSt .halt).others n other]

theorem frozenStops_onlyAsks (s : State) : OnlyAsksHalt s (frozenStops s) :=
  OnlyAsksHalt.trans (.forEach s fun m u => askHalt_onlyAsks m u) (.of_ndl rfl)

theorem modeEntry_onlyAsks (m : Mode) (s : State) : OnlyAsksHalt s (modeEntry m s) := by
  cases m with
  | frozen => exact frozenStops_onlyAsks s
  | _ => exact .of_ndl rfl

section
variable {full : State → State} (hf : ∀ u, OnlyAsksHalt u (full u))
include hf

theorem ldgPushOr_onlyAsks (r : LdgRec) (s : State) : OnlyAsksHalt s (ldgPushOr full r s) := by
  unfold ldgPushOr
  dsimp only
  split
  · exact .refl s
  · split
    · exact .trans (.of_ndl (bump_ndl ..)) (hf _)
    · split
      · exact .of_ndl (raise_ndl ..)
      · exact .of_ndl rfl

theorem setModeOr_onlyAsks (m : Mode) (cause : Nat) (s : State) : OnlyAsksHalt s (setModeOr full m cause s) := by
  unfold setModeOr
  dsimp only
  refine .trans (.trans ?_ (ldgPushOr_onlyAsks hf _ _)) (modeEntry_onlyAsks m _)
  exact .of_ndl (raise_ndl ..)

theorem severityAct_onlyAsks (sev src detail : Nat) (s : State) : OnlyAsksHalt s (severityAct full sev src detail s) := by
  unfold severityAct
  dsimp only
  generalize ha : (if sev ≥ 1 then raise 771 s else s) = a
  have raised : OnlyAsksHalt s a := ha ▸ .of_ndl (by split <;> simp)
  generalize hb : (if sev ≥ 2 then (match fclIsolates src detail with | some d => isolate d a | none => a) else a) = b
  have isolated : OnlyAsksHalt a b := hb ▸ .of_ndl (by repeat' split
                                                       all_goals simp)
  refine (raised.trans isolated).trans ?_
  split
  · split
    · exact setModeOr_onlyAsks hf _ _ _
    · exact .refl _
  · split
    · refine .trans (.of_ndl (tally_ndl 437 b)) ?_
      split
      · exact .of_ndl rfl
      · split
        · exact setModeOr_onlyAsks hf _ _ _
        · exact .refl _
    · exact .refl _

end

theorem reportN_onlyAsks (n src sub detail req : Nat) (s : State) : OnlyAsksHalt s (reportN n src sub detail req s) := by
  induction n generalizing src sub detail req s with
  | zero => exact .refl s
  | succ n ih =>
    have full (u : State) : OnlyAsksHalt u (reportN n 0x1D 0 3 255 u) := ih _ _ _ _ u
    unfold reportN
    dsimp only
    split
    · exact .refl s
    · refine .trans (.of_ndl (tally_ndl 436 s)) ?_
      generalize tally 436 s = a
      have counted (b : State) (h : b.ndl = a.ndl) : OnlyAsksHalt a (bump F.FCL_CNT_REPORTS b) :=
        .of_ndl ((bump_ndl ..).trans h)
      split
      · exact .of_ndl (bump_ndl ..)
      · refine .trans ?_ (severityAct_onlyAsks full _ _ _ _)
        have latched : (setLatched src true a).ndl = a.ndl := setRword_ndl ..
        generalize setLatched src true a = b at latched ⊢
        split
        · refine .trans ?_ (ldgPushOr_onlyAsks full _ _)
          exact counted _ (by exact latched)
        · exact counted _ (by exact latched)

theorem report_onlyAsks (src sub detail req : Nat) (s : State) : OnlyAsksHalt s (report src sub detail req s) :=
  reportN_onlyAsks 4 src sub detail req s

end Sys2Proof.Machine

/-! The order in which a needle takes events at a micro-word boundary (spec/05 R215-R228). -/

namespace Sys2Proof.Machine

/-! ### Taking a fault -/

/-- From `s` to `t` the needle took a fault: it is recorded, and vector 0 entered from the boundary before `pc` (R221). -/
structure TookFault (n : Nat) (f : NdlFault) (atSafe : Bool) (pc : Nat) (s t : State) : Prop where
  self : ndlOf t n = atVector 0 pc { ndlOf s n with fault := none }
  told : FaultTold n f atSafe t
  event : XstatIs n 3 0 (pc % 2 ^ 17) t
  regs : RegsBut (faultWords n ++ regKey .NDL_XSTAT n 0 0 :: wakeWords) s t

theorem takeFault_vector {n : Nat} (hn : n < 128) (f : NdlFault) (atSafe : Bool) (pc : Nat) {s : State}
    (fvec : flag s F.NDL_CTL_FVEC n = true) : TookFault n f atSafe pc s (takeFault n f atSafe pc s) := by
  unfold takeFault
  rw [if_pos fvec]
  generalize hu : modNdl n (fun x => { x with fault := none }) s = u
  have cleared : ndlOf u n = { ndlOf s n with fault := none } := hu ▸ ndlOf_modNdl_same ..
  have same : RegsBut [] s u := .of_eq (hu ▸ rfl)
  refine ⟨?_, (setFstat_tells n f atSafe u).kept (enterVector_regs _ _ _ _ _ _) fun k hk => ?_, enterVector_xstat hn .., ?_⟩
  · rw [enterVector_self, ndlOf_congr (setFstat_ndl ..), cleared]
  · rw [List.mem_cons, not_or]
    refine ⟨?_, fun woken => faultWords_not_reported hn hk (wakeWords_sub woken)⟩
    rintro rfl
    exact xstat_notMem_faultWords n hk
  · exact ((same.weaken (List.nil_subset _)).trans ((setFstat_regs n f atSafe u).weaken (List.subset_append_left ..))).trans
      ((enterVector_regs _ _ _ _ _ _).weaken (List.subset_append_right ..))

theorem fclLatched_kept {ks : List Nat} {s t : State} {src : Nat} (h : RegsBut ks s t)
    (beside : regKey .FCL_FLT 0 (src / 32) 0 ∉ ks) : fclLatched t src = fclLatched s src := by
  unfold fclLatched
  rw [h.rword beside]

/-- A needle whose fault has no vector stands in FAULT at `pc`, the fault recorded and reported (R224). -/
structure StandsInFault (n : Nat) (f : NdlFault) (atSafe : Bool) (pc : Nat) (t : State) : Prop where
  inFault : (ndlOf t n).st = .fault
  stoppedAt : (ndlOf t n).pc = pc % 2 ^ 17
  told : FaultTold n f atSafe t
  event : XstatIs n 3 0 (pc % 2 ^ 17) t
  latched : fclLatched t 4 = true

theorem enterFault_stands {n : Nat} (hn : n < 128) (f : NdlFault) (atSafe : Bool) (pc : Nat) {s : State} (base : baseUp s = true) :
    StandsInFault n f atSafe pc (enterFault n f atSafe pc s) := by
  unfold enterFault
  dsimp only
  have told := setFstat_tells n f atSafe (setXstat n 3 0 pc (slotFault n s))
  have event := (setXstat_tells n 3 0 pc (slotFault n s)).kept (setFstat_regs n f atSafe _) (xstat_notMem_faultWords n)
  have power : (setFstat n f atSafe (setXstat n 3 0 pc (slotFault n s))).pwr = s.pwr :=
    (setFstat_upto (setXstat_upto (slotFault_upto (Upto.refl 0x80000800 s) rfl) rfl) rfl).pwr rfl
  generalize setFstat n f atSafe (setXstat n 3 0 pc (slotFault n s)) = u at *
  have stopped := ((Becomes.refl n u).modNdl fun x => { x with fault := none, nano := none, pc := pc % 2 ^ 17 }).setSt .fault
  have baseStopped := stopped.power.baseUp.trans ((PwrKept.of_eq power).baseUp.trans base)
  generalize setNdlSt n .fault _ = v at *
  have asked := (report_onlyAsks 4 f.code n 255 v).stays n (.inr (by rw [stopped.self]))
  have words : RegsBut reportWords u (raise (65 + n) (report 0x04 f.code n 255 v)) :=
    ((stopped.regs.weaken wakeWords_sub).trans (report_regs f.code n 255 (by decide) v)).trans (raise_regs' _ _)
  have self : ndlOf (raise (65 + n) (report 0x04 f.code n 255 v)) n = _ := (ndlOf_congr (raise_ndl ..) n).trans asked
  refine ⟨?_, ?_, told.kept words fun k hk => faultWords_not_reported hn hk,
    event.kept words (ndlWord_not_reported rfl (by decide) hn), ?_⟩
  · rw [self, stopped.self]
  · rw [self, stopped.self]
  · rw [fclLatched_kept (raise_regs _ _) (by decide)]
    exact report_latches f.code n 255 (by decide) v baseStopped

/-! ### Control micro-words -/

/-- A control micro-word that reads without an error has its effect, in 1 NCLK, and then its boundary (R247). -/
theorem microControl_acts {s : State} {n w op : Nat} (h : MicroAt s n w) (control : bitAt w 23 = true)
    (legal : controlOk (settleNdl (ndlOf s n)) w = true) (code : bitsOf w 19 4 = op) (act : Nat → Ndl → State → State × Nat) :
    microControl n op act s =
      let (t, next) := act w (fetched s n) (microStart n s)
      if (ndlOf t n).st = .fault then t else boundary n (fetched s n) next (ndlTick n 1 t) := by
  unfold microControl
  rw [microFetch_acts h (by simp [control, legal, code])]
  dsimp only
  rw [(microStart_becomes n s).self]

/-- The state at the boundary of a micro-word without an effect. -/
def microEnd (n : Nat) (s : State) : State := ndlTick n 1 (microStart n s)

theorem microEnd_becomes (n : Nat) (s : State) :
    Becomes n { fetched s n with cyc := (fetched s n).cyc + 1, busyCyc := (fetched s n).busyCyc + 1 } s (microEnd n s) :=
  (microStart_becomes n s).tick 1

theorem microEnd_went (n pc : Nat) (s : State) : Went s (goPc n pc (microEnd n s)) n (settleNdl (ndlOf s n)) pc := by
  refine (microEnd_becomes n s).went (y := settleNdl (ndlOf s n)) rfl (Nat.lt_succ_self _) (fun bound => ?_) pc
  obtain ⟨b, hb⟩ := Option.isSome_iff_exists.mp bound
  exact (fetched_bound hb).trans hb.symm

theorem exec_microNop {needle : Fin 128} {w : Nat} {s : State} (h : MicroAt s needle w) (control : bitAt w 23 = true)
    (legal : controlOk (settleNdl (ndlOf s needle)) w = true) (code : bitsOf w 19 4 = 0) :
    exec (.microNop needle) s =
      .next (boundary needle (fetched s needle) (nextPc (settleNdl (ndlOf s needle)).pc) (microEnd needle s)) := by
  show execMicroNop needle s = _
  unfold execMicroNop
  rw [microControl_acts h control legal code]
  dsimp only
  rw [if_neg (by rw [(microStart_becomes needle s).self]; exact nofun)]
  rfl

/-! ### The events of a boundary -/

/-- The needle, `y` as its micro-word found it, stands at the first word of a vector 4 NCLK later (R221, R254, R255). -/
def Entered (n : Nat) (y : Ndl) (vec kind cause pc : Nat) (t : State) : Prop :=
  (ndlOf t n).pc = vec * 4 ∧ (ndlOf t n).exc = true ∧ (ndlOf t n).epc = pc ∧ (ndlOf t n).st = .run ∧
  (ndlOf t n).cyc = y.cyc + 4 ∧ (ndlOf t n).stack = y.stack ∧ XstatIs n kind (cause % 16) pc t

/-- The vector is entered from the end of the micro-word's cycle. -/
theorem entered_of_atVector {n vec kind cause pc : Nat} {y z : Ndl} {t : State} (self : ndlOf t n = atVector vec pc z)
    (event : XstatIs n kind (cause % 16) (pc % 2 ^ 17) t) (cycle : z.cyc = y.cyc + 1) (stack : z.stack = y.stack) :
    Entered n y vec kind cause (pc % 2 ^ 17) t := by
  unfold Entered
  rw [self]
  refine ⟨rfl, rfl, rfl, rfl, ?_, stack, event⟩
  show z.cyc + 3 = _
  rw [cycle]

section
variable {n : Nat} (hn : n < 128) (next : Nat) {s : State}
include hn

theorem boundary_takes_fault {f : NdlFault} (fault : (ndlOf s n).fault = some f) (fvec : flag s F.NDL_CTL_FVEC n = true) :
    let t := boundary n (fetched s n) next (microEnd n s)
    Entered n (settleNdl (ndlOf s n)) 0 3 0 (next % 2 ^ 17) t ∧ FaultTold n f false t ∧ (ndlOf t n).fault = none ∧
      (ndlOf t n).abort = (ndlOf s n).abort ∧ (ndlOf t n).ipend = (ndlOf s n).ipend := by
  have ended := microEnd_becomes n s
  have took := takeFault_vector hn f false next (s := microEnd n s)
    ((ended.regs.flag (f := F.NDL_CTL_FVEC) (ndlWord_not_woken rfl (by decide) hn)).trans fvec)
  rw [boundary_fault (f := f) (by simp [fetched, fault])]
  dsimp only
  refine ⟨entered_of_atVector took.self took.event ?_ ?_, took.told, ?_, ?_, ?_⟩
  · rw [ended.self]; rfl
  · rw [ended.self]; rfl
  all_goals
    rw [took.self, ended.self]
    simp [atVector, fetched]

theorem boundary_stands_in_fault {f : NdlFault} (fault : (ndlOf s n).fault = some f) (fvec : flag s F.NDL_CTL_FVEC n = false)
    (base : baseUp s = true) : StandsInFault n f false next (boundary n (fetched s n) next (microEnd n s)) := by
  have ended := microEnd_becomes n s
  have unvectored : ¬flag (microEnd n s) F.NDL_CTL_FVEC n = true := by
    rw [ended.regs.flag (f := F.NDL_CTL_FVEC) (ndlWord_not_woken rfl (by decide) hn), fvec]
    exact nofun
  rw [boundary_fault (f := f) (by simp [fetched, fault]), takeFault, if_neg unvectored]
  exact enterFault_stands hn f false next (ended.power.baseUp.trans base)

theorem boundary_takes_abort {c : Nat} (fault : (ndlOf s n).fault = none) (exc : (ndlOf s n).exc = false)
    (abort : (ndlOf s n).abort = some c) :
    let t := boundary n (fetched s n) next (microEnd n s)
    Entered n (settleNdl (ndlOf s n)) 1 2 c (next % 2 ^ 17) t ∧ (ndlOf t n).abort = none ∧
      (ndlOf t n).ipend = (ndlOf s n).ipend := by
  have ended := microEnd_becomes n s
  have self := ((ended.modNdl fun x => { x with abort := none }).abortUnits).self
  rw [boundary_abort (c := c) (by simp [fetched, fault]) (by rw [ended.self]; simp [fetched, exc]) (by simp [fetched, abort])]
  dsimp only
  unfold takeAbort
  refine ⟨entered_of_atVector (enterVector_self ..) (enterVector_xstat hn ..) ?_ ?_, ?_, ?_⟩
  · rw [self]; rfl
  · rw [self]; rfl
  all_goals
    rw [enterVector_self, self]
    simp [atVector, fetched]

theorem boundary_takes_interrupt {i : Nat} (fault : (ndlOf s n).fault = none) (exc : (ndlOf s n).exc = false)
    (abort : (ndlOf s n).abort = none) (irq : firstIrq s n (ndlOf s n).ipend = some i) :
    let t := boundary n (fetched s n) next (microEnd n s)
    Entered n (settleNdl (ndlOf s n)) (8 + i) 1 i (next % 2 ^ 17) t ∧
      (ndlOf t n).ipend = (ndlOf s n).ipend - ((ndlOf s n).ipend &&& 2 ^ i) := by
  have ended := microEnd_becomes n s
  have cleared := ended.clearInputs (2 ^ i)
  have pending : firstIrq (microEnd n s) n ((fetched s n).ipend &&& (ndlOf (microEnd n s) n).ipend) = some i := by
    rw [ended.self, firstIrq_kept ended.regs hn]
    simpa [fetched] using irq
  rw [boundary_interrupt (by simp [fetched, fault]) (by rw [ended.self]; simp [fetched, exc]) (by simp [fetched, abort]) pending]
  dsimp only
  refine ⟨entered_of_atVector (enterVector_self ..) (enterVector_xstat hn ..) ?_ ?_, ?_⟩
  · rw [cleared.self]; rfl
  · rw [cleared.self]; rfl
  · rw [enterVector_self, cleared.self]
    simp [atVector, fetched]

/-- Neither a fault nor, with EXC clear, an abort or an enabled input is pending. -/
theorem boundary_takes_no_vector (fault : (ndlOf s n).fault = none)
    (rest : (ndlOf s n).exc = true ∨ (ndlOf s n).abort = none ∧ firstIrq s n (ndlOf s n).ipend = none) :
    boundary n (fetched s n) next (microEnd n s) =
      if (ndlOf s n).haltAsked then enterHalt n next (microEnd n s) else goPc n next (microEnd n s) := by
  have ended := microEnd_becomes n s
  rw [boundary_rest (by simp [fetched, fault]), ended.self]
  · simp [fetched]
  · rw [ended.self, firstIrq_kept ended.regs hn]
    simpa [fetched] using rest

end

/-- Settles O26: the boundary looks for a fault, an abort, an interrupt input and a HALT in this order. -/
theorem needlesTakeEventsInOrder : Obligations.NeedlesTakeEventsInOrder := by
  unfold Obligations.NeedlesTakeEventsInOrder
  intro needle w s n x y next entered told micro control legal code
  have nop := exec_microNop micro control legal code
  have hn : n < 128 := needle.isLt
  refine ⟨fun f fault fvec => ?_, fun f fault fvec base => ?_, fun fault exc c abort => ?_,
    fun fault exc abort i irq => ?_, fun fault exc halt => ?_, fun fault rest halt => ?_⟩
  · exact ⟨_, nop, boundary_takes_fault hn _ fault fvec⟩
  · obtain ⟨inFault, stoppedAt, told, ⟨kind, -, pc⟩, latched⟩ := boundary_stands_in_fault hn (nextPc y.pc) fault fvec base
    exact ⟨_, nop, told, inFault, stoppedAt, latched, kind, pc⟩
  · exact ⟨_, nop, boundary_takes_abort hn _ fault exc abort⟩
  · exact ⟨_, nop, boundary_takes_interrupt hn _ fault exc abort irq⟩
  · refine ⟨_, nop, ?_⟩
    rw [boundary_takes_no_vector hn _ fault (.inl exc), if_neg (by rw [halt]; exact nofun)]
    exact microEnd_went ..
  · refine ⟨_, nop, ?_⟩
    rw [boundary_takes_no_vector hn _ fault rest, if_pos halt]
    dsimp only
    rw [((microEnd_becomes n s).halts _).self]
    exact ⟨rfl, rfl, settleNdl_exc x⟩

/-! ### States that meet the statement's hypotheses -/

/-- Needle 0 is powered and stands as `x`, with FVEC and input 5 enabled, and its micro-word 0 is a NOP. -/
def nopState (x : Ndl) : State :=
  { standbyState with
    pwr := { standbyState.pwr with up := 1 }
    ndl := [(0, x)]
    mem := { Mem.reset with ls := [(0, 0x800000)] }
    bus := { Bus.reset with regs := [(regKey .NDL_CTL 0 0 0, 0x80000020)] } }

/-- A needle that runs, with the abort of cause 2, inputs 3 and 5, and a HALT pending. -/
def troubled : Ndl := { Ndl.reset with st := .run, abort := some 2, ipend := 0x28, haltAsked := true }

theorem nopState_micro (f : Option NdlFault) (abort : Option Nat) (exc : Bool) :
    MicroAt (nopState { troubled with fault := f, abort := abort, exc := exc }) 0 0x800000 :=
  ⟨rfl, 0x800000, ⟨rfl, show tabGet (0 : Native) [(0, 0x800000)] (lsKey 0 (0 / 4)) = 0x800000 by decide⟩, rfl⟩

theorem nopState_takes_fault : Answers (.microNop 0) (nopState { troubled with fault := some (plainFault 5 0) }) fun t =>
    fld t F.NDL_FSTAT_CODE = 5 ∧ (ndlOf t 0).abort = some 2 := by
  obtain ⟨t, run, -, ⟨code, -⟩, -, abort, -⟩ := (needlesTakeEventsInOrder 0 0x800000 _
    (nopState_micro (some (plainFault 5 0)) (some 2) false) rfl rfl rfl).1 _ rfl (by decide)
  exact ⟨t, run, code, abort⟩

theorem nopState_takes_abort : Answers (.microNop 0) (nopState troubled) fun t =>
    (ndlOf t 0).pc = 4 ∧ (ndlOf t 0).ipend = 0x28 := by
  obtain ⟨t, run, ⟨pc, -⟩, -, ipend⟩ := (needlesTakeEventsInOrder 0 0x800000 _ (nopState_micro none (some 2) false)
    rfl rfl rfl).2.2.1 rfl rfl _ rfl
  exact ⟨t, run, pc, ipend⟩

/-- Input 3 is not enabled. -/
theorem nopState_takes_interrupt : Answers (.microNop 0) (nopState { troubled with abort := none }) fun t =>
    (ndlOf t 0).pc = 52 ∧ (ndlOf t 0).ipend = 8 := by
  obtain ⟨t, run, ⟨pc, -⟩, ipend⟩ := (needlesTakeEventsInOrder 0 0x800000 _ (nopState_micro none none false)
    rfl rfl rfl).2.2.2.1 rfl rfl rfl 5 (by decide)
  exact ⟨t, run, pc, ipend⟩

/-- With EXC set the HALT is all that is taken. -/
theorem nopState_halts : Answers (.microNop 0) (nopState { troubled with exc := true }) fun t =>
    (ndlOf t 0).st = .halt ∧ (ndlOf t 0).pc = 1 := by
  obtain ⟨t, run, st, pc, -⟩ := (needlesTakeEventsInOrder 0 0x800000 _ (nopState_micro none (some 2) true)
    rfl rfl rfl).2.2.2.2.2 rfl (.inl rfl) rfl
  exact ⟨t, run, st, pc⟩

end Sys2Proof.Machine

/-! Nano-words and horizontal words: how a routine starts, what a word issues, where it goes, and the faults of a word
(spec/05 R206-R232, spec/06 R258-R276). -/

namespace Sys2Proof.Machine

/-! ### Faults that are taken at once -/

theorem raiseFault_pends {n : Nat} {s : State} (f : NdlFault) (stands : (ndlOf s n).st ≠ .fault) (fault : (ndlOf s n).fault = none)
    (exc : (ndlOf s n).exc = false) : raiseFault n f s = modNdl n (fun x => { x with fault := some f }) s := by
  unfold raiseFault
  rw [if_neg (by simp [stands, fault]), if_neg (by simp [exc])]

/-- With EXC clear and FVEC set, a fault with nothing left to run enters vector 0 (R221; log entry 14). -/
theorem faultNow_vector {n : Nat} (hn : n < 128) {s : State} (f : NdlFault) (stands : (ndlOf s n).st ≠ .fault)
    (fault : (ndlOf s n).fault = none) (exc : (ndlOf s n).exc = false) (fvec : flag s F.NDL_CTL_FVEC n = true) :
    TookFault n f true (ndlOf s n).pc s (faultNow n f s) := by
  have sampled := ((Becomes.refl n s).modNdl fun x => { x with fault := some f }).modNdl fun x => { x with
    nano := x.nano.map fun r => { r with gap := 0 } }
  unfold faultNow
  dsimp only
  rw [raiseFault_pends f stands fault exc, ndlOf_modNdl_same, if_neg stands]
  unfold sampleSafe
  rw [ndlOf_modNdl_same]
  dsimp only
  generalize modNdl n (fun x => { x with nano := x.nano.map fun r => { r with gap := 0 } }) _ = u at *
  have took := takeFault_vector hn f true (ndlOf s n).pc
    ((sampled.regs.flag (f := F.NDL_CTL_FVEC) (ndlWord_not_woken rfl (by decide) hn)).trans fvec)
  refine ⟨?_, took.told, took.event, (sampled.regs.weaken fun k hk => ?_).trans took.regs⟩
  · rw [took.self, sampled.self]
    rfl
  · exact List.mem_append_right _ (List.mem_cons_of_mem _ hk)

/-- The needle stands at vector 0 with a fault's code and address recorded. -/
def FaultEntered (n code addr : Nat) (t : State) : Prop :=
  (ndlOf t n).pc = 0 ∧ (ndlOf t n).exc = true ∧ (ndlOf t n).nano = none ∧ (ndlOf t n).fault = none ∧
  fld t F.NDL_FSTAT_CODE n = code ∧ rword t .NDL_FADDR_LO n 0 0 = addr

theorem TookFault.entered {n pc : Nat} {f : NdlFault} {atSafe : Bool} {s t : State} (h : TookFault n f atSafe pc s t) :
    FaultEntered n (f.code % 256) (f.addr % 2 ^ 32) t := by
  obtain ⟨code, -, -, -, addr, -⟩ := h.told
  unfold FaultEntered
  rw [h.self]
  exact ⟨rfl, rfl, rfl, rfl, code, addr⟩

theorem Becomes.faults {n : Nat} {z : Ndl} {s t : State} (h : Becomes n z s t) (hn : n < 128) (f : NdlFault) (stands : z.st ≠ .fault)
    (fault : z.fault = none) (exc : z.exc = false) (fvec : flag s F.NDL_CTL_FVEC n = true) :
    FaultEntered n (f.code % 256) (f.addr % 2 ^ 32) (faultNow n f t) := by
  rw [← h.self] at stands fault exc
  exact (faultNow_vector hn f stands fault exc
    ((h.regs.flag (f := F.NDL_CTL_FVEC) (ndlWord_not_woken rfl (by decide) hn)).trans fvec)).entered

/-! ### N micro-words and reserved micro-words (R206, R211, R244, R246) -/

theorem exec_microWordExecute_nano {needle : Fin 128} {w : Nat} {s : State} (h : MicroAt s needle w) (nano : bitAt w 23 = false) :
    exec (.microWordExecute needle) s =
      .next (if nanoEmpty (microStart needle s) needle (bitsOf w 13 10) then
          faultNow needle (plainFault 0x06 (bitsOf w 13 10)) (microStart needle s)
        else startNano needle w (microStart needle s)) := by
  show execMicroWordExecute needle s = _
  unfold execMicroWordExecute
  dsimp only
  rw [microFetch_acts h (by simp [nano]), if_neg (by simp [nano])]

theorem exec_microWordExecute_reserved {needle : Fin 128} {w : Nat} {s : State} (h : MicroAt s needle w) (control : bitAt w 23 = true)
    (reserved : controlOk (settleNdl (ndlOf s needle)) w = false) (fault : (ndlOf s needle).fault = none)
    (exc : (ndlOf s needle).exc = false) :
    exec (.microWordExecute needle) s = .next (boundary needle (fetched s needle) (nextPc (settleNdl (ndlOf s needle)).pc)
      (ndlTick needle 1 (modNdl needle (fun x => { x with fault := some (plainFault 0x01 (settleNdl (ndlOf s needle)).pc) })
        (microStart needle s)))) := by
  have started := (microStart_becomes needle s).self
  show execMicroWordExecute needle s = _
  unfold execMicroWordExecute
  dsimp only
  rw [microFetch_acts h (by simp [reserved]), if_pos control,
    raiseFault_pends _ (by rw [started]; exact nofun) (by rw [started]; exact (settleNdl_fault _).trans fault)
      (by rw [started]; exact (settleNdl_exc _).trans exc),
    ndlOf_modNdl_same, started, if_neg (by simp [fetched])]
  rfl

theorem nanoEmpty_bound {n : Nat} {t : State} {b : Bool} (bound : (ndlOf t n).bound = some b) (idx : Nat) :
    nanoEmpty t n idx = (decide (idx ≥ 768) && !(bankOf t (n / 8) b).cvalid) := by rw [nanoEmpty, bound]

theorem nanoEmpty_unbound {n : Nat} {t : State} (unbound : (ndlOf t n).bound = none) (idx : Nat) :
    nanoEmpty t n idx = true := by rw [nanoEmpty, unbound]

/-! ### What a word without a memory or unit command issues (R263, R264) -/

theorem NWord.stalls_plain {q : NWord} (x : Ndl) (mop : q.mop = 0) (unit : q.unit = 0) : q.stalls x = false := by
  simp [NWord.stalls, mop, unit]

theorem NWord.run_plain {q : NWord} {n : Nat} {s : State} (bad addr : Nat) (legal : q.ok = true) (mop : q.mop = 0)
    (unit : q.unit = 0) (fault : (ndlOf s n).fault = none) :
    q.run n bad addr s = modNdl n (issue (q.vecStep (ndlOf s n))) s := by
  have memory (x : Ndl) (u : State) : q.memStep n x u = (.ok [], u) := by simp [NWord.memStep, mop]
  have units (x : Ndl) (u : State) : q.unitStep n x u = (.ok [], u) := by simp [NWord.unitStep, unit]
  unfold NWord.run
  dsimp only
  rw [fault, legal, memory, NdlRes.both, units]
  simp

/-- The needle with a loop counter's decrement issued, unless it is 0 (R252). -/
def counted (k : Nat) (z : Ndl) : Ndl := if rdLc z k = 0 then z else issue [(1, .lc (k % 4), rdLc z k - 1)] z

theorem counted_zero {k : Nat} {z : Ndl} (zero : rdLc z k = 0) : counted k z = z := if_pos zero

theorem counted_pos {k : Nat} {z : Ndl} (pos : rdLc z k ≠ 0) :
    counted k z = issue [(1, .lc (k % 4), rdLc z k - 1)] z := if_neg pos

theorem Becomes.wordLoop {n : Nat} {z : Ndl} {s t : State} (h : Becomes n z s t) (fault : z.fault = none) (k : Nat) :
    Becomes n (counted k z) s (wordLoop n k t) := by
  unfold Machine.wordLoop
  dsimp only
  rw [h.self, fault]
  by_cases zero : rdLc z k = 0
  · rw [if_pos (by simp [zero]), counted_zero zero]
    exact h
  · rw [if_neg (by simp [zero]), counted_pos zero]
    exact h.modNdl _

/-- A word's work in a state of execution: its datapath, and the decrement of the counter it loops on. -/
def wordWork (q : NWord) (n bad addr : Nat) (st : NdlSt) (loops : Bool) (k : Nat) (s : State) : State :=
  let u := q.run n bad addr (setNdlSt n st s)
  if loops then wordLoop n k u else u

/-- The needle `y` with the results of a word issued. -/
def issued (q : NWord) (loops : Bool) (k : Nat) (y : Ndl) : Ndl :=
  if loops then counted k (issue (q.vecStep y) y) else issue (q.vecStep y) y

/-- Nothing but the results in flight changes. -/
theorem issued_writes (q : NWord) (loops : Bool) (k : Nat) (y : Ndl) :
    issued q loops k y = { y with writes := (issued q loops k y).writes } := by
  unfold issued counted
  repeat' split
  all_goals rfl

section
variable {n k : Nat} {q : NWord} {loops : Bool} {y : Ndl}

@[simp] theorem issued_cyc : (issued q loops k y).cyc = y.cyc := by rw [issued_writes]
@[simp] theorem issued_busyCyc : (issued q loops k y).busyCyc = y.busyCyc := by rw [issued_writes]
@[simp] theorem issued_nano : (issued q loops k y).nano = y.nano := by rw [issued_writes]
@[simp] theorem issued_ipend : (issued q loops k y).ipend = y.ipend := by rw [issued_writes]
@[simp] theorem issued_haltAsked : (issued q loops k y).haltAsked = y.haltAsked := by rw [issued_writes]
@[simp] theorem issued_exc : (issued q loops k y).exc = y.exc := by rw [issued_writes]

end

theorem issued_eq (q : NWord) (loops : Bool) (k : Nat) (y : Ndl) : issued q loops k y =
    if loops = true ∧ rdLc y k ≠ 0 then issue [(1, .lc (k % 4), rdLc y k - 1)] (issue (q.vecStep y) y)
    else issue (q.vecStep y) y := by
  cases loops with
  | false => rfl
  | true =>
    by_cases zero : rdLc y k = 0
    · rw [if_neg (fun h => h.2 zero)]
      exact counted_zero zero
    · rw [if_pos ⟨rfl, zero⟩]
      exact counted_pos zero

theorem counted_setSt (k : Nat) (z : Ndl) (st : NdlSt) : counted k { z with st := st } = { counted k z with st := st } := by
  by_cases zero : rdLc z k = 0
  · rw [counted_zero zero]
    exact counted_zero zero
  · rw [counted_pos zero]
    exact counted_pos zero

theorem Becomes.wordWork {n : Nat} {y : Ndl} {s t : State} (h : Becomes n y s t) {q : NWord} (bad addr : Nat) (st : NdlSt)
    (loops : Bool) (k : Nat) (legal : q.ok = true) (mop : q.mop = 0) (unit : q.unit = 0) (fault : y.fault = none) :
    Becomes n { issued q loops k y with st := st } s (wordWork q n bad addr st loops k t) := by
  have running := h.setSt st
  have worked := running.modNdl (issue (q.vecStep { y with st := st }))
  unfold Machine.wordWork issued
  rw [NWord.run_plain bad addr legal mop unit (by rw [running.self]; exact fault), running.self]
  cases loops with
  | false => exact worked
  | true =>
    have looped := worked.wordLoop fault k
    rw [show issue (q.vecStep { y with st := st }) { y with st := st } = { issue (q.vecStep y) y with st := st } from rfl,
      counted_setSt] at looped
    exact looped

/-! ### Stalled cycles (R212, R217) -/

theorem sampleSafe_quiet {n : Nat} {s : State} (fault : (ndlOf s n).fault = none) (abort : (ndlOf s n).abort = none)
    (halt : (ndlOf s n).haltAsked = false) :
    sampleSafe n s = modNdl n (fun x => { x with nano := x.nano.map fun r => { r with gap := 0 } }) s := by
  unfold sampleSafe
  dsimp only
  rw [fault, abort, halt]
  rfl

theorem Becomes.stalls {n : Nat} {y : Ndl} {s t : State} (h : Becomes n y s t) (fault : y.fault = none) (abort : y.abort = none)
    (halt : y.haltAsked = false) :
    Becomes n { y with cyc := y.cyc + 1, stallCyc := y.stallCyc + 1, st := .stall
                       nano := y.nano.map fun r => { r with gap := 0 } } s (stallCycle n t) := by
  have ticked : Becomes n _ s (stallTick n t) :=
    (h.modNdl fun x => { x with cyc := x.cyc + 1, stallCyc := x.stallCyc + 1 }).setSt .stall
  unfold stallCycle
  rw [sampleSafe_quiet (by rw [ticked.self]; exact fault) (by rw [ticked.self]; exact abort) (by rw [ticked.self]; exact halt)]
  exact ticked.modNdl fun x => { x with nano := x.nano.map fun r => { r with gap := 0 } }

theorem runs_not_fault {x : Ndl} (runs : ndlRuns x = true) : x.st ≠ .fault := by
  intro fault
  rw [ndlRuns, fault] at runs
  exact absurd runs (by decide)

theorem ndlSettle_becomes (n : Nat) (s : State) : Becomes n (settleNdl (ndlOf s n)) s (ndlSettle n s) :=
  (Becomes.refl n s).modNdl settleNdl

theorem nanoEntry_ndlSettle (n : Nat) (s : State) (idx : Nat) : nanoEntry (ndlSettle n s) n idx = nanoEntry s n idx := by
  unfold nanoEntry
  rw [(ndlSettle_becomes n s).self, settleNdl_bound]
  rfl

/-! ### Nano-words (R210, R212, R226, R227, R259-R261) -/

/-- A needle that is ready for a nano-word executes. -/
theorem nanoReady_stands {n : Nat} {s : State} (ready : nanoReady s n = true) : (ndlOf s n).st ≠ .fault := by
  simp only [nanoReady, ndlExec, Bool.and_eq_true] at ready
  exact runs_not_fault ready.1.2

/-- Before SAFEGAP and NANORUN are due, the word executes if its parity is good. -/
theorem exec_nanoWordExecute {needle : Fin 128} {s : State} {r : NanoRun} (ready : nanoReady s needle = true)
    (run : (ndlOf s needle).nano = some r) (gap : r.gap < 48) (cycles : r.cycles < 4096) :
    exec (.nanoWordExecute needle) s = .next (if nanoParityOk (nanoEntry s needle r.idx).toNat then
        nanoExec needle r (bitsOf (nanoEntry s needle r.idx).toNat 0 96) (settleNdl (ndlOf s needle)) (ndlSettle needle s)
      else nanoParityBad needle r.idx (ndlSettle needle s)) := by
  have self := (ndlSettle_becomes needle s).self
  have early : ¬(nanorunDue (settleNdl (ndlOf s needle)) && decide (r.cycles = 4096)) = true := by
    have notYet : r.cycles ≠ 4096 := by omega
    simp [notYet]
  show execNanoWordExecute needle s = _
  unfold execNanoWordExecute
  dsimp only
  rw [if_neg (by simp [ready]), self, settleNdl_nano, run]
  dsimp only
  rw [if_neg (by simp [safegapDue, run, gap]), if_neg early, self,
    if_neg (by simpa using nanoReady_stands ready), nanoEntry_ndlSettle]
  cases nanoParityOk (nanoEntry s needle r.idx).toNat with
  | true => rfl
  | false => rfl

theorem nanoExec_waits {n w : Nat} (r : NanoRun) {x0 : Ndl} (s : State) (waitu : bitsOf w 93 3 = 6)
    (unmet : ncond x0 (bitsOf w 78 4) = false) : nanoExec n r w x0 s = stallCycle n s := by
  unfold nanoExec
  dsimp only
  rw [if_pos (by simp [waitu, unmet])]

/-- The state after the nano-cycle of a word `w` with the datapath `q`. -/
def nanoWorked (n : Nat) (q : NWord) (w : Nat) (s : State) : State :=
  nanoCycle n (wordWork q n 0x02 0 .run (bitsOf w 93 3 == 4) (bitsOf w 78 2) s)

section
variable {n w : Nat} {q : NWord} (legal : q.ok = true) (mop : q.mop = 0) (unit : q.unit = 0)
include legal mop unit

theorem Becomes.nanoWorked {y : Ndl} {s t : State} (h : Becomes n y s t) (fault : y.fault = none) : Becomes n
    (let z := issued q (bitsOf w 93 3 == 4) (bitsOf w 78 2) y
     { z with st := .run, cyc := z.cyc + 1, busyCyc := z.busyCyc + 1
              nano := z.nano.map fun u => { u with cycles := u.cycles + 1, gap := u.gap + 1 } })
    s (nanoWorked n q w t) :=
  ((h.wordWork 0x02 0 .run _ _ legal mop unit fault).modNdl fun x => { x with
    nano := x.nano.map fun u => { u with cycles := u.cycles + 1, gap := u.gap + 1 } }).tick 1

/-- A word without a memory or unit command, whose SEQ is not reserved and whose WAITU is met, does its work and goes where
SEQ says. -/
theorem nanoExec_works {r : NanoRun} {x0 : Ndl} {s : State} (fault : (ndlOf s n).fault = none)
    (datapath : ⟨w, if bitAt w 29 then r.vw else 0, if bitAt w 29 then r.aw else 0, r.idx, b2n (x0.bound.getD false)⟩ = q)
    (seq : bitsOf w 93 3 ≠ 7) (met : bitsOf w 93 3 = 6 → ncond x0 (bitsOf w 78 4) = true) :
    (∀ i, nanoNext x0 w r.idx = .at_ i → bitAt w 92 = false → nanoExec n r w x0 s = nanoGo n r i (nanoWorked n q w s)) ∧
    (nanoNext x0 w r.idx = .done → nanoExec n r w x0 s =
      boundary n x0 (nextPc x0.pc) (modNdl n (fun x => { x with nano := none }) (nanoWorked n q w s))) := by
  have worked := ((Becomes.refl n s).wordWork 0x02 0 .run (bitsOf w 93 3 == 4) (bitsOf w 78 2) legal mop unit fault).self
  have executes : ¬(ndlOf (wordWork q n 0x02 0 .run (bitsOf w 93 3 == 4) (bitsOf w 78 2) s) n).st = .fault := by
    rw [worked]
    exact nofun
  have noWait : ¬((decide (bitsOf w 93 3 = 6) && !ncond x0 (bitsOf w 78 4)) || (q.ok && x0.fault.isNone && q.stalls x0)) = true := by
    rw [NWord.stalls_plain x0 mop unit]
    simpa using met
  have noReserved : ¬(decide (bitsOf w 93 3 = 7) && x0.fault.isNone) = true := by simp [seq]
  have work : (if bitsOf w 93 3 = 4 then wordLoop n (bitsOf w 78 2) (q.run n 0x02 0 (setNdlSt n .run s))
      else q.run n 0x02 0 (setNdlSt n .run s)) = wordWork q n 0x02 0 .run (bitsOf w 93 3 == 4) (bitsOf w 78 2) s := by
    simp [wordWork]
  refine ⟨fun i onward plain => ?_, fun done => ?_⟩
  · unfold nanoExec
    dsimp only
    rw [datapath, if_neg noWait, if_neg noReserved, work, if_neg executes, onward]
    dsimp only
    rw [if_neg (by rw [plain]; exact nofun)]
    rfl
  · unfold nanoExec
    dsimp only
    rw [datapath, if_neg noWait, if_neg noReserved, work, if_neg executes, done]
    rfl

end

theorem nanoGo_stays {n i : Nat} {r : NanoRun} {s : State} (half : nanoHalf i = nanoHalf r.first) :
    nanoGo n r i s = modNdl n (fun x => { x with nano := x.nano.map fun q => { q with idx := i } }) s :=
  if_neg (not_not_intro half)

/-! ### A word whose parity fails (R210) -/

theorem bankOf_modBank (k : Nat) (b : Bool) (f : NanoBank → NanoBank) (s : State) :
    bankOf (modBank k b f s) k b = f (bankOf s k b) := tabGet_tabMod_same ..

theorem bankOf_setBankSt (k : Nat) (b : Bool) (st : BankSt) (s : State) : (bankOf (setBankSt k b st s) k b).st = st := by
  unfold setBankSt
  split
  · next same => exact same
  · rw [bankOf, raise_bank, ← bankOf, bankOf_modBank]

theorem setBankSt_ndl (k : Nat) (b : Bool) (st : BankSt) (s : State) : (setBankSt k b st s).ndl = s.ndl := by
  unfold setBankSt
  split
  · rfl
  · rw [raise_ndl, modBank_ndl]

theorem setBankSt_regs (k : Nat) (b : Bool) (st : BankSt) (s : State) : RegsBut wakeWords s (setBankSt k b st s) := by
  unfold setBankSt
  split
  · exact .refl _ _
  · exact (RegsBut.of_eq (by rw [modBank_bus])).trans (raise_regs _ _)

theorem setBankSt_pwr (k : Nat) (b : Bool) (st : BankSt) (s : State) : PwrKept s (setBankSt k b st s) := by
  unfold setBankSt
  split
  · exact .refl _
  · exact (PwrKept.of_eq (modBank_pwr ..)).trans (raise_pwr' _ _)

/-- The latched sources stand beside what a needle that takes a fault writes. -/
theorem fltWord_notMem {n : Nat} (hn : n < 128) : regKey .FCL_FLT 0 0 0 ∉ faultWords n ++ regKey .NDL_XSTAT n 0 0 :: wakeWords := by
  have reported : regKey .FCL_FLT 0 0 0 ∈ reportWords := by decide
  rw [List.mem_append, List.mem_cons, not_or, not_or]
  refine ⟨fun h => faultWords_not_reported hn h reported, fun h => ?_, by decide⟩
  rw [h] at reported
  exact ndlWord_not_reported rfl (by decide) hn reported

/-- The bank is DAMAGED, NANOPAR is latched, and the needle takes NPAR. -/
theorem nanoParityBad_damages {n : Nat} (hn : n < 128) (idx : Nat) {s : State} (runs : ndlRuns (ndlOf s n) = true)
    (fault : (ndlOf s n).fault = none) (exc : (ndlOf s n).exc = false) (fvec : flag s F.NDL_CTL_FVEC n = true)
    (base : baseUp s = true) :
    FaultEntered n 7 (idx % 2 ^ 32) (nanoParityBad n idx s) ∧
      (bankOf (nanoParityBad n idx s) (n / 8) ((ndlOf s n).bound.getD false)).st = .damaged ∧
      fclLatched (nanoParityBad n idx s) 5 = true := by
  unfold nanoParityBad
  dsimp only
  generalize (ndlOf s n).bound.getD false = b
  generalize hu : setFld F.SKN_NPAR_BANK _ _ _ = u
  have counted : RegsBut [regKey .SKN_NPAR (n / 8) 0 0] s u := by
    rw [← hu]
    exact (((RegsBut.refl _ s).bump (f := F.SKN_NPAR_COUNT) List.mem_cons_self).setFld (f := F.SKN_NPAR_ENTRY)
      List.mem_cons_self).setFld (f := F.SKN_NPAR_BANK) List.mem_cons_self
  have other : regKey .NDL_CTL n 0 0 ∉ [regKey .SKN_NPAR (n / 8) 0 0] := by
    simp [regKey, regInfo, blkFrame]
    omega
  have ndl : u.ndl = s.ndl := by rw [← hu, setFld_ndl _ _ _ (n / 8), setFld_ndl _ _ _ (n / 8), bump_ndl _ _ (n / 8)]
  have power : PwrKept s u := .of_eq (by rw [← hu, setFld_pwr _ _ _ (n / 8), setFld_pwr _ _ _ (n / 8), bump_pwr _ _ (n / 8)])
  have damaged := bankOf_setBankSt (n / 8) b .damaged u
  have banked : ndlOf (setBankSt (n / 8) b .damaged u) n = ndlOf s n := ndlOf_congr ((setBankSt_ndl ..).trans ndl) n
  have baseBanked := (power.trans (setBankSt_pwr (n / 8) b .damaged u)).baseUp.trans base
  have bankedWords := setBankSt_regs (n / 8) b .damaged u
  generalize setBankSt (n / 8) b .damaged u = v at *
  generalize b2n b * 2 ^ 14 + n / 8 * 2 ^ 10 + idx = detail
  have latched := report_latches 0 detail 255 (show 5 < 256 by decide) v baseBanked
  have asked := (report_onlyAsks 5 0 detail 255 v).stays n (.inl (by rw [banked]; exact runs))
  have bank : (report 5 0 detail 255 v).bank = v.bank := report_bank ..
  have reported := report_regs 0 detail 255 (show 5 < 256 by decide) v
  generalize report 5 0 detail 255 v = y at *
  rw [banked] at asked
  have ctl : flag y F.NDL_CTL_FVEC n = true := by
    rw [((bankedWords.weaken wakeWords_sub).trans reported).flag (f := F.NDL_CTL_FVEC) (ndlWord_not_reported rfl (by decide) hn),
      counted.flag (f := F.NDL_CTL_FVEC) other, fvec]
  have took := faultNow_vector hn ⟨0x07, idx, b2n b, 0, idx⟩ (s := y) (by rw [asked]; exact runs_not_fault runs)
    (by rw [asked]; exact fault) (by rw [asked]; exact exc) ctl
  refine ⟨took.entered, ?_, ?_⟩
  · rw [bankOf, (faultNow_upto (Upto.refl 0xd3c80881 y) (Sub.refl _)).bank rfl, bank]
    exact damaged
  · rw [fclLatched_kept took.regs, latched]
    exact fltWord_notMem hn

/-! ### Horizontal words (R229-R231, R273-R276) -/

/-- A horizontal word outside the range is a fault at once (R231). -/
theorem exec_horizWordExecute_outside {needle : Fin 128} {s : State} (ready : ndlExec s needle = true)
    (horiz : horizPc (ndlOf s needle) = true) (zeroed : (ndlOf s needle).zeroing = false)
    (outside : horizInRange s needle ((ndlOf s needle).pc / 4) = false) :
    exec (.horizWordExecute needle) s =
      .next (faultNow needle (plainFault 0x0A ((ndlOf s needle).pc / 4)) (ndlSettle needle s)) := by
  show execHorizWordExecute needle s = _
  unfold execHorizWordExecute
  dsimp only
  rw [if_neg (by simp [ready, horiz, zeroed]), (ndlSettle_becomes needle s).self, settleNdl_pc,
    show horizInRange (ndlSettle needle s) needle ((ndlOf s needle).pc / 4) = horizInRange s needle ((ndlOf s needle).pc / 4) from rfl,
    outside]
  rfl

/-- A legal horizontal word in the range, whose two local-store words read without an error, executes. -/
theorem exec_horizWordExecute_legal {needle : Fin 128} {s : State} {lo hi : Native} (ready : ndlExec s needle = true)
    (horiz : horizPc (ndlOf s needle) = true) (zeroed : (ndlOf s needle).zeroing = false)
    (low : LsIs s needle ((ndlOf s needle).pc / 4) lo) (high : LsIs s needle ((ndlOf s needle).pc / 4 + 1) hi)
    (inside : horizInRange s needle ((ndlOf s needle).pc / 4) = true) (legal : horizOk hi.toNat lo.toNat = true) :
    exec (.horizWordExecute needle) s =
      .next (horizExec needle ((ndlOf s needle).pc / 4) (hi.toNat * 2 ^ 72 + lo.toNat) (settleNdl (ndlOf s needle))
        (ndlSettle needle s)) := by
  show execHorizWordExecute needle s = _
  unfold execHorizWordExecute
  dsimp only
  rw [if_neg (by simp [ready, horiz, zeroed]), (ndlSettle_becomes needle s).self, settleNdl_pc,
    show horizInRange (ndlSettle needle s) needle ((ndlOf s needle).pc / 4) = horizInRange s needle ((ndlOf s needle).pc / 4) from rfl,
    inside, lsRead_clean (show LsIs (ndlSettle needle s) needle _ lo from low)]
  dsimp only
  rw [lsRead_clean (show LsIs (ndlSettle needle s) needle _ hi from high)]
  dsimp only
  rw [legal]
  rfl

theorem horizOk_datapath {hi lo : Nat} (h : horizOk hi lo = true) :
    NWord.ok ⟨bitsOf (hi * 2 ^ 72 + lo) 0 78, 0, 0, 0, 0⟩ = true := by
  simp only [horizOk, Bool.and_eq_true] at h
  exact h.2

/-- The state after the 2 NCLK of a horizontal word `w` at `a` with the datapath `q`, a HALT asked where HSEQ halts. -/
def horizWorked (n : Nat) (q : NWord) (w a : Nat) (halts : Bool) (s : State) : State :=
  let u := wordWork q n 0x03 a .horiz (bitsOf w 140 4 == 3) (bitsOf w 121 2) s
  ndlTick n 2 (if halts then modNdl n (fun x => { x with haltAsked := true }) u else u)

section
variable {n w : Nat} {q : NWord} (legal : q.ok = true) (mop : q.mop = 0) (unit : q.unit = 0)
include legal mop unit

theorem Becomes.horizWorked {y : Ndl} {s t : State} (h : Becomes n y s t) (fault : y.fault = none) (a : Nat) (halts : Bool) :
    Becomes n
      (let z := issued q (bitsOf w 140 4 == 3) (bitsOf w 121 2) y
       { z with st := .horiz, cyc := z.cyc + 2, busyCyc := z.busyCyc + 2, haltAsked := halts || z.haltAsked })
      s (horizWorked n q w a halts t) := by
  have worked := h.wordWork 0x03 a .horiz (bitsOf w 140 4 == 3) (bitsOf w 121 2) legal mop unit fault
  cases halts with
  | false => exact worked.tick 2
  | true => exact (worked.modNdl fun x => { x with haltAsked := true }).tick 2

/-- A word without a memory or unit command, whose wait is met, does its work and comes to the boundary that HSEQ names. -/
theorem horizExec_works {a : Nat} {x0 : Ndl} {s : State} (fault : (ndlOf s n).fault = none)
    (datapath : ⟨bitsOf w 0 78, 0, 0, 0, 0⟩ = q) (met : bitsOf w 140 4 = 4 → ncond x0 (bitsOf w 121 4) = true) :
    horizExec n a w x0 s = boundary n x0 (horizNext x0 w a).1 (horizWorked n q w a (horizNext x0 w a).2 s) := by
  have worked := ((Becomes.refl n s).wordWork 0x03 a .horiz (bitsOf w 140 4 == 3) (bitsOf w 121 2) legal mop unit fault).self
  have noFault : (ndlOf (Machine.horizWorked n q w a (horizNext x0 w a).2 s) n).fault = none := by
    rw [((Becomes.refl n s).horizWorked legal mop unit fault a (horizNext x0 w a).2).self]
    rw [issued_writes]
    exact fault
  have executes : ¬(ndlOf (wordWork q n 0x03 a .horiz (bitsOf w 140 4 == 3) (bitsOf w 121 2) s) n).st = .fault := by
    rw [worked]
    exact nofun
  have noWait : ¬((decide (bitsOf w 140 4 = 4) && !ncond x0 (bitsOf w 121 4)) || (x0.fault.isNone && q.stalls x0)) = true := by
    rw [NWord.stalls_plain x0 mop unit]
    simpa using met
  have work : (if bitsOf w 140 4 = 3 then wordLoop n (bitsOf w 121 2) (q.run n 0x03 a (setNdlSt n .horiz s))
      else q.run n 0x03 a (setNdlSt n .horiz s)) = wordWork q n 0x03 a .horiz (bitsOf w 140 4 == 3) (bitsOf w 121 2) s := by
    simp [wordWork]
  unfold horizExec
  dsimp only
  rw [datapath, if_neg noWait, work, if_neg executes]
  show horizSample n x0 (horizNext x0 w a).1 (Machine.horizWorked n q w a (horizNext x0 w a).2 s) = _
  unfold horizSample
  rw [noFault]

end

/-! ### The clauses of the statement -/

section
variable {needle : Fin 128} {w : Nat} {s : State}

/-- An N micro-word of a needle with a bank starts its routine. -/
theorem microWord_starts_routine (micro : MicroAt s needle w) (nano : bitAt w 23 = false) {b : Bool}
    (bound : (settleNdl (ndlOf s needle)).bound = some b)
    (full : bitsOf w 13 10 < 768 ∨ (bankOf s (needle / 8) b).cvalid = true) :
    Answers (.microWordExecute needle) s fun t =>
      (ndlOf t needle).nano = some ⟨bitsOf w 13 10, bitsOf w 13 10, bitsOf w 8 5, bitsOf w 4 4, 0, 0⟩ ∧
      (ndlOf t needle).d = bitsOf w 0 4 ∧ (ndlOf t needle).pc = (settleNdl (ndlOf s needle)).pc ∧
      (ndlOf t needle).cyc = (settleNdl (ndlOf s needle)).cyc ∧ ∀ m : Nat, m ≠ needle.val → ndlOf t m = ndlOf s m := by
  have started := microStart_becomes needle s
  have stood : (ndlOf (microStart needle s) needle).bound = some b := by
    rw [started.self]
    exact fetched_bound bound
  have entry : nanoEmpty (microStart needle s) needle (bitsOf w 13 10) = false := by
    rw [nanoEmpty_bound stood, bankOf, started.bank, ← bankOf]
    rcases full with low | valid
    · simp [low]
    · simp [valid]
  have run : Becomes needle _ s (startNano needle w (microStart needle s)) := started.modNdl _
  refine ⟨_, exec_microWordExecute_nano micro nano, ?_⟩
  rw [entry]
  show _ ∧ _
  rw [if_neg (by exact nofun), run.self]
  exact ⟨rfl, rfl, rfl, rfl, run.others⟩

/-- One that names an entry of no bank, or of an empty customer half, is NEMPTY. -/
theorem microWord_names_no_entry (micro : MicroAt s needle w) (nano : bitAt w 23 = false) (fault : (ndlOf s needle).fault = none)
    (exc : (ndlOf s needle).exc = false) (fvec : flag s F.NDL_CTL_FVEC needle = true)
    (noEntry : (settleNdl (ndlOf s needle)).bound = none ∧ bankFor s needle = none ∨
      ∃ b, (settleNdl (ndlOf s needle)).bound = some b ∧ 768 ≤ bitsOf w 13 10 ∧ (bankOf s (needle / 8) b).cvalid = false) :
    Answers (.microWordExecute needle) s (FaultEntered needle 6 (bitsOf w 13 10)) := by
  have started := microStart_becomes needle s
  have entry : nanoEmpty (microStart needle s) needle (bitsOf w 13 10) = true := by
    rcases noEntry with ⟨unbound, noBank⟩ | ⟨b, bound, high, invalid⟩
    · refine nanoEmpty_unbound ?_ _
      rw [started.self]
      show Option.or _ _ = _
      rw [unbound, noBank]
      rfl
    · rw [nanoEmpty_bound (b := b), bankOf, started.bank, ← bankOf, invalid]
      · simpa using high
      · rw [started.self]
        exact fetched_bound bound
  refine ⟨_, exec_microWordExecute_nano micro nano, ?_⟩
  rw [if_pos entry]
  have entered := started.faults needle.isLt (plainFault 6 (bitsOf w 13 10)) nofun ((settleNdl_fault _).trans fault)
    ((settleNdl_exc _).trans exc) fvec
  rwa [show (plainFault 6 (bitsOf w 13 10)).addr % 2 ^ 32 = bitsOf w 13 10 from
    Nat.mod_eq_of_lt ((bitsOf_lt w 13 10).trans (by decide))] at entered

/-- A reserved micro-word leaves ILLOP pending and goes on. -/
theorem microWord_reserved (micro : MicroAt s needle w) (quiet : Quiet s needle) (control : bitAt w 23 = true)
    (reserved : controlOk (settleNdl (ndlOf s needle)) w = false) (exc : (ndlOf s needle).exc = false) :
    Answers (.microWordExecute needle) s fun t => Went s t needle
      { settleNdl (ndlOf s needle) with fault := some (plainFault 1 (settleNdl (ndlOf s needle)).pc) }
      (nextPc (settleNdl (ndlOf s needle)).pc) := by
  refine ⟨_, exec_microWordExecute_reserved micro control reserved quiet.1 exc, ?_⟩
  refine (((microStart_becomes needle s).modNdl fun x => { x with
    fault := some (plainFault 1 (settleNdl (ndlOf s needle)).pc) }).tick 1).boundary_went (x0 := fetched s needle)
    (y := { settleNdl (ndlOf s needle) with fault := some (plainFault 1 (settleNdl (ndlOf s needle)).pc) })
    needle.isLt quiet ?_ ?_ ?_ ?_ ?_ rfl (Nat.lt_succ_self _) (fun bound => ?_) _
  · exact settleNdl_fault _
  · exact settleNdl_abort _
  · exact settleNdl_ipend _
  · exact settleNdl_ipend _
  · exact (settleNdl_haltAsked _).trans quiet.2.2.1
  · obtain ⟨b, hb⟩ := Option.isSome_iff_exists.mp bound
    exact (fetched_bound hb).trans hb.symm

theorem safegap_enters {r : NanoRun} (ready : nanoReady s needle = true) (run : (ndlOf s needle).nano = some r) (gap : 48 ≤ r.gap)
    (fault : (ndlOf s needle).fault = none) (exc : (ndlOf s needle).exc = false) (fvec : flag s F.NDL_CTL_FVEC needle = true) :
    Answers (.safegap needle) s (FaultEntered needle 8 0) := by
  refine ⟨_, rfl, ?_⟩
  rw [if_pos (by simp [ready, safegapDue, run, gap])]
  exact ((ndlSettle_becomes needle s).tick 1).faults needle.isLt ⟨0x08, _, _, 0, 0⟩ (by simpa using nanoReady_stands ready)
    ((settleNdl_fault _).trans fault) ((settleNdl_exc _).trans exc) fvec

theorem nanorun_pends {r : NanoRun} (ready : nanoReady s needle = true) (run : (ndlOf s needle).nano = some r)
    (cycles : 4096 ≤ r.cycles) (fault : (ndlOf s needle).fault = none) (exc : (ndlOf s needle).exc = false) :
    Answers (.nanorun needle) s fun t =>
      (ndlOf t needle).fault = some ⟨9, r.idx, b2n ((ndlOf s needle).bound.getD false), 0, r.first⟩ ∧
      (ndlOf t needle).nano = some r := by
  refine ⟨_, rfl, ?_⟩
  rw [if_pos (by simp [ready, nanorunDue, run, cycles])]
  unfold nanorunRaise
  rw [run]
  dsimp only
  rw [raiseFault_pends _ (nanoReady_stands ready) fault exc, ndlOf_modNdl_same]
  exact ⟨rfl, run⟩

/-! A needle in a routine. -/

section
variable {r : NanoRun} (ready : nanoReady s needle = true) (run : (ndlOf s needle).nano = some r) (gap : r.gap < 48)
  (cycles : r.cycles < 4096)
include ready run gap cycles

/-- A word whose parity fails damages its bank, and is NPAR. -/
theorem nanoWord_damages (damaged : nanoParityOk (nanoEntry s needle r.idx).toNat = false) (fault : (ndlOf s needle).fault = none)
    (exc : (ndlOf s needle).exc = false) (fvec : flag s F.NDL_CTL_FVEC needle = true) (base : baseUp s = true) :
    Answers (.nanoWordExecute needle) s fun t => FaultEntered needle 7 (r.idx % 2 ^ 32) t ∧
      (bankOf t (needle / 8) ((ndlOf s needle).bound.getD false)).st = .damaged ∧ fclLatched t 5 = true := by
  have settled := (ndlSettle_becomes needle s).self
  have runs : ndlRuns (ndlOf s needle) = true := by
    simp only [nanoReady, ndlExec, Bool.and_eq_true] at ready
    exact ready.1.2
  have took := nanoParityBad_damages needle.isLt r.idx (s := ndlSettle needle s)
    (by rw [settled, ndlRuns, settleNdl_st]; exact runs) (by rw [settled]; exact (settleNdl_fault _).trans fault)
    (by rw [settled]; exact (settleNdl_exc _).trans exc) fvec base
  rw [settled, settleNdl_bound] at took
  refine ⟨_, exec_nanoWordExecute ready run gap cycles, ?_⟩
  rw [damaged]
  exact took

variable (parity : nanoParityOk (nanoEntry s needle r.idx).toNat = true) (word : w = bitsOf (nanoEntry s needle r.idx).toNat 0 96)
  (quiet : Quiet s needle)
include parity word quiet

/-- A WAITU whose condition fails stalls the cycle, which is a sampling point. -/
theorem nanoWord_waits (waitu : bitsOf w 93 3 = 6) (unmet : ncond (settleNdl (ndlOf s needle)) (bitsOf w 78 4) = false) :
    Answers (.nanoWordExecute needle) s fun t => (ndlOf t needle).st = .stall ∧
      (ndlOf t needle).cyc = (settleNdl (ndlOf s needle)).cyc + 1 ∧
      (ndlOf t needle).stallCyc = (settleNdl (ndlOf s needle)).stallCyc + 1 ∧
      (ndlOf t needle).nano = some { r with gap := 0 } := by
  have ⟨fault, abort, halt, _⟩ := quiet
  have stalled := (ndlSettle_becomes needle s).stalls ((settleNdl_fault _).trans fault) ((settleNdl_abort _).trans abort)
    ((settleNdl_haltAsked _).trans halt)
  refine ⟨_, exec_nanoWordExecute ready run gap cycles, ?_⟩
  rw [if_pos parity, ← word, nanoExec_waits r _ waitu unmet]
  dsimp only
  rw [stalled.self, settleNdl_nano, run]
  exact ⟨rfl, rfl, rfl, rfl⟩

variable {q : NWord} (datapath : ⟨w, if bitAt w 29 then r.vw else 0, if bitAt w 29 then r.aw else 0, r.idx,
    b2n ((ndlOf s needle).bound.getD false)⟩ = q)
  (legal : q.ok = true) (mop : q.mop = 0) (unit : q.unit = 0) (seq : bitsOf w 93 3 ≠ 7)
  (met : bitsOf w 93 3 = 6 → ncond (settleNdl (ndlOf s needle)) (bitsOf w 78 4) = true)
include datapath legal mop unit seq met

/-- A word that goes on in its half. -/
theorem nanoWord_goes_on {i : Nat} (onward : nanoNext (settleNdl (ndlOf s needle)) w r.idx = .at_ i)
    (half : nanoHalf i = nanoHalf r.first) (plain : bitAt w 92 = false) :
    Answers (.nanoWordExecute needle) s fun t =>
      ndlOf t needle = { issued q (bitsOf w 93 3 == 4) (bitsOf w 78 2) (settleNdl (ndlOf s needle)) with
        st := .run, cyc := (settleNdl (ndlOf s needle)).cyc + 1, busyCyc := (settleNdl (ndlOf s needle)).busyCyc + 1
        nano := some { r with idx := i, cycles := r.cycles + 1, gap := r.gap + 1 } } ∧
      ∀ m : Nat, m ≠ needle.val → ndlOf t m = ndlOf s m := by
  have settled := ndlSettle_becomes needle s
  have fault := (settleNdl_fault _).trans quiet.1
  have went := (settled.nanoWorked (w := w) legal mop unit fault).modNdl fun x => { x with
    nano := x.nano.map fun u => { u with idx := i } }
  refine ⟨_, exec_nanoWordExecute ready run gap cycles, ?_⟩
  rw [if_pos parity, ← word, (nanoExec_works legal mop unit (by rw [settled.self]; exact fault)
    (by rw [settleNdl_bound]; exact datapath) seq met).1 i onward plain, nanoGo_stays half]
  refine ⟨went.self.trans ?_, went.others⟩
  dsimp only
  rw [issued_cyc, issued_busyCyc, issued_nano, settleNdl_nano, run]
  rfl

/-- A word that ends its routine. -/
theorem nanoWord_ends (done : nanoNext (settleNdl (ndlOf s needle)) w r.idx = .done) :
    Answers (.nanoWordExecute needle) s fun t => Went s t needle
      { issued q (bitsOf w 93 3 == 4) (bitsOf w 78 2) (settleNdl (ndlOf s needle)) with nano := none }
      (nextPc (settleNdl (ndlOf s needle)).pc) := by
  have settled := ndlSettle_becomes needle s
  have fault := (settleNdl_fault _).trans quiet.1
  have worked := (settled.nanoWorked (w := w) legal mop unit fault).modNdl fun x => { x with nano := none }
  refine ⟨_, exec_nanoWordExecute ready run gap cycles, ?_⟩
  rw [if_pos parity, ← word, (nanoExec_works legal mop unit (by rw [settled.self]; exact fault)
    (by rw [settleNdl_bound]; exact datapath) seq met).2 done]
  exact worked.boundary_went
    (y := { issued q (bitsOf w 93 3 == 4) (bitsOf w 78 2) (settleNdl (ndlOf s needle)) with nano := none })
    needle.isLt quiet (settleNdl_fault _) (settleNdl_abort _) (settleNdl_ipend _)
    (issued_ipend.trans (settleNdl_ipend _)) (issued_haltAsked.trans ((settleNdl_haltAsked _).trans quiet.2.2.1)) rfl
    (Nat.lt_succ_self _) (fun _ => rfl) _

end

/-! A needle at a horizontal word. -/

section
variable (ready : ndlExec s needle = true) (horiz : horizPc (ndlOf s needle) = true) (zeroed : (ndlOf s needle).zeroing = false)
include ready horiz zeroed

/-- A word outside the range is HRANGE. -/
theorem horizWord_outside (outside : horizInRange s needle ((ndlOf s needle).pc / 4) = false) (fault : (ndlOf s needle).fault = none)
    (exc : (ndlOf s needle).exc = false) (fvec : flag s F.NDL_CTL_FVEC needle = true) :
    Answers (.horizWordExecute needle) s (FaultEntered needle 0xA ((ndlOf s needle).pc / 4 % 2 ^ 32)) := by
  have executes : (ndlOf s needle).st ≠ .fault := by
    simp only [ndlExec, Bool.and_eq_true] at ready
    exact runs_not_fault ready.2
  exact ⟨_, exec_horizWordExecute_outside ready horiz zeroed outside,
    (ndlSettle_becomes needle s).faults needle.isLt (plainFault 0xA _) (by simpa using executes)
      ((settleNdl_fault _).trans fault) ((settleNdl_exc _).trans exc) fvec⟩

variable {lo hi : Native} (low : LsIs s needle ((ndlOf s needle).pc / 4) lo) (high : LsIs s needle ((ndlOf s needle).pc / 4 + 1) hi)
  (word : w = hi.toNat * 2 ^ 72 + lo.toNat) (inside : horizInRange s needle ((ndlOf s needle).pc / 4) = true)
  (legal : horizOk hi.toNat lo.toNat = true) (quiet : Quiet s needle) {q : NWord} (datapath : ⟨bitsOf w 0 78, 0, 0, 0, 0⟩ = q)
  (mop : q.mop = 0) (unit : q.unit = 0)
  (met : bitsOf w 140 4 = 4 → ncond (settleNdl (ndlOf s needle)) (bitsOf w 121 4) = true)
include low high word inside legal quiet datapath mop unit met

/-- The word takes 2 NCLK and comes to the boundary that HSEQ names. -/
theorem horizWord_works :
    let a := (ndlOf s needle).pc / 4
    let next := horizNext (settleNdl (ndlOf s needle)) w a
    let z := issued q (bitsOf w 140 4 == 3) (bitsOf w 121 2) (settleNdl (ndlOf s needle))
    ∃ t, Becomes needle { z with
        st := .horiz, cyc := z.cyc + 2, busyCyc := z.busyCyc + 2, haltAsked := next.2 || z.haltAsked } s t ∧
      exec (.horizWordExecute needle) s =
        .next (if next.2 || z.haltAsked then enterHalt needle next.1 t else goPc needle next.1 t) := by
  dsimp only
  have settled := ndlSettle_becomes needle s
  have fault := (settleNdl_fault _).trans quiet.1
  have ok : q.ok = true := by
    rw [← datapath, word]
    exact horizOk_datapath legal
  have worked := settled.horizWorked (w := w) ok mop unit fault ((ndlOf s needle).pc / 4)
    (horizNext (settleNdl (ndlOf s needle)) w ((ndlOf s needle).pc / 4)).2
  refine ⟨_, worked, ?_⟩
  rw [exec_horizWordExecute_legal ready horiz zeroed low high inside legal, ← word,
    horizExec_works ok mop unit (by rw [settled.self]; exact fault) datapath met,
    worked.boundary_quiet needle.isLt quiet (settleNdl_fault _) (settleNdl_abort _) (settleNdl_ipend _)
      (issued_ipend.trans (settleNdl_ipend _))]

theorem horizWord_goes_on (onward : (horizNext (settleNdl (ndlOf s needle)) w ((ndlOf s needle).pc / 4)).2 = false) :
    Answers (.horizWordExecute needle) s fun t => Went s t needle
      (issued q (bitsOf w 140 4 == 3) (bitsOf w 121 2) (settleNdl (ndlOf s needle)))
      (horizNext (settleNdl (ndlOf s needle)) w ((ndlOf s needle).pc / 4)).1 := by
  obtain ⟨t, worked, runs⟩ := horizWord_works ready horiz zeroed low high word inside legal quiet datapath mop unit met
  rw [onward, issued_haltAsked, settleNdl_haltAsked, quiet.2.2.1] at runs
  rw [onward] at worked
  exact ⟨_, runs, worked.went rfl (Nat.lt_add_of_pos_right (by decide)) (fun _ => rfl) _⟩

theorem horizWord_halts (stop : (horizNext (settleNdl (ndlOf s needle)) w ((ndlOf s needle).pc / 4)).2 = true) :
    Answers (.horizWordExecute needle) s fun t => (ndlOf t needle).st = .halt ∧
      (ndlOf t needle).pc = (horizNext (settleNdl (ndlOf s needle)) w ((ndlOf s needle).pc / 4)).1 % 2 ^ 17 ∧
      (ndlOf t needle).exc = (ndlOf s needle).exc := by
  obtain ⟨t, worked, runs⟩ := horizWord_works ready horiz zeroed low high word inside legal quiet datapath mop unit met
  rw [stop] at runs
  refine ⟨_, runs, ?_⟩
  rw [if_pos (Bool.true_or _)]
  dsimp only
  rw [(worked.halts _).self]
  exact ⟨rfl, rfl, issued_exc.trans (settleNdl_exc _)⟩

end

end

/-- Settles O28, clause by clause: what the needle becomes in the word's cycles, and the boundary or the fault that follows. -/
theorem nanoAndHorizontalWordsDo : Obligations.NanoAndHorizontalWordsDo := by
  unfold Obligations.NanoAndHorizontalWordsDo
  intro needle w s n x y bank vectored at0 looped
  refine ⟨fun micro nano b bound full => microWord_starts_routine micro nano bound full,
    fun micro nano ⟨fault, exc, fvec⟩ b bound high invalid =>
      microWord_names_no_entry micro nano fault exc fvec (.inr ⟨b, bound, high, invalid⟩),
    fun micro nano ⟨fault, exc, fvec⟩ unbound noBank =>
      microWord_names_no_entry micro nano fault exc fvec (.inl ⟨unbound, noBank⟩),
    fun micro quiet control reserved exc => microWord_reserved micro quiet control reserved exc,
    fun ready r run => ⟨fun gap ⟨fault, exc, fvec⟩ => safegap_enters ready run gap fault exc fvec,
      fun cycles fault exc => nanorun_pends ready run cycles fault exc, ?_, ?_⟩,
    fun ready horiz zeroed => ⟨fun outside ⟨fault, exc, fvec⟩ => horizWord_outside ready horiz zeroed outside fault exc fvec, ?_⟩⟩
  · intro gap cycles damaged ⟨fault, exc, fvec⟩ base
    obtain ⟨t, runs, ⟨pc, exc, -, -, code, -⟩, bank, latched⟩ := nanoWord_damages ready run gap cycles damaged fault exc fvec base
    exact ⟨t, runs, exc, pc, bank, latched, code⟩
  · intro gap cycles parity word quiet q seq z
    refine ⟨nanoWord_waits ready run gap cycles parity word quiet, fun legal mop unit notReserved met => ?_⟩
    have issues : issued q (seq == 4) (bitsOf w 78 2) y = z := issued_eq ..
    rw [← issues]
    exact ⟨fun i => nanoWord_goes_on ready run gap cycles parity word quiet rfl legal mop unit notReserved met,
      nanoWord_ends ready run gap cycles parity word quiet rfl legal mop unit notReserved met⟩
  · intro lo hi low high word inside legal quiet q hseq z mop unit met
    have issues : issued q (hseq == 3) (bitsOf w 121 2) y = z := issued_eq ..
    rw [← issues]
    exact ⟨horizWord_goes_on ready horiz zeroed low high word inside legal quiet rfl mop unit met,
      horizWord_halts ready horiz zeroed low high word inside legal quiet rfl mop unit met⟩

end Sys2Proof.Machine

namespace Sys2Proof.Machine

/-! ### States that meet the hypotheses on nano-words and horizontal words -/

/-- Needle 0 is powered and stands as `x`, with FVEC set and the horizontal words 0 to 3 in range; local-store words 0
and 1 are `lo` and `hi`, and entry 0 of bank A, a valid bank with no customer half, is `e`. -/
def wordState (x : Ndl) (lo hi : Native) (e : BitVec 98) : State :=
  { standbyState with
    pwr := { standbyState.pwr with up := 1 }
    ndl := [(0, x)]
    mem := { Mem.reset with ls := [(0, lo), (1, hi)] }
    bank := [(0, { NanoBank.reset with st := .valid, entries := [(0, e)] })]
    bus := { Bus.reset with regs := [(regKey .NDL_CTL 0 0 0, 0x80000000), (regKey .NDL_HRANGE 0 0 0, 0x40000)] } }

/-- A needle bound to bank A in its routine's entry 0, after `cycles` nano-cycles, `gap` of them since a sampling point. -/
def inRoutine (cycles gap : Nat) : Ndl :=
  { Ndl.reset with st := .run, bound := some false, nano := some ⟨0, 0, 0, 0, cycles, gap⟩ }

/-- A needle at horizontal word `a`. -/
def atHoriz (a : Nat) : Ndl := { Ndl.reset with st := .horiz, pc := 4 * a + 3 }

theorem wordState_low (x : Ndl) (lo hi : Native) (e : BitVec 98) : LsIs (wordState x lo hi e) 0 0 lo := ⟨rfl, rfl⟩

theorem wordState_high (x : Ndl) (lo hi : Native) (e : BitVec 98) : LsIs (wordState x lo hi e) 0 1 hi := ⟨rfl, rfl⟩

theorem wordState_micro (bound : Option Bool) (lo hi : Native) (e : BitVec 98) :
    MicroAt (wordState { Ndl.reset with st := .run, bound := bound } lo hi e) 0 (bitsOf lo.toNat 0 24) := by
  have pc : (ndlOf (wordState { Ndl.reset with st := .run, bound := bound } lo hi e) 0).pc = 0 := rfl
  refine ⟨rfl, lo, ?_, ?_⟩
  · rw [pc]
    exact wordState_low ..
  · rw [pc]

/-- The N micro-word of entry 5 with MK = 9. -/
theorem wordState_starts_routine :
    Answers (.microWordExecute 0) (wordState { Ndl.reset with st := .run, bound := some false } 0xA009 0 0) fun t =>
      (ndlOf t 0).nano = some ⟨5, 5, 0, 0, 0, 0⟩ ∧ (ndlOf t 0).d = 9 := by
  obtain ⟨t, runs, nano, d, -⟩ := (nanoAndHorizontalWordsDo 0 _ _).1 (wordState_micro (some false) 0xA009 0 0) rfl false rfl
    (.inl (by decide))
  exact ⟨t, runs, nano, d⟩

/-- Entry 768 lies in the empty customer half. -/
theorem wordState_nempty :
    Answers (.microWordExecute 0) (wordState { Ndl.reset with st := .run, bound := some false } 0x600000 0 0) fun t =>
      (ndlOf t 0).exc = true ∧ rword t .NDL_FADDR_LO 0 0 0 = 768 := by
  obtain ⟨t, runs, -, exc, -, -, -, addr⟩ := (nanoAndHorizontalWordsDo 0 _ _).2.1 (wordState_micro (some false) 0x600000 0 0) rfl
    ⟨rfl, rfl, by decide⟩ false rfl (by decide) rfl
  exact ⟨t, runs, exc, addr⟩

/-- RETX while EXC = 0 is reserved. -/
theorem wordState_illop :
    Answers (.microWordExecute 0) (wordState { Ndl.reset with st := .run } 0xD00000 0 0) fun t =>
      (ndlOf t 0).fault = some (plainFault 1 0) := by
  obtain ⟨t, runs, went, -⟩ := (nanoAndHorizontalWordsDo 0 _ _).2.2.2.1 (wordState_micro none 0xD00000 0 0)
    ⟨rfl, rfl, rfl, by decide⟩ (by decide) (by decide) rfl
  exact ⟨t, runs, (congrArg Ndl.fault went).trans rfl⟩

theorem wordState_safegap : Answers (.safegap 0) (wordState (inRoutine 48 48) 0 0 0) fun t =>
    (ndlOf t 0).nano = none ∧ fld t F.NDL_FSTAT_CODE = 8 := by
  obtain ⟨t, runs, -, -, nano, -, code, -⟩ := ((nanoAndHorizontalWordsDo 0 0 (wordState (inRoutine 48 48) 0 0 0)).2.2.2.2.1
    rfl _ rfl).1 (by decide) ⟨rfl, rfl, by decide⟩
  exact ⟨t, runs, nano, code⟩

theorem wordState_nanorun : Answers (.nanorun 0) (wordState (inRoutine 4096 0) 0 0 0) fun t =>
    (ndlOf t 0).fault = some ⟨9, 0, 0, 0, 0⟩ := by
  obtain ⟨t, runs, fault, -⟩ := ((nanoAndHorizontalWordsDo 0 0 (wordState (inRoutine 4096 0) 0 0 0)).2.2.2.2.1
    rfl _ rfl).2.1 (by decide) rfl rfl
  exact ⟨t, runs, fault⟩

/-- An entry whose upper parity bit alone is set. -/
theorem wordState_damages : Answers (.nanoWordExecute 0) (wordState (inRoutine 0 0) 0 0 (2 ^ 97)) fun t =>
    (bankOf t 0 false).st = .damaged ∧ fld t F.NDL_FSTAT_CODE = 7 := by
  obtain ⟨t, runs, -, -, damaged, -, code⟩ := ((nanoAndHorizontalWordsDo 0 0 (wordState (inRoutine 0 0) 0 0 (2 ^ 97))).2.2.2.2.1
    rfl _ rfl).2.2.1 (by decide) (by decide) (by decide +kernel) ⟨rfl, rfl, by decide⟩ (by decide)
  exact ⟨t, runs, damaged, code⟩

/-- The word of zeros goes on at the next index. -/
theorem wordState_goes_on : Answers (.nanoWordExecute 0) (wordState (inRoutine 0 0) 0 0 0) fun t =>
    (ndlOf t 0).nano = some ⟨0, 1, 0, 0, 1, 1⟩ ∧ (ndlOf t 0).cyc = 1 := by
  obtain ⟨t, runs, gone, -⟩ := (((nanoAndHorizontalWordsDo 0 0 (wordState (inRoutine 0 0) 0 0 0)).2.2.2.2.1
    rfl _ rfl).2.2.2 (by decide) (by decide) (by decide +kernel) (by decide +kernel) ⟨rfl, rfl, rfl, by decide⟩).2
    (by decide) (by decide) (by decide) (by decide) nofun |>.1 1 rfl rfl rfl
  exact ⟨t, runs, congrArg Ndl.nano gone, (congrArg Ndl.cyc gone).trans rfl⟩

/-- SEQ = 1, RET: one set bit of the upper half, and its parity bit. -/
theorem wordState_ends : Answers (.nanoWordExecute 0) (wordState (inRoutine 0 0) 0 0 (2 ^ 93 + 2 ^ 97)) fun t =>
    (ndlOf t 0).nano = none ∧ (ndlOf t 0).pc = 1 := by
  obtain ⟨t, runs, went, -⟩ := (((nanoAndHorizontalWordsDo 0 (2 ^ 93) (wordState (inRoutine 0 0) 0 0 (2 ^ 93 + 2 ^ 97))).2.2.2.2.1
    rfl _ rfl).2.2.2 (by decide) (by decide) (by decide +kernel) (by decide +kernel) ⟨rfl, rfl, rfl, by decide⟩).2
    (by decide) (by decide) (by decide) (by decide) nofun |>.2 rfl
  exact ⟨t, runs, congrArg Ndl.nano went, (congrArg Ndl.pc went).trans rfl⟩

/-- SEQ = 6, WAITU, for a digest bit that is clear. -/
theorem wordState_waits : Answers (.nanoWordExecute 0) (wordState (inRoutine 7 7) 0 0 (3 * 2 ^ 94)) fun t =>
    (ndlOf t 0).st = .stall ∧ (ndlOf t 0).nano = some ⟨0, 0, 0, 0, 7, 0⟩ := by
  obtain ⟨t, runs, st, -, -, nano⟩ := (((nanoAndHorizontalWordsDo 0 (3 * 2 ^ 94) (wordState (inRoutine 7 7) 0 0 (3 * 2 ^ 94))).2.2.2.2.1
    rfl _ rfl).2.2.2 (by decide) (by decide) (by decide +kernel) (by decide +kernel) ⟨rfl, rfl, rfl, by decide⟩).1
    (by decide) (by decide)
  exact ⟨t, runs, st, nano⟩

theorem wordState_hrange : Answers (.horizWordExecute 0) (wordState (atHoriz 4) 0 0 0) fun t =>
    fld t F.NDL_FSTAT_CODE = 0xA ∧ rword t .NDL_FADDR_LO 0 0 0 = 4 := by
  obtain ⟨t, runs, -, -, -, -, code, addr⟩ := ((nanoAndHorizontalWordsDo 0 0 (wordState (atHoriz 4) 0 0 0)).2.2.2.2.2
    rfl rfl rfl).1 (by decide) ⟨rfl, rfl, by decide⟩
  exact ⟨t, runs, code, addr⟩

theorem wordState_horiz_goes_on : Answers (.horizWordExecute 0) (wordState (atHoriz 0) 0 0 0) fun t =>
    (ndlOf t 0).pc = 11 ∧ (ndlOf t 0).st = .horiz := by
  obtain ⟨t, runs, went, -⟩ := (((nanoAndHorizontalWordsDo 0 0 (wordState (atHoriz 0) 0 0 0)).2.2.2.2.2
    rfl rfl rfl).2 0 0 (wordState_low ..) (wordState_high ..) rfl (by decide) (by decide) ⟨rfl, rfl, rfl, by decide⟩
    (by decide) (by decide) nofun).1 rfl
  exact ⟨t, runs, (congrArg Ndl.pc went).trans rfl, (congrArg Ndl.st went).trans rfl⟩

/-- HSEQ = 6, STOP, in the upper of the two local-store words. -/
theorem wordState_horiz_stops : Answers (.horizWordExecute 0) (wordState (atHoriz 0) 0 0x600000000000000000 0) fun t =>
    (ndlOf t 0).st = .halt ∧ (ndlOf t 0).pc = 11 := by
  obtain ⟨t, runs, st, pc, -⟩ := (((nanoAndHorizontalWordsDo 0 (6 * 2 ^ 140)
    (wordState (atHoriz 0) 0 0x600000000000000000 0)).2.2.2.2.2 rfl rfl rfl).2 0 0x600000000000000000
    (wordState_low ..) (wordState_high ..) (by decide) (by decide) (by decide) ⟨rfl, rfl, rfl, by decide⟩
    (by decide) (by decide) (by decide)).2 (by decide)
  exact ⟨t, runs, st, pc⟩

end Sys2Proof.Machine

/-! O25: what each control micro-word does when its boundary has nothing to take (spec/05 R214-R222, R243-R257, R276). -/

namespace Sys2Proof.Machine

/-! ### A boundary without events (R215, R218) -/

/-- Fewer pending inputs hold no enabled one where the more held none. -/
theorem firstIrq_of_fewer {s : State} {n p : Nat} (none_enabled : firstIrq s n p = none) (q : Nat) :
    firstIrq s n (p &&& q) = none := by
  unfold firstIrq at *
  rw [List.head?_eq_none_iff, List.filter_eq_nil_iff] at *
  intro i hi pending
  refine none_enabled i hi ?_
  simp only [bitAt_eq_testBit, Nat.testBit_and, Bool.and_eq_true] at *
  exact ⟨pending.1.1, pending.2⟩

/-- Whatever the micro-word left pending, nothing that stood pending at its start is taken. -/
theorem boundary_eventless {n next : Nat} {x0 : Ndl} {t : State} (fault : x0.fault = none) (abort : x0.abort = none)
    (irq : firstIrq t n x0.ipend = none) :
    boundary n x0 next t = if (ndlOf t n).haltAsked then enterHalt n next t else goPc n next t :=
  boundary_rest fault (.inr ⟨abort, firstIrq_of_fewer irq _⟩)

theorem Went.of_others {s u t : State} {n pc : Nat} {y : Ndl} (h : Went u t n y pc)
    (others : ∀ m, m ≠ n → ndlOf u m = ndlOf s m) : Went s t n y pc := by
  obtain ⟨self, later, bound, beside⟩ := h
  exact ⟨self, later, bound, fun m hm => (beside m hm).trans (others m hm)⟩

/-- The needle `y` while a micro-word fetched in `s` executes: in RUN, bound to a bank if there is one (R206). -/
def executing (s : State) (n : Nat) (y : Ndl) : Ndl := { y with st := .run, bound := (fetched s n).bound }

/-- From `s` to `u` a micro-word had its effect, and left the needle as `y`. -/
structure Executed (n : Nat) (y : Ndl) (s u : State) : Prop where
  self : ndlOf u n = executing s n y
  others : ∀ m, m ≠ n → ndlOf u m = ndlOf s m
  regs : RegsBut wakeWords s u

theorem Becomes.executed {n : Nat} {y : Ndl} {s u : State} (h : Becomes n (executing s n y) s u) : Executed n y s u :=
  ⟨h.self, h.others, h.regs⟩

/-- A micro-word without an effect. -/
theorem microStart_executed (n : Nat) (s : State) : Executed n (settleNdl (ndlOf s n)) s (microStart n s) :=
  Becomes.executed (microStart_becomes n s)

/-- One NCLK later a needle that executed goes on to a micro PC. -/
theorem Executed.went {n : Nat} {y : Ndl} {s u : State} (h : Executed n y s u) (bound : y.bound = (settleNdl (ndlOf s n)).bound)
    (pc : Nat) : Went s (goPc n pc (ndlTick n 1 u)) n y pc := by
  have ticked := (Becomes.refl n u).tick 1
  rw [h.self] at ticked
  refine (ticked.went (y := y) rfl (Nat.lt_succ_self _) (fun isBound => ?_) pc).of_others h.others
  obtain ⟨b, hb⟩ := Option.isSome_iff_exists.mp isBound
  exact (fetched_bound (bound.symm.trans hb)).trans hb.symm

section
variable {n : Nat} (hn : n < 128) {y : Ndl} {s u : State} (h : Executed n y s u) (quiet : Quiet s n)
include hn h quiet

/-- With nothing pending when the micro-word was fetched, it ends with the HALT that was asked, or goes on. -/
theorem Executed.boundary (next : Nat) : boundary n (fetched s n) next (ndlTick n 1 u) =
    if y.haltAsked then enterHalt n next (ndlTick n 1 u) else goPc n next (ndlTick n 1 u) := by
  obtain ⟨fault, abort, -, irq⟩ := quiet
  have ticked := (Becomes.refl n u).tick 1
  have unobserved : firstIrq (ndlTick n 1 u) n (fetched s n).ipend = none :=
    (firstIrq_kept (h.regs.trans ticked.regs) hn _).trans ((congrArg (firstIrq s n) (settleNdl_ipend _)).trans irq)
  rw [boundary_eventless (x0 := fetched s n) ((settleNdl_fault _).trans fault) ((settleNdl_abort _).trans abort) unobserved,
    ticked.self, h.self]
  rfl

theorem Executed.boundary_goes_on (halt : y.haltAsked = (settleNdl (ndlOf s n)).haltAsked) (next : Nat) :
    Machine.boundary n (fetched s n) next (ndlTick n 1 u) = goPc n next (ndlTick n 1 u) := by
  rw [h.boundary hn quiet, halt, settleNdl_haltAsked, quiet.2.2.1]
  exact if_neg nofun

end

/-! ### Stalled micro-words (R212, R217) -/

/-- The needle, `y` before, stays at its micro PC for one stalled cycle. -/
def Stalled (n : Nat) (y : Ndl) (t : State) : Prop :=
  (ndlOf t n).st = .stall ∧ (ndlOf t n).pc = y.pc ∧ (ndlOf t n).stallCyc = y.stallCyc + 1 ∧ (ndlOf t n).cyc = y.cyc + 1

/-- With no event pending the sampling point of a stalled cycle takes nothing (R217). -/
theorem microStart_stalls {n : Nat} {s : State} (quiet : Quiet s n) :
    Stalled n (settleNdl (ndlOf s n)) (stallCycle n (microStart n s)) := by
  obtain ⟨fault, abort, halt, -⟩ := quiet
  unfold Stalled
  rw [((microStart_becomes n s).stalls ((settleNdl_fault _).trans fault) ((settleNdl_abort _).trans abort)
    ((settleNdl_haltAsked _).trans halt)).self]
  exact ⟨rfl, rfl, rfl, rfl⟩

/-! ### Control micro-words that always complete (R219, R247) -/

section
variable {needle : Fin 128} {w op pc : Nat} {s : State} {act : Nat → Ndl → State → State × Nat}
  (micro : MicroAt s needle w) (quiet : Quiet s needle) (control : bitAt w 23 = true)
  (legal : controlOk (settleNdl (ndlOf s needle)) w = true) (code : bitsOf w 19 4 = op)
include micro quiet control legal code

/-- A control micro-word that leaves the needle as `y` ends with the HALT that was asked, or goes on. -/
theorem microControl_ends {y : Ndl} {u : State} (left : Executed needle y s u)
    (effect : act w (fetched s needle) (microStart needle s) = (u, pc)) :
    microControl needle op act s =
      if y.haltAsked then enterHalt needle pc (ndlTick needle 1 u) else goPc needle pc (ndlTick needle 1 u) := by
  rw [microControl_acts micro control legal code, effect]
  dsimp only
  rw [if_neg (by rw [left.self]; exact nofun)]
  exact left.boundary needle.isLt quiet pc

/-- A control micro-word that asks for no HALT goes on. -/
theorem microControl_goes_on {y : Ndl} {u : State} (left : Executed needle y s u)
    (effect : act w (fetched s needle) (microStart needle s) = (u, pc))
    (halt : y.haltAsked = (settleNdl (ndlOf s needle)).haltAsked) (bound : y.bound = (settleNdl (ndlOf s needle)).bound) :
    Went s (microControl needle op act s) needle y pc := by
  rw [microControl_ends micro quiet control legal code left effect, halt, settleNdl_haltAsked, quiet.2.2.1]
  exact left.went bound pc

/-- A control micro-word that only names the micro PC to go to. -/
theorem microControl_transfers (effect : act w (fetched s needle) (microStart needle s) = (microStart needle s, pc)) :
    Went s (microControl needle op act s) needle (settleNdl (ndlOf s needle)) pc :=
  microControl_goes_on micro quiet control legal code (microStart_executed ..) effect rfl rfl

/-- A control micro-word that changes the needle alone, which becomes `y`. -/
theorem microControl_updates {y : Ndl} (f : Ndl → Ndl)
    (effect : act w (fetched s needle) (microStart needle s) = (modNdl needle f (microStart needle s), pc))
    (updated : f (fetched s needle) = executing s needle y) (halt : y.haltAsked = (settleNdl (ndlOf s needle)).haltAsked)
    (bound : y.bound = (settleNdl (ndlOf s needle)).bound) : Went s (microControl needle op act s) needle y pc := by
  have left := (microStart_becomes needle s).modNdl f
  rw [updated] at left
  exact microControl_goes_on micro quiet control legal code left.executed effect halt bound

/-- A control micro-word that issues results (R239). -/
theorem microControl_issues (l : List (Nat × NdlDst × Nat))
    (effect : act w (fetched s needle) (microStart needle s) = (microIssue needle l (microStart needle s), pc)) :
    Went s (microControl needle op act s) needle (issue l (settleNdl (ndlOf s needle))) pc := by
  have noFault : ¬(ndlOf (microStart needle s) needle).fault.isSome = true := by
    rw [(microStart_becomes needle s).self]
    exact Option.not_isSome_iff_eq_none.mpr ((settleNdl_fault _).trans quiet.1)
  rw [microIssue, if_neg noFault] at effect
  exact microControl_updates micro quiet control legal code (issue l) effect rfl rfl rfl

/-- A control micro-word that raises a fault goes on with the fault pending (R219). -/
theorem microControl_faults (f : NdlFault) (exc : (settleNdl (ndlOf s needle)).exc = false)
    (effect : act w (fetched s needle) (microStart needle s) = (raiseFault needle f (microStart needle s), pc)) :
    Went s (microControl needle op act s) needle { settleNdl (ndlOf s needle) with fault := some f } pc := by
  have started := (microStart_becomes needle s).self
  rw [raiseFault_pends f (by rw [started]; exact nofun) (by rw [started]; exact (settleNdl_fault _).trans quiet.1)
    (by rw [started]; exact exc)] at effect
  exact microControl_updates micro quiet control legal code _ effect rfl rfl rfl

end

/-! ### The words that stop, wait or report (R253, R257) -/

/-- The inputs that WAIT clears: with ACK, those that it observes pending and that are not enabled (R253). -/
def acknowledged (s : State) (n w : Nat) : Nat :=
  let hit := (settleNdl (ndlOf s n)).ipend &&& bitsOf w 0 8
  if bitAt w 8 then hit - (hit &&& fld s F.NDL_CTL_IMASK n) else 0

@[simp] theorem patOf_modPat_same (p : Nat) (f : Pat → Pat) (s : State) : patOf (modPat p f s) p = f (patOf s p) :=
  tabGet_tabMod_same ..

/-- A report of the pattern in slot `p`: the 72 bits of Vv join its queue (R257, R408). -/
def gnoted (n w p : Nat) (s : State) : State :=
  modPat p (fun q => { q with reports := q.reports ++ [BitVec.ofNat 72 (rdV (settleNdl (ndlOf s n)) (bitsOf w 0 5))] })
    (microStart n s)

theorem gnoted_executed (n w p : Nat) (s : State) : Executed n (settleNdl (ndlOf s n)) s (gnoted n w p s) := by
  obtain ⟨self, others, regs⟩ := microStart_executed n s
  have ndl : (gnoted n w p s).ndl = (microStart n s).ndl := modPat_ndl ..
  exact ⟨(ndlOf_congr ndl n).trans self, fun m hm => (ndlOf_congr ndl m).trans (others m hm),
    regs.same (congrArg Bus.regs (modPat_bus ..))⟩

theorem gnoted_reports (n w p : Nat) (s : State) : (patOf (gnoted n w p s) p).reports =
    (patOf s p).reports ++ [BitVec.ofNat 72 (rdV (settleNdl (ndlOf s n)) (bitsOf w 0 5))] := by
  rw [gnoted, patOf_modPat_same, patOf, (microStart_becomes n s).pat, ← patOf]

section
variable {needle : Fin 128} {w : Nat} {s : State} (micro : MicroAt s needle w)
  (quiet : Quiet s needle) (control : bitAt w 23 = true) (legal : controlOk (settleNdl (ndlOf s needle)) w = true)
include micro quiet control legal

/-- STOP is a HALT asked within its own cycle. -/
theorem microStop_halts (code : bitsOf w 19 4 = 13) : Answers (.microStop needle) s fun t => (ndlOf t needle).st = .halt ∧
    (ndlOf t needle).pc = nextPc (settleNdl (ndlOf s needle)).pc % 2 ^ 17 ∧
    (ndlOf t needle).exc = (settleNdl (ndlOf s needle)).exc := by
  have left : Becomes needle (executing s needle { settleNdl (ndlOf s needle) with haltAsked := true }) s _ :=
    (microStart_becomes needle s).modNdl fun x => { x with haltAsked := true }
  refine ⟨_, rfl, ?_⟩
  rw [microControl_ends micro quiet control legal code left.executed rfl]
  dsimp only
  rw [if_pos rfl, ((left.tick 1).halts _).self]
  exact ⟨rfl, rfl, rfl⟩

omit quiet in
theorem exec_microWait (code : bitsOf w 19 4 = 9) :
    exec (.microWait needle) s = .next (if (settleNdl (ndlOf s needle)).ipend &&& bitsOf w 0 8 = 0
      then stallCycle needle (microStart needle s)
      else boundary needle (fetched s needle) (nextPc (settleNdl (ndlOf s needle)).pc)
        (ndlTick needle 1 (clearInputs needle (acknowledged s needle w) (microStart needle s)))) := by
  have started := microStart_becomes needle s
  show execMicroWait needle s = _
  unfold execMicroWait
  dsimp only
  rw [microFetch_acts micro (by simp [control, legal, code]), started.self,
    started.regs.fld (f := F.NDL_CTL_IMASK) (ndlWord_not_woken rfl (by decide) needle.isLt)]
  rfl

theorem microWait_stalls (code : bitsOf w 19 4 = 9) (idle : (settleNdl (ndlOf s needle)).ipend &&& bitsOf w 0 8 = 0) :
    Answers (.microWait needle) s (Stalled needle (settleNdl (ndlOf s needle))) := by
  refine ⟨_, exec_microWait micro control legal code, ?_⟩
  rw [if_pos idle]
  exact microStart_stalls quiet

/-- WAIT that observes an input goes on. -/
theorem microWait_goes_on (code : bitsOf w 19 4 = 9) (observed : (settleNdl (ndlOf s needle)).ipend &&& bitsOf w 0 8 ≠ 0) :
    let y := settleNdl (ndlOf s needle)
    Answers (.microWait needle) s fun t => Went s t needle
      { y with ipend := y.ipend - (y.ipend &&& acknowledged s needle w) } (nextPc y.pc) := by
  intro y
  have left : Becomes needle (executing s needle { y with ipend := y.ipend - (y.ipend &&& acknowledged s needle w) }) s _ :=
    (microStart_becomes needle s).clearInputs (acknowledged s needle w)
  refine ⟨_, exec_microWait micro control legal code, ?_⟩
  rw [if_neg observed, left.executed.boundary_goes_on needle.isLt quiet rfl]
  exact left.executed.went rfl _

omit quiet in
theorem exec_microGnote_unplaced (code : bitsOf w 19 4 = 14) (unplaced : (settleNdl (ndlOf s needle)).slot = none) :
    exec (.microGnote needle) s = .next (boundary needle (fetched s needle) (nextPc (settleNdl (ndlOf s needle)).pc)
      (microEnd needle s)) := by
  have slot : (fetched s needle).slot = none := unplaced
  show execMicroGnote needle s = _
  unfold execMicroGnote
  dsimp only
  rw [microFetch_acts micro (by simp [control, legal, code]), (microStart_becomes needle s).self, slot]
  rfl

theorem exec_microGnote_placed (code : bitsOf w 19 4 = 14) {p : Nat} (placed : (settleNdl (ndlOf s needle)).slot = some p) :
    exec (.microGnote needle) s = .next (if (patOf s p).reports.length < 32 then
        boundary needle (fetched s needle) (nextPc (settleNdl (ndlOf s needle)).pc) (ndlTick needle 1 (gnoted needle w p s))
      else stallCycle needle (microStart needle s)) := by
  have started := microStart_becomes needle s
  have slot : (fetched s needle).slot = some p := placed
  have fault : (fetched s needle).fault = none := (settleNdl_fault _).trans quiet.1
  have queue : patOf (microStart needle s) p = patOf s p := by rw [patOf, started.pat, patOf]
  show execMicroGnote needle s = _
  unfold execMicroGnote
  dsimp only
  rw [microFetch_acts micro (by simp [control, legal, code]), started.self, slot]
  dsimp only
  rw [fault, reportsFull, queue]
  by_cases room : (patOf s p).reports.length < 32
  · rw [if_pos room, if_neg (by simpa using room)]
    rfl
  · rw [if_neg room, if_pos (by simpa using room)]

/-- GNOTE of a needle that serves no slot only goes on. -/
theorem microGnote_unplaced (code : bitsOf w 19 4 = 14) (unplaced : (settleNdl (ndlOf s needle)).slot = none) :
    Answers (.microGnote needle) s fun t =>
      Went s t needle (settleNdl (ndlOf s needle)) (nextPc (settleNdl (ndlOf s needle)).pc) := by
  have left := microStart_executed needle s
  refine ⟨_, exec_microGnote_unplaced micro control legal code unplaced, ?_⟩
  rw [microEnd, left.boundary_goes_on needle.isLt quiet rfl]
  exact left.went rfl _

theorem microGnote_stalls (code : bitsOf w 19 4 = 14) {p : Nat} (placed : (settleNdl (ndlOf s needle)).slot = some p)
    (full : ¬(patOf s p).reports.length < 32) :
    Answers (.microGnote needle) s (Stalled needle (settleNdl (ndlOf s needle))) := by
  refine ⟨_, exec_microGnote_placed micro quiet control legal code placed, ?_⟩
  rw [if_neg full]
  exact microStart_stalls quiet

theorem microGnote_reports (code : bitsOf w 19 4 = 14) {p : Nat} (placed : (settleNdl (ndlOf s needle)).slot = some p)
    (room : (patOf s p).reports.length < 32) : Answers (.microGnote needle) s fun t =>
      Went s t needle (settleNdl (ndlOf s needle)) (nextPc (settleNdl (ndlOf s needle)).pc) ∧
      (patOf t p).reports = (patOf s p).reports ++
        [BitVec.ofNat 72 (rdV (settleNdl (ndlOf s needle)) (bitsOf w 0 5))] := by
  refine ⟨_, exec_microGnote_placed micro quiet control legal code placed, ?_⟩
  have left := gnoted_executed needle w p s
  rw [if_pos room, left.boundary_goes_on needle.isLt quiet rfl]
  refine ⟨left.went rfl _, ?_⟩
  obtain ⟨_, gone⟩ := ((Becomes.refl needle (gnoted needle w p s)).tick 1).goPc (nextPc (settleNdl (ndlOf s needle)).pc)
  rw [patOf, gone.pat, ← patOf, gnoted_reports]

end

/-- Settles O25: a word without an event at its boundary goes on from what its opcode leaves of the needle, stalls, or stops. -/
theorem microWordsDo : Obligations.MicroWordsDo := by
  unfold Obligations.MicroWordsDo
  intro needle w s n y next op go stalled clr micro quiet control legal
  refine ⟨fun code => ?nop, fun code => ?jump, fun code room => ?call, fun code full exc => ?callFull,
    fun code p l stack => ?ret, fun code empty exc => ?retEmpty, fun code => ?dispatch, fun code zero => ?loopDone,
    fun code c count => ?loop, fun code => ?setlc, fun code => ?seta, fun code => ?mova,
    fun code => microWait_stalls micro quiet control legal code,
    fun code => microWait_goes_on micro quiet control legal code, fun code => ?rete, fun code => ?horiz, fun code exc => ?trap,
    fun code => microStop_halts micro quiet control legal code,
    fun code => microGnote_unplaced micro quiet control legal code,
    fun code p placed => microGnote_reports micro quiet control legal code placed,
    fun code p placed => microGnote_stalls micro quiet control legal code placed⟩
  case nop => exact ⟨_, rfl, microControl_transfers micro quiet control legal code rfl⟩
  case jump => exact ⟨_, rfl, microControl_transfers micro quiet control legal code rfl⟩
  case dispatch => exact ⟨_, rfl, microControl_transfers micro quiet control legal code rfl⟩
  case call =>
    exact ⟨_, rfl, microControl_updates micro quiet control legal code _ (if_neg (Nat.not_le.mpr room)) rfl rfl rfl⟩
  case callFull =>
    exact ⟨_, rfl, microControl_faults micro quiet control legal code _ exc (if_pos (Nat.not_lt.mp full))⟩
  case ret =>
    have held : (fetched s n).stack = p :: l := stack
    exact ⟨_, rfl, microControl_updates micro quiet control legal code (fun x => { x with stack := l })
      (by rw [held]) rfl rfl rfl⟩
  case retEmpty =>
    have held : (fetched s n).stack = [] := empty
    exact ⟨_, rfl, microControl_faults micro quiet control legal code (plainFault 5 y.pc) exc (by rw [held]; rfl)⟩
  case loopDone =>
    have held : rdLc (fetched s n) (bitsOf w 17 2) = 0 := zero
    exact ⟨_, rfl, microControl_issues micro quiet control legal code [] (by dsimp only; rw [held]; rfl)⟩
  case loop =>
    have held : rdLc (fetched s n) (bitsOf w 17 2) = c + 1 := count
    refine ⟨_, rfl, microControl_issues micro quiet control legal code [(1, .lc (bitsOf w 17 2), c)] ?_⟩
    dsimp only
    rw [held]
    cases c with
    | zero => rfl
    | succ c => rfl
  case setlc => exact ⟨_, rfl, microControl_issues micro quiet control legal code _ rfl⟩
  case seta => exact ⟨_, rfl, microControl_issues micro quiet control legal code _ rfl⟩
  case mova => exact ⟨_, rfl, microControl_issues micro quiet control legal code _ rfl⟩
  case rete => exact ⟨_, rfl, microControl_updates micro quiet control legal code _ rfl rfl rfl rfl⟩
  case horiz => exact ⟨_, rfl, microControl_updates micro quiet control legal code _ rfl rfl rfl rfl⟩
  case trap => exact ⟨_, rfl, microControl_faults micro quiet control legal code _ exc rfl⟩

/-! ### States that meet the statement's hypotheses -/

/-- Needle 0 is powered and stands as `x`, with FVEC and input 5 enabled; its micro-word 0 is `w`, and the reports of
pattern slot 0 are `reports`. -/
def controlState (x : Ndl) (w : Native) (reports : List Native) : State :=
  { nopState x with
    mem := { Mem.reset with ls := [(0, w)] }
    pat := [(0, { Pat.reset with reports := reports })] }

/-- A needle of pattern slot 0 at micro PC 0. -/
def atControl (exc : Bool) (stack : List Nat) (lc : Tab Nat) (ipend : Nat) : Ndl :=
  { Ndl.reset with st := .run, slot := some 0, exc := exc, epc := 9, stack := stack, lc := lc, ipend := ipend }

theorem controlState_micro (exc : Bool) (stack : List Nat) (lc : Tab Nat) (ipend : Nat) (w : Native) (reports : List Native) :
    MicroAt (controlState (atControl exc stack lc ipend) w reports) 0 (bitsOf w.toNat 0 24) := by
  have pc : (ndlOf (controlState (atControl exc stack lc ipend) w reports) 0).pc = 0 := rfl
  refine ⟨rfl, w, ?_, ?_⟩
  · rw [pc]
    exact ⟨rfl, rfl⟩
  · rw [pc]

theorem controlState_quiet {exc : Bool} {stack : List Nat} {lc : Tab Nat} {ipend : Nat} {w : Native} {reports : List Native}
    (unenabled : firstIrq (nopState .reset) 0 ipend = none) :
    Quiet (controlState (atControl exc stack lc ipend) w reports) 0 := ⟨rfl, rfl, rfl, unenabled⟩

/-- CALL 16 with seven entries on the stack. -/
theorem controlState_calls :
    Answers (.microCall 0) (controlState (atControl false [1, 2, 4, 5, 6, 8, 9] [] 0) 0x900010 []) fun t =>
      (ndlOf t 0).stack = [1, 1, 2, 4, 5, 6, 8, 9] ∧ (ndlOf t 0).pc = 16 := by
  obtain ⟨-, -, call, -⟩ :=
    microWordsDo 0 _ _ (controlState_micro false [1, 2, 4, 5, 6, 8, 9] [] 0 0x900010 [])
      (controlState_quiet (by decide)) rfl (by decide)
  obtain ⟨t, runs, went, -⟩ := call (by decide) (by decide)
  exact ⟨t, runs, (congrArg Ndl.stack went).trans rfl, (congrArg Ndl.pc went).trans rfl⟩

/-- The same with eight. -/
theorem controlState_call_overflows :
    Answers (.microCall 0) (controlState (atControl false [0, 1, 2, 4, 5, 6, 8, 9] [] 0) 0x900010 []) fun t =>
      (ndlOf t 0).fault = some (plainFault 5 0) ∧ (ndlOf t 0).stack = [0, 1, 2, 4, 5, 6, 8, 9] := by
  obtain ⟨-, -, -, full, -⟩ :=
    microWordsDo 0 _ _ (controlState_micro false [0, 1, 2, 4, 5, 6, 8, 9] [] 0 0x900010 [])
      (controlState_quiet (by decide)) rfl (by decide)
  obtain ⟨t, runs, went, -⟩ := full (by decide) (by decide) rfl
  exact ⟨t, runs, (congrArg Ndl.fault went).trans rfl, (congrArg Ndl.stack went).trans rfl⟩

theorem controlState_returns : Answers (.microRet 0) (controlState (atControl false [9] [] 0) 0x980000 []) fun t =>
    (ndlOf t 0).stack = [] ∧ (ndlOf t 0).pc = 9 := by
  obtain ⟨-, -, -, -, ret, -⟩ :=
    microWordsDo 0 _ _ (controlState_micro false [9] [] 0 0x980000 []) (controlState_quiet (by decide)) rfl (by decide)
  obtain ⟨t, runs, went, -⟩ := ret (by decide) 9 [] rfl
  exact ⟨t, runs, (congrArg Ndl.stack went).trans rfl, (congrArg Ndl.pc went).trans rfl⟩

/-- LOOP on LC0 = 1 to 16: the decrement to 0 is issued, and the needle does not branch. -/
theorem controlState_loop_ends : Answers (.microLoop 0) (controlState (atControl false [] [(0, 1)] 0) 0xA80010 []) fun t =>
    (ndlOf t 0).writes = [⟨1, .lc 0, 0⟩] ∧ (ndlOf t 0).pc = 1 := by
  obtain ⟨-, -, -, -, -, -, -, -, loop, -⟩ :=
    microWordsDo 0 _ _ (controlState_micro false [] [(0, 1)] 0 0xA80010 []) (controlState_quiet (by decide)) rfl (by decide)
  obtain ⟨t, runs, went, -⟩ := loop (by decide) 0 rfl
  exact ⟨t, runs, (congrArg Ndl.writes went).trans rfl, (congrArg Ndl.pc went).trans rfl⟩

/-- WAIT for inputs 2 and 5 while 3 is pending. -/
theorem controlState_waits : Answers (.microWait 0) (controlState (atControl false [] [] 8) 0xC80124 []) fun t =>
    (ndlOf t 0).st = .stall ∧ (ndlOf t 0).stallCyc = 1 := by
  obtain ⟨-, -, -, -, -, -, -, -, -, -, -, -, wait, -⟩ :=
    microWordsDo 0 _ _ (controlState_micro false [] [] 8 0xC80124 []) (controlState_quiet (by decide)) rfl (by decide)
  obtain ⟨t, runs, st, -, stallCyc, -⟩ := wait (by decide) (by decide)
  exact ⟨t, runs, st, stallCyc⟩

/-- WAIT with ACK for inputs 3 and 5 while 2 and 3 are pending clears 3. -/
theorem controlState_acknowledges : Answers (.microWait 0) (controlState (atControl false [] [] 12) 0xC80128 []) fun t =>
    (ndlOf t 0).ipend = 4 ∧ (ndlOf t 0).pc = 1 := by
  obtain ⟨-, -, -, -, -, -, -, -, -, -, -, -, -, wait, -⟩ :=
    microWordsDo 0 _ _ (controlState_micro false [] [] 12 0xC80128 []) (controlState_quiet (by decide)) rfl (by decide)
  obtain ⟨t, runs, went, -⟩ := wait (by decide) (by decide)
  exact ⟨t, runs, (congrArg Ndl.ipend went).trans rfl, (congrArg Ndl.pc went).trans rfl⟩

theorem controlState_returns_from_event : Answers (.microRete 0) (controlState (atControl true [] [] 0) 0xD00000 []) fun t =>
    (ndlOf t 0).exc = false ∧ (ndlOf t 0).pc = 9 := by
  obtain ⟨-, -, -, -, -, -, -, -, -, -, -, -, -, -, rete, -⟩ :=
    microWordsDo 0 _ _ (controlState_micro true [] [] 0 0xD00000 []) (controlState_quiet (by decide)) rfl (by decide)
  obtain ⟨t, runs, went, -⟩ := rete (by decide)
  exact ⟨t, runs, (congrArg Ndl.exc went).trans rfl, (congrArg Ndl.pc went).trans rfl⟩

/-- GNOTE of V0 with 31 reports queued. -/
theorem controlState_reports :
    Answers (.microGnote 0) (controlState (atControl false [] [] 0) 0xF00000 (List.replicate 31 7)) fun t =>
      (patOf t 0).reports = List.replicate 31 7 ++ [0] ∧ (ndlOf t 0).pc = 1 := by
  obtain ⟨-, -, -, -, -, -, -, -, -, -, -, -, -, -, -, -, -, -, -, gnote, -⟩ :=
    microWordsDo 0 _ _ (controlState_micro false [] [] 0 0xF00000 (List.replicate 31 7))
      (controlState_quiet (by decide)) rfl (by decide)
  obtain ⟨t, runs, ⟨went, -⟩, reports⟩ := gnote (by decide) 0 rfl (by decide)
  exact ⟨t, runs, reports, (congrArg Ndl.pc went).trans rfl⟩

/-- The same with 32. -/
theorem controlState_report_stalls :
    Answers (.microGnote 0) (controlState (atControl false [] [] 0) 0xF00000 (List.replicate 32 7)) fun t =>
      (ndlOf t 0).st = .stall ∧ (ndlOf t 0).pc = 0 := by
  obtain ⟨-, -, -, -, -, -, -, -, -, -, -, -, -, -, -, -, -, -, -, -, gnote⟩ :=
    microWordsDo 0 _ _ (controlState_micro false [] [] 0 0xF00000 (List.replicate 32 7))
      (controlState_quiet (by decide)) rfl (by decide)
  obtain ⟨t, runs, st, pc, -⟩ := gnote (by decide) 0 rfl (by decide)
  exact ⟨t, runs, st, pc⟩

end Sys2Proof.Machine

/-! O30: the four operations of the Stalls, revocation and the enabling of a pool (spec/12 R507-R526). -/

namespace Sys2Proof.Machine

/-! ### A requester's copies of register words -/

theorem rwordQ_setRwordQ (r : Reg) (req fr i w v : Nat) (s : State) :
    rwordQ (setRwordQ r req fr i w v s) r req fr i w = v % 2 ^ 32 := by
  have h := regReset_lt r i w
  show ((tabFind (tabSet _ s.bus.regs _ _) _).map BitVec.toNat).getD _ = _
  rw [tabFind_tabSet, if_pos rfl]
  split
  · next e =>
    have atReset := congrArg BitVec.toNat e
    rw [BitVec.toNat_ofNat, BitVec.toNat_ofNat, Nat.mod_eq_of_lt h] at atReset
    exact atReset.symm
  · exact BitVec.toNat_ofNat ..

theorem rwordQ_setRwordQ_word {r : Reg} {req fr i w w' v : Nat} {s : State} (h : w' ≠ w) :
    rwordQ (setRwordQ r req fr i w v s) r req fr i w' = rwordQ s r req fr i w' := by
  have apart : copyKey req (regKey r fr i w') ≠ copyKey req (regKey r fr i w) := fun e =>
    regKey_word h (Nat.add_left_cancel e)
  show ((tabFind (tabSet _ s.bus.regs _ _) _).map BitVec.toNat).getD _ = _
  rw [tabFind_tabSet, if_neg apart]
  rfl

/-- The control space has 2^22 words: a requester's copies lie beyond them. -/
theorem rword_setRwordQ {q r : Reg} {fr' i' w' req fr i w v : Nat} {s : State} (h : regKey q fr' i' w' < 2 ^ 22) :
    rword (setRwordQ r req fr i w v s) q fr' i' w' = rword s q fr' i' w' := by
  have apart : regKey q fr' i' w' ≠ copyKey req (regKey r fr i w) := by
    unfold copyKey
    omega
  show ((tabFind (tabSet _ s.bus.regs _ _) _).map BitVec.toNat).getD _ = _
  rw [tabFind_tabSet, if_neg apart]
  rfl

/-! ### Buffer records and use -/

@[simp] theorem bufOf_modBuf_same (p i : Nat) (f : Buf → Buf) (s : State) : bufOf (modBuf p i f s) p i = f (bufOf s p i) :=
  tabGet_tabMod_same ..

theorem bufOf_modBuf_ne {p i q j : Nat} (f : Buf → Buf) (s : State) (h : bufKey q j ≠ bufKey p i) :
    bufOf (modBuf p i f s) q j = bufOf s q j := tabGet_tabMod_ne _ _ h

@[simp] theorem modBuf_use (p i : Nat) (f : Buf → Buf) (s : State) : (modBuf p i f s).stl.use = s.stl.use := rfl

@[simp] theorem bufOf_modUse (r p i : Nat) (f : Nat → Nat) (s : State) : bufOf (modUse r f s) p i = bufOf s p i := rfl

@[simp] theorem useOf_modUse_same (r : Nat) (f : Nat → Nat) (s : State) : useOf (modUse r f s) r = f (useOf s r) :=
  tabGet_tabMod_same ..

theorem bufOf_congr {s t : State} (h : t.stl = s.stl) (p i : Nat) : bufOf t p i = bufOf s p i := by rw [bufOf, h, bufOf]

theorem useOf_congr {s t : State} (h : t.stl.use = s.stl.use) (r : Nat) : useOf t r = useOf s r := by rw [useOf, h, useOf]

/-! ### What a release leaves of a record (R512) -/

/-- A held record after a release has left it as `b`: it returns when no hold is left. -/
def settled (b : Buf) : Buf := if refCount b = 0 then bufReturned b else b

theorem bufOf_bufReturn (p i : Nat) (s : State) : bufOf (bufReturn p i s) p i = bufReturned (bufOf s p i) :=
  (bufOf_modUse ..).trans (bufOf_modBuf_same ..)

theorem bufOf_bufSettle {p i : Nat} {s : State} (held : (bufOf s p i).held = true) :
    bufOf (bufSettle p i s) p i = settled (bufOf s p i) := by
  unfold bufSettle settled
  simp only [held, Bool.true_and, decide_eq_true_eq]
  split
  · exact bufOf_bufReturn ..
  · rfl

theorem bufOf_bufSettle_ne {p i q j : Nat} (s : State) (h : bufKey q j ≠ bufKey p i) :
    bufOf (bufSettle p i s) q j = bufOf s q j := by
  unfold bufSettle
  split
  · exact (bufOf_modUse ..).trans (bufOf_modBuf_ne _ _ h)
  · rfl

theorem bufSettle_returns {p i : Nat} {s : State} (held : (bufOf s p i).held = true) (last : refCount (bufOf s p i) = 0) :
    bufSettle p i s = bufReturn p i s := by
  rw [bufSettle, held, last]
  rfl

theorem bufSettle_keeps {p i : Nat} {s : State} (more : refCount (bufOf s p i) ≠ 0) : bufSettle p i s = s := by
  rw [bufSettle, decide_eq_false more, Bool.and_false]
  rfl

/-- A returning buffer leaves its owner's use (R523). -/
theorem useOf_bufReturn (p i : Nat) (s : State) :
    useOf (bufReturn p i s) (bufOf s p i).owner = useOf s (bufOf s p i).owner - poolUnits s p :=
  useOf_modUse_same ..

/-! ### What an operation shows (R514) -/

/-- STL_RES of a requester shows a value and a result code. -/
def Shows (req v code : Nat) (t : State) : Prop :=
  rwordQ t .STL_RES req 0 0 0 = v % 2 ^ 32 ∧ rwordQ t .STL_RES req 0 0 1 = code * 2 ^ 28 + v / 2 ^ 32 % 2 ^ 16

/-- The code that STL_RES shows: 0 for an operation that is done. -/
def resultCode (e : Option StlErr) : Nat := (e.map StlErr.code).getD 0

theorem resultCode_lt (e : Option StlErr) : resultCode e < 2 ^ 4 := by
  cases e with
  | none => decide
  | some e => cases e <;> decide

theorem stlResult_eq (req v : Nat) (e : Option StlErr) (s : State) : stlResult req v e s =
    setRwordQ .STL_RES req 0 0 0 (v % 2 ^ 32)
      (setRwordQ .STL_RES req 0 0 1 (resultCode e * 2 ^ 28 + v / 2 ^ 32 % 2 ^ 16) s) := by
  cases e with
  | none => simp only [stlResult, resultCode, Option.map_none, Option.getD_none]
  | some e => simp only [stlResult, resultCode, Option.map_some, Option.getD_some]

theorem stlResult_shows (req v : Nat) (e : Option StlErr) (s : State) :
    Shows req v (resultCode e) (stlResult req v e s) := by
  have code := resultCode_lt e
  rw [stlResult_eq]
  constructor
  · rw [rwordQ_setRwordQ, Nat.mod_mod]
  · rw [rwordQ_setRwordQ_word (by decide), rwordQ_setRwordQ]
    exact Nat.mod_eq_of_lt (by omega)

@[simp] theorem stlResult_stl (req v : Nat) (e : Option StlErr) (s : State) : (stlResult req v e s).stl = s.stl := by
  rw [stlResult_eq, setRwordQ_stl, setRwordQ_stl]

theorem rword_stlResult (req v : Nat) (e : Option StlErr) {q : Reg} {fr i w : Nat} (s : State) (h : regKey q fr i w < 2 ^ 22) :
    rword (stlResult req v e s) q fr i w = rword s q fr i w :=
  (rword_setRwordQ h).trans (rword_setRwordQ h)

theorem fld_stlResult (req v : Nat) (e : Option StlErr) {f : FieldRef} {fr i : Nat} (s : State)
    (h : regKey f.reg fr i f.word < 2 ^ 22) : fld (stlResult req v e s) f fr i = fld s f fr i := by
  rw [fld, rword_stlResult req v e s h, fld]

theorem showVal_shows (req v : Nat) (s : State) : Shows req v 0 (showVal req (.ok v, s)) := stlResult_shows req v none s

@[simp] theorem showVal_stl (req v : Nat) (s : State) : (showVal req (.ok v, s)).stl = s.stl :=
  stlResult_stl req v none s

theorem showFree_shows (req : Nat) (e : Option StlErr) (s : State) : Shows req 0 (resultCode e) (showFree req (e, s)) :=
  stlResult_shows req 0 e s

@[simp] theorem showFree_stl (req : Nat) (e : Option StlErr) (s : State) : (showFree req (e, s)).stl = s.stl :=
  stlResult_stl req 0 e s

/-- An operation reaches the Stalls while they have power. -/
theorem stlReach_serves {s : State} (base : baseUp s = true) (dom : domUp s 203 = true) (req : Nat) (f : State → State) :
    stlReach req f s = f s := by
  unfold stlReach stlServes
  rw [base, dom]
  rfl

/-! ### ALLOC (R514, R518) -/

/-- The search stops at the first FREE buffer. -/
theorem lowestFree_lowest {s : State} {p n i k : Nat} (h : lowestFree s p n i = some k) :
    (bufOf s p k).held = false ∧ ∀ j, i ≤ j → j < k → (bufOf s p j).held = true := by
  induction n generalizing i with
  | zero => cases h
  | succ n ih =>
    unfold lowestFree at h
    cases held : (bufOf s p i).held with
    | true =>
      rw [held, if_pos rfl] at h
      obtain ⟨free, below⟩ := ih h
      refine ⟨free, fun j hi hk => ?_⟩
      rcases Nat.eq_or_lt_of_le hi with rfl | hi
      · exact held
      · exact below j hi hk
    | false =>
      rw [held, if_neg (by decide)] at h
      cases h
      exact ⟨held, fun j hi hk => absurd hk (Nat.not_lt.mpr hi)⟩

/-- ALLOC's record: held for the requester. -/
def lent (r : Nat) (b : Buf) : Buf := { b with held := true, owner := r, hold := true }

theorem stlAllocOp_lends {r p i : Nat} {s : State} (on : poolOn s p = true) (ready : poolReady s p = true)
    (first : firstFree s p = some i) (quota : fld s F.STL_QUOTA_LIMIT 0 r = 0xFFFFFF ∨
      useOf s r + poolUnits s p ≤ fld s F.STL_QUOTA_LIMIT 0 r) :
    stlAllocOp r p s = (.ok (handleOf p i (bufOf s p i).gen 0), modUse r (· + poolUnits s p) (modBuf p i (lent r) s)) := by
  have within : (decide (fld s F.STL_QUOTA_LIMIT 0 r ≠ 0xFFFFFF) &&
      decide (useOf s r + poolUnits s p > fld s F.STL_QUOTA_LIMIT 0 r)) = false := by
    rw [Bool.and_eq_false_iff, decide_eq_false_iff_not, decide_eq_false_iff_not]
    exact quota.imp not_not.mpr Nat.not_lt.mpr
  simp only [stlAllocOp, on, ready, first, within, Bool.not_true, Bool.false_eq_true, if_false]
  rfl

theorem stlAlloc_lends {req : Req} {pool : Fin 64} {s : State} {i : Nat} (base : baseUp s = true) (dom : domUp s 203 = true)
    (on : poolOn s pool = true) (ready : poolReady s pool = true) (first : firstFree s pool = some i)
    (quota : fld s F.STL_QUOTA_LIMIT 0 req = 0xFFFFFF ∨ useOf s req + poolUnits s pool ≤ fld s F.STL_QUOTA_LIMIT 0 req) :
    Answers (.stlAlloc req pool) s fun t => Shows req (handleOf pool i (bufOf s pool i).gen 0) 0 t ∧
      useOf t req = useOf s req + poolUnits s pool ∧ bufOf t pool i = lent req (bufOf s pool i) ∧
      ∀ q j, bufKey q j ≠ bufKey pool i → bufOf t q j = bufOf s q j := by
  refine ⟨_, congrArg Host.Outcome.next (stlReach_serves base dom ..), ?_⟩
  rw [stlAllocOp_lends on ready first quota]
  have stl := showVal_stl req (handleOf pool i (bufOf s pool i).gen 0)
    (modUse req (· + poolUnits s pool) (modBuf pool i (lent req) s))
  have charged := congrArg Stl.use stl
  refine ⟨showVal_shows .., ?_, ?_, fun q j apart => ?_⟩
  · rw [useOf_congr charged, useOf_modUse_same, useOf_congr (modBuf_use ..)]
  · rw [bufOf_congr stl, bufOf_modUse, bufOf_modBuf_same]
  · rw [bufOf_congr stl, bufOf_modUse, bufOf_modBuf_ne _ _ apart]

/-! ### FREE (R512, R514, R517) -/

/-- FREE's record: the owner hold cleared, or the ticket used. -/
def released (t : Nat) (b : Buf) : Buf := if t = 0 then { b with hold := false } else { b with used := t :: b.used }

theorem released_held (t : Nat) (b : Buf) : (released t b).held = b.held := by
  unfold released
  split <;> rfl

theorem released_owner (t : Nat) (b : Buf) : (released t b).owner = b.owner := by
  unfold released
  split <;> rfl

theorem released_gen (t : Nat) (b : Buf) : (released t b).gen = b.gen := by
  unfold released
  split <;> rfl

theorem bufReturned_released (t : Nat) (b : Buf) : bufReturned (released t b) = bufReturned b := by
  rw [bufReturned, released_gen, bufReturned]

/-- The record that a handle names. -/
def handleBuf (s : State) (h : Nat) : Buf := bufOf s (bitsOf h 26 6) (bitsOf h 8 18)

theorem handleBuf_congr {s t : State} (e : t.stl = s.stl) (h : Nat) : handleBuf t h = handleBuf s h := bufOf_congr e ..

/-- A handle that passes the checks names a held buffer (R516). -/
theorem handleCheck_held {s : State} {h req : Nat} {skip : Bool} (passes : handleCheck s h req skip = none) :
    (handleBuf s h).held = true := by
  cases held : (handleBuf s h).held with
  | true => rfl
  | false =>
    rw [handleBuf] at held
    simp only [handleCheck, held, Bool.not_false, Bool.true_or, if_true] at passes
    split at passes
    · cases passes
    · split at passes <;> cases passes

/-- What FREE leaves before the count is looked at. -/
def stlReleased (h : Nat) (s : State) : State := modBuf (bitsOf h 26 6) (bitsOf h 8 18) (released (bitsOf h 0 4)) s

theorem handleBuf_stlReleased (h : Nat) (s : State) :
    handleBuf (stlReleased h s) h = released (bitsOf h 0 4) (handleBuf s h) := bufOf_modBuf_same ..

theorem stlReleased_use (h : Nat) (s : State) : (stlReleased h s).stl.use = s.stl.use := rfl

theorem poolUnits_stlReleased (h p : Nat) (s : State) : poolUnits (stlReleased h s) p = poolUnits s p := rfl

theorem stlFreeOp_passes {req h : Nat} {s : State} (passes : handleCheck s h req true = none) :
    stlFreeOp req h s = (none, bufSettle (bitsOf h 26 6) (bitsOf h 8 18) (stlReleased h s)) := by
  rw [stlFreeOp, passes]
  rfl

/-- FREE that leaves a hold. -/
theorem stlFreeOp_keeps {req h : Nat} {s : State} (passes : handleCheck s h req true = none)
    (more : refCount (released (bitsOf h 0 4) (handleBuf s h)) ≠ 0) : stlFreeOp req h s = (none, stlReleased h s) := by
  rw [← handleBuf_stlReleased, handleBuf] at more
  rw [stlFreeOp_passes passes, bufSettle_keeps more]

/-- FREE of the last hold. -/
theorem stlFreeOp_returns {req h : Nat} {s : State} (passes : handleCheck s h req true = none)
    (last : refCount (released (bitsOf h 0 4) (handleBuf s h)) = 0) :
    stlFreeOp req h s = (none, bufReturn (bitsOf h 26 6) (bitsOf h 8 18) (stlReleased h s)) := by
  have held : (handleBuf (stlReleased h s) h).held = true := by
    rw [handleBuf_stlReleased, released_held, handleCheck_held passes]
  rw [← handleBuf_stlReleased, handleBuf] at last
  rw [stlFreeOp_passes passes, bufSettle_returns held last]

/-! ### Handles refused (R521) -/

/-- A handle refusal is counted, and captured while armed. -/
def hndCapture (op h req : Nat) (e : StlErr) (s : State) : State :=
  let s := bump F.STL_CNT_HNDREF s
  if flag s F.STL_FCAP_ARM then
    setRword .STL_FCAP 0 0 0 h (setRword .STL_FCAP 0 0 1 (op * 2 ^ 12 + e.code * 2 ^ 8 + req) s)
  else s

theorem handleRefused_reports (op h req : Nat) {e : StlErr} (s : State) (bay : e ≠ .bayoff) (tickets : e ≠ .tickets) :
    handleRefused op h req e s = report 0x0D e.code h req (hndCapture op h req e s) := by
  cases e with
  | bayoff => exact absurd rfl bay
  | tickets => exact absurd rfl tickets
  | _ => rfl

theorem hndCapture_only (op h req : Nat) (e : StlErr) (s : State) : OnlyRegs s (hndCapture op h req e s) := by
  have counted := (OnlyRegs.refl s).bump F.STL_CNT_HNDREF 1 0 0
  unfold hndCapture
  dsimp only
  split
  · exact (counted.setRword _ _ _ _ _).setRword _ _ _ _ _
  · exact counted

theorem hndCapture_counts (op h req : Nat) (e : StlErr) (s : State) :
    fld (hndCapture op h req e s) F.STL_CNT_HNDREF = min (fld s F.STL_CNT_HNDREF + 1) (2 ^ F.STL_CNT_HNDREF.width - 1) := by
  have counted := fld_bump F.STL_CNT_HNDREF s 0 0 1 (by decide)
  unfold hndCapture
  dsimp only
  split
  · rw [fld_setRword_ne (by decide), fld_setRword_ne (by decide), counted]
  · exact counted

theorem stlFreeOp_refuses {req h : Nat} {s : State} {e : StlErr} (fails : handleCheck s h req true = some e)
    (bay : e ≠ .bayoff) (tickets : e ≠ .tickets) :
    stlFreeOp req h s = (some e, report 0x0D e.code h req (hndCapture 2 h req e s)) := by
  rw [stlFreeOp, fails, ← handleRefused_reports 2 h req s bay tickets]

/-! ### The clauses on handles (R512-R521) -/

theorem nextTicket_unissued {b : Buf} {k : Nat} (next : nextTicket b = some k) : tabFind b.issued k = none := by
  have found := List.mem_of_head? next
  simp only [List.mem_filter, Bool.and_eq_true] at found
  exact Option.isNone_iff_eq_none.mp found.2.2

section
variable {req : Req} {h : Word} {s : State} (base : baseUp s = true) (dom : domUp s 203 = true)
include base dom

theorem exec_stlFree : exec (.stlFree req h) s = .next (showFree req (stlFreeOp req h.toNat s)) :=
  congrArg Host.Outcome.next (stlReach_serves base dom ..)

theorem stlFree_keeps (passes : handleCheck s h.toNat req true = none)
    (more : refCount (released (bitsOf h.toNat 0 4) (handleBuf s h.toNat)) ≠ 0) :
    Answers (.stlFree req h) s fun t => Shows req 0 0 t ∧
      handleBuf t h.toNat = released (bitsOf h.toNat 0 4) (handleBuf s h.toNat) ∧ t.stl.use = s.stl.use := by
  have stl := showFree_stl req none (stlReleased h.toNat s)
  refine ⟨_, exec_stlFree base dom, ?_⟩
  rw [stlFreeOp_keeps passes more]
  refine ⟨showFree_shows _ none _, ?_, ?_⟩
  · rw [handleBuf_congr stl, handleBuf_stlReleased]
  · rw [stl, stlReleased_use]

theorem stlFree_returns (passes : handleCheck s h.toNat req true = none)
    (last : refCount (released (bitsOf h.toNat 0 4) (handleBuf s h.toNat)) = 0) :
    Answers (.stlFree req h) s fun t => Shows req 0 0 t ∧
      useOf t (handleBuf s h.toNat).owner =
        useOf s (handleBuf s h.toNat).owner - poolUnits s (bitsOf h.toNat 26 6) ∧
      handleBuf t h.toNat = bufReturned (handleBuf s h.toNat) := by
  have stl := showFree_stl req none (bufReturn (bitsOf h.toNat 26 6) (bitsOf h.toNat 8 18) (stlReleased h.toNat s))
  have owner : (handleBuf (stlReleased h.toNat s) h.toNat).owner = (handleBuf s h.toNat).owner := by
    rw [handleBuf_stlReleased, released_owner]
  refine ⟨_, exec_stlFree base dom, ?_⟩
  rw [stlFreeOp_returns passes last]
  refine ⟨showFree_shows _ none _, ?_, ?_⟩
  · rw [useOf_congr (congrArg Stl.use stl), ← owner, handleBuf, useOf_bufReturn, poolUnits_stlReleased,
      useOf_congr (stlReleased_use ..)]
  · rw [handleBuf_congr stl, handleBuf, bufOf_bufReturn, ← handleBuf, handleBuf_stlReleased, bufReturned_released]

theorem stlFree_refuses {e : StlErr} (fails : handleCheck s h.toNat req true = some e) (bay : e ≠ .bayoff)
    (tickets : e ≠ .tickets) : Answers (.stlFree req h) s fun t => t.stl = s.stl ∧ Shows req 0 e.code t ∧
      fclLatched t 13 = true ∧
      fld t F.STL_CNT_HNDREF 0 = min (fld s F.STL_CNT_HNDREF 0 + 1) (2 ^ F.STL_CNT_HNDREF.width - 1) := by
  have only := hndCapture_only 2 h.toNat req e s
  have up : baseUp (hndCapture 2 h.toNat req e s) = true := by
    rw [only]
    exact base
  refine ⟨_, exec_stlFree base dom, ?_⟩
  rw [stlFreeOp_refuses fails bay tickets]
  refine ⟨?_, showFree_shows _ (some e) _, ?_, ?_⟩
  · rw [showFree_stl, report_stl, only]
  · rw [showFree, fclLatched, rword_stlResult _ _ _ _ (by decide)]
    exact report_latches _ _ _ (by decide) _ up
  · have reported := (report_regs e.code h.toNat req (src := 0x0D) (by decide) (hndCapture 2 h.toNat req e s)).fld
      (f := F.STL_CNT_HNDREF) (fr := 0) (i := 0) (by decide)
    rw [showFree, fld_stlResult _ _ _ _ (by decide), reported, hndCapture_counts]

theorem stlShare_issues {rcp : BitVec 8} {k : Nat} (passes : handleCheck s h.toNat req false = none)
    (next : nextTicket (handleBuf s h.toNat) = some k) (room : ticketsUsed s < 8192) :
    Answers (.stlShare req h rcp) s fun t =>
      Shows req (handleOf (bitsOf h.toNat 26 6) (bitsOf h.toNat 8 18) (bitsOf h.toNat 4 4) k) 0 t ∧
      tabFind (handleBuf t h.toNat).issued k = some rcp.toNat ∧ t.stl.use = s.stl.use := by
  have issued := tabFind_tabInsert_same rcp.toNat (nextTicket_unissued next)
  refine ⟨_, congrArg Host.Outcome.next (stlReach_serves base dom ..), ?_⟩
  rw [handleBuf] at next issued
  simp only [stlShareOp, passes, next, if_neg (Nat.not_le.mpr room)]
  refine ⟨showVal_shows .., ?_, ?_⟩
  · rw [handleBuf, bufOf_congr (showVal_stl ..), bufOf_modBuf_same, issued]
  · rw [showVal_stl, modBuf_use]

theorem stlCheck_answers {off : BitVec 26} {lenm1 : BitVec 23} (passes : handleCheck s h.toNat req false = none)
    (span : spanCheck s h.toNat off.toNat (lenm1.toNat + 1) = none) :
    Answers (.stlCheck req h off lenm1) s fun t =>
      Shows req (bufAddr s (bitsOf h.toNat 26 6) (bitsOf h.toNat 8 18) + off.toNat) 0 t ∧ t.stl = s.stl := by
  refine ⟨_, congrArg Host.Outcome.next (stlReach_serves base dom ..), ?_⟩
  simp only [stlCheckOp, passes, span]
  exact ⟨showVal_shows .., showVal_stl ..⟩

end

/-! ### Revocation (R526) -/

/-- The record listed under a key. -/
def bufAt (s : State) (k : Nat) : Buf := tabGet .reset s.stl.bufs k

/-- What a revocation leaves of a record. -/
def revoked (r : Nat) (b : Buf) : Buf := if (revokeBuf r b).2 = 0 then b else settled (revokeBuf r b).1

/-- The revocation of one record. -/
def revokeOne (r k : Nat) (s : State) : State :=
  if (revokeBuf r (bufAt s k)).2 = 0 then s
  else bufSettle (k / 2 ^ 18) (k % 2 ^ 18) (modBuf (k / 2 ^ 18) (k % 2 ^ 18) (fun _ => (revokeBuf r (bufAt s k)).1) s)

/-- A record's turn in a revocation, with the holds released so far. -/
def revokeStep (r : Nat) (acc : Nat × State) (k : Nat) : Nat × State :=
  (acc.1 + (revokeBuf r (bufAt acc.2 k)).2, revokeOne r k acc.2)

theorem stlRevokeAll_eq (r : Nat) (s : State) : stlRevokeAll r s = (s.stl.bufs.map Prod.fst).foldl (revokeStep r) (0, s) := rfl

theorem bufKey_div_mod (k : Nat) : bufKey (k / 2 ^ 18) (k % 2 ^ 18) = k := Nat.div_add_mod' k _

theorem bufOf_div_mod (s : State) (k : Nat) : bufOf s (k / 2 ^ 18) (k % 2 ^ 18) = bufAt s k := by
  rw [bufOf, bufKey_div_mod, bufAt]

/-- A FREE record has nothing to release. -/
theorem revokeBuf_free (r : Nat) {b : Buf} (free : b.held = false) : revokeBuf r b = (b, 0) := by
  rw [revokeBuf, free]
  rfl

/-- The unused tickets of a record that were issued to a requester. -/
def ticketsOf (r : Nat) (b : Buf) : List Nat := (b.issued.filter fun e => e.2 == r && !b.used.contains e.1).map Prod.fst

/-- A held record without the holds of a requester. -/
def without (r : Nat) (b : Buf) : Buf :=
  { b with hold := b.hold && !(b.hold && b.owner == r), used := ticketsOf r b ++ b.used }

/-- The holds of a requester on a held record. -/
def holdsOf (r : Nat) (b : Buf) : Nat := b2n (b.hold && b.owner == r) + (ticketsOf r b).length

theorem revokeBuf_held (r : Nat) {b : Buf} (held : b.held = true) : revokeBuf r b = (without r b, holdsOf r b) := by
  rw [revokeBuf, if_neg (by rw [held]; decide)]
  rfl

theorem ticketsOf_without (r : Nat) (b : Buf) : ticketsOf r (without r b) = [] := by
  rw [ticketsOf, List.map_eq_nil_iff, List.filter_eq_nil_iff]
  intro e issued mine
  have notUsed : e.1 ∉ ticketsOf r b ∧ e.1 ∉ b.used := by simpa [without] using (Bool.and_eq_true_iff.mp mine).2
  refine notUsed.1 (List.mem_map_of_mem (List.mem_filter.mpr ⟨issued, ?_⟩))
  simp [(Bool.and_eq_true_iff.mp mine).1, notUsed.2]

/-- A revoked record has no hold and no unused ticket of the requester. -/
theorem holdsOf_without (r : Nat) (b : Buf) : holdsOf r (without r b) = 0 := by
  have owner : ∀ h o : Bool, b2n ((h && !(h && o)) && o) = 0 := by decide
  rw [holdsOf, ticketsOf_without]
  exact owner b.hold (b.owner == r)

theorem revokeBuf_twice (r : Nat) (b : Buf) : (revokeBuf r (revokeBuf r b).1).2 = 0 := by
  cases held : b.held with
  | false => rw [revokeBuf_free r held, revokeBuf_free r held]
  | true =>
    have still : (without r b).held = true := held
    rw [revokeBuf_held r held, revokeBuf_held r still, holdsOf_without]

theorem revokeBuf_revoked (r : Nat) (b : Buf) : (revokeBuf r (revoked r b)).2 = 0 := by
  unfold revoked settled
  split
  · assumption
  · split
    · exact congrArg Prod.snd (revokeBuf_free r rfl)
    · exact revokeBuf_twice r b

theorem revoked_twice (r : Nat) (b : Buf) : revoked r (revoked r b) = revoked r b := if_pos (revokeBuf_revoked r b)

theorem revokeBuf_keeps_held {r : Nat} {b : Buf} (some_released : (revokeBuf r b).2 ≠ 0) : (revokeBuf r b).1.held = true := by
  cases held : b.held with
  | false => rw [revokeBuf_free r held] at some_released; exact absurd rfl some_released
  | true => rw [revokeBuf_held r held]; exact held

/-- Each record is revoked by itself. -/
theorem bufAt_revokeOne (r k j : Nat) (s : State) :
    bufAt (revokeOne r k s) j = if j = k then revoked r (bufAt s k) else bufAt s j := by
  unfold revokeOne revoked
  split
  · split
    · next at_k => rw [at_k]
    · rfl
  · next some_released =>
    have record : bufOf (modBuf (k / 2 ^ 18) (k % 2 ^ 18) (fun _ => (revokeBuf r (bufAt s k)).1) s) (k / 2 ^ 18) (k % 2 ^ 18) =
        (revokeBuf r (bufAt s k)).1 := bufOf_modBuf_same ..
    split
    · next at_k =>
      rw [at_k, ← bufOf_div_mod, bufOf_bufSettle (by rw [record]; exact revokeBuf_keeps_held some_released), record]
    · next other =>
      have apart : bufKey (j / 2 ^ 18) (j % 2 ^ 18) ≠ bufKey (k / 2 ^ 18) (k % 2 ^ 18) := by
        rw [bufKey_div_mod, bufKey_div_mod]
        exact other
      rw [← bufOf_div_mod, bufOf_bufSettle_ne _ apart, bufOf_modBuf_ne _ _ apart, bufOf_div_mod]

theorem bufAt_revokeSteps (r j : Nat) (l : List Nat) (n : Nat) (s : State) :
    bufAt (l.foldl (revokeStep r) (n, s)).2 j = if j ∈ l then revoked r (bufAt s j) else bufAt s j := by
  induction l generalizing n s with
  | nil => rfl
  | cons k l ih =>
    rw [List.foldl_cons, revokeStep, ih, bufAt_revokeOne]
    by_cases at_k : j = k
    · subst at_k
      rw [if_pos rfl, revoked_twice, ite_self, if_pos List.mem_cons_self]
    · rw [if_neg at_k]
      simp only [List.mem_cons, at_k, false_or]

/-- A summand taken out of a sum over a set that may hold it. -/
theorem add_sum_cleared (f : Nat → Nat) (S : Finset Nat) (k : Nat) :
    f k + ∑ j ∈ S, (if j = k then 0 else f j) = ∑ j ∈ insert k S, f j := by
  rw [← Finset.add_sum_erase _ f (Finset.mem_insert_self k S), Finset.erase_insert_eq_erase, ← Finset.filter_ne',
    Finset.sum_filter]
  simp only [ne_eq, ite_not]

/-- Every listed record's holds are counted once. -/
theorem count_revokeSteps (r : Nat) (l : List Nat) (n : Nat) (s : State) :
    (l.foldl (revokeStep r) (n, s)).1 = n + ∑ k ∈ l.toFinset, (revokeBuf r (bufAt s k)).2 := by
  induction l generalizing n s with
  | nil => rfl
  | cons k l ih =>
    have left : ∀ j, (revokeBuf r (bufAt (revokeOne r k s) j)).2 = if j = k then 0 else (revokeBuf r (bufAt s j)).2 := by
      intro j
      rw [bufAt_revokeOne]
      split
      · exact revokeBuf_revoked ..
      · rfl
    rw [List.foldl_cons, revokeStep, ih, List.toFinset_cons,
      ← add_sum_cleared (fun j => (revokeBuf r (bufAt s j)).2) l.toFinset k, Nat.add_assoc]
    simp only [left]

/-- A record that is not listed is FREE. -/
theorem bufAt_unlisted {s : State} {k : Nat} (h : k ∉ s.stl.bufs.map Prod.fst) : bufAt s k = .reset := by
  unfold bufAt tabGet
  generalize s.stl.bufs = m at h
  induction m with
  | nil => rfl
  | cons e m ih =>
    rw [List.map_cons, List.mem_cons, not_or] at h
    rw [tabFind, if_neg (Ne.symm h.1)]
    exact ih h.2

theorem bufAt_stlRevokeAll (r k : Nat) (s : State) : bufAt (stlRevokeAll r s).2 k = revoked r (bufAt s k) := by
  rw [stlRevokeAll_eq, bufAt_revokeSteps]
  split
  · rfl
  · next unlisted =>
    rw [bufAt_unlisted unlisted]
    exact (if_pos (congrArg Prod.snd (revokeBuf_free r rfl))).symm

theorem count_stlRevokeAll (r : Nat) (s : State) : (stlRevokeAll r s).1 =
    ((s.stl.bufs.map Prod.fst).dedup.map fun k => (revokeBuf r (bufAt s k)).2).sum := by
  rw [stlRevokeAll_eq, count_revokeSteps, Nat.zero_add, ← List.sum_toFinset _ (List.nodup_dedup _)]
  refine Finset.sum_congr (Finset.ext fun k => ?_) fun _ _ => rfl
  rw [List.mem_toFinset, List.mem_toFinset, List.mem_dedup]

theorem revokeEffect_eq (v : List Nat) (s : State) : revokeEffect v s =
    setFld F.STL_REVOKE_DONE (min (stlRevokeAll (valOf v F.STL_REVOKE_RID) s).1 (2 ^ 24 - 1))
      (stlRevokeAll (valOf v F.STL_REVOKE_RID) s).2 := rfl

theorem stlRevoke_releases {a : Acc} {s : State} (accepted : accepts .STL_REVOKE 0 0 a neverBusy anyOk s = true) :
    Answers (.stlRevoke a) s fun t =>
      fld t F.STL_REVOKE_DONE 0 = min ((s.stl.bufs.map Prod.fst).dedup.map fun k =>
        (revokeBuf (valOf (commitVals s .STL_REVOKE 0 0 a) F.STL_REVOKE_RID) (bufAt s k)).2).sum (2 ^ 24 - 1) ∧
      ∀ q j, bufOf t q j = revoked (valOf (commitVals s .STL_REVOKE 0 0 a) F.STL_REVOKE_RID) (bufOf s q j) := by
  generalize hr : valOf (commitVals s .STL_REVOKE 0 0 a) F.STL_REVOKE_RID = r
  have same : ∀ k, bufAt (taken .STL_REVOKE 0 0 a s) k = bufAt s k := fun k => by rw [bufAt, taken_stl, bufAt]
  have count := count_stlRevokeAll r (taken .STL_REVOKE 0 0 a s)
  simp only [same, taken_stl] at count
  refine ⟨_, congrArg Host.Outcome.next (regCommit_taken accepted), ?_, fun q j => ?_⟩
  · rw [revokeEffect_eq, hr, fld_setFld F.STL_REVOKE_DONE _ _ 0 0 (by decide), count]
    exact Nat.mod_eq_of_lt (lt_of_le_of_lt (Nat.min_le_right _ _) (by decide))
  · rw [revokeEffect_eq, hr, bufOf_congr (setFld_stl ..)]
    exact (bufAt_stlRevokeAll r (bufKey q j) _).trans (congrArg (revoked r) (same _))

/-! ### A pool enabled (R507, R509) -/

/-- Entries chosen by their keys. -/
theorem tabFind_filter_key {α : Type} (c : Nat → Bool) (m : Tab α) (k : Nat) :
    tabFind (m.filter fun e => c e.1) k = if c k then tabFind m k else none := by
  induction m with
  | nil => exact (ite_self _).symm
  | cons e m ih =>
    obtain ⟨j, v⟩ := e
    by_cases at_k : j = k
    · subst at_k
      cases chosen : c j <;> simp [chosen, tabFind, ih]
    · cases chosen : c j <;> simp [chosen, tabFind, at_k, ih]

theorem bufOf_poolFresh (p : Nat) {q j : Nat} (s : State) (hj : j < 2 ^ 18) :
    bufOf (poolFresh p s) q j = if q = p then .reset else bufOf s q j := by
  have pool : bufKey q j / 2 ^ 18 = q := by
    unfold bufKey
    omega
  have record := tabFind_filter_key (fun k => decide (k / 2 ^ 18 ≠ p)) s.stl.bufs (bufKey q j)
  rw [pool] at record
  show (tabFind (s.stl.bufs.filter fun e => decide (e.1 / 2 ^ 18 ≠ p)) (bufKey q j)).getD _ = _
  rw [record]
  by_cases at_p : q = p
  · rw [if_pos at_p, if_neg (by simpa using at_p)]
    rfl
  · rw [if_neg at_p, if_pos (by simpa using at_p)]
    rfl

theorem fld_poolFresh (p : Nat) (s : State) (f : FieldRef) (fr i : Nat) : fld (poolFresh p s) f fr i = fld s f fr i := rfl

theorem stlPoolCommit_frees {pool : Fin 64} {a : Acc} {s : State} (accepted : accepts .STL_POOL 0 pool a (poolBusy pool s)
      (fun v => poolSame pool s v || poolOk pool s v) s = true) (off : poolOn s pool = false) :
    Answers (.stlPoolCommit pool a) s fun t =>
      fld t F.STL_POOL_EN 0 pool = valOf (commitVals s .STL_POOL 0 pool a) F.STL_POOL_EN ∧
      ∀ q j, j < 2 ^ 18 → bufOf t q j = if q = pool then .reset else bufOf s q j := by
  have written : rwMask .STL_POOL pool 0 = kindMask .STL_POOL 0 [.rw, .kg] := rfl
  have enable : bitsOf (rwMask .STL_POOL pool 0) 31 1 = 2 ^ 1 - 1 := by
    rw [written]
    decide
  have fresh : poolSame pool s (commitVals s .STL_POOL 0 pool a) = false := by rw [poolSame, off, Bool.false_and]
  refine ⟨_, congrArg Host.Outcome.next (regCommit_taken accepted), ?_⟩
  dsimp only
  rw [fresh, if_neg (by decide)]
  refine ⟨?_, fun q j hj => ?_⟩
  · rw [fld_poolFresh]
    exact fld_taken (f := F.STL_POOL_EN) rfl (by decide) enable s
  · rw [bufOf_poolFresh pool _ hj, bufOf_congr (taken_stl ..)]

/-- Settles O30: a release that leaves no hold returns the buffer, whether FREE or a revocation makes it; the other clauses
read each operation's effect on its one record. -/
theorem stallsLendAndReturnBuffers : Obligations.StallsLendAndReturnBuffers := by
  unfold Obligations.StallsLendAndReturnBuffers
  intro req pool h rcp off lenm1 a s r p hn hp hi tk shows
  refine ⟨fun base dom => ⟨fun on ready i first => ?alloc, fun passes => ⟨?keeps, ?returns⟩,
    fun passes => ⟨fun k next room => ?share, fun span => ?check⟩, fun e fails bay tickets => ?refuses⟩,
    fun accepted => ?revoke, fun accepted disabled => ?pool⟩
  case alloc =>
    obtain ⟨free, below⟩ := lowestFree_lowest first
    exact ⟨free, fun j => below j (Nat.zero_le j), stlAlloc_lends base dom on ready first⟩
  case keeps => exact stlFree_keeps base dom passes
  case returns => exact stlFree_returns base dom passes
  case share => exact stlShare_issues base dom passes next room
  case check => exact stlCheck_answers base dom passes span
  case refuses => exact stlFree_refuses base dom fails bay tickets
  case revoke => exact stlRevoke_releases accepted
  case pool =>
    obtain ⟨t, runs, enabled, records⟩ := stlPoolCommit_frees accepted disabled
    exact ⟨t, runs, enabled, fun j hj => (records p j hj).trans (if_pos rfl),
      fun q j other hj => (records q j hj).trans (if_neg other)⟩

end Sys2Proof.Machine

/-! States that meet the hypotheses of O30. -/

namespace Sys2Proof.Machine

/-- The Stalls are powered and bay 0 is READY; pool 0 has two buffers of 4 KiB, requester 128 a quota of 8 KiB and the key of
the Stalls. Word 0 of pool 1 is staged: an enabled pool behind pool 0. -/
def lendState (bufs : Tab Buf) : State :=
  { standbyState with
    pwr := { standbyState.pwr with up := BitVec.ofNat 214 (2 ^ 203) }
    mem := { Mem.reset with bays := [(0, { Bay.reset with st := .ready })] }
    stl := ⟨bufs, [(128, 1)]⟩
    bus := { Bus.reset with
      regs := [(regKey .STL_POOL 0 0 0, 0x81800000), (regKey .STL_POOL 0 0 1, 1), (regKey .STL_QUOTA 0 128 0, 2)]
      keys := [(blkFrame .stl 0, { KeyGuard.reset with ends := 256, owner := 128 })]
      staged := [(stageKey 128 (regKey .STL_POOL 0 1 0), some 0x81800002)] } }

/-- Requester 128's buffer in generation 15, with ticket 1 issued to requester 5. -/
def sharedBuf (hold : Bool) : Buf := ⟨true, 15, 128, hold, [(1, 5)], []⟩

/-- Buffer 0 of pool 0 is shared. -/
def sharedState (hold : Bool) : State := lendState [(0, sharedBuf hold)]

/-- ALLOC passes over buffer 0 and uses up the quota. -/
theorem sharedState_allocates : Answers (.stlAlloc 128 0) (sharedState true) fun t =>
    Shows 128 0x110 0 t ∧ useOf t 128 = 2 ∧ bufOf t 0 1 = ⟨true, 1, 128, true, [], []⟩ := by
  obtain ⟨t, runs, shows, charged, lends, -⟩ := ((stallsLendAndReturnBuffers 128 0 0 0 0 0 ⟨0, .normal, 0⟩ (sharedState true)).1
    rfl (by decide)).1 (by decide) (by decide) 1 (by decide) |>.2.2 (.inr (by decide))
  exact ⟨t, runs, shows, charged, lends⟩

/-- The owner's FREE leaves the buffer to ticket 1. -/
theorem sharedState_keeps : Answers (.stlFree 128 0xF0) (sharedState true) fun t => bufOf t 0 0 = sharedBuf false := by
  obtain ⟨t, runs, -, keeps, -⟩ := (((stallsLendAndReturnBuffers 128 0 0xF0 0 0 0 ⟨0, .normal, 0⟩ (sharedState true)).1
    rfl (by decide)).2.1 (by decide)).1 (by decide)
  exact ⟨t, runs, keeps⟩

/-- FREE of the last ticket returns the buffer: generation 15 is followed by 1. -/
theorem sharedState_returns : Answers (.stlFree 5 0xF1) (sharedState false) fun t =>
    useOf t 128 = 0 ∧ bufOf t 0 0 = .reset := by
  obtain ⟨t, runs, -, charged, returns⟩ := (((stallsLendAndReturnBuffers 5 0 0xF1 0 0 0 ⟨0, .normal, 0⟩ (sharedState false)).1
    rfl (by decide)).2.1 (by decide)).2 (by decide)
  exact ⟨t, runs, charged, returns⟩

/-- SHARE issues ticket 2, since ticket 1 is issued. -/
theorem sharedState_shares : Answers (.stlShare 128 0xF0 9) (sharedState true) fun t =>
    Shows 128 0xF2 0 t ∧ tabFind (bufOf t 0 0).issued 2 = some 9 := by
  obtain ⟨t, runs, shows, issued, -⟩ := (((stallsLendAndReturnBuffers 128 0 0xF0 9 0 0 ⟨0, .normal, 0⟩ (sharedState true)).1
    rfl (by decide)).2.2.1 (by decide)).1 2 (by decide) (by decide)
  exact ⟨t, runs, shows, issued⟩

/-- CHECK of the buffer's last eight bytes. -/
theorem sharedState_checks : Answers (.stlCheck 5 0xF1 4088 0) (sharedState true) fun t =>
    Shows 5 0x100000000FF8 0 t ∧ t.stl = (sharedState true).stl :=
  (((stallsLendAndReturnBuffers 5 0 0xF1 0 4088 0 ⟨0, .normal, 0⟩ (sharedState true)).1
    rfl (by decide)).2.2.1 (by decide)).2 (by decide)

/-- A handle of an earlier generation is STALE. -/
theorem sharedState_refuses : Answers (.stlFree 128 0xE0) (sharedState true) fun t =>
    t.stl = (sharedState true).stl ∧ Shows 128 0 3 t ∧ fclLatched t 13 = true ∧ fld t F.STL_CNT_HNDREF = 1 := by
  obtain ⟨t, runs, same, shows, latched, count⟩ := ((stallsLendAndReturnBuffers 128 0 0xE0 0 0 0 ⟨0, .normal, 0⟩
    (sharedState true)).1 rfl (by decide)).2.2.2 .stale (by decide) (by decide) (by decide)
  exact ⟨t, runs, same, shows, latched, count.trans (by decide)⟩

/-- A revocation of requester 5 releases the last ticket. -/
theorem sharedState_revokes : Answers (.stlRevoke ⟨128, .normal, 5⟩) (sharedState false) fun t =>
    fld t F.STL_REVOKE_DONE = 1 ∧ bufOf t 0 0 = .reset := by
  obtain ⟨t, runs, count, records⟩ := (stallsLendAndReturnBuffers 0 0 0 0 0 0 ⟨128, .normal, 5⟩ (sharedState false)).2.1
    (by decide)
  exact ⟨t, runs, count.trans (by decide), (records 0 0).trans (by decide)⟩

/-- Pool 1 is enabled with what an earlier use left of it; pool 0 keeps its record. -/
theorem lendState_enables : Answers (.stlPoolCommit 1 ⟨128, .normal, 0⟩)
    (lendState [(0, sharedBuf true), (bufKey 1 0, sharedBuf true)]) fun t =>
      fld t F.STL_POOL_EN 0 1 = 1 ∧ bufOf t 1 0 = .reset ∧ bufOf t 0 0 = sharedBuf true := by
  obtain ⟨t, runs, enabled, fresh, others⟩ := (stallsLendAndReturnBuffers 0 1 0 0 0 0 ⟨128, .normal, 0⟩
    (lendState [(0, sharedBuf true), (bufKey 1 0, sharedBuf true)])).2.2 (by decide) (by decide)
  exact ⟨t, runs, enabled.trans (by decide), fresh 0 (by decide), (others 0 0 (by decide) (by decide)).trans (by decide)⟩

end Sys2Proof.Machine

/-! Reads and writes of core SRAM, byte by byte and in words of 64 bits (spec/01 R12, R41, R855). -/

namespace Sys2Proof.Machine

/-! ### Bytes -/

/-- `n` bytes of core SRAM from an offset on. -/
def sramBytes (s : State) (o n : Nat) : List Nat := (List.range n).map fun i => (sramByte s (o + i)).toNat

theorem sramBytes_add (s : State) (o n m : Nat) : sramBytes s o (n + m) = sramBytes s o n ++ sramBytes s (o + n) m := by
  simp only [sramBytes, List.range_add, List.map_append, List.map_map, Function.comp_def, Nat.add_assoc]

theorem sramBytes_succ (s : State) (o n : Nat) : sramBytes s o (n + 1) = (sramByte s o).toNat :: sramBytes s (o + 1) n := by
  rw [Nat.add_comm n 1, sramBytes_add]
  rfl

theorem sramByte_congr {s t : State} (h : t.mem = s.mem) (o : Nat) : sramByte t o = sramByte s o := by
  rw [sramByte, h, sramByte]

theorem sramRead_congr {s t : State} (h : t.mem = s.mem) (n o : Nat) : sramRead t n o = sramRead s n o := by
  induction n generalizing o with
  | zero => rfl
  | succ n ih => rw [sramRead, sramRead, ih, sramByte_congr h]

theorem sramRead_lt (s : State) (n o : Nat) : sramRead s n o < 256 ^ n := by
  induction n generalizing o with
  | zero => exact Nat.one_pos
  | succ n ih =>
    have low := (sramByte s o).isLt
    have high := ih (o + 1)
    rw [sramRead, Nat.pow_succ]
    omega

/-- A read in two parts. -/
theorem sramRead_add (s : State) (n m o : Nat) : sramRead s (n + m) o = sramRead s n o + 256 ^ n * sramRead s m (o + n) := by
  induction n generalizing o with
  | zero => rw [Nat.zero_add, sramRead, Nat.pow_zero, Nat.one_mul, Nat.zero_add, Nat.add_zero]
  | succ n ih =>
    rw [Nat.succ_add, sramRead, sramRead, ih, Nat.add_assoc o 1 n, Nat.add_comm 1 n, Nat.pow_succ', Nat.mul_assoc, Nat.mul_add,
      Nat.add_assoc]

/-- The bytes of what a read gives are those that stand there. -/
theorem leBytes_sramRead (s : State) (n o : Nat) : leBytes n (sramRead s n o) = sramBytes s o n := by
  induction n generalizing o with
  | zero => rfl
  | succ n ih =>
    have byte := (sramByte s o).isLt
    have low : sramRead s (n + 1) o % 256 = (sramByte s o).toNat := by
      rw [sramRead]
      omega
    have high : sramRead s (n + 1) o / 256 = sramRead s n (o + 1) := by
      rw [sramRead]
      omega
    rw [leBytes, low, high, ih, sramBytes_succ]

theorem byte_of_sramRead (s : State) (o : Nat) {n i : Nat} (h : i < n) :
    BitVec.ofNat 8 (sramRead s n o / 256 ^ i) = sramByte s (o + i) := by
  obtain ⟨m, rfl⟩ := Nat.exists_eq_add_of_lt h
  have below := sramRead_lt s i o
  have byte := (sramByte s (o + i)).isLt
  apply BitVec.eq_of_toNat_eq
  rw [Nat.add_assoc, sramRead_add, Nat.add_mul_div_left _ _ (Nat.pow_pos (by decide)), Nat.div_eq_of_lt below, Nat.zero_add,
    sramRead, BitVec.toNat_ofNat]
  omega

/-- From `s` to `t` the low `n` bytes of `v` come to stand in core SRAM from `o` on, and every other byte stays. -/
def StoresBytes (o n v : Nat) (s t : State) : Prop :=
  ∀ j, sramByte t j = if o ≤ j ∧ j < o + n then BitVec.ofNat 8 (v / 256 ^ (j - o)) else sramByte s j

theorem StoresBytes.none (o v : Nat) {s t : State} (h : t.mem = s.mem) : StoresBytes o 0 v s t := fun j => by
  rw [if_neg (by omega), sramByte_congr h]

theorem StoresBytes.trans {o n m v w : Nat} {s t u : State} (h : StoresBytes o n v s t) (g : StoresBytes (o + n) m w t u)
    (rest : w = v / 256 ^ n) : StoresBytes o (n + m) v s u := by
  intro j
  rw [g j, h j]
  by_cases first : j < o + n
  · rw [if_neg (by omega)]
    exact if_congr (by omega) rfl rfl
  · obtain ⟨i, rfl⟩ := Nat.exists_eq_add_of_le (Nat.le_of_not_lt first)
    have place : o + n + i - o = n + i := by omega
    rw [if_neg (c := o ≤ o + n + i ∧ _) (by omega), rest, Nat.div_div_eq_div_mul, ← Nat.pow_add, place,
      Nat.add_sub_cancel_left]
    exact if_congr (by omega) rfl rfl

theorem sramWrite_stores (n o v : Nat) (s : State) : StoresBytes o n v s (sramWrite n o v s) := by
  induction n generalizing o v s with
  | zero => exact .none o v rfl
  | succ n ih =>
    rw [sramWrite, Nat.add_comm n 1]
    refine StoresBytes.trans (fun j => ?_) (ih (o + 1) (v / 256) _) (by rw [Nat.pow_one])
    refine (tabGet_tabSet 0 s.mem.sram o j (BitVec.ofNat 8 v)).trans ?_
    by_cases here : j = o
    · subst here
      rw [if_pos rfl, if_pos (by omega), Nat.sub_self, Nat.pow_zero, Nat.div_one]
    · rw [if_neg here, if_neg (by omega)]
      rfl

/-- A write uses no more of its number than the bytes that it stores. -/
theorem StoresBytes.of_mod {o n v : Nat} {s t : State} (h : StoresBytes o n (v % 256 ^ n) s t) : StoresBytes o n v s t := by
  intro j
  rw [h j]
  by_cases inside : o ≤ j ∧ j < o + n
  · rw [if_pos inside, if_pos inside]
    obtain ⟨i, rfl⟩ := Nat.exists_eq_add_of_le inside.1
    obtain ⟨k, hk⟩ := Nat.exists_eq_add_of_lt (show i < n by omega)
    apply BitVec.eq_of_toNat_eq
    rw [Nat.add_sub_cancel_left, BitVec.toNat_ofNat, BitVec.toNat_ofNat, hk, Nat.add_assoc, Nat.pow_add,
      Nat.mod_mul_right_div_self, Nat.pow_succ', Nat.mod_mul_right_mod]
  · rw [if_neg inside, if_neg inside]

/-- Bytes read and then stored elsewhere are a copy, wherever the two ranges overlap. -/
theorem StoresBytes.copies {a b n : Nat} {s t : State} (h : StoresBytes b n (sramRead s n a) s t) :
    (∀ j, b ≤ j → j < b + n → sramByte t j = sramByte s (a + (j - b))) ∧
      ∀ j, j < b ∨ b + n ≤ j → sramByte t j = sramByte s j := by
  refine ⟨fun j low high => ?_, fun j outside => ?_⟩
  · rw [h j, if_pos ⟨low, high⟩, byte_of_sramRead s a (by omega)]
  · rw [h j, if_neg (by omega)]

/-! ### Words of 64 bits -/

/-- `n` bytes from an offset at a word of 64 bits lie whole in core SRAM. -/
structure InSram (o n : Nat) : Prop where
  aligned : o % 8 = 0
  inside : o + n ≤ 0x800000

theorem InSram.next {o n : Nat} (h : InSram o (8 + n)) : InSram (o + 8) n where
  aligned := by have := h.aligned; omega
  inside := by have := h.inside; omega

theorem InSram.first {o n : Nat} (h : InSram o (8 + n)) : InSram o 8 where
  aligned := h.aligned
  inside := by have := h.inside; omega

theorem regionOf_sram (s : State) {o : Nat} (h : o < 0x800000) : regionOf s (0x10000000 + o) = some (.sram o) := by
  unfold regionOf
  rw [if_neg (by omega), if_pos (by simp only [Bool.and_eq_true, decide_eq_true_eq]; omega), Nat.add_sub_cancel_left]

theorem sramWord_sizeOk {o : Nat} (h : InSram o 8) (req : Nat) :
    sizeRefused (.sram o) 64 (0x10000000 + o) req = false := by
  have aligned : (0x10000000 + o) % 8 = 0 := by have := h.aligned; omega
  simp [sizeRefused, sizeOk, aligned]

theorem sramWord_mod (s : State) (o : Nat) : sramRead s 8 o % 2 ^ 72 = sramRead s 8 o :=
  Nat.mod_eq_of_lt (Nat.lt_trans (sramRead_lt s 8 o) (by decide))

theorem memRead_sram {o : Nat} (h : InSram o 8) (req : Nat) (e : RldErr) (s : State) :
    memRead req (0x10000000 + o) 64 e s = (.ok (BitVec.ofNat 72 (sramRead s 8 o)), s) := by
  rw [memRead, regionOf_sram s (by have := h.inside; omega)]
  dsimp only
  rw [sramWord_sizeOk h, if_neg (by decide)]
  rfl

theorem memWrite_sram {o : Nat} (h : InSram o 8) (req : Nat) (v : Native) (e : RldErr) (s : State) :
    memWrite req (0x10000000 + o) 64 v e s = (.ok 0, sramWrite 8 o v.toNat s) := by
  rw [memWrite, regionOf_sram s (by have := h.inside; omega)]
  dsimp only
  rw [sramWord_sizeOk h, if_neg (by decide)]
  rfl

theorem fabRead_sram {o : Nat} (h : InSram o 8) (req : Nat) (s : State) :
    fabRead req (0x10000000 + o) 64 s = (.ok (sramRead s 8 o), s) := by
  rw [fabRead, regionOf_sram s (by have := h.inside; omega), memRead_sram h]
  simp only [MemRes.fab, BitVec.toNat_ofNat, sramWord_mod]

theorem fabWrite_sram {o : Nat} (h : InSram o 8) (req : Nat) (v : Nat) (s : State) :
    fabWrite req (0x10000000 + o) 64 v s = (.ok 0, sramWrite 8 o (v % 2 ^ 72) s) := by
  rw [fabWrite, regionOf_sram s (by have := h.inside; omega), memWrite_sram h]
  simp only [MemRes.fab, BitVec.toNat_ofNat]
  rfl

/-- Words read from core SRAM carry the bytes that stand there. -/
theorem readWords_sram (req k : Nat) {o : Nat} (h : InSram o (8 * k)) (s : State) :
    ∃ l, readWords req 64 k (0x10000000 + o) s = ((l, none), s) ∧ wordBytes l = sramBytes s o (8 * k) := by
  induction k generalizing o with
  | zero => exact ⟨[], rfl, rfl⟩
  | succ k ih =>
    rw [Nat.mul_succ, Nat.add_comm] at h
    obtain ⟨l, read, bytes⟩ := ih h.next
    refine ⟨BitVec.ofNat 72 (sramRead s 8 o) :: l, ?_, ?_⟩
    · rw [readWords, memRead_sram h.first]
      dsimp only [accErr]
      rw [Nat.add_assoc, read]
    · rw [wordBytes, List.flatMap_cons, ← wordBytes, bytes, BitVec.toNat_ofNat, sramWord_mod, leBytes_sramRead,
        ← sramBytes_add, Nat.mul_succ, Nat.add_comm]

end Sys2Proof.Machine

/-! An interrupt event leaves its source pending (spec/17 R674). -/

namespace Sys2Proof.Machine

/-- Every pending source stays pending. -/
def PendStay (s t : State) : Prop := ∀ m, (srcOf s m).pend = true → (srcOf t m).pend = true

theorem PendStay.of_ict {s t : State} (h : t.ict.srcs = s.ict.srcs) : PendStay s t := fun m pend => by
  rw [srcOf, h]
  exact pend

theorem PendStay.refl (s : State) : PendStay s s := .of_ict rfl

theorem PendStay.trans {s t u : State} (h : PendStay s t) (g : PendStay t u) : PendStay s u := fun m pend => g m (h m pend)

theorem PendStay.forEach {α : Type} {l : List α} {f : α → State → State} (s : State) (hf : ∀ a u, PendStay u (f a u)) :
    PendStay s (forEach l f s) := by
  unfold Machine.forEach
  induction l generalizing s with
  | nil => exact .refl _
  | cons a l ih => exact (hf a s).trans (ih (f a s))

theorem srcOf_modSrc (n m : Nat) (f : IctSrc → IctSrc) (s : State) :
    srcOf (modSrc n f s) m = if m = n then f (srcOf s n) else srcOf s m := tabGet_tabMod IctSrc.reset s.ict.srcs n m f

/-- A change of a source that clears no pending bit. -/
theorem PendStay.modSrc {n : Nat} {f : IctSrc → IctSrc} {s : State} (h : ∀ x : IctSrc, x.pend = true → (f x).pend = true) :
    PendStay s (modSrc n f s) := fun m pend => by
  rw [srcOf_modSrc]
  split
  · next same => exact h _ (same ▸ pend)
  · exact pend

/-- The source as an arriving event leaves it (R674, R688). -/
def arrivedSrc (src : Nat) (s : State) (x : IctSrc) : IctSrc := { x with
  pend := true, arrived := s.now, stranded := !domUp s (192 + (srcOf s src).core) && !wakeEnabled s src }

/-- An event is not heard, or finds its source pending, or arrives at it and its group. -/
theorem srcArrive_cases (src : Nat) (s : State) :
    (srcArrive src s).1 = s ∧ (domUp s 213 = false ∨ (srcOf s src).pend = true) ∨
      ∃ g f, (srcArrive src s).1 = modGroup g f (modSrc src (arrivedSrc src s) s) := by
  unfold srcArrive
  split
  · next unheard =>
    simp only [Bool.and_eq_true, Bool.not_eq_true'] at unheard
    exact .inl ⟨rfl, .inl unheard.1⟩
  · split
    · next pend => exact .inl ⟨rfl, .inr pend⟩
    · exact .inr ⟨_, _, rfl⟩

theorem srcArrive_pendStay (src : Nat) (s : State) : PendStay s (srcArrive src s).1 := by
  obtain ⟨same, -⟩ | ⟨g, f, arrives⟩ := srcArrive_cases src s
  · rw [same]
    exact .refl s
  · rw [arrives]
    exact PendStay.trans (PendStay.modSrc (f := arrivedSrc src s) fun _ _ => rfl) (.of_ict rfl)

theorem wakeCore_pendStay (c : Nat) (s : State) : PendStay s (wakeCore c s).1 := by
  unfold wakeCore
  split
  · exact .of_ict rfl
  · split
    · exact .of_ict rfl
    · dsimp only
      split
      · exact .of_ict (by rw [askUp_ict, bump_ict])
      · exact .of_ict rfl

theorem doWakes_pendStay (l : List Nat) (s : State) : PendStay s (doWakes l s) := by
  unfold doWakes
  refine .forEach _ fun c u => ?_
  have wakes := wakeCore_pendStay c u
  split
  · next e => rwa [e] at wakes
  · next v e =>
    rw [e] at wakes
    exact (wakes.trans (srcArrive_pendStay 775 v)).trans (.forEach _ fun d w => wakeCore_pendStay d w)

theorem settleCtx_pendStay (delay c : Nat) (s : State) : PendStay s (settleCtx delay c s) := by
  unfold settleCtx
  dsimp only
  generalize hu : modCtx c _ s = u
  have context : PendStay s u := .of_ict (by rw [← hu]; rfl)
  refine context.trans ?_
  split
  · refine .forEach _ fun n u => ?_
    split
    · refine PendStay.trans (.of_ict ?_) (PendStay.modSrc fun _ pend => pend)
      rw [setFld_ict _ _ _ _ _, bump_ict _ _ _ _ _]
    · exact .refl _
  · exact .refl _

theorem ictSettle_pendStay (s : State) : PendStay s (ictSettle s) := .forEach _ fun c u => settleCtx_pendStay 2 c u

/-- An event that arrives while ICT has power leaves its source pending (R674). -/
theorem srcArrive_pends {src : Nat} {s : State} (powered : domUp s 213 = true) :
    (srcOf (srcArrive src s).1 src).pend = true := by
  obtain ⟨same, down | pend⟩ | ⟨g, f, arrives⟩ := srcArrive_cases src s
  · rw [powered] at down
    cases down
  · rw [same, pend]
  · have self := srcOf_modSrc src src (arrivedSrc src s) s
    rw [if_pos rfl] at self
    rw [arrives]
    exact congrArg IctSrc.pend self

theorem raise_pends {src : Nat} {s : State} (powered : domUp s 213 = true) : (srcOf (raise src s) src).pend = true :=
  ictSettle_pendStay _ _ (doWakes_pendStay _ _ _ (srcArrive_pends powered))

end Sys2Proof.Machine

/-! The writes of all words of a register that meet no cause of refusal (spec/02 R56, R857). -/

namespace Sys2Proof.Machine

section
variable {r : Reg} {fr i : Nat} {req : Req} {ws : List Nat} {busy : List Nat → Option Berr} {ok : List Nat → Bool}
  {eff : List Nat → State → State} {s : State}

/-- The whole word `w` of the list, through the normal window. -/
def wholeAcc (req : Req) (ws : List Nat) (w : Nat) : Acc := ⟨req, .normal, BitVec.ofNat 32 (ws.getD w 0)⟩

/-- What word `w` of the list presents to the commit (R50, R56). -/
def wordVal (r : Reg) (i : Nat) (ws : List Nat) (w : Nat) : Nat := ws.getD w 0 % 2 ^ 32 &&& (rwMask r i w ||| woMask r w)

theorem wholeAcc_req (req : Req) (ws : List Nat) (w : Nat) : (wholeAcc req ws w).req = req := rfl

theorem applyWin_wholeAcc (r : Reg) (i : Nat) (req : Req) (ws : List Nat) (w old : Nat) :
    applyWin (wholeAcc req ws w).win (wholeAcc req ws w).data.toNat old (rwMask r i w) (woMask r w) = wordVal r i ws w := by
  rw [wholeAcc, applyWin, BitVec.toNat_ofNat, wordVal]

/-- A field that a write can change is committed as written. -/
theorem valOf_wordVals {f : FieldRef} (word : f.word < (regInfo r).words)
    (writable : bitsOf (rwMask r i f.word ||| woMask r f.word) f.lo f.width = 2 ^ f.width - 1) :
    valOf (wordVals r i ws) f = bitsOf (ws.getD f.word 0 % 2 ^ 32) f.lo f.width := by
  have value : (wordVals r i ws).getD f.word 0 = wordVal r i ws f.word := by
    rw [wordVals, List.getD_eq_getElem?_getD, List.getElem?_map, List.getElem?_range word]
    rfl
  rw [valOf, value]
  exact bitsOf_ext fun n hn => by
    rw [wordVal, Nat.testBit_and, testBit_of_bitsOf writable hn, Bool.and_true]

theorem stagedWord_wholeAcc (s : State) (r : Reg) (fr i w : Nat) (req : Req) (ws : List Nat) :
    (stagedWord s r fr i w (wholeAcc req ws w)).toNat = wordVal r i ws w := by
  rw [stagedWord, applyWin_wholeAcc, BitVec.toNat_ofNat]
  exact Nat.mod_eq_of_lt (lt_of_le_of_lt Nat.and_le_left (Nat.mod_lt _ (by decide)))

/-- The writes of the words below `k` have staged them, and changed nothing beside the register interface and no unlock. -/
structure Staged (r : Reg) (fr i : Nat) (req : Req) (ws : List Nat) (k : Nat) (s u : State) : Prop where
  only : OnlyBus s u
  keys : u.bus.keys = s.bus.keys
  words : ∀ w, w < k → (tabGet none u.bus.staged (stageKey req.val (regKey r fr i w))).map BitVec.toNat =
    some (wordVal r i ws w)

theorem frameUp_congr {s u : State} (only : OnlyBus s u) : frameUp r fr u = frameUp r fr s := by
  rw [only]
  rfl

theorem keyOpen_congr {s u : State} (only : OnlyBus s u) (keys : u.bus.keys = s.bus.keys) (f q : Nat) :
    keyOpen u f q = keyOpen s f q := by
  rw [keyOpen, keyLeft, keyOf_congr keys, only.now, keyOpen, keyLeft]

/-- The next word is staged beside those below it. -/
theorem Staged.succ {k : Nat} {u : State} (h : Staged r fr i req ws k s u) (up : frameUp r fr s = true)
    (lower : k + 1 < (regInfo r).words) :
    Staged r fr i req ws (k + 1) s (writeOne r fr i k (wholeAcc req ws k) busy ok true eff u) := by
  rw [writeOne, writeReg_staged ((frameUp_congr h.only).trans up) lower]
  refine ⟨h.only.trans rfl, h.keys, fun w hw => ?_⟩
  dsimp only [accessEnd]
  rw [tabGet_stageWord]
  split
  · next same =>
    have at_k : w = k := by
      by_contra apart
      exact regKey_word apart (Nat.add_left_cancel same)
    rw [Option.map_some, stagedWord_wholeAcc, at_k]
  · next other => exact h.words w (by
      rcases Nat.lt_succ_iff_lt_or_eq.mp hw with below | rfl
      · exact below
      · exact absurd rfl other)

theorem staged_lower (up : frameUp r fr s = true) {k : Nat} (lower : k < (regInfo r).words) : Staged r fr i req ws k s
    (forEach (List.range k) (fun w s => writeOne r fr i w (wholeAcc req ws w) busy ok true eff s) s) := by
  induction k with
  | zero => exact ⟨rfl, rfl, fun w hw => absurd hw (Nat.not_lt_zero w)⟩
  | succ k ih =>
    rw [forEach, List.range_succ, List.foldl_append]
    exact (ih (by omega)).succ up lower

/-- The commit finds the words of the list. -/
theorem Staged.commitVals {u : State} (h : Staged r fr i req ws ((regInfo r).words - 1) s u) :
    commitVals u r fr i (wholeAcc req ws ((regInfo r).words - 1)) = wordVals r i ws := by
  refine List.map_congr_left fun w hw => ?_
  have inside := List.mem_range.mp hw
  dsimp only
  split
  · next top => rw [top, applyWin_wholeAcc, wordVal]
  · next lower =>
    have staged := h.words w (by omega)
    split
    · next v e =>
      rw [wholeAcc_req] at e
      rw [e] at staged
      exact Option.some.inj staged
    · next e =>
      rw [wholeAcc_req] at e
      rw [e] at staged
      cases staged

/-- The writes of all words act on a state that differs from `s` in the register interface alone. -/
theorem commitWords_taken (whole : ws.length = (regInfo r).words) (some_word : 0 < (regInfo r).words)
    (h : acceptsWords r fr i req ws busy ok s = true) :
    ∃ u, OnlyBus s u ∧ commitWords r fr i req ws busy ok eff s = eff (wordVals r i ws) u := by
  unfold acceptsWords at h
  simp only [Bool.and_eq_true] at h
  obtain ⟨⟨⟨⟨up, key⟩, notBusy⟩, legal⟩, fits⟩ := h
  have staged : Staged r fr i req ws ((regInfo r).words - 1) s _ :=
    staged_lower (busy := busy) (ok := ok) (eff := eff) up (Nat.sub_lt some_word Nat.one_pos)
  generalize hu : forEach (List.range ((regInfo r).words - 1))
    (fun w s => writeOne r fr i w (wholeAcc req ws w) busy ok true eff s) s = u at staged
  have accepted : accepts r fr i (wholeAcc req ws ((regInfo r).words - 1)) busy ok u = true := by
    rw [accepts, staged.commitVals, frameUp_congr staged.only, up, keyOpen_congr staged.only staged.keys,
      wholeAcc_req, key, notBusy, legal, fits]
    rfl
  refine ⟨taken r fr i (wholeAcc req ws ((regInfo r).words - 1)) u, staged.only.trans (taken_bus ..), ?_⟩
  rw [← staged.commitVals, ← regCommit_taken (eff := eff) accepted, ← hu, commitWords, whole]
  conv_lhs => rw [← Nat.sub_add_cancel some_word, forEach, List.range_succ, List.foldl_append]
  rfl

end

end Sys2Proof.Machine

/-! Porter channels: how a chain starts, is aborted and ends (spec/13 R544-R549). -/

namespace Sys2Proof.Machine

/-! ### Channels -/

@[simp] theorem prtOf_modPrt_same (n : Nat) (f : Prt → Prt) (s : State) : prtOf (modPrt n f s) n = f (prtOf s n) :=
  tabGet_tabMod_same ..

theorem prtOf_modPrt_ne {n j : Nat} (f : Prt → Prt) (s : State) (h : j ≠ n) : prtOf (modPrt n f s) j = prtOf s j :=
  tabGet_tabMod_ne _ _ h

theorem prtOf_congr {s t : State} (h : t.prt = s.prt) (j : Nat) : prtOf t j = prtOf s j := by rw [prtOf, h, prtOf]

@[simp] theorem fld_modPrt (n : Nat) (f : Prt → Prt) (s : State) (q : FieldRef) (g c : Nat) :
    fld (modPrt n f s) q g c = fld s q g c := by
  rw [fld, rword, modPrt_bus, fld, rword]

/-- A descriptor field fits its bytes (R531). -/
theorem pd_lt (x : Prt) (o n : Nat) : pd x o n < 256 ^ n := by
  have bytes : ∀ l : List Nat, l.foldr (fun b v => b % 256 + 256 * v) 0 < 256 ^ l.length := by
    intro l
    induction l with
    | nil => exact Nat.one_pos
    | cons b l ih =>
      rw [List.foldr_cons, List.length_cons, Nat.pow_succ]
      omega
  exact lt_of_lt_of_le (bytes _) (Nat.pow_le_pow_right (by decide) (List.length_take_le ..))

/-! ### Registers of a channel -/

theorem OnlyRegs.prt {s t : State} (h : OnlyRegs s t) : t.prt = s.prt := by rw [h]
theorem OnlyRegs.mem {s t : State} (h : OnlyRegs s t) : t.mem = s.mem := by rw [h]
theorem OnlyRegs.pwr {s t : State} (h : OnlyRegs s t) : t.pwr = s.pwr := by rw [h]

/-- A field of a register that each channel of a group holds. -/
abbrev ChannelField (f : FieldRef) : Prop :=
  (regInfo f.reg).blk = .prt ∧ (regInfo f.reg).stride = 64 ∧ (regInfo f.reg).off < 64 ∧ f.word = 0

theorem channelField_key {f : FieldRef} (h : ChannelField f) (g c : Nat) :
    regKey f.reg g c f.word = (308 + g) * 0x1000 + (16 * c + (regInfo f.reg).off / 4) := by
  obtain ⟨blk, stride, -, word⟩ := h
  simp only [regKey, blk, stride, word, blkFrame]
  omega

theorem fld_setFld_channel {f q : FieldRef} {v g c : Nat} {s : State} (hf : ChannelField f) (hq : ChannelField q)
    (apart : (regInfo q.reg).off / 4 ≠ (regInfo f.reg).off / 4) : fld (setFld f v s g c) q g c = fld s q g c := by
  refine fld_setFld_ne ?_
  rw [channelField_key hf, channelField_key hq]
  omega

/-- A field of a group's PRT_GCNT. -/
abbrev GroupCount (f : FieldRef) : Prop := f.reg = .PRT_GCNT ∧ f.word = 0 ∧ f.lo + f.width ≤ 32

theorem groupCount_key {f : FieldRef} (h : GroupCount f) (g : Nat) : regKey f.reg g 0 f.word = (308 + g) * 0x1000 + 0x201 := by
  obtain ⟨reg, word, -⟩ := h
  rw [reg, word]
  rfl

theorem fld_setFld_groupCount {f q : FieldRef} {v g c : Nat} {s : State} (hf : ChannelField f) (hq : GroupCount q)
    (hc : c < 16) : fld (setFld f v s g c) q g = fld s q g := by
  have off := hf.2.2.1
  refine fld_setFld_ne ?_
  rw [channelField_key hf, groupCount_key hq]
  omega

/-- What counts a chain's end and raises its source leaves the channel's registers alone. -/
theorem fld_raise_channel {f q : FieldRef} {src g c : Nat} {s : State} (hf : GroupCount f) (hq : ChannelField q) (hg : g < 4)
    (hc : c < 16) : fld (raise src (bump f s g)) q g c = fld s q g c := by
  have off := hq.2.2.1
  have quiet : regKey q.reg g c q.word ∉ wakeWords := fun h => by
    have high := reportWords_high _ (wakeWords_sub h)
    rw [channelField_key hq] at high
    omega
  rw [(raise_regs _ _).fld quiet]
  refine fld_setFld_ne ?_
  rw [channelField_key hq, groupCount_key hf]
  omega

theorem fld_raise_groupCount {f : FieldRef} {src g : Nat} {s : State} (hf : GroupCount f) (hg : g < 4) :
    fld (raise src (bump f s g)) f g = min (fld s f g + 1) (2 ^ f.width - 1) := by
  have quiet : regKey f.reg g 0 f.word ∉ wakeWords := fun h => by
    have high := reportWords_high _ (wakeWords_sub h)
    rw [groupCount_key hf] at high
    omega
  rw [(raise_regs _ _).fld quiet, fld_bump _ _ _ _ _ hf.2.2]

/-! ### The end of a chain (R545, R548, R549) -/

/-- What the end of a chain leaves of the channel and its registers. -/
def ChainEnded (n cur res detail resid ddone : Nat) (t : State) : Prop :=
  prtOf t n = { Prt.reset with st := .idle, cur := cur } ∧ fld t F.PRT_STAT_RESULT (n / 16) (n % 16) = res ∧
    fld t F.PRT_STAT_DETAIL (n / 16) (n % 16) = detail ∧ fld t F.PRT_RESID_RESID (n / 16) (n % 16) = resid ∧
    fld t F.PRT_DDONE_DDONE (n / 16) (n % 16) = ddone

/-- The registers at the end of a chain. -/
def chainRegs (n res detail resid ddone : Nat) (s : State) : State :=
  setFld F.PRT_RESID_RESID resid (setFld F.PRT_DDONE_DDONE ddone (setFld F.PRT_STAT_RESULT res
    (setFld F.PRT_STAT_DETAIL detail s (n / 16) (n % 16)) (n / 16) (n % 16)) (n / 16) (n % 16)) (n / 16) (n % 16)

/-- The end of a chain before it is counted and raised. -/
def chainClosed (n res detail resid ddone : Nat) (s : State) : State :=
  modPrt n (fun x => { Prt.reset with st := .idle, cur := x.cur }) (chainRegs n res detail resid ddone s)

theorem chainEnd_done (n detail resid ddone : Nat) (s : State) :
    chainEnd n 0 detail resid ddone s = chainClosed n 0 detail resid ddone s := rfl

theorem chainEnd_aborted (n detail resid ddone : Nat) (s : State) : chainEnd n 1 detail resid ddone s =
    raise (337 + n) (bump F.PRT_GCNT_ABORTS (chainClosed n 1 detail resid ddone s) (n / 16)) := rfl

theorem chainEnd_descriptor (n detail resid ddone : Nat) (s : State) : chainEnd n 3 detail resid ddone s =
    raise (401 + n) (bump F.PRT_GCNT_ERRORS (chainClosed n 3 detail resid ddone s) (n / 16)) := rfl

section
variable {n res detail resid ddone : Nat} {s : State}

theorem chainRegs_only : OnlyRegs s (chainRegs n res detail resid ddone s) :=
  (((((OnlyRegs.refl s).setFld ..).setFld ..).setFld ..).setFld ..)

theorem prtOf_chainClosed_self :
    prtOf (chainClosed n res detail resid ddone s) n = { Prt.reset with st := .idle, cur := (prtOf s n).cur } := by
  rw [chainClosed, prtOf_modPrt_same, prtOf_congr chainRegs_only.prt]

theorem prtOf_chainClosed_ne {j : Nat} (h : j ≠ n) : prtOf (chainClosed n res detail resid ddone s) j = prtOf s j := by
  rw [chainClosed, prtOf_modPrt_ne _ _ h, prtOf_congr chainRegs_only.prt]

theorem chainClosed_mem : (chainClosed n res detail resid ddone s).mem = s.mem := by
  rw [chainClosed, modPrt_mem, chainRegs_only.mem]

theorem chainClosed_pwr : (chainClosed n res detail resid ddone s).pwr = s.pwr := by
  rw [chainClosed, modPrt_pwr, chainRegs_only.pwr]

theorem chainClosed_ended (hres : res < 16) (hdetail : detail < 256) (hresid : resid < 2 ^ 32) (hddone : ddone < 2 ^ 32) :
    ChainEnded n (prtOf s n).cur res detail resid ddone (chainClosed n res detail resid ddone s) := by
  refine ⟨prtOf_chainClosed_self, ?_, ?_, ?_, ?_⟩ <;> unfold chainClosed chainRegs <;>
    simp (disch := decide) only [fld_modPrt, fld_setFld_channel, fld_setFld_beside, fld_setFld]
  · exact Nat.mod_eq_of_lt hres
  · exact Nat.mod_eq_of_lt hdetail
  · exact Nat.mod_eq_of_lt hresid
  · exact Nat.mod_eq_of_lt hddone

theorem chainClosed_descs : fld (chainClosed n res detail resid ddone s) F.PRT_STAT_DESCS (n / 16) (n % 16) =
    fld s F.PRT_STAT_DESCS (n / 16) (n % 16) := by
  unfold chainClosed chainRegs
  simp (disch := decide) only [fld_modPrt, fld_setFld_channel, fld_setFld_beside]

theorem chainClosed_groupCount {f : FieldRef} (hf : GroupCount f) :
    fld (chainClosed n res detail resid ddone s) f (n / 16) = fld s f (n / 16) := by
  have hc : n % 16 < 16 := Nat.mod_lt _ (by decide)
  unfold chainClosed chainRegs
  rw [fld_modPrt, fld_setFld_groupCount (by decide) hf hc, fld_setFld_groupCount (by decide) hf hc,
    fld_setFld_groupCount (by decide) hf hc, fld_setFld_groupCount (by decide) hf hc]

/-- A chain that ends with an event: it ends, is counted in the group, and raises its source. -/
structure Announced (n cur res detail resid ddone : Nat) (f : FieldRef) (src : Nat) (s t : State) : Prop where
  others : ∀ j, j ≠ n → prtOf t j = prtOf s j
  mem : t.mem = s.mem
  ended : ChainEnded n cur res detail resid ddone t
  counted : fld t f (n / 16) = min (fld s f (n / 16) + 1) (2 ^ f.width - 1)
  pends : domUp s 213 = true → (srcOf t src).pend = true

theorem chainClosed_announced {f : FieldRef} (hf : GroupCount f) (src : Nat) (hn : n < 64) (hres : res < 16)
    (hdetail : detail < 256) (hresid : resid < 2 ^ 32) (hddone : ddone < 2 ^ 32) :
    Announced n (prtOf s n).cur res detail resid ddone f src s
      (raise src (bump f (chainClosed n res detail resid ddone s) (n / 16))) := by
  have hg : n / 16 < 4 := by omega
  have hc : n % 16 < 16 := Nat.mod_lt _ (by decide)
  have prt : (raise src (bump f (chainClosed n res detail resid ddone s) (n / 16))).prt =
      (chainClosed n res detail resid ddone s).prt := by rw [raise_prt, bump_prt _ _ _ _ _]
  obtain ⟨self, result, det, residue, done⟩ :=
    chainClosed_ended (n := n) (s := s) hres hdetail hresid hddone
  refine ⟨fun j hj => (prtOf_congr prt j).trans (prtOf_chainClosed_ne hj), ?_,
    ⟨(prtOf_congr prt n).trans self, ?_, ?_, ?_, ?_⟩, ?_, fun powered => raise_pends ?_⟩
  · rw [raise_mem, bump_mem _ _ _ _ _, chainClosed_mem]
  · rw [fld_raise_channel hf (by decide) hg hc, result]
  · rw [fld_raise_channel hf (by decide) hg hc, det]
  · rw [fld_raise_channel hf (by decide) hg hc, residue]
  · rw [fld_raise_channel hf (by decide) hg hc, done]
  · rw [fld_raise_groupCount hf hg, chainClosed_groupCount hf]
  · rwa [domUp, bump_pwr _ _ _ _ _, chainClosed_pwr]

end

/-! ### START and ABORT (R544, R545) -/

theorem prtDescEffect_start {n : Nat} {v : List Nat} (start : valOf v F.PRT_DESC_START = 1) (s : State) :
    prtDescEffect n v s = modPrt n (fun _ => { Prt.reset with
      st := .fetch, cur := valOf v F.PRT_DESC_ADDR_LO * 64 + valOf v F.PRT_DESC_ADDR_HI * 2 ^ 32 })
      (setFld F.PRT_STAT_RESULT 0 (setFld F.PRT_STAT_DETAIL 0 (setFld F.PRT_STAT_DESCS 0 s (n / 16) (n % 16))
        (n / 16) (n % 16)) (n / 16) (n % 16)) := if_pos start

/-- The words that START writes carry the address of the 64-byte descriptor (R544). -/
theorem prtStart_words (c : Nat) {a : Nat} (ha : a < 2 ^ 48) {v : List Nat}
    (hv : v = wordVals .PRT_DESC c [a % 2 ^ 32 / 64 * 64, 2 ^ 31 + a / 2 ^ 32]) :
    valOf v F.PRT_DESC_START = 1 ∧
      valOf v F.PRT_DESC_ADDR_LO * 64 + valOf v F.PRT_DESC_ADDR_HI * 2 ^ 32 = a / 64 * 64 := by
  have start : valOf v F.PRT_DESC_START = bitsOf ((2 ^ 31 + a / 2 ^ 32) % 2 ^ 32) 31 1 := by
    rw [hv]
    exact valOf_wordVals (by decide) (show bitsOf (kindMask .PRT_DESC 1 _ ||| woMask .PRT_DESC 1) 31 1 = _ by decide)
  have low : valOf v F.PRT_DESC_ADDR_LO = bitsOf (a % 2 ^ 32 / 64 * 64 % 2 ^ 32) 6 26 := by
    rw [hv]
    exact valOf_wordVals (by decide) (show bitsOf (kindMask .PRT_DESC 0 _ ||| woMask .PRT_DESC 0) 6 26 = _ by decide)
  have high : valOf v F.PRT_DESC_ADDR_HI = bitsOf ((2 ^ 31 + a / 2 ^ 32) % 2 ^ 32) 0 16 := by
    rw [hv]
    exact valOf_wordVals (by decide) (show bitsOf (kindMask .PRT_DESC 1 _ ||| woMask .PRT_DESC 1) 0 16 = _ by decide)
  rw [start, low, high]
  simp only [bitsOf, Nat.shiftRight_eq_div_pow]
  omega

section
variable {req : Req} {ch : Fin 64} {s : State}

theorem prtStart_fetches {addr : BitVec 48} (accepted : acceptsWords .PRT_DESC (ch.val / 16) (ch.val % 16) req
      [addr.toNat % 2 ^ 32 / 64 * 64, 2 ^ 31 + addr.toNat / 2 ^ 32] (prtDescBusy s ch.val) anyOk s = true) :
    Answers (.prtStart req ch addr) s fun t => (∀ j, j ≠ ch.val → prtOf t j = prtOf s j) ∧
      prtOf t ch.val = { Prt.reset with st := .fetch, cur := addr.toNat / 64 * 64 } ∧
      fld t F.PRT_STAT_RESULT (ch.val / 16) (ch.val % 16) = 0 ∧ fld t F.PRT_STAT_DETAIL (ch.val / 16) (ch.val % 16) = 0 ∧
      fld t F.PRT_STAT_DESCS (ch.val / 16) (ch.val % 16) = 0 := by
  obtain ⟨u, only, commits⟩ := commitWords_taken (eff := prtDescEffect ch.val) rfl (by decide) accepted
  obtain ⟨start, address⟩ := prtStart_words (ch.val % 16) addr.isLt rfl
  rw [prtDescEffect_start start, address] at commits
  have prt : u.prt = s.prt := by rw [only]
  refine ⟨_, congrArg Host.Outcome.next commits, fun j hj => ?_, ?_, ?_, ?_, ?_⟩
  · rw [prtOf_modPrt_ne _ _ hj, prtOf_congr (t := setFld _ _ _ _ _) (s := u), prtOf_congr prt]
    rw [setFld_prt _ _ _ _ _, setFld_prt _ _ _ _ _, setFld_prt _ _ _ _ _]
  · rw [prtOf_modPrt_same]
  all_goals
    simp (disch := decide) only [fld_modPrt, fld_setFld_beside, fld_setFld]
    rfl

theorem prtAbort_aborts (accepted : accepts .PRT_CMD (ch.val / 16) (ch.val % 16) ⟨req, .normal, 1⟩ (prtCmdBusy s ch.val)
      anyOk s = true) :
    Answers (.prtAbort req ch) s fun t => (∀ j, j ≠ ch.val → prtOf t j = prtOf s j) ∧ t.mem = s.mem ∧
      prtOf t ch.val = prtAsk (prtOf s ch.val) := by
  refine ⟨_, congrArg Host.Outcome.next (regCommit_taken accepted), fun j hj => ?_, ?_, ?_⟩
  · rw [prtCmdEffect, prtOf_modPrt_ne _ _ hj, prtOf_congr (taken_prt ..)]
  · rw [prtCmdEffect, modPrt_mem, taken_mem]
  · rw [prtCmdEffect, prtOf_modPrt_same, prtOf_congr (taken_prt ..)]

end

end Sys2Proof.Machine

/-! The fetch of a descriptor and the burst of 64-bit elements (spec/13 R531-R537, R543-R549). -/

namespace Sys2Proof.Machine

/-! ### The fetch of a descriptor (R532, R533, R545) -/

/-- The channel holds the bytes of a descriptor that it has just read. -/
def described (n : Nat) (d : List Nat) (s : State) : State := modPrt n (fun x => { x with desc := d }) s

@[simp] theorem prtOf_described (n : Nat) (d : List Nat) (s : State) :
    prtOf (described n d s) n = { prtOf s n with desc := d } := prtOf_modPrt_same ..

theorem prtOf_described_ne {n j : Nat} (d : List Nat) (s : State) (h : j ≠ n) : prtOf (described n d s) j = prtOf s j :=
  prtOf_modPrt_ne _ s h

/-- Nothing in the checks of R533 reads a porter's own state. -/
theorem descFault_described (n : Nat) (d : List Nat) (s : State) (x : Prt) : descFault (described n d s) x = descFault s x := rfl

theorem descRegion_sram {o : Nat} (h : InSram o 64) : descRegion (0x10000000 + o) = true := by
  have := h.inside
  simp only [descRegion, Bool.or_eq_true, Bool.and_eq_true, decide_eq_true_eq]
  omega

section
variable {ch : Fin 64} {o : Nat} {s : State}

/-- A fetch from core SRAM reads the 64 bytes whole; an abort that fell in it ends the chain after it. -/
theorem exec_descriptorFetch (up : domUp s (204 + ch.val / 16) = true) (cur : (prtOf s ch.val).cur = 0x10000000 + o)
    (inside : InSram o 64)
    (fetches : (prtOf s ch.val).st = .fetch ∨ (prtOf s ch.val).st = .aborting ∧ (prtOf s ch.val).desc = []) :
    exec (.descriptorFetch ch) s = .next (
      let u := described ch.val (sramBytes s o 64) s
      if (prtOf s ch.val).st = .aborting then chainEnd ch.val 1 0 (prtResid (prtOf u ch.val)) 0 u else descStart ch.val u) := by
  have reads : ((prtOf s ch.val).st = .fetch || ((prtOf s ch.val).st = .aborting && (prtOf s ch.val).desc.isEmpty)) = true := by
    rcases fetches with fetch | ⟨aborting, empty⟩
    · rw [decide_eq_true fetch, Bool.true_or]
    · rw [decide_eq_true aborting, empty, List.isEmpty_nil, Bool.and_self, Bool.or_true]
  obtain ⟨l, words, bytes⟩ := readWords_sram (136 + ch.val) 8 inside s
  show execDescriptorFetch ch s = _
  unfold execDescriptorFetch
  dsimp only
  rw [up, reads, if_neg (by decide), cur, descRegion_sram inside, if_neg (by decide), words]
  dsimp only
  rw [bytes, apply_ite Host.Outcome.next]
  rfl

theorem descStart_fault {n d : Nat} {u : State} (fault : descFault u (prtOf u n) = some d) :
    descStart n u = chainEnd n 3 d (pd (prtOf u n) 0x18 4) 0 u := by
  rw [descStart, fault]

/-- A valid descriptor without handles, outside LFI mode, moves at once (R531). -/
theorem descStart_moves {n : Nat} {u : State} (valid : descFault u (prtOf u n) = none) (plain : pd (prtOf u n) 0x20 1 ≠ 3)
    (chks : pdFlag (prtOf u n) 1 = false) (chkd : pdFlag (prtOf u n) 2 = false) : descStart n u =
      modPrt n (fun x => { x with st := .move, src := pd (prtOf u n) 0 6, dst := pd (prtOf u n) 8 6 }) u := by
  have outside : pdLfi (prtOf u n) = false := beq_eq_false_iff_ne.mpr plain
  simp only [descStart, valid, outside, sideCheck, chks, chkd, Bool.false_eq_true, if_false, Bool.not_true]

/-- What a channel has not written is all of its descriptor (R548). -/
theorem prtResid_unmoved {x : Prt} (plain : pd x 0x20 1 ≠ 3) (written : x.written = 0) : prtResid x = pd x 0x18 4 := by
  have outside : pdLfi x = false := beq_eq_false_iff_ne.mpr plain
  simp [prtResid, outside, written]

end

/-! ### Elements of a burst (R534, R535) -/

/-- From `s` to `t` channel `n` becomes `y`. No other channel and no register word changes. -/
structure ChannelTo (n : Nat) (y : Prt) (s t : State) : Prop where
  self : prtOf t n = y
  others : ∀ j, j ≠ n → prtOf t j = prtOf s j
  regs : t.bus.regs = s.bus.regs

theorem ChannelTo.refl (n : Nat) (s : State) : ChannelTo n (prtOf s n) s s := ⟨rfl, fun _ _ => rfl, rfl⟩

theorem ChannelTo.trans {n : Nat} {y z : Prt} {s t u : State} (h : ChannelTo n y s t) (g : ChannelTo n z t u) :
    ChannelTo n z s u := ⟨g.self, fun j hj => (g.others j hj).trans (h.others j hj), g.regs.trans h.regs⟩

theorem modPrt_channelTo (n : Nat) (f : Prt → Prt) (s : State) : ChannelTo n (f (prtOf s n)) s (modPrt n f s) :=
  ⟨prtOf_modPrt_same .., fun _ hj => prtOf_modPrt_ne f s hj, rfl⟩

theorem sramWrite_channelTo (n k o v : Nat) (s : State) : ChannelTo n (prtOf s n) s (sramWrite k o v s) := by
  have same : (sramWrite k o v s).prt = s.prt ∧ (sramWrite k o v s).bus = s.bus := by
    induction k generalizing o v s with
    | zero => exact ⟨rfl, rfl⟩
    | succ k ih => exact ih _ _ _
  exact ⟨prtOf_congr same.1 n, fun j _ => prtOf_congr same.1 j, by rw [same.2]⟩

/-- The channel after `k` elements of 64 bits that spell `v` have entered its holding register. -/
def took (k v : Nat) (x : Prt) : Prt :=
  { x with hold := x.hold + v * 2 ^ x.bits, bits := x.bits + 64 * k, taken := x.taken + k }

/-- The channel after `k` elements of 64 bits have left its holding register. -/
def gave (k : Nat) (x : Prt) : Prt :=
  { x with hold := x.hold / 2 ^ (64 * k), bits := x.bits - 64 * k, written := x.written + k }

theorem took_zero (x : Prt) : took 0 0 x = x := by simp [took]

theorem took_took (k m v w : Nat) (x : Prt) : took m w (took k v x) = took (k + m) (v + 2 ^ (64 * k) * w) x := by
  simp only [took, Nat.mul_add, Nat.add_mul, Nat.pow_add, Nat.add_assoc, Prt.mk.injEq, true_and, and_true]
  ring

theorem gave_zero (x : Prt) : gave 0 x = x := by simp [gave]

theorem gave_gave (k m : Nat) (x : Prt) : gave m (gave k x) = gave (k + m) x := by
  simp only [gave, Nat.mul_add, Nat.pow_add, Nat.div_div_eq_div_mul, Nat.add_assoc, Nat.sub_sub]

theorem elemSize_dword : elemSize 3 = 8 := rfl
theorem widthBits_dword : widthBits 3 = 64 := rfl

theorem elemAddr_inc (n base k size : Nat) (s : State) : elemAddr n 0 base k size s = (.ok (base + k * size), s, 0) := rfl

/-- Elements of 64 bits enter the holding register as they stand in core SRAM. -/
theorem readElems_sram (n k : Nat) {a : Nat} {s : State} (width : pd (prtOf s n) 0x1E 1 = 3) (inc : pd (prtOf s n) 0x20 1 = 0)
    (at_a : (prtOf s n).src + 8 * (prtOf s n).taken = 0x10000000 + a) (inside : InSram a (8 * k)) :
    ∃ t, readElems n k s = (none, t) ∧ ChannelTo n (took k (sramRead s (8 * k) a) (prtOf s n)) s t ∧ t.mem = s.mem := by
  induction k generalizing a s with
  | zero => exact ⟨s, rfl, by rw [Nat.mul_zero, sramRead, took_zero]; exact .refl n s, rfl⟩
  | succ k ih =>
    rw [Nat.mul_succ, Nat.add_comm] at inside
    have address : (prtOf s n).src + (prtOf s n).taken * 8 = 0x10000000 + a := by omega
    have word : sramRead s 8 a % 2 ^ 64 = sramRead s 8 a := Nat.mod_eq_of_lt (sramRead_lt s 8 a)
    have one := modPrt_channelTo n (fun x => { x with
      hold := x.hold + sramRead s 8 a % 2 ^ 64 * 2 ^ x.bits, bits := x.bits + 64, taken := x.taken + 1 }) s
    generalize hu : modPrt n _ s = u at one
    have self : prtOf u n = took 1 (sramRead s 8 a) (prtOf s n) := by rw [one.self, word, took]
    have memory : u.mem = s.mem := by rw [← hu, modPrt_mem]
    obtain ⟨t, reads, becomes, same⟩ := ih (a := a + 8) (s := u) (by rw [self]; exact width) (by rw [self]; exact inc)
      (by rw [self, took]; dsimp only; omega) inside.next
    refine ⟨t, ?_, ?_, same.trans memory⟩
    · rw [readElems, width, inc, elemSize_dword, widthBits_dword, elemAddr_inc, address]
      dsimp only
      rw [fabRead_sram inside.first]
      dsimp only
      rw [hu, reads]
    · rw [self, took_took, sramRead_congr memory] at becomes
      rw [Nat.add_comm k 1, Nat.mul_add, sramRead_add]
      exact one.trans becomes

/-- Elements of 64 bits come to stand in core SRAM as they leave the holding register. -/
theorem writeElems_sram (n k : Nat) {b : Nat} {s : State} (width : pd (prtOf s n) 0x1F 1 = 3) (inc : pd (prtOf s n) 0x21 1 = 0)
    (at_b : (prtOf s n).dst + 8 * (prtOf s n).written = 0x10000000 + b) (inside : InSram b (8 * k)) :
    ∃ t, writeElems n k s = (none, t) ∧ ChannelTo n (gave k (prtOf s n)) s t ∧
      StoresBytes b (8 * k) (prtOf s n).hold s t := by
  induction k generalizing b s with
  | zero => exact ⟨s, rfl, by rw [gave_zero]; exact .refl n s, .none b _ rfl⟩
  | succ k ih =>
    rw [Nat.mul_succ, Nat.add_comm] at inside
    have address : (prtOf s n).dst + (prtOf s n).written * 8 = 0x10000000 + b := by omega
    generalize hw : sramWrite 8 b ((prtOf s n).hold % 2 ^ 64 % 2 ^ 72) s = w
    have written : ChannelTo n (prtOf s n) s w := hw ▸ sramWrite_channelTo n 8 b _ s
    have stored : StoresBytes b 8 (prtOf s n).hold s w := by
      have low : (prtOf s n).hold % 2 ^ 64 % 2 ^ 72 = (prtOf s n).hold % 256 ^ 8 := by omega
      rw [← hw, low]
      exact (sramWrite_stores 8 b _ s).of_mod
    have one := modPrt_channelTo n (fun x => { x with
      hold := x.hold / 2 ^ 64, bits := x.bits - 64, written := x.written + 1 }) w
    generalize hu : modPrt n _ w = u at one
    have self : prtOf u n = gave 1 (prtOf s n) := by rw [one.self, written.self, gave]
    obtain ⟨t, writes, becomes, stores⟩ := ih (b := b + 8) (s := u) (by rw [self]; exact width) (by rw [self]; exact inc)
      (by rw [self, gave]; dsimp only; omega) inside.next
    refine ⟨t, ?_, ?_, ?_⟩
    · rw [writeElems, width, inc, elemSize_dword, widthBits_dword, elemAddr_inc, address]
      dsimp only
      rw [fabWrite_sram inside.first, hw]
      dsimp only
      rw [hu, writes]
    · rw [self, gave_gave, Nat.add_comm 1 k] at becomes
      exact (written.trans one).trans becomes
    · have moved : StoresBytes b 8 (prtOf s n).hold s u := fun j => by
        rw [← hu, sramByte_congr (modPrt_mem ..), stored j]
      rw [Nat.mul_succ, Nat.add_comm (8 * k)]
      exact moved.trans stores (by rw [self, gave]; rfl)

end Sys2Proof.Machine

/-! O36: a chain starts, is aborted, fetches and checks its descriptor, and copies 64-bit elements between buffers of core SRAM
(spec/13 R531-R549). -/

namespace Sys2Proof.Machine

/-! ### A burst of 64-bit elements (R537) -/

/-- The elements of the channel's next burst: up to 32 of 64 bits. -/
def burstLen (x : Prt) : Nat := min 32 (pd x 0x18 4 - x.taken)

/-- The channel stands before a burst of a descriptor that copies 64-bit elements from offset `a` of core SRAM on to offset
`b`, with no FLAGS and no NEXT, and its holding register is empty. -/
structure CopyBurst (x : Prt) (a b : Nat) : Prop where
  moves : x.st = .move
  sw : pd x 0x1E 1 = 3
  dw : pd x 0x1F 1 = 3
  smode : pd x 0x20 1 = 0
  dmode : pd x 0x21 1 = 0
  flags : pd x 0x22 1 = 0
  next : pd x 0x30 6 = 0
  hold : x.hold = 0
  bits : x.bits = 0
  even : x.written = x.taken
  more : x.taken < pd x 0x18 4
  source : x.src + 8 * x.taken = 0x10000000 + a
  target : x.dst + 8 * x.taken = 0x10000000 + b
  sourceInside : InSram a (8 * burstLen x)
  targetInside : InSram b (8 * burstLen x)

/-- The channel behind its burst. -/
def behind (x : Prt) : Prt := { x with taken := x.taken + burstLen x, written := x.taken + burstLen x }

theorem pdFlag_clear {x : Prt} (flags : pd x 0x22 1 = 0) (i : Nat) : pdFlag x i = false := by
  rw [pdFlag, flags, bitAt, Nat.zero_shiftRight]
  rfl

section
variable {ch : Fin 64} {a b : Nat} {s : State}

/-- Elements that have entered the empty holding register leave it whole, and leave it empty. -/
theorem gave_took {x : Prt} (copy : CopyBurst x a b) {v : Nat} (hv : v < 256 ^ (8 * burstLen x)) :
    heldElems (took (burstLen x) v x) = burstLen x ∧ (took (burstLen x) v x).hold = v ∧
      gave (burstLen x) (took (burstLen x) v x) = behind x := by
  have size : (256 : Nat) ^ (8 * burstLen x) = 2 ^ (64 * burstLen x) := by
    rw [show (256 : Nat) = 2 ^ 8 from rfl, ← Nat.pow_mul, ← Nat.mul_assoc]
  have held : (took (burstLen x) v x).hold = v := by
    rw [took, copy.hold, copy.bits, Nat.pow_zero, Nat.mul_one, Nat.zero_add]
  have bits : (took (burstLen x) v x).bits = 64 * burstLen x := by rw [took, copy.bits, Nat.zero_add]
  refine ⟨?_, held, ?_⟩
  · rw [heldElems, bits, show pd (took (burstLen x) v x) 0x1F 1 = 3 from copy.dw, widthBits_dword,
      Nat.mul_div_cancel_left _ (by decide)]
  · rw [gave, held, bits, Nat.sub_self, Nat.div_eq_of_lt (size ▸ hv), behind, took, copy.hold, copy.bits, copy.even]

/-- A burst reads its elements before it writes them. -/
theorem plainBurst_copies (copy : CopyBurst (prtOf s ch.val) a b) : ∃ u,
    plainBurst ch.val s =
      burstDone ch.val (decide ((prtOf s ch.val).taken + burstLen (prtOf s ch.val) ≥ pd (prtOf s ch.val) 0x18 4)) u ∧
    ChannelTo ch.val (behind (prtOf s ch.val)) s u ∧
    StoresBytes b (8 * burstLen (prtOf s ch.val)) (sramRead s (8 * burstLen (prtOf s ch.val)) a) s u := by
  generalize hx : prtOf s ch.val = x at copy
  obtain ⟨t, reads, took, same⟩ := readElems_sram ch.val (burstLen x) (hx ▸ copy.sw) (hx ▸ copy.smode)
    (hx ▸ copy.source) copy.sourceInside
  rw [hx] at took
  obtain ⟨count, hold, gave⟩ := gave_took copy (sramRead_lt s (8 * burstLen x) a)
  obtain ⟨u, writes, wrote, stores⟩ := writeElems_sram (s := t) ch.val (burstLen x) (b := b)
    (by rw [took.self]; exact copy.dw) (by rw [took.self]; exact copy.dmode)
    (by rw [took.self]; exact copy.even ▸ copy.target) copy.targetInside
  rw [took.self, gave] at wrote
  rw [took.self, hold] at stores
  refine ⟨u, ?_, took.trans wrote, fun j => by rw [stores j, sramByte_congr same]⟩
  unfold plainBurst
  dsimp only
  rw [hx, copy.sw, if_pos (by decide), ← burstLen, reads]
  dsimp only
  rw [took.self, count, writes]
  dsimp only
  rw [wrote.self]
  rfl

theorem exec_porterBurst (up : domUp s (204 + ch.val / 16) = true) (copy : CopyBurst (prtOf s ch.val) a b) :
    exec (.porterBurst ch) s = .next (plainBurst ch.val s) := by
  have plain : pdLfi (prtOf s ch.val) = false := by
    rw [pdLfi, copy.smode]
    rfl
  show execPorterBurst ch s = _
  unfold execPorterBurst
  dsimp only
  rw [up, copy.moves, plain]
  rfl

/-- What a descriptor without FLAGS and NEXT leaves at its end, before the chain ends (R543). -/
def descCounted (n : Nat) (s : State) : State :=
  modPrt n (fun y => { y with cur := (prtOf s n).cur }) (bump F.PRT_STAT_DESCS s (n / 16) (n % 16))

/-- A descriptor without FLAGS and NEXT ends its chain (R543). -/
theorem descEnd_last {n : Nat} {u : State} (moves : (prtOf u n).st = .move) (flags : pd (prtOf u n) 0x22 1 = 0)
    (next : pd (prtOf u n) 0x30 6 = 0) : descEnd n u = chainEnd n 0 0 0 (prtOf u n).written (descCounted n u) := by
  simp only [descEnd, pdFlag_clear flags, moves, next, Bool.false_eq_true, if_false, if_true]
  rfl

/-- The end of a chain behind its last burst. -/
theorem chainEnd_descCounted {n w : Nat} {u : State} (hw : w < 2 ^ 32) :
    ChainEnded n (prtOf u n).cur 0 0 0 w (chainEnd n 0 0 0 w (descCounted n u)) ∧
    (∀ j, j ≠ n → prtOf (chainEnd n 0 0 0 w (descCounted n u)) j = prtOf u j) ∧
    (chainEnd n 0 0 0 w (descCounted n u)).mem = u.mem ∧
    fld (chainEnd n 0 0 0 w (descCounted n u)) F.PRT_STAT_DESCS (n / 16) (n % 16) =
      min (fld u F.PRT_STAT_DESCS (n / 16) (n % 16) + 1) 65535 := by
  have prt : (bump F.PRT_STAT_DESCS u (n / 16) (n % 16)).prt = u.prt := by rw [bump_prt _ _ _ _ _]
  have ended := chainClosed_ended (n := n) (s := descCounted n u) (show 0 < 16 by decide) (show 0 < 256 by decide)
    (show 0 < 2 ^ 32 by decide) hw
  have cur : (prtOf (descCounted n u) n).cur = (prtOf u n).cur := by rw [descCounted, prtOf_modPrt_same]
  rw [chainEnd_done]
  refine ⟨cur ▸ ended, fun j hj => ?_, ?_, ?_⟩
  · rw [prtOf_chainClosed_ne hj, descCounted, prtOf_modPrt_ne _ _ hj, prtOf_congr prt]
  · rw [chainClosed_mem, descCounted, modPrt_mem, bump_mem _ _ _ _ _]
  · rw [chainClosed_descs, descCounted, fld_modPrt, fld_bump _ _ _ _ _ (by decide)]
    rfl

/-- Every destination byte is the source byte from before the burst; behind its last element the chain ends (R537, R543). -/
theorem porterBurst_copies (up : domUp s (204 + ch.val / 16) = true) (copy : CopyBurst (prtOf s ch.val) a b) :
    Answers (.porterBurst ch) s fun t => (∀ j, j ≠ ch.val → prtOf t j = prtOf s j) ∧
      (∀ j, b ≤ j → j < b + 8 * burstLen (prtOf s ch.val) → sramByte t j = sramByte s (a + (j - b))) ∧
      (∀ j, j < b ∨ b + 8 * burstLen (prtOf s ch.val) ≤ j → sramByte t j = sramByte s j) ∧
      ((prtOf s ch.val).taken + burstLen (prtOf s ch.val) < pd (prtOf s ch.val) 0x18 4 →
        prtOf t ch.val = behind (prtOf s ch.val)) ∧
      ((prtOf s ch.val).taken + burstLen (prtOf s ch.val) = pd (prtOf s ch.val) 0x18 4 →
        ChainEnded ch.val (prtOf s ch.val).cur 0 0 0 (pd (prtOf s ch.val) 0x18 4) t ∧
        fld t F.PRT_STAT_DESCS (ch.val / 16) (ch.val % 16) =
          min (fld s F.PRT_STAT_DESCS (ch.val / 16) (ch.val % 16) + 1) 65535) := by
  obtain ⟨u, runs, became, stores⟩ := plainBurst_copies copy
  have step := exec_porterBurst up copy
  generalize hx : prtOf s ch.val = x at *
  obtain ⟨copied, kept⟩ := stores.copies
  rw [runs] at step
  have moves : (prtOf u ch.val).st = .move := by rw [became.self]; exact copy.moves
  by_cases last : x.taken + burstLen x ≥ pd x 0x18 4
  · have whole : x.taken + burstLen x = pd x 0x18 4 := by
      have := copy.more
      rw [burstLen] at last ⊢
      omega
    have done : burstDone ch.val (decide (x.taken + burstLen x ≥ pd x 0x18 4)) u =
        chainEnd ch.val 0 0 0 (pd x 0x18 4) (descCounted ch.val u) := by
      rw [burstDone, decide_eq_true last, if_pos rfl, descEnd_last moves (by rw [became.self]; exact copy.flags)
        (by rw [became.self]; exact copy.next), became.self, ← whole]
      rfl
    obtain ⟨ended, others, memory, descs⟩ := chainEnd_descCounted (n := ch.val) (u := u) (pd_lt x 0x18 4)
    rw [done] at step
    refine ⟨_, step, fun j hj => (others j hj).trans (became.others j hj), fun j low high => ?_, fun j outside => ?_,
      fun before => absurd before (by omega), fun _ => ⟨?_, ?_⟩⟩
    · rw [sramByte_congr memory, copied j low high]
    · rw [sramByte_congr memory, kept j outside]
    · rw [became.self] at ended
      exact ended
    · rw [descs, (RegsBut.of_eq (ks := []) became.regs).fld List.not_mem_nil]
  · have done : burstDone ch.val (decide (x.taken + burstLen x ≥ pd x 0x18 4)) u = u := by
      rw [burstDone, decide_eq_false last, if_neg (by decide), moves, if_neg (by decide)]
    rw [done] at step
    exact ⟨u, step, became.others, copied, kept, fun _ => became.self, fun whole => absurd whole (by omega)⟩

end

/-! ### The clauses of the statement -/

/-- The bytes of its descriptor are the channel's own: beside it nothing has changed. -/
theorem Announced.of_described {n cur res detail resid ddone src : Nat} {f : FieldRef} {d : List Nat} {s t : State}
    (h : Announced n cur res detail resid ddone f src (described n d s) t) :
    Announced n cur res detail resid ddone f src s t where
  others j hj := (h.others j hj).trans (prtOf_described_ne d s hj)
  mem := h.mem.trans (modPrt_mem ..)
  ended := h.ended
  counted := by rw [h.counted, described, fld_modPrt]
  pends := h.pends

section
variable {ch : Fin 64} {o : Nat} {s : State}

/-- An invalid descriptor ends its chain with the offset at fault (R533, R548, R549). -/
theorem descriptorFetch_faults {d : Nat} (up : domUp s (204 + ch.val / 16) = true)
    (cur : (prtOf s ch.val).cur = 0x10000000 + o) (inside : InSram o 64) (fetch : (prtOf s ch.val).st = .fetch) (hd : d < 64)
    (fault : descFault s { prtOf s ch.val with desc := sramBytes s o 64 } = some d) :
    Answers (.descriptorFetch ch) s fun t => Announced ch.val (prtOf s ch.val).cur 3 d
      (pd { prtOf s ch.val with desc := sramBytes s o 64 } 0x18 4) 0 F.PRT_GCNT_ERRORS (401 + ch.val) s t := by
  have step := exec_descriptorFetch up cur inside (.inl fetch)
  have self := prtOf_described ch.val (sramBytes s o 64) s
  dsimp only at step
  rw [fetch, if_neg (by decide), descStart_fault (d := d) (by rw [self, descFault_described, fault]), self,
    chainEnd_descriptor] at step
  have told := chainClosed_announced (n := ch.val) (s := described ch.val (sramBytes s o 64) s) (f := F.PRT_GCNT_ERRORS)
    (by decide) (401 + ch.val) ch.isLt (show 3 < 16 by decide) (show d < 256 by omega)
    (pd_lt { prtOf s ch.val with desc := sramBytes s o 64 } 0x18 4) (show 0 < 2 ^ 32 by decide)
  rw [self] at told
  exact ⟨_, step, told.of_described⟩

/-- A valid descriptor without handles starts to move (R531, R533). -/
theorem descriptorFetch_moves (up : domUp s (204 + ch.val / 16) = true)
    (cur : (prtOf s ch.val).cur = 0x10000000 + o) (inside : InSram o 64) (fetch : (prtOf s ch.val).st = .fetch)
    {y : Prt} (hy : y = { prtOf s ch.val with desc := sramBytes s o 64 }) (valid : descFault s y = none)
    (plain : pd y 0x20 1 ≠ 3) (chks : pdFlag y 1 = false) (chkd : pdFlag y 2 = false) :
    Answers (.descriptorFetch ch) s fun t => (∀ j, j ≠ ch.val → prtOf t j = prtOf s j) ∧ t.mem = s.mem ∧
      prtOf t ch.val = { y with st := .move, src := pd y 0 6, dst := pd y 8 6 } := by
  have step := exec_descriptorFetch up cur inside (.inl fetch)
  have self := (prtOf_described ch.val (sramBytes s o 64) s).trans hy.symm
  rw [← self] at plain chks chkd
  dsimp only at step
  rw [fetch, if_neg (by decide), descStart_moves (by rw [self, descFault_described, valid]) plain chks chkd, self] at step
  refine ⟨_, step, fun j hj => ?_, ?_, ?_⟩
  · rw [prtOf_modPrt_ne _ _ hj, prtOf_described_ne _ _ hj]
  · rw [modPrt_mem, described, modPrt_mem]
  · rw [prtOf_modPrt_same, self]

/-- An abort that fell in the fetch ends the chain after it (R545, R548). -/
theorem descriptorFetch_aborts (up : domUp s (204 + ch.val / 16) = true)
    (cur : (prtOf s ch.val).cur = 0x10000000 + o) (inside : InSram o 64) (aborting : (prtOf s ch.val).st = .aborting)
    (empty : (prtOf s ch.val).desc = []) {y : Prt} (hy : y = { prtOf s ch.val with desc := sramBytes s o 64 })
    (plain : pd y 0x20 1 ≠ 3) (written : y.written = 0) :
    Answers (.descriptorFetch ch) s fun t => Announced ch.val (prtOf s ch.val).cur 1 0 (pd y 0x18 4) 0
      F.PRT_GCNT_ABORTS (337 + ch.val) s t := by
  have step := exec_descriptorFetch up cur inside (.inr ⟨aborting, empty⟩)
  have self := (prtOf_described ch.val (sramBytes s o 64) s).trans hy.symm
  dsimp only at step
  rw [aborting, if_pos rfl, self, prtResid_unmoved plain written, chainEnd_aborted] at step
  have told := chainClosed_announced (n := ch.val) (s := described ch.val (sramBytes s o 64) s) (f := F.PRT_GCNT_ABORTS)
    (by decide) (337 + ch.val) ch.isLt (show 1 < 16 by decide) (show 0 < 256 by decide) (pd_lt y 0x18 4)
    (show 0 < 2 ^ 32 by decide)
  rw [self, hy] at told
  exact ⟨_, step, hy ▸ told.of_described⟩

end

/-- Settles O36: a burst reads all its elements into the holding register before it writes them, so that the destination is a
copy even where it overlaps the source; every end of a chain is the same closing of the channel, counted and raised. -/
theorem portersRunTheirChains : Obligations.PortersRunTheirChains := by
  unfold Obligations.PortersRunTheirChains
  intro req ch addr o a b s n g c x ws others y fetched ended m
  refine ⟨fun accepted => prtStart_fetches accepted, fun accepted => ?abort,
    fun ⟨up, cur, aligned, inside⟩ fetch d hd fault => ?fault,
    fun ⟨up, cur, aligned, inside⟩ fetch valid plain chks chkd =>
      descriptorFetch_moves up cur ⟨aligned, inside⟩ fetch rfl valid plain chks chkd,
    fun ⟨up, cur, aligned, inside⟩ aborting empty plain written => ?aborts,
    fun up moves sw dw smode dmode flags next hold bits even more source target ha hb ina inb => ?burst⟩
  case abort =>
    obtain ⟨t, runs, same, memory, self⟩ := prtAbort_aborts accepted
    refine ⟨t, runs, same, memory, fun running => self.trans ?_, fun aborting => self.trans ?_⟩
    · rcases running with st | st <;> rw [prtAsk, st]
    · rw [prtAsk, aborting]
  case fault =>
    obtain ⟨t, runs, told⟩ := descriptorFetch_faults up cur ⟨aligned, inside⟩ fetch hd fault
    exact ⟨t, runs, told.others, told.mem, told.ended, told.counted, told.pends⟩
  case aborts =>
    obtain ⟨t, runs, told⟩ := descriptorFetch_aborts up cur ⟨aligned, inside⟩ aborting empty rfl plain written
    exact ⟨t, runs, told.others, told.mem, told.ended, told.counted, told.pends⟩
  case burst =>
    exact porterBurst_copies up ⟨moves, sw, dw, smode, dmode, flags, next, hold, bits, even, more, source, target,
      ⟨ha, ina⟩, ⟨hb, inb⟩⟩

end Sys2Proof.Machine

/-! States that meet the hypotheses of O36. -/

namespace Sys2Proof.Machine

/-- A descriptor at the start of core SRAM: `len` elements of 64 bits from offset 0x1000 on to the word behind it. -/
def copyDescriptor (len : Byte) : Tab Byte :=
  [(0, 0x00), (1, 0x10), (3, 0x10), (8, 0x08), (9, 0x10), (11, 0x10), (0x18, len), (0x1E, 3), (0x1F, 3)]

/-- Porter group 0 and ICT are powered, and channel 0 is enabled; the two words from 0x1000 on begin with the bytes 5 and 6. -/
def porterState (x : Prt) (descriptor : Tab Byte) : State :=
  { standbyState with
    pwr := { standbyState.pwr with up := BitVec.ofNat 214 (2 ^ 204 + 2 ^ 213) }
    mem := { Mem.reset with sram := descriptor ++ [(0x1000, 5), (0x1008, 6)] }
    prt := [(0, x)]
    bus := { Bus.reset with regs := [(regKey .PRT_CTL 0 0 0, 0x80000000)] } }

/-- A channel that fetches its descriptor. -/
def fetching : Prt := { Prt.reset with st := .fetch, cur := 0x10000000 }

/-- A channel behind `done` elements of the descriptor, the next of which stands at offset 0x1000. -/
def copying (len : Byte) (done : Nat) : Prt := { fetching with
  st := .move, src := 0x10001000 - 8 * done, dst := 0x10001008 - 8 * done, taken := done, written := done
  desc := (List.range 64).map fun i => (tabGet 0 (copyDescriptor len) i).toNat }

theorem porterState_starts : Answers (.prtStart 128 0 0x10000040) (porterState { Prt.reset with st := .idle } []) fun t =>
    prtOf t 0 = { Prt.reset with st := .fetch, cur := 0x10000040 } := by
  obtain ⟨t, runs, -, fetch, -⟩ := (portersRunTheirChains 128 0 0x10000040 0 0 0
    (porterState { Prt.reset with st := .idle } [])).1 (by decide)
  exact ⟨t, runs, fetch⟩

theorem porterState_aborts : Answers (.prtAbort 128 0) (porterState (copying 1 0) []) fun t => (prtOf t 0).st = .aborting := by
  obtain ⟨t, runs, -, -, asked, -⟩ := (portersRunTheirChains 128 0 0 0 0 0 (porterState (copying 1 0) [])).2.1 (by decide)
  exact ⟨t, runs, congrArg Prt.st (asked (.inr rfl))⟩

/-- A descriptor with LEN = 0 is at fault at 0x18. -/
theorem porterState_faults : Answers (.descriptorFetch 0) (porterState fetching (copyDescriptor 0)) fun t =>
    fld t F.PRT_STAT_RESULT 0 0 = 3 ∧ fld t F.PRT_STAT_DETAIL 0 0 = 0x18 ∧ fld t F.PRT_GCNT_ERRORS 0 = 1 ∧
      (srcOf t 401).pend = true := by
  obtain ⟨t, runs, -, -, ⟨-, result, detail, -⟩, counted, pends⟩ := (portersRunTheirChains 128 0 0 0 0 0
    (porterState fetching (copyDescriptor 0))).2.2.1 (by decide) rfl 0x18 (by decide) (by decide)
  exact ⟨t, runs, result, detail, counted.trans (by decide), pends (by decide)⟩

theorem porterState_moves : Answers (.descriptorFetch 0) (porterState fetching (copyDescriptor 33)) fun t =>
    prtOf t 0 = copying 33 0 := by
  obtain ⟨t, runs, -, -, moves⟩ := (portersRunTheirChains 128 0 0 0 0 0
    (porterState fetching (copyDescriptor 33))).2.2.2.1 (by decide) rfl (by decide) (by decide) (by decide) (by decide)
  exact ⟨t, runs, moves.trans (by decide)⟩

theorem porterState_aborts_fetch :
    Answers (.descriptorFetch 0) (porterState { fetching with st := .aborting } (copyDescriptor 33)) fun t =>
      fld t F.PRT_RESID_RESID 0 0 = 33 ∧ fld t F.PRT_GCNT_ABORTS 0 = 1 ∧ (srcOf t 337).pend = true := by
  obtain ⟨t, runs, -, -, ⟨-, -, -, residue, -⟩, counted, pends⟩ := (portersRunTheirChains 128 0 0 0 0 0
    (porterState { fetching with st := .aborting } (copyDescriptor 33))).2.2.2.2.1 (by decide) rfl rfl (by decide) rfl
  exact ⟨t, runs, residue.trans (by decide), counted.trans (by decide), pends (by decide)⟩

/-- The first of two bursts, whose destination overlaps its source by 31 words. -/
theorem porterState_copies : Answers (.porterBurst 0) (porterState (copying 33 0) []) fun t =>
    sramByte t 0x1008 = 5 ∧ sramByte t 0x1010 = 6 ∧ sramByte t 0x1000 = 5 ∧ (prtOf t 0).taken = 32 := by
  obtain ⟨t, runs, -, copied, kept, goes, -⟩ := (portersRunTheirChains 128 0 0 0 0x1000 0x1008
    (porterState (copying 33 0) [])).2.2.2.2.2 (by decide) rfl (by decide) (by decide) (by decide) (by decide) (by decide)
    (by decide) rfl rfl rfl (by decide) rfl rfl rfl rfl (by decide) (by decide)
  exact ⟨t, runs, (copied 0x1008 (by decide) (by decide)).trans (by decide),
    (copied 0x1010 (by decide) (by decide)).trans (by decide), (kept 0x1000 (by decide)).trans (by decide),
    congrArg Prt.taken (goes (by decide))⟩

/-- The second, of the last element. -/
theorem porterState_ends : Answers (.porterBurst 0) (porterState (copying 33 32) []) fun t =>
    sramByte t 0x1008 = 5 ∧ fld t F.PRT_DDONE_DDONE 0 0 = 33 ∧ fld t F.PRT_STAT_DESCS 0 0 = 1 := by
  obtain ⟨t, runs, -, copied, -, -, ends⟩ := (portersRunTheirChains 128 0 0 0 0x1000 0x1008
    (porterState (copying 33 32) [])).2.2.2.2.2 (by decide) rfl (by decide) (by decide) (by decide) (by decide) (by decide)
    (by decide) rfl rfl rfl (by decide) rfl rfl rfl rfl (by decide) (by decide)
  obtain ⟨⟨-, -, -, -, done⟩, descs⟩ := ends (by decide)
  exact ⟨t, runs, (copied 0x1008 (by decide) (by decide)).trans (by decide), done.trans (by decide), descs.trans (by decide)⟩

end Sys2Proof.Machine

/-! Egress ports, their queues and the registers beside them: what operations leave of each (spec/15). -/

namespace Sys2Proof.Machine

/-! ### Ports and queues -/

@[simp] theorem ethOf_modEth_same (p : Nat) (f : EthPort → EthPort) (s : State) : ethOf (modEth p f s) p = f (ethOf s p) :=
  tabGet_tabMod_same ..

theorem ethOf_modEth_ne {p j : Nat} (f : EthPort → EthPort) (s : State) (h : j ≠ p) : ethOf (modEth p f s) j = ethOf s j :=
  tabGet_tabMod_ne _ _ h

theorem ethOf_congr {s t : State} (h : t.eth = s.eth) (p : Nat) : ethOf t p = ethOf s p := by rw [ethOf, h, ethOf]

theorem egQ_congr {s t : State} (h : t.eth = s.eth) (p q : Nat) : egQ t p q = egQ s p q := by rw [egQ, ethOf_congr h, egQ]

theorem ethOf_modEgQ_ne {p j : Nat} (q : Nat) (f : EgQ → EgQ) (s : State) (h : j ≠ p) :
    ethOf (modEgQ p q f s) j = ethOf s j := ethOf_modEth_ne _ _ h

theorem modEgQ_cur (p q : Nat) (f : EgQ → EgQ) (s : State) : (ethOf (modEgQ p q f s) p).cur = (ethOf s p).cur := by
  rw [modEgQ, ethOf_modEth_same]

theorem egQ_modEgQ (p q : Nat) (f : EgQ → EgQ) (s : State) (i j : Nat) :
    egQ (modEgQ p q f s) i j = if i = p ∧ j = q then f (egQ s p q) else egQ s i j := by
  by_cases port : i = p
  · subst port
    rw [egQ, modEgQ, ethOf_modEth_same, tabGet_tabMod]
    simp only [true_and]
    rfl
  · rw [egQ, ethOf_modEgQ_ne _ _ _ port, if_neg fun both => port both.1, egQ]

/-- No queue of a port is changed by what changes its other fields. -/
theorem egQ_modEth {p : Nat} {f : EthPort → EthPort} (h : ∀ e, (f e).queues = e.queues) (s : State) (i j : Nat) :
    egQ (modEth p f s) i j = egQ s i j := by
  by_cases port : i = p
  · subst port
    rw [egQ, ethOf_modEth_same, h, egQ]
  · rw [egQ, ethOf_modEth_ne _ _ port, egQ]

/-- From `s` to `t` no port but `p` changes, and at `p` one queue, which goes from `f :: r` to `r`. -/
structure Popped (p q : Nat) (r : List EgFrame) (s t : State) : Prop where
  alone : ∀ j, j ≠ p → ethOf t j = ethOf s j
  queue : egQ t p q = { egQ s p q with frames := r }
  others : ∀ j, j ≠ q → egQ t p j = egQ s p j

theorem Popped.of_eth {p q : Nat} {r : List EgFrame} {s t u : State} (h : Popped p q r s t) (e : u.eth = t.eth) :
    Popped p q r s u where
  alone j hj := (ethOf_congr e j).trans (h.alone j hj)
  queue := (egQ_congr e p q).trans h.queue
  others j hj := (egQ_congr e p j).trans (h.others j hj)

theorem newHead_eth (p q : Nat) (s : State) : (newHead p q s).eth = s.eth :=
  (newHead_upto (Upto.refl 0x80480000 s) (Sub.refl _)).eth rfl

theorem newHead_ssw (p q : Nat) (s : State) : (newHead p q s).ssw = s.ssw :=
  (newHead_upto (Upto.refl 0x80480000 s) (Sub.refl _)).ssw rfl

theorem egPop_popped {p q : Nat} {f : EgFrame} {r : List EgFrame} {s : State} (head : (egQ s p q).frames = f :: r) :
    Popped p q r s (egPop p q s) := by
  refine Popped.of_eth (t := modEgQ p q _ s) ⟨fun j hj => ethOf_modEgQ_ne _ _ _ hj, ?_, fun j hj => ?_⟩ (newHead_eth ..)
  · rw [egQ_modEgQ, if_pos ⟨rfl, rfl⟩, head, List.drop_one, List.tail_cons]
  · rw [egQ_modEgQ, if_neg fun both => hj both.2]

theorem egPop_cur (p q : Nat) (s : State) : (ethOf (egPop p q s) p).cur = (ethOf s p).cur := by
  rw [egPop, ethOf_congr (newHead_eth ..), modEgQ_cur]

theorem egPop_ssw (p q : Nat) (s : State) : (egPop p q s).ssw = s.ssw := newHead_ssw ..

/-! ### Register words of frames -/

/-- No register word of the frames from `a` to before `b` changes (R43). -/
def FramesStay (a b : Nat) (s t : State) : Prop :=
  ∀ k, a * 0x1000 ≤ k → k < b * 0x1000 → tabFind t.bus.regs k = tabFind s.bus.regs k

theorem FramesStay.of_regs {a b : Nat} {s t : State} (h : t.bus.regs = s.bus.regs) : FramesStay a b s t := fun k _ _ => by
  rw [h]

theorem FramesStay.trans {a b : Nat} {s t u : State} (h : FramesStay a b s t) (g : FramesStay a b t u) :
    FramesStay a b s u := fun k ha hb => (g k ha hb).trans (h k ha hb)

theorem RegsBut.framesStay {ks : List Nat} {a b : Nat} {s t : State} (h : RegsBut ks s t)
    (apart : ∀ k ∈ ks, k < a * 0x1000 ∨ b * 0x1000 ≤ k) : FramesStay a b s t := fun k ha hb =>
  h k fun hk => by have := apart k hk; omega

theorem FramesStay.fld {a b : Nat} {s t : State} (h : FramesStay a b s t) {f : FieldRef} {fr i : Nat}
    (frame : a ≤ blkFrame (regInfo f.reg).blk fr ∧ blkFrame (regInfo f.reg).blk fr < b)
    (inside : ((regInfo f.reg).off + i * (regInfo f.reg).stride) / 4 + f.word < 0x1000) : fld t f fr i = fld s f fr i := by
  have word := h (regKey f.reg fr i f.word) (by unfold regKey; omega) (by unfold regKey; omega)
  rw [Machine.fld, rword, word, Machine.fld, rword]

theorem FramesStay.flag {a b : Nat} {s t : State} (h : FramesStay a b s t) {f : FieldRef} {fr i : Nat}
    (frame : a ≤ blkFrame (regInfo f.reg).blk fr ∧ blkFrame (regInfo f.reg).blk fr < b)
    (inside : ((regInfo f.reg).off + i * (regInfo f.reg).stride) / 4 + f.word < 0x1000) : flag t f fr i = flag s f fr i := by
  rw [Machine.flag, h.fld frame inside, Machine.flag]

/-! ### Registers of a port (R43) -/

theorem portFrame_bounds {p : Nat} (hp : p < 24) : 336 ≤ blkFrame .eth p ∧ blkFrame .eth p < 384 := by
  show 336 ≤ (if p < 16 then 336 + p else 360 + p) ∧ (if p < 16 then 336 + p else 360 + p) < 384
  split <;> omega

/-- No register word of a port changes. -/
abbrev PortsStay : State → State → Prop := FramesStay 336 384

section
variable {s t : State} (h : PortsStay s t) {p : Nat} (hp : p < 24)
include h hp

theorem PortsStay.gangLead : gangLead t p = gangLead s p := by
  have frame := portFrame_bounds hp
  unfold Machine.gangLead
  rw [h.flag (f := F.ETH_CFG_GANG) frame (by decide), h.flag (f := F.ETH_CFG_EN) frame (by decide)]

theorem PortsStay.egBuffer : egBuffer t p = egBuffer s p := by rw [Machine.egBuffer, h.gangLead hp, Machine.egBuffer]

theorem PortsStay.portUsable (eth : t.eth = s.eth) : portUsable t p = portUsable s p := by
  have frame := portFrame_bounds hp
  have lead := portFrame_bounds (p := p / 4 * 4) (by omega)
  unfold Machine.portUsable gangMember
  rw [h.flag (f := F.ETH_CFG_EN) frame (by decide), ethOf_congr eth,
    h.flag (f := F.ETH_CFG_GANG) lead (by decide), h.flag (f := F.ETH_CFG_EN) lead (by decide)]

theorem PortsStay.queueLimit {q : Nat} (hq : q < 64) : fld t F.EG_QCFG_QLIM p q = fld s F.EG_QCFG_QLIM p q := by
  refine h.fld (portFrame_bounds hp) ?_
  show (0x100 + q * 4) / 4 + 0 < 0x1000
  omega

end

/-- A register field that a port has once. -/
abbrev PortField (f : FieldRef) : Prop :=
  (regInfo f.reg).blk = .eth ∧ (regInfo f.reg).off / 4 + f.word < 0x1000 ∧ f.lo + f.width ≤ 32

theorem PortsStay.fld {s t : State} (h : PortsStay s t) {p : Nat} (hp : p < 24) {f : FieldRef} (port : PortField f) :
    fld t f p = fld s f p := by
  obtain ⟨blk, inside, -⟩ := port
  refine FramesStay.fld h (by rw [blk]; exact portFrame_bounds hp) ?_
  rwa [Nat.zero_mul]

/-- Fields of one port lie in different words when their places in the frame differ. -/
theorem fld_setFld_port {f g : FieldRef} (hf : PortField f) (hg : PortField g)
    (apart : (regInfo g.reg).off / 4 + g.word ≠ (regInfo f.reg).off / 4 + f.word) (v p : Nat) (s : State) :
    fld (setFld f v s p) g p = fld s g p := by
  refine fld_setFld_ne ?_
  unfold regKey
  rw [hf.1, hg.1, Nat.zero_mul, Nat.zero_mul]
  omega

/-! ### Events of a port -/

theorem raise_portsStay (src : Nat) (s : State) : PortsStay s (raise src s) :=
  (raise_regs' src s).framesStay fun k hk => .inr (reportWords_high k hk)

/-- An event of a port counts in its own field and leaves the other fields of the port alone. -/
theorem fld_egEvent {f : FieldRef} {p : Nat} (hf : PortField f) (hp : p < 24) (s : State) :
    fld (egEvent f p s) f p = min (fld s f p + 1) (2 ^ f.width - 1) := by
  rw [egEvent, (raise_portsStay _ _).fld hp hf, fld_bump _ _ _ _ _ hf.2.2]

theorem fld_egEvent_ne {f g : FieldRef} {p : Nat} (hf : PortField f) (hg : PortField g)
    (apart : (regInfo g.reg).off / 4 + g.word ≠ (regInfo f.reg).off / 4 + f.word) (hp : p < 24) (s : State) :
    fld (egEvent f p s) g p = fld s g p := by
  rw [egEvent, (raise_portsStay _ _).fld hp hg]
  exact fld_setFld_port hf hg apart ..

theorem egEvent_eth (f : FieldRef) (p : Nat) (s : State) : (egEvent f p s).eth = s.eth := by
  rw [egEvent, raise_eth, bump_eth _ _ _ _ _]

theorem egEvent_pends {f : FieldRef} {p : Nat} {s : State} (powered : domUp s 213 = true) :
    (srcOf (egEvent f p s) (617 + p)).pend = true := raise_pends powered

/-- A frame that becomes a head may be counted as late, and nothing else. -/
theorem newHead_cases (p q : Nat) (s : State) : newHead p q s = s ∨ newHead p q s = egEvent F.EG_PCNT1_PACELATE p s := by
  unfold newHead
  split
  · exact .inl rfl
  · split
    · dsimp only
      split
      · exact .inr rfl
      · exact .inl rfl
    · exact .inl rfl

theorem egPop_domUp (p q d : Nat) (s : State) : domUp (egPop p q s) d = domUp s d := by
  rw [egPop]
  rcases newHead_cases p q (modEgQ p q (fun x => { x with frames := x.frames.drop 1 }) s) with same | late
  · rw [same]
    rfl
  · rw [late]
    exact raise_domUp ..

theorem fld_egPop {g : FieldRef} {p : Nat} (hg : PortField g)
    (apart : (regInfo g.reg).off / 4 + g.word ≠ (regInfo .EG_PCNT1).off / 4) (hp : p < 24) (q : Nat) (s : State) :
    fld (egPop p q s) g p = fld s g p := by
  rw [egPop]
  rcases newHead_cases p q (modEgQ p q (fun x => { x with frames := x.frames.drop 1 }) s) with same | late
  · rw [same]
    rfl
  · rw [late, fld_egEvent_ne (f := F.EG_PCNT1_PACELATE) (by decide) hg apart hp]
    rfl

end Sys2Proof.Machine

/-! What a report and the release of a Stall ticket leave alone: the powered domains and the registers of the ports (spec/20
R796; spec/12 R512, R521). -/

namespace Sys2Proof.Machine

/-! ### A report changes no domain -/

theorem isolates_up (src detail : Nat) (s : State) :
    (match fclIsolates src detail with | some d => isolate d s | none => s).pwr.up = s.pwr.up := by
  split
  · unfold isolate
    dsimp only
    split
    · rfl
    · split <;> rfl
  · rfl

section
variable {full : State → State} (hf : ∀ u, (full u).pwr.up = u.pwr.up)
include hf

theorem ldgPushOr_up (r : LdgRec) (s : State) : (ldgPushOr full r s).pwr.up = s.pwr.up := by
  unfold ldgPushOr
  dsimp only
  split
  · rfl
  · split
    · exact hf _
    · split
      · exact (raise_pwr' ..).up
      · rfl

theorem setModeOr_up (m : Mode) (cause : Nat) (s : State) : (setModeOr full m cause s).pwr.up = s.pwr.up := by
  unfold setModeOr
  dsimp only
  rw [(modeEntry_pwr' ..).up, ldgPushOr_up hf, (raise_pwr' ..).up]

theorem severityAct_up (sev src detail : Nat) (s : State) : (severityAct full sev src detail s).pwr.up = s.pwr.up := by
  unfold severityAct
  dsimp only
  generalize ha : (if sev ≥ 1 then raise 771 s else s) = a
  have raised : a.pwr.up = s.pwr.up := by
    rw [← ha]
    split
    · exact (raise_pwr' ..).up
    · rfl
  generalize hb : (if sev ≥ 2 then (match fclIsolates src detail with | some d => isolate d a | none => a) else a) = b
  have isolated : b.pwr.up = a.pwr.up := by
    rw [← hb]
    split
    · exact isolates_up ..
    · rfl
  rw [← raised, ← isolated]
  split
  · split
    · exact setModeOr_up hf ..
    · rfl
  · split
    · split
      · show (tally 437 b).pwr.up = b.pwr.up
        rw [tally_pwr]
      · split
        · rw [setModeOr_up hf, tally_pwr]
        · rw [tally_pwr]
    · rfl

end

theorem reportN_up (n src sub detail req : Nat) (s : State) : (reportN n src sub detail req s).pwr.up = s.pwr.up := by
  induction n generalizing src sub detail req s with
  | zero => rfl
  | succ n ih =>
    have full (u : State) : (reportN n 0x1D 0 3 255 u).pwr.up = u.pwr.up := ih _ _ _ _ u
    unfold reportN
    dsimp only
    split
    · rfl
    · split
      · exact congrArg Pwr.up (tally_pwr 436 s)
      · rw [severityAct_up full]
        split
        · rw [ldgPushOr_up full]
          exact congrArg Pwr.up (tally_pwr 436 s)
        · exact congrArg Pwr.up (tally_pwr 436 s)

theorem report_up (src sub detail req : Nat) (s : State) : (report src sub detail req s).pwr.up = s.pwr.up :=
  reportN_up 4 src sub detail req s

/-! ### A refused handle and the release of a ticket -/

/-- The register words that a refused handle may change (R521). -/
def hndWords : List Nat := regKey .STL_CNT 0 0 0 :: regKey .STL_FCAP 0 0 0 :: regKey .STL_FCAP 0 0 1 :: reportWords

theorem hndWords_apart : ∀ k ∈ hndWords, k < 336 * 0x1000 ∨ 384 * 0x1000 ≤ k := by decide

theorem hndCapture_regs (op h req : Nat) (e : StlErr) (s : State) : RegsBut hndWords s (hndCapture op h req e s) := by
  have counted := (RegsBut.refl hndWords s).bump (f := F.STL_CNT_HNDREF) (n := 1) (fr := 0) (i := 0) (by decide)
  unfold hndCapture
  dsimp only
  split
  · exact (counted.setRword (by decide)).setRword (by decide)
  · exact counted

/-- A refusal is only returned, or is counted and reported (R521, R522). -/
theorem handleRefused_cases (op h req : Nat) (e : StlErr) (s : State) :
    handleRefused op h req e s = s ∨ handleRefused op h req e s = report 0x0D e.code h req (hndCapture op h req e s) := by
  cases e with
  | tickets => exact .inl rfl
  | bayoff => exact .inl rfl
  | _ => exact .inr (handleRefused_reports _ _ _ _ (by decide) (by decide))

theorem handleRefused_regs (op h req : Nat) (e : StlErr) (s : State) : RegsBut hndWords s (handleRefused op h req e s) := by
  rcases handleRefused_cases op h req e s with same | told
  · rw [same]
    exact .refl _ s
  · rw [told]
    refine (hndCapture_regs op h req e s).trans ((report_regs _ _ _ (by decide) _).weaken fun k hk => ?_)
    exact List.mem_cons_of_mem _ (List.mem_cons_of_mem _ (List.mem_cons_of_mem _ hk))

theorem handleRefused_up (op h req : Nat) (e : StlErr) (s : State) : (handleRefused op h req e s).pwr.up = s.pwr.up := by
  rcases handleRefused_cases op h req e s with same | told
  · rw [same]
  · rw [told, report_up, (hndCapture_only ..).pwr]

/-- FREE is refused, or changes buffer records and uses alone. -/
theorem stlFreeOp_cases (req h : Nat) (s : State) :
    (∃ e, (stlFreeOp req h s).2 = handleRefused 2 h req e s) ∨
      ∃ p i f, (stlFreeOp req h s).2 = bufSettle p i (modBuf p i f s) := by
  cases check : handleCheck s h req true with
  | some e => exact .inl ⟨e, by rw [stlFreeOp, check]⟩
  | none => exact .inr ⟨_, _, _, congrArg Prod.snd (stlFreeOp_passes check)⟩

theorem bufSettle_bus (p i : Nat) (s : State) : (bufSettle p i s).bus.regs = s.bus.regs :=
  (bufSettle_upto (Upto.refl 0x4000 s) (Sub.refl _)).regs rfl

theorem bufSettle_pwr (p i : Nat) (s : State) : (bufSettle p i s).pwr = s.pwr :=
  (bufSettle_upto (Upto.refl 0x4000 s) (Sub.refl _)).pwr rfl

theorem stlFreeOp_portsStay (req h : Nat) (s : State) : PortsStay s (stlFreeOp req h s).2 := by
  obtain ⟨e, refused⟩ | ⟨p, i, f, freed⟩ := stlFreeOp_cases req h s
  · rw [refused]
    exact (handleRefused_regs _ _ _ _ _).framesStay hndWords_apart
  · rw [freed]
    exact .of_regs (bufSettle_bus ..)

theorem stlFreeOp_up (req h : Nat) (s : State) : (stlFreeOp req h s).2.pwr.up = s.pwr.up := by
  obtain ⟨e, refused⟩ | ⟨p, i, f, freed⟩ := stlFreeOp_cases req h s
  · rw [refused, handleRefused_up]
  · rw [freed, bufSettle_pwr, modBuf_pwr]

/-! ### A frame leaves its port (R585) -/

theorem egRelease_eth (p : Nat) (f : EgFrame) (s : State) : (egRelease p f s).eth = s.eth :=
  (egRelease_upto (Upto.refl 0xd3c84080 s) (Sub.refl _)).eth rfl

theorem egRelease_portsStay (p : Nat) (f : EgFrame) (s : State) : PortsStay s (egRelease p f s) := by
  unfold egRelease
  split
  · exact stlFreeOp_portsStay _ _ s
  · exact .of_regs rfl

theorem egRelease_domUp (p d : Nat) (f : EgFrame) (s : State) : domUp (egRelease p f s) d = domUp s d := by
  unfold egRelease
  split
  · rw [domUp, stlFreeOp_up, domUp]
  · rfl

/-! ### The discard of a head frame (R613) -/

theorem gateDrop_discards {port : Fin 24} {queue : Fin 64} {f : EgFrame} {r : List EgFrame} {s : State}
    (head : (egQ s port queue).frames = f :: r) (unfit : f.nofit = true) (gate : gated s port queue = true)
    (closed : gateBit s port queue = false) : Answers (.gateDrop port queue) s fun t => Popped port queue r s t ∧
      fld t F.EG_PCNT0_GATEDROP port = min (fld s F.EG_PCNT0_GATEDROP port + 1) 255 ∧
      (domUp s 213 = true → (srcOf t (617 + port)).pend = true) := by
  have runs : exec (.gateDrop port queue) s =
      .next (egEvent F.EG_PCNT0_GATEDROP port (egRelease port f (egPop port queue s))) := by
    show execGateDrop port queue s = _
    unfold execGateDrop
    simp only [head, unfit, gate, closed, Bool.and_self, Bool.not_false, if_true]
  refine ⟨_, runs, (egPop_popped head).of_eth ?_, ?_, fun powered => egEvent_pends ?_⟩
  · rw [egEvent_eth, egRelease_eth]
  · rw [fld_egEvent (by decide) port.isLt, (egRelease_portsStay _ _ _).fld port.isLt (by decide),
      fld_egPop (by decide) (by decide) port.isLt]
    rfl
  · rw [egRelease_domUp, egPop_domUp, powered]

end Sys2Proof.Machine

/-! Selection at a port (spec/15 R606, R607, R616), the observation of queues (R629) and the commit of a policer (R626). -/

namespace Sys2Proof.Machine

/-! ### A port that is busy (R607) -/

theorem egressSelect_waits {port : Fin 24} {k fin : Nat} {f : EgFrame} {s : State} (usable : portUsable s port = true)
    (cur : (ethOf s port).cur = some (k, fin, f)) (sends : s.now * 100 < fin) :
    Answers (.egressSelect port) s fun t => t = s := by
  have stays : egFinish port s = s := by
    rw [egFinish, cur]
    exact if_neg (by omega)
  refine ⟨s, ?_, rfl⟩
  show execEgressSelect port s = _
  unfold execEgressSelect
  simp only [usable, stays, cur, Bool.not_true, Bool.false_eq_true, if_false, Option.isSome_some, if_true]

/-! ### Selection at an idle port (R606) -/

/-- A loop none of whose steps changes the state. -/
theorem forEach_fixed {α σ : Type} {l : List α} {f : α → σ → σ} {s : σ} (h : ∀ a ∈ l, f a s = s) : forEach l f s = s := by
  induction l with
  | nil => rfl
  | cons a l ih =>
    rw [forEach_cons, h a List.mem_cons_self]
    exact ih fun b hb => h b (List.mem_cons_of_mem a hb)

theorem clearNofit_fitting {p : Nat} {s : State}
    (fitted : ∀ j g k, j < 64 → (egQ s p j).frames = g :: k → g.nofit = false) : clearNofit p s = s := by
  refine forEach_fixed fun q hq => ?_
  split
  · next g k head =>
    rw [fitted q g k (List.mem_range.mp hq) head, Bool.false_and]
    rfl
  · rfl

theorem strictPick_highest {p q : Nat} {s : State} (strict : 48 ≤ q) (hq : q < 64) (eligible : egEligible s p q = true)
    (highest : ∀ j, q < j → j < 64 → egEligible s p j = false) : strictPick s p = some q := by
  rw [strictPick, List.find?_map]
  have first : (List.range 16).find? ((fun j => egEligible s p j) ∘ fun i => 63 - i) = some (63 - q) := by
    rw [List.find?_range_eq_some]
    refine ⟨?_, List.mem_range.mpr (by omega), fun i hi => ?_⟩
    · show egEligible s p (63 - (63 - q)) = true
      rwa [Nat.sub_sub_self (by omega)]
    · show (!egEligible s p (63 - i)) = true
      rw [highest (63 - i) (by omega) (by omega)]
      rfl
  rw [first, Option.map_some, Nat.sub_sub_self (by omega)]

/-! ### The start of a frame (R607, R616) -/

/-- A bucket after it has been charged for a frame. -/
def bktCharged (now : Nat) (f : EgFrame) (b : Bkt) : Bkt :=
  let y := bktFill now b
  { y with tokens := if y.mode = 1 then y.tokens - (egLen f + 20) else y.tokens, frames := (y.frames + 1) % 2 ^ 32 }

/-- A paced packet lies beyond the packets of its bucket (R619). -/
def paceOver (s : State) (f : EgFrame) (n : Nat) : Bool :=
  match f.pace with
  | some (_, k) => (bktOf s n).mode == 2 && decide (k ≥ (bktOf s n).npkt)
  | none => false

/-- The frame's bucket is charged. -/
def charged (p : Nat) (f : EgFrame) (s : State) : State :=
  match bktUsed s f with
  | none => s
  | some n => when (paceOver s f n) (fun s => bump F.EG_PCNT1_PACEOVR s p) (modBkt n (bktCharged s.now f) s)

/-- The frame takes the port. -/
def takesPort (p q : Nat) (f : EgFrame) (s : State) : State :=
  modEth p (fun e => { e with cur := some (q, s.now * 100 + wireTime s p (egLen f), f) }) s

theorem egQ_takesPort (p q : Nat) (f : EgFrame) (s : State) (i j : Nat) : egQ (takesPort p q f s) i j = egQ s i j :=
  egQ_modEth (f := fun e => { e with cur := some (q, s.now * 100 + wireTime s p (egLen f), f) }) (fun _ => rfl) s i j

theorem egStart_head {p q : Nat} {f : EgFrame} {r : List EgFrame} {s : State} (head : (egQ s p q).frames = f :: r) :
    egStart p q s = egPop p q (bumpWrap F.ETH_TXCNT_TX (takesPort p q f (charged p f s)) p) := by
  unfold egStart
  rw [head]
  rfl

theorem charged_cases (p : Nat) (f : EgFrame) (s : State) : charged p f s = s ∧ bktUsed s f = none ∨
    ∃ n, bktUsed s f = some n ∧ (charged p f s = modBkt n (bktCharged s.now f) s ∨
      charged p f s = bump F.EG_PCNT1_PACEOVR (modBkt n (bktCharged s.now f) s) p) := by
  unfold charged
  split
  · next unused => exact .inl ⟨rfl, unused⟩
  · next n used =>
    refine .inr ⟨n, used, ?_⟩
    unfold when
    split
    · exact .inr rfl
    · exact .inl rfl

theorem charged_eth (p : Nat) (f : EgFrame) (s : State) : (charged p f s).eth = s.eth := by
  obtain ⟨same, -⟩ | ⟨n, -, same | beyond⟩ := charged_cases p f s
  · rw [same]
  · rw [same]
    rfl
  · rw [beyond]
    rfl

theorem charged_now (p : Nat) (f : EgFrame) (s : State) : (charged p f s).now = s.now := by
  obtain ⟨same, -⟩ | ⟨n, -, same | beyond⟩ := charged_cases p f s
  · rw [same]
  · rw [same]
    rfl
  · rw [beyond]
    rfl

theorem fld_charged {g : FieldRef} (hg : PortField g) (apart : (regInfo g.reg).off / 4 + g.word ≠ (regInfo .EG_PCNT1).off / 4)
    (p : Nat) (f : EgFrame) (s : State) : fld (charged p f s) g p = fld s g p := by
  obtain ⟨same, -⟩ | ⟨n, -, same | beyond⟩ := charged_cases p f s
  · rw [same]
  · rw [same]
    rfl
  · rw [beyond]
    exact fld_setFld_port (f := F.EG_PCNT1_PACEOVR) (by decide) hg apart ..

theorem wireTime_charged (p l : Nat) (f : EgFrame) (s : State) : wireTime (charged p f s) p l = wireTime s p l := by
  unfold wireTime gangLead flag
  rw [fld_charged (by decide) (by decide), fld_charged (by decide) (by decide)]

theorem bktOf_charged {p n : Nat} {f : EgFrame} {s : State} (used : bktUsed s f = some n) :
    bktOf (charged p f s) n = bktCharged s.now f (bktOf s n) := by
  obtain ⟨-, unused⟩ | ⟨m, other, same | beyond⟩ := charged_cases p f s
  · rw [used] at unused
    cases unused
  · obtain rfl := Option.some.inj (other.symm.trans used)
    rw [same]
    exact tabGet_tabMod_same ..
  · obtain rfl := Option.some.inj (other.symm.trans used)
    rw [beyond]
    exact tabGet_tabMod_same ..

theorem egressSelect_starts {port : Fin 24} {queue : Fin 64} {f : EgFrame} {r : List EgFrame} {s : State}
    (usable : portUsable s port = true) (idle : (ethOf s port).cur = none) (strict : 48 ≤ queue.val)
    (eligible : egEligible s port queue = true) (highest : ∀ j, queue.val < j → j < 64 → egEligible s port j = false)
    (fitted : ∀ j g k, j < 64 → (egQ s port j).frames = g :: k → g.nofit = false)
    (head : (egQ s port queue).frames = f :: r) : Answers (.egressSelect port) s fun t => Popped port queue r s t ∧
      (ethOf t port).cur = some (queue.val, s.now * 100 + wireTime s port (egLen f), f) ∧
      fld t F.ETH_TXCNT_TX port = (fld s F.ETH_TXCNT_TX port + 1) % 2 ^ 32 ∧
      ∀ b, bktUsed s f = some b → bktOf t b = bktCharged s.now f (bktOf s b) := by
  have runs : exec (.egressSelect port) s = .next (egStart port queue s) := by
    have stays : egFinish port s = s := by rw [egFinish, idle]
    show execEgressSelect port s = _
    unfold execEgressSelect
    simp only [usable, stays, idle, clearNofit_fitting fitted, egSelect, strictPick_highest strict queue.isLt eligible highest,
      Bool.not_true, Bool.false_eq_true, if_false, Option.isSome_none]
  rw [egStart_head head] at runs
  generalize hu : bumpWrap F.ETH_TXCNT_TX (takesPort port queue f (charged port f s)) port = u at runs
  have eth : u.eth = (takesPort port queue f (charged port f s)).eth := by rw [← hu, bumpWrap_eth _ _ _ _ _]
  have queues (i j : Nat) : egQ u i j = egQ s i j := by
    rw [egQ_congr eth, egQ_takesPort, egQ_congr (charged_eth ..)]
  have popped := egPop_popped (p := port) (q := queue) ((congrArg EgQ.frames (queues ..)).trans head)
  refine ⟨_, runs, ⟨fun j hj => ?_, ?_, fun j hj => ?_⟩, ?_, ?_, fun b used => ?_⟩
  · rw [popped.alone j hj, ethOf_congr eth, takesPort, ethOf_modEth_ne _ _ hj, ethOf_congr (charged_eth ..)]
  · rw [popped.queue, queues]
  · rw [popped.others j hj, queues]
  · rw [egPop_cur, ethOf_congr eth, takesPort, ethOf_modEth_same, charged_now, wireTime_charged]
  · rw [fld_egPop (by decide) (by decide) port.isLt, ← hu, bumpWrap, fld_setFld _ _ _ _ _ (by decide)]
    show (fld (charged port f s) F.ETH_TXCNT_TX port + 1) % 2 ^ 32 = _
    rw [fld_charged (by decide) (by decide)]
  · rw [bktOf, egPop_ssw, ← hu, bumpWrap_ssw _ _ _ _ _]
    exact bktOf_charged used

/-! ### Observations (R629) -/

/-- Each of the listed queues of a port is observed once. -/
theorem egQ_observeQueues (last : Bool) (p : Nat) (l : List Nat) (once : l.Nodup) (s : State) :
    (forEach l (fun q s => modEgQ p q (observe s.now last) s) s).now = s.now ∧
    ∀ i j, egQ (forEach l (fun q s => modEgQ p q (observe s.now last) s) s) i j =
      if i = p ∧ j ∈ l then observe s.now last (egQ s i j) else egQ s i j := by
  induction l generalizing s with
  | nil => exact ⟨rfl, fun i j => by rw [if_neg fun h => List.not_mem_nil h.2]; rfl⟩
  | cons q l ih =>
    obtain ⟨fresh, once⟩ := List.nodup_cons.mp once
    obtain ⟨now, queues⟩ := ih once (modEgQ p q (observe s.now last) s)
    rw [forEach_cons]
    refine ⟨now, fun i j => ?_⟩
    rw [queues, egQ_modEgQ]
    by_cases port : i = p
    · subst port
      by_cases same : j = q
      · subst same
        simp [fresh]
      · simp [same]
    · simp [port]

/-- Every queue of a port is observed. -/
def observePort (last : Bool) (p : Nat) (s : State) : State :=
  forEach (List.range 64) (fun q s => modEgQ p q (observe s.now last) s) s

theorem observePort_ssw (last : Bool) (p : Nat) (s : State) : (observePort last p s).ssw = s.ssw :=
  forEach_same State.ssw (fun _ u => modEgQ_ssw _ _ _ u) s

/-- Each queue of the listed ports is observed once. -/
theorem egQ_observePorts (last : Bool) (l : List Nat) (once : l.Nodup) (s : State) (i j : Nat) :
    egQ (forEach l (observePort last) s) i j = if i ∈ l ∧ j < 64 then observe s.now last (egQ s i j) else egQ s i j := by
  induction l generalizing s with
  | nil => rw [if_neg fun h => List.not_mem_nil h.1]; rfl
  | cons p l ih =>
    obtain ⟨fresh, once⟩ := List.nodup_cons.mp once
    obtain ⟨now, queues⟩ := egQ_observeQueues last p (List.range 64) List.nodup_range s
    rw [forEach_cons, ih once, observePort, queues, now]
    by_cases same : i = p
    · subst same
      simp [fresh]
    · simp [same]

theorem queueMonitorSample_observes {s : State} (powered : domUp s 200 = true) :
    Answers .queueMonitorSample s fun t =>
      t.ssw.smpl = (if decide (s.ssw.smpl + 1 ≥ fld s F.EG_SMPL_PER) then 0 else s.ssw.smpl + 1) ∧
      ∀ i j, egQ t i j = if i < 24 ∧ j < 64 ∧ flag s F.ETH_CFG_EN i = true then
        observe s.now (decide (s.ssw.smpl + 1 ≥ fld s F.EG_SMPL_PER)) (egQ s i j) else egQ s i j := by
  generalize hl : decide (s.ssw.smpl + 1 ≥ fld s F.EG_SMPL_PER) = last
  have runs : exec .queueMonitorSample s = .next (forEach ((List.range 24).filter fun p => flag s F.ETH_CFG_EN p) (observePort last)
      (modSsw (fun x => { x with smpl := if last then 0 else x.smpl + 1 }) s)) := by
    rw [← hl]
    show execQueueMonitorSample s = _
    unfold execQueueMonitorSample
    rw [powered]
    rfl
  refine ⟨_, runs, ?_, fun i j => ?_⟩
  · rw [forEach_same State.ssw (observePort_ssw last)]
    rfl
  · have listed : (i ∈ (List.range 24).filter (fun p => flag s F.ETH_CFG_EN p) ∧ j < 64) ↔
        (i < 24 ∧ j < 64 ∧ flag s F.ETH_CFG_EN i = true) := by
      rw [List.mem_filter, List.mem_range, and_assoc, and_comm (b := j < 64)]
    rw [egQ_observePorts last _ (List.nodup_range.filter _)]
    simp only [listed]
    rfl

/-! ### A policer (R626) -/

theorem polOf_modPol (n : Nat) (f : Pol → Pol) (s : State) (j : Nat) :
    polOf (modPol n f s) j = if j = n then f (polOf s n) else polOf s j := tabGet_tabMod Pol.reset s.ssw.pol n j f

theorem polOf_taken (r : Reg) (fr i : Nat) (a : Acc) (s : State) (j : Nat) : polOf (taken r fr i a s) j = polOf s j := by
  rw [polOf, taken_ssw, polOf]

/-- The policer that the words of a commit configure: its buckets full, its counts those of `x`. -/
def polFilled (v : List Nat) (now : Nat) (x : Pol) : Pol :=
  { type := valOf v F.EG_POL_TYPE, aware := valOf v F.EG_POL_AWARE == 1, pcsrc := valOf v F.EG_POL_PCSRC == 1
    cir := valOf v F.EG_POL_CIR, pir := valOf v F.EG_POL_PIR, cbs := valOf v F.EG_POL_CBS, ebs := valOf v F.EG_POL_EBS
    c := valOf v F.EG_POL_CBS, e := valOf v F.EG_POL_EBS, partC := 0, partE := 0, at_ := now
    green := x.green, yellow := x.yellow, red := x.red }

theorem egPolCommit_fills {a : Acc} {s : State} (accepted : accepts .EG_POL 0 0 a neverBusy egPolOk s = true) :
    Answers (.egPolCommit a) s fun t =>
      (∀ j, j ≠ valOf (commitVals s .EG_POL 0 0 a) F.EG_POL_INDEX → polOf t j = polOf s j) ∧
      polOf t (valOf (commitVals s .EG_POL 0 0 a) F.EG_POL_INDEX) =
        polFilled (commitVals s .EG_POL 0 0 a) s.now (polOf s (valOf (commitVals s .EG_POL 0 0 a) F.EG_POL_INDEX)) := by
  refine ⟨_, congrArg Host.Outcome.next (regCommit_taken accepted), fun j hj => ?_, ?_⟩
  · rw [egPolEffect, polOf_modPol, if_neg hj, polOf_taken]
  · rw [egPolEffect, polOf_modPol, if_pos rfl, polOf_taken, taken_now]
    rfl

end Sys2Proof.Machine

/-! A frame of a core: its handle is checked, its bytes are read from main memory, and it joins its queue (spec/14 R585). -/

namespace Sys2Proof.Machine

/-! ### Bytes of main memory -/

/-- `n` bytes of a bay from word `o` on, as written. -/
def rldBytes (s : State) (b o n : Nat) : List Nat :=
  (List.range n).map fun i => (rldWord s b (o + i / 8)).toNat / 256 ^ (i % 8) % 256

theorem leBytes_eq_map (n v : Nat) : leBytes n v = (List.range n).map fun i => v / 256 ^ i % 256 := by
  induction n generalizing v with
  | zero => rfl
  | succ n ih =>
    rw [leBytes, ih, List.range_succ_eq_map, List.map_cons, List.map_map, Nat.pow_zero, Nat.div_one]
    congr 2
    funext i
    rw [Function.comp_apply, Nat.pow_succ', Nat.div_div_eq_div_mul]

theorem leBytes_mod (n v : Nat) : leBytes n (v % 256 ^ n) = leBytes n v := by
  induction n generalizing v with
  | zero => rfl
  | succ n ih =>
    rw [leBytes, leBytes, Nat.pow_succ', Nat.mod_mul_right_mod, Nat.mod_mul_right_div_self, ih]

theorem rldBytes_word (s : State) (b o n : Nat) :
    rldBytes s b o (8 + n) = leBytes 8 (rldWord s b o).toNat ++ rldBytes s b (o + 1) n := by
  rw [rldBytes, List.range_add, List.map_append, List.map_map, leBytes_eq_map]
  refine congrArg₂ _ (List.map_congr_left fun i hi => ?_) (List.map_congr_left fun i _ => ?_)
  · have low := List.mem_range.mp hi
    rw [Nat.div_eq_of_lt low, Nat.mod_eq_of_lt low, Nat.add_zero]
  · have next : o + (8 + i) / 8 = o + 1 + i / 8 := by omega
    rw [Function.comp_apply, next, Nat.add_mod_left]

theorem rldBytes_take (s : State) (b o : Nat) {n m : Nat} (h : n ≤ m) : (rldBytes s b o m).take n = rldBytes s b o n := by
  rw [rldBytes, ← List.map_take, List.take_range, Nat.min_eq_left h, rldBytes]

theorem rldBytes_congr {s t : State} (same : SameRld s t) (b o n : Nat) : rldBytes t b o n = rldBytes s b o n := by
  unfold rldBytes rldWord
  rw [same.rld]

/-! ### Reads of main memory -/

theorem regionOf_rld {s : State} {b x : Nat} (hb : b < 4) (hx : x < 0x40000000) (ready : bayReady s b = true) :
    regionOf s (0x100000000000 + b * 0x200000000 + 8 * x) = some (.rld b (8 * x)) := by
  have bay : (0x100000000000 + b * 0x200000000 + 8 * x - 0x100000000000) / 0x200000000 = b := by omega
  have byte : (0x100000000000 + b * 0x200000000 + 8 * x) % 0x200000000 = 8 * x := by omega
  unfold regionOf
  rw [if_neg (by omega), if_neg (by simp; omega), if_neg (by simp; omega), if_neg (by simp; omega), if_pos (by simp; omega)]
  dsimp only
  rw [bay, byte, if_pos ready]

/-- An error-free word of a READY bay reads as it was written, at the cost of an activation. -/
theorem memRead_clean {s : State} {b x : Nat} (hb : b < 4) (hx : x < 0x40000000) (ready : bayReady s b = true)
    (clean : tabGet 0 s.mem.rldFlip (rldKey b x) = 0) (req : Nat) :
    memRead req (0x100000000000 + b * 0x200000000 + 8 * x) 64 .none s =
      (.ok (BitVec.ofNat 72 ((rldWord s b x).toNat % 256 ^ 8)), activate (rldCh b x) (rldU x) req s) := by
  have same := activate_sameRld (rldCh b x) (rldU x) req s
  have width : 256 ^ 8 = 2 ^ 64 := rfl
  have aligned : (0x100000000000 + b * 0x200000000 + 8 * x) % 8 = 0 := by omega
  have size : sizeRefused (.rld b (8 * x)) 64 (0x100000000000 + b * 0x200000000 + 8 * x) req = false := by
    simp only [sizeRefused, sizeOk, aligned]
    rfl
  rw [memRead_rld _ (regionOf_rld hb hx ready) size, Nat.mul_div_cancel_left _ (by decide), rldRead_upset _ _ _ (.inl clean),
    heal_clean (by rw [same.rldFlip, clean]), partOf, readPart, if_neg (by decide), Nat.mul_mod_right, Nat.mul_zero,
    Nat.pow_zero, Nat.div_one, width]

theorem activateWords_apart : ∀ c : Fin 16, ∀ k ∈ activateWords c, k < 336 * 0x1000 ∨ 384 * 0x1000 ≤ k := by decide

theorem activate_portsStay {c : Nat} (hc : c < 16) (u req : Nat) (s : State) : PortsStay s (activate c u req s) :=
  (activate_regs c u req s).framesStay (activateWords_apart ⟨c, hc⟩)

/-- Error-free words of a READY bay read as they were written. -/
theorem readWords_clean (req k : Nat) {s : State} {b o : Nat} (hb : b < 4) (inside : o + k ≤ 0x40000000)
    (ready : bayReady s b = true) (clean : ∀ i, i < k → tabGet 0 s.mem.rldFlip (rldKey b (o + i)) = 0) :
    ∃ l t, readWords req 64 k (0x100000000000 + b * 0x200000000 + 8 * o) s = ((l, none), t) ∧
      wordBytes l = rldBytes s b o (8 * k) ∧ PortsStay s t := by
  induction k generalizing o s with
  | zero => exact ⟨[], s, rfl, rfl, .of_regs rfl⟩
  | succ k ih =>
    have same := activate_sameRld (rldCh b o) (rldU o) req s
    obtain ⟨l, t, reads, bytes, stay⟩ := ih (s := activate (rldCh b o) (rldU o) req s) (o := o + 1) (by omega)
      (by rw [bayReady, bayOf, same.bays]; exact ready) fun i hi => by
        rw [same.rldFlip, Nat.add_assoc, Nat.add_comm 1]
        exact clean (i + 1) (by omega)
    refine ⟨BitVec.ofNat 72 ((rldWord s b o).toNat % 256 ^ 8) :: l, t, ?_, ?_,
      (activate_portsStay (rldCh_lt o hb) _ _ s).trans stay⟩
    · rw [readWords, memRead_clean (x := o) hb (by omega) ready (clean 0 (by omega))]
      dsimp only [accErr]
      rw [Nat.add_assoc _ (8 * o), ← Nat.mul_succ, reads]
    · have word : (rldWord s b o).toNat % 256 ^ 8 % 2 ^ 72 = (rldWord s b o).toNat % 256 ^ 8 := by omega
      rw [wordBytes, List.flatMap_cons, ← wordBytes, bytes, BitVec.toNat_ofNat, word, leBytes_mod, rldBytes_congr same,
        ← rldBytes_word, Nat.mul_succ, Nat.add_comm]

theorem readBytes_clean (req l : Nat) {s : State} {b o : Nat} (hb : b < 4) (inside : o + (l + 7) / 8 ≤ 0x40000000)
    (ready : bayReady s b = true) (clean : ∀ i, i < (l + 7) / 8 → tabGet 0 s.mem.rldFlip (rldKey b (o + i)) = 0) :
    ∃ t, readBytes req l (0x100000000000 + b * 0x200000000 + 8 * o) s = (some (rldBytes s b o l), t) ∧
      PortsStay s t ∧ t.eth = s.eth ∧ t.now = s.now := by
  obtain ⟨ws, t, reads, bytes, stay⟩ := readWords_clean req ((l + 7) / 8) hb inside ready clean
  have result : readBytes req l (0x100000000000 + b * 0x200000000 + 8 * o) s = (some (rldBytes s b o l), t) := by
    rw [readBytes, reads]
    dsimp only
    rw [bytes, rldBytes_take _ _ _ (by omega)]
  have kept := readBytes_upto (req := req) (n := l) (a := 0x100000000000 + b * 0x200000000 + 8 * o)
    (Upto.refl 0x28d7c80880 s) (Sub.refl _)
  rw [result] at kept
  exact ⟨t, result, stay, kept.eth rfl, kept.now⟩

/-! ### The check of a handle, after a write of SSW_TX -/

/-- No register word of the Stalls changes. -/
abbrev StallsStay : State → State → Prop := FramesStay 304 305

theorem StallsStay.pool {s t : State} (h : StallsStay s t) {f : FieldRef} (reg : f.reg = .STL_POOL) (word : f.word < 2) {p : Nat}
    (hp : p < 64) : fld t f 0 p = fld s f 0 p := by
  refine FramesStay.fld h ?_ ?_
  · rw [reg]
    decide
  · rw [reg]
    show (0 + p * 16) / 4 + f.word < 0x1000
    omega

section
variable {s t : State} (h : StallsStay s t)
include h

theorem StallsStay.handleCheck (mem : t.mem = s.mem) (stl : t.stl = s.stl) (n req : Nat) (skip : Bool) :
    handleCheck t n req skip = handleCheck s n req skip := by
  have hp : bitsOf n 26 6 < 64 := bitsOf_lt n 26 6
  unfold Machine.handleCheck poolOn poolCount poolReady bayReady bayOf flag
  dsimp only
  rw [h.pool rfl (by decide) hp, h.pool rfl (by decide) hp, h.pool rfl (by decide) hp, mem, bufOf_congr stl]

theorem StallsStay.spanCheck (n off len : Nat) : spanCheck t n off len = spanCheck s n off len := by
  unfold Machine.spanCheck poolLog
  rw [h.pool rfl (by decide) (bitsOf_lt n 26 6)]

theorem StallsStay.bufAddr {p : Nat} (hp : p < 64) (i : Nat) : bufAddr t p i = bufAddr s p i := by
  unfold Machine.bufAddr poolLog
  rw [h.pool rfl (by decide) hp, h.pool rfl (by decide) hp, h.pool rfl (by decide) hp]

end

section
variable (a : Acc) (s : State)

theorem takenTx_regs : RegsBut [regKey .SSW_TX 0 0 0, regKey .SSW_TX 0 0 1, regKey .SSW_TX 0 0 2] s (taken .SSW_TX 0 0 a s) :=
  taken_regs (r := .SSW_TX) rfl 0 0 a s

theorem takenTx_stallsStay : StallsStay s (taken .SSW_TX 0 0 a s) := (takenTx_regs a s).framesStay (by decide)

theorem takenTx_portsStay : PortsStay s (taken .SSW_TX 0 0 a s) := (takenTx_regs a s).framesStay (by decide)

end

/-! ### The commit of SSW_TX (R585) -/

/-- A write that commits SSW_TX is taken, and these are its fields. -/
structure TxTaken (a : Acc) (s : State) (h l p q : Nat) : Prop where
  accepted : accepts .SSW_TX 0 0 a (sswTxBusy s) (sswTxOk s) s = true
  handle : valOf (commitVals s .SSW_TX 0 0 a) F.SSW_TX_HANDLE = h
  len : valOf (commitVals s .SSW_TX 0 0 a) F.SSW_TX_LEN = l
  port : valOf (commitVals s .SSW_TX 0 0 a) F.SSW_TX_PORT = p
  queue : valOf (commitVals s .SSW_TX 0 0 a) F.SSW_TX_QUEUE = q

/-- The handle passes the checks of R516, and its buffer stands from word `o` of a READY bay on, its first `l` bytes without
an error. -/
structure HeldBytes (s : State) (h req l b o : Nat) : Prop where
  passes : handleCheck s h req false = none
  span : spanCheck s h 0 ((l + 7) / 8) = none
  bay : b < 4
  ready : bayReady s b = true
  address : bufAddr s (bitsOf h 26 6) (bitsOf h 8 18) = 0x100000000000 + b * 0x200000000 + 8 * o
  inside : o + (l + 7) / 8 ≤ 0x40000000
  clean : ∀ i, i < (l + 7) / 8 → tabGet 0 s.mem.rldFlip (rldKey b (o + i)) = 0

/-- A core's frame of `l` bytes, which waits with its handle. -/
def coreFrame (s : State) (h l b o : Nat) : EgFrame := ⟨rldBytes s b o l, s.now, none, none, some h, true, false⟩

/-- From `s` to `t` the frame `f` joins the queue `q` of port `p`, and no other queue changes. -/
def Joins (p q : Nat) (f : EgFrame) (s t : State) : Prop :=
  egQ t p q = { egQ s p q with frames := (egQ s p q).frames ++ [f] } ∧ (∀ j, j ≠ q → egQ t p j = egQ s p j) ∧
    ∀ j, j ≠ p → ethOf t j = ethOf s j

/-- A frame for which the queue and the port have room joins the queue (R604, R605). -/
theorem egEnqueue_joins {p q : Nat} {f : EgFrame} {s : State}
    (room : bufBytes (egQ s p q).frames + egLen f ≤ fld s F.EG_QCFG_QLIM p q * 4096)
    (space : portBytes s p + egLen f ≤ egBuffer s p) : Joins p q f s (egEnqueue p q f s) := by
  have eth : (egEnqueue p q f s).eth = (modEgQ p q (fun x => { x with frames := x.frames ++ [f] }) s).eth := by
    unfold egEnqueue
    dsimp only
    rw [decide_eq_false (Nat.not_lt.mpr room), decide_eq_false (Nat.not_lt.mpr space), Bool.or_self, Bool.and_false,
      if_neg (by decide)]
    split
    · exact newHead_eth ..
    · rfl
  refine ⟨?_, fun j hj => ?_, fun j hj => ?_⟩
  · rw [egQ_congr eth, egQ_modEgQ, if_pos ⟨rfl, rfl⟩]
  · rw [egQ_congr eth, egQ_modEgQ, if_neg fun both => hj both.2]
  · rw [ethOf_congr eth, ethOf_modEgQ_ne _ _ _ hj]

theorem Joins.of_eth {p q : Nat} {f : EgFrame} {s t u : State} (h : Joins p q f t u) (e : t.eth = s.eth) : Joins p q f s u := by
  unfold Joins at *
  simp only [egQ_congr e, ethOf_congr e] at h
  exact h

section
variable {a : Acc} {s : State} {h l p q b o : Nat}

theorem TxTaken.port_lt (tx : TxTaken a s h l p q) : p < 24 := by
  have taken := tx.accepted
  simp only [accepts, Bool.and_eq_true, sswTxOk, tx.port, decide_eq_true_eq] at taken
  exact taken.2.2

theorem TxTaken.queue_lt (tx : TxTaken a s h l p q) : q < 64 := tx.queue ▸ bitsOf_lt _ 21 6

theorem exec_sswTx (tx : TxTaken a s h l p q) :
    exec (.sswTx a) s = .next (sswTxEffect (commitVals s .SSW_TX 0 0 a) (taken .SSW_TX 0 0 a s)) :=
  congrArg Host.Outcome.next (regCommit_taken tx.accepted)

theorem sswTx_refused {c : StlErr} (tx : TxTaken a s h l p q) (fails : handleCheck s h (200 + p / 4) false = some c) :
    Answers (.sswTx a) s fun t => t.eth = s.eth ∧
      fld t F.SSW_CNT2_TXREF = min (fld s F.SSW_CNT2_TXREF + 1) (2 ^ F.SSW_CNT2_TXREF.width - 1) := by
  have refuses : sswTxEffect (commitVals s .SSW_TX 0 0 a) (taken .SSW_TX 0 0 a s) =
      bump F.SSW_CNT2_TXREF (handleRefused 4 h (200 + p / 4) c (taken .SSW_TX 0 0 a s)) := by
    rw [sswTxEffect, stlCheckOp, tx.handle, tx.port, (takenTx_stallsStay a s).handleCheck (taken_mem ..) (taken_stl ..), fails]
  refine ⟨_, (exec_sswTx tx).trans (congrArg Host.Outcome.next refuses), ?_, ?_⟩
  · rw [bump_eth _ _ _ _ _, (handleRefused_upto (Upto.refl 0xd3c80080 _) (Sub.refl _)).eth rfl, taken_eth]
  · rw [fld_bump _ _ _ _ _ (by decide), (handleRefused_regs _ _ _ _ _).fld (by decide), (takenTx_regs a s).fld (by decide)]

theorem HeldBytes.taken {req : Nat} (held : HeldBytes s h req l b o) : HeldBytes (taken .SSW_TX 0 0 a s) h req l b o := by
  have mem : (Machine.taken .SSW_TX 0 0 a s).mem = s.mem := taken_mem ..
  have stalls := takenTx_stallsStay a s
  refine ⟨?_, ?_, held.bay, ?_, ?_, held.inside, ?_⟩
  · rw [stalls.handleCheck mem (taken_stl ..), held.passes]
  · rw [stalls.spanCheck, held.span]
  · rw [bayReady, bayOf, mem]
    exact held.ready
  · rw [stalls.bufAddr (bitsOf_lt h 26 6), held.address]
  · rw [mem]
    exact held.clean

/-- With a good handle the frame's bytes are read, and the frame is given to its queue. -/
theorem sswTx_enqueues (tx : TxTaken a s h l p q) (held : HeldBytes s h (200 + p / 4) l b o) (usable : portUsable s p = true) :
    ∃ t, exec (.sswTx a) s = .next (egEnqueue p q (coreFrame s h l b o) t) ∧ PortsStay s t ∧ t.eth = s.eth := by
  obtain ⟨passes, span, hb, ready, address, inside, clean⟩ := held.taken (a := a)
  obtain ⟨t, reads, stay, ethR, nowR⟩ := readBytes_clean (200 + p / 4) l hb inside ready clean
  have same : PortsStay s t := (takenTx_portsStay a s).trans stay
  have eth : t.eth = s.eth := ethR.trans (taken_eth ..)
  refine ⟨t, (exec_sswTx tx).trans (congrArg Host.Outcome.next ?_), same, eth⟩
  rw [sswTxEffect, stlCheckOp, tx.handle, tx.len, tx.port, tx.queue, passes, span]
  dsimp only
  rw [address, Nat.add_zero, reads]
  dsimp only
  rw [same.portUsable tx.port_lt eth, usable, if_pos rfl, rldBytes_congr (.of_mem (taken_mem ..)), nowR, taken_now, coreFrame]

theorem sswTx_joins (tx : TxTaken a s h l p q) (held : HeldBytes s h (200 + p / 4) l b o) (usable : portUsable s p = true)
    (room : bufBytes (egQ s p q).frames + egLen (coreFrame s h l b o) ≤ fld s F.EG_QCFG_QLIM p q * 4096)
    (space : portBytes s p + egLen (coreFrame s h l b o) ≤ egBuffer s p) :
    Answers (.sswTx a) s (Joins p q (coreFrame s h l b o) s) := by
  obtain ⟨t, runs, same, eth⟩ := sswTx_enqueues tx held usable
  refine ⟨_, runs, (egEnqueue_joins ?_ ?_).of_eth eth⟩
  · rwa [egQ_congr eth, same.queueLimit tx.port_lt tx.queue_lt]
  · rwa [portBytes, ethOf_congr eth, ← portBytes, same.egBuffer tx.port_lt]

end

/-! ### The statement -/

/-- Settles O38, clause by clause: each command is written as the operations it runs, and of each operation it is said which
queue, bucket, policer or register word it changes. -/
theorem egressStartsDropsAndObserves : Obligations.EgressStartsDropsAndObserves := by
  unfold Obligations.EgressStartsDropsAndObserves
  intro port queue a s p q e alone tail last v n x h l tp tq tx
  refine ⟨fun k fin f => egressSelect_waits, fun f r usable idle strict eligible highest fitted head => ?starts,
    fun f r head unfit gate closed => ?drops, fun powered => queueMonitorSample_observes powered,
    fun accepted => egPolCommit_fills accepted, fun c accepted => sswTx_refused ⟨accepted, rfl, rfl, rfl, rfl⟩,
    fun b o accepted passes span bay ready address inside clean =>
      sswTx_joins ⟨accepted, rfl, rfl, rfl, rfl⟩ ⟨passes, span, bay, ready, address, inside, clean⟩⟩
  case starts =>
    obtain ⟨t, runs, popped, cur, sent, bucket⟩ := egressSelect_starts usable idle strict eligible highest fitted head
    exact ⟨t, runs, popped.alone, ⟨head, popped.queue, popped.others⟩, cur, sent, bucket⟩
  case drops =>
    obtain ⟨t, runs, popped, counted, pends⟩ := gateDrop_discards head unfit gate closed
    exact ⟨t, runs, popped.alone, ⟨head, popped.queue, popped.others⟩, counted, pends⟩

end Sys2Proof.Machine

/-! States that meet the hypotheses of O38. -/

namespace Sys2Proof.Machine

/-- The switch, the Stalls and ICT are powered; port 0 is enabled, and its queue 51 is gated. Bay 0 is READY, and buffer 0 of
pool 0, in generation 1, belongs to port 0's requester. Requester 128 holds the key of the switch, and has staged the lower
words of SSW_TX, with this handle, and of EG_POL. -/
def egressState (handle : Word) (x : EthPort) : State :=
  { standbyState with
    pwr := { standbyState.pwr with up := BitVec.ofNat 214 (2 ^ 200 + 2 ^ 203 + 2 ^ 213) }
    mem := { Mem.reset with
      bays := [(0, { Bay.reset with st := .ready })], rld := [(0, 0x0807060504030201), (7, 0x99000000AABBCCDD)] }
    stl := ⟨[(0, ⟨true, 1, 200, true, [], []⟩)], [(200, 1)]⟩
    eth := [(0, { x with link := true })]
    ssw := { Ssw.reset with bkt := [(5, { Bkt.reset with rate := 1000, mode := 1, burst := 9236, tokens := 100 })], smpl := 999 }
    bus := { Bus.reset with
      regs := [(regKey .STL_POOL 0 0 0, 0x81800000), (regKey .ETH_CFG 0 0 0, 0x85F20000), (regKey .EG_GATEEN 0 0 1, 0x80000)]
      keys := [(blkFrame .ssw 0, { KeyGuard.reset with ends := 256, owner := 128 })]
      staged := [(stageKey 128 (regKey .SSW_TX 0 0 0), some handle), (stageKey 128 (regKey .SSW_TX 0 0 1), some 60),
        (stageKey 128 (regKey .EG_POL 0 0 0), some 1000), (stageKey 128 (regKey .EG_POL 0 0 2), some 9236)] } }

/-- A short frame under bucket 5. -/
def shortFrame (nofit : Bool) : EgFrame := ⟨[], 0, some 5, none, none, true, nofit⟩

/-- A short frame heads this queue, and the port is idle. -/
def queuedPort (q : Nat) (nofit : Bool) : EthPort :=
  { EthPort.reset with queues := [(q, { EgQ.reset with frames := [shortFrame nofit] })] }

/-- The frame in progress ends at 10 ps. -/
theorem egressState_waits :
    Answers (.egressSelect 0) (egressState 0x10 { queuedPort 50 false with cur := some (48, 1, shortFrame false) }) fun t =>
      (egQ t 0 50).frames = [shortFrame false] := by
  obtain ⟨t, runs, same⟩ := (egressStartsDropsAndObserves 0 50 ⟨128, .normal, 0⟩
    (egressState 0x10 { queuedPort 50 false with cur := some (48, 1, shortFrame false) })).1 48 1 (shortFrame false)
      (by decide) rfl (by decide)
  exact ⟨t, runs, by rw [same]; decide⟩

/-- The frame takes 84 bytes' time on the wire and from its bucket. -/
theorem egressState_starts : Answers (.egressSelect 0) (egressState 0x10 (queuedPort 50 false)) fun t =>
    (egQ t 0 50).frames = [] ∧ (ethOf t 0).cur = some (50, 2688, shortFrame false) ∧ fld t F.ETH_TXCNT_TX 0 = 1 ∧
      (bktOf t 5).tokens = 16 ∧ (bktOf t 5).frames = 1 := by
  have others : ∀ j : Fin 64, 50 < j.val → egEligible (egressState 0x10 (queuedPort 50 false)) 0 j.val = false := by decide
  have fitted : ∀ j : Fin 64, ∀ g ∈ (egQ (egressState 0x10 (queuedPort 50 false)) 0 j.val).frames, g.nofit = false := by decide
  obtain ⟨t, runs, -, ⟨-, queue, -⟩, cur, sent, bucket⟩ := (egressStartsDropsAndObserves 0 50 ⟨128, .normal, 0⟩
    (egressState 0x10 (queuedPort 50 false))).2.1 (shortFrame false) [] (by decide) rfl (by decide) (by decide)
      (fun j above below => others ⟨j, below⟩ above)
      (fun j g k below head => fitted ⟨j, below⟩ g (head ▸ List.mem_cons_self)) (by decide)
  have charge := bucket 5 (by decide)
  exact ⟨t, runs, (congrArg EgQ.frames queue).trans (by decide), cur.trans (by decide), sent.trans (by decide),
    (congrArg Bkt.tokens charge).trans (by decide), (congrArg Bkt.frames charge).trans (by decide)⟩

theorem egressState_drops : Answers (.gateDrop 0 51) (egressState 0x10 (queuedPort 51 true)) fun t =>
    (egQ t 0 51).frames = [] ∧ fld t F.EG_PCNT0_GATEDROP 0 = 1 ∧ (srcOf t 617).pend = true := by
  obtain ⟨t, runs, -, ⟨-, queue, -⟩, counted, pends⟩ := (egressStartsDropsAndObserves 0 51 ⟨128, .normal, 0⟩
    (egressState 0x10 (queuedPort 51 true))).2.2.1 (shortFrame true) [] (by decide) rfl (by decide) (by decide)
  exact ⟨t, runs, (congrArg EgQ.frames queue).trans (by decide), counted.trans (by decide), pends (by decide)⟩

/-- The last of 1000 observations shows the depth of queue 50. -/
theorem egressState_observes : Answers .queueMonitorSample (egressState 0x10 (queuedPort 50 false)) fun t =>
    t.ssw.smpl = 0 ∧ (egQ t 0 50).depth = 64 := by
  obtain ⟨t, runs, period, queues⟩ := (egressStartsDropsAndObserves 0 0 ⟨128, .normal, 0⟩
    (egressState 0x10 (queuedPort 50 false))).2.2.2.1 (by decide)
  exact ⟨t, runs, period.trans (by decide), (congrArg EgQ.depth (queues 0 50)).trans (by decide)⟩

/-- Policer 7 is configured with TYPE = 1. -/
theorem egressState_polices : Answers (.egPolCommit ⟨128, .normal, 0x40000007⟩) (egressState 0x10 .reset) fun t =>
    (polOf t 7).type = 1 ∧ (polOf t 7).cir = 1000 ∧ (polOf t 7).c = 9236 := by
  obtain ⟨t, runs, -, policer⟩ := (egressStartsDropsAndObserves 0 0 ⟨128, .normal, 0x40000007⟩
    (egressState 0x10 .reset)).2.2.2.2.1 (by decide)
  have index : valOf (commitVals (egressState 0x10 .reset) .EG_POL 0 0 ⟨128, .normal, 0x40000007⟩) F.EG_POL_INDEX = 7 := by decide
  rw [index] at policer
  exact ⟨t, runs, (congrArg Pol.type policer).trans (by decide), (congrArg Pol.cir policer).trans (by decide),
    (congrArg Pol.c policer).trans (by decide)⟩

/-- A handle of another generation is STALE. -/
theorem egressState_refuses : Answers (.sswTx ⟨128, .normal, 0x00600000⟩) (egressState 0x20 .reset) fun t =>
    fld t F.SSW_CNT2_TXREF = 1 := by
  obtain ⟨t, runs, -, counted⟩ := (egressStartsDropsAndObserves 0 0 ⟨128, .normal, 0x00600000⟩
    (egressState 0x20 .reset)).2.2.2.2.2.1 .stale (by decide) (by decide)
  exact ⟨t, runs, counted.trans (by decide)⟩

/-- 60 bytes join queue 3 of port 0. -/
theorem egressState_transmits : Answers (.sswTx ⟨128, .normal, 0x00600000⟩) (egressState 0x10 .reset) fun t =>
    (egQ t 0 3).frames.map (fun f => (f.data.take 8, f.data.drop 56, f.ticket)) =
      [([1, 2, 3, 4, 5, 6, 7, 8], [0xDD, 0xCC, 0xBB, 0xAA], some 0x10)] := by
  have fields : TxTaken ⟨128, .normal, 0x00600000⟩ (egressState 0x10 .reset) 0x10 60 0 3 := by constructor <;> decide
  obtain ⟨t, runs, joins, -⟩ := (egressStartsDropsAndObserves 0 0 ⟨128, .normal, 0x00600000⟩
    (egressState 0x10 .reset)).2.2.2.2.2.2 0 0 (by decide) (by decide) (by decide) (by decide) (by decide) (by decide)
      (by decide) (by decide) (by decide) (by decide) (by decide)
  rw [fields.port, fields.queue] at joins
  exact ⟨t, runs, (congrArg (fun x : EgQ => x.frames.map fun f => (f.data.take 8, f.data.drop 56, f.ticket)) joins).trans
    (by decide)⟩

end Sys2Proof.Machine

/-! O39: the commit of a bucket (spec/15 R617). -/

namespace Sys2Proof.Machine

/-! ### Buckets -/

theorem bktOf_modBkt (n : Nat) (f : Bkt → Bkt) (s : State) (j : Nat) :
    bktOf (modBkt n f s) j = if j = n then f (bktOf s n) else bktOf s j := tabGet_tabMod Bkt.reset s.ssw.bkt n j f

theorem modBkt_pol (n : Nat) (f : Bkt → Bkt) (s : State) : (modBkt n f s).ssw.pol = s.ssw.pol := rfl

theorem modBkt_ct (n : Nat) (f : Bkt → Bkt) (s : State) : (modBkt n f s).ssw.ct = s.ssw.ct := rfl

theorem bktOf_taken (r : Reg) (fr i : Nat) (a : Acc) (s : State) (j : Nat) : bktOf (taken r fr i a s) j = bktOf s j := by
  rw [bktOf, taken_ssw, bktOf]

/-! ### The commit of EG_BKT -/

/-- The bucket that the words of a commit configure: full at BURST, its frame count that of `x`. -/
def bktFilled (v : List Nat) (now : Nat) (x : Bkt) : Bkt :=
  { rate := valOf v F.EG_BKT_RATE_TRS, mode := valOf v F.EG_BKT_MODE, burst := valOf v F.EG_BKT_BURST
    npkt := valOf v F.EG_BKT_NPKT, troLine := valOf v F.EG_BKT_TROLINE, troTick := valOf v F.EG_BKT_TROTICK
    tokens := valOf v F.EG_BKT_BURST, part := 0, at_ := now, frames := x.frames }

theorem egBktEffect_eq (v : List Nat) (s : State) :
    egBktEffect v s = modBkt (valOf v F.EG_BKT_INDEX) (bktFilled v s.now) s := rfl

/-- A commit that is taken fills one bucket of the state that the register interface leaves. -/
theorem exec_egBktCommit {a : Acc} {s : State} (accepted : accepts .EG_BKT 0 0 a neverBusy egBktOk s = true) :
    exec (.egBktCommit a) s = .next (modBkt (valOf (commitVals s .EG_BKT 0 0 a) F.EG_BKT_INDEX)
      (bktFilled (commitVals s .EG_BKT 0 0 a) s.now) (taken .EG_BKT 0 0 a s)) := by
  have runs : exec (.egBktCommit a) s = .next (egBktEffect (commitVals s .EG_BKT 0 0 a) (taken .EG_BKT 0 0 a s)) :=
    congrArg Host.Outcome.next (regCommit_taken accepted)
  rw [runs, egBktEffect_eq, taken_now]

theorem egBktCommit_fills {a : Acc} {s : State} (accepted : accepts .EG_BKT 0 0 a neverBusy egBktOk s = true) :
    Answers (.egBktCommit a) s fun t =>
      bktOf t (valOf (commitVals s .EG_BKT 0 0 a) F.EG_BKT_INDEX) =
        bktFilled (commitVals s .EG_BKT 0 0 a) s.now (bktOf s (valOf (commitVals s .EG_BKT 0 0 a) F.EG_BKT_INDEX)) ∧
      (∀ j, j ≠ valOf (commitVals s .EG_BKT 0 0 a) F.EG_BKT_INDEX → bktOf t j = bktOf s j) ∧
      t.ssw.pol = s.ssw.pol ∧ t.ssw.ct = s.ssw.ct ∧ t.eth = s.eth := by
  refine ⟨_, exec_egBktCommit accepted, ?_, fun j other => ?_, ?_, ?_, ?_⟩
  · rw [bktOf_modBkt, if_pos rfl, bktOf_taken]
  · rw [bktOf_modBkt, if_neg other, bktOf_taken]
  · rw [modBkt_pol, taken_ssw]
  · rw [modBkt_ct, taken_ssw]
  · rw [modBkt_eth, taken_eth]

/-- Settles O39: the bucket that INDEX names is `bktFilled` with the words of the commit, and the register interface
changes no part of the switch or of a port. -/
theorem bucketCommitFillsTheBucket : Obligations.BucketCommitFillsTheBucket := by
  unfold Obligations.BucketCommitFillsTheBucket
  intro a s accepted v n
  obtain ⟨t, runs, filled, others, pol, ct, eth⟩ := egBktCommit_fills accepted
  refine ⟨t, runs, ?_⟩
  beta_reduce
  rw [filled]
  exact ⟨rfl, rfl, rfl, rfl, rfl, rfl, rfl, rfl, rfl, rfl, others, pol, ct, eth⟩

end Sys2Proof.Machine

/-! States that meet the hypothesis of O39. -/

namespace Sys2Proof.Machine

/-- The switch is powered, and requester 128 holds its key and has staged the lower words of EG_BKT. Bucket 5 is in MODE
SHAPE, all but empty, and has counted three frames; bucket 6 is in MODE SHAPE too. -/
def bucketState (lower : List (Nat × Option Word)) : State :=
  { standbyState with
    pwr := { standbyState.pwr with up := BitVec.ofNat 214 (2 ^ 200) }
    ssw := { Ssw.reset with bkt :=
      [(5, ⟨1000, 1, 9236, 0, 0, 0, 100, 4, 0, 3⟩), (6, ⟨500, 1, 9300, 0, 0, 0, 7, 0, 0, 0⟩)] }
    bus := { Bus.reset with
      keys := [(blkFrame .ssw 0, { KeyGuard.reset with ends := 256, owner := 128 })]
      staged := lower.map fun w => (stageKey 128 (regKey .EG_BKT 0 0 w.1), w.2) } }

/-- In MODE SHAPE the count rises to a BURST of 20000 bytes, beside the frames counted. -/
theorem bucketState_shapes : Answers (.egBktCommit ⟨128, .normal, 5⟩)
    (bucketState [(0, some 2000), (1, some 0x40004E20)]) fun t =>
      (bktOf t 5).tokens = 20000 ∧ (bktOf t 5).part = 0 ∧ (bktOf t 5).mode = 1 ∧ (bktOf t 5).rate = 2000 ∧
      (bktOf t 5).frames = 3 ∧ (bktOf t 6).tokens = 7 := by
  obtain ⟨t, runs, tokens, part, -, -, mode, rate, -, -, -, frames, others, -⟩ :=
    bucketCommitFillsTheBucket ⟨128, .normal, 5⟩ (bucketState [(0, some 2000), (1, some 0x40004E20)]) (by decide)
  have index : valOf (commitVals (bucketState [(0, some 2000), (1, some 0x40004E20)]) .EG_BKT 0 0 ⟨128, .normal, 5⟩)
    F.EG_BKT_INDEX = 5 := by decide
  rw [index] at tokens part mode rate frames others
  exact ⟨t, runs, tokens.trans (by decide), part, mode.trans (by decide), rate.trans (by decide),
    frames.trans (by decide), (congrArg Bkt.tokens (others 6 (by decide))).trans (by decide)⟩

/-- In MODE PACE, where BURST is 0, the count ends at 0. -/
theorem bucketState_paces : Answers (.egBktCommit ⟨128, .normal, 5⟩)
    (bucketState [(1, some 0x80000000), (2, some 0x00640000)]) fun t =>
      (bktOf t 5).mode = 2 ∧ (bktOf t 5).npkt = 100 ∧ (bktOf t 5).tokens = 0 := by
  obtain ⟨t, runs, tokens, -, -, -, mode, -, npkt, -⟩ :=
    bucketCommitFillsTheBucket ⟨128, .normal, 5⟩ (bucketState [(1, some 0x80000000), (2, some 0x00640000)]) (by decide)
  have index : valOf (commitVals (bucketState [(1, some 0x80000000), (2, some 0x00640000)]) .EG_BKT 0 0
    ⟨128, .normal, 5⟩) F.EG_BKT_INDEX = 5 := by decide
  rw [index] at tokens mode npkt
  exact ⟨t, runs, mode.trans (by decide), npkt.trans (by decide), tokens.trans (by decide)⟩

end Sys2Proof.Machine

/-! Reads that their frame serves, commits that store nothing, and the semaphores (spec/02 R56, R83; spec/17 R699-R702). -/

namespace Sys2Proof.Machine

/-! ### Accesses of an operating frame (R56, R83) -/

/-- A frame of the base domain operates with it. -/
theorem frameUp_of_base {r : Reg} {fr : Nat} {s : State} (inBase : blkDomain (regInfo r).blk fr = none)
    (base : baseUp s = true) : frameUp r fr s = true := by
  rw [frameUp, base, inBase]
  rfl

theorem readServed_powered {r : Reg} {fr : Nat} {s : State} (i : Nat) (req : Req) (serve : State → State)
    (up : frameUp r fr s = true) :
    readServed r fr i req serve s = serve (served (blkFrame (regInfo r).blk fr) req.val s) := by
  have powered := frameDown_of_frameUp up
  unfold readServed
  rw [baseUp_of_frameUp up]
  dsimp only
  refine (if_neg (by decide)).trans (if_neg (Bool.eq_false_iff.mp ?_))
  exact powered

/-- What the register interface does for a commit of an unguarded register that stores nothing (R57). -/
def passed (r : Reg) (fr i : Nat) (a : Acc) (s : State) : State :=
  dropStage r a.req.val fr i (served (blkFrame (regInfo r).blk fr) a.req.val s)

theorem passed_onlyBus (r : Reg) (fr i : Nat) (a : Acc) (s : State) : OnlyBus s (passed r fr i a s) := rfl

theorem passed_regs (r : Reg) (fr i : Nat) (a : Acc) (s : State) : (passed r fr i a s).bus.regs = s.bus.regs := rfl

/-- The write of an unguarded register's highest word performs its effect without storing. -/
theorem writeOne_passed {r : Reg} {fr i w : Nat} {a : Acc} {eff : List Nat → State → State} {s : State}
    (up : frameUp r fr s = true) (top : ¬ w + 1 < (regInfo r).words) (unguarded : (regInfo r).guarded = false)
    (legal : judge r (commitVals s r fr i a) = true) :
    writeOne r fr i w a neverBusy anyOk false eff s = eff (commitVals s r fr i a) (passed r fr i a s) := by
  have powered := frameDown_of_frameUp up
  have values : commitVals (served (blkFrame (regInfo r).blk fr) a.req.val s) r fr i a = commitVals s r fr i a := rfl
  have open_ : ((regInfo r).guarded && !keyOpen (dropStage r a.req.val fr i
      (served (blkFrame (regInfo r).blk fr) a.req.val s)) (blkFrame (regInfo r).blk fr) a.req.val) = false := by
    rw [unguarded, Bool.false_and]
  have fits : (!(judge r (commitVals s r fr i a) && anyOk (commitVals s r fr i a))) = false := by
    rw [legal]
    rfl
  have writes : writeReg r fr i w a neverBusy anyOk false eff s =
      (eff (commitVals s r fr i a) (passed r fr i a s), none) := by
    unfold writeReg
    rw [baseUp_of_frameUp up]
    dsimp only
    refine (if_neg (by decide)).trans ((if_neg (Bool.eq_false_iff.mp ?_)).trans ((if_neg top).trans
      ((if_neg (Bool.eq_false_iff.mp open_)).trans ?_)))
    · exact powered
    · rw [values, unguarded]
      dsimp only [neverBusy]
      exact if_neg (Bool.eq_false_iff.mp fits)
  rw [writeOne, writes, accessEnd]

/-! ### Semaphores -/

theorem semOf_modSem (n : Nat) (f : Sem → Sem) (s : State) (j : Nat) :
    semOf (modSem n f s) j = if j = n then f (semOf s n) else semOf s j := tabGet_tabMod Sem.reset s.sem n j f

theorem semOf_modSem_same (n : Nat) (f : Sem → Sem) (s : State) : semOf (modSem n f s) n = f (semOf s n) :=
  tabGet_tabMod_same Sem.reset s.sem n f

theorem semOf_modSem_ne {n j : Nat} (f : Sem → Sem) (s : State) (other : j ≠ n) : semOf (modSem n f s) j = semOf s j :=
  tabGet_tabMod_ne Sem.reset f other

theorem semOf_congr {s t : State} (h : t.sem = s.sem) (n : Nat) : semOf t n = semOf s n := by rw [semOf, h, semOf]

@[simp] theorem semOf_answer (req v : Nat) (s : State) (n : Nat) : semOf (answer req v s) n = semOf s n := rfl

@[simp] theorem semOf_served (f req : Nat) (s : State) (n : Nat) : semOf (served f req s) n = semOf s n := rfl

@[simp] theorem semOf_bump (f : FieldRef) (s : State) (fr i k n : Nat) : semOf (bump f s fr i k) n = semOf s n := rfl

/-- A semaphore with an owner. -/
def ownedBy (req : Nat) (y : Sem) : Sem := { y with owner := some req }

/-- A semaphore that a reader waits for. -/
def wanted (y : Sem) : Sem := { y with want := true }

/-! ### Read to acquire (R699) -/

theorem semServe_free {req n : Nat} {s : State} (free : (semOf s n).owner = none) :
    semServe req n s = answer req 0 (modSem n (ownedBy req) s) := by
  rw [semServe, semAcquire, free]
  rfl

theorem semServe_held {req n o : Nat} {s : State} (held : (semOf s n).owner = some o) :
    semServe req n s = answer req 1 (bump F.SEM_CNT_BUSYRD (modSem n wanted s)) := by
  rw [semServe, semAcquire, held]
  rfl

theorem exec_semLockRead {req : Req} {sem : Fin 256} {s : State} (base : baseUp s = true) :
    exec (.semLockRead req sem) s = .next (semServe req.val sem.val (served (blkFrame .sem 0) req.val s)) :=
  congrArg Host.Outcome.next (readServed_powered (r := .SEM_LOCK) (fr := 0) _ req _ (frameUp_of_base rfl base))

theorem semLockRead_acquires {req : Req} {sem : Fin 256} {s : State} (base : baseUp s = true)
    (free : (semOf s sem.val).owner = none) : exec (.semLockRead req sem) s =
      .next (answer req.val 0 (modSem sem.val (ownedBy req.val) (served (blkFrame .sem 0) req.val s))) := by
  rw [exec_semLockRead base, semServe_free (by rw [semOf_served, free])]

theorem semLockRead_waits {req : Req} {sem : Fin 256} {s : State} {o : Nat} (base : baseUp s = true)
    (held : (semOf s sem.val).owner = some o) : exec (.semLockRead req sem) s =
      .next (answer req.val 1 (bump F.SEM_CNT_BUSYRD (modSem sem.val wanted (served (blkFrame .sem 0) req.val s)))) := by
  rw [exec_semLockRead base, semServe_held (by rw [semOf_served, held])]

/-- A read of a held semaphore is counted (R62). -/
theorem semLockRead_counts (req n : Nat) (s : State) :
    fld (answer req 1 (bump F.SEM_CNT_BUSYRD (modSem n wanted (served (blkFrame .sem 0) req s)))) F.SEM_CNT_BUSYRD =
      min (fld s F.SEM_CNT_BUSYRD + 1) (2 ^ F.SEM_CNT_BUSYRD.width - 1) :=
  fld_bump F.SEM_CNT_BUSYRD (modSem n wanted (served (blkFrame .sem 0) req s)) 0 0 1 (by decide)

/-- Settles O33: by the two outcomes of a read to acquire, each of which changes one semaphore, and the second of which
counts in SEM_CNT. -/
theorem semaphoreReadAcquires : Obligations.SemaphoreReadAcquires := by
  unfold Obligations.SemaphoreReadAcquires
  intro req sem s base
  refine ⟨fun free => ⟨_, semLockRead_acquires base free, tabGet_answer .., ?_, rfl, ?_, rfl, rfl, rfl⟩,
    fun o held => ⟨_, semLockRead_waits base held, tabGet_answer .., ?_, ?_, semLockRead_counts .., ?_, ?_, rfl, rfl, rfl⟩⟩
  · rw [semOf_answer, semOf_modSem_same, semOf_served, ownedBy]
  · exact fun j other => by rw [semOf_answer, semOf_modSem_ne _ _ other, semOf_served]
  · rw [semOf_answer, semOf_bump, semOf_modSem_same, semOf_served, wanted]
  · rw [semOf_answer, semOf_bump, semOf_modSem_same, semOf_served, wanted, held]
  · have counted : RegsBut [regKey .SEM_CNT 0 0 0] s
        (bump F.SEM_CNT_BUSYRD (modSem sem.val wanted (served (blkFrame .sem 0) req.val s))) :=
      RegsBut.bump (.of_eq rfl) List.mem_cons_self
    exact counted.same rfl
  · exact fun j other => by rw [semOf_answer, semOf_bump, semOf_modSem_ne _ _ other, semOf_served]

end Sys2Proof.Machine

/-! States that meet the hypotheses of O33. -/

namespace Sys2Proof.Machine

/-- Semaphore 5 is held by requester 130, and reads of held semaphores have been counted. -/
def heldState (count : Nat) : State :=
  { standbyState with
    sem := [(5, ⟨some 130, false⟩)]
    bus := { Bus.reset with regs := [(regKey .SEM_CNT 0 0 0, BitVec.ofNat 32 (count * 2 ^ 16))] } }

/-- A free semaphore is acquired beside the held one. -/
theorem heldState_acquires : Answers (.semLockRead 128 6) (heldState 7) fun t =>
    tabGet 0 t.bus.answers 128 = 0 ∧ semOf t 6 = ⟨some 128, false⟩ ∧ semOf t 5 = ⟨some 130, false⟩ := by
  obtain ⟨t, runs, answered, taken, -, others, -⟩ := (semaphoreReadAcquires 128 6 (heldState 7) rfl).1 rfl
  exact ⟨t, runs, answered, taken, others 5 (by decide)⟩

/-- The owner's own read finds its semaphore held, and the count stays at its maximum. -/
theorem heldState_owner_waits : Answers (.semLockRead 130 5) (heldState 65535) fun t =>
    tabGet 0 t.bus.answers 130 = 1 ∧ semOf t 5 = ⟨some 130, true⟩ ∧ fld t F.SEM_CNT_BUSYRD = 65535 := by
  obtain ⟨t, runs, answered, waits, -, counted, -⟩ := (semaphoreReadAcquires 130 5 (heldState 65535) rfl).2 130 rfl
  exact ⟨t, runs, answered, waits, counted.trans (by decide)⟩

end Sys2Proof.Machine

/-! Releases and revocations of semaphores (spec/17 R701, R702). -/

namespace Sys2Proof.Machine

/-! ### A semaphore becomes free (R701) -/

theorem semOf_semFree (n : Nat) (s : State) (j : Nat) :
    semOf (semFree n s) j = if j = n then .reset else semOf s j := by
  have table : (semFree n s).sem = (modSem n (fun _ => .reset) s).sem := by
    unfold semFree
    dsimp only
    split
    · rw [raise_sem]
    · rfl
  rw [semOf_congr table, semOf_modSem]

theorem semFree_signals {n : Nat} {s : State} (want : (semOf s n).want = true) (powered : domUp s 213 = true) :
    (srcOf (semFree n s) 730).pend = true := by
  rw [semFree, if_pos want]
  exact raise_pends powered

theorem semOf_forEach_semFree (l : List Nat) (s : State) (j : Nat) :
    semOf (forEach l semFree s) j = if j ∈ l then .reset else semOf s j := by
  induction l generalizing s with
  | nil => rfl
  | cons n l ih =>
    rw [forEach_cons, ih, semOf_semFree]
    by_cases freed : j = n
    · rw [if_pos freed, ite_self, if_pos (freed ▸ List.mem_cons_self)]
    · simp only [List.mem_cons, freed, false_or, if_false]

/-! ### A write of 0 (R701) -/

/-- What a release leaves to act on. -/
def atRelease (req : Req) (n : Nat) (s : State) : State := passed .SEM_LOCK 0 n ⟨req, .normal, 0⟩ s

theorem commitVals_semRelease (req : Req) (n : Nat) (s : State) :
    commitVals s .SEM_LOCK 0 n ⟨req, .normal, 0⟩ = [0] :=
  congrArg (fun v => [v]) (Nat.zero_and (rwMask .SEM_LOCK n 0 ||| woMask .SEM_LOCK 0))

theorem exec_semRelease {req : Req} {sem : Fin 256} {s : State} (base : baseUp s = true) :
    exec (.semRelease req sem) s = .next (semWriteZero req.val sem.val (atRelease req sem.val s)) := by
  have legal : judge .SEM_LOCK (commitVals s .SEM_LOCK 0 sem.val ⟨req, .normal, 0⟩) = true := by
    rw [commitVals_semRelease]
    decide
  exact congrArg Host.Outcome.next (writeOne_passed (frameUp_of_base rfl base) (by decide) rfl legal)

theorem semRelease_frees {req : Req} {sem : Fin 256} {s : State} (base : baseUp s = true)
    (owner : (semOf s sem.val).owner = some req.val) : Answers (.semRelease req sem) s fun t =>
      semOf t sem.val = .reset ∧ (∀ j, j ≠ sem.val → semOf t j = semOf s j) ∧
      ((semOf s sem.val).want = true → domUp s 213 = true → (srcOf t 730).pend = true) := by
  have frees : semWriteZero req.val sem.val (atRelease req sem.val s) = semFree sem.val (atRelease req sem.val s) :=
    if_pos owner
  refine ⟨_, exec_semRelease base, ?_⟩
  rw [frees]
  refine ⟨?_, fun j other => ?_, fun want powered => semFree_signals want powered⟩
  · rw [semOf_semFree, if_pos rfl]
  · rw [semOf_semFree, if_neg other]
    rfl

theorem semRelease_refused {req : Req} {sem : Fin 256} {s : State} (base : baseUp s = true)
    (other : (semOf s sem.val).owner ≠ some req.val) : Answers (.semRelease req sem) s fun t => t.sem = s.sem ∧
      fld t F.SEM_CNT_BADREL = min (fld s F.SEM_CNT_BADREL + 1) (2 ^ F.SEM_CNT_BADREL.width - 1) := by
  have counts : semWriteZero req.val sem.val (atRelease req sem.val s) = bump F.SEM_CNT_BADREL (atRelease req sem.val s) :=
    if_neg other
  refine ⟨_, exec_semRelease base, ?_⟩
  rw [counts]
  exact ⟨rfl, fld_bump F.SEM_CNT_BADREL (atRelease req sem.val s) 0 0 1 (by decide)⟩

/-! ### Revocation (R702) -/

/-- The semaphores of a requester. -/
def semsOf (req : Nat) (s : State) : List Nat := (List.range 256).filter fun n => (semOf s n).owner == some req

theorem semsOf_congr {s t : State} (h : t.sem = s.sem) (req : Nat) : semsOf req t = semsOf req s := by
  unfold semsOf
  simp only [semOf_congr h]

theorem semRevokeEffect_eq (v : List Nat) (s : State) : semRevokeEffect v s =
    setFld F.SEM_REVOKE_DONE (semsOf (valOf v F.SEM_REVOKE_RID) s).length
      (forEach (semsOf (valOf v F.SEM_REVOKE_RID) s) semFree s) := rfl

theorem semRevoke_frees {a : Acc} {s : State} (accepted : accepts .SEM_REVOKE 0 0 a neverBusy anyOk s = true) :
    Answers (.semRevoke a) s fun t =>
      fld t F.SEM_REVOKE_DONE = (semsOf (valOf (commitVals s .SEM_REVOKE 0 0 a) F.SEM_REVOKE_RID) s).length ∧
      ∀ j, semOf t j = if j ∈ semsOf (valOf (commitVals s .SEM_REVOKE 0 0 a) F.SEM_REVOKE_RID) s then .reset else semOf s j := by
  generalize hr : valOf (commitVals s .SEM_REVOKE 0 0 a) F.SEM_REVOKE_RID = r
  have same : (taken .SEM_REVOKE 0 0 a s).sem = s.sem := taken_sem ..
  have few : (semsOf r s).length ≤ 256 := (List.length_filter_le _ _).trans (List.length_range ..).le
  refine ⟨_, congrArg Host.Outcome.next (regCommit_taken accepted), ?_, fun j => ?_⟩
  · rw [semRevokeEffect_eq, hr, fld_setFld _ _ _ _ _ (by decide), semsOf_congr same]
    exact Nat.mod_eq_of_lt (lt_of_le_of_lt few (by decide))
  · rw [semRevokeEffect_eq, hr, semsOf_congr same, semOf_congr (setFld_sem ..), semOf_forEach_semFree, semOf_congr same]

end Sys2Proof.Machine

/-! Mailboxes: the message words, the signal of a write, crossed pairs and reads (spec/17 R690-R697). -/

namespace Sys2Proof.Machine

/-! ### Mailboxes -/

theorem mbxOf_modMbx_same (m : Nat) (f : Mbx → Mbx) (s : State) : mbxOf (modMbx m f s) m = f (mbxOf s m) :=
  tabGet_tabMod_same Mbx.reset s.mbx m f

theorem mbxOf_modMbx_ne {m j : Nat} (f : Mbx → Mbx) (s : State) (other : j ≠ m) : mbxOf (modMbx m f s) j = mbxOf s j :=
  tabGet_tabMod_ne Mbx.reset f other

theorem mbxOf_congr {s t : State} (h : t.mbx = s.mbx) (m : Nat) : mbxOf t m = mbxOf s m := by rw [mbxOf, h, mbxOf]

theorem crossWith_congr {s t : State} (h : t.mbx = s.mbx) (m : Nat) : crossWith t m = crossWith s m := by
  unfold crossWith
  simp only [mbxOf_congr h]

/-- The words of a message, which no report and no interrupt event changes. -/
theorem msgWord_notMem {m w : Nat} (hm : m < 256) (hw : w < 3) : regKey .MBX_MSG 0 m w ∉ regKey .MBX_CNT 0 0 0 :: reportWords := by
  have high : ∀ k ∈ regKey .MBX_CNT 0 0 0 :: reportWords, k < 388 * 0x1000 ∨ 388 * 0x1000 + 864 ≤ k := by decide
  have key : regKey .MBX_MSG 0 m w = 388 * 0x1000 + (0 + m * 12) / 4 + w := rfl
  intro mem
  have := high _ mem
  omega

/-! ### Crossed pairs (R697) -/

/-- The rise of one crossed pair: counted and reported. -/
def pairRise (a b : Nat) (s : State) : State :=
  report 0x13 0 (max a b * 256 + min a b) (mbxOf s (min a b)).snd (bump F.MBX_CNT_CROSS s)

theorem crossRise_eq (a : Nat) (before : List Nat) (s : State) :
    crossRise a before s = forEach ((crossWith s a).filter fun b => !before.contains b) (pairRise a) s := rfl

theorem pairRise_regs (a b : Nat) (s : State) : RegsBut (regKey .MBX_CNT 0 0 0 :: reportWords) s (pairRise a b s) := by
  have counted : RegsBut (regKey .MBX_CNT 0 0 0 :: reportWords) s (bump F.MBX_CNT_CROSS s) :=
    RegsBut.bump (.refl _ s) List.mem_cons_self
  rw [pairRise]
  generalize bump F.MBX_CNT_CROSS s = u at counted ⊢
  exact counted.trans ((report_regs 0 _ _ (by decide) u).weaken (List.subset_cons_self _ _))

theorem crossRise_regs (a : Nat) (before : List Nat) (s : State) :
    RegsBut (regKey .MBX_CNT 0 0 0 :: reportWords) s (crossRise a before s) := .forEach s (pairRise_regs a)

/-- A report leaves the counts of mailboxes alone. -/
theorem fld_report_mbxCnt {f : FieldRef} (hr : f.reg = .MBX_CNT) (hw : f.word = 0) (sub detail req : Nat) (s : State) :
    fld (report 0x13 sub detail req s) f = fld s f :=
  (report_regs sub detail req (by decide) s).fld (by rw [hr, hw]; decide)

/-- The counts of mailboxes beside that of crossed pairs. -/
theorem fld_crossRise {f : FieldRef} (hr : f.reg = .MBX_CNT) (hw : f.word = 0) (beside : 8 ≤ f.lo) (a : Nat)
    (before : List Nat) (s : State) : fld (crossRise a before s) f = fld s f := by
  rw [crossRise_eq]
  refine forEach_same (fun u => fld u f) (fun b u => ?_) s
  rw [pairRise, fld_report_mbxCnt hr hw]
  exact fld_setFld_beside hr hw (by decide) (.inr beside)

theorem crossRise_mbx (a : Nat) (before : List Nat) (s : State) : (crossRise a before s).mbx = s.mbx :=
  (crossRise_upto (Upto.refl _ s) (Sub.refl _)).mbx rfl

theorem crossRise_domUp (a : Nat) (before : List Nat) (s : State) (d : Nat) :
    domUp (crossRise a before s) d = domUp s d := by
  refine forEach_same (fun u => domUp u d) (fun b u => ?_) s
  dsimp only
  rw [domUp, report_up, bump_pwr _ _ _ _ _, domUp]

theorem crossRise_none {a : Nat} {before : List Nat} {s : State} (no_pair : crossWith s a = []) : crossRise a before s = s := by
  rw [crossRise_eq, no_pair]
  rfl

theorem crossRise_single {a b : Nat} {s : State} (pair : crossWith s a = [b]) : crossRise a [] s = pairRise a b s := by
  rw [crossRise_eq, pair]
  rfl

/-- A risen pair is counted, and its fault is latched (R697, R796). -/
theorem pairRise_counts (a b : Nat) (s : State) : fld (pairRise a b s) F.MBX_CNT_CROSS =
    min (fld s F.MBX_CNT_CROSS + 1) (2 ^ F.MBX_CNT_CROSS.width - 1) := by
  rw [pairRise, fld_report_mbxCnt rfl rfl, fld_bump _ _ _ _ _ (by decide)]

theorem pairRise_latches (a b : Nat) {s : State} (base : baseUp s = true) : fclLatched (pairRise a b s) 19 = true :=
  report_latches _ _ _ (by decide) _ base

end Sys2Proof.Machine

/-! Mailbox writes: the message stored, the wake of its receiver and the signal (spec/17 R690-R693, R695, R697; R780). -/

namespace Sys2Proof.Machine

/-! ### The wake of a receiver (R690, R780) -/

theorem askUp_up (d : Nat) (s : State) : (askUp d s).pwr.up = s.pwr.up := by
  unfold askUp
  split
  · rfl
  · rfl

/-- A wake asks for the receiver's domain, is dropped, or is not needed. -/
theorem mbxWake_cases (rcv : Nat) (s : State) : mbxWake rcv s = s ∨
    mbxWake rcv s = raise 775 (bump F.PWR_CNT_WAKEDROP s) ∨ ∃ d, d / 32 < 8 ∧ mbxWake rcv s = askUp d s := by
  unfold mbxWake
  dsimp only
  split
  · next core =>
    rw [Bool.and_eq_true, decide_eq_true_eq, decide_eq_true_eq] at core
    split
    · exact .inl rfl
    · split
      · exact .inr (.inr ⟨_, by omega, rfl⟩)
      · exact .inr (.inl rfl)
  · split
    · next link =>
      rw [Bool.and_eq_true, decide_eq_true_eq, decide_eq_true_eq] at link
      split
      · exact .inl rfl
      · split
        · exact .inr (.inr ⟨_, by omega, rfl⟩)
        · exact .inr (.inl rfl)
    · exact .inl rfl

theorem mbxWake_regs (rcv : Nat) (s : State) : RegsBut reportWords s (mbxWake rcv s) := by
  obtain same | dropped | ⟨d, low, asked⟩ := mbxWake_cases rcv s
  · rw [same]
    exact .refl _ s
  · rw [dropped]
    have counted : RegsBut reportWords s (bump F.PWR_CNT_WAKEDROP s) :=
      RegsBut.bump (.refl _ s) (wakeWords_sub (by decide))
    exact counted.trans (raise_regs' _ _)
  · rw [asked]
    refine askUp_rel (closed_regsBut _) (List.mem_append_right _ ?_)
    exact List.mem_map.mpr ⟨d / 32, List.mem_range.mpr low, rfl⟩

theorem mbxWake_domUp (rcv : Nat) (s : State) (d : Nat) : domUp (mbxWake rcv s) d = domUp s d := by
  obtain same | dropped | ⟨e, -, asked⟩ := mbxWake_cases rcv s
  · rw [same]
  · rw [dropped, raise_domUp, domUp, bump_pwr _ _ _ _ _, domUp]
  · rw [asked, domUp, askUp_up, domUp]

theorem mbxWake_mbx (rcv : Nat) (s : State) : (mbxWake rcv s).mbx = s.mbx :=
  (mbxWake_upto (Upto.refl _ s) (Sub.refl _)).mbx rfl

/-! ### The signal of a write (R692, R693, R728) -/

theorem mbxNotify_mbx (m payload tag : Nat) (s : State) : (mbxNotify m payload tag s).mbx = s.mbx :=
  (mbxNotify_upto (Upto.refl _ s) (Sub.refl _)).mbx rfl

theorem ndlIrq_skmPut_regs (n k w : Nat) (v : Native) (s : State) : (ndlIrq n 1 (skmPut k w v s)).bus.regs = s.bus.regs := rfl

theorem mbxNotify_regs (m payload tag : Nat) (s : State) : RegsBut reportWords s (mbxNotify m payload tag s) := by
  unfold mbxNotify
  dsimp only
  split
  · exact .ite (.of_eq (ndlIrq_skmPut_regs ..)) (.refl _ s)
  · split
    · exact raise_regs' _ s
    · have sent (k : Nat) : (mbxRemote m k payload tag s).bus.regs = s.bus.regs :=
        (mbxRemote_upto (Upto.refl _ s) (Sub.refl _)).regs rfl
      exact .ite (.of_eq (sent _)) (.refl _ s)

theorem mbxNotify_core {m c : Nat} (payload tag : Nat) {s : State} (hc : c < 8) (receiver : (mbxOf s m).rcv = 128 + c)
    (powered : domUp s 213 = true) : (srcOf (mbxNotify m payload tag s) (721 + c)).pend = true := by
  have raises : mbxNotify m payload tag s = raise (721 + c) s := by
    unfold mbxNotify
    dsimp only
    rw [receiver, if_neg (by omega), if_pos (by omega), Nat.add_sub_cancel_left]
  rw [raises]
  exact raise_pends powered

/-- The message as it stands in SKWORD: the tag above the payload (R692). -/
def skMessage (payload tag : Nat) : Native := BitVec.ofNat 72 (payload + tag * 2 ^ 64)

theorem skMessage_eq (payload : DWord) (tag : Byte) :
    skMessage payload.toNat tag.toNat = payload.zeroExtend 72 + (tag.zeroExtend 72 <<< 64) := by
  apply BitVec.eq_of_toNat_eq
  have low := payload.isLt
  have high := tag.isLt
  simp only [skMessage, BitVec.toNat_ofNat, BitVec.toNat_add, BitVec.toNat_shiftLeft, BitVec.truncate_eq_setWidth,
    BitVec.toNat_setWidth, Nat.shiftLeft_eq]
  omega

theorem mbxNotify_needle {m payload tag : Nat} {s : State} (needle : (mbxOf s m).rcv < 128)
    (powered : domUp s (128 + (mbxOf s m).rcv / 8) = true) :
    bitAt (ndlOf (mbxNotify m payload tag s) (mbxOf s m).rcv).ipend 1 = true ∧
    tabGet 0 (mbxNotify m payload tag s).mem.skm (skmKey ((mbxOf s m).rcv / 8) (mbxOf s m).skword) = skMessage payload tag := by
  have writes : mbxNotify m payload tag s = ndlIrq (mbxOf s m).rcv 1
      (skmPut ((mbxOf s m).rcv / 8) (mbxOf s m).skword (skMessage payload tag) s) := by
    unfold mbxNotify
    dsimp only
    rw [if_pos needle, if_pos powered]
    rfl
  rw [writes]
  refine ⟨?_, tabGet_tabSet_same ..⟩
  rw [ndlIrq, ndlOf_modNdl_same, bitAt_eq_testBit, Nat.testBit_or, Bool.or_eq_true]
  exact .inr rfl

/-! ### The message and the record of its writer (R690, R695) -/

/-- The words of a message. -/
def storeMsg (m payload tag : Nat) (s : State) : State :=
  setRword .MBX_MSG 0 m 0 (payload % 2 ^ 32) (setRword .MBX_MSG 0 m 1 (payload / 2 ^ 32 % 2 ^ 32)
    (setRword .MBX_MSG 0 m 2 (tag % 256) s))

theorem rword_storeMsg (m payload tag : Nat) (s : State) :
    rword (storeMsg m payload tag s) .MBX_MSG 0 m 0 = payload % 2 ^ 32 ∧
    rword (storeMsg m payload tag s) .MBX_MSG 0 m 1 = payload / 2 ^ 32 % 2 ^ 32 ∧
    rword (storeMsg m payload tag s) .MBX_MSG 0 m 2 = tag % 256 := by
  have apart : ∀ {v w : Nat}, v ≠ w → regKey .MBX_MSG 0 m v ≠ regKey .MBX_MSG 0 m w := regKey_word
  unfold storeMsg
  refine ⟨?_, ?_, ?_⟩
  · rw [rword_setRword, Nat.mod_mod]
  · rw [rword_setRword_ne (apart (by decide)), rword_setRword, Nat.mod_mod]
  · rw [rword_setRword_ne (apart (by decide)), rword_setRword_ne (apart (by decide)), rword_setRword]
    omega

theorem storeMsg_cnt {m : Nat} (hm : m < 256) (payload tag : Nat) (s : State) (f : FieldRef) (hr : f.reg = .MBX_CNT)
    (hw : f.word = 0) : fld (storeMsg m payload tag s) f = fld s f := by
  have apart : ∀ w, w < 3 → regKey f.reg 0 0 f.word ≠ regKey .MBX_MSG 0 m w := by
    intro w small same
    rw [hr, hw] at same
    exact msgWord_notMem hm small (same ▸ List.mem_cons_self)
  unfold storeMsg
  rw [fld_setRword_ne (apart 0 (by decide)), fld_setRword_ne (apart 1 (by decide)), fld_setRword_ne (apart 2 (by decide))]

/-- A mailbox as a write leaves it. -/
def postedBox (req now : Nat) (x : Mbx) : Mbx :=
  { x with full := true, coll := x.full, snd := req, fullAt := if x.full then x.fullAt else now, origin := none }

/-- A write's message, count and record of its writer. -/
def post (m req payload tag : Nat) (s : State) : State :=
  modMbx m (postedBox req s.now)
    (if (mbxOf s m).full then bump F.MBX_CNT_COLL (storeMsg m payload tag s) else storeMsg m payload tag s)

theorem post_only (m req payload tag : Nat) (s : State) :
    post m req payload tag s = { s with bus := (post m req payload tag s).bus, mbx := tabMod .reset s.mbx m (postedBox req s.now) } := by
  unfold post
  split <;> rfl

theorem mbxOf_post (m req payload tag : Nat) (s : State) : mbxOf (post m req payload tag s) m = postedBox req s.now (mbxOf s m) := by
  rw [post_only]
  exact tabGet_tabMod_same ..

theorem mbxOf_post_ne {m j : Nat} (req payload tag : Nat) (s : State) (other : j ≠ m) :
    mbxOf (post m req payload tag s) j = mbxOf s j := by
  rw [post_only]
  exact tabGet_tabMod_ne _ _ other

theorem post_domUp (m req payload tag : Nat) (s : State) (d : Nat) : domUp (post m req payload tag s) d = domUp s d := by
  rw [post_only, domUp, domUp]

theorem rword_post {m : Nat} (hm : m < 256) (req payload tag : Nat) (s : State) {w : Nat} (hw : w < 3) :
    rword (post m req payload tag s) .MBX_MSG 0 m w = rword (storeMsg m payload tag s) .MBX_MSG 0 m w := by
  have apart : regKey .MBX_MSG 0 m w ≠ regKey F.MBX_CNT_COLL.reg 0 0 F.MBX_CNT_COLL.word :=
    fun same => msgWord_notMem hm hw (same ▸ List.mem_cons_self)
  unfold post
  split
  · exact rword_setRword_ne apart
  · rfl

/-- A write that replaces an unread message is counted, and no other (R695). -/
theorem post_counts {m : Nat} (hm : m < 256) (req payload tag : Nat) (s : State) :
    fld (post m req payload tag s) F.MBX_CNT_COLL =
      if (mbxOf s m).full then min (fld s F.MBX_CNT_COLL + 1) (2 ^ F.MBX_CNT_COLL.width - 1) else fld s F.MBX_CNT_COLL := by
  have stored := storeMsg_cnt hm payload tag s F.MBX_CNT_COLL rfl rfl
  unfold post
  split
  · rw [← stored]
    exact fld_bump F.MBX_CNT_COLL (storeMsg m payload tag s) 0 0 1 (by decide)
  · exact stored

/-- A write of an enabled mailbox posts its message, reports the pairs it crosses, wakes its receiver and signals it. -/
theorem mbxWrite_enabled {m : Nat} (req payload tag : Nat) {s : State} (enabled : (mbxOf s m).en = true) :
    mbxWrite m req payload tag none s = mbxNotify m payload tag
      (mbxWake (mbxOf s m).rcv (crossRise m (crossWith s m) (post m req payload tag s))) := by
  have posts : modMbx m (postedBox req (if (mbxOf s m).full then bump F.MBX_CNT_COLL (storeMsg m payload tag s)
      else storeMsg m payload tag s).now) (if (mbxOf s m).full then bump F.MBX_CNT_COLL (storeMsg m payload tag s)
      else storeMsg m payload tag s) = post m req payload tag s := by
    unfold post
    split <;> rfl
  rw [← posts, mbxWrite]
  exact if_neg (by rw [enabled]; decide)

theorem mbxWrite_disabled {m : Nat} (req payload tag : Nat) {s : State} (disabled : (mbxOf s m).en = false) :
    mbxWrite m req payload tag none s = s := if_pos (by rw [disabled]; decide)

/-! ### The three words of a write (R56, R690) -/

/-- The words that a requester writes. -/
def msgOf (payload : DWord) (tag : Byte) : List Nat := [payload.toNat % 2 ^ 32, payload.toNat / 2 ^ 32, tag.toNat]

theorem wordVals_msgOf (m : Nat) (payload : DWord) (tag : Byte) : wordVals .MBX_MSG m (msgOf payload tag) = msgOf payload tag := by
  have low := payload.isLt
  have high := tag.isLt
  have word : ∀ x, x < 2 ^ 32 → x % 2 ^ 32 &&& (2 ^ 32 - 1) = x := fun x hx => by
    rw [Nat.and_two_pow_sub_one_eq_mod, Nat.mod_mod, Nat.mod_eq_of_lt hx]
  have byte : tag.toNat % 2 ^ 32 &&& (2 ^ 8 - 1) = tag.toNat := by
    rw [Nat.and_two_pow_sub_one_eq_mod]
    omega
  have masks : rwMask .MBX_MSG 0 0 ||| woMask .MBX_MSG 0 = 2 ^ 32 - 1 ∧ rwMask .MBX_MSG 0 1 ||| woMask .MBX_MSG 1 = 2 ^ 32 - 1 ∧
      rwMask .MBX_MSG 0 2 ||| woMask .MBX_MSG 2 = 2 ^ 8 - 1 := by decide
  obtain ⟨mask0, mask1, mask2⟩ := masks
  calc wordVals .MBX_MSG m (msgOf payload tag)
    _ = [payload.toNat % 2 ^ 32 % 2 ^ 32 &&& (rwMask .MBX_MSG 0 0 ||| woMask .MBX_MSG 0),
        payload.toNat / 2 ^ 32 % 2 ^ 32 &&& (rwMask .MBX_MSG 0 1 ||| woMask .MBX_MSG 1),
        tag.toNat % 2 ^ 32 &&& (rwMask .MBX_MSG 0 2 ||| woMask .MBX_MSG 2)] := rfl
    _ = msgOf payload tag := by rw [mask0, mask1, mask2, word _ (by omega), word _ (by omega), byte, msgOf]

theorem mbxMsgEffect_msgOf (m req : Nat) (payload : DWord) (tag : Byte) (s : State) :
    mbxMsgEffect m req (msgOf payload tag) s = mbxWrite m req payload.toNat tag.toNat none s := by
  have high := tag.isLt
  have whole : payload.toNat % 2 ^ 32 + payload.toNat / 2 ^ 32 * 2 ^ 32 = payload.toNat := by omega
  have byte : tag.toNat % 256 = tag.toNat := Nat.mod_eq_of_lt high
  show mbxWrite m req (payload.toNat % 2 ^ 32 + payload.toNat / 2 ^ 32 * 2 ^ 32) (tag.toNat % 256) none s = _
  rw [whole, byte]

/-- A word below the highest is staged, whether or not its commit stores. -/
theorem writeOne_staged {r : Reg} {fr i w : Nat} {a : Acc} {busy : List Nat → Option Berr} {ok : List Nat → Bool}
    {keep : Bool} {eff : List Nat → State → State} {s : State} (up : frameUp r fr s = true)
    (lower : w + 1 < (regInfo r).words) : writeOne r fr i w a busy ok keep eff s =
      stageWord r fr i w a (served (blkFrame (regInfo r).blk fr) a.req.val s) := by
  rw [writeOne, writeReg_staged up lower, accessEnd]

/-- The `k`th word of a message, staged. -/
def stageMsg (req : Req) (m : Nat) (payload : DWord) (tag : Byte) (k : Nat) (s : State) : State :=
  stageWord .MBX_MSG 0 m k (wholeAcc req (msgOf payload tag) k) (served (blkFrame .mbx 0) req.val s)

theorem stageMsg_regs (req : Req) (m : Nat) (payload : DWord) (tag : Byte) (k : Nat) (s : State) :
    (stageMsg req m payload tag k s).bus.regs = s.bus.regs := rfl

section
variable {req : Req} {m k : Nat} {payload : DWord} {tag : Byte} {s u : State}

theorem writeOne_stageMsg (base : baseUp s = true) (lower : k < 2) :
    writeOne .MBX_MSG 0 m k (wholeAcc req (msgOf payload tag) k) neverBusy anyOk false (mbxMsgEffect m req.val) s =
      stageMsg req m payload tag k s :=
  writeOne_staged (frameUp_of_base rfl base) (Nat.succ_lt_succ lower)

theorem stageMsg_staged (h : Staged .MBX_MSG 0 m req (msgOf payload tag) k s u) (base : baseUp s = true) (lower : k < 2) :
    Staged .MBX_MSG 0 m req (msgOf payload tag) (k + 1) s (stageMsg req m payload tag k u) := by
  have up : frameUp .MBX_MSG 0 s = true := frameUp_of_base rfl base
  have below : k + 1 < (regInfo .MBX_MSG).words := Nat.succ_lt_succ lower
  have next := Staged.succ (busy := neverBusy) (ok := anyOk) (eff := fun _ s => s) h up below
  rw [writeOne_staged ((frameUp_congr h.only).trans up) below] at next
  exact next

/-- The write of the highest word finds the other two, and acts on a state without them. -/
theorem writeOne_lastMsg (h : Staged .MBX_MSG 0 m req (msgOf payload tag) 2 s u) (base : baseUp s = true) :
    writeOne .MBX_MSG 0 m 2 (wholeAcc req (msgOf payload tag) 2) neverBusy anyOk false (mbxMsgEffect m req.val) u =
      mbxWrite m req.val payload.toNat tag.toNat none (passed .MBX_MSG 0 m (wholeAcc req (msgOf payload tag) 2) u) := by
  have up : frameUp .MBX_MSG 0 u = true := (frameUp_congr h.only).trans (frameUp_of_base rfl base)
  have values : commitVals u .MBX_MSG 0 m (wholeAcc req (msgOf payload tag) 2) = msgOf payload tag :=
    h.commitVals.trans (wordVals_msgOf m payload tag)
  have legal : judge .MBX_MSG (msgOf payload tag) = true := rfl
  rw [writeOne_passed up (by decide) rfl (by rw [values]; exact legal), values, mbxMsgEffect_msgOf]

end

theorem execMailboxWrite_eq (req : Req) (box : Fin 256) (payload : DWord) (tag : Byte) (s : State) :
    execMailboxWrite req box payload tag s =
      let put (k : Nat) (s : State) : State := writeOne .MBX_MSG 0 box.val k (wholeAcc req (msgOf payload tag) k) neverBusy
        anyOk false (mbxMsgEffect box.val req.val) s
      .next (put 2 (put 1 (put 0 s))) := by
  have word0 : wholeAcc req (msgOf payload tag) 0 = ⟨req, .normal, BitVec.ofNat 32 (payload.toNat % 2 ^ 32)⟩ := rfl
  have word1 : wholeAcc req (msgOf payload tag) 1 = ⟨req, .normal, BitVec.ofNat 32 (payload.toNat / 2 ^ 32)⟩ := rfl
  have word2 : wholeAcc req (msgOf payload tag) 2 = ⟨req, .normal, BitVec.ofNat 32 tag.toNat⟩ := rfl
  dsimp only
  rw [word0, word1, word2, execMailboxWrite]

/-- The write of a mailbox acts on a state that differs from `s` in the register interface alone, and in no register word. -/
theorem exec_mailboxWrite {req : Req} {box : Fin 256} (payload : DWord) (tag : Byte) {s : State} (base : baseUp s = true) :
    ∃ u, OnlyBus s u ∧ u.bus.regs = s.bus.regs ∧
      exec (.mailboxWrite req box payload tag) s = .next (mbxWrite box.val req.val payload.toNat tag.toNat none u) := by
  have started : Staged .MBX_MSG 0 box.val req (msgOf payload tag) 0 s s := ⟨rfl, rfl, nofun⟩
  have two := stageMsg_staged (stageMsg_staged started base (by decide)) base (by decide)
  have still : baseUp (stageMsg req box.val payload tag 0 s) = true := base
  have runs := execMailboxWrite_eq req box payload tag s
  dsimp only at runs
  rw [writeOne_stageMsg base (by decide), writeOne_stageMsg still (by decide), writeOne_lastMsg two base] at runs
  refine ⟨_, ?_, ?_, runs⟩
  · exact two.only.trans (passed_onlyBus ..)
  · rw [passed_regs, stageMsg_regs, stageMsg_regs]

end Sys2Proof.Machine

/-! O32: mailboxes are written, read and timed out; semaphores are acquired, released and revoked (spec/17 R690-R702). -/

namespace Sys2Proof.Machine

/-! ### A write (R690-R695) -/

/-- The state that the write of an enabled mailbox leaves. -/
def written (m req payload tag : Nat) (s : State) : State :=
  mbxNotify m payload tag (mbxWake (mbxOf s m).rcv (crossRise m (crossWith s m) (post m req payload tag s)))

/-- The state in which the receiver is signalled. -/
def toSignal (m req payload tag : Nat) (s : State) : State :=
  mbxWake (mbxOf s m).rcv (crossRise m (crossWith s m) (post m req payload tag s))

section
variable (m req payload tag : Nat) (s : State)

theorem written_eq : written m req payload tag s = mbxNotify m payload tag (toSignal m req payload tag s) := rfl

theorem toSignal_mbx : (toSignal m req payload tag s).mbx = (post m req payload tag s).mbx := by
  rw [toSignal, mbxWake_mbx, crossRise_mbx]

theorem mbxOf_toSignal : mbxOf (toSignal m req payload tag s) m = postedBox req s.now (mbxOf s m) := by
  rw [mbxOf_congr (toSignal_mbx ..), mbxOf_post]

theorem toSignal_domUp (d : Nat) : domUp (toSignal m req payload tag s) d = domUp s d := by
  rw [toSignal, mbxWake_domUp, crossRise_domUp, post_domUp]

theorem written_mbx : (written m req payload tag s).mbx = (post m req payload tag s).mbx := by
  rw [written_eq, mbxNotify_mbx, toSignal_mbx]

theorem written_regs : RegsBut (regKey .MBX_CNT 0 0 0 :: reportWords) (post m req payload tag s) (written m req payload tag s) :=
  (crossRise_regs m (crossWith s m) _).trans (((mbxWake_regs (mbxOf s m).rcv _).trans (mbxNotify_regs m payload tag _)).weaken
    (List.subset_cons_self _ _))

theorem fld_written : fld (written m req payload tag s) F.MBX_CNT_COLL = fld (post m req payload tag s) F.MBX_CNT_COLL := by
  have apart : regKey F.MBX_CNT_COLL.reg 0 0 F.MBX_CNT_COLL.word ∉ reportWords := by decide
  rw [written, (mbxNotify_regs m payload tag _).fld apart, (mbxWake_regs _ _).fld apart, fld_crossRise rfl rfl (by decide)]

end

/-- What the write of an enabled mailbox leaves of the mailboxes, the message and the counts. -/
structure Wrote (m req payload tag : Nat) (s t : State) : Prop where
  others : ∀ j, j ≠ m → mbxOf t j = mbxOf s j
  posted : mbxOf t m = postedBox req s.now (mbxOf s m)
  low : rword t .MBX_MSG 0 m 0 = payload % 2 ^ 32
  high : rword t .MBX_MSG 0 m 1 = payload / 2 ^ 32 % 2 ^ 32
  tagged : rword t .MBX_MSG 0 m 2 = tag % 256
  counted : fld t F.MBX_CNT_COLL =
    if (mbxOf s m).full then min (fld s F.MBX_CNT_COLL + 1) (2 ^ F.MBX_CNT_COLL.width - 1) else fld s F.MBX_CNT_COLL

theorem written_wrote {m : Nat} (hm : m < 256) (req payload tag : Nat) (s : State) :
    Wrote m req payload tag s (written m req payload tag s) := by
  have word {w : Nat} (hw : w < 3) : rword (written m req payload tag s) .MBX_MSG 0 m w =
      rword (storeMsg m payload tag s) .MBX_MSG 0 m w :=
    ((written_regs m req payload tag s).rword (msgWord_notMem hm hw)).trans (rword_post hm req payload tag s hw)
  obtain ⟨low, high, tagged⟩ := rword_storeMsg m payload tag s
  refine ⟨fun j other => ?_, ?_, (word (by decide)).trans low, (word (by decide)).trans high, (word (by decide)).trans tagged, ?_⟩
  · rw [mbxOf_congr (written_mbx ..), mbxOf_post_ne _ _ _ _ other]
  · rw [mbxOf_congr (written_mbx ..), mbxOf_post]
  · rw [fld_written, post_counts hm]

theorem written_core {m c : Nat} (req payload tag : Nat) {s : State} (hc : c < 8) (receiver : (mbxOf s m).rcv = 128 + c)
    (powered : domUp s 213 = true) : (srcOf (written m req payload tag s) (721 + c)).pend = true := by
  refine mbxNotify_core payload tag hc ?_ ?_
  · exact (congrArg Mbx.rcv (mbxOf_toSignal m req payload tag s)).trans receiver
  · exact (toSignal_domUp m req payload tag s 213).trans powered

theorem written_needle {m : Nat} (req payload tag : Nat) {s : State} (needle : (mbxOf s m).rcv < 128)
    (powered : domUp s (128 + (mbxOf s m).rcv / 8) = true) :
    bitAt (ndlOf (written m req payload tag s) (mbxOf s m).rcv).ipend 1 = true ∧
    tabGet 0 (written m req payload tag s).mem.skm (skmKey ((mbxOf s m).rcv / 8) (mbxOf s m).skword) = skMessage payload tag := by
  have box := mbxOf_toSignal m req payload tag s
  have rcv : (mbxOf (toSignal m req payload tag s) m).rcv = (mbxOf s m).rcv := by
    rw [box]
    rfl
  have skword : (mbxOf (toSignal m req payload tag s) m).skword = (mbxOf s m).skword := by
    rw [box]
    rfl
  have signals := mbxNotify_needle (m := m) (payload := payload) (tag := tag) (s := toSignal m req payload tag s)
    (by rwa [rcv]) (by rwa [rcv, toSignal_domUp])
  rwa [rcv, skword] at signals

section
variable {req : Req} {box : Fin 256} {s : State} (payload : DWord) (tag : Byte) (base : baseUp s = true)
include base

theorem mailboxWrite_disabled (disabled : (mbxOf s box.val).en = false) :
    Answers (.mailboxWrite req box payload tag) s fun t =>
      t.mbx = s.mbx ∧ ∀ w, rword t .MBX_MSG 0 box.val w = rword s .MBX_MSG 0 box.val w := by
  obtain ⟨u, only, regs, runs⟩ := exec_mailboxWrite (req := req) (box := box) payload tag base
  have mbx : u.mbx = s.mbx := by rw [only]
  rw [mbxWrite_disabled _ _ _ (by rw [mbxOf_congr mbx, disabled])] at runs
  exact ⟨u, runs, mbx, fun w => by rw [rword, regs, rword]⟩

theorem mailboxWrite_writes (enabled : (mbxOf s box.val).en = true) :
    Answers (.mailboxWrite req box payload tag) s fun t =>
      Wrote box.val req.val payload.toNat tag.toNat s t ∧
      (∀ c, c < 8 → (mbxOf s box.val).rcv = 128 + c → domUp s 213 = true → (srcOf t (721 + c)).pend = true) ∧
      ((mbxOf s box.val).rcv < 128 → domUp s (128 + (mbxOf s box.val).rcv / 8) = true →
        bitAt (ndlOf t (mbxOf s box.val).rcv).ipend 1 = true ∧
        tabGet 0 t.mem.skm (skmKey ((mbxOf s box.val).rcv / 8) (mbxOf s box.val).skword) =
          skMessage payload.toNat tag.toNat) := by
  obtain ⟨u, only, regs, runs⟩ := exec_mailboxWrite (req := req) (box := box) payload tag base
  have mbx (j : Nat) : mbxOf u j = mbxOf s j := mbxOf_congr (by rw [only]) j
  have now : u.now = s.now := by rw [only]
  have up (d : Nat) : domUp u d = domUp s d := by rw [only, domUp, domUp]
  have count : fld u F.MBX_CNT_COLL = fld s F.MBX_CNT_COLL := by rw [fld, rword, regs, fld, rword]
  obtain ⟨others, posted, low, high, tagged, counted⟩ :=
    written_wrote box.isLt req.val payload.toNat tag.toNat u
  refine ⟨_, runs.trans (congrArg Host.Outcome.next (mbxWrite_enabled _ _ _ (by rw [mbx, enabled]))),
    ⟨fun j other => (others j other).trans (mbx j), ?_, low, high, tagged, ?_⟩, fun c hc receiver powered => ?_,
    fun needle powered => ?_⟩
  · rwa [mbx, now] at posted
  · rwa [mbx, count] at counted
  · exact written_core _ _ _ hc (by rw [mbx, receiver]) (by rw [up, powered])
  · rw [← mbx box.val] at needle powered ⊢
    exact written_needle _ _ _ needle (by rw [up, powered])

end

/-! ### A read (R694) -/

/-- One word latched for a requester (R58). -/
def latchWord (r : Reg) (req fr i : Nat) (ws : List Nat) (w : Nat) (s : State) : State :=
  { s with bus := { s.bus with
      latched := tabSet none s.bus.latched (stageKey req (regKey r fr i w)) (some (BitVec.ofNat 32 (ws.getD w 0))) } }

theorem latchWords_eq (r : Reg) (req fr i : Nat) (ws : List Nat) (s : State) :
    latchWords r req fr i ws s = forEach (List.range ws.length) (latchWord r req fr i ws) s := rfl

theorem latchWord_latched (r : Reg) (req fr i : Nat) (ws : List Nat) (w j : Nat) (s : State) :
    tabGet none (latchWord r req fr i ws w s).bus.latched j = if j = stageKey req (regKey r fr i w) then
      some (BitVec.ofNat 32 (ws.getD w 0)) else tabGet none s.bus.latched j :=
  tabGet_tabSet none s.bus.latched (stageKey req (regKey r fr i w)) j (some (BitVec.ofNat 32 (ws.getD w 0)))

theorem latchWords_latched {r : Reg} {req fr i : Nat} {ws : List Nat} {s : State} {w : Nat} (hw : w < ws.length) :
    tabGet none (latchWords r req fr i ws s).bus.latched (stageKey req (regKey r fr i w)) =
      some (BitVec.ofNat 32 (ws.getD w 0)) := by
  rw [latchWords_eq]
  generalize ws.length = k at hw
  induction k with
  | zero => exact absurd hw (Nat.not_lt_zero w)
  | succ k ih =>
    rw [forEach, List.range_succ, List.foldl_append, List.foldl_cons, List.foldl_nil, latchWord_latched]
    rcases Nat.lt_succ_iff_lt_or_eq.mp hw with below | rfl
    · have apart : stageKey req (regKey r fr i w) ≠ stageKey req (regKey r fr i k) := fun same =>
        regKey_word (Nat.ne_of_lt below) (Nat.add_left_cancel same)
      rw [if_neg apart]
      exact ih below
    · rw [if_pos rfl]

/-- A mailbox whose message has been read. -/
def emptied (x : Mbx) : Mbx := { x with full := false, coll := false, tmo := false, origin := none }

theorem mbxClear_bus (m : Nat) (s : State) : (mbxClear m s).bus.answers = s.bus.answers ∧
    (mbxClear m s).bus.latched = s.bus.latched := by
  obtain ⟨-, latched, -, -, -, answers, -⟩ := (mbxClear_upto (a0 := m) (Upto.refl _ s) (Sub.refl _)).fabric rfl
  exact ⟨answers, latched⟩

theorem mbxClear_mbx {m : Nat} {s : State} (full : (mbxOf s m).full = true) :
    (mbxClear m s).mbx = (modMbx m emptied s).mbx := by
  have clears : mbxClear m s = match (mbxOf s m).origin with
      | some (dev, box) => sendMsg dev (.mbxAck box) (modMbx m emptied s)
      | none => modMbx m emptied s := by
    unfold mbxClear
    dsimp only
    rw [full]
    rfl
  rw [clears]
  split
  · exact (sendMsg_upto (Upto.refl _ _) (Sub.refl _)).mbx rfl
  · rfl

theorem mbxOf_mbxClear_ne {m j : Nat} (s : State) (other : j ≠ m) : mbxOf (mbxClear m s) j = mbxOf s j := by
  cases full : (mbxOf s m).full with
  | true => rw [mbxOf_congr (mbxClear_mbx full), mbxOf_modMbx_ne _ _ other]
  | false =>
    have stays : mbxClear m s = s := if_pos (by rw [full]; rfl)
    rw [stays]

/-- A message answered and latched for its reader. -/
def readOut (req m : Nat) (s : State) : State :=
  answer req (rword s .MBX_MSG 0 m 0) (latchWords .MBX_MSG req 0 m (msgWords s m) s)

theorem mbxOf_readOut (req m : Nat) (s : State) (j : Nat) : mbxOf (readOut req m s) j = mbxOf s j :=
  mbxOf_congr (latchWords_mbx ..) j

theorem mbxServe_eq (req m : Nat) (s : State) : mbxServe req m s =
    if (mbxOf (readOut req m s) m).rcv = req && req < 136 then mbxClear m (readOut req m s) else readOut req m s := rfl

theorem mbxServe_bus (req m : Nat) (s : State) :
    (mbxServe req m s).bus.answers = (readOut req m s).bus.answers ∧ (mbxServe req m s).bus.latched = (readOut req m s).bus.latched := by
  rw [mbxServe_eq]
  split
  · exact mbxClear_bus ..
  · exact ⟨rfl, rfl⟩

theorem mailboxRead_reads {req : Req} {box : Fin 256} {s : State} (base : baseUp s = true) :
    Answers (.mailboxRead req box) s fun t =>
      tabGet 0 t.bus.answers req = rword s .MBX_MSG 0 box.val 0 ∧
      (∀ w, w < 3 → tabGet none t.bus.latched (stageKey req (regKey .MBX_MSG 0 box.val w)) =
        some (BitVec.ofNat 32 (rword s .MBX_MSG 0 box.val w))) ∧
      (∀ j, j ≠ box.val → mbxOf t j = mbxOf s j) ∧
      ((mbxOf s box.val).rcv = req → (mbxOf s box.val).rcv < 128 + 8 → (mbxOf s box.val).full = true →
        mbxOf t box.val = emptied (mbxOf s box.val)) ∧
      ((mbxOf s box.val).rcv ≠ req → mbxOf t box.val = mbxOf s box.val) := by
  generalize hu : served (blkFrame .mbx 0) req.val s = u
  have box_u (j : Nat) : mbxOf (readOut req.val box.val u) j = mbxOf s j := by rw [mbxOf_readOut, ← hu]; rfl
  have word_u (w : Nat) : rword u .MBX_MSG 0 box.val w = rword s .MBX_MSG 0 box.val w := by rw [← hu]; rfl
  have runs : exec (.mailboxRead req box) s = .next (mbxServe req.val box.val u) := by
    rw [← hu]
    exact congrArg Host.Outcome.next (readServed_powered (r := .MBX_MSG) (fr := 0) _ req _ (frameUp_of_base rfl base))
  obtain ⟨answers, latched⟩ := mbxServe_bus req.val box.val u
  refine ⟨_, runs, ?_, fun w hw => ?_, fun j other => ?_, fun receiver core full => ?_, fun stranger => ?_⟩
  · rw [answers, readOut, tabGet_answer, word_u]
  · rw [latched, ← word_u]
    have value : (msgWords u box.val).getD w 0 = rword u .MBX_MSG 0 box.val w := by
      rw [msgWords, List.getD_eq_getElem?_getD, List.getElem?_map, List.getElem?_range hw]
      rfl
    rw [← value]
    exact latchWords_latched hw
  · rw [mbxServe_eq]
    split
    · rw [mbxOf_mbxClear_ne _ other, box_u]
    · exact box_u j
  · have taken : mbxServe req.val box.val u = mbxClear box.val (readOut req.val box.val u) := by
      rw [mbxServe_eq, box_u, receiver]
      exact if_pos (by simp only [decide_true, Bool.true_and, decide_eq_true_eq]; omega)
    rw [taken, mbxOf_congr (mbxClear_mbx (by rw [box_u, full])), mbxOf_modMbx_same, box_u]
  · have kept : mbxServe req.val box.val u = readOut req.val box.val u := by
      rw [mbxServe_eq, box_u]
      exact if_neg (by simp only [stranger, decide_false, Bool.false_and]; decide)
    rw [kept, box_u]

/-! ### A message not read in time (R696, R697) -/

/-- A mailbox whose message is late. -/
def late (x : Mbx) : Mbx := { x with tmo := true }

/-- The late message is marked, counted and reported by MBXERR. -/
def marked (m : Nat) (s : State) : State := raise 729 (bump F.MBX_CNT_TMO (modMbx m late s))

theorem marked_mbx (m : Nat) (s : State) : (marked m s).mbx = (modMbx m late s).mbx := by
  rw [marked, raise_mbx, bump_mbx _ _ _ _ _]

theorem fld_marked (m : Nat) (s : State) : fld (marked m s) F.MBX_CNT_TMO =
    min (fld s F.MBX_CNT_TMO + 1) (2 ^ F.MBX_CNT_TMO.width - 1) := by
  rw [marked, (raise_regs _ _).fld (by decide), fld_bump _ _ _ _ _ (by decide)]
  rfl

theorem fld_marked_cross (m : Nat) (s : State) : fld (marked m s) F.MBX_CNT_CROSS = fld s F.MBX_CNT_CROSS := by
  rw [marked, (raise_regs _ _).fld (by decide)]
  exact fld_setFld_beside (f := F.MBX_CNT_TMO) (g := F.MBX_CNT_CROSS) rfl rfl (by decide) (by decide)

theorem marked_baseUp {m : Nat} {s : State} (base : baseUp s = true) : baseUp (marked m s) = true := by
  rw [marked, raise_baseUp]
  exact base

theorem marked_pends {m : Nat} {s : State} (powered : domUp s 213 = true) : (srcOf (marked m s) 729).pend = true :=
  raise_pends powered

/-- The mailboxes that would cross a mailbox once its message is late. -/
def crosses (s : State) (m b : Nat) : Bool :=
  decide (b ≠ m) && (mbxOf s b).tmo && decide ((mbxOf s b).rcv = (mbxOf s m).snd) && decide ((mbxOf s b).snd = (mbxOf s m).rcv)

theorem crossWith_marked (m : Nat) (s : State) : crossWith (marked m s) m = (List.range 256).filter (crosses s m) := by
  rw [crossWith_congr (marked_mbx m s), crossWith]
  refine List.filter_congr fun b _ => ?_
  rw [mbxOf_modMbx_same]
  by_cases same : b = m
  · simp [crosses, same]
  · rw [mbxOf_modMbx_ne _ _ same]
    simp only [late, Bool.and_true]
    rfl

/-- A condition that one number below `n` meets chooses it alone. -/
theorem filter_range_unique {n b : Nat} {p : Nat → Bool} (hb : b < n) (only : ∀ j, j < n → (p j = true ↔ j = b)) :
    (List.range n).filter p = [b] := by
  have chosen : (List.range n).filter p = (List.range n).filter (· == b) :=
    List.filter_congr fun j hj => Bool.eq_iff_iff.mpr ((only j (List.mem_range.mp hj)).trans beq_iff_eq.symm)
  rw [chosen, List.filter_beq, List.count_eq_one_of_mem List.nodup_range (List.mem_range.mpr hb)]
  rfl

theorem exec_mailboxTimeout_late {box : Fin 256} {s : State} (full : (mbxOf s box.val).full = true)
    (unmarked : (mbxOf s box.val).tmo = false) (due : s.now ≥ (mbxOf s box.val).fullAt + fld s F.MBX_TMO_TMO * 1000) :
    exec (.mailboxTimeout box) s = .next (crossRise box.val [] (marked box.val s)) := by
  show execMailboxTimeout box s = _
  unfold execMailboxTimeout
  dsimp only
  rw [full, unmarked, if_pos (by simp [due])]
  rfl

theorem mailboxTimeout_early {box : Fin 256} {s : State} (early : (mbxOf s box.val).full = false ∨
    (mbxOf s box.val).tmo = true ∨ ¬ s.now ≥ (mbxOf s box.val).fullAt + fld s F.MBX_TMO_TMO * 1000) :
    Answers (.mailboxTimeout box) s fun t => t = s := by
  refine ⟨s, ?_, rfl⟩
  show execMailboxTimeout box s = _
  unfold execMailboxTimeout
  dsimp only
  refine if_neg fun passed => ?_
  simp only [Bool.and_eq_true, Bool.not_eq_true', decide_eq_true_eq] at passed
  obtain ⟨⟨full, unmarked⟩, due⟩ := passed
  rcases early with empty | already | soon
  · rw [full] at empty
    cases empty
  · rw [unmarked] at already
    cases already
  · exact soon due

theorem mailboxTimeout_marks {box : Fin 256} {s : State} (base : baseUp s = true) (full : (mbxOf s box.val).full = true)
    (unmarked : (mbxOf s box.val).tmo = false) (due : s.now ≥ (mbxOf s box.val).fullAt + fld s F.MBX_TMO_TMO * 1000) :
    Answers (.mailboxTimeout box) s fun t => (∀ j, j ≠ box.val → mbxOf t j = mbxOf s j) ∧
      mbxOf t box.val = late (mbxOf s box.val) ∧
      fld t F.MBX_CNT_TMO = min (fld s F.MBX_CNT_TMO + 1) (2 ^ F.MBX_CNT_TMO.width - 1) ∧
      ((∀ b, b < 256 → crosses s box.val b = false) → fld t F.MBX_CNT_CROSS = fld s F.MBX_CNT_CROSS ∧
        (domUp s 213 = true → (srcOf t 729).pend = true)) ∧
      ∀ b, b < 256 → (∀ j, j < 256 → (crosses s box.val j = true ↔ j = b)) →
        fld t F.MBX_CNT_CROSS = min (fld s F.MBX_CNT_CROSS + 1) (2 ^ F.MBX_CNT_CROSS.width - 1) ∧ fclLatched t 19 = true := by
  have mbx : (crossRise box.val [] (marked box.val s)).mbx = (modMbx box.val late s).mbx := by rw [crossRise_mbx, marked_mbx]
  refine ⟨_, exec_mailboxTimeout_late full unmarked due, fun j other => ?_, ?_, ?_, fun no_pair => ?_, fun b hb pair => ?_⟩
  · rw [mbxOf_congr mbx, mbxOf_modMbx_ne _ _ other]
  · rw [mbxOf_congr mbx, mbxOf_modMbx_same]
  · rw [fld_crossRise rfl rfl (by decide), fld_marked]
  · have uncrossed : crossWith (marked box.val s) box.val = [] := by
      rw [crossWith_marked, List.filter_eq_nil_iff]
      exact fun b hb => by simp [no_pair b (List.mem_range.mp hb)]
    rw [crossRise_none uncrossed]
    exact ⟨fld_marked_cross .., marked_pends⟩
  · have crossed : crossWith (marked box.val s) box.val = [b] := by rw [crossWith_marked, filter_range_unique hb pair]
    rw [crossRise_single crossed, pairRise_counts, fld_marked_cross]
    exact ⟨rfl, pairRise_latches _ _ (marked_baseUp base)⟩

/-! ### The statement -/

theorem mem_semsOf {req j : Nat} {s : State} (hj : j < 256) : j ∈ semsOf req s ↔ ((semOf s j).owner == some req) = true := by
  rw [semsOf, List.mem_filter, List.mem_range]
  exact and_iff_right hj

/-- Settles O32: each clause is the lemma on its command. -/
theorem mailboxesAndSemaphoresSignal : Obligations.MailboxesAndSemaphoresSignal := by
  unfold Obligations.MailboxesAndSemaphoresSignal
  intro req box sem payload tag a s
  dsimp only
  intro base
  refine ⟨mailboxWrite_disabled payload tag base, fun enabled => ?_, mailboxRead_reads base, fun full unmarked due =>
    mailboxTimeout_marks base full unmarked (of_decide_eq_true due), fun early => mailboxTimeout_early (early.imp_right
    (Or.imp_right of_decide_eq_false)), fun free => ⟨_, semLockRead_acquires base free, tabGet_answer .., ?_, ?_⟩,
    fun o held => ⟨_, semLockRead_waits base held, tabGet_answer .., ?_, ?_, semLockRead_counts ..⟩,
    semRelease_frees base, semRelease_refused base, fun accepted => ?_⟩
  · obtain ⟨t, runs, wrote, core, needle⟩ := mailboxWrite_writes (req := req) payload tag base enabled
    obtain ⟨others, posted, low, high, tagged, counted⟩ := wrote
    have small : payload.toNat / 2 ^ 32 % 2 ^ 32 = payload.toNat / 2 ^ 32 :=
      Nat.mod_eq_of_lt (Nat.div_lt_of_lt_mul payload.isLt)
    refine ⟨t, runs, others, posted, low, high.trans small, tagged.trans (Nat.mod_eq_of_lt tag.isLt), counted,
      fun _ => core, fun _ rcv powered => ?_⟩
    rw [← skMessage_eq]
    exact needle rcv powered
  · rw [semOf_answer, semOf_modSem_same, semOf_served, ownedBy]
  · exact fun j other => by rw [semOf_answer, semOf_modSem_ne _ _ other, semOf_served]
  · rw [semOf_answer, semOf_bump, semOf_modSem_same, semOf_served, wanted]
  · exact fun j other => by rw [semOf_answer, semOf_bump, semOf_modSem_ne _ _ other, semOf_served]
  · obtain ⟨t, runs, counted, frees⟩ := semRevoke_frees accepted
    exact ⟨t, runs, counted, fun j hj => by simp only [frees, mem_semsOf hj]⟩

end Sys2Proof.Machine

/-! States that meet the hypotheses of O32. -/

namespace Sys2Proof.Machine

/-- The skein of needles 8 to 15 and the interrupt controller are powered. Mailbox 3 of core 2 and mailbox 4 of core 1 hold
unread messages that each sent the other, the second of them late; mailbox 5 of needle 9 is empty, and mailbox 6 is disabled.
Requester 130 holds semaphores 5 and 7, the first of which is wanted, and the unlock of their frame. -/
def mailState : State :=
  { standbyState with
    now := 2000000
    pwr := { standbyState.pwr with up := BitVec.ofNat 214 (2 ^ 213 + 2 ^ 129) }
    mbx := [(3, ⟨true, 130, 0, true, false, false, 129, 1000, none⟩), (4, ⟨true, 129, 0, true, false, true, 130, 500, none⟩),
      (5, ⟨true, 9, 17, false, false, false, 0, 0, none⟩)]
    sem := [(5, ⟨some 130, true⟩), (6, ⟨some 128, false⟩), (7, ⟨some 130, false⟩)]
    bus := { Bus.reset with keys := [(blkFrame .sem 0, { KeyGuard.reset with ends := 2000256, owner := 130 })] } }

/-- A disabled mailbox takes no message. -/
theorem mailState_ignores : Answers (.mailboxWrite 131 6 0x100000002 3) mailState fun t => t.mbx = mailState.mbx := by
  obtain ⟨disabled, -⟩ := mailboxesAndSemaphoresSignal 131 6 0 0x100000002 3 ⟨131, .normal, 0⟩ mailState rfl
  obtain ⟨t, runs, same, -⟩ := disabled rfl
  exact ⟨t, runs, same⟩

/-- An unread message is replaced, and the core's source is raised. -/
theorem mailState_replaces : Answers (.mailboxWrite 131 3 0x100000002 3) mailState fun t =>
    mbxOf t 3 = ⟨true, 130, 0, true, true, false, 131, 1000, none⟩ ∧ rword t .MBX_MSG 0 3 0 = 2 ∧
    rword t .MBX_MSG 0 3 1 = 1 ∧ fld t F.MBX_CNT_COLL = 1 ∧ (srcOf t 723).pend = true := by
  obtain ⟨-, enabled, -⟩ := mailboxesAndSemaphoresSignal 131 3 0 0x100000002 3 ⟨131, .normal, 0⟩ mailState rfl
  obtain ⟨t, runs, -, posted, low, high, -, counted, core, -⟩ := enabled rfl
  exact ⟨t, runs, posted, low, high, counted.trans (by decide), core rfl 2 (by decide) rfl (by decide)⟩

/-- A needle finds the message and its tag in skein memory. -/
theorem mailState_notifies : Answers (.mailboxWrite 131 5 0x100000002 3) mailState fun t =>
    bitAt (ndlOf t 9).ipend 1 = true ∧ tabGet 0 t.mem.skm (skmKey 1 17) = 0x030000000100000002 := by
  obtain ⟨-, enabled, -⟩ := mailboxesAndSemaphoresSignal 131 5 0 0x100000002 3 ⟨131, .normal, 0⟩ mailState rfl
  obtain ⟨t, runs, -, -, -, -, -, -, -, needle⟩ := enabled rfl
  obtain ⟨pending, copied⟩ := needle rfl (by decide) (by decide)
  exact ⟨t, runs, pending, copied.trans (by decide)⟩

/-- The receiver's read empties its mailbox, and leaves another. -/
theorem mailState_reads : Answers (.mailboxRead 129 4) mailState fun t =>
    mbxOf t 4 = ⟨true, 129, 0, false, false, false, 130, 500, none⟩ ∧ mbxOf t 3 = mbxOf mailState 3 := by
  obtain ⟨-, -, read, -⟩ := mailboxesAndSemaphoresSignal 129 4 0 0 0 ⟨129, .normal, 0⟩ mailState rfl
  obtain ⟨t, runs, -, -, others, taken, -⟩ := read
  exact ⟨t, runs, taken rfl (by decide) rfl, others 3 (by decide)⟩

/-- The message that becomes late crosses the other, which is counted and reported. -/
theorem mailState_crosses : Answers (.mailboxTimeout 3) mailState fun t =>
    (mbxOf t 3).tmo = true ∧ fld t F.MBX_CNT_TMO = 1 ∧ fld t F.MBX_CNT_CROSS = 1 ∧ fclLatched t 19 = true := by
  obtain ⟨-, -, -, late, -⟩ := mailboxesAndSemaphoresSignal 129 3 0 0 0 ⟨129, .normal, 0⟩ mailState rfl
  obtain ⟨t, runs, -, marked, counted, -, pair⟩ := late rfl rfl (by decide)
  obtain ⟨crossed, latched⟩ := pair 4 (by decide) (by decide +kernel)
  exact ⟨t, runs, congrArg Mbx.tmo marked, counted.trans (by decide), crossed.trans (by decide), latched⟩

/-- The owner's write of 0 frees a semaphore that is wanted. -/
theorem mailState_releases : Answers (.semRelease 130 5) mailState fun t =>
    semOf t 5 = .reset ∧ semOf t 7 = ⟨some 130, false⟩ ∧ (srcOf t 730).pend = true := by
  obtain ⟨-, -, -, -, -, -, -, owner, -⟩ := mailboxesAndSemaphoresSignal 130 0 5 0 0 ⟨130, .normal, 0⟩ mailState rfl
  obtain ⟨t, runs, freed, others, signals⟩ := owner rfl
  exact ⟨t, runs, freed, others 7 (by decide), signals rfl (by decide)⟩

/-- A stranger's write of 0 is ignored. -/
theorem mailState_keeps : Answers (.semRelease 129 5) mailState fun t =>
    t.sem = mailState.sem ∧ fld t F.SEM_CNT_BADREL = 1 := by
  obtain ⟨-, -, -, -, -, -, -, -, stranger, -⟩ := mailboxesAndSemaphoresSignal 129 0 5 0 0 ⟨129, .normal, 0⟩ mailState rfl
  obtain ⟨t, runs, same, counted⟩ := stranger (by decide)
  exact ⟨t, runs, same, counted.trans (by decide)⟩

/-- A revocation frees the two semaphores of its requester and leaves the third. -/
theorem mailState_revokes : Answers (.semRevoke ⟨130, .normal, 130⟩) mailState fun t =>
    fld t F.SEM_REVOKE_DONE = 2 ∧ semOf t 7 = .reset ∧ semOf t 6 = ⟨some 128, false⟩ := by
  obtain ⟨-, -, -, -, -, -, -, -, -, revoke⟩ := mailboxesAndSemaphoresSignal 130 0 5 0 0 ⟨130, .normal, 130⟩ mailState rfl
  have requester : valOf (commitVals mailState .SEM_REVOKE 0 0 ⟨130, .normal, 130⟩) F.SEM_REVOKE_RID = 130 := by decide
  rw [requester] at revoke
  obtain ⟨t, runs, counted, frees⟩ := revoke (by decide)
  exact ⟨t, runs, counted.trans (by decide +kernel), frees 7 (by decide), frees 6 (by decide)⟩

end Sys2Proof.Machine

/-! Interrupt events, claims and completions: what settling the lines, an arrival and a claim leave (spec/17 R674-R682). -/

namespace Sys2Proof.Machine

/-! ### Tables of the controller -/

theorem groupOf_modGroup_same (g : Nat) (f : IctGroup → IctGroup) (s : State) :
    groupOf (modGroup g f s) g = f (groupOf s g) := tabGet_tabMod_same IctGroup.reset s.ict.groups g f

theorem groupOf_modGroup_ne {g h : Nat} (f : IctGroup → IctGroup) (s : State) (other : h ≠ g) :
    groupOf (modGroup g f s) h = groupOf s h := tabGet_tabMod_ne IctGroup.reset f other

theorem ctxOf_modCtx_same (c : Nat) (f : IctCtx → IctCtx) (s : State) : ctxOf (modCtx c f s) c = f (ctxOf s c) :=
  tabGet_tabMod_same IctCtx.reset s.ict.ctxs c f

theorem ctxOf_modCtx_ne {c d : Nat} (f : IctCtx → IctCtx) (s : State) (other : d ≠ c) :
    ctxOf (modCtx c f s) d = ctxOf s d := tabGet_tabMod_ne IctCtx.reset f other

theorem srcOf_congr {s t : State} (h : t.ict.srcs = s.ict.srcs) (n : Nat) : srcOf t n = srcOf s n := by rw [srcOf, h, srcOf]

theorem groupOf_congr {s t : State} (h : t.ict.groups = s.ict.groups) (g : Nat) : groupOf t g = groupOf s g := by
  rw [groupOf, h, groupOf]

/-! ### The lines are settled (R679, R688) -/

/-- Of the controller only lines and the marks of stranded sources differ. -/
structure LinesOnly (s t : State) : Prop where
  srcs : ∀ n, srcOf t n = { srcOf s n with stranded := (srcOf t n).stranded }
  groups : t.ict.groups = s.ict.groups
  ctxs : ∀ c, ctxOf t c = { ctxOf s c with lineFrom := (ctxOf t c).lineFrom }

theorem LinesOnly.of_ict {s t : State} (h : t.ict = s.ict) : LinesOnly s t := by
  refine ⟨fun n => ?_, by rw [h], fun c => ?_⟩
  · rw [srcOf, h, srcOf]
  · rw [ctxOf, h, ctxOf]

theorem LinesOnly.refl (s : State) : LinesOnly s s := .of_ict rfl

theorem LinesOnly.trans {s t u : State} (h : LinesOnly s t) (g : LinesOnly t u) : LinesOnly s u := by
  refine ⟨fun n => ?_, g.groups.trans h.groups, fun c => ?_⟩
  · rw [g.srcs n, h.srcs n]
  · rw [g.ctxs c, h.ctxs c]

theorem LinesOnly.forEach {α : Type} {l : List α} {f : α → State → State} (s : State) (hf : ∀ a u, LinesOnly u (f a u)) :
    LinesOnly s (forEach l f s) := by
  induction l generalizing s with
  | nil => exact .refl s
  | cons a l ih => exact (hf a s).trans (ih (f a s))

theorem LinesOnly.pend {s t : State} (h : LinesOnly s t) (n : Nat) : (srcOf t n).pend = (srcOf s n).pend := by rw [h.srcs n]

theorem LinesOnly.arrived {s t : State} (h : LinesOnly s t) (n : Nat) : (srcOf t n).arrived = (srcOf s n).arrived := by
  rw [h.srcs n]

theorem LinesOnly.claims {s t : State} (h : LinesOnly s t) (c : Nat) : (ctxOf t c).claims = (ctxOf s c).claims := by
  rw [h.ctxs c]

theorem LinesOnly.thr {s t : State} (h : LinesOnly s t) (c : Nat) : (ctxOf t c).thr = (ctxOf s c).thr := by rw [h.ctxs c]

theorem LinesOnly.restores {s t : State} (h : LinesOnly s t) (c : Nat) : (ctxOf t c).restores = (ctxOf s c).restores := by
  rw [h.ctxs c]

theorem modCtx_linesOnly (c : Nat) (line : IctCtx → Option Nat) (s : State) :
    LinesOnly s (modCtx c (fun x => { x with lineFrom := line x }) s) := by
  refine ⟨fun n => rfl, rfl, fun d => ?_⟩
  by_cases same : d = c
  · rw [same, ctxOf_modCtx_same]
  · rw [ctxOf_modCtx_ne _ _ same]

theorem modSrc_linesOnly (n : Nat) (b : Bool) (s : State) : LinesOnly s (modSrc n (fun x => { x with stranded := b }) s) := by
  refine ⟨fun m => ?_, rfl, fun c => rfl⟩
  rw [srcOf_modSrc]
  split
  · next same => rw [same]
  · rfl

theorem settleCtx_linesOnly (delay c : Nat) (s : State) : LinesOnly s (settleCtx delay c s) := by
  unfold settleCtx
  dsimp only
  generalize hu : modCtx c _ s = u
  have line : LinesOnly s u := by
    rw [← hu]
    exact modCtx_linesOnly c _ s
  refine line.trans ?_
  split
  · refine .forEach _ fun n u => ?_
    split
    · refine .trans (.of_ict ?_) (modSrc_linesOnly n false _)
      rw [setFld_ict _ _ _ _ _, bump_ict _ _ _ _ _]
    · exact .refl u
  · exact .refl _

theorem ictSettle_linesOnly (s : State) : LinesOnly s (ictSettle s) := .forEach s fun c u => settleCtx_linesOnly 2 c u

/-! ### An event arrives (R674, R677) -/

/-- No core that a source targets sleeps. -/
def Awake (s : State) : Prop := ∀ m, domUp s (192 + (srcOf s m).core) = true

theorem groupWakes_awake {s : State} (awake : Awake s) (g : Nat) : groupWakes s g = [] := by
  rw [groupWakes, List.map_eq_nil_iff, List.filter_eq_nil_iff]
  intro m _
  simp [awake m]

/-- The group of a source. -/
def srcGroup (s : State) (src : Nat) : Nat := (srcOf s src).group

/-- A source's group as an event leaves it, with the hold-off and the count in force. -/
def groupNext (src : Nat) (s : State) : IctGroup :=
  groupArrive (groupOf s (srcGroup s src)) (fld s F.ICT_GRP_HOLD 0 (srcGroup s src))
    (fld s F.ICT_GRP_COUNT 0 (srcGroup s src)) s.now

/-- The source and its group as an event leaves them. -/
def arrivedAt (src : Nat) (s : State) : State :=
  modGroup (srcGroup s src) (fun _ => groupNext src s) (modSrc src (arrivedSrc src s) s)

theorem srcOf_arrivedAt (src : Nat) (s : State) (m : Nat) :
    srcOf (arrivedAt src s) m = if m = src then arrivedSrc src s (srcOf s src) else srcOf s m :=
  srcOf_modSrc src m (arrivedSrc src s) s

theorem arrived_awake {src : Nat} {s : State} (awake : Awake s) (g : Nat) (f : IctGroup → IctGroup) :
    Awake (modGroup g f (modSrc src (arrivedSrc src s) s)) := fun m => by
  have source : srcOf (modGroup g f (modSrc src (arrivedSrc src s) s)) m =
      if m = src then arrivedSrc src s (srcOf s src) else srcOf s m := srcOf_modSrc src m (arrivedSrc src s) s
  rw [source]
  split
  · exact awake src
  · exact awake m

/-- While no core sleeps, an event of a source that is not pending changes that source and its group, and wakes no core. -/
theorem srcArrive_awake {src : Nat} {s : State} (powered : domUp s 213 = true) (idle : (srcOf s src).pend = false)
    (awake : Awake s) : srcArrive src s = (arrivedAt src s, []) := by
  have group : (srcOf (modSrc src (arrivedSrc src s) s) src).group = srcGroup s src := by
      rw [srcOf_modSrc, if_pos rfl]
      rfl
  have arrives : srcArrive src s = (
      let u := modSrc src (arrivedSrc src s) s
      let g := (srcOf u src).group
      let y := groupArrive (groupOf u g) (fld u F.ICT_GRP_HOLD 0 g) (fld u F.ICT_GRP_COUNT 0 g) u.now
      let v := modGroup g (fun _ => y) u
      (v, if decide ((groupOf u g).st ≠ .open) && decide (y.st = .open) then groupWakes v g else [])) := by
    unfold srcArrive
    rw [if_neg (by rw [powered]; simp), if_neg (by rw [idle]; decide)]
    rfl
  dsimp only at arrives
  rw [group] at arrives
  rw [groupWakes_awake (arrived_awake awake _ _), ite_self] at arrives
  exact arrives

theorem raise_awake {src : Nat} {s : State} (powered : domUp s 213 = true) (idle : (srcOf s src).pend = false)
    (awake : Awake s) : raise src s = ictSettle (arrivedAt src s) := by
  rw [raise, srcArrive_awake powered idle awake]
  rfl

/-- An event of a pending source only settles the lines. -/
theorem raise_again {src : Nat} {s : State} (pending : (srcOf s src).pend = true) : raise src s = ictSettle s := by
  have kept : srcArrive src s = (s, []) := by
    unfold srcArrive
    rw [if_pos pending, ite_self]
  rw [raise, kept]
  rfl

theorem exec_interruptArrival {src : Fin 1024} (s : State) (known : srcExists src.val = true) :
    exec (.interruptArrival src) s = .next (raise src.val s) := by
  show execInterruptArrival src s = _
  rw [execInterruptArrival, if_pos known]

/-! ### A group at an arrival (R677) -/

section
variable {x : IctGroup} {hold limit now : Nat}

theorem groupArrive_opens (idle : x.st = .idle) (at_once : hold = 0 ∨ limit = 1) :
    groupArrive x hold limit now = ⟨.open, 1, hold, limit, now⟩ := by
  unfold groupArrive
  rw [idle]
  refine if_pos ?_
  rcases at_once with rfl | rfl
  · rfl
  · simp

theorem groupArrive_holds (idle : x.st = .idle) (held : hold ≠ 0) (more : limit ≠ 1) :
    groupArrive x hold limit now = ⟨.held, 1, hold, limit, now⟩ := by
  unfold groupArrive
  rw [idle]
  refine if_neg ?_
  simp only [Bool.or_eq_true, Bool.and_eq_true, decide_eq_true_eq]
  omega

theorem groupArrive_counts (held : x.st = .held) (more : x.limit = 0 ∨ x.count + 1 < x.limit) :
    groupArrive x hold limit now = { x with count := x.count + 1 } := by
  unfold groupArrive
  rw [held]
  refine if_neg ?_
  simp only [Bool.and_eq_true, decide_eq_true_eq]
  omega

theorem groupArrive_reaches (held : x.st = .held) (counted : x.limit ≠ 0) (reached : x.limit ≤ x.count + 1) :
    groupArrive x hold limit now = { x with st := .open, count := x.count + 1 } := by
  unfold groupArrive
  rw [held]
  exact if_pos (by simp [counted, reached])

theorem groupArrive_stays (opened : x.st = .open) : groupArrive x hold limit now = x := by
  unfold groupArrive
  rw [opened]

end

/-! ### Claims (R680) -/

theorem foldl_max_bounded {α : Type} (f : α → Nat) {l : List α} {top : Nat} (bound : ∀ v ∈ l, f v ≤ top) :
    l.foldl (fun m n => max m (f n)) top = top := by
  induction l with
  | nil => rfl
  | cons a l ih =>
    rw [List.foldl_cons, Nat.max_eq_left (bound a List.mem_cons_self)]
    exact ih fun v hv => bound v (List.mem_cons_of_mem a hv)

/-- The greatest value is that of an element which no other exceeds. -/
theorem foldl_max_eq {α : Type} (f : α → Nat) {l : List α} {w : α} (mem : w ∈ l) (greatest : ∀ v ∈ l, f v ≤ f w) {m : Nat}
    (start : m ≤ f w) : l.foldl (fun m n => max m (f n)) m = f w := by
  induction l generalizing m with
  | nil => cases mem
  | cons a l ih =>
    have rest : ∀ v ∈ l, f v ≤ f w := fun v hv => greatest v (List.mem_cons_of_mem a hv)
    rw [List.foldl_cons]
    rcases List.mem_cons.mp mem with rfl | later
    · rw [Nat.max_eq_right start, foldl_max_bounded f rest]
    · exact ih later rest (Nat.max_le.mpr ⟨start, greatest a List.mem_cons_self⟩)

/-- What a context's claim may choose. -/
def claims (s : State) (c : Nat) : List Nat :=
  (List.range 1024).filter fun n => decide ((srcOf s n).core = c) && deliverable s n

theorem mem_claims {s : State} {c n : Nat} (mem : n ∈ claims s c) : (srcOf s n).core = c ∧ deliverable s n = true := by
  have chosen := (List.mem_filter.mp mem).2
  rwa [Bool.and_eq_true, decide_eq_true_eq] at chosen

theorem claimable_eq (s : State) (c : Nat) : claimable s c =
    (claims s c).find? fun n => (srcOf s n).pri == (claims s c).foldl (fun m n => max m (srcOf s n).pri) 0 := rfl

/-- The deliverable source of the highest priority is claimed, the lowest number among equals. -/
theorem claimable_highest {s : State} {c w : Nat} (hw : w < 1024) (ready : deliverable s w = true)
    (core : (srcOf s w).core = c) (highest : ∀ v, deliverable s v = true → (srcOf s v).core = c →
      (srcOf s v).pri ≤ (srcOf s w).pri ∧ ((srcOf s v).pri = (srcOf s w).pri → w ≤ v)) : claimable s c = some w := by
  have mem : w ∈ claims s c := List.mem_filter.mpr ⟨List.mem_range.mpr hw, by rw [core, ready]; simp⟩
  have top : (claims s c).foldl (fun m n => max m (srcOf s n).pri) 0 = (srcOf s w).pri :=
    foldl_max_eq (fun n => (srcOf s n).pri) mem (fun v hv => (highest v (mem_claims hv).2 (mem_claims hv).1).1) (Nat.zero_le _)
  rw [claimable_eq, top, claims, List.find?_filter, List.find?_range_eq_some]
  refine ⟨by simp [core, ready], List.mem_range.mpr hw, fun j below => ?_⟩
  rw [Bool.not_eq_true', Bool.eq_false_iff]
  intro chosen
  simp only [Bool.and_eq_true, decide_eq_true_eq, beq_iff_eq] at chosen
  obtain ⟨⟨core_j, ready_j⟩, equal⟩ := chosen
  exact absurd ((highest j ready_j core_j).2 equal) (Nat.not_le.mpr below)

theorem claimable_none {s : State} {c : Nat} (nothing : ∀ v, deliverable s v = true → (srcOf s v).core ≠ c) :
    claimable s c = none := by
  have empty : claims s c = [] := by
    rw [claims, List.filter_eq_nil_iff]
    intro v _ chosen
    rw [Bool.and_eq_true, decide_eq_true_eq] at chosen
    exact nothing v chosen.2 chosen.1
  rw [claimable_eq, empty]
  rfl

/-- A source that has been takenSrc. -/
def takenSrc (x : IctSrc) : IctSrc := { x with pend := false, stranded := false }

/-- A context that has claimed a source: the threshold in force is pushed, and the source's priority takes its place. -/
def pushed (n pri : Nat) (x : IctCtx) : IctCtx := { x with claims := (n, x.thr) :: x.claims, thr := some pri }

theorem groupSettle_srcs (g : Nat) (s : State) : (groupSettle g s).ict.srcs = s.ict.srcs := by
  unfold groupSettle
  split <;> rfl

theorem groupSettle_ctxs (g : Nat) (s : State) : (groupSettle g s).ict.ctxs = s.ict.ctxs := by
  unfold groupSettle
  split <;> rfl

/-- Without a popped threshold there is nothing to restore. -/
theorem ctxOf_restoreDue_none {c : Nat} (now : Nat) (all : Bool) {s : State} (settled : (ctxOf s c).restores = []) :
    ctxOf (restoreDue c now all s) c = ctxOf s c := by
  rw [restoreDue, ctxOf_modCtx_same]
  dsimp only
  rw [settled]
  exact congrArg (fun r => { ctxOf s c with restores := r }) settled.symm

/-- The one popped threshold that is due takes effect. -/
theorem ctxOf_restoreDue_due {c at_ now : Nat} {th : Option Nat} {s : State} (popped : (ctxOf s c).restores = [(at_, th)])
    (due : at_ ≤ now) : ctxOf (restoreDue c now false s) c = { ctxOf s c with thr := th, restores := [] } := by
  rw [restoreDue, ctxOf_modCtx_same]
  dsimp only
  rw [popped]
  simp [due]

/-- The state that a claim leaves before the lines are settled. -/
def claimPushed (c n : Nat) (s : State) : State :=
  modCtx c (pushed n (srcOf s n).pri)
    (restoreDue c (groupSettle (srcOf s n).group (modSrc n takenSrc s)).now true
      (groupSettle (srcOf s n).group (modSrc n takenSrc s)))

theorem claimSrc_eq (c n : Nat) (s : State) : claimSrc c n s = ictSettle (claimPushed c n s) := rfl

theorem srcOf_claimPushed (c n : Nat) (s : State) (m : Nat) :
    srcOf (claimPushed c n s) m = if m = n then takenSrc (srcOf s n) else srcOf s m := by
  have table : (claimPushed c n s).ict.srcs = (modSrc n takenSrc s).ict.srcs :=
    groupSettle_srcs (srcOf s n).group (modSrc n takenSrc s)
  rw [srcOf_congr table, srcOf_modSrc]

theorem ctxOf_claimPushed {c : Nat} (n : Nat) {s : State} (settled : (ctxOf s c).restores = []) :
    ctxOf (claimPushed c n s) c = pushed n (srcOf s n).pri (ctxOf s c) := by
  have same : ctxOf (groupSettle (srcOf s n).group (modSrc n takenSrc s)) c = ctxOf s c := by
    rw [ctxOf, groupSettle_ctxs]
    rfl
  rw [claimPushed, ctxOf_modCtx_same, ctxOf_restoreDue_none _ _ (by rw [same, settled]), same]

end Sys2Proof.Machine

/-! O31: events arrive, groups open, sources are claimed and completed, thresholds return, and software raises SWI sources
(spec/17 R674-R683). -/

namespace Sys2Proof.Machine

/-! ### Arrivals (R674, R677) -/

/-- The pending bits of a state. -/
def Pends (t : State) (p : Nat → Bool) : Prop := ∀ m, (srcOf t m).pend = p m

theorem LinesOnly.pends {s t : State} (h : LinesOnly s t) {p : Nat → Bool} (pends : Pends s p) : Pends t p := fun m =>
  (h.pend m).trans (pends m)

theorem arrivedAt_pends (src : Nat) (s : State) : Pends (arrivedAt src s) fun m => m == src || (srcOf s m).pend := fun m => by
  rw [srcOf_arrivedAt]
  by_cases same : m = src
  · rw [if_pos same, same]
    simp [arrivedSrc]
  · rw [if_neg same]
    simp [same]

/-- An event makes its source pending and changes its group alone. -/
theorem interruptArrival_arrives {src : Fin 1024} {s : State} (powered : domUp s 213 = true) (awake : Awake s)
    (known : srcExists src.val = true) (idle : (srcOf s src.val).pend = false) {y : IctGroup}
    (next : groupNext src.val s = y) : Answers (.interruptArrival src) s fun t =>
      Pends t (fun m => m == src.val || (srcOf s m).pend) ∧ (srcOf t src.val).arrived = s.now ∧
      groupOf t (srcOf s src.val).group = y ∧ ∀ g, g ≠ (srcOf s src.val).group → groupOf t g = groupOf s g := by
  have lines := ictSettle_linesOnly (arrivedAt src.val s)
  refine ⟨_, (exec_interruptArrival s known).trans (congrArg Host.Outcome.next (raise_awake powered idle awake)),
    lines.pends (arrivedAt_pends src.val s), ?_, ?_, fun g other => ?_⟩
  · rw [lines.arrived, srcOf_arrivedAt, if_pos rfl]
    rfl
  · rw [groupOf_congr lines.groups, ← next]
    exact groupOf_modGroup_same ..
  · rw [groupOf_congr lines.groups]
    exact groupOf_modGroup_ne _ _ other

theorem interruptArrival_again {src : Fin 1024} {s : State} (known : srcExists src.val = true)
    (pending : (srcOf s src.val).pend = true) : Answers (.interruptArrival src) s fun t =>
      Pends t (fun m => (srcOf s m).pend) ∧ t.ict.groups = s.ict.groups := by
  have lines := ictSettle_linesOnly s
  exact ⟨_, (exec_interruptArrival s known).trans (congrArg Host.Outcome.next (raise_again pending)), lines.pend, lines.groups⟩

/-! ### A hold-off ends (R677) -/

/-- A group that opens. -/
def opened (x : IctGroup) : IctGroup := { x with st := .open }

theorem openGroup_awake {g : Nat} {s : State} (awake : Awake s) : openGroup g s = ictSettle (modGroup g opened s) := by
  have asleep : groupWakes (modGroup g opened s) g = [] := groupWakes_awake awake g
  show ictSettle (doWakes (groupWakes (modGroup g opened s) g) (modGroup g opened s)) = _
  rw [asleep]
  rfl

theorem groupHoldExpire_opens {group : Fin 64} {s : State} (awake : Awake s) (held : (groupOf s group.val).st = .held)
    (due : (groupOf s group.val).heldAt + (groupOf s group.val).hold * 1000 ≤ s.now) :
    Answers (.groupHoldExpire group) s fun t =>
      groupOf t group.val = opened (groupOf s group.val) ∧ Pends t (fun m => (srcOf s m).pend) := by
  have lines := ictSettle_linesOnly (modGroup group.val opened s)
  have runs : exec (.groupHoldExpire group) s = .next (ictSettle (modGroup group.val opened s)) := by
    rw [← openGroup_awake awake]
    show execGroupHoldExpire group s = _
    unfold execGroupHoldExpire
    dsimp only
    rw [held]
    exact if_pos (by simp [due])
  refine ⟨_, runs, ?_, lines.pend⟩
  rw [groupOf_congr lines.groups, groupOf_modGroup_same]

/-! ### Claims (R680, R683) -/

theorem exec_ictClaim {req : Req} {ctx : Fin 8} {s : State} (base : baseUp s = true) (powered : domUp s 213 = true) :
    exec (.ictClaim req ctx) s = .next (claimServe req.val ctx.val (served (blkFrame .ict 0) req.val s)) := by
  have up : frameUp .ICT_CTX_CLAIM 0 s = true := by
    rw [frameUp, base]
    exact powered
  exact congrArg Host.Outcome.next (readServed_powered (r := .ICT_CTX_CLAIM) (fr := 0) _ req _ up)

theorem srcOf_served (f req : Nat) (s : State) (n : Nat) : srcOf (served f req s) n = srcOf s n := rfl

theorem ctxOf_served (f req : Nat) (s : State) (c : Nat) : ctxOf (served f req s) c = ctxOf s c := rfl

theorem claimServe_claims {req c w : Nat} {s : State} (own : req = 128 + c) (found : claimable s c = some w) :
    claimServe req c s = answer req w (claimSrc c w s) := by
  rw [claimServe, if_neg (not_not.mpr own), found]

theorem claimServe_refuses {req c : Nat} {s : State} (refused : claimable s c = none ∨ req ≠ 128 + c) :
    claimServe req c s = answer req 0 s := by
  unfold claimServe
  split
  · rfl
  · next own =>
    rw [refused.resolve_right own]

theorem claimPushed_pends (c w : Nat) (s : State) : Pends (claimPushed c w s) fun m => m != w && (srcOf s m).pend := fun m => by
  rw [srcOf_claimPushed]
  by_cases same : m = w
  · rw [if_pos same, same]
    simp [takenSrc]
  · rw [if_neg same]
    simp [same]

theorem ictClaim_claims {req : Req} {ctx : Fin 8} {s : State} (base : baseUp s = true) (powered : domUp s 213 = true)
    (own : req.val = 128 + ctx.val) (settled : (ctxOf s ctx.val).restores = []) {w : Nat} (hw : w < 1024)
    (ready : deliverable s w = true) (core : (srcOf s w).core = ctx.val)
    (highest : ∀ v, deliverable s v = true → (srcOf s v).core = ctx.val →
      (srcOf s v).pri ≤ (srcOf s w).pri ∧ ((srcOf s v).pri = (srcOf s w).pri → w ≤ v)) :
    Answers (.ictClaim req ctx) s fun t =>
      tabGet 0 t.bus.answers req = w ∧ Pends t (fun m => m != w && (srcOf s m).pend) ∧
      (ctxOf t ctx.val).claims = (w, (ctxOf s ctx.val).thr) :: (ctxOf s ctx.val).claims ∧
      (ctxOf t ctx.val).thr = some (srcOf s w).pri := by
  generalize hu : served (blkFrame .ict 0) req.val s = u
  have same (n : Nat) : srcOf u n = srcOf s n := by rw [← hu, srcOf_served]
  have context : ctxOf u ctx.val = ctxOf s ctx.val := by rw [← hu, ctxOf_served]
  have found : claimable u ctx.val = some w := by
    rw [← hu]
    exact claimable_highest hw ready core highest
  have runs : exec (.ictClaim req ctx) s = .next (answer req.val w (ictSettle (claimPushed ctx.val w u))) := by
    rw [exec_ictClaim base powered, hu, claimServe_claims own found, claimSrc_eq]
  have lines := ictSettle_linesOnly (claimPushed ctx.val w u)
  have left := ctxOf_claimPushed w (show (ctxOf u ctx.val).restores = [] by rw [context, settled])
  rw [context, same] at left
  refine ⟨_, runs, tabGet_answer .., fun m => ?_, ?_, ?_⟩
  · beta_reduce
    rw [← same m]
    exact lines.pends (claimPushed_pends ctx.val w u) m
  · exact (lines.claims ctx.val).trans (by rw [left, pushed])
  · exact (lines.thr ctx.val).trans (by rw [left, pushed])

theorem ictClaim_refuses {req : Req} {ctx : Fin 8} {s : State} (base : baseUp s = true) (powered : domUp s 213 = true)
    (refused : (∀ v, deliverable s v = true → (srcOf s v).core ≠ ctx.val) ∨ req.val ≠ 128 + ctx.val) :
    Answers (.ictClaim req ctx) s fun t => tabGet 0 t.bus.answers req = 0 ∧ t.ict = s.ict := by
  have refuses : claimServe req.val ctx.val (served (blkFrame .ict 0) req.val s) =
      answer req.val 0 (served (blkFrame .ict 0) req.val s) :=
    claimServe_refuses (refused.imp_left claimable_none)
  exact ⟨_, (exec_ictClaim base powered).trans (congrArg Host.Outcome.next refuses), tabGet_answer .., rfl⟩

/-! ### Completions (R682, R683) -/

/-- The write of a core that completes a source. -/
def completeAcc (req : Req) (done : BitVec 10) : Acc := ⟨req, .normal, BitVec.ofNat 32 done.toNat⟩

theorem completeAcc_names (req : Req) (c : Nat) (done : BitVec 10) (s : State) :
    valOf (commitVals s .ICT_CTX_COMPLETE 0 c (completeAcc req done)) F.ICT_CTX_COMPLETE_SRC = done.toNat := by
  have mask : rwMask .ICT_CTX_COMPLETE 0 0 ||| woMask .ICT_CTX_COMPLETE 0 = 2 ^ 10 - 1 := by decide
  have values : commitVals s .ICT_CTX_COMPLETE 0 c (completeAcc req done) =
      [(BitVec.ofNat 32 done.toNat).toNat &&& (rwMask .ICT_CTX_COMPLETE 0 0 ||| woMask .ICT_CTX_COMPLETE 0)] := rfl
  have small := done.isLt
  rw [values, mask, Nat.and_two_pow_sub_one_eq_mod, BitVec.toNat_ofNat]
  show done.toNat % 2 ^ 32 % 2 ^ 10 % 2 ^ 10 = done.toNat
  omega

/-- The counts of the controller stand beside the COMPLETE registers. -/
theorem badcomp_apart : ∀ ctx : Fin 8, regKey .ICT_CNT 0 0 0 ∉
    (List.range (regInfo .ICT_CTX_COMPLETE).words).map (regKey .ICT_CTX_COMPLETE 0 ctx.val) := by decide

section
variable {req : Req} {ctx : Fin 8} {done : BitVec 10} {s : State}

theorem completeSrc_pops {c n : Nat} {th : Option Nat} {rest : List (Nat × Option Nat)}
    (last : (ctxOf s c).claims = (n, th) :: rest) : completeSrc c n s =
      modCtx c (fun x => { x with claims := rest, restores := x.restores ++ [(s.now + 4, th)] }) s := by
  rw [completeSrc, last]
  exact if_pos rfl

theorem completeSrc_counts {c n : Nat} (other : ∀ th, (ctxOf s c).claims.head? ≠ some (n, th)) :
    completeSrc c n s = bump F.ICT_CNT_BADCOMP s := by
  unfold completeSrc
  split
  · next m th rest last =>
    refine if_neg fun same => other th ?_
    rw [last, same, List.head?_cons]
  · rfl

variable (accepted : accepts .ICT_CTX_COMPLETE 0 ctx.val (completeAcc req done) neverBusy anyOk s = true)
include accepted

theorem exec_ictComplete : exec (.ictComplete req ctx done) s = .next
    (if req.val = 128 + ctx.val then
      completeSrc ctx.val done.toNat (taken .ICT_CTX_COMPLETE 0 ctx.val (completeAcc req done) s)
    else taken .ICT_CTX_COMPLETE 0 ctx.val (completeAcc req done) s) := by
  have runs : exec (.ictComplete req ctx done) s = .next (completeEffect req.val ctx.val
      (commitVals s .ICT_CTX_COMPLETE 0 ctx.val (completeAcc req done))
      (taken .ICT_CTX_COMPLETE 0 ctx.val (completeAcc req done) s)) :=
    congrArg Host.Outcome.next (regCommit_taken accepted)
  rw [runs, completeEffect, completeAcc_names]

theorem ictComplete_ignores (stranger : req.val ≠ 128 + ctx.val) :
    Answers (.ictComplete req ctx done) s fun t => t.ict = s.ict := by
  refine ⟨_, exec_ictComplete accepted, ?_⟩
  beta_reduce
  rw [if_neg stranger, taken_ict]

theorem ictComplete_pops (own : req.val = 128 + ctx.val) {th : Option Nat} {rest : List (Nat × Option Nat)}
    (last : (ctxOf s ctx.val).claims = (done.toNat, th) :: rest) : Answers (.ictComplete req ctx done) s fun t =>
      ctxOf t ctx.val = { ctxOf s ctx.val with
        claims := rest, restores := (ctxOf s ctx.val).restores ++ [(s.now + 4, th)] } ∧ t.ict.srcs = s.ict.srcs := by
  have ict : (taken .ICT_CTX_COMPLETE 0 ctx.val (completeAcc req done) s).ict = s.ict := taken_ict ..
  have context : ctxOf (taken .ICT_CTX_COMPLETE 0 ctx.val (completeAcc req done) s) ctx.val = ctxOf s ctx.val := by
    rw [ctxOf, ict, ctxOf]
  refine ⟨_, exec_ictComplete accepted, ?_⟩
  beta_reduce
  rw [if_pos own, completeSrc_pops (by rw [context, last]), ctxOf_modCtx_same, context, taken_now]
  have srcs : (taken .ICT_CTX_COMPLETE 0 ctx.val (completeAcc req done) s).ict.srcs = s.ict.srcs := by rw [ict]
  exact ⟨rfl, srcs⟩

theorem ictComplete_counts (own : req.val = 128 + ctx.val)
    (other : ∀ th, (ctxOf s ctx.val).claims.head? ≠ some (done.toNat, th)) :
    Answers (.ictComplete req ctx done) s fun t => t.ict = s.ict ∧
      fld t F.ICT_CNT_BADCOMP = min (fld s F.ICT_CNT_BADCOMP + 1) (2 ^ F.ICT_CNT_BADCOMP.width - 1) := by
  have ict : (taken .ICT_CTX_COMPLETE 0 ctx.val (completeAcc req done) s).ict = s.ict := taken_ict ..
  have context : ctxOf (taken .ICT_CTX_COMPLETE 0 ctx.val (completeAcc req done) s) ctx.val = ctxOf s ctx.val := by
    rw [ctxOf, ict, ctxOf]
  have count : fld (taken .ICT_CTX_COMPLETE 0 ctx.val (completeAcc req done) s) F.ICT_CNT_BADCOMP = fld s F.ICT_CNT_BADCOMP :=
    (taken_regs rfl 0 ctx.val (completeAcc req done) s).fld (badcomp_apart ctx)
  refine ⟨_, exec_ictComplete accepted, ?_⟩
  beta_reduce
  rw [if_pos own, completeSrc_counts (by rw [context]; exact other), fld_bump _ _ _ _ _ (by decide), count]
  exact ⟨(bump_ict ..).trans ict, rfl⟩

end

/-! ### A threshold returns (R682) -/

theorem thresholdRestore_restores {ctx : Fin 8} {s : State} {due : Nat} {th : Option Nat}
    (popped : (ctxOf s ctx.val).restores = [(due, th)]) (passed : due ≤ s.now) :
    Answers (.thresholdRestore ctx) s fun t =>
      (ctxOf t ctx.val).thr = th ∧ (ctxOf t ctx.val).restores = [] ∧ Pends t (fun m => (srcOf s m).pend) := by
  have lines := settleCtx_linesOnly 0 ctx.val (restoreDue ctx.val s.now false s)
  refine ⟨_, rfl, ?_, ?_, lines.pend⟩
  · rw [lines.thr, ctxOf_restoreDue_due popped passed]
  · rw [lines.restores, ctxOf_restoreDue_due popped passed]

/-! ### Software interrupts (R676) -/

/-- The pending bits of the sources outside a set do not change. -/
def PendBut (ks : List Nat) (s t : State) : Prop := ∀ m, m ∉ ks → (srcOf t m).pend = (srcOf s m).pend

theorem PendBut.of_srcs {ks : List Nat} {s t : State} (h : t.ict.srcs = s.ict.srcs) : PendBut ks s t := fun m _ => by
  rw [srcOf_congr h]

theorem PendBut.refl (ks : List Nat) (s : State) : PendBut ks s s := .of_srcs rfl

theorem PendBut.trans {ks : List Nat} {s t u : State} (h : PendBut ks s t) (g : PendBut ks t u) : PendBut ks s u :=
  fun m out => (g m out).trans (h m out)

theorem PendBut.forEach {ks : List Nat} {α : Type} {l : List α} {f : α → State → State} (s : State)
    (hf : ∀ a ∈ l, ∀ u, PendBut ks u (f a u)) : PendBut ks s (forEach l f s) := by
  induction l generalizing s with
  | nil => exact .refl ks s
  | cons a l ih => exact (hf a List.mem_cons_self s).trans (ih _ fun b hb => hf b (List.mem_cons_of_mem a hb))

theorem srcArrive_pendBut {ks : List Nat} {src : Nat} (inside : src ∈ ks) (s : State) : PendBut ks s (srcArrive src s).1 := by
  obtain ⟨same, -⟩ | ⟨g, f, arrives⟩ := srcArrive_cases src s
  · rw [same]
    exact .refl ks s
  · rw [arrives]
    intro m out
    have other : m ≠ src := fun same => out (same ▸ inside)
    exact congrArg IctSrc.pend ((srcOf_modSrc src m (arrivedSrc src s) s).trans (if_neg other))

theorem wakeCore_srcs (c : Nat) (s : State) : (wakeCore c s).1.ict.srcs = s.ict.srcs := by
  unfold wakeCore
  split
  · rfl
  · split
    · rfl
    · dsimp only
      split
      · rw [askUp_ict, bump_ict _ _ _ _ _]
      · rfl

theorem doWakes_pendBut {ks : List Nat} (dropped : 775 ∈ ks) (l : List Nat) (s : State) : PendBut ks s (doWakes l s) := by
  unfold doWakes
  refine .forEach s fun c _ u => ?_
  have wakes : PendBut ks u (wakeCore c u).1 := .of_srcs (wakeCore_srcs c u)
  split
  · next e => rwa [e] at wakes
  · next v e =>
    rw [e] at wakes
    exact (wakes.trans (srcArrive_pendBut dropped v)).trans (.forEach _ fun d _ w => .of_srcs (wakeCore_srcs d w))

/-- An event changes the pending bits of its source and of WAKEDROP alone. -/
theorem raise_pendBut {ks : List Nat} {src : Nat} (inside : src ∈ ks) (dropped : 775 ∈ ks) (s : State) :
    PendBut ks s (raise src s) :=
  ((srcArrive_pendBut inside s).trans (doWakes_pendBut dropped _ _)).trans fun m _ => (ictSettle_linesOnly _).pend m

theorem raise_pendStay (src : Nat) (s : State) : PendStay s (raise src s) :=
  ((srcArrive_pendStay src s).trans (doWakes_pendStay _ _)).trans (ictSettle_pendStay _)

/-- Every source of a list of events is pending after them. -/
theorem forEach_raise_pends {f : Nat → Nat} {l : List Nat} {n : Nat} (listed : n ∈ l) {s : State} (powered : domUp s 213 = true) :
    (srcOf (forEach l (fun n s => raise (f n) s) s) (f n)).pend = true := by
  induction l generalizing s with
  | nil => cases listed
  | cons a l ih =>
    rw [forEach_cons]
    rcases List.mem_cons.mp listed with rfl | later
    · exact PendStay.forEach (raise (f n) s) (fun b u => raise_pendStay (f b) u) _ (raise_pends powered)
    · exact ih later ((raise_domUp ..).trans powered)

/-- The SWI sources that a value raises. -/
def swiRaised (v : List Nat) : List Nat := (List.range 8).filter fun n => bitAt (valOf v F.ICT_SWI_RAISE) n

theorem ictSwiWrite_raises {a : Acc} {s : State} (powered : domUp s 213 = true)
    (accepted : accepts .ICT_SWI 0 0 a neverBusy anyOk s = true) : Answers (.ictSwiWrite a) s fun t =>
      (∀ i ∈ swiRaised (commitVals s .ICT_SWI 0 0 a), (srcOf t (731 + i)).pend = true) ∧
      PendBut (775 :: (swiRaised (commitVals s .ICT_SWI 0 0 a)).map (731 + ·)) s t := by
  have runs : exec (.ictSwiWrite a) s = .next (forEach (swiRaised (commitVals s .ICT_SWI 0 0 a))
      (fun n s => raise (731 + n) s) (taken .ICT_SWI 0 0 a s)) := congrArg Host.Outcome.next (regCommit_taken accepted)
  refine ⟨_, runs, fun i listed => forEach_raise_pends listed ?_, ?_⟩
  · rw [domUp, taken_pwr]
    exact powered
  · refine .trans (.of_srcs (congrArg Ict.srcs (taken_ict ..))) (.forEach _ fun n listed u => ?_)
    exact raise_pendBut (List.mem_cons_of_mem _ (List.mem_map_of_mem listed)) List.mem_cons_self u

/-! ### The statement -/

/-- Settles O31: each clause is the lemma on its command; what a group becomes is `groupArrive` in its five cases. -/
theorem interruptsArriveAndAreClaimed : Obligations.InterruptsArriveAndAreClaimed := by
  unfold Obligations.InterruptsArriveAndAreClaimed
  intro src group ctx req done a s
  dsimp only
  intro base powered
  refine ⟨interruptArrival_again, fun awake known idle => ?_, groupHoldExpire_opens, fun own settled w hw ready core highest =>
    ictClaim_claims base powered own settled hw ready core highest, ictClaim_refuses base powered, fun accepted =>
    ⟨ictComplete_ignores accepted, fun own => ⟨fun _ _ => ictComplete_pops accepted own, ictComplete_counts accepted own⟩⟩,
    fun _ _ => thresholdRestore_restores, fun accepted => ?_⟩
  · have arrives {y : IctGroup} (next : groupNext src.val s = y) := interruptArrival_arrives powered awake known idle next
    exact ⟨fun st at_once => arrives (groupArrive_opens st at_once), fun st held more => arrives (groupArrive_holds st held more),
      fun st more => arrives (groupArrive_counts st more), fun st counted reached => arrives (groupArrive_reaches st counted reached),
      fun st => arrives (groupArrive_stays st)⟩
  · obtain ⟨t, runs, raised, others⟩ := ictSwiWrite_raises powered accepted
    refine ⟨t, runs, fun i hi bit => raised i (List.mem_filter.mpr ⟨List.mem_range.mpr hi, bit⟩),
      fun m drop unraised => others m ?_⟩
    intro listed
    obtain same | listed := List.mem_cons.mp listed
    · exact drop same
    · obtain ⟨i, chosen, same⟩ := List.mem_map.mp listed
      obtain ⟨small, bit⟩ := List.mem_filter.mp chosen
      exact Bool.false_ne_true ((unraised i (List.mem_range.mp small) same.symm).symm.trans bit)

end Sys2Proof.Machine

/-! States that meet the hypotheses of O31. -/

namespace Sys2Proof.Machine

theorem awake_of_listed {s : State} (first : domUp s 192 = true)
    (entries : s.ict.srcs.all (fun e => domUp s (192 + e.2.core)) = true) : Awake s :=
  tabGet_all (fun x : IctSrc => domUp s (192 + x.core)) entries first

theorem listed_of_pend {s : State} {n : Nat} (pend : (srcOf s n).pend = true) : n ∈ s.ict.srcs.map Prod.fst := by
  unfold srcOf at pend
  generalize s.ict.srcs = m at pend
  induction m with
  | nil => cases pend
  | cons e m ih =>
    rw [tabGet, tabFind] at pend
    rw [List.map_cons, List.mem_cons]
    split at pend
    · next same => exact .inl same.symm
    · exact .inr (ih pend)

theorem listed_of_deliverable {s : State} {n : Nat} (ready : deliverable s n = true) : n ∈ s.ict.srcs.map Prod.fst := by
  unfold deliverable at ready
  simp only [Bool.and_eq_true] at ready
  exact listed_of_pend ready.1.1.1.1.1

/-- The eight cores and the controller are powered, and the context of core 0 is enabled. Three sources of the OPEN group 2 are
pending, group 1 is HELD with one arrival of three, core 1 has claimed source 700, and a threshold of core 2 is to return. -/
def claimState : State :=
  { standbyState with
    now := 5000
    pwr := { standbyState.pwr with up := BitVec.ofNat 214 (2 ^ 213 + 255 * 2 ^ 192) }
    ict := { Ict.reset with
      srcs := [(600, ⟨false, 0, false, 4, 0, 1⟩), (699, ⟨true, 9, false, 5, 0, 2⟩), (721, ⟨true, 9, false, 7, 0, 2⟩),
        (722, ⟨true, 9, false, 7, 0, 2⟩)]
      groups := [(1, ⟨.held, 1, 2, 3, 1000⟩), (2, ⟨.open, 1, 0, 0, 9⟩)]
      ctxs := [(1, ⟨[(700, none)], some 4, [], none⟩), (2, ⟨[], some 9, [(4996, some 3)], none⟩)] }
    bus := { Bus.reset with regs := [(regKey .ICT_CTX_CFG 0 0 0, 0x80000000)] } }

theorem claimState_awake : Awake claimState := awake_of_listed (by decide) (by decide)

/-- An event of a new source opens its IDLE group without a hold-off. -/
theorem claimState_opens : Answers (.interruptArrival 500) claimState fun t =>
    (srcOf t 500).pend = true ∧ (groupOf t 0).st = .open := by
  obtain ⟨-, arrives, -⟩ := interruptsArriveAndAreClaimed 500 0 0 128 0 ⟨128, .normal, 0⟩ claimState rfl (by decide)
  obtain ⟨t, runs, pends, -, group, -⟩ := (arrives claimState_awake rfl rfl).1 rfl (.inl (by decide))
  exact ⟨t, runs, (pends 500).trans (by decide), congrArg IctGroup.st group⟩

/-- An event in a HELD group is counted. -/
theorem claimState_counts : Answers (.interruptArrival 600) claimState fun t =>
    groupOf t 1 = ⟨.held, 2, 2, 3, 1000⟩ ∧ groupOf t 2 = groupOf claimState 2 := by
  obtain ⟨-, arrives, -⟩ := interruptsArriveAndAreClaimed 600 0 0 128 0 ⟨128, .normal, 0⟩ claimState rfl (by decide)
  obtain ⟨t, runs, -, -, group, others⟩ := (arrives claimState_awake rfl rfl).2.2.1 rfl (.inr (by decide))
  exact ⟨t, runs, group, others 2 (by decide)⟩

/-- An event of a pending source changes no group. -/
theorem claimState_again : Answers (.interruptArrival 699) claimState fun t => t.ict.groups = claimState.ict.groups := by
  obtain ⟨again, -⟩ := interruptsArriveAndAreClaimed 699 0 0 128 0 ⟨128, .normal, 0⟩ claimState rfl (by decide)
  obtain ⟨t, runs, -, same⟩ := again rfl rfl
  exact ⟨t, runs, same⟩

/-- The hold-off of a HELD group ends. -/
theorem claimState_expires : Answers (.groupHoldExpire 1) claimState fun t => groupOf t 1 = ⟨.open, 1, 2, 3, 1000⟩ := by
  obtain ⟨-, -, expires, -⟩ := interruptsArriveAndAreClaimed 600 1 0 128 0 ⟨128, .normal, 0⟩ claimState rfl (by decide)
  obtain ⟨t, runs, group, -⟩ := expires claimState_awake rfl (by decide)
  exact ⟨t, runs, group⟩

/-- Of two sources of the highest priority core 0 claims the one of lower number. -/
theorem claimState_claims : Answers (.ictClaim 128 0) claimState fun t =>
    tabGet 0 t.bus.answers 128 = 721 ∧ (srcOf t 721).pend = false ∧ (srcOf t 722).pend = true ∧
    (ctxOf t 0).claims = [(721, none)] ∧ (ctxOf t 0).thr = some 7 := by
  obtain ⟨-, -, -, claims, -⟩ := interruptsArriveAndAreClaimed 600 1 0 128 0 ⟨128, .normal, 0⟩ claimState rfl (by decide)
  have highest : ∀ v ∈ claimState.ict.srcs.map Prod.fst, (srcOf claimState v).pri ≤ (srcOf claimState 721).pri ∧
      ((srcOf claimState v).pri = (srcOf claimState 721).pri → 721 ≤ v) := by decide
  obtain ⟨t, runs, answered, pends, pushed, thr⟩ := claims rfl rfl 721 (by decide) (by decide) rfl
    fun v ready _ => highest v (listed_of_deliverable ready)
  exact ⟨t, runs, answered, (pends 721).trans (by decide), (pends 722).trans (by decide), pushed, thr⟩

/-- Core 1 claims nothing, since no source targets it. -/
theorem claimState_refuses : Answers (.ictClaim 129 1) claimState fun t => tabGet 0 t.bus.answers 129 = 0 := by
  obtain ⟨-, -, -, -, refused, -⟩ := interruptsArriveAndAreClaimed 600 1 1 129 0 ⟨128, .normal, 0⟩ claimState rfl (by decide)
  have others : ∀ v ∈ claimState.ict.srcs.map Prod.fst, (srcOf claimState v).core ≠ 1 := by decide
  obtain ⟨t, runs, answered, -⟩ := refused (.inl fun v ready => others v (listed_of_deliverable ready))
  exact ⟨t, runs, answered⟩

/-- Core 1 completes its last claim, and its threshold is to return four cycles later. -/
theorem claimState_completes : Answers (.ictComplete 129 1 700) claimState fun t =>
    ctxOf t 1 = ⟨[], some 4, [(5004, none)], none⟩ := by
  obtain ⟨-, -, -, -, -, completes, -⟩ := interruptsArriveAndAreClaimed 600 1 1 129 700 ⟨128, .normal, 0⟩ claimState rfl
    (by decide)
  obtain ⟨t, runs, popped, -⟩ := ((completes (by decide)).2 rfl).1 [] none rfl
  exact ⟨t, runs, popped⟩

/-- Its completion of another source is counted. -/
theorem claimState_badcomp : Answers (.ictComplete 129 1 701) claimState fun t =>
    t.ict = claimState.ict ∧ fld t F.ICT_CNT_BADCOMP = 1 := by
  obtain ⟨-, -, -, -, -, completes, -⟩ := interruptsArriveAndAreClaimed 600 1 1 129 701 ⟨128, .normal, 0⟩ claimState rfl
    (by decide)
  have last : (ctxOf claimState 1).claims.head?.map Prod.fst ≠ some 701 := by decide
  obtain ⟨t, runs, same, counted⟩ := ((completes (by decide)).2 rfl).2 fun th named => last (congrArg (Option.map Prod.fst) named)
  exact ⟨t, runs, same, counted.trans (by decide)⟩

/-- The popped threshold of core 2 takes effect. -/
theorem claimState_restores : Answers (.thresholdRestore 2) claimState fun t => (ctxOf t 2).thr = some 3 := by
  obtain ⟨-, -, -, -, -, -, restores, -⟩ := interruptsArriveAndAreClaimed 600 1 2 130 0 ⟨128, .normal, 0⟩ claimState rfl
    (by decide)
  obtain ⟨t, runs, thr, -⟩ := restores 4996 (some 3) rfl (by decide)
  exact ⟨t, runs, thr⟩

/-- A write of ICT_SWI raises the sources of its bits and leaves another pending source as it was. -/
theorem claimState_raises : Answers (.ictSwiWrite ⟨128, .normal, 0x81⟩) claimState fun t =>
    (srcOf t 731).pend = true ∧ (srcOf t 738).pend = true ∧ (srcOf t 732).pend = false ∧ (srcOf t 721).pend = true := by
  obtain ⟨-, -, -, -, -, -, -, writes⟩ := interruptsArriveAndAreClaimed 600 1 2 130 0 ⟨128, .normal, 0x81⟩ claimState rfl
    (by decide)
  have value : valOf (commitVals claimState .ICT_SWI 0 0 ⟨128, .normal, 0x81⟩) F.ICT_SWI_RAISE = 0x81 := by decide
  rw [value] at writes
  obtain ⟨t, runs, raised, others⟩ := writes (by decide)
  exact ⟨t, runs, raised 0 (by decide) (by decide), raised 7 (by decide) (by decide), others 732 (by decide) (by decide),
    others 721 (by decide) (by decide)⟩

end Sys2Proof.Machine

/-! O5: what each command leaves unchanged (spec/95; spec/02 R56, R68; spec/17 R674, R687; spec/20 R787, R796). -/

namespace Sys2Proof.Machine

/-- Settles O5: `exec_upto`, the frame rule of every command, speaks of the footprint as a set of parts, and a part that
the list does not name is outside that set. -/
theorem commandsStayInTheirFootprint : Obligations.CommandsStayInTheirFootprint := by
  unfold Obligations.CommandsStayInTheirFootprint
  intro c s t p runs outside
  have agrees : Upto (maskOf (footprint c)) s t := (exec_upto c s).upto t runs
  exact agrees.unnamed outside

/-! ### A command that meets the statement's hypotheses -/

/-- In STANDBY a refresh of channel 0 goes to the next bank: the RLD part, which its footprint names, changes, and power,
which it does not name, stays in STANDBY. -/
theorem upsetState_refreshes : Answers (.rldRefresh 0) upsetState fun t =>
    ¬ Part.rld.same upsetState t ∧ t.pwr = upsetState.pwr := by
  obtain ⟨t, runs, next⟩ := rldRefresh_advances (ch := 0) (s := upsetState) (by decide) rfl
  have keptPower : Part.pwr.same upsetState t :=
    commandsStayInTheirFootprint (.rldRefresh 0) upsetState t .pwr runs (by decide)
  refine ⟨t, runs, ?_, keptPower⟩
  rintro ⟨-, -, -, channels, -⟩
  have idle : mchOf t 0 = mchOf upsetState 0 := congrArg (fun l => tabGet Mch.reset l 0) channels
  exact absurd (next.symm.trans idle) (by decide)

end Sys2Proof.Machine

/-! O3: every command completes (spec/95; the refusals of spec/01 R79 and spec/02 R857 are next states too). -/

namespace Sys2Proof.Machine

/-- The outcome is a next state. -/
def Completes (o : Out) : Prop := ∃ t, o = .next t

theorem Completes.next (t : State) : Completes (.next t) := ⟨t, rfl⟩

theorem Completes.ite {c : Prop} [Decidable c] {a b : Out} (ha : Completes a) (hb : Completes b) :
    Completes (if c then a else b) := by
  split
  · exact ha
  · exact hb

/-- The commands by the shape of their meaning: conditions alone, then matches, then the meanings that answer their one
next state outright. -/
theorem exec_completes (c : Instr) (s : State) : Completes (exec c s) := by
  cases c with
  | groupHoldExpire | ptpSyncReceive | ptpAnnounceReceive | trainingTimeout | failRetry | lfiIdleNotice
  | tallyHistogramSample | mailboxTimeout | localStoreZeroDone | skeinZeroDone | flitReplay | helloSend | sthHello
  | joinAnswer | phaseSend | tileBlockReceive | epochAdvance | queueMonitorSample | ethLinkUp | magLost | vawnUp | vawnDown
  | fclReport | jointAllocation | stageShareSend | seedRecord | unitLossDeclare | rldRead | rldWrite | bayReady | rldRefresh
  | trainingFailure | unlockExpire | remoteAccessTimeout | slotFire | ptpDelayReqSend | alignReceive | skeinScrubStep
  | flitForward | sthJoin | placementQueryReceive | phaseFlit | inboundRequest | stageShareMissed =>
    exact .ite (.next _) (.next _)
  | tinEdge | trainReceive | rspRead | rspWake | flitCrcError | egressSelect | apertureWrite | wakeEvent | pfwCommit | resetN
  | thermalRefresh | rowStart | jtagSecunlk | porterBurst | ledgerScan =>
    exact .ite (.next _) <| .ite (.next _) (.next _)
  | blockLockLoss => exact .ite (.next _) <| .ite (.next _) <| .ite (.next _) (.next _)
  | forcedRetrain => exact .ite (.ite (.next _) <| .ite (.next _) (.next _)) (.next _)
  | frameReceive =>
    exact .ite (.next _) <| .ite (.next _) <| .ite (.next _) <| .ite (.next _) <| .ite (.next _) (.next _)
  | domainSwitchDone | awningStart | nanoBankLoadDone | magSlow | pwrgdFall | retrainPauseEnd | diagReadComplete =>
    dsimp only [exec, execDomainSwitchDone, execAwningStart, execNanoBankLoadDone, execMagSlow, execPwrgdFall,
      execRetrainPauseEnd, execDiagReadComplete]
    split <;> exact .next _
  | tallyLoad | distributorLineDeliver | learnRequest | classifierPass | landingSubmit | pcieLinkUp | pfwN | castOn =>
    dsimp only [exec, execTallyLoad, execDistributorLineDeliver, execLearnRequest, execClassifierPass, execLandingSubmit,
      execPcieLinkUp, execPfwN, execCastOn]
    refine .ite (.next _) ?_
    split <;> exact .next _
  | rldScrub =>
    dsimp only [exec, execRldScrub]
    refine .ite ?_ (.next _)
    split <;> exact .next _
  | tileSendPoll =>
    dsimp only [exec, execTileSendPoll]
    refine .ite (.next _) <| .ite (.next _) ?_
    split <;> exact .next _
  | readApertureRead =>
    dsimp only [exec, execReadApertureRead]
    refine .ite (.next _) <| .ite (.next _) <| .ite (.next _) ?_
    split <;> exact .next _
  | ptpDelayRespReceive | phasePulseEnd | lineDeadline | ageingSweepStep | gateDrop | codedPictureRecord | mgperstRelease
  | domfail =>
    dsimp only [exec, execPtpDelayRespReceive, execPhasePulseEnd, execLineDeadline, execAgeingSweepStep, execGateDrop,
      execCodedPictureRecord, execMgperstRelease, execDomfail]
    split
    · exact .ite (.next _) (.next _)
    · exact .next _
  | lanewordLaunch | txwSend | pictureCloseTimeout =>
    dsimp only [exec, execLanewordLaunch, execTxwSend, execPictureCloseTimeout]
    split
    · exact .next _
    · exact .ite (.next _) (.next _)
  | xvlate | cfgpar =>
    dsimp only [exec, execXvlate, execCfgpar]
    split
    · exact .next _
    · exact .ite (.next _) <| .ite (.next _) (.next _)
  | stitchLinkLost =>
    dsimp only [exec, execStitchLinkLost]
    split
    · exact .next _
    · exact .ite (.next _) <| .ite (.next _) <| .ite (.next _) <| .ite (.next _) (.next _)
  | codedUnitReceive =>
    dsimp only [exec, execCodedUnitReceive]
    split
    · exact .next _
    · exact .ite (.next _) <| .ite (.next _) <| .ite (.next _) <| .ite (.next _) <| .ite (.next _) <|
        .ite (.next _) (.next _)
  | tileCidxPoll =>
    dsimp only [exec, execTileCidxPoll]
    refine .ite (.next _) ?_
    split
    · exact .next _
    · exact .ite (.next _) (.next _)
  | unloadComplete =>
    dsimp only [exec, execUnloadComplete]
    refine .ite (.next _) ?_
    split
    · exact .ite (.next _) (.next _)
    · exact .next _
  | journalSubmit =>
    dsimp only [exec, execJournalSubmit]
    refine .ite (.next _) ?_
    split
    · exact .ite (.ite (.next _) (.next _)) (.next _)
    · exact .ite (.next _) (.next _)
  | magazineScan =>
    dsimp only [exec, execMagazineScan]
    refine .ite (.next _) <| .ite (.ite (.next _) (.next _)) <| .ite (.next _) ?_
    split
    · exact .ite (.next _) (.next _)
    · exact .next _
  | nanoWordExecute =>
    dsimp only [exec, execNanoWordExecute]
    refine .ite (.next _) ?_
    split
    · exact .next _
    · exact .ite (.next _) <| .ite (.next _) <| .ite (.next _) (.next _)
  | descriptorFetch =>
    dsimp only [exec, execDescriptorFetch]
    refine .ite (.next _) <| .ite (.next _) ?_
    split
    · exact .next _
    · exact .next _
    · exact .ite (.next _) (.next _)
  | decodeOutput =>
    dsimp only [exec, execDecodeOutput]
    refine .ite (.next _) ?_
    split
    · exact .next _
    · exact .next _
    · exact .ite (.next _) (.next _)
  | ledgerRecordWrite =>
    dsimp only [exec, execLedgerRecordWrite]
    refine .ite (.next _) ?_
    split
    · exact .next _
    · refine .ite (.next _) ?_
      split <;> exact .next _
  | journalWriteComplete | imageCheckComplete | xferComplete =>
    dsimp only [exec, execJournalWriteComplete, execImageCheckComplete, execXferComplete]
    split
    · exact .next _
    · refine .ite (.next _) ?_
      split <;> exact .next _
  | gaugeReport =>
    dsimp only [exec, execGaugeReport]
    split
    · exact .next _
    · split <;> exact .next _
  | placementCheckTimeout | magazineInputDeliver =>
    dsimp only [exec, execPlacementCheckTimeout, execMagazineInputDeliver]
    split
    · split
      · exact .ite (.next _) (.next _)
      · exact .next _
    · exact .next _
  | nvmeReadComplete =>
    dsimp only [exec, execNvmeReadComplete]
    split
    · exact .ite (.next _) (.next _)
    · split
      · exact .ite (.next _) (.next _)
      · exact .next _
  | nvmeWriteComplete =>
    dsimp only [exec, execNvmeWriteComplete]
    split
    · exact .next _
    · split
      · refine .ite (.next _) ?_
        split <;> exact .next _
      · exact .next _
  | horizWordExecute =>
    dsimp only [exec, execHorizWordExecute]
    refine .ite (.next _) <| .ite (.next _) ?_
    split
    · exact .next _
    · split
      · exact .next _
      · exact .ite (.next _) (.next _)
  | _ => exact .next _

/-- Settles O3: no branch of a command's meaning ends in a fault or a refusal. -/
theorem everyCommandCompletes : Obligations.EveryCommandCompletes := by
  unfold Obligations.EveryCommandCompletes
  exact exec_completes

/-! O4, O1 and O2: the queue of waiting commands and the cycles, which are the model's form of the commands' arrival
(log entry 1). -/

/-- Settles O4: `exec_upto`, the frame rule of every command, keeps the queue and the cycle count whatever the footprint. -/
theorem commandsKeepQueueAndClock : Obligations.CommandsKeepQueueAndClock := by
  unfold Obligations.CommandsKeepQueueAndClock
  intro c s t runs
  have keeps : Upto (maskOf (footprint c)) s t := (exec_upto c s).upto t runs
  exact ⟨keeps.pending, keeps.now⟩

theorem step_of_cons {c : Instr} {rest : List Instr} {s : State} (front : s.pending = c :: rest) :
    step s = exec c { s with pending := rest } := by
  rw [step, front]

theorem step_of_nil {s : State} (empty : s.pending = []) : step s = .next (tick s) := by
  rw [step, empty]

theorem tick_pending (s : State) : (tick s).pending = s.pending :=
  (pwrTick_upto (Upto.refl 0x3fffffffff _) (Sub.refl _)).pending.trans (engine_upto s).pending

theorem tick_now (s : State) : (tick s).now = s.now + 1 :=
  calc (tick s).now = (if domUp s 201 then ftEngine s else s).now + 1 :=
        (pwrTick_upto (Upto.refl 0x3fffffffff _) (Sub.refl _)).now
    _ = s.now + 1 := congrArg (· + 1) (engine_upto s).now

/-- Settles O1: by the second branch of `step`. -/
theorem stepRunsFrontCommand : Obligations.StepRunsFrontCommand := by
  unfold Obligations.StepRunsFrontCommand
  intro c rest s front
  exact step_of_cons front

/-- Settles O2: neither the flow table's engine nor PWR's waits touch the queue or the cycle count. -/
theorem emptyQueuePassesOneCycle : Obligations.EmptyQueuePassesOneCycle := by
  unfold Obligations.EmptyQueuePassesOneCycle
  intro s empty
  exact ⟨tick s, step_of_nil empty, tick_now s, (tick_pending s).trans empty⟩

/-! ### States that meet the statements' hypotheses -/

/-- After reset no command waits, and a step is the first fabric cycle. -/
theorem reset_passesOneCycle : ∃ t, step State.reset = .next t ∧ t.now = 1 ∧ t.pending = [] :=
  emptyQueuePassesOneCycle State.reset rfl

/-- A refresh and the end of a read window wait. -/
def queuedState : State := { upsetState with pending := [.rldRefresh 0, .rdWindowEnd 0] }

/-- There a step completes the refresh, takes no cycle and leaves the other command waiting. -/
theorem queuedState_runsFront : ∃ t, step queuedState = .next t ∧ t.pending = [.rdWindowEnd 0] ∧ t.now = 0 := by
  obtain ⟨t, runs⟩ := everyCommandCompletes (.rldRefresh 0) { queuedState with pending := [.rdWindowEnd 0] }
  obtain ⟨queue, clock⟩ := commandsKeepQueueAndClock _ _ t runs
  exact ⟨t, (stepRunsFrontCommand _ _ queuedState rfl).trans runs, queue, clock⟩

end Sys2Proof.Machine
